-- ==== Sys2Proof/Word.lean ====
section
/-! DEFINITION. Sys2Proof/Word.lean: the word types of the ZF8800 and nothing else. Every helper that takes a word apart
stands in Machine/ (Table.lean, Ops.lean), where it can be mended. -/

namespace Sys2Proof

/-- One byte of the device address space. -/
abbrev Byte := BitVec 8

/-- A 64-bit register, scalar register or memory word (spec/00_scope.md R4, R5). -/
abbrev Word := BitVec 64

/-- A 128-bit cell header (spec/02_cells_and_routes.md R24). -/
abbrev Hdr := BitVec 128

/-- The 64-byte payload of a cell, read as one little-endian number (spec/05_number_formats.md R113). -/
abbrev Payload := BitVec 512

/-- A vector register, 2,048 bits (spec/06_flume_tile.md R136). -/
abbrev VReg := BitVec 2048

/-- A mask register, 256 bits (spec/06_flume_tile.md R136). -/
abbrev MReg := BitVec 256

end Sys2Proof
end

