-- ==== Sys2Proof/Syntax.lean ====
section
/-! DEFINITION. Sys2Proof/Syntax.lean: the commands of the block, one constructor of Instr per row of
spec/opcode_table.json, and the plain data their operands are made of. The table gives no operand fields, so the operands
are what the rule of the row says the event is about (log entry 9). -/

namespace Sys2Proof

/-- An 80-byte cell: a 16-byte header and 64 bytes of payload (spec/02_cells_and_routes.md R24). -/
structure Cell where
  hdr : Hdr
  pay : Payload
  deriving DecidableEq, Repr

/-- What a device-internal request asks of the agent that owns its address (spec/06_flume_tile.md R142;
spec/07_instruction_set.md R199, Table 7-19). -/
inductive ReqKind where
  | load (bytes : Nat)
  | store (mask : Word) (line : Payload)
  | atomic (fn : Nat) (wide : Bool) (unsig : Bool) (operand compare : Word)
  deriving DecidableEq, Repr

/-- Which hold times of Table 15-1 the input has met: 100 µs of a voltage range, 20 µs of a current above 66 A
(spec/15_power_clocks_security.md R407). -/
structure HeldFor where
  voltage : Bool
  current : Bool
  deriving DecidableEq, Repr

/-- A device-internal request cell: one 64-byte line at most, with the context and generation of its thread
(spec/06_flume_tile.md R142, spec/11_memory_and_pools.md R304). `tag` numbers the requests of one tile. -/
structure Request where
  tile : Nat
  thread : Nat
  tag : Nat
  ctx : Nat
  gen : Nat
  addr : Nat
  kind : ReqKind
  deriving DecidableEq, Repr

/-- How a request ended, as spec/07_instruction_set.md Table 7-20 tells the outcomes of a response apart. -/
inductive RspStatus where
  | ok | address | protection | closed | data
  deriving DecidableEq, Repr

/-- The response cell of a request: its status and the line it returns (spec/06_flume_tile.md R142). -/
structure Response where
  tile : Nat
  thread : Nat
  tag : Nat
  status : RspStatus
  data : Payload
  deriving DecidableEq, Repr

/-- One received codeword after the RS(544,514) decoder (spec/12_lanes_and_links.md R321, R322, R332): whether it
was correctable, the corrected symbols per logical lane, and the 5,140 message bits as scrambled on the line, with
b0 as bit 5,139. `due` says of an uncorrectable codeword that it is the first of the replay asked for (R333): the spec
does not say how the receiver knows it (log entry 43). -/
structure RxCodeword where
  uncorrectable : Bool
  due : Bool
  corrected : List (Nat × Nat)
  msg : BitVec 5140
  deriving DecidableEq, Repr

/-- 5,440 bits received on a lane (spec/12_lanes_and_links.md R325, R341): a marker of 128 bits first, where they are a
training block, and 5,312 bits more. -/
structure LaneBlock where
  marker : BitVec 128
  data : BitVec 5312
  deriving DecidableEq, Repr

/-- An element group of a Weir entry at its end, and whether the residue code of an adder failed in it
(spec/08_weir_reduction.md R214, R217). -/
structure GroupEnd where
  group : Fin 256
  residue : Bool
  deriving DecidableEq, Repr

/-- A step of an EHT, which has its own ROLL timer (spec/10_expert_and_headwater.md R273). -/
structure EhtStep where
  eht : Fin 16
  step : BitVec 32
  deriving DecidableEq, Repr

/-- A combine entry of an EHT (spec/10_expert_and_headwater.md R278, R280). -/
structure CombName where
  eht : Fin 16
  cent : BitVec 11
  deriving DecidableEq, Repr

/-- A head cell and its data cells (spec/10_expert_and_headwater.md R263). -/
structure HeadMsg where
  head : Cell
  data : List Cell
  deriving DecidableEq, Repr

/-- Where a host frame came from: MAC address, IP address, UDP port (spec/13_host_port_and_control.md R346). -/
structure HostAddr where
  mac : BitVec 48
  v6 : Bool
  ip : BitVec 128
  udp : BitVec 16
  deriving DecidableEq, Repr

/-- One UDP datagram that carries ZCT: its sender, the address and UDP port it is sent to, the 32-byte header, the body and the
64-byte MAC (spec/13_host_port_and_control.md R346, R347, Table 13-1). -/
structure ZctMsg where
  src : HostAddr
  dst : BitVec 128
  port : BitVec 16
  magic : BitVec 16
  version : Byte
  session : BitVec 16
  length : BitVec 16
  seq : Word
  reqId : Word
  body : List Byte
  mac : List Byte
  deriving DecidableEq, Repr

/-- One entry of an intake ring as the module takes it (spec/13_host_port_and_control.md R355, Table 13-6): the
context and ring it stands on, its index, bit 0 of FLAGS, COOKIE, and ARGS bytes 16-63 as one little-endian
number. -/
structure RingCmd where
  ctx : BitVec 12
  ring : Fin 64
  index : Word
  event : Bool
  cookie : Word
  args : BitVec 384
  deriving DecidableEq, Repr

/-- What a patrol or an access finds in one protected word or burst (spec/11_memory_and_pools.md R297, R300). -/
inductive EccResult where
  | clean | corrected | uncorrectable
  deriving DecidableEq, Repr

/-- The classes of Spillway events (spec/14_faults_and_recovery.md R371, Table 14-1), in the order of CLASS. -/
inductive EvClass where
  | N | C | E | P | D | F
  deriving DecidableEq, Repr

/-- Who sends a request to the buffer pool manager (spec/11_memory_and_pools.md R308, R310, Table 11-7). -/
inductive Requester where
  | watermaster
  | dispatcher
  | mgmt
  | capture
  | relay
  | agent (ctx : Nat) (input : Nat)
  deriving DecidableEq, Repr

/-- An Ethernet frame of the host port that carries no ZCT (spec/13_host_port_and_control.md R346): for `arpNd` the
address asked for, for `echo` the destination address and the payload. -/
structure HostFrame where
  src : HostAddr
  target : BitVec 128
  payload : List Byte
  deriving DecidableEq, Repr

/-- The commands of the block: one constructor per row of spec/opcode_table.json, in the table's order. A tile
instruction carries the logical tile, the thread and bits [55:0] of its 64-bit word (MOD and the layout of Table
7-2); its class and function are the constructor. -/
inductive Instr where
  /-- REGISTER_WRITE (R6) -/
  | registerWrite (reg : BitVec 48) (value sets : Word)
  /-- RC_READ (R7) -/
  | rcRead (reg : BitVec 48) (update : Word)
  /-- CODEWORD_RECEIVE (R332) -/
  | codewordReceive (port : Fin 1024) (cw : RxCodeword)
  /-- CODEWORD_SEND (R321) -/
  | codewordSend (port : Fin 1024)
  /-- REPLAY_TMO (R333) -/
  | replayTmo (port : Fin 1024)
  /-- CELL_RECEIVE (R33) -/
  | cellReceive (port : Fin 1024) (cell : Cell)
  /-- TURNOUT_REPLICATE (R68) -/
  | turnoutReplicate (input : Fin 1298)
  /-- FAIL_GAP_EXPIRY (R60) -/
  | failGapExpiry (src : BitVec 17) (port : BitVec 10)
  /-- ECHO_GAP_EXPIRY (R57) -/
  | echoGapExpiry (src : BitVec 17) (tc : Fin 8)
  /-- SLUICE_SELECT (R93) -/
  | sluiceSelect (port : Fin 1024)
  /-- INTERNAL_OUTPUT_SELECT (R96) -/
  | internalOutputSelect (output : Fin 274)
  /-- CROSSBAR_TRANSFER (R10) -/
  | crossbarTransfer
  /-- SLOT_FREE (R69) -/
  | slotFree (slot : BitVec 22)
  /-- MIR_FLUSH (R87) -/
  | mirFlush (session : Fin 16)
  /-- CALENDAR_SLOT_EXPIRY (R97) -/
  | calendarSlotExpiry (slot : Fin 4096)
  /-- GATE_ENTRY_BOUNDARY (R100) -/
  | gateEntryBoundary (port : Fin 1024)
  /-- GATE_SWITCHOVER (R102) -/
  | gateSwitchover (port : Fin 1024)
  /-- GATE_ARM (R101) -/
  | gateArm (port : Fin 1024) (value : Word)
  /-- CANCEL (R103) -/
  | cancel (port : Fin 1024)
  /-- GATE_ENTRY_WRITE (R101) -/
  | gateEntryWrite (port : Fin 1024) (bank : Fin 2) (entry : Fin 64) (value : Word)
  /-- HEADGATE_REFILL (R105) -/
  | headgateRefill
  /-- SAMPLER_PERIOD (R107) -/
  | samplerPeriod
  /-- CLEAR (R108) -/
  | clear
  /-- HIST_CLEAR_DONE (R108) -/
  | histClearDone
  /-- SWITCH_ID_WRITE (R65) -/
  | switchIdWrite (value : Word)
  /-- PORT_DOWN (R42) -/
  | portDown (port : Fin 1024) (reason : BitVec 4)
  /-- PORT_DRAIN_COMPLETE (R328) -/
  | portDrainComplete (port : Fin 1024)
  /-- OCTET_POWER_ON (R320) -/
  | octetPowerOn
  /-- TRAINING_BLOCK_RECEIVE (R326) -/
  | trainingBlockReceive (port : Fin 1024) (lane : Fin 8) (block : LaneBlock)
  /-- TRAIN_TMO (R327) -/
  | trainTmo (port : Fin 1024)
  /-- HELLO_SEND (R335) -/
  | helloSend (port : Fin 1024)
  /-- HELLO_RECEIVE (R335) -/
  | helloReceive (port : Fin 1024) (cells : List Cell)
  /-- HELLO_CHECK_COMPLETE (R336) -/
  | helloCheckComplete (port : Fin 1024)
  /-- HELLO_TMO (R328) -/
  | helloTmo (port : Fin 1024)
  /-- LOS (R329) -/
  | los (lane : Fin 1024)
  /-- LOL (R329) -/
  | lol (lane : Fin 1024)
  /-- LANE_SER_WINDOW (R329) -/
  | laneSerWindow (lane : Fin 1024)
  /-- NARROW_RESUME (R331) -/
  | narrowResume (port : Fin 1024) (nextN : BitVec 11)
  /-- NARROW_FAIL (R331) -/
  | narrowFail (port : Fin 1024)
  /-- OCTET_FAULT (R330) -/
  | octetFault (octet : Fin 128)
  /-- OCTET_CLOCK_RECHOOSE (R416) -/
  | octetClockRechoose (octet : Fin 128) (fastest : Option (Fin 8))
  /-- ENABLE (R328) -/
  | enable (port : Fin 1024) (value : Bool)
  /-- LOOP (R340) -/
  | loop (port : Fin 1024) (value : BitVec 2)
  /-- RETRAIN (R330) -/
  | retrain (port : Fin 1024)
  /-- LINK_CTL_IGNORED (R343) -/
  | linkCtlIgnored (port : Fin 1024) (value : Word)
  /-- ADOPT_WIRING (R338) -/
  | adoptWiring (cmd : RingCmd)
  /-- TILE_REQUEST_SERVE (R142) -/
  | tileRequestServe (tile : Fin 256) (req : Request)
  /-- MEMORY_PORT_REQUEST (R145) -/
  | memoryPortRequest (mport : Fin 16) (req : Request)
  /-- MGMT_PORT_REQUEST (R17) -/
  | mgmtPortRequest (req : Request)
  /-- LOAD_RESPONSE (R202) -/
  | loadResponse (tile : Fin 256) (rsp : Response)
  /-- STREAM_LINE_COMPLETE (R143) -/
  | streamLineComplete (tile : Fin 256) (rsp : Response)
  /-- ADD (R176) -/
  | iAdd (tile : Fin 256) (thread : Fin 16) (w : BitVec 56)
  /-- SUB (R176) -/
  | iSub (tile : Fin 256) (thread : Fin 16) (w : BitVec 56)
  /-- AND (R176) -/
  | iAnd (tile : Fin 256) (thread : Fin 16) (w : BitVec 56)
  /-- OR (R176) -/
  | iOr (tile : Fin 256) (thread : Fin 16) (w : BitVec 56)
  /-- XOR (R176) -/
  | iXor (tile : Fin 256) (thread : Fin 16) (w : BitVec 56)
  /-- SHL (R176) -/
  | iShl (tile : Fin 256) (thread : Fin 16) (w : BitVec 56)
  /-- SHR (R176) -/
  | iShr (tile : Fin 256) (thread : Fin 16) (w : BitVec 56)
  /-- SRA (R176) -/
  | iSra (tile : Fin 256) (thread : Fin 16) (w : BitVec 56)
  /-- MUL (R176) -/
  | iMul (tile : Fin 256) (thread : Fin 16) (w : BitVec 56)
  /-- MULH (R176) -/
  | iMulh (tile : Fin 256) (thread : Fin 16) (w : BitVec 56)
  /-- MIN_MAX (R176) -/
  | iMinMax (tile : Fin 256) (thread : Fin 16) (w : BitVec 56)
  /-- SLT (R176) -/
  | iSlt (tile : Fin 256) (thread : Fin 16) (w : BitVec 56)
  /-- SLTU (R176) -/
  | iSltu (tile : Fin 256) (thread : Fin 16) (w : BitVec 56)
  /-- SEQ (R176) -/
  | iSeq (tile : Fin 256) (thread : Fin 16) (w : BitVec 56)
  /-- SEL (R176) -/
  | iSel (tile : Fin 256) (thread : Fin 16) (w : BitVec 56)
  /-- ADDI (R176) -/
  | iAddi (tile : Fin 256) (thread : Fin 16) (w : BitVec 56)
  /-- CLZ_CTZ_POPC (R176) -/
  | iClzCtzPopc (tile : Fin 256) (thread : Fin 16) (w : BitVec 56)
  /-- ANDI (R176) -/
  | iAndi (tile : Fin 256) (thread : Fin 16) (w : BitVec 56)
  /-- ORI (R176) -/
  | iOri (tile : Fin 256) (thread : Fin 16) (w : BitVec 56)
  /-- XORI (R176) -/
  | iXori (tile : Fin 256) (thread : Fin 16) (w : BitVec 56)
  /-- SHLI (R176) -/
  | iShli (tile : Fin 256) (thread : Fin 16) (w : BitVec 56)
  /-- SHRI (R176) -/
  | iShri (tile : Fin 256) (thread : Fin 16) (w : BitVec 56)
  /-- SRAI (R176) -/
  | iSrai (tile : Fin 256) (thread : Fin 16) (w : BitVec 56)
  /-- MULI (R176) -/
  | iMuli (tile : Fin 256) (thread : Fin 16) (w : BitVec 56)
  /-- SLTI (R176) -/
  | iSlti (tile : Fin 256) (thread : Fin 16) (w : BitVec 56)
  /-- SLTIU (R176) -/
  | iSltiu (tile : Fin 256) (thread : Fin 16) (w : BitVec 56)
  /-- SEQI (R176) -/
  | iSeqi (tile : Fin 256) (thread : Fin 16) (w : BitVec 56)
  /-- LI (R176) -/
  | iLi (tile : Fin 256) (thread : Fin 16) (w : BitVec 56)
  /-- LIH (R176) -/
  | iLih (tile : Fin 256) (thread : Fin 16) (w : BitVec 56)
  /-- BEQ (R177) -/
  | iBeq (tile : Fin 256) (thread : Fin 16) (w : BitVec 56)
  /-- BNE (R177) -/
  | iBne (tile : Fin 256) (thread : Fin 16) (w : BitVec 56)
  /-- BLT (R177) -/
  | iBlt (tile : Fin 256) (thread : Fin 16) (w : BitVec 56)
  /-- BGE (R177) -/
  | iBge (tile : Fin 256) (thread : Fin 16) (w : BitVec 56)
  /-- BLTU (R177) -/
  | iBltu (tile : Fin 256) (thread : Fin 16) (w : BitVec 56)
  /-- BGEU (R177) -/
  | iBgeu (tile : Fin 256) (thread : Fin 16) (w : BitVec 56)
  /-- JAL (R177) -/
  | iJal (tile : Fin 256) (thread : Fin 16) (w : BitVec 56)
  /-- JR (R177) -/
  | iJr (tile : Fin 256) (thread : Fin 16) (w : BitVec 56)
  /-- RDSR (R177) -/
  | iRdsr (tile : Fin 256) (thread : Fin 16) (w : BitVec 56)
  /-- END (R178) -/
  | iEnd (tile : Fin 256) (thread : Fin 16) (w : BitVec 56)
  /-- BRK (R179) -/
  | iBrk (tile : Fin 256) (thread : Fin 16) (w : BitVec 56)
  /-- NOP (R177) -/
  | iNop (tile : Fin 256) (thread : Fin 16) (w : BitVec 56)
  /-- LD (R180) -/
  | iLd (tile : Fin 256) (thread : Fin 16) (w : BitVec 56)
  /-- ST (R180) -/
  | iSt (tile : Fin 256) (thread : Fin 16) (w : BitVec 56)
  /-- VLD (R181) -/
  | iVld (tile : Fin 256) (thread : Fin 16) (w : BitVec 56)
  /-- VST (R181) -/
  | iVst (tile : Fin 256) (thread : Fin 16) (w : BitVec 56)
  /-- SIN (R182) -/
  | iSin (tile : Fin 256) (thread : Fin 16) (w : BitVec 56)
  /-- SOUT (R182) -/
  | iSout (tile : Fin 256) (thread : Fin 16) (w : BitVec 56)
  /-- VADD (R183) -/
  | iVadd (tile : Fin 256) (thread : Fin 16) (w : BitVec 56)
  /-- VSUB (R183) -/
  | iVsub (tile : Fin 256) (thread : Fin 16) (w : BitVec 56)
  /-- VMUL (R183) -/
  | iVmul (tile : Fin 256) (thread : Fin 16) (w : BitVec 56)
  /-- VMIN (R183) -/
  | iVmin (tile : Fin 256) (thread : Fin 16) (w : BitVec 56)
  /-- VMAX (R183) -/
  | iVmax (tile : Fin 256) (thread : Fin 16) (w : BitVec 56)
  /-- VAND (R183) -/
  | iVand (tile : Fin 256) (thread : Fin 16) (w : BitVec 56)
  /-- VOR (R183) -/
  | iVor (tile : Fin 256) (thread : Fin 16) (w : BitVec 56)
  /-- VXOR (R183) -/
  | iVxor (tile : Fin 256) (thread : Fin 16) (w : BitVec 56)
  /-- VSHL (R183) -/
  | iVshl (tile : Fin 256) (thread : Fin 16) (w : BitVec 56)
  /-- VSHR (R183) -/
  | iVshr (tile : Fin 256) (thread : Fin 16) (w : BitVec 56)
  /-- VCMP (R183) -/
  | iVcmp (tile : Fin 256) (thread : Fin 16) (w : BitVec 56)
  /-- VSEL (R183) -/
  | iVsel (tile : Fin 256) (thread : Fin 16) (w : BitVec 56)
  /-- VBCAST (R183) -/
  | iVbcast (tile : Fin 256) (thread : Fin 16) (w : BitVec 56)
  /-- VEXT (R183) -/
  | iVext (tile : Fin 256) (thread : Fin 16) (w : BitVec 56)
  /-- VPOP (R163) -/
  | iVpop (tile : Fin 256) (thread : Fin 16) (w : BitVec 56)
  /-- MAND (R183) -/
  | iMand (tile : Fin 256) (thread : Fin 16) (w : BitVec 56)
  /-- MOR (R183) -/
  | iMor (tile : Fin 256) (thread : Fin 16) (w : BitVec 56)
  /-- MXOR (R183) -/
  | iMxor (tile : Fin 256) (thread : Fin 16) (w : BitVec 56)
  /-- MNOT (R183) -/
  | iMnot (tile : Fin 256) (thread : Fin 16) (w : BitVec 56)
  /-- MPOP (R183) -/
  | iMpop (tile : Fin 256) (thread : Fin 16) (w : BitVec 56)
  /-- MINS (R183) -/
  | iMins (tile : Fin 256) (thread : Fin 16) (w : BitVec 56)
  /-- MEXT (R183) -/
  | iMext (tile : Fin 256) (thread : Fin 16) (w : BitVec 56)
  /-- VFADD (R184) -/
  | iVfadd (tile : Fin 256) (thread : Fin 16) (w : BitVec 56)
  /-- VFSUB (R184) -/
  | iVfsub (tile : Fin 256) (thread : Fin 16) (w : BitVec 56)
  /-- VFMUL (R184) -/
  | iVfmul (tile : Fin 256) (thread : Fin 16) (w : BitVec 56)
  /-- VFMA (R184) -/
  | iVfma (tile : Fin 256) (thread : Fin 16) (w : BitVec 56)
  /-- VFMAX (R133) -/
  | iVfmax (tile : Fin 256) (thread : Fin 16) (w : BitVec 56)
  /-- VFMIN (R133) -/
  | iVfmin (tile : Fin 256) (thread : Fin 16) (w : BitVec 56)
  /-- VFCMP (R184) -/
  | iVfcmp (tile : Fin 256) (thread : Fin 16) (w : BitVec 56)
  /-- VFABS_VFNEG_VFCSGN (R184) -/
  | iVfabsVfnegVfcsgn (tile : Fin 256) (thread : Fin 16) (w : BitVec 56)
  /-- CVT (R187) -/
  | iCvt (tile : Fin 256) (thread : Fin 16) (w : BitVec 56)
  /-- VBAMAX (R188) -/
  | iVbamax (tile : Fin 256) (thread : Fin 16) (w : BitVec 56)
  /-- CVT_SCALE (R188) -/
  | iCvtScale (tile : Fin 256) (thread : Fin 16) (w : BitVec 56)
  /-- VPACK (R189) -/
  | iVpack (tile : Fin 256) (thread : Fin 16) (w : BitVec 56)
  /-- MMA (R149) -/
  | iMma (tile : Fin 256) (thread : Fin 16) (w : BitVec 56)
  /-- MMA_START (R150) -/
  | mmaStart (tile : Fin 256)
  /-- MMA_ABORT (R158) -/
  | mmaAbort (tile : Fin 256)
  /-- MMA_COMPLETE (R160) -/
  | mmaComplete (tile : Fin 256)
  /-- DRAIN (R162) -/
  | iDrain (tile : Fin 256) (thread : Fin 16) (w : BitVec 56)
  /-- DRAIN_READ (R162) -/
  | drainRead (tile : Fin 256)
  /-- ACQ (R153) -/
  | iAcq (tile : Fin 256) (thread : Fin 16) (w : BitVec 56)
  /-- ACQ_BIND (R153) -/
  | acqBind (tile : Fin 256) (thread : Fin 16)
  /-- REL (R154) -/
  | iRel (tile : Fin 256) (thread : Fin 16) (w : BitVec 56)
  /-- REL_UNBIND (R154) -/
  | relUnbind (tile : Fin 256) (thread : Fin 16)
  /-- WEIR_TAKE (R193) -/
  | iWeirTake (tile : Fin 256) (thread : Fin 16) (w : BitVec 56)
  /-- WEIR_PEEK (R193) -/
  | iWeirPeek (tile : Fin 256) (thread : Fin 16) (w : BitVec 56)
  /-- WEIR_POST (R194) -/
  | iWeirPost (tile : Fin 256) (thread : Fin 16) (w : BitVec 56)
  /-- MSG_SEND (R195) -/
  | iMsgSend (tile : Fin 256) (thread : Fin 16) (w : BitVec 56)
  /-- MSG_BELL (R196) -/
  | iMsgBell (tile : Fin 256) (thread : Fin 16) (w : BitVec 56)
  /-- MSG_EVENT (R196) -/
  | iMsgEvent (tile : Fin 256) (thread : Fin 16) (w : BitVec 56)
  /-- FENCE (R146) -/
  | iFence (tile : Fin 256) (thread : Fin 16) (w : BitVec 56)
  /-- IFENCE (R140) -/
  | iIfence (tile : Fin 256) (thread : Fin 16) (w : BitVec 56)
  /-- CCWAIT (R143) -/
  | iCcwait (tile : Fin 256) (thread : Fin 16) (w : BitVec 56)
  /-- CCRD (R143) -/
  | iCcrd (tile : Fin 256) (thread : Fin 16) (w : BitVec 56)
  /-- SEMWAIT (R197) -/
  | iSemwait (tile : Fin 256) (thread : Fin 16) (w : BitVec 56)
  /-- SEMPOST (R197) -/
  | iSempost (tile : Fin 256) (thread : Fin 16) (w : BitVec 56)
  /-- TBAR (R198) -/
  | iTbar (tile : Fin 256) (thread : Fin 16) (w : BitVec 56)
  /-- AMO_ADD (R199) -/
  | iAmoAdd (tile : Fin 256) (thread : Fin 16) (w : BitVec 56)
  /-- AMO_AND (R199) -/
  | iAmoAnd (tile : Fin 256) (thread : Fin 16) (w : BitVec 56)
  /-- AMO_OR (R199) -/
  | iAmoOr (tile : Fin 256) (thread : Fin 16) (w : BitVec 56)
  /-- AMO_XOR (R199) -/
  | iAmoXor (tile : Fin 256) (thread : Fin 16) (w : BitVec 56)
  /-- AMO_MIN (R199) -/
  | iAmoMin (tile : Fin 256) (thread : Fin 16) (w : BitVec 56)
  /-- AMO_MAX (R199) -/
  | iAmoMax (tile : Fin 256) (thread : Fin 16) (w : BitVec 56)
  /-- AMO_SWAP (R199) -/
  | iAmoSwap (tile : Fin 256) (thread : Fin 16) (w : BitVec 56)
  /-- AMO_CAS (R199) -/
  | iAmoCas (tile : Fin 256) (thread : Fin 16) (w : BitVec 56)
  /-- AMO_FADD_F32 (R199) -/
  | iAmoFaddF32 (tile : Fin 256) (thread : Fin 16) (w : BitVec 56)
  /-- THREAD_HALT (R170) -/
  | threadHalt (tile : Fin 256) (mask : BitVec 16)
  /-- DEBUG_WINDOW_READ (R370) -/
  | debugWindowRead (tile : Fin 256) (offset : BitVec 16)
  /-- WEIR_HEAD_RECEIVE (R207) -/
  | weirHeadReceive (tile : Fin 256) (cell : Cell)
  /-- WEIR_CELL_RECEIVE (R214) -/
  | weirCellReceive (tile : Fin 256) (cell : Cell)
  /-- WEIR_HOLD_RELEASE (R215) -/
  | weirHoldRelease (tile : Fin 256)
  /-- WEIR_GROUP_FINAL (R214) -/
  | weirGroupFinal (tile : Fin 256) (entry : BitVec 12) (group : GroupEnd)
  /-- WEIR_VOID (R218) -/
  | weirVoid (tile : Fin 256) (entry : BitVec 12)
  /-- EMITTER_SELECT (R257) -/
  | emitterSelect (tile : Fin 256)
  /-- DRY_STEP_CLOSE (R227) -/
  | dryStepClose (tag : BitVec 12)
  /-- TILE_WEIR_CFG_WRITE (R229) -/
  | tileWeirCfgWrite (tile : Fin 256) (value : Word)
  /-- START (R240) -/
  | start (cell : Cell)
  /-- ACK (R243) -/
  | ack (branch : BitVec 11) (cell : Cell)
  /-- NACK (R248) -/
  | nack (branch : BitVec 11) (cell : Cell)
  /-- VOID_REQ (R252) -/
  | voidReq (branch : BitVec 11) (cell : Cell)
  /-- BREAK (R255) -/
  | brkNotice (branch : BitVec 11) (cell : Cell)
  /-- SEAL (R244) -/
  | seal (cell : Cell)
  /-- VOID (R250) -/
  | voidCell (cell : Cell)
  /-- HOLD (R251) -/
  | hold (cell : Cell)
  /-- DONE (R245) -/
  | done (cell : Cell)
  /-- CHUNK_TIMEOUT (R251) -/
  | chunkTimeout (group : Fin 1024) (chunk : BitVec 32)
  /-- BREAK_SETTLE (R255) -/
  | breakSettle (group : Fin 1024)
  /-- REPLAY_RECORD_FEED (R261) -/
  | replayRecordFeed (group : Fin 1024)
  /-- TOKEN_RECEIVE (R270) -/
  | tokenReceive (port : Fin 1024) (msg : HeadMsg)
  /-- ROLL_RECEIVE (R272) -/
  | rollReceive (port : Fin 1024) (head : Cell)
  /-- STEP_OPEN (R272) -/
  | stepOpen (eht : Fin 16)
  /-- TOKEN_DECIDE (R270) -/
  | tokenDecide (eht : Fin 16)
  /-- COMBINE_ENTRY_ALLOCATE (R271) -/
  | combineEntryAllocate (eht : Fin 16)
  /-- ROLL_TIMEOUT (R273) -/
  | rollTimeout (step : EhtStep)
  /-- RETURN_RECEIVE (R277) -/
  | returnReceive (port : Fin 1024) (msg : HeadMsg)
  /-- COMBINE_RETURN (R278) -/
  | combineReturn (tile : Fin 256) (cell : Cell)
  /-- COMB_TIMEOUT (R280) -/
  | combTimeout (tile : Fin 256) (entry : CombName)
  /-- MEMORY_READ_REQUEST (R285) -/
  | memoryReadRequest (input : Fin 1298) (cell : Cell)
  /-- MEMORY_WRITE (R285) -/
  | memoryWrite (input : Fin 1298) (cell : Cell)
  /-- ATOMIC (R287) -/
  | atomic (input : Fin 1298) (cell : Cell)
  /-- ATOMIC_HOLD (R287) -/
  | atomicHold (src : BitVec 17) (tag seq : BitVec 12)
  /-- SRAM_PATROL (R297) -/
  | sramPatrol (addr : BitVec 48) (found : EccResult)
  /-- LPDDR_PATROL (R300) -/
  | lpddrPatrol (found : EccResult)
  /-- PAGE_RETIRE_DONE (R302) -/
  | pageRetireDone (page : BitVec 27) (badLines : BitVec 64)
  /-- LPDDR_REFRESH (R301) -/
  | lpddrRefresh (mport : Fin 16) (channel : Fin 4) (bank : Fin 16)
  /-- POOL_ALLOCATE (R309) -/
  | poolAllocate (who : Requester) (pool : Fin 64) (owner : BitVec 12)
  /-- POOL_ALLOCATE_NOWAIT (R309) -/
  | poolAllocateNowait (who : Requester) (pool : Fin 64) (owner : BitVec 12)
  /-- POOL_FREE (R312) -/
  | poolFree (who : Requester) (pool : Fin 64) (owner : BitVec 12) (handle : Word)
  /-- POOL_SHARE (R311) -/
  | poolShare (who : Requester) (pool : Fin 64) (owner : BitVec 12) (handle : Word)
  /-- POOL_CREATE (R315) -/
  | poolCreate (cmd : RingCmd)
  /-- POOL_DESTROY (R315) -/
  | poolDestroy (cmd : RingCmd)
  /-- ZCT_OPEN (R348) -/
  | zctOpen (msg : ZctMsg)
  /-- CONFIRM (R348) -/
  | confirm (msg : ZctMsg)
  /-- ZCT_CLOSE (R352) -/
  | zctClose (msg : ZctMsg)
  /-- ZCT_READ (R353) -/
  | zctRead (msg : ZctMsg)
  /-- ZCT_WRITE (R353) -/
  | zctWrite (msg : ZctMsg)
  /-- POST (R354) -/
  | post (msg : ZctMsg)
  /-- BELL (R355) -/
  | bell (msg : ZctMsg)
  /-- EVENT_ACK (R365) -/
  | eventAck (msg : ZctMsg)
  /-- KEEPALIVE (R352) -/
  | keepalive (msg : ZctMsg)
  /-- OPEN_CONFIRM_TMO (R349) -/
  | openConfirmTmo (session : Fin 64)
  /-- SESSION_TMO (R352) -/
  | sessionTmo (session : Fin 64)
  /-- EVENT_RESEND (R365) -/
  | eventResend (session : Fin 64)
  /-- ARP_ND (R346) -/
  | arpNd (frame : HostFrame)
  /-- ICMP_ECHO (R346) -/
  | icmpEcho (frame : HostFrame)
  /-- HOST_FRAME_DISCARD (R346) -/
  | hostFrameDiscard
  /-- HOST_PORT_CFG_WRITE (R368) -/
  | hostPortCfgWrite (offset : Fin 6) (value : Word)
  /-- HOST_PORT_CFG_APPLY (R368) -/
  | hostPortCfgApply
  /-- SAVE (R368) -/
  | save
  /-- CLOSE_ALL (R352) -/
  | closeAll
  /-- HP_KEY_WRITE (R352) -/
  | hpKeyWrite (key : Fin 16) (word : Fin 5) (value : Word)
  /-- RING_POLL (R355) -/
  | ringPoll
  /-- CTX_RING_HALT_CLEAR (R356) -/
  | ctxRingHaltClear (ctx : BitVec 12) (value : Word)
  /-- CTX_OPEN (R354) -/
  | ctxOpen (cmd : RingCmd)
  /-- CTX_CLOSE (R396) -/
  | ctxClose (cmd : RingCmd)
  /-- CTX_TEARDOWN_DRAIN (R396) -/
  | ctxTeardownDrain (ctx : BitVec 12)
  /-- CLOSED (R396) -/
  | closed (ctx : BitVec 12)
  /-- PLAN_LOAD (R360) -/
  | planLoad (cmd : RingCmd)
  /-- PLAN_RETIRE (R358) -/
  | planRetire (cmd : RingCmd)
  /-- GROUP_BIND (R363) -/
  | groupBind (cmd : RingCmd)
  /-- GROUP_UNBIND (R238) -/
  | groupUnbind (cmd : RingCmd)
  /-- COLL_START (R240) -/
  | collStart (cmd : RingCmd)
  /-- COLL_ABORT (R238) -/
  | collAbort (cmd : RingCmd)
  /-- STEP_SET (R358) -/
  | stepSet (cmd : RingCmd)
  /-- STEP_ADVANCE (R358) -/
  | stepAdvance (cmd : RingCmd)
  /-- CIRC_SETUP (R40) -/
  | circSetup (cmd : RingCmd)
  /-- CIRC_TEAR (R40) -/
  | circTear (cmd : RingCmd)
  /-- TREE_SET (R44) -/
  | treeSet (cmd : RingCmd)
  /-- THREADS_LAUNCH (R359) -/
  | threadsLaunch (cmd : RingCmd)
  /-- THREADS_KILL (R169) -/
  | threadsKill (cmd : RingCmd)
  /-- GATE_LOAD (R101) -/
  | gateLoad (cmd : RingCmd)
  /-- EHT_LOAD (R269) -/
  | ehtLoad (cmd : RingCmd)
  /-- MIRROR_SET (R82) -/
  | mirrorSet (cmd : RingCmd)
  /-- TAG_WATCH (R226) -/
  | tagWatch (cmd : RingCmd)
  /-- RECORD_START (R260) -/
  | recordStart (cmd : RingCmd)
  /-- RECORD_STOP (R238) -/
  | recordStop (cmd : RingCmd)
  /-- REPLAY_START_COMMAND (R261) -/
  | replayStartCommand (cmd : RingCmd)
  /-- HW_INTERNAL_ERROR (R371) -/
  | hwInternalError (block : BitVec 8) (inst : BitVec 24) (cls : EvClass) (address : Word)
  /-- FAULT_PULSE_END (R380) -/
  | faultPulseEnd
  /-- FAULT_PIN_WRITE (R380) -/
  | faultPinWrite (value : Word)
  /-- REQUEST (R381) -/
  | request
  /-- DITCH_RIDER_SCAN (R382) -/
  | ditchRiderScan
  /-- CAPTURE_COMPLETE (R386) -/
  | captureComplete
  /-- CAP_TMO (R386) -/
  | capTmo
  /-- SPW_CAP_FREE (R387) -/
  | spwCapFree (handle : Word)
  /-- COUNT_CLEAR (R373) -/
  | countClear
  /-- TILE_ENGINE_RESET (R391) -/
  | tileEngineReset (tile : Fin 256) (engine : Fin 3) (replace scrub : Bool)
  /-- PORT_ENGINES_RESET (R391) -/
  | portEnginesReset (port : Fin 1024)
  /-- CLUSTER_RESET (R391) -/
  | clusterReset (cluster : Fin 33) (scrub : Bool)
  /-- OCTET_RESET (R390) -/
  | octetReset (octet : Fin 128)
  /-- DEVICE_COMPUTE_RESET (R395) -/
  | deviceComputeReset (scrub : Bool)
  /-- POWER_CYCLE_REQUEST (R389) -/
  | powerCycleRequest
  /-- RESET_COMPLETE (R388) -/
  | resetComplete
  /-- RESET_BOUND_EXPIRY (R394) -/
  | resetBoundExpiry
  /-- INPUT_SAMPLE (R407) -/
  | inputSample (volts amps watts : BitVec 16) (held : HeldFor)
  /-- TEMP_SAMPLE (R410) -/
  | tempSample (readings : List (BitVec 16))
  /-- DUTY_ADJUST (R408) -/
  | dutyAdjust
  /-- RESET_L_RISE (R412) -/
  | resetLRise (volts : BitVec 16)
  /-- RESET_L_FALL (R457) -/
  | resetLFall
  /-- ROM_ACCEPT (R422) -/
  | romAccept
  /-- FIRST_STAGE_VERIFY (R423) -/
  | firstStageVerify
  /-- DOMAIN_START (R412) -/
  | domainStart
  /-- POWER_GOOD (R413) -/
  | powerGood (domain : Fin 50) (good : Bool)
  /-- PWR_DOMAIN_OFF (R414) -/
  | pwrDomainOff (domain : Fin 50) (off : Bool)
  /-- CDC_TIMEOUT (R419) -/
  | cdcTimeout (cdc : Fin 320)
  /-- CDC_RECOVER (R419) -/
  | cdcRecover (cdc : Fin 320)
  /-- CDC_OVERFLOW (R418) -/
  | cdcOverflow (cdc : Fin 320)
  /-- PLL_LOCK_LOSS (R421) -/
  | pllLockLoss (pll : Fin 4)
  /-- SEC_FW_GO (R426) -/
  | secFwGo (value : Word)
  /-- FW_UPDATE_DONE (R426) -/
  | fwUpdateDone (flashError : Bool)
  /-- WB_SAMPLE (R437) -/
  | wbSample (volts amps : BitVec 16) (micros : BitVec 32)
  /-- CLUSTER_US_TICK (R438) -/
  | clusterUsTick
  /-- COUNT_FRAME_SEND (R439) -/
  | countFrameSend
  /-- COUNT_FRAME_RECEIVE (R439) -/
  | countFrameReceive (crcOk : Bool)
  /-- WB_INTERVAL_END (R440) -/
  | wbIntervalEnd (ticks : Word) (onGrid : Bool)
  /-- WB_RECORD_COMMIT (R441) -/
  | wbRecordCommit
  /-- RELAY_RECORD_RECEIVE (R446) -/
  | relayRecordReceive (record : List Byte) (checkOk : Bool)
  /-- WB_POWER_LOSS (R444) -/
  | wbPowerLoss (ticks : Word)
  /-- WB_BOOT (R444) -/
  | wbBoot
  /-- TAMPER (R436) -/
  | tamper
  /-- WB_STATUS (R445) -/
  | wbStatus
  /-- WB_SELECT (R445) -/
  | wbSelect (rseq : BitVec 32)
  /-- WB_RECORD (R445) -/
  | wbRecord
  /-- WB_REQUEST (R440) -/
  | wbRequest (arg : Byte)
  /-- WB_CERT (R445) -/
  | wbCert
  /-- WB_UPDATE (R447) -/
  | wbUpdate (block : List Byte)
  /-- WBR_REQUEST (R448) -/
  | wbrRequest
  /-- RESEND (R448) -/
  | resend
  /-- I3C_STATUS (R458) -/
  | i3cStatus
  /-- FERR (R458) -/
  | ferr
  /-- INPUT (R458) -/
  | input
  /-- HOTTEST (R458) -/
  | hottest
  /-- IDENTITY (R458) -/
  | identity
  /-- HOST_KEY (R459) -/
  | hostKey (key : BitVec 256)
  /-- INPUT_POWER_LOSS (R407) -/
  | inputPowerLoss (volts : BitVec 16)
  /-- INPUT_POWER_RETURN (R454) -/
  | inputPowerReturn (volts : BitVec 16)
  /-- SIGNAL_DETECT (R329) -/
  | signalDetect (lane : Fin 1024)
  /-- HOST_LINK_DOWN (R345) -/
  | hostLinkDown
  /-- HOST_LINK_UP (R345) -/
  | hostLinkUp
  /-- WB_INPUT_RETURN (R444) -/
  | wbInputReturn
  /-- HOLD_UP_EXHAUSTED (R444) -/
  | holdUpExhausted
  /-- ENEC (R458) -/
  | enec
  /-- WB_ENEC (R445) -/
  | wbEnec
  /-- DYNAMIC_ADDRESS (R458) -/
  | dynamicAddress (addr : BitVec 7)
  /-- WB_DYNAMIC_ADDRESS (R445) -/
  | wbDynamicAddress (addr : BitVec 7)
  deriving DecidableEq, Repr

end Sys2Proof
end

