-- ==== Sys2Proof/Machine/Table.lean ====
section
/-! DEFINITION. Sys2Proof/Machine/Table.lean: sparse tables (a list of key and value pairs in one canonical form) and the
bit fields of numbers. Memory, the register file and every numbered group of engine structures use the same table. -/

namespace Sys2Proof.Machine

/-- The value under key `k`; an unlisted key reads `d`. -/
def Table.get {κ α : Type} [DecidableEq κ] (d : α) (t : List (κ × α)) (k : κ) : α :=
  match t with
  | [] => d
  | (k', v) :: r => if k' = k then v else Table.get d r k

/-- The table without key `k`. -/
def Table.del {κ α : Type} [DecidableEq κ] (t : List (κ × α)) (k : κ) : List (κ × α) :=
  match t with
  | [] => []
  | (k', v) :: r => if k' = k then Table.del r k else (k', v) :: Table.del r k

/-- `(k, v)` put before the first key of greater rank. -/
def Table.ins {κ α : Type} (rank : κ → Nat) (t : List (κ × α)) (k : κ) (v : α) : List (κ × α) :=
  match t with
  | [] => [(k, v)]
  | (k', v') :: r => if rank k < rank k' then (k, v) :: (k', v') :: r else (k', v') :: Table.ins rank r k v

/-- The table with `v` under `k`. Writing what an unlisted key reads as removes the entry. -/
def Table.set {κ α : Type} [DecidableEq κ] [DecidableEq α] (rank : κ → Nat) (d : α) (t : List (κ × α)) (k : κ)
    (v : α) : List (κ × α) :=
  if v = d then Table.del t k else Table.ins rank (Table.del t k) k v

/-- The value listed under `k`, if any. -/
def Table.look {κ α : Type} [DecidableEq κ] (t : List (κ × α)) (k : κ) : Option α :=
  match t with
  | [] => none
  | (k', v) :: r => if k' = k then some v else Table.look r k

/-- The table with `v` listed under `k`, for tables in which being listed means to exist. -/
def Table.put {κ α : Type} [DecidableEq κ] (rank : κ → Nat) (t : List (κ × α)) (k : κ) (v : α) : List (κ × α) :=
  Table.ins rank (Table.del t k) k v

/-- Whether `k` is listed. -/
def Table.has {κ α : Type} [DecidableEq κ] (t : List (κ × α)) (k : κ) : Bool :=
  t.any fun e => decide (e.1 = k)

/-- Keys of strictly rising rank. -/
def Table.rising {κ α : Type} (rank : κ → Nat) (t : List (κ × α)) : Bool :=
  match t with
  | [] => true
  | (k, _) :: r => r.all (fun e => decide (rank k < rank e.1)) && Table.rising rank r

/-- The canonical form: keys of strictly rising rank, no entry equal to the default. -/
def Table.wf {κ α : Type} [DecidableEq α] (rank : κ → Nat) (d : α) (t : List (κ × α)) : Bool :=
  Table.rising rank t && t.all fun e => decide (e.2 ≠ d)

/-- Bits [lo + w - 1 : lo] of a number (spec/00_scope.md R4). -/
def bitsOf (x lo w : Nat) : Nat := (x >>> lo) % 2 ^ w

/-- Bit `i` of a number. -/
def bitOf (x i : Nat) : Bool := x.testBit i

/-- `x` with bits [lo + w - 1 : lo] replaced by the low bits of `v`. -/
def putBits (x lo w v : Nat) : Nat := x - (bitsOf x lo w) <<< lo + (v % 2 ^ w) <<< lo

/-- A one-bit number. -/
def flag (b : Bool) : Nat := if b then 1 else 0

/-- A field of `w` bits read as two's complement. -/
def signed (w x : Nat) : Int := if bitOf x (w - 1) then (x % 2 ^ w : Nat) - (2 ^ w : Nat) else (x % 2 ^ w : Nat)

/-- The low `w` bits of an integer. -/
def wrapInt (w : Nat) (i : Int) : Nat := (i % (2 ^ w : Nat)).toNat

/-- `n` bytes of `x`, least significant first (spec/00_scope.md R5). -/
def toBytes (n x : Nat) : List Byte := (List.range n).map fun i => BitVec.ofNat 8 (x >>> (8 * i))

/-- The number whose little-endian bytes are given (R5). -/
def ofBytes (l : List Byte) : Nat := l.foldr (fun b a => b.toNat + 256 * a) 0

/-- The number whose big-endian bytes are given (network order). -/
def ofBytesBE (l : List Byte) : Nat := l.foldl (fun a b => 256 * a + b.toNat) 0

/-- `n` bytes of `x`, most significant first. -/
def toBytesBE (n x : Nat) : List Byte := (toBytes n x).reverse

/-- The lowest number below `n` that satisfies `p`. -/
def lowest (n : Nat) (p : Nat → Bool) : Option Nat := (List.range n).find? p

/-- The first number below `n` that satisfies `p`, in rotating order from the one after `last`. -/
def nextAfter (n last : Nat) (p : Nat → Bool) : Option Nat :=
  ((List.range n).map fun i => (last + 1 + i) % n).find? p

/-- The element of a list for which `key` is least; the first of equals. -/
def leastBy {α : Type} (key : α → Nat) : List α → Option α
  | [] => none
  | a :: l =>
    match leastBy key l with
    | none => some a
    | some b => if key b < key a then some b else some a

end Sys2Proof.Machine
end

