-- ==== Sys2Proof/Machine/Crypto.lean ====
section
/-! DEFINITION. Sys2Proof/Machine/Crypto.lean: the check sums and the cryptographic functions the spec names: CRC-8 of a
header (spec/02_cells_and_routes.md R25), CRC-32C (Table 2-9), SHA-512 and HMAC-SHA-512 (spec/13_host_port_and_control.md
R347), HKDF-SHA-512 and X25519 (R348), Ed25519 (R348; spec/15 R422). The spec names these functions and takes their
definitions from the published standards (log entry 16, PRESUMED). -/

namespace Sys2Proof.Machine

/-! ### Cyclic checks -/

/-- One step of the CRC-8 of R25, most significant bit first. -/
def crc8Step (c : Nat) (bit : Bool) : Nat :=
  let top := bitOf c 7 != bit
  let c' := (c <<< 1) % 256
  if top then c' ^^^ 0x07 else c'

/-- HCRC of a header: bits [127:8], generator 0x07, initial value 0xFF (spec/02_cells_and_routes.md R25). -/
def hcrc (h : Nat) : Nat :=
  (List.range 120).foldl (fun c i => crc8Step c (bitOf h (127 - i))) 0xFF

/-- One bit of the reflected CRC-32C, polynomial 0x82F63B78. -/
def crc32cBit (c : Nat) : Nat := if bitOf c 0 then (c >>> 1) ^^^ 0x82F63B78 else c >>> 1

def crc32cByte (c : Nat) (b : Byte) : Nat :=
  (List.range 8).foldl (fun a _ => crc32cBit a) (c ^^^ b.toNat)

/-- CRC-32C continued over further bytes from a finished value; 0 starts it. -/
def crc32cFrom (c : Nat) (l : List Byte) : Nat := (l.foldl crc32cByte (c ^^^ 0xFFFFFFFF)) ^^^ 0xFFFFFFFF

/-- CRC-32C of a list of bytes (spec/02_cells_and_routes.md Table 2-9). -/
def crc32c (l : List Byte) : Nat := crc32cFrom 0 l

/-! ### SHA-512 -/

/-- The `k`-th root of `n` rounded down, above `r`, found bit by bit from bit `b` down. -/
def rootDown (k n : Nat) : Nat → Nat → Nat
  | 0, r => r
  | b + 1, r => rootDown k n b (if (r + 2 ^ b) ^ k ≤ n then r + 2 ^ b else r)

/-- The first 64 bits behind the binary point of the `k`-th root of `p`. -/
def rootFraction (k p : Nat) : Nat := rootDown k (p * 2 ^ (64 * k)) 72 0 % 2 ^ 64

def isPrime (n : Nat) : Bool := decide (2 ≤ n) && (List.range n).all fun d => decide (d < 2) || n % d != 0

/-- The round constants: the cube roots of the 80 primes below 410. -/
def sha512K : List Nat := ((List.range 410).filter isPrime).map (rootFraction 3)

/-- The initial hash value: the square roots of the 8 primes below 20. -/
def sha512Init : List Nat := ((List.range 20).filter isPrime).map (rootFraction 2)

/-- Rotate right within 64 bits. -/
def ror64 (x n : Nat) : Nat := (x >>> n) ||| ((x <<< (64 - n)) % 2 ^ 64)

/-- The working variables of one SHA-512 block. -/
structure ShaVars where
  a : Nat
  b : Nat
  c : Nat
  d : Nat
  e : Nat
  f : Nat
  g : Nat
  h : Nat

/-- One round: constant plus message word `kw`. -/
def shaRound (v : ShaVars) (kw : Nat) : ShaVars :=
  let s1 := ror64 v.e 14 ^^^ ror64 v.e 18 ^^^ ror64 v.e 41
  let ch := (v.e &&& v.f) ^^^ ((2 ^ 64 - 1 - v.e) &&& v.g)
  let t1 := v.h + s1 + ch + kw
  let s0 := ror64 v.a 28 ^^^ ror64 v.a 34 ^^^ ror64 v.a 39
  let maj := (v.a &&& v.b) ^^^ (v.a &&& v.c) ^^^ (v.b &&& v.c)
  ⟨(t1 + s0 + maj) % 2 ^ 64, v.a, v.b, v.c, (v.d + t1) % 2 ^ 64, v.e, v.f, v.g⟩

/-- The next message word from the last sixteen, newest first. -/
def shaExpand (w : List Nat) : Nat :=
  let x := w.getD 14 0
  let y := w.getD 1 0
  let s0 := ror64 x 1 ^^^ ror64 x 8 ^^^ (x >>> 7)
  let s1 := ror64 y 19 ^^^ ror64 y 61 ^^^ (y >>> 6)
  (w.getD 15 0 + s0 + w.getD 6 0 + s1) % 2 ^ 64

/-- The rounds over the constants `ks`; `w` holds the last sixteen words newest first, `todo` the words of the block
still to come. -/
def shaRounds : List Nat → List Nat → List Nat → ShaVars → ShaVars
  | [], _, _, v => v
  | k :: ks, w, x :: todo, v => shaRounds ks (x :: w) todo (shaRound v (k + x))
  | k :: ks, w, [], v =>
    let x := shaExpand w
    shaRounds ks (x :: w.take 15) [] (shaRound v (k + x))

/-- The compression of one block of sixteen 64-bit words. -/
def shaBlock (h : List Nat) (ws : List Nat) : List Nat :=
  let v := shaRounds sha512K [] ws
    ⟨h.getD 0 0, h.getD 1 0, h.getD 2 0, h.getD 3 0, h.getD 4 0, h.getD 5 0, h.getD 6 0, h.getD 7 0⟩
  List.zipWith (fun a b => (a + b) % 2 ^ 64) h [v.a, v.b, v.c, v.d, v.e, v.f, v.g, v.h]

/-- The list cut into pieces of `n`; `fuel` bounds the number of pieces. -/
def chunksOf {α : Type} (n : Nat) : Nat → List α → List (List α)
  | 0, _ => []
  | _, [] => []
  | fuel + 1, l => l.take n :: chunksOf n fuel (l.drop n)

/-- SHA-512 of a list of bytes, 64 bytes. -/
def sha512 (m : List Byte) : List Byte :=
  let padLen := (239 - m.length % 128) % 128
  let padded := m ++ [0x80] ++ List.replicate padLen 0 ++ toBytesBE 16 (8 * m.length)
  let blocks := chunksOf 128 (padded.length / 128) padded
  let h := blocks.foldl (fun h b => shaBlock h ((chunksOf 8 16 b).map ofBytesBE)) sha512Init
  h.flatMap (toBytesBE 8)

/-- HMAC-SHA-512. -/
def hmacSha512 (key m : List Byte) : List Byte :=
  let k0 := if key.length > 128 then sha512 key else key
  let k := k0 ++ List.replicate (128 - k0.length) 0
  sha512 (k.map (fun b => b ^^^ 0x5c) ++ sha512 (k.map (fun b => b ^^^ 0x36) ++ m))

/-- HKDF-SHA-512 with an output of 128 bytes (spec/13_host_port_and_control.md R348). -/
def hkdf128 (salt ikm info : List Byte) : List Byte :=
  let prk := hmacSha512 salt ikm
  let t1 := hmacSha512 prk (info ++ [1])
  let t2 := hmacSha512 prk (t1 ++ info ++ [2])
  t1 ++ t2

/-! ### Arithmetic modulo 2^255 - 19 -/

def p25519 : Nat := 2 ^ 255 - 19

def fAdd (a b : Nat) : Nat := (a + b) % p25519
def fSub (a b : Nat) : Nat := (a + p25519 - b % p25519) % p25519
def fMul (a b : Nat) : Nat := (a * b) % p25519

/-- `a ^ e` modulo `m`, over the low `n` bits of `e`. -/
def powMod (m a e : Nat) (n : Nat) : Nat :=
  ((List.range n).foldl (fun (st : Nat × Nat) i =>
    ((if bitOf e i then (st.1 * st.2) % m else st.1), (st.2 * st.2) % m)) (1 % m, a % m)).1

def fPow (a e : Nat) : Nat := powMod p25519 a e 255
def fInv (a : Nat) : Nat := fPow a (p25519 - 2)

/-- The state of the Montgomery ladder. -/
structure Ladder where
  x2 : Nat
  z2 : Nat
  x3 : Nat
  z3 : Nat

/-- One step of the ladder for scalar bit `b` and base abscissa `x1`. -/
def ladderStep (x1 : Nat) (l : Ladder) (b : Bool) : Ladder :=
  let l := if b then ⟨l.x3, l.z3, l.x2, l.z2⟩ else l
  let a := fAdd l.x2 l.z2
  let aa := fMul a a
  let c := fSub l.x2 l.z2
  let bb := fMul c c
  let e := fSub aa bb
  let da := fMul (fSub l.x3 l.z3) a
  let cb := fMul (fAdd l.x3 l.z3) c
  let s := fAdd da cb
  let d := fSub da cb
  let r : Ladder := ⟨fMul aa bb, fMul e (fAdd aa (121665 * e)), fMul s s, fMul x1 (fMul d d)⟩
  if b then ⟨r.x3, r.z3, r.x2, r.z2⟩ else r

/-- X25519 of a 32-byte scalar and a 32-byte point. -/
def x25519 (k u : List Byte) : List Byte :=
  let kn := ofBytes k
  let kn := kn % 2 ^ 254 + 2 ^ 254 - kn % 8
  let x1 := ofBytes u % 2 ^ 255 % p25519
  let l := (List.range 255).foldl (fun l i => ladderStep x1 l (bitOf kn (254 - i))) ⟨1, 0, x1, 1⟩
  toBytes 32 (fMul l.x2 (fInv l.z2))

/-! ### Ed25519 -/

def edD : Nat := fMul (p25519 - 121665) (fInv 121666)
def edL : Nat := 2 ^ 252 + 27742317777372353535851937790883648493

/-- A point of the curve in extended coordinates. -/
structure EdPoint where
  x : Nat
  y : Nat
  z : Nat
  t : Nat

def edZero : EdPoint := ⟨0, 1, 1, 0⟩

def edAdd (d2 : Nat) (p q : EdPoint) : EdPoint :=
  let a := fMul (fSub p.y p.x) (fSub q.y q.x)
  let b := fMul (fAdd p.y p.x) (fAdd q.y q.x)
  let c := fMul (fMul p.t d2) q.t
  let d := fMul (2 * p.z) q.z
  let e := fSub b a
  let f := fSub d c
  let g := fAdd d c
  let h := fAdd b a
  ⟨fMul e f, fMul g h, fMul f g, fMul e h⟩

/-- `k` times a point, over the low 256 bits of `k`, most significant first. -/
def edMul (k : Nat) (p : EdPoint) : EdPoint :=
  let d2 := fMul 2 edD
  (List.range 256).foldl (fun q i =>
    let q := edAdd d2 q q
    if bitOf k (255 - i) then edAdd d2 q p else q) edZero

/-- The abscissa of the point with ordinate `y` and the sign bit. -/
def edRecover (y : Nat) (sign : Bool) : Option EdPoint :=
  if y ≥ p25519 then none
  else
    let y2 := fMul y y
    let x2 := fMul (fSub y2 1) (fInv (fAdd (fMul edD y2) 1))
    let x := fPow x2 ((p25519 + 3) / 8)
    let x := if fMul x x = x2 then x else fMul x (fPow 2 ((p25519 - 1) / 4))
    if fMul x x ≠ x2 then none
    else if x = 0 && sign then none
    else
      let x := if bitOf x 0 = sign then x else p25519 - x
      some ⟨x, y, 1, fMul x y⟩

def edDecode (b : List Byte) : Option EdPoint :=
  let n := ofBytes b
  if b.length = 32 then edRecover (n % 2 ^ 255) (bitOf n 255) else none

def edEncode (p : EdPoint) : List Byte :=
  let zi := fInv p.z
  let x := fMul p.x zi
  let y := fMul p.y zi
  toBytes 32 (y + (x % 2) * 2 ^ 255)

def edBase : EdPoint :=
  let y := fMul 4 (fInv 5)
  (edRecover y false).getD edZero

/-- The scalar and the prefix of a 32-byte secret key. -/
def edExpand (sk : List Byte) : Nat × List Byte :=
  let h := sha512 sk
  let a := ofBytes (h.take 32)
  (a % 2 ^ 254 + 2 ^ 254 - a % 8, h.drop 32)

/-- The public key of a secret key. -/
def ed25519Public (sk : List Byte) : List Byte := edEncode (edMul (edExpand sk).1 edBase)

/-- The 64-byte signature of a message. -/
def ed25519Sign (sk m : List Byte) : List Byte :=
  let (a, pre) := edExpand sk
  let pk := edEncode (edMul a edBase)
  let r := ofBytes (sha512 (pre ++ m)) % edL
  let rb := edEncode (edMul r edBase)
  let k := ofBytes (sha512 (rb ++ pk ++ m)) % edL
  rb ++ toBytes 32 ((r + k * a) % edL)

/-- Whether a signature verifies under a public key. -/
def ed25519Verify (pk m sig : List Byte) : Bool :=
  match edDecode pk, edDecode (sig.take 32) with
  | some a, some r =>
    let sc := ofBytes (sig.drop 32)
    if sig.length = 64 && decide (sc < edL) then
      let k := ofBytes (sha512 (sig.take 32 ++ pk ++ m)) % edL
      let d2 := fMul 2 edD
      let lhs := edMul (8 * sc) edBase
      let rhs := edMul 8 (edAdd d2 r (edMul k a))
      fMul lhs.x rhs.z == fMul rhs.x lhs.z && fMul lhs.y rhs.z == fMul rhs.y lhs.z
    else false
  | _, _ => false

end Sys2Proof.Machine
end

