-- ==== Sys2Proof/Config.lean ====
section
/-! DEFINITION. Sys2Proof/Config.lean: the fixed figures of the module and the values the spec leaves open. An open value is
an opaque constant: nothing can be proved about which value it is, so a statement holds whatever it is. -/

namespace Sys2Proof

/-- Fabric ports, internal outputs and inputs, tiles (spec/01_architecture.md Table 1-1). -/
def Config.fabricPorts : Nat := 1024
def Config.internalPorts : Nat := 274
def Config.crossbarPorts : Nat := 1298
def Config.tiles : Nat := 256

/-- Reservoir slots and copy descriptors (spec/03_reservoir.md R66, R68). -/
def Config.slots : Nat := 3355443
def Config.descriptors : Nat := 2097152

/-- Core clock in Hz (spec/01_architecture.md R18). -/
def Config.coreHz : Nat := 1700000000

/-- A value the spec leaves open after an effect it states: the `n`-th such value of the run (log entry 7). -/
opaque Config.freeWord : Nat → Word

/-- A byte string the module draws from its random source, of `len` bytes: nonces, ephemeral keys
(spec/13_host_port_and_control.md R348; spec/12_lanes_and_links.md R334), by draw number (log entry 16). -/
opaque Config.random : Nat → Nat → List Byte

/-- SRC of the circuit-form cells a module forms itself (control cells, re-sent chunks, posted chunks): the spec gives no
value (spec/02_cells_and_routes.md R31, log entry 7). The argument is SWITCH_ID. -/
opaque Config.ownSrc : Nat → BitVec 17

/-- The timer of the echo filter that SRC and TC share with the pairs of the same hash, modulo 8,192: the spec names no
hash (spec/02_cells_and_routes.md R58, log entry 67). -/
opaque Config.echoHash : Nat → Nat → Nat

/-- The seed that the PUF yields at a power-up, 32 bytes, by boot count: every power-up reads it anew
(spec/15_power_clocks_security.md R427, R429, log entry 16). -/
opaque Config.pufSeed : Nat → List Byte

/-- The digest of the Worien root key that the mask ROM holds (spec/15_power_clocks_security.md R422). -/
opaque Config.rootDigest : List Byte

/-- The signing key of the Water Book (spec/16_water_book.md R441). -/
opaque Config.waterKey : List Byte

/-- The metrology authority public key in the protected flash of the Water Book (spec/16_water_book.md R447). -/
opaque Config.waterUpdateKey : List Byte

/-- What the Water Book carries from manufacture: serial numbers, the fingerprint of its first firmware, and of its
certificate and its issuer's the issuer's public keys, NOT_BEFORE and SIG, 0 of its own and 1 of the issuer's
(spec/16_water_book.md Tables 16-1 and 16-2; spec/15_power_clocks_security.md Table 15-5). -/
opaque Config.waterSerial : List Byte
opaque Config.moduleSerial : List Byte
opaque Config.waterFp : List Byte
opaque Config.waterIssuer : Nat → List Byte
opaque Config.waterNotBefore : Nat → List Byte
opaque Config.waterCertSig : Nat → List Byte

/-- A Water Book image received in blocks: whether it is whole, its version, its signature, the bytes that are signed. The
spec gives the image no layout (spec/16_water_book.md R447, log entry 30). -/
opaque Config.waterWhole : List Byte → Bool
opaque Config.waterVersion : List Byte → BitVec 64
opaque Config.waterSig : List Byte → List Byte
opaque Config.waterBody : List Byte → List Byte

/-- Part `i` of a slot image (root key, first stage, firmware, microcode, three signatures), its version, and whether its
length fits a slot. The spec gives the image no layout and the slot no size (spec/15_power_clocks_security.md R422, R426,
log entry 29). -/
opaque Config.imagePart : Nat → List Byte → List Byte
opaque Config.imageVersion : List Byte → BitVec 64
opaque Config.imageFits : Nat → Bool

/-- COLLECTOR of a mirror session as the bits of its image above DEST spell it: the spec gives the field no width
(spec/03_reservoir.md Table 3-3, log entry 27). -/
opaque Config.collectorMac : Nat → BitVec 48
opaque Config.collectorV6 : Nat → Bool
opaque Config.collectorIp : Nat → BitVec 128
opaque Config.collectorUdp : Nat → BitVec 16

/-- The engine that raised a hardware class E event which names none, modulo 3, by source, code and cycle
(spec/14_faults_and_recovery.md R400, log entry 51). -/
opaque Config.wornEngine : Nat → Nat → Nat → Nat

/-- The row of bonded SRAM that holds an address (spec/11_memory_and_pools.md R298): the spec gives rows no size. -/
opaque Config.sramRow : Nat → Nat

end Sys2Proof
end

