-- ==== Sys2Proof/Machine/RegisterMap.lean ====
section
/-! DEFINITION. Sys2Proof/Machine/RegisterMap.lean: the register maps of the spec, one constant per register and per field.
A register constant takes the instance (for tiles, fabric ports and octets) and its indexes. `regRows` lists each block's
map; an offset that no row of a block names is reserved (spec/00_scope.md R8). Resets written "fixed", "flash" or "per ..."
in the maps stand here as log entries 2 to 4 name them. -/

namespace Sys2Proof.Machine

/-- Access codes of spec/00_scope.md R6, Table 0-3. -/
inductive Access where
  | rw | ro | wo | w1c | w1s | rc
  deriving DecidableEq, Repr

/-- A register of the control region: block type of Table 13-13, instance, byte offset in the instance. -/
structure Reg where
  blk : Nat
  inst : Nat
  off : Nat
  deriving DecidableEq, Repr

/-- Order of registers in the sparse register file. -/
def Reg.rank (r : Reg) : Nat := r.blk * 2 ^ 48 + r.inst * 2 ^ 24 + r.off

/-- A field of a register map: lowest bit, width, access code, reset value. -/
structure Fld where
  lo : Nat
  width : Nat
  acc : Access
  reset : Nat
  deriving DecidableEq, Repr

/-- A row of a block's register map: offset in the instance, (stride, count) of each index, fields. -/
structure RegRow where
  off : Nat
  dims : List (Nat × Nat)
  fields : List Fld
  deriving DecidableEq, Repr

/-! Table 2-11 (spec/02_cells_and_routes.md R62) -/

def PORT_ROLE (p : Nat) : Reg := ⟨2, p, 0x40⟩
def PORT_ROLE_PEER_ID : Fld := ⟨7, 17, .ro, 0⟩
def PORT_ROLE_SPOOF_CHK : Fld := ⟨3, 1, .rw, 1⟩
def PORT_ROLE_ROLE : Fld := ⟨0, 2, .rw, 0⟩

/-! Table 2-13 (spec/02_cells_and_routes.md R64) -/

def PORT_HDR_DROP (p : Nat) : Reg := ⟨2, p, 0x100⟩
def PORT_HDR_DROP_COUNT : Fld := ⟨0, 64, .rc, 0⟩

def PORT_SPOOF_DROP (p : Nat) : Reg := ⟨2, p, 0x108⟩
def PORT_SPOOF_DROP_COUNT : Fld := ⟨0, 64, .rc, 0⟩

def PORT_ROUTE_FAIL (p : Nat) : Reg := ⟨2, p, 0x110⟩
def PORT_ROUTE_FAIL_COUNT : Fld := ⟨0, 64, .rc, 0⟩

def PORT_STALE_DROP (p : Nat) : Reg := ⟨2, p, 0x118⟩
def PORT_STALE_DROP_COUNT : Fld := ⟨0, 64, .rc, 0⟩

def PORT_TREE_LOOP (p : Nat) : Reg := ⟨2, p, 0x120⟩
def PORT_TREE_LOOP_COUNT : Fld := ⟨0, 64, .rc, 0⟩

def PORT_CE_MARKED (p : Nat) : Reg := ⟨2, p, 0x128⟩
def PORT_CE_MARKED_COUNT : Fld := ⟨0, 64, .rc, 0⟩

def PORT_HCRC_ERR (p : Nat) : Reg := ⟨2, p, 0x130⟩
def PORT_HCRC_ERR_COUNT : Fld := ⟨0, 64, .rc, 0⟩

/-! Table 4-5 (spec/04_sluice_scheduling.md R109) -/

def PORT_GATE_ENTRY (p i j : Nat) : Reg := ⟨2, p, 0x400 + 512 * i + 8 * j⟩
def PORT_GATE_ENTRY_OPEN : Fld := ⟨16, 16, .rw, 0⟩
def PORT_GATE_ENTRY_DURATION : Fld := ⟨0, 16, .rw, 0⟩

/-! Table 2-12 (spec/02_cells_and_routes.md R63) -/

def PORT_CE_CFG (p : Nat) : Reg := ⟨2, p, 0x48⟩
def PORT_CE_CFG_CE_TC_MASK : Fld := ⟨32, 8, .rw, 0xf0⟩
def PORT_CE_CFG_CE_THRESH : Fld := ⟨0, 20, .rw, 0x800⟩

def PORT_VC_CREDIT (p i : Nat) : Reg := ⟨2, p, 0x80 + 8 * i⟩
def PORT_VC_CREDIT_TX_AVAIL : Fld := ⟨16, 16, .ro, 0⟩
def PORT_VC_CREDIT_RX_GRANT : Fld := ⟨0, 16, .rw, 0x40⟩

/-! Table 2-14 (spec/02_cells_and_routes.md R65) -/

def ROUTE_SWITCH_ID : Reg := ⟨4, 0, 0x0⟩
def ROUTE_SWITCH_ID_SWITCH_ID : Fld := ⟨0, 12, .rw, 0⟩

def ROUTE_RET_BASE : Reg := ⟨4, 0, 0x8⟩
def ROUTE_RET_BASE_RET_BASE : Fld := ⟨0, 64, .ro, 0x80000000⟩

def ROUTE_CIRC_BASE : Reg := ⟨4, 0, 0x10⟩
def ROUTE_CIRC_BASE_CIRC_BASE : Fld := ⟨0, 64, .ro, 0x80100000⟩

def ROUTE_TREE_BASE : Reg := ⟨4, 0, 0x18⟩
def ROUTE_TREE_BASE_TREE_BASE : Fld := ⟨0, 64, .ro, 0x81100000⟩

def ROUTE_NOTICE_CFG : Reg := ⟨4, 0, 0x20⟩
def ROUTE_NOTICE_CFG_FAIL_GAP : Fld := ⟨16, 16, .rw, 0x6b⟩
def ROUTE_NOTICE_CFG_ECHO_GAP : Fld := ⟨0, 16, .rw, 0x6b⟩

def ROUTE_NO_RETURN : Reg := ⟨4, 0, 0x28⟩
def ROUTE_NO_RETURN_COUNT : Fld := ⟨0, 64, .rc, 0⟩

/-! Table 3-5 (spec/03_reservoir.md R89) -/

def PORT_RSV_CFG (p : Nat) : Reg := ⟨2, p, 0x50⟩
def PORT_RSV_CFG_SAMPLE : Fld := ⟨43, 1, .rw, 0⟩
def PORT_RSV_CFG_OQ_LIMIT : Fld := ⟨20, 20, .rw, 0x8000⟩
def PORT_RSV_CFG_IN_LIMIT : Fld := ⟨0, 20, .rw, 0x10000⟩

def PORT_RSV_STAT (p : Nat) : Reg := ⟨2, p, 0x58⟩
def PORT_RSV_STAT_GRANT_SHORT : Fld := ⟨63, 1, .ro, 0⟩
def PORT_RSV_STAT_RSV_USED : Fld := ⟨22, 19, .ro, 0⟩
def PORT_RSV_STAT_SHARED_USED : Fld := ⟨0, 22, .ro, 0⟩

def PORT_CREDIT_HELD (p : Nat) : Reg := ⟨2, p, 0x138⟩
def PORT_CREDIT_HELD_COUNT : Fld := ⟨0, 64, .rc, 0⟩

def PORT_VC_RSV (p i : Nat) : Reg := ⟨2, p, 0x180 + 8 * i⟩
def PORT_VC_RSV_QDEPTH : Fld := ⟨32, 20, .ro, 0⟩
def PORT_VC_RSV_GRANTED : Fld := ⟨0, 15, .ro, 0⟩

/-! Table 3-6 (spec/03_reservoir.md R90) -/

def RSV_TOTAL : Reg := ⟨5, 0, 0x0⟩
def RSV_TOTAL_TOTAL : Fld := ⟨0, 22, .ro, 0x333333⟩

def RSV_STATE : Reg := ⟨5, 0, 0x8⟩
def RSV_STATE_RESERVED : Fld := ⟨32, 22, .ro, 0x44800⟩
def RSV_STATE_FREE : Fld := ⟨0, 22, .ro, 0x2eeb33⟩

def RSV_FLOOR : Reg := ⟨5, 0, 0x10⟩
def RSV_FLOOR_SHARED_FLOOR : Fld := ⟨0, 22, .rw, 0x40000⟩

def RSV_INT_OQ : Reg := ⟨5, 0, 0x18⟩
def RSV_INT_OQ_INT_OQ_LIMIT : Fld := ⟨0, 20, .rw, 0x4000⟩

def RSV_DESC : Reg := ⟨5, 0, 0x20⟩
def RSV_DESC_DESC_FREE : Fld := ⟨0, 22, .ro, 0x200000⟩

def RSV_DESC_WAIT : Reg := ⟨5, 0, 0x28⟩
def RSV_DESC_WAIT_COUNT : Fld := ⟨0, 64, .rc, 0⟩

def RSV_MIR_CFG : Reg := ⟨5, 0, 0x30⟩
def RSV_MIR_CFG_MIR_FLUSH : Fld := ⟨32, 16, .rw, 0x6b0⟩
def RSV_MIR_CFG_MIR_SLOTS : Fld := ⟨0, 22, .rw, 0x10000⟩

def RSV_SAMPLE_CFG : Reg := ⟨5, 0, 0x38⟩
def RSV_SAMPLE_CFG_SAMPLE_EN : Fld := ⟨63, 1, .rw, 0⟩
def RSV_SAMPLE_CFG_DIR : Fld := ⟨24, 2, .rw, 0⟩
def RSV_SAMPLE_CFG_SAMPLE_N : Fld := ⟨0, 24, .rw, 0x1000⟩

def RSV_SAMPLE_LOST : Reg := ⟨5, 0, 0x40⟩
def RSV_SAMPLE_LOST_COUNT : Fld := ⟨0, 64, .rc, 0⟩

def MIR_COPIED (i : Nat) : Reg := ⟨5, 0, 0x100 + 16 * i⟩
def MIR_COPIED_COUNT : Fld := ⟨0, 64, .rc, 0⟩

def MIR_SKIPPED (i : Nat) : Reg := ⟨5, 0, 0x108 + 16 * i⟩
def MIR_SKIPPED_COUNT : Fld := ⟨0, 64, .rc, 0⟩

/-! Table 4-4 (spec/04_sluice_scheduling.md R109) -/

def PORT_POLICED (p i : Nat) : Reg := ⟨2, p, 0x140 + 8 * i⟩
def PORT_POLICED_COUNT : Fld := ⟨0, 64, .rc, 0⟩

def PORT_VC_SCHED (p i : Nat) : Reg := ⟨2, p, 0x200 + 8 * i⟩
def PORT_VC_SCHED_GAP : Fld := ⟨24, 18, .rw, 0⟩
def PORT_VC_SCHED_BURST : Fld := ⟨16, 8, .rw, 1⟩
def PORT_VC_SCHED_SHAPE_EN : Fld := ⟨9, 1, .rw, 0⟩
def PORT_VC_SCHED_PRIO : Fld := ⟨8, 1, .rw, 0⟩
def PORT_VC_SCHED_WEIGHT : Fld := ⟨0, 8, .rw, 0x10⟩

def PORT_GATE_CTL (p : Nat) : Reg := ⟨2, p, 0x280⟩
def PORT_GATE_CTL_SW_CTX : Fld := ⟨40, 12, .rw, 0⟩
def PORT_GATE_CTL_SW_MODE : Fld := ⟨33, 1, .rw, 0⟩
def PORT_GATE_CTL_CUR_ENTRY : Fld := ⟨16, 6, .ro, 0⟩
def PORT_GATE_CTL_LATE : Fld := ⟨9, 1, .w1c, 0⟩
def PORT_GATE_CTL_CANCEL : Fld := ⟨8, 1, .wo, 0⟩
def PORT_GATE_CTL_ARM : Fld := ⟨1, 1, .w1s, 0⟩
def PORT_GATE_CTL_ACTIVE_BANK : Fld := ⟨0, 1, .ro, 0⟩

def PORT_GATE_SWITCH_AT (p : Nat) : Reg := ⟨2, p, 0x288⟩
def PORT_GATE_SWITCH_AT_GATE_SWITCH_AT : Fld := ⟨0, 64, .rw, 0⟩

def PORT_GATE_BASE (p : Nat) : Reg := ⟨2, p, 0x290⟩
def PORT_GATE_BASE_GATE_BASE : Fld := ⟨0, 64, .ro, 0⟩

def PORT_POLICE (p i : Nat) : Reg := ⟨2, p, 0x2a0 + 8 * i⟩
def PORT_POLICE_POLICED : Fld := ⟨63, 1, .rw, 0⟩
def PORT_POLICE_BURST : Fld := ⟨32, 16, .rw, 0x100⟩
def PORT_POLICE_RATE : Fld := ⟨0, 16, .rw, 0xffff⟩

/-! Table 4-6 (spec/04_sluice_scheduling.md R110) -/

def SLU_SMP_CFG : Reg := ⟨6, 0, 0x0⟩
def SLU_SMP_CFG_ENABLE : Fld := ⟨31, 1, .rw, 0⟩
def SLU_SMP_CFG_SHIFT : Fld := ⟨0, 5, .rw, 0x10⟩

def SLU_HIST_CTL : Reg := ⟨6, 0, 0x8⟩
def SLU_HIST_CTL_BUSY : Fld := ⟨1, 1, .ro, 0⟩
def SLU_HIST_CTL_CLEAR : Fld := ⟨0, 1, .wo, 0⟩

def SLU_HIST_BASE : Reg := ⟨6, 0, 0x10⟩
def SLU_HIST_BASE_HIST_BASE : Fld := ⟨0, 64, .ro, 0x82100000⟩

def SLU_SMP_COUNT : Reg := ⟨6, 0, 0x18⟩
def SLU_SMP_COUNT_COUNT : Fld := ⟨0, 64, .ro, 0⟩

def SLU_CYCLE : Reg := ⟨6, 0, 0x20⟩
def SLU_CYCLE_CYCLE : Fld := ⟨0, 64, .ro, 0⟩

/-! Table 5-10 (spec/05_number_formats.md R135) -/

def TILE_FP_FLAGS (t : Nat) : Reg := ⟨1, t, 0x100⟩
def TILE_FP_FLAGS_WEIR_NV : Fld := ⟨11, 1, .w1c, 0⟩
def TILE_FP_FLAGS_WEIR_NX : Fld := ⟨10, 1, .w1c, 0⟩
def TILE_FP_FLAGS_WEIR_UF : Fld := ⟨9, 1, .w1c, 0⟩
def TILE_FP_FLAGS_WEIR_OF : Fld := ⟨8, 1, .w1c, 0⟩
def TILE_FP_FLAGS_VU_NV : Fld := ⟨7, 1, .w1c, 0⟩
def TILE_FP_FLAGS_VU_NX : Fld := ⟨6, 1, .w1c, 0⟩
def TILE_FP_FLAGS_VU_UF : Fld := ⟨5, 1, .w1c, 0⟩
def TILE_FP_FLAGS_VU_OF : Fld := ⟨4, 1, .w1c, 0⟩
def TILE_FP_FLAGS_MU_NV : Fld := ⟨3, 1, .w1c, 0⟩
def TILE_FP_FLAGS_MU_NX : Fld := ⟨2, 1, .w1c, 0⟩
def TILE_FP_FLAGS_MU_UF : Fld := ⟨1, 1, .w1c, 0⟩
def TILE_FP_FLAGS_MU_OF : Fld := ⟨0, 1, .w1c, 0⟩

def TILE_FP_EVT (t : Nat) : Reg := ⟨1, t, 0x108⟩
def TILE_FP_EVT_FP_EVT_EN : Fld := ⟨0, 12, .rw, 0⟩

/-! Table 6-10 (spec/06_flume_tile.md R171) -/

def TILE_CTL (t : Nat) : Reg := ⟨1, t, 0x0⟩
def TILE_CTL_THREAD_HALT : Fld := ⟨0, 16, .rw, 0⟩

def TILE_STATUS (t : Nat) : Reg := ⟨1, t, 0x8⟩
def TILE_STATUS_CTX : Fld := ⟨32, 12, .ro, 0⟩
def TILE_STATUS_PHYS_TILE : Fld := ⟨16, 9, .ro, 0⟩
def TILE_STATUS_BOUND : Fld := ⟨8, 1, .ro, 0⟩

def TILE_THREAD_STATE (t : Nat) : Reg := ⟨1, t, 0x10⟩
def TILE_THREAD_STATE_STATE : Fld := ⟨0, 64, .ro, 0⟩

def TILE_FAULT (t : Nat) : Reg := ⟨1, t, 0x18⟩
def TILE_FAULT_VALID : Fld := ⟨63, 1, .w1c, 0⟩
def TILE_FAULT_OVF : Fld := ⟨62, 1, .w1c, 0⟩
def TILE_FAULT_THREAD : Fld := ⟨32, 4, .ro, 0⟩
def TILE_FAULT_ACC : Fld := ⟨16, 5, .ro, 0⟩
def TILE_FAULT_CAUSE : Fld := ⟨0, 8, .ro, 0⟩

def TILE_FAULT_PC (t : Nat) : Reg := ⟨1, t, 0x20⟩
def TILE_FAULT_PC_PC : Fld := ⟨0, 48, .ro, 0⟩

def TILE_DBG_SEL (t : Nat) : Reg := ⟨1, t, 0x28⟩
def TILE_DBG_SEL_KIND : Fld := ⟨61, 3, .rw, 0⟩
def TILE_DBG_SEL_INDEX : Fld := ⟨0, 5, .rw, 0⟩

def TILE_ACC_OWN (t i : Nat) : Reg := ⟨1, t, 0x40 + 8 * i⟩
def TILE_ACC_OWN_OWN : Fld := ⟨0, 64, .ro, 0⟩

def TILE_ACC_T (t i : Nat) : Reg := ⟨1, t, 0x60 + 8 * i⟩
def TILE_ACC_T_T : Fld := ⟨0, 64, .ro, 0⟩

def TILE_MU_RECOMP (t : Nat) : Reg := ⟨1, t, 0x88⟩
def TILE_MU_RECOMP_COUNT : Fld := ⟨0, 64, .rc, 0⟩

def TILE_MU_SAT (t : Nat) : Reg := ⟨1, t, 0x90⟩
def TILE_MU_SAT_COUNT : Fld := ⟨0, 64, .rc, 0⟩

def TILE_MU_RESCALE_UF (t : Nat) : Reg := ⟨1, t, 0x98⟩
def TILE_MU_RESCALE_UF_COUNT : Fld := ⟨0, 64, .rc, 0⟩

def TILE_TQ_STAT (t : Nat) : Reg := ⟨1, t, 0xa0⟩
def TILE_TQ_STAT_ENTRY : Fld := ⟨0, 40, .ro, 0⟩

def TILE_PC (t i : Nat) : Reg := ⟨1, t, 0x200 + 8 * i⟩
def TILE_PC_PC : Fld := ⟨0, 48, .ro, 0⟩

def TILE_CC (t i : Nat) : Reg := ⟨1, t, 0x400 + 8 * i⟩
def TILE_CC_VALUE : Fld := ⟨0, 32, .ro, 0⟩

/-! Table 8-11 (spec/08_weir_reduction.md R229) -/

def TILE_WEIR_CFG (t : Nat) : Reg := ⟨1, t, 0x800⟩
def TILE_WEIR_CFG_ENABLE : Fld := ⟨16, 1, .rw, 0⟩
def TILE_WEIR_CFG_SIZE : Fld := ⟨8, 8, .rw, 0⟩
def TILE_WEIR_CFG_BASE : Fld := ⟨0, 7, .rw, 0⟩

def TILE_WEIR_STAT (t : Nat) : Reg := ⟨1, t, 0x808⟩
def TILE_WEIR_STAT_CQ_DEPTH : Fld := ⟨32, 13, .ro, 0⟩
def TILE_WEIR_STAT_BUSY : Fld := ⟨0, 13, .ro, 0⟩

def TILE_WEIR_REFUSE (t : Nat) : Reg := ⟨1, t, 0x810⟩
def TILE_WEIR_REFUSE_VALID : Fld := ⟨63, 1, .w1c, 0⟩
def TILE_WEIR_REFUSE_OVF : Fld := ⟨62, 1, .w1c, 0⟩
def TILE_WEIR_REFUSE_SLOT : Fld := ⟨32, 10, .ro, 0⟩
def TILE_WEIR_REFUSE_NODE : Fld := ⟨16, 10, .ro, 0⟩
def TILE_WEIR_REFUSE_REASON : Fld := ⟨0, 8, .ro, 0⟩

def WEIR_CONTRIB (t : Nat) : Reg := ⟨1, t, 0x818⟩
def WEIR_CONTRIB_COUNT : Fld := ⟨0, 64, .rc, 0⟩

def WEIR_REFUSED (t : Nat) : Reg := ⟨1, t, 0x820⟩
def WEIR_REFUSED_COUNT : Fld := ⟨0, 64, .rc, 0⟩

def WEIR_DUP (t : Nat) : Reg := ⟨1, t, 0x828⟩
def WEIR_DUP_COUNT : Fld := ⟨0, 64, .rc, 0⟩

def WEIR_VOIDED (t : Nat) : Reg := ⟨1, t, 0x830⟩
def WEIR_VOIDED_COUNT : Fld := ⟨0, 64, .rc, 0⟩

def WEIR_POST_DISC (t : Nat) : Reg := ⟨1, t, 0x838⟩
def WEIR_POST_DISC_COUNT : Fld := ⟨0, 64, .rc, 0⟩

def WEIR_HOLD_CYC (t : Nat) : Reg := ⟨1, t, 0x840⟩
def WEIR_HOLD_CYC_COUNT : Fld := ⟨0, 64, .rc, 0⟩

def WEIR_RESIDUE (t : Nat) : Reg := ⟨1, t, 0x848⟩
def WEIR_RESIDUE_COUNT : Fld := ⟨0, 64, .rc, 0⟩

/-! Table 8-12 (spec/08_weir_reduction.md R230) -/

def DRY_CFG : Reg := ⟨7, 0, 0x0⟩
def DRY_CFG_ENABLE : Fld := ⟨63, 1, .rw, 0⟩
def DRY_CFG_WINDOW : Fld := ⟨32, 20, .rw, 0x3e8⟩
def DRY_CFG_THRESH : Fld := ⟨0, 20, .rw, 0xffbe8⟩

def DRY_BASE : Reg := ⟨7, 0, 0x8⟩
def DRY_BASE_BASE : Fld := ⟨0, 64, .ro, 0x82340000⟩

def DRY_EVENTS : Reg := ⟨7, 0, 0x10⟩
def DRY_EVENTS_COUNT : Fld := ⟨0, 64, .rc, 0⟩

/-! Table 9-11 (spec/09_collectives.md R262) -/

def WM_CFG : Reg := ⟨8, 0, 0x0⟩
def WM_CFG_CHUNK_TIMEOUT : Fld := ⟨32, 16, .rw, 0xa22⟩
def WM_CFG_BREAK_SETTLE : Fld := ⟨16, 8, .rw, 1⟩
def WM_CFG_NACK_LIMIT : Fld := ⟨8, 4, .rw, 4⟩
def WM_CFG_RETRY_LIMIT : Fld := ⟨0, 4, .rw, 4⟩

def WM_BASE : Reg := ⟨8, 0, 0x8⟩
def WM_BASE_BASE : Fld := ⟨0, 64, .ro, 0x82300000⟩

def WM_POND : Reg := ⟨8, 0, 0x10⟩
def WM_POND_USED : Fld := ⟨32, 32, .ro, 0⟩
def WM_POND_RESERVED : Fld := ⟨0, 32, .ro, 0⟩

def WM_REPLAY_DIFF0 : Reg := ⟨8, 0, 0x18⟩
def WM_REPLAY_DIFF0_VALID : Fld := ⟨63, 1, .w1c, 0⟩
def WM_REPLAY_DIFF0_OVF : Fld := ⟨62, 1, .w1c, 0⟩
def WM_REPLAY_DIFF0_NODE_ID : Fld := ⟨32, 15, .ro, 0⟩
def WM_REPLAY_DIFF0_CHUNK : Fld := ⟨0, 32, .ro, 0⟩

def WM_REPLAY_DIFF1 : Reg := ⟨8, 0, 0x20⟩
def WM_REPLAY_DIFF1_STEP : Fld := ⟨32, 32, .ro, 0⟩
def WM_REPLAY_DIFF1_CCRC : Fld := ⟨0, 32, .ro, 0⟩

def WM_SEALS : Reg := ⟨8, 0, 0x100⟩
def WM_SEALS_COUNT : Fld := ⟨0, 64, .rc, 0⟩

def WM_VOIDS : Reg := ⟨8, 0, 0x108⟩
def WM_VOIDS_COUNT : Fld := ⟨0, 64, .rc, 0⟩

def WM_NACKS : Reg := ⟨8, 0, 0x110⟩
def WM_NACKS_COUNT : Fld := ⟨0, 64, .rc, 0⟩

def WM_ACK_STALE : Reg := ⟨8, 0, 0x118⟩
def WM_ACK_STALE_COUNT : Fld := ⟨0, 64, .rc, 0⟩

def WM_BREAKS : Reg := ⟨8, 0, 0x120⟩
def WM_BREAKS_COUNT : Fld := ⟨0, 64, .rc, 0⟩

def WM_HOLDS : Reg := ⟨8, 0, 0x128⟩
def WM_HOLDS_COUNT : Fld := ⟨0, 64, .rc, 0⟩

def WM_CTL_DROP : Reg := ⟨8, 0, 0x130⟩
def WM_CTL_DROP_COUNT : Fld := ⟨0, 64, .rc, 0⟩

/-! Table 10-12 (spec/10_expert_and_headwater.md R291) -/

def EXP_CFG : Reg := ⟨9, 0, 0x0⟩
def EXP_CFG_ROLL_TIMEOUT : Fld := ⟨32, 16, .rw, 0x1a⟩
def EXP_CFG_COMB_TIMEOUT : Fld := ⟨16, 16, .rw, 0x1a⟩
def EXP_CFG_ENABLE : Fld := ⟨0, 1, .rw, 0⟩

def EXP_BASE : Reg := ⟨9, 0, 0x8⟩
def EXP_BASE_BASE : Fld := ⟨0, 64, .ro, 0x82380000⟩

def EXP_ENT_BASE : Reg := ⟨9, 0, 0x10⟩
def EXP_ENT_BASE_BASE : Fld := ⟨0, 64, .ro, 0x82400000⟩

def EXP_TOKENS : Reg := ⟨9, 0, 0x100⟩
def EXP_TOKENS_COUNT : Fld := ⟨0, 64, .rc, 0⟩

def EXP_DROPPED : Reg := ⟨9, 0, 0x108⟩
def EXP_DROPPED_COUNT : Fld := ⟨0, 64, .rc, 0⟩

def EXP_REPLACED : Reg := ⟨9, 0, 0x110⟩
def EXP_REPLACED_COUNT : Fld := ⟨0, 64, .rc, 0⟩

def EXP_HELD : Reg := ⟨9, 0, 0x118⟩
def EXP_HELD_COUNT : Fld := ⟨0, 64, .rc, 0⟩

def EXP_INVALID : Reg := ⟨9, 0, 0x120⟩
def EXP_INVALID_COUNT : Fld := ⟨0, 64, .rc, 0⟩

def EXP_LATE : Reg := ⟨9, 0, 0x128⟩
def EXP_LATE_COUNT : Fld := ⟨0, 64, .rc, 0⟩

def EXP_STRAY : Reg := ⟨9, 0, 0x130⟩
def EXP_STRAY_COUNT : Fld := ⟨0, 64, .rc, 0⟩

def EXP_LOST : Reg := ⟨9, 0, 0x138⟩
def EXP_LOST_COUNT : Fld := ⟨0, 64, .rc, 0⟩

def EXP_WAIT_CYC : Reg := ⟨9, 0, 0x140⟩
def EXP_WAIT_CYC_COUNT : Fld := ⟨0, 64, .rc, 0⟩

/-! Table 10-13 (spec/10_expert_and_headwater.md R292) -/

def MEMT_CFG : Reg := ⟨10, 0, 0x0⟩
def MEMT_CFG_ATOMIC_HOLD : Fld := ⟨0, 24, .rw, 0x29810⟩

def MEMT_BASE : Reg := ⟨10, 0, 0x8⟩
def MEMT_BASE_BASE : Fld := ⟨0, 64, .ro, 0x82381000⟩

def MEMT_REQ : Reg := ⟨10, 0, 0x100⟩
def MEMT_REQ_COUNT : Fld := ⟨0, 64, .rc, 0⟩

def MEMT_REFUSED : Reg := ⟨10, 0, 0x108⟩
def MEMT_REFUSED_COUNT : Fld := ⟨0, 64, .rc, 0⟩

def MEMT_ATOMIC_DUP : Reg := ⟨10, 0, 0x110⟩
def MEMT_ATOMIC_DUP_COUNT : Fld := ⟨0, 64, .rc, 0⟩

def MEMT_ATOMIC_BUSY : Reg := ⟨10, 0, 0x118⟩
def MEMT_ATOMIC_BUSY_COUNT : Fld := ⟨0, 64, .rc, 0⟩

/-! Table 11-9 (spec/11_memory_and_pools.md R316) -/

def MEM_CFG : Reg := ⟨11, 0, 0x0⟩
def MEM_CFG_RETIRE_THRESH : Fld := ⟨0, 8, .rw, 8⟩

def MEM_PROT_BASE : Reg := ⟨11, 0, 0x8⟩
def MEM_PROT_BASE_BASE : Fld := ⟨0, 64, .ro, 0x82390000⟩

def MEM_SPARES : Reg := ⟨11, 0, 0x10⟩
def MEM_SPARES_FREE : Fld := ⟨0, 14, .ro, 0x2000⟩

def MEM_CE : Reg := ⟨11, 0, 0x100⟩
def MEM_CE_COUNT : Fld := ⟨0, 64, .rc, 0⟩

def MEM_UE : Reg := ⟨11, 0, 0x108⟩
def MEM_UE_COUNT : Fld := ⟨0, 64, .rc, 0⟩

def MEM_RETIRED : Reg := ⟨11, 0, 0x110⟩
def MEM_RETIRED_COUNT : Fld := ⟨0, 64, .rc, 0⟩

def SRAM_CE : Reg := ⟨11, 0, 0x118⟩
def SRAM_CE_COUNT : Fld := ⟨0, 64, .rc, 0⟩

def SRAM_UE : Reg := ⟨11, 0, 0x120⟩
def SRAM_UE_COUNT : Fld := ⟨0, 64, .rc, 0⟩

/-! Table 11-10 (spec/11_memory_and_pools.md R317) -/

def POOL_CFG (i : Nat) : Reg := ⟨12, 0, 0x100 + 64 * i⟩
def POOL_CFG_STATE : Fld := ⟨62, 2, .ro, 0⟩
def POOL_CFG_LOC : Fld := ⟨60, 2, .ro, 0⟩
def POOL_CFG_SIZE : Fld := ⟨56, 4, .ro, 0⟩
def POOL_CFG_RING : Fld := ⟨55, 1, .ro, 0⟩
def POOL_CFG_CTX : Fld := ⟨40, 12, .ro, 0⟩
def POOL_CFG_COUNT : Fld := ⟨0, 28, .ro, 0⟩

def POOL_BASE (i : Nat) : Reg := ⟨12, 0, 0x108 + 64 * i⟩
def POOL_BASE_BASE : Fld := ⟨0, 64, .ro, 0⟩

def POOL_META (i : Nat) : Reg := ⟨12, 0, 0x110 + 64 * i⟩
def POOL_META_META_BASE : Fld := ⟨0, 64, .ro, 0⟩

def POOL_STAT (i : Nat) : Reg := ⟨12, 0, 0x118 + 64 * i⟩
def POOL_STAT_FREE : Fld := ⟨32, 28, .ro, 0⟩
def POOL_STAT_SHORT : Fld := ⟨0, 28, .ro, 0⟩

def POOL_WAITERS (i : Nat) : Reg := ⟨12, 0, 0x120 + 64 * i⟩
def POOL_WAITERS_WAITING : Fld := ⟨0, 11, .ro, 0⟩

def POOL_WAITS (i : Nat) : Reg := ⟨12, 0, 0x128 + 64 * i⟩
def POOL_WAITS_COUNT : Fld := ⟨0, 64, .rc, 0⟩

def POOL_STALE (i : Nat) : Reg := ⟨12, 0, 0x130 + 64 * i⟩
def POOL_STALE_COUNT : Fld := ⟨0, 64, .rc, 0⟩

def POOL_ORPHANED (i : Nat) : Reg := ⟨12, 0, 0x138 + 64 * i⟩
def POOL_ORPHANED_COUNT : Fld := ⟨0, 64, .rc, 0⟩

/-! Table 12-8 (spec/12_lanes_and_links.md R343) -/

def PORT_LINK_CTL (p : Nat) : Reg := ⟨2, p, 0x0⟩
def PORT_LINK_CTL_TRAIN_TMO : Fld := ⟨48, 16, .rw, 0xa22⟩
def PORT_LINK_CTL_HELLO_TMO : Fld := ⟨32, 16, .rw, 0x103⟩
def PORT_LINK_CTL_REPLAY_TMO : Fld := ⟨16, 16, .rw, 0x109a⟩
def PORT_LINK_CTL_RETRAIN : Fld := ⟨5, 1, .wo, 0⟩
def PORT_LINK_CTL_NARROW_EN : Fld := ⟨4, 1, .rw, 1⟩
def PORT_LINK_CTL_LOOP : Fld := ⟨2, 2, .rw, 0⟩
def PORT_LINK_CTL_ENABLE : Fld := ⟨0, 1, .rw, 1⟩

def PORT_LINK_STAT (p : Nat) : Reg := ⟨2, p, 0x8⟩
def PORT_LINK_STAT_DOWN_REASON : Fld := ⟨60, 4, .ro, 0⟩
def PORT_LINK_STAT_Q_REASON : Fld := ⟨56, 4, .ro, 0⟩
def PORT_LINK_STAT_LINK_REV : Fld := ⟨52, 4, .ro, 0⟩
def PORT_LINK_STAT_REDUCE_OFF : Fld := ⟨51, 1, .ro, 0⟩
def PORT_LINK_STAT_FP_DIFF : Fld := ⟨50, 1, .ro, 0⟩
def PORT_LINK_STAT_FAILED : Fld := ⟨40, 8, .ro, 0⟩
def PORT_LINK_STAT_WIDTH_MAP : Fld := ⟨36, 4, .ro, 0⟩
def PORT_LINK_STAT_WIDTH : Fld := ⟨32, 4, .ro, 0⟩
def PORT_LINK_STAT_STATE : Fld := ⟨0, 3, .ro, 0⟩

def PORT_PEER_EXP0 (p : Nat) : Reg := ⟨2, p, 0x10⟩
def PORT_PEER_EXP0_CHECK : Fld := ⟨63, 1, .ro, 0⟩
def PORT_PEER_EXP0_ROLE : Fld := ⟨44, 2, .ro, 0⟩
def PORT_PEER_EXP0_PORT : Fld := ⟨32, 10, .ro, 0⟩
def PORT_PEER_EXP0_ID : Fld := ⟨0, 17, .ro, 0⟩

def PORT_PEER_EXP1 (p : Nat) : Reg := ⟨2, p, 0x18⟩
def PORT_PEER_EXP1_KEY_DIGEST : Fld := ⟨0, 64, .ro, 0⟩

def PORT_PEER_SEEN0 (p : Nat) : Reg := ⟨2, p, 0x20⟩
def PORT_PEER_SEEN0_COLL_REV : Fld := ⟨56, 8, .ro, 0⟩
def PORT_PEER_SEEN0_REV_MAX : Fld := ⟨52, 4, .ro, 0⟩
def PORT_PEER_SEEN0_REV_MIN : Fld := ⟨48, 4, .ro, 0⟩
def PORT_PEER_SEEN0_ROLE : Fld := ⟨44, 2, .ro, 0⟩
def PORT_PEER_SEEN0_PORT : Fld := ⟨32, 10, .ro, 0⟩
def PORT_PEER_SEEN0_ID : Fld := ⟨0, 17, .ro, 0⟩

def PORT_PEER_SEEN1 (p : Nat) : Reg := ⟨2, p, 0x28⟩
def PORT_PEER_SEEN1_KEY_DIGEST : Fld := ⟨0, 64, .ro, 0⟩

def PORT_FEC_CW (p : Nat) : Reg := ⟨2, p, 0x800⟩
def PORT_FEC_CW_COUNT : Fld := ⟨0, 64, .rc, 0⟩

def PORT_FEC_CORR (p : Nat) : Reg := ⟨2, p, 0x808⟩
def PORT_FEC_CORR_COUNT : Fld := ⟨0, 64, .rc, 0⟩

def PORT_FEC_SYM (p : Nat) : Reg := ⟨2, p, 0x810⟩
def PORT_FEC_SYM_COUNT : Fld := ⟨0, 64, .rc, 0⟩

def PORT_FEC_UNCORR (p : Nat) : Reg := ⟨2, p, 0x818⟩
def PORT_FEC_UNCORR_COUNT : Fld := ⟨0, 64, .rc, 0⟩

def PORT_REPLAY_REQ (p : Nat) : Reg := ⟨2, p, 0x820⟩
def PORT_REPLAY_REQ_COUNT : Fld := ⟨0, 64, .rc, 0⟩

def PORT_REPLAY_SENT (p : Nat) : Reg := ⟨2, p, 0x828⟩
def PORT_REPLAY_SENT_COUNT : Fld := ⟨0, 64, .rc, 0⟩

def PORT_LINK_DOWN (p : Nat) : Reg := ⟨2, p, 0x830⟩
def PORT_LINK_DOWN_COUNT : Fld := ⟨0, 64, .rc, 0⟩

def PORT_HELLO_BAD (p : Nat) : Reg := ⟨2, p, 0x838⟩
def PORT_HELLO_BAD_COUNT : Fld := ⟨0, 64, .rc, 0⟩

def PORT_HELLO_RX (p i : Nat) : Reg := ⟨2, p, 0x900 + 8 * i⟩
def PORT_HELLO_RX_DATA : Fld := ⟨0, 64, .ro, 0⟩

/-! Table 12-9 (spec/12_lanes_and_links.md R344) -/

def OCT_LANE_CFG (o i : Nat) : Reg := ⟨3, o, 0x0 + 256 * i⟩
def OCT_LANE_CFG_PRBS_GEN : Fld := ⟨31, 1, .rw, 0⟩
def OCT_LANE_CFG_PRBS_CHK : Fld := ⟨30, 1, .rw, 0⟩
def OCT_LANE_CFG_TX_PRE : Fld := ⟨16, 8, .rw, 4⟩
def OCT_LANE_CFG_TX_MAIN : Fld := ⟨8, 8, .rw, 0x38⟩
def OCT_LANE_CFG_TX_POST : Fld := ⟨0, 8, .rw, 4⟩

def OCT_LANE_STAT (o i : Nat) : Reg := ⟨3, o, 0x8 + 256 * i⟩
def OCT_LANE_STAT_LOS : Fld := ⟨15, 1, .ro, 0⟩
def OCT_LANE_STAT_LOL : Fld := ⟨14, 1, .ro, 0⟩
def OCT_LANE_STAT_MARKER_LOCK : Fld := ⟨13, 1, .ro, 0⟩
def OCT_LANE_STAT_INVERTED : Fld := ⟨12, 1, .ro, 0⟩
def OCT_LANE_STAT_FAILED : Fld := ⟨11, 1, .ro, 0⟩
def OCT_LANE_STAT_LOGICAL : Fld := ⟨8, 3, .ro, 0⟩
def OCT_LANE_STAT_SNR : Fld := ⟨0, 8, .ro, 0⟩

def OCT_LANE_FLAGS (o i : Nat) : Reg := ⟨3, o, 0x10 + 256 * i⟩
def OCT_LANE_FLAGS_LOS_SEEN : Fld := ⟨1, 1, .w1c, 0⟩
def OCT_LANE_FLAGS_LOL_SEEN : Fld := ⟨0, 1, .w1c, 0⟩

def OCT_LANE_SYM (o i : Nat) : Reg := ⟨3, o, 0x18 + 256 * i⟩
def OCT_LANE_SYM_COUNT : Fld := ⟨0, 64, .rc, 0⟩

def OCT_LANE_PRBS_ERR (o i : Nat) : Reg := ⟨3, o, 0x20 + 256 * i⟩
def OCT_LANE_PRBS_ERR_COUNT : Fld := ⟨0, 64, .rc, 0⟩

def OCT_CFG (o : Nat) : Reg := ⟨3, o, 0x800⟩
def OCT_CFG_LANE_SER_LIMIT : Fld := ⟨0, 32, .rw, 0x10000⟩

/-! Table 13-14 (spec/13_host_port_and_control.md R368) -/

def HP_CFG : Reg := ⟨16, 0, 0x0⟩
def HP_CFG_UDP_PORT : Fld := ⟨16, 16, .rw, 0x7a1c⟩
def HP_CFG_IPV4_EN : Fld := ⟨11, 1, .rw, 1⟩
def HP_CFG_IPV6_EN : Fld := ⟨10, 1, .rw, 1⟩
def HP_CFG_PMD : Fld := ⟨8, 2, .rw, 0⟩
def HP_CFG_AN_EN : Fld := ⟨7, 1, .rw, 1⟩

def HP_MAC : Reg := ⟨16, 0, 0x8⟩
def HP_MAC_MAC : Fld := ⟨0, 48, .rw, 0⟩

def HP_IPV4 : Reg := ⟨16, 0, 0x10⟩
def HP_IPV4_ADDR : Fld := ⟨0, 32, .rw, 0⟩

def HP_IPV6_HI : Reg := ⟨16, 0, 0x18⟩
def HP_IPV6_HI_ADDR_HI : Fld := ⟨0, 64, .rw, 0⟩

def HP_IPV6_LO : Reg := ⟨16, 0, 0x20⟩
def HP_IPV6_LO_ADDR_LO : Fld := ⟨0, 64, .rw, 0⟩

def HP_PREFIX : Reg := ⟨16, 0, 0x28⟩
def HP_PREFIX_V6_PREFIX : Fld := ⟨8, 8, .rw, 0⟩
def HP_PREFIX_V4_PREFIX : Fld := ⟨0, 8, .rw, 0⟩

def HP_SESSIONS : Reg := ⟨16, 0, 0x30⟩
def HP_SESSIONS_OPEN : Fld := ⟨0, 64, .ro, 0⟩

def HP_PRIV : Reg := ⟨16, 0, 0x38⟩
def HP_PRIV_VALID : Fld := ⟨8, 1, .ro, 0⟩
def HP_PRIV_SESSION : Fld := ⟨0, 6, .ro, 0⟩

def HP_TMO : Reg := ⟨16, 0, 0x40⟩
def HP_TMO_SESSION_TMO : Fld := ⟨0, 16, .rw, 0x2710⟩

def HP_CTL : Reg := ⟨16, 0, 0x48⟩
def HP_CTL_SAVE : Fld := ⟨1, 1, .wo, 0⟩
def HP_CTL_CLOSE_ALL : Fld := ⟨0, 1, .wo, 0⟩

def HP_RX_ZCT : Reg := ⟨16, 0, 0x100⟩
def HP_RX_ZCT_COUNT : Fld := ⟨0, 64, .rc, 0⟩

def HP_AUTH_FAIL : Reg := ⟨16, 0, 0x108⟩
def HP_AUTH_FAIL_COUNT : Fld := ⟨0, 64, .rc, 0⟩

def HP_REPLAY_DROP : Reg := ⟨16, 0, 0x110⟩
def HP_REPLAY_DROP_COUNT : Fld := ⟨0, 64, .rc, 0⟩

def HP_RX_OTHER : Reg := ⟨16, 0, 0x118⟩
def HP_RX_OTHER_COUNT : Fld := ⟨0, 64, .rc, 0⟩

def HP_EVT_LOST : Reg := ⟨16, 0, 0x120⟩
def HP_EVT_LOST_COUNT : Fld := ⟨0, 64, .rc, 0⟩

def HP_KEY_FLAGS (i : Nat) : Reg := ⟨16, 0, 0x400 + 64 * i⟩
def HP_KEY_FLAGS_VALID : Fld := ⟨63, 1, .rw, 0⟩
def HP_KEY_FLAGS_PRIV : Fld := ⟨0, 1, .rw, 0⟩

def HP_KEY_PUB (i j : Nat) : Reg := ⟨16, 0, 0x408 + 64 * i + 8 * j⟩
def HP_KEY_PUB_KEY : Fld := ⟨0, 64, .rw, 0⟩

/-! Table 13-15 (spec/13_host_port_and_control.md R369) -/

def CTX_STATE (i : Nat) : Reg := ⟨17, 0, 0x0 + 64 * i⟩
def CTX_STATE_STATE : Fld := ⟨62, 2, .ro, 0⟩
def CTX_STATE_GEN : Fld := ⟨56, 4, .ro, 0⟩
def CTX_STATE_KEY_MASK : Fld := ⟨32, 16, .ro, 0⟩
def CTX_STATE_STEP : Fld := ⟨0, 32, .ro, 0⟩

def CTX_RING_HALT (i : Nat) : Reg := ⟨17, 0, 0x8 + 64 * i⟩
def CTX_RING_HALT_HALTED : Fld := ⟨0, 64, .w1c, 0⟩

def CTX_REJECTS (i : Nat) : Reg := ⟨17, 0, 0x10 + 64 * i⟩
def CTX_REJECTS_COUNT : Fld := ⟨0, 64, .rc, 0⟩

/-! Table 14-9 (spec/14_faults_and_recovery.md R406) -/

def SPW_FERR_SRC : Reg := ⟨13, 0, 0x0⟩
def SPW_FERR_SRC_VALID : Fld := ⟨63, 1, .w1c, 0⟩
def SPW_FERR_SRC_OVF : Fld := ⟨62, 1, .w1c, 0⟩
def SPW_FERR_SRC_CLASS : Fld := ⟨56, 3, .ro, 0⟩
def SPW_FERR_SRC_HW : Fld := ⟨55, 1, .ro, 0⟩
def SPW_FERR_SRC_CTX_VALID : Fld := ⟨44, 1, .ro, 0⟩
def SPW_FERR_SRC_CTX : Fld := ⟨32, 12, .ro, 0⟩
def SPW_FERR_SRC_SOURCE : Fld := ⟨0, 32, .ro, 0⟩

def SPW_FERR_CODE : Reg := ⟨13, 0, 0x8⟩
def SPW_FERR_CODE_CODE : Fld := ⟨0, 32, .ro, 0⟩

def SPW_FERR_CYCLE : Reg := ⟨13, 0, 0x10⟩
def SPW_FERR_CYCLE_CYCLE : Fld := ⟨0, 64, .ro, 0⟩

def SPW_STAT : Reg := ⟨13, 0, 0x18⟩
def SPW_STAT_SAFE : Fld := ⟨63, 1, .ro, 0⟩
def SPW_STAT_FATAL : Fld := ⟨62, 1, .ro, 0⟩
def SPW_STAT_ADVISORY : Fld := ⟨61, 1, .ro, 0⟩
def SPW_STAT_DEGRADED : Fld := ⟨60, 1, .ro, 0⟩
def SPW_STAT_RESET_BUSY : Fld := ⟨59, 1, .ro, 0⟩
def SPW_STAT_RESET_UNIT : Fld := ⟨56, 3, .ro, 0⟩
def SPW_STAT_SPARES : Fld := ⟨16, 6, .ro, 8⟩
def SPW_STAT_ACTIVE : Fld := ⟨0, 9, .ro, 0x100⟩

def SPW_AUTO : Reg := ⟨13, 0, 0x20⟩
def SPW_AUTO_CAP_HANG : Fld := ⟨5, 1, .rw, 1⟩
def SPW_AUTO_AUTO_CTX : Fld := ⟨4, 1, .rw, 0⟩
def SPW_AUTO_AUTO_ENG : Fld := ⟨3, 1, .rw, 1⟩
def SPW_AUTO_AUTO_PART : Fld := ⟨2, 1, .rw, 1⟩
def SPW_AUTO_AUTO_DEV : Fld := ⟨1, 1, .rw, 1⟩
def SPW_AUTO_AUTO_SPARE : Fld := ⟨0, 1, .rw, 1⟩

def SPW_LIMITS : Reg := ⟨13, 0, 0x28⟩
def SPW_LIMITS_E_LIMIT : Fld := ⟨56, 8, .rw, 2⟩
def SPW_LIMITS_ESC_WINDOW : Fld := ⟨40, 16, .rw, 0x3e8⟩
def SPW_LIMITS_STALL_SCANS : Fld := ⟨32, 8, .rw, 8⟩
def SPW_LIMITS_GEN_QUIET : Fld := ⟨16, 16, .rw, 0xa⟩
def SPW_LIMITS_CAP_TMO : Fld := ⟨0, 16, .rw, 0x64⟩

def SPW_RESET : Reg := ⟨13, 0, 0x30⟩
def SPW_RESET_GO : Fld := ⟨63, 1, .wo, 0⟩
def SPW_RESET_SCRUB : Fld := ⟨62, 1, .rw, 0⟩
def SPW_RESET_REPLACE : Fld := ⟨61, 1, .rw, 0⟩
def SPW_RESET_UNIT : Fld := ⟨56, 3, .rw, 0⟩
def SPW_RESET_ENGINE : Fld := ⟨48, 2, .rw, 0⟩
def SPW_RESET_INDEX : Fld := ⟨0, 10, .rw, 0⟩

def FAULT_PIN : Reg := ⟨13, 0, 0x38⟩
def FAULT_PIN_PULSE : Fld := ⟨1, 1, .ro, 0⟩
def FAULT_PIN_DRIVE : Fld := ⟨0, 1, .rw, 0⟩

def SPW_TRAY_REQ : Reg := ⟨13, 0, 0x40⟩
def SPW_TRAY_REQ_ASSERTED : Fld := ⟨1, 1, .ro, 0⟩
def SPW_TRAY_REQ_REQUEST : Fld := ⟨0, 1, .w1s, 0⟩

def SPW_CAP_LAST : Reg := ⟨13, 0, 0x48⟩
def SPW_CAP_LAST_HANDLE : Fld := ⟨0, 64, .ro, 0⟩

def SPW_CAP_FREE : Reg := ⟨13, 0, 0x50⟩
def SPW_CAP_FREE_HANDLE : Fld := ⟨0, 64, .wo, 0⟩

def SPW_COUNT_BASE : Reg := ⟨13, 0, 0x58⟩
def SPW_COUNT_BASE_BASE : Fld := ⟨0, 64, .ro, 0x825ab000⟩

def SPW_CTL : Reg := ⟨13, 0, 0x60⟩
def SPW_CTL_COUNT_CLEAR : Fld := ⟨0, 1, .wo, 0⟩

def SPW_LEDGER : Reg := ⟨13, 0, 0x68⟩
def SPW_LEDGER_COUNT : Fld := ⟨0, 14, .ro, 0⟩

def SPW_EVENTS : Reg := ⟨13, 0, 0x100⟩
def SPW_EVENTS_COUNT : Fld := ⟨0, 64, .rc, 0⟩

def SPW_HANGS : Reg := ⟨13, 0, 0x108⟩
def SPW_HANGS_COUNT : Fld := ⟨0, 64, .rc, 0⟩

def SPW_CAP_LOST : Reg := ⟨13, 0, 0x110⟩
def SPW_CAP_LOST_COUNT : Fld := ⟨0, 64, .rc, 0⟩

def SPW_DISCARDED : Reg := ⟨13, 0, 0x118⟩
def SPW_DISCARDED_COUNT : Fld := ⟨0, 64, .rc, 0⟩

def SPW_SCANS : Reg := ⟨13, 0, 0x120⟩
def SPW_SCANS_COUNT : Fld := ⟨0, 64, .ro, 0⟩

/-! Table 15-7 (spec/15_power_clocks_security.md R431) -/

def PWR_INPUT : Reg := ⟨14, 0, 0x0⟩
def PWR_INPUT_VOLTAGE : Fld := ⟨32, 16, .ro, 0⟩
def PWR_INPUT_CURRENT : Fld := ⟨16, 16, .ro, 0⟩
def PWR_INPUT_POWER : Fld := ⟨0, 16, .ro, 0⟩

def PWR_CAP : Reg := ⟨14, 0, 0x8⟩
def PWR_CAP_CAP : Fld := ⟨0, 16, .rw, 0x960⟩

def PWR_THROTTLE : Reg := ⟨14, 0, 0x10⟩
def PWR_THROTTLE_THERMAL : Fld := ⟨10, 1, .ro, 0⟩
def PWR_THROTTLE_CURRENT : Fld := ⟨9, 1, .ro, 0⟩
def PWR_THROTTLE_POWER : Fld := ⟨8, 1, .ro, 0⟩
def PWR_THROTTLE_DUTY : Fld := ⟨0, 5, .ro, 0x10⟩

def PWR_SPACING : Reg := ⟨14, 0, 0x18⟩
def PWR_SPACING_SERDES_GAP : Fld := ⟨16, 16, .rw, 0xc8⟩
def PWR_SPACING_CLUSTER_GAP : Fld := ⟨0, 16, .rw, 0x32⟩

def PWR_TEMP : Reg := ⟨14, 0, 0x20⟩
def PWR_TEMP_TEMP_HOT : Fld := ⟨16, 16, .rw, 0x1a4⟩
def PWR_TEMP_HOTTEST : Fld := ⟨0, 16, .ro, 0⟩

def PWR_THROTTLE_CYC : Reg := ⟨14, 0, 0x28⟩
def PWR_THROTTLE_CYC_COUNT : Fld := ⟨0, 64, .rc, 0⟩

def PWR_DOMAIN (i : Nat) : Reg := ⟨14, 0, 0x100 + 8 * i⟩
def PWR_DOMAIN_STATE : Fld := ⟨62, 2, .ro, 0⟩
def PWR_DOMAIN_OFF : Fld := ⟨0, 1, .rw, 0⟩

/-! Table 15-8 (spec/15_power_clocks_security.md R432) -/

def CLK_STAT : Reg := ⟨15, 0, 0x0⟩
def CLK_STAT_HOST_LOCK : Fld := ⟨3, 1, .ro, 0⟩
def CLK_STAT_MEM_LOCK : Fld := ⟨2, 1, .ro, 0⟩
def CLK_STAT_MGMT_LOCK : Fld := ⟨1, 1, .ro, 0⟩
def CLK_STAT_CORE_LOCK : Fld := ⟨0, 1, .ro, 0⟩

def CLK_TIMEOUTS : Reg := ⟨15, 0, 0x8⟩
def CLK_TIMEOUTS_COUNT : Fld := ⟨0, 64, .rc, 0⟩

def CLK_OVERFLOWS : Reg := ⟨15, 0, 0x10⟩
def CLK_OVERFLOWS_COUNT : Fld := ⟨0, 64, .rc, 0⟩

def CDC_STATE (i : Nat) : Reg := ⟨15, 0, 0x100 + 8 * i⟩
def CDC_STATE_LOST : Fld := ⟨32, 32, .ro, 0⟩
def CDC_STATE_STATE : Fld := ⟨0, 2, .ro, 0⟩

/-! Table 15-9 (spec/15_power_clocks_security.md R433) -/

def SEC_BOOT : Reg := ⟨19, 0, 0x0⟩
def SEC_BOOT_SLOT : Fld := ⟨56, 1, .ro, 0⟩
def SEC_BOOT_BOOT_STATUS : Fld := ⟨48, 8, .ro, 0⟩
def SEC_BOOT_ID_FAIL : Fld := ⟨32, 1, .ro, 0⟩
def SEC_BOOT_BOOT : Fld := ⟨0, 32, .ro, 0⟩

def SEC_BOOT_NEXT : Reg := ⟨19, 0, 0x8⟩
def SEC_BOOT_NEXT_BOOT_NEXT : Fld := ⟨0, 1, .rw, 0⟩

def SEC_FW_SRC : Reg := ⟨19, 0, 0x10⟩
def SEC_FW_SRC_ADDRESS : Fld := ⟨0, 64, .rw, 0⟩

def SEC_FW_LEN : Reg := ⟨19, 0, 0x18⟩
def SEC_FW_LEN_LENGTH : Fld := ⟨0, 32, .rw, 0⟩

def SEC_FW_CTL : Reg := ⟨19, 0, 0x20⟩
def SEC_FW_CTL_GO : Fld := ⟨63, 1, .wo, 0⟩
def SEC_FW_CTL_BUSY : Fld := ⟨62, 1, .ro, 0⟩
def SEC_FW_CTL_SLOT : Fld := ⟨8, 1, .rw, 0⟩
def SEC_FW_CTL_STATUS : Fld := ⟨0, 8, .ro, 0⟩

def SEC_SIGN_REFUSED : Reg := ⟨19, 0, 0x28⟩
def SEC_SIGN_REFUSED_COUNT : Fld := ⟨0, 64, .rc, 0⟩

def SEC_CHAIN (i : Nat) : Reg := ⟨19, 0, 0x40 + 8 * i⟩
def SEC_CHAIN_CHAIN : Fld := ⟨0, 64, .ro, 0⟩

/-! Table 16-3 (spec/16_water_book.md R448) -/

def WBR_CTL : Reg := ⟨18, 0, 0x0⟩
def WBR_CTL_RESEND : Fld := ⟨33, 1, .w1s, 0⟩
def WBR_CTL_REQUEST : Fld := ⟨32, 1, .w1s, 0⟩
def WBR_CTL_RESEND_SEQ : Fld := ⟨0, 32, .rw, 0⟩

def WBR_STAT : Reg := ⟨18, 0, 0x8⟩
def WBR_STAT_LINK_UP : Fld := ⟨63, 1, .ro, 0⟩
def WBR_STAT_NEWEST : Fld := ⟨0, 32, .ro, 0⟩

def WBR_COUNT : Reg := ⟨18, 0, 0x10⟩
def WBR_COUNT_COUNT : Fld := ⟨0, 64, .rc, 0⟩

def WBR_BAD : Reg := ⟨18, 0, 0x18⟩
def WBR_BAD_COUNT : Fld := ⟨0, 64, .rc, 0⟩

/-- The register map of a block type. -/
def regRows (blk : Nat) : List RegRow :=
  match blk with
  | 1 =>
    [
    ⟨0x100, [],
      [TILE_FP_FLAGS_WEIR_NV, TILE_FP_FLAGS_WEIR_NX, TILE_FP_FLAGS_WEIR_UF, TILE_FP_FLAGS_WEIR_OF, TILE_FP_FLAGS_VU_NV, TILE_FP_FLAGS_VU_NX, TILE_FP_FLAGS_VU_UF, TILE_FP_FLAGS_VU_OF, TILE_FP_FLAGS_MU_NV, TILE_FP_FLAGS_MU_NX, TILE_FP_FLAGS_MU_UF, TILE_FP_FLAGS_MU_OF]⟩,
    ⟨0x108, [],
      [TILE_FP_EVT_FP_EVT_EN]⟩,
    ⟨0x0, [],
      [TILE_CTL_THREAD_HALT]⟩,
    ⟨0x8, [],
      [TILE_STATUS_CTX, TILE_STATUS_PHYS_TILE, TILE_STATUS_BOUND]⟩,
    ⟨0x10, [],
      [TILE_THREAD_STATE_STATE]⟩,
    ⟨0x18, [],
      [TILE_FAULT_VALID, TILE_FAULT_OVF, TILE_FAULT_THREAD, TILE_FAULT_ACC, TILE_FAULT_CAUSE]⟩,
    ⟨0x20, [],
      [TILE_FAULT_PC_PC]⟩,
    ⟨0x28, [],
      [TILE_DBG_SEL_KIND, TILE_DBG_SEL_INDEX]⟩,
    ⟨0x40, [(8, 4)],
      [TILE_ACC_OWN_OWN]⟩,
    ⟨0x60, [(8, 4)],
      [TILE_ACC_T_T]⟩,
    ⟨0x88, [],
      [TILE_MU_RECOMP_COUNT]⟩,
    ⟨0x90, [],
      [TILE_MU_SAT_COUNT]⟩,
    ⟨0x98, [],
      [TILE_MU_RESCALE_UF_COUNT]⟩,
    ⟨0xa0, [],
      [TILE_TQ_STAT_ENTRY]⟩,
    ⟨0x200, [(8, 16)],
      [TILE_PC_PC]⟩,
    ⟨0x400, [(8, 64)],
      [TILE_CC_VALUE]⟩,
    ⟨0x800, [],
      [TILE_WEIR_CFG_ENABLE, TILE_WEIR_CFG_SIZE, TILE_WEIR_CFG_BASE]⟩,
    ⟨0x808, [],
      [TILE_WEIR_STAT_CQ_DEPTH, TILE_WEIR_STAT_BUSY]⟩,
    ⟨0x810, [],
      [TILE_WEIR_REFUSE_VALID, TILE_WEIR_REFUSE_OVF, TILE_WEIR_REFUSE_SLOT, TILE_WEIR_REFUSE_NODE, TILE_WEIR_REFUSE_REASON]⟩,
    ⟨0x818, [],
      [WEIR_CONTRIB_COUNT]⟩] ++
    [
    ⟨0x820, [],
      [WEIR_REFUSED_COUNT]⟩,
    ⟨0x828, [],
      [WEIR_DUP_COUNT]⟩,
    ⟨0x830, [],
      [WEIR_VOIDED_COUNT]⟩,
    ⟨0x838, [],
      [WEIR_POST_DISC_COUNT]⟩,
    ⟨0x840, [],
      [WEIR_HOLD_CYC_COUNT]⟩,
    ⟨0x848, [],
      [WEIR_RESIDUE_COUNT]⟩]
  | 2 =>
    [
    ⟨0x40, [],
      [PORT_ROLE_PEER_ID, PORT_ROLE_SPOOF_CHK, PORT_ROLE_ROLE]⟩,
    ⟨0x100, [],
      [PORT_HDR_DROP_COUNT]⟩,
    ⟨0x108, [],
      [PORT_SPOOF_DROP_COUNT]⟩,
    ⟨0x110, [],
      [PORT_ROUTE_FAIL_COUNT]⟩,
    ⟨0x118, [],
      [PORT_STALE_DROP_COUNT]⟩,
    ⟨0x120, [],
      [PORT_TREE_LOOP_COUNT]⟩,
    ⟨0x128, [],
      [PORT_CE_MARKED_COUNT]⟩,
    ⟨0x130, [],
      [PORT_HCRC_ERR_COUNT]⟩,
    ⟨0x400, [(512, 2), (8, 64)],
      [PORT_GATE_ENTRY_OPEN, PORT_GATE_ENTRY_DURATION]⟩,
    ⟨0x48, [],
      [PORT_CE_CFG_CE_TC_MASK, PORT_CE_CFG_CE_THRESH]⟩,
    ⟨0x80, [(8, 16)],
      [PORT_VC_CREDIT_TX_AVAIL, PORT_VC_CREDIT_RX_GRANT]⟩,
    ⟨0x50, [],
      [PORT_RSV_CFG_SAMPLE, PORT_RSV_CFG_OQ_LIMIT, PORT_RSV_CFG_IN_LIMIT]⟩,
    ⟨0x58, [],
      [PORT_RSV_STAT_GRANT_SHORT, PORT_RSV_STAT_RSV_USED, PORT_RSV_STAT_SHARED_USED]⟩,
    ⟨0x138, [],
      [PORT_CREDIT_HELD_COUNT]⟩,
    ⟨0x180, [(8, 16)],
      [PORT_VC_RSV_QDEPTH, PORT_VC_RSV_GRANTED]⟩,
    ⟨0x140, [(8, 3)],
      [PORT_POLICED_COUNT]⟩,
    ⟨0x200, [(8, 16)],
      [PORT_VC_SCHED_GAP, PORT_VC_SCHED_BURST, PORT_VC_SCHED_SHAPE_EN, PORT_VC_SCHED_PRIO, PORT_VC_SCHED_WEIGHT]⟩,
    ⟨0x280, [],
      [PORT_GATE_CTL_SW_CTX, PORT_GATE_CTL_SW_MODE, PORT_GATE_CTL_CUR_ENTRY, PORT_GATE_CTL_LATE, PORT_GATE_CTL_CANCEL, PORT_GATE_CTL_ARM, PORT_GATE_CTL_ACTIVE_BANK]⟩,
    ⟨0x288, [],
      [PORT_GATE_SWITCH_AT_GATE_SWITCH_AT]⟩,
    ⟨0x290, [],
      [PORT_GATE_BASE_GATE_BASE]⟩] ++
    [
    ⟨0x2a0, [(8, 3)],
      [PORT_POLICE_POLICED, PORT_POLICE_BURST, PORT_POLICE_RATE]⟩,
    ⟨0x0, [],
      [PORT_LINK_CTL_TRAIN_TMO, PORT_LINK_CTL_HELLO_TMO, PORT_LINK_CTL_REPLAY_TMO, PORT_LINK_CTL_RETRAIN, PORT_LINK_CTL_NARROW_EN, PORT_LINK_CTL_LOOP, PORT_LINK_CTL_ENABLE]⟩,
    ⟨0x8, [],
      [PORT_LINK_STAT_DOWN_REASON, PORT_LINK_STAT_Q_REASON, PORT_LINK_STAT_LINK_REV, PORT_LINK_STAT_REDUCE_OFF, PORT_LINK_STAT_FP_DIFF, PORT_LINK_STAT_FAILED, PORT_LINK_STAT_WIDTH_MAP, PORT_LINK_STAT_WIDTH, PORT_LINK_STAT_STATE]⟩,
    ⟨0x10, [],
      [PORT_PEER_EXP0_CHECK, PORT_PEER_EXP0_ROLE, PORT_PEER_EXP0_PORT, PORT_PEER_EXP0_ID]⟩,
    ⟨0x18, [],
      [PORT_PEER_EXP1_KEY_DIGEST]⟩,
    ⟨0x20, [],
      [PORT_PEER_SEEN0_COLL_REV, PORT_PEER_SEEN0_REV_MAX, PORT_PEER_SEEN0_REV_MIN, PORT_PEER_SEEN0_ROLE, PORT_PEER_SEEN0_PORT, PORT_PEER_SEEN0_ID]⟩,
    ⟨0x28, [],
      [PORT_PEER_SEEN1_KEY_DIGEST]⟩,
    ⟨0x800, [],
      [PORT_FEC_CW_COUNT]⟩,
    ⟨0x808, [],
      [PORT_FEC_CORR_COUNT]⟩,
    ⟨0x810, [],
      [PORT_FEC_SYM_COUNT]⟩,
    ⟨0x818, [],
      [PORT_FEC_UNCORR_COUNT]⟩,
    ⟨0x820, [],
      [PORT_REPLAY_REQ_COUNT]⟩,
    ⟨0x828, [],
      [PORT_REPLAY_SENT_COUNT]⟩,
    ⟨0x830, [],
      [PORT_LINK_DOWN_COUNT]⟩,
    ⟨0x838, [],
      [PORT_HELLO_BAD_COUNT]⟩,
    ⟨0x900, [(8, 32)],
      [PORT_HELLO_RX_DATA]⟩]
  | 3 =>
    [
    ⟨0x0, [(256, 8)],
      [OCT_LANE_CFG_PRBS_GEN, OCT_LANE_CFG_PRBS_CHK, OCT_LANE_CFG_TX_PRE, OCT_LANE_CFG_TX_MAIN, OCT_LANE_CFG_TX_POST]⟩,
    ⟨0x8, [(256, 8)],
      [OCT_LANE_STAT_LOS, OCT_LANE_STAT_LOL, OCT_LANE_STAT_MARKER_LOCK, OCT_LANE_STAT_INVERTED, OCT_LANE_STAT_FAILED, OCT_LANE_STAT_LOGICAL, OCT_LANE_STAT_SNR]⟩,
    ⟨0x10, [(256, 8)],
      [OCT_LANE_FLAGS_LOS_SEEN, OCT_LANE_FLAGS_LOL_SEEN]⟩,
    ⟨0x18, [(256, 8)],
      [OCT_LANE_SYM_COUNT]⟩,
    ⟨0x20, [(256, 8)],
      [OCT_LANE_PRBS_ERR_COUNT]⟩,
    ⟨0x800, [],
      [OCT_CFG_LANE_SER_LIMIT]⟩]
  | 4 =>
    [
    ⟨0x0, [],
      [ROUTE_SWITCH_ID_SWITCH_ID]⟩,
    ⟨0x8, [],
      [ROUTE_RET_BASE_RET_BASE]⟩,
    ⟨0x10, [],
      [ROUTE_CIRC_BASE_CIRC_BASE]⟩,
    ⟨0x18, [],
      [ROUTE_TREE_BASE_TREE_BASE]⟩,
    ⟨0x20, [],
      [ROUTE_NOTICE_CFG_FAIL_GAP, ROUTE_NOTICE_CFG_ECHO_GAP]⟩,
    ⟨0x28, [],
      [ROUTE_NO_RETURN_COUNT]⟩]
  | 5 =>
    [
    ⟨0x0, [],
      [RSV_TOTAL_TOTAL]⟩,
    ⟨0x8, [],
      [RSV_STATE_RESERVED, RSV_STATE_FREE]⟩,
    ⟨0x10, [],
      [RSV_FLOOR_SHARED_FLOOR]⟩,
    ⟨0x18, [],
      [RSV_INT_OQ_INT_OQ_LIMIT]⟩,
    ⟨0x20, [],
      [RSV_DESC_DESC_FREE]⟩,
    ⟨0x28, [],
      [RSV_DESC_WAIT_COUNT]⟩,
    ⟨0x30, [],
      [RSV_MIR_CFG_MIR_FLUSH, RSV_MIR_CFG_MIR_SLOTS]⟩,
    ⟨0x38, [],
      [RSV_SAMPLE_CFG_SAMPLE_EN, RSV_SAMPLE_CFG_DIR, RSV_SAMPLE_CFG_SAMPLE_N]⟩,
    ⟨0x40, [],
      [RSV_SAMPLE_LOST_COUNT]⟩,
    ⟨0x100, [(16, 16)],
      [MIR_COPIED_COUNT]⟩,
    ⟨0x108, [(16, 16)],
      [MIR_SKIPPED_COUNT]⟩]
  | 6 =>
    [
    ⟨0x0, [],
      [SLU_SMP_CFG_ENABLE, SLU_SMP_CFG_SHIFT]⟩,
    ⟨0x8, [],
      [SLU_HIST_CTL_BUSY, SLU_HIST_CTL_CLEAR]⟩,
    ⟨0x10, [],
      [SLU_HIST_BASE_HIST_BASE]⟩,
    ⟨0x18, [],
      [SLU_SMP_COUNT_COUNT]⟩,
    ⟨0x20, [],
      [SLU_CYCLE_CYCLE]⟩]
  | 7 =>
    [
    ⟨0x0, [],
      [DRY_CFG_ENABLE, DRY_CFG_WINDOW, DRY_CFG_THRESH]⟩,
    ⟨0x8, [],
      [DRY_BASE_BASE]⟩,
    ⟨0x10, [],
      [DRY_EVENTS_COUNT]⟩]
  | 8 =>
    [
    ⟨0x0, [],
      [WM_CFG_CHUNK_TIMEOUT, WM_CFG_BREAK_SETTLE, WM_CFG_NACK_LIMIT, WM_CFG_RETRY_LIMIT]⟩,
    ⟨0x8, [],
      [WM_BASE_BASE]⟩,
    ⟨0x10, [],
      [WM_POND_USED, WM_POND_RESERVED]⟩,
    ⟨0x18, [],
      [WM_REPLAY_DIFF0_VALID, WM_REPLAY_DIFF0_OVF, WM_REPLAY_DIFF0_NODE_ID, WM_REPLAY_DIFF0_CHUNK]⟩,
    ⟨0x20, [],
      [WM_REPLAY_DIFF1_STEP, WM_REPLAY_DIFF1_CCRC]⟩,
    ⟨0x100, [],
      [WM_SEALS_COUNT]⟩,
    ⟨0x108, [],
      [WM_VOIDS_COUNT]⟩,
    ⟨0x110, [],
      [WM_NACKS_COUNT]⟩,
    ⟨0x118, [],
      [WM_ACK_STALE_COUNT]⟩,
    ⟨0x120, [],
      [WM_BREAKS_COUNT]⟩,
    ⟨0x128, [],
      [WM_HOLDS_COUNT]⟩,
    ⟨0x130, [],
      [WM_CTL_DROP_COUNT]⟩]
  | 9 =>
    [
    ⟨0x0, [],
      [EXP_CFG_ROLL_TIMEOUT, EXP_CFG_COMB_TIMEOUT, EXP_CFG_ENABLE]⟩,
    ⟨0x8, [],
      [EXP_BASE_BASE]⟩,
    ⟨0x10, [],
      [EXP_ENT_BASE_BASE]⟩,
    ⟨0x100, [],
      [EXP_TOKENS_COUNT]⟩,
    ⟨0x108, [],
      [EXP_DROPPED_COUNT]⟩,
    ⟨0x110, [],
      [EXP_REPLACED_COUNT]⟩,
    ⟨0x118, [],
      [EXP_HELD_COUNT]⟩,
    ⟨0x120, [],
      [EXP_INVALID_COUNT]⟩,
    ⟨0x128, [],
      [EXP_LATE_COUNT]⟩,
    ⟨0x130, [],
      [EXP_STRAY_COUNT]⟩,
    ⟨0x138, [],
      [EXP_LOST_COUNT]⟩,
    ⟨0x140, [],
      [EXP_WAIT_CYC_COUNT]⟩]
  | 10 =>
    [
    ⟨0x0, [],
      [MEMT_CFG_ATOMIC_HOLD]⟩,
    ⟨0x8, [],
      [MEMT_BASE_BASE]⟩,
    ⟨0x100, [],
      [MEMT_REQ_COUNT]⟩,
    ⟨0x108, [],
      [MEMT_REFUSED_COUNT]⟩,
    ⟨0x110, [],
      [MEMT_ATOMIC_DUP_COUNT]⟩,
    ⟨0x118, [],
      [MEMT_ATOMIC_BUSY_COUNT]⟩]
  | 11 =>
    [
    ⟨0x0, [],
      [MEM_CFG_RETIRE_THRESH]⟩,
    ⟨0x8, [],
      [MEM_PROT_BASE_BASE]⟩,
    ⟨0x10, [],
      [MEM_SPARES_FREE]⟩,
    ⟨0x100, [],
      [MEM_CE_COUNT]⟩,
    ⟨0x108, [],
      [MEM_UE_COUNT]⟩,
    ⟨0x110, [],
      [MEM_RETIRED_COUNT]⟩,
    ⟨0x118, [],
      [SRAM_CE_COUNT]⟩,
    ⟨0x120, [],
      [SRAM_UE_COUNT]⟩]
  | 12 =>
    [
    ⟨0x100, [(64, 64)],
      [POOL_CFG_STATE, POOL_CFG_LOC, POOL_CFG_SIZE, POOL_CFG_RING, POOL_CFG_CTX, POOL_CFG_COUNT]⟩,
    ⟨0x108, [(64, 64)],
      [POOL_BASE_BASE]⟩,
    ⟨0x110, [(64, 64)],
      [POOL_META_META_BASE]⟩,
    ⟨0x118, [(64, 64)],
      [POOL_STAT_FREE, POOL_STAT_SHORT]⟩,
    ⟨0x120, [(64, 64)],
      [POOL_WAITERS_WAITING]⟩,
    ⟨0x128, [(64, 64)],
      [POOL_WAITS_COUNT]⟩,
    ⟨0x130, [(64, 64)],
      [POOL_STALE_COUNT]⟩,
    ⟨0x138, [(64, 64)],
      [POOL_ORPHANED_COUNT]⟩]
  | 13 =>
    [
    ⟨0x0, [],
      [SPW_FERR_SRC_VALID, SPW_FERR_SRC_OVF, SPW_FERR_SRC_CLASS, SPW_FERR_SRC_HW, SPW_FERR_SRC_CTX_VALID, SPW_FERR_SRC_CTX, SPW_FERR_SRC_SOURCE]⟩,
    ⟨0x8, [],
      [SPW_FERR_CODE_CODE]⟩,
    ⟨0x10, [],
      [SPW_FERR_CYCLE_CYCLE]⟩,
    ⟨0x18, [],
      [SPW_STAT_SAFE, SPW_STAT_FATAL, SPW_STAT_ADVISORY, SPW_STAT_DEGRADED, SPW_STAT_RESET_BUSY, SPW_STAT_RESET_UNIT, SPW_STAT_SPARES, SPW_STAT_ACTIVE]⟩,
    ⟨0x20, [],
      [SPW_AUTO_CAP_HANG, SPW_AUTO_AUTO_CTX, SPW_AUTO_AUTO_ENG, SPW_AUTO_AUTO_PART, SPW_AUTO_AUTO_DEV, SPW_AUTO_AUTO_SPARE]⟩,
    ⟨0x28, [],
      [SPW_LIMITS_E_LIMIT, SPW_LIMITS_ESC_WINDOW, SPW_LIMITS_STALL_SCANS, SPW_LIMITS_GEN_QUIET, SPW_LIMITS_CAP_TMO]⟩,
    ⟨0x30, [],
      [SPW_RESET_GO, SPW_RESET_SCRUB, SPW_RESET_REPLACE, SPW_RESET_UNIT, SPW_RESET_ENGINE, SPW_RESET_INDEX]⟩,
    ⟨0x38, [],
      [FAULT_PIN_PULSE, FAULT_PIN_DRIVE]⟩,
    ⟨0x40, [],
      [SPW_TRAY_REQ_ASSERTED, SPW_TRAY_REQ_REQUEST]⟩,
    ⟨0x48, [],
      [SPW_CAP_LAST_HANDLE]⟩,
    ⟨0x50, [],
      [SPW_CAP_FREE_HANDLE]⟩,
    ⟨0x58, [],
      [SPW_COUNT_BASE_BASE]⟩,
    ⟨0x60, [],
      [SPW_CTL_COUNT_CLEAR]⟩,
    ⟨0x68, [],
      [SPW_LEDGER_COUNT]⟩,
    ⟨0x100, [],
      [SPW_EVENTS_COUNT]⟩,
    ⟨0x108, [],
      [SPW_HANGS_COUNT]⟩,
    ⟨0x110, [],
      [SPW_CAP_LOST_COUNT]⟩,
    ⟨0x118, [],
      [SPW_DISCARDED_COUNT]⟩,
    ⟨0x120, [],
      [SPW_SCANS_COUNT]⟩]
  | 14 =>
    [
    ⟨0x0, [],
      [PWR_INPUT_VOLTAGE, PWR_INPUT_CURRENT, PWR_INPUT_POWER]⟩,
    ⟨0x8, [],
      [PWR_CAP_CAP]⟩,
    ⟨0x10, [],
      [PWR_THROTTLE_THERMAL, PWR_THROTTLE_CURRENT, PWR_THROTTLE_POWER, PWR_THROTTLE_DUTY]⟩,
    ⟨0x18, [],
      [PWR_SPACING_SERDES_GAP, PWR_SPACING_CLUSTER_GAP]⟩,
    ⟨0x20, [],
      [PWR_TEMP_TEMP_HOT, PWR_TEMP_HOTTEST]⟩,
    ⟨0x28, [],
      [PWR_THROTTLE_CYC_COUNT]⟩,
    ⟨0x100, [(8, 50)],
      [PWR_DOMAIN_STATE, PWR_DOMAIN_OFF]⟩]
  | 15 =>
    [
    ⟨0x0, [],
      [CLK_STAT_HOST_LOCK, CLK_STAT_MEM_LOCK, CLK_STAT_MGMT_LOCK, CLK_STAT_CORE_LOCK]⟩,
    ⟨0x8, [],
      [CLK_TIMEOUTS_COUNT]⟩,
    ⟨0x10, [],
      [CLK_OVERFLOWS_COUNT]⟩,
    ⟨0x100, [(8, 320)],
      [CDC_STATE_LOST, CDC_STATE_STATE]⟩]
  | 16 =>
    [
    ⟨0x0, [],
      [HP_CFG_UDP_PORT, HP_CFG_IPV4_EN, HP_CFG_IPV6_EN, HP_CFG_PMD, HP_CFG_AN_EN]⟩,
    ⟨0x8, [],
      [HP_MAC_MAC]⟩,
    ⟨0x10, [],
      [HP_IPV4_ADDR]⟩,
    ⟨0x18, [],
      [HP_IPV6_HI_ADDR_HI]⟩,
    ⟨0x20, [],
      [HP_IPV6_LO_ADDR_LO]⟩,
    ⟨0x28, [],
      [HP_PREFIX_V6_PREFIX, HP_PREFIX_V4_PREFIX]⟩,
    ⟨0x30, [],
      [HP_SESSIONS_OPEN]⟩,
    ⟨0x38, [],
      [HP_PRIV_VALID, HP_PRIV_SESSION]⟩,
    ⟨0x40, [],
      [HP_TMO_SESSION_TMO]⟩,
    ⟨0x48, [],
      [HP_CTL_SAVE, HP_CTL_CLOSE_ALL]⟩,
    ⟨0x100, [],
      [HP_RX_ZCT_COUNT]⟩,
    ⟨0x108, [],
      [HP_AUTH_FAIL_COUNT]⟩,
    ⟨0x110, [],
      [HP_REPLAY_DROP_COUNT]⟩,
    ⟨0x118, [],
      [HP_RX_OTHER_COUNT]⟩,
    ⟨0x120, [],
      [HP_EVT_LOST_COUNT]⟩,
    ⟨0x400, [(64, 16)],
      [HP_KEY_FLAGS_VALID, HP_KEY_FLAGS_PRIV]⟩,
    ⟨0x408, [(64, 16), (8, 4)],
      [HP_KEY_PUB_KEY]⟩]
  | 17 =>
    [
    ⟨0x0, [(64, 4096)],
      [CTX_STATE_STATE, CTX_STATE_GEN, CTX_STATE_KEY_MASK, CTX_STATE_STEP]⟩,
    ⟨0x8, [(64, 4096)],
      [CTX_RING_HALT_HALTED]⟩,
    ⟨0x10, [(64, 4096)],
      [CTX_REJECTS_COUNT]⟩]
  | 18 =>
    [
    ⟨0x0, [],
      [WBR_CTL_RESEND, WBR_CTL_REQUEST, WBR_CTL_RESEND_SEQ]⟩,
    ⟨0x8, [],
      [WBR_STAT_LINK_UP, WBR_STAT_NEWEST]⟩,
    ⟨0x10, [],
      [WBR_COUNT_COUNT]⟩,
    ⟨0x18, [],
      [WBR_BAD_COUNT]⟩]
  | 19 =>
    [
    ⟨0x0, [],
      [SEC_BOOT_SLOT, SEC_BOOT_BOOT_STATUS, SEC_BOOT_ID_FAIL, SEC_BOOT_BOOT]⟩,
    ⟨0x8, [],
      [SEC_BOOT_NEXT_BOOT_NEXT]⟩,
    ⟨0x10, [],
      [SEC_FW_SRC_ADDRESS]⟩,
    ⟨0x18, [],
      [SEC_FW_LEN_LENGTH]⟩,
    ⟨0x20, [],
      [SEC_FW_CTL_GO, SEC_FW_CTL_BUSY, SEC_FW_CTL_SLOT, SEC_FW_CTL_STATUS]⟩,
    ⟨0x28, [],
      [SEC_SIGN_REFUSED_COUNT]⟩,
    ⟨0x40, [(8, 8)],
      [SEC_CHAIN_CHAIN]⟩]
  | _ => []

/-- Whether distance `d` from a row's offset is one of its registers. -/
def onDims (d : Nat) : List (Nat × Nat) → Bool
  | [] => d == 0
  | (stride, count) :: r => decide (d / stride < count) && onDims (d % stride) r

/-- The row of register `r`; none for a reserved offset (R8). -/
def regRow? (r : Reg) : Option RegRow :=
  (regRows r.blk).find? fun row => decide (row.off ≤ r.off) && onDims (r.off - row.off) row.dims

/-- The number whose fields hold their reset values. -/
def resetFields (l : List Fld) : Nat := l.foldl (fun a f => a + f.reset <<< f.lo) 0

/-- PRIO of PORT_VC_SCHED resets to 1 for channels 0-3, 6 and 7 (spec/04_sluice_scheduling.md Table 4-4). -/
def schedPrioReset (v : Nat) : Nat := flag (v ≤ 3 || v == 6 || v == 7)

/-- The value of a register after power-up and after a reset that reaches its block (Reset column of its map). -/
def resetValue (r : Reg) : Word :=
  match regRow? r with
  | none => 0
  | some row =>
    let v := resetFields row.fields
    BitVec.ofNat 64 (if r.blk = 2 && row.off = 0x200 then v + schedPrioReset ((r.off - 0x200) / 8) <<< 8 else v)

/-- What a write of `new` stores over `old` (R6); bits of no field stay zero (R8). -/
def storeFields (l : List Fld) (old new : Nat) : Nat :=
  l.foldl (fun a f =>
    let o := bitsOf old f.lo f.width
    let n := bitsOf new f.lo f.width
    a + (match f.acc with
      | .rw => n
      | .ro => o
      | .wo => 0
      | .w1c => o - (o &&& n)
      | .w1s => o ||| n
      | .rc => o) <<< f.lo) 0

/-- What a register's read leaves of `old`: RC fields clear, then take the module's own `update` of that cycle
(R6, R7). -/
def readFields (l : List Fld) (old update : Nat) : Nat :=
  l.foldl (fun a f =>
    a + (match f.acc with
      | .rc => bitsOf update f.lo f.width
      | _ => bitsOf old f.lo f.width) <<< f.lo) 0

/-- What a read returns: WO fields read zero (R6). -/
def shownFields (l : List Fld) (old : Nat) : Nat :=
  l.foldl (fun a f => a + (match f.acc with | .wo => 0 | _ => bitsOf old f.lo f.width) <<< f.lo) 0

end Sys2Proof.Machine
end

