-- ==== Sys2Proof/Machine/State.lean ====
section
/-!
DEFINITION. Sys2Proof/Machine/State.lean: everything the spec gives the module, as plain data.

Registers of Table 11-1a stand in `State.regs`, one 64-bit value per register, keyed by block type, instance and
offset; unlisted registers read their reset value. Tile SRAM, canal memory (with every fixed table of Table 11-2) and
LPDDR5X stand in `State.mem`, byte by byte. What an engine keeps beside its registers stands in a structure of its own
(`Port`, `Tile`, `Ctx`, ...), held in a list of (key, value) pairs without repeats; an unlisted key reads the value of
its `init`. A register whose field only shows such state is computed when it is read (Machine/RegAccess.lean).
-/

namespace Sys2Proof.Machine

/-- Where the spec gives a command no effect at all (R<n> in each docstring). -/
inductive Fault where
  /-- A command meets a field that holds a value the spec reserves and for which it gives no effect: POLICY 3 of an
  EHT header (Table 10-3). Raised by TOKEN_DECIDE. Safe: the model stops where the spec says nothing. -/
  | reservedValue (register : String)
  deriving DecidableEq, Repr

/-- A command to which the model gives no meaning. -/
inductive Refusal where
  /-- A row of the table that has no meaning yet. Raised by Dispatch.lean alone. Safe. -/
  | notModelled (mnemonic : String)
  deriving DecidableEq, Repr

/-- The two grades of Table 0-1 (spec/00_scope.md R1). -/
inductive Grade where
  | zf256 | zf224
  deriving DecidableEq, Repr

/-! ### Cells inside the module -/

/-- What one Reservoir slot, input buffer or agent inbox holds: a cell of a link, or a device-internal request or
response cell (spec/01_architecture.md R9, spec/06_flume_tile.md R142). -/
inductive Item where
  | cell (c : Cell)
  | req (r : Request)
  | rsp (r : Response)
  /-- a return cell that the dispatcher delivers to a tile of its own module (spec/10_expert_and_headwater.md R277) -/
  | toTile (t : Nat) (c : Cell)
  deriving DecidableEq, Repr

/-- What a slot's cell is charged to (spec/03_reservoir.md R70, R73, R74, R84). -/
inductive Charge where
  | reserved | shared | mirror | internal | carried
  deriving DecidableEq, Repr

/-- One used slot of the Reservoir with its link word's copy count (spec/03_reservoir.md R66, R69). `copies` is 0 once
the last copy has been read and the slot waits to be freed. -/
structure Slot where
  item : Item
  input : Nat
  vc : Nat
  charge : Charge
  copies : Nat
  ctx : Nat
  deriving DecidableEq, Repr

/-- One copy of a cell: its output, its channel, the header it leaves with, and whether the output had role ENDPOINT when
the cell arrived: a change of ROLE applies to the cells that arrive after it (spec/02_cells_and_routes.md R62). -/
structure Copy where
  out : Nat
  vc : Nat
  hdr : Hdr
  last : Bool
  deriving DecidableEq, Repr

/-- One element of an output queue: the slot, the header this copy leaves with, whether it uses a copy descriptor, the
core cycle at which it became eligible, `last` of its copy, and the core cycle and crossbar input of its linking
(spec/01_architecture.md R12; spec/03_reservoir.md R67, R68, R80; spec/04_sluice_scheduling.md R107). -/
structure QEntry where
  slot : Nat
  hdr : Hdr
  desc : Bool
  since : Nat
  last : Bool
  linked : Nat × Nat
  deriving DecidableEq, Repr

/-- An item held at ingress until its copies have descriptors, with the context it is charged to; `counted` once the wait
for descriptors is in RSV_DESC_WAIT (spec/03_reservoir.md R68). -/
structure HeldCell where
  input : Nat
  vc : Nat
  item : Item
  ctx : Nat
  copies : List Copy
  counted : Bool
  deriving DecidableEq, Repr

/-- A mirror session (spec/03_reservoir.md R82, Table 3-3) with its datagram in progress (R87). -/
structure Mirror where
  enable : Bool
  flow : Bool
  point : Nat
  srcPort : Nat
  matchCtx : Nat
  maskCtx : Nat
  matchSrc : Nat
  maskSrc : Nat
  matchTc : Nat
  matchType : Nat
  dest : Nat
  collector : HostAddr
  dgramSeq : Nat
  recSeq : Nat
  /-- records of the datagram in progress -/
  records : List (List Byte)
  deriving DecidableEq, Repr

def Mirror.init : Mirror :=
  ⟨false, false, 0, 0, 0, 0, 0, 0, 0, 0, 0, ⟨0, false, 0, 0⟩, 0, 0, []⟩

/-! ### Fabric ports -/

/-- One lane-map record in force (spec/13_host_port_and_control.md R362, Table 13-8b). -/
structure LaneRec where
  port : Nat
  width : Nat
  role : Nat
  check : Bool
  peerRole : Nat
  peerPort : Nat
  peerId : Nat
  keyDigest : Word
  deriving DecidableEq, Repr

/-- What a fabric port keeps per virtual channel (spec/02_cells_and_routes.md R51-R54, spec/03_reservoir.md R72, R73,
spec/04_sluice_scheduling.md R91-R98). -/
structure Vc where
  /-- cumulative credit this port has granted, modulo 65,536 (R52) -/
  cred : Nat
  /-- the value of `cred` last sent in a codeword (R324) -/
  credSaid : Nat
  /-- cumulative credit the peer has granted (R53) -/
  peerCred : Nat
  /-- cells sent since link up, modulo 65,536 (R53) -/
  sent : Nat
  /-- slots reserved at the last link up, GRANTED (R72) -/
  granted : Nat
  /-- slots above the minimum that the port holds from the grant pool (R72, R73) -/
  drawn : Nat
  /-- carried-over cells whose free raises no credit (R73) -/
  excess : Nat
  /-- finish tag F of the head cell (R94) -/
  tag : BitVec 32
  /-- tag of the last cell sent, F_last (R94) -/
  tagLast : BitVec 32
  /-- the queue was eligible at the previous selection (R94) -/
  wasElig : Bool
  /-- a tag must be formed at the next selection, PRIO was written from 1 to 0 (R94) -/
  retag : Bool
  /-- eligibility time E, units of 0.25 core cycle (R97) -/
  elig : Nat
  /-- calendar slot in which the channel is filed (R97) -/
  filed : Option Nat
  deriving DecidableEq, Repr

def Vc.init : Vc := ⟨0, 0, 0, 0, 0, 0, 0, 0, 0, false, false, 0, none⟩

/-- The last training markers of a lane (spec/12_lanes_and_links.md R325, R326): how many in a row, WIDTH, the lane of the
lane map that LANE names, BLOCK. -/
structure Mark where
  count : Nat
  width : Nat
  logical : Nat
  block : Nat
  deriving DecidableEq, Repr

def Mark.init : Mark := ⟨0, 0, 0, 0⟩

/-- What a fabric port keeps beside its registers; keys 1,024 and up hold the scheduling state of the internal outputs
(spec/04_sluice_scheduling.md R96). -/
structure Port where
  vcs : List (Nat × Vc)
  /-- virtual time V (spec/04_sluice_scheduling.md R94) -/
  vtime : BitVec 32
  /-- Headgate bucket levels of classes 5-7, units of 1/256 cell (R105) -/
  buckets : List (Nat × Nat)
  /-- cells of the handed-on stream that wait for CELL_RECEIVE (spec/12_lanes_and_links.md R332) -/
  handedOn : List Cell
  /-- mirror copies that wait for the diagnostic link, for key 1,024 for the host port: slot, session, and the 16 bytes of
  Table 3-4 that precede the cell (spec/03_reservoir.md R84, R86, R87) -/
  mirrorQ : List (Nat × Nat × List Byte)
  /-- fence idles received: the port statistics of spec/02_cells_and_routes.md R29, which no register shows -/
  fenceIdles : Nat
  /-- cells counted toward the next ZF5200 sample, ingress and egress (R88) -/
  sampleIn : Nat
  sampleOut : Nat
  /-- the port drains its queues after going DOWN (R79) -/
  draining : Bool
  /-- whether the lanes of the port have power: powered down they squelch, and no training starts (R320, R328) -/
  powered : Bool
  /-- lanes of the link that are locked in training, by place (R326) -/
  laneLock : List Nat
  /-- what each lane's markers said (R325, R326) -/
  markers : List (Nat × Mark)
  /-- lanes on which RX_READY has been received (R326) -/
  peerReady : List Nat
  /-- training blocks sent; PRBS31 generator and checker of each lane (R325, R341) -/
  txBlock : Nat
  lanePrbs : List (Nat × BitVec 31)
  prbsChk : List (Nat × BitVec 31)
  /-- taps in force on each lane, TX_POST lowest (R344) -/
  taps : List (Nat × Nat)
  /-- the transmitter, the receiver have taken SWITCH (R326) -/
  txSwitched : Bool
  rxSwitched : Bool
  /-- width the port trains at, logical lanes kept (R327) -/
  trainLanes : List Nat
  /-- scramblers of both directions (R323) -/
  txPrbs : BitVec 31
  rxPrbs : BitVec 31
  /-- codeword numbers of both directions (R332) -/
  txNum : Nat
  rxNum : Nat
  /-- cell-stream bits not yet sent, not yet completed: value and length (R322) -/
  txBits : Nat × Nat
  rxBits : Nat × Nat
  /-- bits of the next codeword that were handed on before a replay of it (R332) -/
  rxSkip : Nat
  /-- cell bits of the last codewords sent, oldest first (R332) -/
  replayBuf : List Nat
  /-- codewords that a replay still sends, counted back from txNum (R333) -/
  replaying : Option Nat
  /-- (ATT, N) of the last request acted on, of the request this receiver has made (R333) -/
  acted : Option (Nat × Nat)
  asked : Option (Nat × Nat)
  /-- (ATT, N) of the replay that the receiver takes, until codeword N + 2 is accepted (R333) -/
  replayed : Option (Nat × Nat)
  /-- uncorrectable codewords in a row (R330) -/
  badRun : Nat
  /-- link words waiting for slot B: LKIND and LVAL (R324) -/
  linkWords : List (Nat × Nat)
  /-- rotating order of credit words, channel sent longest ago first (R324) -/
  credOrder : List Nat
  /-- corrected symbols per lane in the running 1 ms window (R329) -/
  serWindow : List (Nat × Nat)
  /-- a narrowing in progress: surviving logical lanes (R331) -/
  narrowing : Option (List Nat)
  /-- FAILED of the peer, as its latest marker or NARROW gave it, and the NEXT_N of its markers (R325, R327, R331) -/
  peerFailed : Nat
  peerNext : Option Nat
  /-- this port's hello nonce, the peer's last nonce (R334, R336) -/
  nonce : Word
  peerNonce : Word
  /-- hellos received and not yet checked (R335) -/
  hellos : List (List Cell)
  deriving DecidableEq, Repr

def Port.init : Port :=
  { vcs := [], vtime := 0, buckets := [], handedOn := [], mirrorQ := [], fenceIdles := 0, sampleIn := 0, sampleOut := 0,
    draining := false, powered := false, laneLock := [], markers := [], peerReady := [],
    txBlock := 0, lanePrbs := [], prbsChk := [], taps := [], txSwitched := false, rxSwitched := false,
    trainLanes := [], txPrbs := 0x7FFFFFFF, rxPrbs := 0x7FFFFFFF, txNum := 0, rxNum := 0, txBits := (0, 0),
    rxBits := (0, 0), rxSkip := 0, replayBuf := [], replaying := none, acted := none, asked := none, replayed := none,
    badRun := 0,
    linkWords := [], credOrder := [], serWindow := [], narrowing := none, peerFailed := 0, peerNext := none,
    nonce := 0, peerNonce := 0, hellos := [] }

/-- A pending notice: cells covered, the failing port or ORIGIN data, reason, HP, and the header of the first cell
(spec/02_cells_and_routes.md R57, R58, R60). -/
structure Notice where
  running : Bool
  count : Nat
  hdr : Hdr
  ctxGen : Nat
  port : Nat
  reason : Nat
  hp : Nat
  origin : Nat
  answerer : Nat
  destEp : Nat
  deriving DecidableEq, Repr

def Notice.init : Notice := ⟨false, 0, 0, 0, 0, 0, 0, 0, 0, 0⟩

/-! ### Tiles -/

/-- Thread states (spec/06_flume_tile.md Table 6-2). -/
inductive TState where
  | idle | run | wait | halted | stopped
  deriving DecidableEq, Repr

/-- What a thread in WAIT waits on (spec/06_flume_tile.md Table 6-2, spec/14_faults_and_recovery.md Table 14-4). -/
inductive Wait where
  | none
  /-- source or destination registers not valid (R139) -/
  | reg (s v : List Nat)
  /-- room for `n` more outstanding request cells (R143) -/
  | room (n : Nat)
  | acq (i j : Nat)
  | rel (i j : Nat)
  /-- a free tailwater entry; the next row of the thread's oldest entry (R162, R163) -/
  | tailwater
  | row
  | mmaQueue
  | cc (c limit : Nat)
  | sem (addr n : Nat)
  | take (d : Nat)
  | barrier
  | fence
  /-- room in completion counter `c` for `n` lines (R143) -/
  | stream (c n : Nat)
  deriving DecidableEq, Repr

/-- A vector load whose lines return one by one (spec/07_instruction_set.md R181, R202): the bytes it writes, the bytes
it zeroes, what has come, lines outstanding, and whether one failed. -/
structure VLoad where
  mask : VReg
  zero : VReg
  got : VReg
  left : Nat
  failed : Bool
  deriving DecidableEq, Repr

/-- A hardware thread: its registers beside the tile's (spec/06_flume_tile.md R136). Unlisted registers are zero. -/
structure Thread where
  st : TState
  pc : BitVec 64
  s : List (Nat × Word)
  v : List (Nat × VReg)
  m : List (Nat × MReg)
  /-- scalar and vector destinations not valid until a response returns (R139) -/
  busyS : List Nat
  busyV : List Nat
  /-- vector loads outstanding, by destination -/
  vloads : List (Nat × VLoad)
  wait : Wait
  /-- halted while it waited: the state to resume (R170) -/
  resume : TState
  /-- `end` has issued, requests outstanding (spec/07_instruction_set.md R178) -/
  ending : Bool
  /-- instructions issued, the ditch rider's progress count (spec/14_faults_and_recovery.md Table 14-4) -/
  issued : Nat
  /-- thread set it belongs to (spec/13_host_port_and_control.md R358) -/
  set : Nat
  deriving DecidableEq, Repr

def Thread.init : Thread :=
  ⟨.idle, 0, [], [], [], [], [], [], .none, .run, false, 0, 0⟩

/-- An accumulator tile: owner, tile offset T, 64 x 64 FP32 elements (unlisted ones +0), wavefronts of the pass that runs on
it (spec/06_flume_tile.md R152, R153, R157), and whether its owner has ended and the index is released once nothing of it is
pending (spec/07_instruction_set.md R178). -/
structure Acc where
  owner : Option Nat
  offset : Int
  data : List (Nat × BitVec 32)
  pending : Nat
  releasing : Bool
  deriving DecidableEq, Repr

def Acc.init : Acc := ⟨none, 0, [], 0, false⟩

/-- A tailwater entry (spec/06_flume_tile.md R162, R163). `order` tells the oldest; `acc` is the tile being drained;
`discard` once its thread has ended: the entry is freed when its drain is over (spec/07_instruction_set.md R178). -/
structure TqEntry where
  slot : Nat
  thread : Nat
  order : Nat
  acc : Nat
  keep : Bool
  rows : List (List (BitVec 32))
  popped : Nat
  reading : Bool
  discard : Bool
  deriving DecidableEq, Repr

/-- A queued `mma` (spec/06_flume_tile.md R149, R150; spec/07_instruction_set.md R191). `seq` orders it among the drains
of its tile (R155); `began` is the core cycle in which its present run began (R152). -/
structure MmaOp where
  seq : Nat
  thread : Nat
  acc : Nat
  fmt : Nat
  a : Nat
  aScale : Nat
  b : Nat
  bScale : Nat
  k : Nat
  run : Nat
  pc : Nat
  began : Nat
  deriving DecidableEq, Repr

/-- A stream (spec/06_flume_tile.md R143, spec/07_instruction_set.md R182): lines issued so far and completed. -/
structure Stream where
  id : Nat
  thread : Nat
  pc : Nat
  inbound : Bool
  localA : Nat
  remote : Nat
  lines : Nat
  issued : Nat
  completed : Nat
  cc : Nat
  deriving DecidableEq, Repr

/-- What an outstanding request of the tile returns to (spec/06_flume_tile.md R139, R142). -/
inductive Want where
  | scalar (d size : Nat) (sext : Bool)
  | vector (d off : Nat)
  | store
  | atomic (d : Nat) (wide : Bool)
  | streamIn (id localA : Nat)
  | streamOut (id : Nat)
  deriving DecidableEq, Repr

/-- One outstanding request cell of a tile, at most 512 (spec/06_flume_tile.md R143). -/
structure Outst where
  tag : Nat
  thread : Nat
  pc : Nat
  want : Want
  deriving DecidableEq, Repr

/-- Entry states of the Weir (spec/08_weir_reduction.md Table 8-4). -/
inductive EState where
  | free | opened | queued | taken | sending
  deriving DecidableEq, Repr

/-- A contribution of one slot to one entry, or one carry piece of it (spec/08_weir_reduction.md R207, R216, R217, R222):
its head, payload cells received and their CRC-32C so far, element groups delivered, and whether it came whole. -/
structure Contrib where
  head : Payload
  masked : Bool
  got : Nat
  crc : BitVec 32
  delivered : Nat
  whole : Bool
  deriving DecidableEq, Repr

/-- A staging entry of a tile's Weir (spec/08_weir_reduction.md R215). -/
structure Entry where
  st : EState
  node : Nat
  chunk : Nat
  step : Nat
  /-- contributions by 16 x slot + carry piece -/
  slots : List (Nat × Contrib)
  finals : Nat
  failed : Bool
  voided : Bool
  takenBy : Option Nat
  takenAt : Nat
  flags : BitVec 4
  nz : Nat
  grad : Bool
  /-- by run: element groups whose run sums stand in the run accumulator (R214) -/
  runs : List (Nat × Nat)
  deriving DecidableEq, Repr

def Entry.init : Entry := ⟨.free, 0, 0, 0, [], 0, false, false, none, 0, 0, 0, false, []⟩

/-- A cell at the head of a channel queue that the tile port offers to the Weir (spec/08_weir_reduction.md R215,
spec/03_reservoir.md R70): channel and slot; `held` while the Weir holds its input at it. -/
structure Offer where
  vc : Nat
  slot : Nat
  held : Bool
  deriving DecidableEq, Repr

/-- A posted chunk in the emitter (spec/08_weir_reduction.md R221, R222, spec/09_collectives.md R257). -/
structure Posted where
  entry : Nat
  /-- the emitter's queue: context and group handle -/
  key : Nat
  label : Nat
  ctx : Nat
  gen : Nat
  /-- the head without CCRC, the device address of the payloads, chunks sent and payload cells of each -/
  head : Payload
  addr : Nat
  pieces : Nat
  per : Nat
  sent : Nat
  cc : Nat
  deriving DecidableEq, Repr

/-- A combine entry (spec/10_expert_and_headwater.md R271, R278-R281): expected positions and their weights, the fields of
the token's head, RFLAGS and DROPPED so far, and what has come: position, FAILED, positions of its data cells. `exps` is
head byte 14 (NEXP, NUSE). -/
structure Comb where
  eht : Nat
  cent : Nat
  expected : List Nat
  weights : List (BitVec 32)
  source : Nat
  token : Nat
  step : Nat
  fmt : Nat
  grad : Bool
  ncells : Nat
  exps : Nat
  dropped : Nat
  flags : Nat
  got : List (Nat × Bool × List Nat)
  /-- label on which the head of a position came (R278) -/
  labels : List (Nat × Nat)
  /-- the RESULT's cells wait for the crossbar (R281) -/
  sending : Bool
  ctx : Nat
  gen : Nat
  deriving DecidableEq, Repr

/-- What a logical tile keeps beside its registers and its SRAM. -/
structure Tile where
  ctx : Nat
  threads : List (Nat × Thread)
  accs : List (Nat × Acc)
  tq : List TqEntry
  tqOrder : Nat
  /-- rows that each of the eight tailwater entries holds, in use or not (spec/13_host_port_and_control.md R370) -/
  tqMem : List (Nat × List (List (BitVec 32)))
  mmaQ : List MmaOp
  mma : Option MmaOp
  cc : List (Nat × Nat)
  streams : List Stream
  streamId : Nat
  outst : List Outst
  reqTag : Nat
  /-- instructions that the cache holds, by address, oldest first (R140) -/
  icache : List (Nat × Word)
  /-- the open thread barrier: mask and threads arrived (spec/07_instruction_set.md R198) -/
  barrier : Option (BitVec 16 × List Nat)
  /-- thread that each unit accepted last (R138): 0 S, 1 M, 2 V, 3 X -/
  rotate : List (Nat × Nat)
  /-- channel and completion counter of each message cell that has not entered the Reservoir (R195) -/
  msgCc : List (Nat × Nat)
  /-- the Weir: entries, completion queue, open labels, the cell offered (spec/08_weir_reduction.md) -/
  entries : List (Nat × Entry)
  cq : List Word
  /-- labels with a contribution in progress: label, entry, carry piece -/
  openLabels : List (Nat × Nat × Nat)
  refusing : List Nat
  offer : Option Offer
  takeCount : Nat
  /-- the emitter: posted chunks by group in posting order, its tags and virtual time (spec/09_collectives.md R257) -/
  posts : List Posted
  emTags : List (Nat × BitVec 32 × BitVec 32)
  emTime : BitVec 32
  /-- combine entries by 2,048 x EHT + CENT (spec/10_expert_and_headwater.md R278) -/
  combs : List (Nat × Comb)
  /-- the entry of each RESULT cell that the crossbar has not accepted; none for an entry that is gone (R281) -/
  combTx : List (Option Nat)
  /-- cells and requests delivered by the crossbar (spec/04_sluice_scheduling.md R96) -/
  inbox : List Item
  /-- core cycle in which TILE_FAULT latched its fault (spec/07_instruction_set.md R203) -/
  faultAt : Nat
  /-- contexts whose threads have become IDLE here since the last microsecond was counted (spec/16_water_book.md R438) -/
  ended : List Nat
  deriving DecidableEq, Repr

def Tile.init : Tile :=
  { ctx := 0, threads := [], accs := [], tq := [], tqOrder := 0, tqMem := [], mmaQ := [], mma := none, cc := [], streams := [],
    streamId := 0, outst := [], reqTag := 0, icache := [], barrier := none, rotate := [], msgCc := [], entries := [],
    cq := [], openLabels := [], refusing := [], offer := none, takeCount := 0, posts := [], emTags := [], emTime := 0,
    combs := [], combTx := [], inbox := [], faultAt := 0, ended := [] }

/-! ### Control objects -/

/-- An intake ring descriptor (spec/13_host_port_and_control.md R354). `tail` is the TAIL last read, `head` the HEAD that the
module writes. -/
structure Ring where
  base : Nat
  order : Nat
  halt : Bool
  head : Nat
  tail : Nat
  deriving DecidableEq, Repr

/-- What a context keeps beside CTX_STATE (spec/13_host_port_and_control.md R354, R369; spec/14 R396, R397). -/
structure Ctx where
  seed : Word
  rings : List (Nat × Ring)
  closedAt : Option Nat
  scrub : Bool
  drained : Bool
  /-- logical tiles that held threads of the context at the close (R398) -/
  scrubTiles : List Nat
  deriving DecidableEq, Repr

def Ctx.init : Ctx := ⟨0, [], none, false, false, []⟩

/-- A loaded plan (spec/13_host_port_and_control.md R358, R360). -/
structure Plan where
  stale : Bool
  active : Nat
  modules : Nat
  seed : Word
  fp : List Byte
  body : List Byte
  deriving DecidableEq, Repr

/-- What the watermaster keeps for one chunk (spec/09_collectives.md R242-R252). -/
structure Chunk where
  attempt : Nat
  acked : List Nat
  flags : Nat
  count : Nat
  voids : Nat
  nacks : List (Nat × Nat)
  waitNack : List Nat
  pond : Option Word
  /-- cells of the copy that wait for the buffer (R247, spec/11_memory_and_pools.md R310) -/
  pondWait : List Cell
  pondCells : Nat
  pondCrc : BitVec 32
  pondWant : BitVec 32
  pondGood : Bool
  pondBad : Bool
  selfAcked : Bool
  empty : Bool
  deriving DecidableEq, Repr

def Chunk.init : Chunk := ⟨0, [], 0, 0, 0, [], [], none, [], 0, 0, 0, false, false, false, false⟩

/-- What the watermaster keeps beside a group record (spec/09_collectives.md R237). -/
structure Group where
  plan : Nat
  index : Nat
  /-- the group's owner entry in pool 1, when the DOWN-DATA tree passes the module (R247) -/
  pond : Option Nat
  chunks : List (Nat × Chunk)
  sealed : List Nat
  start : Nat
  emptyChunks : Nat
  flags : Nat
  allEmpty : Bool
  holds : Nat
  maxAttempt : Nat
  resumed : Bool
  breaks : List Payload
  settling : Bool
  /-- the first BREAK_SETTLE of the collective has passed (R255) -/
  settled : Bool
  recSeq : Nat
  replayBase : Nat
  replayAt : Nat
  replaySize : Nat
  /-- attempt that a chunk without a void has (R256) -/
  attempt0 : Nat
  branches : List Nat
  nodes : List (Nat × Nat)
  labels : List Nat
  trees : List Nat
  deriving DecidableEq, Repr

def Group.init : Group :=
  ⟨0, 0, none, [], [], 0, 0, 0, true, 0, 0, false, [], false, false, 0, 0, 0, 0, 0, [], [], [], []⟩

/-- A thread set (spec/13_host_port_and_control.md R358, R359): the context, its tiles and thread mask. -/
structure TSet where
  ctx : Nat
  first : Nat
  count : Nat
  mask : BitVec 16
  deriving DecidableEq, Repr

/-! ### Expert dispatch -/

/-- A token the dispatcher has buffered (spec/10_expert_and_headwater.md R270). -/
structure Token where
  src : Nat
  rank : Nat
  head : Payload
  data : List Payload
  buf : Word
  wasHeld : Bool
  deriving DecidableEq, Repr

/-- A decided token that waits for its combine entry (R271): chosen and dropped positions, RFLAGS, and
the HOME of each chosen position in the bank against which it was decided (R269). -/
structure Decided where
  tok : Token
  chosen : List Nat
  dropped : Nat
  flags : Nat
  homes : List (Nat × Nat)
  deriving DecidableEq, Repr

/-- What the dispatcher keeps for one EHT (R270-R275). -/
structure Eht where
  rolls : List (Nat × Nat × Nat)
  tokens : List Token
  held : List Token
  nextHeld : List Token
  counts : List (Nat × Nat)
  /-- next token index of each rank in the open step (R272) -/
  next : List (Nat × Nat)
  decided : List Decided
  opened : Bool
  deriving DecidableEq, Repr

def Eht.init : Eht := ⟨[], [], [], [], [], [], [], false⟩

/-! ### Pools -/

/-- An owner entry (spec/11_memory_and_pools.md R308, R317). -/
structure Owner where
  pool : Nat
  kind : Nat
  key : Nat
  max : Nat
  min : Nat
  used : Nat
  deriving DecidableEq, Repr

/-- A buffer of a pool: TICKET, owner list, allocator (R307-R312). -/
structure Buf where
  ticket : Nat
  owners : List Nat
  alloc : Option Nat
  deriving DecidableEq, Repr

def Buf.init : Buf := ⟨1, [], none⟩

/-- A pool: its configuration (STATE 0 FREE, 1 ACTIVE, 2 FAULTED) and its free store. A ring pool holds an on-chip cache
and the ring, whose first `fresh` handles are those it was created with; a general pool holds up to three head entries on
chip (spec/11_memory_and_pools.md R307, R313, R314, R317). `total` is COUNT at creation; `retiring` lists buffers on a
retired page (R298). -/
structure Pool where
  state : Nat
  loc : Nat
  size : Nat
  ring : Bool
  ctx : Nat
  count : Nat
  total : Nat
  base : Nat
  metaBase : Nat
  cache : List Nat
  ringList : List Nat
  fresh : Nat
  chip : List Nat
  retiring : List Nat
  deriving DecidableEq, Repr

def Pool.init : Pool := ⟨0, 0, 0, false, 0, 0, 0, 0, 0, [], [], 0, [], []⟩

/-- A privileged pool as the firmware creates it at boot (spec/11_memory_and_pools.md R314, Table 11-7). -/
def Pool.privileged (size count base : Nat) : Pool :=
  { Pool.init with state := 1, size := size, ring := true, count := count, total := count, base := base, fresh := count }

/-- Who asks for a buffer: a command, a tile thread by its access, the watermaster for a chunk of a group, the dispatcher
for the first message of a port, the Water Book relay for a record. -/
inductive Asker where
  | command
  | thread (r : Request)
  | chunk (g c : Nat)
  | port (p : Nat)
  | relay (record : List Byte)
  deriving DecidableEq, Repr

/-- A waiter of the BPM (R310): who asked, the pool, the owner, and the request to answer, if a cell asked. -/
structure Waiter where
  who : Requester
  pool : Nat
  owner : Nat
  asker : Asker
  deriving DecidableEq, Repr

/-! ### Host port -/

/-- An event record as queued for a session (spec/13_host_port_and_control.md R365, Table 13-9). -/
structure EvRec where
  seq : Nat
  bytes : List Byte
  deriving DecidableEq, Repr

/-- A ZCT session (spec/13_host_port_and_control.md R348-R352, R365). -/
structure Session where
  opened : Bool
  key : Nat
  priv : Bool
  h2m : List Byte
  m2h : List Byte
  hostNonce : List Byte
  addr : HostAddr
  txSeq : Nat
  rxHigh : Nat
  rxSeen : List Nat
  kept : List (Word × Byte × List Byte)
  events : List EvRec
  evtSeq : Nat
  lost : Nat
  attest : List Byte
  deriving DecidableEq, Repr

/-- The host port configuration that SAVE stores in flash (spec/13_host_port_and_control.md R368). -/
structure HpFlash where
  cfg : List Word
  keys : List (Nat × Word)
  deriving DecidableEq, Repr

/-! ### Faults and resets -/

/-- A reset unit with its operands (spec/14_faults_and_recovery.md Table 14-7, R406). -/
structure ResetOp where
  unit : Nat
  index : Nat
  engine : Nat
  scrub : Bool
  replace : Bool
  /-- class, SOURCE and CAUSE of the event that started it; class 6 when none did -/
  cls : Nat
  source : Nat
  cause : Nat
  deriving DecidableEq, Repr

/-- An event record before it is numbered for a session (spec/13_host_port_and_control.md R365, Table 13-9). -/
structure Post where
  cls : Nat
  kind : Nat
  ctx : Option Nat
  source : Nat
  code : Nat
  cycle : Nat
  data : List Byte
  deriving DecidableEq, Repr

/-- A capture in progress (spec/14_faults_and_recovery.md R386): the reset that follows it, the record whose CAP field it
fills, the cycle it started in, the members of a hang, and whether TRAY_REQ_L follows it (R381, R389). -/
structure Capture where
  op : Option ResetOp
  post : Option Post
  since : Nat
  members : List Word
  tray : Bool
  unit : Nat
  deriving DecidableEq, Repr

/-- A waiting node as one scan saw it (spec/14_faults_and_recovery.md Table 14-4): its member descriptor, the kind of
thing it waits on, the nodes it waits on, its progress count, and whether the wait can never be released. -/
structure WNode where
  desc : Word
  on : Nat
  targets : List Word
  progress : Nat
  dead : Bool
  external : Bool
  deriving DecidableEq, Repr

/-- A repair ledger entry (spec/14_faults_and_recovery.md R404, Table 14-8). -/
structure LedgerEntry where
  kind : Nat
  count : Nat
  boot : Nat
  cycle : Nat
  loc : Nat
  dst : Nat
  chain : List Byte
  sig : List Byte
  deriving DecidableEq, Repr

/-! ### Power, boot, Water Book -/

/-- A boot slot of module flash (spec/15_power_clocks_security.md R422). -/
structure FlashSlot where
  rootKey : List Byte
  firstStage : List Byte
  firmware : List Byte
  microcode : List Byte
  sig1 : List Byte
  sig2 : List Byte
  sig3 : List Byte
  version : Word
  deriving DecidableEq, Repr

def FlashSlot.init : FlashSlot := ⟨[], [], [], [], [], [], [], 0⟩

/-- What power, clocks and the security block keep beside their registers. -/
structure Power where
  /-- the main converters run (R454) -/
  mainOn : Bool
  /-- level of RESET_L (R457) -/
  resetL : Bool
  /-- last input voltage seen, units of 10 mV -/
  volts : Nat
  /-- boot stopped, failing domain or 255 (R413, Table 17-5) -/
  bootStopped : Bool
  failDomain : Nat
  /-- the ROM has accepted the first stage; the next domain of Table 15-2 to start -/
  romOk : Bool
  nextDomain : Nat
  /-- power samples of the last 1 ms, newest first (R408) -/
  powers : List Nat
  /-- samples since a current above 60 A (Table 15-7) -/
  overAmps : Nat
  /-- excursions already reported (Table 15-1) -/
  excursion : List Nat
  /-- domains switched off by the host, clusters failed at start -/
  failedClusters : List Nat
  /-- CDC crossings: pulses pending (R418) -/
  pulses : List (Nat × Nat)
  /-- recovered-clock lane of each octet (R416), octets powered (R320) -/
  octetLane : List (Nat × Nat)
  octetsOn : Nat
  /-- octet-internal failure, entered as failed (R394) -/
  octetsDead : List Nat
  /-- FAULT_L and TRAY_REQ_L driven low (R380, R381); held by a lock loss (R421) or a stopped boot (R413) -/
  faultLow : Bool
  trayLow : Bool
  pinHeld : Bool
  /-- measurements M1, M2, M3 (R424) -/
  m1 : List Byte
  m2 : List Byte
  m3 : List Byte
  /-- management I3C target: dynamic address, in-band interrupts enabled (R458) -/
  i3cAddr : Option (BitVec 7)
  i3cEnec : Bool
  /-- update image being verified (R426) -/
  update : Option (Nat × Nat × Nat)
  /-- a session has opened, a HOST_KEY was taken since power-up (R459) -/
  sessionSeen : Bool
  hostKeySeen : Bool
  deriving DecidableEq, Repr

/-- One per-context count of the count link (spec/16_water_book.md R438, R439). -/
structure CountRec where
  ctx : Nat
  gen : Nat
  cells : Nat
  clusterUs : Nat
  deriving DecidableEq, Repr

/-- A count frame in flight (spec/16_water_book.md R439). -/
structure CountFrame where
  fseq : Nat
  request : Bool
  resend : Bool
  resendSeq : Nat
  entries : List CountRec
  /-- the CRC-32C that the sender formed -/
  crc : Nat
  deriving DecidableEq, Repr

/-- An interval that has ended and whose record is not yet committed (spec/16_water_book.md R440, Table 16-1): its figures as
they were at its end, and (context delta, RESTART). -/
structure Interval where
  kind : Nat
  flags : Nat
  tStart : Nat
  tEnd : Nat
  eTotal : Nat
  eInterval : Nat
  vMin : Nat
  vMax : Nat
  pMax : Option Nat
  framesOk : Nat
  framesBad : Nat
  deltas : List (CountRec × Bool)
  deriving DecidableEq, Repr

/-- The Water Book and the relay of the logic die (spec/16_water_book.md). -/
structure WaterBook where
  /-- the Water Book runs; the input has failed and the hold-up supply carries it (R444) -/
  on : Bool
  powerLost : Bool
  bootCount : Nat
  /-- RSEQ of the last record formed -/
  rseq : Nat
  /-- E_TOTAL in mJ and the part of a mJ not yet counted, units of 0.1 nJ (R437) -/
  eTotal : Nat
  eFrac : Nat
  /-- Water Book time in 40 ns ticks since its boot -/
  ticks : Nat
  /-- the running interval: its start, E_TOTAL at its start, extremes (no P_MAX before a whole millisecond), flags of Table
  16-1, frames -/
  tStart : Nat
  eStart : Nat
  vMin : Nat
  vMax : Nat
  pMax : Option Nat
  flags : Nat
  framesOk : Nat
  framesBad : Nat
  /-- the running 1 ms average: energy in 0.1 nJ, microseconds -/
  msEnergy : Nat
  msMicros : Nat
  tamper : Bool
  updates : Nat
  fwVersion : Word
  /-- SHA-512 of the image that UPDATE installed; empty while the one of manufacture runs -/
  fp : List Byte
  /-- value last held for each context, deltas of the running interval with RESTART (R439) -/
  last : List CountRec
  deltas : List (CountRec × Bool)
  /-- records in flash, oldest first: RSEQ and bytes (R443) -/
  records : List (Nat × List Byte)
  selected : Nat
  ended : List Interval
  /-- an on-demand record is asked for; microseconds since the last grid point, since the last on-demand record, since the
  last valid frame (R439, R440) -/
  demand : Bool
  sinceGrid : Option Nat
  sinceDemand : Option Nat
  noFrame : Nat
  /-- blocks of a firmware image received by UPDATE (R447) -/
  imageBlocks : List Byte
  i3cAddr : Option (BitVec 7)
  i3cEnec : Bool
  /-- count sender and count link of the logic die: counts, FSEQ, context to send next, frames in flight (R438, R439) -/
  counts : List CountRec
  fseq : Nat
  nextCtx : Nat
  frames : List CountFrame
  /-- relay of the logic die: handle of the pool 3 buffer that holds the record of RSEQ mod 1,024 (R446) -/
  relay : List (Nat × Word)
  deriving DecidableEq, Repr

/-- What the Jorou table holds in the version in force (spec/13_host_port_and_control.md R366, R367). -/
structure Jorou where
  tseq : Nat
  cycle : Nat
  active : Nat
  spares : Nat
  degraded : Bool
  map : List (Nat × Nat)
  lanes : List (Nat × Nat × Nat)
  plans : List (Nat × Bool × Nat × List Byte)
  pages : List Word
  wbFp : List Byte
  deriving DecidableEq, Repr

/-- What leaves the module (the model's own record of its outputs, log entry 12). -/
inductive Out where
  /-- a codeword on a port: its number, the scrambled message bits, and what each lane sends of it as PAM4 levels
  (R321-R323) -/
  | codeword (port num : Nat) (msg : BitVec 5140) (line : List (Nat × List Nat))
  /-- 5,440 bits on a lane: a training block, PRBS31, or what a far-end loop retransmits (R325, R340, R341) -/
  | block (lane : Nat) (bits : BitVec 5440)
  /-- a received codeword that a far-end loop retransmits, on the lanes whose PRBS_GEN does not replace it (R340, R341) -/
  | retransmit (port : Nat) (cw : RxCodeword) (lanes : List Nat)
  /-- a cell handed to a port's cell stream (R93, R335) -/
  | cell (port : Nat) (c : Cell)
  /-- a ZCT message: destination, type, session, SEQ, REQ_ID, STATUS, body, MAC (R347) -/
  | zct (dst : HostAddr) (type : Nat) (session : Nat) (seq : Nat) (reqId : Word) (status : Byte) (body mac : List Byte)
  /-- a mirror datagram (R87) -/
  | mirror (dst : HostAddr) (bytes : List Byte)
  /-- an ARP or neighbour advertisement, an ICMP echo reply (R346) -/
  | arp (dst : HostAddr) (mac : BitVec 48)
  | echo (dst : HostAddr) (payload : List Byte)
  /-- the value a register or window read returns; none is an address error (R6, R294, R370) -/
  | read (addr : Nat) (value : Option Word)
  /-- the handle a pool allocation returns (R309) -/
  | handle (pool owner : Nat) (value : Option Word)
  /-- an operation of a pool by a requester that is not entitled to it completes with an error (R314, R318) -/
  | poolRefused (pool owner : Nat) (why : RspStatus)
  /-- what an I3C target returns, refuses or signals (R445, R458) -/
  | i3c (water : Bool) (bytes : List Byte)
  | nack
  | ibi (water : Bool)
  /-- a pin changes level: FAULT_L, TRAY_REQ_L driven low (R380, R381) -/
  | pins (faultLow trayLow : Bool)
  /-- a record on the relay link (R441) -/
  | relay (bytes : List Byte)
  deriving DecidableEq, Repr

/-- The module. -/
structure State where
  /-- the commands that are waiting, first in first out -/
  pending : List Instr
  /-- SLU_CYCLE, core cycles since power-up (spec/04_sluice_scheduling.md R110) -/
  cycle : Nat
  grade : Grade
  /-- counter of the free values drawn so far (the model's own; no statement rests on its value) -/
  freeCtr : Nat
  out : List Out
  mem : List Host.Cell
  /-- lines and pages of memory that return data errors (spec/11_memory_and_pools.md R297, R302) -/
  poison : List Nat
  regs : List (Reg × Word)
  ports : List (Nat × Port)
  laneMap : List LaneRec
  /-- widths fixed by the first lane map since power-up (spec/12_lanes_and_links.md R319) -/
  mapFixed : Bool
  slots : List (Nat × Slot)
  queues : List (Nat × List QEntry)
  /-- crossbar input buffers of internal senders, and the input served last (spec/01_architecture.md R10) -/
  xin : List (Nat × List (Nat × Item))
  xinLast : Nat
  heldCells : List HeldCell
  /-- Reservoir slots retired, the shared floor in force (spec/03_reservoir.md R71, R90) -/
  retiredSlots : List Nat
  floor : Nat
  /-- mirror sessions -/
  mirrors : List (Nat × Mirror)
  /-- mirror copies made so far in core cycle `.1` (spec/03_reservoir.md R84) -/
  mirrorMade : Nat × Nat
  /-- records written to and taken from the ZF5200 sample ring so far (spec/03_reservoir.md R88) -/
  sampleNext : Nat
  sampleRead : Nat
  /-- core cycle in which the running queue sampling period began (spec/04_sluice_scheduling.md R107) -/
  smpStart : Option Nat
  fails : List ((Nat × Nat) × Notice)
  /-- pending echoes by SRC and TC, and the timers of the echo filter that run (spec/02_cells_and_routes.md R57, R58) -/
  echoes : List ((Nat × Nat) × Notice)
  echoGaps : List Nat
  /-- NO_RETURN already reported in this ECHO_GAP, by endpoint ID (spec/02_cells_and_routes.md R38) -/
  noReturn : List (Nat × Nat)
  tiles : List (Nat × Tile)
  /-- physical tile of a logical tile when it differs from its number, tiles failed, candidates, logical count -/
  tileMap : List (Nat × Nat)
  failedTiles : List Nat
  candidates : List Nat
  /-- agent inboxes: memory port m at m, management port at 16, host port at 17 -/
  inboxes : List (Nat × List Item)
  ctxs : List (Nat × Ctx)
  /-- Where the pass over the rings goes on: 64 × context + ring of the next ring to look at (R355). -/
  ringPass : Nat
  plans : List (Nat × Plan)
  planFp : List Byte
  groups : List (Nat × Group)
  /-- control cells that wait for the watermaster: branch, core cycle of arrival, cell -/
  wmInbox : List (Nat × Nat × Cell)
  sets : List (Nat × TSet)
  ehts : List (Nat × Eht)
  /-- open TYPE 14 head of each port; whole messages that wait for the dispatcher: port, core cycle of the last cell, message
  (spec/10_expert_and_headwater.md R266, R267, R275) -/
  expOpen : List (Nat × HeadMsg)
  expIn : List (Nat × Nat × HeadMsg)
  /-- TYPE 14 cells that wait at their port while the dispatcher takes none from it, their credit withheld: port, cell
  (spec/03_reservoir.md R75; spec/10_expert_and_headwater.md R270) -/
  expWait : List (Nat × Cell)
  atomics : List (Nat × Nat × Nat × Word)
  owners : List (Nat × Owner)
  bufs : List (Nat × Buf)
  pools : List (Nat × Pool)
  waiters : List Waiter
  /-- buffers granted to the module's engines and not yet used -/
  grants : List (Waiter × Word)
  /-- SRAM rows and LPDDR5X pages: corrected errors in the patrol, pages held, retired, left in place -/
  rowErrs : List (Nat × Nat)
  pageErrs : List (Nat × Nat)
  pageHeld : List Nat
  pages : List Word
  /-- SRAM rows that a spare row has replaced since the boot (spec/11_memory_and_pools.md R298) -/
  sparedRows : List Nat
  patrolAt : Nat
  /-- SRAM address the patrol read last -/
  sramAt : Nat
  selfRefresh : Bool
  refreshing : List (Nat × Nat)
  sessions : List (Nat × Session)
  hpActive : List Word
  hpApply : Bool
  hostLink : Bool
  /-- READ and WRITE messages that wait for a page or for the packages: session, TYPE, message
  (spec/11_memory_and_pools.md R301, R302) -/
  zctWait : List (Nat × Nat × ZctMsg)
  flash : HpFlash
  bootSlots : List (Nat × FlashSlot)
  cert : List Byte
  jorou : Jorou
  /-- hardware class E events per physical tile: cycles (spec/14_faults_and_recovery.md R400) -/
  wear : List (Nat × List Nat)
  ledger : List LedgerEntry
  reset? : Option ResetOp
  /-- automatic resets that wait, with the records they fill (R393) -/
  resetQ : List (ResetOp × Option Post)
  resetsDone : List (ResetOp × Nat)
  /-- captures the host has not freed: first handle to the handles of the chain (spec/14 R387) -/
  captures : List (Nat × List Nat)
  capture : Option Capture
  /-- captures that wait for the one in progress (R386) -/
  capQ : List Capture
  scan : List WNode
  hangs : List (List Word)
  stalls : List (Word × Nat)
  power : Power
  wb : WaterBook
  deriving DecidableEq, Repr

/-- Pools 0-3 as the firmware creates them at boot (spec/11_memory_and_pools.md R314, Table 11-7). -/
def privilegedPools : List (Nat × Pool) :=
  [(0, .privileged 0 4096 0x83000000), (1, .privileged 1 16384 0x84000000), (2, .privileged 4 512 0x8C000000),
   (3, .privileged 0 1024 0x8E000000)]

/-- The firmware's owner entry in each privileged pool (spec/11_memory_and_pools.md Table 11-5, log entry 4). -/
def firmwareOwners : List (Nat × Owner) :=
  [(0, ⟨0, 0, 0, 0, 0, 0⟩), (1, ⟨1, 0, 0, 0, 0, 0⟩), (2, ⟨2, 0, 0, 0, 0, 0⟩), (3, ⟨3, 0, 0, 0, 0, 0⟩)]

def Power.init : Power :=
  { mainOn := true, resetL := true, volts := 4400, bootStopped := false, failDomain := 255, romOk := false,
    nextDomain := 1, powers := [], overAmps := 100, excursion := [], failedClusters := [], pulses := [],
    octetLane := [], octetsOn := 0, octetsDead := [], faultLow := false, trayLow := false, pinHeld := false,
    m1 := [], m2 := [], m3 := [], i3cAddr := none, i3cEnec := false, update := none, sessionSeen := false,
    hostKeySeen := false }

def WaterBook.init : WaterBook :=
  { on := true, powerLost := false, bootCount := 0, rseq := 0, eTotal := 0, eFrac := 0, ticks := 0, tStart := 0,
    eStart := 0, vMin := 65535, vMax := 0, pMax := none, flags := 0, framesOk := 0, framesBad := 0, msEnergy := 0,
    msMicros := 0, tamper := false, updates := 0, fwVersion := 0, fp := [], last := [], deltas := [], records := [],
    selected := 0, ended := [], demand := false, sinceGrid := none, sinceDemand := none, noFrame := 0,
    imageBlocks := [], i3cAddr := none, i3cEnec := false, counts := [], fseq := 0, nextCtx := 0, frames := [],
    relay := [] }

def Jorou.init : Jorou := ⟨0, 0, 256, 8, false, [], [], [], [], []⟩

/-- The module right after power-up (log entries 1-4, 10): every register at the Reset column of its map, memory with
nothing listed, context 0 in existence (spec/13_host_port_and_control.md R354). -/
def State.reset : State :=
  { pending := [], cycle := 0, grade := .zf256, freeCtr := 0, out := [], mem := [], poison := [], regs := [],
    ports := [], laneMap := [], mapFixed := false, slots := [], queues := [], xin := [],
    xinLast := 1297, heldCells := [], retiredSlots := [], floor := 0x40000, mirrors := [], mirrorMade := (0, 0),
    sampleNext := 0, sampleRead := 0, smpStart := none, fails := [], echoes := [], echoGaps := [], noReturn := [], tiles := [],
    tileMap := [], failedTiles := [], candidates := [], inboxes := [], ctxs := [], ringPass := 0, plans := [], planFp := [],
    groups := [], wmInbox := [], sets := [], ehts := [], expOpen := [], expIn := [], expWait := [], atomics := [],
    owners := [], bufs := [], pools := [], waiters := [], grants := [], rowErrs := [], pageErrs := [], pageHeld := [],
    pages := [], sparedRows := [], patrolAt := 0, sramAt := 0, selfRefresh := false, refreshing := [], sessions := [],
    hpActive := [resetValue HP_CFG, resetValue HP_MAC, resetValue HP_IPV4, resetValue HP_IPV6_HI, resetValue HP_IPV6_LO,
      resetValue HP_PREFIX], hpApply := false, hostLink := false, zctWait := [],
    flash := ⟨[], []⟩, bootSlots := [], cert := [], jorou := .init, wear := [], ledger := [], reset? := none,
    resetQ := [], resetsDone := [], captures := [], capture := none, capQ := [], scan := [], hangs := [],
    stalls := [], power := .init, wb := .init }

end Sys2Proof.Machine
end

