-- ==== Sys2Proof/Machine/Ops.lean ====
section
/-! DEFINITION. Sys2Proof/Machine/Ops.lean: the named operations over the registers, the memory and the tables of the state.
Every meaning reads and writes the state through these. -/

namespace Sys2Proof.Machine

/-! ### One field of the state given a value -/

def State.putPending (s : State) (v : List Instr) : State := { s with pending := v }
def State.putCycle (s : State) (v : Nat) : State := { s with cycle := v }
def State.putGrade (s : State) (v : Grade) : State := { s with grade := v }
def State.putFreeCtr (s : State) (v : Nat) : State := { s with freeCtr := v }
def State.putOut (s : State) (v : List Out) : State := { s with out := v }
def State.putMem (s : State) (v : List Host.Cell) : State := { s with mem := v }
def State.putPoison (s : State) (v : List Nat) : State := { s with poison := v }
def State.putRegs (s : State) (v : List (Reg × Word)) : State := { s with regs := v }
def State.putPorts (s : State) (v : List (Nat × Port)) : State := { s with ports := v }
def State.putLaneMap (s : State) (v : List LaneRec) : State := { s with laneMap := v }
def State.putMapFixed (s : State) (v : Bool) : State := { s with mapFixed := v }
def State.putSlots (s : State) (v : List (Nat × Slot)) : State := { s with slots := v }
def State.putQueues (s : State) (v : List (Nat × List QEntry)) : State := { s with queues := v }
def State.putXin (s : State) (v : List (Nat × List (Nat × Item))) : State := { s with xin := v }
def State.putXinLast (s : State) (v : Nat) : State := { s with xinLast := v }
def State.putHeldCells (s : State) (v : List HeldCell) : State := { s with heldCells := v }
def State.putRetiredSlots (s : State) (v : List Nat) : State := { s with retiredSlots := v }
def State.putFloor (s : State) (v : Nat) : State := { s with floor := v }
def State.putMirrors (s : State) (v : List (Nat × Mirror)) : State := { s with mirrors := v }
def State.putMirrorMade (s : State) (v : Nat × Nat) : State := { s with mirrorMade := v }
def State.putSampleNext (s : State) (v : Nat) : State := { s with sampleNext := v }
def State.putSampleRead (s : State) (v : Nat) : State := { s with sampleRead := v }
def State.putSmpStart (s : State) (v : Option Nat) : State := { s with smpStart := v }
def State.putFails (s : State) (v : List ((Nat × Nat) × Notice)) : State := { s with fails := v }
def State.putEchoes (s : State) (v : List ((Nat × Nat) × Notice)) : State := { s with echoes := v }
def State.putEchoGaps (s : State) (v : List Nat) : State := { s with echoGaps := v }
def State.putNoReturn (s : State) (v : List (Nat × Nat)) : State := { s with noReturn := v }
def State.putTiles (s : State) (v : List (Nat × Tile)) : State := { s with tiles := v }
def State.putTileMap (s : State) (v : List (Nat × Nat)) : State := { s with tileMap := v }
def State.putFailedTiles (s : State) (v : List Nat) : State := { s with failedTiles := v }
def State.putCandidates (s : State) (v : List Nat) : State := { s with candidates := v }
def State.putInboxes (s : State) (v : List (Nat × List Item)) : State := { s with inboxes := v }
def State.putCtxs (s : State) (v : List (Nat × Ctx)) : State := { s with ctxs := v }
def State.putRingPass (s : State) (v : Nat) : State := { s with ringPass := v }
def State.putPlans (s : State) (v : List (Nat × Plan)) : State := { s with plans := v }
def State.putPlanFp (s : State) (v : List Byte) : State := { s with planFp := v }
def State.putGroups (s : State) (v : List (Nat × Group)) : State := { s with groups := v }
def State.putWmInbox (s : State) (v : List (Nat × Nat × Cell)) : State := { s with wmInbox := v }
def State.putSets (s : State) (v : List (Nat × TSet)) : State := { s with sets := v }
def State.putEhts (s : State) (v : List (Nat × Eht)) : State := { s with ehts := v }
def State.putExpOpen (s : State) (v : List (Nat × HeadMsg)) : State := { s with expOpen := v }
def State.putExpIn (s : State) (v : List (Nat × Nat × HeadMsg)) : State := { s with expIn := v }
def State.putExpWait (s : State) (v : List (Nat × Cell)) : State := { s with expWait := v }
def State.putAtomics (s : State) (v : List (Nat × Nat × Nat × Word)) : State := { s with atomics := v }
def State.putOwners (s : State) (v : List (Nat × Owner)) : State := { s with owners := v }
def State.putBufs (s : State) (v : List (Nat × Buf)) : State := { s with bufs := v }
def State.putPools (s : State) (v : List (Nat × Pool)) : State := { s with pools := v }
def State.putWaiters (s : State) (v : List Waiter) : State := { s with waiters := v }
def State.putGrants (s : State) (v : List (Waiter × Word)) : State := { s with grants := v }
def State.putRowErrs (s : State) (v : List (Nat × Nat)) : State := { s with rowErrs := v }
def State.putPageErrs (s : State) (v : List (Nat × Nat)) : State := { s with pageErrs := v }
def State.putPageHeld (s : State) (v : List Nat) : State := { s with pageHeld := v }
def State.putPages (s : State) (v : List Word) : State := { s with pages := v }
def State.putSparedRows (s : State) (v : List Nat) : State := { s with sparedRows := v }
def State.putPatrolAt (s : State) (v : Nat) : State := { s with patrolAt := v }
def State.putSramAt (s : State) (v : Nat) : State := { s with sramAt := v }
def State.putSelfRefresh (s : State) (v : Bool) : State := { s with selfRefresh := v }
def State.putRefreshing (s : State) (v : List (Nat × Nat)) : State := { s with refreshing := v }
def State.putSessions (s : State) (v : List (Nat × Session)) : State := { s with sessions := v }
def State.putHpActive (s : State) (v : List Word) : State := { s with hpActive := v }
def State.putHpApply (s : State) (v : Bool) : State := { s with hpApply := v }
def State.putHostLink (s : State) (v : Bool) : State := { s with hostLink := v }
def State.putZctWait (s : State) (v : List (Nat × Nat × ZctMsg)) : State := { s with zctWait := v }
def State.putFlash (s : State) (v : HpFlash) : State := { s with flash := v }
def State.putBootSlots (s : State) (v : List (Nat × FlashSlot)) : State := { s with bootSlots := v }
def State.putJorou (s : State) (v : Jorou) : State := { s with jorou := v }
def State.putWear (s : State) (v : List (Nat × List Nat)) : State := { s with wear := v }
def State.putLedger (s : State) (v : List LedgerEntry) : State := { s with ledger := v }
def State.putReset (s : State) (v : Option ResetOp) : State := { s with reset? := v }
def State.putResetQ (s : State) (v : List (ResetOp × Option Post)) : State := { s with resetQ := v }
def State.putResetsDone (s : State) (v : List (ResetOp × Nat)) : State := { s with resetsDone := v }
def State.putCaptures (s : State) (v : List (Nat × List Nat)) : State := { s with captures := v }
def State.putCapture (s : State) (v : Option Capture) : State := { s with capture := v }
def State.putCapQ (s : State) (v : List Capture) : State := { s with capQ := v }
def State.putScan (s : State) (v : List WNode) : State := { s with scan := v }
def State.putHangs (s : State) (v : List (List Word)) : State := { s with hangs := v }
def State.putStalls (s : State) (v : List (Word × Nat)) : State := { s with stalls := v }
def State.putPower (s : State) (v : Power) : State := { s with power := v }
def State.putWb (s : State) (v : WaterBook) : State := { s with wb := v }

/-- State `t` with the queue, the grade and the core cycle count of `s`. -/
def State.commit (s t : State) : State := ((t.putPending s.pending).putGrade s.grade).putCycle s.cycle

/-- The outcome of a meaning whose effect is `t`: a command leaves the queue of waiting commands, the grade and the core
cycle count as they were (log entries 5 and 6: only an empty queue lets a core cycle pass). -/
def ok (s t : State) : Host.Outcome State Fault Refusal :=
  .next (s.commit t)

/-- Identity order of numbered tables. -/
def natRank (n : Nat) : Nat := n

/-- Order of tables keyed by a pair of numbers. -/
def pairRank (p : Nat × Nat) : Nat := p.1 * 2 ^ 40 + p.2

/-! ### Registers -/

/-- The stored value of a register; one that nothing has written holds its reset value. -/
def State.rd (s : State) (r : Reg) : Word := Table.get (resetValue r) s.regs r

/-- A register given a value by the module itself. -/
def State.wr (s : State) (r : Reg) (v : Word) : State :=
  s.putRegs (Table.set Reg.rank (resetValue r) s.regs r v)

/-- A field of a register as a number. -/
def State.fld (s : State) (r : Reg) (f : Fld) : Nat := bitsOf (s.rd r).toNat f.lo f.width

/-- A one-bit field. -/
def State.bit (s : State) (r : Reg) (f : Fld) : Bool := s.fld r f != 0

/-- A field given a value by the module itself. -/
def State.setFld (s : State) (r : Reg) (f : Fld) (v : Nat) : State :=
  s.wr r (BitVec.ofNat 64 (putBits (s.rd r).toNat f.lo f.width v))

/-- A counter register plus `n`; 64-bit counters wrap (spec/02_cells_and_routes.md R64). -/
def State.count (s : State) (r : Reg) (n : Nat := 1) : State := s.wr r (s.rd r + BitVec.ofNat 64 n)

/-- Every register of an instance of a block back at its reset value. -/
def State.resetRegs (s : State) (p : Reg → Bool) : State := s.putRegs (s.regs.filter fun e => !p e.1)

/-! ### Memory -/

/-- What an unlisted byte of memory reads as (log entry 10). -/
def unlistedByte : Byte := 0

/-- The canonical form of memory: addresses strictly rising, no entry equal to `unlistedByte`. -/
def Memory.wf (m : List Host.Cell) : Bool := Table.wf natRank unlistedByte m

def Memory.read (m : List Host.Cell) (a : Nat) : Byte := Table.get unlistedByte m a

def Memory.write (m : List Host.Cell) (a : Nat) (b : Byte) : List Host.Cell := Table.set natRank unlistedByte m a b

/-- Consecutive bytes written from address `a` up. -/
def Memory.writeBytes (m : List Host.Cell) (a : Nat) : List Byte → List Host.Cell
  | [] => m
  | b :: l => Memory.writeBytes (Memory.write m a b) (a + 1) l

/-- `n` bytes from address `a` up. -/
def State.bytes (s : State) (a n : Nat) : List Byte := (List.range n).map fun i => Memory.read s.mem (a + i)

def State.setBytes (s : State) (a : Nat) (l : List Byte) : State := s.putMem (Memory.writeBytes s.mem a l)

/-- The little-endian number in `n` bytes from address `a` up (spec/00_scope.md R5). -/
def State.load (s : State) (a n : Nat) : Nat := ofBytes (s.bytes a n)

/-- `n` bytes from address `a` up given the little-endian value `v`. -/
def State.store (s : State) (a n v : Nat) : State := s.setBytes a (toBytes n v)

/-- A field of an `n`-byte table entry at address `a`. -/
def State.memFld (s : State) (a n lo w : Nat) : Nat := bitsOf (s.load a n) lo w

/-- A field of an `n`-byte table entry given a value. -/
def State.setMemFld (s : State) (a n lo w v : Nat) : State := s.store a n (putBits (s.load a n) lo w v)

/-- `n` bytes from address `a` up zeroed. -/
def State.zeroBytes (s : State) (a n : Nat) : State :=
  s.putMem (s.mem.filter fun e => decide (e.1 < a) || decide (a + n ≤ e.1))

/-- A free value: an open value of the spec and the state after drawing it (log entry 7). -/
def State.free (s : State) : Word × State := (Config.freeWord s.freeCtr, (s.putFreeCtr (s.freeCtr + 1)))

/-- `n` doublewords from address `a` up take open values (log entry 7). -/
def State.openWords (s : State) (a : Nat) : Nat → State
  | 0 => s
  | n + 1 =>
    let (w, t) := s.free
    (t.store a 8 w.toNat).openWords (a + 8) n

/-! ### Uncorrectable errors (spec/11_memory_and_pools.md R297, R302) -/

def lpddrBase : Nat := 0x8000000000

/-- The unit of memory that one error makes unreadable: a 64-byte line of LPDDR5X, a 64-bit word of SRAM. -/
def poisonUnit (a : Nat) : Nat := if lpddrBase ≤ a then 64 else 8

/-- Whether a read of `n` bytes from `a` meets an uncorrectable error. -/
def State.poisoned (s : State) (a n : Nat) : Bool :=
  s.poison.any fun p => decide (p < a + n) && decide (a < p + poisonUnit p)

/-- The poison a write of `n` bytes from `a` clears: the units it covers whole. -/
def State.clearPoison (s : State) (a n : Nat) : State :=
  s.putPoison (s.poison.filter fun p => !(decide (a ≤ p) && decide (p + poisonUnit p ≤ a + n)))

/-- A write of `n` bytes from `a` would leave part of a poisoned LPDDR5X line (R302). -/
def State.partialPoison (s : State) (a n : Nat) : Bool :=
  s.poison.any fun p => decide (lpddrBase ≤ p) && decide (p < a + n) && decide (a < p + 64) &&
    !(decide (a ≤ p) && decide (p + 64 ≤ a + n))

/-- Bytes written as an agent writes them: memory, and the error state they renew. -/
def State.put (s : State) (a : Nat) (l : List Byte) : State := (s.setBytes a l).clearPoison a l.length

/-- A table entry of `n` bytes as a lookup reads it: an uncorrectable entry is all zeros, hence not VALID (Table 11-3a). -/
def State.entry (s : State) (a n : Nat) : Nat := if s.poisoned a n then 0 else s.load a n

/-! ### Tables of engine state -/

def State.port (s : State) (p : Nat) : Port := Table.get Port.init s.ports p
def State.setPort (s : State) (p : Nat) (x : Port) : State :=
  s.putPorts (Table.set natRank Port.init s.ports p x)
def State.modPort (s : State) (p : Nat) (f : Port → Port) : State := s.setPort p (f (s.port p))

def Port.vc (x : Port) (v : Nat) : Vc := Table.get Vc.init x.vcs v
def Port.setVc (x : Port) (v : Nat) (c : Vc) : Port := { x with vcs := Table.set natRank Vc.init x.vcs v c }
def State.vc (s : State) (p v : Nat) : Vc := (s.port p).vc v
def State.modVc (s : State) (p v : Nat) (f : Vc → Vc) : State :=
  s.modPort p fun x => x.setVc v (f (x.vc v))

def State.tile (s : State) (t : Nat) : Tile := Table.get Tile.init s.tiles t
def State.setTile (s : State) (t : Nat) (x : Tile) : State :=
  s.putTiles (Table.set natRank Tile.init s.tiles t x)
def State.modTile (s : State) (t : Nat) (f : Tile → Tile) : State := s.setTile t (f (s.tile t))

def Tile.thread (x : Tile) (h : Nat) : Thread := Table.get Thread.init x.threads h
def Tile.setThread (x : Tile) (h : Nat) (y : Thread) : Tile :=
  { x with threads := Table.set natRank Thread.init x.threads h y }
def State.thread (s : State) (t h : Nat) : Thread := (s.tile t).thread h
def State.modThread (s : State) (t h : Nat) (f : Thread → Thread) : State :=
  s.modTile t fun x => x.setThread h (f (x.thread h))

def Tile.acc (x : Tile) (j : Nat) : Acc := Table.get Acc.init x.accs j
def Tile.setAcc (x : Tile) (j : Nat) (a : Acc) : Tile := { x with accs := Table.set natRank Acc.init x.accs j a }
def Tile.entry (x : Tile) (e : Nat) : Entry := Table.get Entry.init x.entries e
def Tile.setEntry (x : Tile) (e : Nat) (y : Entry) : Tile :=
  { x with entries := Table.set natRank Entry.init x.entries e y }

def State.ctx (s : State) (c : Nat) : Ctx := Table.get Ctx.init s.ctxs c
def State.setCtx (s : State) (c : Nat) (x : Ctx) : State := s.putCtxs (Table.set natRank Ctx.init s.ctxs c x)
def State.modCtx (s : State) (c : Nat) (f : Ctx → Ctx) : State := s.setCtx c (f (s.ctx c))

def State.group (s : State) (g : Nat) : Group := Table.get Group.init s.groups g
def State.setGroup (s : State) (g : Nat) (x : Group) : State :=
  s.putGroups (Table.set natRank Group.init s.groups g x)
def State.modGroup (s : State) (g : Nat) (f : Group → Group) : State := s.setGroup g (f (s.group g))
def Group.chunk (x : Group) (c : Nat) : Chunk := Table.get Chunk.init x.chunks c
def Group.setChunk (x : Group) (c : Nat) (y : Chunk) : Group :=
  { x with chunks := Table.set natRank Chunk.init x.chunks c y }

def State.eht (s : State) (e : Nat) : Eht := Table.get Eht.init s.ehts e
def State.setEht (s : State) (e : Nat) (x : Eht) : State := s.putEhts (Table.set natRank Eht.init s.ehts e x)

def State.pool (s : State) (k : Nat) : Pool := Table.get Pool.init s.pools k
def State.setPool (s : State) (k : Nat) (x : Pool) : State :=
  s.putPools (Table.set natRank Pool.init s.pools k x)

def State.queue (s : State) (q : Nat) : List QEntry := Table.get [] s.queues q
def State.setQueue (s : State) (q : Nat) (l : List QEntry) : State :=
  s.putQueues (Table.set natRank [] s.queues q l)

def State.inbox (s : State) (a : Nat) : List Item := Table.get [] s.inboxes a
def State.setInbox (s : State) (a : Nat) (l : List Item) : State :=
  s.putInboxes (Table.set natRank [] s.inboxes a l)

def State.mirror (s : State) (m : Nat) : Mirror := Table.get Mirror.init s.mirrors m
def State.setMirror (s : State) (m : Nat) (x : Mirror) : State :=
  s.putMirrors (Table.set natRank Mirror.init s.mirrors m x)

/-! ### Outputs and open values -/

/-- The module sends, drives or returns `o`. -/
def State.emit (s : State) (o : Out) : State := s.putOut (s.out ++ [o])

/-- `n` random bytes and the state after drawing them (log entry 16). -/
def State.draw (s : State) (n : Nat) : List Byte × State :=
  let b := Config.random s.freeCtr n
  ((b ++ List.replicate n 0).take n, (s.putFreeCtr (s.freeCtr + 1)))

/-! ### Crossings of clock domains (spec/15_power_clocks_security.md R419, R420) -/

/-- The crossing is STUCK or QUIESCED: transfers toward it complete with an error. -/
def State.crossed (s : State) (i : Nat) : Bool := s.fld (CDC_STATE i) CDC_STATE_STATE != 0

/-- One transfer completed with an error; LOST saturates. -/
def State.lost (s : State) (i : Nat) : State :=
  s.setFld (CDC_STATE i) CDC_STATE_LOST (min (s.fld (CDC_STATE i) CDC_STATE_LOST + 1) 0xFFFFFFFF)

/-- `f` done when `b`. -/
def State.also (s : State) (b : Bool) (f : State → State) : State := if b then f s else s

/-! ### Facts that several chapters ask -/

/-- The main side has power: the converters are on, no failure has stopped the boot and neither the core nor the management
clock has been lost (spec/17_electrical_mechanical.md R454; spec/15_power_clocks_security.md R413, R421). -/
def State.fed (s : State) : Bool := s.power.mainOn && !s.power.pinHeld

/-- The main side runs: every domain of the start table has had its turn, and the management firmware and the tile microcode
have been verified, which is what releases the management cores and the tiles (spec/15_power_clocks_security.md R412, R423).
Every command but those of the supply, the boot, the pins, the management target and the Water Book acts only then
(log entry 1). -/
def State.on (s : State) : Bool := s.fed && decide (49 < s.power.nextDomain) && !s.power.m2.isEmpty

/-- An effect of a running module; without power and before its boot is over nothing happens (log entry 1). -/
def State.powered (s : State) (f : State → State) : State := if s.on then f s else s

/-- An effect of the boot or of the supply's supervisor: it needs power alone. -/
def State.booting (s : State) (f : State → State) : State := if s.fed then f s else s

/-- In the safe state (spec/14_faults_and_recovery.md R375). -/
def State.safe (s : State) : Bool := s.bit SPW_STAT SPW_STAT_SAFE

/-- The grade's tile count (spec/00_scope.md Table 0-1). -/
def Grade.tiles : Grade → Nat
  | .zf256 => 256
  | .zf224 => 224

/-- SWITCH_ID of this module. -/
def State.switchId (s : State) : Nat := s.fld ROUTE_SWITCH_ID ROUTE_SWITCH_ID_SWITCH_ID

/-- The lane-map record of port `p`, if a link starts there (spec/01_architecture.md R14). -/
def State.laneRec (s : State) (p : Nat) : Option LaneRec := s.laneMap.find? fun r => r.port == p

/-- Link states of PORT_LINK_STAT.STATE (spec/12_lanes_and_links.md R328). -/
def linkDown : Nat := 0
def linkTraining : Nat := 1
def linkHello : Nat := 2
def linkUp : Nat := 3
def linkQuarantined : Nat := 4
def linkDegraded : Nat := 5

end Sys2Proof.Machine
end

