-- ==== Sys2Proof/Machine/Cells.lean ====
section
/-! DEFINITION. Sys2Proof/Machine/Cells.lean: header and payload fields of cells, the header check, and the image of a cell
(spec/02_cells_and_routes.md R24-R32, Tables 2-1 to 2-3, 2-9). -/

namespace Sys2Proof

/-- The header of a cell as a number. -/
def Cell.h (c : Cell) : Nat := c.hdr.toNat

end Sys2Proof

namespace Sys2Proof.Machine

/-! ### Header fields -/

def hType (h : Nat) : Nat := bitsOf h 124 4
def hTc (h : Nat) : Nat := bitsOf h 121 3
def hPh (h : Nat) : Nat := bitsOf h 120 1
def hPath (h n : Nat) : Nat := bitsOf h (80 + 10 * n) 10
def hHp (h : Nat) : Nat := bitsOf h 78 2
def hCe (h : Nat) : Bool := bitOf h 77
def hEce (h : Nat) : Bool := bitOf h 76
def hCtx (h : Nat) : Nat := bitsOf h 64 12
def hGen (h : Nat) : Nat := bitsOf h 60 4
def hSrc (h : Nat) : Nat := bitsOf h 43 17
def hTag (h : Nat) : Nat := bitsOf h 31 12
def hSeq (h : Nat) : Nat := bitsOf h 19 12
def hLen (h : Nat) : Nat := bitsOf h 12 7
def hCirc (h : Nat) : Nat := bitsOf h 100 20
def hTree (h : Nat) : Nat := bitsOf h 104 16
def hDepth (h : Nat) : Nat := bitsOf h 100 4

/-- The 34-bit SEQ of circuit and multicast cells (R31). -/
def hSeq34 (h : Nat) : Nat := bitsOf h 78 22 * 4096 + bitsOf h 19 12

/-- Position in the chunk and chunk index of a collective cell (R32). -/
def hPos (h : Nat) : Nat := hSeq34 h % 128
def hChunk (h : Nat) : Nat := hSeq34 h / 128

/-- The virtual channel of a header: 2 × TC + PH (R51). -/
def hVc (h : Nat) : Nat := 2 * hTc h + hPh h

/-- The three header forms (Table 2-1). -/
inductive HForm where
  | routed | circuit | multicast | none
  deriving DecidableEq, Repr

def formOf (type : Nat) : HForm :=
  if [1, 4, 5, 6, 7, 11, 12, 14].contains type then .routed
  else if [2, 8, 9, 10].contains type then .circuit
  else if type = 3 then .multicast
  else .none

/-- The traffic classes of a cell type (Table 2-1). -/
def legalTc (type : Nat) : List Nat :=
  match type with
  | 1 => [0, 1, 4, 5, 6, 7]
  | 2 => [2, 4]
  | 3 => [1, 2, 4, 6, 7]
  | 4 | 5 | 6 | 7 => [5]
  | 8 => [2]
  | 9 | 10 => [3]
  | 11 | 12 => [1]
  | 13 => [0]
  | 14 => [4]
  | _ => []

def legalType (h : Nat) : Bool := (legalTc (hType h)).contains (hTc h)

/-- Whether HCRC of a header is right (R25). -/
def hcrcOk (h : Nat) : Bool := bitsOf h 0 8 == hcrc h

/-- The header with its HCRC computed anew (R26). -/
def sealHdr (h : Nat) : Hdr := BitVec.ofNat 128 (putBits h 0 8 (hcrc h))

/-- A routed header (Table 2-2) with HP = 0 and PH = 0; PATH as one 40-bit number. -/
def routedHdr (type tc path ece ctx gen src tag seq len : Nat) : Hdr :=
  sealHdr (type % 16 * 2 ^ 124 + tc % 8 * 2 ^ 121 + path % 2 ^ 40 * 2 ^ 80 + ece % 2 * 2 ^ 76 + ctx % 4096 * 2 ^ 64 +
    gen % 16 * 2 ^ 60 + src % 2 ^ 17 * 2 ^ 43 + tag % 4096 * 2 ^ 31 + seq % 4096 * 2 ^ 19 + len % 128 * 2 ^ 12)

/-- A circuit header (Table 2-3) with PH = 0. -/
def circuitHdr (type tc circ seq34 ctx gen src tag len : Nat) : Hdr :=
  sealHdr (type % 16 * 2 ^ 124 + tc % 8 * 2 ^ 121 + circ % 2 ^ 20 * 2 ^ 100 + seq34 / 4096 % 2 ^ 22 * 2 ^ 78 +
    ctx % 4096 * 2 ^ 64 + gen % 16 * 2 ^ 60 + src % 2 ^ 17 * 2 ^ 43 + tag % 4096 * 2 ^ 31 + seq34 % 4096 * 2 ^ 19 +
    len % 128 * 2 ^ 12)

/-- An idle cell; FENCE in bit 123 (R29). -/
def idleCell (fence : Bool) : Cell := ⟨sealHdr (flag fence * 2 ^ 123), 0⟩

/-! ### Payload -/

/-- `n` payload bytes from byte `i` as a little-endian number. -/
def payNum (p : Payload) (i n : Nat) : Nat := bitsOf p.toNat (8 * i) (8 * n)

/-- Payload bytes. -/
def payBytes (p : Payload) : List Byte := toBytes 64 p.toNat

/-- A payload from bytes; missing bytes are zero. -/
def payOf (l : List Byte) : Payload := BitVec.ofNat 512 (ofBytes l)

/-- A payload with `n` bytes from byte `i` given the number `v`. -/
def paySet (p : Payload) (i n v : Nat) : Payload := BitVec.ofNat 512 (putBits p.toNat (8 * i) (8 * n) v)

/-- A payload made of (first byte, bytes, value) fields. -/
def payFields (l : List (Nat × Nat × Nat)) : Payload := l.foldl (fun p f => paySet p f.1 f.2.1 f.2.2) 0

end Sys2Proof.Machine

namespace Sys2Proof

open Machine

/-- The 80-byte image of a cell in memory: header little-endian, then payload (R24). -/
def Cell.image (c : Cell) : List Byte := toBytes 16 c.h ++ payBytes c.pay

/-- The cell of an 80-byte image. -/
def Cell.ofImage (l : List Byte) : Cell :=
  ⟨BitVec.ofNat 128 (ofBytes (l.take 16)), payOf ((l.drop 16).take 64)⟩

/-- The 640 bits of a cell as a link sends them: header byte 15 down to byte 0, then the payload ascending; the first
byte is the most significant of the number (R24). -/
def Cell.wire (c : Cell) : Nat := ofBytesBE (toBytesBE 16 c.h ++ payBytes c.pay)

/-- The cell of 640 wire bits. -/
def Cell.ofWire (w : Nat) : Cell :=
  let l := toBytesBE 80 w
  ⟨BitVec.ofNat 128 (ofBytesBE (l.take 16)), payOf (l.drop 16)⟩

end Sys2Proof
end

