-- ==== Sys2Proof/Machine/Events.lean ====
section
/-! DEFINITION. Sys2Proof/Machine/Events.lean: ZCT messages the module sends, the event stream, and the Spillway: raising an
event, the first-error latch, the safe state and the start of a reset (spec/13_host_port_and_control.md R347, R365;
spec/14_faults_and_recovery.md R371-R381, R386, R388, R393, R400). -/

namespace Sys2Proof.Machine

/-! ### Messages to the host -/

def State.session (s : State) (k : Nat) : Option Session := Table.look s.sessions k
def State.putSession (s : State) (k : Nat) (x : Session) : State :=
  s.putSessions (Table.put natRank s.sessions k x)

/-- The 32-byte header of Table 13-1. -/
def zctHeader (type session length seq reqId status : Nat) : List Byte :=
  toBytes 2 0x5A43 ++ toBytes 1 1 ++ toBytes 1 type ++ toBytes 2 session ++ toBytes 2 length ++ toBytes 8 seq ++
    toBytes 8 reqId ++ toBytes 1 status ++ List.replicate 7 0

/-- The MAC of a message: HMAC-SHA-512 over header and body (R347). -/
def zctMac (key : List Byte) (type session : Nat) (body : List Byte) (seq reqId status : Nat) : List Byte :=
  hmacSha512 key (zctHeader type session body.length seq reqId status ++ body)

/-- A ZCT frame handed to the host MAC: nothing leaves while the host link is down, and over a STUCK crossing the transfer is
lost and counted (spec/15_power_clocks_security.md R419). -/
def State.frame (s : State) (o : Out) : State :=
  if !s.hostLink then s else if s.crossed 4 then s.lost 4 else s.emit o

/-- The next authenticated message of session `k` as `x` holds it. -/
def State.sendAs (s : State) (k : Nat) (x : Session) (type reqId status : Nat) (body : List Byte) : State :=
  s.frame (.zct x.addr type k (x.txSeq + 1) (BitVec.ofNat 64 reqId) (BitVec.ofNat 8 status) body
    (zctMac x.m2h type k body (x.txSeq + 1) reqId status))

/-- An authenticated message of session `k`, numbered from SEQ 1 (R350). -/
def State.sendZct (s : State) (k type reqId status : Nat) (body : List Byte) : State :=
  match s.session k with
  | none => s
  | some x =>
    if s.hostLink then (s.putSession k { x with txSeq := x.txSeq + 1 }).sendAs k x type reqId status body else s

/-- A message outside any session, with a MAC of zeros (R347). -/
def State.sendPlain (s : State) (dst : HostAddr) (type session reqId status : Nat) (body : List Byte) : State :=
  s.frame (.zct dst type session 0 (BitVec.ofNat 64 reqId) (BitVec.ofNat 8 status) body (List.replicate 64 0))

/-- KEY_MASK of a context; context 0 holds every key with PRIV (R354). -/
def State.keyMask (s : State) (c : Nat) : Nat :=
  if c = 0 then
    (List.range 16).foldl (fun m k =>
      if s.bit (HP_KEY_FLAGS k) HP_KEY_FLAGS_PRIV && s.bit (HP_KEY_FLAGS k) HP_KEY_FLAGS_VALID then m + 2 ^ k else m) 0
  else s.fld (CTX_STATE c) CTX_STATE_KEY_MASK

/-- Whether a session receives the events of a context, or of no context (R365). -/
def State.entitled (s : State) (x : Session) : Option Nat → Bool
  | none => x.priv
  | some c => bitOf (s.keyMask c) x.key

/-- The bytes of an event record (Table 13-9). -/
def Post.bytes (e : Post) (seq lost : Nat) : List Byte :=
  toBytes 8 seq ++ toBytes 8 e.cycle ++ toBytes 1 e.cls ++ toBytes 1 e.kind ++ toBytes 2 (e.ctx.getD 0xFFFF) ++
    toBytes 4 e.source ++ toBytes 4 e.code ++ toBytes 2 (min lost 0xFFFF) ++ toBytes 2 e.data.length ++ e.data

/-- The record queued for session `k` and sent; a full queue of 4,096 discards it and counts it (R365). -/
def State.queueEvent (s : State) (k : Nat) (x : Session) (e : Post) : State :=
  if x.events.length < 4096 then
    let seq := x.evtSeq + 1
    let b := e.bytes seq x.lost
    (s.putSession k { x with evtSeq := seq, lost := 0, events := x.events ++ [⟨seq, b⟩] }).sendZct k 10 0 0 b
  else (s.putSession k { x with lost := x.lost + 1 }).count HP_EVT_LOST

/-- An event record posted to every entitled session (R365). -/
def State.post (s : State) (e : Post) : State :=
  s.sessions.foldl (fun a (k, x) => if x.opened && s.entitled x e.ctx then a.queueEvent k x e else a) s

/-- An event that is no fault: CLASS 0xFF (Table 13-9). -/
def State.postPlain (s : State) (kind : Nat) (ctx : Option Nat) (source code : Nat) (data : List Byte) : State :=
  s.post ⟨0xFF, kind, ctx, source, code, s.cycle, data⟩

/-- DATA of an event that is no fault: its items in the order of Table 13-10, eight bytes each (log entry 23). -/
def eventData (l : List Nat) : List Byte := l.flatMap (toBytes 8)

/-- SOURCE: block type in [31:24], instance in [23:0]. -/
def sourceOf (blk inst : Nat) : Nat := blk * 2 ^ 24 + inst

/-! ### Pins -/

/-- FAULT_L and TRAY_REQ_L as their registers and the held pulse give them (spec/14 R380, R381; spec/15 R413, R421). -/
def State.pins (s : State) : State :=
  let f := s.bit FAULT_PIN FAULT_PIN_PULSE || s.bit FAULT_PIN FAULT_PIN_DRIVE || s.power.pinHeld
  let t := s.bit SPW_TRAY_REQ SPW_TRAY_REQ_ASSERTED
  if f == s.power.faultLow && t == s.power.trayLow then s
  else (s.putPower ({ s.power with faultLow := f, trayLow := t })).emit (.pins f t)

/-- TRAY_REQ_L asserted; it cannot be withdrawn (R381). -/
def State.assertTray (s : State) : State :=
  ((s.setFld SPW_TRAY_REQ SPW_TRAY_REQ_ASSERTED 1).setFld SPW_TRAY_REQ SPW_TRAY_REQ_REQUEST 1).pins

/-! ### Tiles and clusters -/

/-- The active tile count in force (spec/00_scope.md R2). -/
def State.active (s : State) : Nat := s.fld SPW_STAT SPW_STAT_ACTIVE

/-- The physical tile of a logical tile, if one is bound (spec/01_architecture.md R11). -/
def State.physTile (s : State) (t : Nat) : Option Nat :=
  if t < s.active then some (Table.get t s.tileMap t) else none

def State.bound (s : State) (t : Nat) : Bool := decide (t < s.active)

/-- The cluster of a logical tile: 8 physical tiles each. -/
def State.clusterOf (s : State) (t : Nat) : Nat := (s.physTile t).getD 0 / 8

/-- Whether a reset's scope holds logical tile `t`. -/
def State.opHasTile (s : State) (o : ResetOp) (t : Nat) : Bool :=
  (o.unit == 1 && o.index == t) || (o.unit == 3 && s.bound t && o.index == s.clusterOf t) || o.unit == 5 || o.unit == 6

/-- Whether a reset's scope holds fabric port `p`. -/
def ResetOp.hasPort (o : ResetOp) (p : Nat) : Bool :=
  (o.unit == 2 && o.index == p) || (o.unit == 4 && o.index == p / 8) || o.unit == 6

/-- Whether the scope of reset `a` contains the scope of reset `b` (R393). -/
def State.opHolds (s : State) (a b : ResetOp) : Bool :=
  a.unit == 6 ||
  (match b.unit with
    | 1 => (a.unit == 1 && a.index == b.index && a.engine == b.engine) || (a.unit == 3 && a.index == s.clusterOf b.index)
        || a.unit == 5
    | 2 => a.hasPort b.index
    | 3 => (a.unit == 3 && a.index == b.index) || a.unit == 5
    | 4 => a.unit == 4 && a.index == b.index
    | 5 => a.unit == 5
    | _ => false)

/-- A capture that a reset waits for runs, or waits for its turn (R386). -/
def State.capturing (s : State) : Bool := (s.capture.toList ++ s.capQ).any fun c => c.op.isSome

/-- Issue of a tile is stopped by the safe state or by a reset whose scope holds it (R375, R386). -/
def State.issueStopped (s : State) (t : Nat) : Bool :=
  s.safe || (match s.reset? with | some o => s.opHasTile o t | none => false)

/-- The egress block of the safe state: it ends when a device compute reset starts its work, after its capture, unless the
module waits for a power cycle (R375, R379, R395). -/
def State.egressBlocked (s : State) : Bool :=
  s.safe && (s.bit SPW_STAT SPW_STAT_FATAL || !(s.reset?.any (fun o => o.unit == 5) && !s.capturing))

/-! ### Resets -/

/-- The capture that waits longest starts when none is in progress. -/
def State.nextCapture (s : State) : State :=
  match s.capture, s.capQ with
  | none, c :: l => (s.putCapQ l).putCapture (some { c with since := s.cycle })
  | _, _ => s

/-- A capture starts; one in progress is completed first, or reaches CAP_TMO (R386). -/
def State.openCapture (s : State) (c : Capture) : State := (s.putCapQ (s.capQ ++ [c])).nextCapture

/-- A capture that is given up leaves CAP zero in the record it would have filled. -/
def State.leaveCapture (s : State) (c : Capture) : State := match c.post with | some e => s.post e | none => s

/-- The captures of abandoned resets are given up; those of hangs and of the whole module go on (R381, R386). -/
def State.dropCaptures (s : State) : State :=
  let s := ((s.capture.toList ++ s.capQ).filter fun c => c.op.isSome).foldl State.leaveCapture s
  ((s.putCapture (s.capture.filter fun c => c.op.isNone)).putCapQ (s.capQ.filter fun c => c.op.isNone)).nextCapture

/-- Reset `o` starts: RESET_BUSY, and the capture that precedes it with the record it fills (R386, R393). -/
def State.startReset (s : State) (o : ResetOp) (e : Option Post) : State :=
  let s := (s.setFld SPW_STAT SPW_STAT_RESET_BUSY 1).setFld SPW_STAT SPW_STAT_RESET_UNIT o.unit
  (s.putReset (some o)).openCapture ⟨some o, e, s.cycle, [], o.unit == 6, o.unit⟩

/-- An automatic reset: next after one that runs, else started (R393). Its record waits for its capture. -/
def State.autoReset (s : State) (o : ResetOp) (e : Post) : State :=
  match s.reset? with
  | some _ => s.putResetQ (s.resetQ ++ [(o, some e)])
  | none => s.startReset o (some e)

/-- The reset that runs is over. -/
def State.clearBusy (s : State) : State :=
  let s := (s.setFld SPW_STAT SPW_STAT_RESET_BUSY 0).setFld SPW_STAT SPW_STAT_RESET_UNIT 0
  (s.putReset none).putSelfRefresh false

/-- The next reset that waits starts (R393). -/
def State.nextReset (s : State) : State :=
  match s.reset?, s.resetQ with
  | none, o :: l => (s.putResetQ l).startReset o.1 o.2
  | _, _ => s

/-- Of the resets that wait those that `keep` selects; the records of the others are posted without a capture. -/
def State.keepResets (s : State) (keep : ResetOp → Bool) : State :=
  ((s.resetQ.filter fun x => !keep x.1).foldl (fun s x => match x.2 with | some e => s.post e | none => s) s).putResetQ
    (s.resetQ.filter fun x => keep x.1)

/-! ### Raising an event -/

/-- What a rule raises (spec/14_faults_and_recovery.md R371, R372, Tables 14-2 and 14-2a). -/
structure Ev where
  cls : Nat
  src : Nat
  code : Nat
  hw : Bool := false
  ctx : Option Nat := none
  detail : Nat := 0
  extra : Nat := 0
  advisory : Bool := false
  hang : Bool := false
  escalated : Bool := false
  candidate : Bool := false
  noReset : Bool := false
  members : Nat := 0
  nodes : List Word := []
  more : List Byte := []
  deriving DecidableEq, Repr

/-- CODE of an event of category 4 (R372). -/
def evCode (cause : Nat) (qual : Nat := 0) : Nat := 4 * 2 ^ 24 + (qual % 256) * 2 ^ 16 + cause

/-- The source's counter entry at SPW_COUNT_BASE (R373). -/
def countAddr (s : State) (src : Nat) : Nat :=
  (s.rd SPW_COUNT_BASE).toNat + 32 * (1024 * (src / 2 ^ 24) + src % 2 ^ 24)

/-- The source has an entry in the table: 1,024 instances of each block type (log entry 2). -/
def counted (src : Nat) : Bool := decide (src / 2 ^ 24 < 20) && decide (src % 2 ^ 24 < 1024)

/-- The source counts the event, saturating, with the cycle of the latest (R373). -/
def State.countEvent (s : State) (e : Ev) : State :=
  let a := countAddr s e.src
  let n := s.load (a + 4 * e.cls) 4
  (s.count SPW_EVENTS).also (counted e.src) fun s =>
    (s.store (a + 4 * e.cls) 4 (min (n + 1) 0xFFFFFFFF)).store (a + 24) 8 s.cycle

/-- Whether the first-error latch takes event `e` (R374). -/
def State.latches (s : State) (e : Ev) : Bool :=
  let valid := s.bit SPW_FERR_SRC SPW_FERR_SRC_VALID
  let same := (s.rd SPW_FERR_CYCLE).toNat == s.cycle
  let c := s.fld SPW_FERR_SRC SPW_FERR_SRC_CLASS
  let l := s.fld SPW_FERR_SRC SPW_FERR_SRC_SOURCE
  decide (1 ≤ e.cls) && (!valid || (same && (decide (c < e.cls) || (c == e.cls && decide (e.src < l)))))

/-- The first-error latch after event `e` (R374). -/
def State.latch (s : State) (e : Ev) : State :=
  let valid := s.bit SPW_FERR_SRC SPW_FERR_SRC_VALID
  let ovf := valid || s.bit SPW_FERR_SRC SPW_FERR_SRC_OVF
  if s.latches e then
    let w := 2 ^ 63 + flag ovf * 2 ^ 62 + e.cls * 2 ^ 56 + flag e.hw * 2 ^ 55 + flag e.ctx.isSome * 2 ^ 44 +
      (e.ctx.getD 0) * 2 ^ 32 + e.src
    ((s.wr SPW_FERR_SRC (BitVec.ofNat 64 w)).wr SPW_FERR_CODE (BitVec.ofNat 64 e.code)).wr SPW_FERR_CYCLE
      (BitVec.ofNat 64 s.cycle)
  else if decide (1 ≤ e.cls) && valid then s.setFld SPW_FERR_SRC SPW_FERR_SRC_OVF 1
  else s

/-- Entry into the safe state with its FAULT_L pulse (R375, R380). -/
def State.enterSafe (s : State) : State :=
  if s.safe then s else ((s.setFld SPW_STAT SPW_STAT_SAFE 1).setFld FAULT_PIN FAULT_PIN_PULSE 1).pins

/-- ESC_WINDOW in core cycles; limits treat 0 as 1 (R406). -/
def State.escWindow (s : State) : Nat := max 1 (s.fld SPW_LIMITS SPW_LIMITS_ESC_WINDOW) * 1700000

/-- The unit reset that the class of event `e` asks for: (UNIT, INDEX) (Table 14-1). -/
def State.classReset (s : State) (e : Ev) : Option (Nat × Nat) :=
  let inst := e.src % 2 ^ 24
  if e.noReset || e.hang then none
  else if e.cls = 3 && e.hw && s.bit SPW_AUTO SPW_AUTO_AUTO_PART then
    (match e.src / 2 ^ 24 with
      | 3 => some (4, inst)
      | 2 => some (4, inst / 8)
      | 1 => some (3, s.clusterOf inst)
      | 15 => if 0x40 ≤ inst && inst < 0x140 then some (4, (inst - 0x40) % 128) else none
      | _ => none)
  else if e.cls = 4 && !e.advisory && s.bit SPW_AUTO SPW_AUTO_AUTO_DEV then some (5, 0)
  else none

/-- The fault record of Table 14-2, with CAP zero. -/
def faultRecord (e : Ev) (first safe : Bool) (reset rindex : Nat) : List Byte :=
  let flags := flag e.hw + 2 * flag first + 4 * flag e.advisory + 8 * flag e.hang + 16 * flag safe +
    32 * flag e.escalated + 64 * flag e.candidate
  toBytes 1 flags ++ toBytes 1 reset ++ toBytes 2 e.members ++ toBytes 4 rindex ++ toBytes 8 e.detail ++ toBytes 8 0 ++
    toBytes 8 e.extra ++ e.more

/-- What every event does at once: its source counts it, the latch takes it, the in-band interrupt of a class D or F latch,
ADVISORY, the safe state, and the host port off the line when the port itself failed (R371, R373-R377;
spec/17_electrical_mechanical.md R458). -/
def State.raiseStart (s : State) (e : Ev) (first forces : Bool) : State :=
  (((((s.countEvent e).latch e).also (first && decide (4 ≤ e.cls)) fun s =>
    s.also s.power.i3cEnec fun s => s.emit (.ibi false)).also e.advisory fun s =>
    s.setFld SPW_STAT SPW_STAT_ADVISORY 1).also forces State.enterSafe).also
    (decide (4 ≤ e.cls) && !e.advisory && e.src / 2 ^ 24 == 16) fun s => s.putHostLink false

/-- The reset that event `e` starts: the one the raising rule gives, else the one its class asks for (Table 14-1). -/
def State.raiseOp (s : State) (e : Ev) (due : Option ResetOp) : Option ResetOp :=
  match due with
  | some o => some o
  | none => (s.classReset e).map fun u =>
      { unit := u.1, index := u.2, engine := 0, scrub := false, replace := false, cls := e.cls, source := e.src,
        cause := e.code }

/-- The record of event `e`, naming the reset it starts. -/
def State.raisePost (s : State) (e : Ev) (first forces : Bool) (o : Option ResetOp) : Post :=
  ⟨e.cls, 1, e.ctx, e.src, e.code, s.cycle,
    faultRecord e first forces (o.elim 0 ResetOp.unit) (o.elim 0 ResetOp.index)⟩

/-- What a class F event does: FATAL, every reset dropped, the capture before the tray request (R379, R381, R385, R393). -/
def State.fatal (s : State) (r : Post) : State :=
  ((s.dropCaptures.keepResets fun _ => false).clearBusy.setFld SPW_STAT SPW_STAT_FATAL 1).openCapture
    ⟨none, some r, s.cycle, [], true, 0⟩

/-- A class D event abandons a tile, port or partition reset; of those that wait, the device compute part covers all but
the ones of ports and octets (R393). -/
def State.abandonResets (s : State) : State :=
  (s.also (s.reset?.any fun r => decide (r.unit < 5)) fun s => s.dropCaptures.clearBusy).keepResets fun o =>
    o.unit == 2 || o.unit == 4

/-- The record of event `e` as it is posted, and what the module does about its class (R371, R374, R375, R377, R381, R385).
A reset that is already due for the event (`due`) is given by the raising rule. A class D event that finds the module in the
safe state is counted, latched and posted, and changes nothing else (R375). -/
def State.raiseWith (s : State) (e : Ev) (due : Option ResetOp) : State :=
  let first := s.latches e
  let forces := decide (4 ≤ e.cls) && !e.advisory && !e.hang && !s.safe
  let s := s.raiseStart e first forces
  if e.cls = 5 then s.fatal (s.raisePost e first forces none)
  else
    let s := s.also forces State.abandonResets
    match if e.cls = 4 && !forces then none else s.raiseOp e due with
    | some o =>
      if s.reset?.any fun r => s.opHolds r o then s.post (s.raisePost e first forces none)
      else s.autoReset o (s.raisePost e first forces (some o))
    | none =>
      if e.hang && s.bit SPW_AUTO SPW_AUTO_CAP_HANG then
        s.openCapture ⟨none, some (s.raisePost e first forces none), s.cycle, e.nodes, false, 0⟩
      else (s.post (s.raisePost e first forces none)).also forces State.nextReset

/-- Wear of physical tile `p`: whether a further hardware class E event makes it a candidate (R400). -/
def State.wearsOut (s : State) (p : Nat) : Bool :=
  let near := (Table.get [] s.wear p).filter fun c => decide (s.cycle < c + s.escWindow)
  decide (max 1 (s.fld SPW_LIMITS SPW_LIMITS_E_LIMIT) ≤ near.length + 1)

/-- The event is entered in its tile's list of hardware class E events. -/
def State.wearAdd (s : State) (p : Nat) : State :=
  (s.putWear (Table.set natRank [] s.wear p ((Table.get [] s.wear p ++ [s.cycle]).filter fun c =>
      decide (s.cycle < c + s.escWindow))))

/-- The physical tile under logical tile `t`, if one is bound, becomes a spare candidate; the module posts a class E event
with CANDIDATE (R400). -/
def State.candidate (s : State) (t : Nat) (due : Option ResetOp) : State :=
  match s.physTile t with
  | none => s
  | some p =>
    let s := if s.candidates.contains p then s else s.putCandidates (s.candidates ++ [p])
    s.raiseWith { cls := 2, src := sourceOf 1 t, code := evCode 0x0025, hw := false, detail := p, candidate := true } due

/-- The reset that an escalation starts against the next unit (R394). -/
def State.escalation (s : State) (o : ResetOp) : Option (Nat × Nat × Nat × Nat) :=
  match o.unit with
  | 1 => some (3, 3, s.clusterOf o.index, sourceOf 14 (s.clusterOf o.index))
  | 2 => some (3, 4, o.index / 8, sourceOf 3 (o.index / 8))
  | 3 => some (4, 5, 0, sourceOf 13 0)
  | 4 => some (3, 0, o.index, sourceOf 3 o.index)
  | 5 => some (5, 0, 0, sourceOf 13 0)
  | _ => none

/-- An octet entered as failed (R394). -/
def State.octetDead (s : State) (o : Nat) : State :=
  s.putPower { s.power with octetsDead := (s.power.octetsDead.filter (· != o)) ++ [o] }

/-- Whether SPW_AUTO lets the module start a reset of `unit` for the class of an event by itself (Table 14-1, R379). -/
def State.autoUnit (s : State) (unit : Nat) : Bool :=
  if unit = 5 then s.bit SPW_AUTO SPW_AUTO_AUTO_DEV else s.bit SPW_AUTO SPW_AUTO_AUTO_PART

/-- The escalation event of a failed or repeated reset, with the reset of its class (R394, Tables 14-1 and 14-2a
RESET_FAILED). -/
def State.escalate (s : State) (o : ResetOp) : State :=
  match s.escalation o with
  | none => s
  | some (cls, unit, index, src) =>
    let op := if unit = 0 || !s.autoUnit unit then none else
      some { unit := unit, index := index, engine := 0, scrub := false, replace := false, cls := cls, source := src,
             cause := evCode 0x0024 o.unit }
    let s := s.raiseWith { cls := cls, src := src, code := evCode 0x0024 o.unit, hw := true, detail := o.index,
                           escalated := true, noReset := true } op
    if o.unit = 3 then ((List.range s.active).filter fun t => s.clusterOf t == o.index).foldl (fun s t => s.candidate t none) s
    else if o.unit = 4 then
      s.octetDead o.index
    else s

/-- The completed reset, if any, after which event `e` of its source escalates (R394). An advisory asks for a replacement and
escalates nothing (R378). -/
def State.repeatOf (s : State) (e : Ev) : Option ResetOp :=
  ((s.resetsDone.filter fun d => decide (s.cycle < d.2 + s.escWindow)).find? fun d =>
    e.hw && !e.advisory && d.1.source == e.src && d.1.cls ≤ e.cls).map Prod.fst

/-- The reset of the engine that wore a tile out (R400); which one it was is a free value where the event names none. -/
def State.engineOp (s : State) (e : Ev) (engine : Option Nat) : Option ResetOp :=
  if s.bit SPW_AUTO SPW_AUTO_AUTO_ENG then
    some { unit := 1, index := e.src % 2 ^ 24, engine := engine.getD (Config.wornEngine e.src e.code s.cycle % 3),
           scrub := false, replace := false, cls := 2, source := e.src, cause := e.code }
  else none

/-- What a hardware class E event of a tile adds to the wear of the physical tile under it (R400). -/
def State.wearBy (s : State) (e : Ev) (engine : Option Nat) : State :=
  let t := e.src % 2 ^ 24
  match s.physTile t with
  | none => s
  | some p => (s.wearAdd p).also (s.wearsOut p) fun s => s.candidate t (s.engineOp e engine)

/-- One event of the Spillway with everything its class asks for (R371-R381, R394, R400). `engine` is the tile engine
that a hardware class E event names, for the reset of R400. An event that repeats within ESC_WINDOW after a reset escalates
in place of starting that reset again. -/
def State.raise (s : State) (e : Ev) (engine : Option Nat := none) : State :=
  let again := s.repeatOf e
  let e := { e with noReset := e.noReset || again.isSome }
  let s' := (s.raiseWith e none).also (decide (e.cls = 2) && e.hw && e.src / 2 ^ 24 == 1) fun s => s.wearBy e engine
  match again with
  | some o => s'.escalate o
  | none => s'

/-- An event of category 4 that has no further detail (Table 14-2a). -/
def State.notice (s : State) (cls cause src : Nat) (detail : Nat := 0) (qual : Nat := 0) (ctx : Option Nat := none) :
    State :=
  s.raise { cls := cls, src := src, code := evCode cause qual, detail := detail, ctx := ctx }

end Sys2Proof.Machine
end

