-- ==== Sys2Proof/Machine/Reservoir.lean ====
section
/-! DEFINITION. Sys2Proof/Machine/Reservoir.lean: slots, queues, admission and credit return, mirroring and the ZF5200
sampler (spec/03_reservoir.md). -/

namespace Sys2Proof.Machine

/-! ### Counting for the Water Book (spec/16_water_book.md R438) -/

/-- The running counts of a context and generation, in ascending order. -/
def addCount (l : List CountRec) (ctx gen cells us : Nat) : List CountRec :=
  match l with
  | [] => [⟨ctx, gen, cells, us⟩]
  | r :: t =>
    if r.ctx = ctx && r.gen = gen then { r with cells := (r.cells + cells) % 2 ^ 56, clusterUs := (r.clusterUs + us) % 2 ^ 56 } :: t
    else if ctx < r.ctx || (ctx = r.ctx && gen < r.gen) then ⟨ctx, gen, cells, us⟩ :: r :: t
    else r :: addCount t ctx gen cells us

/-- A cell of a context is admitted through a crossbar input. -/
def State.countCell (s : State) (ctx gen : Nat) : State :=
  s.putWb ({ s.wb with counts := addCount s.wb.counts ctx gen 1 0 })

/-! ### Crossbar numbers (spec/01_architecture.md R10, R12) -/

def hostOutput : Nat := 1024
def tileOutput (t : Nat) : Nat := 1025 + t
def memOutput (m : Nat) : Nat := 1281 + m
def mgmtOutput : Nat := 1297

def isFabric (o : Nat) : Bool := decide (o < 1024)

/-! ### Ports -/

def State.linkState (s : State) (p : Nat) : Nat := s.fld (PORT_LINK_STAT p) PORT_LINK_STAT_STATE

/-- UP or DEGRADED. -/
def State.live (s : State) (p : Nat) : Bool := s.linkState p == linkUp || s.linkState p == linkDegraded

/-- ROLE of a port: 0 UNUSED, 1 ENDPOINT, 2 GLOBAL, 3 DIAGNOSTIC (Table 2-11). -/
def State.role (s : State) (p : Nat) : Nat := s.fld (PORT_ROLE p) PORT_ROLE_ROLE

/-! ### Queues and tags -/

/-- The output queue of output `o` and channel `v` (R67). -/
def qIndex (o v : Nat) : Nat := 16 * o + v

def State.q (s : State) (o v : Nat) : List QEntry := s.queue (qIndex o v)

/-- PRIO of a channel queue; internal outputs hold it as at reset (spec/04_sluice_scheduling.md R96). -/
def State.prio (s : State) (o v : Nat) : Bool :=
  if isFabric o then s.bit (PORT_VC_SCHED o v) PORT_VC_SCHED_PRIO else schedPrioReset v == 1

/-- INC of a channel queue: 65,536 over its weight; 0 acts as 1, internal outputs have 16 (R94, R96). -/
def State.inc (s : State) (o v : Nat) : BitVec 32 :=
  BitVec.ofNat 32 (65536 / (if isFabric o then max 1 (s.fld (PORT_VC_SCHED o v) PORT_VC_SCHED_WEIGHT) else 16))

/-- `a` precedes `b` modulo 2^32 (R94). -/
def tagBefore (a b : BitVec 32) : Bool :=
  let d := (b - a).toNat
  decide (1 ≤ d) && decide (d < 2 ^ 31)

/-- The later of two tags. -/
def tagMax (a b : BitVec 32) : BitVec 32 := if tagBefore a b then b else a

/-- The tag of a queue to which a first cell is linked (R94). -/
def State.tagOnLink (s : State) (o v : Nat) : State :=
  if s.prio o v then s
  else
    let i := s.inc o v
    s.modPort o fun x =>
      let c := x.vc v
      x.setVc v { c with tag := tagMax x.vtime c.tagLast + i, wasElig := false }

/-- The copies of a cell that arrives now, each with the role of its output as it is at the arrival (R62 of
spec/02_cells_and_routes.md). -/
def State.stamp (s : State) (copies : List Copy) : List Copy :=
  copies.map fun k => { k with last := isFabric k.out && s.role k.out == 1 }

/-- A queue with `e` linked: at the tail, but before what a higher-numbered input linked in the same core cycle
(spec/01_architecture.md R12). -/
def linkInto (e : QEntry) : List QEntry → List QEntry
  | [] => [e]
  | x :: r => if x.linked.1 = e.linked.1 && e.linked.2 < x.linked.2 then e :: x :: r else x :: linkInto e r

/-- A copy linked onto its output queue (R67, R68, R80). The head that a tile's port already offers to its Weir stays the
head. -/
def State.linkCopy (s : State) (input slot : Nat) (desc : Bool) (c : Copy) : State :=
  let q := s.q c.out c.vc
  let s := if q.isEmpty then s.tagOnLink c.out c.vc else s
  let e : QEntry := ⟨slot, c.hdr, desc, s.cycle, c.last, (s.cycle, input)⟩
  let shown := !isFabric c.out && (s.tile (c.out - 1025)).offer.any fun f => f.vc == c.vc
  s.setQueue (qIndex c.out c.vc) (if shown then q.take 1 ++ linkInto e (q.drop 1) else linkInto e q)

/-! ### Slots -/

/-- Copy descriptors in use (R68). -/
def State.descUsed (s : State) : Nat := s.queues.foldl (fun n e => n + e.2.countP QEntry.desc) 0

/-- Slots charged to the reservation of an input and channel. -/
def State.charged (s : State) (input v : Nat) : Nat :=
  s.slots.countP fun e => e.2.input == input && e.2.vc == v &&
    (e.2.charge == .reserved || e.2.charge == .carried || e.2.charge == .internal)

/-- Cells of an input and channel that are held at ingress or wait for the dispatcher, their credit withheld (R68, R75;
spec/10_expert_and_headwater.md R270). -/
def State.heldUp (s : State) (input v : Nat) : Nat :=
  s.heldCells.countP (fun h => h.input == input && h.vc == v) + s.expWait.countP fun e => e.1 == input && hVc e.2.h == v

/-- What the reservation of an input and channel holds: slots and cells that wait (R73, R89). -/
def State.reservedUsed (s : State) (input v : Nat) : Nat := s.charged input v + s.heldUp input v

/-- SHARED_USED of a port (Table 3-5). -/
def State.sharedUsed (s : State) (input : Nat) : Nat :=
  s.slots.countP fun e => e.2.input == input && e.2.charge == .shared

/-- Slots of a port above its minimum reservation, over all channels. -/
def State.drawnBy (s : State) (p : Nat) : Nat := (s.port p).vcs.foldl (fun n e => n + e.2.drawn) 0

/-- RESERVED of RSV_STATE: internal reservations, minima of the ports in the lane map, grants above them (R71, R90). -/
def State.reservedSlots (s : State) : Nat :=
  280576 + s.laneMap.foldl (fun n r => n + 128 + s.drawnBy r.port) 0

/-- FREE of RSV_STATE (R90). -/
def State.freeShared (s : State) : Nat :=
  Config.slots - s.reservedSlots - s.slots.countP (fun e => e.2.charge == .shared || e.2.charge == .mirror) -
    s.retiredSlots.countP fun n => !Table.has s.slots n

/-- What is left of the grant pool (R71, R72). -/
def State.grantPool (s : State) : Nat :=
  Config.slots - 280576 - 128 * s.laneMap.length - s.floor - s.laneMap.foldl (fun n r => n + s.drawnBy r.port) 0

/-- The lowest free slot (log entry 14). -/
def State.freeSlot (s : State) : Nat :=
  let used := s.slots.map Prod.fst ++ s.retiredSlots
  (lowest (used.length + 1) fun n => !used.contains n).getD used.length

/-! ### Credits (spec/02_cells_and_routes.md R52, R53) -/

/-- CRED of a channel raised by one. -/
def State.raiseCred (s : State) (p v : Nat) : State :=
  s.modVc p v fun c => { c with cred := (c.cred + 1) % 65536 }

/-- A port whose reservations are those of a link up: UP, DEGRADED or QUARANTINED. -/
def State.granted (s : State) (p : Nat) : Bool := s.live p || s.linkState p == linkQuarantined

/-- The slots that a channel of a port without a link holds above its minimum: those still in use (R73). -/
def State.returnGrant (s : State) (p v : Nat) : State :=
  s.modVc p v fun c => { c with drawn := min c.drawn (s.reservedUsed p v - 8) }

/-- The credit that a cell of port `p` held comes back: CRED rises, but the first of the cells carried over in excess of the
grant return their slots, and so does the cell of a port without a link (R69, R73, R74). -/
def State.creditBack (s : State) (p v : Nat) : State :=
  if !s.granted p then s.returnGrant p v
  else if 0 < (s.vc p v).excess then s.modVc p v fun c => { c with excess := c.excess - 1, drawn := c.drawn - 1 }
  else s.raiseCred p v

/-- The credit of a cell discarded at ingress returns (R33, R78). -/
def State.returnCredit (s : State) (input v : Nat) : State := if isFabric input then s.creditBack input v else s

/-- Whether the sender holds credit for channel `v` (R53). -/
def Vc.hasCredit (c : Vc) : Bool :=
  let d := (c.peerCred + 65536 - c.sent % 65536) % 65536
  decide (1 ≤ d) && decide (d ≤ 32767)

/-! ### Admission (R68-R78) -/

/-- The depth limit of an output queue (R74). -/
def State.oqLimit (s : State) (o : Nat) : Nat :=
  if isFabric o then s.fld (PORT_RSV_CFG o) PORT_RSV_CFG_OQ_LIMIT else s.fld RSV_INT_OQ RSV_INT_OQ_INT_OQ_LIMIT

/-- Whether the charge of a fabric cell moves to the shared region (R74). -/
def State.mayShare (s : State) (p : Nat) (copies : List Copy) : Bool :=
  decide (0 < s.freeShared) && decide (s.sharedUsed p < s.fld (PORT_RSV_CFG p) PORT_RSV_CFG_IN_LIMIT) &&
    copies.all fun c => decide ((s.q c.out c.vc).length < s.oqLimit c.out)

/-- Whether an item is a cell that the dispatcher writes: a copy, or a circuit cell of a return. Such a cell goes into the
shared region (spec/10_expert_and_headwater.md R271). -/
def dispatched (input : Nat) : Item → Bool
  | .cell c => input == mgmtOutput && (hType c.h == 14 || (hType c.h == 2 && hTc c.h == 4))
  | .toTile .. => true
  | _ => false

/-- The cell written into a slot and linked onto every output, with its charge decided (R68, R74, R75). -/
def State.place (s : State) (input v : Nat) (item : Item) (ctx : Nat) (copies : List Copy) : State :=
  let n := s.freeSlot
  let share := isFabric input && s.mayShare input copies
  let charge : Charge :=
    if dispatched input item then .shared else if !isFabric input then .internal else if share then .shared else .reserved
  let s := s.putSlots (Table.put natRank s.slots n ⟨item, input, v, charge, copies.length, ctx⟩)
  let s := (copies.zipIdx).foldl (fun a (c, i) => a.linkCopy input n (decide (0 < i)) c) s
  if !isFabric input then s.raiseCred input v
  else if share then s.creditBack input v
  else s.count (PORT_CREDIT_HELD input)

/-- Descriptors are short for a cell of these copies (R68). -/
def State.descShort (s : State) (copies : List Copy) : Bool :=
  decide (Config.descriptors < s.descUsed + (copies.length - 1))

/-- Whether Turnout must hold the cell: descriptors are short, or an earlier cell of its input and channel is held (R68,
spec/01_architecture.md R12). -/
def State.mustHold (s : State) (input v : Nat) (copies : List Copy) : Bool :=
  s.heldCells.any (fun h => h.input == input && h.vc == v) || s.descShort copies

/-- An item placed on its outputs, or held at ingress; only a wait for descriptors is counted (R68). -/
def State.enter (s : State) (input v : Nat) (item : Item) (ctx : Nat) (copies : List Copy) : State :=
  if s.mustHold input v copies then
    let first := !s.heldCells.any fun h => h.input == input && h.vc == v
    let s := s.putHeldCells (s.heldCells ++ [⟨input, v, item, ctx, copies, first⟩])
    if first then s.count RSV_DESC_WAIT else s
  else s.place input v item ctx copies

/-- A cell admitted with its copies; with no copy left it is discarded and its credit returns (R45, R68, R78). -/
def State.takeIn (s : State) (input v : Nat) (c : Cell) (copies : List Copy) : State :=
  if copies.isEmpty then s.returnCredit input v else s.enter input v (.cell c) (hCtx c.h) (s.stamp copies)

/-- Whether an internal input has a free slot on channel `v`; an item that Turnout holds will need one (R70). -/
def State.internalRoom (s : State) (input v : Nat) : Bool :=
  decide (s.charged input v + s.heldCells.countP (fun h => h.input == input && h.vc == v) < 64)

/-- Whether item `i` of an internal input has a slot: one of its reservation, or one of the shared region for a cell of the
dispatcher (R70; spec/10_expert_and_headwater.md R271). -/
def State.itemRoom (s : State) (input v : Nat) (i : Item) : Bool :=
  if dispatched input i then decide (s.heldCells.countP (fun h => dispatched h.input h.item) < s.freeShared)
  else s.internalRoom input v

/-- One copy of a slot has been read, discarded or unlinked (R69). -/
def State.copyDone (s : State) (slot : Nat) : State :=
  match Table.look s.slots slot with
  | some x => s.putSlots (Table.put natRank s.slots slot { x with copies := x.copies - 1 })
  | none => s

/-- The credit of a freed slot (R69, R73, R74). -/
def State.freeCredit (s : State) (x : Slot) : State :=
  if x.charge == .reserved || x.charge == .carried then s.creditBack x.input x.vc else s

/-- A slot whose last copy has been read is freed (R69). -/
def State.slotFree (s : State) (slot : Nat) : State :=
  match Table.look s.slots slot with
  | some x => if x.copies = 0 then (s.putSlots (Table.del s.slots slot)).freeCredit x else s
  | none => s

/-- The head of a queue unlinked; the next cell becomes the head in this cycle (R67, R80). -/
def State.popQueue (s : State) (o v : Nat) : State :=
  match s.q o v with
  | [] => s
  | _ :: [] => s.setQueue (qIndex o v) []
  | _ :: y :: r => s.setQueue (qIndex o v) ({ y with since := s.cycle } :: r)

/-- A queue without the copies of slot `n`: a new head stands there from cycle `now` (R80). -/
def unqueued (now n : Nat) : List QEntry → List QEntry
  | [] => []
  | x :: r =>
    let r' := r.filter fun q => q.slot != n
    if x.slot != n then x :: r'
    else
      match r' with
      | y :: t => { y with since := now } :: t
      | [] => []

/-- The copies of slot `n` unlinked from every output queue and mirror queue. -/
def State.unlinkSlot (s : State) (n : Nat) : State :=
  let s := (s.queues.filter fun e => e.2.any fun q => q.slot == n).foldl
    (fun s e => s.setQueue e.1 (unqueued s.cycle n e.2)) s
  (s.ports.filter fun e => e.2.mirrorQ.any fun q => q.1 == n).foldl
    (fun s e => s.modPort e.1 fun x => { x with mirrorQ := x.mirrorQ.filter fun q => q.1 != n }) s

/-- The item of a slot. -/
def State.slotItem (s : State) (n : Nat) : Option Item := (Table.look s.slots n).map Slot.item

/-! ### Mirroring (R82-R87) -/

/-- Whether a session copies this header at this point (R82). -/
def Mirror.wants (m : Mirror) (point port h : Nat) : Bool :=
  m.enable && bitOf m.point point && bitOf m.matchTc (hTc h) && bitOf m.matchType (hType h) &&
    (if m.flow then
      (hCtx h &&& m.maskCtx) == (m.matchCtx &&& m.maskCtx) && (hSrc h &&& m.maskSrc) == (m.matchSrc &&& m.maskSrc)
    else m.srcPort == port)

/-- The 16 bytes of a record that precede the cell (Table 3-4). -/
def mirrorHead (cycle inPort outPort session flags seq : Nat) : List Byte :=
  toBytes 8 cycle ++ toBytes 2 inPort ++ toBytes 2 outPort ++ toBytes 1 session ++ toBytes 1 flags ++ toBytes 2 seq

/-- The datagram in progress of a session sent to COLLECTOR (R87). With the host link down it is formed and lost (log entry
60). -/
def State.flushMirror (s : State) (k : Nat) : State :=
  let m := s.mirror k
  if m.records.isEmpty then s
  else
    let head := toBytes 2 s.switchId ++ toBytes 1 m.records.length ++ toBytes 1 1 ++ toBytes 4 m.dgramSeq ++
      List.replicate 8 0
    let s := s.also s.hostLink fun s => s.emit (.mirror m.collector (head ++ m.records.flatten))
    s.setMirror k { m with records := [], dgramSeq := m.dgramSeq + 1 }

/-- Mirror copies made in this core cycle (R84). -/
def State.mirrorsNow (s : State) : Nat := if s.mirrorMade.1 = s.cycle then s.mirrorMade.2 else 0

/-- Whether one more copy to `dest` may be made (R84, R85). The rules leave open, and the model chooses (log entry 68): the
host's mirror queue holds the copies of all host sessions that output 1,024 has not yet taken; a diagnostic port in TRAINING,
HELLO or QUARANTINED takes no copy, like one that is DOWN; a destination that loses ROLE DIAGNOSTIC keeps its copies. -/
def State.mayMirror (s : State) (dest : Nat) : Bool :=
  let lim := s.fld RSV_MIR_CFG RSV_MIR_CFG_MIR_SLOTS
  let up := if dest = 1024 then s.hostLink else s.live dest
  up && decide (s.slots.countP (fun e => e.2.charge == .mirror) < lim) && decide (4 * (s.port dest).mirrorQ.length < lim) &&
    decide (s.mirrorsNow < 32) && decide (0 < s.freeShared)

/-- The copy of one session made or skipped (R84-R87). REC_SEQ counts both, so that a gap shows the copies skipped. -/
def State.mirrorOne (s : State) (k : Nat) (inPort outPort flags : Nat) (c : Cell) : State :=
  let m := s.mirror k
  let seq := m.recSeq
  let s := s.setMirror k { m with recSeq := (m.recSeq + 1) % 65536 }
  if s.mayMirror m.dest then
    let n := s.freeSlot
    let s := (s.putSlots (Table.put natRank s.slots n ⟨.cell c, inPort, 0, .mirror, 1, hCtx c.h⟩)).putMirrorMade
      (s.cycle, s.mirrorsNow + 1)
    (s.count (MIR_COPIED k)).modPort m.dest fun x =>
      { x with mirrorQ := x.mirrorQ ++ [(n, k, mirrorHead s.cycle inPort outPort k flags seq)] }
  else s.count (MIR_SKIPPED k)

/-- The first copy of the host's mirror queue read from its slot into the datagram of its session (R87); over a STUCK crossing
to the host MAC it is discarded (spec/15_power_clocks_security.md R419). -/
def State.takeHostMirror (s : State) : State :=
  match (s.port hostOutput).mirrorQ with
  | [] => s
  | (n, k, head) :: r =>
    let cell := match s.slotItem n with
      | some (.cell c) => c.image
      | _ => List.replicate 80 0
    let s := (s.modPort hostOutput fun x => { x with mirrorQ := r }).copyDone n
    if s.crossed 1 then s.lost 1
    else
      let m := s.mirror k
      let s := s.setMirror k { m with records := m.records ++ [head ++ cell] }
      if 14 ≤ (s.mirror k).records.length then s.flushMirror k else s

/-- Every session's copy of a cell at a mirror point (R82, R85). -/
def State.mirrorCell (s : State) (point port inPort outPort flags : Nat) (c : Cell) : State :=
  (List.range 16).foldl (fun a k =>
    if (a.mirror k).wants point port c.h then a.mirrorOne k inPort outPort flags c else a) s

/-! ### The ZF5200 sampler (R88) -/

/-- Record `n` of the ring. -/
def sampleAddr (n : Nat) : Nat := 0x82500000 + 128 * (n % 4096)

/-- The 128-byte record of a sample. -/
def sampleRecord (port dir cycle n : Nat) (c : Cell) : List Byte :=
  toBytes 2 port ++ toBytes 1 dir ++ List.replicate 5 0 ++ toBytes 8 cycle ++ toBytes 4 n ++ List.replicate 28 0 ++ c.image

/-- A cell passes the sampler of its port at a point, `dir` 0 ingress or 1 egress: every SAMPLE_N-th is recorded in the ring,
or counted as lost when the ring is full. The two points count apart, and the ingress point lies after check 4 (log entry
68). -/
def State.sampleCell (s : State) (port dir : Nat) (c : Cell) : State :=
  let d := s.fld RSV_SAMPLE_CFG RSV_SAMPLE_CFG_DIR
  if s.bit RSV_SAMPLE_CFG RSV_SAMPLE_CFG_SAMPLE_EN && s.bit (PORT_RSV_CFG port) PORT_RSV_CFG_SAMPLE &&
      (d == dir || d == 2) then
    let raw := s.fld RSV_SAMPLE_CFG RSV_SAMPLE_CFG_SAMPLE_N
    let n := max 1 raw
    let x := s.port port
    let k := (if dir = 0 then x.sampleIn else x.sampleOut) + 1
    let x' := if dir = 0 then { x with sampleIn := k % n } else { x with sampleOut := k % n }
    let s := s.setPort port x'
    if k % n != 0 then s
    else if s.sampleRead + 4096 ≤ s.sampleNext then s.count RSV_SAMPLE_LOST
    else (s.setBytes (sampleAddr s.sampleNext) (sampleRecord port dir s.cycle raw c)).putSampleNext (s.sampleNext + 1)
  else s

/-- The management cores pass one record of the ring to the host as a SAMPLE event; without an open session the record stays
in the ring (log entry 18). -/
def State.passSample (s : State) : State :=
  if s.sampleRead < s.sampleNext && s.sessions.any fun e => e.2.opened then
    let r := s.bytes (sampleAddr s.sampleRead) 128
    (s.putSampleRead (s.sampleRead + 1)).postPlain 7 none (sourceOf 2 (ofBytes (r.take 2))) 0 r
  else s

/-! ### A port's link up and down (R72, R73, R79) -/

/-- The slots of a port's cells become carried over at the next link up (R73). -/
def State.carryOver (s : State) (p : Nat) : State :=
  s.putSlots (s.slots.map fun e =>
      if e.2.input = p && e.2.charge == .reserved then (e.1, { e.2 with charge := .carried }) else e)

/-- The wanted grant of channel `v` (R54, R72). -/
def State.wanted (s : State) (p v : Nat) : Nat :=
  max 8 (min (s.fld (PORT_VC_CREDIT p v) PORT_VC_CREDIT_RX_GRANT * s.fld (PORT_LINK_STAT p) PORT_LINK_STAT_WIDTH) 16384)

/-- The grant of one channel at link up, with the cells carried over (R72, R73). The flag tells a short grant. -/
def State.grantOne (s : State) (p v : Nat) : State × Bool :=
  let w := s.wanted p v
  let c := s.reservedUsed p v
  let old := (s.vc p v).drawn
  let fits := decide (w - 8 - min old (w - 8) ≤ s.grantPool)
  let g := if fits then w else 8
  (s.modVc p v fun x =>
    { x with granted := g, drawn := max (g - 8) (c - 8), cred := g - c, sent := 0,
             excess := c - g, tag := 0, tagLast := 0, wasElig := false }, !fits)

/-- Grants of all channels in ascending order, GRANT_SHORT and its event (R72). -/
def State.grantAll (s : State) (p : Nat) : State :=
  let s := s.carryOver p
  let (s, short) := (List.range 16).foldl (fun (a : State × Nat) v =>
    let (s', b) := a.1.grantOne p v
    (s', a.2 + flag b * 2 ^ v)) (s, 0)
  let s := s.setFld (PORT_RSV_STAT p) PORT_RSV_STAT_GRANT_SHORT (flag (short != 0))
  if short = 0 then s else s.notice 0 0x0005 (sourceOf 2 p) short

/-! ### Meanings -/

/-- SLOT_FREE (R69): the slot is freed and any credit held on it returns. -/
def execSlotFree (slot : BitVec 22) (s : State) : Host.Outcome State Fault Refusal :=
  ok s (s.powered fun s => s.slotFree slot.toNat)

/-- The first held item of each channel of an input, with what it waits for (R68). -/
def State.heldHeads (s : State) (input : Nat) : List HeldCell :=
  (List.range 16).filterMap fun v => s.heldCells.find? fun h => h.input == input && h.vc == v

/-- The first held item equal to `h` is marked: its wait is in RSV_DESC_WAIT. -/
def markHeld (h : HeldCell) : List HeldCell → List HeldCell
  | [] => []
  | x :: r => if x == h then { x with counted := true } :: r else x :: markHeld h r

/-- A held item linked onto all its outputs once enough descriptors are free; one that has come to the front of its channel
and finds them short is counted (R68). -/
def State.turnout (s : State) (h : HeldCell) : State :=
  if s.descShort h.copies then
    if h.counted then s
    else (s.putHeldCells (markHeld h s.heldCells)).count RSV_DESC_WAIT
  else (s.putHeldCells (s.heldCells.erase h)).place h.input h.vc h.item h.ctx h.copies

/-- TURNOUT_REPLICATE (R68): the first item that the input holds on each channel is linked onto all its outputs once enough
descriptors are free, the lowest channel first (log entry 14). -/
def execTurnoutReplicate (input : Fin 1298) (s : State) : Host.Outcome State Fault Refusal :=
  ok s (s.powered fun s => (s.heldHeads input.val).foldl State.turnout s)

/-- MIR_FLUSH (R87): the datagram in progress of a session is sent. -/
def execMirFlush (session : Fin 16) (s : State) : Host.Outcome State Fault Refusal :=
  ok s (s.powered fun s => s.flushMirror session.val)

end Sys2Proof.Machine
end

