-- ==== Sys2Proof/Machine/Routes.lean ====
section
/-! DEFINITION. Sys2Proof/Machine/Routes.lean: module-originated cells and the return table, congestion echoes, path-fail
notices, and the circuit and tree tables (spec/02_cells_and_routes.md R36-R47, R56-R61). -/

namespace Sys2Proof.Machine

/-! ### Sending from inside the module -/

/-- An item put behind the others that an internal input has for the crossbar, with its channel. The first eight stand in
the input buffer, the rest wait in the stalled sender in the order in which it formed them (spec/01_architecture.md R10, log
entry 69). -/
def State.inject (s : State) (input v : Nat) (item : Item) : State :=
  s.putXin (Table.set natRank [] s.xin input (Table.get [] s.xin input ++ [(v, item)]))

/-- PATH of a return entry with the entries above LAST zeroed (R38). -/
def returnPath (e : Nat) : Nat := bitsOf e 0 (10 * (bitsOf e 40 2 + 1))

/-- The return table entry of an endpoint (R36). -/
def State.returnEntry (s : State) (ep : Nat) : Nat := s.entry ((s.rd ROUTE_RET_BASE).toNat + 8 * ep) 8

/-- A module-originated routed cell to endpoint `ep`, or its discard for want of a return entry (R38). The cell enters at
the management input unless the rule names another (log entry 19). -/
def State.originate (s : State) (ep type tc ctx gen tag seq len : Nat) (pay : Payload) (input : Nat := mgmtOutput) :
    State :=
  let e := s.returnEntry ep
  if bitOf e 63 then
    s.inject input (2 * tc)
      (.cell ⟨routedHdr type tc (returnPath e) (if type = 5 then 0 else 1) ctx gen ep tag seq len, pay⟩)
  else
    let s := s.count ROUTE_NO_RETURN
    let gap := 16 * s.fld ROUTE_NOTICE_CFG ROUTE_NOTICE_CFG_ECHO_GAP
    match Table.look s.noReturn ep with
    | some c =>
      if s.cycle < c + gap then s
      else (s.putNoReturn (Table.put natRank s.noReturn ep s.cycle)).notice 0 0x0002 (sourceOf 4 0) ep
    | none => (s.putNoReturn (Table.put natRank s.noReturn ep s.cycle)).notice 0 0x0002 (sourceOf 4 0) ep

/-! ### Congestion echoes (R57, R58) -/

/-- The timer of the echo filter that a pair uses (R58). -/
def echoTimer (key : Nat × Nat) : Nat := Config.echoHash key.1 key.2 % 8192

/-- The echo of a notice, covering `n` cells (R58). -/
def State.sendEcho (s : State) (src tc : Nat) (x : Notice) (n : Nat) : State :=
  let h := x.hdr.toNat
  s.originate src 11 1 (hCtx h) (hGen h) 0 0 32
    (payFields [(0, 2, s.switchId), (2, 2, x.port), (4, 4, x.destEp), (8, 1, tc), (9, 1, x.origin),
      (10, 2, min n 65535), (12, 2, x.answerer), (16, 16, h)])

/-- A cell with CE = 1 and ECE = 0 met at its last hop: an echo at once, or one more cell on the pending echo of its pair
while the pair's timer runs, for whichever pair it runs (R57, R58). -/
def State.echo (s : State) (h port destEp : Nat) (pay : Payload) : State :=
  let key := (hSrc h, hTc h)
  let isRsp := hType h == 5
  let x : Notice :=
    { Notice.init with
      running := true, count := 1, hdr := BitVec.ofNat 128 h, port := port, destEp := destEp, origin := flag isRsp,
      answerer := if isRsp then payNum pay 0 2 % 4096 else 0 }
  if s.echoGaps.contains (echoTimer key) then
    s.putEchoes (Table.put pairRank s.echoes key (match Table.look s.echoes key with
      | some y => { y with count := y.count + 1 }
      | none => x))
  else (s.putEchoGaps (echoTimer key :: s.echoGaps)).sendEcho key.1 key.2 x 1

/-! ### Path-fail notices (R60, R61) -/

/-- The notice covering `n` cells (R60). -/
def State.sendFail (s : State) (src : Nat) (x : Notice) (n : Nat) : State :=
  let h := x.hdr.toNat
  s.originate src 12 1 (hCtx h) (hGen h) 0 0 32
    (payFields [(0, 2, s.switchId), (2, 2, x.port), (4, 1, x.reason), (5, 1, x.hp), (6, 2, min n 65535), (16, 16, h)])

/-- A routed cell that fails for `port`: a notice at once or folded into the pending one; none for TYPE 5, 11 and 12
(R60, R61). -/
def State.pathFail (s : State) (h port reason : Nat) : State :=
  if [1, 4, 6, 7, 14].contains (hType h) then
    let key := (hSrc h, port)
    let x : Notice :=
      { Notice.init with
        running := true, hdr := BitVec.ofNat 128 h, port := port, reason := reason, hp := hHp h }
    match Table.look s.fails key with
    | some y =>
      let y' := if y.count = 0 then { x with count := 1 } else { y with count := y.count + 1 }
      (s.putFails (Table.put pairRank s.fails key y'))
    | none => (s.putFails (Table.put pairRank s.fails key x)).sendFail key.1 x 1
  else s

/-- FAIL_GAP_EXPIRY (R60): the pending notice is sent and a new gap starts; with none pending the gap is over. -/
def execFailGapExpiry (src : BitVec 17) (port : BitVec 10) (s : State) : Host.Outcome State Fault Refusal :=
  ok s (s.powered fun s =>
    let key := (src.toNat, port.toNat)
    match Table.look s.fails key with
    | some y =>
      if y.count = 0 then s.putFails (Table.del s.fails key)
      else (s.putFails (Table.put pairRank s.fails key { y with count := 0 })).sendFail key.1 y y.count
    | none => s)

/-- ECHO_GAP_EXPIRY (R57, R58): the gap of the pair's timer ends. The pending echoes of all pairs that share it are sent, in
the order of their keys, and a new gap starts; with none pending the timer stops. -/
def execEchoGapExpiry (src : BitVec 17) (tc : Fin 8) (s : State) : Host.Outcome State Fault Refusal :=
  ok s (s.powered fun s =>
    let t := echoTimer (src.toNat, tc.val)
    if s.echoGaps.contains t then
      let due := s.echoes.filter fun e => echoTimer e.1 == t
      if due.isEmpty then s.putEchoGaps (s.echoGaps.erase t)
      else due.foldl (fun s e => s.sendEcho e.1.1 e.1.2 e.2 e.2.count)
        (s.putEchoes (s.echoes.filter fun e => echoTimer e.1 != t))
    else s)

/-! ### The circuit table (R39-R43) -/

/-- A circuit table entry (Table 2-7). -/
structure Circuit where
  valid : Bool
  state : Nat
  kind : Nat
  outPh : Bool
  tc : Nat
  inLocal : Bool
  inPort : Nat
  outPort : Nat
  outCirc : Nat
  ctx : Nat
  gen : Nat
  standby : Nat
  group : Nat
  deriving DecidableEq, Repr

def circAddr (s : State) (label : Nat) : Nat := (s.rd ROUTE_CIRC_BASE).toNat + 16 * label

def Circuit.ofNat (e : Nat) : Circuit :=
  { valid := bitOf e 127, state := bitsOf e 125 2, kind := bitsOf e 122 3, outPh := bitOf e 121, tc := bitsOf e 118 3,
    inLocal := bitOf e 117, inPort := bitsOf e 107 10, outPort := bitsOf e 97 10, outCirc := bitsOf e 77 20,
    ctx := bitsOf e 65 12, gen := bitsOf e 61 4, standby := bitsOf e 41 20, group := bitsOf e 29 12 }

def Circuit.toNat (c : Circuit) : Nat :=
  flag c.valid * 2 ^ 127 + c.state % 4 * 2 ^ 125 + c.kind % 8 * 2 ^ 122 + flag c.outPh * 2 ^ 121 +
    c.tc % 8 * 2 ^ 118 + flag c.inLocal * 2 ^ 117 + c.inPort % 1024 * 2 ^ 107 + c.outPort % 1024 * 2 ^ 97 +
    c.outCirc % 2 ^ 20 * 2 ^ 77 + c.ctx % 4096 * 2 ^ 65 + c.gen % 16 * 2 ^ 61 + c.standby % 2 ^ 20 * 2 ^ 41 +
    c.group % 4096 * 2 ^ 29

def State.circuit (s : State) (label : Nat) : Circuit := Circuit.ofNat (s.entry (circAddr s label) 16)
def State.setCircuit (s : State) (label : Nat) (c : Circuit) : State := s.store (circAddr s label) 16 c.toNat

/-- The labels whose entries hold anything: unlisted entries are zero, hence not VALID. -/
def State.circuitLabels (s : State) : List Nat :=
  let base := (s.rd ROUTE_CIRC_BASE).toNat
  ((s.mem.filter fun e => decide (base ≤ e.1) && decide (e.1 < base + 16 * 2 ^ 20)).map
    fun e => (e.1 - base) / 16).eraseDups

/-- Whether an entry admits a cell from crossbar input `input` (R41). -/
def admitsFrom (inLocal : Bool) (inPort input : Nat) : Bool :=
  if isFabric input then !inLocal && inPort == input else inLocal

/-- Whether the entry forwards a cell with header `h` from `input` (R41). -/
def Circuit.forwards (c : Circuit) (h input : Nat) : Bool :=
  c.valid && c.state == 0 && admitsFrom c.inLocal c.inPort input && c.tc == hTc h && c.ctx == hCtx h && c.gen == hGen h

/-! ### The tree table (R44-R47) -/

/-- A tree table entry (Table 2-8). -/
structure Tree where
  ports : Nat
  tiles : Nat
  valid : Bool
  host : Bool
  outPh : Bool
  inLocal : Bool
  outLabel : Nat
  inPort : Nat
  ctx : Nat
  gen : Nat
  deriving DecidableEq, Repr

def treeAddr (s : State) (tree : Nat) : Nat := (s.rd ROUTE_TREE_BASE).toNat + 256 * tree

def Tree.ofNat (e : Nat) : Tree :=
  let w := bitsOf e 1280 64
  { ports := bitsOf e 0 1024, tiles := bitsOf e 1024 256, valid := bitOf w 63, host := bitOf w 62, outPh := bitOf w 61,
    inLocal := bitOf w 60, outLabel := bitsOf w 36 20, inPort := bitsOf w 26 10, ctx := bitsOf w 14 12,
    gen := bitsOf w 10 4 }

def Tree.toNat (t : Tree) : Nat :=
  t.ports % 2 ^ 1024 + t.tiles % 2 ^ 256 * 2 ^ 1024 +
    (flag t.valid * 2 ^ 63 + flag t.host * 2 ^ 62 + flag t.outPh * 2 ^ 61 + flag t.inLocal * 2 ^ 60 +
      t.outLabel % 2 ^ 20 * 2 ^ 36 + t.inPort % 1024 * 2 ^ 26 + t.ctx % 4096 * 2 ^ 14 + t.gen % 16 * 2 ^ 10) * 2 ^ 1280

def State.tree (s : State) (n : Nat) : Tree := Tree.ofNat (s.entry (treeAddr s n) 256)
def State.setTree (s : State) (n : Nat) (t : Tree) : State := s.store (treeAddr s n) 256 t.toNat

def State.treeNumbers (s : State) : List Nat :=
  let base := (s.rd ROUTE_TREE_BASE).toNat
  ((s.mem.filter fun e => decide (base ≤ e.1) && decide (e.1 < base + 256 * 65536)).map
    fun e => (e.1 - base) / 256).eraseDups

/-- The set bits below `n` of a mask. -/
def bitsSet (n mask : Nat) : List Nat := if mask = 0 then [] else (List.range n).filter (bitOf mask)

end Sys2Proof.Machine
end

