-- ==== Sys2Proof/Machine/MemOps.lean ====
section
/-! DEFINITION. Sys2Proof/Machine/MemOps.lean: who owns an address, protection windows, error-poisoned memory, and the
regions that belong to a Weir or a combine stage (spec/11_memory_and_pools.md R293-R306). -/

namespace Sys2Proof.Machine

/-! ### The address map (Table 11-1) -/

/-- The agent that owns an address (spec/01_architecture.md R17). -/
inductive Agent where
  | tile (t : Nat)
  | mport (m : Nat)
  | mgmt
  | none
  deriving DecidableEq, Repr

def tileBytes : Nat := 8 * 2 ^ 20
def canalBase : Nat := 0x80000000
def canalEnd : Nat := 0xB0000000
/-- The first byte of the general pool area. -/
def generalBase : Nat := 0x8E400000
def windowBase : Nat := 0xC0000000
def jorouBase : Nat := 0x100000000
def controlBase : Nat := 0x101000000
def controlEnd : Nat := 0x108000000
def lpddrEnd : Nat := 0x10000000000

/-- The package and memory port of an LPDDR5X offset (Table 11-3). -/
def packageOf (off : Nat) : Nat := bitsOf off 8 4 ^^^ bitsOf off 12 4

/-- The agent of an address; unmapped addresses and unbound tiles have none (R11, R293, R294). -/
def State.agentOf (s : State) (a : Nat) : Agent :=
  if a < 2 ^ 31 then (if s.bound (a / tileBytes) then .tile (a / tileBytes) else .none)
  else if a < canalEnd then .mgmt
  else if windowBase ≤ a && a < windowBase + 2 ^ 28 then .mgmt
  else if jorouBase ≤ a && a < jorouBase + 2 ^ 20 then .mgmt
  else if controlBase ≤ a && a < controlEnd then .mgmt
  else if lpddrBase ≤ a && a < lpddrEnd then .mport (packageOf (a - lpddrBase))
  else .none

/-- Tile SRAM of a bound tile, the general pool area or LPDDR5X, one region for the whole range. -/
def State.dataRange (s : State) (a n : Nat) : Bool :=
  (decide (a + n ≤ 2 ^ 31) && s.bound (a / tileBytes) && (n == 0 || s.bound ((a + n - 1) / tileBytes))) ||
    (decide (generalBase ≤ a) && decide (a + n ≤ canalEnd)) || (decide (lpddrBase ≤ a) && decide (a + n ≤ lpddrEnd))

/-- The entries of a table that memory lists any byte of. -/
def State.listed (s : State) (base size stride : Nat) : List Nat :=
  ((s.mem.filter fun e => decide (base ≤ e.1) && decide (e.1 < base + size)).map fun e => (e.1 - base) / stride).eraseDups

/-! ### Regions of the Weir and of the combine stages -/

/-- The Weir region of a logical tile as byte offsets (first, one past the last), from TILE_WEIR_CFG; a range of its tile
SRAM, so it ends where that ends (spec/08_weir_reduction.md R212). -/
def State.weirRegion (s : State) (t : Nat) : Nat × Nat :=
  let b := s.fld (TILE_WEIR_CFG t) TILE_WEIR_CFG_BASE * 65536
  (b, min tileBytes (b + s.fld (TILE_WEIR_CFG t) TILE_WEIR_CFG_SIZE * 65536))

def ehtAddr (s : State) (h : Nat) : Nat := (s.rd EXP_BASE).toNat + 256 * h

/-- A field of an EHT header: byte, bytes (spec/10_expert_and_headwater.md Table 10-3). -/
def State.ehtNum (s : State) (h byte n : Nat) : Nat := s.load (ehtAddr s h + byte) n

def State.ehtValid (s : State) (h : Nat) : Bool := bitOf (s.ehtNum h 3 1) 0 && !s.poisoned (ehtAddr s h) 256

/-- The combine tile index of logical tile `t` in EHT `h`. -/
def State.combineTile (s : State) (h t : Nat) : Option Nat :=
  if s.ehtValid h then lowest (s.ehtNum h 10 1) fun i => s.ehtNum h (40 + i) 1 == t else none

/-- Bytes of a combine region: CENTS entries of CSLOT bytes. -/
def State.combineBytes (s : State) (h : Nat) : Nat := s.ehtNum h 28 2 * s.ehtNum h 32 4

/-- Whether tile offsets `off` to `off + n - 1` meet the Weir region of tile `t`; a region of SIZE 0 meets none. -/
def State.inWeir (s : State) (t off n : Nat) : Bool :=
  let r := s.weirRegion t
  decide (max off r.1 < min (off + n) r.2)

/-- Whether they meet a combine region of tile `t`. -/
def State.inCombine (s : State) (t off n : Nat) : Bool :=
  (List.range 16).any fun h =>
    (s.combineTile h t).isSome && decide (off < s.ehtNum h 36 4 + s.combineBytes h) &&
      decide (s.ehtNum h 36 4 < off + n) && decide (0 < n) && decide (0 < s.combineBytes h)

/-- Bytes of a Weir or combine region that no outside agent writes (R305). -/
def State.inEngineRegion (s : State) (a n : Nat) : Bool :=
  decide (a < 2 ^ 31) && (s.inWeir (a / tileBytes) (a % tileBytes) n || s.inCombine (a / tileBytes) (a % tileBytes) n)

/-- Bytes of the metadata of a pool (R305, R307). -/
def State.inMetadata (s : State) (a n : Nat) : Bool :=
  s.pools.any fun e => e.2.state != 0 && !e.2.ring && decide (a < e.2.metaBase + 32 * e.2.total) &&
    decide (e.2.metaBase < a + n)

/-! ### Protection windows (R303, R304) -/

/-- A window of Table 11-4 as read from its 32 bytes. -/
structure Window where
  base : Nat
  size : Nat
  ctx : Nat
  gen : Nat
  valid : Bool
  rd : Bool
  wr : Bool
  at_ : Bool
  deriving DecidableEq, Repr

def Window.ofNat (e : Nat) : Window :=
  { base := bitsOf e 0 48, size := bitsOf e 64 64, ctx := bitsOf e 128 12, gen := bitsOf e 144 4, valid := bitOf e 148,
    rd := bitOf e 149, wr := bitOf e 150, at_ := bitOf e 151 }

def protAddr (s : State) (i : Nat) : Nat := (s.rd MEM_PROT_BASE).toNat + 32 * i
def State.window (s : State) (i : Nat) : Window :=
  Window.ofNat (s.entry (protAddr s i) 32)

/-- The windows of the table that are in use. -/
def State.windows (s : State) : List Window :=
  ((s.listed (s.rd MEM_PROT_BASE).toNat (4096 * 32) 32).map s.window).filter Window.valid

/-- The rights a request asks for. -/
inductive Right where
  | rd | wr | at_ | any
  deriving DecidableEq, Repr

def Window.grants (w : Window) : Right → Bool
  | .rd => w.rd
  | .wr => w.wr
  | .at_ => w.at_
  | .any => true

/-- Whether some window of the context and generation covers `n` bytes from `a` and grants the right (R304). -/
def State.allowed (s : State) (ctx gen a n : Nat) (r : Right) : Bool :=
  s.windows.any fun w => w.ctx == ctx && w.gen == gen && w.grants r && decide (w.base ≤ a) && decide (a + n ≤ w.base + w.size)

/-- Whether windows that cover every byte from `p` up to `e` follow one another. -/
def coverFrom (ws : List Window) (e : Nat) : Nat → Nat → Bool
  | 0, p => decide (e ≤ p)
  | k + 1, p =>
    let q := ws.foldl (fun m w => if w.base ≤ p then max m (w.base + w.size) else m) p
    decide (e ≤ p) || (q != p && coverFrom ws e k q)

/-- Whether the windows of the context and generation that grant a right cover `n` bytes from `a` together (R304). -/
def State.covers (s : State) (ctx gen a n : Nat) (r : Right) : Bool :=
  let ws := s.windows.filter fun w => w.ctx == ctx && w.gen == gen && w.grants r
  coverFrom ws (a + n) ws.length a

/-- GEN of a context. -/
def State.genOf (s : State) (c : Nat) : Nat := s.fld (CTX_STATE c) CTX_STATE_GEN

/-- STATE of a context: 0 FREE, 1 OPEN, 2 CLOSING; context 0 exists from boot (spec/13 R354). -/
def State.ctxState (s : State) (c : Nat) : Nat := if c = 0 then 1 else s.fld (CTX_STATE c) CTX_STATE_STATE

/-- Whether a context is open. -/
def State.ctxOpen (s : State) (c : Nat) : Bool := s.ctxState c == 1

/-- The data regions: tile SRAM, canal memory, the Reservoir diagnostic window and LPDDR5X (spec/01_architecture.md). -/
def State.anyData (s : State) (a n : Nat) : Bool :=
  s.dataRange a n || (decide (canalBase ≤ a) && decide (a + n ≤ canalEnd)) ||
    (decide (windowBase ≤ a) && decide (a + n ≤ windowBase + 2 ^ 28))

/-- Bytes that a command's image lies in, read with the authority of a context: within its windows, or in any data region for
context 0 (spec/13_host_port_and_control.md R357); no agent reads a pool's metadata (R305). -/
def State.mayRead (s : State) (c a n : Nat) : Bool :=
  !s.inMetadata a n &&
    (if c = 0 then s.anyData a n else s.dataRange a n && s.covers c (s.genOf c) a n .rd)

end Sys2Proof.Machine
end

