-- ==== Sys2Proof/Machine/Pools.lean ====
section
/-! DEFINITION. Sys2Proof/Machine/Pools.lean: the buffer pool manager (spec/11_memory_and_pools.md R307-R318). -/

namespace Sys2Proof.Machine

/-! ### Buffers, owners, handles -/

def Pool.bytes (x : Pool) : Nat := 4096 * 2 ^ x.size

def State.buf (s : State) (a : Nat) : Buf := Table.get Buf.init s.bufs a
def State.setBuf (s : State) (a : Nat) (b : Buf) : State := s.putBufs (Table.set natRank Buf.init s.bufs a b)

def State.owner (s : State) (o : Nat) : Option Owner := Table.look s.owners o
def State.setOwner (s : State) (o : Nat) (x : Owner) : State := s.putOwners (Table.put natRank s.owners o x)

/-- Whether `a` is the address of a buffer of the pool. -/
def Pool.holds (x : Pool) (a : Nat) : Bool :=
  x.state != 0 && decide (x.base ≤ a) && decide (a < x.base + x.total * x.bytes) && (a - x.base) % x.bytes == 0

/-- Buffers of the pool that are allocated. -/
def State.allocated (s : State) (p : Nat) : Nat :=
  s.bufs.countP fun e => (s.pool p).holds e.1 && e.2.alloc.isSome

/-- FREE of a pool (R309). -/
def State.poolFree (s : State) (p : Nat) : Nat := (s.pool p).count - s.allocated p

/-- SHORT of a pool: the sum of max(0, MIN - USED) over its owners (R309). -/
def State.poolShort (s : State) (p : Nat) : Nat :=
  s.owners.foldl (fun n e => if e.2.pool = p then n + (e.2.min - e.2.used) else n) 0

/-- Sum of the minima of a pool's owners. -/
def State.poolMinima (s : State) (p : Nat) : Nat :=
  s.owners.foldl (fun n e => if e.2.pool = p then n + e.2.min else n) 0

/-- Handle of a buffer (R307). -/
def handleOf (ticket a : Nat) : Word := BitVec.ofNat 64 (ticket * 2 ^ 56 + bitsOf a 12 36 * 2 ^ 12)

def handleAddr (h : Word) : Nat := bitsOf h.toNat 12 36 * 2 ^ 12
def handleTicket (h : Word) : Nat := bitsOf h.toNat 56 8

/-- Whether a handle is a current one of the pool. -/
def State.handleOk (s : State) (p : Nat) (h : Word) : Bool :=
  let a := handleAddr h
  (s.pool p).state == 1 && (s.pool p).holds a && (s.buf a).ticket == handleTicket h && (s.buf a).alloc.isSome

/-- The context an owner acts for: context owners, group owners and source owners carry it in KEY [31:20]
(log entry 20). -/
def Owner.ctx (x : Owner) : Option Nat := if x.kind = 0 then none else some (x.key / 2 ^ 20)

/-- KEY of an owner entry: the context in [31:20], the rest of the key below it (log entry 20). -/
def ownerKey (ctx rest : Nat) : Nat := ctx * 2 ^ 20 + rest

/-- A free owner entry. -/
def State.freeOwner (s : State) : Option Nat :=
  let n := (lowest (s.owners.length + 1) fun i => !Table.has s.owners i).getD 0
  if n < 4096 then some n else none

/-! ### Free stores (R313, R314) -/

/-- The refill of a ring pool's cache from its ring when it is below 16 handles. -/
def Pool.refill (x : Pool) : Pool :=
  if x.cache.length < 16 then
    let old := (List.range (min 32 x.fresh)).map fun i => x.base + (x.total - x.fresh + i) * x.bytes
    let more := x.ringList.take (32 - old.length)
    { x with cache := x.cache ++ old ++ more, fresh := x.fresh - old.length, ringList := x.ringList.drop more.length }
  else x

/-- The spill of a ring pool's cache when it is above 48 handles. -/
def Pool.spill (x : Pool) : Pool :=
  if 48 < x.cache.length then
    { x with cache := x.cache.take (x.cache.length - 32), ringList := x.ringList ++ x.cache.drop (x.cache.length - 32) }
  else x

/-- The handles in the ring of a ring pool, first to be taken first: those it was created with, then those spilled. -/
def Pool.ringHandles (x : Pool) : List Nat :=
  (List.range x.fresh).map (fun i => x.base + (x.total - x.fresh + i) * x.bytes) ++ x.ringList

/-- The rings of pools 0 to 3 in canal memory, one after another from offset 0x0258_0000: first byte and length
(Table 11-2; log entry 72). -/
def ringArea : List (Nat × Nat × Nat) :=
  [(0, 0x82580000, 0x8000), (1, 0x82588000, 0x20000), (2, 0x825A8000, 0x1000), (3, 0x825A9000, 0x2000)]

/-- A byte of the rings in canal memory: entry `i` of a ring holds its handle number `i`, the entries behind them hold 0
(log entry 72); none elsewhere. -/
def State.ringByte (s : State) (a : Nat) : Option Byte :=
  (ringArea.find? fun e => decide (e.2.1 ≤ a) && decide (a < e.2.1 + e.2.2)).map fun e =>
    let b := (s.pool e.1).ringHandles[(a - e.2.1) / 8]?
    BitVec.ofNat 8 (bitsOf (b.elim 0 fun x => (handleOf (s.buf x).ticket x).toNat) (8 * (a % 8)) 8)

/-- Pools 0 to 3 and the firmware's owner entries, as the firmware creates them at boot; each cache takes its first 32
handles from the ring (R314, Table 11-5). -/
def State.bootPools (s : State) : State :=
  (s.putPools (privilegedPools.map fun e => (e.1, e.2.refill))).putOwners firmwareOwners

/-- What a read-ahead of a general pool finds in a free buffer: its NEXT, or a disagreement (R313). -/
def State.readNext (s : State) (x : Pool) (a : Nat) : Option Nat :=
  let n := s.load a 8
  let inv := s.load (a + 8) 8
  if s.poisoned a 16 then none
  else if n + inv = 2 ^ 64 - 1 && (n = 0 || x.holds n) then some n
  else none

/-- The on-chip head entries read ahead to three; the address of a bad one, if a read-ahead finds it. -/
def State.readAhead (s : State) (x : Pool) : Nat → List Nat → List Nat × Option Nat
  | 0, l => (l, none)
  | k + 1, l =>
    match l.getLast? with
    | none => (l, none)
    | some a =>
      if 3 ≤ l.length then (l, none)
      else
        match s.readNext x a with
        | none => (l, some a)
        | some 0 => (l, none)
        | some n => s.readAhead x k (l ++ [n])

/-- The answer to who asked: what a command's reader gets, the response cell of a tile's access, a grant that the watermaster
or the dispatcher takes up. An engine that is answered 0 asks again. -/
def State.answerHandle (s : State) (w : Waiter) (h : Word) : State :=
  match w.asker with
  | .thread r => s.inject mgmtOutput 10 (.rsp ⟨r.tile, r.thread, r.tag, .ok, BitVec.ofNat 512 h.toNat⟩)
  | .command => s.emit (.handle w.pool w.owner (some h))
  | _ => if h = 0 then s else s.putGrants (s.grants ++ [(w, h)])

/-- Every waiter of a pool leaves the waiter list with the answer 0 (R313, R315). -/
def State.answerAll (s : State) (p : Nat) : State :=
  (s.waiters.filter fun w => w.pool == p).foldl (fun s w => s.answerHandle w 0)
    (s.putWaiters (s.waiters.filter fun w => w.pool != p))

/-- A general pool enters FAULTED with a class C event for its context; every waiter is answered 0 (R313). -/
def State.faultPool (s : State) (p a : Nat) : State :=
  let x := s.pool p
  ((s.setPool p { x with state := 2 }).raise
    { cls := 1, src := sourceOf 12 0, code := evCode 0x001C p, ctx := some x.ctx, detail := a }).answerAll p

/-- The buffer taken from the head of a pool's free store, and the state after it; none when the store is empty. -/
def State.takeFree (s : State) (p : Nat) : Option Nat × State :=
  let x := s.pool p
  if x.ring then
    match x.cache with
    | [] => (none, s)
    | a :: r => (some a, s.setPool p { x with cache := r }.refill)
  else
    match x.chip with
    | [] => (none, s)
    | a :: r =>
      -- the entry that follows comes from NEXT of the last entry held on chip
      let seed := if r.isEmpty then (match s.readNext x a with | some 0 => [] | some n => [n] | none => []) else r
      let (chip, bad) := s.readAhead x 3 seed
      let bad := if r.isEmpty && (s.readNext x a).isNone then some a else bad
      let s := s.setPool p { x with chip := chip }
      (some a, match bad with | some b => s.faultPool p b | none => s)

/-- A buffer put back into its pool's free store; one on a retired page leaves the pool (R298, R312). -/
def State.giveFree (s : State) (p a : Nat) : State :=
  let x := s.pool p
  if x.retiring.contains a then
    let s := s.setPool p { x with retiring := x.retiring.erase a, count := x.count - 1 }
    let need := s.poolMinima p
    if x.count - 1 < need then
      if p = 1 then
        s.raise { cls := 4, src := sourceOf 13 0, code := evCode 0x0023 1, hw := true, advisory := true }
      else
        s.raise { cls := 1, src := sourceOf 12 0, code := evCode 0x001B p, ctx := some x.ctx,
                  detail := (x.count - 1) + need % 2 ^ 28 * 2 ^ 32 }
    else s
  else if x.ring then s.setPool p ({ x with cache := a :: x.cache }).spill
  else
    let next := x.chip.headD 0
    (s.setPool p { x with chip := (a :: x.chip).take 3 }).put a (toBytes 8 next ++ toBytes 8 (2 ^ 64 - 1 - next))

/-! ### Allocation (R309, R310) -/

/-- Whether an allocation for owner `o` of pool `p` succeeds now (R309). -/
def State.mayAlloc (s : State) (p : Nat) (x : Owner) : Bool :=
  (s.pool p).state == 1 && (x.max == 0 || decide (x.used < x.max)) && decide (0 < s.poolFree p) &&
    (decide (x.used < x.min) || decide (s.poolShort p < s.poolFree p))

/-- The allocation performed: the handle, the owner charged and named first. -/
def State.allocNow (s : State) (p o : Nat) (x : Owner) : Option Word × State :=
  match s.takeFree p with
  | (none, s) => (none, s)
  | (some a, s) =>
    let b := s.buf a
    (some (handleOf b.ticket a),
      (s.setBuf a { b with owners := [o], alloc := some o }).setOwner o { x with used := x.used + 1 })

/-- Waiters examined in arrival order; each that R309 allows is granted (R310). One whose owner is gone gets 0. -/
def State.serveWaiters (s : State) : List Waiter → State
  | [] => s
  | w :: rest =>
    let s :=
      if !s.waiters.contains w then s
      else
        match s.owner w.owner with
        | some x =>
          if x.pool = w.pool && s.mayAlloc w.pool x then
            match (s.putWaiters (s.waiters.erase w)).allocNow w.pool w.owner x with
            | (some h, s) => s.answerHandle w h
            | (none, _) => s
          else s
        | none => (s.putWaiters (s.waiters.erase w)).answerHandle w 0
    s.serveWaiters rest

/-- The waiters of pool `p` served after a release (R310). -/
def State.serve (s : State) (p : Nat) : State := s.serveWaiters (s.waiters.filter fun w => w.pool == p)

/-- Who may act for an owner (Tables 11-5 and 11-7). -/
def State.mayAct (s : State) (who : Requester) (p o : Nat) : Bool :=
  match s.owner o with
  | none => false
  | some x =>
    x.pool == p &&
      (match who, x.kind with
        | .mgmt, 0 => true
        | .mgmt, 1 => true
        | .capture, 0 => p == 2
        | .relay, 0 => p == 3
        | .watermaster, 2 => true
        | .dispatcher, 3 => true
        | .agent c _, 1 => x.ctx == some c
        | _, _ => false)

/-- Privileged pools are operated by the agents of Table 11-7 alone (R314). -/
def operates (who : Requester) (p : Nat) : Bool :=
  match p, who with
  | 0, .mgmt => true
  | 1, .watermaster => true
  | 1, .mgmt => true
  | 2, .capture => true
  | 2, .mgmt => true
  | 3, .relay => true
  | 3, .mgmt => true
  | _, _ => decide (4 ≤ p)

/-- An allocation: granted, refused with 0, or put in the waiter list (R309, R310, R313). -/
def State.poolAlloc (s : State) (w : Waiter) (wait : Bool) : State :=
  match s.owner w.owner with
  | none => s.answerHandle w 0
  | some x =>
    if (s.pool w.pool).state != 1 then s.answerHandle w 0
    else if s.mayAlloc w.pool x then
      match s.allocNow w.pool w.owner x with
      | (some h, s) => s.answerHandle w h
      | (none, s) => s.answerHandle w 0
    else if wait && s.waiters.length < 1024 then
      (s.putWaiters (s.waiters ++ [w])).count (POOL_WAITS w.pool)
    else s.answerHandle w 0

/-- A release: remaining owners orphaned, the allocator refunded, TICKET advanced, waiters served (R312). -/
def State.release (s : State) (p a : Nat) : State :=
  let b := s.buf a
  let s := s.count (POOL_ORPHANED p) (b.owners.length - 1)
  let s := match b.alloc with
    | some o => (match s.owner o with
      | some x => s.setOwner o { x with used := x.used - 1 }
      | none => s)
    | none => s
  let s := s.setBuf a ⟨if b.ticket = 255 then 1 else b.ticket + 1, [], none⟩
  (s.giveFree p a).serve p

/-- A free of a handle as owner `o` (R312). -/
def State.poolFreeHandle (s : State) (p o : Nat) (h : Word) : State :=
  let a := handleAddr h
  let b := s.buf a
  if s.handleOk p h && b.owners.contains o then
    if b.owners.getLast? = some o then s.release p a
    else s.setBuf a { b with owners := b.owners.erase o }
  else s.count (POOL_STALE p)

/-- A share of a handle to owner `o` (R311). -/
def State.poolShareHandle (s : State) (who : Requester) (p o : Nat) (h : Word) : State :=
  let a := handleAddr h
  let b := s.buf a
  let firstCtx := (b.owners.head?.bind s.owner).bind Owner.ctx
  let entitled := match who with
    | .agent c _ => firstCtx == some c
    | .watermaster | .dispatcher | .mgmt => true
    | _ => false
  let sameP := match s.owner o with | some x => x.pool == p | none => false
  if s.handleOk p h && !b.owners.contains o && decide (b.owners.length < 4) && entitled && sameP then
    s.setBuf a { b with owners := b.owners ++ [o] }
  else s.count (POOL_STALE p)

/-! ### Creation and destruction (R315, Table 11-8) -/

/-- The arguments of POOL_CREATE (spec/13_host_port_and_control.md Table 13-7). -/
structure PoolArgs where
  pool : Nat
  size : Nat
  loc : Nat
  count : Nat
  base : Nat
  metaBase : Nat
  min1 : Nat
  max1 : Nat

/-- Whether the buffers lie in one region of LOC, and in one tile's SRAM (Table 11-8). -/
def PoolArgs.inRegion (s : State) (x : PoolArgs) : Bool :=
  let n := x.count * (4096 * 2 ^ x.size)
  let e := x.base + n
  match x.loc with
  | 0 => decide (generalBase ≤ x.base) && decide (e ≤ canalEnd)
  | 1 => decide (e ≤ 2 ^ 31) && x.base / tileBytes == (e - 1) / tileBytes && s.bound (x.base / tileBytes)
  | 2 => decide (lpddrBase ≤ x.base) && decide (e ≤ lpddrEnd)
  | _ => false

/-- Whether a range meets the buffers or the metadata of a pool in use. -/
def State.meetsPool (s : State) (a n : Nat) : Bool :=
  s.inMetadata a n ||
    s.pools.any fun e => e.2.state != 0 && decide (a < e.2.base + e.2.total * e.2.bytes) && decide (e.2.base < a + n)

/-- The BAD_ARG cases of POOL_CREATE (Table 11-8). -/
def PoolArgs.bad (s : State) (x : PoolArgs) : Bool :=
  let n := x.count * (4096 * 2 ^ x.size)
  decide (8 < x.size) || x.count == 0 || decide (64 ≤ x.pool) || x.base % (4096 * 2 ^ x.size) != 0 ||
    !PoolArgs.inRegion s x || s.meetsPool x.base n || s.meetsPool x.metaBase (32 * x.count) ||
    s.inEngineRegion x.base n ||
    !(decide (generalBase ≤ x.metaBase) && decide (x.metaBase + 32 * x.count ≤ canalEnd))

/-- Free buffers threaded: NEXT and its NOT in each (R313). -/
def State.thread_ (s : State) (base size : Nat) : Nat → State
  | 0 => s
  | k + 1 =>
    let a := base + k * size
    (s.thread_ base size k).put a (toBytes 8 0 ++ toBytes 8 (2 ^ 64 - 1)) |>.put (a - size) (if k = 0 then [] else
      toBytes 8 a ++ toBytes 8 (2 ^ 64 - 1 - a))

/-- POOL_CREATE in context `c`: the status and the state after it (Table 11-8). -/
def State.poolCreate (s : State) (c : Nat) (x : PoolArgs) : Nat × State :=
  let n := x.count * (4096 * 2 ^ x.size)
  if x.pool < 4 then (4, s)
  else if decide (64 ≤ x.pool) then (2, s)
  else if (s.pool x.pool).state != 0 then (1, s)
  else if PoolArgs.bad s x then (2, s)
  else if !(s.covers c (s.genOf c) x.base n .rd && s.covers c (s.genOf c) x.base n .wr) then (4, s)
  else if decide (x.count < x.min1) then (3, s)
  else
    match s.freeOwner with
    | none => (3, s)
    | some o =>
      let s := s.thread_ x.base (4096 * 2 ^ x.size) x.count
      let s := s.putBufs (s.bufs.filter fun e => decide (e.1 < x.base) || decide (x.base + n ≤ e.1))
      let chip := (List.range (min 3 x.count)).map fun i => x.base + i * (4096 * 2 ^ x.size)
      let s := s.setPool x.pool
        { Pool.init with
          state := 1, loc := x.loc, size := x.size, ctx := c, count := x.count, total := x.count, base := x.base,
          metaBase := x.metaBase, chip := chip }
      (0, s.setOwner o ⟨x.pool, 1, ownerKey c 0, x.max1, x.min1, 0⟩)

/-- A pool taken down: waiters get 0, owners and buffer records go; what its metadata leaves in memory is open
(Table 11-8; log entry 7). -/
def State.poolRemove (s : State) (p : Nat) : State :=
  let x := s.pool p
  let s := (s.setPool p Pool.init).answerAll p
  let s := (s.putOwners (s.owners.filter fun e => e.2.pool != p)).putBufs (s.bufs.filter fun e => !x.holds e.1)
  (s.putGrants (s.grants.filter fun e => e.1.pool != p)).openWords x.metaBase (4 * x.total)

/-- POOL_DESTROY: the status and the state after it (Table 11-8). -/
def State.poolDestroy (s : State) (c p : Nat) (force : Bool) : Nat × State :=
  let x := s.pool p
  if 64 ≤ p then (2, s)
  else if x.state = 0 then (1, s)
  else if p < 4 || x.ctx != c then (4, s)
  else if x.state = 1 && decide (0 < s.allocated p) && !force then (6, s)
  else (0, s.poolRemove p)

/-! ### Meanings -/

/-- The cause with which the access of a requester that is not entitled completes: an address error where Table 11-7 does not
let it operate the pool, else a protection error (R314, R318). -/
def refusedCause (who : Requester) (p : Nat) : RspStatus := if operates who p then .protection else .address

/-- POOL_ALLOCATE (R309, R310). -/
def execPoolAllocate (who : Requester) (pool : Fin 64) (owner : BitVec 12) (s : State) :
    Host.Outcome State Fault Refusal :=
  ok s (s.powered fun s =>
    if operates who pool.val && s.mayAct who pool.val owner.toNat then
      s.poolAlloc ⟨who, pool.val, owner.toNat, .command⟩ true
    else s.emit (.poolRefused pool.val owner.toNat (refusedCause who pool.val)))

/-- POOL_ALLOCATE_NOWAIT (R309). -/
def execPoolAllocateNowait (who : Requester) (pool : Fin 64) (owner : BitVec 12) (s : State) :
    Host.Outcome State Fault Refusal :=
  ok s (s.powered fun s =>
    if operates who pool.val && s.mayAct who pool.val owner.toNat then
      s.poolAlloc ⟨who, pool.val, owner.toNat, .command⟩ false
    else s.emit (.poolRefused pool.val owner.toNat (refusedCause who pool.val)))

/-- POOL_FREE (R312). -/
def execPoolFree (who : Requester) (pool : Fin 64) (owner : BitVec 12) (handle : Word) (s : State) :
    Host.Outcome State Fault Refusal :=
  ok s (s.powered fun s =>
    if operates who pool.val && s.mayAct who pool.val owner.toNat then
      s.poolFreeHandle pool.val owner.toNat handle
    else s.emit (.poolRefused pool.val owner.toNat (refusedCause who pool.val)))

/-- POOL_SHARE (R311). -/
def execPoolShare (who : Requester) (pool : Fin 64) (owner : BitVec 12) (handle : Word) (s : State) :
    Host.Outcome State Fault Refusal :=
  ok s (s.powered fun s =>
    if operates who pool.val && s.mayAct who pool.val owner.toNat then
      s.poolShareHandle who pool.val owner.toNat handle
    else s.emit (.poolRefused pool.val owner.toNat (refusedCause who pool.val)))

end Sys2Proof.Machine
end

