-- ==== Sys2Proof/Machine/Formats.lean ====
section
/-! DEFINITION. Sys2Proof/Machine/Formats.lean: number formats, rounding, block scales, the random bits of stochastic
rounding and arithmetic on exact values (spec/05_number_formats.md R111-R134; log entry 17). Flags are the four bits OF, UF,
NX, NV of Table 5-9, lowest first. -/

namespace Sys2Proof.Machine

/-- A value as an engine sees it: NaN without a payload (R131), a signed infinity, or ± m × 2^e exactly. -/
inductive FNum where
  | nan
  | inf (neg : Bool)
  | fin (neg : Bool) (m : Nat) (e : Int)
  deriving DecidableEq, Repr

def flagOF : Nat := 1
def flagUF : Nat := 2
def flagNX : Nat := 4
def flagNV : Nat := 8

def FNum.isNan : FNum → Bool
  | .nan => true
  | _ => false

def FNum.isInf : FNum → Bool
  | .inf _ => true
  | _ => false

/-- Zero of either sign. -/
def FNum.isZero : FNum → Bool
  | .fin _ m _ => m == 0
  | _ => false

def FNum.neg : FNum → Bool
  | .nan => false
  | .inf s => s
  | .fin s _ _ => s

/-- The value with sign `n`. -/
def FNum.withSign (n : Bool) : FNum → FNum
  | .nan => .nan
  | .inf _ => .inf n
  | .fin _ m e => .fin n m e

/-- x × 2^k, exact. -/
def FNum.scale (k : Int) : FNum → FNum
  | .fin s m e => .fin s m (e + k)
  | x => x

/-- ⌊log2 |x|⌋ of a finite nonzero value. -/
def FNum.log2 : FNum → Option Int
  | .fin _ m e => if m = 0 then none else some (Nat.log2 m + e)
  | _ => none

/-- m × 2^k as an integer for k ≥ 0. -/
def shiftUp (m : Nat) (k : Int) : Nat := m <<< k.toNat

/-- m1 × 2^e1 < m2 × 2^e2. -/
def magLt (m1 : Nat) (e1 : Int) (m2 : Nat) (e2 : Int) : Bool :=
  decide (shiftUp m1 (e1 - min e1 e2) < shiftUp m2 (e2 - min e1 e2))

/-- x < y of two values that are not NaN; zeros of both signs are equal. -/
def FNum.lt (x y : FNum) : Bool :=
  match x, y with
  | .nan, _ => false
  | _, .nan => false
  | .inf a, .inf b => a && !b
  | .inf a, .fin _ _ _ => a
  | .fin _ _ _, .inf b => !b
  | .fin a m e, .fin b n f =>
    if m = 0 && n = 0 then false
    else if m = 0 then !b
    else if n = 0 then a
    else if a && !b then true
    else if !a && b then false
    else if a then magLt n f m e
    else magLt m e n f

def FNum.eq (x y : FNum) : Bool := !x.isNan && !y.isNan && !x.lt y && !y.lt x

/-! ### Exact arithmetic (R132) -/

/-- The exact sum, with NV where it is invalid. -/
def FNum.add (x y : FNum) : FNum × Nat :=
  match x, y with
  | .nan, _ => (.nan, 0)
  | _, .nan => (.nan, 0)
  | .inf a, .inf b => if a == b then (.inf a, 0) else (.nan, flagNV)
  | .inf a, .fin _ _ _ => (.inf a, 0)
  | .fin _ _ _, .inf b => (.inf b, 0)
  | .fin a m e, .fin b n f =>
    let g := min e f
    let p := shiftUp m (e - g)
    let q := shiftUp n (f - g)
    if a == b then (.fin a (p + q) g, 0)
    else if p = q then (.fin false 0 g, 0)
    else if q < p then (.fin a (p - q) g, 0)
    else (.fin b (q - p) g, 0)

def FNum.negate (x : FNum) : FNum := x.withSign (!x.neg)

/-- The exact product, with NV where it is invalid. -/
def FNum.mul (x y : FNum) : FNum × Nat :=
  match x, y with
  | .nan, _ => (.nan, 0)
  | _, .nan => (.nan, 0)
  | .inf a, .inf b => (.inf (a != b), 0)
  | .inf a, .fin b n _ => if n = 0 then (.nan, flagNV) else (.inf (a != b), 0)
  | .fin a m _, .inf b => if m = 0 then (.nan, flagNV) else (.inf (a != b), 0)
  | .fin a m e, .fin b n f => (.fin (a != b) (m * n) (e + f), 0)

/-- Table 5-8. -/
def FNum.max (x y : FNum) : FNum :=
  if x.isNan then y else if y.isNan then x
  else if x.isZero && y.isZero then (if x.neg && y.neg then x else x.withSign false)
  else if x.lt y then y else x

def FNum.min (x y : FNum) : FNum :=
  if x.isNan then y else if y.isNan then x
  else if x.isZero && y.isZero then x.withSign (x.neg || y.neg)
  else if y.lt x then y else x

/-! ### Encodings -/

/-- A floating-point layout: width, significand bits with the hidden one, exponent of the smallest spacing, exponent of
the top binade, and code of the largest finite magnitude. -/
structure Layout where
  w : Nat
  p : Nat
  q0 : Int
  emax : Int
  top : Nat
  deriving DecidableEq, Repr

def fp64 : Layout := ⟨64, 53, -1074, 1023, 0x7FEFFFFFFFFFFFFF⟩
def fp32 : Layout := ⟨32, 24, -149, 127, 0x7F7FFFFF⟩
def fp16 : Layout := ⟨16, 11, -24, 15, 0x7BFF⟩
def bf16 : Layout := ⟨16, 8, -133, 127, 0x7F7F⟩
def e4m3 : Layout := ⟨8, 4, -9, 8, 0x7E⟩
def e5m2 : Layout := ⟨8, 3, -16, 15, 0x7B⟩
def e2m1 : Layout := ⟨4, 2, -1, 2, 7⟩
/-- ZT2 magnitudes 0 and 1 (Table 5-2). -/
def zt2 : Layout := ⟨2, 1, 0, 0, 1⟩
/-- INT8 magnitudes, steps of 2^-6 (R123). -/
def int8 : Layout := ⟨8, 7, -6, 0, 127⟩
/-- INT32 magnitudes. -/
def int32 : Layout := ⟨32, 32, 0, 31, 0x7FFFFFFF⟩

/-- FMT codes of Table 5-1. -/
def fmtZT2 : Nat := 0
def fmtZF4 : Nat := 1
def fmtFP4 : Nat := 2
def fmtE4M3 : Nat := 3
def fmtE5M2 : Nat := 4
def fmtINT8 : Nat := 5
def fmtBF16 : Nat := 6
def fmtFP16 : Nat := 7
def fmtFP32 : Nat := 8
def fmtINT32 : Nat := 9

def layoutOf (fmt : Nat) : Layout :=
  match fmt with
  | 0 => zt2
  | 1 => e2m1
  | 2 => e2m1
  | 3 => e4m3
  | 4 => e5m2
  | 5 => int8
  | 6 => bf16
  | 7 => fp16
  | 8 => fp32
  | _ => int32

/-- Bits per element (Table 5-1). -/
def fmtBits (fmt : Nat) : Nat := (layoutOf fmt).w

/-- Elements per data cell, per chunk (Table 5-1). -/
def fmtPerCell (fmt : Nat) : Nat := 512 / fmtBits fmt
def fmtPerChunk (fmt : Nat) : Nat := 64 * fmtPerCell fmt

/-- Block-scaled formats (Table 5-1). -/
def fmtScaled (fmt : Nat) : Bool := decide (fmt ≤ 5)

/-- Scale cells per chunk (Table 5-1). -/
def fmtScaleCells (fmt : Nat) : Nat := if fmtScaled fmt then fmtPerChunk fmt / 2048 else 0

/-- Formats the MU takes (R148). -/
def fmtMu (fmt : Nat) : Bool := decide (1 ≤ fmt) && decide (fmt ≤ 8)

/-- The value of a magnitude code of a layout with subnormals. -/
def Layout.mag (l : Layout) (c : Nat) : Nat × Int :=
  let e := c >>> (l.p - 1)
  let f := c % 2 ^ (l.p - 1)
  if e = 0 then (f, l.q0) else (f + 2 ^ (l.p - 1), l.q0 + (e : Int) - 1)

/-- An IEEE 754 code. -/
def Layout.decodeIEEE (l : Layout) (c : Nat) : FNum :=
  let s := bitOf c (l.w - 1)
  let a := c % 2 ^ (l.w - 1)
  if a ≤ l.top then .fin s (l.mag a).1 (l.mag a).2
  else if a = l.top + 1 then .inf s
  else .nan

/-- The value of element code `c` of format `fmt` (Tables 5-2 to 5-4, R116, R123). -/
def decodeElem (fmt c : Nat) : FNum :=
  match fmt with
  | 0 => match c % 4 with
    | 0 => .fin false 0 0
    | 1 => .fin false 1 0
    | 2 => .nan
    | _ => .fin true 1 0
  | 1 => if c % 16 = 8 then .nan else .fin (bitOf c 3) (e2m1.mag (c % 8)).1 (e2m1.mag (c % 8)).2
  | 2 => .fin (bitOf c 3) (e2m1.mag (c % 8)).1 (e2m1.mag (c % 8)).2
  | 3 => if c % 128 = 127 then .nan else .fin (bitOf c 7) (e4m3.mag (c % 128)).1 (e4m3.mag (c % 128)).2
  | 4 => e5m2.decodeIEEE (c % 256)
  | 5 => let k := signed 8 c; .fin (decide (k < 0)) k.natAbs (-6)
  | 6 => bf16.decodeIEEE (c % 2 ^ 16)
  | 7 => fp16.decodeIEEE (c % 2 ^ 16)
  | 8 => fp32.decodeIEEE (c % 2 ^ 32)
  | _ => let k := signed 32 c; .fin (decide (k < 0)) k.natAbs 0

/-- E8M0 scale code 0xFF (R115). -/
def scaleNan : Nat := 255

/-- The exact value of an element under scale `s` (R116). -/
def scaledElem (fmt s c : Nat) : FNum :=
  if s = scaleNan then .nan else (decodeElem fmt c).scale ((s : Int) - 127)

/-! ### Rounding (R125, R126) -/

/-- The magnitude m × 2^e as a multiple of the layout's spacing there, that spacing's exponent, and whether it is
inexact. `r` is the 16-bit random number of a stochastic rounding; without one the nearest even is taken. -/
def Layout.roundMag (l : Layout) (r : Option Nat) (m : Nat) (e : Int) : Nat × Int × Bool :=
  let u := if m = 0 then l.q0 else Max.max l.q0 (Min.min (Nat.log2 m + e) l.emax - ((l.p : Int) - 1))
  if u ≤ e then (shiftUp m (e - u), u, false)
  else
    let k := (u - e).toNat
    let q := m >>> k
    let rest := m % 2 ^ k
    let up := match r with
      | some r => decide (65536 ≤ (rest <<< 16) / 2 ^ k + r)
      | none => decide (2 ^ k < 2 * rest) || (2 * rest == 2 ^ k && q % 2 == 1)
    (if up then q + 1 else q, u, rest != 0)

/-- The magnitude code of m × 2^u, u a spacing of the layout; codes above `top` are beyond range. -/
def Layout.code (l : Layout) (m : Nat) (u : Int) : Nat :=
  if m < 2 ^ (l.p - 1) then m else (u - l.q0 + 1).toNat * 2 ^ (l.p - 1) + (m - 2 ^ (l.p - 1))

/-- A finite value rounded: magnitude code (`top` where it is beyond range), whether it was beyond range, and UF, NX. -/
def Layout.round (l : Layout) (r : Option Nat) (m : Nat) (e : Int) : Nat × Bool × Nat :=
  let (q, u, inexact) := l.roundMag r m e
  let c := l.code q u
  let ovr := decide (l.top < c)
  (if ovr then l.top else c, ovr, (if inexact || ovr then flagNX else 0) + (if m != 0 && q == 0 then flagUF else 0))

/-- Conversion into an IEEE layout: code and flags (R129, Table 5-7; log entry 17 on NX of an overflow). -/
def Layout.encodeIEEE (l : Layout) (sat : Bool) (r : Option Nat) (x : FNum) : Nat × Nat :=
  let sgn (n : Bool) := if n then 2 ^ (l.w - 1) else 0
  match x with
  | .nan => (l.top + 1 + 2 ^ (l.p - 2), 0)
  | .inf n => if sat then (sgn n + l.top, flagOF) else (sgn n + l.top + 1, 0)
  | .fin n m e =>
    let (c, ovr, f) := l.round r m e
    if ovr then (sgn n + (if sat then l.top else l.top + 1), f ||| flagOF) else (sgn n + c, f)

/-- The value rounded to FP32 by nearest even, as the engines hold it, with flags. -/
def toFp32 (x : FNum) : FNum × Nat :=
  let (c, f) := fp32.encodeIEEE false none x
  (fp32.decodeIEEE c, f)

/-- The value rounded to binary64 by nearest even, with flags. -/
def toFp64 (x : FNum) : FNum × Nat :=
  let (c, f) := fp64.encodeIEEE false none x
  (fp64.decodeIEEE c, f)

/-- Element NaN codes of the block-scaled formats that have one (Table 5-7). -/
def elemNan (fmt : Nat) : Option Nat :=
  match fmt with
  | 0 => some 2
  | 1 => some 8
  | 3 => some 0x7F
  | 4 => some 0x7E
  | _ => none

/-- Code of a signed magnitude code in a block-scaled format (R120, R121, R123). -/
def signCode (fmt : Nat) (neg : Bool) (c : Nat) : Nat :=
  match fmt with
  | 0 => if neg && c != 0 then 3 else c
  | 1 => if neg && c != 0 then 8 + c else c
  | 2 => if neg then 8 + c else c
  | 5 => if neg && c != 0 then 256 - c else c
  | _ => if neg then 128 + c else c

/-- A scaled value q into an element of a block-scaled format (R129, R130, R187). `sat` matters for E5M2 alone. -/
def encodeElem (fmt : Nat) (sat : Bool) (r : Option Nat) (q : FNum) : Nat × Nat :=
  let l := layoutOf fmt
  match q with
  | .nan => match elemNan fmt with
    | some c => (c, 0)
    | none => (0, flagNV)
  | .inf n => if fmt = 4 && !sat then (signCode fmt n 0x7C, 0) else (signCode fmt n l.top, flagOF)
  | .fin n m e =>
    let (c, ovr, f) := l.round r m e
    let big := ovr && !magLt m e 1 (l.emax + 1)
    (signCode fmt n c, if big then f ||| flagOF else f)

/-- Conversion into INT32 (R129, Table 5-7). -/
def encodeInt32 (r : Option Nat) (x : FNum) : Nat × Nat :=
  match x with
  | .nan => (0, flagNV)
  | .inf n => (if n then 0x80000000 else 0x7FFFFFFF, flagNV)
  | .fin n m e =>
    let (q, u, inexact) := (⟨64, 4096, 0, 4095, 0⟩ : Layout).roundMag r m e
    let v := shiftUp q u
    let f := (if inexact then flagNX else 0) + (if m != 0 && v == 0 then flagUF else 0)
    if n then (if 0x80000000 < v then (0x80000000, flagNV) else (wrapInt 32 (-(v : Int)), f))
    else if 0x7FFFFFFF < v then (0x7FFFFFFF, flagNV) else (v, f)

/-- Conversion into an unscaled format. -/
def encodeNum (fmt : Nat) (sat : Bool) (r : Option Nat) (x : FNum) : Nat × Nat :=
  if fmt = 9 then encodeInt32 r x else (layoutOf fmt).encodeIEEE sat r x

/-- A block-scaled element descaled to FP32, with OF, UF, NX (R117). -/
def descale (fmt s c : Nat) : FNum × Nat := toFp32 (scaledElem fmt s c)

/-- An element as it enters an engine: descaled, or decoded exactly. -/
def elemValue (fmt s c : Nat) : FNum × Nat :=
  if fmtScaled fmt then descale fmt s c else (decodeElem fmt c, 0)

/-! ### Whole blocks (R118, R119, R187) -/

/-- ⌊log2 amax⌋ over the finite nonzero values. -/
def amaxExp (xs : List FNum) : Option Int :=
  xs.foldl (fun a x => match x.log2, a with
    | none, a => a
    | some k, none => some k
    | some k, some m => some (Max.max k m)) none

/-- The scale code chosen for an amax exponent (R118). -/
def scaleFor (fmt : Nat) (k : Option Int) : Nat :=
  match k with
  | none => 0
  | some k => (Max.max (-127) (Min.min 127 (k - (layoutOf fmt).emax)) + 127).toNat

/-- Elements under scale `s`, with flags: 0xFF writes code 0 to every element and sets NV (R187). -/
def encodeUnder (fmt s : Nat) (sat : Bool) (rs : Nat → Option Nat) (xs : List FNum) : List Nat × Nat :=
  if s = scaleNan then (xs.map fun _ => 0, if xs.isEmpty then 0 else flagNV)
  else
    let r := xs.zipIdx.map fun (x, i) => encodeElem fmt sat (rs i) (x.scale (127 - (s : Int)))
    (r.map Prod.fst, r.foldl (fun f x => f ||| x.2) 0)

/-- A block converted with the scale it chooses: scale, codes, flags (R118, R119). -/
def encodeBlock (fmt : Nat) (sat : Bool) (rs : Nat → Option Nat) (xs : List FNum) : Nat × List Nat × Nat :=
  let s := if (elemNan fmt).isNone && xs.any FNum.isNan then scaleNan else scaleFor fmt (amaxExp xs)
  let (c, f) := encodeUnder fmt s sat rs xs
  (s, c, f)

/-! ### Random bits (R128) -/

/-- One Philox-4x32 round on (c0, c1, c2, c3, k0, k1). -/
def philoxRound (x : Nat × Nat × Nat × Nat × Nat × Nat) : Nat × Nat × Nat × Nat × Nat × Nat :=
  let (c0, c1, c2, c3, k0, k1) := x
  let p0 := 0xD2511F53 * c0
  let p1 := 0xCD9E8D57 * c2
  ((p1 >>> 32) ^^^ c1 ^^^ k0, p1 % 2 ^ 32, (p0 >>> 32) ^^^ c3 ^^^ k1, p0 % 2 ^ 32, (k0 + 0x9E3779B9) % 2 ^ 32,
    (k1 + 0xBB67AE85) % 2 ^ 32)

/-- The four words of one call. -/
def philox (seed c0 c1 c2 c3 : Nat) : List Nat :=
  let (a, b, c, d, _, _) :=
    (List.range 10).foldl (fun x _ => philoxRound x) (c0, c1, c2, c3, seed % 2 ^ 32, (seed >>> 32) % 2 ^ 32)
  [a, b, c, d]

/-- The 16 bits of element `e`; `hi` is c0[31:11] and `blk` c0[10:0]. -/
def philox16 (seed hi blk c1 c2 c3 e : Nat) : Nat :=
  bitsOf ((philox seed (hi * 2048 + blk % 2048) c1 c2 c3).getD (e % 8 / 2) 0) (16 * (e % 2)) 16

/-- The 16 bits of chunk element `e` at conversion point `site` (Table 5-5). -/
def randomBits (seed site chunk redId step e : Nat) : Nat := philox16 seed (site * 32) (e / 8) chunk redId step e

/-! ### Atomics (spec/07_instruction_set.md Table 7-19) -/

/-- The new value of a word of `w` bits: function 0x0-0x8, `un` for unsigned order, operands b and c. -/
def atomicResult (f w : Nat) (un : Bool) (old b c : Nat) : Nat :=
  let b := b % 2 ^ w
  let less := if un then decide (b < old) else decide (signed w b < signed w old)
  match f with
  | 0 => (old + b) % 2 ^ w
  | 1 => old &&& b
  | 2 => old ||| b
  | 3 => old ^^^ b
  | 4 => if less then b else old
  | 5 => if less then old else b
  | 6 => b
  | 7 => if old = c % 2 ^ w then b else old
  | _ => (fp32.encodeIEEE false none ((fp32.decodeIEEE (old % 2 ^ 32)).add (fp32.decodeIEEE (b % 2 ^ 32))).1).1

end Sys2Proof.Machine
end

