-- ==== Sys2Proof/Machine/WeirMem.lean ====
section
/-! DEFINITION. Sys2Proof/Machine/WeirMem.lean: what a tile's Weir keeps in its region of tile SRAM (node table, entry
directory, total records), the states of its staging entries, and the void of a chunk (spec/08_weir_reduction.md R205,
R212-R215, R218). -/

namespace Sys2Proof.Machine

/-! ### Flags and faults of a tile's engines -/

/-- Engines of a tile: 0 MU, 1 VU, 2 Weir, in the order of Table 5-10. -/
def engineMU : Nat := 0
def engineVU : Nat := 1
def engineWeir : Nat := 2

/-- The sticky flags `f` set by an engine, with an event for each enabled flag that goes from 0 to 1
(spec/05_number_formats.md R134, R135). -/
def State.setFlags (s : State) (t engine f : Nat) (ctx : Option Nat := none) : State :=
  (List.range 4).foldl (fun s i =>
    let n := 4 * engine + i
    if bitOf f i && !bitOf (s.rd (TILE_FP_FLAGS t)).toNat n then
      let s := s.wr (TILE_FP_FLAGS t) (s.rd (TILE_FP_FLAGS t) ||| BitVec.ofNat 64 (2 ^ n))
      if bitOf (s.rd (TILE_FP_EVT t)).toNat n then s.notice 0 0x0009 (sourceOf 1 t) 0 n (some (ctx.getD (s.tile t).ctx)) else s
    else s) s

/-! ### Node records (Table 8-1) -/

/-- WEIR_BASE as a device address. -/
def State.weirBase (s : State) (t : Nat) : Nat := t * tileBytes + (s.weirRegion t).1

def State.nodeAddr (s : State) (t n : Nat) : Nat := s.weirBase t + 256 * n

/-- A node record as one number; a record that the region is too short for does not exist (R212). -/
def State.nodeRec (s : State) (t n : Nat) : Nat :=
  if (s.weirRegion t).1 + 256 * (n + 1) ≤ (s.weirRegion t).2 then s.load (s.nodeAddr t n) 256 else 0

/-- A field of a record: first byte, number of bits from bit `b` of it. -/
def recFld (r byte b w : Nat) : Nat := bitsOf r (8 * byte + b) w

def nRedId (r : Nat) : Nat := recFld r 0 0 32
def nChunks (r : Nat) : Nat := recFld r 4 0 32
def nPlanFp (r : Nat) : Nat := recFld r 8 0 64
def nElemsLast (r : Nat) : Nat := recFld r 16 0 16
def nSlots (r : Nat) : Nat := recFld r 18 0 11
def nNodeId (r : Nat) : Nat := recFld r 20 0 15
def nParentSlot (r : Nat) : Nat := recFld r 22 0 16
def nEntryBase (r : Nat) : Nat := recFld r 24 0 12
def nWindow (r : Nat) : Nat := recFld r 26 0 13
def nFmt (r : Nat) : Nat := recFld r 28 0 4
def nOp (r : Nat) : Nat := recFld r 28 4 4
/-- Run length L. -/
def nRun (r : Nat) : Nat := 2 ^ (recFld r 29 0 2 + 1)
def nValid (r : Nat) : Bool := bitOf r 240
def nRoot (r : Nat) : Bool := bitOf r 241
def nGrad (r : Nat) : Bool := bitOf r 242
def nCarry (r : Nat) : Bool := bitOf r 243
def nAccept (r : Nat) : Bool := bitOf r 244
def nSat (r : Nat) : Bool := bitOf r 245
def nGroup (r : Nat) : Nat := recFld r 32 0 12
def nCtx (r : Nat) : Nat := recFld r 34 0 12
def nOutCirc (r : Nat) : Nat := recFld r 36 0 20
def nMask (r k : Nat) : Bool := bitOf r (1024 + k)

/-- The slots of a node that its mask keeps. -/
def nLive (r : Nat) : List Nat := (List.range (nSlots r)).filter (nMask r)

/-- Elements of a whole chunk of the node, and carry pieces R of one chunk (R222). -/
def nElems (r : Nat) : Nat := fmtPerChunk (nFmt r)
def nPieces (r : Nat) : Nat := nElems r / 1024

/-- ELEMS of chunk `c`: ELEMS_LAST for the last one, else full. -/
def nElemsOf (r c : Nat) : Nat := if c + 1 = nChunks r then nElemsLast r else nElems r

/-- Element groups of a chunk: E ÷ 64 (Table 8-3). -/
def nGroups (r : Nat) : Nat := nElems r / 64

/-- Payload cells of a wire contribution, and the largest count P a slot can deliver (R213). -/
def nWireCells (r : Nat) : Nat := fmtScaleCells (nFmt r) + 64
def nSlotCells (r : Nat) : Nat := if nAccept r then max (nWireCells r) (64 * nPieces r) else nWireCells r

/-- Bytes of a run sum (R213). -/
def nSumBytes (r : Nat) : Nat := if nOp r = 0 && nFmt r != 9 then 4 else 8

/-- Runs of the node (R210). -/
def nRuns (r : Nat) : Nat := (nSlots r + nRun r - 1) / nRun r

def up256 (n : Nat) : Nat := (n + 255) / 256 * 256

/-- Bytes of an entry's staging, run accumulators and total record (R213). -/
def nStageBytes (r : Nat) : Nat := up256 (nSlots r * nSlotCells r * 64)
def nRunBytes (r : Nat) : Nat := up256 (nRuns r * nElems r * nSumBytes r)
def nRecBytes (r : Nat) : Nat := up256 (256 + (if nFmt r = 9 then 4 else 8) * nElems r)

/-- The claim of a node record (R213). -/
def nClaim (r : Nat) : Nat := nWindow r * (nStageBytes r + nRunBytes r + nRecBytes r)

/-! ### Entries -/

/-- An address of entry `e`'s directory entry: 0 staging, 1 runs, 2 record (R212). -/
def State.entryDir (s : State) (t e i : Nat) : Nat := s.load (s.weirBase t + 0x40000 + 32 * e + 8 * i) 8 % 2 ^ 48
def State.stageAddr (s : State) (t e : Nat) : Nat := s.entryDir t e 0
def State.runAddr (s : State) (t e : Nat) : Nat := s.entryDir t e 1
def State.recAddr (s : State) (t e : Nat) : Nat := s.entryDir t e 2

/-- READY of an entry's record: final groups not yet consumed (Table 8-3). -/
def State.readyAddr (s : State) (t e : Nat) : Nat := s.recAddr t e + 24

/-- A flag of byte 15 of an entry's record. -/
def State.recFlag (s : State) (t e b : Nat) : Bool := bitOf (s.load (s.recAddr t e + 15) 1) b

/-- VOIDED of the record. -/
def State.entryVoided (s : State) (t e : Nat) : Bool := s.recFlag t e 4

/-- The descriptor of Table 7-15. -/
def State.descriptor (s : State) (t e : Nat) : Word :=
  BitVec.ofNat 64 (2 ^ 63 + flag (s.recFlag t e 5) * 2 ^ 62 + flag (s.recFlag t e 0) * 2 ^ 61 +
    flag (s.recFlag t e 3) * 2 ^ 60 + e * 2 ^ 48 + s.recAddr t e)

/-- ENTRY of a descriptor. -/
def descEntry (d : Word) : Nat := bitsOf d.toNat 48 12

/-- An entry becomes FREE: nothing of it stays open, queued or posted (R215). -/
def Tile.freeEntry (x : Tile) (e : Nat) : Tile :=
  let y := x.entry e
  { x.setEntry e .init with
    cq := x.cq.filter fun d => descEntry d != e
    openLabels := x.openLabels.filter fun l => !(l.1 / 1024 == y.node && l.2.1 == e)
    posts := x.posts.filter fun p => p.entry != e }

def Tile.ccGet (x : Tile) (c : Nat) : Nat := Table.get 0 x.cc c
def Tile.ccSet (x : Tile) (c n : Nat) : Tile := { x with cc := Table.set natRank 0 x.cc c n }
def Tile.ccAdd (x : Tile) (c n : Nat) : Tile := x.ccSet c ((x.ccGet c + n) % 2 ^ 32)
def Tile.ccSub (x : Tile) (c n : Nat) : Tile := x.ccSet c ((x.ccGet c + 2 ^ 32 - n % 2 ^ 32) % 2 ^ 32)

/-- Entries that thread `h` has taken and not posted, in the order in which it took them. -/
def Tile.takenBy (x : Tile) (h : Nat) : List (Nat × Entry) :=
  (x.entries.filter fun e => e.2.st == .taken && e.2.takenBy == some h).mergeSort fun a b => decide (a.2.takenAt ≤ b.2.takenAt)

/-- The entries that a thread has taken go back to the front of the completion queue, or become FREE when voided
(spec/06_flume_tile.md R169, spec/07_instruction_set.md R178). -/
def State.returnEntries (s : State) (t h : Nat) : State :=
  let back := (s.tile t).takenBy h
  let keep := back.filter fun e => !s.entryVoided t e.1
  let gone := back.filter fun e => s.entryVoided t e.1
  let front := keep.map fun e => s.descriptor t e.1
  s.modTile t fun x =>
    let x := keep.foldl (fun x e => x.setEntry e.1 { e.2 with st := .queued, takenBy := none }) x
    let x := gone.foldl (fun x e => x.freeEntry e.1) x
    { x with cq := front ++ x.cq }

/-- A void reaches the entry that holds chunk `e.chunk` of its node (R218). Strays follow for every open label. -/
def State.voidEntry (s : State) (t e : Nat) : State :=
  let y := (s.tile t).entry e
  match y.st with
  | .free => s
  | .opened => (s.count (WEIR_VOIDED t)).modTile t fun x => x.freeEntry e
  | .queued => (s.count (WEIR_VOIDED t)).modTile t fun x => x.freeEntry e
  | .taken =>
    let s := s.count (WEIR_VOIDED t)
    let a := s.recAddr t e + 15
    let s := s.setBytes a (toBytes 1 (s.load a 1 ||| 16))
    let n := nGroups (s.nodeRec t y.node)
    let s := s.store (s.readyAddr t e) 8 (s.load (s.readyAddr t e) 8 + (n - y.finals))
    s.modTile t fun x => { x.setEntry e { y with finals := n, voided := true } with
      openLabels := x.openLabels.filter fun l => !(l.1 / 1024 == y.node && l.2.1 == e) }
  | .sending =>
    (s.count (WEIR_VOIDED t)).modTile t fun x =>
      let x := (x.posts.filter fun p => p.entry == e).foldl (fun x p => x.ccSub p.cc (p.pieces * (p.per + 1) - p.sent)) x
      x.freeEntry e

end Sys2Proof.Machine
end

