-- ==== Sys2Proof/Machine/TileCore.lean ====
section
/-! DEFINITION. Sys2Proof/Machine/TileCore.lean: threads, issue, faults, the accesses an agent performs on memory it owns, a
tile's outstanding requests, waits and their ends (spec/06_flume_tile.md R136-R147, R163, R169-R172;
spec/07_instruction_set.md R173-R181, R197-R203). -/

namespace Sys2Proof.Machine

/-! ### Registers (R136) -/

def Thread.getS (x : Thread) (n : Nat) : Word := if n = 0 then 0 else Table.get 0 x.s n
def Thread.setS (x : Thread) (n : Nat) (v : Word) : Thread :=
  if n = 0 then x else { x with s := Table.set natRank 0 x.s n v }
def Thread.getV (x : Thread) (n : Nat) : VReg := Table.get 0 x.v n
def Thread.setV (x : Thread) (n : Nat) (v : VReg) : Thread := { x with v := Table.set natRank 0 x.v n v }
def Thread.getM (x : Thread) (n : Nat) : MReg := if n = 0 then BitVec.allOnes 256 else Table.get 0 x.m n
def Thread.setM (x : Thread) (n : Nat) (v : MReg) : Thread :=
  if n = 0 then x else { x with m := Table.set natRank 0 x.m n v }

/-- Code of a thread state (Table 6-2). -/
def TState.code : TState → Nat
  | .idle => 0
  | .run => 1
  | .wait => 2
  | .halted => 3
  | .stopped => 4

/-- The thread goes on after the instruction at its PC. -/
def Thread.advance (x : Thread) : Thread := { x with pc := x.pc + 8, issued := x.issued + 1 }

/-- A wait ends: the thread runs, or will run when its halt ends (R170). -/
def Thread.resumeRun (x : Thread) : Thread :=
  if x.st == .halted then { x with resume := .run, wait := .none } else { x with st := .run, wait := .none }

/-- Requests of thread `h` that are outstanding (R143). -/
def Tile.outstOf (x : Tile) (h : Nat) : List Outst := x.outst.filter fun o => o.thread == h

/-- Whether `fence` still waits: a load, store or atomic of the thread is outstanding (R146). -/
def Tile.fenced (x : Tile) (h : Nat) : Bool :=
  (x.outstOf h).any fun o => match o.want with
    | .streamIn _ _ => false
    | .streamOut _ => false
    | _ => true

/-- Stream lines of thread `h` that are not complete. -/
def Tile.streaming (x : Tile) (h : Nat) : Bool := x.streams.any fun r => r.thread == h

/-- Whether everything the thread has asked for has returned (R178, R169). -/
def Tile.quiet (x : Tile) (h : Nat) : Bool := (x.outstOf h).isEmpty && !x.streaming h

/-- `mma` on index `j` queued or running, before drain or instruction number `seq` (R155). -/
def Tile.mmaOn (x : Tile) (j seq : Nat) : Bool :=
  (x.mmaQ ++ x.mma.toList).any fun o => o.acc == j && decide (o.seq < seq)

/-- Groups of index `j` pending or still to come (R154, R155). -/
def Tile.accBusy (x : Tile) (j : Nat) : Bool :=
  (x.mmaQ ++ x.mma.toList).any (fun o => o.acc == j) || x.tq.any fun q => q.acc == j && q.reading

/-! ### Memory as its owner performs accesses (R142, R147, R199) -/

/-- Bytes written where `mask` selects, with the errors that whole units clear (R142, R302). -/
def State.putMasked (s : State) (a : Nat) (mask line n : Nat) : State :=
  let s := (List.range n).foldl (fun s i =>
    if bitOf mask i then s.putMem (Memory.write s.mem (a + i) (BitVec.ofNat 8 (line >>> (8 * i)))) else s) s
  (s.putPoison (s.poison.filter fun p =>
      !(decide (a ≤ p) && decide (p + poisonUnit p ≤ a + n) &&
        bitsOf mask (p - a) (poisonUnit p) == 2 ^ poisonUnit p - 1)))

/-- An uncorrectable error met by a read of `n` bytes at `a` is counted (spec/11_memory_and_pools.md R297, R300). -/
def State.ueRead (s : State) (a : Nat) : State :=
  if lpddrBase ≤ a then s.count MEM_UE else s.count SRAM_UE

/-- A request performed by the owner of its address, after every check: status, data returned, state. -/
def State.perform (s : State) (a : Nat) (k : ReqKind) : RspStatus × Nat × State :=
  match k with
  | .load n => if s.poisoned a n then (.data, 0, s.ueRead a) else (.ok, s.load a n, s)
  | .store m l =>
    let first := (lowest 64 fun i => m.getLsbD i).getD 0
    let last := 63 - (lowest 64 fun i => m.getLsbD (63 - i)).getD 63
    if decide (lpddrBase ≤ a) && s.poisoned a 64 && m != BitVec.allOnes 64 then (.data, 0, s)
    else if m = 0 then (.ok, 0, s)
    else (.ok, 0, s.putMasked (a + first) (m.toNat >>> first) (l.toNat >>> (8 * first)) (last + 1 - first))
  | .atomic f wide un b c =>
    let n := if wide then 8 else 4
    if s.poisoned a n then (.data, 0, s.ueRead a)
    else
      let old := s.load a n
      (.ok, old, s.put a (toBytes n (atomicResult f (8 * n) un old b.toNat c.toNat)))

/-! ### Ends of waits -/

/-- Threads in the rotating order of a unit, from the one after the thread it accepted last (R138). -/
def Tile.turn (x : Tile) (unit : Nat) : List Nat :=
  (List.range 16).map fun i => (Table.get 15 x.rotate unit + 1 + i) % 16

/-- The wait of a thread, when it is in WAIT. -/
def Tile.waitOf (x : Tile) (h : Nat) : Wait := if (x.thread h).st == .wait then (x.thread h).wait else .none

/-- Waits that need nothing but the tile's own tables, and whether the instruction is then complete. -/
def Tile.waitOver (x : Tile) (h : Nat) : Option Bool :=
  let y := x.thread h
  match x.waitOf h with
  | .reg a b => if (a.all fun r => !y.busyS.contains r) && (b.all fun r => !y.busyV.contains r) then some false else none
  | .room n => if x.outst.length + n ≤ 512 then some false else none
  | .tailwater => if x.tq.length < 8 then some false else none
  | .row =>
    match leastBy TqEntry.order (x.tq.filter fun q => q.thread == h && !q.discard) with
    | some q => if q.popped < q.rows.length then some false else none
    | none => some false
  | .mmaQueue => if x.mmaQ.length < 4 then some false else none
  | .cc c l => if x.ccGet c ≤ l then some true else none
  | .stream c n => if x.ccGet c + n < 2 ^ 31 then some false else none
  | .fence => if x.fenced h then none else some true
  | _ => none

/-- A waiting semaphore that the word covers is granted (R197). -/
def State.semGrant (s : State) (t h : Nat) : State :=
  match (s.tile t).waitOf h with
  | .sem a n =>
    if s.poisoned a 8 || s.load a 8 < n then s
    else (s.store a 8 (s.load a 8 - n)).modThread t h fun y => y.resumeRun.advance
  | _ => s

/-- A waiting `weir.take` receives the oldest descriptor (R193). -/
def State.takeGrant (s : State) (t h : Nat) : State :=
  match (s.tile t).waitOf h, (s.tile t).cq with
  | .take d, w :: r =>
    s.modTile t fun x =>
      let e := descEntry w
      let x := x.setEntry e { x.entry e with st := .taken, takenBy := some h, takenAt := x.takeCount }
      let x := { x with cq := r, takeCount := x.takeCount + 1 }
      x.setThread h ((x.thread h).resumeRun.setS d w).advance
  | _, _ => s

/-- What a thread that has ended still held is free once its passes and drains are over, whatever the thread does by then
(R178). -/
def Tile.unhold (x : Tile) : Tile :=
  { x with
    accs := x.accs.map fun a =>
      if a.2.releasing && !x.accBusy a.1 then (a.1, { a.2 with owner := none, releasing := false }) else a
    tq := x.tq.filter fun q => !q.discard || q.reading }

/-- `end` gives up the thread's accumulator indices and tailwater entries (R178). -/
def Tile.giveUp (x : Tile) (h : Nat) : Tile :=
  { x with
    accs := x.accs.map fun a => if a.2.owner == some h then (a.1, { a.2 with releasing := true }) else a
    tq := x.tq.map fun q => if q.thread == h then { q with discard := true } else q }

/-- The tile's context has held a thread that is not IDLE in the microsecond that runs (spec/16_water_book.md R438). -/
def Tile.wasHeld (x : Tile) : Tile := { x with ended := if x.ended.contains x.ctx then x.ended else x.ended ++ [x.ctx] }

/-- A thread that has ended, or was stopped by THREADS_KILL, is IDLE when nothing of it is outstanding (R169, R178). -/
def Tile.leave (x : Tile) (h : Nat) : Tile :=
  let y := x.thread h
  if y.ending && x.quiet h then
    x.wasHeld.setThread h { y with st := .idle, ending := false, wait := .none, busyS := [], busyV := [], vloads := [] }
  else x

/-- The wait of thread `h` ends, if it is over; its instruction is then complete or issues again. -/
def Tile.endWait (x : Tile) (h : Nat) : Tile :=
  match x.waitOver h with
  | some true => x.setThread h ((x.thread h).resumeRun.advance)
  | some false => x.setThread h ((x.thread h).resumeRun)
  | none => x

/-- Every thread of tile `t` that has ended leaves, every wait on the tile's own tables that is over ends, semaphores and
descriptors are granted in the rotating order of their units. -/
def State.leaveAll (s : State) (t : Nat) : State := s.modTile t fun x => (List.range 16).foldl Tile.leave x.unhold
def State.endWaits (s : State) (t : Nat) : State := s.modTile t fun x => (List.range 16).foldl Tile.endWait x
def State.semGrants (s : State) (t : Nat) : State := ((s.tile t).turn 1).foldl (fun s h => s.semGrant t h) s
def State.takeGrants (s : State) (t : Nat) : State := ((s.tile t).turn 3).foldl (fun s h => s.takeGrant t h) s

/-- One look at every thread of the tile; while issue is stopped every thread keeps its state (spec/14_faults_and_recovery.md
R375, R386). -/
def State.settleOnce (s : State) (t : Nat) : State :=
  if s.issueStopped t then s.leaveAll t else (((s.leaveAll t).endWaits t).semGrants t).takeGrants t

/-- A thread of set number `k` is left. -/
def State.setLeft (s : State) (k : Nat) (q : TSet) : Bool :=
  (List.range q.count).any fun i => (List.range 16).any fun h =>
    q.mask.getLsbD h && (s.thread (q.first + i) h).st != .idle && (s.thread (q.first + i) h).set == k

/-- A thread set none of whose threads is left returns to IDLE with a THREADS_ENDED event (spec/13 Table 13-8). -/
def State.endSet (s : State) (e : Nat × TSet) : State :=
  if s.setLeft e.1 e.2 then s
  else (s.putSets (Table.del s.sets e.1)).postPlain 6 (some e.2.ctx) (sourceOf 17 0) 0
    (eventData [e.1 % 256, e.2.first, e.2.count])

def State.endSets (s : State) : State := s.sets.foldl State.endSet s

/-- Everything that the present state of tile `t` releases (R138, R143, R146, R163, R193, R197). -/
def State.settle (s : State) (t : Nat) : State := (s.settleOnce t).endSets

/-! ### Faults (R172, R200-R203) -/

/-- The class of a fault cause; none for CLOSED (Table 7-20). -/
def causeClass (cause : Nat) : Option Nat :=
  match cause with
  | 0x06 => none
  | 0x10 => some 2
  | 0x20 => some 2
  | _ => some 1

/-- TILE_FAULT takes the first fault and counts a later one in OVF; of the faults of one core cycle it holds that of the
lowest-numbered thread (R172, R203). -/
def State.faultLatch (s : State) (t h cause pc acc : Nat) : State :=
  let valid := s.bit (TILE_FAULT t) TILE_FAULT_VALID
  let s := s.also valid fun s => s.setFld (TILE_FAULT t) TILE_FAULT_OVF 1
  if valid && !(((s.tile t).faultAt == s.cycle) && decide (h < s.fld (TILE_FAULT t) TILE_FAULT_THREAD)) then s
  else ((s.wr (TILE_FAULT t) (BitVec.ofNat 64
      (2 ^ 63 + flag (s.bit (TILE_FAULT t) TILE_FAULT_OVF) * 2 ^ 62 + h * 2 ^ 32 + acc * 2 ^ 16 + cause))).wr
    (TILE_FAULT_PC t) (BitVec.ofNat 64 (pc % 2 ^ 48))).modTile t fun x => { x with faultAt := s.cycle }

/-- The event of a fault cause (R200, Table 7-20). It names the accumulator index of cause 0x20 in EXTRA: R156 of
spec/06_flume_tile.md gives the index no field (log entry 70). -/
def State.faultEvent (s : State) (t h cause pc : Nat) (ctx : Nat) (acc : Nat := 0) : State :=
  match causeClass cause with
  | some c => s.raise { cls := c, src := sourceOf 1 t, code := h * 2 ^ 16 + cause, hw := cause == 0x10,
                        ctx := some ctx, detail := pc, extra := acc }
  | none => s

/-- Thread `h` stops with a fault at `pc`: TILE_FAULT, the event, STOPPED (R169, R172, R200). R169 lets the wavefronts in
flight leave the array and does not say what becomes of those that have not entered row 0, nor of the `mma` of the thread that
are queued: here its passes run to their end (DESIGN CHOICE, log entry 77). -/
def State.threadFault (s : State) (t h cause pc : Nat) (acc : Nat := 0) : State :=
  ((((s.faultLatch t h cause pc acc).modThread t h fun y => { y with st := .stopped, wait := .none }).faultEvent t h cause pc
    (s.tile t).ctx acc).settle t)

/-- The cause that a failed response gives (Table 7-20). -/
def rspCause : RspStatus → Nat
  | .ok => 0
  | .address => 0x04
  | .protection => 0x05
  | .closed => 0x06
  | .data => 0x10

/-- A response-time fault (R202). Of a thread that has stopped, responses to loads are discarded, while its stores, atomics
and stream lines go on, and a failure of one sets OVF (R169, R172). -/
def State.lateFault (s : State) (t h : Nat) (st : RspStatus) (pc : Nat) (load : Bool := false) : State :=
  let y := s.thread t h
  if st == .ok || (load && y.st == .stopped) || y.st == .idle then s else s.threadFault t h (rspCause st) pc

/-! ### Requests that leave the tile (R142, R143) -/

/-- Own tile SRAM. -/
def ownRange (t a n : Nat) : Bool := decide (t * tileBytes ≤ a) && decide (a + n ≤ (t + 1) * tileBytes)

/-- The channel of device-internal request and response cells: the spec says that a thread's cells use one channel
(spec/06_flume_tile.md R145) and gives it no number; 10, that of TC 5, is the model's choice (log entry 14). -/
def internalVc : Nat := 10

/-- One more outstanding request of thread `h` (R143). -/
def Tile.addOutst (x : Tile) (h pc : Nat) (w : Want) : Tile :=
  { x with reqTag := x.reqTag + 1, outst := x.outst ++ [⟨x.reqTag, h, pc, w⟩] }

/-- A request cell of thread `h`, remembered until its response returns. -/
def State.request (s : State) (t h pc addr : Nat) (k : ReqKind) (w : Want) : State :=
  let x := s.tile t
  (s.modTile t fun x => x.addOutst h pc w).inject (tileOutput t) internalVc
    (.req ⟨t, h, x.reqTag, x.ctx, s.genOf x.ctx, addr, k⟩)

/-! ### Streams (R143, R182) -/

def Tile.putStreams (x : Tile) (l : List Stream) : Tile := { x with streams := l }

/-- Stream `r` is given up: CC falls by every line not complete. -/
def Tile.dropStream (x : Tile) (r : Stream) : Tile :=
  (x.ccSub r.cc (r.lines - r.completed)).putStreams (x.streams.filter fun q => q.id != r.id)

/-- A failed line stops its stream, and the thread faults (R182). -/
def State.streamFail (s : State) (t : Nat) (r : Stream) (st : RspStatus) : State :=
  ((s.modTile t fun x => x.dropStream r).lateFault t r.thread st r.pc).settle t

/-- One more line of stream `r` is complete; with its last line the stream is done. -/
def Tile.lineDone (x : Tile) (r : Stream) : Tile :=
  (x.ccSub r.cc 1).putStreams (if r.completed + 1 = r.lines then x.streams.filter fun q => q.id != r.id
    else x.streams.map fun q => if q.id == r.id then { q with completed := q.completed + 1 } else q)

/-- One more line of stream `id` is complete (R143). -/
def State.streamDone (s : State) (t id : Nat) : State :=
  match (s.tile t).streams.find? fun r => r.id == id with
  | none => s
  | some r => s.modTile t fun x => x.lineDone r

/-- One more line of stream `id` has issued. -/
def State.streamIssued (s : State) (t id : Nat) : State :=
  s.modTile t fun x =>
    { x with streams := x.streams.map fun q => if q.id == id then { q with issued := q.issued + 1 } else q }

/-- The next line of stream `r` issues: local to local at once, else as a request cell. A line whose address no agent owns
completes with an address error (R142). -/
def State.streamLine (s : State) (t : Nat) (r : Stream) : State :=
  let s := s.streamIssued t r.id
  let l := r.localA + 64 * r.issued
  let a := r.remote + 64 * r.issued
  if s.agentOf a == .none then s.streamFail t r .address
  else if r.inbound then
    if s.inCombine t (l % tileBytes) 64 then s.streamFail t r .address
    else if ownRange t a 64 then
      if s.poisoned a 64 then (s.ueRead a).streamFail t r .data
      else (s.put l (s.bytes a 64)).streamDone t r.id
    else s.request t r.thread r.pc a (.load 64) (.streamIn r.id l)
  else if s.poisoned l 64 then (s.ueRead l).streamFail t r .data
  else if ownRange t a 64 then
    if s.inEngineRegion a 64 then s.streamFail t r .address
    else (s.put a (s.bytes l 64)).streamDone t r.id
  else s.request t r.thread r.pc a (.store (BitVec.allOnes 64) (BitVec.ofNat 512 (s.load l 64))) (.streamOut r.id)

/-- Lines issue, oldest stream first, while fewer than 512 request cells are outstanding (R143). -/
def State.pump (fuel : Nat) (s : State) (t : Nat) : State :=
  match fuel with
  | 0 => s
  | n + 1 =>
    if (s.tile t).outst.length < 512 then
      match (s.tile t).streams.find? fun r => decide (r.issued < r.lines) with
      | some r => State.pump n (s.streamLine t r) t
      | none => s
    else s

/-- Lines that the tile's streams have still to issue. -/
def Tile.linesLeft (x : Tile) : Nat := x.streams.foldl (fun n r => n + (r.lines - r.issued)) 0

/-- Streams go on while issue is not stopped, and waits end. -/
def State.run (s : State) (t : Nat) : State :=
  (if s.issueStopped t then s else State.pump ((s.tile t).linesLeft + 1) s t).settle t

/-! ### Issue (R138-R140, R177, R201) -/

/-- What an instruction does at issue. -/
inductive Issue where
  | next (s : State)
  | jump (s : State) (pc : Word)
  | wait (w : Wait)
  | waitIn (s : State) (w : Wait)
  | fault (cause : Nat) (acc : Nat := 0)

/-- The first failing check of R201, in the order given. -/
def firstFault (l : List (Bool × Nat)) : Option Nat := (l.find? Prod.fst).map Prod.snd

/-- The instruction at `pc` is in the cache. R140 gives 32 KiB, and neither the unit in which the cache fills nor what leaves
it when it is full: here it holds single words, and the oldest of 4,096 leaves (DESIGN CHOICE, log entry 77). -/
def Tile.cached (x : Tile) (pc : Nat) (w : Word) : Tile :=
  if Table.has x.icache pc then x
  else { x with icache := (if x.icache.length < 4096 then x.icache else x.icache.drop 1) ++ [(pc, w)] }

/-- The word that a fetch at `pc` gives: the cache's, which no store changes, else the memory's (R140). -/
def State.fetched (s : State) (t pc : Nat) : Nat :=
  match Table.look (s.tile t).icache pc with
  | some w => w.toNat
  | none => s.load pc 8

/-- The fetch that follows an instruction: a PC outside the tile's own SRAM or not a multiple of 8 faults (R177). -/
def State.fetch (s : State) (t h : Nat) : State :=
  let y := s.thread t h
  if y.st == .run && !(ownRange t y.pc.toNat 8 && y.pc.toNat % 8 == 0) then s.threadFault t h 0x02 y.pc.toNat else s

/-- The functions that each class of Table 7-1 defines, one bit for each; classes 0xD to 0xF define none (Tables 7-3 to
7-19). -/
def classFunctions : List Nat :=
  [0x7FFF, 0xF9FF, 0xF33F, 0xF, 0x3, 0xFFFF, 0xFF, 0xF, 0xF, 0x7, 0x7, 0x7F, 0x1FF]

/-- The class or the function of a word is reserved (R175). -/
def reservedOp (w : Nat) : Bool := !bitOf (classFunctions.getD (bitsOf w 60 4) 0) (bitsOf w 56 4)

/-- Tile `t` with the instruction at `pc` in its cache. -/
def State.cacheAt (s : State) (t pc : Nat) : State :=
  s.modTile t fun x => x.cached pc (BitVec.ofNat 64 (s.fetched t pc))

/-- Tile `t` with thread `h` as the one that `unit` accepted last (R138). -/
def State.unitTook (s : State) (t h unit : Nat) : State :=
  s.modTile t fun x => { x with rotate := Table.set natRank 15 x.rotate unit h }

/-- How the instruction at `pc` of thread `h` ends, by what it did at issue in state `s`. -/
def Issue.done (i : Issue) (s : State) (t h pc : Nat) : State :=
  match i with
  | .next s => ((s.modThread t h Thread.advance).fetch t h).run t
  | .jump s p => ((s.modThread t h fun y => { y with pc := p, issued := y.issued + 1 }).fetch t h).run t
  | .wait w => (s.modThread t h fun y => { y with st := .wait, wait := w }).run t
  | .waitIn s w => (s.modThread t h fun y => { y with st := .wait, wait := w }).run t
  | .fault c a => s.threadFault t h c pc a

/-- Thread `h` of tile `t` issues an instruction to `unit`: fetch, encoding, valid registers, then the instruction's own
checks and effect. Nothing happens unless the thread is in RUN and issue is not stopped. The command brings the word that the
thread has fetched; a fetched word whose class or function is reserved belongs to no row, whatever the command says (R175, log
entry 70). -/
def State.issue (s : State) (t h unit : Nat) (legal : Bool) (ss vs : List Nat) (body : State → Thread → Issue) : State :=
  let y := s.thread t h
  let pc := y.pc.toNat
  if !s.on || !s.bound t || s.issueStopped t || y.st != .run then s
  else if !ownRange t pc 8 || pc % 8 != 0 then s.threadFault t h 0x02 pc
  else if s.poisoned pc 8 && !Table.has (s.tile t).icache pc then (s.ueRead pc).threadFault t h 0x10 pc
  else
    let odd := reservedOp (s.fetched t pc)
    let s := s.cacheAt t pc
    if odd || !legal then s.threadFault t h 0x01 pc
    else if (ss.any fun r => y.busyS.contains r) || (vs.any fun r => y.busyV.contains r) then
      s.modThread t h fun y => { y with st := .wait, wait := .reg ss vs }
    else
      let s := s.unitTook t h unit
      (body s y).done s t h pc

/-! ### Fields of the instruction word (Table 7-2) -/

def fD (w : Nat) : Nat := bitsOf w 43 5
def fA (w : Nat) : Nat := bitsOf w 38 5
def fB (w : Nat) : Nat := bitsOf w 33 5
def fC (w : Nat) : Nat := bitsOf w 28 5
def fMK (w : Nat) : Nat := bitsOf w 25 3
def fMZ (w : Nat) : Bool := bitOf w 24
def fEXT (w : Nat) : Nat := bitsOf w 16 8
def fMOD (w : Nat) : Nat := bitsOf w 48 8
def fIMM38 (w : Nat) : Word := BitVec.ofInt 64 (signed 38 (bitsOf w 0 38))
def fIMM34 (w : Nat) : Word := BitVec.ofInt 64 (signed 34 (bitsOf w 0 34))
def fOFF33 (w : Nat) : Word := BitVec.ofInt 64 (signed 33 (bitsOf w 0 33))
def fCC (w : Nat) : Nat := bitsOf w 22 6
def fIMM22 (w : Nat) : Nat := bitsOf w 0 22

def useD : Nat := 0x1F <<< 43
def useA : Nat := 0x1F <<< 38
def useB : Nat := 0x1F <<< 33
def useC : Nat := 0x1F <<< 28
def useMask : Nat := 0xF <<< 24
def useMK : Nat := 0x7 <<< 25
def useEXT : Nat := 0xFF <<< 16
def useMOD : Nat := 0xFF <<< 48
def useIMM38 : Nat := 2 ^ 38 - 1
def useIMM34 : Nat := 2 ^ 34 - 1
def useOFF33 : Nat := 2 ^ 33 - 1
def useIMM43 : Nat := 2 ^ 43 - 1
def useCC : Nat := 0x3F <<< 22
def useIMM22 : Nat := 2 ^ 22 - 1
/-- The memory layout's MK and MZ. -/
def useMemMK : Nat := 0x7 <<< 35
def useMemMZ : Nat := 1 <<< 34

/-- Whether every bit of a word outside the fields it may use is zero (R174, R175). -/
def onlyUses (w used : Nat) : Bool := w &&& used == w

/-! ### Responses (R139, R142, R202) -/

/-- A scalar load or atomic's value as the register receives it. -/
def loadValue (size : Nat) (sext : Bool) (v : Nat) : Word :=
  if sext then BitVec.ofInt 64 (signed size (v % 2 ^ size)) else BitVec.ofNat 64 (v % 2 ^ size)

/-- One line of a vector load has returned; with the last one the register is written, unless a line failed. -/
def Thread.vline (y : Thread) (d off : Nat) (ok : Bool) (line : Nat) : Thread :=
  match Table.look y.vloads d with
  | none => y
  | some l =>
    let l := { l with
      got := if ok then l.got ||| BitVec.ofNat 2048 ((line % 2 ^ 512) <<< (8 * off)) else l.got
      failed := l.failed || !ok
      left := l.left - 1 }
    if l.left = 0 then
      let y := { y with vloads := Table.del y.vloads d, busyV := y.busyV.erase d }
      if l.failed then y else y.setV d ((l.got &&& l.mask) ||| (y.getV d &&& ~~~l.mask &&& ~~~l.zero))
    else { y with vloads := Table.put natRank y.vloads d l }

/-- What a response does for the thread or stream that asked (R169, R202). -/
def State.deliverResponse (s : State) (t : Nat) (o : Outst) (st : RspStatus) (v : Nat) : State :=
  let kept := (s.thread t o.thread).st != .stopped && !(s.thread t o.thread).ending
  let good := st == .ok
  match o.want with
  | .scalar d size sext =>
    (s.modThread t o.thread fun y =>
      let y := { y with busyS := y.busyS.erase d }
      if good && kept then y.setS d (loadValue size sext v) else y).lateFault t o.thread st o.pc true
  | .vector d off =>
    (s.modThread t o.thread fun y => y.vline d off (good && kept) v).lateFault t o.thread st o.pc true
  | .store => s.lateFault t o.thread st o.pc
  | .atomic d wide =>
    (s.modThread t o.thread fun y =>
      let y := { y with busyS := y.busyS.erase d }
      if good && kept then y.setS d (loadValue (if wide then 64 else 32) false v) else y).lateFault t o.thread st o.pc
  | .streamIn id l =>
    match (s.tile t).streams.find? fun r => r.id == id with
    | none => s
    | some r => if good then (s.put l (toBytes 64 v)).streamDone t id else s.streamFail t r st
  | .streamOut id =>
    match (s.tile t).streams.find? fun r => r.id == id with
    | none => s
    | some r => if good then s.streamDone t id else s.streamFail t r st

/-- A response reaches its tile: the outstanding request with its tag retires (R143). -/
def State.response (s : State) (t : Nat) (r : Response) : State :=
  match (s.tile t).outst.find? fun o => o.tag == r.tag && o.thread == r.thread with
  | none => s
  | some o =>
    let s := s.modTile t fun x => { x with outst := x.outst.filter fun q => q.tag != o.tag, inbox := x.inbox.erase (.rsp r) }
    (s.deliverResponse t o r.status r.data.toNat).run t

/-! ### Stopping threads (R169) -/

/-- THREADS_KILL of one thread: STOPPED, then IDLE when its outstanding requests are zero (R169). -/
def State.killThread (s : State) (t h : Nat) : State :=
  if (s.thread t h).st == .idle then s
  else
    let s := s.returnEntries t h
    let s := s.modTile t fun x =>
      let x := { x with
        mmaQ := x.mmaQ.filter fun o => o.thread != h
        mma := x.mma.filter fun o => o.thread != h
        tq := x.tq.filter fun q => q.thread != h
        accs := x.accs.map fun (a : Nat × Acc) => if a.2.owner == some h then (a.1, { a.2 with owner := none, pending := 0, releasing := false }) else a
        barrier := x.barrier.map fun (b : BitVec 16 × List Nat) => (b.1, b.2.erase h) }
      x.setThread h { x.thread h with st := .stopped, ending := true, wait := .none }
    s.settle t

/-- THREAD_HALT as written: bits that are set halt, bits that are clear resume (R170). -/
def State.applyHalt (s : State) (t mask : Nat) : State :=
  ((s.setFld (TILE_CTL t) TILE_CTL_THREAD_HALT mask).modTile t fun x => (List.range 16).foldl (fun x h =>
    let y := x.thread h
    if bitOf mask h then
      if (y.st == .run || y.st == .wait) && !y.ending then x.setThread h { y with st := .halted, resume := y.st } else x
    else if y.st == .halted then x.setThread h { y with st := y.resume } else x) x).settle t

end Sys2Proof.Machine
end

