-- ==== Sys2Proof/Machine/Watermaster.lean ====
section
/-! DEFINITION. Sys2Proof/Machine/Watermaster.lean: group records, control cells, acknowledgements, pond copies, seals,
voids, breaks, holds, completion records, and the recording of collectives (spec/09_collectives.md). -/

namespace Sys2Proof.Machine

/-! ### Group records (Table 9-2) -/

def groupAddr (s : State) (g : Nat) : Nat := (s.rd WM_BASE).toNat + 256 * g

/-- `n` bytes of a group record from byte `b`, little-endian. -/
def State.grp (s : State) (g b n : Nat) : Nat := s.load (groupAddr s g + b) n
def State.setGrp (s : State) (g b n v : Nat) : State := s.store (groupAddr s g + b) n v

def State.gCtx (s : State) (g : Nat) : Nat := s.grp g 0 2 % 4096
def State.gHandle (s : State) (g : Nat) : Nat := s.grp g 2 2 % 4096
/-- STATE: 0 UNBOUND, 1 BOUND, 2 ACTIVE, 3 HOLD, 4 DRAINING; an uncorrectable record is not VALID (Table 11-3a). -/
def State.gState (s : State) (g : Nat) : Nat := if s.poisoned (groupAddr s g) 256 then 0 else s.grp g 4 1 % 8
def State.setGState (s : State) (g v : Nat) : State := s.setGrp g 4 1 v
def State.gRoot (s : State) (g : Nat) : Bool := bitOf (s.grp g 5 1) 0
def State.gReplay (s : State) (g : Nat) : Bool := bitOf (s.grp g 5 1) 1
def State.gRecording (s : State) (g : Nat) : Bool := bitOf (s.grp g 5 1) 2
def State.setGBit (s : State) (g byte bit : Nat) (v : Bool) : State := s.setGrp g byte 1 (putBits (s.grp g byte 1) bit 1 (flag v))
def State.gRedId (s : State) (g : Nat) : Nat := s.grp g 16 4
def State.gStep (s : State) (g : Nat) : Nat := s.grp g 20 4
def State.gChunks (s : State) (g : Nat) : Nat := s.grp g 24 4
def State.gWindow (s : State) (g : Nat) : Nat := s.grp g 28 2 % 8192
def State.gUp (s : State) (g : Nat) : Nat := s.grp g 32 4 % 2 ^ 20
def State.gDown (s : State) (g : Nat) : Nat := s.grp g 36 4 % 2 ^ 20
def State.gLow (s : State) (g : Nat) : Nat := s.grp g 40 4

/-- The group records in use. -/
def State.groupsBound (s : State) : List Nat :=
  (s.listed (s.rd WM_BASE).toNat (1024 * 256) 256).filter fun g => s.gState g != 0

/-- The group that a context and a handle name (R364). -/
def State.findGroup (s : State) (ctx handle : Nat) : Option Nat :=
  s.groupsBound.find? fun g => s.gCtx g == ctx && s.gHandle g == handle

/-! ### Chunks -/

/-- A chunk of the current collective; one that nothing has touched has the attempt that a resume gave (R256). -/
def Group.at_ (x : Group) (c : Nat) : Chunk :=
  match Table.look x.chunks c with
  | some y => y
  | none => { Chunk.init with attempt := x.attempt0 }

def State.putChunk (s : State) (g c : Nat) (y : Chunk) : State :=
  s.modGroup g fun x => { x with chunks := Table.put natRank x.chunks c y }

def State.chunkOf (s : State) (g c : Nat) : Chunk := (s.group g).at_ c

/-- Whether chunk `c` has entered the window and is not sealed (R243, R246, R251). -/
def State.chunkOpen (s : State) (g c : Nat) : Bool :=
  let w := s.gWindow g
  let l := (s.group g).sealed
  s.gState g == 2 && decide (c < s.gChunks g) && !l.contains c && (decide (c < w) || l.contains (c - w))

/-- The chunks in the window that are not sealed, in ascending order. -/
def State.openChunks (s : State) (g : Nat) : List Nat :=
  let w := s.gWindow g
  let l := (s.group g).sealed
  ((List.range (min w (s.gChunks g)) ++ l.map (· + w)).filter fun c => s.chunkOpen g c).mergeSort
    fun a b => decide (a ≤ b)

/-! ### Control cells (Tables 9-4 and 9-5) -/

def ctlAck : Nat := 1
def ctlNack : Nat := 2
def ctlSeal : Nat := 1
def ctlVoid : Nat := 2
def ctlBreak : Nat := 3
def ctlStart : Nat := 4
def ctlHold : Nat := 5
def ctlDone : Nat := 6
def ctlVoidReq : Nat := 7

/-- CHUNK of a cell about the whole collective. -/
def wholeColl : Nat := 0xFFFFFFFF

def cChunk (c : Cell) : Nat := payNum c.pay 0 4
def cStep (c : Cell) : Nat := payNum c.pay 4 4
def cRedId (c : Cell) : Nat := payNum c.pay 8 4
def cKind (c : Cell) : Nat := payNum c.pay 12 1
def cAttempt (c : Cell) : Nat := payNum c.pay 13 1
def cFlags (c : Cell) : Nat := payNum c.pay 14 1
def cReason (c : Cell) : Nat := payNum c.pay 15 1
def cCount (c : Cell) : Nat := payNum c.pay 18 2
def cBody (c : Cell) (i n : Nat) : Nat := payNum c.pay i n

/-- The watermaster sends nothing in the safe state, nothing for a context that is not open, and nothing of a replay
(spec/14_faults_and_recovery.md R375, R396; R261). -/
def State.wmMute (s : State) (g : Nat) : Bool := s.egressBlocked || !s.ctxOpen (s.gCtx g) || s.gReplay g

/-- A circuit-form cell of the module enters the crossbar as a local input. -/
def State.wmInject (s : State) (g vc : Nat) (c : Cell) : State :=
  if s.wmMute g then s else s.inject mgmtOutput vc (.cell c)

/-- A control cell of group `g` sent on a label (R236, R239). -/
def State.sendCtl (s : State) (g type kind chunk label attempt flags reason count : Nat) (body : Nat := 0) : State :=
  let p := payFields [(0, 4, chunk), (4, 4, s.gStep g), (8, 4, s.gRedId g), (12, 1, kind), (13, 1, attempt),
    (14, 1, flags), (15, 1, reason), (16, 2, s.switchId), (18, 2, count), (24, 8, s.grp g 8 8), (32, 32, body)]
  s.wmInject g 6 ⟨circuitHdr type 3 label (chunk % 2 ^ 27 * 128) (s.gCtx g) (s.genOf (s.gCtx g))
    (Config.ownSrc s.switchId).toNat (s.gHandle g) 64, p⟩

/-- A cell sent on again on another label, otherwise unchanged, PH with the rest (R26, R236, R248,
spec/01_architecture.md R23). -/
def relabel (h label : Nat) : Hdr := sealHdr (putBits h 100 20 label)

/-! ### Recording (R260, Table 9-10) -/

/-- A record of `payload` written to the ring while recording is on and its STEP lies in the range. -/
def State.recordRing (s : State) (g chunk step red node slot fmtop flags elems ccrc : Nat) (payload : List Byte) : State :=
  let first := s.grp g 88 4
  if s.gRecording g && decide (first ≤ step) && decide (step < first + s.grp g 92 4) then
    let pay := if bitOf (s.grp g 96 1) 1 then payload else []
    let n := 64 + pay.length
    let w := s.grp g 80 8
    if w + n ≤ s.grp g 72 8 then
      let x := s.group g
      let b := toBytes 4 chunk ++ toBytes 4 step ++ toBytes 4 red ++ toBytes 2 node ++ toBytes 2 slot ++
        toBytes 1 fmtop ++ toBytes 1 flags ++ toBytes 2 elems ++ toBytes 4 ccrc ++ toBytes 4 pay.length ++
        toBytes 4 x.recSeq ++ List.replicate 32 0 ++ pay
      ((s.put (s.grp g 64 8 + w) b).setGrp g 80 8 (w + n)).setGroup g { x with recSeq := x.recSeq + 1 }
    else
      ((s.setGBit g 5 2 false).setGBit g 96 0 true).notice 0 0x0013 (sourceOf 8 0) (s.gHandle g) 0 (some (s.gCtx g))
  else s

/-- Bit 7 of a record's FLAGS. -/
def State.parity (s : State) (g c : Nat) : Nat := (s.chunkOf g c).attempt % 2 * 128

/-- The marker of a void of chunk `c`, one record. What its node and head fields hold the spec does not say: they are free
values (log entry 7). -/
def State.recordVoid (s : State) (g c : Nat) : State :=
  let (f, s) := s.free
  s.recordRing g c (s.gStep g) (s.gRedId g) (bitsOf f.toNat 48 15) 0xFFFE (bitsOf f.toNat 0 8)
    (bitsOf f.toNat 8 7 + s.parity g c) (bitsOf f.toNat 16 16) (bitsOf f.toNat 32 16) []

/-! ### Voids at this module (R250, R218) -/

/-- Entries of the group's nodes that are not FREE: tile, entry, chunk. -/
def State.groupEntries (s : State) (g : Nat) : List (Nat × Nat × Nat) :=
  (s.group g).nodes.flatMap fun n =>
    ((s.tile n.1).entries.filter fun e => e.2.st != .free && e.2.node == n.2).map fun e => (n.1, e.1, e.2.chunk)

/-- DRAINING ends when every entry of the group is FREE and its pond copies are freed (Table 9-3). -/
def State.drained (s : State) : State :=
  s.groupsBound.foldl (fun s g =>
    if s.gState g == 4 && (s.groupEntries g).isEmpty && (s.group g).chunks.all (fun c => c.2.pond.isNone) then
      s.setGState g 1
    else s) s

/-- The Weir entries that hold a chunk which `p` selects are voided. -/
def State.voidEntries (s : State) (g : Nat) (p : Nat → Bool) : State :=
  ((s.groupEntries g).filter fun e => p e.2.2).foldl (fun s e => (s.voidEntry e.1 e.2.1).run e.1) s

/-- The pond copy of chunk `c` freed (R244, R250). -/
def State.freePond (s : State) (g c : Nat) : State :=
  let y := s.chunkOf g c
  match (s.group g).pond with
  | none => s
  | some o =>
    let granted := (s.grants.filter fun e => e.1.asker == .chunk g c).map Prod.snd
    let s := (s.putWaiters (s.waiters.filter fun w => w.asker != .chunk g c)).putGrants
      (s.grants.filter fun e => e.1.asker != .chunk g c)
    let s := if y.pond.isSome || !y.pondWait.isEmpty then s.putChunk g c { y with pond := none, pondWait := [] } else s
    (y.pond.toList ++ granted).foldl (fun s h => s.poolFreeHandle 1 o h) s

/-- A void of chunk `c` with its new attempt takes effect: entries voided, pond copy freed, ACK count cleared. -/
def State.voidHere (s : State) (g c attempt : Nat) : State :=
  let s := s.freePond g c
  let y := s.chunkOf g c
  let s := s.putChunk g c { Chunk.init with attempt := attempt, voids := y.voids }
  let s := s.modGroup g fun x => { x with maxAttempt := max x.maxAttempt attempt }
  ((s.recordVoid g c).voidEntries g (· == c)).drained

/-- VOIDS of the record and WM_VOIDS (R262). -/
def State.countVoid (s : State) (g : Nat) : State := (s.count WM_VOIDS).setGrp g 44 4 (s.grp g 44 4 + 1)

/-! ### Hold and completion -/

/-- The group enters HOLD at this module with its class C event (R251, R256); one that is held already takes the new
reason. -/
def State.enterHold (s : State) (g reason : Nat) : State :=
  if s.gState g = 3 then s.setGrp g 6 1 reason
  else
    let s := ((s.setGState g 3).setGrp g 6 1 reason).count WM_HOLDS
    let s := s.modGroup g fun x => { x with holds := x.holds + 1, settling := false, breaks := [] }
    s.notice 1 0x0012 (sourceOf 8 0) (s.gHandle g + s.gRedId g * 2 ^ 32) reason (some (s.gCtx g))

/-- The root sends HOLD and holds. REASON carries the code of HOLD_REASON. -/
def State.rootHold (s : State) (g reason : Nat) : State :=
  (s.sendCtl g 10 ctlHold wholeColl (s.gDown g) 0 0 reason 0).enterHold g reason

/-- The completion record of Table 9-7 as the root forms it. -/
def State.completion (s : State) (g status : Nat) : Nat :=
  let x := s.group g
  let all := decide (x.sealed.length = s.gChunks g) && x.allEmpty
  ofBytes (toBytes 4 x.sealed.length ++ toBytes 4 x.emptyChunks ++ toBytes 4 (s.grp g 44 4) ++ toBytes 2 (s.grp g 48 2) ++
    toBytes 2 x.holds ++ toBytes 1 (x.flags % 16 + 16 * flag all) ++ toBytes 1 status ++ toBytes 1 x.maxAttempt ++
    toBytes 1 0 ++ toBytes 8 (s.cycle - x.start) ++ toBytes 4 0)

/-- A completion record taken into LAST_DONE, the state it leaves, and the COLL_DONE event (R245). -/
def State.takeDone (s : State) (g r state : Nat) : State :=
  let s := (s.setGrp g 192 32 r).setGState g state
  s.postPlain 4 (some (s.gCtx g)) (sourceOf 8 0) 0
    (eventData [s.gHandle g, s.gRedId g, s.gStep g, s.grp g 8 8] ++ toBytes 32 r)

/-- The root ends the collective: record and event first, then DONE (R245). -/
def State.finish (s : State) (g status state : Nat) : State :=
  let r := s.completion g status
  (s.takeDone g r state).sendCtl g 10 ctlDone wholeColl (s.gDown g) 0 0 0 0 r

/-! ### Seals (R244) -/

/-- LOW_UNSEALED after a seal. -/
def lowUnsealed (l : List Nat) : Nat → Nat → Nat
  | 0, c => c
  | n + 1, c => if l.contains c then lowUnsealed l n (c + 1) else c

/-- Chunk `c` is sealed at this module: pond copy freed, LOW_UNSEALED raised, flags kept for the completion record. -/
def State.sealHere (s : State) (g c flags : Nat) : State :=
  if (s.group g).sealed.contains c || decide (s.gChunks g ≤ c) then s
  else
    let s := s.freePond g c
    let x := s.group g
    let y := x.at_ c
    let empty := bitOf flags 4
    let l := c :: x.sealed
    let s := s.setGroup g
      { x with sealed := l, flags := x.flags ||| flags % 16, emptyChunks := x.emptyChunks + flag empty,
               allEmpty := x.allEmpty && empty,
               chunks := Table.put natRank x.chunks c
                 { Chunk.init with attempt := y.attempt, flags := flags, empty := empty, voids := y.voids } }
    (s.setGrp g 40 4 (lowUnsealed l l.length (s.gLow g))).drained

/-- SEAL of a sealed chunk sent on the DOWN-CTL tree, the first time or again (R244, R255). -/
def State.sendSeal (s : State) (g c : Nat) : State :=
  let y := s.chunkOf g c
  (s.count WM_SEALS).sendCtl g 10 ctlSeal c (s.gDown g) y.attempt y.flags 0 0

/-- The root seals chunk `c`; after the last chunk it ends the collective (R244, R245). -/
def State.rootSeal (s : State) (g c : Nat) : State :=
  if s.egressBlocked then s
  else
    let y := s.chunkOf g c
    let s := (s.sealHere g c (y.flags % 16 + 16 * flag y.empty)).sendSeal g c
    if (s.group g).sealed.length = s.gChunks g then s.finish g (if (s.group g).resumed then 2 else 0) 1 else s

/-- The reseal set sent again (R255, R256). -/
def State.reseal (s : State) (g : Nat) : State :=
  let low := s.gLow g
  let w := s.gWindow g
  (((s.group g).sealed.filter fun c => decide (low ≤ c + w) && decide (c < low + w)).mergeSort
    fun a b => decide (a ≤ b)).foldl (fun s c => s.sendSeal g c) s

/-- Whether every branch has acknowledged chunk `c` in its attempt. -/
def State.allAcked (s : State) (g c : Nat) : Bool :=
  decide (s.grp g 30 2 % 2048 ≤ (s.chunkOf g c).acked.length)

/-- What the acknowledgements held for chunk `c` allow: the root's seal, or this module's ACK once its own pond copy has
passed CCRC; a module that the DOWN-DATA tree does not pass keeps no copy (R243, R244, R247). -/
def State.tryAck (s : State) (g c : Nat) : State :=
  if !(s.chunkOpen g c && s.allAcked g c) then s
  else if s.gRoot g then s.rootSeal g c
  else
    let y := s.chunkOf g c
    if y.selfAcked || !(y.pondGood || (s.group g).pond.isNone) then s
    else
      (s.putChunk g c { y with selfAcked := true }).sendCtl g 9 ctlAck c (s.gUp g) y.attempt y.flags 0 (min y.count 65535)

/-- Whether an ACK or NACK names the current attempt of an open chunk (R243). -/
def State.ackCurrent (s : State) (g : Nat) (k : Cell) : Bool :=
  s.chunkOpen g (cChunk k) && (s.chunkOf g (cChunk k)).attempt == cAttempt k

/-- An ACK of branch `b` (R243, R244). -/
def State.ackHere (s : State) (g b : Nat) (k : Cell) : State :=
  let c := cChunk k
  if !s.ackCurrent g k then s.count WM_ACK_STALE
  else
    let y := s.chunkOf g c
    if y.acked.contains b then s
    else
      (s.putChunk g c { y with acked := b :: y.acked, flags := y.flags ||| cFlags k, count := y.count + cCount k }).tryAck g c

/-- CHUNK_FLAGS of one of the module's own nodes, and EMPTY of a root's own entry (R243, R244). -/
def State.nodeFlags (s : State) (g c flags : Nat) (empty : Bool) : State :=
  if s.chunkOpen g c then
    let y := s.chunkOf g c
    s.putChunk g c { y with flags := y.flags ||| flags, empty := y.empty || empty }
  else s

/-! ### Voids decided by the root (R250-R252) -/

/-- The root voids chunk `c`, or holds at RETRY_LIMIT. -/
def State.rootVoid (s : State) (g c reason : Nat) (abort : Bool := false) : State :=
  if s.egressBlocked then s
  else
    let y := s.chunkOf g c
    if !abort && decide (max 1 (s.fld WM_CFG WM_CFG_RETRY_LIMIT) ≤ y.voids) then s.rootHold g 2
    else
      let a := (y.attempt + 1) % 256
      let s := s.putChunk g c { y with voids := y.voids + 1 }
      let s := s.sendCtl g 10 ctlVoid c (s.gDown g) a (if abort then 64 else 32) reason 0
      (s.countVoid g).voidHere g c a

/-- The ACKs of chunk `c` in its attempt that have reached the watermaster by cycle `now` and wait: the root seals when the
last one is among them (R252). -/
def State.ackWaits (s : State) (g c now : Nat) : List (Nat × Nat × Cell) :=
  s.wmInbox.filter fun e => decide (e.2.1 ≤ now) && hType e.2.2.h == 9 && cKind e.2.2 == ctlAck && cChunk e.2.2 == c &&
    s.findGroup (hCtx e.2.2.h) (hTag e.2.2.h) == some g && s.ackCurrent g e.2.2

/-- A VOID_REQ that reached the root in cycle `now` (R252): the last ACK of the same core cycle goes first. -/
def State.rootVoidReq (s : State) (g c attempt reason now : Nat) : State :=
  if s.chunkOpen g c && (s.chunkOf g c).attempt == attempt then
    let l := s.ackWaits g c now
    if s.grp g 30 2 % 2048 ≤ (((s.chunkOf g c).acked ++ l.map Prod.fst).eraseDups).length then
      (l.foldl (fun s e => (s.putWmInbox (s.wmInbox.erase e)).ackHere g e.1 e.2.2) s).count WM_ACK_STALE
    else s.rootVoid g c reason
  else s.count WM_ACK_STALE

/-- This module asks for a void of chunk `c` (R248, R249). -/
def State.voidRequest (s : State) (g c reason : Nat) : State :=
  if !s.chunkOpen g c then s
  else
    let a := (s.chunkOf g c).attempt
    if s.gRoot g then s.rootVoidReq g c a reason s.cycle
    else s.sendCtl g 10 ctlVoidReq c (s.gUp g) a 0 reason 0

/-- A void asked for by a Weir, for the group that a context and a handle name. -/
def State.voidRequestOf (s : State) (ctx handle c reason : Nat) : State :=
  match s.findGroup ctx handle with
  | some g => s.voidRequest g c reason
  | none => s

/-- The open chunk of a group whose index modulo 2^27, the part of it that SEQ holds, is `n` (spec/02_cells_and_routes.md R32);
with `r` above 1, that of which `n` names one of `r` carry pieces (spec/08_weir_reduction.md R222). -/
def State.chunkNamed (s : State) (g n r : Nat) : Option Nat :=
  (s.openChunks g).find? fun c => c % (2 ^ 27 / r) == n / r

/-- Carry pieces of a chunk of the group: those of its nodes on this module; of a group with none here, every number of them
that a format gives (spec/08_weir_reduction.md R222). -/
def State.pieceCounts (s : State) (g : Nat) : List Nat :=
  match (s.group g).nodes with
  | [] => [2, 4, 8, 16]
  | l => ((l.map fun n => nPieces (s.nodeRec n.1 n.2)).filter fun r => decide (1 < r)).eraseDups

/-- The chunk of which cell `k` is one. A head says by CARRY32 whether it is a carry piece, a data cell does not: of the
chunks that its SEQ may mean the first that is open is taken, as a whole chunk before a piece (log entry 78). -/
def State.chunkOfCell (s : State) (g : Nat) (k : Cell) : Option Nat :=
  let pieces := s.pieceCounts g
  let ways := if hType k.h == 8 then (if bitOf (payNum k.pay 15 1) 3 then pieces else [1]) else 1 :: pieces
  ways.findSome? fun r => s.chunkNamed g (hChunk k.h) r

/-- A cell of an open chunk lost at this module (R249): the root is asked for a void. Which REASON such a VOID_REQ carries
the spec does not say: a free value (log entry 7). -/
def State.chunkLost (s : State) (k : Cell) : State :=
  if (hType k.h == 8 || hType k.h == 2) && hTc k.h == 2 then
    match s.findGroup (hCtx k.h) (hTag k.h) with
    | some g =>
      match s.chunkOfCell g k with
      | some c =>
        let (f, s) := s.free
        s.voidRequest g c (bitsOf f.toNat 0 8)
      | none => s
    | none => s
  else s

/-! ### Pond copies (R242, R247, R248) -/

/-- Payload cells of a chunk by its head; none for a reserved format. -/
def headCells (p : Payload) : Option Nat :=
  let f := payNum p 14 1 % 16
  if bitOf (payNum p 15 1) 1 then some 0
  else if 1 ≤ fmtPerCell f then some (fmtScaleCells f + 64) else none

/-- The pond copy re-sent to one branch (R248). -/
def State.resend (s : State) (g c branch : Nat) : State :=
  let y := s.chunkOf g c
  match y.pond with
  | none => s.voidRequest g c 3
  | some h =>
    let a := handleAddr h
    let e := s.load (s.grp g 56 8 + 8 * branch) 8
    let sent := Table.get 0 y.nacks branch
    if s.poisoned a (80 * (y.pondCells + 1)) then s.voidRequest g c 3
    else if max 1 (s.fld WM_CFG WM_CFG_NACK_LIMIT) ≤ sent then s.voidRequest g c 4
    else if !bitOf e 63 then s
    else
      let s := s.putChunk g c { y with nacks := Table.set natRank 0 y.nacks branch (sent + 1) }
      (List.range (y.pondCells + 1)).foldl (fun s i =>
        let k := Cell.ofImage (s.bytes (a + 80 * i) 80)
        s.wmInject g (hVc k.h) ⟨relabel k.h (e % 2 ^ 20), k.pay⟩) s

/-- The branches that wait for a good copy are answered. -/
def State.serveNacks (s : State) (g c : Nat) : State :=
  let y := s.chunkOf g c
  y.waitNack.foldl (fun s b => s.resend g c b) (s.putChunk g c { y with waitNack := [] })

/-- The copy of chunk `c` is whole: CCRC decides (R242, R243, R248). -/
def State.pondWhole (s : State) (g c : Nat) (good : Bool) : State :=
  let y := s.chunkOf g c
  let s := s.putChunk g c { y with pondGood := good, pondBad := !good }
  if good then (s.serveNacks g c).tryAck g c
  else if s.gRoot g then s
  else s.sendCtl g 9 ctlNack c (s.gUp g) y.attempt 0 9 0

/-- The buffer of chunk `c`: one that it has been granted, else one of pool 1, for which the watermaster waits in the waiter
list while there is none (R247; spec/11_memory_and_pools.md R310). -/
def State.pondBuffer (s : State) (g c : Nat) : Option Word × State :=
  let granted (s : State) : Option (Waiter × Word) := s.grants.find? fun e => e.1.asker == .chunk g c
  match (s.group g).pond with
  | none => (none, s)
  | some o =>
    let s := if (granted s).isSome || s.waiters.any (fun w => w.asker == .chunk g c) then s
      else s.poolAlloc ⟨.watermaster, 1, o, .chunk g c⟩ true
    match granted s with
    | some e => (some e.2, s.putGrants (s.grants.erase e))
    | none => (none, s)

/-- Pond copies of every chunk that `p` selects freed. -/
def State.freePonds (s : State) (g : Nat) (p : Nat → Bool) : State :=
  ((s.group g).chunks.filter fun e => p e.1 && (e.2.pond.isSome || !e.2.pondWait.isEmpty)).foldl (fun s e => s.freePond g e.1) s

/-- The head of a chunk written into the pond buffer `h` (R242). -/
def State.pondHead (s : State) (g c : Nat) (h : Word) (k : Cell) : State :=
  let s := s.put (handleAddr h) k.image
  let s := s.putChunk g c
    { s.chunkOf g c with pond := some h, pondWait := [], pondCells := 0, pondCrc := 0,
                         pondWant := BitVec.ofNat 32 (payNum k.pay 60 4), pondGood := false, pondBad := false }
  match headCells k.pay with
  | none => s.pondWhole g c false
  | some 0 => s.pondWhole g c true
  | some _ => s

/-- A data cell of a chunk written into its pond buffer `h`: cell `p` lies at 80 x `p` (R242, R247). -/
def State.pondData (s : State) (g c : Nat) (h : Word) (k : Cell) : State :=
  let y := s.chunkOf g c
  let n := (headCells (Cell.ofImage (s.bytes (handleAddr h) 80)).pay).getD 0
  let p := hPos k.h
  if y.pondGood || y.pondBad || p = 0 || n < p then s
  else
    let crc := crc32cFrom y.pondCrc.toNat (payBytes k.pay)
    let s := s.put (handleAddr h + 80 * p) k.image
    let s := s.putChunk g c { y with pondCells := p, pondCrc := BitVec.ofNat 32 crc }
    if p = n then s.pondWhole g c (crc == y.pondWant.toNat) else s

/-- A DOWN-DATA cell that meets a tree entry is written into the pond buffer of its chunk, or waits for one (R242, R247). -/
def State.pondCopy (s : State) (k : Cell) : State :=
  match s.findGroup (hCtx k.h) (hTag k.h) with
  | none => s
  | some g =>
    let x := s.group g
    let isHead := hType k.h == 8
    let c := if isHead then cChunk k else (s.chunkNamed g (hChunk k.h) 1).getD (hChunk k.h)
    if s.gState g != 2 || x.pond.isNone || decide (s.gChunks g ≤ c) || x.sealed.contains c then s
    else
      let y := x.at_ c
      match y.pond, isHead with
      | some h, true => s.pondHead g c h k
      | some h, false => s.pondData g c h k
      | none, false => if y.pondWait.isEmpty then s else s.putChunk g c { y with pondWait := y.pondWait ++ [k] }
      | none, true =>
        match s.pondBuffer g c with
        | (some h, s) => s.pondHead g c h k
        | (none, s) =>
          if s.waiters.any fun w => w.asker == .chunk g c then s.putChunk g c { y with pondWait := [k] } else s

/-- A buffer granted to a chunk that waited takes the cells that wait for it (spec/11_memory_and_pools.md R310). -/
def State.pondGranted (s : State) : State :=
  s.grants.foldl (fun s e =>
    match e.1.asker with
    | .chunk g c =>
      match (s.chunkOf g c).pondWait with
      | k :: l =>
        l.foldl (fun s d => s.pondData g c e.2 d) ((s.putGrants (s.grants.erase e)).pondHead g c e.2 k)
      | [] => s
    | _ => s) s

/-! ### Collectives (R240, R256) -/

/-- RED_ID written into every node record of the group on the module. -/
def State.nodesRedId (s : State) (g : Nat) : State :=
  (s.group g).nodes.foldl (fun s n => s.store (s.nodeAddr n.1 n.2) 4 (s.gRedId g)) s

/-- A collective starts at this module: nothing of an earlier one is left. -/
def State.startHere (s : State) (g red step weight : Nat) : State :=
  let s := ((s.setGrp g 16 4 red).setGrp g 20 4 step).setGrp g 7 1 weight
  let s := (((s.setGState g 2).setGrp g 6 1 0).setGrp g 40 8 0).setGrp g 48 2 0
  let s := s.freePonds g fun _ => true
  let s := s.modGroup g fun x =>
    { x with chunks := [], sealed := [], start := s.cycle, emptyChunks := 0, flags := 0, allEmpty := true, holds := 0,
             maxAttempt := 0, attempt0 := 0, resumed := false, breaks := [], settling := false, settled := false }
  s.nodesRedId g

/-- A resume: every unsealed chunk from `first` takes attempt `a`, its entries voided, its pond copy and ACK count gone
(R256). -/
def State.resumeHere (s : State) (g first a : Nat) : State :=
  let s := (s.setGState g 2).setGrp g 6 1 0
  let l := (s.group g).sealed
  let late (c : Nat) : Bool := decide (first ≤ c) && !l.contains c
  let s := s.freePonds g late
  let s := s.modGroup g fun x =>
    { x with attempt0 := a, maxAttempt := a, resumed := true, breaks := [], settling := false, settled := false,
             chunks := x.chunks.map fun e =>
               if late e.1 then (e.1, { Chunk.init with attempt := a, voids := e.2.voids }) else e }
  s.voidEntries g late

/-- BODY of START (Table 9-5). -/
def State.startBody (s : State) (g first : Nat) : Nat :=
  s.gChunks g + s.gWindow g * 2 ^ 32 + s.grp g 7 1 * 2 ^ 48 + first * 2 ^ 64

/-- COLL_START of a BOUND group at its root (R240). -/
def State.collStart (s : State) (g red step weight : Nat) : State :=
  let s := s.startHere g red step weight
  s.sendCtl g 10 ctlStart wholeColl (s.gDown g) 0 0 0 0 (s.startBody g 0)

/-- COLL_START of a held group at its root (R256). -/
def State.collResume (s : State) (g : Nat) : State :=
  let s := s.reseal g
  let a := ((s.group g).maxAttempt + 1) % 256
  let low := s.gLow g
  let s := s.sendCtl g 10 ctlStart wholeColl (s.gDown g) a 128 0 0 (s.startBody g low)
  s.resumeHere g low a

/-- COLL_ABORT at the root (Table 9-3): every unsealed chunk voided with ABORT, DONE, DRAINING; a replay ends with it. -/
def State.collAbort (s : State) (g : Nat) : State :=
  let s := if s.gState g == 3 then s.setGState g 2 else s
  let l := (s.group g).sealed
  let s := ((List.range (s.gChunks g)).filter fun c => !l.contains c).foldl (fun s c => s.rootVoid g c 7 true) s
  ((s.finish g 1 4).setGBit g 5 1 false).drained

/-! ### Breaks (R254-R256) -/

/-- BODY of BREAK for a failed port (Table 9-5). -/
def State.breakBody (s : State) (port : Nat) (rebound : Bool) : Payload :=
  BitVec.ofNat 512 (port + s.fld (PORT_ROLE port) PORT_ROLE_PEER_ID * 2 ^ 16 + (if rebound then 1 else 2) * 2 ^ 40)

/-- Steps 1 to 3 of R255. -/
def State.breakSteps (s : State) (g : Nat) : State :=
  let l := (s.group g).breaks
  let s := (s.modGroup g fun x => { x with breaks := [] }).reseal g
  let s := l.foldl (fun s b => (s.count WM_BREAKS).sendCtl g 10 ctlBreak wholeColl (s.gDown g) 0 0 5 0 b.toNat) s
  (s.openChunks g).foldl (fun s c => if s.gState g == 2 then s.rootVoid g c 5 else s) s

/-- A BREAK reaches the root, its own included (R255, R256). -/
def State.rootBreak (s : State) (g : Nat) (body : Payload) : State :=
  if s.gState g != 2 && s.gState g != 3 then s
  else
    let s := s.setGrp g 48 2 (s.grp g 48 2 + 1)
    if s.gState g != 2 then s
    else if payNum body 5 1 != 1 then s.rootHold g 1
    else
      let s := s.modGroup g fun x => { x with breaks := x.breaks ++ [body] }
      if (s.group g).settled then s.breakSteps g else s.modGroup g fun x => { x with settling := true }

/-- This module reports the failure of a port to the root of group `g` (R254), or finds that it cannot reach it (R256). -/
def State.reportBreak (s : State) (g port : Nat) (rebound : Bool) : State :=
  let b := s.breakBody port rebound
  if s.gRoot g then s.rootBreak g b
  else
    let up := s.circuit (s.gUp g)
    if up.valid && up.state == 0 then
      (s.count WM_BREAKS).sendCtl g 10 ctlBreak wholeColl (s.gUp g) 0 0 5 0 b.toNat
    else if s.gState g == 2 then s.enterHold g 4 else s

/-! ### Meanings: cells on UP-CTL labels (R236) -/

/-- A control cell reaches the watermaster from a branch, or, as branch 2,048, on the DOWN-CTL tree. -/
def State.wmArrive (s : State) (b : Nat) (k : Cell) : State := s.putWmInbox (s.wmInbox ++ [(b, s.cycle, k)])

/-- The core cycle in which a control cell reached the watermaster: this one unless it waits. -/
def State.wmReached (s : State) (b : Nat) (k : Cell) : Nat :=
  ((s.wmInbox.find? fun e => e.1 == b && e.2.2 == k).map fun e => e.2.1).getD s.cycle

/-- A control cell taken from the watermaster's inbox, for the group that it names. -/
def State.wmTake (s : State) (b : Nat) (k : Cell) (f : State → Nat → State) : State :=
  let s := s.putWmInbox (s.wmInbox.eraseP fun e => e.1 == b && e.2.2 == k)
  match s.findGroup (hCtx k.h) (hTag k.h) with
  | some g => f s g
  | none => s

/-- ACK (R243, R244) -/
def execAck (branch : BitVec 11) (k : Cell) (s : State) : Host.Outcome State Fault Refusal :=
  ok s (s.powered fun s =>
    if hType k.h != 9 || cKind k != ctlAck then s
    else s.wmTake branch.toNat k fun s g => s.ackHere g branch.toNat k)

/-- NACK (R243, R248) -/
def execNack (branch : BitVec 11) (k : Cell) (s : State) : Host.Outcome State Fault Refusal :=
  ok s (s.powered fun s =>
    if hType k.h != 9 || cKind k != ctlNack then s
    else s.wmTake branch.toNat k fun s g =>
      let c := cChunk k
      let s := s.count WM_NACKS
      if !s.ackCurrent g k then s.count WM_ACK_STALE
      else
        let y := s.chunkOf g c
        if y.pondGood || y.pond.isNone then s.resend g c branch.toNat
        else if y.pondBad && s.gRoot g then s.voidRequest g c 3
        else if y.waitNack.contains branch.toNat then s
        else s.putChunk g c { y with waitNack := y.waitNack ++ [branch.toNat] })

/-- A BREAK or VOID_REQ from a branch goes on unchanged on UP_CTL_OUT (R236). -/
def State.relayUp (s : State) (g : Nat) (k : Cell) : State :=
  s.wmInject g (hVc k.h) ⟨relabel k.h (s.gUp g), k.pay⟩

/-- VOID_REQ (R236, R250, R252) -/
def execVoidReq (branch : BitVec 11) (k : Cell) (s : State) : Host.Outcome State Fault Refusal :=
  ok s (s.powered fun s =>
    if hType k.h != 10 || cKind k != ctlVoidReq then s
    else
      let now := s.wmReached branch.toNat k
      s.wmTake branch.toNat k fun s g =>
        if s.gRoot g then s.rootVoidReq g (cChunk k) (cAttempt k) (cReason k) now else s.relayUp g k)

/-! ### Meanings: cells on DOWN-CTL entries (R236) -/

/-- A control cell that passes a module which is not the root, and the BREAK of a branch. Cells on the DOWN-CTL tree stand
in the inbox under branch 2,048. -/
def State.wmPass (s : State) (kind : Nat) (k : Cell) (f : State → Nat → State) : State :=
  if hType k.h != 10 || cKind k != kind then s
  else s.wmTake 2048 k fun s g => if s.gRoot g then s else f s g

/-- BREAK (R236, R254, R255): from a branch it goes to the root or on toward it; on the DOWN-CTL tree it is counted. -/
def execBrkNotice (branch : BitVec 11) (k : Cell) (s : State) : Host.Outcome State Fault Refusal :=
  ok s (s.powered fun s =>
    if hType k.h != 10 || cKind k != ctlBreak then s
    else if s.wmInbox.any fun e => e.1 == 2048 && e.2.2 == k then
      s.wmPass ctlBreak k fun s g => s.setGrp g 48 2 (s.grp g 48 2 + 1)
    else s.wmTake branch.toNat k fun s g =>
      if s.gRoot g then s.rootBreak g (k.pay >>> 256) else (s.count WM_BREAKS).relayUp g k)

/-- START (R240, R256) -/
def execStart (k : Cell) (s : State) : Host.Outcome State Fault Refusal :=
  ok s (s.powered fun s => s.wmPass ctlStart k fun s g =>
    if bitOf (cFlags k) 7 then
      let s := ((s.setGrp g 16 4 (cRedId k)).setGrp g 20 4 (cStep k)).setGrp g 7 1 (cBody k 38 1)
      (s.nodesRedId g).resumeHere g (cBody k 40 4) (cAttempt k)
    else s.startHere g (cRedId k) (cStep k) (cBody k 38 1))

/-- SEAL (R244) -/
def execSeal (k : Cell) (s : State) : Host.Outcome State Fault Refusal :=
  ok s (s.powered fun s => s.wmPass ctlSeal k fun s g =>
    (s.count WM_SEALS).sealHere g (cChunk k) (cFlags k % 32))

/-- VOID (R250) -/
def execVoidCell (k : Cell) (s : State) : Host.Outcome State Fault Refusal :=
  ok s (s.powered fun s => s.wmPass ctlVoid k fun s g =>
    (s.countVoid g).voidHere g (cChunk k) (cAttempt k))

/-- HOLD (R251, R256) -/
def execHold (k : Cell) (s : State) : Host.Outcome State Fault Refusal :=
  ok s (s.powered fun s => s.wmPass ctlHold k fun s g => s.enterHold g (cReason k))

/-- DONE (R245) -/
def execDone (k : Cell) (s : State) : Host.Outcome State Fault Refusal :=
  ok s (s.powered fun s => s.wmPass ctlDone k fun s g => (s.takeDone g (cBody k 32 32) 1))

/-! ### Meanings: timers of the root -/

/-- CHUNK_TIMEOUT (R251): the group is named by its record. -/
def execChunkTimeout (group : Fin 1024) (chunk : BitVec 32) (s : State) : Host.Outcome State Fault Refusal :=
  ok s (s.powered fun s =>
    if s.gRoot group && s.chunkOpen group chunk.toNat then s.rootVoid group chunk.toNat 6 else s)

/-- BREAK_SETTLE (R255): the settle time of the group passes. -/
def execBreakSettle (group : Fin 1024) (s : State) : Host.Outcome State Fault Refusal :=
  ok s (s.powered fun s =>
    if s.gState group == 2 && s.gRoot group && (s.group group).settling then
      (s.modGroup group fun x => { x with settling := false, settled := true }).breakSteps group
    else s)

end Sys2Proof.Machine
end

