-- ==== Sys2Proof/Machine/Sluice.lean ====
section
/-! DEFINITION. Sys2Proof/Machine/Sluice.lean: the choice at an output, weighted fair queueing, calendar shaping, gate
lists, the Headgate and queue sampling (spec/04_sluice_scheduling.md). -/

namespace Sys2Proof.Machine

/-! ### Gate lists (R99-R104) -/

/-- Entries of bank `b` of a port: (OPEN, DURATION) up to the first of DURATION 0 (R99). -/
def State.gateList (s : State) (p b : Nat) : List (Nat × Nat) :=
  ((List.range 64).map fun i =>
    (s.fld (PORT_GATE_ENTRY p b i) PORT_GATE_ENTRY_OPEN, s.fld (PORT_GATE_ENTRY p b i) PORT_GATE_ENTRY_DURATION)).takeWhile
    fun e => e.2 != 0

/-- The bank in force. -/
def State.gateBank (s : State) (p : Nat) : Nat := s.fld (PORT_GATE_CTL p) PORT_GATE_CTL_ACTIVE_BANK

/-- Core cycles of a list of entries. -/
def gateLength (l : List (Nat × Nat)) : Nat := l.foldl (fun n e => n + 16 * e.2) 0

/-- The entry that holds `t` core cycles after a list cycle began (R100). -/
def gateEntryAt : List (Nat × Nat) → Nat → Nat
  | [], _ => 0
  | e :: l, t => if t < 16 * e.2 then 0 else 1 + gateEntryAt l (t - 16 * e.2)

/-- Core cycles since the present list cycle began (R100). -/
def State.gatePhase (s : State) (p : Nat) (l : List (Nat × Nat)) : Nat :=
  (s.cycle - (s.rd (PORT_GATE_BASE p)).toNat) % max 1 (gateLength l)

/-- A step counter has reached a value (R102). -/
def stepReached (step n : Nat) : Bool := decide ((step % 2 ^ 32 + 2 ^ 32 - n % 2 ^ 32) % 2 ^ 32 < 2 ^ 31)

/-- Whether the armed switch-over point of a port is reached (R102, R103). -/
def State.switchReached (s : State) (p : Nat) : Bool :=
  let at_ := (s.rd (PORT_GATE_SWITCH_AT p)).toNat
  if s.bit (PORT_GATE_CTL p) PORT_GATE_CTL_SW_MODE then
    stepReached (s.fld (CTX_STATE (s.fld (PORT_GATE_CTL p) PORT_GATE_CTL_SW_CTX)) CTX_STATE_STEP) (at_ % 2 ^ 32)
  else decide (at_ ≤ s.cycle)

/-- The guard time of a link width (Table 4-1). -/
def guardTime (width : Nat) : Nat :=
  match width with
  | 1 => 6
  | 2 => 3
  | 4 => 2
  | _ => 1

/-- Whether an open mask, or an empty list, opens channel `v`. -/
def opens (l : List (Nat × Nat)) (i v : Nat) : Bool :=
  match l[i]? with
  | some e => bitOf e.1 v
  | none => true

/-- The gate list leaves channel `v` open, with the guard time left where the entry that follows closes it (R91). -/
def State.gateOpen (s : State) (p v : Nat) : Bool :=
  let b := s.gateBank p
  let l := s.gateList p b
  if l.isEmpty then true
  else
    let i := s.fld (PORT_GATE_CTL p) PORT_GATE_CTL_CUR_ENTRY
    let ph := s.gatePhase p l
    let endAt := gateLength (l.take (i + 1))
    let left := if gateEntryAt l ph = i then endAt - ph else 0
    let armed := s.bit (PORT_GATE_CTL p) PORT_GATE_CTL_ARM && !s.bit (PORT_GATE_CTL p) PORT_GATE_CTL_SW_MODE
    let swLeft := (s.rd (PORT_GATE_SWITCH_AT p)).toNat - s.cycle
    let soon := armed && decide (swLeft ≤ left)
    let nextOpen := if soon then opens (s.gateList p (1 - b)) 0 v else opens l ((i + 1) % l.length) v
    let room := if soon then swLeft else left
    opens l i v && (nextOpen || decide (guardTime (s.fld (PORT_LINK_STAT p) PORT_LINK_STAT_WIDTH) ≤ room))

/-- The check of GATE_LOAD and of ARM: channels 0-3, 6 and 7 are open in some entry of a bank that is not empty (R101). -/
def gateListOk (l : List (Nat × Nat)) : Bool :=
  l.isEmpty || [0, 1, 2, 3, 6, 7].all fun v => l.any fun e => bitOf e.1 v

/-- GATE_ENTRY_BOUNDARY (R100): the entry that the cycle count names takes effect. -/
def execGateEntryBoundary (port : Fin 1024) (s : State) : Host.Outcome State Fault Refusal :=
  ok s (s.powered fun s =>
    let p := port.val
    let l := s.gateList p (s.gateBank p)
    if l.isEmpty then s
    else s.setFld (PORT_GATE_CTL p) PORT_GATE_CTL_CUR_ENTRY (gateEntryAt l (s.gatePhase p l)))

/-- The takeover of the new bank (R102). -/
def State.gateTakeover (s : State) (p : Nat) : State :=
  let b := s.gateBank p
  (((s.wr (PORT_GATE_BASE p) (BitVec.ofNat 64 s.cycle)).setFld (PORT_GATE_CTL p) PORT_GATE_CTL_ACTIVE_BANK (1 - b)).setFld
    (PORT_GATE_CTL p) PORT_GATE_CTL_ARM 0).setFld (PORT_GATE_CTL p) PORT_GATE_CTL_CUR_ENTRY 0

/-- GATE_SWITCHOVER (R102): an armed bank whose point is reached takes over; under SW_MODE 1 every port armed on the same
context and step switches in the same core cycle. -/
def execGateSwitchover (port : Fin 1024) (s : State) : Host.Outcome State Fault Refusal :=
  ok s (s.powered fun s =>
    let p := port.val
    let key (q : Nat) := (s.fld (PORT_GATE_CTL q) PORT_GATE_CTL_SW_CTX, (s.rd (PORT_GATE_SWITCH_AT q)).toNat % 2 ^ 32)
    if s.bit (PORT_GATE_CTL p) PORT_GATE_CTL_ARM && s.switchReached p then
      if s.bit (PORT_GATE_CTL p) PORT_GATE_CTL_SW_MODE then
        let others := (List.range Config.fabricPorts).filter fun q =>
          q != p && s.bit (PORT_GATE_CTL q) PORT_GATE_CTL_ARM && s.bit (PORT_GATE_CTL q) PORT_GATE_CTL_SW_MODE &&
            key q == key p
        others.foldl State.gateTakeover (s.gateTakeover p)
      else s.gateTakeover p
    else s)

/-- ARM set on a port after its check; a point already reached sets LATE (R101, R103). -/
def State.gateArm (s : State) (p : Nat) : State :=
  if s.bit (PORT_GATE_CTL p) PORT_GATE_CTL_ARM then s
  else if gateListOk (s.gateList p (1 - s.gateBank p)) then
    let s := s.setFld (PORT_GATE_CTL p) PORT_GATE_CTL_ARM 1
    if s.switchReached p then s.setFld (PORT_GATE_CTL p) PORT_GATE_CTL_LATE 1 else s
  else s.notice 0 0x0007 (sourceOf 2 p)

/-- A write of PORT_GATE_CTL: the stored fields, then CANCEL, then ARM (Table 4-4; R101, R103). That one write with both bits
set first disarms and then arms is the model's choice (log entry 76). -/
def State.gateCtlWrite (s : State) (p v : Nat) : State :=
  let r := PORT_GATE_CTL p
  let old := (s.rd r).toNat
  let s := s.wr r (BitVec.ofNat 64 (storeFields
    [PORT_GATE_CTL_SW_CTX, PORT_GATE_CTL_SW_MODE, PORT_GATE_CTL_CUR_ENTRY, PORT_GATE_CTL_LATE,
      PORT_GATE_CTL_ACTIVE_BANK] old v + bitsOf old 1 1 * 2))
  let s := if bitOf v 8 then s.setFld r PORT_GATE_CTL_ARM 0 else s
  if bitOf v 1 then s.gateArm p else s

/-- GATE_ARM (R101): a write of PORT_GATE_CTL with ARM set. -/
def execGateArm (port : Fin 1024) (value : Word) (s : State) : Host.Outcome State Fault Refusal :=
  ok s (s.powered fun s => s.gateCtlWrite port.val (value.toNat ||| 2))

/-- CANCEL (R103): ARM is cleared, both banks stay. -/
def execCancel (port : Fin 1024) (s : State) : Host.Outcome State Fault Refusal :=
  ok s (s.powered fun s => s.setFld (PORT_GATE_CTL port.val) PORT_GATE_CTL_ARM 0)

/-- A write to a gate entry: stored in the inactive bank while ARM is 0, else ignored with a class N event (R101). -/
def State.gateEntryWrite (s : State) (p b i : Nat) (v : Nat) : State :=
  if b = s.gateBank p || s.bit (PORT_GATE_CTL p) PORT_GATE_CTL_ARM then
    s.notice 0 0x0006 (sourceOf 2 p) (PORT_GATE_ENTRY p b i).off
  else s.wr (PORT_GATE_ENTRY p b i) (BitVec.ofNat 64 (v % 2 ^ 32))

/-- GATE_ENTRY_WRITE (R101). -/
def execGateEntryWrite (port : Fin 1024) (bank : Fin 2) (entry : Fin 64) (value : Word) (s : State) :
    Host.Outcome State Fault Refusal :=
  ok s (s.powered fun s => s.gateEntryWrite port.val bank.val entry.val value.toNat)

/-! ### Calendar shaping (R97, R98) -/

/-- Whether the shaper lets channel `v` go. A channel that is filed waits for its slot, also when GAP
is written 0 meanwhile: a write to GAP takes effect at the next send (R98; log entry 76). -/
def State.shapeOpen (s : State) (p v : Nat) : Bool :=
  !s.bit (PORT_VC_SCHED p v) PORT_VC_SCHED_SHAPE_EN || (s.vc p v).filed == none

/-- E after a send in cycle `t`, units of 0.25 core cycle (R97). -/
def calendarNext (e t burst gap : Nat) : Nat := max e (4 * t - burst * gap) + gap

/-- The channel's E and slot after a send in this cycle; a slot that has begun leaves it eligible, and so does GAP = 0 (R97,
R98). -/
def State.shapeSend (s : State) (p v : Nat) : State :=
  let gap := s.fld (PORT_VC_SCHED p v) PORT_VC_SCHED_GAP
  if s.bit (PORT_VC_SCHED p v) PORT_VC_SCHED_SHAPE_EN then
    s.modVc p v fun c =>
      let e := calendarNext c.elig s.cycle (max 1 (s.fld (PORT_VC_SCHED p v) PORT_VC_SCHED_BURST)) gap
      { c with elig := e, filed := if gap = 0 || e / 64 * 16 ≤ s.cycle then none else some (e / 64 % 4096) }
  else s

/-- CALENDAR_SLOT_EXPIRY (R97): the channels filed in the slot become eligible. -/
def execCalendarSlotExpiry (slot : Fin 4096) (s : State) : Host.Outcome State Fault Refusal :=
  ok s (s.powered fun s =>
    s.putPorts (s.ports.map fun e =>
        (e.1, { e.2 with vcs := e.2.vcs.map fun c =>
          (c.1, if c.2.filed = some slot.val then { c.2 with filed := none } else c.2) })))

/-! ### Selection (R91-R96) -/

/-- The item that the head of channel `v` of an internal output delivers, with the header of its copy. -/
def State.headItem (s : State) (o v : Nat) : Option Item :=
  match s.q o v with
  | [] => none
  | e :: _ =>
    match s.slotItem e.slot with
    | some (.cell c) => some (.cell ⟨e.hdr, c.pay⟩)
    | some i => some i
    | none => none

/-- Whether an item is a cell for a tile's Weir: a circuit or tree cell that is not on TC 4, whose cells go to the combine
stage (spec/10_expert_and_headwater.md R277). -/
def forWeir : Item → Bool
  | .cell c => formOf (hType c.h) != .routed && hTc c.h != 4
  | _ => false

/-- The cell that the port of tile `t` offers to its Weir, while it stands at the head of its queue. -/
def State.offered (s : State) (t : Nat) : Option Cell :=
  (s.tile t).offer.bind fun f =>
    match s.q (1025 + t) f.vc, s.headItem (1025 + t) f.vc with
    | e :: _, some (.cell k) => if e.slot == f.slot then some k else none
    | _, _ => none

/-- Whether the Weir of tile `t` holds its input (spec/08_weir_reduction.md R215). -/
def State.weirHolds (s : State) (t : Nat) : Bool := (s.tile t).offer.any Offer.held && (s.offered t).isSome

/-- A tile held by a cluster or device compute reset takes nothing in (spec/14_faults_and_recovery.md R395). -/
def State.tileHeld (s : State) (t : Nat) : Bool := s.reset?.any fun o => (o.unit == 3 || o.unit == 5) && s.opHasTile o t

/-- Whether the agent of internal output `o` accepts the head of channel `v` (R96, spec/03_reservoir.md R70). A Weir takes
one cell after another, and none while it is disabled or holds its input (spec/08_weir_reduction.md R215, R229); a cell that
is not for the Weir does not wait for it (log entry 71). -/
def State.accepts (s : State) (o v : Nat) : Bool :=
  if o < 1025 || 1281 ≤ o then true
  else if s.tileHeld (o - 1025) then false
  else if !(s.headItem o v).any forWeir then true
  else s.bit (TILE_WEIR_CFG (o - 1025)) TILE_WEIR_CFG_ENABLE && (s.offered (o - 1025)).isNone

/-- Whether the queue of output `o` and channel `v` may send (R91, R96). -/
def State.eligible (s : State) (o v : Nat) : Bool :=
  !(s.q o v).isEmpty &&
    (if isFabric o then (s.vc o v).hasCredit && s.gateOpen o v && s.shapeOpen o v else s.accepts o v)

/-- Tags before a selection: a queue that returns takes max(F, V); one whose PRIO was cleared takes V + INC (R94). -/
def State.wakeTags (s : State) (o : Nat) : State :=
  (List.range 16).foldl (fun a v =>
    if a.prio o v then a
    else
      let el := a.eligible o v
      let c := a.vc o v
      let t := if c.retag && !(a.q o v).isEmpty then (a.port o).vtime + a.inc o v
        else if el && !c.wasElig then tagMax c.tag (a.port o).vtime else c.tag
      a.modVc o v fun c => { c with tag := t, wasElig := el, retag := false }) s

/-- The channel that R93 steps 1 and 2 select. -/
def State.choose (s : State) (o : Nat) : Option Nat :=
  match lowest 16 fun v => s.prio o v && s.eligible o v with
  | some v => some v
  | none =>
    ((List.range 16).filter fun v => s.eligible o v).foldl (fun best v =>
      match best with
      | none => some v
      | some b => if tagBefore (s.vc o v).tag (s.vc o b).tag then some v else some b) none

/-- Tags after the weighted selection sends the head of `v`; a strict-priority send changes none (R94). -/
def State.sendTags (s : State) (o v : Nat) : State :=
  if s.prio o v then s
  else
    let more := decide (1 < (s.q o v).length)
    let i := s.inc o v
    s.modPort o fun x =>
      let c := x.vc v
      { x.setVc v { c with tagLast := c.tag, tag := if more then c.tag + i else c.tag } with vtime := c.tag }

/-- The types of routed cells for which path-fail notices exist (spec/02_cells_and_routes.md R60). -/
def failType (h : Nat) : Bool := [1, 4, 6, 7, 14].contains (hType h)

/-- A cell counted as a drained cell of port `p` (spec/03_reservoir.md R79). -/
def State.countDrained (s : State) (p h : Nat) : State :=
  if failType h then s.count (PORT_ROUTE_FAIL p) else s.count (PORT_STALE_DROP p)

/-- A transfer of a cell over the cut crossing of the octet of port `p`: it ends in an error, and the cell is counted as a
drained one; an idle cell is only a transfer (spec/15_power_clocks_security.md R419, log entry 40). -/
def State.cutCell (s : State) (p : Nat) (c : Cell) : State :=
  let s := s.lost (0x40 + p / 8)
  if hType c.h == 0 then s else (s.countDrained p c.h).chunkLost c

/-- The same of a mirror copy, with which no cell of a chunk is lost (spec/09_collectives.md R249). -/
def State.cutCopy (s : State) (p : Nat) (c : Cell) : State := (s.lost (0x40 + p / 8)).countDrained p c.h

/-- A cell handed to a port's cell stream. -/
def State.toLink (s : State) (p : Nat) (c : Cell) : State :=
  if s.crossed (0x40 + p / 8) then s.cutCell p c
  else (s.modPort p fun x => { x with txBits := (x.txBits.1 * 2 ^ 640 + c.wire, x.txBits.2 + 640) }).emit (.cell p c)

/-- The header of a cell leaving on fabric port `p`, marked under R56. -/
def State.markCe (s : State) (p h depth : Nat) : Nat × State :=
  if [1, 4, 5, 6, 7, 14].contains (hType h) && decide (s.fld (PORT_CE_CFG p) PORT_CE_CFG_CE_THRESH < depth) &&
      bitOf (s.fld (PORT_CE_CFG p) PORT_CE_CFG_CE_TC_MASK) (hTc h) then
    (putBits h 77 1 1, s.count (PORT_CE_MARKED p))
  else (h, s)

/-- The last-hop handling of a cell that leaves for an endpoint with CE and without ECE (R57). The echo carries the header as
the cell had it with CE set and before ECE is (log entry 67). -/
def State.lastHop (s : State) (p h : Nat) (pay : Payload) (last : Bool) : Nat × State :=
  if formOf (hType h) == .routed && last && hCe h && !hEce h then
    (putBits h 76 1 1, s.echo h p (s.fld (PORT_ROLE p) PORT_ROLE_PEER_ID) pay)
  else (h, s)

/-- The head of channel `v` read from its slot and sent on fabric port `p` (R56, R57, R67, R69, R83). -/
def State.sendHead (s : State) (p v : Nat) : State :=
  match s.q p v with
  | [] => s
  | e :: _ =>
    match Table.look s.slots e.slot with
    | some x =>
      match x.item with
      | .cell c =>
        let (h1, s) := s.markCe p e.hdr.toNat (s.q p v).length
        let (h2, s) := s.lastHop p h1 c.pay e.last
        let out : Cell := ⟨sealHdr h2, c.pay⟩
        let s := ((s.sendTags p v).popQueue p v).copyDone e.slot
        let s := (s.modVc p v fun k => { k with sent := (k.sent + 1) % 65536 }).shapeSend p v
        let s := s.mirrorCell 1 p x.input p 2 out
        (s.sampleCell p 1 out).toLink p out
      | _ => (s.popQueue p v).copyDone e.slot
    | none => s.popQueue p v

/-- One copy of the port's mirror queue sent without credit (R86, R93). -/
def State.sendMirror (s : State) (p : Nat) : Option State :=
  match (s.port p).mirrorQ with
  | [] => none
  | (n, _) :: r =>
    match s.slotItem n with
    | some (.cell c) =>
      let s := (s.modPort p fun x => { x with mirrorQ := r }).copyDone n
      some (if s.crossed (0x40 + p / 8) then s.cutCopy p c else s.toLink p c)
    | _ => some (s.modPort p fun x => { x with mirrorQ := r })

/-- SLUICE_SELECT (R93): a channel's head, a mirror copy, or an idle cell; fence idles in the safe state (R29); a port that
is not UP or DEGRADED selects nothing. -/
def execSluiceSelect (port : Fin 1024) (s : State) : Host.Outcome State Fault Refusal :=
  ok s (s.powered fun s =>
    let p := port.val
    if !s.live p then s
    else if s.egressBlocked then s.toLink p (idleCell true)
    else
      let s := s.wakeTags p
      match s.choose p with
      | some v => s.sendHead p v
      | none =>
        match s.sendMirror p with
        | some t => t
        | none => s.toLink p (idleCell false))

/-! ### Internal outputs (R96) -/

/-- An item delivered to the agent of internal output `o`: a tile's inbox, the host port's transmit path, the inbox of a
memory port or of the management port. -/
def State.deliver (s : State) (o : Nat) (i : Item) : State :=
  if 1025 ≤ o && o < 1281 then s.modTile (o - 1025) fun x => { x with inbox := x.inbox ++ [i] }
  else
    let a := if o = hostOutput then 17 else if o = mgmtOutput then 16 else o - 1281
    s.setInbox a (s.inbox a ++ [i])

/-- The clock crossing behind an internal output (spec/15_power_clocks_security.md Table 15-4). -/
def outCrossing (o : Nat) : Option Nat :=
  if o = hostOutput then some 1
  else if 1281 ≤ o && o < 1297 then some 0
  else if o = mgmtOutput then some 2
  else none

/-- An item handed to the agent of internal output `o`. Over a crossing that is STUCK a cell is discarded and counted there: an
internal output has no counter of drained cells. A request toward the management port gets its address error from that port
(spec/15_power_clocks_security.md R419). -/
def State.handOut (s : State) (o : Nat) (i : Item) : State :=
  match outCrossing o, i with
  | some 2, .req _ => s.deliver o i
  | some x, _ => if s.crossed x then s.lost x else s.deliver o i
  | none, _ => s.deliver o i

/-- Whether a crossbar port is a tile's. -/
def tileNumber (o : Nat) : Bool := decide (1025 ≤ o) && decide (o < 1281)

/-- The offered cell leaves its queue as the Weir takes it: its slot is freed and its credit returns. -/
def State.takeOffer (s : State) (t : Nat) : State :=
  match (s.tile t).offer with
  | some f =>
    ((((s.sendTags (1025 + t) f.vc).popQueue (1025 + t) f.vc).copyDone f.slot).modVc (1025 + t) f.vc fun c => { c with sent := c.sent + 1 }).modTile t
      fun x => { x with offer := none }
  | none => s

/-- INTERNAL_OUTPUT_SELECT (R96): the head of the selected channel goes to the output's agent; a cell for a Weir stays at
the head of its queue until the Weir takes it. In the safe state the host port's output selects nothing
(spec/14_faults_and_recovery.md Table 14-3). With no channel to serve, the host port's output takes a mirror copy, as R93
step 3 has a fabric port do (log entry 68). -/
def execInternalOutputSelect (output : Fin 274) (s : State) : Host.Outcome State Fault Refusal :=
  ok s (s.powered fun s =>
    let o := 1024 + output.val
    if o == hostOutput && s.egressBlocked then s
    else
      let s := s.wakeTags o
      match s.choose o with
      | none => if o == hostOutput then s.takeHostMirror else s
      | some v =>
        match s.headItem o v, s.q o v with
        | some i, e :: _ =>
          if tileNumber o && forWeir i then
            s.modTile (o - 1025) fun x => { x with offer := some ⟨v, e.slot, false⟩ }
          else (((s.sendTags o v).popQueue o v).copyDone e.slot |>.modVc o v fun c => { c with sent := c.sent + 1 }).handOut o i
        | _, _ => s)

/-! ### The Headgate (R105, R106) -/

/-- Level of the bucket of class `c`, units of 1/256 cell. -/
def State.bucket (s : State) (p c : Nat) : Nat := Table.get 0 (s.port p).buckets c
def State.setBucket (s : State) (p c n : Nat) : State :=
  s.modPort p fun x => { x with buckets := Table.set natRank 0 x.buckets c n }

/-- BURST × 256 of class `c`. -/
def State.bucketTop (s : State) (p c : Nat) : Nat := 256 * s.fld (PORT_POLICE p (c - 5)) PORT_POLICE_BURST

/-- The buckets of a port filled: at link up and in a port engine reset (R106; spec/14 R391). -/
def State.fillBuckets (s : State) (p : Nat) : State :=
  [5, 6, 7].foldl (fun a c => a.setBucket p c (a.bucketTop p c)) s

/-- Whether the Headgate polices class `c` at the port. -/
def State.policed (s : State) (p c : Nat) : Bool :=
  decide (5 ≤ c) && decide (c ≤ 7) && s.bit (PORT_POLICE p (c - 5)) PORT_POLICE_POLICED

/-- A cell of class `c` at the Headgate: passed or not, with the bucket's new level and the count of a drop (R105). -/
def State.police (s : State) (p h : Nat) : Bool × State :=
  let c := hTc h
  if formOf (hType h) == .routed && s.policed p c then
    let l := s.bucket p c
    if 256 ≤ l then (true, s.setBucket p c (l - 256)) else (false, s.count (PORT_POLICED p (c - 5)))
  else (true, s)

/-- HEADGATE_REFILL (R105): RATE is added to every policed bucket, up to BURST × 256. -/
def execHeadgateRefill (s : State) : Host.Outcome State Fault Refusal :=
  ok s (s.powered fun s =>
    s.laneMap.foldl (fun a r =>
      [5, 6, 7].foldl (fun a c =>
        if a.policed r.port c then
          a.setBucket r.port c (min (a.bucketTop r.port c)
            (a.bucket r.port c + a.fld (PORT_POLICE r.port (c - 5)) PORT_POLICE_RATE))
        else a) a) s)

/-! ### Queue sampling (R107, R108) -/

/-- The depth bin of Table 4-3. -/
def depthBin (d : Nat) : Nat := if d = 0 then 0 else min 15 (Nat.log2 d + 1)

/-- The age bin of Table 4-3. -/
def ageBin (a : Nat) : Nat := if a < 64 then 1 else min 15 (Nat.log2 a - 4)

/-- 1 added to a 32-bit bin, saturating. -/
def State.addBin (s : State) (a : Nat) : State := s.store a 4 (min (s.load a 4 + 1) 0xFFFFFFFF)

/-- The bins of one queue (R107, R108). -/
def State.sampleQueue (s : State) (e v : Nat) : State :=
  let base := (s.rd SLU_HIST_BASE).toNat + 128 * (16 * e + v)
  let q := s.q e v
  let age := match q with
    | [] => 0
    | x :: _ => ageBin (s.cycle - x.since)
  (s.addBin (base + 4 * depthBin q.length)).addBin (base + 64 + 4 * age)

/-- Cycle `e` of a sampling period: the 16 queues of port `e`, when the lane map has it (R107). -/
def State.samplePort (s : State) (e : Nat) : State :=
  if (s.laneRec e).isSome then (List.range 16).foldl (fun a v => a.sampleQueue e v) s else s

/-- The queues that the sampler reads in the present core cycle: those of the port whose number is the cycles since the
period began, unless a clear pauses it (R107, R108). -/
def State.sampleCycle (s : State) : State :=
  match s.smpStart with
  | some c =>
    if s.bit SLU_HIST_CTL SLU_HIST_CTL_BUSY then s
    else if s.cycle - c < Config.fabricPorts then s.samplePort (s.cycle - c)
    else s
  | none => s

/-- SAMPLER_PERIOD (R107): a period begins in this core cycle, and its cycle 0 samples port 0; the core cycles that follow
sample the other ports (Machine/Idle.lean). -/
def execSamplerPeriod (s : State) : Host.Outcome State Fault Refusal :=
  ok s (s.powered fun s =>
    if s.bit SLU_SMP_CFG SLU_SMP_CFG_ENABLE && !s.bit SLU_HIST_CTL SLU_HIST_CTL_BUSY then
      ((s.putSmpStart (some s.cycle)).count SLU_SMP_COUNT).sampleCycle
    else s)

/-- CLEAR (R108): sampling pauses until the histograms are zero. -/
def execClear (s : State) : Host.Outcome State Fault Refusal :=
  ok s (s.powered fun s => s.setFld SLU_HIST_CTL SLU_HIST_CTL_BUSY 1)

/-- HIST_CLEAR_DONE (R108): every bin and SMP_COUNT are zero, BUSY falls. -/
def execHistClearDone (s : State) : Host.Outcome State Fault Refusal :=
  ok s (s.powered fun s =>
    if s.bit SLU_HIST_CTL SLU_HIST_CTL_BUSY then
      ((s.zeroBytes (s.rd SLU_HIST_BASE).toNat (2 * 2 ^ 20)).wr SLU_SMP_COUNT 0).setFld SLU_HIST_CTL SLU_HIST_CTL_BUSY 0
    else s)

end Sys2Proof.Machine
end

