-- ==== Sys2Proof/Machine/Weir.lean ====
section
/-! DEFINITION. Sys2Proof/Machine/Weir.lean: heads, staging, sums in the reference order, the completion queue, posts, the
emitter, and the dry-furrow detector (spec/08_weir_reduction.md R204-R230, spec/07_instruction_set.md R193, R194,
spec/09_collectives.md R257, R261). -/

namespace Sys2Proof.Machine

/-! ### Chunk heads (Table 2-9) -/

def hdChunk (p : Payload) : Nat := payNum p 0 4
def hdStep (p : Payload) : Nat := payNum p 4 4
def hdRedId (p : Payload) : Nat := payNum p 8 4
def hdSlot (p : Payload) : Nat := payNum p 12 2
def hdFmt (p : Payload) : Nat := payNum p 14 1 % 16
def hdOp (p : Payload) : Nat := payNum p 14 1 / 16
def hdGrad (p : Payload) : Bool := bitOf (payNum p 15 1) 0
def hdMasked (p : Payload) : Bool := bitOf (payNum p 15 1) 1
def hdDown (p : Payload) : Bool := bitOf (payNum p 15 1) 2
def hdCarry (p : Payload) : Bool := bitOf (payNum p 15 1) 3
def hdElems (p : Payload) : Nat := payNum p 16 2
def hdPlanFp (p : Payload) : Nat := payNum p 24 8
def hdCcrc (p : Payload) : Nat := payNum p 60 4

/-- An FP32 carry piece for a node that takes them (R222). -/
def isCarry (r : Nat) (p : Payload) : Bool := hdFmt p == 8 && hdCarry p && nAccept r

/-- The wire chunk and the carry piece of a head. -/
def hdWire (r : Nat) (p : Payload) : Nat := if isCarry r p then hdChunk p / max 1 (nPieces r) else hdChunk p
def hdPiece (r : Nat) (p : Payload) : Nat := if isCarry r p then hdChunk p % max 1 (nPieces r) else 0

/-- Elements of carry piece `k` of a chunk of `n` (R222). -/
def pieceElems (n k : Nat) : Nat := min 1024 (n - 1024 * k)

/-! ### Contributions -/

/-- Payload cells that complete a contribution or piece. -/
def cellsOf (r : Nat) (p : Payload) : Nat := if isCarry r p then 64 else nWireCells r

/-- Element groups that `n` payload cells deliver (R214). -/
def groupsOf (r : Nat) (p : Payload) (n : Nat) : Nat :=
  if isCarry r p then n / 4 else (n - fmtScaleCells (nFmt r)) * fmtPerCell (nFmt r) / 64

def Entry.contrib (y : Entry) (k piece : Nat) : Option Contrib := Table.look y.slots (16 * k + piece)
def Entry.putContrib (y : Entry) (k piece : Nat) (c : Contrib) : Entry :=
  { y with slots := Table.put natRank y.slots (16 * k + piece) c }

/-- A slot known to be absent (R209). -/
def Entry.masked (y : Entry) (k : Nat) : Bool := (y.contrib k 0).any Contrib.masked

/-- A slot whose contribution has arrived whole. -/
def Entry.present (y : Entry) (r k : Nat) : Bool :=
  match y.contrib k 0 with
  | none => false
  | some c =>
    !c.masked && c.whole &&
      (!isCarry r c.head || (List.range (nPieces r)).all fun j => (y.contrib k j).any Contrib.whole)

/-- Whether slot `k` has delivered group `g`. -/
def Entry.delivers (y : Entry) (r k g : Nat) : Bool :=
  y.masked k || (match y.contrib k 0 with
    | some c => if isCarry r c.head then (y.contrib k (g / 16)).any fun c => decide (g % 16 < c.delivered)
      else decide (g < c.delivered)
    | none => (y.contrib k (g / 16)).any fun c => isCarry r c.head && decide (g % 16 < c.delivered))

/-! ### Total records (Table 8-3) -/

/-- The header of a fresh record. -/
def State.openRecord (s : State) (t e node chunk step : Nat) : State :=
  let r := s.nodeRec t node
  let a := s.recAddr t e
  s.put a (toBytes 4 chunk ++ toBytes 4 step ++ toBytes 4 (nRedId r) ++ toBytes 2 (nNodeId r) ++
    toBytes 1 ((if nCarry r then 8 else nFmt r) + 16 * nOp r) ++
    toBytes 1 (flag (nGrad r) + 2 * flag (nCarry r) + 4 * flag (nSat r) + 32 * flag (nRoot r)) ++
    toBytes 2 (nElemsOf r chunk) ++ toBytes 2 (nGroups r) ++ toBytes 4 0 ++ toBytes 8 0 ++ toBytes 2 0 ++
    List.replicate 222 0)

def State.setRec (s : State) (t e b n v : Nat) : State := s.put (s.recAddr t e + b) (toBytes n v)

/-- NZ_TOTAL, PRESENT and CHUNK_FLAGS of the record. -/
def State.noteRecord (s : State) (t e : Nat) : State :=
  let y := (s.tile t).entry e
  let r := s.nodeRec t y.node
  ((s.setRec t e 20 4 y.nz).setRec t e 32 2 ((nLive r).countP fun k => y.present r k)).setRec t e 34 1 y.flags.toNat

def State.putEntry (s : State) (t e : Nat) (y : Entry) : State := s.modTile t fun x => x.setEntry e y

/-- The descriptor placed in the completion queue (R219). -/
def State.placeDesc (s : State) (t e : Nat) : State :=
  let y := (s.tile t).entry e
  if y.st == .opened then
    s.modTile t fun x => { x.setEntry e { y with st := .queued } with cq := x.cq ++ [s.descriptor t e] }
  else s

/-! ### Failures (R216, R217, R249) -/

/-- The chunk of an entry is marked failed, and the module asks for its void. -/
def State.failChunk (s : State) (t e reason : Nat) : State :=
  let y := (s.tile t).entry e
  let r := s.nodeRec t y.node
  ((s.putEntry t e { y with failed := true }).voidRequestOf (nCtx r) (nGroup r) y.chunk reason).run t

/-- A residue failure, or an uncorrectable error in staging, run accumulator or total record (R217,
spec/11_memory_and_pools.md R297). -/
def State.residue (s : State) (t e : Nat) : State :=
  let y := (s.tile t).entry e
  let r := s.nodeRec t y.node
  ((s.count (WEIR_RESIDUE t)).raise
    { cls := 2, src := sourceOf 1 t, code := evCode 0x000F, hw := true, ctx := some (nCtx r),
      detail := y.node * 1024 + y.chunk * 2 ^ 32 } (some engineWeir)).failChunk t e 2

/-- A head refused (R207): counted, latched, reported; the rest of its contribution is discarded. -/
def State.refuseHead (s : State) (t : Nat) (k : Cell) (reason : Nat) : State :=
  let label := hCirc k.h
  let v := s.rd (TILE_WEIR_REFUSE t)
  let s := s.count (WEIR_REFUSED t)
  let s := if v.getLsbD 63 then s.wr (TILE_WEIR_REFUSE t) (v ||| BitVec.ofNat 64 (2 ^ 62))
    else s.wr (TILE_WEIR_REFUSE t) (BitVec.ofNat 64
      (2 ^ 63 + flag (v.getLsbD 62) * 2 ^ 62 + label % 1024 * 2 ^ 32 + label / 1024 % 1024 * 2 ^ 16 + reason))
  let s := s.modTile t fun x => { x with refusing := label :: x.refusing }
  let c := hdWire (s.nodeRec t (label / 1024)) k.pay
  let s := s.raise { cls := 1, src := sourceOf 1 t, code := 2 * 2 ^ 24 + reason, ctx := some (hCtx k.h), detail := c }
  (s.voidRequestOf (hCtx k.h) (hTag k.h) c 8).run t

/-! ### Empty chunks (R219, R224) -/

/-- Code and scale of an empty result (Table 8-7). -/
def emptyCode (fmt op : Nat) (sat : Bool) : Nat × Nat :=
  match fmt, op with
  | 9, 0 => (0, 0)
  | 9, 1 => (0x80000000, 0)
  | 9, 2 => (0x7FFFFFFF, 0)
  | 9, 3 => (0xFFFFFFFF, 0)
  | 9, _ => (0, 0)
  | _, 0 => (0, 0)
  | 0, _ => (2, 0)
  | 1, _ => (8, 0)
  | 2, _ => (0, 0xFF)
  | 3, _ => (0x7F, 0)
  | 4, o => (if sat then 0x7E else if o = 1 then 0xFC else 0x7C, 0)
  | 5, _ => (0, 0xFF)
  | 6, o => (if o = 1 then 0xFF80 else 0x7F80, 0)
  | 7, o => (if o = 1 then 0xFC00 else 0x7C00, 0)
  | _, o => (if o = 1 then 0xFF800000 else 0x7F800000, 0)

/-- The wire payload of an empty chunk: scale cells, then data cells, zero at and above `elems` (R224). -/
def emptyPayload (fmt op : Nat) (sat : Bool) (elems : Nat) : List Byte :=
  let (c, sc) := emptyCode fmt op sat
  let w := fmtBits fmt
  let blocks := (elems + 31) / 32
  let scales := (List.replicate blocks (BitVec.ofNat 8 sc) ++ List.replicate (64 * fmtScaleCells fmt - blocks) 0).take
    (64 * fmtScaleCells fmt)
  let full := elems * w / 8
  let pat := toBytes 8 ((List.range (64 / w)).foldl (fun n i => n + c <<< (w * i)) 0)
  let body := (List.range full).map fun i => pat.getD (i % 8) 0
  let rest := elems * w % 8
  let last := if rest = 0 then [] else [BitVec.ofNat 8 ((pat.getD (full % 8) 0).toNat % 2 ^ rest)]
  scales ++ (body ++ last ++ List.replicate (4096 - full - last.length) 0)

/-- Every slot is known to be absent: EMPTY, READY = GROUPS, the descriptor, and at a root the wire payload. -/
def State.entryEmpty (s : State) (t e : Nat) : State :=
  let y := (s.tile t).entry e
  let r := s.nodeRec t y.node
  let n := nGroups r
  let s := s.setRec t e 15 1 (s.load (s.recAddr t e + 15) 1 ||| 8)
  let s := s.setRec t e 24 8 n
  let s := if nRoot r then s.put (s.recAddr t e + 256) (emptyPayload (nFmt r) (nOp r) (nSat r) (nElemsOf r y.chunk)) else s
  let s := (s.putEntry t e { y with finals := n }).placeDesc t e
  match s.findGroup (nCtx r) (nGroup r) with
  | some g => s.nodeFlags g y.chunk 0 (nRoot r)
  | none => s

/-! ### Sums (R210, R211) -/

/-- The operator of Table 8-2 at the run level or the total level. Bitwise operands are codes. -/
def weirOp (fmt op : Nat) (run : Bool) (a b : FNum) : FNum × Nat :=
  let bits (f : Nat → Nat → Nat) : FNum × Nat :=
    match a, b with
    | .fin _ m _, .fin _ n _ => (.fin false (f m n) 0, 0)
    | _, _ => (a, 0)
  match op with
  | 0 =>
    let (x, f) := a.add b
    if fmt = 9 then (x, 0)
    else
      let (y, f') := if run then toFp32 x else toFp64 x
      (y, f ||| f')
  | 1 => (a.max b, 0)
  | 2 => (a.min b, 0)
  | 3 => bits (· &&& ·)
  | 4 => bits (· ||| ·)
  | _ => bits (· ^^^ ·)

/-- join of R210: ABSENT is the identity. -/
def weirJoin (fmt op : Nat) (run : Bool) (a b : Option FNum × Nat) : Option FNum × Nat :=
  match a.1, b.1 with
  | none, _ => (b.1, a.2 ||| b.2)
  | _, none => (a.1, a.2 ||| b.2)
  | some x, some y =>
    let (z, f) := weirOp fmt op run x y
    (some z, a.2 ||| b.2 ||| f)

/-- One level of the pairwise tree. -/
def weirLevel (fmt op : Nat) : List (Option FNum × Nat) → List (Option FNum × Nat)
  | a :: b :: r => weirJoin fmt op true a b :: weirLevel fmt op r
  | l => l

/-- The run sum of up to 16 operands in slot order. -/
def weirRun (fmt op : Nat) (l : List (Option FNum × Nat)) : Option FNum × Nat :=
  ((weirLevel fmt op (weirLevel fmt op (weirLevel fmt op (weirLevel fmt op l)))).head?).getD (none, 0)

/-- What a slot has staged for a group of 64 elements: carry or wire, the element codes as one number, the two scales. -/
structure Staged where
  carry : Bool
  codes : Nat
  scale0 : Nat
  scale1 : Nat

/-- First staged byte of group `g` of slot `k`, and bytes of it (R213). -/
def groupBytes (r base k g : Nat) (carry : Bool) : Nat × Nat :=
  let slot := base + 64 * (k * nSlotCells r)
  if carry then (slot + 256 * g, 256)
  else (slot + 64 * fmtScaleCells (nFmt r) + 8 * fmtBits (nFmt r) * g, 8 * fmtBits (nFmt r))

def Entry.carries (y : Entry) (r k g : Nat) : Bool :=
  match y.contrib k 0 with
  | some c => isCarry r c.head
  | none => (y.contrib k (g / 16)).any fun c => isCarry r c.head

/-- The staged group of a slot; none for an absent slot (R209). -/
def State.staged (s : State) (y : Entry) (r base k g : Nat) : Option Staged :=
  if y.masked k || !nMask r k || decide (nSlots r ≤ k) then none
  else
    let c := y.carries r k g
    let (a, n) := groupBytes r base k g c
    let sc := base + 64 * (k * nSlotCells r) + 2 * g
    some ⟨c, s.load a n, s.load sc 1, s.load (sc + 1) 1⟩

/-- Whether a byte that the group needs of some slot of run `i` has an uncorrectable error. -/
def State.stageBad (s : State) (y : Entry) (r base i g : Nat) : Bool :=
  (nLive r).any fun k =>
    k / nRun r == i && !y.masked k &&
      (let (a, n) := groupBytes r base k g (y.carries r k g)
       s.poisoned a n || (fmtScaled (nFmt r) && !y.carries r k g && s.poisoned (base + 64 * (k * nSlotCells r) + 2 * g) 2))

/-- Operand of element `i` of the group (R211). -/
def Staged.operand (x : Staged) (fmt op i : Nat) : FNum × Nat :=
  if x.carry then (fp32.decodeIEEE (bitsOf x.codes (32 * i) 32), 0)
  else
    let w := fmtBits fmt
    let c := bitsOf x.codes (w * i) w
    let sc := if i < 32 then x.scale0 else x.scale1
    if fmt = 9 then (if op ≤ 2 then decodeElem 9 c else .fin false c 0, 0)
    else if fmtScaled fmt then (if op = 0 then descale fmt sc c else (scaledElem fmt sc c, 0))
    else (decodeElem fmt c, 0)

/-- A run of a node: its slots' operands of element `i`, joined in the tree of R210. -/
def weirElement (fmt op runLen i : Nat) (l : List (Option Staged)) : Option FNum × Nat :=
  let xs := l.map fun o => match o with
    | none => (none, 0)
    | some x => let (v, f) := x.operand fmt op i; (some v, f)
  weirRun fmt op (xs ++ List.replicate (runLen - xs.length) (none, 0))

/-- A value as an `n`-byte run sum or total (R213). An INT32 value is a 64-bit integer in a run accumulator. -/
def sumCode (fmt op n : Nat) (x : Option FNum) : Nat :=
  match x with
  | none => 0
  | some v =>
    if fmt = 9 then
      (match v with
        | .fin neg m e => wrapInt 64 (if neg then -(shiftUp m e : Int) else (shiftUp m e : Int))
        | _ => 0)
    else if n = 4 && op = 0 then (fp32.encodeIEEE false none v).1
    else (fp64.encodeIEEE false none v).1

/-- The value of an `n`-byte run sum. -/
def sumValue (fmt op n c : Nat) : FNum :=
  if fmt = 9 then (let z := (BitVec.ofNat 64 c).toInt; .fin (decide (z < 0)) z.natAbs 0)
  else if n = 4 && op = 0 then fp32.decodeIEEE c
  else fp64.decodeIEEE c

/-- The element of the total record and the flags of its limiting to INT32 (R129, R211). -/
def totalCode (fmt op : Nat) (x : Option FNum) : Nat × Nat :=
  match x with
  | none => (0, 0)
  | some v =>
    if fmt = 9 then (if op ≤ 2 then encodeInt32 none v else (sumCode 9 op 8 (some v) % 2 ^ 32, 0))
    else ((fp64.encodeIEEE false none v).1, 0)

/-- The slots of run `i`. -/
def runSlots (r i : Nat) : List Nat := ((List.range (nRun r)).map fun k => i * nRun r + k).filter fun k => decide (k < nSlots r)

/-- Whether every slot of run `i` is absent (R209), and whether group `g` of the run is complete (R214). -/
def Entry.runAbsent (y : Entry) (r i : Nat) : Bool := (runSlots r i).all fun k => y.masked k || !nMask r k
def Entry.runReady (y : Entry) (r i g : Nat) : Bool := (runSlots r i).all fun k => !nMask r k || y.delivers r k g

/-- Groups of run `i` summed. -/
def Entry.runGroups (y : Entry) (i : Nat) : Nat := Table.get 0 y.runs i

/-- The group note of an entry's flags: sticky flags of the Weir, the chunk's flags, the completion record. -/
def State.weirFlags (s : State) (t e f : Nat) : State :=
  let y := (s.tile t).entry e
  let r := s.nodeRec t y.node
  let s := (s.putEntry t e { y with flags := y.flags ||| BitVec.ofNat 4 f }).setFlags t engineWeir f (some (nCtx r))
  match s.findGroup (nCtx r) (nGroup r) with
  | some k => s.nodeFlags k y.chunk f false
  | none => s

/-- Bytes of group `g` of run `i` in the run accumulators: first and number (R213). -/
def State.runPlace (s : State) (t e r i g : Nat) : Nat × Nat :=
  (s.runAddr t e + nSumBytes r * (i * nElems r + 64 * g), 64 * nSumBytes r)

/-- The sums of group `g` of run `i` written into the run accumulator, zero at and above ELEMS (R210, R214). -/
def State.sumRun (s : State) (t e i g : Nat) : State :=
  let y := (s.tile t).entry e
  let r := s.nodeRec t y.node
  let l := (runSlots r i).map fun k => s.staged y r (s.stageAddr t e) k g
  let res := (List.range 64).map fun j =>
    if 64 * g + j < nElemsOf r y.chunk then weirElement (nFmt r) (nOp r) (nRun r) j l else (none, 0)
  let s := s.put (s.runPlace t e r i g).1 (res.flatMap fun x => toBytes (nSumBytes r) (sumCode (nFmt r) (nOp r) (nSumBytes r) x.1))
  (s.putEntry t e { y with runs := Table.set natRank 0 y.runs i (g + 1) }).weirFlags t e
    (res.foldl (fun f x => f ||| x.2) 0)

/-- Every group of run `i` that is complete and not summed is summed, in ascending order; an uncorrectable error in what it
reads fails the chunk (R214, spec/11_memory_and_pools.md R297). -/
def State.sumRunTo (s : State) (t e i : Nat) : Nat → State
  | 0 => s
  | n + 1 =>
    let y := (s.tile t).entry e
    let r := s.nodeRec t y.node
    let g := y.runGroups i
    if y.failed || decide (nGroups r ≤ g) || !y.runReady r i g then s
    else if s.stageBad y r (s.stageAddr t e) i g then (s.ueRead (s.stageAddr t e)).residue t e
    else (s.sumRun t e i g).sumRunTo t e i n

/-- What the runs of an entry have complete is summed: run `i`. -/
def State.sumRuns (s : State) (t e i : Nat) : State :=
  s.sumRunTo t e i (nGroups (s.nodeRec t ((s.tile t).entry e).node))

/-- Group `g` made final: the run sums added in ascending run order, totals, header, READY + 1; the descriptor at group 0
(R210, R214, R219). -/
def State.finalGroup (s : State) (t e g : Nat) : State :=
  let y := (s.tile t).entry e
  let r := s.nodeRec t y.node
  let fmt := nFmt r
  let op := nOp r
  let w := nSumBytes r
  let sums := (List.range (nRuns r)).map fun i =>
    if y.runAbsent r i then none
    else let (a, n) := s.runPlace t e r i g; some (s.load a n)
  let res := (List.range 64).map fun j =>
    if 64 * g + j < nElemsOf r y.chunk then
      sums.foldl (fun a b => weirJoin fmt op false a (b.map fun c => sumValue fmt op w (bitsOf c (8 * w * j) (8 * w)), 0)) (none, 0)
    else (none, 0)
  let tots := res.map fun x => totalCode fmt op x.1
  let f := (res.foldl (fun f x => f ||| x.2) 0) ||| (tots.foldl (fun f x => f ||| x.2) 0)
  let nz := res.countP fun x => match x.1 with | some v => !v.isZero | none => false
  let tw := if fmt = 9 then 4 else 8
  let s := s.put (s.recAddr t e + 256 + tw * 64 * g) (tots.flatMap fun x => toBytes tw x.1)
  let s := (s.putEntry t e { y with finals := g + 1, nz := y.nz + nz }).weirFlags t e f
  let s := (s.noteRecord t e).setRec t e 24 8 (s.load (s.readyAddr t e) 8 + 1)
  (if g = 0 then s.placeDesc t e else s).run t

/-! ### Meanings: cells -/

/-- Check 0x06: ELEMS of a wire chunk or of a carry piece. -/
def elemsOk (r : Nat) (p : Payload) : Bool :=
  let n := nElemsOf r (hdWire r p)
  hdElems p == (if isCarry r p then pieceElems n (hdPiece r p) else n)

/-- The first failing check of Table 8-2a, 0x0A first; `step` is the STEP of the entry's earlier heads. -/
def headRefusal (r label : Nat) (p : Payload) (step : Option Nat) : Option Nat :=
  firstFault [(!nValid r, 0x0A), (!(hdFmt p == nFmt r || isCarry r p) || decide (10 ≤ hdFmt p), 0x01),
    (hdOp p != nOp r, 0x02), (hdPlanFp p != nPlanFp r, 0x03),
    (hdSlot p != label % 1024 || decide (nSlots r ≤ label % 1024) || !nMask r (label % 1024), 0x04),
    (decide (nChunks r ≤ hdWire r p), 0x05), (!hdMasked p && !elemsOk r p, 0x06),
    (step.any fun x => x != hdStep p, 0x07), (hdGrad p != nGrad r, 0x08), (hdDown p, 0x09),
    (hdRedId p != nRedId r, 0x0C)]

/-- The Weir takes no cell: it is disabled, its tile unbound or held by a reset, or it holds its input (R215, R229;
spec/14_faults_and_recovery.md R395). -/
def State.weirShut (s : State) (t : Nat) : Bool :=
  !s.bit (TILE_WEIR_CFG t) TILE_WEIR_CFG_ENABLE || s.weirHolds t || !s.bound t || s.tileHeld t

/-- The record of a contribution that a node uses (R260). -/
def State.recordContrib (s : State) (r : Nat) (p : Payload) (slot : Nat) (pay : List Byte) : State :=
  match s.findGroup (nCtx r) (nGroup r) with
  | some g => s.recordRing g (hdChunk p) (hdStep p) (hdRedId p) (nNodeId r) slot (payNum p 14 1)
      (payNum p 15 1 % 128 + s.parity g (hdWire r p)) (hdElems p) (hdCcrc p) pay
  | none => s

/-- Whether a head that replaces an earlier contribution to its slot differs from what has been summed of it: a delivered
group of another form, a head with other fields, or a masked head (R216). -/
def Entry.clashes (y : Entry) (r slot j : Nat) (p : Payload) : Bool :=
  (List.range 16).any fun i => (y.contrib slot i).any fun c =>
    decide (0 < c.delivered) && (hdMasked p || isCarry r c.head != isCarry r p || (i == j && c.head != p))

/-- A head that passed every check, for an entry that is free or holds its chunk (R207, R216). A slot is present once its
contribution, every carry piece of it, is whole; until then a further head for it replaces what came. -/
def State.takeHead (s : State) (t : Nat) (k : Cell) : State :=
  let label := hCirc k.h
  let node := label / 1024
  let slot := label % 1024
  let p := k.pay
  let r := s.nodeRec t node
  let e := nEntryBase r + hdWire r p % max 1 (nWindow r)
  let j := hdPiece r p
  let s := if ((s.tile t).entry e).st == .free then
      let s := s.putEntry t e { Entry.init with st := .opened, node := node, chunk := hdWire r p, step := hdStep p,
                                                grad := nGrad r }
      s.openRecord t e node (hdWire r p) (hdStep p)
    else s
  let y := (s.tile t).entry e
  if y.masked slot || y.present r slot then
    (s.count (WEIR_DUP t)).modTile t fun x => { x with refusing := label :: x.refusing }
  else
    let s := s.count (WEIR_CONTRIB t)
    let clash := y.clashes r slot j p
    if hdMasked p then
      let s := s.putEntry t e (y.putContrib slot 0 ⟨p, true, 0, 0, 0, true⟩)
      let s := s.recordContrib r p slot []
      if clash then s.failChunk t e 8
      else if (nLive r).all fun i => ((s.tile t).entry e).masked i then (s.entryEmpty t e).run t
      else s.sumRuns t e (slot / nRun r)
    else
      let c : Contrib := ⟨p, false, 0, 0, ((y.contrib slot j).elim 0 Contrib.delivered), false⟩
      let s := s.modTile t fun x =>
        { x.setEntry e (y.putContrib slot j c) with openLabels := (label, e, j) :: x.openLabels }
      if clash then s.failChunk t e 8 else s

/-- Entry of a head, whether it holds the head's chunk, and the first check that fails. -/
def State.headEntry (s : State) (t : Nat) (k : Cell) : Nat × Bool × Option Nat :=
  let label := hCirc k.h
  let r := s.nodeRec t (label / 1024)
  let e := nEntryBase r + hdWire r k.pay % max 1 (nWindow r)
  let y := (s.tile t).entry e
  let same := y.st != .free && y.node == label / 1024 && y.chunk == hdWire r k.pay && !y.voided
  (e, same, headRefusal r label k.pay (if same then some y.step else none))

/-- A head that waits: it passes every check, and its entry holds a different chunk (R215). -/
def State.headWaits (s : State) (t : Nat) (k : Cell) : Bool :=
  let (e, same, refusal) := s.headEntry t k
  refusal.isNone && ((s.tile t).entry e).st != .free && !same

/-- A head that the Weir takes in: refused or entered. -/
def State.weirHead (s : State) (t : Nat) (k : Cell) : State :=
  let label := hCirc k.h
  let s := s.modTile t fun x =>
    { x with openLabels := x.openLabels.filter (fun l => l.1 != label), refusing := x.refusing.filter (· != label) }
  match (s.headEntry t k).2.2 with
  | some c => s.refuseHead t k c
  | none => s.takeHead t k

/-- WEIR_HEAD_RECEIVE (R207, R215, R216): the offered head is held or taken. -/
def execWeirHeadReceive (t : Fin 256) (k : Cell) (s : State) : Host.Outcome State Fault Refusal :=
  ok s (s.powered fun s =>
    if s.weirShut t || hType k.h != 8 || s.offered t != some k then s
    else if s.headWaits t k then s.modTile t fun x => { x with offer := x.offer.map fun f => { f with held := true } }
    else (s.takeOffer t).weirHead t k)

/-- WEIR_HOLD_RELEASE (R215): the entry that the held head waits for is FREE. -/
def execWeirHoldRelease (t : Fin 256) (s : State) : Host.Outcome State Fault Refusal :=
  ok s (s.powered fun s =>
    if !s.weirHolds t || s.tileHeld t then s
    else
      match s.offered t with
      | some k => if s.headWaits t k then s else (s.takeOffer t).weirHead t k
      | none => s)

/-- A payload cell of an open contribution: staged, counted, and checked when it is the last (R214, R217). The groups of its
run that it completes are summed, those of a contribution that fails with them. -/
def State.stageCell (s : State) (t e j label : Nat) (k : Cell) : State :=
  let slot := label % 1024
  let y := (s.tile t).entry e
  let r := s.nodeRec t y.node
  match y.contrib slot j with
  | none => s
  | some c =>
    let at_ := (if isCarry r c.head then 64 * j else 0) + c.got
    let s := s.put (s.stageAddr t e + 64 * (slot * nSlotCells r + at_)) (payBytes k.pay)
    let n := cellsOf r c.head
    let crc := crc32cFrom c.crc.toNat (payBytes k.pay)
    let last := decide (n ≤ c.got + 1)
    let good := last && crc == hdCcrc c.head
    let c' := { c with got := c.got + 1, crc := BitVec.ofNat 32 crc,
                       delivered := max c.delivered (groupsOf r c.head (c.got + 1)), whole := good }
    let s := s.modTile t fun x =>
      { x.setEntry e (y.putContrib slot j c') with
        openLabels := if last then x.openLabels.filter (fun l => l.1 != label) else x.openLabels }
    if !last then s.sumRuns t e (slot / nRun r)
    else if good then
      let s := s.sumRuns t e (slot / nRun r)
      let first := s.stageAddr t e + 64 * (slot * nSlotCells r + (if isCarry r c.head then 64 * j else 0))
      (s.noteRecord t e).recordContrib r c.head slot (s.bytes first (64 * n))
    else
      let s := (s.sumRuns t e (slot / nRun r)).notice 1 0x000E (sourceOf 1 t) (label + y.chunk * 2 ^ 32) 0 (some (nCtx r))
      s.failChunk t e 1

/-- A void that comes as a TYPE 10 cell on one of a node's labels (R218). -/
def State.weirVoidCell (s : State) (t : Nat) (k : Cell) : State :=
  if cKind k != ctlVoid then s
  else
    let es := (s.tile t).entries.filter fun e =>
      e.2.st != .free && e.2.node == hCirc k.h / 1024 && e.2.chunk == cChunk k
    ((es.foldl (fun s e => s.voidEntry t e.1) s).run t).drained

/-- WEIR_CELL_RECEIVE (R207, R214, R217, R218) -/
def execWeirCellReceive (t : Fin 256) (k : Cell) (s : State) : Host.Outcome State Fault Refusal :=
  ok s (s.powered fun s =>
    if s.weirShut t || hType k.h == 8 || s.offered t != some k then s
    else
      let s := s.takeOffer t
      let label := hCirc k.h
      if hType k.h == 10 then s.weirVoidCell t k
      else if (s.tile t).refusing.contains label then s
      else
        match (s.tile t).openLabels.find? fun l => l.1 == label with
        | some l => s.stageCell t l.2.1 l.2.2 label k
        | none => s.count (WEIR_REFUSED t))

/-- WEIR_GROUP_FINAL (R214, R217, R219): the entry's next group is complete in every run. `group.residue` tells that the residue
code of an adder failed; so does an uncorrectable error in what is read (spec/11_memory_and_pools.md R297). -/
def execWeirGroupFinal (t : Fin 256) (entry : BitVec 12) (group : GroupEnd) (s : State) :
    Host.Outcome State Fault Refusal :=
  ok s (s.powered fun s =>
    let e := entry.toNat
    let y := (s.tile t).entry e
    let r := s.nodeRec t y.node
    let runs := List.range (nRuns r)
    if y.st == .free || y.failed || y.voided || group.group.val != y.finals || decide (nGroups r ≤ group.group.val) ||
        !runs.all fun i => y.runReady r i group.group then s
    else if group.residue then s.residue t e
    else
      let s := runs.foldl (fun s i => if ((s.tile t).entry e).runGroups i ≤ group.group.val then s.sumRuns t e i else s) s
      if ((s.tile t).entry e).failed then s
      else if s.poisoned (s.recAddr t e) 256 ||
          runs.any fun i => s.poisoned (s.runPlace t e r i group.group).1 (s.runPlace t e r i group.group).2 then
        (s.ueRead (s.runAddr t e)).residue t e
      else s.finalGroup t e group.group)

/-- WEIR_VOID (R218): a void reaches an entry from the management cores. -/
def execWeirVoid (t : Fin 256) (entry : BitVec 12) (s : State) : Host.Outcome State Fault Refusal :=
  ok s (s.powered fun s => ((s.voidEntry t entry.toNat).run t).drained)

/-! ### Meanings: instructions (R193, R194, R221, R222) -/

/-- WEIR_TAKE (R193) -/
def execIWeirTake (t : Fin 256) (h : Fin 16) (w : BitVec 56) (s : State) : Host.Outcome State Fault Refusal :=
  ok s (s.issue t h 3 (onlyUses w.toNat useD) [fD w.toNat] [] fun _ _ => .wait (.take (fD w.toNat)))

/-- WEIR_PEEK (R193) -/
def execIWeirPeek (t : Fin 256) (h : Fin 16) (w : BitVec 56) (s : State) : Host.Outcome State Fault Refusal :=
  ok s (s.issue t h 3 (onlyUses w.toNat useD) [fD w.toNat] [] fun s _ =>
    match (s.tile t).cq with
    | [] => .next (s.modThread t h fun y => y.setS (fD w.toNat) 0)
    | d :: q => .next (s.modTile t fun x =>
        let e := descEntry d
        let x := x.setEntry e { x.entry e with st := .taken, takenBy := some h.val, takenAt := x.takeCount }
        { x with cq := q, takeCount := x.takeCount + 1 }.setThread h ((x.thread h).setS (fD w.toNat) d)))

/-- The weight of an emitter queue as a tag increment (R94, R257). -/
def State.emitterInc (s : State) (key : Nat) : BitVec 32 :=
  match s.findGroup (key / 4096) (key % 4096) with
  | some g => BitVec.ofNat 32 (65536 / max 1 (s.grp g 7 1))
  | none => 65536

/-- A chunk handed to the emitter (R257). -/
def State.postChunk (s : State) (t : Nat) (p : Posted) : State :=
  let x := s.tile t
  let first := !x.posts.any fun q => q.key == p.key
  let tags := Table.get (0, 0) x.emTags p.key
  let f := tagMax x.emTime tags.2 + s.emitterInc p.key
  s.setTile t { x with
    posts := x.posts ++ [p]
    emTags := if first then Table.set natRank (0, 0) x.emTags p.key (f, tags.2) else x.emTags }

/-- The head of a post from its entry's record, without CCRC (R221, R222). -/
def State.postHead (s : State) (t e : Nat) (alone : Bool) : Payload :=
  let a := s.recAddr t e
  let y := (s.tile t).entry e
  let r := s.nodeRec t y.node
  let c := s.load a 4
  payFields [(0, 4, if nCarry r then c * nPieces r else c), (4, 4, s.load (a + 4) 4), (8, 4, s.load (a + 8) 4),
    (12, 2, nParentSlot r), (14, 1, s.load (a + 14) 1),
    (15, 1, flag (nGrad r) + 2 * flag alone + 4 * flag (nRoot r) + 8 * flag (nCarry r)),
    (16, 2, s.load (a + 16) 2), (24, 8, nPlanFp r)]

/-- WEIR_POST (R194, R201, R221, R222). The payload range of an entry that another thread has taken, or none, is checked
first, over the chunk of the entry's node; a FREE entry's chunk counts as 64 data cells (log entry 70). -/
def execIWeirPost (t : Fin 256) (h : Fin 16) (w : BitVec 56) (s : State) : Host.Outcome State Fault Refusal :=
  let n := w.toNat
  ok s (s.issue t h 3 (onlyUses n (useA ||| useB ||| useCC)) [fA n, fB n] [] fun s y =>
    let e := descEntry (y.getS (fA n))
    let b := (y.getS (fB n)).toNat
    let en := (s.tile t).entry e
    let r := s.nodeRec t en.node
    let mine := en.st == .taken && en.takenBy == some h.val
    let alone := mine && s.recFlag t e 3 && !nRoot r
    let used := en.st != .free
    let per := if alone then 0 else if !used || nCarry r then 64 else nWireCells r
    let pieces := if used && nCarry r && !alone then nPieces r else 1
    let len := 64 * per * pieces
    match firstFault [(!alone && b % 64 != 0, 0x03), (!alone && !ownRange t b len, 0x04), (!mine, 0x30)] with
    | some c => .fault c
    | none =>
      if en.voided then
        .next (((s.count (WEIR_POST_DISC t)).modTile t fun x => x.freeEntry e).drained)
      else
        let p : Posted :=
          { entry := e, key := nCtx r * 4096 + nGroup r, label := nOutCirc r, ctx := nCtx r, gen := s.genOf (nCtx r),
            head := s.postHead t e alone, addr := b, pieces := pieces, per := per, sent := 0, cc := fCC n }
        let s := if s.poisoned (s.recAddr t e) 256 then (s.ueRead (s.recAddr t e)).residue t e else s
        let s := s.modTile t fun x => (x.setEntry e { x.entry e with st := .sending }).ccAdd (fCC n) (pieces * (per + 1))
        .next (s.postChunk t p))

/-! ### The dry-furrow detector (R226, R227) -/

def tagAddr (s : State) (k : Nat) : Nat := (s.rd DRY_BASE).toNat + 64 * k

/-- Elements below `n` of a wire payload whose value is zero; a NaN is not zero. -/
def countZeros (fmt n : Nat) (pay : List Byte) : Nat :=
  let w := fmtBits fmt
  let sc := 64 * fmtScaleCells fmt
  let codes := ofBytes (pay.drop sc)
  (List.range n).countP fun i =>
    (decodeElem fmt (bitsOf codes (w * i) w)).isZero &&
      !(fmtScaled fmt && (pay.getD (i / 32) 0).toNat == scaleNan)

/-- A tag record is in use: VALID, and no uncorrectable error in it (spec/11_memory_and_pools.md Table 11-3a). -/
def State.tagValid (s : State) (k : Nat) : Bool := bitOf (s.load (tagAddr s k + 52) 1) 0 && !s.poisoned (tagAddr s k) 64

/-- The tags that watch a chunk. -/
def State.tagsFor (s : State) (ctx group red c : Nat) : List Nat :=
  (s.listed (s.rd DRY_BASE).toNat (4096 * 64) 64).filter fun k =>
    let a := tagAddr s k
    s.tagValid k && s.load a 2 % 4096 == ctx && s.load (a + 2) 2 % 4096 == group &&
      s.load (a + 4) 4 == red && decide (s.load (a + 8) 4 ≤ c) && decide (c ≤ s.load (a + 12) 4)

/-- A root's posted chunk enters the tallies of its tags. -/
def State.tally (s : State) (ctx group : Nat) (p : Payload) (nz : Nat) (pay : List Byte) : State :=
  if s.bit DRY_CFG DRY_CFG_ENABLE then
    let n := hdElems p
    let z := countZeros (hdFmt p) n pay
    (s.tagsFor ctx group (hdRedId p) (hdChunk p)).foldl (fun s k =>
      let a := tagAddr s k
      if s.load (a + 16) 4 = hdStep p then
        ((s.store (a + 20) 8 (s.load (a + 20) 8 + n)).store (a + 28) 8 (s.load (a + 28) 8 + z)).store (a + 36) 4
          (min 0xFFFFFFFF (s.load (a + 36) 4 + (z - (n - nz))))
      else s.store (a + 48) 4 (s.load (a + 48) 4 + 1)) s
  else s

/-- DRY_STEP_CLOSE (R227): the context's step counter has moved past CUR_STEP. -/
def execDryStepClose (tag : BitVec 12) (s : State) : Host.Outcome State Fault Refusal :=
  ok s (s.powered fun s =>
    let a := tagAddr s tag.toNat
    let ctx := s.load a 2 % 4096
    let now := s.fld (CTX_STATE ctx) CTX_STATE_STEP
    let cur := s.load (a + 16) 4
    let d := (now + 2 ^ 32 - cur) % 2 ^ 32
    if !s.tagValid tag.toNat || d = 0 || 2 ^ 31 ≤ d then s
    else
      let n := s.load (a + 20) 8
      let z := s.load (a + 28) 8
      let len := s.load (a + 44) 4 % 2 ^ 20
      let s :=
        if n = 0 then s
        else if s.fld DRY_CFG DRY_CFG_THRESH * n ≤ z * 2 ^ 20 then
          let s := (if len = 0 then s.store (a + 40) 4 cur else s).store (a + 44) 4 ((len + 1) % 2 ^ 20)
          if max 1 (s.fld DRY_CFG DRY_CFG_WINDOW) ≤ len + 1 then
            let e : Ev :=
              { cls := 0, src := sourceOf 7 0, code := evCode 0x0011, ctx := some ctx,
                detail := s.load (a + 40) 4 + cur * 2 ^ 32, extra := s.load (a + 36) 4 + tag.toNat * 2 ^ 32 }
            (((s.count DRY_EVENTS).raise e).store (a + 44) 4 0).store (a + 36) 4 0
          else s
        else (s.store (a + 44) 4 0).store (a + 36) 4 0
      ((s.store (a + 16) 4 now).store (a + 20) 8 0).store (a + 28) 8 0)

/-! ### The emitter (R257) -/

/-- The post that the emitter serves next: least tag, ties to the lower group; within a group the oldest. -/
def Tile.nextPost (x : Tile) (open_ : Nat → Bool) : Option Posted :=
  let keys := (x.posts.filter fun p => open_ p.ctx).map Posted.key
  let best := keys.foldl (fun b k =>
    match b with
    | none => some k
    | some b =>
      let fk := (Table.get (0, 0) x.emTags k).1
      let fb := (Table.get (0, 0) x.emTags b).1
      if tagBefore fk fb || (fk == fb && decide (k < b)) then some k else some b) none
  best.bind fun k => x.posts.find? fun p => p.key == k

/-- Head of piece `k` of a post with its CCRC. -/
def State.pieceHead (s : State) (p : Posted) (k : Nat) : Payload :=
  let h := if hdCarry p.head && 0 < p.per then
      paySet (paySet p.head 0 4 (hdChunk p.head + k)) 16 2 (pieceElems (hdElems p.head) k)
    else p.head
  paySet h 60 4 (crc32c (s.bytes (p.addr + 64 * p.per * k) (64 * p.per)))

/-- What the module notes as a post's head is formed: the output record, and the tallies at a root (R226, R260). -/
def State.noteOutput (s : State) (t : Nat) (p : Posted) (k : Nat) (h : Payload) : State :=
  let y := (s.tile t).entry p.entry
  let r := s.nodeRec t y.node
  let s := match s.findGroup p.ctx (p.key % 4096) with
    | some g => s.recordRing g (hdChunk h) (hdStep h) (hdRedId h) (nNodeId r) 0xFFFF (payNum h 14 1)
        (payNum h 15 1 % 128 + s.parity g y.chunk) (hdElems h) (hdCcrc h) []
    | none => s
  if nRoot r then
    s.tally p.ctx (p.key % 4096) h (s.load (s.recAddr t p.entry + 20) 4) (s.bytes (p.addr + 64 * p.per * k) (64 * p.per))
  else s

/-- The output record of the ring under replay for a node, collective, chunk and step: its CCRC (R261). -/
def State.replayOutput (s : State) (base size fuel at_ : Nat) (chunk step red node : Nat) : Option Nat :=
  match fuel with
  | 0 => none
  | n + 1 =>
    if size < at_ + 64 then none
    else
      let a := base + at_
      if s.load (a + 14) 2 = 0xFFFF && s.load a 4 = chunk && s.load (a + 4) 4 = step && s.load (a + 8) 4 = red &&
          s.load (a + 12) 2 = node then
        some (s.load (a + 20) 4)
      else State.replayOutput s base size n (at_ + 64 + s.load (a + 24) 4 / 64 * 64) chunk step red node

/-- A mismatch latched and reported (R261). -/
def State.replayDiff (s : State) (g : Nat) (h : Payload) (node want : Nat) : State :=
  let v := s.rd WM_REPLAY_DIFF0
  let s := if v.getLsbD 63 then s.wr WM_REPLAY_DIFF0 (v ||| BitVec.ofNat 64 (2 ^ 62))
    else (s.wr WM_REPLAY_DIFF0 (BitVec.ofNat 64 (2 ^ 63 + flag (v.getLsbD 62) * 2 ^ 62 + node * 2 ^ 32 + hdChunk h))).wr
      WM_REPLAY_DIFF1 (BitVec.ofNat 64 (hdStep h * 2 ^ 32 + want))
  s.notice 0 0x0014 (sourceOf 8 0) (hdCcrc h + node * 2 ^ 32) 0 (some (s.gCtx g))

/-- A post of a replaying group: every CCRC compared, the post discarded (R261). -/
def State.replayPost (s : State) (t g : Nat) (p : Posted) : State :=
  let x := s.group g
  let y := (s.tile t).entry p.entry
  let node := nNodeId (s.nodeRec t y.node)
  let s := (List.range p.pieces).foldl (fun s k =>
    let h := s.pieceHead p k
    match s.replayOutput x.replayBase x.replaySize (x.replaySize / 64 + 1) 0 (hdChunk h) (hdStep h) (hdRedId h) node with
    | some want => if want = hdCcrc h then s else s.replayDiff g h node want
    | none => s) s
  ((s.modTile t fun x => (x.ccSub p.cc (p.pieces * (p.per + 1))).freeEntry p.entry).run t).drained

/-- Tags after a cell of group queue `key` was sent, `more` telling whether the queue still holds one (R94). -/
def Tile.emSent (x : Tile) (key : Nat) (inc : BitVec 32) (more : Bool) : Tile :=
  let f := (Table.get (0, 0) x.emTags key).1
  { x with emTime := f, emTags := Table.set natRank (0, 0) x.emTags key (if more then f + inc else f, f) }

/-- EMITTER_SELECT (R194, R257): the next cell is accepted by the crossbar. -/
def execEmitterSelect (t : Fin 256) (s : State) : Host.Outcome State Fault Refusal :=
  ok s (s.powered fun s =>
    if s.issueStopped t || decide (8 ≤ (Table.get [] s.xin (tileOutput t)).length) then s
    else
      match (s.tile t).nextPost s.ctxOpen with
      | none => s
      | some p =>
        let g := s.findGroup p.ctx (p.key % 4096)
        match g.filter s.gReplay with
        | some g => s.replayPost t g p
        | none =>
          let k := p.sent / (p.per + 1)
          let i := p.sent % (p.per + 1)
          let h := s.pieceHead p k
          let chunk := hdChunk h
          let pay := if i = 0 then h
            else BitVec.ofNat 512 (s.load (p.addr + 64 * (p.per * k + i - 1)) 64)
          let s := if i = 0 then s.noteOutput t p k h else s
          let hdr := circuitHdr (if i = 0 then 8 else 2) 2 p.label (chunk % 2 ^ 27 * 128 + i) p.ctx p.gen
            (Config.ownSrc s.switchId).toNat (p.key % 4096) 64
          let s := s.inject (tileOutput t) 4 (.cell ⟨hdr, pay⟩)
          let done := decide (p.pieces * (p.per + 1) ≤ p.sent + 1)
          let inc := s.emitterInc p.key
          let s := s.modTile t fun x =>
            let x := x.ccSub p.cc 1
            let x := if done then x.freeEntry p.entry
              else { x with posts := x.posts.map fun q => if q.entry == p.entry then { q with sent := q.sent + 1 } else q }
            x.emSent p.key inc (x.posts.any fun q => q.key == p.key)
          (s.run t).drained)

/-! ### Registers and replay -/

/-- TILE_WEIR_CFG_WRITE (R229) -/
def State.weirCfgWrite (s : State) (t v : Nat) : State :=
  if (List.range 1024).any fun n => nValid (s.nodeRec t n) then s.notice 0 0x0010 (sourceOf 1 t) v
  else s.wr (TILE_WEIR_CFG t) (BitVec.ofNat 64 (storeFields
    [TILE_WEIR_CFG_ENABLE, TILE_WEIR_CFG_SIZE, TILE_WEIR_CFG_BASE] (s.rd (TILE_WEIR_CFG t)).toNat v))

def execTileWeirCfgWrite (t : Fin 256) (value : Word) (s : State) : Host.Outcome State Fault Refusal :=
  ok s (s.powered fun s => if s.bound t then s.weirCfgWrite t value.toNat else s)

/-- The header of a replayed cell. -/
def State.replayHdr (s : State) (type i label ctx gen tag a : Nat) : Hdr :=
  circuitHdr type 2 label (s.load a 4 % 2 ^ 27 * 128 + i) ctx gen 0 tag 64

/-- The head of a recorded contribution (R261). -/
def State.replayHead (s : State) (label ctx gen tag a r : Nat) : Cell :=
  ⟨s.replayHdr 8 0 label ctx gen tag a,
    payFields [(0, 4, s.load a 4), (4, 4, s.load (a + 4) 4), (8, 4, s.load (a + 8) 4), (12, 2, label % 1024),
      (14, 1, s.load (a + 16) 1), (15, 1, s.load (a + 17) 1 % 128), (16, 2, s.load (a + 18) 2), (24, 8, nPlanFp r),
      (60, 4, s.load (a + 20) 4)]⟩

/-- The cells of a recorded contribution given to its node (R261): the head, then the payload. -/
def State.feed (s : State) (t label ctx gen tag a r : Nat) : State :=
  (List.range (s.load (a + 24) 4 / 64)).foldl (fun s i =>
    let k : Cell := ⟨s.replayHdr 2 (i + 1) label ctx gen tag a, BitVec.ofNat 512 (s.load (a + 64 + 64 * i) 64)⟩
    match (s.tile t).openLabels.find? fun l => l.1 == label with
    | some l => s.stageCell t l.2.1 l.2.2 label k
    | none => s) (s.weirHead t (s.replayHead label ctx gen tag a r))

/-- An entry that finishes no further group unless another contribution comes: one that its next group needs is not there, or
the chunk has failed. -/
def State.entryStuck (s : State) (t e : Nat) : Bool :=
  let y := (s.tile t).entry e
  let r := s.nodeRec t y.node
  !y.voided && (y.failed || (decide (y.finals < nGroups r) && !(List.range (nRuns r)).all fun i => y.runReady r i y.finals))

/-- A chunk of which the replayed ring holds a part only is given up like a voided one (R261, R218, log entry 78). -/
def State.replayLeft (s : State) (g : Nat) : State :=
  ((s.groupEntries g).filter fun e => s.entryStuck e.1 e.2.1).foldl (fun s e => (s.voidEntry e.1 e.2.1).run e.1) s

/-- REPLAY_RECORD_FEED (R261): the next record of the ring goes to the node it names; a contribution whose entry holds
another chunk waits. At the end of the ring, when nothing of the group is left in an entry, the group is BOUND again; what a
partial chunk holds is given up first. -/
def execReplayRecordFeed (group : Fin 1024) (s : State) : Host.Outcome State Fault Refusal :=
  ok s (s.powered fun s =>
    let g := group.val
    let x := s.group g
    if !(s.gReplay g && s.gState g == 2) then s
    else if x.replaySize < x.replayAt + 64 then
      let s := s.replayLeft g
      if !(s.groupEntries g).isEmpty then s
      else
        ((s.setGBit g 5 1 false).setGState g 1).postPlain 8 (some (s.gCtx g)) (sourceOf 8 0) 0 (eventData [s.gHandle g])
    else
      let a := x.replayBase + x.replayAt
      let next := x.replayAt + 64 + s.load (a + 24) 4 / 64 * 64
      let slot := s.load (a + 14) 2
      let s' := s.setGroup g { x with replayAt := next }
      if 1024 ≤ slot then s'
      else
        match x.nodes.find? fun n => nNodeId (s.nodeRec n.1 n.2) == s.load (a + 12) 2 with
        | none => s'
        | some n =>
          let label := n.2 * 1024 + slot
          let r := s.nodeRec n.1 n.2
          let ctx := s.gCtx g
          if s.headWaits n.1 (s.replayHead label ctx (s.genOf ctx) (s.gHandle g) a r) then s
          else s'.feed n.1 label ctx (s.genOf ctx) (s.gHandle g) a r)

end Sys2Proof.Machine
end

