-- ==== Sys2Proof/Machine/Expert.lean ====
section
/-! DEFINITION. Sys2Proof/Machine/Expert.lean: expert dispatch, return delivery and the combine stages
(spec/10_expert_and_headwater.md R263-R282, R288). -/

namespace Sys2Proof.Machine

/-! ### Heads (Tables 10-1 and 10-2) -/

def xKind (p : Payload) : Nat := payNum p 2 1
def xEht (p : Payload) : Nat := payNum p 3 1 % 16
def xToken (p : Payload) : Nat := payNum p 4 4
def xStep (p : Payload) : Nat := payNum p 8 4
def xCells (p : Payload) : Nat := payNum p 12 1
def xFmt (p : Payload) : Nat := payNum p 13 1 % 16
def xGrad (p : Payload) : Bool := bitOf (payNum p 13 1) 4
def xNexp (p : Payload) : Nat := payNum p 14 1 % 16
def xNuse (p : Payload) : Nat := payNum p 14 1 / 16
def xExp (p : Payload) (k : Nat) : Nat := payNum p (16 + 2 * k) 2
def xWgt (p : Payload) (k : Nat) : Nat := payNum p (32 + 4 * k) 4
/-- COUNT of a ROLL. -/
def xCount (p : Payload) : Nat := payNum p 16 4
/-- POS, STATUS, DISP_SWITCH and CREF of a RETURN. -/
def xPos (p : Payload) : Nat := payNum p 16 1 % 8
def xFailed (p : Payload) : Bool := payNum p 17 1 != 0
def xDisp (p : Payload) : Nat := payNum p 18 2 % 4096
def xCref (p : Payload) : Nat := payNum p 20 2

def kindToken : Nat := 0
def kindRoll : Nat := 1
def kindCopy : Nat := 2
def kindReturn : Nat := 3
def kindResult : Nat := 4

/-- Data cells that follow a head that an endpoint sends: none after a ROLL or a FAILED return (R264, R276). -/
def xFollow (p : Payload) : Nat :=
  if xKind p = kindRoll || (xKind p = kindReturn && xFailed p) then 0 else xCells p

/-- Data cells of a copy or result of `n` token cells (R265). -/
def prefixedCells (n : Nat) : Nat := (64 * n + 55) / 56

/-- Data cells that follow a head which the dispatcher refuses: those of its kind; NCELLS for a reserved one (log entry 8). -/
def xRefused (p : Payload) : Nat :=
  if xKind p = kindCopy || xKind p = kindResult then prefixedCells (xCells p) else xFollow p

/-! ### EHT headers and entries (Tables 10-3 and 10-4) -/

def State.ehtCtx (s : State) (h : Nat) : Nat := s.ehtNum h 0 2 % 4096
def State.ehtGen (s : State) (h : Nat) : Nat := s.ehtNum h 2 1 % 16
def State.ehtFlag (s : State) (h b : Nat) : Bool := bitOf (s.ehtNum h 3 1) b
def State.ehtBank (s : State) (h : Nat) : Nat := flag (s.ehtFlag h 1)
def State.ehtPending (s : State) (h : Nat) : Bool := s.ehtFlag h 2
def State.ehtArrival (s : State) (h : Nat) : Bool := s.ehtFlag h 3
def State.ehtPolicy (s : State) (h : Nat) : Nat := s.ehtNum h 3 1 / 16 % 4
def State.ehtCur (s : State) (h : Nat) : Nat := s.ehtNum h 24 4
def State.setEht_ (s : State) (h b n v : Nat) : State := s.store (ehtAddr s h + b) n v
def State.modEht (s : State) (h : Nat) (f : Eht → Eht) : State := s.setEht h (f (s.eht h))

def entAddr (s : State) (h bank x : Nat) : Nat :=
  (s.rd EXP_ENT_BASE).toNat + 8 * (65536 * bank + s.ehtNum h 4 2 + x)

/-- The entry of expert `x` in the bank in force. -/
def State.ehtEntry (s : State) (h x : Nat) : Nat := s.entry (entAddr s h (s.ehtBank h) x) 8

/-- Ranks of the sources: the endpoint indexes set in SRC_MASK (R272). -/
def State.sources (s : State) (h : Nat) : List Nat := bitsSet 256 (s.ehtNum h 72 32)

/-- The EHT of a TYPE 14 cell when it is VALID for the cell's context and generation (R267). -/
def State.ehtFor (s : State) (k : Cell) : Option Nat :=
  let h := xEht k.pay
  if s.ehtValid h && s.ehtCtx h == hCtx k.h && s.ehtGen h == hGen k.h then some h else none

/-- A message of `n` cells refused: counted in EXP_INVALID, with its class C event (R267). -/
def State.expInvalid (s : State) (k : Cell) (n : Nat := 1) : State :=
  (s.count EXP_INVALID n).raise
    { cls := 1, src := sourceOf 9 0, code := evCode 0x0015 (xEht k.pay), ctx := some (hCtx k.h),
      detail := xToken k.pay + hSrc k.h * 2 ^ 32 }

/-- Cells of a message. -/
def cellsOfMsg (m : HeadMsg) : Nat := 1 + m.data.length

/-! ### Arrival at the dispatcher (R266, R267, R270) -/

/-- A whole message of port `p` joins those that wait for the dispatcher: in the order of their last cells, and of messages
complete in one core cycle the lower port first (R275). -/
def putMsg (p c : Nat) (m : HeadMsg) : List (Nat × Nat × HeadMsg) → List (Nat × Nat × HeadMsg)
  | [] => [(p, c, m)]
  | x :: r => if x.2.1 = c && p < x.1 then (p, c, m) :: x :: r else x :: putMsg p c m r

def State.expPut (s : State) (p : Nat) (m : HeadMsg) : State := s.putExpIn (putMsg p s.cycle m s.expIn)

/-- The owner entry of a source in the token pool (spec/11_memory_and_pools.md Table 11-5, log entry 20). -/
def State.sourceOwner (s : State) (h rank : Nat) : Option (Nat × Owner) :=
  s.owners.find? fun e =>
    e.2.kind == 3 && e.2.pool == s.ehtNum h 13 1 && e.2.key == ownerKey (s.ehtCtx h) (256 * h + rank)

/-- The source of a token's head: EHT, owner entry. None for a cell that needs no buffer (R267, R270). -/
def State.tokenSource (s : State) (k : Cell) : Option (Nat × Nat × Owner) :=
  if hSeq k.h % 256 != 0 || xKind k.pay != kindToken then none
  else
    (s.ehtFor k).bind fun h =>
      if (s.sources h).contains (hSrc k.h % 256) then (s.sourceOwner h (hSrc k.h % 256)).map fun o => (h, o.1, o.2) else none

/-- The buffer granted to port `p` for owner `o`. -/
def State.tokenGrant (s : State) (p o : Nat) : Option (Waiter × Word) :=
  s.grants.find? fun e => e.1.asker == .port p && e.1.owner == o

/-- A buffer for the token of port `p` asked for, unless one is granted or asked for already. The dispatcher operates no pool
below 4 (spec/11_memory_and_pools.md Table 11-7). -/
def State.askBuffer (s : State) (p o : Nat) (x : Owner) : State :=
  if (s.tokenGrant p o).isSome || s.waiters.any (fun w => w.asker == .port p) || !operates .dispatcher x.pool then s
  else s.poolAlloc ⟨.dispatcher, x.pool, o, .port p⟩ true

/-- Whether the dispatcher can take cell `k` of port `p`: the head of a token needs a buffer of its source's pool, for which
the dispatcher waits in the waiter list (R270; spec/11_memory_and_pools.md R310). -/
def State.headBuffer (s : State) (p : Nat) (k : Cell) : Bool × State :=
  match s.tokenSource k with
  | none => (true, s)
  | some (_, o, x) =>
    let s := s.askBuffer p o x
    ((s.tokenGrant p o).isSome, s)

/-- The dispatcher takes no cell from a port: it is off, or a message of the port waits for it. -/
def State.expBlocked (s : State) (p : Nat) : Bool :=
  !s.bit EXP_CFG EXP_CFG_ENABLE || s.expIn.any fun e => e.1 == p

/-- A cell that the dispatcher takes from a port: a head opens a message, a data cell joins the open one, and a whole message
waits for the dispatcher. A refused head stays open with TYPE 0 until its data cells have gone. -/
def State.expExamine (s : State) (p : Nat) (k : Cell) : State :=
  if hSeq k.h % 256 = 0 then
    let kd := xKind k.pay
    let good := (kd == kindToken || kd == kindRoll || kd == kindReturn) && (s.ehtFor k).isSome
    if !good then
      let s := s.expInvalid k
      s.putExpOpen (if xRefused k.pay = 0 then Table.del s.expOpen p else Table.put natRank s.expOpen p ⟨⟨0, k.pay⟩, []⟩)
    else if xFollow k.pay = 0 then
      (s.expPut p ⟨k, []⟩).putExpOpen (Table.del s.expOpen p)
    else s.putExpOpen (Table.put natRank s.expOpen p ⟨k, []⟩)
  else
    match Table.look s.expOpen p with
    | none => s.count EXP_STRAY
    | some m =>
      let m := { m with data := m.data ++ [k] }
      if hType m.head.h != 14 then
        (s.count EXP_INVALID).putExpOpen
          (if m.data.length < xRefused m.head.pay then Table.put natRank s.expOpen p m else Table.del s.expOpen p)
      else if m.data.length < xFollow m.head.pay then s.putExpOpen (Table.put natRank s.expOpen p m)
      else (s.expPut p m).putExpOpen (Table.del s.expOpen p)

/-- The cells that wait at a port are taken, with their credits, until a message of the port waits again or a token finds no
buffer. -/
def State.expTakeCells (s : State) (p : Nat) : Nat → State
  | 0 => s
  | n + 1 =>
    if s.expBlocked p then s
    else
      match s.expWait.find? fun e => e.1 == p with
      | some (_, k) =>
        match s.headBuffer p k with
        | (false, s) => s
        | (true, s) => (((s.putExpWait (s.expWait.erase (p, k))).returnCredit p (hVc k.h)).expExamine p k).expTakeCells p n
      | none => s

/-- What waits at a port is taken as far as the dispatcher takes it. -/
def State.expRelease (s : State) (p : Nat) : State := s.expTakeCells p (s.expWait.countP fun e => e.1 == p)

/-- What waits at every port is taken as far as the dispatcher takes it. -/
def State.expReleaseAll (s : State) : State := (s.expWait.map Prod.fst).eraseDups.foldl State.expRelease s

/-- A TYPE 14 cell that a port of role ENDPOINT hands to the dispatcher. While the dispatcher takes none from the port, it
waits and its credit is withheld (R270, R291; spec/03_reservoir.md R70, R75). -/
def State.expArrive (s : State) (p : Nat) (k : Cell) : State :=
  let s := s.countCell (hCtx k.h) (hGen k.h)
  let s := (s.putExpWait (s.expWait ++ [(p, k)])).expRelease p
  s.also (s.expWait.any fun e => e.1 == p) fun s => s.count (PORT_CREDIT_HELD p)

/-- The message of a port that waits for the dispatcher. -/
def State.expFirst (s : State) (p : Nat) : Option HeadMsg := (s.expIn.find? fun e => e.1 == p).map fun e => e.2.2

/-- The message of port `p` leaves the dispatcher's input. -/
def State.expTake (s : State) (p : Nat) : State := (s.putExpIn (s.expIn.filter fun e => e.1 != p)).expRelease p

/-! ### Tokens (R270) -/

/-- The buffer of the token of port `p`: one that it has been granted, else one of the pool. -/
def State.tokenBuffer (s : State) (p o : Nat) (x : Owner) : Option Word × State :=
  let s := s.askBuffer p o x
  match s.tokenGrant p o with
  | some e => (some e.2, s.putGrants (s.grants.erase e))
  | none => (none, s)

/-- In arrival mode a token whose last cell came before that of port `p` is received first (R275). -/
def State.tokenEarlier (s : State) (p h : Nat) : Bool :=
  s.ehtArrival h &&
    (s.expIn.takeWhile fun e => e.1 != p).any fun e => xKind e.2.2.head.pay == kindToken && s.ehtFor e.2.2.head == some h

/-- TOKEN_RECEIVE (R270): a whole token is buffered in a buffer of its source, or waits while none is free. A token of an
endpoint that is no source of the EHT is discarded as R267 discards an invalid head (log entry 8). -/
def execTokenReceive (port : Fin 1024) (m : HeadMsg) (s : State) : Host.Outcome State Fault Refusal :=
  ok s (s.powered fun s =>
    if !s.bit EXP_CFG EXP_CFG_ENABLE || xKind m.head.pay != kindToken || s.expFirst port != some m then s
    else
      match s.ehtFor m.head with
      | none => (s.expInvalid m.head (cellsOfMsg m)).expTake port
      | some h =>
        let src := hSrc m.head.h
        let rank := src % 256
        if !(s.sources h).contains rank then (s.expInvalid m.head (cellsOfMsg m)).expTake port
        else
          match s.sourceOwner h rank with
          | none => s
          | some (o, x) =>
            if s.tokenEarlier port h then s
            else
            match s.tokenBuffer port.val o x with
              | (none, s) => s
              | (some b, s) =>
                let img := (m.head.pay :: m.data.map Cell.pay).flatMap payBytes
                let s := s.put (handleAddr b) (img.take (s.pool x.pool).bytes)
                let t : Token := ⟨src, rank, m.head.pay, m.data.map Cell.pay, b, false⟩
                (s.modEht h fun e => { e with tokens := e.tokens ++ [t] }).expTake port)

/-- ROLL_RECEIVE (R272, R275) -/
def execRollReceive (port : Fin 1024) (k : Cell) (s : State) : Host.Outcome State Fault Refusal :=
  ok s (s.powered fun s =>
    if !s.bit EXP_CFG EXP_CFG_ENABLE || xKind k.pay != kindRoll || s.expFirst port != some ⟨k, []⟩ then s
    else
      let s := s.expTake port
      match s.ehtFor k with
      | none => s.expInvalid k
      | some h =>
        let e := s.eht h
        let r := hSrc k.h % 256
        let old := decide (xStep k.pay < s.ehtCur h) || (e.opened && xStep k.pay == s.ehtCur h) ||
          e.rolls.any fun x => x.1 == xStep k.pay && x.2.1 == r
        if s.ehtArrival h || old || !(s.sources h).contains r then s.count EXP_INVALID
        else s.setEht h { e with rolls := e.rolls ++ [(xStep k.pay, r, xCount k.pay)] })

/-- COUNT of source `r` for step `st`, when its ROLL has come. -/
def Eht.roll (e : Eht) (st r : Nat) : Option Nat :=
  (e.rolls.find? fun x => x.1 == st && x.2.1 == r).map fun x => x.2.2

/-- The step that ordered mode opens next. -/
def State.nextStep (s : State) (h : Nat) : Nat := if (s.eht h).opened then (s.ehtCur h + 1) % 2 ^ 32 else s.ehtCur h

/-- Step `st` opens: counts restart, a pending bank takes over, held tokens come first (R269, R270, R272). -/
def State.openStep (s : State) (h st : Nat) : State :=
  let s := s.setEht_ h 24 4 st
  let s := if s.ehtPending h && decide (s.ehtNum h 20 4 ≤ st) then
      s.setEht_ h 3 1 (putBits (putBits (s.ehtNum h 3 1) 1 1 (1 - s.ehtBank h)) 2 1 0)
    else s
  s.modEht h fun e =>
    { e with opened := true, counts := [], next := [], held := e.held ++ e.nextHeld, nextHeld := [],
             rolls := e.rolls.filter fun x => decide (st ≤ x.1) }

/-- STEP_OPEN (R272, R275) -/
def execStepOpen (eht : Fin 16) (s : State) : Host.Outcome State Fault Refusal :=
  ok s (s.powered fun s =>
    let h := eht.val
    let e := s.eht h
    if !s.ehtValid h || !e.held.isEmpty then s
    else if s.ehtArrival h then
      match e.tokens with
      | t :: _ => if s.ehtCur h < xStep t.head then s.openStep h (xStep t.head) else s
      | [] => s
    else
      let st := s.nextStep h
      let all := (s.sources h).all fun r => (e.roll st r).isSome
      let past := !e.opened || (s.sources h).all fun r =>
        decide ((e.roll (s.ehtCur h) r).getD 0 ≤ Table.get 0 e.next r)
      if all && past then s.openStep h st else s)

/-- ROLL_TIMEOUT (R273): the sources whose ROLL of a step is missing, when another source's has come; every step that
has not opened has its own timer. -/
def execRollTimeout (step : EhtStep) (s : State) : Host.Outcome State Fault Refusal :=
  ok s (s.powered fun s =>
    let h := step.eht.val
    let e := s.eht h
    let st := step.step.toNat
    let missing := (s.sources h).filter fun r => (e.roll st r).isNone
    if s.ehtValid h && !s.ehtArrival h && !missing.isEmpty && e.rolls.any (fun x => x.1 == st) then
      s.raise { cls := 1, src := sourceOf 9 0, code := evCode 0x0016 h, ctx := some (s.ehtCtx h), detail := st * 2 ^ 32,
                more := toBytes 32 (missing.foldl (fun n r => n + 2 ^ r) 0) }
    else s)

/-! ### Decisions (R270, Table 10-5) -/

/-- Why a position cannot be taken. -/
inductive PosTest where
  | invalid | full | free
  deriving DecidableEq, Repr

/-- Steps 1 and 2 of R270 for expert `x`. -/
def State.testExpert (s : State) (h : Nat) (counts : List (Nat × Nat)) (used : List Nat) (x : Nat) : PosTest :=
  let e := s.ehtEntry h x
  if s.ehtNum h 6 4 ≤ x || !bitOf e 63 || used.contains x then .invalid
  else if bitsOf e 0 16 != 0xFFFF && decide (bitsOf e 0 16 ≤ Table.get 0 counts x) then .full
  else .free

/-- A decision in progress. `hold` tells that HOLD takes the whole token, `bad` that a reserved POLICY was met. -/
structure Choice where
  counts : List (Nat × Nat)
  chosen : List Nat
  tried : List Nat
  dropped : Nat
  flags : Nat
  full : Nat
  replaced : Nat
  invalid : Nat
  hold : Bool
  bad : Bool

/-- RFLAGS (Table 10-2). -/
def flagHeld : Nat := 1
def flagInvalid : Nat := 2
def flagLate : Nat := 4
def flagLost : Nat := 8
def flagFailed : Nat := 16

def Choice.take (c : Choice) (p : Payload) (k : Nat) : Choice :=
  let x := xExp p k
  { c with counts := Table.set natRank 0 c.counts x (Table.get 0 c.counts x + 1), chosen := c.chosen ++ [k] }

/-- Position `k` decided; `holds` tells whether POLICY HOLD may still hold the token. -/
def State.choose_ (s : State) (h : Nat) (p : Payload) (holds : Bool) (c : Choice) (k : Nat) : Choice :=
  let used (c : Choice) := c.chosen.map (xExp p)
  match s.testExpert h c.counts (used c) (xExp p k) with
  | .invalid => { c with dropped := c.dropped + 2 ^ k, flags := c.flags ||| flagInvalid, invalid := c.invalid + 1 }
  | .free => c.take p k
  | .full =>
    let drop := { c with dropped := c.dropped + 2 ^ k, full := c.full + 1 }
    match s.ehtPolicy h with
    | 0 => drop
    | 1 =>
      let alts := (List.range (xNexp p)).filter fun j =>
        decide (xNuse p ≤ j) && !c.chosen.contains j && !c.tried.contains j
      match alts.find? fun j => s.testExpert h c.counts (used c) (xExp p j) == .free with
      | some j => { ({ c with tried := c.tried ++ (alts.filter fun i => decide (i < j)) }.take p j) with
                    replaced := c.replaced + 1 }
      | none => { drop with tried := c.tried ++ alts }
    | 2 => if holds then { c with hold := true } else drop
    | _ => { c with bad := true }

/-- The whole decision of a token (R270). -/
def State.decideToken (s : State) (h : Nat) (t : Token) (holds : Bool) : Choice :=
  let p := t.head
  let c0 : Choice := ⟨(s.eht h).counts, [], [], 0, 0, 0, 0, 0, false, false⟩
  let n := xNuse p
  let all := 2 ^ n - 1
  if s.ehtNum h 11 1 < xCells p || s.ehtNum h 12 1 < n then
    { c0 with dropped := all, flags := flagInvalid, invalid := n }
  else (List.range n).foldl (fun c k => if c.hold || c.bad then c else s.choose_ h p holds c k) c0

/-- A token's buffer freed. -/
def State.freeToken (s : State) (h : Nat) (t : Token) : State :=
  match s.sourceOwner h t.rank with
  | some (o, x) => s.poolFreeHandle x.pool o t.buf
  | none => s

/-- What is decided next, and how: a held token, one that is late or beyond COUNT, or the one whose turn it is. -/
inductive Turn where
  | held (t : Token)
  | late (t : Token)
  | extra (t : Token)
  | turn (t : Token)
  | none

/-- The order of ordered mode: (TOKEN, rank) (R272). -/
def tokenRank (token rank : Nat) : Nat := token * 256 + rank

def Token.order (t : Token) : Nat := tokenRank (xToken t.head) t.rank

/-- What ordered mode decides next in the open step: the least token all of whose predecessors below their COUNT are decided
(R272). -/
def State.nextOrdered (s : State) (h : Nat) : Turn :=
  let e := s.eht h
  let cur := s.ehtCur h
  let count (r : Nat) := (e.roll cur r).getD 0
  let due := leastBy (fun r => tokenRank (Table.get 0 e.next r) r)
    ((s.sources h).filter fun r => decide (Table.get 0 e.next r < count r))
  let here := e.tokens.filter fun t => xStep t.head == cur
  let first (t : Token) := due.all fun r => decide (t.order < tokenRank (Table.get 0 e.next r) r)
  match leastBy Token.order (here.filter fun t => decide (count t.rank ≤ xToken t.head) && first t) with
  | some t => .extra t
  | none =>
    match due.bind fun r => here.find? fun t => t.rank == r && xToken t.head == Table.get 0 e.next r with
    | some t => .turn t
    | none => .none

def State.nextToken (s : State) (h : Nat) : Turn :=
  let e := s.eht h
  let cur := s.ehtCur h
  match e.held with
  | t :: _ => if e.opened then .held t else .none
  | [] =>
    match e.tokens.find? fun t => decide (xStep t.head < cur) with
    | some t => .late t
    | none =>
      if s.ehtArrival h then
        match e.tokens with
        | t :: _ => if xStep t.head = cur then .turn t else .none
        | [] => .none
      else if e.opened then s.nextOrdered h
      else .none

/-- A decided token joins those that wait for a combine entry. -/
def State.decide_ (s : State) (h : Nat) (d : Decided) : State :=
  (s.count EXP_TOKENS).modEht h fun e => { e with decided := e.decided ++ [d] }

/-- The outcome of a decision entered: counts, counters, the token decided or held. -/
def State.settleChoice (s : State) (h : Nat) (t : Token) (c : Choice) (second : Bool) : State :=
  if c.hold then
    (s.count EXP_HELD).modEht h fun e => { e with nextHeld := e.nextHeld ++ [{ t with wasHeld := true }] }
  else
    let s := ((s.count EXP_DROPPED c.full).count EXP_REPLACED c.replaced).count EXP_INVALID c.invalid
    let s := s.modEht h fun e => { e with counts := c.counts }
    s.decide_ h ⟨t, c.chosen.mergeSort (fun a b => decide (a ≤ b)), c.dropped,
      c.flags ||| (if second then flagHeld else 0), c.chosen.map fun k => (k, bitsOf (s.ehtEntry h (xExp t.head k)) 40 17)⟩

/-- TOKEN_DECIDE (R270-R275): the next token is decided. In ordered mode nothing is decided while a decided token waits for
its combine entry (R271). A reserved POLICY, met at a full position, is a fault. -/
def execTokenDecide (eht : Fin 16) (s : State) : Host.Outcome State Fault Refusal :=
  let h := eht.val
  let e := s.eht h
  let blocked := !s.on || !s.ehtValid h || (!s.ehtArrival h && !e.decided.isEmpty)
  let room := decide (e.held.length + e.nextHeld.length < s.ehtNum h 14 2)
  if blocked then ok s s
  else
    match s.nextToken h with
    | .none => ok s s
    | .late t =>
      ok s (((s.count EXP_LATE).modEht h fun e => { e with tokens := e.tokens.erase t }).decide_ h
        ⟨t, [], 2 ^ xNuse t.head - 1, flagLate, []⟩)
    | .extra t =>
      ok s (((s.count EXP_INVALID (xNuse t.head)).modEht h fun e => { e with tokens := e.tokens.erase t }).decide_ h
        ⟨t, [], 2 ^ xNuse t.head - 1, flagInvalid, []⟩)
    | .held t =>
      let c := s.decideToken h t false
      if c.bad then .fault (.reservedValue "EHT.POLICY")
      else ok s ((s.modEht h fun e => { e with held := e.held.drop 1 }).settleChoice h t c true)
    | .turn t =>
      let c := s.decideToken h t room
      if c.bad then .fault (.reservedValue "EHT.POLICY")
      else
        let s' := s.modEht h fun e =>
          { e with tokens := e.tokens.erase t, next := Table.set natRank 0 e.next t.rank (xToken t.head + 1) }
        ok s (s'.settleChoice h t c false)

/-! ### Combine entries and copies (R271) -/

def combKey (h cent : Nat) : Nat := 2048 * h + cent

/-- Address of a combine entry in tile `t`. -/
def combAddr (s : State) (h t cent : Nat) : Nat := t * tileBytes + s.ehtNum h 36 4 + s.ehtNum h 32 4 * cent

/-- A head of the module's own (Table 10-1). -/
def State.ownHead (s : State) (kind h token step ncells fmt exps : Nat) (rest : List (Nat × Nat × Nat)) : Payload :=
  payFields ([(0, 2, s.switchId), (2, 1, kind), (3, 1, h), (4, 4, token), (8, 4, step), (12, 1, ncells), (13, 1, fmt),
    (14, 1, exps)] ++ rest)

/-- A head and its prefixed data cells sent to endpoint `ep` from crossbar input `input` (R263, R265, R281). -/
def State.sendTokenCells (s : State) (ep ctx gen token cref : Nat) (head : Payload) (data : List Byte) (n input : Nat) :
    State :=
  if !s.ctxOpen ctx then s
  else
    let s := s.originate ep 14 4 ctx gen (token % 4096) 0 64 head input
    (List.range n).foldl (fun s i =>
      let part := (data.drop (56 * i)).take 56
      let p := payOf (toBytes 2 s.switchId ++ toBytes 2 cref ++ toBytes 4 token ++ part)
      s.originate ep 14 4 ctx gen (token % 4096) (i + 1) 64 p input) s

/-- The data bytes of a decided token as the dispatcher reads them from its pool buffer: with an uncorrectable error there, the
error is counted, and what a reader that is no thread goes on with is open (spec/11_memory_and_pools.md Table 11-3a;
log entry 7). -/
def State.tokenBytes (s : State) (d : Decided) : List Byte × State :=
  let l := d.tok.data.flatMap payBytes
  let a := handleAddr d.tok.buf + 64
  if s.poisoned a l.length then (s.ueRead a).draw l.length else (l, s)

/-- The COPY of a decided token for one home (R271). -/
def State.sendCopy (s : State) (h : Nat) (d : Decided) (data : List Byte) (cref home : Nat) : State :=
  let p := d.tok.head
  let mask := (d.chosen.filter fun k => Table.get 0 d.homes k == home).foldl (fun m k => m + 2 ^ k) 0
  let head := s.ownHead kindCopy h (xToken p) (xStep p) (xCells p) (payNum p 13 1) (payNum p 14 1)
    ([(16, 1, mask), (17, 3, d.tok.src), (20, 2, cref)] ++ (List.range 8).map fun k => (24 + 2 * k, 2, xExp p k))
  s.sendTokenCells home (s.ehtCtx h) (s.ehtGen h) (xToken p) cref head data
    (prefixedCells (xCells p)) mgmtOutput

/-! ### The combine stage (R278-R281) -/

/-- Whether position `k` of an entry holds a FAILED head, or its head with all data cells. -/
def Comb.done (c : Comb) (k : Nat) : Bool :=
  match c.got.find? fun g => g.1 == k with
  | some g => g.2.1 || decide (g.2.2.length = c.ncells)
  | none => false

def Comb.failed (c : Comb) (k : Nat) : Bool :=
  match c.got.find? fun g => g.1 == k with
  | some g => g.2.1
  | none => false

/-- Area of position `k`: its rank among the expected positions. -/
def Comb.area (c : Comb) (k : Nat) : Nat := (c.expected.filter fun i => decide (i < k)).length

/-- One step of the chain of R279. -/
def combStep (acc : Option FNum × Nat) (w y : FNum) : Option FNum × Nat :=
  let (m, f) := w.mul y
  let (x, g) := match acc.1 with
    | none => (m, 0)
    | some a => m.add a
  let (z, r) := toFp32 x
  (some z, acc.2 ||| f ||| g ||| r)

/-- The combined token as bytes, and the flags raised (R279, R288). -/
def State.combined (s : State) (c : Comb) (a : Nat) : List Byte × Nat :=
  let w := fmtBits c.fmt
  let used := c.expected.filter fun k => c.done k && !c.failed k
  let outs := used.map fun k =>
    (fp32.decodeIEEE (c.weights.getD k 0).toNat, s.load (a + 64 * (2 + c.area k * (c.ncells + 1))) (64 * c.ncells))
  let n := 64 * c.ncells * 8 / w
  let seed := (s.ctx c.ctx).seed.toNat
  let res := (List.range n).map fun e =>
    let acc := outs.foldl (fun acc o => combStep acc o.1 (decodeElem c.fmt (bitsOf o.2 (w * e) w))) (none, 0)
    let r := if c.grad then some (randomBits seed 0xC000 c.token c.source c.step e) else none
    let (code, f) := encodeNum c.fmt false r (acc.1.getD (.fin false 0 0))
    (code, acc.2 ||| f)
  (res.flatMap fun x => toBytes (w / 8) x.1, res.foldl (fun f x => f ||| x.2) 0)

/-- An entry combines what is complete and sends its RESULT; it becomes free when the crossbar has accepted the last cell, at
once when no cell leaves (R279-R281). -/
def State.combine (s : State) (t key : Nat) (c : Comb) : State :=
  let h := c.eht
  let a := combAddr s h t c.cent
  let (data, f) := s.combined c a
  let s := s.setFlags t engineVU f (some c.ctx)
  let used := c.expected.filter fun k => c.done k && !c.failed k
  let lost := c.expected.filter fun k => !c.done k
  let bad := c.expected.filter c.failed
  let mask (l : List Nat) := l.foldl (fun m k => m + 2 ^ k) 0
  let flags := c.flags ||| (if lost.isEmpty then 0 else flagLost) ||| (if bad.isEmpty then 0 else flagFailed)
  let cref := ((s.combineTile h t).getD 0) * 2048 + c.cent
  let head := s.ownHead kindResult h c.token c.step c.ncells (c.fmt + 16 * flag c.grad) c.exps
    [(16, 1, mask used), (17, 1, c.dropped ||| mask lost ||| mask bad), (18, 1, flags)]
  let waiting (s : State) := (Table.get [] s.xin (tileOutput t)).length
  let s' := s.sendTokenCells c.source c.ctx c.gen c.token cref head data (prefixedCells c.ncells) (tileOutput t)
  let n := waiting s' - waiting s
  s'.modTile t fun x =>
    if n = 0 then { x with combs := Table.del x.combs key }
    else { x with combs := Table.put natRank x.combs key { c with sending := true },
                  combTx := x.combTx ++ List.replicate n (some key) }

/-- The entry combines when it is complete (R278, R279). -/
def State.tryCombine (s : State) (t key : Nat) : State :=
  match Table.look (s.tile t).combs key with
  | some c => if c.expected.all c.done then s.combine t key c else s
  | none => s

/-- The combine tile of a decided token: CT = TOKEN mod NCT (R271). -/
def State.entryCt (s : State) (h : Nat) (d : Decided) : Nat := xToken d.tok.head % max 1 (s.ehtNum h 10 1)

/-- The lowest free entry of a decided token's combine tile (R271). -/
def State.freeEntry (s : State) (h : Nat) (d : Decided) : Option Nat :=
  let t := s.ehtNum h (40 + s.entryCt h d) 1
  lowest (s.ehtNum h 28 2) fun i => !Table.has (s.tile t).combs (combKey h i)

/-- The decided token that gets its entry next: the first, in arrival mode the first whose tile has one free (R271). -/
def State.nextDecided (s : State) (h : Nat) : Option Decided :=
  if s.ehtArrival h then (s.eht h).decided.find? fun d => (s.freeEntry h d).isSome else (s.eht h).decided.head?

/-- COMBINE_ENTRY_ALLOCATE (R271): the next decided token gets the lowest free entry of its combine tile, its header is
written, and one COPY goes to each home. The spec gives the header no layout, so its 64 bytes are free values. -/
def execCombineEntryAllocate (eht : Fin 16) (s : State) : Host.Outcome State Fault Refusal :=
  ok s (s.powered fun s =>
    let h := eht.val
    match s.nextDecided h with
    | none => s
    | some d =>
      let p := d.tok.head
      let ct := s.entryCt h d
      let t := s.ehtNum h (40 + ct) 1
      match s.freeEntry h d with
      | none => s
      | some cent =>
        let key := combKey h cent
        let c : Comb :=
          { eht := h, cent := cent, expected := d.chosen,
            weights := (List.range 8).map fun k => BitVec.ofNat 32 (xWgt p k), source := d.tok.src, token := xToken p,
            step := xStep p, fmt := xFmt p, grad := xGrad p, ncells := xCells p, exps := payNum p 14 1,
            dropped := d.dropped, flags := d.flags, got := [], labels := [], sending := false, ctx := s.ehtCtx h, gen := s.ehtGen h }
        let s := s.modEht h fun e => { e with decided := e.decided.erase d }
        let s := s.modTile t fun x => { x with combs := Table.put natRank x.combs key c }
        let s := (List.range 8).foldl (fun s i =>
          let (f, s) := s.free
          s.put (combAddr s h t cent + 8 * i) (toBytes 8 f.toNat)) s
        let homes := (d.chosen.map fun k => Table.get 0 d.homes k).eraseDups
        let (data, s) := s.tokenBytes d
        let s := homes.foldl (fun s home => s.sendCopy h d data (ct * 2048 + cent) home) s
        (s.freeToken h d.tok).tryCombine t key)

/-- RETURN_RECEIVE (R267, R277) -/
def execReturnReceive (port : Fin 1024) (m : HeadMsg) (s : State) : Host.Outcome State Fault Refusal :=
  ok s (s.powered fun s =>
    if !s.bit EXP_CFG EXP_CFG_ENABLE || xKind m.head.pay != kindReturn || s.expFirst port != some m then s
    else
      let s := s.expTake port
      match s.ehtFor m.head with
      | none => s.expInvalid m.head (cellsOfMsg m)
      | some h =>
        let p := m.head.pay
        let d := xDisp p
        let ct := xCref p / 2048 % 32
        let cent := xCref p % 2048
        let pays := p :: m.data.map Cell.pay
        let cell (label i : Nat) (q : Payload) : Cell :=
          ⟨circuitHdr 2 4 label (i + 256 * xPos p) (s.ehtCtx h) (s.ehtGen h) (Config.ownSrc s.switchId).toNat cent 64, q⟩
        if d = s.switchId then
          let t := s.ehtNum h (40 + ct) 1
          pays.zipIdx.foldl (fun s q =>
            s.inject mgmtOutput 8 (.toTile t (cell ((s.ehtNum h 16 4 + 32 * (d / 8) + ct) % 2 ^ 20) q.2 q.1))) s
        else if d % 8 = s.switchId % 8 then
          if !s.ctxOpen (s.ehtCtx h) then s
          else
            let label := (s.ehtNum h 16 4 + 32 * (d / 8) + ct) % 2 ^ 20
            pays.zipIdx.foldl (fun s q => s.inject mgmtOutput 8 (.cell (cell label q.2 q.1))) s
        else s.count EXP_INVALID (cellsOfMsg m))

/-- Whether a return cell belongs to an entry: open, of its context, generation and CENT. Entries of several EHTs may share
all three; the head names its EHT, and data cells follow their head on its label (R278). -/
def Comb.takes (c : Comb) (k : Cell) : Bool :=
  !c.sending && c.cent == hTag k.h && c.ctx == hCtx k.h && c.gen == hGen k.h &&
    (if hSeq k.h % 256 = 0 then c.eht == xEht k.pay
     else c.labels.contains (hSeq k.h / 256 % 8, hCirc k.h))

/-- The open entry that a return cell at tile `t` names. -/
def State.combFor (s : State) (t : Nat) (k : Cell) : Option (Nat × Comb) := (s.tile t).combs.find? fun e => e.2.takes k

/-- A return cell written into its entry, or discarded as a stray (R278). -/
def State.combCell (s : State) (t : Nat) (k : Cell) : State :=
  match s.combFor t k with
  | none => s.count EXP_STRAY
  | some (key, c) =>
    let q := hSeq k.h
    let pos := q % 256
    let n := q / 256 % 8
    let a := combAddr s c.eht t c.cent + 64 * (1 + c.area n * (c.ncells + 1)) + 64 * pos
    let put (got : List (Nat × Bool × List Nat)) : State :=
      ((s.put a (payBytes k.pay)).modTile t fun x =>
        { x with combs := Table.put natRank x.combs key { c with
        got := got, labels := if pos = 0 then c.labels ++ [(n, hCirc k.h)] else c.labels } }).tryCombine t key
    match c.got.find? fun g => g.1 == n with
    | none =>
      if c.expected.contains n && pos == 0 && xCells k.pay == c.ncells && xStep k.pay == c.step && xToken k.pay == c.token then
        put (c.got ++ [(n, xFailed k.pay, [])])
      else s.count EXP_STRAY
    | some g =>
      if pos == 0 || g.2.1 || g.2.2.contains pos || decide (c.ncells < pos) then s.count EXP_STRAY
      else put (c.got.map fun x => if x.1 == n then (n, false, x.2.2 ++ [pos]) else x)

/-- The return cells that have reached tile `t`, in order. -/
def State.returnCells (s : State) (t : Nat) : List Cell :=
  (s.tile t).inbox.filterMap fun i =>
    match i with
    | .cell k => if formOf (hType k.h) == .circuit && hTc k.h == 4 then some k else none
    | _ => none

/-- COMBINE_RETURN (R278, R279): the next return cell of its label at the tile. -/
def execCombineReturn (t : Fin 256) (k : Cell) (s : State) : Host.Outcome State Fault Refusal :=
  ok s (s.powered fun s =>
    if s.issueStopped t || (s.returnCells t).find? (fun c => hCirc c.h == hCirc k.h) != some k then s
    else (s.modTile t fun x => { x with inbox := x.inbox.erase (.cell k) }).combCell t k)

/-- COMB_TIMEOUT (R280): entry CENT of an EHT. Return cells that have reached the tile are written before the timer is
tested. -/
def execCombTimeout (t : Fin 256) (entry : CombName) (s : State) : Host.Outcome State Fault Refusal :=
  ok s (s.powered fun s =>
    if s.issueStopped t then s
    else
      let s := (s.returnCells t).foldl (fun s k =>
        (s.modTile t fun x => { x with inbox := x.inbox.erase (.cell k) }).combCell t k) s
      let key := combKey entry.eht entry.cent.toNat
      match (Table.look (s.tile t).combs key).filter fun c => !c.sending with
      | none => s
      | some c =>
        let lost := (c.expected.filter fun k => !c.done k).length
        let s := if lost = 0 then s
          else (s.count EXP_LOST lost).raise
            { cls := 1, src := sourceOf 9 0, code := evCode 0x0017 c.eht, ctx := some c.ctx,
              detail := c.token + c.source * 2 ^ 32 }
        s.combine t key c)

/-! ### Waits of the dispatcher (R271) -/

/-- A token that waits for a buffer of its source's pool: port, EHT, source's owner. -/
def State.tokenWaits (s : State) : List (Nat × Nat × Nat) :=
  let firsts := (s.expWait.map Prod.fst).eraseDups.filterMap fun p => s.expWait.find? fun e => e.1 == p
  (s.expIn.map (fun e => (e.1, e.2.2.head)) ++ firsts.filter fun e => !s.expBlocked e.1).filterMap fun e =>
    (s.tokenSource e.2).bind fun o =>
      if s.mayAlloc o.2.2.pool o.2.2 || (s.tokenGrant e.1 o.2.1).isSome then none else some (e.1, o.1, o.2.1)

/-- The combine tile on which EHT `h` waits for a free entry: that of the first decided token, in arrival mode of the first
that finds none. -/
def State.entryWait (s : State) (h : Nat) : Option Nat :=
  let l := (s.eht h).decided
  ((if s.ehtArrival h then l else l.take 1).find? fun d => (s.freeEntry h d).isNone).map fun d =>
    s.ehtNum h (40 + s.entryCt h d) 1

/-- The dispatcher's cells wait for a slot. -/
def State.slotWait (s : State) : Bool :=
  (Table.get [] s.xin mgmtOutput).any fun e => dispatched mgmtOutput e.2 && !s.itemRoom mgmtOutput e.1 e.2

/-- The dispatcher waits in this cycle (EXP_WAIT_CYC). -/
def State.dispatchWaits (s : State) : Bool :=
  !s.tokenWaits.isEmpty || (List.range 16).any (fun h => (s.entryWait h).isSome) || s.slotWait

end Sys2Proof.Machine
end

