-- ==== Sys2Proof/Machine/Ledger.lean ====
section
/-! DEFINITION. Sys2Proof/Machine/Ledger.lean: signing with the identity key, the repair ledger, spare tiles and the Jorou
table (spec/13_host_port_and_control.md R366, R367; spec/14_faults_and_recovery.md R399, R404, R405;
spec/15_power_clocks_security.md R427-R429). -/

namespace Sys2Proof.Machine

/-! ### Signing -/

/-- The derived identity key does not match the certificate (R429). -/
def State.idFail (s : State) : Bool := s.bit SEC_BOOT SEC_BOOT_ID_FAIL

/-- The private key of the device identity: the seed that the PUF gave at this power-up (R427). -/
def State.seed (s : State) : List Byte := Config.pufSeed (s.fld SEC_BOOT SEC_BOOT_BOOT)

/-- The device identity public key. -/
def State.identityKey (s : State) : List Byte := ed25519Public s.seed

/-- The messages that the security block signs (R428). -/
inductive Signed where
  | hello | openAck | jorou | ledger | report
  deriving DecidableEq, Repr

/-- Bytes of a message: three hello payloads, an OPEN body and the 128 bytes before SIG, the digest of the table, the head of
an entry, a report before SIG (Tables 12-5, 13-3, 13-12, 14-8, 15-6). -/
def Signed.bytes : Signed → Nat
  | .hello => 192
  | .openAck => 320
  | .jorou => 64
  | .ledger => 64
  | .report => 448

/-- Whether the identity fields of a message name this module: KEY and ID of a hello, ID_KEY of an OPEN_ACK, GRADE and BOOT of
a report. Which fields R428 means it does not list; the digest and the ledger entry carry none (log entry 57). -/
def State.names (s : State) (k : Signed) (m : List Byte) : Bool :=
  match k with
  | .hello => (m.drop 128).take 32 == s.identityKey && ofBytes (m.take 4) == s.switchId && ofBytes ((m.drop 4).take 1) == 0
  | .openAck => (m.drop 288).take 32 == s.identityKey
  | .jorou => true
  | .ledger => true
  | .report => ofBytes ((m.drop 20).take 2) == s.grade.tiles && ofBytes ((m.drop 16).take 4) == s.fld SEC_BOOT SEC_BOOT_BOOT

/-- A request to sign that the block refuses (R428). -/
def State.refusesSign (s : State) (k : Signed) (m : List Byte) : Bool := m.length != k.bytes || !s.names k m

/-- A signature by the identity key (R427, R428); a request refused counts, and with ID_FAIL the module signs nothing: the 64
bytes are then open. -/
def State.signId (s : State) (k : Signed) (m : List Byte) : List Byte × State :=
  if s.refusesSign k m then (s.count SEC_SIGN_REFUSED).draw 64
  else if s.idFail then s.draw 64
  else (ed25519Sign s.seed m, s)

/-! ### The repair ledger (R404, R405) -/

/-- Bytes 0-63 of an entry (Table 14-8). -/
def LedgerEntry.head (e : LedgerEntry) : List Byte :=
  toBytes 2 e.kind ++ toBytes 2 e.count ++ toBytes 4 e.boot ++ toBytes 8 e.cycle ++ toBytes 8 e.loc ++ toBytes 8 e.dst ++
    e.chain

def LedgerEntry.bytes (e : LedgerEntry) : List Byte := e.head ++ e.sig

/-- A class D advisory: 1 pool 1 short, 2 ledger full, 3 active count below half the grade (R378). -/
def State.advise (s : State) (qual : Nat) : State :=
  s.raise { cls := 4, src := sourceOf 13 0, code := evCode 0x0023 qual, hw := true, advisory := true }

/-- A repair entered in the ledger; a full ledger records nothing and raises the advisory. -/
def State.ledgerAdd (s : State) (kind count loc dst : Nat) : State :=
  if 8192 ≤ s.ledger.length then s.advise 2
  else
    let chain := match s.ledger.getLast? with
      | some e => (sha512 e.bytes).take 32
      | none => List.replicate 32 0
    let e : LedgerEntry := ⟨kind, count, s.fld SEC_BOOT SEC_BOOT_BOOT, s.cycle, loc, dst, chain, []⟩
    let (sig, s) := s.signId .ledger e.head
    let s := s.putLedger (s.ledger ++ [{ e with sig := sig }])
    s.setFld SPW_LEDGER SPW_LEDGER_COUNT s.ledger.length

/-- Where the spec gives no number for what TO names, the number is open. -/
def State.ledgerTo (s : State) (kind count loc : Nat) : State :=
  let (w, s) := s.free
  s.ledgerAdd kind count loc w.toNat

/-! ### Spares (R399) -/

def physicalTiles : Nat := 264

/-- Whether a physical tile carries a logical one. -/
def State.mapped (s : State) (p : Nat) : Bool := (List.range s.active).any fun t => s.physTile t == some p

/-- Spare tiles left: healthy physical tiles that carry no logical tile. -/
def State.spares (s : State) : List Nat :=
  (List.range physicalTiles).filter fun p =>
    !s.failedTiles.contains p && !s.power.failedClusters.contains (p / 8) && !s.mapped p

/-- SPARES, ACTIVE and DEGRADED of SPW_STAT for an active count. -/
def State.setActive (s : State) (n : Nat) : State :=
  let s := s.setFld SPW_STAT SPW_STAT_ACTIVE n
  let s := s.setFld SPW_STAT SPW_STAT_SPARES s.spares.length
  s.setFld SPW_STAT SPW_STAT_DEGRADED (flag (decide (n < s.grade.tiles)))

/-! ### The Jorou table (R366, R367) -/

/-- The table rewritten: a new TSEQ with the values of now, and a JOROU event. -/
def State.jorouRewrite (s : State) : State :=
  let j : Jorou :=
    { tseq := s.jorou.tseq + 1, cycle := s.cycle, active := s.active, spares := s.fld SPW_STAT SPW_STAT_SPARES,
      degraded := s.bit SPW_STAT SPW_STAT_DEGRADED, map := s.tileMap,
      lanes := (s.laneMap.map fun r =>
          (r.port, s.fld (PORT_LINK_STAT r.port) PORT_LINK_STAT_WIDTH, s.fld (PORT_ROLE r.port) PORT_ROLE_ROLE)) ++
        ((s.regs.map Prod.fst).filter fun r => r == PORT_ROLE r.inst).map fun r => (r.inst, 0, s.fld r PORT_ROLE_ROLE),
      plans := s.plans.map fun e => (e.1, e.2.stale, e.2.active, e.2.fp), pages := s.pages, wbFp := s.jorou.wbFp }
  (s.putJorou j).postPlain 9 none (sourceOf 16 0) 0 (eventData [j.tseq])

/-- One record: RTYPE, RLEN, body, padded to a multiple of 8 bytes (R366). -/
def jorouRecord (rtype : Nat) (body : List Byte) : List Byte :=
  let pad := (8 - body.length % 8) % 8
  toBytes 2 rtype ++ toBytes 2 0 ++ toBytes 4 (8 + body.length + pad) ++ body ++ List.replicate pad 0

/-- Table 11-1a: block type, instances, base, stride. -/
def blockTable : List (Nat × Nat × Nat × Nat) :=
  [(1, 256, 0x101000000, 0x10000), (2, 1024, 0x102000000, 0x1000), (3, 128, 0x103000000, 0x4000),
   (4, 1, 0x104000000, 0), (5, 1, 0x104100000, 0), (6, 1, 0x104200000, 0), (7, 1, 0x104300000, 0),
   (8, 1, 0x104400000, 0), (9, 1, 0x104500000, 0), (10, 1, 0x104600000, 0), (11, 1, 0x104700000, 0),
   (12, 1, 0x106000000, 0), (13, 1, 0x105000000, 0), (14, 1, 0x104800000, 0), (15, 1, 0x104900000, 0),
   (16, 1, 0x104A00000, 0), (17, 1, 0x104B00000, 0), (18, 1, 0x105400000, 0), (19, 1, 0x104C00000, 0)]

/-- Formats that the wire, the MU, the VU and the Weir accept (spec/05_number_formats.md Table 5-1,
spec/07_instruction_set.md Table 7-11, spec/08_weir_reduction.md Table 8-2). DEDUCED (log entry 24). -/
def formatMasks : List Byte := toBytes 2 0x3FF ++ toBytes 2 0x1FE ++ toBytes 2 0x3FF ++ toBytes 2 0x3FF

/-- The table without END: header and records in the order of Table 13-12. -/
def State.jorouBody (s : State) : List Byte :=
  let j := s.jorou
  let tiles := toBytes 2 s.grade.tiles ++ toBytes 2 j.active ++ toBytes 2 j.spares ++ toBytes 1 (flag j.degraded) ++
    toBytes 1 0 ++ (List.range 256).flatMap fun t => toBytes 2 (if t < j.active then Table.get t j.map t else 0xFFFF)
  let lanes := (List.range 1024).flatMap fun p =>
    match j.lanes.find? fun e => e.1 == p with
    | some e => toBytes 1 e.2.1 ++ toBytes 1 e.2.2 ++ toBytes 2 0
    | none => toBytes 4 0
  let fw := toBytes 8 ((Table.get FlashSlot.init s.bootSlots (s.fld SEC_BOOT SEC_BOOT_SLOT)).version.toNat) ++
    ((s.power.m1 ++ List.replicate 64 0).take 64) ++ ((s.power.m2 ++ List.replicate 64 0).take 64) ++
    ((s.power.m3 ++ List.replicate 64 0).take 64) ++ ((j.wbFp ++ List.replicate 64 0).take 64)
  let recs :=
    (blockTable.map fun b => jorouRecord 1 (toBytes 2 b.1 ++ toBytes 2 1 ++ toBytes 4 b.2.1 ++ toBytes 8 b.2.2.1 ++
      toBytes 8 b.2.2.2)) ++
    [jorouRecord 2 tiles, jorouRecord 3 lanes, jorouRecord 4 formatMasks,
     jorouRecord 5 (toBytes 32 0x3F), jorouRecord 6 fw] ++
    (j.plans.map fun e => jorouRecord 7 (toBytes 1 e.1 ++ toBytes 1 (if e.2.1 then 2 else 1) ++ toBytes 2 e.2.2.1 ++
      toBytes 4 0 ++ e.2.2.2)) ++
    [jorouRecord 8 (s.identityKey ++ s.cert), jorouRecord 9 (j.pages.flatMap fun w => toBytes 8 w.toNat),
     jorouRecord 10 (toBytes 8 Config.coreHz ++ toBytes 2 4096 ++ [64, 64, 16] ++ toBytes 2 256)]
  let body := recs.flatten
  toBytes 4 0x554F524A ++ toBytes 2 1 ++ toBytes 2 (recs.length + 1) ++ toBytes 4 (64 + body.length + 136) ++ toBytes 4 0 ++
    toBytes 8 j.tseq ++ toBytes 8 j.cycle ++ List.replicate 32 0 ++ body

/-- The whole table with END, its digest and signature. -/
def State.jorouBytes (s : State) : List Byte :=
  let b := s.jorouBody
  let d := sha512 b
  b ++ jorouRecord 0xFFFF (d ++ (if s.idFail then List.replicate 64 0 else ed25519Sign s.seed d))

end Sys2Proof.Machine
end

