-- ==== Sys2Proof/Machine/TileMem.lean ====
section
/-! DEFINITION. Sys2Proof/Machine/TileMem.lean: memory, stream, synchronisation and atomic instructions of a tile thread,
the service of requests at a tile port, and responses (spec/06_flume_tile.md R140-R147, R170; spec/07_instruction_set.md
R180-R182, R197-R199, R202; spec/08_weir_reduction.md R228). -/

namespace Sys2Proof.Machine

/-- A request that leaves the tile; an address with no agent completes with an address error at once (R142). -/
def State.ask (s : State) (t h pc addr : Nat) (k : ReqKind) (w : Want) : State :=
  match s.agentOf addr with
  | .none => s.deliverResponse t ⟨0, h, pc, w⟩ .address 0
  | _ => s.request t h pc addr k w

/-- An address no access may name: bits [63:48] nonzero (R180). -/
def badAddr (a : Nat) : Bool := decide (2 ^ 48 ≤ a)

/-- Bytes of the thread's own Weir region (R228). -/
def State.ownWeir (s : State) (t a n : Nat) : Bool := ownRange t a n && s.inWeir t (a % tileBytes) n

/-- Bytes of the Weir region or of a combine region of the thread's own tile: stores, streams and atomics that would write
there fault at issue (R228; spec/10_expert_and_headwater.md R278). -/
def State.ownEngine (s : State) (t a n : Nat) : Bool :=
  let lo := max a (t * tileBytes)
  let hi := min (a + n) ((t + 1) * tileBytes)
  decide (lo < hi) && (s.inWeir t (lo % tileBytes) (hi - lo) || s.inCombine t (lo % tileBytes) (hi - lo))

/-- The line of an address and the byte mask of `n` bytes from it (R142). -/
def lineOf (a : Nat) : Nat := a / 64 * 64
def lineMask (a n : Nat) : Word := BitVec.ofNat 64 ((2 ^ n - 1) <<< (a % 64))

/-! ### Class 0x3 (Table 7-6) -/

/-- LD: MOD[1:0] size, MOD[2] sign-extend; 64 bits have no signed form. -/
def execILd (t : Fin 256) (h : Fin 16) (w : BitVec 56) (s : State) : Host.Outcome State Fault Refusal :=
  let n := w.toNat
  let size := 2 ^ (fMOD n % 4)
  let sx := bitOf (fMOD n) 2
  ok s (s.issue t h 1 (onlyUses n (useD ||| useA ||| useIMM34 ||| useMOD) && decide (fMOD n ≤ 6)) [fD n, fA n] []
    fun s y =>
      let a := (y.getS (fA n) + fIMM34 n).toNat
      match firstFault [(a % size != 0, 0x03), (badAddr a, 0x04)] with
      | some c => .fault c
      | none =>
        if ownRange t a size then
          if s.poisoned a size then .next ((s.ueRead a).lateFault t h .data y.pc.toNat)
          else .next (s.modThread t h fun x => x.setS (fD n) (loadValue (8 * size) sx (s.load a size)))
        else if 512 < (s.tile t).outst.length + 1 then .wait (.room 1)
        else
          let s := if fD n = 0 then s else s.modThread t h fun x => { x with busyS := fD n :: x.busyS }
          .next (s.ask t h y.pc.toNat a (.load size) (.scalar (fD n) (8 * size) sx)))

/-- ST: MOD[1:0] size. -/
def execISt (t : Fin 256) (h : Fin 16) (w : BitVec 56) (s : State) : Host.Outcome State Fault Refusal :=
  let n := w.toNat
  let size := 2 ^ (fMOD n % 4)
  ok s (s.issue t h 1 (onlyUses n (useD ||| useA ||| useIMM34 ||| useMOD) && decide (fMOD n ≤ 3)) [fD n, fA n] []
    fun s y =>
      let a := (y.getS (fA n) + fIMM34 n).toNat
      let v := (y.getS (fD n)).toNat
      match firstFault [(a % size != 0, 0x03), (badAddr a || s.ownEngine t a size, 0x04)] with
      | some c => .fault c
      | none =>
        if ownRange t a size then .next (s.put a (toBytes size v))
        else if 512 < (s.tile t).outst.length + 1 then .wait (.room 1)
        else .next (s.ask t h y.pc.toNat (lineOf a)
          (.store (lineMask a size) (BitVec.ofNat 512 ((v % 2 ^ (8 * size)) <<< (8 * (a % 64))))) .store))

/-- The bytes that a mask register selects at an element width of `b` bytes, as a 256-bit byte mask (R165, R181). -/
def byteMask (m : MReg) (b : Nat) : Nat :=
  (List.range 256).foldl (fun a i => if m.getLsbD (i / b) then a + 2 ^ i else a) 0

/-- A byte mask spread to bits. -/
def spread (m : Nat) : VReg :=
  BitVec.ofNat 2048 ((List.range 256).foldl (fun a i => if bitOf m i then a + 255 <<< (8 * i) else a) 0)

/-- VLD: MOD[1:0] mask element width; masked elements keep or, with MZ, become zero; a line wholly masked is not
requested. -/
def execIVld (t : Fin 256) (h : Fin 16) (w : BitVec 56) (s : State) : Host.Outcome State Fault Refusal :=
  let n := w.toNat
  ok s (s.issue t h 1 (onlyUses n (useD ||| useA ||| useMemMK ||| useMemMZ ||| useIMM34 ||| useMOD) &&
      decide (fMOD n ≤ 2)) [fA n] [fD n] fun s y =>
    let a := (y.getS (fA n) + fIMM34 n).toNat
    let m := byteMask (y.getM (bitsOf n 35 3)) (2 ^ fMOD n)
    let lines := (List.range 4).filter fun i => bitsOf m (64 * i) 64 != 0
    let away := lines.filter fun i => !ownRange t (a + 64 * i) 64
    match firstFault [(a % 64 != 0, 0x03), (badAddr a, 0x04)] with
    | some c => .fault c
    | none =>
      if 512 < (s.tile t).outst.length + away.length then .wait (.room away.length)
      else
        let zero := if bitOf n 34 then ~~~(spread m) else 0
        if lines.isEmpty then .next (s.modThread t h fun x => x.setV (fD n) (x.getV (fD n) &&& ~~~zero))
        else
          let s := s.modThread t h fun x =>
            { x with vloads := Table.put natRank x.vloads (fD n) ⟨spread m, zero, 0, lines.length, false⟩
                     busyV := fD n :: x.busyV }
          .next (lines.foldl (fun s i =>
            let b := a + 64 * i
            if ownRange t b 64 then
              let bad := s.poisoned b 64
              let s := if bad then s.ueRead b else s
              s.deliverResponse t ⟨0, h, y.pc.toNat, .vector (fD n) (64 * i)⟩ (if bad then .data else .ok) (s.load b 64)
            else s.ask t h y.pc.toNat b (.load 64) (.vector (fD n) (64 * i))) s))

/-- VST: MOD[1:0] mask element width; only bytes of unmasked elements are written; MZ must be zero. -/
def execIVst (t : Fin 256) (h : Fin 16) (w : BitVec 56) (s : State) : Host.Outcome State Fault Refusal :=
  let n := w.toNat
  ok s (s.issue t h 1 (onlyUses n (useD ||| useA ||| useMemMK ||| useIMM34 ||| useMOD) && decide (fMOD n ≤ 2))
      [fA n] [fD n] fun s y =>
    let a := (y.getS (fA n) + fIMM34 n).toNat
    let m := byteMask (y.getM (bitsOf n 35 3)) (2 ^ fMOD n)
    let v := (y.getV (fD n)).toNat
    let lines := (List.range 4).filter fun i => bitsOf m (64 * i) 64 != 0
    let away := lines.filter fun i => !ownRange t (a + 64 * i) 64
    match firstFault [(a % 64 != 0, 0x03), (badAddr a || lines.any fun i => s.ownEngine t (a + 64 * i) 64, 0x04)] with
    | some c => .fault c
    | none =>
      if 512 < (s.tile t).outst.length + away.length then .wait (.room away.length)
      else .next (lines.foldl (fun s i =>
        let b := a + 64 * i
        let l := bitsOf v (512 * i) 512
        if ownRange t b 64 then s.putMasked b (bitsOf m (64 * i) 64) l 64
        else s.ask t h y.pc.toNat b (.store (BitVec.ofNat 64 (bitsOf m (64 * i) 64)) (BitVec.ofNat 512 l)) .store) s))

/-! ### Class 0x4 (Table 7-7) -/

/-- A stream of `inbound` direction (R143, R182). -/
def State.stream (s : State) (t : Fin 256) (h : Fin 16) (w : BitVec 56) (inbound : Bool) : State :=
  let n := w.toNat
  s.issue t h 1 (onlyUses n (useA ||| useB ||| useC ||| useCC ||| useIMM22)) [fA n, fB n, fC n] [] fun s y =>
    let a := (y.getS (fA n)).toNat
    let b := (y.getS (fB n)).toNat
    let l := if inbound then a else b
    let r := if inbound then b else a
    let len := (y.getS (fC n) + BitVec.ofNat 64 (fIMM22 n)).toNat
    match firstFault [(len % 64 != 0 || len == 0 || decide (16777216 < len), 0x07),
        (a % 64 != 0 || b % 64 != 0, 0x03),
        (!ownRange t l len || badAddr r || s.ownEngine t (if inbound then l else r) len, 0x04)] with
    | some c => .fault c
    | none =>
      let k := len / 64
      if 2 ^ 31 ≤ (s.tile t).ccGet (fCC n) + k then .wait (.stream (fCC n) k)
      else .next (s.modTile t fun x =>
        { x.ccAdd (fCC n) k with
          streamId := x.streamId + 1
          streams := x.streams ++ [⟨x.streamId, h, y.pc.toNat, inbound, l, r, k, 0, 0, fCC n⟩] })

/-- SIN -/
def execISin (t : Fin 256) (h : Fin 16) (w : BitVec 56) (s : State) : Host.Outcome State Fault Refusal :=
  ok s (s.stream t h w true)

/-- SOUT -/
def execISout (t : Fin 256) (h : Fin 16) (w : BitVec 56) (s : State) : Host.Outcome State Fault Refusal :=
  ok s (s.stream t h w false)

/-! ### Class 0xC (Table 7-19) -/

/-- An atomic of function `f`: `cas` reads sC, `min` and `max` take MOD[1], `fadd` has no 64-bit form (R199). -/
def State.amo (s : State) (t : Fin 256) (h : Fin 16) (w : BitVec 56) (f : Nat) : State :=
  let n := w.toNat
  let wide := bitOf (fMOD n) 0
  let size := if wide then 8 else 4
  let mods := if f = 8 then 0 else if f = 4 || f = 5 then 3 else 1
  s.issue t h 1 (onlyUses n (useD ||| useA ||| useB ||| useMOD ||| (if f = 7 then useC else 0)) &&
      decide (fMOD n ≤ mods)) [fD n, fA n, fB n, fC n] [] fun s y =>
    let a := (y.getS (fA n)).toNat
    let k := ReqKind.atomic f wide (bitOf (fMOD n) 1) (y.getS (fB n)) (y.getS (fC n))
    match firstFault [(a % size != 0, 0x03), (badAddr a || s.ownEngine t a size, 0x04)] with
    | some c => .fault c
    | none =>
      if ownRange t a size then
        let (st, v, s) := s.perform a k
        if st == .ok then .next (s.modThread t h fun x => x.setS (fD n) (loadValue (8 * size) false v))
        else .next (s.lateFault t h st y.pc.toNat)
      else if 512 < (s.tile t).outst.length + 1 then .wait (.room 1)
      else
        let s := if fD n = 0 then s else s.modThread t h fun x => { x with busyS := fD n :: x.busyS }
        .next (s.ask t h y.pc.toNat a k (.atomic (fD n) wide))

/-- AMO.ADD -/
def execIAmoAdd (t : Fin 256) (h : Fin 16) (w : BitVec 56) (s : State) : Host.Outcome State Fault Refusal :=
  ok s (s.amo t h w 0)

/-- AMO.AND -/
def execIAmoAnd (t : Fin 256) (h : Fin 16) (w : BitVec 56) (s : State) : Host.Outcome State Fault Refusal :=
  ok s (s.amo t h w 1)

/-- AMO.OR -/
def execIAmoOr (t : Fin 256) (h : Fin 16) (w : BitVec 56) (s : State) : Host.Outcome State Fault Refusal :=
  ok s (s.amo t h w 2)

/-- AMO.XOR -/
def execIAmoXor (t : Fin 256) (h : Fin 16) (w : BitVec 56) (s : State) : Host.Outcome State Fault Refusal :=
  ok s (s.amo t h w 3)

/-- AMO.MIN -/
def execIAmoMin (t : Fin 256) (h : Fin 16) (w : BitVec 56) (s : State) : Host.Outcome State Fault Refusal :=
  ok s (s.amo t h w 4)

/-- AMO.MAX -/
def execIAmoMax (t : Fin 256) (h : Fin 16) (w : BitVec 56) (s : State) : Host.Outcome State Fault Refusal :=
  ok s (s.amo t h w 5)

/-- AMO.SWAP -/
def execIAmoSwap (t : Fin 256) (h : Fin 16) (w : BitVec 56) (s : State) : Host.Outcome State Fault Refusal :=
  ok s (s.amo t h w 6)

/-- AMO.CAS -/
def execIAmoCas (t : Fin 256) (h : Fin 16) (w : BitVec 56) (s : State) : Host.Outcome State Fault Refusal :=
  ok s (s.amo t h w 7)

/-- AMO.FADD.F32 -/
def execIAmoFaddF32 (t : Fin 256) (h : Fin 16) (w : BitVec 56) (s : State) : Host.Outcome State Fault Refusal :=
  ok s (s.amo t h w 8)

/-! ### Class 0xB (Table 7-18) -/

/-- FENCE (R146) -/
def execIFence (t : Fin 256) (h : Fin 16) (w : BitVec 56) (s : State) : Host.Outcome State Fault Refusal :=
  ok s (s.issue t h 1 (onlyUses w.toNat 0) [] [] fun s _ =>
    if (s.tile t).fenced h then .wait .fence else .next s)

/-- IFENCE: the instruction cache is empty (R140). -/
def execIIfence (t : Fin 256) (h : Fin 16) (w : BitVec 56) (s : State) : Host.Outcome State Fault Refusal :=
  ok s (s.issue t h 1 (onlyUses w.toNat 0) [] [] fun s _ => .next (s.modTile t fun x => { x with icache := [] }))

/-- CCWAIT: until CC ≤ sA + IMM22 (R143). -/
def execICcwait (t : Fin 256) (h : Fin 16) (w : BitVec 56) (s : State) : Host.Outcome State Fault Refusal :=
  let n := w.toNat
  ok s (s.issue t h 1 (onlyUses n (useA ||| useCC ||| useIMM22)) [fA n] [] fun s y =>
    let l := (y.getS (fA n) + BitVec.ofNat 64 (fIMM22 n)).toNat
    if (s.tile t).ccGet (fCC n) ≤ l then .next s else .wait (.cc (fCC n) l))

/-- CCRD: sD = CC. -/
def execICcrd (t : Fin 256) (h : Fin 16) (w : BitVec 56) (s : State) : Host.Outcome State Fault Refusal :=
  let n := w.toNat
  ok s (s.issue t h 1 (onlyUses n (useD ||| useCC)) [fD n] [] fun s _ =>
    .next (s.modThread t h fun x => x.setS (fD n) (BitVec.ofNat 64 ((s.tile t).ccGet (fCC n)))))

/-- READY words of the entries that the tile's VALID nodes use: the only words of its Weir region that `semwait` may name
(R228). -/
def State.readyWord (s : State) (t a : Nat) : Bool :=
  (List.range 1024).any fun n =>
    let r := s.nodeRec t n
    nValid r && (List.range (nWindow r)).any fun k => s.readyAddr t (nEntryBase r + k) == a

/-- SEMWAIT: waits until the word is at least n, then subtracts n in the same access (R197). -/
def execISemwait (t : Fin 256) (h : Fin 16) (w : BitVec 56) (s : State) : Host.Outcome State Fault Refusal :=
  let n := w.toNat
  ok s (s.issue t h 1 (onlyUses n (useA ||| useB ||| useIMM22)) [fA n, fB n] [] fun s y =>
    let a := (y.getS (fA n)).toNat
    let k := (y.getS (fB n) + BitVec.ofNat 64 (fIMM22 n)).toNat
    match firstFault [(a % 8 != 0, 0x03),
        (!ownRange t a 8 || (s.ownEngine t a 8 && !s.readyWord t a), 0x04)] with
    | some c => .fault c
    | none =>
      if s.poisoned a 8 then .next ((s.ueRead a).lateFault t h .data y.pc.toNat)
      else if k ≤ s.load a 8 then .next (s.store a 8 (s.load a 8 - k))
      else .wait (.sem a k))

/-- SEMPOST: adds n to a word of tile SRAM or LPDDR5X as an atomic (R197, R199). -/
def execISempost (t : Fin 256) (h : Fin 16) (w : BitVec 56) (s : State) : Host.Outcome State Fault Refusal :=
  let n := w.toNat
  ok s (s.issue t h 1 (onlyUses n (useA ||| useB ||| useIMM22)) [fA n, fB n] [] fun s y =>
    let a := (y.getS (fA n)).toNat
    let k := ReqKind.atomic 0 true false (y.getS (fB n) + BitVec.ofNat 64 (fIMM22 n)) 0
    match firstFault [(a % 8 != 0, 0x03), (badAddr a || s.ownEngine t a 8, 0x04)] with
    | some c => .fault c
    | none =>
      if ownRange t a 8 then
        let (st, _, s) := s.perform a k
        .next (s.lateFault t h st y.pc.toNat)
      else if 512 < (s.tile t).outst.length + 1 then .wait (.room 1)
      else .next (s.ask t h y.pc.toNat a k (.atomic 0 true)))

/-- Thread `i` goes on behind the barrier; one that has stopped since it arrived stays STOPPED (R169, R198). -/
def Tile.passBarrier (x : Tile) (i : Nat) : Tile :=
  if (x.thread i).wait == .barrier then x.setThread i ((x.thread i).resumeRun.advance) else x

/-- TBAR: joins the barrier of the threads in sA[15:0] (R198). -/
def execITbar (t : Fin 256) (h : Fin 16) (w : BitVec 56) (s : State) : Host.Outcome State Fault Refusal :=
  let n := w.toNat
  ok s (s.issue t h 0 (onlyUses n useA) [fA n] [] fun s y =>
    let m := (y.getS (fA n)).setWidth 16
    let b := (s.tile t).barrier
    match firstFault [(!m.getLsbD h, 0x07), (b.any fun x => x.1 != m, 0x31)] with
    | some c => .fault c
    | none =>
      let here := (b.elim [] Prod.snd)
      if (List.range 16).all fun i => !m.getLsbD i || i == h.val || here.contains i then
        .next (s.modTile t fun x =>
          here.foldl Tile.passBarrier { x with barrier := none })
      else .waitIn (s.modTile t fun x => { x with barrier := some (m, here ++ [h.val]) }) .barrier)

/-! ### Requests at a tile port, responses -/

/-- The right a request needs. -/
def needs : ReqKind → Right
  | .load _ => .rd
  | .store _ _ => .wr
  | .atomic _ _ _ _ _ => .at_

def isLoad : ReqKind → Bool
  | .load _ => true
  | _ => false

/-- Bytes from its address on that a request occupies at its owner. -/
def reqSize : ReqKind → Nat
  | .load n => n
  | .store _ _ => 64
  | .atomic _ wide _ _ _ => if wide then 8 else 4

/-- Whether `p` holds of a byte that a request touches. -/
def touches (r : Request) (p : Nat → Nat → Bool) : Bool :=
  match r.kind with
  | .load n => p r.addr n
  | .store m _ => (List.range 64).any fun i => m.getLsbD i && p (r.addr + i) 1
  | .atomic _ wide _ _ _ => p r.addr (if wide then 8 else 4)

/-- Why the owner of an address refuses a request of a thread outside its own tile: the context is closed (spec/14 R396),
the address is never granted (spec/11 R305), or no window covers the line (spec/11 R304). -/
def State.refuses (s : State) (r : Request) : Option RspStatus :=
  if !(s.ctxOpen r.ctx && s.genOf r.ctx == r.gen) then some .closed
  else if touches r s.inMetadata || (!isLoad r.kind && touches r s.inEngineRegion) then
    some .address
  else if !s.allowed r.ctx r.gen (lineOf r.addr) 64 (needs r.kind) then some .protection
  else none

/-- The response to a request, sent into the crossbar at `input`. -/
def State.respond (s : State) (input : Nat) (r : Request) (st : RspStatus) (v : Nat) : State :=
  s.inject input internalVc (.rsp ⟨r.tile, r.thread, r.tag, st, BitVec.ofNat 512 v⟩)

/-- A request checked, performed and answered by the owner of its address. -/
def State.serveRequest (s : State) (input : Nat) (r : Request) : State :=
  match s.refuses r with
  | some st => s.respond input r st 0
  | none =>
    let (st, v, s) := s.perform r.addr r.kind
    s.respond input r st v

/-- The request is the first of its tile among what the crossbar has delivered to an agent: the requests of one tile are
performed in the order in which they were issued (R144, R145). -/
def firstOf (l : List Item) (r : Request) : Bool :=
  (l.findSome? fun i => match i with
    | .req q => if q.tile = r.tile then some q else none
    | _ => none) == some r

/-- TILE_REQUEST_SERVE (R142, R304): a request for this tile's SRAM. -/
def execTileRequestServe (t : Fin 256) (r : Request) (s : State) : Host.Outcome State Fault Refusal :=
  ok s (s.powered fun s =>
    if s.agentOf r.addr != .tile t || !firstOf (s.tile t).inbox r then s
    else
      let s := s.modTile t fun x => { x with inbox := x.inbox.erase (.req r) }
      (s.serveRequest (tileOutput t) r).settle t)

/-- LOAD_RESPONSE (R139, R202): a response to a load, store or atomic of a thread. -/
def execLoadResponse (t : Fin 256) (r : Response) (s : State) : Host.Outcome State Fault Refusal :=
  ok s (s.powered fun s =>
    if !(s.tile t).inbox.contains (.rsp r) then s
    else match (s.tile t).outst.find? fun o => o.tag == r.tag && o.thread == r.thread with
    | some ⟨_, _, _, .streamIn _ _⟩ => s
    | some ⟨_, _, _, .streamOut _⟩ => s
    | _ => s.response t r)

/-- STREAM_LINE_COMPLETE (R143, R182): a response to a stream line. -/
def execStreamLineComplete (t : Fin 256) (r : Response) (s : State) : Host.Outcome State Fault Refusal :=
  ok s (s.powered fun s =>
    if !(s.tile t).inbox.contains (.rsp r) then s
    else match (s.tile t).outst.find? fun o => o.tag == r.tag && o.thread == r.thread with
    | some ⟨_, _, _, .streamIn _ _⟩ => s.response t r
    | some ⟨_, _, _, .streamOut _⟩ => s.response t r
    | _ => s)

/-- THREAD_HALT (R170) -/
def execThreadHalt (t : Fin 256) (mask : BitVec 16) (s : State) : Host.Outcome State Fault Refusal :=
  ok s (s.powered fun s => s.applyHalt t mask.toNat)

/-! ### The debug window (spec/13_host_port_and_control.md R370) -/

/-- A thread whose state may be read. -/
def State.readable (s : State) (t h : Nat) : Bool :=
  (s.thread t h).st == .halted || (s.thread t h).st == .stopped

/-- Two FP32 elements from the first of word `i` of a 64 × 64 tile. -/
def twoWords (f : Nat → BitVec 32) (i : Nat) : Word := BitVec.ofNat 64 ((f (2 * i)).toNat + (f (2 * i + 1)).toNat * 2 ^ 32)

/-- The word at `off` of the window, if the selection can be read. -/
def State.debugWord (s : State) (t off : Nat) : Option Word :=
  let i := s.fld (TILE_DBG_SEL t) TILE_DBG_SEL_INDEX
  let x := s.tile t
  match s.fld (TILE_DBG_SEL t) TILE_DBG_SEL_KIND with
  | 0 =>
    if 16 ≤ i || !s.readable t i then none
    else
      let y := x.thread i
      if off < 0x8100 then some (y.getS ((off - 0x8000) / 8))
      else if off < 0x8200 then some (BitVec.ofNat 64 (bitsOf (y.getM ((off - 0x8100) / 32)).toNat (off % 32 * 8) 64))
      else if off < 0xA200 then
        some (BitVec.ofNat 64 (bitsOf (y.getV ((off - 0x8200) / 256)).toNat ((off - 0x8200) % 256 * 8) 64))
      else some 0
  | 1 =>
    match (x.acc i).owner with
    | some h => if !s.readable t h then none
      else some (if off < 0xC000 then 0 else twoWords (Table.get 0 (x.acc i).data) ((off - 0xC000) / 8))
    | none => some (if off < 0xC000 then 0 else twoWords (Table.get 0 (x.acc i).data) ((off - 0xC000) / 8))
  | 2 =>
    if 8 ≤ i then none
    else
      let rows := Table.get [] x.tqMem i
      let w := if off < 0xC000 then 0 else twoWords (fun k => (rows.getD (k / 64) []).getD (k % 64) 0) ((off - 0xC000) / 8)
      match x.tq.find? fun q => q.slot == i with
      | none => some w
      | some q => if s.readable t q.thread then some w else none
  | _ => none

end Sys2Proof.Machine
end

