-- ==== Sys2Proof/Machine/FabricMem.lean ====
section
/-! DEFINITION. Sys2Proof/Machine/FabricMem.lean: memory ports, the fabric memory tier, the patrols of SRAM and LPDDR5X,
page retirement and refresh (spec/06_flume_tile.md R145; spec/10_expert_and_headwater.md R283-R287;
spec/11_memory_and_pools.md R297-R302). -/

namespace Sys2Proof.Machine

/-! ### Pages (R302) -/

/-- The LPDDR5X page of a device address. -/
def pageOf (a : Nat) : Nat := (a - lpddrBase) / 4096

/-- Accesses to these bytes wait: the packages are in self-refresh, or the page is being copied (R301, R302). -/
def State.mustWait (s : State) (a n : Nat) : Bool :=
  decide (lpddrBase < a + n) && decide (a < lpddrEnd) &&
    (s.selfRefresh || s.pageHeld.any fun p => decide (pageOf a ≤ p) && decide (p ≤ pageOf (a + n - 1)))

/-- A page taken out of use: held for its copy, or left in place when no spare is left; once. -/
def State.retirePage (s : State) (p : Nat) : State :=
  let off := 4096 * p
  if s.pageHeld.contains p || s.pages.contains (BitVec.ofNat 64 (off + 1)) then s
  else if s.fld MEM_SPARES MEM_SPARES_FREE ≤ s.pageHeld.length then
    let s := s.putPages (s.pages ++ [BitVec.ofNat 64 (off + 1)])
    ((s.ledgerAdd 3 (Table.get 0 s.pageErrs p) off 0).notice 0 0x001A (sourceOf 11 0) off).jorouRewrite
  else s.putPageHeld (s.pageHeld ++ [p])

/-! ### Requests of tile threads -/

/-- MEMORY_PORT_REQUEST (R145, R304): a request for this port's package. In the safe state a write or an atomic is
discarded (spec/14_faults_and_recovery.md Table 14-3). -/
def execMemoryPortRequest (m : Fin 16) (r : Request) (s : State) : Host.Outcome State Fault Refusal :=
  ok s (s.powered fun s =>
    if s.agentOf r.addr != .mport m || !firstOf (s.inbox m) r || s.mustWait r.addr (reqSize r.kind) then s
    else
      let s := s.setInbox m ((s.inbox m).erase (.req r))
      if s.safe && !isLoad r.kind then s else s.serveRequest (memOutput m) r)

/-! ### Fabric windows (R283, R284) -/

/-- A fabric window record (Table 10-7). -/
structure FabWindow where
  base : Nat
  size : Nat
  ctx : Nat
  gen : Nat
  valid : Bool
  rd : Bool
  wr : Bool
  at_ : Bool
  lo : Nat
  hi : Nat
  deriving DecidableEq, Repr

def fabAddr (s : State) (w : Nat) : Nat := (s.rd MEMT_BASE).toNat + 32 * w

def State.fabWindow (s : State) (w : Nat) : FabWindow :=
  let e := s.entry (fabAddr s w) 32
  { base := bitsOf e 0 64, size := bitsOf e 64 64, ctx := bitsOf e 128 12, gen := bitsOf e 144 4, valid := bitOf e 148,
    rd := bitOf e 149, wr := bitOf e 150, at_ := bitOf e 151, lo := bitsOf e 160 17, hi := bitsOf e 192 17 }

def mWindow (p : Payload) : Nat := payNum p 2 2 % 1024
def mOffset (p : Payload) : Nat := payNum p 4 5 % 2 ^ 39

/-- The device address that a memory cell names (R284). -/
def State.memAddress (s : State) (p : Payload) : Nat := (s.fabWindow (mWindow p)).base + mOffset p

/-- The crossbar output that a memory cell is terminated at (spec/02_cells_and_routes.md R34, R17). -/
def State.memAgent (s : State) (p : Payload) : Nat :=
  match s.agentOf (s.memAddress p) with
  | .tile t => tileOutput t
  | .mport m => memOutput m
  | _ => mgmtOutput

/-! ### Checks and answers (R285) -/

/-- One cell of an answer: status, index, data from byte 8 (R285). -/
def State.answerCell (s : State) (input h status index : Nat) (data : List Byte) : State :=
  s.originate (hSrc h) 5 5 (hCtx h) (hGen h) (hTag h) (hSeq h) 64
    (payOf (toBytes 2 s.switchId ++ toBytes 2 status ++ toBytes 2 index ++ toBytes 2 0 ++ data)) input

/-- A request answered with a status other than OK; nothing is performed. -/
def State.refuseCell (s : State) (input h status : Nat) : State :=
  (s.count MEMT_REFUSED).answerCell input h status 0 []

/-- The first failing check of Table 10-9, before the atomic filter: `n` bytes from the offset, `ok` the right. -/
def State.memCheck (s : State) (h : Nat) (p : Payload) (n : Nat) (lenOk right aligned : Bool) : Option Nat :=
  let w := s.fabWindow (mWindow p)
  let off := mOffset p
  let a := w.base + off
  if s.ctxState (hCtx h) = 2 then some 4
  else if !(w.valid && w.ctx == hCtx h && w.gen == hGen h && decide (w.lo ≤ hSrc h) && decide (hSrc h ≤ w.hi) && right) then
    some 1
  else if !lenOk || decide (w.size < off + n) || decide (4096 < off % 4096 + n) || !s.dataRange a n then some 2
  else if !aligned then some 3
  else if s.inMetadata a n || (hType h != 4 && s.inEngineRegion a n) then some 1
  else none

/-- The cell leaves the inbox of the crossbar port that serves it. -/
def State.takeCell (s : State) (input : Nat) (c : Cell) : State :=
  if 1025 ≤ input && input < 1281 then
    s.modTile (input - 1025) fun x => { x with inbox := x.inbox.erase (.cell c) }
  else if 1281 ≤ input then s.setInbox (input - 1281) ((s.inbox (input - 1281)).erase (.cell c))
  else s

/-- The items that wait at a crossbar port. -/
def State.inboxAt (s : State) (input : Nat) : List Item :=
  if 1025 ≤ input && input < 1281 then (s.tile (input - 1025)).inbox
  else if 1281 ≤ input then s.inbox (input - 1281) else s.inbox 17

/-- Whether a request cell is the first of its source at its agent: the requests of one source are performed in the order
in which they came (R286). -/
def State.firstOfSource (s : State) (input : Nat) (c : Cell) : Bool :=
  ((s.inboxAt input).find? fun i =>
    match i with
    | .cell k => [4, 6, 7].contains (hType k.h) && hSrc k.h == hSrc c.h
    | _ => false) == some (.cell c)

/-- The threads of the tile that holds an address see its new value (spec/07_instruction_set.md R197). -/
def State.wake (s : State) (a : Nat) : State := if a < 2 ^ 31 then s.settle (a / tileBytes) else s

/-- MEMORY_READ_REQUEST (R285): a TYPE 4 cell at the crossbar port of its agent. -/
def execMemoryReadRequest (input : Fin 1298) (c : Cell) (s : State) : Host.Outcome State Fault Refusal :=
  ok s (s.powered fun s =>
    let h := c.h
    let n := payNum c.pay 10 2
    let a := s.memAddress c.pay
    if hType h != 4 || !s.firstOfSource input c || s.mustWait a n then s
    else
      let w := s.fabWindow (mWindow c.pay)
      let s := s.takeCell input c
      match s.memCheck h c.pay n (decide (1 ≤ n) && decide (n ≤ 4096)) w.rd true with
      | some st => s.refuseCell input h st
      | none =>
        if s.poisoned a n then (s.ueRead a).refuseCell input h 6
        else
          let d := s.bytes a n
          (List.range ((n + 55) / 56)).foldl (fun s i => s.answerCell input h 0 i ((d.drop (56 * i)).take 56))
            (s.count MEMT_REQ))

/-- MEMORY_WRITE (R285): a TYPE 6 cell. -/
def execMemoryWrite (input : Fin 1298) (c : Cell) (s : State) : Host.Outcome State Fault Refusal :=
  ok s (s.powered fun s =>
    let h := c.h
    let n := payNum c.pay 9 1
    let a := s.memAddress c.pay
    if hType h != 6 || !s.firstOfSource input c || s.mustWait a n then s
    else
      let w := s.fabWindow (mWindow c.pay)
      let s := s.takeCell input c
      match s.memCheck h c.pay n (decide (1 ≤ n) && decide (n ≤ 48)) w.wr true with
      | some st => s.refuseCell input h st
      | none =>
        if s.partialPoison a n then s.refuseCell input h 6
        else (((s.count MEMT_REQ).put a (((payBytes c.pay).drop 16).take n)).wake a).answerCell input h 0 0 [])

/-- ATOMIC (R285, R287): a TYPE 7 cell: answered from the filter, or performed and kept in it. -/
def execAtomic (input : Fin 1298) (c : Cell) (s : State) : Host.Outcome State Fault Refusal :=
  ok s (s.powered fun s =>
    let h := c.h
    let op := payNum c.pay 9 1
    let f := op % 16
    let wide := bitOf op 4
    let n := if wide then 8 else 4
    let a := s.memAddress c.pay
    if hType h != 7 || !s.firstOfSource input c || s.mustWait a n then s
    else
      let w := s.fabWindow (mWindow c.pay)
      let s := s.takeCell input c
      match s.memCheck h c.pay n true w.at_ (a % n == 0) with
      | some st => s.refuseCell input h st
      | none =>
        let kept := s.atomics.find? fun x => x.1 == hSrc h && x.2.1 == hTag h && x.2.2.1 == hSeq h
        match kept with
        | some x => (s.count MEMT_ATOMIC_DUP).answerCell input h 0 0 (toBytes 8 x.2.2.2.toNat)
        | none =>
          if 4096 ≤ s.atomics.length then (s.count MEMT_ATOMIC_BUSY).refuseCell input h 5
          else if 8 < f || (f == 8 && wide) then
            -- a function that Table 7-19 does not list: nothing is performed, and the status is open
            let (v, s) := s.free
            s.refuseCell input h (v.toNat % 256)
          else
            match s.perform a (.atomic f wide (bitOf op 5) (BitVec.ofNat 64 (payNum c.pay 16 8))
                (BitVec.ofNat 64 (payNum c.pay 24 8))) with
            | (.ok, old, s) =>
              let s := s.putAtomics (s.atomics ++ [(hSrc h, hTag h, hSeq h, BitVec.ofNat 64 old)])
              ((s.count MEMT_REQ).wake a).answerCell input h 0 0 (toBytes 8 old)
            | (_, _, s) => s.refuseCell input h 6)

/-- ATOMIC_HOLD (R287): an entry of the atomic filter is freed. -/
def execAtomicHold (src : BitVec 17) (tag seq : BitVec 12) (s : State) : Host.Outcome State Fault Refusal :=
  ok s (s.powered fun s =>
    s.putAtomics (s.atomics.filter fun x => !(x.1 == src.toNat && x.2.1 == tag.toNat && x.2.2.1 == seq.toNat)))

/-! ### SRAM patrol and repair (R297, R298) -/

/-- The SRAM of the device address map: tile SRAM, canal memory and the Reservoir behind its window. -/
def isSram (a : Nat) : Bool := decide (a < canalEnd) || (decide (windowBase ≤ a) && decide (a < windowBase + 2 ^ 28))

/-- A fixed table of Table 11-2. -/
def isFixedTable (a : Nat) : Bool := decide (canalBase ≤ a) && decide (a < 0x82500000)

/-- A copy for output `o` counted as drained, with its notice (spec/03_reservoir.md R79). -/
def State.drainCopy (s : State) (o : Nat) (c : Cell) : State :=
  if isFabric o then (s.pathFail c.h o 5).countDrained o c.h else s

/-- The copies of a slot unlinked from every output queue, as drained (spec/03_reservoir.md R79). -/
def State.dropSlot (s : State) (n : Nat) : State :=
  match Table.look s.slots n with
  | none => s
  | some x =>
    let outs := (s.queues.filter fun e => e.2.any fun q => q.slot == n).map fun e => e.1 / 16
    let s := s.unlinkSlot n
    let s := match x.item with
      | .cell c => if x.charge == Charge.mirror then s else outs.foldl (fun s o => s.drainCopy o c) s
      | _ => s
    (s.putSlots (Table.put natRank s.slots n { x with copies := 0 })).slotFree n

/-- The cell of a slot with an uncorrectable error (R297): drained; a cell of an open chunk asks for its void
(spec/09_collectives.md R249), unless mirror copies of it are all that is left. -/
def State.loseSlot (s : State) (n : Nat) : State :=
  let linked := s.queues.any fun e => e.2.any fun q => q.slot == n
  match Table.look s.slots n with
  | some ⟨.cell k, _, _, c, _, _⟩ =>
    if linked && c != .mirror then (s.dropSlot n).chunkLost k else s.dropSlot n
  | _ => s.dropSlot n

/-- The 4 KiB page that holds a failing row retired (R298). -/
def State.retireSram (s : State) (a : Nat) : State :=
  let p := a / 4096 * 4096
  if windowBase ≤ a then
    let first := (p - windowBase) / 80
    let last := (p + 4095 - windowBase) / 80
    let new := ((List.range (last + 1 - first)).map (first + ·)).filter fun n =>
      decide (n < Config.slots) && !s.retiredSlots.contains n
    (s.putRetiredSlots (s.retiredSlots ++ new))
  else
    let s := s.pools.foldl (fun s e =>
      let x := e.2
      if x.state != 0 && decide (x.base < p + 4096) && decide (p < x.base + x.total * x.bytes) then
        let hit := (List.range x.total).map (fun i => x.base + i * x.bytes) |>.filter fun b =>
          decide (b < p + 4096) && decide (p < b + x.bytes) && !x.retiring.contains b
        s.setPool e.1 { x with retiring := x.retiring ++ hit }
      else s) s
    if a < 2 ^ 31 && s.bound (a / tileBytes) then s.candidate (a / tileBytes) none else s

/-- A row that shows an uncorrectable error, or 4 corrected errors in one pass: a ledger entry with the corrected errors seen,
and its page retires. -/
def State.rowFails (s : State) (a : Nat) : State :=
  (s.ledgerTo 1 (Table.get 0 s.rowErrs (Config.sramRow a)) (Config.sramRow a)).retireSram a

/-- SRAM_PATROL (R297, R298): the patrol reads the 64-bit word at `addr`. A pass ends when the address falls. -/
def execSramPatrol (addr : BitVec 48) (found : EccResult) (s : State) : Host.Outcome State Fault Refusal :=
  ok s (s.powered fun s =>
    let a := addr.toNat / 8 * 8
    if !isSram a then s
    else
      let s := if a < s.sramAt then s.putRowErrs [] else s
      let s := s.putSramAt a
      match found with
      | .clean => s
      | .corrected =>
        let r := Config.sramRow a
        let n := Table.get 0 s.rowErrs r + 1
        let s := (s.count SRAM_CE).putRowErrs (Table.set natRank 0 s.rowErrs r n)
        if n = 4 then s.rowFails a else s
      | .uncorrectable =>
        let s := s.count SRAM_UE
        let s := if windowBase ≤ a then s.loseSlot ((a - windowBase) / 80)
          else s.putPoison (if s.poison.contains a then s.poison else s.poison ++ [a])
        let s := if isFixedTable a then s.notice 0 0x0018 (sourceOf 11 0) a else s
        s.rowFails a)

/-! ### LPDDR5X patrol, retirement and refresh (R300-R302) -/

/-- LPDDR_PATROL (R300, R302): the patrol reads the next 64-byte burst. -/
def execLpddrPatrol (found : EccResult) (s : State) : Host.Outcome State Fault Refusal :=
  ok s (s.powered fun s =>
    let off := s.patrolAt
    let s := if off = 0 then s.putPageErrs [] else s
    let s := s.putPatrolAt ((off + 64) % 2 ^ 39)
    let p := off / 4096
    match found with
    | .clean => s
    | .corrected =>
      let n := Table.get 0 s.pageErrs p + 1
      let s := (s.count MEM_CE).putPageErrs (Table.set natRank 0 s.pageErrs p n)
      if max 1 (s.fld MEM_CFG MEM_CFG_RETIRE_THRESH) ≤ n then s.retirePage p else s
    | .uncorrectable =>
      let a := lpddrBase + off
      let s := s.count MEM_UE
      let s := s.putPoison (if s.poison.contains a then s.poison else s.poison ++ [a])
      s.retirePage p)

/-- PAGE_RETIRE_DONE (R302): the held page has been copied and remapped; `badLines` could not be corrected. -/
def execPageRetireDone (page : BitVec 27) (badLines : BitVec 64) (s : State) : Host.Outcome State Fault Refusal :=
  ok s (s.powered fun s =>
    let p := page.toNat
    if !s.pageHeld.contains p then s
    else
      let off := 4096 * p
      let bad := ((List.range 64).filter fun i => badLines.getLsbD i).map fun i => lpddrBase + off + 64 * i
      let page := BitVec.ofNat 64 off
      let s := (s.putPageHeld (s.pageHeld.erase p)).putPageErrs (Table.del s.pageErrs p)
      let s := (s.putPoison (s.poison ++ bad.filter fun a => !s.poison.contains a)).putPages
        (if s.pages.contains page then s.pages else s.pages ++ [page])
      let s := (s.setFld MEM_SPARES MEM_SPARES_FREE (s.fld MEM_SPARES MEM_SPARES_FREE - 1)).count MEM_RETIRED
      ((s.ledgerTo 2 bad.length off).notice 0 0x0019 (sourceOf 11 0) off).jorouRewrite)

/-- LPDDR_REFRESH (R301): one bank of a channel is refreshed, never two at a time. -/
def execLpddrRefresh (m : Fin 16) (channel : Fin 4) (bank : Fin 16) (s : State) : Host.Outcome State Fault Refusal :=
  ok s (s.powered fun s =>
    if s.selfRefresh then s
    else s.putRefreshing (Table.put natRank s.refreshing (4 * m + channel) bank))

end Sys2Proof.Machine
end

