-- ==== Sys2Proof/Machine/LinkState.lean ====
section
/-! DEFINITION. Sys2Proof/Machine/LinkState.lean: the states of a fabric port, its way into and out of DOWN, and the rebind
of its circuits (spec/02_cells_and_routes.md R42, R43; spec/03_reservoir.md R72, R79; spec/09_collectives.md R253, R254;
spec/12_lanes_and_links.md R327, R328, R330). -/

namespace Sys2Proof.Machine

/-! ### Fields of a port -/

def State.width (s : State) (p : Nat) : Nat := s.fld (PORT_LINK_STAT p) PORT_LINK_STAT_WIDTH
def State.widthMap (s : State) (p : Nat) : Nat := s.fld (PORT_LINK_STAT p) PORT_LINK_STAT_WIDTH_MAP
def State.failedLanes (s : State) (p : Nat) : Nat := s.fld (PORT_LINK_STAT p) PORT_LINK_STAT_FAILED
def State.enabled (s : State) (p : Nat) : Bool := s.bit (PORT_LINK_CTL p) PORT_LINK_CTL_ENABLE
def State.loopOf (s : State) (p : Nat) : Nat := s.fld (PORT_LINK_CTL p) PORT_LINK_CTL_LOOP

/-- The port whose link holds lane `l`, with the logical lane (spec/12 R320). -/
def State.portOfLane (s : State) (l : Nat) : Option (Nat × Nat) :=
  (s.laneMap.find? fun r => decide (r.port ≤ l) && decide (l < r.port + r.width)).map fun r => (r.port, l - r.port)

/-- The port has a link of the lane map whose octet is powered: only then do its lanes do anything (R320;
spec/01_architecture.md R14; spec/17_electrical_mechanical.md R461). -/
def State.lineOn (s : State) (p : Nat) : Bool := (s.laneRec p).isSome && (s.port p).powered

/-- Lane `l` belongs to such a link. -/
def State.laneOn (s : State) (l : Nat) : Bool := (s.portOfLane l).any fun e => s.lineOn e.1

/-- Whether some lane of octet `o` recovers a clock (R329; spec/15_power_clocks_security.md R416). -/
def State.octetLocked (s : State) (o : Nat) : Bool :=
  (List.range 8).any fun i => s.laneOn (8 * o + i) && !s.bit (OCT_LANE_STAT o i) OCT_LANE_STAT_LOL

/-- The lanes failed on either side of the link (R327). -/
def State.unionFailed (s : State) (p : Nat) : Nat := s.failedLanes p ||| (s.port p).peerFailed

/-- A port carries codewords in HELLO, UP, QUARANTINED and DEGRADED. -/
def State.carries (s : State) (p : Nat) : Bool :=
  let x := s.linkState p
  x == linkHello || x == linkUp || x == linkQuarantined || x == linkDegraded

/-! ### Changes of state (R328) -/

/-- CODE of a port event: category 1 with the down reason; the quarantine reason; zero. -/
def portCode (new reason : Nat) : Nat := if new = linkDown then 2 ^ 24 + reason else reason

/-- Down reasons that a command of the host gives; every other one is the hardware's (Table 12-4). -/
def downAsked (reason : Nat) : Bool := [1, 7, 8].contains reason

/-- The fault record of a port that goes DOWN: category 1 (spec/14_faults_and_recovery.md R371, R372). -/
def State.postDown (s : State) (p reason : Nat) : State :=
  let e : Ev := { cls := 0, src := sourceOf 2 p, code := portCode linkDown reason, hw := !downAsked reason, detail := p }
  s.post ⟨0, 1, none, e.src, e.code, s.cycle, faultRecord e false false 0 0⟩

/-- STATE written, with the class N event at a change to or from DOWN, QUARANTINED or DEGRADED: one event with its PORT
record, and a fault record where the port goes DOWN. -/
def State.setLink (s : State) (p new reason : Nat) : State :=
  let old := s.linkState p
  let s := s.setFld (PORT_LINK_STAT p) PORT_LINK_STAT_STATE new
  if old != new && [linkDown, linkQuarantined, linkDegraded].any fun k => k == old || k == new then
    let code := portCode new reason
    ((s.countEvent { cls := 0, src := sourceOf 2 p, code := code }).also (decide (new = linkDown)) fun s =>
      s.postDown p reason).post ⟨0, 10, none, sourceOf 2 p, code, s.cycle, eventData [p, old, new, reason]⟩
  else s

/-- FAILED of the port and of its lanes cleared (R327). -/
def State.clearFailed (s : State) (p : Nat) : State :=
  let s := s.setFld (PORT_LINK_STAT p) PORT_LINK_STAT_FAILED 0
  (List.range (s.widthMap p)).foldl (fun s i =>
    s.setFld (OCT_LANE_STAT (p / 8) ((p + i) % 8)) OCT_LANE_STAT_FAILED 0) s

/-- TX_MAIN reduced until the taps add up to at most 64 (R344). -/
def clampTaps (v : Nat) : Nat :=
  putBits v 8 8 (min (bitsOf v 8 8) (64 - (bitsOf v 16 8 + bitsOf v 0 8)))

/-- TX_EQ of the lanes takes effect at their entry into TRAINING (R344). -/
def State.takeTaps (s : State) (p : Nat) (lanes : List Nat) : State :=
  s.modPort p fun x => { x with taps := lanes.foldl (fun l i =>
    Table.set natRank 0 l i (clampTaps ((s.rd (OCT_LANE_CFG ((p + i) / 8) ((p + i) % 8))).toNat % 2 ^ 24))) x.taps }

/-- The place of the lane that carries lane `k` of the lane map, as its markers said (R320, R325). -/
def Port.carrier (x : Port) (k : Nat) : Nat :=
  ((x.markers.find? fun e => e.2.width != 0 && e.2.logical == k).map Prod.fst).getD k

/-- The lane of the lane map that the lane at place `i` carries. -/
def Port.carried (x : Port) (i : Nat) : Nat :=
  let m := Table.get Mark.init x.markers i
  if m.width = 0 then i else m.logical

/-- The markers of a link are looked for anew on lanes whose carriage is known. -/
def Port.seekMarkers (x : Port) : Port :=
  { x with markers := x.markers.map fun e => (e.1, { e.2 with count := 0 }), laneLock := [], peerReady := [] }

/-- Training begins at `lanes` of the lane-map width: all that a link keeps between codewords starts over. -/
def State.startTraining (s : State) (p : Nat) (lanes : List Nat) : State :=
  let s := (s.takeTaps p lanes).setFld (PORT_LINK_STAT p) PORT_LINK_STAT_WIDTH lanes.length
  let s := (List.range 16).foldl (fun s v => s.modVc p v fun c => { c with peerCred := 0, credSaid := 0 }) s
  s.modPort p fun x =>
    { x.seekMarkers with
             markers := if lanes.length = s.widthMap p then [] else x.seekMarkers.markers,
             peerFailed := if lanes.length = s.widthMap p then 0 else x.peerFailed, peerNext := none, prbsChk := [],
             trainLanes := lanes, txSwitched := false, rxSwitched := false, txPrbs := 0x7FFFFFFF, rxPrbs := 0x7FFFFFFF,
             txNum := 0, rxNum := 0, txBits := (0, 0), rxBits := (0, 0), rxSkip := 0, replayBuf := [], replaying := none,
             acted := none, asked := none, replayed := none, badRun := 0, linkWords := [], credOrder := [], narrowing := none, hellos := [], handedOn := [] }

/-- DOWN left for TRAINING at the lane-map width, once the drain is over, with ENABLE = 1 and no loop that keeps the port
DOWN; a near-end loop trains against itself (R328, R340). A narrowed link has its width back, which rewrites the Jorou table
(spec/13_host_port_and_control.md R367). -/
def State.tryTrain (s : State) (p : Nat) : State :=
  if s.linkState p == linkDown && (s.port p).powered && !(s.port p).draining && s.enabled p && s.loopOf p != 3 &&
      (s.laneRec p).isSome then
    let old := s.width p
    let s := (s.clearFailed p).startTraining p (List.range (s.widthMap p))
    (s.also (old != s.widthMap p) State.jorouRewrite).setLink p linkTraining 0
  else s

/-! ### Circuits of a failed port (R42, R43, R253, R254) -/

/-- Whether port `p` going DOWN breaks an ACTIVE entry. -/
def State.breaks (s : State) (p : Nat) (c : Circuit) : Bool :=
  c.valid && c.state == 0 &&
    ((!c.inLocal && c.inPort == p) || (c.kind == 0 && c.outPort == p) ||
      (c.kind == 3 && c.standby != 0xFFFFF && bitOf (s.tree (c.outCirc % 65536)).ports p))

/-- R43 for one entry of the group: a BROKEN entry takes its standby, another STANDBY entry becomes ACTIVE. -/
def State.rebindOne (s : State) (l : Nat) : State :=
  let c := s.circuit l
  if c.valid && c.state == 2 && c.standby != 0xFFFFF then
    let d := s.circuit c.standby
    if d.valid && d.state == 1 then
      (s.setCircuit l { c with state := 0, kind := d.kind, outPh := d.outPh, outPort := d.outPort,
                                outCirc := d.outCirc }).setCircuit c.standby { d with valid := false }
    else s
  else s

/-- The rebind of a group (R43), and whether every BROKEN entry found its standby. -/
def State.rebind (s : State) (ctx handle : Nat) : Bool × State :=
  let ls := s.circuitLabels.filter fun l => (s.circuit l).valid && (s.circuit l).ctx == ctx && (s.circuit l).group == handle
  let s := ls.foldl (fun s l => s.rebindOne l) s
  let s := ls.foldl (fun s l =>
    let c := s.circuit l
    if c.valid && c.state == 1 then s.setCircuit l { c with state := 0 } else s) s
  (ls.all fun l => !((s.circuit l).valid && (s.circuit l).state == 2), s)

/-- Entries marked BROKEN, the groups they belong to rebound, and BREAK sent for each (R42, R253, R254). -/
def State.breakEntries (s : State) (p : Nat) (which : Circuit → Bool) (endpoint : Bool) : State :=
  let broken := s.circuitLabels.filter fun l => which (s.circuit l)
  let groups := (broken.map fun l => ((s.circuit l).ctx, (s.circuit l).group)).eraseDups
  let s := broken.foldl (fun s l => s.setCircuit l { s.circuit l with state := 2 }) s
  groups.foldl (fun s k =>
    let (all, s) := if endpoint then (false, s) else s.rebind k.1 k.2
    match s.findGroup k.1 k.2 with
    | some g => s.reportBreak g p all
    | none => s) s

/-! ### Down (R79, R330) -/

/-- One cell unlinked from a queue of a port that went DOWN: its notice, its count, its slot (R79). -/
def State.drainOne (s : State) (p : Nat) (e : QEntry) : State :=
  let s := match s.slotItem e.slot with
    | some (.cell c) => (s.pathFail c.h p 5).countDrained p c.h
    | _ => s
  (s.copyDone e.slot).slotFree e.slot

/-- The copies of a held cell without the one for port `p`. -/
def HeldCell.drop (p : Nat) (x : HeldCell) : HeldCell := { x with copies := x.copies.filter fun k => k.out != p }

/-- The copies for port `p` of a cell held at ingress, drained as queued ones are: notice and count (R79). -/
def State.drainHeld (s : State) (p : Nat) (h : HeldCell) : State :=
  match h.item with
  | .cell c => (h.copies.filter fun k => k.out == p).foldl (fun s _ => (s.pathFail c.h p 5).countDrained p c.h) s
  | _ => s

/-- Every cell on the port's queues, its mirror queue and the copies held for it drained (R79). What becomes of mirror copies
that already wait for the port no rule says: they are freed and counted nowhere (log entry 68). -/
def State.drainPort (s : State) (p : Nat) : State :=
  let s := (List.range 16).foldl (fun s v =>
    let q := s.q p v
    q.foldl (fun s e => s.drainOne p e) (s.setQueue (qIndex p v) [])) s
  let s := (s.port p).mirrorQ.foldl (fun s n => (s.copyDone n.1).slotFree n.1) s
  let s := s.modPort p fun x => { x with mirrorQ := [] }
  let s := s.heldCells.foldl (fun s h => s.drainHeld p h) s
  s.putHeldCells (s.heldCells.map (HeldCell.drop p))

/-- The link of port `p` goes DOWN with a reason of Table 12-4. -/
def State.portDown (s : State) (p reason : Nat) : State :=
  if s.linkState p == linkDown then s
  else
    let s := (s.setLink p linkDown reason).setFld (PORT_LINK_STAT p) PORT_LINK_STAT_DOWN_REASON reason
    let s := (s.count (PORT_LINK_DOWN p)).modPort p fun x =>
      { x with draining := true, narrowing := none, handedOn := [], linkWords := [], hellos := [], txSwitched := false,
               rxSwitched := false }
    let s := (List.range 16).foldl (fun s v => s.returnGrant p v) (s.drainPort p)
    s.breakEntries p (s.breaks p) (s.role p == 1)

/-- A failed octet reset leaves the octet powered down, its ports DOWN, its lanes in the ledger (R394). -/
def State.octetFails (s : State) (o : Nat) : State :=
  let s := (List.range 8).foldl (fun s i => (s.portDown (8 * o + i) 8).modPort (8 * o + i) fun x => { x with powered := false }) s
  let s := if bitOf s.power.octetsOn o then
      s.putPower ({ s.power with octetsOn := s.power.octetsOn - 2 ^ o }) else s
  (List.range 8).foldl (fun s i =>
    (s.setFld (OCT_LANE_STAT o i) OCT_LANE_STAT_FAILED 1).ledgerAdd 6 0 (8 * o + i) 0) (s.ledgerAdd 7 0 o 0)

/-- Octets whose reset has escalated fail (R394). -/
def State.killOctets (s : State) : State :=
  (s.power.octetsDead.filter fun o => bitOf s.power.octetsOn o).foldl State.octetFails s

/-- PORT_DOWN (R42): the port goes DOWN with a reason. -/
def execPortDown (port : Fin 1024) (reason : BitVec 4) (s : State) : Host.Outcome State Fault Refusal :=
  ok s (s.powered fun s => s.portDown port reason.toNat)

/-- PORT_DRAIN_COMPLETE (R79, R328): the drain is over, and the port trains when nothing keeps it DOWN. -/
def execPortDrainComplete (port : Fin 1024) (s : State) : Host.Outcome State Fault Refusal :=
  ok s (s.powered fun s =>
    if s.linkState port != linkDown then s
    else (s.modPort port fun x => { x with draining := false }).tryTrain port)

/-! ### Asking for a replay (spec/02_cells_and_routes.md R27; R332, R333) -/

/-- Attempt `att` of a replay from codeword `n`; after attempt 7 the link goes DOWN. -/
def State.askAttempt (s : State) (p att n : Nat) : State :=
  if 7 < att then s.portDown p 5
  else
    (s.modPort p fun x => { x with asked := some (att, n % 2048), replayed := none }).count (PORT_REPLAY_REQ p)

/-- A replay from codeword `n`, whose first `skip` bits have been handed on: the attempt after the one that brought the same
codeword, else attempt 0. -/
def State.askReplay (s : State) (p n skip : Nat) : State :=
  let att := match (s.port p).replayed with
    | some (a, m) => if m = n % 2048 then a + 1 else 0
    | none => 0
  (s.modPort p fun x => { x with rxNum := n, rxSkip := skip }).askAttempt p att n

/-- The next attempt of the replay asked for. -/
def State.askAgain (s : State) (p : Nat) : State :=
  match (s.port p).asked with
  | some (att, n) => s.askAttempt p (att + 1) n
  | none => s

/-- A cell handed on whose header fails HCRC: it stood before the cells that still wait, and everything from its first bit on
comes again (R27, log entry 43). -/
def State.replayCell (s : State) (p : Nat) : State :=
  let x := s.port p
  if x.asked.isSome then s
  else
    let start := 5100 * x.rxNum - x.rxBits.2 - 640 * (x.handedOn.length + 1)
    (s.modPort p fun x => { x with handedOn := [], rxBits := (0, 0) }).askReplay p (start / 5100) (start % 5100)

/-! ### Link up (R52, R72, R328) -/

/-- UP, DEGRADED or QUARANTINED entered from HELLO: the grants, the buckets, the first tags. -/
def State.comeUp (s : State) (p new reason : Nat) : State :=
  let s := (s.grantAll p).fillBuckets p
  let s := s.modPort p fun x => { x with vtime := 0, credOrder := List.range 16 }
  let s := if new = linkQuarantined then s.setFld (PORT_LINK_STAT p) PORT_LINK_STAT_Q_REASON reason else s
  s.setLink p new reason

/-- UP at the lane-map width, else DEGRADED. -/
def State.upState (s : State) (p : Nat) : Nat := if s.width p = s.widthMap p then linkUp else linkDegraded

/-! ### SWITCH_ID (spec/02_cells_and_routes.md R65) -/

/-- A write to the register of SWITCH_ID: ignored with an event while a port is in HELLO, UP, QUARANTINED or DEGRADED. -/
def State.switchIdWrite (s : State) (v : Nat) : State :=
  if (List.range 1024).any s.carries then s.notice 0 0x0004 (sourceOf 4 0) v
  else s.setFld ROUTE_SWITCH_ID ROUTE_SWITCH_ID_SWITCH_ID v

/-- SWITCH_ID_WRITE (R65) -/
def execSwitchIdWrite (value : Word) (s : State) : Host.Outcome State Fault Refusal :=
  ok s (s.powered fun s => s.switchIdWrite value.toNat)

end Sys2Proof.Machine
end

