-- ==== Sys2Proof/Machine/Ingress.lean ====
section
/-! DEFINITION. Sys2Proof/Machine/Ingress.lean: what becomes of a cell at a crossbar input: the checks of a fabric port, the
routed, circuit and tree lookups, admission, and the crossbar's service of internal senders (spec/01_architecture.md R10;
spec/02_cells_and_routes.md R33-R47, R60; spec/16_water_book.md R438). -/

namespace Sys2Proof.Machine

/-! ### Headers of copies -/

/-- PH set to 1. -/
def withPh (h : Nat) (b : Bool) : Nat := if b then putBits h 120 1 1 else h

/-- A copy for output `o` with header number `h`, its HCRC computed anew. Admission notes the role of the output. -/
def copyTo (o h : Nat) : Copy := ⟨o, hVc h, sealHdr h, false⟩

/-- A refused circuit or tree cell is counted at the fabric port on which it arrived (R41, R47). -/
def State.stale (s : State) (input : Nat) : State := if isFabric input then s.count (PORT_STALE_DROP input) else s

/-! ### Routed cells (R34) -/

/-- The reason of Table 2-10 for which egress port `e` cannot take the cell. -/
def State.routeFails (s : State) (e h : Nat) : Option Nat :=
  if (s.laneRec e).isNone then some 3
  else if s.linkState e == linkDown || s.linkState e == linkTraining || s.linkState e == linkHello then some 1
  else if s.linkState e == linkQuarantined then some 2
  else if hHp h == 3 && s.role e != 1 then some 4
  else none

/-- A cell terminated here, with its header: CE without ECE sets ECE on it and is echoed. The destination port and endpoint
that the echo names are not stated for it (R57, R58, log entry 67). -/
def State.echoHere (s : State) (h : Nat) (pay : Payload) : Nat × State :=
  if hCe h && !hEce h then
    let (v, s) := s.free
    (putBits h 76 1 1, s.echo h (v.toNat % 65536) (v.toNat / 65536 % 2 ^ 17) pay)
  else (h, s)

/-- A routed cell that is not terminated here: its copy, or its discard with a path-fail notice. -/
def State.routeOn (s : State) (input h : Nat) : List Copy × State :=
  let e := hPath h (hHp h)
  match s.routeFails e h with
  | some why =>
    let s := if isFabric input then s.count (PORT_ROUTE_FAIL input) else s
    ([], s.pathFail h e why)
  | none =>
    let h' := putBits h 78 2 ((hHp h + 1) % 4)
    let detour := isFabric input && s.role input == 2 && s.role e == 2
    ([copyTo e (withPh h' detour)], s)

/-- R34, but for the dispatcher's cells. -/
def State.routed (s : State) (input : Nat) (c : Cell) : List Copy × State :=
  let h := c.h
  let fromEndpoint := isFabric input && s.role input == 1
  if [4, 6, 7].contains (hType h) && payNum c.pay 0 2 % 4096 == s.switchId then
    let (h', s) := s.echoHere h c.pay
    ([copyTo (s.memAgent c.pay) h'], s)
  else if fromEndpoint && [5, 11, 12].contains (hType h) then ([], (s.echoHere h c.pay).2)
  else s.routeOn input h

/-! ### Trees (R45-R47) -/

/-- The fabric copies of a tree: those to ports that are not UP or DEGRADED are discarded. -/
def State.treePorts (s : State) (ports : List Nat) (h : Nat) : List Copy × State :=
  ports.foldl (fun (a : List Copy × State) e =>
    if a.2.live e then (a.1 ++ [copyTo e h], a.2) else (a.1, a.2.count (PORT_STALE_DROP e))) ([], s)

/-- A cell meets tree entry `n`: a TYPE 3 cell by its TREE field, a circuit cell through DEST_KIND 3, whose circuit entry has
OUT_PH `ph` (R41, R46). With DEPTH = 0 the event is raised when a fabric copy is suppressed (R47, log entry 40). -/
def State.treeLookup (s : State) (input n : Nat) (c : Cell) (ph : Bool := false) : List Copy × State :=
  let h := c.h
  let t := s.tree n
  if !(t.valid && t.ctx == hCtx h && t.gen == hGen h && admitsFrom t.inLocal t.inPort input) then ([], s.stale input)
  else
    let ports := bitsSet 1024 t.ports
    let multi := hType h == 3
    let h' := if multi then putBits (putBits h 104 16 (t.outLabel % 65536)) 100 4 (hDepth h - 1)
      else putBits h 100 20 t.outLabel
    let (fab, s) :=
      if multi && hDepth h == 0 && !ports.isEmpty then
        let s := ports.foldl (fun s e => s.count (PORT_TREE_LOOP e)) s
        ([], s.raise { cls := 1, src := sourceOf 2 input, code := evCode 0x0003, ctx := some (hCtx h), detail := n })
      else s.treePorts ports (withPh h' (t.outPh || ph))
    let tiles := (bitsSet 256 t.tiles).map fun k => (⟨tileOutput k, hVc h, c.hdr, false⟩ : Copy)
    let host := if t.host then [(⟨hostOutput, hVc h, c.hdr, false⟩ : Copy)] else []
    (fab ++ host ++ tiles, s)

/-! ### Circuits (R41, R236) -/

/-- Whether the label's group replays: its fabric cells are discarded (spec/09_collectives.md R261). -/
def State.replaying (s : State) (c : Circuit) : Bool :=
  match s.findGroup c.ctx c.group with
  | some g => s.gReplay g
  | none => false

/-- R41: delivery as DEST_KIND gives. -/
def State.circuitLookup (s : State) (input : Nat) (k : Cell) : List Copy × State :=
  let h := k.h
  let c := s.circuit (hCirc h)
  let fabric := isFabric input
  if fabric && s.role input == 1 && hType h == 10 then ([], s.count WM_CTL_DROP)
  else if { c with state := 0 }.forwards h input && c.state == 2 && c.kind == 0 && !s.live c.outPort then
    ([], s.count (PORT_STALE_DROP c.outPort))
  else if !c.forwards h input || (fabric && s.replaying c) then ([], s.stale input)
  else
    let h' := withPh (putBits h 100 20 c.outCirc) c.outPh
    match c.kind with
    | 0 => if s.live c.outPort then ([copyTo c.outPort h'], s) else ([], s.count (PORT_STALE_DROP c.outPort))
    | 1 => ([copyTo (tileOutput (c.outPort % 256)) h'], s)
    | 2 => ([copyTo hostOutput h'], s)
    | 3 =>
      let t := s.tree (c.outCirc % 65536)
      let seen := t.valid && t.ctx == hCtx h && t.gen == hGen h && admitsFrom t.inLocal t.inPort input
      let s := if seen && hTc h == 2 then s.pondCopy k else s
      let s := if seen && fabric && hType h == 10 then s.wmArrive 2048 k else s
      s.treeLookup input (c.outCirc % 65536) k c.outPh
    | 4 =>
      if hType h == 9 || hType h == 10 then
        ([], if fabric then s.wmArrive (c.outCirc % 2048) k else s)
      else ([], s.count WM_CTL_DROP)
    | _ => ([], s.stale input)

/-- The form-specific lookup (check 6 of Table 2-4). -/
def State.lookup (s : State) (input : Nat) (c : Cell) : List Copy × State :=
  match formOf (hType c.h) with
  | .routed => s.routed input c
  | .circuit => s.circuitLookup input c
  | .multicast => s.treeLookup input (hTree c.h) c
  | .none => ([], s)

/-- A cell admitted with its copies, and counted for its context. -/
def State.take (s : State) (input v : Nat) (c : Cell) (copies : List Copy) : State :=
  let s := if copies.isEmpty then s else s.countCell (hCtx c.h) (hGen c.h)
  s.takeIn input v c copies

/-! ### CELL_RECEIVE (R33) -/

/-- The spoof check fails (check 4 of Table 2-4). -/
def State.spoofed (s : State) (p h : Nat) : Bool :=
  s.role p == 1 && s.bit (PORT_ROLE p) PORT_ROLE_SPOOF_CHK &&
    (hSrc h != s.fld (PORT_ROLE p) PORT_ROLE_PEER_ID || hPh h != 0 || [5, 11, 12].contains (hType h) ||
      (formOf (hType h) == .routed && hHp h != 0))

/-- A cell that passed check 4: mirror and sampler, the Headgate, the lookup, admission. -/
def State.ingress (s : State) (p : Nat) (c : Cell) : State :=
  let h := c.h
  let v := hVc h
  let (pass, s) := s.police p h
  let s := s.mirrorCell 0 p p 0xFFFF (if pass then 0 else 1) c
  let s := s.sampleCell p 0 c
  if !pass then s.returnCredit p v
  else if hType h == 14 && s.role p == 1 then
    let (h', s) := s.echoHere h c.pay
    s.expArrive p ⟨sealHdr h', c.pay⟩
  else
    let (copies, s) := s.lookup p c
    s.take p v c copies

/-- CELL_RECEIVE (R33): a cell handed on by the link of a port that carries codewords. A header that fails HCRC is counted
and replayed by the link; an idle cell, counted when it is a fence, and a link management cell go no further. The fabric
input's buffer holds no cell between two commands (log entry 69). -/
def execCellReceive (port : Fin 1024) (c : Cell) (s : State) : Host.Outcome State Fault Refusal :=
  ok s (s.powered fun s =>
    let p := port.val
    let h := c.h
    let v := hVc h
    if !s.carries p then s
    else
      let s := s.modPort p fun x => { x with handedOn := x.handedOn.erase c }
      if s.crossed (0x40 + p / 8) then s.cutCell p c
      else if !hcrcOk h then (s.count (PORT_HCRC_ERR p)).replayCell p
      else if hType h == 0 then
        if bitOf h 123 then s.modPort p fun x => { x with fenceIdles := x.fenceIdles + 1 } else s
      else if !legalType h then (s.count (PORT_HDR_DROP p)).returnCredit p v
      else if hType h == 13 then s
      else if s.linkState p == linkHello || (s.linkState p == linkQuarantined && !(hTc h == 0 && hType h == 1)) then
        (s.count (PORT_HDR_DROP p)).returnCredit p v
      else if s.spoofed p h then
        ((s.count (PORT_SPOOF_DROP p)).raise
          { cls := 1, src := sourceOf 2 p, code := evCode 0x0001 (hTc h), ctx := some (hCtx h), detail := hSrc h }).returnCredit p v
      else s.ingress p c)

/-! ### CROSSBAR_TRANSFER (R10, R70) -/

/-- The item of an internal input that crosses next: of the eight in its input buffer the earliest whose channel has a slot
free. Which of several channels goes first the spec leaves open; within a channel the items keep their order (R10, R12, log
entry 69). -/
def State.ready (s : State) (input : Nat) : Option (Nat × Item) :=
  ((Table.get [] s.xin input).take 8).find? fun e => s.itemRoom input e.1 e.2

/-- The output of a device-internal cell: the owner of its address, or the tile that asked (R17). -/
def State.internalTo (s : State) : Item → Option (Nat × Nat × Nat)
  | .req r =>
    (match s.agentOf r.addr with
      | .tile t => some (tileOutput t)
      | .mport m => some (memOutput m)
      | .mgmt => some mgmtOutput
      | .none => none).map fun o => (o, r.ctx, r.gen)
  | .rsp r => some (tileOutput r.tile, (s.tile r.tile).ctx, s.genOf (s.tile r.tile).ctx)
  | .cell _ => none
  | .toTile .. => none

/-- A request whose address no agent owns completes with an address error (R11); any other item ends here. -/
def State.bounce (s : State) (v : Nat) : Item → State
  | .req r => s.inject mgmtOutput v (.rsp ⟨r.tile, r.thread, r.tag, .address, 0⟩)
  | _ => s

/-- One cell of an internal input crosses. The crossbar's acceptance of a RESULT's last cell frees its combine entry
(spec/10_expert_and_headwater.md R281). A message cell of a tile counts down its completion counter
(spec/07_instruction_set.md R195). -/
def State.cross (s : State) (input v : Nat) (i : Item) : State :=
  let s := s.putXin (Table.set natRank [] s.xin input ((Table.get [] s.xin input).erase (v, i)))
  match i with
  | .cell c =>
    let (copies, s) := s.lookup input c
    let s := s.take input v c copies
    if 1025 ≤ input && input < 1281 && hType c.h == 14 then
      s.modTile (input - 1025) fun x =>
        let rest := x.combTx.drop 1
        match x.combTx.head?.join with
        | some key => { x with combTx := rest, combs := if rest.contains (some key) then x.combs else Table.del x.combs key }
        | none => { x with combTx := rest }
    else if 1025 ≤ input && input < 1281 && hType c.h == 1 then
      let t := input - 1025
      match (s.tile t).msgCc.find? fun e => e.1 == v with
      | some e => (s.modTile t fun x => { x.ccSub e.2 1 with msgCc := x.msgCc.erase e }).run t
      | none => s
    else s
  | .toTile t c =>
    (s.countCell (hCtx c.h) (hGen c.h)).enter input v (.cell c) (hCtx c.h) (s.stamp [copyTo (tileOutput t) c.h])
  | _ =>
    match s.internalTo i with
    | some (o, ctx, gen) => (s.countCell ctx gen).enter input v i ctx [⟨o, v, 0, false⟩]
    | none => s.bounce v i

/-- Internal inputs in the crossbar's rotating order. -/
def crossOrder (last : Nat) : List Nat :=
  let l := (List.range Config.internalPorts).map (1024 + ·)
  (l.filter fun i => decide (last < i)) ++ l.filter fun i => decide (i ≤ last)

/-- CROSSBAR_TRANSFER (R10): in a core cycle every ready internal input crosses one cell, 512 at most in rotating order
after the last one served; of the inputs served, the lower-numbered one is linked first (R12). -/
def execCrossbarTransfer (s : State) : Host.Outcome State Fault Refusal :=
  ok s (s.powered fun s =>
    let served := ((crossOrder s.xinLast).filter fun i => (s.ready i).isSome).take 512
    let s := s.putXinLast (served.getLast?.getD s.xinLast)
    ((List.range Config.internalPorts).map (1024 + ·)).foldl (fun s i =>
      if served.contains i then
        match s.ready i with
        | some (v, x) => s.cross i v x
        | none => s
      else s) s)

end Sys2Proof.Machine
end

