-- ==== Sys2Proof/Machine/Links.lean ====
section
/-! DEFINITION. Sys2Proof/Machine/Links.lean: codewords, replay, training, hellos, narrowing, lane failures, and the link
controls of a port (spec/12_lanes_and_links.md R319-R344; spec/15_power_clocks_security.md R416). -/

namespace Sys2Proof.Machine

/-! ### The scrambler (R323) -/

/-- `n` bits of PRBS31 (x^31 + x^28 + 1) after state `g`, first bit most significant, and the state after them. -/
def prbsRun : Nat → Nat → Nat → Nat × Nat
  | 0, g, acc => (acc, g)
  | n + 1, g, acc =>
    let b := (g.testBit 30).xor (g.testBit 27)
    prbsRun n ((2 * g + flag b) % 2 ^ 31) (2 * acc + flag b)

/-- The 5,140 bits of one codeword. -/
def prbsWord (g : BitVec 31) : Nat × BitVec 31 :=
  let (w, g') := prbsRun 5140 g.toNat 0
  (w, BitVec.ofNat 31 g')

/-! ### Replay requests (R332, R333) -/

/-- LVAL of REPLAY_REQ and REPLAY_START: ATT in [13:11], the codeword number modulo 2,048 below it (R324). -/
def replayVal (att n : Nat) : Nat := att % 8 * 2048 + n % 2048

/-- REPLAY_TMO (R333) -/
def execReplayTmo (port : Fin 1024) (s : State) : Host.Outcome State Fault Refusal :=
  ok s (s.powered fun s => if s.carries port then s.askAgain port else s)

/-- A received REPLAY_REQ (ATT, N), acted on once: codewords from N are sent again, or the link is lost. -/
def State.replayFor (s : State) (p att n : Nat) : State :=
  let x := s.port p
  if x.acted == some (att, n) then s
  else
    let back := (x.txNum + 2048 - n) % 2048
    if back ≤ x.replayBuf.length then
      (s.modPort p fun x =>
        { x with acted := some (att, n), replaying := if back = 0 then none else some back,
                 linkWords := (2, replayVal att n) :: x.linkWords.filter fun w => w.1 != 2 }).count (PORT_REPLAY_SENT p)
    else s.portDown p 6

/-! ### The lanes of a link and their lock (R326) -/

/-- The lanes of the lane map that a link runs on, trains on or narrows to. -/
def State.lanesNow (s : State) (p : Nat) : List Nat := (s.port p).narrowing.getD (s.port p).trainLanes

/-- What the markers of the lane at place `i` said last. -/
def Port.mark (x : Port) (i : Nat) : Mark := Table.get Mark.init x.markers i

/-- The locked lanes that carry what the link trains on. -/
def State.lockedLanes (s : State) (p : Nat) : List Nat :=
  (s.port p).laneLock.filter fun i => (s.lanesNow p).contains ((s.port p).mark i).logical

/-- Whether the receiver has locked: each lane of the link is carried once, and BLOCK shows the lanes deskewed: 20 ns of skew
are less than a block (R326). -/
def State.locked (s : State) (p : Nat) : Bool :=
  let x := s.port p
  let l := s.lockedLanes p
  let near (a b : Nat) : Bool := (a + 4096 - b) % 4096 ≤ 1 || (b + 4096 - a) % 4096 ≤ 1
  (s.lanesNow p).all (fun k => (l.countP fun i => (x.mark i).logical == k) == 1) &&
    l.all fun i => l.all fun j => near (x.mark i).block (x.mark j).block

/-- RX_READY has been received on every lane of the link (R326). -/
def State.peerLocked (s : State) (p : Nat) : Bool := (s.lockedLanes p).all fun i => (s.port p).peerReady.contains i

/-! ### Narrowing (R327, R331) -/

/-- The largest aligned sub-width of a link of `width` lanes that holds no failed lane, the lowest of equals. -/
def subWidth (width below failed : Nat) : Option (List Nat) :=
  ([4, 2, 1].filter fun w => decide (w < below)).findSome? fun w =>
    ((List.range (width / w)).map fun i => (List.range w).map fun j => i * w + j).find? fun l =>
      l.all fun i => !bitOf failed i

/-- A link in UP or DEGRADED with failed lanes narrows, or goes DOWN with `reason`. `tell` lanes go into NARROW words. -/
def State.narrow (s : State) (p reason : Nat) (tell : Bool) : State :=
  match subWidth (s.widthMap p) (s.width p) (s.unionFailed p) with
  | some l =>
    if s.bit (PORT_LINK_CTL p) PORT_LINK_CTL_NARROW_EN && decide (1 < s.width p) &&
        s.fld (PORT_LINK_STAT p) PORT_LINK_STAT_LINK_REV = 3 then
      s.modPort p fun x =>
        { x.seekMarkers with
                 narrowing := some l, txSwitched := false, linkWords := if tell then List.replicate 16 (3, s.failedLanes p) else [] }
    else s.portDown p reason
  | none => s.portDown p reason

/-- The peer's failed lanes were learned during a narrowing: it goes on at the sub-width that both sides now choose (R327,
R331). -/
def State.renarrow (s : State) (p : Nat) : State :=
  match (s.port p).narrowing, subWidth (s.widthMap p) (s.width p) (s.unionFailed p) with
  | none, _ => s
  | some _, none => s.portDown p 9
  | some l, some k => if l = k then s else s.modPort p fun x => { x.seekMarkers with narrowing := some k, txSwitched := false }

/-- NARROW_RESUME (R331): the receiver has locked at the sub-width and the peer's markers name the codeword; codewords go on
from that NEXT_N, and the port is DEGRADED. -/
def execNarrowResume (port : Fin 1024) (nextN : BitVec 11) (s : State) : Host.Outcome State Fault Refusal :=
  ok s (s.powered fun s =>
    let p := port.val
    match (s.port p).narrowing with
    | none => s
    | some l =>
      let x := s.port p
      let back := (x.txNum + 2048 - nextN.toNat) % 2048
      if !s.locked p || x.peerNext != some nextN.toNat then s
      else if x.replayBuf.length < back then s.portDown p 6
      else
        let s := (s.setFld (PORT_LINK_STAT p) PORT_LINK_STAT_WIDTH l.length).modPort p fun x =>
          { x with narrowing := none, peerNext := none, trainLanes := l, linkWords := [], asked := none, badRun := 0, txSwitched := true,
                   replaying := if back = 0 then none else some back }
        (s.setLink p linkDegraded 0).jorouRewrite)

/-- NARROW_FAIL (R331) -/
def execNarrowFail (port : Fin 1024) (s : State) : Host.Outcome State Fault Refusal :=
  ok s (s.powered fun s => if (s.port port).narrowing.isSome then s.portDown port 9 else s)

/-! ### Receiving (R322, R323, R332) -/

/-- Cells complete in the stream are handed on; the first whose HCRC fails starts a replay from the codeword that holds its
first bit (R27). `fin` is the position in the stream after its last bit. -/
def State.handOn : Nat → State → Nat → Nat → State
  | 0, s, _, _ => s
  | k + 1, s, p, fin =>
    let x := s.port p
    let (v, n) := x.rxBits
    if n < 640 then s
    else
      let c := Cell.ofWire (v / 2 ^ (n - 640))
      if hcrcOk c.h then
        State.handOn k (s.modPort p fun x =>
          { x with rxBits := (v % 2 ^ (n - 640), n - 640), handedOn := x.handedOn ++ [c] }) p fin
      else
        let start := fin - n
        ((s.count (PORT_HCRC_ERR p)).modPort p fun x => { x with rxBits := (0, 0) }).askReplay p (start / 5100)
          (start % 5100)

/-- The cell bits of an accepted codeword. -/
def State.acceptBits (s : State) (p bits : Nat) : State :=
  let x := s.port p
  let take := 5100 - x.rxSkip
  let s := s.modPort p fun x =>
    { x with rxBits := (x.rxBits.1 * 2 ^ take + bits % 2 ^ take, x.rxBits.2 + take), rxSkip := 0, rxNum := x.rxNum + 1,
             replayed := x.replayed.filter fun r => decide ((x.rxNum + 2048 - r.2) % 2048 ≤ 1) }
  State.handOn 9 s p (5100 * (x.rxNum + 1))

/-- The credit or link words of a correctable codeword (Table 12-1). -/
def State.takeControl (s : State) (p ctl : Nat) : State :=
  let va := bitsOf ctl 36 4
  let vb := bitsOf ctl 16 4
  let s := s.modVc p va fun c => { c with peerCred := bitsOf ctl 20 16 }
  if vb != va then s.modVc p vb fun c => { c with peerCred := bitsOf ctl 0 16 }
  else
    let lval := bitsOf ctl 0 14
    let att := lval / 2048
    let n := lval % 2048
    match bitsOf ctl 14 2 with
    | 1 => s.replayFor p att n
    | 2 =>
      if (s.port p).asked == some (att, n) then s.modPort p fun x => { x with asked := none, replayed := some (att, n) }
      else s
    | 3 =>
      let s := s.modPort p fun x => { x with peerFailed := x.peerFailed ||| lval % 256 }
      if (s.port p).narrowing.isSome then s.renarrow p else s.narrow p 9 false
    | _ => s

/-- The corrected symbols of a codeword charged to their lanes: the link's lane number `k` is the lane that carries the
`k`-th lane it runs on (R321, R329). -/
def State.chargeLanes (s : State) (p : Nat) (l : List (Nat × Nat)) : State :=
  l.foldl (fun s e =>
    let x := s.port p
    let i := x.carrier (x.trainLanes.getD e.1 e.1)
    (s.count (OCT_LANE_SYM ((p + i) / 8) ((p + i) % 8)) e.2).modPort p fun x =>
      { x with serWindow := Table.set natRank 0 x.serWindow i (Table.get 0 x.serWindow i + e.2) }) s

/-- One codeword of the peer, or under a near-end loop of the port itself (R332, R340). -/
def State.receiveCodeword (s : State) (p : Nat) (cw : RxCodeword) : State :=
  if !(s.carries p || (s.port p).rxSwitched) then s
  else
    let (w, g) := prbsWord (s.port p).rxPrbs
    let s := (s.count (PORT_FEC_CW p)).modPort p fun x => { x with rxPrbs := g }
    let sym := cw.corrected.foldl (fun n e => n + e.2) 0
    if cw.uncorrectable then
      let s := (s.count (PORT_FEC_UNCORR p)).modPort p fun x => { x with badRun := x.badRun + 1 }
      if 8 ≤ (s.port p).badRun then s.portDown p 4
      else if (s.port p).asked.isSome then s.also cw.due fun s => s.askAgain p
      else s.askReplay p (s.port p).rxNum (s.port p).rxSkip
    else
      let s := if 0 < sym then ((s.count (PORT_FEC_CORR p)).count (PORT_FEC_SYM p) sym).chargeLanes p cw.corrected else s
      let s := s.modPort p fun x => { x with badRun := 0 }
      let m := cw.msg.toNat ^^^ w
      let s := s.takeControl p (m / 2 ^ 5100)
      if (s.port p).asked.isSome || s.linkState p == linkDown then s else s.acceptBits p (m % 2 ^ 5100)

/-- A near-end loop feeds the port's own output back; the line is squelched and not heard (R340). -/
def State.nearLoop (s : State) (p : Nat) : Bool := s.loopOf p == 1 || s.loopOf p == 2

/-- The module acts on the PRBS bits of the port's lanes (R341). -/
def State.prbsActs (s : State) (p : Nat) : Bool := s.linkState p == linkDown && (s.loopOf p != 0 || !s.enabled p)

/-- A PRBS bit of the lane at place `i` of port `p`. -/
def State.prbsBit (s : State) (p i : Nat) (f : Fld) : Bool := s.bit (OCT_LANE_CFG ((p + i) / 8) ((p + i) % 8)) f

/-- What the PRBS31 checkers make of a codeword: its bits on the line are not PRBS31, and its parity as received is not known,
so how many differ is open; the checker looks for the sequence anew (R341; log entry 73). -/
def State.prbsOver (s : State) (p : Nat) : State :=
  if !s.prbsActs p then s
  else ((List.range (s.widthMap p)).filter fun i => s.prbsBit p i OCT_LANE_CFG_PRBS_CHK).foldl (fun s i =>
    let (v, s) := s.free
    (s.count (OCT_LANE_PRBS_ERR ((p + i) / 8) ((p + i) % 8)) (v.toNat % 5441)).modPort p fun x =>
      { x with prbsChk := Table.del x.prbsChk i }) s

/-- CODEWORD_RECEIVE (R332, R340, R341): one codeword of the line, on lanes that have power; a far-end loop sends its bits
back on every lane whose PRBS_GEN does not replace them. -/
def execCodewordReceive (port : Fin 1024) (cw : RxCodeword) (s : State) : Host.Outcome State Fault Refusal :=
  ok s (s.powered fun s =>
    let p := port.val
    if s.nearLoop p || !s.lineOn p then s
    else if s.loopOf p = 3 then
      (s.prbsOver p).emit (.retransmit p cw
        ((List.range (s.widthMap p)).filter fun i => !s.prbsBit p i OCT_LANE_CFG_PRBS_GEN))
    else (s.prbsOver p).receiveCodeword p cw)

/-! ### Failures of lanes (R329, R330) -/

/-- The lane's own registers: octet and lane of lane number `l`. -/
def laneStat (l : Nat) : Reg := OCT_LANE_STAT (l / 8) (l % 8)

/-- A lane of a running link fails by a detector: LOS 2, LOL 3, or by its symbols 9. A lane on which the link does not run
fails nothing, and a parallel loop bypasses the lanes (R331, R340). -/
def State.laneFail (s : State) (l reason : Nat) : State :=
  match s.portOfLane l with
  | none => s
  | some (p, i) =>
    let k := (s.port p).carried i
    if !s.carries p || !(s.lanesNow p).contains k || s.loopOf p == 2 then s
    else
      let s := (s.setFld (laneStat l) OCT_LANE_STAT_FAILED 1).setFld (PORT_LINK_STAT p) PORT_LINK_STAT_FAILED
        (s.failedLanes p ||| 2 ^ k)
      let s := s.ledgerAdd 6 0 l 0
      if s.live p then s.narrow p reason true else s.portDown p reason

/-- A lane that finds no marker where one is due finds its markers anew. -/
def State.loseMarkers (s : State) (l : Nat) : State :=
  let s := s.setFld (laneStat l) OCT_LANE_STAT_MARKER_LOCK 0
  match s.portOfLane l with
  | some (p, i) =>
    if s.linkState p == linkTraining || (s.port p).narrowing.isSome then
      s.modPort p fun x => { x with
        markers := x.markers.map fun e => if e.1 == i then (i, { e.2 with count := 0 }) else e,
        laneLock := x.laneLock.filter (· != i) }
    else s
  | none => s

/-- What a lane detector does to the link: the lane looks for its markers anew, or fails. Under a parallel loop, which bypasses
the SerDes, it does nothing (R329, R340; log entry 43). -/
def State.detected (s : State) (l reason : Nat) : State :=
  if (s.portOfLane l).any fun e => s.loopOf e.1 == 2 then s else (s.loseMarkers l).laneFail l reason

/-- The clock of octet `o` is stopped, no lane of it being locked: its crossings are QUIESCED (R416, R420). -/
def State.octetStop (s : State) (o : Nat) : State :=
  let s := s.putPower { s.power with octetLane := Table.del s.power.octetLane o }
  [0x40 + o, 0xC0 + o].foldl (fun s i => s.also (s.fld (CDC_STATE i) CDC_STATE_STATE == 0) fun s =>
    s.setFld (CDC_STATE i) CDC_STATE_STATE 1) s

/-- LOS (R329): of a lane that has power. -/
def execLos (lane : Fin 1024) (s : State) : Host.Outcome State Fault Refusal :=
  ok s (s.powered fun s =>
    let l := lane.val
    s.also (s.laneOn l) fun s =>
      ((s.setFld (laneStat l) OCT_LANE_STAT_LOS 1).setFld (OCT_LANE_FLAGS (l / 8) (l % 8)) OCT_LANE_FLAGS_LOS_SEEN 1).detected l 2)

/-- LOL (R329, R420): of a lane that has power; with the octet's last lock its clock stops. -/
def execLol (lane : Fin 1024) (s : State) : Host.Outcome State Fault Refusal :=
  ok s (s.powered fun s =>
    let l := lane.val
    s.also (s.laneOn l) fun s =>
      let s := (s.setFld (laneStat l) OCT_LANE_STAT_LOL 1).setFld (OCT_LANE_FLAGS (l / 8) (l % 8)) OCT_LANE_FLAGS_LOL_SEEN 1
      (s.also (!s.octetLocked (l / 8)) fun s => s.octetStop (l / 8)).detected l 3)

/-- SIGNAL_DETECT (R329): LOS of a lane that has power clears. -/
def execSignalDetect (lane : Fin 1024) (s : State) : Host.Outcome State Fault Refusal :=
  ok s (s.powered fun s => s.also (s.laneOn lane) fun s => s.setFld (laneStat lane) OCT_LANE_STAT_LOS 0)

/-- LANE_SER_WINDOW (R329): the corrected symbols of 1 ms against LANE_SER_LIMIT. -/
def execLaneSerWindow (lane : Fin 1024) (s : State) : Host.Outcome State Fault Refusal :=
  ok s (s.powered fun s =>
    let l := lane.val
    match s.portOfLane l with
    | none => s
    | some (p, i) =>
      let n := Table.get 0 (s.port p).serWindow i
      let s := s.modPort p fun x => { x with serWindow := Table.set natRank 0 x.serWindow i 0 }
      if s.fld (OCT_CFG (l / 8)) OCT_CFG_LANE_SER_LIMIT < n then s.laneFail l 9 else s)

/-- OCTET_FAULT (R330): every port of the octet DOWN, with a class P event. The table of reasons names none for it. -/
def execOctetFault (octet : Fin 128) (s : State) : Host.Outcome State Fault Refusal :=
  ok s (s.powered fun s =>
    let (v, s) := s.free
    let s := (List.range 8).foldl (fun s j => s.portDown (8 * octet + j) (v.toNat % 16)) s
    (s.raise { cls := 3, src := sourceOf 3 octet, code := evCode 0x001E, hw := true }).killOctets)

/-- OCTET_CLOCK_RECHOOSE (R416, R420): the octet runs on the fastest locked lane, and its crossings leave QUIESCED; with none
they are QUIESCED. -/
def execOctetClockRechoose (octet : Fin 128) (fastest : Option (Fin 8)) (s : State) : Host.Outcome State Fault Refusal :=
  ok s (s.powered fun s =>
    let o := octet.val
    match fastest with
    | some j =>
      let s := s.putPower { s.power with octetLane := Table.put natRank s.power.octetLane o j.val }
      [0x40 + o, 0xC0 + o].foldl (fun s i => s.also (s.fld (CDC_STATE i) CDC_STATE_STATE == 1) fun s =>
        s.setFld (CDC_STATE i) CDC_STATE_STATE 0) s
    | none => s.octetStop o)

/-! ### Bring-up (R320, R325-R328) -/

/-- OCTET_POWER_ON (R320): the lowest octet that holds links and is not powered yet, on a chiplet that is ON
(spec/15_power_clocks_security.md R413). -/
def execOctetPowerOn (s : State) : Host.Outcome State Fault Refusal :=
  ok s (s.powered fun s =>
    match lowest 128 fun o => !bitOf s.power.octetsOn o && !s.power.octetsDead.contains o &&
        s.fld (PWR_DOMAIN (8 + o / 16)) PWR_DOMAIN_STATE == 2 && s.laneMap.any fun r => r.port / 8 == o with
    | none => s
    | some o =>
      let s := s.putPower { s.power with octetsOn := s.power.octetsOn + 2 ^ o }
      (s.laneMap.filter fun r => r.port / 8 == o).foldl (fun s r =>
        (s.modPort r.port fun x => { x with powered := true }).tryTrain r.port) s)

/-- The hello of a port (R334, Table 12-5): four cells. -/
def State.helloCells (s : State) (p : Nat) : List Cell × State :=
  let x := s.port p
  let fw := (Table.get FlashSlot.init s.bootSlots (s.fld SEC_BOOT SEC_BOOT_SLOT)).version.toNat
  let c0 := payFields [(0, 4, s.switchId), (5, 1, s.width p), (6, 2, p), (8, 1, 2), (9, 1, 3), (10, 1, 4), (16, 8, fw),
    (24, 8, x.nonce.toNat), (32, 8, x.peerNonce.toNat)]
  let c1 := payOf s.planFp
  let c2 := payOf s.identityKey
  let (sig, s) := s.signId .hello (payBytes c0 ++ payBytes c1 ++ payBytes c2)
  (([c0, c1, c2, payOf sig].zipIdx).map fun e =>
    ⟨sealHdr (13 * 2 ^ 124 + 2 ^ 112 + e.2 * 2 ^ 110 + 64 * 2 ^ 12), e.1⟩, s)

/-- A hello sent; none with ID_FAIL (spec/15 R429), and none in the safe state, where no cell but a fence idle leaves
(spec/14 R376). -/
def State.sendHello (s : State) (p : Nat) : State :=
  if s.idFail || s.egressBlocked then s
  else
    let (l, s) := s.helloCells p
    l.foldl (fun s c => s.toLink p c) s

/-- HELLO_SEND (R335); a port of role DIAGNOSTIC goes on sending them when it is up (R328). -/
def execHelloSend (port : Fin 1024) (s : State) : Host.Outcome State Fault Refusal :=
  ok s (s.powered fun s => if s.linkState port == linkHello || (s.carries port && s.role port == 3) then s.sendHello port else s)

/-- The expected peer of the port's lane-map record put in force (R319). -/
def State.expectPeer (s : State) (p : Nat) : State :=
  match s.laneRec p with
  | none => s
  | some r =>
    (s.wr (PORT_PEER_EXP0 p) (BitVec.ofNat 64 (flag r.check * 2 ^ 63 + r.peerRole % 4 * 2 ^ 44 + r.peerPort % 1024 * 2 ^ 32 +
      r.peerId % 2 ^ 17))).wr (PORT_PEER_EXP1 p) r.keyDigest

/-- Entry into HELLO: the expected peer, a new nonce; a port of role DIAGNOSTIC passes to UP at once (R328, R334). -/
def State.enterHello (s : State) (p : Nat) : State :=
  let (b, s) := s.draw 8
  let s := (s.expectPeer p).modPort p fun x =>
    { x with nonce := BitVec.ofNat 64 (ofBytes b), peerNonce := 0, hellos := [] }
  let s := (s.setFld (PORT_LINK_STAT p) PORT_LINK_STAT_LINK_REV 0).setLink p linkHello 0
  if s.role p = 3 then s.comeUp p (s.upState p) 0 else s

/-! ### Training blocks (R325-R327, R340, R341) -/

/-- The lane of the lane map that logical lane `k` of a sender is which trains at width `w` and reports `failed` lanes: the
sub-width of R327. -/
def laneName (width w failed k : Nat) : Nat :=
  if w = width then k
  else
    ((((List.range (width / w)).map fun i => (List.range w).map fun j => i * w + j).find? fun l =>
      l.all fun i => !bitOf failed i).getD (List.range w)).getD k k

def syncWord : Nat := 0x5A3C96F00F69C3A5

/-- A block with marker `m`, as sent, found on the lane at place `i` of a link that trains (R325, R326). FAILED and NEXT_N are
the peer's: they take no place in the port's own FAILED (R327, R331). -/
def State.takeMarker (s : State) (p i m : Nat) (inv : Bool) : State :=
  let l := p + i
  let w := bitsOf m 48 8
  let n := ((s.port p).mark i).count + 1
  let s := s.modPort p fun x =>
    { x with peerFailed := bitsOf m 40 8, peerNext := if bitOf m 11 then some (bitsOf m 0 11) else x.peerNext }
  let s := s.renarrow p
  let k : Mark := ⟨n, w, laneName (s.widthMap p) w (s.unionFailed p) (bitsOf m 56 8), bitsOf m 12 12⟩
  let s := ((s.setFld (laneStat l) OCT_LANE_STAT_INVERTED (flag inv)).setFld (laneStat l) OCT_LANE_STAT_LOGICAL
    (bitsOf m 56 8)).setFld (laneStat l) OCT_LANE_STAT_LOL 0
  let s := s.setFld (laneStat l) OCT_LANE_STAT_MARKER_LOCK (flag (decide (3 ≤ n)))
  -- the receiver measures its signal when it has locked; the spec gives no number
  let (v, t) := s.free
  let s := if n = 3 then t.setFld (laneStat l) OCT_LANE_STAT_SNR v.toNat else s
  let lock := decide (3 ≤ n) && w == (s.lanesNow p).length && decide (bitsOf m 56 8 < w)
  let s := s.modPort p fun x =>
    { x with markers := Table.set natRank Mark.init x.markers i k,
             laneLock := if lock then (if x.laneLock.contains i then x.laneLock else i :: x.laneLock)
               else x.laneLock.filter (· != i),
             peerReady := if bitOf m 39 then (if x.peerReady.contains i then x.peerReady else i :: x.peerReady)
               else x.peerReady.filter (· != i) }
  if s.linkState p != linkTraining then s
  else
    let now := s.locked p && bitOf m 38
    let s := s.modPort p fun x => { x with rxSwitched := x.rxSwitched || now }
    if (s.port p).rxSwitched && (s.port p).txSwitched then s.enterHello p else s

/-- `n` bits of PRBS31 from the generator of the lane at place `i`; where it starts is open (R325; log entry 7). -/
def State.laneBits (s : State) (p i n : Nat) : Nat × State :=
  let (g, s) := match Table.look (s.port p).lanePrbs i with
    | some g => (g, s)
    | none => let (w, t) := s.free
              (BitVec.ofNat 31 w.toNat, t)
  let (v, g') := prbsRun n g.toNat 0
  (v, s.modPort p fun x => { x with lanePrbs := Table.put natRank x.lanePrbs i (BitVec.ofNat 31 g') })

/-- Ones among the low `n` bits. -/
def onesIn (n v : Nat) : Nat := (List.range n).countP fun i => bitOf v i

/-- The PRBS31 checker of a lane on 5,440 received bits: it starts from the first 31 bits it sees and counts what differs from
there on (R341; log entry 73). -/
def State.prbsCheck (s : State) (p i v : Nat) : State :=
  let l := p + i
  if !s.prbsBit p i OCT_LANE_CFG_PRBS_CHK then
    s.modPort p fun x => { x with prbsChk := Table.del x.prbsChk i }
  else
    let (n, g) := match Table.look (s.port p).prbsChk i with
      | some g => (5440, g.toNat)
      | none => (5409, v / 2 ^ 5409)
    let (w, g') := prbsRun n g 0
    (s.count (OCT_LANE_PRBS_ERR (l / 8) (l % 8)) (onesIn n ((v % 2 ^ n) ^^^ w))).modPort p fun x =>
      { x with prbsChk := Table.put natRank x.prbsChk i (BitVec.ofNat 31 g') }

/-- A block of 5,440 bits received on the lane at place `i` of the link. -/
def State.receiveBlock (s : State) (p i : Nat) (marker : BitVec 128) (data : BitVec 5312) : State :=
  let raw := marker.toNat
  let inv := bitsOf raw 64 64 == 2 ^ 64 - 1 - syncWord
  let m := if inv then 2 ^ 128 - 1 - raw else raw
  if s.prbsActs p then s.prbsCheck p i (raw * 2 ^ 5312 + data.toNat)
  else if !(s.linkState p == linkTraining || (s.port p).narrowing.isSome) then s
  else if bitsOf m 64 64 != syncWord then s.loseMarkers (p + i)
  else s.takeMarker p i m inv

/-- TRAINING_BLOCK_RECEIVE (R325, R326, R340): 5,440 bits of the line on lane `lane` of the link, a marker first where it is a
training block. A far-end loop sends them back, but on a lane whose PRBS_GEN is set. -/
def execTrainingBlockReceive (port : Fin 1024) (lane : Fin 8) (block : LaneBlock) (s : State) :
    Host.Outcome State Fault Refusal :=
  ok s (s.powered fun s =>
    let p := port.val
    let l := p + lane.val
    if s.nearLoop p || !s.lineOn p || s.widthMap p ≤ lane.val then s
    else
      let s := s.receiveBlock p lane block.marker block.data
      if s.loopOf p = 3 && !s.prbsBit p lane OCT_LANE_CFG_PRBS_GEN then
        s.emit (.block l (block.marker ++ block.data))
      else s)

/-- 5,440 bits sent on the lane at place `i`: on the line, or under a near-end loop into the port's own receiver (R340). -/
def State.sendBlock (s : State) (p i v : Nat) : State :=
  if s.nearLoop p then s.receiveBlock p i (BitVec.ofNat 128 (v / 2 ^ 5312)) (BitVec.ofNat 5312 v)
  else s.emit (.block (p + i) (BitVec.ofNat 5440 v))

/-- The marker of logical lane `k` of `w` lanes (Table 12-2). -/
def State.marker (s : State) (p w k : Nat) (ready switch : Bool) : Nat :=
  let x := s.port p
  syncWord * 2 ^ 64 + k * 2 ^ 56 + w * 2 ^ 48 + s.failedLanes p * 2 ^ 40 + flag ready * 2 ^ 39 + flag switch * 2 ^ 38 +
    x.txBlock % 4096 * 2 ^ 12 + (if x.narrowing.isSome then 2 ^ 11 + x.rxNum % 2048 else 0)

/-- One training block on every lane; SWITCH goes out once the receiver is locked and the peer's is (R325, R326, R331). -/
def State.sendBlocks (s : State) (p : Nat) : State :=
  let down := s.linkState p == linkDown
  let l := if down then List.range (s.widthMap p) else s.lanesNow p
  let ready := !down && s.locked p
  let switch := ready && s.peerLocked p
  let marks := l.zipIdx.map fun e => (e.1, s.marker p l.length e.2 ready switch)
  let s := s.modPort p fun x => { x with txBlock := x.txBlock + 1, txSwitched := x.txSwitched || switch }
  let s := marks.foldl (fun s e =>
    let (d, s) := s.laneBits p e.1 5312
    s.sendBlock p e.1 (e.2 * 2 ^ 5312 + d)) s
  if s.linkState p == linkTraining && (s.port p).rxSwitched && (s.port p).txSwitched then s.enterHello p else s

/-- PRBS31 on every lane whose PRBS_GEN is set (R341). -/
def State.sendPrbs (s : State) (p : Nat) : State :=
  ((List.range (s.widthMap p)).filter fun i => s.prbsBit p i OCT_LANE_CFG_PRBS_GEN).foldl (fun s i =>
    let (d, s) := s.laneBits p i 5440
    s.sendBlock p i d) s

/-! ### The line code (R321) -/

/-- A number of GF(2^10) times x, with the field polynomial x^10 + x^3 + 1 (log entry 73). -/
def gfTimesX (a : Nat) : Nat := if 1024 ≤ 2 * a then (2 * a) ^^^ 0x409 else 2 * a

/-- The product of `a` and the low `n` bits of `b`, added to `acc` times x^n. -/
def gfMulAdd : Nat → Nat → Nat → Nat → Nat
  | 0, _, _, acc => acc
  | n + 1, a, b, acc => gfMulAdd n a b (gfTimesX acc ^^^ (if bitOf b n then a else 0))

def gfMul (a b : Nat) : Nat := gfMulAdd 10 a b 0

/-- The generator polynomial of RS(544,514), highest power first: the product of x - alpha^j for j from 0 to 29
(log entry 73). -/
def rsGen : List Nat :=
  ((List.range 30).foldl (fun (x : List Nat × Nat) _ =>
    (List.zipWith (· ^^^ ·) (x.1 ++ [0]) (0 :: x.1.map (gfMul x.2)), gfTimesX x.2)) ([1], 1)).1

/-- The 30 parity symbols of a message. -/
def rsParity (l : List Nat) : List Nat :=
  l.foldl (fun r m =>
    let f := m ^^^ r.headD 0
    List.zipWith (· ^^^ ·) (r.drop 1 ++ [0]) ((rsGen.drop 1).map (gfMul f))) (List.replicate 30 0)

/-- The 544 symbols of a codeword: symbol m of the message holds bits b10m to b10m+9 (R322). -/
def rsWord (msg : Nat) : List Nat :=
  let l := (List.range 514).map fun m => bitsOf msg (5130 - 10 * m) 10
  l ++ rsParity l

/-- A symbol as PAM4 levels, bit 9 first, a pair of bits to a level in Gray code (log entry 73). -/
def pam4 (v : Nat) : List Nat :=
  [8, 6, 4, 2, 0].map fun i => let b := bitsOf v i 2
    b ^^^ (b / 2)

/-- What each lane sends of a codeword: symbol n goes to logical lane n mod w. -/
def State.sentOn (s : State) (p msg : Nat) : List (Nat × List Nat) :=
  let l := (s.port p).trainLanes
  l.zipIdx.map fun e => (p + e.1, ((rsWord msg).zipIdx.filter fun y => y.2 % l.length == e.2).flatMap fun y => pam4 y.1)

/-! ### Sending (R321-R324) -/

/-- CRED as codewords carry it: zero until the link is up, and on channels above 1 of a QUARANTINED port (R324, R328). -/
def State.credShown (s : State) (p v : Nat) : Nat :=
  if s.live p || (s.linkState p == linkQuarantined && decide (v ≤ 1)) then (s.vc p v).cred % 65536 else 0

/-- The channel of the next credit word among those not in `but`: one that changed, in rotating order; else the one sent
longest ago (R324). -/
def State.nextCredit (s : State) (p : Nat) (but : List Nat) : Nat :=
  let order := (s.port p).credOrder ++ (List.range 16).filter fun v => !(s.port p).credOrder.contains v
  let last := order.getLast?.getD 15
  match nextAfter 16 last fun v => !but.contains v && s.credShown p v != (s.vc p v).credSaid with
  | some v => v
  | none => (order.find? fun v => !but.contains v).getD 0

/-- A credit word noted as sent. -/
def State.saidCredit (s : State) (p v : Nat) : State :=
  let c := s.credShown p v
  s.modPort p fun x =>
    let y := x.setVc v { x.vc v with credSaid := c }
    { y with credOrder := (y.credOrder ++ (List.range 16).filter fun w => !y.credOrder.contains w).filter (· != v) ++ [v] }

/-- The 40-bit control field (Table 12-1), with a pending link word in slot B. -/
def State.control (s : State) (p : Nat) : Nat × State :=
  let a := s.nextCredit p []
  let ca := s.credShown p a
  let s := s.saidCredit p a
  let head := a * 2 ^ 36 + ca * 2 ^ 20
  match (s.port p).linkWords, (s.port p).asked with
  | w :: r, _ => (head + a * 2 ^ 16 + w.1 * 2 ^ 14 + w.2 % 2 ^ 14, s.modPort p fun x => { x with linkWords := r })
  | [], some (att, n) => (head + a * 2 ^ 16 + 2 ^ 14 + replayVal att n, s)
  | [], none =>
    let b := s.nextCredit p [a]
    (head + b * 2 ^ 16 + s.credShown p b, s.saidCredit p b)

/-- Idle cells put into the stream until a codeword's 5,100 bits stand ready (R29, R328). -/
def State.fillStream (s : State) (p : Nat) : State :=
  let x := s.port p
  let need := if x.txBits.2 < 5100 then (5100 - x.txBits.2 + 639) / 640 else 0
  (List.range need).foldl (fun s _ => s.toLink p (idleCell s.egressBlocked)) s

/-- One codeword leaves: its cell bits, a fresh control field, scrambled; under a near-end loop into the port's own receiver
(R340). -/
def State.emitCodeword (s : State) (p num bits : Nat) : State :=
  let (ctl, s) := s.control p
  let (w, g) := prbsWord (s.port p).txPrbs
  let m := BitVec.ofNat 5140 ((ctl * 2 ^ 5100 + bits) ^^^ w)
  let s := s.modPort p fun x => { x with txPrbs := g }
  if s.nearLoop p then s.receiveCodeword p ⟨false, false, [], m⟩
  else s.emit (.codeword p num m (s.sentOn p m.toNat))

/-- The next codeword: one of a replay, else a new one. -/
def State.sendCodeword (s : State) (p : Nat) : State :=
  let x := s.port p
  match x.replaying with
  | some back =>
    let bits := x.replayBuf.getD (x.replayBuf.length - back) 0
    let s := s.modPort p fun x => { x with replaying := if back ≤ 1 then none else some (back - 1) }
    s.emitCodeword p (x.txNum - back) bits
  | none =>
    let s := s.fillStream p
    let x := s.port p
    let rest := x.txBits.2 - 5100
    let bits := x.txBits.1 / 2 ^ rest
    let keep := 77 * s.width p
    let buf := x.replayBuf ++ [bits]
    let s := s.modPort p fun x =>
      { x with txBits := (x.txBits.1 % 2 ^ rest, rest), replayBuf := buf.drop (buf.length - keep), txNum := x.txNum + 1 }
    s.emitCodeword p x.txNum bits

/-- CODEWORD_SEND (R321): the link sends the next codeword, or what it sends in place of codewords (log entry 73): training
blocks in TRAINING, in DOWN with ENABLE = 1 and LOOP = 0, and in a narrowing whose NARROW words are out; PRBS31 on the lanes
that R341 names; else nothing (R325, R328, R331). -/
def execCodewordSend (port : Fin 1024) (s : State) : Host.Outcome State Fault Refusal :=
  ok s (s.powered fun s =>
    let p := port.val
    let x := s.port p
    if s.carries p || x.txSwitched then
      if x.narrowing.isSome && x.linkWords.isEmpty then (if x.txSwitched then s else s.sendBlocks p)
      else if s.crossed (0x40 + p / 8) then s
      else s.sendCodeword p
    else if !s.lineOn p then s
    else if s.prbsActs p then s.sendPrbs p
    else s.sendBlocks p)

/-- TRAIN_TMO (R327): without lock, the port trains again, at the sub-width that both sides choose or at the lane-map width. -/
def execTrainTmo (port : Fin 1024) (s : State) : Host.Outcome State Fault Refusal :=
  ok s (s.powered fun s =>
    let p := port.val
    if s.linkState p != linkTraining || s.locked p then s
    else
      let x := s.port p
      let live := (List.range (s.widthMap p)).filter fun i => decide (3 ≤ (x.mark i).count)
      let names := live.map fun i => (x.mark i).logical
      let own := x.trainLanes.filter fun k => !names.contains k
      let failed := own.foldl (fun a k => a ||| 2 ^ k) (s.failedLanes p)
      let both := failed ||| x.peerFailed
      let bad := x.trainLanes.filter fun k => bitOf both k
      let some_ := !bad.isEmpty && bad.length < x.trainLanes.length
      let sub := if some_ && s.bit (PORT_LINK_CTL p) PORT_LINK_CTL_NARROW_EN && decide (1 < s.width p) then
          subWidth (s.widthMap p) (s.width p) both else none
      match sub with
      | some l =>
        let s := s.setFld (PORT_LINK_STAT p) PORT_LINK_STAT_FAILED failed
        let dead := x.trainLanes.filter fun i => !live.contains i && !own.isEmpty
        let s := dead.foldl (fun s i => s.setFld (laneStat (p + i)) OCT_LANE_STAT_FAILED 1) s
        (s.startTraining p l).jorouRewrite
      | none =>
        let old := s.width p
        let s := s.notice 0 0x001D (sourceOf 2 p) (names.foldl (fun a k => a ||| 2 ^ k) 0)
        let s := (s.clearFailed p).startTraining p (List.range (s.widthMap p))
        if old = s.widthMap p then s else s.jorouRewrite)

/-! ### Hellos (R335-R337) -/

/-- Check 1 of Table 12-6: four link management cells of LM_KIND 1, parts 0 to 3 in order. -/
def helloWhole (l : List Cell) : Bool :=
  l.length == 4 && (l.zipIdx).all fun e => hType e.1.h == 13 && bitsOf e.1.h 112 8 == 1 && bitsOf e.1.h 110 2 == e.2

def helloPay (l : List Cell) (i : Nat) : Payload := (l.getD i ⟨0, 0⟩).pay

/-- HELLO_RECEIVE (R335): recorded, answered at once when its NONCE is new, and queued for its checks. A header that fails
HCRC is counted and replayed, and nothing of the hello is recorded (spec/02_cells_and_routes.md R27). -/
def execHelloReceive (port : Fin 1024) (cells : List Cell) (s : State) : Host.Outcome State Fault Refusal :=
  ok s (s.powered fun s =>
    let p := port.val
    if !s.carries p then s
    else if cells.any fun c => !hcrcOk c.h then (s.count (PORT_HCRC_ERR p)).replayCell p
    else if !helloWhole cells then s.count (PORT_HELLO_BAD p)
    else
      let n := BitVec.ofNat 64 (payNum (helloPay cells 0) 24 8)
      let new := n != (s.port p).peerNonce
      let s := s.modPort p fun x => { x with peerNonce := n, hellos := x.hellos ++ [cells] }
      if new then s.sendHello p else s)

/-- What a hello that passed check 3 leaves: PORT_HELLO_RX, PORT_PEER_SEEN, PEER_ID. -/
def State.recordHello (s : State) (p : Nat) (l : List Cell) : State :=
  let b := (List.range 4).flatMap fun i => payBytes (helloPay l i)
  let s := (List.range 32).foldl (fun s k => s.wr (PORT_HELLO_RX p k) (BitVec.ofNat 64 (ofBytes ((b.drop (8 * k)).take 8)))) s
  let c := helloPay l 0
  let seen := payNum c 10 1 * 2 ^ 56 + payNum c 9 1 % 16 * 2 ^ 52 + payNum c 8 1 % 16 * 2 ^ 48 + payNum c 4 1 % 4 * 2 ^ 44 +
    payNum c 6 2 % 1024 * 2 ^ 32 + payNum c 0 4 % 2 ^ 17
  let key := ofBytes ((sha512 ((payBytes (helloPay l 2)).take 32)).take 8)
  let s := (s.wr (PORT_PEER_SEEN0 p) (BitVec.ofNat 64 seen)).wr (PORT_PEER_SEEN1 p) (BitVec.ofNat 64 key)
  s.setFld (PORT_ROLE p) PORT_ROLE_PEER_ID (payNum c 0 4)

/-- Whether an entry that is not broken uses port `p` (R337). -/
def State.usesPort (s : State) (p : Nat) (c : Circuit) : Bool :=
  c.valid && c.state != 2 &&
    ((!c.inLocal && c.inPort == p) || (c.kind == 0 && c.outPort == p) ||
      (c.kind == 3 && bitOf (s.tree (c.outCirc % 65536)).ports p))

/-- The revisions of the peer taken in force: LINK_REV, REDUCE_OFF with its circuits, FP_DIFF (R337). -/
def State.applyRevs (s : State) (p : Nat) : State :=
  let seen := (s.rd (PORT_PEER_SEEN0 p)).toNat
  let coll := bitsOf seen 56 8
  let peer := bitsOf seen 0 17
  let rev := min 3 (bitsOf (s.rd (PORT_HELLO_RX p 1)).toNat 8 8)
  let off := coll != 4
  let s := s.setFld (PORT_LINK_STAT p) PORT_LINK_STAT_LINK_REV rev
  let s := s.setFld (PORT_LINK_STAT p) PORT_LINK_STAT_REDUCE_OFF (flag off)
  let s := if off then
      (s.notice 0 0x001F (sourceOf 2 p) peer coll).breakEntries p
        (fun c => s.usesPort p c && (c.tc == 2 || c.tc == 3) && (c.inLocal || c.kind == 1)) (s.role p == 1)
    else s
  let fp := (List.range 8).flatMap fun k => toBytes 8 (s.rd (PORT_HELLO_RX p (8 + k))).toNat
  let own := (s.planFp ++ List.replicate 64 0).take 64
  let diff := own.any (· != 0) && fp != own
  let s := s.setFld (PORT_LINK_STAT p) PORT_LINK_STAT_FP_DIFF (flag diff)
  if diff then s.notice 0 0x0020 (sourceOf 2 p) (ofBytes (fp.take 8)) else s

/-- The outcome of checks 4 to 8 of Table 12-6: none, wait; zero, all pass; else a quarantine reason. -/
def State.helloVerdict (s : State) (p : Nat) (l : List Cell) : Option Nat :=
  let c := helloPay l 0
  let e := (s.rd (PORT_PEER_EXP0 p)).toNat
  let digest := s.rd (PORT_PEER_EXP1 p)
  if BitVec.ofNat 64 (payNum c 32 8) != (s.port p).nonce then none
  else if min 3 (payNum c 9 1) < max 2 (payNum c 8 1) then some 6
  else if bitOf e 63 && payNum c 4 1 != bitsOf e 44 2 then some 2
  else if bitOf e 63 && payNum c 0 4 != bitsOf e 0 17 then some 1
  else if bitOf e 63 && payNum c 6 2 != bitsOf e 32 10 then some 3
  else if digest != 0 && digest != s.rd (PORT_PEER_SEEN1 p) then some 4
  else if payNum c 5 1 != s.width p then some 8
  else some 0

/-- HELLO_CHECK_COMPLETE (R336, R337): the checks of the oldest hello. -/
def execHelloCheckComplete (port : Fin 1024) (s : State) : Host.Outcome State Fault Refusal :=
  ok s (s.powered fun s =>
    let p := port.val
    match (s.port p).hellos with
    | [] => s
    | l :: r =>
      let s := s.modPort p fun x => { x with hellos := r }
      let inHello := s.linkState p == linkHello
      let c := helloPay l 0
      let msg := (List.range 3).flatMap fun i => payBytes (helloPay l i)
      let fail (s : State) (why : Nat) : State := if inHello then s.comeUp p linkQuarantined why else s
      if !ed25519Verify ((payBytes (helloPay l 2)).take 32) msg (payBytes (helloPay l 3)) then
        fail (s.count (PORT_HELLO_BAD p)) 5
      else if payNum c 4 1 == 0 && payNum c 0 4 % 4096 == s.switchId &&
          BitVec.ofNat 64 (payNum c 24 8) == (s.port p).nonce then fail s 7
      else
        let s := s.recordHello p l
        match s.helloVerdict p l with
        | none => s
        | some 0 =>
          if inHello then (s.applyRevs p).comeUp p (s.upState p) 0
          else if s.role p == 3 && s.fld (PORT_LINK_STAT p) PORT_LINK_STAT_LINK_REV == 0 then s.applyRevs p
          else s
        | some why => fail s why)

/-- HELLO_TMO (R328) -/
def execHelloTmo (port : Fin 1024) (s : State) : Host.Outcome State Fault Refusal :=
  ok s (s.powered fun s => if s.linkState port == linkHello then s.comeUp port linkQuarantined 9 else s)

/-! ### Adoption (R338) -/

/-- The expected peer of port `p`'s record replaced by a seen one. -/
def LaneRec.expect (p seen : Nat) (key : Word) (r : LaneRec) : LaneRec :=
  if r.port = p then
    { r with peerRole := bitsOf seen 44 2, peerPort := bitsOf seen 32 10, peerId := bitsOf seen 0 17, keyDigest := key }
  else r

/-- ADOPT_WIRING for one port: its status, and the state after it. -/
def State.adopt (s : State) (p : Nat) : Nat × State :=
  let seen := (s.rd (PORT_PEER_SEEN0 p)).toNat
  let q := s.fld (PORT_LINK_STAT p) PORT_LINK_STAT_Q_REASON
  let suits := match s.role p with | 2 => some 0 | 1 => some 1 | 3 => some 2 | _ => none
  if s.linkState p != linkQuarantined then (1, s)
  else if [5, 7, 6, 8, 9].contains q || suits != some (bitsOf seen 44 2) then (2, s)
  else
    let key := s.rd (PORT_PEER_SEEN1 p)
    let s := s.putLaneMap (s.laneMap.map (LaneRec.expect p seen key))
    let s := (s.expectPeer p).applyRevs p
    (0, s.setLink p (s.upState p) 0)

/-! ### PORT_LINK_CTL (R328, R330, R340, R343) -/

/-- Where the module no longer acts on the PRBS bits of a port, its checkers forget the sequence (R341). -/
def State.dropChecks (s : State) (p : Nat) : State :=
  if s.prbsActs p then s else s.modPort p fun x => { x with prbsChk := [] }

/-- ENABLE written. -/
def State.writeEnable (s : State) (p : Nat) (v : Bool) : State :=
  let s := s.setFld (PORT_LINK_CTL p) PORT_LINK_CTL_ENABLE (flag v)
  (if v then s.tryTrain p else s.portDown p 1).dropChecks p

/-- LOOP written with another value: the port goes DOWN first. -/
def State.writeLoop (s : State) (p v : Nat) : State :=
  if s.loopOf p = v then s
  else (((s.portDown p 7).setFld (PORT_LINK_CTL p) PORT_LINK_CTL_LOOP v).tryTrain p).dropChecks p

/-- The timers and NARROW_EN written: only while the port is DOWN, else ignored with an event. -/
def State.writeLinkRest (s : State) (p v : Nat) : State :=
  let old := (s.rd (PORT_LINK_CTL p)).toNat
  let new := putBits (putBits old 16 48 (bitsOf v 16 48)) 4 1 (bitsOf v 4 1)
  if new = old then s
  else if s.linkState p == linkDown then s.wr (PORT_LINK_CTL p) (BitVec.ofNat 64 new)
  else s.notice 0 0x0021 (sourceOf 2 p) v

/-- A write of the whole register. -/
def State.linkCtlWrite (s : State) (p v : Nat) : State :=
  let s := (s.writeLinkRest p v).writeLoop p (bitsOf v 2 2)
  let s := if bitOf v 0 == s.enabled p then s else s.writeEnable p (bitOf v 0)
  if bitOf v 5 then s.portDown p 8 else s

/-- ENABLE (R328) -/
def execEnable (port : Fin 1024) (value : Bool) (s : State) : Host.Outcome State Fault Refusal :=
  ok s (s.powered fun s => s.writeEnable port value)

/-- LOOP (R340) -/
def execLoop (port : Fin 1024) (value : BitVec 2) (s : State) : Host.Outcome State Fault Refusal :=
  ok s (s.powered fun s => s.writeLoop port value.toNat)

/-- RETRAIN (R330) -/
def execRetrain (port : Fin 1024) (s : State) : Host.Outcome State Fault Refusal :=
  ok s (s.powered fun s => s.portDown port 8)

/-- LINK_CTL_IGNORED (R343): a write to the other fields of PORT_LINK_CTL. -/
def execLinkCtlIgnored (port : Fin 1024) (value : Word) (s : State) : Host.Outcome State Fault Refusal :=
  ok s (s.powered fun s => s.writeLinkRest port value.toNat)

end Sys2Proof.Machine
end

