-- ==== Sys2Proof/Machine/Rings.lean ====
section
/-! DEFINITION. Sys2Proof/Machine/Rings.lean: intake rings, the completion of command entries, doorbells and the message
instructions of a tile (spec/13_host_port_and_control.md R354-R357; spec/07_instruction_set.md R195, R196). -/

namespace Sys2Proof

/-- `n` bytes of ARGS from byte `i` of the entry (Table 13-7). -/
def RingCmd.arg (k : RingCmd) (i n : Nat) : Nat := Machine.bitsOf k.args.toNat (8 * (i - 16)) (8 * n)

end Sys2Proof

namespace Sys2Proof.Machine

/-! ### Rings (R354) -/

/-- Ring 0 of context 0 lies in the firmware state area; its place and ORDER are open (log entry 4). -/
def deviceRing : Ring := ⟨0x82700000, 12, false, 0, 0⟩

/-- The ring of a context, if it holds one. -/
def State.ring? (s : State) (c r : Nat) : Option Ring :=
  match Table.look (s.ctx c).rings r with
  | some x => some x
  | none => if c = 0 && r = 0 then some deviceRing else none

def State.setRing (s : State) (c r : Nat) (x : Ring) : State :=
  s.modCtx c fun y => { y with rings := Table.put natRank y.rings r x }

/-- The rings of a context by number. -/
def State.ringNumbers (s : State) (c : Nat) : List Nat := (List.range 64).filter fun r => (s.ring? c r).isSome

/-- Address of entry `k`. -/
def Ring.entry (x : Ring) (k : Nat) : Nat := x.base + 64 + 64 * (k % 2 ^ x.order)

/-- TAIL as the header in memory holds it. -/
def State.ringTail (s : State) (x : Ring) : Nat := s.load x.base 8

/-- A ring stopped by HALT_ON_REJECT; a closing context halts none (R356). -/
def State.ringHalted (s : State) (c r : Nat) : Bool := (s.rd (CTX_RING_HALT c)).getLsbD r && s.ctxState c == 1

/-- Bytes that the module writes where a tile may wait on them. -/
def State.ringPut (s : State) (a : Nat) (l : List Byte) : State := (s.put a l).wake a

/-! ### The order of the rings (R355) -/

/-- A ring's place in the order of a pass: by context, then by ring. -/
def ringRank (c r : Nat) : Nat := 64 * c + r

/-- The rings with an entry to take, in ascending order. -/
def State.ringWork (s : State) : List Nat :=
  (0 :: (s.ctxs.map Prod.fst).filter (· != 0)).flatMap fun c =>
    if s.ctxState c = 0 then []
    else ((s.ringNumbers c).filter fun r =>
      (s.ring? c r).any (fun x => x.head != x.tail) && !s.ringHalted c r).map (ringRank c)

/-- The ring whose entry is taken next: the first with one that the pass has not come to, else the first of the next pass. -/
def State.nextRing (s : State) : Option Nat :=
  match s.ringWork.find? fun k => decide (s.ringPass ≤ k) with
  | some k => some k
  | none => s.ringWork.head?

/-! ### Completion (R355, R356) -/

/-- An entry completes: STATUS, DONE, HEAD, then the count, the event and the halt that its status asks for; the pass goes on
behind the ring. -/
def State.finishEntry (s : State) (c r : Nat) (x : Ring) (op index cookie : Nat) (event : Bool) (st : Nat) : State :=
  let a := x.entry index
  let s := ((s.ringPut (a + 3) (toBytes 1 st)).ringPut (a + 4) (toBytes 1 1)).ringPut (x.base + 8) (toBytes 8 (index + 1))
  let s := (s.setRing c r { x with head := (index + 1) % 2 ^ 64 }).putRingPass (ringRank c r + 1)
  let data := eventData [op, r, index, cookie]
  if st = 0 then if event then s.postPlain 3 (some c) (sourceOf 17 0) 0 data else s
  else
    let s := (s.count (CTX_REJECTS c)).postPlain 2 (some c) (sourceOf 17 0) st data
    if x.halt && s.ctxState c == 1 then s.wr (CTX_RING_HALT c) (s.rd (CTX_RING_HALT c) ||| BitVec.ofNat 64 (2 ^ r)) else s

/-- The opcodes of Table 13-7. -/
def opcodes : List Nat :=
  [0x0001, 0x0002, 0x0010, 0x0011, 0x0020, 0x0021, 0x0022, 0x0023, 0x0030, 0x0031, 0x0040, 0x0041, 0x0042, 0x0050,
   0x0051, 0x0060, 0x0061, 0x0070, 0x0071, 0x0072, 0x0073, 0x0080, 0x0081, 0x0082, 0x0090]

/-- The entries next in turn that need no command: those of a closing context, and unknown opcodes. -/
def State.settleRings : Nat → State → State
  | 0, s => s
  | n + 1, s =>
    match s.nextRing with
    | none => s
    | some k =>
      match s.ring? (k / 64) (k % 64) with
      | none => s
      | some x =>
        let a := x.entry x.head
        let op := s.load a 2
        let closing := s.ctxState (k / 64) == 2
        if closing || !opcodes.contains op then
          State.settleRings n (s.finishEntry (k / 64) (k % 64) x op x.head (s.load (a + 8) 8) (bitOf (s.load (a + 2) 1) 0)
            (if closing then 7 else 2))
        else s

/-- At most 2^12 entries wait on a ring (R354). -/
def State.sweepRings (s : State) : State := State.settleRings (4096 * s.ringWork.length) s

/-- TAIL of a ring read (R355). -/
def State.readTail (s : State) (c r : Nat) : State :=
  match s.ring? c r with
  | none => s
  | some x => s.setRing c r { x with tail := s.ringTail x }

/-- Whether the entry at the ring's HEAD in memory is the command with opcode `op` (Table 13-6). -/
def State.entryIs (s : State) (x : Ring) (k : RingCmd) (op : Nat) : Bool :=
  let a := x.entry x.head
  x.head == k.index.toNat && s.load a 2 == op && bitOf (s.load (a + 2) 1) 0 == k.event &&
    s.load (a + 8) 8 == k.cookie.toNat && s.load (a + 16) 48 == k.args.toNat

/-- The module takes the entry of a ring command: its status, then its completion. A status other than OK leaves no side
effect. The entry must be the one at the head of the ring whose turn it is. -/
def State.command (s : State) (k : RingCmd) (op : Nat) (device : Bool) (body : State → Nat × State) : State :=
  let c := k.ctx.toNat
  let r := k.ring.val
  match s.ring? c r with
  | none => s
  | some x =>
    if s.nextRing != some (ringRank c r) || !s.entryIs x k op then s
    else
      let (st, t) :=
        if s.ctxState c = 2 then (7, s)
        else if device && c != 0 then (4, s)
        else if !device && c == 0 && op != 0x0002 then (2, s)
        else body s
      let t := if st = 0 then t else s
      (t.finishEntry c r x op x.head k.cookie.toNat k.event st).sweepRings

/-! ### Images (R357) -/

/-- The aligned doublewords that `n` bytes from `a` touch. -/
def doublewords (a n : Nat) : List Nat := (List.range ((a % 8 + n + 7) / 8)).map fun i => a / 8 * 8 + 8 * i

/-- `n` bytes of the diagnostic window: slot k lies at 80 × k. What a slot without a link cell holds is open
(spec/03_reservoir.md R88; log entry 7). R66 does not say whether a slot's header is shown as received or as it will be sent:
here it is shown as stored on arrival (DESIGN CHOICE, log entry 76). -/
def State.windowRead (s : State) (a n : Nat) : List Byte × State :=
  let r := (doublewords a n).foldl (fun (x : List Byte × State) w =>
    let off := w - windowBase
    match x.2.slotItem (off / 80) with
    | some (.cell c) => (x.1 ++ (c.image.drop (off % 80)).take 8, x.2)
    | _ => let (f, t) := x.2.free
           (x.1 ++ toBytes 8 f.toNat, t)) ([], s)
  ((r.1.drop (a % 8)).take n, r.2)

/-- `n` bytes of a data region as the module reads them. What an uncorrectable image holds is open (log entry 7). -/
def State.dataRead (s : State) (a n : Nat) : List Byte × State :=
  if windowBase ≤ a && a < windowBase + 2 ^ 28 then s.windowRead a n
  else if s.poisoned a n then
    let r := (List.range n).foldl (fun (x : List Byte × State) i =>
      let (f, t) := x.2.free
      (x.1 ++ [if s.poisoned (a + i) 1 then f.setWidth 8 else Memory.read s.mem (a + i)], t)) ([], s.ueRead a)
    (r.1, r.2)
  else ((List.range n).map fun i => (s.ringByte (a + i)).getD (Memory.read s.mem (a + i)), s)

/-! ### Bells (R196, R355) -/

/-- A doorbell: TAIL is read; a ring that the context does not hold yields a class C event. -/
def State.bell (s : State) (c r src who : Nat) : State :=
  if (s.ring? c r).isSome && s.ctxState c != 0 then (s.readTail c r).sweepRings
  else s.raise { cls := 1, src := src, code := evCode 0x000D r, ctx := some c, detail := who }

/-- RING_POLL (R355): the TAIL of every ring is read. -/
def execRingPoll (s : State) : Host.Outcome State Fault Refusal :=
  ok s (s.powered fun s =>
    let all := 0 :: (s.ctxs.map Prod.fst).filter (· != 0)
    (all.foldl (fun s c => (s.ringNumbers c).foldl (fun s r => s.readTail c r) s) s).sweepRings)

/-- Bits of CTX_RING_HALT cleared; the rings resume (R356). -/
def State.haltClear (s : State) (c : Nat) (v : Word) : State :=
  (s.wr (CTX_RING_HALT c) (s.rd (CTX_RING_HALT c) &&& ~~~v)).sweepRings

/-- CTX_RING_HALT_CLEAR (R356) -/
def execCtxRingHaltClear (ctx : BitVec 12) (value : Word) (s : State) : Host.Outcome State Fault Refusal :=
  ok s (s.powered fun s => s.haltClear ctx.toNat value)

/-! ### Class 0xA (Table 7-16) -/

/-- Cell `i` of a tile message (Table 7-17). -/
def messagePay (sw t h len i : Nat) (data : List Byte) : Payload :=
  payOf (toBytes 2 sw ++ toBytes 1 t ++ toBytes 1 h ++ toBytes 2 len ++ toBytes 2 0 ++ (data.drop (56 * i)).take 56)

/-- MSG_SEND (R195): cells of the tile's input. Cells that R38 discards count off CC at once. -/
def execIMsgSend (t : Fin 256) (h : Fin 16) (w : BitVec 56) (s : State) : Host.Outcome State Fault Refusal :=
  let n := w.toNat
  ok s (s.issue t h 1 (onlyUses n (useA ||| useB ||| useC ||| useCC)) [fA n, fB n, fC n] [] fun s y =>
    let a := (y.getS (fA n)).toNat
    let b := (y.getS (fB n)).toNat
    let len := (y.getS (fC n)).toNat
    let tc := bitsOf b 29 3
    match firstFault [(decide (2 ^ 32 ≤ b) || !([4, 6, 7].contains tc) || len == 0 || decide (3584 < len), 0x07),
        (!ownRange t a len, 0x04)] with
    | some c => .fault c
    | none =>
      let k := (len + 55) / 56
      let cc := fCC n
      let c := (s.tile t).ctx
      let ep := bitsOf b 0 17
      if s.poisoned a len then .next ((s.ueRead a).lateFault t h .data y.pc.toNat)
      else
        let data := s.bytes a len
        let routed := bitOf (s.returnEntry ep) 63
        let s := s.modTile t fun x => x.ccAdd cc k
        .next ((List.range k).foldl (fun s i =>
          let s := s.originate ep 1 tc c (s.genOf c) (bitsOf b 17 12) i (8 + min 56 (len - 56 * i))
            (messagePay s.switchId t h len i data) (tileOutput t)
          s.modTile t fun x => if routed then { x with msgCc := x.msgCc ++ [(2 * tc, cc)] } else x.ccSub cc 1) s))

/-- MSG_BELL (Table 7-16, R196): a doorbell on a ring of the thread's context. -/
def execIMsgBell (t : Fin 256) (h : Fin 16) (w : BitVec 56) (s : State) : Host.Outcome State Fault Refusal :=
  let n := w.toNat
  ok s (s.issue t h 1 (onlyUses n (useA ||| useIMM22)) [fA n] [] fun s y =>
    .next (s.bell (s.tile t).ctx ((y.getS (fA n)).toNat + fIMM22 n &&& 63) (sourceOf 1 t) h))

/-- MSG_EVENT (Table 7-16, R196): a class N event that carries sA. -/
def execIMsgEvent (t : Fin 256) (h : Fin 16) (w : BitVec 56) (s : State) : Host.Outcome State Fault Refusal :=
  let n := w.toNat
  ok s (s.issue t h 1 (onlyUses n useA) [fA n] [] fun s y =>
    .next (s.notice 0 0x000C (sourceOf 1 t) (y.getS (fA n)).toNat h (some (s.tile t).ctx)))

/-! ### Adoption of wiring (R338) -/

/-- Every port: each QUARANTINED port that can be adopted is. ILLEGAL_STATE with none QUARANTINED, OK when one was
adopted, else the first refusal (log entry 38). -/
def State.adoptAll (s : State) : Nat × State :=
  let ps := (s.laneMap.map LaneRec.port).filter fun p => s.linkState p == linkQuarantined
  let r := ps.foldl (fun (a : List Nat × State) p =>
    let (st, t) := a.2.adopt p
    (a.1 ++ [st], if st = 0 then t else a.2)) ([], s)
  if ps.isEmpty then (1, s) else if r.1.contains 0 then (0, r.2) else (r.1.headD 1, s)

/-- ADOPT_WIRING (R338) -/
def execAdoptWiring (k : RingCmd) (s : State) : Host.Outcome State Fault Refusal :=
  ok s (s.powered fun s => s.command k 0x0090 true fun s =>
    let p := k.arg 16 2
    if p = 0xFFFF then s.adoptAll else if 1024 ≤ p then (2, s) else s.adopt p)

/-! ### Pools (R315) -/

/-- POOL_CREATE (spec/11_memory_and_pools.md R315) -/
def execPoolCreate (k : RingCmd) (s : State) : Host.Outcome State Fault Refusal :=
  ok s (s.powered fun s => s.command k 0x0050 false fun s =>
    s.poolCreate k.ctx.toNat
      { pool := k.arg 16 1, size := k.arg 17 1, loc := k.arg 18 1, count := k.arg 20 4, base := k.arg 24 8,
        metaBase := k.arg 32 8, min1 := k.arg 40 2, max1 := k.arg 42 2 })

/-- POOL_DESTROY (spec/11_memory_and_pools.md R315) -/
def execPoolDestroy (k : RingCmd) (s : State) : Host.Outcome State Fault Refusal :=
  ok s (s.powered fun s => s.command k 0x0051 false fun s =>
    s.poolDestroy k.ctx.toNat (k.arg 16 1) (bitOf (k.arg 17 1) 0))

/-! ### The step counter (R358) -/

/-- STEP_SET: no group of the context ACTIVE. -/
def execStepSet (k : RingCmd) (s : State) : Host.Outcome State Fault Refusal :=
  ok s (s.powered fun s => s.command k 0x0030 false fun s =>
    let c := k.ctx.toNat
    if s.groupsBound.any fun g => s.gCtx g == c && s.gState g == 2 then (1, s)
    else (0, s.setFld (CTX_STATE c) CTX_STATE_STEP (k.arg 16 4)))

/-- STEP_ADVANCE: the counter wraps at 2^32. -/
def execStepAdvance (k : RingCmd) (s : State) : Host.Outcome State Fault Refusal :=
  ok s (s.powered fun s => s.command k 0x0031 false fun s =>
    let c := k.ctx.toNat
    if k.arg 16 2 = 0 then (2, s)
    else (0, s.setFld (CTX_STATE c) CTX_STATE_STEP (s.fld (CTX_STATE c) CTX_STATE_STEP + k.arg 16 2)))

/-! ### Circuits and trees (spec/02_cells_and_routes.md R40, R44) -/

/-- CIRC_SETUP (R40): the image must name the ring's context; the entry becomes VALID. -/
def execCircSetup (k : RingCmd) (s : State) : Host.Outcome State Fault Refusal :=
  ok s (s.powered fun s => s.command k 0x0040 false fun s =>
    let l := k.arg 16 4
    if 0xFFFFF ≤ l then (2, s)
    else
      let cur := s.circuit l
      let e := k.arg 32 16
      if cur.valid then (if cur.ctx = k.ctx.toNat then 1 else 4, s)
      else if (Circuit.ofNat e).ctx != k.ctx.toNat then (4, s)
      else (0, s.put (circAddr s l) (toBytes 16 (putBits e 127 1 1))))

/-- CIRC_TEAR (R40): VALID is cleared; BUSY while the entry's group is ACTIVE. -/
def execCircTear (k : RingCmd) (s : State) : Host.Outcome State Fault Refusal :=
  ok s (s.powered fun s => s.command k 0x0041 false fun s =>
    let l := k.arg 16 4
    if 0xFFFFF ≤ l then (2, s)
    else
      let cur := s.circuit l
      if !cur.valid then (1, s)
      else if cur.ctx != k.ctx.toNat then (4, s)
      else if (s.findGroup cur.ctx cur.group).any fun g => s.gState g == 2 then (6, s)
      else (0, s.setMemFld (circAddr s l) 16 127 1 0))

/-- TREE_SET (R44): the whole entry at once; an image with VALID = 0 clears it. -/
def execTreeSet (k : RingCmd) (s : State) : Host.Outcome State Fault Refusal :=
  ok s (s.powered fun s => s.command k 0x0042 false fun s =>
    let n := k.arg 16 2
    let a := k.arg 24 8
    let cur := s.tree n
    if cur.valid && cur.ctx != k.ctx.toNat then (4, s)
    else if !s.mayRead k.ctx.toNat a 256 then (4, s)
    else
      let (l, s) := s.dataRead a 256
      let e := ofBytes l
      let new := Tree.ofNat e
      if !new.valid then (0, s.put (treeAddr s n) (List.replicate 256 0))
      else if new.ctx != k.ctx.toNat then (4, s)
      else (0, s.put (treeAddr s n) (toBytes 256 e)))

/-! ### Gates, mirrors, tags -/

/-- A gate list of 64 entries taken from its image into the inactive bank of port `p`. -/
def State.gateTake (s : State) (p : Nat) (l : List Byte) : State :=
  (List.range 64).foldl (fun u i =>
    u.wr (PORT_GATE_ENTRY p (1 - s.gateBank p) i) (BitVec.ofNat 64 (ofBytes ((l.drop (8 * i)).take 4)))) s

/-- GATE_LOAD (spec/04_sluice_scheduling.md R101): the inactive bank, then ARM. On an armed port the statuses have no order of
their own in R101: BAD_ARG and DENIED are answered before ILLEGAL_STATE (DESIGN CHOICE, log entry 76). -/
def execGateLoad (k : RingCmd) (s : State) : Host.Outcome State Fault Refusal :=
  ok s (s.powered fun s => s.command k 0x0070 true fun s =>
    let p := k.arg 16 2
    let mode := k.arg 18 1
    let a := k.arg 32 8
    if 1024 ≤ p || 1 < mode || 4096 ≤ k.arg 19 2 then (2, s)
    else if !s.mayRead 0 a 512 then (4, s)
    else if s.bit (PORT_GATE_CTL p) PORT_GATE_CTL_ARM then (1, s)
    else
      let b := 1 - s.gateBank p
      let (l, s) := s.dataRead a 512
      let t := s.gateTake p l
      if !gateListOk (t.gateList p b) then (2, s)
      else
        let t := t.wr (PORT_GATE_SWITCH_AT p) (BitVec.ofNat 64 (k.arg 24 8))
        let t := (t.setFld (PORT_GATE_CTL p) PORT_GATE_CTL_SW_MODE mode).setFld (PORT_GATE_CTL p) PORT_GATE_CTL_SW_CTX
          (k.arg 19 2)
        (0, t.gateArm p))

/-- The fields of Table 3-3 in table order from bit 0; the layout of COLLECTOR is open (log entry 27). -/
def Mirror.load (m : Mirror) (e : Nat) : Mirror :=
  { m with
    enable := bitOf e 0, flow := bitOf e 1, point := bitsOf e 2 2, srcPort := bitsOf e 4 10, matchCtx := bitsOf e 14 12,
    maskCtx := bitsOf e 26 12, matchSrc := bitsOf e 38 17, maskSrc := bitsOf e 55 17, matchTc := bitsOf e 72 8,
    matchType := bitsOf e 80 16, dest := bitsOf e 96 11,
    collector := ⟨Config.collectorMac (bitsOf e 107 405), Config.collectorV6 (bitsOf e 107 405),
      Config.collectorIp (bitsOf e 107 405), Config.collectorUdp (bitsOf e 107 405)⟩ }

/-- MIRROR_SET (spec/03_reservoir.md R82, R86). -/
def execMirrorSet (k : RingCmd) (s : State) : Host.Outcome State Fault Refusal :=
  ok s (s.powered fun s => s.command k 0x0072 true fun s =>
    let n := k.arg 16 1
    let a := k.arg 24 8
    if 16 ≤ n then (2, s)
    else if !s.mayRead 0 a 64 then (4, s)
    else
      let (l, s) := s.dataRead a 64
      let m := (s.mirror n).load (ofBytes l)
      if 1024 < m.dest || (decide (m.dest < 1024) && s.role m.dest != 3) then (2, s)
      else (0, s.setMirror n m))

/-- TAG_WATCH (spec/08_weir_reduction.md R226). -/
def execTagWatch (k : RingCmd) (s : State) : Host.Outcome State Fault Refusal :=
  ok s (s.powered fun s => s.command k 0x0073 false fun s =>
    let n := k.arg 16 2
    let bind := bitOf (k.arg 18 1) 0
    if 4096 ≤ n then (2, s)
    else
      let a := tagAddr s n
      let e := s.entry a 64
      let bound := bitOf e (8 * 52)
      if bound && bitsOf e 0 12 != k.ctx.toNat then (4, s)
      else if bound == bind then (1, s)
      else (0, s.put a (toBytes 2 k.ctx.toNat ++ toBytes 2 (k.arg 20 2 % 4096) ++ toBytes 4 (k.arg 24 4) ++
        toBytes 4 (k.arg 28 4) ++ toBytes 4 (k.arg 32 4) ++ List.replicate 36 0 ++ toBytes 4 (flag bind) ++
        List.replicate 8 0)))

/-! ### Thread sets (spec/06_flume_tile.md R137, R169; spec/13 R359) -/

/-- A thread set's key: the context and the set number. -/
def setKey (c n : Nat) : Nat := 256 * c + n

/-- A launched thread: PC, s1 and s2 given, every other register zero; one that THREAD_HALT names starts HALTED. -/
def Thread.launch (y : Thread) (h pc : Nat) (s1 : Word) (halted : Bool) (key : Nat) : Thread :=
  { Thread.init with
    st := if halted then .halted else .run, pc := BitVec.ofNat 64 pc, issued := y.issued, set := key,
    s := [(1, s1), (2, BitVec.ofNat 64 h)].filter fun e => e.2 != 0 }

/-- The named threads of one tile launched; a tile whose threads were all IDLE takes the context. -/
def State.launchTile (s : State) (t c mask off : Nat) (s1 : Word) (key : Nat) : State :=
  let halt := s.fld (TILE_CTL t) TILE_CTL_THREAD_HALT
  s.modTile t fun x =>
    let idle := (List.range 16).all fun h => (x.thread h).st == .idle
    let x := { x with ctx := c, barrier := if idle then none else x.barrier }
    (List.range 16).foldl (fun x h =>
      if bitOf mask h then
        x.setThread h ((x.thread h).launch h (t * tileBytes + off) s1 (bitOf halt h) key)
      else x) x

/-- THREADS_LAUNCH (R359): all named threads enter RUN in one core cycle. -/
def execThreadsLaunch (k : RingCmd) (s : State) : Host.Outcome State Fault Refusal :=
  ok s (s.powered fun s => s.command k 0x0060 false fun s =>
    let c := k.ctx.toNat
    let key := setKey c (k.arg 16 1)
    let first := k.arg 18 2
    let n := k.arg 20 2
    let mask := k.arg 22 2
    let tiles := (List.range n).map (first + ·)
    if n = 0 || mask = 0 || 256 < first + n || !tiles.all s.bound then (2, s)
    else if Table.has s.sets key then (1, s)
    else if tiles.any fun t => (List.range 16).any fun h =>
        (s.thread t h).st != .idle && (bitOf mask h || (s.tile t).ctx != c) then (6, s)
    else
      let s := s.putSets (Table.put natRank s.sets key ⟨c, first, n, BitVec.ofNat 16 mask⟩)
      let s := tiles.foldl (fun s t => s.launchTile t c mask (k.arg 24 8) (BitVec.ofNat 64 (k.arg 32 8)) key) s
      (0, tiles.foldl (fun s t => (List.range 16).foldl (fun s h => if bitOf mask h then s.fetch t h else s) s) s))

/-- The threads of a set killed (R169). -/
def State.killSet (s : State) (key : Nat) (q : TSet) : State :=
  ((List.range q.count).foldl (fun s i => (List.range 16).foldl (fun s h =>
    if q.mask.getLsbD h && (s.thread (q.first + i) h).set == key then s.killThread (q.first + i) h else s) s) s).endSets

/-- THREADS_KILL (R169) -/
def execThreadsKill (k : RingCmd) (s : State) : Host.Outcome State Fault Refusal :=
  ok s (s.powered fun s => s.command k 0x0061 false fun s =>
    let key := setKey k.ctx.toNat (k.arg 16 1)
    match Table.look s.sets key with
    | none => (1, s)
    | some q => (0, s.killSet key q))

/-! ### Expert home tables (spec/10_expert_and_headwater.md R269) -/

/-- A field of an EHT header image: byte, bytes. -/
def ehtImg (e b n : Nat) : Nat := bitsOf e (8 * b) (8 * n)

/-- The BAD_ARG cases of EHT_LOAD (R269); fields outside the ranges of Table 10-3 are out-of-range arguments. -/
def State.ehtBad (s : State) (h e : Nat) : Bool :=
  let base := ehtImg e 4 2
  let count := ehtImg e 6 4
  let nct := ehtImg e 10 1
  let cells := ehtImg e 11 1
  let use := ehtImg e 12 1
  let cslot := ehtImg e 32 4
  let cents := ehtImg e 28 2
  let at_ := ehtImg e 36 4
  count == 0 || decide (65536 < base + count) ||
    ((List.range 16).any fun o => o != h && s.ehtValid o && decide (base < s.ehtNum o 4 2 + s.ehtNum o 6 4) &&
      decide (s.ehtNum o 4 2 < base + count)) ||
    nct == 0 || decide (32 < nct) || cells == 0 || decide (128 < cells) || use == 0 || decide (8 < use) ||
    cents == 0 || decide (2048 < cents) || ehtImg e 72 32 == 0 || decide (cslot < 64 + 64 * use * (cells + 1)) ||
    (List.range nct).any fun i =>
      let t := ehtImg e (40 + i) 1
      !s.bound t || decide (tileBytes < at_ + cents * cslot) || s.inWeir t at_ (cents * cslot)

/-- The source owners that a table needs and the pool does not hold yet. -/
def State.ehtOwners (s : State) (c h e : Nat) : List Nat :=
  let p := ehtImg e 13 1
  (bitsSet 256 (ehtImg e 72 32)).filter fun r =>
    !s.owners.any fun o => o.2.kind == 3 && o.2.pool == p && o.2.key == ownerKey c (256 * h + r)

/-- NO_RESOURCE of EHT_LOAD: POOL lies in canal memory and reserves one buffer for each source. -/
def State.ehtNoPool (s : State) (e : Nat) (new : List Nat) : Bool :=
  let p := ehtImg e 13 1
  let x := s.pool p
  decide (p < 4) || x.state != 1 || x.loc != 0 || decide (x.bytes < 64 * (ehtImg e 11 1 + 1)) ||
    decide (x.count < s.poolMinima p + new.length) || decide (4096 < s.owners.length + new.length)

/-- EHT_LOAD (R269) -/
def execEhtLoad (k : RingCmd) (s : State) : Host.Outcome State Fault Refusal :=
  ok s (s.powered fun s => s.command k 0x0071 false fun s =>
    let c := k.ctx.toNat
    let h := k.arg 16 1
    let ha := k.arg 24 8
    let ea := k.arg 32 8
    if 16 ≤ h then (2, s)
    else if s.ehtValid h && s.ehtCtx h != c then (4, s)
    else if !s.mayRead c ha 256 then (4, s)
    else
      let (l, s) := s.dataRead ha 256
      let e := ofBytes l
      let n := ehtImg e 6 4
      let p := ehtImg e 13 1
      if s.ehtValid h && s.ehtPending h then (1, s)
      else if ehtImg e 0 2 % 4096 != c then (4, s)
      else if s.ehtBad h e then (2, s)
      else if 4 ≤ p && (s.pool p).state != 0 && (s.pool p).ctx != c then (4, s)
      else if !s.mayRead c ea (8 * n) then (4, s)
      else
        let new := s.ehtOwners c h e
        if s.ehtNoPool e new then (3, s)
        else
          let first := !s.ehtValid h
          let bank := s.ehtBank h
          let cur := s.ehtCur h
          let s := new.foldl (fun s r =>
            match s.freeOwner with
            | some o => s.setOwner o ⟨p, 3, ownerKey c (256 * h + r), 0, 1, 0⟩
            | none => s) s
          let flags := ehtImg e 3 1
          let b := if first then 1 - bank else bank
          let flags := putBits (putBits flags 1 1 b) 2 1 (flag !first)
          let img := putBits (putBits e 24 8 flags) (8 * 24) 32 (if first then ehtImg e 20 4 else cur)
          let (entries, s) := s.dataRead ea (8 * n)
          let s := s.put (ehtAddr s h) (toBytes 256 img)
          let s := s.put (entAddr s h (1 - bank) 0) entries
          (0, if first then s.setEht h Eht.init else s))

end Sys2Proof.Machine
end

