-- ==== Sys2Proof/Machine/Contexts.lean ====
section
/-! DEFINITION. Sys2Proof/Machine/Contexts.lean: opening, closing and teardown of contexts (spec/13_host_port_and_control.md
R354, R358; spec/14_faults_and_recovery.md R396-R398). -/

namespace Sys2Proof.Machine

/-! ### Opening (R354) -/

/-- The ring of a descriptor of 16 bytes, if it is within R354; it starts empty at the HEAD that its header holds
(log entry 4). -/
def State.ringDesc (s : State) (l : List Byte) : Option Ring :=
  let base := ofBytes (l.take 8)
  let order := ofBytes ((l.drop 8).take 1)
  if base % 64 = 0 && 4 ≤ order && order ≤ 12 && s.dataRange base (64 + 64 * 2 ^ order) then
    some ⟨base, order, bitOf (ofBytes ((l.drop 9).take 1)) 0, s.load (base + 8) 8, s.load (base + 8) 8⟩
  else none

/-- GEN_QUIET in core cycles; limits treat 0 as 1. -/
def State.genQuiet (s : State) : Nat := max 1 (s.fld SPW_LIMITS SPW_LIMITS_GEN_QUIET) * 1700000

/-- CTX_OPEN (R354, R397) -/
def execCtxOpen (k : RingCmd) (s : State) : Host.Outcome State Fault Refusal :=
  ok s (s.powered fun s => s.command k 0x0001 true fun s =>
    let c := k.arg 16 2
    let n := k.arg 32 1
    let a := k.arg 24 8
    if c = 0 || 4096 ≤ c || n = 0 || 64 < n then (2, s)
    else if s.ctxState c != 0 then (1, s)
    else if (s.ctx c).closedAt.any fun t => decide (s.cycle < t + s.genQuiet) then (6, s)
    else if !s.mayRead 0 a (16 * n) then (4, s)
    else
      let (b, s) := s.dataRead a (16 * n)
      let l := (List.range n).map fun i => (i, s.ringDesc ((b.drop (16 * i)).take 16))
      if l.any fun e => e.2.isNone then (2, s)
      else
        let r := CTX_STATE c
        let s := ((s.setFld r CTX_STATE_STATE 1).setFld r CTX_STATE_KEY_MASK (k.arg 18 2)).setFld r CTX_STATE_STEP 0
        let s := s.wr (CTX_RING_HALT c) 0
        (0, s.setCtx c { Ctx.init with
          seed := BitVec.ofNat 64 (k.arg 40 8), rings := l.filterMap fun e => e.2.map fun x => (e.1, x) }))

/-! ### Closing: steps 1 to 3 of R396 -/

/-- Tiles that hold threads of a context. -/
def State.tilesOf (s : State) (c : Nat) : List Nat :=
  (s.tiles.filter fun e => e.2.ctx == c && (List.range 16).any fun h => (e.2.thread h).st != .idle).map Prod.fst

/-- Waiting allocations of the context answered with ERR_CLOSED (spec/11_memory_and_pools.md R315). -/
def State.closeWaiters (s : State) (c : Nat) : State :=
  let mine (w : Waiter) : Bool := (match w.who with | .agent d _ => d == c | _ => false) ||
    ((s.owner w.owner).bind Owner.ctx) == some c
  (s.waiters.filter mine).foldl (fun s w =>
    match w.asker with
    | .thread r => s.inject mgmtOutput internalVc (.rsp ⟨r.tile, r.thread, r.tag, .closed, 0⟩)
    | .command => s.emit (.handle w.pool w.owner none)
    | _ => s) (s.putWaiters (s.waiters.filter fun w => !mine w))

/-- Step switch-overs armed on the context cancelled, each with a class N event (spec/04_sluice_scheduling.md R103). -/
def State.closeGates (s : State) (c : Nat) : State :=
  ((s.regs.map fun e => e.1).filter fun r => r.blk == 2 && r == PORT_GATE_CTL r.inst).foldl (fun s r =>
    if s.bit r PORT_GATE_CTL_ARM && s.fld r PORT_GATE_CTL_SW_MODE == 1 && s.fld r PORT_GATE_CTL_SW_CTX == c then
      (s.setFld r PORT_GATE_CTL_ARM 0).notice 0 0x0008 (sourceOf 2 r.inst) c
    else s) s

/-- The tile without posts and combine entries of a context. -/
def Tile.shut (c : Nat) (e : Nat × Tile) : Nat × Tile :=
  let gone := (e.2.combs.filter fun x => x.2.ctx == c).map Prod.fst
  (e.1, { e.2 with posts := e.2.posts.filter fun p => p.ctx != c, combs := e.2.combs.filter fun x => x.2.ctx != c,
                   combTx := e.2.combTx.map fun k => k.filter fun n => !gone.contains n })

/-- The dispatcher's tokens of the context discarded, their buffers freed (R396). -/
def State.closeTokens (s : State) (c : Nat) : State :=
  (List.range 16).foldl (fun s h =>
    if s.ehtValid h && s.ehtCtx h == c then
      let e := s.eht h
      let s := (e.tokens ++ e.held ++ e.nextHeld ++ e.decided.map Decided.tok).foldl (fun s t => s.freeToken h t) s
      s.setEht h Eht.init
    else s) s

/-- A cell of the context that is injected no more: a result, a RESULT cell or a token, a read response, a control cell of
its groups (R396 steps 2 and 3). -/
def Item.shut (c : Nat) : Item → Bool
  | .cell k => hCtx k.h == c && [2, 5, 8, 9, 10, 14].contains (hType k.h)
  | .toTile _ k => hCtx k.h == c
  | _ => false

/-- Whether the item is a cell of a RESULT that a combine stage sends. -/
def Item.result : Item → Bool
  | .cell k => hType k.h == 14
  | _ => false

/-- The waiting cells that `gone` selects, and the marks of the combine stages for them, taken out of the internal inputs. -/
def State.dropXin (s : State) (gone : Item → Bool) : State :=
  let s := s.putTiles (s.tiles.map fun e =>
    let l := (Table.get [] s.xin (tileOutput e.1)).filter fun x => x.2.result
    (e.1, { e.2 with combTx := ((e.2.combTx.zip l).filter fun x => !gone x.2.2).map Prod.fst }))
  s.putXin ((s.xin.map fun e => (e.1, e.2.filter fun x => !gone x.2)).filter fun e => !e.2.isEmpty)

/-- CLOSING entered: threads killed, Weir entries voided, tokens and combine entries gone, posts stopped. -/
def State.ctxClose (s : State) (c : Nat) (scrub : Bool) : State :=
  let held := s.tilesOf c
  let s := s.setFld (CTX_STATE c) CTX_STATE_STATE 2
  let s := s.modCtx c fun x => { x with scrub := scrub, drained := false, scrubTiles := held }
  let s := held.foldl (fun s t => (List.range 16).foldl (fun s h => s.killThread t h) s) s
  let s := (s.groupsBound.filter fun g => s.gCtx g == c).foldl (fun s g => s.voidEntries g fun _ => true) s
  let s := (s.putTiles (s.tiles.map (Tile.shut c))).dropXin (Item.shut c)
  ((s.closeTokens c).closeWaiters c).closeGates c

/-- TAIL of every ring of a context read: the waiting entries of a closing context complete (R356). -/
def State.readRings (s : State) (c : Nat) : State := ((s.ringNumbers c).foldl (fun s r => s.readTail c r) s).sweepRings

/-- The context that a CTX_CLOSE names: on an own ring 0 stands for the ring's context. -/
def closeTarget (k : RingCmd) : Nat := if k.ctx.toNat != 0 && k.arg 16 2 == 0 then k.ctx.toNat else k.arg 16 2

/-- CTX_CLOSE (R396): on the device ring any open context, on an own ring the ring's context; the command completes
before the entries behind it. -/
def execCtxClose (k : RingCmd) (s : State) : Host.Outcome State Fault Refusal :=
  ok s (s.powered fun s =>
    let c := closeTarget k
    let u := s.command k 0x0002 false fun s =>
      if k.ctx.toNat != 0 && c != k.ctx.toNat then (4, s)
      else if c = 0 || 4096 ≤ c then (2, s)
      else if s.ctxState c != 1 then (1, s)
      else (0, s.ctxClose c (bitOf (k.arg 18 1) 0))
    if s.ctxState c == 1 && u.ctxState c == 2 then u.readRings c else u)

/-! ### Drain: steps 4 and 5 of R396 -/

/-- A request of the context, or a response to one of tile `t` that belongs to it. -/
def State.requestOf (s : State) (c : Nat) : Item → Bool
  | .req r => r.ctx == c
  | .rsp r => (s.tile r.tile).ctx == c
  | _ => false

/-- Requests and responses of the context that wait at an input, or lie at the agent that would serve them, taken out: those
that asked are answered with ERR_CLOSED (R396 step 4). -/
def State.dropRequests (s : State) (c : Nat) : State :=
  let mine := s.requestOf c
  let s := (s.dropXin mine).putInboxes
    ((s.inboxes.map fun e => (e.1, e.2.filter fun i => !mine i)).filter fun e => !e.2.isEmpty)
  s.putTiles (s.tiles.map fun e => (e.1, { e.2 with inbox := e.2.inbox.filter fun i => !mine i }))

/-- One outstanding request answered with ERR_CLOSED. -/
def State.closeRequest (s : State) (t : Nat) (o : Outst) : State :=
  (s.modTile t fun x => { x with outst := x.outst.filter fun q => q.tag != o.tag }).deliverResponse t o .closed 0

/-- Outstanding requests of the context's tiles answered: nothing of them is left, and the threads leave. -/
def State.drainTiles (s : State) (c : Nat) : State :=
  (s.tilesOf c).foldl (fun s t =>
    let s := (s.tile t).outst.foldl (fun s o => s.closeRequest t o) s
    (s.modTile t fun x =>
      let x := x.streams.foldl (fun x r => x.ccSub r.cc (r.lines - r.completed)) x
      { x with outst := [], streams := [] }).run t) (s.dropRequests c)

/-- Cells of the context in the Reservoir, and those held at ingress, unlinked and counted as R79 gives: each copy at the
port it was for. Mirror copies leave (log entry 68). -/
def State.drainCells (s : State) (c : Nat) : State :=
  let s := ((s.slots.filter fun e => e.2.ctx == c && e.2.charge != .mirror).map Prod.fst).foldl State.dropSlot s
  let mine (x : HeldCell) : Bool := x.ctx == c
  (s.heldCells.filter mine).foldl (fun (s : State) (x : HeldCell) =>
    let s := match x.item with
      | .cell k => x.copies.foldl (fun (s : State) (o : Copy) => s.drainCopy o.out k) s
      | _ => s
    s.returnCredit x.input x.vc) (s.putHeldCells (s.heldCells.filter fun x => !mine x))

/-- VALID cleared in an entry of a table: the bit at `bit` of the 16 or more bytes at `a`. -/
def State.invalidate (s : State) (a n bit : Nat) : State := s.setMemFld a n bit 1 0

/-- VALID cleared in every record that carries the context (R396 step 5). -/
def State.clearRecords (s : State) (c : Nat) : State :=
  let s := (s.circuitLabels.filter fun l => (s.circuit l).valid && (s.circuit l).ctx == c).foldl
    (fun s l => s.invalidate (circAddr s l) 16 127) s
  let s := (s.treeNumbers.filter fun n => (s.tree n).valid && (s.tree n).ctx == c).foldl
    (fun s n => s.invalidate (treeAddr s n + 160) 8 63) s
  let s := ((List.range 256).filter fun t => s.fld (TILE_WEIR_CFG t) TILE_WEIR_CFG_SIZE != 0).foldl (fun s t =>
    ((s.listed (s.weirBase t) (256 * 1024) 256).filter fun n => nValid (s.nodeRec t n) && nCtx (s.nodeRec t n) == c).foldl
      (fun s n => s.invalidate (s.nodeAddr t n + 30) 1 0) s) s
  let s := (s.groupsBound.filter fun g => s.gCtx g == c).foldl (fun s g => (s.setGState g 0).setGroup g Group.init) s
  let s := (List.range 16).foldl (fun s h =>
    if s.ehtValid h && s.ehtCtx h == c then s.invalidate (ehtAddr s h + 3) 1 0 else s) s
  let s := (s.listed (s.rd MEM_PROT_BASE).toNat (4096 * 32) 32).foldl (fun s i =>
    if bitsOf (s.load (protAddr s i) 32) 128 12 = c then s.invalidate (protAddr s i + 18) 1 4 else s) s
  (s.listed (s.rd MEMT_BASE).toNat (1024 * 32) 32).foldl (fun s i =>
    if bitsOf (s.load (fabAddr s i) 32) 128 12 = c then s.invalidate (fabAddr s i + 18) 1 4 else s) s

/-- A teardown waits for a reset whose scope holds its tiles (R393). -/
def State.teardownWaits (s : State) (c : Nat) : Bool := s.reset?.any fun o => (s.ctx c).scrubTiles.any (s.opHasTile o)

/-- The count sender's counts of the generation that begins are zero (spec/16_water_book.md R438). -/
def State.freshCounts (s : State) (c : Nat) : State :=
  s.putWb { s.wb with counts := s.wb.counts.filter fun r => !(r.ctx == c && r.gen == s.genOf c) }

/-- CTX_TEARDOWN_DRAIN (R396): outstanding requests end, cells leave, GEN advances, records become invalid. -/
def execCtxTeardownDrain (ctx : BitVec 12) (s : State) : Host.Outcome State Fault Refusal :=
  let c := ctx.toNat
  ok s (s.powered fun s =>
    if s.ctxState c != 2 || (s.ctx c).drained || s.teardownWaits c then s
    else
      let s := (s.drainTiles c).drainCells c
      let s := (s.setFld (CTX_STATE c) CTX_STATE_GEN (s.genOf c + 1)).freshCounts c
      let s := (s.clearRecords c).putSets (s.sets.filter fun e => e.2.ctx != c)
      s.modCtx c fun x => { x with drained := true })

/-! ### Closed: steps 6 and 7 of R396 -/

/-- Buffers charged to the context's owners released, its owners removed, its pools destroyed by force
(spec/11_memory_and_pools.md R315). -/
def State.closePools (s : State) (c : Nat) : State :=
  let mine (s : State) (o : Nat) : Bool := ((s.owner o).bind Owner.ctx) == some c
  let s := (s.bufs.filter fun e => e.2.alloc.any (mine s)).foldl (fun s e =>
    match (s.buf e.1).alloc.bind s.owner with
    | some x => s.release x.pool e.1
    | none => s) s
  let s := s.putGrants (s.grants.filter fun e => !mine s e.1.owner)
  let s := s.putOwners (s.owners.filter fun e => e.2.ctx != some c)
  let s := (s.pools.filter fun e => e.2.state != 0 && 4 ≤ e.1 && e.2.ctx == c).foldl (fun s e => s.poolRemove e.1) s
  s.serveWaiters s.waiters

/-- Byte ranges of a tile that a scrub leaves out: Weir and combine regions with VALID records of other contexts (R398). -/
def State.scrubKeeps (s : State) (t c : Nat) : List (Nat × Nat) :=
  let r := s.weirRegion t
  let weir := (s.listed (s.weirBase t) (256 * 1024) 256).any fun n => nValid (s.nodeRec t n) && nCtx (s.nodeRec t n) != c
  let comb := (List.range 16).filter fun h => (s.combineTile h t).isSome && s.ehtCtx h != c
  (if weir && r.1 != r.2 then [r] else []) ++
    comb.map fun h => (s.ehtNum h 36 4, s.ehtNum h 36 4 + s.combineBytes h)

/-- The SRAM of a tile written with zeros but for what the scrub leaves out (R398). -/
def State.scrubTile (s : State) (t c : Nat) : State :=
  let keep := s.scrubKeeps t c
  let kept (a : Nat) : Bool := keep.any fun r => decide (r.1 ≤ a - t * tileBytes) && decide (a - t * tileBytes < r.2)
  let mine (a : Nat) : Bool := decide (t * tileBytes ≤ a) && decide (a < (t + 1) * tileBytes) && !kept a
  ((s.putMem (s.mem.filter (fun e => !mine e.1))).putPoison (s.poison.filter fun p => !mine p))

/-- CLOSED (R396): pools and owners go, SCRUB, the CLOSED event with the new GEN, FREE. -/
def execClosed (ctx : BitVec 12) (s : State) : Host.Outcome State Fault Refusal :=
  let c := ctx.toNat
  ok s (s.powered fun s =>
    if s.ctxState c != 2 || !(s.ctx c).drained then s
    else
      let s := s.closePools c
      let s := if (s.ctx c).scrub then (s.ctx c).scrubTiles.foldl (fun s t => s.scrubTile t c) s else s
      let s := s.postPlain 5 (some c) (sourceOf 17 0) 0 (eventData [c, s.genOf c])
      let s := s.setFld (CTX_STATE c) CTX_STATE_STATE 0
      s.setCtx c { Ctx.init with closedAt := some s.cycle })

end Sys2Proof.Machine
end

