-- ==== Sys2Proof/Machine/Vector.lean ====
section
/-! DEFINITION. Sys2Proof/Machine/Vector.lean: vector integer, mask and floating-point instructions, classes 0x5 and 0x6
(spec/06_flume_tile.md R163-R165; spec/07_instruction_set.md R183, R184, Tables 7-8 and 7-9). -/

namespace Sys2Proof.Machine

/-! ### Elements and masks (R164, R165) -/

/-- Element `i` of width `b` of a register held as a number. -/
def elem (b v i : Nat) : Nat := bitsOf v (b * i) b

/-- A number whose fields of width `b`, first one lowest, are given. -/
def packElems (b : Nat) (l : List Nat) : Nat := l.foldr (fun x a => x % 2 ^ b + a <<< b) 0

/-- The register with elements `first`, `first + 1`, ... of width `b` given new values; none marks a masked element,
which keeps its old value or, with MZ, becomes zero (R165). -/
def mergeElems (b : Nat) (mz : Bool) (first : Nat) (old : Nat) (l : List (Option Nat)) : Nat :=
  packElems b ((List.range (2048 / b)).map fun i =>
    if i < first || first + l.length ≤ i then elem b old i
    else match l.getD (i - first) none with
      | some v => v
      | none => if mz then 0 else elem b old i)

/-- A mask register given bits 0 to N - 1, none marking a masked element. -/
def mergeBits (mz : Bool) (old : MReg) (l : List (Option Bool)) : MReg :=
  BitVec.ofNat 256 (packElems 1 ((List.range 256).map fun i =>
    match l[i]? with
    | none => flag (old.getLsbD i)
    | some none => if mz then 0 else flag (old.getLsbD i)
    | some (some b) => flag b))

/-- A vector instruction that writes vD from vA, vB and vC, element by element of width `b`, and the VU flags of the
elements it computes (R165, R184). -/
def State.vecOp (s : State) (t : Fin 256) (h : Fin 16) (w : BitVec 56) (used : Nat) (legal : Bool) (b : Nat)
    (f : Nat → Nat → Nat → Nat × Nat) : State :=
  let n := w.toNat
  s.issue t h 2 (onlyUses n (used ||| useMask ||| useMOD) && legal) [] ([fD n, fA n] ++
      (if used &&& useB = 0 then [] else [fB n]) ++ (if used &&& useC = 0 then [] else [fC n])) fun s y =>
    let m := y.getM (fMK n)
    let va := (y.getV (fA n)).toNat
    let vb := (y.getV (fB n)).toNat
    let vc := (y.getV (fC n)).toNat
    let r := (List.range (2048 / b)).map fun i =>
      if m.getLsbD i then some (f (elem b va i) (elem b vb i) (elem b vc i)) else none
    let v := mergeElems b (fMZ n) 0 (y.getV (fD n)).toNat (r.map fun x => x.map Prod.fst)
    let fl := r.foldl (fun a x => a ||| (x.elim 0 Prod.snd)) 0
    .next ((s.modThread t h fun x => x.setV (fD n) (BitVec.ofNat 2048 v)).setFlags t engineVU fl)

/-! ### Class 0x5: integer (R183) -/

/-- MOD of an integer vector instruction: type 0-5 and SAT. -/
def intMod (m : Nat) : Bool := decide (m ≤ 15) && decide (m % 8 ≤ 5)

/-- Width and sign of a type. -/
def intWidth (m : Nat) : Nat := 2 ^ (3 + m % 8 / 2)
def intSigned (m : Nat) : Bool := m % 2 == 0

/-- The integer value of an element. -/
def intVal (m x : Nat) : Int := if intSigned m then signed (intWidth m) x else (x : Int)

/-- A result, wrapped or with SAT clamped to the type's range. -/
def intResult (m : Nat) (v : Int) : Nat :=
  let b := intWidth m
  let lo : Int := if intSigned m then -(2 ^ (b - 1) : Nat) else 0
  let hi : Int := if intSigned m then (2 ^ (b - 1) : Nat) - 1 else (2 ^ b : Nat) - 1
  wrapInt b (if bitOf m 3 then max lo (min hi v) else v)

/-- An integer vector instruction with operands vA and vB. -/
def State.vecInt (s : State) (t : Fin 256) (h : Fin 16) (w : BitVec 56) (f : Nat → Nat → Nat → Nat) : State :=
  let m := fMOD w.toNat
  s.vecOp t h w (useD ||| useA ||| useB) (intMod m) (intWidth m) fun a b _ => (f m a b, 0)

/-- VADD -/
def execIVadd (t : Fin 256) (h : Fin 16) (w : BitVec 56) (s : State) : Host.Outcome State Fault Refusal :=
  ok s (s.vecInt t h w fun m a b => intResult m (intVal m a + intVal m b))

/-- VSUB -/
def execIVsub (t : Fin 256) (h : Fin 16) (w : BitVec 56) (s : State) : Host.Outcome State Fault Refusal :=
  ok s (s.vecInt t h w fun m a b => intResult m (intVal m a - intVal m b))

/-- VMUL -/
def execIVmul (t : Fin 256) (h : Fin 16) (w : BitVec 56) (s : State) : Host.Outcome State Fault Refusal :=
  ok s (s.vecInt t h w fun m a b => intResult m (intVal m a * intVal m b))

/-- VMIN -/
def execIVmin (t : Fin 256) (h : Fin 16) (w : BitVec 56) (s : State) : Host.Outcome State Fault Refusal :=
  ok s (s.vecInt t h w fun m a b => if intVal m a < intVal m b then a else b)

/-- VMAX -/
def execIVmax (t : Fin 256) (h : Fin 16) (w : BitVec 56) (s : State) : Host.Outcome State Fault Refusal :=
  ok s (s.vecInt t h w fun m a b => if intVal m a < intVal m b then b else a)

/-- VAND -/
def execIVand (t : Fin 256) (h : Fin 16) (w : BitVec 56) (s : State) : Host.Outcome State Fault Refusal :=
  ok s (s.vecInt t h w fun _ a b => a &&& b)

/-- VOR -/
def execIVor (t : Fin 256) (h : Fin 16) (w : BitVec 56) (s : State) : Host.Outcome State Fault Refusal :=
  ok s (s.vecInt t h w fun _ a b => a ||| b)

/-- VXOR -/
def execIVxor (t : Fin 256) (h : Fin 16) (w : BitVec 56) (s : State) : Host.Outcome State Fault Refusal :=
  ok s (s.vecInt t h w fun _ a b => a ^^^ b)

/-- VSHL: by element n of vB modulo w. -/
def execIVshl (t : Fin 256) (h : Fin 16) (w : BitVec 56) (s : State) : Host.Outcome State Fault Refusal :=
  ok s (s.vecInt t h w fun m a b => intResult m (intVal m a * (2 ^ (b % intWidth m) : Nat)))

/-- VSHR: arithmetic for signed types, logical otherwise. -/
def execIVshr (t : Fin 256) (h : Fin 16) (w : BitVec 56) (s : State) : Host.Outcome State Fault Refusal :=
  ok s (s.vecInt t h w fun m a b => intResult m (intVal m a / (2 ^ (b % intWidth m) : Nat)))

/-- A comparison into bit n of mD for each element n, under the mask (R165). -/
def State.vecCmp (s : State) (t : Fin 256) (h : Fin 16) (w : BitVec 56) (legal : Bool) (b : Nat)
    (f : Nat → Nat → Nat → Bool) : State :=
  let n := w.toNat
  s.issue t h 2 (onlyUses n (useD ||| useA ||| useB ||| useMask ||| useMOD ||| useEXT) && legal &&
      decide (fD n < 8) && decide (fEXT n ≤ 3)) [] [fA n, fB n] fun s y =>
    let m := y.getM (fMK n)
    let va := (y.getV (fA n)).toNat
    let vb := (y.getV (fB n)).toNat
    let r := (List.range (2048 / b)).map fun i =>
      if m.getLsbD i then some (f (fEXT n) (elem b va i) (elem b vb i)) else none
    .next (s.modThread t h fun x => x.setM (fD n) (mergeBits (fMZ n) (y.getM (fD n)) r))

/-- VCMP.EQ, .NE, .LT, .LE: EXT[18:16] 0-3. -/
def execIVcmp (t : Fin 256) (h : Fin 16) (w : BitVec 56) (s : State) : Host.Outcome State Fault Refusal :=
  let m := fMOD w.toNat
  ok s (s.vecCmp t h w (intMod m) (intWidth m) fun e a b =>
    match e with
    | 0 => a == b
    | 1 => a != b
    | 2 => decide (intVal m a < intVal m b)
    | _ => decide (intVal m a ≤ intVal m b))

/-- VSEL: bit n of mK picks vA or vB; MZ must be 0. -/
def execIVsel (t : Fin 256) (h : Fin 16) (w : BitVec 56) (s : State) : Host.Outcome State Fault Refusal :=
  let n := w.toNat
  let b := intWidth (fMOD n)
  ok s (s.issue t h 2 (onlyUses n (useD ||| useA ||| useB ||| useMK ||| useMOD) && intMod (fMOD n)) []
      [fD n, fA n, fB n] fun s y =>
    let m := y.getM (fMK n)
    let va := (y.getV (fA n)).toNat
    let vb := (y.getV (fB n)).toNat
    let v := packElems b ((List.range (2048 / b)).map fun i => if m.getLsbD i then elem b va i else elem b vb i)
    .next (s.modThread t h fun x => x.setV (fD n) (BitVec.ofNat 2048 v)))

/-- VBCAST: low w bits of sA to every element. -/
def execIVbcast (t : Fin 256) (h : Fin 16) (w : BitVec 56) (s : State) : Host.Outcome State Fault Refusal :=
  let n := w.toNat
  let b := intWidth (fMOD n)
  ok s (s.issue t h 2 (onlyUses n (useD ||| useA ||| useMask ||| useMOD) && intMod (fMOD n)) [fA n] [fD n] fun s y =>
    let m := y.getM (fMK n)
    let a := (y.getS (fA n)).toNat % 2 ^ b
    let v := mergeElems b (fMZ n) 0 (y.getV (fD n)).toNat
      ((List.range (2048 / b)).map fun i => if m.getLsbD i then some a else none)
    .next (s.modThread t h fun x => x.setV (fD n) (BitVec.ofNat 2048 v)))

/-- VEXT: element (sB mod N) of vA, extended by type, to sD. -/
def execIVext (t : Fin 256) (h : Fin 16) (w : BitVec 56) (s : State) : Host.Outcome State Fault Refusal :=
  let n := w.toNat
  let m := fMOD n
  let b := intWidth m
  ok s (s.issue t h 2 (onlyUses n (useD ||| useA ||| useB ||| useMOD) && intMod m) [fD n, fB n] [fA n] fun s y =>
    let a := elem b (y.getV (fA n)).toNat ((y.getS (fB n)).toNat % (2048 / b))
    .next (s.modThread t h fun x => x.setS (fD n) (BitVec.ofInt 64 (intVal m a))))

/-- VPOP: the next row of the thread's oldest tailwater entry; an entry is freed with its 64th row (R163). -/
def execIVpop (t : Fin 256) (h : Fin 16) (w : BitVec 56) (s : State) : Host.Outcome State Fault Refusal :=
  let n := w.toNat
  ok s (s.issue t h 2 (onlyUses n useD) [] [fD n] fun s _ =>
    match leastBy TqEntry.order ((s.tile t).tq.filter fun q => q.thread == h.val && !q.discard) with
    | none => .fault 0x21
    | some q =>
      match q.rows[q.popped]? with
      | none => .wait .row
      | some row =>
        let s := s.modTile t fun x =>
          if q.popped + 1 = 64 then { x with tq := x.tq.filter fun r => r.order != q.order }
          else { x with tq := x.tq.map fun r => if r.order == q.order then { r with popped := r.popped + 1 } else r }
        .next (s.modThread t h fun x => x.setV (fD n) (BitVec.ofNat 2048 (packElems 32 (row.map BitVec.toNat)))))

/-! ### Class 0x5: masks (R183), MOD[2:0] choosing the operation -/

/-- A mask operation `m` that writes mask register D from mA and mB. -/
def State.maskOp (s : State) (t : Fin 256) (h : Fin 16) (w : BitVec 56) (m : Nat) (two : Bool) (f : MReg → MReg → MReg) :
    State :=
  let n := w.toNat
  s.issue t h 2 (onlyUses n (useD ||| useA ||| (if two then useB else 0) ||| useMOD) && fMOD n == m &&
      decide (fD n < 8) && decide (fA n < 8) && decide (fB n < 8)) [] [] fun s y =>
    .next (s.modThread t h fun x => x.setM (fD n) (f (y.getM (fA n)) (y.getM (fB n))))

/-- MAND: MOD 0. -/
def execIMand (t : Fin 256) (h : Fin 16) (w : BitVec 56) (s : State) : Host.Outcome State Fault Refusal :=
  ok s (s.maskOp t h w 0 true fun a b => a &&& b)

/-- MOR: MOD 1. -/
def execIMor (t : Fin 256) (h : Fin 16) (w : BitVec 56) (s : State) : Host.Outcome State Fault Refusal :=
  ok s (s.maskOp t h w 1 true fun a b => a ||| b)

/-- MXOR: MOD 2. -/
def execIMxor (t : Fin 256) (h : Fin 16) (w : BitVec 56) (s : State) : Host.Outcome State Fault Refusal :=
  ok s (s.maskOp t h w 2 true fun a b => a ^^^ b)

/-- MNOT: MOD 3. -/
def execIMnot (t : Fin 256) (h : Fin 16) (w : BitVec 56) (s : State) : Host.Outcome State Fault Refusal :=
  ok s (s.maskOp t h w 3 false fun a _ => ~~~a)

/-- MPOP: MOD 4, sD = the number of set bits of mA. -/
def execIMpop (t : Fin 256) (h : Fin 16) (w : BitVec 56) (s : State) : Host.Outcome State Fault Refusal :=
  let n := w.toNat
  ok s (s.issue t h 2 (onlyUses n (useD ||| useA ||| useMOD) && fMOD n == 4 && decide (fA n < 8)) [fD n] [] fun s y =>
    let m := y.getM (fA n)
    .next (s.modThread t h fun x => x.setS (fD n) (BitVec.ofNat 64 ((List.range 256).filter m.getLsbD).length)))

/-- MINS: MOD 5, mD[64k + 63 : 64k] = sA, k in EXT[17:16]. -/
def execIMins (t : Fin 256) (h : Fin 16) (w : BitVec 56) (s : State) : Host.Outcome State Fault Refusal :=
  let n := w.toNat
  ok s (s.issue t h 2 (onlyUses n (useD ||| useA ||| useMOD ||| (3 <<< 16)) && fMOD n == 5 && decide (fD n < 8))
      [fA n] [] fun s y =>
    let k := fEXT n % 4
    let v := putBits (y.getM (fD n)).toNat (64 * k) 64 (y.getS (fA n)).toNat
    .next (s.modThread t h fun x => x.setM (fD n) (BitVec.ofNat 256 v)))

/-- MEXT: MOD 6, sD = mA[64k + 63 : 64k]. -/
def execIMext (t : Fin 256) (h : Fin 16) (w : BitVec 56) (s : State) : Host.Outcome State Fault Refusal :=
  let n := w.toNat
  ok s (s.issue t h 2 (onlyUses n (useD ||| useA ||| useMOD ||| (3 <<< 16)) && fMOD n == 6 && decide (fA n < 8))
      [fD n] [] fun s y =>
    .next (s.modThread t h fun x =>
      x.setS (fD n) (BitVec.ofNat 64 (bitsOf (y.getM (fA n)).toNat (64 * (fEXT n % 4)) 64))))

/-! ### Class 0x6: floating point (R184) -/

/-- MOD of a floating-point vector instruction: type 0-2 in [1:0], SAT in [4]. -/
def floatMod (m : Nat) : Bool := decide (m % 4 ≤ 2) && (m / 4 == 0 || m / 4 == 4)

/-- Element layout of a type. -/
def floatLayout (m : Nat) : Layout :=
  match m % 4 with
  | 0 => fp32
  | 1 => bf16
  | _ => fp16

/-- A result rounded once to the element type, with flags (R184). -/
def floatResult (m : Nat) (r : FNum × Nat) : Nat × Nat :=
  let (c, f) := (floatLayout m).encodeIEEE (bitOf m 4) none r.1
  (c, f ||| r.2)

/-- A floating-point vector instruction. -/
def State.vecFloat (s : State) (t : Fin 256) (h : Fin 16) (w : BitVec 56) (used : Nat)
    (f : Nat → FNum → FNum → FNum → Nat × Nat) : State :=
  let m := fMOD w.toNat
  let l := floatLayout m
  s.vecOp t h w used (floatMod m) l.w fun a b c => f m (l.decodeIEEE a) (l.decodeIEEE b) (l.decodeIEEE c)

/-- VFADD -/
def execIVfadd (t : Fin 256) (h : Fin 16) (w : BitVec 56) (s : State) : Host.Outcome State Fault Refusal :=
  ok s (s.vecFloat t h w (useD ||| useA ||| useB) fun m a b _ => floatResult m (a.add b))

/-- VFSUB -/
def execIVfsub (t : Fin 256) (h : Fin 16) (w : BitVec 56) (s : State) : Host.Outcome State Fault Refusal :=
  ok s (s.vecFloat t h w (useD ||| useA ||| useB) fun m a b _ => floatResult m (a.add b.negate))

/-- VFMUL -/
def execIVfmul (t : Fin 256) (h : Fin 16) (w : BitVec 56) (s : State) : Host.Outcome State Fault Refusal :=
  ok s (s.vecFloat t h w (useD ||| useA ||| useB) fun m a b _ => floatResult m (a.mul b))

/-- VFMA: vA × vB + vC, rounded once. -/
def execIVfma (t : Fin 256) (h : Fin 16) (w : BitVec 56) (s : State) : Host.Outcome State Fault Refusal :=
  ok s (s.vecFloat t h w (useD ||| useA ||| useB ||| useC) fun m a b c =>
    let p := a.mul b
    let r := p.1.add c
    floatResult m (r.1, r.2 ||| p.2))

/-- VFMAX: Table 5-8, no flag. -/
def execIVfmax (t : Fin 256) (h : Fin 16) (w : BitVec 56) (s : State) : Host.Outcome State Fault Refusal :=
  ok s (s.vecFloat t h w (useD ||| useA ||| useB) fun m a b _ =>
    (((floatLayout m).encodeIEEE false none (a.max b)).1, 0))

/-- VFMIN: Table 5-8, no flag. -/
def execIVfmin (t : Fin 256) (h : Fin 16) (w : BitVec 56) (s : State) : Host.Outcome State Fault Refusal :=
  ok s (s.vecFloat t h w (useD ||| useA ||| useB) fun m a b _ =>
    (((floatLayout m).encodeIEEE false none (a.min b)).1, 0))

/-- VFCMP.EQ, .LT, .LE, .UNORD: EXT[18:16] 0-3; false on a NaN but for UNORD; no flag. -/
def execIVfcmp (t : Fin 256) (h : Fin 16) (w : BitVec 56) (s : State) : Host.Outcome State Fault Refusal :=
  let m := fMOD w.toNat
  let l := floatLayout m
  ok s (s.vecCmp t h w (floatMod m) l.w fun e a b =>
    let x := l.decodeIEEE a
    let y := l.decodeIEEE b
    match e with
    | 0 => x.eq y
    | 1 => x.lt y
    | 2 => x.lt y || x.eq y
    | _ => x.isNan || y.isNan)

/-- VFABS, VFNEG, VFCSGN: EXT[17:16] 0-2; vB is a field of VFCSGN alone; a NaN becomes the canonical NaN. -/
def execIVfabsVfnegVfcsgn (t : Fin 256) (h : Fin 16) (w : BitVec 56) (s : State) : Host.Outcome State Fault Refusal :=
  let m := fMOD w.toNat
  let l := floatLayout m
  let e := fEXT w.toNat
  ok s (s.vecOp t h w (useD ||| useA ||| (if e = 2 then useB else 0) ||| useEXT) (floatMod m && decide (e ≤ 2)) l.w
    fun a b _ =>
      let x := l.decodeIEEE a
      ((l.encodeIEEE false none (match e with
        | 0 => x.withSign false
        | 1 => x.negate
        | _ => x.withSign (bitOf b (l.w - 1)))).1, 0))

end Sys2Proof.Machine
end

