-- ==== Sys2Proof/Machine/Convert.lean ====
section
/-! DEFINITION. Sys2Proof/Machine/Convert.lean: convert instructions, class 0x7 (spec/07_instruction_set.md R185-R190,
Tables 7-10 to 7-12; spec/05_number_formats.md R116-R119, R125-R130). -/

namespace Sys2Proof.Machine

def extF64 (n : Nat) : Bool := bitOf (fEXT n) 7
def extSR (n : Nat) : Bool := bitOf (fEXT n) 6
def extSAT (n : Nat) : Bool := bitOf (fEXT n) 5
def extPART (n : Nat) : Nat := fEXT n % 32

/-- Legal pairs of Table 7-11, `f64` for a binary64 source. -/
def cvtPair (f64 : Bool) (src dst : Nat) : Bool :=
  if f64 then src == 8 && decide (dst ≤ 8)
  else if src = 8 then decide (dst ≤ 9) && dst != 8
  else decide (src ≤ 9) && (dst == 8 || (src == 0 && dst == 5))

/-- PART values that an element width of at most 16 bits allows. -/
def partsOf (fmt : Nat) : Nat := 32 / fmtBits fmt

/-- Number of PART values of a conversion (R186): 1 where neither operand uses PART. -/
def cvtParts (src dst : Nat) : Nat :=
  if src = 0 && dst = 5 then 4
  else if fmtScaled dst || dst == 6 || dst == 7 then partsOf dst
  else if fmtScaled src || src == 6 || src == 7 then partsOf src
  else 1

/-- Which fields and values of a CVT word are legal (R174, R175, R185, R186, R190). -/
def cvtLegal (n : Nat) : Bool :=
  let dst := fMOD n / 16
  let src := fMOD n % 16
  let zi := src == 0 && dst == 5
  let sr := extSR n
  let usesB := (fmtScaled dst || fmtScaled src) && !zi
  onlyUses n (useD ||| useA ||| (if usesB then useB else 0) ||| (if zi || sr then useC else 0) ||| useMask ||| useEXT |||
    useMOD) && cvtPair (extF64 n) src dst && (!extF64 n || fA n % 2 == 0) &&
  (zi || !sr || (decide (1 ≤ fC n) && decide (fC n ≤ 29))) && decide (extPART n < cvtParts src dst)

/-- The random bits of element `i` from the scalar block sC, sC + 1, sC + 2 (R190, Table 7-12). -/
def cvtRandom (y : Thread) (c i : Nat) : Nat :=
  let a := (y.getS c).toNat
  let b := (y.getS (c + 1)).toNat
  let d := (y.getS (c + 2)).toNat
  philox16 a (bitsOf d 32 21) (d / 2 ^ 53 + i / 8) (b % 2 ^ 32) (b / 2 ^ 32) (d % 2 ^ 32) i

/-- Element `i` of the source (R186): its exact value. -/
def cvtSource (y : Thread) (n i : Nat) : FNum :=
  let src := fMOD n % 16
  let va := (y.getV (fA n)).toNat
  let p := extPART n
  if extF64 n then
    fp64.decodeIEEE (if i < 32 then elem 64 va i else elem 64 (y.getV (fA n + 1)).toNat (i - 32))
  else if fmtScaled src then
    scaledElem src (elem 8 (y.getV (fB n)).toNat (2 * p + i / 32)) (elem (fmtBits src) va (64 * p + i))
  else if src = 6 || src = 7 then decodeElem src (elem 16 va (64 * p + i))
  else decodeElem src (elem 32 va i)

/-- Element `i` converted: code and flags (R187). -/
def cvtElem (y : Thread) (n i : Nat) : Nat × Nat :=
  let dst := fMOD n / 16
  let x := cvtSource y n i
  let r := if extSR n then some (cvtRandom y (fC n) i) else none
  if fmtScaled dst then
    let sc := elem 8 (y.getV (fB n)).toNat (2 * extPART n + i / 32)
    if sc = scaleNan then (0, flagNV) else encodeElem dst (extSAT n) r (x.scale (127 - (sc : Int)))
  else if fmtScaled (fMOD n % 16) then encodeNum dst (extSAT n) none x
  else encodeNum dst (extSAT n) r x

/-- CVT of 64 elements. -/
def cvt64 (y : Thread) (n : Nat) : VReg × Nat :=
  let dst := fMOD n / 16
  let m := y.getM (fMK n)
  let r := (List.range 64).map fun i => if m.getLsbD i then some (cvtElem y n i) else none
  let fl := r.foldl (fun a x => a ||| (x.elim 0 Prod.snd)) 0
  let b := if fmtScaled dst then 8 else fmtBits dst
  let first := if dst = 6 || dst = 7 then 64 * extPART n else 0
  (BitVec.ofNat 2048 (mergeElems b (fMZ n) first (y.getV (fD n)).toNat (r.map fun x => x.map Prod.fst)), fl)

/-- CVT of 256 ZT2 codes to INT8: codes, and the NaN blocks (R186). -/
def cvtZt2 (y : Thread) (n : Nat) : VReg × List Nat :=
  let m := y.getM (fMK n)
  let va := (y.getV (fA n)).toNat
  let code := fun i => elem 2 va (256 * extPART n + i)
  let nans := (List.range 8).filter fun b => (List.range 32).any fun i => m.getLsbD (32 * b + i) && code (32 * b + i) == 2
  let r := (List.range 256).map fun i =>
    if m.getLsbD i then some (if nans.contains (i / 32) then 0
      else match code i with
        | 1 => 64
        | 3 => 192
        | _ => 0) else none
  (BitVec.ofNat 2048 (mergeElems 8 (fMZ n) 0 (y.getV (fD n)).toNat r), nans)

/-- CVT: converts 64 elements, or 256 from ZT2 to INT8. -/
def execICvt (t : Fin 256) (h : Fin 16) (w : BitVec 56) (s : State) : Host.Outcome State Fault Refusal :=
  let n := w.toNat
  let zi := fMOD n == 0x50
  let sr := extSR n && !zi
  ok s (s.issue t h 2 (cvtLegal n) (if sr then [fC n, fC n + 1, fC n + 2] else [])
      ([fD n, fA n] ++ (if (fmtScaled (fMOD n / 16) || fmtScaled (fMOD n % 16)) && !zi then [fB n] else []) ++
        (if extF64 n then [fA n + 1] else []) ++ (if zi then [fC n] else [])) fun s y =>
    if sr && decide (2040 < (y.getS (fC n + 2)).toNat / 2 ^ 53) then .fault 0x07
    else if zi then
      let (v, nans) := cvtZt2 y n
      let s := s.modThread t h fun x =>
        let x := x.setV (fD n) v
        nans.foldl (fun x b => x.setV (fC n)
          (BitVec.ofNat 2048 (putBits (x.getV (fC n)).toNat (8 * (8 * extPART n + b)) 8 0xFF))) x
      .next (s.setFlags t engineVU (if nans.isEmpty then 0 else flagNV))
    else
      let (v, fl) := cvt64 y n
      .next ((s.modThread t h fun x => x.setV (fD n) v).setFlags t engineVU fl))

/-- VBAMAX: exponent and specials of two blocks (R188). -/
def execIVbamax (t : Fin 256) (h : Fin 16) (w : BitVec 56) (s : State) : Host.Outcome State Fault Refusal :=
  let n := w.toNat
  ok s (s.issue t h 2 (onlyUses n (useD ||| useA ||| useMK ||| (0x9F <<< 16)) && decide (extPART n ≤ 15) &&
      (!extF64 n || fA n % 2 == 0)) [] ([fD n, fA n] ++ (if extF64 n then [fA n + 1] else [])) fun s y =>
    let m := y.getM (fMK n)
    let va := (y.getV (fA n)).toNat
    let vb := (y.getV (fA n + 1)).toNat
    let x := fun i =>
      if extF64 n then fp64.decodeIEEE (if i < 32 then elem 64 va i else elem 64 vb (i - 32))
      else fp32.decodeIEEE (elem 32 va i)
    let r := (List.range 2).map fun b =>
      let xs := ((List.range 32).filter fun i => m.getLsbD (32 * b + i)).map fun i => x (32 * b + i)
      (match amaxExp xs with
        | none => 0x8000
        | some k => wrapInt 16 k) + flag (xs.any FNum.isNan) * 2 ^ 16 + flag (xs.any FNum.isInf) * 2 ^ 17
    let v := mergeElems 32 false (2 * extPART n) (y.getV (fD n)).toNat (r.map some)
    .next (s.modThread t h fun x => x.setV (fD n) (BitVec.ofNat 2048 v)))

/-- CVT.SCALE: E8M0 scales of two blocks from VBAMAX elements (R188). -/
def execICvtScale (t : Fin 256) (h : Fin 16) (w : BitVec 56) (s : State) : Host.Outcome State Fault Refusal :=
  let n := w.toNat
  let dst := fMOD n / 16
  ok s (s.issue t h 2 (onlyUses n (useD ||| useA ||| (0x1F <<< 16) ||| (0xF0 <<< 48)) && fmtScaled dst &&
      decide (extPART n ≤ 15)) [] [fD n, fA n] fun s y =>
    let va := (y.getV (fA n)).toNat
    let r := (List.range 2).map fun b =>
      let e := elem 32 va (2 * extPART n + b)
      let nan := bitOf e 16 && (elemNan dst).isNone
      (if nan then scaleNan
        else scaleFor dst (if e % 2 ^ 16 = 0x8000 then none else some (signed 16 (e % 2 ^ 16))), nan)
    let v := mergeElems 8 false (2 * extPART n) (y.getV (fD n)).toNat (r.map fun x => some x.1)
    .next ((s.modThread t h fun x => x.setV (fD n) (BitVec.ofNat 2048 v)).setFlags t engineVU
      (if r.any Prod.snd then flagNV else 0)))

/-- VPACK: low bits of bytes 0-63 of vA as codes 64 × PART + n of vD (R189). -/
def execIVpack (t : Fin 256) (h : Fin 16) (w : BitVec 56) (s : State) : Host.Outcome State Fault Refusal :=
  let n := w.toNat
  let b := 2 ^ (fMOD n + 1)
  ok s (s.issue t h 2 (onlyUses n (useD ||| useA ||| (0x1F <<< 16) ||| (0x03 <<< 48)) && decide (fMOD n ≤ 2) &&
      decide (extPART n < 32 / b)) [] [fD n, fA n] fun s y =>
    let va := (y.getV (fA n)).toNat
    let v := mergeElems b false (64 * extPART n) (y.getV (fD n)).toNat
      ((List.range 64).map fun i => some (elem 8 va i % 2 ^ b))
    .next (s.modThread t h fun x => x.setV (fD n) (BitVec.ofNat 2048 v)))

end Sys2Proof.Machine
end

