-- ==== Sys2Proof/Machine/Plans.lean ====
section
/-! DEFINITION. Sys2Proof/Machine/Plans.lean: plans, the binding of groups and the group commands (spec/08_weir_reduction.md
R206, R213; spec/09_collectives.md R231-R233, R238, R247, R260, R261; spec/12_lanes_and_links.md R319;
spec/13_host_port_and_control.md R358, R360-R364). -/

namespace Sys2Proof.Machine

/-! ### Sections and records (R360-R362) -/

/-- Bytes of one record of a section type (Table 13-8a). -/
def recordBytes (type : Nat) : Nat :=
  match type with
  | 1 => 32
  | 4 => 24
  | 6 => 16
  | _ => 264

/-- The sections of a body: TYPE and the bytes of its records; none when a header or its records are cut short. -/
def sectionsOf : Nat → List Byte → Option (List (Nat × List Byte))
  | 0, l => if l.isEmpty then some [] else none
  | n + 1, l =>
    if l.isEmpty then some []
    else if l.length < 8 then none
    else
      let len := ofBytes ((l.drop 4).take 4)
      let rest := l.drop 8
      if rest.length < len then none
      else (sectionsOf n (rest.drop len)).map fun r => (ofBytes (l.take 2), rest.take len) :: r

/-- Consecutive pieces of `n` bytes, `k` of them at most, as numbers. -/
def piecesOf (n : Nat) : Nat → List Byte → List Nat
  | 0, _ => []
  | k + 1, l => if l.isEmpty then [] else ofBytes (l.take n) :: piecesOf n k (l.drop n)

/-- The records of one type in the sections of a body, in order. -/
def recordsOf (type : Nat) (l : List (Nat × List Byte)) : List Nat :=
  (l.filter fun e => e.1 == type).flatMap fun e => piecesOf (recordBytes type) e.2.length e.2

/-- Fields of a record: byte, bytes. -/
def rNum (r b n : Nat) : Nat := bitsOf r (8 * b) (8 * n)

/-- The records of a plan's body. -/
structure PlanRecs where
  lanes : List LaneRec
  nodes : List Nat
  groups : List Nat
  circuits : List Nat
  trees : List Nat
  branches : List Nat
  deriving DecidableEq, Repr

/-- A lane map record (Table 13-8b). -/
def laneRecOf (r : Nat) : LaneRec :=
  { port := rNum r 0 2 % 1024, width := rNum r 2 1, role := rNum r 3 1 % 4, check := bitOf (rNum r 3 1) 2,
    peerRole := rNum r 4 1 % 4, peerPort := rNum r 6 2 % 1024, peerId := rNum r 8 4 % 2 ^ 17,
    keyDigest := BitVec.ofNat 64 (rNum r 16 8) }

/-- The image that follows the placing fields of a record. -/
def imageOf (r : Nat) : Nat := r >>> 64

/-- The operators and formats that Table 8-2 pairs; formats 0xA-0xF are reserved (spec/05_number_formats.md R112). -/
def opPairs (op fmt : Nat) : Bool := decide (fmt ≤ 9) && (decide (op ≤ 2) || (decide (op ≤ 5) && fmt == 9))

/-- A NODE record within R206 and R360 for a plan of `active` tiles. -/
def nodeOk (active r : Nat) : Bool :=
  let x := imageOf r
  decide (rNum r 0 2 ≤ 1023) && decide (rNum r 2 2 < active) && decide (rNum r 4 2 ≤ 1023) && opPairs (nOp x) (nFmt x) &&
    decide (nOutCirc x < 0xFFFFF) && !(nRoot x && nCarry x) && !((nCarry x || nAccept x) && nFmt x == 9) && decide (0 < nChunks x) &&
    decide (384 * 1024 + nClaim x ≤ 8 * 1024 * 1024) && decide (nEntryBase x + nWindow x ≤ 4096)

/-- A lane map within R14 and R360: widths 1, 2, 4 or 8, aligned, apart, in ascending PORT order. -/
def laneMapOk : List LaneRec → Bool
  | [] => true
  | r :: l => [1, 2, 4, 8].contains r.width && r.port % r.width == 0 &&
      (match l with | [] => true | q :: _ => decide (r.port + r.width ≤ q.port)) && laneMapOk l

/-- A circuit image that names a tile of the plan and a label where it names one (R360). -/
def circuitImageOk (active : Nat) (c : Circuit) : Bool :=
  (c.kind != 1 || decide (c.outPort % 256 < active)) && (c.kind != 0 || decide (c.outCirc < 0xFFFFF))

/-- A label within the range of R40 (R360). -/
def labelOk (n : Nat) : Bool := decide (n % 2 ^ 20 < 0xFFFFF)

/-- The labels that a group image names are labels; the root names none toward a parent (R360; spec/09_collectives.md Table
9-2). -/
def groupImageOk (x : Nat) : Bool := labelOk (rNum x 36 4) && (bitOf (rNum x 5 1) 0 || labelOk (rNum x 32 4))

/-- A tree image names tiles of the plan, and a label where it makes fabric copies (R360). -/
def treeImageOk (active : Nat) (t : Tree) : Bool := decide (t.tiles < 2 ^ active) && (t.ports == 0 || labelOk t.outLabel)

/-- No two of the keys are equal. -/
def distinct (l : List Nat) : Bool := l.eraseDups.length == l.length

/-- The records of a body that R360 accepts for a plan of `active` tiles. -/
def planRecs (active : Nat) (body : List Byte) : Option PlanRecs :=
  match sectionsOf body.length body with
  | none => none
  | some l =>
    let p : PlanRecs :=
      { lanes := (recordsOf 1 l).map laneRecOf, nodes := recordsOf 2 l, groups := recordsOf 3 l, circuits := recordsOf 4 l,
        trees := recordsOf 5 l, branches := recordsOf 6 l }
    let place (a b n : Nat) (r : Nat) : Nat := rNum r 0 2 * 2 ^ 64 + rNum r a b % 2 ^ n
    let good := l.all (fun e => 1 ≤ e.1 && e.1 ≤ 6 && e.2.length % recordBytes e.1 == 0) && laneMapOk p.lanes &&
      p.nodes.all (nodeOk active) &&
      p.groups.all (fun r => decide (rNum r 0 2 ≤ 1023) && decide (0 < rNum (imageOf r) 24 4) && groupImageOk (imageOf r)) &&
      p.circuits.all (fun r => decide (rNum r 0 2 ≤ 1023) && labelOk (rNum r 4 4) &&
        circuitImageOk active (Circuit.ofNat (imageOf r))) &&
      p.trees.all (fun r => decide (rNum r 0 2 ≤ 1023) && treeImageOk active (Tree.ofNat (imageOf r))) &&
      p.branches.all (fun r => decide (rNum r 0 2 ≤ 1023) && decide (rNum r 2 2 ≤ 2047)) &&
      distinct (p.nodes.map (place 2 4 32)) && distinct (p.groups.map (place 0 0 0)) &&
      distinct (p.circuits.map (place 4 4 20)) && distinct (p.trees.map (place 2 2 16)) &&
      distinct (p.branches.map (place 2 2 16))
    if good then some p else none

/-! ### PLAN_LOAD (R206, R232, R233, R319, R360) -/

/-- The header and directory checks of R360: the plan's active count, module count and SEED, when they hold. -/
def planHead (sw : Nat) (image body : List Byte) : Option (Nat × Nat × Nat) :=
  let n := ofBytes ((image.drop 6).take 2)
  let mine := ((List.range n).map fun i => (image.drop (256 + 72 * i)).take 72).find? fun e => ofBytes (e.take 2) == sw
  match mine with
  | none => none
  | some e =>
    if ofBytes (image.take 2) == 0x5A50 && ofBytes ((image.drop 2).take 1) == 1 && image.length == 256 + 72 * n &&
        ofBytes ((e.drop 4).take 4) == body.length && sha512 body == (e.drop 8).take 64 then
      some (ofBytes ((image.drop 4).take 2), n, ofBytes ((image.drop 8).take 8))
    else none

/-- The labels on which a node of the plan that is no root emits its carries, standby entries with them. -/
def carryLabels (p : PlanRecs) : List (Nat × Nat) :=
  let own := (p.nodes.filter fun r => !nRoot (imageOf r)).map fun r => (rNum r 0 2, nOutCirc (imageOf r))
  let step (l : List (Nat × Nat)) : List (Nat × Nat) :=
    (l ++ (p.circuits.filter fun r => l.contains (rNum r 0 2, rNum r 4 4 % 2 ^ 20)).map fun r =>
      (rNum r 0 2, (Circuit.ofNat (imageOf r)).standby)).eraseDups
  p.circuits.foldl (fun l _ => step l) own

/-- A contribution or carry of the plan crosses a port where reduction is disabled (R233): a TC 2 entry that ends at a node,
one on which a node's carries leave, or one that joins two ports, which the records do not tell from a result's
(log entry 26). -/
def State.crossesOff (s : State) (p : PlanRecs) : Bool :=
  let off (q : Nat) : Bool := s.bit (PORT_LINK_STAT q) PORT_LINK_STAT_REDUCE_OFF
  let carries := carryLabels p
  p.circuits.any fun r =>
    let c := Circuit.ofNat (imageOf r)
    c.tc == 2 && c.kind ≤ 1 &&
      (if c.inLocal then c.kind == 0 && off c.outPort && carries.contains (rNum r 0 2, rNum r 4 4 % 2 ^ 20)
       else off c.inPort || (c.kind == 0 && off c.outPort))

/-- The widths of a lane map. -/
def widthsOf (l : List LaneRec) : List (Nat × Nat) := l.map fun r => (r.port, r.width)

/-- A plan's lane map in force: roles, expected peers, with the first one the widths, and the shared floor that was written
since (R319, R360, R362; spec/03_reservoir.md R90). -/
def State.takeLaneMap (s : State) (l : List LaneRec) : State :=
  let first := !s.mapFixed
  let s := ((s.putLaneMap l).putMapFixed true).putFloor (s.fld RSV_FLOOR RSV_FLOOR_SHARED_FLOOR)
  l.foldl (fun s r =>
    let s := s.setFld (PORT_ROLE r.port) PORT_ROLE_ROLE r.role
    let s := if first then
        (s.setFld (PORT_LINK_STAT r.port) PORT_LINK_STAT_WIDTH_MAP r.width).setFld (PORT_LINK_STAT r.port)
          PORT_LINK_STAT_WIDTH r.width
      else s
    if s.linkState r.port == linkDown || s.linkState r.port == linkTraining then s.expectPeer r.port else s) s

/-- PLAN_LOAD (R360) -/
def execPlanLoad (k : RingCmd) (s : State) : Host.Outcome State Fault Refusal :=
  ok s (s.powered fun s => s.command k 0x0010 true fun s =>
    let h := k.arg 16 1
    let (ia, il, ba, bl) := (k.arg 24 8, k.arg 32 4, k.arg 40 8, k.arg 48 4)
    if 16 ≤ h then (2, s)
    else if Table.has s.plans h then (1, s)
    else if !s.mayRead 0 ia il || !(bl == 0 || s.mayRead 0 ba bl) then (4, s)
    else
      let (image, s) := s.dataRead ia il
      let (body, s) := s.dataRead ba bl
      match planHead s.switchId image body with
      | none => (2, s)
      | some (active, modules, seed) =>
        match planRecs active body with
        | none => (2, s)
        | some p =>
          if s.mapFixed && widthsOf p.lanes != widthsOf s.laneMap then (2, s)
          else if active != s.active then (5, s)
          else if s.crossesOff p then (4, s)
          else
            let fp := sha512 image
            let s := (s.putPlans (Table.put natRank s.plans h ⟨false, active, modules, BitVec.ofNat 64 seed, fp, body⟩)).putPlanFp fp
            (0, (s.takeLaneMap p.lanes).jorouRewrite))

/-- PLAN_RETIRE (R358) -/
def execPlanRetire (k : RingCmd) (s : State) : Host.Outcome State Fault Refusal :=
  ok s (s.powered fun s => s.command k 0x0011 true fun s =>
    let h := k.arg 16 1
    if 16 ≤ h then (2, s)
    else if !Table.has s.plans h then (1, s)
    else if s.groupsBound.any fun g => (s.group g).plan == h then (6, s)
    else (0, (s.putPlans (Table.del s.plans h)).jorouRewrite))

/-- A plan entry marked STALE when its handle is in the list. -/
def Plan.mark (gone : List Nat) (e : Nat × Plan) : Nat × Plan :=
  if gone.contains e.1 then (e.1, { e.2 with stale := true }) else e

/-- A change of the active count marks plans STALE and holds their ACTIVE groups (R232). -/
def State.stalePlans (s : State) : State :=
  let gone := (s.plans.filter fun e => e.2.active != s.active && !e.2.stale).map Prod.fst
  let s := s.putPlans (s.plans.map (Plan.mark gone))
  (s.groupsBound.filter fun g => gone.contains (s.group g).plan && s.gState g == 2).foldl (fun s g => s.enterHold g 3) s

/-! ### Room in a Weir region (R213) -/

/-- Areas of the VALID nodes of a tile: address and bytes. -/
def State.weirAreas (s : State) (t : Nat) : List (Nat × Nat) :=
  ((s.listed (s.weirBase t) (256 * 1024) 256).filter fun n => nValid (s.nodeRec t n)).flatMap fun n =>
    let r := s.nodeRec t n
    (List.range (nWindow r)).flatMap fun j =>
      let e := nEntryBase r + j
      [(s.stageAddr t e, nStageBytes r), (s.runAddr t e, nRunBytes r), (s.recAddr t e, nRecBytes r)]

/-- The gaps between used areas, sorted by address, in [lo, hi). -/
def gapsOf (hi : Nat) : Nat → List (Nat × Nat) → List (Nat × Nat)
  | lo, [] => if lo < hi then [(lo, hi - lo)] else []
  | lo, (a, n) :: l => (if lo < a then [(lo, a - lo)] else []) ++ gapsOf hi (max lo (a + n)) l

/-- The first gap that holds `n` bytes, and the gaps left (log entry 28). -/
def takeGap (n : Nat) : List (Nat × Nat) → Option (Nat × List (Nat × Nat))
  | [] => none
  | (a, m) :: l =>
    if n ≤ m then some (a, if n = m then l else (a + n, m - n) :: l)
    else (takeGap n l).map fun r => (r.1, (a, m) :: r.2)

/-- The free part of a tile's Weir region. -/
def State.weirGaps (s : State) (t : Nat) : List (Nat × Nat) :=
  let r := s.weirRegion t
  if r.1 = r.2 then []
  else gapsOf (t * tileBytes + r.2) (s.weirBase t + 384 * 1024)
    ((s.weirAreas t).mergeSort fun a b => decide (a.1 ≤ b.1))

/-- The areas of `w` entries of a node placed, three for each entry. -/
def placeAreas (r : Nat) : Nat → List (Nat × Nat) → Option (List (Nat × Nat × Nat) × List (Nat × Nat))
  | 0, g => some ([], g)
  | w + 1, g =>
    match takeGap (nStageBytes r) g with
    | none => none
    | some (a, g) =>
      match takeGap (nRunBytes r) g with
      | none => none
      | some (b, g) =>
        match takeGap (nRecBytes r) g with
        | none => none
        | some (c, g) => (placeAreas r w g).map fun x => ((a, b, c) :: x.1, x.2)

/-- The directory of one node written; none when the free part cannot hold its areas. -/
def State.placeNode (s : State) (t r : Nat) : Option State :=
  if (s.weirRegion t).1 = (s.weirRegion t).2 then none
  else (placeAreas r (nWindow r) (s.weirGaps t)).map fun x =>
    ((List.range x.1.length).zip x.1).foldl (fun s e =>
      s.setBytes (s.weirBase t + 0x40000 + 32 * (nEntryBase r + e.1))
        (toBytes 8 e.2.1 ++ toBytes 8 e.2.2.1 ++ toBytes 8 e.2.2.2 ++ List.replicate 8 0)) s

/-! ### GROUP_BIND (R247, R363, R364) -/

/-- The node image as GROUP_BIND writes it. -/
def bindNode (x c fp : Nat) : Nat := putBits (putBits x (8 * 34) 12 c) (8 * 8) 64 fp

/-- The circuit image as GROUP_BIND writes it. -/
def bindCircuit (x c gen : Nat) : Nat := putBits (putBits x 65 12 c) 61 4 gen

/-- The tree image as GROUP_BIND writes it. -/
def bindTree (x c gen : Nat) : Nat := putBits (putBits x (8 * 160 + 14) 12 c) (8 * 160 + 10) 4 gen

/-- The group image as GROUP_BIND writes it: BOUND, counters and recording fields zero. -/
def bindGroup (x c handle fp : Nat) : Nat :=
  let x := putBits (putBits (putBits x 0 12 c) 16 12 handle) (8 * 8) 64 fp
  let x := putBits (putBits x (8 * 4) 3 1) (8 * 5 + 2) 1 0
  putBits (putBits x (8 * 40) 80 0) (8 * 64) 264 0

/-- Whether the entries of a node overlap those of a VALID node of the tile (R213). -/
def State.entriesOverlap (s : State) (t r : Nat) : Bool :=
  (s.listed (s.weirBase t) (256 * 1024) 256).any fun n =>
    let q := s.nodeRec t n
    nValid q && decide (nEntryBase r < nEntryBase q + nWindow q) && decide (nEntryBase q < nEntryBase r + nWindow r)

/-- The nodes of a group bound one after another: 6 for an entry in use, 3 for want of room. -/
def State.bindNodes (s : State) (c fp : Nat) : List Nat → Nat × State
  | [] => (0, s)
  | r :: l =>
    let t := rNum r 2 2
    let n := rNum r 4 2
    let x := bindNode (imageOf r) c fp
    if nValid (s.nodeRec t n) || s.entriesOverlap t x then (6, s)
    else
      match s.placeNode t x with
      | none => (3, s)
      | some s => (s.put (s.nodeAddr t n) (toBytes 256 x)).bindNodes c fp l

/-- The circuits of a group written. -/
def State.bindCircuits (s : State) (c : Nat) (l : List Nat) : State :=
  l.foldl (fun s r => s.put (circAddr s (rNum r 4 4 % 2 ^ 20)) (toBytes 16 (bindCircuit (imageOf r) c (s.genOf c)))) s

/-- The trees of a group written. -/
def State.bindTrees (s : State) (c : Nat) (l : List Nat) : State :=
  l.foldl (fun s r => s.put (treeAddr s (rNum r 2 2)) (toBytes 256 (bindTree (imageOf r) c (s.genOf c)))) s

/-- GROUP_BIND of group index `i` of plan `h` in context `c`: the status and the state after it. -/
def State.groupBind (s : State) (c h i : Nat) : Nat × State :=
  match Table.look s.plans h with
  | none => (2, s)
  | some p =>
    match planRecs p.active p.body with
    | none => (2, s)
    | some x =>
      let mine (l : List Nat) : List Nat := l.filter fun r => rNum r 0 2 == i
      match (mine x.groups).head? with
      | none => (2, s)
      | some g =>
        let handle := rNum g 2 2 % 4096
        let circ := mine x.circuits
        let trees := mine x.trees
        let nodes := mine x.nodes
        let fp := ofBytes (p.fp.take 8)
        let w := rNum (imageOf g) 28 2 % 8192
        let pond := circ.any fun r => (Circuit.ofNat (imageOf r)).tc == 2 && (Circuit.ofNat (imageOf r)).kind == 3
        if p.stale then (5, s)
        else if (s.findGroup c handle).isSome || circ.any (fun r => (s.circuit (rNum r 4 4 % 2 ^ 20)).valid) ||
            trees.any (fun r => (s.tree (rNum r 2 2)).valid) then (6, s)
        else
          match lowest 1024 fun n => s.gState n == 0 with
          | none => (3, s)
          | some n =>
            let owner := if pond then s.freeOwner else none
            if pond && (owner.isNone || decide ((s.pool 1).count < s.poolMinima 1 + w)) then (3, s)
            else
              match s.bindNodes c fp nodes with
              | (0, s) =>
                let s := match owner with
                  | some o => s.setOwner o ⟨1, 2, ownerKey c n, w, w, 0⟩
                  | none => s
                let s := (s.bindCircuits c circ).bindTrees c trees
                let s := s.put (groupAddr s n) (toBytes 256 (bindGroup (imageOf g) c handle fp))
                let s := (mine x.branches).foldl (fun s r => s.put (s.grp n 56 8 + 8 * rNum r 2 2) (toBytes 8 (imageOf r))) s
                (0, s.setGroup n { Group.init with
                  plan := h, index := i, pond := owner, branches := (mine x.branches).map fun r => rNum r 2 2,
                  nodes := nodes.map fun r => (rNum r 2 2, rNum r 4 2), labels := circ.map fun r => rNum r 4 4 % 2 ^ 20,
                  trees := trees.map fun r => rNum r 2 2 })
              | (st, _) => (st, s)

/-- GROUP_BIND (R363) -/
def execGroupBind (k : RingCmd) (s : State) : Host.Outcome State Fault Refusal :=
  ok s (s.powered fun s => s.command k 0x0020 false fun s =>
    s.groupBind k.ctx.toNat (k.arg 16 1) (k.arg 18 2))

/-- What GROUP_BIND wrote cleared, and the reservations freed. -/
def State.groupClear (s : State) (g : Nat) : State :=
  let x := s.group g
  let c := s.gCtx g
  let handle := s.gHandle g
  let s := s.freePonds g fun _ => true
  let s := x.nodes.foldl (fun s n =>
    let r := s.nodeRec n.1 n.2
    (s.zeroBytes (s.weirBase n.1 + 0x40000 + 32 * nEntryBase r) (32 * nWindow r)).zeroBytes (s.nodeAddr n.1 n.2) 256) s
  let s := x.labels.foldl (fun s l =>
    if (s.circuit l).ctx = c && (s.circuit l).group = handle then s.zeroBytes (circAddr s l) 16 else s) s
  let s := x.trees.foldl (fun s n => if (s.tree n).ctx = c then s.zeroBytes (treeAddr s n) 256 else s) s
  let s := x.branches.foldl (fun s b => s.zeroBytes (s.grp g 56 8 + 8 * b) 8) s
  let s := match x.pond with
    | some o => s.putOwners (Table.del s.owners o)
    | none => s
  (s.zeroBytes (groupAddr s g) 256).setGroup g Group.init

/-- The group that a command names by its handle (R364); an unknown one is UNBOUND. -/
def State.groupCmd (s : State) (k : RingCmd) (f : Nat → Nat × State) : Nat × State :=
  match s.findGroup k.ctx.toNat (k.arg 18 2) with
  | some g => f g
  | none => (1, s)

/-- GROUP_UNBIND (R238) -/
def execGroupUnbind (k : RingCmd) (s : State) : Host.Outcome State Fault Refusal :=
  ok s (s.powered fun s => s.command k 0x0021 false fun s => s.groupCmd k fun g =>
    if s.gState g != 1 then (1, s)
    else if !(s.groupEntries g).isEmpty then (6, s)
    else (0, (s.groupClear g).serve 1))

/-! ### Collectives -/

/-- Whether the group's plan is STALE. -/
def State.groupStale (s : State) (g : Nat) : Bool := (Table.look s.plans (s.group g).plan).any Plan.stale

/-- COLL_START (R240, R256) -/
def execCollStart (k : RingCmd) (s : State) : Host.Outcome State Fault Refusal :=
  ok s (s.powered fun s => s.command k 0x0022 false fun s => s.groupCmd k fun g =>
    let state := s.gState g
    if !s.gRoot g then (2, s)
    else if state != 1 && state != 3 then (1, s)
    else if k.arg 28 4 != s.gChunks g || k.arg 32 1 == 0 then (2, s)
    else if s.groupStale g then (5, s)
    else if state = 1 then (0, s.collStart g (k.arg 20 4) (k.arg 24 4) (k.arg 32 1))
    else (0, s.collResume g))

/-- COLL_ABORT (R238) -/
def execCollAbort (k : RingCmd) (s : State) : Host.Outcome State Fault Refusal :=
  ok s (s.powered fun s => s.command k 0x0023 false fun s => s.groupCmd k fun g =>
    if !s.gRoot g then (2, s)
    else if s.gState g != 2 && s.gState g != 3 then (1, s)
    else (0, s.collAbort g))

/-! ### Recording and replay (R260, R261) -/

/-- RECORD_START (R260): the ring lies in LPDDR5X, within a protection window of the context. -/
def execRecordStart (k : RingCmd) (s : State) : Host.Outcome State Fault Refusal :=
  ok s (s.powered fun s => s.command k 0x0080 false fun s => s.groupCmd k fun g =>
    let c := k.ctx.toNat
    let a := k.arg 32 8
    let n := k.arg 40 8
    if s.gState g != 1 && s.gState g != 2 then (1, s)
    else if 1 < k.arg 20 1 || a < lpddrBase || lpddrEnd < a + n then (2, s)
    else if !s.allowed c (s.genOf c) a n .any then (4, s)
    else
      let s := (((s.setGrp g 64 8 a).setGrp g 72 8 n).setGrp g 80 8 0).setGrp g 88 4 (k.arg 24 4)
      let s := (s.setGrp g 92 4 (k.arg 28 4)).setGrp g 96 1 (2 * k.arg 20 1)
      (0, (s.setGBit g 5 2 true).modGroup g fun x => { x with recSeq := 0 }))

/-- RECORD_STOP (R238) -/
def execRecordStop (k : RingCmd) (s : State) : Host.Outcome State Fault Refusal :=
  ok s (s.powered fun s => s.command k 0x0081 false fun s => s.groupCmd k fun g =>
    if s.gRecording g then (0, s.setGBit g 5 2 false) else (1, s))

/-- REPLAY_START (R261): the group is ACTIVE with REPLAY = 1 until the end of the ring. -/
def execReplayStartCommand (k : RingCmd) (s : State) : Host.Outcome State Fault Refusal :=
  ok s (s.powered fun s => s.command k 0x0082 false fun s => s.groupCmd k fun g =>
    let a := k.arg 24 8
    let n := k.arg 32 8
    if s.gState g != 1 then (1, s)
    else if n != 0 && !s.mayRead k.ctx.toNat a n then (4, s)
    else
      (0, ((s.setGState g 2).setGBit g 5 1 true).modGroup g fun x =>
        { x with replayBase := a, replayAt := 0, replaySize := n }))

end Sys2Proof.Machine
end

