-- ==== Sys2Proof/Machine/RegView.lean ====
section
/-! DEFINITION. Sys2Proof/Machine/RegView.lean: what a register shows. Most fields are stored; those that show the state of
an engine are computed here when they are read (log entry 11). -/

namespace Sys2Proof.Machine

/-! ### Where an address lies (R463, Table 11-1a) -/

/-- Bytes of one instance of a block. -/
def blockSpan (blk : Nat) : Nat :=
  match blk with
  | 1 => 0x10000
  | 2 => 0x1000
  | 3 => 0x4000
  | 12 => 5 * 2 ^ 20
  | 13 => 2 * 2 ^ 20
  | 17 => 256 * 1024
  | 18 => 3 * 2 ^ 20
  | 19 => 0x10000
  | _ => 0x1000

/-- The register at an address of the control region: its block, instance and offset; none outside every block. -/
def regAt (a : Nat) : Option Reg :=
  match blockTable.find? fun b => decide (b.2.2.1 ≤ a) && decide (a < b.2.2.1 + b.2.1 * blockSpan b.1) with
  | some b => some ⟨b.1, (a - b.2.2.1) / blockSpan b.1, (a - b.2.2.1) % blockSpan b.1⟩
  | none => none

/-- Its address. -/
def Reg.addr (r : Reg) : Nat :=
  match blockTable.find? fun b => b.1 == r.blk with
  | some b => b.2.2.1 + b.2.2.2 * r.inst + r.off
  | none => 0

/-! ### Views -/

/-- Numbers laid side by side in fields of `w` bits. -/
def packed (w : Nat) (l : List Nat) : Nat := l.foldr (fun v a => v % 2 ^ w + a * 2 ^ w) 0

/-- A tile's threads are all IDLE: it belongs to no context (spec/06_flume_tile.md R137). -/
def Tile.idle (x : Tile) : Bool := (List.range 16).all fun h => (x.thread h).st == .idle

/-- Registers of a tile block (spec/06_flume_tile.md Table 6-10, spec/08_weir_reduction.md Table 8-11). -/
def State.tileView (s : State) (t off : Nat) : Option Nat :=
  let x := s.tile t
  if off = 0x008 then
    some (if x.idle then 0 else x.ctx * 2 ^ 32) |>.map fun c =>
      c + (match s.physTile t with | some p => p * 2 ^ 16 + 2 ^ 8 | none => 0)
  else if off = 0x010 then some (packed 4 ((List.range 16).map fun h => (x.thread h).st.code))
  else if 0x040 ≤ off && off < 0x060 then
    some (packed 8 ((List.range 8).map fun n =>
      match (x.acc ((off - 0x040) + n)).owner with | some h => 0x80 + h | none => 0))
  else if 0x060 ≤ off && off < 0x080 then
    some (packed 8 ((List.range 8).map fun n => wrapInt 8 (x.acc ((off - 0x060) + n)).offset))
  else if off = 0x0A0 then
    some (packed 5 ((List.range 8).map fun k =>
      match x.tq.find? fun q => q.slot == k with | some q => 16 + q.thread | none => 0))
  else if 0x200 ≤ off && off < 0x280 then some ((x.thread ((off - 0x200) / 8)).pc.toNat % 2 ^ 48)
  else if 0x400 ≤ off && off < 0x600 then some (x.ccGet ((off - 0x400) / 8))
  else if off = 0x808 then
    some (x.cq.length * 2 ^ 32 + x.entries.countP fun e => e.2.st != .free)
  else none

/-- Registers of a port block (spec/02_cells_and_routes.md Table 2-12, spec/03_reservoir.md Table 3-5). -/
def State.portView (s : State) (p off : Nat) : Option Nat :=
  let stored := (s.rd ⟨2, p, off⟩).toNat
  if off = 0x058 then
    let used := (List.range 16).foldl (fun n v => n + s.reservedUsed p v) 0
    some (bitsOf stored 63 1 * 2 ^ 63 + used * 2 ^ 22 + s.sharedUsed p)
  else if 0x080 ≤ off && off < 0x100 then
    let c := s.vc p ((off - 0x080) / 8)
    some ((c.peerCred + 65536 - c.sent % 65536) % 65536 * 2 ^ 16 + bitsOf stored 0 16)
  else if 0x180 ≤ off && off < 0x200 then
    let v := (off - 0x180) / 8
    some (min (s.q p v).length 0xFFFFF * 2 ^ 32 + (s.vc p v).granted)
  else none

/-- Registers of a pool, and the owner entries (spec/11_memory_and_pools.md R317). -/
def State.poolView (s : State) (off : Nat) : Option Nat :=
  if 0x100 ≤ off && off < 0x1100 then
    let p := (off - 0x100) / 64
    let x := s.pool p
    match (off - 0x100) % 64 with
    | 0x00 => some (x.state * 2 ^ 62 + x.loc * 2 ^ 60 + x.size * 2 ^ 56 + flag x.ring * 2 ^ 55 + x.ctx * 2 ^ 40 + x.count)
    | 0x08 => some x.base
    | 0x10 => some x.metaBase
    | 0x18 => some (s.poolFree p * 2 ^ 32 + s.poolShort p)
    | 0x20 => some (s.waiters.countP fun w => w.pool == p)
    | _ => none
  else if 0x10000 ≤ off && off < 0x10000 + 32 * 4096 then
    match s.owner ((off - 0x10000) / 32) with
    | none => some 0
    | some o =>
      match (off - 0x10000) % 32 with
      | 0 => some (2 ^ 63 + o.pool * 2 ^ 56 + o.kind * 2 ^ 48 + o.key)
      | 8 => some (o.max * 2 ^ 32 + o.min)
      | 16 => some o.used
      | _ => some 0
  else none

/-- The privileged session, if one is open (spec/13 R351). -/
def State.privSession (s : State) : Option Nat := (s.sessions.find? fun e => e.2.opened && e.2.priv).map Prod.fst

/-- A window onto bytes: the doubleword at offset `i` of `l`. -/
def wordOf (l : List Byte) (i : Nat) : Nat := ofBytes ((l.drop i).take 8)

/-- The stored or computed bits of a register, every RO field as the module maintains it. -/
def State.view (s : State) (r : Reg) : Nat :=
  let stored := (s.rd r).toNat
  match r.blk with
  | 1 => (s.tileView r.inst r.off).getD stored
  | 2 => (s.portView r.inst r.off).getD stored
  | 5 =>
    if r.off = 0x008 then s.reservedSlots * 2 ^ 32 + s.freeShared
    else if r.off = 0x020 then Config.descriptors - s.descUsed
    else stored
  | 6 => if r.off = 0x020 then s.cycle else stored
  | 8 =>
    if r.off = 0x010 then
      let used := s.groupsBound.foldl (fun n g => n + (s.group g).chunks.countP fun c => c.2.pond.isSome) 0
      let reserved := s.owners.foldl (fun n o => if o.2.kind = 2 then n + o.2.min else n) 0
      used * 2 ^ 32 + reserved
    else stored
  | 12 => (s.poolView r.off).getD stored
  | 13 =>
    if 0x100000 ≤ r.off then wordOf ((s.ledger.getD ((r.off - 0x100000) / 128) ⟨0, 0, 0, 0, 0, 0, [], []⟩).bytes)
      ((r.off - 0x100000) % 128) * flag (decide ((r.off - 0x100000) / 128 < s.ledger.length))
    else stored
  | 16 =>
    if r.off = 0x030 then s.sessions.foldl (fun n e => if e.2.opened then n + 2 ^ e.1 else n) 0
    else if r.off = 0x038 then (match s.privSession with | some k => 2 ^ 8 + k | none => 0)
    else stored
  | 17 => if r.off = 0 then stored + 2 ^ 62 + s.keyMask 0 * 2 ^ 32 else stored
  | 18 =>
    if 0x100000 ≤ r.off then
      match Table.look s.wb.relay ((r.off - 0x100000) / 2048) with
      | some h => s.load (handleAddr h + (r.off - 0x100000) % 2048) 8
      | none => 0
    else stored
  | 19 =>
    if 0x1000 ≤ r.off && r.off < 0x9000 then
      match s.session ((r.off - 0x1000) / 512) with
      | some x => if x.opened then wordOf x.attest ((r.off - 0x1000) % 512) else 0
      | none => 0
    else stored
  | _ => stored

/-- Blocks whose registers lie in the core clock domain (spec/15_power_clocks_security.md Table 15-3). -/
def coreBlocks : List Nat := [1, 2, 4, 5, 6, 7, 8, 9, 10, 12]

/-- The crossing between the management domain and a register's block, if there is one (Table 15-4). DEDUCED: the registers of
the memory controllers lie behind theirs and those of the host port behind the host MAC's (log entry 40). -/
def crossingOf (r : Reg) : Option Nat :=
  if r.blk = 3 then some (0x0C0 + r.inst)
  else if coreBlocks.contains r.blk then some 0x002
  else if r.blk = 11 then some 0x003
  else if r.blk = 16 then some 0x004
  else none

/-- Whether an access to the register meets a crossing that is STUCK or QUIESCED (R419, R420). -/
def State.cutOff (s : State) (r : Reg) : Bool := (crossingOf r).any s.crossed

/-- A transfer toward the register's block that ends with an error is counted. -/
def State.cutCount (s : State) (r : Reg) : State :=
  match crossingOf r with
  | some i => if s.crossed i then s.lost i else s
  | none => s

/-- The poisoned bytes of pool 3 that a read of the relay window would return, if any (spec/11_memory_and_pools.md Table
11-3a). -/
def State.relayBad (s : State) (r : Reg) : Option Nat :=
  if r.blk = 18 && 0x100000 ≤ r.off then
    (Table.look s.wb.relay ((r.off - 0x100000) / 2048)).bind fun h =>
      let a := handleAddr h + (r.off - 0x100000) % 2048
      if s.poisoned a 8 then some a else none
  else none

/-- The same for the doubleword at `a` of the control region. -/
def State.relayError (s : State) (a : Nat) : Option Nat := (regAt a).bind s.relayBad

/-- The pool operations of the BPM block: no registers, and they answer agents of the module alone
(spec/11_memory_and_pools.md R318). -/
def isPoolOp (r : Reg) : Bool := r.blk == 12 && decide (0x100000 ≤ r.off)

/-- The debug window of a tile block (spec/13 R370). -/
def isDebug (r : Reg) : Bool := r.blk == 1 && decide (0x8000 ≤ r.off)

/-- An offset at which the block lists a register: one of its map, a pool or owner entry, a ledger entry, a relay record, an
attestation report. -/
def listedReg (r : Reg) : Bool :=
  (regRow? r).isSome || (r.blk == 12 && decide (0x10000 ≤ r.off)) || (r.blk == 13 && decide (0x100000 ≤ r.off)) ||
    (r.blk == 18 && decide (0x100000 ≤ r.off)) || (r.blk == 19 && decide (0x1000 ≤ r.off) && decide (r.off < 0x9000))

/-- A read of the aligned doubleword at `a` of the control region: its value, or none for an address error; RC fields are
left with the update of that cycle (R6, R7, R294). -/
def State.regRead (s : State) (a : Nat) (update : Nat) : Option Nat × State :=
  if a % 8 != 0 then (none, s)
  else match regAt a with
    | none => (none, s)
    | some r =>
      if s.cutOff r then (none, s.cutCount r)
      else if isPoolOp r then (none, s)
      else if let some b := s.relayBad r then (none, s.ueRead b)
      else if isDebug r then ((s.debugWord r.inst r.off).map BitVec.toNat, s)
      else match regRow? r with
        | none => (some (if listedReg r then s.view r else 0), s)
        | some row =>
          let t := if row.fields.any fun f => f.acc == .rc then
              s.wr r (BitVec.ofNat 64 (readFields row.fields (s.rd r).toNat update)) else s
          (some (shownFields row.fields (s.view r)), t)

/-- RC_READ (R7): a register read in a core cycle in which the module's own update of it is `update`. -/
def execRcRead (reg : BitVec 48) (update : Word) (s : State) : Host.Outcome State Fault Refusal :=
  ok s (s.powered fun s =>
    let a := reg.toNat
    if a < controlBase || controlEnd ≤ a then s
    else
      let (v, s) := s.regRead a update.toNat
      s.emit (.read a (v.map (BitVec.ofNat 64))))

/-- DEBUG_WINDOW_READ (spec/13 R370): the doubleword at `offset` of the tile's block, or ADDRESS. -/
def execDebugWindowRead (t : Fin 256) (offset : BitVec 16) (s : State) : Host.Outcome State Fault Refusal :=
  let off := offset.toNat / 8 * 8
  let a := controlBase + 0x10000 * t + off
  ok s (s.powered fun s =>
    if off < 0x8000 then s
    else
      let (v, s) := s.regRead a 0
      s.emit (.read a (v.map (BitVec.ofNat 64))))

end Sys2Proof.Machine
end

