-- ==== Sys2Proof/Machine/Hangs.lean ====
section
/-! DEFINITION. Sys2Proof/Machine/Hangs.lean: what the ditch rider finds in one scan: the waiting nodes of Table 14-4, the
edges it keeps between two scans, and the hangs of Table 14-5 (spec/14_faults_and_recovery.md R382-R385). -/

namespace Sys2Proof.Machine

/-! ### Member descriptors (Table 14-4) -/

/-- KIND in [63:56], CTX in [55:44], ID in [43:0]. -/
def member (kind ctx id : Nat) : Word := BitVec.ofNat 64 (kind * 2 ^ 56 + ctx * 2 ^ 44 + id)
def memberKind (d : Word) : Nat := bitsOf d.toNat 56 8
def memberCtx (d : Word) : Nat := bitsOf d.toNat 44 12
def memberId (d : Word) : Nat := bitsOf d.toNat 0 44

/-- Crossbar port and channel in an ID. -/
def lineId (p v : Nat) : Nat := p * 2 ^ 8 + v

/-- The node of an output queue. -/
def queueNode (o v : Nat) : Word := if isFabric o then member 1 0 (lineId o v) else member 4 0 (lineId o v)

/-- The node of an input channel. -/
def inputNode (i v : Nat) : Word := if isFabric i then member 2 0 (lineId i v) else member 3 0 (lineId i v)

def threadNode (ctx t h : Nat) : Word := member 5 ctx (t * 2 ^ 8 + h)
def entryNode (ctx t e : Nat) : Word := member 6 ctx (t * 2 ^ 16 + e)

/-- The context of a member, if it has one. -/
def memberOwner (d : Word) : Option Nat := if 5 ≤ memberKind d && memberCtx d != 0 then some (memberCtx d) else none

/-! ### The waiting nodes -/

/-- Output queues that hold a cell which `p` selects. -/
def State.queuesWith (s : State) (p : Slot → Bool) : List Word :=
  (s.queues.filter fun e => e.2.any fun q => (Table.look s.slots q.slot).any p).map fun e => queueNode (e.1 / 16) (e.1 % 16)

/-- KIND 1: fabric output queues that wait on a gate, which never opens when it is closed in every entry (R104), or on peer
credit. -/
def State.nodesOut (s : State) : List WNode :=
  s.queues.filterMap fun e =>
    let p := e.1 / 16
    let v := e.1 % 16
    if !isFabric p || e.2.isEmpty || !s.live p then none
    else
      let l := s.gateList p (s.gateBank p)
      if !s.gateOpen p v then
        some ⟨queueNode p v, 2, [], (s.vc p v).sent, (List.range l.length).all fun i => !opens l i v, false⟩
      else if !(s.vc p v).hasCredit then some ⟨queueNode p v, 1, [], (s.vc p v).sent, false, true⟩
      else none

/-- KIND 2: fabric input channels whose cells hold reserved slots. -/
def State.nodesIn (s : State) : List WNode :=
  (((s.slots.filter fun e => isFabric e.2.input && (e.2.charge == .reserved || e.2.charge == .carried)).map
      fun e => (e.2.input, e.2.vc)).eraseDups).map fun k =>
    ⟨inputNode k.1 k.2, 3, s.queuesWith fun x => x.input == k.1 && x.vc == k.2 &&
      (x.charge == .reserved || x.charge == .carried), (s.vc k.1 k.2).cred, false, false⟩

/-- KIND 3: internal inputs stalled on slots. -/
def State.nodesInternal (s : State) : List WNode :=
  s.xin.filterMap fun e =>
    match e.2 with
    | (v, _) :: _ =>
      if !isFabric e.1 && !s.internalRoom e.1 v then
        some ⟨inputNode e.1 v, 4, s.queuesWith fun x => x.input == e.1 && x.vc == v, (s.vc e.1 v).cred, false, false⟩
      else none
    | [] => none

/-- The entry at which the held head of a tile's Weir waits (spec/08_weir_reduction.md R215). -/
def State.heldAt (s : State) (t : Nat) (k : Cell) : Word :=
  let r := s.nodeRec t (hCirc k.h / 1024)
  let e := nEntryBase r + hdWire r k.pay % max 1 (nWindow r)
  entryNode (nCtx (s.nodeRec t ((s.tile t).entry e).node)) t e

/-- KIND 4: internal output queues whose agent takes no cell: those of a Weir that holds its input, the held head's with
them, or that is disabled. -/
def State.nodesAgents (s : State) : List WNode :=
  s.queues.filterMap fun e =>
    let o := e.1 / 16
    let v := e.1 % 16
    if isFabric o || e.2.isEmpty || s.accepts o v then none
    else
      let holder := match (if s.weirHolds (o - 1025) then s.offered (o - 1025) else none) with
        | some k => [s.heldAt (o - 1025) k]
        | none => []
      some ⟨queueNode o v, 5, holder, (s.vc o v).sent, false, false⟩

/-- Threads of a context: logical tile, thread, state. -/
def State.threadsOf (s : State) (c : Nat) : List (Nat × Nat × Thread) :=
  (s.tiles.filter fun e => e.2.ctx == c).flatMap fun e => e.2.threads.map fun h => (e.1, h.1, h.2)

/-- A thread that nothing will make go on. -/
def Tile.gone (x : Tile) (h : Nat) : Bool := (x.thread h).st == .stopped || (x.thread h).st == .idle

/-- Whether a semaphore word may be posted from outside: a fabric window of the context with AT = 1 covers it (R384). -/
def State.postedFromOutside (s : State) (c a : Nat) : Bool :=
  (s.listed (s.rd MEMT_BASE).toNat (1024 * 32) 32).any fun i =>
    let x := s.fabWindow i
    x.valid && x.at_ && x.ctx == c && decide (x.base ≤ a) && decide (a + 8 ≤ x.base + x.size)

/-- What a waiting thread waits on: the kind of thing, the nodes, and whether it can never come; none is a work wait. -/
def State.threadWait (s : State) (t h : Nat) : Option (Nat × List Word × Bool) :=
  let x := s.tile t
  let mine (i : Item) : Bool := match i with | .req r => r.tile == t && r.thread == h | _ => false
  let others (l : List Nat) : List Word × Bool := (l.map fun g => threadNode x.ctx t g, l.any x.gone)
  match x.waitOf h with
  | .none =>
    -- a thread that is killed waits for the requests it has outstanding (spec/06_flume_tile.md R169)
    if (x.thread h).ending && (x.thread h).st == .stopped then some (14, s.queuesWith (fun k => mine k.item), false) else none
  | .take _ => none
  | .acq i j =>
    let l := ((List.range (j + 1 - i)).filterMap fun n => (x.acc (i + n)).owner).eraseDups.filter (· != h)
    some (10, others l)
  | .tailwater =>
    -- any entry that is freed lets the thread go on: it waits on itself when it holds them all
    let l := (x.tq.map TqEntry.thread).eraseDups
    let l := if l.all (· == h) then l else l.filter (· != h)
    some (11, l.map fun g => threadNode x.ctx t g, !l.isEmpty && l.all x.gone)
  | .barrier =>
    some (12, others (match x.barrier with
      | some (m, l) => (List.range 16).filter fun g => m.getLsbD g && !l.contains g
      | none => []))
  | .sem a _ =>
    if s.postedFromOutside x.ctx a then none
    else some (13, (((s.threadsOf x.ctx).filter fun e => (e.1, e.2.1) != (t, h) && e.2.2.st != .idle &&
      !(match (s.tile e.1).waitOf e.2.1 with | .sem _ _ => true | _ => false)).map fun e => threadNode x.ctx e.1 e.2.1), false)
  | _ => some (14, s.queuesWith (fun k => mine k.item), false)

/-- KIND 5: threads in WAIT. -/
def State.nodesThreads (s : State) : List WNode :=
  s.tiles.flatMap fun e => e.2.threads.filterMap fun h =>
    if s.ctxState e.2.ctx == 2 && e.2.ctx != 0 then none
    else (s.threadWait e.1 h.1).map fun w => ⟨threadNode e.2.ctx e.1 h.1, w.1, w.2.1, h.2.issued, w.2.2, false⟩

/-- Input channels that feed the labels of a node: circuits that deliver to it. -/
def State.feeds (s : State) (t n : Nat) : List Word :=
  ((s.circuitLabels.map s.circuit).filter fun c => c.valid && c.kind == 1 && c.outPort % 256 == t && c.outCirc / 1024 == n).flatMap
    fun c => [inputNode c.inPort (2 * c.tc), inputNode c.inPort (2 * c.tc + 1)]

/-- Cells accepted and sent of an entry. -/
def Tile.entryProgress (x : Tile) (e : Nat) : Nat :=
  ((x.entry e).slots.foldl (fun n c => n + c.2.got + flag c.2.masked) 0) + (x.entry e).slots.length + (x.entry e).finals +
    (x.posts.filter fun p => p.entry == e).foldl (fun n p => n + p.sent) 0

/-- KIND 6: Weir entries that are OPEN, TAKEN or SENDING; an OPEN entry of an ACTIVE or HOLD group is a work wait. -/
def State.nodesEntries (s : State) : List WNode :=
  s.tiles.flatMap fun x => x.2.entries.filterMap fun e =>
    let t := x.1
    let r := s.nodeRec t e.2.node
    let c := nCtx r
    let d := entryNode c t e.1
    let n := x.2.entryProgress e.1
    if s.ctxState c == 2 && c != 0 then none
    else match e.2.st with
      | .opened =>
        if (s.findGroup c (nGroup r)).any fun g => s.gState g == 2 || s.gState g == 3 then none
        else some ⟨d, 20, s.feeds t e.2.node, n, false, false⟩
      | .taken =>
        match e.2.takenBy with
        | some h => some ⟨d, 21, [threadNode x.2.ctx t h], n, (x.2.thread h).st == .stopped, false⟩
        | none => none
      | .sending => some ⟨d, 22, [inputNode (tileOutput t) 4, inputNode (tileOutput t) 5], n, false, false⟩
      | _ => none

/-- The ring that is served before one of rank `n`: a head command waits for its turn, as a command that has been read completes
at once (log entry 52). -/
def State.ringBefore (s : State) (n : Nat) : List Word :=
  ((s.nextRing.filter (· != n)).map fun m => member 7 (m / 64) (m % 64)).toList

/-- KIND 7: rings with pending entries that are not halted. -/
def State.nodesRings (s : State) : List WNode :=
  ((List.range 4096).filter fun c => c == 0 || s.ctxState c == 1).flatMap fun c => (s.ringNumbers c).filterMap fun r =>
    match s.ring? c r with
    | some x =>
      if x.head != x.tail && !s.ringHalted c r then some ⟨member 7 c r, 30, s.ringBefore (ringRank c r), x.head, false, false⟩
      else none
    | none => none

/-- The agents that hold buffers of a pool, for the owners named on them: threads of an owning context, the dispatcher of an
owning EHT. -/
def State.poolHolders (s : State) (p : Nat) : List Word :=
  (((s.bufs.filter fun e => (s.pool p).holds e.1).flatMap fun e => e.2.owners).filterMap s.owner).eraseDups.flatMap (fun o =>
    if o.kind = 1 then (s.threadsOf (o.key / 2 ^ 20)).map fun h => threadNode (o.key / 2 ^ 20) h.1 h.2.1
    else if o.kind = 3 then [member 9 (o.key / 2 ^ 20) (o.key % 2 ^ 20 / 256)]
    else []) |>.eraseDups

/-- The waiter of the dispatcher's port, as a node of the buffer pool manager. -/
def State.portWaiter (s : State) (p : Nat) : List Word :=
  ((s.waiters.filter fun w => w.asker == .port p).map fun w =>
    member 8 (((s.owner w.owner).bind Owner.ctx).getD 0) (w.pool * 2 ^ 16 + w.owner))

/-- KIND 8: waiters of the BPM. Grants are counted by the tickets that the pool has given out. -/
def State.nodesWaiters (s : State) : List WNode :=
  let owner (w : Waiter) : Nat := ((s.owner w.owner).bind Owner.ctx).getD 0
  (s.waiters.filter fun w => s.ctxState (owner w) != 2).map fun w =>
    let c := owner w
    ⟨member 8 c (w.pool * 2 ^ 16 + w.owner), 40, s.poolHolders w.pool,
      s.bufs.foldl (fun n b => n + b.2.ticket + flag b.2.alloc.isSome) 0, false, false⟩

/-- KIND 9: dispatchers that wait, on a pool buffer for a token at a port, on a combine entry, which a stage that sends a
result frees, or on a Reservoir slot (spec/10_expert_and_headwater.md R271). Waits for a ROLL, for returns, and for the
buffers that tokens not yet decided hold are work waits. -/
def State.nodesDispatch (s : State) : List WNode :=
  (List.range 16).flatMap fun h =>
    let node (on : Nat) (l : List Word) : WNode := ⟨member 9 (s.ehtCtx h) h, on, l, (s.rd EXP_TOKENS).toNat, false, false⟩
    let ports := (s.tokenWaits.filter fun e => e.2.1 == h).flatMap fun e => s.portWaiter e.1
    if !s.ehtValid h || s.ctxState (s.ehtCtx h) == 2 then []
    else if !ports.isEmpty && (s.eht h).tokens.isEmpty then [node 51 ports]
    else match s.entryWait h with
      | some t => [node 52 (if (s.tile t).combTx.isEmpty then [] else [inputNode (tileOutput t) 8])]
      | none => if s.slotWait then [node 50 [inputNode mgmtOutput 8]] else []

/-- Every waiting node, in the order of KIND. -/
def State.waitNodes (s : State) : List WNode :=
  s.nodesOut ++ s.nodesIn ++ s.nodesInternal ++ s.nodesAgents ++ s.nodesThreads ++ s.nodesEntries ++ s.nodesRings ++
    s.nodesWaiters ++ s.nodesDispatch

/-! ### Kept nodes and hangs (R383, R384) -/

/-- Whether a node was waiting at the previous scan on the same kind of thing without progress since. -/
def keptIn (old : List WNode) (n : WNode) : Bool :=
  old.any fun o => o.desc == n.desc && o.on == n.on && o.progress == n.progress

/-- Members that `front` reaches over the edges of `g` within `fuel` steps. -/
def reachFrom (g : List WNode) : Nat → List Word → List Word
  | 0, front => front
  | k + 1, front =>
    let next := (g.filter fun n => front.contains n.desc).flatMap WNode.targets
    reachFrom g k ((front ++ next.filter fun d => g.any fun n => n.desc == d).eraseDups)

/-- The members that a node's edges reach. -/
def WNode.reach (g : List WNode) (n : WNode) : List Word :=
  reachFrom g g.length ((n.targets.filter fun d => g.any fun m => m.desc == d).eraseDups)

/-- Order of members in an event: KIND, then ID. -/
def memberBefore (a b : Word) : Bool :=
  decide (memberKind a * 2 ^ 44 + memberId a ≤ memberKind b * 2 ^ 44 + memberId b)

/-- The cycles among kept nodes: for each, its members in order. -/
def cyclesOf (g : List WNode) : List (List Word) :=
  let r := g.map fun n => (n.desc, n.reach g)
  let reaches (a b : Word) : Bool := r.any fun e => e.1 == a && e.2.contains b
  ((g.filter fun n => reaches n.desc n.desc).map fun n =>
    ((g.map WNode.desc).filter fun d => reaches n.desc d && reaches d n.desc).mergeSort memberBefore).eraseDups

/-- The hangs of one scan: kind of Table 14-5 and members. -/
def hangsOf (g : List WNode) (stalls : List (Word × Nat)) (limit : Nat) : List (Nat × List Word) :=
  (cyclesOf g).map (fun m => (1, m)) ++ (g.filter WNode.dead).map (fun n => (2, [n.desc])) ++
    (stalls.filter fun e => decide (limit ≤ e.2)).map fun e => (3, [e.1])

/-! ### The class of a hang (R385) -/

/-- Where a member lies: a fabric port, a logical tile, or neither. -/
def memberPort (d : Word) : Option Nat := if memberKind d ≤ 2 then some (memberId d / 256) else none
def memberTile (d : Word) : Option Nat :=
  match memberKind d with
  | 3 => let p := memberId d / 256; if 1025 ≤ p && p < 1281 then some (p - 1025) else none
  | 4 => let p := memberId d / 256; if 1025 ≤ p && p < 1281 then some (p - 1025) else none
  | 5 => some (memberId d / 256)
  | 6 => some (memberId d / 65536)
  | _ => none

/-- The tile of a member that belongs to no context. -/
def memberTileOnly (d : Word) : Option Nat := if memberKind d ≤ 4 then memberTile d else none

/-- Whether all of a list have the same value of `f`, and have one. -/
def allSame (f : Word → Option Nat) (l : List Word) : Bool :=
  match l with
  | [] => false
  | a :: _ => (f a).isSome && l.all fun b => f b == f a

/-- The class of the smallest unit that contains every member. -/
def State.hangClass (s : State) (l : List Word) : Nat :=
  if allSame memberOwner l then 1
  else if allSame memberPort l || allSame memberTileOnly l then 2
  else if allSame (fun d => (memberPort d).map (· / 8)) l || allSame (fun d => (memberTile d).map s.clusterOf) l then 3
  else 4

end Sys2Proof.Machine
end

