-- ==== Sys2Proof/Machine/Capture.lean ====
section
/-! DEFINITION. Sys2Proof/Machine/Capture.lean: the state capture (spec/14_faults_and_recovery.md R386, R387, Table 14-6).
What a section's records hold the spec names; how they are laid out in bytes it does not say (log entry 50). -/

namespace Sys2Proof.Machine

/-! ### The scope of a capture -/

/-- Logical tiles in the scope: those of the reset, every one for a capture of the whole module, those of the members for a
hang. -/
def State.capTiles (s : State) (c : Capture) : List Nat :=
  match c.op with
  | some o => (List.range 256).filter fun t => s.bound t && s.opHasTile o t
  | none => if c.tray then (List.range 256).filter s.bound else (c.members.filterMap memberTile).eraseDups

/-- Fabric ports in the scope. -/
def State.capPorts (c : Capture) : List Nat :=
  match c.op with
  | some o => (List.range 1024).filter o.hasPort
  | none => if c.tray then List.range 1024 else (c.members.filterMap memberPort).eraseDups

/-- The whole module is captured. -/
def Capture.whole (c : Capture) : Bool :=
  match c.op with
  | some o => o.unit == 6
  | none => c.tray

/-! ### Sections -/

/-- NODES: member descriptor, kind of thing waited on, first node waited on, progress count. -/
def State.capNodes (s : State) (c : Capture) : List Byte :=
  let tiles := s.capTiles c
  let ports := State.capPorts c
  let mine (d : Word) : Bool := c.whole || c.members.contains d || (memberTile d).any tiles.contains ||
    (memberPort d).any ports.contains
  (s.waitNodes.filter fun n => mine n.desc).flatMap fun n =>
    toBytes 8 n.desc.toNat ++ toBytes 8 n.on ++ toBytes 8 ((n.targets.head?.getD 0).toNat) ++ toBytes 8 n.progress

/-- A number for the reason of a wait. -/
def Wait.code : Wait → Nat
  | .none => 0
  | .reg _ _ => 1
  | .room _ => 2
  | .acq _ _ => 3
  | .rel _ _ => 4
  | .tailwater => 5
  | .row => 6
  | .mmaQueue => 7
  | .cc _ _ => 8
  | .sem _ _ => 9
  | .take _ => 10
  | .barrier => 11
  | .fence => 12
  | .stream _ _ => 13

/-- THREADS: tile, thread, state, wait reason, PC, s0-s31, m0-m7. -/
def State.capThreads (s : State) (c : Capture) : List Byte :=
  (s.capTiles c).flatMap fun t => (List.range 16).flatMap fun h =>
    let y := s.thread t h
    toBytes 2 t ++ toBytes 1 h ++ toBytes 1 y.st.code ++ toBytes 4 y.wait.code ++ toBytes 8 y.pc.toNat ++
      ((List.range 32).flatMap fun n => toBytes 8 (y.getS n).toNat) ++
      (List.range 8).flatMap fun n => toBytes 32 (y.getM n).toNat

/-- ACCUMULATORS: tile, TILE_ACC_OWN, TILE_ACC_T, TILE_TQ_STAT. -/
def State.capAccs (s : State) (c : Capture) : List Byte :=
  (s.capTiles c).flatMap fun t =>
    toBytes 8 t ++ ([0x40, 0x48, 0x50, 0x58, 0x60, 0x68, 0x70, 0x78, 0xA0].flatMap fun o => toBytes 8 (s.view ⟨1, t, o⟩))

/-- ATTEMPT of the chunk that an entry holds. -/
def State.entryAttempt (s : State) (t : Nat) (y : Entry) : Nat :=
  let r := s.nodeRec t y.node
  match s.findGroup (nCtx r) (nGroup r) with
  | some g => (s.chunkOf g y.chunk).attempt
  | none => 0

/-- A number for the state of an entry (spec/08_weir_reduction.md Table 8-4, in its order). -/
def EState.code : EState → Nat
  | .free => 0 | .opened => 1 | .queued => 2 | .taken => 3 | .sending => 4

/-- WEIR: tile, entry, state, ATTEMPT, chunk, node of each of the tile's 4,096 entries. -/
def State.capWeir (s : State) (c : Capture) : List Byte :=
  (s.capTiles c).flatMap fun t => (List.range 4096).flatMap fun e =>
    let y := (s.tile t).entry e
    toBytes 2 t ++ toBytes 2 e ++ toBytes 1 y.st.code ++ toBytes 3 (if y.st == .free then 0 else s.entryAttempt t y) ++
      toBytes 4 y.chunk ++ toBytes 4 y.node

/-- BPM: pool registers and waiters, of a capture that reaches beyond one engine. -/
def State.capBpm (s : State) (c : Capture) : List Byte :=
  if c.whole || c.members.any (fun d => memberKind d == 8) then
    ((List.range 64).flatMap fun p => [0, 8, 16, 24, 32].flatMap fun o => toBytes 8 (s.view ⟨12, 0, 0x100 + 64 * p + o⟩)) ++
      s.waiters.flatMap fun w => toBytes 4 w.pool ++ toBytes 4 w.owner
  else []

/-- RINGS: context, ring, HEAD, TAIL and head entry of the rings involved. -/
def State.capRings (s : State) (c : Capture) : List Byte :=
  (s.nodesRings.filter fun n => c.whole || c.members.contains n.desc).flatMap fun n =>
    match s.ring? (memberCtx n.desc) (memberId n.desc) with
    | some x => toBytes 4 (memberCtx n.desc) ++ toBytes 4 (memberId n.desc) ++ toBytes 8 x.head ++
        toBytes 8 (s.ringTail x) ++ s.bytes (x.entry x.head) 64
    | none => []

/-- The offsets of a row's registers. -/
def rowOffsets (off : Nat) : List (Nat × Nat) → List Nat
  | [] => [off]
  | (stride, count) :: r => (List.range count).flatMap fun i => rowOffsets (off + stride * i) r

/-- Address and value pairs of one instance of a block. -/
def State.capBlock (s : State) (blk inst : Nat) : List Byte :=
  (regRows blk).flatMap fun row => (rowOffsets row.off row.dims).flatMap fun o =>
    toBytes 8 (Reg.addr ⟨blk, inst, o⟩) ++ toBytes 8 (shownFields row.fields (s.view ⟨blk, inst, o⟩))

/-- Blocks of the scope: type and instance. -/
def State.capBlocks (s : State) (c : Capture) : List (Nat × Nat) :=
  if c.whole then blockTable.flatMap fun b => (List.range b.2.1).map fun i => (b.1, i)
  else
    (s.capTiles c).map (fun t => (1, t)) ++ (State.capPorts c).map (fun p => (2, p)) ++
      (match c.op with
        | some o => if o.unit = 4 then [(3, o.index)] else if o.unit = 5 then [(9, 0)] else []
        | none => [])

def State.capRegs (s : State) (c : Capture) : List Byte := (s.capBlocks c).flatMap fun b => s.capBlock b.1 b.2

/-- One section with its header: TYPE in bytes 0-1, length in bytes 4-7; a section that does not apply is left out. -/
def capSection (type : Nat) (b : List Byte) : List Byte :=
  if b.isEmpty then [] else toBytes 2 type ++ toBytes 2 0 ++ toBytes 4 b.length ++ b

/-- Every section, in order. -/
def State.capSections (s : State) (c : Capture) : List Byte :=
  capSection 1 (s.capNodes c) ++ capSection 2 (s.capThreads c) ++ capSection 3 (s.capAccs c) ++
    capSection 4 (s.capWeir c) ++ capSection 5 (s.capBpm c) ++ capSection 6 (s.capRings c) ++ capSection 7 (s.capRegs c)

/-! ### The chain of buffers -/

/-- Buffers of pool 2 for a capture of `n` more section bytes, `first` in the first buffer; fewer when the pool runs out. -/
def State.capBuffers : Nat → State → Nat → Nat → List Word × State
  | 0, s, _, _ => ([], s)
  | k + 1, s, n, room =>
    match s.owner 2 with
    | none => ([], s)
    | some x =>
      if s.mayAlloc 2 x then
        match s.allocNow 2 2 x with
        | (some h, s) =>
          if n ≤ room then ([h], s)
          else
            let (l, s) := State.capBuffers k s (n - room) 65528
            (h :: l, s)
        | (none, s) => ([], s)
      else ([], s)

/-- The link to the next buffer and the section bytes of every buffer but the first, which the header precedes. -/
def State.capFill (s : State) : List Word → List Byte → State
  | [], _ => s
  | h :: l, b =>
    let next := l.head?.getD 0
    (s.put (handleAddr h) (toBytes 8 next.toNat ++ b.take 65528)).capFill l (b.drop 65528)

/-- The header of Table 14-6. -/
def Capture.head (c : Capture) (buffers len : Nat) (trunc : Bool) : List Byte :=
  let cls := match c.post with | some e => e.cls | none => 0xFF
  let flags := match c.post with | some e => (e.data.head?.getD 0).toNat | none => 0
  let code := match c.post with | some e => e.code % 65536 | none => 0
  let src := match c.post with | some e => e.source | none => 0
  toBytes 4 0x50534143 ++ toBytes 2 1 ++ toBytes 2 buffers ++ toBytes 8 c.since ++ toBytes 1 cls ++ toBytes 1 flags ++
    toBytes 2 code ++ toBytes 4 src ++ toBytes 1 c.unit ++ toBytes 1 (flag trunc) ++
    toBytes 2 (c.op.elim 0 ResetOp.index) ++ toBytes 4 len ++ List.replicate 24 0

/-- The capture written: its first handle, if there is one. A pool that runs out cuts it short (R387). -/
def State.writeCapture (s : State) (c : Capture) (b : List Byte) (trunc : Bool) : Option Word × State :=
  let (l, s) := State.capBuffers (b.length / 65528 + 2) s b.length 65472
  match l with
  | [] => (none, s.count SPW_CAP_LOST)
  | h :: r =>
    let room := 65472 + 65528 * r.length
    let short := decide (room < b.length)
    let s := if short then s.count SPW_CAP_LOST else s
    let b := b.take room
    let s := s.put (handleAddr h) (toBytes 8 ((r.head?.getD 0).toNat) ++ c.head l.length b.length (trunc || short) ++ b.take 65472)
    let s := s.capFill r (b.drop 65472)
    (some h, (s.putCaptures (s.captures ++ [(h.toNat, l.map BitVec.toNat)])).wr SPW_CAP_LAST h)

/-- CAP of a fault record. -/
def Post.withCap (e : Post) (h : Word) : Post :=
  { e with data := e.data.take 16 ++ toBytes 8 h.toNat ++ e.data.drop 24 }

/-- A capture ends: written, its record posted with CAP, the tray request made (R381, R386). -/
def State.closeCapture (s : State) (c : Capture) (b : List Byte) (trunc : Bool) : State :=
  let (h, s) := (s.putCapture none).writeCapture c b trunc
  let s := match c.post with
    | some e => s.post (e.withCap (h.getD 0))
    | none => s
  (if c.tray then s.assertTray else s).nextCapture

/-- SPW_CAP_FREE (R387): the chain of a first handle freed. -/
def State.capFree (s : State) (h : Nat) : State :=
  match Table.look s.captures h with
  | none => s
  | some l =>
    l.foldl (fun s w => s.poolFreeHandle 2 2 (BitVec.ofNat 64 w)) (s.putCaptures (Table.del s.captures h))

end Sys2Proof.Machine
end

