-- ==== Sys2Proof/Machine/Resets.lean ====
section
/-! DEFINITION. Sys2Proof/Machine/Resets.lean: the reset units, spares and substitution, and the rows that start, end and
fail a reset (spec/14_faults_and_recovery.md R388-R395, R399-R402). -/

namespace Sys2Proof.Machine

/-! ### Register blocks (R392) -/

/-- Counters and sticky flags of a register back at their reset value, every other field as it is. -/
def clearedFields (l : List Fld) (old : Nat) : Nat :=
  l.foldl (fun a f =>
    a + (match f.acc with
      | .rc => f.reset
      | .w1c => f.reset
      | _ => bitsOf old f.lo f.width) <<< f.lo) 0

/-- Counters and sticky flags of an instance of a block cleared. -/
def State.clearCounters (s : State) (blk inst : Nat) : State :=
  ((s.regs.map Prod.fst).filter fun r => r.blk == blk && r.inst == inst).foldl (fun s r =>
    match regRow? r with
    | some row => s.wr r (BitVec.ofNat 64 (clearedFields row.fields (s.rd r).toNat))
    | none => s) s

/-- Registers of one engine of a tile. -/
def State.engineRegs (s : State) (t g : Nat) : State :=
  let s := s.setFld (TILE_FP_FLAGS t) ⟨4 * g, 4, .w1c, 0⟩ 0
  if g = engineMU then ((s.wr (TILE_MU_RECOMP t) 0).wr (TILE_MU_SAT t) 0).wr (TILE_MU_RESCALE_UF t) 0
  else if g = engineWeir then
    s.resetRegs fun r => r.blk == 1 && r.inst == t && decide (0x808 ≤ r.off) && decide (r.off < 0x880)
  else s

/-- Registers of a whole tile block; TILE_WEIR_CFG and TILE_FP_EVT stay. -/
def State.tileRegs (s : State) (t : Nat) : State :=
  s.resetRegs fun r => r.blk == 1 && r.inst == t && r.off != 0x800 && r.off != 0x108

/-! ### Tiles -/

/-- Voids asked for because of a Weir reset: one for each entry, of an ACTIVE group (R391). -/
def State.askVoids (s : State) (t reason : Nat) : State :=
  ((s.tile t).entries.filter fun e => e.2.st != .free).foldl (fun s e =>
    let r := s.nodeRec t e.2.node
    match s.findGroup (nCtx r) (nGroup r) with
    | some g => if s.gState g == 2 then s.voidRequest g e.2.chunk reason else s
    | none => s) s

/-- Every thread of a tile stopped, as THREADS_KILL does. -/
def State.stopTile (s : State) (t : Nat) : State := (List.range 16).foldl (fun s h => s.killThread t h) s

/-- A tile engine cleared (R391). `reason` is that of the voids of a Weir reset. -/
def State.clearEngine (s : State) (t g reason : Nat) : State :=
  if g = engineMU then s.modTile t fun x => { x with accs := [], mmaQ := [], mma := none, tq := [] }
  else if g = engineWeir then
    let busy := ((s.tile t).entries.filter fun e => e.2.st != .free).map Prod.fst
    let s := s.askVoids t reason
    let s := busy.foldl (fun s e =>
      if ((s.tile t).entry e).st == .free then s
      else (s.voidEntry t e).modTile t fun x => x.freeEntry e) s
    (s.modTile t fun x => { x with cq := [] }).drained
  else s

/-- A tile engine reset: threads stop, the engine is cleared. -/
def State.engineReset (s : State) (t g reason : Nat) : State := ((s.stopTile t).clearEngine t g reason).settle t

/-- A tile whose logic domain is switched off and on: what its crossbar port and its combine stage hold stays. -/
def Tile.restart (x : Tile) (combs : Bool) : Tile :=
  { Tile.init with inbox := x.inbox, offer := x.offer, ended := (if x.idle then x else x.wasHeld).ended, combs := if combs then [] else x.combs,
                   combTx := if combs then x.combTx.map fun _ => none else x.combTx }

/-- All three engines of a tile, and all that its logic domain holds (R391). -/
def State.tileReset (s : State) (t reason : Nat) (combs : Bool) : State :=
  let s := ((s.engineReset t engineMU reason).clearEngine t engineVU reason).clearEngine t engineWeir reason
  (s.modTile t fun x => x.restart combs).endSets

/-- The SRAM of a tile zeroed. -/
def State.zeroTile (s : State) (t : Nat) : State :=
  let s := s.zeroBytes (t * tileBytes) tileBytes
  (s.putPoison (s.poison.filter fun p => !(decide (t * tileBytes ≤ p) && decide (p < (t + 1) * tileBytes))))

/-- Lines of 64 bytes of a tile's SRAM that cannot be corrected. -/
def State.badLines (s : State) (t : Nat) : List Nat :=
  ((s.poison.filter fun p => decide (t * tileBytes ≤ p) && decide (p < (t + 1) * tileBytes)).map fun p => p / 64).eraseDups

/-- The SRAM of a tile copied: a line that cannot be corrected is written as zero (R401). -/
def State.copyTile (s : State) (t : Nat) : State :=
  (s.badLines t).foldl (fun s l =>
    let s := s.zeroBytes (64 * l) 64
    (s.putPoison (s.poison.filter fun p => p / 64 != l))) s

/-! ### Spares (R401, R402) -/

/-- The spare for a candidate: the lowest in its cluster, else the lowest of the module. -/
def State.spareFor (s : State) (p : Nat) : Option Nat :=
  match s.spares.find? fun q => q / 8 == p / 8 with
  | some q => some q
  | none => s.spares.head?

/-- A physical tile is out of use. -/
def State.dropPhys (s : State) (p : Nat) : State :=
  (s.putFailedTiles (s.failedTiles ++ [p])).putCandidates (s.candidates.filter (· != p))

/-- A logical tile bound to a physical one. -/
def State.bindTile (s : State) (t q : Nat) : State := s.putTileMap (Table.set natRank t s.tileMap t q)

/-- One logical tile removed because no spare is left (R402). -/
def State.removeTile (s : State) (t p : Nat) : State :=
  let n := s.active
  let last := n - 1
  let bad := if t < last then (s.badLines t).length else 0
  let s := if t < last then
      let q := (s.physTile last).getD 0
      (((s.engineReset last engineWeir 3).engineRegs last engineWeir).copyTile t).bindTile t q
    else s
  let s := (s.zeroTile last).setTile last Tile.init
  let s := (s.putTileMap (Table.del s.tileMap last)).dropPhys p
  let s := s.raiseWith { cls := 2, src := sourceOf 1 t, code := evCode 0x0026, detail := n } none
  let s := (s.ledgerAdd 5 bad p 0).setActive last
  (s.stalePlans).jorouRewrite

/-- The candidate under logical tile `t` replaced by a spare, whose cluster is first started when it is switched off, or a
tile removed (R401, R402; spec/15_power_clocks_security.md R414). -/
def State.substitute (s : State) (t : Nat) : State :=
  match s.physTile t with
  | none => s
  | some p =>
    let s := (s.engineReset t engineWeir 3).engineRegs t engineWeir
    match s.spareFor p with
    | some q =>
      let bad := (s.badLines t).length
      let d := PWR_DOMAIN (16 + q / 8)
      let s := if s.bit d PWR_DOMAIN_OFF then (s.setFld d PWR_DOMAIN_OFF 0).setFld d PWR_DOMAIN_STATE 2 else s
      let s := (((s.copyTile t).bindTile t q).dropPhys p).ledgerAdd 4 bad p q
      (s.setActive s.active).jorouRewrite
    | none => s.removeTile t p

/-- Logical tiles that stand on a candidate. -/
def State.candidateTiles (s : State) : List Nat :=
  s.candidates.filterMap fun p => lowest s.active fun t => s.physTile t == some p

/-- A candidate whose tile has no thread and no entry in use is substituted at once (R401). -/
def State.substituteIdle (s : State) : State :=
  match s.candidateTiles.find? fun t => (s.tile t).idle && (s.tile t).entries.all fun e => e.2.st == .free with
  | some t => s.substitute t
  | none => s

/-! ### Ports -/

/-- A port engine reset (R391). -/
def State.portReset (s : State) (p : Nat) : State :=
  let x := s.port p
  let s := x.mirrorQ.foldl (fun s n => (s.copyDone n.1).slotFree n.1) s
  let s := s.modPort p fun x => { x with mirrorQ := [], vtime := 0 }
  let s := (List.range 16).foldl (fun s v => s.modVc p v fun c =>
    { c with tag := 0, tagLast := 0, wasElig := false, retag := false, elig := 4 * s.cycle, filed := none }) s
  s.fillBuckets p

/-! ### The device compute part (R395) -/

/-- Whether a crossbar input is a tile port. -/
def isTilePort (i : Nat) : Bool := decide (1025 ≤ i) && decide (i < 1281)

/-- The slot unlinked from every output queue, and free. -/
def State.unlink (s : State) (n : Nat) : State :=
  let s := s.unlinkSlot n
  s.putSlots (Table.del s.slots n)

/-- Every cell that entered from a tile port unlinked from its output queue and counted; those that had not reached one are
discarded with the tile's buffers. -/
def State.unlinkTiles (s : State) : State :=
  let l := (s.slots.filter fun e => isTilePort e.2.input && e.2.charge != .mirror).map Prod.fst
  let s := l.foldl State.unlink s
  let s := (s.putXin (s.xin.filter (fun e => !isTilePort e.1))).putHeldCells (s.heldCells.filter fun x => !isTilePort x.input)
  s.count SPW_DISCARDED l.length

/-- The dispatcher cleared: its tokens' buffers freed, the cells that waited at the ports taken. -/
def State.clearDispatch (s : State) : State :=
  let s := (List.range 16).foldl (fun s h =>
    let e := s.eht h
    let s := (e.tokens ++ e.held ++ e.nextHeld ++ e.decided.map Decided.tok).foldl (fun s t => s.freeToken h t) s
    s.setEht h Eht.init) s
  let s := (s.putExpOpen []).putExpIn []
  s.expReleaseAll

/-- Voids asked for by the watermaster at the start of a device compute reset. -/
def State.voidUnsealed (s : State) : State :=
  (s.groupsBound.filter fun g => s.gState g == 2 && !(s.group g).nodes.isEmpty).foldl (fun s g =>
    (s.openChunks g).foldl (fun s c => s.voidRequest g c 3) s) s

/-! ### A reset begins, ends, fails -/

/-- The reason of the voids that a reset asks for: RESIDUE after a Weir self-check event, else POND_LOST (R391). -/
def ResetOp.reason (o : ResetOp) : Nat := if o.cls ≤ 5 && o.cause == evCode 0x000F then 2 else 3

/-- Logical tiles in the scope of a reset. -/
def State.opTiles (s : State) (o : ResetOp) : List Nat := (List.range 256).filter fun t => s.bound t && s.opHasTile o t

/-- A reset does its work once its capture is over (R386, R390, R391, R395). -/
def State.beginReset (s : State) (o : ResetOp) : State :=
  let s := s.putSelfRefresh true
  let s :=
    if o.unit = 1 then s.engineReset o.index o.engine o.reason
    else if o.unit = 2 then s.portReset o.index
    else if o.unit = 3 then (s.opTiles o).foldl (fun s t => s.tileReset t o.reason false) s
    else if o.unit = 4 then (List.range 8).foldl (fun s i => s.portDown (8 * o.index + i) 8) s
    else
      let s := s.unlinkTiles.voidUnsealed
      let s := (s.opTiles o).foldl (fun s t => s.tileReset t o.reason true) s
      s.clearDispatch
  if o.scrub && (o.unit == 1 || o.unit == 3 || o.unit == 5) then (s.opTiles o).foldl State.zeroTile s else s

/-- A capture is complete, or cut short, and what waits for it goes on. -/
def State.endCapture (s : State) (trunc : Bool) : State :=
  match s.capture with
  | none => s
  | some c =>
    let b := s.capSections c
    let (b, s) := if trunc then
        let (w, s) := s.free
        (b.take (w.toNat % (b.length + 1)), s)
      else (b, s)
    let s := s.closeCapture c b trunc
    match c.op with
    | some o => if o.unit = 6 then s else s.beginReset o
    | none => s

/-- The register blocks of a reset's scope take their Reset values (R392). -/
def State.resetBlocks (s : State) (o : ResetOp) : State :=
  if o.unit = 1 then s.engineRegs o.index o.engine
  else if o.unit = 2 then s.clearCounters 2 o.index
  else if o.unit = 3 then (s.opTiles o).foldl State.tileRegs s
  else if o.unit = 4 then
    (List.range 8).foldl (fun s i => s.clearCounters 2 (8 * o.index + i)) (s.clearCounters 3 o.index)
  else ((s.opTiles o).foldl State.tileRegs s).resetRegs fun r => r.blk == 9

/-- Candidates in the scope of a completed reset are substituted (R401). -/
def State.substituteScope (s : State) (o : ResetOp) : State :=
  if (o.replace || s.bit SPW_AUTO SPW_AUTO_AUTO_SPARE) && (o.unit == 1 || o.unit == 3 || o.unit == 5) then
    (s.candidateTiles.filter fun t => s.opHasTile o t).foldl State.substitute s
  else s

/-- The safe state of a class D event ends (R379); the advisory of a device that has lost half its tiles (R378). -/
def State.endSafe (s : State) : State :=
  let s := if s.bit SPW_STAT SPW_STAT_FATAL then s else s.setFld SPW_STAT SPW_STAT_SAFE 0
  if 2 * s.active < s.grade.tiles then s.advise 3 else s

/-- RESET_COMPLETE (R388, R392, R393, R401): the scope's registers, substitution, the safe state's end, the next reset. -/
def execResetComplete (s : State) : Host.Outcome State Fault Refusal :=
  ok s (s.powered fun s =>
    match s.reset? with
    | none => s
    | some o =>
      if o.unit = 6 || s.capturing then s
      else
        let s := (s.resetBlocks o).clearBusy
        let s := s.putResetsDone
          ((s.resetsDone.filter fun (d : ResetOp × Nat) => decide (s.cycle < d.2 + s.escWindow)) ++ [(o, s.cycle)])
        let s := s.substituteScope o
        (if o.unit = 5 then s.endSafe else s).nextReset)

/-- RESET_BOUND_EXPIRY (R394): the reset is given up and escalates. -/
def execResetBoundExpiry (s : State) : Host.Outcome State Fault Refusal :=
  ok s (s.powered fun s =>
    match s.reset? with
    | none => s
    | some o =>
      if o.unit = 6 || s.capturing then s
      else
        let s := s.clearBusy
        let s := if o.unit = 4 then s.octetFails o.index else s
        (s.escalate o).nextReset)

/-- CAPTURE_COMPLETE (R386): the capture is written, and the reset or the tray request that waits goes on. -/
def execCaptureComplete (s : State) : Host.Outcome State Fault Refusal := ok s (s.powered fun s => s.endCapture false)

/-- CAP_TMO (R386): the capture ends truncated. -/
def execCapTmo (s : State) : Host.Outcome State Fault Refusal := ok s (s.powered fun s => s.endCapture true)

/-! ### Resets that the host asks for (R389, R393, Table 14-9) -/

/-- A power cycle asked for by SPW_RESET: the safe state without an event, then the capture of the whole module (R389). -/
def State.powerCycle (s : State) : State :=
  s.enterSafe.startReset
    { unit := 6, index := 0, engine := 0, scrub := false, replace := false, cls := 6, source := 0, cause := 0 } none

/-- Whether SPW_RESET describes a reset that exists. -/
def State.resetExists (s : State) (unit engine index : Nat) : Bool :=
  match unit with
  | 1 => decide (engine < 3) && decide (index < s.active)
  | 2 => true
  | 3 => decide (index < 33)
  | 4 => decide (index < 128)
  | 5 => true
  | _ => false

/-- A write of `v` to SPW_RESET (R389, R393). -/
def State.spwResetWrite (s : State) (v : Nat) : State :=
  let unit := bitsOf v 56 3
  let stored := s.wr SPW_RESET (BitVec.ofNat 64 (storeFields [SPW_RESET_GO, SPW_RESET_SCRUB, SPW_RESET_REPLACE,
    SPW_RESET_UNIT, SPW_RESET_ENGINE, SPW_RESET_INDEX] (s.rd SPW_RESET).toNat v))
  if !bitOf v 63 then stored
  else if s.bit SPW_STAT SPW_STAT_RESET_BUSY then s.notice 0 0x0022 (sourceOf 13 0) v unit
  else
  let s := stored
  if unit = 6 then s.powerCycle
  else if s.resetExists unit (bitsOf v 48 2) (bitsOf v 0 10) then
    s.startReset { unit := unit, index := bitsOf v 0 10, engine := bitsOf v 48 2, scrub := bitOf v 62,
                   replace := bitOf v 61, cls := 6, source := 0, cause := 0 } none
  else s

/-- The value that asks for a reset: GO, SCRUB, REPLACE, UNIT, ENGINE, INDEX. -/
def resetWord (unit engine index : Nat) (scrub replace : Bool) : Nat :=
  2 ^ 63 + flag scrub * 2 ^ 62 + flag replace * 2 ^ 61 + unit * 2 ^ 56 + engine * 2 ^ 48 + index

/-- TILE_ENGINE_RESET (R391) -/
def execTileEngineReset (tile : Fin 256) (engine : Fin 3) (replace scrub : Bool) (s : State) :
    Host.Outcome State Fault Refusal :=
  ok s (s.powered fun s => s.spwResetWrite (resetWord 1 engine tile scrub replace))

/-- PORT_ENGINES_RESET (R391) -/
def execPortEnginesReset (port : Fin 1024) (s : State) : Host.Outcome State Fault Refusal :=
  ok s (s.powered fun s => s.spwResetWrite (resetWord 2 0 port false false))

/-- CLUSTER_RESET (R391) -/
def execClusterReset (cluster : Fin 33) (scrub : Bool) (s : State) : Host.Outcome State Fault Refusal :=
  ok s (s.powered fun s => s.spwResetWrite (resetWord 3 0 cluster scrub false))

/-- OCTET_RESET (R390) -/
def execOctetReset (octet : Fin 128) (s : State) : Host.Outcome State Fault Refusal :=
  ok s (s.powered fun s => s.spwResetWrite (resetWord 4 0 octet false false))

/-- DEVICE_COMPUTE_RESET (R395) -/
def execDeviceComputeReset (scrub : Bool) (s : State) : Host.Outcome State Fault Refusal :=
  ok s (s.powered fun s => s.spwResetWrite (resetWord 5 0 0 scrub false))

/-- POWER_CYCLE_REQUEST (R389) -/
def execPowerCycleRequest (s : State) : Host.Outcome State Fault Refusal :=
  ok s (s.powered fun s => s.spwResetWrite (resetWord 6 0 0 false false))

end Sys2Proof.Machine
end

