-- ==== Sys2Proof/Machine/Faults.lean ====
section
/-! DEFINITION. Sys2Proof/Machine/Faults.lean: the rows of the Spillway that are no reset: hardware errors, the pins, the
ditch rider's scan, captures freed, counters cleared (spec/14_faults_and_recovery.md R371-R387). -/

namespace Sys2Proof.Machine

/-- CLASS of an event class (Table 14-1). -/
def classNum : EvClass → Nat
  | .N => 0 | .C => 1 | .E => 2 | .P => 3 | .D => 4 | .F => 5

/-- HW_INTERNAL_ERROR (R371): an error of a block's internals that no other code names. -/
def execHwInternalError (block : BitVec 8) (inst : BitVec 24) (cls : EvClass) (address : Word) (s : State) :
    Host.Outcome State Fault Refusal :=
  ok s (s.powered fun s => (s.raise
    { cls := classNum cls, src := sourceOf block.toNat inst.toNat, code := evCode 0x002F, hw := true,
      detail := address.toNat }).killOctets)

/-- FAULT_PULSE_END (R380): the pin follows DRIVE. -/
def execFaultPulseEnd (s : State) : Host.Outcome State Fault Refusal :=
  ok s (s.powered fun s => (s.setFld FAULT_PIN FAULT_PIN_PULSE 0).pins)

/-- FAULT_PIN_WRITE (R380): DRIVE is stored; it shows on the pin at once, or when the pulse ends. -/
def State.faultPinWrite (s : State) (v : Nat) : State := (s.setFld FAULT_PIN FAULT_PIN_DRIVE (v % 2)).pins

def execFaultPinWrite (value : Word) (s : State) : Host.Outcome State Fault Refusal :=
  ok s (s.powered fun s => s.faultPinWrite value.toNat)

/-- REQUEST (R381): TRAY_REQ_L at once, without the safe state and without a capture (R389). -/
def execRequest (s : State) : Host.Outcome State Fault Refusal := ok s (s.powered fun s => s.assertTray)

/-- SPW_CAP_FREE (R387) -/
def execSpwCapFree (handle : Word) (s : State) : Host.Outcome State Fault Refusal :=
  ok s (s.powered fun s => s.capFree handle.toNat)

/-- Every source counter zeroed (R373). -/
def State.countClear (s : State) : State := s.zeroBytes (s.rd SPW_COUNT_BASE).toNat (32 * 1024 * 20)

/-- COUNT_CLEAR (R373) -/
def execCountClear (s : State) : Host.Outcome State Fault Refusal := ok s (s.powered fun s => s.countClear)

/-! ### The ditch rider (R382-R385) -/

/-- One hang reported (R385): its event, the teardown that AUTO_CTX asks for, and the capture of its members. -/
def State.reportHang (s : State) (kind : Nat) (m : List Word) : State :=
  let cls := s.hangClass m
  let ctx := if cls = 1 then m.head?.bind memberOwner else none
  let s := (s.count SPW_HANGS).raise
    { cls := cls, src := sourceOf 13 0, code := 3 * 2 ^ 24 + kind, ctx := ctx, hang := true, members := m.length,
      nodes := m, more := (m.take 12).flatMap fun d => toBytes 8 d.toNat }
  match ctx with
  | some c => if s.bit SPW_AUTO SPW_AUTO_AUTO_CTX && c != 0 && s.ctxState c == 1 then (s.ctxClose c false).readRings c else s
  | none => s

/-- Scans in a row at which each external wait has been kept. -/
def stallCounts (old : List (Word × Nat)) (kept : List WNode) : List (Word × Nat) :=
  (kept.filter WNode.external).map fun n => (n.desc, Table.get 0 old n.desc + 1)

/-- Scans before an external stall; limits treat 0 as 1 (R406). -/
def State.stallScans (s : State) : Nat := max 1 (s.fld SPW_LIMITS SPW_LIMITS_STALL_SCANS)

/-- DITCH_RIDER_SCAN (R382): the nodes recorded, the hangs that this scan finds reported once each. -/
def execDitchRiderScan (s : State) : Host.Outcome State Fault Refusal :=
  ok s (s.powered fun s =>
    let nodes := s.waitNodes
    let kept := nodes.filter (keptIn s.scan)
    let stalls := stallCounts s.stalls kept
    let now := hangsOf kept stalls s.stallScans
    let known := s.hangs
    let fresh := now.filter fun h => !known.contains h.2
    let s := (((s.count SPW_SCANS).putScan nodes).putStalls stalls).putHangs (now.map Prod.snd)
    fresh.foldl (fun s h => s.reportHang h.1 h.2) s)

end Sys2Proof.Machine
end

