-- ==== Sys2Proof/Machine/Power.lean ====
section
/-! DEFINITION. Sys2Proof/Machine/Power.lean: the input supervisor, power domains and the start table, crossings and PLLs,
secure boot and the management I3C target (spec/15_power_clocks_security.md R407-R429; spec/17_electrical_mechanical.md
R454-R459). -/

namespace Sys2Proof.Machine

/-! ### Power lost and returned (R454, R457, R461) -/

/-- The outcome of a command that may take the module through a power cycle: SLU_CYCLE counts from power-up, so it starts
over with the rest of the main side. -/
def okPower (s t : State) : Host.Outcome State Fault Refusal :=
  .next ((t.putPending s.pending).putGrade s.grade)

/-- The host port registers that flash holds (spec/13_host_port_and_control.md R368). -/
def hpRegs : List Reg := [HP_CFG, HP_MAC, HP_IPV4, HP_IPV6_HI, HP_IPV6_LO, HP_PREFIX]

/-- Register `w` of key `k`: flags, then the public key. -/
def hpKeyReg (k w : Nat) : Reg := if w = 0 then HP_KEY_FLAGS k else HP_KEY_PUB k (w - 1)

/-- Host port registers loaded from flash, as far as SAVE has stored any; AN_EN is not kept there. -/
def State.loadFlash (s : State) : State :=
  let s := (hpRegs.zip s.flash.cfg).foldl (fun s e => s.wr e.1 e.2) s
  let s := s.flash.keys.foldl (fun s e => s.wr (hpKeyReg (e.1 / 5) (e.1 % 5)) e.2) s
  let s := s.setFld HP_CFG HP_CFG_AN_EN HP_CFG_AN_EN.reset
  (s.putHpActive (hpRegs.map s.rd))

/-- The main side without power: everything but flash and the Water Book is gone (R454, R461), and the tile counts are those
of the grade until the boot binds the tiles (spec/00_scope.md R1, R2). -/
def State.powerDown (s : State) : State :=
  let p := s.power
  let w := s.wb
  let boot := s.fld SEC_BOOT SEC_BOOT_BOOT
  let next := s.fld SEC_BOOT_NEXT SEC_BOOT_NEXT_BOOT_NEXT
  let t : State := { State.reset with
    freeCtr := s.freeCtr, out := s.out, flash := s.flash, bootSlots := s.bootSlots, cert := s.cert, ledger := s.ledger
    jorou := { Jorou.init with active := s.grade.tiles, spares := physicalTiles - s.grade.tiles }
    power := { Power.init with mainOn := false, resetL := p.resetL, volts := p.volts }
    wb := { w with counts := [], fseq := 0, nextCtx := 0, frames := [], relay := [] } }
  let t := ((t.setFld SEC_BOOT SEC_BOOT_BOOT boot).setFld SEC_BOOT_NEXT SEC_BOOT_NEXT_BOOT_NEXT next).setFld
    SPW_LEDGER SPW_LEDGER_COUNT s.ledger.length
  let t := ((t.setFld SPW_STAT SPW_STAT_ACTIVE s.grade.tiles).setFld SPW_STAT SPW_STAT_SPARES
    (physicalTiles - s.grade.tiles)).loadFlash
  if p.faultLow || p.trayLow then t.emit (.pins false false) else t

/-- The main converters run again and domain 0 starts (R412). -/
def State.powerUp (s : State) : State :=
  (s.putPower ({ s.power with mainOn := true })).setFld (PWR_DOMAIN 0) PWR_DOMAIN_STATE 1

/-- Whether the input lies between 40 V and 52 V, and outside the range in which the converters run at all; units of 10 mV. -/
def inRange (v : Nat) : Bool := decide (4000 ≤ v) && decide (v ≤ 5200)
def outOfRange (v : Nat) : Bool := decide (v < 3600) || decide (5600 < v)

def State.setVolts (s : State) (v : Nat) : State := s.putPower { s.power with volts := v }

/-- RESET_L_RISE (R412): with the input in range the converters run and domain 0 starts the boot. -/
def execResetLRise (volts : BitVec 16) (s : State) : Host.Outcome State Fault Refusal :=
  okPower s
    (if s.power.resetL then s
    else
      let s := (s.setVolts volts.toNat).putPower { s.power with resetL := true, volts := volts.toNat }
      if inRange volts.toNat then s.powerUp else s)

/-- RESET_L_FALL (R457): the main converters stop, FAULT_L and TRAY_REQ_L are released. -/
def execResetLFall (s : State) : Host.Outcome State Fault Refusal :=
  okPower s
    (if s.power.resetL then
      let s := s.putPower { s.power with resetL := false }
      if s.power.mainOn then s.powerDown else s
    else s)

/-- INPUT_POWER_LOSS (R407): below 36 V or above 56 V the main converters stop. -/
def execInputPowerLoss (volts : BitVec 16) (s : State) : Host.Outcome State Fault Refusal :=
  okPower s
    (if outOfRange volts.toNat then
      let s := s.setVolts volts.toNat
      if s.power.mainOn then s.powerDown else s
    else s)

/-- INPUT_POWER_RETURN (R454): the input is back in range while RESET_L is high. -/
def execInputPowerReturn (volts : BitVec 16) (s : State) : Host.Outcome State Fault Refusal :=
  okPower s
    (if inRange volts.toNat then
      let s := s.setVolts volts.toNat
      if !s.power.mainOn && s.power.resetL then s.powerUp else s
    else s)

/-! ### The input supervisor (R407-R410) -/

/-- Bands of Table 15-1 that raise an event when the input stays in them, by QUAL of INPUT_RANGE. -/
def inputBands (v a : Nat) : List Nat :=
  (if 3600 ≤ v && v < 3800 then [1] else []) ++ (if 3800 ≤ v && v < 4000 then [2] else []) ++
    (if 5200 < v && v ≤ 5400 then [3] else []) ++ (if 5400 < v then [4] else []) ++ (if 6600 < a then [5] else [])

/-- The event of a band, once per excursion. -/
def State.bandEvent (s : State) (detail q : Nat) : State :=
  let s := s.putPower { s.power with excursion := s.power.excursion ++ [q] }
  s.raise { cls := if q = 2 || q = 3 then 0 else 5, src := sourceOf 14 0, code := evCode 0x0028 q, hw := true,
            detail := detail }

def State.setDuty (s : State) (d : Nat) : State := s.setFld PWR_THROTTLE PWR_THROTTLE_DUTY d
def State.duty (s : State) : Nat := s.fld PWR_THROTTLE PWR_THROTTLE_DUTY

/-- Whether the average input power exceeds CAP, and whether it lies more than 50 W below (R408). -/
def State.aboveCap (s : State) : Bool :=
  decide (s.fld PWR_CAP PWR_CAP_CAP * s.power.powers.length < s.power.powers.sum)
def State.belowCap (s : State) : Bool :=
  decide (s.power.powers.sum + 50 * s.power.powers.length < s.fld PWR_CAP PWR_CAP_CAP * s.power.powers.length)

/-- The figures of one sample: PWR_INPUT, the 1 ms average, the throttle bits (R407-R409). -/
def State.inputFigures (s : State) (v a w : Nat) : State :=
  let l := (w :: s.power.powers).take 100
  let avg := l.sum / l.length
  let quiet := if 6000 < a then 0 else min 100 (s.power.overAmps + 1)
  let s := s.putPower { s.power with volts := v, powers := l, overAmps := quiet }
  let s := s.wr PWR_INPUT (BitVec.ofNat 64 (v * 2 ^ 32 + a * 2 ^ 16 + min avg 0xFFFF))
  let s := s.setFld PWR_THROTTLE PWR_THROTTLE_CURRENT (flag (decide (quiet < 100)))
  let s := s.setFld PWR_THROTTLE PWR_THROTTLE_POWER (flag s.aboveCap)
  if 6000 < a then s.setDuty 4 else s

/-- Whether a band has lasted as long as Table 15-1 asks: voltage and current have hold times of their own. -/
def heldBand (held : HeldFor) (q : Nat) : Bool := if q = 5 then held.current else held.voltage

/-- INPUT_SAMPLE (R407): `held` tells which hold times of Table 15-1 the input has met. The Spillway runs when the boot is
over: a band that began before raises its event then. -/
def execInputSample (volts amps watts : BitVec 16) (held : HeldFor) (s : State) : Host.Outcome State Fault Refusal :=
  if outOfRange volts.toNat then
    okPower s (if s.power.mainOn then (s.setVolts volts.toNat).powerDown else s)
  else
    ok s (s.booting fun s =>
      let v := volts.toNat
      let a := amps.toNat
      let s := s.inputFigures v a watts.toNat
      let now := inputBands v a
      let old := s.power.excursion
      let s := s.putPower { s.power with excursion := old.filter fun q => now.contains q || decide (6 ≤ q) }
      s.powered fun s => (now.filter fun q => !old.contains q && heldBand held q).foldl (fun s q => s.bandEvent (v + a * 2 ^ 16) q) s)

/-- The excursion code of OVER_TEMP. -/
def tempExcursion : Nat := 6

/-- TEMP_SAMPLE (R410): the hottest sensor, the throttle at TEMP_HOT, the event at 115 °C (460 units). -/
def execTempSample (readings : List (BitVec 16)) (s : State) : Host.Outcome State Fault Refusal :=
  ok s (s.powered fun s =>
    let l := (readings.take 64).map BitVec.toNat
    let top := l.foldl max 0
    let s := s.setFld PWR_TEMP PWR_TEMP_HOTTEST top
    let s := s.setFld PWR_THROTTLE PWR_THROTTLE_THERMAL (flag (decide (s.fld PWR_TEMP PWR_TEMP_TEMP_HOT ≤ top)))
    if 460 ≤ top then
      if s.power.excursion.contains tempExcursion then s
      else
        let n := (l.findIdx? fun r => r == top).getD 0
        let s := s.putPower { s.power with excursion := s.power.excursion ++ [tempExcursion] }
        s.raise { cls := 5, src := sourceOf 14 0, code := evCode 0x0029 n, hw := true, detail := top }
    else s.putPower ({ s.power with excursion := s.power.excursion.filter (· != tempExcursion) }))

/-- DUTY_ADJUST (R408, R410) -/
def execDutyAdjust (s : State) : Host.Outcome State Fault Refusal :=
  ok s (s.powered fun s =>
    if s.aboveCap || s.bit PWR_THROTTLE PWR_THROTTLE_THERMAL then s.setDuty (max 4 (s.duty - 1))
    else if s.belowCap || s.power.powers.isEmpty then s.setDuty (min 16 (s.duty + 1))
    else s)

/-! ### Power domains (R412-R414) -/

def State.domain (s : State) (d : Nat) : Nat := s.fld (PWR_DOMAIN d) PWR_DOMAIN_STATE
def State.setDomain (s : State) (d v : Nat) : State := s.setFld (PWR_DOMAIN d) PWR_DOMAIN_STATE v

/-- The boot stops: every domain that the sequencer has started is switched off, FAULT_L is held low, the sideband told
(R413). -/
def State.stopBoot (s : State) (d : Nat) : State :=
  let s := (List.range 48).reverse.foldl (fun s i => if s.domain (i + 1) != 0 then s.setDomain (i + 1) 0 else s) s
  let s := (s.putPower ({ s.power with bootStopped := true, failDomain := d, pinHeld := true })).pins
  if s.power.i3cEnec then s.emit (.ibi false) else s

/-- The start sequence has not reached its end. -/
def State.starting (s : State) : Bool := decide (s.power.nextDomain ≤ 49)

/-- The tile map of R399: logical tiles in ascending order over the healthy physical ones. -/
def State.bindMap (s : State) : State :=
  let healthy := (List.range physicalTiles).filter fun p =>
    !s.failedTiles.contains p && !s.power.failedClusters.contains (p / 8)
  let n := min s.grade.tiles healthy.length
  let s := s.putTileMap (((healthy.take n).zipIdx).foldl (fun m (e : Nat × Nat) => Table.set natRank e.2 m e.2 e.1) [])
  (s.setActive n).jorouRewrite

/-- The class P event of a domain; in the sequence it resets nothing. -/
def State.domainEvent (s : State) (d cls : Nat) (due : Option ResetOp) : State :=
  s.raiseWith { cls := cls, src := sourceOf 14 0, code := evCode 0x002A d, hw := true, noReset := true } due

/-- The reset of an octet that a class P event asks for. -/
def State.octetDue (s : State) (d o : Nat) : Option ResetOp :=
  if s.bit SPW_AUTO SPW_AUTO_AUTO_PART then
    some { unit := 4, index := o, engine := 0, scrub := false, replace := false, cls := 3, source := sourceOf 14 0,
           cause := evCode 0x002A d }
  else none

/-- The events of the domains that failed in the sequence, posted once the Spillway runs (R413): one for each octet of a
chiplet, one for a cluster. -/
def State.lateEvents (s : State) : State :=
  ((List.range 41).map (8 + ·)).foldl (fun s d =>
    if s.domain d != 3 then s
    else (List.range (if d ≤ 15 then 16 else 1)).foldl (fun s _ => s.domainEvent d 3 none) s) s

/-- Entries of the ledger before the first whose signature or chain fails, under a public key (R404). -/
def ledgerGood (key : List Byte) : List Byte → List LedgerEntry → List LedgerEntry
  | _, [] => []
  | chain, e :: l =>
    if e.chain == chain && ed25519Verify key e.head e.sig then e :: ledgerGood key ((sha512 e.bytes).take 32) l else []

/-- The entries of the ledger that the boot applies. -/
def State.ledgerValid (s : State) : List LedgerEntry := ledgerGood s.identityKey (List.replicate 32 0) s.ledger

/-- The boot is over when the start table has been gone through and the images are verified: the firmware creates pools 0 to
3, the tiles are bound, and the events that waited for the Spillway are posted (R404, R412, R413, R423, R429;
spec/11_memory_and_pools.md R314). -/
def State.bootEnd (s : State) : State :=
  if !s.on then s
  else
    let s := s.bootPools.bindMap.lateEvents
    let n := s.ledgerValid.length
    let s := s.also (decide (n < s.ledger.length)) fun s => s.notice 0 0x0027 (sourceOf 13 0) n
    s.also s.idFail fun s => s.raise { cls := 5, src := sourceOf 19 0, code := evCode 0x002E, hw := true }

/-- The last domain of the table has answered: the sequence is complete. -/
def State.sequenceDone (s : State) (d : Nat) : State :=
  if d = 48 && s.starting then (s.putPower ({ s.power with nextDomain := 50 })).bootEnd else s

/-- A power-good fault of domain `d` (R413). A chiplet or cluster that fails in the sequence is left off. -/
def State.domainFails (s : State) (d : Nat) : State :=
  let during := s.starting
  if d ≤ 7 then
    if during then s.stopBoot d
    else (s.setDomain d 3).raise { cls := 5, src := sourceOf 14 0, code := evCode 0x002A d, hw := true }
  else if d ≤ 15 then
    let s := s.setDomain d 3
    if during then s else (List.range 16).foldl (fun s i => s.domainEvent d 3 (s.octetDue d (16 * (d - 8) + i))) s
  else
    let c := d - 16
    let s := s.setDomain d 3
    if during then
      ((s.putPower ({ s.power with failedClusters := s.power.failedClusters ++ [c] }))).sequenceDone d
    else
      let op : ResetOp := { unit := 3, index := c, engine := 0, scrub := false, replace := false, cls := 3,
                            source := sourceOf 14 0, cause := evCode 0x002A d }
      (s.domainEvent d 3 none).escalate op

/-- DOMAIN_START (R412): the next domain of the table; one that has not reported power-good by now has failed. -/
def execDomainStart (s : State) : Host.Outcome State Fault Refusal :=
  ok s (s.booting fun s =>
    let d := s.power.nextDomain
    if !s.power.romOk || 48 < d then s
    else
      let s := if 1 < d && s.domain (d - 1) == 1 then s.domainFails (d - 1) else s
      if s.power.bootStopped then s
      else (s.putPower ({ s.power with nextDomain := d + 1 })).setDomain d 1)

/-- The clock that starts with a domain: its lock bit in CLK_STAT. -/
def domainLock : Nat → Option Fld
  | 0 => some CLK_STAT_MGMT_LOCK
  | 2 => some CLK_STAT_CORE_LOCK
  | 6 => some CLK_STAT_MEM_LOCK
  | 7 => some CLK_STAT_HOST_LOCK
  | _ => none

/-- Octets of a SerDes domain. -/
def octetsOf (d : Nat) : List Nat := if 8 ≤ d && d ≤ 15 then (List.range 16).map fun i => 16 * (d - 8) + i else []

/-- Domain `d` reports power-good: its clocks start and it is released from reset (R412). -/
def State.domainGood (s : State) (d : Nat) : State :=
  let s := s.setDomain d 2
  let s := match domainLock d with
    | some f => s.setFld CLK_STAT f 1
    | none => s
  s.sequenceDone d

/-- POWER_GOOD (R413): a domain that starts reports power-good or fails; a domain that is on loses it. -/
def execPowerGood (domain : Fin 50) (good : Bool) (s : State) : Host.Outcome State Fault Refusal :=
  ok s (s.booting fun s =>
    let d := domain.val
    if d = 49 then s
    else if s.domain d == 1 || (d == 0 && s.domain d == 0) then
      if good then s.domainGood d else s.domainFails d
    else if s.domain d == 2 && !good then s.domainFails d
    else s)

/-- Whether the host may switch domain `d`: a cluster without an active tile, a chiplet without a link (R414). -/
def State.mayOff (s : State) (d : Nat) : Bool :=
  if 8 ≤ d && d ≤ 15 then !s.laneMap.any fun r => r.port / 128 == d - 8
  else if 16 ≤ d && d ≤ 48 then !(List.range s.active).any fun t => s.clusterOf t == d - 16
  else false

/-- A write of OFF (R414). -/
def State.domainOff (s : State) (d : Nat) (off : Bool) : State :=
  if !s.mayOff d then s.notice 0 0x002B (sourceOf 14 0) 0 d
  else if s.bit (PWR_DOMAIN d) PWR_DOMAIN_OFF == off then s
  else
    let s := s.setFld (PWR_DOMAIN d) PWR_DOMAIN_OFF (flag off)
    if off then
      let s := (octetsOf d).foldl (fun s o => [0x40 + o, 0xC0 + o].foldl (fun s i =>
        s.setFld (CDC_STATE i) CDC_STATE_STATE 1) s) s
      s.setDomain d 0
    else s.setDomain d 1

/-- PWR_DOMAIN_OFF (R414) -/
def execPwrDomainOff (domain : Fin 50) (off : Bool) (s : State) : Host.Outcome State Fault Refusal :=
  ok s (s.powered fun s => s.domainOff domain off)

/-! ### Crossings and PLLs (R417-R421) -/

/-- The class of a crossing (Table 15-4); none for an ID that names no crossing. -/
def cdcClass (i : Nat) : Option Nat :=
  if i ≤ 4 then some 5 else if i = 5 then some 0 else if 0x40 ≤ i && i < 0x140 then some 3 else none

/-- The crossing belongs to an octet no lane of which is locked: its clock is stopped (R416, R420). -/
def State.octetStopped (s : State) (i : Nat) : Bool :=
  decide (0x40 ≤ i) && decide (i < 0x140) && !s.octetLocked ((i - 0x40) % 128)

/-- CDC_TIMEOUT (R419): the crossing becomes STUCK; one that is stopped on purpose raises nothing (R420). -/
def execCdcTimeout (cdc : Fin 320) (s : State) : Host.Outcome State Fault Refusal :=
  ok s (s.powered fun s =>
    match cdcClass cdc with
    | none => s
    | some c =>
      if s.crossed cdc || s.octetStopped cdc then s
      else
        let s := (s.setFld (CDC_STATE cdc) CDC_STATE_STATE 2).count CLK_TIMEOUTS
        (s.raise { cls := c, src := sourceOf 15 cdc, code := evCode 0x002C, hw := true }).killOctets)

/-- CDC_RECOVER (R419): queues, toggles and pending counts clear, and the crossing is normal again. -/
def execCdcRecover (cdc : Fin 320) (s : State) : Host.Outcome State Fault Refusal :=
  ok s (s.powered fun s =>
    if (cdcClass cdc).isNone then s
    else
      let s := s.setFld (CDC_STATE cdc) CDC_STATE_STATE 0
      (s.putPower ({ s.power with pulses := Table.del s.power.pulses cdc.val })))

/-- The pulses that wait at crossings in service: one round trip of each ends (R418). How many core cycles a round trip takes
is timing; the model ends one in each (log entry 79). -/
def State.pulsesCross (s : State) : State :=
  s.putPower { s.power with pulses := (s.power.pulses.map fun e => if s.crossed e.1 then e else (e.1, e.2 - 1)).filter fun e => 0 < e.2 }

/-- CDC_OVERFLOW (R418): a pulse beyond 255 pending; at a crossing that is STUCK or QUIESCED it is discarded and counted
(R419). -/
def execCdcOverflow (cdc : Fin 320) (s : State) : Host.Outcome State Fault Refusal :=
  ok s (s.powered fun s =>
    match cdcClass cdc with
    | none => s
    | some c =>
      if s.crossed cdc then s.lost cdc
      else
        let s := s.putPower { s.power with pulses := Table.put natRank s.power.pulses cdc.val 255 }
        ((s.count CLK_OVERFLOWS).raise { cls := c, src := sourceOf 15 cdc, code := evCode 0x002D, hw := true }).killOctets)

/-- PLL_LOCK_LOSS (R421): 0 core, 1 management, 2 memory controller, 3 host MAC, as in CLK_STAT. The path needs no clock, so
it acts in a stopped boot too. -/
def execPllLockLoss (pll : Fin 4) (s : State) : Host.Outcome State Fault Refusal :=
  ok s (s.also s.power.mainOn fun s =>
    let s := s.setFld CLK_STAT ⟨pll, 1, .ro, 0⟩ 0
    s.also (decide (pll.val < 2)) fun s =>
      ((s.putPower ({ s.power with pinHeld := true })).setFld SPW_TRAY_REQ SPW_TRAY_REQ_ASSERTED 1).pins)

/-! ### Secure boot (R422-R429) -/

def State.slot (s : State) (i : Nat) : FlashSlot := Table.get FlashSlot.init s.bootSlots i

/-- Whether the ROM accepts a slot. -/
def FlashSlot.accepted (x : FlashSlot) : Bool :=
  sha512 x.rootKey == Config.rootDigest && ed25519Verify x.rootKey x.firstStage x.sig1

/-- ROM_ACCEPT (R422): the slot that BOOT_NEXT names, else the other, else the boot stops. -/
def execRomAccept (s : State) : Host.Outcome State Fault Refusal :=
  ok s (s.booting fun s =>
    if s.power.romOk || s.domain 0 != 2 then s
    else
      let a := s.fld SEC_BOOT_NEXT SEC_BOOT_NEXT_BOOT_NEXT
      let pick := if (s.slot a).accepted then some (a, 1) else if (s.slot (1 - a)).accepted then some (1 - a, 2) else none
      match pick with
      | none => s.stopBoot 0
      | some (k, status) =>
        let s := (s.setFld SEC_BOOT SEC_BOOT_SLOT k).setFld SEC_BOOT SEC_BOOT_BOOT_STATUS status
        let s := s.setFld SEC_BOOT SEC_BOOT_BOOT ((s.fld SEC_BOOT SEC_BOOT_BOOT + 1) % 2 ^ 32)
        (s.putPower ({ s.power with romOk := true, m1 := sha512 (s.slot k).firstStage })))

/-- The chain of R424 over the three measurements. -/
def bootChain (m1 m2 m3 : List Byte) : List Byte :=
  sha512 (sha512 (sha512 (List.replicate 64 0 ++ m1) ++ m2) ++ m3)

/-- The repairs that a list of entries names, applied: rows spared, pages remapped or left in place, tiles left out. A failed
lane or octet is no repair: its lanes train again at the next power-up (R399, R403, R404). -/
def State.applyLedger (s : State) (l : List LedgerEntry) : State :=
  let tiles := (l.filter fun e => e.kind == 4 || e.kind == 5 || e.kind == 8).map LedgerEntry.loc
  let pages := (l.filter fun e => e.kind == 2).map fun e => BitVec.ofNat 64 e.loc
  let left := (l.filter fun e => e.kind == 3).map fun e => BitVec.ofNat 64 (e.loc + 1)
  let rows := (l.filter fun e => e.kind == 1).map LedgerEntry.loc
  let s := ((s.putFailedTiles tiles).putPages (pages ++ left)).putSparedRows rows
  s.setFld MEM_SPARES MEM_SPARES_FREE (s.fld MEM_SPARES MEM_SPARES_FREE - pages.length)

/-- The identity key checked against the certificate; a mismatch raises its event once the Spillway runs (R427, R429). -/
def State.checkIdentity (s : State) : State :=
  s.setFld SEC_BOOT SEC_BOOT_ID_FAIL (flag ((s.cert.drop 24).take 32 != s.identityKey))

/-- A failed image stops the boot, with the image in BOOT_STATUS. -/
def State.refuseImage (s : State) (status : Nat) : State := (s.setFld SEC_BOOT SEC_BOOT_BOOT_STATUS status).stopBoot 0

/-- FIRST_STAGE_VERIFY (R423, R424, R404, R427): what verifies is released when the start table is done as well. -/
def execFirstStageVerify (s : State) : Host.Outcome State Fault Refusal :=
  ok s (s.booting fun s =>
    let x := s.slot (s.fld SEC_BOOT SEC_BOOT_SLOT)
    if !s.power.romOk || !s.power.m2.isEmpty then s
    else if !ed25519Verify x.rootKey x.firmware x.sig2 then s.refuseImage 3
    else if !ed25519Verify x.rootKey x.microcode x.sig3 then s.refuseImage 4
    else
      let m2 := sha512 x.firmware
      let m3 := sha512 x.microcode
      let c := bootChain s.power.m1 m2 m3
      let s := s.putPower { s.power with m2 := m2, m3 := m3 }
      let s := (List.range 8).foldl (fun s k => s.wr (SEC_CHAIN k) (BitVec.ofNat 64 (ofBytes ((c.drop (8 * k)).take 8)))) s
      ((s.applyLedger s.ledgerValid).checkIdentity).bootEnd)

/-! ### Firmware update (R426) -/

/-- A write of `v` to SEC_FW_CTL: SLOT is stored, and GO starts an update when none runs. -/
def State.fwCtlWrite (s : State) (v : Nat) : State :=
  let busy := s.bit SEC_FW_CTL SEC_FW_CTL_BUSY
  let s := s.setFld SEC_FW_CTL SEC_FW_CTL_SLOT (bitsOf v 8 1)
  if bitOf v 63 && !busy then
    (s.setFld SEC_FW_CTL SEC_FW_CTL_BUSY 1).putPower
      { s.power with update := some ((s.rd SEC_FW_SRC).toNat, s.fld SEC_FW_LEN SEC_FW_LEN_LENGTH, bitsOf v 8 1) }
  else s

/-- SEC_FW_GO (R426) -/
def execSecFwGo (value : Word) (s : State) : Host.Outcome State Fault Refusal :=
  ok s (s.powered fun s => s.fwCtlWrite value.toNat)

/-- The slot image that `n` bytes spell: the spec gives its parts and not their places (log entry 29). -/
def slotImage (b : List Byte) : FlashSlot :=
  { rootKey := Config.imagePart 0 b, firstStage := Config.imagePart 1 b, firmware := Config.imagePart 2 b,
    microcode := Config.imagePart 3 b, sig1 := Config.imagePart 4 b, sig2 := Config.imagePart 5 b,
    sig3 := Config.imagePart 6 b, version := Config.imageVersion b }

/-- Whether every signature of a slot image verifies under the root key that the ROM knows. -/
def FlashSlot.signed (x : FlashSlot) : Bool :=
  x.accepted && ed25519Verify x.rootKey x.firmware x.sig2 && ed25519Verify x.rootKey x.microcode x.sig3

/-- FW_UPDATE_DONE (R426): the outcome in STATUS; only a whole and signed image reaches flash. -/
def execFwUpdateDone (flashError : Bool) (s : State) : Host.Outcome State Fault Refusal :=
  ok s (s.powered fun s =>
    match s.power.update with
    | none => s
    | some (a, n, k) =>
      let s := s.putPower { s.power with update := none }
      let done (s : State) (status : Nat) : State :=
        (s.setFld SEC_FW_CTL SEC_FW_CTL_BUSY 0).setFld SEC_FW_CTL SEC_FW_CTL_STATUS status
      if k = s.fld SEC_BOOT SEC_BOOT_SLOT then done s 4
      else if !Config.imageFits n then done s 2
      else if !s.anyData a n then done s 1
      else
        let (l, s) := s.dataRead a n
        if !(slotImage l).signed then done s 1
        else if flashError then done s 3
        else done (s.putBootSlots (Table.put natRank s.bootSlots k (slotImage l))) 0)

/-! ### The management I3C target (R458, R459) -/

/-- The target answers while domain 0 has power (R461). -/
def State.i3cOn (s : State) (f : State → State) : State := if s.power.mainOn then f s else s

/-- What a read of the target returns. -/
def State.i3cRead (s : State) (b : List Byte) : State := s.emit (.i3c false b)

/-- I3C_STATUS (R458) -/
def execI3cStatus (s : State) : Host.Outcome State Fault Refusal :=
  ok s (s.i3cOn fun s =>
    let b := flag s.safe + 2 * flag (s.bit SPW_STAT SPW_STAT_FATAL) + 4 * flag (s.bit SPW_STAT SPW_STAT_ADVISORY) +
      8 * flag s.power.bootStopped
    s.i3cRead (toBytes 1 b ++ toBytes 1 (s.fld SEC_BOOT SEC_BOOT_BOOT_STATUS) ++ toBytes 1 s.power.failDomain ++
      toBytes 1 0 ++ toBytes 4 s.cycle))

/-- FERR (R458) -/
def execFerr (s : State) : Host.Outcome State Fault Refusal :=
  ok s (s.i3cOn fun s => s.i3cRead
    (toBytes 8 (s.rd SPW_FERR_SRC).toNat ++ toBytes 8 (s.rd SPW_FERR_CODE).toNat ++ toBytes 8 (s.rd SPW_FERR_CYCLE).toNat))

/-- INPUT (R458) -/
def execInput (s : State) : Host.Outcome State Fault Refusal :=
  ok s (s.i3cOn fun s => s.i3cRead (toBytes 8 (s.rd PWR_INPUT).toNat))

/-- HOTTEST (R458) -/
def execHottest (s : State) : Host.Outcome State Fault Refusal :=
  ok s (s.i3cOn fun s => s.i3cRead (toBytes 2 (s.fld PWR_TEMP PWR_TEMP_HOTTEST)))

/-- IDENTITY (R458): the device certificate with its issuer's, 384 bytes. -/
def execIdentity (s : State) : Host.Outcome State Fault Refusal :=
  ok s (s.i3cOn fun s => s.i3cRead ((s.cert ++ List.replicate 384 0).take 384))

/-- Whether any key of the host key list is VALID. -/
def State.anyKey (s : State) : Bool := (List.range 16).any fun k => s.bit (HP_KEY_FLAGS k) HP_KEY_FLAGS_VALID

/-- HOST_KEY (R459): key 0 while no key is VALID and no session has opened since power-up; else NACK. -/
def execHostKey (key : BitVec 256) (s : State) : Host.Outcome State Fault Refusal :=
  ok s (s.i3cOn fun s =>
    if s.anyKey || s.power.sessionSeen || s.power.hostKeySeen then s.emit .nack
    else
      let s := (List.range 4).foldl (fun s j => s.wr (HP_KEY_PUB 0 j) (BitVec.ofNat 64 (bitsOf key.toNat (64 * j) 64))) s
      let s := (s.setFld (HP_KEY_FLAGS 0) HP_KEY_FLAGS_VALID 1).setFld (HP_KEY_FLAGS 0) HP_KEY_FLAGS_PRIV 1
      (s.putPower ({ s.power with hostKeySeen := true })))

/-- ENEC (R458) -/
def execEnec (s : State) : Host.Outcome State Fault Refusal :=
  ok s (s.i3cOn fun s => s.putPower ({ s.power with i3cEnec := true }))

/-- DYNAMIC_ADDRESS (R458) -/
def execDynamicAddress (addr : BitVec 7) (s : State) : Host.Outcome State Fault Refusal :=
  ok s (s.i3cOn fun s => s.putPower ({ s.power with i3cAddr := some addr }))

end Sys2Proof.Machine
end

