-- ==== Sys2Proof/Machine/WaterBook.lean ====
section
/-! DEFINITION. Sys2Proof/Machine/WaterBook.lean: the Water Book, the count link and the relay (spec/16_water_book.md
R434-R448). The Water Book has its own supply: its commands act whether or not the main side runs (R415, R434). -/

namespace Sys2Proof.Machine

def State.setWb (s : State) (w : WaterBook) : State := s.putWb w

/-- What the Water Book does while it runs, on bus-bar or hold-up supply. -/
def State.wbOn (s : State) (f : WaterBook → WaterBook) : State := if s.wb.on then s.setWb (f s.wb) else s

/-! ### Measurement (R437) -/

/-- The flags of Table 16-1 that one sample sets: [2] UNDER_RANGE, [3] OVER_RANGE, [4] LOW_LOAD. `p` is in 0.1 mW. -/
def sampleFlags (v p : Nat) : Nat :=
  4 * flag (decide (v < 4000)) + 8 * flag (decide (5200 < v)) + 16 * flag (decide (p < 2400000))

/-- A microsecond counter that saturates where nothing asks for more. -/
def later (n : Option Nat) (d : Nat) : Option Nat := n.map (· + d)

/-- One sample: volts in 10 mV, current in 10 mA, over `d` microseconds of Water Book time. Below 5 W the register does not
advance. -/
def WaterBook.sample (w : WaterBook) (v a d : Nat) : WaterBook :=
  let p := v * a
  let e := w.eFrac + (if 50000 ≤ p then p * d else 0)
  let ms := w.msEnergy + p * d
  let t := w.msMicros + d
  let full := decide (1000 ≤ t)
  let noFrame := w.noFrame + d
  { w with
    eTotal := (w.eTotal + e / 10 ^ 7) % 2 ^ 64
    eFrac := e % 10 ^ 7
    ticks := w.ticks + 25 * d
    vMin := min w.vMin v
    vMax := max w.vMax v
    pMax := if full then some (max (w.pMax.getD 0) (ms / (t * 10000))) else w.pMax
    msEnergy := if full then 0 else ms
    msMicros := if full then 0 else t
    flags := w.flags ||| sampleFlags v p ||| 2 * flag (decide (100000 ≤ noFrame))
    noFrame := noFrame
    sinceGrid := later w.sinceGrid d
    sinceDemand := later w.sinceDemand d }

/-- WB_SAMPLE (R437) -/
def execWbSample (volts amps : BitVec 16) (micros : BitVec 32) (s : State) : Host.Outcome State Fault Refusal :=
  ok s (s.wbOn fun w => w.sample volts.toNat amps.toNat micros.toNat)

/-! ### The count sender (R438, R439) -/

/-- Clusters that hold a thread of a context that is not IDLE, or have held one in the microsecond that ends: pairs of cluster
and context. -/
def State.clusterHolds (s : State) : List (Nat × Nat) :=
  ((s.tiles.filter fun e => s.bound e.1).flatMap fun e =>
    ((if e.2.idle then [] else [e.2.ctx]) ++ e.2.ended).map fun c => (s.clusterOf e.1, c)).eraseDups

/-- A new microsecond begins at a tile. -/
def Tile.fresh (x : Tile) : Tile := { x with ended := [] }

/-- CLUSTER_US_TICK (R438): one count for each cluster of each context. -/
def execClusterUsTick (s : State) : Host.Outcome State Fault Refusal :=
  ok s (s.powered fun s =>
    (s.putTiles (s.tiles.map fun e => (e.1, e.2.fresh))).setWb
      { s.wb with counts := s.clusterHolds.foldl (fun l k => addCount l k.2 (s.genOf k.2) 0 1) s.wb.counts })

/-- The 16 bytes of an entry (R439): CTX in [11:0], GEN in [15:12], CELLS in [71:16], CLUSTER_US in [127:72]. -/
def CountRec.bytes (r : CountRec) : List Byte :=
  toBytes 16 (r.ctx % 4096 + r.gen % 16 * 2 ^ 12 + r.cells % 2 ^ 56 * 2 ^ 16 + r.clusterUs % 2 ^ 56 * 2 ^ 72)

/-- What the CRC-32C of a frame covers: FSEQ, the REQUEST and RESEND bits with RESEND_SEQ as WBR_CTL lays them out, the
entries (R439; the order is log entry 75). -/
def CountFrame.bytes (f : CountFrame) : List Byte :=
  toBytes 4 f.fseq ++ toBytes 8 (f.resendSeq + flag f.request * 2 ^ 32 + flag f.resend * 2 ^ 33) ++
    f.entries.flatMap CountRec.bytes

/-- The frame with its CRC-32C, and whether the one it carries is right. -/
def CountFrame.sealed (f : CountFrame) : CountFrame := { f with crc := crc32c f.bytes }
def CountFrame.good (f : CountFrame) : Bool := f.crc == crc32c f.bytes

/-- The counts that a frame carries: up to 256 contexts with nonzero counts, ascending from `next` and round, in fields of
56 bits. -/
def frameEntries (l : List CountRec) (next : Nat) : List CountRec :=
  let l := l.filter fun r => r.cells != 0 || r.clusterUs != 0
  (((l.filter fun r => next ≤ r.ctx) ++ l.filter fun r => r.ctx < next).take 256).map fun r =>
    { r with cells := r.cells % 2 ^ 56, clusterUs := r.clusterUs % 2 ^ 56 }

/-- COUNT_FRAME_SEND (R439): the counts of each context's generation in force; nothing leaves while crossing 0x005 is cut;
REQUEST and RESEND clear once carried (R448). -/
def execCountFrameSend (s : State) : Host.Outcome State Fault Refusal :=
  ok s (s.powered fun s =>
    if s.crossed 5 then s
    else
      let w := s.wb
      let l := frameEntries (w.counts.filter fun r => r.gen == s.genOf r.ctx) w.nextCtx
      let f : CountFrame := ⟨w.fseq, s.bit WBR_CTL WBR_CTL_REQUEST, s.bit WBR_CTL WBR_CTL_RESEND,
        s.fld WBR_CTL WBR_CTL_RESEND_SEQ, l, 0⟩
      let s := s.setWb { w with fseq := (w.fseq + 1) % 2 ^ 32, frames := w.frames ++ [f.sealed],
                                nextCtx := match l.getLast? with | some r => (r.ctx + 1) % 4096 | none => w.nextCtx }
      (s.setFld WBR_CTL WBR_CTL_REQUEST 0).setFld WBR_CTL WBR_CTL_RESEND 0)

/-- A delta added to those of the interval, in ascending order of context. -/
def addDelta (l : List (CountRec × Bool)) (r : CountRec) (restart : Bool) : List (CountRec × Bool) :=
  match l with
  | [] => [(r, restart)]
  | e :: t =>
    if e.1.ctx = r.ctx then
      (⟨r.ctx, r.gen, e.1.cells + r.cells, e.1.clusterUs + r.clusterUs⟩, e.2 || restart) :: t
    else if r.ctx < e.1.ctx then (r, restart) :: e :: t
    else e :: addDelta t r restart

/-- One entry of a frame: its delta against the value last held, or the whole value when GEN has changed. -/
def WaterBook.takeEntry (w : WaterBook) (r : CountRec) : WaterBook :=
  let old := w.last.find? fun x => x.ctx == r.ctx
  let same := old.any fun x => x.gen == r.gen
  let d : CountRec := match old with
    | some x => if same then ⟨r.ctx, r.gen, (r.cells + 2 ^ 56 - x.cells) % 2 ^ 56, (r.clusterUs + 2 ^ 56 - x.clusterUs) % 2 ^ 56⟩
                else r
    | none => r
  { w with last := (w.last.filter fun x => x.ctx != r.ctx) ++ [r], deltas := addDelta w.deltas d (old.isSome && !same) }

/-- An on-demand record asked for: none is cut within 100 ms after a grid point or 1 s after the last one (R440). -/
def WaterBook.ask (w : WaterBook) : WaterBook :=
  if w.sinceGrid.any (· ≤ 100000) || w.sinceDemand.any (· ≤ 1000000) then w else { w with demand := true }

/-- The record with sequence number `n`, if it is still held. -/
def WaterBook.held (w : WaterBook) (n : Nat) : Option (List Byte) := Table.look w.records n

/-- COUNT_FRAME_RECEIVE (R439): the oldest frame on the count link; `crcOk` is false where the line has changed a bit of it. -/
def execCountFrameReceive (crcOk : Bool) (s : State) : Host.Outcome State Fault Refusal :=
  ok s
    (match s.wb.frames with
    | [] => s
    | f :: rest =>
      let w := { s.wb with frames := rest }
      if !w.on then s.setWb w
      else if !(crcOk && f.good) then s.setWb { w with framesBad := w.framesBad + 1 }
      else
        let w := f.entries.foldl WaterBook.takeEntry { w with framesOk := w.framesOk + 1, noFrame := 0 }
        let w := if f.request then w.ask else w
        let s := s.setWb w
        match (if f.resend then w.held f.resendSeq else none) with
        | some b => s.emit (.relay b)
        | none => s)

/-! ### Intervals and records (R440-R443) -/

/-- Water Book time passes up to `t`, in microseconds of 25 ticks: what is timed from a grid point, a record or a frame goes
on (R439, R440). -/
def WaterBook.until (w : WaterBook) (t : Nat) : WaterBook :=
  let d := (t - w.ticks) / 25
  let noFrame := w.noFrame + d
  { w with
    ticks := t, sinceGrid := later w.sinceGrid d, sinceDemand := later w.sinceDemand d, noFrame := noFrame
    flags := w.flags ||| 2 * flag (decide (100000 ≤ noFrame)) }

/-- The running interval ends at `t` with a record of kind `kind`, and the next one begins there. -/
def WaterBook.close (w : WaterBook) (kind t : Nat) : WaterBook :=
  let w := w.until t
  let x : Interval :=
    { kind := kind, flags := w.flags, tStart := w.tStart, tEnd := t, eTotal := w.eTotal,
      eInterval := (w.eTotal + 2 ^ 64 - w.eStart) % 2 ^ 64,
      vMin := w.vMin, vMax := w.vMax, pMax := w.pMax, framesOk := w.framesOk, framesBad := w.framesBad,
      deltas := w.deltas.filter fun d => d.1.cells != 0 || d.1.clusterUs != 0 }
  { w with ended := w.ended ++ [x], tStart := t, eStart := w.eTotal, vMin := 65535, vMax := 0, pMax := none,
           flags := 0, framesOk := 0, framesBad := 0, deltas := [] }

/-- The grid: 60 s in ticks of 40 ns, from the Water Book's boot (R440). -/
def gridTicks : Nat := 1500000000

/-- An on-demand request that waits ends its interval. -/
def WaterBook.answer (w : WaterBook) (t : Nat) : WaterBook :=
  if w.demand then { w.close 1 t with demand := false, sinceDemand := some 0 } else w

/-- WB_INTERVAL_END (R440): time has come to `ticks`. With `onGrid` a grid point ends the interval, where that time is one;
without, an on-demand request that waits does. A request that came before the grid point has its record first. -/
def execWbIntervalEnd (ticks : Word) (onGrid : Bool) (s : State) : Host.Outcome State Fault Refusal :=
  ok s (s.wbOn fun w =>
    let t := max w.ticks ticks.toNat
    if !onGrid then w.answer t
    else if t % gridTicks = 0 && w.tStart < t then { (w.answer w.ticks).close 0 t with sinceGrid := some 0 }
    else w)

def fixBytes (n : Nat) (l : List Byte) : List Byte := (l ++ List.replicate n 0).take n

/-- The fingerprint of the firmware that runs. -/
def WaterBook.fpNow (w : WaterBook) : List Byte := fixBytes 64 (if w.fp.isEmpty then Config.waterFp else w.fp)

/-- PREV: bytes 0-31 of SHA-512 of the record before. -/
def WaterBook.prev (w : WaterBook) : List Byte :=
  match w.records.getLast? with
  | some e => (sha512 e.2).take 32
  | none => List.replicate 32 0

/-- One context entry of a record. -/
def deltaBytes (d : CountRec × Bool) : List Byte :=
  toBytes 2 d.1.ctx ++ toBytes 1 d.1.gen ++ toBytes 1 (flag d.2) ++ toBytes 4 0 ++ toBytes 8 d.1.cells ++
    toBytes 8 d.1.clusterUs

/-- Bytes 0-1,983 of part `part` of `parts` of a record (Table 16-1). -/
def WaterBook.body (w : WaterBook) (x : Interval) (part parts : Nat) : List Byte :=
  let l := (x.deltas.drop (64 * part)).take 64
  fixBytes 1984
    (toBytes 4 0x57425243 ++ toBytes 1 1 ++ toBytes 1 0 ++ toBytes 1 x.kind ++ toBytes 1 (x.flags % 32 / 2 * 2 + flag w.tamper) ++
      toBytes 4 (w.rseq + 1) ++ toBytes 4 w.bootCount ++ toBytes 8 x.tStart ++ toBytes 8 x.tEnd ++ toBytes 8 x.eTotal ++
      toBytes 8 x.eInterval ++ toBytes 2 x.vMin ++ toBytes 2 x.vMax ++ toBytes 2 (x.pMax.getD 0) ++ toBytes 2 l.length ++
      toBytes 2 part ++ toBytes 2 parts ++ toBytes 4 x.framesOk ++ toBytes 4 x.framesBad ++ toBytes 4 w.updates ++
      fixBytes 16 Config.waterSerial ++ fixBytes 16 Config.moduleSerial ++ w.fpNow ++ w.prev ++ List.replicate 56 0 ++
      l.flatMap deltaBytes)

/-- One part signed and kept: the latest 4,096 stay in flash (R443). -/
def WaterBook.commitPart (w : WaterBook) (x : Interval) (part parts : Nat) : List Byte × WaterBook :=
  let b := w.body x part parts
  let r := b ++ fixBytes 64 (ed25519Sign Config.waterKey b)
  let l := w.records ++ [(w.rseq + 1, r)]
  (r, { w with rseq := w.rseq + 1, records := l.drop (l.length - 4096) })

/-- Records of one interval: one for each 64 contexts, at least one. -/
def Interval.parts (x : Interval) : Nat := max 1 ((x.deltas.length + 63) / 64)

/-- The extremes that the record of an interval carries. V_MIN and V_MAX of an interval without a sample, and P_MAX of one
without a whole millisecond, are open (log entry 75). -/
def State.settleInterval (s : State) (x : Interval) : Interval × State :=
  let (a, s) := if x.vMax < x.vMin then
      let (v, s) := s.draw 4
      ({ x with vMin := ofBytes (v.take 2), vMax := ofBytes (v.drop 2) }, s)
    else (x, s)
  match a.pMax with
  | some _ => (a, s)
  | none =>
    let (v, s) := s.draw 2
    ({ a with pMax := some (ofBytes v) }, s)

/-- The parts of the oldest interval that has ended committed, sent once on the relay link, and announced. -/
def State.commitRecord (s : State) : State :=
  match s.wb.ended with
  | [] => s
  | x :: rest =>
    let (x, s) := (s.setWb { s.wb with ended := rest }).settleInterval x
    (List.range x.parts).foldl (fun s i =>
      let (r, w) := s.wb.commitPart x i x.parts
      let s := (s.setWb w).emit (.relay r)
      if w.i3cEnec then s.emit (.ibi true) else s) s

/-- WB_RECORD_COMMIT (R441) -/
def execWbRecordCommit (s : State) : Host.Outcome State Fault Refusal := ok s (if s.wb.on then s.commitRecord else s)

/-- Every interval that has ended committed. -/
def State.commitAll (s : State) : State := (List.range s.wb.ended.length).foldl (fun s _ => s.commitRecord) s

/-! ### Supply (R436, R444) -/

/-- WB_POWER_LOSS (R444): the interval ends with a POWER_LOSS record, committed on the hold-up supply. -/
def execWbPowerLoss (ticks : Word) (s : State) : Host.Outcome State Fault Refusal :=
  ok s
    (if s.wb.on && !s.wb.powerLost then
      (s.setWb { s.wb.close 2 (max s.wb.ticks ticks.toNat) with powerLost := true })
    else s)

/-- WB_INPUT_RETURN (R444): the commit is finished, and the new interval has begun at that record's T_END. -/
def execWbInputReturn (s : State) : Host.Outcome State Fault Refusal :=
  ok s (if s.wb.on && s.wb.powerLost then s.commitAll.wbOn fun w => { w with powerLost := false } else s)

/-- What survives in the Water Book's flash when its supply runs out: sequence numbers, records, firmware, and E_TOTAL as it
was committed with the POWER_LOSS record. -/
def WaterBook.dark (w : WaterBook) : WaterBook :=
  { WaterBook.init with
    on := false, bootCount := w.bootCount, rseq := w.rseq, eTotal := w.eStart, eStart := w.eStart,
    tamper := w.tamper, updates := w.updates, fwVersion := w.fwVersion, fp := w.fp, records := w.records,
    counts := w.counts, fseq := w.fseq, nextCtx := w.nextCtx, relay := w.relay }

/-- HOLD_UP_EXHAUSTED (R444): the commit has been made within the hold-up, then the supply runs out. -/
def execHoldUpExhausted (s : State) : Host.Outcome State Fault Refusal :=
  ok s (if s.wb.on && s.wb.powerLost then s.commitAll.wbOn WaterBook.dark else s)

/-- WB_BOOT (R444): WB_BOOT is raised by one, and a POWER_UP record of an empty interval is committed. -/
def execWbBoot (s : State) : Host.Outcome State Fault Refusal :=
  ok s
    (if s.wb.on then s
    else
      (s.setWb ({ s.wb with on := true, bootCount := s.wb.bootCount + 1, ticks := 0, tStart := 0, eStart := s.wb.eTotal
                            : WaterBook }.close 3 0)).commitRecord)

/-- TAMPER (R436): the cover switch, powered from the hold-up supply, has closed. -/
def execTamper (s : State) : Host.Outcome State Fault Refusal := ok s (s.setWb { s.wb with tamper := true })

/-! ### The Water Book's I3C target (R445, Table 16-2) -/

/-- It answers whenever the input exceeds 30 V (spec/17_electrical_mechanical.md Table 17-4). -/
def State.wbI3c (s : State) (f : State → State) : State := if s.wb.on && !s.wb.powerLost then f s else s

def State.wbRead (s : State) (b : List Byte) : State := s.emit (.i3c true b)

/-- WB_STATUS (R445): newest RSEQ, oldest RSEQ kept, FLAGS of the newest record. -/
def execWbStatus (s : State) : Host.Outcome State Fault Refusal :=
  ok s (s.wbI3c fun s =>
    let newest := s.wb.records.getLast?
    s.wbRead (toBytes 4 (newest.elim 0 Prod.fst) ++ toBytes 4 (s.wb.records.head?.elim 0 Prod.fst) ++
      [(newest.elim [] Prod.snd).getD 7 0]))

/-- WB_SELECT (R445) -/
def execWbSelect (rseq : BitVec 32) (s : State) : Host.Outcome State Fault Refusal :=
  ok s (s.wbI3c fun s => s.setWb { s.wb with selected := rseq.toNat })

/-- WB_RECORD (R445): the selected record, zeros when it is no longer kept. -/
def execWbRecord (s : State) : Host.Outcome State Fault Refusal :=
  ok s (s.wbI3c fun s => s.wbRead ((s.wb.held s.wb.selected).getD (List.replicate 2048 0)))

/-- WB_REQUEST (R440): an on-demand record for the byte 0x01. -/
def execWbRequest (arg : Byte) (s : State) : Host.Outcome State Fault Refusal :=
  ok s (s.wbI3c fun s => if arg = 1 then s.setWb s.wb.ask else s)

/-- One certificate in the layout of Table 15-5 with GRADE 0. -/
def certBytes (serial subject issuer notBefore sig : List Byte) : List Byte :=
  toBytes 4 0x5A434552 ++ toBytes 2 1 ++ toBytes 2 0 ++ fixBytes 16 serial ++ fixBytes 32 subject ++ fixBytes 32 issuer ++
    fixBytes 8 notBefore ++ List.replicate 32 0 ++ fixBytes 64 sig

/-- The certificate of the Water Book key and its issuer's (R445). -/
def waterCert : List Byte :=
  certBytes Config.waterSerial (ed25519Public Config.waterKey) (Config.waterIssuer 0) (Config.waterNotBefore 0)
      (Config.waterCertSig 0) ++
    certBytes [] (Config.waterIssuer 0) (Config.waterIssuer 1) (Config.waterNotBefore 1) (Config.waterCertSig 1)

/-- WB_CERT (R445) -/
def execWbCert (s : State) : Host.Outcome State Fault Refusal := ok s (s.wbI3c fun s => s.wbRead waterCert)

/-- WB_UPDATE (R447): a block joins the image; a whole image is verified, and a newer one is switched to, counted and
recorded. A whole image that is refused is dropped. -/
def execWbUpdate (block : List Byte) (s : State) : Host.Outcome State Fault Refusal :=
  ok s (s.wbI3c fun s =>
    let b := s.wb.imageBlocks ++ fixBytes 256 block
    if !Config.waterWhole b then s.setWb { s.wb with imageBlocks := b }
    else if ed25519Verify Config.waterUpdateKey (Config.waterBody b) (Config.waterSig b) &&
        decide (s.wb.fwVersion < Config.waterVersion b) then
      let w := { s.wb with imageBlocks := [], fwVersion := Config.waterVersion b, fp := sha512 b,
                           updates := s.wb.updates + 1 }
      (s.setWb (w.close 4 w.ticks)).commitAll
    else s.setWb { s.wb with imageBlocks := [] })

/-- WB_ENEC (R445) -/
def execWbEnec (s : State) : Host.Outcome State Fault Refusal :=
  ok s (s.wbI3c fun s => s.setWb { s.wb with i3cEnec := true })

/-- WB_DYNAMIC_ADDRESS (R445) -/
def execWbDynamicAddress (addr : BitVec 7) (s : State) : Host.Outcome State Fault Refusal :=
  ok s (s.wbI3c fun s => s.setWb { s.wb with i3cAddr := some addr })

/-! ### The relay of the logic die (R446, R448) -/

/-- RSEQ of a record (Table 16-1). -/
def rseqOf (record : List Byte) : Nat := ofBytes ((record.drop 8).take 4)

/-- RSEQ of the record in a window place. -/
def State.relayHeld (s : State) (k : Nat) : Option Nat :=
  (Table.look s.wb.relay k).map fun h => s.load (handleAddr h + 8) 4

/-- Buffers granted to the relay take their records; one that the window place no longer needs is freed again. -/
def State.relayGranted (s : State) : State :=
  s.grants.foldl (fun s e =>
    match e.1.asker with
    | .relay record =>
      let s := s.putGrants (s.grants.erase e)
      let k := rseqOf record % 1024
      match Table.look s.wb.relay k with
      | some h =>
        (if (s.relayHeld k).any fun n => decide (rseqOf record < n) then s else s.put (handleAddr h) record).poolFreeHandle 3 3 e.2
      | none => (s.setWb { s.wb with relay := Table.put natRank s.wb.relay k e.2 }).put (handleAddr e.2) record
    | _ => s) s

/-- A record kept in the pool 3 buffer of its window place, where a newer one is not replaced. A place without a buffer asks
for one, and waits in the waiter list while there is none (spec/11_memory_and_pools.md R310). -/
def State.relayStore (s : State) (record : List Byte) : State :=
  let k := rseqOf record % 1024
  if (s.relayHeld k).any fun n => decide (rseqOf record < n) then s
  else
    match Table.look s.wb.relay k with
    | some h => s.put (handleAddr h) record
    | none => (s.poolAlloc ⟨.relay, 3, 3, .relay record⟩ true).relayGranted

/-- RELAY_RECORD_RECEIVE (R446): a record that arrives whole goes to pool 3 and its window, where a record whose RSEQ is 1,024
higher replaces it and an older one does not; WB_FP of the newest goes to the Jorou FIRMWARE record (R447; log entry 75). A
frame that fails its check counts in WBR_BAD. -/
def execRelayRecordReceive (record : List Byte) (checkOk : Bool) (s : State) : Host.Outcome State Fault Refusal :=
  ok s (s.powered fun s =>
    if !checkOk || record.length != 2048 then s.count WBR_BAD
    else
      let seq := rseqOf record
      let newest := s.fld WBR_STAT WBR_STAT_NEWEST
      let s := (s.count WBR_COUNT).setFld WBR_STAT WBR_STAT_LINK_UP 1
      let s := s.relayStore record
      if seq < newest then s
      else
        let s := s.setFld WBR_STAT WBR_STAT_NEWEST seq
        let fp := (record.drop 104).take 64
        if s.jorou.wbFp = fp then s else (s.putJorou { s.jorou with wbFp := fp }).jorouRewrite)

/-- WBR_REQUEST (R448) -/
def execWbrRequest (s : State) : Host.Outcome State Fault Refusal :=
  ok s (s.powered fun s => s.setFld WBR_CTL WBR_CTL_REQUEST 1)

/-- RESEND (R448) -/
def execResend (s : State) : Host.Outcome State Fault Refusal :=
  ok s (s.powered fun s => s.setFld WBR_CTL WBR_CTL_RESEND 1)

end Sys2Proof.Machine
end

