-- ==== Sys2Proof/Machine/RegAccess.lean ====
section
/-! DEFINITION. Sys2Proof/Machine/RegAccess.lean: register writes with their side effects, and what the management cores do
for a cell that addresses the control region, canal memory or the diagnostic window (spec/00_scope.md R6-R8;
spec/01_architecture.md R17; spec/11_memory_and_pools.md R294, R295, R304, R305, R318). -/

namespace Sys2Proof.Machine

/-! ### Register writes -/

/-- The window whose writes the module refuses: the debug window of a tile, which is read only, and the pool operations of
the BPM, which are no registers (spec/13_host_port_and_control.md R370; spec/11_memory_and_pools.md R318). -/
def writeRefused (r : Reg) : Bool := isDebug r || isPoolOp r

/-- What a plain write of `v` stores over `old`, where the field's text bounds it: SHIFT and CAP
(spec/04_sluice_scheduling.md Table 4-6; spec/15_power_clocks_security.md R431). -/
def boundWrite (r : Reg) (v : Nat) : Nat :=
  if r = SLU_SMP_CFG then putBits v 0 5 (min 24 (max 10 (bitsOf v 0 5)))
  else if r = PWR_CAP then putBits v 0 16 (min 2400 (max 1200 (bitsOf v 0 16)))
  else v

/-- The W1C bits among `sets`, which the module itself sets in the cycle of a write (R7). -/
def ownBits (r : Reg) (sets : Nat) : Nat :=
  match regRow? r with
  | none => 0
  | some row => row.fields.foldl (fun m f =>
      match f.acc with
      | .w1c => m ||| bitsOf sets f.lo f.width <<< f.lo
      | _ => m) 0

/-- Those bits set; a flag of TILE_FP_FLAGS with its event (R7; spec/05_number_formats.md R135). -/
def State.ownSets (s : State) (r : Reg) (own : Nat) : State :=
  if r = TILE_FP_FLAGS r.inst then (List.range 16).foldl (fun s e => s.setFlags r.inst e (bitsOf own (4 * e) 4)) s
  else s.wr r (s.rd r ||| BitVec.ofNat 64 own)

/-- The stored fields of a register after a write of `v` (R6). -/
def State.storeReg (s : State) (r : Reg) (v : Nat) : State :=
  match regRow? r with
  | none => s
  | some row => s.wr r (BitVec.ofNat 64 (storeFields row.fields (s.rd r).toNat (boundWrite r v)))

/-- What follows a plain write: PRIO from 1 to 0 and SHAPE_EN from 0 to 1 of a channel, POLICED from 0 to 1 of a class,
ENABLE of the dispatcher (spec/04_sluice_scheduling.md R94, R98, R105; spec/10_expert_and_headwater.md R270). -/
def State.afterWrite (s : State) (r : Reg) (old : Nat) : State :=
  let new := (s.rd r).toNat
  if r.blk = 2 && 0x200 ≤ r.off && r.off < 0x280 then
    let v := (r.off - 0x200) / 8
    s.modVc r.inst v fun c =>
      let c := if bitOf old 8 && !bitOf new 8 && !(s.q r.inst v).isEmpty then { c with retag := true } else c
      if !bitOf old 9 && bitOf new 9 then { c with elig := 4 * s.cycle, filed := none } else c
  else if r.blk = 2 && 0x2A0 ≤ r.off && r.off < 0x2B8 then
    let k := (r.off - 0x2A0) / 8 + 5
    if !bitOf old 63 && bitOf new 63 then s.setBucket r.inst k (s.bucketTop r.inst k) else s
  else if r = EXP_CFG then s.expReleaseAll
  else s

/-- The sessions of a key closed (spec/13_host_port_and_control.md R352). -/
def State.closeKey (s : State) (k : Nat) : State := s.putSessions (s.sessions.filter fun e => e.2.key != k)

/-- A write to a register of the host key list: a change closes the key's sessions (spec/13 R352). -/
def State.hpKeyStore (s : State) (k : Nat) (r : Reg) (v : Nat) : State :=
  let t := s.storeReg r v
  if t.rd r = s.rd r then t else t.closeKey k

/-- The host port registers and the key list stored in flash (spec/13 R368). -/
def State.saveFlash (s : State) : State :=
  s.putFlash (⟨hpRegs.map s.rd, (List.range 80).map fun i => (i, s.rd (hpKeyReg (i / 5) (i % 5)))⟩)

/-- Every session closed (spec/13 R352). -/
def State.closeAll (s : State) : State := s.putSessions []

/-- A write to HP_CFG, HP_MAC or an address register: stored, to apply 1 ms later (spec/13 R368). -/
def State.hpCfgStore (s : State) (r : Reg) (v : Nat) : State := (s.storeReg r v).putHpApply true

/-- A write of a whole register that takes no plain store; none for every other register. -/
def State.actWrite (s : State) (r : Reg) (v : Nat) : Option State :=
  let i := r.inst
  match r.blk with
  | 1 =>
    if r = TILE_CTL i then some (s.applyHalt i (v % 2 ^ 16))
    else if r = TILE_WEIR_CFG i then some (s.weirCfgWrite i v)
    else none
  | 2 =>
    if r = PORT_GATE_CTL i then some (s.gateCtlWrite i v)
    else if r = PORT_LINK_CTL i then some (s.linkCtlWrite i v)
    else if 0x400 ≤ r.off && r.off < 0x800 then
      some (s.gateEntryWrite i ((r.off - 0x400) / 512) ((r.off - 0x400) % 512 / 8) v)
    else none
  | 4 => if r = ROUTE_SWITCH_ID then some (s.switchIdWrite (v % 2 ^ 12)) else none
  | 6 =>
    if r = SLU_HIST_CTL then some (if bitOf v 0 then s.setFld SLU_HIST_CTL SLU_HIST_CTL_BUSY 1 else s) else none
  | 13 =>
    if r = SPW_RESET then some (s.spwResetWrite v)
    else if r = FAULT_PIN then some (s.faultPinWrite v)
    else if r = SPW_TRAY_REQ then some (if bitOf v 0 then s.assertTray else s)
    else if r = SPW_CAP_FREE then some (s.capFree v)
    else if r = SPW_CTL then some (if bitOf v 0 then s.countClear else s)
    else none
  | 14 =>
    if 0x100 ≤ r.off && r.off < 0x100 + 8 * 50 then
      some (s.domainOff ((r.off - 0x100) / 8) (bitOf v PWR_DOMAIN_OFF.lo))
    else none
  | 16 =>
    if hpRegs.contains r then some (s.hpCfgStore r v)
    else if r = HP_CTL then
      let s := if bitOf v 1 then s.saveFlash else s
      some (if bitOf v 0 then s.closeAll else s)
    else if 0x400 ≤ r.off && r.off < 0x800 then some (s.hpKeyStore ((r.off - 0x400) / 0x40) r v)
    else none
  | 17 => if r.off % 0x40 = 8 then some (s.haltClear (r.off / 0x40) (BitVec.ofNat 64 v)) else none
  | 19 => if r = SEC_FW_CTL then some (s.fwCtlWrite v) else none
  | _ => none

/-- A mapped register given the value `v`; W1C bits in `sets` are set by the module in that cycle and win over the clear (R7).
Reserved offsets ignore it (R8). -/
def State.regStore (s : State) (r : Reg) (v sets : Nat) : State :=
  if (regRow? r).isNone then s
  else
    let own := ownBits r sets
    let v := v - (v &&& own)
    let t := match s.actWrite r v with
      | some t => t
      | none => (s.storeReg r v).afterWrite r (s.rd r).toNat
    if own = 0 then t else t.ownSets r own

/-- What a write of the bytes in `mask` amounts to as a write of the whole register: bytes not written keep their RW value and
touch no other field. -/
def State.merged (s : State) (r : Reg) (v mask : Nat) : Nat :=
  let keep := match regRow? r with
    | none => 0
    | some row => row.fields.foldl (fun m f =>
        match f.acc with
        | .rw => m ||| bitsOf (s.rd r).toNat f.lo f.width <<< f.lo
        | _ => m) 0
  ofBytes ((List.range 8).map fun i =>
    BitVec.ofNat 8 (if bitOf mask i then bitsOf v (8 * i) 8 else bitsOf keep (8 * i) 8))

/-- Whether an access to the aligned doubleword at `a` of the control region ends with an address error (R294; spec/13 R370;
spec/15 R419). -/
def State.ctrlFails (s : State) (a : Nat) (write : Bool) : Bool :=
  match regAt a with
  | none => true
  | some r => s.cutOff r || isPoolOp r ||
      (isDebug r && (write || (s.debugWord r.inst r.off).isNone))

/-- The error counted at a crossing that cuts the block off. -/
def State.ctrlLost (s : State) (a : Nat) : State := (regAt a).elim s s.cutCount

/-- A write of the aligned doubleword at `a`: whether it was performed, and the state after it. -/
def State.regWrite (s : State) (a v mask sets : Nat) : Bool × State :=
  match regAt a with
  | none => (false, s)
  | some r =>
    if s.ctrlFails a true then (false, s.cutCount r)
    else (true, s.regStore r (if mask % 256 = 255 then v else s.merged r v mask) sets)

/-- REGISTER_WRITE (R6): a 64-bit write of a register, and the W1C bits that the module itself sets in that cycle (R7). -/
def execRegisterWrite (reg : BitVec 48) (value sets : Word) (s : State) : Host.Outcome State Fault Refusal :=
  ok s (s.powered fun s =>
    let a := reg.toNat
    if a % 8 != 0 || a < controlBase || controlEnd ≤ a then s
    else (s.regWrite a value.toNat 255 sets.toNat).2)

/-! ### Reads over doublewords -/

/-- `n` bytes of the control region: none if any doubleword fails, and then nothing is performed. -/
def State.ctrlRead (s : State) (a n : Nat) : Option (List Byte) × State :=
  let ws := doublewords a n
  match ws.find? fun w => s.ctrlFails w false with
  | some w => (none, s.ctrlLost w)
  | none =>
    let r := ws.foldl (fun (x : List Byte × State) w =>
      let (v, t) := x.2.regRead w 0
      (x.1 ++ toBytes 8 (v.getD 0), t)) ([], s)
    (some ((r.1.drop (a % 8)).take n), r.2)

/-- `n` bytes of the Jorou table. -/
def State.jorouRead (s : State) (a n : Nat) : List Byte :=
  let b := s.jorouBytes
  (List.range n).map fun i => b.getD (a - jorouBase + i) 0

/-! ### Requests at the management port -/

/-- A pool operation by a tile thread (spec/11_memory_and_pools.md R318): an aligned 64-bit access, which names the pool and the
owner by its address; the requester must be entitled to act for the owner. -/
def State.poolOp (s : State) (r : Request) (off : Nat) : State :=
  -- a store carries its line and the bytes in it that it writes
  let i := match r.kind with
    | .store m _ => (lowest 64 fun i => m.getLsbD i).getD 0
    | _ => 0
  let p := off / 0x10000
  let o := (off + i) % 0x8000 / 8
  let now := decide (0x8000 ≤ off % 0x10000)
  let who := Requester.agent r.ctx (tileOutput r.tile)
  let may := operates who p && s.mayAct who p o
  if r.addr % 8 != 0 || 64 ≤ p then s.respond mgmtOutput r .address 0
  else if p < 4 then s.respond mgmtOutput r .address 0
  else match r.kind with
    | .load 8 =>
      if !s.allowed r.ctx r.gen (lineOf r.addr) 64 .rd || !may then s.respond mgmtOutput r .protection 0
      else s.poolAlloc ⟨who, p, o, .thread r⟩ (!now)
    | .store m v =>
      if i % 8 != 0 || m.toNat != 255 <<< i then s.respond mgmtOutput r .address 0
      else if !s.allowed r.ctx r.gen (lineOf r.addr) 64 .wr || !may then s.respond mgmtOutput r .protection 0
      else
        let h := BitVec.ofNat 64 (bitsOf v.toNat (8 * i) 64)
        (if now then s.poolShareHandle who p o h else s.poolFreeHandle p o h).respond mgmtOutput r .ok 0
    | _ => s.respond mgmtOutput r .address 0

/-- Registers that only a privileged session writes (spec/14_faults_and_recovery.md R406; spec/15 R433). -/
def hostOnly (a : Nat) : Bool := (regAt a).any fun r => (r.blk == 13 || r.blk == 19) && listedReg r

/-- The doublewords that a line store touches: address, value, byte mask. -/
def storeWords (a : Nat) (m l : Nat) : List (Nat × Nat × Nat) :=
  ((List.range 8).map fun i => (a / 64 * 64 + 8 * i, bitsOf l (64 * i) 64, bitsOf m (8 * i) 8)).filter fun w => w.2.2 != 0

/-- A request of a tile thread to the control region. Every agent may read; atomics reach no register. -/
def State.ctrlRequest (s : State) (r : Request) : State :=
  match r.kind with
  | .load n =>
    if s.allowed r.ctx r.gen (lineOf r.addr) 64 .rd then
      if let some b := (doublewords r.addr n).findSome? s.relayError then (s.ueRead b).respond mgmtOutput r .data 0
      else match s.ctrlRead r.addr n with
      | (none, t) => t.respond mgmtOutput r .address 0
      | (some l, t) => t.respond mgmtOutput r .ok (ofBytes l)
    else if (doublewords r.addr n).any fun w => (regAt w).isNone then s.respond mgmtOutput r .address 0
    else s.respond mgmtOutput r .protection 0
  | .store m l =>
    let ws := storeWords r.addr m.toNat l.toNat
    match ws.find? fun w => hostOnly w.1 || (regAt w.1).isNone with
    | some _ => s.respond mgmtOutput r .address 0
    | none =>
      if !s.allowed r.ctx r.gen (lineOf r.addr) 64 .wr then s.respond mgmtOutput r .protection 0
      else match ws.find? fun w => s.ctrlFails w.1 true with
        | some w => (s.ctrlLost w.1).respond mgmtOutput r .address 0
        | none => (ws.foldl (fun s w => (s.regWrite w.1 w.2.1 w.2.2 0).2) s).respond mgmtOutput r .ok 0
  | .atomic _ _ _ _ _ => s.respond mgmtOutput r .address 0

/-- A request to canal memory: nothing below the general pool area (R305). -/
def State.canalRequest (s : State) (r : Request) : State :=
  let isAtomic := match r.kind with | .atomic _ _ _ _ _ => true | _ => false
  if r.addr < generalBase || isAtomic then s.respond mgmtOutput r .address 0
  else s.serveRequest mgmtOutput r

/-- A request to the diagnostic window, which is read only. -/
def State.windowRequest (s : State) (r : Request) : State :=
  match r.kind with
  | .load n =>
    if s.allowed r.ctx r.gen (lineOf r.addr) 64 .rd then
      let (l, t) := s.windowRead r.addr n
      t.respond mgmtOutput r .ok (ofBytes l)
    else s.respond mgmtOutput r .protection 0
  | _ => s.respond mgmtOutput r .address 0

/-- MGMT_PORT_REQUEST (R17): a cell at the management port, completed after the check of its context; over a STUCK crossing it
ends with an address error (spec/15_power_clocks_security.md R419). -/
def execMgmtPortRequest (r : Request) (s : State) : Host.Outcome State Fault Refusal :=
  ok s (s.powered fun s =>
    if s.agentOf r.addr != .mgmt || !firstOf (s.inbox 16) r then s
    else
      let a := r.addr
      let s := s.setInbox 16 ((s.inbox 16).erase (.req r))
      if s.crossed 2 then (s.lost 2).respond mgmtOutput r .address 0
      else if !(s.ctxOpen r.ctx && s.genOf r.ctx == r.gen) then s.respond mgmtOutput r .closed 0
      else if a < canalEnd then s.canalRequest r
      else if a < jorouBase then s.windowRequest r
      else if a < controlBase then
        (match r.kind with
          | .load n => s.respond mgmtOutput r .ok (ofBytes (s.jorouRead a n))
          | _ => s.respond mgmtOutput r .address 0)
      else match regAt a with
        | some g => if isPoolOp g then s.poolOp r (g.off - 0x100000) else s.ctrlRequest r
        | none => s.ctrlRequest r)

end Sys2Proof.Machine
end

