-- ==== Sys2Proof/Machine/HostPort.lean ====
section
/-! DEFINITION. Sys2Proof/Machine/HostPort.lean: the host port: ZCT sessions and messages, READ and WRITE, POST and BELL,
the event stream's acknowledgements, other frames, and the host port's own commands (spec/13_host_port_and_control.md
R345-R356, R365, R368; spec/15_power_clocks_security.md R430). -/

namespace Sys2Proof

/-- `n` bytes of the body from byte `i` as a little-endian number. -/
def ZctMsg.num (m : ZctMsg) (i n : Nat) : Nat := Machine.ofBytes ((m.body.drop i).take n)

/-- A datagram that is a ZCT message: its fixed fields, and a body of LENGTH bytes, at most 8,192 (R347). -/
def ZctMsg.whole (m : ZctMsg) : Bool :=
  m.magic == 0x5A43 && m.version == 1 && m.length.toNat == m.body.length && decide (m.body.length ≤ 8192) &&
    m.mac.length == 64

end Sys2Proof

namespace Sys2Proof.Machine

/-! ### Frames that carry no ZCT (R346) -/

/-- HOST_FRAME_DISCARD (R346): counted. -/
def State.discardFrame (s : State) : State := s.count HP_RX_OTHER

/-- A host frame reaches the module only while the link is up; over a STUCK crossing it is lost and counted
(spec/15_power_clocks_security.md R419). -/
def State.hostOn (s : State) (f : State → State) : State :=
  s.powered fun s => if !s.hostLink then s else if s.crossed 4 then s.lost 4 else f s

def execHostFrameDiscard (s : State) : Host.Outcome State Fault Refusal := ok s (s.hostOn State.discardFrame)

/-- Register `i` of HP_CFG to HP_PREFIX as it applies (R368). -/
def State.hpNow (s : State) (i : Nat) : Nat := (s.hpActive.getD i 0).toNat

/-- Whether an address is the port's own. -/
def State.ownAddress (s : State) (v6 : Bool) (a : Nat) : Bool :=
  if v6 then bitOf (s.hpNow 0) 10 && a == s.hpNow 3 * 2 ^ 64 + s.hpNow 4
  else bitOf (s.hpNow 0) 11 && a == s.hpNow 2 % 2 ^ 32

/-- Whether a datagram is addressed to the port, at UDP_PORT (R346, R368). -/
def State.forPort (s : State) (m : ZctMsg) : Bool :=
  s.ownAddress m.src.v6 m.dst.toNat && m.port.toNat == bitsOf (s.hpNow 0) 16 16

/-- ARP_ND (R346): answered with the port's MAC for its own addresses. -/
def execArpNd (frame : HostFrame) (s : State) : Host.Outcome State Fault Refusal :=
  ok s (s.hostOn fun s =>
    if s.ownAddress frame.src.v6 frame.target.toNat then s.emit (.arp frame.src (BitVec.ofNat 48 (s.hpNow 1)))
    else s.discardFrame)

/-- ICMP_ECHO (R346): an echo to the port's own address is answered with its payload. -/
def execIcmpEcho (frame : HostFrame) (s : State) : Host.Outcome State Fault Refusal :=
  ok s (s.hostOn fun s =>
    if s.ownAddress frame.src.v6 frame.target.toNat then s.emit (.echo frame.src frame.payload) else s.discardFrame)

/-- HOST_LINK_DOWN (R345) -/
def execHostLinkDown (s : State) : Host.Outcome State Fault Refusal :=
  ok s (s.powered fun s => s.putHostLink false)

/-- HOST_LINK_UP (R345) -/
def execHostLinkUp (s : State) : Host.Outcome State Fault Refusal :=
  ok s (s.powered fun s => s.putHostLink true)

/-! ### Opening a session (R348, R349) -/

/-- A public key of the list. -/
def State.keyBytes (s : State) (k : Nat) : List Byte := (List.range 4).flatMap fun j => toBytes 8 (s.rd (HP_KEY_PUB k j)).toNat

/-- The VALID key of the list that equals `b`. -/
def State.findKey (s : State) (b : List Byte) : Option Nat :=
  lowest 16 fun k => s.bit (HP_KEY_FLAGS k) HP_KEY_FLAGS_VALID && s.keyBytes k == b

def State.closeSession (s : State) (k : Nat) : State := s.putSessions (Table.del s.sessions k)

/-- A refusal of an OPEN: an unauthenticated RESPONSE, counted. -/
def State.refuseOpen (s : State) (m : ZctMsg) (st : Nat) : State :=
  (s.count HP_AUTH_FAIL).sendPlain m.src 9 0xFFFF m.reqId.toNat st []

/-- The status with which an OPEN is refused, or the key that it opens with (R349, R429). -/
def State.openCheck (s : State) (m : ZctMsg) : Nat ⊕ Nat :=
  let priv := bitOf (m.num 96 1) 0
  if s.idFail || m.body.length != 192 then .inl 4
  else match s.findKey (m.body.take 32) with
    | none => .inl 4
    | some k =>
      if !ed25519Verify (m.body.take 32) (m.body.take 128) (m.body.drop 128) then .inl 4
      else if priv && !s.bit (HP_KEY_FLAGS k) HP_KEY_FLAGS_PRIV then .inl 4
      else if 64 ≤ s.sessions.length then .inl 3
      else if priv && s.privSession.isSome then .inl 6
      else .inr k

/-- An accepted OPEN: the session, its keys, and OPEN_ACK (R348). -/
def State.openSession (s : State) (m : ZctMsg) (key : Nat) : State :=
  let n := (lowest 64 fun i => !Table.has s.sessions i).getD 0
  let (sk, s) := s.draw 32
  let (nonce, s) := s.draw 32
  let hostNonce := (m.body.drop 64).take 32
  let keys := hkdf128 (hostNonce ++ nonce) (x25519 sk ((m.body.drop 32).take 32)) [0x5A, 0x43, 0x54, 0x31]
  let x : Session :=
    { opened := false, key := key, priv := bitOf (m.num 96 1) 0, h2m := keys.take 64, m2h := keys.drop 64,
      hostNonce := hostNonce, addr := m.src, txSeq := 0, rxHigh := 0, rxSeen := [], kept := [], events := [], evtSeq := 0,
      lost := 0, attest := [] }
  let base : List Byte := 9 :: List.replicate 31 0
  let front := toBytes 2 n ++ List.replicate 30 0 ++ x25519 sk base ++ nonce ++ s.identityKey
  let (sig, s) := s.signId .openAck (m.body ++ front)
  (s.putSession n x).sendPlain m.src 2 n m.reqId.toNat 0 (front ++ sig)

/-- ZCT_OPEN (R348, R349) -/
def execZctOpen (msg : ZctMsg) (s : State) : Host.Outcome State Fault Refusal :=
  ok s (s.hostOn fun s =>
    if !s.forPort msg || !msg.whole then s.discardFrame
    else match s.openCheck msg with
      | .inl st => s.refuseOpen msg st
      | .inr k => (s.openSession msg k).count HP_RX_ZCT)

/-! ### Authenticated messages (R347, R350, R351) -/

/-- Whether the MAC of a message of TYPE `type` holds under the session's key. -/
def Session.authentic (x : Session) (m : ZctMsg) (type : Nat) : Bool :=
  zctMac x.h2m type m.session.toNat m.body m.seq.toNat m.reqId.toNat 0 == m.mac

/-- A SEQ that is too old or was seen before (R350). -/
def Session.replayed (x : Session) (seq : Nat) : Bool := decide (seq + 256 ≤ x.rxHigh) || x.rxSeen.contains seq

/-- A SEQ taken: the window slides with the highest. -/
def Session.took (x : Session) (seq : Nat) (src : HostAddr) : Session :=
  let h := max x.rxHigh seq
  { x with rxHigh := h, rxSeen := (x.rxSeen ++ [seq]).filter fun q => decide (h < q + 256), addr := src }

/-- An authenticated message of an open session taken: the session as it then stands; none when the message is discarded. -/
def State.accept (s : State) (m : ZctMsg) (type : Nat) : Option Session × State :=
  let k := m.session.toNat
  if !s.forPort m || !m.whole then (none, s.discardFrame)
  else match s.session k with
    | none => (none, s.count HP_AUTH_FAIL)
    | some x =>
      if !x.opened || !x.authentic m type then (none, s.count HP_AUTH_FAIL)
      else if x.replayed m.seq.toNat then (none, s.count HP_REPLAY_DROP)
      else
        let y := x.took m.seq.toNat m.src
        (some y, (s.putSession k y).count HP_RX_ZCT)

/-- A RESPONSE of session `k` sent and kept among the last 256; a session that its own request closed still gets it, as `x`
last stood (R351). -/
def State.answer (s : State) (k : Nat) (x : Session) (reqId : Word) (st : Nat) (data : List Byte) : State :=
  match s.session k with
  | none => s.sendAs k x 9 reqId.toNat st data
  | some x =>
    let l := x.kept ++ [(reqId, BitVec.ofNat 8 st, data)]
    (s.putSession k { x with kept := l.drop (l.length - 256) }).sendZct k 9 reqId.toNat st data

/-- A request performed once and answered; a REQ_ID that is kept gets its response again (R351). The request gives its status
and data, the session as it last stood, and the state. -/
def State.serveZct (s : State) (m : ZctMsg) (type : Nat) (f : Session → State → Nat × List Byte × Session × State) : State :=
  match s.accept m type with
  | (none, s) => s
  | (some x, s) =>
    let k := m.session.toNat
    match x.kept.find? fun e => e.1 == m.reqId with
    | some e => s.sendZct k 9 m.reqId.toNat e.2.1.toNat e.2.2
    | none =>
      let (st, data, x, s) := f x s
      s.answer k x m.reqId st data

/-- The attestation report of a session (spec/15_power_clocks_security.md Table 15-6). -/
def State.attestation (s : State) (k : Nat) (x : Session) : List Byte × State :=
  let version := (Table.get FlashSlot.init s.bootSlots (s.fld SEC_BOOT SEC_BOOT_SLOT)).version.toNat
  let tip := match s.ledger.getLast? with
    | some e => (sha512 e.bytes).take 32
    | none => List.replicate 32 0
  let b := toBytes 4 0x5A415454 ++ toBytes 2 1 ++ toBytes 2 k ++ toBytes 8 s.cycle ++
    toBytes 4 (s.fld SEC_BOOT SEC_BOOT_BOOT) ++ toBytes 2 s.grade.tiles ++ toBytes 2 s.active ++ toBytes 8 version ++
    fixBytes 32 x.hostNonce ++ ((List.range 8).flatMap fun i => toBytes 8 (s.rd (SEC_CHAIN i)).toNat) ++
    fixBytes 64 s.power.m1 ++ fixBytes 64 s.power.m2 ++ fixBytes 64 s.power.m3 ++ fixBytes 64 s.jorou.wbFp ++
    toBytes 4 s.ledger.length ++ toBytes 4 0 ++ tip ++ List.replicate 24 0
  let (sig, s) := s.signId .report b
  (b ++ sig, s)

/-- A session opened by its CONFIRM: its report, and the privilege that the other privileged OPENs lose (R348, R349;
spec/15 R430). -/
def State.confirmSession (s : State) (k : Nat) (x : Session) (src : HostAddr) : State :=
  let (report, s) := s.attestation k x
  let y := { x with opened := true, rxHigh := 0, rxSeen := [0], addr := src, attest := report }
  let s := s.putPower { s.power with sessionSeen := true }
  let s := if x.priv then s.putSessions (s.sessions.filter fun e => !e.2.priv || e.1 == k) else s
  (s.putSession k y).count HP_RX_ZCT

/-- CONFIRM (R348): SEQ 0, authenticated. -/
def execConfirm (msg : ZctMsg) (s : State) : Host.Outcome State Fault Refusal :=
  ok s (s.hostOn fun s =>
    let k := msg.session.toNat
    if !s.forPort msg || !msg.whole then s.discardFrame
    else match s.session k with
      | none => s.count HP_AUTH_FAIL
      | some x =>
        if x.opened then (s.accept msg 3).2
        else if x.authentic msg 3 && msg.seq == 0 then s.confirmSession k x msg.src
        else s.count HP_AUTH_FAIL)

/-- ZCT_CLOSE (R352) -/
def execZctClose (msg : ZctMsg) (s : State) : Host.Outcome State Fault Refusal :=
  ok s (s.hostOn fun s =>
    match s.accept msg 4 with
    | (none, s) => s
    | (some _, s) => s.closeSession msg.session.toNat)

/-- KEEPALIVE (R352) -/
def execKeepalive (msg : ZctMsg) (s : State) : Host.Outcome State Fault Refusal :=
  ok s (s.hostOn fun s => (s.accept msg 12).2)

/-- OPEN_CONFIRM_TMO (R349) -/
def execOpenConfirmTmo (session : Fin 64) (s : State) : Host.Outcome State Fault Refusal :=
  ok s (s.powered fun s =>
    if (s.session session).any fun x => !x.opened then s.closeSession session else s)

/-- SESSION_TMO (R352) -/
def execSessionTmo (session : Fin 64) (s : State) : Host.Outcome State Fault Refusal :=
  ok s (s.powered fun s => if (s.session session).any Session.opened then s.closeSession session else s)

/-! ### READ and WRITE (R353, Table 13-4) -/

/-- The pieces of a range within aligned 64-bit words, lowest first: address and bytes. -/
def piecesIn (a n : Nat) : List (Nat × Nat) :=
  (doublewords a n).map fun w => (max a w, min (a + n) (w + 8) - max a w)

/-- A session's right to a data region: the privileged one has it everywhere, another within a window of its key's
contexts. -/
def State.hostMay (s : State) (x : Session) (a n : Nat) : Bool :=
  x.priv || s.windows.any fun w =>
    bitOf (s.keyMask w.ctx) x.key && decide (w.base ≤ a) && decide (a + n ≤ w.base + w.size)

/-- The first privileged pool: fixed tables and the firmware's area lie below it (Table 11-2). -/
def poolArea : Nat := 0x83000000

/-- Records that only commands and the module's engines write: group records, dry-furrow tags, EHT headers and entries
(spec/08_weir_reduction.md R226; spec/09_collectives.md R237; spec/10_expert_and_headwater.md R268). -/
def State.ownRecord (s : State) (a n : Nat) : Bool :=
  [(WM_BASE, 2 ^ 18), (DRY_BASE, 2 ^ 18), (EXP_BASE, 2 ^ 12), (EXP_ENT_BASE, 2 ^ 20)].any fun e =>
    decide (a < (s.rd e.1).toNat + e.2) && decide ((s.rd e.1).toNat < a + n)

/-- A pool operation of the buffer pool manager: no session acts for an owner (spec/11_memory_and_pools.md R318, Table 11-5). -/
def poolOpAt (a : Nat) : Bool := (regAt a).any isPoolOp

/-- The STUCK crossing that an access of the host to LPDDR5X meets: bulk accesses come from the core side (R353), and the
management cores that ask for them stand behind their own (spec/15_power_clocks_security.md R419). -/
def State.lpddrCut (s : State) (a : Nat) : Option Nat :=
  if lpddrBase ≤ a then [0x000, 0x003].find? s.crossed else none

/-- The status of a piece of `n` bytes at `a` of a request for `count` bytes from `addr` (R353). -/
def State.pieceStatus (s : State) (x : Session) (addr count : Nat) (write : Bool) (a n : Nat) : Nat :=
  let aligned := addr % 8 == 0 && count % 8 == 0
  if controlBase ≤ a && a < controlEnd then
    if !aligned then 2
    else if poolOpAt a then (match refusedCause (.agent 0 hostOutput) (((regAt a).elim 0 fun r => r.off - 0x100000) / 0x10000) with
      | .address => 16
      | _ => 4)
    else if s.ctrlFails (a / 8 * 8) write then 16
    else if !write && (s.relayError (a / 8 * 8)).isSome then 17
    else if write && !x.priv then 4
    else 0
  else if jorouBase ≤ a && a < jorouBase + 2 ^ 20 then
    if !aligned then 2 else if write then 16 else 0
  else if s.agentOf a == .none || (s.lpddrCut a).isSome then 16
  else if windowBase ≤ a && a < windowBase + 2 ^ 28 then if write then 16 else 0
  else
    let fixed := decide (canalBase ≤ a) && decide (a < generalBase)
    if fixed && write && (!x.priv || decide (poolArea ≤ a) || s.ownRecord a n) then 16
    else if !fixed && (s.inMetadata a n || (write && s.inEngineRegion a n)) then 16
    else if !fixed && !s.hostMay x a n then 4
    else if write then
      if s.poison.any fun p => decide (lpddrBase ≤ p) && decide (p < a + n) && decide (a < p + 64) &&
          !(decide (addr ≤ p) && decide (p + 64 ≤ addr + count)) then 17 else 0
    else if s.poisoned a n then 17
    else 0

/-- The status of the first failing byte, with the piece that holds it. -/
def State.hostCheck (s : State) (x : Session) (addr count : Nat) (write : Bool) : Option (Nat × Nat) :=
  ((piecesIn addr count).map fun p => (p.1, s.pieceStatus x addr count write p.1 p.2)).find? fun e => e.2 != 0

/-- What a refused piece leaves behind: an error counted at a crossing, an uncorrectable read counted. -/
def State.hostFailed (s : State) (a st : Nat) : State :=
  if controlBase ≤ a && a < controlEnd then
    (if st = 16 then s.ctrlLost (a / 8 * 8) else if st = 17 then s.ueRead ((s.relayError (a / 8 * 8)).getD a) else s)
  else if st = 16 then (s.lpddrCut a).elim s s.lost
  else if st = 17 then s.ueRead a
  else s

/-- The bytes of a range that passed every check. -/
def State.hostRead (s : State) (a n : Nat) : List Byte × State :=
  if controlBase ≤ a && a < controlEnd then
    let r := s.ctrlRead a n
    (r.1.getD [], r.2)
  else if jorouBase ≤ a && a < jorouBase + 2 ^ 20 then (s.jorouRead a n, s)
  else s.dataRead a n

/-- Bytes written to a range that passed every check, in ascending order, for session `k`: the session as it stood before a
write that closes it, and the state. -/
def State.hostWrite (s : State) (k : Nat) (x : Session) (a : Nat) (l : List Byte) : Session × State :=
  if controlBase ≤ a && a < controlEnd then
    (doublewords a l.length).foldl (fun (e : Session × State) w =>
      let s := (e.2.regWrite w (ofBytes ((l.drop (w - a)).take 8)) 255 0).2
      ((s.session k).getD e.1, s)) (x, s)
  else (x, ((s.put a l).wake a).wake (a + l.length - 1))

/-- What a READ does: status, data, the session, the state. -/
def State.readZct (msg : ZctMsg) (x : Session) (s : State) : Nat × List Byte × Session × State :=
  let a := msg.num 0 8
  let n := msg.num 8 4
  if msg.body.length != 12 || n = 0 || 8176 < n then (2, [], x, s)
  else match s.hostCheck x a n false with
    | some (b, st) => (st, [], x, s.hostFailed b st)
    | none =>
      let (l, s) := s.hostRead a n
      (0, l, x, s)

/-- What a WRITE does: status, no data, the session, the state. -/
def State.writeZct (msg : ZctMsg) (x : Session) (s : State) : Nat × List Byte × Session × State :=
  let a := msg.num 0 8
  let n := msg.num 8 4
  if msg.body.length != 12 + n || n = 0 then (2, [], x, s)
  else match s.hostCheck x a n true with
    | some (b, st) => (st, [], x, if st = 17 then s else s.hostFailed b st)
    | none => (0, [], s.hostWrite msg.session.toNat x a (msg.body.drop 12))

/-- Whether a READ or WRITE must wait for a page of LPDDR5X that is being copied, or for packages in self-refresh (R301,
R302). -/
def State.zctWaits (s : State) (msg : ZctMsg) : Bool := s.mustWait (msg.num 0 8) (max 1 (msg.num 8 4))

/-- A READ or WRITE accepted, and performed at once or kept until its bytes can be reached (R302); one that waits already is
not taken twice (R351). -/
def State.serveBulk (s : State) (msg : ZctMsg) (type : Nat) (f : Session → State → Nat × List Byte × Session × State) :
    State :=
  let k := msg.session.toNat
  if !s.zctWaits msg then s.serveZct msg type f
  else match s.accept msg type with
    | (none, s) => s
    | (some x, s) =>
      match x.kept.find? fun e => e.1 == msg.reqId with
      | some e => s.sendZct k 9 msg.reqId.toNat e.2.1.toNat e.2.2
      | none =>
        if s.zctWait.any fun w => w.1 == k && w.2.2.reqId == msg.reqId then s
        else s.putZctWait (s.zctWait ++ [(k, type, msg)])

/-- ZCT_READ (R353) -/
def execZctRead (msg : ZctMsg) (s : State) : Host.Outcome State Fault Refusal :=
  ok s (s.hostOn fun s => s.serveBulk msg 5 (State.readZct msg))

/-- ZCT_WRITE (R353) -/
def execZctWrite (msg : ZctMsg) (s : State) : Host.Outcome State Fault Refusal :=
  ok s (s.hostOn fun s => s.serveBulk msg 6 (State.writeZct msg))

/-- The READs and WRITEs whose bytes can be reached again, performed in the order in which they came; those of a session that
has closed are dropped (R302). -/
def State.zctServed (s : State) : State :=
  let due := s.zctWait.filter fun w => !s.zctWaits w.2.2
  let s := s.putZctWait (s.zctWait.filter fun w => s.zctWaits w.2.2)
  due.foldl (fun s w =>
    match s.session w.1 with
    | none => s
    | some x =>
      let (st, data, x, s) := if w.2.1 = 5 then State.readZct w.2.2 x s else State.writeZct w.2.2 x s
      s.answer w.1 x w.2.2.reqId st data) s

/-! ### POST and BELL (R354, R355) -/

/-- A session's right to the rings of a context (Table 13-4). -/
def State.holdsCtx (s : State) (x : Session) (c : Nat) : Bool := x.priv || bitOf (s.keyMask c) x.key

/-- Entries written from index FIRST and TAIL set behind them; the bell rings with it. -/
def State.postEntries (s : State) (c r first : Nat) (l : List Byte) : Nat × State :=
  match s.ring? c r with
  | none => (2, s)
  | some y =>
    let n := l.length / 64
    if s.ctxState c = 0 then (2, s)
    else if first != s.ringTail y || 2 ^ y.order < (first + n + 2 ^ 64 - y.head) % 2 ^ 64 then (6, s)
    else
      let s := (List.range n).foldl (fun s i => s.ringPut (y.entry (first + i)) ((l.drop (64 * i)).take 64)) s
      (0, ((s.ringPut y.base (toBytes 8 (first + n))).readTail c r).sweepRings)

/-- POST (R354) -/
def execPost (msg : ZctMsg) (s : State) : Host.Outcome State Fault Refusal :=
  ok s (s.hostOn fun s => s.serveZct msg 7 fun x s =>
    let c := msg.num 0 2
    let l := msg.body.drop 8
    if msg.body.length < 72 || l.length % 64 != 0 || 127 * 64 < l.length || 4096 ≤ c then (2, [], x, s)
    else if !s.holdsCtx x c then (4, [], x, s)
    else
      let (st, s) := s.postEntries c (msg.num 2 1) (msg.num 4 4) l
      (st, [], x, s))

/-- BELL (R355) -/
def execBell (msg : ZctMsg) (s : State) : Host.Outcome State Fault Refusal :=
  ok s (s.hostOn fun s => s.serveZct msg 8 fun x s =>
    let c := msg.num 0 2
    if msg.body.length != 3 || 4096 ≤ c then (2, [], x, s)
    else if !s.holdsCtx x c then (4, [], x, s)
    else (0, [], x, s.bell c (msg.num 2 1) (sourceOf 16 0) 0xFF))

/-! ### The event stream (R365) -/

/-- EVENT_ACK (R365): every record up to EVT_SEQ is released. -/
def execEventAck (msg : ZctMsg) (s : State) : Host.Outcome State Fault Refusal :=
  ok s (s.hostOn fun s =>
    match s.accept msg 11 with
    | (none, s) => s
    | (some x, s) =>
      if msg.body.length != 8 then s
      else s.putSession msg.session.toNat { x with events := x.events.filter fun e => decide (msg.num 0 8 < e.seq) })

/-- Records packed into EVENT bodies: at most 64 in one, and at most 8,192 bytes. -/
def packEvents (l : List EvRec) : List (List Byte) :=
  let r := l.foldl (fun (x : List (List Byte) × List Byte × Nat) e =>
    if x.2.2 < 64 && x.2.1.length + e.bytes.length ≤ 8192 then (x.1, x.2.1 ++ e.bytes, x.2.2 + 1)
    else (x.1 ++ [x.2.1], e.bytes, 1)) ([], [], 0)
  if r.2.2 = 0 then r.1 else r.1 ++ [r.2.1]

/-- EVENT_RESEND (R365): every unacknowledged record again. -/
def execEventResend (session : Fin 64) (s : State) : Host.Outcome State Fault Refusal :=
  ok s (s.powered fun s =>
    match s.session session with
    | none => s
    | some x => if x.opened then (packEvents x.events).foldl (fun s b => s.sendZct session 10 0 0 b) s else s)

/-! ### Configuration (R352, R368) -/

/-- HOST_PORT_CFG_WRITE (R368) -/
def execHostPortCfgWrite (offset : Fin 6) (value : Word) (s : State) : Host.Outcome State Fault Refusal :=
  ok s (s.powered fun s => s.hpCfgStore (hpRegs.getD offset HP_CFG) value.toNat)

/-- HOST_PORT_CFG_APPLY (R368) -/
def execHostPortCfgApply (s : State) : Host.Outcome State Fault Refusal :=
  ok s (s.powered fun s =>
    if s.hpApply then (s.closeAll.putHpActive (hpRegs.map s.rd)).putHpApply false else s)

/-- SAVE (R368) -/
def execSave (s : State) : Host.Outcome State Fault Refusal := ok s (s.powered State.saveFlash)

/-- CLOSE_ALL (R352) -/
def execCloseAll (s : State) : Host.Outcome State Fault Refusal := ok s (s.powered State.closeAll)

/-- HP_KEY_WRITE (R352): word 0 holds the flags of key `key`, words 1 to 4 its public key. -/
def execHpKeyWrite (key : Fin 16) (word : Fin 5) (value : Word) (s : State) : Host.Outcome State Fault Refusal :=
  ok s (s.powered fun s => s.hpKeyStore key (hpKeyReg key word) value.toNat)

end Sys2Proof.Machine
end

