-- ==== Sys2Proof/Machine/Matrix.lean ====
section
/-! DEFINITION. Sys2Proof/Machine/Matrix.lean: the matrix unit, accumulator tiles and the tailwater queue, class 0x8
(spec/06_flume_tile.md R148-R163; spec/07_instruction_set.md R191, R192). -/

namespace Sys2Proof.Machine

/-! ### The sum of a pass (R151) -/

/-- G of Table 6-5. -/
def groupSize (fmt : Nat) : Nat :=
  match fmt with
  | 1 => 16
  | 2 => 16
  | 3 => 8
  | 4 => 8
  | 5 => 8
  | _ => 4

/-- Operands of a pass as read from tile SRAM: rows of A and columns of B with their scales, as numbers. -/
structure Operands where
  fmt : Nat
  k : Nat
  a : List Nat
  aScale : List Nat
  b : List Nat
  bScale : List Nat
  deriving DecidableEq, Repr

/-- Bytes of a row of K elements, of its scales. -/
def rowBytes (fmt k : Nat) : Nat := k * fmtBits fmt / 8
def scaleBytes (fmt k : Nat) : Nat := if fmtScaled fmt then k / 32 else 0

def State.operands (s : State) (o : MmaOp) : Operands :=
  let rows (base n : Nat) : List Nat := (List.range 64).map fun i => s.load (base + i * n) n
  { fmt := o.fmt, k := o.k, a := rows o.a (rowBytes o.fmt o.k), aScale := rows o.aScale (scaleBytes o.fmt o.k),
    b := rows o.b (rowBytes o.fmt o.k), bScale := rows o.bScale (scaleBytes o.fmt o.k) }

/-- Whether an operand of the pass cannot be read (spec/11 Table 11-3a). -/
def State.operandsBad (s : State) (o : MmaOp) : Bool :=
  s.poisoned o.a (64 * rowBytes o.fmt o.k) || s.poisoned o.b (64 * rowBytes o.fmt o.k) ||
    (fmtScaled o.fmt && (s.poisoned o.aScale (64 * scaleBytes o.fmt o.k) ||
      s.poisoned o.bScale (64 * scaleBytes o.fmt o.k)))

/-- The unbiased exponent of block `k` of a scale row; none for a NaN scale. -/
def blockExp (fmt row k : Nat) : Option Int :=
  if fmtScaled fmt then
    let c := elem8 row k
    if c = scaleNan then none else some ((c : Int) - 127)
  else some 0
where elem8 (v i : Nat) : Nat := bitsOf v (8 * i) 8

/-- An fp32() step: value, flags, whether it overflowed from a finite value. In a saturating run an overflow gives the
largest finite value (R151, R160). -/
def mmaStep (sat : Bool) (x : FNum × Nat) : FNum × Nat × Bool :=
  let (v, f) := toFp32 x.1
  if v.isInf && !x.1.isInf then
    (if sat then .fin v.neg 0xFFFFFF 104 else v, flagNX ||| x.2, true)
  else (v, f ||| x.2, false)

/-- Running value, flags and overflows of one accumulator element. -/
structure MmaSum where
  v : FNum
  flags : Nat
  over' : Nat
  deriving DecidableEq, Repr

def MmaSum.step (m : MmaSum) (sat : Bool) (x : FNum × Nat) : MmaSum :=
  let (v, f, o) := mmaStep sat x
  ⟨v, m.flags ||| f, m.over' + flag o⟩

/-- The exact sum of a list of products, with NV (R132, R151). -/
def exactDot (xs : List (FNum × FNum)) : FNum × Nat :=
  match xs with
  | [] => (.fin false 0 0, 0)
  | p :: r => r.foldl (fun a q =>
      let m := q.1.mul q.2
      let z := a.1.add m.1
      (z.1, a.2 ||| m.2 ||| z.2)) (p.1.mul p.2)

/-- Group `k` to `k + G - 1` of element (i, j): g of R151. -/
def Operands.group (p : Operands) (sat : Bool) (t : Int) (i j k : Nat) (m : MmaSum) : MmaSum :=
  let g := groupSize p.fmt
  let x := fun n => (decodeElem p.fmt (bitsOf (p.a.getD i 0) (fmtBits p.fmt * (k + n)) (fmtBits p.fmt)),
    decodeElem p.fmt (bitsOf (p.b.getD j 0) (fmtBits p.fmt * (k + n)) (fmtBits p.fmt)))
  if fmtScaled p.fmt then
    match blockExp p.fmt (p.aScale.getD i 0) (k / 32), blockExp p.fmt (p.bScale.getD j 0) (k / 32) with
    | some ea, some eb =>
      let d := exactDot ((List.range g).map x)
      m.step sat (d.1.scale (ea + eb - t), d.2)
    | _, _ => { m with v := .nan }
  else
    let prod := fun n (m : MmaSum) =>
      let q := (x n).1.mul (x n).2
      m.step sat (q.1.scale (-t), q.2)
    let m0 := prod 0 m
    let m1 := prod 1 m0
    let m01 := m1.step sat (m0.v.add m1.v)
    let m2 := prod 2 m01
    let m3 := prod 3 m2
    let m23 := m3.step sat (m2.v.add m3.v)
    m23.step sat (m01.v.add m23.v)

/-- The partial sum of slice `s` of element (i, j) behind the first `n` rows of the array (R151). -/
def Operands.part (p : Operands) (sat : Bool) (t : Int) (i j s : Nat) (m : MmaSum) (n : Nat) : Option FNum × MmaSum :=
  let g := groupSize p.fmt
  (List.range n).foldl (fun (a : Option FNum × MmaSum) r =>
    let m := p.group sat t i j (8 * g * s + g * r) a.2
    match a.1 with
    | none => (some m.v, m)
    | some v =>
      let m := m.step sat (v.add m.v)
      (some m.v, m)) (none, m)

/-- Slice `s` of element (i, j) added to its accumulator (R151). -/
def Operands.slice (p : Operands) (sat : Bool) (t : Int) (i j s : Nat) (m : MmaSum) : MmaSum :=
  let part := p.part sat t i j s m 8
  part.2.step sat (m.v.add (part.1.getD (.fin false 0 0)))

/-- The first stage of the pipeline of R152 in which a step of the slice overflows: row 0 to 7 of the array, 8 for the
accumulator. -/
def Operands.stage (p : Operands) (sat : Bool) (t : Int) (i j s : Nat) (m : MmaSum) : Option Nat :=
  match lowest 8 fun r => (p.part sat t i j s m (r + 1)).2.over' != m.over' with
  | some r => some r
  | none => if (p.slice sat t i j s m).over' != m.over' then some 8 else none

/-- Element (i, j) over the whole pass: the sum, and the first slice and stage in which a step overflowed. -/
def Operands.element (p : Operands) (sat : Bool) (t : Int) (i j : Nat) (old : FNum) : MmaSum × Option (Nat × Nat) :=
  (List.range (p.k / (8 * groupSize p.fmt))).foldl (fun (a : MmaSum × Option (Nat × Nat)) s =>
    (p.slice sat t i j s a.1, a.2.or ((p.stage sat t i j s a.1).map fun g => (s, g)))) (⟨old, 0, 0⟩, none)

/-- Wavefront number of slice `s`, column `j`, row `i` (R150). -/
def waveNo (s i j : Nat) : Nat := (2 * s + j / 32) * 64 + i

/-- Cycles that a wavefront occupies row 0 (R152). -/
def rowCycles (fmt : Nat) : Nat := if fmtBits fmt = 32 then 4 else 1

/-- Cycle w of wavefront `n`, counted from the first cycle of the run (R152). -/
def waveCycle (fmt n : Nat) : Nat := rowCycles fmt * (n + 1) - 1

/-- Wavefronts whose cycle w comes before cycle `c` of a run of `total` of them. -/
def wavesBefore (fmt total c : Nat) : Nat := min total (c / rowCycles fmt)

/-- How far behind cycle w the step of a stage is done (R152). Which of its three cycles row 0, and the accumulator, takes the
spec does not say: `v` is free (log entry 7). -/
def stageCycle (v stage : Nat) : Nat :=
  if stage = 0 then 1 + v % 3 else if stage ≤ 7 then 3 + stage else 11 + v / 3 % 3

/-- Wavefronts of a pass of `k` elements of K (R150). -/
def passWaves (fmt k : Nat) : Nat := k / (8 * groupSize fmt) * 128

/-- The pending-group counter of index `j`: the wavefronts of the run in progress that have entered row 0 and whose cycle
w + 13 is not over (R152). -/
def State.pendingGroups (s : State) (t j : Nat) : Nat :=
  match (s.tile t).mma with
  | some o =>
    let before (c : Nat) : Nat := wavesBefore o.fmt ((s.tile t).acc j).pending (c - o.began)
    if o.acc = j then before (s.cycle + 1) - before (s.cycle - 13) else 0
  | none => 0

def optMax (a : Option Int) (b : Option Int) : Option Int :=
  match a, b with
  | none, b => b
  | a, none => a
  | some x, some y => some (max x y)

def optMin (a : Option Int) (b : Option Int) : Option Int :=
  match a, b with
  | none, b => b
  | a, none => a
  | some x, some y => some (min x y)

/-- The largest and the least ea + eb over every group of the pass; groups under a NaN scale take no part. -/
def Operands.expRange (p : Operands) : Option Int × Option Int :=
  if fmtScaled p.fmt then
    (List.range (p.k / 32)).foldl (fun (r : Option Int × Option Int) k =>
      let ea := p.aScale.map fun x => blockExp p.fmt x k
      let eb := p.bScale.map fun x => blockExp p.fmt x k
      let sum := fun (f : Option Int → Option Int → Option Int) =>
        match ea.foldl f none, eb.foldl f none with
        | some x, some y => some (x + y)
        | _, _ => none
      (optMax r.1 (sum optMax), optMin r.2 (sum optMin))) (none, none)
  else (some 0, some 0)

/-- First wavefront that holds a group whose e satisfies `bad`, if any; a group under a NaN scale has no e (R158, R159). -/
def Operands.firstGroup (p : Operands) (t : Int) (bad : Int → Bool) : Option Nat :=
  let per := 8 * groupSize p.fmt
  (List.range (p.k / per * 128)).find? fun w =>
    let s := w / 128
    (List.range 32).any fun c => (List.range 8).any fun r =>
      let k := per * s + groupSize p.fmt * r
      match blockExp p.fmt (p.aScale.getD (w % 64) 0) (k / 32),
        blockExp p.fmt (p.bScale.getD (w % 128 / 64 * 32 + c) 0) (k / 32) with
      | some a, some b => bad (a + b - t)
      | _, _ => false

/-- Least wavefront number of a list, if any. -/
def leastNat (l : List Nat) : Option Nat := leastBy id l

/-- ⌈a ÷ 16⌉ × 16. -/
def up16 (a : Int) : Int := -((-a) / 16) * 16

/-- Values of an accumulator tile. -/
def Acc.value (a : Acc) (n : Nat) : FNum := fp32.decodeIEEE (Table.get 0 a.data n).toNat

/-- Tile contents from 4,096 codes. -/
def accData (l : List Nat) : List (Nat × BitVec 32) :=
  l.zipIdx.filterMap fun (v, i) => if v % 2 ^ 32 = 0 then none else some (i, BitVec.ofNat 32 v)

/-- D of R159: how far the offset of a small tile may fall; 0 where the tile is not small or D < 16. R159 does not say
whether a NaN element takes part in the test: here it counts as small (DESIGN CHOICE, log entry 77). -/
def Acc.lowering (a : Acc) (lo hi : Int) : Int :=
  let d := min (min (up16 (-140 - (lo - a.offset))) ((100 - (hi - a.offset)) / 16 * 16)) (a.offset + 128)
  let small := a.data.all fun e =>
    match fp32.decodeIEEE e.2.toNat with
    | .inf _ => false
    | .fin _ m x => m == 0 || magLt m x 1 (64 - d)
    | .nan => true
  if d < 16 || !small then 0 else d

/-- How the running pass of a tile ends its present run. -/
inductive PassEnd where
  /-- aborted under R158, with the largest e of the pass, and the wavefronts that had entered -/
  | high (emax : Int) (waves : Nat)
  /-- aborted under R159, by how much T falls, and the wavefronts that had entered -/
  | low (d : Int) (waves : Nat)
  /-- complete: contents, flags, steps that saturated -/
  | done (codes : List Nat) (flags sat : Nat)
  deriving DecidableEq, Repr

/-- The flags that the fp32() steps of the first `n` wavefronts of a run raise (R134, R151). -/
def Operands.flagsOf (p : Operands) (a : Acc) (n : Nat) : Nat :=
  (List.range 4096).foldl (fun f x =>
    let i := x / 64
    let j := x % 64
    let m := (List.range (p.k / (8 * groupSize p.fmt))).foldl (fun (m : MmaSum) s =>
      if waveNo s i j < n then p.slice false a.offset i j s m else m) ⟨a.value x, 0, 0⟩
    f ||| m.flags) 0

/-- The end of run `run` of the pass on accumulator `a` (R158-R160). An overflow of wavefront y is met a few cycles behind its
cycle w, so a wavefront that comes soon after y may be turned away at row 0 before it. `v` is free: the cycles of
`stageCycle`, and whether a wavefront still enters in the very cycle of an overflow (log entry 7). -/
def Operands.run (p : Operands) (a : Acc) (run : Nat) (v : Nat) : PassEnd :=
  let sat := run == 3
  let (hi, lo) := p.expRange
  let e := (hi.getD 0) - a.offset
  let els := (List.range 4096).map fun n => (n, p.element sat a.offset (n / 64) (n % 64) (a.value n))
  let stop := (leastNat (els.filterMap fun x => x.2.2.map fun g =>
    waveCycle p.fmt (waveNo g.1 (x.1 / 64) (x.1 % 64)) + stageCycle v g.2)).map (· + v / 9 % 2)
  let high := if decide (100 < e) then p.firstGroup a.offset fun g => decide (100 < g) else none
  let d : Int := match hi, lo with
    | some h, some l => a.lowering l h
    | _, _ => 0
  let low := if decide (16 ≤ d) then p.firstGroup a.offset fun g => decide (g < -140) else none
  let first (x : Nat) : Bool := match stop with
    | some c => decide (waveCycle p.fmt x < c)
    | none => true
  let met (c : Nat) : PassEnd := .high e (wavesBefore p.fmt (passWaves p.fmt p.k) c)
  let all : PassEnd := .done (els.map fun x => (fp32.encodeIEEE false none x.2.1.v).1)
    (els.foldl (fun f x => f ||| x.2.1.flags) 0) (els.foldl (fun f x => f + x.2.1.over') 0)
  if sat then all
  else match high, low, stop with
    | some x, _, some c => if first x then .high e x else met c
    | some x, _, none => .high e x
    | none, some x, some c => if first x then .low d x else met c
    | none, some x, none => .low d x
    | none, none, some c => met c
    | none, none, none => all

/-! ### Class 0x8 (Table 7-13) -/

/-- The thread owns index `j`, and has not given it up by `end` before it was launched again (R178). -/
def Tile.owns (x : Tile) (h j : Nat) : Bool := (x.acc j).owner == some h && !(x.acc j).releasing

/-- The indices I to J. -/
def indices (i j : Nat) : List Nat := (List.range (j + 1 - i)).map (· + i)

/-- MMA: MOD[3:0] FMT; checks in the order of R201; the pass is queued (R149, R150, R191). R150 does not
say whether the running `mma` takes one of the queue's 4 places: here it stands beside 4 that wait (DESIGN CHOICE, log entry
77). -/
def execIMma (t : Fin 256) (h : Fin 16) (w : BitVec 56) (s : State) : Host.Outcome State Fault Refusal :=
  let n := w.toNat
  let fmt := fMOD n
  ok s (s.issue t h 3 (onlyUses n (useD ||| useA ||| useB ||| useC ||| useMOD) && fmtMu fmt && fA n % 2 == 0 &&
      fB n % 2 == 0) [fA n, fA n + 1, fB n, fB n + 1, fC n] [] fun s y =>
    let a := (y.getS (fA n)).toNat
    let sa := (y.getS (fA n + 1)).toNat
    let b := (y.getS (fB n)).toNat
    let sb := (y.getS (fB n + 1)).toNat
    let k := (y.getS (fC n)).toNat
    let scaled := fmtScaled fmt
    if !(s.tile t).owns h (fD n) then .fault 0x20 (fD n)
    else match firstFault
        [(k == 0 || k % (8 * groupSize fmt) != 0 || decide (16384 < k), 0x07),
         (a % 64 != 0 || b % 64 != 0 || (scaled && (sa % 64 != 0 || sb % 64 != 0)), 0x03),
         (!ownRange t a (64 * rowBytes fmt k) || !ownRange t b (64 * rowBytes fmt k) ||
            (scaled && (!ownRange t sa (64 * scaleBytes fmt k) || !ownRange t sb (64 * scaleBytes fmt k))), 0x04)] with
      | some c => .fault c
      | none =>
        if 4 ≤ (s.tile t).mmaQ.length then .wait .mmaQueue
        else .next (s.modTile t fun x =>
          { x with tqOrder := x.tqOrder + 1
                   mmaQ := x.mmaQ ++ [⟨x.tqOrder, h, fD n, fmt, a, sa, b, sb, k, 0, y.pc.toNat, 0⟩] }))

/-- MMA_START (R150, R155): the front of the queue enters row 0, behind every earlier drain of its index. R150 runs the queue
one after another, and R155 does not say whether another index may enter while the front waits for a drain: here only the front
starts (DESIGN CHOICE, log entry 77). -/
def execMmaStart (t : Fin 256) (s : State) : Host.Outcome State Fault Refusal :=
  ok s (s.powered fun s =>
    let x := s.tile t
    match x.mma, x.mmaQ with
    | none, o :: r =>
      if x.tq.any fun q => q.acc == o.acc && q.reading && decide (q.order < o.seq) then s
      else
        let a := x.acc o.acc
        let x := { x with mma := some { o with run := 1, began := s.cycle }, mmaQ := r }
        (s.setTile t (x.setAcc o.acc { a with pending := passWaves o.fmt o.k })).settle t
    | _, _ => s)

/-- MMA_ABORT (R158, R159): restore, rescale, run again. With T at 112 the saturating run follows (R160). The flags that the
aborted run's steps raised stay (R134); in which cycle of a stage an overflow is met is open (log entry 7). -/
def execMmaAbort (t : Fin 256) (s : State) : Host.Outcome State Fault Refusal :=
  ok s (s.powered fun s =>
    match (s.tile t).mma with
    | none => s
    | some o =>
      let a := (s.tile t).acc o.acc
      let p := s.operands o
      let again (n : Nat) : MmaOp := { o with run := n, began := s.cycle }
      if s.operandsBad o then s
      else
        let (v, s) := s.free
        match p.run a o.run v.toNat with
        | .done _ _ _ => s
        | .low d n =>
          let l := (List.range 4096).map fun n => (fp32.encodeIEEE false none ((a.value n).scale d)).1
          ((s.count (TILE_MU_RECOMP t)).modTile t fun x =>
            { x.setAcc o.acc { a with data := accData l, offset := a.offset - d } with
              mma := some (again (o.run + 1)) }).setFlags t engineMU (p.flagsOf a n)
        | .high e n =>
          let s := (s.count (TILE_MU_RECOMP t)).setFlags t engineMU (p.flagsOf a n)
          if 112 ≤ a.offset then s.modTile t fun x => { x with mma := some (again 3) }
          else
            let d := min (up16 (max 1 (e - 100))) (112 - a.offset)
            let l := (List.range 4096).map fun n => fp32.encodeIEEE false none ((a.value n).scale (-d))
            let lost := (l.filter fun c => bitOf c.2 1).length
            let s := s.modTile t fun x =>
              { x.setAcc o.acc { a with data := accData (l.map Prod.fst), offset := a.offset + d } with
                mma := some (again (o.run + 1)) }
            (s.count (TILE_MU_RESCALE_UF t) lost).setFlags t engineMU (l.foldl (fun f c => f ||| c.2) 0))

/-- The pass of a tile is over: the index has no group pending. -/
def State.passOver (s : State) (t : Nat) (o : MmaOp) (a : Acc) : State :=
  (s.modTile t fun x => { x.setAcc o.acc { a with pending := 0 } with mma := none }).settle t

/-- MMA_COMPLETE (R151, R160): the sums stand; a third run that saturated sets MU_OF and raises a class E event. An operand
that cannot be read faults the thread, and the contents it leaves are open (log entry 7); how far such a pass runs the spec does
not say, and here it raises no flag (DESIGN CHOICE, log entry 77). -/
def execMmaComplete (t : Fin 256) (s : State) : Host.Outcome State Fault Refusal :=
  ok s (s.powered fun s =>
    match (s.tile t).mma with
    | none => s
    | some o =>
      let a := (s.tile t).acc o.acc
      if s.operandsBad o then
        let l := (List.range 4096).map fun n => (Config.freeWord (s.freeCtr + n)).toNat
        let s := (s.count SRAM_UE).putFreeCtr (s.freeCtr + 4096)
        (s.passOver t o { a with data := accData l }).lateFault t o.thread .data o.pc
      else match (s.operands o).run a o.run 0 with
        | .done l f sat =>
          let s := s.setFlags t engineMU (f ||| (if sat = 0 then 0 else flagOF))
          let s := if sat = 0 then s else (s.count (TILE_MU_SAT t)).notice 2 0x000A (sourceOf 1 t) o.thread o.acc
            (some (s.tile t).ctx)
          s.passOver t o { a with data := accData l }
        | _ => s)

/-- DRAIN, DRAIN.KEEP (MOD[0]): reserves a tailwater entry, of the free ones the lowest, which R162 leaves open (DESIGN CHOICE,
log entry 77) (R162, R163). -/
def execIDrain (t : Fin 256) (h : Fin 16) (w : BitVec 56) (s : State) : Host.Outcome State Fault Refusal :=
  let n := w.toNat
  ok s (s.issue t h 3 (onlyUses n (useD ||| useMOD) && decide (fMOD n ≤ 1)) [] [] fun s _ =>
    let x := s.tile t
    if !x.owns h (fD n) then .fault 0x20 (fD n)
    else match lowest 8 fun i => !(x.tq.any fun q => q.slot == i) with
      | none => .wait .tailwater
      | some i => .next (s.setTile t
          { x with tqOrder := x.tqOrder + 1
                   tq := x.tq ++ [⟨i, h, x.tqOrder, fD n, fMOD n == 1, [], 0, true, false⟩] }))

/-- DRAIN_READ (R162): the oldest drain whose index has no earlier group left reads its 64 rows, times 2^T. -/
def execDrainRead (t : Fin 256) (s : State) : Host.Outcome State Fault Refusal :=
  ok s (s.powered fun s =>
    let x := s.tile t
    match leastBy TqEntry.order (x.tq.filter fun q => q.reading && !x.mmaOn q.acc q.order) with
    | none => s
    | some q =>
      let a := x.acc q.acc
      let l := (List.range 4096).map fun n => fp32.encodeIEEE false none ((a.value n).scale a.offset)
      let rows := (List.range 64).map fun i => (l.drop (64 * i)).take 64 |>.map fun c => BitVec.ofNat 32 c.1
      let s := s.setTile t ({ x with
        tq := x.tq.map fun (r : TqEntry) => if r.order == q.order then { r with rows := rows, reading := false } else r
        tqMem := Table.set natRank [] x.tqMem q.slot rows }.setAcc q.acc
          (if q.keep then a else { a with data := [], offset := 0 }))
      (s.setFlags t engineMU (l.foldl (fun f c => f ||| c.2) 0)).settle t)

/-- ACQ aI..aJ asks to bind (R153, R192). -/
def execIAcq (t : Fin 256) (h : Fin 16) (w : BitVec 56) (s : State) : Host.Outcome State Fault Refusal :=
  let n := w.toNat
  ok s (s.issue t h 3 (onlyUses n (useD ||| useA) && decide (fD n ≤ fA n)) [] [] fun _ _ => .wait (.acq (fD n) (fA n)))

/-- ACQ_BIND (R153): all indices at once, when no other thread owns one and the thread's own have no pending group;
a thread of a tile whose issue is stopped stays as it is (spec/14_faults_and_recovery.md R375). -/
def execAcqBind (t : Fin 256) (h : Fin 16) (s : State) : Host.Outcome State Fault Refusal :=
  ok s (s.powered fun s =>
    let x := s.tile t
    match x.waitOf h with
    | .acq i j =>
      if !s.issueStopped t && (indices i j).all fun a => (x.acc a).owner == none || (x.owns h a && !x.accBusy a) then
        let x := (indices i j).foldl (fun x a => x.setAcc a ⟨some h.val, 0, [], 0, false⟩) x
        (s.setTile t (x.setThread h (x.thread h).resumeRun.advance)).settle t
      else s
    | _ => s)

/-- REL aI..aJ asks to unbind (R154, R156, R192). -/
def execIRel (t : Fin 256) (h : Fin 16) (w : BitVec 56) (s : State) : Host.Outcome State Fault Refusal :=
  let n := w.toNat
  ok s (s.issue t h 3 (onlyUses n (useD ||| useA) && decide (fD n ≤ fA n)) [] [] fun s _ =>
    match (indices (fD n) (fA n)).find? fun a => !(s.tile t).owns h a with
    | some a => .fault 0x20 a
    | none => .wait (.rel (fD n) (fA n)))

/-- REL_UNBIND (R154): contents and T stay. -/
def execRelUnbind (t : Fin 256) (h : Fin 16) (s : State) : Host.Outcome State Fault Refusal :=
  ok s (s.powered fun s =>
    let x := s.tile t
    match x.waitOf h with
    | .rel i j =>
      if !s.issueStopped t && (indices i j).all fun a => !x.accBusy a then
        let x := (indices i j).foldl (fun x a => x.setAcc a { x.acc a with owner := none, releasing := false }) x
        (s.setTile t (x.setThread h (x.thread h).resumeRun.advance)).settle t
      else s
    | _ => s)

end Sys2Proof.Machine
end

