-- ==== Sys2Proof/Machine/Scalar.lean ====
section
/-! DEFINITION. Sys2Proof/Machine/Scalar.lean: scalar and control instructions of a tile thread, classes 0x0 to 0x2
(spec/07_instruction_set.md R176-R179, Tables 7-3 to 7-5). -/

namespace Sys2Proof.Machine

/-- A scalar instruction of class 0x0: sD from the registers of the thread (R176). -/
def State.scalarReg (s : State) (t : Fin 256) (h : Fin 16) (w : BitVec 56) (used : Nat) (legal : Bool)
    (f : Word → Word → Word → Word) : State :=
  let n := w.toNat
  s.issue t h 0 (onlyUses n used && legal) [fD n, fA n, fB n, fC n] [] fun s y =>
    .next (s.modThread t h fun x => x.setS (fD n) (f (y.getS (fA n)) (y.getS (fB n)) (y.getS (fC n))))

/-- One of the two-operand register forms without a qualifier. -/
def State.scalarOp (s : State) (t : Fin 256) (h : Fin 16) (w : BitVec 56) (f : Word → Word → Word) : State :=
  s.scalarReg t h w (useD ||| useA ||| useB) true fun a b _ => f a b

/-- An immediate form: sD from sA and the sign-extended IMM38 (R176). -/
def State.scalarImm (s : State) (t : Fin 256) (h : Fin 16) (w : BitVec 56) (f : Word → Word → Word) : State :=
  let n := w.toNat
  s.issue t h 0 (onlyUses n (useD ||| useA ||| useIMM38)) [fD n, fA n] [] fun s y =>
    .next (s.modThread t h fun x => x.setS (fD n) (f (y.getS (fA n)) (fIMM38 n)))

def boolWord (b : Bool) : Word := if b then 1 else 0

/-- Shifts by the amount modulo 64 (R176). -/
def shlWord (a b : Word) : Word := a <<< (b.toNat % 64)
def shrWord (a b : Word) : Word := a >>> (b.toNat % 64)
def sraWord (a b : Word) : Word := a.sshiftRight (b.toNat % 64)

/-- Bits [127:64] of a product, signed or unsigned. -/
def mulHigh (unsig : Bool) (a b : Word) : Word :=
  if unsig then BitVec.ofNat 64 ((a.toNat * b.toNat) >>> 64) else BitVec.ofInt 64 ((a.toInt * b.toInt) / 2 ^ 64)

/-- `min`, `max`, `minu`, `maxu` (MOD 0-3). -/
def minMax (m : Nat) (a b : Word) : Word :=
  match m with
  | 0 => if a.slt b then a else b
  | 1 => if a.slt b then b else a
  | 2 => if a.ult b then a else b
  | _ => if a.ult b then b else a

/-- `clz`, `ctz`, `popc` (MOD 0, 1, 2). -/
def countBits (m : Nat) (a : Word) : Word :=
  let n := a.toNat
  match m with
  | 0 => BitVec.ofNat 64 ((lowest 64 fun i => bitOf n (63 - i)).getD 64)
  | 1 => BitVec.ofNat 64 ((lowest 64 fun i => bitOf n i).getD 64)
  | _ => BitVec.ofNat 64 (bitsSet 64 n).length

/-! ### Class 0x0 (Table 7-3) -/

/-- ADD -/
def execIAdd (t : Fin 256) (h : Fin 16) (w : BitVec 56) (s : State) : Host.Outcome State Fault Refusal :=
  ok s (s.scalarOp t h w fun a b => a + b)

/-- SUB -/
def execISub (t : Fin 256) (h : Fin 16) (w : BitVec 56) (s : State) : Host.Outcome State Fault Refusal :=
  ok s (s.scalarOp t h w fun a b => a - b)

/-- AND -/
def execIAnd (t : Fin 256) (h : Fin 16) (w : BitVec 56) (s : State) : Host.Outcome State Fault Refusal :=
  ok s (s.scalarOp t h w fun a b => a &&& b)

/-- OR -/
def execIOr (t : Fin 256) (h : Fin 16) (w : BitVec 56) (s : State) : Host.Outcome State Fault Refusal :=
  ok s (s.scalarOp t h w fun a b => a ||| b)

/-- XOR -/
def execIXor (t : Fin 256) (h : Fin 16) (w : BitVec 56) (s : State) : Host.Outcome State Fault Refusal :=
  ok s (s.scalarOp t h w fun a b => a ^^^ b)

/-- SHL -/
def execIShl (t : Fin 256) (h : Fin 16) (w : BitVec 56) (s : State) : Host.Outcome State Fault Refusal :=
  ok s (s.scalarOp t h w shlWord)

/-- SHR -/
def execIShr (t : Fin 256) (h : Fin 16) (w : BitVec 56) (s : State) : Host.Outcome State Fault Refusal :=
  ok s (s.scalarOp t h w shrWord)

/-- SRA -/
def execISra (t : Fin 256) (h : Fin 16) (w : BitVec 56) (s : State) : Host.Outcome State Fault Refusal :=
  ok s (s.scalarOp t h w sraWord)

/-- MUL -/
def execIMul (t : Fin 256) (h : Fin 16) (w : BitVec 56) (s : State) : Host.Outcome State Fault Refusal :=
  ok s (s.scalarOp t h w fun a b => a * b)

/-- MULH: MOD 0 signed, 1 unsigned. -/
def execIMulh (t : Fin 256) (h : Fin 16) (w : BitVec 56) (s : State) : Host.Outcome State Fault Refusal :=
  ok s (s.scalarReg t h w (useD ||| useA ||| useB ||| useMOD) (decide (fMOD w.toNat ≤ 1)) fun a b _ =>
    mulHigh (fMOD w.toNat == 1) a b)

/-- MIN, MAX, MINU, MAXU: MOD 0-3. -/
def execIMinMax (t : Fin 256) (h : Fin 16) (w : BitVec 56) (s : State) : Host.Outcome State Fault Refusal :=
  ok s (s.scalarReg t h w (useD ||| useA ||| useB ||| useMOD) (decide (fMOD w.toNat ≤ 3)) fun a b _ =>
    minMax (fMOD w.toNat) a b)

/-- SLT -/
def execISlt (t : Fin 256) (h : Fin 16) (w : BitVec 56) (s : State) : Host.Outcome State Fault Refusal :=
  ok s (s.scalarOp t h w fun a b => boolWord (a.slt b))

/-- SLTU -/
def execISltu (t : Fin 256) (h : Fin 16) (w : BitVec 56) (s : State) : Host.Outcome State Fault Refusal :=
  ok s (s.scalarOp t h w fun a b => boolWord (a.ult b))

/-- SEQ -/
def execISeq (t : Fin 256) (h : Fin 16) (w : BitVec 56) (s : State) : Host.Outcome State Fault Refusal :=
  ok s (s.scalarOp t h w fun a b => boolWord (a == b))

/-- SEL -/
def execISel (t : Fin 256) (h : Fin 16) (w : BitVec 56) (s : State) : Host.Outcome State Fault Refusal :=
  ok s (s.scalarReg t h w (useD ||| useA ||| useB ||| useC) true fun a b c => if c ≠ 0 then a else b)

/-! ### Class 0x1 (Table 7-3) -/

/-- ADDI -/
def execIAddi (t : Fin 256) (h : Fin 16) (w : BitVec 56) (s : State) : Host.Outcome State Fault Refusal :=
  ok s (s.scalarImm t h w fun a b => a + b)

/-- CLZ, CTZ, POPC: MOD 0, 1, 2, imm zero. -/
def execIClzCtzPopc (t : Fin 256) (h : Fin 16) (w : BitVec 56) (s : State) : Host.Outcome State Fault Refusal :=
  let n := w.toNat
  ok s (s.issue t h 0 (onlyUses n (useD ||| useA ||| useMOD) && decide (fMOD n ≤ 2)) [fD n, fA n] [] fun s y =>
    .next (s.modThread t h fun x => x.setS (fD n) (countBits (fMOD n) (y.getS (fA n)))))

/-- ANDI -/
def execIAndi (t : Fin 256) (h : Fin 16) (w : BitVec 56) (s : State) : Host.Outcome State Fault Refusal :=
  ok s (s.scalarImm t h w fun a b => a &&& b)

/-- ORI -/
def execIOri (t : Fin 256) (h : Fin 16) (w : BitVec 56) (s : State) : Host.Outcome State Fault Refusal :=
  ok s (s.scalarImm t h w fun a b => a ||| b)

/-- XORI -/
def execIXori (t : Fin 256) (h : Fin 16) (w : BitVec 56) (s : State) : Host.Outcome State Fault Refusal :=
  ok s (s.scalarImm t h w fun a b => a ^^^ b)

/-- SHLI -/
def execIShli (t : Fin 256) (h : Fin 16) (w : BitVec 56) (s : State) : Host.Outcome State Fault Refusal :=
  ok s (s.scalarImm t h w shlWord)

/-- SHRI -/
def execIShri (t : Fin 256) (h : Fin 16) (w : BitVec 56) (s : State) : Host.Outcome State Fault Refusal :=
  ok s (s.scalarImm t h w shrWord)

/-- SRAI -/
def execISrai (t : Fin 256) (h : Fin 16) (w : BitVec 56) (s : State) : Host.Outcome State Fault Refusal :=
  ok s (s.scalarImm t h w sraWord)

/-- MULI -/
def execIMuli (t : Fin 256) (h : Fin 16) (w : BitVec 56) (s : State) : Host.Outcome State Fault Refusal :=
  ok s (s.scalarImm t h w fun a b => a * b)

/-- SLTI -/
def execISlti (t : Fin 256) (h : Fin 16) (w : BitVec 56) (s : State) : Host.Outcome State Fault Refusal :=
  ok s (s.scalarImm t h w fun a b => boolWord (a.slt b))

/-- SLTIU -/
def execISltiu (t : Fin 256) (h : Fin 16) (w : BitVec 56) (s : State) : Host.Outcome State Fault Refusal :=
  ok s (s.scalarImm t h w fun a b => boolWord (a.ult b))

/-- SEQI -/
def execISeqi (t : Fin 256) (h : Fin 16) (w : BitVec 56) (s : State) : Host.Outcome State Fault Refusal :=
  ok s (s.scalarImm t h w fun a b => boolWord (a == b))

/-- LI: sD = IMM43, sign-extended. -/
def execILi (t : Fin 256) (h : Fin 16) (w : BitVec 56) (s : State) : Host.Outcome State Fault Refusal :=
  let n := w.toNat
  ok s (s.issue t h 0 (onlyUses n (useD ||| useIMM43)) [fD n] [] fun s _ =>
    .next (s.modThread t h fun x => x.setS (fD n) (BitVec.ofInt 64 (signed 43 (bitsOf n 0 43)))))

/-- LIH: sD[63:43] = IMM43[20:0]. -/
def execILih (t : Fin 256) (h : Fin 16) (w : BitVec 56) (s : State) : Host.Outcome State Fault Refusal :=
  let n := w.toNat
  ok s (s.issue t h 0 (onlyUses n (useD ||| (2 ^ 21 - 1))) [fD n] [] fun s y =>
    .next (s.modThread t h fun x =>
      x.setS (fD n) (BitVec.ofNat 64 (bitsOf (y.getS (fD n)).toNat 0 43 + bitsOf n 0 21 * 2 ^ 43))))

/-! ### Class 0x2 (Table 7-4) -/

/-- A conditional branch, taken when `c` holds of sA and sB (R177). -/
def State.branch (s : State) (t : Fin 256) (h : Fin 16) (w : BitVec 56) (c : Word → Word → Bool) : State :=
  let n := w.toNat
  s.issue t h 0 (onlyUses n (useA ||| useB ||| useOFF33)) [fA n, fB n] [] fun s y =>
    if c (y.getS (fA n)) (y.getS (fB n)) then .jump s (y.pc + 8 * fOFF33 n) else .next s

/-- BEQ -/
def execIBeq (t : Fin 256) (h : Fin 16) (w : BitVec 56) (s : State) : Host.Outcome State Fault Refusal :=
  ok s (s.branch t h w fun a b => a == b)

/-- BNE -/
def execIBne (t : Fin 256) (h : Fin 16) (w : BitVec 56) (s : State) : Host.Outcome State Fault Refusal :=
  ok s (s.branch t h w fun a b => a != b)

/-- BLT -/
def execIBlt (t : Fin 256) (h : Fin 16) (w : BitVec 56) (s : State) : Host.Outcome State Fault Refusal :=
  ok s (s.branch t h w fun a b => a.slt b)

/-- BGE -/
def execIBge (t : Fin 256) (h : Fin 16) (w : BitVec 56) (s : State) : Host.Outcome State Fault Refusal :=
  ok s (s.branch t h w fun a b => !a.slt b)

/-- BLTU -/
def execIBltu (t : Fin 256) (h : Fin 16) (w : BitVec 56) (s : State) : Host.Outcome State Fault Refusal :=
  ok s (s.branch t h w fun a b => a.ult b)

/-- BGEU -/
def execIBgeu (t : Fin 256) (h : Fin 16) (w : BitVec 56) (s : State) : Host.Outcome State Fault Refusal :=
  ok s (s.branch t h w fun a b => !a.ult b)

/-- JAL: sD = PC + 8; PC = PC + 8 × OFF33. -/
def execIJal (t : Fin 256) (h : Fin 16) (w : BitVec 56) (s : State) : Host.Outcome State Fault Refusal :=
  let n := w.toNat
  ok s (s.issue t h 0 (onlyUses n (useD ||| useOFF33)) [fD n] [] fun s y =>
    .jump (s.modThread t h fun x => x.setS (fD n) (y.pc + 8)) (y.pc + 8 * fOFF33 n))

/-- JR: sD = PC + 8; PC = sA + 8 × OFF33. -/
def execIJr (t : Fin 256) (h : Fin 16) (w : BitVec 56) (s : State) : Host.Outcome State Fault Refusal :=
  let n := w.toNat
  ok s (s.issue t h 0 (onlyUses n (useD ||| useA ||| useOFF33)) [fD n, fA n] [] fun s y =>
    .jump (s.modThread t h fun x => x.setS (fD n) (y.pc + 8)) (y.getS (fA n) + 8 * fOFF33 n))

/-- A special register (Table 7-5). -/
def State.special (s : State) (t h n : Nat) : Word :=
  let c := (s.tile t).ctx
  match n with
  | 0 => BitVec.ofNat 64 h
  | 1 => BitVec.ofNat 64 t
  | 2 => BitVec.ofNat 64 c
  | 3 => BitVec.ofNat 64 (s.genOf c)
  | 4 => BitVec.ofNat 64 s.cycle
  | 5 => BitVec.ofNat 64 (s.fld (CTX_STATE c) CTX_STATE_STEP)
  | 6 => BitVec.ofNat 64 s.switchId
  | 7 => s.rd (TILE_FP_FLAGS t)
  | 8 => (s.ctx c).seed
  | _ => BitVec.ofNat 64 s.active

/-- RDSR: any number above 9 is an illegal instruction. -/
def execIRdsr (t : Fin 256) (h : Fin 16) (w : BitVec 56) (s : State) : Host.Outcome State Fault Refusal :=
  let n := w.toNat
  ok s (s.issue t h 0 (onlyUses n (useD ||| useIMM38) && decide (bitsOf n 0 38 ≤ 9)) [fD n] [] fun s _ =>
    .next (s.modThread t h fun x => x.setS (fD n) (s.special t h (bitsOf n 0 38))))

/-- END: issue stops, taken Weir entries go back, accumulator indices and tailwater entries are given up, and the thread leaves
when nothing of it is outstanding (R178). -/
def execIEnd (t : Fin 256) (h : Fin 16) (w : BitVec 56) (s : State) : Host.Outcome State Fault Refusal :=
  ok s (s.issue t h 0 (onlyUses w.toNat 0) [] [] fun s _ =>
    .waitIn (((s.returnEntries t h).modTile t fun x => x.giveUp h).modThread t h fun x => { x with ending := true, issued := x.issued + 1 }) .none)

/-- BRK: the thread's bit of THREAD_HALT is set and a class N event posted (R179). -/
def execIBrk (t : Fin 256) (h : Fin 16) (w : BitVec 56) (s : State) : Host.Outcome State Fault Refusal :=
  ok s (s.issue t h 0 (onlyUses w.toNat 0) [] [] fun s y =>
    let s := s.setFld (TILE_CTL t) TILE_CTL_THREAD_HALT (s.fld (TILE_CTL t) TILE_CTL_THREAD_HALT ||| 2 ^ h.val)
    let s := s.modThread t h fun x => { x with st := .halted, resume := .run }
    .next (s.notice 0 0x000B (sourceOf 1 t) y.pc.toNat h (some (s.tile t).ctx)))

/-- NOP -/
def execINop (t : Fin 256) (h : Fin 16) (w : BitVec 56) (s : State) : Host.Outcome State Fault Refusal :=
  ok s (s.issue t h 0 (onlyUses w.toNat 0) [] [] fun s _ => .next s)

end Sys2Proof.Machine
end

