-- ==== Sys2Proof/Machine/Dispatch.lean ====
section
/-! DEFINITION. Sys2Proof/Machine/Dispatch.lean: one arm per command, each one call of the command's meaning. -/

namespace Sys2Proof.Machine

/-- The effect of a command on everything but the queue. -/
def exec (i : Instr) (s : State) : Host.Outcome State Fault Refusal :=
  match i with
  | .registerWrite reg value sets => Sys2Proof.Machine.execRegisterWrite reg value sets s
  | .rcRead reg update => Sys2Proof.Machine.execRcRead reg update s
  | .codewordReceive port cw => Sys2Proof.Machine.execCodewordReceive port cw s
  | .codewordSend port => Sys2Proof.Machine.execCodewordSend port s
  | .replayTmo port => Sys2Proof.Machine.execReplayTmo port s
  | .cellReceive port cell => Sys2Proof.Machine.execCellReceive port cell s
  | .turnoutReplicate input => Sys2Proof.Machine.execTurnoutReplicate input s
  | .failGapExpiry src port => Sys2Proof.Machine.execFailGapExpiry src port s
  | .echoGapExpiry src tc => Sys2Proof.Machine.execEchoGapExpiry src tc s
  | .sluiceSelect port => Sys2Proof.Machine.execSluiceSelect port s
  | .internalOutputSelect output => Sys2Proof.Machine.execInternalOutputSelect output s
  | .crossbarTransfer => Sys2Proof.Machine.execCrossbarTransfer s
  | .slotFree slot => Sys2Proof.Machine.execSlotFree slot s
  | .mirFlush session => Sys2Proof.Machine.execMirFlush session s
  | .calendarSlotExpiry slot => Sys2Proof.Machine.execCalendarSlotExpiry slot s
  | .gateEntryBoundary port => Sys2Proof.Machine.execGateEntryBoundary port s
  | .gateSwitchover port => Sys2Proof.Machine.execGateSwitchover port s
  | .gateArm port value => Sys2Proof.Machine.execGateArm port value s
  | .cancel port => Sys2Proof.Machine.execCancel port s
  | .gateEntryWrite port bank entry value => Sys2Proof.Machine.execGateEntryWrite port bank entry value s
  | .headgateRefill => Sys2Proof.Machine.execHeadgateRefill s
  | .samplerPeriod => Sys2Proof.Machine.execSamplerPeriod s
  | .clear => Sys2Proof.Machine.execClear s
  | .histClearDone => Sys2Proof.Machine.execHistClearDone s
  | .switchIdWrite value => Sys2Proof.Machine.execSwitchIdWrite value s
  | .portDown port reason => Sys2Proof.Machine.execPortDown port reason s
  | .portDrainComplete port => Sys2Proof.Machine.execPortDrainComplete port s
  | .octetPowerOn => Sys2Proof.Machine.execOctetPowerOn s
  | .trainingBlockReceive port lane block => Sys2Proof.Machine.execTrainingBlockReceive port lane block s
  | .trainTmo port => Sys2Proof.Machine.execTrainTmo port s
  | .helloSend port => Sys2Proof.Machine.execHelloSend port s
  | .helloReceive port cells => Sys2Proof.Machine.execHelloReceive port cells s
  | .helloCheckComplete port => Sys2Proof.Machine.execHelloCheckComplete port s
  | .helloTmo port => Sys2Proof.Machine.execHelloTmo port s
  | .los lane => Sys2Proof.Machine.execLos lane s
  | .lol lane => Sys2Proof.Machine.execLol lane s
  | .laneSerWindow lane => Sys2Proof.Machine.execLaneSerWindow lane s
  | .narrowResume port nextN => Sys2Proof.Machine.execNarrowResume port nextN s
  | .narrowFail port => Sys2Proof.Machine.execNarrowFail port s
  | .octetFault octet => Sys2Proof.Machine.execOctetFault octet s
  | .octetClockRechoose octet fastest => Sys2Proof.Machine.execOctetClockRechoose octet fastest s
  | .enable port value => Sys2Proof.Machine.execEnable port value s
  | .loop port value => Sys2Proof.Machine.execLoop port value s
  | .retrain port => Sys2Proof.Machine.execRetrain port s
  | .linkCtlIgnored port value => Sys2Proof.Machine.execLinkCtlIgnored port value s
  | .adoptWiring cmd => Sys2Proof.Machine.execAdoptWiring cmd s
  | .tileRequestServe tile req => Sys2Proof.Machine.execTileRequestServe tile req s
  | .memoryPortRequest mport req => Sys2Proof.Machine.execMemoryPortRequest mport req s
  | .mgmtPortRequest req => Sys2Proof.Machine.execMgmtPortRequest req s
  | .loadResponse tile rsp => Sys2Proof.Machine.execLoadResponse tile rsp s
  | .streamLineComplete tile rsp => Sys2Proof.Machine.execStreamLineComplete tile rsp s
  | .iAdd tile thread w => Sys2Proof.Machine.execIAdd tile thread w s
  | .iSub tile thread w => Sys2Proof.Machine.execISub tile thread w s
  | .iAnd tile thread w => Sys2Proof.Machine.execIAnd tile thread w s
  | .iOr tile thread w => Sys2Proof.Machine.execIOr tile thread w s
  | .iXor tile thread w => Sys2Proof.Machine.execIXor tile thread w s
  | .iShl tile thread w => Sys2Proof.Machine.execIShl tile thread w s
  | .iShr tile thread w => Sys2Proof.Machine.execIShr tile thread w s
  | .iSra tile thread w => Sys2Proof.Machine.execISra tile thread w s
  | .iMul tile thread w => Sys2Proof.Machine.execIMul tile thread w s
  | .iMulh tile thread w => Sys2Proof.Machine.execIMulh tile thread w s
  | .iMinMax tile thread w => Sys2Proof.Machine.execIMinMax tile thread w s
  | .iSlt tile thread w => Sys2Proof.Machine.execISlt tile thread w s
  | .iSltu tile thread w => Sys2Proof.Machine.execISltu tile thread w s
  | .iSeq tile thread w => Sys2Proof.Machine.execISeq tile thread w s
  | .iSel tile thread w => Sys2Proof.Machine.execISel tile thread w s
  | .iAddi tile thread w => Sys2Proof.Machine.execIAddi tile thread w s
  | .iClzCtzPopc tile thread w => Sys2Proof.Machine.execIClzCtzPopc tile thread w s
  | .iAndi tile thread w => Sys2Proof.Machine.execIAndi tile thread w s
  | .iOri tile thread w => Sys2Proof.Machine.execIOri tile thread w s
  | .iXori tile thread w => Sys2Proof.Machine.execIXori tile thread w s
  | .iShli tile thread w => Sys2Proof.Machine.execIShli tile thread w s
  | .iShri tile thread w => Sys2Proof.Machine.execIShri tile thread w s
  | .iSrai tile thread w => Sys2Proof.Machine.execISrai tile thread w s
  | .iMuli tile thread w => Sys2Proof.Machine.execIMuli tile thread w s
  | .iSlti tile thread w => Sys2Proof.Machine.execISlti tile thread w s
  | .iSltiu tile thread w => Sys2Proof.Machine.execISltiu tile thread w s
  | .iSeqi tile thread w => Sys2Proof.Machine.execISeqi tile thread w s
  | .iLi tile thread w => Sys2Proof.Machine.execILi tile thread w s
  | .iLih tile thread w => Sys2Proof.Machine.execILih tile thread w s
  | .iBeq tile thread w => Sys2Proof.Machine.execIBeq tile thread w s
  | .iBne tile thread w => Sys2Proof.Machine.execIBne tile thread w s
  | .iBlt tile thread w => Sys2Proof.Machine.execIBlt tile thread w s
  | .iBge tile thread w => Sys2Proof.Machine.execIBge tile thread w s
  | .iBltu tile thread w => Sys2Proof.Machine.execIBltu tile thread w s
  | .iBgeu tile thread w => Sys2Proof.Machine.execIBgeu tile thread w s
  | .iJal tile thread w => Sys2Proof.Machine.execIJal tile thread w s
  | .iJr tile thread w => Sys2Proof.Machine.execIJr tile thread w s
  | .iRdsr tile thread w => Sys2Proof.Machine.execIRdsr tile thread w s
  | .iEnd tile thread w => Sys2Proof.Machine.execIEnd tile thread w s
  | .iBrk tile thread w => Sys2Proof.Machine.execIBrk tile thread w s
  | .iNop tile thread w => Sys2Proof.Machine.execINop tile thread w s
  | .iLd tile thread w => Sys2Proof.Machine.execILd tile thread w s
  | .iSt tile thread w => Sys2Proof.Machine.execISt tile thread w s
  | .iVld tile thread w => Sys2Proof.Machine.execIVld tile thread w s
  | .iVst tile thread w => Sys2Proof.Machine.execIVst tile thread w s
  | .iSin tile thread w => Sys2Proof.Machine.execISin tile thread w s
  | .iSout tile thread w => Sys2Proof.Machine.execISout tile thread w s
  | .iVadd tile thread w => Sys2Proof.Machine.execIVadd tile thread w s
  | .iVsub tile thread w => Sys2Proof.Machine.execIVsub tile thread w s
  | .iVmul tile thread w => Sys2Proof.Machine.execIVmul tile thread w s
  | .iVmin tile thread w => Sys2Proof.Machine.execIVmin tile thread w s
  | .iVmax tile thread w => Sys2Proof.Machine.execIVmax tile thread w s
  | .iVand tile thread w => Sys2Proof.Machine.execIVand tile thread w s
  | .iVor tile thread w => Sys2Proof.Machine.execIVor tile thread w s
  | .iVxor tile thread w => Sys2Proof.Machine.execIVxor tile thread w s
  | .iVshl tile thread w => Sys2Proof.Machine.execIVshl tile thread w s
  | .iVshr tile thread w => Sys2Proof.Machine.execIVshr tile thread w s
  | .iVcmp tile thread w => Sys2Proof.Machine.execIVcmp tile thread w s
  | .iVsel tile thread w => Sys2Proof.Machine.execIVsel tile thread w s
  | .iVbcast tile thread w => Sys2Proof.Machine.execIVbcast tile thread w s
  | .iVext tile thread w => Sys2Proof.Machine.execIVext tile thread w s
  | .iVpop tile thread w => Sys2Proof.Machine.execIVpop tile thread w s
  | .iMand tile thread w => Sys2Proof.Machine.execIMand tile thread w s
  | .iMor tile thread w => Sys2Proof.Machine.execIMor tile thread w s
  | .iMxor tile thread w => Sys2Proof.Machine.execIMxor tile thread w s
  | .iMnot tile thread w => Sys2Proof.Machine.execIMnot tile thread w s
  | .iMpop tile thread w => Sys2Proof.Machine.execIMpop tile thread w s
  | .iMins tile thread w => Sys2Proof.Machine.execIMins tile thread w s
  | .iMext tile thread w => Sys2Proof.Machine.execIMext tile thread w s
  | .iVfadd tile thread w => Sys2Proof.Machine.execIVfadd tile thread w s
  | .iVfsub tile thread w => Sys2Proof.Machine.execIVfsub tile thread w s
  | .iVfmul tile thread w => Sys2Proof.Machine.execIVfmul tile thread w s
  | .iVfma tile thread w => Sys2Proof.Machine.execIVfma tile thread w s
  | .iVfmax tile thread w => Sys2Proof.Machine.execIVfmax tile thread w s
  | .iVfmin tile thread w => Sys2Proof.Machine.execIVfmin tile thread w s
  | .iVfcmp tile thread w => Sys2Proof.Machine.execIVfcmp tile thread w s
  | .iVfabsVfnegVfcsgn tile thread w => Sys2Proof.Machine.execIVfabsVfnegVfcsgn tile thread w s
  | .iCvt tile thread w => Sys2Proof.Machine.execICvt tile thread w s
  | .iVbamax tile thread w => Sys2Proof.Machine.execIVbamax tile thread w s
  | .iCvtScale tile thread w => Sys2Proof.Machine.execICvtScale tile thread w s
  | .iVpack tile thread w => Sys2Proof.Machine.execIVpack tile thread w s
  | .iMma tile thread w => Sys2Proof.Machine.execIMma tile thread w s
  | .mmaStart tile => Sys2Proof.Machine.execMmaStart tile s
  | .mmaAbort tile => Sys2Proof.Machine.execMmaAbort tile s
  | .mmaComplete tile => Sys2Proof.Machine.execMmaComplete tile s
  | .iDrain tile thread w => Sys2Proof.Machine.execIDrain tile thread w s
  | .drainRead tile => Sys2Proof.Machine.execDrainRead tile s
  | .iAcq tile thread w => Sys2Proof.Machine.execIAcq tile thread w s
  | .acqBind tile thread => Sys2Proof.Machine.execAcqBind tile thread s
  | .iRel tile thread w => Sys2Proof.Machine.execIRel tile thread w s
  | .relUnbind tile thread => Sys2Proof.Machine.execRelUnbind tile thread s
  | .iWeirTake tile thread w => Sys2Proof.Machine.execIWeirTake tile thread w s
  | .iWeirPeek tile thread w => Sys2Proof.Machine.execIWeirPeek tile thread w s
  | .iWeirPost tile thread w => Sys2Proof.Machine.execIWeirPost tile thread w s
  | .iMsgSend tile thread w => Sys2Proof.Machine.execIMsgSend tile thread w s
  | .iMsgBell tile thread w => Sys2Proof.Machine.execIMsgBell tile thread w s
  | .iMsgEvent tile thread w => Sys2Proof.Machine.execIMsgEvent tile thread w s
  | .iFence tile thread w => Sys2Proof.Machine.execIFence tile thread w s
  | .iIfence tile thread w => Sys2Proof.Machine.execIIfence tile thread w s
  | .iCcwait tile thread w => Sys2Proof.Machine.execICcwait tile thread w s
  | .iCcrd tile thread w => Sys2Proof.Machine.execICcrd tile thread w s
  | .iSemwait tile thread w => Sys2Proof.Machine.execISemwait tile thread w s
  | .iSempost tile thread w => Sys2Proof.Machine.execISempost tile thread w s
  | .iTbar tile thread w => Sys2Proof.Machine.execITbar tile thread w s
  | .iAmoAdd tile thread w => Sys2Proof.Machine.execIAmoAdd tile thread w s
  | .iAmoAnd tile thread w => Sys2Proof.Machine.execIAmoAnd tile thread w s
  | .iAmoOr tile thread w => Sys2Proof.Machine.execIAmoOr tile thread w s
  | .iAmoXor tile thread w => Sys2Proof.Machine.execIAmoXor tile thread w s
  | .iAmoMin tile thread w => Sys2Proof.Machine.execIAmoMin tile thread w s
  | .iAmoMax tile thread w => Sys2Proof.Machine.execIAmoMax tile thread w s
  | .iAmoSwap tile thread w => Sys2Proof.Machine.execIAmoSwap tile thread w s
  | .iAmoCas tile thread w => Sys2Proof.Machine.execIAmoCas tile thread w s
  | .iAmoFaddF32 tile thread w => Sys2Proof.Machine.execIAmoFaddF32 tile thread w s
  | .threadHalt tile mask => Sys2Proof.Machine.execThreadHalt tile mask s
  | .debugWindowRead tile offset => Sys2Proof.Machine.execDebugWindowRead tile offset s
  | .weirHeadReceive tile cell => Sys2Proof.Machine.execWeirHeadReceive tile cell s
  | .weirCellReceive tile cell => Sys2Proof.Machine.execWeirCellReceive tile cell s
  | .weirHoldRelease tile => Sys2Proof.Machine.execWeirHoldRelease tile s
  | .weirGroupFinal tile entry group => Sys2Proof.Machine.execWeirGroupFinal tile entry group s
  | .weirVoid tile entry => Sys2Proof.Machine.execWeirVoid tile entry s
  | .emitterSelect tile => Sys2Proof.Machine.execEmitterSelect tile s
  | .dryStepClose tag => Sys2Proof.Machine.execDryStepClose tag s
  | .tileWeirCfgWrite tile value => Sys2Proof.Machine.execTileWeirCfgWrite tile value s
  | .start cell => Sys2Proof.Machine.execStart cell s
  | .ack branch cell => Sys2Proof.Machine.execAck branch cell s
  | .nack branch cell => Sys2Proof.Machine.execNack branch cell s
  | .voidReq branch cell => Sys2Proof.Machine.execVoidReq branch cell s
  | .brkNotice branch cell => Sys2Proof.Machine.execBrkNotice branch cell s
  | .seal cell => Sys2Proof.Machine.execSeal cell s
  | .voidCell cell => Sys2Proof.Machine.execVoidCell cell s
  | .hold cell => Sys2Proof.Machine.execHold cell s
  | .done cell => Sys2Proof.Machine.execDone cell s
  | .chunkTimeout group chunk => Sys2Proof.Machine.execChunkTimeout group chunk s
  | .breakSettle group => Sys2Proof.Machine.execBreakSettle group s
  | .replayRecordFeed group => Sys2Proof.Machine.execReplayRecordFeed group s
  | .tokenReceive port msg => Sys2Proof.Machine.execTokenReceive port msg s
  | .rollReceive port head => Sys2Proof.Machine.execRollReceive port head s
  | .stepOpen eht => Sys2Proof.Machine.execStepOpen eht s
  | .tokenDecide eht => Sys2Proof.Machine.execTokenDecide eht s
  | .combineEntryAllocate eht => Sys2Proof.Machine.execCombineEntryAllocate eht s
  | .rollTimeout step => Sys2Proof.Machine.execRollTimeout step s
  | .returnReceive port msg => Sys2Proof.Machine.execReturnReceive port msg s
  | .combineReturn tile cell => Sys2Proof.Machine.execCombineReturn tile cell s
  | .combTimeout tile entry => Sys2Proof.Machine.execCombTimeout tile entry s
  | .memoryReadRequest input cell => Sys2Proof.Machine.execMemoryReadRequest input cell s
  | .memoryWrite input cell => Sys2Proof.Machine.execMemoryWrite input cell s
  | .atomic input cell => Sys2Proof.Machine.execAtomic input cell s
  | .atomicHold src tag seq => Sys2Proof.Machine.execAtomicHold src tag seq s
  | .sramPatrol addr found => Sys2Proof.Machine.execSramPatrol addr found s
  | .lpddrPatrol found => Sys2Proof.Machine.execLpddrPatrol found s
  | .pageRetireDone page badLines => Sys2Proof.Machine.execPageRetireDone page badLines s
  | .lpddrRefresh mport channel bank => Sys2Proof.Machine.execLpddrRefresh mport channel bank s
  | .poolAllocate who pool owner => Sys2Proof.Machine.execPoolAllocate who pool owner s
  | .poolAllocateNowait who pool owner => Sys2Proof.Machine.execPoolAllocateNowait who pool owner s
  | .poolFree who pool owner handle => Sys2Proof.Machine.execPoolFree who pool owner handle s
  | .poolShare who pool owner handle => Sys2Proof.Machine.execPoolShare who pool owner handle s
  | .poolCreate cmd => Sys2Proof.Machine.execPoolCreate cmd s
  | .poolDestroy cmd => Sys2Proof.Machine.execPoolDestroy cmd s
  | .zctOpen msg => Sys2Proof.Machine.execZctOpen msg s
  | .confirm msg => Sys2Proof.Machine.execConfirm msg s
  | .zctClose msg => Sys2Proof.Machine.execZctClose msg s
  | .zctRead msg => Sys2Proof.Machine.execZctRead msg s
  | .zctWrite msg => Sys2Proof.Machine.execZctWrite msg s
  | .post msg => Sys2Proof.Machine.execPost msg s
  | .bell msg => Sys2Proof.Machine.execBell msg s
  | .eventAck msg => Sys2Proof.Machine.execEventAck msg s
  | .keepalive msg => Sys2Proof.Machine.execKeepalive msg s
  | .openConfirmTmo session => Sys2Proof.Machine.execOpenConfirmTmo session s
  | .sessionTmo session => Sys2Proof.Machine.execSessionTmo session s
  | .eventResend session => Sys2Proof.Machine.execEventResend session s
  | .arpNd frame => Sys2Proof.Machine.execArpNd frame s
  | .icmpEcho frame => Sys2Proof.Machine.execIcmpEcho frame s
  | .hostFrameDiscard => Sys2Proof.Machine.execHostFrameDiscard s
  | .hostPortCfgWrite offset value => Sys2Proof.Machine.execHostPortCfgWrite offset value s
  | .hostPortCfgApply => Sys2Proof.Machine.execHostPortCfgApply s
  | .save => Sys2Proof.Machine.execSave s
  | .closeAll => Sys2Proof.Machine.execCloseAll s
  | .hpKeyWrite key word value => Sys2Proof.Machine.execHpKeyWrite key word value s
  | .ringPoll => Sys2Proof.Machine.execRingPoll s
  | .ctxRingHaltClear ctx value => Sys2Proof.Machine.execCtxRingHaltClear ctx value s
  | .ctxOpen cmd => Sys2Proof.Machine.execCtxOpen cmd s
  | .ctxClose cmd => Sys2Proof.Machine.execCtxClose cmd s
  | .ctxTeardownDrain ctx => Sys2Proof.Machine.execCtxTeardownDrain ctx s
  | .closed ctx => Sys2Proof.Machine.execClosed ctx s
  | .planLoad cmd => Sys2Proof.Machine.execPlanLoad cmd s
  | .planRetire cmd => Sys2Proof.Machine.execPlanRetire cmd s
  | .groupBind cmd => Sys2Proof.Machine.execGroupBind cmd s
  | .groupUnbind cmd => Sys2Proof.Machine.execGroupUnbind cmd s
  | .collStart cmd => Sys2Proof.Machine.execCollStart cmd s
  | .collAbort cmd => Sys2Proof.Machine.execCollAbort cmd s
  | .stepSet cmd => Sys2Proof.Machine.execStepSet cmd s
  | .stepAdvance cmd => Sys2Proof.Machine.execStepAdvance cmd s
  | .circSetup cmd => Sys2Proof.Machine.execCircSetup cmd s
  | .circTear cmd => Sys2Proof.Machine.execCircTear cmd s
  | .treeSet cmd => Sys2Proof.Machine.execTreeSet cmd s
  | .threadsLaunch cmd => Sys2Proof.Machine.execThreadsLaunch cmd s
  | .threadsKill cmd => Sys2Proof.Machine.execThreadsKill cmd s
  | .gateLoad cmd => Sys2Proof.Machine.execGateLoad cmd s
  | .ehtLoad cmd => Sys2Proof.Machine.execEhtLoad cmd s
  | .mirrorSet cmd => Sys2Proof.Machine.execMirrorSet cmd s
  | .tagWatch cmd => Sys2Proof.Machine.execTagWatch cmd s
  | .recordStart cmd => Sys2Proof.Machine.execRecordStart cmd s
  | .recordStop cmd => Sys2Proof.Machine.execRecordStop cmd s
  | .replayStartCommand cmd => Sys2Proof.Machine.execReplayStartCommand cmd s
  | .hwInternalError block inst cls address => Sys2Proof.Machine.execHwInternalError block inst cls address s
  | .faultPulseEnd => Sys2Proof.Machine.execFaultPulseEnd s
  | .faultPinWrite value => Sys2Proof.Machine.execFaultPinWrite value s
  | .request => Sys2Proof.Machine.execRequest s
  | .ditchRiderScan => Sys2Proof.Machine.execDitchRiderScan s
  | .captureComplete => Sys2Proof.Machine.execCaptureComplete s
  | .capTmo => Sys2Proof.Machine.execCapTmo s
  | .spwCapFree handle => Sys2Proof.Machine.execSpwCapFree handle s
  | .countClear => Sys2Proof.Machine.execCountClear s
  | .tileEngineReset tile engine replace scrub => Sys2Proof.Machine.execTileEngineReset tile engine replace scrub s
  | .portEnginesReset port => Sys2Proof.Machine.execPortEnginesReset port s
  | .clusterReset cluster scrub => Sys2Proof.Machine.execClusterReset cluster scrub s
  | .octetReset octet => Sys2Proof.Machine.execOctetReset octet s
  | .deviceComputeReset scrub => Sys2Proof.Machine.execDeviceComputeReset scrub s
  | .powerCycleRequest => Sys2Proof.Machine.execPowerCycleRequest s
  | .resetComplete => Sys2Proof.Machine.execResetComplete s
  | .resetBoundExpiry => Sys2Proof.Machine.execResetBoundExpiry s
  | .inputSample volts amps watts held => Sys2Proof.Machine.execInputSample volts amps watts held s
  | .tempSample readings => Sys2Proof.Machine.execTempSample readings s
  | .dutyAdjust => Sys2Proof.Machine.execDutyAdjust s
  | .resetLRise volts => Sys2Proof.Machine.execResetLRise volts s
  | .resetLFall => Sys2Proof.Machine.execResetLFall s
  | .romAccept => Sys2Proof.Machine.execRomAccept s
  | .firstStageVerify => Sys2Proof.Machine.execFirstStageVerify s
  | .domainStart => Sys2Proof.Machine.execDomainStart s
  | .powerGood domain good => Sys2Proof.Machine.execPowerGood domain good s
  | .pwrDomainOff domain off => Sys2Proof.Machine.execPwrDomainOff domain off s
  | .cdcTimeout cdc => Sys2Proof.Machine.execCdcTimeout cdc s
  | .cdcRecover cdc => Sys2Proof.Machine.execCdcRecover cdc s
  | .cdcOverflow cdc => Sys2Proof.Machine.execCdcOverflow cdc s
  | .pllLockLoss pll => Sys2Proof.Machine.execPllLockLoss pll s
  | .secFwGo value => Sys2Proof.Machine.execSecFwGo value s
  | .fwUpdateDone flashError => Sys2Proof.Machine.execFwUpdateDone flashError s
  | .wbSample volts amps micros => Sys2Proof.Machine.execWbSample volts amps micros s
  | .clusterUsTick => Sys2Proof.Machine.execClusterUsTick s
  | .countFrameSend => Sys2Proof.Machine.execCountFrameSend s
  | .countFrameReceive crcOk => Sys2Proof.Machine.execCountFrameReceive crcOk s
  | .wbIntervalEnd ticks onGrid => Sys2Proof.Machine.execWbIntervalEnd ticks onGrid s
  | .wbRecordCommit => Sys2Proof.Machine.execWbRecordCommit s
  | .relayRecordReceive record checkOk => Sys2Proof.Machine.execRelayRecordReceive record checkOk s
  | .wbPowerLoss ticks => Sys2Proof.Machine.execWbPowerLoss ticks s
  | .wbBoot => Sys2Proof.Machine.execWbBoot s
  | .tamper => Sys2Proof.Machine.execTamper s
  | .wbStatus => Sys2Proof.Machine.execWbStatus s
  | .wbSelect rseq => Sys2Proof.Machine.execWbSelect rseq s
  | .wbRecord => Sys2Proof.Machine.execWbRecord s
  | .wbRequest arg => Sys2Proof.Machine.execWbRequest arg s
  | .wbCert => Sys2Proof.Machine.execWbCert s
  | .wbUpdate block => Sys2Proof.Machine.execWbUpdate block s
  | .wbrRequest => Sys2Proof.Machine.execWbrRequest s
  | .resend => Sys2Proof.Machine.execResend s
  | .i3cStatus => Sys2Proof.Machine.execI3cStatus s
  | .ferr => Sys2Proof.Machine.execFerr s
  | .input => Sys2Proof.Machine.execInput s
  | .hottest => Sys2Proof.Machine.execHottest s
  | .identity => Sys2Proof.Machine.execIdentity s
  | .hostKey key => Sys2Proof.Machine.execHostKey key s
  | .inputPowerLoss volts => Sys2Proof.Machine.execInputPowerLoss volts s
  | .inputPowerReturn volts => Sys2Proof.Machine.execInputPowerReturn volts s
  | .signalDetect lane => Sys2Proof.Machine.execSignalDetect lane s
  | .hostLinkDown => Sys2Proof.Machine.execHostLinkDown s
  | .hostLinkUp => Sys2Proof.Machine.execHostLinkUp s
  | .wbInputReturn => Sys2Proof.Machine.execWbInputReturn s
  | .holdUpExhausted => Sys2Proof.Machine.execHoldUpExhausted s
  | .enec => Sys2Proof.Machine.execEnec s
  | .wbEnec => Sys2Proof.Machine.execWbEnec s
  | .dynamicAddress addr => Sys2Proof.Machine.execDynamicAddress addr s
  | .wbDynamicAddress addr => Sys2Proof.Machine.execWbDynamicAddress addr s

end Sys2Proof.Machine
end

