-- ==== Sys2Proof/Machine/Idle.lean ====
section
/-! DEFINITION. Sys2Proof/Machine/Idle.lean: what one core cycle does by itself: the step on an empty queue (log entry 5).
-/

namespace Sys2Proof.Machine

/-- A core cycle of the main side: the counters that count core cycles, and what the module does by itself as soon as it
can: a drained group ends its state, the dispatcher takes a token that waited for its buffer, a chunk that waited for a pond
buffer takes the one granted, an idle spare candidate is substituted, an octet whose reset has escalated fails, the next
port of a sampling period is sampled, a record of the ZF5200 ring passes to the host, a pulse at a crossing is acknowledged,
a READ or WRITE that waited for its page is performed (spec/03_reservoir.md R88; spec/04_sluice_scheduling.md R107;
spec/08_weir_reduction.md R215; spec/10_expert_and_headwater.md R271; spec/14_faults_and_recovery.md R394, R401;
spec/11_memory_and_pools.md R302; spec/15_power_clocks_security.md R418, Table 15-7). -/
def State.cycleOnce (s : State) : State :=
  let s := if s.fld PWR_THROTTLE PWR_THROTTLE_DUTY < 16 then s.count PWR_THROTTLE_CYC else s
  let s := s.tiles.foldl (fun s t => if s.weirHolds t.1 then s.count (WEIR_HOLD_CYC t.1) else s) s
  let s := if s.dispatchWaits then s.count EXP_WAIT_CYC else s
  (s.expReleaseAll.pondGranted.relayGranted.drained.substituteIdle.killOctets.putCycle (s.cycle + 1)).sampleCycle.passSample.pulsesCross.zctServed

/-- One core cycle. SLU_CYCLE counts core cycles since power-up (spec/04_sluice_scheduling.md R110), so it runs with the core
clock, which starts with its domain; the rest follows when the boot is over (spec/15_power_clocks_security.md R412). -/
def idleCycle (s : State) : State :=
  if s.on then ((s.cycleOnce.putPending s.pending).putGrade s.grade).putCycle (s.cycle + 1)
  else if s.fed && s.bit CLK_STAT CLK_STAT_CORE_LOCK then s.putCycle (s.cycle + 1)
  else s

end Sys2Proof.Machine
end

