-- ==== Sys2Proof/Safety.lean ====
section
/-! DEFINITION. Sys2Proof/Safety.lean: the words in which statements about the block are put: what keeps the state sound,
when a thread may issue, what one tile's thread keeps. -/

namespace Sys2Proof

/-- The commands of the main side: all but those of the supply, the boot and the pins, of the management target and of the
Water Book (spec/17_electrical_mechanical.md R454, R461). -/
def Instr.mainSide : Instr → Bool
  | .resetLRise _ | .resetLFall | .inputPowerLoss _ | .inputPowerReturn _ | .inputSample _ _ _ _ => false
  | .domainStart | .powerGood _ _ | .romAccept | .firstStageVerify | .pllLockLoss _ => false
  | .i3cStatus | .ferr | .input | .hottest | .identity | .hostKey _ | .enec | .dynamicAddress _ => false
  | .wbSample _ _ _ | .countFrameReceive _ | .wbIntervalEnd _ _ | .wbRecordCommit | .wbPowerLoss _ | .wbInputReturn
  | .holdUpExhausted | .wbBoot | .tamper => false
  | .wbStatus | .wbSelect _ | .wbRecord | .wbRequest _ | .wbCert | .wbUpdate _ | .wbEnec | .wbDynamicAddress _ => false
  | _ => true

/-- The commands by which the module loses or regains its main power. -/
def Instr.powers : Instr → Bool
  | .resetLRise _ | .resetLFall | .inputPowerLoss _ | .inputPowerReturn _ | .inputSample _ _ _ _ => true
  | _ => false

/-- The entry of a command that stands on an intake ring, its opcode, and whether it is a device command (Table 13-7). -/
def Instr.onRing : Instr → Option (RingCmd × Nat × Bool)
  | .ctxOpen k => some (k, 0x0001, true)
  | .ctxClose k => some (k, 0x0002, false)
  | .planLoad k => some (k, 0x0010, true)
  | .planRetire k => some (k, 0x0011, true)
  | .groupBind k => some (k, 0x0020, false)
  | .groupUnbind k => some (k, 0x0021, false)
  | .collStart k => some (k, 0x0022, false)
  | .collAbort k => some (k, 0x0023, false)
  | .stepSet k => some (k, 0x0030, false)
  | .stepAdvance k => some (k, 0x0031, false)
  | .circSetup k => some (k, 0x0040, false)
  | .circTear k => some (k, 0x0041, false)
  | .treeSet k => some (k, 0x0042, false)
  | .poolCreate k => some (k, 0x0050, false)
  | .poolDestroy k => some (k, 0x0051, false)
  | .threadsLaunch k => some (k, 0x0060, false)
  | .threadsKill k => some (k, 0x0061, false)
  | .gateLoad k => some (k, 0x0070, true)
  | .ehtLoad k => some (k, 0x0071, false)
  | .mirrorSet k => some (k, 0x0072, true)
  | .tagWatch k => some (k, 0x0073, false)
  | .recordStart k => some (k, 0x0080, false)
  | .recordStop k => some (k, 0x0081, false)
  | .replayStartCommand k => some (k, 0x0082, false)
  | .adoptWiring k => some (k, 0x0090, true)
  | _ => none

end Sys2Proof

namespace Sys2Proof.Machine

/-- The state is in the form in which equal memories are equal data. -/
def State.Sound (s : State) : Prop := Memory.wf s.mem = true

/-- A step completes: no fault and no refusal. -/
def State.Completes (s : State) : Prop := ∃ t, step s = .next t

/-- Thread `h` of tile `t` may issue the instruction at its program counter: the main side runs, the tile is one of the
active tiles, issue is not stopped, the thread is in RUN, its PC is a multiple of 8 in the tile's own SRAM, and the
instruction reads without an error and is one of a row (spec/06_flume_tile.md R138-R140; spec/07_instruction_set.md R177). -/
structure State.Ready (s : State) (t h : Nat) : Prop where
  on : s.on = true
  bound : s.bound t = true
  free : s.issueStopped t = false
  run : (s.thread t h).st = .run
  own : ownRange t (s.thread t h).pc.toNat 8 = true
  aligned : (s.thread t h).pc.toNat % 8 = 0
  known : reservedOp (s.fetched t (s.thread t h).pc.toNat) = false
  clean : (s.poisoned (s.thread t h).pc.toNat 8 && !Table.has (s.tile t).icache (s.thread t h).pc.toNat) = false

/-- Command `i` completes in a next state of which `P` holds. -/
def Gives (i : Instr) (s : State) (P : State → Prop) : Prop := ∃ u, exec i s = .next u ∧ P u

/-- Nothing else goes on in tile `t`: no stream, no thread in WAIT, none that is leaving, and every thread set still has a
thread. What one instruction does is then all that happens. -/
structure State.Calm (s : State) (t : Nat) : Prop where
  streams : (s.tile t).streams = []
  waits : ∀ k, (s.thread t k).st ≠ .wait
  ends : ∀ k, (s.thread t k).ending = false
  sets : ∀ e ∈ s.sets, s.setLeft e.1 e.2 = true

/-- No register that the instruction names waits for a response (spec/06_flume_tile.md R139). -/
def State.Valid (s : State) (t h : Nat) (ss vs : List Nat) : Prop :=
  (∀ r ∈ ss, r ∉ (s.thread t h).busyS) ∧ (∀ r ∈ vs, r ∉ (s.thread t h).busyV)

/-- From `s` to `u` thread `h` of tile `t` has scalar register `d` given `v` (s0 stays 0), every other scalar register, every
vector and mask register is as before, and the PC is `p`. -/
def State.GotS (s u : State) (t h d : Nat) (v p : Word) : Prop :=
  (u.thread t h).getS d = (if d = 0 then 0 else v) ∧
    (∀ r, r ≠ d → (u.thread t h).getS r = (s.thread t h).getS r) ∧
    (∀ r, (u.thread t h).getV r = (s.thread t h).getV r) ∧ (∀ r, (u.thread t h).getM r = (s.thread t h).getM r) ∧
    (u.thread t h).pc = p

/-- The same for vector register `d`. -/
def State.GotV (s u : State) (t h d : Nat) (v : VReg) : Prop :=
  (u.thread t h).getV d = v ∧ (∀ r, r ≠ d → (u.thread t h).getV r = (s.thread t h).getV r) ∧
    (∀ r, (u.thread t h).getS r = (s.thread t h).getS r) ∧ (∀ r, (u.thread t h).getM r = (s.thread t h).getM r) ∧
    (u.thread t h).pc = (s.thread t h).pc + 8

/-- The same for mask register `d` (m0 stays all ones). -/
def State.GotM (s u : State) (t h d : Nat) (v : MReg) : Prop :=
  (u.thread t h).getM d = (if d = 0 then BitVec.allOnes 256 else v) ∧
    (∀ r, r ≠ d → (u.thread t h).getM r = (s.thread t h).getM r) ∧
    (∀ r, (u.thread t h).getS r = (s.thread t h).getS r) ∧ (∀ r, (u.thread t h).getV r = (s.thread t h).getV r) ∧
    (u.thread t h).pc = (s.thread t h).pc + 8

/-- Element `i` of width `b` of a vector register (spec/06_flume_tile.md R164). -/
def elemOf (b : Nat) (v : VReg) (i : Nat) : Nat := v.toNat / 2 ^ (b * i) % 2 ^ b

/-- From `s` to `u` the elements of width `b` of vector register `d` are given by `f`; every other vector register, every
scalar and mask register is as before, and the thread goes on. -/
def State.GotElems (s u : State) (t h d b : Nat) (f : Nat → Nat) : Prop :=
  (∀ i, i < 2048 / b → elemOf b ((u.thread t h).getV d) i = f i) ∧
    (∀ r, r ≠ d → (u.thread t h).getV r = (s.thread t h).getV r) ∧
    (∀ r, (u.thread t h).getS r = (s.thread t h).getS r) ∧ (∀ r, (u.thread t h).getM r = (s.thread t h).getM r) ∧
    (u.thread t h).pc = (s.thread t h).pc + 8

/-- The same where no register is written. -/
def State.GotNone (s u : State) (t h : Nat) (p : Word) : Prop :=
  (∀ r, (u.thread t h).getS r = (s.thread t h).getS r) ∧ (∀ r, (u.thread t h).getV r = (s.thread t h).getV r) ∧
    (∀ r, (u.thread t h).getM r = (s.thread t h).getM r) ∧ (u.thread t h).pc = p

/-- The entry of command `k` with opcode `op` is the only one posted to the ring `x` that `k` names: it stands at HEAD in the
ring's memory, TAIL has been read past it, the ring is not halted, and no other ring has an entry to take
(spec/13_host_port_and_control.md R354-R356). -/
structure State.Posted (s : State) (k : RingCmd) (op : Nat) (x : Ring) : Prop where
  on : s.on = true
  ring : s.ring? k.ctx.toNat k.ring = some x
  place : 2 ^ 31 ≤ x.base
  runs : s.ringHalted k.ctx.toNat k.ring = false
  turn : s.ringWork = [ringRank k.ctx.toNat k.ring]
  entry : s.entryIs x k op = true
  tail : x.tail = k.index.toNat + 1
  fits : k.index.toNat + 1 < 2 ^ 64

/-- The entry of `k` has completed in `u` with status `st`: STATUS, DONE and HEAD are written (R355). -/
def State.Finished (u : State) (k : RingCmd) (x : Ring) (st : Nat) : Prop :=
  u.load (x.entry k.index.toNat + 3) 1 = st ∧ u.load (x.entry k.index.toNat + 4) 1 = 1 ∧
    u.load (x.base + 8) 8 = k.index.toNat + 1

/-- The `n` bytes from `a` lie outside the ring. -/
def Ring.Apart (x : Ring) (a n : Nat) : Prop := a + n ≤ x.base ∨ x.base + 64 + 64 * 2 ^ x.order ≤ a

/-- A ZCT message of TYPE `type` that session `x` takes as a new request: over a crossing in service, whole, of an open
session, authentic, its SEQ fresh, its REQ_ID not answered before (spec/13_host_port_and_control.md R346, R347, R350, R351). -/
structure State.Heard (s : State) (m : ZctMsg) (type : Nat) (x : Session) : Prop where
  on : s.on = true
  link : s.hostLink = true
  clear : s.crossed 4 = false
  mine : s.forPort m = true
  whole : m.whole = true
  session : s.session m.session.toNat = some x
  opened : x.opened = true
  mac : x.authentic m type = true
  fresh : x.replayed m.seq.toNat = false
  new : ∀ e ∈ x.kept, e.1 ≠ m.reqId

/-- Session `x` has been sent the RESPONSE of STATUS `st` with `data` to message `m`, authenticated. -/
def State.Answered (u : State) (m : ZctMsg) (x : Session) (st : Nat) (data : List Byte) : Prop :=
  ∃ seq, x.txSeq < seq ∧ Out.zct m.src 9 m.session.toNat seq m.reqId (BitVec.ofNat 8 st) data
    (zctMac x.m2h 9 m.session.toNat data seq m.reqId.toNat st) ∈ u.out

/-- E_TOTAL of consecutive intervals: each is the one before plus its own E_INTERVAL; the last is `last`
(spec/16_water_book.md R442). -/
def energyChain : Nat → List Interval → Nat → Prop
  | e, [], last => e = last
  | e, x :: l, last => x.eTotal = (e + x.eInterval) % 2 ^ 64 ∧ energyChain x.eTotal l last

/-- E_TOTAL and E_INTERVAL of a Water Book record (Table 16-1). -/
def recordTotal (r : List Byte) : Nat := ofBytes ((r.drop 32).take 8)
def recordInterval (r : List Byte) : Nat := ofBytes ((r.drop 40).take 8)

/-- The energy of the records kept, of the intervals that wait for their records and of the running interval fit together. -/
def WaterBook.Chained (w : WaterBook) : Prop :=
  w.eTotal < 2 ^ 64 ∧ w.eStart < 2 ^ 64 ∧ (w.on = false → w.eTotal = w.eStart) ∧
    ∃ e, (∀ r, w.records.getLast? = some r → recordTotal r.2 = e) ∧ energyChain e w.ended w.eStart

end Sys2Proof.Machine
end

