-- ==== Sys2Proof/Certificates/Slice0/Obligations.lean ====
section
/-! DEFINITION. Sys2Proof/Certificates/Slice0/Obligations.lean: what is stated about the block. Every rule cited is a rule
of spec/; a clause that rests on a choice of the model says so and names the log entry. -/

open Sys2Proof Sys2Proof.Machine

/-! ### The queue, the clock and the power of the main side -/

/-- A step takes the command at the front of the queue: it is that command's meaning on the state with the rest of the queue.
-/
def Obligations.StepTakesFront : Prop :=
  ∀ (c : Instr) (rest : List Instr) (s : State), step (s.putPending (c :: rest)) = exec c (s.putPending rest)

/-- With no command waiting, one core cycle passes: SLU_CYCLE rises by one while the core clock runs, and nothing else
changes until the main side runs (the model's choice, log entries 1 and 5). -/
def Obligations.EmptyQueueTick : Prop :=
  ∀ s : State, s.pending = [] → ∃ u, step s = .next u ∧ u.pending = [] ∧
    u.cycle = s.cycle + (if s.on || (s.fed && s.bit CLK_STAT CLK_STAT_CORE_LOCK) then 1 else 0) ∧
    (s.on = false → u = s.putCycle u.cycle) ∧ u.grade = s.grade

/-- Every step consumes exactly the command in front, never changes the grade (R1), and leaves SLU_CYCLE as it is unless the
queue was empty or the command takes the main side through a loss of power: that a command takes no time is the model's
choice (log entry 5). -/
def Obligations.EveryStepKeepsQueueAndGrade : Prop :=
  ∀ (s u : State) (g : Grade) (q : List Instr), s.grade = g → s.pending <:+ q → step s = .next u →
    u.grade = g ∧ u.pending <:+ q ∧ u.pending = s.pending.tail ∧
      (∀ c rest, s.pending = c :: rest → c.powers = false → u.cycle = s.cycle) ∧ u.cycle ≤ s.cycle + 1

/-- While the main converters are off, the boot is not over or has stopped, or a main clock is lost, no command of the main
side changes anything: every step leaves the state with its queue one command shorter, so the main side stays as it is; an
empty queue lets the core clock count, where it runs (R412, R454; what the boot, the pins and the management target still do
is the model's reading, log entries 1 and 5). -/
def Obligations.PowerIsolation : Prop :=
  ∀ (s : State) (q : List Instr), (s.on = false ∧ s.pending = q ∧ ∀ c ∈ q, c.mainSide = true) →
    ∃ u, step s = .next u ∧ u = (s.putPending q.tail).putCycle u.cycle ∧ (q ≠ [] → u.cycle = s.cycle) ∧ (u.on = false ∧
      ∀ c ∈ u.pending, c.mainSide = true)

/-- The state right after power-up: no command waits, SLU_CYCLE is 0, memory is in its canonical form, and every field of
every mapped register holds the value of the Reset column of its map; PRIO of PORT_VC_SCHED is 1 on the channels 0-3, 6 and 7
(Table 4-4). Where the rules leave a choice the clauses state the model's: what the columns leave to flash, to the boot and to
the grade, log entries 2, 3 and 4; that the main side waits for the boot, log entry 1. -/
def Obligations.ResetState : Prop :=
  State.reset.pending = [] ∧ State.reset.cycle = 0 ∧ State.reset.Sound ∧ State.reset.on = false ∧
    (∀ r row f, regRow? r = some row → f ∈ row.fields →
      (r.blk = 2 ∧ row.off = 0x200 ∧ f = PORT_VC_SCHED_PRIO) ∨ State.reset.fld r f = f.reset) ∧
    (∀ p < 1024, ∀ v < 16, State.reset.bit (PORT_VC_SCHED p v) PORT_VC_SCHED_PRIO =
      decide (v ≤ 3 ∨ v = 6 ∨ v = 7)) ∧
    (∀ t < 256, State.reset.rd (TILE_FP_FLAGS t) = 0 ∧ State.reset.bit (TILE_FAULT t) TILE_FAULT_VALID = false) ∧
    State.reset.safe = false ∧ State.reset.bit SPW_FERR_SRC SPW_FERR_SRC_VALID = false

/-! ### Registers -/

/-- REGISTER_WRITE (R6, R7, R8) to a mapped register whose write starts nothing: an RW field takes the value, an RO field
keeps its own, a WO field reads zero, a W1C field clears the bits written 1 and then takes those that the module sets in the
same cycle, a W1S field sets the bits written 1; no byte of memory changes but for the event of a flag of TILE_FP_FLAGS.
RC_READ (R6, R7): the read returns the register as it stood, with WO fields zero, and the RC fields are left with the
module's own update of that cycle; a register without RC fields is unchanged. An address of the control region outside every
block gives an address error: a read returns none and a write changes nothing (R294). -/
def Obligations.RegisterAccess : Prop :=
  (∀ (s : State) (a : BitVec 48) (v sets : Word) (r : Reg) (row : RegRow) (f : Fld), s.on = true → a.toNat % 8 = 0 →
    regAt a.toNat = some r → s.ctrlFails a.toNat true = false → regRow? r = some row → (∀ w, s.actWrite r w = none) →
    boundWrite r v.toNat = v.toNat → (r = EXP_CFG → s.expWait = []) → f ∈ row.fields →
    let old := s.fld r f
    let new := bitsOf v.toNat f.lo f.width
    Gives (.registerWrite a v sets) s fun u =>
      (r ≠ TILE_FP_FLAGS r.inst ∨ sets = 0 → ∀ b, Memory.read u.mem b = Memory.read s.mem b) ∧ u.fld r f =
      match f.acc with
      | .rw => new
      | .ro => old
      | .wo => 0
      | .w1c => (old - (old &&& new)) ||| bitsOf sets.toNat f.lo f.width
      | .w1s => old ||| new
      | .rc => old) ∧
  (∀ (s : State) (a : BitVec 48) (update : Word) (r : Reg) (row : RegRow), s.on = true → a.toNat % 8 = 0 →
    regAt a.toNat = some r → s.ctrlFails a.toNat false = false → s.relayBad r = none → isDebug r = false →
      regRow? r = some row →
    Gives (.rcRead a update) s fun u =>
      u.out = s.out ++ [.read a.toNat (some (BitVec.ofNat 64 (shownFields row.fields (s.view r))))] ∧ u.mem = s.mem ∧
      (∀ f ∈ row.fields, u.fld r f = match f.acc with
        | .rc => bitsOf update.toNat f.lo f.width
        | _ => s.fld r f) ∧
      ((∀ f ∈ row.fields, f.acc ≠ .rc) → u.regs = s.regs)) ∧
  (∀ (s : State) (a : BitVec 48) (v : Word), s.on = true → a.toNat % 8 = 0 → 0x101000000 ≤ a.toNat → a.toNat < 0x108000000 →
    regAt a.toNat = none →
      exec (.registerWrite a v 0) s = .next s ∧ exec (.rcRead a v) s = .next (s.putOut (s.out ++ [.read a.toNat none])))

/-! ### Tile instructions -/

/-- Class 0x0 (R176): sD receives the result of the operation on sA and sB (and sC for SEL); shifts count modulo 64. Class
0x1 (R176): sD receives the result of the operation on sA and the sign-extended 38-bit immediate; LI and LIH take the 43-bit
immediate; CLZ, CTZ and POPC count bits. -/
def Obligations.ScalarResults : Prop :=
  (∀ (s : State) (t : Fin 256) (h : Fin 16) (w : BitVec 56), s.Ready t h →
    s.Valid t h [fD w.toNat, fA w.toNat, fB w.toNat, fC w.toNat] [] →
    let n := w.toNat
    let a := (s.thread t h).getS (fA n)
    let b := (s.thread t h).getS (fB n)
    let c := (s.thread t h).getS (fC n)
    let to_ (i : Instr) (v : Word) := Gives i s fun u => s.GotS u t h (fD n) v ((s.thread t h).pc + 8)
    (onlyUses n (useD ||| useA ||| useB) = true →
      to_ (.iAdd t h w) (a + b) ∧ to_ (.iSub t h w) (a - b) ∧ to_ (.iAnd t h w) (a &&& b) ∧ to_ (.iOr t h w) (a ||| b) ∧
      to_ (.iXor t h w) (a ^^^ b) ∧ to_ (.iShl t h w) (a <<< (b.toNat % 64)) ∧
      to_ (.iShr t h w) (a >>> (b.toNat % 64)) ∧ to_ (.iSra t h w) (a.sshiftRight (b.toNat % 64)) ∧
      to_ (.iMul t h w) (a * b) ∧ to_ (.iSlt t h w) (if a.toInt < b.toInt then 1 else 0) ∧
      to_ (.iSltu t h w) (if a.toNat < b.toNat then 1 else 0) ∧ to_ (.iSeq t h w) (if a = b then 1 else 0)) ∧
    (onlyUses n (useD ||| useA ||| useB ||| useC) = true → to_ (.iSel t h w) (if c = 0 then b else a)) ∧
    (onlyUses n (useD ||| useA ||| useB ||| useMOD) = true →
      (fMOD n = 0 → to_ (.iMulh t h w) (BitVec.ofInt 64 (a.toInt * b.toInt / 2 ^ 64)) ∧
        to_ (.iMinMax t h w) (if a.toInt < b.toInt then a else b)) ∧
      (fMOD n = 1 → to_ (.iMulh t h w) (BitVec.ofNat 64 (a.toNat * b.toNat / 2 ^ 64)) ∧
        to_ (.iMinMax t h w) (if a.toInt < b.toInt then b else a)) ∧
      (fMOD n = 2 → to_ (.iMinMax t h w) (if a.toNat < b.toNat then a else b)) ∧
      (fMOD n = 3 → to_ (.iMinMax t h w) (if a.toNat < b.toNat then b else a)))) ∧
  (∀ (s : State) (t : Fin 256) (h : Fin 16) (w : BitVec 56), s.Ready t h →
    s.Valid t h [fD w.toNat, fA w.toNat] [] →
    let n := w.toNat
    let a := (s.thread t h).getS (fA n)
    let i : Word := BitVec.ofInt 64 (if bitOf n 37 then (n % 2 ^ 38 : Int) - 2 ^ 38 else (n % 2 ^ 38 : Int))
    let to_ (c : Instr) (v : Word) := Gives c s fun u => s.GotS u t h (fD n) v ((s.thread t h).pc + 8)
    (onlyUses n (useD ||| useA ||| useIMM38) = true →
      to_ (.iAddi t h w) (a + i) ∧ to_ (.iAndi t h w) (a &&& i) ∧ to_ (.iOri t h w) (a ||| i) ∧
      to_ (.iXori t h w) (a ^^^ i) ∧ to_ (.iShli t h w) (a <<< (i.toNat % 64)) ∧
      to_ (.iShri t h w) (a >>> (i.toNat % 64)) ∧ to_ (.iSrai t h w) (a.sshiftRight (i.toNat % 64)) ∧
      to_ (.iMuli t h w) (a * i) ∧ to_ (.iSlti t h w) (if a.toInt < i.toInt then 1 else 0) ∧
      to_ (.iSltiu t h w) (if a.toNat < i.toNat then 1 else 0) ∧ to_ (.iSeqi t h w) (if a = i then 1 else 0)) ∧
    (onlyUses n (useD ||| (2 ^ 43 - 1)) = true →
      to_ (.iLi t h w) (BitVec.ofInt 64 (if bitOf n 42 then (n % 2 ^ 43 : Int) - 2 ^ 43 else (n % 2 ^ 43 : Int)))) ∧
    (onlyUses n (useD ||| (2 ^ 21 - 1)) = true →
      to_ (.iLih t h w) (BitVec.ofNat 64 (((s.thread t h).getS (fD n)).toNat % 2 ^ 43 + n % 2 ^ 21 * 2 ^ 43))) ∧
    (onlyUses n (useD ||| useA ||| useMOD) = true →
      (fMOD n = 0 → to_ (.iClzCtzPopc t h w)
        (BitVec.ofNat 64 (((List.range 64).find? fun i => a.getLsbD (63 - i)).getD 64))) ∧
      (fMOD n = 1 → to_ (.iClzCtzPopc t h w) (BitVec.ofNat 64 (((List.range 64).find? fun i => a.getLsbD i).getD 64))) ∧
      (fMOD n = 2 → to_ (.iClzCtzPopc t h w) (BitVec.ofNat 64 ((List.range 64).countP fun i => a.getLsbD i)))))

/-- Branches and jumps (R177): a branch whose condition holds goes to PC + 8 × OFF33, else on; JAL and JR write PC + 8. RDSR
(R177, Table 7-5), NOP, and the two instructions that end or stop their thread: END leaves the thread leaving (R178), BRK
leaves it HALTED with its bit of THREAD_HALT set (R179). -/
def Obligations.BranchAndThreadResults : Prop :=
  (∀ (s : State) (t : Fin 256) (h : Fin 16) (w : BitVec 56), s.Ready t h →
    s.Valid t h [fD w.toNat, fA w.toNat, fB w.toNat] [] →
    let n := w.toNat
    let y := s.thread t h
    let a := y.getS (fA n)
    let b := y.getS (fB n)
    let off : Word := 8 * BitVec.ofInt 64 (if bitOf n 32 then (n % 2 ^ 33 : Int) - 2 ^ 33 else (n % 2 ^ 33 : Int))
    let br (i : Instr) (c : Prop) := (c → Gives i s fun u => s.GotNone u t h (y.pc + off)) ∧
      (¬ c → Gives i s fun u => s.GotNone u t h (y.pc + 8))
    (onlyUses n (useA ||| useB ||| useOFF33) = true →
      br (.iBeq t h w) (a = b) ∧ br (.iBne t h w) (a ≠ b) ∧ br (.iBlt t h w) (a.toInt < b.toInt) ∧
      br (.iBge t h w) (b.toInt ≤ a.toInt) ∧ br (.iBltu t h w) (a.toNat < b.toNat) ∧ br (.iBgeu t h w) (b.toNat ≤ a.toNat)) ∧
    (onlyUses n (useD ||| useOFF33) = true →
      Gives (.iJal t h w) s fun u => s.GotS u t h (fD n) (y.pc + 8) (y.pc + off)) ∧
    (onlyUses n (useD ||| useA ||| useOFF33) = true →
      Gives (.iJr t h w) s fun u => s.GotS u t h (fD n) (y.pc + 8) (a + off))) ∧
  (∀ (s : State) (t : Fin 256) (h : Fin 16) (w : BitVec 56), s.Ready t h → s.Valid t h [fD w.toNat] [] →
    let n := w.toNat
    let y := s.thread t h
    let c := (s.tile t).ctx
    let rd (k : Nat) (v : Word) := n % 2 ^ 38 = k → Gives (.iRdsr t h w) s fun u => s.GotS u t h (fD n) v (y.pc + 8)
    (onlyUses n (useD ||| useIMM38) = true →
      rd 0 (BitVec.ofNat 64 h) ∧ rd 1 (BitVec.ofNat 64 t) ∧ rd 2 (BitVec.ofNat 64 c) ∧
      rd 3 (BitVec.ofNat 64 (s.fld (CTX_STATE c) CTX_STATE_GEN)) ∧ rd 4 (BitVec.ofNat 64 s.cycle) ∧
      rd 5 (BitVec.ofNat 64 (s.fld (CTX_STATE c) CTX_STATE_STEP)) ∧ rd 6 (BitVec.ofNat 64 s.switchId) ∧
      rd 7 (s.rd (TILE_FP_FLAGS t)) ∧ rd 8 (s.ctx c).seed ∧ rd 9 (BitVec.ofNat 64 s.active)) ∧
    (n = 0 → Gives (.iNop t h w) s (fun u => s.GotNone u t h (y.pc + 8)) ∧
      (s.Calm t → Gives (.iBrk t h w) s fun u => (u.thread t h).st = .halted ∧ (u.thread t h).resume = .run ∧
        bitOf (u.fld (TILE_CTL t) TILE_CTL_THREAD_HALT) h = true ∧ s.GotNone u t h (y.pc + 8)) ∧
      (s.Calm t → (s.tile t).outst = [] → Gives (.iEnd t h w) s fun u => (u.thread t h).st = .idle)))

/-- LD and ST on the tile's own SRAM (R180): the bytes at sA + the sign-extended IMM34, zero- or sign-extended into sD; the
low bytes of sD written there, every other byte of memory as before. VLD and VST on the tile's own SRAM (R181): byte i of the
register and byte i of memory, element by element under the mask; a masked element keeps its value or, with MZ, becomes zero;
VST writes no byte of a masked element. -/
def Obligations.MemoryResults : Prop :=
  (∀ (s : State) (t : Fin 256) (h : Fin 16) (w : BitVec 56), s.Ready t h → s.Calm t →
    s.Valid t h [fD w.toNat, fA w.toNat] [] →
    let n := w.toNat
    let y := s.thread t h
    let a := (y.getS (fA n) + BitVec.ofInt 64 (if bitOf n 33 then (n % 2 ^ 34 : Int) - 2 ^ 34 else (n % 2 ^ 34 : Int))).toNat
    let size := 2 ^ (fMOD n % 4)
    onlyUses n (useD ||| useA ||| useIMM34 ||| useMOD) = true → a % size = 0 → ownRange t a size = true →
      (fMOD n ≤ 6 → s.poisoned a size = false → Gives (.iLd t h w) s fun u =>
        s.GotS u t h (fD n) (if bitOf (fMOD n) 2 then BitVec.ofInt 64 (signed (8 * size) (s.load a size))
          else BitVec.ofNat 64 (s.load a size)) (y.pc + 8)) ∧
      (fMOD n ≤ 3 → s.ownWeir t a size = false → s.inCombine t (a % tileBytes) size = false →
        ownRange t (y.pc + 8).toNat 8 = true → Gives (.iSt t h w) s fun u =>
          s.GotNone u t h (y.pc + 8) ∧ u.load a size = (y.getS (fD n)).toNat % 2 ^ (8 * size) ∧
          ∀ x, x < a ∨ a + size ≤ x → Memory.read u.mem x = Memory.read s.mem x)) ∧
  (∀ (s : State) (t : Fin 256) (h : Fin 16) (w : BitVec 56), s.Ready t h → s.Calm t →
    s.Valid t h [fA w.toNat] [fD w.toNat] → Table.look (s.thread t h).vloads (fD w.toNat) = none →
    let n := w.toNat
    let y := s.thread t h
    let a := (y.getS (fA n) + BitVec.ofInt 64 (if bitOf n 33 then (n % 2 ^ 34 : Int) - 2 ^ 34 else (n % 2 ^ 34 : Int))).toNat
    let m := y.getM (bitsOf n 35 3)
    let byte (v : VReg) (i : Nat) : Byte := BitVec.ofNat 8 (v.toNat >>> (8 * i))
    a % 64 = 0 → ownRange t a 256 = true → fMOD n ≤ 2 →
      (onlyUses n (useD ||| useA ||| useMemMK ||| useMemMZ ||| useIMM34 ||| useMOD) = true → s.poisoned a 256 = false →
        Gives (.iVld t h w) s fun u => (u.thread t h).pc = y.pc + 8 ∧
          ∀ i < 256, byte ((u.thread t h).getV (fD n)) i =
            if m.getLsbD (i / 2 ^ fMOD n) then Memory.read s.mem (a + i)
            else if bitOf n 34 then 0 else byte (y.getV (fD n)) i) ∧
      (onlyUses n (useD ||| useA ||| useMemMK ||| useIMM34 ||| useMOD) = true →
        (∀ i < 4, s.inWeir t ((a + 64 * i) % tileBytes) 64 = false ∧ s.inCombine t ((a + 64 * i) % tileBytes) 64 = false) →
        ownRange t (y.pc + 8).toNat 8 = true →
        Gives (.iVst t h w) s fun u => s.GotNone u t h (y.pc + 8) ∧
          (∀ i < 256, Memory.read u.mem (a + i) =
            if m.getLsbD (i / 2 ^ fMOD n) then byte (y.getV (fD n)) i else Memory.read s.mem (a + i)) ∧
          ∀ x, x < a ∨ a + 256 ≤ x → Memory.read u.mem x = Memory.read s.mem x))

/-- An address outside the tile's own SRAM (R142): LD and ST send one request cell of the tile to the agent that owns the
address, on the internal channel, and it is outstanding; LD marks its register until the response comes (R139). SIN and SOUT
(R143, R182): the completion counter rises by the lines of the stream, which are then outstanding; a stream that leaves the
tile issues its lines as request cells, as many as the 512 outstanding requests allow. The channel of the request cells, 10,
is the model's choice (log entry 14). -/
def Obligations.RemoteAndStreamResults : Prop :=
  (∀ (s : State) (t : Fin 256) (h : Fin 16) (w : BitVec 56), s.Ready t h → s.Calm t →
    s.Valid t h [fD w.toNat, fA w.toNat] [] →
    let n := w.toNat
    let y := s.thread t h
    let a := (y.getS (fA n) + BitVec.ofInt 64 (if bitOf n 33 then (n % 2 ^ 34 : Int) - 2 ^ 34 else (n % 2 ^ 34 : Int))).toNat
    let size := 2 ^ (fMOD n % 4)
    let x := s.tile t
    let sent (u : State) (r : Request) (wt : Want) :=
      Table.get [] u.xin (1025 + t) = Table.get [] s.xin (1025 + t) ++ [(10, .req r)] ∧
      (u.tile t).outst = x.outst ++ [⟨x.reqTag, h, y.pc.toNat, wt⟩] ∧ (∀ b, Memory.read u.mem b = Memory.read s.mem b)
    onlyUses n (useD ||| useA ||| useIMM34 ||| useMOD) = true → a % size = 0 → ownRange t a size = false →
    a < 2 ^ 48 → s.agentOf a ≠ .none → x.outst.length < 512 → ownRange t (y.pc + 8).toNat 8 = true →
      (fMOD n ≤ 6 → s.agentOf a ≠ .none → Gives (.iLd t h w) s fun u =>
        sent u ⟨t, h, x.reqTag, x.ctx, s.genOf x.ctx, a, .load size⟩ (.scalar (fD n) (8 * size) (bitOf (fMOD n) 2)) ∧
        (fD n ≠ 0 → fD n ∈ (u.thread t h).busyS) ∧ s.GotNone u t h (y.pc + 8)) ∧
      (fMOD n ≤ 3 → s.agentOf (a / 64 * 64) ≠ .none → Gives (.iSt t h w) s fun u =>
        sent u ⟨t, h, x.reqTag, x.ctx, s.genOf x.ctx, a / 64 * 64,
          .store (BitVec.ofNat 64 ((2 ^ size - 1) * 2 ^ (a % 64)))
            (BitVec.ofNat 512 ((y.getS (fD n)).toNat % 2 ^ (8 * size) * 2 ^ (8 * (a % 64))))⟩ .store ∧
        s.GotNone u t h (y.pc + 8))) ∧
  (∀ (s : State) (t : Fin 256) (h : Fin 16) (w : BitVec 56), s.Ready t h → s.Calm t →
    s.Valid t h [fA w.toNat, fB w.toNat, fC w.toNat] [] →
    let n := w.toNat
    let y := s.thread t h
    let a := (y.getS (fA n)).toNat
    let b := (y.getS (fB n)).toNat
    let len := (y.getS (fC n) + BitVec.ofNat 64 (fIMM22 n)).toNat
    let x := s.tile t
    let runs (u : State) (inbound : Bool) (l r : Nat) (kind : Nat → ReqKind) :=
      (u.tile t).ccGet (fCC n) = x.ccGet (fCC n) + len / 64 ∧ s.GotNone u t h (y.pc + 8) ∧
      (u.tile t).outst.length = min 512 (x.outst.length + len / 64) ∧
      Table.get [] u.xin (1025 + t) = Table.get [] s.xin (1025 + t) ++
        (List.range (min (512 - x.outst.length) (len / 64))).map (fun i =>
          (10, .req ⟨t, h, x.reqTag + i, x.ctx, s.genOf x.ctx, r + 64 * i, kind i⟩)) ∧
      ∃ q ∈ (u.tile t).streams, q.id = x.streamId ∧ q.thread = h ∧ q.inbound = inbound ∧ q.localA = l ∧ q.remote = r ∧
        q.lines = len / 64 ∧ q.completed = 0
    onlyUses n (useA ||| useB ||| useC ||| useCC ||| useIMM22) = true → len % 64 = 0 → 0 < len → len ≤ 16777216 →
    a % 64 = 0 → b % 64 = 0 → x.ccGet (fCC n) + len / 64 < 2 ^ 31 → x.outst.length ≤ 512 →
    ownRange t (y.pc + 8).toNat 8 = true →
      (ownRange t a len = true → b < 2 ^ 48 → s.ownEngine t a len = false →
        (∀ i < len / 64, ownRange t (b + 64 * i) 64 = false ∧ s.agentOf (b + 64 * i) ≠ .none ∧
          s.inCombine t ((a + 64 * i) % tileBytes) 64 = false) →
        Gives (.iSin t h w) s fun u => runs u true a b fun _ => .load 64) ∧
      (ownRange t b len = true → a < 2 ^ 48 →
        (∀ i < len / 64, ownRange t (a + 64 * i) 64 = false ∧ s.agentOf (a + 64 * i) ≠ .none ∧
          s.poisoned (b + 64 * i) 64 = false) →
        Gives (.iSout t h w) s fun u => runs u false b a fun i =>
          .store (BitVec.allOnes 64) (BitVec.ofNat 512 (s.load (b + 64 * i) 64))))

/-- Atomics on the tile's own SRAM (R199, Table 7-19): sD receives the old word, zero-extended, and memory the new one; every
other byte is as before. MOD[0] chooses 64 bits, MOD[1] unsigned order for MIN and MAX. -/
def Obligations.AtomicResults : Prop :=
  ∀ (s : State) (t : Fin 256) (h : Fin 16) (w : BitVec 56), s.Ready t h → s.Calm t →
    s.Valid t h [fD w.toNat, fA w.toNat, fB w.toNat, fC w.toNat] [] →
    let n := w.toNat
    let y := s.thread t h
    let a := (y.getS (fA n)).toNat
    let k := if bitOf (fMOD n) 0 then 8 else 4
    let old := s.load a k
    let b := (y.getS (fB n)).toNat % 2 ^ (8 * k)
    let c := (y.getS (fC n)).toNat % 2 ^ (8 * k)
    let less := if bitOf (fMOD n) 1 then b < old else signed (8 * k) b < signed (8 * k) old
    let does (i : Instr) (v : Nat) := Gives i s fun u =>
      s.GotS u t h (fD n) (BitVec.ofNat 64 old) (y.pc + 8) ∧ u.load a k = v ∧
      ∀ x, x < a ∨ a + k ≤ x → Memory.read u.mem x = Memory.read s.mem x
    a % k = 0 → ownRange t a k = true → s.inWeir t (a % tileBytes) k = false → s.inCombine t (a % tileBytes) k = false →
    s.poisoned a k = false → ownRange t (y.pc + 8).toNat 8 = true →
      (onlyUses n (useD ||| useA ||| useB ||| useMOD) = true →
        (fMOD n ≤ 1 → does (.iAmoAdd t h w) ((old + b) % 2 ^ (8 * k)) ∧ does (.iAmoAnd t h w) (old &&& b) ∧
          does (.iAmoOr t h w) (old ||| b) ∧ does (.iAmoXor t h w) (old ^^^ b) ∧ does (.iAmoSwap t h w) b) ∧
        (fMOD n ≤ 3 → (less → does (.iAmoMin t h w) b ∧ does (.iAmoMax t h w) old) ∧
          (¬ less → does (.iAmoMin t h w) old ∧ does (.iAmoMax t h w) b)) ∧
        (fMOD n = 0 → does (.iAmoFaddF32 t h w)
          (fp32.encodeIEEE false none ((fp32.decodeIEEE old).add (fp32.decodeIEEE b)).1).1)) ∧
      (onlyUses n (useD ||| useA ||| useB ||| useC ||| useMOD) = true → fMOD n ≤ 1 →
        does (.iAmoCas t h w) (if old = c then b else old))

/-- Waiting and semaphores (R140, R143, R146, R197): FENCE goes on when no load, store or atomic of the thread is
outstanding and else waits; IFENCE empties the instruction cache; CCWAIT goes on when CC is at most its limit and else
waits; CCRD reads CC; SEMWAIT takes n from the word or waits; SEMPOST adds n. TBAR (R198): the last thread of the mask in
sA[15:0] ends the barrier, and it and every thread that had arrived go on to their next instructions; an earlier one waits
and is counted as arrived. Where the rules leave a choice the clauses state the model's: log entry 18. -/
def Obligations.SynchronisationResults : Prop :=
  (∀ (s : State) (t : Fin 256) (h : Fin 16) (w : BitVec 56), s.Ready t h → s.Calm t →
    s.Valid t h [fD w.toNat, fA w.toNat, fB w.toNat] [] →
    let n := w.toNat
    let y := s.thread t h
    let x := s.tile t
    let limit := (y.getS (fA n) + BitVec.ofNat 64 (fIMM22 n)).toNat
    let a := (y.getS (fA n)).toNat
    let k := (y.getS (fB n) + BitVec.ofNat 64 (fIMM22 n)).toNat
    let waits (u : State) (v : Wait) := (u.thread t h).st = .wait ∧ (u.thread t h).wait = v ∧ (u.thread t h).pc = y.pc
    let others (u : State) := ∀ b, b < a ∨ a + 8 ≤ b → Memory.read u.mem b = Memory.read s.mem b
    ownRange t (y.pc + 8).toNat 8 = true →
      (n = 0 → (x.fenced h = false → Gives (.iFence t h w) s fun u => s.GotNone u t h (y.pc + 8)) ∧
        (x.fenced h = true → Gives (.iFence t h w) s fun u => waits u .fence) ∧
        (Gives (.iIfence t h w) s fun u => (u.tile t).icache = [] ∧ s.GotNone u t h (y.pc + 8))) ∧
      (onlyUses n (useA ||| useCC ||| useIMM22) = true →
        (x.ccGet (fCC n) ≤ limit → Gives (.iCcwait t h w) s fun u => s.GotNone u t h (y.pc + 8)) ∧
        (limit < x.ccGet (fCC n) → Gives (.iCcwait t h w) s fun u => waits u (.cc (fCC n) limit))) ∧
      (onlyUses n (useD ||| useCC) = true → Gives (.iCcrd t h w) s fun u =>
        s.GotS u t h (fD n) (BitVec.ofNat 64 (x.ccGet (fCC n))) (y.pc + 8)) ∧
      (onlyUses n (useA ||| useB ||| useIMM22) = true → a % 8 = 0 → ownRange t a 8 = true →
        s.inWeir t (a % tileBytes) 8 = false → s.inCombine t (a % tileBytes) 8 = false → s.poisoned a 8 = false →
        (k ≤ s.load a 8 → Gives (.iSemwait t h w) s fun u =>
          s.GotNone u t h (y.pc + 8) ∧ u.load a 8 = s.load a 8 - k ∧ others u) ∧
        (s.load a 8 < k → Gives (.iSemwait t h w) s fun u => waits u (.sem a k) ∧
          ∀ b, Memory.read u.mem b = Memory.read s.mem b) ∧
        (Gives (.iSempost t h w) s fun u =>
          s.GotNone u t h (y.pc + 8) ∧ u.load a 8 = (s.load a 8 + k) % 2 ^ 64 ∧ others u))) ∧
  (∀ (s : State) (t : Fin 256) (h : Fin 16) (w : BitVec 56), s.Ready t h → s.Valid t h [fA w.toNat] [] →
    let n := w.toNat
    let y := s.thread t h
    let m : BitVec 16 := (y.getS (fA n)).setWidth 16
    let here := ((s.tile t).barrier.elim [] Prod.snd)
    onlyUses n useA = true → m.getLsbD h = true → (∀ b ∈ (s.tile t).barrier, b.1 = m) → here.Nodup → h.val ∉ here →
    (∀ i ∈ here, (s.thread t i).st = .wait ∧ (s.thread t i).wait = .barrier) →
      ((∀ i < 16, m.getLsbD i = true → i = h.val ∨ i ∈ here) → Gives (.iTbar t h w) s fun u =>
        s.GotNone u t h (y.pc + 8) ∧ ∀ i ∈ here, (u.thread t i).pc = (s.thread t i).pc + 8 ∧ (u.thread t i).st ≠ .wait) ∧
      ((∃ i < 16, m.getLsbD i = true ∧ i ≠ h.val ∧ i ∉ here) → (s.tile t).streams = [] → Gives (.iTbar t h w) s fun u =>
        (u.thread t h).st = .wait ∧ (u.thread t h).wait = .barrier ∧ (u.tile t).barrier = some (m, here ++ [h.val])))

/-- Integer vector instructions (R183, R165): element n of vD from element n of vA and vB, wrapped to the type or with SAT
limited to its range, under the mask; a masked element keeps its value or, with MZ, becomes zero. VSEL picks by mK, VBCAST
copies sA, VEXT extends one element into sD, VCMP writes bit n of mD; that VCMP leaves the mask bits above the element count
as they were is the model's reading (log entry 37). -/
def Obligations.VectorIntegerResults : Prop :=
  ∀ (s : State) (t : Fin 256) (h : Fin 16) (w : BitVec 56), s.Ready t h →
    s.Valid t h [fD w.toNat, fA w.toNat, fB w.toNat] [fD w.toNat, fA w.toNat, fB w.toNat] →
    let n := w.toNat
    let y := s.thread t h
    let T := fMOD n % 8
    let b := 2 ^ (3 + T / 2)
    let m := y.getM (fMK n)
    let val (x : Nat) : Int := if T % 2 = 0 then (BitVec.ofNat b x).toInt else (x : Int)
    let lim (v : Int) : Int := if fMOD n < 8 then v
      else if T % 2 = 0 then max (-2 ^ (b - 1)) (min (2 ^ (b - 1) - 1) v) else max 0 (min (2 ^ b - 1) v)
    let res (v : Int) : Nat := (BitVec.ofInt b (lim v)).toNat
    let va (i : Nat) := elemOf b (y.getV (fA n)) i
    let vb (i : Nat) := elemOf b (y.getV (fB n)) i
    let masked (f : Nat → Nat) (i : Nat) := if m.getLsbD i then f i else if fMZ n then 0 else elemOf b (y.getV (fD n)) i
    let op (c : Instr) (f : Nat → Nat → Nat) :=
      Gives c s fun u => s.GotElems u t h (fD n) b (masked fun i => f (va i) (vb i))
    fMOD n < 16 → T < 6 →
      (onlyUses n (useD ||| useA ||| useB ||| useMask ||| useMOD) = true →
        op (.iVadd t h w) (fun x z => res (val x + val z)) ∧ op (.iVsub t h w) (fun x z => res (val x - val z)) ∧
        op (.iVmul t h w) (fun x z => res (val x * val z)) ∧
        op (.iVmin t h w) (fun x z => if val x < val z then x else z) ∧
        op (.iVmax t h w) (fun x z => if val x < val z then z else x) ∧
        op (.iVand t h w) (fun x z => x &&& z) ∧ op (.iVor t h w) (fun x z => x ||| z) ∧
        op (.iVxor t h w) (fun x z => x ^^^ z) ∧ op (.iVshl t h w) (fun x z => res (val x * 2 ^ (z % b))) ∧
        op (.iVshr t h w) (fun x z => res (val x / 2 ^ (z % b)))) ∧
      (onlyUses n (useD ||| useA ||| useB ||| useMK ||| useMOD) = true → Gives (.iVsel t h w) s fun u =>
        s.GotElems u t h (fD n) b fun i => if m.getLsbD i then va i else vb i) ∧
      (onlyUses n (useD ||| useA ||| useMask ||| useMOD) = true → Gives (.iVbcast t h w) s fun u =>
        s.GotElems u t h (fD n) b (masked fun _ => (y.getS (fA n)).toNat % 2 ^ b)) ∧
      (onlyUses n (useD ||| useA ||| useB ||| useMOD) = true → Gives (.iVext t h w) s fun u =>
        s.GotS u t h (fD n) (BitVec.ofInt 64 (val (va ((y.getS (fB n)).toNat % (2048 / b))))) (y.pc + 8)) ∧
      (onlyUses n (useD ||| useA ||| useB ||| useMask ||| useMOD ||| useEXT) = true → fD n < 8 → fEXT n ≤ 3 →
        Gives (.iVcmp t h w) s fun u => ∃ v, s.GotM u t h (fD n) v ∧ ∀ i < 256, v.getLsbD i =
          if i < 2048 / b then
            (if m.getLsbD i then (match fEXT n with
              | 0 => decide (va i = vb i)
              | 1 => decide (va i ≠ vb i)
              | 2 => decide (val (va i) < val (vb i))
              | _ => decide (val (va i) ≤ val (vb i)))
            else !fMZ n && (y.getM (fD n)).getLsbD i)
          else (y.getM (fD n)).getLsbD i)

/-- Mask instructions (R183): MAND, MOR, MXOR, MNOT, MPOP, MINS and MEXT, chosen by MOD 0 to 6. -/
def Obligations.MaskResults : Prop :=
  ∀ (s : State) (t : Fin 256) (h : Fin 16) (w : BitVec 56), s.Ready t h →
    s.Valid t h [fD w.toNat, fA w.toNat] [] →
    let n := w.toNat
    let y := s.thread t h
    let k := fEXT n % 4
    let a := y.getM (fA n)
    (onlyUses n (useD ||| useA ||| useB ||| useMOD) = true → fD n < 8 → fA n < 8 → fB n < 8 →
      (fMOD n = 0 → Gives (.iMand t h w) s fun u => s.GotM u t h (fD n) (a &&& y.getM (fB n))) ∧
      (fMOD n = 1 → Gives (.iMor t h w) s fun u => s.GotM u t h (fD n) (a ||| y.getM (fB n))) ∧
      (fMOD n = 2 → Gives (.iMxor t h w) s fun u => s.GotM u t h (fD n) (a ^^^ y.getM (fB n)))) ∧
    (onlyUses n (useD ||| useA ||| useMOD) = true → fA n < 8 →
      (fMOD n = 3 → fD n < 8 → Gives (.iMnot t h w) s fun u => s.GotM u t h (fD n) (~~~a)) ∧
      (fMOD n = 4 → Gives (.iMpop t h w) s fun u =>
        s.GotS u t h (fD n) (BitVec.ofNat 64 ((List.range 256).countP fun i => a.getLsbD i)) (y.pc + 8))) ∧
    (onlyUses n (useD ||| useA ||| useMOD ||| (3 <<< 16)) = true →
      (fMOD n = 5 → fD n < 8 → Gives (.iMins t h w) s fun u => ∃ v, s.GotM u t h (fD n) v ∧ ∀ i < 256, v.getLsbD i =
        if 64 * k ≤ i ∧ i < 64 * k + 64 then (y.getS (fA n)).getLsbD (i - 64 * k) else (y.getM (fD n)).getLsbD i) ∧
      (fMOD n = 6 → fA n < 8 → Gives (.iMext t h w) s fun u =>
        s.GotS u t h (fD n) (BitVec.ofNat 64 (a.toNat / 2 ^ (64 * k))) (y.pc + 8)))

/-- Floating-point vector instructions (R184): every element of the type that MOD names is computed exactly and rounded
once; VFMAX, VFMIN and VFCMP follow Table 5-8; VFABS, VFNEG and VFCSGN change the sign. Sticky flags (R134): VFADD, VFSUB,
VFMUL and VFMA set each VU flag of TILE_FP_FLAGS that some computed element raises and clear none; the flags of the other
engines are as before. Where the rules leave a choice the clauses state the model's: log entry 17, and log entry 37 for the
mask bits above the element count, which VFCMP leaves as they were. -/
def Obligations.VectorFloatResults : Prop :=
  (∀ (s : State) (t : Fin 256) (h : Fin 16) (w : BitVec 56), s.Ready t h →
    s.Valid t h [] [fD w.toNat, fA w.toNat, fB w.toNat, fC w.toNat] →
    let n := w.toNat
    let y := s.thread t h
    let l : Layout := if fMOD n % 4 = 0 then fp32 else if fMOD n % 4 = 1 then bf16 else fp16
    let sat := bitOf (fMOD n) 4
    let m := y.getM (fMK n)
    let va (i : Nat) := l.decodeIEEE (elemOf l.w (y.getV (fA n)) i)
    let vb (i : Nat) := l.decodeIEEE (elemOf l.w (y.getV (fB n)) i)
    let vc (i : Nat) := l.decodeIEEE (elemOf l.w (y.getV (fC n)) i)
    let op (c : Instr) (z : Bool) (f : Nat → FNum) := Gives c s fun u => s.GotElems u t h (fD n) l.w fun i =>
      if m.getLsbD i then (l.encodeIEEE z none (f i)).1 % 2 ^ l.w else if fMZ n then 0 else elemOf l.w (y.getV (fD n)) i
    fMOD n % 4 ≤ 2 → (fMOD n / 4 = 0 ∨ fMOD n / 4 = 4) →
      (onlyUses n (useD ||| useA ||| useB ||| useMask ||| useMOD) = true →
        op (.iVfadd t h w) sat (fun i => ((va i).add (vb i)).1) ∧
        op (.iVfsub t h w) sat (fun i => ((va i).add (vb i).negate).1) ∧
        op (.iVfmul t h w) sat (fun i => ((va i).mul (vb i)).1) ∧
        op (.iVfmax t h w) false (fun i => (va i).max (vb i)) ∧ op (.iVfmin t h w) false (fun i => (va i).min (vb i))) ∧
      (onlyUses n (useD ||| useA ||| useB ||| useC ||| useMask ||| useMOD) = true →
        op (.iVfma t h w) sat (fun i => (((va i).mul (vb i)).1.add (vc i)).1)) ∧
      (onlyUses n (useD ||| useA ||| useMask ||| useMOD ||| useEXT) = true →
        (fEXT n = 0 → op (.iVfabsVfnegVfcsgn t h w) false fun i => (va i).withSign false) ∧
        (fEXT n = 1 → op (.iVfabsVfnegVfcsgn t h w) false fun i => (va i).negate)) ∧
      (onlyUses n (useD ||| useA ||| useB ||| useMask ||| useMOD ||| useEXT) = true →
        (fEXT n = 2 → op (.iVfabsVfnegVfcsgn t h w) false fun i =>
          (va i).withSign (bitOf (elemOf l.w (y.getV (fB n)) i) (l.w - 1))) ∧
        (fEXT n ≤ 3 → fD n < 8 → Gives (.iVfcmp t h w) s fun u => ∃ v, s.GotM u t h (fD n) v ∧ ∀ i < 256, v.getLsbD i =
          if i < 2048 / l.w then
            (if m.getLsbD i then (match fEXT n with
              | 0 => (va i).eq (vb i)
              | 1 => (va i).lt (vb i)
              | 2 => (va i).lt (vb i) || (va i).eq (vb i)
              | _ => (va i).isNan || (vb i).isNan)
            else !fMZ n && (y.getM (fD n)).getLsbD i)
          else (y.getM (fD n)).getLsbD i))) ∧
  (∀ (s : State) (t : Fin 256) (h : Fin 16) (w : BitVec 56), s.Ready t h → s.Calm t →
    s.Valid t h [] [fD w.toNat, fA w.toNat, fB w.toNat, fC w.toNat] →
    let n := w.toNat
    let y := s.thread t h
    let l : Layout := if fMOD n % 4 = 0 then fp32 else if fMOD n % 4 = 1 then bf16 else fp16
    let va (i : Nat) := l.decodeIEEE (elemOf l.w (y.getV (fA n)) i)
    let vb (i : Nat) := l.decodeIEEE (elemOf l.w (y.getV (fB n)) i)
    let vc (i : Nat) := l.decodeIEEE (elemOf l.w (y.getV (fC n)) i)
    let op (c : Instr) (f : Nat → FNum × Nat) := Gives c s fun u => ∀ k < 64,
      bitOf (u.rd (TILE_FP_FLAGS t)).toNat k = (bitOf (s.rd (TILE_FP_FLAGS t)).toNat k ||
        (decide (4 ≤ k) && decide (k < 8) && (List.range (2048 / l.w)).any fun i => (y.getM (fMK n)).getLsbD i &&
          bitOf ((l.encodeIEEE (bitOf (fMOD n) 4) none (f i).1).2 ||| (f i).2) (k - 4)))
    fMOD n % 4 ≤ 2 → (fMOD n / 4 = 0 ∨ fMOD n / 4 = 4) → ownRange t (y.pc + 8).toNat 8 = true →
      (onlyUses n (useD ||| useA ||| useB ||| useMask ||| useMOD) = true →
        op (.iVfadd t h w) (fun i => (va i).add (vb i)) ∧ op (.iVfsub t h w) (fun i => (va i).add (vb i).negate) ∧
        op (.iVfmul t h w) (fun i => (va i).mul (vb i))) ∧
      (onlyUses n (useD ||| useA ||| useB ||| useC ||| useMask ||| useMOD) = true → op (.iVfma t h w) fun i =>
        ((((va i).mul (vb i)).1.add (vc i)).1, (((va i).mul (vb i)).1.add (vc i)).2 ||| ((va i).mul (vb i)).2)))

/-- Conversions (R186-R189): CVT converts 64 elements, or 256 ZT2 codes to INT8 with the NaN blocks marked in vC; VBAMAX and
CVT.SCALE work on two blocks; VPACK packs the low bits of 64 bytes. Where the rules leave a choice the clauses state the
model's: log entry 39. -/
def Obligations.ConvertResults : Prop :=
  ∀ (s : State) (t : Fin 256) (h : Fin 16) (w : BitVec 56), s.Ready t h →
    s.Valid t h [fC w.toNat, fC w.toNat + 1, fC w.toNat + 2]
      [fD w.toNat, fA w.toNat, fA w.toNat + 1, fB w.toNat, fC w.toNat] →
    let n := w.toNat
    let y := s.thread t h
    let dst := fMOD n / 16
    let p := extPART n
    let m := y.getM (fMK n)
    let old (b i : Nat) := elemOf b (y.getV (fD n)) i
    let a32 (i : Nat) := elemOf 32 (y.getV (fA n)) i
    let from64 (i : Nat) := if extF64 n then fp64.decodeIEEE
      (if i < 32 then elemOf 64 (y.getV (fA n)) i else elemOf 64 (y.getV (fA n + 1)) (i - 32)) else fp32.decodeIEEE (a32 i)
    let half (b : Nat) (f : Nat → Nat) (i : Nat) := if 2 * p ≤ i ∧ i < 2 * p + 2 then f (i - 2 * p) else old b i
    (cvtLegal n = true → fMOD n ≠ 0x50 →
      (extSR n = true → (y.getS (fC n + 2)).toNat / 2 ^ 53 ≤ 2040) →
      let b := if fmtScaled dst then 8 else fmtBits dst
      let first := if dst = 6 ∨ dst = 7 then 64 * p else 0
      Gives (.iCvt t h w) s fun u => s.GotElems u t h (fD n) b fun i =>
        if first ≤ i ∧ i < first + 64 then
          (if m.getLsbD (i - first) then (cvtElem y n (i - first)).1 % 2 ^ b else if fMZ n then 0 else old b i)
        else old b i) ∧
    (cvtLegal n = true → fMOD n = 0x50 → fC n ≠ fD n →
      let code (i : Nat) := elemOf 2 (y.getV (fA n)) (256 * p + i)
      let nan (k : Nat) := ∃ i < 32, m.getLsbD (32 * k + i) = true ∧ code (32 * k + i) = 2
      Gives (.iCvt t h w) s fun u =>
        (∀ i < 256, m.getLsbD i = true → (nan (i / 32) → elemOf 8 ((u.thread t h).getV (fD n)) i = 0) ∧
          (¬ nan (i / 32) → elemOf 8 ((u.thread t h).getV (fD n)) i =
            if code i = 1 then 64 else if code i = 3 then 192 else 0)) ∧
        (∀ i < 256, m.getLsbD i = false →
          elemOf 8 ((u.thread t h).getV (fD n)) i = if fMZ n then 0 else old 8 i) ∧
        (∀ k < 8, nan k → elemOf 8 ((u.thread t h).getV (fC n)) (8 * p + k) = 0xFF) ∧
        (∀ k < 8, ¬ nan k → elemOf 8 ((u.thread t h).getV (fC n)) (8 * p + k) =
          elemOf 8 (y.getV (fC n)) (8 * p + k)) ∧ (u.thread t h).pc = y.pc + 8) ∧
    (onlyUses n (useD ||| useA ||| useMK ||| (0x9F <<< 16)) = true → p ≤ 15 → (extF64 n = true → fA n % 2 = 0) →
      Gives (.iVbamax t h w) s fun u => s.GotElems u t h (fD n) 32 (half 32 fun k =>
        let xs := ((List.range 32).filter fun i => m.getLsbD (32 * k + i)).map fun i => from64 (32 * k + i)
        (match amaxExp xs with
          | none => 0x8000
          | some e => (BitVec.ofInt 16 e).toNat) + flag (xs.any FNum.isNan) * 2 ^ 16 + flag (xs.any FNum.isInf) * 2 ^ 17)) ∧
    (onlyUses n (useD ||| useA ||| (0x1F <<< 16) ||| (0xF0 <<< 48)) = true → fmtScaled dst = true → p ≤ 15 →
      Gives (.iCvtScale t h w) s fun u => s.GotElems u t h (fD n) 8 (half 8 fun k =>
        let e := a32 (2 * p + k)
        (if bitOf e 16 ∧ elemNan dst = none then 0xFF
          else scaleFor dst (if e % 2 ^ 16 = 0x8000 then none else some (BitVec.ofNat 16 e).toInt)) % 256)) ∧
    (onlyUses n (useD ||| useA ||| (0x1F <<< 16) ||| (0x03 <<< 48)) = true → fMOD n ≤ 2 → p < 32 / 2 ^ (fMOD n + 1) →
      let b := 2 ^ (fMOD n + 1)
      Gives (.iVpack t h w) s fun u => s.GotElems u t h (fD n) b fun i =>
        if 64 * p ≤ i ∧ i < 64 * p + 64 then elemOf 8 (y.getV (fA n)) (i - 64 * p) % 2 ^ b else old b i)

/-- VPOP (R163): the next row of the thread's oldest tailwater entry goes to vD; the entry goes with its 64th row.
Accumulator tiles and the tailwater queue (R153-R156, R162, R163): ACQ_BIND gives all indices to the thread at once with T =
0 and contents zero; REL_UNBIND keeps contents and T; DRAIN reserves an entry; DRAIN_READ reads the 64 rows times 2^T and,
without KEEP, zeroes the tile, and the entry of a thread that has ended goes (R178). Where the rules leave a choice the
clauses state the model's: log entries 18, 37 and 77. -/
def Obligations.TailwaterAndAccumulators : Prop :=
  (∀ (s : State) (t : Fin 256) (h : Fin 16) (w : BitVec 56) (q : TqEntry) (row : List (BitVec 32)), s.Ready t h →
    s.Calm t → s.Valid t h [] [fD w.toNat] → onlyUses w.toNat useD = true →
    ownRange t ((s.thread t h).pc + 8).toNat 8 = true →
    q ∈ (s.tile t).tq → q.thread = h.val → q.discard = false →
    (∀ r ∈ (s.tile t).tq, r.thread = h.val → r.discard = false → q.order ≤ r.order) →
    (∀ r ∈ (s.tile t).tq, r.order = q.order → r = q) → q.rows[q.popped]? = some row → row.length = 64 →
      Gives (.iVpop t h w) s fun u =>
        s.GotElems u t h (fD w.toNat) 32 (fun i => (row.getD i 0).toNat) ∧
        (q.popped + 1 = 64 → ∀ r ∈ (u.tile t).tq, r.order ≠ q.order) ∧
        (q.popped + 1 ≠ 64 → ∃ r ∈ (u.tile t).tq, r.order = q.order ∧ r.popped = q.popped + 1)) ∧
  ((∀ (s : State) (t : Fin 256) (h : Fin 16) (w : BitVec 56), s.Ready t h → s.Calm t →
    let n := w.toNat
    let y := s.thread t h
    let x := s.tile t
    (onlyUses n (useD ||| useMOD) = true → fMOD n ≤ 1 → (x.acc (fD n)).owner = some h.val →
      (x.acc (fD n)).releasing = false → (∃ i < 8, ∀ r ∈ x.tq, r.slot ≠ i) →
      ownRange t (y.pc + 8).toNat 8 = true → Gives (.iDrain t h w) s fun u => s.GotNone u t h (y.pc + 8) ∧
        ∃ q ∈ (u.tile t).tq, q.thread = h.val ∧ q.acc = fD n ∧ q.keep = decide (fMOD n = 1) ∧ q.reading = true ∧
          q.rows = [] ∧ q.popped = 0 ∧ q.discard = false ∧ q.slot < 8 ∧ ∀ r ∈ x.tq, r.slot ≠ q.slot)) ∧
  ∀ (s : State) (t : Fin 256) (h : Fin 16), s.on = true →
    let x := s.tile t
    let y := s.thread t h
    (∀ i j, s.issueStopped t = false → y.st = .wait → y.ending = false → y.wait = .acq i j → i ≤ j → j < 32 →
      (∀ k, i ≤ k → k ≤ j → (x.acc k).owner = none ∨
        ((x.acc k).owner = some h.val ∧ (x.acc k).releasing = false ∧ x.accBusy k = false)) →
      Gives (.acqBind t h) s fun u => (u.thread t h).st = .run ∧ (u.thread t h).pc = y.pc + 8 ∧
        ∀ k, i ≤ k → k ≤ j → (u.tile t).acc k = ⟨some h.val, 0, [], 0, false⟩) ∧
    (∀ i j, s.issueStopped t = false → y.st = .wait → y.ending = false → y.wait = .rel i j → i ≤ j → j < 32 →
      (∀ k, i ≤ k → k ≤ j → x.accBusy k = false) →
      Gives (.relUnbind t h) s fun u => (u.thread t h).st = .run ∧ (u.thread t h).pc = y.pc + 8 ∧
        ∀ k, i ≤ k → k ≤ j → (u.tile t).acc k = { x.acc k with owner := none, releasing := false }) ∧
    (∀ q ∈ x.tq, q.reading = true → x.mmaOn q.acc q.order = false →
      (∀ r ∈ x.tq, r.reading = true → x.mmaOn r.acc r.order = false → r ≠ q → q.order < r.order) →
      (∀ r ∈ x.tq, r.order = q.order → r = q) →
      let a := x.acc q.acc
      Gives (.drainRead t) s fun u => (q.discard = true → ∀ r ∈ (u.tile t).tq, r.order ≠ q.order) ∧
        (q.discard = false → ∃ r ∈ (u.tile t).tq, r.order = q.order ∧ r.reading = false ∧ r.popped = q.popped ∧
          r.rows.length = 64 ∧ ∀ i < 64, ∀ j < 64, (r.rows.getD i []).getD j 0 =
            BitVec.ofNat 32 (fp32.encodeIEEE false none ((a.value (64 * i + j)).scale a.offset)).1) ∧
        (q.keep = true → ((u.tile t).acc q.acc).data = a.data ∧ ((u.tile t).acc q.acc).offset = a.offset) ∧
        (q.keep = false → ((u.tile t).acc q.acc).data = [] ∧ ((u.tile t).acc q.acc).offset = 0)))

/-- The matrix unit (R149, R150, R158-R160): MMA queues a pass behind the others, or waits for a place in the queue;
MMA_START takes the front; MMA_ABORT restores and rescales, or starts the saturating run; MMA_COMPLETE leaves the sums.
Where the rules leave a choice the clauses state the model's: log entries 7, 17, 18, 39 and 77. -/
def Obligations.MatrixPasses : Prop :=
  (∀ (s : State) (t : Fin 256) (h : Fin 16) (w : BitVec 56), s.Ready t h → s.Calm t →
    s.Valid t h [fA w.toNat, fA w.toNat + 1, fB w.toNat, fB w.toNat + 1, fC w.toNat] [] →
    let n := w.toNat
    let y := s.thread t h
    let x := s.tile t
    let f := fMOD n
    let a := (y.getS (fA n)).toNat
    let sa := (y.getS (fA n + 1)).toNat
    let b := (y.getS (fB n)).toNat
    let sb := (y.getS (fB n + 1)).toNat
    let k := (y.getS (fC n)).toNat
    let row := k * fmtBits f / 8
    onlyUses n (useD ||| useA ||| useB ||| useC ||| useMOD) = true → fmtMu f = true → fA n % 2 = 0 → fB n % 2 = 0 →
    (x.acc (fD n)).owner = some h.val → (x.acc (fD n)).releasing = false → k ≠ 0 → k % (8 * groupSize f) = 0 →
      k ≤ 16384 → a % 64 = 0 → b % 64 = 0 →
    ownRange t a (64 * row) = true → ownRange t b (64 * row) = true →
    (fmtScaled f = true → sa % 64 = 0 ∧ sb % 64 = 0 ∧ ownRange t sa (64 * (k / 32)) = true ∧
      ownRange t sb (64 * (k / 32)) = true) → ownRange t (y.pc + 8).toNat 8 = true →
      (x.mmaQ.length < 4 → Gives (.iMma t h w) s fun u => s.GotNone u t h (y.pc + 8) ∧
        ∃ q, (u.tile t).mmaQ = x.mmaQ ++ [q] ∧ q.thread = h.val ∧ q.acc = fD n ∧ q.fmt = f ∧ q.a = a ∧ q.aScale = sa ∧
          q.b = b ∧ q.bScale = sb ∧ q.k = k) ∧
      (4 ≤ x.mmaQ.length → Gives (.iMma t h w) s fun u => (u.thread t h).st = .wait ∧ (u.thread t h).wait = .mmaQueue ∧
        (u.thread t h).pc = y.pc)) ∧
  ∀ (s : State) (t : Fin 256), s.on = true →
    let x := s.tile t
    (∀ o r, x.mma = none → x.mmaQ = o :: r → (∀ q ∈ x.tq, ¬ (q.acc = o.acc ∧ q.reading = true ∧ q.order < o.seq)) →
      Gives (.mmaStart t) s fun u => (u.tile t).mma = some { o with run := 1, began := s.cycle } ∧ (u.tile t).mmaQ = r ∧
        ((u.tile t).acc o.acc).pending = o.k / (8 * groupSize o.fmt) * 128) ∧
    (∀ o, x.mma = some o → s.operandsBad o = false →
      let a := x.acc o.acc
      let v := (Config.freeWord s.freeCtr).toNat
      (∀ d m, (s.operands o).run a o.run v = .low d m → Gives (.mmaAbort t) s fun u =>
        ((u.tile t).acc o.acc).offset = a.offset - d ∧ (u.tile t).mma = some { o with run := o.run + 1, began := s.cycle } ∧
        u.rd (TILE_MU_RECOMP t) = s.rd (TILE_MU_RECOMP t) + 1 ∧
        ∀ i < 4096, Table.get 0 ((u.tile t).acc o.acc).data i =
          BitVec.ofNat 32 (fp32.encodeIEEE false none ((a.value i).scale d)).1) ∧
      (∀ e m, (s.operands o).run a o.run v = .high e m → 112 ≤ a.offset → Gives (.mmaAbort t) s fun u =>
        (u.tile t).mma = some { o with run := 3, began := s.cycle } ∧ (u.tile t).acc o.acc = a ∧
        u.rd (TILE_MU_RECOMP t) = s.rd (TILE_MU_RECOMP t) + 1) ∧
      (∀ e m, (s.operands o).run a o.run v = .high e m → a.offset < 112 →
        let d := min (-((-(max 1 (e - 100))) / 16) * 16) (112 - a.offset)
        Gives (.mmaAbort t) s fun u => ((u.tile t).acc o.acc).offset = a.offset + d ∧
          (u.tile t).mma = some { o with run := o.run + 1, began := s.cycle } ∧
          ∀ i < 4096, Table.get 0 ((u.tile t).acc o.acc).data i =
            BitVec.ofNat 32 (fp32.encodeIEEE false none ((a.value i).scale (-d))).1) ∧
      (∀ l f k, (s.operands o).run a o.run 0 = .done l f k → Gives (.mmaComplete t) s fun u =>
        (u.tile t).mma = none ∧ ((u.tile t).acc o.acc).pending = 0 ∧ ((u.tile t).acc o.acc).offset = a.offset ∧
        (∀ i < 4096, Table.get 0 ((u.tile t).acc o.acc).data i = BitVec.ofNat 32 (l.getD i 0)) ∧
        u.rd (TILE_MU_SAT t) = s.rd (TILE_MU_SAT t) + (if k = 0 then 0 else 1)))

/-- The Weir instructions (R193, R194): WEIR.TAKE and WEIR.PEEK give the oldest descriptor and the entry to the thread; with
the queue empty TAKE waits and PEEK gives 0; WEIR.POST hands the entry to the emitter and counts its cells on CC. -/
def Obligations.WeirInstructions : Prop :=
  ∀ (s : State) (t : Fin 256) (h : Fin 16) (w : BitVec 56), s.Ready t h → s.Calm t →
    s.Valid t h [fD w.toNat, fA w.toNat, fB w.toNat] [] →
    let n := w.toNat
    let y := s.thread t h
    let x := s.tile t
    ownRange t (y.pc + 8).toNat 8 = true →
      (onlyUses n useD = true →
        (x.cq = [] → (Gives (.iWeirTake t h w) s fun u => (u.thread t h).st = .wait ∧ (u.thread t h).wait = .take (fD n)) ∧
          Gives (.iWeirPeek t h w) s fun u => s.GotS u t h (fD n) 0 (y.pc + 8)) ∧
        (∀ d q, x.cq = d :: q →
          let got (u : State) := s.GotS u t h (fD n) d (y.pc + 8) ∧ (u.tile t).cq = q ∧
            ((u.tile t).entry (d.toNat / 2 ^ 48 % 4096)).st = .taken ∧
            ((u.tile t).entry (d.toNat / 2 ^ 48 % 4096)).takenBy = some h.val
          Gives (.iWeirTake t h w) s got ∧ Gives (.iWeirPeek t h w) s got)) ∧
      (onlyUses n (useA ||| useB ||| useCC) = true →
        let e := (y.getS (fA n)).toNat / 2 ^ 48 % 4096
        let b := (y.getS (fB n)).toNat
        let v := x.entry e
        let r := s.nodeRec t v.node
        let alone := s.recFlag t e 3 && !nRoot r
        let per := if alone then 0 else if nCarry r then 64 else nWireCells r
        let pieces := if nCarry r && !alone then nPieces r else 1
        v.st = .taken → v.takenBy = some h.val → v.voided = false →
        (alone = false → b % 64 = 0 ∧ ownRange t b (64 * per * pieces) = true) →
        Gives (.iWeirPost t h w) s fun u => s.GotNone u t h (y.pc + 8) ∧ ((u.tile t).entry e).st = .sending ∧
          (u.tile t).ccGet (fCC n) = (x.ccGet (fCC n) + pieces * (per + 1)) % 2 ^ 32 ∧
          ∃ p ∈ (u.tile t).posts, p.entry = e ∧ p.addr = b ∧ p.pieces = pieces ∧ p.per = per ∧ p.sent = 0 ∧ p.cc = fCC n)

/-- Messages, doorbells and events of a thread (R195, R196): MSG.SEND puts one TYPE 1 cell for each 56 bytes into the tile's
crossbar input when the return entry is valid, and counts them on CC; MSG.BELL reads TAIL of a ring that the context holds;
MSG.EVENT posts a class N event, which its source counts. Where the rules leave a choice the clauses state the model's: log
entries 31 and 37. -/
def Obligations.ThreadMessages : Prop :=
  ∀ (s : State) (t : Fin 256) (h : Fin 16) (w : BitVec 56), s.Ready t h → s.Calm t →
    s.Valid t h [fA w.toNat, fB w.toNat, fC w.toNat] [] →
    let n := w.toNat
    let y := s.thread t h
    let x := s.tile t
    let a := (y.getS (fA n)).toNat
    let b := (y.getS (fB n)).toNat
    let len := (y.getS (fC n)).toNat
    let tc := b / 2 ^ 29
    ownRange t (y.pc + 8).toNat 8 = true →
      (onlyUses n (useA ||| useB ||| useC ||| useCC) = true → (tc = 4 ∨ tc = 6 ∨ tc = 7) → 0 < len → len ≤ 3584 →
        ownRange t a len = true → s.poisoned a len = false → bitOf (s.returnEntry (b % 2 ^ 17)) 63 = true →
        Gives (.iMsgSend t h w) s fun u => s.GotNone u t h (y.pc + 8) ∧
          (u.tile t).ccGet (fCC n) = (x.ccGet (fCC n) + (len + 55) / 56) % 2 ^ 32 ∧
          ∃ l, Table.get [] u.xin (1025 + t) = Table.get [] s.xin (1025 + t) ++ l ∧ l.length = (len + 55) / 56 ∧
            ∀ i c, l[i]? = some c → c.1 = 2 * tc ∧ ∃ k : Cell, c.2 = .cell k ∧ hType k.h = 1 ∧ hTc k.h = tc ∧
              hSrc k.h = b % 2 ^ 17 ∧ hTag k.h = b / 2 ^ 17 % 4096 ∧ hSeq k.h = i ∧ hCtx k.h = x.ctx % 4096 ∧
              hLen k.h = 8 + min 56 (len - 56 * i) ∧ payNum k.pay 2 1 = t.val ∧ payNum k.pay 3 1 = h.val ∧
                payNum k.pay 4 2 = len) ∧
      (∀ k, let r := (a + fIMM22 n) % 64
        onlyUses n (useA ||| useIMM22) = true → s.ring? x.ctx r = some k → s.ctxState x.ctx = 1 →
        opcodes.contains (s.load (k.entry k.head) 2) = true → (∀ i ∈ (s.readTail x.ctx r).ringWork, i = ringRank x.ctx r) →
        Gives (.iMsgBell t h w) s fun u =>
          s.GotNone u t h (y.pc + 8) ∧ u.ring? x.ctx r = some { k with tail := s.ringTail k }) ∧
      (onlyUses n useA = true → Gives (.iMsgEvent t h w) s fun u => s.GotNone u t h (y.pc + 8) ∧
        u.rd SPW_EVENTS = s.rd SPW_EVENTS + 1 ∧
        let e := (s.rd SPW_COUNT_BASE).toNat + 32 * (1024 + t)
        u.load e 4 = min (s.load e 4 + 1) 0xFFFFFFFF ∧ u.load (e + 24) 8 = s.cycle % 2 ^ 64)

/-- THREAD_HALT (R170): a running or waiting thread whose bit is set becomes HALTED and keeps what it was doing, one whose bit
is clear goes on as it was; the register holds the mask. The debug window (R370): of a halted or stopped thread selected by
TILE_DBG_SEL, the scalar registers stand at 0x8000, the vector registers at 0x8200; of a thread that runs a read gives an
address error; nothing else changes. -/
def Obligations.ThreadDebug : Prop :=
  (∀ (s : State) (t : Fin 256) (m : BitVec 16), s.on = true → Gives (.threadHalt t m) s fun u =>
    u.fld (TILE_CTL t) TILE_CTL_THREAD_HALT = m.toNat ∧
    ∀ h, h < 16 → (s.thread t h).ending = false →
      let y := s.thread t h
      let z := u.thread t h
      (m.getLsbD h = true → y.st = .run → z.st = .halted ∧ z.resume = .run ∧ z.pc = y.pc) ∧
      (m.getLsbD h = true → y.st = .wait → z.st = .halted ∧ z.resume = .wait ∧ z.wait = y.wait ∧ z.pc = y.pc) ∧
      (m.getLsbD h = false → y.st = .halted → y.resume = .run → z.st = .run ∧ z.pc = y.pc) ∧
      (m.getLsbD h = false → y.st = .run → z.st = .run ∧ z.pc = y.pc) ∧
      (y.st = .stopped → z.st = .stopped ∧ z.pc = y.pc)) ∧
  (∀ (s : State) (t : Fin 256) (off : BitVec 16), s.on = true → s.crossed 2 = false → 0x8000 ≤ off.toNat → off.toNat % 8 = 0 →
    s.fld (TILE_DBG_SEL t) TILE_DBG_SEL_KIND = 0 →
    let i := s.fld (TILE_DBG_SEL t) TILE_DBG_SEL_INDEX
    let y := s.thread t i
    let reads (v : Option Word) := exec (.debugWindowRead t off) s =
      .next (s.putOut (s.out ++ [.read (0x101000000 + 0x10000 * t + off.toNat) v]))
    i < 16 →
      ((y.st = .halted ∨ y.st = .stopped) → (off.toNat < 0x8100 → reads (some (y.getS ((off.toNat - 0x8000) / 8)))) ∧
        (0x8200 ≤ off.toNat → off.toNat < 0xA200 → reads (some (BitVec.ofNat 64
          ((y.getV ((off.toNat - 0x8200) / 256)).toNat / 2 ^ (8 * ((off.toNat - 0x8200) % 256))))))) ∧
      (y.st = .run → reads none))

/-- Requests served by the owner of an address (R142, R144, R304, Table 7-20): a load that a window allows returns the bytes,
a store writes the bytes its mask selects and no other, an atomic gives the old word; a request whose context is not open
with its generation is answered CLOSED and changes no byte. A response returns (R139, R143, R202): a load gives its register
the value and makes it valid, an atomic the old word, a stream line written or acknowledged takes one off the completion
counter; the request, a store's as well, is outstanding no more. The channel of the response cells, 10, is the model's choice
(log entry 14). -/
def Obligations.RequestsAndResponses : Prop :=
  (∀ (s : State) (r : Request), s.on = true →
    let answers (u : State) (input : Nat) (st : RspStatus) (v : Nat) := Table.get [] u.xin input =
      Table.get [] s.xin input ++ [(10, .rsp ⟨r.tile, r.thread, r.tag, st, BitVec.ofNat 512 v⟩)]
    let served (i : Instr) (input : Nat) :=
      (s.refuses r = none → ∀ n, r.kind = .load n → s.poisoned r.addr n = false → Gives i s fun u =>
        answers u input .ok (s.load r.addr n) ∧ ∀ b, Memory.read u.mem b = Memory.read s.mem b) ∧
      (s.refuses r = none → ∀ m l, r.kind = .store m l → r.addr % 64 = 0 → s.poisoned r.addr 64 = false → Gives i s fun u =>
        answers u input .ok 0 ∧ (∀ k < 64, Memory.read u.mem (r.addr + k) =
          if m.getLsbD k then BitVec.ofNat 8 (l.toNat / 2 ^ (8 * k)) else Memory.read s.mem (r.addr + k)) ∧
        ∀ b, b < r.addr ∨ r.addr + 64 ≤ b → Memory.read u.mem b = Memory.read s.mem b) ∧
      (s.ctxOpen r.ctx = false ∨ s.genOf r.ctx ≠ r.gen → Gives i s fun u => answers u input .closed 0 ∧
        ∀ b, Memory.read u.mem b = Memory.read s.mem b)
    let added (i : Instr) (input : Nat) := s.refuses r = none → ∀ b c, r.kind = .atomic 0 true false b c →
      s.poisoned r.addr 8 = false → Gives i s fun u => answers u input .ok (s.load r.addr 8) ∧
        u.load r.addr 8 = (s.load r.addr 8 + b.toNat) % 2 ^ 64 ∧
        ∀ k, k < r.addr ∨ r.addr + 8 ≤ k → Memory.read u.mem k = Memory.read s.mem k
    (∀ t : Fin 256, s.agentOf r.addr = .tile t → firstOf (s.tile t).inbox r = true → s.Calm t →
      served (.tileRequestServe t r) (1025 + t) ∧ added (.tileRequestServe t r) (1025 + t)) ∧
    (∀ m : Fin 16, s.agentOf r.addr = .mport m → firstOf (s.inbox m) r = true → s.safe = false →
      s.mustWait r.addr (reqSize r.kind) = false →
      served (.memoryPortRequest m r) (1281 + m) ∧ added (.memoryPortRequest m r) (1281 + m)) ∧
    (0x8E400000 ≤ r.addr → r.addr + 64 ≤ 0xB0000000 → firstOf (s.inbox 16) r = true →
      (∀ f wd un b c, r.kind ≠ .atomic f wd un b c) →
      served (.mgmtPortRequest r) 1297)) ∧
  (∀ (s : State) (t : Fin 256) (r : Response) (o : Outst), s.on = true → .rsp r ∈ (s.tile t).inbox →
    o ∈ (s.tile t).outst → o.tag = r.tag →
    o.thread = r.thread → (∀ q ∈ (s.tile t).outst, q.tag = r.tag → q = o) → r.status = .ok →
    (s.thread t o.thread).st = .run → (s.thread t o.thread).ending = false →
      (∀ d size sx, o.want = .scalar d size sx → 1 ≤ d → d < 32 → (size = 8 ∨ size = 16 ∨ size = 32 ∨ size = 64) →
        (s.thread t o.thread).busyS = [d] → Gives (.loadResponse t r) s fun u =>
          (u.thread t o.thread).getS d = (if sx then BitVec.ofInt 64 (BitVec.ofNat size r.data.toNat).toInt
            else BitVec.ofNat 64 (r.data.toNat % 2 ^ size)) ∧ (u.thread t o.thread).busyS = [] ∧ o ∉ (u.tile t).outst) ∧
      (∀ d wide, o.want = .atomic d wide → 1 ≤ d → d < 32 → (s.thread t o.thread).busyS = [d] →
        Gives (.loadResponse t r) s fun u => (u.thread t o.thread).getS d =
          BitVec.ofNat 64 (r.data.toNat % 2 ^ (if wide then 64 else 32)) ∧ (u.thread t o.thread).busyS = [] ∧
          o ∉ (u.tile t).outst) ∧
      (o.want = .store → Gives (.loadResponse t r) s fun u => o ∉ (u.tile t).outst) ∧
      (∀ id q, o.want = .streamOut id → (s.tile t).streams = [q] → q.id = id → q.issued = q.lines → q.completed < q.lines →
        1 ≤ (s.tile t).ccGet q.cc → (s.tile t).ccGet q.cc < 2 ^ 32 → Gives (.streamLineComplete t r) s fun u =>
          (u.tile t).ccGet q.cc = (s.tile t).ccGet q.cc - 1 ∧ o ∉ (u.tile t).outst ∧
          (q.completed + 1 = q.lines → (u.tile t).streams = [])) ∧
      (∀ id a q, o.want = .streamIn id a → (s.tile t).streams = [q] → q.id = id → q.issued = q.lines →
        q.completed < q.lines → 1 ≤ (s.tile t).ccGet q.cc → (s.tile t).ccGet q.cc < 2 ^ 32 →
        (∀ k, (s.thread t k).st ≠ .wait) → Gives (.streamLineComplete t r) s fun u =>
          (u.tile t).ccGet q.cc = (s.tile t).ccGet q.cc - 1 ∧ o ∉ (u.tile t).outst ∧ (∀ i < 64, Memory.read u.mem (a + i) =
            BitVec.ofNat 8 (r.data.toNat / 2 ^ (8 * i))) ∧
          ∀ b, b < a ∨ a + 64 ≤ b → Memory.read u.mem b = Memory.read s.mem b))

/-- Faults at issue (R169, R172, R174, R200, R201): a word with a bit set outside its fields, a misaligned access, an address
above 48 bits, a barrier mask without its own thread, an accumulator tile that the thread does not own. The thread is STOPPED
at its instruction, no register of it changes, and TILE_FAULT takes the cause and the thread unless it holds an earlier
fault; of the faults of one core cycle it holds that of the lowest-numbered thread (R203), and OVF is set. -/
def Obligations.FaultsAtIssue : Prop :=
  ∀ (s : State) (t : Fin 256) (h : Fin 16) (w : BitVec 56), s.Ready t h →
    s.Valid t h [fD w.toNat, fA w.toNat] [] →
    let n := w.toNat
    let y := s.thread t h
    let a := (y.getS (fA n) + BitVec.ofInt 64 (if bitOf n 33 then (n % 2 ^ 34 : Int) - 2 ^ 34 else (n % 2 ^ 34 : Int))).toNat
    let faults (i : Instr) (cause : Nat) := Gives i s fun u => (u.thread t h).st = .stopped ∧ s.GotNone u t h y.pc ∧
      (s.bit (TILE_FAULT t) TILE_FAULT_VALID = false → u.bit (TILE_FAULT t) TILE_FAULT_VALID = true ∧
        u.fld (TILE_FAULT t) TILE_FAULT_CAUSE = cause ∧ u.fld (TILE_FAULT t) TILE_FAULT_THREAD = h ∧
        u.rd (TILE_FAULT_PC t) = y.pc) ∧
      let now := (s.tile t).faultAt = s.cycle ∧ h < s.fld (TILE_FAULT t) TILE_FAULT_THREAD
      (s.bit (TILE_FAULT t) TILE_FAULT_VALID = true → u.bit (TILE_FAULT t) TILE_FAULT_OVF = true ∧
        (now → u.fld (TILE_FAULT t) TILE_FAULT_CAUSE = cause ∧ u.fld (TILE_FAULT t) TILE_FAULT_THREAD = h ∧
          u.rd (TILE_FAULT_PC t) = y.pc) ∧
        (¬ now → u.fld (TILE_FAULT t) TILE_FAULT_CAUSE = s.fld (TILE_FAULT t) TILE_FAULT_CAUSE ∧
          u.rd (TILE_FAULT_PC t) = s.rd (TILE_FAULT_PC t)))
    (onlyUses n (useD ||| useA ||| useB) = false → faults (.iAdd t h w) 0x01 ∧ faults (.iSltu t h w) 0x01) ∧
    (onlyUses n (useD ||| useA ||| useIMM34 ||| useMOD) = true →
      (fMOD n ≤ 6 → a % 2 ^ (fMOD n % 4) ≠ 0 → faults (.iLd t h w) 0x03) ∧
      (fMOD n ≤ 3 → a % 2 ^ (fMOD n % 4) ≠ 0 → faults (.iSt t h w) 0x03) ∧
      (fMOD n ≤ 6 → a % 2 ^ (fMOD n % 4) = 0 → 2 ^ 48 ≤ a → faults (.iLd t h w) 0x04)) ∧
    (onlyUses n useA = true → (y.getS (fA n)).getLsbD h = false → faults (.iTbar t h w) 0x07) ∧
    (onlyUses n (useD ||| useMOD) = true → fMOD n ≤ 1 →
      (((s.tile t).acc (fD n)).owner ≠ some h.val ∨ ((s.tile t).acc (fD n)).releasing = true) → faults (.iDrain t h w) 0x20)

/-- Operands of acq and rel (R192): D holds I and A holds J; J less than I raises cause 0x01. The thread then waits until the
tiles aI..aJ can be bound or unbound, which ACQ_BIND and REL_UNBIND do (R153, R154): that it waits at issue even where they
could be at once is the model's choice (log entry 18). -/
def Obligations.AcqRelOperands : Prop :=
  ∀ (s : State) (t : Fin 256) (h : Fin 16) (w : BitVec 56), s.Ready t h →
    let n := w.toNat
    let y := s.thread t h
    let waits (i : Instr) (k : Wait) := Gives i s fun u => (u.thread t h).st = .wait ∧ (u.thread t h).wait = k
    let illegal (i : Instr) := Gives i s fun u => (u.thread t h).st = .stopped ∧ s.GotNone u t h y.pc ∧
      (s.bit (TILE_FAULT t) TILE_FAULT_VALID = false → u.bit (TILE_FAULT t) TILE_FAULT_VALID = true ∧
        u.fld (TILE_FAULT t) TILE_FAULT_CAUSE = 0x01)
    (s.Calm t → onlyUses n (useD ||| useA) = true → fD n ≤ fA n → waits (.iAcq t h w) (.acq (fD n) (fA n)) ∧
      ((∀ j, fD n ≤ j → j ≤ fA n → ((s.tile t).acc j).owner = some h.val ∧ ((s.tile t).acc j).releasing = false) →
        waits (.iRel t h w) (.rel (fD n) (fA n)))) ∧
    (fA n < fD n → illegal (.iAcq t h w) ∧ illegal (.iRel t h w))

/-- The frame of the instructions that only compute (R139, R176, R177, R183): scalar arithmetic, branches, integer vector and
mask instructions. In a calm tile they change no byte of memory, no output, no register of the control region, no other tile
and no other thread of theirs, no completion counter, no accumulator, no entry of the tailwater queue and no request. -/
def Obligations.ComputeFrame : Prop :=
  ∀ (s : State) (t : Fin 256) (h : Fin 16) (w : BitVec 56), s.Ready t h → s.Calm t →
    s.Valid t h [fD w.toNat, fA w.toNat, fB w.toNat, fC w.toNat] [fD w.toNat, fA w.toNat, fB w.toNat] →
    let n := w.toNat
    let y := s.thread t h
    let keeps (i : Instr) := Gives i s fun u => (∀ a, Memory.read u.mem a = Memory.read s.mem a) ∧ u.regs = s.regs ∧
      u.out = s.out ∧ u.xin = s.xin ∧ u.slots = s.slots ∧ u.ports = s.ports ∧ u.wb = s.wb ∧
      (∀ k, k ≠ t.val → u.tile k = s.tile k) ∧ (∀ k, k ≠ h.val → u.thread t k = s.thread t k) ∧
      (u.tile t).cc = (s.tile t).cc ∧ (u.tile t).outst = (s.tile t).outst ∧ (u.tile t).entries = (s.tile t).entries ∧
      (u.tile t).mmaQ = (s.tile t).mmaQ ∧ (u.tile t).mma = (s.tile t).mma ∧ (u.tile t).cq = (s.tile t).cq ∧
      (∀ k, ((u.tile t).acc k).data = ((s.tile t).acc k).data ∧ ((u.tile t).acc k).offset = ((s.tile t).acc k).offset ∧
        (((s.tile t).acc k).releasing = false → (u.tile t).acc k = (s.tile t).acc k)) ∧
      (∀ q, q.discard = false → (q ∈ (u.tile t).tq ↔ q ∈ (s.tile t).tq))
    let off : Word := 8 * BitVec.ofInt 64 (if bitOf n 32 then (n % 2 ^ 33 : Int) - 2 ^ 33 else (n % 2 ^ 33 : Int))
    let inside (p : Word) := ownRange t p.toNat 8 = true ∧ p.toNat % 8 = 0
    let type := fMOD n < 16 ∧ fMOD n % 8 < 6
    inside (y.pc + 8) →
      (onlyUses n (useD ||| useA ||| useB) = true → keeps (.iAdd t h w) ∧ keeps (.iSub t h w) ∧ keeps (.iAnd t h w) ∧
        keeps (.iOr t h w) ∧ keeps (.iXor t h w) ∧ keeps (.iShl t h w) ∧ keeps (.iShr t h w) ∧ keeps (.iSra t h w) ∧
        keeps (.iMul t h w) ∧ keeps (.iSlt t h w) ∧ keeps (.iSltu t h w) ∧ keeps (.iSeq t h w)) ∧
      (onlyUses n (useD ||| useA ||| useB ||| useC) = true → keeps (.iSel t h w)) ∧
      (onlyUses n (useD ||| useA ||| useB ||| useMOD) = true → (fMOD n ≤ 1 → keeps (.iMulh t h w)) ∧
        (fMOD n ≤ 3 → keeps (.iMinMax t h w))) ∧
      (onlyUses n (useD ||| useA ||| useIMM38) = true → keeps (.iAddi t h w) ∧ keeps (.iAndi t h w) ∧ keeps (.iOri t h w) ∧
        keeps (.iXori t h w) ∧ keeps (.iShli t h w) ∧ keeps (.iShri t h w) ∧ keeps (.iSrai t h w) ∧ keeps (.iMuli t h w) ∧
        keeps (.iSlti t h w) ∧ keeps (.iSltiu t h w) ∧ keeps (.iSeqi t h w)) ∧
      (onlyUses n (useD ||| useIMM43) = true → keeps (.iLi t h w)) ∧ (n = 0 → keeps (.iNop t h w)) ∧
      (onlyUses n (useD ||| (2 ^ 21 - 1)) = true → keeps (.iLih t h w)) ∧
      (onlyUses n (useD ||| useA ||| useMOD) = true → fMOD n ≤ 2 → keeps (.iClzCtzPopc t h w)) ∧
      (onlyUses n (useA ||| useB ||| useOFF33) = true → inside (y.pc + off) → keeps (.iBeq t h w) ∧ keeps (.iBne t h w) ∧
        keeps (.iBlt t h w) ∧ keeps (.iBge t h w) ∧ keeps (.iBltu t h w) ∧ keeps (.iBgeu t h w)) ∧
      (onlyUses n (useD ||| useOFF33) = true → inside (y.pc + off) → keeps (.iJal t h w)) ∧
      (onlyUses n (useD ||| useA ||| useOFF33) = true → inside (y.getS (fA n) + off) → keeps (.iJr t h w)) ∧
      (type → onlyUses n (useD ||| useA ||| useB ||| useMask ||| useMOD) = true →
        keeps (.iVadd t h w) ∧ keeps (.iVsub t h w) ∧ keeps (.iVmul t h w) ∧ keeps (.iVmin t h w) ∧ keeps (.iVmax t h w) ∧
        keeps (.iVand t h w) ∧ keeps (.iVor t h w) ∧ keeps (.iVxor t h w) ∧ keeps (.iVshl t h w) ∧ keeps (.iVshr t h w)) ∧
      (type → onlyUses n (useD ||| useA ||| useB ||| useMK ||| useMOD) = true → keeps (.iVsel t h w)) ∧
      (type → onlyUses n (useD ||| useA ||| useMask ||| useMOD) = true → keeps (.iVbcast t h w)) ∧
      (type → onlyUses n (useD ||| useA ||| useB ||| useMOD) = true → keeps (.iVext t h w)) ∧
      (type → onlyUses n (useD ||| useA ||| useB ||| useMask ||| useMOD ||| useEXT) = true → fD n < 8 → fEXT n ≤ 3 →
        keeps (.iVcmp t h w)) ∧
      (onlyUses n (useD ||| useA ||| useB ||| useMOD) = true → fD n < 8 → fA n < 8 → fB n < 8 →
        (fMOD n = 0 → keeps (.iMand t h w)) ∧ (fMOD n = 1 → keeps (.iMor t h w)) ∧ (fMOD n = 2 → keeps (.iMxor t h w))) ∧
      (onlyUses n (useD ||| useA ||| useMOD) = true → fA n < 8 → (fMOD n = 3 → fD n < 8 → keeps (.iMnot t h w)) ∧
        (fMOD n = 4 → keeps (.iMpop t h w))) ∧
      (onlyUses n (useD ||| useA ||| useMOD ||| (3 <<< 16)) = true → (fMOD n = 5 → fD n < 8 → keeps (.iMins t h w)) ∧
        (fMOD n = 6 → fA n < 8 → keeps (.iMext t h w)))

/-! ### Lanes and links -/

/-- A link that is not DOWN goes DOWN with the reason of Table 12-4 (R330): PORT_DOWN with the reason given, ENABLE written
0 with 1, LOOP written with another value with 7, RETRAIN with 8, a replay whose attempt 7 failed with 5, a narrowing that
failed with 9, the eighth uncorrectable codeword in a row with 4; a port that is DOWN stays as it is at a PORT_DOWN. Where
the rules leave a choice the clauses state the model's: log entry 43. -/
def Obligations.LinkDown : Prop :=
  ∀ (s : State) (p : Fin 1024), s.on = true →
    let down (c : Instr) (reason : Nat) := Gives c s fun u => u.linkState p = linkDown ∧
      u.fld (PORT_LINK_STAT p) PORT_LINK_STAT_DOWN_REASON = reason
    (s.linkState p = linkDown → ∀ r, exec (.portDown p r) s = .next s) ∧
    (s.linkState p ≠ linkDown → (∀ r, down (.portDown p r) r.toNat) ∧ down (.retrain p) 8 ∧
      (Gives (.enable p false) s fun u => u.linkState p = linkDown ∧ u.enabled p = false ∧
        u.fld (PORT_LINK_STAT p) PORT_LINK_STAT_DOWN_REASON = 1) ∧
      (∀ v : BitVec 2, s.loopOf p ≠ v.toNat → Gives (.loop p v) s fun u => u.linkState p = linkDown ∧ u.loopOf p = v.toNat ∧
        u.fld (PORT_LINK_STAT p) PORT_LINK_STAT_DOWN_REASON = 7) ∧
      (∀ n, s.carries p = true → (s.port p).asked = some (7, n) → down (.replayTmo p) 5) ∧
      ((s.port p).narrowing.isSome = true → down (.narrowFail p) 9) ∧
      (∀ w, s.carries p = true → s.lineOn p = true → s.nearLoop p = false → s.loopOf p ≠ 3 → w.uncorrectable = true →
        7 ≤ (s.port p).badRun → down (.codewordReceive p w) 4))

/-- Training (R320, R325-R328, R343): ENABLE written 1, or the end of the drain, takes a port that nothing keeps DOWN to
TRAINING at its lane-map width, and so does the power of its octet, whose chiplet is ON (R413); TRAIN_TMO without lock and
with no lane locked starts it over; a block whose marker is not found loses the lane's lock, and one whose marker is found,
as sent or inverted, gives the lane its logical number and its polarity; a write to the timers of a port that is not DOWN is
ignored with a class N event. Lane detectors (R14, R329, R331, R416, R420): LOS and LOL of a lane that has power show in the
lane's status and stay seen, and of any other lane do nothing; with its last locked lane an octet's clock stops; a signal
clears LOS; a 1 ms window within LANE_SER_LIMIT starts the next one; once narrowing has locked at the sub-width and the
peer's markers name the codeword, the link is DEGRADED at that width; the octet runs on the fastest locked lane. Where the
rules leave a choice the clauses state the model's: log entry 43. -/
def Obligations.LinkTrainingAndLanes : Prop :=
  (∀ (s : State) (p : Fin 1024), s.on = true → (s.laneRec p).isSome = true → s.loopOf p ≠ 3 → (s.port p).powered = true →
    let trains (u : State) := u.linkState p = linkTraining ∧ u.width p = u.widthMap p ∧ (u.port p).laneLock = [] ∧
      (u.port p).trainLanes = List.range (u.widthMap p) ∧ u.failedLanes p = 0
    (s.linkState p = linkDown → (s.port p).draining = false →
      Gives (.enable p true) s fun u => trains u ∧ u.enabled p = true) ∧
    (s.linkState p = linkDown → s.enabled p = true → Gives (.portDrainComplete p) s trains) ∧
    (s.linkState p = linkTraining → s.locked p = false → (∀ i, ((s.port p).mark i).count < 3) →
      Gives (.trainTmo p) s trains) ∧
    (∀ (i : Fin 8) (m : BitVec 128) (d : BitVec 5312), s.linkState p = linkTraining → s.nearLoop p = false →
      (s.port p).narrowing = none → i.val < s.widthMap p →
      let raw := m.toNat / 2 ^ 64
      let sync := 0x5A3C96F00F69C3A5
      let found (k : Nat) (inverted : Bool) := bitOf k 38 = false → (s.port p).rxSwitched = false →
        Gives (.trainingBlockReceive p i ⟨m, d⟩) s fun u =>
          u.fld (laneStat (p + i)) OCT_LANE_STAT_LOGICAL = bitsOf k 56 3 ∧
          ((u.port p).mark i).count = ((s.port p).mark i).count + 1 ∧
          u.bit (laneStat (p + i)) OCT_LANE_STAT_INVERTED = inverted ∧ u.linkState p = linkTraining
      (raw ≠ sync → raw ≠ 2 ^ 64 - 1 - sync → s.portOfLane (p + i) = some (p.val, i.val) →
        Gives (.trainingBlockReceive p i ⟨m, d⟩) s fun u => i.val ∉ (u.port p).laneLock ∧
          u.bit (laneStat (p + i)) OCT_LANE_STAT_MARKER_LOCK = false) ∧
      (raw = sync → found m.toNat false) ∧
      (raw = 2 ^ 64 - 1 - sync → found (2 ^ 128 - 1 - m.toNat) true)) ∧
    (∀ v : Word, s.linkState p ≠ linkDown → bitsOf v.toNat 16 48 ≠ bitsOf (s.rd (PORT_LINK_CTL p)).toNat 16 48 →
      Gives (.linkCtlIgnored p v) s fun u => u.rd (PORT_LINK_CTL p) = s.rd (PORT_LINK_CTL p) ∧
        u.rd SPW_EVENTS = s.rd SPW_EVENTS + 1) ∧
    (∀ v : Word, s.linkState p = linkDown → Gives (.linkCtlIgnored p v) s fun u =>
      bitsOf (u.rd (PORT_LINK_CTL p)).toNat 16 48 = bitsOf v.toNat 16 48 ∧
      u.bit (PORT_LINK_CTL p) PORT_LINK_CTL_NARROW_EN = bitOf v.toNat 4 ∧ u.enabled p = s.enabled p ∧
        u.loopOf p = s.loopOf p)) ∧
  (∀ (s : State) (o : Nat), s.on = true →
    (lowest 128 fun o => !bitOf s.power.octetsOn o && !s.power.octetsDead.contains o &&
        s.fld (PWR_DOMAIN (8 + o / 16)) PWR_DOMAIN_STATE == 2 && s.laneMap.any fun r => r.port / 8 == o) = some o →
      Gives .octetPowerOn s fun u => bitOf u.power.octetsOn o = true ∧ ∀ r ∈ s.laneMap, r.port / 8 = o →
        (u.port r.port).powered = true ∧
        (s.linkState r.port = linkDown → (s.port r.port).draining = false → s.enabled r.port = true → s.loopOf r.port ≠ 3 →
          u.linkState r.port = linkTraining)) ∧
  (∀ (s : State) (l : Fin 1024), s.on = true →
    (s.laneOn l = false → exec (.los l) s = .next s ∧ exec (.lol l) s = .next s ∧ exec (.signalDetect l) s = .next s) ∧
    (∀ p i, s.laneOn l = true → s.portOfLane l = some (p, i) →
      (s.carries p = false → s.loopOf p ≠ 2 →
        (Gives (.los l) s fun u => u.bit (laneStat l) OCT_LANE_STAT_LOS = true ∧
          u.bit (laneStat l) OCT_LANE_STAT_MARKER_LOCK = false ∧
          u.bit (OCT_LANE_FLAGS (l / 8) (l % 8)) OCT_LANE_FLAGS_LOS_SEEN = true ∧ u.mem = s.mem) ∧
        (Gives (.lol l) s fun u => u.bit (laneStat l) OCT_LANE_STAT_LOL = true ∧
          u.bit (laneStat l) OCT_LANE_STAT_MARKER_LOCK = false ∧
          u.bit (OCT_LANE_FLAGS (l / 8) (l % 8)) OCT_LANE_FLAGS_LOL_SEEN = true ∧ u.mem = s.mem ∧
          ((∀ j < 8, s.laneOn (8 * (l / 8) + j) = true → j ≠ l.val % 8 →
              s.bit (OCT_LANE_STAT (l / 8) j) OCT_LANE_STAT_LOL = true) →
            Table.look u.power.octetLane (l.val / 8) = none ∧ u.fld (CDC_STATE (0x40 + l / 8)) CDC_STATE_STATE ≠ 0))) ∧
      (s.live p = true → s.bit (PORT_LINK_CTL p) PORT_LINK_CTL_NARROW_EN = false →
        (s.lanesNow p).contains ((s.port p).carried i) = true → s.loopOf p ≠ 2 →
        (Gives (.los l) s fun u => u.linkState p = linkDown ∧ u.fld (PORT_LINK_STAT p) PORT_LINK_STAT_DOWN_REASON = 2) ∧
        (Gives (.lol l) s fun u => u.linkState p = linkDown ∧ u.fld (PORT_LINK_STAT p) PORT_LINK_STAT_DOWN_REASON = 3))) ∧
    (s.laneOn l = true → Gives (.signalDetect l) s fun u => u.bit (laneStat l) OCT_LANE_STAT_LOS = false ∧ u.mem = s.mem ∧
      ∀ r, r ≠ laneStat l → u.rd r = s.rd r) ∧
    (∀ p i, s.portOfLane l = some (p, i) →
      Table.get 0 (s.port p).serWindow i ≤ s.fld (OCT_CFG (l / 8)) OCT_CFG_LANE_SER_LIMIT →
        Gives (.laneSerWindow l) s fun u => Table.get 0 (u.port p).serWindow i = 0 ∧ u.regs = s.regs ∧ u.mem = s.mem) ∧
    (∀ (p : Fin 1024) (n : BitVec 11) (k : List Nat), (s.port p).narrowing = some k →
      ((s.locked p = false ∨ (s.port p).peerNext ≠ some n.toNat) → exec (.narrowResume p n) s = .next s) ∧
      (s.locked p = true → (s.port p).peerNext = some n.toNat → k.length < 16 → n.toNat = (s.port p).txNum % 2048 →
        Gives (.narrowResume p n) s fun u =>
          u.linkState p = linkDegraded ∧ u.width p = k.length ∧ (u.port p).narrowing = none ∧
          (u.port p).replaying = none)) ∧
    (∀ (o : Fin 128), (∀ j : Fin 8, Gives (.octetClockRechoose o (some j)) s fun u =>
        Table.look u.power.octetLane o.val = some j.val ∧ u.fld (CDC_STATE (0x40 + o)) CDC_STATE_STATE ≠ 1) ∧
      (Gives (.octetClockRechoose o none) s fun u => Table.look u.power.octetLane o.val = none ∧
        u.fld (CDC_STATE (0x40 + o)) CDC_STATE_STATE ≠ 0) ∧
      (Gives (.octetFault o) s fun u => ∀ j < 8, u.linkState (8 * o + j) = linkDown)))

/-- Hellos (R27, R72, R73, R328, R335-R337): four cells go out at HELLO_SEND, but in the safe state; a whole hello with a
known nonce waits for its checks, one that is not whole is counted, and one with a bad HCRC is counted as such a header is.
HELLO_TMO ends in QUARANTINED with reason 9, a hello whose signature fails in QUARANTINED with reason 5; one that does not
answer this port's nonce is recorded and waits; one that passes every check takes the link to UP at the lane-map width, else
to DEGRADED, with LINK_REV the lower of the two revisions and each channel's credit its grant less the cells carried over.
SWITCH_ID (R65): written while no port carries codewords; else the register keeps its value and the attempt is a class N
event. Where the rules leave a choice the clauses state the model's: log entry 43. -/
def Obligations.LinkHello : Prop :=
  (∀ (s : State) (p : Fin 1024), s.on = true → s.linkState p = linkHello →
    (s.idFail = false → s.egressBlocked = false → s.crossed (0x40 + p / 8) = false → Gives (.helloSend p) s fun u =>
      (u.port p).txBits.2 = (s.port p).txBits.2 + 2560 ∧ u.linkState p = linkHello ∧ ∀ q, q ≠ p.val → u.port q = s.port q) ∧
    (s.egressBlocked = true → exec (.helloSend p) s = .next s) ∧
    (∀ l, (∀ c ∈ l, hcrcOk c.h = true) → helloWhole l = false → Gives (.helloReceive p l) s fun u =>
      u.rd (PORT_HELLO_BAD p) = s.rd (PORT_HELLO_BAD p) + 1 ∧ (u.port p).hellos = (s.port p).hellos) ∧
    (∀ l, (∃ c ∈ l, hcrcOk c.h = false) → ((s.port p).asked.isSome = true ∨ (s.port p).replayed = none) →
      Gives (.helloReceive p l) s fun u => u.rd (PORT_HCRC_ERR p) = s.rd (PORT_HCRC_ERR p) + 1 ∧
        u.rd (PORT_HELLO_BAD p) = s.rd (PORT_HELLO_BAD p) ∧ (u.port p).hellos = (s.port p).hellos ∧
        (u.port p).asked.isSome = true) ∧
    (∀ l, (∀ c ∈ l, hcrcOk c.h = true) → helloWhole l = true →
      BitVec.ofNat 64 (payNum (helloPay l 0) 24 8) = (s.port p).peerNonce →
      Gives (.helloReceive p l) s fun u => (u.port p).hellos = (s.port p).hellos ++ [l] ∧ u.regs = s.regs) ∧
    (Gives (.helloTmo p) s fun u => u.linkState p = linkQuarantined ∧
      u.fld (PORT_LINK_STAT p) PORT_LINK_STAT_Q_REASON = 9) ∧
    (∀ l r, (s.port p).hellos = l :: r →
      let c := helloPay l 0
      let good := ed25519Verify ((payBytes (helloPay l 2)).take 32)
        ((List.range 3).flatMap fun i => payBytes (helloPay l i)) (payBytes (helloPay l 3))
      (good = false → Gives (.helloCheckComplete p) s fun u => u.linkState p = linkQuarantined ∧
        u.fld (PORT_LINK_STAT p) PORT_LINK_STAT_Q_REASON = 5 ∧ u.rd (PORT_HELLO_BAD p) = s.rd (PORT_HELLO_BAD p) + 1 ∧
        (u.port p).hellos = r) ∧
      (good = true → payNum c 4 1 ≠ 0 → BitVec.ofNat 64 (payNum c 32 8) ≠ (s.port p).nonce →
        Gives (.helloCheckComplete p) s fun u => u.linkState p = linkHello ∧ (u.port p).hellos = r ∧
          u.fld (PORT_PEER_SEEN0 p) ⟨0, 17, .ro, 0⟩ = payNum c 0 4 % 2 ^ 17) ∧
      (good = true → payNum c 4 1 ≠ 0 → BitVec.ofNat 64 (payNum c 32 8) = (s.port p).nonce → payNum c 10 1 = 4 →
        max 2 (payNum c 8 1) ≤ min 3 (payNum c 9 1) → bitOf (s.rd (PORT_PEER_EXP0 p)).toNat 63 = false →
        s.rd (PORT_PEER_EXP1 p) = 0 → payNum c 5 1 = s.width p → Gives (.helloCheckComplete p) s fun u =>
          u.linkState p = (if s.width p = s.widthMap p then linkUp else linkDegraded) ∧
          u.fld (PORT_LINK_STAT p) PORT_LINK_STAT_LINK_REV = min 3 (payNum c 9 1) ∧
          u.bit (PORT_LINK_STAT p) PORT_LINK_STAT_REDUCE_OFF = false ∧ (u.port p).hellos = r ∧
          (s.wanted p 0 ≤ s.grantPool → (u.vc p 0).granted = s.wanted p 0) ∧
          ∀ v < 16, ((u.vc p v).granted = s.wanted p v ∨ (u.vc p v).granted = 8) ∧
            (u.vc p v).cred = (u.vc p v).granted - s.reservedUsed p v))) ∧
  (∀ (s : State) (v : Word), s.on = true →
    ((∀ p < 1024, s.carries p = false) → Gives (.switchIdWrite v) s fun u => u.switchId = bitsOf v.toNat 0 12 ∧
      (∀ r, r ≠ ROUTE_SWITCH_ID → u.rd r = s.rd r) ∧ u.mem = s.mem) ∧
    (∀ p < 1024, s.carries p = true → Gives (.switchIdWrite v) s fun u => u.switchId = s.switchId ∧
      u.rd SPW_EVENTS = s.rd SPW_EVENTS + 1))

/-- Codewords (R321, R323, R325, R332, R333): CODEWORD_SEND puts out the next 5,100 bits of the cell stream under the
scrambler with the next number and deals its symbols to the lanes, or, in a replay, the 5,100 bits of a codeword sent
before, as the replay buffer holds them, with its own number; in TRAINING it sends a training block on every lane of the
link, each of which begins with the marker's 64 bits of synchronisation, and on an octet without power nothing; an
uncorrectable codeword asks for a replay from the number that was due, with attempt 0, or, when the replay in progress
brings that codeword, with the next attempt; a correctable one without a link word gives its two channels the credit it
carries; after REPLAY_TMO the next attempt is made. Where the rules leave a choice the clauses state the model's: log
entries 15, 43 and 73. -/
def Obligations.Codewords : Prop :=
  (∀ (s : State) (p : Fin 1024), s.on = true → s.carries p = true → s.nearLoop p = false →
    let x := s.port p
    (x.narrowing = none → s.crossed (0x40 + p / 8) = false → x.replaying = none → 5100 ≤ x.txBits.2 →
      x.txBits.1 < 2 ^ x.txBits.2 → Gives (.codewordSend p) s fun u => ∃ m : BitVec 5140,
        u.out = s.out ++ [.codeword p x.txNum m (s.sentOn p m.toNat)] ∧
        (m.toNat ^^^ (prbsWord x.txPrbs).1) % 2 ^ 5100 = x.txBits.1 / 2 ^ (x.txBits.2 - 5100) ∧
        (u.port p).txNum = x.txNum + 1 ∧ (u.port p).txBits = (x.txBits.1 % 2 ^ (x.txBits.2 - 5100), x.txBits.2 - 5100) ∧
        (u.port p).txPrbs = (prbsWord x.txPrbs).2) ∧
    (∀ k, x.narrowing = none → s.crossed (0x40 + p / 8) = false → x.replaying = some (k + 1) →
      Gives (.codewordSend p) s fun u => ∃ m : BitVec 5140,
        u.out = s.out ++ [.codeword p (x.txNum - (k + 1)) m (s.sentOn p m.toNat)] ∧
        (m.toNat ^^^ (prbsWord x.txPrbs).1) % 2 ^ 5100 = x.replayBuf.getD (x.replayBuf.length - (k + 1)) 0 % 2 ^ 5100 ∧
        (u.port p).txNum = x.txNum ∧ (u.port p).replaying = (if k = 0 then none else some k) ∧
        (u.port p).replayBuf = x.replayBuf) ∧
    (s.loopOf p ≠ 3 → s.lineOn p = true →
      (∀ w, w.uncorrectable = true → x.badRun < 7 → x.asked = none →
        let counts (u : State) := (u.port p).badRun = x.badRun + 1 ∧ (u.port p).rxBits = x.rxBits ∧
          u.rd (PORT_FEC_UNCORR p) = s.rd (PORT_FEC_UNCORR p) + 1 ∧ u.rd (PORT_FEC_CW p) = s.rd (PORT_FEC_CW p) + 1
        (x.replayed = none → Gives (.codewordReceive p w) s fun u =>
          (u.port p).asked = some (0, x.rxNum % 2048) ∧ counts u) ∧
        (∀ a, a < 7 → x.replayed = some (a, x.rxNum % 2048) → Gives (.codewordReceive p w) s fun u =>
          (u.port p).asked = some (a + 1, x.rxNum % 2048) ∧ counts u)) ∧
      (∀ w, w.uncorrectable = false → w.corrected = [] →
        let ctl := (w.msg.toNat ^^^ (prbsWord x.rxPrbs).1) / 2 ^ 5100
        bitsOf ctl 16 4 ≠ bitsOf ctl 36 4 → Gives (.codewordReceive p w) s fun u =>
          (u.vc p (bitsOf ctl 36 4)).peerCred = bitsOf ctl 20 16 ∧ (u.vc p (bitsOf ctl 16 4)).peerCred = bitsOf ctl 0 16 ∧
          (u.port p).badRun = 0 ∧ u.rd (PORT_FEC_CW p) = s.rd (PORT_FEC_CW p) + 1)) ∧
    (∀ k n, x.asked = some (k, n) → k < 7 → Gives (.replayTmo p) s fun u => (u.port p).asked = some (k + 1, n % 2048) ∧
      u.rd (PORT_REPLAY_REQ p) = s.rd (PORT_REPLAY_REQ p) + 1 ∧ u.mem = s.mem)) ∧
  (∀ (s : State) (p : Fin 1024), s.on = true → s.carries p = false → (s.port p).txSwitched = false → s.lineOn p = false →
    exec (.codewordSend p) s = .next s) ∧
  (∀ (s : State) (p : Fin 1024), s.on = true → s.linkState p = linkTraining → s.lineOn p = true → s.nearLoop p = false →
    (s.port p).txSwitched = false → (s.port p).rxSwitched = false →
    (s.lanesNow p).length ≤ 8 → Gives (.codewordSend p) s fun u => u.linkState p = linkTraining ∧ u.mem = s.mem ∧
      ∃ l : List (BitVec 5440), l.length = (s.lanesNow p).length ∧ (∀ b ∈ l, b.toNat / 2 ^ 5376 = syncWord) ∧
        u.out = s.out ++ List.zipWith (fun i b => .block (p + i) b) (s.lanesNow p) l)

/-- CELL_RECEIVE (R27, R33, R34): a header that fails HCRC is counted and asks for a replay from the codeword that holds the
cell's first bit; an illegal type, and any cell while the port is in HELLO,
is counted and discarded; a message cell that passes every check is placed in a slot and linked to the queue of the output
that its PATH names, at the tail where no higher-numbered input linked in the same core cycle (R12), with HP raised by one and,
between two GLOBAL ports, PH set to 1. Where the rules leave a choice the
clauses state the model's: log entries 14, 40 and 43. -/
def Obligations.CellReceive : Prop :=
  ∀ (s : State) (p : Fin 1024) (c : Cell), s.on = true → s.carries p = true → s.crossed (0x40 + p / 8) = false →
    let h := c.h
    let e := hPath h (hHp h)
    (hcrcOk h = false → ((s.port p).asked.isSome = true ∨ (s.port p).replayed = none) → Gives (.cellReceive p c) s fun u =>
      u.rd (PORT_HCRC_ERR p) = s.rd (PORT_HCRC_ERR p) + 1 ∧ u.slots = s.slots ∧ u.queues = s.queues ∧ u.mem = s.mem ∧
      ((s.port p).asked = none → (u.port p).asked = some (0, (5100 * (s.port p).rxNum - (s.port p).rxBits.2 -
        640 * (((s.port p).handedOn.erase c).length + 1)) / 5100 % 2048))) ∧
    (hcrcOk h = true → hType h ≠ 0 → legalType h = false → s.linkState p ≠ linkHello → (s.vc p (hVc h)).excess = 0 →
      Gives (.cellReceive p c) s fun u =>
      u.rd (PORT_HDR_DROP p) = s.rd (PORT_HDR_DROP p) + 1 ∧ (u.vc p (hVc h)).cred = ((s.vc p (hVc h)).cred + 1) % 65536 ∧
      u.slots = s.slots ∧ u.queues = s.queues ∧ u.mem = s.mem) ∧
    (hcrcOk h = true → hType h ≠ 0 → hType h ≠ 13 → s.linkState p = linkHello → Gives (.cellReceive p c) s fun u =>
      u.rd (PORT_HDR_DROP p) = s.rd (PORT_HDR_DROP p) + 1 ∧ u.slots = s.slots ∧ u.queues = s.queues ∧ u.mem = s.mem) ∧
    (hcrcOk h = true → hType h = 1 → legalType h = true → s.live p = true → s.spoofed p h = false → hTc h < 5 →
      s.mirrors = [] → s.bit RSV_SAMPLE_CFG RSV_SAMPLE_CFG_SAMPLE_EN = false → s.routeFails e h = none →
      s.heldCells = [] → s.descUsed ≤ Config.descriptors →
      (∀ o w, ∀ x ∈ s.q o w, x.linked.1 ≠ s.cycle ∨ x.linked.2 ≤ p.val) →
      let glob := s.role p == 2 && s.role e == 2
      let v := 2 * hTc h + if glob then 1 else hPh h
      let h' := putBits h 78 2 ((hHp h + 1) % 4)
      Gives (.cellReceive p c) s fun u =>
        u.q e v = s.q e v ++ [⟨s.freeSlot, sealHdr (if glob then putBits h' 120 1 1 else h'), false, s.cycle, s.role e == 1,
          (s.cycle, p.val)⟩] ∧
        (∃ ch, Table.look u.slots s.freeSlot = some ⟨.cell c, p, hVc h, ch, 1, hCtx h⟩) ∧
        (∀ o w, (o, w) ≠ (e, v) → w < 16 → u.q o w = s.q o w) ∧ u.mem = s.mem)

/-! ### Reservoir, Turnout and Sluice -/

/-- Slots and queues (R68, R69, R74, R87, R10): the slot whose last copy has been read is freed and its credit returns; a
slot with a copy left stays; the first cell an input holds is placed once descriptors suffice; MIR_FLUSH sends a session's
datagram, which leaves when the host link is up; an internal response crosses to its tile's queue on the channel it entered
with. Where the rules leave a choice the clauses state the model's: log entries 14, 60, 65 and 69. -/
def Obligations.SlotsAndQueues : Prop :=
  ∀ s : State, s.on = true →
    (∀ (n : BitVec 22) (x : Slot), Table.look s.slots n.toNat = some x →
      (x.copies ≠ 0 → exec (.slotFree n) s = .next s) ∧
      (x.copies = 0 → x.charge = .reserved → s.live x.input = true → (s.vc x.input x.vc).excess = 0 →
        Gives (.slotFree n) s fun u =>
        Table.look u.slots n.toNat = none ∧ (u.vc x.input x.vc).cred = ((s.vc x.input x.vc).cred + 1) % 65536 ∧
        (∀ m, m ≠ n.toNat → Table.look u.slots m = Table.look s.slots m) ∧ u.mem = s.mem ∧ u.regs = s.regs) ∧
      (x.copies = 0 → (x.charge = .shared ∨ x.charge = .internal ∨ x.charge = .mirror) → Gives (.slotFree n) s fun u =>
        Table.look u.slots n.toNat = none ∧ u.ports = s.ports)) ∧
    (∀ (i : Fin 1298) (x : HeldCell) (l : List HeldCell), s.heldCells = x :: l → x.input = i.val → x.vc < 16 →
      (∀ y ∈ l, y.input ≠ i.val) → s.descUsed + (x.copies.length - 1) ≤ Config.descriptors →
      Gives (.turnoutReplicate i) s fun u => u.heldCells = l ∧
        ∃ ch, Table.look u.slots s.freeSlot = some ⟨x.item, x.input, x.vc, ch, x.copies.length, x.ctx⟩) ∧
    (∀ k : Fin 16, (s.mirror k).records ≠ [] → Gives (.mirFlush k) s fun u => (u.mirror k).records = [] ∧
      (u.mirror k).dgramSeq = (s.mirror k).dgramSeq + 1 ∧ u.out.length = s.out.length + (if s.hostLink then 1 else 0) ∧
      u.slots = s.slots ∧ u.mem = s.mem) ∧
    (∀ (i : Nat) (v : Nat) (r : Response), 1024 ≤ i → i < 1298 → Table.get [] s.xin i = [(v, .rsp r)] →
      (∀ j, 1024 ≤ j → j < 1298 → j ≠ i → Table.get [] s.xin j = []) → s.charged i v < 64 → v < 16 →
      s.heldCells = [] → s.descUsed ≤ Config.descriptors →
      (∀ x ∈ s.q (1025 + r.tile) v, x.linked.1 ≠ s.cycle ∨ x.linked.2 ≤ i) →
      Gives .crossbarTransfer s fun u => Table.get [] u.xin i = [] ∧ u.xinLast = i ∧
        u.q (1025 + r.tile) v = s.q (1025 + r.tile) v ++ [⟨s.freeSlot, 0, false, s.cycle, false, (s.cycle, i)⟩] ∧
        Table.look u.slots s.freeSlot = some ⟨.rsp r, i, v, .internal, 1, (s.tile r.tile).ctx⟩ ∧ u.mem = s.mem)

/-- Selection at an output (R29, R70, R84, R91, R93, R96): in the safe state a fence idle goes out, with nothing to send an
idle cell, else the head of the lowest eligible strict-priority channel; the queue moves up, the channel's count of cells
sent rises. At a tile's output the head goes to the tile's inbox, but a cell for the Weir stays in its queue and is offered;
the host's output with nothing else to send reads the first copy of its mirror queue into the datagram of its session. Where
the rules leave a choice the clauses state the model's: log entries 68 and 71. -/
def Obligations.OutputSelection : Prop :=
  ∀ s : State, s.on = true →
    (∀ p : Fin 1024, s.live p = true → s.crossed (0x40 + p / 8) = false →
      (s.egressBlocked = true → Gives (.sluiceSelect p) s fun u => u.out = s.out ++ [.cell p (idleCell true)] ∧
        u.queues = s.queues ∧ u.slots = s.slots ∧ u.mem = s.mem) ∧
      (s.egressBlocked = false → (∀ v < 16, s.q p v = []) → (s.port p).mirrorQ = [] → Gives (.sluiceSelect p) s fun u =>
        u.out = s.out ++ [.cell p (idleCell false)] ∧ u.queues = s.queues ∧ u.slots = s.slots ∧ u.mem = s.mem) ∧
      (∀ v e r x c, s.egressBlocked = false → s.mirrors = [] → v < 16 → s.prio p v = true → s.eligible p v = true →
        (∀ w < v, s.prio p w = true → s.eligible p w = false) → s.q p v = e :: r →
        Table.look s.slots e.slot = some x → x.item = .cell c → Gives (.sluiceSelect p) s fun u =>
          (∃ k : Cell, u.out.getLast? = some (.cell p k) ∧ k.pay = c.pay) ∧
          (u.q p v).map QEntry.slot = r.map QEntry.slot ∧ (u.vc p v).sent = ((s.vc p v).sent + 1) % 65536 ∧
          ∃ y, Table.look u.slots e.slot = some y ∧ y.copies = x.copies - 1)) ∧
    (∀ (t : Fin 256) (v : Nat) (e : QEntry) (r : List QEntry) (i : Item), s.accepts (1025 + t) v = true → v < 16 →
      s.prio (1025 + t) v = true → s.q (1025 + t) v = e :: r → s.headItem (1025 + t) v = some i →
      (∀ w < v, s.prio (1025 + t) w = true → s.q (1025 + t) w = []) →
      (forWeir i = false → Gives (.internalOutputSelect ⟨1 + t, by omega⟩) s fun u =>
        (u.tile t).inbox = (s.tile t).inbox ++ [i] ∧ (u.q (1025 + t) v).map QEntry.slot = r.map QEntry.slot ∧
        u.mem = s.mem ∧ u.regs = s.regs ∧ ∀ k, k ≠ t.val → u.tile k = s.tile k) ∧
      (forWeir i = true → Gives (.internalOutputSelect ⟨1 + t, by omega⟩) s fun u =>
        (u.tile t).offer = some ⟨v, e.slot, false⟩ ∧ u.queues = s.queues ∧ u.slots = s.slots ∧
        (u.tile t).inbox = (s.tile t).inbox ∧ u.mem = s.mem ∧ u.regs = s.regs)) ∧
    (∀ n k head r c, s.egressBlocked = false → s.crossed 1 = false → (∀ v < 16, s.q 1024 v = []) →
      (s.port 1024).mirrorQ = (n, k, head) :: r →
      s.slotItem n = some (.cell c) → (s.mirror k).records.length < 13 → Gives (.internalOutputSelect 0) s fun u =>
        (u.port 1024).mirrorQ = r ∧ (u.mirror k).records = (s.mirror k).records ++ [head ++ c.image] ∧ u.mem = s.mem)

/-- Gate lists (R100-R103): at a boundary CUR_ENTRY names the entry that holds the present phase; an armed bank whose point
has come takes over, its cycle beginning now, and under SW_MODE 1 with it that of every port armed on the same context and
step; ARM is set where the inactive bank opens channels 0-3, 6 and 7, else not;
CANCEL clears ARM and keeps both banks; an entry is written only into the inactive bank of a port that is not armed. -/
def Obligations.GateLists : Prop :=
  ∀ (s : State) (p : Fin 1024), s.on = true →
    let c := PORT_GATE_CTL p
    let keeps (u : State) := u.mem = s.mem ∧ (∀ r, r ≠ c → r ≠ PORT_GATE_BASE p → u.rd r = s.rd r) ∧
      u.fld c PORT_GATE_CTL_SW_CTX = s.fld c PORT_GATE_CTL_SW_CTX
    (let l := s.gateList p (s.gateBank p)
     l ≠ [] → Gives (.gateEntryBoundary p) s fun u => keeps u ∧
        let i := u.fld c PORT_GATE_CTL_CUR_ENTRY
        i < l.length ∧ gateLength (l.take i) ≤ s.gatePhase p l ∧ s.gatePhase p l < gateLength (l.take (i + 1))) ∧
    (s.bit c PORT_GATE_CTL_ARM = true → s.bit c PORT_GATE_CTL_SW_MODE = false →
      (s.rd (PORT_GATE_SWITCH_AT p)).toNat ≤ s.cycle → Gives (.gateSwitchover p) s fun u => keeps u ∧
        u.gateBank p = 1 - s.gateBank p ∧ u.bit c PORT_GATE_CTL_ARM = false ∧ u.fld c PORT_GATE_CTL_CUR_ENTRY = 0 ∧
        u.rd (PORT_GATE_BASE p) = BitVec.ofNat 64 s.cycle) ∧
    (s.bit c PORT_GATE_CTL_ARM = true → s.bit c PORT_GATE_CTL_SW_MODE = true → s.switchReached p = true →
      Gives (.gateSwitchover p) s fun u => u.mem = s.mem ∧ ∀ q < 1024, s.bit (PORT_GATE_CTL q) PORT_GATE_CTL_ARM = true →
        s.bit (PORT_GATE_CTL q) PORT_GATE_CTL_SW_MODE = true →
        s.fld (PORT_GATE_CTL q) PORT_GATE_CTL_SW_CTX = s.fld c PORT_GATE_CTL_SW_CTX →
        (s.rd (PORT_GATE_SWITCH_AT q)).toNat % 2 ^ 32 = (s.rd (PORT_GATE_SWITCH_AT p)).toNat % 2 ^ 32 →
          u.gateBank q = 1 - s.gateBank q ∧ u.bit (PORT_GATE_CTL q) PORT_GATE_CTL_ARM = false) ∧
    (∀ v : Word, s.bit c PORT_GATE_CTL_ARM = false → bitOf v.toNat 8 = false → Gives (.gateArm p v) s fun u =>
      u.bit c PORT_GATE_CTL_ARM = gateListOk (s.gateList p (1 - s.gateBank p)) ∧ u.gateBank p = s.gateBank p ∧
      u.fld c PORT_GATE_CTL_SW_CTX = bitsOf v.toNat 40 12 ∧ u.bit c PORT_GATE_CTL_SW_MODE = bitOf v.toNat 33 ∧
      (bitOf v.toNat 33 = false → gateListOk (s.gateList p (1 - s.gateBank p)) = true →
        (s.rd (PORT_GATE_SWITCH_AT p)).toNat ≤ s.cycle → u.bit c PORT_GATE_CTL_LATE = true)) ∧
    (Gives (.cancel p) s fun u => keeps u ∧ u.bit c PORT_GATE_CTL_ARM = false ∧ u.gateBank p = s.gateBank p ∧
      u.rd (PORT_GATE_BASE p) = s.rd (PORT_GATE_BASE p)) ∧
    (∀ (b : Fin 2) (i : Fin 64) (v : Word),
      (b.val ≠ s.gateBank p → s.bit c PORT_GATE_CTL_ARM = false → Gives (.gateEntryWrite p b i v) s fun u =>
        u.fld (PORT_GATE_ENTRY p b i) PORT_GATE_ENTRY_OPEN = bitsOf v.toNat 16 16 ∧
        u.fld (PORT_GATE_ENTRY p b i) PORT_GATE_ENTRY_DURATION = bitsOf v.toNat 0 16 ∧
        (∀ r, r ≠ PORT_GATE_ENTRY p b i → u.rd r = s.rd r) ∧ u.mem = s.mem) ∧
      (b.val = s.gateBank p ∨ s.bit c PORT_GATE_CTL_ARM = true → Gives (.gateEntryWrite p b i v) s fun u =>
        u.rd (PORT_GATE_ENTRY p b i) = s.rd (PORT_GATE_ENTRY p b i) ∧ u.rd SPW_EVENTS = s.rd SPW_EVENTS + 1))

/-- The calendar, the Headgate and the sampler (R97, R105, R107, R108): the channels filed in a slot become eligible and no
other; RATE is added to every policed bucket up to BURST x 256 and to no other; a sampling period begins with port 0, each
of whose queues counts in its depth bin; CLEAR raises BUSY, and when the clearing is done the histograms and SMP_COUNT are
zero. Pending notices (R57, R60, R61): at the end of a gap a notice with cells pending is sent as one cell of type 12 (path
fail) or 11 (echo) that covers them, and a new gap starts; with none pending the gap is over. The crossbar input at which
notices enter, 1297, is log entry 19. Where the rules leave a choice the clauses state the model's: log entries 41, 42 and
67. -/
def Obligations.ShapingSamplingGaps : Prop :=
  (∀ s : State, s.on = true →
    (∀ n : Fin 4096, Gives (.calendarSlotExpiry n) s fun u => u.regs = s.regs ∧ u.mem = s.mem ∧ ∀ p v,
      u.vc p v = { s.vc p v with filed := if (s.vc p v).filed = some n.val then none else (s.vc p v).filed }) ∧
    ((s.laneMap.map LaneRec.port).Nodup → Gives .headgateRefill s fun u => u.regs = s.regs ∧ u.mem = s.mem ∧
      ∀ r ∈ s.laneMap, ∀ c, c = 5 ∨ c = 6 ∨ c = 7 → u.bucket r.port c =
        if s.bit (PORT_POLICE r.port (c - 5)) PORT_POLICE_POLICED then
          min (256 * s.fld (PORT_POLICE r.port (c - 5)) PORT_POLICE_BURST)
            (s.bucket r.port c + s.fld (PORT_POLICE r.port (c - 5)) PORT_POLICE_RATE)
        else s.bucket r.port c) ∧
    (s.bit SLU_SMP_CFG SLU_SMP_CFG_ENABLE = true →
      s.bit SLU_HIST_CTL SLU_HIST_CTL_BUSY = false → Gives .samplerPeriod s fun u =>
        u.rd SLU_SMP_COUNT = s.rd SLU_SMP_COUNT + 1 ∧ (∀ r, r ≠ SLU_SMP_COUNT → u.rd r = s.rd r) ∧
        u.smpStart = some s.cycle ∧ ((s.laneRec 0).isSome = true → ∀ v < 16,
          let a := (s.rd SLU_HIST_BASE).toNat + 128 * v + 4 * depthBin (s.q 0 v).length
          u.load a 4 = min (s.load a 4 + 1) 0xFFFFFFFF)) ∧
    (Gives .clear s fun u => u.bit SLU_HIST_CTL SLU_HIST_CTL_BUSY = true ∧ u.mem = s.mem) ∧
    (s.bit SLU_HIST_CTL SLU_HIST_CTL_BUSY = true → Gives .histClearDone s fun u =>
      let b := (s.rd SLU_HIST_BASE).toNat
      u.bit SLU_HIST_CTL SLU_HIST_CTL_BUSY = false ∧ u.rd SLU_SMP_COUNT = 0 ∧
      ∀ a, Memory.read u.mem a = if b ≤ a ∧ a < b + 2097152 then 0 else Memory.read s.mem a)) ∧
  (∀ (s : State) (src : BitVec 17) (p : BitVec 10) (tc : Fin 8), s.on = true →
    let sent (u : State) (type n : Nat) (at_ : Nat) (port : Nat) := ∃ k : Cell,
      Table.get [] u.xin 1297 = Table.get [] s.xin 1297 ++ [(2, .cell k)] ∧ hType k.h = type ∧ hTc k.h = 1 ∧
      payNum k.pay 0 2 = s.switchId ∧ payNum k.pay 2 2 = port % 65536 ∧ payNum k.pay at_ 2 = min n 65535
    (∀ y, Table.look s.fails (src.toNat, p.toNat) = some y →
      (y.count = 0 → Gives (.failGapExpiry src p) s fun u => Table.look u.fails (src.toNat, p.toNat) = none ∧ u.mem = s.mem ∧
        u.xin = s.xin) ∧
      (0 < y.count → bitOf (s.returnEntry src.toNat) 63 = true → Gives (.failGapExpiry src p) s fun u =>
        sent u 12 y.count 6 y.port ∧ Table.look u.fails (src.toNat, p.toNat) = some { y with count := 0 } ∧ u.mem = s.mem)) ∧
    (let timer := echoTimer (src.toNat, tc.val)
     let due := s.echoes.filter fun e => echoTimer e.1 == timer
     s.echoGaps.contains timer = true →
      (due = [] → Gives (.echoGapExpiry src tc) s fun u => u.echoGaps = s.echoGaps.erase timer ∧ u.echoes = s.echoes ∧
        u.mem = s.mem ∧ u.xin = s.xin) ∧
      (∀ y, due = [((src.toNat, tc.val), y)] → bitOf (s.returnEntry src.toNat) 63 = true →
        Gives (.echoGapExpiry src tc) s fun u => sent u 11 y.count 10 y.port ∧ u.echoGaps = s.echoGaps ∧
          u.echoes = s.echoes.filter (fun e => echoTimer e.1 != timer) ∧ u.mem = s.mem)))

/-! ### The Weir and the emitter -/

/-- Cells at a Weir that takes them (R207, R214, R215, R229): the first head of a chunk whose entry is FREE opens the entry
and a contribution; a head whose entry holds another chunk stays and holds the input; a payload cell is staged behind those
before it, and no other byte changes; cells of a refused contribution are dropped and a cell without a head is counted. Once
the entry is FREE the held head is taken; TILE_WEIR_CFG is written only while the tile has no valid node. Groups, voids and
the emitter (R214, R218, R219, R227, R257): the next group of an entry is made final once each of its runs is summed, and
the first places the descriptor; a void frees an entry that is OPEN, QUEUED or SENDING and marks one that is TAKEN; the
emitter puts one cell of its next post into the crossbar and takes one off the completion counter, and the entry is FREE
after the last; closing a step clears the tag's counts and takes the context's step. Where the rules leave a choice the
clauses state the model's: log entry 44. -/
def Obligations.WeirCellsAndGroups : Prop :=
  (∀ (s : State) (t : Fin 256) (k : Cell), s.on = true →
    let x := s.tile t
    let label := hCirc k.h
    let r := s.nodeRec t (label / 1024)
    let e := nEntryBase r + hdWire r k.pay % max 1 (nWindow r)
    let y := x.entry e
    let opens (u : State) := ((u.tile t).entry e).st = .opened ∧ ((u.tile t).entry e).node = label / 1024 ∧
      ((u.tile t).entry e).chunk = hdWire r k.pay ∧ (u.tile t).offer = none ∧
      ((u.tile t).entry e).contrib (label % 1024) (hdPiece r k.pay) = some ⟨k.pay, false, 0, 0, 0, false⟩ ∧
      (label, e, hdPiece r k.pay) ∈ (u.tile t).openLabels ∧ u.rd (WEIR_CONTRIB t) = s.rd (WEIR_CONTRIB t) + 1
    (s.weirShut t = false → s.offered t = some k → hType k.h = 8 →
      (headRefusal r label k.pay none = none → y.st = .free → hdMasked k.pay = false →
        Gives (.weirHeadReceive t k) s opens) ∧
      (headRefusal r label k.pay none = none → y.st ≠ .free → (y.node ≠ label / 1024 ∨ y.chunk ≠ hdWire r k.pay) →
        Gives (.weirHeadReceive t k) s fun u => u.weirHolds t = true ∧ u.offered t = some k ∧ (u.tile t).entries = x.entries ∧
          u.regs = s.regs ∧ u.mem = s.mem)) ∧
    (s.weirHolds t = true → s.tileHeld t = false → s.offered t = some k → headRefusal r label k.pay none = none →
      y.st = .free → hdMasked k.pay = false →
      Gives (.weirHoldRelease t) s opens) ∧
    (s.weirShut t = false → s.offered t = some k → hType k.h = 2 →
      (label ∈ x.refusing → Gives (.weirCellReceive t k) s fun u => u.mem = s.mem ∧ u.regs = s.regs ∧
        (u.tile t).entries = x.entries) ∧
      (label ∉ x.refusing → x.openLabels = [] → Gives (.weirCellReceive t k) s fun u => u.mem = s.mem ∧
        u.rd (WEIR_REFUSED t) = s.rd (WEIR_REFUSED t) + 1 ∧ (u.tile t).entries = x.entries) ∧
      (∀ n j c, label ∉ x.refusing → x.openLabels.find? (fun l => l.1 == label) = some (label, n, j) →
        (x.entry n).contrib (label % 1024) j = some c →
        let q := s.nodeRec t (x.entry n).node
        let a := s.stageAddr t n + 64 * (label % 1024 * nSlotCells q + ((if isCarry q c.head then 64 * j else 0) + c.got))
        let g := (x.entry n).runGroups (label % 1024 / nRun q)
        let node := s.nodeAddr t (x.entry n).node
        c.got + 1 < cellsOf q c.head → j < 16 → (a + 64 ≤ node ∨ node + 256 ≤ a) →
        (∃ m ∈ runSlots q (label % 1024 / nRun q), m ≠ label % 1024 ∧ nMask q m = true ∧
          (x.entry n).delivers q m g = false) → Gives (.weirCellReceive t k) s fun u =>
          (∀ i < 64, Memory.read u.mem (a + i) = BitVec.ofNat 8 (k.pay.toNat / 2 ^ (8 * i))) ∧
          (∀ b, b < a ∨ a + 64 ≤ b → Memory.read u.mem b = Memory.read s.mem b) ∧ u.regs = s.regs ∧
          (((u.tile t).entry n).contrib (label % 1024) j).map Contrib.got = some (c.got + 1))) ∧
    (∀ v : Word, s.bound t = true →
      ((∀ n < 1024, nValid (s.nodeRec t n) = false) → Gives (.tileWeirCfgWrite t v) s fun u =>
        (∀ f ∈ [TILE_WEIR_CFG_ENABLE, TILE_WEIR_CFG_SIZE, TILE_WEIR_CFG_BASE],
          u.fld (TILE_WEIR_CFG t) f = bitsOf v.toNat f.lo f.width) ∧ (∀ g, g ≠ TILE_WEIR_CFG t → u.rd g = s.rd g)) ∧
      (∀ n < 1024, nValid (s.nodeRec t n) = true → Gives (.tileWeirCfgWrite t v) s fun u =>
        u.rd (TILE_WEIR_CFG t) = s.rd (TILE_WEIR_CFG t) ∧ u.rd SPW_EVENTS = s.rd SPW_EVENTS + 1))) ∧
  (∀ (s : State) (t : Fin 256), s.on = true → s.Calm t →
    let x := s.tile t
    (∀ (e : BitVec 12) (g : Fin 256), let y := x.entry e.toNat
      let r := s.nodeRec t y.node
      (y.st = .opened ∨ y.st = .queued ∨ y.st = .taken) → y.failed = false → y.voided = false → y.finals = g.val →
      g.val < nGroups r → s.poisoned (s.recAddr t e.toNat) 256 = false →
      (∀ i < nRuns r, y.runReady r i g = true ∧ g.val < y.runGroups i ∧
        s.poisoned (s.runPlace t e.toNat r i g).1 (s.runPlace t e.toNat r i g).2 = false) →
      Gives (.weirGroupFinal t e ⟨g, false⟩) s fun u => ((u.tile t).entry e.toNat).finals = g + 1 ∧
        (g.val = 0 → y.st = .opened → ((u.tile t).entry e.toNat).st = .queued ∧
          (u.tile t).cq.length = x.cq.length + 1) ∧
        (0 < g.val → ((u.tile t).entry e.toNat).st = y.st ∧ (u.tile t).cq = x.cq)) ∧
    (∀ e : BitVec 12, let y := x.entry e.toNat
      ((y.st = .opened ∨ y.st = .queued ∨ y.st = .sending) → Gives (.weirVoid t e) s fun u =>
        ((u.tile t).entry e.toNat).st = .free ∧ u.rd (WEIR_VOIDED t) = s.rd (WEIR_VOIDED t) + 1 ∧
        (∀ d ∈ (u.tile t).cq, descEntry d ≠ e.toNat) ∧ ∀ p ∈ (u.tile t).posts, p.entry ≠ e.toNat) ∧
      (y.st = .taken → Gives (.weirVoid t e) s fun u => ((u.tile t).entry e.toNat).st = .taken ∧
        ((u.tile t).entry e.toNat).voided = true ∧ u.rd (WEIR_VOIDED t) = s.rd (WEIR_VOIDED t) + 1) ∧
      (y.st = .free → Gives (.weirVoid t e) s fun u => u.rd (WEIR_VOIDED t) = s.rd (WEIR_VOIDED t) ∧
        (u.tile t).entries = x.entries)) ∧
    (∀ p, s.issueStopped t = false → (Table.get [] s.xin (1025 + t)).length < 8 → x.nextPost s.ctxOpen = some p →
      (s.findGroup p.ctx (p.key % 4096)).filter s.gReplay = none → 1 ≤ x.ccGet p.cc → x.ccGet p.cc < 2 ^ 32 →
      let i := p.sent % (p.per + 1)
      Gives (.emitterSelect t) s fun u => (∃ k : Cell,
          Table.get [] u.xin (1025 + t) = Table.get [] s.xin (1025 + t) ++ [(4, .cell k)] ∧
          hType k.h = (if i = 0 then 8 else 2) ∧ hTc k.h = 2 ∧ hCirc k.h = p.label % 2 ^ 20 ∧ hPos k.h = i % 128 ∧
          (i ≠ 0 → k.pay = BitVec.ofNat 512 (s.load (p.addr + 64 * (p.per * (p.sent / (p.per + 1)) + i - 1)) 64))) ∧
        (u.tile t).ccGet p.cc = x.ccGet p.cc - 1 ∧
        (p.pieces * (p.per + 1) ≤ p.sent + 1 → ((u.tile t).entry p.entry).st = .free)) ∧
    (∀ k : BitVec 12, let a := tagAddr s k.toNat
      let now := s.fld (CTX_STATE (s.load a 2 % 4096)) CTX_STATE_STEP
      let d := (now + 2 ^ 32 - s.load (a + 16) 4) % 2 ^ 32
      let len := s.load (a + 44) 4 % 2 ^ 20
      let low := s.load (a + 28) 8 * 2 ^ 20 < s.fld DRY_CFG DRY_CFG_THRESH * s.load (a + 20) 8
      bitOf (s.load (a + 52) 1) 0 = true → s.poisoned a 64 = false → 0 < d → d < 2 ^ 31 →
      (low → Gives (.dryStepClose k) s fun u => u.load (a + 16) 4 = now % 2 ^ 32 ∧ u.load (a + 20) 8 = 0 ∧
        u.load (a + 28) 8 = 0 ∧ u.load (a + 44) 4 = 0 ∧ u.load (a + 36) 4 = 0 ∧ u.regs = s.regs) ∧
      (¬low → s.load (a + 20) 8 ≠ 0 → len + 1 < max 1 (s.fld DRY_CFG DRY_CFG_WINDOW) → len + 1 < 2 ^ 20 →
        Gives (.dryStepClose k) s fun u => u.load (a + 16) 4 = now % 2 ^ 32 ∧ u.load (a + 20) 8 = 0 ∧
          u.load (a + 44) 4 = len + 1 ∧ u.regs = s.regs) ∧
      (¬low → s.load (a + 20) 8 ≠ 0 → max 1 (s.fld DRY_CFG DRY_CFG_WINDOW) ≤ len + 1 →
        Gives (.dryStepClose k) s fun u => u.rd DRY_EVENTS = s.rd DRY_EVENTS + 1 ∧ u.load (a + 44) 4 = 0)))

/-! ### Collectives -/

/-- Acknowledgements and requests of the branches (R236, R243, R244, R248, R250, R252): an ACK of the current attempt is
noted once for its branch, and the last one seals the chunk at the root; a NACK waits for the copy or is answered with its
cells; a VOID_REQ goes on toward the root, which voids the chunk with the next attempt; what names another attempt is
counted stale. The crossbar input of the watermaster's cells, 1297, is log entry 19. Where the rules leave a choice the
clauses state the model's: log entry 45. -/
def Obligations.CollectiveUp : Prop :=
  ∀ (s : State) (g : Nat) (b : BitVec 11) (k : Cell), s.on = true → s.findGroup (hCtx k.h) (hTag k.h) = some g →
    let c := cChunk k
    let y := s.chunkOf g c
    let up (u : State) (v type : Nat) := ∃ m : Cell, Table.get [] u.xin 1297 = Table.get [] s.xin 1297 ++ [(v, .cell m)] ∧
      hType m.h = type ∧ hCirc m.h = s.gUp g
    (hType k.h = 9 → cKind k = 1 →
      (s.ackCurrent g k = false → Gives (.ack b k) s fun u => u.rd WM_ACK_STALE = s.rd WM_ACK_STALE + 1 ∧
        u.groups = s.groups ∧ u.mem = s.mem) ∧
      (s.ackCurrent g k = true → b.toNat ∉ y.acked →
        (y.acked.length + 1 < s.grp g 30 2 % 2048 → Gives (.ack b k) s fun u =>
          (u.chunkOf g c).acked = b.toNat :: y.acked ∧ (u.chunkOf g c).flags = y.flags ||| cFlags k ∧
          (u.chunkOf g c).count = y.count + cCount k ∧ u.regs = s.regs ∧ u.mem = s.mem ∧ u.xin = s.xin) ∧
        (s.grp g 30 2 % 2048 ≤ y.acked.length + 1 → s.gRoot g = true → s.egressBlocked = false → Gives (.ack b k) s fun u =>
          c ∈ (u.group g).sealed ∧ u.rd WM_SEALS = s.rd WM_SEALS + 1) ∧
        (s.grp g 30 2 % 2048 ≤ y.acked.length + 1 → s.gRoot g = false → s.wmMute g = false → y.pondGood = true →
          y.selfAcked = false → Gives (.ack b k) s fun u => up u 6 9 ∧ (u.chunkOf g c).selfAcked = true))) ∧
    (hType k.h = 9 → cKind k = 2 →
      (s.ackCurrent g k = false → Gives (.nack b k) s fun u => u.rd WM_NACKS = s.rd WM_NACKS + 1 ∧
        u.rd WM_ACK_STALE = s.rd WM_ACK_STALE + 1 ∧ u.groups = s.groups) ∧
      (s.ackCurrent g k = true → y.pond.isSome = true → y.pondGood = false → y.pondBad = false → b.toNat ∉ y.waitNack →
        Gives (.nack b k) s fun u => (u.chunkOf g c).waitNack = y.waitNack ++ [b.toNat] ∧
          u.rd WM_NACKS = s.rd WM_NACKS + 1) ∧
      (∀ h, s.ackCurrent g k = true → y.pondGood = true → y.pond = some h → s.wmMute g = false →
        s.poisoned (handleAddr h) (80 * (y.pondCells + 1)) = false →
        Table.get 0 y.nacks b.toNat < max 1 (s.fld WM_CFG WM_CFG_NACK_LIMIT) →
        bitOf (s.load (s.grp g 56 8 + 8 * b.toNat) 8) 63 = true → Gives (.nack b k) s fun u =>
          (Table.get [] u.xin 1297).length = (Table.get [] s.xin 1297).length + y.pondCells + 1 ∧
          Table.get 0 (u.chunkOf g c).nacks b.toNat = Table.get 0 y.nacks b.toNat + 1)) ∧
    (hType k.h = 10 → cKind k = 7 →
      (s.gRoot g = false → s.wmMute g = false → Gives (.voidReq b k) s fun u => up u (hVc k.h) 10 ∧ u.regs = s.regs ∧
        u.mem = s.mem) ∧
      (s.gRoot g = true → (s.chunkOpen g c = false ∨ y.attempt ≠ cAttempt k) → Gives (.voidReq b k) s fun u =>
        u.rd WM_ACK_STALE = s.rd WM_ACK_STALE + 1 ∧ u.groups = s.groups) ∧
      (s.gRoot g = true → s.chunkOpen g c = true → y.attempt = cAttempt k → s.egressBlocked = false →
        y.voids < max 1 (s.fld WM_CFG WM_CFG_RETRY_LIMIT) →
        ((y.acked ++ (s.ackWaits g c (s.wmReached b.toNat k)).map Prod.fst).eraseDups).length < s.grp g 30 2 % 2048 →
        Gives (.voidReq b k) s fun u =>
          (u.chunkOf g c).attempt = (y.attempt + 1) % 256 ∧ (u.chunkOf g c).voids = y.voids + 1 ∧
          (u.chunkOf g c).acked = [] ∧ u.rd WM_VOIDS = s.rd WM_VOIDS + 1))

/-- Cells of the DOWN-CTL tree at a module that is not the root (R240, R244, R245, R250, R251, R254): START clears what an
earlier collective left, SEAL seals its chunk, VOID gives the chunk the attempt it carries, HOLD puts the group into HOLD with
the reason it carries, DONE leaves the completion record and the group BOUND, BREAK is counted; a BREAK of a branch goes on
toward the root. Timers of the root and the feed of a replay (R251, R255, R261): CHUNK_TIMEOUT voids an open chunk with the
next attempt, BREAK_SETTLE ends the settle time with no break left to tell; a marker of the ring is passed over, and at the
end of the ring with no entry held the group is BOUND again. The crossbar input of the watermaster's cells, 1297, is log
entry 19. Where the rules leave a choice the clauses state the model's: log entry 45. -/
def Obligations.CollectiveDown : Prop :=
  (∀ (s : State) (g : Nat) (k : Cell), s.on = true → s.findGroup (hCtx k.h) (hTag k.h) = some g → hType k.h = 10 →
    s.gRoot g = false →
    let c := cChunk k
    (cKind k = 4 → bitOf (cFlags k) 7 = false → Gives (.start k) s fun u => (u.group g).chunks = [] ∧
      (u.group g).sealed = [] ∧ (u.group g).start = s.cycle ∧ (u.group g).resumed = false ∧
      ((s.group g).nodes = [] → (s.group g).chunks = [] → u.gState g = 2 ∧ u.gRedId g = cRedId k ∧ u.gStep g = cStep k)) ∧
    (cKind k = 1 → c ∉ (s.group g).sealed → c < s.gChunks g → Gives (.seal k) s fun u =>
      (u.group g).sealed = c :: (s.group g).sealed ∧ u.rd WM_SEALS = s.rd WM_SEALS + 1) ∧
    (cKind k = 2 → Gives (.voidCell k) s fun u => (u.chunkOf g c).attempt = cAttempt k ∧ (u.chunkOf g c).acked = [] ∧
      u.rd WM_VOIDS = s.rd WM_VOIDS + 1) ∧
    (cKind k = 5 → s.gState g ≠ 3 → Gives (.hold k) s fun u => (u.group g).holds = (s.group g).holds + 1 ∧
      (u.group g).settling = false ∧ u.rd WM_HOLDS = s.rd WM_HOLDS + 1 ∧
      (groupAddr s g + 256 ≤ countAddr s (sourceOf 8 0) ∨ countAddr s (sourceOf 8 0) + 32 ≤ groupAddr s g →
        u.gState g = 3 ∧ u.grp g 6 1 = cReason k)) ∧
    (cKind k = 6 → Gives (.done k) s fun u => u.grp g 192 32 = cBody k 32 32 ∧ u.gState g = 1 ∧ u.groups = s.groups ∧
      ∀ r : Reg, r.blk ≠ 15 → r.blk ≠ 16 → u.rd r = s.rd r) ∧
    (∀ b : BitVec 11, cKind k = 3 →
      ((s.wmInbox.any fun e => e.1 == 2048 && e.2.2 == k) = true → Gives (.brkNotice b k) s fun u =>
        u.grp g 48 2 = (s.grp g 48 2 + 1) % 65536 ∧
        u.xin = s.xin ∧ u.regs = s.regs) ∧
      ((s.wmInbox.any fun e => e.1 == 2048 && e.2.2 == k) = false → s.wmMute g = false → Gives (.brkNotice b k) s fun u =>
        u.rd WM_BREAKS = s.rd WM_BREAKS + 1 ∧ u.mem = s.mem ∧ ∃ m : Cell,
          Table.get [] u.xin 1297 = Table.get [] s.xin 1297 ++ [(hVc k.h, .cell m)] ∧ m.pay = k.pay ∧ hCirc m.h = s.gUp g))) ∧
  (∀ (s : State) (g : Fin 1024), s.on = true →
    (∀ c : BitVec 32, s.gRoot g = true → s.chunkOpen g c.toNat = true → s.egressBlocked = false →
      (s.chunkOf g c.toNat).voids < max 1 (s.fld WM_CFG WM_CFG_RETRY_LIMIT) → Gives (.chunkTimeout g c) s fun u =>
        (u.chunkOf g c.toNat).attempt = ((s.chunkOf g c.toNat).attempt + 1) % 256 ∧
        u.rd WM_VOIDS = s.rd WM_VOIDS + 1) ∧
    (∀ c : BitVec 32, s.gRoot g = false ∨ s.chunkOpen g c.toNat = false → exec (.chunkTimeout g c) s = .next s) ∧
    (s.gState g = 2 → s.gRoot g = true → (s.group g).settling = true → Gives (.breakSettle g) s fun u =>
      (u.group g).settling = false ∧ (u.group g).settled = true ∧ (u.group g).breaks = []) ∧
    (s.gReplay g = true → s.gState g = 2 →
      let x := s.group g
      let a := x.replayBase + x.replayAt
      (x.replaySize < x.replayAt + 64 → s.groupEntries g = [] → Gives (.replayRecordFeed g) s fun u =>
        u.gState g = 1 ∧ u.gReplay g = false ∧ ∀ r : Reg, r.blk ≠ 15 → r.blk ≠ 16 → u.rd r = s.rd r) ∧
      (x.replayAt + 64 ≤ x.replaySize → 1024 ≤ s.load (a + 14) 2 → Gives (.replayRecordFeed g) s fun u =>
        (u.group g).replayAt = x.replayAt + 64 + s.load (a + 24) 4 / 64 * 64 ∧ u.mem = s.mem ∧ u.regs = s.regs)))

/-! ### Expert dispatch and combining -/

/-- Messages to the dispatcher (R267, R270, R272, R277): the first message of a port is taken: a token of a source is buffered
in a buffer of its source, and waits while there is none; a ROLL is noted for its step and rank; the cells of a return for
this module cross to the combine tile it names; a message that no EHT admits, or of an endpoint that is no source, is counted
invalid cell by cell and changes nothing of any EHT. Steps and decisions (R270-R275, Table 10-5): in ordered mode the next
step opens when every source has rolled for it and the open one is past, in arrival mode when the first token buffered is of a
later step; a token for one expert with room is decided for it and counted against it; with no room POLICY 0 drops the
position, POLICY 2 holds the token, and a reserved POLICY stops; a token of an earlier step drops every position as LATE; a
missing ROLL at the timeout is a class C event. The crossbar input of the dispatcher's cells, 1297, is log entry 19. Where
the rules leave a choice the clauses state the model's: log entries 8, 21 and 46. -/
def Obligations.ExpertTokens : Prop :=
  (∀ (s : State) (p : Fin 1024) (m : HeadMsg), s.on = true → s.bit EXP_CFG EXP_CFG_ENABLE = true →
    s.expFirst p = some m → (∀ e ∈ s.expWait, e.1 ≠ p.val) →
    let k := m.head
    let r := hSrc k.h % 256
    let invalid (i : Instr) (n : Nat) := Gives i s fun u => u.ehts = s.ehts ∧ (u.expIn = s.expIn.filter fun e => e.1 != p.val) ∧
      u.rd EXP_INVALID = s.rd EXP_INVALID + BitVec.ofNat 64 n
    (xKind k.pay = 0 →
      (∀ h, s.ehtFor k = some h → r ∈ s.sources h → ∀ o x, s.sourceOwner h r = some (o, x) →
        s.tokenEarlier p h = false →
        (∀ b, (s.tokenBuffer p o x).1 = some b → Gives (.tokenReceive p m) s fun u =>
          (u.eht h).tokens = (s.eht h).tokens ++ [⟨hSrc k.h, r, k.pay, m.data.map Cell.pay, b, false⟩] ∧
          (u.expIn = s.expIn.filter fun e => e.1 != p.val) ∧ ∀ j, j ≠ h → u.eht j = s.eht j) ∧
        ((s.tokenBuffer p o x).1 = none → Gives (.tokenReceive p m) s fun u => u.ehts = s.ehts ∧ u.expIn = s.expIn)) ∧
      (s.ehtFor k = none → invalid (.tokenReceive p m) (cellsOfMsg m)) ∧
      (∀ h, s.ehtFor k = some h → r ∉ s.sources h → invalid (.tokenReceive p m) (cellsOfMsg m))) ∧
    (∀ h, xKind k.pay = 1 → m.data = [] → s.ehtFor k = some h →
      (s.ehtArrival h = false → r ∈ s.sources h → s.ehtCur h < xStep k.pay →
        (∀ e ∈ (s.eht h).rolls, (e.1, e.2.1) ≠ (xStep k.pay, r)) → Gives (.rollReceive p k) s fun u =>
          (u.eht h).rolls = (s.eht h).rolls ++ [(xStep k.pay, r, xCount k.pay)] ∧ u.mem = s.mem ∧ u.regs = s.regs) ∧
      (r ∉ s.sources h → invalid (.rollReceive p k) 1)) ∧
    (∀ h, xKind k.pay = 3 → s.ehtFor k = some h → xDisp k.pay = s.switchId →
      let t := s.ehtNum h (40 + xCref k.pay / 2048 % 32) 1
      Gives (.returnReceive p m) s fun u => ∃ l : List Cell,
        Table.get [] u.xin 1297 = Table.get [] s.xin 1297 ++ l.map (fun c => (8, .toTile t c)) ∧
        l.map Cell.pay = k.pay :: m.data.map Cell.pay ∧ (∀ c ∈ l, hTag c.h = xCref k.pay % 2048 ∧ hType c.h = 2) ∧
        u.mem = s.mem)) ∧
  (∀ (s : State) (e : Fin 16), s.on = true → s.ehtValid e = true →
    let x := s.eht e
    let opens (st : Nat) := Gives (.stepOpen e) s fun u => (u.eht e).opened = true ∧ (u.eht e).counts = [] ∧
      (u.eht e).next = [] ∧ (u.eht e).held = x.nextHeld ∧ (u.eht e).nextHeld = [] ∧ u.ehtCur e = st ∧ u.regs = s.regs
    (x.held = [] → s.ehtArrival e = false → (∀ r ∈ s.sources e, (x.roll (s.nextStep e) r).isSome = true) →
      (x.opened = true → ∀ r ∈ s.sources e, (x.roll (s.ehtCur e) r).getD 0 ≤ Table.get 0 x.next r) →
      opens (s.nextStep e)) ∧
    (∀ t l, x.held = [] → s.ehtArrival e = true → x.tokens = t :: l → s.ehtCur e < xStep t.head → opens (xStep t.head)) ∧
    (∀ st : BitVec 32, s.ehtArrival e = false → (∃ y ∈ x.rolls, y.1 = st.toNat) →
      (∃ r ∈ s.sources e, x.roll st.toNat r = none) →
      Gives (.rollTimeout ⟨e, st⟩) s fun u => u.rd SPW_EVENTS = s.rd SPW_EVENTS + 1 ∧ u.ehts = s.ehts) ∧
    (s.ehtArrival e = true ∨ x.decided = [] →
      (∀ t, s.nextToken e = .turn t → xNuse t.head = 1 → xCells t.head ≤ s.ehtNum e 11 1 → 1 ≤ s.ehtNum e 12 1 →
        let n := xExp t.head 0
        (s.testExpert e x.counts [] n = .free → Gives (.tokenDecide e) s fun u =>
          (u.eht e).decided = x.decided ++ [⟨t, [0], 0, 0, [(0, bitsOf (s.ehtEntry e n) 40 17)]⟩] ∧
            Table.get 0 (u.eht e).counts n = Table.get 0 x.counts n + 1 ∧
          (u.eht e).tokens = x.tokens.erase t ∧ Table.get 0 (u.eht e).next t.rank = xToken t.head + 1 ∧
          u.rd EXP_TOKENS = s.rd EXP_TOKENS + 1 ∧ u.mem = s.mem) ∧
        (s.testExpert e x.counts [] n = .full →
          (s.ehtPolicy e = 0 → Gives (.tokenDecide e) s fun u => (u.eht e).decided = x.decided ++ [⟨t, [], 1, 0, []⟩] ∧
            (u.eht e).counts = x.counts ∧ u.rd EXP_DROPPED = s.rd EXP_DROPPED + 1) ∧
          (s.ehtPolicy e = 2 → x.held.length + x.nextHeld.length < s.ehtNum e 14 2 → Gives (.tokenDecide e) s fun u =>
            (u.eht e).nextHeld = x.nextHeld ++ [{ t with wasHeld := true }] ∧ (u.eht e).decided = x.decided ∧
            u.rd EXP_HELD = s.rd EXP_HELD + 1) ∧
          (s.ehtPolicy e = 3 → exec (.tokenDecide e) s = .fault (.reservedValue "EHT.POLICY")))) ∧
      (∀ t, s.nextToken e = .late t → Gives (.tokenDecide e) s fun u => u.rd EXP_LATE = s.rd EXP_LATE + 1 ∧
        (u.eht e).decided = x.decided ++ [⟨t, [], 2 ^ xNuse t.head - 1, 4, []⟩] ∧ (u.eht e).counts = x.counts)))

/-- Combine entries (R271, R278, R280): the first decided token takes the lowest free entry of its combine tile; a head that
matches an entry is written to its area; one that names no entry is a stray; at the timeout what is missing is counted lost,
and the entry sends its RESULT or is free. With its last data cell an entry combines (R265, R279, R281): at the combine
tile's crossbar input stand the head and the data cells of the RESULT for the token's source, each data cell with SWITCH_ID,
TOKEN and 56 bytes, in which every element is the sum over the positions used, in ascending order, of weight times output,
converted to the token's format. Where the rules leave a choice the clauses state the model's: log entries 7 and 46. -/
def Obligations.CombineEntries : Prop :=
  (∀ (s : State) (e : Fin 16) (d : Decided) (l : List Decided) (n : Nat), s.on = true → (s.eht e).decided = d :: l →
    d.chosen ≠ [] →
    let t := s.ehtNum e (40 + xToken d.tok.head % max 1 (s.ehtNum e 10 1)) 1
    lowest (s.ehtNum e 28 2) (fun i => !Table.has (s.tile t).combs (2048 * e + i)) = some n →
      Gives (.combineEntryAllocate e) s fun u => (u.eht e).decided = l ∧
        ∃ c, Table.look (u.tile t).combs (2048 * e + n) = some c ∧ c.expected = d.chosen ∧ c.got = [] ∧
          c.token = xToken d.tok.head ∧ c.step = xStep d.tok.head ∧ c.source = d.tok.src ∧ c.dropped = d.dropped ∧
          c.flags = d.flags) ∧
  ∀ (s : State) (t : Fin 256), s.on = true → s.issueStopped t = false →
    let next (k : Cell) := (s.returnCells t).find? (fun c => hCirc c.h == hCirc k.h) = some k
    (∀ k, next k → s.combFor t k = none → Gives (.combineReturn t k) s fun u => u.rd EXP_STRAY = s.rd EXP_STRAY + 1 ∧
      (u.tile t).combs = (s.tile t).combs ∧ u.mem = s.mem) ∧
    (∀ k q c, next k → s.combFor t k = some (q, c) →
      let n := hSeq k.h / 256 % 8
      let a := combAddr s c.eht t c.cent + 64 * (1 + c.area n * (c.ncells + 1))
      hSeq k.h % 256 = 0 → (∀ g ∈ c.got, g.1 ≠ n) → n ∈ c.expected → xCells k.pay = c.ncells → 0 < c.ncells →
      xStep k.pay = c.step → xToken k.pay = c.token → xFailed k.pay = false → Gives (.combineReturn t k) s fun u =>
        (Table.look (u.tile t).combs q).map Comb.got = some (c.got ++ [(n, false, [])]) ∧
        (∀ i < 64, Memory.read u.mem (a + i) = BitVec.ofNat 8 (k.pay.toNat / 2 ^ (8 * i))) ∧
        (∀ b, b < a ∨ a + 64 ≤ b → Memory.read u.mem b = Memory.read s.mem b) ∧ u.regs = s.regs) ∧
    (∀ (e : Fin 16) (n : BitVec 11) c, s.returnCells t = [] → Table.look (s.tile t).combs (combKey e n.toNat) = some c →
      c.sending = false → Gives (.combTimeout t ⟨e, n⟩) s fun u =>
        (∀ x, Table.look (u.tile t).combs (combKey e n.toNat) = some x → x.sending = true) ∧
        u.rd EXP_LOST = s.rd EXP_LOST + BitVec.ofNat 64 (c.expected.filter fun k => !c.done k).length) ∧
    (∀ k q c l, next k → s.combFor t k = some (q, c) →
      let pos := hSeq k.h % 256
      let n := hSeq k.h / 256 % 8
      let b := combAddr s c.eht t c.cent
      let got := c.got.map fun x => if x.1 == n then (n, false, x.2.2 ++ [pos]) else x
      let d : Comb := { c with got := got }
      let used := c.expected.filter fun i => d.done i && !d.failed i
      let w := fmtBits c.fmt
      c.got.find? (fun g => g.1 == n) = some (n, false, l) → 0 < pos → pos ∉ l → pos ≤ c.ncells → c.expected.all d.done = true →
      s.ctxOpen c.ctx = true → bitOf (s.returnEntry c.source) 63 = true → s.rd (TILE_FP_EVT t) = 0 → 0 < w → w % 8 = 0 →
      b + 64 * (1 + c.area n * (c.ncells + 1)) + 64 * pos + 64 ≤ 2 ^ 31 → 2 ^ 31 ≤ (s.rd ROUTE_RET_BASE).toNat →
      2 ^ 31 ≤ (s.rd EXP_BASE).toNat → Gives (.combineReturn t k) s fun u =>
        ∃ (head : Cell) (data : List Cell),
          Table.get [] u.xin (1025 + t) = Table.get [] s.xin (1025 + t) ++ (head :: data).map (fun c => (8, .cell c)) ∧
          data.length = (64 * c.ncells + 55) / 56 ∧
          (∀ x ∈ head :: data, hType x.h = 14 ∧ hSrc x.h = c.source % 2 ^ 17 ∧ hTag x.h = c.token % 4096 ∧
            payNum x.pay 0 2 = s.switchId) ∧
          xKind head.pay = 4 ∧ payNum head.pay 16 1 = (used.foldl (fun m i => m + 2 ^ i) 0) % 256 ∧
          (∀ x ∈ data, payNum x.pay 4 4 = c.token % 2 ^ 32) ∧
          (Table.look (u.tile t).combs q).map Comb.sending = some true ∧
          ∀ e < 64 * c.ncells * 8 / w, bitsOf (ofBytes (data.flatMap fun x => (payBytes x.pay).drop 8)) (w * e) w =
            let acc := used.foldl (fun acc i => combStep acc (fp32.decodeIEEE (c.weights.getD i 0).toNat)
              (decodeElem c.fmt (bitsOf (u.load (b + 64 * (2 + c.area i * (c.ncells + 1))) (64 * c.ncells)) (w * e) w))) (none, 0)
            let r := if c.grad then some (randomBits (s.ctx c.ctx).seed.toNat 0xC000 c.token c.source c.step e) else none
            (encodeNum c.fmt false r (acc.1.getD (.fin false 0 0))).1 % 2 ^ w)

/-! ### Fabric memory, patrols and pools -/

/-- The fabric memory tier (R285-R287): of the first request of its source, a read that passes every check is answered in
cells of 56 bytes and changes no byte; a write stores its bytes and no other; an ADD gives the word its sum once, and the
same request again is answered from the filter; a request that fails a check changes no byte; a freed filter entry is gone.
Where the rules leave a choice the clauses state the model's: log entry 47. -/
def Obligations.FabricMemory : Prop :=
  ∀ (s : State) (i : Fin 1298) (c : Cell), s.on = true →
    let h := c.h
    let w := s.fabWindow (mWindow c.pay)
    let a := s.memAddress c.pay
    let ret := (s.rd ROUTE_RET_BASE).toNat + 8 * hSrc h
    let len (u : State) := (Table.get [] u.xin i.val).length - (Table.get [] s.xin i.val).length
    bitOf (s.returnEntry (hSrc h)) 63 = true → s.firstOfSource i c = true →
    (hType h = 4 → let n := payNum c.pay 10 2
      s.mustWait a n = false →
      (s.memCheck h c.pay n (decide (1 ≤ n) && decide (n ≤ 4096)) w.rd true = none → s.poisoned a n = false →
        Gives (.memoryReadRequest i c) s fun u => u.mem = s.mem ∧ u.rd MEMT_REQ = s.rd MEMT_REQ + 1 ∧
          len u = (n + 55) / 56) ∧
      (∀ st, s.memCheck h c.pay n (decide (1 ≤ n) && decide (n ≤ 4096)) w.rd true = some st →
        Gives (.memoryReadRequest i c) s fun u => u.mem = s.mem ∧ u.rd MEMT_REFUSED = s.rd MEMT_REFUSED + 1 ∧
          ∃ k : Cell, Table.get [] u.xin i.val = Table.get [] s.xin i.val ++ [(10, .cell k)] ∧ hType k.h = 5 ∧
            hTag k.h = hTag h ∧ payNum k.pay 2 2 = st % 65536)) ∧
    ((2 ^ 31 ≤ a ∨ s.Calm (a / tileBytes)) →
      (hType h = 6 → let n := payNum c.pay 9 1
        s.mustWait a n = false → s.memCheck h c.pay n (decide (1 ≤ n) && decide (n ≤ 48)) w.wr true = none →
        s.partialPoison a n = false → (ret + 8 ≤ a ∨ a + n ≤ ret) → Gives (.memoryWrite i c) s fun u =>
          (∀ j < n, Memory.read u.mem (a + j) = BitVec.ofNat 8 (c.pay.toNat / 2 ^ (8 * (16 + j)))) ∧
          (∀ b, b < a ∨ a + n ≤ b → Memory.read u.mem b = Memory.read s.mem b) ∧ u.rd MEMT_REQ = s.rd MEMT_REQ + 1 ∧
          len u = 1) ∧
      (hType h = 7 → payNum c.pay 9 1 = 16 → s.mustWait a 8 = false →
        s.memCheck h c.pay 8 true w.at_ (a % 8 == 0) = none →
        (∀ x ∈ s.atomics, (x.1, x.2.1, x.2.2.1) ≠ (hSrc h, hTag h, hSeq h)) → s.atomics.length < 4096 →
        s.poisoned a 8 = false → (ret + 8 ≤ a ∨ a + 8 ≤ ret) → Gives (.atomic i c) s fun u =>
          u.load a 8 = (s.load a 8 + payNum c.pay 16 8) % 2 ^ 64 ∧
          (∀ b, b < a ∨ a + 8 ≤ b → Memory.read u.mem b = Memory.read s.mem b) ∧
          u.atomics = s.atomics ++ [(hSrc h, hTag h, hSeq h, BitVec.ofNat 64 (s.load a 8))])) ∧
    (∀ x, hType h = 7 → payNum c.pay 9 1 = 16 → s.mustWait a 8 = false →
      s.memCheck h c.pay 8 true w.at_ (a % 8 == 0) = none →
      s.atomics.find? (fun x => x.1 == hSrc h && x.2.1 == hTag h && x.2.2.1 == hSeq h) = some x →
      Gives (.atomic i c) s fun u => u.mem = s.mem ∧ u.rd MEMT_ATOMIC_DUP = s.rd MEMT_ATOMIC_DUP + 1 ∧
        ∃ k : Cell, Table.get [] u.xin i.val = Table.get [] s.xin i.val ++ [(10, .cell k)] ∧
          payNum k.pay 2 2 = 0 ∧ payNum k.pay 8 8 = x.2.2.2.toNat) ∧
    (∀ (src : BitVec 17) (tag seq : BitVec 12), Gives (.atomicHold src tag seq) s fun u => u.mem = s.mem ∧ u.regs = s.regs ∧
      ∀ x, x ∈ u.atomics ↔ x ∈ s.atomics ∧ (x.1, x.2.1, x.2.2.1) ≠ (src.toNat, tag.toNat, seq.toNat))

/-- Patrols, retirement and refresh (R297, R300-R302): each corrected error is counted for its row or page, an uncorrectable
one is counted and makes its word or line unreadable; the LPDDR5X patrol goes on by 64 bytes; a retired page is held no
longer, listed and takes a spare; a refresh notes its bank. Where the rules leave a choice the clauses state the model's:
log entry 48. -/
def Obligations.MemoryPatrols : Prop :=
  ∀ s : State, s.on = true →
    (∀ a : BitVec 48, isSram (a.toNat / 8 * 8) = true → s.sramAt ≤ a.toNat / 8 * 8 →
      let r := Config.sramRow (a.toNat / 8 * 8)
      (Gives (.sramPatrol a .clean) s fun u => u.sramAt = a.toNat / 8 * 8 ∧ u.mem = s.mem ∧ u.regs = s.regs ∧
        u.poison = s.poison) ∧
      (Table.get 0 s.rowErrs r ≠ 3 → Gives (.sramPatrol a .corrected) s fun u => u.rd SRAM_CE = s.rd SRAM_CE + 1 ∧
        Table.get 0 u.rowErrs r = Table.get 0 s.rowErrs r + 1 ∧ u.mem = s.mem ∧ u.poison = s.poison) ∧
      (a.toNat / 8 * 8 < windowBase → Gives (.sramPatrol a .uncorrectable) s fun u => u.rd SRAM_UE = s.rd SRAM_UE + 1 ∧
        a.toNat / 8 * 8 ∈ u.poison)) ∧
    (let p := s.patrolAt / 4096
     0 < s.patrolAt →
      (Gives (.lpddrPatrol .clean) s fun u => u.patrolAt = (s.patrolAt + 64) % 2 ^ 39 ∧ u.regs = s.regs ∧
        u.poison = s.poison) ∧
      (Table.get 0 s.pageErrs p + 1 < max 1 (s.fld MEM_CFG MEM_CFG_RETIRE_THRESH) →
        Gives (.lpddrPatrol .corrected) s fun u => u.rd MEM_CE = s.rd MEM_CE + 1 ∧
          Table.get 0 u.pageErrs p = Table.get 0 s.pageErrs p + 1 ∧ u.poison = s.poison) ∧
      (Gives (.lpddrPatrol .uncorrectable) s fun u => u.rd MEM_UE = s.rd MEM_UE + 1 ∧
        lpddrBase + s.patrolAt ∈ u.poison)) ∧
    (∀ (g : BitVec 27) (bad : BitVec 64), g.toNat ∈ s.pageHeld → Gives (.pageRetireDone g bad) s fun u =>
      u.pageHeld = s.pageHeld.erase g.toNat ∧ BitVec.ofNat 64 (4096 * g.toNat) ∈ u.pages ∧
      u.rd MEM_RETIRED = s.rd MEM_RETIRED + 1 ∧
      u.fld MEM_SPARES MEM_SPARES_FREE = s.fld MEM_SPARES MEM_SPARES_FREE - 1) ∧
    (∀ (m : Fin 16) (c : Fin 4) (b : Fin 16), s.selfRefresh = false → Gives (.lpddrRefresh m c b) s fun u =>
      Table.look u.refreshing (4 * m + c) = some b.val ∧ u.mem = s.mem ∧ u.regs = s.regs)

/-- The buffer pool manager (R309-R312): an owner that may allocate gets the handle of the first buffer of its pool and is
charged for it, from the cache of a ring, which is refilled from the ring below 16 handles, or from the head entries of
another pool, which are read ahead to three; one that may not is refused with 0, or waits; a requester that is not entitled
is answered with an error; the last owner's free advances TICKET and refunds the allocator, an earlier owner's takes it off
the list; a share adds an owner; a handle that is no current one is counted stale. Where the rules leave a choice the
clauses state the model's: log entries 20 and 72. -/
def Obligations.PoolOperations : Prop :=
  (∀ (s : State) (who : Requester) (p : Fin 64) (o : BitVec 12) (h : Word), s.on = true →
    (operates who p = false ∨ s.mayAct who p o.toNat = false) →
    ∀ i ∈ [Instr.poolAllocate who p o, .poolAllocateNowait who p o, .poolFree who p o h, .poolShare who p o h],
      Gives i s fun u => u.out = s.out ++ [.poolRefused p o.toNat (refusedCause who p)] ∧ u.bufs = s.bufs ∧
        u.owners = s.owners ∧ u.pools = s.pools) ∧
  ∀ (s : State) (who : Requester) (p : Fin 64) (o : BitVec 12) (x : Owner), s.on = true →
    operates who p = true → s.mayAct who p o.toNat = true → s.owner o.toNat = some x → (s.pool p).state = 1 →
    (∀ a l, s.mayAlloc p x = true →
      let got (u : State) := u.out = s.out ++ [.handle p o.toNat (some (handleOf (s.buf a).ticket a))] ∧
        u.owner o.toNat = some { x with used := x.used + 1 } ∧
        u.buf a = { s.buf a with owners := [o.toNat], alloc := some o.toNat } ∧ u.mem = s.mem
      ((s.pool p).ring = true → (s.pool p).cache = a :: l →
        let taken (u : State) := got u ∧ u.pool p = ({ s.pool p with cache := l } : Pool).refill ∧
          (16 ≤ l.length → (u.pool p).cache = l)
        Gives (.poolAllocate who p o) s taken ∧ Gives (.poolAllocateNowait who p o) s taken) ∧
      (∀ r, (s.pool p).ring = false → (s.pool p).chip = a :: l → (l = [] → s.readNext (s.pool p) a = some 0) →
        s.readAhead (s.pool p) 3 l = (r, none) →
        let taken (u : State) := got u ∧ u.pool p = { s.pool p with chip := r } ∧ u.regs = s.regs
        Gives (.poolAllocate who p o) s taken ∧ Gives (.poolAllocateNowait who p o) s taken)) ∧
    (s.mayAlloc p x = false →
      (Gives (.poolAllocateNowait who p o) s fun u => u.out = s.out ++ [.handle p o.toNat (some 0)] ∧ u.bufs = s.bufs ∧
        u.owners = s.owners) ∧
      (s.waiters.length < 1024 → Gives (.poolAllocate who p o) s fun u =>
        u.waiters = s.waiters ++ [⟨who, p, o.toNat, .command⟩] ∧
        u.rd (POOL_WAITS p) = s.rd (POOL_WAITS p) + 1 ∧ u.out = s.out)) ∧
    (∀ h : Word, let a := handleAddr h
      let b := s.buf a
      (s.handleOk p h = false → (Gives (.poolFree who p o h) s fun u => u.rd (POOL_STALE p) = s.rd (POOL_STALE p) + 1 ∧
          u.bufs = s.bufs ∧ u.owners = s.owners) ∧
        Gives (.poolShare who p o h) s fun u => u.rd (POOL_STALE p) = s.rd (POOL_STALE p) + 1 ∧ u.bufs = s.bufs) ∧
      (s.handleOk p h = true → o.toNat ∈ b.owners → b.owners.getLast? ≠ some o.toNat → Gives (.poolFree who p o h) s fun u =>
        u.buf a = { b with owners := b.owners.erase o.toNat } ∧ u.owners = s.owners ∧ u.mem = s.mem ∧ u.regs = s.regs) ∧
      (s.handleOk p h = true → b.owners = [o.toNat] → b.alloc = some o.toNat → s.waiters = [] →
        Gives (.poolFree who p o h) s fun u => u.buf a = ⟨if b.ticket = 255 then 1 else b.ticket + 1, [], none⟩ ∧
          u.owner o.toNat = some { x with used := x.used - 1 }) ∧
      (s.handleOk p h = true → who = .mgmt → o.toNat ∉ b.owners → b.owners.length < 4 → Gives (.poolShare who p o h) s fun u =>
        u.buf a = { b with owners := b.owners ++ [o.toNat] } ∧ u.mem = s.mem ∧ u.regs = s.regs))

/-! ### Intake rings and their commands -/

/-- Entries that are turned away (R356, R357): in CLOSING every command completes with CLOSING, a device command outside
context 0 with DENIED, another command than CTX_CLOSE on the ring of context 0 with BAD_ARG; the rejection is counted. A
ring that is halted takes no entry, and no ring takes one out of its turn. Where the rules leave a choice the clauses state
the model's: log entry 31. -/
def Obligations.RingRejects : Prop :=
  ∀ (s : State) (i : Instr) (k : RingCmd) (op : Nat) (device : Bool) (x : Ring), i.onRing = some (k, op, device) →
    (s.Posted k op x →
      (s.ctxState k.ctx.toNat = 2 → Gives i s fun u => u.Finished k x 7 ∧
        u.rd (CTX_REJECTS k.ctx.toNat) = s.rd (CTX_REJECTS k.ctx.toNat) + 1) ∧
      (s.ctxState k.ctx.toNat = 1 → device = true → k.ctx ≠ 0 → Gives i s fun u => u.Finished k x 4) ∧
      (device = false → k.ctx = 0 → (∀ q, i ≠ .ctxClose q) → Gives i s fun u => u.Finished k x 2)) ∧
    (s.on = true → s.ring? k.ctx.toNat k.ring = some x → s.ringHalted k.ctx.toNat k.ring = true → exec i s = .next s) ∧
    (s.on = true → s.nextRing ≠ some (ringRank k.ctx.toNat k.ring) → s.ctxState (closeTarget k) ≠ 2 →
      exec i s = .next s)

/-- Contexts (R354, R356, R358, R396). CTX_OPEN makes a FREE context OPEN with its KEY_MASK and its rings; STEP_SET and
STEP_ADVANCE give the step counter; CTX_CLOSE enters CLOSING; CTX_TEARDOWN_DRAIN ends the thread sets of a context in
CLOSING, and CLOSED makes it FREE; CTX_RING_HALT_CLEAR clears the bits written 1, and RING_POLL reads every TAIL. Where the
rules leave a choice the clauses state the model's: log entries 31 and 35. -/
def Obligations.RingContexts : Prop :=
  ∀ (s : State) (k : RingCmd) (x : Ring),
    (s.ctxState k.ctx.toNat = 1 →
      (∀ b, s.Posted k 0x0001 x → k.ctx = 0 → 1 ≤ k.arg 16 2 → k.arg 16 2 < 4096 → 1 ≤ k.arg 32 1 → k.arg 32 1 ≤ 64 →
        s.ctxState (k.arg 16 2) = 0 →
        (s.ctx (k.arg 16 2)).closedAt = none → s.mayRead 0 (k.arg 24 8) (16 * k.arg 32 1) = true →
        s.dataRead (k.arg 24 8) (16 * k.arg 32 1) = (b, s) →
        (∀ j < k.arg 32 1, (s.ringDesc ((b.drop (16 * j)).take 16)).isSome = true) →
        Gives (.ctxOpen k) s fun u => u.Finished k x 0 ∧ u.ctxState (k.arg 16 2) = 1 ∧
          u.keyMask (k.arg 16 2) = k.arg 18 2 ∧ (u.ctx (k.arg 16 2)).seed = BitVec.ofNat 64 (k.arg 40 8) ∧
          ∀ j < k.arg 32 1, u.ring? (k.arg 16 2) j = s.ringDesc ((b.drop (16 * j)).take 16)) ∧
      (s.Posted k 0x0030 x → k.ctx ≠ 0 → (∀ g ∈ s.groupsBound, s.gCtx g = k.ctx.toNat → s.gState g ≠ 2) →
        Gives (.stepSet k) s fun u => u.Finished k x 0 ∧
          u.fld (CTX_STATE k.ctx.toNat) CTX_STATE_STEP = k.arg 16 4) ∧
      (s.Posted k 0x0031 x → k.ctx ≠ 0 → k.arg 16 2 ≠ 0 → Gives (.stepAdvance k) s fun u => u.Finished k x 0 ∧
        u.fld (CTX_STATE k.ctx.toNat) CTX_STATE_STEP =
          (s.fld (CTX_STATE k.ctx.toNat) CTX_STATE_STEP + k.arg 16 2) % 2 ^ 32) ∧
      (s.Posted k 0x0002 x → closeTarget k ≠ 0 → closeTarget k < 4096 → (k.ctx = 0 ∨ closeTarget k = k.ctx.toNat) →
        s.ctxState (closeTarget k) = 1 → s.tilesOf (closeTarget k) = [] →
        (∀ g ∈ s.groupsBound, s.gCtx g ≠ closeTarget k) →
        Gives (.ctxClose k) s fun u => u.ctxState (closeTarget k) = 2)) ∧
    (∀ c : BitVec 12, c ≠ 0 → s.on = true → s.ctxState c.toNat = 2 →
      ((s.ctx c.toNat).drained = false → s.teardownWaits c.toNat = false → Gives (.ctxTeardownDrain c) s fun u =>
        (u.ctx c.toNat).drained = true ∧ ∀ e ∈ u.sets, e.2.ctx ≠ c.toNat) ∧
      ((s.ctx c.toNat).drained = true → Gives (.closed c) s fun u =>
        u.ctxState c.toNat = 0 ∧ u.ctx c.toNat = { Ctx.init with closedAt := some s.cycle })) ∧
    (s.on = true → (∀ c r y, s.ring? c r = some y → y.tail = y.head) → ∀ (c : BitVec 12) (v : Word),
      Gives (.ctxRingHaltClear c v) s fun u => u.rd (CTX_RING_HALT c.toNat) = s.rd (CTX_RING_HALT c.toNat) &&& ~~~v) ∧
    (s.on = true → (∀ c r y, s.ring? c r = some y → s.ringTail y = y.head) → Gives .ringPoll s fun u =>
      u.mem = s.mem ∧ ∀ c r y, s.ring? c r = some y → r < 64 → (c = 0 ∨ Table.has s.ctxs c = true) →
        u.ring? c r = some { y with tail := s.ringTail y })

/-- Plans, groups and recordings (R238, R240, R245, R260, R261, R358, R360, R363): PLAN_LOAD takes a plan whose image and
body pass the checks, with the fingerprint of its image; PLAN_RETIRE takes it away; GROUP_BIND makes the group BOUND,
GROUP_UNBIND returns its record to UNBOUND; COLL_START makes it ACTIVE with RED_ID and STEP, COLL_ABORT ends the collective
with status 1; RECORD_START, RECORD_STOP and REPLAY_START set and clear RECORDING and REPLAY. Where the rules leave a choice
the clauses state the model's: log entries 28 and 32. -/
def Obligations.RingPlansAndGroups : Prop :=
  ∀ (s : State) (k : RingCmd) (x : Ring), s.ctxState k.ctx.toNat = 1 →
    let h := k.arg 16 1
    (∀ image body active modules seed p, s.Posted k 0x0010 x → k.ctx = 0 → h < 16 → Table.has s.plans h = false →
      s.mayRead 0 (k.arg 24 8) (k.arg 32 4) = true → (k.arg 48 4 = 0 ∨ s.mayRead 0 (k.arg 40 8) (k.arg 48 4) = true) →
      s.dataRead (k.arg 24 8) (k.arg 32 4) = (image, s) → s.dataRead (k.arg 40 8) (k.arg 48 4) = (body, s) →
      planHead s.switchId image body = some (active, modules, seed) → planRecs active body = some p →
      (s.mapFixed = true → widthsOf p.lanes = widthsOf s.laneMap) → active = s.active → s.crossesOff p = false →
      Gives (.planLoad k) s fun u => u.Finished k x 0 ∧ u.jorou.tseq = s.jorou.tseq + 1 ∧ u.laneMap = p.lanes ∧
        u.mapFixed = true ∧ Table.look u.plans h = some ⟨false, active, modules, BitVec.ofNat 64 seed, sha512 image, body⟩ ∧
        ∀ j, j ≠ h → Table.look u.plans j = Table.look s.plans j) ∧
    (s.Posted k 0x0011 x → k.ctx = 0 → h < 16 → Table.has s.plans h = true → (∀ g ∈ s.groupsBound, (s.group g).plan ≠ h) →
      Gives (.planRetire k) s fun u => u.Finished k x 0 ∧ u.jorou.tseq = s.jorou.tseq + 1 ∧
        ∀ j, Table.look u.plans j = if j = h then none else Table.look s.plans j) ∧
    (s.Posted k 0x0020 x → k.ctx ≠ 0 → ∀ p r g n, Table.look s.plans h = some p → p.stale = false →
      planRecs p.active p.body = some r →
      r.groups.filter (fun e => rNum e 0 2 == k.arg 18 2) = [g] → r.nodes = [] → r.circuits = [] → r.trees = [] →
      r.branches = [] → s.findGroup k.ctx.toNat (rNum g 2 2 % 4096) = none →
      lowest 1024 (fun j => s.gState j == 0) = some n → s.poisoned (groupAddr s n) 256 = false →
      x.Apart (groupAddr s n) 256 →
      Gives (.groupBind k) s fun u => u.Finished k x 0 ∧ u.gState n = 1 ∧ u.gCtx n = k.ctx.toNat ∧
        u.gHandle n = rNum g 2 2 % 4096 ∧ u.group n = { Group.init with plan := h, index := k.arg 18 2 }) ∧
    (k.ctx ≠ 0 → ∀ g, s.findGroup k.ctx.toNat (k.arg 18 2) = some g → x.Apart (groupAddr s g) 256 →
      (s.Posted k 0x0021 x → s.gState g = 1 → s.groupEntries g = [] → s.waiters = [] → (s.group g).chunks = [] →
        (s.group g).pond = none →
        Gives (.groupUnbind k) s fun u => u.Finished k x 0 ∧ u.gState g = 0 ∧ u.group g = Group.init) ∧
      (s.Posted k 0x0022 x → s.gRoot g = true → s.gState g = 1 → k.arg 28 4 = s.gChunks g → k.arg 32 1 ≠ 0 →
        s.groupStale g = false →
        (s.group g).chunks = [] → (s.group g).nodes = [] →
        Gives (.collStart k) s fun u => u.Finished k x 0 ∧ u.gState g = 2 ∧ u.gRedId g = k.arg 20 4 ∧
          u.gStep g = k.arg 24 4 ∧ u.gLow g = 0 ∧ (u.group g).sealed = [] ∧ (u.group g).start = s.cycle) ∧
      (s.Posted k 0x0023 x → s.gRoot g = true → s.gState g = 2 → (∀ c < s.gChunks g, c ∈ (s.group g).sealed) →
        Gives (.collAbort k) s fun u =>
        u.Finished k x 0 ∧ (u.gState g = 4 ∨ u.gState g = 1) ∧ u.grp g 209 1 = 1) ∧
      (s.Posted k 0x0080 x → (s.gState g = 1 ∨ s.gState g = 2) → k.arg 20 1 ≤ 1 → lpddrBase ≤ k.arg 32 8 →
        k.arg 32 8 + k.arg 40 8 ≤ lpddrEnd →
        s.allowed k.ctx.toNat (s.genOf k.ctx.toNat) (k.arg 32 8) (k.arg 40 8) .any = true →
        Gives (.recordStart k) s fun u => u.Finished k x 0 ∧ u.gRecording g = true ∧ u.gState g = s.gState g ∧
          u.grp g 64 8 = k.arg 32 8 ∧ u.grp g 72 8 = k.arg 40 8 ∧ (u.group g).recSeq = 0) ∧
      (s.Posted k 0x0081 x → s.gRecording g = true → Gives (.recordStop k) s fun u => u.Finished k x 0 ∧
        u.gRecording g = false) ∧
      (s.Posted k 0x0082 x → s.gState g = 1 → (k.arg 32 8 = 0 ∨ s.mayRead k.ctx.toNat (k.arg 24 8) (k.arg 32 8) = true) →
        Gives (.replayStartCommand k) s fun u =>
        u.Finished k x 0 ∧ u.gState g = 2 ∧ u.gReplay g = true ∧ (u.group g).replayBase = k.arg 24 8 ∧
          (u.group g).replayAt = 0 ∧ (u.group g).replaySize = k.arg 32 8))

/-- Circuits, trees, gate lists, mirrors, tags, adopted wiring and pools (R40, R44, R82, R101, R226, R315, R338): each
command writes the entry that its arguments name, and its ring entry completes with OK. Where the rules leave a choice the
clauses state the model's: log entries 34 and 38. -/
def Obligations.RingTables : Prop :=
  ∀ (s : State) (k : RingCmd) (x : Ring), s.ctxState k.ctx.toNat = 1 →
    let c := k.ctx.toNat
    (k.ctx ≠ 0 → k.arg 16 4 < 0xFFFFF → x.Apart (circAddr s (k.arg 16 4)) 16 →
      (s.Posted k 0x0040 x → (s.circuit (k.arg 16 4)).valid = false → s.poisoned (circAddr s (k.arg 16 4)) 16 = false →
        (Circuit.ofNat (k.arg 32 16)).ctx = c → Gives (.circSetup k) s fun u => u.Finished k x 0 ∧
          u.circuit (k.arg 16 4) = { Circuit.ofNat (k.arg 32 16) with valid := true }) ∧
      (s.Posted k 0x0041 x → (s.circuit (k.arg 16 4)).valid = true → (s.circuit (k.arg 16 4)).ctx = c →
        s.findGroup c (s.circuit (k.arg 16 4)).group = none → Gives (.circTear k) s fun u => u.Finished k x 0 ∧
          u.circuit (k.arg 16 4) = { s.circuit (k.arg 16 4) with valid := false })) ∧
    (∀ l, s.Posted k 0x0042 x → k.ctx ≠ 0 → (s.tree (k.arg 16 2)).valid = false →
      s.poisoned (treeAddr s (k.arg 16 2)) 256 = false →
      x.Apart (treeAddr s (k.arg 16 2)) 256 → s.mayRead c (k.arg 24 8) 256 = true →
      s.dataRead (k.arg 24 8) 256 = (l, s) → (Tree.ofNat (ofBytes l)).valid = true → (Tree.ofNat (ofBytes l)).ctx = c →
      Gives (.treeSet k) s fun u => u.Finished k x 0 ∧ u.tree (k.arg 16 2) = Tree.ofNat (ofBytes l)) ∧
    (∀ l, s.Posted k 0x0070 x → k.ctx = 0 → k.arg 16 2 < 1024 → k.arg 18 1 ≤ 1 → k.arg 19 2 < 4096 →
      s.mayRead 0 (k.arg 32 8) 512 = true →
      s.bit (PORT_GATE_CTL (k.arg 16 2)) PORT_GATE_CTL_ARM = false →
      s.dataRead (k.arg 32 8) 512 = (l, s) →
      gateListOk ((s.gateTake (k.arg 16 2) l).gateList (k.arg 16 2) (1 - s.gateBank (k.arg 16 2))) = true →
      Gives (.gateLoad k) s fun u => u.Finished k x 0 ∧ u.bit (PORT_GATE_CTL (k.arg 16 2)) PORT_GATE_CTL_ARM = true ∧
        u.rd (PORT_GATE_SWITCH_AT (k.arg 16 2)) = BitVec.ofNat 64 (k.arg 24 8) ∧
        ∀ j < 64, u.rd (PORT_GATE_ENTRY (k.arg 16 2) (1 - s.gateBank (k.arg 16 2)) j) =
          BitVec.ofNat 64 (ofBytes ((l.drop (8 * j)).take 4))) ∧
    (∀ l, let m := (s.mirror (k.arg 16 1)).load (ofBytes l)
      s.Posted k 0x0072 x → k.ctx = 0 → k.arg 16 1 < 16 → s.mayRead 0 (k.arg 24 8) 64 = true →
      s.dataRead (k.arg 24 8) 64 = (l, s) →
      (m.dest = 1024 ∨ (m.dest < 1024 ∧ s.role m.dest = 3)) →
      Gives (.mirrorSet k) s fun u => u.Finished k x 0 ∧ u.mirror (k.arg 16 1) = m) ∧
    (let a := tagAddr s (k.arg 16 2);
      s.Posted k 0x0073 x → k.ctx ≠ 0 → k.arg 16 2 < 4096 → bitOf (s.entry a 64) 416 = false →
        bitOf (k.arg 18 1) 0 = true → x.Apart a 64 →
      Gives (.tagWatch k) s fun u => u.Finished k x 0 ∧ u.load a 2 = c ∧ u.load (a + 2) 2 = k.arg 20 2 % 4096 ∧
        u.load (a + 4) 4 = k.arg 24 4 ∧ u.load (a + 52) 1 = 1) ∧
    (s.Posted k 0x0090 x → k.ctx = 0 → k.arg 16 2 < 1024 → s.linkState (k.arg 16 2) = linkQuarantined →
      s.fld (PORT_LINK_STAT (k.arg 16 2)) PORT_LINK_STAT_Q_REASON ≤ 4 → s.role (k.arg 16 2) = 2 →
      bitsOf (s.rd (PORT_PEER_SEEN0 (k.arg 16 2))).toNat 44 2 = 0 →
      Gives (.adoptWiring k) s fun u => u.Finished k x 0 ∧ u.live (k.arg 16 2) = true) ∧
    (k.ctx ≠ 0 → 4 ≤ k.arg 16 1 → k.arg 16 1 < 64 →
      (let q : PoolArgs := ⟨k.arg 16 1, k.arg 17 1, k.arg 18 1, k.arg 20 4, k.arg 24 8, k.arg 32 8, k.arg 40 2, k.arg 42 2⟩;
        ∀ o, s.Posted k 0x0050 x → (s.pool q.pool).state = 0 → PoolArgs.bad s q = false →
        s.covers c (s.genOf c) q.base (q.count * (4096 * 2 ^ q.size)) .rd = true →
        s.covers c (s.genOf c) q.base (q.count * (4096 * 2 ^ q.size)) .wr = true → q.min1 ≤ q.count → s.freeOwner = some o →
        Gives (.poolCreate k) s fun u => u.Finished k x 0 ∧ (u.pool q.pool).state = 1 ∧ (u.pool q.pool).ctx = c ∧
          (u.pool q.pool).count = q.count ∧ (u.pool q.pool).base = q.base ∧
          u.owner o = some ⟨q.pool, 1, ownerKey c 0, q.max1, q.min1, 0⟩) ∧
      (s.Posted k 0x0051 x → (s.pool (k.arg 16 1)).state ≠ 0 → (s.pool (k.arg 16 1)).ctx = c →
        (s.allocated (k.arg 16 1) = 0 ∨ bitOf (k.arg 17 1) 0 = true) → (∀ w ∈ s.waiters, w.pool ≠ k.arg 16 1) →
        Gives (.poolDestroy k) s fun u => u.Finished k x 0 ∧ u.pool (k.arg 16 1) = Pool.init ∧
          ∀ e ∈ u.owners, e.2.pool ≠ k.arg 16 1))

/-- Thread sets and expert home tables (R137, R169, R269, R359): THREADS_LAUNCH puts every named thread in RUN at tile x 8
MiB + offset, with ARG in s1, its number in s2 and every other register 0; THREADS_KILL stops every thread of the set: its
passes and drains are gone, its accumulator indices and tailwater entries free, it is IDLE when nothing of it is outstanding,
and with its last thread the set is gone; EHT_LOAD writes the header and the entries of the bank that is not in force: the
first load of a table takes effect at once and starts it with nothing held, a later one waits as PENDING; each source has its
owner of one buffer. Where the rules leave a choice the clauses state the model's: log entries 33 and 34. -/
def Obligations.RingThreadsAndExperts : Prop :=
  ∀ (s : State) (k : RingCmd) (x : Ring), s.ctxState k.ctx.toNat = 1 → k.ctx ≠ 0 →
    let c := k.ctx.toNat
    (s.Posted k 0x0060 x → 1 ≤ k.arg 20 2 → k.arg 22 2 ≠ 0 → k.arg 18 2 + k.arg 20 2 ≤ 256 →
      (∀ t, k.arg 18 2 ≤ t → t < k.arg 18 2 + k.arg 20 2 → s.bound t = true ∧
        s.fld (TILE_CTL t) TILE_CTL_THREAD_HALT = 0 ∧ ∀ h < 16, (s.thread t h).st = .idle) →
      Table.has s.sets (setKey c (k.arg 16 1)) = false → k.arg 24 8 % 8 = 0 → k.arg 24 8 + 8 ≤ tileBytes →
      Gives (.threadsLaunch k) s fun u => u.Finished k x 0 ∧
        Table.look u.sets (setKey c (k.arg 16 1)) =
          some ⟨c, k.arg 18 2, k.arg 20 2, BitVec.ofNat 16 (k.arg 22 2)⟩ ∧
        ∀ t h, k.arg 18 2 ≤ t → t < k.arg 18 2 + k.arg 20 2 → h < 16 → bitOf (k.arg 22 2) h = true →
          (u.thread t h).st = .run ∧ (u.thread t h).pc = BitVec.ofNat 64 (t * tileBytes + k.arg 24 8) ∧
          ∀ r, (u.thread t h).getS r =
            if r = 1 then BitVec.ofNat 64 (k.arg 32 8) else if r = 2 then BitVec.ofNat 64 h else 0) ∧
    (∀ q, s.Posted k 0x0061 x → Table.look s.sets (setKey c (k.arg 16 1)) = some q →
      let mine (t h : Nat) : Prop := q.first ≤ t ∧ t < q.first + q.count ∧ h < 16 ∧ q.mask.getLsbD h = true ∧
        (s.thread t h).set = setKey c (k.arg 16 1) ∧ (s.thread t h).st ≠ .idle
      Gives (.threadsKill k) s fun u => u.Finished k x 0 ∧
        (∀ t h, mine t h → (u.thread t h).st = (if (s.tile t).quiet h then .idle else .stopped) ∧
          (∀ a ∈ (u.tile t).accs, a.2.owner ≠ some h) ∧ (∀ e ∈ (u.tile t).tq, e.thread ≠ h) ∧
          ∀ m ∈ (u.tile t).mmaQ ++ (u.tile t).mma.toList, m.thread ≠ h) ∧
        ((∀ t h, mine t h → (s.tile t).quiet h = true) → Table.look u.sets (setKey c (k.arg 16 1)) = none)) ∧
    (∀ l l', let h := k.arg 16 1
      let e := ofBytes l
      let n := ehtImg e 6 4
      let bank := s.ehtBank h
      let entries := (s.rd EXP_ENT_BASE).toNat + 8 * (65536 * (1 - bank) + ehtImg e 4 2)
      s.Posted k 0x0071 x → h < 16 → s.mayRead c (k.arg 24 8) 256 = true → s.dataRead (k.arg 24 8) 256 = (l, s) →
      (s.ehtValid h = true → s.ehtCtx h = c ∧ s.ehtPending h = false) → ehtImg e 0 2 % 4096 = c → s.ehtBad h e = false →
      (s.pool (ehtImg e 13 1)).ctx = c → s.mayRead c (k.arg 32 8) (8 * n) = true →
      s.dataRead (k.arg 32 8) (8 * n) = (l', s) → s.ehtNoPool e (s.ehtOwners c h e) = false →
      x.Apart (ehtAddr s h) 256 → x.Apart entries (8 * n) →
      (ehtAddr s h + 256 ≤ entries ∨ entries + 8 * n ≤ ehtAddr s h) →
      Gives (.ehtLoad k) s fun u => u.Finished k x 0 ∧
        (∀ b < 256, b ≠ 3 → b < 24 ∨ 28 ≤ b → u.ehtNum h b 1 = ehtImg e b 1) ∧ u.ehtFlag h 0 = bitOf (ehtImg e 3 1) 0 ∧
        (∀ j < n, u.load (entries + 8 * j) 8 = ofBytes ((l'.drop (8 * j)).take 8)) ∧
        (∀ r ∈ s.ehtOwners c h e, ∃ o, u.owner o = some ⟨ehtImg e 13 1, 3, ownerKey c (256 * h + r), 0, 1, 0⟩) ∧
        (s.ehtValid h = false → u.ehtBank h = 1 - bank ∧ u.ehtPending h = false ∧ u.ehtCur h = ehtImg e 20 4 ∧
          u.eht h = Eht.init) ∧
        (s.ehtValid h = true → u.ehtBank h = bank ∧ u.ehtPending h = true ∧ u.ehtCur h = s.ehtCur h ∧ u.eht h = s.eht h))

/-! ### The host port -/

/-- Requests of an open session (R353-R355, R365): READ of LPDDR5X answers with its bytes and writes nothing; WRITE stores
exactly its bytes; POST writes its entries from FIRST and sets TAIL behind them, and with a FIRST that differs from TAIL is
answered BUSY and writes nothing; BELL reads TAIL; EVENT_ACK releases every record up to EVT_SEQ. A READ or WRITE that the
session may not make is answered with its status; one for a page that is being copied or for packages in self-refresh waits
(R301, R302). Where the rules leave a choice the clauses state the model's: log entries 31 and 59. -/
def Obligations.HostRequests : Prop :=
  ∀ (s : State) (m : ZctMsg) (x : Session),
    (s.Heard m 5 x → s.zctWaits m = false → m.body.length = 12 → 1 ≤ m.num 8 4 → m.num 8 4 ≤ 8176 →
      (s.hostCheck (x.took m.seq.toNat m.src) (m.num 0 8) (m.num 8 4) false = none → lpddrBase ≤ m.num 0 8 →
        Gives (.zctRead m) s fun u => u.Answered m x 0 (s.bytes (m.num 0 8) (m.num 8 4)) ∧ u.mem = s.mem) ∧
      (∀ b, s.hostCheck (x.took m.seq.toNat m.src) (m.num 0 8) (m.num 8 4) false = some (b, 4) →
        Gives (.zctRead m) s fun u => u.Answered m x 4 [] ∧ u.mem = s.mem)) ∧
    (s.Heard m 6 x → s.zctWaits m = false → m.body.length = 12 + m.num 8 4 → 1 ≤ m.num 8 4 →
      (s.hostCheck (x.took m.seq.toNat m.src) (m.num 0 8) (m.num 8 4) true = none → lpddrBase ≤ m.num 0 8 →
        Gives (.zctWrite m) s fun u => u.Answered m x 0 [] ∧ ∀ a, Memory.read u.mem a =
          if m.num 0 8 ≤ a ∧ a < m.num 0 8 + m.num 8 4 then m.body.getD (12 + (a - m.num 0 8)) 0 else Memory.read s.mem a) ∧
      (∀ b, s.hostCheck (x.took m.seq.toNat m.src) (m.num 0 8) (m.num 8 4) true = some (b, 4) →
        Gives (.zctWrite m) s fun u => u.Answered m x 4 [] ∧ u.mem = s.mem)) ∧
    (∀ type ∈ [5, 6], s.Heard m type x → s.zctWaits m = true →
      (∀ w ∈ s.zctWait, (w.1, w.2.2.reqId) ≠ (m.session.toNat, m.reqId)) →
      Gives (if type = 5 then .zctRead m else .zctWrite m) s fun u =>
        u.zctWait = s.zctWait ++ [(m.session.toNat, type, m)] ∧ u.out = s.out ∧ u.mem = s.mem) ∧
    (∀ y, m.num 0 2 < 4096 → s.holdsCtx x (m.num 0 2) = true → s.ctxState (m.num 0 2) ≠ 0 →
      s.ring? (m.num 0 2) (m.num 2 1) = some y → 2 ^ 31 ≤ y.base →
      (let n := (m.body.length - 8) / 64;
        s.Heard m 7 x → 72 ≤ m.body.length → m.body.length = 8 + 64 * n → n ≤ 127 →
        (m.num 4 4 = s.ringTail y → m.num 4 4 + n ≤ y.head + 2 ^ y.order → y.head ≤ m.num 4 4 →
          Gives (.post m) s fun u => u.Answered m x 0 [] ∧
            (u.ring? (m.num 0 2) (m.num 2 1)).map Ring.tail = some (m.num 4 4 + n) ∧
            (s.ringWork = [] → s.ctxState (m.num 0 2) = 1 → y.head = m.num 4 4 → m.num 8 2 ∈ opcodes →
              u.ringTail y = m.num 4 4 + n ∧
                ∀ i < n, u.bytes (y.entry (m.num 4 4 + i)) 64 = (m.body.drop (8 + 64 * i)).take 64)) ∧
        (m.num 4 4 ≠ s.ringTail y → Gives (.post m) s fun u => u.Answered m x 6 [] ∧ u.mem = s.mem)) ∧
      (s.Heard m 8 x → m.body.length = 3 → Gives (.bell m) s fun u => u.Answered m x 0 [] ∧
        (u.ring? (m.num 0 2) (m.num 2 1)).map Ring.tail = some (s.ringTail y))) ∧
    (s.Heard m 11 x → m.body.length = 8 → Gives (.eventAck m) s fun u =>
      (u.session m.session.toNat).map Session.events = some (x.events.filter fun e => decide (m.num 0 8 < e.seq)))

/-- Sessions (R348-R352): OPEN makes a session that is not yet open, with the two keys derived from the exchange, and is
answered with OPEN_ACK, signed by the identity key; or it is refused with its status and counted; CONFIRM
opens it, and a privileged one takes the place of every other; CLOSE and the time-outs end it; KEEPALIVE moves the replay
window. A message that is not authentic changes no session and is answered with nothing; one whose SEQ was seen is dropped.
Where the rules leave a choice the clauses state the model's: log entries 16 and 58. -/
def Obligations.HostSessions : Prop :=
  ∀ (s : State) (m : ZctMsg), s.on = true →
    (s.hostLink = true → s.crossed 4 = false → s.forPort m = true → m.whole = true →
      (Gives (.zctOpen m) s fun u => match s.openCheck m with
        | .inl st => u.sessions = s.sessions ∧ u.rd HP_AUTH_FAIL = s.rd HP_AUTH_FAIL + 1 ∧
          u.out = s.out ++ [Out.zct m.src 9 0xFFFF 0 m.reqId (BitVec.ofNat 8 st) [] (List.replicate 64 0)]
        | .inr key => ∀ n, lowest 64 (fun i => !Table.has s.sessions i) = some n →
          (∃ y sk nonce, u.session n = some y ∧ y.opened = false ∧ y.key = key ∧ y.addr = m.src ∧
            y.hostNonce = (m.body.drop 64).take 32 ∧
            y.h2m ++ y.m2h = hkdf128 ((m.body.drop 64).take 32 ++ nonce) (x25519 sk ((m.body.drop 32).take 32))
              [0x5A, 0x43, 0x54, 0x31] ∧
            let front := toBytes 2 n ++ List.replicate 30 0 ++ x25519 sk (9 :: List.replicate 31 0) ++ nonce ++ s.identityKey
            u.out = s.out ++ [Out.zct m.src 2 n 0 m.reqId 0 (front ++ ed25519Sign s.seed (m.body ++ front))
              (List.replicate 64 0)]) ∧
          ∀ j, j ≠ n → u.session j = s.session j) ∧
      (∀ x, s.session m.session.toNat = some x → x.opened = false → x.authentic m 3 = true → m.seq = 0 →
        Gives (.confirm m) s fun u => (u.session m.session.toNat).map Session.opened = some true ∧
          u.power.sessionSeen = true ∧ (x.priv = true → ∀ e ∈ u.sessions, e.2.priv = true → e.1 = m.session.toNat)) ∧
      (∀ x mk type, (mk, type) ∈ [(Instr.zctClose, 4), (.zctRead, 5), (.zctWrite, 6), (.post, 7), (.bell, 8), (.eventAck, 11),
          (.keepalive, 12)] → s.session m.session.toNat = some x →
        ((x.opened = false ∨ x.authentic m type = false) → exec (mk m) s = .next (s.count HP_AUTH_FAIL)) ∧
        (x.opened = true → x.authentic m type = true → x.replayed m.seq.toNat = true →
          exec (mk m) s = .next (s.count HP_REPLAY_DROP)))) ∧
    (∀ x, s.Heard m 4 x → Gives (.zctClose m) s fun u => u.session m.session.toNat = none ∧
      ∀ j, j ≠ m.session.toNat → u.session j = s.session j) ∧
    (∀ x, s.Heard m 12 x → Gives (.keepalive m) s fun u => u.rd HP_RX_ZCT = s.rd HP_RX_ZCT + 1 ∧
      (u.session m.session.toNat).map Session.rxHigh = some (max x.rxHigh m.seq.toNat)) ∧
    (∀ (k : Fin 64) x, s.session k = some x →
      (x.opened = false → Gives (.openConfirmTmo k) s fun u => ∀ j, u.session j = if j = k.val then none else s.session j) ∧
      (x.opened = true → (Gives (.sessionTmo k) s fun u => ∀ j, u.session j = if j = k.val then none else s.session j) ∧
        exec (.openConfirmTmo k) s = .next s ∧
        (s.hostLink = true → s.crossed 4 = false → Gives (.eventResend k) s fun u => u.out = s.out ++
          (packEvents x.events).zipIdx.map fun e => Out.zct x.addr 10 k (x.txSeq + 1 + e.2) 0 0 e.1
            (zctMac x.m2h 10 k e.1 (x.txSeq + 1 + e.2) 0 0))))

/-- The link, other frames and the port's configuration (R345, R346, R352, R368): a frame for the port's own address is
answered, another is counted; a register write waits for HOST_PORT_CFG_APPLY, which closes every session; SAVE stores the
registers and the key list in flash; a key that changes loses its sessions. Where the rules leave a choice the clauses state
the model's: log entries 58 and 60. -/
def Obligations.HostPortCommands : Prop :=
  ∀ s : State, s.on = true →
    (∀ f : HostFrame, s.hostLink = true → s.crossed 4 = false →
      (s.ownAddress f.src.v6 f.target.toNat = true →
        exec (.arpNd f) s = .next (s.emit (.arp f.src (BitVec.ofNat 48 (s.hpNow 1)))) ∧
        exec (.icmpEcho f) s = .next (s.emit (.echo f.src f.payload))) ∧
      (s.ownAddress f.src.v6 f.target.toNat = false → exec (.arpNd f) s = .next (s.count HP_RX_OTHER) ∧
        exec (.icmpEcho f) s = .next (s.count HP_RX_OTHER)) ∧
      exec .hostFrameDiscard s = .next (s.count HP_RX_OTHER)) ∧
    (Gives .hostLinkDown s fun u => u = s.putHostLink false) ∧ (Gives .hostLinkUp s fun u => u = s.putHostLink true) ∧
    (∀ (o : Fin 6) (v : Word), Gives (.hostPortCfgWrite o v) s fun u => u.hpApply = true ∧ u.sessions = s.sessions ∧
      u.hpActive = s.hpActive ∧ (o = 3 → u.rd HP_IPV6_HI = v) ∧ ∀ r, r ≠ hpRegs.getD o HP_CFG → u.rd r = s.rd r) ∧
    (s.hpApply = true → Gives .hostPortCfgApply s fun u => u.sessions = [] ∧ u.hpActive = hpRegs.map s.rd ∧
      u.hpApply = false ∧ u.regs = s.regs) ∧
    (Gives .save s fun u => u.flash.cfg = hpRegs.map s.rd ∧ u.regs = s.regs ∧
      ∀ k < 16, ∀ w < 5, Table.look u.flash.keys (5 * k + w) = some (s.rd (hpKeyReg k w))) ∧
    (Gives .closeAll s fun u => u = s.putSessions []) ∧
    (∀ (k : Fin 16) (w : Fin 5) (v : Word), w ≠ 0 → Gives (.hpKeyWrite k w v) s fun u =>
      u.rd (HP_KEY_PUB k (w.val - 1)) = v ∧
        (if v = s.rd (HP_KEY_PUB k (w.val - 1)) then u.sessions = s.sessions else ∀ e ∈ u.sessions, e.2.key ≠ k.val))

/-! ### Events, hangs, captures and resets -/

/-- HW_INTERNAL_ERROR and the first-error latch (R371, R373-R375, R379): an error of any class counts once and in its source's
entry; the first of class C to F fills an empty latch with its class, source, code and cycle, one of class N leaves the
latch; a class P error of an octet and a class D error start the reset that SPW_AUTO asks for; class D and F errors, and no
others, force the safe state; a class F error is fatal and drops every reset. Pins, captures, counters and the ditch rider
(R373, R380-R387): when the pulse ends FAULT_L is low exactly while DRIVE is set, until then it stays low; REQUEST asserts
TRAY_REQ_L and nothing else; a capture that ends is written to buffers of pool 2 and named in SPW_CAP_LAST, TRUNC tells
whether CAP_TMO ended it, and the port engine reset that waited for it does its work; a capture without a buffer is counted
as lost; SPW_CAP_FREE gives a chain back; COUNT_CLEAR zeroes the source counters and no other byte; a scan counts itself and
its new hangs, keeps the nodes that wait and the hangs it finds, and closes the context of a new hang where AUTO_CTX asks for
it. Where the rules leave a choice the clauses state the model's: log entries 49, 50 and 51. -/
def Obligations.EventsPinsCaptures : Prop :=
  (∀ (s : State) (block : BitVec 8) (inst : BitVec 24) (cls : EvClass) (address : Word), s.on = true →
    let e : Ev := { cls := classNum cls, src := sourceOf block.toNat inst.toNat, code := evCode 0x002F, hw := true,
                    detail := address.toNat }
    s.repeatOf e = none → (block = 1 → cls = .E → ∀ p, s.physTile inst.toNat = some p → s.wearsOut p = false) →
    s.power.octetsDead = [] →
    Gives (.hwInternalError block inst cls address) s fun u =>
      u.rd SPW_EVENTS = s.rd SPW_EVENTS + 1 ∧
      (block.toNat < 20 → inst.toNat < 1024 →
        u.load (countAddr s e.src + 4 * e.cls) 4 = min (s.load (countAddr s e.src + 4 * e.cls) 4 + 1) 0xFFFFFFFF ∧
        u.load (countAddr s e.src + 24) 8 = s.cycle % 2 ^ 64) ∧
      (20 ≤ block.toNat ∨ 1024 ≤ inst.toNat → u.mem = s.mem) ∧
      (cls ≠ .N → s.bit SPW_FERR_SRC SPW_FERR_SRC_VALID = false →
        u.bit SPW_FERR_SRC SPW_FERR_SRC_VALID = true ∧ u.fld SPW_FERR_SRC SPW_FERR_SRC_CLASS = e.cls ∧
        u.fld SPW_FERR_SRC SPW_FERR_SRC_SOURCE = e.src ∧ u.bit SPW_FERR_SRC SPW_FERR_SRC_HW = true ∧
        u.rd SPW_FERR_CODE = 0x0400002F ∧ u.rd SPW_FERR_CYCLE = BitVec.ofNat 64 s.cycle) ∧
      (cls = .N → u.rd SPW_FERR_SRC = s.rd SPW_FERR_SRC ∧ u.rd SPW_FERR_CODE = s.rd SPW_FERR_CODE ∧ u.reset? = s.reset?) ∧
      u.safe = (s.safe || cls == .D || cls == .F) ∧
      (cls = .P → block = 3 → s.reset? = none → u.reset?.map (fun o => (o.unit, o.index)) =
        if s.bit SPW_AUTO SPW_AUTO_AUTO_PART then some (4, inst.toNat) else none) ∧
      (cls = .D → (block = 16 → u.hostLink = false) ∧ (s.safe = true → u.reset? = s.reset?) ∧
        (s.safe = false → s.reset? = none → s.resetQ = [] → u.reset?.map ResetOp.unit =
          if s.bit SPW_AUTO SPW_AUTO_AUTO_DEV then some 5 else none)) ∧
      (cls = .F → u.bit SPW_STAT SPW_STAT_FATAL = true ∧ u.reset? = none ∧ u.resetQ = [])) ∧
  (∀ s : State, s.on = true →
    (Gives .faultPulseEnd s fun u => u.bit FAULT_PIN FAULT_PIN_PULSE = false ∧
      u.power.faultLow = s.bit FAULT_PIN FAULT_PIN_DRIVE) ∧
    (∀ v : Word, Gives (.faultPinWrite v) s fun u => u.bit FAULT_PIN FAULT_PIN_DRIVE = v.getLsbD 0 ∧
      u.power.faultLow = (s.bit FAULT_PIN FAULT_PIN_PULSE || v.getLsbD 0)) ∧
    (Gives .request s fun u => u.bit SPW_TRAY_REQ SPW_TRAY_REQ_ASSERTED = true ∧
      u.bit SPW_TRAY_REQ SPW_TRAY_REQ_REQUEST = true ∧ u.power.trayLow = true ∧ u.safe = s.safe ∧ u.capture = s.capture ∧
      ∀ r, r ≠ SPW_TRAY_REQ → u.rd r = s.rd r) ∧
    (∀ h : Word, (Table.look s.captures h.toNat = none → exec (.spwCapFree h) s = .next s) ∧
      ∀ l, Table.look s.captures h.toNat = some l → Gives (.spwCapFree h) s fun u =>
        (∀ j, Table.look u.captures j = if j = h.toNat then none else Table.look s.captures j) ∧
        (l = [h.toNat] → s.handleOk 2 h = true → (s.buf (handleAddr h)).owners = [2] → (∀ w ∈ s.waiters, w.pool ≠ 2) →
          (u.buf (handleAddr h)).owners = [])) ∧
    (Gives .countClear s fun u => u.regs = s.regs ∧ ∀ a, Memory.read u.mem a =
      if (s.rd SPW_COUNT_BASE).toNat ≤ a ∧ a < (s.rd SPW_COUNT_BASE).toNat + 655360 then 0 else Memory.read s.mem a) ∧
    (∀ i trunc, (i, trunc) ∈ [(Instr.captureComplete, 0), (.capTmo, 1)] →
      (s.capture = none → exec i s = .next s) ∧
      let next (u : State) : Prop := u.capture = s.capQ.head?.map (fun c => { c with since := s.cycle }) ∧ u.capQ = s.capQ.tail
      (∀ c, s.capture = some c → c.op = none →
        (s.owner 2 = none → Gives i s fun u => u.rd SPW_CAP_LOST = s.rd SPW_CAP_LOST + 1 ∧
          u.captures = s.captures ∧ next u ∧ (c.tray = true → u.power.trayLow = true)) ∧
        (∀ x h t, s.owner 2 = some x → s.mayAlloc 2 x = true → s.allocNow 2 2 x = (some h, t) →
          (s.capSections c).length ≤ 65472 → Gives i s fun u =>
            u.captures = s.captures ++ [(h.toNat, [h.toNat])] ∧ u.rd SPW_CAP_LAST = h ∧ next u ∧
            u.load (handleAddr h) 8 = 0 ∧ u.load (handleAddr h + 8) 4 = 0x50534143 ∧ u.load (handleAddr h + 33) 1 = trunc ∧
            (trunc = 0 → u.bytes (handleAddr h + 64) (s.capSections c).length = s.capSections c) ∧
            (c.tray = true → u.power.trayLow = true))) ∧
      (∀ c o, s.capture = some c → c.op = some o → o.unit = 2 → s.owner 2 = none → Gives i s fun u =>
        u.rd SPW_CAP_LOST = s.rd SPW_CAP_LOST + 1 ∧ u.selfRefresh = true ∧ (u.port o.index).mirrorQ = [])) ∧
    (let kept := s.waitNodes.filter (keptIn s.scan);
      let now := hangsOf kept (stallCounts s.stalls kept) s.stallScans;
      let fresh := now.filter fun h => !s.hangs.contains h.2;
      (s.bit SPW_AUTO SPW_AUTO_AUTO_CTX = false ∨ fresh = [] → Gives .ditchRiderScan s fun u =>
        u.scan = s.waitNodes ∧ u.hangs = now.map Prod.snd ∧ u.rd SPW_SCANS = s.rd SPW_SCANS + 1 ∧
        u.rd SPW_HANGS = s.rd SPW_HANGS + BitVec.ofNat 64 fresh.length) ∧
      ∀ k d c, s.bit SPW_AUTO SPW_AUTO_AUTO_CTX = true → fresh = [(k, [d])] → memberOwner d = some c → s.ctxState c = 1 →
        Gives .ditchRiderScan s fun u => u.scan = s.waitNodes ∧ u.hangs = now.map Prod.snd ∧ u.ctxState c = 2))

/-- Resets (R379, R388, R389, R391, R393, R394, R401): each request starts its unit's reset with the capture before it, is
refused while another runs, and does nothing for a tile that is not active; RESET_COMPLETE ends the reset, and the safe
state with a device compute reset, starts the next one that waits, and substitutes a candidate in its scope where that is
asked for; a reset that exceeds its bound escalates to the unit around it, whose reset starts where SPW_AUTO asks for it, an
octet reset leaves the octet down. Both do nothing while no reset runs, while its capture runs, and to a power cycle. Where
the rules leave a choice the clauses state the model's: log entry 61. -/
def Obligations.Resets : Prop :=
  ∀ s : State, s.on = true →
    (let starts (i : Instr) (o : ResetOp) : Prop :=
        (s.bit SPW_STAT SPW_STAT_RESET_BUSY = false → Gives i s fun u => u.reset? = some o ∧
          u.bit SPW_STAT SPW_STAT_RESET_BUSY = true ∧ u.fld SPW_STAT SPW_STAT_RESET_UNIT = o.unit ∧
          (u.capture.toList ++ u.capQ).any (fun c => c.op == some o) = true ∧ (o.unit = 6 → u.safe = true)) ∧
        (s.bit SPW_STAT SPW_STAT_RESET_BUSY = true → Gives i s fun u => u.reset? = s.reset? ∧ u.resetQ = s.resetQ ∧
          u.tiles = s.tiles ∧ u.safe = s.safe ∧ u.rd SPW_RESET = s.rd SPW_RESET);
      let op (unit index engine : Nat) (scrub replace : Bool) : ResetOp :=
        { unit := unit, index := index, engine := engine, scrub := scrub, replace := replace, cls := 6, source := 0,
          cause := 0 };
      (∀ (t : Fin 256) (g : Fin 3) replace scrub,
        (t.val < s.active → starts (.tileEngineReset t g replace scrub) (op 1 t g scrub replace)) ∧
        (s.active ≤ t.val → s.bit SPW_STAT SPW_STAT_RESET_BUSY = false → Gives (.tileEngineReset t g replace scrub) s fun u =>
          u.reset? = s.reset? ∧ u.capture = s.capture ∧ u.tiles = s.tiles)) ∧
      (∀ p : Fin 1024, starts (.portEnginesReset p) (op 2 p 0 false false)) ∧
      (∀ (c : Fin 33) scrub, starts (.clusterReset c scrub) (op 3 c 0 scrub false)) ∧
      (∀ o : Fin 128, starts (.octetReset o) (op 4 o 0 false false)) ∧
      (∀ scrub, starts (.deviceComputeReset scrub) (op 5 0 0 scrub false)) ∧
      starts .powerCycleRequest (op 6 0 0 false false)) ∧
    (∀ i ∈ [Instr.resetComplete, .resetBoundExpiry], (s.reset? = none → exec i s = .next s) ∧
      ∀ o, s.reset? = some o → (o.unit = 6 ∨ s.capturing = true) → exec i s = .next s) ∧
    (∀ o, s.reset? = some o → o.unit ≠ 6 → s.capturing = false →
      ((o.replace = false ∧ s.bit SPW_AUTO SPW_AUTO_AUTO_SPARE = false) ∨ (∀ t ∈ s.candidateTiles, s.opHasTile o t = false) →
        Gives .resetComplete s fun u => (o, s.cycle) ∈ u.resetsDone ∧
          (o.unit = 5 → s.bit SPW_STAT SPW_STAT_FATAL = false → u.safe = false) ∧
          (s.resetQ = [] → u.reset? = none ∧ u.bit SPW_STAT SPW_STAT_RESET_BUSY = false ∧ u.selfRefresh = false) ∧
          ∀ q l, s.resetQ = q :: l → u.reset? = some q.1 ∧ u.resetQ = l ∧ u.bit SPW_STAT SPW_STAT_RESET_BUSY = true) ∧
      (∀ t p q, o.unit = 1 → o.index = t → (o.replace = true ∨ s.bit SPW_AUTO SPW_AUTO_AUTO_SPARE = true) →
        s.candidateTiles = [t] → s.physTile t = some p → s.spareFor p = some q → Gives .resetComplete s fun u =>
          (o, s.cycle) ∈ u.resetsDone ∧ u.physTile t = some q ∧ p ∈ u.failedTiles ∧ p ∉ u.candidates) ∧
      (s.resetQ = [] →
        (let auto (f : Fld) (x : Nat × Nat) := if s.bit SPW_AUTO f then some x else none;
          (o.unit = 1 → Gives .resetBoundExpiry s fun u => u.reset?.map (fun r => (r.unit, r.index)) =
            auto SPW_AUTO_AUTO_PART (3, s.clusterOf o.index)) ∧
          (o.unit = 2 → Gives .resetBoundExpiry s fun u => u.reset?.map (fun r => (r.unit, r.index)) =
            auto SPW_AUTO_AUTO_PART (4, o.index / 8)) ∧
          (o.unit = 3 → Gives .resetBoundExpiry s fun u => u.safe = true ∧ u.reset?.map (fun r => (r.unit, r.index)) =
            if s.safe then none else auto SPW_AUTO_AUTO_DEV (5, 0))) ∧
        (o.unit = 4 → Gives .resetBoundExpiry s fun u => bitOf u.power.octetsOn o.index = false ∧
          ∀ i < 8, (u.port (8 * o.index + i)).powered = false) ∧
        (o.unit = 5 → Gives .resetBoundExpiry s fun u => u.reset? = none ∧ u.bit SPW_STAT SPW_STAT_FATAL = true)))

/-! ### Power, clocks, boot and the management target -/

/-- The input, RESET_L and the sensors (R407-R410, R412, R454, R457, R461): outside 36-56 V, or when RESET_L falls, the main
side loses everything but flash, certificate, ledger and Water Book, and SLU_CYCLE starts over; in range with RESET_L high
domain 0 starts (the voltage limits and what is kept: log entry 1). Samples set their registers, during the boot too; a band
of the voltage or the current that persists for its own hold time, and 115 degrees, are fatal once the module runs. Where
the rules leave a choice the clauses state the model's: log entries 1 and 55. -/
def Obligations.InputAndTemperature : Prop :=
  ∀ s : State,
    (let lost (u : State) : Prop := u.power.mainOn = false ∧ u.on = false ∧ u.mem = [] ∧ u.cycle = 0 ∧ u.tiles = [] ∧
        u.sessions = [] ∧ u.flash = s.flash ∧ u.bootSlots = s.bootSlots ∧ u.cert = s.cert ∧ u.ledger = s.ledger ∧
        u.wb.records = s.wb.records ∧ u.wb.eTotal = s.wb.eTotal ∧
        u.fld SEC_BOOT SEC_BOOT_BOOT = s.fld SEC_BOOT SEC_BOOT_BOOT ∧ u.pending = s.pending;
      (s.power.mainOn = true →
        (∀ v a w held, outOfRange v.toNat = true → Gives (.inputSample v a w held) s lost) ∧
        (s.power.resetL = true → Gives .resetLFall s fun u => lost u ∧ u.power.resetL = false) ∧
        (∀ v, outOfRange v.toNat = true → Gives (.inputPowerLoss v) s lost) ∧
        (∀ v, outOfRange v.toNat = false → exec (.inputPowerLoss v) s = .next s)) ∧
      (s.power.mainOn = false → ∀ v : BitVec 16, inRange v.toNat = true →
        (s.power.resetL = false → Gives (.resetLRise v) s fun u =>
          u.power.mainOn = true ∧ u.power.resetL = true ∧ u.domain 0 = 1) ∧
        (s.power.resetL = true → Gives (.inputPowerReturn v) s fun u => u.power.mainOn = true ∧ u.domain 0 = 1))) ∧
    (s.fed = true → ∀ v a w held, outOfRange v.toNat = false → Gives (.inputSample v a w held) s fun u =>
        u.fld PWR_INPUT PWR_INPUT_VOLTAGE = v.toNat ∧ u.fld PWR_INPUT PWR_INPUT_CURRENT = a.toNat ∧
        (6000 < a.toNat → u.duty = 4 ∧ u.bit PWR_THROTTLE PWR_THROTTLE_CURRENT = true) ∧
        (s.on = true → held.voltage = true → v.toNat < 3800 → 1 ∉ s.power.excursion →
          u.bit SPW_STAT SPW_STAT_FATAL = true ∧ u.safe = true) ∧
        (s.on = true → held.current = true → 6600 < a.toNat → 5 ∉ s.power.excursion →
          u.bit SPW_STAT SPW_STAT_FATAL = true ∧ u.safe = true) ∧
        (s.on = false → u.bit SPW_STAT SPW_STAT_FATAL = s.bit SPW_STAT SPW_STAT_FATAL)) ∧
    (s.on = true →
      (∀ l : List (BitVec 16), Gives (.tempSample l) s fun u =>
        let top := ((l.take 64).map BitVec.toNat).foldl max 0
        u.fld PWR_TEMP PWR_TEMP_HOTTEST = top ∧
          u.bit PWR_THROTTLE PWR_THROTTLE_THERMAL = decide (s.fld PWR_TEMP PWR_TEMP_TEMP_HOT ≤ top) ∧
          (460 ≤ top → 6 ∉ s.power.excursion → u.bit SPW_STAT SPW_STAT_FATAL = true)) ∧
      (Gives .dutyAdjust s fun u => u.duty =
        let cap := s.fld PWR_CAP PWR_CAP_CAP * s.power.powers.length
        if cap < s.power.powers.sum ∨ s.bit PWR_THROTTLE PWR_THROTTLE_THERMAL = true then max 4 (s.duty - 1)
        else if s.power.powers.sum + 50 * s.power.powers.length < cap ∨ s.power.powers = [] then min 16 (s.duty + 1)
        else s.duty))

/-- Domains, crossings and PLLs (R412-R414, R417-R421): domains start in the order of the table; power-good makes a domain
on with its clock's lock bit; a logic domain that fails in the sequence stops the boot with FAULT_L low, a chiplet or a
cluster is left out; with the last domain of the table and the images verified the module runs; a logic domain that fails
later is fatal; OFF acts only where nothing needs the domain; a crossing that times out is STUCK and counted, unless its
clock is stopped, discards and counts the pulses toward it, and recovers; a lost core or management lock stops the module.
Where the rules leave a choice the clauses state the model's: log entries 36 and 56. -/
def Obligations.DomainsAndClocks : Prop :=
  ∀ s : State,
    (s.fed = true → s.power.bootStopped = false →
      (s.power.romOk = true → 1 ≤ s.power.nextDomain → s.power.nextDomain ≤ 48 →
        (s.power.nextDomain = 1 ∨ s.domain (s.power.nextDomain - 1) ≠ 1) → Gives .domainStart s fun u =>
          u.domain s.power.nextDomain = 1 ∧ u.power.nextDomain = s.power.nextDomain + 1) ∧
      (∀ d : Fin 50, d.val ≠ 49 → s.domain d = 1 →
        (Gives (.powerGood d true) s fun u => u.domain d = 2 ∧ ∀ f, domainLock d = some f → u.fld CLK_STAT f = 1) ∧
        (d.val ≤ 7 → s.starting = true → Gives (.powerGood d false) s fun u =>
          u.on = false ∧ u.power.bootStopped = true ∧ u.power.failDomain = d ∧ u.power.faultLow = true) ∧
        (8 ≤ d.val → d.val ≤ 15 → s.starting = true → Gives (.powerGood d false) s fun u =>
          u.domain d = 3 ∧ u.power.bootStopped = false) ∧
        (16 ≤ d.val → s.starting = true → Gives (.powerGood d false) s fun u =>
          u.domain d = 3 ∧ d.val - 16 ∈ u.power.failedClusters) ∧
        (d.val = 48 → s.starting = true → s.power.m2 ≠ [] → ∀ good, Gives (.powerGood d good) s fun u => u.on = true))) ∧
    (s.on = true →
    (∀ d : Fin 50, d.val ≤ 7 → s.domain d = 2 → Gives (.powerGood d false) s fun u =>
      u.domain d = 3 ∧ u.bit SPW_STAT SPW_STAT_FATAL = true ∧ u.safe = true) ∧
    (∀ (d : Fin 50) (off : Bool), s.bit (PWR_DOMAIN d) PWR_DOMAIN_OFF ≠ off → Gives (.pwrDomainOff d off) s fun u =>
      if s.mayOff d then u.bit (PWR_DOMAIN d) PWR_DOMAIN_OFF = off ∧ u.domain d = (if off then 0 else 1)
      else u.rd (PWR_DOMAIN d) = s.rd (PWR_DOMAIN d)) ∧
    (∀ (i : Fin 320) (c : Nat), cdcClass i = some c →
      (s.octetStopped i = true → exec (.cdcTimeout i) s = .next s) ∧
      (s.crossed i = false → (s.octetStopped i = false → Gives (.cdcTimeout i) s fun u =>
          u.fld (CDC_STATE i) CDC_STATE_STATE = 2 ∧ u.rd CLK_TIMEOUTS = s.rd CLK_TIMEOUTS + 1) ∧
        Gives (.cdcOverflow i) s fun u =>
          u.rd CLK_OVERFLOWS = s.rd CLK_OVERFLOWS + 1 ∧ Table.look u.power.pulses i.val = some 255) ∧
      (s.crossed i = true → exec (.cdcTimeout i) s = .next s ∧ Gives (.cdcOverflow i) s fun u =>
        u.fld (CDC_STATE i) CDC_STATE_LOST = min (s.fld (CDC_STATE i) CDC_STATE_LOST + 1) 0xFFFFFFFF ∧
          u.rd CLK_OVERFLOWS = s.rd CLK_OVERFLOWS ∧ u.power = s.power) ∧
      (Gives (.cdcRecover i) s fun u =>
        u.fld (CDC_STATE i) CDC_STATE_STATE = 0 ∧ Table.look u.power.pulses i.val = none))) ∧
    (s.power.mainOn = true → ∀ p : Fin 4, Gives (.pllLockLoss p) s fun u => bitOf (u.rd CLK_STAT).toNat p = false ∧
      (p.val < 2 → u.on = false ∧ u.power.faultLow = true ∧ u.power.trayLow = true))

/-- Secure boot and firmware update (R422-R427, R429): once domain 0 has power the ROM takes the slot of BOOT_NEXT, else the
other, else the boot stops; the first stage checks firmware and microcode and extends the chain of measurements, and what it
has verified runs once the start table is done; GO starts an update unless one runs, and SLOT is stored in any case; an update
reaches the other slot only whole and signed. Where the rules leave a choice the clauses state the model's: log entries 29
and 57. -/
def Obligations.SecureBoot : Prop :=
  ∀ s : State,
    (s.fed = true →
    (let a := s.fld SEC_BOOT_NEXT SEC_BOOT_NEXT_BOOT_NEXT;
      let k := if (s.slot a).accepted then a else 1 - a;
      s.power.romOk = false → s.domain 0 = 2 → Gives .romAccept s fun u =>
        if (s.slot k).accepted then u.power.romOk = true ∧ u.fld SEC_BOOT SEC_BOOT_SLOT = k ∧
          u.fld SEC_BOOT SEC_BOOT_BOOT_STATUS = (if k = a then 1 else 2) ∧
          u.fld SEC_BOOT SEC_BOOT_BOOT = (s.fld SEC_BOOT SEC_BOOT_BOOT + 1) % 2 ^ 32 ∧
          u.power.m1 = sha512 (s.slot k).firstStage
        else u.power.bootStopped = true ∧ u.power.failDomain = 0 ∧ u.on = false) ∧
    (let x := s.slot (s.fld SEC_BOOT SEC_BOOT_SLOT);
      s.power.romOk = true → s.power.m2 = [] → Gives .firstStageVerify s fun u =>
        if ed25519Verify x.rootKey x.firmware x.sig2 = false then
          u.fld SEC_BOOT SEC_BOOT_BOOT_STATUS = 3 ∧ u.power.bootStopped = true ∧ u.on = false
        else if ed25519Verify x.rootKey x.microcode x.sig3 = false then
          u.fld SEC_BOOT SEC_BOOT_BOOT_STATUS = 4 ∧ u.power.bootStopped = true ∧ u.on = false
        else u.power.m2 = sha512 x.firmware ∧ u.power.m3 = sha512 x.microcode ∧
          (∀ j < 8, u.rd (SEC_CHAIN j) = BitVec.ofNat 64
            (ofBytes (((bootChain s.power.m1 (sha512 x.firmware) (sha512 x.microcode)).drop (8 * j)).take 8))) ∧
          u.bit SEC_BOOT SEC_BOOT_ID_FAIL = !((s.cert.drop 24).take 32 == s.identityKey) ∧
          u.on = decide (49 < s.power.nextDomain))) ∧
    (s.on = true →
    (∀ v : Word, Gives (.secFwGo v) s fun u => u.fld SEC_FW_CTL SEC_FW_CTL_SLOT = bitsOf v.toNat 8 1 ∧
      if s.bit SEC_FW_CTL SEC_FW_CTL_BUSY = false ∧ v.getLsbD 63 = true then
        u.bit SEC_FW_CTL SEC_FW_CTL_BUSY = true ∧
          u.power.update = some ((s.rd SEC_FW_SRC).toNat, s.fld SEC_FW_LEN SEC_FW_LEN_LENGTH, bitsOf v.toNat 8 1)
      else u.bit SEC_FW_CTL SEC_FW_CTL_BUSY = s.bit SEC_FW_CTL SEC_FW_CTL_BUSY ∧ u.power = s.power) ∧
    (∀ (flashError : Bool) a n k, s.power.update = some (a, n, k) →
      let image := slotImage (s.dataRead a n).1
      let good := s.anyData a n && image.signed
      let status := if k = s.fld SEC_BOOT SEC_BOOT_SLOT then 4 else if !Config.imageFits n then 2 else if !good then 1
        else if flashError then 3 else 0
      Gives (.fwUpdateDone flashError) s fun u => u.power.update = none ∧ u.bit SEC_FW_CTL SEC_FW_CTL_BUSY = false ∧
        u.fld SEC_FW_CTL SEC_FW_CTL_STATUS = status ∧ (status ≠ 0 → u.bootSlots = s.bootSlots) ∧
        (status = 0 → Table.look u.bootSlots k = some image)))

/-- HOST_KEY (R459): accepted only while no key is VALID and no session has opened since power-up; it then becomes key 0 with
VALID and PRIV, in no flash; in every other case, a second one in the same power-up among them, it is refused and the list is
unchanged. -/
def Obligations.HostKeyOnce : Prop :=
  ∀ (s : State) (key key' : BitVec 256), s.power.mainOn = true →
    if s.anyKey || s.power.sessionSeen || s.power.hostKeySeen then
      exec (.hostKey key) s = .next (s.putOut (s.out ++ [.nack]))
    else Gives (.hostKey key) s fun u => u.bit (HP_KEY_FLAGS 0) HP_KEY_FLAGS_VALID = true ∧
      u.bit (HP_KEY_FLAGS 0) HP_KEY_FLAGS_PRIV = true ∧ u.keyBytes 0 = toBytes 32 key.toNat ∧
      (∀ r, r ≠ HP_KEY_FLAGS 0 → (∀ j < 4, r ≠ HP_KEY_PUB 0 j) → u.rd r = s.rd r) ∧ u.flash = s.flash ∧ u.out = s.out ∧
      exec (.hostKey key') u = .next (u.putOut (u.out ++ [.nack]))

/-- The management I3C target (R458): each read answers with its bytes and changes nothing else. Where the rules leave a
choice the clauses state the model's: log entry 64. -/
def Obligations.ManagementTarget : Prop :=
  ∀ s : State, s.power.mainOn = true →
    (let reads (i : Instr) (b : List Byte) : Prop := exec i s = .next (s.putOut (s.out ++ [.i3c false b]));
      reads .i3cStatus (toBytes 1 (flag s.safe + 2 * flag (s.bit SPW_STAT SPW_STAT_FATAL) +
          4 * flag (s.bit SPW_STAT SPW_STAT_ADVISORY) + 8 * flag s.power.bootStopped) ++
        toBytes 1 (s.fld SEC_BOOT SEC_BOOT_BOOT_STATUS) ++ toBytes 1 s.power.failDomain ++ toBytes 1 0 ++ toBytes 4 s.cycle) ∧
      reads .ferr (toBytes 8 (s.rd SPW_FERR_SRC).toNat ++ toBytes 8 (s.rd SPW_FERR_CODE).toNat ++
        toBytes 8 (s.rd SPW_FERR_CYCLE).toNat) ∧
      reads .input (toBytes 8 (s.rd PWR_INPUT).toNat) ∧ reads .hottest (toBytes 2 (s.fld PWR_TEMP PWR_TEMP_HOTTEST)) ∧
      reads .identity ((s.cert ++ List.replicate 384 0).take 384)) ∧
    (Gives .enec s fun u => u.power.i3cEnec = true ∧ u.regs = s.regs ∧ u.mem = s.mem ∧ u.wb = s.wb) ∧
    (∀ a, Gives (.dynamicAddress a) s fun u => u.power.i3cAddr = some a ∧ u.regs = s.regs ∧ u.mem = s.mem ∧ u.wb = s.wb)

/-! ### The Water Book -/

/-- The Water Book's own commands change the Water Book and the links and nothing of the main side (R434-R436): registers,
memory, tiles, sessions and power stay. Measurement and the count link (R437-R439, R446, R448): a record that comes whole
over the relay link goes to its buffer of pool 3 unless a newer one holds its window place, and waits while pool 3 has none
(R310). Where the rules leave a choice the clauses state the model's: log entries 53, 54 and 75. -/
def Obligations.WaterBookApart : Prop :=
  (∀ (s : State) (i : Instr), (∃ v a d, i = .wbSample v a d) ∨ (∃ b, i = .countFrameReceive b) ∨
      (∃ t g, i = .wbIntervalEnd t g) ∨ i = .wbRecordCommit ∨ (∃ t, i = .wbPowerLoss t) ∨ i = .wbInputReturn ∨
      i = .holdUpExhausted ∨ i = .wbBoot ∨ i = .tamper ∨ i = .wbStatus ∨ (∃ r, i = .wbSelect r) ∨ i = .wbRecord ∨
      (∃ b, i = .wbRequest b) ∨ i = .wbCert ∨ (∃ b, i = .wbUpdate b) ∨ i = .wbEnec ∨ (∃ a, i = .wbDynamicAddress a) →
    Gives i s fun u => u = ((s.putWb u.wb).putOut u.out).putFreeCtr u.freeCtr) ∧
  (∀ s : State,
    (∀ (v a : BitVec 16) (d : BitVec 32), s.wb.on = true →
      Gives (.wbSample v a d) s fun u =>
        let e := if 50000 ≤ v.toNat * a.toNat then v.toNat * a.toNat * d.toNat else 0
        u.wb.eTotal * 10 ^ 7 + u.wb.eFrac = (s.wb.eTotal * 10 ^ 7 + s.wb.eFrac + e) % (2 ^ 64 * 10 ^ 7) ∧
          u.wb.ticks = s.wb.ticks + 25 * d.toNat ∧ u.wb.vMin = min s.wb.vMin v.toNat ∧ u.wb.vMax = max s.wb.vMax v.toNat) ∧
    (s.on = true → Gives .clusterUsTick s fun u =>
      u = (s.putTiles (s.tiles.map fun e => (e.1, { e.2 with ended := [] }))).putWb
        { s.wb with counts := s.clusterHolds.foldl (fun l k => addCount l k.2 (s.genOf k.2) 0 1) s.wb.counts }) ∧
    (s.on = true → s.crossed 5 = false → Gives .countFrameSend s fun u =>
      u.wb.fseq = (s.wb.fseq + 1) % 2 ^ 32 ∧ u.bit WBR_CTL WBR_CTL_REQUEST = false ∧ u.bit WBR_CTL WBR_CTL_RESEND = false ∧
      ∃ f, u.wb.frames = s.wb.frames ++ [f] ∧ f.fseq = s.wb.fseq ∧ f.request = s.bit WBR_CTL WBR_CTL_REQUEST ∧
        f.crc = crc32c f.bytes ∧ f.entries.length ≤ 256 ∧
        ∀ r ∈ f.entries, ∃ x ∈ s.wb.counts, (x.cells ≠ 0 ∨ x.clusterUs ≠ 0) ∧ x.gen = s.genOf x.ctx ∧
          r = { x with cells := x.cells % 2 ^ 56, clusterUs := x.clusterUs % 2 ^ 56 }) ∧
    (∀ f l, s.wb.on = true → s.wb.frames = f :: l →
      (∀ whole, whole = false ∨ f.crc ≠ crc32c f.bytes → Gives (.countFrameReceive whole) s fun u => u.wb.frames = l ∧
        u.wb.framesBad = s.wb.framesBad + 1 ∧ u.wb.deltas = s.wb.deltas ∧ u.wb.last = s.wb.last) ∧
      (f.crc = crc32c f.bytes → Gives (.countFrameReceive true) s fun u => u.wb.frames = l ∧
        u.wb.framesOk = s.wb.framesOk + 1 ∧ u.wb.noFrame = 0 ∧
        (f.entries = [] → u.wb.deltas = s.wb.deltas) ∧
        ∀ r, f.entries = [r] → r ∈ u.wb.last ∧ ∀ x, s.wb.deltas = [] → s.wb.last = [x] → x.ctx = r.ctx → x.gen = r.gen →
          u.wb.deltas = [(⟨r.ctx, r.gen, (r.cells + 2 ^ 56 - x.cells) % 2 ^ 56,
            (r.clusterUs + 2 ^ 56 - x.clusterUs) % 2 ^ 56⟩, false)])) ∧
    (s.on = true → ∀ (record : List Byte),
      (Gives (.relayRecordReceive record false) s fun u => u.rd WBR_BAD = s.rd WBR_BAD + 1 ∧ u.mem = s.mem) ∧
      (record.length ≠ 2048 → Gives (.relayRecordReceive record true) s fun u => u.rd WBR_BAD = s.rd WBR_BAD + 1 ∧
        u.mem = s.mem) ∧
      (record.length = 2048 → let seq := rseqOf record
        (s.grants = [] → Table.look s.wb.relay (seq % 1024) = none → (s.pool 3).state = 1 →
          (∃ x, s.owner 3 = some x ∧ s.mayAlloc 3 x = false) → s.waiters.length < 1024 →
          Gives (.relayRecordReceive record true) s fun u => u.waiters = s.waiters ++ [⟨.relay, 3, 3, .relay record⟩] ∧
            u.rd (POOL_WAITS 3) = s.rd (POOL_WAITS 3) + 1 ∧ u.rd WBR_COUNT = s.rd WBR_COUNT + 1 ∧ u.wb = s.wb) ∧
        (∀ h, s.grants = [] → s.load (handleAddr h + 8) 4 ≤ seq ∧ Table.look s.wb.relay (seq % 1024) = some h ∨
            (Table.look s.wb.relay (seq % 1024) = none ∧ ∃ x t, s.owner 3 = some x ∧ s.mayAlloc 3 x = true ∧
              s.allocNow 3 3 x = (some h, t)) →
          Gives (.relayRecordReceive record true) s fun u => u.bytes (handleAddr h) 2048 = record ∧
            Table.look u.wb.relay (seq % 1024) = some h ∧ u.rd WBR_COUNT = s.rd WBR_COUNT + 1 ∧
            u.bit WBR_STAT WBR_STAT_LINK_UP = true ∧
            (s.fld WBR_STAT WBR_STAT_NEWEST ≤ seq →
              u.fld WBR_STAT WBR_STAT_NEWEST = seq ∧ u.jorou.wbFp = (record.drop 104).take 64) ∧
            (seq < s.fld WBR_STAT WBR_STAT_NEWEST → u.jorou = s.jorou)) ∧
        (∀ h, Table.look s.wb.relay (seq % 1024) = some h → seq < s.load (handleAddr h + 8) 4 →
          Gives (.relayRecordReceive record true) s fun u => u.mem = s.mem ∧ u.rd WBR_COUNT = s.rd WBR_COUNT + 1))) ∧
    (s.on = true → (Gives .wbrRequest s fun u => u.bit WBR_CTL WBR_CTL_REQUEST = true ∧ ∀ r, r ≠ WBR_CTL → u.rd r = s.rd r) ∧
      Gives .resend s fun u => u.bit WBR_CTL WBR_CTL_RESEND = true ∧ ∀ r, r ≠ WBR_CTL → u.rd r = s.rd r))

/-- Records (R440-R445, R447): an interval ends at a grid point, a multiple of 60 s since the boot, at a pending request or
with the input; its record is signed and kept with the next RSEQ, sent on the relay link, and the latest 4,096 stay; the
boot commits a POWER_UP record. The target answers while the input holds. Where the rules leave a choice the clauses state
the model's: log entries 30, 53 and 75. -/
def Obligations.WaterBookRecords : Prop :=
  ∀ s : State,
    (s.wb.on = true →
      (∀ t : Word, let n := max s.wb.ticks t.toNat
        (n % 1500000000 = 0 → s.wb.tStart < n →
          (s.wb.demand = false → Gives (.wbIntervalEnd t true) s fun u =>
            u.wb = { s.wb.close 0 n with sinceGrid := some 0 }) ∧
          (s.wb.demand = true → Gives (.wbIntervalEnd t true) s fun u => ∃ a b, u.wb.ended = s.wb.ended ++ [a, b] ∧
            a.kind = 1 ∧ a.tStart = s.wb.tStart ∧ a.tEnd = s.wb.ticks ∧ b.kind = 0 ∧ b.tStart = s.wb.ticks ∧ b.tEnd = n ∧
            u.wb.tStart = n ∧ u.wb.demand = false ∧ u.wb.sinceGrid = some 0)) ∧
        (n % 1500000000 ≠ 0 ∨ n ≤ s.wb.tStart → exec (.wbIntervalEnd t true) s = .next s) ∧
        (s.wb.demand = true → Gives (.wbIntervalEnd t false) s fun u =>
          u.wb = { s.wb.close 1 n with demand := false, sinceDemand := some 0 }) ∧
        (s.wb.demand = false → exec (.wbIntervalEnd t false) s = .next s)) ∧
      (∀ x l, s.wb.ended = x :: l → x.deltas.length ≤ 64 → Gives .wbRecordCommit s fun u =>
        let r := (s.wb.commitPart (s.settleInterval x).1 0 1).1
        u.wb.ended = l ∧ u.wb.rseq = s.wb.rseq + 1 ∧ Out.relay r ∈ u.out ∧ u.wb.records.length ≤ 4096 ∧
        u.wb.records.getLast? = some (s.wb.rseq + 1, r)) ∧
      (∀ t : Word, s.wb.powerLost = false → Gives (.wbPowerLoss t) s fun u =>
        u.wb = { s.wb.close 2 (max s.wb.ticks t.toNat) with powerLost := true }) ∧
      (s.wb.powerLost = true → ∀ i ∈ [Instr.wbInputReturn, .holdUpExhausted], Gives i s fun u =>
        u.wb.on = (i == .wbInputReturn) ∧ u.wb.powerLost = false ∧ u.wb.ended = [] ∧
          u.wb.eTotal = (if i = .wbInputReturn then s.wb.eTotal else s.wb.eStart) ∧
          u.wb.rseq = s.wb.rseq + (s.wb.ended.map Interval.parts).sum)) ∧
    (s.wb.on = false → s.wb.ended = [] → s.wb.deltas = [] → Gives .wbBoot s fun u => u.wb.on = true ∧
      u.wb.bootCount = s.wb.bootCount + 1 ∧ u.wb.ticks = 0 ∧ u.wb.eTotal = s.wb.eTotal ∧ u.wb.rseq = s.wb.rseq + 1) ∧
    (Gives .tamper s fun u => u.wb = { s.wb with tamper := true }) ∧
    (s.wb.on = true → s.wb.powerLost = false →
      (let reads (i : Instr) (b : List Byte) : Prop := exec i s = .next (s.putOut (s.out ++ [.i3c true b]));
        (∀ n b l o p, s.wb.records = (o, p) :: l → s.wb.records.getLast? = some (n, b) →
          reads .wbStatus (toBytes 4 n ++ toBytes 4 o ++ [b.getD 7 0])) ∧
        (∀ b, s.wb.held s.wb.selected = some b → reads .wbRecord b) ∧
        (s.wb.held s.wb.selected = none → reads .wbRecord (List.replicate 2048 0)) ∧
        reads .wbCert waterCert ∧ waterCert.length = 384 ∧
        waterCert.take 8 = toBytes 4 0x5A434552 ++ toBytes 2 1 ++ toBytes 2 0 ∧
        (waterCert.drop 24).take 32 = fixBytes 32 (ed25519Public Config.waterKey)) ∧
      (∀ r, Gives (.wbSelect r) s fun u => u.wb = { s.wb with selected := r.toNat }) ∧
      (∀ b : Byte, Gives (.wbRequest b) s fun u => u.wb.demand = (s.wb.demand ||
        (b == 1 && !s.wb.sinceGrid.any (· ≤ 100000) && !s.wb.sinceDemand.any (· ≤ 1000000)))) ∧
      (∀ block, Gives (.wbUpdate block) s fun u =>
        let image := s.wb.imageBlocks ++ fixBytes 256 block
        if Config.waterWhole image = false then u.wb = { s.wb with imageBlocks := image }
        else u.wb.imageBlocks = [] ∧ (u.wb.updates = s.wb.updates + 1 ∨ u.wb = { s.wb with imageBlocks := [] })) ∧
      (Gives .wbEnec s fun u => u.wb = { s.wb with i3cEnec := true }) ∧
      ∀ a, Gives (.wbDynamicAddress a) s fun u => u.wb = { s.wb with i3cAddr := some a })

/-- The energy of the records fits together (R442): every step, whatever its command, and the idle cycle keep the chain of
E_TOTAL; the commands of the Water Book complete; and the record that a commit adds has E_TOTAL equal to that of the record
before plus its own E_INTERVAL (modulo 2^64). -/
def Obligations.EnergyChain : Prop :=
  State.reset.wb.Chained ∧
  ∀ s : State, s.wb.Chained →
    (∀ t, Machine.step s = .next t → t.wb.Chained) ∧ (∀ (i : Instr) t, exec i s = .next t → t.wb.Chained) ∧
    (∀ i : Instr, (∃ v a d, i = .wbSample v a d) ∨ (∃ b, i = .countFrameReceive b) ∨
      (∃ t g, i = .wbIntervalEnd t g) ∨ i = .wbRecordCommit ∨ (∃ t, i = .wbPowerLoss t) ∨ i = .wbInputReturn ∨
      i = .holdUpExhausted ∨ i = .wbBoot ∨ i = .tamper ∨ i = .wbStatus ∨ (∃ r, i = .wbSelect r) ∨ i = .wbRecord ∨
      (∃ b, i = .wbRequest b) ∨ i = .wbCert ∨ (∃ b, i = .wbUpdate b) ∨ i = .wbEnec ∨ (∃ a, i = .wbDynamicAddress a) →
      Gives i s fun u => u.wb.Chained) ∧
    (∀ x l old, s.wb.on = true → s.wb.ended = x :: l → s.wb.records.getLast? = some old → x.parts ≤ 4096 →
      Gives .wbRecordCommit s fun u => ∃ r, (s.wb.rseq + 1, r) ∈ u.wb.records ∧
        recordTotal r = (recordTotal old.2 + recordInterval r) % 2 ^ 64)
end

