-- ==== Sys2Proof/Laws/Bits.lean ====
section
/-! SUPPORT. Sys2Proof/Laws/Bits.lean: bit fields of numbers: what a field written reads as, and what it leaves alone. -/

namespace Sys2Proof.Machine

theorem bitsOf_eq (x lo w : Nat) : bitsOf x lo w = x / 2 ^ lo % 2 ^ w := by
  simp [bitsOf, Nat.shiftRight_eq_div_pow]

/-- A number is its bits below a field, the field, and the bits above it. -/
theorem putBits_eq (x lo w v : Nat) :
    putBits x lo w v = x % 2 ^ lo + 2 ^ lo * (v % 2 ^ w) + 2 ^ lo * (2 ^ w * (x / 2 ^ lo / 2 ^ w)) := by
  have h1 : x = x % 2 ^ lo + 2 ^ lo * (x / 2 ^ lo) := (Nat.mod_add_div x (2 ^ lo)).symm
  have h2 : x / 2 ^ lo = x / 2 ^ lo % 2 ^ w + 2 ^ w * (x / 2 ^ lo / 2 ^ w) := (Nat.mod_add_div _ _).symm
  have h3 : 2 ^ lo * (x / 2 ^ lo) = 2 ^ lo * (x / 2 ^ lo % 2 ^ w) + 2 ^ lo * (2 ^ w * (x / 2 ^ lo / 2 ^ w)) := by
    rw [← Nat.mul_add, ← h2]
  unfold putBits
  rw [bitsOf_eq, Nat.shiftLeft_eq, Nat.shiftLeft_eq, Nat.mul_comm (x / 2 ^ lo % 2 ^ w), Nat.mul_comm (v % 2 ^ w)]
  omega

theorem bitsOf_putBits_same (x lo w v : Nat) : bitsOf (putBits x lo w v) lo w = v % 2 ^ w := by
  rw [bitsOf_eq, putBits_eq]
  have : x % 2 ^ lo + 2 ^ lo * (v % 2 ^ w) + 2 ^ lo * (2 ^ w * (x / 2 ^ lo / 2 ^ w)) =
      x % 2 ^ lo + 2 ^ lo * (v % 2 ^ w + 2 ^ w * (x / 2 ^ lo / 2 ^ w)) := by ring
  rw [this, Nat.add_mul_div_left _ _ (Nat.two_pow_pos lo), Nat.div_eq_of_lt (Nat.mod_lt _ (Nat.two_pow_pos lo))]
  simp

theorem bitsOf_putBits_above (x lo w v lo' w' : Nat) (h : lo + w ≤ lo') :
    bitsOf (putBits x lo w v) lo' w' = bitsOf x lo' w' := by
  rw [bitsOf_eq, bitsOf_eq, putBits_eq]
  obtain ⟨k, rfl⟩ : ∃ k, lo' = lo + w + k := ⟨lo' - (lo + w), by omega⟩
  have e : x % 2 ^ lo + 2 ^ lo * (v % 2 ^ w) + 2 ^ lo * (2 ^ w * (x / 2 ^ lo / 2 ^ w)) =
      x % 2 ^ lo + 2 ^ lo * (v % 2 ^ w + 2 ^ w * (x / 2 ^ lo / 2 ^ w)) := by ring
  rw [e, pow_add, pow_add, ← Nat.div_div_eq_div_mul, ← Nat.div_div_eq_div_mul, ← Nat.div_div_eq_div_mul,
    ← Nat.div_div_eq_div_mul, Nat.add_mul_div_left _ _ (Nat.two_pow_pos lo),
    Nat.div_eq_of_lt (Nat.mod_lt _ (Nat.two_pow_pos lo)), Nat.zero_add, Nat.add_mul_div_left _ _ (Nat.two_pow_pos w),
    Nat.div_eq_of_lt (Nat.mod_lt _ (Nat.two_pow_pos w)), Nat.zero_add]

theorem bitsOf_putBits_below (x lo w v lo' w' : Nat) (h : lo' + w' ≤ lo) :
    bitsOf (putBits x lo w v) lo' w' = bitsOf x lo' w' := by
  have key : ∀ y, bitsOf y lo' w' = bitsOf (y % 2 ^ lo) lo' w' := by
    intro y
    rw [bitsOf_eq, bitsOf_eq]
    obtain ⟨k, rfl⟩ : ∃ k, lo = lo' + w' + k := ⟨lo - (lo' + w'), by omega⟩
    rw [Nat.add_assoc, pow_add, Nat.mod_mul_right_div_self, pow_add, Nat.mod_mul_right_mod]
  rw [key, key x]
  congr 1
  rw [putBits_eq]
  have : x % 2 ^ lo + 2 ^ lo * (v % 2 ^ w) + 2 ^ lo * (2 ^ w * (x / 2 ^ lo / 2 ^ w)) =
      x % 2 ^ lo + 2 ^ lo * (v % 2 ^ w + 2 ^ w * (x / 2 ^ lo / 2 ^ w)) := by ring
  rw [this, Nat.add_mul_mod_self_left, Nat.mod_mod]

theorem putBits_lt (x lo w v n : Nat) (hx : x < 2 ^ n) (hn : lo + w ≤ n) : putBits x lo w v < 2 ^ n := by
  obtain ⟨k, rfl⟩ : ∃ k, n = lo + w + k := ⟨n - (lo + w), by omega⟩
  rw [putBits_eq]
  have h1 := Nat.mod_lt x (Nat.two_pow_pos lo)
  have h2 := Nat.mod_lt v (Nat.two_pow_pos w)
  have h3 : x / 2 ^ lo / 2 ^ w < 2 ^ k := by
    rw [Nat.div_div_eq_div_mul, ← pow_add]
    exact Nat.div_lt_of_lt_mul (by rw [← pow_add]; exact hx)
  have h4 : 2 ^ w * (x / 2 ^ lo / 2 ^ w) + 2 ^ w ≤ 2 ^ w * 2 ^ k := by
    rw [← Nat.mul_succ]; exact Nat.mul_le_mul_left _ h3
  have h5 : v % 2 ^ w + 2 ^ w * (x / 2 ^ lo / 2 ^ w) + 1 ≤ 2 ^ w * 2 ^ k := by omega
  have h6 := Nat.mul_le_mul_left (2 ^ lo) h5
  rw [pow_add, pow_add, Nat.mul_assoc]
  have e : 2 ^ lo * (v % 2 ^ w + 2 ^ w * (x / 2 ^ lo / 2 ^ w) + 1) =
      2 ^ lo * (v % 2 ^ w) + 2 ^ lo * (2 ^ w * (x / 2 ^ lo / 2 ^ w)) + 2 ^ lo := by ring
  omega

end Sys2Proof.Machine
end

