-- ==== Sys2Proof/Laws/Put.lean ====
section
/-! SUPPORT. Sys2Proof/Laws/Put.lean: every field of the state after one of them is given a value. -/

namespace Sys2Proof.Machine

section
variable (s : State) (v : List Instr)
@[simp] theorem State.putPending_pending : (s.putPending v).pending = v := (rfl)
@[simp] theorem State.putPending_cycle : (s.putPending v).cycle = s.cycle := (rfl)
@[simp] theorem State.putPending_grade : (s.putPending v).grade = s.grade := (rfl)
@[simp] theorem State.putPending_freeCtr : (s.putPending v).freeCtr = s.freeCtr := (rfl)
@[simp] theorem State.putPending_out : (s.putPending v).out = s.out := (rfl)
@[simp] theorem State.putPending_mem : (s.putPending v).mem = s.mem := (rfl)
@[simp] theorem State.putPending_poison : (s.putPending v).poison = s.poison := (rfl)
@[simp] theorem State.putPending_regs : (s.putPending v).regs = s.regs := (rfl)
@[simp] theorem State.putPending_ports : (s.putPending v).ports = s.ports := (rfl)
@[simp] theorem State.putPending_laneMap : (s.putPending v).laneMap = s.laneMap := (rfl)
@[simp] theorem State.putPending_mapFixed : (s.putPending v).mapFixed = s.mapFixed := (rfl)
@[simp] theorem State.putPending_slots : (s.putPending v).slots = s.slots := (rfl)
@[simp] theorem State.putPending_queues : (s.putPending v).queues = s.queues := (rfl)
@[simp] theorem State.putPending_xin : (s.putPending v).xin = s.xin := (rfl)
@[simp] theorem State.putPending_xinLast : (s.putPending v).xinLast = s.xinLast := (rfl)
@[simp] theorem State.putPending_heldCells : (s.putPending v).heldCells = s.heldCells := (rfl)
@[simp] theorem State.putPending_retiredSlots : (s.putPending v).retiredSlots = s.retiredSlots := (rfl)
@[simp] theorem State.putPending_floor : (s.putPending v).floor = s.floor := (rfl)
@[simp] theorem State.putPending_mirrors : (s.putPending v).mirrors = s.mirrors := (rfl)
@[simp] theorem State.putPending_mirrorMade : (s.putPending v).mirrorMade = s.mirrorMade := (rfl)
@[simp] theorem State.putPending_sampleNext : (s.putPending v).sampleNext = s.sampleNext := (rfl)
@[simp] theorem State.putPending_sampleRead : (s.putPending v).sampleRead = s.sampleRead := (rfl)
@[simp] theorem State.putPending_smpStart : (s.putPending v).smpStart = s.smpStart := (rfl)
@[simp] theorem State.putPending_fails : (s.putPending v).fails = s.fails := (rfl)
@[simp] theorem State.putPending_echoes : (s.putPending v).echoes = s.echoes := (rfl)
@[simp] theorem State.putPending_echoGaps : (s.putPending v).echoGaps = s.echoGaps := (rfl)
@[simp] theorem State.putPending_noReturn : (s.putPending v).noReturn = s.noReturn := (rfl)
@[simp] theorem State.putPending_tiles : (s.putPending v).tiles = s.tiles := (rfl)
@[simp] theorem State.putPending_tileMap : (s.putPending v).tileMap = s.tileMap := (rfl)
@[simp] theorem State.putPending_failedTiles : (s.putPending v).failedTiles = s.failedTiles := (rfl)
@[simp] theorem State.putPending_candidates : (s.putPending v).candidates = s.candidates := (rfl)
@[simp] theorem State.putPending_inboxes : (s.putPending v).inboxes = s.inboxes := (rfl)
@[simp] theorem State.putPending_ctxs : (s.putPending v).ctxs = s.ctxs := (rfl)
@[simp] theorem State.putPending_ringPass : (s.putPending v).ringPass = s.ringPass := (rfl)
@[simp] theorem State.putPending_plans : (s.putPending v).plans = s.plans := (rfl)
@[simp] theorem State.putPending_planFp : (s.putPending v).planFp = s.planFp := (rfl)
@[simp] theorem State.putPending_groups : (s.putPending v).groups = s.groups := (rfl)
@[simp] theorem State.putPending_wmInbox : (s.putPending v).wmInbox = s.wmInbox := (rfl)
@[simp] theorem State.putPending_sets : (s.putPending v).sets = s.sets := (rfl)
@[simp] theorem State.putPending_ehts : (s.putPending v).ehts = s.ehts := (rfl)
@[simp] theorem State.putPending_expOpen : (s.putPending v).expOpen = s.expOpen := (rfl)
@[simp] theorem State.putPending_expIn : (s.putPending v).expIn = s.expIn := (rfl)
@[simp] theorem State.putPending_expWait : (s.putPending v).expWait = s.expWait := (rfl)
@[simp] theorem State.putPending_atomics : (s.putPending v).atomics = s.atomics := (rfl)
@[simp] theorem State.putPending_owners : (s.putPending v).owners = s.owners := (rfl)
@[simp] theorem State.putPending_bufs : (s.putPending v).bufs = s.bufs := (rfl)
@[simp] theorem State.putPending_pools : (s.putPending v).pools = s.pools := (rfl)
@[simp] theorem State.putPending_waiters : (s.putPending v).waiters = s.waiters := (rfl)
@[simp] theorem State.putPending_grants : (s.putPending v).grants = s.grants := (rfl)
@[simp] theorem State.putPending_rowErrs : (s.putPending v).rowErrs = s.rowErrs := (rfl)
@[simp] theorem State.putPending_pageErrs : (s.putPending v).pageErrs = s.pageErrs := (rfl)
@[simp] theorem State.putPending_pageHeld : (s.putPending v).pageHeld = s.pageHeld := (rfl)
@[simp] theorem State.putPending_pages : (s.putPending v).pages = s.pages := (rfl)
@[simp] theorem State.putPending_sparedRows : (s.putPending v).sparedRows = s.sparedRows := (rfl)
@[simp] theorem State.putPending_patrolAt : (s.putPending v).patrolAt = s.patrolAt := (rfl)
@[simp] theorem State.putPending_sramAt : (s.putPending v).sramAt = s.sramAt := (rfl)
@[simp] theorem State.putPending_selfRefresh : (s.putPending v).selfRefresh = s.selfRefresh := (rfl)
@[simp] theorem State.putPending_refreshing : (s.putPending v).refreshing = s.refreshing := (rfl)
@[simp] theorem State.putPending_sessions : (s.putPending v).sessions = s.sessions := (rfl)
@[simp] theorem State.putPending_hpActive : (s.putPending v).hpActive = s.hpActive := (rfl)
@[simp] theorem State.putPending_hpApply : (s.putPending v).hpApply = s.hpApply := (rfl)
@[simp] theorem State.putPending_hostLink : (s.putPending v).hostLink = s.hostLink := (rfl)
@[simp] theorem State.putPending_zctWait : (s.putPending v).zctWait = s.zctWait := (rfl)
@[simp] theorem State.putPending_flash : (s.putPending v).flash = s.flash := (rfl)
@[simp] theorem State.putPending_bootSlots : (s.putPending v).bootSlots = s.bootSlots := (rfl)
@[simp] theorem State.putPending_cert : (s.putPending v).cert = s.cert := (rfl)
@[simp] theorem State.putPending_jorou : (s.putPending v).jorou = s.jorou := (rfl)
@[simp] theorem State.putPending_wear : (s.putPending v).wear = s.wear := (rfl)
@[simp] theorem State.putPending_ledger : (s.putPending v).ledger = s.ledger := (rfl)
@[simp] theorem State.putPending_resetOp : (s.putPending v).reset? = s.reset? := (rfl)
@[simp] theorem State.putPending_resetQ : (s.putPending v).resetQ = s.resetQ := (rfl)
@[simp] theorem State.putPending_resetsDone : (s.putPending v).resetsDone = s.resetsDone := (rfl)
@[simp] theorem State.putPending_captures : (s.putPending v).captures = s.captures := (rfl)
@[simp] theorem State.putPending_capture : (s.putPending v).capture = s.capture := (rfl)
@[simp] theorem State.putPending_capQ : (s.putPending v).capQ = s.capQ := (rfl)
@[simp] theorem State.putPending_scan : (s.putPending v).scan = s.scan := (rfl)
@[simp] theorem State.putPending_hangs : (s.putPending v).hangs = s.hangs := (rfl)
@[simp] theorem State.putPending_stalls : (s.putPending v).stalls = s.stalls := (rfl)
@[simp] theorem State.putPending_power : (s.putPending v).power = s.power := (rfl)
@[simp] theorem State.putPending_wb : (s.putPending v).wb = s.wb := (rfl)
end

section
variable (s : State) (v : Nat)
@[simp] theorem State.putCycle_pending : (s.putCycle v).pending = s.pending := (rfl)
@[simp] theorem State.putCycle_cycle : (s.putCycle v).cycle = v := (rfl)
@[simp] theorem State.putCycle_grade : (s.putCycle v).grade = s.grade := (rfl)
@[simp] theorem State.putCycle_freeCtr : (s.putCycle v).freeCtr = s.freeCtr := (rfl)
@[simp] theorem State.putCycle_out : (s.putCycle v).out = s.out := (rfl)
@[simp] theorem State.putCycle_mem : (s.putCycle v).mem = s.mem := (rfl)
@[simp] theorem State.putCycle_poison : (s.putCycle v).poison = s.poison := (rfl)
@[simp] theorem State.putCycle_regs : (s.putCycle v).regs = s.regs := (rfl)
@[simp] theorem State.putCycle_ports : (s.putCycle v).ports = s.ports := (rfl)
@[simp] theorem State.putCycle_laneMap : (s.putCycle v).laneMap = s.laneMap := (rfl)
@[simp] theorem State.putCycle_mapFixed : (s.putCycle v).mapFixed = s.mapFixed := (rfl)
@[simp] theorem State.putCycle_slots : (s.putCycle v).slots = s.slots := (rfl)
@[simp] theorem State.putCycle_queues : (s.putCycle v).queues = s.queues := (rfl)
@[simp] theorem State.putCycle_xin : (s.putCycle v).xin = s.xin := (rfl)
@[simp] theorem State.putCycle_xinLast : (s.putCycle v).xinLast = s.xinLast := (rfl)
@[simp] theorem State.putCycle_heldCells : (s.putCycle v).heldCells = s.heldCells := (rfl)
@[simp] theorem State.putCycle_retiredSlots : (s.putCycle v).retiredSlots = s.retiredSlots := (rfl)
@[simp] theorem State.putCycle_floor : (s.putCycle v).floor = s.floor := (rfl)
@[simp] theorem State.putCycle_mirrors : (s.putCycle v).mirrors = s.mirrors := (rfl)
@[simp] theorem State.putCycle_mirrorMade : (s.putCycle v).mirrorMade = s.mirrorMade := (rfl)
@[simp] theorem State.putCycle_sampleNext : (s.putCycle v).sampleNext = s.sampleNext := (rfl)
@[simp] theorem State.putCycle_sampleRead : (s.putCycle v).sampleRead = s.sampleRead := (rfl)
@[simp] theorem State.putCycle_smpStart : (s.putCycle v).smpStart = s.smpStart := (rfl)
@[simp] theorem State.putCycle_fails : (s.putCycle v).fails = s.fails := (rfl)
@[simp] theorem State.putCycle_echoes : (s.putCycle v).echoes = s.echoes := (rfl)
@[simp] theorem State.putCycle_echoGaps : (s.putCycle v).echoGaps = s.echoGaps := (rfl)
@[simp] theorem State.putCycle_noReturn : (s.putCycle v).noReturn = s.noReturn := (rfl)
@[simp] theorem State.putCycle_tiles : (s.putCycle v).tiles = s.tiles := (rfl)
@[simp] theorem State.putCycle_tileMap : (s.putCycle v).tileMap = s.tileMap := (rfl)
@[simp] theorem State.putCycle_failedTiles : (s.putCycle v).failedTiles = s.failedTiles := (rfl)
@[simp] theorem State.putCycle_candidates : (s.putCycle v).candidates = s.candidates := (rfl)
@[simp] theorem State.putCycle_inboxes : (s.putCycle v).inboxes = s.inboxes := (rfl)
@[simp] theorem State.putCycle_ctxs : (s.putCycle v).ctxs = s.ctxs := (rfl)
@[simp] theorem State.putCycle_ringPass : (s.putCycle v).ringPass = s.ringPass := (rfl)
@[simp] theorem State.putCycle_plans : (s.putCycle v).plans = s.plans := (rfl)
@[simp] theorem State.putCycle_planFp : (s.putCycle v).planFp = s.planFp := (rfl)
@[simp] theorem State.putCycle_groups : (s.putCycle v).groups = s.groups := (rfl)
@[simp] theorem State.putCycle_wmInbox : (s.putCycle v).wmInbox = s.wmInbox := (rfl)
@[simp] theorem State.putCycle_sets : (s.putCycle v).sets = s.sets := (rfl)
@[simp] theorem State.putCycle_ehts : (s.putCycle v).ehts = s.ehts := (rfl)
@[simp] theorem State.putCycle_expOpen : (s.putCycle v).expOpen = s.expOpen := (rfl)
@[simp] theorem State.putCycle_expIn : (s.putCycle v).expIn = s.expIn := (rfl)
@[simp] theorem State.putCycle_expWait : (s.putCycle v).expWait = s.expWait := (rfl)
@[simp] theorem State.putCycle_atomics : (s.putCycle v).atomics = s.atomics := (rfl)
@[simp] theorem State.putCycle_owners : (s.putCycle v).owners = s.owners := (rfl)
@[simp] theorem State.putCycle_bufs : (s.putCycle v).bufs = s.bufs := (rfl)
@[simp] theorem State.putCycle_pools : (s.putCycle v).pools = s.pools := (rfl)
@[simp] theorem State.putCycle_waiters : (s.putCycle v).waiters = s.waiters := (rfl)
@[simp] theorem State.putCycle_grants : (s.putCycle v).grants = s.grants := (rfl)
@[simp] theorem State.putCycle_rowErrs : (s.putCycle v).rowErrs = s.rowErrs := (rfl)
@[simp] theorem State.putCycle_pageErrs : (s.putCycle v).pageErrs = s.pageErrs := (rfl)
@[simp] theorem State.putCycle_pageHeld : (s.putCycle v).pageHeld = s.pageHeld := (rfl)
@[simp] theorem State.putCycle_pages : (s.putCycle v).pages = s.pages := (rfl)
@[simp] theorem State.putCycle_sparedRows : (s.putCycle v).sparedRows = s.sparedRows := (rfl)
@[simp] theorem State.putCycle_patrolAt : (s.putCycle v).patrolAt = s.patrolAt := (rfl)
@[simp] theorem State.putCycle_sramAt : (s.putCycle v).sramAt = s.sramAt := (rfl)
@[simp] theorem State.putCycle_selfRefresh : (s.putCycle v).selfRefresh = s.selfRefresh := (rfl)
@[simp] theorem State.putCycle_refreshing : (s.putCycle v).refreshing = s.refreshing := (rfl)
@[simp] theorem State.putCycle_sessions : (s.putCycle v).sessions = s.sessions := (rfl)
@[simp] theorem State.putCycle_hpActive : (s.putCycle v).hpActive = s.hpActive := (rfl)
@[simp] theorem State.putCycle_hpApply : (s.putCycle v).hpApply = s.hpApply := (rfl)
@[simp] theorem State.putCycle_hostLink : (s.putCycle v).hostLink = s.hostLink := (rfl)
@[simp] theorem State.putCycle_zctWait : (s.putCycle v).zctWait = s.zctWait := (rfl)
@[simp] theorem State.putCycle_flash : (s.putCycle v).flash = s.flash := (rfl)
@[simp] theorem State.putCycle_bootSlots : (s.putCycle v).bootSlots = s.bootSlots := (rfl)
@[simp] theorem State.putCycle_cert : (s.putCycle v).cert = s.cert := (rfl)
@[simp] theorem State.putCycle_jorou : (s.putCycle v).jorou = s.jorou := (rfl)
@[simp] theorem State.putCycle_wear : (s.putCycle v).wear = s.wear := (rfl)
@[simp] theorem State.putCycle_ledger : (s.putCycle v).ledger = s.ledger := (rfl)
@[simp] theorem State.putCycle_resetOp : (s.putCycle v).reset? = s.reset? := (rfl)
@[simp] theorem State.putCycle_resetQ : (s.putCycle v).resetQ = s.resetQ := (rfl)
@[simp] theorem State.putCycle_resetsDone : (s.putCycle v).resetsDone = s.resetsDone := (rfl)
@[simp] theorem State.putCycle_captures : (s.putCycle v).captures = s.captures := (rfl)
@[simp] theorem State.putCycle_capture : (s.putCycle v).capture = s.capture := (rfl)
@[simp] theorem State.putCycle_capQ : (s.putCycle v).capQ = s.capQ := (rfl)
@[simp] theorem State.putCycle_scan : (s.putCycle v).scan = s.scan := (rfl)
@[simp] theorem State.putCycle_hangs : (s.putCycle v).hangs = s.hangs := (rfl)
@[simp] theorem State.putCycle_stalls : (s.putCycle v).stalls = s.stalls := (rfl)
@[simp] theorem State.putCycle_power : (s.putCycle v).power = s.power := (rfl)
@[simp] theorem State.putCycle_wb : (s.putCycle v).wb = s.wb := (rfl)
end

section
variable (s : State) (v : Grade)
@[simp] theorem State.putGrade_pending : (s.putGrade v).pending = s.pending := (rfl)
@[simp] theorem State.putGrade_cycle : (s.putGrade v).cycle = s.cycle := (rfl)
@[simp] theorem State.putGrade_grade : (s.putGrade v).grade = v := (rfl)
@[simp] theorem State.putGrade_freeCtr : (s.putGrade v).freeCtr = s.freeCtr := (rfl)
@[simp] theorem State.putGrade_out : (s.putGrade v).out = s.out := (rfl)
@[simp] theorem State.putGrade_mem : (s.putGrade v).mem = s.mem := (rfl)
@[simp] theorem State.putGrade_poison : (s.putGrade v).poison = s.poison := (rfl)
@[simp] theorem State.putGrade_regs : (s.putGrade v).regs = s.regs := (rfl)
@[simp] theorem State.putGrade_ports : (s.putGrade v).ports = s.ports := (rfl)
@[simp] theorem State.putGrade_laneMap : (s.putGrade v).laneMap = s.laneMap := (rfl)
@[simp] theorem State.putGrade_mapFixed : (s.putGrade v).mapFixed = s.mapFixed := (rfl)
@[simp] theorem State.putGrade_slots : (s.putGrade v).slots = s.slots := (rfl)
@[simp] theorem State.putGrade_queues : (s.putGrade v).queues = s.queues := (rfl)
@[simp] theorem State.putGrade_xin : (s.putGrade v).xin = s.xin := (rfl)
@[simp] theorem State.putGrade_xinLast : (s.putGrade v).xinLast = s.xinLast := (rfl)
@[simp] theorem State.putGrade_heldCells : (s.putGrade v).heldCells = s.heldCells := (rfl)
@[simp] theorem State.putGrade_retiredSlots : (s.putGrade v).retiredSlots = s.retiredSlots := (rfl)
@[simp] theorem State.putGrade_floor : (s.putGrade v).floor = s.floor := (rfl)
@[simp] theorem State.putGrade_mirrors : (s.putGrade v).mirrors = s.mirrors := (rfl)
@[simp] theorem State.putGrade_mirrorMade : (s.putGrade v).mirrorMade = s.mirrorMade := (rfl)
@[simp] theorem State.putGrade_sampleNext : (s.putGrade v).sampleNext = s.sampleNext := (rfl)
@[simp] theorem State.putGrade_sampleRead : (s.putGrade v).sampleRead = s.sampleRead := (rfl)
@[simp] theorem State.putGrade_smpStart : (s.putGrade v).smpStart = s.smpStart := (rfl)
@[simp] theorem State.putGrade_fails : (s.putGrade v).fails = s.fails := (rfl)
@[simp] theorem State.putGrade_echoes : (s.putGrade v).echoes = s.echoes := (rfl)
@[simp] theorem State.putGrade_echoGaps : (s.putGrade v).echoGaps = s.echoGaps := (rfl)
@[simp] theorem State.putGrade_noReturn : (s.putGrade v).noReturn = s.noReturn := (rfl)
@[simp] theorem State.putGrade_tiles : (s.putGrade v).tiles = s.tiles := (rfl)
@[simp] theorem State.putGrade_tileMap : (s.putGrade v).tileMap = s.tileMap := (rfl)
@[simp] theorem State.putGrade_failedTiles : (s.putGrade v).failedTiles = s.failedTiles := (rfl)
@[simp] theorem State.putGrade_candidates : (s.putGrade v).candidates = s.candidates := (rfl)
@[simp] theorem State.putGrade_inboxes : (s.putGrade v).inboxes = s.inboxes := (rfl)
@[simp] theorem State.putGrade_ctxs : (s.putGrade v).ctxs = s.ctxs := (rfl)
@[simp] theorem State.putGrade_ringPass : (s.putGrade v).ringPass = s.ringPass := (rfl)
@[simp] theorem State.putGrade_plans : (s.putGrade v).plans = s.plans := (rfl)
@[simp] theorem State.putGrade_planFp : (s.putGrade v).planFp = s.planFp := (rfl)
@[simp] theorem State.putGrade_groups : (s.putGrade v).groups = s.groups := (rfl)
@[simp] theorem State.putGrade_wmInbox : (s.putGrade v).wmInbox = s.wmInbox := (rfl)
@[simp] theorem State.putGrade_sets : (s.putGrade v).sets = s.sets := (rfl)
@[simp] theorem State.putGrade_ehts : (s.putGrade v).ehts = s.ehts := (rfl)
@[simp] theorem State.putGrade_expOpen : (s.putGrade v).expOpen = s.expOpen := (rfl)
@[simp] theorem State.putGrade_expIn : (s.putGrade v).expIn = s.expIn := (rfl)
@[simp] theorem State.putGrade_expWait : (s.putGrade v).expWait = s.expWait := (rfl)
@[simp] theorem State.putGrade_atomics : (s.putGrade v).atomics = s.atomics := (rfl)
@[simp] theorem State.putGrade_owners : (s.putGrade v).owners = s.owners := (rfl)
@[simp] theorem State.putGrade_bufs : (s.putGrade v).bufs = s.bufs := (rfl)
@[simp] theorem State.putGrade_pools : (s.putGrade v).pools = s.pools := (rfl)
@[simp] theorem State.putGrade_waiters : (s.putGrade v).waiters = s.waiters := (rfl)
@[simp] theorem State.putGrade_grants : (s.putGrade v).grants = s.grants := (rfl)
@[simp] theorem State.putGrade_rowErrs : (s.putGrade v).rowErrs = s.rowErrs := (rfl)
@[simp] theorem State.putGrade_pageErrs : (s.putGrade v).pageErrs = s.pageErrs := (rfl)
@[simp] theorem State.putGrade_pageHeld : (s.putGrade v).pageHeld = s.pageHeld := (rfl)
@[simp] theorem State.putGrade_pages : (s.putGrade v).pages = s.pages := (rfl)
@[simp] theorem State.putGrade_sparedRows : (s.putGrade v).sparedRows = s.sparedRows := (rfl)
@[simp] theorem State.putGrade_patrolAt : (s.putGrade v).patrolAt = s.patrolAt := (rfl)
@[simp] theorem State.putGrade_sramAt : (s.putGrade v).sramAt = s.sramAt := (rfl)
@[simp] theorem State.putGrade_selfRefresh : (s.putGrade v).selfRefresh = s.selfRefresh := (rfl)
@[simp] theorem State.putGrade_refreshing : (s.putGrade v).refreshing = s.refreshing := (rfl)
@[simp] theorem State.putGrade_sessions : (s.putGrade v).sessions = s.sessions := (rfl)
@[simp] theorem State.putGrade_hpActive : (s.putGrade v).hpActive = s.hpActive := (rfl)
@[simp] theorem State.putGrade_hpApply : (s.putGrade v).hpApply = s.hpApply := (rfl)
@[simp] theorem State.putGrade_hostLink : (s.putGrade v).hostLink = s.hostLink := (rfl)
@[simp] theorem State.putGrade_zctWait : (s.putGrade v).zctWait = s.zctWait := (rfl)
@[simp] theorem State.putGrade_flash : (s.putGrade v).flash = s.flash := (rfl)
@[simp] theorem State.putGrade_bootSlots : (s.putGrade v).bootSlots = s.bootSlots := (rfl)
@[simp] theorem State.putGrade_cert : (s.putGrade v).cert = s.cert := (rfl)
@[simp] theorem State.putGrade_jorou : (s.putGrade v).jorou = s.jorou := (rfl)
@[simp] theorem State.putGrade_wear : (s.putGrade v).wear = s.wear := (rfl)
@[simp] theorem State.putGrade_ledger : (s.putGrade v).ledger = s.ledger := (rfl)
@[simp] theorem State.putGrade_resetOp : (s.putGrade v).reset? = s.reset? := (rfl)
@[simp] theorem State.putGrade_resetQ : (s.putGrade v).resetQ = s.resetQ := (rfl)
@[simp] theorem State.putGrade_resetsDone : (s.putGrade v).resetsDone = s.resetsDone := (rfl)
@[simp] theorem State.putGrade_captures : (s.putGrade v).captures = s.captures := (rfl)
@[simp] theorem State.putGrade_capture : (s.putGrade v).capture = s.capture := (rfl)
@[simp] theorem State.putGrade_capQ : (s.putGrade v).capQ = s.capQ := (rfl)
@[simp] theorem State.putGrade_scan : (s.putGrade v).scan = s.scan := (rfl)
@[simp] theorem State.putGrade_hangs : (s.putGrade v).hangs = s.hangs := (rfl)
@[simp] theorem State.putGrade_stalls : (s.putGrade v).stalls = s.stalls := (rfl)
@[simp] theorem State.putGrade_power : (s.putGrade v).power = s.power := (rfl)
@[simp] theorem State.putGrade_wb : (s.putGrade v).wb = s.wb := (rfl)
end

section
variable (s : State) (v : Nat)
@[simp] theorem State.putFreeCtr_pending : (s.putFreeCtr v).pending = s.pending := (rfl)
@[simp] theorem State.putFreeCtr_cycle : (s.putFreeCtr v).cycle = s.cycle := (rfl)
@[simp] theorem State.putFreeCtr_grade : (s.putFreeCtr v).grade = s.grade := (rfl)
@[simp] theorem State.putFreeCtr_freeCtr : (s.putFreeCtr v).freeCtr = v := (rfl)
@[simp] theorem State.putFreeCtr_out : (s.putFreeCtr v).out = s.out := (rfl)
@[simp] theorem State.putFreeCtr_mem : (s.putFreeCtr v).mem = s.mem := (rfl)
@[simp] theorem State.putFreeCtr_poison : (s.putFreeCtr v).poison = s.poison := (rfl)
@[simp] theorem State.putFreeCtr_regs : (s.putFreeCtr v).regs = s.regs := (rfl)
@[simp] theorem State.putFreeCtr_ports : (s.putFreeCtr v).ports = s.ports := (rfl)
@[simp] theorem State.putFreeCtr_laneMap : (s.putFreeCtr v).laneMap = s.laneMap := (rfl)
@[simp] theorem State.putFreeCtr_mapFixed : (s.putFreeCtr v).mapFixed = s.mapFixed := (rfl)
@[simp] theorem State.putFreeCtr_slots : (s.putFreeCtr v).slots = s.slots := (rfl)
@[simp] theorem State.putFreeCtr_queues : (s.putFreeCtr v).queues = s.queues := (rfl)
@[simp] theorem State.putFreeCtr_xin : (s.putFreeCtr v).xin = s.xin := (rfl)
@[simp] theorem State.putFreeCtr_xinLast : (s.putFreeCtr v).xinLast = s.xinLast := (rfl)
@[simp] theorem State.putFreeCtr_heldCells : (s.putFreeCtr v).heldCells = s.heldCells := (rfl)
@[simp] theorem State.putFreeCtr_retiredSlots : (s.putFreeCtr v).retiredSlots = s.retiredSlots := (rfl)
@[simp] theorem State.putFreeCtr_floor : (s.putFreeCtr v).floor = s.floor := (rfl)
@[simp] theorem State.putFreeCtr_mirrors : (s.putFreeCtr v).mirrors = s.mirrors := (rfl)
@[simp] theorem State.putFreeCtr_mirrorMade : (s.putFreeCtr v).mirrorMade = s.mirrorMade := (rfl)
@[simp] theorem State.putFreeCtr_sampleNext : (s.putFreeCtr v).sampleNext = s.sampleNext := (rfl)
@[simp] theorem State.putFreeCtr_sampleRead : (s.putFreeCtr v).sampleRead = s.sampleRead := (rfl)
@[simp] theorem State.putFreeCtr_smpStart : (s.putFreeCtr v).smpStart = s.smpStart := (rfl)
@[simp] theorem State.putFreeCtr_fails : (s.putFreeCtr v).fails = s.fails := (rfl)
@[simp] theorem State.putFreeCtr_echoes : (s.putFreeCtr v).echoes = s.echoes := (rfl)
@[simp] theorem State.putFreeCtr_echoGaps : (s.putFreeCtr v).echoGaps = s.echoGaps := (rfl)
@[simp] theorem State.putFreeCtr_noReturn : (s.putFreeCtr v).noReturn = s.noReturn := (rfl)
@[simp] theorem State.putFreeCtr_tiles : (s.putFreeCtr v).tiles = s.tiles := (rfl)
@[simp] theorem State.putFreeCtr_tileMap : (s.putFreeCtr v).tileMap = s.tileMap := (rfl)
@[simp] theorem State.putFreeCtr_failedTiles : (s.putFreeCtr v).failedTiles = s.failedTiles := (rfl)
@[simp] theorem State.putFreeCtr_candidates : (s.putFreeCtr v).candidates = s.candidates := (rfl)
@[simp] theorem State.putFreeCtr_inboxes : (s.putFreeCtr v).inboxes = s.inboxes := (rfl)
@[simp] theorem State.putFreeCtr_ctxs : (s.putFreeCtr v).ctxs = s.ctxs := (rfl)
@[simp] theorem State.putFreeCtr_ringPass : (s.putFreeCtr v).ringPass = s.ringPass := (rfl)
@[simp] theorem State.putFreeCtr_plans : (s.putFreeCtr v).plans = s.plans := (rfl)
@[simp] theorem State.putFreeCtr_planFp : (s.putFreeCtr v).planFp = s.planFp := (rfl)
@[simp] theorem State.putFreeCtr_groups : (s.putFreeCtr v).groups = s.groups := (rfl)
@[simp] theorem State.putFreeCtr_wmInbox : (s.putFreeCtr v).wmInbox = s.wmInbox := (rfl)
@[simp] theorem State.putFreeCtr_sets : (s.putFreeCtr v).sets = s.sets := (rfl)
@[simp] theorem State.putFreeCtr_ehts : (s.putFreeCtr v).ehts = s.ehts := (rfl)
@[simp] theorem State.putFreeCtr_expOpen : (s.putFreeCtr v).expOpen = s.expOpen := (rfl)
@[simp] theorem State.putFreeCtr_expIn : (s.putFreeCtr v).expIn = s.expIn := (rfl)
@[simp] theorem State.putFreeCtr_expWait : (s.putFreeCtr v).expWait = s.expWait := (rfl)
@[simp] theorem State.putFreeCtr_atomics : (s.putFreeCtr v).atomics = s.atomics := (rfl)
@[simp] theorem State.putFreeCtr_owners : (s.putFreeCtr v).owners = s.owners := (rfl)
@[simp] theorem State.putFreeCtr_bufs : (s.putFreeCtr v).bufs = s.bufs := (rfl)
@[simp] theorem State.putFreeCtr_pools : (s.putFreeCtr v).pools = s.pools := (rfl)
@[simp] theorem State.putFreeCtr_waiters : (s.putFreeCtr v).waiters = s.waiters := (rfl)
@[simp] theorem State.putFreeCtr_grants : (s.putFreeCtr v).grants = s.grants := (rfl)
@[simp] theorem State.putFreeCtr_rowErrs : (s.putFreeCtr v).rowErrs = s.rowErrs := (rfl)
@[simp] theorem State.putFreeCtr_pageErrs : (s.putFreeCtr v).pageErrs = s.pageErrs := (rfl)
@[simp] theorem State.putFreeCtr_pageHeld : (s.putFreeCtr v).pageHeld = s.pageHeld := (rfl)
@[simp] theorem State.putFreeCtr_pages : (s.putFreeCtr v).pages = s.pages := (rfl)
@[simp] theorem State.putFreeCtr_sparedRows : (s.putFreeCtr v).sparedRows = s.sparedRows := (rfl)
@[simp] theorem State.putFreeCtr_patrolAt : (s.putFreeCtr v).patrolAt = s.patrolAt := (rfl)
@[simp] theorem State.putFreeCtr_sramAt : (s.putFreeCtr v).sramAt = s.sramAt := (rfl)
@[simp] theorem State.putFreeCtr_selfRefresh : (s.putFreeCtr v).selfRefresh = s.selfRefresh := (rfl)
@[simp] theorem State.putFreeCtr_refreshing : (s.putFreeCtr v).refreshing = s.refreshing := (rfl)
@[simp] theorem State.putFreeCtr_sessions : (s.putFreeCtr v).sessions = s.sessions := (rfl)
@[simp] theorem State.putFreeCtr_hpActive : (s.putFreeCtr v).hpActive = s.hpActive := (rfl)
@[simp] theorem State.putFreeCtr_hpApply : (s.putFreeCtr v).hpApply = s.hpApply := (rfl)
@[simp] theorem State.putFreeCtr_hostLink : (s.putFreeCtr v).hostLink = s.hostLink := (rfl)
@[simp] theorem State.putFreeCtr_zctWait : (s.putFreeCtr v).zctWait = s.zctWait := (rfl)
@[simp] theorem State.putFreeCtr_flash : (s.putFreeCtr v).flash = s.flash := (rfl)
@[simp] theorem State.putFreeCtr_bootSlots : (s.putFreeCtr v).bootSlots = s.bootSlots := (rfl)
@[simp] theorem State.putFreeCtr_cert : (s.putFreeCtr v).cert = s.cert := (rfl)
@[simp] theorem State.putFreeCtr_jorou : (s.putFreeCtr v).jorou = s.jorou := (rfl)
@[simp] theorem State.putFreeCtr_wear : (s.putFreeCtr v).wear = s.wear := (rfl)
@[simp] theorem State.putFreeCtr_ledger : (s.putFreeCtr v).ledger = s.ledger := (rfl)
@[simp] theorem State.putFreeCtr_resetOp : (s.putFreeCtr v).reset? = s.reset? := (rfl)
@[simp] theorem State.putFreeCtr_resetQ : (s.putFreeCtr v).resetQ = s.resetQ := (rfl)
@[simp] theorem State.putFreeCtr_resetsDone : (s.putFreeCtr v).resetsDone = s.resetsDone := (rfl)
@[simp] theorem State.putFreeCtr_captures : (s.putFreeCtr v).captures = s.captures := (rfl)
@[simp] theorem State.putFreeCtr_capture : (s.putFreeCtr v).capture = s.capture := (rfl)
@[simp] theorem State.putFreeCtr_capQ : (s.putFreeCtr v).capQ = s.capQ := (rfl)
@[simp] theorem State.putFreeCtr_scan : (s.putFreeCtr v).scan = s.scan := (rfl)
@[simp] theorem State.putFreeCtr_hangs : (s.putFreeCtr v).hangs = s.hangs := (rfl)
@[simp] theorem State.putFreeCtr_stalls : (s.putFreeCtr v).stalls = s.stalls := (rfl)
@[simp] theorem State.putFreeCtr_power : (s.putFreeCtr v).power = s.power := (rfl)
@[simp] theorem State.putFreeCtr_wb : (s.putFreeCtr v).wb = s.wb := (rfl)
end

section
variable (s : State) (v : List Out)
@[simp] theorem State.putOut_pending : (s.putOut v).pending = s.pending := (rfl)
@[simp] theorem State.putOut_cycle : (s.putOut v).cycle = s.cycle := (rfl)
@[simp] theorem State.putOut_grade : (s.putOut v).grade = s.grade := (rfl)
@[simp] theorem State.putOut_freeCtr : (s.putOut v).freeCtr = s.freeCtr := (rfl)
@[simp] theorem State.putOut_out : (s.putOut v).out = v := (rfl)
@[simp] theorem State.putOut_mem : (s.putOut v).mem = s.mem := (rfl)
@[simp] theorem State.putOut_poison : (s.putOut v).poison = s.poison := (rfl)
@[simp] theorem State.putOut_regs : (s.putOut v).regs = s.regs := (rfl)
@[simp] theorem State.putOut_ports : (s.putOut v).ports = s.ports := (rfl)
@[simp] theorem State.putOut_laneMap : (s.putOut v).laneMap = s.laneMap := (rfl)
@[simp] theorem State.putOut_mapFixed : (s.putOut v).mapFixed = s.mapFixed := (rfl)
@[simp] theorem State.putOut_slots : (s.putOut v).slots = s.slots := (rfl)
@[simp] theorem State.putOut_queues : (s.putOut v).queues = s.queues := (rfl)
@[simp] theorem State.putOut_xin : (s.putOut v).xin = s.xin := (rfl)
@[simp] theorem State.putOut_xinLast : (s.putOut v).xinLast = s.xinLast := (rfl)
@[simp] theorem State.putOut_heldCells : (s.putOut v).heldCells = s.heldCells := (rfl)
@[simp] theorem State.putOut_retiredSlots : (s.putOut v).retiredSlots = s.retiredSlots := (rfl)
@[simp] theorem State.putOut_floor : (s.putOut v).floor = s.floor := (rfl)
@[simp] theorem State.putOut_mirrors : (s.putOut v).mirrors = s.mirrors := (rfl)
@[simp] theorem State.putOut_mirrorMade : (s.putOut v).mirrorMade = s.mirrorMade := (rfl)
@[simp] theorem State.putOut_sampleNext : (s.putOut v).sampleNext = s.sampleNext := (rfl)
@[simp] theorem State.putOut_sampleRead : (s.putOut v).sampleRead = s.sampleRead := (rfl)
@[simp] theorem State.putOut_smpStart : (s.putOut v).smpStart = s.smpStart := (rfl)
@[simp] theorem State.putOut_fails : (s.putOut v).fails = s.fails := (rfl)
@[simp] theorem State.putOut_echoes : (s.putOut v).echoes = s.echoes := (rfl)
@[simp] theorem State.putOut_echoGaps : (s.putOut v).echoGaps = s.echoGaps := (rfl)
@[simp] theorem State.putOut_noReturn : (s.putOut v).noReturn = s.noReturn := (rfl)
@[simp] theorem State.putOut_tiles : (s.putOut v).tiles = s.tiles := (rfl)
@[simp] theorem State.putOut_tileMap : (s.putOut v).tileMap = s.tileMap := (rfl)
@[simp] theorem State.putOut_failedTiles : (s.putOut v).failedTiles = s.failedTiles := (rfl)
@[simp] theorem State.putOut_candidates : (s.putOut v).candidates = s.candidates := (rfl)
@[simp] theorem State.putOut_inboxes : (s.putOut v).inboxes = s.inboxes := (rfl)
@[simp] theorem State.putOut_ctxs : (s.putOut v).ctxs = s.ctxs := (rfl)
@[simp] theorem State.putOut_ringPass : (s.putOut v).ringPass = s.ringPass := (rfl)
@[simp] theorem State.putOut_plans : (s.putOut v).plans = s.plans := (rfl)
@[simp] theorem State.putOut_planFp : (s.putOut v).planFp = s.planFp := (rfl)
@[simp] theorem State.putOut_groups : (s.putOut v).groups = s.groups := (rfl)
@[simp] theorem State.putOut_wmInbox : (s.putOut v).wmInbox = s.wmInbox := (rfl)
@[simp] theorem State.putOut_sets : (s.putOut v).sets = s.sets := (rfl)
@[simp] theorem State.putOut_ehts : (s.putOut v).ehts = s.ehts := (rfl)
@[simp] theorem State.putOut_expOpen : (s.putOut v).expOpen = s.expOpen := (rfl)
@[simp] theorem State.putOut_expIn : (s.putOut v).expIn = s.expIn := (rfl)
@[simp] theorem State.putOut_expWait : (s.putOut v).expWait = s.expWait := (rfl)
@[simp] theorem State.putOut_atomics : (s.putOut v).atomics = s.atomics := (rfl)
@[simp] theorem State.putOut_owners : (s.putOut v).owners = s.owners := (rfl)
@[simp] theorem State.putOut_bufs : (s.putOut v).bufs = s.bufs := (rfl)
@[simp] theorem State.putOut_pools : (s.putOut v).pools = s.pools := (rfl)
@[simp] theorem State.putOut_waiters : (s.putOut v).waiters = s.waiters := (rfl)
@[simp] theorem State.putOut_grants : (s.putOut v).grants = s.grants := (rfl)
@[simp] theorem State.putOut_rowErrs : (s.putOut v).rowErrs = s.rowErrs := (rfl)
@[simp] theorem State.putOut_pageErrs : (s.putOut v).pageErrs = s.pageErrs := (rfl)
@[simp] theorem State.putOut_pageHeld : (s.putOut v).pageHeld = s.pageHeld := (rfl)
@[simp] theorem State.putOut_pages : (s.putOut v).pages = s.pages := (rfl)
@[simp] theorem State.putOut_sparedRows : (s.putOut v).sparedRows = s.sparedRows := (rfl)
@[simp] theorem State.putOut_patrolAt : (s.putOut v).patrolAt = s.patrolAt := (rfl)
@[simp] theorem State.putOut_sramAt : (s.putOut v).sramAt = s.sramAt := (rfl)
@[simp] theorem State.putOut_selfRefresh : (s.putOut v).selfRefresh = s.selfRefresh := (rfl)
@[simp] theorem State.putOut_refreshing : (s.putOut v).refreshing = s.refreshing := (rfl)
@[simp] theorem State.putOut_sessions : (s.putOut v).sessions = s.sessions := (rfl)
@[simp] theorem State.putOut_hpActive : (s.putOut v).hpActive = s.hpActive := (rfl)
@[simp] theorem State.putOut_hpApply : (s.putOut v).hpApply = s.hpApply := (rfl)
@[simp] theorem State.putOut_hostLink : (s.putOut v).hostLink = s.hostLink := (rfl)
@[simp] theorem State.putOut_zctWait : (s.putOut v).zctWait = s.zctWait := (rfl)
@[simp] theorem State.putOut_flash : (s.putOut v).flash = s.flash := (rfl)
@[simp] theorem State.putOut_bootSlots : (s.putOut v).bootSlots = s.bootSlots := (rfl)
@[simp] theorem State.putOut_cert : (s.putOut v).cert = s.cert := (rfl)
@[simp] theorem State.putOut_jorou : (s.putOut v).jorou = s.jorou := (rfl)
@[simp] theorem State.putOut_wear : (s.putOut v).wear = s.wear := (rfl)
@[simp] theorem State.putOut_ledger : (s.putOut v).ledger = s.ledger := (rfl)
@[simp] theorem State.putOut_resetOp : (s.putOut v).reset? = s.reset? := (rfl)
@[simp] theorem State.putOut_resetQ : (s.putOut v).resetQ = s.resetQ := (rfl)
@[simp] theorem State.putOut_resetsDone : (s.putOut v).resetsDone = s.resetsDone := (rfl)
@[simp] theorem State.putOut_captures : (s.putOut v).captures = s.captures := (rfl)
@[simp] theorem State.putOut_capture : (s.putOut v).capture = s.capture := (rfl)
@[simp] theorem State.putOut_capQ : (s.putOut v).capQ = s.capQ := (rfl)
@[simp] theorem State.putOut_scan : (s.putOut v).scan = s.scan := (rfl)
@[simp] theorem State.putOut_hangs : (s.putOut v).hangs = s.hangs := (rfl)
@[simp] theorem State.putOut_stalls : (s.putOut v).stalls = s.stalls := (rfl)
@[simp] theorem State.putOut_power : (s.putOut v).power = s.power := (rfl)
@[simp] theorem State.putOut_wb : (s.putOut v).wb = s.wb := (rfl)
end

section
variable (s : State) (v : List Host.Cell)
@[simp] theorem State.putMem_pending : (s.putMem v).pending = s.pending := (rfl)
@[simp] theorem State.putMem_cycle : (s.putMem v).cycle = s.cycle := (rfl)
@[simp] theorem State.putMem_grade : (s.putMem v).grade = s.grade := (rfl)
@[simp] theorem State.putMem_freeCtr : (s.putMem v).freeCtr = s.freeCtr := (rfl)
@[simp] theorem State.putMem_out : (s.putMem v).out = s.out := (rfl)
@[simp] theorem State.putMem_mem : (s.putMem v).mem = v := (rfl)
@[simp] theorem State.putMem_poison : (s.putMem v).poison = s.poison := (rfl)
@[simp] theorem State.putMem_regs : (s.putMem v).regs = s.regs := (rfl)
@[simp] theorem State.putMem_ports : (s.putMem v).ports = s.ports := (rfl)
@[simp] theorem State.putMem_laneMap : (s.putMem v).laneMap = s.laneMap := (rfl)
@[simp] theorem State.putMem_mapFixed : (s.putMem v).mapFixed = s.mapFixed := (rfl)
@[simp] theorem State.putMem_slots : (s.putMem v).slots = s.slots := (rfl)
@[simp] theorem State.putMem_queues : (s.putMem v).queues = s.queues := (rfl)
@[simp] theorem State.putMem_xin : (s.putMem v).xin = s.xin := (rfl)
@[simp] theorem State.putMem_xinLast : (s.putMem v).xinLast = s.xinLast := (rfl)
@[simp] theorem State.putMem_heldCells : (s.putMem v).heldCells = s.heldCells := (rfl)
@[simp] theorem State.putMem_retiredSlots : (s.putMem v).retiredSlots = s.retiredSlots := (rfl)
@[simp] theorem State.putMem_floor : (s.putMem v).floor = s.floor := (rfl)
@[simp] theorem State.putMem_mirrors : (s.putMem v).mirrors = s.mirrors := (rfl)
@[simp] theorem State.putMem_mirrorMade : (s.putMem v).mirrorMade = s.mirrorMade := (rfl)
@[simp] theorem State.putMem_sampleNext : (s.putMem v).sampleNext = s.sampleNext := (rfl)
@[simp] theorem State.putMem_sampleRead : (s.putMem v).sampleRead = s.sampleRead := (rfl)
@[simp] theorem State.putMem_smpStart : (s.putMem v).smpStart = s.smpStart := (rfl)
@[simp] theorem State.putMem_fails : (s.putMem v).fails = s.fails := (rfl)
@[simp] theorem State.putMem_echoes : (s.putMem v).echoes = s.echoes := (rfl)
@[simp] theorem State.putMem_echoGaps : (s.putMem v).echoGaps = s.echoGaps := (rfl)
@[simp] theorem State.putMem_noReturn : (s.putMem v).noReturn = s.noReturn := (rfl)
@[simp] theorem State.putMem_tiles : (s.putMem v).tiles = s.tiles := (rfl)
@[simp] theorem State.putMem_tileMap : (s.putMem v).tileMap = s.tileMap := (rfl)
@[simp] theorem State.putMem_failedTiles : (s.putMem v).failedTiles = s.failedTiles := (rfl)
@[simp] theorem State.putMem_candidates : (s.putMem v).candidates = s.candidates := (rfl)
@[simp] theorem State.putMem_inboxes : (s.putMem v).inboxes = s.inboxes := (rfl)
@[simp] theorem State.putMem_ctxs : (s.putMem v).ctxs = s.ctxs := (rfl)
@[simp] theorem State.putMem_ringPass : (s.putMem v).ringPass = s.ringPass := (rfl)
@[simp] theorem State.putMem_plans : (s.putMem v).plans = s.plans := (rfl)
@[simp] theorem State.putMem_planFp : (s.putMem v).planFp = s.planFp := (rfl)
@[simp] theorem State.putMem_groups : (s.putMem v).groups = s.groups := (rfl)
@[simp] theorem State.putMem_wmInbox : (s.putMem v).wmInbox = s.wmInbox := (rfl)
@[simp] theorem State.putMem_sets : (s.putMem v).sets = s.sets := (rfl)
@[simp] theorem State.putMem_ehts : (s.putMem v).ehts = s.ehts := (rfl)
@[simp] theorem State.putMem_expOpen : (s.putMem v).expOpen = s.expOpen := (rfl)
@[simp] theorem State.putMem_expIn : (s.putMem v).expIn = s.expIn := (rfl)
@[simp] theorem State.putMem_expWait : (s.putMem v).expWait = s.expWait := (rfl)
@[simp] theorem State.putMem_atomics : (s.putMem v).atomics = s.atomics := (rfl)
@[simp] theorem State.putMem_owners : (s.putMem v).owners = s.owners := (rfl)
@[simp] theorem State.putMem_bufs : (s.putMem v).bufs = s.bufs := (rfl)
@[simp] theorem State.putMem_pools : (s.putMem v).pools = s.pools := (rfl)
@[simp] theorem State.putMem_waiters : (s.putMem v).waiters = s.waiters := (rfl)
@[simp] theorem State.putMem_grants : (s.putMem v).grants = s.grants := (rfl)
@[simp] theorem State.putMem_rowErrs : (s.putMem v).rowErrs = s.rowErrs := (rfl)
@[simp] theorem State.putMem_pageErrs : (s.putMem v).pageErrs = s.pageErrs := (rfl)
@[simp] theorem State.putMem_pageHeld : (s.putMem v).pageHeld = s.pageHeld := (rfl)
@[simp] theorem State.putMem_pages : (s.putMem v).pages = s.pages := (rfl)
@[simp] theorem State.putMem_sparedRows : (s.putMem v).sparedRows = s.sparedRows := (rfl)
@[simp] theorem State.putMem_patrolAt : (s.putMem v).patrolAt = s.patrolAt := (rfl)
@[simp] theorem State.putMem_sramAt : (s.putMem v).sramAt = s.sramAt := (rfl)
@[simp] theorem State.putMem_selfRefresh : (s.putMem v).selfRefresh = s.selfRefresh := (rfl)
@[simp] theorem State.putMem_refreshing : (s.putMem v).refreshing = s.refreshing := (rfl)
@[simp] theorem State.putMem_sessions : (s.putMem v).sessions = s.sessions := (rfl)
@[simp] theorem State.putMem_hpActive : (s.putMem v).hpActive = s.hpActive := (rfl)
@[simp] theorem State.putMem_hpApply : (s.putMem v).hpApply = s.hpApply := (rfl)
@[simp] theorem State.putMem_hostLink : (s.putMem v).hostLink = s.hostLink := (rfl)
@[simp] theorem State.putMem_zctWait : (s.putMem v).zctWait = s.zctWait := (rfl)
@[simp] theorem State.putMem_flash : (s.putMem v).flash = s.flash := (rfl)
@[simp] theorem State.putMem_bootSlots : (s.putMem v).bootSlots = s.bootSlots := (rfl)
@[simp] theorem State.putMem_cert : (s.putMem v).cert = s.cert := (rfl)
@[simp] theorem State.putMem_jorou : (s.putMem v).jorou = s.jorou := (rfl)
@[simp] theorem State.putMem_wear : (s.putMem v).wear = s.wear := (rfl)
@[simp] theorem State.putMem_ledger : (s.putMem v).ledger = s.ledger := (rfl)
@[simp] theorem State.putMem_resetOp : (s.putMem v).reset? = s.reset? := (rfl)
@[simp] theorem State.putMem_resetQ : (s.putMem v).resetQ = s.resetQ := (rfl)
@[simp] theorem State.putMem_resetsDone : (s.putMem v).resetsDone = s.resetsDone := (rfl)
@[simp] theorem State.putMem_captures : (s.putMem v).captures = s.captures := (rfl)
@[simp] theorem State.putMem_capture : (s.putMem v).capture = s.capture := (rfl)
@[simp] theorem State.putMem_capQ : (s.putMem v).capQ = s.capQ := (rfl)
@[simp] theorem State.putMem_scan : (s.putMem v).scan = s.scan := (rfl)
@[simp] theorem State.putMem_hangs : (s.putMem v).hangs = s.hangs := (rfl)
@[simp] theorem State.putMem_stalls : (s.putMem v).stalls = s.stalls := (rfl)
@[simp] theorem State.putMem_power : (s.putMem v).power = s.power := (rfl)
@[simp] theorem State.putMem_wb : (s.putMem v).wb = s.wb := (rfl)
end

section
variable (s : State) (v : List Nat)
@[simp] theorem State.putPoison_pending : (s.putPoison v).pending = s.pending := (rfl)
@[simp] theorem State.putPoison_cycle : (s.putPoison v).cycle = s.cycle := (rfl)
@[simp] theorem State.putPoison_grade : (s.putPoison v).grade = s.grade := (rfl)
@[simp] theorem State.putPoison_freeCtr : (s.putPoison v).freeCtr = s.freeCtr := (rfl)
@[simp] theorem State.putPoison_out : (s.putPoison v).out = s.out := (rfl)
@[simp] theorem State.putPoison_mem : (s.putPoison v).mem = s.mem := (rfl)
@[simp] theorem State.putPoison_poison : (s.putPoison v).poison = v := (rfl)
@[simp] theorem State.putPoison_regs : (s.putPoison v).regs = s.regs := (rfl)
@[simp] theorem State.putPoison_ports : (s.putPoison v).ports = s.ports := (rfl)
@[simp] theorem State.putPoison_laneMap : (s.putPoison v).laneMap = s.laneMap := (rfl)
@[simp] theorem State.putPoison_mapFixed : (s.putPoison v).mapFixed = s.mapFixed := (rfl)
@[simp] theorem State.putPoison_slots : (s.putPoison v).slots = s.slots := (rfl)
@[simp] theorem State.putPoison_queues : (s.putPoison v).queues = s.queues := (rfl)
@[simp] theorem State.putPoison_xin : (s.putPoison v).xin = s.xin := (rfl)
@[simp] theorem State.putPoison_xinLast : (s.putPoison v).xinLast = s.xinLast := (rfl)
@[simp] theorem State.putPoison_heldCells : (s.putPoison v).heldCells = s.heldCells := (rfl)
@[simp] theorem State.putPoison_retiredSlots : (s.putPoison v).retiredSlots = s.retiredSlots := (rfl)
@[simp] theorem State.putPoison_floor : (s.putPoison v).floor = s.floor := (rfl)
@[simp] theorem State.putPoison_mirrors : (s.putPoison v).mirrors = s.mirrors := (rfl)
@[simp] theorem State.putPoison_mirrorMade : (s.putPoison v).mirrorMade = s.mirrorMade := (rfl)
@[simp] theorem State.putPoison_sampleNext : (s.putPoison v).sampleNext = s.sampleNext := (rfl)
@[simp] theorem State.putPoison_sampleRead : (s.putPoison v).sampleRead = s.sampleRead := (rfl)
@[simp] theorem State.putPoison_smpStart : (s.putPoison v).smpStart = s.smpStart := (rfl)
@[simp] theorem State.putPoison_fails : (s.putPoison v).fails = s.fails := (rfl)
@[simp] theorem State.putPoison_echoes : (s.putPoison v).echoes = s.echoes := (rfl)
@[simp] theorem State.putPoison_echoGaps : (s.putPoison v).echoGaps = s.echoGaps := (rfl)
@[simp] theorem State.putPoison_noReturn : (s.putPoison v).noReturn = s.noReturn := (rfl)
@[simp] theorem State.putPoison_tiles : (s.putPoison v).tiles = s.tiles := (rfl)
@[simp] theorem State.putPoison_tileMap : (s.putPoison v).tileMap = s.tileMap := (rfl)
@[simp] theorem State.putPoison_failedTiles : (s.putPoison v).failedTiles = s.failedTiles := (rfl)
@[simp] theorem State.putPoison_candidates : (s.putPoison v).candidates = s.candidates := (rfl)
@[simp] theorem State.putPoison_inboxes : (s.putPoison v).inboxes = s.inboxes := (rfl)
@[simp] theorem State.putPoison_ctxs : (s.putPoison v).ctxs = s.ctxs := (rfl)
@[simp] theorem State.putPoison_ringPass : (s.putPoison v).ringPass = s.ringPass := (rfl)
@[simp] theorem State.putPoison_plans : (s.putPoison v).plans = s.plans := (rfl)
@[simp] theorem State.putPoison_planFp : (s.putPoison v).planFp = s.planFp := (rfl)
@[simp] theorem State.putPoison_groups : (s.putPoison v).groups = s.groups := (rfl)
@[simp] theorem State.putPoison_wmInbox : (s.putPoison v).wmInbox = s.wmInbox := (rfl)
@[simp] theorem State.putPoison_sets : (s.putPoison v).sets = s.sets := (rfl)
@[simp] theorem State.putPoison_ehts : (s.putPoison v).ehts = s.ehts := (rfl)
@[simp] theorem State.putPoison_expOpen : (s.putPoison v).expOpen = s.expOpen := (rfl)
@[simp] theorem State.putPoison_expIn : (s.putPoison v).expIn = s.expIn := (rfl)
@[simp] theorem State.putPoison_expWait : (s.putPoison v).expWait = s.expWait := (rfl)
@[simp] theorem State.putPoison_atomics : (s.putPoison v).atomics = s.atomics := (rfl)
@[simp] theorem State.putPoison_owners : (s.putPoison v).owners = s.owners := (rfl)
@[simp] theorem State.putPoison_bufs : (s.putPoison v).bufs = s.bufs := (rfl)
@[simp] theorem State.putPoison_pools : (s.putPoison v).pools = s.pools := (rfl)
@[simp] theorem State.putPoison_waiters : (s.putPoison v).waiters = s.waiters := (rfl)
@[simp] theorem State.putPoison_grants : (s.putPoison v).grants = s.grants := (rfl)
@[simp] theorem State.putPoison_rowErrs : (s.putPoison v).rowErrs = s.rowErrs := (rfl)
@[simp] theorem State.putPoison_pageErrs : (s.putPoison v).pageErrs = s.pageErrs := (rfl)
@[simp] theorem State.putPoison_pageHeld : (s.putPoison v).pageHeld = s.pageHeld := (rfl)
@[simp] theorem State.putPoison_pages : (s.putPoison v).pages = s.pages := (rfl)
@[simp] theorem State.putPoison_sparedRows : (s.putPoison v).sparedRows = s.sparedRows := (rfl)
@[simp] theorem State.putPoison_patrolAt : (s.putPoison v).patrolAt = s.patrolAt := (rfl)
@[simp] theorem State.putPoison_sramAt : (s.putPoison v).sramAt = s.sramAt := (rfl)
@[simp] theorem State.putPoison_selfRefresh : (s.putPoison v).selfRefresh = s.selfRefresh := (rfl)
@[simp] theorem State.putPoison_refreshing : (s.putPoison v).refreshing = s.refreshing := (rfl)
@[simp] theorem State.putPoison_sessions : (s.putPoison v).sessions = s.sessions := (rfl)
@[simp] theorem State.putPoison_hpActive : (s.putPoison v).hpActive = s.hpActive := (rfl)
@[simp] theorem State.putPoison_hpApply : (s.putPoison v).hpApply = s.hpApply := (rfl)
@[simp] theorem State.putPoison_hostLink : (s.putPoison v).hostLink = s.hostLink := (rfl)
@[simp] theorem State.putPoison_zctWait : (s.putPoison v).zctWait = s.zctWait := (rfl)
@[simp] theorem State.putPoison_flash : (s.putPoison v).flash = s.flash := (rfl)
@[simp] theorem State.putPoison_bootSlots : (s.putPoison v).bootSlots = s.bootSlots := (rfl)
@[simp] theorem State.putPoison_cert : (s.putPoison v).cert = s.cert := (rfl)
@[simp] theorem State.putPoison_jorou : (s.putPoison v).jorou = s.jorou := (rfl)
@[simp] theorem State.putPoison_wear : (s.putPoison v).wear = s.wear := (rfl)
@[simp] theorem State.putPoison_ledger : (s.putPoison v).ledger = s.ledger := (rfl)
@[simp] theorem State.putPoison_resetOp : (s.putPoison v).reset? = s.reset? := (rfl)
@[simp] theorem State.putPoison_resetQ : (s.putPoison v).resetQ = s.resetQ := (rfl)
@[simp] theorem State.putPoison_resetsDone : (s.putPoison v).resetsDone = s.resetsDone := (rfl)
@[simp] theorem State.putPoison_captures : (s.putPoison v).captures = s.captures := (rfl)
@[simp] theorem State.putPoison_capture : (s.putPoison v).capture = s.capture := (rfl)
@[simp] theorem State.putPoison_capQ : (s.putPoison v).capQ = s.capQ := (rfl)
@[simp] theorem State.putPoison_scan : (s.putPoison v).scan = s.scan := (rfl)
@[simp] theorem State.putPoison_hangs : (s.putPoison v).hangs = s.hangs := (rfl)
@[simp] theorem State.putPoison_stalls : (s.putPoison v).stalls = s.stalls := (rfl)
@[simp] theorem State.putPoison_power : (s.putPoison v).power = s.power := (rfl)
@[simp] theorem State.putPoison_wb : (s.putPoison v).wb = s.wb := (rfl)
end

section
variable (s : State) (v : List (Reg × Word))
@[simp] theorem State.putRegs_pending : (s.putRegs v).pending = s.pending := (rfl)
@[simp] theorem State.putRegs_cycle : (s.putRegs v).cycle = s.cycle := (rfl)
@[simp] theorem State.putRegs_grade : (s.putRegs v).grade = s.grade := (rfl)
@[simp] theorem State.putRegs_freeCtr : (s.putRegs v).freeCtr = s.freeCtr := (rfl)
@[simp] theorem State.putRegs_out : (s.putRegs v).out = s.out := (rfl)
@[simp] theorem State.putRegs_mem : (s.putRegs v).mem = s.mem := (rfl)
@[simp] theorem State.putRegs_poison : (s.putRegs v).poison = s.poison := (rfl)
@[simp] theorem State.putRegs_regs : (s.putRegs v).regs = v := (rfl)
@[simp] theorem State.putRegs_ports : (s.putRegs v).ports = s.ports := (rfl)
@[simp] theorem State.putRegs_laneMap : (s.putRegs v).laneMap = s.laneMap := (rfl)
@[simp] theorem State.putRegs_mapFixed : (s.putRegs v).mapFixed = s.mapFixed := (rfl)
@[simp] theorem State.putRegs_slots : (s.putRegs v).slots = s.slots := (rfl)
@[simp] theorem State.putRegs_queues : (s.putRegs v).queues = s.queues := (rfl)
@[simp] theorem State.putRegs_xin : (s.putRegs v).xin = s.xin := (rfl)
@[simp] theorem State.putRegs_xinLast : (s.putRegs v).xinLast = s.xinLast := (rfl)
@[simp] theorem State.putRegs_heldCells : (s.putRegs v).heldCells = s.heldCells := (rfl)
@[simp] theorem State.putRegs_retiredSlots : (s.putRegs v).retiredSlots = s.retiredSlots := (rfl)
@[simp] theorem State.putRegs_floor : (s.putRegs v).floor = s.floor := (rfl)
@[simp] theorem State.putRegs_mirrors : (s.putRegs v).mirrors = s.mirrors := (rfl)
@[simp] theorem State.putRegs_mirrorMade : (s.putRegs v).mirrorMade = s.mirrorMade := (rfl)
@[simp] theorem State.putRegs_sampleNext : (s.putRegs v).sampleNext = s.sampleNext := (rfl)
@[simp] theorem State.putRegs_sampleRead : (s.putRegs v).sampleRead = s.sampleRead := (rfl)
@[simp] theorem State.putRegs_smpStart : (s.putRegs v).smpStart = s.smpStart := (rfl)
@[simp] theorem State.putRegs_fails : (s.putRegs v).fails = s.fails := (rfl)
@[simp] theorem State.putRegs_echoes : (s.putRegs v).echoes = s.echoes := (rfl)
@[simp] theorem State.putRegs_echoGaps : (s.putRegs v).echoGaps = s.echoGaps := (rfl)
@[simp] theorem State.putRegs_noReturn : (s.putRegs v).noReturn = s.noReturn := (rfl)
@[simp] theorem State.putRegs_tiles : (s.putRegs v).tiles = s.tiles := (rfl)
@[simp] theorem State.putRegs_tileMap : (s.putRegs v).tileMap = s.tileMap := (rfl)
@[simp] theorem State.putRegs_failedTiles : (s.putRegs v).failedTiles = s.failedTiles := (rfl)
@[simp] theorem State.putRegs_candidates : (s.putRegs v).candidates = s.candidates := (rfl)
@[simp] theorem State.putRegs_inboxes : (s.putRegs v).inboxes = s.inboxes := (rfl)
@[simp] theorem State.putRegs_ctxs : (s.putRegs v).ctxs = s.ctxs := (rfl)
@[simp] theorem State.putRegs_ringPass : (s.putRegs v).ringPass = s.ringPass := (rfl)
@[simp] theorem State.putRegs_plans : (s.putRegs v).plans = s.plans := (rfl)
@[simp] theorem State.putRegs_planFp : (s.putRegs v).planFp = s.planFp := (rfl)
@[simp] theorem State.putRegs_groups : (s.putRegs v).groups = s.groups := (rfl)
@[simp] theorem State.putRegs_wmInbox : (s.putRegs v).wmInbox = s.wmInbox := (rfl)
@[simp] theorem State.putRegs_sets : (s.putRegs v).sets = s.sets := (rfl)
@[simp] theorem State.putRegs_ehts : (s.putRegs v).ehts = s.ehts := (rfl)
@[simp] theorem State.putRegs_expOpen : (s.putRegs v).expOpen = s.expOpen := (rfl)
@[simp] theorem State.putRegs_expIn : (s.putRegs v).expIn = s.expIn := (rfl)
@[simp] theorem State.putRegs_expWait : (s.putRegs v).expWait = s.expWait := (rfl)
@[simp] theorem State.putRegs_atomics : (s.putRegs v).atomics = s.atomics := (rfl)
@[simp] theorem State.putRegs_owners : (s.putRegs v).owners = s.owners := (rfl)
@[simp] theorem State.putRegs_bufs : (s.putRegs v).bufs = s.bufs := (rfl)
@[simp] theorem State.putRegs_pools : (s.putRegs v).pools = s.pools := (rfl)
@[simp] theorem State.putRegs_waiters : (s.putRegs v).waiters = s.waiters := (rfl)
@[simp] theorem State.putRegs_grants : (s.putRegs v).grants = s.grants := (rfl)
@[simp] theorem State.putRegs_rowErrs : (s.putRegs v).rowErrs = s.rowErrs := (rfl)
@[simp] theorem State.putRegs_pageErrs : (s.putRegs v).pageErrs = s.pageErrs := (rfl)
@[simp] theorem State.putRegs_pageHeld : (s.putRegs v).pageHeld = s.pageHeld := (rfl)
@[simp] theorem State.putRegs_pages : (s.putRegs v).pages = s.pages := (rfl)
@[simp] theorem State.putRegs_sparedRows : (s.putRegs v).sparedRows = s.sparedRows := (rfl)
@[simp] theorem State.putRegs_patrolAt : (s.putRegs v).patrolAt = s.patrolAt := (rfl)
@[simp] theorem State.putRegs_sramAt : (s.putRegs v).sramAt = s.sramAt := (rfl)
@[simp] theorem State.putRegs_selfRefresh : (s.putRegs v).selfRefresh = s.selfRefresh := (rfl)
@[simp] theorem State.putRegs_refreshing : (s.putRegs v).refreshing = s.refreshing := (rfl)
@[simp] theorem State.putRegs_sessions : (s.putRegs v).sessions = s.sessions := (rfl)
@[simp] theorem State.putRegs_hpActive : (s.putRegs v).hpActive = s.hpActive := (rfl)
@[simp] theorem State.putRegs_hpApply : (s.putRegs v).hpApply = s.hpApply := (rfl)
@[simp] theorem State.putRegs_hostLink : (s.putRegs v).hostLink = s.hostLink := (rfl)
@[simp] theorem State.putRegs_zctWait : (s.putRegs v).zctWait = s.zctWait := (rfl)
@[simp] theorem State.putRegs_flash : (s.putRegs v).flash = s.flash := (rfl)
@[simp] theorem State.putRegs_bootSlots : (s.putRegs v).bootSlots = s.bootSlots := (rfl)
@[simp] theorem State.putRegs_cert : (s.putRegs v).cert = s.cert := (rfl)
@[simp] theorem State.putRegs_jorou : (s.putRegs v).jorou = s.jorou := (rfl)
@[simp] theorem State.putRegs_wear : (s.putRegs v).wear = s.wear := (rfl)
@[simp] theorem State.putRegs_ledger : (s.putRegs v).ledger = s.ledger := (rfl)
@[simp] theorem State.putRegs_resetOp : (s.putRegs v).reset? = s.reset? := (rfl)
@[simp] theorem State.putRegs_resetQ : (s.putRegs v).resetQ = s.resetQ := (rfl)
@[simp] theorem State.putRegs_resetsDone : (s.putRegs v).resetsDone = s.resetsDone := (rfl)
@[simp] theorem State.putRegs_captures : (s.putRegs v).captures = s.captures := (rfl)
@[simp] theorem State.putRegs_capture : (s.putRegs v).capture = s.capture := (rfl)
@[simp] theorem State.putRegs_capQ : (s.putRegs v).capQ = s.capQ := (rfl)
@[simp] theorem State.putRegs_scan : (s.putRegs v).scan = s.scan := (rfl)
@[simp] theorem State.putRegs_hangs : (s.putRegs v).hangs = s.hangs := (rfl)
@[simp] theorem State.putRegs_stalls : (s.putRegs v).stalls = s.stalls := (rfl)
@[simp] theorem State.putRegs_power : (s.putRegs v).power = s.power := (rfl)
@[simp] theorem State.putRegs_wb : (s.putRegs v).wb = s.wb := (rfl)
end

section
variable (s : State) (v : List (Nat × Port))
@[simp] theorem State.putPorts_pending : (s.putPorts v).pending = s.pending := (rfl)
@[simp] theorem State.putPorts_cycle : (s.putPorts v).cycle = s.cycle := (rfl)
@[simp] theorem State.putPorts_grade : (s.putPorts v).grade = s.grade := (rfl)
@[simp] theorem State.putPorts_freeCtr : (s.putPorts v).freeCtr = s.freeCtr := (rfl)
@[simp] theorem State.putPorts_out : (s.putPorts v).out = s.out := (rfl)
@[simp] theorem State.putPorts_mem : (s.putPorts v).mem = s.mem := (rfl)
@[simp] theorem State.putPorts_poison : (s.putPorts v).poison = s.poison := (rfl)
@[simp] theorem State.putPorts_regs : (s.putPorts v).regs = s.regs := (rfl)
@[simp] theorem State.putPorts_ports : (s.putPorts v).ports = v := (rfl)
@[simp] theorem State.putPorts_laneMap : (s.putPorts v).laneMap = s.laneMap := (rfl)
@[simp] theorem State.putPorts_mapFixed : (s.putPorts v).mapFixed = s.mapFixed := (rfl)
@[simp] theorem State.putPorts_slots : (s.putPorts v).slots = s.slots := (rfl)
@[simp] theorem State.putPorts_queues : (s.putPorts v).queues = s.queues := (rfl)
@[simp] theorem State.putPorts_xin : (s.putPorts v).xin = s.xin := (rfl)
@[simp] theorem State.putPorts_xinLast : (s.putPorts v).xinLast = s.xinLast := (rfl)
@[simp] theorem State.putPorts_heldCells : (s.putPorts v).heldCells = s.heldCells := (rfl)
@[simp] theorem State.putPorts_retiredSlots : (s.putPorts v).retiredSlots = s.retiredSlots := (rfl)
@[simp] theorem State.putPorts_floor : (s.putPorts v).floor = s.floor := (rfl)
@[simp] theorem State.putPorts_mirrors : (s.putPorts v).mirrors = s.mirrors := (rfl)
@[simp] theorem State.putPorts_mirrorMade : (s.putPorts v).mirrorMade = s.mirrorMade := (rfl)
@[simp] theorem State.putPorts_sampleNext : (s.putPorts v).sampleNext = s.sampleNext := (rfl)
@[simp] theorem State.putPorts_sampleRead : (s.putPorts v).sampleRead = s.sampleRead := (rfl)
@[simp] theorem State.putPorts_smpStart : (s.putPorts v).smpStart = s.smpStart := (rfl)
@[simp] theorem State.putPorts_fails : (s.putPorts v).fails = s.fails := (rfl)
@[simp] theorem State.putPorts_echoes : (s.putPorts v).echoes = s.echoes := (rfl)
@[simp] theorem State.putPorts_echoGaps : (s.putPorts v).echoGaps = s.echoGaps := (rfl)
@[simp] theorem State.putPorts_noReturn : (s.putPorts v).noReturn = s.noReturn := (rfl)
@[simp] theorem State.putPorts_tiles : (s.putPorts v).tiles = s.tiles := (rfl)
@[simp] theorem State.putPorts_tileMap : (s.putPorts v).tileMap = s.tileMap := (rfl)
@[simp] theorem State.putPorts_failedTiles : (s.putPorts v).failedTiles = s.failedTiles := (rfl)
@[simp] theorem State.putPorts_candidates : (s.putPorts v).candidates = s.candidates := (rfl)
@[simp] theorem State.putPorts_inboxes : (s.putPorts v).inboxes = s.inboxes := (rfl)
@[simp] theorem State.putPorts_ctxs : (s.putPorts v).ctxs = s.ctxs := (rfl)
@[simp] theorem State.putPorts_ringPass : (s.putPorts v).ringPass = s.ringPass := (rfl)
@[simp] theorem State.putPorts_plans : (s.putPorts v).plans = s.plans := (rfl)
@[simp] theorem State.putPorts_planFp : (s.putPorts v).planFp = s.planFp := (rfl)
@[simp] theorem State.putPorts_groups : (s.putPorts v).groups = s.groups := (rfl)
@[simp] theorem State.putPorts_wmInbox : (s.putPorts v).wmInbox = s.wmInbox := (rfl)
@[simp] theorem State.putPorts_sets : (s.putPorts v).sets = s.sets := (rfl)
@[simp] theorem State.putPorts_ehts : (s.putPorts v).ehts = s.ehts := (rfl)
@[simp] theorem State.putPorts_expOpen : (s.putPorts v).expOpen = s.expOpen := (rfl)
@[simp] theorem State.putPorts_expIn : (s.putPorts v).expIn = s.expIn := (rfl)
@[simp] theorem State.putPorts_expWait : (s.putPorts v).expWait = s.expWait := (rfl)
@[simp] theorem State.putPorts_atomics : (s.putPorts v).atomics = s.atomics := (rfl)
@[simp] theorem State.putPorts_owners : (s.putPorts v).owners = s.owners := (rfl)
@[simp] theorem State.putPorts_bufs : (s.putPorts v).bufs = s.bufs := (rfl)
@[simp] theorem State.putPorts_pools : (s.putPorts v).pools = s.pools := (rfl)
@[simp] theorem State.putPorts_waiters : (s.putPorts v).waiters = s.waiters := (rfl)
@[simp] theorem State.putPorts_grants : (s.putPorts v).grants = s.grants := (rfl)
@[simp] theorem State.putPorts_rowErrs : (s.putPorts v).rowErrs = s.rowErrs := (rfl)
@[simp] theorem State.putPorts_pageErrs : (s.putPorts v).pageErrs = s.pageErrs := (rfl)
@[simp] theorem State.putPorts_pageHeld : (s.putPorts v).pageHeld = s.pageHeld := (rfl)
@[simp] theorem State.putPorts_pages : (s.putPorts v).pages = s.pages := (rfl)
@[simp] theorem State.putPorts_sparedRows : (s.putPorts v).sparedRows = s.sparedRows := (rfl)
@[simp] theorem State.putPorts_patrolAt : (s.putPorts v).patrolAt = s.patrolAt := (rfl)
@[simp] theorem State.putPorts_sramAt : (s.putPorts v).sramAt = s.sramAt := (rfl)
@[simp] theorem State.putPorts_selfRefresh : (s.putPorts v).selfRefresh = s.selfRefresh := (rfl)
@[simp] theorem State.putPorts_refreshing : (s.putPorts v).refreshing = s.refreshing := (rfl)
@[simp] theorem State.putPorts_sessions : (s.putPorts v).sessions = s.sessions := (rfl)
@[simp] theorem State.putPorts_hpActive : (s.putPorts v).hpActive = s.hpActive := (rfl)
@[simp] theorem State.putPorts_hpApply : (s.putPorts v).hpApply = s.hpApply := (rfl)
@[simp] theorem State.putPorts_hostLink : (s.putPorts v).hostLink = s.hostLink := (rfl)
@[simp] theorem State.putPorts_zctWait : (s.putPorts v).zctWait = s.zctWait := (rfl)
@[simp] theorem State.putPorts_flash : (s.putPorts v).flash = s.flash := (rfl)
@[simp] theorem State.putPorts_bootSlots : (s.putPorts v).bootSlots = s.bootSlots := (rfl)
@[simp] theorem State.putPorts_cert : (s.putPorts v).cert = s.cert := (rfl)
@[simp] theorem State.putPorts_jorou : (s.putPorts v).jorou = s.jorou := (rfl)
@[simp] theorem State.putPorts_wear : (s.putPorts v).wear = s.wear := (rfl)
@[simp] theorem State.putPorts_ledger : (s.putPorts v).ledger = s.ledger := (rfl)
@[simp] theorem State.putPorts_resetOp : (s.putPorts v).reset? = s.reset? := (rfl)
@[simp] theorem State.putPorts_resetQ : (s.putPorts v).resetQ = s.resetQ := (rfl)
@[simp] theorem State.putPorts_resetsDone : (s.putPorts v).resetsDone = s.resetsDone := (rfl)
@[simp] theorem State.putPorts_captures : (s.putPorts v).captures = s.captures := (rfl)
@[simp] theorem State.putPorts_capture : (s.putPorts v).capture = s.capture := (rfl)
@[simp] theorem State.putPorts_capQ : (s.putPorts v).capQ = s.capQ := (rfl)
@[simp] theorem State.putPorts_scan : (s.putPorts v).scan = s.scan := (rfl)
@[simp] theorem State.putPorts_hangs : (s.putPorts v).hangs = s.hangs := (rfl)
@[simp] theorem State.putPorts_stalls : (s.putPorts v).stalls = s.stalls := (rfl)
@[simp] theorem State.putPorts_power : (s.putPorts v).power = s.power := (rfl)
@[simp] theorem State.putPorts_wb : (s.putPorts v).wb = s.wb := (rfl)
end

section
variable (s : State) (v : List LaneRec)
@[simp] theorem State.putLaneMap_pending : (s.putLaneMap v).pending = s.pending := (rfl)
@[simp] theorem State.putLaneMap_cycle : (s.putLaneMap v).cycle = s.cycle := (rfl)
@[simp] theorem State.putLaneMap_grade : (s.putLaneMap v).grade = s.grade := (rfl)
@[simp] theorem State.putLaneMap_freeCtr : (s.putLaneMap v).freeCtr = s.freeCtr := (rfl)
@[simp] theorem State.putLaneMap_out : (s.putLaneMap v).out = s.out := (rfl)
@[simp] theorem State.putLaneMap_mem : (s.putLaneMap v).mem = s.mem := (rfl)
@[simp] theorem State.putLaneMap_poison : (s.putLaneMap v).poison = s.poison := (rfl)
@[simp] theorem State.putLaneMap_regs : (s.putLaneMap v).regs = s.regs := (rfl)
@[simp] theorem State.putLaneMap_ports : (s.putLaneMap v).ports = s.ports := (rfl)
@[simp] theorem State.putLaneMap_laneMap : (s.putLaneMap v).laneMap = v := (rfl)
@[simp] theorem State.putLaneMap_mapFixed : (s.putLaneMap v).mapFixed = s.mapFixed := (rfl)
@[simp] theorem State.putLaneMap_slots : (s.putLaneMap v).slots = s.slots := (rfl)
@[simp] theorem State.putLaneMap_queues : (s.putLaneMap v).queues = s.queues := (rfl)
@[simp] theorem State.putLaneMap_xin : (s.putLaneMap v).xin = s.xin := (rfl)
@[simp] theorem State.putLaneMap_xinLast : (s.putLaneMap v).xinLast = s.xinLast := (rfl)
@[simp] theorem State.putLaneMap_heldCells : (s.putLaneMap v).heldCells = s.heldCells := (rfl)
@[simp] theorem State.putLaneMap_retiredSlots : (s.putLaneMap v).retiredSlots = s.retiredSlots := (rfl)
@[simp] theorem State.putLaneMap_floor : (s.putLaneMap v).floor = s.floor := (rfl)
@[simp] theorem State.putLaneMap_mirrors : (s.putLaneMap v).mirrors = s.mirrors := (rfl)
@[simp] theorem State.putLaneMap_mirrorMade : (s.putLaneMap v).mirrorMade = s.mirrorMade := (rfl)
@[simp] theorem State.putLaneMap_sampleNext : (s.putLaneMap v).sampleNext = s.sampleNext := (rfl)
@[simp] theorem State.putLaneMap_sampleRead : (s.putLaneMap v).sampleRead = s.sampleRead := (rfl)
@[simp] theorem State.putLaneMap_smpStart : (s.putLaneMap v).smpStart = s.smpStart := (rfl)
@[simp] theorem State.putLaneMap_fails : (s.putLaneMap v).fails = s.fails := (rfl)
@[simp] theorem State.putLaneMap_echoes : (s.putLaneMap v).echoes = s.echoes := (rfl)
@[simp] theorem State.putLaneMap_echoGaps : (s.putLaneMap v).echoGaps = s.echoGaps := (rfl)
@[simp] theorem State.putLaneMap_noReturn : (s.putLaneMap v).noReturn = s.noReturn := (rfl)
@[simp] theorem State.putLaneMap_tiles : (s.putLaneMap v).tiles = s.tiles := (rfl)
@[simp] theorem State.putLaneMap_tileMap : (s.putLaneMap v).tileMap = s.tileMap := (rfl)
@[simp] theorem State.putLaneMap_failedTiles : (s.putLaneMap v).failedTiles = s.failedTiles := (rfl)
@[simp] theorem State.putLaneMap_candidates : (s.putLaneMap v).candidates = s.candidates := (rfl)
@[simp] theorem State.putLaneMap_inboxes : (s.putLaneMap v).inboxes = s.inboxes := (rfl)
@[simp] theorem State.putLaneMap_ctxs : (s.putLaneMap v).ctxs = s.ctxs := (rfl)
@[simp] theorem State.putLaneMap_ringPass : (s.putLaneMap v).ringPass = s.ringPass := (rfl)
@[simp] theorem State.putLaneMap_plans : (s.putLaneMap v).plans = s.plans := (rfl)
@[simp] theorem State.putLaneMap_planFp : (s.putLaneMap v).planFp = s.planFp := (rfl)
@[simp] theorem State.putLaneMap_groups : (s.putLaneMap v).groups = s.groups := (rfl)
@[simp] theorem State.putLaneMap_wmInbox : (s.putLaneMap v).wmInbox = s.wmInbox := (rfl)
@[simp] theorem State.putLaneMap_sets : (s.putLaneMap v).sets = s.sets := (rfl)
@[simp] theorem State.putLaneMap_ehts : (s.putLaneMap v).ehts = s.ehts := (rfl)
@[simp] theorem State.putLaneMap_expOpen : (s.putLaneMap v).expOpen = s.expOpen := (rfl)
@[simp] theorem State.putLaneMap_expIn : (s.putLaneMap v).expIn = s.expIn := (rfl)
@[simp] theorem State.putLaneMap_expWait : (s.putLaneMap v).expWait = s.expWait := (rfl)
@[simp] theorem State.putLaneMap_atomics : (s.putLaneMap v).atomics = s.atomics := (rfl)
@[simp] theorem State.putLaneMap_owners : (s.putLaneMap v).owners = s.owners := (rfl)
@[simp] theorem State.putLaneMap_bufs : (s.putLaneMap v).bufs = s.bufs := (rfl)
@[simp] theorem State.putLaneMap_pools : (s.putLaneMap v).pools = s.pools := (rfl)
@[simp] theorem State.putLaneMap_waiters : (s.putLaneMap v).waiters = s.waiters := (rfl)
@[simp] theorem State.putLaneMap_grants : (s.putLaneMap v).grants = s.grants := (rfl)
@[simp] theorem State.putLaneMap_rowErrs : (s.putLaneMap v).rowErrs = s.rowErrs := (rfl)
@[simp] theorem State.putLaneMap_pageErrs : (s.putLaneMap v).pageErrs = s.pageErrs := (rfl)
@[simp] theorem State.putLaneMap_pageHeld : (s.putLaneMap v).pageHeld = s.pageHeld := (rfl)
@[simp] theorem State.putLaneMap_pages : (s.putLaneMap v).pages = s.pages := (rfl)
@[simp] theorem State.putLaneMap_sparedRows : (s.putLaneMap v).sparedRows = s.sparedRows := (rfl)
@[simp] theorem State.putLaneMap_patrolAt : (s.putLaneMap v).patrolAt = s.patrolAt := (rfl)
@[simp] theorem State.putLaneMap_sramAt : (s.putLaneMap v).sramAt = s.sramAt := (rfl)
@[simp] theorem State.putLaneMap_selfRefresh : (s.putLaneMap v).selfRefresh = s.selfRefresh := (rfl)
@[simp] theorem State.putLaneMap_refreshing : (s.putLaneMap v).refreshing = s.refreshing := (rfl)
@[simp] theorem State.putLaneMap_sessions : (s.putLaneMap v).sessions = s.sessions := (rfl)
@[simp] theorem State.putLaneMap_hpActive : (s.putLaneMap v).hpActive = s.hpActive := (rfl)
@[simp] theorem State.putLaneMap_hpApply : (s.putLaneMap v).hpApply = s.hpApply := (rfl)
@[simp] theorem State.putLaneMap_hostLink : (s.putLaneMap v).hostLink = s.hostLink := (rfl)
@[simp] theorem State.putLaneMap_zctWait : (s.putLaneMap v).zctWait = s.zctWait := (rfl)
@[simp] theorem State.putLaneMap_flash : (s.putLaneMap v).flash = s.flash := (rfl)
@[simp] theorem State.putLaneMap_bootSlots : (s.putLaneMap v).bootSlots = s.bootSlots := (rfl)
@[simp] theorem State.putLaneMap_cert : (s.putLaneMap v).cert = s.cert := (rfl)
@[simp] theorem State.putLaneMap_jorou : (s.putLaneMap v).jorou = s.jorou := (rfl)
@[simp] theorem State.putLaneMap_wear : (s.putLaneMap v).wear = s.wear := (rfl)
@[simp] theorem State.putLaneMap_ledger : (s.putLaneMap v).ledger = s.ledger := (rfl)
@[simp] theorem State.putLaneMap_resetOp : (s.putLaneMap v).reset? = s.reset? := (rfl)
@[simp] theorem State.putLaneMap_resetQ : (s.putLaneMap v).resetQ = s.resetQ := (rfl)
@[simp] theorem State.putLaneMap_resetsDone : (s.putLaneMap v).resetsDone = s.resetsDone := (rfl)
@[simp] theorem State.putLaneMap_captures : (s.putLaneMap v).captures = s.captures := (rfl)
@[simp] theorem State.putLaneMap_capture : (s.putLaneMap v).capture = s.capture := (rfl)
@[simp] theorem State.putLaneMap_capQ : (s.putLaneMap v).capQ = s.capQ := (rfl)
@[simp] theorem State.putLaneMap_scan : (s.putLaneMap v).scan = s.scan := (rfl)
@[simp] theorem State.putLaneMap_hangs : (s.putLaneMap v).hangs = s.hangs := (rfl)
@[simp] theorem State.putLaneMap_stalls : (s.putLaneMap v).stalls = s.stalls := (rfl)
@[simp] theorem State.putLaneMap_power : (s.putLaneMap v).power = s.power := (rfl)
@[simp] theorem State.putLaneMap_wb : (s.putLaneMap v).wb = s.wb := (rfl)
end

section
variable (s : State) (v : Bool)
@[simp] theorem State.putMapFixed_pending : (s.putMapFixed v).pending = s.pending := (rfl)
@[simp] theorem State.putMapFixed_cycle : (s.putMapFixed v).cycle = s.cycle := (rfl)
@[simp] theorem State.putMapFixed_grade : (s.putMapFixed v).grade = s.grade := (rfl)
@[simp] theorem State.putMapFixed_freeCtr : (s.putMapFixed v).freeCtr = s.freeCtr := (rfl)
@[simp] theorem State.putMapFixed_out : (s.putMapFixed v).out = s.out := (rfl)
@[simp] theorem State.putMapFixed_mem : (s.putMapFixed v).mem = s.mem := (rfl)
@[simp] theorem State.putMapFixed_poison : (s.putMapFixed v).poison = s.poison := (rfl)
@[simp] theorem State.putMapFixed_regs : (s.putMapFixed v).regs = s.regs := (rfl)
@[simp] theorem State.putMapFixed_ports : (s.putMapFixed v).ports = s.ports := (rfl)
@[simp] theorem State.putMapFixed_laneMap : (s.putMapFixed v).laneMap = s.laneMap := (rfl)
@[simp] theorem State.putMapFixed_mapFixed : (s.putMapFixed v).mapFixed = v := (rfl)
@[simp] theorem State.putMapFixed_slots : (s.putMapFixed v).slots = s.slots := (rfl)
@[simp] theorem State.putMapFixed_queues : (s.putMapFixed v).queues = s.queues := (rfl)
@[simp] theorem State.putMapFixed_xin : (s.putMapFixed v).xin = s.xin := (rfl)
@[simp] theorem State.putMapFixed_xinLast : (s.putMapFixed v).xinLast = s.xinLast := (rfl)
@[simp] theorem State.putMapFixed_heldCells : (s.putMapFixed v).heldCells = s.heldCells := (rfl)
@[simp] theorem State.putMapFixed_retiredSlots : (s.putMapFixed v).retiredSlots = s.retiredSlots := (rfl)
@[simp] theorem State.putMapFixed_floor : (s.putMapFixed v).floor = s.floor := (rfl)
@[simp] theorem State.putMapFixed_mirrors : (s.putMapFixed v).mirrors = s.mirrors := (rfl)
@[simp] theorem State.putMapFixed_mirrorMade : (s.putMapFixed v).mirrorMade = s.mirrorMade := (rfl)
@[simp] theorem State.putMapFixed_sampleNext : (s.putMapFixed v).sampleNext = s.sampleNext := (rfl)
@[simp] theorem State.putMapFixed_sampleRead : (s.putMapFixed v).sampleRead = s.sampleRead := (rfl)
@[simp] theorem State.putMapFixed_smpStart : (s.putMapFixed v).smpStart = s.smpStart := (rfl)
@[simp] theorem State.putMapFixed_fails : (s.putMapFixed v).fails = s.fails := (rfl)
@[simp] theorem State.putMapFixed_echoes : (s.putMapFixed v).echoes = s.echoes := (rfl)
@[simp] theorem State.putMapFixed_echoGaps : (s.putMapFixed v).echoGaps = s.echoGaps := (rfl)
@[simp] theorem State.putMapFixed_noReturn : (s.putMapFixed v).noReturn = s.noReturn := (rfl)
@[simp] theorem State.putMapFixed_tiles : (s.putMapFixed v).tiles = s.tiles := (rfl)
@[simp] theorem State.putMapFixed_tileMap : (s.putMapFixed v).tileMap = s.tileMap := (rfl)
@[simp] theorem State.putMapFixed_failedTiles : (s.putMapFixed v).failedTiles = s.failedTiles := (rfl)
@[simp] theorem State.putMapFixed_candidates : (s.putMapFixed v).candidates = s.candidates := (rfl)
@[simp] theorem State.putMapFixed_inboxes : (s.putMapFixed v).inboxes = s.inboxes := (rfl)
@[simp] theorem State.putMapFixed_ctxs : (s.putMapFixed v).ctxs = s.ctxs := (rfl)
@[simp] theorem State.putMapFixed_ringPass : (s.putMapFixed v).ringPass = s.ringPass := (rfl)
@[simp] theorem State.putMapFixed_plans : (s.putMapFixed v).plans = s.plans := (rfl)
@[simp] theorem State.putMapFixed_planFp : (s.putMapFixed v).planFp = s.planFp := (rfl)
@[simp] theorem State.putMapFixed_groups : (s.putMapFixed v).groups = s.groups := (rfl)
@[simp] theorem State.putMapFixed_wmInbox : (s.putMapFixed v).wmInbox = s.wmInbox := (rfl)
@[simp] theorem State.putMapFixed_sets : (s.putMapFixed v).sets = s.sets := (rfl)
@[simp] theorem State.putMapFixed_ehts : (s.putMapFixed v).ehts = s.ehts := (rfl)
@[simp] theorem State.putMapFixed_expOpen : (s.putMapFixed v).expOpen = s.expOpen := (rfl)
@[simp] theorem State.putMapFixed_expIn : (s.putMapFixed v).expIn = s.expIn := (rfl)
@[simp] theorem State.putMapFixed_expWait : (s.putMapFixed v).expWait = s.expWait := (rfl)
@[simp] theorem State.putMapFixed_atomics : (s.putMapFixed v).atomics = s.atomics := (rfl)
@[simp] theorem State.putMapFixed_owners : (s.putMapFixed v).owners = s.owners := (rfl)
@[simp] theorem State.putMapFixed_bufs : (s.putMapFixed v).bufs = s.bufs := (rfl)
@[simp] theorem State.putMapFixed_pools : (s.putMapFixed v).pools = s.pools := (rfl)
@[simp] theorem State.putMapFixed_waiters : (s.putMapFixed v).waiters = s.waiters := (rfl)
@[simp] theorem State.putMapFixed_grants : (s.putMapFixed v).grants = s.grants := (rfl)
@[simp] theorem State.putMapFixed_rowErrs : (s.putMapFixed v).rowErrs = s.rowErrs := (rfl)
@[simp] theorem State.putMapFixed_pageErrs : (s.putMapFixed v).pageErrs = s.pageErrs := (rfl)
@[simp] theorem State.putMapFixed_pageHeld : (s.putMapFixed v).pageHeld = s.pageHeld := (rfl)
@[simp] theorem State.putMapFixed_pages : (s.putMapFixed v).pages = s.pages := (rfl)
@[simp] theorem State.putMapFixed_sparedRows : (s.putMapFixed v).sparedRows = s.sparedRows := (rfl)
@[simp] theorem State.putMapFixed_patrolAt : (s.putMapFixed v).patrolAt = s.patrolAt := (rfl)
@[simp] theorem State.putMapFixed_sramAt : (s.putMapFixed v).sramAt = s.sramAt := (rfl)
@[simp] theorem State.putMapFixed_selfRefresh : (s.putMapFixed v).selfRefresh = s.selfRefresh := (rfl)
@[simp] theorem State.putMapFixed_refreshing : (s.putMapFixed v).refreshing = s.refreshing := (rfl)
@[simp] theorem State.putMapFixed_sessions : (s.putMapFixed v).sessions = s.sessions := (rfl)
@[simp] theorem State.putMapFixed_hpActive : (s.putMapFixed v).hpActive = s.hpActive := (rfl)
@[simp] theorem State.putMapFixed_hpApply : (s.putMapFixed v).hpApply = s.hpApply := (rfl)
@[simp] theorem State.putMapFixed_hostLink : (s.putMapFixed v).hostLink = s.hostLink := (rfl)
@[simp] theorem State.putMapFixed_zctWait : (s.putMapFixed v).zctWait = s.zctWait := (rfl)
@[simp] theorem State.putMapFixed_flash : (s.putMapFixed v).flash = s.flash := (rfl)
@[simp] theorem State.putMapFixed_bootSlots : (s.putMapFixed v).bootSlots = s.bootSlots := (rfl)
@[simp] theorem State.putMapFixed_cert : (s.putMapFixed v).cert = s.cert := (rfl)
@[simp] theorem State.putMapFixed_jorou : (s.putMapFixed v).jorou = s.jorou := (rfl)
@[simp] theorem State.putMapFixed_wear : (s.putMapFixed v).wear = s.wear := (rfl)
@[simp] theorem State.putMapFixed_ledger : (s.putMapFixed v).ledger = s.ledger := (rfl)
@[simp] theorem State.putMapFixed_resetOp : (s.putMapFixed v).reset? = s.reset? := (rfl)
@[simp] theorem State.putMapFixed_resetQ : (s.putMapFixed v).resetQ = s.resetQ := (rfl)
@[simp] theorem State.putMapFixed_resetsDone : (s.putMapFixed v).resetsDone = s.resetsDone := (rfl)
@[simp] theorem State.putMapFixed_captures : (s.putMapFixed v).captures = s.captures := (rfl)
@[simp] theorem State.putMapFixed_capture : (s.putMapFixed v).capture = s.capture := (rfl)
@[simp] theorem State.putMapFixed_capQ : (s.putMapFixed v).capQ = s.capQ := (rfl)
@[simp] theorem State.putMapFixed_scan : (s.putMapFixed v).scan = s.scan := (rfl)
@[simp] theorem State.putMapFixed_hangs : (s.putMapFixed v).hangs = s.hangs := (rfl)
@[simp] theorem State.putMapFixed_stalls : (s.putMapFixed v).stalls = s.stalls := (rfl)
@[simp] theorem State.putMapFixed_power : (s.putMapFixed v).power = s.power := (rfl)
@[simp] theorem State.putMapFixed_wb : (s.putMapFixed v).wb = s.wb := (rfl)
end

section
variable (s : State) (v : List (Nat × Slot))
@[simp] theorem State.putSlots_pending : (s.putSlots v).pending = s.pending := (rfl)
@[simp] theorem State.putSlots_cycle : (s.putSlots v).cycle = s.cycle := (rfl)
@[simp] theorem State.putSlots_grade : (s.putSlots v).grade = s.grade := (rfl)
@[simp] theorem State.putSlots_freeCtr : (s.putSlots v).freeCtr = s.freeCtr := (rfl)
@[simp] theorem State.putSlots_out : (s.putSlots v).out = s.out := (rfl)
@[simp] theorem State.putSlots_mem : (s.putSlots v).mem = s.mem := (rfl)
@[simp] theorem State.putSlots_poison : (s.putSlots v).poison = s.poison := (rfl)
@[simp] theorem State.putSlots_regs : (s.putSlots v).regs = s.regs := (rfl)
@[simp] theorem State.putSlots_ports : (s.putSlots v).ports = s.ports := (rfl)
@[simp] theorem State.putSlots_laneMap : (s.putSlots v).laneMap = s.laneMap := (rfl)
@[simp] theorem State.putSlots_mapFixed : (s.putSlots v).mapFixed = s.mapFixed := (rfl)
@[simp] theorem State.putSlots_slots : (s.putSlots v).slots = v := (rfl)
@[simp] theorem State.putSlots_queues : (s.putSlots v).queues = s.queues := (rfl)
@[simp] theorem State.putSlots_xin : (s.putSlots v).xin = s.xin := (rfl)
@[simp] theorem State.putSlots_xinLast : (s.putSlots v).xinLast = s.xinLast := (rfl)
@[simp] theorem State.putSlots_heldCells : (s.putSlots v).heldCells = s.heldCells := (rfl)
@[simp] theorem State.putSlots_retiredSlots : (s.putSlots v).retiredSlots = s.retiredSlots := (rfl)
@[simp] theorem State.putSlots_floor : (s.putSlots v).floor = s.floor := (rfl)
@[simp] theorem State.putSlots_mirrors : (s.putSlots v).mirrors = s.mirrors := (rfl)
@[simp] theorem State.putSlots_mirrorMade : (s.putSlots v).mirrorMade = s.mirrorMade := (rfl)
@[simp] theorem State.putSlots_sampleNext : (s.putSlots v).sampleNext = s.sampleNext := (rfl)
@[simp] theorem State.putSlots_sampleRead : (s.putSlots v).sampleRead = s.sampleRead := (rfl)
@[simp] theorem State.putSlots_smpStart : (s.putSlots v).smpStart = s.smpStart := (rfl)
@[simp] theorem State.putSlots_fails : (s.putSlots v).fails = s.fails := (rfl)
@[simp] theorem State.putSlots_echoes : (s.putSlots v).echoes = s.echoes := (rfl)
@[simp] theorem State.putSlots_echoGaps : (s.putSlots v).echoGaps = s.echoGaps := (rfl)
@[simp] theorem State.putSlots_noReturn : (s.putSlots v).noReturn = s.noReturn := (rfl)
@[simp] theorem State.putSlots_tiles : (s.putSlots v).tiles = s.tiles := (rfl)
@[simp] theorem State.putSlots_tileMap : (s.putSlots v).tileMap = s.tileMap := (rfl)
@[simp] theorem State.putSlots_failedTiles : (s.putSlots v).failedTiles = s.failedTiles := (rfl)
@[simp] theorem State.putSlots_candidates : (s.putSlots v).candidates = s.candidates := (rfl)
@[simp] theorem State.putSlots_inboxes : (s.putSlots v).inboxes = s.inboxes := (rfl)
@[simp] theorem State.putSlots_ctxs : (s.putSlots v).ctxs = s.ctxs := (rfl)
@[simp] theorem State.putSlots_ringPass : (s.putSlots v).ringPass = s.ringPass := (rfl)
@[simp] theorem State.putSlots_plans : (s.putSlots v).plans = s.plans := (rfl)
@[simp] theorem State.putSlots_planFp : (s.putSlots v).planFp = s.planFp := (rfl)
@[simp] theorem State.putSlots_groups : (s.putSlots v).groups = s.groups := (rfl)
@[simp] theorem State.putSlots_wmInbox : (s.putSlots v).wmInbox = s.wmInbox := (rfl)
@[simp] theorem State.putSlots_sets : (s.putSlots v).sets = s.sets := (rfl)
@[simp] theorem State.putSlots_ehts : (s.putSlots v).ehts = s.ehts := (rfl)
@[simp] theorem State.putSlots_expOpen : (s.putSlots v).expOpen = s.expOpen := (rfl)
@[simp] theorem State.putSlots_expIn : (s.putSlots v).expIn = s.expIn := (rfl)
@[simp] theorem State.putSlots_expWait : (s.putSlots v).expWait = s.expWait := (rfl)
@[simp] theorem State.putSlots_atomics : (s.putSlots v).atomics = s.atomics := (rfl)
@[simp] theorem State.putSlots_owners : (s.putSlots v).owners = s.owners := (rfl)
@[simp] theorem State.putSlots_bufs : (s.putSlots v).bufs = s.bufs := (rfl)
@[simp] theorem State.putSlots_pools : (s.putSlots v).pools = s.pools := (rfl)
@[simp] theorem State.putSlots_waiters : (s.putSlots v).waiters = s.waiters := (rfl)
@[simp] theorem State.putSlots_grants : (s.putSlots v).grants = s.grants := (rfl)
@[simp] theorem State.putSlots_rowErrs : (s.putSlots v).rowErrs = s.rowErrs := (rfl)
@[simp] theorem State.putSlots_pageErrs : (s.putSlots v).pageErrs = s.pageErrs := (rfl)
@[simp] theorem State.putSlots_pageHeld : (s.putSlots v).pageHeld = s.pageHeld := (rfl)
@[simp] theorem State.putSlots_pages : (s.putSlots v).pages = s.pages := (rfl)
@[simp] theorem State.putSlots_sparedRows : (s.putSlots v).sparedRows = s.sparedRows := (rfl)
@[simp] theorem State.putSlots_patrolAt : (s.putSlots v).patrolAt = s.patrolAt := (rfl)
@[simp] theorem State.putSlots_sramAt : (s.putSlots v).sramAt = s.sramAt := (rfl)
@[simp] theorem State.putSlots_selfRefresh : (s.putSlots v).selfRefresh = s.selfRefresh := (rfl)
@[simp] theorem State.putSlots_refreshing : (s.putSlots v).refreshing = s.refreshing := (rfl)
@[simp] theorem State.putSlots_sessions : (s.putSlots v).sessions = s.sessions := (rfl)
@[simp] theorem State.putSlots_hpActive : (s.putSlots v).hpActive = s.hpActive := (rfl)
@[simp] theorem State.putSlots_hpApply : (s.putSlots v).hpApply = s.hpApply := (rfl)
@[simp] theorem State.putSlots_hostLink : (s.putSlots v).hostLink = s.hostLink := (rfl)
@[simp] theorem State.putSlots_zctWait : (s.putSlots v).zctWait = s.zctWait := (rfl)
@[simp] theorem State.putSlots_flash : (s.putSlots v).flash = s.flash := (rfl)
@[simp] theorem State.putSlots_bootSlots : (s.putSlots v).bootSlots = s.bootSlots := (rfl)
@[simp] theorem State.putSlots_cert : (s.putSlots v).cert = s.cert := (rfl)
@[simp] theorem State.putSlots_jorou : (s.putSlots v).jorou = s.jorou := (rfl)
@[simp] theorem State.putSlots_wear : (s.putSlots v).wear = s.wear := (rfl)
@[simp] theorem State.putSlots_ledger : (s.putSlots v).ledger = s.ledger := (rfl)
@[simp] theorem State.putSlots_resetOp : (s.putSlots v).reset? = s.reset? := (rfl)
@[simp] theorem State.putSlots_resetQ : (s.putSlots v).resetQ = s.resetQ := (rfl)
@[simp] theorem State.putSlots_resetsDone : (s.putSlots v).resetsDone = s.resetsDone := (rfl)
@[simp] theorem State.putSlots_captures : (s.putSlots v).captures = s.captures := (rfl)
@[simp] theorem State.putSlots_capture : (s.putSlots v).capture = s.capture := (rfl)
@[simp] theorem State.putSlots_capQ : (s.putSlots v).capQ = s.capQ := (rfl)
@[simp] theorem State.putSlots_scan : (s.putSlots v).scan = s.scan := (rfl)
@[simp] theorem State.putSlots_hangs : (s.putSlots v).hangs = s.hangs := (rfl)
@[simp] theorem State.putSlots_stalls : (s.putSlots v).stalls = s.stalls := (rfl)
@[simp] theorem State.putSlots_power : (s.putSlots v).power = s.power := (rfl)
@[simp] theorem State.putSlots_wb : (s.putSlots v).wb = s.wb := (rfl)
end

section
variable (s : State) (v : List (Nat × List QEntry))
@[simp] theorem State.putQueues_pending : (s.putQueues v).pending = s.pending := (rfl)
@[simp] theorem State.putQueues_cycle : (s.putQueues v).cycle = s.cycle := (rfl)
@[simp] theorem State.putQueues_grade : (s.putQueues v).grade = s.grade := (rfl)
@[simp] theorem State.putQueues_freeCtr : (s.putQueues v).freeCtr = s.freeCtr := (rfl)
@[simp] theorem State.putQueues_out : (s.putQueues v).out = s.out := (rfl)
@[simp] theorem State.putQueues_mem : (s.putQueues v).mem = s.mem := (rfl)
@[simp] theorem State.putQueues_poison : (s.putQueues v).poison = s.poison := (rfl)
@[simp] theorem State.putQueues_regs : (s.putQueues v).regs = s.regs := (rfl)
@[simp] theorem State.putQueues_ports : (s.putQueues v).ports = s.ports := (rfl)
@[simp] theorem State.putQueues_laneMap : (s.putQueues v).laneMap = s.laneMap := (rfl)
@[simp] theorem State.putQueues_mapFixed : (s.putQueues v).mapFixed = s.mapFixed := (rfl)
@[simp] theorem State.putQueues_slots : (s.putQueues v).slots = s.slots := (rfl)
@[simp] theorem State.putQueues_queues : (s.putQueues v).queues = v := (rfl)
@[simp] theorem State.putQueues_xin : (s.putQueues v).xin = s.xin := (rfl)
@[simp] theorem State.putQueues_xinLast : (s.putQueues v).xinLast = s.xinLast := (rfl)
@[simp] theorem State.putQueues_heldCells : (s.putQueues v).heldCells = s.heldCells := (rfl)
@[simp] theorem State.putQueues_retiredSlots : (s.putQueues v).retiredSlots = s.retiredSlots := (rfl)
@[simp] theorem State.putQueues_floor : (s.putQueues v).floor = s.floor := (rfl)
@[simp] theorem State.putQueues_mirrors : (s.putQueues v).mirrors = s.mirrors := (rfl)
@[simp] theorem State.putQueues_mirrorMade : (s.putQueues v).mirrorMade = s.mirrorMade := (rfl)
@[simp] theorem State.putQueues_sampleNext : (s.putQueues v).sampleNext = s.sampleNext := (rfl)
@[simp] theorem State.putQueues_sampleRead : (s.putQueues v).sampleRead = s.sampleRead := (rfl)
@[simp] theorem State.putQueues_smpStart : (s.putQueues v).smpStart = s.smpStart := (rfl)
@[simp] theorem State.putQueues_fails : (s.putQueues v).fails = s.fails := (rfl)
@[simp] theorem State.putQueues_echoes : (s.putQueues v).echoes = s.echoes := (rfl)
@[simp] theorem State.putQueues_echoGaps : (s.putQueues v).echoGaps = s.echoGaps := (rfl)
@[simp] theorem State.putQueues_noReturn : (s.putQueues v).noReturn = s.noReturn := (rfl)
@[simp] theorem State.putQueues_tiles : (s.putQueues v).tiles = s.tiles := (rfl)
@[simp] theorem State.putQueues_tileMap : (s.putQueues v).tileMap = s.tileMap := (rfl)
@[simp] theorem State.putQueues_failedTiles : (s.putQueues v).failedTiles = s.failedTiles := (rfl)
@[simp] theorem State.putQueues_candidates : (s.putQueues v).candidates = s.candidates := (rfl)
@[simp] theorem State.putQueues_inboxes : (s.putQueues v).inboxes = s.inboxes := (rfl)
@[simp] theorem State.putQueues_ctxs : (s.putQueues v).ctxs = s.ctxs := (rfl)
@[simp] theorem State.putQueues_ringPass : (s.putQueues v).ringPass = s.ringPass := (rfl)
@[simp] theorem State.putQueues_plans : (s.putQueues v).plans = s.plans := (rfl)
@[simp] theorem State.putQueues_planFp : (s.putQueues v).planFp = s.planFp := (rfl)
@[simp] theorem State.putQueues_groups : (s.putQueues v).groups = s.groups := (rfl)
@[simp] theorem State.putQueues_wmInbox : (s.putQueues v).wmInbox = s.wmInbox := (rfl)
@[simp] theorem State.putQueues_sets : (s.putQueues v).sets = s.sets := (rfl)
@[simp] theorem State.putQueues_ehts : (s.putQueues v).ehts = s.ehts := (rfl)
@[simp] theorem State.putQueues_expOpen : (s.putQueues v).expOpen = s.expOpen := (rfl)
@[simp] theorem State.putQueues_expIn : (s.putQueues v).expIn = s.expIn := (rfl)
@[simp] theorem State.putQueues_expWait : (s.putQueues v).expWait = s.expWait := (rfl)
@[simp] theorem State.putQueues_atomics : (s.putQueues v).atomics = s.atomics := (rfl)
@[simp] theorem State.putQueues_owners : (s.putQueues v).owners = s.owners := (rfl)
@[simp] theorem State.putQueues_bufs : (s.putQueues v).bufs = s.bufs := (rfl)
@[simp] theorem State.putQueues_pools : (s.putQueues v).pools = s.pools := (rfl)
@[simp] theorem State.putQueues_waiters : (s.putQueues v).waiters = s.waiters := (rfl)
@[simp] theorem State.putQueues_grants : (s.putQueues v).grants = s.grants := (rfl)
@[simp] theorem State.putQueues_rowErrs : (s.putQueues v).rowErrs = s.rowErrs := (rfl)
@[simp] theorem State.putQueues_pageErrs : (s.putQueues v).pageErrs = s.pageErrs := (rfl)
@[simp] theorem State.putQueues_pageHeld : (s.putQueues v).pageHeld = s.pageHeld := (rfl)
@[simp] theorem State.putQueues_pages : (s.putQueues v).pages = s.pages := (rfl)
@[simp] theorem State.putQueues_sparedRows : (s.putQueues v).sparedRows = s.sparedRows := (rfl)
@[simp] theorem State.putQueues_patrolAt : (s.putQueues v).patrolAt = s.patrolAt := (rfl)
@[simp] theorem State.putQueues_sramAt : (s.putQueues v).sramAt = s.sramAt := (rfl)
@[simp] theorem State.putQueues_selfRefresh : (s.putQueues v).selfRefresh = s.selfRefresh := (rfl)
@[simp] theorem State.putQueues_refreshing : (s.putQueues v).refreshing = s.refreshing := (rfl)
@[simp] theorem State.putQueues_sessions : (s.putQueues v).sessions = s.sessions := (rfl)
@[simp] theorem State.putQueues_hpActive : (s.putQueues v).hpActive = s.hpActive := (rfl)
@[simp] theorem State.putQueues_hpApply : (s.putQueues v).hpApply = s.hpApply := (rfl)
@[simp] theorem State.putQueues_hostLink : (s.putQueues v).hostLink = s.hostLink := (rfl)
@[simp] theorem State.putQueues_zctWait : (s.putQueues v).zctWait = s.zctWait := (rfl)
@[simp] theorem State.putQueues_flash : (s.putQueues v).flash = s.flash := (rfl)
@[simp] theorem State.putQueues_bootSlots : (s.putQueues v).bootSlots = s.bootSlots := (rfl)
@[simp] theorem State.putQueues_cert : (s.putQueues v).cert = s.cert := (rfl)
@[simp] theorem State.putQueues_jorou : (s.putQueues v).jorou = s.jorou := (rfl)
@[simp] theorem State.putQueues_wear : (s.putQueues v).wear = s.wear := (rfl)
@[simp] theorem State.putQueues_ledger : (s.putQueues v).ledger = s.ledger := (rfl)
@[simp] theorem State.putQueues_resetOp : (s.putQueues v).reset? = s.reset? := (rfl)
@[simp] theorem State.putQueues_resetQ : (s.putQueues v).resetQ = s.resetQ := (rfl)
@[simp] theorem State.putQueues_resetsDone : (s.putQueues v).resetsDone = s.resetsDone := (rfl)
@[simp] theorem State.putQueues_captures : (s.putQueues v).captures = s.captures := (rfl)
@[simp] theorem State.putQueues_capture : (s.putQueues v).capture = s.capture := (rfl)
@[simp] theorem State.putQueues_capQ : (s.putQueues v).capQ = s.capQ := (rfl)
@[simp] theorem State.putQueues_scan : (s.putQueues v).scan = s.scan := (rfl)
@[simp] theorem State.putQueues_hangs : (s.putQueues v).hangs = s.hangs := (rfl)
@[simp] theorem State.putQueues_stalls : (s.putQueues v).stalls = s.stalls := (rfl)
@[simp] theorem State.putQueues_power : (s.putQueues v).power = s.power := (rfl)
@[simp] theorem State.putQueues_wb : (s.putQueues v).wb = s.wb := (rfl)
end

section
variable (s : State) (v : List (Nat × List (Nat × Item)))
@[simp] theorem State.putXin_pending : (s.putXin v).pending = s.pending := (rfl)
@[simp] theorem State.putXin_cycle : (s.putXin v).cycle = s.cycle := (rfl)
@[simp] theorem State.putXin_grade : (s.putXin v).grade = s.grade := (rfl)
@[simp] theorem State.putXin_freeCtr : (s.putXin v).freeCtr = s.freeCtr := (rfl)
@[simp] theorem State.putXin_out : (s.putXin v).out = s.out := (rfl)
@[simp] theorem State.putXin_mem : (s.putXin v).mem = s.mem := (rfl)
@[simp] theorem State.putXin_poison : (s.putXin v).poison = s.poison := (rfl)
@[simp] theorem State.putXin_regs : (s.putXin v).regs = s.regs := (rfl)
@[simp] theorem State.putXin_ports : (s.putXin v).ports = s.ports := (rfl)
@[simp] theorem State.putXin_laneMap : (s.putXin v).laneMap = s.laneMap := (rfl)
@[simp] theorem State.putXin_mapFixed : (s.putXin v).mapFixed = s.mapFixed := (rfl)
@[simp] theorem State.putXin_slots : (s.putXin v).slots = s.slots := (rfl)
@[simp] theorem State.putXin_queues : (s.putXin v).queues = s.queues := (rfl)
@[simp] theorem State.putXin_xin : (s.putXin v).xin = v := (rfl)
@[simp] theorem State.putXin_xinLast : (s.putXin v).xinLast = s.xinLast := (rfl)
@[simp] theorem State.putXin_heldCells : (s.putXin v).heldCells = s.heldCells := (rfl)
@[simp] theorem State.putXin_retiredSlots : (s.putXin v).retiredSlots = s.retiredSlots := (rfl)
@[simp] theorem State.putXin_floor : (s.putXin v).floor = s.floor := (rfl)
@[simp] theorem State.putXin_mirrors : (s.putXin v).mirrors = s.mirrors := (rfl)
@[simp] theorem State.putXin_mirrorMade : (s.putXin v).mirrorMade = s.mirrorMade := (rfl)
@[simp] theorem State.putXin_sampleNext : (s.putXin v).sampleNext = s.sampleNext := (rfl)
@[simp] theorem State.putXin_sampleRead : (s.putXin v).sampleRead = s.sampleRead := (rfl)
@[simp] theorem State.putXin_smpStart : (s.putXin v).smpStart = s.smpStart := (rfl)
@[simp] theorem State.putXin_fails : (s.putXin v).fails = s.fails := (rfl)
@[simp] theorem State.putXin_echoes : (s.putXin v).echoes = s.echoes := (rfl)
@[simp] theorem State.putXin_echoGaps : (s.putXin v).echoGaps = s.echoGaps := (rfl)
@[simp] theorem State.putXin_noReturn : (s.putXin v).noReturn = s.noReturn := (rfl)
@[simp] theorem State.putXin_tiles : (s.putXin v).tiles = s.tiles := (rfl)
@[simp] theorem State.putXin_tileMap : (s.putXin v).tileMap = s.tileMap := (rfl)
@[simp] theorem State.putXin_failedTiles : (s.putXin v).failedTiles = s.failedTiles := (rfl)
@[simp] theorem State.putXin_candidates : (s.putXin v).candidates = s.candidates := (rfl)
@[simp] theorem State.putXin_inboxes : (s.putXin v).inboxes = s.inboxes := (rfl)
@[simp] theorem State.putXin_ctxs : (s.putXin v).ctxs = s.ctxs := (rfl)
@[simp] theorem State.putXin_ringPass : (s.putXin v).ringPass = s.ringPass := (rfl)
@[simp] theorem State.putXin_plans : (s.putXin v).plans = s.plans := (rfl)
@[simp] theorem State.putXin_planFp : (s.putXin v).planFp = s.planFp := (rfl)
@[simp] theorem State.putXin_groups : (s.putXin v).groups = s.groups := (rfl)
@[simp] theorem State.putXin_wmInbox : (s.putXin v).wmInbox = s.wmInbox := (rfl)
@[simp] theorem State.putXin_sets : (s.putXin v).sets = s.sets := (rfl)
@[simp] theorem State.putXin_ehts : (s.putXin v).ehts = s.ehts := (rfl)
@[simp] theorem State.putXin_expOpen : (s.putXin v).expOpen = s.expOpen := (rfl)
@[simp] theorem State.putXin_expIn : (s.putXin v).expIn = s.expIn := (rfl)
@[simp] theorem State.putXin_expWait : (s.putXin v).expWait = s.expWait := (rfl)
@[simp] theorem State.putXin_atomics : (s.putXin v).atomics = s.atomics := (rfl)
@[simp] theorem State.putXin_owners : (s.putXin v).owners = s.owners := (rfl)
@[simp] theorem State.putXin_bufs : (s.putXin v).bufs = s.bufs := (rfl)
@[simp] theorem State.putXin_pools : (s.putXin v).pools = s.pools := (rfl)
@[simp] theorem State.putXin_waiters : (s.putXin v).waiters = s.waiters := (rfl)
@[simp] theorem State.putXin_grants : (s.putXin v).grants = s.grants := (rfl)
@[simp] theorem State.putXin_rowErrs : (s.putXin v).rowErrs = s.rowErrs := (rfl)
@[simp] theorem State.putXin_pageErrs : (s.putXin v).pageErrs = s.pageErrs := (rfl)
@[simp] theorem State.putXin_pageHeld : (s.putXin v).pageHeld = s.pageHeld := (rfl)
@[simp] theorem State.putXin_pages : (s.putXin v).pages = s.pages := (rfl)
@[simp] theorem State.putXin_sparedRows : (s.putXin v).sparedRows = s.sparedRows := (rfl)
@[simp] theorem State.putXin_patrolAt : (s.putXin v).patrolAt = s.patrolAt := (rfl)
@[simp] theorem State.putXin_sramAt : (s.putXin v).sramAt = s.sramAt := (rfl)
@[simp] theorem State.putXin_selfRefresh : (s.putXin v).selfRefresh = s.selfRefresh := (rfl)
@[simp] theorem State.putXin_refreshing : (s.putXin v).refreshing = s.refreshing := (rfl)
@[simp] theorem State.putXin_sessions : (s.putXin v).sessions = s.sessions := (rfl)
@[simp] theorem State.putXin_hpActive : (s.putXin v).hpActive = s.hpActive := (rfl)
@[simp] theorem State.putXin_hpApply : (s.putXin v).hpApply = s.hpApply := (rfl)
@[simp] theorem State.putXin_hostLink : (s.putXin v).hostLink = s.hostLink := (rfl)
@[simp] theorem State.putXin_zctWait : (s.putXin v).zctWait = s.zctWait := (rfl)
@[simp] theorem State.putXin_flash : (s.putXin v).flash = s.flash := (rfl)
@[simp] theorem State.putXin_bootSlots : (s.putXin v).bootSlots = s.bootSlots := (rfl)
@[simp] theorem State.putXin_cert : (s.putXin v).cert = s.cert := (rfl)
@[simp] theorem State.putXin_jorou : (s.putXin v).jorou = s.jorou := (rfl)
@[simp] theorem State.putXin_wear : (s.putXin v).wear = s.wear := (rfl)
@[simp] theorem State.putXin_ledger : (s.putXin v).ledger = s.ledger := (rfl)
@[simp] theorem State.putXin_resetOp : (s.putXin v).reset? = s.reset? := (rfl)
@[simp] theorem State.putXin_resetQ : (s.putXin v).resetQ = s.resetQ := (rfl)
@[simp] theorem State.putXin_resetsDone : (s.putXin v).resetsDone = s.resetsDone := (rfl)
@[simp] theorem State.putXin_captures : (s.putXin v).captures = s.captures := (rfl)
@[simp] theorem State.putXin_capture : (s.putXin v).capture = s.capture := (rfl)
@[simp] theorem State.putXin_capQ : (s.putXin v).capQ = s.capQ := (rfl)
@[simp] theorem State.putXin_scan : (s.putXin v).scan = s.scan := (rfl)
@[simp] theorem State.putXin_hangs : (s.putXin v).hangs = s.hangs := (rfl)
@[simp] theorem State.putXin_stalls : (s.putXin v).stalls = s.stalls := (rfl)
@[simp] theorem State.putXin_power : (s.putXin v).power = s.power := (rfl)
@[simp] theorem State.putXin_wb : (s.putXin v).wb = s.wb := (rfl)
end

section
variable (s : State) (v : Nat)
@[simp] theorem State.putXinLast_pending : (s.putXinLast v).pending = s.pending := (rfl)
@[simp] theorem State.putXinLast_cycle : (s.putXinLast v).cycle = s.cycle := (rfl)
@[simp] theorem State.putXinLast_grade : (s.putXinLast v).grade = s.grade := (rfl)
@[simp] theorem State.putXinLast_freeCtr : (s.putXinLast v).freeCtr = s.freeCtr := (rfl)
@[simp] theorem State.putXinLast_out : (s.putXinLast v).out = s.out := (rfl)
@[simp] theorem State.putXinLast_mem : (s.putXinLast v).mem = s.mem := (rfl)
@[simp] theorem State.putXinLast_poison : (s.putXinLast v).poison = s.poison := (rfl)
@[simp] theorem State.putXinLast_regs : (s.putXinLast v).regs = s.regs := (rfl)
@[simp] theorem State.putXinLast_ports : (s.putXinLast v).ports = s.ports := (rfl)
@[simp] theorem State.putXinLast_laneMap : (s.putXinLast v).laneMap = s.laneMap := (rfl)
@[simp] theorem State.putXinLast_mapFixed : (s.putXinLast v).mapFixed = s.mapFixed := (rfl)
@[simp] theorem State.putXinLast_slots : (s.putXinLast v).slots = s.slots := (rfl)
@[simp] theorem State.putXinLast_queues : (s.putXinLast v).queues = s.queues := (rfl)
@[simp] theorem State.putXinLast_xin : (s.putXinLast v).xin = s.xin := (rfl)
@[simp] theorem State.putXinLast_xinLast : (s.putXinLast v).xinLast = v := (rfl)
@[simp] theorem State.putXinLast_heldCells : (s.putXinLast v).heldCells = s.heldCells := (rfl)
@[simp] theorem State.putXinLast_retiredSlots : (s.putXinLast v).retiredSlots = s.retiredSlots := (rfl)
@[simp] theorem State.putXinLast_floor : (s.putXinLast v).floor = s.floor := (rfl)
@[simp] theorem State.putXinLast_mirrors : (s.putXinLast v).mirrors = s.mirrors := (rfl)
@[simp] theorem State.putXinLast_mirrorMade : (s.putXinLast v).mirrorMade = s.mirrorMade := (rfl)
@[simp] theorem State.putXinLast_sampleNext : (s.putXinLast v).sampleNext = s.sampleNext := (rfl)
@[simp] theorem State.putXinLast_sampleRead : (s.putXinLast v).sampleRead = s.sampleRead := (rfl)
@[simp] theorem State.putXinLast_smpStart : (s.putXinLast v).smpStart = s.smpStart := (rfl)
@[simp] theorem State.putXinLast_fails : (s.putXinLast v).fails = s.fails := (rfl)
@[simp] theorem State.putXinLast_echoes : (s.putXinLast v).echoes = s.echoes := (rfl)
@[simp] theorem State.putXinLast_echoGaps : (s.putXinLast v).echoGaps = s.echoGaps := (rfl)
@[simp] theorem State.putXinLast_noReturn : (s.putXinLast v).noReturn = s.noReturn := (rfl)
@[simp] theorem State.putXinLast_tiles : (s.putXinLast v).tiles = s.tiles := (rfl)
@[simp] theorem State.putXinLast_tileMap : (s.putXinLast v).tileMap = s.tileMap := (rfl)
@[simp] theorem State.putXinLast_failedTiles : (s.putXinLast v).failedTiles = s.failedTiles := (rfl)
@[simp] theorem State.putXinLast_candidates : (s.putXinLast v).candidates = s.candidates := (rfl)
@[simp] theorem State.putXinLast_inboxes : (s.putXinLast v).inboxes = s.inboxes := (rfl)
@[simp] theorem State.putXinLast_ctxs : (s.putXinLast v).ctxs = s.ctxs := (rfl)
@[simp] theorem State.putXinLast_ringPass : (s.putXinLast v).ringPass = s.ringPass := (rfl)
@[simp] theorem State.putXinLast_plans : (s.putXinLast v).plans = s.plans := (rfl)
@[simp] theorem State.putXinLast_planFp : (s.putXinLast v).planFp = s.planFp := (rfl)
@[simp] theorem State.putXinLast_groups : (s.putXinLast v).groups = s.groups := (rfl)
@[simp] theorem State.putXinLast_wmInbox : (s.putXinLast v).wmInbox = s.wmInbox := (rfl)
@[simp] theorem State.putXinLast_sets : (s.putXinLast v).sets = s.sets := (rfl)
@[simp] theorem State.putXinLast_ehts : (s.putXinLast v).ehts = s.ehts := (rfl)
@[simp] theorem State.putXinLast_expOpen : (s.putXinLast v).expOpen = s.expOpen := (rfl)
@[simp] theorem State.putXinLast_expIn : (s.putXinLast v).expIn = s.expIn := (rfl)
@[simp] theorem State.putXinLast_expWait : (s.putXinLast v).expWait = s.expWait := (rfl)
@[simp] theorem State.putXinLast_atomics : (s.putXinLast v).atomics = s.atomics := (rfl)
@[simp] theorem State.putXinLast_owners : (s.putXinLast v).owners = s.owners := (rfl)
@[simp] theorem State.putXinLast_bufs : (s.putXinLast v).bufs = s.bufs := (rfl)
@[simp] theorem State.putXinLast_pools : (s.putXinLast v).pools = s.pools := (rfl)
@[simp] theorem State.putXinLast_waiters : (s.putXinLast v).waiters = s.waiters := (rfl)
@[simp] theorem State.putXinLast_grants : (s.putXinLast v).grants = s.grants := (rfl)
@[simp] theorem State.putXinLast_rowErrs : (s.putXinLast v).rowErrs = s.rowErrs := (rfl)
@[simp] theorem State.putXinLast_pageErrs : (s.putXinLast v).pageErrs = s.pageErrs := (rfl)
@[simp] theorem State.putXinLast_pageHeld : (s.putXinLast v).pageHeld = s.pageHeld := (rfl)
@[simp] theorem State.putXinLast_pages : (s.putXinLast v).pages = s.pages := (rfl)
@[simp] theorem State.putXinLast_sparedRows : (s.putXinLast v).sparedRows = s.sparedRows := (rfl)
@[simp] theorem State.putXinLast_patrolAt : (s.putXinLast v).patrolAt = s.patrolAt := (rfl)
@[simp] theorem State.putXinLast_sramAt : (s.putXinLast v).sramAt = s.sramAt := (rfl)
@[simp] theorem State.putXinLast_selfRefresh : (s.putXinLast v).selfRefresh = s.selfRefresh := (rfl)
@[simp] theorem State.putXinLast_refreshing : (s.putXinLast v).refreshing = s.refreshing := (rfl)
@[simp] theorem State.putXinLast_sessions : (s.putXinLast v).sessions = s.sessions := (rfl)
@[simp] theorem State.putXinLast_hpActive : (s.putXinLast v).hpActive = s.hpActive := (rfl)
@[simp] theorem State.putXinLast_hpApply : (s.putXinLast v).hpApply = s.hpApply := (rfl)
@[simp] theorem State.putXinLast_hostLink : (s.putXinLast v).hostLink = s.hostLink := (rfl)
@[simp] theorem State.putXinLast_zctWait : (s.putXinLast v).zctWait = s.zctWait := (rfl)
@[simp] theorem State.putXinLast_flash : (s.putXinLast v).flash = s.flash := (rfl)
@[simp] theorem State.putXinLast_bootSlots : (s.putXinLast v).bootSlots = s.bootSlots := (rfl)
@[simp] theorem State.putXinLast_cert : (s.putXinLast v).cert = s.cert := (rfl)
@[simp] theorem State.putXinLast_jorou : (s.putXinLast v).jorou = s.jorou := (rfl)
@[simp] theorem State.putXinLast_wear : (s.putXinLast v).wear = s.wear := (rfl)
@[simp] theorem State.putXinLast_ledger : (s.putXinLast v).ledger = s.ledger := (rfl)
@[simp] theorem State.putXinLast_resetOp : (s.putXinLast v).reset? = s.reset? := (rfl)
@[simp] theorem State.putXinLast_resetQ : (s.putXinLast v).resetQ = s.resetQ := (rfl)
@[simp] theorem State.putXinLast_resetsDone : (s.putXinLast v).resetsDone = s.resetsDone := (rfl)
@[simp] theorem State.putXinLast_captures : (s.putXinLast v).captures = s.captures := (rfl)
@[simp] theorem State.putXinLast_capture : (s.putXinLast v).capture = s.capture := (rfl)
@[simp] theorem State.putXinLast_capQ : (s.putXinLast v).capQ = s.capQ := (rfl)
@[simp] theorem State.putXinLast_scan : (s.putXinLast v).scan = s.scan := (rfl)
@[simp] theorem State.putXinLast_hangs : (s.putXinLast v).hangs = s.hangs := (rfl)
@[simp] theorem State.putXinLast_stalls : (s.putXinLast v).stalls = s.stalls := (rfl)
@[simp] theorem State.putXinLast_power : (s.putXinLast v).power = s.power := (rfl)
@[simp] theorem State.putXinLast_wb : (s.putXinLast v).wb = s.wb := (rfl)
end

section
variable (s : State) (v : List HeldCell)
@[simp] theorem State.putHeldCells_pending : (s.putHeldCells v).pending = s.pending := (rfl)
@[simp] theorem State.putHeldCells_cycle : (s.putHeldCells v).cycle = s.cycle := (rfl)
@[simp] theorem State.putHeldCells_grade : (s.putHeldCells v).grade = s.grade := (rfl)
@[simp] theorem State.putHeldCells_freeCtr : (s.putHeldCells v).freeCtr = s.freeCtr := (rfl)
@[simp] theorem State.putHeldCells_out : (s.putHeldCells v).out = s.out := (rfl)
@[simp] theorem State.putHeldCells_mem : (s.putHeldCells v).mem = s.mem := (rfl)
@[simp] theorem State.putHeldCells_poison : (s.putHeldCells v).poison = s.poison := (rfl)
@[simp] theorem State.putHeldCells_regs : (s.putHeldCells v).regs = s.regs := (rfl)
@[simp] theorem State.putHeldCells_ports : (s.putHeldCells v).ports = s.ports := (rfl)
@[simp] theorem State.putHeldCells_laneMap : (s.putHeldCells v).laneMap = s.laneMap := (rfl)
@[simp] theorem State.putHeldCells_mapFixed : (s.putHeldCells v).mapFixed = s.mapFixed := (rfl)
@[simp] theorem State.putHeldCells_slots : (s.putHeldCells v).slots = s.slots := (rfl)
@[simp] theorem State.putHeldCells_queues : (s.putHeldCells v).queues = s.queues := (rfl)
@[simp] theorem State.putHeldCells_xin : (s.putHeldCells v).xin = s.xin := (rfl)
@[simp] theorem State.putHeldCells_xinLast : (s.putHeldCells v).xinLast = s.xinLast := (rfl)
@[simp] theorem State.putHeldCells_heldCells : (s.putHeldCells v).heldCells = v := (rfl)
@[simp] theorem State.putHeldCells_retiredSlots : (s.putHeldCells v).retiredSlots = s.retiredSlots := (rfl)
@[simp] theorem State.putHeldCells_floor : (s.putHeldCells v).floor = s.floor := (rfl)
@[simp] theorem State.putHeldCells_mirrors : (s.putHeldCells v).mirrors = s.mirrors := (rfl)
@[simp] theorem State.putHeldCells_mirrorMade : (s.putHeldCells v).mirrorMade = s.mirrorMade := (rfl)
@[simp] theorem State.putHeldCells_sampleNext : (s.putHeldCells v).sampleNext = s.sampleNext := (rfl)
@[simp] theorem State.putHeldCells_sampleRead : (s.putHeldCells v).sampleRead = s.sampleRead := (rfl)
@[simp] theorem State.putHeldCells_smpStart : (s.putHeldCells v).smpStart = s.smpStart := (rfl)
@[simp] theorem State.putHeldCells_fails : (s.putHeldCells v).fails = s.fails := (rfl)
@[simp] theorem State.putHeldCells_echoes : (s.putHeldCells v).echoes = s.echoes := (rfl)
@[simp] theorem State.putHeldCells_echoGaps : (s.putHeldCells v).echoGaps = s.echoGaps := (rfl)
@[simp] theorem State.putHeldCells_noReturn : (s.putHeldCells v).noReturn = s.noReturn := (rfl)
@[simp] theorem State.putHeldCells_tiles : (s.putHeldCells v).tiles = s.tiles := (rfl)
@[simp] theorem State.putHeldCells_tileMap : (s.putHeldCells v).tileMap = s.tileMap := (rfl)
@[simp] theorem State.putHeldCells_failedTiles : (s.putHeldCells v).failedTiles = s.failedTiles := (rfl)
@[simp] theorem State.putHeldCells_candidates : (s.putHeldCells v).candidates = s.candidates := (rfl)
@[simp] theorem State.putHeldCells_inboxes : (s.putHeldCells v).inboxes = s.inboxes := (rfl)
@[simp] theorem State.putHeldCells_ctxs : (s.putHeldCells v).ctxs = s.ctxs := (rfl)
@[simp] theorem State.putHeldCells_ringPass : (s.putHeldCells v).ringPass = s.ringPass := (rfl)
@[simp] theorem State.putHeldCells_plans : (s.putHeldCells v).plans = s.plans := (rfl)
@[simp] theorem State.putHeldCells_planFp : (s.putHeldCells v).planFp = s.planFp := (rfl)
@[simp] theorem State.putHeldCells_groups : (s.putHeldCells v).groups = s.groups := (rfl)
@[simp] theorem State.putHeldCells_wmInbox : (s.putHeldCells v).wmInbox = s.wmInbox := (rfl)
@[simp] theorem State.putHeldCells_sets : (s.putHeldCells v).sets = s.sets := (rfl)
@[simp] theorem State.putHeldCells_ehts : (s.putHeldCells v).ehts = s.ehts := (rfl)
@[simp] theorem State.putHeldCells_expOpen : (s.putHeldCells v).expOpen = s.expOpen := (rfl)
@[simp] theorem State.putHeldCells_expIn : (s.putHeldCells v).expIn = s.expIn := (rfl)
@[simp] theorem State.putHeldCells_expWait : (s.putHeldCells v).expWait = s.expWait := (rfl)
@[simp] theorem State.putHeldCells_atomics : (s.putHeldCells v).atomics = s.atomics := (rfl)
@[simp] theorem State.putHeldCells_owners : (s.putHeldCells v).owners = s.owners := (rfl)
@[simp] theorem State.putHeldCells_bufs : (s.putHeldCells v).bufs = s.bufs := (rfl)
@[simp] theorem State.putHeldCells_pools : (s.putHeldCells v).pools = s.pools := (rfl)
@[simp] theorem State.putHeldCells_waiters : (s.putHeldCells v).waiters = s.waiters := (rfl)
@[simp] theorem State.putHeldCells_grants : (s.putHeldCells v).grants = s.grants := (rfl)
@[simp] theorem State.putHeldCells_rowErrs : (s.putHeldCells v).rowErrs = s.rowErrs := (rfl)
@[simp] theorem State.putHeldCells_pageErrs : (s.putHeldCells v).pageErrs = s.pageErrs := (rfl)
@[simp] theorem State.putHeldCells_pageHeld : (s.putHeldCells v).pageHeld = s.pageHeld := (rfl)
@[simp] theorem State.putHeldCells_pages : (s.putHeldCells v).pages = s.pages := (rfl)
@[simp] theorem State.putHeldCells_sparedRows : (s.putHeldCells v).sparedRows = s.sparedRows := (rfl)
@[simp] theorem State.putHeldCells_patrolAt : (s.putHeldCells v).patrolAt = s.patrolAt := (rfl)
@[simp] theorem State.putHeldCells_sramAt : (s.putHeldCells v).sramAt = s.sramAt := (rfl)
@[simp] theorem State.putHeldCells_selfRefresh : (s.putHeldCells v).selfRefresh = s.selfRefresh := (rfl)
@[simp] theorem State.putHeldCells_refreshing : (s.putHeldCells v).refreshing = s.refreshing := (rfl)
@[simp] theorem State.putHeldCells_sessions : (s.putHeldCells v).sessions = s.sessions := (rfl)
@[simp] theorem State.putHeldCells_hpActive : (s.putHeldCells v).hpActive = s.hpActive := (rfl)
@[simp] theorem State.putHeldCells_hpApply : (s.putHeldCells v).hpApply = s.hpApply := (rfl)
@[simp] theorem State.putHeldCells_hostLink : (s.putHeldCells v).hostLink = s.hostLink := (rfl)
@[simp] theorem State.putHeldCells_zctWait : (s.putHeldCells v).zctWait = s.zctWait := (rfl)
@[simp] theorem State.putHeldCells_flash : (s.putHeldCells v).flash = s.flash := (rfl)
@[simp] theorem State.putHeldCells_bootSlots : (s.putHeldCells v).bootSlots = s.bootSlots := (rfl)
@[simp] theorem State.putHeldCells_cert : (s.putHeldCells v).cert = s.cert := (rfl)
@[simp] theorem State.putHeldCells_jorou : (s.putHeldCells v).jorou = s.jorou := (rfl)
@[simp] theorem State.putHeldCells_wear : (s.putHeldCells v).wear = s.wear := (rfl)
@[simp] theorem State.putHeldCells_ledger : (s.putHeldCells v).ledger = s.ledger := (rfl)
@[simp] theorem State.putHeldCells_resetOp : (s.putHeldCells v).reset? = s.reset? := (rfl)
@[simp] theorem State.putHeldCells_resetQ : (s.putHeldCells v).resetQ = s.resetQ := (rfl)
@[simp] theorem State.putHeldCells_resetsDone : (s.putHeldCells v).resetsDone = s.resetsDone := (rfl)
@[simp] theorem State.putHeldCells_captures : (s.putHeldCells v).captures = s.captures := (rfl)
@[simp] theorem State.putHeldCells_capture : (s.putHeldCells v).capture = s.capture := (rfl)
@[simp] theorem State.putHeldCells_capQ : (s.putHeldCells v).capQ = s.capQ := (rfl)
@[simp] theorem State.putHeldCells_scan : (s.putHeldCells v).scan = s.scan := (rfl)
@[simp] theorem State.putHeldCells_hangs : (s.putHeldCells v).hangs = s.hangs := (rfl)
@[simp] theorem State.putHeldCells_stalls : (s.putHeldCells v).stalls = s.stalls := (rfl)
@[simp] theorem State.putHeldCells_power : (s.putHeldCells v).power = s.power := (rfl)
@[simp] theorem State.putHeldCells_wb : (s.putHeldCells v).wb = s.wb := (rfl)
end

section
variable (s : State) (v : List Nat)
@[simp] theorem State.putRetiredSlots_pending : (s.putRetiredSlots v).pending = s.pending := (rfl)
@[simp] theorem State.putRetiredSlots_cycle : (s.putRetiredSlots v).cycle = s.cycle := (rfl)
@[simp] theorem State.putRetiredSlots_grade : (s.putRetiredSlots v).grade = s.grade := (rfl)
@[simp] theorem State.putRetiredSlots_freeCtr : (s.putRetiredSlots v).freeCtr = s.freeCtr := (rfl)
@[simp] theorem State.putRetiredSlots_out : (s.putRetiredSlots v).out = s.out := (rfl)
@[simp] theorem State.putRetiredSlots_mem : (s.putRetiredSlots v).mem = s.mem := (rfl)
@[simp] theorem State.putRetiredSlots_poison : (s.putRetiredSlots v).poison = s.poison := (rfl)
@[simp] theorem State.putRetiredSlots_regs : (s.putRetiredSlots v).regs = s.regs := (rfl)
@[simp] theorem State.putRetiredSlots_ports : (s.putRetiredSlots v).ports = s.ports := (rfl)
@[simp] theorem State.putRetiredSlots_laneMap : (s.putRetiredSlots v).laneMap = s.laneMap := (rfl)
@[simp] theorem State.putRetiredSlots_mapFixed : (s.putRetiredSlots v).mapFixed = s.mapFixed := (rfl)
@[simp] theorem State.putRetiredSlots_slots : (s.putRetiredSlots v).slots = s.slots := (rfl)
@[simp] theorem State.putRetiredSlots_queues : (s.putRetiredSlots v).queues = s.queues := (rfl)
@[simp] theorem State.putRetiredSlots_xin : (s.putRetiredSlots v).xin = s.xin := (rfl)
@[simp] theorem State.putRetiredSlots_xinLast : (s.putRetiredSlots v).xinLast = s.xinLast := (rfl)
@[simp] theorem State.putRetiredSlots_heldCells : (s.putRetiredSlots v).heldCells = s.heldCells := (rfl)
@[simp] theorem State.putRetiredSlots_retiredSlots : (s.putRetiredSlots v).retiredSlots = v := (rfl)
@[simp] theorem State.putRetiredSlots_floor : (s.putRetiredSlots v).floor = s.floor := (rfl)
@[simp] theorem State.putRetiredSlots_mirrors : (s.putRetiredSlots v).mirrors = s.mirrors := (rfl)
@[simp] theorem State.putRetiredSlots_mirrorMade : (s.putRetiredSlots v).mirrorMade = s.mirrorMade := (rfl)
@[simp] theorem State.putRetiredSlots_sampleNext : (s.putRetiredSlots v).sampleNext = s.sampleNext := (rfl)
@[simp] theorem State.putRetiredSlots_sampleRead : (s.putRetiredSlots v).sampleRead = s.sampleRead := (rfl)
@[simp] theorem State.putRetiredSlots_smpStart : (s.putRetiredSlots v).smpStart = s.smpStart := (rfl)
@[simp] theorem State.putRetiredSlots_fails : (s.putRetiredSlots v).fails = s.fails := (rfl)
@[simp] theorem State.putRetiredSlots_echoes : (s.putRetiredSlots v).echoes = s.echoes := (rfl)
@[simp] theorem State.putRetiredSlots_echoGaps : (s.putRetiredSlots v).echoGaps = s.echoGaps := (rfl)
@[simp] theorem State.putRetiredSlots_noReturn : (s.putRetiredSlots v).noReturn = s.noReturn := (rfl)
@[simp] theorem State.putRetiredSlots_tiles : (s.putRetiredSlots v).tiles = s.tiles := (rfl)
@[simp] theorem State.putRetiredSlots_tileMap : (s.putRetiredSlots v).tileMap = s.tileMap := (rfl)
@[simp] theorem State.putRetiredSlots_failedTiles : (s.putRetiredSlots v).failedTiles = s.failedTiles := (rfl)
@[simp] theorem State.putRetiredSlots_candidates : (s.putRetiredSlots v).candidates = s.candidates := (rfl)
@[simp] theorem State.putRetiredSlots_inboxes : (s.putRetiredSlots v).inboxes = s.inboxes := (rfl)
@[simp] theorem State.putRetiredSlots_ctxs : (s.putRetiredSlots v).ctxs = s.ctxs := (rfl)
@[simp] theorem State.putRetiredSlots_ringPass : (s.putRetiredSlots v).ringPass = s.ringPass := (rfl)
@[simp] theorem State.putRetiredSlots_plans : (s.putRetiredSlots v).plans = s.plans := (rfl)
@[simp] theorem State.putRetiredSlots_planFp : (s.putRetiredSlots v).planFp = s.planFp := (rfl)
@[simp] theorem State.putRetiredSlots_groups : (s.putRetiredSlots v).groups = s.groups := (rfl)
@[simp] theorem State.putRetiredSlots_wmInbox : (s.putRetiredSlots v).wmInbox = s.wmInbox := (rfl)
@[simp] theorem State.putRetiredSlots_sets : (s.putRetiredSlots v).sets = s.sets := (rfl)
@[simp] theorem State.putRetiredSlots_ehts : (s.putRetiredSlots v).ehts = s.ehts := (rfl)
@[simp] theorem State.putRetiredSlots_expOpen : (s.putRetiredSlots v).expOpen = s.expOpen := (rfl)
@[simp] theorem State.putRetiredSlots_expIn : (s.putRetiredSlots v).expIn = s.expIn := (rfl)
@[simp] theorem State.putRetiredSlots_expWait : (s.putRetiredSlots v).expWait = s.expWait := (rfl)
@[simp] theorem State.putRetiredSlots_atomics : (s.putRetiredSlots v).atomics = s.atomics := (rfl)
@[simp] theorem State.putRetiredSlots_owners : (s.putRetiredSlots v).owners = s.owners := (rfl)
@[simp] theorem State.putRetiredSlots_bufs : (s.putRetiredSlots v).bufs = s.bufs := (rfl)
@[simp] theorem State.putRetiredSlots_pools : (s.putRetiredSlots v).pools = s.pools := (rfl)
@[simp] theorem State.putRetiredSlots_waiters : (s.putRetiredSlots v).waiters = s.waiters := (rfl)
@[simp] theorem State.putRetiredSlots_grants : (s.putRetiredSlots v).grants = s.grants := (rfl)
@[simp] theorem State.putRetiredSlots_rowErrs : (s.putRetiredSlots v).rowErrs = s.rowErrs := (rfl)
@[simp] theorem State.putRetiredSlots_pageErrs : (s.putRetiredSlots v).pageErrs = s.pageErrs := (rfl)
@[simp] theorem State.putRetiredSlots_pageHeld : (s.putRetiredSlots v).pageHeld = s.pageHeld := (rfl)
@[simp] theorem State.putRetiredSlots_pages : (s.putRetiredSlots v).pages = s.pages := (rfl)
@[simp] theorem State.putRetiredSlots_sparedRows : (s.putRetiredSlots v).sparedRows = s.sparedRows := (rfl)
@[simp] theorem State.putRetiredSlots_patrolAt : (s.putRetiredSlots v).patrolAt = s.patrolAt := (rfl)
@[simp] theorem State.putRetiredSlots_sramAt : (s.putRetiredSlots v).sramAt = s.sramAt := (rfl)
@[simp] theorem State.putRetiredSlots_selfRefresh : (s.putRetiredSlots v).selfRefresh = s.selfRefresh := (rfl)
@[simp] theorem State.putRetiredSlots_refreshing : (s.putRetiredSlots v).refreshing = s.refreshing := (rfl)
@[simp] theorem State.putRetiredSlots_sessions : (s.putRetiredSlots v).sessions = s.sessions := (rfl)
@[simp] theorem State.putRetiredSlots_hpActive : (s.putRetiredSlots v).hpActive = s.hpActive := (rfl)
@[simp] theorem State.putRetiredSlots_hpApply : (s.putRetiredSlots v).hpApply = s.hpApply := (rfl)
@[simp] theorem State.putRetiredSlots_hostLink : (s.putRetiredSlots v).hostLink = s.hostLink := (rfl)
@[simp] theorem State.putRetiredSlots_zctWait : (s.putRetiredSlots v).zctWait = s.zctWait := (rfl)
@[simp] theorem State.putRetiredSlots_flash : (s.putRetiredSlots v).flash = s.flash := (rfl)
@[simp] theorem State.putRetiredSlots_bootSlots : (s.putRetiredSlots v).bootSlots = s.bootSlots := (rfl)
@[simp] theorem State.putRetiredSlots_cert : (s.putRetiredSlots v).cert = s.cert := (rfl)
@[simp] theorem State.putRetiredSlots_jorou : (s.putRetiredSlots v).jorou = s.jorou := (rfl)
@[simp] theorem State.putRetiredSlots_wear : (s.putRetiredSlots v).wear = s.wear := (rfl)
@[simp] theorem State.putRetiredSlots_ledger : (s.putRetiredSlots v).ledger = s.ledger := (rfl)
@[simp] theorem State.putRetiredSlots_resetOp : (s.putRetiredSlots v).reset? = s.reset? := (rfl)
@[simp] theorem State.putRetiredSlots_resetQ : (s.putRetiredSlots v).resetQ = s.resetQ := (rfl)
@[simp] theorem State.putRetiredSlots_resetsDone : (s.putRetiredSlots v).resetsDone = s.resetsDone := (rfl)
@[simp] theorem State.putRetiredSlots_captures : (s.putRetiredSlots v).captures = s.captures := (rfl)
@[simp] theorem State.putRetiredSlots_capture : (s.putRetiredSlots v).capture = s.capture := (rfl)
@[simp] theorem State.putRetiredSlots_capQ : (s.putRetiredSlots v).capQ = s.capQ := (rfl)
@[simp] theorem State.putRetiredSlots_scan : (s.putRetiredSlots v).scan = s.scan := (rfl)
@[simp] theorem State.putRetiredSlots_hangs : (s.putRetiredSlots v).hangs = s.hangs := (rfl)
@[simp] theorem State.putRetiredSlots_stalls : (s.putRetiredSlots v).stalls = s.stalls := (rfl)
@[simp] theorem State.putRetiredSlots_power : (s.putRetiredSlots v).power = s.power := (rfl)
@[simp] theorem State.putRetiredSlots_wb : (s.putRetiredSlots v).wb = s.wb := (rfl)
end

section
variable (s : State) (v : Nat)
@[simp] theorem State.putFloor_pending : (s.putFloor v).pending = s.pending := (rfl)
@[simp] theorem State.putFloor_cycle : (s.putFloor v).cycle = s.cycle := (rfl)
@[simp] theorem State.putFloor_grade : (s.putFloor v).grade = s.grade := (rfl)
@[simp] theorem State.putFloor_freeCtr : (s.putFloor v).freeCtr = s.freeCtr := (rfl)
@[simp] theorem State.putFloor_out : (s.putFloor v).out = s.out := (rfl)
@[simp] theorem State.putFloor_mem : (s.putFloor v).mem = s.mem := (rfl)
@[simp] theorem State.putFloor_poison : (s.putFloor v).poison = s.poison := (rfl)
@[simp] theorem State.putFloor_regs : (s.putFloor v).regs = s.regs := (rfl)
@[simp] theorem State.putFloor_ports : (s.putFloor v).ports = s.ports := (rfl)
@[simp] theorem State.putFloor_laneMap : (s.putFloor v).laneMap = s.laneMap := (rfl)
@[simp] theorem State.putFloor_mapFixed : (s.putFloor v).mapFixed = s.mapFixed := (rfl)
@[simp] theorem State.putFloor_slots : (s.putFloor v).slots = s.slots := (rfl)
@[simp] theorem State.putFloor_queues : (s.putFloor v).queues = s.queues := (rfl)
@[simp] theorem State.putFloor_xin : (s.putFloor v).xin = s.xin := (rfl)
@[simp] theorem State.putFloor_xinLast : (s.putFloor v).xinLast = s.xinLast := (rfl)
@[simp] theorem State.putFloor_heldCells : (s.putFloor v).heldCells = s.heldCells := (rfl)
@[simp] theorem State.putFloor_retiredSlots : (s.putFloor v).retiredSlots = s.retiredSlots := (rfl)
@[simp] theorem State.putFloor_floor : (s.putFloor v).floor = v := (rfl)
@[simp] theorem State.putFloor_mirrors : (s.putFloor v).mirrors = s.mirrors := (rfl)
@[simp] theorem State.putFloor_mirrorMade : (s.putFloor v).mirrorMade = s.mirrorMade := (rfl)
@[simp] theorem State.putFloor_sampleNext : (s.putFloor v).sampleNext = s.sampleNext := (rfl)
@[simp] theorem State.putFloor_sampleRead : (s.putFloor v).sampleRead = s.sampleRead := (rfl)
@[simp] theorem State.putFloor_smpStart : (s.putFloor v).smpStart = s.smpStart := (rfl)
@[simp] theorem State.putFloor_fails : (s.putFloor v).fails = s.fails := (rfl)
@[simp] theorem State.putFloor_echoes : (s.putFloor v).echoes = s.echoes := (rfl)
@[simp] theorem State.putFloor_echoGaps : (s.putFloor v).echoGaps = s.echoGaps := (rfl)
@[simp] theorem State.putFloor_noReturn : (s.putFloor v).noReturn = s.noReturn := (rfl)
@[simp] theorem State.putFloor_tiles : (s.putFloor v).tiles = s.tiles := (rfl)
@[simp] theorem State.putFloor_tileMap : (s.putFloor v).tileMap = s.tileMap := (rfl)
@[simp] theorem State.putFloor_failedTiles : (s.putFloor v).failedTiles = s.failedTiles := (rfl)
@[simp] theorem State.putFloor_candidates : (s.putFloor v).candidates = s.candidates := (rfl)
@[simp] theorem State.putFloor_inboxes : (s.putFloor v).inboxes = s.inboxes := (rfl)
@[simp] theorem State.putFloor_ctxs : (s.putFloor v).ctxs = s.ctxs := (rfl)
@[simp] theorem State.putFloor_ringPass : (s.putFloor v).ringPass = s.ringPass := (rfl)
@[simp] theorem State.putFloor_plans : (s.putFloor v).plans = s.plans := (rfl)
@[simp] theorem State.putFloor_planFp : (s.putFloor v).planFp = s.planFp := (rfl)
@[simp] theorem State.putFloor_groups : (s.putFloor v).groups = s.groups := (rfl)
@[simp] theorem State.putFloor_wmInbox : (s.putFloor v).wmInbox = s.wmInbox := (rfl)
@[simp] theorem State.putFloor_sets : (s.putFloor v).sets = s.sets := (rfl)
@[simp] theorem State.putFloor_ehts : (s.putFloor v).ehts = s.ehts := (rfl)
@[simp] theorem State.putFloor_expOpen : (s.putFloor v).expOpen = s.expOpen := (rfl)
@[simp] theorem State.putFloor_expIn : (s.putFloor v).expIn = s.expIn := (rfl)
@[simp] theorem State.putFloor_expWait : (s.putFloor v).expWait = s.expWait := (rfl)
@[simp] theorem State.putFloor_atomics : (s.putFloor v).atomics = s.atomics := (rfl)
@[simp] theorem State.putFloor_owners : (s.putFloor v).owners = s.owners := (rfl)
@[simp] theorem State.putFloor_bufs : (s.putFloor v).bufs = s.bufs := (rfl)
@[simp] theorem State.putFloor_pools : (s.putFloor v).pools = s.pools := (rfl)
@[simp] theorem State.putFloor_waiters : (s.putFloor v).waiters = s.waiters := (rfl)
@[simp] theorem State.putFloor_grants : (s.putFloor v).grants = s.grants := (rfl)
@[simp] theorem State.putFloor_rowErrs : (s.putFloor v).rowErrs = s.rowErrs := (rfl)
@[simp] theorem State.putFloor_pageErrs : (s.putFloor v).pageErrs = s.pageErrs := (rfl)
@[simp] theorem State.putFloor_pageHeld : (s.putFloor v).pageHeld = s.pageHeld := (rfl)
@[simp] theorem State.putFloor_pages : (s.putFloor v).pages = s.pages := (rfl)
@[simp] theorem State.putFloor_sparedRows : (s.putFloor v).sparedRows = s.sparedRows := (rfl)
@[simp] theorem State.putFloor_patrolAt : (s.putFloor v).patrolAt = s.patrolAt := (rfl)
@[simp] theorem State.putFloor_sramAt : (s.putFloor v).sramAt = s.sramAt := (rfl)
@[simp] theorem State.putFloor_selfRefresh : (s.putFloor v).selfRefresh = s.selfRefresh := (rfl)
@[simp] theorem State.putFloor_refreshing : (s.putFloor v).refreshing = s.refreshing := (rfl)
@[simp] theorem State.putFloor_sessions : (s.putFloor v).sessions = s.sessions := (rfl)
@[simp] theorem State.putFloor_hpActive : (s.putFloor v).hpActive = s.hpActive := (rfl)
@[simp] theorem State.putFloor_hpApply : (s.putFloor v).hpApply = s.hpApply := (rfl)
@[simp] theorem State.putFloor_hostLink : (s.putFloor v).hostLink = s.hostLink := (rfl)
@[simp] theorem State.putFloor_zctWait : (s.putFloor v).zctWait = s.zctWait := (rfl)
@[simp] theorem State.putFloor_flash : (s.putFloor v).flash = s.flash := (rfl)
@[simp] theorem State.putFloor_bootSlots : (s.putFloor v).bootSlots = s.bootSlots := (rfl)
@[simp] theorem State.putFloor_cert : (s.putFloor v).cert = s.cert := (rfl)
@[simp] theorem State.putFloor_jorou : (s.putFloor v).jorou = s.jorou := (rfl)
@[simp] theorem State.putFloor_wear : (s.putFloor v).wear = s.wear := (rfl)
@[simp] theorem State.putFloor_ledger : (s.putFloor v).ledger = s.ledger := (rfl)
@[simp] theorem State.putFloor_resetOp : (s.putFloor v).reset? = s.reset? := (rfl)
@[simp] theorem State.putFloor_resetQ : (s.putFloor v).resetQ = s.resetQ := (rfl)
@[simp] theorem State.putFloor_resetsDone : (s.putFloor v).resetsDone = s.resetsDone := (rfl)
@[simp] theorem State.putFloor_captures : (s.putFloor v).captures = s.captures := (rfl)
@[simp] theorem State.putFloor_capture : (s.putFloor v).capture = s.capture := (rfl)
@[simp] theorem State.putFloor_capQ : (s.putFloor v).capQ = s.capQ := (rfl)
@[simp] theorem State.putFloor_scan : (s.putFloor v).scan = s.scan := (rfl)
@[simp] theorem State.putFloor_hangs : (s.putFloor v).hangs = s.hangs := (rfl)
@[simp] theorem State.putFloor_stalls : (s.putFloor v).stalls = s.stalls := (rfl)
@[simp] theorem State.putFloor_power : (s.putFloor v).power = s.power := (rfl)
@[simp] theorem State.putFloor_wb : (s.putFloor v).wb = s.wb := (rfl)
end

section
variable (s : State) (v : List (Nat × Mirror))
@[simp] theorem State.putMirrors_pending : (s.putMirrors v).pending = s.pending := (rfl)
@[simp] theorem State.putMirrors_cycle : (s.putMirrors v).cycle = s.cycle := (rfl)
@[simp] theorem State.putMirrors_grade : (s.putMirrors v).grade = s.grade := (rfl)
@[simp] theorem State.putMirrors_freeCtr : (s.putMirrors v).freeCtr = s.freeCtr := (rfl)
@[simp] theorem State.putMirrors_out : (s.putMirrors v).out = s.out := (rfl)
@[simp] theorem State.putMirrors_mem : (s.putMirrors v).mem = s.mem := (rfl)
@[simp] theorem State.putMirrors_poison : (s.putMirrors v).poison = s.poison := (rfl)
@[simp] theorem State.putMirrors_regs : (s.putMirrors v).regs = s.regs := (rfl)
@[simp] theorem State.putMirrors_ports : (s.putMirrors v).ports = s.ports := (rfl)
@[simp] theorem State.putMirrors_laneMap : (s.putMirrors v).laneMap = s.laneMap := (rfl)
@[simp] theorem State.putMirrors_mapFixed : (s.putMirrors v).mapFixed = s.mapFixed := (rfl)
@[simp] theorem State.putMirrors_slots : (s.putMirrors v).slots = s.slots := (rfl)
@[simp] theorem State.putMirrors_queues : (s.putMirrors v).queues = s.queues := (rfl)
@[simp] theorem State.putMirrors_xin : (s.putMirrors v).xin = s.xin := (rfl)
@[simp] theorem State.putMirrors_xinLast : (s.putMirrors v).xinLast = s.xinLast := (rfl)
@[simp] theorem State.putMirrors_heldCells : (s.putMirrors v).heldCells = s.heldCells := (rfl)
@[simp] theorem State.putMirrors_retiredSlots : (s.putMirrors v).retiredSlots = s.retiredSlots := (rfl)
@[simp] theorem State.putMirrors_floor : (s.putMirrors v).floor = s.floor := (rfl)
@[simp] theorem State.putMirrors_mirrors : (s.putMirrors v).mirrors = v := (rfl)
@[simp] theorem State.putMirrors_mirrorMade : (s.putMirrors v).mirrorMade = s.mirrorMade := (rfl)
@[simp] theorem State.putMirrors_sampleNext : (s.putMirrors v).sampleNext = s.sampleNext := (rfl)
@[simp] theorem State.putMirrors_sampleRead : (s.putMirrors v).sampleRead = s.sampleRead := (rfl)
@[simp] theorem State.putMirrors_smpStart : (s.putMirrors v).smpStart = s.smpStart := (rfl)
@[simp] theorem State.putMirrors_fails : (s.putMirrors v).fails = s.fails := (rfl)
@[simp] theorem State.putMirrors_echoes : (s.putMirrors v).echoes = s.echoes := (rfl)
@[simp] theorem State.putMirrors_echoGaps : (s.putMirrors v).echoGaps = s.echoGaps := (rfl)
@[simp] theorem State.putMirrors_noReturn : (s.putMirrors v).noReturn = s.noReturn := (rfl)
@[simp] theorem State.putMirrors_tiles : (s.putMirrors v).tiles = s.tiles := (rfl)
@[simp] theorem State.putMirrors_tileMap : (s.putMirrors v).tileMap = s.tileMap := (rfl)
@[simp] theorem State.putMirrors_failedTiles : (s.putMirrors v).failedTiles = s.failedTiles := (rfl)
@[simp] theorem State.putMirrors_candidates : (s.putMirrors v).candidates = s.candidates := (rfl)
@[simp] theorem State.putMirrors_inboxes : (s.putMirrors v).inboxes = s.inboxes := (rfl)
@[simp] theorem State.putMirrors_ctxs : (s.putMirrors v).ctxs = s.ctxs := (rfl)
@[simp] theorem State.putMirrors_ringPass : (s.putMirrors v).ringPass = s.ringPass := (rfl)
@[simp] theorem State.putMirrors_plans : (s.putMirrors v).plans = s.plans := (rfl)
@[simp] theorem State.putMirrors_planFp : (s.putMirrors v).planFp = s.planFp := (rfl)
@[simp] theorem State.putMirrors_groups : (s.putMirrors v).groups = s.groups := (rfl)
@[simp] theorem State.putMirrors_wmInbox : (s.putMirrors v).wmInbox = s.wmInbox := (rfl)
@[simp] theorem State.putMirrors_sets : (s.putMirrors v).sets = s.sets := (rfl)
@[simp] theorem State.putMirrors_ehts : (s.putMirrors v).ehts = s.ehts := (rfl)
@[simp] theorem State.putMirrors_expOpen : (s.putMirrors v).expOpen = s.expOpen := (rfl)
@[simp] theorem State.putMirrors_expIn : (s.putMirrors v).expIn = s.expIn := (rfl)
@[simp] theorem State.putMirrors_expWait : (s.putMirrors v).expWait = s.expWait := (rfl)
@[simp] theorem State.putMirrors_atomics : (s.putMirrors v).atomics = s.atomics := (rfl)
@[simp] theorem State.putMirrors_owners : (s.putMirrors v).owners = s.owners := (rfl)
@[simp] theorem State.putMirrors_bufs : (s.putMirrors v).bufs = s.bufs := (rfl)
@[simp] theorem State.putMirrors_pools : (s.putMirrors v).pools = s.pools := (rfl)
@[simp] theorem State.putMirrors_waiters : (s.putMirrors v).waiters = s.waiters := (rfl)
@[simp] theorem State.putMirrors_grants : (s.putMirrors v).grants = s.grants := (rfl)
@[simp] theorem State.putMirrors_rowErrs : (s.putMirrors v).rowErrs = s.rowErrs := (rfl)
@[simp] theorem State.putMirrors_pageErrs : (s.putMirrors v).pageErrs = s.pageErrs := (rfl)
@[simp] theorem State.putMirrors_pageHeld : (s.putMirrors v).pageHeld = s.pageHeld := (rfl)
@[simp] theorem State.putMirrors_pages : (s.putMirrors v).pages = s.pages := (rfl)
@[simp] theorem State.putMirrors_sparedRows : (s.putMirrors v).sparedRows = s.sparedRows := (rfl)
@[simp] theorem State.putMirrors_patrolAt : (s.putMirrors v).patrolAt = s.patrolAt := (rfl)
@[simp] theorem State.putMirrors_sramAt : (s.putMirrors v).sramAt = s.sramAt := (rfl)
@[simp] theorem State.putMirrors_selfRefresh : (s.putMirrors v).selfRefresh = s.selfRefresh := (rfl)
@[simp] theorem State.putMirrors_refreshing : (s.putMirrors v).refreshing = s.refreshing := (rfl)
@[simp] theorem State.putMirrors_sessions : (s.putMirrors v).sessions = s.sessions := (rfl)
@[simp] theorem State.putMirrors_hpActive : (s.putMirrors v).hpActive = s.hpActive := (rfl)
@[simp] theorem State.putMirrors_hpApply : (s.putMirrors v).hpApply = s.hpApply := (rfl)
@[simp] theorem State.putMirrors_hostLink : (s.putMirrors v).hostLink = s.hostLink := (rfl)
@[simp] theorem State.putMirrors_zctWait : (s.putMirrors v).zctWait = s.zctWait := (rfl)
@[simp] theorem State.putMirrors_flash : (s.putMirrors v).flash = s.flash := (rfl)
@[simp] theorem State.putMirrors_bootSlots : (s.putMirrors v).bootSlots = s.bootSlots := (rfl)
@[simp] theorem State.putMirrors_cert : (s.putMirrors v).cert = s.cert := (rfl)
@[simp] theorem State.putMirrors_jorou : (s.putMirrors v).jorou = s.jorou := (rfl)
@[simp] theorem State.putMirrors_wear : (s.putMirrors v).wear = s.wear := (rfl)
@[simp] theorem State.putMirrors_ledger : (s.putMirrors v).ledger = s.ledger := (rfl)
@[simp] theorem State.putMirrors_resetOp : (s.putMirrors v).reset? = s.reset? := (rfl)
@[simp] theorem State.putMirrors_resetQ : (s.putMirrors v).resetQ = s.resetQ := (rfl)
@[simp] theorem State.putMirrors_resetsDone : (s.putMirrors v).resetsDone = s.resetsDone := (rfl)
@[simp] theorem State.putMirrors_captures : (s.putMirrors v).captures = s.captures := (rfl)
@[simp] theorem State.putMirrors_capture : (s.putMirrors v).capture = s.capture := (rfl)
@[simp] theorem State.putMirrors_capQ : (s.putMirrors v).capQ = s.capQ := (rfl)
@[simp] theorem State.putMirrors_scan : (s.putMirrors v).scan = s.scan := (rfl)
@[simp] theorem State.putMirrors_hangs : (s.putMirrors v).hangs = s.hangs := (rfl)
@[simp] theorem State.putMirrors_stalls : (s.putMirrors v).stalls = s.stalls := (rfl)
@[simp] theorem State.putMirrors_power : (s.putMirrors v).power = s.power := (rfl)
@[simp] theorem State.putMirrors_wb : (s.putMirrors v).wb = s.wb := (rfl)
end

section
variable (s : State) (v : Nat × Nat)
@[simp] theorem State.putMirrorMade_pending : (s.putMirrorMade v).pending = s.pending := (rfl)
@[simp] theorem State.putMirrorMade_cycle : (s.putMirrorMade v).cycle = s.cycle := (rfl)
@[simp] theorem State.putMirrorMade_grade : (s.putMirrorMade v).grade = s.grade := (rfl)
@[simp] theorem State.putMirrorMade_freeCtr : (s.putMirrorMade v).freeCtr = s.freeCtr := (rfl)
@[simp] theorem State.putMirrorMade_out : (s.putMirrorMade v).out = s.out := (rfl)
@[simp] theorem State.putMirrorMade_mem : (s.putMirrorMade v).mem = s.mem := (rfl)
@[simp] theorem State.putMirrorMade_poison : (s.putMirrorMade v).poison = s.poison := (rfl)
@[simp] theorem State.putMirrorMade_regs : (s.putMirrorMade v).regs = s.regs := (rfl)
@[simp] theorem State.putMirrorMade_ports : (s.putMirrorMade v).ports = s.ports := (rfl)
@[simp] theorem State.putMirrorMade_laneMap : (s.putMirrorMade v).laneMap = s.laneMap := (rfl)
@[simp] theorem State.putMirrorMade_mapFixed : (s.putMirrorMade v).mapFixed = s.mapFixed := (rfl)
@[simp] theorem State.putMirrorMade_slots : (s.putMirrorMade v).slots = s.slots := (rfl)
@[simp] theorem State.putMirrorMade_queues : (s.putMirrorMade v).queues = s.queues := (rfl)
@[simp] theorem State.putMirrorMade_xin : (s.putMirrorMade v).xin = s.xin := (rfl)
@[simp] theorem State.putMirrorMade_xinLast : (s.putMirrorMade v).xinLast = s.xinLast := (rfl)
@[simp] theorem State.putMirrorMade_heldCells : (s.putMirrorMade v).heldCells = s.heldCells := (rfl)
@[simp] theorem State.putMirrorMade_retiredSlots : (s.putMirrorMade v).retiredSlots = s.retiredSlots := (rfl)
@[simp] theorem State.putMirrorMade_floor : (s.putMirrorMade v).floor = s.floor := (rfl)
@[simp] theorem State.putMirrorMade_mirrors : (s.putMirrorMade v).mirrors = s.mirrors := (rfl)
@[simp] theorem State.putMirrorMade_mirrorMade : (s.putMirrorMade v).mirrorMade = v := (rfl)
@[simp] theorem State.putMirrorMade_sampleNext : (s.putMirrorMade v).sampleNext = s.sampleNext := (rfl)
@[simp] theorem State.putMirrorMade_sampleRead : (s.putMirrorMade v).sampleRead = s.sampleRead := (rfl)
@[simp] theorem State.putMirrorMade_smpStart : (s.putMirrorMade v).smpStart = s.smpStart := (rfl)
@[simp] theorem State.putMirrorMade_fails : (s.putMirrorMade v).fails = s.fails := (rfl)
@[simp] theorem State.putMirrorMade_echoes : (s.putMirrorMade v).echoes = s.echoes := (rfl)
@[simp] theorem State.putMirrorMade_echoGaps : (s.putMirrorMade v).echoGaps = s.echoGaps := (rfl)
@[simp] theorem State.putMirrorMade_noReturn : (s.putMirrorMade v).noReturn = s.noReturn := (rfl)
@[simp] theorem State.putMirrorMade_tiles : (s.putMirrorMade v).tiles = s.tiles := (rfl)
@[simp] theorem State.putMirrorMade_tileMap : (s.putMirrorMade v).tileMap = s.tileMap := (rfl)
@[simp] theorem State.putMirrorMade_failedTiles : (s.putMirrorMade v).failedTiles = s.failedTiles := (rfl)
@[simp] theorem State.putMirrorMade_candidates : (s.putMirrorMade v).candidates = s.candidates := (rfl)
@[simp] theorem State.putMirrorMade_inboxes : (s.putMirrorMade v).inboxes = s.inboxes := (rfl)
@[simp] theorem State.putMirrorMade_ctxs : (s.putMirrorMade v).ctxs = s.ctxs := (rfl)
@[simp] theorem State.putMirrorMade_ringPass : (s.putMirrorMade v).ringPass = s.ringPass := (rfl)
@[simp] theorem State.putMirrorMade_plans : (s.putMirrorMade v).plans = s.plans := (rfl)
@[simp] theorem State.putMirrorMade_planFp : (s.putMirrorMade v).planFp = s.planFp := (rfl)
@[simp] theorem State.putMirrorMade_groups : (s.putMirrorMade v).groups = s.groups := (rfl)
@[simp] theorem State.putMirrorMade_wmInbox : (s.putMirrorMade v).wmInbox = s.wmInbox := (rfl)
@[simp] theorem State.putMirrorMade_sets : (s.putMirrorMade v).sets = s.sets := (rfl)
@[simp] theorem State.putMirrorMade_ehts : (s.putMirrorMade v).ehts = s.ehts := (rfl)
@[simp] theorem State.putMirrorMade_expOpen : (s.putMirrorMade v).expOpen = s.expOpen := (rfl)
@[simp] theorem State.putMirrorMade_expIn : (s.putMirrorMade v).expIn = s.expIn := (rfl)
@[simp] theorem State.putMirrorMade_expWait : (s.putMirrorMade v).expWait = s.expWait := (rfl)
@[simp] theorem State.putMirrorMade_atomics : (s.putMirrorMade v).atomics = s.atomics := (rfl)
@[simp] theorem State.putMirrorMade_owners : (s.putMirrorMade v).owners = s.owners := (rfl)
@[simp] theorem State.putMirrorMade_bufs : (s.putMirrorMade v).bufs = s.bufs := (rfl)
@[simp] theorem State.putMirrorMade_pools : (s.putMirrorMade v).pools = s.pools := (rfl)
@[simp] theorem State.putMirrorMade_waiters : (s.putMirrorMade v).waiters = s.waiters := (rfl)
@[simp] theorem State.putMirrorMade_grants : (s.putMirrorMade v).grants = s.grants := (rfl)
@[simp] theorem State.putMirrorMade_rowErrs : (s.putMirrorMade v).rowErrs = s.rowErrs := (rfl)
@[simp] theorem State.putMirrorMade_pageErrs : (s.putMirrorMade v).pageErrs = s.pageErrs := (rfl)
@[simp] theorem State.putMirrorMade_pageHeld : (s.putMirrorMade v).pageHeld = s.pageHeld := (rfl)
@[simp] theorem State.putMirrorMade_pages : (s.putMirrorMade v).pages = s.pages := (rfl)
@[simp] theorem State.putMirrorMade_sparedRows : (s.putMirrorMade v).sparedRows = s.sparedRows := (rfl)
@[simp] theorem State.putMirrorMade_patrolAt : (s.putMirrorMade v).patrolAt = s.patrolAt := (rfl)
@[simp] theorem State.putMirrorMade_sramAt : (s.putMirrorMade v).sramAt = s.sramAt := (rfl)
@[simp] theorem State.putMirrorMade_selfRefresh : (s.putMirrorMade v).selfRefresh = s.selfRefresh := (rfl)
@[simp] theorem State.putMirrorMade_refreshing : (s.putMirrorMade v).refreshing = s.refreshing := (rfl)
@[simp] theorem State.putMirrorMade_sessions : (s.putMirrorMade v).sessions = s.sessions := (rfl)
@[simp] theorem State.putMirrorMade_hpActive : (s.putMirrorMade v).hpActive = s.hpActive := (rfl)
@[simp] theorem State.putMirrorMade_hpApply : (s.putMirrorMade v).hpApply = s.hpApply := (rfl)
@[simp] theorem State.putMirrorMade_hostLink : (s.putMirrorMade v).hostLink = s.hostLink := (rfl)
@[simp] theorem State.putMirrorMade_zctWait : (s.putMirrorMade v).zctWait = s.zctWait := (rfl)
@[simp] theorem State.putMirrorMade_flash : (s.putMirrorMade v).flash = s.flash := (rfl)
@[simp] theorem State.putMirrorMade_bootSlots : (s.putMirrorMade v).bootSlots = s.bootSlots := (rfl)
@[simp] theorem State.putMirrorMade_cert : (s.putMirrorMade v).cert = s.cert := (rfl)
@[simp] theorem State.putMirrorMade_jorou : (s.putMirrorMade v).jorou = s.jorou := (rfl)
@[simp] theorem State.putMirrorMade_wear : (s.putMirrorMade v).wear = s.wear := (rfl)
@[simp] theorem State.putMirrorMade_ledger : (s.putMirrorMade v).ledger = s.ledger := (rfl)
@[simp] theorem State.putMirrorMade_resetOp : (s.putMirrorMade v).reset? = s.reset? := (rfl)
@[simp] theorem State.putMirrorMade_resetQ : (s.putMirrorMade v).resetQ = s.resetQ := (rfl)
@[simp] theorem State.putMirrorMade_resetsDone : (s.putMirrorMade v).resetsDone = s.resetsDone := (rfl)
@[simp] theorem State.putMirrorMade_captures : (s.putMirrorMade v).captures = s.captures := (rfl)
@[simp] theorem State.putMirrorMade_capture : (s.putMirrorMade v).capture = s.capture := (rfl)
@[simp] theorem State.putMirrorMade_capQ : (s.putMirrorMade v).capQ = s.capQ := (rfl)
@[simp] theorem State.putMirrorMade_scan : (s.putMirrorMade v).scan = s.scan := (rfl)
@[simp] theorem State.putMirrorMade_hangs : (s.putMirrorMade v).hangs = s.hangs := (rfl)
@[simp] theorem State.putMirrorMade_stalls : (s.putMirrorMade v).stalls = s.stalls := (rfl)
@[simp] theorem State.putMirrorMade_power : (s.putMirrorMade v).power = s.power := (rfl)
@[simp] theorem State.putMirrorMade_wb : (s.putMirrorMade v).wb = s.wb := (rfl)
end

section
variable (s : State) (v : Nat)
@[simp] theorem State.putSampleNext_pending : (s.putSampleNext v).pending = s.pending := (rfl)
@[simp] theorem State.putSampleNext_cycle : (s.putSampleNext v).cycle = s.cycle := (rfl)
@[simp] theorem State.putSampleNext_grade : (s.putSampleNext v).grade = s.grade := (rfl)
@[simp] theorem State.putSampleNext_freeCtr : (s.putSampleNext v).freeCtr = s.freeCtr := (rfl)
@[simp] theorem State.putSampleNext_out : (s.putSampleNext v).out = s.out := (rfl)
@[simp] theorem State.putSampleNext_mem : (s.putSampleNext v).mem = s.mem := (rfl)
@[simp] theorem State.putSampleNext_poison : (s.putSampleNext v).poison = s.poison := (rfl)
@[simp] theorem State.putSampleNext_regs : (s.putSampleNext v).regs = s.regs := (rfl)
@[simp] theorem State.putSampleNext_ports : (s.putSampleNext v).ports = s.ports := (rfl)
@[simp] theorem State.putSampleNext_laneMap : (s.putSampleNext v).laneMap = s.laneMap := (rfl)
@[simp] theorem State.putSampleNext_mapFixed : (s.putSampleNext v).mapFixed = s.mapFixed := (rfl)
@[simp] theorem State.putSampleNext_slots : (s.putSampleNext v).slots = s.slots := (rfl)
@[simp] theorem State.putSampleNext_queues : (s.putSampleNext v).queues = s.queues := (rfl)
@[simp] theorem State.putSampleNext_xin : (s.putSampleNext v).xin = s.xin := (rfl)
@[simp] theorem State.putSampleNext_xinLast : (s.putSampleNext v).xinLast = s.xinLast := (rfl)
@[simp] theorem State.putSampleNext_heldCells : (s.putSampleNext v).heldCells = s.heldCells := (rfl)
@[simp] theorem State.putSampleNext_retiredSlots : (s.putSampleNext v).retiredSlots = s.retiredSlots := (rfl)
@[simp] theorem State.putSampleNext_floor : (s.putSampleNext v).floor = s.floor := (rfl)
@[simp] theorem State.putSampleNext_mirrors : (s.putSampleNext v).mirrors = s.mirrors := (rfl)
@[simp] theorem State.putSampleNext_mirrorMade : (s.putSampleNext v).mirrorMade = s.mirrorMade := (rfl)
@[simp] theorem State.putSampleNext_sampleNext : (s.putSampleNext v).sampleNext = v := (rfl)
@[simp] theorem State.putSampleNext_sampleRead : (s.putSampleNext v).sampleRead = s.sampleRead := (rfl)
@[simp] theorem State.putSampleNext_smpStart : (s.putSampleNext v).smpStart = s.smpStart := (rfl)
@[simp] theorem State.putSampleNext_fails : (s.putSampleNext v).fails = s.fails := (rfl)
@[simp] theorem State.putSampleNext_echoes : (s.putSampleNext v).echoes = s.echoes := (rfl)
@[simp] theorem State.putSampleNext_echoGaps : (s.putSampleNext v).echoGaps = s.echoGaps := (rfl)
@[simp] theorem State.putSampleNext_noReturn : (s.putSampleNext v).noReturn = s.noReturn := (rfl)
@[simp] theorem State.putSampleNext_tiles : (s.putSampleNext v).tiles = s.tiles := (rfl)
@[simp] theorem State.putSampleNext_tileMap : (s.putSampleNext v).tileMap = s.tileMap := (rfl)
@[simp] theorem State.putSampleNext_failedTiles : (s.putSampleNext v).failedTiles = s.failedTiles := (rfl)
@[simp] theorem State.putSampleNext_candidates : (s.putSampleNext v).candidates = s.candidates := (rfl)
@[simp] theorem State.putSampleNext_inboxes : (s.putSampleNext v).inboxes = s.inboxes := (rfl)
@[simp] theorem State.putSampleNext_ctxs : (s.putSampleNext v).ctxs = s.ctxs := (rfl)
@[simp] theorem State.putSampleNext_ringPass : (s.putSampleNext v).ringPass = s.ringPass := (rfl)
@[simp] theorem State.putSampleNext_plans : (s.putSampleNext v).plans = s.plans := (rfl)
@[simp] theorem State.putSampleNext_planFp : (s.putSampleNext v).planFp = s.planFp := (rfl)
@[simp] theorem State.putSampleNext_groups : (s.putSampleNext v).groups = s.groups := (rfl)
@[simp] theorem State.putSampleNext_wmInbox : (s.putSampleNext v).wmInbox = s.wmInbox := (rfl)
@[simp] theorem State.putSampleNext_sets : (s.putSampleNext v).sets = s.sets := (rfl)
@[simp] theorem State.putSampleNext_ehts : (s.putSampleNext v).ehts = s.ehts := (rfl)
@[simp] theorem State.putSampleNext_expOpen : (s.putSampleNext v).expOpen = s.expOpen := (rfl)
@[simp] theorem State.putSampleNext_expIn : (s.putSampleNext v).expIn = s.expIn := (rfl)
@[simp] theorem State.putSampleNext_expWait : (s.putSampleNext v).expWait = s.expWait := (rfl)
@[simp] theorem State.putSampleNext_atomics : (s.putSampleNext v).atomics = s.atomics := (rfl)
@[simp] theorem State.putSampleNext_owners : (s.putSampleNext v).owners = s.owners := (rfl)
@[simp] theorem State.putSampleNext_bufs : (s.putSampleNext v).bufs = s.bufs := (rfl)
@[simp] theorem State.putSampleNext_pools : (s.putSampleNext v).pools = s.pools := (rfl)
@[simp] theorem State.putSampleNext_waiters : (s.putSampleNext v).waiters = s.waiters := (rfl)
@[simp] theorem State.putSampleNext_grants : (s.putSampleNext v).grants = s.grants := (rfl)
@[simp] theorem State.putSampleNext_rowErrs : (s.putSampleNext v).rowErrs = s.rowErrs := (rfl)
@[simp] theorem State.putSampleNext_pageErrs : (s.putSampleNext v).pageErrs = s.pageErrs := (rfl)
@[simp] theorem State.putSampleNext_pageHeld : (s.putSampleNext v).pageHeld = s.pageHeld := (rfl)
@[simp] theorem State.putSampleNext_pages : (s.putSampleNext v).pages = s.pages := (rfl)
@[simp] theorem State.putSampleNext_sparedRows : (s.putSampleNext v).sparedRows = s.sparedRows := (rfl)
@[simp] theorem State.putSampleNext_patrolAt : (s.putSampleNext v).patrolAt = s.patrolAt := (rfl)
@[simp] theorem State.putSampleNext_sramAt : (s.putSampleNext v).sramAt = s.sramAt := (rfl)
@[simp] theorem State.putSampleNext_selfRefresh : (s.putSampleNext v).selfRefresh = s.selfRefresh := (rfl)
@[simp] theorem State.putSampleNext_refreshing : (s.putSampleNext v).refreshing = s.refreshing := (rfl)
@[simp] theorem State.putSampleNext_sessions : (s.putSampleNext v).sessions = s.sessions := (rfl)
@[simp] theorem State.putSampleNext_hpActive : (s.putSampleNext v).hpActive = s.hpActive := (rfl)
@[simp] theorem State.putSampleNext_hpApply : (s.putSampleNext v).hpApply = s.hpApply := (rfl)
@[simp] theorem State.putSampleNext_hostLink : (s.putSampleNext v).hostLink = s.hostLink := (rfl)
@[simp] theorem State.putSampleNext_zctWait : (s.putSampleNext v).zctWait = s.zctWait := (rfl)
@[simp] theorem State.putSampleNext_flash : (s.putSampleNext v).flash = s.flash := (rfl)
@[simp] theorem State.putSampleNext_bootSlots : (s.putSampleNext v).bootSlots = s.bootSlots := (rfl)
@[simp] theorem State.putSampleNext_cert : (s.putSampleNext v).cert = s.cert := (rfl)
@[simp] theorem State.putSampleNext_jorou : (s.putSampleNext v).jorou = s.jorou := (rfl)
@[simp] theorem State.putSampleNext_wear : (s.putSampleNext v).wear = s.wear := (rfl)
@[simp] theorem State.putSampleNext_ledger : (s.putSampleNext v).ledger = s.ledger := (rfl)
@[simp] theorem State.putSampleNext_resetOp : (s.putSampleNext v).reset? = s.reset? := (rfl)
@[simp] theorem State.putSampleNext_resetQ : (s.putSampleNext v).resetQ = s.resetQ := (rfl)
@[simp] theorem State.putSampleNext_resetsDone : (s.putSampleNext v).resetsDone = s.resetsDone := (rfl)
@[simp] theorem State.putSampleNext_captures : (s.putSampleNext v).captures = s.captures := (rfl)
@[simp] theorem State.putSampleNext_capture : (s.putSampleNext v).capture = s.capture := (rfl)
@[simp] theorem State.putSampleNext_capQ : (s.putSampleNext v).capQ = s.capQ := (rfl)
@[simp] theorem State.putSampleNext_scan : (s.putSampleNext v).scan = s.scan := (rfl)
@[simp] theorem State.putSampleNext_hangs : (s.putSampleNext v).hangs = s.hangs := (rfl)
@[simp] theorem State.putSampleNext_stalls : (s.putSampleNext v).stalls = s.stalls := (rfl)
@[simp] theorem State.putSampleNext_power : (s.putSampleNext v).power = s.power := (rfl)
@[simp] theorem State.putSampleNext_wb : (s.putSampleNext v).wb = s.wb := (rfl)
end

section
variable (s : State) (v : Nat)
@[simp] theorem State.putSampleRead_pending : (s.putSampleRead v).pending = s.pending := (rfl)
@[simp] theorem State.putSampleRead_cycle : (s.putSampleRead v).cycle = s.cycle := (rfl)
@[simp] theorem State.putSampleRead_grade : (s.putSampleRead v).grade = s.grade := (rfl)
@[simp] theorem State.putSampleRead_freeCtr : (s.putSampleRead v).freeCtr = s.freeCtr := (rfl)
@[simp] theorem State.putSampleRead_out : (s.putSampleRead v).out = s.out := (rfl)
@[simp] theorem State.putSampleRead_mem : (s.putSampleRead v).mem = s.mem := (rfl)
@[simp] theorem State.putSampleRead_poison : (s.putSampleRead v).poison = s.poison := (rfl)
@[simp] theorem State.putSampleRead_regs : (s.putSampleRead v).regs = s.regs := (rfl)
@[simp] theorem State.putSampleRead_ports : (s.putSampleRead v).ports = s.ports := (rfl)
@[simp] theorem State.putSampleRead_laneMap : (s.putSampleRead v).laneMap = s.laneMap := (rfl)
@[simp] theorem State.putSampleRead_mapFixed : (s.putSampleRead v).mapFixed = s.mapFixed := (rfl)
@[simp] theorem State.putSampleRead_slots : (s.putSampleRead v).slots = s.slots := (rfl)
@[simp] theorem State.putSampleRead_queues : (s.putSampleRead v).queues = s.queues := (rfl)
@[simp] theorem State.putSampleRead_xin : (s.putSampleRead v).xin = s.xin := (rfl)
@[simp] theorem State.putSampleRead_xinLast : (s.putSampleRead v).xinLast = s.xinLast := (rfl)
@[simp] theorem State.putSampleRead_heldCells : (s.putSampleRead v).heldCells = s.heldCells := (rfl)
@[simp] theorem State.putSampleRead_retiredSlots : (s.putSampleRead v).retiredSlots = s.retiredSlots := (rfl)
@[simp] theorem State.putSampleRead_floor : (s.putSampleRead v).floor = s.floor := (rfl)
@[simp] theorem State.putSampleRead_mirrors : (s.putSampleRead v).mirrors = s.mirrors := (rfl)
@[simp] theorem State.putSampleRead_mirrorMade : (s.putSampleRead v).mirrorMade = s.mirrorMade := (rfl)
@[simp] theorem State.putSampleRead_sampleNext : (s.putSampleRead v).sampleNext = s.sampleNext := (rfl)
@[simp] theorem State.putSampleRead_sampleRead : (s.putSampleRead v).sampleRead = v := (rfl)
@[simp] theorem State.putSampleRead_smpStart : (s.putSampleRead v).smpStart = s.smpStart := (rfl)
@[simp] theorem State.putSampleRead_fails : (s.putSampleRead v).fails = s.fails := (rfl)
@[simp] theorem State.putSampleRead_echoes : (s.putSampleRead v).echoes = s.echoes := (rfl)
@[simp] theorem State.putSampleRead_echoGaps : (s.putSampleRead v).echoGaps = s.echoGaps := (rfl)
@[simp] theorem State.putSampleRead_noReturn : (s.putSampleRead v).noReturn = s.noReturn := (rfl)
@[simp] theorem State.putSampleRead_tiles : (s.putSampleRead v).tiles = s.tiles := (rfl)
@[simp] theorem State.putSampleRead_tileMap : (s.putSampleRead v).tileMap = s.tileMap := (rfl)
@[simp] theorem State.putSampleRead_failedTiles : (s.putSampleRead v).failedTiles = s.failedTiles := (rfl)
@[simp] theorem State.putSampleRead_candidates : (s.putSampleRead v).candidates = s.candidates := (rfl)
@[simp] theorem State.putSampleRead_inboxes : (s.putSampleRead v).inboxes = s.inboxes := (rfl)
@[simp] theorem State.putSampleRead_ctxs : (s.putSampleRead v).ctxs = s.ctxs := (rfl)
@[simp] theorem State.putSampleRead_ringPass : (s.putSampleRead v).ringPass = s.ringPass := (rfl)
@[simp] theorem State.putSampleRead_plans : (s.putSampleRead v).plans = s.plans := (rfl)
@[simp] theorem State.putSampleRead_planFp : (s.putSampleRead v).planFp = s.planFp := (rfl)
@[simp] theorem State.putSampleRead_groups : (s.putSampleRead v).groups = s.groups := (rfl)
@[simp] theorem State.putSampleRead_wmInbox : (s.putSampleRead v).wmInbox = s.wmInbox := (rfl)
@[simp] theorem State.putSampleRead_sets : (s.putSampleRead v).sets = s.sets := (rfl)
@[simp] theorem State.putSampleRead_ehts : (s.putSampleRead v).ehts = s.ehts := (rfl)
@[simp] theorem State.putSampleRead_expOpen : (s.putSampleRead v).expOpen = s.expOpen := (rfl)
@[simp] theorem State.putSampleRead_expIn : (s.putSampleRead v).expIn = s.expIn := (rfl)
@[simp] theorem State.putSampleRead_expWait : (s.putSampleRead v).expWait = s.expWait := (rfl)
@[simp] theorem State.putSampleRead_atomics : (s.putSampleRead v).atomics = s.atomics := (rfl)
@[simp] theorem State.putSampleRead_owners : (s.putSampleRead v).owners = s.owners := (rfl)
@[simp] theorem State.putSampleRead_bufs : (s.putSampleRead v).bufs = s.bufs := (rfl)
@[simp] theorem State.putSampleRead_pools : (s.putSampleRead v).pools = s.pools := (rfl)
@[simp] theorem State.putSampleRead_waiters : (s.putSampleRead v).waiters = s.waiters := (rfl)
@[simp] theorem State.putSampleRead_grants : (s.putSampleRead v).grants = s.grants := (rfl)
@[simp] theorem State.putSampleRead_rowErrs : (s.putSampleRead v).rowErrs = s.rowErrs := (rfl)
@[simp] theorem State.putSampleRead_pageErrs : (s.putSampleRead v).pageErrs = s.pageErrs := (rfl)
@[simp] theorem State.putSampleRead_pageHeld : (s.putSampleRead v).pageHeld = s.pageHeld := (rfl)
@[simp] theorem State.putSampleRead_pages : (s.putSampleRead v).pages = s.pages := (rfl)
@[simp] theorem State.putSampleRead_sparedRows : (s.putSampleRead v).sparedRows = s.sparedRows := (rfl)
@[simp] theorem State.putSampleRead_patrolAt : (s.putSampleRead v).patrolAt = s.patrolAt := (rfl)
@[simp] theorem State.putSampleRead_sramAt : (s.putSampleRead v).sramAt = s.sramAt := (rfl)
@[simp] theorem State.putSampleRead_selfRefresh : (s.putSampleRead v).selfRefresh = s.selfRefresh := (rfl)
@[simp] theorem State.putSampleRead_refreshing : (s.putSampleRead v).refreshing = s.refreshing := (rfl)
@[simp] theorem State.putSampleRead_sessions : (s.putSampleRead v).sessions = s.sessions := (rfl)
@[simp] theorem State.putSampleRead_hpActive : (s.putSampleRead v).hpActive = s.hpActive := (rfl)
@[simp] theorem State.putSampleRead_hpApply : (s.putSampleRead v).hpApply = s.hpApply := (rfl)
@[simp] theorem State.putSampleRead_hostLink : (s.putSampleRead v).hostLink = s.hostLink := (rfl)
@[simp] theorem State.putSampleRead_zctWait : (s.putSampleRead v).zctWait = s.zctWait := (rfl)
@[simp] theorem State.putSampleRead_flash : (s.putSampleRead v).flash = s.flash := (rfl)
@[simp] theorem State.putSampleRead_bootSlots : (s.putSampleRead v).bootSlots = s.bootSlots := (rfl)
@[simp] theorem State.putSampleRead_cert : (s.putSampleRead v).cert = s.cert := (rfl)
@[simp] theorem State.putSampleRead_jorou : (s.putSampleRead v).jorou = s.jorou := (rfl)
@[simp] theorem State.putSampleRead_wear : (s.putSampleRead v).wear = s.wear := (rfl)
@[simp] theorem State.putSampleRead_ledger : (s.putSampleRead v).ledger = s.ledger := (rfl)
@[simp] theorem State.putSampleRead_resetOp : (s.putSampleRead v).reset? = s.reset? := (rfl)
@[simp] theorem State.putSampleRead_resetQ : (s.putSampleRead v).resetQ = s.resetQ := (rfl)
@[simp] theorem State.putSampleRead_resetsDone : (s.putSampleRead v).resetsDone = s.resetsDone := (rfl)
@[simp] theorem State.putSampleRead_captures : (s.putSampleRead v).captures = s.captures := (rfl)
@[simp] theorem State.putSampleRead_capture : (s.putSampleRead v).capture = s.capture := (rfl)
@[simp] theorem State.putSampleRead_capQ : (s.putSampleRead v).capQ = s.capQ := (rfl)
@[simp] theorem State.putSampleRead_scan : (s.putSampleRead v).scan = s.scan := (rfl)
@[simp] theorem State.putSampleRead_hangs : (s.putSampleRead v).hangs = s.hangs := (rfl)
@[simp] theorem State.putSampleRead_stalls : (s.putSampleRead v).stalls = s.stalls := (rfl)
@[simp] theorem State.putSampleRead_power : (s.putSampleRead v).power = s.power := (rfl)
@[simp] theorem State.putSampleRead_wb : (s.putSampleRead v).wb = s.wb := (rfl)
end

section
variable (s : State) (v : Option Nat)
@[simp] theorem State.putSmpStart_pending : (s.putSmpStart v).pending = s.pending := (rfl)
@[simp] theorem State.putSmpStart_cycle : (s.putSmpStart v).cycle = s.cycle := (rfl)
@[simp] theorem State.putSmpStart_grade : (s.putSmpStart v).grade = s.grade := (rfl)
@[simp] theorem State.putSmpStart_freeCtr : (s.putSmpStart v).freeCtr = s.freeCtr := (rfl)
@[simp] theorem State.putSmpStart_out : (s.putSmpStart v).out = s.out := (rfl)
@[simp] theorem State.putSmpStart_mem : (s.putSmpStart v).mem = s.mem := (rfl)
@[simp] theorem State.putSmpStart_poison : (s.putSmpStart v).poison = s.poison := (rfl)
@[simp] theorem State.putSmpStart_regs : (s.putSmpStart v).regs = s.regs := (rfl)
@[simp] theorem State.putSmpStart_ports : (s.putSmpStart v).ports = s.ports := (rfl)
@[simp] theorem State.putSmpStart_laneMap : (s.putSmpStart v).laneMap = s.laneMap := (rfl)
@[simp] theorem State.putSmpStart_mapFixed : (s.putSmpStart v).mapFixed = s.mapFixed := (rfl)
@[simp] theorem State.putSmpStart_slots : (s.putSmpStart v).slots = s.slots := (rfl)
@[simp] theorem State.putSmpStart_queues : (s.putSmpStart v).queues = s.queues := (rfl)
@[simp] theorem State.putSmpStart_xin : (s.putSmpStart v).xin = s.xin := (rfl)
@[simp] theorem State.putSmpStart_xinLast : (s.putSmpStart v).xinLast = s.xinLast := (rfl)
@[simp] theorem State.putSmpStart_heldCells : (s.putSmpStart v).heldCells = s.heldCells := (rfl)
@[simp] theorem State.putSmpStart_retiredSlots : (s.putSmpStart v).retiredSlots = s.retiredSlots := (rfl)
@[simp] theorem State.putSmpStart_floor : (s.putSmpStart v).floor = s.floor := (rfl)
@[simp] theorem State.putSmpStart_mirrors : (s.putSmpStart v).mirrors = s.mirrors := (rfl)
@[simp] theorem State.putSmpStart_mirrorMade : (s.putSmpStart v).mirrorMade = s.mirrorMade := (rfl)
@[simp] theorem State.putSmpStart_sampleNext : (s.putSmpStart v).sampleNext = s.sampleNext := (rfl)
@[simp] theorem State.putSmpStart_sampleRead : (s.putSmpStart v).sampleRead = s.sampleRead := (rfl)
@[simp] theorem State.putSmpStart_smpStart : (s.putSmpStart v).smpStart = v := (rfl)
@[simp] theorem State.putSmpStart_fails : (s.putSmpStart v).fails = s.fails := (rfl)
@[simp] theorem State.putSmpStart_echoes : (s.putSmpStart v).echoes = s.echoes := (rfl)
@[simp] theorem State.putSmpStart_echoGaps : (s.putSmpStart v).echoGaps = s.echoGaps := (rfl)
@[simp] theorem State.putSmpStart_noReturn : (s.putSmpStart v).noReturn = s.noReturn := (rfl)
@[simp] theorem State.putSmpStart_tiles : (s.putSmpStart v).tiles = s.tiles := (rfl)
@[simp] theorem State.putSmpStart_tileMap : (s.putSmpStart v).tileMap = s.tileMap := (rfl)
@[simp] theorem State.putSmpStart_failedTiles : (s.putSmpStart v).failedTiles = s.failedTiles := (rfl)
@[simp] theorem State.putSmpStart_candidates : (s.putSmpStart v).candidates = s.candidates := (rfl)
@[simp] theorem State.putSmpStart_inboxes : (s.putSmpStart v).inboxes = s.inboxes := (rfl)
@[simp] theorem State.putSmpStart_ctxs : (s.putSmpStart v).ctxs = s.ctxs := (rfl)
@[simp] theorem State.putSmpStart_ringPass : (s.putSmpStart v).ringPass = s.ringPass := (rfl)
@[simp] theorem State.putSmpStart_plans : (s.putSmpStart v).plans = s.plans := (rfl)
@[simp] theorem State.putSmpStart_planFp : (s.putSmpStart v).planFp = s.planFp := (rfl)
@[simp] theorem State.putSmpStart_groups : (s.putSmpStart v).groups = s.groups := (rfl)
@[simp] theorem State.putSmpStart_wmInbox : (s.putSmpStart v).wmInbox = s.wmInbox := (rfl)
@[simp] theorem State.putSmpStart_sets : (s.putSmpStart v).sets = s.sets := (rfl)
@[simp] theorem State.putSmpStart_ehts : (s.putSmpStart v).ehts = s.ehts := (rfl)
@[simp] theorem State.putSmpStart_expOpen : (s.putSmpStart v).expOpen = s.expOpen := (rfl)
@[simp] theorem State.putSmpStart_expIn : (s.putSmpStart v).expIn = s.expIn := (rfl)
@[simp] theorem State.putSmpStart_expWait : (s.putSmpStart v).expWait = s.expWait := (rfl)
@[simp] theorem State.putSmpStart_atomics : (s.putSmpStart v).atomics = s.atomics := (rfl)
@[simp] theorem State.putSmpStart_owners : (s.putSmpStart v).owners = s.owners := (rfl)
@[simp] theorem State.putSmpStart_bufs : (s.putSmpStart v).bufs = s.bufs := (rfl)
@[simp] theorem State.putSmpStart_pools : (s.putSmpStart v).pools = s.pools := (rfl)
@[simp] theorem State.putSmpStart_waiters : (s.putSmpStart v).waiters = s.waiters := (rfl)
@[simp] theorem State.putSmpStart_grants : (s.putSmpStart v).grants = s.grants := (rfl)
@[simp] theorem State.putSmpStart_rowErrs : (s.putSmpStart v).rowErrs = s.rowErrs := (rfl)
@[simp] theorem State.putSmpStart_pageErrs : (s.putSmpStart v).pageErrs = s.pageErrs := (rfl)
@[simp] theorem State.putSmpStart_pageHeld : (s.putSmpStart v).pageHeld = s.pageHeld := (rfl)
@[simp] theorem State.putSmpStart_pages : (s.putSmpStart v).pages = s.pages := (rfl)
@[simp] theorem State.putSmpStart_sparedRows : (s.putSmpStart v).sparedRows = s.sparedRows := (rfl)
@[simp] theorem State.putSmpStart_patrolAt : (s.putSmpStart v).patrolAt = s.patrolAt := (rfl)
@[simp] theorem State.putSmpStart_sramAt : (s.putSmpStart v).sramAt = s.sramAt := (rfl)
@[simp] theorem State.putSmpStart_selfRefresh : (s.putSmpStart v).selfRefresh = s.selfRefresh := (rfl)
@[simp] theorem State.putSmpStart_refreshing : (s.putSmpStart v).refreshing = s.refreshing := (rfl)
@[simp] theorem State.putSmpStart_sessions : (s.putSmpStart v).sessions = s.sessions := (rfl)
@[simp] theorem State.putSmpStart_hpActive : (s.putSmpStart v).hpActive = s.hpActive := (rfl)
@[simp] theorem State.putSmpStart_hpApply : (s.putSmpStart v).hpApply = s.hpApply := (rfl)
@[simp] theorem State.putSmpStart_hostLink : (s.putSmpStart v).hostLink = s.hostLink := (rfl)
@[simp] theorem State.putSmpStart_zctWait : (s.putSmpStart v).zctWait = s.zctWait := (rfl)
@[simp] theorem State.putSmpStart_flash : (s.putSmpStart v).flash = s.flash := (rfl)
@[simp] theorem State.putSmpStart_bootSlots : (s.putSmpStart v).bootSlots = s.bootSlots := (rfl)
@[simp] theorem State.putSmpStart_cert : (s.putSmpStart v).cert = s.cert := (rfl)
@[simp] theorem State.putSmpStart_jorou : (s.putSmpStart v).jorou = s.jorou := (rfl)
@[simp] theorem State.putSmpStart_wear : (s.putSmpStart v).wear = s.wear := (rfl)
@[simp] theorem State.putSmpStart_ledger : (s.putSmpStart v).ledger = s.ledger := (rfl)
@[simp] theorem State.putSmpStart_resetOp : (s.putSmpStart v).reset? = s.reset? := (rfl)
@[simp] theorem State.putSmpStart_resetQ : (s.putSmpStart v).resetQ = s.resetQ := (rfl)
@[simp] theorem State.putSmpStart_resetsDone : (s.putSmpStart v).resetsDone = s.resetsDone := (rfl)
@[simp] theorem State.putSmpStart_captures : (s.putSmpStart v).captures = s.captures := (rfl)
@[simp] theorem State.putSmpStart_capture : (s.putSmpStart v).capture = s.capture := (rfl)
@[simp] theorem State.putSmpStart_capQ : (s.putSmpStart v).capQ = s.capQ := (rfl)
@[simp] theorem State.putSmpStart_scan : (s.putSmpStart v).scan = s.scan := (rfl)
@[simp] theorem State.putSmpStart_hangs : (s.putSmpStart v).hangs = s.hangs := (rfl)
@[simp] theorem State.putSmpStart_stalls : (s.putSmpStart v).stalls = s.stalls := (rfl)
@[simp] theorem State.putSmpStart_power : (s.putSmpStart v).power = s.power := (rfl)
@[simp] theorem State.putSmpStart_wb : (s.putSmpStart v).wb = s.wb := (rfl)
end

section
variable (s : State) (v : List ((Nat × Nat) × Notice))
@[simp] theorem State.putFails_pending : (s.putFails v).pending = s.pending := (rfl)
@[simp] theorem State.putFails_cycle : (s.putFails v).cycle = s.cycle := (rfl)
@[simp] theorem State.putFails_grade : (s.putFails v).grade = s.grade := (rfl)
@[simp] theorem State.putFails_freeCtr : (s.putFails v).freeCtr = s.freeCtr := (rfl)
@[simp] theorem State.putFails_out : (s.putFails v).out = s.out := (rfl)
@[simp] theorem State.putFails_mem : (s.putFails v).mem = s.mem := (rfl)
@[simp] theorem State.putFails_poison : (s.putFails v).poison = s.poison := (rfl)
@[simp] theorem State.putFails_regs : (s.putFails v).regs = s.regs := (rfl)
@[simp] theorem State.putFails_ports : (s.putFails v).ports = s.ports := (rfl)
@[simp] theorem State.putFails_laneMap : (s.putFails v).laneMap = s.laneMap := (rfl)
@[simp] theorem State.putFails_mapFixed : (s.putFails v).mapFixed = s.mapFixed := (rfl)
@[simp] theorem State.putFails_slots : (s.putFails v).slots = s.slots := (rfl)
@[simp] theorem State.putFails_queues : (s.putFails v).queues = s.queues := (rfl)
@[simp] theorem State.putFails_xin : (s.putFails v).xin = s.xin := (rfl)
@[simp] theorem State.putFails_xinLast : (s.putFails v).xinLast = s.xinLast := (rfl)
@[simp] theorem State.putFails_heldCells : (s.putFails v).heldCells = s.heldCells := (rfl)
@[simp] theorem State.putFails_retiredSlots : (s.putFails v).retiredSlots = s.retiredSlots := (rfl)
@[simp] theorem State.putFails_floor : (s.putFails v).floor = s.floor := (rfl)
@[simp] theorem State.putFails_mirrors : (s.putFails v).mirrors = s.mirrors := (rfl)
@[simp] theorem State.putFails_mirrorMade : (s.putFails v).mirrorMade = s.mirrorMade := (rfl)
@[simp] theorem State.putFails_sampleNext : (s.putFails v).sampleNext = s.sampleNext := (rfl)
@[simp] theorem State.putFails_sampleRead : (s.putFails v).sampleRead = s.sampleRead := (rfl)
@[simp] theorem State.putFails_smpStart : (s.putFails v).smpStart = s.smpStart := (rfl)
@[simp] theorem State.putFails_fails : (s.putFails v).fails = v := (rfl)
@[simp] theorem State.putFails_echoes : (s.putFails v).echoes = s.echoes := (rfl)
@[simp] theorem State.putFails_echoGaps : (s.putFails v).echoGaps = s.echoGaps := (rfl)
@[simp] theorem State.putFails_noReturn : (s.putFails v).noReturn = s.noReturn := (rfl)
@[simp] theorem State.putFails_tiles : (s.putFails v).tiles = s.tiles := (rfl)
@[simp] theorem State.putFails_tileMap : (s.putFails v).tileMap = s.tileMap := (rfl)
@[simp] theorem State.putFails_failedTiles : (s.putFails v).failedTiles = s.failedTiles := (rfl)
@[simp] theorem State.putFails_candidates : (s.putFails v).candidates = s.candidates := (rfl)
@[simp] theorem State.putFails_inboxes : (s.putFails v).inboxes = s.inboxes := (rfl)
@[simp] theorem State.putFails_ctxs : (s.putFails v).ctxs = s.ctxs := (rfl)
@[simp] theorem State.putFails_ringPass : (s.putFails v).ringPass = s.ringPass := (rfl)
@[simp] theorem State.putFails_plans : (s.putFails v).plans = s.plans := (rfl)
@[simp] theorem State.putFails_planFp : (s.putFails v).planFp = s.planFp := (rfl)
@[simp] theorem State.putFails_groups : (s.putFails v).groups = s.groups := (rfl)
@[simp] theorem State.putFails_wmInbox : (s.putFails v).wmInbox = s.wmInbox := (rfl)
@[simp] theorem State.putFails_sets : (s.putFails v).sets = s.sets := (rfl)
@[simp] theorem State.putFails_ehts : (s.putFails v).ehts = s.ehts := (rfl)
@[simp] theorem State.putFails_expOpen : (s.putFails v).expOpen = s.expOpen := (rfl)
@[simp] theorem State.putFails_expIn : (s.putFails v).expIn = s.expIn := (rfl)
@[simp] theorem State.putFails_expWait : (s.putFails v).expWait = s.expWait := (rfl)
@[simp] theorem State.putFails_atomics : (s.putFails v).atomics = s.atomics := (rfl)
@[simp] theorem State.putFails_owners : (s.putFails v).owners = s.owners := (rfl)
@[simp] theorem State.putFails_bufs : (s.putFails v).bufs = s.bufs := (rfl)
@[simp] theorem State.putFails_pools : (s.putFails v).pools = s.pools := (rfl)
@[simp] theorem State.putFails_waiters : (s.putFails v).waiters = s.waiters := (rfl)
@[simp] theorem State.putFails_grants : (s.putFails v).grants = s.grants := (rfl)
@[simp] theorem State.putFails_rowErrs : (s.putFails v).rowErrs = s.rowErrs := (rfl)
@[simp] theorem State.putFails_pageErrs : (s.putFails v).pageErrs = s.pageErrs := (rfl)
@[simp] theorem State.putFails_pageHeld : (s.putFails v).pageHeld = s.pageHeld := (rfl)
@[simp] theorem State.putFails_pages : (s.putFails v).pages = s.pages := (rfl)
@[simp] theorem State.putFails_sparedRows : (s.putFails v).sparedRows = s.sparedRows := (rfl)
@[simp] theorem State.putFails_patrolAt : (s.putFails v).patrolAt = s.patrolAt := (rfl)
@[simp] theorem State.putFails_sramAt : (s.putFails v).sramAt = s.sramAt := (rfl)
@[simp] theorem State.putFails_selfRefresh : (s.putFails v).selfRefresh = s.selfRefresh := (rfl)
@[simp] theorem State.putFails_refreshing : (s.putFails v).refreshing = s.refreshing := (rfl)
@[simp] theorem State.putFails_sessions : (s.putFails v).sessions = s.sessions := (rfl)
@[simp] theorem State.putFails_hpActive : (s.putFails v).hpActive = s.hpActive := (rfl)
@[simp] theorem State.putFails_hpApply : (s.putFails v).hpApply = s.hpApply := (rfl)
@[simp] theorem State.putFails_hostLink : (s.putFails v).hostLink = s.hostLink := (rfl)
@[simp] theorem State.putFails_zctWait : (s.putFails v).zctWait = s.zctWait := (rfl)
@[simp] theorem State.putFails_flash : (s.putFails v).flash = s.flash := (rfl)
@[simp] theorem State.putFails_bootSlots : (s.putFails v).bootSlots = s.bootSlots := (rfl)
@[simp] theorem State.putFails_cert : (s.putFails v).cert = s.cert := (rfl)
@[simp] theorem State.putFails_jorou : (s.putFails v).jorou = s.jorou := (rfl)
@[simp] theorem State.putFails_wear : (s.putFails v).wear = s.wear := (rfl)
@[simp] theorem State.putFails_ledger : (s.putFails v).ledger = s.ledger := (rfl)
@[simp] theorem State.putFails_resetOp : (s.putFails v).reset? = s.reset? := (rfl)
@[simp] theorem State.putFails_resetQ : (s.putFails v).resetQ = s.resetQ := (rfl)
@[simp] theorem State.putFails_resetsDone : (s.putFails v).resetsDone = s.resetsDone := (rfl)
@[simp] theorem State.putFails_captures : (s.putFails v).captures = s.captures := (rfl)
@[simp] theorem State.putFails_capture : (s.putFails v).capture = s.capture := (rfl)
@[simp] theorem State.putFails_capQ : (s.putFails v).capQ = s.capQ := (rfl)
@[simp] theorem State.putFails_scan : (s.putFails v).scan = s.scan := (rfl)
@[simp] theorem State.putFails_hangs : (s.putFails v).hangs = s.hangs := (rfl)
@[simp] theorem State.putFails_stalls : (s.putFails v).stalls = s.stalls := (rfl)
@[simp] theorem State.putFails_power : (s.putFails v).power = s.power := (rfl)
@[simp] theorem State.putFails_wb : (s.putFails v).wb = s.wb := (rfl)
end

section
variable (s : State) (v : List ((Nat × Nat) × Notice))
@[simp] theorem State.putEchoes_pending : (s.putEchoes v).pending = s.pending := (rfl)
@[simp] theorem State.putEchoes_cycle : (s.putEchoes v).cycle = s.cycle := (rfl)
@[simp] theorem State.putEchoes_grade : (s.putEchoes v).grade = s.grade := (rfl)
@[simp] theorem State.putEchoes_freeCtr : (s.putEchoes v).freeCtr = s.freeCtr := (rfl)
@[simp] theorem State.putEchoes_out : (s.putEchoes v).out = s.out := (rfl)
@[simp] theorem State.putEchoes_mem : (s.putEchoes v).mem = s.mem := (rfl)
@[simp] theorem State.putEchoes_poison : (s.putEchoes v).poison = s.poison := (rfl)
@[simp] theorem State.putEchoes_regs : (s.putEchoes v).regs = s.regs := (rfl)
@[simp] theorem State.putEchoes_ports : (s.putEchoes v).ports = s.ports := (rfl)
@[simp] theorem State.putEchoes_laneMap : (s.putEchoes v).laneMap = s.laneMap := (rfl)
@[simp] theorem State.putEchoes_mapFixed : (s.putEchoes v).mapFixed = s.mapFixed := (rfl)
@[simp] theorem State.putEchoes_slots : (s.putEchoes v).slots = s.slots := (rfl)
@[simp] theorem State.putEchoes_queues : (s.putEchoes v).queues = s.queues := (rfl)
@[simp] theorem State.putEchoes_xin : (s.putEchoes v).xin = s.xin := (rfl)
@[simp] theorem State.putEchoes_xinLast : (s.putEchoes v).xinLast = s.xinLast := (rfl)
@[simp] theorem State.putEchoes_heldCells : (s.putEchoes v).heldCells = s.heldCells := (rfl)
@[simp] theorem State.putEchoes_retiredSlots : (s.putEchoes v).retiredSlots = s.retiredSlots := (rfl)
@[simp] theorem State.putEchoes_floor : (s.putEchoes v).floor = s.floor := (rfl)
@[simp] theorem State.putEchoes_mirrors : (s.putEchoes v).mirrors = s.mirrors := (rfl)
@[simp] theorem State.putEchoes_mirrorMade : (s.putEchoes v).mirrorMade = s.mirrorMade := (rfl)
@[simp] theorem State.putEchoes_sampleNext : (s.putEchoes v).sampleNext = s.sampleNext := (rfl)
@[simp] theorem State.putEchoes_sampleRead : (s.putEchoes v).sampleRead = s.sampleRead := (rfl)
@[simp] theorem State.putEchoes_smpStart : (s.putEchoes v).smpStart = s.smpStart := (rfl)
@[simp] theorem State.putEchoes_fails : (s.putEchoes v).fails = s.fails := (rfl)
@[simp] theorem State.putEchoes_echoes : (s.putEchoes v).echoes = v := (rfl)
@[simp] theorem State.putEchoes_echoGaps : (s.putEchoes v).echoGaps = s.echoGaps := (rfl)
@[simp] theorem State.putEchoes_noReturn : (s.putEchoes v).noReturn = s.noReturn := (rfl)
@[simp] theorem State.putEchoes_tiles : (s.putEchoes v).tiles = s.tiles := (rfl)
@[simp] theorem State.putEchoes_tileMap : (s.putEchoes v).tileMap = s.tileMap := (rfl)
@[simp] theorem State.putEchoes_failedTiles : (s.putEchoes v).failedTiles = s.failedTiles := (rfl)
@[simp] theorem State.putEchoes_candidates : (s.putEchoes v).candidates = s.candidates := (rfl)
@[simp] theorem State.putEchoes_inboxes : (s.putEchoes v).inboxes = s.inboxes := (rfl)
@[simp] theorem State.putEchoes_ctxs : (s.putEchoes v).ctxs = s.ctxs := (rfl)
@[simp] theorem State.putEchoes_ringPass : (s.putEchoes v).ringPass = s.ringPass := (rfl)
@[simp] theorem State.putEchoes_plans : (s.putEchoes v).plans = s.plans := (rfl)
@[simp] theorem State.putEchoes_planFp : (s.putEchoes v).planFp = s.planFp := (rfl)
@[simp] theorem State.putEchoes_groups : (s.putEchoes v).groups = s.groups := (rfl)
@[simp] theorem State.putEchoes_wmInbox : (s.putEchoes v).wmInbox = s.wmInbox := (rfl)
@[simp] theorem State.putEchoes_sets : (s.putEchoes v).sets = s.sets := (rfl)
@[simp] theorem State.putEchoes_ehts : (s.putEchoes v).ehts = s.ehts := (rfl)
@[simp] theorem State.putEchoes_expOpen : (s.putEchoes v).expOpen = s.expOpen := (rfl)
@[simp] theorem State.putEchoes_expIn : (s.putEchoes v).expIn = s.expIn := (rfl)
@[simp] theorem State.putEchoes_expWait : (s.putEchoes v).expWait = s.expWait := (rfl)
@[simp] theorem State.putEchoes_atomics : (s.putEchoes v).atomics = s.atomics := (rfl)
@[simp] theorem State.putEchoes_owners : (s.putEchoes v).owners = s.owners := (rfl)
@[simp] theorem State.putEchoes_bufs : (s.putEchoes v).bufs = s.bufs := (rfl)
@[simp] theorem State.putEchoes_pools : (s.putEchoes v).pools = s.pools := (rfl)
@[simp] theorem State.putEchoes_waiters : (s.putEchoes v).waiters = s.waiters := (rfl)
@[simp] theorem State.putEchoes_grants : (s.putEchoes v).grants = s.grants := (rfl)
@[simp] theorem State.putEchoes_rowErrs : (s.putEchoes v).rowErrs = s.rowErrs := (rfl)
@[simp] theorem State.putEchoes_pageErrs : (s.putEchoes v).pageErrs = s.pageErrs := (rfl)
@[simp] theorem State.putEchoes_pageHeld : (s.putEchoes v).pageHeld = s.pageHeld := (rfl)
@[simp] theorem State.putEchoes_pages : (s.putEchoes v).pages = s.pages := (rfl)
@[simp] theorem State.putEchoes_sparedRows : (s.putEchoes v).sparedRows = s.sparedRows := (rfl)
@[simp] theorem State.putEchoes_patrolAt : (s.putEchoes v).patrolAt = s.patrolAt := (rfl)
@[simp] theorem State.putEchoes_sramAt : (s.putEchoes v).sramAt = s.sramAt := (rfl)
@[simp] theorem State.putEchoes_selfRefresh : (s.putEchoes v).selfRefresh = s.selfRefresh := (rfl)
@[simp] theorem State.putEchoes_refreshing : (s.putEchoes v).refreshing = s.refreshing := (rfl)
@[simp] theorem State.putEchoes_sessions : (s.putEchoes v).sessions = s.sessions := (rfl)
@[simp] theorem State.putEchoes_hpActive : (s.putEchoes v).hpActive = s.hpActive := (rfl)
@[simp] theorem State.putEchoes_hpApply : (s.putEchoes v).hpApply = s.hpApply := (rfl)
@[simp] theorem State.putEchoes_hostLink : (s.putEchoes v).hostLink = s.hostLink := (rfl)
@[simp] theorem State.putEchoes_zctWait : (s.putEchoes v).zctWait = s.zctWait := (rfl)
@[simp] theorem State.putEchoes_flash : (s.putEchoes v).flash = s.flash := (rfl)
@[simp] theorem State.putEchoes_bootSlots : (s.putEchoes v).bootSlots = s.bootSlots := (rfl)
@[simp] theorem State.putEchoes_cert : (s.putEchoes v).cert = s.cert := (rfl)
@[simp] theorem State.putEchoes_jorou : (s.putEchoes v).jorou = s.jorou := (rfl)
@[simp] theorem State.putEchoes_wear : (s.putEchoes v).wear = s.wear := (rfl)
@[simp] theorem State.putEchoes_ledger : (s.putEchoes v).ledger = s.ledger := (rfl)
@[simp] theorem State.putEchoes_resetOp : (s.putEchoes v).reset? = s.reset? := (rfl)
@[simp] theorem State.putEchoes_resetQ : (s.putEchoes v).resetQ = s.resetQ := (rfl)
@[simp] theorem State.putEchoes_resetsDone : (s.putEchoes v).resetsDone = s.resetsDone := (rfl)
@[simp] theorem State.putEchoes_captures : (s.putEchoes v).captures = s.captures := (rfl)
@[simp] theorem State.putEchoes_capture : (s.putEchoes v).capture = s.capture := (rfl)
@[simp] theorem State.putEchoes_capQ : (s.putEchoes v).capQ = s.capQ := (rfl)
@[simp] theorem State.putEchoes_scan : (s.putEchoes v).scan = s.scan := (rfl)
@[simp] theorem State.putEchoes_hangs : (s.putEchoes v).hangs = s.hangs := (rfl)
@[simp] theorem State.putEchoes_stalls : (s.putEchoes v).stalls = s.stalls := (rfl)
@[simp] theorem State.putEchoes_power : (s.putEchoes v).power = s.power := (rfl)
@[simp] theorem State.putEchoes_wb : (s.putEchoes v).wb = s.wb := (rfl)
end

section
variable (s : State) (v : List Nat)
@[simp] theorem State.putEchoGaps_pending : (s.putEchoGaps v).pending = s.pending := (rfl)
@[simp] theorem State.putEchoGaps_cycle : (s.putEchoGaps v).cycle = s.cycle := (rfl)
@[simp] theorem State.putEchoGaps_grade : (s.putEchoGaps v).grade = s.grade := (rfl)
@[simp] theorem State.putEchoGaps_freeCtr : (s.putEchoGaps v).freeCtr = s.freeCtr := (rfl)
@[simp] theorem State.putEchoGaps_out : (s.putEchoGaps v).out = s.out := (rfl)
@[simp] theorem State.putEchoGaps_mem : (s.putEchoGaps v).mem = s.mem := (rfl)
@[simp] theorem State.putEchoGaps_poison : (s.putEchoGaps v).poison = s.poison := (rfl)
@[simp] theorem State.putEchoGaps_regs : (s.putEchoGaps v).regs = s.regs := (rfl)
@[simp] theorem State.putEchoGaps_ports : (s.putEchoGaps v).ports = s.ports := (rfl)
@[simp] theorem State.putEchoGaps_laneMap : (s.putEchoGaps v).laneMap = s.laneMap := (rfl)
@[simp] theorem State.putEchoGaps_mapFixed : (s.putEchoGaps v).mapFixed = s.mapFixed := (rfl)
@[simp] theorem State.putEchoGaps_slots : (s.putEchoGaps v).slots = s.slots := (rfl)
@[simp] theorem State.putEchoGaps_queues : (s.putEchoGaps v).queues = s.queues := (rfl)
@[simp] theorem State.putEchoGaps_xin : (s.putEchoGaps v).xin = s.xin := (rfl)
@[simp] theorem State.putEchoGaps_xinLast : (s.putEchoGaps v).xinLast = s.xinLast := (rfl)
@[simp] theorem State.putEchoGaps_heldCells : (s.putEchoGaps v).heldCells = s.heldCells := (rfl)
@[simp] theorem State.putEchoGaps_retiredSlots : (s.putEchoGaps v).retiredSlots = s.retiredSlots := (rfl)
@[simp] theorem State.putEchoGaps_floor : (s.putEchoGaps v).floor = s.floor := (rfl)
@[simp] theorem State.putEchoGaps_mirrors : (s.putEchoGaps v).mirrors = s.mirrors := (rfl)
@[simp] theorem State.putEchoGaps_mirrorMade : (s.putEchoGaps v).mirrorMade = s.mirrorMade := (rfl)
@[simp] theorem State.putEchoGaps_sampleNext : (s.putEchoGaps v).sampleNext = s.sampleNext := (rfl)
@[simp] theorem State.putEchoGaps_sampleRead : (s.putEchoGaps v).sampleRead = s.sampleRead := (rfl)
@[simp] theorem State.putEchoGaps_smpStart : (s.putEchoGaps v).smpStart = s.smpStart := (rfl)
@[simp] theorem State.putEchoGaps_fails : (s.putEchoGaps v).fails = s.fails := (rfl)
@[simp] theorem State.putEchoGaps_echoes : (s.putEchoGaps v).echoes = s.echoes := (rfl)
@[simp] theorem State.putEchoGaps_echoGaps : (s.putEchoGaps v).echoGaps = v := (rfl)
@[simp] theorem State.putEchoGaps_noReturn : (s.putEchoGaps v).noReturn = s.noReturn := (rfl)
@[simp] theorem State.putEchoGaps_tiles : (s.putEchoGaps v).tiles = s.tiles := (rfl)
@[simp] theorem State.putEchoGaps_tileMap : (s.putEchoGaps v).tileMap = s.tileMap := (rfl)
@[simp] theorem State.putEchoGaps_failedTiles : (s.putEchoGaps v).failedTiles = s.failedTiles := (rfl)
@[simp] theorem State.putEchoGaps_candidates : (s.putEchoGaps v).candidates = s.candidates := (rfl)
@[simp] theorem State.putEchoGaps_inboxes : (s.putEchoGaps v).inboxes = s.inboxes := (rfl)
@[simp] theorem State.putEchoGaps_ctxs : (s.putEchoGaps v).ctxs = s.ctxs := (rfl)
@[simp] theorem State.putEchoGaps_ringPass : (s.putEchoGaps v).ringPass = s.ringPass := (rfl)
@[simp] theorem State.putEchoGaps_plans : (s.putEchoGaps v).plans = s.plans := (rfl)
@[simp] theorem State.putEchoGaps_planFp : (s.putEchoGaps v).planFp = s.planFp := (rfl)
@[simp] theorem State.putEchoGaps_groups : (s.putEchoGaps v).groups = s.groups := (rfl)
@[simp] theorem State.putEchoGaps_wmInbox : (s.putEchoGaps v).wmInbox = s.wmInbox := (rfl)
@[simp] theorem State.putEchoGaps_sets : (s.putEchoGaps v).sets = s.sets := (rfl)
@[simp] theorem State.putEchoGaps_ehts : (s.putEchoGaps v).ehts = s.ehts := (rfl)
@[simp] theorem State.putEchoGaps_expOpen : (s.putEchoGaps v).expOpen = s.expOpen := (rfl)
@[simp] theorem State.putEchoGaps_expIn : (s.putEchoGaps v).expIn = s.expIn := (rfl)
@[simp] theorem State.putEchoGaps_expWait : (s.putEchoGaps v).expWait = s.expWait := (rfl)
@[simp] theorem State.putEchoGaps_atomics : (s.putEchoGaps v).atomics = s.atomics := (rfl)
@[simp] theorem State.putEchoGaps_owners : (s.putEchoGaps v).owners = s.owners := (rfl)
@[simp] theorem State.putEchoGaps_bufs : (s.putEchoGaps v).bufs = s.bufs := (rfl)
@[simp] theorem State.putEchoGaps_pools : (s.putEchoGaps v).pools = s.pools := (rfl)
@[simp] theorem State.putEchoGaps_waiters : (s.putEchoGaps v).waiters = s.waiters := (rfl)
@[simp] theorem State.putEchoGaps_grants : (s.putEchoGaps v).grants = s.grants := (rfl)
@[simp] theorem State.putEchoGaps_rowErrs : (s.putEchoGaps v).rowErrs = s.rowErrs := (rfl)
@[simp] theorem State.putEchoGaps_pageErrs : (s.putEchoGaps v).pageErrs = s.pageErrs := (rfl)
@[simp] theorem State.putEchoGaps_pageHeld : (s.putEchoGaps v).pageHeld = s.pageHeld := (rfl)
@[simp] theorem State.putEchoGaps_pages : (s.putEchoGaps v).pages = s.pages := (rfl)
@[simp] theorem State.putEchoGaps_sparedRows : (s.putEchoGaps v).sparedRows = s.sparedRows := (rfl)
@[simp] theorem State.putEchoGaps_patrolAt : (s.putEchoGaps v).patrolAt = s.patrolAt := (rfl)
@[simp] theorem State.putEchoGaps_sramAt : (s.putEchoGaps v).sramAt = s.sramAt := (rfl)
@[simp] theorem State.putEchoGaps_selfRefresh : (s.putEchoGaps v).selfRefresh = s.selfRefresh := (rfl)
@[simp] theorem State.putEchoGaps_refreshing : (s.putEchoGaps v).refreshing = s.refreshing := (rfl)
@[simp] theorem State.putEchoGaps_sessions : (s.putEchoGaps v).sessions = s.sessions := (rfl)
@[simp] theorem State.putEchoGaps_hpActive : (s.putEchoGaps v).hpActive = s.hpActive := (rfl)
@[simp] theorem State.putEchoGaps_hpApply : (s.putEchoGaps v).hpApply = s.hpApply := (rfl)
@[simp] theorem State.putEchoGaps_hostLink : (s.putEchoGaps v).hostLink = s.hostLink := (rfl)
@[simp] theorem State.putEchoGaps_zctWait : (s.putEchoGaps v).zctWait = s.zctWait := (rfl)
@[simp] theorem State.putEchoGaps_flash : (s.putEchoGaps v).flash = s.flash := (rfl)
@[simp] theorem State.putEchoGaps_bootSlots : (s.putEchoGaps v).bootSlots = s.bootSlots := (rfl)
@[simp] theorem State.putEchoGaps_cert : (s.putEchoGaps v).cert = s.cert := (rfl)
@[simp] theorem State.putEchoGaps_jorou : (s.putEchoGaps v).jorou = s.jorou := (rfl)
@[simp] theorem State.putEchoGaps_wear : (s.putEchoGaps v).wear = s.wear := (rfl)
@[simp] theorem State.putEchoGaps_ledger : (s.putEchoGaps v).ledger = s.ledger := (rfl)
@[simp] theorem State.putEchoGaps_resetOp : (s.putEchoGaps v).reset? = s.reset? := (rfl)
@[simp] theorem State.putEchoGaps_resetQ : (s.putEchoGaps v).resetQ = s.resetQ := (rfl)
@[simp] theorem State.putEchoGaps_resetsDone : (s.putEchoGaps v).resetsDone = s.resetsDone := (rfl)
@[simp] theorem State.putEchoGaps_captures : (s.putEchoGaps v).captures = s.captures := (rfl)
@[simp] theorem State.putEchoGaps_capture : (s.putEchoGaps v).capture = s.capture := (rfl)
@[simp] theorem State.putEchoGaps_capQ : (s.putEchoGaps v).capQ = s.capQ := (rfl)
@[simp] theorem State.putEchoGaps_scan : (s.putEchoGaps v).scan = s.scan := (rfl)
@[simp] theorem State.putEchoGaps_hangs : (s.putEchoGaps v).hangs = s.hangs := (rfl)
@[simp] theorem State.putEchoGaps_stalls : (s.putEchoGaps v).stalls = s.stalls := (rfl)
@[simp] theorem State.putEchoGaps_power : (s.putEchoGaps v).power = s.power := (rfl)
@[simp] theorem State.putEchoGaps_wb : (s.putEchoGaps v).wb = s.wb := (rfl)
end

section
variable (s : State) (v : List (Nat × Nat))
@[simp] theorem State.putNoReturn_pending : (s.putNoReturn v).pending = s.pending := (rfl)
@[simp] theorem State.putNoReturn_cycle : (s.putNoReturn v).cycle = s.cycle := (rfl)
@[simp] theorem State.putNoReturn_grade : (s.putNoReturn v).grade = s.grade := (rfl)
@[simp] theorem State.putNoReturn_freeCtr : (s.putNoReturn v).freeCtr = s.freeCtr := (rfl)
@[simp] theorem State.putNoReturn_out : (s.putNoReturn v).out = s.out := (rfl)
@[simp] theorem State.putNoReturn_mem : (s.putNoReturn v).mem = s.mem := (rfl)
@[simp] theorem State.putNoReturn_poison : (s.putNoReturn v).poison = s.poison := (rfl)
@[simp] theorem State.putNoReturn_regs : (s.putNoReturn v).regs = s.regs := (rfl)
@[simp] theorem State.putNoReturn_ports : (s.putNoReturn v).ports = s.ports := (rfl)
@[simp] theorem State.putNoReturn_laneMap : (s.putNoReturn v).laneMap = s.laneMap := (rfl)
@[simp] theorem State.putNoReturn_mapFixed : (s.putNoReturn v).mapFixed = s.mapFixed := (rfl)
@[simp] theorem State.putNoReturn_slots : (s.putNoReturn v).slots = s.slots := (rfl)
@[simp] theorem State.putNoReturn_queues : (s.putNoReturn v).queues = s.queues := (rfl)
@[simp] theorem State.putNoReturn_xin : (s.putNoReturn v).xin = s.xin := (rfl)
@[simp] theorem State.putNoReturn_xinLast : (s.putNoReturn v).xinLast = s.xinLast := (rfl)
@[simp] theorem State.putNoReturn_heldCells : (s.putNoReturn v).heldCells = s.heldCells := (rfl)
@[simp] theorem State.putNoReturn_retiredSlots : (s.putNoReturn v).retiredSlots = s.retiredSlots := (rfl)
@[simp] theorem State.putNoReturn_floor : (s.putNoReturn v).floor = s.floor := (rfl)
@[simp] theorem State.putNoReturn_mirrors : (s.putNoReturn v).mirrors = s.mirrors := (rfl)
@[simp] theorem State.putNoReturn_mirrorMade : (s.putNoReturn v).mirrorMade = s.mirrorMade := (rfl)
@[simp] theorem State.putNoReturn_sampleNext : (s.putNoReturn v).sampleNext = s.sampleNext := (rfl)
@[simp] theorem State.putNoReturn_sampleRead : (s.putNoReturn v).sampleRead = s.sampleRead := (rfl)
@[simp] theorem State.putNoReturn_smpStart : (s.putNoReturn v).smpStart = s.smpStart := (rfl)
@[simp] theorem State.putNoReturn_fails : (s.putNoReturn v).fails = s.fails := (rfl)
@[simp] theorem State.putNoReturn_echoes : (s.putNoReturn v).echoes = s.echoes := (rfl)
@[simp] theorem State.putNoReturn_echoGaps : (s.putNoReturn v).echoGaps = s.echoGaps := (rfl)
@[simp] theorem State.putNoReturn_noReturn : (s.putNoReturn v).noReturn = v := (rfl)
@[simp] theorem State.putNoReturn_tiles : (s.putNoReturn v).tiles = s.tiles := (rfl)
@[simp] theorem State.putNoReturn_tileMap : (s.putNoReturn v).tileMap = s.tileMap := (rfl)
@[simp] theorem State.putNoReturn_failedTiles : (s.putNoReturn v).failedTiles = s.failedTiles := (rfl)
@[simp] theorem State.putNoReturn_candidates : (s.putNoReturn v).candidates = s.candidates := (rfl)
@[simp] theorem State.putNoReturn_inboxes : (s.putNoReturn v).inboxes = s.inboxes := (rfl)
@[simp] theorem State.putNoReturn_ctxs : (s.putNoReturn v).ctxs = s.ctxs := (rfl)
@[simp] theorem State.putNoReturn_ringPass : (s.putNoReturn v).ringPass = s.ringPass := (rfl)
@[simp] theorem State.putNoReturn_plans : (s.putNoReturn v).plans = s.plans := (rfl)
@[simp] theorem State.putNoReturn_planFp : (s.putNoReturn v).planFp = s.planFp := (rfl)
@[simp] theorem State.putNoReturn_groups : (s.putNoReturn v).groups = s.groups := (rfl)
@[simp] theorem State.putNoReturn_wmInbox : (s.putNoReturn v).wmInbox = s.wmInbox := (rfl)
@[simp] theorem State.putNoReturn_sets : (s.putNoReturn v).sets = s.sets := (rfl)
@[simp] theorem State.putNoReturn_ehts : (s.putNoReturn v).ehts = s.ehts := (rfl)
@[simp] theorem State.putNoReturn_expOpen : (s.putNoReturn v).expOpen = s.expOpen := (rfl)
@[simp] theorem State.putNoReturn_expIn : (s.putNoReturn v).expIn = s.expIn := (rfl)
@[simp] theorem State.putNoReturn_expWait : (s.putNoReturn v).expWait = s.expWait := (rfl)
@[simp] theorem State.putNoReturn_atomics : (s.putNoReturn v).atomics = s.atomics := (rfl)
@[simp] theorem State.putNoReturn_owners : (s.putNoReturn v).owners = s.owners := (rfl)
@[simp] theorem State.putNoReturn_bufs : (s.putNoReturn v).bufs = s.bufs := (rfl)
@[simp] theorem State.putNoReturn_pools : (s.putNoReturn v).pools = s.pools := (rfl)
@[simp] theorem State.putNoReturn_waiters : (s.putNoReturn v).waiters = s.waiters := (rfl)
@[simp] theorem State.putNoReturn_grants : (s.putNoReturn v).grants = s.grants := (rfl)
@[simp] theorem State.putNoReturn_rowErrs : (s.putNoReturn v).rowErrs = s.rowErrs := (rfl)
@[simp] theorem State.putNoReturn_pageErrs : (s.putNoReturn v).pageErrs = s.pageErrs := (rfl)
@[simp] theorem State.putNoReturn_pageHeld : (s.putNoReturn v).pageHeld = s.pageHeld := (rfl)
@[simp] theorem State.putNoReturn_pages : (s.putNoReturn v).pages = s.pages := (rfl)
@[simp] theorem State.putNoReturn_sparedRows : (s.putNoReturn v).sparedRows = s.sparedRows := (rfl)
@[simp] theorem State.putNoReturn_patrolAt : (s.putNoReturn v).patrolAt = s.patrolAt := (rfl)
@[simp] theorem State.putNoReturn_sramAt : (s.putNoReturn v).sramAt = s.sramAt := (rfl)
@[simp] theorem State.putNoReturn_selfRefresh : (s.putNoReturn v).selfRefresh = s.selfRefresh := (rfl)
@[simp] theorem State.putNoReturn_refreshing : (s.putNoReturn v).refreshing = s.refreshing := (rfl)
@[simp] theorem State.putNoReturn_sessions : (s.putNoReturn v).sessions = s.sessions := (rfl)
@[simp] theorem State.putNoReturn_hpActive : (s.putNoReturn v).hpActive = s.hpActive := (rfl)
@[simp] theorem State.putNoReturn_hpApply : (s.putNoReturn v).hpApply = s.hpApply := (rfl)
@[simp] theorem State.putNoReturn_hostLink : (s.putNoReturn v).hostLink = s.hostLink := (rfl)
@[simp] theorem State.putNoReturn_zctWait : (s.putNoReturn v).zctWait = s.zctWait := (rfl)
@[simp] theorem State.putNoReturn_flash : (s.putNoReturn v).flash = s.flash := (rfl)
@[simp] theorem State.putNoReturn_bootSlots : (s.putNoReturn v).bootSlots = s.bootSlots := (rfl)
@[simp] theorem State.putNoReturn_cert : (s.putNoReturn v).cert = s.cert := (rfl)
@[simp] theorem State.putNoReturn_jorou : (s.putNoReturn v).jorou = s.jorou := (rfl)
@[simp] theorem State.putNoReturn_wear : (s.putNoReturn v).wear = s.wear := (rfl)
@[simp] theorem State.putNoReturn_ledger : (s.putNoReturn v).ledger = s.ledger := (rfl)
@[simp] theorem State.putNoReturn_resetOp : (s.putNoReturn v).reset? = s.reset? := (rfl)
@[simp] theorem State.putNoReturn_resetQ : (s.putNoReturn v).resetQ = s.resetQ := (rfl)
@[simp] theorem State.putNoReturn_resetsDone : (s.putNoReturn v).resetsDone = s.resetsDone := (rfl)
@[simp] theorem State.putNoReturn_captures : (s.putNoReturn v).captures = s.captures := (rfl)
@[simp] theorem State.putNoReturn_capture : (s.putNoReturn v).capture = s.capture := (rfl)
@[simp] theorem State.putNoReturn_capQ : (s.putNoReturn v).capQ = s.capQ := (rfl)
@[simp] theorem State.putNoReturn_scan : (s.putNoReturn v).scan = s.scan := (rfl)
@[simp] theorem State.putNoReturn_hangs : (s.putNoReturn v).hangs = s.hangs := (rfl)
@[simp] theorem State.putNoReturn_stalls : (s.putNoReturn v).stalls = s.stalls := (rfl)
@[simp] theorem State.putNoReturn_power : (s.putNoReturn v).power = s.power := (rfl)
@[simp] theorem State.putNoReturn_wb : (s.putNoReturn v).wb = s.wb := (rfl)
end

section
variable (s : State) (v : List (Nat × Tile))
@[simp] theorem State.putTiles_pending : (s.putTiles v).pending = s.pending := (rfl)
@[simp] theorem State.putTiles_cycle : (s.putTiles v).cycle = s.cycle := (rfl)
@[simp] theorem State.putTiles_grade : (s.putTiles v).grade = s.grade := (rfl)
@[simp] theorem State.putTiles_freeCtr : (s.putTiles v).freeCtr = s.freeCtr := (rfl)
@[simp] theorem State.putTiles_out : (s.putTiles v).out = s.out := (rfl)
@[simp] theorem State.putTiles_mem : (s.putTiles v).mem = s.mem := (rfl)
@[simp] theorem State.putTiles_poison : (s.putTiles v).poison = s.poison := (rfl)
@[simp] theorem State.putTiles_regs : (s.putTiles v).regs = s.regs := (rfl)
@[simp] theorem State.putTiles_ports : (s.putTiles v).ports = s.ports := (rfl)
@[simp] theorem State.putTiles_laneMap : (s.putTiles v).laneMap = s.laneMap := (rfl)
@[simp] theorem State.putTiles_mapFixed : (s.putTiles v).mapFixed = s.mapFixed := (rfl)
@[simp] theorem State.putTiles_slots : (s.putTiles v).slots = s.slots := (rfl)
@[simp] theorem State.putTiles_queues : (s.putTiles v).queues = s.queues := (rfl)
@[simp] theorem State.putTiles_xin : (s.putTiles v).xin = s.xin := (rfl)
@[simp] theorem State.putTiles_xinLast : (s.putTiles v).xinLast = s.xinLast := (rfl)
@[simp] theorem State.putTiles_heldCells : (s.putTiles v).heldCells = s.heldCells := (rfl)
@[simp] theorem State.putTiles_retiredSlots : (s.putTiles v).retiredSlots = s.retiredSlots := (rfl)
@[simp] theorem State.putTiles_floor : (s.putTiles v).floor = s.floor := (rfl)
@[simp] theorem State.putTiles_mirrors : (s.putTiles v).mirrors = s.mirrors := (rfl)
@[simp] theorem State.putTiles_mirrorMade : (s.putTiles v).mirrorMade = s.mirrorMade := (rfl)
@[simp] theorem State.putTiles_sampleNext : (s.putTiles v).sampleNext = s.sampleNext := (rfl)
@[simp] theorem State.putTiles_sampleRead : (s.putTiles v).sampleRead = s.sampleRead := (rfl)
@[simp] theorem State.putTiles_smpStart : (s.putTiles v).smpStart = s.smpStart := (rfl)
@[simp] theorem State.putTiles_fails : (s.putTiles v).fails = s.fails := (rfl)
@[simp] theorem State.putTiles_echoes : (s.putTiles v).echoes = s.echoes := (rfl)
@[simp] theorem State.putTiles_echoGaps : (s.putTiles v).echoGaps = s.echoGaps := (rfl)
@[simp] theorem State.putTiles_noReturn : (s.putTiles v).noReturn = s.noReturn := (rfl)
@[simp] theorem State.putTiles_tiles : (s.putTiles v).tiles = v := (rfl)
@[simp] theorem State.putTiles_tileMap : (s.putTiles v).tileMap = s.tileMap := (rfl)
@[simp] theorem State.putTiles_failedTiles : (s.putTiles v).failedTiles = s.failedTiles := (rfl)
@[simp] theorem State.putTiles_candidates : (s.putTiles v).candidates = s.candidates := (rfl)
@[simp] theorem State.putTiles_inboxes : (s.putTiles v).inboxes = s.inboxes := (rfl)
@[simp] theorem State.putTiles_ctxs : (s.putTiles v).ctxs = s.ctxs := (rfl)
@[simp] theorem State.putTiles_ringPass : (s.putTiles v).ringPass = s.ringPass := (rfl)
@[simp] theorem State.putTiles_plans : (s.putTiles v).plans = s.plans := (rfl)
@[simp] theorem State.putTiles_planFp : (s.putTiles v).planFp = s.planFp := (rfl)
@[simp] theorem State.putTiles_groups : (s.putTiles v).groups = s.groups := (rfl)
@[simp] theorem State.putTiles_wmInbox : (s.putTiles v).wmInbox = s.wmInbox := (rfl)
@[simp] theorem State.putTiles_sets : (s.putTiles v).sets = s.sets := (rfl)
@[simp] theorem State.putTiles_ehts : (s.putTiles v).ehts = s.ehts := (rfl)
@[simp] theorem State.putTiles_expOpen : (s.putTiles v).expOpen = s.expOpen := (rfl)
@[simp] theorem State.putTiles_expIn : (s.putTiles v).expIn = s.expIn := (rfl)
@[simp] theorem State.putTiles_expWait : (s.putTiles v).expWait = s.expWait := (rfl)
@[simp] theorem State.putTiles_atomics : (s.putTiles v).atomics = s.atomics := (rfl)
@[simp] theorem State.putTiles_owners : (s.putTiles v).owners = s.owners := (rfl)
@[simp] theorem State.putTiles_bufs : (s.putTiles v).bufs = s.bufs := (rfl)
@[simp] theorem State.putTiles_pools : (s.putTiles v).pools = s.pools := (rfl)
@[simp] theorem State.putTiles_waiters : (s.putTiles v).waiters = s.waiters := (rfl)
@[simp] theorem State.putTiles_grants : (s.putTiles v).grants = s.grants := (rfl)
@[simp] theorem State.putTiles_rowErrs : (s.putTiles v).rowErrs = s.rowErrs := (rfl)
@[simp] theorem State.putTiles_pageErrs : (s.putTiles v).pageErrs = s.pageErrs := (rfl)
@[simp] theorem State.putTiles_pageHeld : (s.putTiles v).pageHeld = s.pageHeld := (rfl)
@[simp] theorem State.putTiles_pages : (s.putTiles v).pages = s.pages := (rfl)
@[simp] theorem State.putTiles_sparedRows : (s.putTiles v).sparedRows = s.sparedRows := (rfl)
@[simp] theorem State.putTiles_patrolAt : (s.putTiles v).patrolAt = s.patrolAt := (rfl)
@[simp] theorem State.putTiles_sramAt : (s.putTiles v).sramAt = s.sramAt := (rfl)
@[simp] theorem State.putTiles_selfRefresh : (s.putTiles v).selfRefresh = s.selfRefresh := (rfl)
@[simp] theorem State.putTiles_refreshing : (s.putTiles v).refreshing = s.refreshing := (rfl)
@[simp] theorem State.putTiles_sessions : (s.putTiles v).sessions = s.sessions := (rfl)
@[simp] theorem State.putTiles_hpActive : (s.putTiles v).hpActive = s.hpActive := (rfl)
@[simp] theorem State.putTiles_hpApply : (s.putTiles v).hpApply = s.hpApply := (rfl)
@[simp] theorem State.putTiles_hostLink : (s.putTiles v).hostLink = s.hostLink := (rfl)
@[simp] theorem State.putTiles_zctWait : (s.putTiles v).zctWait = s.zctWait := (rfl)
@[simp] theorem State.putTiles_flash : (s.putTiles v).flash = s.flash := (rfl)
@[simp] theorem State.putTiles_bootSlots : (s.putTiles v).bootSlots = s.bootSlots := (rfl)
@[simp] theorem State.putTiles_cert : (s.putTiles v).cert = s.cert := (rfl)
@[simp] theorem State.putTiles_jorou : (s.putTiles v).jorou = s.jorou := (rfl)
@[simp] theorem State.putTiles_wear : (s.putTiles v).wear = s.wear := (rfl)
@[simp] theorem State.putTiles_ledger : (s.putTiles v).ledger = s.ledger := (rfl)
@[simp] theorem State.putTiles_resetOp : (s.putTiles v).reset? = s.reset? := (rfl)
@[simp] theorem State.putTiles_resetQ : (s.putTiles v).resetQ = s.resetQ := (rfl)
@[simp] theorem State.putTiles_resetsDone : (s.putTiles v).resetsDone = s.resetsDone := (rfl)
@[simp] theorem State.putTiles_captures : (s.putTiles v).captures = s.captures := (rfl)
@[simp] theorem State.putTiles_capture : (s.putTiles v).capture = s.capture := (rfl)
@[simp] theorem State.putTiles_capQ : (s.putTiles v).capQ = s.capQ := (rfl)
@[simp] theorem State.putTiles_scan : (s.putTiles v).scan = s.scan := (rfl)
@[simp] theorem State.putTiles_hangs : (s.putTiles v).hangs = s.hangs := (rfl)
@[simp] theorem State.putTiles_stalls : (s.putTiles v).stalls = s.stalls := (rfl)
@[simp] theorem State.putTiles_power : (s.putTiles v).power = s.power := (rfl)
@[simp] theorem State.putTiles_wb : (s.putTiles v).wb = s.wb := (rfl)
end

section
variable (s : State) (v : List (Nat × Nat))
@[simp] theorem State.putTileMap_pending : (s.putTileMap v).pending = s.pending := (rfl)
@[simp] theorem State.putTileMap_cycle : (s.putTileMap v).cycle = s.cycle := (rfl)
@[simp] theorem State.putTileMap_grade : (s.putTileMap v).grade = s.grade := (rfl)
@[simp] theorem State.putTileMap_freeCtr : (s.putTileMap v).freeCtr = s.freeCtr := (rfl)
@[simp] theorem State.putTileMap_out : (s.putTileMap v).out = s.out := (rfl)
@[simp] theorem State.putTileMap_mem : (s.putTileMap v).mem = s.mem := (rfl)
@[simp] theorem State.putTileMap_poison : (s.putTileMap v).poison = s.poison := (rfl)
@[simp] theorem State.putTileMap_regs : (s.putTileMap v).regs = s.regs := (rfl)
@[simp] theorem State.putTileMap_ports : (s.putTileMap v).ports = s.ports := (rfl)
@[simp] theorem State.putTileMap_laneMap : (s.putTileMap v).laneMap = s.laneMap := (rfl)
@[simp] theorem State.putTileMap_mapFixed : (s.putTileMap v).mapFixed = s.mapFixed := (rfl)
@[simp] theorem State.putTileMap_slots : (s.putTileMap v).slots = s.slots := (rfl)
@[simp] theorem State.putTileMap_queues : (s.putTileMap v).queues = s.queues := (rfl)
@[simp] theorem State.putTileMap_xin : (s.putTileMap v).xin = s.xin := (rfl)
@[simp] theorem State.putTileMap_xinLast : (s.putTileMap v).xinLast = s.xinLast := (rfl)
@[simp] theorem State.putTileMap_heldCells : (s.putTileMap v).heldCells = s.heldCells := (rfl)
@[simp] theorem State.putTileMap_retiredSlots : (s.putTileMap v).retiredSlots = s.retiredSlots := (rfl)
@[simp] theorem State.putTileMap_floor : (s.putTileMap v).floor = s.floor := (rfl)
@[simp] theorem State.putTileMap_mirrors : (s.putTileMap v).mirrors = s.mirrors := (rfl)
@[simp] theorem State.putTileMap_mirrorMade : (s.putTileMap v).mirrorMade = s.mirrorMade := (rfl)
@[simp] theorem State.putTileMap_sampleNext : (s.putTileMap v).sampleNext = s.sampleNext := (rfl)
@[simp] theorem State.putTileMap_sampleRead : (s.putTileMap v).sampleRead = s.sampleRead := (rfl)
@[simp] theorem State.putTileMap_smpStart : (s.putTileMap v).smpStart = s.smpStart := (rfl)
@[simp] theorem State.putTileMap_fails : (s.putTileMap v).fails = s.fails := (rfl)
@[simp] theorem State.putTileMap_echoes : (s.putTileMap v).echoes = s.echoes := (rfl)
@[simp] theorem State.putTileMap_echoGaps : (s.putTileMap v).echoGaps = s.echoGaps := (rfl)
@[simp] theorem State.putTileMap_noReturn : (s.putTileMap v).noReturn = s.noReturn := (rfl)
@[simp] theorem State.putTileMap_tiles : (s.putTileMap v).tiles = s.tiles := (rfl)
@[simp] theorem State.putTileMap_tileMap : (s.putTileMap v).tileMap = v := (rfl)
@[simp] theorem State.putTileMap_failedTiles : (s.putTileMap v).failedTiles = s.failedTiles := (rfl)
@[simp] theorem State.putTileMap_candidates : (s.putTileMap v).candidates = s.candidates := (rfl)
@[simp] theorem State.putTileMap_inboxes : (s.putTileMap v).inboxes = s.inboxes := (rfl)
@[simp] theorem State.putTileMap_ctxs : (s.putTileMap v).ctxs = s.ctxs := (rfl)
@[simp] theorem State.putTileMap_ringPass : (s.putTileMap v).ringPass = s.ringPass := (rfl)
@[simp] theorem State.putTileMap_plans : (s.putTileMap v).plans = s.plans := (rfl)
@[simp] theorem State.putTileMap_planFp : (s.putTileMap v).planFp = s.planFp := (rfl)
@[simp] theorem State.putTileMap_groups : (s.putTileMap v).groups = s.groups := (rfl)
@[simp] theorem State.putTileMap_wmInbox : (s.putTileMap v).wmInbox = s.wmInbox := (rfl)
@[simp] theorem State.putTileMap_sets : (s.putTileMap v).sets = s.sets := (rfl)
@[simp] theorem State.putTileMap_ehts : (s.putTileMap v).ehts = s.ehts := (rfl)
@[simp] theorem State.putTileMap_expOpen : (s.putTileMap v).expOpen = s.expOpen := (rfl)
@[simp] theorem State.putTileMap_expIn : (s.putTileMap v).expIn = s.expIn := (rfl)
@[simp] theorem State.putTileMap_expWait : (s.putTileMap v).expWait = s.expWait := (rfl)
@[simp] theorem State.putTileMap_atomics : (s.putTileMap v).atomics = s.atomics := (rfl)
@[simp] theorem State.putTileMap_owners : (s.putTileMap v).owners = s.owners := (rfl)
@[simp] theorem State.putTileMap_bufs : (s.putTileMap v).bufs = s.bufs := (rfl)
@[simp] theorem State.putTileMap_pools : (s.putTileMap v).pools = s.pools := (rfl)
@[simp] theorem State.putTileMap_waiters : (s.putTileMap v).waiters = s.waiters := (rfl)
@[simp] theorem State.putTileMap_grants : (s.putTileMap v).grants = s.grants := (rfl)
@[simp] theorem State.putTileMap_rowErrs : (s.putTileMap v).rowErrs = s.rowErrs := (rfl)
@[simp] theorem State.putTileMap_pageErrs : (s.putTileMap v).pageErrs = s.pageErrs := (rfl)
@[simp] theorem State.putTileMap_pageHeld : (s.putTileMap v).pageHeld = s.pageHeld := (rfl)
@[simp] theorem State.putTileMap_pages : (s.putTileMap v).pages = s.pages := (rfl)
@[simp] theorem State.putTileMap_sparedRows : (s.putTileMap v).sparedRows = s.sparedRows := (rfl)
@[simp] theorem State.putTileMap_patrolAt : (s.putTileMap v).patrolAt = s.patrolAt := (rfl)
@[simp] theorem State.putTileMap_sramAt : (s.putTileMap v).sramAt = s.sramAt := (rfl)
@[simp] theorem State.putTileMap_selfRefresh : (s.putTileMap v).selfRefresh = s.selfRefresh := (rfl)
@[simp] theorem State.putTileMap_refreshing : (s.putTileMap v).refreshing = s.refreshing := (rfl)
@[simp] theorem State.putTileMap_sessions : (s.putTileMap v).sessions = s.sessions := (rfl)
@[simp] theorem State.putTileMap_hpActive : (s.putTileMap v).hpActive = s.hpActive := (rfl)
@[simp] theorem State.putTileMap_hpApply : (s.putTileMap v).hpApply = s.hpApply := (rfl)
@[simp] theorem State.putTileMap_hostLink : (s.putTileMap v).hostLink = s.hostLink := (rfl)
@[simp] theorem State.putTileMap_zctWait : (s.putTileMap v).zctWait = s.zctWait := (rfl)
@[simp] theorem State.putTileMap_flash : (s.putTileMap v).flash = s.flash := (rfl)
@[simp] theorem State.putTileMap_bootSlots : (s.putTileMap v).bootSlots = s.bootSlots := (rfl)
@[simp] theorem State.putTileMap_cert : (s.putTileMap v).cert = s.cert := (rfl)
@[simp] theorem State.putTileMap_jorou : (s.putTileMap v).jorou = s.jorou := (rfl)
@[simp] theorem State.putTileMap_wear : (s.putTileMap v).wear = s.wear := (rfl)
@[simp] theorem State.putTileMap_ledger : (s.putTileMap v).ledger = s.ledger := (rfl)
@[simp] theorem State.putTileMap_resetOp : (s.putTileMap v).reset? = s.reset? := (rfl)
@[simp] theorem State.putTileMap_resetQ : (s.putTileMap v).resetQ = s.resetQ := (rfl)
@[simp] theorem State.putTileMap_resetsDone : (s.putTileMap v).resetsDone = s.resetsDone := (rfl)
@[simp] theorem State.putTileMap_captures : (s.putTileMap v).captures = s.captures := (rfl)
@[simp] theorem State.putTileMap_capture : (s.putTileMap v).capture = s.capture := (rfl)
@[simp] theorem State.putTileMap_capQ : (s.putTileMap v).capQ = s.capQ := (rfl)
@[simp] theorem State.putTileMap_scan : (s.putTileMap v).scan = s.scan := (rfl)
@[simp] theorem State.putTileMap_hangs : (s.putTileMap v).hangs = s.hangs := (rfl)
@[simp] theorem State.putTileMap_stalls : (s.putTileMap v).stalls = s.stalls := (rfl)
@[simp] theorem State.putTileMap_power : (s.putTileMap v).power = s.power := (rfl)
@[simp] theorem State.putTileMap_wb : (s.putTileMap v).wb = s.wb := (rfl)
end

section
variable (s : State) (v : List Nat)
@[simp] theorem State.putFailedTiles_pending : (s.putFailedTiles v).pending = s.pending := (rfl)
@[simp] theorem State.putFailedTiles_cycle : (s.putFailedTiles v).cycle = s.cycle := (rfl)
@[simp] theorem State.putFailedTiles_grade : (s.putFailedTiles v).grade = s.grade := (rfl)
@[simp] theorem State.putFailedTiles_freeCtr : (s.putFailedTiles v).freeCtr = s.freeCtr := (rfl)
@[simp] theorem State.putFailedTiles_out : (s.putFailedTiles v).out = s.out := (rfl)
@[simp] theorem State.putFailedTiles_mem : (s.putFailedTiles v).mem = s.mem := (rfl)
@[simp] theorem State.putFailedTiles_poison : (s.putFailedTiles v).poison = s.poison := (rfl)
@[simp] theorem State.putFailedTiles_regs : (s.putFailedTiles v).regs = s.regs := (rfl)
@[simp] theorem State.putFailedTiles_ports : (s.putFailedTiles v).ports = s.ports := (rfl)
@[simp] theorem State.putFailedTiles_laneMap : (s.putFailedTiles v).laneMap = s.laneMap := (rfl)
@[simp] theorem State.putFailedTiles_mapFixed : (s.putFailedTiles v).mapFixed = s.mapFixed := (rfl)
@[simp] theorem State.putFailedTiles_slots : (s.putFailedTiles v).slots = s.slots := (rfl)
@[simp] theorem State.putFailedTiles_queues : (s.putFailedTiles v).queues = s.queues := (rfl)
@[simp] theorem State.putFailedTiles_xin : (s.putFailedTiles v).xin = s.xin := (rfl)
@[simp] theorem State.putFailedTiles_xinLast : (s.putFailedTiles v).xinLast = s.xinLast := (rfl)
@[simp] theorem State.putFailedTiles_heldCells : (s.putFailedTiles v).heldCells = s.heldCells := (rfl)
@[simp] theorem State.putFailedTiles_retiredSlots : (s.putFailedTiles v).retiredSlots = s.retiredSlots := (rfl)
@[simp] theorem State.putFailedTiles_floor : (s.putFailedTiles v).floor = s.floor := (rfl)
@[simp] theorem State.putFailedTiles_mirrors : (s.putFailedTiles v).mirrors = s.mirrors := (rfl)
@[simp] theorem State.putFailedTiles_mirrorMade : (s.putFailedTiles v).mirrorMade = s.mirrorMade := (rfl)
@[simp] theorem State.putFailedTiles_sampleNext : (s.putFailedTiles v).sampleNext = s.sampleNext := (rfl)
@[simp] theorem State.putFailedTiles_sampleRead : (s.putFailedTiles v).sampleRead = s.sampleRead := (rfl)
@[simp] theorem State.putFailedTiles_smpStart : (s.putFailedTiles v).smpStart = s.smpStart := (rfl)
@[simp] theorem State.putFailedTiles_fails : (s.putFailedTiles v).fails = s.fails := (rfl)
@[simp] theorem State.putFailedTiles_echoes : (s.putFailedTiles v).echoes = s.echoes := (rfl)
@[simp] theorem State.putFailedTiles_echoGaps : (s.putFailedTiles v).echoGaps = s.echoGaps := (rfl)
@[simp] theorem State.putFailedTiles_noReturn : (s.putFailedTiles v).noReturn = s.noReturn := (rfl)
@[simp] theorem State.putFailedTiles_tiles : (s.putFailedTiles v).tiles = s.tiles := (rfl)
@[simp] theorem State.putFailedTiles_tileMap : (s.putFailedTiles v).tileMap = s.tileMap := (rfl)
@[simp] theorem State.putFailedTiles_failedTiles : (s.putFailedTiles v).failedTiles = v := (rfl)
@[simp] theorem State.putFailedTiles_candidates : (s.putFailedTiles v).candidates = s.candidates := (rfl)
@[simp] theorem State.putFailedTiles_inboxes : (s.putFailedTiles v).inboxes = s.inboxes := (rfl)
@[simp] theorem State.putFailedTiles_ctxs : (s.putFailedTiles v).ctxs = s.ctxs := (rfl)
@[simp] theorem State.putFailedTiles_ringPass : (s.putFailedTiles v).ringPass = s.ringPass := (rfl)
@[simp] theorem State.putFailedTiles_plans : (s.putFailedTiles v).plans = s.plans := (rfl)
@[simp] theorem State.putFailedTiles_planFp : (s.putFailedTiles v).planFp = s.planFp := (rfl)
@[simp] theorem State.putFailedTiles_groups : (s.putFailedTiles v).groups = s.groups := (rfl)
@[simp] theorem State.putFailedTiles_wmInbox : (s.putFailedTiles v).wmInbox = s.wmInbox := (rfl)
@[simp] theorem State.putFailedTiles_sets : (s.putFailedTiles v).sets = s.sets := (rfl)
@[simp] theorem State.putFailedTiles_ehts : (s.putFailedTiles v).ehts = s.ehts := (rfl)
@[simp] theorem State.putFailedTiles_expOpen : (s.putFailedTiles v).expOpen = s.expOpen := (rfl)
@[simp] theorem State.putFailedTiles_expIn : (s.putFailedTiles v).expIn = s.expIn := (rfl)
@[simp] theorem State.putFailedTiles_expWait : (s.putFailedTiles v).expWait = s.expWait := (rfl)
@[simp] theorem State.putFailedTiles_atomics : (s.putFailedTiles v).atomics = s.atomics := (rfl)
@[simp] theorem State.putFailedTiles_owners : (s.putFailedTiles v).owners = s.owners := (rfl)
@[simp] theorem State.putFailedTiles_bufs : (s.putFailedTiles v).bufs = s.bufs := (rfl)
@[simp] theorem State.putFailedTiles_pools : (s.putFailedTiles v).pools = s.pools := (rfl)
@[simp] theorem State.putFailedTiles_waiters : (s.putFailedTiles v).waiters = s.waiters := (rfl)
@[simp] theorem State.putFailedTiles_grants : (s.putFailedTiles v).grants = s.grants := (rfl)
@[simp] theorem State.putFailedTiles_rowErrs : (s.putFailedTiles v).rowErrs = s.rowErrs := (rfl)
@[simp] theorem State.putFailedTiles_pageErrs : (s.putFailedTiles v).pageErrs = s.pageErrs := (rfl)
@[simp] theorem State.putFailedTiles_pageHeld : (s.putFailedTiles v).pageHeld = s.pageHeld := (rfl)
@[simp] theorem State.putFailedTiles_pages : (s.putFailedTiles v).pages = s.pages := (rfl)
@[simp] theorem State.putFailedTiles_sparedRows : (s.putFailedTiles v).sparedRows = s.sparedRows := (rfl)
@[simp] theorem State.putFailedTiles_patrolAt : (s.putFailedTiles v).patrolAt = s.patrolAt := (rfl)
@[simp] theorem State.putFailedTiles_sramAt : (s.putFailedTiles v).sramAt = s.sramAt := (rfl)
@[simp] theorem State.putFailedTiles_selfRefresh : (s.putFailedTiles v).selfRefresh = s.selfRefresh := (rfl)
@[simp] theorem State.putFailedTiles_refreshing : (s.putFailedTiles v).refreshing = s.refreshing := (rfl)
@[simp] theorem State.putFailedTiles_sessions : (s.putFailedTiles v).sessions = s.sessions := (rfl)
@[simp] theorem State.putFailedTiles_hpActive : (s.putFailedTiles v).hpActive = s.hpActive := (rfl)
@[simp] theorem State.putFailedTiles_hpApply : (s.putFailedTiles v).hpApply = s.hpApply := (rfl)
@[simp] theorem State.putFailedTiles_hostLink : (s.putFailedTiles v).hostLink = s.hostLink := (rfl)
@[simp] theorem State.putFailedTiles_zctWait : (s.putFailedTiles v).zctWait = s.zctWait := (rfl)
@[simp] theorem State.putFailedTiles_flash : (s.putFailedTiles v).flash = s.flash := (rfl)
@[simp] theorem State.putFailedTiles_bootSlots : (s.putFailedTiles v).bootSlots = s.bootSlots := (rfl)
@[simp] theorem State.putFailedTiles_cert : (s.putFailedTiles v).cert = s.cert := (rfl)
@[simp] theorem State.putFailedTiles_jorou : (s.putFailedTiles v).jorou = s.jorou := (rfl)
@[simp] theorem State.putFailedTiles_wear : (s.putFailedTiles v).wear = s.wear := (rfl)
@[simp] theorem State.putFailedTiles_ledger : (s.putFailedTiles v).ledger = s.ledger := (rfl)
@[simp] theorem State.putFailedTiles_resetOp : (s.putFailedTiles v).reset? = s.reset? := (rfl)
@[simp] theorem State.putFailedTiles_resetQ : (s.putFailedTiles v).resetQ = s.resetQ := (rfl)
@[simp] theorem State.putFailedTiles_resetsDone : (s.putFailedTiles v).resetsDone = s.resetsDone := (rfl)
@[simp] theorem State.putFailedTiles_captures : (s.putFailedTiles v).captures = s.captures := (rfl)
@[simp] theorem State.putFailedTiles_capture : (s.putFailedTiles v).capture = s.capture := (rfl)
@[simp] theorem State.putFailedTiles_capQ : (s.putFailedTiles v).capQ = s.capQ := (rfl)
@[simp] theorem State.putFailedTiles_scan : (s.putFailedTiles v).scan = s.scan := (rfl)
@[simp] theorem State.putFailedTiles_hangs : (s.putFailedTiles v).hangs = s.hangs := (rfl)
@[simp] theorem State.putFailedTiles_stalls : (s.putFailedTiles v).stalls = s.stalls := (rfl)
@[simp] theorem State.putFailedTiles_power : (s.putFailedTiles v).power = s.power := (rfl)
@[simp] theorem State.putFailedTiles_wb : (s.putFailedTiles v).wb = s.wb := (rfl)
end

section
variable (s : State) (v : List Nat)
@[simp] theorem State.putCandidates_pending : (s.putCandidates v).pending = s.pending := (rfl)
@[simp] theorem State.putCandidates_cycle : (s.putCandidates v).cycle = s.cycle := (rfl)
@[simp] theorem State.putCandidates_grade : (s.putCandidates v).grade = s.grade := (rfl)
@[simp] theorem State.putCandidates_freeCtr : (s.putCandidates v).freeCtr = s.freeCtr := (rfl)
@[simp] theorem State.putCandidates_out : (s.putCandidates v).out = s.out := (rfl)
@[simp] theorem State.putCandidates_mem : (s.putCandidates v).mem = s.mem := (rfl)
@[simp] theorem State.putCandidates_poison : (s.putCandidates v).poison = s.poison := (rfl)
@[simp] theorem State.putCandidates_regs : (s.putCandidates v).regs = s.regs := (rfl)
@[simp] theorem State.putCandidates_ports : (s.putCandidates v).ports = s.ports := (rfl)
@[simp] theorem State.putCandidates_laneMap : (s.putCandidates v).laneMap = s.laneMap := (rfl)
@[simp] theorem State.putCandidates_mapFixed : (s.putCandidates v).mapFixed = s.mapFixed := (rfl)
@[simp] theorem State.putCandidates_slots : (s.putCandidates v).slots = s.slots := (rfl)
@[simp] theorem State.putCandidates_queues : (s.putCandidates v).queues = s.queues := (rfl)
@[simp] theorem State.putCandidates_xin : (s.putCandidates v).xin = s.xin := (rfl)
@[simp] theorem State.putCandidates_xinLast : (s.putCandidates v).xinLast = s.xinLast := (rfl)
@[simp] theorem State.putCandidates_heldCells : (s.putCandidates v).heldCells = s.heldCells := (rfl)
@[simp] theorem State.putCandidates_retiredSlots : (s.putCandidates v).retiredSlots = s.retiredSlots := (rfl)
@[simp] theorem State.putCandidates_floor : (s.putCandidates v).floor = s.floor := (rfl)
@[simp] theorem State.putCandidates_mirrors : (s.putCandidates v).mirrors = s.mirrors := (rfl)
@[simp] theorem State.putCandidates_mirrorMade : (s.putCandidates v).mirrorMade = s.mirrorMade := (rfl)
@[simp] theorem State.putCandidates_sampleNext : (s.putCandidates v).sampleNext = s.sampleNext := (rfl)
@[simp] theorem State.putCandidates_sampleRead : (s.putCandidates v).sampleRead = s.sampleRead := (rfl)
@[simp] theorem State.putCandidates_smpStart : (s.putCandidates v).smpStart = s.smpStart := (rfl)
@[simp] theorem State.putCandidates_fails : (s.putCandidates v).fails = s.fails := (rfl)
@[simp] theorem State.putCandidates_echoes : (s.putCandidates v).echoes = s.echoes := (rfl)
@[simp] theorem State.putCandidates_echoGaps : (s.putCandidates v).echoGaps = s.echoGaps := (rfl)
@[simp] theorem State.putCandidates_noReturn : (s.putCandidates v).noReturn = s.noReturn := (rfl)
@[simp] theorem State.putCandidates_tiles : (s.putCandidates v).tiles = s.tiles := (rfl)
@[simp] theorem State.putCandidates_tileMap : (s.putCandidates v).tileMap = s.tileMap := (rfl)
@[simp] theorem State.putCandidates_failedTiles : (s.putCandidates v).failedTiles = s.failedTiles := (rfl)
@[simp] theorem State.putCandidates_candidates : (s.putCandidates v).candidates = v := (rfl)
@[simp] theorem State.putCandidates_inboxes : (s.putCandidates v).inboxes = s.inboxes := (rfl)
@[simp] theorem State.putCandidates_ctxs : (s.putCandidates v).ctxs = s.ctxs := (rfl)
@[simp] theorem State.putCandidates_ringPass : (s.putCandidates v).ringPass = s.ringPass := (rfl)
@[simp] theorem State.putCandidates_plans : (s.putCandidates v).plans = s.plans := (rfl)
@[simp] theorem State.putCandidates_planFp : (s.putCandidates v).planFp = s.planFp := (rfl)
@[simp] theorem State.putCandidates_groups : (s.putCandidates v).groups = s.groups := (rfl)
@[simp] theorem State.putCandidates_wmInbox : (s.putCandidates v).wmInbox = s.wmInbox := (rfl)
@[simp] theorem State.putCandidates_sets : (s.putCandidates v).sets = s.sets := (rfl)
@[simp] theorem State.putCandidates_ehts : (s.putCandidates v).ehts = s.ehts := (rfl)
@[simp] theorem State.putCandidates_expOpen : (s.putCandidates v).expOpen = s.expOpen := (rfl)
@[simp] theorem State.putCandidates_expIn : (s.putCandidates v).expIn = s.expIn := (rfl)
@[simp] theorem State.putCandidates_expWait : (s.putCandidates v).expWait = s.expWait := (rfl)
@[simp] theorem State.putCandidates_atomics : (s.putCandidates v).atomics = s.atomics := (rfl)
@[simp] theorem State.putCandidates_owners : (s.putCandidates v).owners = s.owners := (rfl)
@[simp] theorem State.putCandidates_bufs : (s.putCandidates v).bufs = s.bufs := (rfl)
@[simp] theorem State.putCandidates_pools : (s.putCandidates v).pools = s.pools := (rfl)
@[simp] theorem State.putCandidates_waiters : (s.putCandidates v).waiters = s.waiters := (rfl)
@[simp] theorem State.putCandidates_grants : (s.putCandidates v).grants = s.grants := (rfl)
@[simp] theorem State.putCandidates_rowErrs : (s.putCandidates v).rowErrs = s.rowErrs := (rfl)
@[simp] theorem State.putCandidates_pageErrs : (s.putCandidates v).pageErrs = s.pageErrs := (rfl)
@[simp] theorem State.putCandidates_pageHeld : (s.putCandidates v).pageHeld = s.pageHeld := (rfl)
@[simp] theorem State.putCandidates_pages : (s.putCandidates v).pages = s.pages := (rfl)
@[simp] theorem State.putCandidates_sparedRows : (s.putCandidates v).sparedRows = s.sparedRows := (rfl)
@[simp] theorem State.putCandidates_patrolAt : (s.putCandidates v).patrolAt = s.patrolAt := (rfl)
@[simp] theorem State.putCandidates_sramAt : (s.putCandidates v).sramAt = s.sramAt := (rfl)
@[simp] theorem State.putCandidates_selfRefresh : (s.putCandidates v).selfRefresh = s.selfRefresh := (rfl)
@[simp] theorem State.putCandidates_refreshing : (s.putCandidates v).refreshing = s.refreshing := (rfl)
@[simp] theorem State.putCandidates_sessions : (s.putCandidates v).sessions = s.sessions := (rfl)
@[simp] theorem State.putCandidates_hpActive : (s.putCandidates v).hpActive = s.hpActive := (rfl)
@[simp] theorem State.putCandidates_hpApply : (s.putCandidates v).hpApply = s.hpApply := (rfl)
@[simp] theorem State.putCandidates_hostLink : (s.putCandidates v).hostLink = s.hostLink := (rfl)
@[simp] theorem State.putCandidates_zctWait : (s.putCandidates v).zctWait = s.zctWait := (rfl)
@[simp] theorem State.putCandidates_flash : (s.putCandidates v).flash = s.flash := (rfl)
@[simp] theorem State.putCandidates_bootSlots : (s.putCandidates v).bootSlots = s.bootSlots := (rfl)
@[simp] theorem State.putCandidates_cert : (s.putCandidates v).cert = s.cert := (rfl)
@[simp] theorem State.putCandidates_jorou : (s.putCandidates v).jorou = s.jorou := (rfl)
@[simp] theorem State.putCandidates_wear : (s.putCandidates v).wear = s.wear := (rfl)
@[simp] theorem State.putCandidates_ledger : (s.putCandidates v).ledger = s.ledger := (rfl)
@[simp] theorem State.putCandidates_resetOp : (s.putCandidates v).reset? = s.reset? := (rfl)
@[simp] theorem State.putCandidates_resetQ : (s.putCandidates v).resetQ = s.resetQ := (rfl)
@[simp] theorem State.putCandidates_resetsDone : (s.putCandidates v).resetsDone = s.resetsDone := (rfl)
@[simp] theorem State.putCandidates_captures : (s.putCandidates v).captures = s.captures := (rfl)
@[simp] theorem State.putCandidates_capture : (s.putCandidates v).capture = s.capture := (rfl)
@[simp] theorem State.putCandidates_capQ : (s.putCandidates v).capQ = s.capQ := (rfl)
@[simp] theorem State.putCandidates_scan : (s.putCandidates v).scan = s.scan := (rfl)
@[simp] theorem State.putCandidates_hangs : (s.putCandidates v).hangs = s.hangs := (rfl)
@[simp] theorem State.putCandidates_stalls : (s.putCandidates v).stalls = s.stalls := (rfl)
@[simp] theorem State.putCandidates_power : (s.putCandidates v).power = s.power := (rfl)
@[simp] theorem State.putCandidates_wb : (s.putCandidates v).wb = s.wb := (rfl)
end

section
variable (s : State) (v : List (Nat × List Item))
@[simp] theorem State.putInboxes_pending : (s.putInboxes v).pending = s.pending := (rfl)
@[simp] theorem State.putInboxes_cycle : (s.putInboxes v).cycle = s.cycle := (rfl)
@[simp] theorem State.putInboxes_grade : (s.putInboxes v).grade = s.grade := (rfl)
@[simp] theorem State.putInboxes_freeCtr : (s.putInboxes v).freeCtr = s.freeCtr := (rfl)
@[simp] theorem State.putInboxes_out : (s.putInboxes v).out = s.out := (rfl)
@[simp] theorem State.putInboxes_mem : (s.putInboxes v).mem = s.mem := (rfl)
@[simp] theorem State.putInboxes_poison : (s.putInboxes v).poison = s.poison := (rfl)
@[simp] theorem State.putInboxes_regs : (s.putInboxes v).regs = s.regs := (rfl)
@[simp] theorem State.putInboxes_ports : (s.putInboxes v).ports = s.ports := (rfl)
@[simp] theorem State.putInboxes_laneMap : (s.putInboxes v).laneMap = s.laneMap := (rfl)
@[simp] theorem State.putInboxes_mapFixed : (s.putInboxes v).mapFixed = s.mapFixed := (rfl)
@[simp] theorem State.putInboxes_slots : (s.putInboxes v).slots = s.slots := (rfl)
@[simp] theorem State.putInboxes_queues : (s.putInboxes v).queues = s.queues := (rfl)
@[simp] theorem State.putInboxes_xin : (s.putInboxes v).xin = s.xin := (rfl)
@[simp] theorem State.putInboxes_xinLast : (s.putInboxes v).xinLast = s.xinLast := (rfl)
@[simp] theorem State.putInboxes_heldCells : (s.putInboxes v).heldCells = s.heldCells := (rfl)
@[simp] theorem State.putInboxes_retiredSlots : (s.putInboxes v).retiredSlots = s.retiredSlots := (rfl)
@[simp] theorem State.putInboxes_floor : (s.putInboxes v).floor = s.floor := (rfl)
@[simp] theorem State.putInboxes_mirrors : (s.putInboxes v).mirrors = s.mirrors := (rfl)
@[simp] theorem State.putInboxes_mirrorMade : (s.putInboxes v).mirrorMade = s.mirrorMade := (rfl)
@[simp] theorem State.putInboxes_sampleNext : (s.putInboxes v).sampleNext = s.sampleNext := (rfl)
@[simp] theorem State.putInboxes_sampleRead : (s.putInboxes v).sampleRead = s.sampleRead := (rfl)
@[simp] theorem State.putInboxes_smpStart : (s.putInboxes v).smpStart = s.smpStart := (rfl)
@[simp] theorem State.putInboxes_fails : (s.putInboxes v).fails = s.fails := (rfl)
@[simp] theorem State.putInboxes_echoes : (s.putInboxes v).echoes = s.echoes := (rfl)
@[simp] theorem State.putInboxes_echoGaps : (s.putInboxes v).echoGaps = s.echoGaps := (rfl)
@[simp] theorem State.putInboxes_noReturn : (s.putInboxes v).noReturn = s.noReturn := (rfl)
@[simp] theorem State.putInboxes_tiles : (s.putInboxes v).tiles = s.tiles := (rfl)
@[simp] theorem State.putInboxes_tileMap : (s.putInboxes v).tileMap = s.tileMap := (rfl)
@[simp] theorem State.putInboxes_failedTiles : (s.putInboxes v).failedTiles = s.failedTiles := (rfl)
@[simp] theorem State.putInboxes_candidates : (s.putInboxes v).candidates = s.candidates := (rfl)
@[simp] theorem State.putInboxes_inboxes : (s.putInboxes v).inboxes = v := (rfl)
@[simp] theorem State.putInboxes_ctxs : (s.putInboxes v).ctxs = s.ctxs := (rfl)
@[simp] theorem State.putInboxes_ringPass : (s.putInboxes v).ringPass = s.ringPass := (rfl)
@[simp] theorem State.putInboxes_plans : (s.putInboxes v).plans = s.plans := (rfl)
@[simp] theorem State.putInboxes_planFp : (s.putInboxes v).planFp = s.planFp := (rfl)
@[simp] theorem State.putInboxes_groups : (s.putInboxes v).groups = s.groups := (rfl)
@[simp] theorem State.putInboxes_wmInbox : (s.putInboxes v).wmInbox = s.wmInbox := (rfl)
@[simp] theorem State.putInboxes_sets : (s.putInboxes v).sets = s.sets := (rfl)
@[simp] theorem State.putInboxes_ehts : (s.putInboxes v).ehts = s.ehts := (rfl)
@[simp] theorem State.putInboxes_expOpen : (s.putInboxes v).expOpen = s.expOpen := (rfl)
@[simp] theorem State.putInboxes_expIn : (s.putInboxes v).expIn = s.expIn := (rfl)
@[simp] theorem State.putInboxes_expWait : (s.putInboxes v).expWait = s.expWait := (rfl)
@[simp] theorem State.putInboxes_atomics : (s.putInboxes v).atomics = s.atomics := (rfl)
@[simp] theorem State.putInboxes_owners : (s.putInboxes v).owners = s.owners := (rfl)
@[simp] theorem State.putInboxes_bufs : (s.putInboxes v).bufs = s.bufs := (rfl)
@[simp] theorem State.putInboxes_pools : (s.putInboxes v).pools = s.pools := (rfl)
@[simp] theorem State.putInboxes_waiters : (s.putInboxes v).waiters = s.waiters := (rfl)
@[simp] theorem State.putInboxes_grants : (s.putInboxes v).grants = s.grants := (rfl)
@[simp] theorem State.putInboxes_rowErrs : (s.putInboxes v).rowErrs = s.rowErrs := (rfl)
@[simp] theorem State.putInboxes_pageErrs : (s.putInboxes v).pageErrs = s.pageErrs := (rfl)
@[simp] theorem State.putInboxes_pageHeld : (s.putInboxes v).pageHeld = s.pageHeld := (rfl)
@[simp] theorem State.putInboxes_pages : (s.putInboxes v).pages = s.pages := (rfl)
@[simp] theorem State.putInboxes_sparedRows : (s.putInboxes v).sparedRows = s.sparedRows := (rfl)
@[simp] theorem State.putInboxes_patrolAt : (s.putInboxes v).patrolAt = s.patrolAt := (rfl)
@[simp] theorem State.putInboxes_sramAt : (s.putInboxes v).sramAt = s.sramAt := (rfl)
@[simp] theorem State.putInboxes_selfRefresh : (s.putInboxes v).selfRefresh = s.selfRefresh := (rfl)
@[simp] theorem State.putInboxes_refreshing : (s.putInboxes v).refreshing = s.refreshing := (rfl)
@[simp] theorem State.putInboxes_sessions : (s.putInboxes v).sessions = s.sessions := (rfl)
@[simp] theorem State.putInboxes_hpActive : (s.putInboxes v).hpActive = s.hpActive := (rfl)
@[simp] theorem State.putInboxes_hpApply : (s.putInboxes v).hpApply = s.hpApply := (rfl)
@[simp] theorem State.putInboxes_hostLink : (s.putInboxes v).hostLink = s.hostLink := (rfl)
@[simp] theorem State.putInboxes_zctWait : (s.putInboxes v).zctWait = s.zctWait := (rfl)
@[simp] theorem State.putInboxes_flash : (s.putInboxes v).flash = s.flash := (rfl)
@[simp] theorem State.putInboxes_bootSlots : (s.putInboxes v).bootSlots = s.bootSlots := (rfl)
@[simp] theorem State.putInboxes_cert : (s.putInboxes v).cert = s.cert := (rfl)
@[simp] theorem State.putInboxes_jorou : (s.putInboxes v).jorou = s.jorou := (rfl)
@[simp] theorem State.putInboxes_wear : (s.putInboxes v).wear = s.wear := (rfl)
@[simp] theorem State.putInboxes_ledger : (s.putInboxes v).ledger = s.ledger := (rfl)
@[simp] theorem State.putInboxes_resetOp : (s.putInboxes v).reset? = s.reset? := (rfl)
@[simp] theorem State.putInboxes_resetQ : (s.putInboxes v).resetQ = s.resetQ := (rfl)
@[simp] theorem State.putInboxes_resetsDone : (s.putInboxes v).resetsDone = s.resetsDone := (rfl)
@[simp] theorem State.putInboxes_captures : (s.putInboxes v).captures = s.captures := (rfl)
@[simp] theorem State.putInboxes_capture : (s.putInboxes v).capture = s.capture := (rfl)
@[simp] theorem State.putInboxes_capQ : (s.putInboxes v).capQ = s.capQ := (rfl)
@[simp] theorem State.putInboxes_scan : (s.putInboxes v).scan = s.scan := (rfl)
@[simp] theorem State.putInboxes_hangs : (s.putInboxes v).hangs = s.hangs := (rfl)
@[simp] theorem State.putInboxes_stalls : (s.putInboxes v).stalls = s.stalls := (rfl)
@[simp] theorem State.putInboxes_power : (s.putInboxes v).power = s.power := (rfl)
@[simp] theorem State.putInboxes_wb : (s.putInboxes v).wb = s.wb := (rfl)
end

section
variable (s : State) (v : List (Nat × Ctx))
@[simp] theorem State.putCtxs_pending : (s.putCtxs v).pending = s.pending := (rfl)
@[simp] theorem State.putCtxs_cycle : (s.putCtxs v).cycle = s.cycle := (rfl)
@[simp] theorem State.putCtxs_grade : (s.putCtxs v).grade = s.grade := (rfl)
@[simp] theorem State.putCtxs_freeCtr : (s.putCtxs v).freeCtr = s.freeCtr := (rfl)
@[simp] theorem State.putCtxs_out : (s.putCtxs v).out = s.out := (rfl)
@[simp] theorem State.putCtxs_mem : (s.putCtxs v).mem = s.mem := (rfl)
@[simp] theorem State.putCtxs_poison : (s.putCtxs v).poison = s.poison := (rfl)
@[simp] theorem State.putCtxs_regs : (s.putCtxs v).regs = s.regs := (rfl)
@[simp] theorem State.putCtxs_ports : (s.putCtxs v).ports = s.ports := (rfl)
@[simp] theorem State.putCtxs_laneMap : (s.putCtxs v).laneMap = s.laneMap := (rfl)
@[simp] theorem State.putCtxs_mapFixed : (s.putCtxs v).mapFixed = s.mapFixed := (rfl)
@[simp] theorem State.putCtxs_slots : (s.putCtxs v).slots = s.slots := (rfl)
@[simp] theorem State.putCtxs_queues : (s.putCtxs v).queues = s.queues := (rfl)
@[simp] theorem State.putCtxs_xin : (s.putCtxs v).xin = s.xin := (rfl)
@[simp] theorem State.putCtxs_xinLast : (s.putCtxs v).xinLast = s.xinLast := (rfl)
@[simp] theorem State.putCtxs_heldCells : (s.putCtxs v).heldCells = s.heldCells := (rfl)
@[simp] theorem State.putCtxs_retiredSlots : (s.putCtxs v).retiredSlots = s.retiredSlots := (rfl)
@[simp] theorem State.putCtxs_floor : (s.putCtxs v).floor = s.floor := (rfl)
@[simp] theorem State.putCtxs_mirrors : (s.putCtxs v).mirrors = s.mirrors := (rfl)
@[simp] theorem State.putCtxs_mirrorMade : (s.putCtxs v).mirrorMade = s.mirrorMade := (rfl)
@[simp] theorem State.putCtxs_sampleNext : (s.putCtxs v).sampleNext = s.sampleNext := (rfl)
@[simp] theorem State.putCtxs_sampleRead : (s.putCtxs v).sampleRead = s.sampleRead := (rfl)
@[simp] theorem State.putCtxs_smpStart : (s.putCtxs v).smpStart = s.smpStart := (rfl)
@[simp] theorem State.putCtxs_fails : (s.putCtxs v).fails = s.fails := (rfl)
@[simp] theorem State.putCtxs_echoes : (s.putCtxs v).echoes = s.echoes := (rfl)
@[simp] theorem State.putCtxs_echoGaps : (s.putCtxs v).echoGaps = s.echoGaps := (rfl)
@[simp] theorem State.putCtxs_noReturn : (s.putCtxs v).noReturn = s.noReturn := (rfl)
@[simp] theorem State.putCtxs_tiles : (s.putCtxs v).tiles = s.tiles := (rfl)
@[simp] theorem State.putCtxs_tileMap : (s.putCtxs v).tileMap = s.tileMap := (rfl)
@[simp] theorem State.putCtxs_failedTiles : (s.putCtxs v).failedTiles = s.failedTiles := (rfl)
@[simp] theorem State.putCtxs_candidates : (s.putCtxs v).candidates = s.candidates := (rfl)
@[simp] theorem State.putCtxs_inboxes : (s.putCtxs v).inboxes = s.inboxes := (rfl)
@[simp] theorem State.putCtxs_ctxs : (s.putCtxs v).ctxs = v := (rfl)
@[simp] theorem State.putCtxs_ringPass : (s.putCtxs v).ringPass = s.ringPass := (rfl)
@[simp] theorem State.putCtxs_plans : (s.putCtxs v).plans = s.plans := (rfl)
@[simp] theorem State.putCtxs_planFp : (s.putCtxs v).planFp = s.planFp := (rfl)
@[simp] theorem State.putCtxs_groups : (s.putCtxs v).groups = s.groups := (rfl)
@[simp] theorem State.putCtxs_wmInbox : (s.putCtxs v).wmInbox = s.wmInbox := (rfl)
@[simp] theorem State.putCtxs_sets : (s.putCtxs v).sets = s.sets := (rfl)
@[simp] theorem State.putCtxs_ehts : (s.putCtxs v).ehts = s.ehts := (rfl)
@[simp] theorem State.putCtxs_expOpen : (s.putCtxs v).expOpen = s.expOpen := (rfl)
@[simp] theorem State.putCtxs_expIn : (s.putCtxs v).expIn = s.expIn := (rfl)
@[simp] theorem State.putCtxs_expWait : (s.putCtxs v).expWait = s.expWait := (rfl)
@[simp] theorem State.putCtxs_atomics : (s.putCtxs v).atomics = s.atomics := (rfl)
@[simp] theorem State.putCtxs_owners : (s.putCtxs v).owners = s.owners := (rfl)
@[simp] theorem State.putCtxs_bufs : (s.putCtxs v).bufs = s.bufs := (rfl)
@[simp] theorem State.putCtxs_pools : (s.putCtxs v).pools = s.pools := (rfl)
@[simp] theorem State.putCtxs_waiters : (s.putCtxs v).waiters = s.waiters := (rfl)
@[simp] theorem State.putCtxs_grants : (s.putCtxs v).grants = s.grants := (rfl)
@[simp] theorem State.putCtxs_rowErrs : (s.putCtxs v).rowErrs = s.rowErrs := (rfl)
@[simp] theorem State.putCtxs_pageErrs : (s.putCtxs v).pageErrs = s.pageErrs := (rfl)
@[simp] theorem State.putCtxs_pageHeld : (s.putCtxs v).pageHeld = s.pageHeld := (rfl)
@[simp] theorem State.putCtxs_pages : (s.putCtxs v).pages = s.pages := (rfl)
@[simp] theorem State.putCtxs_sparedRows : (s.putCtxs v).sparedRows = s.sparedRows := (rfl)
@[simp] theorem State.putCtxs_patrolAt : (s.putCtxs v).patrolAt = s.patrolAt := (rfl)
@[simp] theorem State.putCtxs_sramAt : (s.putCtxs v).sramAt = s.sramAt := (rfl)
@[simp] theorem State.putCtxs_selfRefresh : (s.putCtxs v).selfRefresh = s.selfRefresh := (rfl)
@[simp] theorem State.putCtxs_refreshing : (s.putCtxs v).refreshing = s.refreshing := (rfl)
@[simp] theorem State.putCtxs_sessions : (s.putCtxs v).sessions = s.sessions := (rfl)
@[simp] theorem State.putCtxs_hpActive : (s.putCtxs v).hpActive = s.hpActive := (rfl)
@[simp] theorem State.putCtxs_hpApply : (s.putCtxs v).hpApply = s.hpApply := (rfl)
@[simp] theorem State.putCtxs_hostLink : (s.putCtxs v).hostLink = s.hostLink := (rfl)
@[simp] theorem State.putCtxs_zctWait : (s.putCtxs v).zctWait = s.zctWait := (rfl)
@[simp] theorem State.putCtxs_flash : (s.putCtxs v).flash = s.flash := (rfl)
@[simp] theorem State.putCtxs_bootSlots : (s.putCtxs v).bootSlots = s.bootSlots := (rfl)
@[simp] theorem State.putCtxs_cert : (s.putCtxs v).cert = s.cert := (rfl)
@[simp] theorem State.putCtxs_jorou : (s.putCtxs v).jorou = s.jorou := (rfl)
@[simp] theorem State.putCtxs_wear : (s.putCtxs v).wear = s.wear := (rfl)
@[simp] theorem State.putCtxs_ledger : (s.putCtxs v).ledger = s.ledger := (rfl)
@[simp] theorem State.putCtxs_resetOp : (s.putCtxs v).reset? = s.reset? := (rfl)
@[simp] theorem State.putCtxs_resetQ : (s.putCtxs v).resetQ = s.resetQ := (rfl)
@[simp] theorem State.putCtxs_resetsDone : (s.putCtxs v).resetsDone = s.resetsDone := (rfl)
@[simp] theorem State.putCtxs_captures : (s.putCtxs v).captures = s.captures := (rfl)
@[simp] theorem State.putCtxs_capture : (s.putCtxs v).capture = s.capture := (rfl)
@[simp] theorem State.putCtxs_capQ : (s.putCtxs v).capQ = s.capQ := (rfl)
@[simp] theorem State.putCtxs_scan : (s.putCtxs v).scan = s.scan := (rfl)
@[simp] theorem State.putCtxs_hangs : (s.putCtxs v).hangs = s.hangs := (rfl)
@[simp] theorem State.putCtxs_stalls : (s.putCtxs v).stalls = s.stalls := (rfl)
@[simp] theorem State.putCtxs_power : (s.putCtxs v).power = s.power := (rfl)
@[simp] theorem State.putCtxs_wb : (s.putCtxs v).wb = s.wb := (rfl)
end

section
variable (s : State) (v : Nat)
@[simp] theorem State.putRingPass_pending : (s.putRingPass v).pending = s.pending := (rfl)
@[simp] theorem State.putRingPass_cycle : (s.putRingPass v).cycle = s.cycle := (rfl)
@[simp] theorem State.putRingPass_grade : (s.putRingPass v).grade = s.grade := (rfl)
@[simp] theorem State.putRingPass_freeCtr : (s.putRingPass v).freeCtr = s.freeCtr := (rfl)
@[simp] theorem State.putRingPass_out : (s.putRingPass v).out = s.out := (rfl)
@[simp] theorem State.putRingPass_mem : (s.putRingPass v).mem = s.mem := (rfl)
@[simp] theorem State.putRingPass_poison : (s.putRingPass v).poison = s.poison := (rfl)
@[simp] theorem State.putRingPass_regs : (s.putRingPass v).regs = s.regs := (rfl)
@[simp] theorem State.putRingPass_ports : (s.putRingPass v).ports = s.ports := (rfl)
@[simp] theorem State.putRingPass_laneMap : (s.putRingPass v).laneMap = s.laneMap := (rfl)
@[simp] theorem State.putRingPass_mapFixed : (s.putRingPass v).mapFixed = s.mapFixed := (rfl)
@[simp] theorem State.putRingPass_slots : (s.putRingPass v).slots = s.slots := (rfl)
@[simp] theorem State.putRingPass_queues : (s.putRingPass v).queues = s.queues := (rfl)
@[simp] theorem State.putRingPass_xin : (s.putRingPass v).xin = s.xin := (rfl)
@[simp] theorem State.putRingPass_xinLast : (s.putRingPass v).xinLast = s.xinLast := (rfl)
@[simp] theorem State.putRingPass_heldCells : (s.putRingPass v).heldCells = s.heldCells := (rfl)
@[simp] theorem State.putRingPass_retiredSlots : (s.putRingPass v).retiredSlots = s.retiredSlots := (rfl)
@[simp] theorem State.putRingPass_floor : (s.putRingPass v).floor = s.floor := (rfl)
@[simp] theorem State.putRingPass_mirrors : (s.putRingPass v).mirrors = s.mirrors := (rfl)
@[simp] theorem State.putRingPass_mirrorMade : (s.putRingPass v).mirrorMade = s.mirrorMade := (rfl)
@[simp] theorem State.putRingPass_sampleNext : (s.putRingPass v).sampleNext = s.sampleNext := (rfl)
@[simp] theorem State.putRingPass_sampleRead : (s.putRingPass v).sampleRead = s.sampleRead := (rfl)
@[simp] theorem State.putRingPass_smpStart : (s.putRingPass v).smpStart = s.smpStart := (rfl)
@[simp] theorem State.putRingPass_fails : (s.putRingPass v).fails = s.fails := (rfl)
@[simp] theorem State.putRingPass_echoes : (s.putRingPass v).echoes = s.echoes := (rfl)
@[simp] theorem State.putRingPass_echoGaps : (s.putRingPass v).echoGaps = s.echoGaps := (rfl)
@[simp] theorem State.putRingPass_noReturn : (s.putRingPass v).noReturn = s.noReturn := (rfl)
@[simp] theorem State.putRingPass_tiles : (s.putRingPass v).tiles = s.tiles := (rfl)
@[simp] theorem State.putRingPass_tileMap : (s.putRingPass v).tileMap = s.tileMap := (rfl)
@[simp] theorem State.putRingPass_failedTiles : (s.putRingPass v).failedTiles = s.failedTiles := (rfl)
@[simp] theorem State.putRingPass_candidates : (s.putRingPass v).candidates = s.candidates := (rfl)
@[simp] theorem State.putRingPass_inboxes : (s.putRingPass v).inboxes = s.inboxes := (rfl)
@[simp] theorem State.putRingPass_ctxs : (s.putRingPass v).ctxs = s.ctxs := (rfl)
@[simp] theorem State.putRingPass_ringPass : (s.putRingPass v).ringPass = v := (rfl)
@[simp] theorem State.putRingPass_plans : (s.putRingPass v).plans = s.plans := (rfl)
@[simp] theorem State.putRingPass_planFp : (s.putRingPass v).planFp = s.planFp := (rfl)
@[simp] theorem State.putRingPass_groups : (s.putRingPass v).groups = s.groups := (rfl)
@[simp] theorem State.putRingPass_wmInbox : (s.putRingPass v).wmInbox = s.wmInbox := (rfl)
@[simp] theorem State.putRingPass_sets : (s.putRingPass v).sets = s.sets := (rfl)
@[simp] theorem State.putRingPass_ehts : (s.putRingPass v).ehts = s.ehts := (rfl)
@[simp] theorem State.putRingPass_expOpen : (s.putRingPass v).expOpen = s.expOpen := (rfl)
@[simp] theorem State.putRingPass_expIn : (s.putRingPass v).expIn = s.expIn := (rfl)
@[simp] theorem State.putRingPass_expWait : (s.putRingPass v).expWait = s.expWait := (rfl)
@[simp] theorem State.putRingPass_atomics : (s.putRingPass v).atomics = s.atomics := (rfl)
@[simp] theorem State.putRingPass_owners : (s.putRingPass v).owners = s.owners := (rfl)
@[simp] theorem State.putRingPass_bufs : (s.putRingPass v).bufs = s.bufs := (rfl)
@[simp] theorem State.putRingPass_pools : (s.putRingPass v).pools = s.pools := (rfl)
@[simp] theorem State.putRingPass_waiters : (s.putRingPass v).waiters = s.waiters := (rfl)
@[simp] theorem State.putRingPass_grants : (s.putRingPass v).grants = s.grants := (rfl)
@[simp] theorem State.putRingPass_rowErrs : (s.putRingPass v).rowErrs = s.rowErrs := (rfl)
@[simp] theorem State.putRingPass_pageErrs : (s.putRingPass v).pageErrs = s.pageErrs := (rfl)
@[simp] theorem State.putRingPass_pageHeld : (s.putRingPass v).pageHeld = s.pageHeld := (rfl)
@[simp] theorem State.putRingPass_pages : (s.putRingPass v).pages = s.pages := (rfl)
@[simp] theorem State.putRingPass_sparedRows : (s.putRingPass v).sparedRows = s.sparedRows := (rfl)
@[simp] theorem State.putRingPass_patrolAt : (s.putRingPass v).patrolAt = s.patrolAt := (rfl)
@[simp] theorem State.putRingPass_sramAt : (s.putRingPass v).sramAt = s.sramAt := (rfl)
@[simp] theorem State.putRingPass_selfRefresh : (s.putRingPass v).selfRefresh = s.selfRefresh := (rfl)
@[simp] theorem State.putRingPass_refreshing : (s.putRingPass v).refreshing = s.refreshing := (rfl)
@[simp] theorem State.putRingPass_sessions : (s.putRingPass v).sessions = s.sessions := (rfl)
@[simp] theorem State.putRingPass_hpActive : (s.putRingPass v).hpActive = s.hpActive := (rfl)
@[simp] theorem State.putRingPass_hpApply : (s.putRingPass v).hpApply = s.hpApply := (rfl)
@[simp] theorem State.putRingPass_hostLink : (s.putRingPass v).hostLink = s.hostLink := (rfl)
@[simp] theorem State.putRingPass_zctWait : (s.putRingPass v).zctWait = s.zctWait := (rfl)
@[simp] theorem State.putRingPass_flash : (s.putRingPass v).flash = s.flash := (rfl)
@[simp] theorem State.putRingPass_bootSlots : (s.putRingPass v).bootSlots = s.bootSlots := (rfl)
@[simp] theorem State.putRingPass_cert : (s.putRingPass v).cert = s.cert := (rfl)
@[simp] theorem State.putRingPass_jorou : (s.putRingPass v).jorou = s.jorou := (rfl)
@[simp] theorem State.putRingPass_wear : (s.putRingPass v).wear = s.wear := (rfl)
@[simp] theorem State.putRingPass_ledger : (s.putRingPass v).ledger = s.ledger := (rfl)
@[simp] theorem State.putRingPass_resetOp : (s.putRingPass v).reset? = s.reset? := (rfl)
@[simp] theorem State.putRingPass_resetQ : (s.putRingPass v).resetQ = s.resetQ := (rfl)
@[simp] theorem State.putRingPass_resetsDone : (s.putRingPass v).resetsDone = s.resetsDone := (rfl)
@[simp] theorem State.putRingPass_captures : (s.putRingPass v).captures = s.captures := (rfl)
@[simp] theorem State.putRingPass_capture : (s.putRingPass v).capture = s.capture := (rfl)
@[simp] theorem State.putRingPass_capQ : (s.putRingPass v).capQ = s.capQ := (rfl)
@[simp] theorem State.putRingPass_scan : (s.putRingPass v).scan = s.scan := (rfl)
@[simp] theorem State.putRingPass_hangs : (s.putRingPass v).hangs = s.hangs := (rfl)
@[simp] theorem State.putRingPass_stalls : (s.putRingPass v).stalls = s.stalls := (rfl)
@[simp] theorem State.putRingPass_power : (s.putRingPass v).power = s.power := (rfl)
@[simp] theorem State.putRingPass_wb : (s.putRingPass v).wb = s.wb := (rfl)
end

section
variable (s : State) (v : List (Nat × Plan))
@[simp] theorem State.putPlans_pending : (s.putPlans v).pending = s.pending := (rfl)
@[simp] theorem State.putPlans_cycle : (s.putPlans v).cycle = s.cycle := (rfl)
@[simp] theorem State.putPlans_grade : (s.putPlans v).grade = s.grade := (rfl)
@[simp] theorem State.putPlans_freeCtr : (s.putPlans v).freeCtr = s.freeCtr := (rfl)
@[simp] theorem State.putPlans_out : (s.putPlans v).out = s.out := (rfl)
@[simp] theorem State.putPlans_mem : (s.putPlans v).mem = s.mem := (rfl)
@[simp] theorem State.putPlans_poison : (s.putPlans v).poison = s.poison := (rfl)
@[simp] theorem State.putPlans_regs : (s.putPlans v).regs = s.regs := (rfl)
@[simp] theorem State.putPlans_ports : (s.putPlans v).ports = s.ports := (rfl)
@[simp] theorem State.putPlans_laneMap : (s.putPlans v).laneMap = s.laneMap := (rfl)
@[simp] theorem State.putPlans_mapFixed : (s.putPlans v).mapFixed = s.mapFixed := (rfl)
@[simp] theorem State.putPlans_slots : (s.putPlans v).slots = s.slots := (rfl)
@[simp] theorem State.putPlans_queues : (s.putPlans v).queues = s.queues := (rfl)
@[simp] theorem State.putPlans_xin : (s.putPlans v).xin = s.xin := (rfl)
@[simp] theorem State.putPlans_xinLast : (s.putPlans v).xinLast = s.xinLast := (rfl)
@[simp] theorem State.putPlans_heldCells : (s.putPlans v).heldCells = s.heldCells := (rfl)
@[simp] theorem State.putPlans_retiredSlots : (s.putPlans v).retiredSlots = s.retiredSlots := (rfl)
@[simp] theorem State.putPlans_floor : (s.putPlans v).floor = s.floor := (rfl)
@[simp] theorem State.putPlans_mirrors : (s.putPlans v).mirrors = s.mirrors := (rfl)
@[simp] theorem State.putPlans_mirrorMade : (s.putPlans v).mirrorMade = s.mirrorMade := (rfl)
@[simp] theorem State.putPlans_sampleNext : (s.putPlans v).sampleNext = s.sampleNext := (rfl)
@[simp] theorem State.putPlans_sampleRead : (s.putPlans v).sampleRead = s.sampleRead := (rfl)
@[simp] theorem State.putPlans_smpStart : (s.putPlans v).smpStart = s.smpStart := (rfl)
@[simp] theorem State.putPlans_fails : (s.putPlans v).fails = s.fails := (rfl)
@[simp] theorem State.putPlans_echoes : (s.putPlans v).echoes = s.echoes := (rfl)
@[simp] theorem State.putPlans_echoGaps : (s.putPlans v).echoGaps = s.echoGaps := (rfl)
@[simp] theorem State.putPlans_noReturn : (s.putPlans v).noReturn = s.noReturn := (rfl)
@[simp] theorem State.putPlans_tiles : (s.putPlans v).tiles = s.tiles := (rfl)
@[simp] theorem State.putPlans_tileMap : (s.putPlans v).tileMap = s.tileMap := (rfl)
@[simp] theorem State.putPlans_failedTiles : (s.putPlans v).failedTiles = s.failedTiles := (rfl)
@[simp] theorem State.putPlans_candidates : (s.putPlans v).candidates = s.candidates := (rfl)
@[simp] theorem State.putPlans_inboxes : (s.putPlans v).inboxes = s.inboxes := (rfl)
@[simp] theorem State.putPlans_ctxs : (s.putPlans v).ctxs = s.ctxs := (rfl)
@[simp] theorem State.putPlans_ringPass : (s.putPlans v).ringPass = s.ringPass := (rfl)
@[simp] theorem State.putPlans_plans : (s.putPlans v).plans = v := (rfl)
@[simp] theorem State.putPlans_planFp : (s.putPlans v).planFp = s.planFp := (rfl)
@[simp] theorem State.putPlans_groups : (s.putPlans v).groups = s.groups := (rfl)
@[simp] theorem State.putPlans_wmInbox : (s.putPlans v).wmInbox = s.wmInbox := (rfl)
@[simp] theorem State.putPlans_sets : (s.putPlans v).sets = s.sets := (rfl)
@[simp] theorem State.putPlans_ehts : (s.putPlans v).ehts = s.ehts := (rfl)
@[simp] theorem State.putPlans_expOpen : (s.putPlans v).expOpen = s.expOpen := (rfl)
@[simp] theorem State.putPlans_expIn : (s.putPlans v).expIn = s.expIn := (rfl)
@[simp] theorem State.putPlans_expWait : (s.putPlans v).expWait = s.expWait := (rfl)
@[simp] theorem State.putPlans_atomics : (s.putPlans v).atomics = s.atomics := (rfl)
@[simp] theorem State.putPlans_owners : (s.putPlans v).owners = s.owners := (rfl)
@[simp] theorem State.putPlans_bufs : (s.putPlans v).bufs = s.bufs := (rfl)
@[simp] theorem State.putPlans_pools : (s.putPlans v).pools = s.pools := (rfl)
@[simp] theorem State.putPlans_waiters : (s.putPlans v).waiters = s.waiters := (rfl)
@[simp] theorem State.putPlans_grants : (s.putPlans v).grants = s.grants := (rfl)
@[simp] theorem State.putPlans_rowErrs : (s.putPlans v).rowErrs = s.rowErrs := (rfl)
@[simp] theorem State.putPlans_pageErrs : (s.putPlans v).pageErrs = s.pageErrs := (rfl)
@[simp] theorem State.putPlans_pageHeld : (s.putPlans v).pageHeld = s.pageHeld := (rfl)
@[simp] theorem State.putPlans_pages : (s.putPlans v).pages = s.pages := (rfl)
@[simp] theorem State.putPlans_sparedRows : (s.putPlans v).sparedRows = s.sparedRows := (rfl)
@[simp] theorem State.putPlans_patrolAt : (s.putPlans v).patrolAt = s.patrolAt := (rfl)
@[simp] theorem State.putPlans_sramAt : (s.putPlans v).sramAt = s.sramAt := (rfl)
@[simp] theorem State.putPlans_selfRefresh : (s.putPlans v).selfRefresh = s.selfRefresh := (rfl)
@[simp] theorem State.putPlans_refreshing : (s.putPlans v).refreshing = s.refreshing := (rfl)
@[simp] theorem State.putPlans_sessions : (s.putPlans v).sessions = s.sessions := (rfl)
@[simp] theorem State.putPlans_hpActive : (s.putPlans v).hpActive = s.hpActive := (rfl)
@[simp] theorem State.putPlans_hpApply : (s.putPlans v).hpApply = s.hpApply := (rfl)
@[simp] theorem State.putPlans_hostLink : (s.putPlans v).hostLink = s.hostLink := (rfl)
@[simp] theorem State.putPlans_zctWait : (s.putPlans v).zctWait = s.zctWait := (rfl)
@[simp] theorem State.putPlans_flash : (s.putPlans v).flash = s.flash := (rfl)
@[simp] theorem State.putPlans_bootSlots : (s.putPlans v).bootSlots = s.bootSlots := (rfl)
@[simp] theorem State.putPlans_cert : (s.putPlans v).cert = s.cert := (rfl)
@[simp] theorem State.putPlans_jorou : (s.putPlans v).jorou = s.jorou := (rfl)
@[simp] theorem State.putPlans_wear : (s.putPlans v).wear = s.wear := (rfl)
@[simp] theorem State.putPlans_ledger : (s.putPlans v).ledger = s.ledger := (rfl)
@[simp] theorem State.putPlans_resetOp : (s.putPlans v).reset? = s.reset? := (rfl)
@[simp] theorem State.putPlans_resetQ : (s.putPlans v).resetQ = s.resetQ := (rfl)
@[simp] theorem State.putPlans_resetsDone : (s.putPlans v).resetsDone = s.resetsDone := (rfl)
@[simp] theorem State.putPlans_captures : (s.putPlans v).captures = s.captures := (rfl)
@[simp] theorem State.putPlans_capture : (s.putPlans v).capture = s.capture := (rfl)
@[simp] theorem State.putPlans_capQ : (s.putPlans v).capQ = s.capQ := (rfl)
@[simp] theorem State.putPlans_scan : (s.putPlans v).scan = s.scan := (rfl)
@[simp] theorem State.putPlans_hangs : (s.putPlans v).hangs = s.hangs := (rfl)
@[simp] theorem State.putPlans_stalls : (s.putPlans v).stalls = s.stalls := (rfl)
@[simp] theorem State.putPlans_power : (s.putPlans v).power = s.power := (rfl)
@[simp] theorem State.putPlans_wb : (s.putPlans v).wb = s.wb := (rfl)
end

section
variable (s : State) (v : List Byte)
@[simp] theorem State.putPlanFp_pending : (s.putPlanFp v).pending = s.pending := (rfl)
@[simp] theorem State.putPlanFp_cycle : (s.putPlanFp v).cycle = s.cycle := (rfl)
@[simp] theorem State.putPlanFp_grade : (s.putPlanFp v).grade = s.grade := (rfl)
@[simp] theorem State.putPlanFp_freeCtr : (s.putPlanFp v).freeCtr = s.freeCtr := (rfl)
@[simp] theorem State.putPlanFp_out : (s.putPlanFp v).out = s.out := (rfl)
@[simp] theorem State.putPlanFp_mem : (s.putPlanFp v).mem = s.mem := (rfl)
@[simp] theorem State.putPlanFp_poison : (s.putPlanFp v).poison = s.poison := (rfl)
@[simp] theorem State.putPlanFp_regs : (s.putPlanFp v).regs = s.regs := (rfl)
@[simp] theorem State.putPlanFp_ports : (s.putPlanFp v).ports = s.ports := (rfl)
@[simp] theorem State.putPlanFp_laneMap : (s.putPlanFp v).laneMap = s.laneMap := (rfl)
@[simp] theorem State.putPlanFp_mapFixed : (s.putPlanFp v).mapFixed = s.mapFixed := (rfl)
@[simp] theorem State.putPlanFp_slots : (s.putPlanFp v).slots = s.slots := (rfl)
@[simp] theorem State.putPlanFp_queues : (s.putPlanFp v).queues = s.queues := (rfl)
@[simp] theorem State.putPlanFp_xin : (s.putPlanFp v).xin = s.xin := (rfl)
@[simp] theorem State.putPlanFp_xinLast : (s.putPlanFp v).xinLast = s.xinLast := (rfl)
@[simp] theorem State.putPlanFp_heldCells : (s.putPlanFp v).heldCells = s.heldCells := (rfl)
@[simp] theorem State.putPlanFp_retiredSlots : (s.putPlanFp v).retiredSlots = s.retiredSlots := (rfl)
@[simp] theorem State.putPlanFp_floor : (s.putPlanFp v).floor = s.floor := (rfl)
@[simp] theorem State.putPlanFp_mirrors : (s.putPlanFp v).mirrors = s.mirrors := (rfl)
@[simp] theorem State.putPlanFp_mirrorMade : (s.putPlanFp v).mirrorMade = s.mirrorMade := (rfl)
@[simp] theorem State.putPlanFp_sampleNext : (s.putPlanFp v).sampleNext = s.sampleNext := (rfl)
@[simp] theorem State.putPlanFp_sampleRead : (s.putPlanFp v).sampleRead = s.sampleRead := (rfl)
@[simp] theorem State.putPlanFp_smpStart : (s.putPlanFp v).smpStart = s.smpStart := (rfl)
@[simp] theorem State.putPlanFp_fails : (s.putPlanFp v).fails = s.fails := (rfl)
@[simp] theorem State.putPlanFp_echoes : (s.putPlanFp v).echoes = s.echoes := (rfl)
@[simp] theorem State.putPlanFp_echoGaps : (s.putPlanFp v).echoGaps = s.echoGaps := (rfl)
@[simp] theorem State.putPlanFp_noReturn : (s.putPlanFp v).noReturn = s.noReturn := (rfl)
@[simp] theorem State.putPlanFp_tiles : (s.putPlanFp v).tiles = s.tiles := (rfl)
@[simp] theorem State.putPlanFp_tileMap : (s.putPlanFp v).tileMap = s.tileMap := (rfl)
@[simp] theorem State.putPlanFp_failedTiles : (s.putPlanFp v).failedTiles = s.failedTiles := (rfl)
@[simp] theorem State.putPlanFp_candidates : (s.putPlanFp v).candidates = s.candidates := (rfl)
@[simp] theorem State.putPlanFp_inboxes : (s.putPlanFp v).inboxes = s.inboxes := (rfl)
@[simp] theorem State.putPlanFp_ctxs : (s.putPlanFp v).ctxs = s.ctxs := (rfl)
@[simp] theorem State.putPlanFp_ringPass : (s.putPlanFp v).ringPass = s.ringPass := (rfl)
@[simp] theorem State.putPlanFp_plans : (s.putPlanFp v).plans = s.plans := (rfl)
@[simp] theorem State.putPlanFp_planFp : (s.putPlanFp v).planFp = v := (rfl)
@[simp] theorem State.putPlanFp_groups : (s.putPlanFp v).groups = s.groups := (rfl)
@[simp] theorem State.putPlanFp_wmInbox : (s.putPlanFp v).wmInbox = s.wmInbox := (rfl)
@[simp] theorem State.putPlanFp_sets : (s.putPlanFp v).sets = s.sets := (rfl)
@[simp] theorem State.putPlanFp_ehts : (s.putPlanFp v).ehts = s.ehts := (rfl)
@[simp] theorem State.putPlanFp_expOpen : (s.putPlanFp v).expOpen = s.expOpen := (rfl)
@[simp] theorem State.putPlanFp_expIn : (s.putPlanFp v).expIn = s.expIn := (rfl)
@[simp] theorem State.putPlanFp_expWait : (s.putPlanFp v).expWait = s.expWait := (rfl)
@[simp] theorem State.putPlanFp_atomics : (s.putPlanFp v).atomics = s.atomics := (rfl)
@[simp] theorem State.putPlanFp_owners : (s.putPlanFp v).owners = s.owners := (rfl)
@[simp] theorem State.putPlanFp_bufs : (s.putPlanFp v).bufs = s.bufs := (rfl)
@[simp] theorem State.putPlanFp_pools : (s.putPlanFp v).pools = s.pools := (rfl)
@[simp] theorem State.putPlanFp_waiters : (s.putPlanFp v).waiters = s.waiters := (rfl)
@[simp] theorem State.putPlanFp_grants : (s.putPlanFp v).grants = s.grants := (rfl)
@[simp] theorem State.putPlanFp_rowErrs : (s.putPlanFp v).rowErrs = s.rowErrs := (rfl)
@[simp] theorem State.putPlanFp_pageErrs : (s.putPlanFp v).pageErrs = s.pageErrs := (rfl)
@[simp] theorem State.putPlanFp_pageHeld : (s.putPlanFp v).pageHeld = s.pageHeld := (rfl)
@[simp] theorem State.putPlanFp_pages : (s.putPlanFp v).pages = s.pages := (rfl)
@[simp] theorem State.putPlanFp_sparedRows : (s.putPlanFp v).sparedRows = s.sparedRows := (rfl)
@[simp] theorem State.putPlanFp_patrolAt : (s.putPlanFp v).patrolAt = s.patrolAt := (rfl)
@[simp] theorem State.putPlanFp_sramAt : (s.putPlanFp v).sramAt = s.sramAt := (rfl)
@[simp] theorem State.putPlanFp_selfRefresh : (s.putPlanFp v).selfRefresh = s.selfRefresh := (rfl)
@[simp] theorem State.putPlanFp_refreshing : (s.putPlanFp v).refreshing = s.refreshing := (rfl)
@[simp] theorem State.putPlanFp_sessions : (s.putPlanFp v).sessions = s.sessions := (rfl)
@[simp] theorem State.putPlanFp_hpActive : (s.putPlanFp v).hpActive = s.hpActive := (rfl)
@[simp] theorem State.putPlanFp_hpApply : (s.putPlanFp v).hpApply = s.hpApply := (rfl)
@[simp] theorem State.putPlanFp_hostLink : (s.putPlanFp v).hostLink = s.hostLink := (rfl)
@[simp] theorem State.putPlanFp_zctWait : (s.putPlanFp v).zctWait = s.zctWait := (rfl)
@[simp] theorem State.putPlanFp_flash : (s.putPlanFp v).flash = s.flash := (rfl)
@[simp] theorem State.putPlanFp_bootSlots : (s.putPlanFp v).bootSlots = s.bootSlots := (rfl)
@[simp] theorem State.putPlanFp_cert : (s.putPlanFp v).cert = s.cert := (rfl)
@[simp] theorem State.putPlanFp_jorou : (s.putPlanFp v).jorou = s.jorou := (rfl)
@[simp] theorem State.putPlanFp_wear : (s.putPlanFp v).wear = s.wear := (rfl)
@[simp] theorem State.putPlanFp_ledger : (s.putPlanFp v).ledger = s.ledger := (rfl)
@[simp] theorem State.putPlanFp_resetOp : (s.putPlanFp v).reset? = s.reset? := (rfl)
@[simp] theorem State.putPlanFp_resetQ : (s.putPlanFp v).resetQ = s.resetQ := (rfl)
@[simp] theorem State.putPlanFp_resetsDone : (s.putPlanFp v).resetsDone = s.resetsDone := (rfl)
@[simp] theorem State.putPlanFp_captures : (s.putPlanFp v).captures = s.captures := (rfl)
@[simp] theorem State.putPlanFp_capture : (s.putPlanFp v).capture = s.capture := (rfl)
@[simp] theorem State.putPlanFp_capQ : (s.putPlanFp v).capQ = s.capQ := (rfl)
@[simp] theorem State.putPlanFp_scan : (s.putPlanFp v).scan = s.scan := (rfl)
@[simp] theorem State.putPlanFp_hangs : (s.putPlanFp v).hangs = s.hangs := (rfl)
@[simp] theorem State.putPlanFp_stalls : (s.putPlanFp v).stalls = s.stalls := (rfl)
@[simp] theorem State.putPlanFp_power : (s.putPlanFp v).power = s.power := (rfl)
@[simp] theorem State.putPlanFp_wb : (s.putPlanFp v).wb = s.wb := (rfl)
end

section
variable (s : State) (v : List (Nat × Group))
@[simp] theorem State.putGroups_pending : (s.putGroups v).pending = s.pending := (rfl)
@[simp] theorem State.putGroups_cycle : (s.putGroups v).cycle = s.cycle := (rfl)
@[simp] theorem State.putGroups_grade : (s.putGroups v).grade = s.grade := (rfl)
@[simp] theorem State.putGroups_freeCtr : (s.putGroups v).freeCtr = s.freeCtr := (rfl)
@[simp] theorem State.putGroups_out : (s.putGroups v).out = s.out := (rfl)
@[simp] theorem State.putGroups_mem : (s.putGroups v).mem = s.mem := (rfl)
@[simp] theorem State.putGroups_poison : (s.putGroups v).poison = s.poison := (rfl)
@[simp] theorem State.putGroups_regs : (s.putGroups v).regs = s.regs := (rfl)
@[simp] theorem State.putGroups_ports : (s.putGroups v).ports = s.ports := (rfl)
@[simp] theorem State.putGroups_laneMap : (s.putGroups v).laneMap = s.laneMap := (rfl)
@[simp] theorem State.putGroups_mapFixed : (s.putGroups v).mapFixed = s.mapFixed := (rfl)
@[simp] theorem State.putGroups_slots : (s.putGroups v).slots = s.slots := (rfl)
@[simp] theorem State.putGroups_queues : (s.putGroups v).queues = s.queues := (rfl)
@[simp] theorem State.putGroups_xin : (s.putGroups v).xin = s.xin := (rfl)
@[simp] theorem State.putGroups_xinLast : (s.putGroups v).xinLast = s.xinLast := (rfl)
@[simp] theorem State.putGroups_heldCells : (s.putGroups v).heldCells = s.heldCells := (rfl)
@[simp] theorem State.putGroups_retiredSlots : (s.putGroups v).retiredSlots = s.retiredSlots := (rfl)
@[simp] theorem State.putGroups_floor : (s.putGroups v).floor = s.floor := (rfl)
@[simp] theorem State.putGroups_mirrors : (s.putGroups v).mirrors = s.mirrors := (rfl)
@[simp] theorem State.putGroups_mirrorMade : (s.putGroups v).mirrorMade = s.mirrorMade := (rfl)
@[simp] theorem State.putGroups_sampleNext : (s.putGroups v).sampleNext = s.sampleNext := (rfl)
@[simp] theorem State.putGroups_sampleRead : (s.putGroups v).sampleRead = s.sampleRead := (rfl)
@[simp] theorem State.putGroups_smpStart : (s.putGroups v).smpStart = s.smpStart := (rfl)
@[simp] theorem State.putGroups_fails : (s.putGroups v).fails = s.fails := (rfl)
@[simp] theorem State.putGroups_echoes : (s.putGroups v).echoes = s.echoes := (rfl)
@[simp] theorem State.putGroups_echoGaps : (s.putGroups v).echoGaps = s.echoGaps := (rfl)
@[simp] theorem State.putGroups_noReturn : (s.putGroups v).noReturn = s.noReturn := (rfl)
@[simp] theorem State.putGroups_tiles : (s.putGroups v).tiles = s.tiles := (rfl)
@[simp] theorem State.putGroups_tileMap : (s.putGroups v).tileMap = s.tileMap := (rfl)
@[simp] theorem State.putGroups_failedTiles : (s.putGroups v).failedTiles = s.failedTiles := (rfl)
@[simp] theorem State.putGroups_candidates : (s.putGroups v).candidates = s.candidates := (rfl)
@[simp] theorem State.putGroups_inboxes : (s.putGroups v).inboxes = s.inboxes := (rfl)
@[simp] theorem State.putGroups_ctxs : (s.putGroups v).ctxs = s.ctxs := (rfl)
@[simp] theorem State.putGroups_ringPass : (s.putGroups v).ringPass = s.ringPass := (rfl)
@[simp] theorem State.putGroups_plans : (s.putGroups v).plans = s.plans := (rfl)
@[simp] theorem State.putGroups_planFp : (s.putGroups v).planFp = s.planFp := (rfl)
@[simp] theorem State.putGroups_groups : (s.putGroups v).groups = v := (rfl)
@[simp] theorem State.putGroups_wmInbox : (s.putGroups v).wmInbox = s.wmInbox := (rfl)
@[simp] theorem State.putGroups_sets : (s.putGroups v).sets = s.sets := (rfl)
@[simp] theorem State.putGroups_ehts : (s.putGroups v).ehts = s.ehts := (rfl)
@[simp] theorem State.putGroups_expOpen : (s.putGroups v).expOpen = s.expOpen := (rfl)
@[simp] theorem State.putGroups_expIn : (s.putGroups v).expIn = s.expIn := (rfl)
@[simp] theorem State.putGroups_expWait : (s.putGroups v).expWait = s.expWait := (rfl)
@[simp] theorem State.putGroups_atomics : (s.putGroups v).atomics = s.atomics := (rfl)
@[simp] theorem State.putGroups_owners : (s.putGroups v).owners = s.owners := (rfl)
@[simp] theorem State.putGroups_bufs : (s.putGroups v).bufs = s.bufs := (rfl)
@[simp] theorem State.putGroups_pools : (s.putGroups v).pools = s.pools := (rfl)
@[simp] theorem State.putGroups_waiters : (s.putGroups v).waiters = s.waiters := (rfl)
@[simp] theorem State.putGroups_grants : (s.putGroups v).grants = s.grants := (rfl)
@[simp] theorem State.putGroups_rowErrs : (s.putGroups v).rowErrs = s.rowErrs := (rfl)
@[simp] theorem State.putGroups_pageErrs : (s.putGroups v).pageErrs = s.pageErrs := (rfl)
@[simp] theorem State.putGroups_pageHeld : (s.putGroups v).pageHeld = s.pageHeld := (rfl)
@[simp] theorem State.putGroups_pages : (s.putGroups v).pages = s.pages := (rfl)
@[simp] theorem State.putGroups_sparedRows : (s.putGroups v).sparedRows = s.sparedRows := (rfl)
@[simp] theorem State.putGroups_patrolAt : (s.putGroups v).patrolAt = s.patrolAt := (rfl)
@[simp] theorem State.putGroups_sramAt : (s.putGroups v).sramAt = s.sramAt := (rfl)
@[simp] theorem State.putGroups_selfRefresh : (s.putGroups v).selfRefresh = s.selfRefresh := (rfl)
@[simp] theorem State.putGroups_refreshing : (s.putGroups v).refreshing = s.refreshing := (rfl)
@[simp] theorem State.putGroups_sessions : (s.putGroups v).sessions = s.sessions := (rfl)
@[simp] theorem State.putGroups_hpActive : (s.putGroups v).hpActive = s.hpActive := (rfl)
@[simp] theorem State.putGroups_hpApply : (s.putGroups v).hpApply = s.hpApply := (rfl)
@[simp] theorem State.putGroups_hostLink : (s.putGroups v).hostLink = s.hostLink := (rfl)
@[simp] theorem State.putGroups_zctWait : (s.putGroups v).zctWait = s.zctWait := (rfl)
@[simp] theorem State.putGroups_flash : (s.putGroups v).flash = s.flash := (rfl)
@[simp] theorem State.putGroups_bootSlots : (s.putGroups v).bootSlots = s.bootSlots := (rfl)
@[simp] theorem State.putGroups_cert : (s.putGroups v).cert = s.cert := (rfl)
@[simp] theorem State.putGroups_jorou : (s.putGroups v).jorou = s.jorou := (rfl)
@[simp] theorem State.putGroups_wear : (s.putGroups v).wear = s.wear := (rfl)
@[simp] theorem State.putGroups_ledger : (s.putGroups v).ledger = s.ledger := (rfl)
@[simp] theorem State.putGroups_resetOp : (s.putGroups v).reset? = s.reset? := (rfl)
@[simp] theorem State.putGroups_resetQ : (s.putGroups v).resetQ = s.resetQ := (rfl)
@[simp] theorem State.putGroups_resetsDone : (s.putGroups v).resetsDone = s.resetsDone := (rfl)
@[simp] theorem State.putGroups_captures : (s.putGroups v).captures = s.captures := (rfl)
@[simp] theorem State.putGroups_capture : (s.putGroups v).capture = s.capture := (rfl)
@[simp] theorem State.putGroups_capQ : (s.putGroups v).capQ = s.capQ := (rfl)
@[simp] theorem State.putGroups_scan : (s.putGroups v).scan = s.scan := (rfl)
@[simp] theorem State.putGroups_hangs : (s.putGroups v).hangs = s.hangs := (rfl)
@[simp] theorem State.putGroups_stalls : (s.putGroups v).stalls = s.stalls := (rfl)
@[simp] theorem State.putGroups_power : (s.putGroups v).power = s.power := (rfl)
@[simp] theorem State.putGroups_wb : (s.putGroups v).wb = s.wb := (rfl)
end

section
variable (s : State) (v : List (Nat × Nat × Cell))
@[simp] theorem State.putWmInbox_pending : (s.putWmInbox v).pending = s.pending := (rfl)
@[simp] theorem State.putWmInbox_cycle : (s.putWmInbox v).cycle = s.cycle := (rfl)
@[simp] theorem State.putWmInbox_grade : (s.putWmInbox v).grade = s.grade := (rfl)
@[simp] theorem State.putWmInbox_freeCtr : (s.putWmInbox v).freeCtr = s.freeCtr := (rfl)
@[simp] theorem State.putWmInbox_out : (s.putWmInbox v).out = s.out := (rfl)
@[simp] theorem State.putWmInbox_mem : (s.putWmInbox v).mem = s.mem := (rfl)
@[simp] theorem State.putWmInbox_poison : (s.putWmInbox v).poison = s.poison := (rfl)
@[simp] theorem State.putWmInbox_regs : (s.putWmInbox v).regs = s.regs := (rfl)
@[simp] theorem State.putWmInbox_ports : (s.putWmInbox v).ports = s.ports := (rfl)
@[simp] theorem State.putWmInbox_laneMap : (s.putWmInbox v).laneMap = s.laneMap := (rfl)
@[simp] theorem State.putWmInbox_mapFixed : (s.putWmInbox v).mapFixed = s.mapFixed := (rfl)
@[simp] theorem State.putWmInbox_slots : (s.putWmInbox v).slots = s.slots := (rfl)
@[simp] theorem State.putWmInbox_queues : (s.putWmInbox v).queues = s.queues := (rfl)
@[simp] theorem State.putWmInbox_xin : (s.putWmInbox v).xin = s.xin := (rfl)
@[simp] theorem State.putWmInbox_xinLast : (s.putWmInbox v).xinLast = s.xinLast := (rfl)
@[simp] theorem State.putWmInbox_heldCells : (s.putWmInbox v).heldCells = s.heldCells := (rfl)
@[simp] theorem State.putWmInbox_retiredSlots : (s.putWmInbox v).retiredSlots = s.retiredSlots := (rfl)
@[simp] theorem State.putWmInbox_floor : (s.putWmInbox v).floor = s.floor := (rfl)
@[simp] theorem State.putWmInbox_mirrors : (s.putWmInbox v).mirrors = s.mirrors := (rfl)
@[simp] theorem State.putWmInbox_mirrorMade : (s.putWmInbox v).mirrorMade = s.mirrorMade := (rfl)
@[simp] theorem State.putWmInbox_sampleNext : (s.putWmInbox v).sampleNext = s.sampleNext := (rfl)
@[simp] theorem State.putWmInbox_sampleRead : (s.putWmInbox v).sampleRead = s.sampleRead := (rfl)
@[simp] theorem State.putWmInbox_smpStart : (s.putWmInbox v).smpStart = s.smpStart := (rfl)
@[simp] theorem State.putWmInbox_fails : (s.putWmInbox v).fails = s.fails := (rfl)
@[simp] theorem State.putWmInbox_echoes : (s.putWmInbox v).echoes = s.echoes := (rfl)
@[simp] theorem State.putWmInbox_echoGaps : (s.putWmInbox v).echoGaps = s.echoGaps := (rfl)
@[simp] theorem State.putWmInbox_noReturn : (s.putWmInbox v).noReturn = s.noReturn := (rfl)
@[simp] theorem State.putWmInbox_tiles : (s.putWmInbox v).tiles = s.tiles := (rfl)
@[simp] theorem State.putWmInbox_tileMap : (s.putWmInbox v).tileMap = s.tileMap := (rfl)
@[simp] theorem State.putWmInbox_failedTiles : (s.putWmInbox v).failedTiles = s.failedTiles := (rfl)
@[simp] theorem State.putWmInbox_candidates : (s.putWmInbox v).candidates = s.candidates := (rfl)
@[simp] theorem State.putWmInbox_inboxes : (s.putWmInbox v).inboxes = s.inboxes := (rfl)
@[simp] theorem State.putWmInbox_ctxs : (s.putWmInbox v).ctxs = s.ctxs := (rfl)
@[simp] theorem State.putWmInbox_ringPass : (s.putWmInbox v).ringPass = s.ringPass := (rfl)
@[simp] theorem State.putWmInbox_plans : (s.putWmInbox v).plans = s.plans := (rfl)
@[simp] theorem State.putWmInbox_planFp : (s.putWmInbox v).planFp = s.planFp := (rfl)
@[simp] theorem State.putWmInbox_groups : (s.putWmInbox v).groups = s.groups := (rfl)
@[simp] theorem State.putWmInbox_wmInbox : (s.putWmInbox v).wmInbox = v := (rfl)
@[simp] theorem State.putWmInbox_sets : (s.putWmInbox v).sets = s.sets := (rfl)
@[simp] theorem State.putWmInbox_ehts : (s.putWmInbox v).ehts = s.ehts := (rfl)
@[simp] theorem State.putWmInbox_expOpen : (s.putWmInbox v).expOpen = s.expOpen := (rfl)
@[simp] theorem State.putWmInbox_expIn : (s.putWmInbox v).expIn = s.expIn := (rfl)
@[simp] theorem State.putWmInbox_expWait : (s.putWmInbox v).expWait = s.expWait := (rfl)
@[simp] theorem State.putWmInbox_atomics : (s.putWmInbox v).atomics = s.atomics := (rfl)
@[simp] theorem State.putWmInbox_owners : (s.putWmInbox v).owners = s.owners := (rfl)
@[simp] theorem State.putWmInbox_bufs : (s.putWmInbox v).bufs = s.bufs := (rfl)
@[simp] theorem State.putWmInbox_pools : (s.putWmInbox v).pools = s.pools := (rfl)
@[simp] theorem State.putWmInbox_waiters : (s.putWmInbox v).waiters = s.waiters := (rfl)
@[simp] theorem State.putWmInbox_grants : (s.putWmInbox v).grants = s.grants := (rfl)
@[simp] theorem State.putWmInbox_rowErrs : (s.putWmInbox v).rowErrs = s.rowErrs := (rfl)
@[simp] theorem State.putWmInbox_pageErrs : (s.putWmInbox v).pageErrs = s.pageErrs := (rfl)
@[simp] theorem State.putWmInbox_pageHeld : (s.putWmInbox v).pageHeld = s.pageHeld := (rfl)
@[simp] theorem State.putWmInbox_pages : (s.putWmInbox v).pages = s.pages := (rfl)
@[simp] theorem State.putWmInbox_sparedRows : (s.putWmInbox v).sparedRows = s.sparedRows := (rfl)
@[simp] theorem State.putWmInbox_patrolAt : (s.putWmInbox v).patrolAt = s.patrolAt := (rfl)
@[simp] theorem State.putWmInbox_sramAt : (s.putWmInbox v).sramAt = s.sramAt := (rfl)
@[simp] theorem State.putWmInbox_selfRefresh : (s.putWmInbox v).selfRefresh = s.selfRefresh := (rfl)
@[simp] theorem State.putWmInbox_refreshing : (s.putWmInbox v).refreshing = s.refreshing := (rfl)
@[simp] theorem State.putWmInbox_sessions : (s.putWmInbox v).sessions = s.sessions := (rfl)
@[simp] theorem State.putWmInbox_hpActive : (s.putWmInbox v).hpActive = s.hpActive := (rfl)
@[simp] theorem State.putWmInbox_hpApply : (s.putWmInbox v).hpApply = s.hpApply := (rfl)
@[simp] theorem State.putWmInbox_hostLink : (s.putWmInbox v).hostLink = s.hostLink := (rfl)
@[simp] theorem State.putWmInbox_zctWait : (s.putWmInbox v).zctWait = s.zctWait := (rfl)
@[simp] theorem State.putWmInbox_flash : (s.putWmInbox v).flash = s.flash := (rfl)
@[simp] theorem State.putWmInbox_bootSlots : (s.putWmInbox v).bootSlots = s.bootSlots := (rfl)
@[simp] theorem State.putWmInbox_cert : (s.putWmInbox v).cert = s.cert := (rfl)
@[simp] theorem State.putWmInbox_jorou : (s.putWmInbox v).jorou = s.jorou := (rfl)
@[simp] theorem State.putWmInbox_wear : (s.putWmInbox v).wear = s.wear := (rfl)
@[simp] theorem State.putWmInbox_ledger : (s.putWmInbox v).ledger = s.ledger := (rfl)
@[simp] theorem State.putWmInbox_resetOp : (s.putWmInbox v).reset? = s.reset? := (rfl)
@[simp] theorem State.putWmInbox_resetQ : (s.putWmInbox v).resetQ = s.resetQ := (rfl)
@[simp] theorem State.putWmInbox_resetsDone : (s.putWmInbox v).resetsDone = s.resetsDone := (rfl)
@[simp] theorem State.putWmInbox_captures : (s.putWmInbox v).captures = s.captures := (rfl)
@[simp] theorem State.putWmInbox_capture : (s.putWmInbox v).capture = s.capture := (rfl)
@[simp] theorem State.putWmInbox_capQ : (s.putWmInbox v).capQ = s.capQ := (rfl)
@[simp] theorem State.putWmInbox_scan : (s.putWmInbox v).scan = s.scan := (rfl)
@[simp] theorem State.putWmInbox_hangs : (s.putWmInbox v).hangs = s.hangs := (rfl)
@[simp] theorem State.putWmInbox_stalls : (s.putWmInbox v).stalls = s.stalls := (rfl)
@[simp] theorem State.putWmInbox_power : (s.putWmInbox v).power = s.power := (rfl)
@[simp] theorem State.putWmInbox_wb : (s.putWmInbox v).wb = s.wb := (rfl)
end

section
variable (s : State) (v : List (Nat × TSet))
@[simp] theorem State.putSets_pending : (s.putSets v).pending = s.pending := (rfl)
@[simp] theorem State.putSets_cycle : (s.putSets v).cycle = s.cycle := (rfl)
@[simp] theorem State.putSets_grade : (s.putSets v).grade = s.grade := (rfl)
@[simp] theorem State.putSets_freeCtr : (s.putSets v).freeCtr = s.freeCtr := (rfl)
@[simp] theorem State.putSets_out : (s.putSets v).out = s.out := (rfl)
@[simp] theorem State.putSets_mem : (s.putSets v).mem = s.mem := (rfl)
@[simp] theorem State.putSets_poison : (s.putSets v).poison = s.poison := (rfl)
@[simp] theorem State.putSets_regs : (s.putSets v).regs = s.regs := (rfl)
@[simp] theorem State.putSets_ports : (s.putSets v).ports = s.ports := (rfl)
@[simp] theorem State.putSets_laneMap : (s.putSets v).laneMap = s.laneMap := (rfl)
@[simp] theorem State.putSets_mapFixed : (s.putSets v).mapFixed = s.mapFixed := (rfl)
@[simp] theorem State.putSets_slots : (s.putSets v).slots = s.slots := (rfl)
@[simp] theorem State.putSets_queues : (s.putSets v).queues = s.queues := (rfl)
@[simp] theorem State.putSets_xin : (s.putSets v).xin = s.xin := (rfl)
@[simp] theorem State.putSets_xinLast : (s.putSets v).xinLast = s.xinLast := (rfl)
@[simp] theorem State.putSets_heldCells : (s.putSets v).heldCells = s.heldCells := (rfl)
@[simp] theorem State.putSets_retiredSlots : (s.putSets v).retiredSlots = s.retiredSlots := (rfl)
@[simp] theorem State.putSets_floor : (s.putSets v).floor = s.floor := (rfl)
@[simp] theorem State.putSets_mirrors : (s.putSets v).mirrors = s.mirrors := (rfl)
@[simp] theorem State.putSets_mirrorMade : (s.putSets v).mirrorMade = s.mirrorMade := (rfl)
@[simp] theorem State.putSets_sampleNext : (s.putSets v).sampleNext = s.sampleNext := (rfl)
@[simp] theorem State.putSets_sampleRead : (s.putSets v).sampleRead = s.sampleRead := (rfl)
@[simp] theorem State.putSets_smpStart : (s.putSets v).smpStart = s.smpStart := (rfl)
@[simp] theorem State.putSets_fails : (s.putSets v).fails = s.fails := (rfl)
@[simp] theorem State.putSets_echoes : (s.putSets v).echoes = s.echoes := (rfl)
@[simp] theorem State.putSets_echoGaps : (s.putSets v).echoGaps = s.echoGaps := (rfl)
@[simp] theorem State.putSets_noReturn : (s.putSets v).noReturn = s.noReturn := (rfl)
@[simp] theorem State.putSets_tiles : (s.putSets v).tiles = s.tiles := (rfl)
@[simp] theorem State.putSets_tileMap : (s.putSets v).tileMap = s.tileMap := (rfl)
@[simp] theorem State.putSets_failedTiles : (s.putSets v).failedTiles = s.failedTiles := (rfl)
@[simp] theorem State.putSets_candidates : (s.putSets v).candidates = s.candidates := (rfl)
@[simp] theorem State.putSets_inboxes : (s.putSets v).inboxes = s.inboxes := (rfl)
@[simp] theorem State.putSets_ctxs : (s.putSets v).ctxs = s.ctxs := (rfl)
@[simp] theorem State.putSets_ringPass : (s.putSets v).ringPass = s.ringPass := (rfl)
@[simp] theorem State.putSets_plans : (s.putSets v).plans = s.plans := (rfl)
@[simp] theorem State.putSets_planFp : (s.putSets v).planFp = s.planFp := (rfl)
@[simp] theorem State.putSets_groups : (s.putSets v).groups = s.groups := (rfl)
@[simp] theorem State.putSets_wmInbox : (s.putSets v).wmInbox = s.wmInbox := (rfl)
@[simp] theorem State.putSets_sets : (s.putSets v).sets = v := (rfl)
@[simp] theorem State.putSets_ehts : (s.putSets v).ehts = s.ehts := (rfl)
@[simp] theorem State.putSets_expOpen : (s.putSets v).expOpen = s.expOpen := (rfl)
@[simp] theorem State.putSets_expIn : (s.putSets v).expIn = s.expIn := (rfl)
@[simp] theorem State.putSets_expWait : (s.putSets v).expWait = s.expWait := (rfl)
@[simp] theorem State.putSets_atomics : (s.putSets v).atomics = s.atomics := (rfl)
@[simp] theorem State.putSets_owners : (s.putSets v).owners = s.owners := (rfl)
@[simp] theorem State.putSets_bufs : (s.putSets v).bufs = s.bufs := (rfl)
@[simp] theorem State.putSets_pools : (s.putSets v).pools = s.pools := (rfl)
@[simp] theorem State.putSets_waiters : (s.putSets v).waiters = s.waiters := (rfl)
@[simp] theorem State.putSets_grants : (s.putSets v).grants = s.grants := (rfl)
@[simp] theorem State.putSets_rowErrs : (s.putSets v).rowErrs = s.rowErrs := (rfl)
@[simp] theorem State.putSets_pageErrs : (s.putSets v).pageErrs = s.pageErrs := (rfl)
@[simp] theorem State.putSets_pageHeld : (s.putSets v).pageHeld = s.pageHeld := (rfl)
@[simp] theorem State.putSets_pages : (s.putSets v).pages = s.pages := (rfl)
@[simp] theorem State.putSets_sparedRows : (s.putSets v).sparedRows = s.sparedRows := (rfl)
@[simp] theorem State.putSets_patrolAt : (s.putSets v).patrolAt = s.patrolAt := (rfl)
@[simp] theorem State.putSets_sramAt : (s.putSets v).sramAt = s.sramAt := (rfl)
@[simp] theorem State.putSets_selfRefresh : (s.putSets v).selfRefresh = s.selfRefresh := (rfl)
@[simp] theorem State.putSets_refreshing : (s.putSets v).refreshing = s.refreshing := (rfl)
@[simp] theorem State.putSets_sessions : (s.putSets v).sessions = s.sessions := (rfl)
@[simp] theorem State.putSets_hpActive : (s.putSets v).hpActive = s.hpActive := (rfl)
@[simp] theorem State.putSets_hpApply : (s.putSets v).hpApply = s.hpApply := (rfl)
@[simp] theorem State.putSets_hostLink : (s.putSets v).hostLink = s.hostLink := (rfl)
@[simp] theorem State.putSets_zctWait : (s.putSets v).zctWait = s.zctWait := (rfl)
@[simp] theorem State.putSets_flash : (s.putSets v).flash = s.flash := (rfl)
@[simp] theorem State.putSets_bootSlots : (s.putSets v).bootSlots = s.bootSlots := (rfl)
@[simp] theorem State.putSets_cert : (s.putSets v).cert = s.cert := (rfl)
@[simp] theorem State.putSets_jorou : (s.putSets v).jorou = s.jorou := (rfl)
@[simp] theorem State.putSets_wear : (s.putSets v).wear = s.wear := (rfl)
@[simp] theorem State.putSets_ledger : (s.putSets v).ledger = s.ledger := (rfl)
@[simp] theorem State.putSets_resetOp : (s.putSets v).reset? = s.reset? := (rfl)
@[simp] theorem State.putSets_resetQ : (s.putSets v).resetQ = s.resetQ := (rfl)
@[simp] theorem State.putSets_resetsDone : (s.putSets v).resetsDone = s.resetsDone := (rfl)
@[simp] theorem State.putSets_captures : (s.putSets v).captures = s.captures := (rfl)
@[simp] theorem State.putSets_capture : (s.putSets v).capture = s.capture := (rfl)
@[simp] theorem State.putSets_capQ : (s.putSets v).capQ = s.capQ := (rfl)
@[simp] theorem State.putSets_scan : (s.putSets v).scan = s.scan := (rfl)
@[simp] theorem State.putSets_hangs : (s.putSets v).hangs = s.hangs := (rfl)
@[simp] theorem State.putSets_stalls : (s.putSets v).stalls = s.stalls := (rfl)
@[simp] theorem State.putSets_power : (s.putSets v).power = s.power := (rfl)
@[simp] theorem State.putSets_wb : (s.putSets v).wb = s.wb := (rfl)
end

section
variable (s : State) (v : List (Nat × Eht))
@[simp] theorem State.putEhts_pending : (s.putEhts v).pending = s.pending := (rfl)
@[simp] theorem State.putEhts_cycle : (s.putEhts v).cycle = s.cycle := (rfl)
@[simp] theorem State.putEhts_grade : (s.putEhts v).grade = s.grade := (rfl)
@[simp] theorem State.putEhts_freeCtr : (s.putEhts v).freeCtr = s.freeCtr := (rfl)
@[simp] theorem State.putEhts_out : (s.putEhts v).out = s.out := (rfl)
@[simp] theorem State.putEhts_mem : (s.putEhts v).mem = s.mem := (rfl)
@[simp] theorem State.putEhts_poison : (s.putEhts v).poison = s.poison := (rfl)
@[simp] theorem State.putEhts_regs : (s.putEhts v).regs = s.regs := (rfl)
@[simp] theorem State.putEhts_ports : (s.putEhts v).ports = s.ports := (rfl)
@[simp] theorem State.putEhts_laneMap : (s.putEhts v).laneMap = s.laneMap := (rfl)
@[simp] theorem State.putEhts_mapFixed : (s.putEhts v).mapFixed = s.mapFixed := (rfl)
@[simp] theorem State.putEhts_slots : (s.putEhts v).slots = s.slots := (rfl)
@[simp] theorem State.putEhts_queues : (s.putEhts v).queues = s.queues := (rfl)
@[simp] theorem State.putEhts_xin : (s.putEhts v).xin = s.xin := (rfl)
@[simp] theorem State.putEhts_xinLast : (s.putEhts v).xinLast = s.xinLast := (rfl)
@[simp] theorem State.putEhts_heldCells : (s.putEhts v).heldCells = s.heldCells := (rfl)
@[simp] theorem State.putEhts_retiredSlots : (s.putEhts v).retiredSlots = s.retiredSlots := (rfl)
@[simp] theorem State.putEhts_floor : (s.putEhts v).floor = s.floor := (rfl)
@[simp] theorem State.putEhts_mirrors : (s.putEhts v).mirrors = s.mirrors := (rfl)
@[simp] theorem State.putEhts_mirrorMade : (s.putEhts v).mirrorMade = s.mirrorMade := (rfl)
@[simp] theorem State.putEhts_sampleNext : (s.putEhts v).sampleNext = s.sampleNext := (rfl)
@[simp] theorem State.putEhts_sampleRead : (s.putEhts v).sampleRead = s.sampleRead := (rfl)
@[simp] theorem State.putEhts_smpStart : (s.putEhts v).smpStart = s.smpStart := (rfl)
@[simp] theorem State.putEhts_fails : (s.putEhts v).fails = s.fails := (rfl)
@[simp] theorem State.putEhts_echoes : (s.putEhts v).echoes = s.echoes := (rfl)
@[simp] theorem State.putEhts_echoGaps : (s.putEhts v).echoGaps = s.echoGaps := (rfl)
@[simp] theorem State.putEhts_noReturn : (s.putEhts v).noReturn = s.noReturn := (rfl)
@[simp] theorem State.putEhts_tiles : (s.putEhts v).tiles = s.tiles := (rfl)
@[simp] theorem State.putEhts_tileMap : (s.putEhts v).tileMap = s.tileMap := (rfl)
@[simp] theorem State.putEhts_failedTiles : (s.putEhts v).failedTiles = s.failedTiles := (rfl)
@[simp] theorem State.putEhts_candidates : (s.putEhts v).candidates = s.candidates := (rfl)
@[simp] theorem State.putEhts_inboxes : (s.putEhts v).inboxes = s.inboxes := (rfl)
@[simp] theorem State.putEhts_ctxs : (s.putEhts v).ctxs = s.ctxs := (rfl)
@[simp] theorem State.putEhts_ringPass : (s.putEhts v).ringPass = s.ringPass := (rfl)
@[simp] theorem State.putEhts_plans : (s.putEhts v).plans = s.plans := (rfl)
@[simp] theorem State.putEhts_planFp : (s.putEhts v).planFp = s.planFp := (rfl)
@[simp] theorem State.putEhts_groups : (s.putEhts v).groups = s.groups := (rfl)
@[simp] theorem State.putEhts_wmInbox : (s.putEhts v).wmInbox = s.wmInbox := (rfl)
@[simp] theorem State.putEhts_sets : (s.putEhts v).sets = s.sets := (rfl)
@[simp] theorem State.putEhts_ehts : (s.putEhts v).ehts = v := (rfl)
@[simp] theorem State.putEhts_expOpen : (s.putEhts v).expOpen = s.expOpen := (rfl)
@[simp] theorem State.putEhts_expIn : (s.putEhts v).expIn = s.expIn := (rfl)
@[simp] theorem State.putEhts_expWait : (s.putEhts v).expWait = s.expWait := (rfl)
@[simp] theorem State.putEhts_atomics : (s.putEhts v).atomics = s.atomics := (rfl)
@[simp] theorem State.putEhts_owners : (s.putEhts v).owners = s.owners := (rfl)
@[simp] theorem State.putEhts_bufs : (s.putEhts v).bufs = s.bufs := (rfl)
@[simp] theorem State.putEhts_pools : (s.putEhts v).pools = s.pools := (rfl)
@[simp] theorem State.putEhts_waiters : (s.putEhts v).waiters = s.waiters := (rfl)
@[simp] theorem State.putEhts_grants : (s.putEhts v).grants = s.grants := (rfl)
@[simp] theorem State.putEhts_rowErrs : (s.putEhts v).rowErrs = s.rowErrs := (rfl)
@[simp] theorem State.putEhts_pageErrs : (s.putEhts v).pageErrs = s.pageErrs := (rfl)
@[simp] theorem State.putEhts_pageHeld : (s.putEhts v).pageHeld = s.pageHeld := (rfl)
@[simp] theorem State.putEhts_pages : (s.putEhts v).pages = s.pages := (rfl)
@[simp] theorem State.putEhts_sparedRows : (s.putEhts v).sparedRows = s.sparedRows := (rfl)
@[simp] theorem State.putEhts_patrolAt : (s.putEhts v).patrolAt = s.patrolAt := (rfl)
@[simp] theorem State.putEhts_sramAt : (s.putEhts v).sramAt = s.sramAt := (rfl)
@[simp] theorem State.putEhts_selfRefresh : (s.putEhts v).selfRefresh = s.selfRefresh := (rfl)
@[simp] theorem State.putEhts_refreshing : (s.putEhts v).refreshing = s.refreshing := (rfl)
@[simp] theorem State.putEhts_sessions : (s.putEhts v).sessions = s.sessions := (rfl)
@[simp] theorem State.putEhts_hpActive : (s.putEhts v).hpActive = s.hpActive := (rfl)
@[simp] theorem State.putEhts_hpApply : (s.putEhts v).hpApply = s.hpApply := (rfl)
@[simp] theorem State.putEhts_hostLink : (s.putEhts v).hostLink = s.hostLink := (rfl)
@[simp] theorem State.putEhts_zctWait : (s.putEhts v).zctWait = s.zctWait := (rfl)
@[simp] theorem State.putEhts_flash : (s.putEhts v).flash = s.flash := (rfl)
@[simp] theorem State.putEhts_bootSlots : (s.putEhts v).bootSlots = s.bootSlots := (rfl)
@[simp] theorem State.putEhts_cert : (s.putEhts v).cert = s.cert := (rfl)
@[simp] theorem State.putEhts_jorou : (s.putEhts v).jorou = s.jorou := (rfl)
@[simp] theorem State.putEhts_wear : (s.putEhts v).wear = s.wear := (rfl)
@[simp] theorem State.putEhts_ledger : (s.putEhts v).ledger = s.ledger := (rfl)
@[simp] theorem State.putEhts_resetOp : (s.putEhts v).reset? = s.reset? := (rfl)
@[simp] theorem State.putEhts_resetQ : (s.putEhts v).resetQ = s.resetQ := (rfl)
@[simp] theorem State.putEhts_resetsDone : (s.putEhts v).resetsDone = s.resetsDone := (rfl)
@[simp] theorem State.putEhts_captures : (s.putEhts v).captures = s.captures := (rfl)
@[simp] theorem State.putEhts_capture : (s.putEhts v).capture = s.capture := (rfl)
@[simp] theorem State.putEhts_capQ : (s.putEhts v).capQ = s.capQ := (rfl)
@[simp] theorem State.putEhts_scan : (s.putEhts v).scan = s.scan := (rfl)
@[simp] theorem State.putEhts_hangs : (s.putEhts v).hangs = s.hangs := (rfl)
@[simp] theorem State.putEhts_stalls : (s.putEhts v).stalls = s.stalls := (rfl)
@[simp] theorem State.putEhts_power : (s.putEhts v).power = s.power := (rfl)
@[simp] theorem State.putEhts_wb : (s.putEhts v).wb = s.wb := (rfl)
end

section
variable (s : State) (v : List (Nat × HeadMsg))
@[simp] theorem State.putExpOpen_pending : (s.putExpOpen v).pending = s.pending := (rfl)
@[simp] theorem State.putExpOpen_cycle : (s.putExpOpen v).cycle = s.cycle := (rfl)
@[simp] theorem State.putExpOpen_grade : (s.putExpOpen v).grade = s.grade := (rfl)
@[simp] theorem State.putExpOpen_freeCtr : (s.putExpOpen v).freeCtr = s.freeCtr := (rfl)
@[simp] theorem State.putExpOpen_out : (s.putExpOpen v).out = s.out := (rfl)
@[simp] theorem State.putExpOpen_mem : (s.putExpOpen v).mem = s.mem := (rfl)
@[simp] theorem State.putExpOpen_poison : (s.putExpOpen v).poison = s.poison := (rfl)
@[simp] theorem State.putExpOpen_regs : (s.putExpOpen v).regs = s.regs := (rfl)
@[simp] theorem State.putExpOpen_ports : (s.putExpOpen v).ports = s.ports := (rfl)
@[simp] theorem State.putExpOpen_laneMap : (s.putExpOpen v).laneMap = s.laneMap := (rfl)
@[simp] theorem State.putExpOpen_mapFixed : (s.putExpOpen v).mapFixed = s.mapFixed := (rfl)
@[simp] theorem State.putExpOpen_slots : (s.putExpOpen v).slots = s.slots := (rfl)
@[simp] theorem State.putExpOpen_queues : (s.putExpOpen v).queues = s.queues := (rfl)
@[simp] theorem State.putExpOpen_xin : (s.putExpOpen v).xin = s.xin := (rfl)
@[simp] theorem State.putExpOpen_xinLast : (s.putExpOpen v).xinLast = s.xinLast := (rfl)
@[simp] theorem State.putExpOpen_heldCells : (s.putExpOpen v).heldCells = s.heldCells := (rfl)
@[simp] theorem State.putExpOpen_retiredSlots : (s.putExpOpen v).retiredSlots = s.retiredSlots := (rfl)
@[simp] theorem State.putExpOpen_floor : (s.putExpOpen v).floor = s.floor := (rfl)
@[simp] theorem State.putExpOpen_mirrors : (s.putExpOpen v).mirrors = s.mirrors := (rfl)
@[simp] theorem State.putExpOpen_mirrorMade : (s.putExpOpen v).mirrorMade = s.mirrorMade := (rfl)
@[simp] theorem State.putExpOpen_sampleNext : (s.putExpOpen v).sampleNext = s.sampleNext := (rfl)
@[simp] theorem State.putExpOpen_sampleRead : (s.putExpOpen v).sampleRead = s.sampleRead := (rfl)
@[simp] theorem State.putExpOpen_smpStart : (s.putExpOpen v).smpStart = s.smpStart := (rfl)
@[simp] theorem State.putExpOpen_fails : (s.putExpOpen v).fails = s.fails := (rfl)
@[simp] theorem State.putExpOpen_echoes : (s.putExpOpen v).echoes = s.echoes := (rfl)
@[simp] theorem State.putExpOpen_echoGaps : (s.putExpOpen v).echoGaps = s.echoGaps := (rfl)
@[simp] theorem State.putExpOpen_noReturn : (s.putExpOpen v).noReturn = s.noReturn := (rfl)
@[simp] theorem State.putExpOpen_tiles : (s.putExpOpen v).tiles = s.tiles := (rfl)
@[simp] theorem State.putExpOpen_tileMap : (s.putExpOpen v).tileMap = s.tileMap := (rfl)
@[simp] theorem State.putExpOpen_failedTiles : (s.putExpOpen v).failedTiles = s.failedTiles := (rfl)
@[simp] theorem State.putExpOpen_candidates : (s.putExpOpen v).candidates = s.candidates := (rfl)
@[simp] theorem State.putExpOpen_inboxes : (s.putExpOpen v).inboxes = s.inboxes := (rfl)
@[simp] theorem State.putExpOpen_ctxs : (s.putExpOpen v).ctxs = s.ctxs := (rfl)
@[simp] theorem State.putExpOpen_ringPass : (s.putExpOpen v).ringPass = s.ringPass := (rfl)
@[simp] theorem State.putExpOpen_plans : (s.putExpOpen v).plans = s.plans := (rfl)
@[simp] theorem State.putExpOpen_planFp : (s.putExpOpen v).planFp = s.planFp := (rfl)
@[simp] theorem State.putExpOpen_groups : (s.putExpOpen v).groups = s.groups := (rfl)
@[simp] theorem State.putExpOpen_wmInbox : (s.putExpOpen v).wmInbox = s.wmInbox := (rfl)
@[simp] theorem State.putExpOpen_sets : (s.putExpOpen v).sets = s.sets := (rfl)
@[simp] theorem State.putExpOpen_ehts : (s.putExpOpen v).ehts = s.ehts := (rfl)
@[simp] theorem State.putExpOpen_expOpen : (s.putExpOpen v).expOpen = v := (rfl)
@[simp] theorem State.putExpOpen_expIn : (s.putExpOpen v).expIn = s.expIn := (rfl)
@[simp] theorem State.putExpOpen_expWait : (s.putExpOpen v).expWait = s.expWait := (rfl)
@[simp] theorem State.putExpOpen_atomics : (s.putExpOpen v).atomics = s.atomics := (rfl)
@[simp] theorem State.putExpOpen_owners : (s.putExpOpen v).owners = s.owners := (rfl)
@[simp] theorem State.putExpOpen_bufs : (s.putExpOpen v).bufs = s.bufs := (rfl)
@[simp] theorem State.putExpOpen_pools : (s.putExpOpen v).pools = s.pools := (rfl)
@[simp] theorem State.putExpOpen_waiters : (s.putExpOpen v).waiters = s.waiters := (rfl)
@[simp] theorem State.putExpOpen_grants : (s.putExpOpen v).grants = s.grants := (rfl)
@[simp] theorem State.putExpOpen_rowErrs : (s.putExpOpen v).rowErrs = s.rowErrs := (rfl)
@[simp] theorem State.putExpOpen_pageErrs : (s.putExpOpen v).pageErrs = s.pageErrs := (rfl)
@[simp] theorem State.putExpOpen_pageHeld : (s.putExpOpen v).pageHeld = s.pageHeld := (rfl)
@[simp] theorem State.putExpOpen_pages : (s.putExpOpen v).pages = s.pages := (rfl)
@[simp] theorem State.putExpOpen_sparedRows : (s.putExpOpen v).sparedRows = s.sparedRows := (rfl)
@[simp] theorem State.putExpOpen_patrolAt : (s.putExpOpen v).patrolAt = s.patrolAt := (rfl)
@[simp] theorem State.putExpOpen_sramAt : (s.putExpOpen v).sramAt = s.sramAt := (rfl)
@[simp] theorem State.putExpOpen_selfRefresh : (s.putExpOpen v).selfRefresh = s.selfRefresh := (rfl)
@[simp] theorem State.putExpOpen_refreshing : (s.putExpOpen v).refreshing = s.refreshing := (rfl)
@[simp] theorem State.putExpOpen_sessions : (s.putExpOpen v).sessions = s.sessions := (rfl)
@[simp] theorem State.putExpOpen_hpActive : (s.putExpOpen v).hpActive = s.hpActive := (rfl)
@[simp] theorem State.putExpOpen_hpApply : (s.putExpOpen v).hpApply = s.hpApply := (rfl)
@[simp] theorem State.putExpOpen_hostLink : (s.putExpOpen v).hostLink = s.hostLink := (rfl)
@[simp] theorem State.putExpOpen_zctWait : (s.putExpOpen v).zctWait = s.zctWait := (rfl)
@[simp] theorem State.putExpOpen_flash : (s.putExpOpen v).flash = s.flash := (rfl)
@[simp] theorem State.putExpOpen_bootSlots : (s.putExpOpen v).bootSlots = s.bootSlots := (rfl)
@[simp] theorem State.putExpOpen_cert : (s.putExpOpen v).cert = s.cert := (rfl)
@[simp] theorem State.putExpOpen_jorou : (s.putExpOpen v).jorou = s.jorou := (rfl)
@[simp] theorem State.putExpOpen_wear : (s.putExpOpen v).wear = s.wear := (rfl)
@[simp] theorem State.putExpOpen_ledger : (s.putExpOpen v).ledger = s.ledger := (rfl)
@[simp] theorem State.putExpOpen_resetOp : (s.putExpOpen v).reset? = s.reset? := (rfl)
@[simp] theorem State.putExpOpen_resetQ : (s.putExpOpen v).resetQ = s.resetQ := (rfl)
@[simp] theorem State.putExpOpen_resetsDone : (s.putExpOpen v).resetsDone = s.resetsDone := (rfl)
@[simp] theorem State.putExpOpen_captures : (s.putExpOpen v).captures = s.captures := (rfl)
@[simp] theorem State.putExpOpen_capture : (s.putExpOpen v).capture = s.capture := (rfl)
@[simp] theorem State.putExpOpen_capQ : (s.putExpOpen v).capQ = s.capQ := (rfl)
@[simp] theorem State.putExpOpen_scan : (s.putExpOpen v).scan = s.scan := (rfl)
@[simp] theorem State.putExpOpen_hangs : (s.putExpOpen v).hangs = s.hangs := (rfl)
@[simp] theorem State.putExpOpen_stalls : (s.putExpOpen v).stalls = s.stalls := (rfl)
@[simp] theorem State.putExpOpen_power : (s.putExpOpen v).power = s.power := (rfl)
@[simp] theorem State.putExpOpen_wb : (s.putExpOpen v).wb = s.wb := (rfl)
end

section
variable (s : State) (v : List (Nat × Nat × HeadMsg))
@[simp] theorem State.putExpIn_pending : (s.putExpIn v).pending = s.pending := (rfl)
@[simp] theorem State.putExpIn_cycle : (s.putExpIn v).cycle = s.cycle := (rfl)
@[simp] theorem State.putExpIn_grade : (s.putExpIn v).grade = s.grade := (rfl)
@[simp] theorem State.putExpIn_freeCtr : (s.putExpIn v).freeCtr = s.freeCtr := (rfl)
@[simp] theorem State.putExpIn_out : (s.putExpIn v).out = s.out := (rfl)
@[simp] theorem State.putExpIn_mem : (s.putExpIn v).mem = s.mem := (rfl)
@[simp] theorem State.putExpIn_poison : (s.putExpIn v).poison = s.poison := (rfl)
@[simp] theorem State.putExpIn_regs : (s.putExpIn v).regs = s.regs := (rfl)
@[simp] theorem State.putExpIn_ports : (s.putExpIn v).ports = s.ports := (rfl)
@[simp] theorem State.putExpIn_laneMap : (s.putExpIn v).laneMap = s.laneMap := (rfl)
@[simp] theorem State.putExpIn_mapFixed : (s.putExpIn v).mapFixed = s.mapFixed := (rfl)
@[simp] theorem State.putExpIn_slots : (s.putExpIn v).slots = s.slots := (rfl)
@[simp] theorem State.putExpIn_queues : (s.putExpIn v).queues = s.queues := (rfl)
@[simp] theorem State.putExpIn_xin : (s.putExpIn v).xin = s.xin := (rfl)
@[simp] theorem State.putExpIn_xinLast : (s.putExpIn v).xinLast = s.xinLast := (rfl)
@[simp] theorem State.putExpIn_heldCells : (s.putExpIn v).heldCells = s.heldCells := (rfl)
@[simp] theorem State.putExpIn_retiredSlots : (s.putExpIn v).retiredSlots = s.retiredSlots := (rfl)
@[simp] theorem State.putExpIn_floor : (s.putExpIn v).floor = s.floor := (rfl)
@[simp] theorem State.putExpIn_mirrors : (s.putExpIn v).mirrors = s.mirrors := (rfl)
@[simp] theorem State.putExpIn_mirrorMade : (s.putExpIn v).mirrorMade = s.mirrorMade := (rfl)
@[simp] theorem State.putExpIn_sampleNext : (s.putExpIn v).sampleNext = s.sampleNext := (rfl)
@[simp] theorem State.putExpIn_sampleRead : (s.putExpIn v).sampleRead = s.sampleRead := (rfl)
@[simp] theorem State.putExpIn_smpStart : (s.putExpIn v).smpStart = s.smpStart := (rfl)
@[simp] theorem State.putExpIn_fails : (s.putExpIn v).fails = s.fails := (rfl)
@[simp] theorem State.putExpIn_echoes : (s.putExpIn v).echoes = s.echoes := (rfl)
@[simp] theorem State.putExpIn_echoGaps : (s.putExpIn v).echoGaps = s.echoGaps := (rfl)
@[simp] theorem State.putExpIn_noReturn : (s.putExpIn v).noReturn = s.noReturn := (rfl)
@[simp] theorem State.putExpIn_tiles : (s.putExpIn v).tiles = s.tiles := (rfl)
@[simp] theorem State.putExpIn_tileMap : (s.putExpIn v).tileMap = s.tileMap := (rfl)
@[simp] theorem State.putExpIn_failedTiles : (s.putExpIn v).failedTiles = s.failedTiles := (rfl)
@[simp] theorem State.putExpIn_candidates : (s.putExpIn v).candidates = s.candidates := (rfl)
@[simp] theorem State.putExpIn_inboxes : (s.putExpIn v).inboxes = s.inboxes := (rfl)
@[simp] theorem State.putExpIn_ctxs : (s.putExpIn v).ctxs = s.ctxs := (rfl)
@[simp] theorem State.putExpIn_ringPass : (s.putExpIn v).ringPass = s.ringPass := (rfl)
@[simp] theorem State.putExpIn_plans : (s.putExpIn v).plans = s.plans := (rfl)
@[simp] theorem State.putExpIn_planFp : (s.putExpIn v).planFp = s.planFp := (rfl)
@[simp] theorem State.putExpIn_groups : (s.putExpIn v).groups = s.groups := (rfl)
@[simp] theorem State.putExpIn_wmInbox : (s.putExpIn v).wmInbox = s.wmInbox := (rfl)
@[simp] theorem State.putExpIn_sets : (s.putExpIn v).sets = s.sets := (rfl)
@[simp] theorem State.putExpIn_ehts : (s.putExpIn v).ehts = s.ehts := (rfl)
@[simp] theorem State.putExpIn_expOpen : (s.putExpIn v).expOpen = s.expOpen := (rfl)
@[simp] theorem State.putExpIn_expIn : (s.putExpIn v).expIn = v := (rfl)
@[simp] theorem State.putExpIn_expWait : (s.putExpIn v).expWait = s.expWait := (rfl)
@[simp] theorem State.putExpIn_atomics : (s.putExpIn v).atomics = s.atomics := (rfl)
@[simp] theorem State.putExpIn_owners : (s.putExpIn v).owners = s.owners := (rfl)
@[simp] theorem State.putExpIn_bufs : (s.putExpIn v).bufs = s.bufs := (rfl)
@[simp] theorem State.putExpIn_pools : (s.putExpIn v).pools = s.pools := (rfl)
@[simp] theorem State.putExpIn_waiters : (s.putExpIn v).waiters = s.waiters := (rfl)
@[simp] theorem State.putExpIn_grants : (s.putExpIn v).grants = s.grants := (rfl)
@[simp] theorem State.putExpIn_rowErrs : (s.putExpIn v).rowErrs = s.rowErrs := (rfl)
@[simp] theorem State.putExpIn_pageErrs : (s.putExpIn v).pageErrs = s.pageErrs := (rfl)
@[simp] theorem State.putExpIn_pageHeld : (s.putExpIn v).pageHeld = s.pageHeld := (rfl)
@[simp] theorem State.putExpIn_pages : (s.putExpIn v).pages = s.pages := (rfl)
@[simp] theorem State.putExpIn_sparedRows : (s.putExpIn v).sparedRows = s.sparedRows := (rfl)
@[simp] theorem State.putExpIn_patrolAt : (s.putExpIn v).patrolAt = s.patrolAt := (rfl)
@[simp] theorem State.putExpIn_sramAt : (s.putExpIn v).sramAt = s.sramAt := (rfl)
@[simp] theorem State.putExpIn_selfRefresh : (s.putExpIn v).selfRefresh = s.selfRefresh := (rfl)
@[simp] theorem State.putExpIn_refreshing : (s.putExpIn v).refreshing = s.refreshing := (rfl)
@[simp] theorem State.putExpIn_sessions : (s.putExpIn v).sessions = s.sessions := (rfl)
@[simp] theorem State.putExpIn_hpActive : (s.putExpIn v).hpActive = s.hpActive := (rfl)
@[simp] theorem State.putExpIn_hpApply : (s.putExpIn v).hpApply = s.hpApply := (rfl)
@[simp] theorem State.putExpIn_hostLink : (s.putExpIn v).hostLink = s.hostLink := (rfl)
@[simp] theorem State.putExpIn_zctWait : (s.putExpIn v).zctWait = s.zctWait := (rfl)
@[simp] theorem State.putExpIn_flash : (s.putExpIn v).flash = s.flash := (rfl)
@[simp] theorem State.putExpIn_bootSlots : (s.putExpIn v).bootSlots = s.bootSlots := (rfl)
@[simp] theorem State.putExpIn_cert : (s.putExpIn v).cert = s.cert := (rfl)
@[simp] theorem State.putExpIn_jorou : (s.putExpIn v).jorou = s.jorou := (rfl)
@[simp] theorem State.putExpIn_wear : (s.putExpIn v).wear = s.wear := (rfl)
@[simp] theorem State.putExpIn_ledger : (s.putExpIn v).ledger = s.ledger := (rfl)
@[simp] theorem State.putExpIn_resetOp : (s.putExpIn v).reset? = s.reset? := (rfl)
@[simp] theorem State.putExpIn_resetQ : (s.putExpIn v).resetQ = s.resetQ := (rfl)
@[simp] theorem State.putExpIn_resetsDone : (s.putExpIn v).resetsDone = s.resetsDone := (rfl)
@[simp] theorem State.putExpIn_captures : (s.putExpIn v).captures = s.captures := (rfl)
@[simp] theorem State.putExpIn_capture : (s.putExpIn v).capture = s.capture := (rfl)
@[simp] theorem State.putExpIn_capQ : (s.putExpIn v).capQ = s.capQ := (rfl)
@[simp] theorem State.putExpIn_scan : (s.putExpIn v).scan = s.scan := (rfl)
@[simp] theorem State.putExpIn_hangs : (s.putExpIn v).hangs = s.hangs := (rfl)
@[simp] theorem State.putExpIn_stalls : (s.putExpIn v).stalls = s.stalls := (rfl)
@[simp] theorem State.putExpIn_power : (s.putExpIn v).power = s.power := (rfl)
@[simp] theorem State.putExpIn_wb : (s.putExpIn v).wb = s.wb := (rfl)
end

section
variable (s : State) (v : List (Nat × Cell))
@[simp] theorem State.putExpWait_pending : (s.putExpWait v).pending = s.pending := (rfl)
@[simp] theorem State.putExpWait_cycle : (s.putExpWait v).cycle = s.cycle := (rfl)
@[simp] theorem State.putExpWait_grade : (s.putExpWait v).grade = s.grade := (rfl)
@[simp] theorem State.putExpWait_freeCtr : (s.putExpWait v).freeCtr = s.freeCtr := (rfl)
@[simp] theorem State.putExpWait_out : (s.putExpWait v).out = s.out := (rfl)
@[simp] theorem State.putExpWait_mem : (s.putExpWait v).mem = s.mem := (rfl)
@[simp] theorem State.putExpWait_poison : (s.putExpWait v).poison = s.poison := (rfl)
@[simp] theorem State.putExpWait_regs : (s.putExpWait v).regs = s.regs := (rfl)
@[simp] theorem State.putExpWait_ports : (s.putExpWait v).ports = s.ports := (rfl)
@[simp] theorem State.putExpWait_laneMap : (s.putExpWait v).laneMap = s.laneMap := (rfl)
@[simp] theorem State.putExpWait_mapFixed : (s.putExpWait v).mapFixed = s.mapFixed := (rfl)
@[simp] theorem State.putExpWait_slots : (s.putExpWait v).slots = s.slots := (rfl)
@[simp] theorem State.putExpWait_queues : (s.putExpWait v).queues = s.queues := (rfl)
@[simp] theorem State.putExpWait_xin : (s.putExpWait v).xin = s.xin := (rfl)
@[simp] theorem State.putExpWait_xinLast : (s.putExpWait v).xinLast = s.xinLast := (rfl)
@[simp] theorem State.putExpWait_heldCells : (s.putExpWait v).heldCells = s.heldCells := (rfl)
@[simp] theorem State.putExpWait_retiredSlots : (s.putExpWait v).retiredSlots = s.retiredSlots := (rfl)
@[simp] theorem State.putExpWait_floor : (s.putExpWait v).floor = s.floor := (rfl)
@[simp] theorem State.putExpWait_mirrors : (s.putExpWait v).mirrors = s.mirrors := (rfl)
@[simp] theorem State.putExpWait_mirrorMade : (s.putExpWait v).mirrorMade = s.mirrorMade := (rfl)
@[simp] theorem State.putExpWait_sampleNext : (s.putExpWait v).sampleNext = s.sampleNext := (rfl)
@[simp] theorem State.putExpWait_sampleRead : (s.putExpWait v).sampleRead = s.sampleRead := (rfl)
@[simp] theorem State.putExpWait_smpStart : (s.putExpWait v).smpStart = s.smpStart := (rfl)
@[simp] theorem State.putExpWait_fails : (s.putExpWait v).fails = s.fails := (rfl)
@[simp] theorem State.putExpWait_echoes : (s.putExpWait v).echoes = s.echoes := (rfl)
@[simp] theorem State.putExpWait_echoGaps : (s.putExpWait v).echoGaps = s.echoGaps := (rfl)
@[simp] theorem State.putExpWait_noReturn : (s.putExpWait v).noReturn = s.noReturn := (rfl)
@[simp] theorem State.putExpWait_tiles : (s.putExpWait v).tiles = s.tiles := (rfl)
@[simp] theorem State.putExpWait_tileMap : (s.putExpWait v).tileMap = s.tileMap := (rfl)
@[simp] theorem State.putExpWait_failedTiles : (s.putExpWait v).failedTiles = s.failedTiles := (rfl)
@[simp] theorem State.putExpWait_candidates : (s.putExpWait v).candidates = s.candidates := (rfl)
@[simp] theorem State.putExpWait_inboxes : (s.putExpWait v).inboxes = s.inboxes := (rfl)
@[simp] theorem State.putExpWait_ctxs : (s.putExpWait v).ctxs = s.ctxs := (rfl)
@[simp] theorem State.putExpWait_ringPass : (s.putExpWait v).ringPass = s.ringPass := (rfl)
@[simp] theorem State.putExpWait_plans : (s.putExpWait v).plans = s.plans := (rfl)
@[simp] theorem State.putExpWait_planFp : (s.putExpWait v).planFp = s.planFp := (rfl)
@[simp] theorem State.putExpWait_groups : (s.putExpWait v).groups = s.groups := (rfl)
@[simp] theorem State.putExpWait_wmInbox : (s.putExpWait v).wmInbox = s.wmInbox := (rfl)
@[simp] theorem State.putExpWait_sets : (s.putExpWait v).sets = s.sets := (rfl)
@[simp] theorem State.putExpWait_ehts : (s.putExpWait v).ehts = s.ehts := (rfl)
@[simp] theorem State.putExpWait_expOpen : (s.putExpWait v).expOpen = s.expOpen := (rfl)
@[simp] theorem State.putExpWait_expIn : (s.putExpWait v).expIn = s.expIn := (rfl)
@[simp] theorem State.putExpWait_expWait : (s.putExpWait v).expWait = v := (rfl)
@[simp] theorem State.putExpWait_atomics : (s.putExpWait v).atomics = s.atomics := (rfl)
@[simp] theorem State.putExpWait_owners : (s.putExpWait v).owners = s.owners := (rfl)
@[simp] theorem State.putExpWait_bufs : (s.putExpWait v).bufs = s.bufs := (rfl)
@[simp] theorem State.putExpWait_pools : (s.putExpWait v).pools = s.pools := (rfl)
@[simp] theorem State.putExpWait_waiters : (s.putExpWait v).waiters = s.waiters := (rfl)
@[simp] theorem State.putExpWait_grants : (s.putExpWait v).grants = s.grants := (rfl)
@[simp] theorem State.putExpWait_rowErrs : (s.putExpWait v).rowErrs = s.rowErrs := (rfl)
@[simp] theorem State.putExpWait_pageErrs : (s.putExpWait v).pageErrs = s.pageErrs := (rfl)
@[simp] theorem State.putExpWait_pageHeld : (s.putExpWait v).pageHeld = s.pageHeld := (rfl)
@[simp] theorem State.putExpWait_pages : (s.putExpWait v).pages = s.pages := (rfl)
@[simp] theorem State.putExpWait_sparedRows : (s.putExpWait v).sparedRows = s.sparedRows := (rfl)
@[simp] theorem State.putExpWait_patrolAt : (s.putExpWait v).patrolAt = s.patrolAt := (rfl)
@[simp] theorem State.putExpWait_sramAt : (s.putExpWait v).sramAt = s.sramAt := (rfl)
@[simp] theorem State.putExpWait_selfRefresh : (s.putExpWait v).selfRefresh = s.selfRefresh := (rfl)
@[simp] theorem State.putExpWait_refreshing : (s.putExpWait v).refreshing = s.refreshing := (rfl)
@[simp] theorem State.putExpWait_sessions : (s.putExpWait v).sessions = s.sessions := (rfl)
@[simp] theorem State.putExpWait_hpActive : (s.putExpWait v).hpActive = s.hpActive := (rfl)
@[simp] theorem State.putExpWait_hpApply : (s.putExpWait v).hpApply = s.hpApply := (rfl)
@[simp] theorem State.putExpWait_hostLink : (s.putExpWait v).hostLink = s.hostLink := (rfl)
@[simp] theorem State.putExpWait_zctWait : (s.putExpWait v).zctWait = s.zctWait := (rfl)
@[simp] theorem State.putExpWait_flash : (s.putExpWait v).flash = s.flash := (rfl)
@[simp] theorem State.putExpWait_bootSlots : (s.putExpWait v).bootSlots = s.bootSlots := (rfl)
@[simp] theorem State.putExpWait_cert : (s.putExpWait v).cert = s.cert := (rfl)
@[simp] theorem State.putExpWait_jorou : (s.putExpWait v).jorou = s.jorou := (rfl)
@[simp] theorem State.putExpWait_wear : (s.putExpWait v).wear = s.wear := (rfl)
@[simp] theorem State.putExpWait_ledger : (s.putExpWait v).ledger = s.ledger := (rfl)
@[simp] theorem State.putExpWait_resetOp : (s.putExpWait v).reset? = s.reset? := (rfl)
@[simp] theorem State.putExpWait_resetQ : (s.putExpWait v).resetQ = s.resetQ := (rfl)
@[simp] theorem State.putExpWait_resetsDone : (s.putExpWait v).resetsDone = s.resetsDone := (rfl)
@[simp] theorem State.putExpWait_captures : (s.putExpWait v).captures = s.captures := (rfl)
@[simp] theorem State.putExpWait_capture : (s.putExpWait v).capture = s.capture := (rfl)
@[simp] theorem State.putExpWait_capQ : (s.putExpWait v).capQ = s.capQ := (rfl)
@[simp] theorem State.putExpWait_scan : (s.putExpWait v).scan = s.scan := (rfl)
@[simp] theorem State.putExpWait_hangs : (s.putExpWait v).hangs = s.hangs := (rfl)
@[simp] theorem State.putExpWait_stalls : (s.putExpWait v).stalls = s.stalls := (rfl)
@[simp] theorem State.putExpWait_power : (s.putExpWait v).power = s.power := (rfl)
@[simp] theorem State.putExpWait_wb : (s.putExpWait v).wb = s.wb := (rfl)
end

section
variable (s : State) (v : List (Nat × Nat × Nat × Word))
@[simp] theorem State.putAtomics_pending : (s.putAtomics v).pending = s.pending := (rfl)
@[simp] theorem State.putAtomics_cycle : (s.putAtomics v).cycle = s.cycle := (rfl)
@[simp] theorem State.putAtomics_grade : (s.putAtomics v).grade = s.grade := (rfl)
@[simp] theorem State.putAtomics_freeCtr : (s.putAtomics v).freeCtr = s.freeCtr := (rfl)
@[simp] theorem State.putAtomics_out : (s.putAtomics v).out = s.out := (rfl)
@[simp] theorem State.putAtomics_mem : (s.putAtomics v).mem = s.mem := (rfl)
@[simp] theorem State.putAtomics_poison : (s.putAtomics v).poison = s.poison := (rfl)
@[simp] theorem State.putAtomics_regs : (s.putAtomics v).regs = s.regs := (rfl)
@[simp] theorem State.putAtomics_ports : (s.putAtomics v).ports = s.ports := (rfl)
@[simp] theorem State.putAtomics_laneMap : (s.putAtomics v).laneMap = s.laneMap := (rfl)
@[simp] theorem State.putAtomics_mapFixed : (s.putAtomics v).mapFixed = s.mapFixed := (rfl)
@[simp] theorem State.putAtomics_slots : (s.putAtomics v).slots = s.slots := (rfl)
@[simp] theorem State.putAtomics_queues : (s.putAtomics v).queues = s.queues := (rfl)
@[simp] theorem State.putAtomics_xin : (s.putAtomics v).xin = s.xin := (rfl)
@[simp] theorem State.putAtomics_xinLast : (s.putAtomics v).xinLast = s.xinLast := (rfl)
@[simp] theorem State.putAtomics_heldCells : (s.putAtomics v).heldCells = s.heldCells := (rfl)
@[simp] theorem State.putAtomics_retiredSlots : (s.putAtomics v).retiredSlots = s.retiredSlots := (rfl)
@[simp] theorem State.putAtomics_floor : (s.putAtomics v).floor = s.floor := (rfl)
@[simp] theorem State.putAtomics_mirrors : (s.putAtomics v).mirrors = s.mirrors := (rfl)
@[simp] theorem State.putAtomics_mirrorMade : (s.putAtomics v).mirrorMade = s.mirrorMade := (rfl)
@[simp] theorem State.putAtomics_sampleNext : (s.putAtomics v).sampleNext = s.sampleNext := (rfl)
@[simp] theorem State.putAtomics_sampleRead : (s.putAtomics v).sampleRead = s.sampleRead := (rfl)
@[simp] theorem State.putAtomics_smpStart : (s.putAtomics v).smpStart = s.smpStart := (rfl)
@[simp] theorem State.putAtomics_fails : (s.putAtomics v).fails = s.fails := (rfl)
@[simp] theorem State.putAtomics_echoes : (s.putAtomics v).echoes = s.echoes := (rfl)
@[simp] theorem State.putAtomics_echoGaps : (s.putAtomics v).echoGaps = s.echoGaps := (rfl)
@[simp] theorem State.putAtomics_noReturn : (s.putAtomics v).noReturn = s.noReturn := (rfl)
@[simp] theorem State.putAtomics_tiles : (s.putAtomics v).tiles = s.tiles := (rfl)
@[simp] theorem State.putAtomics_tileMap : (s.putAtomics v).tileMap = s.tileMap := (rfl)
@[simp] theorem State.putAtomics_failedTiles : (s.putAtomics v).failedTiles = s.failedTiles := (rfl)
@[simp] theorem State.putAtomics_candidates : (s.putAtomics v).candidates = s.candidates := (rfl)
@[simp] theorem State.putAtomics_inboxes : (s.putAtomics v).inboxes = s.inboxes := (rfl)
@[simp] theorem State.putAtomics_ctxs : (s.putAtomics v).ctxs = s.ctxs := (rfl)
@[simp] theorem State.putAtomics_ringPass : (s.putAtomics v).ringPass = s.ringPass := (rfl)
@[simp] theorem State.putAtomics_plans : (s.putAtomics v).plans = s.plans := (rfl)
@[simp] theorem State.putAtomics_planFp : (s.putAtomics v).planFp = s.planFp := (rfl)
@[simp] theorem State.putAtomics_groups : (s.putAtomics v).groups = s.groups := (rfl)
@[simp] theorem State.putAtomics_wmInbox : (s.putAtomics v).wmInbox = s.wmInbox := (rfl)
@[simp] theorem State.putAtomics_sets : (s.putAtomics v).sets = s.sets := (rfl)
@[simp] theorem State.putAtomics_ehts : (s.putAtomics v).ehts = s.ehts := (rfl)
@[simp] theorem State.putAtomics_expOpen : (s.putAtomics v).expOpen = s.expOpen := (rfl)
@[simp] theorem State.putAtomics_expIn : (s.putAtomics v).expIn = s.expIn := (rfl)
@[simp] theorem State.putAtomics_expWait : (s.putAtomics v).expWait = s.expWait := (rfl)
@[simp] theorem State.putAtomics_atomics : (s.putAtomics v).atomics = v := (rfl)
@[simp] theorem State.putAtomics_owners : (s.putAtomics v).owners = s.owners := (rfl)
@[simp] theorem State.putAtomics_bufs : (s.putAtomics v).bufs = s.bufs := (rfl)
@[simp] theorem State.putAtomics_pools : (s.putAtomics v).pools = s.pools := (rfl)
@[simp] theorem State.putAtomics_waiters : (s.putAtomics v).waiters = s.waiters := (rfl)
@[simp] theorem State.putAtomics_grants : (s.putAtomics v).grants = s.grants := (rfl)
@[simp] theorem State.putAtomics_rowErrs : (s.putAtomics v).rowErrs = s.rowErrs := (rfl)
@[simp] theorem State.putAtomics_pageErrs : (s.putAtomics v).pageErrs = s.pageErrs := (rfl)
@[simp] theorem State.putAtomics_pageHeld : (s.putAtomics v).pageHeld = s.pageHeld := (rfl)
@[simp] theorem State.putAtomics_pages : (s.putAtomics v).pages = s.pages := (rfl)
@[simp] theorem State.putAtomics_sparedRows : (s.putAtomics v).sparedRows = s.sparedRows := (rfl)
@[simp] theorem State.putAtomics_patrolAt : (s.putAtomics v).patrolAt = s.patrolAt := (rfl)
@[simp] theorem State.putAtomics_sramAt : (s.putAtomics v).sramAt = s.sramAt := (rfl)
@[simp] theorem State.putAtomics_selfRefresh : (s.putAtomics v).selfRefresh = s.selfRefresh := (rfl)
@[simp] theorem State.putAtomics_refreshing : (s.putAtomics v).refreshing = s.refreshing := (rfl)
@[simp] theorem State.putAtomics_sessions : (s.putAtomics v).sessions = s.sessions := (rfl)
@[simp] theorem State.putAtomics_hpActive : (s.putAtomics v).hpActive = s.hpActive := (rfl)
@[simp] theorem State.putAtomics_hpApply : (s.putAtomics v).hpApply = s.hpApply := (rfl)
@[simp] theorem State.putAtomics_hostLink : (s.putAtomics v).hostLink = s.hostLink := (rfl)
@[simp] theorem State.putAtomics_zctWait : (s.putAtomics v).zctWait = s.zctWait := (rfl)
@[simp] theorem State.putAtomics_flash : (s.putAtomics v).flash = s.flash := (rfl)
@[simp] theorem State.putAtomics_bootSlots : (s.putAtomics v).bootSlots = s.bootSlots := (rfl)
@[simp] theorem State.putAtomics_cert : (s.putAtomics v).cert = s.cert := (rfl)
@[simp] theorem State.putAtomics_jorou : (s.putAtomics v).jorou = s.jorou := (rfl)
@[simp] theorem State.putAtomics_wear : (s.putAtomics v).wear = s.wear := (rfl)
@[simp] theorem State.putAtomics_ledger : (s.putAtomics v).ledger = s.ledger := (rfl)
@[simp] theorem State.putAtomics_resetOp : (s.putAtomics v).reset? = s.reset? := (rfl)
@[simp] theorem State.putAtomics_resetQ : (s.putAtomics v).resetQ = s.resetQ := (rfl)
@[simp] theorem State.putAtomics_resetsDone : (s.putAtomics v).resetsDone = s.resetsDone := (rfl)
@[simp] theorem State.putAtomics_captures : (s.putAtomics v).captures = s.captures := (rfl)
@[simp] theorem State.putAtomics_capture : (s.putAtomics v).capture = s.capture := (rfl)
@[simp] theorem State.putAtomics_capQ : (s.putAtomics v).capQ = s.capQ := (rfl)
@[simp] theorem State.putAtomics_scan : (s.putAtomics v).scan = s.scan := (rfl)
@[simp] theorem State.putAtomics_hangs : (s.putAtomics v).hangs = s.hangs := (rfl)
@[simp] theorem State.putAtomics_stalls : (s.putAtomics v).stalls = s.stalls := (rfl)
@[simp] theorem State.putAtomics_power : (s.putAtomics v).power = s.power := (rfl)
@[simp] theorem State.putAtomics_wb : (s.putAtomics v).wb = s.wb := (rfl)
end

section
variable (s : State) (v : List (Nat × Owner))
@[simp] theorem State.putOwners_pending : (s.putOwners v).pending = s.pending := (rfl)
@[simp] theorem State.putOwners_cycle : (s.putOwners v).cycle = s.cycle := (rfl)
@[simp] theorem State.putOwners_grade : (s.putOwners v).grade = s.grade := (rfl)
@[simp] theorem State.putOwners_freeCtr : (s.putOwners v).freeCtr = s.freeCtr := (rfl)
@[simp] theorem State.putOwners_out : (s.putOwners v).out = s.out := (rfl)
@[simp] theorem State.putOwners_mem : (s.putOwners v).mem = s.mem := (rfl)
@[simp] theorem State.putOwners_poison : (s.putOwners v).poison = s.poison := (rfl)
@[simp] theorem State.putOwners_regs : (s.putOwners v).regs = s.regs := (rfl)
@[simp] theorem State.putOwners_ports : (s.putOwners v).ports = s.ports := (rfl)
@[simp] theorem State.putOwners_laneMap : (s.putOwners v).laneMap = s.laneMap := (rfl)
@[simp] theorem State.putOwners_mapFixed : (s.putOwners v).mapFixed = s.mapFixed := (rfl)
@[simp] theorem State.putOwners_slots : (s.putOwners v).slots = s.slots := (rfl)
@[simp] theorem State.putOwners_queues : (s.putOwners v).queues = s.queues := (rfl)
@[simp] theorem State.putOwners_xin : (s.putOwners v).xin = s.xin := (rfl)
@[simp] theorem State.putOwners_xinLast : (s.putOwners v).xinLast = s.xinLast := (rfl)
@[simp] theorem State.putOwners_heldCells : (s.putOwners v).heldCells = s.heldCells := (rfl)
@[simp] theorem State.putOwners_retiredSlots : (s.putOwners v).retiredSlots = s.retiredSlots := (rfl)
@[simp] theorem State.putOwners_floor : (s.putOwners v).floor = s.floor := (rfl)
@[simp] theorem State.putOwners_mirrors : (s.putOwners v).mirrors = s.mirrors := (rfl)
@[simp] theorem State.putOwners_mirrorMade : (s.putOwners v).mirrorMade = s.mirrorMade := (rfl)
@[simp] theorem State.putOwners_sampleNext : (s.putOwners v).sampleNext = s.sampleNext := (rfl)
@[simp] theorem State.putOwners_sampleRead : (s.putOwners v).sampleRead = s.sampleRead := (rfl)
@[simp] theorem State.putOwners_smpStart : (s.putOwners v).smpStart = s.smpStart := (rfl)
@[simp] theorem State.putOwners_fails : (s.putOwners v).fails = s.fails := (rfl)
@[simp] theorem State.putOwners_echoes : (s.putOwners v).echoes = s.echoes := (rfl)
@[simp] theorem State.putOwners_echoGaps : (s.putOwners v).echoGaps = s.echoGaps := (rfl)
@[simp] theorem State.putOwners_noReturn : (s.putOwners v).noReturn = s.noReturn := (rfl)
@[simp] theorem State.putOwners_tiles : (s.putOwners v).tiles = s.tiles := (rfl)
@[simp] theorem State.putOwners_tileMap : (s.putOwners v).tileMap = s.tileMap := (rfl)
@[simp] theorem State.putOwners_failedTiles : (s.putOwners v).failedTiles = s.failedTiles := (rfl)
@[simp] theorem State.putOwners_candidates : (s.putOwners v).candidates = s.candidates := (rfl)
@[simp] theorem State.putOwners_inboxes : (s.putOwners v).inboxes = s.inboxes := (rfl)
@[simp] theorem State.putOwners_ctxs : (s.putOwners v).ctxs = s.ctxs := (rfl)
@[simp] theorem State.putOwners_ringPass : (s.putOwners v).ringPass = s.ringPass := (rfl)
@[simp] theorem State.putOwners_plans : (s.putOwners v).plans = s.plans := (rfl)
@[simp] theorem State.putOwners_planFp : (s.putOwners v).planFp = s.planFp := (rfl)
@[simp] theorem State.putOwners_groups : (s.putOwners v).groups = s.groups := (rfl)
@[simp] theorem State.putOwners_wmInbox : (s.putOwners v).wmInbox = s.wmInbox := (rfl)
@[simp] theorem State.putOwners_sets : (s.putOwners v).sets = s.sets := (rfl)
@[simp] theorem State.putOwners_ehts : (s.putOwners v).ehts = s.ehts := (rfl)
@[simp] theorem State.putOwners_expOpen : (s.putOwners v).expOpen = s.expOpen := (rfl)
@[simp] theorem State.putOwners_expIn : (s.putOwners v).expIn = s.expIn := (rfl)
@[simp] theorem State.putOwners_expWait : (s.putOwners v).expWait = s.expWait := (rfl)
@[simp] theorem State.putOwners_atomics : (s.putOwners v).atomics = s.atomics := (rfl)
@[simp] theorem State.putOwners_owners : (s.putOwners v).owners = v := (rfl)
@[simp] theorem State.putOwners_bufs : (s.putOwners v).bufs = s.bufs := (rfl)
@[simp] theorem State.putOwners_pools : (s.putOwners v).pools = s.pools := (rfl)
@[simp] theorem State.putOwners_waiters : (s.putOwners v).waiters = s.waiters := (rfl)
@[simp] theorem State.putOwners_grants : (s.putOwners v).grants = s.grants := (rfl)
@[simp] theorem State.putOwners_rowErrs : (s.putOwners v).rowErrs = s.rowErrs := (rfl)
@[simp] theorem State.putOwners_pageErrs : (s.putOwners v).pageErrs = s.pageErrs := (rfl)
@[simp] theorem State.putOwners_pageHeld : (s.putOwners v).pageHeld = s.pageHeld := (rfl)
@[simp] theorem State.putOwners_pages : (s.putOwners v).pages = s.pages := (rfl)
@[simp] theorem State.putOwners_sparedRows : (s.putOwners v).sparedRows = s.sparedRows := (rfl)
@[simp] theorem State.putOwners_patrolAt : (s.putOwners v).patrolAt = s.patrolAt := (rfl)
@[simp] theorem State.putOwners_sramAt : (s.putOwners v).sramAt = s.sramAt := (rfl)
@[simp] theorem State.putOwners_selfRefresh : (s.putOwners v).selfRefresh = s.selfRefresh := (rfl)
@[simp] theorem State.putOwners_refreshing : (s.putOwners v).refreshing = s.refreshing := (rfl)
@[simp] theorem State.putOwners_sessions : (s.putOwners v).sessions = s.sessions := (rfl)
@[simp] theorem State.putOwners_hpActive : (s.putOwners v).hpActive = s.hpActive := (rfl)
@[simp] theorem State.putOwners_hpApply : (s.putOwners v).hpApply = s.hpApply := (rfl)
@[simp] theorem State.putOwners_hostLink : (s.putOwners v).hostLink = s.hostLink := (rfl)
@[simp] theorem State.putOwners_zctWait : (s.putOwners v).zctWait = s.zctWait := (rfl)
@[simp] theorem State.putOwners_flash : (s.putOwners v).flash = s.flash := (rfl)
@[simp] theorem State.putOwners_bootSlots : (s.putOwners v).bootSlots = s.bootSlots := (rfl)
@[simp] theorem State.putOwners_cert : (s.putOwners v).cert = s.cert := (rfl)
@[simp] theorem State.putOwners_jorou : (s.putOwners v).jorou = s.jorou := (rfl)
@[simp] theorem State.putOwners_wear : (s.putOwners v).wear = s.wear := (rfl)
@[simp] theorem State.putOwners_ledger : (s.putOwners v).ledger = s.ledger := (rfl)
@[simp] theorem State.putOwners_resetOp : (s.putOwners v).reset? = s.reset? := (rfl)
@[simp] theorem State.putOwners_resetQ : (s.putOwners v).resetQ = s.resetQ := (rfl)
@[simp] theorem State.putOwners_resetsDone : (s.putOwners v).resetsDone = s.resetsDone := (rfl)
@[simp] theorem State.putOwners_captures : (s.putOwners v).captures = s.captures := (rfl)
@[simp] theorem State.putOwners_capture : (s.putOwners v).capture = s.capture := (rfl)
@[simp] theorem State.putOwners_capQ : (s.putOwners v).capQ = s.capQ := (rfl)
@[simp] theorem State.putOwners_scan : (s.putOwners v).scan = s.scan := (rfl)
@[simp] theorem State.putOwners_hangs : (s.putOwners v).hangs = s.hangs := (rfl)
@[simp] theorem State.putOwners_stalls : (s.putOwners v).stalls = s.stalls := (rfl)
@[simp] theorem State.putOwners_power : (s.putOwners v).power = s.power := (rfl)
@[simp] theorem State.putOwners_wb : (s.putOwners v).wb = s.wb := (rfl)
end

section
variable (s : State) (v : List (Nat × Buf))
@[simp] theorem State.putBufs_pending : (s.putBufs v).pending = s.pending := (rfl)
@[simp] theorem State.putBufs_cycle : (s.putBufs v).cycle = s.cycle := (rfl)
@[simp] theorem State.putBufs_grade : (s.putBufs v).grade = s.grade := (rfl)
@[simp] theorem State.putBufs_freeCtr : (s.putBufs v).freeCtr = s.freeCtr := (rfl)
@[simp] theorem State.putBufs_out : (s.putBufs v).out = s.out := (rfl)
@[simp] theorem State.putBufs_mem : (s.putBufs v).mem = s.mem := (rfl)
@[simp] theorem State.putBufs_poison : (s.putBufs v).poison = s.poison := (rfl)
@[simp] theorem State.putBufs_regs : (s.putBufs v).regs = s.regs := (rfl)
@[simp] theorem State.putBufs_ports : (s.putBufs v).ports = s.ports := (rfl)
@[simp] theorem State.putBufs_laneMap : (s.putBufs v).laneMap = s.laneMap := (rfl)
@[simp] theorem State.putBufs_mapFixed : (s.putBufs v).mapFixed = s.mapFixed := (rfl)
@[simp] theorem State.putBufs_slots : (s.putBufs v).slots = s.slots := (rfl)
@[simp] theorem State.putBufs_queues : (s.putBufs v).queues = s.queues := (rfl)
@[simp] theorem State.putBufs_xin : (s.putBufs v).xin = s.xin := (rfl)
@[simp] theorem State.putBufs_xinLast : (s.putBufs v).xinLast = s.xinLast := (rfl)
@[simp] theorem State.putBufs_heldCells : (s.putBufs v).heldCells = s.heldCells := (rfl)
@[simp] theorem State.putBufs_retiredSlots : (s.putBufs v).retiredSlots = s.retiredSlots := (rfl)
@[simp] theorem State.putBufs_floor : (s.putBufs v).floor = s.floor := (rfl)
@[simp] theorem State.putBufs_mirrors : (s.putBufs v).mirrors = s.mirrors := (rfl)
@[simp] theorem State.putBufs_mirrorMade : (s.putBufs v).mirrorMade = s.mirrorMade := (rfl)
@[simp] theorem State.putBufs_sampleNext : (s.putBufs v).sampleNext = s.sampleNext := (rfl)
@[simp] theorem State.putBufs_sampleRead : (s.putBufs v).sampleRead = s.sampleRead := (rfl)
@[simp] theorem State.putBufs_smpStart : (s.putBufs v).smpStart = s.smpStart := (rfl)
@[simp] theorem State.putBufs_fails : (s.putBufs v).fails = s.fails := (rfl)
@[simp] theorem State.putBufs_echoes : (s.putBufs v).echoes = s.echoes := (rfl)
@[simp] theorem State.putBufs_echoGaps : (s.putBufs v).echoGaps = s.echoGaps := (rfl)
@[simp] theorem State.putBufs_noReturn : (s.putBufs v).noReturn = s.noReturn := (rfl)
@[simp] theorem State.putBufs_tiles : (s.putBufs v).tiles = s.tiles := (rfl)
@[simp] theorem State.putBufs_tileMap : (s.putBufs v).tileMap = s.tileMap := (rfl)
@[simp] theorem State.putBufs_failedTiles : (s.putBufs v).failedTiles = s.failedTiles := (rfl)
@[simp] theorem State.putBufs_candidates : (s.putBufs v).candidates = s.candidates := (rfl)
@[simp] theorem State.putBufs_inboxes : (s.putBufs v).inboxes = s.inboxes := (rfl)
@[simp] theorem State.putBufs_ctxs : (s.putBufs v).ctxs = s.ctxs := (rfl)
@[simp] theorem State.putBufs_ringPass : (s.putBufs v).ringPass = s.ringPass := (rfl)
@[simp] theorem State.putBufs_plans : (s.putBufs v).plans = s.plans := (rfl)
@[simp] theorem State.putBufs_planFp : (s.putBufs v).planFp = s.planFp := (rfl)
@[simp] theorem State.putBufs_groups : (s.putBufs v).groups = s.groups := (rfl)
@[simp] theorem State.putBufs_wmInbox : (s.putBufs v).wmInbox = s.wmInbox := (rfl)
@[simp] theorem State.putBufs_sets : (s.putBufs v).sets = s.sets := (rfl)
@[simp] theorem State.putBufs_ehts : (s.putBufs v).ehts = s.ehts := (rfl)
@[simp] theorem State.putBufs_expOpen : (s.putBufs v).expOpen = s.expOpen := (rfl)
@[simp] theorem State.putBufs_expIn : (s.putBufs v).expIn = s.expIn := (rfl)
@[simp] theorem State.putBufs_expWait : (s.putBufs v).expWait = s.expWait := (rfl)
@[simp] theorem State.putBufs_atomics : (s.putBufs v).atomics = s.atomics := (rfl)
@[simp] theorem State.putBufs_owners : (s.putBufs v).owners = s.owners := (rfl)
@[simp] theorem State.putBufs_bufs : (s.putBufs v).bufs = v := (rfl)
@[simp] theorem State.putBufs_pools : (s.putBufs v).pools = s.pools := (rfl)
@[simp] theorem State.putBufs_waiters : (s.putBufs v).waiters = s.waiters := (rfl)
@[simp] theorem State.putBufs_grants : (s.putBufs v).grants = s.grants := (rfl)
@[simp] theorem State.putBufs_rowErrs : (s.putBufs v).rowErrs = s.rowErrs := (rfl)
@[simp] theorem State.putBufs_pageErrs : (s.putBufs v).pageErrs = s.pageErrs := (rfl)
@[simp] theorem State.putBufs_pageHeld : (s.putBufs v).pageHeld = s.pageHeld := (rfl)
@[simp] theorem State.putBufs_pages : (s.putBufs v).pages = s.pages := (rfl)
@[simp] theorem State.putBufs_sparedRows : (s.putBufs v).sparedRows = s.sparedRows := (rfl)
@[simp] theorem State.putBufs_patrolAt : (s.putBufs v).patrolAt = s.patrolAt := (rfl)
@[simp] theorem State.putBufs_sramAt : (s.putBufs v).sramAt = s.sramAt := (rfl)
@[simp] theorem State.putBufs_selfRefresh : (s.putBufs v).selfRefresh = s.selfRefresh := (rfl)
@[simp] theorem State.putBufs_refreshing : (s.putBufs v).refreshing = s.refreshing := (rfl)
@[simp] theorem State.putBufs_sessions : (s.putBufs v).sessions = s.sessions := (rfl)
@[simp] theorem State.putBufs_hpActive : (s.putBufs v).hpActive = s.hpActive := (rfl)
@[simp] theorem State.putBufs_hpApply : (s.putBufs v).hpApply = s.hpApply := (rfl)
@[simp] theorem State.putBufs_hostLink : (s.putBufs v).hostLink = s.hostLink := (rfl)
@[simp] theorem State.putBufs_zctWait : (s.putBufs v).zctWait = s.zctWait := (rfl)
@[simp] theorem State.putBufs_flash : (s.putBufs v).flash = s.flash := (rfl)
@[simp] theorem State.putBufs_bootSlots : (s.putBufs v).bootSlots = s.bootSlots := (rfl)
@[simp] theorem State.putBufs_cert : (s.putBufs v).cert = s.cert := (rfl)
@[simp] theorem State.putBufs_jorou : (s.putBufs v).jorou = s.jorou := (rfl)
@[simp] theorem State.putBufs_wear : (s.putBufs v).wear = s.wear := (rfl)
@[simp] theorem State.putBufs_ledger : (s.putBufs v).ledger = s.ledger := (rfl)
@[simp] theorem State.putBufs_resetOp : (s.putBufs v).reset? = s.reset? := (rfl)
@[simp] theorem State.putBufs_resetQ : (s.putBufs v).resetQ = s.resetQ := (rfl)
@[simp] theorem State.putBufs_resetsDone : (s.putBufs v).resetsDone = s.resetsDone := (rfl)
@[simp] theorem State.putBufs_captures : (s.putBufs v).captures = s.captures := (rfl)
@[simp] theorem State.putBufs_capture : (s.putBufs v).capture = s.capture := (rfl)
@[simp] theorem State.putBufs_capQ : (s.putBufs v).capQ = s.capQ := (rfl)
@[simp] theorem State.putBufs_scan : (s.putBufs v).scan = s.scan := (rfl)
@[simp] theorem State.putBufs_hangs : (s.putBufs v).hangs = s.hangs := (rfl)
@[simp] theorem State.putBufs_stalls : (s.putBufs v).stalls = s.stalls := (rfl)
@[simp] theorem State.putBufs_power : (s.putBufs v).power = s.power := (rfl)
@[simp] theorem State.putBufs_wb : (s.putBufs v).wb = s.wb := (rfl)
end

section
variable (s : State) (v : List (Nat × Pool))
@[simp] theorem State.putPools_pending : (s.putPools v).pending = s.pending := (rfl)
@[simp] theorem State.putPools_cycle : (s.putPools v).cycle = s.cycle := (rfl)
@[simp] theorem State.putPools_grade : (s.putPools v).grade = s.grade := (rfl)
@[simp] theorem State.putPools_freeCtr : (s.putPools v).freeCtr = s.freeCtr := (rfl)
@[simp] theorem State.putPools_out : (s.putPools v).out = s.out := (rfl)
@[simp] theorem State.putPools_mem : (s.putPools v).mem = s.mem := (rfl)
@[simp] theorem State.putPools_poison : (s.putPools v).poison = s.poison := (rfl)
@[simp] theorem State.putPools_regs : (s.putPools v).regs = s.regs := (rfl)
@[simp] theorem State.putPools_ports : (s.putPools v).ports = s.ports := (rfl)
@[simp] theorem State.putPools_laneMap : (s.putPools v).laneMap = s.laneMap := (rfl)
@[simp] theorem State.putPools_mapFixed : (s.putPools v).mapFixed = s.mapFixed := (rfl)
@[simp] theorem State.putPools_slots : (s.putPools v).slots = s.slots := (rfl)
@[simp] theorem State.putPools_queues : (s.putPools v).queues = s.queues := (rfl)
@[simp] theorem State.putPools_xin : (s.putPools v).xin = s.xin := (rfl)
@[simp] theorem State.putPools_xinLast : (s.putPools v).xinLast = s.xinLast := (rfl)
@[simp] theorem State.putPools_heldCells : (s.putPools v).heldCells = s.heldCells := (rfl)
@[simp] theorem State.putPools_retiredSlots : (s.putPools v).retiredSlots = s.retiredSlots := (rfl)
@[simp] theorem State.putPools_floor : (s.putPools v).floor = s.floor := (rfl)
@[simp] theorem State.putPools_mirrors : (s.putPools v).mirrors = s.mirrors := (rfl)
@[simp] theorem State.putPools_mirrorMade : (s.putPools v).mirrorMade = s.mirrorMade := (rfl)
@[simp] theorem State.putPools_sampleNext : (s.putPools v).sampleNext = s.sampleNext := (rfl)
@[simp] theorem State.putPools_sampleRead : (s.putPools v).sampleRead = s.sampleRead := (rfl)
@[simp] theorem State.putPools_smpStart : (s.putPools v).smpStart = s.smpStart := (rfl)
@[simp] theorem State.putPools_fails : (s.putPools v).fails = s.fails := (rfl)
@[simp] theorem State.putPools_echoes : (s.putPools v).echoes = s.echoes := (rfl)
@[simp] theorem State.putPools_echoGaps : (s.putPools v).echoGaps = s.echoGaps := (rfl)
@[simp] theorem State.putPools_noReturn : (s.putPools v).noReturn = s.noReturn := (rfl)
@[simp] theorem State.putPools_tiles : (s.putPools v).tiles = s.tiles := (rfl)
@[simp] theorem State.putPools_tileMap : (s.putPools v).tileMap = s.tileMap := (rfl)
@[simp] theorem State.putPools_failedTiles : (s.putPools v).failedTiles = s.failedTiles := (rfl)
@[simp] theorem State.putPools_candidates : (s.putPools v).candidates = s.candidates := (rfl)
@[simp] theorem State.putPools_inboxes : (s.putPools v).inboxes = s.inboxes := (rfl)
@[simp] theorem State.putPools_ctxs : (s.putPools v).ctxs = s.ctxs := (rfl)
@[simp] theorem State.putPools_ringPass : (s.putPools v).ringPass = s.ringPass := (rfl)
@[simp] theorem State.putPools_plans : (s.putPools v).plans = s.plans := (rfl)
@[simp] theorem State.putPools_planFp : (s.putPools v).planFp = s.planFp := (rfl)
@[simp] theorem State.putPools_groups : (s.putPools v).groups = s.groups := (rfl)
@[simp] theorem State.putPools_wmInbox : (s.putPools v).wmInbox = s.wmInbox := (rfl)
@[simp] theorem State.putPools_sets : (s.putPools v).sets = s.sets := (rfl)
@[simp] theorem State.putPools_ehts : (s.putPools v).ehts = s.ehts := (rfl)
@[simp] theorem State.putPools_expOpen : (s.putPools v).expOpen = s.expOpen := (rfl)
@[simp] theorem State.putPools_expIn : (s.putPools v).expIn = s.expIn := (rfl)
@[simp] theorem State.putPools_expWait : (s.putPools v).expWait = s.expWait := (rfl)
@[simp] theorem State.putPools_atomics : (s.putPools v).atomics = s.atomics := (rfl)
@[simp] theorem State.putPools_owners : (s.putPools v).owners = s.owners := (rfl)
@[simp] theorem State.putPools_bufs : (s.putPools v).bufs = s.bufs := (rfl)
@[simp] theorem State.putPools_pools : (s.putPools v).pools = v := (rfl)
@[simp] theorem State.putPools_waiters : (s.putPools v).waiters = s.waiters := (rfl)
@[simp] theorem State.putPools_grants : (s.putPools v).grants = s.grants := (rfl)
@[simp] theorem State.putPools_rowErrs : (s.putPools v).rowErrs = s.rowErrs := (rfl)
@[simp] theorem State.putPools_pageErrs : (s.putPools v).pageErrs = s.pageErrs := (rfl)
@[simp] theorem State.putPools_pageHeld : (s.putPools v).pageHeld = s.pageHeld := (rfl)
@[simp] theorem State.putPools_pages : (s.putPools v).pages = s.pages := (rfl)
@[simp] theorem State.putPools_sparedRows : (s.putPools v).sparedRows = s.sparedRows := (rfl)
@[simp] theorem State.putPools_patrolAt : (s.putPools v).patrolAt = s.patrolAt := (rfl)
@[simp] theorem State.putPools_sramAt : (s.putPools v).sramAt = s.sramAt := (rfl)
@[simp] theorem State.putPools_selfRefresh : (s.putPools v).selfRefresh = s.selfRefresh := (rfl)
@[simp] theorem State.putPools_refreshing : (s.putPools v).refreshing = s.refreshing := (rfl)
@[simp] theorem State.putPools_sessions : (s.putPools v).sessions = s.sessions := (rfl)
@[simp] theorem State.putPools_hpActive : (s.putPools v).hpActive = s.hpActive := (rfl)
@[simp] theorem State.putPools_hpApply : (s.putPools v).hpApply = s.hpApply := (rfl)
@[simp] theorem State.putPools_hostLink : (s.putPools v).hostLink = s.hostLink := (rfl)
@[simp] theorem State.putPools_zctWait : (s.putPools v).zctWait = s.zctWait := (rfl)
@[simp] theorem State.putPools_flash : (s.putPools v).flash = s.flash := (rfl)
@[simp] theorem State.putPools_bootSlots : (s.putPools v).bootSlots = s.bootSlots := (rfl)
@[simp] theorem State.putPools_cert : (s.putPools v).cert = s.cert := (rfl)
@[simp] theorem State.putPools_jorou : (s.putPools v).jorou = s.jorou := (rfl)
@[simp] theorem State.putPools_wear : (s.putPools v).wear = s.wear := (rfl)
@[simp] theorem State.putPools_ledger : (s.putPools v).ledger = s.ledger := (rfl)
@[simp] theorem State.putPools_resetOp : (s.putPools v).reset? = s.reset? := (rfl)
@[simp] theorem State.putPools_resetQ : (s.putPools v).resetQ = s.resetQ := (rfl)
@[simp] theorem State.putPools_resetsDone : (s.putPools v).resetsDone = s.resetsDone := (rfl)
@[simp] theorem State.putPools_captures : (s.putPools v).captures = s.captures := (rfl)
@[simp] theorem State.putPools_capture : (s.putPools v).capture = s.capture := (rfl)
@[simp] theorem State.putPools_capQ : (s.putPools v).capQ = s.capQ := (rfl)
@[simp] theorem State.putPools_scan : (s.putPools v).scan = s.scan := (rfl)
@[simp] theorem State.putPools_hangs : (s.putPools v).hangs = s.hangs := (rfl)
@[simp] theorem State.putPools_stalls : (s.putPools v).stalls = s.stalls := (rfl)
@[simp] theorem State.putPools_power : (s.putPools v).power = s.power := (rfl)
@[simp] theorem State.putPools_wb : (s.putPools v).wb = s.wb := (rfl)
end

section
variable (s : State) (v : List Waiter)
@[simp] theorem State.putWaiters_pending : (s.putWaiters v).pending = s.pending := (rfl)
@[simp] theorem State.putWaiters_cycle : (s.putWaiters v).cycle = s.cycle := (rfl)
@[simp] theorem State.putWaiters_grade : (s.putWaiters v).grade = s.grade := (rfl)
@[simp] theorem State.putWaiters_freeCtr : (s.putWaiters v).freeCtr = s.freeCtr := (rfl)
@[simp] theorem State.putWaiters_out : (s.putWaiters v).out = s.out := (rfl)
@[simp] theorem State.putWaiters_mem : (s.putWaiters v).mem = s.mem := (rfl)
@[simp] theorem State.putWaiters_poison : (s.putWaiters v).poison = s.poison := (rfl)
@[simp] theorem State.putWaiters_regs : (s.putWaiters v).regs = s.regs := (rfl)
@[simp] theorem State.putWaiters_ports : (s.putWaiters v).ports = s.ports := (rfl)
@[simp] theorem State.putWaiters_laneMap : (s.putWaiters v).laneMap = s.laneMap := (rfl)
@[simp] theorem State.putWaiters_mapFixed : (s.putWaiters v).mapFixed = s.mapFixed := (rfl)
@[simp] theorem State.putWaiters_slots : (s.putWaiters v).slots = s.slots := (rfl)
@[simp] theorem State.putWaiters_queues : (s.putWaiters v).queues = s.queues := (rfl)
@[simp] theorem State.putWaiters_xin : (s.putWaiters v).xin = s.xin := (rfl)
@[simp] theorem State.putWaiters_xinLast : (s.putWaiters v).xinLast = s.xinLast := (rfl)
@[simp] theorem State.putWaiters_heldCells : (s.putWaiters v).heldCells = s.heldCells := (rfl)
@[simp] theorem State.putWaiters_retiredSlots : (s.putWaiters v).retiredSlots = s.retiredSlots := (rfl)
@[simp] theorem State.putWaiters_floor : (s.putWaiters v).floor = s.floor := (rfl)
@[simp] theorem State.putWaiters_mirrors : (s.putWaiters v).mirrors = s.mirrors := (rfl)
@[simp] theorem State.putWaiters_mirrorMade : (s.putWaiters v).mirrorMade = s.mirrorMade := (rfl)
@[simp] theorem State.putWaiters_sampleNext : (s.putWaiters v).sampleNext = s.sampleNext := (rfl)
@[simp] theorem State.putWaiters_sampleRead : (s.putWaiters v).sampleRead = s.sampleRead := (rfl)
@[simp] theorem State.putWaiters_smpStart : (s.putWaiters v).smpStart = s.smpStart := (rfl)
@[simp] theorem State.putWaiters_fails : (s.putWaiters v).fails = s.fails := (rfl)
@[simp] theorem State.putWaiters_echoes : (s.putWaiters v).echoes = s.echoes := (rfl)
@[simp] theorem State.putWaiters_echoGaps : (s.putWaiters v).echoGaps = s.echoGaps := (rfl)
@[simp] theorem State.putWaiters_noReturn : (s.putWaiters v).noReturn = s.noReturn := (rfl)
@[simp] theorem State.putWaiters_tiles : (s.putWaiters v).tiles = s.tiles := (rfl)
@[simp] theorem State.putWaiters_tileMap : (s.putWaiters v).tileMap = s.tileMap := (rfl)
@[simp] theorem State.putWaiters_failedTiles : (s.putWaiters v).failedTiles = s.failedTiles := (rfl)
@[simp] theorem State.putWaiters_candidates : (s.putWaiters v).candidates = s.candidates := (rfl)
@[simp] theorem State.putWaiters_inboxes : (s.putWaiters v).inboxes = s.inboxes := (rfl)
@[simp] theorem State.putWaiters_ctxs : (s.putWaiters v).ctxs = s.ctxs := (rfl)
@[simp] theorem State.putWaiters_ringPass : (s.putWaiters v).ringPass = s.ringPass := (rfl)
@[simp] theorem State.putWaiters_plans : (s.putWaiters v).plans = s.plans := (rfl)
@[simp] theorem State.putWaiters_planFp : (s.putWaiters v).planFp = s.planFp := (rfl)
@[simp] theorem State.putWaiters_groups : (s.putWaiters v).groups = s.groups := (rfl)
@[simp] theorem State.putWaiters_wmInbox : (s.putWaiters v).wmInbox = s.wmInbox := (rfl)
@[simp] theorem State.putWaiters_sets : (s.putWaiters v).sets = s.sets := (rfl)
@[simp] theorem State.putWaiters_ehts : (s.putWaiters v).ehts = s.ehts := (rfl)
@[simp] theorem State.putWaiters_expOpen : (s.putWaiters v).expOpen = s.expOpen := (rfl)
@[simp] theorem State.putWaiters_expIn : (s.putWaiters v).expIn = s.expIn := (rfl)
@[simp] theorem State.putWaiters_expWait : (s.putWaiters v).expWait = s.expWait := (rfl)
@[simp] theorem State.putWaiters_atomics : (s.putWaiters v).atomics = s.atomics := (rfl)
@[simp] theorem State.putWaiters_owners : (s.putWaiters v).owners = s.owners := (rfl)
@[simp] theorem State.putWaiters_bufs : (s.putWaiters v).bufs = s.bufs := (rfl)
@[simp] theorem State.putWaiters_pools : (s.putWaiters v).pools = s.pools := (rfl)
@[simp] theorem State.putWaiters_waiters : (s.putWaiters v).waiters = v := (rfl)
@[simp] theorem State.putWaiters_grants : (s.putWaiters v).grants = s.grants := (rfl)
@[simp] theorem State.putWaiters_rowErrs : (s.putWaiters v).rowErrs = s.rowErrs := (rfl)
@[simp] theorem State.putWaiters_pageErrs : (s.putWaiters v).pageErrs = s.pageErrs := (rfl)
@[simp] theorem State.putWaiters_pageHeld : (s.putWaiters v).pageHeld = s.pageHeld := (rfl)
@[simp] theorem State.putWaiters_pages : (s.putWaiters v).pages = s.pages := (rfl)
@[simp] theorem State.putWaiters_sparedRows : (s.putWaiters v).sparedRows = s.sparedRows := (rfl)
@[simp] theorem State.putWaiters_patrolAt : (s.putWaiters v).patrolAt = s.patrolAt := (rfl)
@[simp] theorem State.putWaiters_sramAt : (s.putWaiters v).sramAt = s.sramAt := (rfl)
@[simp] theorem State.putWaiters_selfRefresh : (s.putWaiters v).selfRefresh = s.selfRefresh := (rfl)
@[simp] theorem State.putWaiters_refreshing : (s.putWaiters v).refreshing = s.refreshing := (rfl)
@[simp] theorem State.putWaiters_sessions : (s.putWaiters v).sessions = s.sessions := (rfl)
@[simp] theorem State.putWaiters_hpActive : (s.putWaiters v).hpActive = s.hpActive := (rfl)
@[simp] theorem State.putWaiters_hpApply : (s.putWaiters v).hpApply = s.hpApply := (rfl)
@[simp] theorem State.putWaiters_hostLink : (s.putWaiters v).hostLink = s.hostLink := (rfl)
@[simp] theorem State.putWaiters_zctWait : (s.putWaiters v).zctWait = s.zctWait := (rfl)
@[simp] theorem State.putWaiters_flash : (s.putWaiters v).flash = s.flash := (rfl)
@[simp] theorem State.putWaiters_bootSlots : (s.putWaiters v).bootSlots = s.bootSlots := (rfl)
@[simp] theorem State.putWaiters_cert : (s.putWaiters v).cert = s.cert := (rfl)
@[simp] theorem State.putWaiters_jorou : (s.putWaiters v).jorou = s.jorou := (rfl)
@[simp] theorem State.putWaiters_wear : (s.putWaiters v).wear = s.wear := (rfl)
@[simp] theorem State.putWaiters_ledger : (s.putWaiters v).ledger = s.ledger := (rfl)
@[simp] theorem State.putWaiters_resetOp : (s.putWaiters v).reset? = s.reset? := (rfl)
@[simp] theorem State.putWaiters_resetQ : (s.putWaiters v).resetQ = s.resetQ := (rfl)
@[simp] theorem State.putWaiters_resetsDone : (s.putWaiters v).resetsDone = s.resetsDone := (rfl)
@[simp] theorem State.putWaiters_captures : (s.putWaiters v).captures = s.captures := (rfl)
@[simp] theorem State.putWaiters_capture : (s.putWaiters v).capture = s.capture := (rfl)
@[simp] theorem State.putWaiters_capQ : (s.putWaiters v).capQ = s.capQ := (rfl)
@[simp] theorem State.putWaiters_scan : (s.putWaiters v).scan = s.scan := (rfl)
@[simp] theorem State.putWaiters_hangs : (s.putWaiters v).hangs = s.hangs := (rfl)
@[simp] theorem State.putWaiters_stalls : (s.putWaiters v).stalls = s.stalls := (rfl)
@[simp] theorem State.putWaiters_power : (s.putWaiters v).power = s.power := (rfl)
@[simp] theorem State.putWaiters_wb : (s.putWaiters v).wb = s.wb := (rfl)
end

section
variable (s : State) (v : List (Waiter × Word))
@[simp] theorem State.putGrants_pending : (s.putGrants v).pending = s.pending := (rfl)
@[simp] theorem State.putGrants_cycle : (s.putGrants v).cycle = s.cycle := (rfl)
@[simp] theorem State.putGrants_grade : (s.putGrants v).grade = s.grade := (rfl)
@[simp] theorem State.putGrants_freeCtr : (s.putGrants v).freeCtr = s.freeCtr := (rfl)
@[simp] theorem State.putGrants_out : (s.putGrants v).out = s.out := (rfl)
@[simp] theorem State.putGrants_mem : (s.putGrants v).mem = s.mem := (rfl)
@[simp] theorem State.putGrants_poison : (s.putGrants v).poison = s.poison := (rfl)
@[simp] theorem State.putGrants_regs : (s.putGrants v).regs = s.regs := (rfl)
@[simp] theorem State.putGrants_ports : (s.putGrants v).ports = s.ports := (rfl)
@[simp] theorem State.putGrants_laneMap : (s.putGrants v).laneMap = s.laneMap := (rfl)
@[simp] theorem State.putGrants_mapFixed : (s.putGrants v).mapFixed = s.mapFixed := (rfl)
@[simp] theorem State.putGrants_slots : (s.putGrants v).slots = s.slots := (rfl)
@[simp] theorem State.putGrants_queues : (s.putGrants v).queues = s.queues := (rfl)
@[simp] theorem State.putGrants_xin : (s.putGrants v).xin = s.xin := (rfl)
@[simp] theorem State.putGrants_xinLast : (s.putGrants v).xinLast = s.xinLast := (rfl)
@[simp] theorem State.putGrants_heldCells : (s.putGrants v).heldCells = s.heldCells := (rfl)
@[simp] theorem State.putGrants_retiredSlots : (s.putGrants v).retiredSlots = s.retiredSlots := (rfl)
@[simp] theorem State.putGrants_floor : (s.putGrants v).floor = s.floor := (rfl)
@[simp] theorem State.putGrants_mirrors : (s.putGrants v).mirrors = s.mirrors := (rfl)
@[simp] theorem State.putGrants_mirrorMade : (s.putGrants v).mirrorMade = s.mirrorMade := (rfl)
@[simp] theorem State.putGrants_sampleNext : (s.putGrants v).sampleNext = s.sampleNext := (rfl)
@[simp] theorem State.putGrants_sampleRead : (s.putGrants v).sampleRead = s.sampleRead := (rfl)
@[simp] theorem State.putGrants_smpStart : (s.putGrants v).smpStart = s.smpStart := (rfl)
@[simp] theorem State.putGrants_fails : (s.putGrants v).fails = s.fails := (rfl)
@[simp] theorem State.putGrants_echoes : (s.putGrants v).echoes = s.echoes := (rfl)
@[simp] theorem State.putGrants_echoGaps : (s.putGrants v).echoGaps = s.echoGaps := (rfl)
@[simp] theorem State.putGrants_noReturn : (s.putGrants v).noReturn = s.noReturn := (rfl)
@[simp] theorem State.putGrants_tiles : (s.putGrants v).tiles = s.tiles := (rfl)
@[simp] theorem State.putGrants_tileMap : (s.putGrants v).tileMap = s.tileMap := (rfl)
@[simp] theorem State.putGrants_failedTiles : (s.putGrants v).failedTiles = s.failedTiles := (rfl)
@[simp] theorem State.putGrants_candidates : (s.putGrants v).candidates = s.candidates := (rfl)
@[simp] theorem State.putGrants_inboxes : (s.putGrants v).inboxes = s.inboxes := (rfl)
@[simp] theorem State.putGrants_ctxs : (s.putGrants v).ctxs = s.ctxs := (rfl)
@[simp] theorem State.putGrants_ringPass : (s.putGrants v).ringPass = s.ringPass := (rfl)
@[simp] theorem State.putGrants_plans : (s.putGrants v).plans = s.plans := (rfl)
@[simp] theorem State.putGrants_planFp : (s.putGrants v).planFp = s.planFp := (rfl)
@[simp] theorem State.putGrants_groups : (s.putGrants v).groups = s.groups := (rfl)
@[simp] theorem State.putGrants_wmInbox : (s.putGrants v).wmInbox = s.wmInbox := (rfl)
@[simp] theorem State.putGrants_sets : (s.putGrants v).sets = s.sets := (rfl)
@[simp] theorem State.putGrants_ehts : (s.putGrants v).ehts = s.ehts := (rfl)
@[simp] theorem State.putGrants_expOpen : (s.putGrants v).expOpen = s.expOpen := (rfl)
@[simp] theorem State.putGrants_expIn : (s.putGrants v).expIn = s.expIn := (rfl)
@[simp] theorem State.putGrants_expWait : (s.putGrants v).expWait = s.expWait := (rfl)
@[simp] theorem State.putGrants_atomics : (s.putGrants v).atomics = s.atomics := (rfl)
@[simp] theorem State.putGrants_owners : (s.putGrants v).owners = s.owners := (rfl)
@[simp] theorem State.putGrants_bufs : (s.putGrants v).bufs = s.bufs := (rfl)
@[simp] theorem State.putGrants_pools : (s.putGrants v).pools = s.pools := (rfl)
@[simp] theorem State.putGrants_waiters : (s.putGrants v).waiters = s.waiters := (rfl)
@[simp] theorem State.putGrants_grants : (s.putGrants v).grants = v := (rfl)
@[simp] theorem State.putGrants_rowErrs : (s.putGrants v).rowErrs = s.rowErrs := (rfl)
@[simp] theorem State.putGrants_pageErrs : (s.putGrants v).pageErrs = s.pageErrs := (rfl)
@[simp] theorem State.putGrants_pageHeld : (s.putGrants v).pageHeld = s.pageHeld := (rfl)
@[simp] theorem State.putGrants_pages : (s.putGrants v).pages = s.pages := (rfl)
@[simp] theorem State.putGrants_sparedRows : (s.putGrants v).sparedRows = s.sparedRows := (rfl)
@[simp] theorem State.putGrants_patrolAt : (s.putGrants v).patrolAt = s.patrolAt := (rfl)
@[simp] theorem State.putGrants_sramAt : (s.putGrants v).sramAt = s.sramAt := (rfl)
@[simp] theorem State.putGrants_selfRefresh : (s.putGrants v).selfRefresh = s.selfRefresh := (rfl)
@[simp] theorem State.putGrants_refreshing : (s.putGrants v).refreshing = s.refreshing := (rfl)
@[simp] theorem State.putGrants_sessions : (s.putGrants v).sessions = s.sessions := (rfl)
@[simp] theorem State.putGrants_hpActive : (s.putGrants v).hpActive = s.hpActive := (rfl)
@[simp] theorem State.putGrants_hpApply : (s.putGrants v).hpApply = s.hpApply := (rfl)
@[simp] theorem State.putGrants_hostLink : (s.putGrants v).hostLink = s.hostLink := (rfl)
@[simp] theorem State.putGrants_zctWait : (s.putGrants v).zctWait = s.zctWait := (rfl)
@[simp] theorem State.putGrants_flash : (s.putGrants v).flash = s.flash := (rfl)
@[simp] theorem State.putGrants_bootSlots : (s.putGrants v).bootSlots = s.bootSlots := (rfl)
@[simp] theorem State.putGrants_cert : (s.putGrants v).cert = s.cert := (rfl)
@[simp] theorem State.putGrants_jorou : (s.putGrants v).jorou = s.jorou := (rfl)
@[simp] theorem State.putGrants_wear : (s.putGrants v).wear = s.wear := (rfl)
@[simp] theorem State.putGrants_ledger : (s.putGrants v).ledger = s.ledger := (rfl)
@[simp] theorem State.putGrants_resetOp : (s.putGrants v).reset? = s.reset? := (rfl)
@[simp] theorem State.putGrants_resetQ : (s.putGrants v).resetQ = s.resetQ := (rfl)
@[simp] theorem State.putGrants_resetsDone : (s.putGrants v).resetsDone = s.resetsDone := (rfl)
@[simp] theorem State.putGrants_captures : (s.putGrants v).captures = s.captures := (rfl)
@[simp] theorem State.putGrants_capture : (s.putGrants v).capture = s.capture := (rfl)
@[simp] theorem State.putGrants_capQ : (s.putGrants v).capQ = s.capQ := (rfl)
@[simp] theorem State.putGrants_scan : (s.putGrants v).scan = s.scan := (rfl)
@[simp] theorem State.putGrants_hangs : (s.putGrants v).hangs = s.hangs := (rfl)
@[simp] theorem State.putGrants_stalls : (s.putGrants v).stalls = s.stalls := (rfl)
@[simp] theorem State.putGrants_power : (s.putGrants v).power = s.power := (rfl)
@[simp] theorem State.putGrants_wb : (s.putGrants v).wb = s.wb := (rfl)
end

section
variable (s : State) (v : List (Nat × Nat))
@[simp] theorem State.putRowErrs_pending : (s.putRowErrs v).pending = s.pending := (rfl)
@[simp] theorem State.putRowErrs_cycle : (s.putRowErrs v).cycle = s.cycle := (rfl)
@[simp] theorem State.putRowErrs_grade : (s.putRowErrs v).grade = s.grade := (rfl)
@[simp] theorem State.putRowErrs_freeCtr : (s.putRowErrs v).freeCtr = s.freeCtr := (rfl)
@[simp] theorem State.putRowErrs_out : (s.putRowErrs v).out = s.out := (rfl)
@[simp] theorem State.putRowErrs_mem : (s.putRowErrs v).mem = s.mem := (rfl)
@[simp] theorem State.putRowErrs_poison : (s.putRowErrs v).poison = s.poison := (rfl)
@[simp] theorem State.putRowErrs_regs : (s.putRowErrs v).regs = s.regs := (rfl)
@[simp] theorem State.putRowErrs_ports : (s.putRowErrs v).ports = s.ports := (rfl)
@[simp] theorem State.putRowErrs_laneMap : (s.putRowErrs v).laneMap = s.laneMap := (rfl)
@[simp] theorem State.putRowErrs_mapFixed : (s.putRowErrs v).mapFixed = s.mapFixed := (rfl)
@[simp] theorem State.putRowErrs_slots : (s.putRowErrs v).slots = s.slots := (rfl)
@[simp] theorem State.putRowErrs_queues : (s.putRowErrs v).queues = s.queues := (rfl)
@[simp] theorem State.putRowErrs_xin : (s.putRowErrs v).xin = s.xin := (rfl)
@[simp] theorem State.putRowErrs_xinLast : (s.putRowErrs v).xinLast = s.xinLast := (rfl)
@[simp] theorem State.putRowErrs_heldCells : (s.putRowErrs v).heldCells = s.heldCells := (rfl)
@[simp] theorem State.putRowErrs_retiredSlots : (s.putRowErrs v).retiredSlots = s.retiredSlots := (rfl)
@[simp] theorem State.putRowErrs_floor : (s.putRowErrs v).floor = s.floor := (rfl)
@[simp] theorem State.putRowErrs_mirrors : (s.putRowErrs v).mirrors = s.mirrors := (rfl)
@[simp] theorem State.putRowErrs_mirrorMade : (s.putRowErrs v).mirrorMade = s.mirrorMade := (rfl)
@[simp] theorem State.putRowErrs_sampleNext : (s.putRowErrs v).sampleNext = s.sampleNext := (rfl)
@[simp] theorem State.putRowErrs_sampleRead : (s.putRowErrs v).sampleRead = s.sampleRead := (rfl)
@[simp] theorem State.putRowErrs_smpStart : (s.putRowErrs v).smpStart = s.smpStart := (rfl)
@[simp] theorem State.putRowErrs_fails : (s.putRowErrs v).fails = s.fails := (rfl)
@[simp] theorem State.putRowErrs_echoes : (s.putRowErrs v).echoes = s.echoes := (rfl)
@[simp] theorem State.putRowErrs_echoGaps : (s.putRowErrs v).echoGaps = s.echoGaps := (rfl)
@[simp] theorem State.putRowErrs_noReturn : (s.putRowErrs v).noReturn = s.noReturn := (rfl)
@[simp] theorem State.putRowErrs_tiles : (s.putRowErrs v).tiles = s.tiles := (rfl)
@[simp] theorem State.putRowErrs_tileMap : (s.putRowErrs v).tileMap = s.tileMap := (rfl)
@[simp] theorem State.putRowErrs_failedTiles : (s.putRowErrs v).failedTiles = s.failedTiles := (rfl)
@[simp] theorem State.putRowErrs_candidates : (s.putRowErrs v).candidates = s.candidates := (rfl)
@[simp] theorem State.putRowErrs_inboxes : (s.putRowErrs v).inboxes = s.inboxes := (rfl)
@[simp] theorem State.putRowErrs_ctxs : (s.putRowErrs v).ctxs = s.ctxs := (rfl)
@[simp] theorem State.putRowErrs_ringPass : (s.putRowErrs v).ringPass = s.ringPass := (rfl)
@[simp] theorem State.putRowErrs_plans : (s.putRowErrs v).plans = s.plans := (rfl)
@[simp] theorem State.putRowErrs_planFp : (s.putRowErrs v).planFp = s.planFp := (rfl)
@[simp] theorem State.putRowErrs_groups : (s.putRowErrs v).groups = s.groups := (rfl)
@[simp] theorem State.putRowErrs_wmInbox : (s.putRowErrs v).wmInbox = s.wmInbox := (rfl)
@[simp] theorem State.putRowErrs_sets : (s.putRowErrs v).sets = s.sets := (rfl)
@[simp] theorem State.putRowErrs_ehts : (s.putRowErrs v).ehts = s.ehts := (rfl)
@[simp] theorem State.putRowErrs_expOpen : (s.putRowErrs v).expOpen = s.expOpen := (rfl)
@[simp] theorem State.putRowErrs_expIn : (s.putRowErrs v).expIn = s.expIn := (rfl)
@[simp] theorem State.putRowErrs_expWait : (s.putRowErrs v).expWait = s.expWait := (rfl)
@[simp] theorem State.putRowErrs_atomics : (s.putRowErrs v).atomics = s.atomics := (rfl)
@[simp] theorem State.putRowErrs_owners : (s.putRowErrs v).owners = s.owners := (rfl)
@[simp] theorem State.putRowErrs_bufs : (s.putRowErrs v).bufs = s.bufs := (rfl)
@[simp] theorem State.putRowErrs_pools : (s.putRowErrs v).pools = s.pools := (rfl)
@[simp] theorem State.putRowErrs_waiters : (s.putRowErrs v).waiters = s.waiters := (rfl)
@[simp] theorem State.putRowErrs_grants : (s.putRowErrs v).grants = s.grants := (rfl)
@[simp] theorem State.putRowErrs_rowErrs : (s.putRowErrs v).rowErrs = v := (rfl)
@[simp] theorem State.putRowErrs_pageErrs : (s.putRowErrs v).pageErrs = s.pageErrs := (rfl)
@[simp] theorem State.putRowErrs_pageHeld : (s.putRowErrs v).pageHeld = s.pageHeld := (rfl)
@[simp] theorem State.putRowErrs_pages : (s.putRowErrs v).pages = s.pages := (rfl)
@[simp] theorem State.putRowErrs_sparedRows : (s.putRowErrs v).sparedRows = s.sparedRows := (rfl)
@[simp] theorem State.putRowErrs_patrolAt : (s.putRowErrs v).patrolAt = s.patrolAt := (rfl)
@[simp] theorem State.putRowErrs_sramAt : (s.putRowErrs v).sramAt = s.sramAt := (rfl)
@[simp] theorem State.putRowErrs_selfRefresh : (s.putRowErrs v).selfRefresh = s.selfRefresh := (rfl)
@[simp] theorem State.putRowErrs_refreshing : (s.putRowErrs v).refreshing = s.refreshing := (rfl)
@[simp] theorem State.putRowErrs_sessions : (s.putRowErrs v).sessions = s.sessions := (rfl)
@[simp] theorem State.putRowErrs_hpActive : (s.putRowErrs v).hpActive = s.hpActive := (rfl)
@[simp] theorem State.putRowErrs_hpApply : (s.putRowErrs v).hpApply = s.hpApply := (rfl)
@[simp] theorem State.putRowErrs_hostLink : (s.putRowErrs v).hostLink = s.hostLink := (rfl)
@[simp] theorem State.putRowErrs_zctWait : (s.putRowErrs v).zctWait = s.zctWait := (rfl)
@[simp] theorem State.putRowErrs_flash : (s.putRowErrs v).flash = s.flash := (rfl)
@[simp] theorem State.putRowErrs_bootSlots : (s.putRowErrs v).bootSlots = s.bootSlots := (rfl)
@[simp] theorem State.putRowErrs_cert : (s.putRowErrs v).cert = s.cert := (rfl)
@[simp] theorem State.putRowErrs_jorou : (s.putRowErrs v).jorou = s.jorou := (rfl)
@[simp] theorem State.putRowErrs_wear : (s.putRowErrs v).wear = s.wear := (rfl)
@[simp] theorem State.putRowErrs_ledger : (s.putRowErrs v).ledger = s.ledger := (rfl)
@[simp] theorem State.putRowErrs_resetOp : (s.putRowErrs v).reset? = s.reset? := (rfl)
@[simp] theorem State.putRowErrs_resetQ : (s.putRowErrs v).resetQ = s.resetQ := (rfl)
@[simp] theorem State.putRowErrs_resetsDone : (s.putRowErrs v).resetsDone = s.resetsDone := (rfl)
@[simp] theorem State.putRowErrs_captures : (s.putRowErrs v).captures = s.captures := (rfl)
@[simp] theorem State.putRowErrs_capture : (s.putRowErrs v).capture = s.capture := (rfl)
@[simp] theorem State.putRowErrs_capQ : (s.putRowErrs v).capQ = s.capQ := (rfl)
@[simp] theorem State.putRowErrs_scan : (s.putRowErrs v).scan = s.scan := (rfl)
@[simp] theorem State.putRowErrs_hangs : (s.putRowErrs v).hangs = s.hangs := (rfl)
@[simp] theorem State.putRowErrs_stalls : (s.putRowErrs v).stalls = s.stalls := (rfl)
@[simp] theorem State.putRowErrs_power : (s.putRowErrs v).power = s.power := (rfl)
@[simp] theorem State.putRowErrs_wb : (s.putRowErrs v).wb = s.wb := (rfl)
end

section
variable (s : State) (v : List (Nat × Nat))
@[simp] theorem State.putPageErrs_pending : (s.putPageErrs v).pending = s.pending := (rfl)
@[simp] theorem State.putPageErrs_cycle : (s.putPageErrs v).cycle = s.cycle := (rfl)
@[simp] theorem State.putPageErrs_grade : (s.putPageErrs v).grade = s.grade := (rfl)
@[simp] theorem State.putPageErrs_freeCtr : (s.putPageErrs v).freeCtr = s.freeCtr := (rfl)
@[simp] theorem State.putPageErrs_out : (s.putPageErrs v).out = s.out := (rfl)
@[simp] theorem State.putPageErrs_mem : (s.putPageErrs v).mem = s.mem := (rfl)
@[simp] theorem State.putPageErrs_poison : (s.putPageErrs v).poison = s.poison := (rfl)
@[simp] theorem State.putPageErrs_regs : (s.putPageErrs v).regs = s.regs := (rfl)
@[simp] theorem State.putPageErrs_ports : (s.putPageErrs v).ports = s.ports := (rfl)
@[simp] theorem State.putPageErrs_laneMap : (s.putPageErrs v).laneMap = s.laneMap := (rfl)
@[simp] theorem State.putPageErrs_mapFixed : (s.putPageErrs v).mapFixed = s.mapFixed := (rfl)
@[simp] theorem State.putPageErrs_slots : (s.putPageErrs v).slots = s.slots := (rfl)
@[simp] theorem State.putPageErrs_queues : (s.putPageErrs v).queues = s.queues := (rfl)
@[simp] theorem State.putPageErrs_xin : (s.putPageErrs v).xin = s.xin := (rfl)
@[simp] theorem State.putPageErrs_xinLast : (s.putPageErrs v).xinLast = s.xinLast := (rfl)
@[simp] theorem State.putPageErrs_heldCells : (s.putPageErrs v).heldCells = s.heldCells := (rfl)
@[simp] theorem State.putPageErrs_retiredSlots : (s.putPageErrs v).retiredSlots = s.retiredSlots := (rfl)
@[simp] theorem State.putPageErrs_floor : (s.putPageErrs v).floor = s.floor := (rfl)
@[simp] theorem State.putPageErrs_mirrors : (s.putPageErrs v).mirrors = s.mirrors := (rfl)
@[simp] theorem State.putPageErrs_mirrorMade : (s.putPageErrs v).mirrorMade = s.mirrorMade := (rfl)
@[simp] theorem State.putPageErrs_sampleNext : (s.putPageErrs v).sampleNext = s.sampleNext := (rfl)
@[simp] theorem State.putPageErrs_sampleRead : (s.putPageErrs v).sampleRead = s.sampleRead := (rfl)
@[simp] theorem State.putPageErrs_smpStart : (s.putPageErrs v).smpStart = s.smpStart := (rfl)
@[simp] theorem State.putPageErrs_fails : (s.putPageErrs v).fails = s.fails := (rfl)
@[simp] theorem State.putPageErrs_echoes : (s.putPageErrs v).echoes = s.echoes := (rfl)
@[simp] theorem State.putPageErrs_echoGaps : (s.putPageErrs v).echoGaps = s.echoGaps := (rfl)
@[simp] theorem State.putPageErrs_noReturn : (s.putPageErrs v).noReturn = s.noReturn := (rfl)
@[simp] theorem State.putPageErrs_tiles : (s.putPageErrs v).tiles = s.tiles := (rfl)
@[simp] theorem State.putPageErrs_tileMap : (s.putPageErrs v).tileMap = s.tileMap := (rfl)
@[simp] theorem State.putPageErrs_failedTiles : (s.putPageErrs v).failedTiles = s.failedTiles := (rfl)
@[simp] theorem State.putPageErrs_candidates : (s.putPageErrs v).candidates = s.candidates := (rfl)
@[simp] theorem State.putPageErrs_inboxes : (s.putPageErrs v).inboxes = s.inboxes := (rfl)
@[simp] theorem State.putPageErrs_ctxs : (s.putPageErrs v).ctxs = s.ctxs := (rfl)
@[simp] theorem State.putPageErrs_ringPass : (s.putPageErrs v).ringPass = s.ringPass := (rfl)
@[simp] theorem State.putPageErrs_plans : (s.putPageErrs v).plans = s.plans := (rfl)
@[simp] theorem State.putPageErrs_planFp : (s.putPageErrs v).planFp = s.planFp := (rfl)
@[simp] theorem State.putPageErrs_groups : (s.putPageErrs v).groups = s.groups := (rfl)
@[simp] theorem State.putPageErrs_wmInbox : (s.putPageErrs v).wmInbox = s.wmInbox := (rfl)
@[simp] theorem State.putPageErrs_sets : (s.putPageErrs v).sets = s.sets := (rfl)
@[simp] theorem State.putPageErrs_ehts : (s.putPageErrs v).ehts = s.ehts := (rfl)
@[simp] theorem State.putPageErrs_expOpen : (s.putPageErrs v).expOpen = s.expOpen := (rfl)
@[simp] theorem State.putPageErrs_expIn : (s.putPageErrs v).expIn = s.expIn := (rfl)
@[simp] theorem State.putPageErrs_expWait : (s.putPageErrs v).expWait = s.expWait := (rfl)
@[simp] theorem State.putPageErrs_atomics : (s.putPageErrs v).atomics = s.atomics := (rfl)
@[simp] theorem State.putPageErrs_owners : (s.putPageErrs v).owners = s.owners := (rfl)
@[simp] theorem State.putPageErrs_bufs : (s.putPageErrs v).bufs = s.bufs := (rfl)
@[simp] theorem State.putPageErrs_pools : (s.putPageErrs v).pools = s.pools := (rfl)
@[simp] theorem State.putPageErrs_waiters : (s.putPageErrs v).waiters = s.waiters := (rfl)
@[simp] theorem State.putPageErrs_grants : (s.putPageErrs v).grants = s.grants := (rfl)
@[simp] theorem State.putPageErrs_rowErrs : (s.putPageErrs v).rowErrs = s.rowErrs := (rfl)
@[simp] theorem State.putPageErrs_pageErrs : (s.putPageErrs v).pageErrs = v := (rfl)
@[simp] theorem State.putPageErrs_pageHeld : (s.putPageErrs v).pageHeld = s.pageHeld := (rfl)
@[simp] theorem State.putPageErrs_pages : (s.putPageErrs v).pages = s.pages := (rfl)
@[simp] theorem State.putPageErrs_sparedRows : (s.putPageErrs v).sparedRows = s.sparedRows := (rfl)
@[simp] theorem State.putPageErrs_patrolAt : (s.putPageErrs v).patrolAt = s.patrolAt := (rfl)
@[simp] theorem State.putPageErrs_sramAt : (s.putPageErrs v).sramAt = s.sramAt := (rfl)
@[simp] theorem State.putPageErrs_selfRefresh : (s.putPageErrs v).selfRefresh = s.selfRefresh := (rfl)
@[simp] theorem State.putPageErrs_refreshing : (s.putPageErrs v).refreshing = s.refreshing := (rfl)
@[simp] theorem State.putPageErrs_sessions : (s.putPageErrs v).sessions = s.sessions := (rfl)
@[simp] theorem State.putPageErrs_hpActive : (s.putPageErrs v).hpActive = s.hpActive := (rfl)
@[simp] theorem State.putPageErrs_hpApply : (s.putPageErrs v).hpApply = s.hpApply := (rfl)
@[simp] theorem State.putPageErrs_hostLink : (s.putPageErrs v).hostLink = s.hostLink := (rfl)
@[simp] theorem State.putPageErrs_zctWait : (s.putPageErrs v).zctWait = s.zctWait := (rfl)
@[simp] theorem State.putPageErrs_flash : (s.putPageErrs v).flash = s.flash := (rfl)
@[simp] theorem State.putPageErrs_bootSlots : (s.putPageErrs v).bootSlots = s.bootSlots := (rfl)
@[simp] theorem State.putPageErrs_cert : (s.putPageErrs v).cert = s.cert := (rfl)
@[simp] theorem State.putPageErrs_jorou : (s.putPageErrs v).jorou = s.jorou := (rfl)
@[simp] theorem State.putPageErrs_wear : (s.putPageErrs v).wear = s.wear := (rfl)
@[simp] theorem State.putPageErrs_ledger : (s.putPageErrs v).ledger = s.ledger := (rfl)
@[simp] theorem State.putPageErrs_resetOp : (s.putPageErrs v).reset? = s.reset? := (rfl)
@[simp] theorem State.putPageErrs_resetQ : (s.putPageErrs v).resetQ = s.resetQ := (rfl)
@[simp] theorem State.putPageErrs_resetsDone : (s.putPageErrs v).resetsDone = s.resetsDone := (rfl)
@[simp] theorem State.putPageErrs_captures : (s.putPageErrs v).captures = s.captures := (rfl)
@[simp] theorem State.putPageErrs_capture : (s.putPageErrs v).capture = s.capture := (rfl)
@[simp] theorem State.putPageErrs_capQ : (s.putPageErrs v).capQ = s.capQ := (rfl)
@[simp] theorem State.putPageErrs_scan : (s.putPageErrs v).scan = s.scan := (rfl)
@[simp] theorem State.putPageErrs_hangs : (s.putPageErrs v).hangs = s.hangs := (rfl)
@[simp] theorem State.putPageErrs_stalls : (s.putPageErrs v).stalls = s.stalls := (rfl)
@[simp] theorem State.putPageErrs_power : (s.putPageErrs v).power = s.power := (rfl)
@[simp] theorem State.putPageErrs_wb : (s.putPageErrs v).wb = s.wb := (rfl)
end

section
variable (s : State) (v : List Nat)
@[simp] theorem State.putPageHeld_pending : (s.putPageHeld v).pending = s.pending := (rfl)
@[simp] theorem State.putPageHeld_cycle : (s.putPageHeld v).cycle = s.cycle := (rfl)
@[simp] theorem State.putPageHeld_grade : (s.putPageHeld v).grade = s.grade := (rfl)
@[simp] theorem State.putPageHeld_freeCtr : (s.putPageHeld v).freeCtr = s.freeCtr := (rfl)
@[simp] theorem State.putPageHeld_out : (s.putPageHeld v).out = s.out := (rfl)
@[simp] theorem State.putPageHeld_mem : (s.putPageHeld v).mem = s.mem := (rfl)
@[simp] theorem State.putPageHeld_poison : (s.putPageHeld v).poison = s.poison := (rfl)
@[simp] theorem State.putPageHeld_regs : (s.putPageHeld v).regs = s.regs := (rfl)
@[simp] theorem State.putPageHeld_ports : (s.putPageHeld v).ports = s.ports := (rfl)
@[simp] theorem State.putPageHeld_laneMap : (s.putPageHeld v).laneMap = s.laneMap := (rfl)
@[simp] theorem State.putPageHeld_mapFixed : (s.putPageHeld v).mapFixed = s.mapFixed := (rfl)
@[simp] theorem State.putPageHeld_slots : (s.putPageHeld v).slots = s.slots := (rfl)
@[simp] theorem State.putPageHeld_queues : (s.putPageHeld v).queues = s.queues := (rfl)
@[simp] theorem State.putPageHeld_xin : (s.putPageHeld v).xin = s.xin := (rfl)
@[simp] theorem State.putPageHeld_xinLast : (s.putPageHeld v).xinLast = s.xinLast := (rfl)
@[simp] theorem State.putPageHeld_heldCells : (s.putPageHeld v).heldCells = s.heldCells := (rfl)
@[simp] theorem State.putPageHeld_retiredSlots : (s.putPageHeld v).retiredSlots = s.retiredSlots := (rfl)
@[simp] theorem State.putPageHeld_floor : (s.putPageHeld v).floor = s.floor := (rfl)
@[simp] theorem State.putPageHeld_mirrors : (s.putPageHeld v).mirrors = s.mirrors := (rfl)
@[simp] theorem State.putPageHeld_mirrorMade : (s.putPageHeld v).mirrorMade = s.mirrorMade := (rfl)
@[simp] theorem State.putPageHeld_sampleNext : (s.putPageHeld v).sampleNext = s.sampleNext := (rfl)
@[simp] theorem State.putPageHeld_sampleRead : (s.putPageHeld v).sampleRead = s.sampleRead := (rfl)
@[simp] theorem State.putPageHeld_smpStart : (s.putPageHeld v).smpStart = s.smpStart := (rfl)
@[simp] theorem State.putPageHeld_fails : (s.putPageHeld v).fails = s.fails := (rfl)
@[simp] theorem State.putPageHeld_echoes : (s.putPageHeld v).echoes = s.echoes := (rfl)
@[simp] theorem State.putPageHeld_echoGaps : (s.putPageHeld v).echoGaps = s.echoGaps := (rfl)
@[simp] theorem State.putPageHeld_noReturn : (s.putPageHeld v).noReturn = s.noReturn := (rfl)
@[simp] theorem State.putPageHeld_tiles : (s.putPageHeld v).tiles = s.tiles := (rfl)
@[simp] theorem State.putPageHeld_tileMap : (s.putPageHeld v).tileMap = s.tileMap := (rfl)
@[simp] theorem State.putPageHeld_failedTiles : (s.putPageHeld v).failedTiles = s.failedTiles := (rfl)
@[simp] theorem State.putPageHeld_candidates : (s.putPageHeld v).candidates = s.candidates := (rfl)
@[simp] theorem State.putPageHeld_inboxes : (s.putPageHeld v).inboxes = s.inboxes := (rfl)
@[simp] theorem State.putPageHeld_ctxs : (s.putPageHeld v).ctxs = s.ctxs := (rfl)
@[simp] theorem State.putPageHeld_ringPass : (s.putPageHeld v).ringPass = s.ringPass := (rfl)
@[simp] theorem State.putPageHeld_plans : (s.putPageHeld v).plans = s.plans := (rfl)
@[simp] theorem State.putPageHeld_planFp : (s.putPageHeld v).planFp = s.planFp := (rfl)
@[simp] theorem State.putPageHeld_groups : (s.putPageHeld v).groups = s.groups := (rfl)
@[simp] theorem State.putPageHeld_wmInbox : (s.putPageHeld v).wmInbox = s.wmInbox := (rfl)
@[simp] theorem State.putPageHeld_sets : (s.putPageHeld v).sets = s.sets := (rfl)
@[simp] theorem State.putPageHeld_ehts : (s.putPageHeld v).ehts = s.ehts := (rfl)
@[simp] theorem State.putPageHeld_expOpen : (s.putPageHeld v).expOpen = s.expOpen := (rfl)
@[simp] theorem State.putPageHeld_expIn : (s.putPageHeld v).expIn = s.expIn := (rfl)
@[simp] theorem State.putPageHeld_expWait : (s.putPageHeld v).expWait = s.expWait := (rfl)
@[simp] theorem State.putPageHeld_atomics : (s.putPageHeld v).atomics = s.atomics := (rfl)
@[simp] theorem State.putPageHeld_owners : (s.putPageHeld v).owners = s.owners := (rfl)
@[simp] theorem State.putPageHeld_bufs : (s.putPageHeld v).bufs = s.bufs := (rfl)
@[simp] theorem State.putPageHeld_pools : (s.putPageHeld v).pools = s.pools := (rfl)
@[simp] theorem State.putPageHeld_waiters : (s.putPageHeld v).waiters = s.waiters := (rfl)
@[simp] theorem State.putPageHeld_grants : (s.putPageHeld v).grants = s.grants := (rfl)
@[simp] theorem State.putPageHeld_rowErrs : (s.putPageHeld v).rowErrs = s.rowErrs := (rfl)
@[simp] theorem State.putPageHeld_pageErrs : (s.putPageHeld v).pageErrs = s.pageErrs := (rfl)
@[simp] theorem State.putPageHeld_pageHeld : (s.putPageHeld v).pageHeld = v := (rfl)
@[simp] theorem State.putPageHeld_pages : (s.putPageHeld v).pages = s.pages := (rfl)
@[simp] theorem State.putPageHeld_sparedRows : (s.putPageHeld v).sparedRows = s.sparedRows := (rfl)
@[simp] theorem State.putPageHeld_patrolAt : (s.putPageHeld v).patrolAt = s.patrolAt := (rfl)
@[simp] theorem State.putPageHeld_sramAt : (s.putPageHeld v).sramAt = s.sramAt := (rfl)
@[simp] theorem State.putPageHeld_selfRefresh : (s.putPageHeld v).selfRefresh = s.selfRefresh := (rfl)
@[simp] theorem State.putPageHeld_refreshing : (s.putPageHeld v).refreshing = s.refreshing := (rfl)
@[simp] theorem State.putPageHeld_sessions : (s.putPageHeld v).sessions = s.sessions := (rfl)
@[simp] theorem State.putPageHeld_hpActive : (s.putPageHeld v).hpActive = s.hpActive := (rfl)
@[simp] theorem State.putPageHeld_hpApply : (s.putPageHeld v).hpApply = s.hpApply := (rfl)
@[simp] theorem State.putPageHeld_hostLink : (s.putPageHeld v).hostLink = s.hostLink := (rfl)
@[simp] theorem State.putPageHeld_zctWait : (s.putPageHeld v).zctWait = s.zctWait := (rfl)
@[simp] theorem State.putPageHeld_flash : (s.putPageHeld v).flash = s.flash := (rfl)
@[simp] theorem State.putPageHeld_bootSlots : (s.putPageHeld v).bootSlots = s.bootSlots := (rfl)
@[simp] theorem State.putPageHeld_cert : (s.putPageHeld v).cert = s.cert := (rfl)
@[simp] theorem State.putPageHeld_jorou : (s.putPageHeld v).jorou = s.jorou := (rfl)
@[simp] theorem State.putPageHeld_wear : (s.putPageHeld v).wear = s.wear := (rfl)
@[simp] theorem State.putPageHeld_ledger : (s.putPageHeld v).ledger = s.ledger := (rfl)
@[simp] theorem State.putPageHeld_resetOp : (s.putPageHeld v).reset? = s.reset? := (rfl)
@[simp] theorem State.putPageHeld_resetQ : (s.putPageHeld v).resetQ = s.resetQ := (rfl)
@[simp] theorem State.putPageHeld_resetsDone : (s.putPageHeld v).resetsDone = s.resetsDone := (rfl)
@[simp] theorem State.putPageHeld_captures : (s.putPageHeld v).captures = s.captures := (rfl)
@[simp] theorem State.putPageHeld_capture : (s.putPageHeld v).capture = s.capture := (rfl)
@[simp] theorem State.putPageHeld_capQ : (s.putPageHeld v).capQ = s.capQ := (rfl)
@[simp] theorem State.putPageHeld_scan : (s.putPageHeld v).scan = s.scan := (rfl)
@[simp] theorem State.putPageHeld_hangs : (s.putPageHeld v).hangs = s.hangs := (rfl)
@[simp] theorem State.putPageHeld_stalls : (s.putPageHeld v).stalls = s.stalls := (rfl)
@[simp] theorem State.putPageHeld_power : (s.putPageHeld v).power = s.power := (rfl)
@[simp] theorem State.putPageHeld_wb : (s.putPageHeld v).wb = s.wb := (rfl)
end

section
variable (s : State) (v : List Word)
@[simp] theorem State.putPages_pending : (s.putPages v).pending = s.pending := (rfl)
@[simp] theorem State.putPages_cycle : (s.putPages v).cycle = s.cycle := (rfl)
@[simp] theorem State.putPages_grade : (s.putPages v).grade = s.grade := (rfl)
@[simp] theorem State.putPages_freeCtr : (s.putPages v).freeCtr = s.freeCtr := (rfl)
@[simp] theorem State.putPages_out : (s.putPages v).out = s.out := (rfl)
@[simp] theorem State.putPages_mem : (s.putPages v).mem = s.mem := (rfl)
@[simp] theorem State.putPages_poison : (s.putPages v).poison = s.poison := (rfl)
@[simp] theorem State.putPages_regs : (s.putPages v).regs = s.regs := (rfl)
@[simp] theorem State.putPages_ports : (s.putPages v).ports = s.ports := (rfl)
@[simp] theorem State.putPages_laneMap : (s.putPages v).laneMap = s.laneMap := (rfl)
@[simp] theorem State.putPages_mapFixed : (s.putPages v).mapFixed = s.mapFixed := (rfl)
@[simp] theorem State.putPages_slots : (s.putPages v).slots = s.slots := (rfl)
@[simp] theorem State.putPages_queues : (s.putPages v).queues = s.queues := (rfl)
@[simp] theorem State.putPages_xin : (s.putPages v).xin = s.xin := (rfl)
@[simp] theorem State.putPages_xinLast : (s.putPages v).xinLast = s.xinLast := (rfl)
@[simp] theorem State.putPages_heldCells : (s.putPages v).heldCells = s.heldCells := (rfl)
@[simp] theorem State.putPages_retiredSlots : (s.putPages v).retiredSlots = s.retiredSlots := (rfl)
@[simp] theorem State.putPages_floor : (s.putPages v).floor = s.floor := (rfl)
@[simp] theorem State.putPages_mirrors : (s.putPages v).mirrors = s.mirrors := (rfl)
@[simp] theorem State.putPages_mirrorMade : (s.putPages v).mirrorMade = s.mirrorMade := (rfl)
@[simp] theorem State.putPages_sampleNext : (s.putPages v).sampleNext = s.sampleNext := (rfl)
@[simp] theorem State.putPages_sampleRead : (s.putPages v).sampleRead = s.sampleRead := (rfl)
@[simp] theorem State.putPages_smpStart : (s.putPages v).smpStart = s.smpStart := (rfl)
@[simp] theorem State.putPages_fails : (s.putPages v).fails = s.fails := (rfl)
@[simp] theorem State.putPages_echoes : (s.putPages v).echoes = s.echoes := (rfl)
@[simp] theorem State.putPages_echoGaps : (s.putPages v).echoGaps = s.echoGaps := (rfl)
@[simp] theorem State.putPages_noReturn : (s.putPages v).noReturn = s.noReturn := (rfl)
@[simp] theorem State.putPages_tiles : (s.putPages v).tiles = s.tiles := (rfl)
@[simp] theorem State.putPages_tileMap : (s.putPages v).tileMap = s.tileMap := (rfl)
@[simp] theorem State.putPages_failedTiles : (s.putPages v).failedTiles = s.failedTiles := (rfl)
@[simp] theorem State.putPages_candidates : (s.putPages v).candidates = s.candidates := (rfl)
@[simp] theorem State.putPages_inboxes : (s.putPages v).inboxes = s.inboxes := (rfl)
@[simp] theorem State.putPages_ctxs : (s.putPages v).ctxs = s.ctxs := (rfl)
@[simp] theorem State.putPages_ringPass : (s.putPages v).ringPass = s.ringPass := (rfl)
@[simp] theorem State.putPages_plans : (s.putPages v).plans = s.plans := (rfl)
@[simp] theorem State.putPages_planFp : (s.putPages v).planFp = s.planFp := (rfl)
@[simp] theorem State.putPages_groups : (s.putPages v).groups = s.groups := (rfl)
@[simp] theorem State.putPages_wmInbox : (s.putPages v).wmInbox = s.wmInbox := (rfl)
@[simp] theorem State.putPages_sets : (s.putPages v).sets = s.sets := (rfl)
@[simp] theorem State.putPages_ehts : (s.putPages v).ehts = s.ehts := (rfl)
@[simp] theorem State.putPages_expOpen : (s.putPages v).expOpen = s.expOpen := (rfl)
@[simp] theorem State.putPages_expIn : (s.putPages v).expIn = s.expIn := (rfl)
@[simp] theorem State.putPages_expWait : (s.putPages v).expWait = s.expWait := (rfl)
@[simp] theorem State.putPages_atomics : (s.putPages v).atomics = s.atomics := (rfl)
@[simp] theorem State.putPages_owners : (s.putPages v).owners = s.owners := (rfl)
@[simp] theorem State.putPages_bufs : (s.putPages v).bufs = s.bufs := (rfl)
@[simp] theorem State.putPages_pools : (s.putPages v).pools = s.pools := (rfl)
@[simp] theorem State.putPages_waiters : (s.putPages v).waiters = s.waiters := (rfl)
@[simp] theorem State.putPages_grants : (s.putPages v).grants = s.grants := (rfl)
@[simp] theorem State.putPages_rowErrs : (s.putPages v).rowErrs = s.rowErrs := (rfl)
@[simp] theorem State.putPages_pageErrs : (s.putPages v).pageErrs = s.pageErrs := (rfl)
@[simp] theorem State.putPages_pageHeld : (s.putPages v).pageHeld = s.pageHeld := (rfl)
@[simp] theorem State.putPages_pages : (s.putPages v).pages = v := (rfl)
@[simp] theorem State.putPages_sparedRows : (s.putPages v).sparedRows = s.sparedRows := (rfl)
@[simp] theorem State.putPages_patrolAt : (s.putPages v).patrolAt = s.patrolAt := (rfl)
@[simp] theorem State.putPages_sramAt : (s.putPages v).sramAt = s.sramAt := (rfl)
@[simp] theorem State.putPages_selfRefresh : (s.putPages v).selfRefresh = s.selfRefresh := (rfl)
@[simp] theorem State.putPages_refreshing : (s.putPages v).refreshing = s.refreshing := (rfl)
@[simp] theorem State.putPages_sessions : (s.putPages v).sessions = s.sessions := (rfl)
@[simp] theorem State.putPages_hpActive : (s.putPages v).hpActive = s.hpActive := (rfl)
@[simp] theorem State.putPages_hpApply : (s.putPages v).hpApply = s.hpApply := (rfl)
@[simp] theorem State.putPages_hostLink : (s.putPages v).hostLink = s.hostLink := (rfl)
@[simp] theorem State.putPages_zctWait : (s.putPages v).zctWait = s.zctWait := (rfl)
@[simp] theorem State.putPages_flash : (s.putPages v).flash = s.flash := (rfl)
@[simp] theorem State.putPages_bootSlots : (s.putPages v).bootSlots = s.bootSlots := (rfl)
@[simp] theorem State.putPages_cert : (s.putPages v).cert = s.cert := (rfl)
@[simp] theorem State.putPages_jorou : (s.putPages v).jorou = s.jorou := (rfl)
@[simp] theorem State.putPages_wear : (s.putPages v).wear = s.wear := (rfl)
@[simp] theorem State.putPages_ledger : (s.putPages v).ledger = s.ledger := (rfl)
@[simp] theorem State.putPages_resetOp : (s.putPages v).reset? = s.reset? := (rfl)
@[simp] theorem State.putPages_resetQ : (s.putPages v).resetQ = s.resetQ := (rfl)
@[simp] theorem State.putPages_resetsDone : (s.putPages v).resetsDone = s.resetsDone := (rfl)
@[simp] theorem State.putPages_captures : (s.putPages v).captures = s.captures := (rfl)
@[simp] theorem State.putPages_capture : (s.putPages v).capture = s.capture := (rfl)
@[simp] theorem State.putPages_capQ : (s.putPages v).capQ = s.capQ := (rfl)
@[simp] theorem State.putPages_scan : (s.putPages v).scan = s.scan := (rfl)
@[simp] theorem State.putPages_hangs : (s.putPages v).hangs = s.hangs := (rfl)
@[simp] theorem State.putPages_stalls : (s.putPages v).stalls = s.stalls := (rfl)
@[simp] theorem State.putPages_power : (s.putPages v).power = s.power := (rfl)
@[simp] theorem State.putPages_wb : (s.putPages v).wb = s.wb := (rfl)
end

section
variable (s : State) (v : List Nat)
@[simp] theorem State.putSparedRows_pending : (s.putSparedRows v).pending = s.pending := (rfl)
@[simp] theorem State.putSparedRows_cycle : (s.putSparedRows v).cycle = s.cycle := (rfl)
@[simp] theorem State.putSparedRows_grade : (s.putSparedRows v).grade = s.grade := (rfl)
@[simp] theorem State.putSparedRows_freeCtr : (s.putSparedRows v).freeCtr = s.freeCtr := (rfl)
@[simp] theorem State.putSparedRows_out : (s.putSparedRows v).out = s.out := (rfl)
@[simp] theorem State.putSparedRows_mem : (s.putSparedRows v).mem = s.mem := (rfl)
@[simp] theorem State.putSparedRows_poison : (s.putSparedRows v).poison = s.poison := (rfl)
@[simp] theorem State.putSparedRows_regs : (s.putSparedRows v).regs = s.regs := (rfl)
@[simp] theorem State.putSparedRows_ports : (s.putSparedRows v).ports = s.ports := (rfl)
@[simp] theorem State.putSparedRows_laneMap : (s.putSparedRows v).laneMap = s.laneMap := (rfl)
@[simp] theorem State.putSparedRows_mapFixed : (s.putSparedRows v).mapFixed = s.mapFixed := (rfl)
@[simp] theorem State.putSparedRows_slots : (s.putSparedRows v).slots = s.slots := (rfl)
@[simp] theorem State.putSparedRows_queues : (s.putSparedRows v).queues = s.queues := (rfl)
@[simp] theorem State.putSparedRows_xin : (s.putSparedRows v).xin = s.xin := (rfl)
@[simp] theorem State.putSparedRows_xinLast : (s.putSparedRows v).xinLast = s.xinLast := (rfl)
@[simp] theorem State.putSparedRows_heldCells : (s.putSparedRows v).heldCells = s.heldCells := (rfl)
@[simp] theorem State.putSparedRows_retiredSlots : (s.putSparedRows v).retiredSlots = s.retiredSlots := (rfl)
@[simp] theorem State.putSparedRows_floor : (s.putSparedRows v).floor = s.floor := (rfl)
@[simp] theorem State.putSparedRows_mirrors : (s.putSparedRows v).mirrors = s.mirrors := (rfl)
@[simp] theorem State.putSparedRows_mirrorMade : (s.putSparedRows v).mirrorMade = s.mirrorMade := (rfl)
@[simp] theorem State.putSparedRows_sampleNext : (s.putSparedRows v).sampleNext = s.sampleNext := (rfl)
@[simp] theorem State.putSparedRows_sampleRead : (s.putSparedRows v).sampleRead = s.sampleRead := (rfl)
@[simp] theorem State.putSparedRows_smpStart : (s.putSparedRows v).smpStart = s.smpStart := (rfl)
@[simp] theorem State.putSparedRows_fails : (s.putSparedRows v).fails = s.fails := (rfl)
@[simp] theorem State.putSparedRows_echoes : (s.putSparedRows v).echoes = s.echoes := (rfl)
@[simp] theorem State.putSparedRows_echoGaps : (s.putSparedRows v).echoGaps = s.echoGaps := (rfl)
@[simp] theorem State.putSparedRows_noReturn : (s.putSparedRows v).noReturn = s.noReturn := (rfl)
@[simp] theorem State.putSparedRows_tiles : (s.putSparedRows v).tiles = s.tiles := (rfl)
@[simp] theorem State.putSparedRows_tileMap : (s.putSparedRows v).tileMap = s.tileMap := (rfl)
@[simp] theorem State.putSparedRows_failedTiles : (s.putSparedRows v).failedTiles = s.failedTiles := (rfl)
@[simp] theorem State.putSparedRows_candidates : (s.putSparedRows v).candidates = s.candidates := (rfl)
@[simp] theorem State.putSparedRows_inboxes : (s.putSparedRows v).inboxes = s.inboxes := (rfl)
@[simp] theorem State.putSparedRows_ctxs : (s.putSparedRows v).ctxs = s.ctxs := (rfl)
@[simp] theorem State.putSparedRows_ringPass : (s.putSparedRows v).ringPass = s.ringPass := (rfl)
@[simp] theorem State.putSparedRows_plans : (s.putSparedRows v).plans = s.plans := (rfl)
@[simp] theorem State.putSparedRows_planFp : (s.putSparedRows v).planFp = s.planFp := (rfl)
@[simp] theorem State.putSparedRows_groups : (s.putSparedRows v).groups = s.groups := (rfl)
@[simp] theorem State.putSparedRows_wmInbox : (s.putSparedRows v).wmInbox = s.wmInbox := (rfl)
@[simp] theorem State.putSparedRows_sets : (s.putSparedRows v).sets = s.sets := (rfl)
@[simp] theorem State.putSparedRows_ehts : (s.putSparedRows v).ehts = s.ehts := (rfl)
@[simp] theorem State.putSparedRows_expOpen : (s.putSparedRows v).expOpen = s.expOpen := (rfl)
@[simp] theorem State.putSparedRows_expIn : (s.putSparedRows v).expIn = s.expIn := (rfl)
@[simp] theorem State.putSparedRows_expWait : (s.putSparedRows v).expWait = s.expWait := (rfl)
@[simp] theorem State.putSparedRows_atomics : (s.putSparedRows v).atomics = s.atomics := (rfl)
@[simp] theorem State.putSparedRows_owners : (s.putSparedRows v).owners = s.owners := (rfl)
@[simp] theorem State.putSparedRows_bufs : (s.putSparedRows v).bufs = s.bufs := (rfl)
@[simp] theorem State.putSparedRows_pools : (s.putSparedRows v).pools = s.pools := (rfl)
@[simp] theorem State.putSparedRows_waiters : (s.putSparedRows v).waiters = s.waiters := (rfl)
@[simp] theorem State.putSparedRows_grants : (s.putSparedRows v).grants = s.grants := (rfl)
@[simp] theorem State.putSparedRows_rowErrs : (s.putSparedRows v).rowErrs = s.rowErrs := (rfl)
@[simp] theorem State.putSparedRows_pageErrs : (s.putSparedRows v).pageErrs = s.pageErrs := (rfl)
@[simp] theorem State.putSparedRows_pageHeld : (s.putSparedRows v).pageHeld = s.pageHeld := (rfl)
@[simp] theorem State.putSparedRows_pages : (s.putSparedRows v).pages = s.pages := (rfl)
@[simp] theorem State.putSparedRows_sparedRows : (s.putSparedRows v).sparedRows = v := (rfl)
@[simp] theorem State.putSparedRows_patrolAt : (s.putSparedRows v).patrolAt = s.patrolAt := (rfl)
@[simp] theorem State.putSparedRows_sramAt : (s.putSparedRows v).sramAt = s.sramAt := (rfl)
@[simp] theorem State.putSparedRows_selfRefresh : (s.putSparedRows v).selfRefresh = s.selfRefresh := (rfl)
@[simp] theorem State.putSparedRows_refreshing : (s.putSparedRows v).refreshing = s.refreshing := (rfl)
@[simp] theorem State.putSparedRows_sessions : (s.putSparedRows v).sessions = s.sessions := (rfl)
@[simp] theorem State.putSparedRows_hpActive : (s.putSparedRows v).hpActive = s.hpActive := (rfl)
@[simp] theorem State.putSparedRows_hpApply : (s.putSparedRows v).hpApply = s.hpApply := (rfl)
@[simp] theorem State.putSparedRows_hostLink : (s.putSparedRows v).hostLink = s.hostLink := (rfl)
@[simp] theorem State.putSparedRows_zctWait : (s.putSparedRows v).zctWait = s.zctWait := (rfl)
@[simp] theorem State.putSparedRows_flash : (s.putSparedRows v).flash = s.flash := (rfl)
@[simp] theorem State.putSparedRows_bootSlots : (s.putSparedRows v).bootSlots = s.bootSlots := (rfl)
@[simp] theorem State.putSparedRows_cert : (s.putSparedRows v).cert = s.cert := (rfl)
@[simp] theorem State.putSparedRows_jorou : (s.putSparedRows v).jorou = s.jorou := (rfl)
@[simp] theorem State.putSparedRows_wear : (s.putSparedRows v).wear = s.wear := (rfl)
@[simp] theorem State.putSparedRows_ledger : (s.putSparedRows v).ledger = s.ledger := (rfl)
@[simp] theorem State.putSparedRows_resetOp : (s.putSparedRows v).reset? = s.reset? := (rfl)
@[simp] theorem State.putSparedRows_resetQ : (s.putSparedRows v).resetQ = s.resetQ := (rfl)
@[simp] theorem State.putSparedRows_resetsDone : (s.putSparedRows v).resetsDone = s.resetsDone := (rfl)
@[simp] theorem State.putSparedRows_captures : (s.putSparedRows v).captures = s.captures := (rfl)
@[simp] theorem State.putSparedRows_capture : (s.putSparedRows v).capture = s.capture := (rfl)
@[simp] theorem State.putSparedRows_capQ : (s.putSparedRows v).capQ = s.capQ := (rfl)
@[simp] theorem State.putSparedRows_scan : (s.putSparedRows v).scan = s.scan := (rfl)
@[simp] theorem State.putSparedRows_hangs : (s.putSparedRows v).hangs = s.hangs := (rfl)
@[simp] theorem State.putSparedRows_stalls : (s.putSparedRows v).stalls = s.stalls := (rfl)
@[simp] theorem State.putSparedRows_power : (s.putSparedRows v).power = s.power := (rfl)
@[simp] theorem State.putSparedRows_wb : (s.putSparedRows v).wb = s.wb := (rfl)
end

section
variable (s : State) (v : Nat)
@[simp] theorem State.putPatrolAt_pending : (s.putPatrolAt v).pending = s.pending := (rfl)
@[simp] theorem State.putPatrolAt_cycle : (s.putPatrolAt v).cycle = s.cycle := (rfl)
@[simp] theorem State.putPatrolAt_grade : (s.putPatrolAt v).grade = s.grade := (rfl)
@[simp] theorem State.putPatrolAt_freeCtr : (s.putPatrolAt v).freeCtr = s.freeCtr := (rfl)
@[simp] theorem State.putPatrolAt_out : (s.putPatrolAt v).out = s.out := (rfl)
@[simp] theorem State.putPatrolAt_mem : (s.putPatrolAt v).mem = s.mem := (rfl)
@[simp] theorem State.putPatrolAt_poison : (s.putPatrolAt v).poison = s.poison := (rfl)
@[simp] theorem State.putPatrolAt_regs : (s.putPatrolAt v).regs = s.regs := (rfl)
@[simp] theorem State.putPatrolAt_ports : (s.putPatrolAt v).ports = s.ports := (rfl)
@[simp] theorem State.putPatrolAt_laneMap : (s.putPatrolAt v).laneMap = s.laneMap := (rfl)
@[simp] theorem State.putPatrolAt_mapFixed : (s.putPatrolAt v).mapFixed = s.mapFixed := (rfl)
@[simp] theorem State.putPatrolAt_slots : (s.putPatrolAt v).slots = s.slots := (rfl)
@[simp] theorem State.putPatrolAt_queues : (s.putPatrolAt v).queues = s.queues := (rfl)
@[simp] theorem State.putPatrolAt_xin : (s.putPatrolAt v).xin = s.xin := (rfl)
@[simp] theorem State.putPatrolAt_xinLast : (s.putPatrolAt v).xinLast = s.xinLast := (rfl)
@[simp] theorem State.putPatrolAt_heldCells : (s.putPatrolAt v).heldCells = s.heldCells := (rfl)
@[simp] theorem State.putPatrolAt_retiredSlots : (s.putPatrolAt v).retiredSlots = s.retiredSlots := (rfl)
@[simp] theorem State.putPatrolAt_floor : (s.putPatrolAt v).floor = s.floor := (rfl)
@[simp] theorem State.putPatrolAt_mirrors : (s.putPatrolAt v).mirrors = s.mirrors := (rfl)
@[simp] theorem State.putPatrolAt_mirrorMade : (s.putPatrolAt v).mirrorMade = s.mirrorMade := (rfl)
@[simp] theorem State.putPatrolAt_sampleNext : (s.putPatrolAt v).sampleNext = s.sampleNext := (rfl)
@[simp] theorem State.putPatrolAt_sampleRead : (s.putPatrolAt v).sampleRead = s.sampleRead := (rfl)
@[simp] theorem State.putPatrolAt_smpStart : (s.putPatrolAt v).smpStart = s.smpStart := (rfl)
@[simp] theorem State.putPatrolAt_fails : (s.putPatrolAt v).fails = s.fails := (rfl)
@[simp] theorem State.putPatrolAt_echoes : (s.putPatrolAt v).echoes = s.echoes := (rfl)
@[simp] theorem State.putPatrolAt_echoGaps : (s.putPatrolAt v).echoGaps = s.echoGaps := (rfl)
@[simp] theorem State.putPatrolAt_noReturn : (s.putPatrolAt v).noReturn = s.noReturn := (rfl)
@[simp] theorem State.putPatrolAt_tiles : (s.putPatrolAt v).tiles = s.tiles := (rfl)
@[simp] theorem State.putPatrolAt_tileMap : (s.putPatrolAt v).tileMap = s.tileMap := (rfl)
@[simp] theorem State.putPatrolAt_failedTiles : (s.putPatrolAt v).failedTiles = s.failedTiles := (rfl)
@[simp] theorem State.putPatrolAt_candidates : (s.putPatrolAt v).candidates = s.candidates := (rfl)
@[simp] theorem State.putPatrolAt_inboxes : (s.putPatrolAt v).inboxes = s.inboxes := (rfl)
@[simp] theorem State.putPatrolAt_ctxs : (s.putPatrolAt v).ctxs = s.ctxs := (rfl)
@[simp] theorem State.putPatrolAt_ringPass : (s.putPatrolAt v).ringPass = s.ringPass := (rfl)
@[simp] theorem State.putPatrolAt_plans : (s.putPatrolAt v).plans = s.plans := (rfl)
@[simp] theorem State.putPatrolAt_planFp : (s.putPatrolAt v).planFp = s.planFp := (rfl)
@[simp] theorem State.putPatrolAt_groups : (s.putPatrolAt v).groups = s.groups := (rfl)
@[simp] theorem State.putPatrolAt_wmInbox : (s.putPatrolAt v).wmInbox = s.wmInbox := (rfl)
@[simp] theorem State.putPatrolAt_sets : (s.putPatrolAt v).sets = s.sets := (rfl)
@[simp] theorem State.putPatrolAt_ehts : (s.putPatrolAt v).ehts = s.ehts := (rfl)
@[simp] theorem State.putPatrolAt_expOpen : (s.putPatrolAt v).expOpen = s.expOpen := (rfl)
@[simp] theorem State.putPatrolAt_expIn : (s.putPatrolAt v).expIn = s.expIn := (rfl)
@[simp] theorem State.putPatrolAt_expWait : (s.putPatrolAt v).expWait = s.expWait := (rfl)
@[simp] theorem State.putPatrolAt_atomics : (s.putPatrolAt v).atomics = s.atomics := (rfl)
@[simp] theorem State.putPatrolAt_owners : (s.putPatrolAt v).owners = s.owners := (rfl)
@[simp] theorem State.putPatrolAt_bufs : (s.putPatrolAt v).bufs = s.bufs := (rfl)
@[simp] theorem State.putPatrolAt_pools : (s.putPatrolAt v).pools = s.pools := (rfl)
@[simp] theorem State.putPatrolAt_waiters : (s.putPatrolAt v).waiters = s.waiters := (rfl)
@[simp] theorem State.putPatrolAt_grants : (s.putPatrolAt v).grants = s.grants := (rfl)
@[simp] theorem State.putPatrolAt_rowErrs : (s.putPatrolAt v).rowErrs = s.rowErrs := (rfl)
@[simp] theorem State.putPatrolAt_pageErrs : (s.putPatrolAt v).pageErrs = s.pageErrs := (rfl)
@[simp] theorem State.putPatrolAt_pageHeld : (s.putPatrolAt v).pageHeld = s.pageHeld := (rfl)
@[simp] theorem State.putPatrolAt_pages : (s.putPatrolAt v).pages = s.pages := (rfl)
@[simp] theorem State.putPatrolAt_sparedRows : (s.putPatrolAt v).sparedRows = s.sparedRows := (rfl)
@[simp] theorem State.putPatrolAt_patrolAt : (s.putPatrolAt v).patrolAt = v := (rfl)
@[simp] theorem State.putPatrolAt_sramAt : (s.putPatrolAt v).sramAt = s.sramAt := (rfl)
@[simp] theorem State.putPatrolAt_selfRefresh : (s.putPatrolAt v).selfRefresh = s.selfRefresh := (rfl)
@[simp] theorem State.putPatrolAt_refreshing : (s.putPatrolAt v).refreshing = s.refreshing := (rfl)
@[simp] theorem State.putPatrolAt_sessions : (s.putPatrolAt v).sessions = s.sessions := (rfl)
@[simp] theorem State.putPatrolAt_hpActive : (s.putPatrolAt v).hpActive = s.hpActive := (rfl)
@[simp] theorem State.putPatrolAt_hpApply : (s.putPatrolAt v).hpApply = s.hpApply := (rfl)
@[simp] theorem State.putPatrolAt_hostLink : (s.putPatrolAt v).hostLink = s.hostLink := (rfl)
@[simp] theorem State.putPatrolAt_zctWait : (s.putPatrolAt v).zctWait = s.zctWait := (rfl)
@[simp] theorem State.putPatrolAt_flash : (s.putPatrolAt v).flash = s.flash := (rfl)
@[simp] theorem State.putPatrolAt_bootSlots : (s.putPatrolAt v).bootSlots = s.bootSlots := (rfl)
@[simp] theorem State.putPatrolAt_cert : (s.putPatrolAt v).cert = s.cert := (rfl)
@[simp] theorem State.putPatrolAt_jorou : (s.putPatrolAt v).jorou = s.jorou := (rfl)
@[simp] theorem State.putPatrolAt_wear : (s.putPatrolAt v).wear = s.wear := (rfl)
@[simp] theorem State.putPatrolAt_ledger : (s.putPatrolAt v).ledger = s.ledger := (rfl)
@[simp] theorem State.putPatrolAt_resetOp : (s.putPatrolAt v).reset? = s.reset? := (rfl)
@[simp] theorem State.putPatrolAt_resetQ : (s.putPatrolAt v).resetQ = s.resetQ := (rfl)
@[simp] theorem State.putPatrolAt_resetsDone : (s.putPatrolAt v).resetsDone = s.resetsDone := (rfl)
@[simp] theorem State.putPatrolAt_captures : (s.putPatrolAt v).captures = s.captures := (rfl)
@[simp] theorem State.putPatrolAt_capture : (s.putPatrolAt v).capture = s.capture := (rfl)
@[simp] theorem State.putPatrolAt_capQ : (s.putPatrolAt v).capQ = s.capQ := (rfl)
@[simp] theorem State.putPatrolAt_scan : (s.putPatrolAt v).scan = s.scan := (rfl)
@[simp] theorem State.putPatrolAt_hangs : (s.putPatrolAt v).hangs = s.hangs := (rfl)
@[simp] theorem State.putPatrolAt_stalls : (s.putPatrolAt v).stalls = s.stalls := (rfl)
@[simp] theorem State.putPatrolAt_power : (s.putPatrolAt v).power = s.power := (rfl)
@[simp] theorem State.putPatrolAt_wb : (s.putPatrolAt v).wb = s.wb := (rfl)
end

section
variable (s : State) (v : Nat)
@[simp] theorem State.putSramAt_pending : (s.putSramAt v).pending = s.pending := (rfl)
@[simp] theorem State.putSramAt_cycle : (s.putSramAt v).cycle = s.cycle := (rfl)
@[simp] theorem State.putSramAt_grade : (s.putSramAt v).grade = s.grade := (rfl)
@[simp] theorem State.putSramAt_freeCtr : (s.putSramAt v).freeCtr = s.freeCtr := (rfl)
@[simp] theorem State.putSramAt_out : (s.putSramAt v).out = s.out := (rfl)
@[simp] theorem State.putSramAt_mem : (s.putSramAt v).mem = s.mem := (rfl)
@[simp] theorem State.putSramAt_poison : (s.putSramAt v).poison = s.poison := (rfl)
@[simp] theorem State.putSramAt_regs : (s.putSramAt v).regs = s.regs := (rfl)
@[simp] theorem State.putSramAt_ports : (s.putSramAt v).ports = s.ports := (rfl)
@[simp] theorem State.putSramAt_laneMap : (s.putSramAt v).laneMap = s.laneMap := (rfl)
@[simp] theorem State.putSramAt_mapFixed : (s.putSramAt v).mapFixed = s.mapFixed := (rfl)
@[simp] theorem State.putSramAt_slots : (s.putSramAt v).slots = s.slots := (rfl)
@[simp] theorem State.putSramAt_queues : (s.putSramAt v).queues = s.queues := (rfl)
@[simp] theorem State.putSramAt_xin : (s.putSramAt v).xin = s.xin := (rfl)
@[simp] theorem State.putSramAt_xinLast : (s.putSramAt v).xinLast = s.xinLast := (rfl)
@[simp] theorem State.putSramAt_heldCells : (s.putSramAt v).heldCells = s.heldCells := (rfl)
@[simp] theorem State.putSramAt_retiredSlots : (s.putSramAt v).retiredSlots = s.retiredSlots := (rfl)
@[simp] theorem State.putSramAt_floor : (s.putSramAt v).floor = s.floor := (rfl)
@[simp] theorem State.putSramAt_mirrors : (s.putSramAt v).mirrors = s.mirrors := (rfl)
@[simp] theorem State.putSramAt_mirrorMade : (s.putSramAt v).mirrorMade = s.mirrorMade := (rfl)
@[simp] theorem State.putSramAt_sampleNext : (s.putSramAt v).sampleNext = s.sampleNext := (rfl)
@[simp] theorem State.putSramAt_sampleRead : (s.putSramAt v).sampleRead = s.sampleRead := (rfl)
@[simp] theorem State.putSramAt_smpStart : (s.putSramAt v).smpStart = s.smpStart := (rfl)
@[simp] theorem State.putSramAt_fails : (s.putSramAt v).fails = s.fails := (rfl)
@[simp] theorem State.putSramAt_echoes : (s.putSramAt v).echoes = s.echoes := (rfl)
@[simp] theorem State.putSramAt_echoGaps : (s.putSramAt v).echoGaps = s.echoGaps := (rfl)
@[simp] theorem State.putSramAt_noReturn : (s.putSramAt v).noReturn = s.noReturn := (rfl)
@[simp] theorem State.putSramAt_tiles : (s.putSramAt v).tiles = s.tiles := (rfl)
@[simp] theorem State.putSramAt_tileMap : (s.putSramAt v).tileMap = s.tileMap := (rfl)
@[simp] theorem State.putSramAt_failedTiles : (s.putSramAt v).failedTiles = s.failedTiles := (rfl)
@[simp] theorem State.putSramAt_candidates : (s.putSramAt v).candidates = s.candidates := (rfl)
@[simp] theorem State.putSramAt_inboxes : (s.putSramAt v).inboxes = s.inboxes := (rfl)
@[simp] theorem State.putSramAt_ctxs : (s.putSramAt v).ctxs = s.ctxs := (rfl)
@[simp] theorem State.putSramAt_ringPass : (s.putSramAt v).ringPass = s.ringPass := (rfl)
@[simp] theorem State.putSramAt_plans : (s.putSramAt v).plans = s.plans := (rfl)
@[simp] theorem State.putSramAt_planFp : (s.putSramAt v).planFp = s.planFp := (rfl)
@[simp] theorem State.putSramAt_groups : (s.putSramAt v).groups = s.groups := (rfl)
@[simp] theorem State.putSramAt_wmInbox : (s.putSramAt v).wmInbox = s.wmInbox := (rfl)
@[simp] theorem State.putSramAt_sets : (s.putSramAt v).sets = s.sets := (rfl)
@[simp] theorem State.putSramAt_ehts : (s.putSramAt v).ehts = s.ehts := (rfl)
@[simp] theorem State.putSramAt_expOpen : (s.putSramAt v).expOpen = s.expOpen := (rfl)
@[simp] theorem State.putSramAt_expIn : (s.putSramAt v).expIn = s.expIn := (rfl)
@[simp] theorem State.putSramAt_expWait : (s.putSramAt v).expWait = s.expWait := (rfl)
@[simp] theorem State.putSramAt_atomics : (s.putSramAt v).atomics = s.atomics := (rfl)
@[simp] theorem State.putSramAt_owners : (s.putSramAt v).owners = s.owners := (rfl)
@[simp] theorem State.putSramAt_bufs : (s.putSramAt v).bufs = s.bufs := (rfl)
@[simp] theorem State.putSramAt_pools : (s.putSramAt v).pools = s.pools := (rfl)
@[simp] theorem State.putSramAt_waiters : (s.putSramAt v).waiters = s.waiters := (rfl)
@[simp] theorem State.putSramAt_grants : (s.putSramAt v).grants = s.grants := (rfl)
@[simp] theorem State.putSramAt_rowErrs : (s.putSramAt v).rowErrs = s.rowErrs := (rfl)
@[simp] theorem State.putSramAt_pageErrs : (s.putSramAt v).pageErrs = s.pageErrs := (rfl)
@[simp] theorem State.putSramAt_pageHeld : (s.putSramAt v).pageHeld = s.pageHeld := (rfl)
@[simp] theorem State.putSramAt_pages : (s.putSramAt v).pages = s.pages := (rfl)
@[simp] theorem State.putSramAt_sparedRows : (s.putSramAt v).sparedRows = s.sparedRows := (rfl)
@[simp] theorem State.putSramAt_patrolAt : (s.putSramAt v).patrolAt = s.patrolAt := (rfl)
@[simp] theorem State.putSramAt_sramAt : (s.putSramAt v).sramAt = v := (rfl)
@[simp] theorem State.putSramAt_selfRefresh : (s.putSramAt v).selfRefresh = s.selfRefresh := (rfl)
@[simp] theorem State.putSramAt_refreshing : (s.putSramAt v).refreshing = s.refreshing := (rfl)
@[simp] theorem State.putSramAt_sessions : (s.putSramAt v).sessions = s.sessions := (rfl)
@[simp] theorem State.putSramAt_hpActive : (s.putSramAt v).hpActive = s.hpActive := (rfl)
@[simp] theorem State.putSramAt_hpApply : (s.putSramAt v).hpApply = s.hpApply := (rfl)
@[simp] theorem State.putSramAt_hostLink : (s.putSramAt v).hostLink = s.hostLink := (rfl)
@[simp] theorem State.putSramAt_zctWait : (s.putSramAt v).zctWait = s.zctWait := (rfl)
@[simp] theorem State.putSramAt_flash : (s.putSramAt v).flash = s.flash := (rfl)
@[simp] theorem State.putSramAt_bootSlots : (s.putSramAt v).bootSlots = s.bootSlots := (rfl)
@[simp] theorem State.putSramAt_cert : (s.putSramAt v).cert = s.cert := (rfl)
@[simp] theorem State.putSramAt_jorou : (s.putSramAt v).jorou = s.jorou := (rfl)
@[simp] theorem State.putSramAt_wear : (s.putSramAt v).wear = s.wear := (rfl)
@[simp] theorem State.putSramAt_ledger : (s.putSramAt v).ledger = s.ledger := (rfl)
@[simp] theorem State.putSramAt_resetOp : (s.putSramAt v).reset? = s.reset? := (rfl)
@[simp] theorem State.putSramAt_resetQ : (s.putSramAt v).resetQ = s.resetQ := (rfl)
@[simp] theorem State.putSramAt_resetsDone : (s.putSramAt v).resetsDone = s.resetsDone := (rfl)
@[simp] theorem State.putSramAt_captures : (s.putSramAt v).captures = s.captures := (rfl)
@[simp] theorem State.putSramAt_capture : (s.putSramAt v).capture = s.capture := (rfl)
@[simp] theorem State.putSramAt_capQ : (s.putSramAt v).capQ = s.capQ := (rfl)
@[simp] theorem State.putSramAt_scan : (s.putSramAt v).scan = s.scan := (rfl)
@[simp] theorem State.putSramAt_hangs : (s.putSramAt v).hangs = s.hangs := (rfl)
@[simp] theorem State.putSramAt_stalls : (s.putSramAt v).stalls = s.stalls := (rfl)
@[simp] theorem State.putSramAt_power : (s.putSramAt v).power = s.power := (rfl)
@[simp] theorem State.putSramAt_wb : (s.putSramAt v).wb = s.wb := (rfl)
end

section
variable (s : State) (v : Bool)
@[simp] theorem State.putSelfRefresh_pending : (s.putSelfRefresh v).pending = s.pending := (rfl)
@[simp] theorem State.putSelfRefresh_cycle : (s.putSelfRefresh v).cycle = s.cycle := (rfl)
@[simp] theorem State.putSelfRefresh_grade : (s.putSelfRefresh v).grade = s.grade := (rfl)
@[simp] theorem State.putSelfRefresh_freeCtr : (s.putSelfRefresh v).freeCtr = s.freeCtr := (rfl)
@[simp] theorem State.putSelfRefresh_out : (s.putSelfRefresh v).out = s.out := (rfl)
@[simp] theorem State.putSelfRefresh_mem : (s.putSelfRefresh v).mem = s.mem := (rfl)
@[simp] theorem State.putSelfRefresh_poison : (s.putSelfRefresh v).poison = s.poison := (rfl)
@[simp] theorem State.putSelfRefresh_regs : (s.putSelfRefresh v).regs = s.regs := (rfl)
@[simp] theorem State.putSelfRefresh_ports : (s.putSelfRefresh v).ports = s.ports := (rfl)
@[simp] theorem State.putSelfRefresh_laneMap : (s.putSelfRefresh v).laneMap = s.laneMap := (rfl)
@[simp] theorem State.putSelfRefresh_mapFixed : (s.putSelfRefresh v).mapFixed = s.mapFixed := (rfl)
@[simp] theorem State.putSelfRefresh_slots : (s.putSelfRefresh v).slots = s.slots := (rfl)
@[simp] theorem State.putSelfRefresh_queues : (s.putSelfRefresh v).queues = s.queues := (rfl)
@[simp] theorem State.putSelfRefresh_xin : (s.putSelfRefresh v).xin = s.xin := (rfl)
@[simp] theorem State.putSelfRefresh_xinLast : (s.putSelfRefresh v).xinLast = s.xinLast := (rfl)
@[simp] theorem State.putSelfRefresh_heldCells : (s.putSelfRefresh v).heldCells = s.heldCells := (rfl)
@[simp] theorem State.putSelfRefresh_retiredSlots : (s.putSelfRefresh v).retiredSlots = s.retiredSlots := (rfl)
@[simp] theorem State.putSelfRefresh_floor : (s.putSelfRefresh v).floor = s.floor := (rfl)
@[simp] theorem State.putSelfRefresh_mirrors : (s.putSelfRefresh v).mirrors = s.mirrors := (rfl)
@[simp] theorem State.putSelfRefresh_mirrorMade : (s.putSelfRefresh v).mirrorMade = s.mirrorMade := (rfl)
@[simp] theorem State.putSelfRefresh_sampleNext : (s.putSelfRefresh v).sampleNext = s.sampleNext := (rfl)
@[simp] theorem State.putSelfRefresh_sampleRead : (s.putSelfRefresh v).sampleRead = s.sampleRead := (rfl)
@[simp] theorem State.putSelfRefresh_smpStart : (s.putSelfRefresh v).smpStart = s.smpStart := (rfl)
@[simp] theorem State.putSelfRefresh_fails : (s.putSelfRefresh v).fails = s.fails := (rfl)
@[simp] theorem State.putSelfRefresh_echoes : (s.putSelfRefresh v).echoes = s.echoes := (rfl)
@[simp] theorem State.putSelfRefresh_echoGaps : (s.putSelfRefresh v).echoGaps = s.echoGaps := (rfl)
@[simp] theorem State.putSelfRefresh_noReturn : (s.putSelfRefresh v).noReturn = s.noReturn := (rfl)
@[simp] theorem State.putSelfRefresh_tiles : (s.putSelfRefresh v).tiles = s.tiles := (rfl)
@[simp] theorem State.putSelfRefresh_tileMap : (s.putSelfRefresh v).tileMap = s.tileMap := (rfl)
@[simp] theorem State.putSelfRefresh_failedTiles : (s.putSelfRefresh v).failedTiles = s.failedTiles := (rfl)
@[simp] theorem State.putSelfRefresh_candidates : (s.putSelfRefresh v).candidates = s.candidates := (rfl)
@[simp] theorem State.putSelfRefresh_inboxes : (s.putSelfRefresh v).inboxes = s.inboxes := (rfl)
@[simp] theorem State.putSelfRefresh_ctxs : (s.putSelfRefresh v).ctxs = s.ctxs := (rfl)
@[simp] theorem State.putSelfRefresh_ringPass : (s.putSelfRefresh v).ringPass = s.ringPass := (rfl)
@[simp] theorem State.putSelfRefresh_plans : (s.putSelfRefresh v).plans = s.plans := (rfl)
@[simp] theorem State.putSelfRefresh_planFp : (s.putSelfRefresh v).planFp = s.planFp := (rfl)
@[simp] theorem State.putSelfRefresh_groups : (s.putSelfRefresh v).groups = s.groups := (rfl)
@[simp] theorem State.putSelfRefresh_wmInbox : (s.putSelfRefresh v).wmInbox = s.wmInbox := (rfl)
@[simp] theorem State.putSelfRefresh_sets : (s.putSelfRefresh v).sets = s.sets := (rfl)
@[simp] theorem State.putSelfRefresh_ehts : (s.putSelfRefresh v).ehts = s.ehts := (rfl)
@[simp] theorem State.putSelfRefresh_expOpen : (s.putSelfRefresh v).expOpen = s.expOpen := (rfl)
@[simp] theorem State.putSelfRefresh_expIn : (s.putSelfRefresh v).expIn = s.expIn := (rfl)
@[simp] theorem State.putSelfRefresh_expWait : (s.putSelfRefresh v).expWait = s.expWait := (rfl)
@[simp] theorem State.putSelfRefresh_atomics : (s.putSelfRefresh v).atomics = s.atomics := (rfl)
@[simp] theorem State.putSelfRefresh_owners : (s.putSelfRefresh v).owners = s.owners := (rfl)
@[simp] theorem State.putSelfRefresh_bufs : (s.putSelfRefresh v).bufs = s.bufs := (rfl)
@[simp] theorem State.putSelfRefresh_pools : (s.putSelfRefresh v).pools = s.pools := (rfl)
@[simp] theorem State.putSelfRefresh_waiters : (s.putSelfRefresh v).waiters = s.waiters := (rfl)
@[simp] theorem State.putSelfRefresh_grants : (s.putSelfRefresh v).grants = s.grants := (rfl)
@[simp] theorem State.putSelfRefresh_rowErrs : (s.putSelfRefresh v).rowErrs = s.rowErrs := (rfl)
@[simp] theorem State.putSelfRefresh_pageErrs : (s.putSelfRefresh v).pageErrs = s.pageErrs := (rfl)
@[simp] theorem State.putSelfRefresh_pageHeld : (s.putSelfRefresh v).pageHeld = s.pageHeld := (rfl)
@[simp] theorem State.putSelfRefresh_pages : (s.putSelfRefresh v).pages = s.pages := (rfl)
@[simp] theorem State.putSelfRefresh_sparedRows : (s.putSelfRefresh v).sparedRows = s.sparedRows := (rfl)
@[simp] theorem State.putSelfRefresh_patrolAt : (s.putSelfRefresh v).patrolAt = s.patrolAt := (rfl)
@[simp] theorem State.putSelfRefresh_sramAt : (s.putSelfRefresh v).sramAt = s.sramAt := (rfl)
@[simp] theorem State.putSelfRefresh_selfRefresh : (s.putSelfRefresh v).selfRefresh = v := (rfl)
@[simp] theorem State.putSelfRefresh_refreshing : (s.putSelfRefresh v).refreshing = s.refreshing := (rfl)
@[simp] theorem State.putSelfRefresh_sessions : (s.putSelfRefresh v).sessions = s.sessions := (rfl)
@[simp] theorem State.putSelfRefresh_hpActive : (s.putSelfRefresh v).hpActive = s.hpActive := (rfl)
@[simp] theorem State.putSelfRefresh_hpApply : (s.putSelfRefresh v).hpApply = s.hpApply := (rfl)
@[simp] theorem State.putSelfRefresh_hostLink : (s.putSelfRefresh v).hostLink = s.hostLink := (rfl)
@[simp] theorem State.putSelfRefresh_zctWait : (s.putSelfRefresh v).zctWait = s.zctWait := (rfl)
@[simp] theorem State.putSelfRefresh_flash : (s.putSelfRefresh v).flash = s.flash := (rfl)
@[simp] theorem State.putSelfRefresh_bootSlots : (s.putSelfRefresh v).bootSlots = s.bootSlots := (rfl)
@[simp] theorem State.putSelfRefresh_cert : (s.putSelfRefresh v).cert = s.cert := (rfl)
@[simp] theorem State.putSelfRefresh_jorou : (s.putSelfRefresh v).jorou = s.jorou := (rfl)
@[simp] theorem State.putSelfRefresh_wear : (s.putSelfRefresh v).wear = s.wear := (rfl)
@[simp] theorem State.putSelfRefresh_ledger : (s.putSelfRefresh v).ledger = s.ledger := (rfl)
@[simp] theorem State.putSelfRefresh_resetOp : (s.putSelfRefresh v).reset? = s.reset? := (rfl)
@[simp] theorem State.putSelfRefresh_resetQ : (s.putSelfRefresh v).resetQ = s.resetQ := (rfl)
@[simp] theorem State.putSelfRefresh_resetsDone : (s.putSelfRefresh v).resetsDone = s.resetsDone := (rfl)
@[simp] theorem State.putSelfRefresh_captures : (s.putSelfRefresh v).captures = s.captures := (rfl)
@[simp] theorem State.putSelfRefresh_capture : (s.putSelfRefresh v).capture = s.capture := (rfl)
@[simp] theorem State.putSelfRefresh_capQ : (s.putSelfRefresh v).capQ = s.capQ := (rfl)
@[simp] theorem State.putSelfRefresh_scan : (s.putSelfRefresh v).scan = s.scan := (rfl)
@[simp] theorem State.putSelfRefresh_hangs : (s.putSelfRefresh v).hangs = s.hangs := (rfl)
@[simp] theorem State.putSelfRefresh_stalls : (s.putSelfRefresh v).stalls = s.stalls := (rfl)
@[simp] theorem State.putSelfRefresh_power : (s.putSelfRefresh v).power = s.power := (rfl)
@[simp] theorem State.putSelfRefresh_wb : (s.putSelfRefresh v).wb = s.wb := (rfl)
end

section
variable (s : State) (v : List (Nat × Nat))
@[simp] theorem State.putRefreshing_pending : (s.putRefreshing v).pending = s.pending := (rfl)
@[simp] theorem State.putRefreshing_cycle : (s.putRefreshing v).cycle = s.cycle := (rfl)
@[simp] theorem State.putRefreshing_grade : (s.putRefreshing v).grade = s.grade := (rfl)
@[simp] theorem State.putRefreshing_freeCtr : (s.putRefreshing v).freeCtr = s.freeCtr := (rfl)
@[simp] theorem State.putRefreshing_out : (s.putRefreshing v).out = s.out := (rfl)
@[simp] theorem State.putRefreshing_mem : (s.putRefreshing v).mem = s.mem := (rfl)
@[simp] theorem State.putRefreshing_poison : (s.putRefreshing v).poison = s.poison := (rfl)
@[simp] theorem State.putRefreshing_regs : (s.putRefreshing v).regs = s.regs := (rfl)
@[simp] theorem State.putRefreshing_ports : (s.putRefreshing v).ports = s.ports := (rfl)
@[simp] theorem State.putRefreshing_laneMap : (s.putRefreshing v).laneMap = s.laneMap := (rfl)
@[simp] theorem State.putRefreshing_mapFixed : (s.putRefreshing v).mapFixed = s.mapFixed := (rfl)
@[simp] theorem State.putRefreshing_slots : (s.putRefreshing v).slots = s.slots := (rfl)
@[simp] theorem State.putRefreshing_queues : (s.putRefreshing v).queues = s.queues := (rfl)
@[simp] theorem State.putRefreshing_xin : (s.putRefreshing v).xin = s.xin := (rfl)
@[simp] theorem State.putRefreshing_xinLast : (s.putRefreshing v).xinLast = s.xinLast := (rfl)
@[simp] theorem State.putRefreshing_heldCells : (s.putRefreshing v).heldCells = s.heldCells := (rfl)
@[simp] theorem State.putRefreshing_retiredSlots : (s.putRefreshing v).retiredSlots = s.retiredSlots := (rfl)
@[simp] theorem State.putRefreshing_floor : (s.putRefreshing v).floor = s.floor := (rfl)
@[simp] theorem State.putRefreshing_mirrors : (s.putRefreshing v).mirrors = s.mirrors := (rfl)
@[simp] theorem State.putRefreshing_mirrorMade : (s.putRefreshing v).mirrorMade = s.mirrorMade := (rfl)
@[simp] theorem State.putRefreshing_sampleNext : (s.putRefreshing v).sampleNext = s.sampleNext := (rfl)
@[simp] theorem State.putRefreshing_sampleRead : (s.putRefreshing v).sampleRead = s.sampleRead := (rfl)
@[simp] theorem State.putRefreshing_smpStart : (s.putRefreshing v).smpStart = s.smpStart := (rfl)
@[simp] theorem State.putRefreshing_fails : (s.putRefreshing v).fails = s.fails := (rfl)
@[simp] theorem State.putRefreshing_echoes : (s.putRefreshing v).echoes = s.echoes := (rfl)
@[simp] theorem State.putRefreshing_echoGaps : (s.putRefreshing v).echoGaps = s.echoGaps := (rfl)
@[simp] theorem State.putRefreshing_noReturn : (s.putRefreshing v).noReturn = s.noReturn := (rfl)
@[simp] theorem State.putRefreshing_tiles : (s.putRefreshing v).tiles = s.tiles := (rfl)
@[simp] theorem State.putRefreshing_tileMap : (s.putRefreshing v).tileMap = s.tileMap := (rfl)
@[simp] theorem State.putRefreshing_failedTiles : (s.putRefreshing v).failedTiles = s.failedTiles := (rfl)
@[simp] theorem State.putRefreshing_candidates : (s.putRefreshing v).candidates = s.candidates := (rfl)
@[simp] theorem State.putRefreshing_inboxes : (s.putRefreshing v).inboxes = s.inboxes := (rfl)
@[simp] theorem State.putRefreshing_ctxs : (s.putRefreshing v).ctxs = s.ctxs := (rfl)
@[simp] theorem State.putRefreshing_ringPass : (s.putRefreshing v).ringPass = s.ringPass := (rfl)
@[simp] theorem State.putRefreshing_plans : (s.putRefreshing v).plans = s.plans := (rfl)
@[simp] theorem State.putRefreshing_planFp : (s.putRefreshing v).planFp = s.planFp := (rfl)
@[simp] theorem State.putRefreshing_groups : (s.putRefreshing v).groups = s.groups := (rfl)
@[simp] theorem State.putRefreshing_wmInbox : (s.putRefreshing v).wmInbox = s.wmInbox := (rfl)
@[simp] theorem State.putRefreshing_sets : (s.putRefreshing v).sets = s.sets := (rfl)
@[simp] theorem State.putRefreshing_ehts : (s.putRefreshing v).ehts = s.ehts := (rfl)
@[simp] theorem State.putRefreshing_expOpen : (s.putRefreshing v).expOpen = s.expOpen := (rfl)
@[simp] theorem State.putRefreshing_expIn : (s.putRefreshing v).expIn = s.expIn := (rfl)
@[simp] theorem State.putRefreshing_expWait : (s.putRefreshing v).expWait = s.expWait := (rfl)
@[simp] theorem State.putRefreshing_atomics : (s.putRefreshing v).atomics = s.atomics := (rfl)
@[simp] theorem State.putRefreshing_owners : (s.putRefreshing v).owners = s.owners := (rfl)
@[simp] theorem State.putRefreshing_bufs : (s.putRefreshing v).bufs = s.bufs := (rfl)
@[simp] theorem State.putRefreshing_pools : (s.putRefreshing v).pools = s.pools := (rfl)
@[simp] theorem State.putRefreshing_waiters : (s.putRefreshing v).waiters = s.waiters := (rfl)
@[simp] theorem State.putRefreshing_grants : (s.putRefreshing v).grants = s.grants := (rfl)
@[simp] theorem State.putRefreshing_rowErrs : (s.putRefreshing v).rowErrs = s.rowErrs := (rfl)
@[simp] theorem State.putRefreshing_pageErrs : (s.putRefreshing v).pageErrs = s.pageErrs := (rfl)
@[simp] theorem State.putRefreshing_pageHeld : (s.putRefreshing v).pageHeld = s.pageHeld := (rfl)
@[simp] theorem State.putRefreshing_pages : (s.putRefreshing v).pages = s.pages := (rfl)
@[simp] theorem State.putRefreshing_sparedRows : (s.putRefreshing v).sparedRows = s.sparedRows := (rfl)
@[simp] theorem State.putRefreshing_patrolAt : (s.putRefreshing v).patrolAt = s.patrolAt := (rfl)
@[simp] theorem State.putRefreshing_sramAt : (s.putRefreshing v).sramAt = s.sramAt := (rfl)
@[simp] theorem State.putRefreshing_selfRefresh : (s.putRefreshing v).selfRefresh = s.selfRefresh := (rfl)
@[simp] theorem State.putRefreshing_refreshing : (s.putRefreshing v).refreshing = v := (rfl)
@[simp] theorem State.putRefreshing_sessions : (s.putRefreshing v).sessions = s.sessions := (rfl)
@[simp] theorem State.putRefreshing_hpActive : (s.putRefreshing v).hpActive = s.hpActive := (rfl)
@[simp] theorem State.putRefreshing_hpApply : (s.putRefreshing v).hpApply = s.hpApply := (rfl)
@[simp] theorem State.putRefreshing_hostLink : (s.putRefreshing v).hostLink = s.hostLink := (rfl)
@[simp] theorem State.putRefreshing_zctWait : (s.putRefreshing v).zctWait = s.zctWait := (rfl)
@[simp] theorem State.putRefreshing_flash : (s.putRefreshing v).flash = s.flash := (rfl)
@[simp] theorem State.putRefreshing_bootSlots : (s.putRefreshing v).bootSlots = s.bootSlots := (rfl)
@[simp] theorem State.putRefreshing_cert : (s.putRefreshing v).cert = s.cert := (rfl)
@[simp] theorem State.putRefreshing_jorou : (s.putRefreshing v).jorou = s.jorou := (rfl)
@[simp] theorem State.putRefreshing_wear : (s.putRefreshing v).wear = s.wear := (rfl)
@[simp] theorem State.putRefreshing_ledger : (s.putRefreshing v).ledger = s.ledger := (rfl)
@[simp] theorem State.putRefreshing_resetOp : (s.putRefreshing v).reset? = s.reset? := (rfl)
@[simp] theorem State.putRefreshing_resetQ : (s.putRefreshing v).resetQ = s.resetQ := (rfl)
@[simp] theorem State.putRefreshing_resetsDone : (s.putRefreshing v).resetsDone = s.resetsDone := (rfl)
@[simp] theorem State.putRefreshing_captures : (s.putRefreshing v).captures = s.captures := (rfl)
@[simp] theorem State.putRefreshing_capture : (s.putRefreshing v).capture = s.capture := (rfl)
@[simp] theorem State.putRefreshing_capQ : (s.putRefreshing v).capQ = s.capQ := (rfl)
@[simp] theorem State.putRefreshing_scan : (s.putRefreshing v).scan = s.scan := (rfl)
@[simp] theorem State.putRefreshing_hangs : (s.putRefreshing v).hangs = s.hangs := (rfl)
@[simp] theorem State.putRefreshing_stalls : (s.putRefreshing v).stalls = s.stalls := (rfl)
@[simp] theorem State.putRefreshing_power : (s.putRefreshing v).power = s.power := (rfl)
@[simp] theorem State.putRefreshing_wb : (s.putRefreshing v).wb = s.wb := (rfl)
end

section
variable (s : State) (v : List (Nat × Session))
@[simp] theorem State.putSessions_pending : (s.putSessions v).pending = s.pending := (rfl)
@[simp] theorem State.putSessions_cycle : (s.putSessions v).cycle = s.cycle := (rfl)
@[simp] theorem State.putSessions_grade : (s.putSessions v).grade = s.grade := (rfl)
@[simp] theorem State.putSessions_freeCtr : (s.putSessions v).freeCtr = s.freeCtr := (rfl)
@[simp] theorem State.putSessions_out : (s.putSessions v).out = s.out := (rfl)
@[simp] theorem State.putSessions_mem : (s.putSessions v).mem = s.mem := (rfl)
@[simp] theorem State.putSessions_poison : (s.putSessions v).poison = s.poison := (rfl)
@[simp] theorem State.putSessions_regs : (s.putSessions v).regs = s.regs := (rfl)
@[simp] theorem State.putSessions_ports : (s.putSessions v).ports = s.ports := (rfl)
@[simp] theorem State.putSessions_laneMap : (s.putSessions v).laneMap = s.laneMap := (rfl)
@[simp] theorem State.putSessions_mapFixed : (s.putSessions v).mapFixed = s.mapFixed := (rfl)
@[simp] theorem State.putSessions_slots : (s.putSessions v).slots = s.slots := (rfl)
@[simp] theorem State.putSessions_queues : (s.putSessions v).queues = s.queues := (rfl)
@[simp] theorem State.putSessions_xin : (s.putSessions v).xin = s.xin := (rfl)
@[simp] theorem State.putSessions_xinLast : (s.putSessions v).xinLast = s.xinLast := (rfl)
@[simp] theorem State.putSessions_heldCells : (s.putSessions v).heldCells = s.heldCells := (rfl)
@[simp] theorem State.putSessions_retiredSlots : (s.putSessions v).retiredSlots = s.retiredSlots := (rfl)
@[simp] theorem State.putSessions_floor : (s.putSessions v).floor = s.floor := (rfl)
@[simp] theorem State.putSessions_mirrors : (s.putSessions v).mirrors = s.mirrors := (rfl)
@[simp] theorem State.putSessions_mirrorMade : (s.putSessions v).mirrorMade = s.mirrorMade := (rfl)
@[simp] theorem State.putSessions_sampleNext : (s.putSessions v).sampleNext = s.sampleNext := (rfl)
@[simp] theorem State.putSessions_sampleRead : (s.putSessions v).sampleRead = s.sampleRead := (rfl)
@[simp] theorem State.putSessions_smpStart : (s.putSessions v).smpStart = s.smpStart := (rfl)
@[simp] theorem State.putSessions_fails : (s.putSessions v).fails = s.fails := (rfl)
@[simp] theorem State.putSessions_echoes : (s.putSessions v).echoes = s.echoes := (rfl)
@[simp] theorem State.putSessions_echoGaps : (s.putSessions v).echoGaps = s.echoGaps := (rfl)
@[simp] theorem State.putSessions_noReturn : (s.putSessions v).noReturn = s.noReturn := (rfl)
@[simp] theorem State.putSessions_tiles : (s.putSessions v).tiles = s.tiles := (rfl)
@[simp] theorem State.putSessions_tileMap : (s.putSessions v).tileMap = s.tileMap := (rfl)
@[simp] theorem State.putSessions_failedTiles : (s.putSessions v).failedTiles = s.failedTiles := (rfl)
@[simp] theorem State.putSessions_candidates : (s.putSessions v).candidates = s.candidates := (rfl)
@[simp] theorem State.putSessions_inboxes : (s.putSessions v).inboxes = s.inboxes := (rfl)
@[simp] theorem State.putSessions_ctxs : (s.putSessions v).ctxs = s.ctxs := (rfl)
@[simp] theorem State.putSessions_ringPass : (s.putSessions v).ringPass = s.ringPass := (rfl)
@[simp] theorem State.putSessions_plans : (s.putSessions v).plans = s.plans := (rfl)
@[simp] theorem State.putSessions_planFp : (s.putSessions v).planFp = s.planFp := (rfl)
@[simp] theorem State.putSessions_groups : (s.putSessions v).groups = s.groups := (rfl)
@[simp] theorem State.putSessions_wmInbox : (s.putSessions v).wmInbox = s.wmInbox := (rfl)
@[simp] theorem State.putSessions_sets : (s.putSessions v).sets = s.sets := (rfl)
@[simp] theorem State.putSessions_ehts : (s.putSessions v).ehts = s.ehts := (rfl)
@[simp] theorem State.putSessions_expOpen : (s.putSessions v).expOpen = s.expOpen := (rfl)
@[simp] theorem State.putSessions_expIn : (s.putSessions v).expIn = s.expIn := (rfl)
@[simp] theorem State.putSessions_expWait : (s.putSessions v).expWait = s.expWait := (rfl)
@[simp] theorem State.putSessions_atomics : (s.putSessions v).atomics = s.atomics := (rfl)
@[simp] theorem State.putSessions_owners : (s.putSessions v).owners = s.owners := (rfl)
@[simp] theorem State.putSessions_bufs : (s.putSessions v).bufs = s.bufs := (rfl)
@[simp] theorem State.putSessions_pools : (s.putSessions v).pools = s.pools := (rfl)
@[simp] theorem State.putSessions_waiters : (s.putSessions v).waiters = s.waiters := (rfl)
@[simp] theorem State.putSessions_grants : (s.putSessions v).grants = s.grants := (rfl)
@[simp] theorem State.putSessions_rowErrs : (s.putSessions v).rowErrs = s.rowErrs := (rfl)
@[simp] theorem State.putSessions_pageErrs : (s.putSessions v).pageErrs = s.pageErrs := (rfl)
@[simp] theorem State.putSessions_pageHeld : (s.putSessions v).pageHeld = s.pageHeld := (rfl)
@[simp] theorem State.putSessions_pages : (s.putSessions v).pages = s.pages := (rfl)
@[simp] theorem State.putSessions_sparedRows : (s.putSessions v).sparedRows = s.sparedRows := (rfl)
@[simp] theorem State.putSessions_patrolAt : (s.putSessions v).patrolAt = s.patrolAt := (rfl)
@[simp] theorem State.putSessions_sramAt : (s.putSessions v).sramAt = s.sramAt := (rfl)
@[simp] theorem State.putSessions_selfRefresh : (s.putSessions v).selfRefresh = s.selfRefresh := (rfl)
@[simp] theorem State.putSessions_refreshing : (s.putSessions v).refreshing = s.refreshing := (rfl)
@[simp] theorem State.putSessions_sessions : (s.putSessions v).sessions = v := (rfl)
@[simp] theorem State.putSessions_hpActive : (s.putSessions v).hpActive = s.hpActive := (rfl)
@[simp] theorem State.putSessions_hpApply : (s.putSessions v).hpApply = s.hpApply := (rfl)
@[simp] theorem State.putSessions_hostLink : (s.putSessions v).hostLink = s.hostLink := (rfl)
@[simp] theorem State.putSessions_zctWait : (s.putSessions v).zctWait = s.zctWait := (rfl)
@[simp] theorem State.putSessions_flash : (s.putSessions v).flash = s.flash := (rfl)
@[simp] theorem State.putSessions_bootSlots : (s.putSessions v).bootSlots = s.bootSlots := (rfl)
@[simp] theorem State.putSessions_cert : (s.putSessions v).cert = s.cert := (rfl)
@[simp] theorem State.putSessions_jorou : (s.putSessions v).jorou = s.jorou := (rfl)
@[simp] theorem State.putSessions_wear : (s.putSessions v).wear = s.wear := (rfl)
@[simp] theorem State.putSessions_ledger : (s.putSessions v).ledger = s.ledger := (rfl)
@[simp] theorem State.putSessions_resetOp : (s.putSessions v).reset? = s.reset? := (rfl)
@[simp] theorem State.putSessions_resetQ : (s.putSessions v).resetQ = s.resetQ := (rfl)
@[simp] theorem State.putSessions_resetsDone : (s.putSessions v).resetsDone = s.resetsDone := (rfl)
@[simp] theorem State.putSessions_captures : (s.putSessions v).captures = s.captures := (rfl)
@[simp] theorem State.putSessions_capture : (s.putSessions v).capture = s.capture := (rfl)
@[simp] theorem State.putSessions_capQ : (s.putSessions v).capQ = s.capQ := (rfl)
@[simp] theorem State.putSessions_scan : (s.putSessions v).scan = s.scan := (rfl)
@[simp] theorem State.putSessions_hangs : (s.putSessions v).hangs = s.hangs := (rfl)
@[simp] theorem State.putSessions_stalls : (s.putSessions v).stalls = s.stalls := (rfl)
@[simp] theorem State.putSessions_power : (s.putSessions v).power = s.power := (rfl)
@[simp] theorem State.putSessions_wb : (s.putSessions v).wb = s.wb := (rfl)
end

section
variable (s : State) (v : List Word)
@[simp] theorem State.putHpActive_pending : (s.putHpActive v).pending = s.pending := (rfl)
@[simp] theorem State.putHpActive_cycle : (s.putHpActive v).cycle = s.cycle := (rfl)
@[simp] theorem State.putHpActive_grade : (s.putHpActive v).grade = s.grade := (rfl)
@[simp] theorem State.putHpActive_freeCtr : (s.putHpActive v).freeCtr = s.freeCtr := (rfl)
@[simp] theorem State.putHpActive_out : (s.putHpActive v).out = s.out := (rfl)
@[simp] theorem State.putHpActive_mem : (s.putHpActive v).mem = s.mem := (rfl)
@[simp] theorem State.putHpActive_poison : (s.putHpActive v).poison = s.poison := (rfl)
@[simp] theorem State.putHpActive_regs : (s.putHpActive v).regs = s.regs := (rfl)
@[simp] theorem State.putHpActive_ports : (s.putHpActive v).ports = s.ports := (rfl)
@[simp] theorem State.putHpActive_laneMap : (s.putHpActive v).laneMap = s.laneMap := (rfl)
@[simp] theorem State.putHpActive_mapFixed : (s.putHpActive v).mapFixed = s.mapFixed := (rfl)
@[simp] theorem State.putHpActive_slots : (s.putHpActive v).slots = s.slots := (rfl)
@[simp] theorem State.putHpActive_queues : (s.putHpActive v).queues = s.queues := (rfl)
@[simp] theorem State.putHpActive_xin : (s.putHpActive v).xin = s.xin := (rfl)
@[simp] theorem State.putHpActive_xinLast : (s.putHpActive v).xinLast = s.xinLast := (rfl)
@[simp] theorem State.putHpActive_heldCells : (s.putHpActive v).heldCells = s.heldCells := (rfl)
@[simp] theorem State.putHpActive_retiredSlots : (s.putHpActive v).retiredSlots = s.retiredSlots := (rfl)
@[simp] theorem State.putHpActive_floor : (s.putHpActive v).floor = s.floor := (rfl)
@[simp] theorem State.putHpActive_mirrors : (s.putHpActive v).mirrors = s.mirrors := (rfl)
@[simp] theorem State.putHpActive_mirrorMade : (s.putHpActive v).mirrorMade = s.mirrorMade := (rfl)
@[simp] theorem State.putHpActive_sampleNext : (s.putHpActive v).sampleNext = s.sampleNext := (rfl)
@[simp] theorem State.putHpActive_sampleRead : (s.putHpActive v).sampleRead = s.sampleRead := (rfl)
@[simp] theorem State.putHpActive_smpStart : (s.putHpActive v).smpStart = s.smpStart := (rfl)
@[simp] theorem State.putHpActive_fails : (s.putHpActive v).fails = s.fails := (rfl)
@[simp] theorem State.putHpActive_echoes : (s.putHpActive v).echoes = s.echoes := (rfl)
@[simp] theorem State.putHpActive_echoGaps : (s.putHpActive v).echoGaps = s.echoGaps := (rfl)
@[simp] theorem State.putHpActive_noReturn : (s.putHpActive v).noReturn = s.noReturn := (rfl)
@[simp] theorem State.putHpActive_tiles : (s.putHpActive v).tiles = s.tiles := (rfl)
@[simp] theorem State.putHpActive_tileMap : (s.putHpActive v).tileMap = s.tileMap := (rfl)
@[simp] theorem State.putHpActive_failedTiles : (s.putHpActive v).failedTiles = s.failedTiles := (rfl)
@[simp] theorem State.putHpActive_candidates : (s.putHpActive v).candidates = s.candidates := (rfl)
@[simp] theorem State.putHpActive_inboxes : (s.putHpActive v).inboxes = s.inboxes := (rfl)
@[simp] theorem State.putHpActive_ctxs : (s.putHpActive v).ctxs = s.ctxs := (rfl)
@[simp] theorem State.putHpActive_ringPass : (s.putHpActive v).ringPass = s.ringPass := (rfl)
@[simp] theorem State.putHpActive_plans : (s.putHpActive v).plans = s.plans := (rfl)
@[simp] theorem State.putHpActive_planFp : (s.putHpActive v).planFp = s.planFp := (rfl)
@[simp] theorem State.putHpActive_groups : (s.putHpActive v).groups = s.groups := (rfl)
@[simp] theorem State.putHpActive_wmInbox : (s.putHpActive v).wmInbox = s.wmInbox := (rfl)
@[simp] theorem State.putHpActive_sets : (s.putHpActive v).sets = s.sets := (rfl)
@[simp] theorem State.putHpActive_ehts : (s.putHpActive v).ehts = s.ehts := (rfl)
@[simp] theorem State.putHpActive_expOpen : (s.putHpActive v).expOpen = s.expOpen := (rfl)
@[simp] theorem State.putHpActive_expIn : (s.putHpActive v).expIn = s.expIn := (rfl)
@[simp] theorem State.putHpActive_expWait : (s.putHpActive v).expWait = s.expWait := (rfl)
@[simp] theorem State.putHpActive_atomics : (s.putHpActive v).atomics = s.atomics := (rfl)
@[simp] theorem State.putHpActive_owners : (s.putHpActive v).owners = s.owners := (rfl)
@[simp] theorem State.putHpActive_bufs : (s.putHpActive v).bufs = s.bufs := (rfl)
@[simp] theorem State.putHpActive_pools : (s.putHpActive v).pools = s.pools := (rfl)
@[simp] theorem State.putHpActive_waiters : (s.putHpActive v).waiters = s.waiters := (rfl)
@[simp] theorem State.putHpActive_grants : (s.putHpActive v).grants = s.grants := (rfl)
@[simp] theorem State.putHpActive_rowErrs : (s.putHpActive v).rowErrs = s.rowErrs := (rfl)
@[simp] theorem State.putHpActive_pageErrs : (s.putHpActive v).pageErrs = s.pageErrs := (rfl)
@[simp] theorem State.putHpActive_pageHeld : (s.putHpActive v).pageHeld = s.pageHeld := (rfl)
@[simp] theorem State.putHpActive_pages : (s.putHpActive v).pages = s.pages := (rfl)
@[simp] theorem State.putHpActive_sparedRows : (s.putHpActive v).sparedRows = s.sparedRows := (rfl)
@[simp] theorem State.putHpActive_patrolAt : (s.putHpActive v).patrolAt = s.patrolAt := (rfl)
@[simp] theorem State.putHpActive_sramAt : (s.putHpActive v).sramAt = s.sramAt := (rfl)
@[simp] theorem State.putHpActive_selfRefresh : (s.putHpActive v).selfRefresh = s.selfRefresh := (rfl)
@[simp] theorem State.putHpActive_refreshing : (s.putHpActive v).refreshing = s.refreshing := (rfl)
@[simp] theorem State.putHpActive_sessions : (s.putHpActive v).sessions = s.sessions := (rfl)
@[simp] theorem State.putHpActive_hpActive : (s.putHpActive v).hpActive = v := (rfl)
@[simp] theorem State.putHpActive_hpApply : (s.putHpActive v).hpApply = s.hpApply := (rfl)
@[simp] theorem State.putHpActive_hostLink : (s.putHpActive v).hostLink = s.hostLink := (rfl)
@[simp] theorem State.putHpActive_zctWait : (s.putHpActive v).zctWait = s.zctWait := (rfl)
@[simp] theorem State.putHpActive_flash : (s.putHpActive v).flash = s.flash := (rfl)
@[simp] theorem State.putHpActive_bootSlots : (s.putHpActive v).bootSlots = s.bootSlots := (rfl)
@[simp] theorem State.putHpActive_cert : (s.putHpActive v).cert = s.cert := (rfl)
@[simp] theorem State.putHpActive_jorou : (s.putHpActive v).jorou = s.jorou := (rfl)
@[simp] theorem State.putHpActive_wear : (s.putHpActive v).wear = s.wear := (rfl)
@[simp] theorem State.putHpActive_ledger : (s.putHpActive v).ledger = s.ledger := (rfl)
@[simp] theorem State.putHpActive_resetOp : (s.putHpActive v).reset? = s.reset? := (rfl)
@[simp] theorem State.putHpActive_resetQ : (s.putHpActive v).resetQ = s.resetQ := (rfl)
@[simp] theorem State.putHpActive_resetsDone : (s.putHpActive v).resetsDone = s.resetsDone := (rfl)
@[simp] theorem State.putHpActive_captures : (s.putHpActive v).captures = s.captures := (rfl)
@[simp] theorem State.putHpActive_capture : (s.putHpActive v).capture = s.capture := (rfl)
@[simp] theorem State.putHpActive_capQ : (s.putHpActive v).capQ = s.capQ := (rfl)
@[simp] theorem State.putHpActive_scan : (s.putHpActive v).scan = s.scan := (rfl)
@[simp] theorem State.putHpActive_hangs : (s.putHpActive v).hangs = s.hangs := (rfl)
@[simp] theorem State.putHpActive_stalls : (s.putHpActive v).stalls = s.stalls := (rfl)
@[simp] theorem State.putHpActive_power : (s.putHpActive v).power = s.power := (rfl)
@[simp] theorem State.putHpActive_wb : (s.putHpActive v).wb = s.wb := (rfl)
end

section
variable (s : State) (v : Bool)
@[simp] theorem State.putHpApply_pending : (s.putHpApply v).pending = s.pending := (rfl)
@[simp] theorem State.putHpApply_cycle : (s.putHpApply v).cycle = s.cycle := (rfl)
@[simp] theorem State.putHpApply_grade : (s.putHpApply v).grade = s.grade := (rfl)
@[simp] theorem State.putHpApply_freeCtr : (s.putHpApply v).freeCtr = s.freeCtr := (rfl)
@[simp] theorem State.putHpApply_out : (s.putHpApply v).out = s.out := (rfl)
@[simp] theorem State.putHpApply_mem : (s.putHpApply v).mem = s.mem := (rfl)
@[simp] theorem State.putHpApply_poison : (s.putHpApply v).poison = s.poison := (rfl)
@[simp] theorem State.putHpApply_regs : (s.putHpApply v).regs = s.regs := (rfl)
@[simp] theorem State.putHpApply_ports : (s.putHpApply v).ports = s.ports := (rfl)
@[simp] theorem State.putHpApply_laneMap : (s.putHpApply v).laneMap = s.laneMap := (rfl)
@[simp] theorem State.putHpApply_mapFixed : (s.putHpApply v).mapFixed = s.mapFixed := (rfl)
@[simp] theorem State.putHpApply_slots : (s.putHpApply v).slots = s.slots := (rfl)
@[simp] theorem State.putHpApply_queues : (s.putHpApply v).queues = s.queues := (rfl)
@[simp] theorem State.putHpApply_xin : (s.putHpApply v).xin = s.xin := (rfl)
@[simp] theorem State.putHpApply_xinLast : (s.putHpApply v).xinLast = s.xinLast := (rfl)
@[simp] theorem State.putHpApply_heldCells : (s.putHpApply v).heldCells = s.heldCells := (rfl)
@[simp] theorem State.putHpApply_retiredSlots : (s.putHpApply v).retiredSlots = s.retiredSlots := (rfl)
@[simp] theorem State.putHpApply_floor : (s.putHpApply v).floor = s.floor := (rfl)
@[simp] theorem State.putHpApply_mirrors : (s.putHpApply v).mirrors = s.mirrors := (rfl)
@[simp] theorem State.putHpApply_mirrorMade : (s.putHpApply v).mirrorMade = s.mirrorMade := (rfl)
@[simp] theorem State.putHpApply_sampleNext : (s.putHpApply v).sampleNext = s.sampleNext := (rfl)
@[simp] theorem State.putHpApply_sampleRead : (s.putHpApply v).sampleRead = s.sampleRead := (rfl)
@[simp] theorem State.putHpApply_smpStart : (s.putHpApply v).smpStart = s.smpStart := (rfl)
@[simp] theorem State.putHpApply_fails : (s.putHpApply v).fails = s.fails := (rfl)
@[simp] theorem State.putHpApply_echoes : (s.putHpApply v).echoes = s.echoes := (rfl)
@[simp] theorem State.putHpApply_echoGaps : (s.putHpApply v).echoGaps = s.echoGaps := (rfl)
@[simp] theorem State.putHpApply_noReturn : (s.putHpApply v).noReturn = s.noReturn := (rfl)
@[simp] theorem State.putHpApply_tiles : (s.putHpApply v).tiles = s.tiles := (rfl)
@[simp] theorem State.putHpApply_tileMap : (s.putHpApply v).tileMap = s.tileMap := (rfl)
@[simp] theorem State.putHpApply_failedTiles : (s.putHpApply v).failedTiles = s.failedTiles := (rfl)
@[simp] theorem State.putHpApply_candidates : (s.putHpApply v).candidates = s.candidates := (rfl)
@[simp] theorem State.putHpApply_inboxes : (s.putHpApply v).inboxes = s.inboxes := (rfl)
@[simp] theorem State.putHpApply_ctxs : (s.putHpApply v).ctxs = s.ctxs := (rfl)
@[simp] theorem State.putHpApply_ringPass : (s.putHpApply v).ringPass = s.ringPass := (rfl)
@[simp] theorem State.putHpApply_plans : (s.putHpApply v).plans = s.plans := (rfl)
@[simp] theorem State.putHpApply_planFp : (s.putHpApply v).planFp = s.planFp := (rfl)
@[simp] theorem State.putHpApply_groups : (s.putHpApply v).groups = s.groups := (rfl)
@[simp] theorem State.putHpApply_wmInbox : (s.putHpApply v).wmInbox = s.wmInbox := (rfl)
@[simp] theorem State.putHpApply_sets : (s.putHpApply v).sets = s.sets := (rfl)
@[simp] theorem State.putHpApply_ehts : (s.putHpApply v).ehts = s.ehts := (rfl)
@[simp] theorem State.putHpApply_expOpen : (s.putHpApply v).expOpen = s.expOpen := (rfl)
@[simp] theorem State.putHpApply_expIn : (s.putHpApply v).expIn = s.expIn := (rfl)
@[simp] theorem State.putHpApply_expWait : (s.putHpApply v).expWait = s.expWait := (rfl)
@[simp] theorem State.putHpApply_atomics : (s.putHpApply v).atomics = s.atomics := (rfl)
@[simp] theorem State.putHpApply_owners : (s.putHpApply v).owners = s.owners := (rfl)
@[simp] theorem State.putHpApply_bufs : (s.putHpApply v).bufs = s.bufs := (rfl)
@[simp] theorem State.putHpApply_pools : (s.putHpApply v).pools = s.pools := (rfl)
@[simp] theorem State.putHpApply_waiters : (s.putHpApply v).waiters = s.waiters := (rfl)
@[simp] theorem State.putHpApply_grants : (s.putHpApply v).grants = s.grants := (rfl)
@[simp] theorem State.putHpApply_rowErrs : (s.putHpApply v).rowErrs = s.rowErrs := (rfl)
@[simp] theorem State.putHpApply_pageErrs : (s.putHpApply v).pageErrs = s.pageErrs := (rfl)
@[simp] theorem State.putHpApply_pageHeld : (s.putHpApply v).pageHeld = s.pageHeld := (rfl)
@[simp] theorem State.putHpApply_pages : (s.putHpApply v).pages = s.pages := (rfl)
@[simp] theorem State.putHpApply_sparedRows : (s.putHpApply v).sparedRows = s.sparedRows := (rfl)
@[simp] theorem State.putHpApply_patrolAt : (s.putHpApply v).patrolAt = s.patrolAt := (rfl)
@[simp] theorem State.putHpApply_sramAt : (s.putHpApply v).sramAt = s.sramAt := (rfl)
@[simp] theorem State.putHpApply_selfRefresh : (s.putHpApply v).selfRefresh = s.selfRefresh := (rfl)
@[simp] theorem State.putHpApply_refreshing : (s.putHpApply v).refreshing = s.refreshing := (rfl)
@[simp] theorem State.putHpApply_sessions : (s.putHpApply v).sessions = s.sessions := (rfl)
@[simp] theorem State.putHpApply_hpActive : (s.putHpApply v).hpActive = s.hpActive := (rfl)
@[simp] theorem State.putHpApply_hpApply : (s.putHpApply v).hpApply = v := (rfl)
@[simp] theorem State.putHpApply_hostLink : (s.putHpApply v).hostLink = s.hostLink := (rfl)
@[simp] theorem State.putHpApply_zctWait : (s.putHpApply v).zctWait = s.zctWait := (rfl)
@[simp] theorem State.putHpApply_flash : (s.putHpApply v).flash = s.flash := (rfl)
@[simp] theorem State.putHpApply_bootSlots : (s.putHpApply v).bootSlots = s.bootSlots := (rfl)
@[simp] theorem State.putHpApply_cert : (s.putHpApply v).cert = s.cert := (rfl)
@[simp] theorem State.putHpApply_jorou : (s.putHpApply v).jorou = s.jorou := (rfl)
@[simp] theorem State.putHpApply_wear : (s.putHpApply v).wear = s.wear := (rfl)
@[simp] theorem State.putHpApply_ledger : (s.putHpApply v).ledger = s.ledger := (rfl)
@[simp] theorem State.putHpApply_resetOp : (s.putHpApply v).reset? = s.reset? := (rfl)
@[simp] theorem State.putHpApply_resetQ : (s.putHpApply v).resetQ = s.resetQ := (rfl)
@[simp] theorem State.putHpApply_resetsDone : (s.putHpApply v).resetsDone = s.resetsDone := (rfl)
@[simp] theorem State.putHpApply_captures : (s.putHpApply v).captures = s.captures := (rfl)
@[simp] theorem State.putHpApply_capture : (s.putHpApply v).capture = s.capture := (rfl)
@[simp] theorem State.putHpApply_capQ : (s.putHpApply v).capQ = s.capQ := (rfl)
@[simp] theorem State.putHpApply_scan : (s.putHpApply v).scan = s.scan := (rfl)
@[simp] theorem State.putHpApply_hangs : (s.putHpApply v).hangs = s.hangs := (rfl)
@[simp] theorem State.putHpApply_stalls : (s.putHpApply v).stalls = s.stalls := (rfl)
@[simp] theorem State.putHpApply_power : (s.putHpApply v).power = s.power := (rfl)
@[simp] theorem State.putHpApply_wb : (s.putHpApply v).wb = s.wb := (rfl)
end

section
variable (s : State) (v : Bool)
@[simp] theorem State.putHostLink_pending : (s.putHostLink v).pending = s.pending := (rfl)
@[simp] theorem State.putHostLink_cycle : (s.putHostLink v).cycle = s.cycle := (rfl)
@[simp] theorem State.putHostLink_grade : (s.putHostLink v).grade = s.grade := (rfl)
@[simp] theorem State.putHostLink_freeCtr : (s.putHostLink v).freeCtr = s.freeCtr := (rfl)
@[simp] theorem State.putHostLink_out : (s.putHostLink v).out = s.out := (rfl)
@[simp] theorem State.putHostLink_mem : (s.putHostLink v).mem = s.mem := (rfl)
@[simp] theorem State.putHostLink_poison : (s.putHostLink v).poison = s.poison := (rfl)
@[simp] theorem State.putHostLink_regs : (s.putHostLink v).regs = s.regs := (rfl)
@[simp] theorem State.putHostLink_ports : (s.putHostLink v).ports = s.ports := (rfl)
@[simp] theorem State.putHostLink_laneMap : (s.putHostLink v).laneMap = s.laneMap := (rfl)
@[simp] theorem State.putHostLink_mapFixed : (s.putHostLink v).mapFixed = s.mapFixed := (rfl)
@[simp] theorem State.putHostLink_slots : (s.putHostLink v).slots = s.slots := (rfl)
@[simp] theorem State.putHostLink_queues : (s.putHostLink v).queues = s.queues := (rfl)
@[simp] theorem State.putHostLink_xin : (s.putHostLink v).xin = s.xin := (rfl)
@[simp] theorem State.putHostLink_xinLast : (s.putHostLink v).xinLast = s.xinLast := (rfl)
@[simp] theorem State.putHostLink_heldCells : (s.putHostLink v).heldCells = s.heldCells := (rfl)
@[simp] theorem State.putHostLink_retiredSlots : (s.putHostLink v).retiredSlots = s.retiredSlots := (rfl)
@[simp] theorem State.putHostLink_floor : (s.putHostLink v).floor = s.floor := (rfl)
@[simp] theorem State.putHostLink_mirrors : (s.putHostLink v).mirrors = s.mirrors := (rfl)
@[simp] theorem State.putHostLink_mirrorMade : (s.putHostLink v).mirrorMade = s.mirrorMade := (rfl)
@[simp] theorem State.putHostLink_sampleNext : (s.putHostLink v).sampleNext = s.sampleNext := (rfl)
@[simp] theorem State.putHostLink_sampleRead : (s.putHostLink v).sampleRead = s.sampleRead := (rfl)
@[simp] theorem State.putHostLink_smpStart : (s.putHostLink v).smpStart = s.smpStart := (rfl)
@[simp] theorem State.putHostLink_fails : (s.putHostLink v).fails = s.fails := (rfl)
@[simp] theorem State.putHostLink_echoes : (s.putHostLink v).echoes = s.echoes := (rfl)
@[simp] theorem State.putHostLink_echoGaps : (s.putHostLink v).echoGaps = s.echoGaps := (rfl)
@[simp] theorem State.putHostLink_noReturn : (s.putHostLink v).noReturn = s.noReturn := (rfl)
@[simp] theorem State.putHostLink_tiles : (s.putHostLink v).tiles = s.tiles := (rfl)
@[simp] theorem State.putHostLink_tileMap : (s.putHostLink v).tileMap = s.tileMap := (rfl)
@[simp] theorem State.putHostLink_failedTiles : (s.putHostLink v).failedTiles = s.failedTiles := (rfl)
@[simp] theorem State.putHostLink_candidates : (s.putHostLink v).candidates = s.candidates := (rfl)
@[simp] theorem State.putHostLink_inboxes : (s.putHostLink v).inboxes = s.inboxes := (rfl)
@[simp] theorem State.putHostLink_ctxs : (s.putHostLink v).ctxs = s.ctxs := (rfl)
@[simp] theorem State.putHostLink_ringPass : (s.putHostLink v).ringPass = s.ringPass := (rfl)
@[simp] theorem State.putHostLink_plans : (s.putHostLink v).plans = s.plans := (rfl)
@[simp] theorem State.putHostLink_planFp : (s.putHostLink v).planFp = s.planFp := (rfl)
@[simp] theorem State.putHostLink_groups : (s.putHostLink v).groups = s.groups := (rfl)
@[simp] theorem State.putHostLink_wmInbox : (s.putHostLink v).wmInbox = s.wmInbox := (rfl)
@[simp] theorem State.putHostLink_sets : (s.putHostLink v).sets = s.sets := (rfl)
@[simp] theorem State.putHostLink_ehts : (s.putHostLink v).ehts = s.ehts := (rfl)
@[simp] theorem State.putHostLink_expOpen : (s.putHostLink v).expOpen = s.expOpen := (rfl)
@[simp] theorem State.putHostLink_expIn : (s.putHostLink v).expIn = s.expIn := (rfl)
@[simp] theorem State.putHostLink_expWait : (s.putHostLink v).expWait = s.expWait := (rfl)
@[simp] theorem State.putHostLink_atomics : (s.putHostLink v).atomics = s.atomics := (rfl)
@[simp] theorem State.putHostLink_owners : (s.putHostLink v).owners = s.owners := (rfl)
@[simp] theorem State.putHostLink_bufs : (s.putHostLink v).bufs = s.bufs := (rfl)
@[simp] theorem State.putHostLink_pools : (s.putHostLink v).pools = s.pools := (rfl)
@[simp] theorem State.putHostLink_waiters : (s.putHostLink v).waiters = s.waiters := (rfl)
@[simp] theorem State.putHostLink_grants : (s.putHostLink v).grants = s.grants := (rfl)
@[simp] theorem State.putHostLink_rowErrs : (s.putHostLink v).rowErrs = s.rowErrs := (rfl)
@[simp] theorem State.putHostLink_pageErrs : (s.putHostLink v).pageErrs = s.pageErrs := (rfl)
@[simp] theorem State.putHostLink_pageHeld : (s.putHostLink v).pageHeld = s.pageHeld := (rfl)
@[simp] theorem State.putHostLink_pages : (s.putHostLink v).pages = s.pages := (rfl)
@[simp] theorem State.putHostLink_sparedRows : (s.putHostLink v).sparedRows = s.sparedRows := (rfl)
@[simp] theorem State.putHostLink_patrolAt : (s.putHostLink v).patrolAt = s.patrolAt := (rfl)
@[simp] theorem State.putHostLink_sramAt : (s.putHostLink v).sramAt = s.sramAt := (rfl)
@[simp] theorem State.putHostLink_selfRefresh : (s.putHostLink v).selfRefresh = s.selfRefresh := (rfl)
@[simp] theorem State.putHostLink_refreshing : (s.putHostLink v).refreshing = s.refreshing := (rfl)
@[simp] theorem State.putHostLink_sessions : (s.putHostLink v).sessions = s.sessions := (rfl)
@[simp] theorem State.putHostLink_hpActive : (s.putHostLink v).hpActive = s.hpActive := (rfl)
@[simp] theorem State.putHostLink_hpApply : (s.putHostLink v).hpApply = s.hpApply := (rfl)
@[simp] theorem State.putHostLink_hostLink : (s.putHostLink v).hostLink = v := (rfl)
@[simp] theorem State.putHostLink_zctWait : (s.putHostLink v).zctWait = s.zctWait := (rfl)
@[simp] theorem State.putHostLink_flash : (s.putHostLink v).flash = s.flash := (rfl)
@[simp] theorem State.putHostLink_bootSlots : (s.putHostLink v).bootSlots = s.bootSlots := (rfl)
@[simp] theorem State.putHostLink_cert : (s.putHostLink v).cert = s.cert := (rfl)
@[simp] theorem State.putHostLink_jorou : (s.putHostLink v).jorou = s.jorou := (rfl)
@[simp] theorem State.putHostLink_wear : (s.putHostLink v).wear = s.wear := (rfl)
@[simp] theorem State.putHostLink_ledger : (s.putHostLink v).ledger = s.ledger := (rfl)
@[simp] theorem State.putHostLink_resetOp : (s.putHostLink v).reset? = s.reset? := (rfl)
@[simp] theorem State.putHostLink_resetQ : (s.putHostLink v).resetQ = s.resetQ := (rfl)
@[simp] theorem State.putHostLink_resetsDone : (s.putHostLink v).resetsDone = s.resetsDone := (rfl)
@[simp] theorem State.putHostLink_captures : (s.putHostLink v).captures = s.captures := (rfl)
@[simp] theorem State.putHostLink_capture : (s.putHostLink v).capture = s.capture := (rfl)
@[simp] theorem State.putHostLink_capQ : (s.putHostLink v).capQ = s.capQ := (rfl)
@[simp] theorem State.putHostLink_scan : (s.putHostLink v).scan = s.scan := (rfl)
@[simp] theorem State.putHostLink_hangs : (s.putHostLink v).hangs = s.hangs := (rfl)
@[simp] theorem State.putHostLink_stalls : (s.putHostLink v).stalls = s.stalls := (rfl)
@[simp] theorem State.putHostLink_power : (s.putHostLink v).power = s.power := (rfl)
@[simp] theorem State.putHostLink_wb : (s.putHostLink v).wb = s.wb := (rfl)
end

section
variable (s : State) (v : List (Nat × Nat × ZctMsg))
@[simp] theorem State.putZctWait_pending : (s.putZctWait v).pending = s.pending := (rfl)
@[simp] theorem State.putZctWait_cycle : (s.putZctWait v).cycle = s.cycle := (rfl)
@[simp] theorem State.putZctWait_grade : (s.putZctWait v).grade = s.grade := (rfl)
@[simp] theorem State.putZctWait_freeCtr : (s.putZctWait v).freeCtr = s.freeCtr := (rfl)
@[simp] theorem State.putZctWait_out : (s.putZctWait v).out = s.out := (rfl)
@[simp] theorem State.putZctWait_mem : (s.putZctWait v).mem = s.mem := (rfl)
@[simp] theorem State.putZctWait_poison : (s.putZctWait v).poison = s.poison := (rfl)
@[simp] theorem State.putZctWait_regs : (s.putZctWait v).regs = s.regs := (rfl)
@[simp] theorem State.putZctWait_ports : (s.putZctWait v).ports = s.ports := (rfl)
@[simp] theorem State.putZctWait_laneMap : (s.putZctWait v).laneMap = s.laneMap := (rfl)
@[simp] theorem State.putZctWait_mapFixed : (s.putZctWait v).mapFixed = s.mapFixed := (rfl)
@[simp] theorem State.putZctWait_slots : (s.putZctWait v).slots = s.slots := (rfl)
@[simp] theorem State.putZctWait_queues : (s.putZctWait v).queues = s.queues := (rfl)
@[simp] theorem State.putZctWait_xin : (s.putZctWait v).xin = s.xin := (rfl)
@[simp] theorem State.putZctWait_xinLast : (s.putZctWait v).xinLast = s.xinLast := (rfl)
@[simp] theorem State.putZctWait_heldCells : (s.putZctWait v).heldCells = s.heldCells := (rfl)
@[simp] theorem State.putZctWait_retiredSlots : (s.putZctWait v).retiredSlots = s.retiredSlots := (rfl)
@[simp] theorem State.putZctWait_floor : (s.putZctWait v).floor = s.floor := (rfl)
@[simp] theorem State.putZctWait_mirrors : (s.putZctWait v).mirrors = s.mirrors := (rfl)
@[simp] theorem State.putZctWait_mirrorMade : (s.putZctWait v).mirrorMade = s.mirrorMade := (rfl)
@[simp] theorem State.putZctWait_sampleNext : (s.putZctWait v).sampleNext = s.sampleNext := (rfl)
@[simp] theorem State.putZctWait_sampleRead : (s.putZctWait v).sampleRead = s.sampleRead := (rfl)
@[simp] theorem State.putZctWait_smpStart : (s.putZctWait v).smpStart = s.smpStart := (rfl)
@[simp] theorem State.putZctWait_fails : (s.putZctWait v).fails = s.fails := (rfl)
@[simp] theorem State.putZctWait_echoes : (s.putZctWait v).echoes = s.echoes := (rfl)
@[simp] theorem State.putZctWait_echoGaps : (s.putZctWait v).echoGaps = s.echoGaps := (rfl)
@[simp] theorem State.putZctWait_noReturn : (s.putZctWait v).noReturn = s.noReturn := (rfl)
@[simp] theorem State.putZctWait_tiles : (s.putZctWait v).tiles = s.tiles := (rfl)
@[simp] theorem State.putZctWait_tileMap : (s.putZctWait v).tileMap = s.tileMap := (rfl)
@[simp] theorem State.putZctWait_failedTiles : (s.putZctWait v).failedTiles = s.failedTiles := (rfl)
@[simp] theorem State.putZctWait_candidates : (s.putZctWait v).candidates = s.candidates := (rfl)
@[simp] theorem State.putZctWait_inboxes : (s.putZctWait v).inboxes = s.inboxes := (rfl)
@[simp] theorem State.putZctWait_ctxs : (s.putZctWait v).ctxs = s.ctxs := (rfl)
@[simp] theorem State.putZctWait_ringPass : (s.putZctWait v).ringPass = s.ringPass := (rfl)
@[simp] theorem State.putZctWait_plans : (s.putZctWait v).plans = s.plans := (rfl)
@[simp] theorem State.putZctWait_planFp : (s.putZctWait v).planFp = s.planFp := (rfl)
@[simp] theorem State.putZctWait_groups : (s.putZctWait v).groups = s.groups := (rfl)
@[simp] theorem State.putZctWait_wmInbox : (s.putZctWait v).wmInbox = s.wmInbox := (rfl)
@[simp] theorem State.putZctWait_sets : (s.putZctWait v).sets = s.sets := (rfl)
@[simp] theorem State.putZctWait_ehts : (s.putZctWait v).ehts = s.ehts := (rfl)
@[simp] theorem State.putZctWait_expOpen : (s.putZctWait v).expOpen = s.expOpen := (rfl)
@[simp] theorem State.putZctWait_expIn : (s.putZctWait v).expIn = s.expIn := (rfl)
@[simp] theorem State.putZctWait_expWait : (s.putZctWait v).expWait = s.expWait := (rfl)
@[simp] theorem State.putZctWait_atomics : (s.putZctWait v).atomics = s.atomics := (rfl)
@[simp] theorem State.putZctWait_owners : (s.putZctWait v).owners = s.owners := (rfl)
@[simp] theorem State.putZctWait_bufs : (s.putZctWait v).bufs = s.bufs := (rfl)
@[simp] theorem State.putZctWait_pools : (s.putZctWait v).pools = s.pools := (rfl)
@[simp] theorem State.putZctWait_waiters : (s.putZctWait v).waiters = s.waiters := (rfl)
@[simp] theorem State.putZctWait_grants : (s.putZctWait v).grants = s.grants := (rfl)
@[simp] theorem State.putZctWait_rowErrs : (s.putZctWait v).rowErrs = s.rowErrs := (rfl)
@[simp] theorem State.putZctWait_pageErrs : (s.putZctWait v).pageErrs = s.pageErrs := (rfl)
@[simp] theorem State.putZctWait_pageHeld : (s.putZctWait v).pageHeld = s.pageHeld := (rfl)
@[simp] theorem State.putZctWait_pages : (s.putZctWait v).pages = s.pages := (rfl)
@[simp] theorem State.putZctWait_sparedRows : (s.putZctWait v).sparedRows = s.sparedRows := (rfl)
@[simp] theorem State.putZctWait_patrolAt : (s.putZctWait v).patrolAt = s.patrolAt := (rfl)
@[simp] theorem State.putZctWait_sramAt : (s.putZctWait v).sramAt = s.sramAt := (rfl)
@[simp] theorem State.putZctWait_selfRefresh : (s.putZctWait v).selfRefresh = s.selfRefresh := (rfl)
@[simp] theorem State.putZctWait_refreshing : (s.putZctWait v).refreshing = s.refreshing := (rfl)
@[simp] theorem State.putZctWait_sessions : (s.putZctWait v).sessions = s.sessions := (rfl)
@[simp] theorem State.putZctWait_hpActive : (s.putZctWait v).hpActive = s.hpActive := (rfl)
@[simp] theorem State.putZctWait_hpApply : (s.putZctWait v).hpApply = s.hpApply := (rfl)
@[simp] theorem State.putZctWait_hostLink : (s.putZctWait v).hostLink = s.hostLink := (rfl)
@[simp] theorem State.putZctWait_zctWait : (s.putZctWait v).zctWait = v := (rfl)
@[simp] theorem State.putZctWait_flash : (s.putZctWait v).flash = s.flash := (rfl)
@[simp] theorem State.putZctWait_bootSlots : (s.putZctWait v).bootSlots = s.bootSlots := (rfl)
@[simp] theorem State.putZctWait_cert : (s.putZctWait v).cert = s.cert := (rfl)
@[simp] theorem State.putZctWait_jorou : (s.putZctWait v).jorou = s.jorou := (rfl)
@[simp] theorem State.putZctWait_wear : (s.putZctWait v).wear = s.wear := (rfl)
@[simp] theorem State.putZctWait_ledger : (s.putZctWait v).ledger = s.ledger := (rfl)
@[simp] theorem State.putZctWait_resetOp : (s.putZctWait v).reset? = s.reset? := (rfl)
@[simp] theorem State.putZctWait_resetQ : (s.putZctWait v).resetQ = s.resetQ := (rfl)
@[simp] theorem State.putZctWait_resetsDone : (s.putZctWait v).resetsDone = s.resetsDone := (rfl)
@[simp] theorem State.putZctWait_captures : (s.putZctWait v).captures = s.captures := (rfl)
@[simp] theorem State.putZctWait_capture : (s.putZctWait v).capture = s.capture := (rfl)
@[simp] theorem State.putZctWait_capQ : (s.putZctWait v).capQ = s.capQ := (rfl)
@[simp] theorem State.putZctWait_scan : (s.putZctWait v).scan = s.scan := (rfl)
@[simp] theorem State.putZctWait_hangs : (s.putZctWait v).hangs = s.hangs := (rfl)
@[simp] theorem State.putZctWait_stalls : (s.putZctWait v).stalls = s.stalls := (rfl)
@[simp] theorem State.putZctWait_power : (s.putZctWait v).power = s.power := (rfl)
@[simp] theorem State.putZctWait_wb : (s.putZctWait v).wb = s.wb := (rfl)
end

section
variable (s : State) (v : HpFlash)
@[simp] theorem State.putFlash_pending : (s.putFlash v).pending = s.pending := (rfl)
@[simp] theorem State.putFlash_cycle : (s.putFlash v).cycle = s.cycle := (rfl)
@[simp] theorem State.putFlash_grade : (s.putFlash v).grade = s.grade := (rfl)
@[simp] theorem State.putFlash_freeCtr : (s.putFlash v).freeCtr = s.freeCtr := (rfl)
@[simp] theorem State.putFlash_out : (s.putFlash v).out = s.out := (rfl)
@[simp] theorem State.putFlash_mem : (s.putFlash v).mem = s.mem := (rfl)
@[simp] theorem State.putFlash_poison : (s.putFlash v).poison = s.poison := (rfl)
@[simp] theorem State.putFlash_regs : (s.putFlash v).regs = s.regs := (rfl)
@[simp] theorem State.putFlash_ports : (s.putFlash v).ports = s.ports := (rfl)
@[simp] theorem State.putFlash_laneMap : (s.putFlash v).laneMap = s.laneMap := (rfl)
@[simp] theorem State.putFlash_mapFixed : (s.putFlash v).mapFixed = s.mapFixed := (rfl)
@[simp] theorem State.putFlash_slots : (s.putFlash v).slots = s.slots := (rfl)
@[simp] theorem State.putFlash_queues : (s.putFlash v).queues = s.queues := (rfl)
@[simp] theorem State.putFlash_xin : (s.putFlash v).xin = s.xin := (rfl)
@[simp] theorem State.putFlash_xinLast : (s.putFlash v).xinLast = s.xinLast := (rfl)
@[simp] theorem State.putFlash_heldCells : (s.putFlash v).heldCells = s.heldCells := (rfl)
@[simp] theorem State.putFlash_retiredSlots : (s.putFlash v).retiredSlots = s.retiredSlots := (rfl)
@[simp] theorem State.putFlash_floor : (s.putFlash v).floor = s.floor := (rfl)
@[simp] theorem State.putFlash_mirrors : (s.putFlash v).mirrors = s.mirrors := (rfl)
@[simp] theorem State.putFlash_mirrorMade : (s.putFlash v).mirrorMade = s.mirrorMade := (rfl)
@[simp] theorem State.putFlash_sampleNext : (s.putFlash v).sampleNext = s.sampleNext := (rfl)
@[simp] theorem State.putFlash_sampleRead : (s.putFlash v).sampleRead = s.sampleRead := (rfl)
@[simp] theorem State.putFlash_smpStart : (s.putFlash v).smpStart = s.smpStart := (rfl)
@[simp] theorem State.putFlash_fails : (s.putFlash v).fails = s.fails := (rfl)
@[simp] theorem State.putFlash_echoes : (s.putFlash v).echoes = s.echoes := (rfl)
@[simp] theorem State.putFlash_echoGaps : (s.putFlash v).echoGaps = s.echoGaps := (rfl)
@[simp] theorem State.putFlash_noReturn : (s.putFlash v).noReturn = s.noReturn := (rfl)
@[simp] theorem State.putFlash_tiles : (s.putFlash v).tiles = s.tiles := (rfl)
@[simp] theorem State.putFlash_tileMap : (s.putFlash v).tileMap = s.tileMap := (rfl)
@[simp] theorem State.putFlash_failedTiles : (s.putFlash v).failedTiles = s.failedTiles := (rfl)
@[simp] theorem State.putFlash_candidates : (s.putFlash v).candidates = s.candidates := (rfl)
@[simp] theorem State.putFlash_inboxes : (s.putFlash v).inboxes = s.inboxes := (rfl)
@[simp] theorem State.putFlash_ctxs : (s.putFlash v).ctxs = s.ctxs := (rfl)
@[simp] theorem State.putFlash_ringPass : (s.putFlash v).ringPass = s.ringPass := (rfl)
@[simp] theorem State.putFlash_plans : (s.putFlash v).plans = s.plans := (rfl)
@[simp] theorem State.putFlash_planFp : (s.putFlash v).planFp = s.planFp := (rfl)
@[simp] theorem State.putFlash_groups : (s.putFlash v).groups = s.groups := (rfl)
@[simp] theorem State.putFlash_wmInbox : (s.putFlash v).wmInbox = s.wmInbox := (rfl)
@[simp] theorem State.putFlash_sets : (s.putFlash v).sets = s.sets := (rfl)
@[simp] theorem State.putFlash_ehts : (s.putFlash v).ehts = s.ehts := (rfl)
@[simp] theorem State.putFlash_expOpen : (s.putFlash v).expOpen = s.expOpen := (rfl)
@[simp] theorem State.putFlash_expIn : (s.putFlash v).expIn = s.expIn := (rfl)
@[simp] theorem State.putFlash_expWait : (s.putFlash v).expWait = s.expWait := (rfl)
@[simp] theorem State.putFlash_atomics : (s.putFlash v).atomics = s.atomics := (rfl)
@[simp] theorem State.putFlash_owners : (s.putFlash v).owners = s.owners := (rfl)
@[simp] theorem State.putFlash_bufs : (s.putFlash v).bufs = s.bufs := (rfl)
@[simp] theorem State.putFlash_pools : (s.putFlash v).pools = s.pools := (rfl)
@[simp] theorem State.putFlash_waiters : (s.putFlash v).waiters = s.waiters := (rfl)
@[simp] theorem State.putFlash_grants : (s.putFlash v).grants = s.grants := (rfl)
@[simp] theorem State.putFlash_rowErrs : (s.putFlash v).rowErrs = s.rowErrs := (rfl)
@[simp] theorem State.putFlash_pageErrs : (s.putFlash v).pageErrs = s.pageErrs := (rfl)
@[simp] theorem State.putFlash_pageHeld : (s.putFlash v).pageHeld = s.pageHeld := (rfl)
@[simp] theorem State.putFlash_pages : (s.putFlash v).pages = s.pages := (rfl)
@[simp] theorem State.putFlash_sparedRows : (s.putFlash v).sparedRows = s.sparedRows := (rfl)
@[simp] theorem State.putFlash_patrolAt : (s.putFlash v).patrolAt = s.patrolAt := (rfl)
@[simp] theorem State.putFlash_sramAt : (s.putFlash v).sramAt = s.sramAt := (rfl)
@[simp] theorem State.putFlash_selfRefresh : (s.putFlash v).selfRefresh = s.selfRefresh := (rfl)
@[simp] theorem State.putFlash_refreshing : (s.putFlash v).refreshing = s.refreshing := (rfl)
@[simp] theorem State.putFlash_sessions : (s.putFlash v).sessions = s.sessions := (rfl)
@[simp] theorem State.putFlash_hpActive : (s.putFlash v).hpActive = s.hpActive := (rfl)
@[simp] theorem State.putFlash_hpApply : (s.putFlash v).hpApply = s.hpApply := (rfl)
@[simp] theorem State.putFlash_hostLink : (s.putFlash v).hostLink = s.hostLink := (rfl)
@[simp] theorem State.putFlash_zctWait : (s.putFlash v).zctWait = s.zctWait := (rfl)
@[simp] theorem State.putFlash_flash : (s.putFlash v).flash = v := (rfl)
@[simp] theorem State.putFlash_bootSlots : (s.putFlash v).bootSlots = s.bootSlots := (rfl)
@[simp] theorem State.putFlash_cert : (s.putFlash v).cert = s.cert := (rfl)
@[simp] theorem State.putFlash_jorou : (s.putFlash v).jorou = s.jorou := (rfl)
@[simp] theorem State.putFlash_wear : (s.putFlash v).wear = s.wear := (rfl)
@[simp] theorem State.putFlash_ledger : (s.putFlash v).ledger = s.ledger := (rfl)
@[simp] theorem State.putFlash_resetOp : (s.putFlash v).reset? = s.reset? := (rfl)
@[simp] theorem State.putFlash_resetQ : (s.putFlash v).resetQ = s.resetQ := (rfl)
@[simp] theorem State.putFlash_resetsDone : (s.putFlash v).resetsDone = s.resetsDone := (rfl)
@[simp] theorem State.putFlash_captures : (s.putFlash v).captures = s.captures := (rfl)
@[simp] theorem State.putFlash_capture : (s.putFlash v).capture = s.capture := (rfl)
@[simp] theorem State.putFlash_capQ : (s.putFlash v).capQ = s.capQ := (rfl)
@[simp] theorem State.putFlash_scan : (s.putFlash v).scan = s.scan := (rfl)
@[simp] theorem State.putFlash_hangs : (s.putFlash v).hangs = s.hangs := (rfl)
@[simp] theorem State.putFlash_stalls : (s.putFlash v).stalls = s.stalls := (rfl)
@[simp] theorem State.putFlash_power : (s.putFlash v).power = s.power := (rfl)
@[simp] theorem State.putFlash_wb : (s.putFlash v).wb = s.wb := (rfl)
end

section
variable (s : State) (v : List (Nat × FlashSlot))
@[simp] theorem State.putBootSlots_pending : (s.putBootSlots v).pending = s.pending := (rfl)
@[simp] theorem State.putBootSlots_cycle : (s.putBootSlots v).cycle = s.cycle := (rfl)
@[simp] theorem State.putBootSlots_grade : (s.putBootSlots v).grade = s.grade := (rfl)
@[simp] theorem State.putBootSlots_freeCtr : (s.putBootSlots v).freeCtr = s.freeCtr := (rfl)
@[simp] theorem State.putBootSlots_out : (s.putBootSlots v).out = s.out := (rfl)
@[simp] theorem State.putBootSlots_mem : (s.putBootSlots v).mem = s.mem := (rfl)
@[simp] theorem State.putBootSlots_poison : (s.putBootSlots v).poison = s.poison := (rfl)
@[simp] theorem State.putBootSlots_regs : (s.putBootSlots v).regs = s.regs := (rfl)
@[simp] theorem State.putBootSlots_ports : (s.putBootSlots v).ports = s.ports := (rfl)
@[simp] theorem State.putBootSlots_laneMap : (s.putBootSlots v).laneMap = s.laneMap := (rfl)
@[simp] theorem State.putBootSlots_mapFixed : (s.putBootSlots v).mapFixed = s.mapFixed := (rfl)
@[simp] theorem State.putBootSlots_slots : (s.putBootSlots v).slots = s.slots := (rfl)
@[simp] theorem State.putBootSlots_queues : (s.putBootSlots v).queues = s.queues := (rfl)
@[simp] theorem State.putBootSlots_xin : (s.putBootSlots v).xin = s.xin := (rfl)
@[simp] theorem State.putBootSlots_xinLast : (s.putBootSlots v).xinLast = s.xinLast := (rfl)
@[simp] theorem State.putBootSlots_heldCells : (s.putBootSlots v).heldCells = s.heldCells := (rfl)
@[simp] theorem State.putBootSlots_retiredSlots : (s.putBootSlots v).retiredSlots = s.retiredSlots := (rfl)
@[simp] theorem State.putBootSlots_floor : (s.putBootSlots v).floor = s.floor := (rfl)
@[simp] theorem State.putBootSlots_mirrors : (s.putBootSlots v).mirrors = s.mirrors := (rfl)
@[simp] theorem State.putBootSlots_mirrorMade : (s.putBootSlots v).mirrorMade = s.mirrorMade := (rfl)
@[simp] theorem State.putBootSlots_sampleNext : (s.putBootSlots v).sampleNext = s.sampleNext := (rfl)
@[simp] theorem State.putBootSlots_sampleRead : (s.putBootSlots v).sampleRead = s.sampleRead := (rfl)
@[simp] theorem State.putBootSlots_smpStart : (s.putBootSlots v).smpStart = s.smpStart := (rfl)
@[simp] theorem State.putBootSlots_fails : (s.putBootSlots v).fails = s.fails := (rfl)
@[simp] theorem State.putBootSlots_echoes : (s.putBootSlots v).echoes = s.echoes := (rfl)
@[simp] theorem State.putBootSlots_echoGaps : (s.putBootSlots v).echoGaps = s.echoGaps := (rfl)
@[simp] theorem State.putBootSlots_noReturn : (s.putBootSlots v).noReturn = s.noReturn := (rfl)
@[simp] theorem State.putBootSlots_tiles : (s.putBootSlots v).tiles = s.tiles := (rfl)
@[simp] theorem State.putBootSlots_tileMap : (s.putBootSlots v).tileMap = s.tileMap := (rfl)
@[simp] theorem State.putBootSlots_failedTiles : (s.putBootSlots v).failedTiles = s.failedTiles := (rfl)
@[simp] theorem State.putBootSlots_candidates : (s.putBootSlots v).candidates = s.candidates := (rfl)
@[simp] theorem State.putBootSlots_inboxes : (s.putBootSlots v).inboxes = s.inboxes := (rfl)
@[simp] theorem State.putBootSlots_ctxs : (s.putBootSlots v).ctxs = s.ctxs := (rfl)
@[simp] theorem State.putBootSlots_ringPass : (s.putBootSlots v).ringPass = s.ringPass := (rfl)
@[simp] theorem State.putBootSlots_plans : (s.putBootSlots v).plans = s.plans := (rfl)
@[simp] theorem State.putBootSlots_planFp : (s.putBootSlots v).planFp = s.planFp := (rfl)
@[simp] theorem State.putBootSlots_groups : (s.putBootSlots v).groups = s.groups := (rfl)
@[simp] theorem State.putBootSlots_wmInbox : (s.putBootSlots v).wmInbox = s.wmInbox := (rfl)
@[simp] theorem State.putBootSlots_sets : (s.putBootSlots v).sets = s.sets := (rfl)
@[simp] theorem State.putBootSlots_ehts : (s.putBootSlots v).ehts = s.ehts := (rfl)
@[simp] theorem State.putBootSlots_expOpen : (s.putBootSlots v).expOpen = s.expOpen := (rfl)
@[simp] theorem State.putBootSlots_expIn : (s.putBootSlots v).expIn = s.expIn := (rfl)
@[simp] theorem State.putBootSlots_expWait : (s.putBootSlots v).expWait = s.expWait := (rfl)
@[simp] theorem State.putBootSlots_atomics : (s.putBootSlots v).atomics = s.atomics := (rfl)
@[simp] theorem State.putBootSlots_owners : (s.putBootSlots v).owners = s.owners := (rfl)
@[simp] theorem State.putBootSlots_bufs : (s.putBootSlots v).bufs = s.bufs := (rfl)
@[simp] theorem State.putBootSlots_pools : (s.putBootSlots v).pools = s.pools := (rfl)
@[simp] theorem State.putBootSlots_waiters : (s.putBootSlots v).waiters = s.waiters := (rfl)
@[simp] theorem State.putBootSlots_grants : (s.putBootSlots v).grants = s.grants := (rfl)
@[simp] theorem State.putBootSlots_rowErrs : (s.putBootSlots v).rowErrs = s.rowErrs := (rfl)
@[simp] theorem State.putBootSlots_pageErrs : (s.putBootSlots v).pageErrs = s.pageErrs := (rfl)
@[simp] theorem State.putBootSlots_pageHeld : (s.putBootSlots v).pageHeld = s.pageHeld := (rfl)
@[simp] theorem State.putBootSlots_pages : (s.putBootSlots v).pages = s.pages := (rfl)
@[simp] theorem State.putBootSlots_sparedRows : (s.putBootSlots v).sparedRows = s.sparedRows := (rfl)
@[simp] theorem State.putBootSlots_patrolAt : (s.putBootSlots v).patrolAt = s.patrolAt := (rfl)
@[simp] theorem State.putBootSlots_sramAt : (s.putBootSlots v).sramAt = s.sramAt := (rfl)
@[simp] theorem State.putBootSlots_selfRefresh : (s.putBootSlots v).selfRefresh = s.selfRefresh := (rfl)
@[simp] theorem State.putBootSlots_refreshing : (s.putBootSlots v).refreshing = s.refreshing := (rfl)
@[simp] theorem State.putBootSlots_sessions : (s.putBootSlots v).sessions = s.sessions := (rfl)
@[simp] theorem State.putBootSlots_hpActive : (s.putBootSlots v).hpActive = s.hpActive := (rfl)
@[simp] theorem State.putBootSlots_hpApply : (s.putBootSlots v).hpApply = s.hpApply := (rfl)
@[simp] theorem State.putBootSlots_hostLink : (s.putBootSlots v).hostLink = s.hostLink := (rfl)
@[simp] theorem State.putBootSlots_zctWait : (s.putBootSlots v).zctWait = s.zctWait := (rfl)
@[simp] theorem State.putBootSlots_flash : (s.putBootSlots v).flash = s.flash := (rfl)
@[simp] theorem State.putBootSlots_bootSlots : (s.putBootSlots v).bootSlots = v := (rfl)
@[simp] theorem State.putBootSlots_cert : (s.putBootSlots v).cert = s.cert := (rfl)
@[simp] theorem State.putBootSlots_jorou : (s.putBootSlots v).jorou = s.jorou := (rfl)
@[simp] theorem State.putBootSlots_wear : (s.putBootSlots v).wear = s.wear := (rfl)
@[simp] theorem State.putBootSlots_ledger : (s.putBootSlots v).ledger = s.ledger := (rfl)
@[simp] theorem State.putBootSlots_resetOp : (s.putBootSlots v).reset? = s.reset? := (rfl)
@[simp] theorem State.putBootSlots_resetQ : (s.putBootSlots v).resetQ = s.resetQ := (rfl)
@[simp] theorem State.putBootSlots_resetsDone : (s.putBootSlots v).resetsDone = s.resetsDone := (rfl)
@[simp] theorem State.putBootSlots_captures : (s.putBootSlots v).captures = s.captures := (rfl)
@[simp] theorem State.putBootSlots_capture : (s.putBootSlots v).capture = s.capture := (rfl)
@[simp] theorem State.putBootSlots_capQ : (s.putBootSlots v).capQ = s.capQ := (rfl)
@[simp] theorem State.putBootSlots_scan : (s.putBootSlots v).scan = s.scan := (rfl)
@[simp] theorem State.putBootSlots_hangs : (s.putBootSlots v).hangs = s.hangs := (rfl)
@[simp] theorem State.putBootSlots_stalls : (s.putBootSlots v).stalls = s.stalls := (rfl)
@[simp] theorem State.putBootSlots_power : (s.putBootSlots v).power = s.power := (rfl)
@[simp] theorem State.putBootSlots_wb : (s.putBootSlots v).wb = s.wb := (rfl)
end

section
variable (s : State) (v : Jorou)
@[simp] theorem State.putJorou_pending : (s.putJorou v).pending = s.pending := (rfl)
@[simp] theorem State.putJorou_cycle : (s.putJorou v).cycle = s.cycle := (rfl)
@[simp] theorem State.putJorou_grade : (s.putJorou v).grade = s.grade := (rfl)
@[simp] theorem State.putJorou_freeCtr : (s.putJorou v).freeCtr = s.freeCtr := (rfl)
@[simp] theorem State.putJorou_out : (s.putJorou v).out = s.out := (rfl)
@[simp] theorem State.putJorou_mem : (s.putJorou v).mem = s.mem := (rfl)
@[simp] theorem State.putJorou_poison : (s.putJorou v).poison = s.poison := (rfl)
@[simp] theorem State.putJorou_regs : (s.putJorou v).regs = s.regs := (rfl)
@[simp] theorem State.putJorou_ports : (s.putJorou v).ports = s.ports := (rfl)
@[simp] theorem State.putJorou_laneMap : (s.putJorou v).laneMap = s.laneMap := (rfl)
@[simp] theorem State.putJorou_mapFixed : (s.putJorou v).mapFixed = s.mapFixed := (rfl)
@[simp] theorem State.putJorou_slots : (s.putJorou v).slots = s.slots := (rfl)
@[simp] theorem State.putJorou_queues : (s.putJorou v).queues = s.queues := (rfl)
@[simp] theorem State.putJorou_xin : (s.putJorou v).xin = s.xin := (rfl)
@[simp] theorem State.putJorou_xinLast : (s.putJorou v).xinLast = s.xinLast := (rfl)
@[simp] theorem State.putJorou_heldCells : (s.putJorou v).heldCells = s.heldCells := (rfl)
@[simp] theorem State.putJorou_retiredSlots : (s.putJorou v).retiredSlots = s.retiredSlots := (rfl)
@[simp] theorem State.putJorou_floor : (s.putJorou v).floor = s.floor := (rfl)
@[simp] theorem State.putJorou_mirrors : (s.putJorou v).mirrors = s.mirrors := (rfl)
@[simp] theorem State.putJorou_mirrorMade : (s.putJorou v).mirrorMade = s.mirrorMade := (rfl)
@[simp] theorem State.putJorou_sampleNext : (s.putJorou v).sampleNext = s.sampleNext := (rfl)
@[simp] theorem State.putJorou_sampleRead : (s.putJorou v).sampleRead = s.sampleRead := (rfl)
@[simp] theorem State.putJorou_smpStart : (s.putJorou v).smpStart = s.smpStart := (rfl)
@[simp] theorem State.putJorou_fails : (s.putJorou v).fails = s.fails := (rfl)
@[simp] theorem State.putJorou_echoes : (s.putJorou v).echoes = s.echoes := (rfl)
@[simp] theorem State.putJorou_echoGaps : (s.putJorou v).echoGaps = s.echoGaps := (rfl)
@[simp] theorem State.putJorou_noReturn : (s.putJorou v).noReturn = s.noReturn := (rfl)
@[simp] theorem State.putJorou_tiles : (s.putJorou v).tiles = s.tiles := (rfl)
@[simp] theorem State.putJorou_tileMap : (s.putJorou v).tileMap = s.tileMap := (rfl)
@[simp] theorem State.putJorou_failedTiles : (s.putJorou v).failedTiles = s.failedTiles := (rfl)
@[simp] theorem State.putJorou_candidates : (s.putJorou v).candidates = s.candidates := (rfl)
@[simp] theorem State.putJorou_inboxes : (s.putJorou v).inboxes = s.inboxes := (rfl)
@[simp] theorem State.putJorou_ctxs : (s.putJorou v).ctxs = s.ctxs := (rfl)
@[simp] theorem State.putJorou_ringPass : (s.putJorou v).ringPass = s.ringPass := (rfl)
@[simp] theorem State.putJorou_plans : (s.putJorou v).plans = s.plans := (rfl)
@[simp] theorem State.putJorou_planFp : (s.putJorou v).planFp = s.planFp := (rfl)
@[simp] theorem State.putJorou_groups : (s.putJorou v).groups = s.groups := (rfl)
@[simp] theorem State.putJorou_wmInbox : (s.putJorou v).wmInbox = s.wmInbox := (rfl)
@[simp] theorem State.putJorou_sets : (s.putJorou v).sets = s.sets := (rfl)
@[simp] theorem State.putJorou_ehts : (s.putJorou v).ehts = s.ehts := (rfl)
@[simp] theorem State.putJorou_expOpen : (s.putJorou v).expOpen = s.expOpen := (rfl)
@[simp] theorem State.putJorou_expIn : (s.putJorou v).expIn = s.expIn := (rfl)
@[simp] theorem State.putJorou_expWait : (s.putJorou v).expWait = s.expWait := (rfl)
@[simp] theorem State.putJorou_atomics : (s.putJorou v).atomics = s.atomics := (rfl)
@[simp] theorem State.putJorou_owners : (s.putJorou v).owners = s.owners := (rfl)
@[simp] theorem State.putJorou_bufs : (s.putJorou v).bufs = s.bufs := (rfl)
@[simp] theorem State.putJorou_pools : (s.putJorou v).pools = s.pools := (rfl)
@[simp] theorem State.putJorou_waiters : (s.putJorou v).waiters = s.waiters := (rfl)
@[simp] theorem State.putJorou_grants : (s.putJorou v).grants = s.grants := (rfl)
@[simp] theorem State.putJorou_rowErrs : (s.putJorou v).rowErrs = s.rowErrs := (rfl)
@[simp] theorem State.putJorou_pageErrs : (s.putJorou v).pageErrs = s.pageErrs := (rfl)
@[simp] theorem State.putJorou_pageHeld : (s.putJorou v).pageHeld = s.pageHeld := (rfl)
@[simp] theorem State.putJorou_pages : (s.putJorou v).pages = s.pages := (rfl)
@[simp] theorem State.putJorou_sparedRows : (s.putJorou v).sparedRows = s.sparedRows := (rfl)
@[simp] theorem State.putJorou_patrolAt : (s.putJorou v).patrolAt = s.patrolAt := (rfl)
@[simp] theorem State.putJorou_sramAt : (s.putJorou v).sramAt = s.sramAt := (rfl)
@[simp] theorem State.putJorou_selfRefresh : (s.putJorou v).selfRefresh = s.selfRefresh := (rfl)
@[simp] theorem State.putJorou_refreshing : (s.putJorou v).refreshing = s.refreshing := (rfl)
@[simp] theorem State.putJorou_sessions : (s.putJorou v).sessions = s.sessions := (rfl)
@[simp] theorem State.putJorou_hpActive : (s.putJorou v).hpActive = s.hpActive := (rfl)
@[simp] theorem State.putJorou_hpApply : (s.putJorou v).hpApply = s.hpApply := (rfl)
@[simp] theorem State.putJorou_hostLink : (s.putJorou v).hostLink = s.hostLink := (rfl)
@[simp] theorem State.putJorou_zctWait : (s.putJorou v).zctWait = s.zctWait := (rfl)
@[simp] theorem State.putJorou_flash : (s.putJorou v).flash = s.flash := (rfl)
@[simp] theorem State.putJorou_bootSlots : (s.putJorou v).bootSlots = s.bootSlots := (rfl)
@[simp] theorem State.putJorou_cert : (s.putJorou v).cert = s.cert := (rfl)
@[simp] theorem State.putJorou_jorou : (s.putJorou v).jorou = v := (rfl)
@[simp] theorem State.putJorou_wear : (s.putJorou v).wear = s.wear := (rfl)
@[simp] theorem State.putJorou_ledger : (s.putJorou v).ledger = s.ledger := (rfl)
@[simp] theorem State.putJorou_resetOp : (s.putJorou v).reset? = s.reset? := (rfl)
@[simp] theorem State.putJorou_resetQ : (s.putJorou v).resetQ = s.resetQ := (rfl)
@[simp] theorem State.putJorou_resetsDone : (s.putJorou v).resetsDone = s.resetsDone := (rfl)
@[simp] theorem State.putJorou_captures : (s.putJorou v).captures = s.captures := (rfl)
@[simp] theorem State.putJorou_capture : (s.putJorou v).capture = s.capture := (rfl)
@[simp] theorem State.putJorou_capQ : (s.putJorou v).capQ = s.capQ := (rfl)
@[simp] theorem State.putJorou_scan : (s.putJorou v).scan = s.scan := (rfl)
@[simp] theorem State.putJorou_hangs : (s.putJorou v).hangs = s.hangs := (rfl)
@[simp] theorem State.putJorou_stalls : (s.putJorou v).stalls = s.stalls := (rfl)
@[simp] theorem State.putJorou_power : (s.putJorou v).power = s.power := (rfl)
@[simp] theorem State.putJorou_wb : (s.putJorou v).wb = s.wb := (rfl)
end

section
variable (s : State) (v : List (Nat × List Nat))
@[simp] theorem State.putWear_pending : (s.putWear v).pending = s.pending := (rfl)
@[simp] theorem State.putWear_cycle : (s.putWear v).cycle = s.cycle := (rfl)
@[simp] theorem State.putWear_grade : (s.putWear v).grade = s.grade := (rfl)
@[simp] theorem State.putWear_freeCtr : (s.putWear v).freeCtr = s.freeCtr := (rfl)
@[simp] theorem State.putWear_out : (s.putWear v).out = s.out := (rfl)
@[simp] theorem State.putWear_mem : (s.putWear v).mem = s.mem := (rfl)
@[simp] theorem State.putWear_poison : (s.putWear v).poison = s.poison := (rfl)
@[simp] theorem State.putWear_regs : (s.putWear v).regs = s.regs := (rfl)
@[simp] theorem State.putWear_ports : (s.putWear v).ports = s.ports := (rfl)
@[simp] theorem State.putWear_laneMap : (s.putWear v).laneMap = s.laneMap := (rfl)
@[simp] theorem State.putWear_mapFixed : (s.putWear v).mapFixed = s.mapFixed := (rfl)
@[simp] theorem State.putWear_slots : (s.putWear v).slots = s.slots := (rfl)
@[simp] theorem State.putWear_queues : (s.putWear v).queues = s.queues := (rfl)
@[simp] theorem State.putWear_xin : (s.putWear v).xin = s.xin := (rfl)
@[simp] theorem State.putWear_xinLast : (s.putWear v).xinLast = s.xinLast := (rfl)
@[simp] theorem State.putWear_heldCells : (s.putWear v).heldCells = s.heldCells := (rfl)
@[simp] theorem State.putWear_retiredSlots : (s.putWear v).retiredSlots = s.retiredSlots := (rfl)
@[simp] theorem State.putWear_floor : (s.putWear v).floor = s.floor := (rfl)
@[simp] theorem State.putWear_mirrors : (s.putWear v).mirrors = s.mirrors := (rfl)
@[simp] theorem State.putWear_mirrorMade : (s.putWear v).mirrorMade = s.mirrorMade := (rfl)
@[simp] theorem State.putWear_sampleNext : (s.putWear v).sampleNext = s.sampleNext := (rfl)
@[simp] theorem State.putWear_sampleRead : (s.putWear v).sampleRead = s.sampleRead := (rfl)
@[simp] theorem State.putWear_smpStart : (s.putWear v).smpStart = s.smpStart := (rfl)
@[simp] theorem State.putWear_fails : (s.putWear v).fails = s.fails := (rfl)
@[simp] theorem State.putWear_echoes : (s.putWear v).echoes = s.echoes := (rfl)
@[simp] theorem State.putWear_echoGaps : (s.putWear v).echoGaps = s.echoGaps := (rfl)
@[simp] theorem State.putWear_noReturn : (s.putWear v).noReturn = s.noReturn := (rfl)
@[simp] theorem State.putWear_tiles : (s.putWear v).tiles = s.tiles := (rfl)
@[simp] theorem State.putWear_tileMap : (s.putWear v).tileMap = s.tileMap := (rfl)
@[simp] theorem State.putWear_failedTiles : (s.putWear v).failedTiles = s.failedTiles := (rfl)
@[simp] theorem State.putWear_candidates : (s.putWear v).candidates = s.candidates := (rfl)
@[simp] theorem State.putWear_inboxes : (s.putWear v).inboxes = s.inboxes := (rfl)
@[simp] theorem State.putWear_ctxs : (s.putWear v).ctxs = s.ctxs := (rfl)
@[simp] theorem State.putWear_ringPass : (s.putWear v).ringPass = s.ringPass := (rfl)
@[simp] theorem State.putWear_plans : (s.putWear v).plans = s.plans := (rfl)
@[simp] theorem State.putWear_planFp : (s.putWear v).planFp = s.planFp := (rfl)
@[simp] theorem State.putWear_groups : (s.putWear v).groups = s.groups := (rfl)
@[simp] theorem State.putWear_wmInbox : (s.putWear v).wmInbox = s.wmInbox := (rfl)
@[simp] theorem State.putWear_sets : (s.putWear v).sets = s.sets := (rfl)
@[simp] theorem State.putWear_ehts : (s.putWear v).ehts = s.ehts := (rfl)
@[simp] theorem State.putWear_expOpen : (s.putWear v).expOpen = s.expOpen := (rfl)
@[simp] theorem State.putWear_expIn : (s.putWear v).expIn = s.expIn := (rfl)
@[simp] theorem State.putWear_expWait : (s.putWear v).expWait = s.expWait := (rfl)
@[simp] theorem State.putWear_atomics : (s.putWear v).atomics = s.atomics := (rfl)
@[simp] theorem State.putWear_owners : (s.putWear v).owners = s.owners := (rfl)
@[simp] theorem State.putWear_bufs : (s.putWear v).bufs = s.bufs := (rfl)
@[simp] theorem State.putWear_pools : (s.putWear v).pools = s.pools := (rfl)
@[simp] theorem State.putWear_waiters : (s.putWear v).waiters = s.waiters := (rfl)
@[simp] theorem State.putWear_grants : (s.putWear v).grants = s.grants := (rfl)
@[simp] theorem State.putWear_rowErrs : (s.putWear v).rowErrs = s.rowErrs := (rfl)
@[simp] theorem State.putWear_pageErrs : (s.putWear v).pageErrs = s.pageErrs := (rfl)
@[simp] theorem State.putWear_pageHeld : (s.putWear v).pageHeld = s.pageHeld := (rfl)
@[simp] theorem State.putWear_pages : (s.putWear v).pages = s.pages := (rfl)
@[simp] theorem State.putWear_sparedRows : (s.putWear v).sparedRows = s.sparedRows := (rfl)
@[simp] theorem State.putWear_patrolAt : (s.putWear v).patrolAt = s.patrolAt := (rfl)
@[simp] theorem State.putWear_sramAt : (s.putWear v).sramAt = s.sramAt := (rfl)
@[simp] theorem State.putWear_selfRefresh : (s.putWear v).selfRefresh = s.selfRefresh := (rfl)
@[simp] theorem State.putWear_refreshing : (s.putWear v).refreshing = s.refreshing := (rfl)
@[simp] theorem State.putWear_sessions : (s.putWear v).sessions = s.sessions := (rfl)
@[simp] theorem State.putWear_hpActive : (s.putWear v).hpActive = s.hpActive := (rfl)
@[simp] theorem State.putWear_hpApply : (s.putWear v).hpApply = s.hpApply := (rfl)
@[simp] theorem State.putWear_hostLink : (s.putWear v).hostLink = s.hostLink := (rfl)
@[simp] theorem State.putWear_zctWait : (s.putWear v).zctWait = s.zctWait := (rfl)
@[simp] theorem State.putWear_flash : (s.putWear v).flash = s.flash := (rfl)
@[simp] theorem State.putWear_bootSlots : (s.putWear v).bootSlots = s.bootSlots := (rfl)
@[simp] theorem State.putWear_cert : (s.putWear v).cert = s.cert := (rfl)
@[simp] theorem State.putWear_jorou : (s.putWear v).jorou = s.jorou := (rfl)
@[simp] theorem State.putWear_wear : (s.putWear v).wear = v := (rfl)
@[simp] theorem State.putWear_ledger : (s.putWear v).ledger = s.ledger := (rfl)
@[simp] theorem State.putWear_resetOp : (s.putWear v).reset? = s.reset? := (rfl)
@[simp] theorem State.putWear_resetQ : (s.putWear v).resetQ = s.resetQ := (rfl)
@[simp] theorem State.putWear_resetsDone : (s.putWear v).resetsDone = s.resetsDone := (rfl)
@[simp] theorem State.putWear_captures : (s.putWear v).captures = s.captures := (rfl)
@[simp] theorem State.putWear_capture : (s.putWear v).capture = s.capture := (rfl)
@[simp] theorem State.putWear_capQ : (s.putWear v).capQ = s.capQ := (rfl)
@[simp] theorem State.putWear_scan : (s.putWear v).scan = s.scan := (rfl)
@[simp] theorem State.putWear_hangs : (s.putWear v).hangs = s.hangs := (rfl)
@[simp] theorem State.putWear_stalls : (s.putWear v).stalls = s.stalls := (rfl)
@[simp] theorem State.putWear_power : (s.putWear v).power = s.power := (rfl)
@[simp] theorem State.putWear_wb : (s.putWear v).wb = s.wb := (rfl)
end

section
variable (s : State) (v : List LedgerEntry)
@[simp] theorem State.putLedger_pending : (s.putLedger v).pending = s.pending := (rfl)
@[simp] theorem State.putLedger_cycle : (s.putLedger v).cycle = s.cycle := (rfl)
@[simp] theorem State.putLedger_grade : (s.putLedger v).grade = s.grade := (rfl)
@[simp] theorem State.putLedger_freeCtr : (s.putLedger v).freeCtr = s.freeCtr := (rfl)
@[simp] theorem State.putLedger_out : (s.putLedger v).out = s.out := (rfl)
@[simp] theorem State.putLedger_mem : (s.putLedger v).mem = s.mem := (rfl)
@[simp] theorem State.putLedger_poison : (s.putLedger v).poison = s.poison := (rfl)
@[simp] theorem State.putLedger_regs : (s.putLedger v).regs = s.regs := (rfl)
@[simp] theorem State.putLedger_ports : (s.putLedger v).ports = s.ports := (rfl)
@[simp] theorem State.putLedger_laneMap : (s.putLedger v).laneMap = s.laneMap := (rfl)
@[simp] theorem State.putLedger_mapFixed : (s.putLedger v).mapFixed = s.mapFixed := (rfl)
@[simp] theorem State.putLedger_slots : (s.putLedger v).slots = s.slots := (rfl)
@[simp] theorem State.putLedger_queues : (s.putLedger v).queues = s.queues := (rfl)
@[simp] theorem State.putLedger_xin : (s.putLedger v).xin = s.xin := (rfl)
@[simp] theorem State.putLedger_xinLast : (s.putLedger v).xinLast = s.xinLast := (rfl)
@[simp] theorem State.putLedger_heldCells : (s.putLedger v).heldCells = s.heldCells := (rfl)
@[simp] theorem State.putLedger_retiredSlots : (s.putLedger v).retiredSlots = s.retiredSlots := (rfl)
@[simp] theorem State.putLedger_floor : (s.putLedger v).floor = s.floor := (rfl)
@[simp] theorem State.putLedger_mirrors : (s.putLedger v).mirrors = s.mirrors := (rfl)
@[simp] theorem State.putLedger_mirrorMade : (s.putLedger v).mirrorMade = s.mirrorMade := (rfl)
@[simp] theorem State.putLedger_sampleNext : (s.putLedger v).sampleNext = s.sampleNext := (rfl)
@[simp] theorem State.putLedger_sampleRead : (s.putLedger v).sampleRead = s.sampleRead := (rfl)
@[simp] theorem State.putLedger_smpStart : (s.putLedger v).smpStart = s.smpStart := (rfl)
@[simp] theorem State.putLedger_fails : (s.putLedger v).fails = s.fails := (rfl)
@[simp] theorem State.putLedger_echoes : (s.putLedger v).echoes = s.echoes := (rfl)
@[simp] theorem State.putLedger_echoGaps : (s.putLedger v).echoGaps = s.echoGaps := (rfl)
@[simp] theorem State.putLedger_noReturn : (s.putLedger v).noReturn = s.noReturn := (rfl)
@[simp] theorem State.putLedger_tiles : (s.putLedger v).tiles = s.tiles := (rfl)
@[simp] theorem State.putLedger_tileMap : (s.putLedger v).tileMap = s.tileMap := (rfl)
@[simp] theorem State.putLedger_failedTiles : (s.putLedger v).failedTiles = s.failedTiles := (rfl)
@[simp] theorem State.putLedger_candidates : (s.putLedger v).candidates = s.candidates := (rfl)
@[simp] theorem State.putLedger_inboxes : (s.putLedger v).inboxes = s.inboxes := (rfl)
@[simp] theorem State.putLedger_ctxs : (s.putLedger v).ctxs = s.ctxs := (rfl)
@[simp] theorem State.putLedger_ringPass : (s.putLedger v).ringPass = s.ringPass := (rfl)
@[simp] theorem State.putLedger_plans : (s.putLedger v).plans = s.plans := (rfl)
@[simp] theorem State.putLedger_planFp : (s.putLedger v).planFp = s.planFp := (rfl)
@[simp] theorem State.putLedger_groups : (s.putLedger v).groups = s.groups := (rfl)
@[simp] theorem State.putLedger_wmInbox : (s.putLedger v).wmInbox = s.wmInbox := (rfl)
@[simp] theorem State.putLedger_sets : (s.putLedger v).sets = s.sets := (rfl)
@[simp] theorem State.putLedger_ehts : (s.putLedger v).ehts = s.ehts := (rfl)
@[simp] theorem State.putLedger_expOpen : (s.putLedger v).expOpen = s.expOpen := (rfl)
@[simp] theorem State.putLedger_expIn : (s.putLedger v).expIn = s.expIn := (rfl)
@[simp] theorem State.putLedger_expWait : (s.putLedger v).expWait = s.expWait := (rfl)
@[simp] theorem State.putLedger_atomics : (s.putLedger v).atomics = s.atomics := (rfl)
@[simp] theorem State.putLedger_owners : (s.putLedger v).owners = s.owners := (rfl)
@[simp] theorem State.putLedger_bufs : (s.putLedger v).bufs = s.bufs := (rfl)
@[simp] theorem State.putLedger_pools : (s.putLedger v).pools = s.pools := (rfl)
@[simp] theorem State.putLedger_waiters : (s.putLedger v).waiters = s.waiters := (rfl)
@[simp] theorem State.putLedger_grants : (s.putLedger v).grants = s.grants := (rfl)
@[simp] theorem State.putLedger_rowErrs : (s.putLedger v).rowErrs = s.rowErrs := (rfl)
@[simp] theorem State.putLedger_pageErrs : (s.putLedger v).pageErrs = s.pageErrs := (rfl)
@[simp] theorem State.putLedger_pageHeld : (s.putLedger v).pageHeld = s.pageHeld := (rfl)
@[simp] theorem State.putLedger_pages : (s.putLedger v).pages = s.pages := (rfl)
@[simp] theorem State.putLedger_sparedRows : (s.putLedger v).sparedRows = s.sparedRows := (rfl)
@[simp] theorem State.putLedger_patrolAt : (s.putLedger v).patrolAt = s.patrolAt := (rfl)
@[simp] theorem State.putLedger_sramAt : (s.putLedger v).sramAt = s.sramAt := (rfl)
@[simp] theorem State.putLedger_selfRefresh : (s.putLedger v).selfRefresh = s.selfRefresh := (rfl)
@[simp] theorem State.putLedger_refreshing : (s.putLedger v).refreshing = s.refreshing := (rfl)
@[simp] theorem State.putLedger_sessions : (s.putLedger v).sessions = s.sessions := (rfl)
@[simp] theorem State.putLedger_hpActive : (s.putLedger v).hpActive = s.hpActive := (rfl)
@[simp] theorem State.putLedger_hpApply : (s.putLedger v).hpApply = s.hpApply := (rfl)
@[simp] theorem State.putLedger_hostLink : (s.putLedger v).hostLink = s.hostLink := (rfl)
@[simp] theorem State.putLedger_zctWait : (s.putLedger v).zctWait = s.zctWait := (rfl)
@[simp] theorem State.putLedger_flash : (s.putLedger v).flash = s.flash := (rfl)
@[simp] theorem State.putLedger_bootSlots : (s.putLedger v).bootSlots = s.bootSlots := (rfl)
@[simp] theorem State.putLedger_cert : (s.putLedger v).cert = s.cert := (rfl)
@[simp] theorem State.putLedger_jorou : (s.putLedger v).jorou = s.jorou := (rfl)
@[simp] theorem State.putLedger_wear : (s.putLedger v).wear = s.wear := (rfl)
@[simp] theorem State.putLedger_ledger : (s.putLedger v).ledger = v := (rfl)
@[simp] theorem State.putLedger_resetOp : (s.putLedger v).reset? = s.reset? := (rfl)
@[simp] theorem State.putLedger_resetQ : (s.putLedger v).resetQ = s.resetQ := (rfl)
@[simp] theorem State.putLedger_resetsDone : (s.putLedger v).resetsDone = s.resetsDone := (rfl)
@[simp] theorem State.putLedger_captures : (s.putLedger v).captures = s.captures := (rfl)
@[simp] theorem State.putLedger_capture : (s.putLedger v).capture = s.capture := (rfl)
@[simp] theorem State.putLedger_capQ : (s.putLedger v).capQ = s.capQ := (rfl)
@[simp] theorem State.putLedger_scan : (s.putLedger v).scan = s.scan := (rfl)
@[simp] theorem State.putLedger_hangs : (s.putLedger v).hangs = s.hangs := (rfl)
@[simp] theorem State.putLedger_stalls : (s.putLedger v).stalls = s.stalls := (rfl)
@[simp] theorem State.putLedger_power : (s.putLedger v).power = s.power := (rfl)
@[simp] theorem State.putLedger_wb : (s.putLedger v).wb = s.wb := (rfl)
end

section
variable (s : State) (v : Option ResetOp)
@[simp] theorem State.putReset_pending : (s.putReset v).pending = s.pending := (rfl)
@[simp] theorem State.putReset_cycle : (s.putReset v).cycle = s.cycle := (rfl)
@[simp] theorem State.putReset_grade : (s.putReset v).grade = s.grade := (rfl)
@[simp] theorem State.putReset_freeCtr : (s.putReset v).freeCtr = s.freeCtr := (rfl)
@[simp] theorem State.putReset_out : (s.putReset v).out = s.out := (rfl)
@[simp] theorem State.putReset_mem : (s.putReset v).mem = s.mem := (rfl)
@[simp] theorem State.putReset_poison : (s.putReset v).poison = s.poison := (rfl)
@[simp] theorem State.putReset_regs : (s.putReset v).regs = s.regs := (rfl)
@[simp] theorem State.putReset_ports : (s.putReset v).ports = s.ports := (rfl)
@[simp] theorem State.putReset_laneMap : (s.putReset v).laneMap = s.laneMap := (rfl)
@[simp] theorem State.putReset_mapFixed : (s.putReset v).mapFixed = s.mapFixed := (rfl)
@[simp] theorem State.putReset_slots : (s.putReset v).slots = s.slots := (rfl)
@[simp] theorem State.putReset_queues : (s.putReset v).queues = s.queues := (rfl)
@[simp] theorem State.putReset_xin : (s.putReset v).xin = s.xin := (rfl)
@[simp] theorem State.putReset_xinLast : (s.putReset v).xinLast = s.xinLast := (rfl)
@[simp] theorem State.putReset_heldCells : (s.putReset v).heldCells = s.heldCells := (rfl)
@[simp] theorem State.putReset_retiredSlots : (s.putReset v).retiredSlots = s.retiredSlots := (rfl)
@[simp] theorem State.putReset_floor : (s.putReset v).floor = s.floor := (rfl)
@[simp] theorem State.putReset_mirrors : (s.putReset v).mirrors = s.mirrors := (rfl)
@[simp] theorem State.putReset_mirrorMade : (s.putReset v).mirrorMade = s.mirrorMade := (rfl)
@[simp] theorem State.putReset_sampleNext : (s.putReset v).sampleNext = s.sampleNext := (rfl)
@[simp] theorem State.putReset_sampleRead : (s.putReset v).sampleRead = s.sampleRead := (rfl)
@[simp] theorem State.putReset_smpStart : (s.putReset v).smpStart = s.smpStart := (rfl)
@[simp] theorem State.putReset_fails : (s.putReset v).fails = s.fails := (rfl)
@[simp] theorem State.putReset_echoes : (s.putReset v).echoes = s.echoes := (rfl)
@[simp] theorem State.putReset_echoGaps : (s.putReset v).echoGaps = s.echoGaps := (rfl)
@[simp] theorem State.putReset_noReturn : (s.putReset v).noReturn = s.noReturn := (rfl)
@[simp] theorem State.putReset_tiles : (s.putReset v).tiles = s.tiles := (rfl)
@[simp] theorem State.putReset_tileMap : (s.putReset v).tileMap = s.tileMap := (rfl)
@[simp] theorem State.putReset_failedTiles : (s.putReset v).failedTiles = s.failedTiles := (rfl)
@[simp] theorem State.putReset_candidates : (s.putReset v).candidates = s.candidates := (rfl)
@[simp] theorem State.putReset_inboxes : (s.putReset v).inboxes = s.inboxes := (rfl)
@[simp] theorem State.putReset_ctxs : (s.putReset v).ctxs = s.ctxs := (rfl)
@[simp] theorem State.putReset_ringPass : (s.putReset v).ringPass = s.ringPass := (rfl)
@[simp] theorem State.putReset_plans : (s.putReset v).plans = s.plans := (rfl)
@[simp] theorem State.putReset_planFp : (s.putReset v).planFp = s.planFp := (rfl)
@[simp] theorem State.putReset_groups : (s.putReset v).groups = s.groups := (rfl)
@[simp] theorem State.putReset_wmInbox : (s.putReset v).wmInbox = s.wmInbox := (rfl)
@[simp] theorem State.putReset_sets : (s.putReset v).sets = s.sets := (rfl)
@[simp] theorem State.putReset_ehts : (s.putReset v).ehts = s.ehts := (rfl)
@[simp] theorem State.putReset_expOpen : (s.putReset v).expOpen = s.expOpen := (rfl)
@[simp] theorem State.putReset_expIn : (s.putReset v).expIn = s.expIn := (rfl)
@[simp] theorem State.putReset_expWait : (s.putReset v).expWait = s.expWait := (rfl)
@[simp] theorem State.putReset_atomics : (s.putReset v).atomics = s.atomics := (rfl)
@[simp] theorem State.putReset_owners : (s.putReset v).owners = s.owners := (rfl)
@[simp] theorem State.putReset_bufs : (s.putReset v).bufs = s.bufs := (rfl)
@[simp] theorem State.putReset_pools : (s.putReset v).pools = s.pools := (rfl)
@[simp] theorem State.putReset_waiters : (s.putReset v).waiters = s.waiters := (rfl)
@[simp] theorem State.putReset_grants : (s.putReset v).grants = s.grants := (rfl)
@[simp] theorem State.putReset_rowErrs : (s.putReset v).rowErrs = s.rowErrs := (rfl)
@[simp] theorem State.putReset_pageErrs : (s.putReset v).pageErrs = s.pageErrs := (rfl)
@[simp] theorem State.putReset_pageHeld : (s.putReset v).pageHeld = s.pageHeld := (rfl)
@[simp] theorem State.putReset_pages : (s.putReset v).pages = s.pages := (rfl)
@[simp] theorem State.putReset_sparedRows : (s.putReset v).sparedRows = s.sparedRows := (rfl)
@[simp] theorem State.putReset_patrolAt : (s.putReset v).patrolAt = s.patrolAt := (rfl)
@[simp] theorem State.putReset_sramAt : (s.putReset v).sramAt = s.sramAt := (rfl)
@[simp] theorem State.putReset_selfRefresh : (s.putReset v).selfRefresh = s.selfRefresh := (rfl)
@[simp] theorem State.putReset_refreshing : (s.putReset v).refreshing = s.refreshing := (rfl)
@[simp] theorem State.putReset_sessions : (s.putReset v).sessions = s.sessions := (rfl)
@[simp] theorem State.putReset_hpActive : (s.putReset v).hpActive = s.hpActive := (rfl)
@[simp] theorem State.putReset_hpApply : (s.putReset v).hpApply = s.hpApply := (rfl)
@[simp] theorem State.putReset_hostLink : (s.putReset v).hostLink = s.hostLink := (rfl)
@[simp] theorem State.putReset_zctWait : (s.putReset v).zctWait = s.zctWait := (rfl)
@[simp] theorem State.putReset_flash : (s.putReset v).flash = s.flash := (rfl)
@[simp] theorem State.putReset_bootSlots : (s.putReset v).bootSlots = s.bootSlots := (rfl)
@[simp] theorem State.putReset_cert : (s.putReset v).cert = s.cert := (rfl)
@[simp] theorem State.putReset_jorou : (s.putReset v).jorou = s.jorou := (rfl)
@[simp] theorem State.putReset_wear : (s.putReset v).wear = s.wear := (rfl)
@[simp] theorem State.putReset_ledger : (s.putReset v).ledger = s.ledger := (rfl)
@[simp] theorem State.putReset_resetOp : (s.putReset v).reset? = v := (rfl)
@[simp] theorem State.putReset_resetQ : (s.putReset v).resetQ = s.resetQ := (rfl)
@[simp] theorem State.putReset_resetsDone : (s.putReset v).resetsDone = s.resetsDone := (rfl)
@[simp] theorem State.putReset_captures : (s.putReset v).captures = s.captures := (rfl)
@[simp] theorem State.putReset_capture : (s.putReset v).capture = s.capture := (rfl)
@[simp] theorem State.putReset_capQ : (s.putReset v).capQ = s.capQ := (rfl)
@[simp] theorem State.putReset_scan : (s.putReset v).scan = s.scan := (rfl)
@[simp] theorem State.putReset_hangs : (s.putReset v).hangs = s.hangs := (rfl)
@[simp] theorem State.putReset_stalls : (s.putReset v).stalls = s.stalls := (rfl)
@[simp] theorem State.putReset_power : (s.putReset v).power = s.power := (rfl)
@[simp] theorem State.putReset_wb : (s.putReset v).wb = s.wb := (rfl)
end

section
variable (s : State) (v : List (ResetOp × Option Post))
@[simp] theorem State.putResetQ_pending : (s.putResetQ v).pending = s.pending := (rfl)
@[simp] theorem State.putResetQ_cycle : (s.putResetQ v).cycle = s.cycle := (rfl)
@[simp] theorem State.putResetQ_grade : (s.putResetQ v).grade = s.grade := (rfl)
@[simp] theorem State.putResetQ_freeCtr : (s.putResetQ v).freeCtr = s.freeCtr := (rfl)
@[simp] theorem State.putResetQ_out : (s.putResetQ v).out = s.out := (rfl)
@[simp] theorem State.putResetQ_mem : (s.putResetQ v).mem = s.mem := (rfl)
@[simp] theorem State.putResetQ_poison : (s.putResetQ v).poison = s.poison := (rfl)
@[simp] theorem State.putResetQ_regs : (s.putResetQ v).regs = s.regs := (rfl)
@[simp] theorem State.putResetQ_ports : (s.putResetQ v).ports = s.ports := (rfl)
@[simp] theorem State.putResetQ_laneMap : (s.putResetQ v).laneMap = s.laneMap := (rfl)
@[simp] theorem State.putResetQ_mapFixed : (s.putResetQ v).mapFixed = s.mapFixed := (rfl)
@[simp] theorem State.putResetQ_slots : (s.putResetQ v).slots = s.slots := (rfl)
@[simp] theorem State.putResetQ_queues : (s.putResetQ v).queues = s.queues := (rfl)
@[simp] theorem State.putResetQ_xin : (s.putResetQ v).xin = s.xin := (rfl)
@[simp] theorem State.putResetQ_xinLast : (s.putResetQ v).xinLast = s.xinLast := (rfl)
@[simp] theorem State.putResetQ_heldCells : (s.putResetQ v).heldCells = s.heldCells := (rfl)
@[simp] theorem State.putResetQ_retiredSlots : (s.putResetQ v).retiredSlots = s.retiredSlots := (rfl)
@[simp] theorem State.putResetQ_floor : (s.putResetQ v).floor = s.floor := (rfl)
@[simp] theorem State.putResetQ_mirrors : (s.putResetQ v).mirrors = s.mirrors := (rfl)
@[simp] theorem State.putResetQ_mirrorMade : (s.putResetQ v).mirrorMade = s.mirrorMade := (rfl)
@[simp] theorem State.putResetQ_sampleNext : (s.putResetQ v).sampleNext = s.sampleNext := (rfl)
@[simp] theorem State.putResetQ_sampleRead : (s.putResetQ v).sampleRead = s.sampleRead := (rfl)
@[simp] theorem State.putResetQ_smpStart : (s.putResetQ v).smpStart = s.smpStart := (rfl)
@[simp] theorem State.putResetQ_fails : (s.putResetQ v).fails = s.fails := (rfl)
@[simp] theorem State.putResetQ_echoes : (s.putResetQ v).echoes = s.echoes := (rfl)
@[simp] theorem State.putResetQ_echoGaps : (s.putResetQ v).echoGaps = s.echoGaps := (rfl)
@[simp] theorem State.putResetQ_noReturn : (s.putResetQ v).noReturn = s.noReturn := (rfl)
@[simp] theorem State.putResetQ_tiles : (s.putResetQ v).tiles = s.tiles := (rfl)
@[simp] theorem State.putResetQ_tileMap : (s.putResetQ v).tileMap = s.tileMap := (rfl)
@[simp] theorem State.putResetQ_failedTiles : (s.putResetQ v).failedTiles = s.failedTiles := (rfl)
@[simp] theorem State.putResetQ_candidates : (s.putResetQ v).candidates = s.candidates := (rfl)
@[simp] theorem State.putResetQ_inboxes : (s.putResetQ v).inboxes = s.inboxes := (rfl)
@[simp] theorem State.putResetQ_ctxs : (s.putResetQ v).ctxs = s.ctxs := (rfl)
@[simp] theorem State.putResetQ_ringPass : (s.putResetQ v).ringPass = s.ringPass := (rfl)
@[simp] theorem State.putResetQ_plans : (s.putResetQ v).plans = s.plans := (rfl)
@[simp] theorem State.putResetQ_planFp : (s.putResetQ v).planFp = s.planFp := (rfl)
@[simp] theorem State.putResetQ_groups : (s.putResetQ v).groups = s.groups := (rfl)
@[simp] theorem State.putResetQ_wmInbox : (s.putResetQ v).wmInbox = s.wmInbox := (rfl)
@[simp] theorem State.putResetQ_sets : (s.putResetQ v).sets = s.sets := (rfl)
@[simp] theorem State.putResetQ_ehts : (s.putResetQ v).ehts = s.ehts := (rfl)
@[simp] theorem State.putResetQ_expOpen : (s.putResetQ v).expOpen = s.expOpen := (rfl)
@[simp] theorem State.putResetQ_expIn : (s.putResetQ v).expIn = s.expIn := (rfl)
@[simp] theorem State.putResetQ_expWait : (s.putResetQ v).expWait = s.expWait := (rfl)
@[simp] theorem State.putResetQ_atomics : (s.putResetQ v).atomics = s.atomics := (rfl)
@[simp] theorem State.putResetQ_owners : (s.putResetQ v).owners = s.owners := (rfl)
@[simp] theorem State.putResetQ_bufs : (s.putResetQ v).bufs = s.bufs := (rfl)
@[simp] theorem State.putResetQ_pools : (s.putResetQ v).pools = s.pools := (rfl)
@[simp] theorem State.putResetQ_waiters : (s.putResetQ v).waiters = s.waiters := (rfl)
@[simp] theorem State.putResetQ_grants : (s.putResetQ v).grants = s.grants := (rfl)
@[simp] theorem State.putResetQ_rowErrs : (s.putResetQ v).rowErrs = s.rowErrs := (rfl)
@[simp] theorem State.putResetQ_pageErrs : (s.putResetQ v).pageErrs = s.pageErrs := (rfl)
@[simp] theorem State.putResetQ_pageHeld : (s.putResetQ v).pageHeld = s.pageHeld := (rfl)
@[simp] theorem State.putResetQ_pages : (s.putResetQ v).pages = s.pages := (rfl)
@[simp] theorem State.putResetQ_sparedRows : (s.putResetQ v).sparedRows = s.sparedRows := (rfl)
@[simp] theorem State.putResetQ_patrolAt : (s.putResetQ v).patrolAt = s.patrolAt := (rfl)
@[simp] theorem State.putResetQ_sramAt : (s.putResetQ v).sramAt = s.sramAt := (rfl)
@[simp] theorem State.putResetQ_selfRefresh : (s.putResetQ v).selfRefresh = s.selfRefresh := (rfl)
@[simp] theorem State.putResetQ_refreshing : (s.putResetQ v).refreshing = s.refreshing := (rfl)
@[simp] theorem State.putResetQ_sessions : (s.putResetQ v).sessions = s.sessions := (rfl)
@[simp] theorem State.putResetQ_hpActive : (s.putResetQ v).hpActive = s.hpActive := (rfl)
@[simp] theorem State.putResetQ_hpApply : (s.putResetQ v).hpApply = s.hpApply := (rfl)
@[simp] theorem State.putResetQ_hostLink : (s.putResetQ v).hostLink = s.hostLink := (rfl)
@[simp] theorem State.putResetQ_zctWait : (s.putResetQ v).zctWait = s.zctWait := (rfl)
@[simp] theorem State.putResetQ_flash : (s.putResetQ v).flash = s.flash := (rfl)
@[simp] theorem State.putResetQ_bootSlots : (s.putResetQ v).bootSlots = s.bootSlots := (rfl)
@[simp] theorem State.putResetQ_cert : (s.putResetQ v).cert = s.cert := (rfl)
@[simp] theorem State.putResetQ_jorou : (s.putResetQ v).jorou = s.jorou := (rfl)
@[simp] theorem State.putResetQ_wear : (s.putResetQ v).wear = s.wear := (rfl)
@[simp] theorem State.putResetQ_ledger : (s.putResetQ v).ledger = s.ledger := (rfl)
@[simp] theorem State.putResetQ_resetOp : (s.putResetQ v).reset? = s.reset? := (rfl)
@[simp] theorem State.putResetQ_resetQ : (s.putResetQ v).resetQ = v := (rfl)
@[simp] theorem State.putResetQ_resetsDone : (s.putResetQ v).resetsDone = s.resetsDone := (rfl)
@[simp] theorem State.putResetQ_captures : (s.putResetQ v).captures = s.captures := (rfl)
@[simp] theorem State.putResetQ_capture : (s.putResetQ v).capture = s.capture := (rfl)
@[simp] theorem State.putResetQ_capQ : (s.putResetQ v).capQ = s.capQ := (rfl)
@[simp] theorem State.putResetQ_scan : (s.putResetQ v).scan = s.scan := (rfl)
@[simp] theorem State.putResetQ_hangs : (s.putResetQ v).hangs = s.hangs := (rfl)
@[simp] theorem State.putResetQ_stalls : (s.putResetQ v).stalls = s.stalls := (rfl)
@[simp] theorem State.putResetQ_power : (s.putResetQ v).power = s.power := (rfl)
@[simp] theorem State.putResetQ_wb : (s.putResetQ v).wb = s.wb := (rfl)
end

section
variable (s : State) (v : List (ResetOp × Nat))
@[simp] theorem State.putResetsDone_pending : (s.putResetsDone v).pending = s.pending := (rfl)
@[simp] theorem State.putResetsDone_cycle : (s.putResetsDone v).cycle = s.cycle := (rfl)
@[simp] theorem State.putResetsDone_grade : (s.putResetsDone v).grade = s.grade := (rfl)
@[simp] theorem State.putResetsDone_freeCtr : (s.putResetsDone v).freeCtr = s.freeCtr := (rfl)
@[simp] theorem State.putResetsDone_out : (s.putResetsDone v).out = s.out := (rfl)
@[simp] theorem State.putResetsDone_mem : (s.putResetsDone v).mem = s.mem := (rfl)
@[simp] theorem State.putResetsDone_poison : (s.putResetsDone v).poison = s.poison := (rfl)
@[simp] theorem State.putResetsDone_regs : (s.putResetsDone v).regs = s.regs := (rfl)
@[simp] theorem State.putResetsDone_ports : (s.putResetsDone v).ports = s.ports := (rfl)
@[simp] theorem State.putResetsDone_laneMap : (s.putResetsDone v).laneMap = s.laneMap := (rfl)
@[simp] theorem State.putResetsDone_mapFixed : (s.putResetsDone v).mapFixed = s.mapFixed := (rfl)
@[simp] theorem State.putResetsDone_slots : (s.putResetsDone v).slots = s.slots := (rfl)
@[simp] theorem State.putResetsDone_queues : (s.putResetsDone v).queues = s.queues := (rfl)
@[simp] theorem State.putResetsDone_xin : (s.putResetsDone v).xin = s.xin := (rfl)
@[simp] theorem State.putResetsDone_xinLast : (s.putResetsDone v).xinLast = s.xinLast := (rfl)
@[simp] theorem State.putResetsDone_heldCells : (s.putResetsDone v).heldCells = s.heldCells := (rfl)
@[simp] theorem State.putResetsDone_retiredSlots : (s.putResetsDone v).retiredSlots = s.retiredSlots := (rfl)
@[simp] theorem State.putResetsDone_floor : (s.putResetsDone v).floor = s.floor := (rfl)
@[simp] theorem State.putResetsDone_mirrors : (s.putResetsDone v).mirrors = s.mirrors := (rfl)
@[simp] theorem State.putResetsDone_mirrorMade : (s.putResetsDone v).mirrorMade = s.mirrorMade := (rfl)
@[simp] theorem State.putResetsDone_sampleNext : (s.putResetsDone v).sampleNext = s.sampleNext := (rfl)
@[simp] theorem State.putResetsDone_sampleRead : (s.putResetsDone v).sampleRead = s.sampleRead := (rfl)
@[simp] theorem State.putResetsDone_smpStart : (s.putResetsDone v).smpStart = s.smpStart := (rfl)
@[simp] theorem State.putResetsDone_fails : (s.putResetsDone v).fails = s.fails := (rfl)
@[simp] theorem State.putResetsDone_echoes : (s.putResetsDone v).echoes = s.echoes := (rfl)
@[simp] theorem State.putResetsDone_echoGaps : (s.putResetsDone v).echoGaps = s.echoGaps := (rfl)
@[simp] theorem State.putResetsDone_noReturn : (s.putResetsDone v).noReturn = s.noReturn := (rfl)
@[simp] theorem State.putResetsDone_tiles : (s.putResetsDone v).tiles = s.tiles := (rfl)
@[simp] theorem State.putResetsDone_tileMap : (s.putResetsDone v).tileMap = s.tileMap := (rfl)
@[simp] theorem State.putResetsDone_failedTiles : (s.putResetsDone v).failedTiles = s.failedTiles := (rfl)
@[simp] theorem State.putResetsDone_candidates : (s.putResetsDone v).candidates = s.candidates := (rfl)
@[simp] theorem State.putResetsDone_inboxes : (s.putResetsDone v).inboxes = s.inboxes := (rfl)
@[simp] theorem State.putResetsDone_ctxs : (s.putResetsDone v).ctxs = s.ctxs := (rfl)
@[simp] theorem State.putResetsDone_ringPass : (s.putResetsDone v).ringPass = s.ringPass := (rfl)
@[simp] theorem State.putResetsDone_plans : (s.putResetsDone v).plans = s.plans := (rfl)
@[simp] theorem State.putResetsDone_planFp : (s.putResetsDone v).planFp = s.planFp := (rfl)
@[simp] theorem State.putResetsDone_groups : (s.putResetsDone v).groups = s.groups := (rfl)
@[simp] theorem State.putResetsDone_wmInbox : (s.putResetsDone v).wmInbox = s.wmInbox := (rfl)
@[simp] theorem State.putResetsDone_sets : (s.putResetsDone v).sets = s.sets := (rfl)
@[simp] theorem State.putResetsDone_ehts : (s.putResetsDone v).ehts = s.ehts := (rfl)
@[simp] theorem State.putResetsDone_expOpen : (s.putResetsDone v).expOpen = s.expOpen := (rfl)
@[simp] theorem State.putResetsDone_expIn : (s.putResetsDone v).expIn = s.expIn := (rfl)
@[simp] theorem State.putResetsDone_expWait : (s.putResetsDone v).expWait = s.expWait := (rfl)
@[simp] theorem State.putResetsDone_atomics : (s.putResetsDone v).atomics = s.atomics := (rfl)
@[simp] theorem State.putResetsDone_owners : (s.putResetsDone v).owners = s.owners := (rfl)
@[simp] theorem State.putResetsDone_bufs : (s.putResetsDone v).bufs = s.bufs := (rfl)
@[simp] theorem State.putResetsDone_pools : (s.putResetsDone v).pools = s.pools := (rfl)
@[simp] theorem State.putResetsDone_waiters : (s.putResetsDone v).waiters = s.waiters := (rfl)
@[simp] theorem State.putResetsDone_grants : (s.putResetsDone v).grants = s.grants := (rfl)
@[simp] theorem State.putResetsDone_rowErrs : (s.putResetsDone v).rowErrs = s.rowErrs := (rfl)
@[simp] theorem State.putResetsDone_pageErrs : (s.putResetsDone v).pageErrs = s.pageErrs := (rfl)
@[simp] theorem State.putResetsDone_pageHeld : (s.putResetsDone v).pageHeld = s.pageHeld := (rfl)
@[simp] theorem State.putResetsDone_pages : (s.putResetsDone v).pages = s.pages := (rfl)
@[simp] theorem State.putResetsDone_sparedRows : (s.putResetsDone v).sparedRows = s.sparedRows := (rfl)
@[simp] theorem State.putResetsDone_patrolAt : (s.putResetsDone v).patrolAt = s.patrolAt := (rfl)
@[simp] theorem State.putResetsDone_sramAt : (s.putResetsDone v).sramAt = s.sramAt := (rfl)
@[simp] theorem State.putResetsDone_selfRefresh : (s.putResetsDone v).selfRefresh = s.selfRefresh := (rfl)
@[simp] theorem State.putResetsDone_refreshing : (s.putResetsDone v).refreshing = s.refreshing := (rfl)
@[simp] theorem State.putResetsDone_sessions : (s.putResetsDone v).sessions = s.sessions := (rfl)
@[simp] theorem State.putResetsDone_hpActive : (s.putResetsDone v).hpActive = s.hpActive := (rfl)
@[simp] theorem State.putResetsDone_hpApply : (s.putResetsDone v).hpApply = s.hpApply := (rfl)
@[simp] theorem State.putResetsDone_hostLink : (s.putResetsDone v).hostLink = s.hostLink := (rfl)
@[simp] theorem State.putResetsDone_zctWait : (s.putResetsDone v).zctWait = s.zctWait := (rfl)
@[simp] theorem State.putResetsDone_flash : (s.putResetsDone v).flash = s.flash := (rfl)
@[simp] theorem State.putResetsDone_bootSlots : (s.putResetsDone v).bootSlots = s.bootSlots := (rfl)
@[simp] theorem State.putResetsDone_cert : (s.putResetsDone v).cert = s.cert := (rfl)
@[simp] theorem State.putResetsDone_jorou : (s.putResetsDone v).jorou = s.jorou := (rfl)
@[simp] theorem State.putResetsDone_wear : (s.putResetsDone v).wear = s.wear := (rfl)
@[simp] theorem State.putResetsDone_ledger : (s.putResetsDone v).ledger = s.ledger := (rfl)
@[simp] theorem State.putResetsDone_resetOp : (s.putResetsDone v).reset? = s.reset? := (rfl)
@[simp] theorem State.putResetsDone_resetQ : (s.putResetsDone v).resetQ = s.resetQ := (rfl)
@[simp] theorem State.putResetsDone_resetsDone : (s.putResetsDone v).resetsDone = v := (rfl)
@[simp] theorem State.putResetsDone_captures : (s.putResetsDone v).captures = s.captures := (rfl)
@[simp] theorem State.putResetsDone_capture : (s.putResetsDone v).capture = s.capture := (rfl)
@[simp] theorem State.putResetsDone_capQ : (s.putResetsDone v).capQ = s.capQ := (rfl)
@[simp] theorem State.putResetsDone_scan : (s.putResetsDone v).scan = s.scan := (rfl)
@[simp] theorem State.putResetsDone_hangs : (s.putResetsDone v).hangs = s.hangs := (rfl)
@[simp] theorem State.putResetsDone_stalls : (s.putResetsDone v).stalls = s.stalls := (rfl)
@[simp] theorem State.putResetsDone_power : (s.putResetsDone v).power = s.power := (rfl)
@[simp] theorem State.putResetsDone_wb : (s.putResetsDone v).wb = s.wb := (rfl)
end

section
variable (s : State) (v : List (Nat × List Nat))
@[simp] theorem State.putCaptures_pending : (s.putCaptures v).pending = s.pending := (rfl)
@[simp] theorem State.putCaptures_cycle : (s.putCaptures v).cycle = s.cycle := (rfl)
@[simp] theorem State.putCaptures_grade : (s.putCaptures v).grade = s.grade := (rfl)
@[simp] theorem State.putCaptures_freeCtr : (s.putCaptures v).freeCtr = s.freeCtr := (rfl)
@[simp] theorem State.putCaptures_out : (s.putCaptures v).out = s.out := (rfl)
@[simp] theorem State.putCaptures_mem : (s.putCaptures v).mem = s.mem := (rfl)
@[simp] theorem State.putCaptures_poison : (s.putCaptures v).poison = s.poison := (rfl)
@[simp] theorem State.putCaptures_regs : (s.putCaptures v).regs = s.regs := (rfl)
@[simp] theorem State.putCaptures_ports : (s.putCaptures v).ports = s.ports := (rfl)
@[simp] theorem State.putCaptures_laneMap : (s.putCaptures v).laneMap = s.laneMap := (rfl)
@[simp] theorem State.putCaptures_mapFixed : (s.putCaptures v).mapFixed = s.mapFixed := (rfl)
@[simp] theorem State.putCaptures_slots : (s.putCaptures v).slots = s.slots := (rfl)
@[simp] theorem State.putCaptures_queues : (s.putCaptures v).queues = s.queues := (rfl)
@[simp] theorem State.putCaptures_xin : (s.putCaptures v).xin = s.xin := (rfl)
@[simp] theorem State.putCaptures_xinLast : (s.putCaptures v).xinLast = s.xinLast := (rfl)
@[simp] theorem State.putCaptures_heldCells : (s.putCaptures v).heldCells = s.heldCells := (rfl)
@[simp] theorem State.putCaptures_retiredSlots : (s.putCaptures v).retiredSlots = s.retiredSlots := (rfl)
@[simp] theorem State.putCaptures_floor : (s.putCaptures v).floor = s.floor := (rfl)
@[simp] theorem State.putCaptures_mirrors : (s.putCaptures v).mirrors = s.mirrors := (rfl)
@[simp] theorem State.putCaptures_mirrorMade : (s.putCaptures v).mirrorMade = s.mirrorMade := (rfl)
@[simp] theorem State.putCaptures_sampleNext : (s.putCaptures v).sampleNext = s.sampleNext := (rfl)
@[simp] theorem State.putCaptures_sampleRead : (s.putCaptures v).sampleRead = s.sampleRead := (rfl)
@[simp] theorem State.putCaptures_smpStart : (s.putCaptures v).smpStart = s.smpStart := (rfl)
@[simp] theorem State.putCaptures_fails : (s.putCaptures v).fails = s.fails := (rfl)
@[simp] theorem State.putCaptures_echoes : (s.putCaptures v).echoes = s.echoes := (rfl)
@[simp] theorem State.putCaptures_echoGaps : (s.putCaptures v).echoGaps = s.echoGaps := (rfl)
@[simp] theorem State.putCaptures_noReturn : (s.putCaptures v).noReturn = s.noReturn := (rfl)
@[simp] theorem State.putCaptures_tiles : (s.putCaptures v).tiles = s.tiles := (rfl)
@[simp] theorem State.putCaptures_tileMap : (s.putCaptures v).tileMap = s.tileMap := (rfl)
@[simp] theorem State.putCaptures_failedTiles : (s.putCaptures v).failedTiles = s.failedTiles := (rfl)
@[simp] theorem State.putCaptures_candidates : (s.putCaptures v).candidates = s.candidates := (rfl)
@[simp] theorem State.putCaptures_inboxes : (s.putCaptures v).inboxes = s.inboxes := (rfl)
@[simp] theorem State.putCaptures_ctxs : (s.putCaptures v).ctxs = s.ctxs := (rfl)
@[simp] theorem State.putCaptures_ringPass : (s.putCaptures v).ringPass = s.ringPass := (rfl)
@[simp] theorem State.putCaptures_plans : (s.putCaptures v).plans = s.plans := (rfl)
@[simp] theorem State.putCaptures_planFp : (s.putCaptures v).planFp = s.planFp := (rfl)
@[simp] theorem State.putCaptures_groups : (s.putCaptures v).groups = s.groups := (rfl)
@[simp] theorem State.putCaptures_wmInbox : (s.putCaptures v).wmInbox = s.wmInbox := (rfl)
@[simp] theorem State.putCaptures_sets : (s.putCaptures v).sets = s.sets := (rfl)
@[simp] theorem State.putCaptures_ehts : (s.putCaptures v).ehts = s.ehts := (rfl)
@[simp] theorem State.putCaptures_expOpen : (s.putCaptures v).expOpen = s.expOpen := (rfl)
@[simp] theorem State.putCaptures_expIn : (s.putCaptures v).expIn = s.expIn := (rfl)
@[simp] theorem State.putCaptures_expWait : (s.putCaptures v).expWait = s.expWait := (rfl)
@[simp] theorem State.putCaptures_atomics : (s.putCaptures v).atomics = s.atomics := (rfl)
@[simp] theorem State.putCaptures_owners : (s.putCaptures v).owners = s.owners := (rfl)
@[simp] theorem State.putCaptures_bufs : (s.putCaptures v).bufs = s.bufs := (rfl)
@[simp] theorem State.putCaptures_pools : (s.putCaptures v).pools = s.pools := (rfl)
@[simp] theorem State.putCaptures_waiters : (s.putCaptures v).waiters = s.waiters := (rfl)
@[simp] theorem State.putCaptures_grants : (s.putCaptures v).grants = s.grants := (rfl)
@[simp] theorem State.putCaptures_rowErrs : (s.putCaptures v).rowErrs = s.rowErrs := (rfl)
@[simp] theorem State.putCaptures_pageErrs : (s.putCaptures v).pageErrs = s.pageErrs := (rfl)
@[simp] theorem State.putCaptures_pageHeld : (s.putCaptures v).pageHeld = s.pageHeld := (rfl)
@[simp] theorem State.putCaptures_pages : (s.putCaptures v).pages = s.pages := (rfl)
@[simp] theorem State.putCaptures_sparedRows : (s.putCaptures v).sparedRows = s.sparedRows := (rfl)
@[simp] theorem State.putCaptures_patrolAt : (s.putCaptures v).patrolAt = s.patrolAt := (rfl)
@[simp] theorem State.putCaptures_sramAt : (s.putCaptures v).sramAt = s.sramAt := (rfl)
@[simp] theorem State.putCaptures_selfRefresh : (s.putCaptures v).selfRefresh = s.selfRefresh := (rfl)
@[simp] theorem State.putCaptures_refreshing : (s.putCaptures v).refreshing = s.refreshing := (rfl)
@[simp] theorem State.putCaptures_sessions : (s.putCaptures v).sessions = s.sessions := (rfl)
@[simp] theorem State.putCaptures_hpActive : (s.putCaptures v).hpActive = s.hpActive := (rfl)
@[simp] theorem State.putCaptures_hpApply : (s.putCaptures v).hpApply = s.hpApply := (rfl)
@[simp] theorem State.putCaptures_hostLink : (s.putCaptures v).hostLink = s.hostLink := (rfl)
@[simp] theorem State.putCaptures_zctWait : (s.putCaptures v).zctWait = s.zctWait := (rfl)
@[simp] theorem State.putCaptures_flash : (s.putCaptures v).flash = s.flash := (rfl)
@[simp] theorem State.putCaptures_bootSlots : (s.putCaptures v).bootSlots = s.bootSlots := (rfl)
@[simp] theorem State.putCaptures_cert : (s.putCaptures v).cert = s.cert := (rfl)
@[simp] theorem State.putCaptures_jorou : (s.putCaptures v).jorou = s.jorou := (rfl)
@[simp] theorem State.putCaptures_wear : (s.putCaptures v).wear = s.wear := (rfl)
@[simp] theorem State.putCaptures_ledger : (s.putCaptures v).ledger = s.ledger := (rfl)
@[simp] theorem State.putCaptures_resetOp : (s.putCaptures v).reset? = s.reset? := (rfl)
@[simp] theorem State.putCaptures_resetQ : (s.putCaptures v).resetQ = s.resetQ := (rfl)
@[simp] theorem State.putCaptures_resetsDone : (s.putCaptures v).resetsDone = s.resetsDone := (rfl)
@[simp] theorem State.putCaptures_captures : (s.putCaptures v).captures = v := (rfl)
@[simp] theorem State.putCaptures_capture : (s.putCaptures v).capture = s.capture := (rfl)
@[simp] theorem State.putCaptures_capQ : (s.putCaptures v).capQ = s.capQ := (rfl)
@[simp] theorem State.putCaptures_scan : (s.putCaptures v).scan = s.scan := (rfl)
@[simp] theorem State.putCaptures_hangs : (s.putCaptures v).hangs = s.hangs := (rfl)
@[simp] theorem State.putCaptures_stalls : (s.putCaptures v).stalls = s.stalls := (rfl)
@[simp] theorem State.putCaptures_power : (s.putCaptures v).power = s.power := (rfl)
@[simp] theorem State.putCaptures_wb : (s.putCaptures v).wb = s.wb := (rfl)
end

section
variable (s : State) (v : Option Capture)
@[simp] theorem State.putCapture_pending : (s.putCapture v).pending = s.pending := (rfl)
@[simp] theorem State.putCapture_cycle : (s.putCapture v).cycle = s.cycle := (rfl)
@[simp] theorem State.putCapture_grade : (s.putCapture v).grade = s.grade := (rfl)
@[simp] theorem State.putCapture_freeCtr : (s.putCapture v).freeCtr = s.freeCtr := (rfl)
@[simp] theorem State.putCapture_out : (s.putCapture v).out = s.out := (rfl)
@[simp] theorem State.putCapture_mem : (s.putCapture v).mem = s.mem := (rfl)
@[simp] theorem State.putCapture_poison : (s.putCapture v).poison = s.poison := (rfl)
@[simp] theorem State.putCapture_regs : (s.putCapture v).regs = s.regs := (rfl)
@[simp] theorem State.putCapture_ports : (s.putCapture v).ports = s.ports := (rfl)
@[simp] theorem State.putCapture_laneMap : (s.putCapture v).laneMap = s.laneMap := (rfl)
@[simp] theorem State.putCapture_mapFixed : (s.putCapture v).mapFixed = s.mapFixed := (rfl)
@[simp] theorem State.putCapture_slots : (s.putCapture v).slots = s.slots := (rfl)
@[simp] theorem State.putCapture_queues : (s.putCapture v).queues = s.queues := (rfl)
@[simp] theorem State.putCapture_xin : (s.putCapture v).xin = s.xin := (rfl)
@[simp] theorem State.putCapture_xinLast : (s.putCapture v).xinLast = s.xinLast := (rfl)
@[simp] theorem State.putCapture_heldCells : (s.putCapture v).heldCells = s.heldCells := (rfl)
@[simp] theorem State.putCapture_retiredSlots : (s.putCapture v).retiredSlots = s.retiredSlots := (rfl)
@[simp] theorem State.putCapture_floor : (s.putCapture v).floor = s.floor := (rfl)
@[simp] theorem State.putCapture_mirrors : (s.putCapture v).mirrors = s.mirrors := (rfl)
@[simp] theorem State.putCapture_mirrorMade : (s.putCapture v).mirrorMade = s.mirrorMade := (rfl)
@[simp] theorem State.putCapture_sampleNext : (s.putCapture v).sampleNext = s.sampleNext := (rfl)
@[simp] theorem State.putCapture_sampleRead : (s.putCapture v).sampleRead = s.sampleRead := (rfl)
@[simp] theorem State.putCapture_smpStart : (s.putCapture v).smpStart = s.smpStart := (rfl)
@[simp] theorem State.putCapture_fails : (s.putCapture v).fails = s.fails := (rfl)
@[simp] theorem State.putCapture_echoes : (s.putCapture v).echoes = s.echoes := (rfl)
@[simp] theorem State.putCapture_echoGaps : (s.putCapture v).echoGaps = s.echoGaps := (rfl)
@[simp] theorem State.putCapture_noReturn : (s.putCapture v).noReturn = s.noReturn := (rfl)
@[simp] theorem State.putCapture_tiles : (s.putCapture v).tiles = s.tiles := (rfl)
@[simp] theorem State.putCapture_tileMap : (s.putCapture v).tileMap = s.tileMap := (rfl)
@[simp] theorem State.putCapture_failedTiles : (s.putCapture v).failedTiles = s.failedTiles := (rfl)
@[simp] theorem State.putCapture_candidates : (s.putCapture v).candidates = s.candidates := (rfl)
@[simp] theorem State.putCapture_inboxes : (s.putCapture v).inboxes = s.inboxes := (rfl)
@[simp] theorem State.putCapture_ctxs : (s.putCapture v).ctxs = s.ctxs := (rfl)
@[simp] theorem State.putCapture_ringPass : (s.putCapture v).ringPass = s.ringPass := (rfl)
@[simp] theorem State.putCapture_plans : (s.putCapture v).plans = s.plans := (rfl)
@[simp] theorem State.putCapture_planFp : (s.putCapture v).planFp = s.planFp := (rfl)
@[simp] theorem State.putCapture_groups : (s.putCapture v).groups = s.groups := (rfl)
@[simp] theorem State.putCapture_wmInbox : (s.putCapture v).wmInbox = s.wmInbox := (rfl)
@[simp] theorem State.putCapture_sets : (s.putCapture v).sets = s.sets := (rfl)
@[simp] theorem State.putCapture_ehts : (s.putCapture v).ehts = s.ehts := (rfl)
@[simp] theorem State.putCapture_expOpen : (s.putCapture v).expOpen = s.expOpen := (rfl)
@[simp] theorem State.putCapture_expIn : (s.putCapture v).expIn = s.expIn := (rfl)
@[simp] theorem State.putCapture_expWait : (s.putCapture v).expWait = s.expWait := (rfl)
@[simp] theorem State.putCapture_atomics : (s.putCapture v).atomics = s.atomics := (rfl)
@[simp] theorem State.putCapture_owners : (s.putCapture v).owners = s.owners := (rfl)
@[simp] theorem State.putCapture_bufs : (s.putCapture v).bufs = s.bufs := (rfl)
@[simp] theorem State.putCapture_pools : (s.putCapture v).pools = s.pools := (rfl)
@[simp] theorem State.putCapture_waiters : (s.putCapture v).waiters = s.waiters := (rfl)
@[simp] theorem State.putCapture_grants : (s.putCapture v).grants = s.grants := (rfl)
@[simp] theorem State.putCapture_rowErrs : (s.putCapture v).rowErrs = s.rowErrs := (rfl)
@[simp] theorem State.putCapture_pageErrs : (s.putCapture v).pageErrs = s.pageErrs := (rfl)
@[simp] theorem State.putCapture_pageHeld : (s.putCapture v).pageHeld = s.pageHeld := (rfl)
@[simp] theorem State.putCapture_pages : (s.putCapture v).pages = s.pages := (rfl)
@[simp] theorem State.putCapture_sparedRows : (s.putCapture v).sparedRows = s.sparedRows := (rfl)
@[simp] theorem State.putCapture_patrolAt : (s.putCapture v).patrolAt = s.patrolAt := (rfl)
@[simp] theorem State.putCapture_sramAt : (s.putCapture v).sramAt = s.sramAt := (rfl)
@[simp] theorem State.putCapture_selfRefresh : (s.putCapture v).selfRefresh = s.selfRefresh := (rfl)
@[simp] theorem State.putCapture_refreshing : (s.putCapture v).refreshing = s.refreshing := (rfl)
@[simp] theorem State.putCapture_sessions : (s.putCapture v).sessions = s.sessions := (rfl)
@[simp] theorem State.putCapture_hpActive : (s.putCapture v).hpActive = s.hpActive := (rfl)
@[simp] theorem State.putCapture_hpApply : (s.putCapture v).hpApply = s.hpApply := (rfl)
@[simp] theorem State.putCapture_hostLink : (s.putCapture v).hostLink = s.hostLink := (rfl)
@[simp] theorem State.putCapture_zctWait : (s.putCapture v).zctWait = s.zctWait := (rfl)
@[simp] theorem State.putCapture_flash : (s.putCapture v).flash = s.flash := (rfl)
@[simp] theorem State.putCapture_bootSlots : (s.putCapture v).bootSlots = s.bootSlots := (rfl)
@[simp] theorem State.putCapture_cert : (s.putCapture v).cert = s.cert := (rfl)
@[simp] theorem State.putCapture_jorou : (s.putCapture v).jorou = s.jorou := (rfl)
@[simp] theorem State.putCapture_wear : (s.putCapture v).wear = s.wear := (rfl)
@[simp] theorem State.putCapture_ledger : (s.putCapture v).ledger = s.ledger := (rfl)
@[simp] theorem State.putCapture_resetOp : (s.putCapture v).reset? = s.reset? := (rfl)
@[simp] theorem State.putCapture_resetQ : (s.putCapture v).resetQ = s.resetQ := (rfl)
@[simp] theorem State.putCapture_resetsDone : (s.putCapture v).resetsDone = s.resetsDone := (rfl)
@[simp] theorem State.putCapture_captures : (s.putCapture v).captures = s.captures := (rfl)
@[simp] theorem State.putCapture_capture : (s.putCapture v).capture = v := (rfl)
@[simp] theorem State.putCapture_capQ : (s.putCapture v).capQ = s.capQ := (rfl)
@[simp] theorem State.putCapture_scan : (s.putCapture v).scan = s.scan := (rfl)
@[simp] theorem State.putCapture_hangs : (s.putCapture v).hangs = s.hangs := (rfl)
@[simp] theorem State.putCapture_stalls : (s.putCapture v).stalls = s.stalls := (rfl)
@[simp] theorem State.putCapture_power : (s.putCapture v).power = s.power := (rfl)
@[simp] theorem State.putCapture_wb : (s.putCapture v).wb = s.wb := (rfl)
end

section
variable (s : State) (v : List Capture)
@[simp] theorem State.putCapQ_pending : (s.putCapQ v).pending = s.pending := (rfl)
@[simp] theorem State.putCapQ_cycle : (s.putCapQ v).cycle = s.cycle := (rfl)
@[simp] theorem State.putCapQ_grade : (s.putCapQ v).grade = s.grade := (rfl)
@[simp] theorem State.putCapQ_freeCtr : (s.putCapQ v).freeCtr = s.freeCtr := (rfl)
@[simp] theorem State.putCapQ_out : (s.putCapQ v).out = s.out := (rfl)
@[simp] theorem State.putCapQ_mem : (s.putCapQ v).mem = s.mem := (rfl)
@[simp] theorem State.putCapQ_poison : (s.putCapQ v).poison = s.poison := (rfl)
@[simp] theorem State.putCapQ_regs : (s.putCapQ v).regs = s.regs := (rfl)
@[simp] theorem State.putCapQ_ports : (s.putCapQ v).ports = s.ports := (rfl)
@[simp] theorem State.putCapQ_laneMap : (s.putCapQ v).laneMap = s.laneMap := (rfl)
@[simp] theorem State.putCapQ_mapFixed : (s.putCapQ v).mapFixed = s.mapFixed := (rfl)
@[simp] theorem State.putCapQ_slots : (s.putCapQ v).slots = s.slots := (rfl)
@[simp] theorem State.putCapQ_queues : (s.putCapQ v).queues = s.queues := (rfl)
@[simp] theorem State.putCapQ_xin : (s.putCapQ v).xin = s.xin := (rfl)
@[simp] theorem State.putCapQ_xinLast : (s.putCapQ v).xinLast = s.xinLast := (rfl)
@[simp] theorem State.putCapQ_heldCells : (s.putCapQ v).heldCells = s.heldCells := (rfl)
@[simp] theorem State.putCapQ_retiredSlots : (s.putCapQ v).retiredSlots = s.retiredSlots := (rfl)
@[simp] theorem State.putCapQ_floor : (s.putCapQ v).floor = s.floor := (rfl)
@[simp] theorem State.putCapQ_mirrors : (s.putCapQ v).mirrors = s.mirrors := (rfl)
@[simp] theorem State.putCapQ_mirrorMade : (s.putCapQ v).mirrorMade = s.mirrorMade := (rfl)
@[simp] theorem State.putCapQ_sampleNext : (s.putCapQ v).sampleNext = s.sampleNext := (rfl)
@[simp] theorem State.putCapQ_sampleRead : (s.putCapQ v).sampleRead = s.sampleRead := (rfl)
@[simp] theorem State.putCapQ_smpStart : (s.putCapQ v).smpStart = s.smpStart := (rfl)
@[simp] theorem State.putCapQ_fails : (s.putCapQ v).fails = s.fails := (rfl)
@[simp] theorem State.putCapQ_echoes : (s.putCapQ v).echoes = s.echoes := (rfl)
@[simp] theorem State.putCapQ_echoGaps : (s.putCapQ v).echoGaps = s.echoGaps := (rfl)
@[simp] theorem State.putCapQ_noReturn : (s.putCapQ v).noReturn = s.noReturn := (rfl)
@[simp] theorem State.putCapQ_tiles : (s.putCapQ v).tiles = s.tiles := (rfl)
@[simp] theorem State.putCapQ_tileMap : (s.putCapQ v).tileMap = s.tileMap := (rfl)
@[simp] theorem State.putCapQ_failedTiles : (s.putCapQ v).failedTiles = s.failedTiles := (rfl)
@[simp] theorem State.putCapQ_candidates : (s.putCapQ v).candidates = s.candidates := (rfl)
@[simp] theorem State.putCapQ_inboxes : (s.putCapQ v).inboxes = s.inboxes := (rfl)
@[simp] theorem State.putCapQ_ctxs : (s.putCapQ v).ctxs = s.ctxs := (rfl)
@[simp] theorem State.putCapQ_ringPass : (s.putCapQ v).ringPass = s.ringPass := (rfl)
@[simp] theorem State.putCapQ_plans : (s.putCapQ v).plans = s.plans := (rfl)
@[simp] theorem State.putCapQ_planFp : (s.putCapQ v).planFp = s.planFp := (rfl)
@[simp] theorem State.putCapQ_groups : (s.putCapQ v).groups = s.groups := (rfl)
@[simp] theorem State.putCapQ_wmInbox : (s.putCapQ v).wmInbox = s.wmInbox := (rfl)
@[simp] theorem State.putCapQ_sets : (s.putCapQ v).sets = s.sets := (rfl)
@[simp] theorem State.putCapQ_ehts : (s.putCapQ v).ehts = s.ehts := (rfl)
@[simp] theorem State.putCapQ_expOpen : (s.putCapQ v).expOpen = s.expOpen := (rfl)
@[simp] theorem State.putCapQ_expIn : (s.putCapQ v).expIn = s.expIn := (rfl)
@[simp] theorem State.putCapQ_expWait : (s.putCapQ v).expWait = s.expWait := (rfl)
@[simp] theorem State.putCapQ_atomics : (s.putCapQ v).atomics = s.atomics := (rfl)
@[simp] theorem State.putCapQ_owners : (s.putCapQ v).owners = s.owners := (rfl)
@[simp] theorem State.putCapQ_bufs : (s.putCapQ v).bufs = s.bufs := (rfl)
@[simp] theorem State.putCapQ_pools : (s.putCapQ v).pools = s.pools := (rfl)
@[simp] theorem State.putCapQ_waiters : (s.putCapQ v).waiters = s.waiters := (rfl)
@[simp] theorem State.putCapQ_grants : (s.putCapQ v).grants = s.grants := (rfl)
@[simp] theorem State.putCapQ_rowErrs : (s.putCapQ v).rowErrs = s.rowErrs := (rfl)
@[simp] theorem State.putCapQ_pageErrs : (s.putCapQ v).pageErrs = s.pageErrs := (rfl)
@[simp] theorem State.putCapQ_pageHeld : (s.putCapQ v).pageHeld = s.pageHeld := (rfl)
@[simp] theorem State.putCapQ_pages : (s.putCapQ v).pages = s.pages := (rfl)
@[simp] theorem State.putCapQ_sparedRows : (s.putCapQ v).sparedRows = s.sparedRows := (rfl)
@[simp] theorem State.putCapQ_patrolAt : (s.putCapQ v).patrolAt = s.patrolAt := (rfl)
@[simp] theorem State.putCapQ_sramAt : (s.putCapQ v).sramAt = s.sramAt := (rfl)
@[simp] theorem State.putCapQ_selfRefresh : (s.putCapQ v).selfRefresh = s.selfRefresh := (rfl)
@[simp] theorem State.putCapQ_refreshing : (s.putCapQ v).refreshing = s.refreshing := (rfl)
@[simp] theorem State.putCapQ_sessions : (s.putCapQ v).sessions = s.sessions := (rfl)
@[simp] theorem State.putCapQ_hpActive : (s.putCapQ v).hpActive = s.hpActive := (rfl)
@[simp] theorem State.putCapQ_hpApply : (s.putCapQ v).hpApply = s.hpApply := (rfl)
@[simp] theorem State.putCapQ_hostLink : (s.putCapQ v).hostLink = s.hostLink := (rfl)
@[simp] theorem State.putCapQ_zctWait : (s.putCapQ v).zctWait = s.zctWait := (rfl)
@[simp] theorem State.putCapQ_flash : (s.putCapQ v).flash = s.flash := (rfl)
@[simp] theorem State.putCapQ_bootSlots : (s.putCapQ v).bootSlots = s.bootSlots := (rfl)
@[simp] theorem State.putCapQ_cert : (s.putCapQ v).cert = s.cert := (rfl)
@[simp] theorem State.putCapQ_jorou : (s.putCapQ v).jorou = s.jorou := (rfl)
@[simp] theorem State.putCapQ_wear : (s.putCapQ v).wear = s.wear := (rfl)
@[simp] theorem State.putCapQ_ledger : (s.putCapQ v).ledger = s.ledger := (rfl)
@[simp] theorem State.putCapQ_resetOp : (s.putCapQ v).reset? = s.reset? := (rfl)
@[simp] theorem State.putCapQ_resetQ : (s.putCapQ v).resetQ = s.resetQ := (rfl)
@[simp] theorem State.putCapQ_resetsDone : (s.putCapQ v).resetsDone = s.resetsDone := (rfl)
@[simp] theorem State.putCapQ_captures : (s.putCapQ v).captures = s.captures := (rfl)
@[simp] theorem State.putCapQ_capture : (s.putCapQ v).capture = s.capture := (rfl)
@[simp] theorem State.putCapQ_capQ : (s.putCapQ v).capQ = v := (rfl)
@[simp] theorem State.putCapQ_scan : (s.putCapQ v).scan = s.scan := (rfl)
@[simp] theorem State.putCapQ_hangs : (s.putCapQ v).hangs = s.hangs := (rfl)
@[simp] theorem State.putCapQ_stalls : (s.putCapQ v).stalls = s.stalls := (rfl)
@[simp] theorem State.putCapQ_power : (s.putCapQ v).power = s.power := (rfl)
@[simp] theorem State.putCapQ_wb : (s.putCapQ v).wb = s.wb := (rfl)
end

section
variable (s : State) (v : List WNode)
@[simp] theorem State.putScan_pending : (s.putScan v).pending = s.pending := (rfl)
@[simp] theorem State.putScan_cycle : (s.putScan v).cycle = s.cycle := (rfl)
@[simp] theorem State.putScan_grade : (s.putScan v).grade = s.grade := (rfl)
@[simp] theorem State.putScan_freeCtr : (s.putScan v).freeCtr = s.freeCtr := (rfl)
@[simp] theorem State.putScan_out : (s.putScan v).out = s.out := (rfl)
@[simp] theorem State.putScan_mem : (s.putScan v).mem = s.mem := (rfl)
@[simp] theorem State.putScan_poison : (s.putScan v).poison = s.poison := (rfl)
@[simp] theorem State.putScan_regs : (s.putScan v).regs = s.regs := (rfl)
@[simp] theorem State.putScan_ports : (s.putScan v).ports = s.ports := (rfl)
@[simp] theorem State.putScan_laneMap : (s.putScan v).laneMap = s.laneMap := (rfl)
@[simp] theorem State.putScan_mapFixed : (s.putScan v).mapFixed = s.mapFixed := (rfl)
@[simp] theorem State.putScan_slots : (s.putScan v).slots = s.slots := (rfl)
@[simp] theorem State.putScan_queues : (s.putScan v).queues = s.queues := (rfl)
@[simp] theorem State.putScan_xin : (s.putScan v).xin = s.xin := (rfl)
@[simp] theorem State.putScan_xinLast : (s.putScan v).xinLast = s.xinLast := (rfl)
@[simp] theorem State.putScan_heldCells : (s.putScan v).heldCells = s.heldCells := (rfl)
@[simp] theorem State.putScan_retiredSlots : (s.putScan v).retiredSlots = s.retiredSlots := (rfl)
@[simp] theorem State.putScan_floor : (s.putScan v).floor = s.floor := (rfl)
@[simp] theorem State.putScan_mirrors : (s.putScan v).mirrors = s.mirrors := (rfl)
@[simp] theorem State.putScan_mirrorMade : (s.putScan v).mirrorMade = s.mirrorMade := (rfl)
@[simp] theorem State.putScan_sampleNext : (s.putScan v).sampleNext = s.sampleNext := (rfl)
@[simp] theorem State.putScan_sampleRead : (s.putScan v).sampleRead = s.sampleRead := (rfl)
@[simp] theorem State.putScan_smpStart : (s.putScan v).smpStart = s.smpStart := (rfl)
@[simp] theorem State.putScan_fails : (s.putScan v).fails = s.fails := (rfl)
@[simp] theorem State.putScan_echoes : (s.putScan v).echoes = s.echoes := (rfl)
@[simp] theorem State.putScan_echoGaps : (s.putScan v).echoGaps = s.echoGaps := (rfl)
@[simp] theorem State.putScan_noReturn : (s.putScan v).noReturn = s.noReturn := (rfl)
@[simp] theorem State.putScan_tiles : (s.putScan v).tiles = s.tiles := (rfl)
@[simp] theorem State.putScan_tileMap : (s.putScan v).tileMap = s.tileMap := (rfl)
@[simp] theorem State.putScan_failedTiles : (s.putScan v).failedTiles = s.failedTiles := (rfl)
@[simp] theorem State.putScan_candidates : (s.putScan v).candidates = s.candidates := (rfl)
@[simp] theorem State.putScan_inboxes : (s.putScan v).inboxes = s.inboxes := (rfl)
@[simp] theorem State.putScan_ctxs : (s.putScan v).ctxs = s.ctxs := (rfl)
@[simp] theorem State.putScan_ringPass : (s.putScan v).ringPass = s.ringPass := (rfl)
@[simp] theorem State.putScan_plans : (s.putScan v).plans = s.plans := (rfl)
@[simp] theorem State.putScan_planFp : (s.putScan v).planFp = s.planFp := (rfl)
@[simp] theorem State.putScan_groups : (s.putScan v).groups = s.groups := (rfl)
@[simp] theorem State.putScan_wmInbox : (s.putScan v).wmInbox = s.wmInbox := (rfl)
@[simp] theorem State.putScan_sets : (s.putScan v).sets = s.sets := (rfl)
@[simp] theorem State.putScan_ehts : (s.putScan v).ehts = s.ehts := (rfl)
@[simp] theorem State.putScan_expOpen : (s.putScan v).expOpen = s.expOpen := (rfl)
@[simp] theorem State.putScan_expIn : (s.putScan v).expIn = s.expIn := (rfl)
@[simp] theorem State.putScan_expWait : (s.putScan v).expWait = s.expWait := (rfl)
@[simp] theorem State.putScan_atomics : (s.putScan v).atomics = s.atomics := (rfl)
@[simp] theorem State.putScan_owners : (s.putScan v).owners = s.owners := (rfl)
@[simp] theorem State.putScan_bufs : (s.putScan v).bufs = s.bufs := (rfl)
@[simp] theorem State.putScan_pools : (s.putScan v).pools = s.pools := (rfl)
@[simp] theorem State.putScan_waiters : (s.putScan v).waiters = s.waiters := (rfl)
@[simp] theorem State.putScan_grants : (s.putScan v).grants = s.grants := (rfl)
@[simp] theorem State.putScan_rowErrs : (s.putScan v).rowErrs = s.rowErrs := (rfl)
@[simp] theorem State.putScan_pageErrs : (s.putScan v).pageErrs = s.pageErrs := (rfl)
@[simp] theorem State.putScan_pageHeld : (s.putScan v).pageHeld = s.pageHeld := (rfl)
@[simp] theorem State.putScan_pages : (s.putScan v).pages = s.pages := (rfl)
@[simp] theorem State.putScan_sparedRows : (s.putScan v).sparedRows = s.sparedRows := (rfl)
@[simp] theorem State.putScan_patrolAt : (s.putScan v).patrolAt = s.patrolAt := (rfl)
@[simp] theorem State.putScan_sramAt : (s.putScan v).sramAt = s.sramAt := (rfl)
@[simp] theorem State.putScan_selfRefresh : (s.putScan v).selfRefresh = s.selfRefresh := (rfl)
@[simp] theorem State.putScan_refreshing : (s.putScan v).refreshing = s.refreshing := (rfl)
@[simp] theorem State.putScan_sessions : (s.putScan v).sessions = s.sessions := (rfl)
@[simp] theorem State.putScan_hpActive : (s.putScan v).hpActive = s.hpActive := (rfl)
@[simp] theorem State.putScan_hpApply : (s.putScan v).hpApply = s.hpApply := (rfl)
@[simp] theorem State.putScan_hostLink : (s.putScan v).hostLink = s.hostLink := (rfl)
@[simp] theorem State.putScan_zctWait : (s.putScan v).zctWait = s.zctWait := (rfl)
@[simp] theorem State.putScan_flash : (s.putScan v).flash = s.flash := (rfl)
@[simp] theorem State.putScan_bootSlots : (s.putScan v).bootSlots = s.bootSlots := (rfl)
@[simp] theorem State.putScan_cert : (s.putScan v).cert = s.cert := (rfl)
@[simp] theorem State.putScan_jorou : (s.putScan v).jorou = s.jorou := (rfl)
@[simp] theorem State.putScan_wear : (s.putScan v).wear = s.wear := (rfl)
@[simp] theorem State.putScan_ledger : (s.putScan v).ledger = s.ledger := (rfl)
@[simp] theorem State.putScan_resetOp : (s.putScan v).reset? = s.reset? := (rfl)
@[simp] theorem State.putScan_resetQ : (s.putScan v).resetQ = s.resetQ := (rfl)
@[simp] theorem State.putScan_resetsDone : (s.putScan v).resetsDone = s.resetsDone := (rfl)
@[simp] theorem State.putScan_captures : (s.putScan v).captures = s.captures := (rfl)
@[simp] theorem State.putScan_capture : (s.putScan v).capture = s.capture := (rfl)
@[simp] theorem State.putScan_capQ : (s.putScan v).capQ = s.capQ := (rfl)
@[simp] theorem State.putScan_scan : (s.putScan v).scan = v := (rfl)
@[simp] theorem State.putScan_hangs : (s.putScan v).hangs = s.hangs := (rfl)
@[simp] theorem State.putScan_stalls : (s.putScan v).stalls = s.stalls := (rfl)
@[simp] theorem State.putScan_power : (s.putScan v).power = s.power := (rfl)
@[simp] theorem State.putScan_wb : (s.putScan v).wb = s.wb := (rfl)
end

section
variable (s : State) (v : List (List Word))
@[simp] theorem State.putHangs_pending : (s.putHangs v).pending = s.pending := (rfl)
@[simp] theorem State.putHangs_cycle : (s.putHangs v).cycle = s.cycle := (rfl)
@[simp] theorem State.putHangs_grade : (s.putHangs v).grade = s.grade := (rfl)
@[simp] theorem State.putHangs_freeCtr : (s.putHangs v).freeCtr = s.freeCtr := (rfl)
@[simp] theorem State.putHangs_out : (s.putHangs v).out = s.out := (rfl)
@[simp] theorem State.putHangs_mem : (s.putHangs v).mem = s.mem := (rfl)
@[simp] theorem State.putHangs_poison : (s.putHangs v).poison = s.poison := (rfl)
@[simp] theorem State.putHangs_regs : (s.putHangs v).regs = s.regs := (rfl)
@[simp] theorem State.putHangs_ports : (s.putHangs v).ports = s.ports := (rfl)
@[simp] theorem State.putHangs_laneMap : (s.putHangs v).laneMap = s.laneMap := (rfl)
@[simp] theorem State.putHangs_mapFixed : (s.putHangs v).mapFixed = s.mapFixed := (rfl)
@[simp] theorem State.putHangs_slots : (s.putHangs v).slots = s.slots := (rfl)
@[simp] theorem State.putHangs_queues : (s.putHangs v).queues = s.queues := (rfl)
@[simp] theorem State.putHangs_xin : (s.putHangs v).xin = s.xin := (rfl)
@[simp] theorem State.putHangs_xinLast : (s.putHangs v).xinLast = s.xinLast := (rfl)
@[simp] theorem State.putHangs_heldCells : (s.putHangs v).heldCells = s.heldCells := (rfl)
@[simp] theorem State.putHangs_retiredSlots : (s.putHangs v).retiredSlots = s.retiredSlots := (rfl)
@[simp] theorem State.putHangs_floor : (s.putHangs v).floor = s.floor := (rfl)
@[simp] theorem State.putHangs_mirrors : (s.putHangs v).mirrors = s.mirrors := (rfl)
@[simp] theorem State.putHangs_mirrorMade : (s.putHangs v).mirrorMade = s.mirrorMade := (rfl)
@[simp] theorem State.putHangs_sampleNext : (s.putHangs v).sampleNext = s.sampleNext := (rfl)
@[simp] theorem State.putHangs_sampleRead : (s.putHangs v).sampleRead = s.sampleRead := (rfl)
@[simp] theorem State.putHangs_smpStart : (s.putHangs v).smpStart = s.smpStart := (rfl)
@[simp] theorem State.putHangs_fails : (s.putHangs v).fails = s.fails := (rfl)
@[simp] theorem State.putHangs_echoes : (s.putHangs v).echoes = s.echoes := (rfl)
@[simp] theorem State.putHangs_echoGaps : (s.putHangs v).echoGaps = s.echoGaps := (rfl)
@[simp] theorem State.putHangs_noReturn : (s.putHangs v).noReturn = s.noReturn := (rfl)
@[simp] theorem State.putHangs_tiles : (s.putHangs v).tiles = s.tiles := (rfl)
@[simp] theorem State.putHangs_tileMap : (s.putHangs v).tileMap = s.tileMap := (rfl)
@[simp] theorem State.putHangs_failedTiles : (s.putHangs v).failedTiles = s.failedTiles := (rfl)
@[simp] theorem State.putHangs_candidates : (s.putHangs v).candidates = s.candidates := (rfl)
@[simp] theorem State.putHangs_inboxes : (s.putHangs v).inboxes = s.inboxes := (rfl)
@[simp] theorem State.putHangs_ctxs : (s.putHangs v).ctxs = s.ctxs := (rfl)
@[simp] theorem State.putHangs_ringPass : (s.putHangs v).ringPass = s.ringPass := (rfl)
@[simp] theorem State.putHangs_plans : (s.putHangs v).plans = s.plans := (rfl)
@[simp] theorem State.putHangs_planFp : (s.putHangs v).planFp = s.planFp := (rfl)
@[simp] theorem State.putHangs_groups : (s.putHangs v).groups = s.groups := (rfl)
@[simp] theorem State.putHangs_wmInbox : (s.putHangs v).wmInbox = s.wmInbox := (rfl)
@[simp] theorem State.putHangs_sets : (s.putHangs v).sets = s.sets := (rfl)
@[simp] theorem State.putHangs_ehts : (s.putHangs v).ehts = s.ehts := (rfl)
@[simp] theorem State.putHangs_expOpen : (s.putHangs v).expOpen = s.expOpen := (rfl)
@[simp] theorem State.putHangs_expIn : (s.putHangs v).expIn = s.expIn := (rfl)
@[simp] theorem State.putHangs_expWait : (s.putHangs v).expWait = s.expWait := (rfl)
@[simp] theorem State.putHangs_atomics : (s.putHangs v).atomics = s.atomics := (rfl)
@[simp] theorem State.putHangs_owners : (s.putHangs v).owners = s.owners := (rfl)
@[simp] theorem State.putHangs_bufs : (s.putHangs v).bufs = s.bufs := (rfl)
@[simp] theorem State.putHangs_pools : (s.putHangs v).pools = s.pools := (rfl)
@[simp] theorem State.putHangs_waiters : (s.putHangs v).waiters = s.waiters := (rfl)
@[simp] theorem State.putHangs_grants : (s.putHangs v).grants = s.grants := (rfl)
@[simp] theorem State.putHangs_rowErrs : (s.putHangs v).rowErrs = s.rowErrs := (rfl)
@[simp] theorem State.putHangs_pageErrs : (s.putHangs v).pageErrs = s.pageErrs := (rfl)
@[simp] theorem State.putHangs_pageHeld : (s.putHangs v).pageHeld = s.pageHeld := (rfl)
@[simp] theorem State.putHangs_pages : (s.putHangs v).pages = s.pages := (rfl)
@[simp] theorem State.putHangs_sparedRows : (s.putHangs v).sparedRows = s.sparedRows := (rfl)
@[simp] theorem State.putHangs_patrolAt : (s.putHangs v).patrolAt = s.patrolAt := (rfl)
@[simp] theorem State.putHangs_sramAt : (s.putHangs v).sramAt = s.sramAt := (rfl)
@[simp] theorem State.putHangs_selfRefresh : (s.putHangs v).selfRefresh = s.selfRefresh := (rfl)
@[simp] theorem State.putHangs_refreshing : (s.putHangs v).refreshing = s.refreshing := (rfl)
@[simp] theorem State.putHangs_sessions : (s.putHangs v).sessions = s.sessions := (rfl)
@[simp] theorem State.putHangs_hpActive : (s.putHangs v).hpActive = s.hpActive := (rfl)
@[simp] theorem State.putHangs_hpApply : (s.putHangs v).hpApply = s.hpApply := (rfl)
@[simp] theorem State.putHangs_hostLink : (s.putHangs v).hostLink = s.hostLink := (rfl)
@[simp] theorem State.putHangs_zctWait : (s.putHangs v).zctWait = s.zctWait := (rfl)
@[simp] theorem State.putHangs_flash : (s.putHangs v).flash = s.flash := (rfl)
@[simp] theorem State.putHangs_bootSlots : (s.putHangs v).bootSlots = s.bootSlots := (rfl)
@[simp] theorem State.putHangs_cert : (s.putHangs v).cert = s.cert := (rfl)
@[simp] theorem State.putHangs_jorou : (s.putHangs v).jorou = s.jorou := (rfl)
@[simp] theorem State.putHangs_wear : (s.putHangs v).wear = s.wear := (rfl)
@[simp] theorem State.putHangs_ledger : (s.putHangs v).ledger = s.ledger := (rfl)
@[simp] theorem State.putHangs_resetOp : (s.putHangs v).reset? = s.reset? := (rfl)
@[simp] theorem State.putHangs_resetQ : (s.putHangs v).resetQ = s.resetQ := (rfl)
@[simp] theorem State.putHangs_resetsDone : (s.putHangs v).resetsDone = s.resetsDone := (rfl)
@[simp] theorem State.putHangs_captures : (s.putHangs v).captures = s.captures := (rfl)
@[simp] theorem State.putHangs_capture : (s.putHangs v).capture = s.capture := (rfl)
@[simp] theorem State.putHangs_capQ : (s.putHangs v).capQ = s.capQ := (rfl)
@[simp] theorem State.putHangs_scan : (s.putHangs v).scan = s.scan := (rfl)
@[simp] theorem State.putHangs_hangs : (s.putHangs v).hangs = v := (rfl)
@[simp] theorem State.putHangs_stalls : (s.putHangs v).stalls = s.stalls := (rfl)
@[simp] theorem State.putHangs_power : (s.putHangs v).power = s.power := (rfl)
@[simp] theorem State.putHangs_wb : (s.putHangs v).wb = s.wb := (rfl)
end

section
variable (s : State) (v : List (Word × Nat))
@[simp] theorem State.putStalls_pending : (s.putStalls v).pending = s.pending := (rfl)
@[simp] theorem State.putStalls_cycle : (s.putStalls v).cycle = s.cycle := (rfl)
@[simp] theorem State.putStalls_grade : (s.putStalls v).grade = s.grade := (rfl)
@[simp] theorem State.putStalls_freeCtr : (s.putStalls v).freeCtr = s.freeCtr := (rfl)
@[simp] theorem State.putStalls_out : (s.putStalls v).out = s.out := (rfl)
@[simp] theorem State.putStalls_mem : (s.putStalls v).mem = s.mem := (rfl)
@[simp] theorem State.putStalls_poison : (s.putStalls v).poison = s.poison := (rfl)
@[simp] theorem State.putStalls_regs : (s.putStalls v).regs = s.regs := (rfl)
@[simp] theorem State.putStalls_ports : (s.putStalls v).ports = s.ports := (rfl)
@[simp] theorem State.putStalls_laneMap : (s.putStalls v).laneMap = s.laneMap := (rfl)
@[simp] theorem State.putStalls_mapFixed : (s.putStalls v).mapFixed = s.mapFixed := (rfl)
@[simp] theorem State.putStalls_slots : (s.putStalls v).slots = s.slots := (rfl)
@[simp] theorem State.putStalls_queues : (s.putStalls v).queues = s.queues := (rfl)
@[simp] theorem State.putStalls_xin : (s.putStalls v).xin = s.xin := (rfl)
@[simp] theorem State.putStalls_xinLast : (s.putStalls v).xinLast = s.xinLast := (rfl)
@[simp] theorem State.putStalls_heldCells : (s.putStalls v).heldCells = s.heldCells := (rfl)
@[simp] theorem State.putStalls_retiredSlots : (s.putStalls v).retiredSlots = s.retiredSlots := (rfl)
@[simp] theorem State.putStalls_floor : (s.putStalls v).floor = s.floor := (rfl)
@[simp] theorem State.putStalls_mirrors : (s.putStalls v).mirrors = s.mirrors := (rfl)
@[simp] theorem State.putStalls_mirrorMade : (s.putStalls v).mirrorMade = s.mirrorMade := (rfl)
@[simp] theorem State.putStalls_sampleNext : (s.putStalls v).sampleNext = s.sampleNext := (rfl)
@[simp] theorem State.putStalls_sampleRead : (s.putStalls v).sampleRead = s.sampleRead := (rfl)
@[simp] theorem State.putStalls_smpStart : (s.putStalls v).smpStart = s.smpStart := (rfl)
@[simp] theorem State.putStalls_fails : (s.putStalls v).fails = s.fails := (rfl)
@[simp] theorem State.putStalls_echoes : (s.putStalls v).echoes = s.echoes := (rfl)
@[simp] theorem State.putStalls_echoGaps : (s.putStalls v).echoGaps = s.echoGaps := (rfl)
@[simp] theorem State.putStalls_noReturn : (s.putStalls v).noReturn = s.noReturn := (rfl)
@[simp] theorem State.putStalls_tiles : (s.putStalls v).tiles = s.tiles := (rfl)
@[simp] theorem State.putStalls_tileMap : (s.putStalls v).tileMap = s.tileMap := (rfl)
@[simp] theorem State.putStalls_failedTiles : (s.putStalls v).failedTiles = s.failedTiles := (rfl)
@[simp] theorem State.putStalls_candidates : (s.putStalls v).candidates = s.candidates := (rfl)
@[simp] theorem State.putStalls_inboxes : (s.putStalls v).inboxes = s.inboxes := (rfl)
@[simp] theorem State.putStalls_ctxs : (s.putStalls v).ctxs = s.ctxs := (rfl)
@[simp] theorem State.putStalls_ringPass : (s.putStalls v).ringPass = s.ringPass := (rfl)
@[simp] theorem State.putStalls_plans : (s.putStalls v).plans = s.plans := (rfl)
@[simp] theorem State.putStalls_planFp : (s.putStalls v).planFp = s.planFp := (rfl)
@[simp] theorem State.putStalls_groups : (s.putStalls v).groups = s.groups := (rfl)
@[simp] theorem State.putStalls_wmInbox : (s.putStalls v).wmInbox = s.wmInbox := (rfl)
@[simp] theorem State.putStalls_sets : (s.putStalls v).sets = s.sets := (rfl)
@[simp] theorem State.putStalls_ehts : (s.putStalls v).ehts = s.ehts := (rfl)
@[simp] theorem State.putStalls_expOpen : (s.putStalls v).expOpen = s.expOpen := (rfl)
@[simp] theorem State.putStalls_expIn : (s.putStalls v).expIn = s.expIn := (rfl)
@[simp] theorem State.putStalls_expWait : (s.putStalls v).expWait = s.expWait := (rfl)
@[simp] theorem State.putStalls_atomics : (s.putStalls v).atomics = s.atomics := (rfl)
@[simp] theorem State.putStalls_owners : (s.putStalls v).owners = s.owners := (rfl)
@[simp] theorem State.putStalls_bufs : (s.putStalls v).bufs = s.bufs := (rfl)
@[simp] theorem State.putStalls_pools : (s.putStalls v).pools = s.pools := (rfl)
@[simp] theorem State.putStalls_waiters : (s.putStalls v).waiters = s.waiters := (rfl)
@[simp] theorem State.putStalls_grants : (s.putStalls v).grants = s.grants := (rfl)
@[simp] theorem State.putStalls_rowErrs : (s.putStalls v).rowErrs = s.rowErrs := (rfl)
@[simp] theorem State.putStalls_pageErrs : (s.putStalls v).pageErrs = s.pageErrs := (rfl)
@[simp] theorem State.putStalls_pageHeld : (s.putStalls v).pageHeld = s.pageHeld := (rfl)
@[simp] theorem State.putStalls_pages : (s.putStalls v).pages = s.pages := (rfl)
@[simp] theorem State.putStalls_sparedRows : (s.putStalls v).sparedRows = s.sparedRows := (rfl)
@[simp] theorem State.putStalls_patrolAt : (s.putStalls v).patrolAt = s.patrolAt := (rfl)
@[simp] theorem State.putStalls_sramAt : (s.putStalls v).sramAt = s.sramAt := (rfl)
@[simp] theorem State.putStalls_selfRefresh : (s.putStalls v).selfRefresh = s.selfRefresh := (rfl)
@[simp] theorem State.putStalls_refreshing : (s.putStalls v).refreshing = s.refreshing := (rfl)
@[simp] theorem State.putStalls_sessions : (s.putStalls v).sessions = s.sessions := (rfl)
@[simp] theorem State.putStalls_hpActive : (s.putStalls v).hpActive = s.hpActive := (rfl)
@[simp] theorem State.putStalls_hpApply : (s.putStalls v).hpApply = s.hpApply := (rfl)
@[simp] theorem State.putStalls_hostLink : (s.putStalls v).hostLink = s.hostLink := (rfl)
@[simp] theorem State.putStalls_zctWait : (s.putStalls v).zctWait = s.zctWait := (rfl)
@[simp] theorem State.putStalls_flash : (s.putStalls v).flash = s.flash := (rfl)
@[simp] theorem State.putStalls_bootSlots : (s.putStalls v).bootSlots = s.bootSlots := (rfl)
@[simp] theorem State.putStalls_cert : (s.putStalls v).cert = s.cert := (rfl)
@[simp] theorem State.putStalls_jorou : (s.putStalls v).jorou = s.jorou := (rfl)
@[simp] theorem State.putStalls_wear : (s.putStalls v).wear = s.wear := (rfl)
@[simp] theorem State.putStalls_ledger : (s.putStalls v).ledger = s.ledger := (rfl)
@[simp] theorem State.putStalls_resetOp : (s.putStalls v).reset? = s.reset? := (rfl)
@[simp] theorem State.putStalls_resetQ : (s.putStalls v).resetQ = s.resetQ := (rfl)
@[simp] theorem State.putStalls_resetsDone : (s.putStalls v).resetsDone = s.resetsDone := (rfl)
@[simp] theorem State.putStalls_captures : (s.putStalls v).captures = s.captures := (rfl)
@[simp] theorem State.putStalls_capture : (s.putStalls v).capture = s.capture := (rfl)
@[simp] theorem State.putStalls_capQ : (s.putStalls v).capQ = s.capQ := (rfl)
@[simp] theorem State.putStalls_scan : (s.putStalls v).scan = s.scan := (rfl)
@[simp] theorem State.putStalls_hangs : (s.putStalls v).hangs = s.hangs := (rfl)
@[simp] theorem State.putStalls_stalls : (s.putStalls v).stalls = v := (rfl)
@[simp] theorem State.putStalls_power : (s.putStalls v).power = s.power := (rfl)
@[simp] theorem State.putStalls_wb : (s.putStalls v).wb = s.wb := (rfl)
end

section
variable (s : State) (v : Power)
@[simp] theorem State.putPower_pending : (s.putPower v).pending = s.pending := (rfl)
@[simp] theorem State.putPower_cycle : (s.putPower v).cycle = s.cycle := (rfl)
@[simp] theorem State.putPower_grade : (s.putPower v).grade = s.grade := (rfl)
@[simp] theorem State.putPower_freeCtr : (s.putPower v).freeCtr = s.freeCtr := (rfl)
@[simp] theorem State.putPower_out : (s.putPower v).out = s.out := (rfl)
@[simp] theorem State.putPower_mem : (s.putPower v).mem = s.mem := (rfl)
@[simp] theorem State.putPower_poison : (s.putPower v).poison = s.poison := (rfl)
@[simp] theorem State.putPower_regs : (s.putPower v).regs = s.regs := (rfl)
@[simp] theorem State.putPower_ports : (s.putPower v).ports = s.ports := (rfl)
@[simp] theorem State.putPower_laneMap : (s.putPower v).laneMap = s.laneMap := (rfl)
@[simp] theorem State.putPower_mapFixed : (s.putPower v).mapFixed = s.mapFixed := (rfl)
@[simp] theorem State.putPower_slots : (s.putPower v).slots = s.slots := (rfl)
@[simp] theorem State.putPower_queues : (s.putPower v).queues = s.queues := (rfl)
@[simp] theorem State.putPower_xin : (s.putPower v).xin = s.xin := (rfl)
@[simp] theorem State.putPower_xinLast : (s.putPower v).xinLast = s.xinLast := (rfl)
@[simp] theorem State.putPower_heldCells : (s.putPower v).heldCells = s.heldCells := (rfl)
@[simp] theorem State.putPower_retiredSlots : (s.putPower v).retiredSlots = s.retiredSlots := (rfl)
@[simp] theorem State.putPower_floor : (s.putPower v).floor = s.floor := (rfl)
@[simp] theorem State.putPower_mirrors : (s.putPower v).mirrors = s.mirrors := (rfl)
@[simp] theorem State.putPower_mirrorMade : (s.putPower v).mirrorMade = s.mirrorMade := (rfl)
@[simp] theorem State.putPower_sampleNext : (s.putPower v).sampleNext = s.sampleNext := (rfl)
@[simp] theorem State.putPower_sampleRead : (s.putPower v).sampleRead = s.sampleRead := (rfl)
@[simp] theorem State.putPower_smpStart : (s.putPower v).smpStart = s.smpStart := (rfl)
@[simp] theorem State.putPower_fails : (s.putPower v).fails = s.fails := (rfl)
@[simp] theorem State.putPower_echoes : (s.putPower v).echoes = s.echoes := (rfl)
@[simp] theorem State.putPower_echoGaps : (s.putPower v).echoGaps = s.echoGaps := (rfl)
@[simp] theorem State.putPower_noReturn : (s.putPower v).noReturn = s.noReturn := (rfl)
@[simp] theorem State.putPower_tiles : (s.putPower v).tiles = s.tiles := (rfl)
@[simp] theorem State.putPower_tileMap : (s.putPower v).tileMap = s.tileMap := (rfl)
@[simp] theorem State.putPower_failedTiles : (s.putPower v).failedTiles = s.failedTiles := (rfl)
@[simp] theorem State.putPower_candidates : (s.putPower v).candidates = s.candidates := (rfl)
@[simp] theorem State.putPower_inboxes : (s.putPower v).inboxes = s.inboxes := (rfl)
@[simp] theorem State.putPower_ctxs : (s.putPower v).ctxs = s.ctxs := (rfl)
@[simp] theorem State.putPower_ringPass : (s.putPower v).ringPass = s.ringPass := (rfl)
@[simp] theorem State.putPower_plans : (s.putPower v).plans = s.plans := (rfl)
@[simp] theorem State.putPower_planFp : (s.putPower v).planFp = s.planFp := (rfl)
@[simp] theorem State.putPower_groups : (s.putPower v).groups = s.groups := (rfl)
@[simp] theorem State.putPower_wmInbox : (s.putPower v).wmInbox = s.wmInbox := (rfl)
@[simp] theorem State.putPower_sets : (s.putPower v).sets = s.sets := (rfl)
@[simp] theorem State.putPower_ehts : (s.putPower v).ehts = s.ehts := (rfl)
@[simp] theorem State.putPower_expOpen : (s.putPower v).expOpen = s.expOpen := (rfl)
@[simp] theorem State.putPower_expIn : (s.putPower v).expIn = s.expIn := (rfl)
@[simp] theorem State.putPower_expWait : (s.putPower v).expWait = s.expWait := (rfl)
@[simp] theorem State.putPower_atomics : (s.putPower v).atomics = s.atomics := (rfl)
@[simp] theorem State.putPower_owners : (s.putPower v).owners = s.owners := (rfl)
@[simp] theorem State.putPower_bufs : (s.putPower v).bufs = s.bufs := (rfl)
@[simp] theorem State.putPower_pools : (s.putPower v).pools = s.pools := (rfl)
@[simp] theorem State.putPower_waiters : (s.putPower v).waiters = s.waiters := (rfl)
@[simp] theorem State.putPower_grants : (s.putPower v).grants = s.grants := (rfl)
@[simp] theorem State.putPower_rowErrs : (s.putPower v).rowErrs = s.rowErrs := (rfl)
@[simp] theorem State.putPower_pageErrs : (s.putPower v).pageErrs = s.pageErrs := (rfl)
@[simp] theorem State.putPower_pageHeld : (s.putPower v).pageHeld = s.pageHeld := (rfl)
@[simp] theorem State.putPower_pages : (s.putPower v).pages = s.pages := (rfl)
@[simp] theorem State.putPower_sparedRows : (s.putPower v).sparedRows = s.sparedRows := (rfl)
@[simp] theorem State.putPower_patrolAt : (s.putPower v).patrolAt = s.patrolAt := (rfl)
@[simp] theorem State.putPower_sramAt : (s.putPower v).sramAt = s.sramAt := (rfl)
@[simp] theorem State.putPower_selfRefresh : (s.putPower v).selfRefresh = s.selfRefresh := (rfl)
@[simp] theorem State.putPower_refreshing : (s.putPower v).refreshing = s.refreshing := (rfl)
@[simp] theorem State.putPower_sessions : (s.putPower v).sessions = s.sessions := (rfl)
@[simp] theorem State.putPower_hpActive : (s.putPower v).hpActive = s.hpActive := (rfl)
@[simp] theorem State.putPower_hpApply : (s.putPower v).hpApply = s.hpApply := (rfl)
@[simp] theorem State.putPower_hostLink : (s.putPower v).hostLink = s.hostLink := (rfl)
@[simp] theorem State.putPower_zctWait : (s.putPower v).zctWait = s.zctWait := (rfl)
@[simp] theorem State.putPower_flash : (s.putPower v).flash = s.flash := (rfl)
@[simp] theorem State.putPower_bootSlots : (s.putPower v).bootSlots = s.bootSlots := (rfl)
@[simp] theorem State.putPower_cert : (s.putPower v).cert = s.cert := (rfl)
@[simp] theorem State.putPower_jorou : (s.putPower v).jorou = s.jorou := (rfl)
@[simp] theorem State.putPower_wear : (s.putPower v).wear = s.wear := (rfl)
@[simp] theorem State.putPower_ledger : (s.putPower v).ledger = s.ledger := (rfl)
@[simp] theorem State.putPower_resetOp : (s.putPower v).reset? = s.reset? := (rfl)
@[simp] theorem State.putPower_resetQ : (s.putPower v).resetQ = s.resetQ := (rfl)
@[simp] theorem State.putPower_resetsDone : (s.putPower v).resetsDone = s.resetsDone := (rfl)
@[simp] theorem State.putPower_captures : (s.putPower v).captures = s.captures := (rfl)
@[simp] theorem State.putPower_capture : (s.putPower v).capture = s.capture := (rfl)
@[simp] theorem State.putPower_capQ : (s.putPower v).capQ = s.capQ := (rfl)
@[simp] theorem State.putPower_scan : (s.putPower v).scan = s.scan := (rfl)
@[simp] theorem State.putPower_hangs : (s.putPower v).hangs = s.hangs := (rfl)
@[simp] theorem State.putPower_stalls : (s.putPower v).stalls = s.stalls := (rfl)
@[simp] theorem State.putPower_power : (s.putPower v).power = v := (rfl)
@[simp] theorem State.putPower_wb : (s.putPower v).wb = s.wb := (rfl)
end

section
variable (s : State) (v : WaterBook)
@[simp] theorem State.putWb_pending : (s.putWb v).pending = s.pending := (rfl)
@[simp] theorem State.putWb_cycle : (s.putWb v).cycle = s.cycle := (rfl)
@[simp] theorem State.putWb_grade : (s.putWb v).grade = s.grade := (rfl)
@[simp] theorem State.putWb_freeCtr : (s.putWb v).freeCtr = s.freeCtr := (rfl)
@[simp] theorem State.putWb_out : (s.putWb v).out = s.out := (rfl)
@[simp] theorem State.putWb_mem : (s.putWb v).mem = s.mem := (rfl)
@[simp] theorem State.putWb_poison : (s.putWb v).poison = s.poison := (rfl)
@[simp] theorem State.putWb_regs : (s.putWb v).regs = s.regs := (rfl)
@[simp] theorem State.putWb_ports : (s.putWb v).ports = s.ports := (rfl)
@[simp] theorem State.putWb_laneMap : (s.putWb v).laneMap = s.laneMap := (rfl)
@[simp] theorem State.putWb_mapFixed : (s.putWb v).mapFixed = s.mapFixed := (rfl)
@[simp] theorem State.putWb_slots : (s.putWb v).slots = s.slots := (rfl)
@[simp] theorem State.putWb_queues : (s.putWb v).queues = s.queues := (rfl)
@[simp] theorem State.putWb_xin : (s.putWb v).xin = s.xin := (rfl)
@[simp] theorem State.putWb_xinLast : (s.putWb v).xinLast = s.xinLast := (rfl)
@[simp] theorem State.putWb_heldCells : (s.putWb v).heldCells = s.heldCells := (rfl)
@[simp] theorem State.putWb_retiredSlots : (s.putWb v).retiredSlots = s.retiredSlots := (rfl)
@[simp] theorem State.putWb_floor : (s.putWb v).floor = s.floor := (rfl)
@[simp] theorem State.putWb_mirrors : (s.putWb v).mirrors = s.mirrors := (rfl)
@[simp] theorem State.putWb_mirrorMade : (s.putWb v).mirrorMade = s.mirrorMade := (rfl)
@[simp] theorem State.putWb_sampleNext : (s.putWb v).sampleNext = s.sampleNext := (rfl)
@[simp] theorem State.putWb_sampleRead : (s.putWb v).sampleRead = s.sampleRead := (rfl)
@[simp] theorem State.putWb_smpStart : (s.putWb v).smpStart = s.smpStart := (rfl)
@[simp] theorem State.putWb_fails : (s.putWb v).fails = s.fails := (rfl)
@[simp] theorem State.putWb_echoes : (s.putWb v).echoes = s.echoes := (rfl)
@[simp] theorem State.putWb_echoGaps : (s.putWb v).echoGaps = s.echoGaps := (rfl)
@[simp] theorem State.putWb_noReturn : (s.putWb v).noReturn = s.noReturn := (rfl)
@[simp] theorem State.putWb_tiles : (s.putWb v).tiles = s.tiles := (rfl)
@[simp] theorem State.putWb_tileMap : (s.putWb v).tileMap = s.tileMap := (rfl)
@[simp] theorem State.putWb_failedTiles : (s.putWb v).failedTiles = s.failedTiles := (rfl)
@[simp] theorem State.putWb_candidates : (s.putWb v).candidates = s.candidates := (rfl)
@[simp] theorem State.putWb_inboxes : (s.putWb v).inboxes = s.inboxes := (rfl)
@[simp] theorem State.putWb_ctxs : (s.putWb v).ctxs = s.ctxs := (rfl)
@[simp] theorem State.putWb_ringPass : (s.putWb v).ringPass = s.ringPass := (rfl)
@[simp] theorem State.putWb_plans : (s.putWb v).plans = s.plans := (rfl)
@[simp] theorem State.putWb_planFp : (s.putWb v).planFp = s.planFp := (rfl)
@[simp] theorem State.putWb_groups : (s.putWb v).groups = s.groups := (rfl)
@[simp] theorem State.putWb_wmInbox : (s.putWb v).wmInbox = s.wmInbox := (rfl)
@[simp] theorem State.putWb_sets : (s.putWb v).sets = s.sets := (rfl)
@[simp] theorem State.putWb_ehts : (s.putWb v).ehts = s.ehts := (rfl)
@[simp] theorem State.putWb_expOpen : (s.putWb v).expOpen = s.expOpen := (rfl)
@[simp] theorem State.putWb_expIn : (s.putWb v).expIn = s.expIn := (rfl)
@[simp] theorem State.putWb_expWait : (s.putWb v).expWait = s.expWait := (rfl)
@[simp] theorem State.putWb_atomics : (s.putWb v).atomics = s.atomics := (rfl)
@[simp] theorem State.putWb_owners : (s.putWb v).owners = s.owners := (rfl)
@[simp] theorem State.putWb_bufs : (s.putWb v).bufs = s.bufs := (rfl)
@[simp] theorem State.putWb_pools : (s.putWb v).pools = s.pools := (rfl)
@[simp] theorem State.putWb_waiters : (s.putWb v).waiters = s.waiters := (rfl)
@[simp] theorem State.putWb_grants : (s.putWb v).grants = s.grants := (rfl)
@[simp] theorem State.putWb_rowErrs : (s.putWb v).rowErrs = s.rowErrs := (rfl)
@[simp] theorem State.putWb_pageErrs : (s.putWb v).pageErrs = s.pageErrs := (rfl)
@[simp] theorem State.putWb_pageHeld : (s.putWb v).pageHeld = s.pageHeld := (rfl)
@[simp] theorem State.putWb_pages : (s.putWb v).pages = s.pages := (rfl)
@[simp] theorem State.putWb_sparedRows : (s.putWb v).sparedRows = s.sparedRows := (rfl)
@[simp] theorem State.putWb_patrolAt : (s.putWb v).patrolAt = s.patrolAt := (rfl)
@[simp] theorem State.putWb_sramAt : (s.putWb v).sramAt = s.sramAt := (rfl)
@[simp] theorem State.putWb_selfRefresh : (s.putWb v).selfRefresh = s.selfRefresh := (rfl)
@[simp] theorem State.putWb_refreshing : (s.putWb v).refreshing = s.refreshing := (rfl)
@[simp] theorem State.putWb_sessions : (s.putWb v).sessions = s.sessions := (rfl)
@[simp] theorem State.putWb_hpActive : (s.putWb v).hpActive = s.hpActive := (rfl)
@[simp] theorem State.putWb_hpApply : (s.putWb v).hpApply = s.hpApply := (rfl)
@[simp] theorem State.putWb_hostLink : (s.putWb v).hostLink = s.hostLink := (rfl)
@[simp] theorem State.putWb_zctWait : (s.putWb v).zctWait = s.zctWait := (rfl)
@[simp] theorem State.putWb_flash : (s.putWb v).flash = s.flash := (rfl)
@[simp] theorem State.putWb_bootSlots : (s.putWb v).bootSlots = s.bootSlots := (rfl)
@[simp] theorem State.putWb_cert : (s.putWb v).cert = s.cert := (rfl)
@[simp] theorem State.putWb_jorou : (s.putWb v).jorou = s.jorou := (rfl)
@[simp] theorem State.putWb_wear : (s.putWb v).wear = s.wear := (rfl)
@[simp] theorem State.putWb_ledger : (s.putWb v).ledger = s.ledger := (rfl)
@[simp] theorem State.putWb_resetOp : (s.putWb v).reset? = s.reset? := (rfl)
@[simp] theorem State.putWb_resetQ : (s.putWb v).resetQ = s.resetQ := (rfl)
@[simp] theorem State.putWb_resetsDone : (s.putWb v).resetsDone = s.resetsDone := (rfl)
@[simp] theorem State.putWb_captures : (s.putWb v).captures = s.captures := (rfl)
@[simp] theorem State.putWb_capture : (s.putWb v).capture = s.capture := (rfl)
@[simp] theorem State.putWb_capQ : (s.putWb v).capQ = s.capQ := (rfl)
@[simp] theorem State.putWb_scan : (s.putWb v).scan = s.scan := (rfl)
@[simp] theorem State.putWb_hangs : (s.putWb v).hangs = s.hangs := (rfl)
@[simp] theorem State.putWb_stalls : (s.putWb v).stalls = s.stalls := (rfl)
@[simp] theorem State.putWb_power : (s.putWb v).power = s.power := (rfl)
@[simp] theorem State.putWb_wb : (s.putWb v).wb = v := (rfl)
end

end Sys2Proof.Machine
end

