-- ==== Sys2Proof/Laws/State.lean ====
section
/-! SUPPORT. Sys2Proof/Laws/State.lean: what each named update of the state leaves as it was, one lemma per field and
update. -/

namespace Sys2Proof.Machine

/-! ### wr -/

@[simp] theorem State.wr_pending (s : State) (r : Reg) (v : Word) : (s.wr r v).pending = s.pending := (rfl)
@[simp] theorem State.wr_cycle (s : State) (r : Reg) (v : Word) : (s.wr r v).cycle = s.cycle := (rfl)
@[simp] theorem State.wr_grade (s : State) (r : Reg) (v : Word) : (s.wr r v).grade = s.grade := (rfl)
@[simp] theorem State.wr_freeCtr (s : State) (r : Reg) (v : Word) : (s.wr r v).freeCtr = s.freeCtr := (rfl)
@[simp] theorem State.wr_out (s : State) (r : Reg) (v : Word) : (s.wr r v).out = s.out := (rfl)
@[simp] theorem State.wr_mem (s : State) (r : Reg) (v : Word) : (s.wr r v).mem = s.mem := (rfl)
@[simp] theorem State.wr_poison (s : State) (r : Reg) (v : Word) : (s.wr r v).poison = s.poison := (rfl)
@[simp] theorem State.wr_ports (s : State) (r : Reg) (v : Word) : (s.wr r v).ports = s.ports := (rfl)
@[simp] theorem State.wr_laneMap (s : State) (r : Reg) (v : Word) : (s.wr r v).laneMap = s.laneMap := (rfl)
@[simp] theorem State.wr_mapFixed (s : State) (r : Reg) (v : Word) : (s.wr r v).mapFixed = s.mapFixed := (rfl)
@[simp] theorem State.wr_slots (s : State) (r : Reg) (v : Word) : (s.wr r v).slots = s.slots := (rfl)
@[simp] theorem State.wr_queues (s : State) (r : Reg) (v : Word) : (s.wr r v).queues = s.queues := (rfl)
@[simp] theorem State.wr_xin (s : State) (r : Reg) (v : Word) : (s.wr r v).xin = s.xin := (rfl)
@[simp] theorem State.wr_xinLast (s : State) (r : Reg) (v : Word) : (s.wr r v).xinLast = s.xinLast := (rfl)
@[simp] theorem State.wr_heldCells (s : State) (r : Reg) (v : Word) : (s.wr r v).heldCells = s.heldCells := (rfl)
@[simp] theorem State.wr_retiredSlots (s : State) (r : Reg) (v : Word) : (s.wr r v).retiredSlots = s.retiredSlots := (rfl)
@[simp] theorem State.wr_floor (s : State) (r : Reg) (v : Word) : (s.wr r v).floor = s.floor := (rfl)
@[simp] theorem State.wr_mirrors (s : State) (r : Reg) (v : Word) : (s.wr r v).mirrors = s.mirrors := (rfl)
@[simp] theorem State.wr_mirrorMade (s : State) (r : Reg) (v : Word) : (s.wr r v).mirrorMade = s.mirrorMade := (rfl)
@[simp] theorem State.wr_sampleNext (s : State) (r : Reg) (v : Word) : (s.wr r v).sampleNext = s.sampleNext := (rfl)
@[simp] theorem State.wr_sampleRead (s : State) (r : Reg) (v : Word) : (s.wr r v).sampleRead = s.sampleRead := (rfl)
@[simp] theorem State.wr_smpStart (s : State) (r : Reg) (v : Word) : (s.wr r v).smpStart = s.smpStart := (rfl)
@[simp] theorem State.wr_fails (s : State) (r : Reg) (v : Word) : (s.wr r v).fails = s.fails := (rfl)
@[simp] theorem State.wr_echoes (s : State) (r : Reg) (v : Word) : (s.wr r v).echoes = s.echoes := (rfl)
@[simp] theorem State.wr_echoGaps (s : State) (r : Reg) (v : Word) : (s.wr r v).echoGaps = s.echoGaps := (rfl)
@[simp] theorem State.wr_noReturn (s : State) (r : Reg) (v : Word) : (s.wr r v).noReturn = s.noReturn := (rfl)
@[simp] theorem State.wr_tiles (s : State) (r : Reg) (v : Word) : (s.wr r v).tiles = s.tiles := (rfl)
@[simp] theorem State.wr_tileMap (s : State) (r : Reg) (v : Word) : (s.wr r v).tileMap = s.tileMap := (rfl)
@[simp] theorem State.wr_failedTiles (s : State) (r : Reg) (v : Word) : (s.wr r v).failedTiles = s.failedTiles := (rfl)
@[simp] theorem State.wr_candidates (s : State) (r : Reg) (v : Word) : (s.wr r v).candidates = s.candidates := (rfl)
@[simp] theorem State.wr_inboxes (s : State) (r : Reg) (v : Word) : (s.wr r v).inboxes = s.inboxes := (rfl)
@[simp] theorem State.wr_ctxs (s : State) (r : Reg) (v : Word) : (s.wr r v).ctxs = s.ctxs := (rfl)
@[simp] theorem State.wr_ringPass (s : State) (r : Reg) (v : Word) : (s.wr r v).ringPass = s.ringPass := (rfl)
@[simp] theorem State.wr_plans (s : State) (r : Reg) (v : Word) : (s.wr r v).plans = s.plans := (rfl)
@[simp] theorem State.wr_planFp (s : State) (r : Reg) (v : Word) : (s.wr r v).planFp = s.planFp := (rfl)
@[simp] theorem State.wr_groups (s : State) (r : Reg) (v : Word) : (s.wr r v).groups = s.groups := (rfl)
@[simp] theorem State.wr_wmInbox (s : State) (r : Reg) (v : Word) : (s.wr r v).wmInbox = s.wmInbox := (rfl)
@[simp] theorem State.wr_sets (s : State) (r : Reg) (v : Word) : (s.wr r v).sets = s.sets := (rfl)
@[simp] theorem State.wr_ehts (s : State) (r : Reg) (v : Word) : (s.wr r v).ehts = s.ehts := (rfl)
@[simp] theorem State.wr_expOpen (s : State) (r : Reg) (v : Word) : (s.wr r v).expOpen = s.expOpen := (rfl)
@[simp] theorem State.wr_expIn (s : State) (r : Reg) (v : Word) : (s.wr r v).expIn = s.expIn := (rfl)
@[simp] theorem State.wr_expWait (s : State) (r : Reg) (v : Word) : (s.wr r v).expWait = s.expWait := (rfl)
@[simp] theorem State.wr_atomics (s : State) (r : Reg) (v : Word) : (s.wr r v).atomics = s.atomics := (rfl)
@[simp] theorem State.wr_owners (s : State) (r : Reg) (v : Word) : (s.wr r v).owners = s.owners := (rfl)
@[simp] theorem State.wr_bufs (s : State) (r : Reg) (v : Word) : (s.wr r v).bufs = s.bufs := (rfl)
@[simp] theorem State.wr_pools (s : State) (r : Reg) (v : Word) : (s.wr r v).pools = s.pools := (rfl)
@[simp] theorem State.wr_waiters (s : State) (r : Reg) (v : Word) : (s.wr r v).waiters = s.waiters := (rfl)
@[simp] theorem State.wr_grants (s : State) (r : Reg) (v : Word) : (s.wr r v).grants = s.grants := (rfl)
@[simp] theorem State.wr_rowErrs (s : State) (r : Reg) (v : Word) : (s.wr r v).rowErrs = s.rowErrs := (rfl)
@[simp] theorem State.wr_pageErrs (s : State) (r : Reg) (v : Word) : (s.wr r v).pageErrs = s.pageErrs := (rfl)
@[simp] theorem State.wr_pageHeld (s : State) (r : Reg) (v : Word) : (s.wr r v).pageHeld = s.pageHeld := (rfl)
@[simp] theorem State.wr_pages (s : State) (r : Reg) (v : Word) : (s.wr r v).pages = s.pages := (rfl)
@[simp] theorem State.wr_sparedRows (s : State) (r : Reg) (v : Word) : (s.wr r v).sparedRows = s.sparedRows := (rfl)
@[simp] theorem State.wr_patrolAt (s : State) (r : Reg) (v : Word) : (s.wr r v).patrolAt = s.patrolAt := (rfl)
@[simp] theorem State.wr_sramAt (s : State) (r : Reg) (v : Word) : (s.wr r v).sramAt = s.sramAt := (rfl)
@[simp] theorem State.wr_selfRefresh (s : State) (r : Reg) (v : Word) : (s.wr r v).selfRefresh = s.selfRefresh := (rfl)
@[simp] theorem State.wr_refreshing (s : State) (r : Reg) (v : Word) : (s.wr r v).refreshing = s.refreshing := (rfl)
@[simp] theorem State.wr_sessions (s : State) (r : Reg) (v : Word) : (s.wr r v).sessions = s.sessions := (rfl)
@[simp] theorem State.wr_hpActive (s : State) (r : Reg) (v : Word) : (s.wr r v).hpActive = s.hpActive := (rfl)
@[simp] theorem State.wr_hpApply (s : State) (r : Reg) (v : Word) : (s.wr r v).hpApply = s.hpApply := (rfl)
@[simp] theorem State.wr_hostLink (s : State) (r : Reg) (v : Word) : (s.wr r v).hostLink = s.hostLink := (rfl)
@[simp] theorem State.wr_zctWait (s : State) (r : Reg) (v : Word) : (s.wr r v).zctWait = s.zctWait := (rfl)
@[simp] theorem State.wr_flash (s : State) (r : Reg) (v : Word) : (s.wr r v).flash = s.flash := (rfl)
@[simp] theorem State.wr_bootSlots (s : State) (r : Reg) (v : Word) : (s.wr r v).bootSlots = s.bootSlots := (rfl)
@[simp] theorem State.wr_cert (s : State) (r : Reg) (v : Word) : (s.wr r v).cert = s.cert := (rfl)
@[simp] theorem State.wr_jorou (s : State) (r : Reg) (v : Word) : (s.wr r v).jorou = s.jorou := (rfl)
@[simp] theorem State.wr_wear (s : State) (r : Reg) (v : Word) : (s.wr r v).wear = s.wear := (rfl)
@[simp] theorem State.wr_ledger (s : State) (r : Reg) (v : Word) : (s.wr r v).ledger = s.ledger := (rfl)
@[simp] theorem State.wr_resetOp (s : State) (r : Reg) (v : Word) : (s.wr r v).reset? = s.reset? := (rfl)
@[simp] theorem State.wr_resetQ (s : State) (r : Reg) (v : Word) : (s.wr r v).resetQ = s.resetQ := (rfl)
@[simp] theorem State.wr_resetsDone (s : State) (r : Reg) (v : Word) : (s.wr r v).resetsDone = s.resetsDone := (rfl)
@[simp] theorem State.wr_captures (s : State) (r : Reg) (v : Word) : (s.wr r v).captures = s.captures := (rfl)
@[simp] theorem State.wr_capture (s : State) (r : Reg) (v : Word) : (s.wr r v).capture = s.capture := (rfl)
@[simp] theorem State.wr_capQ (s : State) (r : Reg) (v : Word) : (s.wr r v).capQ = s.capQ := (rfl)
@[simp] theorem State.wr_scan (s : State) (r : Reg) (v : Word) : (s.wr r v).scan = s.scan := (rfl)
@[simp] theorem State.wr_hangs (s : State) (r : Reg) (v : Word) : (s.wr r v).hangs = s.hangs := (rfl)
@[simp] theorem State.wr_stalls (s : State) (r : Reg) (v : Word) : (s.wr r v).stalls = s.stalls := (rfl)
@[simp] theorem State.wr_power (s : State) (r : Reg) (v : Word) : (s.wr r v).power = s.power := (rfl)
@[simp] theorem State.wr_wb (s : State) (r : Reg) (v : Word) : (s.wr r v).wb = s.wb := (rfl)

/-! ### setFld -/

@[simp] theorem State.setFld_pending (s : State) (r : Reg) (f : Fld) (v : Nat) : (s.setFld r f v).pending = s.pending := (rfl)
@[simp] theorem State.setFld_cycle (s : State) (r : Reg) (f : Fld) (v : Nat) : (s.setFld r f v).cycle = s.cycle := (rfl)
@[simp] theorem State.setFld_grade (s : State) (r : Reg) (f : Fld) (v : Nat) : (s.setFld r f v).grade = s.grade := (rfl)
@[simp] theorem State.setFld_freeCtr (s : State) (r : Reg) (f : Fld) (v : Nat) : (s.setFld r f v).freeCtr = s.freeCtr := (rfl)
@[simp] theorem State.setFld_out (s : State) (r : Reg) (f : Fld) (v : Nat) : (s.setFld r f v).out = s.out := (rfl)
@[simp] theorem State.setFld_mem (s : State) (r : Reg) (f : Fld) (v : Nat) : (s.setFld r f v).mem = s.mem := (rfl)
@[simp] theorem State.setFld_poison (s : State) (r : Reg) (f : Fld) (v : Nat) : (s.setFld r f v).poison = s.poison := (rfl)
@[simp] theorem State.setFld_ports (s : State) (r : Reg) (f : Fld) (v : Nat) : (s.setFld r f v).ports = s.ports := (rfl)
@[simp] theorem State.setFld_laneMap (s : State) (r : Reg) (f : Fld) (v : Nat) : (s.setFld r f v).laneMap = s.laneMap := (rfl)
@[simp] theorem State.setFld_mapFixed (s : State) (r : Reg) (f : Fld) (v : Nat) : (s.setFld r f v).mapFixed = s.mapFixed := (rfl)
@[simp] theorem State.setFld_slots (s : State) (r : Reg) (f : Fld) (v : Nat) : (s.setFld r f v).slots = s.slots := (rfl)
@[simp] theorem State.setFld_queues (s : State) (r : Reg) (f : Fld) (v : Nat) : (s.setFld r f v).queues = s.queues := (rfl)
@[simp] theorem State.setFld_xin (s : State) (r : Reg) (f : Fld) (v : Nat) : (s.setFld r f v).xin = s.xin := (rfl)
@[simp] theorem State.setFld_xinLast (s : State) (r : Reg) (f : Fld) (v : Nat) : (s.setFld r f v).xinLast = s.xinLast := (rfl)
@[simp] theorem State.setFld_heldCells (s : State) (r : Reg) (f : Fld) (v : Nat) : (s.setFld r f v).heldCells = s.heldCells := (rfl)
@[simp] theorem State.setFld_retiredSlots (s : State) (r : Reg) (f : Fld) (v : Nat) : (s.setFld r f v).retiredSlots = s.retiredSlots := (rfl)
@[simp] theorem State.setFld_floor (s : State) (r : Reg) (f : Fld) (v : Nat) : (s.setFld r f v).floor = s.floor := (rfl)
@[simp] theorem State.setFld_mirrors (s : State) (r : Reg) (f : Fld) (v : Nat) : (s.setFld r f v).mirrors = s.mirrors := (rfl)
@[simp] theorem State.setFld_mirrorMade (s : State) (r : Reg) (f : Fld) (v : Nat) : (s.setFld r f v).mirrorMade = s.mirrorMade := (rfl)
@[simp] theorem State.setFld_sampleNext (s : State) (r : Reg) (f : Fld) (v : Nat) : (s.setFld r f v).sampleNext = s.sampleNext := (rfl)
@[simp] theorem State.setFld_sampleRead (s : State) (r : Reg) (f : Fld) (v : Nat) : (s.setFld r f v).sampleRead = s.sampleRead := (rfl)
@[simp] theorem State.setFld_smpStart (s : State) (r : Reg) (f : Fld) (v : Nat) : (s.setFld r f v).smpStart = s.smpStart := (rfl)
@[simp] theorem State.setFld_fails (s : State) (r : Reg) (f : Fld) (v : Nat) : (s.setFld r f v).fails = s.fails := (rfl)
@[simp] theorem State.setFld_echoes (s : State) (r : Reg) (f : Fld) (v : Nat) : (s.setFld r f v).echoes = s.echoes := (rfl)
@[simp] theorem State.setFld_echoGaps (s : State) (r : Reg) (f : Fld) (v : Nat) : (s.setFld r f v).echoGaps = s.echoGaps := (rfl)
@[simp] theorem State.setFld_noReturn (s : State) (r : Reg) (f : Fld) (v : Nat) : (s.setFld r f v).noReturn = s.noReturn := (rfl)
@[simp] theorem State.setFld_tiles (s : State) (r : Reg) (f : Fld) (v : Nat) : (s.setFld r f v).tiles = s.tiles := (rfl)
@[simp] theorem State.setFld_tileMap (s : State) (r : Reg) (f : Fld) (v : Nat) : (s.setFld r f v).tileMap = s.tileMap := (rfl)
@[simp] theorem State.setFld_failedTiles (s : State) (r : Reg) (f : Fld) (v : Nat) : (s.setFld r f v).failedTiles = s.failedTiles := (rfl)
@[simp] theorem State.setFld_candidates (s : State) (r : Reg) (f : Fld) (v : Nat) : (s.setFld r f v).candidates = s.candidates := (rfl)
@[simp] theorem State.setFld_inboxes (s : State) (r : Reg) (f : Fld) (v : Nat) : (s.setFld r f v).inboxes = s.inboxes := (rfl)
@[simp] theorem State.setFld_ctxs (s : State) (r : Reg) (f : Fld) (v : Nat) : (s.setFld r f v).ctxs = s.ctxs := (rfl)
@[simp] theorem State.setFld_ringPass (s : State) (r : Reg) (f : Fld) (v : Nat) : (s.setFld r f v).ringPass = s.ringPass := (rfl)
@[simp] theorem State.setFld_plans (s : State) (r : Reg) (f : Fld) (v : Nat) : (s.setFld r f v).plans = s.plans := (rfl)
@[simp] theorem State.setFld_planFp (s : State) (r : Reg) (f : Fld) (v : Nat) : (s.setFld r f v).planFp = s.planFp := (rfl)
@[simp] theorem State.setFld_groups (s : State) (r : Reg) (f : Fld) (v : Nat) : (s.setFld r f v).groups = s.groups := (rfl)
@[simp] theorem State.setFld_wmInbox (s : State) (r : Reg) (f : Fld) (v : Nat) : (s.setFld r f v).wmInbox = s.wmInbox := (rfl)
@[simp] theorem State.setFld_sets (s : State) (r : Reg) (f : Fld) (v : Nat) : (s.setFld r f v).sets = s.sets := (rfl)
@[simp] theorem State.setFld_ehts (s : State) (r : Reg) (f : Fld) (v : Nat) : (s.setFld r f v).ehts = s.ehts := (rfl)
@[simp] theorem State.setFld_expOpen (s : State) (r : Reg) (f : Fld) (v : Nat) : (s.setFld r f v).expOpen = s.expOpen := (rfl)
@[simp] theorem State.setFld_expIn (s : State) (r : Reg) (f : Fld) (v : Nat) : (s.setFld r f v).expIn = s.expIn := (rfl)
@[simp] theorem State.setFld_expWait (s : State) (r : Reg) (f : Fld) (v : Nat) : (s.setFld r f v).expWait = s.expWait := (rfl)
@[simp] theorem State.setFld_atomics (s : State) (r : Reg) (f : Fld) (v : Nat) : (s.setFld r f v).atomics = s.atomics := (rfl)
@[simp] theorem State.setFld_owners (s : State) (r : Reg) (f : Fld) (v : Nat) : (s.setFld r f v).owners = s.owners := (rfl)
@[simp] theorem State.setFld_bufs (s : State) (r : Reg) (f : Fld) (v : Nat) : (s.setFld r f v).bufs = s.bufs := (rfl)
@[simp] theorem State.setFld_pools (s : State) (r : Reg) (f : Fld) (v : Nat) : (s.setFld r f v).pools = s.pools := (rfl)
@[simp] theorem State.setFld_waiters (s : State) (r : Reg) (f : Fld) (v : Nat) : (s.setFld r f v).waiters = s.waiters := (rfl)
@[simp] theorem State.setFld_grants (s : State) (r : Reg) (f : Fld) (v : Nat) : (s.setFld r f v).grants = s.grants := (rfl)
@[simp] theorem State.setFld_rowErrs (s : State) (r : Reg) (f : Fld) (v : Nat) : (s.setFld r f v).rowErrs = s.rowErrs := (rfl)
@[simp] theorem State.setFld_pageErrs (s : State) (r : Reg) (f : Fld) (v : Nat) : (s.setFld r f v).pageErrs = s.pageErrs := (rfl)
@[simp] theorem State.setFld_pageHeld (s : State) (r : Reg) (f : Fld) (v : Nat) : (s.setFld r f v).pageHeld = s.pageHeld := (rfl)
@[simp] theorem State.setFld_pages (s : State) (r : Reg) (f : Fld) (v : Nat) : (s.setFld r f v).pages = s.pages := (rfl)
@[simp] theorem State.setFld_sparedRows (s : State) (r : Reg) (f : Fld) (v : Nat) : (s.setFld r f v).sparedRows = s.sparedRows := (rfl)
@[simp] theorem State.setFld_patrolAt (s : State) (r : Reg) (f : Fld) (v : Nat) : (s.setFld r f v).patrolAt = s.patrolAt := (rfl)
@[simp] theorem State.setFld_sramAt (s : State) (r : Reg) (f : Fld) (v : Nat) : (s.setFld r f v).sramAt = s.sramAt := (rfl)
@[simp] theorem State.setFld_selfRefresh (s : State) (r : Reg) (f : Fld) (v : Nat) : (s.setFld r f v).selfRefresh = s.selfRefresh := (rfl)
@[simp] theorem State.setFld_refreshing (s : State) (r : Reg) (f : Fld) (v : Nat) : (s.setFld r f v).refreshing = s.refreshing := (rfl)
@[simp] theorem State.setFld_sessions (s : State) (r : Reg) (f : Fld) (v : Nat) : (s.setFld r f v).sessions = s.sessions := (rfl)
@[simp] theorem State.setFld_hpActive (s : State) (r : Reg) (f : Fld) (v : Nat) : (s.setFld r f v).hpActive = s.hpActive := (rfl)
@[simp] theorem State.setFld_hpApply (s : State) (r : Reg) (f : Fld) (v : Nat) : (s.setFld r f v).hpApply = s.hpApply := (rfl)
@[simp] theorem State.setFld_hostLink (s : State) (r : Reg) (f : Fld) (v : Nat) : (s.setFld r f v).hostLink = s.hostLink := (rfl)
@[simp] theorem State.setFld_zctWait (s : State) (r : Reg) (f : Fld) (v : Nat) : (s.setFld r f v).zctWait = s.zctWait := (rfl)
@[simp] theorem State.setFld_flash (s : State) (r : Reg) (f : Fld) (v : Nat) : (s.setFld r f v).flash = s.flash := (rfl)
@[simp] theorem State.setFld_bootSlots (s : State) (r : Reg) (f : Fld) (v : Nat) : (s.setFld r f v).bootSlots = s.bootSlots := (rfl)
@[simp] theorem State.setFld_cert (s : State) (r : Reg) (f : Fld) (v : Nat) : (s.setFld r f v).cert = s.cert := (rfl)
@[simp] theorem State.setFld_jorou (s : State) (r : Reg) (f : Fld) (v : Nat) : (s.setFld r f v).jorou = s.jorou := (rfl)
@[simp] theorem State.setFld_wear (s : State) (r : Reg) (f : Fld) (v : Nat) : (s.setFld r f v).wear = s.wear := (rfl)
@[simp] theorem State.setFld_ledger (s : State) (r : Reg) (f : Fld) (v : Nat) : (s.setFld r f v).ledger = s.ledger := (rfl)
@[simp] theorem State.setFld_resetOp (s : State) (r : Reg) (f : Fld) (v : Nat) : (s.setFld r f v).reset? = s.reset? := (rfl)
@[simp] theorem State.setFld_resetQ (s : State) (r : Reg) (f : Fld) (v : Nat) : (s.setFld r f v).resetQ = s.resetQ := (rfl)
@[simp] theorem State.setFld_resetsDone (s : State) (r : Reg) (f : Fld) (v : Nat) : (s.setFld r f v).resetsDone = s.resetsDone := (rfl)
@[simp] theorem State.setFld_captures (s : State) (r : Reg) (f : Fld) (v : Nat) : (s.setFld r f v).captures = s.captures := (rfl)
@[simp] theorem State.setFld_capture (s : State) (r : Reg) (f : Fld) (v : Nat) : (s.setFld r f v).capture = s.capture := (rfl)
@[simp] theorem State.setFld_capQ (s : State) (r : Reg) (f : Fld) (v : Nat) : (s.setFld r f v).capQ = s.capQ := (rfl)
@[simp] theorem State.setFld_scan (s : State) (r : Reg) (f : Fld) (v : Nat) : (s.setFld r f v).scan = s.scan := (rfl)
@[simp] theorem State.setFld_hangs (s : State) (r : Reg) (f : Fld) (v : Nat) : (s.setFld r f v).hangs = s.hangs := (rfl)
@[simp] theorem State.setFld_stalls (s : State) (r : Reg) (f : Fld) (v : Nat) : (s.setFld r f v).stalls = s.stalls := (rfl)
@[simp] theorem State.setFld_power (s : State) (r : Reg) (f : Fld) (v : Nat) : (s.setFld r f v).power = s.power := (rfl)
@[simp] theorem State.setFld_wb (s : State) (r : Reg) (f : Fld) (v : Nat) : (s.setFld r f v).wb = s.wb := (rfl)

/-! ### count -/

@[simp] theorem State.count_pending (s : State) (r : Reg) (n : Nat) : (s.count r n).pending = s.pending := (rfl)
@[simp] theorem State.count_cycle (s : State) (r : Reg) (n : Nat) : (s.count r n).cycle = s.cycle := (rfl)
@[simp] theorem State.count_grade (s : State) (r : Reg) (n : Nat) : (s.count r n).grade = s.grade := (rfl)
@[simp] theorem State.count_freeCtr (s : State) (r : Reg) (n : Nat) : (s.count r n).freeCtr = s.freeCtr := (rfl)
@[simp] theorem State.count_out (s : State) (r : Reg) (n : Nat) : (s.count r n).out = s.out := (rfl)
@[simp] theorem State.count_mem (s : State) (r : Reg) (n : Nat) : (s.count r n).mem = s.mem := (rfl)
@[simp] theorem State.count_poison (s : State) (r : Reg) (n : Nat) : (s.count r n).poison = s.poison := (rfl)
@[simp] theorem State.count_ports (s : State) (r : Reg) (n : Nat) : (s.count r n).ports = s.ports := (rfl)
@[simp] theorem State.count_laneMap (s : State) (r : Reg) (n : Nat) : (s.count r n).laneMap = s.laneMap := (rfl)
@[simp] theorem State.count_mapFixed (s : State) (r : Reg) (n : Nat) : (s.count r n).mapFixed = s.mapFixed := (rfl)
@[simp] theorem State.count_slots (s : State) (r : Reg) (n : Nat) : (s.count r n).slots = s.slots := (rfl)
@[simp] theorem State.count_queues (s : State) (r : Reg) (n : Nat) : (s.count r n).queues = s.queues := (rfl)
@[simp] theorem State.count_xin (s : State) (r : Reg) (n : Nat) : (s.count r n).xin = s.xin := (rfl)
@[simp] theorem State.count_xinLast (s : State) (r : Reg) (n : Nat) : (s.count r n).xinLast = s.xinLast := (rfl)
@[simp] theorem State.count_heldCells (s : State) (r : Reg) (n : Nat) : (s.count r n).heldCells = s.heldCells := (rfl)
@[simp] theorem State.count_retiredSlots (s : State) (r : Reg) (n : Nat) : (s.count r n).retiredSlots = s.retiredSlots := (rfl)
@[simp] theorem State.count_floor (s : State) (r : Reg) (n : Nat) : (s.count r n).floor = s.floor := (rfl)
@[simp] theorem State.count_mirrors (s : State) (r : Reg) (n : Nat) : (s.count r n).mirrors = s.mirrors := (rfl)
@[simp] theorem State.count_mirrorMade (s : State) (r : Reg) (n : Nat) : (s.count r n).mirrorMade = s.mirrorMade := (rfl)
@[simp] theorem State.count_sampleNext (s : State) (r : Reg) (n : Nat) : (s.count r n).sampleNext = s.sampleNext := (rfl)
@[simp] theorem State.count_sampleRead (s : State) (r : Reg) (n : Nat) : (s.count r n).sampleRead = s.sampleRead := (rfl)
@[simp] theorem State.count_smpStart (s : State) (r : Reg) (n : Nat) : (s.count r n).smpStart = s.smpStart := (rfl)
@[simp] theorem State.count_fails (s : State) (r : Reg) (n : Nat) : (s.count r n).fails = s.fails := (rfl)
@[simp] theorem State.count_echoes (s : State) (r : Reg) (n : Nat) : (s.count r n).echoes = s.echoes := (rfl)
@[simp] theorem State.count_echoGaps (s : State) (r : Reg) (n : Nat) : (s.count r n).echoGaps = s.echoGaps := (rfl)
@[simp] theorem State.count_noReturn (s : State) (r : Reg) (n : Nat) : (s.count r n).noReturn = s.noReturn := (rfl)
@[simp] theorem State.count_tiles (s : State) (r : Reg) (n : Nat) : (s.count r n).tiles = s.tiles := (rfl)
@[simp] theorem State.count_tileMap (s : State) (r : Reg) (n : Nat) : (s.count r n).tileMap = s.tileMap := (rfl)
@[simp] theorem State.count_failedTiles (s : State) (r : Reg) (n : Nat) : (s.count r n).failedTiles = s.failedTiles := (rfl)
@[simp] theorem State.count_candidates (s : State) (r : Reg) (n : Nat) : (s.count r n).candidates = s.candidates := (rfl)
@[simp] theorem State.count_inboxes (s : State) (r : Reg) (n : Nat) : (s.count r n).inboxes = s.inboxes := (rfl)
@[simp] theorem State.count_ctxs (s : State) (r : Reg) (n : Nat) : (s.count r n).ctxs = s.ctxs := (rfl)
@[simp] theorem State.count_ringPass (s : State) (r : Reg) (n : Nat) : (s.count r n).ringPass = s.ringPass := (rfl)
@[simp] theorem State.count_plans (s : State) (r : Reg) (n : Nat) : (s.count r n).plans = s.plans := (rfl)
@[simp] theorem State.count_planFp (s : State) (r : Reg) (n : Nat) : (s.count r n).planFp = s.planFp := (rfl)
@[simp] theorem State.count_groups (s : State) (r : Reg) (n : Nat) : (s.count r n).groups = s.groups := (rfl)
@[simp] theorem State.count_wmInbox (s : State) (r : Reg) (n : Nat) : (s.count r n).wmInbox = s.wmInbox := (rfl)
@[simp] theorem State.count_sets (s : State) (r : Reg) (n : Nat) : (s.count r n).sets = s.sets := (rfl)
@[simp] theorem State.count_ehts (s : State) (r : Reg) (n : Nat) : (s.count r n).ehts = s.ehts := (rfl)
@[simp] theorem State.count_expOpen (s : State) (r : Reg) (n : Nat) : (s.count r n).expOpen = s.expOpen := (rfl)
@[simp] theorem State.count_expIn (s : State) (r : Reg) (n : Nat) : (s.count r n).expIn = s.expIn := (rfl)
@[simp] theorem State.count_expWait (s : State) (r : Reg) (n : Nat) : (s.count r n).expWait = s.expWait := (rfl)
@[simp] theorem State.count_atomics (s : State) (r : Reg) (n : Nat) : (s.count r n).atomics = s.atomics := (rfl)
@[simp] theorem State.count_owners (s : State) (r : Reg) (n : Nat) : (s.count r n).owners = s.owners := (rfl)
@[simp] theorem State.count_bufs (s : State) (r : Reg) (n : Nat) : (s.count r n).bufs = s.bufs := (rfl)
@[simp] theorem State.count_pools (s : State) (r : Reg) (n : Nat) : (s.count r n).pools = s.pools := (rfl)
@[simp] theorem State.count_waiters (s : State) (r : Reg) (n : Nat) : (s.count r n).waiters = s.waiters := (rfl)
@[simp] theorem State.count_grants (s : State) (r : Reg) (n : Nat) : (s.count r n).grants = s.grants := (rfl)
@[simp] theorem State.count_rowErrs (s : State) (r : Reg) (n : Nat) : (s.count r n).rowErrs = s.rowErrs := (rfl)
@[simp] theorem State.count_pageErrs (s : State) (r : Reg) (n : Nat) : (s.count r n).pageErrs = s.pageErrs := (rfl)
@[simp] theorem State.count_pageHeld (s : State) (r : Reg) (n : Nat) : (s.count r n).pageHeld = s.pageHeld := (rfl)
@[simp] theorem State.count_pages (s : State) (r : Reg) (n : Nat) : (s.count r n).pages = s.pages := (rfl)
@[simp] theorem State.count_sparedRows (s : State) (r : Reg) (n : Nat) : (s.count r n).sparedRows = s.sparedRows := (rfl)
@[simp] theorem State.count_patrolAt (s : State) (r : Reg) (n : Nat) : (s.count r n).patrolAt = s.patrolAt := (rfl)
@[simp] theorem State.count_sramAt (s : State) (r : Reg) (n : Nat) : (s.count r n).sramAt = s.sramAt := (rfl)
@[simp] theorem State.count_selfRefresh (s : State) (r : Reg) (n : Nat) : (s.count r n).selfRefresh = s.selfRefresh := (rfl)
@[simp] theorem State.count_refreshing (s : State) (r : Reg) (n : Nat) : (s.count r n).refreshing = s.refreshing := (rfl)
@[simp] theorem State.count_sessions (s : State) (r : Reg) (n : Nat) : (s.count r n).sessions = s.sessions := (rfl)
@[simp] theorem State.count_hpActive (s : State) (r : Reg) (n : Nat) : (s.count r n).hpActive = s.hpActive := (rfl)
@[simp] theorem State.count_hpApply (s : State) (r : Reg) (n : Nat) : (s.count r n).hpApply = s.hpApply := (rfl)
@[simp] theorem State.count_hostLink (s : State) (r : Reg) (n : Nat) : (s.count r n).hostLink = s.hostLink := (rfl)
@[simp] theorem State.count_zctWait (s : State) (r : Reg) (n : Nat) : (s.count r n).zctWait = s.zctWait := (rfl)
@[simp] theorem State.count_flash (s : State) (r : Reg) (n : Nat) : (s.count r n).flash = s.flash := (rfl)
@[simp] theorem State.count_bootSlots (s : State) (r : Reg) (n : Nat) : (s.count r n).bootSlots = s.bootSlots := (rfl)
@[simp] theorem State.count_cert (s : State) (r : Reg) (n : Nat) : (s.count r n).cert = s.cert := (rfl)
@[simp] theorem State.count_jorou (s : State) (r : Reg) (n : Nat) : (s.count r n).jorou = s.jorou := (rfl)
@[simp] theorem State.count_wear (s : State) (r : Reg) (n : Nat) : (s.count r n).wear = s.wear := (rfl)
@[simp] theorem State.count_ledger (s : State) (r : Reg) (n : Nat) : (s.count r n).ledger = s.ledger := (rfl)
@[simp] theorem State.count_resetOp (s : State) (r : Reg) (n : Nat) : (s.count r n).reset? = s.reset? := (rfl)
@[simp] theorem State.count_resetQ (s : State) (r : Reg) (n : Nat) : (s.count r n).resetQ = s.resetQ := (rfl)
@[simp] theorem State.count_resetsDone (s : State) (r : Reg) (n : Nat) : (s.count r n).resetsDone = s.resetsDone := (rfl)
@[simp] theorem State.count_captures (s : State) (r : Reg) (n : Nat) : (s.count r n).captures = s.captures := (rfl)
@[simp] theorem State.count_capture (s : State) (r : Reg) (n : Nat) : (s.count r n).capture = s.capture := (rfl)
@[simp] theorem State.count_capQ (s : State) (r : Reg) (n : Nat) : (s.count r n).capQ = s.capQ := (rfl)
@[simp] theorem State.count_scan (s : State) (r : Reg) (n : Nat) : (s.count r n).scan = s.scan := (rfl)
@[simp] theorem State.count_hangs (s : State) (r : Reg) (n : Nat) : (s.count r n).hangs = s.hangs := (rfl)
@[simp] theorem State.count_stalls (s : State) (r : Reg) (n : Nat) : (s.count r n).stalls = s.stalls := (rfl)
@[simp] theorem State.count_power (s : State) (r : Reg) (n : Nat) : (s.count r n).power = s.power := (rfl)
@[simp] theorem State.count_wb (s : State) (r : Reg) (n : Nat) : (s.count r n).wb = s.wb := (rfl)

/-! ### resetRegs -/

@[simp] theorem State.resetRegs_pending (s : State) (p : Reg → Bool) : (s.resetRegs p).pending = s.pending := (rfl)
@[simp] theorem State.resetRegs_cycle (s : State) (p : Reg → Bool) : (s.resetRegs p).cycle = s.cycle := (rfl)
@[simp] theorem State.resetRegs_grade (s : State) (p : Reg → Bool) : (s.resetRegs p).grade = s.grade := (rfl)
@[simp] theorem State.resetRegs_freeCtr (s : State) (p : Reg → Bool) : (s.resetRegs p).freeCtr = s.freeCtr := (rfl)
@[simp] theorem State.resetRegs_out (s : State) (p : Reg → Bool) : (s.resetRegs p).out = s.out := (rfl)
@[simp] theorem State.resetRegs_mem (s : State) (p : Reg → Bool) : (s.resetRegs p).mem = s.mem := (rfl)
@[simp] theorem State.resetRegs_poison (s : State) (p : Reg → Bool) : (s.resetRegs p).poison = s.poison := (rfl)
@[simp] theorem State.resetRegs_ports (s : State) (p : Reg → Bool) : (s.resetRegs p).ports = s.ports := (rfl)
@[simp] theorem State.resetRegs_laneMap (s : State) (p : Reg → Bool) : (s.resetRegs p).laneMap = s.laneMap := (rfl)
@[simp] theorem State.resetRegs_mapFixed (s : State) (p : Reg → Bool) : (s.resetRegs p).mapFixed = s.mapFixed := (rfl)
@[simp] theorem State.resetRegs_slots (s : State) (p : Reg → Bool) : (s.resetRegs p).slots = s.slots := (rfl)
@[simp] theorem State.resetRegs_queues (s : State) (p : Reg → Bool) : (s.resetRegs p).queues = s.queues := (rfl)
@[simp] theorem State.resetRegs_xin (s : State) (p : Reg → Bool) : (s.resetRegs p).xin = s.xin := (rfl)
@[simp] theorem State.resetRegs_xinLast (s : State) (p : Reg → Bool) : (s.resetRegs p).xinLast = s.xinLast := (rfl)
@[simp] theorem State.resetRegs_heldCells (s : State) (p : Reg → Bool) : (s.resetRegs p).heldCells = s.heldCells := (rfl)
@[simp] theorem State.resetRegs_retiredSlots (s : State) (p : Reg → Bool) : (s.resetRegs p).retiredSlots = s.retiredSlots := (rfl)
@[simp] theorem State.resetRegs_floor (s : State) (p : Reg → Bool) : (s.resetRegs p).floor = s.floor := (rfl)
@[simp] theorem State.resetRegs_mirrors (s : State) (p : Reg → Bool) : (s.resetRegs p).mirrors = s.mirrors := (rfl)
@[simp] theorem State.resetRegs_mirrorMade (s : State) (p : Reg → Bool) : (s.resetRegs p).mirrorMade = s.mirrorMade := (rfl)
@[simp] theorem State.resetRegs_sampleNext (s : State) (p : Reg → Bool) : (s.resetRegs p).sampleNext = s.sampleNext := (rfl)
@[simp] theorem State.resetRegs_sampleRead (s : State) (p : Reg → Bool) : (s.resetRegs p).sampleRead = s.sampleRead := (rfl)
@[simp] theorem State.resetRegs_smpStart (s : State) (p : Reg → Bool) : (s.resetRegs p).smpStart = s.smpStart := (rfl)
@[simp] theorem State.resetRegs_fails (s : State) (p : Reg → Bool) : (s.resetRegs p).fails = s.fails := (rfl)
@[simp] theorem State.resetRegs_echoes (s : State) (p : Reg → Bool) : (s.resetRegs p).echoes = s.echoes := (rfl)
@[simp] theorem State.resetRegs_echoGaps (s : State) (p : Reg → Bool) : (s.resetRegs p).echoGaps = s.echoGaps := (rfl)
@[simp] theorem State.resetRegs_noReturn (s : State) (p : Reg → Bool) : (s.resetRegs p).noReturn = s.noReturn := (rfl)
@[simp] theorem State.resetRegs_tiles (s : State) (p : Reg → Bool) : (s.resetRegs p).tiles = s.tiles := (rfl)
@[simp] theorem State.resetRegs_tileMap (s : State) (p : Reg → Bool) : (s.resetRegs p).tileMap = s.tileMap := (rfl)
@[simp] theorem State.resetRegs_failedTiles (s : State) (p : Reg → Bool) : (s.resetRegs p).failedTiles = s.failedTiles := (rfl)
@[simp] theorem State.resetRegs_candidates (s : State) (p : Reg → Bool) : (s.resetRegs p).candidates = s.candidates := (rfl)
@[simp] theorem State.resetRegs_inboxes (s : State) (p : Reg → Bool) : (s.resetRegs p).inboxes = s.inboxes := (rfl)
@[simp] theorem State.resetRegs_ctxs (s : State) (p : Reg → Bool) : (s.resetRegs p).ctxs = s.ctxs := (rfl)
@[simp] theorem State.resetRegs_ringPass (s : State) (p : Reg → Bool) : (s.resetRegs p).ringPass = s.ringPass := (rfl)
@[simp] theorem State.resetRegs_plans (s : State) (p : Reg → Bool) : (s.resetRegs p).plans = s.plans := (rfl)
@[simp] theorem State.resetRegs_planFp (s : State) (p : Reg → Bool) : (s.resetRegs p).planFp = s.planFp := (rfl)
@[simp] theorem State.resetRegs_groups (s : State) (p : Reg → Bool) : (s.resetRegs p).groups = s.groups := (rfl)
@[simp] theorem State.resetRegs_wmInbox (s : State) (p : Reg → Bool) : (s.resetRegs p).wmInbox = s.wmInbox := (rfl)
@[simp] theorem State.resetRegs_sets (s : State) (p : Reg → Bool) : (s.resetRegs p).sets = s.sets := (rfl)
@[simp] theorem State.resetRegs_ehts (s : State) (p : Reg → Bool) : (s.resetRegs p).ehts = s.ehts := (rfl)
@[simp] theorem State.resetRegs_expOpen (s : State) (p : Reg → Bool) : (s.resetRegs p).expOpen = s.expOpen := (rfl)
@[simp] theorem State.resetRegs_expIn (s : State) (p : Reg → Bool) : (s.resetRegs p).expIn = s.expIn := (rfl)
@[simp] theorem State.resetRegs_expWait (s : State) (p : Reg → Bool) : (s.resetRegs p).expWait = s.expWait := (rfl)
@[simp] theorem State.resetRegs_atomics (s : State) (p : Reg → Bool) : (s.resetRegs p).atomics = s.atomics := (rfl)
@[simp] theorem State.resetRegs_owners (s : State) (p : Reg → Bool) : (s.resetRegs p).owners = s.owners := (rfl)
@[simp] theorem State.resetRegs_bufs (s : State) (p : Reg → Bool) : (s.resetRegs p).bufs = s.bufs := (rfl)
@[simp] theorem State.resetRegs_pools (s : State) (p : Reg → Bool) : (s.resetRegs p).pools = s.pools := (rfl)
@[simp] theorem State.resetRegs_waiters (s : State) (p : Reg → Bool) : (s.resetRegs p).waiters = s.waiters := (rfl)
@[simp] theorem State.resetRegs_grants (s : State) (p : Reg → Bool) : (s.resetRegs p).grants = s.grants := (rfl)
@[simp] theorem State.resetRegs_rowErrs (s : State) (p : Reg → Bool) : (s.resetRegs p).rowErrs = s.rowErrs := (rfl)
@[simp] theorem State.resetRegs_pageErrs (s : State) (p : Reg → Bool) : (s.resetRegs p).pageErrs = s.pageErrs := (rfl)
@[simp] theorem State.resetRegs_pageHeld (s : State) (p : Reg → Bool) : (s.resetRegs p).pageHeld = s.pageHeld := (rfl)
@[simp] theorem State.resetRegs_pages (s : State) (p : Reg → Bool) : (s.resetRegs p).pages = s.pages := (rfl)
@[simp] theorem State.resetRegs_sparedRows (s : State) (p : Reg → Bool) : (s.resetRegs p).sparedRows = s.sparedRows := (rfl)
@[simp] theorem State.resetRegs_patrolAt (s : State) (p : Reg → Bool) : (s.resetRegs p).patrolAt = s.patrolAt := (rfl)
@[simp] theorem State.resetRegs_sramAt (s : State) (p : Reg → Bool) : (s.resetRegs p).sramAt = s.sramAt := (rfl)
@[simp] theorem State.resetRegs_selfRefresh (s : State) (p : Reg → Bool) : (s.resetRegs p).selfRefresh = s.selfRefresh := (rfl)
@[simp] theorem State.resetRegs_refreshing (s : State) (p : Reg → Bool) : (s.resetRegs p).refreshing = s.refreshing := (rfl)
@[simp] theorem State.resetRegs_sessions (s : State) (p : Reg → Bool) : (s.resetRegs p).sessions = s.sessions := (rfl)
@[simp] theorem State.resetRegs_hpActive (s : State) (p : Reg → Bool) : (s.resetRegs p).hpActive = s.hpActive := (rfl)
@[simp] theorem State.resetRegs_hpApply (s : State) (p : Reg → Bool) : (s.resetRegs p).hpApply = s.hpApply := (rfl)
@[simp] theorem State.resetRegs_hostLink (s : State) (p : Reg → Bool) : (s.resetRegs p).hostLink = s.hostLink := (rfl)
@[simp] theorem State.resetRegs_zctWait (s : State) (p : Reg → Bool) : (s.resetRegs p).zctWait = s.zctWait := (rfl)
@[simp] theorem State.resetRegs_flash (s : State) (p : Reg → Bool) : (s.resetRegs p).flash = s.flash := (rfl)
@[simp] theorem State.resetRegs_bootSlots (s : State) (p : Reg → Bool) : (s.resetRegs p).bootSlots = s.bootSlots := (rfl)
@[simp] theorem State.resetRegs_cert (s : State) (p : Reg → Bool) : (s.resetRegs p).cert = s.cert := (rfl)
@[simp] theorem State.resetRegs_jorou (s : State) (p : Reg → Bool) : (s.resetRegs p).jorou = s.jorou := (rfl)
@[simp] theorem State.resetRegs_wear (s : State) (p : Reg → Bool) : (s.resetRegs p).wear = s.wear := (rfl)
@[simp] theorem State.resetRegs_ledger (s : State) (p : Reg → Bool) : (s.resetRegs p).ledger = s.ledger := (rfl)
@[simp] theorem State.resetRegs_resetOp (s : State) (p : Reg → Bool) : (s.resetRegs p).reset? = s.reset? := (rfl)
@[simp] theorem State.resetRegs_resetQ (s : State) (p : Reg → Bool) : (s.resetRegs p).resetQ = s.resetQ := (rfl)
@[simp] theorem State.resetRegs_resetsDone (s : State) (p : Reg → Bool) : (s.resetRegs p).resetsDone = s.resetsDone := (rfl)
@[simp] theorem State.resetRegs_captures (s : State) (p : Reg → Bool) : (s.resetRegs p).captures = s.captures := (rfl)
@[simp] theorem State.resetRegs_capture (s : State) (p : Reg → Bool) : (s.resetRegs p).capture = s.capture := (rfl)
@[simp] theorem State.resetRegs_capQ (s : State) (p : Reg → Bool) : (s.resetRegs p).capQ = s.capQ := (rfl)
@[simp] theorem State.resetRegs_scan (s : State) (p : Reg → Bool) : (s.resetRegs p).scan = s.scan := (rfl)
@[simp] theorem State.resetRegs_hangs (s : State) (p : Reg → Bool) : (s.resetRegs p).hangs = s.hangs := (rfl)
@[simp] theorem State.resetRegs_stalls (s : State) (p : Reg → Bool) : (s.resetRegs p).stalls = s.stalls := (rfl)
@[simp] theorem State.resetRegs_power (s : State) (p : Reg → Bool) : (s.resetRegs p).power = s.power := (rfl)
@[simp] theorem State.resetRegs_wb (s : State) (p : Reg → Bool) : (s.resetRegs p).wb = s.wb := (rfl)

/-! ### setBytes -/

@[simp] theorem State.setBytes_pending (s : State) (a : Nat) (l : List Byte) : (s.setBytes a l).pending = s.pending := (rfl)
@[simp] theorem State.setBytes_cycle (s : State) (a : Nat) (l : List Byte) : (s.setBytes a l).cycle = s.cycle := (rfl)
@[simp] theorem State.setBytes_grade (s : State) (a : Nat) (l : List Byte) : (s.setBytes a l).grade = s.grade := (rfl)
@[simp] theorem State.setBytes_freeCtr (s : State) (a : Nat) (l : List Byte) : (s.setBytes a l).freeCtr = s.freeCtr := (rfl)
@[simp] theorem State.setBytes_out (s : State) (a : Nat) (l : List Byte) : (s.setBytes a l).out = s.out := (rfl)
@[simp] theorem State.setBytes_poison (s : State) (a : Nat) (l : List Byte) : (s.setBytes a l).poison = s.poison := (rfl)
@[simp] theorem State.setBytes_regs (s : State) (a : Nat) (l : List Byte) : (s.setBytes a l).regs = s.regs := (rfl)
@[simp] theorem State.setBytes_ports (s : State) (a : Nat) (l : List Byte) : (s.setBytes a l).ports = s.ports := (rfl)
@[simp] theorem State.setBytes_laneMap (s : State) (a : Nat) (l : List Byte) : (s.setBytes a l).laneMap = s.laneMap := (rfl)
@[simp] theorem State.setBytes_mapFixed (s : State) (a : Nat) (l : List Byte) : (s.setBytes a l).mapFixed = s.mapFixed := (rfl)
@[simp] theorem State.setBytes_slots (s : State) (a : Nat) (l : List Byte) : (s.setBytes a l).slots = s.slots := (rfl)
@[simp] theorem State.setBytes_queues (s : State) (a : Nat) (l : List Byte) : (s.setBytes a l).queues = s.queues := (rfl)
@[simp] theorem State.setBytes_xin (s : State) (a : Nat) (l : List Byte) : (s.setBytes a l).xin = s.xin := (rfl)
@[simp] theorem State.setBytes_xinLast (s : State) (a : Nat) (l : List Byte) : (s.setBytes a l).xinLast = s.xinLast := (rfl)
@[simp] theorem State.setBytes_heldCells (s : State) (a : Nat) (l : List Byte) : (s.setBytes a l).heldCells = s.heldCells := (rfl)
@[simp] theorem State.setBytes_retiredSlots (s : State) (a : Nat) (l : List Byte) : (s.setBytes a l).retiredSlots = s.retiredSlots := (rfl)
@[simp] theorem State.setBytes_floor (s : State) (a : Nat) (l : List Byte) : (s.setBytes a l).floor = s.floor := (rfl)
@[simp] theorem State.setBytes_mirrors (s : State) (a : Nat) (l : List Byte) : (s.setBytes a l).mirrors = s.mirrors := (rfl)
@[simp] theorem State.setBytes_mirrorMade (s : State) (a : Nat) (l : List Byte) : (s.setBytes a l).mirrorMade = s.mirrorMade := (rfl)
@[simp] theorem State.setBytes_sampleNext (s : State) (a : Nat) (l : List Byte) : (s.setBytes a l).sampleNext = s.sampleNext := (rfl)
@[simp] theorem State.setBytes_sampleRead (s : State) (a : Nat) (l : List Byte) : (s.setBytes a l).sampleRead = s.sampleRead := (rfl)
@[simp] theorem State.setBytes_smpStart (s : State) (a : Nat) (l : List Byte) : (s.setBytes a l).smpStart = s.smpStart := (rfl)
@[simp] theorem State.setBytes_fails (s : State) (a : Nat) (l : List Byte) : (s.setBytes a l).fails = s.fails := (rfl)
@[simp] theorem State.setBytes_echoes (s : State) (a : Nat) (l : List Byte) : (s.setBytes a l).echoes = s.echoes := (rfl)
@[simp] theorem State.setBytes_echoGaps (s : State) (a : Nat) (l : List Byte) : (s.setBytes a l).echoGaps = s.echoGaps := (rfl)
@[simp] theorem State.setBytes_noReturn (s : State) (a : Nat) (l : List Byte) : (s.setBytes a l).noReturn = s.noReturn := (rfl)
@[simp] theorem State.setBytes_tiles (s : State) (a : Nat) (l : List Byte) : (s.setBytes a l).tiles = s.tiles := (rfl)
@[simp] theorem State.setBytes_tileMap (s : State) (a : Nat) (l : List Byte) : (s.setBytes a l).tileMap = s.tileMap := (rfl)
@[simp] theorem State.setBytes_failedTiles (s : State) (a : Nat) (l : List Byte) : (s.setBytes a l).failedTiles = s.failedTiles := (rfl)
@[simp] theorem State.setBytes_candidates (s : State) (a : Nat) (l : List Byte) : (s.setBytes a l).candidates = s.candidates := (rfl)
@[simp] theorem State.setBytes_inboxes (s : State) (a : Nat) (l : List Byte) : (s.setBytes a l).inboxes = s.inboxes := (rfl)
@[simp] theorem State.setBytes_ctxs (s : State) (a : Nat) (l : List Byte) : (s.setBytes a l).ctxs = s.ctxs := (rfl)
@[simp] theorem State.setBytes_ringPass (s : State) (a : Nat) (l : List Byte) : (s.setBytes a l).ringPass = s.ringPass := (rfl)
@[simp] theorem State.setBytes_plans (s : State) (a : Nat) (l : List Byte) : (s.setBytes a l).plans = s.plans := (rfl)
@[simp] theorem State.setBytes_planFp (s : State) (a : Nat) (l : List Byte) : (s.setBytes a l).planFp = s.planFp := (rfl)
@[simp] theorem State.setBytes_groups (s : State) (a : Nat) (l : List Byte) : (s.setBytes a l).groups = s.groups := (rfl)
@[simp] theorem State.setBytes_wmInbox (s : State) (a : Nat) (l : List Byte) : (s.setBytes a l).wmInbox = s.wmInbox := (rfl)
@[simp] theorem State.setBytes_sets (s : State) (a : Nat) (l : List Byte) : (s.setBytes a l).sets = s.sets := (rfl)
@[simp] theorem State.setBytes_ehts (s : State) (a : Nat) (l : List Byte) : (s.setBytes a l).ehts = s.ehts := (rfl)
@[simp] theorem State.setBytes_expOpen (s : State) (a : Nat) (l : List Byte) : (s.setBytes a l).expOpen = s.expOpen := (rfl)
@[simp] theorem State.setBytes_expIn (s : State) (a : Nat) (l : List Byte) : (s.setBytes a l).expIn = s.expIn := (rfl)
@[simp] theorem State.setBytes_expWait (s : State) (a : Nat) (l : List Byte) : (s.setBytes a l).expWait = s.expWait := (rfl)
@[simp] theorem State.setBytes_atomics (s : State) (a : Nat) (l : List Byte) : (s.setBytes a l).atomics = s.atomics := (rfl)
@[simp] theorem State.setBytes_owners (s : State) (a : Nat) (l : List Byte) : (s.setBytes a l).owners = s.owners := (rfl)
@[simp] theorem State.setBytes_bufs (s : State) (a : Nat) (l : List Byte) : (s.setBytes a l).bufs = s.bufs := (rfl)
@[simp] theorem State.setBytes_pools (s : State) (a : Nat) (l : List Byte) : (s.setBytes a l).pools = s.pools := (rfl)
@[simp] theorem State.setBytes_waiters (s : State) (a : Nat) (l : List Byte) : (s.setBytes a l).waiters = s.waiters := (rfl)
@[simp] theorem State.setBytes_grants (s : State) (a : Nat) (l : List Byte) : (s.setBytes a l).grants = s.grants := (rfl)
@[simp] theorem State.setBytes_rowErrs (s : State) (a : Nat) (l : List Byte) : (s.setBytes a l).rowErrs = s.rowErrs := (rfl)
@[simp] theorem State.setBytes_pageErrs (s : State) (a : Nat) (l : List Byte) : (s.setBytes a l).pageErrs = s.pageErrs := (rfl)
@[simp] theorem State.setBytes_pageHeld (s : State) (a : Nat) (l : List Byte) : (s.setBytes a l).pageHeld = s.pageHeld := (rfl)
@[simp] theorem State.setBytes_pages (s : State) (a : Nat) (l : List Byte) : (s.setBytes a l).pages = s.pages := (rfl)
@[simp] theorem State.setBytes_sparedRows (s : State) (a : Nat) (l : List Byte) : (s.setBytes a l).sparedRows = s.sparedRows := (rfl)
@[simp] theorem State.setBytes_patrolAt (s : State) (a : Nat) (l : List Byte) : (s.setBytes a l).patrolAt = s.patrolAt := (rfl)
@[simp] theorem State.setBytes_sramAt (s : State) (a : Nat) (l : List Byte) : (s.setBytes a l).sramAt = s.sramAt := (rfl)
@[simp] theorem State.setBytes_selfRefresh (s : State) (a : Nat) (l : List Byte) : (s.setBytes a l).selfRefresh = s.selfRefresh := (rfl)
@[simp] theorem State.setBytes_refreshing (s : State) (a : Nat) (l : List Byte) : (s.setBytes a l).refreshing = s.refreshing := (rfl)
@[simp] theorem State.setBytes_sessions (s : State) (a : Nat) (l : List Byte) : (s.setBytes a l).sessions = s.sessions := (rfl)
@[simp] theorem State.setBytes_hpActive (s : State) (a : Nat) (l : List Byte) : (s.setBytes a l).hpActive = s.hpActive := (rfl)
@[simp] theorem State.setBytes_hpApply (s : State) (a : Nat) (l : List Byte) : (s.setBytes a l).hpApply = s.hpApply := (rfl)
@[simp] theorem State.setBytes_hostLink (s : State) (a : Nat) (l : List Byte) : (s.setBytes a l).hostLink = s.hostLink := (rfl)
@[simp] theorem State.setBytes_zctWait (s : State) (a : Nat) (l : List Byte) : (s.setBytes a l).zctWait = s.zctWait := (rfl)
@[simp] theorem State.setBytes_flash (s : State) (a : Nat) (l : List Byte) : (s.setBytes a l).flash = s.flash := (rfl)
@[simp] theorem State.setBytes_bootSlots (s : State) (a : Nat) (l : List Byte) : (s.setBytes a l).bootSlots = s.bootSlots := (rfl)
@[simp] theorem State.setBytes_cert (s : State) (a : Nat) (l : List Byte) : (s.setBytes a l).cert = s.cert := (rfl)
@[simp] theorem State.setBytes_jorou (s : State) (a : Nat) (l : List Byte) : (s.setBytes a l).jorou = s.jorou := (rfl)
@[simp] theorem State.setBytes_wear (s : State) (a : Nat) (l : List Byte) : (s.setBytes a l).wear = s.wear := (rfl)
@[simp] theorem State.setBytes_ledger (s : State) (a : Nat) (l : List Byte) : (s.setBytes a l).ledger = s.ledger := (rfl)
@[simp] theorem State.setBytes_resetOp (s : State) (a : Nat) (l : List Byte) : (s.setBytes a l).reset? = s.reset? := (rfl)
@[simp] theorem State.setBytes_resetQ (s : State) (a : Nat) (l : List Byte) : (s.setBytes a l).resetQ = s.resetQ := (rfl)
@[simp] theorem State.setBytes_resetsDone (s : State) (a : Nat) (l : List Byte) : (s.setBytes a l).resetsDone = s.resetsDone := (rfl)
@[simp] theorem State.setBytes_captures (s : State) (a : Nat) (l : List Byte) : (s.setBytes a l).captures = s.captures := (rfl)
@[simp] theorem State.setBytes_capture (s : State) (a : Nat) (l : List Byte) : (s.setBytes a l).capture = s.capture := (rfl)
@[simp] theorem State.setBytes_capQ (s : State) (a : Nat) (l : List Byte) : (s.setBytes a l).capQ = s.capQ := (rfl)
@[simp] theorem State.setBytes_scan (s : State) (a : Nat) (l : List Byte) : (s.setBytes a l).scan = s.scan := (rfl)
@[simp] theorem State.setBytes_hangs (s : State) (a : Nat) (l : List Byte) : (s.setBytes a l).hangs = s.hangs := (rfl)
@[simp] theorem State.setBytes_stalls (s : State) (a : Nat) (l : List Byte) : (s.setBytes a l).stalls = s.stalls := (rfl)
@[simp] theorem State.setBytes_power (s : State) (a : Nat) (l : List Byte) : (s.setBytes a l).power = s.power := (rfl)
@[simp] theorem State.setBytes_wb (s : State) (a : Nat) (l : List Byte) : (s.setBytes a l).wb = s.wb := (rfl)

/-! ### store -/

@[simp] theorem State.store_pending (s : State) (a n v : Nat) : (s.store a n v).pending = s.pending := (rfl)
@[simp] theorem State.store_cycle (s : State) (a n v : Nat) : (s.store a n v).cycle = s.cycle := (rfl)
@[simp] theorem State.store_grade (s : State) (a n v : Nat) : (s.store a n v).grade = s.grade := (rfl)
@[simp] theorem State.store_freeCtr (s : State) (a n v : Nat) : (s.store a n v).freeCtr = s.freeCtr := (rfl)
@[simp] theorem State.store_out (s : State) (a n v : Nat) : (s.store a n v).out = s.out := (rfl)
@[simp] theorem State.store_poison (s : State) (a n v : Nat) : (s.store a n v).poison = s.poison := (rfl)
@[simp] theorem State.store_regs (s : State) (a n v : Nat) : (s.store a n v).regs = s.regs := (rfl)
@[simp] theorem State.store_ports (s : State) (a n v : Nat) : (s.store a n v).ports = s.ports := (rfl)
@[simp] theorem State.store_laneMap (s : State) (a n v : Nat) : (s.store a n v).laneMap = s.laneMap := (rfl)
@[simp] theorem State.store_mapFixed (s : State) (a n v : Nat) : (s.store a n v).mapFixed = s.mapFixed := (rfl)
@[simp] theorem State.store_slots (s : State) (a n v : Nat) : (s.store a n v).slots = s.slots := (rfl)
@[simp] theorem State.store_queues (s : State) (a n v : Nat) : (s.store a n v).queues = s.queues := (rfl)
@[simp] theorem State.store_xin (s : State) (a n v : Nat) : (s.store a n v).xin = s.xin := (rfl)
@[simp] theorem State.store_xinLast (s : State) (a n v : Nat) : (s.store a n v).xinLast = s.xinLast := (rfl)
@[simp] theorem State.store_heldCells (s : State) (a n v : Nat) : (s.store a n v).heldCells = s.heldCells := (rfl)
@[simp] theorem State.store_retiredSlots (s : State) (a n v : Nat) : (s.store a n v).retiredSlots = s.retiredSlots := (rfl)
@[simp] theorem State.store_floor (s : State) (a n v : Nat) : (s.store a n v).floor = s.floor := (rfl)
@[simp] theorem State.store_mirrors (s : State) (a n v : Nat) : (s.store a n v).mirrors = s.mirrors := (rfl)
@[simp] theorem State.store_mirrorMade (s : State) (a n v : Nat) : (s.store a n v).mirrorMade = s.mirrorMade := (rfl)
@[simp] theorem State.store_sampleNext (s : State) (a n v : Nat) : (s.store a n v).sampleNext = s.sampleNext := (rfl)
@[simp] theorem State.store_sampleRead (s : State) (a n v : Nat) : (s.store a n v).sampleRead = s.sampleRead := (rfl)
@[simp] theorem State.store_smpStart (s : State) (a n v : Nat) : (s.store a n v).smpStart = s.smpStart := (rfl)
@[simp] theorem State.store_fails (s : State) (a n v : Nat) : (s.store a n v).fails = s.fails := (rfl)
@[simp] theorem State.store_echoes (s : State) (a n v : Nat) : (s.store a n v).echoes = s.echoes := (rfl)
@[simp] theorem State.store_echoGaps (s : State) (a n v : Nat) : (s.store a n v).echoGaps = s.echoGaps := (rfl)
@[simp] theorem State.store_noReturn (s : State) (a n v : Nat) : (s.store a n v).noReturn = s.noReturn := (rfl)
@[simp] theorem State.store_tiles (s : State) (a n v : Nat) : (s.store a n v).tiles = s.tiles := (rfl)
@[simp] theorem State.store_tileMap (s : State) (a n v : Nat) : (s.store a n v).tileMap = s.tileMap := (rfl)
@[simp] theorem State.store_failedTiles (s : State) (a n v : Nat) : (s.store a n v).failedTiles = s.failedTiles := (rfl)
@[simp] theorem State.store_candidates (s : State) (a n v : Nat) : (s.store a n v).candidates = s.candidates := (rfl)
@[simp] theorem State.store_inboxes (s : State) (a n v : Nat) : (s.store a n v).inboxes = s.inboxes := (rfl)
@[simp] theorem State.store_ctxs (s : State) (a n v : Nat) : (s.store a n v).ctxs = s.ctxs := (rfl)
@[simp] theorem State.store_ringPass (s : State) (a n v : Nat) : (s.store a n v).ringPass = s.ringPass := (rfl)
@[simp] theorem State.store_plans (s : State) (a n v : Nat) : (s.store a n v).plans = s.plans := (rfl)
@[simp] theorem State.store_planFp (s : State) (a n v : Nat) : (s.store a n v).planFp = s.planFp := (rfl)
@[simp] theorem State.store_groups (s : State) (a n v : Nat) : (s.store a n v).groups = s.groups := (rfl)
@[simp] theorem State.store_wmInbox (s : State) (a n v : Nat) : (s.store a n v).wmInbox = s.wmInbox := (rfl)
@[simp] theorem State.store_sets (s : State) (a n v : Nat) : (s.store a n v).sets = s.sets := (rfl)
@[simp] theorem State.store_ehts (s : State) (a n v : Nat) : (s.store a n v).ehts = s.ehts := (rfl)
@[simp] theorem State.store_expOpen (s : State) (a n v : Nat) : (s.store a n v).expOpen = s.expOpen := (rfl)
@[simp] theorem State.store_expIn (s : State) (a n v : Nat) : (s.store a n v).expIn = s.expIn := (rfl)
@[simp] theorem State.store_expWait (s : State) (a n v : Nat) : (s.store a n v).expWait = s.expWait := (rfl)
@[simp] theorem State.store_atomics (s : State) (a n v : Nat) : (s.store a n v).atomics = s.atomics := (rfl)
@[simp] theorem State.store_owners (s : State) (a n v : Nat) : (s.store a n v).owners = s.owners := (rfl)
@[simp] theorem State.store_bufs (s : State) (a n v : Nat) : (s.store a n v).bufs = s.bufs := (rfl)
@[simp] theorem State.store_pools (s : State) (a n v : Nat) : (s.store a n v).pools = s.pools := (rfl)
@[simp] theorem State.store_waiters (s : State) (a n v : Nat) : (s.store a n v).waiters = s.waiters := (rfl)
@[simp] theorem State.store_grants (s : State) (a n v : Nat) : (s.store a n v).grants = s.grants := (rfl)
@[simp] theorem State.store_rowErrs (s : State) (a n v : Nat) : (s.store a n v).rowErrs = s.rowErrs := (rfl)
@[simp] theorem State.store_pageErrs (s : State) (a n v : Nat) : (s.store a n v).pageErrs = s.pageErrs := (rfl)
@[simp] theorem State.store_pageHeld (s : State) (a n v : Nat) : (s.store a n v).pageHeld = s.pageHeld := (rfl)
@[simp] theorem State.store_pages (s : State) (a n v : Nat) : (s.store a n v).pages = s.pages := (rfl)
@[simp] theorem State.store_sparedRows (s : State) (a n v : Nat) : (s.store a n v).sparedRows = s.sparedRows := (rfl)
@[simp] theorem State.store_patrolAt (s : State) (a n v : Nat) : (s.store a n v).patrolAt = s.patrolAt := (rfl)
@[simp] theorem State.store_sramAt (s : State) (a n v : Nat) : (s.store a n v).sramAt = s.sramAt := (rfl)
@[simp] theorem State.store_selfRefresh (s : State) (a n v : Nat) : (s.store a n v).selfRefresh = s.selfRefresh := (rfl)
@[simp] theorem State.store_refreshing (s : State) (a n v : Nat) : (s.store a n v).refreshing = s.refreshing := (rfl)
@[simp] theorem State.store_sessions (s : State) (a n v : Nat) : (s.store a n v).sessions = s.sessions := (rfl)
@[simp] theorem State.store_hpActive (s : State) (a n v : Nat) : (s.store a n v).hpActive = s.hpActive := (rfl)
@[simp] theorem State.store_hpApply (s : State) (a n v : Nat) : (s.store a n v).hpApply = s.hpApply := (rfl)
@[simp] theorem State.store_hostLink (s : State) (a n v : Nat) : (s.store a n v).hostLink = s.hostLink := (rfl)
@[simp] theorem State.store_zctWait (s : State) (a n v : Nat) : (s.store a n v).zctWait = s.zctWait := (rfl)
@[simp] theorem State.store_flash (s : State) (a n v : Nat) : (s.store a n v).flash = s.flash := (rfl)
@[simp] theorem State.store_bootSlots (s : State) (a n v : Nat) : (s.store a n v).bootSlots = s.bootSlots := (rfl)
@[simp] theorem State.store_cert (s : State) (a n v : Nat) : (s.store a n v).cert = s.cert := (rfl)
@[simp] theorem State.store_jorou (s : State) (a n v : Nat) : (s.store a n v).jorou = s.jorou := (rfl)
@[simp] theorem State.store_wear (s : State) (a n v : Nat) : (s.store a n v).wear = s.wear := (rfl)
@[simp] theorem State.store_ledger (s : State) (a n v : Nat) : (s.store a n v).ledger = s.ledger := (rfl)
@[simp] theorem State.store_resetOp (s : State) (a n v : Nat) : (s.store a n v).reset? = s.reset? := (rfl)
@[simp] theorem State.store_resetQ (s : State) (a n v : Nat) : (s.store a n v).resetQ = s.resetQ := (rfl)
@[simp] theorem State.store_resetsDone (s : State) (a n v : Nat) : (s.store a n v).resetsDone = s.resetsDone := (rfl)
@[simp] theorem State.store_captures (s : State) (a n v : Nat) : (s.store a n v).captures = s.captures := (rfl)
@[simp] theorem State.store_capture (s : State) (a n v : Nat) : (s.store a n v).capture = s.capture := (rfl)
@[simp] theorem State.store_capQ (s : State) (a n v : Nat) : (s.store a n v).capQ = s.capQ := (rfl)
@[simp] theorem State.store_scan (s : State) (a n v : Nat) : (s.store a n v).scan = s.scan := (rfl)
@[simp] theorem State.store_hangs (s : State) (a n v : Nat) : (s.store a n v).hangs = s.hangs := (rfl)
@[simp] theorem State.store_stalls (s : State) (a n v : Nat) : (s.store a n v).stalls = s.stalls := (rfl)
@[simp] theorem State.store_power (s : State) (a n v : Nat) : (s.store a n v).power = s.power := (rfl)
@[simp] theorem State.store_wb (s : State) (a n v : Nat) : (s.store a n v).wb = s.wb := (rfl)

/-! ### setMemFld -/

@[simp] theorem State.setMemFld_pending (s : State) (a n lo w v : Nat) : (s.setMemFld a n lo w v).pending = s.pending := (rfl)
@[simp] theorem State.setMemFld_cycle (s : State) (a n lo w v : Nat) : (s.setMemFld a n lo w v).cycle = s.cycle := (rfl)
@[simp] theorem State.setMemFld_grade (s : State) (a n lo w v : Nat) : (s.setMemFld a n lo w v).grade = s.grade := (rfl)
@[simp] theorem State.setMemFld_freeCtr (s : State) (a n lo w v : Nat) : (s.setMemFld a n lo w v).freeCtr = s.freeCtr := (rfl)
@[simp] theorem State.setMemFld_out (s : State) (a n lo w v : Nat) : (s.setMemFld a n lo w v).out = s.out := (rfl)
@[simp] theorem State.setMemFld_poison (s : State) (a n lo w v : Nat) : (s.setMemFld a n lo w v).poison = s.poison := (rfl)
@[simp] theorem State.setMemFld_regs (s : State) (a n lo w v : Nat) : (s.setMemFld a n lo w v).regs = s.regs := (rfl)
@[simp] theorem State.setMemFld_ports (s : State) (a n lo w v : Nat) : (s.setMemFld a n lo w v).ports = s.ports := (rfl)
@[simp] theorem State.setMemFld_laneMap (s : State) (a n lo w v : Nat) : (s.setMemFld a n lo w v).laneMap = s.laneMap := (rfl)
@[simp] theorem State.setMemFld_mapFixed (s : State) (a n lo w v : Nat) : (s.setMemFld a n lo w v).mapFixed = s.mapFixed := (rfl)
@[simp] theorem State.setMemFld_slots (s : State) (a n lo w v : Nat) : (s.setMemFld a n lo w v).slots = s.slots := (rfl)
@[simp] theorem State.setMemFld_queues (s : State) (a n lo w v : Nat) : (s.setMemFld a n lo w v).queues = s.queues := (rfl)
@[simp] theorem State.setMemFld_xin (s : State) (a n lo w v : Nat) : (s.setMemFld a n lo w v).xin = s.xin := (rfl)
@[simp] theorem State.setMemFld_xinLast (s : State) (a n lo w v : Nat) : (s.setMemFld a n lo w v).xinLast = s.xinLast := (rfl)
@[simp] theorem State.setMemFld_heldCells (s : State) (a n lo w v : Nat) : (s.setMemFld a n lo w v).heldCells = s.heldCells := (rfl)
@[simp] theorem State.setMemFld_retiredSlots (s : State) (a n lo w v : Nat) : (s.setMemFld a n lo w v).retiredSlots = s.retiredSlots := (rfl)
@[simp] theorem State.setMemFld_floor (s : State) (a n lo w v : Nat) : (s.setMemFld a n lo w v).floor = s.floor := (rfl)
@[simp] theorem State.setMemFld_mirrors (s : State) (a n lo w v : Nat) : (s.setMemFld a n lo w v).mirrors = s.mirrors := (rfl)
@[simp] theorem State.setMemFld_mirrorMade (s : State) (a n lo w v : Nat) : (s.setMemFld a n lo w v).mirrorMade = s.mirrorMade := (rfl)
@[simp] theorem State.setMemFld_sampleNext (s : State) (a n lo w v : Nat) : (s.setMemFld a n lo w v).sampleNext = s.sampleNext := (rfl)
@[simp] theorem State.setMemFld_sampleRead (s : State) (a n lo w v : Nat) : (s.setMemFld a n lo w v).sampleRead = s.sampleRead := (rfl)
@[simp] theorem State.setMemFld_smpStart (s : State) (a n lo w v : Nat) : (s.setMemFld a n lo w v).smpStart = s.smpStart := (rfl)
@[simp] theorem State.setMemFld_fails (s : State) (a n lo w v : Nat) : (s.setMemFld a n lo w v).fails = s.fails := (rfl)
@[simp] theorem State.setMemFld_echoes (s : State) (a n lo w v : Nat) : (s.setMemFld a n lo w v).echoes = s.echoes := (rfl)
@[simp] theorem State.setMemFld_echoGaps (s : State) (a n lo w v : Nat) : (s.setMemFld a n lo w v).echoGaps = s.echoGaps := (rfl)
@[simp] theorem State.setMemFld_noReturn (s : State) (a n lo w v : Nat) : (s.setMemFld a n lo w v).noReturn = s.noReturn := (rfl)
@[simp] theorem State.setMemFld_tiles (s : State) (a n lo w v : Nat) : (s.setMemFld a n lo w v).tiles = s.tiles := (rfl)
@[simp] theorem State.setMemFld_tileMap (s : State) (a n lo w v : Nat) : (s.setMemFld a n lo w v).tileMap = s.tileMap := (rfl)
@[simp] theorem State.setMemFld_failedTiles (s : State) (a n lo w v : Nat) : (s.setMemFld a n lo w v).failedTiles = s.failedTiles := (rfl)
@[simp] theorem State.setMemFld_candidates (s : State) (a n lo w v : Nat) : (s.setMemFld a n lo w v).candidates = s.candidates := (rfl)
@[simp] theorem State.setMemFld_inboxes (s : State) (a n lo w v : Nat) : (s.setMemFld a n lo w v).inboxes = s.inboxes := (rfl)
@[simp] theorem State.setMemFld_ctxs (s : State) (a n lo w v : Nat) : (s.setMemFld a n lo w v).ctxs = s.ctxs := (rfl)
@[simp] theorem State.setMemFld_ringPass (s : State) (a n lo w v : Nat) : (s.setMemFld a n lo w v).ringPass = s.ringPass := (rfl)
@[simp] theorem State.setMemFld_plans (s : State) (a n lo w v : Nat) : (s.setMemFld a n lo w v).plans = s.plans := (rfl)
@[simp] theorem State.setMemFld_planFp (s : State) (a n lo w v : Nat) : (s.setMemFld a n lo w v).planFp = s.planFp := (rfl)
@[simp] theorem State.setMemFld_groups (s : State) (a n lo w v : Nat) : (s.setMemFld a n lo w v).groups = s.groups := (rfl)
@[simp] theorem State.setMemFld_wmInbox (s : State) (a n lo w v : Nat) : (s.setMemFld a n lo w v).wmInbox = s.wmInbox := (rfl)
@[simp] theorem State.setMemFld_sets (s : State) (a n lo w v : Nat) : (s.setMemFld a n lo w v).sets = s.sets := (rfl)
@[simp] theorem State.setMemFld_ehts (s : State) (a n lo w v : Nat) : (s.setMemFld a n lo w v).ehts = s.ehts := (rfl)
@[simp] theorem State.setMemFld_expOpen (s : State) (a n lo w v : Nat) : (s.setMemFld a n lo w v).expOpen = s.expOpen := (rfl)
@[simp] theorem State.setMemFld_expIn (s : State) (a n lo w v : Nat) : (s.setMemFld a n lo w v).expIn = s.expIn := (rfl)
@[simp] theorem State.setMemFld_expWait (s : State) (a n lo w v : Nat) : (s.setMemFld a n lo w v).expWait = s.expWait := (rfl)
@[simp] theorem State.setMemFld_atomics (s : State) (a n lo w v : Nat) : (s.setMemFld a n lo w v).atomics = s.atomics := (rfl)
@[simp] theorem State.setMemFld_owners (s : State) (a n lo w v : Nat) : (s.setMemFld a n lo w v).owners = s.owners := (rfl)
@[simp] theorem State.setMemFld_bufs (s : State) (a n lo w v : Nat) : (s.setMemFld a n lo w v).bufs = s.bufs := (rfl)
@[simp] theorem State.setMemFld_pools (s : State) (a n lo w v : Nat) : (s.setMemFld a n lo w v).pools = s.pools := (rfl)
@[simp] theorem State.setMemFld_waiters (s : State) (a n lo w v : Nat) : (s.setMemFld a n lo w v).waiters = s.waiters := (rfl)
@[simp] theorem State.setMemFld_grants (s : State) (a n lo w v : Nat) : (s.setMemFld a n lo w v).grants = s.grants := (rfl)
@[simp] theorem State.setMemFld_rowErrs (s : State) (a n lo w v : Nat) : (s.setMemFld a n lo w v).rowErrs = s.rowErrs := (rfl)
@[simp] theorem State.setMemFld_pageErrs (s : State) (a n lo w v : Nat) : (s.setMemFld a n lo w v).pageErrs = s.pageErrs := (rfl)
@[simp] theorem State.setMemFld_pageHeld (s : State) (a n lo w v : Nat) : (s.setMemFld a n lo w v).pageHeld = s.pageHeld := (rfl)
@[simp] theorem State.setMemFld_pages (s : State) (a n lo w v : Nat) : (s.setMemFld a n lo w v).pages = s.pages := (rfl)
@[simp] theorem State.setMemFld_sparedRows (s : State) (a n lo w v : Nat) : (s.setMemFld a n lo w v).sparedRows = s.sparedRows := (rfl)
@[simp] theorem State.setMemFld_patrolAt (s : State) (a n lo w v : Nat) : (s.setMemFld a n lo w v).patrolAt = s.patrolAt := (rfl)
@[simp] theorem State.setMemFld_sramAt (s : State) (a n lo w v : Nat) : (s.setMemFld a n lo w v).sramAt = s.sramAt := (rfl)
@[simp] theorem State.setMemFld_selfRefresh (s : State) (a n lo w v : Nat) : (s.setMemFld a n lo w v).selfRefresh = s.selfRefresh := (rfl)
@[simp] theorem State.setMemFld_refreshing (s : State) (a n lo w v : Nat) : (s.setMemFld a n lo w v).refreshing = s.refreshing := (rfl)
@[simp] theorem State.setMemFld_sessions (s : State) (a n lo w v : Nat) : (s.setMemFld a n lo w v).sessions = s.sessions := (rfl)
@[simp] theorem State.setMemFld_hpActive (s : State) (a n lo w v : Nat) : (s.setMemFld a n lo w v).hpActive = s.hpActive := (rfl)
@[simp] theorem State.setMemFld_hpApply (s : State) (a n lo w v : Nat) : (s.setMemFld a n lo w v).hpApply = s.hpApply := (rfl)
@[simp] theorem State.setMemFld_hostLink (s : State) (a n lo w v : Nat) : (s.setMemFld a n lo w v).hostLink = s.hostLink := (rfl)
@[simp] theorem State.setMemFld_zctWait (s : State) (a n lo w v : Nat) : (s.setMemFld a n lo w v).zctWait = s.zctWait := (rfl)
@[simp] theorem State.setMemFld_flash (s : State) (a n lo w v : Nat) : (s.setMemFld a n lo w v).flash = s.flash := (rfl)
@[simp] theorem State.setMemFld_bootSlots (s : State) (a n lo w v : Nat) : (s.setMemFld a n lo w v).bootSlots = s.bootSlots := (rfl)
@[simp] theorem State.setMemFld_cert (s : State) (a n lo w v : Nat) : (s.setMemFld a n lo w v).cert = s.cert := (rfl)
@[simp] theorem State.setMemFld_jorou (s : State) (a n lo w v : Nat) : (s.setMemFld a n lo w v).jorou = s.jorou := (rfl)
@[simp] theorem State.setMemFld_wear (s : State) (a n lo w v : Nat) : (s.setMemFld a n lo w v).wear = s.wear := (rfl)
@[simp] theorem State.setMemFld_ledger (s : State) (a n lo w v : Nat) : (s.setMemFld a n lo w v).ledger = s.ledger := (rfl)
@[simp] theorem State.setMemFld_resetOp (s : State) (a n lo w v : Nat) : (s.setMemFld a n lo w v).reset? = s.reset? := (rfl)
@[simp] theorem State.setMemFld_resetQ (s : State) (a n lo w v : Nat) : (s.setMemFld a n lo w v).resetQ = s.resetQ := (rfl)
@[simp] theorem State.setMemFld_resetsDone (s : State) (a n lo w v : Nat) : (s.setMemFld a n lo w v).resetsDone = s.resetsDone := (rfl)
@[simp] theorem State.setMemFld_captures (s : State) (a n lo w v : Nat) : (s.setMemFld a n lo w v).captures = s.captures := (rfl)
@[simp] theorem State.setMemFld_capture (s : State) (a n lo w v : Nat) : (s.setMemFld a n lo w v).capture = s.capture := (rfl)
@[simp] theorem State.setMemFld_capQ (s : State) (a n lo w v : Nat) : (s.setMemFld a n lo w v).capQ = s.capQ := (rfl)
@[simp] theorem State.setMemFld_scan (s : State) (a n lo w v : Nat) : (s.setMemFld a n lo w v).scan = s.scan := (rfl)
@[simp] theorem State.setMemFld_hangs (s : State) (a n lo w v : Nat) : (s.setMemFld a n lo w v).hangs = s.hangs := (rfl)
@[simp] theorem State.setMemFld_stalls (s : State) (a n lo w v : Nat) : (s.setMemFld a n lo w v).stalls = s.stalls := (rfl)
@[simp] theorem State.setMemFld_power (s : State) (a n lo w v : Nat) : (s.setMemFld a n lo w v).power = s.power := (rfl)
@[simp] theorem State.setMemFld_wb (s : State) (a n lo w v : Nat) : (s.setMemFld a n lo w v).wb = s.wb := (rfl)

/-! ### zeroBytes -/

@[simp] theorem State.zeroBytes_pending (s : State) (a n : Nat) : (s.zeroBytes a n).pending = s.pending := (rfl)
@[simp] theorem State.zeroBytes_cycle (s : State) (a n : Nat) : (s.zeroBytes a n).cycle = s.cycle := (rfl)
@[simp] theorem State.zeroBytes_grade (s : State) (a n : Nat) : (s.zeroBytes a n).grade = s.grade := (rfl)
@[simp] theorem State.zeroBytes_freeCtr (s : State) (a n : Nat) : (s.zeroBytes a n).freeCtr = s.freeCtr := (rfl)
@[simp] theorem State.zeroBytes_out (s : State) (a n : Nat) : (s.zeroBytes a n).out = s.out := (rfl)
@[simp] theorem State.zeroBytes_poison (s : State) (a n : Nat) : (s.zeroBytes a n).poison = s.poison := (rfl)
@[simp] theorem State.zeroBytes_regs (s : State) (a n : Nat) : (s.zeroBytes a n).regs = s.regs := (rfl)
@[simp] theorem State.zeroBytes_ports (s : State) (a n : Nat) : (s.zeroBytes a n).ports = s.ports := (rfl)
@[simp] theorem State.zeroBytes_laneMap (s : State) (a n : Nat) : (s.zeroBytes a n).laneMap = s.laneMap := (rfl)
@[simp] theorem State.zeroBytes_mapFixed (s : State) (a n : Nat) : (s.zeroBytes a n).mapFixed = s.mapFixed := (rfl)
@[simp] theorem State.zeroBytes_slots (s : State) (a n : Nat) : (s.zeroBytes a n).slots = s.slots := (rfl)
@[simp] theorem State.zeroBytes_queues (s : State) (a n : Nat) : (s.zeroBytes a n).queues = s.queues := (rfl)
@[simp] theorem State.zeroBytes_xin (s : State) (a n : Nat) : (s.zeroBytes a n).xin = s.xin := (rfl)
@[simp] theorem State.zeroBytes_xinLast (s : State) (a n : Nat) : (s.zeroBytes a n).xinLast = s.xinLast := (rfl)
@[simp] theorem State.zeroBytes_heldCells (s : State) (a n : Nat) : (s.zeroBytes a n).heldCells = s.heldCells := (rfl)
@[simp] theorem State.zeroBytes_retiredSlots (s : State) (a n : Nat) : (s.zeroBytes a n).retiredSlots = s.retiredSlots := (rfl)
@[simp] theorem State.zeroBytes_floor (s : State) (a n : Nat) : (s.zeroBytes a n).floor = s.floor := (rfl)
@[simp] theorem State.zeroBytes_mirrors (s : State) (a n : Nat) : (s.zeroBytes a n).mirrors = s.mirrors := (rfl)
@[simp] theorem State.zeroBytes_mirrorMade (s : State) (a n : Nat) : (s.zeroBytes a n).mirrorMade = s.mirrorMade := (rfl)
@[simp] theorem State.zeroBytes_sampleNext (s : State) (a n : Nat) : (s.zeroBytes a n).sampleNext = s.sampleNext := (rfl)
@[simp] theorem State.zeroBytes_sampleRead (s : State) (a n : Nat) : (s.zeroBytes a n).sampleRead = s.sampleRead := (rfl)
@[simp] theorem State.zeroBytes_smpStart (s : State) (a n : Nat) : (s.zeroBytes a n).smpStart = s.smpStart := (rfl)
@[simp] theorem State.zeroBytes_fails (s : State) (a n : Nat) : (s.zeroBytes a n).fails = s.fails := (rfl)
@[simp] theorem State.zeroBytes_echoes (s : State) (a n : Nat) : (s.zeroBytes a n).echoes = s.echoes := (rfl)
@[simp] theorem State.zeroBytes_echoGaps (s : State) (a n : Nat) : (s.zeroBytes a n).echoGaps = s.echoGaps := (rfl)
@[simp] theorem State.zeroBytes_noReturn (s : State) (a n : Nat) : (s.zeroBytes a n).noReturn = s.noReturn := (rfl)
@[simp] theorem State.zeroBytes_tiles (s : State) (a n : Nat) : (s.zeroBytes a n).tiles = s.tiles := (rfl)
@[simp] theorem State.zeroBytes_tileMap (s : State) (a n : Nat) : (s.zeroBytes a n).tileMap = s.tileMap := (rfl)
@[simp] theorem State.zeroBytes_failedTiles (s : State) (a n : Nat) : (s.zeroBytes a n).failedTiles = s.failedTiles := (rfl)
@[simp] theorem State.zeroBytes_candidates (s : State) (a n : Nat) : (s.zeroBytes a n).candidates = s.candidates := (rfl)
@[simp] theorem State.zeroBytes_inboxes (s : State) (a n : Nat) : (s.zeroBytes a n).inboxes = s.inboxes := (rfl)
@[simp] theorem State.zeroBytes_ctxs (s : State) (a n : Nat) : (s.zeroBytes a n).ctxs = s.ctxs := (rfl)
@[simp] theorem State.zeroBytes_ringPass (s : State) (a n : Nat) : (s.zeroBytes a n).ringPass = s.ringPass := (rfl)
@[simp] theorem State.zeroBytes_plans (s : State) (a n : Nat) : (s.zeroBytes a n).plans = s.plans := (rfl)
@[simp] theorem State.zeroBytes_planFp (s : State) (a n : Nat) : (s.zeroBytes a n).planFp = s.planFp := (rfl)
@[simp] theorem State.zeroBytes_groups (s : State) (a n : Nat) : (s.zeroBytes a n).groups = s.groups := (rfl)
@[simp] theorem State.zeroBytes_wmInbox (s : State) (a n : Nat) : (s.zeroBytes a n).wmInbox = s.wmInbox := (rfl)
@[simp] theorem State.zeroBytes_sets (s : State) (a n : Nat) : (s.zeroBytes a n).sets = s.sets := (rfl)
@[simp] theorem State.zeroBytes_ehts (s : State) (a n : Nat) : (s.zeroBytes a n).ehts = s.ehts := (rfl)
@[simp] theorem State.zeroBytes_expOpen (s : State) (a n : Nat) : (s.zeroBytes a n).expOpen = s.expOpen := (rfl)
@[simp] theorem State.zeroBytes_expIn (s : State) (a n : Nat) : (s.zeroBytes a n).expIn = s.expIn := (rfl)
@[simp] theorem State.zeroBytes_expWait (s : State) (a n : Nat) : (s.zeroBytes a n).expWait = s.expWait := (rfl)
@[simp] theorem State.zeroBytes_atomics (s : State) (a n : Nat) : (s.zeroBytes a n).atomics = s.atomics := (rfl)
@[simp] theorem State.zeroBytes_owners (s : State) (a n : Nat) : (s.zeroBytes a n).owners = s.owners := (rfl)
@[simp] theorem State.zeroBytes_bufs (s : State) (a n : Nat) : (s.zeroBytes a n).bufs = s.bufs := (rfl)
@[simp] theorem State.zeroBytes_pools (s : State) (a n : Nat) : (s.zeroBytes a n).pools = s.pools := (rfl)
@[simp] theorem State.zeroBytes_waiters (s : State) (a n : Nat) : (s.zeroBytes a n).waiters = s.waiters := (rfl)
@[simp] theorem State.zeroBytes_grants (s : State) (a n : Nat) : (s.zeroBytes a n).grants = s.grants := (rfl)
@[simp] theorem State.zeroBytes_rowErrs (s : State) (a n : Nat) : (s.zeroBytes a n).rowErrs = s.rowErrs := (rfl)
@[simp] theorem State.zeroBytes_pageErrs (s : State) (a n : Nat) : (s.zeroBytes a n).pageErrs = s.pageErrs := (rfl)
@[simp] theorem State.zeroBytes_pageHeld (s : State) (a n : Nat) : (s.zeroBytes a n).pageHeld = s.pageHeld := (rfl)
@[simp] theorem State.zeroBytes_pages (s : State) (a n : Nat) : (s.zeroBytes a n).pages = s.pages := (rfl)
@[simp] theorem State.zeroBytes_sparedRows (s : State) (a n : Nat) : (s.zeroBytes a n).sparedRows = s.sparedRows := (rfl)
@[simp] theorem State.zeroBytes_patrolAt (s : State) (a n : Nat) : (s.zeroBytes a n).patrolAt = s.patrolAt := (rfl)
@[simp] theorem State.zeroBytes_sramAt (s : State) (a n : Nat) : (s.zeroBytes a n).sramAt = s.sramAt := (rfl)
@[simp] theorem State.zeroBytes_selfRefresh (s : State) (a n : Nat) : (s.zeroBytes a n).selfRefresh = s.selfRefresh := (rfl)
@[simp] theorem State.zeroBytes_refreshing (s : State) (a n : Nat) : (s.zeroBytes a n).refreshing = s.refreshing := (rfl)
@[simp] theorem State.zeroBytes_sessions (s : State) (a n : Nat) : (s.zeroBytes a n).sessions = s.sessions := (rfl)
@[simp] theorem State.zeroBytes_hpActive (s : State) (a n : Nat) : (s.zeroBytes a n).hpActive = s.hpActive := (rfl)
@[simp] theorem State.zeroBytes_hpApply (s : State) (a n : Nat) : (s.zeroBytes a n).hpApply = s.hpApply := (rfl)
@[simp] theorem State.zeroBytes_hostLink (s : State) (a n : Nat) : (s.zeroBytes a n).hostLink = s.hostLink := (rfl)
@[simp] theorem State.zeroBytes_zctWait (s : State) (a n : Nat) : (s.zeroBytes a n).zctWait = s.zctWait := (rfl)
@[simp] theorem State.zeroBytes_flash (s : State) (a n : Nat) : (s.zeroBytes a n).flash = s.flash := (rfl)
@[simp] theorem State.zeroBytes_bootSlots (s : State) (a n : Nat) : (s.zeroBytes a n).bootSlots = s.bootSlots := (rfl)
@[simp] theorem State.zeroBytes_cert (s : State) (a n : Nat) : (s.zeroBytes a n).cert = s.cert := (rfl)
@[simp] theorem State.zeroBytes_jorou (s : State) (a n : Nat) : (s.zeroBytes a n).jorou = s.jorou := (rfl)
@[simp] theorem State.zeroBytes_wear (s : State) (a n : Nat) : (s.zeroBytes a n).wear = s.wear := (rfl)
@[simp] theorem State.zeroBytes_ledger (s : State) (a n : Nat) : (s.zeroBytes a n).ledger = s.ledger := (rfl)
@[simp] theorem State.zeroBytes_resetOp (s : State) (a n : Nat) : (s.zeroBytes a n).reset? = s.reset? := (rfl)
@[simp] theorem State.zeroBytes_resetQ (s : State) (a n : Nat) : (s.zeroBytes a n).resetQ = s.resetQ := (rfl)
@[simp] theorem State.zeroBytes_resetsDone (s : State) (a n : Nat) : (s.zeroBytes a n).resetsDone = s.resetsDone := (rfl)
@[simp] theorem State.zeroBytes_captures (s : State) (a n : Nat) : (s.zeroBytes a n).captures = s.captures := (rfl)
@[simp] theorem State.zeroBytes_capture (s : State) (a n : Nat) : (s.zeroBytes a n).capture = s.capture := (rfl)
@[simp] theorem State.zeroBytes_capQ (s : State) (a n : Nat) : (s.zeroBytes a n).capQ = s.capQ := (rfl)
@[simp] theorem State.zeroBytes_scan (s : State) (a n : Nat) : (s.zeroBytes a n).scan = s.scan := (rfl)
@[simp] theorem State.zeroBytes_hangs (s : State) (a n : Nat) : (s.zeroBytes a n).hangs = s.hangs := (rfl)
@[simp] theorem State.zeroBytes_stalls (s : State) (a n : Nat) : (s.zeroBytes a n).stalls = s.stalls := (rfl)
@[simp] theorem State.zeroBytes_power (s : State) (a n : Nat) : (s.zeroBytes a n).power = s.power := (rfl)
@[simp] theorem State.zeroBytes_wb (s : State) (a n : Nat) : (s.zeroBytes a n).wb = s.wb := (rfl)

/-! ### clearPoison -/

@[simp] theorem State.clearPoison_pending (s : State) (a n : Nat) : (s.clearPoison a n).pending = s.pending := (rfl)
@[simp] theorem State.clearPoison_cycle (s : State) (a n : Nat) : (s.clearPoison a n).cycle = s.cycle := (rfl)
@[simp] theorem State.clearPoison_grade (s : State) (a n : Nat) : (s.clearPoison a n).grade = s.grade := (rfl)
@[simp] theorem State.clearPoison_freeCtr (s : State) (a n : Nat) : (s.clearPoison a n).freeCtr = s.freeCtr := (rfl)
@[simp] theorem State.clearPoison_out (s : State) (a n : Nat) : (s.clearPoison a n).out = s.out := (rfl)
@[simp] theorem State.clearPoison_mem (s : State) (a n : Nat) : (s.clearPoison a n).mem = s.mem := (rfl)
@[simp] theorem State.clearPoison_regs (s : State) (a n : Nat) : (s.clearPoison a n).regs = s.regs := (rfl)
@[simp] theorem State.clearPoison_ports (s : State) (a n : Nat) : (s.clearPoison a n).ports = s.ports := (rfl)
@[simp] theorem State.clearPoison_laneMap (s : State) (a n : Nat) : (s.clearPoison a n).laneMap = s.laneMap := (rfl)
@[simp] theorem State.clearPoison_mapFixed (s : State) (a n : Nat) : (s.clearPoison a n).mapFixed = s.mapFixed := (rfl)
@[simp] theorem State.clearPoison_slots (s : State) (a n : Nat) : (s.clearPoison a n).slots = s.slots := (rfl)
@[simp] theorem State.clearPoison_queues (s : State) (a n : Nat) : (s.clearPoison a n).queues = s.queues := (rfl)
@[simp] theorem State.clearPoison_xin (s : State) (a n : Nat) : (s.clearPoison a n).xin = s.xin := (rfl)
@[simp] theorem State.clearPoison_xinLast (s : State) (a n : Nat) : (s.clearPoison a n).xinLast = s.xinLast := (rfl)
@[simp] theorem State.clearPoison_heldCells (s : State) (a n : Nat) : (s.clearPoison a n).heldCells = s.heldCells := (rfl)
@[simp] theorem State.clearPoison_retiredSlots (s : State) (a n : Nat) : (s.clearPoison a n).retiredSlots = s.retiredSlots := (rfl)
@[simp] theorem State.clearPoison_floor (s : State) (a n : Nat) : (s.clearPoison a n).floor = s.floor := (rfl)
@[simp] theorem State.clearPoison_mirrors (s : State) (a n : Nat) : (s.clearPoison a n).mirrors = s.mirrors := (rfl)
@[simp] theorem State.clearPoison_mirrorMade (s : State) (a n : Nat) : (s.clearPoison a n).mirrorMade = s.mirrorMade := (rfl)
@[simp] theorem State.clearPoison_sampleNext (s : State) (a n : Nat) : (s.clearPoison a n).sampleNext = s.sampleNext := (rfl)
@[simp] theorem State.clearPoison_sampleRead (s : State) (a n : Nat) : (s.clearPoison a n).sampleRead = s.sampleRead := (rfl)
@[simp] theorem State.clearPoison_smpStart (s : State) (a n : Nat) : (s.clearPoison a n).smpStart = s.smpStart := (rfl)
@[simp] theorem State.clearPoison_fails (s : State) (a n : Nat) : (s.clearPoison a n).fails = s.fails := (rfl)
@[simp] theorem State.clearPoison_echoes (s : State) (a n : Nat) : (s.clearPoison a n).echoes = s.echoes := (rfl)
@[simp] theorem State.clearPoison_echoGaps (s : State) (a n : Nat) : (s.clearPoison a n).echoGaps = s.echoGaps := (rfl)
@[simp] theorem State.clearPoison_noReturn (s : State) (a n : Nat) : (s.clearPoison a n).noReturn = s.noReturn := (rfl)
@[simp] theorem State.clearPoison_tiles (s : State) (a n : Nat) : (s.clearPoison a n).tiles = s.tiles := (rfl)
@[simp] theorem State.clearPoison_tileMap (s : State) (a n : Nat) : (s.clearPoison a n).tileMap = s.tileMap := (rfl)
@[simp] theorem State.clearPoison_failedTiles (s : State) (a n : Nat) : (s.clearPoison a n).failedTiles = s.failedTiles := (rfl)
@[simp] theorem State.clearPoison_candidates (s : State) (a n : Nat) : (s.clearPoison a n).candidates = s.candidates := (rfl)
@[simp] theorem State.clearPoison_inboxes (s : State) (a n : Nat) : (s.clearPoison a n).inboxes = s.inboxes := (rfl)
@[simp] theorem State.clearPoison_ctxs (s : State) (a n : Nat) : (s.clearPoison a n).ctxs = s.ctxs := (rfl)
@[simp] theorem State.clearPoison_ringPass (s : State) (a n : Nat) : (s.clearPoison a n).ringPass = s.ringPass := (rfl)
@[simp] theorem State.clearPoison_plans (s : State) (a n : Nat) : (s.clearPoison a n).plans = s.plans := (rfl)
@[simp] theorem State.clearPoison_planFp (s : State) (a n : Nat) : (s.clearPoison a n).planFp = s.planFp := (rfl)
@[simp] theorem State.clearPoison_groups (s : State) (a n : Nat) : (s.clearPoison a n).groups = s.groups := (rfl)
@[simp] theorem State.clearPoison_wmInbox (s : State) (a n : Nat) : (s.clearPoison a n).wmInbox = s.wmInbox := (rfl)
@[simp] theorem State.clearPoison_sets (s : State) (a n : Nat) : (s.clearPoison a n).sets = s.sets := (rfl)
@[simp] theorem State.clearPoison_ehts (s : State) (a n : Nat) : (s.clearPoison a n).ehts = s.ehts := (rfl)
@[simp] theorem State.clearPoison_expOpen (s : State) (a n : Nat) : (s.clearPoison a n).expOpen = s.expOpen := (rfl)
@[simp] theorem State.clearPoison_expIn (s : State) (a n : Nat) : (s.clearPoison a n).expIn = s.expIn := (rfl)
@[simp] theorem State.clearPoison_expWait (s : State) (a n : Nat) : (s.clearPoison a n).expWait = s.expWait := (rfl)
@[simp] theorem State.clearPoison_atomics (s : State) (a n : Nat) : (s.clearPoison a n).atomics = s.atomics := (rfl)
@[simp] theorem State.clearPoison_owners (s : State) (a n : Nat) : (s.clearPoison a n).owners = s.owners := (rfl)
@[simp] theorem State.clearPoison_bufs (s : State) (a n : Nat) : (s.clearPoison a n).bufs = s.bufs := (rfl)
@[simp] theorem State.clearPoison_pools (s : State) (a n : Nat) : (s.clearPoison a n).pools = s.pools := (rfl)
@[simp] theorem State.clearPoison_waiters (s : State) (a n : Nat) : (s.clearPoison a n).waiters = s.waiters := (rfl)
@[simp] theorem State.clearPoison_grants (s : State) (a n : Nat) : (s.clearPoison a n).grants = s.grants := (rfl)
@[simp] theorem State.clearPoison_rowErrs (s : State) (a n : Nat) : (s.clearPoison a n).rowErrs = s.rowErrs := (rfl)
@[simp] theorem State.clearPoison_pageErrs (s : State) (a n : Nat) : (s.clearPoison a n).pageErrs = s.pageErrs := (rfl)
@[simp] theorem State.clearPoison_pageHeld (s : State) (a n : Nat) : (s.clearPoison a n).pageHeld = s.pageHeld := (rfl)
@[simp] theorem State.clearPoison_pages (s : State) (a n : Nat) : (s.clearPoison a n).pages = s.pages := (rfl)
@[simp] theorem State.clearPoison_sparedRows (s : State) (a n : Nat) : (s.clearPoison a n).sparedRows = s.sparedRows := (rfl)
@[simp] theorem State.clearPoison_patrolAt (s : State) (a n : Nat) : (s.clearPoison a n).patrolAt = s.patrolAt := (rfl)
@[simp] theorem State.clearPoison_sramAt (s : State) (a n : Nat) : (s.clearPoison a n).sramAt = s.sramAt := (rfl)
@[simp] theorem State.clearPoison_selfRefresh (s : State) (a n : Nat) : (s.clearPoison a n).selfRefresh = s.selfRefresh := (rfl)
@[simp] theorem State.clearPoison_refreshing (s : State) (a n : Nat) : (s.clearPoison a n).refreshing = s.refreshing := (rfl)
@[simp] theorem State.clearPoison_sessions (s : State) (a n : Nat) : (s.clearPoison a n).sessions = s.sessions := (rfl)
@[simp] theorem State.clearPoison_hpActive (s : State) (a n : Nat) : (s.clearPoison a n).hpActive = s.hpActive := (rfl)
@[simp] theorem State.clearPoison_hpApply (s : State) (a n : Nat) : (s.clearPoison a n).hpApply = s.hpApply := (rfl)
@[simp] theorem State.clearPoison_hostLink (s : State) (a n : Nat) : (s.clearPoison a n).hostLink = s.hostLink := (rfl)
@[simp] theorem State.clearPoison_zctWait (s : State) (a n : Nat) : (s.clearPoison a n).zctWait = s.zctWait := (rfl)
@[simp] theorem State.clearPoison_flash (s : State) (a n : Nat) : (s.clearPoison a n).flash = s.flash := (rfl)
@[simp] theorem State.clearPoison_bootSlots (s : State) (a n : Nat) : (s.clearPoison a n).bootSlots = s.bootSlots := (rfl)
@[simp] theorem State.clearPoison_cert (s : State) (a n : Nat) : (s.clearPoison a n).cert = s.cert := (rfl)
@[simp] theorem State.clearPoison_jorou (s : State) (a n : Nat) : (s.clearPoison a n).jorou = s.jorou := (rfl)
@[simp] theorem State.clearPoison_wear (s : State) (a n : Nat) : (s.clearPoison a n).wear = s.wear := (rfl)
@[simp] theorem State.clearPoison_ledger (s : State) (a n : Nat) : (s.clearPoison a n).ledger = s.ledger := (rfl)
@[simp] theorem State.clearPoison_resetOp (s : State) (a n : Nat) : (s.clearPoison a n).reset? = s.reset? := (rfl)
@[simp] theorem State.clearPoison_resetQ (s : State) (a n : Nat) : (s.clearPoison a n).resetQ = s.resetQ := (rfl)
@[simp] theorem State.clearPoison_resetsDone (s : State) (a n : Nat) : (s.clearPoison a n).resetsDone = s.resetsDone := (rfl)
@[simp] theorem State.clearPoison_captures (s : State) (a n : Nat) : (s.clearPoison a n).captures = s.captures := (rfl)
@[simp] theorem State.clearPoison_capture (s : State) (a n : Nat) : (s.clearPoison a n).capture = s.capture := (rfl)
@[simp] theorem State.clearPoison_capQ (s : State) (a n : Nat) : (s.clearPoison a n).capQ = s.capQ := (rfl)
@[simp] theorem State.clearPoison_scan (s : State) (a n : Nat) : (s.clearPoison a n).scan = s.scan := (rfl)
@[simp] theorem State.clearPoison_hangs (s : State) (a n : Nat) : (s.clearPoison a n).hangs = s.hangs := (rfl)
@[simp] theorem State.clearPoison_stalls (s : State) (a n : Nat) : (s.clearPoison a n).stalls = s.stalls := (rfl)
@[simp] theorem State.clearPoison_power (s : State) (a n : Nat) : (s.clearPoison a n).power = s.power := (rfl)
@[simp] theorem State.clearPoison_wb (s : State) (a n : Nat) : (s.clearPoison a n).wb = s.wb := (rfl)

/-! ### put -/

@[simp] theorem State.put_pending (s : State) (a : Nat) (l : List Byte) : (s.put a l).pending = s.pending := (rfl)
@[simp] theorem State.put_cycle (s : State) (a : Nat) (l : List Byte) : (s.put a l).cycle = s.cycle := (rfl)
@[simp] theorem State.put_grade (s : State) (a : Nat) (l : List Byte) : (s.put a l).grade = s.grade := (rfl)
@[simp] theorem State.put_freeCtr (s : State) (a : Nat) (l : List Byte) : (s.put a l).freeCtr = s.freeCtr := (rfl)
@[simp] theorem State.put_out (s : State) (a : Nat) (l : List Byte) : (s.put a l).out = s.out := (rfl)
@[simp] theorem State.put_regs (s : State) (a : Nat) (l : List Byte) : (s.put a l).regs = s.regs := (rfl)
@[simp] theorem State.put_ports (s : State) (a : Nat) (l : List Byte) : (s.put a l).ports = s.ports := (rfl)
@[simp] theorem State.put_laneMap (s : State) (a : Nat) (l : List Byte) : (s.put a l).laneMap = s.laneMap := (rfl)
@[simp] theorem State.put_mapFixed (s : State) (a : Nat) (l : List Byte) : (s.put a l).mapFixed = s.mapFixed := (rfl)
@[simp] theorem State.put_slots (s : State) (a : Nat) (l : List Byte) : (s.put a l).slots = s.slots := (rfl)
@[simp] theorem State.put_queues (s : State) (a : Nat) (l : List Byte) : (s.put a l).queues = s.queues := (rfl)
@[simp] theorem State.put_xin (s : State) (a : Nat) (l : List Byte) : (s.put a l).xin = s.xin := (rfl)
@[simp] theorem State.put_xinLast (s : State) (a : Nat) (l : List Byte) : (s.put a l).xinLast = s.xinLast := (rfl)
@[simp] theorem State.put_heldCells (s : State) (a : Nat) (l : List Byte) : (s.put a l).heldCells = s.heldCells := (rfl)
@[simp] theorem State.put_retiredSlots (s : State) (a : Nat) (l : List Byte) : (s.put a l).retiredSlots = s.retiredSlots := (rfl)
@[simp] theorem State.put_floor (s : State) (a : Nat) (l : List Byte) : (s.put a l).floor = s.floor := (rfl)
@[simp] theorem State.put_mirrors (s : State) (a : Nat) (l : List Byte) : (s.put a l).mirrors = s.mirrors := (rfl)
@[simp] theorem State.put_mirrorMade (s : State) (a : Nat) (l : List Byte) : (s.put a l).mirrorMade = s.mirrorMade := (rfl)
@[simp] theorem State.put_sampleNext (s : State) (a : Nat) (l : List Byte) : (s.put a l).sampleNext = s.sampleNext := (rfl)
@[simp] theorem State.put_sampleRead (s : State) (a : Nat) (l : List Byte) : (s.put a l).sampleRead = s.sampleRead := (rfl)
@[simp] theorem State.put_smpStart (s : State) (a : Nat) (l : List Byte) : (s.put a l).smpStart = s.smpStart := (rfl)
@[simp] theorem State.put_fails (s : State) (a : Nat) (l : List Byte) : (s.put a l).fails = s.fails := (rfl)
@[simp] theorem State.put_echoes (s : State) (a : Nat) (l : List Byte) : (s.put a l).echoes = s.echoes := (rfl)
@[simp] theorem State.put_echoGaps (s : State) (a : Nat) (l : List Byte) : (s.put a l).echoGaps = s.echoGaps := (rfl)
@[simp] theorem State.put_noReturn (s : State) (a : Nat) (l : List Byte) : (s.put a l).noReturn = s.noReturn := (rfl)
@[simp] theorem State.put_tiles (s : State) (a : Nat) (l : List Byte) : (s.put a l).tiles = s.tiles := (rfl)
@[simp] theorem State.put_tileMap (s : State) (a : Nat) (l : List Byte) : (s.put a l).tileMap = s.tileMap := (rfl)
@[simp] theorem State.put_failedTiles (s : State) (a : Nat) (l : List Byte) : (s.put a l).failedTiles = s.failedTiles := (rfl)
@[simp] theorem State.put_candidates (s : State) (a : Nat) (l : List Byte) : (s.put a l).candidates = s.candidates := (rfl)
@[simp] theorem State.put_inboxes (s : State) (a : Nat) (l : List Byte) : (s.put a l).inboxes = s.inboxes := (rfl)
@[simp] theorem State.put_ctxs (s : State) (a : Nat) (l : List Byte) : (s.put a l).ctxs = s.ctxs := (rfl)
@[simp] theorem State.put_ringPass (s : State) (a : Nat) (l : List Byte) : (s.put a l).ringPass = s.ringPass := (rfl)
@[simp] theorem State.put_plans (s : State) (a : Nat) (l : List Byte) : (s.put a l).plans = s.plans := (rfl)
@[simp] theorem State.put_planFp (s : State) (a : Nat) (l : List Byte) : (s.put a l).planFp = s.planFp := (rfl)
@[simp] theorem State.put_groups (s : State) (a : Nat) (l : List Byte) : (s.put a l).groups = s.groups := (rfl)
@[simp] theorem State.put_wmInbox (s : State) (a : Nat) (l : List Byte) : (s.put a l).wmInbox = s.wmInbox := (rfl)
@[simp] theorem State.put_sets (s : State) (a : Nat) (l : List Byte) : (s.put a l).sets = s.sets := (rfl)
@[simp] theorem State.put_ehts (s : State) (a : Nat) (l : List Byte) : (s.put a l).ehts = s.ehts := (rfl)
@[simp] theorem State.put_expOpen (s : State) (a : Nat) (l : List Byte) : (s.put a l).expOpen = s.expOpen := (rfl)
@[simp] theorem State.put_expIn (s : State) (a : Nat) (l : List Byte) : (s.put a l).expIn = s.expIn := (rfl)
@[simp] theorem State.put_expWait (s : State) (a : Nat) (l : List Byte) : (s.put a l).expWait = s.expWait := (rfl)
@[simp] theorem State.put_atomics (s : State) (a : Nat) (l : List Byte) : (s.put a l).atomics = s.atomics := (rfl)
@[simp] theorem State.put_owners (s : State) (a : Nat) (l : List Byte) : (s.put a l).owners = s.owners := (rfl)
@[simp] theorem State.put_bufs (s : State) (a : Nat) (l : List Byte) : (s.put a l).bufs = s.bufs := (rfl)
@[simp] theorem State.put_pools (s : State) (a : Nat) (l : List Byte) : (s.put a l).pools = s.pools := (rfl)
@[simp] theorem State.put_waiters (s : State) (a : Nat) (l : List Byte) : (s.put a l).waiters = s.waiters := (rfl)
@[simp] theorem State.put_grants (s : State) (a : Nat) (l : List Byte) : (s.put a l).grants = s.grants := (rfl)
@[simp] theorem State.put_rowErrs (s : State) (a : Nat) (l : List Byte) : (s.put a l).rowErrs = s.rowErrs := (rfl)
@[simp] theorem State.put_pageErrs (s : State) (a : Nat) (l : List Byte) : (s.put a l).pageErrs = s.pageErrs := (rfl)
@[simp] theorem State.put_pageHeld (s : State) (a : Nat) (l : List Byte) : (s.put a l).pageHeld = s.pageHeld := (rfl)
@[simp] theorem State.put_pages (s : State) (a : Nat) (l : List Byte) : (s.put a l).pages = s.pages := (rfl)
@[simp] theorem State.put_sparedRows (s : State) (a : Nat) (l : List Byte) : (s.put a l).sparedRows = s.sparedRows := (rfl)
@[simp] theorem State.put_patrolAt (s : State) (a : Nat) (l : List Byte) : (s.put a l).patrolAt = s.patrolAt := (rfl)
@[simp] theorem State.put_sramAt (s : State) (a : Nat) (l : List Byte) : (s.put a l).sramAt = s.sramAt := (rfl)
@[simp] theorem State.put_selfRefresh (s : State) (a : Nat) (l : List Byte) : (s.put a l).selfRefresh = s.selfRefresh := (rfl)
@[simp] theorem State.put_refreshing (s : State) (a : Nat) (l : List Byte) : (s.put a l).refreshing = s.refreshing := (rfl)
@[simp] theorem State.put_sessions (s : State) (a : Nat) (l : List Byte) : (s.put a l).sessions = s.sessions := (rfl)
@[simp] theorem State.put_hpActive (s : State) (a : Nat) (l : List Byte) : (s.put a l).hpActive = s.hpActive := (rfl)
@[simp] theorem State.put_hpApply (s : State) (a : Nat) (l : List Byte) : (s.put a l).hpApply = s.hpApply := (rfl)
@[simp] theorem State.put_hostLink (s : State) (a : Nat) (l : List Byte) : (s.put a l).hostLink = s.hostLink := (rfl)
@[simp] theorem State.put_zctWait (s : State) (a : Nat) (l : List Byte) : (s.put a l).zctWait = s.zctWait := (rfl)
@[simp] theorem State.put_flash (s : State) (a : Nat) (l : List Byte) : (s.put a l).flash = s.flash := (rfl)
@[simp] theorem State.put_bootSlots (s : State) (a : Nat) (l : List Byte) : (s.put a l).bootSlots = s.bootSlots := (rfl)
@[simp] theorem State.put_cert (s : State) (a : Nat) (l : List Byte) : (s.put a l).cert = s.cert := (rfl)
@[simp] theorem State.put_jorou (s : State) (a : Nat) (l : List Byte) : (s.put a l).jorou = s.jorou := (rfl)
@[simp] theorem State.put_wear (s : State) (a : Nat) (l : List Byte) : (s.put a l).wear = s.wear := (rfl)
@[simp] theorem State.put_ledger (s : State) (a : Nat) (l : List Byte) : (s.put a l).ledger = s.ledger := (rfl)
@[simp] theorem State.put_resetOp (s : State) (a : Nat) (l : List Byte) : (s.put a l).reset? = s.reset? := (rfl)
@[simp] theorem State.put_resetQ (s : State) (a : Nat) (l : List Byte) : (s.put a l).resetQ = s.resetQ := (rfl)
@[simp] theorem State.put_resetsDone (s : State) (a : Nat) (l : List Byte) : (s.put a l).resetsDone = s.resetsDone := (rfl)
@[simp] theorem State.put_captures (s : State) (a : Nat) (l : List Byte) : (s.put a l).captures = s.captures := (rfl)
@[simp] theorem State.put_capture (s : State) (a : Nat) (l : List Byte) : (s.put a l).capture = s.capture := (rfl)
@[simp] theorem State.put_capQ (s : State) (a : Nat) (l : List Byte) : (s.put a l).capQ = s.capQ := (rfl)
@[simp] theorem State.put_scan (s : State) (a : Nat) (l : List Byte) : (s.put a l).scan = s.scan := (rfl)
@[simp] theorem State.put_hangs (s : State) (a : Nat) (l : List Byte) : (s.put a l).hangs = s.hangs := (rfl)
@[simp] theorem State.put_stalls (s : State) (a : Nat) (l : List Byte) : (s.put a l).stalls = s.stalls := (rfl)
@[simp] theorem State.put_power (s : State) (a : Nat) (l : List Byte) : (s.put a l).power = s.power := (rfl)
@[simp] theorem State.put_wb (s : State) (a : Nat) (l : List Byte) : (s.put a l).wb = s.wb := (rfl)

/-! ### setPort -/

@[simp] theorem State.setPort_pending (s : State) (p : Nat) (x : Port) : (s.setPort p x).pending = s.pending := (rfl)
@[simp] theorem State.setPort_cycle (s : State) (p : Nat) (x : Port) : (s.setPort p x).cycle = s.cycle := (rfl)
@[simp] theorem State.setPort_grade (s : State) (p : Nat) (x : Port) : (s.setPort p x).grade = s.grade := (rfl)
@[simp] theorem State.setPort_freeCtr (s : State) (p : Nat) (x : Port) : (s.setPort p x).freeCtr = s.freeCtr := (rfl)
@[simp] theorem State.setPort_out (s : State) (p : Nat) (x : Port) : (s.setPort p x).out = s.out := (rfl)
@[simp] theorem State.setPort_mem (s : State) (p : Nat) (x : Port) : (s.setPort p x).mem = s.mem := (rfl)
@[simp] theorem State.setPort_poison (s : State) (p : Nat) (x : Port) : (s.setPort p x).poison = s.poison := (rfl)
@[simp] theorem State.setPort_regs (s : State) (p : Nat) (x : Port) : (s.setPort p x).regs = s.regs := (rfl)
@[simp] theorem State.setPort_laneMap (s : State) (p : Nat) (x : Port) : (s.setPort p x).laneMap = s.laneMap := (rfl)
@[simp] theorem State.setPort_mapFixed (s : State) (p : Nat) (x : Port) : (s.setPort p x).mapFixed = s.mapFixed := (rfl)
@[simp] theorem State.setPort_slots (s : State) (p : Nat) (x : Port) : (s.setPort p x).slots = s.slots := (rfl)
@[simp] theorem State.setPort_queues (s : State) (p : Nat) (x : Port) : (s.setPort p x).queues = s.queues := (rfl)
@[simp] theorem State.setPort_xin (s : State) (p : Nat) (x : Port) : (s.setPort p x).xin = s.xin := (rfl)
@[simp] theorem State.setPort_xinLast (s : State) (p : Nat) (x : Port) : (s.setPort p x).xinLast = s.xinLast := (rfl)
@[simp] theorem State.setPort_heldCells (s : State) (p : Nat) (x : Port) : (s.setPort p x).heldCells = s.heldCells := (rfl)
@[simp] theorem State.setPort_retiredSlots (s : State) (p : Nat) (x : Port) : (s.setPort p x).retiredSlots = s.retiredSlots := (rfl)
@[simp] theorem State.setPort_floor (s : State) (p : Nat) (x : Port) : (s.setPort p x).floor = s.floor := (rfl)
@[simp] theorem State.setPort_mirrors (s : State) (p : Nat) (x : Port) : (s.setPort p x).mirrors = s.mirrors := (rfl)
@[simp] theorem State.setPort_mirrorMade (s : State) (p : Nat) (x : Port) : (s.setPort p x).mirrorMade = s.mirrorMade := (rfl)
@[simp] theorem State.setPort_sampleNext (s : State) (p : Nat) (x : Port) : (s.setPort p x).sampleNext = s.sampleNext := (rfl)
@[simp] theorem State.setPort_sampleRead (s : State) (p : Nat) (x : Port) : (s.setPort p x).sampleRead = s.sampleRead := (rfl)
@[simp] theorem State.setPort_smpStart (s : State) (p : Nat) (x : Port) : (s.setPort p x).smpStart = s.smpStart := (rfl)
@[simp] theorem State.setPort_fails (s : State) (p : Nat) (x : Port) : (s.setPort p x).fails = s.fails := (rfl)
@[simp] theorem State.setPort_echoes (s : State) (p : Nat) (x : Port) : (s.setPort p x).echoes = s.echoes := (rfl)
@[simp] theorem State.setPort_echoGaps (s : State) (p : Nat) (x : Port) : (s.setPort p x).echoGaps = s.echoGaps := (rfl)
@[simp] theorem State.setPort_noReturn (s : State) (p : Nat) (x : Port) : (s.setPort p x).noReturn = s.noReturn := (rfl)
@[simp] theorem State.setPort_tiles (s : State) (p : Nat) (x : Port) : (s.setPort p x).tiles = s.tiles := (rfl)
@[simp] theorem State.setPort_tileMap (s : State) (p : Nat) (x : Port) : (s.setPort p x).tileMap = s.tileMap := (rfl)
@[simp] theorem State.setPort_failedTiles (s : State) (p : Nat) (x : Port) : (s.setPort p x).failedTiles = s.failedTiles := (rfl)
@[simp] theorem State.setPort_candidates (s : State) (p : Nat) (x : Port) : (s.setPort p x).candidates = s.candidates := (rfl)
@[simp] theorem State.setPort_inboxes (s : State) (p : Nat) (x : Port) : (s.setPort p x).inboxes = s.inboxes := (rfl)
@[simp] theorem State.setPort_ctxs (s : State) (p : Nat) (x : Port) : (s.setPort p x).ctxs = s.ctxs := (rfl)
@[simp] theorem State.setPort_ringPass (s : State) (p : Nat) (x : Port) : (s.setPort p x).ringPass = s.ringPass := (rfl)
@[simp] theorem State.setPort_plans (s : State) (p : Nat) (x : Port) : (s.setPort p x).plans = s.plans := (rfl)
@[simp] theorem State.setPort_planFp (s : State) (p : Nat) (x : Port) : (s.setPort p x).planFp = s.planFp := (rfl)
@[simp] theorem State.setPort_groups (s : State) (p : Nat) (x : Port) : (s.setPort p x).groups = s.groups := (rfl)
@[simp] theorem State.setPort_wmInbox (s : State) (p : Nat) (x : Port) : (s.setPort p x).wmInbox = s.wmInbox := (rfl)
@[simp] theorem State.setPort_sets (s : State) (p : Nat) (x : Port) : (s.setPort p x).sets = s.sets := (rfl)
@[simp] theorem State.setPort_ehts (s : State) (p : Nat) (x : Port) : (s.setPort p x).ehts = s.ehts := (rfl)
@[simp] theorem State.setPort_expOpen (s : State) (p : Nat) (x : Port) : (s.setPort p x).expOpen = s.expOpen := (rfl)
@[simp] theorem State.setPort_expIn (s : State) (p : Nat) (x : Port) : (s.setPort p x).expIn = s.expIn := (rfl)
@[simp] theorem State.setPort_expWait (s : State) (p : Nat) (x : Port) : (s.setPort p x).expWait = s.expWait := (rfl)
@[simp] theorem State.setPort_atomics (s : State) (p : Nat) (x : Port) : (s.setPort p x).atomics = s.atomics := (rfl)
@[simp] theorem State.setPort_owners (s : State) (p : Nat) (x : Port) : (s.setPort p x).owners = s.owners := (rfl)
@[simp] theorem State.setPort_bufs (s : State) (p : Nat) (x : Port) : (s.setPort p x).bufs = s.bufs := (rfl)
@[simp] theorem State.setPort_pools (s : State) (p : Nat) (x : Port) : (s.setPort p x).pools = s.pools := (rfl)
@[simp] theorem State.setPort_waiters (s : State) (p : Nat) (x : Port) : (s.setPort p x).waiters = s.waiters := (rfl)
@[simp] theorem State.setPort_grants (s : State) (p : Nat) (x : Port) : (s.setPort p x).grants = s.grants := (rfl)
@[simp] theorem State.setPort_rowErrs (s : State) (p : Nat) (x : Port) : (s.setPort p x).rowErrs = s.rowErrs := (rfl)
@[simp] theorem State.setPort_pageErrs (s : State) (p : Nat) (x : Port) : (s.setPort p x).pageErrs = s.pageErrs := (rfl)
@[simp] theorem State.setPort_pageHeld (s : State) (p : Nat) (x : Port) : (s.setPort p x).pageHeld = s.pageHeld := (rfl)
@[simp] theorem State.setPort_pages (s : State) (p : Nat) (x : Port) : (s.setPort p x).pages = s.pages := (rfl)
@[simp] theorem State.setPort_sparedRows (s : State) (p : Nat) (x : Port) : (s.setPort p x).sparedRows = s.sparedRows := (rfl)
@[simp] theorem State.setPort_patrolAt (s : State) (p : Nat) (x : Port) : (s.setPort p x).patrolAt = s.patrolAt := (rfl)
@[simp] theorem State.setPort_sramAt (s : State) (p : Nat) (x : Port) : (s.setPort p x).sramAt = s.sramAt := (rfl)
@[simp] theorem State.setPort_selfRefresh (s : State) (p : Nat) (x : Port) : (s.setPort p x).selfRefresh = s.selfRefresh := (rfl)
@[simp] theorem State.setPort_refreshing (s : State) (p : Nat) (x : Port) : (s.setPort p x).refreshing = s.refreshing := (rfl)
@[simp] theorem State.setPort_sessions (s : State) (p : Nat) (x : Port) : (s.setPort p x).sessions = s.sessions := (rfl)
@[simp] theorem State.setPort_hpActive (s : State) (p : Nat) (x : Port) : (s.setPort p x).hpActive = s.hpActive := (rfl)
@[simp] theorem State.setPort_hpApply (s : State) (p : Nat) (x : Port) : (s.setPort p x).hpApply = s.hpApply := (rfl)
@[simp] theorem State.setPort_hostLink (s : State) (p : Nat) (x : Port) : (s.setPort p x).hostLink = s.hostLink := (rfl)
@[simp] theorem State.setPort_zctWait (s : State) (p : Nat) (x : Port) : (s.setPort p x).zctWait = s.zctWait := (rfl)
@[simp] theorem State.setPort_flash (s : State) (p : Nat) (x : Port) : (s.setPort p x).flash = s.flash := (rfl)
@[simp] theorem State.setPort_bootSlots (s : State) (p : Nat) (x : Port) : (s.setPort p x).bootSlots = s.bootSlots := (rfl)
@[simp] theorem State.setPort_cert (s : State) (p : Nat) (x : Port) : (s.setPort p x).cert = s.cert := (rfl)
@[simp] theorem State.setPort_jorou (s : State) (p : Nat) (x : Port) : (s.setPort p x).jorou = s.jorou := (rfl)
@[simp] theorem State.setPort_wear (s : State) (p : Nat) (x : Port) : (s.setPort p x).wear = s.wear := (rfl)
@[simp] theorem State.setPort_ledger (s : State) (p : Nat) (x : Port) : (s.setPort p x).ledger = s.ledger := (rfl)
@[simp] theorem State.setPort_resetOp (s : State) (p : Nat) (x : Port) : (s.setPort p x).reset? = s.reset? := (rfl)
@[simp] theorem State.setPort_resetQ (s : State) (p : Nat) (x : Port) : (s.setPort p x).resetQ = s.resetQ := (rfl)
@[simp] theorem State.setPort_resetsDone (s : State) (p : Nat) (x : Port) : (s.setPort p x).resetsDone = s.resetsDone := (rfl)
@[simp] theorem State.setPort_captures (s : State) (p : Nat) (x : Port) : (s.setPort p x).captures = s.captures := (rfl)
@[simp] theorem State.setPort_capture (s : State) (p : Nat) (x : Port) : (s.setPort p x).capture = s.capture := (rfl)
@[simp] theorem State.setPort_capQ (s : State) (p : Nat) (x : Port) : (s.setPort p x).capQ = s.capQ := (rfl)
@[simp] theorem State.setPort_scan (s : State) (p : Nat) (x : Port) : (s.setPort p x).scan = s.scan := (rfl)
@[simp] theorem State.setPort_hangs (s : State) (p : Nat) (x : Port) : (s.setPort p x).hangs = s.hangs := (rfl)
@[simp] theorem State.setPort_stalls (s : State) (p : Nat) (x : Port) : (s.setPort p x).stalls = s.stalls := (rfl)
@[simp] theorem State.setPort_power (s : State) (p : Nat) (x : Port) : (s.setPort p x).power = s.power := (rfl)
@[simp] theorem State.setPort_wb (s : State) (p : Nat) (x : Port) : (s.setPort p x).wb = s.wb := (rfl)

/-! ### modPort -/

@[simp] theorem State.modPort_pending (s : State) (p : Nat) (f : Port → Port) : (s.modPort p f).pending = s.pending := (rfl)
@[simp] theorem State.modPort_cycle (s : State) (p : Nat) (f : Port → Port) : (s.modPort p f).cycle = s.cycle := (rfl)
@[simp] theorem State.modPort_grade (s : State) (p : Nat) (f : Port → Port) : (s.modPort p f).grade = s.grade := (rfl)
@[simp] theorem State.modPort_freeCtr (s : State) (p : Nat) (f : Port → Port) : (s.modPort p f).freeCtr = s.freeCtr := (rfl)
@[simp] theorem State.modPort_out (s : State) (p : Nat) (f : Port → Port) : (s.modPort p f).out = s.out := (rfl)
@[simp] theorem State.modPort_mem (s : State) (p : Nat) (f : Port → Port) : (s.modPort p f).mem = s.mem := (rfl)
@[simp] theorem State.modPort_poison (s : State) (p : Nat) (f : Port → Port) : (s.modPort p f).poison = s.poison := (rfl)
@[simp] theorem State.modPort_regs (s : State) (p : Nat) (f : Port → Port) : (s.modPort p f).regs = s.regs := (rfl)
@[simp] theorem State.modPort_laneMap (s : State) (p : Nat) (f : Port → Port) : (s.modPort p f).laneMap = s.laneMap := (rfl)
@[simp] theorem State.modPort_mapFixed (s : State) (p : Nat) (f : Port → Port) : (s.modPort p f).mapFixed = s.mapFixed := (rfl)
@[simp] theorem State.modPort_slots (s : State) (p : Nat) (f : Port → Port) : (s.modPort p f).slots = s.slots := (rfl)
@[simp] theorem State.modPort_queues (s : State) (p : Nat) (f : Port → Port) : (s.modPort p f).queues = s.queues := (rfl)
@[simp] theorem State.modPort_xin (s : State) (p : Nat) (f : Port → Port) : (s.modPort p f).xin = s.xin := (rfl)
@[simp] theorem State.modPort_xinLast (s : State) (p : Nat) (f : Port → Port) : (s.modPort p f).xinLast = s.xinLast := (rfl)
@[simp] theorem State.modPort_heldCells (s : State) (p : Nat) (f : Port → Port) : (s.modPort p f).heldCells = s.heldCells := (rfl)
@[simp] theorem State.modPort_retiredSlots (s : State) (p : Nat) (f : Port → Port) : (s.modPort p f).retiredSlots = s.retiredSlots := (rfl)
@[simp] theorem State.modPort_floor (s : State) (p : Nat) (f : Port → Port) : (s.modPort p f).floor = s.floor := (rfl)
@[simp] theorem State.modPort_mirrors (s : State) (p : Nat) (f : Port → Port) : (s.modPort p f).mirrors = s.mirrors := (rfl)
@[simp] theorem State.modPort_mirrorMade (s : State) (p : Nat) (f : Port → Port) : (s.modPort p f).mirrorMade = s.mirrorMade := (rfl)
@[simp] theorem State.modPort_sampleNext (s : State) (p : Nat) (f : Port → Port) : (s.modPort p f).sampleNext = s.sampleNext := (rfl)
@[simp] theorem State.modPort_sampleRead (s : State) (p : Nat) (f : Port → Port) : (s.modPort p f).sampleRead = s.sampleRead := (rfl)
@[simp] theorem State.modPort_smpStart (s : State) (p : Nat) (f : Port → Port) : (s.modPort p f).smpStart = s.smpStart := (rfl)
@[simp] theorem State.modPort_fails (s : State) (p : Nat) (f : Port → Port) : (s.modPort p f).fails = s.fails := (rfl)
@[simp] theorem State.modPort_echoes (s : State) (p : Nat) (f : Port → Port) : (s.modPort p f).echoes = s.echoes := (rfl)
@[simp] theorem State.modPort_echoGaps (s : State) (p : Nat) (f : Port → Port) : (s.modPort p f).echoGaps = s.echoGaps := (rfl)
@[simp] theorem State.modPort_noReturn (s : State) (p : Nat) (f : Port → Port) : (s.modPort p f).noReturn = s.noReturn := (rfl)
@[simp] theorem State.modPort_tiles (s : State) (p : Nat) (f : Port → Port) : (s.modPort p f).tiles = s.tiles := (rfl)
@[simp] theorem State.modPort_tileMap (s : State) (p : Nat) (f : Port → Port) : (s.modPort p f).tileMap = s.tileMap := (rfl)
@[simp] theorem State.modPort_failedTiles (s : State) (p : Nat) (f : Port → Port) : (s.modPort p f).failedTiles = s.failedTiles := (rfl)
@[simp] theorem State.modPort_candidates (s : State) (p : Nat) (f : Port → Port) : (s.modPort p f).candidates = s.candidates := (rfl)
@[simp] theorem State.modPort_inboxes (s : State) (p : Nat) (f : Port → Port) : (s.modPort p f).inboxes = s.inboxes := (rfl)
@[simp] theorem State.modPort_ctxs (s : State) (p : Nat) (f : Port → Port) : (s.modPort p f).ctxs = s.ctxs := (rfl)
@[simp] theorem State.modPort_ringPass (s : State) (p : Nat) (f : Port → Port) : (s.modPort p f).ringPass = s.ringPass := (rfl)
@[simp] theorem State.modPort_plans (s : State) (p : Nat) (f : Port → Port) : (s.modPort p f).plans = s.plans := (rfl)
@[simp] theorem State.modPort_planFp (s : State) (p : Nat) (f : Port → Port) : (s.modPort p f).planFp = s.planFp := (rfl)
@[simp] theorem State.modPort_groups (s : State) (p : Nat) (f : Port → Port) : (s.modPort p f).groups = s.groups := (rfl)
@[simp] theorem State.modPort_wmInbox (s : State) (p : Nat) (f : Port → Port) : (s.modPort p f).wmInbox = s.wmInbox := (rfl)
@[simp] theorem State.modPort_sets (s : State) (p : Nat) (f : Port → Port) : (s.modPort p f).sets = s.sets := (rfl)
@[simp] theorem State.modPort_ehts (s : State) (p : Nat) (f : Port → Port) : (s.modPort p f).ehts = s.ehts := (rfl)
@[simp] theorem State.modPort_expOpen (s : State) (p : Nat) (f : Port → Port) : (s.modPort p f).expOpen = s.expOpen := (rfl)
@[simp] theorem State.modPort_expIn (s : State) (p : Nat) (f : Port → Port) : (s.modPort p f).expIn = s.expIn := (rfl)
@[simp] theorem State.modPort_expWait (s : State) (p : Nat) (f : Port → Port) : (s.modPort p f).expWait = s.expWait := (rfl)
@[simp] theorem State.modPort_atomics (s : State) (p : Nat) (f : Port → Port) : (s.modPort p f).atomics = s.atomics := (rfl)
@[simp] theorem State.modPort_owners (s : State) (p : Nat) (f : Port → Port) : (s.modPort p f).owners = s.owners := (rfl)
@[simp] theorem State.modPort_bufs (s : State) (p : Nat) (f : Port → Port) : (s.modPort p f).bufs = s.bufs := (rfl)
@[simp] theorem State.modPort_pools (s : State) (p : Nat) (f : Port → Port) : (s.modPort p f).pools = s.pools := (rfl)
@[simp] theorem State.modPort_waiters (s : State) (p : Nat) (f : Port → Port) : (s.modPort p f).waiters = s.waiters := (rfl)
@[simp] theorem State.modPort_grants (s : State) (p : Nat) (f : Port → Port) : (s.modPort p f).grants = s.grants := (rfl)
@[simp] theorem State.modPort_rowErrs (s : State) (p : Nat) (f : Port → Port) : (s.modPort p f).rowErrs = s.rowErrs := (rfl)
@[simp] theorem State.modPort_pageErrs (s : State) (p : Nat) (f : Port → Port) : (s.modPort p f).pageErrs = s.pageErrs := (rfl)
@[simp] theorem State.modPort_pageHeld (s : State) (p : Nat) (f : Port → Port) : (s.modPort p f).pageHeld = s.pageHeld := (rfl)
@[simp] theorem State.modPort_pages (s : State) (p : Nat) (f : Port → Port) : (s.modPort p f).pages = s.pages := (rfl)
@[simp] theorem State.modPort_sparedRows (s : State) (p : Nat) (f : Port → Port) : (s.modPort p f).sparedRows = s.sparedRows := (rfl)
@[simp] theorem State.modPort_patrolAt (s : State) (p : Nat) (f : Port → Port) : (s.modPort p f).patrolAt = s.patrolAt := (rfl)
@[simp] theorem State.modPort_sramAt (s : State) (p : Nat) (f : Port → Port) : (s.modPort p f).sramAt = s.sramAt := (rfl)
@[simp] theorem State.modPort_selfRefresh (s : State) (p : Nat) (f : Port → Port) : (s.modPort p f).selfRefresh = s.selfRefresh := (rfl)
@[simp] theorem State.modPort_refreshing (s : State) (p : Nat) (f : Port → Port) : (s.modPort p f).refreshing = s.refreshing := (rfl)
@[simp] theorem State.modPort_sessions (s : State) (p : Nat) (f : Port → Port) : (s.modPort p f).sessions = s.sessions := (rfl)
@[simp] theorem State.modPort_hpActive (s : State) (p : Nat) (f : Port → Port) : (s.modPort p f).hpActive = s.hpActive := (rfl)
@[simp] theorem State.modPort_hpApply (s : State) (p : Nat) (f : Port → Port) : (s.modPort p f).hpApply = s.hpApply := (rfl)
@[simp] theorem State.modPort_hostLink (s : State) (p : Nat) (f : Port → Port) : (s.modPort p f).hostLink = s.hostLink := (rfl)
@[simp] theorem State.modPort_zctWait (s : State) (p : Nat) (f : Port → Port) : (s.modPort p f).zctWait = s.zctWait := (rfl)
@[simp] theorem State.modPort_flash (s : State) (p : Nat) (f : Port → Port) : (s.modPort p f).flash = s.flash := (rfl)
@[simp] theorem State.modPort_bootSlots (s : State) (p : Nat) (f : Port → Port) : (s.modPort p f).bootSlots = s.bootSlots := (rfl)
@[simp] theorem State.modPort_cert (s : State) (p : Nat) (f : Port → Port) : (s.modPort p f).cert = s.cert := (rfl)
@[simp] theorem State.modPort_jorou (s : State) (p : Nat) (f : Port → Port) : (s.modPort p f).jorou = s.jorou := (rfl)
@[simp] theorem State.modPort_wear (s : State) (p : Nat) (f : Port → Port) : (s.modPort p f).wear = s.wear := (rfl)
@[simp] theorem State.modPort_ledger (s : State) (p : Nat) (f : Port → Port) : (s.modPort p f).ledger = s.ledger := (rfl)
@[simp] theorem State.modPort_resetOp (s : State) (p : Nat) (f : Port → Port) : (s.modPort p f).reset? = s.reset? := (rfl)
@[simp] theorem State.modPort_resetQ (s : State) (p : Nat) (f : Port → Port) : (s.modPort p f).resetQ = s.resetQ := (rfl)
@[simp] theorem State.modPort_resetsDone (s : State) (p : Nat) (f : Port → Port) : (s.modPort p f).resetsDone = s.resetsDone := (rfl)
@[simp] theorem State.modPort_captures (s : State) (p : Nat) (f : Port → Port) : (s.modPort p f).captures = s.captures := (rfl)
@[simp] theorem State.modPort_capture (s : State) (p : Nat) (f : Port → Port) : (s.modPort p f).capture = s.capture := (rfl)
@[simp] theorem State.modPort_capQ (s : State) (p : Nat) (f : Port → Port) : (s.modPort p f).capQ = s.capQ := (rfl)
@[simp] theorem State.modPort_scan (s : State) (p : Nat) (f : Port → Port) : (s.modPort p f).scan = s.scan := (rfl)
@[simp] theorem State.modPort_hangs (s : State) (p : Nat) (f : Port → Port) : (s.modPort p f).hangs = s.hangs := (rfl)
@[simp] theorem State.modPort_stalls (s : State) (p : Nat) (f : Port → Port) : (s.modPort p f).stalls = s.stalls := (rfl)
@[simp] theorem State.modPort_power (s : State) (p : Nat) (f : Port → Port) : (s.modPort p f).power = s.power := (rfl)
@[simp] theorem State.modPort_wb (s : State) (p : Nat) (f : Port → Port) : (s.modPort p f).wb = s.wb := (rfl)

/-! ### modVc -/

@[simp] theorem State.modVc_pending (s : State) (p v : Nat) (f : Vc → Vc) : (s.modVc p v f).pending = s.pending := (rfl)
@[simp] theorem State.modVc_cycle (s : State) (p v : Nat) (f : Vc → Vc) : (s.modVc p v f).cycle = s.cycle := (rfl)
@[simp] theorem State.modVc_grade (s : State) (p v : Nat) (f : Vc → Vc) : (s.modVc p v f).grade = s.grade := (rfl)
@[simp] theorem State.modVc_freeCtr (s : State) (p v : Nat) (f : Vc → Vc) : (s.modVc p v f).freeCtr = s.freeCtr := (rfl)
@[simp] theorem State.modVc_out (s : State) (p v : Nat) (f : Vc → Vc) : (s.modVc p v f).out = s.out := (rfl)
@[simp] theorem State.modVc_mem (s : State) (p v : Nat) (f : Vc → Vc) : (s.modVc p v f).mem = s.mem := (rfl)
@[simp] theorem State.modVc_poison (s : State) (p v : Nat) (f : Vc → Vc) : (s.modVc p v f).poison = s.poison := (rfl)
@[simp] theorem State.modVc_regs (s : State) (p v : Nat) (f : Vc → Vc) : (s.modVc p v f).regs = s.regs := (rfl)
@[simp] theorem State.modVc_laneMap (s : State) (p v : Nat) (f : Vc → Vc) : (s.modVc p v f).laneMap = s.laneMap := (rfl)
@[simp] theorem State.modVc_mapFixed (s : State) (p v : Nat) (f : Vc → Vc) : (s.modVc p v f).mapFixed = s.mapFixed := (rfl)
@[simp] theorem State.modVc_slots (s : State) (p v : Nat) (f : Vc → Vc) : (s.modVc p v f).slots = s.slots := (rfl)
@[simp] theorem State.modVc_queues (s : State) (p v : Nat) (f : Vc → Vc) : (s.modVc p v f).queues = s.queues := (rfl)
@[simp] theorem State.modVc_xin (s : State) (p v : Nat) (f : Vc → Vc) : (s.modVc p v f).xin = s.xin := (rfl)
@[simp] theorem State.modVc_xinLast (s : State) (p v : Nat) (f : Vc → Vc) : (s.modVc p v f).xinLast = s.xinLast := (rfl)
@[simp] theorem State.modVc_heldCells (s : State) (p v : Nat) (f : Vc → Vc) : (s.modVc p v f).heldCells = s.heldCells := (rfl)
@[simp] theorem State.modVc_retiredSlots (s : State) (p v : Nat) (f : Vc → Vc) : (s.modVc p v f).retiredSlots = s.retiredSlots := (rfl)
@[simp] theorem State.modVc_floor (s : State) (p v : Nat) (f : Vc → Vc) : (s.modVc p v f).floor = s.floor := (rfl)
@[simp] theorem State.modVc_mirrors (s : State) (p v : Nat) (f : Vc → Vc) : (s.modVc p v f).mirrors = s.mirrors := (rfl)
@[simp] theorem State.modVc_mirrorMade (s : State) (p v : Nat) (f : Vc → Vc) : (s.modVc p v f).mirrorMade = s.mirrorMade := (rfl)
@[simp] theorem State.modVc_sampleNext (s : State) (p v : Nat) (f : Vc → Vc) : (s.modVc p v f).sampleNext = s.sampleNext := (rfl)
@[simp] theorem State.modVc_sampleRead (s : State) (p v : Nat) (f : Vc → Vc) : (s.modVc p v f).sampleRead = s.sampleRead := (rfl)
@[simp] theorem State.modVc_smpStart (s : State) (p v : Nat) (f : Vc → Vc) : (s.modVc p v f).smpStart = s.smpStart := (rfl)
@[simp] theorem State.modVc_fails (s : State) (p v : Nat) (f : Vc → Vc) : (s.modVc p v f).fails = s.fails := (rfl)
@[simp] theorem State.modVc_echoes (s : State) (p v : Nat) (f : Vc → Vc) : (s.modVc p v f).echoes = s.echoes := (rfl)
@[simp] theorem State.modVc_echoGaps (s : State) (p v : Nat) (f : Vc → Vc) : (s.modVc p v f).echoGaps = s.echoGaps := (rfl)
@[simp] theorem State.modVc_noReturn (s : State) (p v : Nat) (f : Vc → Vc) : (s.modVc p v f).noReturn = s.noReturn := (rfl)
@[simp] theorem State.modVc_tiles (s : State) (p v : Nat) (f : Vc → Vc) : (s.modVc p v f).tiles = s.tiles := (rfl)
@[simp] theorem State.modVc_tileMap (s : State) (p v : Nat) (f : Vc → Vc) : (s.modVc p v f).tileMap = s.tileMap := (rfl)
@[simp] theorem State.modVc_failedTiles (s : State) (p v : Nat) (f : Vc → Vc) : (s.modVc p v f).failedTiles = s.failedTiles := (rfl)
@[simp] theorem State.modVc_candidates (s : State) (p v : Nat) (f : Vc → Vc) : (s.modVc p v f).candidates = s.candidates := (rfl)
@[simp] theorem State.modVc_inboxes (s : State) (p v : Nat) (f : Vc → Vc) : (s.modVc p v f).inboxes = s.inboxes := (rfl)
@[simp] theorem State.modVc_ctxs (s : State) (p v : Nat) (f : Vc → Vc) : (s.modVc p v f).ctxs = s.ctxs := (rfl)
@[simp] theorem State.modVc_ringPass (s : State) (p v : Nat) (f : Vc → Vc) : (s.modVc p v f).ringPass = s.ringPass := (rfl)
@[simp] theorem State.modVc_plans (s : State) (p v : Nat) (f : Vc → Vc) : (s.modVc p v f).plans = s.plans := (rfl)
@[simp] theorem State.modVc_planFp (s : State) (p v : Nat) (f : Vc → Vc) : (s.modVc p v f).planFp = s.planFp := (rfl)
@[simp] theorem State.modVc_groups (s : State) (p v : Nat) (f : Vc → Vc) : (s.modVc p v f).groups = s.groups := (rfl)
@[simp] theorem State.modVc_wmInbox (s : State) (p v : Nat) (f : Vc → Vc) : (s.modVc p v f).wmInbox = s.wmInbox := (rfl)
@[simp] theorem State.modVc_sets (s : State) (p v : Nat) (f : Vc → Vc) : (s.modVc p v f).sets = s.sets := (rfl)
@[simp] theorem State.modVc_ehts (s : State) (p v : Nat) (f : Vc → Vc) : (s.modVc p v f).ehts = s.ehts := (rfl)
@[simp] theorem State.modVc_expOpen (s : State) (p v : Nat) (f : Vc → Vc) : (s.modVc p v f).expOpen = s.expOpen := (rfl)
@[simp] theorem State.modVc_expIn (s : State) (p v : Nat) (f : Vc → Vc) : (s.modVc p v f).expIn = s.expIn := (rfl)
@[simp] theorem State.modVc_expWait (s : State) (p v : Nat) (f : Vc → Vc) : (s.modVc p v f).expWait = s.expWait := (rfl)
@[simp] theorem State.modVc_atomics (s : State) (p v : Nat) (f : Vc → Vc) : (s.modVc p v f).atomics = s.atomics := (rfl)
@[simp] theorem State.modVc_owners (s : State) (p v : Nat) (f : Vc → Vc) : (s.modVc p v f).owners = s.owners := (rfl)
@[simp] theorem State.modVc_bufs (s : State) (p v : Nat) (f : Vc → Vc) : (s.modVc p v f).bufs = s.bufs := (rfl)
@[simp] theorem State.modVc_pools (s : State) (p v : Nat) (f : Vc → Vc) : (s.modVc p v f).pools = s.pools := (rfl)
@[simp] theorem State.modVc_waiters (s : State) (p v : Nat) (f : Vc → Vc) : (s.modVc p v f).waiters = s.waiters := (rfl)
@[simp] theorem State.modVc_grants (s : State) (p v : Nat) (f : Vc → Vc) : (s.modVc p v f).grants = s.grants := (rfl)
@[simp] theorem State.modVc_rowErrs (s : State) (p v : Nat) (f : Vc → Vc) : (s.modVc p v f).rowErrs = s.rowErrs := (rfl)
@[simp] theorem State.modVc_pageErrs (s : State) (p v : Nat) (f : Vc → Vc) : (s.modVc p v f).pageErrs = s.pageErrs := (rfl)
@[simp] theorem State.modVc_pageHeld (s : State) (p v : Nat) (f : Vc → Vc) : (s.modVc p v f).pageHeld = s.pageHeld := (rfl)
@[simp] theorem State.modVc_pages (s : State) (p v : Nat) (f : Vc → Vc) : (s.modVc p v f).pages = s.pages := (rfl)
@[simp] theorem State.modVc_sparedRows (s : State) (p v : Nat) (f : Vc → Vc) : (s.modVc p v f).sparedRows = s.sparedRows := (rfl)
@[simp] theorem State.modVc_patrolAt (s : State) (p v : Nat) (f : Vc → Vc) : (s.modVc p v f).patrolAt = s.patrolAt := (rfl)
@[simp] theorem State.modVc_sramAt (s : State) (p v : Nat) (f : Vc → Vc) : (s.modVc p v f).sramAt = s.sramAt := (rfl)
@[simp] theorem State.modVc_selfRefresh (s : State) (p v : Nat) (f : Vc → Vc) : (s.modVc p v f).selfRefresh = s.selfRefresh := (rfl)
@[simp] theorem State.modVc_refreshing (s : State) (p v : Nat) (f : Vc → Vc) : (s.modVc p v f).refreshing = s.refreshing := (rfl)
@[simp] theorem State.modVc_sessions (s : State) (p v : Nat) (f : Vc → Vc) : (s.modVc p v f).sessions = s.sessions := (rfl)
@[simp] theorem State.modVc_hpActive (s : State) (p v : Nat) (f : Vc → Vc) : (s.modVc p v f).hpActive = s.hpActive := (rfl)
@[simp] theorem State.modVc_hpApply (s : State) (p v : Nat) (f : Vc → Vc) : (s.modVc p v f).hpApply = s.hpApply := (rfl)
@[simp] theorem State.modVc_hostLink (s : State) (p v : Nat) (f : Vc → Vc) : (s.modVc p v f).hostLink = s.hostLink := (rfl)
@[simp] theorem State.modVc_zctWait (s : State) (p v : Nat) (f : Vc → Vc) : (s.modVc p v f).zctWait = s.zctWait := (rfl)
@[simp] theorem State.modVc_flash (s : State) (p v : Nat) (f : Vc → Vc) : (s.modVc p v f).flash = s.flash := (rfl)
@[simp] theorem State.modVc_bootSlots (s : State) (p v : Nat) (f : Vc → Vc) : (s.modVc p v f).bootSlots = s.bootSlots := (rfl)
@[simp] theorem State.modVc_cert (s : State) (p v : Nat) (f : Vc → Vc) : (s.modVc p v f).cert = s.cert := (rfl)
@[simp] theorem State.modVc_jorou (s : State) (p v : Nat) (f : Vc → Vc) : (s.modVc p v f).jorou = s.jorou := (rfl)
@[simp] theorem State.modVc_wear (s : State) (p v : Nat) (f : Vc → Vc) : (s.modVc p v f).wear = s.wear := (rfl)
@[simp] theorem State.modVc_ledger (s : State) (p v : Nat) (f : Vc → Vc) : (s.modVc p v f).ledger = s.ledger := (rfl)
@[simp] theorem State.modVc_resetOp (s : State) (p v : Nat) (f : Vc → Vc) : (s.modVc p v f).reset? = s.reset? := (rfl)
@[simp] theorem State.modVc_resetQ (s : State) (p v : Nat) (f : Vc → Vc) : (s.modVc p v f).resetQ = s.resetQ := (rfl)
@[simp] theorem State.modVc_resetsDone (s : State) (p v : Nat) (f : Vc → Vc) : (s.modVc p v f).resetsDone = s.resetsDone := (rfl)
@[simp] theorem State.modVc_captures (s : State) (p v : Nat) (f : Vc → Vc) : (s.modVc p v f).captures = s.captures := (rfl)
@[simp] theorem State.modVc_capture (s : State) (p v : Nat) (f : Vc → Vc) : (s.modVc p v f).capture = s.capture := (rfl)
@[simp] theorem State.modVc_capQ (s : State) (p v : Nat) (f : Vc → Vc) : (s.modVc p v f).capQ = s.capQ := (rfl)
@[simp] theorem State.modVc_scan (s : State) (p v : Nat) (f : Vc → Vc) : (s.modVc p v f).scan = s.scan := (rfl)
@[simp] theorem State.modVc_hangs (s : State) (p v : Nat) (f : Vc → Vc) : (s.modVc p v f).hangs = s.hangs := (rfl)
@[simp] theorem State.modVc_stalls (s : State) (p v : Nat) (f : Vc → Vc) : (s.modVc p v f).stalls = s.stalls := (rfl)
@[simp] theorem State.modVc_power (s : State) (p v : Nat) (f : Vc → Vc) : (s.modVc p v f).power = s.power := (rfl)
@[simp] theorem State.modVc_wb (s : State) (p v : Nat) (f : Vc → Vc) : (s.modVc p v f).wb = s.wb := (rfl)

/-! ### setTile -/

@[simp] theorem State.setTile_pending (s : State) (t : Nat) (x : Tile) : (s.setTile t x).pending = s.pending := (rfl)
@[simp] theorem State.setTile_cycle (s : State) (t : Nat) (x : Tile) : (s.setTile t x).cycle = s.cycle := (rfl)
@[simp] theorem State.setTile_grade (s : State) (t : Nat) (x : Tile) : (s.setTile t x).grade = s.grade := (rfl)
@[simp] theorem State.setTile_freeCtr (s : State) (t : Nat) (x : Tile) : (s.setTile t x).freeCtr = s.freeCtr := (rfl)
@[simp] theorem State.setTile_out (s : State) (t : Nat) (x : Tile) : (s.setTile t x).out = s.out := (rfl)
@[simp] theorem State.setTile_mem (s : State) (t : Nat) (x : Tile) : (s.setTile t x).mem = s.mem := (rfl)
@[simp] theorem State.setTile_poison (s : State) (t : Nat) (x : Tile) : (s.setTile t x).poison = s.poison := (rfl)
@[simp] theorem State.setTile_regs (s : State) (t : Nat) (x : Tile) : (s.setTile t x).regs = s.regs := (rfl)
@[simp] theorem State.setTile_ports (s : State) (t : Nat) (x : Tile) : (s.setTile t x).ports = s.ports := (rfl)
@[simp] theorem State.setTile_laneMap (s : State) (t : Nat) (x : Tile) : (s.setTile t x).laneMap = s.laneMap := (rfl)
@[simp] theorem State.setTile_mapFixed (s : State) (t : Nat) (x : Tile) : (s.setTile t x).mapFixed = s.mapFixed := (rfl)
@[simp] theorem State.setTile_slots (s : State) (t : Nat) (x : Tile) : (s.setTile t x).slots = s.slots := (rfl)
@[simp] theorem State.setTile_queues (s : State) (t : Nat) (x : Tile) : (s.setTile t x).queues = s.queues := (rfl)
@[simp] theorem State.setTile_xin (s : State) (t : Nat) (x : Tile) : (s.setTile t x).xin = s.xin := (rfl)
@[simp] theorem State.setTile_xinLast (s : State) (t : Nat) (x : Tile) : (s.setTile t x).xinLast = s.xinLast := (rfl)
@[simp] theorem State.setTile_heldCells (s : State) (t : Nat) (x : Tile) : (s.setTile t x).heldCells = s.heldCells := (rfl)
@[simp] theorem State.setTile_retiredSlots (s : State) (t : Nat) (x : Tile) : (s.setTile t x).retiredSlots = s.retiredSlots := (rfl)
@[simp] theorem State.setTile_floor (s : State) (t : Nat) (x : Tile) : (s.setTile t x).floor = s.floor := (rfl)
@[simp] theorem State.setTile_mirrors (s : State) (t : Nat) (x : Tile) : (s.setTile t x).mirrors = s.mirrors := (rfl)
@[simp] theorem State.setTile_mirrorMade (s : State) (t : Nat) (x : Tile) : (s.setTile t x).mirrorMade = s.mirrorMade := (rfl)
@[simp] theorem State.setTile_sampleNext (s : State) (t : Nat) (x : Tile) : (s.setTile t x).sampleNext = s.sampleNext := (rfl)
@[simp] theorem State.setTile_sampleRead (s : State) (t : Nat) (x : Tile) : (s.setTile t x).sampleRead = s.sampleRead := (rfl)
@[simp] theorem State.setTile_smpStart (s : State) (t : Nat) (x : Tile) : (s.setTile t x).smpStart = s.smpStart := (rfl)
@[simp] theorem State.setTile_fails (s : State) (t : Nat) (x : Tile) : (s.setTile t x).fails = s.fails := (rfl)
@[simp] theorem State.setTile_echoes (s : State) (t : Nat) (x : Tile) : (s.setTile t x).echoes = s.echoes := (rfl)
@[simp] theorem State.setTile_echoGaps (s : State) (t : Nat) (x : Tile) : (s.setTile t x).echoGaps = s.echoGaps := (rfl)
@[simp] theorem State.setTile_noReturn (s : State) (t : Nat) (x : Tile) : (s.setTile t x).noReturn = s.noReturn := (rfl)
@[simp] theorem State.setTile_tileMap (s : State) (t : Nat) (x : Tile) : (s.setTile t x).tileMap = s.tileMap := (rfl)
@[simp] theorem State.setTile_failedTiles (s : State) (t : Nat) (x : Tile) : (s.setTile t x).failedTiles = s.failedTiles := (rfl)
@[simp] theorem State.setTile_candidates (s : State) (t : Nat) (x : Tile) : (s.setTile t x).candidates = s.candidates := (rfl)
@[simp] theorem State.setTile_inboxes (s : State) (t : Nat) (x : Tile) : (s.setTile t x).inboxes = s.inboxes := (rfl)
@[simp] theorem State.setTile_ctxs (s : State) (t : Nat) (x : Tile) : (s.setTile t x).ctxs = s.ctxs := (rfl)
@[simp] theorem State.setTile_ringPass (s : State) (t : Nat) (x : Tile) : (s.setTile t x).ringPass = s.ringPass := (rfl)
@[simp] theorem State.setTile_plans (s : State) (t : Nat) (x : Tile) : (s.setTile t x).plans = s.plans := (rfl)
@[simp] theorem State.setTile_planFp (s : State) (t : Nat) (x : Tile) : (s.setTile t x).planFp = s.planFp := (rfl)
@[simp] theorem State.setTile_groups (s : State) (t : Nat) (x : Tile) : (s.setTile t x).groups = s.groups := (rfl)
@[simp] theorem State.setTile_wmInbox (s : State) (t : Nat) (x : Tile) : (s.setTile t x).wmInbox = s.wmInbox := (rfl)
@[simp] theorem State.setTile_sets (s : State) (t : Nat) (x : Tile) : (s.setTile t x).sets = s.sets := (rfl)
@[simp] theorem State.setTile_ehts (s : State) (t : Nat) (x : Tile) : (s.setTile t x).ehts = s.ehts := (rfl)
@[simp] theorem State.setTile_expOpen (s : State) (t : Nat) (x : Tile) : (s.setTile t x).expOpen = s.expOpen := (rfl)
@[simp] theorem State.setTile_expIn (s : State) (t : Nat) (x : Tile) : (s.setTile t x).expIn = s.expIn := (rfl)
@[simp] theorem State.setTile_expWait (s : State) (t : Nat) (x : Tile) : (s.setTile t x).expWait = s.expWait := (rfl)
@[simp] theorem State.setTile_atomics (s : State) (t : Nat) (x : Tile) : (s.setTile t x).atomics = s.atomics := (rfl)
@[simp] theorem State.setTile_owners (s : State) (t : Nat) (x : Tile) : (s.setTile t x).owners = s.owners := (rfl)
@[simp] theorem State.setTile_bufs (s : State) (t : Nat) (x : Tile) : (s.setTile t x).bufs = s.bufs := (rfl)
@[simp] theorem State.setTile_pools (s : State) (t : Nat) (x : Tile) : (s.setTile t x).pools = s.pools := (rfl)
@[simp] theorem State.setTile_waiters (s : State) (t : Nat) (x : Tile) : (s.setTile t x).waiters = s.waiters := (rfl)
@[simp] theorem State.setTile_grants (s : State) (t : Nat) (x : Tile) : (s.setTile t x).grants = s.grants := (rfl)
@[simp] theorem State.setTile_rowErrs (s : State) (t : Nat) (x : Tile) : (s.setTile t x).rowErrs = s.rowErrs := (rfl)
@[simp] theorem State.setTile_pageErrs (s : State) (t : Nat) (x : Tile) : (s.setTile t x).pageErrs = s.pageErrs := (rfl)
@[simp] theorem State.setTile_pageHeld (s : State) (t : Nat) (x : Tile) : (s.setTile t x).pageHeld = s.pageHeld := (rfl)
@[simp] theorem State.setTile_pages (s : State) (t : Nat) (x : Tile) : (s.setTile t x).pages = s.pages := (rfl)
@[simp] theorem State.setTile_sparedRows (s : State) (t : Nat) (x : Tile) : (s.setTile t x).sparedRows = s.sparedRows := (rfl)
@[simp] theorem State.setTile_patrolAt (s : State) (t : Nat) (x : Tile) : (s.setTile t x).patrolAt = s.patrolAt := (rfl)
@[simp] theorem State.setTile_sramAt (s : State) (t : Nat) (x : Tile) : (s.setTile t x).sramAt = s.sramAt := (rfl)
@[simp] theorem State.setTile_selfRefresh (s : State) (t : Nat) (x : Tile) : (s.setTile t x).selfRefresh = s.selfRefresh := (rfl)
@[simp] theorem State.setTile_refreshing (s : State) (t : Nat) (x : Tile) : (s.setTile t x).refreshing = s.refreshing := (rfl)
@[simp] theorem State.setTile_sessions (s : State) (t : Nat) (x : Tile) : (s.setTile t x).sessions = s.sessions := (rfl)
@[simp] theorem State.setTile_hpActive (s : State) (t : Nat) (x : Tile) : (s.setTile t x).hpActive = s.hpActive := (rfl)
@[simp] theorem State.setTile_hpApply (s : State) (t : Nat) (x : Tile) : (s.setTile t x).hpApply = s.hpApply := (rfl)
@[simp] theorem State.setTile_hostLink (s : State) (t : Nat) (x : Tile) : (s.setTile t x).hostLink = s.hostLink := (rfl)
@[simp] theorem State.setTile_zctWait (s : State) (t : Nat) (x : Tile) : (s.setTile t x).zctWait = s.zctWait := (rfl)
@[simp] theorem State.setTile_flash (s : State) (t : Nat) (x : Tile) : (s.setTile t x).flash = s.flash := (rfl)
@[simp] theorem State.setTile_bootSlots (s : State) (t : Nat) (x : Tile) : (s.setTile t x).bootSlots = s.bootSlots := (rfl)
@[simp] theorem State.setTile_cert (s : State) (t : Nat) (x : Tile) : (s.setTile t x).cert = s.cert := (rfl)
@[simp] theorem State.setTile_jorou (s : State) (t : Nat) (x : Tile) : (s.setTile t x).jorou = s.jorou := (rfl)
@[simp] theorem State.setTile_wear (s : State) (t : Nat) (x : Tile) : (s.setTile t x).wear = s.wear := (rfl)
@[simp] theorem State.setTile_ledger (s : State) (t : Nat) (x : Tile) : (s.setTile t x).ledger = s.ledger := (rfl)
@[simp] theorem State.setTile_resetOp (s : State) (t : Nat) (x : Tile) : (s.setTile t x).reset? = s.reset? := (rfl)
@[simp] theorem State.setTile_resetQ (s : State) (t : Nat) (x : Tile) : (s.setTile t x).resetQ = s.resetQ := (rfl)
@[simp] theorem State.setTile_resetsDone (s : State) (t : Nat) (x : Tile) : (s.setTile t x).resetsDone = s.resetsDone := (rfl)
@[simp] theorem State.setTile_captures (s : State) (t : Nat) (x : Tile) : (s.setTile t x).captures = s.captures := (rfl)
@[simp] theorem State.setTile_capture (s : State) (t : Nat) (x : Tile) : (s.setTile t x).capture = s.capture := (rfl)
@[simp] theorem State.setTile_capQ (s : State) (t : Nat) (x : Tile) : (s.setTile t x).capQ = s.capQ := (rfl)
@[simp] theorem State.setTile_scan (s : State) (t : Nat) (x : Tile) : (s.setTile t x).scan = s.scan := (rfl)
@[simp] theorem State.setTile_hangs (s : State) (t : Nat) (x : Tile) : (s.setTile t x).hangs = s.hangs := (rfl)
@[simp] theorem State.setTile_stalls (s : State) (t : Nat) (x : Tile) : (s.setTile t x).stalls = s.stalls := (rfl)
@[simp] theorem State.setTile_power (s : State) (t : Nat) (x : Tile) : (s.setTile t x).power = s.power := (rfl)
@[simp] theorem State.setTile_wb (s : State) (t : Nat) (x : Tile) : (s.setTile t x).wb = s.wb := (rfl)

/-! ### modTile -/

@[simp] theorem State.modTile_pending (s : State) (t : Nat) (f : Tile → Tile) : (s.modTile t f).pending = s.pending := (rfl)
@[simp] theorem State.modTile_cycle (s : State) (t : Nat) (f : Tile → Tile) : (s.modTile t f).cycle = s.cycle := (rfl)
@[simp] theorem State.modTile_grade (s : State) (t : Nat) (f : Tile → Tile) : (s.modTile t f).grade = s.grade := (rfl)
@[simp] theorem State.modTile_freeCtr (s : State) (t : Nat) (f : Tile → Tile) : (s.modTile t f).freeCtr = s.freeCtr := (rfl)
@[simp] theorem State.modTile_out (s : State) (t : Nat) (f : Tile → Tile) : (s.modTile t f).out = s.out := (rfl)
@[simp] theorem State.modTile_mem (s : State) (t : Nat) (f : Tile → Tile) : (s.modTile t f).mem = s.mem := (rfl)
@[simp] theorem State.modTile_poison (s : State) (t : Nat) (f : Tile → Tile) : (s.modTile t f).poison = s.poison := (rfl)
@[simp] theorem State.modTile_regs (s : State) (t : Nat) (f : Tile → Tile) : (s.modTile t f).regs = s.regs := (rfl)
@[simp] theorem State.modTile_ports (s : State) (t : Nat) (f : Tile → Tile) : (s.modTile t f).ports = s.ports := (rfl)
@[simp] theorem State.modTile_laneMap (s : State) (t : Nat) (f : Tile → Tile) : (s.modTile t f).laneMap = s.laneMap := (rfl)
@[simp] theorem State.modTile_mapFixed (s : State) (t : Nat) (f : Tile → Tile) : (s.modTile t f).mapFixed = s.mapFixed := (rfl)
@[simp] theorem State.modTile_slots (s : State) (t : Nat) (f : Tile → Tile) : (s.modTile t f).slots = s.slots := (rfl)
@[simp] theorem State.modTile_queues (s : State) (t : Nat) (f : Tile → Tile) : (s.modTile t f).queues = s.queues := (rfl)
@[simp] theorem State.modTile_xin (s : State) (t : Nat) (f : Tile → Tile) : (s.modTile t f).xin = s.xin := (rfl)
@[simp] theorem State.modTile_xinLast (s : State) (t : Nat) (f : Tile → Tile) : (s.modTile t f).xinLast = s.xinLast := (rfl)
@[simp] theorem State.modTile_heldCells (s : State) (t : Nat) (f : Tile → Tile) : (s.modTile t f).heldCells = s.heldCells := (rfl)
@[simp] theorem State.modTile_retiredSlots (s : State) (t : Nat) (f : Tile → Tile) : (s.modTile t f).retiredSlots = s.retiredSlots := (rfl)
@[simp] theorem State.modTile_floor (s : State) (t : Nat) (f : Tile → Tile) : (s.modTile t f).floor = s.floor := (rfl)
@[simp] theorem State.modTile_mirrors (s : State) (t : Nat) (f : Tile → Tile) : (s.modTile t f).mirrors = s.mirrors := (rfl)
@[simp] theorem State.modTile_mirrorMade (s : State) (t : Nat) (f : Tile → Tile) : (s.modTile t f).mirrorMade = s.mirrorMade := (rfl)
@[simp] theorem State.modTile_sampleNext (s : State) (t : Nat) (f : Tile → Tile) : (s.modTile t f).sampleNext = s.sampleNext := (rfl)
@[simp] theorem State.modTile_sampleRead (s : State) (t : Nat) (f : Tile → Tile) : (s.modTile t f).sampleRead = s.sampleRead := (rfl)
@[simp] theorem State.modTile_smpStart (s : State) (t : Nat) (f : Tile → Tile) : (s.modTile t f).smpStart = s.smpStart := (rfl)
@[simp] theorem State.modTile_fails (s : State) (t : Nat) (f : Tile → Tile) : (s.modTile t f).fails = s.fails := (rfl)
@[simp] theorem State.modTile_echoes (s : State) (t : Nat) (f : Tile → Tile) : (s.modTile t f).echoes = s.echoes := (rfl)
@[simp] theorem State.modTile_echoGaps (s : State) (t : Nat) (f : Tile → Tile) : (s.modTile t f).echoGaps = s.echoGaps := (rfl)
@[simp] theorem State.modTile_noReturn (s : State) (t : Nat) (f : Tile → Tile) : (s.modTile t f).noReturn = s.noReturn := (rfl)
@[simp] theorem State.modTile_tileMap (s : State) (t : Nat) (f : Tile → Tile) : (s.modTile t f).tileMap = s.tileMap := (rfl)
@[simp] theorem State.modTile_failedTiles (s : State) (t : Nat) (f : Tile → Tile) : (s.modTile t f).failedTiles = s.failedTiles := (rfl)
@[simp] theorem State.modTile_candidates (s : State) (t : Nat) (f : Tile → Tile) : (s.modTile t f).candidates = s.candidates := (rfl)
@[simp] theorem State.modTile_inboxes (s : State) (t : Nat) (f : Tile → Tile) : (s.modTile t f).inboxes = s.inboxes := (rfl)
@[simp] theorem State.modTile_ctxs (s : State) (t : Nat) (f : Tile → Tile) : (s.modTile t f).ctxs = s.ctxs := (rfl)
@[simp] theorem State.modTile_ringPass (s : State) (t : Nat) (f : Tile → Tile) : (s.modTile t f).ringPass = s.ringPass := (rfl)
@[simp] theorem State.modTile_plans (s : State) (t : Nat) (f : Tile → Tile) : (s.modTile t f).plans = s.plans := (rfl)
@[simp] theorem State.modTile_planFp (s : State) (t : Nat) (f : Tile → Tile) : (s.modTile t f).planFp = s.planFp := (rfl)
@[simp] theorem State.modTile_groups (s : State) (t : Nat) (f : Tile → Tile) : (s.modTile t f).groups = s.groups := (rfl)
@[simp] theorem State.modTile_wmInbox (s : State) (t : Nat) (f : Tile → Tile) : (s.modTile t f).wmInbox = s.wmInbox := (rfl)
@[simp] theorem State.modTile_sets (s : State) (t : Nat) (f : Tile → Tile) : (s.modTile t f).sets = s.sets := (rfl)
@[simp] theorem State.modTile_ehts (s : State) (t : Nat) (f : Tile → Tile) : (s.modTile t f).ehts = s.ehts := (rfl)
@[simp] theorem State.modTile_expOpen (s : State) (t : Nat) (f : Tile → Tile) : (s.modTile t f).expOpen = s.expOpen := (rfl)
@[simp] theorem State.modTile_expIn (s : State) (t : Nat) (f : Tile → Tile) : (s.modTile t f).expIn = s.expIn := (rfl)
@[simp] theorem State.modTile_expWait (s : State) (t : Nat) (f : Tile → Tile) : (s.modTile t f).expWait = s.expWait := (rfl)
@[simp] theorem State.modTile_atomics (s : State) (t : Nat) (f : Tile → Tile) : (s.modTile t f).atomics = s.atomics := (rfl)
@[simp] theorem State.modTile_owners (s : State) (t : Nat) (f : Tile → Tile) : (s.modTile t f).owners = s.owners := (rfl)
@[simp] theorem State.modTile_bufs (s : State) (t : Nat) (f : Tile → Tile) : (s.modTile t f).bufs = s.bufs := (rfl)
@[simp] theorem State.modTile_pools (s : State) (t : Nat) (f : Tile → Tile) : (s.modTile t f).pools = s.pools := (rfl)
@[simp] theorem State.modTile_waiters (s : State) (t : Nat) (f : Tile → Tile) : (s.modTile t f).waiters = s.waiters := (rfl)
@[simp] theorem State.modTile_grants (s : State) (t : Nat) (f : Tile → Tile) : (s.modTile t f).grants = s.grants := (rfl)
@[simp] theorem State.modTile_rowErrs (s : State) (t : Nat) (f : Tile → Tile) : (s.modTile t f).rowErrs = s.rowErrs := (rfl)
@[simp] theorem State.modTile_pageErrs (s : State) (t : Nat) (f : Tile → Tile) : (s.modTile t f).pageErrs = s.pageErrs := (rfl)
@[simp] theorem State.modTile_pageHeld (s : State) (t : Nat) (f : Tile → Tile) : (s.modTile t f).pageHeld = s.pageHeld := (rfl)
@[simp] theorem State.modTile_pages (s : State) (t : Nat) (f : Tile → Tile) : (s.modTile t f).pages = s.pages := (rfl)
@[simp] theorem State.modTile_sparedRows (s : State) (t : Nat) (f : Tile → Tile) : (s.modTile t f).sparedRows = s.sparedRows := (rfl)
@[simp] theorem State.modTile_patrolAt (s : State) (t : Nat) (f : Tile → Tile) : (s.modTile t f).patrolAt = s.patrolAt := (rfl)
@[simp] theorem State.modTile_sramAt (s : State) (t : Nat) (f : Tile → Tile) : (s.modTile t f).sramAt = s.sramAt := (rfl)
@[simp] theorem State.modTile_selfRefresh (s : State) (t : Nat) (f : Tile → Tile) : (s.modTile t f).selfRefresh = s.selfRefresh := (rfl)
@[simp] theorem State.modTile_refreshing (s : State) (t : Nat) (f : Tile → Tile) : (s.modTile t f).refreshing = s.refreshing := (rfl)
@[simp] theorem State.modTile_sessions (s : State) (t : Nat) (f : Tile → Tile) : (s.modTile t f).sessions = s.sessions := (rfl)
@[simp] theorem State.modTile_hpActive (s : State) (t : Nat) (f : Tile → Tile) : (s.modTile t f).hpActive = s.hpActive := (rfl)
@[simp] theorem State.modTile_hpApply (s : State) (t : Nat) (f : Tile → Tile) : (s.modTile t f).hpApply = s.hpApply := (rfl)
@[simp] theorem State.modTile_hostLink (s : State) (t : Nat) (f : Tile → Tile) : (s.modTile t f).hostLink = s.hostLink := (rfl)
@[simp] theorem State.modTile_zctWait (s : State) (t : Nat) (f : Tile → Tile) : (s.modTile t f).zctWait = s.zctWait := (rfl)
@[simp] theorem State.modTile_flash (s : State) (t : Nat) (f : Tile → Tile) : (s.modTile t f).flash = s.flash := (rfl)
@[simp] theorem State.modTile_bootSlots (s : State) (t : Nat) (f : Tile → Tile) : (s.modTile t f).bootSlots = s.bootSlots := (rfl)
@[simp] theorem State.modTile_cert (s : State) (t : Nat) (f : Tile → Tile) : (s.modTile t f).cert = s.cert := (rfl)
@[simp] theorem State.modTile_jorou (s : State) (t : Nat) (f : Tile → Tile) : (s.modTile t f).jorou = s.jorou := (rfl)
@[simp] theorem State.modTile_wear (s : State) (t : Nat) (f : Tile → Tile) : (s.modTile t f).wear = s.wear := (rfl)
@[simp] theorem State.modTile_ledger (s : State) (t : Nat) (f : Tile → Tile) : (s.modTile t f).ledger = s.ledger := (rfl)
@[simp] theorem State.modTile_resetOp (s : State) (t : Nat) (f : Tile → Tile) : (s.modTile t f).reset? = s.reset? := (rfl)
@[simp] theorem State.modTile_resetQ (s : State) (t : Nat) (f : Tile → Tile) : (s.modTile t f).resetQ = s.resetQ := (rfl)
@[simp] theorem State.modTile_resetsDone (s : State) (t : Nat) (f : Tile → Tile) : (s.modTile t f).resetsDone = s.resetsDone := (rfl)
@[simp] theorem State.modTile_captures (s : State) (t : Nat) (f : Tile → Tile) : (s.modTile t f).captures = s.captures := (rfl)
@[simp] theorem State.modTile_capture (s : State) (t : Nat) (f : Tile → Tile) : (s.modTile t f).capture = s.capture := (rfl)
@[simp] theorem State.modTile_capQ (s : State) (t : Nat) (f : Tile → Tile) : (s.modTile t f).capQ = s.capQ := (rfl)
@[simp] theorem State.modTile_scan (s : State) (t : Nat) (f : Tile → Tile) : (s.modTile t f).scan = s.scan := (rfl)
@[simp] theorem State.modTile_hangs (s : State) (t : Nat) (f : Tile → Tile) : (s.modTile t f).hangs = s.hangs := (rfl)
@[simp] theorem State.modTile_stalls (s : State) (t : Nat) (f : Tile → Tile) : (s.modTile t f).stalls = s.stalls := (rfl)
@[simp] theorem State.modTile_power (s : State) (t : Nat) (f : Tile → Tile) : (s.modTile t f).power = s.power := (rfl)
@[simp] theorem State.modTile_wb (s : State) (t : Nat) (f : Tile → Tile) : (s.modTile t f).wb = s.wb := (rfl)

/-! ### modThread -/

@[simp] theorem State.modThread_pending (s : State) (t h : Nat) (f : Thread → Thread) : (s.modThread t h f).pending = s.pending := (rfl)
@[simp] theorem State.modThread_cycle (s : State) (t h : Nat) (f : Thread → Thread) : (s.modThread t h f).cycle = s.cycle := (rfl)
@[simp] theorem State.modThread_grade (s : State) (t h : Nat) (f : Thread → Thread) : (s.modThread t h f).grade = s.grade := (rfl)
@[simp] theorem State.modThread_freeCtr (s : State) (t h : Nat) (f : Thread → Thread) : (s.modThread t h f).freeCtr = s.freeCtr := (rfl)
@[simp] theorem State.modThread_out (s : State) (t h : Nat) (f : Thread → Thread) : (s.modThread t h f).out = s.out := (rfl)
@[simp] theorem State.modThread_mem (s : State) (t h : Nat) (f : Thread → Thread) : (s.modThread t h f).mem = s.mem := (rfl)
@[simp] theorem State.modThread_poison (s : State) (t h : Nat) (f : Thread → Thread) : (s.modThread t h f).poison = s.poison := (rfl)
@[simp] theorem State.modThread_regs (s : State) (t h : Nat) (f : Thread → Thread) : (s.modThread t h f).regs = s.regs := (rfl)
@[simp] theorem State.modThread_ports (s : State) (t h : Nat) (f : Thread → Thread) : (s.modThread t h f).ports = s.ports := (rfl)
@[simp] theorem State.modThread_laneMap (s : State) (t h : Nat) (f : Thread → Thread) : (s.modThread t h f).laneMap = s.laneMap := (rfl)
@[simp] theorem State.modThread_mapFixed (s : State) (t h : Nat) (f : Thread → Thread) : (s.modThread t h f).mapFixed = s.mapFixed := (rfl)
@[simp] theorem State.modThread_slots (s : State) (t h : Nat) (f : Thread → Thread) : (s.modThread t h f).slots = s.slots := (rfl)
@[simp] theorem State.modThread_queues (s : State) (t h : Nat) (f : Thread → Thread) : (s.modThread t h f).queues = s.queues := (rfl)
@[simp] theorem State.modThread_xin (s : State) (t h : Nat) (f : Thread → Thread) : (s.modThread t h f).xin = s.xin := (rfl)
@[simp] theorem State.modThread_xinLast (s : State) (t h : Nat) (f : Thread → Thread) : (s.modThread t h f).xinLast = s.xinLast := (rfl)
@[simp] theorem State.modThread_heldCells (s : State) (t h : Nat) (f : Thread → Thread) : (s.modThread t h f).heldCells = s.heldCells := (rfl)
@[simp] theorem State.modThread_retiredSlots (s : State) (t h : Nat) (f : Thread → Thread) : (s.modThread t h f).retiredSlots = s.retiredSlots := (rfl)
@[simp] theorem State.modThread_floor (s : State) (t h : Nat) (f : Thread → Thread) : (s.modThread t h f).floor = s.floor := (rfl)
@[simp] theorem State.modThread_mirrors (s : State) (t h : Nat) (f : Thread → Thread) : (s.modThread t h f).mirrors = s.mirrors := (rfl)
@[simp] theorem State.modThread_mirrorMade (s : State) (t h : Nat) (f : Thread → Thread) : (s.modThread t h f).mirrorMade = s.mirrorMade := (rfl)
@[simp] theorem State.modThread_sampleNext (s : State) (t h : Nat) (f : Thread → Thread) : (s.modThread t h f).sampleNext = s.sampleNext := (rfl)
@[simp] theorem State.modThread_sampleRead (s : State) (t h : Nat) (f : Thread → Thread) : (s.modThread t h f).sampleRead = s.sampleRead := (rfl)
@[simp] theorem State.modThread_smpStart (s : State) (t h : Nat) (f : Thread → Thread) : (s.modThread t h f).smpStart = s.smpStart := (rfl)
@[simp] theorem State.modThread_fails (s : State) (t h : Nat) (f : Thread → Thread) : (s.modThread t h f).fails = s.fails := (rfl)
@[simp] theorem State.modThread_echoes (s : State) (t h : Nat) (f : Thread → Thread) : (s.modThread t h f).echoes = s.echoes := (rfl)
@[simp] theorem State.modThread_echoGaps (s : State) (t h : Nat) (f : Thread → Thread) : (s.modThread t h f).echoGaps = s.echoGaps := (rfl)
@[simp] theorem State.modThread_noReturn (s : State) (t h : Nat) (f : Thread → Thread) : (s.modThread t h f).noReturn = s.noReturn := (rfl)
@[simp] theorem State.modThread_tileMap (s : State) (t h : Nat) (f : Thread → Thread) : (s.modThread t h f).tileMap = s.tileMap := (rfl)
@[simp] theorem State.modThread_failedTiles (s : State) (t h : Nat) (f : Thread → Thread) : (s.modThread t h f).failedTiles = s.failedTiles := (rfl)
@[simp] theorem State.modThread_candidates (s : State) (t h : Nat) (f : Thread → Thread) : (s.modThread t h f).candidates = s.candidates := (rfl)
@[simp] theorem State.modThread_inboxes (s : State) (t h : Nat) (f : Thread → Thread) : (s.modThread t h f).inboxes = s.inboxes := (rfl)
@[simp] theorem State.modThread_ctxs (s : State) (t h : Nat) (f : Thread → Thread) : (s.modThread t h f).ctxs = s.ctxs := (rfl)
@[simp] theorem State.modThread_ringPass (s : State) (t h : Nat) (f : Thread → Thread) : (s.modThread t h f).ringPass = s.ringPass := (rfl)
@[simp] theorem State.modThread_plans (s : State) (t h : Nat) (f : Thread → Thread) : (s.modThread t h f).plans = s.plans := (rfl)
@[simp] theorem State.modThread_planFp (s : State) (t h : Nat) (f : Thread → Thread) : (s.modThread t h f).planFp = s.planFp := (rfl)
@[simp] theorem State.modThread_groups (s : State) (t h : Nat) (f : Thread → Thread) : (s.modThread t h f).groups = s.groups := (rfl)
@[simp] theorem State.modThread_wmInbox (s : State) (t h : Nat) (f : Thread → Thread) : (s.modThread t h f).wmInbox = s.wmInbox := (rfl)
@[simp] theorem State.modThread_sets (s : State) (t h : Nat) (f : Thread → Thread) : (s.modThread t h f).sets = s.sets := (rfl)
@[simp] theorem State.modThread_ehts (s : State) (t h : Nat) (f : Thread → Thread) : (s.modThread t h f).ehts = s.ehts := (rfl)
@[simp] theorem State.modThread_expOpen (s : State) (t h : Nat) (f : Thread → Thread) : (s.modThread t h f).expOpen = s.expOpen := (rfl)
@[simp] theorem State.modThread_expIn (s : State) (t h : Nat) (f : Thread → Thread) : (s.modThread t h f).expIn = s.expIn := (rfl)
@[simp] theorem State.modThread_expWait (s : State) (t h : Nat) (f : Thread → Thread) : (s.modThread t h f).expWait = s.expWait := (rfl)
@[simp] theorem State.modThread_atomics (s : State) (t h : Nat) (f : Thread → Thread) : (s.modThread t h f).atomics = s.atomics := (rfl)
@[simp] theorem State.modThread_owners (s : State) (t h : Nat) (f : Thread → Thread) : (s.modThread t h f).owners = s.owners := (rfl)
@[simp] theorem State.modThread_bufs (s : State) (t h : Nat) (f : Thread → Thread) : (s.modThread t h f).bufs = s.bufs := (rfl)
@[simp] theorem State.modThread_pools (s : State) (t h : Nat) (f : Thread → Thread) : (s.modThread t h f).pools = s.pools := (rfl)
@[simp] theorem State.modThread_waiters (s : State) (t h : Nat) (f : Thread → Thread) : (s.modThread t h f).waiters = s.waiters := (rfl)
@[simp] theorem State.modThread_grants (s : State) (t h : Nat) (f : Thread → Thread) : (s.modThread t h f).grants = s.grants := (rfl)
@[simp] theorem State.modThread_rowErrs (s : State) (t h : Nat) (f : Thread → Thread) : (s.modThread t h f).rowErrs = s.rowErrs := (rfl)
@[simp] theorem State.modThread_pageErrs (s : State) (t h : Nat) (f : Thread → Thread) : (s.modThread t h f).pageErrs = s.pageErrs := (rfl)
@[simp] theorem State.modThread_pageHeld (s : State) (t h : Nat) (f : Thread → Thread) : (s.modThread t h f).pageHeld = s.pageHeld := (rfl)
@[simp] theorem State.modThread_pages (s : State) (t h : Nat) (f : Thread → Thread) : (s.modThread t h f).pages = s.pages := (rfl)
@[simp] theorem State.modThread_sparedRows (s : State) (t h : Nat) (f : Thread → Thread) : (s.modThread t h f).sparedRows = s.sparedRows := (rfl)
@[simp] theorem State.modThread_patrolAt (s : State) (t h : Nat) (f : Thread → Thread) : (s.modThread t h f).patrolAt = s.patrolAt := (rfl)
@[simp] theorem State.modThread_sramAt (s : State) (t h : Nat) (f : Thread → Thread) : (s.modThread t h f).sramAt = s.sramAt := (rfl)
@[simp] theorem State.modThread_selfRefresh (s : State) (t h : Nat) (f : Thread → Thread) : (s.modThread t h f).selfRefresh = s.selfRefresh := (rfl)
@[simp] theorem State.modThread_refreshing (s : State) (t h : Nat) (f : Thread → Thread) : (s.modThread t h f).refreshing = s.refreshing := (rfl)
@[simp] theorem State.modThread_sessions (s : State) (t h : Nat) (f : Thread → Thread) : (s.modThread t h f).sessions = s.sessions := (rfl)
@[simp] theorem State.modThread_hpActive (s : State) (t h : Nat) (f : Thread → Thread) : (s.modThread t h f).hpActive = s.hpActive := (rfl)
@[simp] theorem State.modThread_hpApply (s : State) (t h : Nat) (f : Thread → Thread) : (s.modThread t h f).hpApply = s.hpApply := (rfl)
@[simp] theorem State.modThread_hostLink (s : State) (t h : Nat) (f : Thread → Thread) : (s.modThread t h f).hostLink = s.hostLink := (rfl)
@[simp] theorem State.modThread_zctWait (s : State) (t h : Nat) (f : Thread → Thread) : (s.modThread t h f).zctWait = s.zctWait := (rfl)
@[simp] theorem State.modThread_flash (s : State) (t h : Nat) (f : Thread → Thread) : (s.modThread t h f).flash = s.flash := (rfl)
@[simp] theorem State.modThread_bootSlots (s : State) (t h : Nat) (f : Thread → Thread) : (s.modThread t h f).bootSlots = s.bootSlots := (rfl)
@[simp] theorem State.modThread_cert (s : State) (t h : Nat) (f : Thread → Thread) : (s.modThread t h f).cert = s.cert := (rfl)
@[simp] theorem State.modThread_jorou (s : State) (t h : Nat) (f : Thread → Thread) : (s.modThread t h f).jorou = s.jorou := (rfl)
@[simp] theorem State.modThread_wear (s : State) (t h : Nat) (f : Thread → Thread) : (s.modThread t h f).wear = s.wear := (rfl)
@[simp] theorem State.modThread_ledger (s : State) (t h : Nat) (f : Thread → Thread) : (s.modThread t h f).ledger = s.ledger := (rfl)
@[simp] theorem State.modThread_resetOp (s : State) (t h : Nat) (f : Thread → Thread) : (s.modThread t h f).reset? = s.reset? := (rfl)
@[simp] theorem State.modThread_resetQ (s : State) (t h : Nat) (f : Thread → Thread) : (s.modThread t h f).resetQ = s.resetQ := (rfl)
@[simp] theorem State.modThread_resetsDone (s : State) (t h : Nat) (f : Thread → Thread) : (s.modThread t h f).resetsDone = s.resetsDone := (rfl)
@[simp] theorem State.modThread_captures (s : State) (t h : Nat) (f : Thread → Thread) : (s.modThread t h f).captures = s.captures := (rfl)
@[simp] theorem State.modThread_capture (s : State) (t h : Nat) (f : Thread → Thread) : (s.modThread t h f).capture = s.capture := (rfl)
@[simp] theorem State.modThread_capQ (s : State) (t h : Nat) (f : Thread → Thread) : (s.modThread t h f).capQ = s.capQ := (rfl)
@[simp] theorem State.modThread_scan (s : State) (t h : Nat) (f : Thread → Thread) : (s.modThread t h f).scan = s.scan := (rfl)
@[simp] theorem State.modThread_hangs (s : State) (t h : Nat) (f : Thread → Thread) : (s.modThread t h f).hangs = s.hangs := (rfl)
@[simp] theorem State.modThread_stalls (s : State) (t h : Nat) (f : Thread → Thread) : (s.modThread t h f).stalls = s.stalls := (rfl)
@[simp] theorem State.modThread_power (s : State) (t h : Nat) (f : Thread → Thread) : (s.modThread t h f).power = s.power := (rfl)
@[simp] theorem State.modThread_wb (s : State) (t h : Nat) (f : Thread → Thread) : (s.modThread t h f).wb = s.wb := (rfl)

/-! ### setCtx -/

@[simp] theorem State.setCtx_pending (s : State) (c : Nat) (x : Ctx) : (s.setCtx c x).pending = s.pending := (rfl)
@[simp] theorem State.setCtx_cycle (s : State) (c : Nat) (x : Ctx) : (s.setCtx c x).cycle = s.cycle := (rfl)
@[simp] theorem State.setCtx_grade (s : State) (c : Nat) (x : Ctx) : (s.setCtx c x).grade = s.grade := (rfl)
@[simp] theorem State.setCtx_freeCtr (s : State) (c : Nat) (x : Ctx) : (s.setCtx c x).freeCtr = s.freeCtr := (rfl)
@[simp] theorem State.setCtx_out (s : State) (c : Nat) (x : Ctx) : (s.setCtx c x).out = s.out := (rfl)
@[simp] theorem State.setCtx_mem (s : State) (c : Nat) (x : Ctx) : (s.setCtx c x).mem = s.mem := (rfl)
@[simp] theorem State.setCtx_poison (s : State) (c : Nat) (x : Ctx) : (s.setCtx c x).poison = s.poison := (rfl)
@[simp] theorem State.setCtx_regs (s : State) (c : Nat) (x : Ctx) : (s.setCtx c x).regs = s.regs := (rfl)
@[simp] theorem State.setCtx_ports (s : State) (c : Nat) (x : Ctx) : (s.setCtx c x).ports = s.ports := (rfl)
@[simp] theorem State.setCtx_laneMap (s : State) (c : Nat) (x : Ctx) : (s.setCtx c x).laneMap = s.laneMap := (rfl)
@[simp] theorem State.setCtx_mapFixed (s : State) (c : Nat) (x : Ctx) : (s.setCtx c x).mapFixed = s.mapFixed := (rfl)
@[simp] theorem State.setCtx_slots (s : State) (c : Nat) (x : Ctx) : (s.setCtx c x).slots = s.slots := (rfl)
@[simp] theorem State.setCtx_queues (s : State) (c : Nat) (x : Ctx) : (s.setCtx c x).queues = s.queues := (rfl)
@[simp] theorem State.setCtx_xin (s : State) (c : Nat) (x : Ctx) : (s.setCtx c x).xin = s.xin := (rfl)
@[simp] theorem State.setCtx_xinLast (s : State) (c : Nat) (x : Ctx) : (s.setCtx c x).xinLast = s.xinLast := (rfl)
@[simp] theorem State.setCtx_heldCells (s : State) (c : Nat) (x : Ctx) : (s.setCtx c x).heldCells = s.heldCells := (rfl)
@[simp] theorem State.setCtx_retiredSlots (s : State) (c : Nat) (x : Ctx) : (s.setCtx c x).retiredSlots = s.retiredSlots := (rfl)
@[simp] theorem State.setCtx_floor (s : State) (c : Nat) (x : Ctx) : (s.setCtx c x).floor = s.floor := (rfl)
@[simp] theorem State.setCtx_mirrors (s : State) (c : Nat) (x : Ctx) : (s.setCtx c x).mirrors = s.mirrors := (rfl)
@[simp] theorem State.setCtx_mirrorMade (s : State) (c : Nat) (x : Ctx) : (s.setCtx c x).mirrorMade = s.mirrorMade := (rfl)
@[simp] theorem State.setCtx_sampleNext (s : State) (c : Nat) (x : Ctx) : (s.setCtx c x).sampleNext = s.sampleNext := (rfl)
@[simp] theorem State.setCtx_sampleRead (s : State) (c : Nat) (x : Ctx) : (s.setCtx c x).sampleRead = s.sampleRead := (rfl)
@[simp] theorem State.setCtx_smpStart (s : State) (c : Nat) (x : Ctx) : (s.setCtx c x).smpStart = s.smpStart := (rfl)
@[simp] theorem State.setCtx_fails (s : State) (c : Nat) (x : Ctx) : (s.setCtx c x).fails = s.fails := (rfl)
@[simp] theorem State.setCtx_echoes (s : State) (c : Nat) (x : Ctx) : (s.setCtx c x).echoes = s.echoes := (rfl)
@[simp] theorem State.setCtx_echoGaps (s : State) (c : Nat) (x : Ctx) : (s.setCtx c x).echoGaps = s.echoGaps := (rfl)
@[simp] theorem State.setCtx_noReturn (s : State) (c : Nat) (x : Ctx) : (s.setCtx c x).noReturn = s.noReturn := (rfl)
@[simp] theorem State.setCtx_tiles (s : State) (c : Nat) (x : Ctx) : (s.setCtx c x).tiles = s.tiles := (rfl)
@[simp] theorem State.setCtx_tileMap (s : State) (c : Nat) (x : Ctx) : (s.setCtx c x).tileMap = s.tileMap := (rfl)
@[simp] theorem State.setCtx_failedTiles (s : State) (c : Nat) (x : Ctx) : (s.setCtx c x).failedTiles = s.failedTiles := (rfl)
@[simp] theorem State.setCtx_candidates (s : State) (c : Nat) (x : Ctx) : (s.setCtx c x).candidates = s.candidates := (rfl)
@[simp] theorem State.setCtx_inboxes (s : State) (c : Nat) (x : Ctx) : (s.setCtx c x).inboxes = s.inboxes := (rfl)
@[simp] theorem State.setCtx_ringPass (s : State) (c : Nat) (x : Ctx) : (s.setCtx c x).ringPass = s.ringPass := (rfl)
@[simp] theorem State.setCtx_plans (s : State) (c : Nat) (x : Ctx) : (s.setCtx c x).plans = s.plans := (rfl)
@[simp] theorem State.setCtx_planFp (s : State) (c : Nat) (x : Ctx) : (s.setCtx c x).planFp = s.planFp := (rfl)
@[simp] theorem State.setCtx_groups (s : State) (c : Nat) (x : Ctx) : (s.setCtx c x).groups = s.groups := (rfl)
@[simp] theorem State.setCtx_wmInbox (s : State) (c : Nat) (x : Ctx) : (s.setCtx c x).wmInbox = s.wmInbox := (rfl)
@[simp] theorem State.setCtx_sets (s : State) (c : Nat) (x : Ctx) : (s.setCtx c x).sets = s.sets := (rfl)
@[simp] theorem State.setCtx_ehts (s : State) (c : Nat) (x : Ctx) : (s.setCtx c x).ehts = s.ehts := (rfl)
@[simp] theorem State.setCtx_expOpen (s : State) (c : Nat) (x : Ctx) : (s.setCtx c x).expOpen = s.expOpen := (rfl)
@[simp] theorem State.setCtx_expIn (s : State) (c : Nat) (x : Ctx) : (s.setCtx c x).expIn = s.expIn := (rfl)
@[simp] theorem State.setCtx_expWait (s : State) (c : Nat) (x : Ctx) : (s.setCtx c x).expWait = s.expWait := (rfl)
@[simp] theorem State.setCtx_atomics (s : State) (c : Nat) (x : Ctx) : (s.setCtx c x).atomics = s.atomics := (rfl)
@[simp] theorem State.setCtx_owners (s : State) (c : Nat) (x : Ctx) : (s.setCtx c x).owners = s.owners := (rfl)
@[simp] theorem State.setCtx_bufs (s : State) (c : Nat) (x : Ctx) : (s.setCtx c x).bufs = s.bufs := (rfl)
@[simp] theorem State.setCtx_pools (s : State) (c : Nat) (x : Ctx) : (s.setCtx c x).pools = s.pools := (rfl)
@[simp] theorem State.setCtx_waiters (s : State) (c : Nat) (x : Ctx) : (s.setCtx c x).waiters = s.waiters := (rfl)
@[simp] theorem State.setCtx_grants (s : State) (c : Nat) (x : Ctx) : (s.setCtx c x).grants = s.grants := (rfl)
@[simp] theorem State.setCtx_rowErrs (s : State) (c : Nat) (x : Ctx) : (s.setCtx c x).rowErrs = s.rowErrs := (rfl)
@[simp] theorem State.setCtx_pageErrs (s : State) (c : Nat) (x : Ctx) : (s.setCtx c x).pageErrs = s.pageErrs := (rfl)
@[simp] theorem State.setCtx_pageHeld (s : State) (c : Nat) (x : Ctx) : (s.setCtx c x).pageHeld = s.pageHeld := (rfl)
@[simp] theorem State.setCtx_pages (s : State) (c : Nat) (x : Ctx) : (s.setCtx c x).pages = s.pages := (rfl)
@[simp] theorem State.setCtx_sparedRows (s : State) (c : Nat) (x : Ctx) : (s.setCtx c x).sparedRows = s.sparedRows := (rfl)
@[simp] theorem State.setCtx_patrolAt (s : State) (c : Nat) (x : Ctx) : (s.setCtx c x).patrolAt = s.patrolAt := (rfl)
@[simp] theorem State.setCtx_sramAt (s : State) (c : Nat) (x : Ctx) : (s.setCtx c x).sramAt = s.sramAt := (rfl)
@[simp] theorem State.setCtx_selfRefresh (s : State) (c : Nat) (x : Ctx) : (s.setCtx c x).selfRefresh = s.selfRefresh := (rfl)
@[simp] theorem State.setCtx_refreshing (s : State) (c : Nat) (x : Ctx) : (s.setCtx c x).refreshing = s.refreshing := (rfl)
@[simp] theorem State.setCtx_sessions (s : State) (c : Nat) (x : Ctx) : (s.setCtx c x).sessions = s.sessions := (rfl)
@[simp] theorem State.setCtx_hpActive (s : State) (c : Nat) (x : Ctx) : (s.setCtx c x).hpActive = s.hpActive := (rfl)
@[simp] theorem State.setCtx_hpApply (s : State) (c : Nat) (x : Ctx) : (s.setCtx c x).hpApply = s.hpApply := (rfl)
@[simp] theorem State.setCtx_hostLink (s : State) (c : Nat) (x : Ctx) : (s.setCtx c x).hostLink = s.hostLink := (rfl)
@[simp] theorem State.setCtx_zctWait (s : State) (c : Nat) (x : Ctx) : (s.setCtx c x).zctWait = s.zctWait := (rfl)
@[simp] theorem State.setCtx_flash (s : State) (c : Nat) (x : Ctx) : (s.setCtx c x).flash = s.flash := (rfl)
@[simp] theorem State.setCtx_bootSlots (s : State) (c : Nat) (x : Ctx) : (s.setCtx c x).bootSlots = s.bootSlots := (rfl)
@[simp] theorem State.setCtx_cert (s : State) (c : Nat) (x : Ctx) : (s.setCtx c x).cert = s.cert := (rfl)
@[simp] theorem State.setCtx_jorou (s : State) (c : Nat) (x : Ctx) : (s.setCtx c x).jorou = s.jorou := (rfl)
@[simp] theorem State.setCtx_wear (s : State) (c : Nat) (x : Ctx) : (s.setCtx c x).wear = s.wear := (rfl)
@[simp] theorem State.setCtx_ledger (s : State) (c : Nat) (x : Ctx) : (s.setCtx c x).ledger = s.ledger := (rfl)
@[simp] theorem State.setCtx_resetOp (s : State) (c : Nat) (x : Ctx) : (s.setCtx c x).reset? = s.reset? := (rfl)
@[simp] theorem State.setCtx_resetQ (s : State) (c : Nat) (x : Ctx) : (s.setCtx c x).resetQ = s.resetQ := (rfl)
@[simp] theorem State.setCtx_resetsDone (s : State) (c : Nat) (x : Ctx) : (s.setCtx c x).resetsDone = s.resetsDone := (rfl)
@[simp] theorem State.setCtx_captures (s : State) (c : Nat) (x : Ctx) : (s.setCtx c x).captures = s.captures := (rfl)
@[simp] theorem State.setCtx_capture (s : State) (c : Nat) (x : Ctx) : (s.setCtx c x).capture = s.capture := (rfl)
@[simp] theorem State.setCtx_capQ (s : State) (c : Nat) (x : Ctx) : (s.setCtx c x).capQ = s.capQ := (rfl)
@[simp] theorem State.setCtx_scan (s : State) (c : Nat) (x : Ctx) : (s.setCtx c x).scan = s.scan := (rfl)
@[simp] theorem State.setCtx_hangs (s : State) (c : Nat) (x : Ctx) : (s.setCtx c x).hangs = s.hangs := (rfl)
@[simp] theorem State.setCtx_stalls (s : State) (c : Nat) (x : Ctx) : (s.setCtx c x).stalls = s.stalls := (rfl)
@[simp] theorem State.setCtx_power (s : State) (c : Nat) (x : Ctx) : (s.setCtx c x).power = s.power := (rfl)
@[simp] theorem State.setCtx_wb (s : State) (c : Nat) (x : Ctx) : (s.setCtx c x).wb = s.wb := (rfl)

/-! ### modCtx -/

@[simp] theorem State.modCtx_pending (s : State) (c : Nat) (f : Ctx → Ctx) : (s.modCtx c f).pending = s.pending := (rfl)
@[simp] theorem State.modCtx_cycle (s : State) (c : Nat) (f : Ctx → Ctx) : (s.modCtx c f).cycle = s.cycle := (rfl)
@[simp] theorem State.modCtx_grade (s : State) (c : Nat) (f : Ctx → Ctx) : (s.modCtx c f).grade = s.grade := (rfl)
@[simp] theorem State.modCtx_freeCtr (s : State) (c : Nat) (f : Ctx → Ctx) : (s.modCtx c f).freeCtr = s.freeCtr := (rfl)
@[simp] theorem State.modCtx_out (s : State) (c : Nat) (f : Ctx → Ctx) : (s.modCtx c f).out = s.out := (rfl)
@[simp] theorem State.modCtx_mem (s : State) (c : Nat) (f : Ctx → Ctx) : (s.modCtx c f).mem = s.mem := (rfl)
@[simp] theorem State.modCtx_poison (s : State) (c : Nat) (f : Ctx → Ctx) : (s.modCtx c f).poison = s.poison := (rfl)
@[simp] theorem State.modCtx_regs (s : State) (c : Nat) (f : Ctx → Ctx) : (s.modCtx c f).regs = s.regs := (rfl)
@[simp] theorem State.modCtx_ports (s : State) (c : Nat) (f : Ctx → Ctx) : (s.modCtx c f).ports = s.ports := (rfl)
@[simp] theorem State.modCtx_laneMap (s : State) (c : Nat) (f : Ctx → Ctx) : (s.modCtx c f).laneMap = s.laneMap := (rfl)
@[simp] theorem State.modCtx_mapFixed (s : State) (c : Nat) (f : Ctx → Ctx) : (s.modCtx c f).mapFixed = s.mapFixed := (rfl)
@[simp] theorem State.modCtx_slots (s : State) (c : Nat) (f : Ctx → Ctx) : (s.modCtx c f).slots = s.slots := (rfl)
@[simp] theorem State.modCtx_queues (s : State) (c : Nat) (f : Ctx → Ctx) : (s.modCtx c f).queues = s.queues := (rfl)
@[simp] theorem State.modCtx_xin (s : State) (c : Nat) (f : Ctx → Ctx) : (s.modCtx c f).xin = s.xin := (rfl)
@[simp] theorem State.modCtx_xinLast (s : State) (c : Nat) (f : Ctx → Ctx) : (s.modCtx c f).xinLast = s.xinLast := (rfl)
@[simp] theorem State.modCtx_heldCells (s : State) (c : Nat) (f : Ctx → Ctx) : (s.modCtx c f).heldCells = s.heldCells := (rfl)
@[simp] theorem State.modCtx_retiredSlots (s : State) (c : Nat) (f : Ctx → Ctx) : (s.modCtx c f).retiredSlots = s.retiredSlots := (rfl)
@[simp] theorem State.modCtx_floor (s : State) (c : Nat) (f : Ctx → Ctx) : (s.modCtx c f).floor = s.floor := (rfl)
@[simp] theorem State.modCtx_mirrors (s : State) (c : Nat) (f : Ctx → Ctx) : (s.modCtx c f).mirrors = s.mirrors := (rfl)
@[simp] theorem State.modCtx_mirrorMade (s : State) (c : Nat) (f : Ctx → Ctx) : (s.modCtx c f).mirrorMade = s.mirrorMade := (rfl)
@[simp] theorem State.modCtx_sampleNext (s : State) (c : Nat) (f : Ctx → Ctx) : (s.modCtx c f).sampleNext = s.sampleNext := (rfl)
@[simp] theorem State.modCtx_sampleRead (s : State) (c : Nat) (f : Ctx → Ctx) : (s.modCtx c f).sampleRead = s.sampleRead := (rfl)
@[simp] theorem State.modCtx_smpStart (s : State) (c : Nat) (f : Ctx → Ctx) : (s.modCtx c f).smpStart = s.smpStart := (rfl)
@[simp] theorem State.modCtx_fails (s : State) (c : Nat) (f : Ctx → Ctx) : (s.modCtx c f).fails = s.fails := (rfl)
@[simp] theorem State.modCtx_echoes (s : State) (c : Nat) (f : Ctx → Ctx) : (s.modCtx c f).echoes = s.echoes := (rfl)
@[simp] theorem State.modCtx_echoGaps (s : State) (c : Nat) (f : Ctx → Ctx) : (s.modCtx c f).echoGaps = s.echoGaps := (rfl)
@[simp] theorem State.modCtx_noReturn (s : State) (c : Nat) (f : Ctx → Ctx) : (s.modCtx c f).noReturn = s.noReturn := (rfl)
@[simp] theorem State.modCtx_tiles (s : State) (c : Nat) (f : Ctx → Ctx) : (s.modCtx c f).tiles = s.tiles := (rfl)
@[simp] theorem State.modCtx_tileMap (s : State) (c : Nat) (f : Ctx → Ctx) : (s.modCtx c f).tileMap = s.tileMap := (rfl)
@[simp] theorem State.modCtx_failedTiles (s : State) (c : Nat) (f : Ctx → Ctx) : (s.modCtx c f).failedTiles = s.failedTiles := (rfl)
@[simp] theorem State.modCtx_candidates (s : State) (c : Nat) (f : Ctx → Ctx) : (s.modCtx c f).candidates = s.candidates := (rfl)
@[simp] theorem State.modCtx_inboxes (s : State) (c : Nat) (f : Ctx → Ctx) : (s.modCtx c f).inboxes = s.inboxes := (rfl)
@[simp] theorem State.modCtx_ringPass (s : State) (c : Nat) (f : Ctx → Ctx) : (s.modCtx c f).ringPass = s.ringPass := (rfl)
@[simp] theorem State.modCtx_plans (s : State) (c : Nat) (f : Ctx → Ctx) : (s.modCtx c f).plans = s.plans := (rfl)
@[simp] theorem State.modCtx_planFp (s : State) (c : Nat) (f : Ctx → Ctx) : (s.modCtx c f).planFp = s.planFp := (rfl)
@[simp] theorem State.modCtx_groups (s : State) (c : Nat) (f : Ctx → Ctx) : (s.modCtx c f).groups = s.groups := (rfl)
@[simp] theorem State.modCtx_wmInbox (s : State) (c : Nat) (f : Ctx → Ctx) : (s.modCtx c f).wmInbox = s.wmInbox := (rfl)
@[simp] theorem State.modCtx_sets (s : State) (c : Nat) (f : Ctx → Ctx) : (s.modCtx c f).sets = s.sets := (rfl)
@[simp] theorem State.modCtx_ehts (s : State) (c : Nat) (f : Ctx → Ctx) : (s.modCtx c f).ehts = s.ehts := (rfl)
@[simp] theorem State.modCtx_expOpen (s : State) (c : Nat) (f : Ctx → Ctx) : (s.modCtx c f).expOpen = s.expOpen := (rfl)
@[simp] theorem State.modCtx_expIn (s : State) (c : Nat) (f : Ctx → Ctx) : (s.modCtx c f).expIn = s.expIn := (rfl)
@[simp] theorem State.modCtx_expWait (s : State) (c : Nat) (f : Ctx → Ctx) : (s.modCtx c f).expWait = s.expWait := (rfl)
@[simp] theorem State.modCtx_atomics (s : State) (c : Nat) (f : Ctx → Ctx) : (s.modCtx c f).atomics = s.atomics := (rfl)
@[simp] theorem State.modCtx_owners (s : State) (c : Nat) (f : Ctx → Ctx) : (s.modCtx c f).owners = s.owners := (rfl)
@[simp] theorem State.modCtx_bufs (s : State) (c : Nat) (f : Ctx → Ctx) : (s.modCtx c f).bufs = s.bufs := (rfl)
@[simp] theorem State.modCtx_pools (s : State) (c : Nat) (f : Ctx → Ctx) : (s.modCtx c f).pools = s.pools := (rfl)
@[simp] theorem State.modCtx_waiters (s : State) (c : Nat) (f : Ctx → Ctx) : (s.modCtx c f).waiters = s.waiters := (rfl)
@[simp] theorem State.modCtx_grants (s : State) (c : Nat) (f : Ctx → Ctx) : (s.modCtx c f).grants = s.grants := (rfl)
@[simp] theorem State.modCtx_rowErrs (s : State) (c : Nat) (f : Ctx → Ctx) : (s.modCtx c f).rowErrs = s.rowErrs := (rfl)
@[simp] theorem State.modCtx_pageErrs (s : State) (c : Nat) (f : Ctx → Ctx) : (s.modCtx c f).pageErrs = s.pageErrs := (rfl)
@[simp] theorem State.modCtx_pageHeld (s : State) (c : Nat) (f : Ctx → Ctx) : (s.modCtx c f).pageHeld = s.pageHeld := (rfl)
@[simp] theorem State.modCtx_pages (s : State) (c : Nat) (f : Ctx → Ctx) : (s.modCtx c f).pages = s.pages := (rfl)
@[simp] theorem State.modCtx_sparedRows (s : State) (c : Nat) (f : Ctx → Ctx) : (s.modCtx c f).sparedRows = s.sparedRows := (rfl)
@[simp] theorem State.modCtx_patrolAt (s : State) (c : Nat) (f : Ctx → Ctx) : (s.modCtx c f).patrolAt = s.patrolAt := (rfl)
@[simp] theorem State.modCtx_sramAt (s : State) (c : Nat) (f : Ctx → Ctx) : (s.modCtx c f).sramAt = s.sramAt := (rfl)
@[simp] theorem State.modCtx_selfRefresh (s : State) (c : Nat) (f : Ctx → Ctx) : (s.modCtx c f).selfRefresh = s.selfRefresh := (rfl)
@[simp] theorem State.modCtx_refreshing (s : State) (c : Nat) (f : Ctx → Ctx) : (s.modCtx c f).refreshing = s.refreshing := (rfl)
@[simp] theorem State.modCtx_sessions (s : State) (c : Nat) (f : Ctx → Ctx) : (s.modCtx c f).sessions = s.sessions := (rfl)
@[simp] theorem State.modCtx_hpActive (s : State) (c : Nat) (f : Ctx → Ctx) : (s.modCtx c f).hpActive = s.hpActive := (rfl)
@[simp] theorem State.modCtx_hpApply (s : State) (c : Nat) (f : Ctx → Ctx) : (s.modCtx c f).hpApply = s.hpApply := (rfl)
@[simp] theorem State.modCtx_hostLink (s : State) (c : Nat) (f : Ctx → Ctx) : (s.modCtx c f).hostLink = s.hostLink := (rfl)
@[simp] theorem State.modCtx_zctWait (s : State) (c : Nat) (f : Ctx → Ctx) : (s.modCtx c f).zctWait = s.zctWait := (rfl)
@[simp] theorem State.modCtx_flash (s : State) (c : Nat) (f : Ctx → Ctx) : (s.modCtx c f).flash = s.flash := (rfl)
@[simp] theorem State.modCtx_bootSlots (s : State) (c : Nat) (f : Ctx → Ctx) : (s.modCtx c f).bootSlots = s.bootSlots := (rfl)
@[simp] theorem State.modCtx_cert (s : State) (c : Nat) (f : Ctx → Ctx) : (s.modCtx c f).cert = s.cert := (rfl)
@[simp] theorem State.modCtx_jorou (s : State) (c : Nat) (f : Ctx → Ctx) : (s.modCtx c f).jorou = s.jorou := (rfl)
@[simp] theorem State.modCtx_wear (s : State) (c : Nat) (f : Ctx → Ctx) : (s.modCtx c f).wear = s.wear := (rfl)
@[simp] theorem State.modCtx_ledger (s : State) (c : Nat) (f : Ctx → Ctx) : (s.modCtx c f).ledger = s.ledger := (rfl)
@[simp] theorem State.modCtx_resetOp (s : State) (c : Nat) (f : Ctx → Ctx) : (s.modCtx c f).reset? = s.reset? := (rfl)
@[simp] theorem State.modCtx_resetQ (s : State) (c : Nat) (f : Ctx → Ctx) : (s.modCtx c f).resetQ = s.resetQ := (rfl)
@[simp] theorem State.modCtx_resetsDone (s : State) (c : Nat) (f : Ctx → Ctx) : (s.modCtx c f).resetsDone = s.resetsDone := (rfl)
@[simp] theorem State.modCtx_captures (s : State) (c : Nat) (f : Ctx → Ctx) : (s.modCtx c f).captures = s.captures := (rfl)
@[simp] theorem State.modCtx_capture (s : State) (c : Nat) (f : Ctx → Ctx) : (s.modCtx c f).capture = s.capture := (rfl)
@[simp] theorem State.modCtx_capQ (s : State) (c : Nat) (f : Ctx → Ctx) : (s.modCtx c f).capQ = s.capQ := (rfl)
@[simp] theorem State.modCtx_scan (s : State) (c : Nat) (f : Ctx → Ctx) : (s.modCtx c f).scan = s.scan := (rfl)
@[simp] theorem State.modCtx_hangs (s : State) (c : Nat) (f : Ctx → Ctx) : (s.modCtx c f).hangs = s.hangs := (rfl)
@[simp] theorem State.modCtx_stalls (s : State) (c : Nat) (f : Ctx → Ctx) : (s.modCtx c f).stalls = s.stalls := (rfl)
@[simp] theorem State.modCtx_power (s : State) (c : Nat) (f : Ctx → Ctx) : (s.modCtx c f).power = s.power := (rfl)
@[simp] theorem State.modCtx_wb (s : State) (c : Nat) (f : Ctx → Ctx) : (s.modCtx c f).wb = s.wb := (rfl)

/-! ### setGroup -/

@[simp] theorem State.setGroup_pending (s : State) (g : Nat) (x : Group) : (s.setGroup g x).pending = s.pending := (rfl)
@[simp] theorem State.setGroup_cycle (s : State) (g : Nat) (x : Group) : (s.setGroup g x).cycle = s.cycle := (rfl)
@[simp] theorem State.setGroup_grade (s : State) (g : Nat) (x : Group) : (s.setGroup g x).grade = s.grade := (rfl)
@[simp] theorem State.setGroup_freeCtr (s : State) (g : Nat) (x : Group) : (s.setGroup g x).freeCtr = s.freeCtr := (rfl)
@[simp] theorem State.setGroup_out (s : State) (g : Nat) (x : Group) : (s.setGroup g x).out = s.out := (rfl)
@[simp] theorem State.setGroup_mem (s : State) (g : Nat) (x : Group) : (s.setGroup g x).mem = s.mem := (rfl)
@[simp] theorem State.setGroup_poison (s : State) (g : Nat) (x : Group) : (s.setGroup g x).poison = s.poison := (rfl)
@[simp] theorem State.setGroup_regs (s : State) (g : Nat) (x : Group) : (s.setGroup g x).regs = s.regs := (rfl)
@[simp] theorem State.setGroup_ports (s : State) (g : Nat) (x : Group) : (s.setGroup g x).ports = s.ports := (rfl)
@[simp] theorem State.setGroup_laneMap (s : State) (g : Nat) (x : Group) : (s.setGroup g x).laneMap = s.laneMap := (rfl)
@[simp] theorem State.setGroup_mapFixed (s : State) (g : Nat) (x : Group) : (s.setGroup g x).mapFixed = s.mapFixed := (rfl)
@[simp] theorem State.setGroup_slots (s : State) (g : Nat) (x : Group) : (s.setGroup g x).slots = s.slots := (rfl)
@[simp] theorem State.setGroup_queues (s : State) (g : Nat) (x : Group) : (s.setGroup g x).queues = s.queues := (rfl)
@[simp] theorem State.setGroup_xin (s : State) (g : Nat) (x : Group) : (s.setGroup g x).xin = s.xin := (rfl)
@[simp] theorem State.setGroup_xinLast (s : State) (g : Nat) (x : Group) : (s.setGroup g x).xinLast = s.xinLast := (rfl)
@[simp] theorem State.setGroup_heldCells (s : State) (g : Nat) (x : Group) : (s.setGroup g x).heldCells = s.heldCells := (rfl)
@[simp] theorem State.setGroup_retiredSlots (s : State) (g : Nat) (x : Group) : (s.setGroup g x).retiredSlots = s.retiredSlots := (rfl)
@[simp] theorem State.setGroup_floor (s : State) (g : Nat) (x : Group) : (s.setGroup g x).floor = s.floor := (rfl)
@[simp] theorem State.setGroup_mirrors (s : State) (g : Nat) (x : Group) : (s.setGroup g x).mirrors = s.mirrors := (rfl)
@[simp] theorem State.setGroup_mirrorMade (s : State) (g : Nat) (x : Group) : (s.setGroup g x).mirrorMade = s.mirrorMade := (rfl)
@[simp] theorem State.setGroup_sampleNext (s : State) (g : Nat) (x : Group) : (s.setGroup g x).sampleNext = s.sampleNext := (rfl)
@[simp] theorem State.setGroup_sampleRead (s : State) (g : Nat) (x : Group) : (s.setGroup g x).sampleRead = s.sampleRead := (rfl)
@[simp] theorem State.setGroup_smpStart (s : State) (g : Nat) (x : Group) : (s.setGroup g x).smpStart = s.smpStart := (rfl)
@[simp] theorem State.setGroup_fails (s : State) (g : Nat) (x : Group) : (s.setGroup g x).fails = s.fails := (rfl)
@[simp] theorem State.setGroup_echoes (s : State) (g : Nat) (x : Group) : (s.setGroup g x).echoes = s.echoes := (rfl)
@[simp] theorem State.setGroup_echoGaps (s : State) (g : Nat) (x : Group) : (s.setGroup g x).echoGaps = s.echoGaps := (rfl)
@[simp] theorem State.setGroup_noReturn (s : State) (g : Nat) (x : Group) : (s.setGroup g x).noReturn = s.noReturn := (rfl)
@[simp] theorem State.setGroup_tiles (s : State) (g : Nat) (x : Group) : (s.setGroup g x).tiles = s.tiles := (rfl)
@[simp] theorem State.setGroup_tileMap (s : State) (g : Nat) (x : Group) : (s.setGroup g x).tileMap = s.tileMap := (rfl)
@[simp] theorem State.setGroup_failedTiles (s : State) (g : Nat) (x : Group) : (s.setGroup g x).failedTiles = s.failedTiles := (rfl)
@[simp] theorem State.setGroup_candidates (s : State) (g : Nat) (x : Group) : (s.setGroup g x).candidates = s.candidates := (rfl)
@[simp] theorem State.setGroup_inboxes (s : State) (g : Nat) (x : Group) : (s.setGroup g x).inboxes = s.inboxes := (rfl)
@[simp] theorem State.setGroup_ctxs (s : State) (g : Nat) (x : Group) : (s.setGroup g x).ctxs = s.ctxs := (rfl)
@[simp] theorem State.setGroup_ringPass (s : State) (g : Nat) (x : Group) : (s.setGroup g x).ringPass = s.ringPass := (rfl)
@[simp] theorem State.setGroup_plans (s : State) (g : Nat) (x : Group) : (s.setGroup g x).plans = s.plans := (rfl)
@[simp] theorem State.setGroup_planFp (s : State) (g : Nat) (x : Group) : (s.setGroup g x).planFp = s.planFp := (rfl)
@[simp] theorem State.setGroup_wmInbox (s : State) (g : Nat) (x : Group) : (s.setGroup g x).wmInbox = s.wmInbox := (rfl)
@[simp] theorem State.setGroup_sets (s : State) (g : Nat) (x : Group) : (s.setGroup g x).sets = s.sets := (rfl)
@[simp] theorem State.setGroup_ehts (s : State) (g : Nat) (x : Group) : (s.setGroup g x).ehts = s.ehts := (rfl)
@[simp] theorem State.setGroup_expOpen (s : State) (g : Nat) (x : Group) : (s.setGroup g x).expOpen = s.expOpen := (rfl)
@[simp] theorem State.setGroup_expIn (s : State) (g : Nat) (x : Group) : (s.setGroup g x).expIn = s.expIn := (rfl)
@[simp] theorem State.setGroup_expWait (s : State) (g : Nat) (x : Group) : (s.setGroup g x).expWait = s.expWait := (rfl)
@[simp] theorem State.setGroup_atomics (s : State) (g : Nat) (x : Group) : (s.setGroup g x).atomics = s.atomics := (rfl)
@[simp] theorem State.setGroup_owners (s : State) (g : Nat) (x : Group) : (s.setGroup g x).owners = s.owners := (rfl)
@[simp] theorem State.setGroup_bufs (s : State) (g : Nat) (x : Group) : (s.setGroup g x).bufs = s.bufs := (rfl)
@[simp] theorem State.setGroup_pools (s : State) (g : Nat) (x : Group) : (s.setGroup g x).pools = s.pools := (rfl)
@[simp] theorem State.setGroup_waiters (s : State) (g : Nat) (x : Group) : (s.setGroup g x).waiters = s.waiters := (rfl)
@[simp] theorem State.setGroup_grants (s : State) (g : Nat) (x : Group) : (s.setGroup g x).grants = s.grants := (rfl)
@[simp] theorem State.setGroup_rowErrs (s : State) (g : Nat) (x : Group) : (s.setGroup g x).rowErrs = s.rowErrs := (rfl)
@[simp] theorem State.setGroup_pageErrs (s : State) (g : Nat) (x : Group) : (s.setGroup g x).pageErrs = s.pageErrs := (rfl)
@[simp] theorem State.setGroup_pageHeld (s : State) (g : Nat) (x : Group) : (s.setGroup g x).pageHeld = s.pageHeld := (rfl)
@[simp] theorem State.setGroup_pages (s : State) (g : Nat) (x : Group) : (s.setGroup g x).pages = s.pages := (rfl)
@[simp] theorem State.setGroup_sparedRows (s : State) (g : Nat) (x : Group) : (s.setGroup g x).sparedRows = s.sparedRows := (rfl)
@[simp] theorem State.setGroup_patrolAt (s : State) (g : Nat) (x : Group) : (s.setGroup g x).patrolAt = s.patrolAt := (rfl)
@[simp] theorem State.setGroup_sramAt (s : State) (g : Nat) (x : Group) : (s.setGroup g x).sramAt = s.sramAt := (rfl)
@[simp] theorem State.setGroup_selfRefresh (s : State) (g : Nat) (x : Group) : (s.setGroup g x).selfRefresh = s.selfRefresh := (rfl)
@[simp] theorem State.setGroup_refreshing (s : State) (g : Nat) (x : Group) : (s.setGroup g x).refreshing = s.refreshing := (rfl)
@[simp] theorem State.setGroup_sessions (s : State) (g : Nat) (x : Group) : (s.setGroup g x).sessions = s.sessions := (rfl)
@[simp] theorem State.setGroup_hpActive (s : State) (g : Nat) (x : Group) : (s.setGroup g x).hpActive = s.hpActive := (rfl)
@[simp] theorem State.setGroup_hpApply (s : State) (g : Nat) (x : Group) : (s.setGroup g x).hpApply = s.hpApply := (rfl)
@[simp] theorem State.setGroup_hostLink (s : State) (g : Nat) (x : Group) : (s.setGroup g x).hostLink = s.hostLink := (rfl)
@[simp] theorem State.setGroup_zctWait (s : State) (g : Nat) (x : Group) : (s.setGroup g x).zctWait = s.zctWait := (rfl)
@[simp] theorem State.setGroup_flash (s : State) (g : Nat) (x : Group) : (s.setGroup g x).flash = s.flash := (rfl)
@[simp] theorem State.setGroup_bootSlots (s : State) (g : Nat) (x : Group) : (s.setGroup g x).bootSlots = s.bootSlots := (rfl)
@[simp] theorem State.setGroup_cert (s : State) (g : Nat) (x : Group) : (s.setGroup g x).cert = s.cert := (rfl)
@[simp] theorem State.setGroup_jorou (s : State) (g : Nat) (x : Group) : (s.setGroup g x).jorou = s.jorou := (rfl)
@[simp] theorem State.setGroup_wear (s : State) (g : Nat) (x : Group) : (s.setGroup g x).wear = s.wear := (rfl)
@[simp] theorem State.setGroup_ledger (s : State) (g : Nat) (x : Group) : (s.setGroup g x).ledger = s.ledger := (rfl)
@[simp] theorem State.setGroup_resetOp (s : State) (g : Nat) (x : Group) : (s.setGroup g x).reset? = s.reset? := (rfl)
@[simp] theorem State.setGroup_resetQ (s : State) (g : Nat) (x : Group) : (s.setGroup g x).resetQ = s.resetQ := (rfl)
@[simp] theorem State.setGroup_resetsDone (s : State) (g : Nat) (x : Group) : (s.setGroup g x).resetsDone = s.resetsDone := (rfl)
@[simp] theorem State.setGroup_captures (s : State) (g : Nat) (x : Group) : (s.setGroup g x).captures = s.captures := (rfl)
@[simp] theorem State.setGroup_capture (s : State) (g : Nat) (x : Group) : (s.setGroup g x).capture = s.capture := (rfl)
@[simp] theorem State.setGroup_capQ (s : State) (g : Nat) (x : Group) : (s.setGroup g x).capQ = s.capQ := (rfl)
@[simp] theorem State.setGroup_scan (s : State) (g : Nat) (x : Group) : (s.setGroup g x).scan = s.scan := (rfl)
@[simp] theorem State.setGroup_hangs (s : State) (g : Nat) (x : Group) : (s.setGroup g x).hangs = s.hangs := (rfl)
@[simp] theorem State.setGroup_stalls (s : State) (g : Nat) (x : Group) : (s.setGroup g x).stalls = s.stalls := (rfl)
@[simp] theorem State.setGroup_power (s : State) (g : Nat) (x : Group) : (s.setGroup g x).power = s.power := (rfl)
@[simp] theorem State.setGroup_wb (s : State) (g : Nat) (x : Group) : (s.setGroup g x).wb = s.wb := (rfl)

/-! ### modGroup -/

@[simp] theorem State.modGroup_pending (s : State) (g : Nat) (f : Group → Group) : (s.modGroup g f).pending = s.pending := (rfl)
@[simp] theorem State.modGroup_cycle (s : State) (g : Nat) (f : Group → Group) : (s.modGroup g f).cycle = s.cycle := (rfl)
@[simp] theorem State.modGroup_grade (s : State) (g : Nat) (f : Group → Group) : (s.modGroup g f).grade = s.grade := (rfl)
@[simp] theorem State.modGroup_freeCtr (s : State) (g : Nat) (f : Group → Group) : (s.modGroup g f).freeCtr = s.freeCtr := (rfl)
@[simp] theorem State.modGroup_out (s : State) (g : Nat) (f : Group → Group) : (s.modGroup g f).out = s.out := (rfl)
@[simp] theorem State.modGroup_mem (s : State) (g : Nat) (f : Group → Group) : (s.modGroup g f).mem = s.mem := (rfl)
@[simp] theorem State.modGroup_poison (s : State) (g : Nat) (f : Group → Group) : (s.modGroup g f).poison = s.poison := (rfl)
@[simp] theorem State.modGroup_regs (s : State) (g : Nat) (f : Group → Group) : (s.modGroup g f).regs = s.regs := (rfl)
@[simp] theorem State.modGroup_ports (s : State) (g : Nat) (f : Group → Group) : (s.modGroup g f).ports = s.ports := (rfl)
@[simp] theorem State.modGroup_laneMap (s : State) (g : Nat) (f : Group → Group) : (s.modGroup g f).laneMap = s.laneMap := (rfl)
@[simp] theorem State.modGroup_mapFixed (s : State) (g : Nat) (f : Group → Group) : (s.modGroup g f).mapFixed = s.mapFixed := (rfl)
@[simp] theorem State.modGroup_slots (s : State) (g : Nat) (f : Group → Group) : (s.modGroup g f).slots = s.slots := (rfl)
@[simp] theorem State.modGroup_queues (s : State) (g : Nat) (f : Group → Group) : (s.modGroup g f).queues = s.queues := (rfl)
@[simp] theorem State.modGroup_xin (s : State) (g : Nat) (f : Group → Group) : (s.modGroup g f).xin = s.xin := (rfl)
@[simp] theorem State.modGroup_xinLast (s : State) (g : Nat) (f : Group → Group) : (s.modGroup g f).xinLast = s.xinLast := (rfl)
@[simp] theorem State.modGroup_heldCells (s : State) (g : Nat) (f : Group → Group) : (s.modGroup g f).heldCells = s.heldCells := (rfl)
@[simp] theorem State.modGroup_retiredSlots (s : State) (g : Nat) (f : Group → Group) : (s.modGroup g f).retiredSlots = s.retiredSlots := (rfl)
@[simp] theorem State.modGroup_floor (s : State) (g : Nat) (f : Group → Group) : (s.modGroup g f).floor = s.floor := (rfl)
@[simp] theorem State.modGroup_mirrors (s : State) (g : Nat) (f : Group → Group) : (s.modGroup g f).mirrors = s.mirrors := (rfl)
@[simp] theorem State.modGroup_mirrorMade (s : State) (g : Nat) (f : Group → Group) : (s.modGroup g f).mirrorMade = s.mirrorMade := (rfl)
@[simp] theorem State.modGroup_sampleNext (s : State) (g : Nat) (f : Group → Group) : (s.modGroup g f).sampleNext = s.sampleNext := (rfl)
@[simp] theorem State.modGroup_sampleRead (s : State) (g : Nat) (f : Group → Group) : (s.modGroup g f).sampleRead = s.sampleRead := (rfl)
@[simp] theorem State.modGroup_smpStart (s : State) (g : Nat) (f : Group → Group) : (s.modGroup g f).smpStart = s.smpStart := (rfl)
@[simp] theorem State.modGroup_fails (s : State) (g : Nat) (f : Group → Group) : (s.modGroup g f).fails = s.fails := (rfl)
@[simp] theorem State.modGroup_echoes (s : State) (g : Nat) (f : Group → Group) : (s.modGroup g f).echoes = s.echoes := (rfl)
@[simp] theorem State.modGroup_echoGaps (s : State) (g : Nat) (f : Group → Group) : (s.modGroup g f).echoGaps = s.echoGaps := (rfl)
@[simp] theorem State.modGroup_noReturn (s : State) (g : Nat) (f : Group → Group) : (s.modGroup g f).noReturn = s.noReturn := (rfl)
@[simp] theorem State.modGroup_tiles (s : State) (g : Nat) (f : Group → Group) : (s.modGroup g f).tiles = s.tiles := (rfl)
@[simp] theorem State.modGroup_tileMap (s : State) (g : Nat) (f : Group → Group) : (s.modGroup g f).tileMap = s.tileMap := (rfl)
@[simp] theorem State.modGroup_failedTiles (s : State) (g : Nat) (f : Group → Group) : (s.modGroup g f).failedTiles = s.failedTiles := (rfl)
@[simp] theorem State.modGroup_candidates (s : State) (g : Nat) (f : Group → Group) : (s.modGroup g f).candidates = s.candidates := (rfl)
@[simp] theorem State.modGroup_inboxes (s : State) (g : Nat) (f : Group → Group) : (s.modGroup g f).inboxes = s.inboxes := (rfl)
@[simp] theorem State.modGroup_ctxs (s : State) (g : Nat) (f : Group → Group) : (s.modGroup g f).ctxs = s.ctxs := (rfl)
@[simp] theorem State.modGroup_ringPass (s : State) (g : Nat) (f : Group → Group) : (s.modGroup g f).ringPass = s.ringPass := (rfl)
@[simp] theorem State.modGroup_plans (s : State) (g : Nat) (f : Group → Group) : (s.modGroup g f).plans = s.plans := (rfl)
@[simp] theorem State.modGroup_planFp (s : State) (g : Nat) (f : Group → Group) : (s.modGroup g f).planFp = s.planFp := (rfl)
@[simp] theorem State.modGroup_wmInbox (s : State) (g : Nat) (f : Group → Group) : (s.modGroup g f).wmInbox = s.wmInbox := (rfl)
@[simp] theorem State.modGroup_sets (s : State) (g : Nat) (f : Group → Group) : (s.modGroup g f).sets = s.sets := (rfl)
@[simp] theorem State.modGroup_ehts (s : State) (g : Nat) (f : Group → Group) : (s.modGroup g f).ehts = s.ehts := (rfl)
@[simp] theorem State.modGroup_expOpen (s : State) (g : Nat) (f : Group → Group) : (s.modGroup g f).expOpen = s.expOpen := (rfl)
@[simp] theorem State.modGroup_expIn (s : State) (g : Nat) (f : Group → Group) : (s.modGroup g f).expIn = s.expIn := (rfl)
@[simp] theorem State.modGroup_expWait (s : State) (g : Nat) (f : Group → Group) : (s.modGroup g f).expWait = s.expWait := (rfl)
@[simp] theorem State.modGroup_atomics (s : State) (g : Nat) (f : Group → Group) : (s.modGroup g f).atomics = s.atomics := (rfl)
@[simp] theorem State.modGroup_owners (s : State) (g : Nat) (f : Group → Group) : (s.modGroup g f).owners = s.owners := (rfl)
@[simp] theorem State.modGroup_bufs (s : State) (g : Nat) (f : Group → Group) : (s.modGroup g f).bufs = s.bufs := (rfl)
@[simp] theorem State.modGroup_pools (s : State) (g : Nat) (f : Group → Group) : (s.modGroup g f).pools = s.pools := (rfl)
@[simp] theorem State.modGroup_waiters (s : State) (g : Nat) (f : Group → Group) : (s.modGroup g f).waiters = s.waiters := (rfl)
@[simp] theorem State.modGroup_grants (s : State) (g : Nat) (f : Group → Group) : (s.modGroup g f).grants = s.grants := (rfl)
@[simp] theorem State.modGroup_rowErrs (s : State) (g : Nat) (f : Group → Group) : (s.modGroup g f).rowErrs = s.rowErrs := (rfl)
@[simp] theorem State.modGroup_pageErrs (s : State) (g : Nat) (f : Group → Group) : (s.modGroup g f).pageErrs = s.pageErrs := (rfl)
@[simp] theorem State.modGroup_pageHeld (s : State) (g : Nat) (f : Group → Group) : (s.modGroup g f).pageHeld = s.pageHeld := (rfl)
@[simp] theorem State.modGroup_pages (s : State) (g : Nat) (f : Group → Group) : (s.modGroup g f).pages = s.pages := (rfl)
@[simp] theorem State.modGroup_sparedRows (s : State) (g : Nat) (f : Group → Group) : (s.modGroup g f).sparedRows = s.sparedRows := (rfl)
@[simp] theorem State.modGroup_patrolAt (s : State) (g : Nat) (f : Group → Group) : (s.modGroup g f).patrolAt = s.patrolAt := (rfl)
@[simp] theorem State.modGroup_sramAt (s : State) (g : Nat) (f : Group → Group) : (s.modGroup g f).sramAt = s.sramAt := (rfl)
@[simp] theorem State.modGroup_selfRefresh (s : State) (g : Nat) (f : Group → Group) : (s.modGroup g f).selfRefresh = s.selfRefresh := (rfl)
@[simp] theorem State.modGroup_refreshing (s : State) (g : Nat) (f : Group → Group) : (s.modGroup g f).refreshing = s.refreshing := (rfl)
@[simp] theorem State.modGroup_sessions (s : State) (g : Nat) (f : Group → Group) : (s.modGroup g f).sessions = s.sessions := (rfl)
@[simp] theorem State.modGroup_hpActive (s : State) (g : Nat) (f : Group → Group) : (s.modGroup g f).hpActive = s.hpActive := (rfl)
@[simp] theorem State.modGroup_hpApply (s : State) (g : Nat) (f : Group → Group) : (s.modGroup g f).hpApply = s.hpApply := (rfl)
@[simp] theorem State.modGroup_hostLink (s : State) (g : Nat) (f : Group → Group) : (s.modGroup g f).hostLink = s.hostLink := (rfl)
@[simp] theorem State.modGroup_zctWait (s : State) (g : Nat) (f : Group → Group) : (s.modGroup g f).zctWait = s.zctWait := (rfl)
@[simp] theorem State.modGroup_flash (s : State) (g : Nat) (f : Group → Group) : (s.modGroup g f).flash = s.flash := (rfl)
@[simp] theorem State.modGroup_bootSlots (s : State) (g : Nat) (f : Group → Group) : (s.modGroup g f).bootSlots = s.bootSlots := (rfl)
@[simp] theorem State.modGroup_cert (s : State) (g : Nat) (f : Group → Group) : (s.modGroup g f).cert = s.cert := (rfl)
@[simp] theorem State.modGroup_jorou (s : State) (g : Nat) (f : Group → Group) : (s.modGroup g f).jorou = s.jorou := (rfl)
@[simp] theorem State.modGroup_wear (s : State) (g : Nat) (f : Group → Group) : (s.modGroup g f).wear = s.wear := (rfl)
@[simp] theorem State.modGroup_ledger (s : State) (g : Nat) (f : Group → Group) : (s.modGroup g f).ledger = s.ledger := (rfl)
@[simp] theorem State.modGroup_resetOp (s : State) (g : Nat) (f : Group → Group) : (s.modGroup g f).reset? = s.reset? := (rfl)
@[simp] theorem State.modGroup_resetQ (s : State) (g : Nat) (f : Group → Group) : (s.modGroup g f).resetQ = s.resetQ := (rfl)
@[simp] theorem State.modGroup_resetsDone (s : State) (g : Nat) (f : Group → Group) : (s.modGroup g f).resetsDone = s.resetsDone := (rfl)
@[simp] theorem State.modGroup_captures (s : State) (g : Nat) (f : Group → Group) : (s.modGroup g f).captures = s.captures := (rfl)
@[simp] theorem State.modGroup_capture (s : State) (g : Nat) (f : Group → Group) : (s.modGroup g f).capture = s.capture := (rfl)
@[simp] theorem State.modGroup_capQ (s : State) (g : Nat) (f : Group → Group) : (s.modGroup g f).capQ = s.capQ := (rfl)
@[simp] theorem State.modGroup_scan (s : State) (g : Nat) (f : Group → Group) : (s.modGroup g f).scan = s.scan := (rfl)
@[simp] theorem State.modGroup_hangs (s : State) (g : Nat) (f : Group → Group) : (s.modGroup g f).hangs = s.hangs := (rfl)
@[simp] theorem State.modGroup_stalls (s : State) (g : Nat) (f : Group → Group) : (s.modGroup g f).stalls = s.stalls := (rfl)
@[simp] theorem State.modGroup_power (s : State) (g : Nat) (f : Group → Group) : (s.modGroup g f).power = s.power := (rfl)
@[simp] theorem State.modGroup_wb (s : State) (g : Nat) (f : Group → Group) : (s.modGroup g f).wb = s.wb := (rfl)

/-! ### setEht -/

@[simp] theorem State.setEht_pending (s : State) (e : Nat) (x : Eht) : (s.setEht e x).pending = s.pending := (rfl)
@[simp] theorem State.setEht_cycle (s : State) (e : Nat) (x : Eht) : (s.setEht e x).cycle = s.cycle := (rfl)
@[simp] theorem State.setEht_grade (s : State) (e : Nat) (x : Eht) : (s.setEht e x).grade = s.grade := (rfl)
@[simp] theorem State.setEht_freeCtr (s : State) (e : Nat) (x : Eht) : (s.setEht e x).freeCtr = s.freeCtr := (rfl)
@[simp] theorem State.setEht_out (s : State) (e : Nat) (x : Eht) : (s.setEht e x).out = s.out := (rfl)
@[simp] theorem State.setEht_mem (s : State) (e : Nat) (x : Eht) : (s.setEht e x).mem = s.mem := (rfl)
@[simp] theorem State.setEht_poison (s : State) (e : Nat) (x : Eht) : (s.setEht e x).poison = s.poison := (rfl)
@[simp] theorem State.setEht_regs (s : State) (e : Nat) (x : Eht) : (s.setEht e x).regs = s.regs := (rfl)
@[simp] theorem State.setEht_ports (s : State) (e : Nat) (x : Eht) : (s.setEht e x).ports = s.ports := (rfl)
@[simp] theorem State.setEht_laneMap (s : State) (e : Nat) (x : Eht) : (s.setEht e x).laneMap = s.laneMap := (rfl)
@[simp] theorem State.setEht_mapFixed (s : State) (e : Nat) (x : Eht) : (s.setEht e x).mapFixed = s.mapFixed := (rfl)
@[simp] theorem State.setEht_slots (s : State) (e : Nat) (x : Eht) : (s.setEht e x).slots = s.slots := (rfl)
@[simp] theorem State.setEht_queues (s : State) (e : Nat) (x : Eht) : (s.setEht e x).queues = s.queues := (rfl)
@[simp] theorem State.setEht_xin (s : State) (e : Nat) (x : Eht) : (s.setEht e x).xin = s.xin := (rfl)
@[simp] theorem State.setEht_xinLast (s : State) (e : Nat) (x : Eht) : (s.setEht e x).xinLast = s.xinLast := (rfl)
@[simp] theorem State.setEht_heldCells (s : State) (e : Nat) (x : Eht) : (s.setEht e x).heldCells = s.heldCells := (rfl)
@[simp] theorem State.setEht_retiredSlots (s : State) (e : Nat) (x : Eht) : (s.setEht e x).retiredSlots = s.retiredSlots := (rfl)
@[simp] theorem State.setEht_floor (s : State) (e : Nat) (x : Eht) : (s.setEht e x).floor = s.floor := (rfl)
@[simp] theorem State.setEht_mirrors (s : State) (e : Nat) (x : Eht) : (s.setEht e x).mirrors = s.mirrors := (rfl)
@[simp] theorem State.setEht_mirrorMade (s : State) (e : Nat) (x : Eht) : (s.setEht e x).mirrorMade = s.mirrorMade := (rfl)
@[simp] theorem State.setEht_sampleNext (s : State) (e : Nat) (x : Eht) : (s.setEht e x).sampleNext = s.sampleNext := (rfl)
@[simp] theorem State.setEht_sampleRead (s : State) (e : Nat) (x : Eht) : (s.setEht e x).sampleRead = s.sampleRead := (rfl)
@[simp] theorem State.setEht_smpStart (s : State) (e : Nat) (x : Eht) : (s.setEht e x).smpStart = s.smpStart := (rfl)
@[simp] theorem State.setEht_fails (s : State) (e : Nat) (x : Eht) : (s.setEht e x).fails = s.fails := (rfl)
@[simp] theorem State.setEht_echoes (s : State) (e : Nat) (x : Eht) : (s.setEht e x).echoes = s.echoes := (rfl)
@[simp] theorem State.setEht_echoGaps (s : State) (e : Nat) (x : Eht) : (s.setEht e x).echoGaps = s.echoGaps := (rfl)
@[simp] theorem State.setEht_noReturn (s : State) (e : Nat) (x : Eht) : (s.setEht e x).noReturn = s.noReturn := (rfl)
@[simp] theorem State.setEht_tiles (s : State) (e : Nat) (x : Eht) : (s.setEht e x).tiles = s.tiles := (rfl)
@[simp] theorem State.setEht_tileMap (s : State) (e : Nat) (x : Eht) : (s.setEht e x).tileMap = s.tileMap := (rfl)
@[simp] theorem State.setEht_failedTiles (s : State) (e : Nat) (x : Eht) : (s.setEht e x).failedTiles = s.failedTiles := (rfl)
@[simp] theorem State.setEht_candidates (s : State) (e : Nat) (x : Eht) : (s.setEht e x).candidates = s.candidates := (rfl)
@[simp] theorem State.setEht_inboxes (s : State) (e : Nat) (x : Eht) : (s.setEht e x).inboxes = s.inboxes := (rfl)
@[simp] theorem State.setEht_ctxs (s : State) (e : Nat) (x : Eht) : (s.setEht e x).ctxs = s.ctxs := (rfl)
@[simp] theorem State.setEht_ringPass (s : State) (e : Nat) (x : Eht) : (s.setEht e x).ringPass = s.ringPass := (rfl)
@[simp] theorem State.setEht_plans (s : State) (e : Nat) (x : Eht) : (s.setEht e x).plans = s.plans := (rfl)
@[simp] theorem State.setEht_planFp (s : State) (e : Nat) (x : Eht) : (s.setEht e x).planFp = s.planFp := (rfl)
@[simp] theorem State.setEht_groups (s : State) (e : Nat) (x : Eht) : (s.setEht e x).groups = s.groups := (rfl)
@[simp] theorem State.setEht_wmInbox (s : State) (e : Nat) (x : Eht) : (s.setEht e x).wmInbox = s.wmInbox := (rfl)
@[simp] theorem State.setEht_sets (s : State) (e : Nat) (x : Eht) : (s.setEht e x).sets = s.sets := (rfl)
@[simp] theorem State.setEht_expOpen (s : State) (e : Nat) (x : Eht) : (s.setEht e x).expOpen = s.expOpen := (rfl)
@[simp] theorem State.setEht_expIn (s : State) (e : Nat) (x : Eht) : (s.setEht e x).expIn = s.expIn := (rfl)
@[simp] theorem State.setEht_expWait (s : State) (e : Nat) (x : Eht) : (s.setEht e x).expWait = s.expWait := (rfl)
@[simp] theorem State.setEht_atomics (s : State) (e : Nat) (x : Eht) : (s.setEht e x).atomics = s.atomics := (rfl)
@[simp] theorem State.setEht_owners (s : State) (e : Nat) (x : Eht) : (s.setEht e x).owners = s.owners := (rfl)
@[simp] theorem State.setEht_bufs (s : State) (e : Nat) (x : Eht) : (s.setEht e x).bufs = s.bufs := (rfl)
@[simp] theorem State.setEht_pools (s : State) (e : Nat) (x : Eht) : (s.setEht e x).pools = s.pools := (rfl)
@[simp] theorem State.setEht_waiters (s : State) (e : Nat) (x : Eht) : (s.setEht e x).waiters = s.waiters := (rfl)
@[simp] theorem State.setEht_grants (s : State) (e : Nat) (x : Eht) : (s.setEht e x).grants = s.grants := (rfl)
@[simp] theorem State.setEht_rowErrs (s : State) (e : Nat) (x : Eht) : (s.setEht e x).rowErrs = s.rowErrs := (rfl)
@[simp] theorem State.setEht_pageErrs (s : State) (e : Nat) (x : Eht) : (s.setEht e x).pageErrs = s.pageErrs := (rfl)
@[simp] theorem State.setEht_pageHeld (s : State) (e : Nat) (x : Eht) : (s.setEht e x).pageHeld = s.pageHeld := (rfl)
@[simp] theorem State.setEht_pages (s : State) (e : Nat) (x : Eht) : (s.setEht e x).pages = s.pages := (rfl)
@[simp] theorem State.setEht_sparedRows (s : State) (e : Nat) (x : Eht) : (s.setEht e x).sparedRows = s.sparedRows := (rfl)
@[simp] theorem State.setEht_patrolAt (s : State) (e : Nat) (x : Eht) : (s.setEht e x).patrolAt = s.patrolAt := (rfl)
@[simp] theorem State.setEht_sramAt (s : State) (e : Nat) (x : Eht) : (s.setEht e x).sramAt = s.sramAt := (rfl)
@[simp] theorem State.setEht_selfRefresh (s : State) (e : Nat) (x : Eht) : (s.setEht e x).selfRefresh = s.selfRefresh := (rfl)
@[simp] theorem State.setEht_refreshing (s : State) (e : Nat) (x : Eht) : (s.setEht e x).refreshing = s.refreshing := (rfl)
@[simp] theorem State.setEht_sessions (s : State) (e : Nat) (x : Eht) : (s.setEht e x).sessions = s.sessions := (rfl)
@[simp] theorem State.setEht_hpActive (s : State) (e : Nat) (x : Eht) : (s.setEht e x).hpActive = s.hpActive := (rfl)
@[simp] theorem State.setEht_hpApply (s : State) (e : Nat) (x : Eht) : (s.setEht e x).hpApply = s.hpApply := (rfl)
@[simp] theorem State.setEht_hostLink (s : State) (e : Nat) (x : Eht) : (s.setEht e x).hostLink = s.hostLink := (rfl)
@[simp] theorem State.setEht_zctWait (s : State) (e : Nat) (x : Eht) : (s.setEht e x).zctWait = s.zctWait := (rfl)
@[simp] theorem State.setEht_flash (s : State) (e : Nat) (x : Eht) : (s.setEht e x).flash = s.flash := (rfl)
@[simp] theorem State.setEht_bootSlots (s : State) (e : Nat) (x : Eht) : (s.setEht e x).bootSlots = s.bootSlots := (rfl)
@[simp] theorem State.setEht_cert (s : State) (e : Nat) (x : Eht) : (s.setEht e x).cert = s.cert := (rfl)
@[simp] theorem State.setEht_jorou (s : State) (e : Nat) (x : Eht) : (s.setEht e x).jorou = s.jorou := (rfl)
@[simp] theorem State.setEht_wear (s : State) (e : Nat) (x : Eht) : (s.setEht e x).wear = s.wear := (rfl)
@[simp] theorem State.setEht_ledger (s : State) (e : Nat) (x : Eht) : (s.setEht e x).ledger = s.ledger := (rfl)
@[simp] theorem State.setEht_resetOp (s : State) (e : Nat) (x : Eht) : (s.setEht e x).reset? = s.reset? := (rfl)
@[simp] theorem State.setEht_resetQ (s : State) (e : Nat) (x : Eht) : (s.setEht e x).resetQ = s.resetQ := (rfl)
@[simp] theorem State.setEht_resetsDone (s : State) (e : Nat) (x : Eht) : (s.setEht e x).resetsDone = s.resetsDone := (rfl)
@[simp] theorem State.setEht_captures (s : State) (e : Nat) (x : Eht) : (s.setEht e x).captures = s.captures := (rfl)
@[simp] theorem State.setEht_capture (s : State) (e : Nat) (x : Eht) : (s.setEht e x).capture = s.capture := (rfl)
@[simp] theorem State.setEht_capQ (s : State) (e : Nat) (x : Eht) : (s.setEht e x).capQ = s.capQ := (rfl)
@[simp] theorem State.setEht_scan (s : State) (e : Nat) (x : Eht) : (s.setEht e x).scan = s.scan := (rfl)
@[simp] theorem State.setEht_hangs (s : State) (e : Nat) (x : Eht) : (s.setEht e x).hangs = s.hangs := (rfl)
@[simp] theorem State.setEht_stalls (s : State) (e : Nat) (x : Eht) : (s.setEht e x).stalls = s.stalls := (rfl)
@[simp] theorem State.setEht_power (s : State) (e : Nat) (x : Eht) : (s.setEht e x).power = s.power := (rfl)
@[simp] theorem State.setEht_wb (s : State) (e : Nat) (x : Eht) : (s.setEht e x).wb = s.wb := (rfl)

/-! ### setPool -/

@[simp] theorem State.setPool_pending (s : State) (k : Nat) (x : Pool) : (s.setPool k x).pending = s.pending := (rfl)
@[simp] theorem State.setPool_cycle (s : State) (k : Nat) (x : Pool) : (s.setPool k x).cycle = s.cycle := (rfl)
@[simp] theorem State.setPool_grade (s : State) (k : Nat) (x : Pool) : (s.setPool k x).grade = s.grade := (rfl)
@[simp] theorem State.setPool_freeCtr (s : State) (k : Nat) (x : Pool) : (s.setPool k x).freeCtr = s.freeCtr := (rfl)
@[simp] theorem State.setPool_out (s : State) (k : Nat) (x : Pool) : (s.setPool k x).out = s.out := (rfl)
@[simp] theorem State.setPool_mem (s : State) (k : Nat) (x : Pool) : (s.setPool k x).mem = s.mem := (rfl)
@[simp] theorem State.setPool_poison (s : State) (k : Nat) (x : Pool) : (s.setPool k x).poison = s.poison := (rfl)
@[simp] theorem State.setPool_regs (s : State) (k : Nat) (x : Pool) : (s.setPool k x).regs = s.regs := (rfl)
@[simp] theorem State.setPool_ports (s : State) (k : Nat) (x : Pool) : (s.setPool k x).ports = s.ports := (rfl)
@[simp] theorem State.setPool_laneMap (s : State) (k : Nat) (x : Pool) : (s.setPool k x).laneMap = s.laneMap := (rfl)
@[simp] theorem State.setPool_mapFixed (s : State) (k : Nat) (x : Pool) : (s.setPool k x).mapFixed = s.mapFixed := (rfl)
@[simp] theorem State.setPool_slots (s : State) (k : Nat) (x : Pool) : (s.setPool k x).slots = s.slots := (rfl)
@[simp] theorem State.setPool_queues (s : State) (k : Nat) (x : Pool) : (s.setPool k x).queues = s.queues := (rfl)
@[simp] theorem State.setPool_xin (s : State) (k : Nat) (x : Pool) : (s.setPool k x).xin = s.xin := (rfl)
@[simp] theorem State.setPool_xinLast (s : State) (k : Nat) (x : Pool) : (s.setPool k x).xinLast = s.xinLast := (rfl)
@[simp] theorem State.setPool_heldCells (s : State) (k : Nat) (x : Pool) : (s.setPool k x).heldCells = s.heldCells := (rfl)
@[simp] theorem State.setPool_retiredSlots (s : State) (k : Nat) (x : Pool) : (s.setPool k x).retiredSlots = s.retiredSlots := (rfl)
@[simp] theorem State.setPool_floor (s : State) (k : Nat) (x : Pool) : (s.setPool k x).floor = s.floor := (rfl)
@[simp] theorem State.setPool_mirrors (s : State) (k : Nat) (x : Pool) : (s.setPool k x).mirrors = s.mirrors := (rfl)
@[simp] theorem State.setPool_mirrorMade (s : State) (k : Nat) (x : Pool) : (s.setPool k x).mirrorMade = s.mirrorMade := (rfl)
@[simp] theorem State.setPool_sampleNext (s : State) (k : Nat) (x : Pool) : (s.setPool k x).sampleNext = s.sampleNext := (rfl)
@[simp] theorem State.setPool_sampleRead (s : State) (k : Nat) (x : Pool) : (s.setPool k x).sampleRead = s.sampleRead := (rfl)
@[simp] theorem State.setPool_smpStart (s : State) (k : Nat) (x : Pool) : (s.setPool k x).smpStart = s.smpStart := (rfl)
@[simp] theorem State.setPool_fails (s : State) (k : Nat) (x : Pool) : (s.setPool k x).fails = s.fails := (rfl)
@[simp] theorem State.setPool_echoes (s : State) (k : Nat) (x : Pool) : (s.setPool k x).echoes = s.echoes := (rfl)
@[simp] theorem State.setPool_echoGaps (s : State) (k : Nat) (x : Pool) : (s.setPool k x).echoGaps = s.echoGaps := (rfl)
@[simp] theorem State.setPool_noReturn (s : State) (k : Nat) (x : Pool) : (s.setPool k x).noReturn = s.noReturn := (rfl)
@[simp] theorem State.setPool_tiles (s : State) (k : Nat) (x : Pool) : (s.setPool k x).tiles = s.tiles := (rfl)
@[simp] theorem State.setPool_tileMap (s : State) (k : Nat) (x : Pool) : (s.setPool k x).tileMap = s.tileMap := (rfl)
@[simp] theorem State.setPool_failedTiles (s : State) (k : Nat) (x : Pool) : (s.setPool k x).failedTiles = s.failedTiles := (rfl)
@[simp] theorem State.setPool_candidates (s : State) (k : Nat) (x : Pool) : (s.setPool k x).candidates = s.candidates := (rfl)
@[simp] theorem State.setPool_inboxes (s : State) (k : Nat) (x : Pool) : (s.setPool k x).inboxes = s.inboxes := (rfl)
@[simp] theorem State.setPool_ctxs (s : State) (k : Nat) (x : Pool) : (s.setPool k x).ctxs = s.ctxs := (rfl)
@[simp] theorem State.setPool_ringPass (s : State) (k : Nat) (x : Pool) : (s.setPool k x).ringPass = s.ringPass := (rfl)
@[simp] theorem State.setPool_plans (s : State) (k : Nat) (x : Pool) : (s.setPool k x).plans = s.plans := (rfl)
@[simp] theorem State.setPool_planFp (s : State) (k : Nat) (x : Pool) : (s.setPool k x).planFp = s.planFp := (rfl)
@[simp] theorem State.setPool_groups (s : State) (k : Nat) (x : Pool) : (s.setPool k x).groups = s.groups := (rfl)
@[simp] theorem State.setPool_wmInbox (s : State) (k : Nat) (x : Pool) : (s.setPool k x).wmInbox = s.wmInbox := (rfl)
@[simp] theorem State.setPool_sets (s : State) (k : Nat) (x : Pool) : (s.setPool k x).sets = s.sets := (rfl)
@[simp] theorem State.setPool_ehts (s : State) (k : Nat) (x : Pool) : (s.setPool k x).ehts = s.ehts := (rfl)
@[simp] theorem State.setPool_expOpen (s : State) (k : Nat) (x : Pool) : (s.setPool k x).expOpen = s.expOpen := (rfl)
@[simp] theorem State.setPool_expIn (s : State) (k : Nat) (x : Pool) : (s.setPool k x).expIn = s.expIn := (rfl)
@[simp] theorem State.setPool_expWait (s : State) (k : Nat) (x : Pool) : (s.setPool k x).expWait = s.expWait := (rfl)
@[simp] theorem State.setPool_atomics (s : State) (k : Nat) (x : Pool) : (s.setPool k x).atomics = s.atomics := (rfl)
@[simp] theorem State.setPool_owners (s : State) (k : Nat) (x : Pool) : (s.setPool k x).owners = s.owners := (rfl)
@[simp] theorem State.setPool_bufs (s : State) (k : Nat) (x : Pool) : (s.setPool k x).bufs = s.bufs := (rfl)
@[simp] theorem State.setPool_waiters (s : State) (k : Nat) (x : Pool) : (s.setPool k x).waiters = s.waiters := (rfl)
@[simp] theorem State.setPool_grants (s : State) (k : Nat) (x : Pool) : (s.setPool k x).grants = s.grants := (rfl)
@[simp] theorem State.setPool_rowErrs (s : State) (k : Nat) (x : Pool) : (s.setPool k x).rowErrs = s.rowErrs := (rfl)
@[simp] theorem State.setPool_pageErrs (s : State) (k : Nat) (x : Pool) : (s.setPool k x).pageErrs = s.pageErrs := (rfl)
@[simp] theorem State.setPool_pageHeld (s : State) (k : Nat) (x : Pool) : (s.setPool k x).pageHeld = s.pageHeld := (rfl)
@[simp] theorem State.setPool_pages (s : State) (k : Nat) (x : Pool) : (s.setPool k x).pages = s.pages := (rfl)
@[simp] theorem State.setPool_sparedRows (s : State) (k : Nat) (x : Pool) : (s.setPool k x).sparedRows = s.sparedRows := (rfl)
@[simp] theorem State.setPool_patrolAt (s : State) (k : Nat) (x : Pool) : (s.setPool k x).patrolAt = s.patrolAt := (rfl)
@[simp] theorem State.setPool_sramAt (s : State) (k : Nat) (x : Pool) : (s.setPool k x).sramAt = s.sramAt := (rfl)
@[simp] theorem State.setPool_selfRefresh (s : State) (k : Nat) (x : Pool) : (s.setPool k x).selfRefresh = s.selfRefresh := (rfl)
@[simp] theorem State.setPool_refreshing (s : State) (k : Nat) (x : Pool) : (s.setPool k x).refreshing = s.refreshing := (rfl)
@[simp] theorem State.setPool_sessions (s : State) (k : Nat) (x : Pool) : (s.setPool k x).sessions = s.sessions := (rfl)
@[simp] theorem State.setPool_hpActive (s : State) (k : Nat) (x : Pool) : (s.setPool k x).hpActive = s.hpActive := (rfl)
@[simp] theorem State.setPool_hpApply (s : State) (k : Nat) (x : Pool) : (s.setPool k x).hpApply = s.hpApply := (rfl)
@[simp] theorem State.setPool_hostLink (s : State) (k : Nat) (x : Pool) : (s.setPool k x).hostLink = s.hostLink := (rfl)
@[simp] theorem State.setPool_zctWait (s : State) (k : Nat) (x : Pool) : (s.setPool k x).zctWait = s.zctWait := (rfl)
@[simp] theorem State.setPool_flash (s : State) (k : Nat) (x : Pool) : (s.setPool k x).flash = s.flash := (rfl)
@[simp] theorem State.setPool_bootSlots (s : State) (k : Nat) (x : Pool) : (s.setPool k x).bootSlots = s.bootSlots := (rfl)
@[simp] theorem State.setPool_cert (s : State) (k : Nat) (x : Pool) : (s.setPool k x).cert = s.cert := (rfl)
@[simp] theorem State.setPool_jorou (s : State) (k : Nat) (x : Pool) : (s.setPool k x).jorou = s.jorou := (rfl)
@[simp] theorem State.setPool_wear (s : State) (k : Nat) (x : Pool) : (s.setPool k x).wear = s.wear := (rfl)
@[simp] theorem State.setPool_ledger (s : State) (k : Nat) (x : Pool) : (s.setPool k x).ledger = s.ledger := (rfl)
@[simp] theorem State.setPool_resetOp (s : State) (k : Nat) (x : Pool) : (s.setPool k x).reset? = s.reset? := (rfl)
@[simp] theorem State.setPool_resetQ (s : State) (k : Nat) (x : Pool) : (s.setPool k x).resetQ = s.resetQ := (rfl)
@[simp] theorem State.setPool_resetsDone (s : State) (k : Nat) (x : Pool) : (s.setPool k x).resetsDone = s.resetsDone := (rfl)
@[simp] theorem State.setPool_captures (s : State) (k : Nat) (x : Pool) : (s.setPool k x).captures = s.captures := (rfl)
@[simp] theorem State.setPool_capture (s : State) (k : Nat) (x : Pool) : (s.setPool k x).capture = s.capture := (rfl)
@[simp] theorem State.setPool_capQ (s : State) (k : Nat) (x : Pool) : (s.setPool k x).capQ = s.capQ := (rfl)
@[simp] theorem State.setPool_scan (s : State) (k : Nat) (x : Pool) : (s.setPool k x).scan = s.scan := (rfl)
@[simp] theorem State.setPool_hangs (s : State) (k : Nat) (x : Pool) : (s.setPool k x).hangs = s.hangs := (rfl)
@[simp] theorem State.setPool_stalls (s : State) (k : Nat) (x : Pool) : (s.setPool k x).stalls = s.stalls := (rfl)
@[simp] theorem State.setPool_power (s : State) (k : Nat) (x : Pool) : (s.setPool k x).power = s.power := (rfl)
@[simp] theorem State.setPool_wb (s : State) (k : Nat) (x : Pool) : (s.setPool k x).wb = s.wb := (rfl)

/-! ### setQueue -/

@[simp] theorem State.setQueue_pending (s : State) (q : Nat) (l : List QEntry) : (s.setQueue q l).pending = s.pending := (rfl)
@[simp] theorem State.setQueue_cycle (s : State) (q : Nat) (l : List QEntry) : (s.setQueue q l).cycle = s.cycle := (rfl)
@[simp] theorem State.setQueue_grade (s : State) (q : Nat) (l : List QEntry) : (s.setQueue q l).grade = s.grade := (rfl)
@[simp] theorem State.setQueue_freeCtr (s : State) (q : Nat) (l : List QEntry) : (s.setQueue q l).freeCtr = s.freeCtr := (rfl)
@[simp] theorem State.setQueue_out (s : State) (q : Nat) (l : List QEntry) : (s.setQueue q l).out = s.out := (rfl)
@[simp] theorem State.setQueue_mem (s : State) (q : Nat) (l : List QEntry) : (s.setQueue q l).mem = s.mem := (rfl)
@[simp] theorem State.setQueue_poison (s : State) (q : Nat) (l : List QEntry) : (s.setQueue q l).poison = s.poison := (rfl)
@[simp] theorem State.setQueue_regs (s : State) (q : Nat) (l : List QEntry) : (s.setQueue q l).regs = s.regs := (rfl)
@[simp] theorem State.setQueue_ports (s : State) (q : Nat) (l : List QEntry) : (s.setQueue q l).ports = s.ports := (rfl)
@[simp] theorem State.setQueue_laneMap (s : State) (q : Nat) (l : List QEntry) : (s.setQueue q l).laneMap = s.laneMap := (rfl)
@[simp] theorem State.setQueue_mapFixed (s : State) (q : Nat) (l : List QEntry) : (s.setQueue q l).mapFixed = s.mapFixed := (rfl)
@[simp] theorem State.setQueue_slots (s : State) (q : Nat) (l : List QEntry) : (s.setQueue q l).slots = s.slots := (rfl)
@[simp] theorem State.setQueue_xin (s : State) (q : Nat) (l : List QEntry) : (s.setQueue q l).xin = s.xin := (rfl)
@[simp] theorem State.setQueue_xinLast (s : State) (q : Nat) (l : List QEntry) : (s.setQueue q l).xinLast = s.xinLast := (rfl)
@[simp] theorem State.setQueue_heldCells (s : State) (q : Nat) (l : List QEntry) : (s.setQueue q l).heldCells = s.heldCells := (rfl)
@[simp] theorem State.setQueue_retiredSlots (s : State) (q : Nat) (l : List QEntry) : (s.setQueue q l).retiredSlots = s.retiredSlots := (rfl)
@[simp] theorem State.setQueue_floor (s : State) (q : Nat) (l : List QEntry) : (s.setQueue q l).floor = s.floor := (rfl)
@[simp] theorem State.setQueue_mirrors (s : State) (q : Nat) (l : List QEntry) : (s.setQueue q l).mirrors = s.mirrors := (rfl)
@[simp] theorem State.setQueue_mirrorMade (s : State) (q : Nat) (l : List QEntry) : (s.setQueue q l).mirrorMade = s.mirrorMade := (rfl)
@[simp] theorem State.setQueue_sampleNext (s : State) (q : Nat) (l : List QEntry) : (s.setQueue q l).sampleNext = s.sampleNext := (rfl)
@[simp] theorem State.setQueue_sampleRead (s : State) (q : Nat) (l : List QEntry) : (s.setQueue q l).sampleRead = s.sampleRead := (rfl)
@[simp] theorem State.setQueue_smpStart (s : State) (q : Nat) (l : List QEntry) : (s.setQueue q l).smpStart = s.smpStart := (rfl)
@[simp] theorem State.setQueue_fails (s : State) (q : Nat) (l : List QEntry) : (s.setQueue q l).fails = s.fails := (rfl)
@[simp] theorem State.setQueue_echoes (s : State) (q : Nat) (l : List QEntry) : (s.setQueue q l).echoes = s.echoes := (rfl)
@[simp] theorem State.setQueue_echoGaps (s : State) (q : Nat) (l : List QEntry) : (s.setQueue q l).echoGaps = s.echoGaps := (rfl)
@[simp] theorem State.setQueue_noReturn (s : State) (q : Nat) (l : List QEntry) : (s.setQueue q l).noReturn = s.noReturn := (rfl)
@[simp] theorem State.setQueue_tiles (s : State) (q : Nat) (l : List QEntry) : (s.setQueue q l).tiles = s.tiles := (rfl)
@[simp] theorem State.setQueue_tileMap (s : State) (q : Nat) (l : List QEntry) : (s.setQueue q l).tileMap = s.tileMap := (rfl)
@[simp] theorem State.setQueue_failedTiles (s : State) (q : Nat) (l : List QEntry) : (s.setQueue q l).failedTiles = s.failedTiles := (rfl)
@[simp] theorem State.setQueue_candidates (s : State) (q : Nat) (l : List QEntry) : (s.setQueue q l).candidates = s.candidates := (rfl)
@[simp] theorem State.setQueue_inboxes (s : State) (q : Nat) (l : List QEntry) : (s.setQueue q l).inboxes = s.inboxes := (rfl)
@[simp] theorem State.setQueue_ctxs (s : State) (q : Nat) (l : List QEntry) : (s.setQueue q l).ctxs = s.ctxs := (rfl)
@[simp] theorem State.setQueue_ringPass (s : State) (q : Nat) (l : List QEntry) : (s.setQueue q l).ringPass = s.ringPass := (rfl)
@[simp] theorem State.setQueue_plans (s : State) (q : Nat) (l : List QEntry) : (s.setQueue q l).plans = s.plans := (rfl)
@[simp] theorem State.setQueue_planFp (s : State) (q : Nat) (l : List QEntry) : (s.setQueue q l).planFp = s.planFp := (rfl)
@[simp] theorem State.setQueue_groups (s : State) (q : Nat) (l : List QEntry) : (s.setQueue q l).groups = s.groups := (rfl)
@[simp] theorem State.setQueue_wmInbox (s : State) (q : Nat) (l : List QEntry) : (s.setQueue q l).wmInbox = s.wmInbox := (rfl)
@[simp] theorem State.setQueue_sets (s : State) (q : Nat) (l : List QEntry) : (s.setQueue q l).sets = s.sets := (rfl)
@[simp] theorem State.setQueue_ehts (s : State) (q : Nat) (l : List QEntry) : (s.setQueue q l).ehts = s.ehts := (rfl)
@[simp] theorem State.setQueue_expOpen (s : State) (q : Nat) (l : List QEntry) : (s.setQueue q l).expOpen = s.expOpen := (rfl)
@[simp] theorem State.setQueue_expIn (s : State) (q : Nat) (l : List QEntry) : (s.setQueue q l).expIn = s.expIn := (rfl)
@[simp] theorem State.setQueue_expWait (s : State) (q : Nat) (l : List QEntry) : (s.setQueue q l).expWait = s.expWait := (rfl)
@[simp] theorem State.setQueue_atomics (s : State) (q : Nat) (l : List QEntry) : (s.setQueue q l).atomics = s.atomics := (rfl)
@[simp] theorem State.setQueue_owners (s : State) (q : Nat) (l : List QEntry) : (s.setQueue q l).owners = s.owners := (rfl)
@[simp] theorem State.setQueue_bufs (s : State) (q : Nat) (l : List QEntry) : (s.setQueue q l).bufs = s.bufs := (rfl)
@[simp] theorem State.setQueue_pools (s : State) (q : Nat) (l : List QEntry) : (s.setQueue q l).pools = s.pools := (rfl)
@[simp] theorem State.setQueue_waiters (s : State) (q : Nat) (l : List QEntry) : (s.setQueue q l).waiters = s.waiters := (rfl)
@[simp] theorem State.setQueue_grants (s : State) (q : Nat) (l : List QEntry) : (s.setQueue q l).grants = s.grants := (rfl)
@[simp] theorem State.setQueue_rowErrs (s : State) (q : Nat) (l : List QEntry) : (s.setQueue q l).rowErrs = s.rowErrs := (rfl)
@[simp] theorem State.setQueue_pageErrs (s : State) (q : Nat) (l : List QEntry) : (s.setQueue q l).pageErrs = s.pageErrs := (rfl)
@[simp] theorem State.setQueue_pageHeld (s : State) (q : Nat) (l : List QEntry) : (s.setQueue q l).pageHeld = s.pageHeld := (rfl)
@[simp] theorem State.setQueue_pages (s : State) (q : Nat) (l : List QEntry) : (s.setQueue q l).pages = s.pages := (rfl)
@[simp] theorem State.setQueue_sparedRows (s : State) (q : Nat) (l : List QEntry) : (s.setQueue q l).sparedRows = s.sparedRows := (rfl)
@[simp] theorem State.setQueue_patrolAt (s : State) (q : Nat) (l : List QEntry) : (s.setQueue q l).patrolAt = s.patrolAt := (rfl)
@[simp] theorem State.setQueue_sramAt (s : State) (q : Nat) (l : List QEntry) : (s.setQueue q l).sramAt = s.sramAt := (rfl)
@[simp] theorem State.setQueue_selfRefresh (s : State) (q : Nat) (l : List QEntry) : (s.setQueue q l).selfRefresh = s.selfRefresh := (rfl)
@[simp] theorem State.setQueue_refreshing (s : State) (q : Nat) (l : List QEntry) : (s.setQueue q l).refreshing = s.refreshing := (rfl)
@[simp] theorem State.setQueue_sessions (s : State) (q : Nat) (l : List QEntry) : (s.setQueue q l).sessions = s.sessions := (rfl)
@[simp] theorem State.setQueue_hpActive (s : State) (q : Nat) (l : List QEntry) : (s.setQueue q l).hpActive = s.hpActive := (rfl)
@[simp] theorem State.setQueue_hpApply (s : State) (q : Nat) (l : List QEntry) : (s.setQueue q l).hpApply = s.hpApply := (rfl)
@[simp] theorem State.setQueue_hostLink (s : State) (q : Nat) (l : List QEntry) : (s.setQueue q l).hostLink = s.hostLink := (rfl)
@[simp] theorem State.setQueue_zctWait (s : State) (q : Nat) (l : List QEntry) : (s.setQueue q l).zctWait = s.zctWait := (rfl)
@[simp] theorem State.setQueue_flash (s : State) (q : Nat) (l : List QEntry) : (s.setQueue q l).flash = s.flash := (rfl)
@[simp] theorem State.setQueue_bootSlots (s : State) (q : Nat) (l : List QEntry) : (s.setQueue q l).bootSlots = s.bootSlots := (rfl)
@[simp] theorem State.setQueue_cert (s : State) (q : Nat) (l : List QEntry) : (s.setQueue q l).cert = s.cert := (rfl)
@[simp] theorem State.setQueue_jorou (s : State) (q : Nat) (l : List QEntry) : (s.setQueue q l).jorou = s.jorou := (rfl)
@[simp] theorem State.setQueue_wear (s : State) (q : Nat) (l : List QEntry) : (s.setQueue q l).wear = s.wear := (rfl)
@[simp] theorem State.setQueue_ledger (s : State) (q : Nat) (l : List QEntry) : (s.setQueue q l).ledger = s.ledger := (rfl)
@[simp] theorem State.setQueue_resetOp (s : State) (q : Nat) (l : List QEntry) : (s.setQueue q l).reset? = s.reset? := (rfl)
@[simp] theorem State.setQueue_resetQ (s : State) (q : Nat) (l : List QEntry) : (s.setQueue q l).resetQ = s.resetQ := (rfl)
@[simp] theorem State.setQueue_resetsDone (s : State) (q : Nat) (l : List QEntry) : (s.setQueue q l).resetsDone = s.resetsDone := (rfl)
@[simp] theorem State.setQueue_captures (s : State) (q : Nat) (l : List QEntry) : (s.setQueue q l).captures = s.captures := (rfl)
@[simp] theorem State.setQueue_capture (s : State) (q : Nat) (l : List QEntry) : (s.setQueue q l).capture = s.capture := (rfl)
@[simp] theorem State.setQueue_capQ (s : State) (q : Nat) (l : List QEntry) : (s.setQueue q l).capQ = s.capQ := (rfl)
@[simp] theorem State.setQueue_scan (s : State) (q : Nat) (l : List QEntry) : (s.setQueue q l).scan = s.scan := (rfl)
@[simp] theorem State.setQueue_hangs (s : State) (q : Nat) (l : List QEntry) : (s.setQueue q l).hangs = s.hangs := (rfl)
@[simp] theorem State.setQueue_stalls (s : State) (q : Nat) (l : List QEntry) : (s.setQueue q l).stalls = s.stalls := (rfl)
@[simp] theorem State.setQueue_power (s : State) (q : Nat) (l : List QEntry) : (s.setQueue q l).power = s.power := (rfl)
@[simp] theorem State.setQueue_wb (s : State) (q : Nat) (l : List QEntry) : (s.setQueue q l).wb = s.wb := (rfl)

/-! ### setInbox -/

@[simp] theorem State.setInbox_pending (s : State) (a : Nat) (l : List Item) : (s.setInbox a l).pending = s.pending := (rfl)
@[simp] theorem State.setInbox_cycle (s : State) (a : Nat) (l : List Item) : (s.setInbox a l).cycle = s.cycle := (rfl)
@[simp] theorem State.setInbox_grade (s : State) (a : Nat) (l : List Item) : (s.setInbox a l).grade = s.grade := (rfl)
@[simp] theorem State.setInbox_freeCtr (s : State) (a : Nat) (l : List Item) : (s.setInbox a l).freeCtr = s.freeCtr := (rfl)
@[simp] theorem State.setInbox_out (s : State) (a : Nat) (l : List Item) : (s.setInbox a l).out = s.out := (rfl)
@[simp] theorem State.setInbox_mem (s : State) (a : Nat) (l : List Item) : (s.setInbox a l).mem = s.mem := (rfl)
@[simp] theorem State.setInbox_poison (s : State) (a : Nat) (l : List Item) : (s.setInbox a l).poison = s.poison := (rfl)
@[simp] theorem State.setInbox_regs (s : State) (a : Nat) (l : List Item) : (s.setInbox a l).regs = s.regs := (rfl)
@[simp] theorem State.setInbox_ports (s : State) (a : Nat) (l : List Item) : (s.setInbox a l).ports = s.ports := (rfl)
@[simp] theorem State.setInbox_laneMap (s : State) (a : Nat) (l : List Item) : (s.setInbox a l).laneMap = s.laneMap := (rfl)
@[simp] theorem State.setInbox_mapFixed (s : State) (a : Nat) (l : List Item) : (s.setInbox a l).mapFixed = s.mapFixed := (rfl)
@[simp] theorem State.setInbox_slots (s : State) (a : Nat) (l : List Item) : (s.setInbox a l).slots = s.slots := (rfl)
@[simp] theorem State.setInbox_queues (s : State) (a : Nat) (l : List Item) : (s.setInbox a l).queues = s.queues := (rfl)
@[simp] theorem State.setInbox_xin (s : State) (a : Nat) (l : List Item) : (s.setInbox a l).xin = s.xin := (rfl)
@[simp] theorem State.setInbox_xinLast (s : State) (a : Nat) (l : List Item) : (s.setInbox a l).xinLast = s.xinLast := (rfl)
@[simp] theorem State.setInbox_heldCells (s : State) (a : Nat) (l : List Item) : (s.setInbox a l).heldCells = s.heldCells := (rfl)
@[simp] theorem State.setInbox_retiredSlots (s : State) (a : Nat) (l : List Item) : (s.setInbox a l).retiredSlots = s.retiredSlots := (rfl)
@[simp] theorem State.setInbox_floor (s : State) (a : Nat) (l : List Item) : (s.setInbox a l).floor = s.floor := (rfl)
@[simp] theorem State.setInbox_mirrors (s : State) (a : Nat) (l : List Item) : (s.setInbox a l).mirrors = s.mirrors := (rfl)
@[simp] theorem State.setInbox_mirrorMade (s : State) (a : Nat) (l : List Item) : (s.setInbox a l).mirrorMade = s.mirrorMade := (rfl)
@[simp] theorem State.setInbox_sampleNext (s : State) (a : Nat) (l : List Item) : (s.setInbox a l).sampleNext = s.sampleNext := (rfl)
@[simp] theorem State.setInbox_sampleRead (s : State) (a : Nat) (l : List Item) : (s.setInbox a l).sampleRead = s.sampleRead := (rfl)
@[simp] theorem State.setInbox_smpStart (s : State) (a : Nat) (l : List Item) : (s.setInbox a l).smpStart = s.smpStart := (rfl)
@[simp] theorem State.setInbox_fails (s : State) (a : Nat) (l : List Item) : (s.setInbox a l).fails = s.fails := (rfl)
@[simp] theorem State.setInbox_echoes (s : State) (a : Nat) (l : List Item) : (s.setInbox a l).echoes = s.echoes := (rfl)
@[simp] theorem State.setInbox_echoGaps (s : State) (a : Nat) (l : List Item) : (s.setInbox a l).echoGaps = s.echoGaps := (rfl)
@[simp] theorem State.setInbox_noReturn (s : State) (a : Nat) (l : List Item) : (s.setInbox a l).noReturn = s.noReturn := (rfl)
@[simp] theorem State.setInbox_tiles (s : State) (a : Nat) (l : List Item) : (s.setInbox a l).tiles = s.tiles := (rfl)
@[simp] theorem State.setInbox_tileMap (s : State) (a : Nat) (l : List Item) : (s.setInbox a l).tileMap = s.tileMap := (rfl)
@[simp] theorem State.setInbox_failedTiles (s : State) (a : Nat) (l : List Item) : (s.setInbox a l).failedTiles = s.failedTiles := (rfl)
@[simp] theorem State.setInbox_candidates (s : State) (a : Nat) (l : List Item) : (s.setInbox a l).candidates = s.candidates := (rfl)
@[simp] theorem State.setInbox_ctxs (s : State) (a : Nat) (l : List Item) : (s.setInbox a l).ctxs = s.ctxs := (rfl)
@[simp] theorem State.setInbox_ringPass (s : State) (a : Nat) (l : List Item) : (s.setInbox a l).ringPass = s.ringPass := (rfl)
@[simp] theorem State.setInbox_plans (s : State) (a : Nat) (l : List Item) : (s.setInbox a l).plans = s.plans := (rfl)
@[simp] theorem State.setInbox_planFp (s : State) (a : Nat) (l : List Item) : (s.setInbox a l).planFp = s.planFp := (rfl)
@[simp] theorem State.setInbox_groups (s : State) (a : Nat) (l : List Item) : (s.setInbox a l).groups = s.groups := (rfl)
@[simp] theorem State.setInbox_wmInbox (s : State) (a : Nat) (l : List Item) : (s.setInbox a l).wmInbox = s.wmInbox := (rfl)
@[simp] theorem State.setInbox_sets (s : State) (a : Nat) (l : List Item) : (s.setInbox a l).sets = s.sets := (rfl)
@[simp] theorem State.setInbox_ehts (s : State) (a : Nat) (l : List Item) : (s.setInbox a l).ehts = s.ehts := (rfl)
@[simp] theorem State.setInbox_expOpen (s : State) (a : Nat) (l : List Item) : (s.setInbox a l).expOpen = s.expOpen := (rfl)
@[simp] theorem State.setInbox_expIn (s : State) (a : Nat) (l : List Item) : (s.setInbox a l).expIn = s.expIn := (rfl)
@[simp] theorem State.setInbox_expWait (s : State) (a : Nat) (l : List Item) : (s.setInbox a l).expWait = s.expWait := (rfl)
@[simp] theorem State.setInbox_atomics (s : State) (a : Nat) (l : List Item) : (s.setInbox a l).atomics = s.atomics := (rfl)
@[simp] theorem State.setInbox_owners (s : State) (a : Nat) (l : List Item) : (s.setInbox a l).owners = s.owners := (rfl)
@[simp] theorem State.setInbox_bufs (s : State) (a : Nat) (l : List Item) : (s.setInbox a l).bufs = s.bufs := (rfl)
@[simp] theorem State.setInbox_pools (s : State) (a : Nat) (l : List Item) : (s.setInbox a l).pools = s.pools := (rfl)
@[simp] theorem State.setInbox_waiters (s : State) (a : Nat) (l : List Item) : (s.setInbox a l).waiters = s.waiters := (rfl)
@[simp] theorem State.setInbox_grants (s : State) (a : Nat) (l : List Item) : (s.setInbox a l).grants = s.grants := (rfl)
@[simp] theorem State.setInbox_rowErrs (s : State) (a : Nat) (l : List Item) : (s.setInbox a l).rowErrs = s.rowErrs := (rfl)
@[simp] theorem State.setInbox_pageErrs (s : State) (a : Nat) (l : List Item) : (s.setInbox a l).pageErrs = s.pageErrs := (rfl)
@[simp] theorem State.setInbox_pageHeld (s : State) (a : Nat) (l : List Item) : (s.setInbox a l).pageHeld = s.pageHeld := (rfl)
@[simp] theorem State.setInbox_pages (s : State) (a : Nat) (l : List Item) : (s.setInbox a l).pages = s.pages := (rfl)
@[simp] theorem State.setInbox_sparedRows (s : State) (a : Nat) (l : List Item) : (s.setInbox a l).sparedRows = s.sparedRows := (rfl)
@[simp] theorem State.setInbox_patrolAt (s : State) (a : Nat) (l : List Item) : (s.setInbox a l).patrolAt = s.patrolAt := (rfl)
@[simp] theorem State.setInbox_sramAt (s : State) (a : Nat) (l : List Item) : (s.setInbox a l).sramAt = s.sramAt := (rfl)
@[simp] theorem State.setInbox_selfRefresh (s : State) (a : Nat) (l : List Item) : (s.setInbox a l).selfRefresh = s.selfRefresh := (rfl)
@[simp] theorem State.setInbox_refreshing (s : State) (a : Nat) (l : List Item) : (s.setInbox a l).refreshing = s.refreshing := (rfl)
@[simp] theorem State.setInbox_sessions (s : State) (a : Nat) (l : List Item) : (s.setInbox a l).sessions = s.sessions := (rfl)
@[simp] theorem State.setInbox_hpActive (s : State) (a : Nat) (l : List Item) : (s.setInbox a l).hpActive = s.hpActive := (rfl)
@[simp] theorem State.setInbox_hpApply (s : State) (a : Nat) (l : List Item) : (s.setInbox a l).hpApply = s.hpApply := (rfl)
@[simp] theorem State.setInbox_hostLink (s : State) (a : Nat) (l : List Item) : (s.setInbox a l).hostLink = s.hostLink := (rfl)
@[simp] theorem State.setInbox_zctWait (s : State) (a : Nat) (l : List Item) : (s.setInbox a l).zctWait = s.zctWait := (rfl)
@[simp] theorem State.setInbox_flash (s : State) (a : Nat) (l : List Item) : (s.setInbox a l).flash = s.flash := (rfl)
@[simp] theorem State.setInbox_bootSlots (s : State) (a : Nat) (l : List Item) : (s.setInbox a l).bootSlots = s.bootSlots := (rfl)
@[simp] theorem State.setInbox_cert (s : State) (a : Nat) (l : List Item) : (s.setInbox a l).cert = s.cert := (rfl)
@[simp] theorem State.setInbox_jorou (s : State) (a : Nat) (l : List Item) : (s.setInbox a l).jorou = s.jorou := (rfl)
@[simp] theorem State.setInbox_wear (s : State) (a : Nat) (l : List Item) : (s.setInbox a l).wear = s.wear := (rfl)
@[simp] theorem State.setInbox_ledger (s : State) (a : Nat) (l : List Item) : (s.setInbox a l).ledger = s.ledger := (rfl)
@[simp] theorem State.setInbox_resetOp (s : State) (a : Nat) (l : List Item) : (s.setInbox a l).reset? = s.reset? := (rfl)
@[simp] theorem State.setInbox_resetQ (s : State) (a : Nat) (l : List Item) : (s.setInbox a l).resetQ = s.resetQ := (rfl)
@[simp] theorem State.setInbox_resetsDone (s : State) (a : Nat) (l : List Item) : (s.setInbox a l).resetsDone = s.resetsDone := (rfl)
@[simp] theorem State.setInbox_captures (s : State) (a : Nat) (l : List Item) : (s.setInbox a l).captures = s.captures := (rfl)
@[simp] theorem State.setInbox_capture (s : State) (a : Nat) (l : List Item) : (s.setInbox a l).capture = s.capture := (rfl)
@[simp] theorem State.setInbox_capQ (s : State) (a : Nat) (l : List Item) : (s.setInbox a l).capQ = s.capQ := (rfl)
@[simp] theorem State.setInbox_scan (s : State) (a : Nat) (l : List Item) : (s.setInbox a l).scan = s.scan := (rfl)
@[simp] theorem State.setInbox_hangs (s : State) (a : Nat) (l : List Item) : (s.setInbox a l).hangs = s.hangs := (rfl)
@[simp] theorem State.setInbox_stalls (s : State) (a : Nat) (l : List Item) : (s.setInbox a l).stalls = s.stalls := (rfl)
@[simp] theorem State.setInbox_power (s : State) (a : Nat) (l : List Item) : (s.setInbox a l).power = s.power := (rfl)
@[simp] theorem State.setInbox_wb (s : State) (a : Nat) (l : List Item) : (s.setInbox a l).wb = s.wb := (rfl)

/-! ### setMirror -/

@[simp] theorem State.setMirror_pending (s : State) (m : Nat) (x : Mirror) : (s.setMirror m x).pending = s.pending := (rfl)
@[simp] theorem State.setMirror_cycle (s : State) (m : Nat) (x : Mirror) : (s.setMirror m x).cycle = s.cycle := (rfl)
@[simp] theorem State.setMirror_grade (s : State) (m : Nat) (x : Mirror) : (s.setMirror m x).grade = s.grade := (rfl)
@[simp] theorem State.setMirror_freeCtr (s : State) (m : Nat) (x : Mirror) : (s.setMirror m x).freeCtr = s.freeCtr := (rfl)
@[simp] theorem State.setMirror_out (s : State) (m : Nat) (x : Mirror) : (s.setMirror m x).out = s.out := (rfl)
@[simp] theorem State.setMirror_mem (s : State) (m : Nat) (x : Mirror) : (s.setMirror m x).mem = s.mem := (rfl)
@[simp] theorem State.setMirror_poison (s : State) (m : Nat) (x : Mirror) : (s.setMirror m x).poison = s.poison := (rfl)
@[simp] theorem State.setMirror_regs (s : State) (m : Nat) (x : Mirror) : (s.setMirror m x).regs = s.regs := (rfl)
@[simp] theorem State.setMirror_ports (s : State) (m : Nat) (x : Mirror) : (s.setMirror m x).ports = s.ports := (rfl)
@[simp] theorem State.setMirror_laneMap (s : State) (m : Nat) (x : Mirror) : (s.setMirror m x).laneMap = s.laneMap := (rfl)
@[simp] theorem State.setMirror_mapFixed (s : State) (m : Nat) (x : Mirror) : (s.setMirror m x).mapFixed = s.mapFixed := (rfl)
@[simp] theorem State.setMirror_slots (s : State) (m : Nat) (x : Mirror) : (s.setMirror m x).slots = s.slots := (rfl)
@[simp] theorem State.setMirror_queues (s : State) (m : Nat) (x : Mirror) : (s.setMirror m x).queues = s.queues := (rfl)
@[simp] theorem State.setMirror_xin (s : State) (m : Nat) (x : Mirror) : (s.setMirror m x).xin = s.xin := (rfl)
@[simp] theorem State.setMirror_xinLast (s : State) (m : Nat) (x : Mirror) : (s.setMirror m x).xinLast = s.xinLast := (rfl)
@[simp] theorem State.setMirror_heldCells (s : State) (m : Nat) (x : Mirror) : (s.setMirror m x).heldCells = s.heldCells := (rfl)
@[simp] theorem State.setMirror_retiredSlots (s : State) (m : Nat) (x : Mirror) : (s.setMirror m x).retiredSlots = s.retiredSlots := (rfl)
@[simp] theorem State.setMirror_floor (s : State) (m : Nat) (x : Mirror) : (s.setMirror m x).floor = s.floor := (rfl)
@[simp] theorem State.setMirror_mirrorMade (s : State) (m : Nat) (x : Mirror) : (s.setMirror m x).mirrorMade = s.mirrorMade := (rfl)
@[simp] theorem State.setMirror_sampleNext (s : State) (m : Nat) (x : Mirror) : (s.setMirror m x).sampleNext = s.sampleNext := (rfl)
@[simp] theorem State.setMirror_sampleRead (s : State) (m : Nat) (x : Mirror) : (s.setMirror m x).sampleRead = s.sampleRead := (rfl)
@[simp] theorem State.setMirror_smpStart (s : State) (m : Nat) (x : Mirror) : (s.setMirror m x).smpStart = s.smpStart := (rfl)
@[simp] theorem State.setMirror_fails (s : State) (m : Nat) (x : Mirror) : (s.setMirror m x).fails = s.fails := (rfl)
@[simp] theorem State.setMirror_echoes (s : State) (m : Nat) (x : Mirror) : (s.setMirror m x).echoes = s.echoes := (rfl)
@[simp] theorem State.setMirror_echoGaps (s : State) (m : Nat) (x : Mirror) : (s.setMirror m x).echoGaps = s.echoGaps := (rfl)
@[simp] theorem State.setMirror_noReturn (s : State) (m : Nat) (x : Mirror) : (s.setMirror m x).noReturn = s.noReturn := (rfl)
@[simp] theorem State.setMirror_tiles (s : State) (m : Nat) (x : Mirror) : (s.setMirror m x).tiles = s.tiles := (rfl)
@[simp] theorem State.setMirror_tileMap (s : State) (m : Nat) (x : Mirror) : (s.setMirror m x).tileMap = s.tileMap := (rfl)
@[simp] theorem State.setMirror_failedTiles (s : State) (m : Nat) (x : Mirror) : (s.setMirror m x).failedTiles = s.failedTiles := (rfl)
@[simp] theorem State.setMirror_candidates (s : State) (m : Nat) (x : Mirror) : (s.setMirror m x).candidates = s.candidates := (rfl)
@[simp] theorem State.setMirror_inboxes (s : State) (m : Nat) (x : Mirror) : (s.setMirror m x).inboxes = s.inboxes := (rfl)
@[simp] theorem State.setMirror_ctxs (s : State) (m : Nat) (x : Mirror) : (s.setMirror m x).ctxs = s.ctxs := (rfl)
@[simp] theorem State.setMirror_ringPass (s : State) (m : Nat) (x : Mirror) : (s.setMirror m x).ringPass = s.ringPass := (rfl)
@[simp] theorem State.setMirror_plans (s : State) (m : Nat) (x : Mirror) : (s.setMirror m x).plans = s.plans := (rfl)
@[simp] theorem State.setMirror_planFp (s : State) (m : Nat) (x : Mirror) : (s.setMirror m x).planFp = s.planFp := (rfl)
@[simp] theorem State.setMirror_groups (s : State) (m : Nat) (x : Mirror) : (s.setMirror m x).groups = s.groups := (rfl)
@[simp] theorem State.setMirror_wmInbox (s : State) (m : Nat) (x : Mirror) : (s.setMirror m x).wmInbox = s.wmInbox := (rfl)
@[simp] theorem State.setMirror_sets (s : State) (m : Nat) (x : Mirror) : (s.setMirror m x).sets = s.sets := (rfl)
@[simp] theorem State.setMirror_ehts (s : State) (m : Nat) (x : Mirror) : (s.setMirror m x).ehts = s.ehts := (rfl)
@[simp] theorem State.setMirror_expOpen (s : State) (m : Nat) (x : Mirror) : (s.setMirror m x).expOpen = s.expOpen := (rfl)
@[simp] theorem State.setMirror_expIn (s : State) (m : Nat) (x : Mirror) : (s.setMirror m x).expIn = s.expIn := (rfl)
@[simp] theorem State.setMirror_expWait (s : State) (m : Nat) (x : Mirror) : (s.setMirror m x).expWait = s.expWait := (rfl)
@[simp] theorem State.setMirror_atomics (s : State) (m : Nat) (x : Mirror) : (s.setMirror m x).atomics = s.atomics := (rfl)
@[simp] theorem State.setMirror_owners (s : State) (m : Nat) (x : Mirror) : (s.setMirror m x).owners = s.owners := (rfl)
@[simp] theorem State.setMirror_bufs (s : State) (m : Nat) (x : Mirror) : (s.setMirror m x).bufs = s.bufs := (rfl)
@[simp] theorem State.setMirror_pools (s : State) (m : Nat) (x : Mirror) : (s.setMirror m x).pools = s.pools := (rfl)
@[simp] theorem State.setMirror_waiters (s : State) (m : Nat) (x : Mirror) : (s.setMirror m x).waiters = s.waiters := (rfl)
@[simp] theorem State.setMirror_grants (s : State) (m : Nat) (x : Mirror) : (s.setMirror m x).grants = s.grants := (rfl)
@[simp] theorem State.setMirror_rowErrs (s : State) (m : Nat) (x : Mirror) : (s.setMirror m x).rowErrs = s.rowErrs := (rfl)
@[simp] theorem State.setMirror_pageErrs (s : State) (m : Nat) (x : Mirror) : (s.setMirror m x).pageErrs = s.pageErrs := (rfl)
@[simp] theorem State.setMirror_pageHeld (s : State) (m : Nat) (x : Mirror) : (s.setMirror m x).pageHeld = s.pageHeld := (rfl)
@[simp] theorem State.setMirror_pages (s : State) (m : Nat) (x : Mirror) : (s.setMirror m x).pages = s.pages := (rfl)
@[simp] theorem State.setMirror_sparedRows (s : State) (m : Nat) (x : Mirror) : (s.setMirror m x).sparedRows = s.sparedRows := (rfl)
@[simp] theorem State.setMirror_patrolAt (s : State) (m : Nat) (x : Mirror) : (s.setMirror m x).patrolAt = s.patrolAt := (rfl)
@[simp] theorem State.setMirror_sramAt (s : State) (m : Nat) (x : Mirror) : (s.setMirror m x).sramAt = s.sramAt := (rfl)
@[simp] theorem State.setMirror_selfRefresh (s : State) (m : Nat) (x : Mirror) : (s.setMirror m x).selfRefresh = s.selfRefresh := (rfl)
@[simp] theorem State.setMirror_refreshing (s : State) (m : Nat) (x : Mirror) : (s.setMirror m x).refreshing = s.refreshing := (rfl)
@[simp] theorem State.setMirror_sessions (s : State) (m : Nat) (x : Mirror) : (s.setMirror m x).sessions = s.sessions := (rfl)
@[simp] theorem State.setMirror_hpActive (s : State) (m : Nat) (x : Mirror) : (s.setMirror m x).hpActive = s.hpActive := (rfl)
@[simp] theorem State.setMirror_hpApply (s : State) (m : Nat) (x : Mirror) : (s.setMirror m x).hpApply = s.hpApply := (rfl)
@[simp] theorem State.setMirror_hostLink (s : State) (m : Nat) (x : Mirror) : (s.setMirror m x).hostLink = s.hostLink := (rfl)
@[simp] theorem State.setMirror_zctWait (s : State) (m : Nat) (x : Mirror) : (s.setMirror m x).zctWait = s.zctWait := (rfl)
@[simp] theorem State.setMirror_flash (s : State) (m : Nat) (x : Mirror) : (s.setMirror m x).flash = s.flash := (rfl)
@[simp] theorem State.setMirror_bootSlots (s : State) (m : Nat) (x : Mirror) : (s.setMirror m x).bootSlots = s.bootSlots := (rfl)
@[simp] theorem State.setMirror_cert (s : State) (m : Nat) (x : Mirror) : (s.setMirror m x).cert = s.cert := (rfl)
@[simp] theorem State.setMirror_jorou (s : State) (m : Nat) (x : Mirror) : (s.setMirror m x).jorou = s.jorou := (rfl)
@[simp] theorem State.setMirror_wear (s : State) (m : Nat) (x : Mirror) : (s.setMirror m x).wear = s.wear := (rfl)
@[simp] theorem State.setMirror_ledger (s : State) (m : Nat) (x : Mirror) : (s.setMirror m x).ledger = s.ledger := (rfl)
@[simp] theorem State.setMirror_resetOp (s : State) (m : Nat) (x : Mirror) : (s.setMirror m x).reset? = s.reset? := (rfl)
@[simp] theorem State.setMirror_resetQ (s : State) (m : Nat) (x : Mirror) : (s.setMirror m x).resetQ = s.resetQ := (rfl)
@[simp] theorem State.setMirror_resetsDone (s : State) (m : Nat) (x : Mirror) : (s.setMirror m x).resetsDone = s.resetsDone := (rfl)
@[simp] theorem State.setMirror_captures (s : State) (m : Nat) (x : Mirror) : (s.setMirror m x).captures = s.captures := (rfl)
@[simp] theorem State.setMirror_capture (s : State) (m : Nat) (x : Mirror) : (s.setMirror m x).capture = s.capture := (rfl)
@[simp] theorem State.setMirror_capQ (s : State) (m : Nat) (x : Mirror) : (s.setMirror m x).capQ = s.capQ := (rfl)
@[simp] theorem State.setMirror_scan (s : State) (m : Nat) (x : Mirror) : (s.setMirror m x).scan = s.scan := (rfl)
@[simp] theorem State.setMirror_hangs (s : State) (m : Nat) (x : Mirror) : (s.setMirror m x).hangs = s.hangs := (rfl)
@[simp] theorem State.setMirror_stalls (s : State) (m : Nat) (x : Mirror) : (s.setMirror m x).stalls = s.stalls := (rfl)
@[simp] theorem State.setMirror_power (s : State) (m : Nat) (x : Mirror) : (s.setMirror m x).power = s.power := (rfl)
@[simp] theorem State.setMirror_wb (s : State) (m : Nat) (x : Mirror) : (s.setMirror m x).wb = s.wb := (rfl)

/-! ### putSession -/

@[simp] theorem State.putSession_pending (s : State) (k : Nat) (x : Session) : (s.putSession k x).pending = s.pending := (rfl)
@[simp] theorem State.putSession_cycle (s : State) (k : Nat) (x : Session) : (s.putSession k x).cycle = s.cycle := (rfl)
@[simp] theorem State.putSession_grade (s : State) (k : Nat) (x : Session) : (s.putSession k x).grade = s.grade := (rfl)
@[simp] theorem State.putSession_freeCtr (s : State) (k : Nat) (x : Session) : (s.putSession k x).freeCtr = s.freeCtr := (rfl)
@[simp] theorem State.putSession_out (s : State) (k : Nat) (x : Session) : (s.putSession k x).out = s.out := (rfl)
@[simp] theorem State.putSession_mem (s : State) (k : Nat) (x : Session) : (s.putSession k x).mem = s.mem := (rfl)
@[simp] theorem State.putSession_poison (s : State) (k : Nat) (x : Session) : (s.putSession k x).poison = s.poison := (rfl)
@[simp] theorem State.putSession_regs (s : State) (k : Nat) (x : Session) : (s.putSession k x).regs = s.regs := (rfl)
@[simp] theorem State.putSession_ports (s : State) (k : Nat) (x : Session) : (s.putSession k x).ports = s.ports := (rfl)
@[simp] theorem State.putSession_laneMap (s : State) (k : Nat) (x : Session) : (s.putSession k x).laneMap = s.laneMap := (rfl)
@[simp] theorem State.putSession_mapFixed (s : State) (k : Nat) (x : Session) : (s.putSession k x).mapFixed = s.mapFixed := (rfl)
@[simp] theorem State.putSession_slots (s : State) (k : Nat) (x : Session) : (s.putSession k x).slots = s.slots := (rfl)
@[simp] theorem State.putSession_queues (s : State) (k : Nat) (x : Session) : (s.putSession k x).queues = s.queues := (rfl)
@[simp] theorem State.putSession_xin (s : State) (k : Nat) (x : Session) : (s.putSession k x).xin = s.xin := (rfl)
@[simp] theorem State.putSession_xinLast (s : State) (k : Nat) (x : Session) : (s.putSession k x).xinLast = s.xinLast := (rfl)
@[simp] theorem State.putSession_heldCells (s : State) (k : Nat) (x : Session) : (s.putSession k x).heldCells = s.heldCells := (rfl)
@[simp] theorem State.putSession_retiredSlots (s : State) (k : Nat) (x : Session) : (s.putSession k x).retiredSlots = s.retiredSlots := (rfl)
@[simp] theorem State.putSession_floor (s : State) (k : Nat) (x : Session) : (s.putSession k x).floor = s.floor := (rfl)
@[simp] theorem State.putSession_mirrors (s : State) (k : Nat) (x : Session) : (s.putSession k x).mirrors = s.mirrors := (rfl)
@[simp] theorem State.putSession_mirrorMade (s : State) (k : Nat) (x : Session) : (s.putSession k x).mirrorMade = s.mirrorMade := (rfl)
@[simp] theorem State.putSession_sampleNext (s : State) (k : Nat) (x : Session) : (s.putSession k x).sampleNext = s.sampleNext := (rfl)
@[simp] theorem State.putSession_sampleRead (s : State) (k : Nat) (x : Session) : (s.putSession k x).sampleRead = s.sampleRead := (rfl)
@[simp] theorem State.putSession_smpStart (s : State) (k : Nat) (x : Session) : (s.putSession k x).smpStart = s.smpStart := (rfl)
@[simp] theorem State.putSession_fails (s : State) (k : Nat) (x : Session) : (s.putSession k x).fails = s.fails := (rfl)
@[simp] theorem State.putSession_echoes (s : State) (k : Nat) (x : Session) : (s.putSession k x).echoes = s.echoes := (rfl)
@[simp] theorem State.putSession_echoGaps (s : State) (k : Nat) (x : Session) : (s.putSession k x).echoGaps = s.echoGaps := (rfl)
@[simp] theorem State.putSession_noReturn (s : State) (k : Nat) (x : Session) : (s.putSession k x).noReturn = s.noReturn := (rfl)
@[simp] theorem State.putSession_tiles (s : State) (k : Nat) (x : Session) : (s.putSession k x).tiles = s.tiles := (rfl)
@[simp] theorem State.putSession_tileMap (s : State) (k : Nat) (x : Session) : (s.putSession k x).tileMap = s.tileMap := (rfl)
@[simp] theorem State.putSession_failedTiles (s : State) (k : Nat) (x : Session) : (s.putSession k x).failedTiles = s.failedTiles := (rfl)
@[simp] theorem State.putSession_candidates (s : State) (k : Nat) (x : Session) : (s.putSession k x).candidates = s.candidates := (rfl)
@[simp] theorem State.putSession_inboxes (s : State) (k : Nat) (x : Session) : (s.putSession k x).inboxes = s.inboxes := (rfl)
@[simp] theorem State.putSession_ctxs (s : State) (k : Nat) (x : Session) : (s.putSession k x).ctxs = s.ctxs := (rfl)
@[simp] theorem State.putSession_ringPass (s : State) (k : Nat) (x : Session) : (s.putSession k x).ringPass = s.ringPass := (rfl)
@[simp] theorem State.putSession_plans (s : State) (k : Nat) (x : Session) : (s.putSession k x).plans = s.plans := (rfl)
@[simp] theorem State.putSession_planFp (s : State) (k : Nat) (x : Session) : (s.putSession k x).planFp = s.planFp := (rfl)
@[simp] theorem State.putSession_groups (s : State) (k : Nat) (x : Session) : (s.putSession k x).groups = s.groups := (rfl)
@[simp] theorem State.putSession_wmInbox (s : State) (k : Nat) (x : Session) : (s.putSession k x).wmInbox = s.wmInbox := (rfl)
@[simp] theorem State.putSession_sets (s : State) (k : Nat) (x : Session) : (s.putSession k x).sets = s.sets := (rfl)
@[simp] theorem State.putSession_ehts (s : State) (k : Nat) (x : Session) : (s.putSession k x).ehts = s.ehts := (rfl)
@[simp] theorem State.putSession_expOpen (s : State) (k : Nat) (x : Session) : (s.putSession k x).expOpen = s.expOpen := (rfl)
@[simp] theorem State.putSession_expIn (s : State) (k : Nat) (x : Session) : (s.putSession k x).expIn = s.expIn := (rfl)
@[simp] theorem State.putSession_expWait (s : State) (k : Nat) (x : Session) : (s.putSession k x).expWait = s.expWait := (rfl)
@[simp] theorem State.putSession_atomics (s : State) (k : Nat) (x : Session) : (s.putSession k x).atomics = s.atomics := (rfl)
@[simp] theorem State.putSession_owners (s : State) (k : Nat) (x : Session) : (s.putSession k x).owners = s.owners := (rfl)
@[simp] theorem State.putSession_bufs (s : State) (k : Nat) (x : Session) : (s.putSession k x).bufs = s.bufs := (rfl)
@[simp] theorem State.putSession_pools (s : State) (k : Nat) (x : Session) : (s.putSession k x).pools = s.pools := (rfl)
@[simp] theorem State.putSession_waiters (s : State) (k : Nat) (x : Session) : (s.putSession k x).waiters = s.waiters := (rfl)
@[simp] theorem State.putSession_grants (s : State) (k : Nat) (x : Session) : (s.putSession k x).grants = s.grants := (rfl)
@[simp] theorem State.putSession_rowErrs (s : State) (k : Nat) (x : Session) : (s.putSession k x).rowErrs = s.rowErrs := (rfl)
@[simp] theorem State.putSession_pageErrs (s : State) (k : Nat) (x : Session) : (s.putSession k x).pageErrs = s.pageErrs := (rfl)
@[simp] theorem State.putSession_pageHeld (s : State) (k : Nat) (x : Session) : (s.putSession k x).pageHeld = s.pageHeld := (rfl)
@[simp] theorem State.putSession_pages (s : State) (k : Nat) (x : Session) : (s.putSession k x).pages = s.pages := (rfl)
@[simp] theorem State.putSession_sparedRows (s : State) (k : Nat) (x : Session) : (s.putSession k x).sparedRows = s.sparedRows := (rfl)
@[simp] theorem State.putSession_patrolAt (s : State) (k : Nat) (x : Session) : (s.putSession k x).patrolAt = s.patrolAt := (rfl)
@[simp] theorem State.putSession_sramAt (s : State) (k : Nat) (x : Session) : (s.putSession k x).sramAt = s.sramAt := (rfl)
@[simp] theorem State.putSession_selfRefresh (s : State) (k : Nat) (x : Session) : (s.putSession k x).selfRefresh = s.selfRefresh := (rfl)
@[simp] theorem State.putSession_refreshing (s : State) (k : Nat) (x : Session) : (s.putSession k x).refreshing = s.refreshing := (rfl)
@[simp] theorem State.putSession_hpActive (s : State) (k : Nat) (x : Session) : (s.putSession k x).hpActive = s.hpActive := (rfl)
@[simp] theorem State.putSession_hpApply (s : State) (k : Nat) (x : Session) : (s.putSession k x).hpApply = s.hpApply := (rfl)
@[simp] theorem State.putSession_hostLink (s : State) (k : Nat) (x : Session) : (s.putSession k x).hostLink = s.hostLink := (rfl)
@[simp] theorem State.putSession_zctWait (s : State) (k : Nat) (x : Session) : (s.putSession k x).zctWait = s.zctWait := (rfl)
@[simp] theorem State.putSession_flash (s : State) (k : Nat) (x : Session) : (s.putSession k x).flash = s.flash := (rfl)
@[simp] theorem State.putSession_bootSlots (s : State) (k : Nat) (x : Session) : (s.putSession k x).bootSlots = s.bootSlots := (rfl)
@[simp] theorem State.putSession_cert (s : State) (k : Nat) (x : Session) : (s.putSession k x).cert = s.cert := (rfl)
@[simp] theorem State.putSession_jorou (s : State) (k : Nat) (x : Session) : (s.putSession k x).jorou = s.jorou := (rfl)
@[simp] theorem State.putSession_wear (s : State) (k : Nat) (x : Session) : (s.putSession k x).wear = s.wear := (rfl)
@[simp] theorem State.putSession_ledger (s : State) (k : Nat) (x : Session) : (s.putSession k x).ledger = s.ledger := (rfl)
@[simp] theorem State.putSession_resetOp (s : State) (k : Nat) (x : Session) : (s.putSession k x).reset? = s.reset? := (rfl)
@[simp] theorem State.putSession_resetQ (s : State) (k : Nat) (x : Session) : (s.putSession k x).resetQ = s.resetQ := (rfl)
@[simp] theorem State.putSession_resetsDone (s : State) (k : Nat) (x : Session) : (s.putSession k x).resetsDone = s.resetsDone := (rfl)
@[simp] theorem State.putSession_captures (s : State) (k : Nat) (x : Session) : (s.putSession k x).captures = s.captures := (rfl)
@[simp] theorem State.putSession_capture (s : State) (k : Nat) (x : Session) : (s.putSession k x).capture = s.capture := (rfl)
@[simp] theorem State.putSession_capQ (s : State) (k : Nat) (x : Session) : (s.putSession k x).capQ = s.capQ := (rfl)
@[simp] theorem State.putSession_scan (s : State) (k : Nat) (x : Session) : (s.putSession k x).scan = s.scan := (rfl)
@[simp] theorem State.putSession_hangs (s : State) (k : Nat) (x : Session) : (s.putSession k x).hangs = s.hangs := (rfl)
@[simp] theorem State.putSession_stalls (s : State) (k : Nat) (x : Session) : (s.putSession k x).stalls = s.stalls := (rfl)
@[simp] theorem State.putSession_power (s : State) (k : Nat) (x : Session) : (s.putSession k x).power = s.power := (rfl)
@[simp] theorem State.putSession_wb (s : State) (k : Nat) (x : Session) : (s.putSession k x).wb = s.wb := (rfl)

/-! ### emit -/

@[simp] theorem State.emit_pending (s : State) (o : Out) : (s.emit o).pending = s.pending := (rfl)
@[simp] theorem State.emit_cycle (s : State) (o : Out) : (s.emit o).cycle = s.cycle := (rfl)
@[simp] theorem State.emit_grade (s : State) (o : Out) : (s.emit o).grade = s.grade := (rfl)
@[simp] theorem State.emit_freeCtr (s : State) (o : Out) : (s.emit o).freeCtr = s.freeCtr := (rfl)
@[simp] theorem State.emit_mem (s : State) (o : Out) : (s.emit o).mem = s.mem := (rfl)
@[simp] theorem State.emit_poison (s : State) (o : Out) : (s.emit o).poison = s.poison := (rfl)
@[simp] theorem State.emit_regs (s : State) (o : Out) : (s.emit o).regs = s.regs := (rfl)
@[simp] theorem State.emit_ports (s : State) (o : Out) : (s.emit o).ports = s.ports := (rfl)
@[simp] theorem State.emit_laneMap (s : State) (o : Out) : (s.emit o).laneMap = s.laneMap := (rfl)
@[simp] theorem State.emit_mapFixed (s : State) (o : Out) : (s.emit o).mapFixed = s.mapFixed := (rfl)
@[simp] theorem State.emit_slots (s : State) (o : Out) : (s.emit o).slots = s.slots := (rfl)
@[simp] theorem State.emit_queues (s : State) (o : Out) : (s.emit o).queues = s.queues := (rfl)
@[simp] theorem State.emit_xin (s : State) (o : Out) : (s.emit o).xin = s.xin := (rfl)
@[simp] theorem State.emit_xinLast (s : State) (o : Out) : (s.emit o).xinLast = s.xinLast := (rfl)
@[simp] theorem State.emit_heldCells (s : State) (o : Out) : (s.emit o).heldCells = s.heldCells := (rfl)
@[simp] theorem State.emit_retiredSlots (s : State) (o : Out) : (s.emit o).retiredSlots = s.retiredSlots := (rfl)
@[simp] theorem State.emit_floor (s : State) (o : Out) : (s.emit o).floor = s.floor := (rfl)
@[simp] theorem State.emit_mirrors (s : State) (o : Out) : (s.emit o).mirrors = s.mirrors := (rfl)
@[simp] theorem State.emit_mirrorMade (s : State) (o : Out) : (s.emit o).mirrorMade = s.mirrorMade := (rfl)
@[simp] theorem State.emit_sampleNext (s : State) (o : Out) : (s.emit o).sampleNext = s.sampleNext := (rfl)
@[simp] theorem State.emit_sampleRead (s : State) (o : Out) : (s.emit o).sampleRead = s.sampleRead := (rfl)
@[simp] theorem State.emit_smpStart (s : State) (o : Out) : (s.emit o).smpStart = s.smpStart := (rfl)
@[simp] theorem State.emit_fails (s : State) (o : Out) : (s.emit o).fails = s.fails := (rfl)
@[simp] theorem State.emit_echoes (s : State) (o : Out) : (s.emit o).echoes = s.echoes := (rfl)
@[simp] theorem State.emit_echoGaps (s : State) (o : Out) : (s.emit o).echoGaps = s.echoGaps := (rfl)
@[simp] theorem State.emit_noReturn (s : State) (o : Out) : (s.emit o).noReturn = s.noReturn := (rfl)
@[simp] theorem State.emit_tiles (s : State) (o : Out) : (s.emit o).tiles = s.tiles := (rfl)
@[simp] theorem State.emit_tileMap (s : State) (o : Out) : (s.emit o).tileMap = s.tileMap := (rfl)
@[simp] theorem State.emit_failedTiles (s : State) (o : Out) : (s.emit o).failedTiles = s.failedTiles := (rfl)
@[simp] theorem State.emit_candidates (s : State) (o : Out) : (s.emit o).candidates = s.candidates := (rfl)
@[simp] theorem State.emit_inboxes (s : State) (o : Out) : (s.emit o).inboxes = s.inboxes := (rfl)
@[simp] theorem State.emit_ctxs (s : State) (o : Out) : (s.emit o).ctxs = s.ctxs := (rfl)
@[simp] theorem State.emit_ringPass (s : State) (o : Out) : (s.emit o).ringPass = s.ringPass := (rfl)
@[simp] theorem State.emit_plans (s : State) (o : Out) : (s.emit o).plans = s.plans := (rfl)
@[simp] theorem State.emit_planFp (s : State) (o : Out) : (s.emit o).planFp = s.planFp := (rfl)
@[simp] theorem State.emit_groups (s : State) (o : Out) : (s.emit o).groups = s.groups := (rfl)
@[simp] theorem State.emit_wmInbox (s : State) (o : Out) : (s.emit o).wmInbox = s.wmInbox := (rfl)
@[simp] theorem State.emit_sets (s : State) (o : Out) : (s.emit o).sets = s.sets := (rfl)
@[simp] theorem State.emit_ehts (s : State) (o : Out) : (s.emit o).ehts = s.ehts := (rfl)
@[simp] theorem State.emit_expOpen (s : State) (o : Out) : (s.emit o).expOpen = s.expOpen := (rfl)
@[simp] theorem State.emit_expIn (s : State) (o : Out) : (s.emit o).expIn = s.expIn := (rfl)
@[simp] theorem State.emit_expWait (s : State) (o : Out) : (s.emit o).expWait = s.expWait := (rfl)
@[simp] theorem State.emit_atomics (s : State) (o : Out) : (s.emit o).atomics = s.atomics := (rfl)
@[simp] theorem State.emit_owners (s : State) (o : Out) : (s.emit o).owners = s.owners := (rfl)
@[simp] theorem State.emit_bufs (s : State) (o : Out) : (s.emit o).bufs = s.bufs := (rfl)
@[simp] theorem State.emit_pools (s : State) (o : Out) : (s.emit o).pools = s.pools := (rfl)
@[simp] theorem State.emit_waiters (s : State) (o : Out) : (s.emit o).waiters = s.waiters := (rfl)
@[simp] theorem State.emit_grants (s : State) (o : Out) : (s.emit o).grants = s.grants := (rfl)
@[simp] theorem State.emit_rowErrs (s : State) (o : Out) : (s.emit o).rowErrs = s.rowErrs := (rfl)
@[simp] theorem State.emit_pageErrs (s : State) (o : Out) : (s.emit o).pageErrs = s.pageErrs := (rfl)
@[simp] theorem State.emit_pageHeld (s : State) (o : Out) : (s.emit o).pageHeld = s.pageHeld := (rfl)
@[simp] theorem State.emit_pages (s : State) (o : Out) : (s.emit o).pages = s.pages := (rfl)
@[simp] theorem State.emit_sparedRows (s : State) (o : Out) : (s.emit o).sparedRows = s.sparedRows := (rfl)
@[simp] theorem State.emit_patrolAt (s : State) (o : Out) : (s.emit o).patrolAt = s.patrolAt := (rfl)
@[simp] theorem State.emit_sramAt (s : State) (o : Out) : (s.emit o).sramAt = s.sramAt := (rfl)
@[simp] theorem State.emit_selfRefresh (s : State) (o : Out) : (s.emit o).selfRefresh = s.selfRefresh := (rfl)
@[simp] theorem State.emit_refreshing (s : State) (o : Out) : (s.emit o).refreshing = s.refreshing := (rfl)
@[simp] theorem State.emit_sessions (s : State) (o : Out) : (s.emit o).sessions = s.sessions := (rfl)
@[simp] theorem State.emit_hpActive (s : State) (o : Out) : (s.emit o).hpActive = s.hpActive := (rfl)
@[simp] theorem State.emit_hpApply (s : State) (o : Out) : (s.emit o).hpApply = s.hpApply := (rfl)
@[simp] theorem State.emit_hostLink (s : State) (o : Out) : (s.emit o).hostLink = s.hostLink := (rfl)
@[simp] theorem State.emit_zctWait (s : State) (o : Out) : (s.emit o).zctWait = s.zctWait := (rfl)
@[simp] theorem State.emit_flash (s : State) (o : Out) : (s.emit o).flash = s.flash := (rfl)
@[simp] theorem State.emit_bootSlots (s : State) (o : Out) : (s.emit o).bootSlots = s.bootSlots := (rfl)
@[simp] theorem State.emit_cert (s : State) (o : Out) : (s.emit o).cert = s.cert := (rfl)
@[simp] theorem State.emit_jorou (s : State) (o : Out) : (s.emit o).jorou = s.jorou := (rfl)
@[simp] theorem State.emit_wear (s : State) (o : Out) : (s.emit o).wear = s.wear := (rfl)
@[simp] theorem State.emit_ledger (s : State) (o : Out) : (s.emit o).ledger = s.ledger := (rfl)
@[simp] theorem State.emit_resetOp (s : State) (o : Out) : (s.emit o).reset? = s.reset? := (rfl)
@[simp] theorem State.emit_resetQ (s : State) (o : Out) : (s.emit o).resetQ = s.resetQ := (rfl)
@[simp] theorem State.emit_resetsDone (s : State) (o : Out) : (s.emit o).resetsDone = s.resetsDone := (rfl)
@[simp] theorem State.emit_captures (s : State) (o : Out) : (s.emit o).captures = s.captures := (rfl)
@[simp] theorem State.emit_capture (s : State) (o : Out) : (s.emit o).capture = s.capture := (rfl)
@[simp] theorem State.emit_capQ (s : State) (o : Out) : (s.emit o).capQ = s.capQ := (rfl)
@[simp] theorem State.emit_scan (s : State) (o : Out) : (s.emit o).scan = s.scan := (rfl)
@[simp] theorem State.emit_hangs (s : State) (o : Out) : (s.emit o).hangs = s.hangs := (rfl)
@[simp] theorem State.emit_stalls (s : State) (o : Out) : (s.emit o).stalls = s.stalls := (rfl)
@[simp] theorem State.emit_power (s : State) (o : Out) : (s.emit o).power = s.power := (rfl)
@[simp] theorem State.emit_wb (s : State) (o : Out) : (s.emit o).wb = s.wb := (rfl)

end Sys2Proof.Machine
end

