-- ==== Sys2Proof/Laws/Table.lean ====
section
/-! SUPPORT. Sys2Proof/Laws/Table.lean: what reading, writing and filtering a sparse table do. -/

namespace Sys2Proof.Machine

variable {κ α : Type}

theorem Table.get_del [DecidableEq κ] (d : α) (t : List (κ × α)) (k k' : κ) :
    Table.get d (Table.del t k) k' = if k = k' then d else Table.get d t k' := by
  induction t with
  | nil => simp [Table.del, Table.get]
  | cons e t ih =>
    obtain ⟨a, v⟩ := e
    by_cases h : a = k <;> by_cases h' : a = k' <;> by_cases h2 : k = k' <;>
      simp_all [Table.del, Table.get]

theorem Table.get_ins [DecidableEq κ] (rank : κ → Nat) (d : α) (t : List (κ × α)) (k k' : κ) (v : α)
    (h : Table.has t k = false) :
    Table.get d (Table.ins rank t k v) k' = if k = k' then v else Table.get d t k' := by
  induction t with
  | nil => by_cases h2 : k = k' <;> simp [Table.ins, Table.get, h2]
  | cons e t ih =>
    obtain ⟨a, w⟩ := e
    have hak : a ≠ k := by
      intro e; simp [Table.has, e] at h
    have ht : Table.has t k = false := by
      simp [Table.has] at h ⊢; exact h.2
    have ih := ih ht
    unfold Table.ins
    split
    · by_cases h2 : k = k' <;> simp [Table.get, h2]
    · by_cases h2 : k = k' <;> by_cases h3 : a = k' <;> simp_all [Table.get]

theorem Table.has_del [DecidableEq κ] (t : List (κ × α)) (k : κ) : Table.has (Table.del t k) k = false := by
  induction t with
  | nil => simp [Table.del, Table.has]
  | cons e t ih =>
    obtain ⟨a, v⟩ := e
    by_cases h : a = k
    · simp [Table.del, h, ih]
    · have ih' := ih
      simp only [Table.has] at ih' ⊢
      simp [Table.del, h, ih']

/-- Reading after writing the same key gives the value written; every other key reads as before. -/
theorem Table.get_set [DecidableEq κ] [DecidableEq α] (rank : κ → Nat) (d : α) (t : List (κ × α)) (k k' : κ) (v : α) :
    Table.get d (Table.set rank d t k v) k' = if k = k' then v else Table.get d t k' := by
  unfold Table.set
  by_cases hv : v = d
  · simp [hv, Table.get_del]
  · rw [if_neg hv, Table.get_ins _ _ _ _ _ _ (Table.has_del t k), Table.get_del]
    by_cases h : k = k' <;> simp [h]

@[simp] theorem Table.get_set_same [DecidableEq κ] [DecidableEq α] (rank : κ → Nat) (d : α) (t : List (κ × α)) (k : κ)
    (v : α) : Table.get d (Table.set rank d t k v) k = v := by
  simp [Table.get_set]

theorem Table.get_set_other [DecidableEq κ] [DecidableEq α] (rank : κ → Nat) (d : α) (t : List (κ × α)) (k k' : κ) (v : α)
    (h : k ≠ k') : Table.get d (Table.set rank d t k v) k' = Table.get d t k' := by
  simp [Table.get_set, h]

/-- The same for a reader with a default of its own. -/
theorem Table.get_set_ne [DecidableEq κ] [DecidableEq α] (rank : κ → Nat) (d d' : α) (t : List (κ × α)) (k k' : κ) (v : α)
    (h : k ≠ k') : Table.get d' (Table.set rank d t k v) k' = Table.get d' t k' := by
  unfold Table.set
  split
  · simp [Table.get_del, h]
  · rw [Table.get_ins _ _ _ _ _ _ (Table.has_del t k), Table.get_del]
    simp [h]

theorem Table.look_del [DecidableEq κ] (t : List (κ × α)) (k k' : κ) :
    Table.look (Table.del t k) k' = if k = k' then none else Table.look t k' := by
  induction t with
  | nil => simp [Table.del, Table.look]
  | cons e t ih =>
    obtain ⟨a, v⟩ := e
    by_cases h : a = k <;> by_cases h' : a = k' <;> by_cases h2 : k = k' <;>
      simp_all [Table.del, Table.look]

theorem Table.look_ins [DecidableEq κ] (rank : κ → Nat) (t : List (κ × α)) (k k' : κ) (v : α)
    (h : Table.has t k = false) :
    Table.look (Table.ins rank t k v) k' = if k = k' then some v else Table.look t k' := by
  induction t with
  | nil => by_cases h2 : k = k' <;> simp [Table.ins, Table.look, h2]
  | cons e t ih =>
    obtain ⟨a, w⟩ := e
    have hak : a ≠ k := by
      intro e; simp [Table.has, e] at h
    have ht : Table.has t k = false := by
      simp [Table.has] at h ⊢; exact h.2
    have ih := ih ht
    unfold Table.ins
    split
    · by_cases h2 : k = k' <;> simp [Table.look, h2]
    · by_cases h2 : k = k' <;> by_cases h3 : a = k' <;> simp_all [Table.look]

theorem Table.look_put [DecidableEq κ] (rank : κ → Nat) (t : List (κ × α)) (k k' : κ) (v : α) :
    Table.look (Table.put rank t k v) k' = if k = k' then some v else Table.look t k' := by
  unfold Table.put
  rw [Table.look_ins _ _ _ _ _ (Table.has_del t k), Table.look_del]
  by_cases h : k = k' <;> simp [h]

@[simp] theorem Table.look_put_same [DecidableEq κ] (rank : κ → Nat) (t : List (κ × α)) (k : κ) (v : α) :
    Table.look (Table.put rank t k v) k = some v := by
  simp [Table.look_put]

/-! ### The canonical form -/

theorem Table.mem_del [DecidableEq κ] {t : List (κ × α)} {k : κ} {e : κ × α} (h : e ∈ Table.del t k) :
    e ∈ t ∧ e.1 ≠ k := by
  induction t with
  | nil => simp [Table.del] at h
  | cons x t ih =>
    obtain ⟨a, v⟩ := x
    by_cases hk : a = k
    · simp [Table.del, hk] at h
      exact ⟨List.mem_cons_of_mem _ (ih h).1, (ih h).2⟩
    · simp [Table.del, hk] at h
      rcases h with rfl | h
      · exact ⟨by simp, hk⟩
      · exact ⟨List.mem_cons_of_mem _ (ih h).1, (ih h).2⟩

theorem Table.rising_del [DecidableEq κ] (rank : κ → Nat) (t : List (κ × α)) (k : κ)
    (h : Table.rising rank t = true) : Table.rising rank (Table.del t k) = true := by
  induction t with
  | nil => simp [Table.del, Table.rising]
  | cons x t ih =>
    obtain ⟨a, v⟩ := x
    simp only [Table.rising, Bool.and_eq_true, List.all_eq_true, decide_eq_true_eq] at h
    by_cases hk : a = k
    · simp only [Table.del, hk, if_true]; exact ih h.2
    · simp only [Table.del, hk, if_false, Table.rising, Bool.and_eq_true, List.all_eq_true, decide_eq_true_eq]
      exact ⟨fun e he => h.1 e (Table.mem_del he).1, ih h.2⟩

theorem Table.mem_ins (rank : κ → Nat) {t : List (κ × α)} {k : κ} {v : α} {e : κ × α}
    (h : e ∈ Table.ins rank t k v) : e = (k, v) ∨ e ∈ t := by
  induction t with
  | nil => simpa [Table.ins] using h
  | cons x t ih =>
    obtain ⟨a, w⟩ := x
    unfold Table.ins at h
    split at h
    · simpa using h
    · rcases List.mem_cons.mp h with rfl | h
      · simp
      · rcases ih h with h | h
        · exact .inl h
        · exact .inr (List.mem_cons_of_mem _ h)

theorem Table.rising_ins (rank : κ → Nat) (hr : Function.Injective rank) (t : List (κ × α)) (k : κ) (v : α)
    (hn : ∀ e ∈ t, e.1 ≠ k) (h : Table.rising rank t = true) : Table.rising rank (Table.ins rank t k v) = true := by
  induction t with
  | nil => simp [Table.ins, Table.rising]
  | cons x t ih =>
    obtain ⟨a, w⟩ := x
    have hx : a ≠ k := hn (a, w) (by simp)
    have hp := h
    simp only [Table.rising, Bool.and_eq_true, List.all_eq_true, decide_eq_true_eq] at h
    unfold Table.ins
    split
    · rename_i hlt
      rw [Table.rising, Bool.and_eq_true]
      refine ⟨?_, hp⟩
      simp only [List.all_eq_true, decide_eq_true_eq]
      intro e he
      rcases List.mem_cons.mp he with rfl | he
      · exact hlt
      · exact lt_trans hlt (h.1 e he)
    · rename_i hlt
      rw [Table.rising, Bool.and_eq_true]
      refine ⟨?_, ih (fun e he => hn e (List.mem_cons_of_mem _ he)) h.2⟩
      simp only [List.all_eq_true, decide_eq_true_eq]
      intro e he
      rcases Table.mem_ins rank he with rfl | he
      · have : rank a ≠ rank k := fun e => hx (hr e)
        simp only
        omega
      · exact h.1 e he

/-- Writing keeps the canonical form. -/
theorem Table.wf_set [DecidableEq κ] [DecidableEq α] (rank : κ → Nat) (hr : Function.Injective rank) (d : α)
    (t : List (κ × α)) (k : κ) (v : α) (h : Table.wf rank d t = true) :
    Table.wf rank d (Table.set rank d t k v) = true := by
  simp only [Table.wf, Bool.and_eq_true, List.all_eq_true, decide_eq_true_eq] at h ⊢
  unfold Table.set
  split
  · exact ⟨Table.rising_del rank t k h.1, fun e he => h.2 e (Table.mem_del he).1⟩
  · rename_i hv
    refine ⟨Table.rising_ins rank hr _ k v (fun e he => (Table.mem_del he).2) (Table.rising_del rank t k h.1), ?_⟩
    intro e he
    rcases Table.mem_ins rank he with rfl | he
    · exact hv
    · exact h.2 e (Table.mem_del he).1

/-- Leaving entries out keeps the canonical form. -/
theorem Table.wf_filter [DecidableEq α] (rank : κ → Nat) (d : α) (t : List (κ × α)) (p : κ × α → Bool)
    (h : Table.wf rank d t = true) : Table.wf rank d (t.filter p) = true := by
  simp only [Table.wf, Bool.and_eq_true, List.all_eq_true, decide_eq_true_eq] at h ⊢
  refine ⟨?_, fun e he => h.2 e (List.mem_filter.mp he).1⟩
  have h1 := h.1
  clear h
  induction t with
  | nil => simp [Table.rising]
  | cons x t ih =>
    obtain ⟨a, w⟩ := x
    simp only [Table.rising, Bool.and_eq_true, List.all_eq_true, decide_eq_true_eq] at h1
    by_cases hp : p (a, w) = true
    · simp only [List.filter, hp, Table.rising, Bool.and_eq_true, List.all_eq_true, decide_eq_true_eq]
      exact ⟨fun e he => h1.1 e (List.mem_filter.mp he).1, ih h1.2⟩
    · simp only [List.filter, hp]
      exact ih h1.2

end Sys2Proof.Machine
end

