-- ==== Sys2Proof/Laws/Ops.lean ====
section
/-! SUPPORT. Sys2Proof/Laws/Ops.lean: what the shared operations do: outcomes, registers and their fields, memory, and the
entries of the tables of engine state. -/

namespace Sys2Proof.Machine

/-! ### Outcomes -/

/-- The one outcome of `ok`: the effect, with the queue, the grade and the core cycle count of the state before. -/
theorem ok_next {s t u : State} (h : ok s t = .next u) : u = s.commit t := by
  simpa [ok] using h.symm

theorem okPower_next {s t u : State} (h : okPower s t = .next u) : u = (t.putPending s.pending).putGrade s.grade := by
  simpa [okPower] using h.symm

@[simp] theorem State.commit_pending (s t : State) : (s.commit t).pending = s.pending := by simp [State.commit]
@[simp] theorem State.commit_cycle (s t : State) : (s.commit t).cycle = s.cycle := by simp [State.commit]
@[simp] theorem State.commit_grade (s t : State) : (s.commit t).grade = s.grade := by simp [State.commit]
@[simp] theorem State.commit_freeCtr (s t : State) : (s.commit t).freeCtr = t.freeCtr := by simp [State.commit]
@[simp] theorem State.commit_out (s t : State) : (s.commit t).out = t.out := by simp [State.commit]
@[simp] theorem State.commit_mem (s t : State) : (s.commit t).mem = t.mem := by simp [State.commit]
@[simp] theorem State.commit_poison (s t : State) : (s.commit t).poison = t.poison := by simp [State.commit]
@[simp] theorem State.commit_regs (s t : State) : (s.commit t).regs = t.regs := by simp [State.commit]
@[simp] theorem State.commit_ports (s t : State) : (s.commit t).ports = t.ports := by simp [State.commit]
@[simp] theorem State.commit_laneMap (s t : State) : (s.commit t).laneMap = t.laneMap := by simp [State.commit]
@[simp] theorem State.commit_mapFixed (s t : State) : (s.commit t).mapFixed = t.mapFixed := by simp [State.commit]
@[simp] theorem State.commit_slots (s t : State) : (s.commit t).slots = t.slots := by simp [State.commit]
@[simp] theorem State.commit_queues (s t : State) : (s.commit t).queues = t.queues := by simp [State.commit]
@[simp] theorem State.commit_xin (s t : State) : (s.commit t).xin = t.xin := by simp [State.commit]
@[simp] theorem State.commit_xinLast (s t : State) : (s.commit t).xinLast = t.xinLast := by simp [State.commit]
@[simp] theorem State.commit_heldCells (s t : State) : (s.commit t).heldCells = t.heldCells := by simp [State.commit]
@[simp] theorem State.commit_retiredSlots (s t : State) : (s.commit t).retiredSlots = t.retiredSlots := by simp [State.commit]
@[simp] theorem State.commit_floor (s t : State) : (s.commit t).floor = t.floor := by simp [State.commit]
@[simp] theorem State.commit_mirrors (s t : State) : (s.commit t).mirrors = t.mirrors := by simp [State.commit]
@[simp] theorem State.commit_mirrorMade (s t : State) : (s.commit t).mirrorMade = t.mirrorMade := by simp [State.commit]
@[simp] theorem State.commit_sampleNext (s t : State) : (s.commit t).sampleNext = t.sampleNext := by simp [State.commit]
@[simp] theorem State.commit_sampleRead (s t : State) : (s.commit t).sampleRead = t.sampleRead := by simp [State.commit]
@[simp] theorem State.commit_smpStart (s t : State) : (s.commit t).smpStart = t.smpStart := by simp [State.commit]
@[simp] theorem State.commit_fails (s t : State) : (s.commit t).fails = t.fails := by simp [State.commit]
@[simp] theorem State.commit_echoes (s t : State) : (s.commit t).echoes = t.echoes := by simp [State.commit]
@[simp] theorem State.commit_echoGaps (s t : State) : (s.commit t).echoGaps = t.echoGaps := by simp [State.commit]
@[simp] theorem State.commit_noReturn (s t : State) : (s.commit t).noReturn = t.noReturn := by simp [State.commit]
@[simp] theorem State.commit_tiles (s t : State) : (s.commit t).tiles = t.tiles := by simp [State.commit]
@[simp] theorem State.commit_tileMap (s t : State) : (s.commit t).tileMap = t.tileMap := by simp [State.commit]
@[simp] theorem State.commit_failedTiles (s t : State) : (s.commit t).failedTiles = t.failedTiles := by simp [State.commit]
@[simp] theorem State.commit_candidates (s t : State) : (s.commit t).candidates = t.candidates := by simp [State.commit]
@[simp] theorem State.commit_inboxes (s t : State) : (s.commit t).inboxes = t.inboxes := by simp [State.commit]
@[simp] theorem State.commit_ctxs (s t : State) : (s.commit t).ctxs = t.ctxs := by simp [State.commit]
@[simp] theorem State.commit_ringPass (s t : State) : (s.commit t).ringPass = t.ringPass := by simp [State.commit]
@[simp] theorem State.commit_plans (s t : State) : (s.commit t).plans = t.plans := by simp [State.commit]
@[simp] theorem State.commit_planFp (s t : State) : (s.commit t).planFp = t.planFp := by simp [State.commit]
@[simp] theorem State.commit_groups (s t : State) : (s.commit t).groups = t.groups := by simp [State.commit]
@[simp] theorem State.commit_wmInbox (s t : State) : (s.commit t).wmInbox = t.wmInbox := by simp [State.commit]
@[simp] theorem State.commit_sets (s t : State) : (s.commit t).sets = t.sets := by simp [State.commit]
@[simp] theorem State.commit_ehts (s t : State) : (s.commit t).ehts = t.ehts := by simp [State.commit]
@[simp] theorem State.commit_expOpen (s t : State) : (s.commit t).expOpen = t.expOpen := by simp [State.commit]
@[simp] theorem State.commit_expIn (s t : State) : (s.commit t).expIn = t.expIn := by simp [State.commit]
@[simp] theorem State.commit_expWait (s t : State) : (s.commit t).expWait = t.expWait := by simp [State.commit]
@[simp] theorem State.commit_atomics (s t : State) : (s.commit t).atomics = t.atomics := by simp [State.commit]
@[simp] theorem State.commit_owners (s t : State) : (s.commit t).owners = t.owners := by simp [State.commit]
@[simp] theorem State.commit_bufs (s t : State) : (s.commit t).bufs = t.bufs := by simp [State.commit]
@[simp] theorem State.commit_pools (s t : State) : (s.commit t).pools = t.pools := by simp [State.commit]
@[simp] theorem State.commit_waiters (s t : State) : (s.commit t).waiters = t.waiters := by simp [State.commit]
@[simp] theorem State.commit_grants (s t : State) : (s.commit t).grants = t.grants := by simp [State.commit]
@[simp] theorem State.commit_rowErrs (s t : State) : (s.commit t).rowErrs = t.rowErrs := by simp [State.commit]
@[simp] theorem State.commit_pageErrs (s t : State) : (s.commit t).pageErrs = t.pageErrs := by simp [State.commit]
@[simp] theorem State.commit_pageHeld (s t : State) : (s.commit t).pageHeld = t.pageHeld := by simp [State.commit]
@[simp] theorem State.commit_pages (s t : State) : (s.commit t).pages = t.pages := by simp [State.commit]
@[simp] theorem State.commit_sparedRows (s t : State) : (s.commit t).sparedRows = t.sparedRows := by simp [State.commit]
@[simp] theorem State.commit_patrolAt (s t : State) : (s.commit t).patrolAt = t.patrolAt := by simp [State.commit]
@[simp] theorem State.commit_sramAt (s t : State) : (s.commit t).sramAt = t.sramAt := by simp [State.commit]
@[simp] theorem State.commit_selfRefresh (s t : State) : (s.commit t).selfRefresh = t.selfRefresh := by simp [State.commit]
@[simp] theorem State.commit_refreshing (s t : State) : (s.commit t).refreshing = t.refreshing := by simp [State.commit]
@[simp] theorem State.commit_sessions (s t : State) : (s.commit t).sessions = t.sessions := by simp [State.commit]
@[simp] theorem State.commit_hpActive (s t : State) : (s.commit t).hpActive = t.hpActive := by simp [State.commit]
@[simp] theorem State.commit_hpApply (s t : State) : (s.commit t).hpApply = t.hpApply := by simp [State.commit]
@[simp] theorem State.commit_hostLink (s t : State) : (s.commit t).hostLink = t.hostLink := by simp [State.commit]
@[simp] theorem State.commit_zctWait (s t : State) : (s.commit t).zctWait = t.zctWait := by simp [State.commit]
@[simp] theorem State.commit_flash (s t : State) : (s.commit t).flash = t.flash := by simp [State.commit]
@[simp] theorem State.commit_bootSlots (s t : State) : (s.commit t).bootSlots = t.bootSlots := by simp [State.commit]
@[simp] theorem State.commit_cert (s t : State) : (s.commit t).cert = t.cert := by simp [State.commit]
@[simp] theorem State.commit_jorou (s t : State) : (s.commit t).jorou = t.jorou := by simp [State.commit]
@[simp] theorem State.commit_wear (s t : State) : (s.commit t).wear = t.wear := by simp [State.commit]
@[simp] theorem State.commit_ledger (s t : State) : (s.commit t).ledger = t.ledger := by simp [State.commit]
@[simp] theorem State.commit_resetOp (s t : State) : (s.commit t).reset? = t.reset? := by simp [State.commit]
@[simp] theorem State.commit_resetQ (s t : State) : (s.commit t).resetQ = t.resetQ := by simp [State.commit]
@[simp] theorem State.commit_resetsDone (s t : State) : (s.commit t).resetsDone = t.resetsDone := by simp [State.commit]
@[simp] theorem State.commit_captures (s t : State) : (s.commit t).captures = t.captures := by simp [State.commit]
@[simp] theorem State.commit_capture (s t : State) : (s.commit t).capture = t.capture := by simp [State.commit]
@[simp] theorem State.commit_capQ (s t : State) : (s.commit t).capQ = t.capQ := by simp [State.commit]
@[simp] theorem State.commit_scan (s t : State) : (s.commit t).scan = t.scan := by simp [State.commit]
@[simp] theorem State.commit_hangs (s t : State) : (s.commit t).hangs = t.hangs := by simp [State.commit]
@[simp] theorem State.commit_stalls (s t : State) : (s.commit t).stalls = t.stalls := by simp [State.commit]
@[simp] theorem State.commit_power (s t : State) : (s.commit t).power = t.power := by simp [State.commit]
@[simp] theorem State.commit_wb (s t : State) : (s.commit t).wb = t.wb := by simp [State.commit]

/-- An effect that needs the main side is none without it. -/
theorem State.powered_off {s : State} (h : s.on = false) (f : State → State) : s.powered f = s := by
  simp [State.powered, h]

theorem State.powered_on {s : State} (h : s.on = true) (f : State → State) : s.powered f = f s := by
  simp [State.powered, h]

/-- A state committed to itself is itself. -/
theorem State.commit_self (s : State) : s.commit s = s := rfl
theorem ok_self (s : State) : ok s s = .next s := rfl

/-! ### Registers -/

theorem State.rd_wr (s : State) (r r' : Reg) (v : Word) : (s.wr r v).rd r' = if r = r' then v else s.rd r' := by
  by_cases h : r = r'
  · subst h; simp [State.rd, State.wr]
  · simp [State.rd, State.wr, h, Table.get_set_ne _ _ _ _ _ _ _ h]

@[simp] theorem State.rd_wr_same (s : State) (r : Reg) (v : Word) : (s.wr r v).rd r = v := by simp [State.rd_wr]

theorem State.rd_wr_other (s : State) {r r' : Reg} (v : Word) (h : r ≠ r') : (s.wr r v).rd r' = s.rd r' := by
  simp [State.rd_wr, h]

theorem State.rd_setFld_other (s : State) {r r' : Reg} (f : Fld) (v : Nat) (h : r ≠ r') :
    (s.setFld r f v).rd r' = s.rd r' := State.rd_wr_other _ _ h

theorem State.rd_count (s : State) (r r' : Reg) (n : Nat) :
    (s.count r n).rd r' = if r = r' then s.rd r + BitVec.ofNat 64 n else s.rd r' := State.rd_wr ..

/-- A field just written reads back, cut to its width. -/
theorem State.fld_setFld_same (s : State) (r : Reg) (f : Fld) (v : Nat) (h : f.lo + f.width ≤ 64) :
    (s.setFld r f v).fld r f = v % 2 ^ f.width := by
  unfold State.fld State.setFld
  rw [State.rd_wr_same, BitVec.toNat_ofNat, Nat.mod_eq_of_lt (putBits_lt _ _ _ _ _ (s.rd r).isLt h),
    bitsOf_putBits_same]

/-- A field leaves the fields of its register that do not overlap it, and every other register. -/
theorem State.fld_setFld_other (s : State) (r r' : Reg) (f g : Fld) (v : Nat) (hf : f.lo + f.width ≤ 64)
    (h : r ≠ r' ∨ f.lo + f.width ≤ g.lo ∨ g.lo + g.width ≤ f.lo) :
    (s.setFld r f v).fld r' g = s.fld r' g := by
  by_cases hr : r = r'
  · subst hr
    unfold State.fld State.setFld
    rw [State.rd_wr_same, BitVec.toNat_ofNat, Nat.mod_eq_of_lt (putBits_lt _ _ _ _ _ (s.rd r).isLt hf)]
    rcases h with h | h | h
    · exact absurd rfl h
    · exact bitsOf_putBits_above _ _ _ _ _ _ h
    · exact bitsOf_putBits_below _ _ _ _ _ _ h
  · unfold State.fld
    rw [State.rd_setFld_other s f v hr]

theorem State.fld_wr_other (s : State) {r r' : Reg} (v : Word) (g : Fld) (h : r ≠ r') :
    (s.wr r v).fld r' g = s.fld r' g := by
  unfold State.fld
  rw [State.rd_wr_other s v h]

/-! ### Memory -/

theorem natRank_injective : Function.Injective natRank := fun _ _ h => h

theorem Memory.read_write (m : List Host.Cell) (a a' : Nat) (b : Byte) :
    Memory.read (Memory.write m a b) a' = if a = a' then b else Memory.read m a' := Table.get_set ..

theorem Memory.wf_write (m : List Host.Cell) (a : Nat) (b : Byte) (h : Memory.wf m = true) :
    Memory.wf (Memory.write m a b) = true := Table.wf_set _ natRank_injective _ _ _ _ h

theorem Memory.wf_writeBytes (l : List Byte) (m : List Host.Cell) (a : Nat) (h : Memory.wf m = true) :
    Memory.wf (Memory.writeBytes m a l) = true := by
  induction l generalizing m a with
  | nil => simpa [Memory.writeBytes] using h
  | cons b l ih => exact ih _ _ (Memory.wf_write _ _ _ h)

/-- A byte outside the bytes written reads as before. -/
theorem Memory.read_writeBytes_out (l : List Byte) (m : List Host.Cell) (a x : Nat) (h : x < a ∨ a + l.length ≤ x) :
    Memory.read (Memory.writeBytes m a l) x = Memory.read m x := by
  induction l generalizing m a with
  | nil => rfl
  | cons b l ih =>
    simp only [List.length_cons] at h
    rw [Memory.writeBytes, ih _ _ (by omega), Memory.read_write, if_neg (by omega)]

/-- A byte inside the bytes written reads the byte written there. -/
theorem Memory.read_writeBytes_in (l : List Byte) (m : List Host.Cell) (a i : Nat) (h : i < l.length) :
    Memory.read (Memory.writeBytes m a l) (a + i) = l[i] := by
  induction l generalizing m a i with
  | nil => simp at h
  | cons b l ih =>
    cases i with
    | zero => rw [Memory.writeBytes, Memory.read_writeBytes_out _ _ _ _ (by omega), Memory.read_write]; simp
    | succ i =>
      simp only [List.length_cons] at h
      rw [Memory.writeBytes, show a + (i + 1) = a + 1 + i by omega, ih _ _ _ (by omega)]
      simp

/-- Every operation over memory keeps its canonical form. -/
theorem State.setBytes_wf (s : State) (a : Nat) (l : List Byte) (h : Memory.wf s.mem = true) :
    Memory.wf (s.setBytes a l).mem = true := Memory.wf_writeBytes _ _ _ h

theorem State.store_wf (s : State) (a n v : Nat) (h : Memory.wf s.mem = true) :
    Memory.wf (s.store a n v).mem = true := s.setBytes_wf _ _ h

theorem State.setMemFld_wf (s : State) (a n lo w v : Nat) (h : Memory.wf s.mem = true) :
    Memory.wf (s.setMemFld a n lo w v).mem = true := s.store_wf _ _ _ h

theorem State.put_wf (s : State) (a : Nat) (l : List Byte) (h : Memory.wf s.mem = true) :
    Memory.wf (s.put a l).mem = true := s.setBytes_wf _ _ h

theorem State.zeroBytes_wf (s : State) (a n : Nat) (h : Memory.wf s.mem = true) :
    Memory.wf (s.zeroBytes a n).mem = true := Table.wf_filter _ _ _ _ h

theorem toBytes_length (n x : Nat) : (toBytes n x).length = n := by simp [toBytes]

theorem ofBytes_toBytes (n x : Nat) : ofBytes (toBytes n x) = x % 256 ^ n := by
  have key : ∀ n x, ofBytes (toBytes n x) = x % 256 ^ n ∧ toBytes (n + 1) x = BitVec.ofNat 8 x :: toBytes n (x / 256) := by
    intro n
    have cons : ∀ n x, toBytes (n + 1) x = BitVec.ofNat 8 x :: toBytes n (x / 256) := by
      intro n x
      simp only [toBytes, List.range_succ_eq_map, List.map_cons, List.map_map, Nat.mul_zero, Nat.shiftRight_zero]
      congr 1
      apply List.map_congr_left
      intro i _
      simp only [Function.comp, Nat.succ_eq_add_one]
      rw [Nat.mul_add, Nat.mul_one, Nat.add_comm, Nat.shiftRight_add, Nat.shiftRight_eq_div_pow x 8]
    induction n with
    | zero => intro x; exact ⟨by simp [toBytes, ofBytes, Nat.mod_one], cons 0 x⟩
    | succ n ih =>
      intro x
      refine ⟨?_, cons (n + 1) x⟩
      rw [cons n x]
      have := (ih (x / 256)).1
      simp only [ofBytes, List.foldr_cons, BitVec.toNat_ofNat] at this ⊢
      rw [this, show 256 ^ (n + 1) = 256 * 256 ^ n by ring, Nat.mod_mul]
  exact (key n x).1

theorem State.bytes_setBytes (s : State) (a : Nat) (l : List Byte) : (s.setBytes a l).bytes a l.length = l := by
  apply List.ext_getElem
  · simp [State.bytes]
  · intro i h1 h2
    simp only [State.bytes, List.getElem_map, List.getElem_range, State.setBytes]
    exact Memory.read_writeBytes_in l s.mem a i h2

/-- What is stored reads back, cut to its bytes. -/
theorem State.load_store_same (s : State) (a n v : Nat) : (s.store a n v).load a n = v % 256 ^ n := by
  unfold State.load State.store
  have := State.bytes_setBytes s a (toBytes n v)
  rw [toBytes_length] at this
  rw [this, ofBytes_toBytes]

/-- A load of bytes that a store does not touch is as before. -/
theorem State.load_store_other (s : State) (a n v b k : Nat) (h : b + k ≤ a ∨ a + n ≤ b) :
    (s.store a n v).load b k = s.load b k := by
  unfold State.load State.store State.bytes State.setBytes
  congr 1
  apply List.map_congr_left
  intro i hi
  have := List.mem_range.mp hi
  exact Memory.read_writeBytes_out _ _ _ _ (by rw [toBytes_length]; omega)

/-! ### Entries of the tables of engine state -/

@[simp] theorem State.port_setPort (s : State) (p : Nat) (x : Port) : (s.setPort p x).port p = x := by
  simp [State.port, State.setPort]
@[simp] theorem State.port_modPort (s : State) (p : Nat) (f : Port → Port) : (s.modPort p f).port p = f (s.port p) := by
  simp [State.modPort]
theorem State.port_setPort_other (s : State) {p q : Nat} (x : Port) (h : p ≠ q) : (s.setPort p x).port q = s.port q := by
  simp [State.port, State.setPort, Table.get_set, h]
@[simp] theorem State.tile_setTile (s : State) (t : Nat) (x : Tile) : (s.setTile t x).tile t = x := by
  simp [State.tile, State.setTile]
@[simp] theorem State.tile_modTile (s : State) (t : Nat) (f : Tile → Tile) : (s.modTile t f).tile t = f (s.tile t) := by
  simp [State.modTile]
theorem State.tile_setTile_other (s : State) {t u : Nat} (x : Tile) (h : t ≠ u) : (s.setTile t x).tile u = s.tile u := by
  simp [State.tile, State.setTile, Table.get_set, h]
@[simp] theorem Tile.thread_setThread (x : Tile) (h : Nat) (y : Thread) : (x.setThread h y).thread h = y := by
  simp [Tile.thread, Tile.setThread]
@[simp] theorem State.thread_modThread (s : State) (t h : Nat) (f : Thread → Thread) :
    (s.modThread t h f).thread t h = f (s.thread t h) := by
  simp [State.thread, State.modThread]
@[simp] theorem State.ctx_setCtx (s : State) (c : Nat) (x : Ctx) : (s.setCtx c x).ctx c = x := by
  simp [State.ctx, State.setCtx]
@[simp] theorem State.group_setGroup (s : State) (g : Nat) (x : Group) : (s.setGroup g x).group g = x := by
  simp [State.group, State.setGroup]
@[simp] theorem State.eht_setEht (s : State) (e : Nat) (x : Eht) : (s.setEht e x).eht e = x := by
  simp [State.eht, State.setEht]
@[simp] theorem State.pool_setPool (s : State) (k : Nat) (x : Pool) : (s.setPool k x).pool k = x := by
  simp [State.pool, State.setPool]
@[simp] theorem State.queue_setQueue (s : State) (q : Nat) (l : List QEntry) : (s.setQueue q l).queue q = l := by
  simp [State.queue, State.setQueue]
@[simp] theorem State.inbox_setInbox (s : State) (a : Nat) (l : List Item) : (s.setInbox a l).inbox a = l := by
  simp [State.inbox, State.setInbox]
@[simp] theorem State.mirror_setMirror (s : State) (m : Nat) (x : Mirror) : (s.setMirror m x).mirror m = x := by
  simp [State.mirror, State.setMirror]
@[simp] theorem State.session_putSession (s : State) (k : Nat) (x : Session) : (s.putSession k x).session k = some x := by
  simp [State.session, State.putSession]
@[simp] theorem Port.vc_setVc (x : Port) (v : Nat) (c : Vc) : (x.setVc v c).vc v = c := by simp [Port.vc, Port.setVc]
@[simp] theorem Tile.acc_setAcc (x : Tile) (j : Nat) (a : Acc) : (x.setAcc j a).acc j = a := by simp [Tile.acc, Tile.setAcc]
@[simp] theorem Tile.entry_setEntry (x : Tile) (e : Nat) (y : Entry) : (x.setEntry e y).entry e = y := by
  simp [Tile.entry, Tile.setEntry]

end Sys2Proof.Machine
end

