-- ==== Sys2Proof/Laws/Events.lean ====
section
/-! SUPPORT. Sys2Proof/Laws/Events.lean: what posting and raising an event may change: registers of the Spillway and of the
host port, the counters in memory, sessions, captures, resets, pins, wear and candidates, and nothing else. -/

namespace Sys2Proof.Machine

/-- A fold whose steps leave `g` alone leaves it alone. -/
theorem foldl_keep {α β γ : Type} (g : α → γ) (f : α → β → α) (h : ∀ a b, g (f a b) = g a) (l : List β) (a : α) :
    g (l.foldl f a) = g a := by
  induction l generalizing a with
  | nil => rfl
  | cons b l ih => rw [List.foldl_cons, ih, h]

/-- A register that no event writes: of neither the Spillway, the clocks, whose crossing to the host loses a frame, nor the
host port. -/
def Reg.quiet (r : Reg) : Prop := r.blk ≠ 13 ∧ r.blk ≠ 15 ∧ r.blk ≠ 16

theorem Reg.quiet_ne {r q : Reg} (h : r.quiet) (hq : q.blk = 13 ∨ q.blk = 15 ∨ q.blk = 16) : q ≠ r := by
  rintro rfl
  rcases hq with e | e | e
  · exact h.1 e
  · exact h.2.1 e
  · exact h.2.2 e

theorem State.rd_congr {s s' : State} (h : s'.regs = s.regs) (r : Reg) : s'.rd r = s.rd r := by
  unfold State.rd; rw [h]

/-- From `s` to `s'` only what an event may change has changed. -/
structure State.EventOnly (s s' : State) : Prop where
  rd : ∀ r, r.quiet → s'.rd r = s.rd r
  mainOn : s'.power.mainOn = s.power.mainOn
  pinHeld : s'.power.pinHeld = s.power.pinHeld
  pending : s'.pending = s.pending
  cycle : s'.cycle = s.cycle
  grade : s'.grade = s.grade
  freeCtr : s'.freeCtr = s.freeCtr
  poison : s'.poison = s.poison
  ports : s'.ports = s.ports
  laneMap : s'.laneMap = s.laneMap
  mapFixed : s'.mapFixed = s.mapFixed
  slots : s'.slots = s.slots
  queues : s'.queues = s.queues
  xin : s'.xin = s.xin
  xinLast : s'.xinLast = s.xinLast
  heldCells : s'.heldCells = s.heldCells
  retiredSlots : s'.retiredSlots = s.retiredSlots
  floor : s'.floor = s.floor
  mirrors : s'.mirrors = s.mirrors
  mirrorMade : s'.mirrorMade = s.mirrorMade
  sampleNext : s'.sampleNext = s.sampleNext
  sampleRead : s'.sampleRead = s.sampleRead
  smpStart : s'.smpStart = s.smpStart
  fails : s'.fails = s.fails
  echoes : s'.echoes = s.echoes
  echoGaps : s'.echoGaps = s.echoGaps
  noReturn : s'.noReturn = s.noReturn
  tiles : s'.tiles = s.tiles
  tileMap : s'.tileMap = s.tileMap
  failedTiles : s'.failedTiles = s.failedTiles
  inboxes : s'.inboxes = s.inboxes
  ctxs : s'.ctxs = s.ctxs
  ringPass : s'.ringPass = s.ringPass
  plans : s'.plans = s.plans
  planFp : s'.planFp = s.planFp
  groups : s'.groups = s.groups
  wmInbox : s'.wmInbox = s.wmInbox
  sets : s'.sets = s.sets
  ehts : s'.ehts = s.ehts
  expOpen : s'.expOpen = s.expOpen
  expIn : s'.expIn = s.expIn
  expWait : s'.expWait = s.expWait
  atomics : s'.atomics = s.atomics
  owners : s'.owners = s.owners
  bufs : s'.bufs = s.bufs
  pools : s'.pools = s.pools
  waiters : s'.waiters = s.waiters
  grants : s'.grants = s.grants
  rowErrs : s'.rowErrs = s.rowErrs
  pageErrs : s'.pageErrs = s.pageErrs
  pageHeld : s'.pageHeld = s.pageHeld
  pages : s'.pages = s.pages
  sparedRows : s'.sparedRows = s.sparedRows
  patrolAt : s'.patrolAt = s.patrolAt
  sramAt : s'.sramAt = s.sramAt
  refreshing : s'.refreshing = s.refreshing
  hpActive : s'.hpActive = s.hpActive
  hpApply : s'.hpApply = s.hpApply
  zctWait : s'.zctWait = s.zctWait
  flash : s'.flash = s.flash
  bootSlots : s'.bootSlots = s.bootSlots
  cert : s'.cert = s.cert
  jorou : s'.jorou = s.jorou
  ledger : s'.ledger = s.ledger
  resetsDone : s'.resetsDone = s.resetsDone
  captures : s'.captures = s.captures
  scan : s'.scan = s.scan
  hangs : s'.hangs = s.hangs
  stalls : s'.stalls = s.stalls
  wb : s'.wb = s.wb

theorem State.EventOnly.refl (s : State) : s.EventOnly s := by
  constructor <;> intros <;> rfl

theorem State.EventOnly.trans {a b c : State} (h : a.EventOnly b) (k : b.EventOnly c) : a.EventOnly c where
  rd r hr := (k.rd r hr).trans (h.rd r hr)
  mainOn := k.mainOn.trans h.mainOn
  pinHeld := k.pinHeld.trans h.pinHeld
  pending := k.pending.trans h.pending
  cycle := k.cycle.trans h.cycle
  grade := k.grade.trans h.grade
  freeCtr := k.freeCtr.trans h.freeCtr
  poison := k.poison.trans h.poison
  ports := k.ports.trans h.ports
  laneMap := k.laneMap.trans h.laneMap
  mapFixed := k.mapFixed.trans h.mapFixed
  slots := k.slots.trans h.slots
  queues := k.queues.trans h.queues
  xin := k.xin.trans h.xin
  xinLast := k.xinLast.trans h.xinLast
  heldCells := k.heldCells.trans h.heldCells
  retiredSlots := k.retiredSlots.trans h.retiredSlots
  floor := k.floor.trans h.floor
  mirrors := k.mirrors.trans h.mirrors
  mirrorMade := k.mirrorMade.trans h.mirrorMade
  sampleNext := k.sampleNext.trans h.sampleNext
  sampleRead := k.sampleRead.trans h.sampleRead
  smpStart := k.smpStart.trans h.smpStart
  fails := k.fails.trans h.fails
  echoes := k.echoes.trans h.echoes
  echoGaps := k.echoGaps.trans h.echoGaps
  noReturn := k.noReturn.trans h.noReturn
  tiles := k.tiles.trans h.tiles
  tileMap := k.tileMap.trans h.tileMap
  failedTiles := k.failedTiles.trans h.failedTiles
  inboxes := k.inboxes.trans h.inboxes
  ctxs := k.ctxs.trans h.ctxs
  ringPass := k.ringPass.trans h.ringPass
  plans := k.plans.trans h.plans
  planFp := k.planFp.trans h.planFp
  groups := k.groups.trans h.groups
  wmInbox := k.wmInbox.trans h.wmInbox
  sets := k.sets.trans h.sets
  ehts := k.ehts.trans h.ehts
  expOpen := k.expOpen.trans h.expOpen
  expIn := k.expIn.trans h.expIn
  expWait := k.expWait.trans h.expWait
  atomics := k.atomics.trans h.atomics
  owners := k.owners.trans h.owners
  bufs := k.bufs.trans h.bufs
  pools := k.pools.trans h.pools
  waiters := k.waiters.trans h.waiters
  grants := k.grants.trans h.grants
  rowErrs := k.rowErrs.trans h.rowErrs
  pageErrs := k.pageErrs.trans h.pageErrs
  pageHeld := k.pageHeld.trans h.pageHeld
  pages := k.pages.trans h.pages
  sparedRows := k.sparedRows.trans h.sparedRows
  patrolAt := k.patrolAt.trans h.patrolAt
  sramAt := k.sramAt.trans h.sramAt
  refreshing := k.refreshing.trans h.refreshing
  hpActive := k.hpActive.trans h.hpActive
  hpApply := k.hpApply.trans h.hpApply
  zctWait := k.zctWait.trans h.zctWait
  flash := k.flash.trans h.flash
  bootSlots := k.bootSlots.trans h.bootSlots
  cert := k.cert.trans h.cert
  jorou := k.jorou.trans h.jorou
  ledger := k.ledger.trans h.ledger
  resetsDone := k.resetsDone.trans h.resetsDone
  captures := k.captures.trans h.captures
  scan := k.scan.trans h.scan
  hangs := k.hangs.trans h.hangs
  stalls := k.stalls.trans h.stalls
  wb := k.wb.trans h.wb

theorem State.EventOnly.foldl {β : Type} {f : State → β → State} (h : ∀ (s : State) b, s.EventOnly (f s b)) (l : List β)
    (s : State) : s.EventOnly (l.foldl f s) := by
  induction l generalizing s with
  | nil => exact .refl _
  | cons b l ih => exact (h s b).trans (ih _)

theorem State.EventOnly.also {f : State → State} (h : ∀ s : State, s.EventOnly (f s)) (s : State) (b : Bool) :
    s.EventOnly (s.also b f) := by
  unfold State.also; split
  · exact h s
  · exact .refl _

/-! ### One update -/

theorem State.wr_only (s : State) {q : Reg} (v : Word) (hq : q.blk = 13 ∨ q.blk = 15 ∨ q.blk = 16) : s.EventOnly (s.wr q v) where
  rd r hr := State.rd_wr_other _ _ (Reg.quiet_ne hr hq)
  mainOn := by simp
  pinHeld := by simp
  pending := by simp
  cycle := by simp
  grade := by simp
  freeCtr := by simp
  poison := by simp
  ports := by simp
  laneMap := by simp
  mapFixed := by simp
  slots := by simp
  queues := by simp
  xin := by simp
  xinLast := by simp
  heldCells := by simp
  retiredSlots := by simp
  floor := by simp
  mirrors := by simp
  mirrorMade := by simp
  sampleNext := by simp
  sampleRead := by simp
  smpStart := by simp
  fails := by simp
  echoes := by simp
  echoGaps := by simp
  noReturn := by simp
  tiles := by simp
  tileMap := by simp
  failedTiles := by simp
  inboxes := by simp
  ctxs := by simp
  ringPass := by simp
  plans := by simp
  planFp := by simp
  groups := by simp
  wmInbox := by simp
  sets := by simp
  ehts := by simp
  expOpen := by simp
  expIn := by simp
  expWait := by simp
  atomics := by simp
  owners := by simp
  bufs := by simp
  pools := by simp
  waiters := by simp
  grants := by simp
  rowErrs := by simp
  pageErrs := by simp
  pageHeld := by simp
  pages := by simp
  sparedRows := by simp
  patrolAt := by simp
  sramAt := by simp
  refreshing := by simp
  hpActive := by simp
  hpApply := by simp
  zctWait := by simp
  flash := by simp
  bootSlots := by simp
  cert := by simp
  jorou := by simp
  ledger := by simp
  resetsDone := by simp
  captures := by simp
  scan := by simp
  hangs := by simp
  stalls := by simp
  wb := by simp

theorem State.setFld_only (s : State) {q : Reg} (f : Fld) (v : Nat) (hq : q.blk = 13 ∨ q.blk = 15 ∨ q.blk = 16) :
    s.EventOnly (s.setFld q f v) := s.wr_only _ hq
theorem State.count_only (s : State) {q : Reg} (n : Nat) (hq : q.blk = 13 ∨ q.blk = 15 ∨ q.blk = 16) : s.EventOnly (s.count q n) :=
  s.wr_only _ hq

theorem State.putMem_only (s : State) (v : List Host.Cell) : s.EventOnly (s.putMem v) where
  rd r _ := State.rd_congr (by simp) r
  mainOn := by simp
  pinHeld := by simp
  pending := by simp
  cycle := by simp
  grade := by simp
  freeCtr := by simp
  poison := by simp
  ports := by simp
  laneMap := by simp
  mapFixed := by simp
  slots := by simp
  queues := by simp
  xin := by simp
  xinLast := by simp
  heldCells := by simp
  retiredSlots := by simp
  floor := by simp
  mirrors := by simp
  mirrorMade := by simp
  sampleNext := by simp
  sampleRead := by simp
  smpStart := by simp
  fails := by simp
  echoes := by simp
  echoGaps := by simp
  noReturn := by simp
  tiles := by simp
  tileMap := by simp
  failedTiles := by simp
  inboxes := by simp
  ctxs := by simp
  ringPass := by simp
  plans := by simp
  planFp := by simp
  groups := by simp
  wmInbox := by simp
  sets := by simp
  ehts := by simp
  expOpen := by simp
  expIn := by simp
  expWait := by simp
  atomics := by simp
  owners := by simp
  bufs := by simp
  pools := by simp
  waiters := by simp
  grants := by simp
  rowErrs := by simp
  pageErrs := by simp
  pageHeld := by simp
  pages := by simp
  sparedRows := by simp
  patrolAt := by simp
  sramAt := by simp
  refreshing := by simp
  hpActive := by simp
  hpApply := by simp
  zctWait := by simp
  flash := by simp
  bootSlots := by simp
  cert := by simp
  jorou := by simp
  ledger := by simp
  resetsDone := by simp
  captures := by simp
  scan := by simp
  hangs := by simp
  stalls := by simp
  wb := by simp

theorem State.putOut_only (s : State) (v : List Out) : s.EventOnly (s.putOut v) where
  rd r _ := State.rd_congr (by simp) r
  mainOn := by simp
  pinHeld := by simp
  pending := by simp
  cycle := by simp
  grade := by simp
  freeCtr := by simp
  poison := by simp
  ports := by simp
  laneMap := by simp
  mapFixed := by simp
  slots := by simp
  queues := by simp
  xin := by simp
  xinLast := by simp
  heldCells := by simp
  retiredSlots := by simp
  floor := by simp
  mirrors := by simp
  mirrorMade := by simp
  sampleNext := by simp
  sampleRead := by simp
  smpStart := by simp
  fails := by simp
  echoes := by simp
  echoGaps := by simp
  noReturn := by simp
  tiles := by simp
  tileMap := by simp
  failedTiles := by simp
  inboxes := by simp
  ctxs := by simp
  ringPass := by simp
  plans := by simp
  planFp := by simp
  groups := by simp
  wmInbox := by simp
  sets := by simp
  ehts := by simp
  expOpen := by simp
  expIn := by simp
  expWait := by simp
  atomics := by simp
  owners := by simp
  bufs := by simp
  pools := by simp
  waiters := by simp
  grants := by simp
  rowErrs := by simp
  pageErrs := by simp
  pageHeld := by simp
  pages := by simp
  sparedRows := by simp
  patrolAt := by simp
  sramAt := by simp
  refreshing := by simp
  hpActive := by simp
  hpApply := by simp
  zctWait := by simp
  flash := by simp
  bootSlots := by simp
  cert := by simp
  jorou := by simp
  ledger := by simp
  resetsDone := by simp
  captures := by simp
  scan := by simp
  hangs := by simp
  stalls := by simp
  wb := by simp

theorem State.putSessions_only (s : State) (v : List (Nat × Session)) : s.EventOnly (s.putSessions v) where
  rd r _ := State.rd_congr (by simp) r
  mainOn := by simp
  pinHeld := by simp
  pending := by simp
  cycle := by simp
  grade := by simp
  freeCtr := by simp
  poison := by simp
  ports := by simp
  laneMap := by simp
  mapFixed := by simp
  slots := by simp
  queues := by simp
  xin := by simp
  xinLast := by simp
  heldCells := by simp
  retiredSlots := by simp
  floor := by simp
  mirrors := by simp
  mirrorMade := by simp
  sampleNext := by simp
  sampleRead := by simp
  smpStart := by simp
  fails := by simp
  echoes := by simp
  echoGaps := by simp
  noReturn := by simp
  tiles := by simp
  tileMap := by simp
  failedTiles := by simp
  inboxes := by simp
  ctxs := by simp
  ringPass := by simp
  plans := by simp
  planFp := by simp
  groups := by simp
  wmInbox := by simp
  sets := by simp
  ehts := by simp
  expOpen := by simp
  expIn := by simp
  expWait := by simp
  atomics := by simp
  owners := by simp
  bufs := by simp
  pools := by simp
  waiters := by simp
  grants := by simp
  rowErrs := by simp
  pageErrs := by simp
  pageHeld := by simp
  pages := by simp
  sparedRows := by simp
  patrolAt := by simp
  sramAt := by simp
  refreshing := by simp
  hpActive := by simp
  hpApply := by simp
  zctWait := by simp
  flash := by simp
  bootSlots := by simp
  cert := by simp
  jorou := by simp
  ledger := by simp
  resetsDone := by simp
  captures := by simp
  scan := by simp
  hangs := by simp
  stalls := by simp
  wb := by simp

theorem State.putCapture_only (s : State) (v : Option Capture) : s.EventOnly (s.putCapture v) where
  rd r _ := State.rd_congr (by simp) r
  mainOn := by simp
  pinHeld := by simp
  pending := by simp
  cycle := by simp
  grade := by simp
  freeCtr := by simp
  poison := by simp
  ports := by simp
  laneMap := by simp
  mapFixed := by simp
  slots := by simp
  queues := by simp
  xin := by simp
  xinLast := by simp
  heldCells := by simp
  retiredSlots := by simp
  floor := by simp
  mirrors := by simp
  mirrorMade := by simp
  sampleNext := by simp
  sampleRead := by simp
  smpStart := by simp
  fails := by simp
  echoes := by simp
  echoGaps := by simp
  noReturn := by simp
  tiles := by simp
  tileMap := by simp
  failedTiles := by simp
  inboxes := by simp
  ctxs := by simp
  ringPass := by simp
  plans := by simp
  planFp := by simp
  groups := by simp
  wmInbox := by simp
  sets := by simp
  ehts := by simp
  expOpen := by simp
  expIn := by simp
  expWait := by simp
  atomics := by simp
  owners := by simp
  bufs := by simp
  pools := by simp
  waiters := by simp
  grants := by simp
  rowErrs := by simp
  pageErrs := by simp
  pageHeld := by simp
  pages := by simp
  sparedRows := by simp
  patrolAt := by simp
  sramAt := by simp
  refreshing := by simp
  hpActive := by simp
  hpApply := by simp
  zctWait := by simp
  flash := by simp
  bootSlots := by simp
  cert := by simp
  jorou := by simp
  ledger := by simp
  resetsDone := by simp
  captures := by simp
  scan := by simp
  hangs := by simp
  stalls := by simp
  wb := by simp

theorem State.putCapQ_only (s : State) (v : List Capture) : s.EventOnly (s.putCapQ v) where
  rd r _ := State.rd_congr (by simp) r
  mainOn := by simp
  pinHeld := by simp
  pending := by simp
  cycle := by simp
  grade := by simp
  freeCtr := by simp
  poison := by simp
  ports := by simp
  laneMap := by simp
  mapFixed := by simp
  slots := by simp
  queues := by simp
  xin := by simp
  xinLast := by simp
  heldCells := by simp
  retiredSlots := by simp
  floor := by simp
  mirrors := by simp
  mirrorMade := by simp
  sampleNext := by simp
  sampleRead := by simp
  smpStart := by simp
  fails := by simp
  echoes := by simp
  echoGaps := by simp
  noReturn := by simp
  tiles := by simp
  tileMap := by simp
  failedTiles := by simp
  inboxes := by simp
  ctxs := by simp
  ringPass := by simp
  plans := by simp
  planFp := by simp
  groups := by simp
  wmInbox := by simp
  sets := by simp
  ehts := by simp
  expOpen := by simp
  expIn := by simp
  expWait := by simp
  atomics := by simp
  owners := by simp
  bufs := by simp
  pools := by simp
  waiters := by simp
  grants := by simp
  rowErrs := by simp
  pageErrs := by simp
  pageHeld := by simp
  pages := by simp
  sparedRows := by simp
  patrolAt := by simp
  sramAt := by simp
  refreshing := by simp
  hpActive := by simp
  hpApply := by simp
  zctWait := by simp
  flash := by simp
  bootSlots := by simp
  cert := by simp
  jorou := by simp
  ledger := by simp
  resetsDone := by simp
  captures := by simp
  scan := by simp
  hangs := by simp
  stalls := by simp
  wb := by simp

theorem State.putReset_only (s : State) (v : Option ResetOp) : s.EventOnly (s.putReset v) where
  rd r _ := State.rd_congr (by simp) r
  mainOn := by simp
  pinHeld := by simp
  pending := by simp
  cycle := by simp
  grade := by simp
  freeCtr := by simp
  poison := by simp
  ports := by simp
  laneMap := by simp
  mapFixed := by simp
  slots := by simp
  queues := by simp
  xin := by simp
  xinLast := by simp
  heldCells := by simp
  retiredSlots := by simp
  floor := by simp
  mirrors := by simp
  mirrorMade := by simp
  sampleNext := by simp
  sampleRead := by simp
  smpStart := by simp
  fails := by simp
  echoes := by simp
  echoGaps := by simp
  noReturn := by simp
  tiles := by simp
  tileMap := by simp
  failedTiles := by simp
  inboxes := by simp
  ctxs := by simp
  ringPass := by simp
  plans := by simp
  planFp := by simp
  groups := by simp
  wmInbox := by simp
  sets := by simp
  ehts := by simp
  expOpen := by simp
  expIn := by simp
  expWait := by simp
  atomics := by simp
  owners := by simp
  bufs := by simp
  pools := by simp
  waiters := by simp
  grants := by simp
  rowErrs := by simp
  pageErrs := by simp
  pageHeld := by simp
  pages := by simp
  sparedRows := by simp
  patrolAt := by simp
  sramAt := by simp
  refreshing := by simp
  hpActive := by simp
  hpApply := by simp
  zctWait := by simp
  flash := by simp
  bootSlots := by simp
  cert := by simp
  jorou := by simp
  ledger := by simp
  resetsDone := by simp
  captures := by simp
  scan := by simp
  hangs := by simp
  stalls := by simp
  wb := by simp

theorem State.putResetQ_only (s : State) (v : List (ResetOp × Option Post)) : s.EventOnly (s.putResetQ v) where
  rd r _ := State.rd_congr (by simp) r
  mainOn := by simp
  pinHeld := by simp
  pending := by simp
  cycle := by simp
  grade := by simp
  freeCtr := by simp
  poison := by simp
  ports := by simp
  laneMap := by simp
  mapFixed := by simp
  slots := by simp
  queues := by simp
  xin := by simp
  xinLast := by simp
  heldCells := by simp
  retiredSlots := by simp
  floor := by simp
  mirrors := by simp
  mirrorMade := by simp
  sampleNext := by simp
  sampleRead := by simp
  smpStart := by simp
  fails := by simp
  echoes := by simp
  echoGaps := by simp
  noReturn := by simp
  tiles := by simp
  tileMap := by simp
  failedTiles := by simp
  inboxes := by simp
  ctxs := by simp
  ringPass := by simp
  plans := by simp
  planFp := by simp
  groups := by simp
  wmInbox := by simp
  sets := by simp
  ehts := by simp
  expOpen := by simp
  expIn := by simp
  expWait := by simp
  atomics := by simp
  owners := by simp
  bufs := by simp
  pools := by simp
  waiters := by simp
  grants := by simp
  rowErrs := by simp
  pageErrs := by simp
  pageHeld := by simp
  pages := by simp
  sparedRows := by simp
  patrolAt := by simp
  sramAt := by simp
  refreshing := by simp
  hpActive := by simp
  hpApply := by simp
  zctWait := by simp
  flash := by simp
  bootSlots := by simp
  cert := by simp
  jorou := by simp
  ledger := by simp
  resetsDone := by simp
  captures := by simp
  scan := by simp
  hangs := by simp
  stalls := by simp
  wb := by simp

theorem State.putSelfRefresh_only (s : State) (v : Bool) : s.EventOnly (s.putSelfRefresh v) where
  rd r _ := State.rd_congr (by simp) r
  mainOn := by simp
  pinHeld := by simp
  pending := by simp
  cycle := by simp
  grade := by simp
  freeCtr := by simp
  poison := by simp
  ports := by simp
  laneMap := by simp
  mapFixed := by simp
  slots := by simp
  queues := by simp
  xin := by simp
  xinLast := by simp
  heldCells := by simp
  retiredSlots := by simp
  floor := by simp
  mirrors := by simp
  mirrorMade := by simp
  sampleNext := by simp
  sampleRead := by simp
  smpStart := by simp
  fails := by simp
  echoes := by simp
  echoGaps := by simp
  noReturn := by simp
  tiles := by simp
  tileMap := by simp
  failedTiles := by simp
  inboxes := by simp
  ctxs := by simp
  ringPass := by simp
  plans := by simp
  planFp := by simp
  groups := by simp
  wmInbox := by simp
  sets := by simp
  ehts := by simp
  expOpen := by simp
  expIn := by simp
  expWait := by simp
  atomics := by simp
  owners := by simp
  bufs := by simp
  pools := by simp
  waiters := by simp
  grants := by simp
  rowErrs := by simp
  pageErrs := by simp
  pageHeld := by simp
  pages := by simp
  sparedRows := by simp
  patrolAt := by simp
  sramAt := by simp
  refreshing := by simp
  hpActive := by simp
  hpApply := by simp
  zctWait := by simp
  flash := by simp
  bootSlots := by simp
  cert := by simp
  jorou := by simp
  ledger := by simp
  resetsDone := by simp
  captures := by simp
  scan := by simp
  hangs := by simp
  stalls := by simp
  wb := by simp

theorem State.putHostLink_only (s : State) (v : Bool) : s.EventOnly (s.putHostLink v) where
  rd r _ := State.rd_congr (by simp) r
  mainOn := by simp
  pinHeld := by simp
  pending := by simp
  cycle := by simp
  grade := by simp
  freeCtr := by simp
  poison := by simp
  ports := by simp
  laneMap := by simp
  mapFixed := by simp
  slots := by simp
  queues := by simp
  xin := by simp
  xinLast := by simp
  heldCells := by simp
  retiredSlots := by simp
  floor := by simp
  mirrors := by simp
  mirrorMade := by simp
  sampleNext := by simp
  sampleRead := by simp
  smpStart := by simp
  fails := by simp
  echoes := by simp
  echoGaps := by simp
  noReturn := by simp
  tiles := by simp
  tileMap := by simp
  failedTiles := by simp
  inboxes := by simp
  ctxs := by simp
  ringPass := by simp
  plans := by simp
  planFp := by simp
  groups := by simp
  wmInbox := by simp
  sets := by simp
  ehts := by simp
  expOpen := by simp
  expIn := by simp
  expWait := by simp
  atomics := by simp
  owners := by simp
  bufs := by simp
  pools := by simp
  waiters := by simp
  grants := by simp
  rowErrs := by simp
  pageErrs := by simp
  pageHeld := by simp
  pages := by simp
  sparedRows := by simp
  patrolAt := by simp
  sramAt := by simp
  refreshing := by simp
  hpActive := by simp
  hpApply := by simp
  zctWait := by simp
  flash := by simp
  bootSlots := by simp
  cert := by simp
  jorou := by simp
  ledger := by simp
  resetsDone := by simp
  captures := by simp
  scan := by simp
  hangs := by simp
  stalls := by simp
  wb := by simp

theorem State.putWear_only (s : State) (v : List (Nat × List Nat)) : s.EventOnly (s.putWear v) where
  rd r _ := State.rd_congr (by simp) r
  mainOn := by simp
  pinHeld := by simp
  pending := by simp
  cycle := by simp
  grade := by simp
  freeCtr := by simp
  poison := by simp
  ports := by simp
  laneMap := by simp
  mapFixed := by simp
  slots := by simp
  queues := by simp
  xin := by simp
  xinLast := by simp
  heldCells := by simp
  retiredSlots := by simp
  floor := by simp
  mirrors := by simp
  mirrorMade := by simp
  sampleNext := by simp
  sampleRead := by simp
  smpStart := by simp
  fails := by simp
  echoes := by simp
  echoGaps := by simp
  noReturn := by simp
  tiles := by simp
  tileMap := by simp
  failedTiles := by simp
  inboxes := by simp
  ctxs := by simp
  ringPass := by simp
  plans := by simp
  planFp := by simp
  groups := by simp
  wmInbox := by simp
  sets := by simp
  ehts := by simp
  expOpen := by simp
  expIn := by simp
  expWait := by simp
  atomics := by simp
  owners := by simp
  bufs := by simp
  pools := by simp
  waiters := by simp
  grants := by simp
  rowErrs := by simp
  pageErrs := by simp
  pageHeld := by simp
  pages := by simp
  sparedRows := by simp
  patrolAt := by simp
  sramAt := by simp
  refreshing := by simp
  hpActive := by simp
  hpApply := by simp
  zctWait := by simp
  flash := by simp
  bootSlots := by simp
  cert := by simp
  jorou := by simp
  ledger := by simp
  resetsDone := by simp
  captures := by simp
  scan := by simp
  hangs := by simp
  stalls := by simp
  wb := by simp

theorem State.putCandidates_only (s : State) (v : List Nat) : s.EventOnly (s.putCandidates v) where
  rd r _ := State.rd_congr (by simp) r
  mainOn := by simp
  pinHeld := by simp
  pending := by simp
  cycle := by simp
  grade := by simp
  freeCtr := by simp
  poison := by simp
  ports := by simp
  laneMap := by simp
  mapFixed := by simp
  slots := by simp
  queues := by simp
  xin := by simp
  xinLast := by simp
  heldCells := by simp
  retiredSlots := by simp
  floor := by simp
  mirrors := by simp
  mirrorMade := by simp
  sampleNext := by simp
  sampleRead := by simp
  smpStart := by simp
  fails := by simp
  echoes := by simp
  echoGaps := by simp
  noReturn := by simp
  tiles := by simp
  tileMap := by simp
  failedTiles := by simp
  inboxes := by simp
  ctxs := by simp
  ringPass := by simp
  plans := by simp
  planFp := by simp
  groups := by simp
  wmInbox := by simp
  sets := by simp
  ehts := by simp
  expOpen := by simp
  expIn := by simp
  expWait := by simp
  atomics := by simp
  owners := by simp
  bufs := by simp
  pools := by simp
  waiters := by simp
  grants := by simp
  rowErrs := by simp
  pageErrs := by simp
  pageHeld := by simp
  pages := by simp
  sparedRows := by simp
  patrolAt := by simp
  sramAt := by simp
  refreshing := by simp
  hpActive := by simp
  hpApply := by simp
  zctWait := by simp
  flash := by simp
  bootSlots := by simp
  cert := by simp
  jorou := by simp
  ledger := by simp
  resetsDone := by simp
  captures := by simp
  scan := by simp
  hangs := by simp
  stalls := by simp
  wb := by simp

theorem State.putPower_only (s : State) (v : Power) (h1 : v.mainOn = s.power.mainOn) (h2 : v.pinHeld = s.power.pinHeld) :
    s.EventOnly (s.putPower v) where
  rd r _ := State.rd_congr (by simp) r
  mainOn := by simpa using h1
  pinHeld := by simpa using h2
  pending := by simp
  cycle := by simp
  grade := by simp
  freeCtr := by simp
  poison := by simp
  ports := by simp
  laneMap := by simp
  mapFixed := by simp
  slots := by simp
  queues := by simp
  xin := by simp
  xinLast := by simp
  heldCells := by simp
  retiredSlots := by simp
  floor := by simp
  mirrors := by simp
  mirrorMade := by simp
  sampleNext := by simp
  sampleRead := by simp
  smpStart := by simp
  fails := by simp
  echoes := by simp
  echoGaps := by simp
  noReturn := by simp
  tiles := by simp
  tileMap := by simp
  failedTiles := by simp
  inboxes := by simp
  ctxs := by simp
  ringPass := by simp
  plans := by simp
  planFp := by simp
  groups := by simp
  wmInbox := by simp
  sets := by simp
  ehts := by simp
  expOpen := by simp
  expIn := by simp
  expWait := by simp
  atomics := by simp
  owners := by simp
  bufs := by simp
  pools := by simp
  waiters := by simp
  grants := by simp
  rowErrs := by simp
  pageErrs := by simp
  pageHeld := by simp
  pages := by simp
  sparedRows := by simp
  patrolAt := by simp
  sramAt := by simp
  refreshing := by simp
  hpActive := by simp
  hpApply := by simp
  zctWait := by simp
  flash := by simp
  bootSlots := by simp
  cert := by simp
  jorou := by simp
  ledger := by simp
  resetsDone := by simp
  captures := by simp
  scan := by simp
  hangs := by simp
  stalls := by simp
  wb := by simp

theorem State.store_only (s : State) (a n v : Nat) : s.EventOnly (s.store a n v) := s.putMem_only _
theorem State.emit_only (s : State) (x : Out) : s.EventOnly (s.emit x) := s.putOut_only _
theorem State.putSession_only (s : State) (k : Nat) (x : Session) : s.EventOnly (s.putSession k x) := s.putSessions_only _

/-! ### Posting and raising -/

theorem State.pins_only (s : State) : s.EventOnly s.pins := by
  unfold State.pins; dsimp only; split
  · exact .refl _
  · refine State.EventOnly.trans ?_ (State.emit_only _ _)
    exact State.putPower_only _ _ rfl rfl

theorem State.assertTray_only (s : State) : s.EventOnly s.assertTray :=
  ((s.setFld_only _ _ (.inl rfl)).trans (State.setFld_only _ _ _ (.inl rfl))).trans (State.pins_only _)

theorem State.frame_only (s : State) (o : Out) : s.EventOnly (s.frame o) := by
  unfold State.frame; split
  · exact .refl _
  · split
    · exact s.setFld_only _ _ (.inr (.inl rfl))
    · exact s.emit_only _

theorem State.sendAs_only (s : State) (k : Nat) (x : Session) (type reqId status : Nat) (body : List Byte) :
    s.EventOnly (s.sendAs k x type reqId status body) := s.frame_only _

theorem State.sendZct_only (s : State) (k type reqId status : Nat) (body : List Byte) :
    s.EventOnly (s.sendZct k type reqId status body) := by
  unfold State.sendZct; split
  · exact .refl _
  · split
    · exact (s.putSession_only _ _).trans (State.sendAs_only _ _ _ _ _ _ _)
    · exact .refl _

theorem State.queueEvent_only (s : State) (k : Nat) (x : Session) (e : Post) : s.EventOnly (s.queueEvent k x e) := by
  unfold State.queueEvent; split
  · exact (s.putSession_only _ _).trans (State.sendZct_only _ _ _ _ _ _)
  · exact (s.putSession_only _ _).trans (State.count_only _ _ (.inr (.inr rfl)))

/-- Posting an event changes nothing but sessions and what is sent. -/
theorem State.post_only (s : State) (e : Post) : s.EventOnly (s.post e) := by
  unfold State.post
  apply State.EventOnly.foldl
  intro a b; dsimp only; split
  · exact State.queueEvent_only _ _ _ _
  · exact .refl _

theorem State.postPlain_only (s : State) (kind : Nat) (ctx : Option Nat) (source code : Nat) (data : List Byte) :
    s.EventOnly (s.postPlain kind ctx source code data) := s.post_only _

theorem State.nextCapture_only (s : State) : s.EventOnly s.nextCapture := by
  unfold State.nextCapture; split
  · exact (s.putCapQ_only _).trans (State.putCapture_only _ _)
  · exact .refl _

theorem State.openCapture_only (s : State) (c : Capture) : s.EventOnly (s.openCapture c) :=
  (s.putCapQ_only _).trans (State.nextCapture_only _)

theorem State.leaveCapture_only (s : State) (c : Capture) : s.EventOnly (s.leaveCapture c) := by
  unfold State.leaveCapture; split
  · exact s.post_only _
  · exact .refl _

theorem State.dropCaptures_only (s : State) : s.EventOnly s.dropCaptures := by
  unfold State.dropCaptures
  exact (((State.EventOnly.foldl State.leaveCapture_only _ s).trans (State.putCapture_only _ _)).trans
    (State.putCapQ_only _ _)).trans (State.nextCapture_only _)

theorem State.startReset_only (s : State) (o : ResetOp) (e : Option Post) : s.EventOnly (s.startReset o e) := by
  unfold State.startReset
  exact (((s.setFld_only _ _ (.inl rfl)).trans (State.setFld_only _ _ _ (.inl rfl))).trans
    (State.putReset_only _ _)).trans (State.openCapture_only _ _)

theorem State.autoReset_only (s : State) (o : ResetOp) (e : Post) : s.EventOnly (s.autoReset o e) := by
  unfold State.autoReset; split
  · exact s.putResetQ_only _
  · exact s.startReset_only _ _

theorem State.clearBusy_only (s : State) : s.EventOnly s.clearBusy :=
  (((s.setFld_only _ _ (.inl rfl)).trans (State.setFld_only _ _ _ (.inl rfl))).trans (State.putReset_only _ _)).trans
    (State.putSelfRefresh_only _ _)

theorem State.nextReset_only (s : State) : s.EventOnly s.nextReset := by
  unfold State.nextReset; split
  · exact (s.putResetQ_only _).trans (State.startReset_only _ _ _)
  · exact .refl _

theorem State.keepResets_only (s : State) (keep : ResetOp → Bool) : s.EventOnly (s.keepResets keep) := by
  refine State.EventOnly.trans ?_ (State.putResetQ_only _ _)
  apply State.EventOnly.foldl
  intro a b; split
  · exact a.post_only _
  · exact .refl _

theorem State.countEvent_only (s : State) (e : Ev) : s.EventOnly (s.countEvent e) :=
  (s.count_only _ (.inl rfl)).trans (.also (fun s => (s.store_only _ _ _).trans (State.store_only _ _ _ _)) _ _)

theorem State.latch_only (s : State) (e : Ev) : s.EventOnly (s.latch e) := by
  unfold State.latch; dsimp only; split
  · exact ((s.wr_only _ (.inl rfl)).trans (State.wr_only _ _ (.inl rfl))).trans (State.wr_only _ _ (.inl rfl))
  · split
    · exact s.setFld_only _ _ (.inl rfl)
    · exact .refl _

theorem State.enterSafe_only (s : State) : s.EventOnly s.enterSafe := by
  unfold State.enterSafe; split
  · exact .refl _
  · exact ((s.setFld_only _ _ (.inl rfl)).trans (State.setFld_only _ _ _ (.inl rfl))).trans (State.pins_only _)

theorem State.raiseStart_only (s : State) (e : Ev) (a b : Bool) : s.EventOnly (s.raiseStart e a b) := by
  unfold State.raiseStart
  refine State.EventOnly.trans ?_ (.also (fun s => s.putHostLink_only _) _ _)
  refine State.EventOnly.trans ?_ (.also (fun s => s.enterSafe_only) _ _)
  refine State.EventOnly.trans ?_ (.also (fun s => s.setFld_only _ _ (.inl rfl)) _ _)
  refine State.EventOnly.trans ?_ (.also (fun s => .also (fun s => s.emit_only _) s _) _ _)
  exact (s.countEvent_only e).trans (State.latch_only _ e)

theorem State.fatal_only (s : State) (p : Post) : s.EventOnly (s.fatal p) := by
  unfold State.fatal
  exact (((s.dropCaptures_only.trans (State.keepResets_only _ _)).trans (State.clearBusy_only _)).trans
    (State.setFld_only _ _ _ (.inl rfl))).trans (State.openCapture_only _ _)

theorem State.abandonResets_only (s : State) : s.EventOnly s.abandonResets :=
  (State.EventOnly.also (fun s => s.dropCaptures_only.trans (State.clearBusy_only _)) _ _).trans (State.keepResets_only _ _)

theorem State.raiseWith_only (s : State) (e : Ev) (due : Option ResetOp) : s.EventOnly (s.raiseWith e due) := by
  unfold State.raiseWith
  dsimp only
  refine State.EventOnly.trans (s.raiseStart_only e (s.latches e) (decide (4 ≤ e.cls) && !e.advisory && !e.hang && !s.safe)) ?_
  split
  · exact State.fatal_only _ _
  · refine State.EventOnly.trans (.also (fun s => s.abandonResets_only) _
      (decide (4 ≤ e.cls) && !e.advisory && !e.hang && !s.safe)) ?_
    split
    · split
      · exact State.post_only _ _
      · exact State.autoReset_only _ _ _
    · split
      · exact State.openCapture_only _ _
      · exact (State.post_only _ _).trans (.also State.nextReset_only _ _)

theorem State.wearAdd_only (s : State) (t : Nat) : s.EventOnly (s.wearAdd t) := s.putWear_only _

theorem State.candidate_only (s : State) (t : Nat) (due : Option ResetOp) : s.EventOnly (s.candidate t due) := by
  unfold State.candidate
  split
  · exact .refl _
  · refine State.EventOnly.trans ?_ (State.raiseWith_only _ _ _)
    split
    · exact .refl _
    · exact s.putCandidates_only _

theorem State.octetDead_only (s : State) (n : Nat) : s.EventOnly (s.octetDead n) := s.putPower_only _ rfl rfl

theorem State.escalate_only (s : State) (o : ResetOp) : s.EventOnly (s.escalate o) := by
  unfold State.escalate
  split
  · exact .refl _
  · dsimp only
    split
    · exact State.EventOnly.trans (State.raiseWith_only _ _ _) (.foldl (fun s t => s.candidate_only t none) _ _)
    · split
      · exact State.EventOnly.trans (State.raiseWith_only _ _ _) (State.octetDead_only _ _)
      · exact State.raiseWith_only _ _ _

theorem State.wearBy_only (s : State) (e : Ev) (g : Option Nat) : s.EventOnly (s.wearBy e g) := by
  unfold State.wearBy
  dsimp only
  split
  · exact .refl _
  · exact (s.wearAdd_only _).trans (.also (fun s => s.candidate_only _ _) _ _)

/-- Raising an event changes only what an event may change. -/
theorem State.raise_only (s : State) (e : Ev) (g : Option Nat) : s.EventOnly (s.raise e g) := by
  unfold State.raise
  extract_lets again e' s'
  have h : s.EventOnly s' := (s.raiseWith_only e' none).trans (.also (fun s => s.wearBy_only e' g) _ _)
  clear_value s' e' again
  split
  · exact h.trans (State.escalate_only _ _)
  · exact h

theorem State.notice_only (s : State) (cls cause src detail qual : Nat) (ctx : Option Nat) :
    s.EventOnly (s.notice cls cause src detail qual ctx) := s.raise_only _ _

@[simp] theorem State.post_tiles (s : State) (e : Post) : (s.post e).tiles = s.tiles := (s.post_only e).tiles
@[simp] theorem State.post_ports (s : State) (e : Post) : (s.post e).ports = s.ports := (s.post_only e).ports
@[simp] theorem State.post_poison (s : State) (e : Post) : (s.post e).poison = s.poison := (s.post_only e).poison
@[simp] theorem State.post_slots (s : State) (e : Post) : (s.post e).slots = s.slots := (s.post_only e).slots
@[simp] theorem State.post_queues (s : State) (e : Post) : (s.post e).queues = s.queues := (s.post_only e).queues
@[simp] theorem State.post_ctxs (s : State) (e : Post) : (s.post e).ctxs = s.ctxs := (s.post_only e).ctxs
@[simp] theorem State.post_groups (s : State) (e : Post) : (s.post e).groups = s.groups := (s.post_only e).groups
@[simp] theorem State.post_sets (s : State) (e : Post) : (s.post e).sets = s.sets := (s.post_only e).sets
@[simp] theorem State.post_wb (s : State) (e : Post) : (s.post e).wb = s.wb := (s.post_only e).wb
@[simp] theorem State.post_cycle (s : State) (e : Post) : (s.post e).cycle = s.cycle := (s.post_only e).cycle
@[simp] theorem State.post_freeCtr (s : State) (e : Post) : (s.post e).freeCtr = s.freeCtr := (s.post_only e).freeCtr
@[simp] theorem State.post_laneMap (s : State) (e : Post) : (s.post e).laneMap = s.laneMap := (s.post_only e).laneMap
@[simp] theorem State.post_tileMap (s : State) (e : Post) : (s.post e).tileMap = s.tileMap := (s.post_only e).tileMap
@[simp] theorem State.post_pools (s : State) (e : Post) : (s.post e).pools = s.pools := (s.post_only e).pools
@[simp] theorem State.post_owners (s : State) (e : Post) : (s.post e).owners = s.owners := (s.post_only e).owners
@[simp] theorem State.post_bufs (s : State) (e : Post) : (s.post e).bufs = s.bufs := (s.post_only e).bufs
@[simp] theorem State.post_ehts (s : State) (e : Post) : (s.post e).ehts = s.ehts := (s.post_only e).ehts
@[simp] theorem State.postPlain_tiles (s : State) (kind : Nat) (ctx : Option Nat) (source code : Nat) (data : List Byte) : (s.postPlain kind ctx source code data).tiles = s.tiles := (s.postPlain_only kind ctx source code data).tiles
@[simp] theorem State.postPlain_ports (s : State) (kind : Nat) (ctx : Option Nat) (source code : Nat) (data : List Byte) : (s.postPlain kind ctx source code data).ports = s.ports := (s.postPlain_only kind ctx source code data).ports
@[simp] theorem State.postPlain_poison (s : State) (kind : Nat) (ctx : Option Nat) (source code : Nat) (data : List Byte) : (s.postPlain kind ctx source code data).poison = s.poison := (s.postPlain_only kind ctx source code data).poison
@[simp] theorem State.postPlain_slots (s : State) (kind : Nat) (ctx : Option Nat) (source code : Nat) (data : List Byte) : (s.postPlain kind ctx source code data).slots = s.slots := (s.postPlain_only kind ctx source code data).slots
@[simp] theorem State.postPlain_queues (s : State) (kind : Nat) (ctx : Option Nat) (source code : Nat) (data : List Byte) : (s.postPlain kind ctx source code data).queues = s.queues := (s.postPlain_only kind ctx source code data).queues
@[simp] theorem State.postPlain_ctxs (s : State) (kind : Nat) (ctx : Option Nat) (source code : Nat) (data : List Byte) : (s.postPlain kind ctx source code data).ctxs = s.ctxs := (s.postPlain_only kind ctx source code data).ctxs
@[simp] theorem State.postPlain_groups (s : State) (kind : Nat) (ctx : Option Nat) (source code : Nat) (data : List Byte) : (s.postPlain kind ctx source code data).groups = s.groups := (s.postPlain_only kind ctx source code data).groups
@[simp] theorem State.postPlain_sets (s : State) (kind : Nat) (ctx : Option Nat) (source code : Nat) (data : List Byte) : (s.postPlain kind ctx source code data).sets = s.sets := (s.postPlain_only kind ctx source code data).sets
@[simp] theorem State.postPlain_wb (s : State) (kind : Nat) (ctx : Option Nat) (source code : Nat) (data : List Byte) : (s.postPlain kind ctx source code data).wb = s.wb := (s.postPlain_only kind ctx source code data).wb
@[simp] theorem State.postPlain_cycle (s : State) (kind : Nat) (ctx : Option Nat) (source code : Nat) (data : List Byte) : (s.postPlain kind ctx source code data).cycle = s.cycle := (s.postPlain_only kind ctx source code data).cycle
@[simp] theorem State.postPlain_freeCtr (s : State) (kind : Nat) (ctx : Option Nat) (source code : Nat) (data : List Byte) : (s.postPlain kind ctx source code data).freeCtr = s.freeCtr := (s.postPlain_only kind ctx source code data).freeCtr
@[simp] theorem State.postPlain_laneMap (s : State) (kind : Nat) (ctx : Option Nat) (source code : Nat) (data : List Byte) : (s.postPlain kind ctx source code data).laneMap = s.laneMap := (s.postPlain_only kind ctx source code data).laneMap
@[simp] theorem State.postPlain_tileMap (s : State) (kind : Nat) (ctx : Option Nat) (source code : Nat) (data : List Byte) : (s.postPlain kind ctx source code data).tileMap = s.tileMap := (s.postPlain_only kind ctx source code data).tileMap
@[simp] theorem State.postPlain_pools (s : State) (kind : Nat) (ctx : Option Nat) (source code : Nat) (data : List Byte) : (s.postPlain kind ctx source code data).pools = s.pools := (s.postPlain_only kind ctx source code data).pools
@[simp] theorem State.postPlain_owners (s : State) (kind : Nat) (ctx : Option Nat) (source code : Nat) (data : List Byte) : (s.postPlain kind ctx source code data).owners = s.owners := (s.postPlain_only kind ctx source code data).owners
@[simp] theorem State.postPlain_bufs (s : State) (kind : Nat) (ctx : Option Nat) (source code : Nat) (data : List Byte) : (s.postPlain kind ctx source code data).bufs = s.bufs := (s.postPlain_only kind ctx source code data).bufs
@[simp] theorem State.postPlain_ehts (s : State) (kind : Nat) (ctx : Option Nat) (source code : Nat) (data : List Byte) : (s.postPlain kind ctx source code data).ehts = s.ehts := (s.postPlain_only kind ctx source code data).ehts
@[simp] theorem State.raise_tiles (s : State) (e : Ev) (g : Option Nat) : (s.raise e g).tiles = s.tiles := (s.raise_only e g).tiles
@[simp] theorem State.raise_ports (s : State) (e : Ev) (g : Option Nat) : (s.raise e g).ports = s.ports := (s.raise_only e g).ports
@[simp] theorem State.raise_poison (s : State) (e : Ev) (g : Option Nat) : (s.raise e g).poison = s.poison := (s.raise_only e g).poison
@[simp] theorem State.raise_slots (s : State) (e : Ev) (g : Option Nat) : (s.raise e g).slots = s.slots := (s.raise_only e g).slots
@[simp] theorem State.raise_queues (s : State) (e : Ev) (g : Option Nat) : (s.raise e g).queues = s.queues := (s.raise_only e g).queues
@[simp] theorem State.raise_ctxs (s : State) (e : Ev) (g : Option Nat) : (s.raise e g).ctxs = s.ctxs := (s.raise_only e g).ctxs
@[simp] theorem State.raise_groups (s : State) (e : Ev) (g : Option Nat) : (s.raise e g).groups = s.groups := (s.raise_only e g).groups
@[simp] theorem State.raise_sets (s : State) (e : Ev) (g : Option Nat) : (s.raise e g).sets = s.sets := (s.raise_only e g).sets
@[simp] theorem State.raise_wb (s : State) (e : Ev) (g : Option Nat) : (s.raise e g).wb = s.wb := (s.raise_only e g).wb
@[simp] theorem State.raise_cycle (s : State) (e : Ev) (g : Option Nat) : (s.raise e g).cycle = s.cycle := (s.raise_only e g).cycle
@[simp] theorem State.raise_freeCtr (s : State) (e : Ev) (g : Option Nat) : (s.raise e g).freeCtr = s.freeCtr := (s.raise_only e g).freeCtr
@[simp] theorem State.raise_laneMap (s : State) (e : Ev) (g : Option Nat) : (s.raise e g).laneMap = s.laneMap := (s.raise_only e g).laneMap
@[simp] theorem State.raise_tileMap (s : State) (e : Ev) (g : Option Nat) : (s.raise e g).tileMap = s.tileMap := (s.raise_only e g).tileMap
@[simp] theorem State.raise_pools (s : State) (e : Ev) (g : Option Nat) : (s.raise e g).pools = s.pools := (s.raise_only e g).pools
@[simp] theorem State.raise_owners (s : State) (e : Ev) (g : Option Nat) : (s.raise e g).owners = s.owners := (s.raise_only e g).owners
@[simp] theorem State.raise_bufs (s : State) (e : Ev) (g : Option Nat) : (s.raise e g).bufs = s.bufs := (s.raise_only e g).bufs
@[simp] theorem State.raise_ehts (s : State) (e : Ev) (g : Option Nat) : (s.raise e g).ehts = s.ehts := (s.raise_only e g).ehts
@[simp] theorem State.notice_tiles (s : State) (cls cause src detail qual : Nat) (ctx : Option Nat) : (s.notice cls cause src detail qual ctx).tiles = s.tiles := (s.notice_only cls cause src detail qual ctx).tiles
@[simp] theorem State.notice_ports (s : State) (cls cause src detail qual : Nat) (ctx : Option Nat) : (s.notice cls cause src detail qual ctx).ports = s.ports := (s.notice_only cls cause src detail qual ctx).ports
@[simp] theorem State.notice_poison (s : State) (cls cause src detail qual : Nat) (ctx : Option Nat) : (s.notice cls cause src detail qual ctx).poison = s.poison := (s.notice_only cls cause src detail qual ctx).poison
@[simp] theorem State.notice_slots (s : State) (cls cause src detail qual : Nat) (ctx : Option Nat) : (s.notice cls cause src detail qual ctx).slots = s.slots := (s.notice_only cls cause src detail qual ctx).slots
@[simp] theorem State.notice_queues (s : State) (cls cause src detail qual : Nat) (ctx : Option Nat) : (s.notice cls cause src detail qual ctx).queues = s.queues := (s.notice_only cls cause src detail qual ctx).queues
@[simp] theorem State.notice_ctxs (s : State) (cls cause src detail qual : Nat) (ctx : Option Nat) : (s.notice cls cause src detail qual ctx).ctxs = s.ctxs := (s.notice_only cls cause src detail qual ctx).ctxs
@[simp] theorem State.notice_groups (s : State) (cls cause src detail qual : Nat) (ctx : Option Nat) : (s.notice cls cause src detail qual ctx).groups = s.groups := (s.notice_only cls cause src detail qual ctx).groups
@[simp] theorem State.notice_sets (s : State) (cls cause src detail qual : Nat) (ctx : Option Nat) : (s.notice cls cause src detail qual ctx).sets = s.sets := (s.notice_only cls cause src detail qual ctx).sets
@[simp] theorem State.notice_wb (s : State) (cls cause src detail qual : Nat) (ctx : Option Nat) : (s.notice cls cause src detail qual ctx).wb = s.wb := (s.notice_only cls cause src detail qual ctx).wb
@[simp] theorem State.notice_cycle (s : State) (cls cause src detail qual : Nat) (ctx : Option Nat) : (s.notice cls cause src detail qual ctx).cycle = s.cycle := (s.notice_only cls cause src detail qual ctx).cycle
@[simp] theorem State.notice_freeCtr (s : State) (cls cause src detail qual : Nat) (ctx : Option Nat) : (s.notice cls cause src detail qual ctx).freeCtr = s.freeCtr := (s.notice_only cls cause src detail qual ctx).freeCtr
@[simp] theorem State.notice_laneMap (s : State) (cls cause src detail qual : Nat) (ctx : Option Nat) : (s.notice cls cause src detail qual ctx).laneMap = s.laneMap := (s.notice_only cls cause src detail qual ctx).laneMap
@[simp] theorem State.notice_tileMap (s : State) (cls cause src detail qual : Nat) (ctx : Option Nat) : (s.notice cls cause src detail qual ctx).tileMap = s.tileMap := (s.notice_only cls cause src detail qual ctx).tileMap
@[simp] theorem State.notice_pools (s : State) (cls cause src detail qual : Nat) (ctx : Option Nat) : (s.notice cls cause src detail qual ctx).pools = s.pools := (s.notice_only cls cause src detail qual ctx).pools
@[simp] theorem State.notice_owners (s : State) (cls cause src detail qual : Nat) (ctx : Option Nat) : (s.notice cls cause src detail qual ctx).owners = s.owners := (s.notice_only cls cause src detail qual ctx).owners
@[simp] theorem State.notice_bufs (s : State) (cls cause src detail qual : Nat) (ctx : Option Nat) : (s.notice cls cause src detail qual ctx).bufs = s.bufs := (s.notice_only cls cause src detail qual ctx).bufs
@[simp] theorem State.notice_ehts (s : State) (cls cause src detail qual : Nat) (ctx : Option Nat) : (s.notice cls cause src detail qual ctx).ehts = s.ehts := (s.notice_only cls cause src detail qual ctx).ehts
@[simp] theorem State.pins_tiles (s : State)  : (s.pins ).tiles = s.tiles := (s.pins_only ).tiles
@[simp] theorem State.pins_ports (s : State)  : (s.pins ).ports = s.ports := (s.pins_only ).ports
@[simp] theorem State.pins_poison (s : State)  : (s.pins ).poison = s.poison := (s.pins_only ).poison
@[simp] theorem State.pins_slots (s : State)  : (s.pins ).slots = s.slots := (s.pins_only ).slots
@[simp] theorem State.pins_queues (s : State)  : (s.pins ).queues = s.queues := (s.pins_only ).queues
@[simp] theorem State.pins_ctxs (s : State)  : (s.pins ).ctxs = s.ctxs := (s.pins_only ).ctxs
@[simp] theorem State.pins_groups (s : State)  : (s.pins ).groups = s.groups := (s.pins_only ).groups
@[simp] theorem State.pins_sets (s : State)  : (s.pins ).sets = s.sets := (s.pins_only ).sets
@[simp] theorem State.pins_wb (s : State)  : (s.pins ).wb = s.wb := (s.pins_only ).wb
@[simp] theorem State.pins_cycle (s : State)  : (s.pins ).cycle = s.cycle := (s.pins_only ).cycle
@[simp] theorem State.pins_freeCtr (s : State)  : (s.pins ).freeCtr = s.freeCtr := (s.pins_only ).freeCtr
@[simp] theorem State.pins_laneMap (s : State)  : (s.pins ).laneMap = s.laneMap := (s.pins_only ).laneMap
@[simp] theorem State.pins_tileMap (s : State)  : (s.pins ).tileMap = s.tileMap := (s.pins_only ).tileMap
@[simp] theorem State.pins_pools (s : State)  : (s.pins ).pools = s.pools := (s.pins_only ).pools
@[simp] theorem State.pins_owners (s : State)  : (s.pins ).owners = s.owners := (s.pins_only ).owners
@[simp] theorem State.pins_bufs (s : State)  : (s.pins ).bufs = s.bufs := (s.pins_only ).bufs
@[simp] theorem State.pins_ehts (s : State)  : (s.pins ).ehts = s.ehts := (s.pins_only ).ehts
@[simp] theorem State.raiseWith_tiles (s : State) (e : Ev) (d : Option ResetOp) : (s.raiseWith e d).tiles = s.tiles := (s.raiseWith_only e d).tiles
@[simp] theorem State.raiseWith_ports (s : State) (e : Ev) (d : Option ResetOp) : (s.raiseWith e d).ports = s.ports := (s.raiseWith_only e d).ports
@[simp] theorem State.raiseWith_poison (s : State) (e : Ev) (d : Option ResetOp) : (s.raiseWith e d).poison = s.poison := (s.raiseWith_only e d).poison
@[simp] theorem State.raiseWith_slots (s : State) (e : Ev) (d : Option ResetOp) : (s.raiseWith e d).slots = s.slots := (s.raiseWith_only e d).slots
@[simp] theorem State.raiseWith_queues (s : State) (e : Ev) (d : Option ResetOp) : (s.raiseWith e d).queues = s.queues := (s.raiseWith_only e d).queues
@[simp] theorem State.raiseWith_ctxs (s : State) (e : Ev) (d : Option ResetOp) : (s.raiseWith e d).ctxs = s.ctxs := (s.raiseWith_only e d).ctxs
@[simp] theorem State.raiseWith_groups (s : State) (e : Ev) (d : Option ResetOp) : (s.raiseWith e d).groups = s.groups := (s.raiseWith_only e d).groups
@[simp] theorem State.raiseWith_sets (s : State) (e : Ev) (d : Option ResetOp) : (s.raiseWith e d).sets = s.sets := (s.raiseWith_only e d).sets
@[simp] theorem State.raiseWith_wb (s : State) (e : Ev) (d : Option ResetOp) : (s.raiseWith e d).wb = s.wb := (s.raiseWith_only e d).wb
@[simp] theorem State.raiseWith_cycle (s : State) (e : Ev) (d : Option ResetOp) : (s.raiseWith e d).cycle = s.cycle := (s.raiseWith_only e d).cycle
@[simp] theorem State.raiseWith_freeCtr (s : State) (e : Ev) (d : Option ResetOp) : (s.raiseWith e d).freeCtr = s.freeCtr := (s.raiseWith_only e d).freeCtr
@[simp] theorem State.raiseWith_laneMap (s : State) (e : Ev) (d : Option ResetOp) : (s.raiseWith e d).laneMap = s.laneMap := (s.raiseWith_only e d).laneMap
@[simp] theorem State.raiseWith_tileMap (s : State) (e : Ev) (d : Option ResetOp) : (s.raiseWith e d).tileMap = s.tileMap := (s.raiseWith_only e d).tileMap
@[simp] theorem State.raiseWith_pools (s : State) (e : Ev) (d : Option ResetOp) : (s.raiseWith e d).pools = s.pools := (s.raiseWith_only e d).pools
@[simp] theorem State.raiseWith_owners (s : State) (e : Ev) (d : Option ResetOp) : (s.raiseWith e d).owners = s.owners := (s.raiseWith_only e d).owners
@[simp] theorem State.raiseWith_bufs (s : State) (e : Ev) (d : Option ResetOp) : (s.raiseWith e d).bufs = s.bufs := (s.raiseWith_only e d).bufs
@[simp] theorem State.raiseWith_ehts (s : State) (e : Ev) (d : Option ResetOp) : (s.raiseWith e d).ehts = s.ehts := (s.raiseWith_only e d).ehts

end Sys2Proof.Machine
end

