-- ==== Sys2Proof/Laws/Tile.lean ====
section
/-! SUPPORT. Sys2Proof/Laws/Tile.lean: everything that follows an instruction leaves the registers of running threads as
they were. -/

namespace Sys2Proof.Machine

/-! ### Threads that do not wait -/

/-- A thread that does not wait keeps its registers and its program counter, and still does not wait. -/
def Thread.Kept (y y' : Thread) : Prop :=
  y.st ≠ .wait → y'.st ≠ .wait ∧ y'.s = y.s ∧ y'.v = y.v ∧ y'.m = y.m ∧ y'.pc = y.pc

theorem Thread.Kept.refl (y : Thread) : y.Kept y := fun h => ⟨h, rfl, rfl, rfl, rfl⟩
theorem Thread.Kept.trans {a b c : Thread} (h1 : a.Kept b) (h2 : b.Kept c) : a.Kept c := fun h =>
  have ⟨x, p, q, r, t⟩ := h1 h
  have ⟨x', p', q', r', t'⟩ := h2 x
  ⟨x', p'.trans p, q'.trans q, r'.trans r, t'.trans t⟩

/-- Every thread of a tile keeps. -/
def Tile.Kept (x x' : Tile) : Prop := ∀ h, (x.thread h).Kept (x'.thread h)

theorem Tile.Kept.refl (x : Tile) : x.Kept x := fun _ => .refl _
theorem Tile.Kept.trans {a b c : Tile} (h1 : a.Kept b) (h2 : b.Kept c) : a.Kept c := fun h => (h1 h).trans (h2 h)
theorem Tile.Kept.of_threads {x x' : Tile} (h : x'.threads = x.threads) : x.Kept x' := by
  intro k; simp only [Tile.thread, h]; exact .refl _

theorem Tile.thread_setThread_other (x : Tile) {h k : Nat} (y : Thread) (hk : h ≠ k) :
    (x.setThread h y).thread k = x.thread k := by
  simp [Tile.thread, Tile.setThread, Table.get_set, hk]

theorem Tile.Kept.setThread {x : Tile} {h : Nat} {y : Thread} (hy : (x.thread h).Kept y) : x.Kept (x.setThread h y) := by
  intro k
  by_cases hk : h = k
  · subst hk; simpa using hy
  · rw [Tile.thread_setThread_other x y hk]; exact .refl _

theorem Tile.Kept.foldl {β : Type} {f : Tile → β → Tile} (h : ∀ (x : Tile) b, x.Kept (f x b)) (l : List β) (x : Tile) :
    x.Kept (l.foldl f x) := by
  induction l generalizing x with
  | nil => exact .refl _
  | cons b l ih => exact (h x b).trans (ih _)

@[simp] theorem Tile.unhold_thread (x : Tile) (h : Nat) : x.unhold.thread h = x.thread h := (rfl)
theorem Tile.unhold_kept (x : Tile) : x.Kept x.unhold := .of_threads rfl

theorem Tile.leave_kept (x : Tile) (h : Nat) : x.Kept (x.leave h) := by
  have key : ∀ (x' : Tile), x'.threads = x.threads → x.Kept x' := fun x' e => .of_threads e
  unfold Tile.leave
  dsimp only
  split
  · refine (key x.wasHeld rfl).trans (Tile.Kept.setThread ?_)
    intro hw
    exact ⟨by simp, rfl, rfl, rfl, rfl⟩
  · exact .refl _

theorem Tile.waitOver_waits {x : Tile} {h : Nat} {b : Bool} (hb : x.waitOver h = some b) : (x.thread h).st = .wait := by
  by_contra hn
  have : x.waitOf h = .none := by simp [Tile.waitOf, hn]
  simp [Tile.waitOver, this] at hb

theorem Thread.Kept.of_wait {y y' : Thread} (h : y.st = .wait) : y.Kept y' := fun hn => absurd h hn

/-- Every thread of tile `t` keeps from `s` to `s'`. -/
def State.Kept (t : Nat) (s s' : State) : Prop := (s.tile t).Kept (s'.tile t)

theorem State.Kept.refl {t : Nat} (s : State) : s.Kept t s := Tile.Kept.refl _
theorem State.Kept.trans {t : Nat} {a b c : State} (h1 : a.Kept t b) (h2 : b.Kept t c) : a.Kept t c := Tile.Kept.trans h1 h2
theorem State.Kept.of_tiles {t : Nat} {s s' : State} (h : s'.tiles = s.tiles) : s.Kept t s' := by
  unfold State.Kept State.tile; rw [h]; exact .refl _
theorem State.Kept.foldl {β : Type} {t : Nat} {f : State → β → State} (h : ∀ (s : State) b, s.Kept t (f s b)) (l : List β)
    (s : State) : s.Kept t (l.foldl f s) := by
  induction l generalizing s with
  | nil => exact .refl _
  | cons b l ih => exact (h s b).trans (ih _)
theorem State.Kept.modTile {t u : Nat} {s : State} {f : Tile → Tile} (h : ∀ (x : Tile), x.Kept (f x)) : s.Kept t (s.modTile u f) := by
  unfold State.Kept
  by_cases hu : u = t
  · subst hu; rw [State.tile_modTile]; exact h _
  · rw [State.modTile, State.tile_setTile_other _ _ hu]; exact .refl _

theorem State.semGrant_kept (s : State) (t h : Nat) : s.Kept t (s.semGrant t h) := by
  unfold State.semGrant
  split
  · rename_i a n hw
    have hst : ((s.tile t).thread h).st = .wait := by
      by_contra hn; simp [Tile.waitOf, hn] at hw
    split
    · exact .refl _
    · unfold State.Kept State.modThread
      rw [State.tile_modTile]
      have e : (s.store a 8 (s.load a 8 - n)).tile t = s.tile t := by simp [State.tile]
      rw [e]
      exact Tile.Kept.setThread (.of_wait hst)
  · exact .refl _

theorem State.takeGrant_kept (s : State) (t h : Nat) : s.Kept t (s.takeGrant t h) := by
  unfold State.takeGrant
  split
  · rename_i d w r hw hq
    have hst : ((s.tile t).thread h).st = .wait := by
      by_contra hn; simp [Tile.waitOf, hn] at hw
    unfold State.Kept
    rw [State.tile_modTile]
    refine Tile.Kept.trans (b := { (s.tile t).setEntry (descEntry w) { (s.tile t).entry (descEntry w) with
      st := .taken, takenBy := some h, takenAt := (s.tile t).takeCount } with
      cq := r, takeCount := (s.tile t).takeCount + 1 }) (.of_threads rfl) ?_
    exact Tile.Kept.setThread (.of_wait hst)
  · exact .refl _

theorem Tile.endWait_kept (x : Tile) (h : Nat) : x.Kept (x.endWait h) := by
  unfold Tile.endWait
  split
  · rename_i hb; exact Tile.Kept.setThread (.of_wait (Tile.waitOver_waits hb))
  · rename_i hb; exact Tile.Kept.setThread (.of_wait (Tile.waitOver_waits hb))
  · exact .refl _

theorem State.settleOnce_kept (s : State) (t : Nat) : s.Kept t (s.settleOnce t) := by
  have h1 : s.Kept t (s.leaveAll t) := .modTile fun x => x.unhold_kept.trans (.foldl Tile.leave_kept _ _)
  have h2 : (s.leaveAll t).Kept t ((s.leaveAll t).endWaits t) := .modTile fun x => .foldl Tile.endWait_kept _ x
  have h3 : ((s.leaveAll t).endWaits t).Kept t (((s.leaveAll t).endWaits t).semGrants t) :=
    .foldl (fun s h => s.semGrant_kept t h) _ _
  unfold State.settleOnce
  split
  · exact h1
  · exact ((h1.trans h2).trans h3).trans (.foldl (fun s h => s.takeGrant_kept t h) _ _)

@[simp] theorem State.endSets_tiles (s : State) : s.endSets.tiles = s.tiles := by
  unfold State.endSets
  apply foldl_keep State.tiles
  intro a b; unfold State.endSet; split <;> simp

theorem State.settle_kept (s : State) (t : Nat) : s.Kept t (s.settle t) :=
  (s.settleOnce_kept t).trans (.of_tiles (State.endSets_tiles _))

theorem State.faultLatch_kept (s : State) (u t h cause pc acc : Nat) : s.Kept u (s.faultLatch t h cause pc acc) := by
  unfold State.faultLatch
  extract_lets valid v
  have ovf : s.Kept u v := by
    simp only [v, State.also]
    split
    · exact .of_tiles (State.setFld_tiles ..)
    · exact .refl _
  generalize v = w at ovf
  split
  · exact ovf
  · refine ovf.trans (State.Kept.trans (b := (w.wr (TILE_FAULT t) _).wr (TILE_FAULT_PC t) _) (.of_tiles ?_)
      (.modTile fun x => .of_threads rfl))
    rw [State.wr_tiles, State.wr_tiles]
@[simp] theorem State.faultEvent_tiles (s : State) (t h cause pc ctx acc : Nat) :
    (s.faultEvent t h cause pc ctx acc).tiles = s.tiles := by
  unfold State.faultEvent; split <;> simp

/-- A fault stops its thread: no thread's registers or program counter change. -/
theorem State.threadFault_kept (s : State) (t h cause pc acc : Nat) : s.Kept t (s.threadFault t h cause pc acc) := by
  unfold State.threadFault
  refine .trans ?_ (State.settle_kept _ t)
  refine .trans ?_ (.of_tiles (State.faultEvent_tiles ..))
  refine .trans (s.faultLatch_kept t t h cause pc acc) ?_
  exact .modTile fun x => Tile.Kept.setThread fun _ => ⟨by simp, rfl, rfl, rfl, rfl⟩

theorem State.lateFault_kept (s : State) (t h : Nat) (st : RspStatus) (pc : Nat) : s.Kept t (s.lateFault t h st pc) := by
  unfold State.lateFault
  dsimp only
  split
  · exact .refl _
  · exact State.threadFault_kept _ _ _ _ _ _

theorem State.fetch_kept (s : State) (t h : Nat) : s.Kept t (s.fetch t h) := by
  unfold State.fetch
  dsimp only
  split
  · exact State.threadFault_kept _ _ _ _ _ _
  · exact .refl _

@[simp] theorem State.inject_tiles (s : State) (input v : Nat) (item : Item) : (s.inject input v item).tiles = s.tiles := by
  simp [State.inject]

theorem State.Kept.modTile_threads {t u : Nat} (s : State) (f : Tile → Tile) (h : ∀ x, (f x).threads = x.threads) :
    s.Kept t (s.modTile u f) := .modTile fun x => .of_threads (h x)

theorem State.request_kept (s : State) (t h pc addr : Nat) (k : ReqKind) (w : Want) : s.Kept t (s.request t h pc addr k w) := by
  unfold State.request
  dsimp only
  exact State.Kept.trans (.modTile_threads s (fun x => x.addOutst h pc w) fun _ => rfl) (.of_tiles (State.inject_tiles _ _ _ _))

@[simp] theorem Tile.ccSet_threads (x : Tile) (c n : Nat) : (x.ccSet c n).threads = x.threads := (rfl)
@[simp] theorem Tile.ccSub_threads (x : Tile) (c n : Nat) : (x.ccSub c n).threads = x.threads := by
  unfold Tile.ccSub; exact Tile.ccSet_threads _ _ _

@[simp] theorem Tile.putStreams_threads (x : Tile) (l : List Stream) : (x.putStreams l).threads = x.threads := (rfl)
@[simp] theorem Tile.dropStream_threads (x : Tile) (r : Stream) : (x.dropStream r).threads = x.threads := by
  unfold Tile.dropStream; rw [Tile.putStreams_threads, Tile.ccSub_threads]
@[simp] theorem Tile.lineDone_threads (x : Tile) (r : Stream) : (x.lineDone r).threads = x.threads := by
  unfold Tile.lineDone; rw [Tile.putStreams_threads, Tile.ccSub_threads]

theorem State.streamFail_kept (s : State) (t : Nat) (r : Stream) (st : RspStatus) : s.Kept t (s.streamFail t r st) := by
  unfold State.streamFail
  refine State.Kept.trans ?_ (State.settle_kept _ t)
  exact State.Kept.trans (.modTile_threads s (fun x => x.dropStream r) fun x => x.dropStream_threads r)
    (State.lateFault_kept _ _ _ _ _)

theorem State.streamDone_kept (s : State) (t id : Nat) : s.Kept t (s.streamDone t id) := by
  unfold State.streamDone
  split
  · exact .refl _
  · exact .modTile_threads s _ fun x => x.lineDone_threads _

@[simp] theorem State.ueRead_tiles (s : State) (a : Nat) : (s.ueRead a).tiles = s.tiles := by
  unfold State.ueRead; split <;> simp

theorem State.streamLine_kept (s : State) (t : Nat) (r : Stream) : s.Kept t (s.streamLine t r) := by
  unfold State.streamLine
  dsimp only
  have h : s.Kept t (s.streamIssued t r.id) := .modTile_threads s _ fun _ => rfl
  refine h.trans ?_
  generalize s.streamIssued t r.id = u
  split
  · exact State.streamFail_kept _ _ _ _
  · split
    · split
      · exact State.streamFail_kept _ _ _ _
      · split
        · split
          · exact .trans (.of_tiles (State.ueRead_tiles ..)) (State.streamFail_kept _ _ _ _)
          · exact .trans (.of_tiles (State.put_tiles ..)) (State.streamDone_kept _ _ _)
        · exact State.request_kept _ _ _ _ _ _ _
    · split
      · exact .trans (.of_tiles (State.ueRead_tiles ..)) (State.streamFail_kept _ _ _ _)
      · split
        · split
          · exact State.streamFail_kept _ _ _ _
          · exact .trans (.of_tiles (State.put_tiles ..)) (State.streamDone_kept _ _ _)
        · exact State.request_kept _ _ _ _ _ _ _

theorem State.pump_kept (fuel : Nat) (s : State) (t : Nat) : s.Kept t (State.pump fuel s t) := by
  induction fuel generalizing s with
  | zero => exact .refl _
  | succ n ih =>
    unfold State.pump
    split
    · split
      · exact (State.streamLine_kept _ _ _).trans (ih _)
      · exact .refl _
    · exact .refl _

/-- What follows an instruction leaves every thread that does not wait with its registers and its program counter. -/
theorem State.run_kept (s : State) (t : Nat) : s.Kept t (s.run t) := by
  refine State.Kept.trans ?_ (State.settle_kept _ t)
  split
  · exact .refl _
  · exact State.pump_kept _ s t

end Sys2Proof.Machine
end

