-- ==== Sys2Proof/Laws/Issue.lean ====
section
/-! SUPPORT. Sys2Proof/Laws/Issue.lean: what an instruction that a ready thread issues does, once for all instructions. -/

namespace Sys2Proof.Machine

/-- A command whose effect is `t` completes, and what holds of the committed effect holds of the next state. -/
theorem gives_ok {i : Instr} {s t : State} {P : State → Prop} (h : exec i s = ok s t) (hp : P (s.commit t)) : Gives i s P :=
  ⟨s.commit t, h, hp⟩

@[simp] theorem State.thread_commit (s u : State) (t h : Nat) : (s.commit u).thread t h = u.thread t h := by
  simp [State.thread, State.tile]

/-- An instruction that a ready thread issues, legal and with valid registers, does what it does at issue. -/
theorem State.issue_ready {s : State} {t h : Nat} (r : s.Ready t h) (unit : Nat) (legal : Bool) (ss vs : List Nat)
    (body : State → Thread → Issue) (hl : legal = true) (hv : s.Valid t h ss vs) :
    s.issue t h unit legal ss vs body =
      (body ((s.cacheAt t (s.thread t h).pc.toNat).unitTook t h unit) (s.thread t h)).done
        ((s.cacheAt t (s.thread t h).pc.toNat).unitTook t h unit) t h (s.thread t h).pc.toNat := by
  have hs1 : (ss.any fun r => (s.thread t h).busyS.contains r) = false := by
    simp only [List.any_eq_false, List.contains_eq_mem, decide_eq_true_eq]
    exact hv.1
  have hv1 : (vs.any fun r => (s.thread t h).busyV.contains r) = false := by
    simp only [List.any_eq_false, List.contains_eq_mem, decide_eq_true_eq]
    exact hv.2
  unfold State.issue
  simp only [r.on, r.bound, r.free, r.run, r.own, r.aligned, r.clean, r.known, hl, hs1, hv1]
  simp

/-- The state in which an instruction does what it does has the threads of the state before. -/
@[simp] theorem State.thread_issued (s : State) (t h pc unit k : Nat) :
    ((s.cacheAt t pc).unitTook t h unit).thread t k = s.thread t k := by
  unfold State.unitTook State.cacheAt State.thread
  rw [State.tile_modTile, State.tile_modTile]
  simp [Tile.thread, Tile.cached]
  split <;> rfl

/-- After a fetch and everything that follows, a thread that ran has its registers and its program counter. -/
theorem State.after_kept (s : State) (t h : Nat) (hr : (s.thread t h).st ≠ .wait) :
    (((s.fetch t h).run t).thread t h).s = (s.thread t h).s ∧ (((s.fetch t h).run t).thread t h).v = (s.thread t h).v ∧
      (((s.fetch t h).run t).thread t h).m = (s.thread t h).m ∧ (((s.fetch t h).run t).thread t h).pc = (s.thread t h).pc := by
  have hk := ((State.fetch_kept s t h).trans (State.run_kept _ t)) h
  obtain ⟨-, a, b, c, d⟩ := hk hr
  exact ⟨a, b, c, d⟩

/-- What a completed instruction leaves in its thread: the registers its effect `u` gave it, and the next PC. -/
theorem Issue.next_thread (u s : State) (t h pc : Nat) (hr : (u.thread t h).st ≠ .wait) :
    (((Issue.next u).done s t h pc).thread t h).s = (u.thread t h).s ∧
      (((Issue.next u).done s t h pc).thread t h).v = (u.thread t h).v ∧
      (((Issue.next u).done s t h pc).thread t h).m = (u.thread t h).m ∧
      (((Issue.next u).done s t h pc).thread t h).pc = (u.thread t h).pc + 8 := by
  unfold Issue.done
  have := State.after_kept (u.modThread t h Thread.advance) t h (by simpa [Thread.advance] using hr)
  simpa [Thread.advance] using this

theorem Issue.jump_thread (u s : State) (t h pc : Nat) (p : Word) (hr : (u.thread t h).st ≠ .wait) :
    (((Issue.jump u p).done s t h pc).thread t h).s = (u.thread t h).s ∧
      (((Issue.jump u p).done s t h pc).thread t h).v = (u.thread t h).v ∧
      (((Issue.jump u p).done s t h pc).thread t h).m = (u.thread t h).m ∧
      (((Issue.jump u p).done s t h pc).thread t h).pc = p := by
  unfold Issue.done
  have := State.after_kept (u.modThread t h fun y => { y with pc := p, issued := y.issued + 1 }) t h (by simpa using hr)
  simpa using this

/-! ### Registers of a thread -/

theorem Thread.getS_setS (x : Thread) (d r : Nat) (v : Word) :
    (x.setS d v).getS r = if r = 0 then 0 else if r = d then v else x.getS r := by
  unfold Thread.getS Thread.setS
  by_cases hr : r = 0
  · simp [hr]
  · by_cases hd : d = 0
    · have : ¬ r = d := fun e => hr (e.trans hd)
      simp [hr, hd]
    · by_cases e : r = d
      · subst e; simp [hr]
      · simp only [if_neg hr, if_neg hd, if_neg e]
        exact Table.get_set_other _ _ _ _ _ _ (fun h => e h.symm)

theorem Thread.getV_setV (x : Thread) (d r : Nat) (v : VReg) : (x.setV d v).getV r = if r = d then v else x.getV r := by
  unfold Thread.getV Thread.setV
  by_cases e : r = d
  · subst e; simp
  · simp only [if_neg e]; exact Table.get_set_other _ _ _ _ _ _ (fun h => e h.symm)

theorem Thread.getM_setM (x : Thread) (d r : Nat) (v : MReg) :
    (x.setM d v).getM r = if r = 0 then BitVec.allOnes 256 else if r = d then v else x.getM r := by
  unfold Thread.getM Thread.setM
  by_cases hr : r = 0
  · simp [hr]
  · by_cases hd : d = 0
    · simp [hr, hd]
    · by_cases e : r = d
      · subst e; simp [hr]
      · simp only [if_neg hr, if_neg hd, if_neg e]
        exact Table.get_set_other _ _ _ _ _ _ (fun h => e h.symm)

@[simp] theorem Thread.setS_fields (x : Thread) (d : Nat) (v : Word) :
    (x.setS d v).v = x.v ∧ (x.setS d v).m = x.m ∧ (x.setS d v).pc = x.pc ∧ (x.setS d v).st = x.st := by
  unfold Thread.setS; split <;> exact ⟨rfl, rfl, rfl, rfl⟩
@[simp] theorem Thread.setV_fields (x : Thread) (d : Nat) (v : VReg) :
    (x.setV d v).s = x.s ∧ (x.setV d v).m = x.m ∧ (x.setV d v).pc = x.pc ∧ (x.setV d v).st = x.st := ⟨rfl, rfl, rfl, rfl⟩
@[simp] theorem Thread.setM_fields (x : Thread) (d : Nat) (v : MReg) :
    (x.setM d v).s = x.s ∧ (x.setM d v).v = x.v ∧ (x.setM d v).pc = x.pc ∧ (x.setM d v).st = x.st := by
  unfold Thread.setM; split <;> exact ⟨rfl, rfl, rfl, rfl⟩

theorem Thread.getS_congr {x y : Thread} (h : x.s = y.s) (r : Nat) : x.getS r = y.getS r := by simp [Thread.getS, h]
theorem Thread.getV_congr {x y : Thread} (h : x.v = y.v) (r : Nat) : x.getV r = y.getV r := by simp [Thread.getV, h]
theorem Thread.getM_congr {x y : Thread} (h : x.m = y.m) (r : Nat) : x.getM r = y.getM r := by simp [Thread.getM, h]

/-! ### Instructions that write one register -/

section
variable {s : State} {t h : Nat}

/-- An instruction whose effect is to give scalar register `d` the value `v`. -/
theorem State.Ready.gotS (r : s.Ready t h) {unit : Nat} {legal : Bool} {ss vs : List Nat} {body : State → Thread → Issue}
    (hl : legal = true) (hv : s.Valid t h ss vs) {d : Nat} {v : Word} {u : State}
    (hb : body ((s.cacheAt t (s.thread t h).pc.toNat).unitTook t h unit) (s.thread t h) = .next u)
    (hu : u.thread t h = (s.thread t h).setS d v) :
    s.GotS (s.commit (s.issue t h unit legal ss vs body)) t h d v ((s.thread t h).pc + 8) := by
  rw [State.issue_ready r unit legal ss vs body hl hv, hb]
  have hst : (u.thread t h).st ≠ .wait := by rw [hu, (Thread.setS_fields _ d v).2.2.2, r.run]; simp
  obtain ⟨a, b, c, e⟩ := Issue.next_thread u ((s.cacheAt t (s.thread t h).pc.toNat).unitTook t h unit) t h
    (s.thread t h).pc.toNat hst
  rw [hu] at a b c e
  unfold State.GotS
  simp only [State.thread_commit]
  refine ⟨?_, fun k hk => ?_, fun k => ?_, fun k => ?_, ?_⟩
  · rw [Thread.getS_congr a, Thread.getS_setS]; simp
  · rw [Thread.getS_congr a, Thread.getS_setS, if_neg hk]
    split
    · simp [Thread.getS, *]
    · rfl
  · exact Thread.getV_congr (b.trans (Thread.setS_fields _ d v).1) k
  · exact Thread.getM_congr (c.trans (Thread.setS_fields _ d v).2.1) k
  · rw [e, (Thread.setS_fields _ d v).2.2.1]

/-- An instruction whose effect is to give vector register `d` the value `v`. -/
theorem State.Ready.gotV (r : s.Ready t h) {unit : Nat} {legal : Bool} {ss vs : List Nat} {body : State → Thread → Issue}
    (hl : legal = true) (hv : s.Valid t h ss vs) {d : Nat} {v : VReg} {u : State}
    (hb : body ((s.cacheAt t (s.thread t h).pc.toNat).unitTook t h unit) (s.thread t h) = .next u)
    (hu : u.thread t h = (s.thread t h).setV d v) :
    s.GotV (s.commit (s.issue t h unit legal ss vs body)) t h d v := by
  rw [State.issue_ready r unit legal ss vs body hl hv, hb]
  have hst : (u.thread t h).st ≠ .wait := by rw [hu, (Thread.setV_fields _ d v).2.2.2, r.run]; simp
  obtain ⟨a, b, c, e⟩ := Issue.next_thread u ((s.cacheAt t (s.thread t h).pc.toNat).unitTook t h unit) t h
    (s.thread t h).pc.toNat hst
  rw [hu] at a b c e
  unfold State.GotV
  simp only [State.thread_commit]
  refine ⟨?_, fun k hk => ?_, fun k => ?_, fun k => ?_, ?_⟩
  · rw [Thread.getV_congr b, Thread.getV_setV]; simp
  · rw [Thread.getV_congr b, Thread.getV_setV, if_neg hk]
  · exact Thread.getS_congr (a.trans (Thread.setV_fields _ d v).1) k
  · exact Thread.getM_congr (c.trans (Thread.setV_fields _ d v).2.1) k
  · rw [e, (Thread.setV_fields _ d v).2.2.1]

/-- An instruction whose effect is to give mask register `d` the value `v`. -/
theorem State.Ready.gotM (r : s.Ready t h) {unit : Nat} {legal : Bool} {ss vs : List Nat} {body : State → Thread → Issue}
    (hl : legal = true) (hv : s.Valid t h ss vs) {d : Nat} {v : MReg} {u : State}
    (hb : body ((s.cacheAt t (s.thread t h).pc.toNat).unitTook t h unit) (s.thread t h) = .next u)
    (hu : u.thread t h = (s.thread t h).setM d v) :
    s.GotM (s.commit (s.issue t h unit legal ss vs body)) t h d v := by
  rw [State.issue_ready r unit legal ss vs body hl hv, hb]
  have hst : (u.thread t h).st ≠ .wait := by rw [hu, (Thread.setM_fields _ d v).2.2.2, r.run]; simp
  obtain ⟨a, b, c, e⟩ := Issue.next_thread u ((s.cacheAt t (s.thread t h).pc.toNat).unitTook t h unit) t h
    (s.thread t h).pc.toNat hst
  rw [hu] at a b c e
  unfold State.GotM
  simp only [State.thread_commit]
  refine ⟨?_, fun k hk => ?_, fun k => ?_, fun k => ?_, ?_⟩
  · rw [Thread.getM_congr c, Thread.getM_setM]; simp
  · rw [Thread.getM_congr c, Thread.getM_setM, if_neg hk]
    split
    · simp [Thread.getM, *]
    · rfl
  · exact Thread.getS_congr (a.trans (Thread.setM_fields _ d v).1) k
  · exact Thread.getV_congr (b.trans (Thread.setM_fields _ d v).2.1) k
  · rw [e, (Thread.setM_fields _ d v).2.2.1]

/-- An instruction that writes no register of its thread. -/
theorem State.Ready.gotNone (r : s.Ready t h) {unit : Nat} {legal : Bool} {ss vs : List Nat}
    {body : State → Thread → Issue} (hl : legal = true) (hv : s.Valid t h ss vs) {u : State}
    (hb : body ((s.cacheAt t (s.thread t h).pc.toNat).unitTook t h unit) (s.thread t h) = .next u)
    (hu : u.thread t h = s.thread t h) :
    s.GotNone (s.commit (s.issue t h unit legal ss vs body)) t h ((s.thread t h).pc + 8) := by
  rw [State.issue_ready r unit legal ss vs body hl hv, hb]
  have hst : (u.thread t h).st ≠ .wait := by rw [hu, r.run]; simp
  obtain ⟨a, b, c, e⟩ := Issue.next_thread u ((s.cacheAt t (s.thread t h).pc.toNat).unitTook t h unit) t h
    (s.thread t h).pc.toNat hst
  rw [hu] at a b c e
  unfold State.GotNone
  simp only [State.thread_commit]
  exact ⟨Thread.getS_congr a, Thread.getV_congr b, Thread.getM_congr c, e⟩

/-- An instruction that goes to `p` and gives scalar register `d` the value `v`. -/
theorem State.Ready.jumpS (r : s.Ready t h) {unit : Nat} {legal : Bool} {ss vs : List Nat} {body : State → Thread → Issue}
    (hl : legal = true) (hv : s.Valid t h ss vs) {d : Nat} {v p : Word} {u : State}
    (hb : body ((s.cacheAt t (s.thread t h).pc.toNat).unitTook t h unit) (s.thread t h) = .jump u p)
    (hu : u.thread t h = (s.thread t h).setS d v) :
    s.GotS (s.commit (s.issue t h unit legal ss vs body)) t h d v p := by
  rw [State.issue_ready r unit legal ss vs body hl hv, hb]
  have hst : (u.thread t h).st ≠ .wait := by rw [hu, (Thread.setS_fields _ d v).2.2.2, r.run]; simp
  obtain ⟨a, b, c, e⟩ := Issue.jump_thread u ((s.cacheAt t (s.thread t h).pc.toNat).unitTook t h unit) t h
    (s.thread t h).pc.toNat p hst
  rw [hu] at a b c
  unfold State.GotS
  simp only [State.thread_commit]
  refine ⟨?_, fun k hk => ?_, fun k => ?_, fun k => ?_, e⟩
  · rw [Thread.getS_congr a, Thread.getS_setS]; simp
  · rw [Thread.getS_congr a, Thread.getS_setS, if_neg hk]
    split
    · simp [Thread.getS, *]
    · rfl
  · exact Thread.getV_congr (b.trans (Thread.setS_fields _ d v).1) k
  · exact Thread.getM_congr (c.trans (Thread.setS_fields _ d v).2.1) k

/-- An instruction that goes to `p` and writes no register. -/
theorem State.Ready.jumpNone (r : s.Ready t h) {unit : Nat} {legal : Bool} {ss vs : List Nat}
    {body : State → Thread → Issue} (hl : legal = true) (hv : s.Valid t h ss vs) {p : Word} {u : State}
    (hb : body ((s.cacheAt t (s.thread t h).pc.toNat).unitTook t h unit) (s.thread t h) = .jump u p)
    (hu : u.thread t h = s.thread t h) :
    s.GotNone (s.commit (s.issue t h unit legal ss vs body)) t h p := by
  rw [State.issue_ready r unit legal ss vs body hl hv, hb]
  have hst : (u.thread t h).st ≠ .wait := by rw [hu, r.run]; simp
  obtain ⟨a, b, c, e⟩ := Issue.jump_thread u ((s.cacheAt t (s.thread t h).pc.toNat).unitTook t h unit) t h
    (s.thread t h).pc.toNat p hst
  rw [hu] at a b c
  unfold State.GotNone
  simp only [State.thread_commit]
  exact ⟨Thread.getS_congr a, Thread.getV_congr b, Thread.getM_congr c, e⟩

end

/-! ### A tile in which nothing else goes on -/

theorem foldl_same {α β : Type} (f : α → β → α) (a : α) (h : ∀ b, f a b = a) (l : List β) : l.foldl f a = a := by
  induction l with
  | nil => rfl
  | cons b l ih => rw [List.foldl_cons, h, ih]

theorem foldl_same_mem {α β : Type} (f : α → β → α) (a : α) (l : List β) (h : ∀ b ∈ l, f a b = a) : l.foldl f a = a := by
  induction l with
  | nil => rfl
  | cons b l ih =>
    rw [List.foldl_cons, h b (by simp)]
    exact ih fun c hc => h c (by simp [hc])

theorem Tile.leave_calm (x : Tile) (h : Nat) (he : (x.thread h).ending = false) : x.leave h = x := by
  simp [Tile.leave, he]

/-- What one look at the threads of a calm tile comes to: the state but for tile `t`, which has given up what ended threads
held. -/
structure State.Looked (s : State) (t : Nat) (u : State) : Prop where
  mem : u.mem = s.mem
  regs : u.regs = s.regs
  out : u.out = s.out
  poison : u.poison = s.poison
  xin : u.xin = s.xin
  sets : u.sets = s.sets
  other : ∀ v, v ≠ t → u.tile v = s.tile v
  tile : u.tile t = (s.tile t).unhold

theorem State.Looked.thread {s u : State} {t : Nat} (h : s.Looked t u) (v k : Nat) : u.thread v k = s.thread v k := by
  unfold State.thread
  by_cases hv : v = t
  · subst hv; rw [h.tile]; rfl
  · rw [h.other v hv]

theorem State.Calm.leaveAll {s : State} {t : Nat} (c : s.Calm t) : s.Looked t (s.leaveAll t) where
  mem := by simp [State.leaveAll]
  regs := by simp [State.leaveAll]
  out := by simp [State.leaveAll]
  poison := by simp [State.leaveAll]
  xin := by simp [State.leaveAll]
  sets := by simp [State.leaveAll]
  other v hv := by unfold State.leaveAll State.modTile; rw [State.tile_setTile_other _ _ (Ne.symm hv)]
  tile := by
    unfold State.leaveAll
    rw [State.tile_modTile]
    apply foldl_same
    intro k
    exact Tile.leave_calm _ k (by rw [Tile.unhold_thread]; exact c.ends k)

theorem State.Looked.waitOf {s u : State} {t : Nat} (h : s.Looked t u) (c : s.Calm t) (k : Nat) :
    (u.tile t).waitOf k = .none := by
  have h1 : (u.tile t).thread k = (s.tile t).thread k := h.thread t k
  have h2 : ((s.tile t).thread k).st ≠ .wait := c.waits k
  unfold Tile.waitOf
  rw [h1]
  simp [h2]

theorem State.Looked.endWaits {s u : State} {t : Nat} (h : s.Looked t u) (c : s.Calm t) : s.Looked t (u.endWaits t) where
  mem := by simp [State.endWaits, h.mem]
  regs := by simp [State.endWaits, h.regs]
  out := by simp [State.endWaits, h.out]
  poison := by simp [State.endWaits, h.poison]
  xin := by simp [State.endWaits, h.xin]
  sets := by simp [State.endWaits, h.sets]
  other v hv := by
    unfold State.endWaits State.modTile
    rw [State.tile_setTile_other _ _ (Ne.symm hv)]
    exact h.other v hv
  tile := by
    refine Eq.trans ?_ h.tile
    unfold State.endWaits
    rw [State.tile_modTile]
    apply foldl_same
    intro k
    unfold Tile.endWait Tile.waitOver
    simp [h.waitOf c k]

theorem State.Calm.settleOnce {s : State} {t : Nat} (c : s.Calm t) : s.Looked t (s.settleOnce t) := by
  unfold State.settleOnce
  split
  · exact c.leaveAll
  · have h := c.leaveAll.endWaits c
    have e1 : ((s.leaveAll t).endWaits t).semGrants t = (s.leaveAll t).endWaits t :=
      foldl_same (fun s h => State.semGrant s t h) _ (fun k => by unfold State.semGrant; rw [h.waitOf c k]) _
    have e2 : ((s.leaveAll t).endWaits t).takeGrants t = (s.leaveAll t).endWaits t :=
      foldl_same (fun s h => State.takeGrant s t h) _ (fun k => by unfold State.takeGrant; rw [h.waitOf c k]) _
    rw [e1, e2]
    exact h

/-- In a calm tile what follows an instruction is only that threads that have ended give up what they owned. -/
theorem State.Calm.looked {s : State} {t : Nat} (c : s.Calm t) : s.Looked t (s.run t) := by
  have h := c.settleOnce
  have hp : State.pump ((s.tile t).linesLeft + 1) s t = s := by
    unfold State.pump
    rw [c.streams]
    simp
  have hsets : (s.settleOnce t).endSets = s.settleOnce t := by
    unfold State.endSets
    apply foldl_same_mem
    intro e hmem
    rw [h.sets] at hmem
    have := c.sets e hmem
    unfold State.endSet
    have hleft : (s.settleOnce t).setLeft e.1 e.2 = true := by
      unfold State.setLeft at this ⊢
      simp only [h.thread]
      exact this
    rw [if_pos hleft]
  unfold State.run State.settle
  rw [hp, ite_self, hsets]
  exact h

theorem State.Calm.run {s : State} {t : Nat} (c : s.Calm t) :
    (s.run t).mem = s.mem ∧ (s.run t).regs = s.regs ∧ (s.run t).out = s.out ∧ (s.run t).poison = s.poison ∧
      (s.run t).xin = s.xin ∧
      (∀ u, u ≠ t → (s.run t).tile u = s.tile u) ∧ (∀ k, (s.run t).thread t k = s.thread t k) ∧
      ((s.run t).tile t).entries = (s.tile t).entries ∧ ((s.run t).tile t).cc = (s.tile t).cc ∧
      ((s.run t).tile t).mmaQ = (s.tile t).mmaQ ∧ ((s.run t).tile t).cq = (s.tile t).cq ∧
      ((s.run t).tile t).outst = (s.tile t).outst ∧ ((s.run t).tile t).icache = (s.tile t).icache ∧
      ((s.run t).tile t).streams = (s.tile t).streams := by
  have h := c.looked
  refine ⟨h.mem, h.regs, h.out, h.poison, h.xin, h.other, h.thread t, ?_, ?_, ?_, ?_, ?_, ?_, ?_⟩ <;> rw [h.tile] <;> rfl

end Sys2Proof.Machine
end

