-- ==== Sys2Proof/Laws/Vector.lean ====
section
/-! SUPPORT. Sys2Proof/Laws/Vector.lean: elements of packed registers, and what a vector instruction does element by
element. -/

namespace Sys2Proof.Machine

theorem packElems_lt (b : Nat) (l : List Nat) : packElems b l < 2 ^ (b * l.length) := by
  induction l with
  | nil => simp [packElems]
  | cons x l ih =>
    have e : packElems b (x :: l) = x % 2 ^ b + 2 ^ b * packElems b l := by
      simp [packElems, Nat.shiftLeft_eq, Nat.mul_comm]
    rw [e, List.length_cons, Nat.mul_succ, Nat.add_comm (b * _), Nat.pow_add]
    have h1 := Nat.mod_lt x (Nat.two_pow_pos b)
    have h2 := Nat.mul_le_mul_left (2 ^ b) (Nat.succ_le_of_lt ih)
    rw [Nat.mul_succ] at h2
    omega

theorem packElems_get (b : Nat) (l : List Nat) (i : Nat) (hi : i < l.length) :
    packElems b l / 2 ^ (b * i) % 2 ^ b = l[i] % 2 ^ b := by
  induction l generalizing i with
  | nil => simp at hi
  | cons x l ih =>
    have e : packElems b (x :: l) = x % 2 ^ b + 2 ^ b * packElems b l := by
      simp [packElems, Nat.shiftLeft_eq, Nat.mul_comm]
    rw [e]
    cases i with
    | zero => simp
    | succ i =>
      have hl : i < l.length := by simpa using hi
      rw [Nat.mul_succ, Nat.add_comm (b * i), Nat.pow_add, ← Nat.div_div_eq_div_mul, Nat.add_mul_div_left _ _ (Nat.two_pow_pos b),
        Nat.div_eq_of_lt (Nat.mod_lt _ (Nat.two_pow_pos b)), Nat.zero_add]
      simpa using ih i hl

/-- Element `i` of a register packed from `N` elements that fill it. -/
theorem elemOf_pack (b : Nat) (l : List Nat) (i : Nat) (hl : b * l.length ≤ 2048) (hi : i < l.length) :
    elemOf b (BitVec.ofNat 2048 (packElems b l)) i = l[i] % 2 ^ b := by
  unfold elemOf
  have h1 := packElems_lt b l
  rw [BitVec.toNat_ofNat, Nat.mod_eq_of_lt (Nat.lt_of_lt_of_le h1 (Nat.pow_le_pow_right (by omega) hl)), packElems_get b l i hi]

theorem elem_elemOf (b : Nat) (v : VReg) (i : Nat) : elem b v.toNat i = elemOf b v i := by
  simp [elem, elemOf, bitsOf, Nat.shiftRight_eq_div_pow]

theorem elemOf_lt (b : Nat) (v : VReg) (i : Nat) : elemOf b v i < 2 ^ b := Nat.mod_lt _ (Nat.two_pow_pos b)

/-- Element `i` of a merged register (R165). -/
theorem elemOf_merge (b : Nat) (mz : Bool) (first : Nat) (old : VReg) (l : List (Option Nat)) (i : Nat)
    (hi : i < 2048 / b) :
    elemOf b (BitVec.ofNat 2048 (mergeElems b mz first old.toNat l)) i =
      if first ≤ i ∧ i < first + l.length then
        (match l.getD (i - first) none with
          | some v => v % 2 ^ b
          | none => if mz then 0 else elemOf b old i)
      else elemOf b old i := by
  unfold mergeElems
  rw [elemOf_pack b _ i (by simpa using Nat.mul_div_le 2048 b) (by simpa using hi)]
  simp only [List.getElem_map, List.getElem_range, Bool.or_eq_true, decide_eq_true_eq, elem_elemOf]
  have hm : elemOf b old i % 2 ^ b = elemOf b old i := Nat.mod_eq_of_lt (elemOf_lt b old i)
  by_cases h : first ≤ i ∧ i < first + l.length
  · rw [if_pos h, if_neg (by omega)]
    cases l.getD (i - first) none with
    | some v => rfl
    | none => cases mz <;> simp [hm]
  · rw [if_neg h, if_pos (by omega), hm]

/-- A list of results under a mask, one per element. -/
theorem masked_getD {α : Type} (N : Nat) (m : Nat → Bool) (f : Nat → α) (i : Nat) (hi : i < N) :
    ((List.range N).map fun k => if m k then some (f k) else none).getD i none = if m i then some (f i) else none := by
  simp [List.getD, hi]

/-- Setting flags touches no tile. -/
@[simp] theorem State.setFlags_tiles (s : State) (t e f : Nat) (c : Option Nat) : (s.setFlags t e f c).tiles = s.tiles := by
  unfold State.setFlags
  generalize List.range 4 = l
  induction l generalizing s with
  | nil => rfl
  | cons a l ih =>
    rw [List.foldl_cons, ih]
    dsimp only
    split <;> [split; skip] <;> simp

@[simp] theorem State.setFlags_thread (s : State) (t e f v k : Nat) (c : Option Nat) :
    (s.setFlags t e f c).thread v k = s.thread v k := by simp [State.thread, State.tile]

/-- What a completed vector instruction that gives vD the merged results `l` from element `first` on leaves. -/
theorem State.Ready.gotElems {s : State} {t h : Nat} (r : s.Ready t h) {unit : Nat} {legal : Bool} {ss vs : List Nat}
    {body : State → Thread → Issue} (hl : legal = true) (hv : s.Valid t h ss vs) {d b first : Nat} {mz : Bool}
    {l : List (Option Nat)} {g : Nat → Nat} {u : State}
    (hb : body ((s.cacheAt t (s.thread t h).pc.toNat).unitTook t h unit) (s.thread t h) = .next u)
    (hu : u.thread t h = (s.thread t h).setV d
      (BitVec.ofNat 2048 (mergeElems b mz first ((s.thread t h).getV d).toNat l)))
    (hg : ∀ i, i < 2048 / b → g i = if first ≤ i ∧ i < first + l.length then
        (match l.getD (i - first) none with
          | some v => v % 2 ^ b
          | none => if mz then 0 else elemOf b ((s.thread t h).getV d) i)
      else elemOf b ((s.thread t h).getV d) i) :
    s.GotElems (s.commit (s.issue t h unit legal ss vs body)) t h d b g := by
  obtain ⟨a1, a2, a3, a4, a5⟩ := r.gotV (d := d) hl hv hb hu
  refine ⟨fun i hi => ?_, a2, a3, a4, a5⟩
  rw [a1, elemOf_merge b mz first _ l i hi, hg i hi]

end Sys2Proof.Machine
end

