-- ==== Sys2Proof/WellFormed.lean ====
section
/-! DEFINITION. Sys2Proof/WellFormed.lean: the operands a command can have. Most bounds are in the operand types; what
stands here is what a type does not say: the numbers of an internal request, the lengths of messages (log entry 22). -/

namespace Sys2Proof

/-- An access of a device-internal request: 1, 2, 4, 8 or 64 bytes, or one of 16 atomic functions
(spec/06_flume_tile.md R142; spec/07_instruction_set.md R180, R199). -/
def ReqKind.wf (k : ReqKind) : Bool :=
  match k with
  | .load n => [1, 2, 4, 8, 64].contains n
  | .store .. => true
  | .atomic fn .. => decide (fn < 16)

/-- Tiles 0-255, threads 0-15, contexts 0-4,095, generations of 4 bits, 48-bit device addresses
(spec/01_architecture.md R11, R15; spec/06_flume_tile.md R136). -/
def Request.wf (r : Request) : Bool :=
  decide (r.tile < 256) && decide (r.thread < 16) && decide (r.ctx < 4096) && decide (r.gen < 16) &&
    decide (r.addr < 2 ^ 48) && r.kind.wf

/-- A response names a tile and a thread of it (spec/06_flume_tile.md R142). -/
def Response.wf (r : Response) : Bool := decide (r.tile < 256) && decide (r.thread < 16)

/-- Corrected symbols are counted per logical lane 0-7 (spec/12_lanes_and_links.md R319, R329). -/
def RxCodeword.wf (c : RxCodeword) : Bool := c.corrected.all fun e => decide (e.1 < 8)

/-- A head cell is followed by at most 255 data cells (spec/10_expert_and_headwater.md R263, Table 10-1). -/
def HeadMsg.wf (m : HeadMsg) : Bool := decide (m.data.length ≤ 255)

/-- A body of up to 8,192 bytes and a 64-byte MAC (spec/13_host_port_and_control.md R347). -/
def ZctMsg.wf (m : ZctMsg) : Bool := decide (m.body.length ≤ 8192) && decide (m.mac.length = 64)

/-- A context and a crossbar input (spec/11_memory_and_pools.md R308; spec/01_architecture.md Table 1-1). -/
def Requester.wf (r : Requester) : Bool :=
  match r with
  | .agent ctx input => decide (ctx < 4096) && decide (input < 1298)
  | _ => true

/-- The port accepts frames of up to 9,216 bytes (spec/13_host_port_and_control.md R346). -/
def HostFrame.wf (f : HostFrame) : Bool := decide (f.payload.length ≤ 9216)

/-- Whether a command's operands are ones it can have: hellos are four cells (spec/12_lanes_and_links.md Table 12-5), a
temperature sample is 64 readings (spec/15_power_clocks_security.md R410), relay records and UPDATE blocks are short byte
strings. -/
def Instr.wf (i : Instr) : Bool :=
  match i with
  | .codewordReceive _ cw => cw.wf
  | .helloReceive _ cells => decide (cells.length = 4)
  | .tileRequestServe _ req => req.wf
  | .memoryPortRequest _ req => req.wf
  | .mgmtPortRequest req => req.wf
  | .loadResponse _ rsp => rsp.wf
  | .streamLineComplete _ rsp => rsp.wf
  | .tokenReceive _ msg => msg.wf
  | .returnReceive _ msg => msg.wf
  | .poolAllocate who _ _ => who.wf
  | .poolAllocateNowait who _ _ => who.wf
  | .poolFree who _ _ _ => who.wf
  | .poolShare who _ _ _ => who.wf
  | .zctOpen msg => msg.wf
  | .confirm msg => msg.wf
  | .zctClose msg => msg.wf
  | .zctRead msg => msg.wf
  | .zctWrite msg => msg.wf
  | .post msg => msg.wf
  | .bell msg => msg.wf
  | .eventAck msg => msg.wf
  | .keepalive msg => msg.wf
  | .arpNd frame => frame.wf
  | .icmpEcho frame => frame.wf
  | .tempSample readings => decide (readings.length = 64)
  | .relayRecordReceive record _ => decide (record.length ≤ 8192)
  | .wbUpdate block => decide (block.length ≤ 8192)
  | .registerWrite .. | .rcRead .. | .codewordSend .. | .replayTmo .. | .cellReceive .. | .turnoutReplicate ..
  | .failGapExpiry .. | .echoGapExpiry .. | .sluiceSelect .. | .internalOutputSelect .. | .crossbarTransfer ..
  | .slotFree .. | .mirFlush .. | .calendarSlotExpiry .. | .gateEntryBoundary .. | .gateSwitchover .. | .gateArm ..
  | .cancel .. | .gateEntryWrite .. | .headgateRefill .. | .samplerPeriod .. | .clear .. | .histClearDone ..
  | .switchIdWrite .. | .portDown .. | .portDrainComplete .. | .octetPowerOn .. | .trainingBlockReceive ..
  | .trainTmo .. | .helloSend .. | .helloCheckComplete .. | .helloTmo .. | .los .. | .lol .. | .laneSerWindow ..
  | .narrowResume .. | .narrowFail .. | .octetFault .. | .octetClockRechoose .. | .enable .. | .loop .. | .retrain ..
  | .linkCtlIgnored .. | .adoptWiring .. | .iAdd .. | .iSub .. | .iAnd .. | .iOr .. | .iXor .. | .iShl .. | .iShr ..
  | .iSra .. | .iMul .. | .iMulh .. | .iMinMax .. | .iSlt .. | .iSltu .. | .iSeq .. | .iSel .. | .iAddi ..
  | .iClzCtzPopc .. | .iAndi .. | .iOri .. | .iXori .. | .iShli .. | .iShri .. | .iSrai .. | .iMuli .. | .iSlti ..
  | .iSltiu .. | .iSeqi .. | .iLi .. | .iLih .. | .iBeq .. | .iBne .. | .iBlt .. | .iBge .. | .iBltu .. | .iBgeu ..
  | .iJal .. | .iJr .. | .iRdsr .. | .iEnd .. | .iBrk .. | .iNop .. | .iLd .. | .iSt .. | .iVld .. | .iVst ..
  | .iSin .. | .iSout .. | .iVadd .. | .iVsub .. | .iVmul .. | .iVmin .. | .iVmax .. | .iVand .. | .iVor ..
  | .iVxor .. | .iVshl .. | .iVshr .. | .iVcmp .. | .iVsel .. | .iVbcast .. | .iVext .. | .iVpop .. | .iMand ..
  | .iMor .. | .iMxor .. | .iMnot .. | .iMpop .. | .iMins .. | .iMext .. | .iVfadd .. | .iVfsub .. | .iVfmul ..
  | .iVfma .. | .iVfmax .. | .iVfmin .. | .iVfcmp .. | .iVfabsVfnegVfcsgn .. | .iCvt .. | .iVbamax .. | .iCvtScale ..
  | .iVpack .. | .iMma .. | .mmaStart .. | .mmaAbort .. | .mmaComplete .. | .iDrain .. | .drainRead .. | .iAcq ..
  | .acqBind .. | .iRel .. | .relUnbind .. | .iWeirTake .. | .iWeirPeek .. | .iWeirPost .. | .iMsgSend ..
  | .iMsgBell .. | .iMsgEvent .. | .iFence .. | .iIfence .. | .iCcwait .. | .iCcrd .. | .iSemwait .. | .iSempost ..
  | .iTbar .. | .iAmoAdd .. | .iAmoAnd .. | .iAmoOr .. | .iAmoXor .. | .iAmoMin .. | .iAmoMax .. | .iAmoSwap ..
  | .iAmoCas .. | .iAmoFaddF32 .. | .threadHalt .. | .debugWindowRead .. | .weirHeadReceive .. | .weirCellReceive ..
  | .weirHoldRelease .. | .weirGroupFinal .. | .weirVoid .. | .emitterSelect .. | .dryStepClose ..
  | .tileWeirCfgWrite .. | .start .. | .ack .. | .nack .. | .voidReq .. | .brkNotice .. | .seal .. | .voidCell ..
  | .hold .. | .done .. | .chunkTimeout .. | .breakSettle .. | .replayRecordFeed .. | .rollReceive .. | .stepOpen ..
  | .tokenDecide .. | .combineEntryAllocate .. | .rollTimeout .. | .combineReturn .. | .combTimeout ..
  | .memoryReadRequest .. | .memoryWrite .. | .atomic .. | .atomicHold .. | .sramPatrol .. | .lpddrPatrol ..
  | .pageRetireDone .. | .lpddrRefresh .. | .poolCreate .. | .poolDestroy .. | .openConfirmTmo .. | .sessionTmo ..
  | .eventResend .. | .hostFrameDiscard .. | .hostPortCfgWrite .. | .hostPortCfgApply .. | .save .. | .closeAll ..
  | .hpKeyWrite .. | .ringPoll .. | .ctxRingHaltClear .. | .ctxOpen .. | .ctxClose .. | .ctxTeardownDrain ..
  | .closed .. | .planLoad .. | .planRetire .. | .groupBind .. | .groupUnbind .. | .collStart .. | .collAbort ..
  | .stepSet .. | .stepAdvance .. | .circSetup .. | .circTear .. | .treeSet .. | .threadsLaunch .. | .threadsKill ..
  | .gateLoad .. | .ehtLoad .. | .mirrorSet .. | .tagWatch .. | .recordStart .. | .recordStop ..
  | .replayStartCommand .. | .hwInternalError .. | .faultPulseEnd .. | .faultPinWrite .. | .request ..
  | .ditchRiderScan .. | .captureComplete .. | .capTmo .. | .spwCapFree .. | .countClear .. | .tileEngineReset ..
  | .portEnginesReset .. | .clusterReset .. | .octetReset .. | .deviceComputeReset .. | .powerCycleRequest ..
  | .resetComplete .. | .resetBoundExpiry .. | .inputSample .. | .dutyAdjust .. | .resetLRise .. | .resetLFall ..
  | .romAccept .. | .firstStageVerify .. | .domainStart .. | .powerGood .. | .pwrDomainOff .. | .cdcTimeout ..
  | .cdcRecover .. | .cdcOverflow .. | .pllLockLoss .. | .secFwGo .. | .fwUpdateDone .. | .wbSample ..
  | .clusterUsTick .. | .countFrameSend .. | .countFrameReceive .. | .wbIntervalEnd .. | .wbRecordCommit ..
  | .wbPowerLoss .. | .wbBoot .. | .tamper .. | .wbStatus .. | .wbSelect .. | .wbRecord .. | .wbRequest ..
  | .wbCert .. | .wbrRequest .. | .resend .. | .i3cStatus .. | .ferr .. | .input .. | .hottest .. | .identity ..
  | .hostKey .. | .inputPowerLoss .. | .inputPowerReturn .. | .signalDetect .. | .hostLinkDown .. | .hostLinkUp ..
  | .wbInputReturn .. | .holdUpExhausted .. | .enec .. | .wbEnec .. | .dynamicAddress .. | .wbDynamicAddress .. => true

end Sys2Proof
end

