-- ==== Sys2Proof/Tests/Slice0.lean ====
section
/-! SUPPORT. Sys2Proof/Tests/Slice0.lean: an ill-formed term for each check of WellFormed, tests of single commands on small
states, and for every statement of Obligations.lean that has hypotheses states and operands that meet those of each clause
(theorems named witness_<statement>). -/

open Sys2Proof Sys2Proof.Machine

namespace Sys2Proof.Tests

set_option Elab.async false

/-! ### Ill-formed terms are refused -/

def someReq : Request := ⟨0, 0, 0, 0, 0, 0x100, .load 8⟩
def someAddr : HostAddr := ⟨0, false, 0, 0⟩
def someMsg : ZctMsg := ⟨someAddr, 0, 0, 0x5A43, 1, 0, 0, 1, 1, [], List.replicate 64 0⟩

theorem smoke_load_size : Instr.wf (.mgmtPortRequest { someReq with kind := .load 3 }) = false := by decide
theorem smoke_atomic_function : Instr.wf (.memoryPortRequest 0 { someReq with kind := .atomic 16 false false 0 0 }) = false := by
  decide
theorem smoke_request_tile : Instr.wf (.tileRequestServe 0 { someReq with tile := 256 }) = false := by decide
theorem smoke_request_thread : Instr.wf (.tileRequestServe 0 { someReq with thread := 16 }) = false := by decide
theorem smoke_request_ctx : Instr.wf (.tileRequestServe 0 { someReq with ctx := 4096 }) = false := by decide
theorem smoke_request_gen : Instr.wf (.tileRequestServe 0 { someReq with gen := 16 }) = false := by decide
theorem smoke_request_addr : Instr.wf (.tileRequestServe 0 { someReq with addr := 2 ^ 48 }) = false := by decide
theorem smoke_request : Instr.wf (.tileRequestServe 0 someReq) = true := by decide
theorem smoke_response_tile : Instr.wf (.loadResponse 0 ⟨256, 0, 0, .ok, 0⟩) = false := by decide
theorem smoke_response_thread : Instr.wf (.streamLineComplete 0 ⟨0, 16, 0, .ok, 0⟩) = false := by decide
theorem smoke_body : Instr.wf (.zctRead { someMsg with body := List.replicate 8193 0 }) = false := by decide +kernel
theorem smoke_mac : Instr.wf (.keepalive { someMsg with mac := [] }) = false := by decide
theorem smoke_requester_ctx : Instr.wf (.poolFree (.agent 4096 0) 0 0 0) = false := by decide
theorem smoke_requester_input : Instr.wf (.poolShare (.agent 0 1298) 0 0 0) = false := by decide
theorem smoke_hello : Instr.wf (.helloReceive 0 []) = false := by decide
theorem smoke_temperature : Instr.wf (.tempSample []) = false := by decide
theorem smoke_record : Instr.wf (.relayRecordReceive (List.replicate 8193 0) true) = false := by decide +kernel
theorem smoke_block : Instr.wf (.wbUpdate (List.replicate 8193 0)) = false := by decide +kernel
theorem smoke_frame : Instr.wf (.arpNd ⟨someAddr, 0, List.replicate 9217 0⟩) = false := by decide +kernel

theorem smoke_corrected : Instr.wf (.codewordReceive 0 ⟨false, false, [(8, 1)], 0⟩) = false := by decide
theorem smoke_head_cells : Instr.wf (.tokenReceive 0 ⟨⟨0, 0⟩, List.replicate 256 ⟨0, 0⟩⟩) = false := by decide +kernel
theorem smoke_return_cells : Instr.wf (.returnReceive 0 ⟨⟨0, 0⟩, List.replicate 256 ⟨0, 0⟩⟩) = false := by decide +kernel

/-! ### The state the witnesses start from: after reset, thread 0 of tile 0 in RUN at address 0 -/

/-- The state right after reset with its boot behind it: the start table gone through, the images verified. -/
def booted : State := State.reset.putPower { Power.init with romOk := true, nextDomain := 50, m2 := [0] }

def s0 : State := booted.modThread 0 0 fun x => { x with st := .run, pc := 0 }

/-- What the witnesses of the instructions' statements share: thread 0 of tile 0 may issue, nothing else goes on in the tile,
and every register is valid. -/
structure Issues (s : State) : Prop where
  ready : s.Ready 0 0
  calm : s.Calm 0
  valid : ∀ ss vs, s.Valid 0 0 ss vs

def issuesB (s : State) : Bool :=
  s.on && s.bound 0 && !s.issueStopped 0 && decide ((s.thread 0 0).st = .run) && ownRange 0 (s.thread 0 0).pc.toNat 8 &&
    decide ((s.thread 0 0).pc.toNat % 8 = 0) &&
    !reservedOp (s.fetched 0 (s.thread 0 0).pc.toNat) &&
    !(s.poisoned (s.thread 0 0).pc.toNat 8 && !Table.has (s.tile 0).icache (s.thread 0 0).pc.toNat) &&
    decide ((s.tile 0).streams = []) && (s.tile 0).threads.all (fun e => decide (e.2.st ≠ .wait) && !e.2.ending) &&
    s.sets.all (fun e => s.setLeft e.1 e.2) && decide ((s.thread 0 0).busyS = []) && decide ((s.thread 0 0).busyV = [])

theorem get_of_all {κ α : Type} [DecidableEq κ] (p : α → Bool) (d : α) (l : List (κ × α)) (k : κ) (h : p d = true)
    (a : l.all (fun e => p e.2) = true) : p (Table.get d l k) = true := by
  induction l with
  | nil => exact h
  | cons e r ih =>
    simp only [List.all_cons, Bool.and_eq_true] at a
    simp only [Table.get]
    split
    · exact a.1
    · exact ih a.2

theorem issues_of {s : State} (h : issuesB s = true) : Issues s := by
  simp only [issuesB, Bool.and_eq_true, decide_eq_true_eq, Bool.not_eq_true'] at h
  obtain ⟨⟨⟨⟨⟨⟨⟨⟨⟨⟨⟨⟨a, b⟩, c⟩, d⟩, e⟩, f⟩, o⟩, g⟩, i⟩, j⟩, k⟩, l⟩, m⟩ := h
  have q : ∀ n, (decide ((s.thread 0 n).st ≠ .wait) && !(s.thread 0 n).ending) = true := fun n =>
    get_of_all (fun y : Thread => decide (y.st ≠ .wait) && !y.ending) Thread.init (s.tile 0).threads n (by decide) j
  refine ⟨⟨a, b, c, d, e, f, o, g⟩, ⟨i, fun n => ?_, fun n => ?_, ?_⟩, fun ss vs => ?_⟩
  · have := q n; simp at this; exact this.1
  · have := q n; simp at this; exact this.2
  · simpa using k
  · simp [State.Valid, l, m]

/-- `s0` with thread 0 and tile 0 changed. -/
def sw (f : Thread → Thread) (g : Tile → Tile) : State := (s0.modThread 0 0 f).modTile 0 g

/-- `s0` with scalar register 1 of the thread holding `v`. -/
def s1 (v : Word) : State := sw (fun y => { y with s := [(1, v)] }) id

theorem issues0 : Issues s0 := issues_of (by decide +kernel)

/-! ### Witnesses: the statements about instructions -/

theorem witness_ScalarResults : Issues s0 ∧ (∀ x, onlyUses 0 x = true) ∧ fMOD 0 = 0 ∧
    (onlyUses (3 <<< 48) (useD ||| useA ||| useB ||| useMOD) = true ∧ fMOD (1 <<< 48) = 1 ∧ fMOD (2 <<< 48) = 2 ∧
      fMOD (3 <<< 48) = 3) ∧
    onlyUses (2 ^ 38 - 1) (useD ||| useA ||| useIMM38) = true ∧ onlyUses (2 ^ 43 - 1) (useD ||| (2 ^ 43 - 1)) = true ∧
    onlyUses (2 ^ 21 - 1) (useD ||| (2 ^ 21 - 1)) = true ∧ onlyUses (2 <<< 48) (useD ||| useA ||| useMOD) = true :=
  ⟨issues0, fun x => by simp [onlyUses], by decide +kernel⟩

/-- A word whose B is register 1. -/
def wB : Nat := 1 <<< 33
/-- A word whose A is register 1. -/
def wA : Nat := 1 <<< 38

theorem witness_BranchAndThreadResults : Issues s0 ∧ Issues (s1 1) ∧ onlyUses wB (useA ||| useB ||| useOFF33) = true ∧
    (let y := (s1 1).thread 0 0
     y.getS (fA 0) = y.getS (fB 0) ∧ y.getS (fA wB) ≠ y.getS (fB wB) ∧ (y.getS (fA wB)).toInt < (y.getS (fB wB)).toInt ∧
      (y.getS (fB 0)).toInt ≤ (y.getS (fA 0)).toInt ∧ (y.getS (fA wB)).toNat < (y.getS (fB wB)).toNat) ∧
    onlyUses (2 ^ 33 - 1) (useD ||| useOFF33) = true ∧ onlyUses (2 ^ 33 - 1) (useD ||| useA ||| useOFF33) = true ∧
    (∀ k < 10, k % 2 ^ 38 = k ∧ onlyUses k (useD ||| useIMM38) = true) ∧ (s0.tile 0).outst = [] :=
  ⟨issues0, issues_of (by decide +kernel), by decide +kernel⟩

theorem witness_MemoryResults : Issues s0 ∧ ((s0.thread 0 0).getS (fA (tileBytes - 1))).toNat = 0 ∧
    onlyUses (tileBytes - 1) (useD ||| useA ||| useIMM34 ||| useMOD) = true ∧ ownRange 0 (tileBytes - 1) 1 = true ∧
    s0.poisoned (tileBytes - 1) 1 = false ∧ s0.ownWeir 0 (tileBytes - 1) 1 = false ∧
    s0.inCombine 0 ((tileBytes - 1) % tileBytes) 1 = false ∧ ownRange 0 ((s0.thread 0 0).pc + 8).toNat 8 = true ∧
    (let n := 7 <<< 48 ||| 8
     fMOD n = 7 ∧ fMOD n % 4 = 3 ∧ 8 % 2 ^ (fMOD n % 4) = 0 ∧ fMOD (6 <<< 48 ||| 8) = 6) ∧
    Table.look (s0.thread 0 0).vloads 0 = none ∧ ownRange 0 (tileBytes - 256) 256 = true ∧
    onlyUses (1 <<< 34 ||| (tileBytes - 256)) (useD ||| useA ||| useMemMK ||| useMemMZ ||| useIMM34 ||| useMOD) = true ∧
    onlyUses (tileBytes - 256) (useD ||| useA ||| useMemMK ||| useIMM34 ||| useMOD) = true ∧
    s0.poisoned (tileBytes - 256) 256 = false ∧ (∀ i < 4, s0.inWeir 0 ((tileBytes - 256 + 64 * i) % tileBytes) 64 = false ∧
      s0.inCombine 0 ((tileBytes - 256 + 64 * i) % tileBytes) 64 = false) :=
  ⟨issues0, by decide +kernel⟩

/-- A word whose A is register 0, whose B is register 1 and whose IMM22 is one line. -/
def wIn : Nat := wB ||| 64
def wOut : Nat := wA ||| 64

theorem witness_RemoteAndStreamResults : Issues s0 ∧ Issues (s1 (BitVec.ofNat 64 tileBytes)) ∧
    onlyUses tileBytes (useD ||| useA ||| useIMM34 ||| useMOD) = true ∧ ownRange 0 tileBytes 1 = false ∧
    s0.agentOf tileBytes = .tile 1 ∧ s0.agentOf (tileBytes / 64 * 64) ≠ .none ∧ (s0.tile 0).outst.length < 512 ∧
    ownRange 0 ((s0.thread 0 0).pc + 8).toNat 8 = true ∧
    (let s := s1 (BitVec.ofNat 64 tileBytes)
     let y := s.thread 0 0
     onlyUses wIn (useA ||| useB ||| useC ||| useCC ||| useIMM22) = true ∧ fIMM22 wIn = 64 ∧
      (y.getS (fA wIn)).toNat = 0 ∧ (y.getS (fB wIn)).toNat = tileBytes ∧ (y.getS (fC wIn)).toNat = 0 ∧
      (s.tile 0).ccGet (fCC wIn) = 0 ∧ (s.tile 0).outst = [] ∧ ownRange 0 0 64 = true ∧ s.ownEngine 0 0 64 = false ∧
      ownRange 0 tileBytes 64 = false ∧ s.inCombine 0 0 64 = false ∧
      onlyUses wOut (useA ||| useB ||| useC ||| useCC ||| useIMM22) = true ∧ fIMM22 wOut = 64 ∧
      (y.getS (fA wOut)).toNat = tileBytes ∧ (y.getS (fB wOut)).toNat = 0 ∧ (y.getS (fC wOut)).toNat = 0 ∧
      s.poisoned 0 64 = false) :=
  ⟨issues0, issues_of (by decide +kernel), by decide +kernel⟩

/-- `s0` with the byte 1 at address 0. -/
def sOne : State := s0.put 0 [1]

theorem witness_AtomicResults : Issues s0 ∧ Issues sOne ∧ fMOD 0 = 0 ∧ fMOD (1 <<< 48) = 1 ∧ fMOD (3 <<< 48) = 3 ∧
    (∀ k ∈ [4, 8], ownRange 0 0 k = true ∧ s0.inWeir 0 0 k = false ∧ s0.inCombine 0 0 k = false ∧
      s0.poisoned 0 k = false ∧ sOne.inWeir 0 0 k = false ∧ sOne.inCombine 0 0 k = false ∧ sOne.poisoned 0 k = false) ∧
    ownRange 0 ((s0.thread 0 0).pc + 8).toNat 8 = true ∧ ownRange 0 ((sOne.thread 0 0).pc + 8).toNat 8 = true ∧
    onlyUses (3 <<< 48) (useD ||| useA ||| useB ||| useMOD) = true ∧
    onlyUses (1 <<< 48) (useD ||| useA ||| useB ||| useC ||| useMOD) = true ∧
    ¬ (((s0.thread 0 0).getS (fB 0)).toNat < s0.load 0 8) ∧ ((sOne.thread 0 0).getS (fB 0)).toNat < sOne.load 0 8 ∧
    signed 32 0 < signed 32 (sOne.load 0 4) :=
  ⟨issues0, issues_of (by decide +kernel), by decide +kernel⟩

/-- One load of the thread outstanding, and one cell pending on completion counter 0. -/
def sBusy : State := sw id fun x => { x with outst := [⟨0, 0, 0, .store⟩], cc := [(0, 1)] }
/-- Thread 1 has arrived at the barrier of threads 0 and 1. -/
def sBar : State := (sw (fun y => { y with s := [(1, 3)] }) fun x => { x with barrier := some (3, [1]) }).modThread 0 1
  fun y => { y with st := .wait, wait := .barrier }

theorem readyBar : sBar.Ready 0 0 ∧ sBar.Valid 0 0 [fA wA] [] :=
  ⟨by constructor <;> decide +kernel, by decide +kernel, by decide +kernel⟩

theorem witness_SynchronisationResults : Issues s0 ∧ Issues sBusy ∧ ownRange 0 ((s0.thread 0 0).pc + 8).toNat 8 = true ∧
    (s0.tile 0).fenced 0 = false ∧ (sBusy.tile 0).fenced 0 = true ∧
    (s0.tile 0).ccGet (fCC 0) ≤ ((s0.thread 0 0).getS (fA 0) + BitVec.ofNat 64 (fIMM22 0)).toNat ∧
    ((sBusy.thread 0 0).getS (fA 0) + BitVec.ofNat 64 (fIMM22 0)).toNat < (sBusy.tile 0).ccGet (fCC 0) ∧
    ownRange 0 0 8 = true ∧ s0.inWeir 0 0 8 = false ∧ s0.poisoned 0 8 = false ∧ s0.inCombine 0 0 8 = false ∧
    fIMM22 0 ≤ s0.load 0 8 ∧ s0.load 0 8 < fIMM22 1 ∧ onlyUses 1 (useA ||| useB ||| useIMM22) = true ∧
    Issues (s1 1) ∧ Issues (s1 3) ∧ onlyUses wA useA = true ∧
    (((s1 1).thread 0 0).getS (fA wA) = 1 ∧ ((s1 1).tile 0).barrier = none) ∧
    (((s1 3).thread 0 0).getS (fA wA) = 3 ∧ ((s1 3).tile 0).barrier = none) ∧
    ((sBar.thread 0 0).getS (fA wA) = 3 ∧ (sBar.tile 0).barrier = some (3, [1]) ∧ (sBar.thread 0 1).st = .wait ∧
      (sBar.thread 0 1).wait = .barrier) ∧
    (∀ i < 16, (3 : BitVec 16).getLsbD i = true → i = 0 ∨ i ∈ [1]) ∧ (∃ i < 16, (3 : BitVec 16).getLsbD i = true ∧ i ≠ 0) := by
  and_intros <;> first | exact issues0 | exact issues_of (by decide +kernel) | decide +kernel

/-- A word that is legal for every MOD value up to 255 in the integer vector fields, all registers number 0. -/
def wMod (k : Nat) : Nat := k <<< 48

theorem witness_VectorIntegerResults : Issues s0 ∧ fMOD (wMod 13) = 13 ∧ (13 : Nat) % 8 = 5 ∧
    onlyUses (wMod 13 ||| 0x1F <<< 24) (useD ||| useA ||| useB ||| useMask ||| useMOD ||| useEXT) = false ∧
    onlyUses (wMod 13 ||| 0xF <<< 24) (useD ||| useA ||| useB ||| useMask ||| useMOD) = true ∧
    onlyUses (wMod 13 ||| 7 <<< 25) (useD ||| useA ||| useB ||| useMK ||| useMOD) = true ∧
    onlyUses (wMod 13 ||| 0xF <<< 24) (useD ||| useA ||| useMask ||| useMOD) = true ∧
    onlyUses (wMod 13 ||| 31 <<< 43) (useD ||| useA ||| useB ||| useMOD) = true ∧
    onlyUses (wMod 13 ||| 7 <<< 43 ||| 3 <<< 16) (useD ||| useA ||| useB ||| useMask ||| useMOD ||| useEXT) = true ∧
    fD (wMod 13 ||| 7 <<< 43 ||| 3 <<< 16) = 7 ∧ fEXT (wMod 13 ||| 7 <<< 43 ||| 3 <<< 16) = 3 :=
  ⟨issues0, by decide +kernel⟩

theorem witness_MaskResults : Issues s0 ∧ (∀ k < 7, fMOD (wMod k) = k) ∧
    (let n := wMod 2 ||| 7 <<< 43 ||| 7 <<< 38 ||| 7 <<< 33
     onlyUses n (useD ||| useA ||| useB ||| useMOD) = true ∧ fD n = 7 ∧ fA n = 7 ∧ fB n = 7) ∧
    (let n := wMod 4 ||| 7 <<< 43 ||| 7 <<< 38
     onlyUses n (useD ||| useA ||| useMOD) = true ∧ fD n = 7 ∧ fA n = 7) ∧
    (let n := wMod 6 ||| 7 <<< 43 ||| 7 <<< 38 ||| 3 <<< 16
     onlyUses n (useD ||| useA ||| useMOD ||| (3 <<< 16)) = true ∧ fEXT n % 4 = 3 ∧ fD n = 7 ∧ fA n = 7) :=
  ⟨issues0, by decide +kernel⟩

theorem witness_VectorFloatResults : Issues s0 ∧ (∀ k ∈ [0, 1, 2, 16, 17, 18], fMOD (wMod k) = k ∧ k % 4 ≤ 2 ∧
      (k / 4 = 0 ∨ k / 4 = 4)) ∧ ownRange 0 ((s0.thread 0 0).pc + 8).toNat 8 = true ∧
    onlyUses (wMod 18 ||| 0xF <<< 24) (useD ||| useA ||| useB ||| useMask ||| useMOD) = true ∧
    onlyUses (wMod 18 ||| 31 <<< 28) (useD ||| useA ||| useB ||| useC ||| useMask ||| useMOD) = true ∧
    (∀ e < 4, fEXT (wMod 18 ||| e <<< 16) = e ∧
      onlyUses (wMod 18 ||| e <<< 16) (useD ||| useA ||| useMask ||| useMOD ||| useEXT) = true ∧
      onlyUses (wMod 18 ||| e <<< 16) (useD ||| useA ||| useB ||| useMask ||| useMOD ||| useEXT) = true ∧
      fD (wMod 18 ||| e <<< 16) = 0) :=
  ⟨issues0, by decide +kernel⟩

theorem witness_ConvertResults : Issues s0 ∧
    (∀ k ∈ [0x08, 0x18, 0x28, 0x38, 0x48, 0x50, 0x58, 0x68, 0x78, 0x80, 0x81, 0x82, 0x83, 0x84, 0x85, 0x86, 0x87, 0x89, 0x98],
      cvtLegal (wMod k) = true) ∧ ((s0.thread 0 0).getS (fC (wMod 0x98) + 2)).toNat / 2 ^ 53 ≤ 2040 ∧
    (let n := wMod 0x50 ||| 1 <<< 28
     cvtLegal n = true ∧ fMOD n = 0x50 ∧ fC n ≠ fD n) ∧
    (let n := 15 <<< 16
     onlyUses n (useD ||| useA ||| useMK ||| (0x9F <<< 16)) = true ∧ extPART n = 15 ∧ extF64 n = false) ∧
    (let n := 0x80 <<< 16
     onlyUses n (useD ||| useA ||| useMK ||| (0x9F <<< 16)) = true ∧ extPART n = 0 ∧ extF64 n = true ∧ fA n % 2 = 0) ∧
    (let n := wMod 0x50 ||| 15 <<< 16
     onlyUses n (useD ||| useA ||| (0x1F <<< 16) ||| (0xF0 <<< 48)) = true ∧ fmtScaled (fMOD n / 16) = true ∧
      extPART n = 15) ∧
    (∀ k < 3, let n := wMod k ||| (32 / 2 ^ (k + 1) - 1) <<< 16
      onlyUses n (useD ||| useA ||| (0x1F <<< 16) ||| (0x03 <<< 48)) = true ∧ fMOD n = k ∧
      extPART n < 32 / 2 ^ (k + 1)) :=
  ⟨issues0, by decide +kernel⟩

/-- A tailwater entry of thread 0 with 64 rows of zeros, `p` of them popped. -/
def tqRows (p : Nat) : TqEntry := ⟨0, 0, 0, 0, false, List.replicate 64 (List.replicate 64 0), p, false, false⟩
/-- An entry that waits to be read from accumulator tile 0. -/
def tqOpen (keep discard : Bool) : TqEntry := ⟨0, 0, 0, 0, keep, [], 0, true, discard⟩
/-- Accumulator tile 0 belongs to thread 0; `q` stands in the tailwater queue. -/
def sAcc (q : List TqEntry) : State := sw id fun x => { x with accs := [(0, ⟨some 0, 0, [], 0, false⟩)], tq := q }
/-- Thread 0 waits for `v`. -/
def sWait (v : Wait) : State := s0.modThread 0 0 fun y => { y with st := .wait, wait := v }

theorem witness_TailwaterAndAccumulators : Issues (sAcc [tqRows 0]) ∧ Issues (sAcc [tqRows 63]) ∧ onlyUses 0 useD = true ∧
    (∀ p ∈ [0, 63], ((sAcc [tqRows p]).tile 0).tq = [tqRows p] ∧
      ownRange 0 (((sAcc [tqRows p]).thread 0 0).pc + 8).toNat 8 = true ∧
      (tqRows p).rows[(tqRows p).popped]? = some (List.replicate 64 0)) ∧
    Issues (sAcc []) ∧ onlyUses (wMod 1) (useD ||| useMOD) = true ∧ fMOD (wMod 1) = 1 ∧
    (((sAcc []).tile 0).acc (fD (wMod 1))).owner = some 0 ∧ (((sAcc []).tile 0).acc (fD (wMod 1))).releasing = false ∧
    (∃ i < 8, ∀ r ∈ ((sAcc []).tile 0).tq, r.slot ≠ i) ∧
    (∀ v ∈ [Wait.acq 0 31, Wait.rel 0 31], (sWait v).on = true ∧ (sWait v).issueStopped 0 = false ∧
      ((sWait v).thread 0 0).st = .wait ∧
      ((sWait v).thread 0 0).ending = false ∧ ((sWait v).thread 0 0).wait = v ∧
      ∀ k < 32, (((sWait v).tile 0).acc k).owner = none ∧ ((sWait v).tile 0).accBusy k = false) ∧
    (∀ b d : Bool, let x := (sAcc [tqOpen b d]).tile 0
      (sAcc [tqOpen b d]).on = true ∧ x.tq = [tqOpen b d] ∧ x.mmaOn 0 0 = false) :=
  ⟨issues_of (by decide +kernel), issues_of (by decide +kernel), by decide, by decide +kernel, issues_of (by decide +kernel),
    by decide, by decide, by decide +kernel, by decide +kernel, ⟨0, by decide, by decide +kernel⟩, by decide +kernel,
    by decide +kernel⟩

/-- The word of an MMA of format 3 with D = 0, A = 2, B = 4 and C = 6. -/
def wMma : Nat := wMod 3 ||| 2 <<< 38 ||| 4 <<< 33 ||| 6 <<< 28
def opMma (run : Nat) : MmaOp := ⟨0, 0, 0, 3, 0, 0x40000, 0, 0x40000, 64, run, 0, 0⟩
/-- Thread 0 owns accumulator tile 0, `n` passes are queued, and s6 holds K. -/
def sMma (n k : Nat) : State := sw (fun y => { y with s := [(6, BitVec.ofNat 64 k)] }) fun x =>
  { x with accs := [(0, ⟨some 0, 0, [], 0, false⟩)], mmaQ := List.replicate n (opMma 0) }
/-- Pass `opMma run` runs on accumulator tile 0 with offset `t`; the first scale byte of A and of B is `b`. -/
def sRun (run : Nat) (t : Int) (b : Byte) : State :=
  (sw id fun x => { x with accs := [(0, ⟨some 0, t, [], 0, false⟩)], mma := some (opMma run) }).put 0x40000 [b]

theorem leastNat_pos {l : List Nat} (h : ∀ x ∈ l, 0 < x) {c : Nat} (e : leastNat l = some c) : 0 < c := by
  induction l generalizing c with
  | nil => cases e
  | cons a l ih =>
    have i := h a (by simp)
    have j : ∀ c, leastBy id l = some c → 0 < c := fun c q => ih (fun x y => h x (by simp [y])) q
    simp only [leastNat, leastBy] at e
    split at e
    · cases e
      exact i
    · rename_i b q
      split at e <;> cases e
      · exact j _ q
      · exact i

theorem stageCycle_pos (v g : Nat) : 0 < stageCycle v g := by
  unfold stageCycle
  split
  · omega
  · split <;> omega

theorem run_done (p : Operands) (a : Acc) (v : Nat) : ∃ l f k, p.run a 3 v = .done l f k := by
  simp only [Operands.run, beq_self_eq_true, if_true]
  exact ⟨_, _, _, rfl⟩

/-- In a format of one cycle a wavefront, wavefront 0 comes before any overflow of a run. -/
theorem first_before {p : Operands} (v : Nat) (r : rowCycles p.fmt = 1) (l : List (Nat × MmaSum × Option (Nat × Nat))) :
    (match (leastNat (l.filterMap fun x => x.2.2.map fun g =>
        waveCycle p.fmt (waveNo g.1 (x.1 / 64) (x.1 % 64)) + stageCycle v g.2)).map (· + v / 9 % 2) with
      | some c => decide (waveCycle p.fmt 0 < c)
      | none => true) = true := by
  have z : waveCycle p.fmt 0 = 0 := by simp [waveCycle, r]
  generalize q : leastNat _ = m
  cases m with
  | none => rfl
  | some c =>
    have := leastNat_pos (fun x y => by
      obtain ⟨w, -, h⟩ := List.mem_filterMap.1 y
      obtain ⟨g, -, rfl⟩ := Option.map_eq_some_iff.1 h
      have := stageCycle_pos v g.2
      omega) q
    simp only [Option.map_some, z, decide_eq_true_eq]
    omega

theorem run_low {p : Operands} {a : Acc} {h l d : Int} (v : Nat) (r : rowCycles p.fmt = 1) (e : p.expRange = (some h, some l))
    (f : p.firstGroup a.offset (fun g => decide (g < -140)) = some 0) (c : h - a.offset ≤ 100) (g : a.lowering l h = d)
    (k : 16 ≤ d) : p.run a 1 v = .low d 0 := by
  have c' : ¬ (100 < h - a.offset) := by omega
  have b := first_before (p := p) v r ((List.range 4096).map fun n => (n, p.element false a.offset (n / 64) (n % 64) (a.value n)))
  simp only [Operands.run, e, f, g, k, decide_true, if_true, Option.getD_some, decide_eq_false c', Bool.false_eq_true, if_false,
    show ((1 : Nat) == 3) = false from rfl]
  revert b
  generalize (Option.map (· + v / 9 % 2) (leastNat _)) = m
  intro b
  cases m with
  | none => rfl
  | some c => simp only at b; simp [b]

theorem run_high {p : Operands} {a : Acc} {h l : Int} (v : Nat) (r : rowCycles p.fmt = 1) (e : p.expRange = (some h, some l))
    (f : p.firstGroup a.offset (fun g => decide (100 < g)) = some 0) (c : 100 < h - a.offset) :
    p.run a 1 v = .high (h - a.offset) 0 := by
  have b := first_before (p := p) v r ((List.range 4096).map fun n => (n, p.element false a.offset (n / 64) (n % 64) (a.value n)))
  simp only [Operands.run, e, f, c, decide_true, if_true, Option.getD_some, Bool.false_eq_true, if_false,
    show ((1 : Nat) == 3) = false from rfl]
  revert b
  generalize (Option.map (· + v / 9 % 2) (leastNat _)) = m
  intro b
  cases m with
  | none => rfl
  | some c => simp only at b; simp [b]

theorem witness_MatrixPasses : Issues (sMma 3 16384) ∧ Issues (sMma 4 64) ∧
    (onlyUses wMma (useD ||| useA ||| useB ||| useC ||| useMOD) = true ∧ fMOD wMma = 3 ∧ fmtMu 3 = true ∧
      fmtScaled 3 = true ∧ fA wMma = 2 ∧ fB wMma = 4 ∧ fC wMma = 6 ∧ fD wMma = 0 ∧ 64 % (8 * groupSize 3) = 0 ∧
      16384 % (8 * groupSize 3) = 0 ∧ ownRange 0 0 (64 * (16384 * fmtBits 3 / 8)) = true) ∧
    (∀ e ∈ [(3, 16384), (4, 64)], let s := sMma e.1 e.2
      ((s.tile 0).acc 0).owner = some 0 ∧ ((s.tile 0).acc 0).releasing = false ∧ ((s.thread 0 0).getS 6).toNat = e.2 ∧
      (∀ r ∈ [2, 3, 4, 5], (s.thread 0 0).getS r = 0) ∧ (s.tile 0).mmaQ.length = e.1 ∧
      ownRange 0 ((s.thread 0 0).pc + 8).toNat 8 = true) ∧
    ((sMma 1 64).on = true ∧ ((sMma 1 64).tile 0).mma = none ∧ ((sMma 1 64).tile 0).mmaQ = [opMma 0] ∧
      ((sMma 1 64).tile 0).tq = []) ∧
    (∀ e ∈ [(1, 0, 0), (1, 0, 254), (1, 112, 254), (3, 0, 0)], let s := sRun e.1 e.2.1 e.2.2
      s.on = true ∧ (s.tile 0).mma = some (opMma e.1) ∧ s.operandsBad (opMma e.1) = false ∧
      ((s.tile 0).acc 0).offset = e.2.1) ∧
    (∀ v, (∃ d m, ((sRun 1 0 0).operands (opMma 1)).run (((sRun 1 0 0).tile 0).acc 0) 1 v = .low d m) ∧
      (∃ e m, ((sRun 1 0 254).operands (opMma 1)).run (((sRun 1 0 254).tile 0).acc 0) 1 v = .high e m) ∧
      (∃ e m, ((sRun 1 112 254).operands (opMma 1)).run (((sRun 1 112 254).tile 0).acc 0) 1 v = .high e m)) ∧
    (∃ l f k, ((sRun 3 0 0).operands (opMma 3)).run (((sRun 3 0 0).tile 0).acc 0) 3 0 = .done l f k) :=
  ⟨issues_of (by decide +kernel), issues_of (by decide +kernel), by decide +kernel, by decide +kernel, by decide +kernel,
    by decide +kernel,
    fun v => ⟨⟨128, _, run_low v (h := -254) (l := -254) (by decide) (by decide +kernel) (by decide +kernel) (by decide +kernel)
        (by decide +kernel) (show (16 : Int) ≤ 128 by decide)⟩,
      ⟨_, _, run_high v (h := 254) (l := -254) (by decide) (by decide +kernel) (by decide +kernel) (by decide +kernel)⟩,
      ⟨_, _, run_high v (h := 254) (l := -254) (by decide) (by decide +kernel) (by decide +kernel) (by decide +kernel)⟩⟩,
    run_done _ _ _⟩

/-- Entry 0 of the Weir is taken by thread 0; the descriptors `q` wait. -/
def sWeir (q : List Word) : State := sw id fun x =>
  { x with cq := q, entries := [(0, { Entry.init with st := .taken, takenBy := some 0 })] }
/-- The same with the flag of an entry that is alone set in its record. -/
def sAlone : State := (sWeir []).put ((sWeir []).recAddr 0 0 + 15) [8]

theorem witness_WeirInstructions : Issues (sWeir []) ∧ Issues (sWeir [2 ^ 63]) ∧ Issues sAlone ∧ onlyUses 0 useD = true ∧
    onlyUses 0 (useA ||| useB ||| useCC) = true ∧ ownRange 0 (((sWeir []).thread 0 0).pc + 8).toNat 8 = true ∧
    ((sWeir []).tile 0).cq = [] ∧ ((sWeir [2 ^ 63]).tile 0).cq = [2 ^ 63] ∧
    (∀ s ∈ [sWeir [], sAlone], let v := (s.tile 0).entry (((s.thread 0 0).getS 0).toNat / 2 ^ 48 % 4096)
      v.st = .taken ∧ v.takenBy = some 0 ∧ v.voided = false) ∧
    ((sWeir []).recFlag 0 0 3 = false ∧ ownRange 0 0 (64 * nWireCells ((sWeir []).nodeRec 0 0)) = true) ∧
    (sAlone.recFlag 0 0 3 = true ∧ nRoot (sAlone.nodeRec 0 0) = false) :=
  ⟨issues_of (by decide +kernel), issues_of (by decide +kernel), issues_of (by decide +kernel), by decide +kernel⟩

/-- The return entry of endpoint 0 is valid; s1 names traffic class `tc` and s2 a length. -/
def sMsg (tc len : Nat) : State :=
  (sw (fun y => { y with s := [(1, BitVec.ofNat 64 (tc * 2 ^ 29)), (2, BitVec.ofNat 64 len)] }) id).put 0x80000007 [0x80]
/-- The head entry of the device ring holds the opcode of GROUP_BIND, and TAIL stands behind it. -/
def sBell : State := (s0.put (deviceRing.entry 0) [0x20, 0]).put deviceRing.base [1]
def wMsg : Nat := 1 <<< 33 ||| 2 <<< 28

theorem witness_ThreadMessages : (∀ e ∈ [(4, 1), (6, 56), (7, 3584)], issuesB (sMsg e.1 e.2) = true ∧
      ((sMsg e.1 e.2).thread 0 0).getS 1 = BitVec.ofNat 64 (e.1 * 2 ^ 29) ∧
      (((sMsg e.1 e.2).thread 0 0).getS 2).toNat = e.2 ∧ ownRange 0 0 e.2 = true ∧ (sMsg e.1 e.2).poisoned 0 e.2 = false ∧
      bitOf ((sMsg e.1 e.2).returnEntry 0) 63 = true ∧ ownRange 0 (((sMsg e.1 e.2).thread 0 0).pc + 8).toNat 8 = true) ∧
    (onlyUses wMsg (useA ||| useB ||| useC ||| useCC) = true ∧ fA wMsg = 0 ∧ fB wMsg = 1 ∧ fC wMsg = 2) ∧ Issues sBell ∧
    sBell.ring? (sBell.tile 0).ctx 0 = some deviceRing ∧ sBell.ctxState (sBell.tile 0).ctx = 1 ∧
    opcodes.contains (sBell.load (deviceRing.entry deviceRing.head) 2) = true ∧
    (sBell.readTail (sBell.tile 0).ctx 0).ringWork = [ringRank (sBell.tile 0).ctx 0] ∧
    ownRange 0 ((sBell.thread 0 0).pc + 8).toNat 8 = true :=
  ⟨by decide +kernel, by decide, issues_of (by decide +kernel), by decide +kernel⟩

/-- Thread 1 is halted by its bit. -/
def sHalt : State := s0.modThread 0 1 fun y => { y with st := .halted, resume := .run }

theorem witness_ThreadDebug : (s0.on = true ∧ (s0.thread 0 0).st = .run ∧ (s0.thread 0 0).ending = false) ∧
    (sHalt.on = true ∧ (sHalt.thread 0 1).st = .halted ∧ (sHalt.thread 0 1).resume = .run ∧
      (sHalt.thread 0 1).ending = false) ∧
    (let s := sWait .barrier
     s.on = true ∧ (s.thread 0 0).st = .wait ∧ (s.thread 0 0).ending = false) ∧
    (let s := s0.modThread 0 0 fun y => { y with st := .stopped }
     s.on = true ∧ (s.thread 0 0).st = .stopped ∧ (s.thread 0 0).ending = false) ∧
    ((1 : BitVec 16).getLsbD 0 = true ∧ (1 : BitVec 16).getLsbD 1 = false) ∧
    (let s := s0.modThread 0 0 fun y => { y with st := .halted }
     s.crossed 2 = false ∧ s.fld (TILE_DBG_SEL 0) TILE_DBG_SEL_KIND = 0 ∧
      s.fld (TILE_DBG_SEL 0) TILE_DBG_SEL_INDEX < 16 ∧ (s.thread 0 0).st = .halted) ∧
    (s0.crossed 2 = false ∧ s0.fld (TILE_DBG_SEL 0) TILE_DBG_SEL_KIND = 0 ∧ s0.fld (TILE_DBG_SEL 0) TILE_DBG_SEL_INDEX = 0) ∧
    (∀ off ∈ [0x8000, 0x80F8, 0x8200, 0xA1F8], 0x8000 ≤ off ∧ off % 8 = 0 ∧ off < 2 ^ 16) := by
  and_intros <;> decide +kernel

/-- Windows of context 0, generation 0, with every right: the SRAM of tile 0, the general pool area, and LPDDR5X. -/
def sWin : State :=
  [(0, tileBytes), (0x8E400000, 0x10000), (lpddrBase, 0x10000)].zipIdx.foldl (fun s e =>
    s.put (protAddr s e.2) (toBytes 32 (e.1.1 + e.1.2 * 2 ^ 64 + 15 * 2 ^ 148))) s0
def reqAt (a gen : Nat) (k : ReqKind) : Request := ⟨1, 0, 0, 0, gen, a, k⟩
/-- The same with request `r` in the inbox of every agent. -/
def sAsked (r : Request) : State :=
  ([0, 16].foldl (fun s a => s.setInbox a [.req r]) sWin).modTile 0 fun x => { x with inbox := [.req r] }
/-- The response to request 7. -/
def rsp7 : Response := ⟨0, 0, 7, .ok, 0⟩
/-- Request 7 of the thread is outstanding for `v`, with one stream `q` or none, and register 1 not valid; its response waits
in the inbox. -/
def sOut (v : Want) (q : List Stream) : State :=
  sw (fun y => { y with busyS := [1] }) fun x =>
    { x with outst := [⟨7, 0, 0, v⟩], streams := q, cc := [(0, 1)], inbox := [.rsp rsp7] }
def lastLine (inbound : Bool) : Stream := ⟨3, 0, 0, inbound, 0x1000, tileBytes, 1, 1, 0, 0⟩

theorem witness_RequestsAndResponses : (sAsked (reqAt 0 0 (.load 8))).Calm 0 ∧
    (∀ a ∈ [0, 0x8E400000, lpddrBase], ∀ k ∈ [ReqKind.load 8, .store 1 0, .atomic 0 true false 1 0],
      let s := sAsked (reqAt a 0 k)
      s.on = true ∧ s.refuses (reqAt a 0 k) = none ∧ s.poisoned a 64 = false ∧ s.poisoned a 8 = false ∧ a % 64 = 0 ∧
      s.mustWait a (reqSize k) = false ∧ s.genOf 0 ≠ (reqAt a 1 k).gen ∧
      firstOf (s.tile 0).inbox (reqAt a 0 k) = true ∧ firstOf (s.inbox 0) (reqAt a 0 k) = true ∧
      firstOf (s.inbox 16) (reqAt a 0 k) = true) ∧
    sWin.agentOf 0 = .tile 0 ∧ sWin.agentOf lpddrBase = .mport 0 ∧ sWin.safe = false ∧ sWin.ctxOpen 4095 = false ∧
    (∀ v ∈ [Want.scalar 1 64 false, .scalar 1 8 true, .atomic 1 true, .atomic 1 false, .store, .streamOut 3,
        .streamIn 3 0x1000],
      ∀ q ∈ [[], [lastLine true], [lastLine false]],
      (sOut v q).on = true ∧ ((sOut v q).tile 0).outst = [⟨7, 0, 0, v⟩] ∧ ((sOut v q).tile 0).streams = q ∧
      ((sOut v q).thread 0 0).st = .run ∧ ((sOut v q).thread 0 0).ending = false ∧
      ((sOut v q).thread 0 0).busyS = [1] ∧ ((sOut v q).tile 0).ccGet 0 = 1 ∧ .rsp rsp7 ∈ ((sOut v q).tile 0).inbox) ∧
    (∀ k, ((sOut (.streamIn 3 0x1000) [lastLine true]).thread 0 k).st ≠ .wait) := by
  refine ⟨(issues_of (by decide +kernel)).calm, by decide +kernel, by decide +kernel, by decide +kernel,
    (by decide +kernel), by decide +kernel, by decide +kernel, fun k => ?_⟩
  have := get_of_all (fun y : Thread => decide (y.st ≠ .wait)) Thread.init
    ((sOut (.streamIn 3 0x1000) [lastLine true]).tile 0).threads k (by decide) (by decide +kernel)
  exact of_decide_eq_true this

/-- TILE_FAULT of tile 0 holds an earlier fault. -/
def sFault : State := s0.setFld (TILE_FAULT 0) TILE_FAULT_VALID 1
/-- The same fault is of thread 5 and of this core cycle. -/
def sFaultNow : State := (sFault.setFld (TILE_FAULT 0) TILE_FAULT_THREAD 5).modTile 0 fun x => { x with faultAt := 0 }

theorem witness_FaultsAtIssue : Issues s0 ∧ Issues (s1 (2 ^ 48)) ∧ Issues sFault ∧
    onlyUses 1 (useD ||| useA ||| useB) = false ∧
    (let n := wMod 6 ||| 3
     onlyUses n (useD ||| useA ||| useIMM34 ||| useMOD) = true ∧ fMOD n = 6 ∧ 3 % 2 ^ (fMOD n % 4) ≠ 0) ∧
    (let n := wMod 3 ||| 4
     onlyUses n (useD ||| useA ||| useIMM34 ||| useMOD) = true ∧ fMOD n = 3 ∧ 4 % 2 ^ (fMOD n % 4) ≠ 0) ∧
    ((s1 (2 ^ 48)).thread 0 0).getS (fA wA) = 2 ^ 48 ∧ onlyUses wA (useD ||| useA ||| useIMM34 ||| useMOD) = true ∧
    ((s0.thread 0 0).getS (fA 0)).getLsbD 0 = false ∧ ((s0.tile 0).acc (fD 0)).owner ≠ some 0 ∧
    s0.bit (TILE_FAULT 0) TILE_FAULT_VALID = false ∧
    (sFault.bit (TILE_FAULT 0) TILE_FAULT_VALID = true ∧ ¬ (0 < sFault.fld (TILE_FAULT 0) TILE_FAULT_THREAD)) ∧
    Issues sFaultNow ∧ sFaultNow.bit (TILE_FAULT 0) TILE_FAULT_VALID = true ∧ (sFaultNow.tile 0).faultAt = sFaultNow.cycle ∧
    0 < sFaultNow.fld (TILE_FAULT 0) TILE_FAULT_THREAD :=
  ⟨issues0, issues_of (by decide +kernel), issues_of (by decide +kernel), by decide, by decide, by decide,
    by decide +kernel, by decide, by decide +kernel, by decide +kernel, by decide +kernel, by decide +kernel,
    issues_of (by decide +kernel), by decide +kernel⟩

/-- Thread 0 owns every accumulator tile. -/
def sOwner : State := sw id fun x => { x with accs := (List.range 32).map fun j => (j, ⟨some 0, 0, [], 0, false⟩) }
def wAcq (i j : Nat) : Nat := i <<< 43 ||| j <<< 38

theorem witness_AcqRelOperands : Issues s0 ∧ Issues sOwner ∧ onlyUses (wAcq 0 31) (useD ||| useA) = true ∧
    fD (wAcq 0 31) ≤ fA (wAcq 0 31) ∧ (∀ j < 32, ((sOwner.tile 0).acc j).owner = some 0 ∧ ((sOwner.tile 0).acc j).releasing = false) ∧ fD (wAcq 7 7) ≤ fA (wAcq 7 7) ∧
    fA (wAcq 1 0) < fD (wAcq 1 0) ∧ fA (wAcq 31 30) < fD (wAcq 31 30) ∧
    s0.bit (TILE_FAULT 0) TILE_FAULT_VALID = false :=
  ⟨issues0, issues_of (by decide +kernel), by decide +kernel⟩

theorem witness_ComputeFrame : (Issues s0 ∧ Issues (s1 16)) ∧ ownRange 0 ((s0.thread 0 0).pc + 8).toNat 8 = true ∧
    onlyUses (31 <<< 43) (useD ||| useA ||| useB) = true ∧ onlyUses (31 <<< 28) (useD ||| useA ||| useB ||| useC) = true ∧
    (∀ k < 4, fMOD (wMod k) = k ∧ onlyUses (wMod k ||| 31 <<< 43) (useD ||| useA ||| useB ||| useMOD) = true ∧
      onlyUses (wMod k ||| 31 <<< 43) (useD ||| useA ||| useMOD) = true) ∧
    onlyUses (2 ^ 38 - 1) (useD ||| useA ||| useIMM38) = true ∧ onlyUses (2 ^ 43 - 1) (useD ||| useIMM43) = true ∧
    onlyUses (2 ^ 21 - 1) (useD ||| (2 ^ 21 - 1)) = true ∧
    (∀ e ∈ [(wB, (0 : Word)), (wB ||| 5, 40)], onlyUses e.1 (useA ||| useB ||| useOFF33) = true ∧
      ownRange 0 ((s0.thread 0 0).pc + e.2).toNat 8 = true ∧ ((s0.thread 0 0).pc + e.2).toNat % 8 = 0) ∧
    (let n := wA ||| (2 ^ 33 - 1)
     bitOf n 32 = true ∧ (n % 2 ^ 33 : Int) - 2 ^ 33 = -1 ∧ onlyUses n (useD ||| useA ||| useOFF33) = true ∧
      ((s1 16).thread 0 0).getS (fA n) + 8 * BitVec.ofInt 64 (-1) = 8 ∧ ownRange 0 8 8 = true) ∧
    (let n := wMod 13 ||| 0xF <<< 24
     fMOD n = 13 ∧ onlyUses n (useD ||| useA ||| useB ||| useMask ||| useMOD) = true ∧
      onlyUses n (useD ||| useA ||| useMask ||| useMOD) = true) ∧
    onlyUses (wMod 13 ||| 7 <<< 25) (useD ||| useA ||| useB ||| useMK ||| useMOD) = true ∧
    (let n := wMod 5 ||| 7 <<< 43 ||| 3 <<< 16
     onlyUses n (useD ||| useA ||| useB ||| useMask ||| useMOD ||| useEXT) = true ∧ fD n < 8 ∧ fEXT n ≤ 3) ∧
    (∀ k ∈ [0, 1, 2], let n := wMod k ||| 7 <<< 43 ||| 7 <<< 38 ||| 7 <<< 33
      onlyUses n (useD ||| useA ||| useB ||| useMOD) = true ∧ fMOD n = k ∧ fD n < 8 ∧ fA n < 8 ∧ fB n < 8) ∧
    (∀ k ∈ [3, 4], let n := wMod k ||| 7 <<< 43 ||| 7 <<< 38
      onlyUses n (useD ||| useA ||| useMOD) = true ∧ fMOD n = k ∧ fD n < 8 ∧ fA n < 8) ∧
    (∀ k ∈ [5, 6], let n := wMod k ||| 7 <<< 43 ||| 7 <<< 38 ||| 3 <<< 16
      onlyUses n (useD ||| useA ||| useMOD ||| (3 <<< 16)) = true ∧ fMOD n = k ∧ fD n < 8 ∧ fA n < 8) := by
  refine ⟨⟨issues0, issues_of (by decide +kernel)⟩, ?_⟩
  decide +kernel

/-! ### Witnesses: the statements about lanes, links and cells -/

/-- The state after reset with port `p` in the lane map, GLOBAL and eight lanes wide, its link in state `st`, its record
changed by `f`. -/
def sPort (p st : Nat) (f : Port → Port) : State :=
  let s := (booted.putLaneMap [⟨p, 8, 2, false, 0, 0, 0, 0⟩]).setFld (PORT_LINK_STAT p) PORT_LINK_STAT_STATE st
  ((s.setFld (PORT_LINK_STAT p) PORT_LINK_STAT_WIDTH_MAP 8).setFld (PORT_ROLE p) PORT_ROLE_ROLE 2).modPort p f

theorem witness_LinkDown : (∀ p ∈ [0, 1016], (sPort p linkDown id).on = true ∧ (sPort p linkDown id).linkState p = linkDown ∧
      (sPort p linkUp id).on = true ∧ (sPort p linkUp id).linkState p ≠ linkDown ∧ (sPort p linkUp id).loopOf p ≠ 3) ∧
    (let s := sPort 0 linkUp fun x => { x with asked := some (7, 5) }
     s.on = true ∧ s.linkState 0 ≠ linkDown ∧ s.carries 0 = true ∧ (s.port 0).asked = some (7, 5)) ∧
    (let s := sPort 0 linkUp fun x => { x with narrowing := some [0, 1, 2, 3] }
     s.linkState 0 ≠ linkDown ∧ (s.port 0).narrowing.isSome = true) ∧
    (let s := sPort 0 linkUp fun x => { x with badRun := 7, powered := true }
     s.linkState 0 ≠ linkDown ∧ s.carries 0 = true ∧ s.lineOn 0 = true ∧ s.nearLoop 0 = false ∧ s.loopOf 0 ≠ 3 ∧ 7 ≤ (s.port 0).badRun) :=
  by decide +kernel

/-- The port trains on its eight lanes, of which those in `l` have locked to a marker that names the lane itself. -/
def trainOn (l : List Nat) (x : Port) : Port :=
  { x with powered := true, laneLock := l, trainLanes := List.range 8, markers := l.map fun i => (i, ⟨3, 3, i, 0⟩) }
/-- The receivers of lanes 1 to 7 have no lock. -/
def lostSeven (s : State) : State :=
  (List.range 7).foldl (fun s j => s.setFld (OCT_LANE_STAT 0 (j + 1)) OCT_LANE_STAT_LOL 1) s

theorem mark_of_none (x : Port) (h : x.markers = []) : ∀ i, (x.mark i).count < 3 := fun i => by
  simp [Port.mark, h, Table.get, Mark.init]

theorem witness_LinkTrainingAndLanes :
    (∀ en ∈ [0, 1], let s := (sPort 0 linkDown (trainOn [])).setFld (PORT_LINK_CTL 0) PORT_LINK_CTL_ENABLE en
     s.on = true ∧ (s.laneRec 0).isSome = true ∧ s.loopOf 0 ≠ 3 ∧ (s.port 0).powered = true ∧ s.linkState 0 = linkDown ∧
      (s.port 0).draining = false ∧ s.enabled 0 = decide (en = 1)) ∧
    (let s := sPort 0 linkTraining (trainOn [])
     s.on = true ∧ (s.laneRec 0).isSome = true ∧ s.loopOf 0 ≠ 3 ∧ (s.port 0).powered = true ∧
      s.linkState 0 = linkTraining ∧ s.locked 0 = false ∧ (s.port 0).markers = [] ∧ s.nearLoop 0 = false ∧
      (s.port 0).narrowing = none ∧ s.widthMap 0 = 8 ∧ (s.port 0).rxSwitched = false ∧
      (∀ i < 8, s.portOfLane (0 + i) = some (0, i)) ∧ s.linkState 0 ≠ linkDown ∧
      bitsOf (2 ^ 16) 16 48 ≠ bitsOf (s.rd (PORT_LINK_CTL 0)).toNat 16 48) ∧
    ((0 : Nat) / 2 ^ 64 ≠ 0x5A3C96F00F69C3A5 ∧ (0 : Nat) / 2 ^ 64 ≠ 2 ^ 64 - 1 - 0x5A3C96F00F69C3A5) ∧
    (let m := 0x5A3C96F00F69C3A5 * 2 ^ 64
     m / 2 ^ 64 = 0x5A3C96F00F69C3A5 ∧ bitOf m 38 = false ∧
      (2 ^ 128 - 1 - m) / 2 ^ 64 = 2 ^ 64 - 1 - 0x5A3C96F00F69C3A5 ∧ bitOf (2 ^ 128 - 1 - (2 ^ 128 - 1 - m)) 38 = false) ∧
    (let s := (((booted.putLaneMap [⟨0, 8, 2, false, 0, 0, 0, 0⟩]).setFld (PWR_DOMAIN 8) PWR_DOMAIN_STATE 2).setFld
       (PORT_LINK_CTL 0) PORT_LINK_CTL_ENABLE 1)
     s.on = true ∧ (lowest 128 fun o => !bitOf s.power.octetsOn o && !s.power.octetsDead.contains o &&
        s.fld (PWR_DOMAIN (8 + o / 16)) PWR_DOMAIN_STATE == 2 && s.laneMap.any fun r => r.port / 8 == o) = some 0 ∧
      (∃ r ∈ s.laneMap, r.port / 8 = 0 ∧ s.linkState r.port = linkDown ∧ (s.port r.port).draining = false ∧
        s.enabled r.port = true ∧ s.loopOf r.port ≠ 3)) ∧
    (booted.on = true ∧ ∀ l < 1024, booted.laneOn l = false) ∧
    (let s := lostSeven (sPort 0 linkTraining (trainOn []))
     s.on = true ∧ s.laneOn 0 = true ∧ s.portOfLane 0 = some (0, 0) ∧ s.carries 0 = false ∧ s.loopOf 0 ≠ 2 ∧
      ∀ j < 8, s.laneOn (8 * (0 / 8) + j) = true → j ≠ 0 % 8 → s.bit (OCT_LANE_STAT (0 / 8) j) OCT_LANE_STAT_LOL = true) ∧
    (let s := (sPort 0 linkUp (trainOn [])).setFld (PORT_LINK_CTL 0) PORT_LINK_CTL_NARROW_EN 0
     s.on = true ∧ s.laneOn 7 = true ∧ s.portOfLane 7 = some (0, 7) ∧ s.live 0 = true ∧
      (s.lanesNow 0).contains ((s.port 0).carried 7) = true ∧ s.loopOf 0 ≠ 2 ∧
      s.bit (PORT_LINK_CTL 0) PORT_LINK_CTL_NARROW_EN = false ∧
      Table.get 0 (s.port 0).serWindow 7 ≤ s.fld (OCT_CFG (7 / 8)) OCT_CFG_LANE_SER_LIMIT) ∧
    (∀ e ∈ [([0, 1, 2, 3], true), ([], false)],
      let s := sPort 0 linkUp fun x => { trainOn e.1 x with narrowing := some [0, 1, 2, 3], peerNext := some 0 }
      s.on = true ∧ (s.port 0).narrowing = some [0, 1, 2, 3] ∧ s.locked 0 = e.2 ∧ (s.port 0).peerNext = some 0 ∧
        (0 : BitVec 11).toNat = (s.port 0).txNum % 2048 ∧ (s.port 0).peerNext ≠ some 1) := by
  and_intros <;> decide +kernel

/-- The cells of a hello whose first payload is `c` and whose signature is `sig`, the rest zero. -/
def helloOf (c sig : Nat) : List Cell := (List.range 4).map fun i =>
  ⟨sealHdr (13 * 2 ^ 124 + 2 ^ 112 + i * 2 ^ 110), BitVec.ofNat 512 (if i = 0 then c else if i = 3 then sig else 0)⟩

/-- The check of the signature of a hello. -/
def helloGood (l : List Cell) : Bool := ed25519Verify ((payBytes (helloPay l 2)).take 32)
  ((List.range 3).flatMap fun i => payBytes (helloPay l i)) (payBytes (helloPay l 3))

/-- A hello whose first payload passes every check of an eight-lane port of nonce 0: role 1, width 8, revisions 2 to 3. -/
def goodHello : List Cell := helloOf (2 ^ 32 + 8 * 2 ^ 40 + 2 * 2 ^ 64 + 3 * 2 ^ 72 + 4 * 2 ^ 80) 0

theorem witness_LinkHello :
    (let s := sPort 0 linkHello fun x => { x with hellos := [helloOf 0 2], peerNonce := 0 }
     s.on = true ∧ s.linkState 0 = linkHello ∧ s.idFail = false ∧ s.egressBlocked = false ∧
      s.crossed (0x40 + 0 / 8) = false ∧ (s.port 0).replayed = none ∧
      helloWhole [] = false ∧ helloWhole (helloOf 0 0) = true ∧ (∀ c ∈ helloOf 0 0, hcrcOk c.h = true) ∧
      (∃ c ∈ [(⟨1, 0⟩ : Cell)], hcrcOk c.h = false) ∧
      BitVec.ofNat 64 (payNum (helloPay (helloOf 0 0) 0) 24 8) = (s.port 0).peerNonce ∧
      (s.port 0).hellos = [helloOf 0 2] ∧ helloGood (helloOf 0 2) = false) ∧
    (let s := ((sPort 0 linkHello id).setFld SPW_STAT SPW_STAT_SAFE 1).setFld SPW_STAT SPW_STAT_FATAL 1
     s.on = true ∧ s.linkState 0 = linkHello ∧ s.egressBlocked = true) ∧
    (let l := helloOf (2 ^ 32) 0
     let s := sPort 0 linkHello fun x => { x with hellos := [l], nonce := 1 }
     s.on = true ∧ s.linkState 0 = linkHello ∧ (s.port 0).hellos = [l] ∧ helloGood l = true ∧
      payNum (helloPay l 0) 4 1 ≠ 0 ∧ BitVec.ofNat 64 (payNum (helloPay l 0) 32 8) ≠ (s.port 0).nonce) ∧
    (∀ w ∈ [4, 8], let c := helloPay goodHello 0
      let s := ((sPort 0 linkHello fun x => { x with hellos := [goodHello] }).setFld (PORT_LINK_STAT 0) PORT_LINK_STAT_WIDTH
        8).setFld (PORT_LINK_STAT 0) PORT_LINK_STAT_WIDTH_MAP w
      s.on = true ∧ s.linkState 0 = linkHello ∧ (s.port 0).hellos = [goodHello] ∧ helloGood goodHello = true ∧
      payNum c 4 1 ≠ 0 ∧ BitVec.ofNat 64 (payNum c 32 8) = (s.port 0).nonce ∧ payNum c 10 1 = 4 ∧
      max 2 (payNum c 8 1) ≤ min 3 (payNum c 9 1) ∧ bitOf (s.rd (PORT_PEER_EXP0 0)).toNat 63 = false ∧
      s.rd (PORT_PEER_EXP1 0) = 0 ∧ payNum c 5 1 = s.width 0 ∧ s.widthMap 0 = w ∧ s.wanted 0 0 ≤ s.grantPool) ∧
    (∀ p < 1024, booted.carries p = false) ∧ (sPort 0 linkUp id).carries 0 = true := by
  and_intros <;> decide +kernel

theorem witness_Codewords :
    (let s := sPort 0 linkUp fun x => { x with txBits := (1, 5100), powered := true }
     s.on = true ∧ s.carries 0 = true ∧ (s.port 0).narrowing = none ∧ s.crossed (0x40 + 0 / 8) = false ∧
      (s.port 0).replaying = none ∧ 5100 ≤ (s.port 0).txBits.2 ∧ (s.port 0).txBits.1 < 2 ^ (s.port 0).txBits.2 ∧
      s.nearLoop 0 = false ∧ s.loopOf 0 ≠ 3 ∧ s.lineOn 0 = true ∧ (s.port 0).badRun < 7 ∧ (s.port 0).asked = none ∧
      (s.port 0).replayed = none) ∧
    (let s := sPort 0 linkUp fun x => { x with replayed := some (6, 0), powered := true }
     s.on = true ∧ s.carries 0 = true ∧ s.nearLoop 0 = false ∧ s.loopOf 0 ≠ 3 ∧ s.lineOn 0 = true ∧
      (s.port 0).badRun < 7 ∧ (s.port 0).asked = none ∧ (s.port 0).replayed = some (6, (s.port 0).rxNum % 2048)) ∧
    (∀ k ∈ [0, 1], let s := sPort 0 linkUp fun x => { x with replaying := some (k + 1), replayBuf := [3, 4] }
     s.on = true ∧ s.carries 0 = true ∧ (s.port 0).narrowing = none ∧ s.crossed (0x40 + 0 / 8) = false ∧
      (s.port 0).replaying = some (k + 1)) ∧
    (let s := sPort 0 linkUp (trainOn [])
     let w : RxCodeword := ⟨false, false, [], BitVec.ofNat 5140 ((prbsWord (s.port 0).rxPrbs).1 ^^^ 2 ^ 5116)⟩
     s.on = true ∧ s.carries 0 = true ∧ s.lineOn 0 = true ∧ w.uncorrectable = false ∧ w.corrected = [] ∧
      (let ctl := (w.msg.toNat ^^^ (prbsWord (s.port 0).rxPrbs).1) / 2 ^ 5100
       bitsOf ctl 16 4 ≠ bitsOf ctl 36 4)) ∧
    (let s := sPort 0 linkUp fun x => { x with asked := some (6, 5) }
     s.on = true ∧ s.carries 0 = true ∧ (s.port 0).asked = some (6, 5)) ∧
    (let s := sPort 0 linkTraining fun x => { x with powered := true, trainLanes := List.range 8 }
     s.on = true ∧ s.linkState 0 = linkTraining ∧ s.lineOn 0 = true ∧
      s.nearLoop 0 = false ∧ (s.port 0).txSwitched = false ∧ (s.port 0).rxSwitched = false ∧ (s.lanesNow 0).length ≤ 8) ∧
    (let s := sPort 0 linkTraining id
     s.on = true ∧ s.carries 0 = false ∧ (s.port 0).txSwitched = false ∧ s.lineOn 0 = false) := by
  and_intros <;> decide +kernel

/-- A message cell of traffic class 4 whose PATH names output 0. -/
def msgCell (type : Nat) : Cell := ⟨routedHdr type 4 0 0 0 0 0 0 0 8, 0⟩

theorem witness_CellReceive : (∀ st ∈ [linkUp, linkDegraded, linkHello], let s := sPort 0 st id
      s.on = true ∧ s.carries 0 = true ∧ s.crossed (0x40 + 0 / 8) = false ∧ s.linkState 0 = st ∧
      (s.port 0).asked = none ∧ (s.port 0).replayed = none ∧ (s.vc 0 (hVc (msgCell 15).h)).excess = 0) ∧
    hcrcOk 1 = false ∧
    (hcrcOk (msgCell 15).h = true ∧ hType (msgCell 15).h ≠ 0 ∧ legalType (msgCell 15).h = false) ∧
    (let c := msgCell 1
     let s := sPort 0 linkUp id
     hcrcOk c.h = true ∧ hType c.h = 1 ∧ legalType c.h = true ∧ s.live 0 = true ∧ s.spoofed 0 c.h = false ∧ hTc c.h < 5 ∧
      s.mirrors = [] ∧ s.bit RSV_SAMPLE_CFG RSV_SAMPLE_CFG_SAMPLE_EN = false ∧
      s.routeFails (hPath c.h (hHp c.h)) c.h = none ∧ s.heldCells = [] ∧ s.descUsed ≤ Config.descriptors ∧
      ∀ o w, ∀ x ∈ s.q o w, x.linked.1 ≠ s.cycle ∨ x.linked.2 ≤ 0) := by
  and_intros
  all_goals first | decide +kernel | (intro o w x h; rw [show (sPort 0 linkUp id).q o w = [] from rfl] at h; cases h)

/-! ### Witnesses: the statements about the Reservoir, the Sluice and the Weir -/

/-- `s` with item `i` in slot 0, one copy left to read or none, and its entry at the head of queue (`o`, `v`). -/
def sSlot (s : State) (i : Item) (ch : Charge) (copies o v : Nat) : State :=
  let s := s.putSlots [(0, ⟨i, 0, v, ch, copies, 0⟩)]
  s.putQueues [(qIndex o v, [⟨0, 0, false, 0, false, (0, 0)⟩])]

def someCell : Item := .cell (msgCell 1)

theorem witness_SlotsAndQueues :
    (let s := sSlot booted someCell .shared 1 0 0
     s.on = true ∧ (∃ x, Table.look s.slots (0 : BitVec 22).toNat = some x ∧ x.copies ≠ 0)) ∧
    (let s := sSlot (sPort 0 linkUp id) someCell .reserved 0 0 0
     s.on = true ∧ (∃ x, Table.look s.slots (0 : BitVec 22).toNat = some x ∧ x.copies = 0 ∧ x.charge = .reserved ∧
      s.live x.input = true ∧ (s.vc x.input x.vc).excess = 0)) ∧
    (∀ c ∈ [Charge.shared, .internal, .mirror], let s := sSlot booted someCell c 0 0 0
     s.on = true ∧ (Table.look s.slots (0 : BitVec 22).toNat).map Slot.copies = some 0 ∧
      (Table.look s.slots (0 : BitVec 22).toNat).map Slot.charge = some c) ∧
    (let x : HeldCell := ⟨1297, 0, someCell, 0, [⟨0, 0, 0, false⟩], false⟩
     let s := booted.putHeldCells [x]
     s.on = true ∧ s.heldCells = x :: [] ∧ x.input = (1297 : Fin 1298).val ∧ x.vc < 16 ∧
      s.descUsed + (x.copies.length - 1) ≤ Config.descriptors) ∧
    (let s := booted.putMirrors [(0, { Mirror.init with records := [[0]] })]
     s.on = true ∧ (s.mirror (0 : Fin 16)).records ≠ []) ∧
    (let r : Response := ⟨255, 15, 0, .ok, 0⟩
     let s := booted.putXin [(1297, [(10, .rsp r)])]
     s.on = true ∧ Table.get [] s.xin 1297 = [(10, .rsp r)] ∧
      (∀ j < 1298, 1024 ≤ j → j ≠ 1297 → Table.get [] s.xin j = []) ∧ s.charged 1297 10 < 64 ∧ s.heldCells = [] ∧
      s.descUsed ≤ Config.descriptors ∧ ∀ x ∈ s.q (1025 + 255) 10, x.linked.1 ≠ s.cycle ∨ x.linked.2 ≤ 1297) :=
  ⟨⟨by decide +kernel, _, rfl, by decide⟩, ⟨by decide +kernel, _, rfl, by decide +kernel⟩,
    by decide +kernel⟩

/-- Port 0 up, with credit on channel 0. -/
def sCredit : State := (sPort 0 linkUp id).modVc 0 0 fun x => { x with peerCred := 1 }

theorem witness_OutputSelection :
    (let s := ((sPort 0 linkUp id).setFld SPW_STAT SPW_STAT_SAFE 1).setFld SPW_STAT SPW_STAT_FATAL 1
     s.on = true ∧ s.live 0 = true ∧ s.crossed (0x40 + 0 / 8) = false ∧ s.egressBlocked = true) ∧
    (let s := sPort 0 linkUp id
     s.on = true ∧ s.live 0 = true ∧ s.crossed (0x40 + 0 / 8) = false ∧ s.egressBlocked = false ∧
      (∀ v < 16, s.q 0 v = []) ∧ (s.port 0).mirrorQ = []) ∧
    (let s := sSlot sCredit someCell .shared 1 0 0
     s.on = true ∧ s.live 0 = true ∧ s.crossed (0x40 + 0 / 8) = false ∧ s.egressBlocked = false ∧ s.mirrors = [] ∧
      s.prio 0 0 = true ∧ s.eligible 0 0 = true ∧ s.q 0 0 = ⟨0, 0, false, 0, false, (0, 0)⟩ :: [] ∧
      (Table.look s.slots 0).map Slot.item = some someCell) ∧
    (let e : QEntry := ⟨0, (msgCell 1).hdr, false, 0, false, (0, 0)⟩
     let s := (sSlot booted someCell .shared 1 1025 3).putQueues [(qIndex 1025 3, [e])]
     s.on = true ∧ s.accepts 1025 3 = true ∧ s.prio 1025 3 = true ∧ s.q 1025 3 = e :: [] ∧
      (s.headItem 1025 3).map forWeir = some false ∧ ∀ w < 3, s.prio 1025 w = true → s.q 1025 w = []) ∧
    (let e : QEntry := ⟨0, BitVec.ofNat 128 (8 * 2 ^ 124), false, 0, false, (0, 0)⟩
     let s := ((sSlot booted someCell .shared 1 1025 3).setFld (TILE_WEIR_CFG 0) TILE_WEIR_CFG_ENABLE 1).putQueues
       [(qIndex 1025 3, [e])]
     s.on = true ∧ s.accepts 1025 3 = true ∧ s.prio 1025 3 = true ∧ s.q 1025 3 = e :: [] ∧
      (s.headItem 1025 3).map forWeir = some true ∧ ∀ w < 3, s.prio 1025 w = true → s.q 1025 w = []) ∧
    (let s := (sSlot booted someCell .mirror 1 1025 3).modPort 1024 fun x => { x with mirrorQ := [(0, 0, [1])] }
     s.on = true ∧ s.egressBlocked = false ∧ s.crossed 1 = false ∧ (∀ v < 16, s.q 1024 v = []) ∧ (s.port 1024).mirrorQ = (0, 0, [1]) :: [] ∧
      s.slotItem 0 = some someCell ∧ (s.mirror 0).records.length < 13) :=
  by decide +kernel

theorem witness_GateLists : booted.on = true ∧
    (let s := booted.setFld (PORT_GATE_ENTRY 1023 0 0) PORT_GATE_ENTRY_DURATION 1
     s.on = true ∧ s.gateList 1023 (s.gateBank 1023) ≠ []) ∧
    (let s := booted.setFld (PORT_GATE_CTL 1023) PORT_GATE_CTL_ARM 1
     s.on = true ∧ s.bit (PORT_GATE_CTL 1023) PORT_GATE_CTL_ARM = true ∧
      s.bit (PORT_GATE_CTL 1023) PORT_GATE_CTL_SW_MODE = false ∧
      (s.rd (PORT_GATE_SWITCH_AT 1023)).toNat ≤ s.cycle) ∧
    (let s := [0, 1023].foldl (fun s p => (s.setFld (PORT_GATE_CTL p) PORT_GATE_CTL_ARM 1).setFld (PORT_GATE_CTL p)
       PORT_GATE_CTL_SW_MODE 1) booted
     s.on = true ∧ s.switchReached 1023 = true ∧ ∀ q ∈ [0, 1023], s.bit (PORT_GATE_CTL q) PORT_GATE_CTL_ARM = true ∧
      s.bit (PORT_GATE_CTL q) PORT_GATE_CTL_SW_MODE = true ∧ s.fld (PORT_GATE_CTL q) PORT_GATE_CTL_SW_CTX = 0 ∧
      (s.rd (PORT_GATE_SWITCH_AT q)).toNat % 2 ^ 32 = 0) ∧
    booted.bit (PORT_GATE_CTL 1023) PORT_GATE_CTL_ARM = false ∧ bitOf (0 : Word).toNat 8 = false ∧
    bitOf (0 : Word).toNat 33 = false ∧ gateListOk (booted.gateList 1023 (1 - booted.gateBank 1023)) = true ∧
    (booted.rd (PORT_GATE_SWITCH_AT 1023)).toNat ≤ booted.cycle ∧ booted.gateBank 1023 = 0 :=
  by decide +kernel

/-- A notice with `n` cells pending for endpoint 0 whose return entry is valid. -/
def sNotice (n : Nat) : State :=
  let y : Notice := ⟨true, n, 0, 0, 3, 0, 0, 0, 0, 0⟩
  (((booted.putFails [((0, 1023), y)]).putEchoes [((0, 7), y)]).putEchoGaps [echoTimer (0, 7)]).put 0x80000007 [0x80]

theorem witness_ShapingSamplingGaps :
    (let s := (((sPort 0 linkUp id).setFld SLU_SMP_CFG SLU_SMP_CFG_ENABLE 1).setFld (PORT_POLICE 0 2) PORT_POLICE_POLICED 1)
     s.on = true ∧ (s.laneMap.map LaneRec.port).Nodup ∧ s.bit SLU_SMP_CFG SLU_SMP_CFG_ENABLE = true ∧
      s.bit SLU_HIST_CTL SLU_HIST_CTL_BUSY = false ∧ (s.laneRec 0).isSome = true) ∧
    (let s := booted.setFld SLU_HIST_CTL SLU_HIST_CTL_BUSY 1
     s.on = true ∧ s.bit SLU_HIST_CTL SLU_HIST_CTL_BUSY = true) ∧
    (∀ n ∈ [0, 1, 65536], (sNotice n).on = true ∧ (Table.look (sNotice n).fails (0, 1023)).map Notice.count = some n ∧
      bitOf ((sNotice n).returnEntry 0) 63 = true) ∧
    (∀ n, (sNotice n).echoGaps.contains (echoTimer (0, 7)) = true ∧ ∃ y,
      ((sNotice n).echoes.filter fun e => echoTimer e.1 == echoTimer (0, 7)) = [((0, 7), y)]) ∧
    (((sNotice 0).putEchoes []).echoes.filter fun e => echoTimer e.1 == echoTimer (0, 7)) = [] :=
  ⟨by decide +kernel, by decide +kernel, by decide +kernel,
    fun n => ⟨by rw [show (sNotice n).echoGaps = [echoTimer (0, 7)] from rfl]; simp,
      by rw [show (sNotice n).echoes = [((0, 7), ⟨true, n, 0, 0, 3, 0, 0, 0, 0, 0⟩)] from rfl]; simp⟩, rfl⟩

/-- Single bytes written at offsets from `a`. -/
def putL (s : State) (a : Nat) (l : List (Nat × Nat)) : State := l.foldl (fun s e => s.put (a + e.1) [BitVec.ofNat 8 e.2]) s

/-- The Weir of tile 0 is on, its region 1 MiB from 0; node 0 is VALID with two slots, one chunk, one entry and format 0;
entry 0 is `e`, its staging at 0x50000, its runs at 0x70000, its record at 0x60000, and the tile is changed by `f`. -/
def sNode (e : Entry) (f : Tile → Tile) : State :=
  let s := ((sw id fun x => f { x with entries := [(0, e)] }).setFld (TILE_WEIR_CFG 0) TILE_WEIR_CFG_ENABLE 1).setFld
    (TILE_WEIR_CFG 0) TILE_WEIR_CFG_SIZE 16
  putL s 0 [(4, 1), (18, 2), (26, 1), (30, 1), (128, 3), (0x40002, 5), (0x4000A, 7), (0x40012, 6)]
/-- A head (type 8) or a payload cell (type 2) of label 0. -/
def weirCell (type : Nat) : Cell := ⟨BitVec.ofNat 128 (type * 2 ^ 124), 0⟩
/-- The port of tile 0 offers such a cell to its Weir, which holds its input at it or not. -/
def offering (type : Nat) (held : Bool) (s : State) : State :=
  ((sSlot s (.cell (weirCell type)) .shared 1 1025 0).putQueues
    [(qIndex 1025 0, [⟨0, (weirCell type).hdr, false, 0, false, (0, 0)⟩])]).modTile 0 fun x => { x with offer := some ⟨0, 0, held⟩ }
/-- A slot that has delivered every group. -/
def whole : Contrib := ⟨0, false, 1, 0, 64, true⟩
def inState (st : EState) (n : Nat) : Entry :=
  { Entry.init with st := st, finals := n, slots := [(0, whole), (16, whole)], runs := [(0, 64)] }
def onePost (sent : Nat) : Posted := ⟨0, 0, 0, 0, 0, 0, 0, 1, 64, sent, 0⟩

theorem load_reset (a n : Nat) : booted.load a n = 0 := by
  have h : ∀ l : List Nat, ofBytes (l.map fun i => Memory.read booted.mem (a + i)) = 0 := by
    intro l
    induction l with
    | nil => rfl
    | cons i l ih =>
      have r : Memory.read booted.mem (a + i) = 0 := rfl
      simp only [ofBytes, List.map_cons, List.foldr_cons] at ih ⊢
      rw [ih, r]
      rfl
  exact h _

theorem no_node (n : Nat) : nValid (booted.nodeRec 0 n) = false := by
  rw [State.nodeRec, load_reset, ite_self]
  rfl

/-- Tag entry 0 valid with one element counted and `z` zeros; the context is one step further; DRY_CFG.WINDOW is `w`. -/
def sTag (z w : Nat) : State :=
  let s := ((s0.setFld (CTX_STATE 0) CTX_STATE_STEP 1).setFld DRY_CFG DRY_CFG_THRESH 1).setFld DRY_CFG DRY_CFG_WINDOW w
  ((s.put (tagAddr s0 0 + 20) [1]).put (tagAddr s0 0 + 28) [BitVec.ofNat 8 z]).put (tagAddr s0 0 + 52) [1]

theorem witness_WeirCellsAndGroups :
    (let s := offering 8 false (sNode Entry.init id)
     let k := weirCell 8
     let r := s.nodeRec 0 0
     s.on = true ∧ s.weirShut 0 = false ∧ s.offered 0 = some k ∧ hType k.h = 8 ∧ hCirc k.h = 0 ∧ nValid r = true ∧
      headRefusal r 0 k.pay none = none ∧ nEntryBase r + hdWire r k.pay % max 1 (nWindow r) = 0 ∧
      ((s.tile 0).entry 0).st = .free ∧ hdMasked k.pay = false ∧ s.bound 0 = true) ∧
    (let s := offering 8 false (sNode { Entry.init with st := .opened, node := 5 } id)
     s.on = true ∧ s.weirShut 0 = false ∧ s.offered 0 = some (weirCell 8) ∧
      headRefusal (s.nodeRec 0 0) 0 (weirCell 8).pay none = none ∧
      ((s.tile 0).entry 0).st ≠ .free ∧ ((s.tile 0).entry 0).node ≠ 0) ∧
    (let s := offering 8 true (sNode Entry.init id)
     s.on = true ∧ s.weirHolds 0 = true ∧ s.tileHeld 0 = false ∧ s.offered 0 = some (weirCell 8) ∧ ((s.tile 0).entry 0).st = .free ∧
      headRefusal (s.nodeRec 0 0) 0 (weirCell 8).pay none = none) ∧
    (hType (weirCell 2).h = 2 ∧ hCirc (weirCell 2).h = 0) ∧
    (let s := offering 2 false (sNode Entry.init fun x => { x with refusing := [0] })
     s.weirShut 0 = false ∧ s.offered 0 = some (weirCell 2) ∧ 0 ∈ (s.tile 0).refusing) ∧
    (let s := offering 2 false (sNode Entry.init id)
     s.weirShut 0 = false ∧ s.offered 0 = some (weirCell 2) ∧ 0 ∉ (s.tile 0).refusing ∧ (s.tile 0).openLabels = []) ∧
    (let s := offering 2 false (sNode { Entry.init with st := .opened, slots := [(0, whole)] } fun x =>
       { x with openLabels := [(0, 0, 0)] })
     let y := (s.tile 0).entry 0
     let q := s.nodeRec 0 y.node
     s.on = true ∧ s.weirShut 0 = false ∧ s.offered 0 = some (weirCell 2) ∧ 0 ∉ (s.tile 0).refusing ∧
      (s.tile 0).openLabels.find? (fun l => l.1 == 0) = some (0, 0, 0) ∧ y.contrib 0 0 = some whole ∧
      whole.got + 1 < cellsOf q whole.head ∧ s.stageAddr 0 0 = 0x50000 ∧ s.nodeAddr 0 y.node = 0 ∧
      1 ∈ runSlots q (0 / nRun q) ∧ nMask q 1 = true ∧ y.delivers q 1 (y.runGroups (0 / nRun q)) = false) ∧
    (booted.on = true ∧ booted.bound 0 = true ∧ ∀ n, nValid (booted.nodeRec 0 n) = false) ∧
    (∀ e ∈ [(EState.opened, 0), (.queued, 1), (.taken, 1)], let s := sNode (inState e.1 e.2) id
      let y := (s.tile 0).entry 0
      let r := s.nodeRec 0 y.node
      s.on = true ∧ issuesB s = true ∧ y.st = e.1 ∧ y.failed = false ∧ y.voided = false ∧ y.finals = e.2 ∧ e.2 < nGroups r ∧
      s.poisoned (s.recAddr 0 0) 256 = false ∧ (∀ i < nRuns r, y.runReady r i e.2 = true ∧ e.2 < y.runGroups i ∧
        s.poisoned (s.runPlace 0 0 r i e.2).1 (s.runPlace 0 0 r i e.2).2 = false)) ∧
    (∀ st ∈ [EState.free, .opened, .queued, .taken, .sending],
      ((sNode (inState st 0) id).tile 0).entry 0 = inState st 0 ∧ issuesB (sNode (inState st 0) id) = true) ∧
    (∀ n ∈ [0, 64], let s := sNode (inState .sending 64) fun x => { x with posts := [onePost n], cc := [(0, 1)] }
      s.issueStopped 0 = false ∧ issuesB s = true ∧ Table.get [] s.xin 1025 = [] ∧ (s.tile 0).nextPost s.ctxOpen = some (onePost n) ∧
      (s.findGroup 0 0).filter s.gReplay = none ∧ (s.tile 0).ccGet 0 = 1) ∧
    (∀ e ∈ [(0, 4), (1, 4), (1, 1)], let s := sTag e.1 e.2
      let a := tagAddr s 0
      let now := s.fld (CTX_STATE (s.load a 2 % 4096)) CTX_STATE_STEP
      issuesB s = true ∧ bitOf (s.load (a + 52) 1) 0 = true ∧ s.poisoned a 64 = false ∧ (now + 2 ^ 32 - s.load (a + 16) 4) % 2 ^ 32 = 1 ∧
      s.load (a + 20) 8 = 1 ∧ s.load (a + 44) 4 % 2 ^ 20 = 0 ∧
      decide (s.load (a + 28) 8 * 2 ^ 20 < s.fld DRY_CFG DRY_CFG_THRESH * s.load (a + 20) 8) = decide (e.1 = 0) ∧
      max 1 (s.fld DRY_CFG DRY_CFG_WINDOW) = e.2) :=
  ⟨by decide +kernel, by decide +kernel, by decide +kernel, (by decide +kernel), by decide +kernel, by decide +kernel,
    by decide +kernel, ⟨by decide +kernel, by decide +kernel, no_node⟩, by decide +kernel⟩

/-! ### Witnesses: the statements about collectives, experts, memory and pools -/

/-- A payload with single bytes set. -/
def payOf (l : List (Nat × Nat)) : Payload := BitVec.ofNat 512 (l.foldl (fun n e => n + e.2 * 2 ^ (8 * e.1)) 0)
def cellOf (type : Nat) (l : List (Nat × Nat)) : Cell := ⟨BitVec.ofNat 128 (type * 2 ^ 124), payOf l⟩
/-- A control cell: KIND, chunk, attempt, flags. -/
def ctl (type kind chunk attempt : Nat) : Cell := cellOf type [(12, kind), (0, chunk), (13, attempt)]

/-- Group record 0, handle 0 of context 0, in state `st` with flag bits `fl` (bit 0: root, bit 1: replay): two chunks, a window
of two, `b` branches. -/
def sGrp (st fl b : Nat) (x : Group) : State :=
  (putL booted (groupAddr booted 0) [(4, st), (5, fl), (24, 2), (28, 2), (30, b)]).putGroups [(0, x)]
def withChunk (y : Chunk) : Group := { Group.init with chunks := [(1, y)] }

theorem witness_CollectiveUp : (∀ e ∈ [(0, 1), (0, 2), (1, 1), (1, 2)], let s := sGrp 2 e.1 e.2 Group.init
      s.on = true ∧ s.findGroup 0 0 = some 0 ∧ hCtx (ctl 9 1 1 0).h = 0 ∧ hTag (ctl 9 1 1 0).h = 0 ∧
      s.ackCurrent 0 (ctl 9 1 1 0) = true ∧ s.ackCurrent 0 (ctl 9 1 1 1) = false ∧ s.ackCurrent 0 (ctl 9 1 2 0) = false ∧
      hType (ctl 9 1 1 0).h = 9 ∧ cKind (ctl 9 1 1 0) = 1 ∧ (s.chunkOf 0 1).acked = [] ∧ s.grp 0 30 2 % 2048 = e.2 ∧
      s.gRoot 0 = decide (e.1 = 1) ∧ s.egressBlocked = false ∧ s.wmMute 0 = false) ∧
    (let s := sGrp 2 0 1 (withChunk { Chunk.init with pondGood := true })
     s.ackCurrent 0 (ctl 9 1 1 0) = true ∧ (s.chunkOf 0 1).pondGood = true ∧ (s.chunkOf 0 1).selfAcked = false ∧
      s.findGroup 0 0 = some 0 ∧ s.gRoot 0 = false ∧ s.wmMute 0 = false ∧ s.grp 0 30 2 % 2048 ≤ (s.chunkOf 0 1).acked.length + 1) ∧
    (hType (ctl 9 2 1 0).h = 9 ∧ cKind (ctl 9 2 1 0) = 2) ∧
    (let s := sGrp 2 0 1 (withChunk { Chunk.init with pond := some 0 })
     s.ackCurrent 0 (ctl 9 2 1 0) = true ∧ s.ackCurrent 0 (ctl 9 2 1 1) = false ∧ (s.chunkOf 0 1).pond.isSome = true ∧
      (s.chunkOf 0 1).pondGood = false ∧ (s.chunkOf 0 1).pondBad = false ∧ (s.chunkOf 0 1).waitNack = []) ∧
    (let s := (sGrp 2 0 1 (withChunk { Chunk.init with pond := some (BitVec.ofNat 64 0x8E400000), pondGood := true, pondCells := 1 })).put 7 [0x80]
     s.on = true ∧ s.findGroup 0 0 = some 0 ∧ s.ackCurrent 0 (ctl 9 2 1 0) = true ∧ (s.chunkOf 0 1).pondGood = true ∧
      (s.chunkOf 0 1).pond = some (BitVec.ofNat 64 0x8E400000) ∧ s.wmMute 0 = false ∧
      s.poisoned (handleAddr (BitVec.ofNat 64 0x8E400000)) 160 = false ∧
      Table.get 0 (s.chunkOf 0 1).nacks 0 < max 1 (s.fld WM_CFG WM_CFG_NACK_LIMIT) ∧
      bitOf (s.load (s.grp 0 56 8 + 8 * 0) 8) 63 = true) ∧
    (hType (ctl 10 7 1 0).h = 10 ∧ cKind (ctl 10 7 1 0) = 7) ∧
    (let s := sGrp 2 1 1 Group.init
     s.chunkOpen 0 1 = true ∧ s.chunkOpen 0 2 = false ∧ (s.chunkOf 0 1).attempt = cAttempt (ctl 10 7 1 0) ∧
      (s.chunkOf 0 1).attempt ≠ cAttempt (ctl 10 7 1 1) ∧ (s.chunkOf 0 1).voids < max 1 (s.fld WM_CFG WM_CFG_RETRY_LIMIT) ∧
      (((s.chunkOf 0 1).acked ++ (s.ackWaits 0 1 (s.wmReached 0 (ctl 10 7 1 0))).map Prod.fst).eraseDups).length <
        s.grp 0 30 2 % 2048) :=
  by decide +kernel

theorem witness_CollectiveDown :
    (∀ st ∈ [1, 2, 3], let s := sGrp st 0 1 Group.init
      s.on = true ∧ s.findGroup 0 0 = some 0 ∧ s.gRoot 0 = false ∧ (s.group 0).nodes = [] ∧ (s.group 0).chunks = [] ∧
      1 ∉ (s.group 0).sealed ∧ 1 < s.gChunks 0 ∧ s.gState 0 = st ∧ s.wmInbox = [] ∧ s.wmMute 0 = false ∧
      groupAddr s 0 + 256 ≤ countAddr s (sourceOf 8 0)) ∧
    (∀ n ∈ [1, 2, 3, 4, 5, 6], hType (ctl 10 n 1 0).h = 10 ∧ cKind (ctl 10 n 1 0) = n ∧ hCtx (ctl 10 n 1 0).h = 0 ∧
      hTag (ctl 10 n 1 0).h = 0 ∧ bitOf (cFlags (ctl 10 n 1 0)) 7 = false) ∧
    (let s := (sGrp 2 0 1 Group.init).putWmInbox [(2048, 0, ctl 10 3 1 0)]
     s.on = true ∧ s.findGroup 0 0 = some 0 ∧ s.gRoot 0 = false ∧
      (s.wmInbox.any fun e => e.1 == 2048 && e.2.2 == ctl 10 3 1 0) = true) ∧
    (let s := sGrp 2 1 1 { Group.init with settling := true }
     s.on = true ∧ s.gRoot 0 = true ∧ s.chunkOpen 0 1 = true ∧ s.chunkOpen 0 2 = false ∧ s.egressBlocked = false ∧
      (s.chunkOf 0 1).voids < max 1 (s.fld WM_CFG WM_CFG_RETRY_LIMIT) ∧ s.gState 0 = 2 ∧ (s.group 0).settling = true) ∧
    (let s := sGrp 2 2 1 Group.init
     s.on = true ∧ s.gReplay 0 = true ∧ s.gState 0 = 2 ∧ (s.group 0).replaySize < (s.group 0).replayAt + 64 ∧
      s.groupEntries 0 = []) ∧
    (let s := (sGrp 2 2 1 { Group.init with replaySize := 64 }).put 15 [4]
     s.on = true ∧ s.gReplay 0 = true ∧ s.gState 0 = 2 ∧ (s.group 0).replayAt + 64 ≤ (s.group 0).replaySize ∧
      1024 ≤ s.load ((s.group 0).replayBase + (s.group 0).replayAt + 14) 2) :=
  by decide +kernel

/-- EHT 0 VALID with flag bits `fl`, combine tile 0 alone, four combine entries, eight held tokens at most, two experts, of
which 0 has CAP `cap`; rank 0 is its one source, with an owner in pool 4. -/
def sEht (fl cap : Nat) (x : Eht) : State :=
  let s := putL (booted.setFld EXP_CFG EXP_CFG_ENABLE 1) (ehtAddr booted 0)
    [(3, 1 + fl), (6, 2), (10, 1), (11, 31), (12, 1), (13, 4), (14, 8), (28, 4), (72, 1)]
  let s := putL s (entAddr s 0 0 0) [(0, cap), (7, 0x80)]
  ((s.putEhts [(0, x)]).putOwners [(9, ⟨4, 3, ownerKey 0 0, 0, 0, 0⟩)]).putPools
    [(4, ⟨1, 0, 0, true, 0, 1, 1, 0x8E400000, 0, [0x8E400000], [], 0, [], []⟩)]
/-- A TYPE 14 head: KIND, token, step, one cell, one expert (number 0). -/
def xHead (kind token step : Nat) : Payload := payOf [(2, kind), (4, token), (8, step), (12, 1), (14, 0x11)]
def xCell (kind token step : Nat) : Cell := ⟨BitVec.ofNat 128 (14 * 2 ^ 124), xHead kind token step⟩
def tok (token step : Nat) : Token := ⟨0, 0, xHead 0 token step, [], 0, false⟩
def dueOne (l : List Token) : Eht := { Eht.init with opened := true, rolls := [(0, 0, 1)], tokens := l }

def turnTok : Turn → Option Token
  | .turn t => some t
  | _ => none
def lateTok : Turn → Option Token
  | .late t => some t
  | _ => none
theorem turn_of {x : Turn} {t : Token} (h : turnTok x = some t) : x = .turn t := by
  cases x <;> simp_all [turnTok]
theorem late_of {x : Turn} {t : Token} (h : lateTok x = some t) : x = .late t := by
  cases x <;> simp_all [lateTok]

/-- A message alone at the head of port 0, its sources' owner in pool 4 with at most `mx` buffers. -/
def sHeadMsg (fl mx : Nat) (m : HeadMsg) : State :=
  ((sEht fl 0xFF Eht.init).putExpIn [(0, 0, m)]).putOwners [(9, ⟨4, 3, ownerKey 0 0, mx, 0, mx⟩)]
def msgOf (kind token step : Nat) : HeadMsg := ⟨xCell kind token step, []⟩

theorem witness_ExpertTokens :
    (∀ e ∈ [(0, true), (1, false)], let s := sHeadMsg 0 e.1 (msgOf 0 0 0)
     s.on = true ∧ s.bit EXP_CFG EXP_CFG_ENABLE = true ∧ s.expFirst 0 = some (msgOf 0 0 0) ∧ s.expWait = [] ∧
      s.ehtFor (xCell 0 0 0) = some 0 ∧ xKind (xHead 0 0 0) = 0 ∧ hSrc (xCell 0 0 0).h % 256 = 0 ∧ 0 ∈ s.sources 0 ∧ s.tokenEarlier 0 0 = false ∧
      s.sourceOwner 0 0 = some (9, ⟨4, 3, ownerKey 0 0, e.1, 0, e.1⟩) ∧
      (s.tokenBuffer 0 9 ⟨4, 3, ownerKey 0 0, e.1, 0, e.1⟩).1.isSome = e.2) ∧
    (let s := (booted.setFld EXP_CFG EXP_CFG_ENABLE 1).putExpIn [(0, 0, msgOf 0 0 0)]
     s.expFirst 0 = some (msgOf 0 0 0) ∧ s.expWait = [] ∧ s.ehtFor (xCell 0 0 0) = none) ∧
    (∀ kind ∈ [0, 1], let c : Cell := ⟨(xCell kind 0 1).hdr ||| BitVec.ofNat 128 (2 ^ 43), xHead kind 0 1⟩
     let s := sHeadMsg 0 0 ⟨c, []⟩
     s.expFirst 0 = some ⟨c, []⟩ ∧ s.expWait = [] ∧ s.ehtFor c = some 0 ∧ hSrc c.h % 256 ∉ s.sources 0) ∧
    (let s := sHeadMsg 0 0 (msgOf 1 0 1)
     s.expFirst 0 = some (msgOf 1 0 1) ∧ s.expWait = [] ∧ xKind (xHead 1 0 1) = 1 ∧ s.ehtFor (xCell 1 0 1) = some 0 ∧
      s.ehtArrival 0 = false ∧ hSrc (xCell 1 0 1).h % 256 ∈ s.sources 0 ∧ s.ehtCur 0 < xStep (xHead 1 0 1) ∧
      (s.eht 0).rolls = []) ∧
    (let s := sHeadMsg 0 0 (msgOf 3 0 0)
     s.expFirst 0 = some (msgOf 3 0 0) ∧ s.expWait = [] ∧ xKind (xHead 3 0 0) = 3 ∧ s.ehtFor (xCell 3 0 0) = some 0 ∧
      xDisp (xHead 3 0 0) = s.switchId) ∧
    (let s := sEht 0 0xFF { Eht.init with rolls := [(0, 0, 1)] }
     s.on = true ∧ s.ehtValid 0 = true ∧ (s.eht 0).held = [] ∧ s.ehtArrival 0 = false ∧
      (∀ r ∈ s.sources 0, ((s.eht 0).roll (s.nextStep 0) r).isSome = true) ∧ (s.eht 0).opened = false) ∧
    (let s := sEht 0 0xFF { Eht.init with rolls := [(0, 0, 1), (1, 0, 1)], opened := true, next := [(0, 1)] }
     s.ehtValid 0 = true ∧ (s.eht 0).held = [] ∧ s.ehtArrival 0 = false ∧
      (∀ r ∈ s.sources 0, ((s.eht 0).roll (s.nextStep 0) r).isSome = true) ∧ (s.eht 0).opened = true ∧
      ∀ r ∈ s.sources 0, ((s.eht 0).roll (s.ehtCur 0) r).getD 0 ≤ Table.get 0 (s.eht 0).next r) ∧
    (let s := sEht 8 0xFF (dueOne [tok 0 1])
     s.ehtValid 0 = true ∧ (s.eht 0).held = [] ∧ s.ehtArrival 0 = true ∧ (s.eht 0).tokens = tok 0 1 :: [] ∧
      s.ehtCur 0 < xStep (tok 0 1).head) ∧
    (let s := putL (sEht 0 0xFF { Eht.init with rolls := [(7, 0, 1)] }) (ehtAddr booted 0) [(72, 3)]
     s.on = true ∧ s.ehtValid 0 = true ∧ s.ehtArrival 0 = false ∧ (∃ y ∈ (s.eht 0).rolls, y.1 = (7 : BitVec 32).toNat) ∧
      (∃ r ∈ s.sources 0, (s.eht 0).roll (7 : BitVec 32).toNat r = none)) ∧
    (∀ e ∈ [(0, 0xFF, PosTest.free), (0, 0, .full), (0x20, 0, .full), (0x30, 0, .full)],
      let s := sEht e.1 e.2.1 (dueOne [tok 0 0])
      s.on = true ∧ s.ehtValid 0 = true ∧ (s.eht 0).decided = [] ∧ s.ehtPolicy 0 = e.1 / 16 ∧ xNuse (tok 0 0).head = 1 ∧
      xCells (tok 0 0).head ≤ s.ehtNum 0 11 1 ∧ 1 ≤ s.ehtNum 0 12 1 ∧ s.testExpert 0 (s.eht 0).counts [] 0 = e.2.2 ∧
      xExp (tok 0 0).head 0 = 0 ∧ (s.eht 0).held.length + (s.eht 0).nextHeld.length < s.ehtNum 0 14 2) ∧
    (sEht 0 0xFF (dueOne [tok 0 0])).nextToken 0 = .turn (tok 0 0) ∧
    (sEht 8 0xFF (dueOne [tok 0 0])).ehtArrival 0 = true ∧ (sEht 8 0xFF (dueOne [tok 0 0])).nextToken 0 = .turn (tok 0 0) ∧
    ((putL (sEht 0 0xFF (dueOne [tok 0 0])) (ehtAddr booted 0) [(24, 1)]).nextToken 0 = .late (tok 0 0)) := by
  and_intros <;> first | decide +kernel | exact turn_of (by decide +kernel) | exact late_of (by decide +kernel)

/-- Entry 3 of EHT 0 at combine tile 0 expects copy 0 of a token of one cell. -/
def oneComb : Comb := ⟨0, 3, [0], [], 0, 7, 0, 0, false, 1, 1, 0, 0, [], [], false, 0, 0⟩
/-- A cell of a return for entry `cent`, on TC 4. -/
def retCell (cent : Nat) : Cell := ⟨BitVec.ofNat 128 (2 * 2 ^ 124 + 4 * 2 ^ 121 + cent * 2 ^ 31), xHead 3 7 0⟩
def sComb (l : List Item) : State :=
  (sEht 0 0xFF Eht.init).modTile 0 fun x => { x with combs := [(3, oneComb)], inbox := l }
/-- The same entry has the head of position 0, in format 3; its one data cell; and the state in which it comes. -/
def lastComb : Comb := { oneComb with fmt := 3, got := [(0, false, [])], labels := [(0, 0)] }
def dataCell : Cell := ⟨BitVec.ofNat 128 (2 * 2 ^ 124 + 4 * 2 ^ 121 + 3 * 2 ^ 31 + 2 ^ 19), 0⟩
def sLast : State := ((sComb [.cell dataCell]).modTile 0 fun x => { x with combs := [(3, lastComb)] }).put 0x80000007 [0x80]
def someChoice : Decided := ⟨tok 7 0, [0], 0, 0, [(0, 5)]⟩

theorem witness_CombineEntries :
    (let s := sEht 0 0xFF { Eht.init with decided := [someChoice] }
     s.on = true ∧ (s.eht 0).decided = someChoice :: [] ∧ someChoice.chosen ≠ [] ∧
      s.ehtNum 0 (40 + xToken someChoice.tok.head % max 1 (s.ehtNum 0 10 1)) 1 = 0 ∧
      lowest (s.ehtNum 0 28 2) (fun i => !Table.has (s.tile 0).combs (2048 * 0 + i)) = some 0) ∧
    (∀ cent ∈ [2, 3], let k := retCell cent
     let s := sComb [.cell k]
     s.on = true ∧ s.issueStopped 0 = false ∧ (s.returnCells 0).find? (fun c => hCirc c.h == hCirc k.h) = some k ∧
      s.combFor 0 k = if cent = 3 then some (3, oneComb) else none) ∧
    (hSeq (retCell 3).h = 0 ∧ oneComb.got = [] ∧ 0 ∈ oneComb.expected ∧ xCells (retCell 3).pay = oneComb.ncells ∧
      0 < oneComb.ncells ∧ xStep (retCell 3).pay = oneComb.step ∧ xToken (retCell 3).pay = oneComb.token ∧
      xFailed (retCell 3).pay = false) ∧
    ((sComb []).returnCells 0 = [] ∧ Table.look ((sComb []).tile 0).combs (combKey 0 3) = some oneComb ∧
      oneComb.sending = false) ∧
    (let k := dataCell
     let s := sLast
     let c := lastComb
     let d : Comb := { c with got := c.got.map fun x => if x.1 == 0 then (0, false, x.2.2 ++ [1]) else x }
     s.on = true ∧ s.issueStopped 0 = false ∧ (s.returnCells 0).find? (fun c => hCirc c.h == hCirc k.h) = some k ∧
      s.combFor 0 k = some (3, c) ∧ hSeq k.h % 256 = 1 ∧ hSeq k.h / 256 % 8 = 0 ∧
      c.got.find? (fun g => g.1 == 0) = some (0, false, []) ∧ 1 ≤ c.ncells ∧ c.expected.all d.done = true ∧
      s.ctxOpen c.ctx = true ∧ bitOf (s.returnEntry c.source) 63 = true ∧ s.rd (TILE_FP_EVT 0) = 0 ∧ 0 < fmtBits c.fmt ∧
      fmtBits c.fmt % 8 = 0 ∧ combAddr s c.eht 0 c.cent + 64 * (1 + c.area 0 * (c.ncells + 1)) + 64 * 1 + 64 ≤ 2 ^ 31 ∧
      2 ^ 31 ≤ (s.rd ROUTE_RET_BASE).toNat ∧ 2 ^ 31 ≤ (s.rd EXP_BASE).toNat) := by
  and_intros <;> decide +kernel

/-- Fabric window 0: 64 KiB of LPDDR5X from `base`, every right, for endpoints 0 to 7 of context 0; the return entry of
endpoint 0 is valid, and `c` waits at memory port 0, which is input 1,281. -/
def sFab (base : Nat) (c : Cell) : State :=
  let s := (booted.setInbox 0 [.cell c]).put (fabAddr booted 0)
    (toBytes 32 (base + 2 ^ 16 * 2 ^ 64 + 15 * 2 ^ 148 + 7 * 2 ^ 192))
  s.put 0x80000007 [0x80]
/-- A request of type `type`, with `n` in its length field of `k` bytes at `at_`. -/
def fabCell (type at_ n : Nat) : Cell := cellOf type [(at_, n % 256), (at_ + 1, n / 256)]

theorem witness_FabricMemory :
    (∀ n ∈ [1, 4096], let c := fabCell 4 10 n
      let s := sFab lpddrBase c
      s.on = true ∧ s.firstOfSource 1281 c = true ∧ bitOf (s.returnEntry (hSrc c.h)) 63 = true ∧ hType c.h = 4 ∧ payNum c.pay 10 2 = n ∧
      s.mustWait (s.memAddress c.pay) n = false ∧
      s.memCheck c.h c.pay n (decide (1 ≤ n) && decide (n ≤ 4096)) (s.fabWindow (mWindow c.pay)).rd true = none ∧
      s.poisoned (s.memAddress c.pay) n = false) ∧
    (let c := fabCell 4 10 4097
     let s := sFab lpddrBase c
     s.firstOfSource 1281 c = true ∧ s.mustWait (s.memAddress c.pay) 4097 = false ∧
      s.memCheck c.h c.pay 4097 (decide (1 ≤ 4097) && decide (4097 ≤ 4096)) (s.fabWindow (mWindow c.pay)).rd true = some 2) ∧
    (∀ n ∈ [1, 48], let c := fabCell 6 9 n
      let s := sFab lpddrBase c
      let a := s.memAddress c.pay
      s.firstOfSource 1281 c = true ∧ 2 ^ 31 ≤ a ∧ hType c.h = 6 ∧ payNum c.pay 9 1 = n ∧ s.mustWait a n = false ∧
      s.memCheck c.h c.pay n (decide (1 ≤ n) && decide (n ≤ 48)) (s.fabWindow (mWindow c.pay)).wr true = none ∧
      s.partialPoison a n = false ∧ (s.rd ROUTE_RET_BASE).toNat + 8 * hSrc c.h + 8 ≤ a) ∧
    (let c := fabCell 7 9 16
     let s := sFab lpddrBase c
     let a := s.memAddress c.pay
     let t := s.putAtomics [(0, 0, 0, 5)]
     s.firstOfSource 1281 c = true ∧ t.firstOfSource 1281 c = true ∧ 2 ^ 31 ≤ a ∧ hType c.h = 7 ∧ payNum c.pay 9 1 = 16 ∧ s.mustWait a 8 = false ∧
      s.memCheck c.h c.pay 8 true (s.fabWindow (mWindow c.pay)).at_ (a % 8 == 0) = none ∧ s.atomics = [] ∧
      s.poisoned a 8 = false ∧ (s.rd ROUTE_RET_BASE).toNat + 8 * hSrc c.h + 8 ≤ a ∧
      t.memCheck c.h c.pay 8 true (t.fabWindow (mWindow c.pay)).at_ (a % 8 == 0) = none ∧ t.mustWait a 8 = false ∧
      bitOf (t.returnEntry (hSrc c.h)) 63 = true ∧
      t.atomics.find? (fun x => x.1 == hSrc c.h && x.2.1 == hTag c.h && x.2.2.1 == hSeq c.h) = some (0, 0, 0, 5)) ∧
    (sFab 0 (fabCell 6 9 1)).memAddress (fabCell 6 9 1).pay = 0 ∧ issuesB s0 = true :=
  by decide +kernel

theorem witness_MemoryPatrols :
    (∀ a ∈ [0, 0x7FFFFFFF, windowBase], booted.on = true ∧ isSram (a / 8 * 8) = true ∧ booted.sramAt ≤ a / 8 * 8) ∧
    (∀ a ∈ [0, 0x7FFFFFFF], a / 8 * 8 < windowBase) ∧ (∀ r, Table.get 0 booted.rowErrs r ≠ 3) ∧
    (let s := booted.putPatrolAt 64
     s.on = true ∧ 0 < s.patrolAt ∧
      Table.get 0 s.pageErrs (s.patrolAt / 4096) + 1 < max 1 (s.fld MEM_CFG MEM_CFG_RETIRE_THRESH)) ∧
    (let s := booted.putPageHeld [7]
     s.on = true ∧ (7 : BitVec 27).toNat ∈ s.pageHeld) ∧ booted.selfRefresh = false :=
  ⟨by decide +kernel, by decide, fun _ => show (0 : Nat) ≠ 3 by decide, by decide +kernel⟩

/-- Pool 4 of sixteen buffers, fifteen or all of them free; owner 9 of the management side with at most `mx` buffers. -/
def sPool (mx : Nat) (cache : Nat) (bufs : List (Nat × Buf)) : State :=
  ((booted.putOwners [(9, ⟨4, 1, 0, mx, 0, bufs.length⟩), (10, ⟨4, 1, 0, 0, 0, 0⟩)]).putPools
    [(4, ⟨1, 0, 0, true, 0, 17, 17, 0x8E400000, 0, (List.range cache).map fun i => 0x8E401000 + 4096 * i, [], 0, [], []⟩)]).putBufs
    bufs
/-- Pool 4 without a ring, its head entries on the chip 0x8E401000 and `l`; every buffer ends its list. -/
def sChain (l : List Nat) : State :=
  (0x8E401000 :: l).foldl (fun s a => s.put (a + 8) (List.replicate 8 0xFF)) ((sPool 1 16 []).putPools
    [(4, ⟨1, 0, 0, false, 0, 17, 17, 0x8E400000, 0, [], [], 0, 0x8E401000 :: l, []⟩)])
def anOwner (mx used : Nat) : Owner := ⟨4, 1, 0, mx, 0, used⟩
def aBuf (owners : List Nat) : List (Nat × Buf) := [(0x8E400000, ⟨1, owners, some 9⟩)]
def aHandle (ticket : Nat) : Word := handleOf ticket 0x8E400000

theorem witness_PoolOperations : operates .mgmt 4 = true ∧ booted.on = true ∧
    (operates .dispatcher 0 = false ∨ booted.mayAct .dispatcher 0 9 = false) ∧
    (let s := sPool 1 16 []
     s.on = true ∧ s.mayAct .mgmt 4 9 = true ∧ s.owner 9 = some (anOwner 1 0) ∧ (s.pool 4).state = 1 ∧
      s.mayAlloc 4 (anOwner 1 0) = true ∧ (s.pool 4).ring = true ∧ (s.pool 4).cache.length = 16) ∧
    (let s := sPool 1 17 []
     s.mayAlloc 4 (anOwner 1 0) = true ∧ (s.pool 4).ring = true ∧ 16 ≤ (s.pool 4).cache.tail.length) ∧
    (∀ l ∈ [[], [0x8E402000], [0x8E402000, 0x8E403000]], let s := sChain l
      s.on = true ∧ s.mayAct .mgmt 4 9 = true ∧ s.owner 9 = some (anOwner 1 0) ∧ (s.pool 4).state = 1 ∧
      s.mayAlloc 4 (anOwner 1 0) = true ∧ (s.pool 4).ring = false ∧ (s.pool 4).chip = 0x8E401000 :: l ∧
      (l = [] → s.readNext (s.pool 4) 0x8E401000 = some 0) ∧ (s.readAhead (s.pool 4) 3 l).2 = none) ∧
    (let s := sPool 1 16 (aBuf [9])
     s.on = true ∧ s.mayAct .mgmt 4 9 = true ∧ s.owner 9 = some (anOwner 1 1) ∧ (s.pool 4).state = 1 ∧
      s.mayAlloc 4 (anOwner 1 1) = false ∧ s.waiters.length < 1024 ∧ s.handleOk 4 (aHandle 2) = false ∧
      s.handleOk 4 (aHandle 1) = true ∧ handleAddr (aHandle 1) = 0x8E400000 ∧ s.buf 0x8E400000 = ⟨1, [9], some 9⟩ ∧
      s.waiters = [] ∧ s.owner 10 = some (anOwner 0 0) ∧ s.mayAct .mgmt 4 10 = true ∧ 10 ∉ (s.buf 0x8E400000).owners) ∧
    (let s := sPool 0 16 (aBuf [9, 10])
     s.handleOk 4 (aHandle 1) = true ∧ 9 ∈ (s.buf 0x8E400000).owners ∧ (s.buf 0x8E400000).owners.getLast? ≠ some 9) := by
  and_intros <;> decide +kernel

/-! ### Witnesses: the statements about intake rings -/

/-- Arguments of an entry: byte offset in the entry and value. -/
def argsOf (l : List (Nat × Nat)) : BitVec 384 := BitVec.ofNat 384 (l.foldl (fun n e => n + e.2 * 2 ^ (8 * (e.1 - 16))) 0)
def cmd (c : BitVec 12) (l : List (Nat × Nat)) : RingCmd := ⟨c, 0, 0, false, 0, argsOf l⟩
/-- The ring of context 5, and the device ring, with one entry posted. -/
def ring5 : Ring := ⟨0x8E400000, 4, true, 0, 1⟩
def ring0 : Ring := { deviceRing with tail := 1 }
/-- Context 5 in state `st`; the entry of command `k` with opcode `op` stands on the ring that it names, the other is empty; a
window lets context 5 read and write 64 KiB of LPDDR5X. -/
def sCtx (st : Nat) (k : RingCmd) (op : Nat) : State :=
  let c := k.ctx.toNat
  let s := (booted.putCtxs [(0, { Ctx.init with rings := [(0, { ring0 with tail := flag (c == 0) })] }),
    (5, { Ctx.init with rings := [(0, { ring5 with tail := flag (c == 5) })] })]).setFld (CTX_STATE 5) CTX_STATE_STATE st
  (s.put (protAddr s 0) (toBytes 32 (lpddrBase + 2 ^ 16 * 2 ^ 64 + 5 * 2 ^ 128 + 15 * 2 ^ 148))).put
    ((if c = 0 then ring0 else ring5).base + 64) (toBytes 2 op ++ List.replicate 14 0 ++ toBytes 48 k.args.toNat)

/-- The part of `Posted` that can be decided. -/
def postedB (s : State) (k : RingCmd) (op : Nat) (x : Ring) : Bool :=
  s.on && decide (s.ring? k.ctx.toNat k.ring = some x) && decide (2 ^ 31 ≤ x.base) && !s.ringHalted k.ctx.toNat k.ring &&
    decide (s.ringWork = [ringRank k.ctx.toNat k.ring]) && s.entryIs x k op && decide (x.tail = k.index.toNat + 1) &&
    decide (k.index.toNat + 1 < 2 ^ 64)

theorem posted_of {s : State} {k : RingCmd} {op : Nat} {x : Ring} (h : postedB s k op x = true) : s.Posted k op x := by
  simp only [postedB, Bool.and_eq_true, decide_eq_true_eq, Bool.not_eq_true'] at h
  constructor <;> simp only [h]

/-- A range that is no part of the diagnostic window and holds no uncorrectable error: reading it changes nothing. -/
def plainRead (s : State) (a n : Nat) : Bool :=
  !(decide (windowBase ≤ a) && decide (a < windowBase + 2 ^ 28)) && !s.poisoned a n

theorem read_of {s : State} {a n : Nat} (h : plainRead s a n = true) : s.dataRead a n = ((s.dataRead a n).1, s) := by
  simp only [plainRead, Bool.and_eq_true, Bool.not_eq_true'] at h
  rw [State.dataRead, h.1, h.2]
  rfl

theorem witness_RingRejects : (sCtx 2 (cmd 5 []) 0x20).Posted (cmd 5 []) 0x20 ring5 ∧
    (sCtx 1 (cmd 5 []) 1).Posted (cmd 5 []) 1 ring5 ∧ (sCtx 1 (cmd 0 []) 0x20).Posted (cmd 0 []) 0x20 ring0 ∧
    (Instr.groupBind (cmd 5 [])).onRing = some (cmd 5 [], 0x20, false) ∧
    (Instr.ctxOpen (cmd 5 [])).onRing = some (cmd 5 [], 1, true) ∧
    (Instr.groupBind (cmd 0 [])).onRing = some (cmd 0 [], 0x20, false) ∧ (sCtx 2 (cmd 5 []) 0x20).ctxState 5 = 2 ∧
    (sCtx 1 (cmd 5 []) 1).ctxState 5 = 1 ∧ (cmd 5 []).ctx ≠ 0 ∧ (cmd 0 []).ctx = 0 ∧
    (∀ q, Instr.groupBind (cmd 0 []) ≠ .ctxClose q) ∧
    (let s := (sCtx 1 (cmd 5 []) 0x20).wr (CTX_RING_HALT 5) 1
     s.on = true ∧ s.ring? 5 0 = some ring5 ∧ s.ringHalted 5 0 = true) ∧
    (let s := sCtx 1 (cmd 0 []) 0x20
     s.on = true ∧ s.nextRing ≠ some (ringRank 5 0) ∧ s.ctxState (closeTarget (cmd 5 [])) ≠ 2) :=
  ⟨posted_of (by decide +kernel), posted_of (by decide +kernel), posted_of (by decide +kernel), rfl, rfl, rfl,
    by decide +kernel, by decide +kernel, by decide, by decide, fun _ => nofun, by decide +kernel, by decide +kernel⟩

/-- CTX_OPEN of context 4,095 with one ring; the descriptor stands at the start of LPDDR5X. -/
def openCmd : RingCmd := cmd 0 [(16, 4095), (18, 7), (24, lpddrBase), (32, 1), (40, 9)]
def sOpen : State := (sCtx 1 openCmd 1).put lpddrBase (toBytes 8 0x8E402000 ++ [12])
def stepCmd : RingCmd := cmd 5 [(16, 0xFFFFFFFF)]

theorem witness_RingContexts :
    (sOpen.Posted openCmd 1 ring0 ∧ sOpen.ctxState 0 = 1 ∧ openCmd.ctx = 0 ∧ openCmd.arg 16 2 = 4095 ∧
      openCmd.arg 32 1 = 1 ∧ sOpen.ctxState 4095 = 0 ∧ (sOpen.ctx 4095).closedAt = none ∧
      sOpen.mayRead 0 (openCmd.arg 24 8) 16 = true ∧
      ∃ b, sOpen.dataRead (openCmd.arg 24 8) 16 = (b, sOpen) ∧ (sOpen.ringDesc ((b.drop (16 * 0)).take 16)).isSome = true) ∧
    ((sCtx 1 stepCmd 0x30).Posted stepCmd 0x30 ring5 ∧ (sCtx 1 stepCmd 0x31).Posted stepCmd 0x31 ring5 ∧
      (sCtx 1 stepCmd 0x30).ctxState 5 = 1 ∧ (sCtx 1 stepCmd 0x31).ctxState 5 = 1 ∧ stepCmd.ctx ≠ 0 ∧
      (sCtx 1 stepCmd 0x30).groupsBound = [] ∧ stepCmd.arg 16 2 ≠ 0) ∧
    (closeTarget (cmd 5 []) = 5 ∧ (sCtx 1 (cmd 5 []) 2).Posted (cmd 5 []) 2 ring5 ∧ (sCtx 1 (cmd 5 []) 2).ctxState 5 = 1 ∧
      (sCtx 1 (cmd 5 []) 2).tilesOf 5 = [] ∧ (sCtx 1 (cmd 5 []) 2).groupsBound = []) ∧
    (closeTarget (cmd 0 [(16, 5)]) = 5 ∧ (sCtx 1 (cmd 0 [(16, 5)]) 2).Posted (cmd 0 [(16, 5)]) 2 ring0) ∧
    (let s := sCtx 2 (cmd 7 []) 0
     s.on = true ∧ s.ctxState 5 = 2 ∧ (s.ctx 5).drained = false ∧ s.teardownWaits 5 = false) ∧
    (let s := (sCtx 2 (cmd 7 []) 0).putCtxs [(5, { Ctx.init with drained := true })]
     s.on = true ∧ s.ctxState 5 = 2 ∧ (s.ctx 5).drained = true) ∧
    (booted.on = true ∧ (∀ c r y, booted.ring? c r = some y → y.tail = y.head) ∧
      ∀ c r y, booted.ring? c r = some y → booted.ringTail y = y.head) := by
  refine ⟨⟨posted_of (by decide +kernel), by decide +kernel, by decide +kernel, by decide +kernel, (by decide +kernel),
      by decide +kernel, by decide +kernel, by decide +kernel, _, read_of (by decide +kernel), by decide +kernel⟩,
    ⟨posted_of (by decide +kernel), posted_of (by decide +kernel), by decide +kernel⟩,
    ⟨by decide +kernel, posted_of (by decide +kernel), by decide +kernel⟩, ⟨by decide +kernel, posted_of (by decide +kernel)⟩,
    by decide +kernel, by decide +kernel, by decide +kernel, fun c r y h => ?_, fun c r y h => ?_⟩ <;>
  · have e : booted.ring? c r = if c = 0 && r = 0 then some deviceRing else none := rfl
    rw [e] at h
    split at h
    · cases h
      decide +kernel
    · cases h

/-- A plan image for one module, with an empty body, at the start of LPDDR5X. -/
def loadCmd : RingCmd := cmd 0 [(16, 15), (24, lpddrBase), (32, 328), (40, lpddrBase)]
def sImage : State := (sCtx 1 loadCmd 0x10).put lpddrBase
  ([0x50, 0x5A, 1, 0, 0, 1, 1, 0] ++ List.replicate 248 0 ++ List.replicate 8 0 ++ sha512 [])
/-- The body of a plan with one group record, index 3 and handle 0, of two chunks. -/
def oneGroup : List Byte := [3, 0, 0, 0, 8, 1, 0, 0] ++ [3, 0] ++ List.replicate 30 0 ++ [2] ++ List.replicate 231 0
def aPlan : Plan := ⟨false, 256, 1, 0, [], oneGroup⟩
def retireCmd : RingCmd := cmd 0 [(16, 15)]
def bindCmd : RingCmd := cmd 5 [(16, 15), (18, 3)]
def sPlan (k : RingCmd) (op : Nat) : State := (sCtx 1 k op).putPlans [(15, aPlan)]
/-- Group record 0, handle 0 of context 5, in state `st` with flag bits `fl`: two chunks, both sealed. -/
def sBound (st fl : Nat) (k : RingCmd) (op : Nat) : State :=
  let s := (sCtx 1 k op).putGroups [(0, if st = 2 then { Group.init with sealed := [0, 1] } else Group.init)]
  putL s (groupAddr s 0) [(0, 5), (4, st), (5, fl), (24, 2)]
def startCmd : RingCmd := cmd 5 [(20, 7), (24, 9), (28, 2), (32, 1)]
def recCmd : RingCmd := cmd 5 [(20, 1), (32, lpddrBase), (40, 2 ^ 16)]
def feedCmd : RingCmd := cmd 5 [(24, lpddrBase), (32, 2 ^ 16)]

theorem witness_RingPlansAndGroups :
    (let k := loadCmd
     let s := sImage
     s.Posted k 0x10 ring0 ∧ s.ctxState 0 = 1 ∧ k.ctx = 0 ∧ k.arg 16 1 = 15 ∧ Table.has s.plans 15 = false ∧
      s.mayRead 0 (k.arg 24 8) (k.arg 32 4) = true ∧ k.arg 48 4 = 0 ∧ s.mapFixed = false ∧ 256 = s.active ∧
      s.crossesOff ⟨[], [], [], [], [], []⟩ = false ∧
      ∃ image body, s.dataRead (k.arg 24 8) (k.arg 32 4) = (image, s) ∧ s.dataRead (k.arg 40 8) (k.arg 48 4) = (body, s) ∧
        planHead s.switchId image body = some (256, 1, 0) ∧ planRecs 256 body = some ⟨[], [], [], [], [], []⟩) ∧
    ((sPlan retireCmd 0x11).Posted retireCmd 0x11 ring0 ∧ (sPlan retireCmd 0x11).ctxState 0 = 1 ∧ retireCmd.arg 16 1 = 15 ∧
      Table.has (sPlan retireCmd 0x11).plans 15 = true ∧ (sPlan retireCmd 0x11).groupsBound = []) ∧
    (let r := ofBytes (oneGroup.drop 8)
     let s := sPlan bindCmd 0x20
     s.Posted bindCmd 0x20 ring5 ∧ s.ctxState 5 = 1 ∧ bindCmd.ctx ≠ 0 ∧ bindCmd.arg 16 1 = 15 ∧ bindCmd.arg 18 2 = 3 ∧
      Table.look s.plans 15 = some aPlan ∧ aPlan.stale = false ∧
      planRecs aPlan.active aPlan.body = some ⟨[], [], [r], [], [], []⟩ ∧ rNum r 0 2 = 3 ∧
      s.findGroup 5 (rNum r 2 2 % 4096) = none ∧ (lowest 1024 fun j => s.gState j == 0) = some 0 ∧
      s.poisoned (groupAddr s 0) 256 = false ∧ groupAddr s 0 + 256 ≤ ring5.base) ∧
    (∀ e ∈ [(cmd 5 [], 0x21, 1, 1), (startCmd, 0x22, 1, 1), (cmd 5 [], 0x23, 2, 1), (recCmd, 0x80, 1, 1), (recCmd, 0x80, 2, 1),
        (cmd 5 [], 0x81, 2, 5), (feedCmd, 0x82, 1, 1)], let k : RingCmd := e.1
      let s := sBound e.2.2.1 e.2.2.2 k e.2.1
      postedB s k e.2.1 ring5 = true ∧ s.ctxState 5 = 1 ∧ k.ctx ≠ 0 ∧ k.arg 18 2 = 0 ∧ s.findGroup 5 0 = some 0 ∧
      groupAddr s 0 + 256 ≤ ring5.base ∧ s.gState 0 = e.2.2.1 ∧ s.gRoot 0 = true ∧
      s.gRecording 0 = decide (e.2.2.2 = 5) ∧ s.groupEntries 0 = [] ∧ s.waiters = [] ∧ (s.group 0).chunks = [] ∧
      (s.group 0).pond = none ∧ (s.group 0).nodes = [] ∧ s.groupStale 0 = false ∧
      (e.2.2.1 = 2 → ∀ c < s.gChunks 0, c ∈ (s.group 0).sealed) ∧
      s.allowed 5 (s.genOf 5) (recCmd.arg 32 8) (recCmd.arg 40 8) .any = true ∧
      s.mayRead 5 (feedCmd.arg 24 8) (feedCmd.arg 32 8) = true) ∧
    (startCmd.arg 28 4 = 2 ∧ startCmd.arg 32 1 ≠ 0 ∧ recCmd.arg 20 1 ≤ 1 ∧ lpddrBase ≤ recCmd.arg 32 8 ∧
      recCmd.arg 32 8 + recCmd.arg 40 8 ≤ lpddrEnd ∧ (sBound 1 1 startCmd 0x22).gChunks 0 = 2) :=
  ⟨⟨posted_of (by decide +kernel), by decide +kernel, by decide +kernel, by decide +kernel, (by decide +kernel),
      by decide +kernel, by decide +kernel, by decide +kernel, (by decide +kernel), by decide +kernel, _, _,
      read_of (by decide +kernel), read_of (by decide +kernel), by decide +kernel, by decide +kernel⟩,
    ⟨posted_of (by decide +kernel), by decide +kernel⟩, ⟨posted_of (by decide +kernel), by decide +kernel⟩,
    by decide +kernel, by decide +kernel⟩

def circCmd : RingCmd := cmd 5 [(16, 0xFFFFE), (32, 5 * 2 ^ 65)]
def treeCmd : RingCmd := cmd 5 [(16, 65535), (24, lpddrBase)]
/-- A multicast tree entry of context 5, VALID, at the start of LPDDR5X. -/
def sTree : State := putL (sCtx 1 treeCmd 0x42) lpddrBase [(161, 0x40), (162, 1), (167, 0x80)]
def gateCmd : RingCmd := cmd 0 [(16, 1023), (18, 1), (19, 4095), (24, 77), (32, lpddrBase)]
def mirrorCmd : RingCmd := cmd 0 [(16, 15), (24, lpddrBase)]
def watchCmd : RingCmd := cmd 5 [(16, 4095), (18, 1), (20, 6), (24, 8)]
def adoptCmd : RingCmd := cmd 0 [(16, 1023)]
def poolCmd : RingCmd := cmd 5 [(16, 63), (17, 0), (18, 2), (20, 2), (24, lpddrBase), (32, 0x8E410000), (40, 2), (42, 1)]
def destroyCmd : RingCmd := cmd 5 [(16, 63)]

theorem witness_RingTables :
    (let k := circCmd
     let s := sCtx 1 k 0x40
     s.Posted k 0x40 ring5 ∧ s.ctxState 5 = 1 ∧ k.ctx ≠ 0 ∧ k.arg 16 4 = 0xFFFFE ∧ circAddr s (k.arg 16 4) + 16 ≤ ring5.base ∧
      (s.circuit (k.arg 16 4)).valid = false ∧ s.poisoned (circAddr s (k.arg 16 4)) 16 = false ∧
      (Circuit.ofNat (k.arg 32 16)).ctx = 5) ∧
    (let s := (sCtx 1 circCmd 0x41).setCircuit 0xFFFFE { Circuit.ofNat (5 * 2 ^ 65) with valid := true }
     s.Posted circCmd 0x41 ring5 ∧ (s.circuit 0xFFFFE).valid = true ∧ (s.circuit 0xFFFFE).ctx = 5 ∧
      s.findGroup 5 (s.circuit 0xFFFFE).group = none) ∧
    (let k := treeCmd
     sTree.Posted k 0x42 ring5 ∧ (sTree.tree (k.arg 16 2)).valid = false ∧ k.arg 16 2 = 65535 ∧
      sTree.poisoned (treeAddr sTree 65535) 256 = false ∧ treeAddr sTree 65535 + 256 ≤ ring5.base ∧
      sTree.mayRead 5 (k.arg 24 8) 256 = true ∧ ∃ l, sTree.dataRead (k.arg 24 8) 256 = (l, sTree) ∧
        (Tree.ofNat (ofBytes l)).valid = true ∧ (Tree.ofNat (ofBytes l)).ctx = 5) ∧
    (let k := gateCmd
     let s := sCtx 1 k 0x70
     s.Posted k 0x70 ring0 ∧ k.ctx = 0 ∧ k.arg 16 2 = 1023 ∧ k.arg 18 1 = 1 ∧ k.arg 19 2 = 4095 ∧
      s.mayRead 0 (k.arg 32 8) 512 = true ∧ s.bit (PORT_GATE_CTL 1023) PORT_GATE_CTL_ARM = false ∧
      ∃ l, s.dataRead (k.arg 32 8) 512 = (l, s) ∧
        gateListOk ((s.gateTake 1023 l).gateList 1023 (1 - s.gateBank 1023)) = true) ∧
    (let k := mirrorCmd
     let s := putL (sCtx 1 k 0x72) lpddrBase [(13, 4)]
     s.Posted k 0x72 ring0 ∧ k.arg 16 1 = 15 ∧ s.mayRead 0 (k.arg 24 8) 64 = true ∧
      ∃ l, s.dataRead (k.arg 24 8) 64 = (l, s) ∧ ((s.mirror 15).load (ofBytes l)).dest = 1024) ∧
    (let k := watchCmd
     let s := sCtx 1 k 0x73
     s.Posted k 0x73 ring5 ∧ k.arg 16 2 = 4095 ∧ bitOf (s.entry (tagAddr s 4095) 64) 416 = false ∧
      bitOf (k.arg 18 1) 0 = true ∧ tagAddr s 4095 + 64 ≤ ring5.base) ∧
    (let k := adoptCmd
     let s := ((sCtx 1 k 0x90).setFld (PORT_LINK_STAT 1023) PORT_LINK_STAT_STATE linkQuarantined).setFld (PORT_ROLE 1023)
       PORT_ROLE_ROLE 2
     s.Posted k 0x90 ring0 ∧ k.arg 16 2 = 1023 ∧ s.linkState 1023 = linkQuarantined ∧
      s.fld (PORT_LINK_STAT 1023) PORT_LINK_STAT_Q_REASON ≤ 4 ∧ s.role 1023 = 2 ∧
      bitsOf (s.rd (PORT_PEER_SEEN0 1023)).toNat 44 2 = 0) ∧
    (let k := poolCmd
     let s := sCtx 1 k 0x50
     let q : PoolArgs := ⟨k.arg 16 1, k.arg 17 1, k.arg 18 1, k.arg 20 4, k.arg 24 8, k.arg 32 8, k.arg 40 2, k.arg 42 2⟩
     s.Posted k 0x50 ring5 ∧ k.arg 16 1 = 63 ∧ (s.pool q.pool).state = 0 ∧ PoolArgs.bad s q = false ∧
      s.covers 5 (s.genOf 5) q.base (q.count * (4096 * 2 ^ q.size)) .rd = true ∧
      s.covers 5 (s.genOf 5) q.base (q.count * (4096 * 2 ^ q.size)) .wr = true ∧ q.min1 ≤ q.count ∧ s.freeOwner.isSome = true) ∧
    (let k := destroyCmd
     let s := (sCtx 1 k 0x51).putPools [(63, ⟨1, 0, 0, true, 5, 1, 1, 0x8E410000, 0, [], [], 1, [], []⟩)]
     s.Posted k 0x51 ring5 ∧ k.arg 16 1 = 63 ∧ (s.pool 63).state ≠ 0 ∧ (s.pool 63).ctx = 5 ∧ s.allocated 63 = 0 ∧ s.waiters = []) :=
  ⟨⟨posted_of (by decide +kernel), by decide +kernel⟩, ⟨posted_of (by decide +kernel), by decide +kernel⟩,
    ⟨posted_of (by decide +kernel), by decide +kernel, by decide +kernel, by decide +kernel, by decide +kernel,
      by decide +kernel, _, read_of (by decide +kernel), by decide +kernel⟩,
    ⟨posted_of (by decide +kernel), by decide +kernel, by decide +kernel, by decide +kernel, (by decide +kernel),
      by decide +kernel, by decide +kernel, _, read_of (by decide +kernel), by decide +kernel⟩,
    ⟨posted_of (by decide +kernel), by decide +kernel, by decide +kernel, _, read_of (by decide +kernel), by decide +kernel⟩,
    ⟨posted_of (by decide +kernel), by decide +kernel⟩, ⟨posted_of (by decide +kernel), by decide +kernel⟩,
    ⟨posted_of (by decide +kernel), by decide +kernel⟩, ⟨posted_of (by decide +kernel), by decide +kernel⟩⟩

/-- THREADS_LAUNCH of every thread of tile 255 at the last word of its SRAM. -/
def launchCmd : RingCmd := cmd 5 [(16, 255), (18, 255), (20, 1), (22, 0xFFFF), (24, tileBytes - 8), (32, 3)]
def killCmd : RingCmd := cmd 5 [(16, 255)]
/-- The set of `killCmd` is thread 0 of tile 0, which runs with the requests `o` outstanding. -/
def sKill (o : List Outst) : State :=
  ((sCtx 1 killCmd 0x61).putSets [(setKey 5 255, ⟨5, 0, 1, 1⟩)]).modTile 0 fun x =>
    { x with threads := [(0, { Thread.init with st := .run, set := setKey 5 255 })], outst := o }
def ehtCmd : RingCmd := cmd 5 [(16, 15), (24, lpddrBase), (32, lpddrBase)]
/-- An EHT image of context 5: one expert, one combine tile, one cell, one use, pool 4, one entry, rank 0 as source; pool 4 of
canal memory belongs to context 5. -/
def sHome : State :=
  (putL (sCtx 1 ehtCmd 0x71) lpddrBase
    [(0, 5), (6, 1), (10, 1), (11, 1), (12, 1), (13, 4), (28, 1), (32, 192), (72, 1)]).putPools
    [(4, ⟨1, 0, 0, true, 5, 1, 1, 0x8E410000, 0, [], [], 1, [], []⟩)]

/-- The same with EHT 15 of context 5 VALID already, and nothing of it pending. -/
def sHomeAgain : State := putL sHome (ehtAddr sHome 15) [(0, 5), (3, 1), (6, 1), (10, 1), (13, 4), (28, 1), (72, 1)]

theorem witness_RingThreadsAndExperts :
    (let k := launchCmd
     let s := sCtx 1 k 0x60
     s.Posted k 0x60 ring5 ∧ s.ctxState 5 = 1 ∧ k.ctx ≠ 0 ∧ k.arg 16 1 = 255 ∧ k.arg 18 2 = 255 ∧ k.arg 20 2 = 1 ∧
      k.arg 22 2 = 0xFFFF ∧ s.bound 255 = true ∧ s.fld (TILE_CTL 255) TILE_CTL_THREAD_HALT = 0 ∧
      (∀ h < 16, (s.thread 255 h).st = .idle) ∧ Table.has s.sets (setKey 5 255) = false ∧ k.arg 24 8 % 8 = 0 ∧
      k.arg 24 8 + 8 = tileBytes) ∧
    (let k := killCmd
     let s := (sCtx 1 k 0x61).putSets [(setKey 5 255, ⟨5, 0, 1, 1⟩)]
     s.Posted k 0x61 ring5 ∧ s.ctxState 5 = 1 ∧ Table.look s.sets (setKey 5 (k.arg 16 1)) = some ⟨5, 0, 1, 1⟩) ∧
    (∀ o ∈ [[], [(⟨7, 0, 0, .store⟩ : Outst)]], let s := sKill o
      postedB s killCmd 0x61 ring5 = true ∧ Table.look s.sets (setKey 5 255) = some ⟨5, 0, 1, 1⟩ ∧
        (1 : BitVec 16).getLsbD 0 = true ∧ (s.thread 0 0).set = setKey 5 255 ∧ (s.thread 0 0).st ≠ .idle ∧
        (s.tile 0).quiet 0 = decide (o = [])) ∧
    (∀ v : Bool, let s := if v then sHomeAgain else sHome
      let k := ehtCmd
      let n := 1
      let entries := (s.rd EXP_ENT_BASE).toNat + 8 * (65536 * (1 - s.ehtBank 15) + 0)
      postedB s k 0x71 ring5 = true ∧ s.ctxState 5 = 1 ∧ k.arg 16 1 = 15 ∧ s.ehtValid 15 = v ∧
      s.mayRead 5 (k.arg 24 8) 256 = true ∧ (v = true → s.ehtCtx 15 = 5 ∧ s.ehtPending 15 = false) ∧
      s.mayRead 5 (k.arg 32 8) (8 * n) = true ∧ (ring5.base + 64 + 64 * 2 ^ ring5.order ≤ ehtAddr s 15 ∨
        ehtAddr s 15 + 256 ≤ ring5.base) ∧ (entries + 8 * n ≤ ring5.base ∨ ring5.base + 64 + 64 * 2 ^ ring5.order ≤ entries) ∧
      (ehtAddr s 15 + 256 ≤ entries ∨ entries + 8 * n ≤ ehtAddr s 15) ∧
      plainRead s (k.arg 24 8) 256 = true ∧ plainRead s (k.arg 32 8) (8 * n) = true ∧
      (let e := ofBytes (s.dataRead (k.arg 24 8) 256).1
       ehtImg e 0 2 % 4096 = 5 ∧ ehtImg e 6 4 = n ∧ ehtImg e 4 2 = 0 ∧ s.ehtBad 15 e = false ∧ (s.pool (ehtImg e 13 1)).ctx = 5 ∧
          s.ehtNoPool e (s.ehtOwners 5 15 e) = false)) :=
  ⟨⟨posted_of (by decide +kernel), by decide +kernel⟩, ⟨posted_of (by decide +kernel), by decide +kernel⟩,
    by decide +kernel, by decide +kernel⟩

/-! ### Witnesses: the statements about the host port -/

/-- A message to address 5 and UDP port 7 whose MAC is the one of the empty key. -/
def zmsg (type seq : Nat) (body : List Byte) : ZctMsg :=
  ⟨someAddr, 5, 7, 0x5A43, 1, 63, BitVec.ofNat 16 body.length, BitVec.ofNat 64 seq, 7, body, zctMac [] type 63 body seq 7 0⟩
def sess (opened priv : Bool) : Session :=
  ⟨opened, 2, priv, [], [], [], someAddr, 0, 5, [5], [], [⟨3, []⟩], 3, 0, []⟩
/-- The host link is up, the port's address is 5 and its UDP port 7. -/
def sPort7 : State := (booted.putHostLink true).putHpActive [BitVec.ofNat 64 (7 * 2 ^ 16 + 3 * 2 ^ 10), 0, 5, 0, 9, 0]
/-- So, and session 63 is `x`. -/
def sSess (x : Session) : State := sPort7.putSessions [(63, x)]

theorem authentic_of (x : Session) (type seq : Nat) (body : List Byte) (k : x.h2m = []) (h : seq < 2 ^ 64) :
    x.authentic (zmsg type seq body) type = true := by
  have e : (BitVec.ofNat 64 seq).toNat = seq := Nat.mod_eq_of_lt h
  simp [Session.authentic, zmsg, k, e]

theorem heardOn_of {s : State} {type seq : Nat} {body : List Byte} {p : Bool} (o : s.on = true) (l : s.hostLink = true)
    (c : s.crossed 4 = false) (f : s.forPort (zmsg type seq body) = true) (e : s.session 63 = some (sess true p))
    (z : seq < 2 ^ 64) (w : (zmsg type seq body).whole = true) (r : (sess true p).replayed seq = false) :
    s.Heard (zmsg type seq body) type (sess true p) :=
  ⟨o, l, c, f, w, e, rfl, authentic_of _ _ _ _ rfl z, by
    simpa [zmsg, show (BitVec.ofNat 64 seq).toNat = seq from Nat.mod_eq_of_lt z] using r, by simp [sess]⟩

theorem heard_of {type seq : Nat} {body : List Byte} (p : Bool) (h : seq < 2 ^ 64) (w : (zmsg type seq body).whole = true)
    (r : (sess true p).replayed seq = false) : (sSess (sess true p)).Heard (zmsg type seq body) type (sess true p) :=
  heardOn_of (by cases p <;> rfl) rfl (by cases p <;> rfl) (by cases p <;> rfl) (by cases p <;> rfl) h w r

/-- READ or WRITE of `n` bytes at `a`. -/
def rangeBody (a n : Nat) : List Byte := toBytes 8 a ++ toBytes 4 n

/-- The page at the start of LPDDR5X is being copied. -/
def sHeldPage : State := (sSess (sess true true)).putPageHeld [pageOf lpddrBase]

theorem witness_HostRequests :
    ((∀ n ∈ [1, 8176], let m := zmsg 5 6 (rangeBody lpddrBase n)
      m.body.length = 12 ∧ m.num 0 8 = lpddrBase ∧ m.num 8 4 = n ∧ (sSess (sess true true)).zctWaits m = false ∧
      (sSess (sess true false)).zctWaits m = false ∧
      (sSess (sess true true)).hostCheck ((sess true true).took 6 someAddr) lpddrBase n false = none ∧
      ∃ b, (sSess (sess true false)).hostCheck ((sess true false).took 6 someAddr) lpddrBase n false = some (b, 4)) ∧
      (sSess (sess true true)).Heard (zmsg 5 6 (rangeBody lpddrBase 8176)) 5 (sess true true) ∧
      (sSess (sess true false)).Heard (zmsg 5 6 (rangeBody lpddrBase 1)) 5 (sess true false)) ∧
    (let m := zmsg 6 6 (rangeBody lpddrBase 1 ++ [9])
     (sSess (sess true true)).Heard m 6 (sess true true) ∧ (sSess (sess true false)).Heard m 6 (sess true false) ∧
      m.body.length = 12 + m.num 8 4 ∧ m.num 8 4 = 1 ∧ m.num 0 8 = lpddrBase ∧ (sSess (sess true true)).zctWaits m = false ∧
      (sSess (sess true false)).zctWaits m = false ∧
      (sSess (sess true true)).hostCheck ((sess true true).took 6 someAddr) lpddrBase 1 true = none ∧
      ∃ b, (sSess (sess true false)).hostCheck ((sess true false).took 6 someAddr) lpddrBase 1 true = some (b, 4)) ∧
    (∀ type ∈ [5, 6], let m := zmsg type 6 (rangeBody lpddrBase 1)
      sHeldPage.Heard m type (sess true true) ∧ sHeldPage.zctWaits m = true ∧ sHeldPage.zctWait = []) ∧
    (let m := zmsg 7 6 (List.replicate 8 0 ++ [1] ++ List.replicate 63 0)
     let s := sSess (sess true true)
     s.Heard m 7 (sess true true) ∧ m.num 0 2 = 0 ∧ m.num 2 1 = 0 ∧ s.holdsCtx (sess true true) 0 = true ∧ s.ctxState 0 = 1 ∧
      s.ring? 0 0 = some deviceRing ∧ 2 ^ 31 ≤ deviceRing.base ∧ m.body.length = 72 ∧ m.num 4 4 = s.ringTail deviceRing ∧
      m.num 4 4 + 1 ≤ deviceRing.head + 2 ^ deviceRing.order ∧ deviceRing.head ≤ m.num 4 4 ∧ s.ringWork = [] ∧
      deviceRing.head = m.num 4 4 ∧ m.num 8 2 ∈ opcodes) ∧
    (let m := zmsg 7 6 ([0, 0, 0, 0, 1] ++ List.replicate 67 0)
     let s := sSess (sess true true)
     s.Heard m 7 (sess true true) ∧ m.num 0 2 = 0 ∧ m.num 2 1 = 0 ∧ m.num 4 4 ≠ s.ringTail deviceRing) ∧
    (let m := zmsg 8 6 [0, 0, 0]
     (sSess (sess true true)).Heard m 8 (sess true true) ∧ m.body.length = 3) ∧
    (let m := zmsg 11 6 (toBytes 8 3)
     (sSess (sess true true)).Heard m 11 (sess true true) ∧ m.body.length = 8) :=
  ⟨⟨fun n h => by
      simp only [List.mem_cons, List.not_mem_nil, or_false] at h
      rcases h with rfl | rfl
      · exact ⟨by decide +kernel, by decide +kernel, by decide +kernel, (by decide +kernel), by decide +kernel, by decide +kernel,
          lpddrBase, by decide +kernel⟩
      · exact ⟨by decide +kernel, by decide +kernel, by decide +kernel, (by decide +kernel), by decide +kernel, by decide +kernel,
          lpddrBase, by decide +kernel⟩,
      heard_of true (by decide) (by decide +kernel) (by decide), heard_of false (by decide) (by decide +kernel) (by decide)⟩,
    ⟨heard_of true (by decide) (by decide +kernel) (by decide), heard_of false (by decide) (by decide +kernel) (by decide),
      by decide +kernel, by decide +kernel, by decide +kernel, (by decide +kernel), by decide +kernel, by decide +kernel,
      lpddrBase, by decide +kernel⟩,
    fun type h => by
      simp only [List.mem_cons, List.not_mem_nil, or_false] at h
      rcases h with rfl | rfl <;>
        exact ⟨heardOn_of rfl rfl rfl rfl rfl (by decide) (by decide +kernel) (by decide), by decide +kernel, rfl⟩,
    ⟨heard_of true (by decide) (by decide +kernel) (by decide), by decide +kernel⟩,
    ⟨heard_of true (by decide) (by decide +kernel) (by decide), by decide +kernel⟩,
    ⟨heard_of true (by decide) (by decide +kernel) (by decide), by decide +kernel⟩,
    ⟨heard_of true (by decide) (by decide +kernel) (by decide), by decide +kernel⟩⟩

theorem witness_HostSessions :
    (sPort7.on = true ∧ sPort7.hostLink = true ∧ sPort7.crossed 4 = false ∧ sPort7.forPort (zmsg 1 0 []) = true ∧
      (zmsg 1 0 []).whole = true ∧ (sPort7.openCheck (zmsg 1 0 [])).isLeft = true) ∧
    (let s := sPort7.setFld (HP_KEY_FLAGS 0) HP_KEY_FLAGS_VALID 1
     let m := zmsg 1 0 (List.replicate 192 0)
     s.on = true ∧ s.hostLink = true ∧ s.crossed 4 = false ∧ s.forPort m = true ∧ m.whole = true ∧
      (s.openCheck m).isRight = true ∧ lowest 64 (fun i => !Table.has s.sessions i) = some 0) ∧
    (let s := sSess (sess false true)
     s.session (zmsg 3 0 []).session.toNat = some (sess false true) ∧ (sess false true).authentic (zmsg 3 0 []) 3 = true ∧
      (zmsg 3 0 []).seq = 0 ∧ s.on = true) ∧
    ((sess false false).opened = false ∧ (sess true false).authentic (zmsg 3 6 []) 4 = false ∧
      (sess true false).authentic (zmsg 4 5 []) 4 = true ∧ (sess true false).replayed 5 = true ∧
      (sSess (sess true false)).session 63 = some (sess true false)) ∧
    (sSess (sess true false)).Heard (zmsg 4 6 []) 4 (sess true false) ∧
    (sSess (sess true false)).Heard (zmsg 12 (2 ^ 64 - 1) []) 12 (sess true false) ∧
    ((sSess (sess false false)).session (63 : Fin 64) = some (sess false false) ∧
      (sSess (sess true false)).session (63 : Fin 64) = some (sess true false) ∧ (sSess (sess true false)).hostLink = true ∧
      (sSess (sess true false)).crossed 4 = false) :=
  ⟨⟨by decide +kernel, rfl, by decide +kernel⟩, by decide +kernel, ⟨rfl, authentic_of _ _ _ _ rfl (by decide), rfl, rfl⟩,
    ⟨rfl, by decide +kernel, authentic_of _ _ _ _ rfl (by decide), by decide, rfl⟩,
    heard_of false (by decide) (by decide +kernel) (by decide), heard_of false (by decide) (by decide +kernel) (by decide),
    rfl, rfl, rfl, rfl⟩

theorem witness_HostPortCommands : booted.on = true ∧ (booted.putHostLink true).hostLink = true ∧
    (booted.putHostLink true).crossed 4 = false ∧
    (∃ f : HostFrame, booted.ownAddress f.src.v6 f.target.toNat = false) ∧
    (let s := (booted.putHpActive [BitVec.ofNat 64 (3 * 2 ^ 10), 0, 5, 0, 9, 0])
     s.ownAddress false 5 = true ∧ s.ownAddress true 9 = true) ∧
    (booted.putHpApply true).hpApply = true ∧ (1 : Fin 5) ≠ 0 :=
  ⟨by decide +kernel, rfl, by decide +kernel, ⟨⟨⟨0, false, 0, 0⟩, 7, []⟩, by decide +kernel⟩, by decide +kernel, rfl, by decide⟩

/-! ### Witnesses: events, captures, resets -/

/-- A capture is in progress, pool 2 has 17 buffers and `owners` are the owner entries. -/
def sCap (c : Capture) (owners : List (Nat × Owner)) : State :=
  ((booted.putCapture (some c)).putOwners owners).putPools
    [(2, ⟨1, 0, 4, true, 0, 17, 17, 0x8C000000, 0, (List.range 17).map fun i => 0x8C000000 + 65536 * i, [], 0, [], []⟩)]
def fwOwner : Owner := ⟨2, 0, 0, 0, 0, 0⟩
/-- A capture of one buffer, which management owner 2 holds. -/
def sHeldCap : State :=
  ((sCap ⟨none, none, 0, [], false, 1⟩ [(2, { fwOwner with used := 1 })]).putBufs [(0x8C000000, ⟨1, [2], some 2⟩)]).putCaptures
    [((handleOf 1 0x8C000000).toNat, [(handleOf 1 0x8C000000).toNat])]
/-- Thread 0 of tile 0, of context 5, waits at a barrier for thread 1, which is idle, now as at the last scan. -/
def sStuck : State :=
  let s := ((booted.setFld SPW_AUTO SPW_AUTO_AUTO_CTX 1).setFld (CTX_STATE 5) CTX_STATE_STATE 1).modTile 0 fun x =>
    { x with ctx := 5, threads := [(0, { Thread.init with st := .wait, wait := .barrier })], barrier := some (3, [0]) }
  s.putScan s.waitNodes

theorem witness_EventsPinsCaptures : (booted.on = true ∧ (∀ e, booted.repeatOf e = none) ∧
      (∀ t, booted.wearsOut t = false) ∧ booted.bit SPW_FERR_SRC SPW_FERR_SRC_VALID = false ∧
      booted.power.octetsDead = [] ∧ booted.reset? = none ∧ booted.resetQ = [] ∧ booted.safe = false ∧
      (booted.setFld SPW_STAT SPW_STAT_SAFE 1).safe = true) ∧
    Table.look booted.captures (5 : Word).toNat = none ∧
    (let s := sHeldCap
     let h := handleOf 1 0x8C000000
     s.on = true ∧ Table.look s.captures h.toNat = some [h.toNat] ∧ s.handleOk 2 h = true ∧
      (s.buf (handleAddr h)).owners = [2] ∧ s.waiters = []) ∧
    booted.capture = none ∧
    (∀ b : Bool, let c : Capture := ⟨none, none, 0, [], b, 1⟩
      (sCap c []).on = true ∧ (sCap c []).capture = some c ∧ c.op = none ∧ (sCap c []).owner 2 = none) ∧
    (let c : Capture := ⟨none, none, 0, [], false, 1⟩
     let s := sCap c [(2, fwOwner)]
     s.on = true ∧ s.capture = some c ∧ s.owner 2 = some fwOwner ∧ s.mayAlloc 2 fwOwner = true ∧
      (s.allocNow 2 2 fwOwner).1.isSome = true ∧ (s.capSections c).length ≤ 65472) ∧
    (let o : ResetOp := ⟨2, 7, 0, false, false, 6, 0, 0⟩
     let c : Capture := ⟨some o, none, 0, [], false, 2⟩
     (sCap c []).on = true ∧ (sCap c []).capture = some c ∧ c.op = some o ∧ o.unit = 2 ∧ (sCap c []).owner 2 = none) ∧
    (let s := booted.setFld SPW_AUTO SPW_AUTO_AUTO_CTX 0
     s.on = true ∧ s.bit SPW_AUTO SPW_AUTO_AUTO_CTX = false) ∧
    (let s := sStuck
     let kept := s.waitNodes.filter (keptIn s.scan)
     let now := hangsOf kept (stallCounts s.stalls kept) s.stallScans
     s.on = true ∧ s.bit SPW_AUTO SPW_AUTO_AUTO_CTX = true ∧
      (now.filter fun h => !s.hangs.contains h.2) = [(2, [threadNode 5 0 0])] ∧ memberOwner (threadNode 5 0 0) = some 5 ∧
      s.ctxState 5 = 1) :=
  ⟨⟨by decide +kernel, fun _ => rfl, fun _ => rfl, by decide +kernel, rfl, rfl, rfl, by decide +kernel, by decide +kernel⟩, by decide +kernel, by decide +kernel, rfl,
    by decide +kernel⟩

/-- A reset of `unit`, index 5, runs and its capture has ended. -/
def sReset (o : ResetOp) : State := (booted.putReset (some o)).setFld SPW_AUTO SPW_AUTO_AUTO_SPARE 0
def resetOf (unit : Nat) (replace : Bool) : ResetOp := ⟨unit, 5, 0, false, replace, 6, 0, 0⟩

theorem witness_Resets : booted.on = true ∧ booted.bit SPW_STAT SPW_STAT_RESET_BUSY = false ∧
    (255 < booted.active) ∧ booted.reset? = none ∧
    (let s := booted.setFld SPW_STAT SPW_STAT_ACTIVE 224
     s.on = true ∧ s.active ≤ 255 ∧ s.bit SPW_STAT SPW_STAT_RESET_BUSY = false) ∧
    (let s := booted.setFld SPW_STAT SPW_STAT_RESET_BUSY 1
     s.on = true ∧ s.bit SPW_STAT SPW_STAT_RESET_BUSY = true ∧ 255 < s.active) ∧
    ((sReset (resetOf 6 false)).reset? = some (resetOf 6 false) ∧
      (let s := (sReset (resetOf 1 false)).putCapture (some ⟨some (resetOf 1 false), none, 0, [], false, 1⟩)
       s.on = true ∧ s.reset? = some (resetOf 1 false) ∧ s.capturing = true)) ∧
    (∀ n ∈ [1, 2, 3, 4, 5], let o := resetOf n false
      let s := sReset o
      s.on = true ∧ s.reset? = some o ∧ o.unit ≠ 6 ∧ s.capturing = false ∧ s.resetQ = [] ∧ o.replace = false ∧
      s.bit SPW_AUTO SPW_AUTO_AUTO_SPARE = false ∧ s.bit SPW_STAT SPW_STAT_FATAL = false ∧ s.candidateTiles = []) ∧
    (let s := (sReset (resetOf 1 false)).putResetQ [(resetOf 2 false, none)]
     s.on = true ∧ s.reset? = some (resetOf 1 false) ∧ s.capturing = false ∧ s.resetQ = (resetOf 2 false, none) :: []) ∧
    (let o := resetOf 1 true
     let s := (sReset o).putCandidates [5]
     s.on = true ∧ s.reset? = some o ∧ s.capturing = false ∧ o.unit = 1 ∧ o.index = 5 ∧ o.replace = true ∧
      s.candidateTiles = [5] ∧ s.physTile 5 = some 5 ∧ (s.spareFor 5).isSome = true) :=
  ⟨by decide +kernel, by decide +kernel, by decide +kernel, rfl, by decide +kernel⟩

/-! ### Witnesses: power, boot, management target -/

/-- The boot has come to domain `d`. -/
def sBoot (d : Nat) : State := State.reset.putPower { Power.init with romOk := true, nextDomain := d }

/-- The main converters are off. -/
def sOff (resetL : Bool) : State := State.reset.putPower { Power.init with mainOn := false, resetL := resetL }

theorem witness_InputAndTemperature : booted.on = true ∧ booted.power.mainOn = true ∧
    booted.power.resetL = true ∧ (∀ v ∈ [0, 3599, 5601, 65535], outOfRange v = true) ∧
    (∀ v ∈ [3600, 5600], outOfRange v = false) ∧ (∀ v ∈ [4000, 5200], inRange v = true) ∧
    (∀ b : Bool, (sOff b).power.mainOn = false ∧ (sOff b).power.resetL = b) ∧ 1 ∉ booted.power.excursion ∧
    outOfRange 3799 = false ∧ 5 ∉ booted.power.excursion ∧
    6 ∉ booted.power.excursion ∧ booted.fed = true ∧ (sBoot 3).fed = true ∧ (sBoot 3).on = false := by
  and_intros <;> decide +kernel

theorem witness_DomainsAndClocks :
    (∀ d ∈ [1, 2, 48], let s := sBoot d
      s.fed = true ∧ s.power.romOk = true ∧ s.power.nextDomain = d ∧ s.power.bootStopped = false ∧
      (s.power.nextDomain = 1 ∨ s.domain (s.power.nextDomain - 1) ≠ 1)) ∧
    (∀ d ∈ [0, 7, 8, 15, 16, 48], let s := (sBoot 49).setFld (PWR_DOMAIN d) PWR_DOMAIN_STATE 1
      s.fed = true ∧ s.power.bootStopped = false ∧ s.domain d = 1 ∧ s.starting = true) ∧
    (let s := ((sBoot 49).putPower { Power.init with romOk := true, nextDomain := 49, m2 := [0] }).setFld (PWR_DOMAIN 48)
       PWR_DOMAIN_STATE 1
     s.fed = true ∧ s.power.bootStopped = false ∧ s.domain 48 = 1 ∧ s.starting = true ∧ s.power.m2 ≠ []) ∧
    (∀ d ∈ [0, 7], let s := booted.setFld (PWR_DOMAIN d) PWR_DOMAIN_STATE 2
      s.on = true ∧ s.domain d = 2) ∧
    (∀ d < 50, (booted.bit (PWR_DOMAIN d) PWR_DOMAIN_OFF) ≠ true) ∧
    (booted.on = true ∧ cdcClass 0 = some 5 ∧ cdcClass 4 = some 5 ∧ cdcClass 5 = some 0 ∧ cdcClass 0x40 = some 3 ∧
      cdcClass 0x13F = some 3 ∧ booted.octetStopped 0x40 = true ∧ booted.octetStopped 0x13F = true ∧
      (sPort 0 linkUp (trainOn [])).octetStopped 0x40 = false ∧ (sPort 0 linkUp (trainOn [])).octetStopped 0xC0 = false ∧
      booted.octetStopped 0 = false ∧ booted.octetStopped 5 = false ∧
      ∀ i ∈ [0, 4, 5, 0x40, 0x13F], booted.crossed i = false ∧
        ((booted.setFld (CDC_STATE i) CDC_STATE_STATE 2).on && (booted.setFld (CDC_STATE i) CDC_STATE_STATE 2).crossed i)) ∧
    State.reset.power.mainOn = true := by
  and_intros <;> decide +kernel

theorem witness_SecureBoot :
    (let s := State.reset.setFld (PWR_DOMAIN 0) PWR_DOMAIN_STATE 2
     s.fed = true ∧ s.power.romOk = false ∧ s.domain 0 = 2) ∧
    ((sBoot 1).fed = true ∧ (sBoot 1).power.romOk = true ∧ (sBoot 1).power.m2 = []) ∧
    (booted.on = true ∧ booted.bit SEC_FW_CTL SEC_FW_CTL_BUSY = false ∧ (BitVec.ofNat 64 (2 ^ 63) : Word).getLsbD 63 = true) ∧
    (let s := booted.putPower { booted.power with update := some (lpddrBase, 4096, 1) }
     s.on = true ∧ s.power.update = some (lpddrBase, 4096, 1)) := by
  and_intros <;> decide +kernel

theorem witness_HostKeyOnce : booted.power.mainOn = true ∧
    (booted.anyKey || booted.power.sessionSeen || booted.power.hostKeySeen) = false ∧
    (let s := booted.setFld (HP_KEY_FLAGS 15) HP_KEY_FLAGS_VALID 1
     s.power.mainOn = true ∧ s.anyKey = true) :=
  ⟨rfl, by decide +kernel, by decide +kernel⟩

theorem witness_ManagementTarget : booted.power.mainOn = true := rfl

/-! ### Witnesses: the Water Book -/

def sBook (w : WaterBook) : State := booted.putWb w
def zeroRec : CountRec := ⟨1, 0, 0, 0⟩
def frameOf (l : List CountRec) : CountFrame :=
  let f : CountFrame := ⟨0, false, false, 0, l, 0⟩
  { f with crc := crc32c f.bytes }

/-- An interval of energy 5 mJ that starts from 0. -/
def five : Interval := ⟨0, 0, 0, 0, 5, 5, 0, 0, some 0, 0, 0, []⟩
def oldRecord : List Byte := List.replicate 2048 0
def chained : WaterBook :=
  { WaterBook.init with records := [(1, oldRecord)], rseq := 1, ended := [five], eTotal := 9, eStart := 5 }

theorem witness_EnergyChain : (∃ t, step (sBook chained) = .next t) ∧ chained.Chained ∧ chained.on = true ∧ chained.ended = five :: [] ∧
    chained.records.getLast? = some (1, oldRecord) ∧ five.parts ≤ 4096 :=
  ⟨⟨_, by simp only [step, show (sBook chained).pending = [] from rfl]; rfl⟩, ⟨by decide, by decide, by decide, 0, fun r h => by cases h; decide +kernel, by decide, rfl⟩, rfl, rfl, rfl, by decide⟩

theorem witness_WaterBookRecords : (sBook chained).wb.on = true ∧ (sBook chained).wb.powerLost = false ∧
    (sBook chained).wb.ended = five :: [] ∧ five.deltas.length ≤ 64 ∧
    (sBook { WaterBook.init with demand := true }).wb.demand = true ∧ (sBook WaterBook.init).wb.demand = false ∧
    (max WaterBook.init.ticks (BitVec.ofNat 64 1500000000).toNat % 1500000000 = 0 ∧
      WaterBook.init.tStart < max WaterBook.init.ticks (BitVec.ofNat 64 1500000000).toNat) ∧
    (max WaterBook.init.ticks (BitVec.ofNat 64 1500000001).toNat % 1500000000 ≠ 0 ∧
      max WaterBook.init.ticks (0 : Word).toNat ≤ WaterBook.init.tStart) ∧
    (sBook { chained with powerLost := true }).wb.powerLost = true ∧
    (let w := { WaterBook.init with on := false }
     w.on = false ∧ w.ended = [] ∧ w.deltas = []) ∧
    (sBook chained).wb.records = (1, oldRecord) :: [] ∧ (sBook chained).wb.records.getLast? = some (1, oldRecord) ∧
    ({ chained with selected := 1 }).held 1 = some oldRecord ∧ chained.held chained.selected = none :=
  ⟨rfl, rfl, rfl, by decide, rfl, rfl, by decide, by decide, rfl, ⟨rfl, rfl, rfl⟩, rfl, rfl, by decide +kernel, by decide +kernel⟩

theorem witness_WaterBookApart : booted.wb.on = true ∧ booted.on = true ∧ booted.crossed 5 = false ∧
    (∀ l ∈ [[], [zeroRec]], (sBook { WaterBook.init with frames := [frameOf l], last := [zeroRec] }).wb.frames = frameOf l :: [] ∧
      (frameOf l).entries = l ∧ (frameOf l).crc = crc32c (frameOf l).bytes) ∧
    ({ frameOf [] with crc := 0 } : CountFrame).crc ≠ crc32c ({ frameOf [] with crc := 0 } : CountFrame).bytes ∧
    (let w := { WaterBook.init with frames := [frameOf [zeroRec]], last := [zeroRec] }
     w.deltas = [] ∧ w.last = [zeroRec] ∧ zeroRec.ctx = 1 ∧ zeroRec.gen = 0) ∧
    (oldRecord.length = 2048 ∧ rseqOf oldRecord = 0 ∧ ([] : List Byte).length ≠ 2048) ∧
    (let h := BitVec.ofNat 64 0x8E400000
     let s := sBook { WaterBook.init with relay := [(0, h)] }
     s.on = true ∧ Table.look s.wb.relay 0 = some h ∧ s.grants = [] ∧ s.load (handleAddr h + 8) 4 = 0 ∧ s.fld WBR_STAT WBR_STAT_NEWEST = 0 ∧
      0 < (s.setFld WBR_STAT WBR_STAT_NEWEST 5).fld WBR_STAT WBR_STAT_NEWEST ∧
      0 < (s.put (handleAddr h + 8) [0, 4]).load (handleAddr h + 8) 4) ∧
    (let s := (booted.putOwners [(3, ⟨3, 0, 0, 0, 0, 0⟩)]).putPools
       [(3, ⟨1, 0, 0, true, 0, 17, 17, 0x8E000000, 0, (List.range 17).map fun i => 0x8E000000 + 4096 * i, [], 0, [], []⟩)]
     s.on = true ∧ s.grants = [] ∧ Table.look s.wb.relay 0 = none ∧ s.owner 3 = some ⟨3, 0, 0, 0, 0, 0⟩ ∧
      s.mayAlloc 3 ⟨3, 0, 0, 0, 0, 0⟩ = true ∧ (s.allocNow 3 3 ⟨3, 0, 0, 0, 0, 0⟩).1.isSome = true) ∧
    (let x : Owner := ⟨3, 0, 0, 1, 0, 1⟩
     let s := (booted.putOwners [(3, x)]).putPools [(3, ⟨1, 0, 0, true, 0, 17, 17, 0x8E000000, 0, [], [], 0, [], []⟩)]
     s.on = true ∧ s.grants = [] ∧ Table.look s.wb.relay 0 = none ∧ (s.pool 3).state = 1 ∧ s.owner 3 = some x ∧
      s.mayAlloc 3 x = false ∧ s.waiters.length < 1024) := by
  and_intros <;> decide +kernel

/-! ### Witnesses: the queue, power and registers -/

theorem witness_EmptyQueueTick : booted.pending = [] ∧ booted.on = true ∧ State.reset.pending = [] ∧ State.reset.on = false ∧
    (sBoot 3).pending = [] ∧ (sBoot 3).on = false ∧ (sBoot 3).fed = true :=
  ⟨rfl, by decide +kernel, rfl, by decide +kernel, rfl, by decide +kernel, by decide +kernel⟩

theorem witness_ResetState : ((regRow? (PORT_ROLE 1023)).any fun row => row.fields.contains PORT_ROLE_ROLE) = true ∧
    ((regRow? (PORT_VC_SCHED 0 4)).any fun row => row.fields.contains PORT_VC_SCHED_PRIO) = true :=
  ⟨by decide +kernel, by decide +kernel⟩

theorem step_reset : step booted = .next (idleCycle booted) := by
  have h : booted.pending = [] := rfl
  simp only [step, h]

theorem step_close (s : State) (h : s.pending = [.closeAll]) : ∃ u, step s = .next u := by
  simp only [step, h]
  exact ⟨_, rfl⟩

theorem witness_EveryStepKeepsQueueAndGrade : (let s := booted.putPending [.closeAll]
     s.grade = booted.grade ∧ s.pending <:+ [.closeAll] ∧ s.pending = .closeAll :: [] ∧
      Instr.powers .closeAll = false ∧ ∃ u, step s = .next u) ∧
    (booted.pending <:+ [] ∧ ∃ u, step booted = .next u) :=
  ⟨⟨by decide +kernel, by decide +kernel, by decide +kernel, rfl, step_close _ (by decide +kernel)⟩, by decide +kernel,
    _, step_reset⟩

theorem witness_PowerIsolation : (∀ c ∈ [Instr.closeAll, .iNop 0 0 0], c.mainSide = true) ∧
    ∀ s ∈ [sOff true, State.reset, sBoot 3], let q := [Instr.closeAll, .iNop 0 0 0]
      (s.putPending q).on = false ∧ (s.putPending q).pending = q :=
  ⟨by decide +kernel, by decide +kernel⟩

/-- What a write of `v` to register `r` asks for, and a read of it. -/
def mapped (r : Reg) (v : Nat) : Bool :=
  booted.on && r.addr % 8 == 0 && decide (regAt r.addr = some r) && !booted.ctrlFails r.addr true &&
    !booted.ctrlFails r.addr false && !isDebug r && (booted.relayBad r).isNone && (regRow? r).isSome && (booted.actWrite r v).isNone &&
    boundWrite r v == v && decide (r.addr < 2 ^ 48)

theorem witness_RegisterAccess :
    (∀ e ∈ [(PORT_ROLE 1023, PORT_ROLE_ROLE, Access.rw), (PORT_ROLE 1023, PORT_ROLE_PEER_ID, .ro),
        (TILE_FP_FLAGS 0, TILE_FP_FLAGS_WEIR_NV, .w1c), (TILE_FP_FLAGS 255, TILE_FP_FLAGS_MU_OF, .w1c),
        (WBR_CTL, WBR_CTL_REQUEST, .w1s), (PORT_HDR_DROP 0, PORT_HDR_DROP_COUNT, .rc)],
      mapped e.1 (2 ^ 64 - 1) = true ∧ ((regRow? e.1).any fun row => row.fields.contains e.2.1) = true ∧ e.2.1.acc = e.2.2) ∧
    ((0x107FFFFF8 : Nat) % 8 = 0 ∧ 0x101000000 ≤ 0x107FFFFF8 ∧ 0x107FFFFF8 < 0x108000000 ∧ regAt 0x107FFFFF8 = none) :=
  by decide +kernel

/-! ### Tests of single commands and functions; the expected values are the spec's -/

/-- The command completes, and the check holds of the next state. -/
def after (i : Instr) (s : State) (p : State → Bool) : Bool :=
  match exec i s with
  | .next u => p u
  | _ => false

/-- Thread 0 of tile 0 with scalar registers 1 and 2 and the PC given. -/
def sAB (a b pc : Word) : State := s0.modThread 0 0 fun y => { y with s := [(1, a), (2, b)], pc := pc }
/-- D = 3, A = 1, B = 2. -/
def w312 : BitVec 56 := BitVec.ofNat 56 (3 <<< 43 ||| 1 <<< 38 ||| 2 <<< 33)

-- spec/07_instruction_set.md R176: 64-bit results wrap, shifts count modulo 64
theorem test_add_wraps : after (.iAdd 0 0 w312) (sAB (2 ^ 64 - 1) 1 0) (fun u =>
    (u.thread 0 0).getS 3 == 0 && (u.thread 0 0).getS 1 == 2 ^ 64 - 1 && (u.thread 0 0).pc == 8) = true := by decide +kernel
theorem test_shl_modulo_64 : after (.iShl 0 0 w312) (sAB 5 65 0) (fun u => (u.thread 0 0).getS 3 == 10) = true := by
  decide +kernel
theorem test_sra_sign : after (.iSra 0 0 w312) (sAB (2 ^ 64 - 8) 1 0) (fun u => (u.thread 0 0).getS 3 == 2 ^ 64 - 4) = true := by
  decide +kernel
theorem test_slt_signed : after (.iSlt 0 0 w312) (sAB (2 ^ 64 - 1) 1 0) (fun u => (u.thread 0 0).getS 3 == 1) = true := by
  decide +kernel
theorem test_sltu_unsigned : after (.iSltu 0 0 w312) (sAB (2 ^ 64 - 1) 1 0) (fun u => (u.thread 0 0).getS 3 == 0) = true := by
  decide +kernel
-- R136: s0 reads as zero and discards writes
theorem test_s0_zero : after (.iAdd 0 0 (BitVec.ofNat 56 (1 <<< 38 ||| 2 <<< 33))) (sAB 5 6 0) (fun u =>
    (u.thread 0 0).getS 0 == 0 && (u.thread 0 0).pc == 8) = true := by decide +kernel
-- R177: the branch target is PC + 8 x OFF33
theorem test_branch_backward : after (.iBne 0 0 (BitVec.ofNat 56 (1 <<< 38 ||| 2 <<< 33 ||| (2 ^ 33 - 1)))) (sAB 1 2 16)
    (fun u => (u.thread 0 0).pc == 8) = true := by decide +kernel
theorem test_li_negative : after (.iLi 0 0 (BitVec.ofNat 56 (3 <<< 43 ||| (2 ^ 43 - 2)))) s0 (fun u =>
    (u.thread 0 0).getS 3 == 2 ^ 64 - 2) = true := by decide +kernel
-- R180, R5: little-endian bytes, sign-extended by ld.s8 and zero-extended by ld.u16
theorem test_ld_s8 : after (.iLd 0 0 (BitVec.ofNat 56 (4 <<< 48 ||| 3 <<< 43 ||| 64))) (s0.put 64 [0x80]) (fun u =>
    (u.thread 0 0).getS 3 == 2 ^ 64 - 128) = true := by decide +kernel
theorem test_st_16 : after (.iSt 0 0 (BitVec.ofNat 56 (1 <<< 48 ||| 1 <<< 43 ||| 64))) (sAB 0xABCDEF 0 0) (fun u =>
    u.load 64 1 == 0xEF && u.load 65 1 == 0xCD && u.load 66 1 == 0) = true := by decide +kernel

/-- The values of Table 5-11: x = n x 2^-11. -/
def q (n : Int) : FNum := .fin (decide (n < 0)) n.natAbs (-11)
def table511 : List FNum :=
  [q 112, q (-56), q 4, q (-4), q 20, q 40, q 80, q (-12), q 0, .fin true 0 (-11), q 28, q (-96), q 10, q 52, q (-34), q 76,
    q 1, q (-22), q 46, q (-88), .nan, .inf false, q 6, q (-2), q 16, q (-16), q 104, q 60, q (-44), q 14, q (-68), q 36]

-- spec/05_number_formats.md, the example that ends with Table 5-11: scale 0x78, the codes' bytes, flags OF, UF and NX
theorem test_zf4_block : encodeBlock 1 false (fun _ => none) table511 =
    (0x78, [0x7, 0xE, 0x0, 0x0, 0x2, 0x4, 0x6, 0xA, 0x0, 0x0, 0x4, 0xF, 0x1, 0x5, 0xC, 0x6, 0x0, 0xB, 0x5, 0xF, 0x8, 0x7,
      0x1, 0x0, 0x2, 0xA, 0x7, 0x6, 0xD, 0x2, 0xE, 0x4], 7) := by decide +kernel
-- the same block under FP4: scale 0xFF, zero codes, NV (R119)
theorem test_fp4_block : encodeBlock 2 false (fun _ => none) table511 = (0xFF, List.replicate 32 0, 8) := by decide +kernel
-- stochastic rounding of element 1 and element 16 of the example
theorem test_sr_down : (encodeElem 1 false (some 0x3A17) (.fin true 7 (-1))).1 = 0xD := by decide +kernel
theorem test_sr_up : (encodeElem 1 false (some 0x9C40) (.fin true 7 (-1))).1 = 0xE := by decide +kernel
theorem test_sr_small : (encodeElem 1 false (some 0xDFFF) (.fin false 1 (-4))).1 = 0 ∧
    (encodeElem 1 false (some 0xE000) (.fin false 1 (-4))).1 = 1 := by decide +kernel

-- spec/01_architecture.md, the example of a path: PATH holds 806, 400
theorem test_path : (let h := (routedHdr 1 4 (806 + 400 * 1024) 0 0 0 0 0 0 8).toNat
    hPath h 0 = 806 ∧ hPath h 1 = 400 ∧ hHp h = 0 ∧ hcrcOk h = true) := by decide +kernel
-- the published check value of CRC-32C and the first bytes of SHA-512 of "abc"
theorem test_crc32c : crc32c [0x31, 0x32, 0x33, 0x34, 0x35, 0x36, 0x37, 0x38, 0x39] = 0xE3069283 := by decide +kernel
theorem test_sha512 : (sha512 [0x61, 0x62, 0x63]).take 4 = [0xDD, 0xAF, 0x35, 0xA1] := by decide +kernel

-- R454: without main power a main-side command changes nothing; the queue is first in, first out
theorem test_queue_order : ((match step (booted.putPending [.hostLinkUp, .hostLinkDown]) with
    | .next u => u.hostLink && decide (u.pending = [.hostLinkDown])
    | _ => false) : Bool) = true := by decide +kernel
theorem test_unpowered : after .hostLinkUp (sOff true) (fun u => u.hostLink == false) = true := by decide +kernel
-- R456-R459: a second HOST_KEY is refused
theorem test_host_key_once : after (.hostKey 5) booted (fun u =>
    u.bit (HP_KEY_FLAGS 0) HP_KEY_FLAGS_PRIV && after (.hostKey 6) u fun v => v.out == u.out ++ [.nack]) = true := by
  decide +kernel

end Sys2Proof.Tests
end

section
/-! What every step keeps of the queue, the grade and the core cycle count (O3). -/

namespace Sys2Proof.Machine

/-! ### A command's meaning ends in a commit -/

/-- TOKEN_DECIDE completes in a committed state, unless a reserved POLICY stops it. -/
theorem execTokenDecide_commits {e : Fin 16} {s u : State} (h : execTokenDecide e s = .next u) : ∃ t, u = s.commit t := by
  unfold execTokenDecide at h
  dsimp only at h
  split at h
  · exact ⟨_, ok_next h⟩
  · split at h
    · exact ⟨_, ok_next h⟩
    · exact ⟨_, ok_next h⟩
    · exact ⟨_, ok_next h⟩
    all_goals
      split at h
      · cases h
      · exact ⟨_, ok_next h⟩

/-- A command that takes no power away and returns none ends in a state committed to the one before: its meaning is `ok` of
some effect (log entry 5). -/
theorem exec_commits {c : Instr} {s u : State} (hc : c.powers = false) (h : exec c s = .next u) : ∃ t, u = s.commit t := by
  cases c
  case resetLRise | resetLFall | inputPowerLoss | inputPowerReturn | inputSample => cases hc
  case tokenDecide => exact execTokenDecide_commits h
  all_goals exact ⟨_, ok_next h⟩

/-! ### The power cycle -/

@[simp] theorem State.loadFlash_cycle (s : State) : s.loadFlash.cycle = s.cycle := by
  simp [State.loadFlash, foldl_keep State.cycle]

/-- SLU_CYCLE counts from power-up (spec/04_sluice_scheduling.md R110). -/
@[simp] theorem State.powerDown_cycle (s : State) : s.powerDown.cycle = 0 := by
  unfold State.powerDown
  dsimp only
  split <;> simp <;> rfl

@[simp] theorem State.powerUp_cycle (s : State) : s.powerUp.cycle = s.cycle := by simp [State.powerUp]

@[simp] theorem State.setVolts_cycle (s : State) (v : Nat) : (s.setVolts v).cycle = s.cycle := rfl

/-- After a command the queue and the grade are as before it, and SLU_CYCLE is no further. -/
structure State.Follows (s u : State) : Prop where
  pending : u.pending = s.pending
  grade : u.grade = s.grade
  cycle : u.cycle ≤ s.cycle

theorem State.commit_follows (s t : State) : s.Follows (s.commit t) := ⟨by simp, by simp, by simp⟩

theorem okPower_follows {s t u : State} (h : okPower s t = .next u) (ht : t.cycle ≤ s.cycle) : s.Follows u := by
  rw [okPower_next h]
  exact ⟨by simp, by simp, by simpa using ht⟩

theorem execResetLRise_follows {v : BitVec 16} {s u : State} (h : execResetLRise v s = .next u) : s.Follows u := by
  refine okPower_follows h ?_
  dsimp only
  split
  · exact le_rfl
  · split <;> simp

theorem execResetLFall_follows {s u : State} (h : execResetLFall s = .next u) : s.Follows u := by
  refine okPower_follows h ?_
  dsimp only
  split
  · split <;> simp
  · exact le_rfl

theorem execInputPowerLoss_follows {v : BitVec 16} {s u : State} (h : execInputPowerLoss v s = .next u) : s.Follows u := by
  refine okPower_follows h ?_
  dsimp only
  split
  · split <;> simp
  · exact le_rfl

theorem execInputPowerReturn_follows {v : BitVec 16} {s u : State} (h : execInputPowerReturn v s = .next u) :
    s.Follows u := by
  refine okPower_follows h ?_
  dsimp only
  split
  · split <;> simp
  · exact le_rfl

theorem execInputSample_follows {v a w : BitVec 16} {held : HeldFor} {s u : State}
    (h : execInputSample v a w held s = .next u) : s.Follows u := by
  unfold execInputSample at h
  split at h
  · refine okPower_follows h ?_
    split <;> simp
  · rw [ok_next h]
    exact s.commit_follows _

theorem exec_follows_of_powers {c : Instr} {s u : State} (hc : c.powers = true) (h : exec c s = .next u) :
    s.Follows u := by
  cases c
  case resetLRise => exact execResetLRise_follows h
  case resetLFall => exact execResetLFall_follows h
  case inputPowerLoss => exact execInputPowerLoss_follows h
  case inputPowerReturn => exact execInputPowerReturn_follows h
  case inputSample => exact execInputSample_follows h
  all_goals cases hc

theorem exec_follows {c : Instr} {s u : State} (h : exec c s = .next u) : s.Follows u := by
  cases hc : c.powers
  · obtain ⟨t, rfl⟩ := exec_commits hc h
    exact s.commit_follows t
  · exact exec_follows_of_powers hc h

theorem exec_cycle {c : Instr} {s u : State} (hc : c.powers = false) (h : exec c s = .next u) : u.cycle = s.cycle := by
  obtain ⟨t, rfl⟩ := exec_commits hc h
  exact s.commit_cycle t

/-! ### The step on an empty queue -/

theorem idleCycle_pending (s : State) : (idleCycle s).pending = s.pending := by
  unfold idleCycle
  split <;> [skip; split] <;> simp

theorem idleCycle_grade (s : State) : (idleCycle s).grade = s.grade := by
  unfold idleCycle
  split <;> [skip; split] <;> simp

theorem idleCycle_cycle_le (s : State) : (idleCycle s).cycle ≤ s.cycle + 1 := by
  unfold idleCycle
  split <;> [skip; split] <;> simp

/-- What a step does to the queue, the grade and SLU_CYCLE. -/
theorem step_keeps {s u : State} (h : step s = .next u) :
    u.pending = s.pending.tail ∧ u.grade = s.grade ∧ u.cycle ≤ s.cycle + 1 ∧
      ∀ c rest, s.pending = c :: rest → c.powers = false → u.cycle = s.cycle := by
  unfold step at h
  cases hp : s.pending with
  | nil =>
    simp only [hp, Host.Outcome.next.injEq] at h
    subst h
    exact ⟨by rw [idleCycle_pending, hp, List.tail_nil], idleCycle_grade s, idleCycle_cycle_le s,
      fun _ _ e => absurd e (List.cons_ne_nil _ _).symm⟩
  | cons c rest =>
    simp only [hp] at h
    obtain ⟨hq, hg, hc⟩ := exec_follows h
    refine ⟨hq, hg, Nat.le_succ_of_le hc, ?_⟩
    rintro _ _ ⟨⟩ hpow
    exact (exec_cycle hpow h).trans (s.putPending_cycle _)

/-- Settles O3: a meaning commits its effect to the state before it (`exec_commits`), and only the commands of the supply may
start SLU_CYCLE over. -/
theorem everyStepKeepsQueueAndGrade : Obligations.EveryStepKeepsQueueAndGrade := by
  intro s u g q hg hq h
  obtain ⟨hpend, hgrade, hle, hcycle⟩ := step_keeps h
  exact ⟨hgrade.trans hg, hpend ▸ (List.tail_suffix _).trans hq, hpend, hcycle, hle⟩

end Sys2Proof.Machine
end

section
/-! Register writes and reads field by field (O6): bit fields under the bitwise operations, the fields of a register side by
side, the bits that the module sets in the cycle of a write, and the two commands. -/

namespace Sys2Proof.Machine

/-! ### Bit fields under the bitwise operations -/

theorem testBit_bitsOf (x lo w i : Nat) : (bitsOf x lo w).testBit i = (decide (i < w) && x.testBit (lo + i)) := by
  simp [bitsOf]

theorem bitsOf_lt (x lo w : Nat) : bitsOf x lo w < 2 ^ w := Nat.mod_lt _ (Nat.two_pow_pos w)

theorem bitsOf_or (x y lo w : Nat) : bitsOf (x ||| y) lo w = bitsOf x lo w ||| bitsOf y lo w :=
  Nat.eq_of_testBit_eq fun i => by simp [testBit_bitsOf, Bool.and_or_distrib_left]

/-- Taking from a number the bits it shares with another clears those bits and borrows nothing. -/
theorem testBit_sub_and (x y i : Nat) : (x - (x &&& y)).testBit i = (x.testBit i && !y.testBit i) := by
  have hle : x &&& y ≤ x := Nat.and_le_left
  have hmod : (x &&& y) % 2 = 1 ↔ x % 2 = 1 ∧ y % 2 = 1 := Nat.and_mod_two_eq_one
  induction i generalizing x y with
  | zero =>
    simp only [Nat.testBit_zero, ← decide_not, ← Bool.decide_and]
    exact decide_eq_decide.mpr (by omega)
  | succ i ih =>
    have hdiv : (x - (x &&& y)) / 2 = x / 2 - (x / 2 &&& y / 2) := by
      rw [← Nat.and_div_two]
      omega
    rw [Nat.testBit_succ, Nat.testBit_succ, Nat.testBit_succ, hdiv]
    exact ih _ _ Nat.and_le_left Nat.and_mod_two_eq_one

theorem bitsOf_sub_and (x y lo w : Nat) :
    bitsOf (x - (x &&& y)) lo w = bitsOf x lo w - (bitsOf x lo w &&& bitsOf y lo w) :=
  Nat.eq_of_testBit_eq fun i => by
    simp only [testBit_bitsOf, testBit_sub_and]
    cases decide (i < w) <;> simp

/-- Bits that are set in the cycle in which they are cleared end set, whether the clear reached them or not. -/
theorem clear_set_eq (o n m : Nat) : (o - (o &&& (n - (n &&& m)))) ||| m = (o - (o &&& n)) ||| m :=
  Nat.eq_of_testBit_eq fun i => by
    simp only [Nat.testBit_or, testBit_sub_and]
    cases o.testBit i <;> cases n.testBit i <;> cases m.testBit i <;> rfl

/-! ### Fields side by side in a register -/

/-- The fields lie below bit `top`, one below the other, as every map lists them. -/
def laidOut : Nat → List Fld → Bool
  | _, [] => true
  | top, f :: l => decide (f.lo + f.width ≤ top) && laidOut f.lo l

/-- The number whose fields hold `val`. -/
def fieldSum (val : Fld → Nat) (l : List Fld) : Nat := l.foldl (fun a f => a + val f <<< f.lo) 0

theorem foldl_fieldSum (val : Fld → Nat) (l : List Fld) (a : Nat) :
    l.foldl (fun a f => a + val f <<< f.lo) a = a + fieldSum val l := by
  induction l generalizing a with
  | nil => rfl
  | cons f l ih => rw [fieldSum, List.foldl_cons, List.foldl_cons, ih, ih (0 + _)]; omega

theorem fieldSum_cons (val : Fld → Nat) (f : Fld) (l : List Fld) :
    fieldSum val (f :: l) = val f <<< f.lo + fieldSum val l := by
  rw [fieldSum, List.foldl_cons, foldl_fieldSum, Nat.zero_add]

theorem fieldSum_eq_zero {val : Fld → Nat} {l : List Fld} (h : ∀ f ∈ l, val f = 0) : fieldSum val l = 0 := by
  induction l with
  | nil => rfl
  | cons f l ih =>
    rw [fieldSum_cons, h f List.mem_cons_self, ih fun g hg => h g (List.mem_cons_of_mem _ hg), Nat.zero_shiftLeft]

theorem laidOut_cons {top : Nat} {f : Fld} {l : List Fld} (h : laidOut top (f :: l) = true) :
    f.lo + f.width ≤ top ∧ laidOut f.lo l = true := by
  simpa [laidOut] using h

theorem laidOut_mem {top : Nat} {l : List Fld} (h : laidOut top l = true) : ∀ f ∈ l, f.lo + f.width ≤ top := by
  induction l generalizing top with
  | nil => simp
  | cons f l ih =>
    obtain ⟨hf, hl⟩ := laidOut_cons h
    intro g hg
    rcases List.mem_cons.mp hg with rfl | hg
    · exact hf
    · exact (ih hl g hg).trans ((Nat.le_add_right _ _).trans hf)

section
variable {val : Fld → Nat} {l : List Fld} {top : Nat} (hv : ∀ f, val f < 2 ^ f.width)
include hv

theorem fieldSum_lt (h : laidOut top l = true) : fieldSum val l < 2 ^ top := by
  induction l generalizing top with
  | nil => exact Nat.two_pow_pos top
  | cons f l ih =>
    obtain ⟨hf, hl⟩ := laidOut_cons h
    rw [fieldSum_cons, Nat.shiftLeft_eq]
    calc val f * 2 ^ f.lo + fieldSum val l < val f * 2 ^ f.lo + 2 ^ f.lo := Nat.add_lt_add_left (ih hl) _
      _ = (val f + 1) * 2 ^ f.lo := (Nat.succ_mul _ _).symm
      _ ≤ 2 ^ f.width * 2 ^ f.lo := Nat.mul_le_mul_right _ (hv f)
      _ = 2 ^ (f.lo + f.width) := by rw [← pow_add, Nat.add_comm]
      _ ≤ 2 ^ top := Nat.pow_le_pow_right (by decide) hf

/-- Fields put in one after the other by a bitwise or do not meet. -/
theorem foldl_or_fieldSum {g : Nat → Fld → Nat} (hg : ∀ m f, g m f = m ||| val f <<< f.lo) (h : laidOut top l = true)
    (m : Nat) : l.foldl g m = m ||| fieldSum val l := by
  induction l generalizing top m with
  | nil => exact (Nat.or_zero m).symm
  | cons f l ih =>
    obtain ⟨-, hl⟩ := laidOut_cons h
    rw [List.foldl_cons, ih hl, hg, fieldSum_cons, Nat.shiftLeft_add_eq_or_of_lt (fieldSum_lt hv hl), Nat.or_assoc]

/-- Laid out one below the other, the fields read back what they were given. -/
theorem bitsOf_fieldSum (h : laidOut top l = true) {g : Fld} (hg : g ∈ l) :
    bitsOf (fieldSum val l) g.lo g.width = val g := by
  induction l generalizing top with
  | nil => cases hg
  | cons f l ih =>
    obtain ⟨-, hl⟩ := laidOut_cons h
    have hput : fieldSum val (f :: l) = putBits (fieldSum val l) f.lo f.width (val f) := by
      have hlow := fieldSum_lt hv hl
      rw [putBits_eq, Nat.mod_eq_of_lt hlow, Nat.mod_eq_of_lt (hv f), Nat.div_eq_of_lt hlow, fieldSum_cons, Nat.shiftLeft_eq]
      simp
      ring
    rw [hput]
    rcases List.mem_cons.mp hg with rfl | hg
    · rw [bitsOf_putBits_same, Nat.mod_eq_of_lt (hv g)]
    · rw [bitsOf_putBits_below _ _ _ _ _ _ (laidOut_mem hl g hg), ih hl hg]

end

/-- Every map of Table 11-1a lists the fields of a register from the top down. -/
theorem regRow_laidOut {r : Reg} {row : RegRow} (h : regRow? r = some row) : laidOut 64 row.fields = true := by
  have hmem : row ∈ regRows r.blk := List.mem_of_find?_eq_some h
  rcases Nat.lt_or_ge r.blk 20 with hb | hb
  · have hall : ∀ b < 20, ∀ row ∈ regRows b, laidOut 64 row.fields = true := by decide +kernel
    exact hall _ hb _ hmem
  · obtain ⟨n, hn⟩ := Nat.exists_eq_add_of_le' hb
    rw [hn] at hmem
    cases hmem

/-! ### What a write and a read leave in each field (spec/00_scope.md R6, R7) -/

theorem State.fld_congr {s s' : State} (h : s'.regs = s.regs) (r : Reg) (f : Fld) : s'.fld r f = s.fld r f := by
  rw [State.fld, State.rd_congr h, State.fld]

/-- What a write of `new` over `old` leaves in field `f`. -/
def storedField (old new : Nat) (f : Fld) : Nat :=
  let o := bitsOf old f.lo f.width
  let n := bitsOf new f.lo f.width
  match f.acc with
  | .rw => n
  | .ro => o
  | .wo => 0
  | .w1c => o - (o &&& n)
  | .w1s => o ||| n
  | .rc => o

/-- What a read in a cycle with the module's own `update` leaves in field `f`. -/
def keptField (old update : Nat) (f : Fld) : Nat :=
  match f.acc with
  | .rc => bitsOf update f.lo f.width
  | _ => bitsOf old f.lo f.width

/-- The bits of field `f` among `sets` that the module may set in the cycle of a write. -/
def ownField (sets : Nat) (f : Fld) : Nat :=
  match f.acc with
  | .w1c => bitsOf sets f.lo f.width
  | _ => 0

theorem storeFields_eq (l : List Fld) (old new : Nat) : storeFields l old new = fieldSum (storedField old new) l := rfl
theorem readFields_eq (l : List Fld) (old update : Nat) : readFields l old update = fieldSum (keptField old update) l := rfl

theorem storedField_lt (old new : Nat) (f : Fld) : storedField old new f < 2 ^ f.width := by
  have ho := bitsOf_lt old f.lo f.width
  have hn := bitsOf_lt new f.lo f.width
  unfold storedField
  cases f.acc
  · exact hn
  · exact ho
  · exact Nat.two_pow_pos _
  · exact (Nat.sub_le _ _).trans_lt ho
  · exact Nat.or_lt_two_pow ho hn
  · exact ho

theorem keptField_lt (old update : Nat) (f : Fld) : keptField old update f < 2 ^ f.width := by
  unfold keptField
  split <;> exact bitsOf_lt _ _ _

theorem ownField_lt (sets : Nat) (f : Fld) : ownField sets f < 2 ^ f.width := by
  unfold ownField
  split
  · exact bitsOf_lt _ _ _
  · exact Nat.two_pow_pos _

section
variable {r : Reg} {row : RegRow} (hrow : regRow? r = some row)
include hrow

theorem ownBits_eq (sets : Nat) : ownBits r sets = fieldSum (ownField sets) row.fields := by
  unfold ownBits
  rw [hrow]
  refine (foldl_or_fieldSum (ownField_lt sets) (fun m f => ?_) (regRow_laidOut hrow) 0).trans (Nat.zero_or _)
  unfold ownField
  cases f.acc <;> simp

theorem ownBits_lt (sets : Nat) : ownBits r sets < 2 ^ 64 :=
  ownBits_eq hrow sets ▸ fieldSum_lt (ownField_lt sets) (regRow_laidOut hrow)

theorem bitsOf_ownBits (sets : Nat) {f : Fld} (hf : f ∈ row.fields) :
    bitsOf (ownBits r sets) f.lo f.width = ownField sets f := by
  rw [ownBits_eq hrow, bitsOf_fieldSum (ownField_lt sets) (regRow_laidOut hrow) hf]

theorem ownBits_zero : ownBits r 0 = 0 := by
  refine (ownBits_eq hrow 0).trans (fieldSum_eq_zero fun f _ => ?_)
  unfold ownField
  cases f.acc <;> simp [bitsOf]

/-- A field of a register that takes the number of given fields reads its own. -/
theorem State.fld_wr_fieldSum (s : State) {val : Fld → Nat} (hv : ∀ f, val f < 2 ^ f.width) {f : Fld}
    (hf : f ∈ row.fields) :
    (s.wr r (BitVec.ofNat 64 (fieldSum val row.fields))).fld r f = val f := by
  have hl := regRow_laidOut hrow
  rw [State.fld, State.rd_wr_same, BitVec.toNat_ofNat, Nat.mod_eq_of_lt (fieldSum_lt hv hl), bitsOf_fieldSum hv hl hf]

theorem State.storeReg_eq (s : State) (v : Nat) : s.storeReg r v =
    s.wr r (BitVec.ofNat 64 (fieldSum (storedField (s.rd r).toNat (boundWrite r v)) row.fields)) := by
  unfold State.storeReg
  rw [hrow]
  simp only [storeFields_eq]

/-- The bits that the module sets in the cycle of a write lie in no field whose write the module bounds. -/
theorem boundWrite_clear {v : Nat} (sets : Nat) (hb : boundWrite r v = v) :
    boundWrite r (v - (v &&& ownBits r sets)) = v - (v &&& ownBits r sets) := by
  by_cases hs : r = SLU_SMP_CFG ∨ r = PWR_CAP
  · have hown : ownBits r sets = 0 := by rcases hs with rfl | rfl <;> rfl
    simpa [hown] using hb
  · obtain ⟨h1, h2⟩ := not_or.mp hs
    simp [boundWrite, h1, h2]

end

/-- What field `f` holds after a write of `v` in a cycle in which the module sets `sets` itself (R6, R7). -/
def writtenField (old v sets : Nat) (f : Fld) : Nat :=
  let o := bitsOf old f.lo f.width
  let n := bitsOf v f.lo f.width
  match f.acc with
  | .rw => n
  | .ro => o
  | .wo => 0
  | .w1c => (o - (o &&& n)) ||| bitsOf sets f.lo f.width
  | .w1s => o ||| n
  | .rc => o

/-- The model keeps the module's own bits out of the store and sets them after it. -/
theorem storedField_or_ownField {own sets : Nat} {f : Fld} (hown : bitsOf own f.lo f.width = ownField sets f)
    (old v : Nat) : storedField old (v - (v &&& own)) f ||| ownField sets f = writtenField old v sets f := by
  unfold storedField writtenField
  rw [bitsOf_sub_and, hown]
  unfold ownField
  cases f.acc
  case w1c => exact clear_set_eq _ _ _
  all_goals simp

/-! ### The bits that the module sets in the cycle of a write (R7) -/

/-- Steps that each set bit `n` of register `q` or leave it leave it set when it was or one of them set it. -/
theorem State.getLsbD_rd_foldl {β : Type} {q : Reg} {n : Nat} {g : State → β → State} {b : β → Bool}
    (h : ∀ s x, ((g s x).rd q).getLsbD n = ((s.rd q).getLsbD n || b x)) (l : List β) (s : State) :
    ((l.foldl g s).rd q).getLsbD n = ((s.rd q).getLsbD n || l.any b) := by
  induction l generalizing s with
  | nil => simp
  | cons x l ih => rw [List.foldl_cons, ih, h, List.any_cons, Bool.or_assoc]

theorem getLsbD_two_pow (k n : Nat) (hn : n < 64) : (BitVec.ofNat 64 (2 ^ k)).getLsbD n = decide (k = n) := by
  rw [BitVec.getLsbD_ofNat, Nat.testBit_two_pow, decide_eq_true hn, Bool.true_and]

/-- Flag `i` of an engine stands in bit 4 × engine + `i` (spec/05_number_formats.md R134). -/
theorem State.getLsbD_setFlags (s : State) (t engine f : Nat) (c : Option Nat) (n : Nat) (hn : n < 64) :
    ((s.setFlags t engine f c).rd (TILE_FP_FLAGS t)).getLsbD n =
      ((s.rd (TILE_FP_FLAGS t)).getLsbD n || (List.range 4).any fun i => bitOf f i && decide (4 * engine + i = n)) := by
  have hquiet : (TILE_FP_FLAGS t).quiet := by simp [Reg.quiet, TILE_FP_FLAGS]
  refine State.getLsbD_rd_foldl (fun s i => ?_) _ _
  dsimp only
  split
  · next hset =>
    obtain ⟨hf, -⟩ := Bool.and_eq_true_iff.mp hset
    rw [hf, Bool.true_and, ← getLsbD_two_pow _ _ hn, ← BitVec.getLsbD_or]
    split
    · rw [(State.notice_only _ _ _ _ _ _ _).rd _ hquiet, State.rd_wr_same]
    · rw [State.rd_wr_same]
  · next hset =>
    have hold : bitOf f i = true → 4 * engine + i = n → (s.rd (TILE_FP_FLAGS t)).getLsbD n = true := by
      rintro hf rfl
      have hbit : bitOf (s.rd (TILE_FP_FLAGS t)).toNat (4 * engine + i) = true := by simpa [hf] using hset
      exact hbit
    by_cases hi : bitOf f i = true ∧ 4 * engine + i = n
    · rw [hold hi.1 hi.2, Bool.true_or]
    · rw [← Bool.decide_coe (bitOf f i), ← Bool.decide_and, decide_eq_false hi, Bool.or_false]

/-- The sixteen groups of four flags cover the register. -/
theorem any_flag (own n : Nat) (hn : n < 64) :
    ((List.range 16).any fun e => (List.range 4).any fun i => bitOf (bitsOf own (4 * e) 4) i && decide (4 * e + i = n)) =
      own.testBit n := by
  rw [Bool.eq_iff_iff]
  simp only [bitOf, testBit_bitsOf, List.any_eq_true, List.mem_range, Bool.and_eq_true, decide_eq_true_eq]
  constructor
  · rintro ⟨e, -, i, -, ⟨-, h⟩, rfl⟩
    exact h
  · intro h
    have hdiv : 4 * (n / 4) + n % 4 = n := Nat.div_add_mod n 4
    exact ⟨n / 4, by omega, n % 4, by omega, ⟨by omega, by rwa [hdiv]⟩, hdiv⟩

theorem State.rd_allFlags (s : State) (t own : Nat) :
    ((List.range 16).foldl (fun s e => s.setFlags t e (bitsOf own (4 * e) 4)) s).rd (TILE_FP_FLAGS t) =
      s.rd (TILE_FP_FLAGS t) ||| BitVec.ofNat 64 own := by
  apply BitVec.eq_of_getLsbD_eq
  intro n hn
  rw [State.getLsbD_rd_foldl fun s e => s.getLsbD_setFlags t e (bitsOf own (4 * e) 4) none n hn, any_flag own n hn,
    BitVec.getLsbD_or, BitVec.getLsbD_ofNat, decide_eq_true hn, Bool.true_and]

theorem State.rd_ownSets (s : State) (r : Reg) (own : Nat) : (s.ownSets r own).rd r = s.rd r ||| BitVec.ofNat 64 own := by
  unfold State.ownSets
  split
  · next hr =>
    rw [hr]
    exact s.rd_allFlags r.inst own
  · exact State.rd_wr_same _ _ _

theorem State.fld_ownSets (s : State) {r : Reg} {row : RegRow} (hrow : regRow? r = some row) (sets : Nat) {f : Fld}
    (hf : f ∈ row.fields) : (s.ownSets r (ownBits r sets)).fld r f = s.fld r f ||| ownField sets f := by
  rw [State.fld, State.rd_ownSets, BitVec.toNat_or, bitsOf_or, BitVec.toNat_ofNat, Nat.mod_eq_of_lt (ownBits_lt hrow sets),
    bitsOf_ownBits hrow sets hf, State.fld]

theorem State.ownSets_mem (s : State) {r : Reg} (hr : r ≠ TILE_FP_FLAGS r.inst) (own : Nat) :
    (s.ownSets r own).mem = s.mem := by
  rw [State.ownSets, if_neg hr, State.wr_mem]

/-! ### What follows a plain write -/

/-- With no cell waiting for the dispatcher, what follows a plain write changes scheduling state of a port alone. -/
theorem State.afterWrite_keeps (s : State) (r : Reg) (old : Nat) (h : r = EXP_CFG → s.expWait = []) :
    (s.afterWrite r old).regs = s.regs ∧ (s.afterWrite r old).mem = s.mem := by
  unfold State.afterWrite
  dsimp only
  split
  · exact ⟨rfl, rfl⟩
  · split
    · split <;> exact ⟨rfl, rfl⟩
    · split
      · next hr => rw [State.expReleaseAll, h hr]; exact ⟨rfl, rfl⟩
      · exact ⟨rfl, rfl⟩

section
variable {s : State} {r : Reg} {row : RegRow} (hrow : regRow? r = some row) (hact : ∀ w, s.actWrite r w = none)
  (hwait : r = EXP_CFG → s.expWait = [])
include hrow hact hwait

/-- The effect of a write that starts nothing: a plain store of what the module does not set itself, then the bits it
sets. -/
theorem State.regStore_plain (v sets : Nat) : ∃ t,
    t.regs = (s.storeReg r (v - (v &&& ownBits r sets))).regs ∧ t.mem = s.mem ∧
    s.regStore r v sets = if ownBits r sets = 0 then t else t.ownSets r (ownBits r sets) := by
  have hstored := s.storeReg_eq hrow (v - (v &&& ownBits r sets))
  obtain ⟨hregs, hmem⟩ := (s.storeReg r (v - (v &&& ownBits r sets))).afterWrite_keeps r (s.rd r).toNat (by
    rw [hstored]
    simpa using hwait)
  refine ⟨_, hregs, hmem.trans (by rw [hstored, State.wr_mem]), ?_⟩
  unfold State.regStore
  simp only [hrow, hact, Option.isNone_some, Bool.false_eq_true, if_false]

theorem State.regStore_mem (v : Nat) {sets : Nat} (h : r ≠ TILE_FP_FLAGS r.inst ∨ sets = 0) :
    (s.regStore r v sets).mem = s.mem := by
  obtain ⟨t, -, hmem, heq⟩ := State.regStore_plain hrow hact hwait v sets
  rw [heq]
  split
  · exact hmem
  · next hown =>
    rcases h with h | rfl
    · rw [State.ownSets_mem _ h, hmem]
    · exact absurd (ownBits_zero hrow) hown

theorem State.fld_regStore {v : Nat} (sets : Nat) (hb : boundWrite r v = v) {f : Fld} (hf : f ∈ row.fields) :
    (s.regStore r v sets).fld r f = writtenField (s.rd r).toNat v sets f := by
  obtain ⟨t, hregs, -, heq⟩ := State.regStore_plain hrow hact hwait v sets
  have hfld : t.fld r f = storedField (s.rd r).toNat (v - (v &&& ownBits r sets)) f := by
    rw [State.fld_congr hregs, s.storeReg_eq hrow, boundWrite_clear hrow sets hb,
      State.fld_wr_fieldSum hrow s (storedField_lt _ _) hf]
  rw [heq, ← storedField_or_ownField (bitsOf_ownBits hrow sets hf)]
  split
  · next hown =>
    have hzero : ownField sets f = 0 := by rw [← bitsOf_ownBits hrow sets hf, hown]; simp [bitsOf]
    rw [hfld, hzero, Nat.or_zero]
  · rw [State.fld_ownSets _ hrow sets hf, hfld]

end

/-! ### The commands REGISTER_WRITE and RC_READ -/

/-- Every block of Table 11-1a lies in the control region. -/
theorem regAt_region {a : Nat} {r : Reg} (h : regAt a = some r) : ¬ a < controlBase ∧ ¬ controlEnd ≤ a := by
  have hall : ∀ b ∈ blockTable, controlBase ≤ b.2.2.1 ∧ b.2.2.1 + b.2.1 * blockSpan b.1 ≤ controlEnd := by
    decide +kernel
  unfold regAt at h
  split at h
  · next b hb =>
    obtain ⟨hlo, hhi⟩ := hall b (List.mem_of_find?_eq_some hb)
    have hin := List.find?_some hb
    simp only [Bool.and_eq_true, decide_eq_true_eq] at hin
    omega
  · cases h

theorem execRegisterWrite_eq {s : State} {a : BitVec 48} {r : Reg} (hon : s.on = true) (ha : a.toNat % 8 = 0)
    (hr : regAt a.toNat = some r) (hfail : s.ctrlFails a.toNat true = false) (v sets : Word) :
    execRegisterWrite a v sets s = ok s (s.regStore r v.toNat sets.toNat) := by
  obtain ⟨hlo, hhi⟩ := regAt_region hr
  unfold execRegisterWrite
  rw [State.powered_on hon]
  simp [ha, hlo, hhi, State.regWrite, hr, hfail]

/-- What a read of a mapped register leaves: its RC fields with the module's own update. -/
def State.afterRead (s : State) (r : Reg) (l : List Fld) (update : Nat) : State :=
  if l.any fun f => f.acc == .rc then s.wr r (BitVec.ofNat 64 (fieldSum (keptField (s.rd r).toNat update) l)) else s

@[simp] theorem State.afterRead_mem (s : State) (r : Reg) (l : List Fld) (update : Nat) :
    (s.afterRead r l update).mem = s.mem := by
  unfold State.afterRead
  split <;> simp

@[simp] theorem State.afterRead_out (s : State) (r : Reg) (l : List Fld) (update : Nat) :
    (s.afterRead r l update).out = s.out := by
  unfold State.afterRead
  split <;> simp

theorem State.afterRead_plain (s : State) (r : Reg) {l : List Fld} (update : Nat) (h : ∀ f ∈ l, f.acc ≠ .rc) :
    s.afterRead r l update = s := by
  rw [State.afterRead, if_neg (by simpa using h)]

theorem State.fld_afterRead (s : State) {r : Reg} {row : RegRow} (hrow : regRow? r = some row) (update : Nat) {f : Fld}
    (hf : f ∈ row.fields) : (s.afterRead r row.fields update).fld r f = keptField (s.rd r).toNat update f := by
  unfold State.afterRead
  split
  · rw [State.fld_wr_fieldSum hrow s (keptField_lt _ _) hf]
  · next hrc =>
    have hne : f.acc ≠ .rc := by
      intro he
      exact hrc (List.any_eq_true.mpr ⟨f, hf, by simp [he]⟩)
    unfold keptField
    cases hacc : f.acc
    case rc => exact absurd hacc hne
    all_goals rfl

theorem State.regRead_mapped {s : State} {a : Nat} {r : Reg} {row : RegRow} (ha : a % 8 = 0) (hr : regAt a = some r)
    (hfail : s.ctrlFails a false = false) (hrelay : s.relayBad r = none) (hdebug : isDebug r = false)
    (hrow : regRow? r = some row) (update : Nat) :
    s.regRead a update = (some (shownFields row.fields (s.view r)), s.afterRead r row.fields update) := by
  simp only [State.ctrlFails, hr, Bool.or_eq_false_iff] at hfail
  obtain ⟨⟨hcut, hpool⟩, -⟩ := hfail
  unfold State.regRead
  simp only [ha, hr, hcut, hpool, hrelay, hdebug, hrow, readFields_eq]
  rfl

theorem execRcRead_eq {s : State} {a : BitVec 48} {r : Reg} {row : RegRow} (hon : s.on = true) (ha : a.toNat % 8 = 0)
    (hr : regAt a.toNat = some r) (hfail : s.ctrlFails a.toNat false = false) (hrelay : s.relayBad r = none)
    (hdebug : isDebug r = false) (hrow : regRow? r = some row) (update : Word) :
    execRcRead a update s = ok s ((s.afterRead r row.fields update.toNat).emit
      (.read a.toNat (some (BitVec.ofNat 64 (shownFields row.fields (s.view r)))))) := by
  obtain ⟨hlo, hhi⟩ := regAt_region hr
  unfold execRcRead
  rw [State.powered_on hon]
  simp [hlo, hhi, State.regRead_mapped ha hr hfail hrelay hdebug hrow]

theorem execRegisterWrite_unmapped {s : State} {a : BitVec 48} (hon : s.on = true) (hr : regAt a.toNat = none)
    (v sets : Word) : execRegisterWrite a v sets s = .next s := by
  unfold execRegisterWrite
  rw [State.powered_on hon, ← ok_self]
  simp [State.regWrite, hr]

theorem execRcRead_unmapped {s : State} {a : BitVec 48} (hon : s.on = true) (hlo : controlBase ≤ a.toNat)
    (hhi : a.toNat < controlEnd) (hr : regAt a.toNat = none) (v : Word) :
    execRcRead a v s = .next (s.putOut (s.out ++ [.read a.toNat none])) := by
  unfold execRcRead
  rw [State.powered_on hon]
  simp [State.regRead, hr, Nat.not_lt.mpr hlo, Nat.not_le.mpr hhi]
  rfl

/-- Settles O6: each field of a mapped register is stored, and left by a read, by its own access code, because the
fields of a row lie one below the other (`regRow_laidOut`). -/
theorem registerAccess : Obligations.RegisterAccess := by
  refine ⟨?_, ?_, ?_⟩
  · intro s a v sets r row f hon ha hr hfail hrow hact hb hwait hf
    refine gives_ok (execRegisterWrite_eq hon ha hr hfail v sets) ⟨fun h b => ?_, ?_⟩
    · rw [State.commit_mem, State.regStore_mem hrow hact hwait _ (h.imp_right fun hz => by rw [hz]; rfl)]
    · rw [State.fld_congr (State.commit_regs _ _)]
      exact State.fld_regStore hrow hact hwait _ hb hf
  · intro s a update r row hon ha hr hfail hrelay hdebug hrow
    refine gives_ok (execRcRead_eq hon ha hr hfail hrelay hdebug hrow update) ⟨?_, ?_, fun f hf => ?_, fun h => ?_⟩
    · simp [State.emit]
    · simp
    · rw [State.fld_congr (by simp : _ = (s.afterRead r row.fields update.toNat).regs)]
      exact State.fld_afterRead s hrow _ hf
    · simp [State.afterRead_plain s r _ h]
  · intro s a v hon _ hlo hhi hr
    exact ⟨execRegisterWrite_unmapped hon hr v 0, execRcRead_unmapped hon hlo hhi hr v⟩

end Sys2Proof.Machine
end

section
/-! What a fabric port shows after the shared updates (O28, O30, O32): registers, channels and queues read through a commit
and through an update of one port. -/

namespace Sys2Proof.Machine

/-! ### Readers of a committed state -/

@[simp] theorem State.rd_commit (s t : State) (r : Reg) : (s.commit t).rd r = t.rd r := rfl
@[simp] theorem State.fld_commit (s t : State) (r : Reg) (f : Fld) : (s.commit t).fld r f = t.fld r f := rfl
@[simp] theorem State.bit_commit (s t : State) (r : Reg) (f : Fld) : (s.commit t).bit r f = t.bit r f := rfl
@[simp] theorem State.linkState_commit (s t : State) (p : Nat) : (s.commit t).linkState p = t.linkState p := rfl
@[simp] theorem State.port_commit (s t : State) (p : Nat) : (s.commit t).port p = t.port p := rfl
@[simp] theorem State.vc_commit (s t : State) (p v : Nat) : (s.commit t).vc p v = t.vc p v := rfl
@[simp] theorem State.q_commit (s t : State) (o v : Nat) : (s.commit t).q o v = t.q o v := rfl
@[simp] theorem State.tile_commit (s t : State) (k : Nat) : (s.commit t).tile k = t.tile k := rfl
@[simp] theorem State.mirror_commit (s t : State) (k : Nat) : (s.commit t).mirror k = t.mirror k := rfl

/-! ### An update of one port leaves registers, queues and slots -/

section
variable (s : State) (p : Nat) (f : Port → Port)

@[simp] theorem State.rd_modPort (r : Reg) : (s.modPort p f).rd r = s.rd r := rfl
@[simp] theorem State.fld_modPort (r : Reg) (g : Fld) : (s.modPort p f).fld r g = s.fld r g := rfl
@[simp] theorem State.bit_modPort (r : Reg) (g : Fld) : (s.modPort p f).bit r g = s.bit r g := rfl
@[simp] theorem State.linkState_modPort (q : Nat) : (s.modPort p f).linkState q = s.linkState q := rfl
@[simp] theorem State.live_modPort (q : Nat) : (s.modPort p f).live q = s.live q := rfl
@[simp] theorem State.granted_modPort (q : Nat) : (s.modPort p f).granted q = s.granted q := rfl
@[simp] theorem State.role_modPort (q : Nat) : (s.modPort p f).role q = s.role q := rfl
@[simp] theorem State.crossed_modPort (i : Nat) : (s.modPort p f).crossed i = s.crossed i := rfl
@[simp] theorem State.prio_modPort (o v : Nat) : (s.modPort p f).prio o v = s.prio o v := rfl
@[simp] theorem State.q_modPort (o v : Nat) : (s.modPort p f).q o v = s.q o v := rfl
@[simp] theorem State.tile_modPort (t : Nat) : (s.modPort p f).tile t = s.tile t := rfl
@[simp] theorem State.freeSlot_modPort : (s.modPort p f).freeSlot = s.freeSlot := rfl
@[simp] theorem State.slotItem_modPort (n : Nat) : (s.modPort p f).slotItem n = s.slotItem n := rfl
@[simp] theorem State.mirror_modPort (k : Nat) : (s.modPort p f).mirror k = s.mirror k := rfl
@[simp] theorem State.spoofed_modPort (q h : Nat) : (s.modPort p f).spoofed q h = s.spoofed q h := rfl
@[simp] theorem State.routeFails_modPort (e h : Nat) : (s.modPort p f).routeFails e h = s.routeFails e h := rfl
@[simp] theorem State.descUsed_modPort : (s.modPort p f).descUsed = s.descUsed := rfl
@[simp] theorem State.egressBlocked_modPort : (s.modPort p f).egressBlocked = s.egressBlocked := rfl

theorem State.port_modPort_other {q : Nat} (h : p ≠ q) : (s.modPort p f).port q = s.port q :=
  s.port_setPort_other _ h

end

/-! ### Channels of a port -/

theorem Port.vc_setVc_other (x : Port) {v w : Nat} (c : Vc) (h : v ≠ w) : (x.setVc v c).vc w = x.vc w := by
  simp [Port.vc, Port.setVc, Table.get_set, h]

/-- An update of a port that leaves its channels alone leaves every channel. -/
theorem State.vc_modPort_of_vcs (s : State) (p : Nat) (f : Port → Port) (h : (f (s.port p)).vcs = (s.port p).vcs)
    (q v : Nat) : (s.modPort p f).vc q v = s.vc q v := by
  by_cases hq : p = q
  · subst hq
    simp [State.vc, Port.vc, h]
  · rw [State.vc, State.port_modPort_other s p f hq, State.vc]

@[simp] theorem State.vc_modVc_same (s : State) (p v : Nat) (f : Vc → Vc) : (s.modVc p v f).vc p v = f (s.vc p v) := by
  simp [State.modVc, State.vc]

theorem State.vc_modVc_other (s : State) (p v : Nat) (f : Vc → Vc) {q w : Nat} (h : (p, v) ≠ (q, w)) :
    (s.modVc p v f).vc q w = s.vc q w := by
  by_cases hp : p = q
  · subst hp
    have hv : v ≠ w := fun e => h (by rw [e])
    simp [State.modVc, State.vc, Port.vc_setVc_other _ _ hv]
  · rw [State.vc, State.modVc, State.port_modPort_other _ _ _ hp, State.vc]

/-- A part of a channel that an update of channels leaves alone reads as before on every channel. -/
theorem State.vc_modVc_keep {α : Type} (g : Vc → α) (s : State) (p v : Nat) (f : Vc → Vc) (h : ∀ c, g (f c) = g c)
    (q w : Nat) : g ((s.modVc p v f).vc q w) = g (s.vc q w) := by
  by_cases hp : (p, v) = (q, w)
  · obtain ⟨rfl, rfl⟩ := Prod.mk.inj hp
    rw [State.vc_modVc_same, h]
  · rw [s.vc_modVc_other p v f hp]

/-! ### Registers under a count -/

theorem State.rd_count_same (s : State) (r : Reg) : (s.count r).rd r = s.rd r + 1 := by
  rw [State.rd_count, if_pos rfl]
  rfl

theorem State.rd_count_other (s : State) {r r' : Reg} (n : Nat) (h : r ≠ r') : (s.count r n).rd r' = s.rd r' := by
  rw [State.rd_count, if_neg h]

@[simp] theorem State.port_count (s : State) (r : Reg) (n p : Nat) : (s.count r n).port p = s.port p := rfl
@[simp] theorem State.vc_count (s : State) (r : Reg) (n p v : Nat) : (s.count r n).vc p v = s.vc p v := rfl

/-! ### Queues -/

theorem qIndex_inj {o v o' v' : Nat} (hv : v < 16) (hv' : v' < 16) (h : qIndex o v = qIndex o' v') : o = o' ∧ v = v' := by
  unfold qIndex at h
  omega

theorem State.q_setQueue (s : State) (o v : Nat) (l : List QEntry) : (s.setQueue (qIndex o v) l).q o v = l := by
  simp [State.q]

theorem State.q_setQueue_other (s : State) {o v o' v' : Nat} (l : List QEntry) (hv : v < 16) (hv' : v' < 16)
    (h : (o', v') ≠ (o, v)) : (s.setQueue (qIndex o v) l).q o' v' = s.q o' v' := by
  have hne : qIndex o v ≠ qIndex o' v' := by
    intro e
    obtain ⟨rfl, rfl⟩ := qIndex_inj hv hv' e
    exact h rfl
  simp [State.q, State.queue, State.setQueue, Table.get_set, hne]

end Sys2Proof.Machine
end

section
/-! A cell received at a fabric port (O30): the checks of Table 2-4 in their order, and the way of a message cell through
the routed lookup into its slot and its queue. -/

namespace Sys2Proof.Machine

/-! ### The cases of CELL_RECEIVE -/

/-- The link has handed the cell on: it waits no longer. -/
def State.handedOver (s : State) (p : Nat) (c : Cell) : State :=
  s.modPort p fun x => { x with handedOn := x.handedOn.erase c }

@[simp] theorem State.vc_handedOver (s : State) (p : Nat) (c : Cell) (q v : Nat) : (s.handedOver p c).vc q v = s.vc q v :=
  s.vc_modPort_of_vcs p _ rfl q v

@[simp] theorem State.rd_handedOver (s : State) (p : Nat) (c : Cell) (r : Reg) : (s.handedOver p c).rd r = s.rd r := rfl
@[simp] theorem State.slots_handedOver (s : State) (p : Nat) (c : Cell) : (s.handedOver p c).slots = s.slots := rfl
@[simp] theorem State.queues_handedOver (s : State) (p : Nat) (c : Cell) : (s.handedOver p c).queues = s.queues := rfl
@[simp] theorem State.mem_handedOver (s : State) (p : Nat) (c : Cell) : (s.handedOver p c).mem = s.mem := rfl
@[simp] theorem State.granted_handedOver (s : State) (p : Nat) (c : Cell) (q : Nat) :
    (s.handedOver p c).granted q = s.granted q := rfl

section
variable {s : State} {p : Fin 1024} {c : Cell} (hon : s.on = true) (hcar : s.carries p = true)
  (hcut : s.crossed (0x40 + p / 8) = false)
include hon hcar hcut

/-- Check 1: a header that fails HCRC. -/
theorem execCellReceive_hcrc (hbad : hcrcOk c.h = false) :
    execCellReceive p c s = ok s (((s.handedOver p c).count (PORT_HCRC_ERR p)).replayCell p) := by
  unfold execCellReceive
  rw [State.powered_on hon]
  simp [hcar, hcut, hbad, State.handedOver]

variable (hgood : hcrcOk c.h = true) (hidle : hType c.h ≠ 0)
include hgood hidle

/-- Check 2: a type, or a class of its type, that Table 2-1 does not give. -/
theorem execCellReceive_illegal (hbad : legalType c.h = false) :
    execCellReceive p c s = ok s (((s.handedOver p c).count (PORT_HDR_DROP p)).returnCredit p (hVc c.h)) := by
  unfold execCellReceive
  rw [State.powered_on hon]
  simp [hcar, hcut, hgood, hidle, hbad, State.handedOver]

/-- In HELLO every cell but a link management cell is discarded. -/
theorem execCellReceive_hello (hlm : hType c.h ≠ 13) (hst : s.linkState p = linkHello) :
    execCellReceive p c s = ok s (((s.handedOver p c).count (PORT_HDR_DROP p)).returnCredit p (hVc c.h)) := by
  cases hleg : legalType c.h
  · exact execCellReceive_illegal hon hcar hcut hgood hidle hleg
  · unfold execCellReceive
    rw [State.powered_on hon]
    simp [hcar, hcut, hgood, hidle, hleg, hlm, hst, State.handedOver]

/-- A cell that passes checks 1 to 4 goes on to the Headgate. -/
theorem execCellReceive_passed (hleg : legalType c.h = true) (hlm : hType c.h ≠ 13) (hlive : s.live p = true)
    (hspoof : s.spoofed p c.h = false) : execCellReceive p c s = ok s ((s.handedOver p c).ingress p c) := by
  have hst : s.linkState p ≠ linkHello ∧ s.linkState p ≠ linkQuarantined := by
    simp only [State.live, Bool.or_eq_true, beq_iff_eq] at hlive
    simp only [linkUp, linkDegraded, linkHello, linkQuarantined] at *
    omega
  unfold execCellReceive
  rw [State.powered_on hon]
  simp [hcar, hcut, hgood, hidle, hleg, hlm, hst, hspoof, State.handedOver]

end

/-! ### A replay asked for -/

/-- What asking port `p` for a replay of a cell does: only the port's own record of the replay and its count change; with
none asked for yet, attempt 0 starts at the codeword that holds the first bit of the cell (R27, log entry 43). -/
structure State.ReplayAsked (s t : State) (p : Nat) : Prop where
  slots : t.slots = s.slots
  queues : t.queues = s.queues
  mem : t.mem = s.mem
  rd : ∀ r, r ≠ PORT_REPLAY_REQ p → t.rd r = s.rd r
  hellos : (t.port p).hellos = (s.port p).hellos
  asked : (t.port p).asked.isSome = true
  first : (s.port p).asked = none → (t.port p).asked = some (0, (5100 * (s.port p).rxNum - (s.port p).rxBits.2 -
    640 * ((s.port p).handedOn.length + 1)) / 5100 % 2048)

theorem State.replayCell_asked {s : State} {p : Nat} (h : (s.port p).asked.isSome = true ∨ (s.port p).replayed = none) :
    s.ReplayAsked (s.replayCell p) p := by
  cases ha : (s.port p).asked with
  | some a =>
    rw [State.replayCell, if_pos (by simp [ha])]
    exact ⟨rfl, rfl, rfl, fun _ _ => rfl, rfl, by simp [ha], by simp [ha]⟩
  | none =>
    have hr : (s.port p).replayed = none := by simpa [ha] using h
    simp only [State.replayCell, ha, State.askReplay, State.port_modPort, hr, State.askAttempt]
    constructor
    case rd => intro r hne; simp [State.rd_count_other _ _ (Ne.symm hne)]
    all_goals simp

end Sys2Proof.Machine
end

section
/-! A message cell that passes its checks, placed in a slot and linked to its queue (O30). -/

namespace Sys2Proof.Machine

/-! ### Credit that comes back -/

/-- A credit that comes back is an update of one channel. -/
theorem State.creditBack_eq (s : State) (p v : Nat) : ∃ f, s.creditBack p v = s.modVc p v f := by
  unfold State.creditBack State.returnGrant State.raiseCred
  split
  · exact ⟨_, rfl⟩
  · split <;> exact ⟨_, rfl⟩

theorem State.returnCredit_eq (s : State) (p : Fin 1024) (v : Nat) : ∃ f, s.returnCredit p v = s.modVc p v f := by
  simpa [State.returnCredit, isFabric] using s.creditBack_eq p v

theorem State.vc_returnCredit_granted {s : State} {p : Fin 1024} {v : Nat} (hg : s.granted p = true)
    (hx : (s.vc p v).excess = 0) : ((s.returnCredit p v).vc p v).cred = ((s.vc p v).cred + 1) % 65536 := by
  simp [State.returnCredit, isFabric, State.creditBack, hg, hx, State.raiseCred]

@[simp] theorem State.rd_modVc (s : State) (p v : Nat) (f : Vc → Vc) (r : Reg) : (s.modVc p v f).rd r = s.rd r := rfl
@[simp] theorem State.q_modVc (s : State) (p v : Nat) (f : Vc → Vc) (o w : Nat) : (s.modVc p v f).q o w = s.q o w := rfl

/-- A cell discarded at a port is counted and its credit comes back; nothing is placed. -/
theorem State.discard_keeps (s : State) (p : Fin 1024) (v : Nat) :
    let u := (s.count (PORT_HDR_DROP p)).returnCredit p v
    u.rd (PORT_HDR_DROP p) = s.rd (PORT_HDR_DROP p) + 1 ∧ u.slots = s.slots ∧ u.queues = s.queues ∧ u.mem = s.mem := by
  obtain ⟨f, hf⟩ := (s.count (PORT_HDR_DROP p)).returnCredit_eq p v
  simp only [hf, State.rd_modVc, State.rd_count_same, State.modVc_slots, State.modVc_queues, State.modVc_mem,
    State.count_slots, State.count_queues, State.count_mem, and_self]

/-- Registers other than its own leave the reservations of a port as they are. -/
theorem State.granted_count (s : State) {r : Reg} {p : Nat} (h : r ≠ PORT_LINK_STAT p) :
    (s.count r).granted p = s.granted p := by
  simp only [State.granted, State.live, State.linkState, State.fld, s.rd_count_other 1 h]

/-- A port that carries codewords and is past HELLO holds the reservations of its link up. -/
theorem State.granted_of_carries {s : State} {p : Nat} (hc : s.carries p = true) (h : s.linkState p ≠ linkHello) :
    s.granted p = true := by
  simp only [State.carries, State.granted, State.live, Bool.or_eq_true, beq_iff_eq] at hc ⊢
  tauto

/-! ### Mirrors and the sampler when there is nothing for them -/

theorem Mirror.init_wants (point port h : Nat) : Mirror.init.wants point port h = false := rfl

theorem State.mirrorCell_none {s : State} (h : s.mirrors = []) (point port inPort outPort flags : Nat) (c : Cell) :
    s.mirrorCell point port inPort outPort flags c = s := by
  have hw : ∀ k, (s.mirror k).wants point port c.h = false := by
    intro k
    rw [show s.mirror k = Mirror.init by rw [State.mirror, h]; rfl, Mirror.init_wants]
  unfold State.mirrorCell
  generalize List.range 16 = l
  induction l with
  | nil => rfl
  | cons k l ih => rw [List.foldl_cons, hw k, if_neg Bool.false_ne_true, ih]

theorem State.sampleCell_off {s : State} (h : s.bit RSV_SAMPLE_CFG RSV_SAMPLE_CFG_SAMPLE_EN = false) (port dir : Nat)
    (c : Cell) : s.sampleCell port dir c = s := by
  simp [State.sampleCell, h]

/-! ### Linking at the tail -/

/-- An entry goes to the tail where no higher-numbered input linked in the same core cycle (R12). -/
theorem linkInto_tail {e : QEntry} {l : List QEntry} (h : ∀ x ∈ l, x.linked.1 ≠ e.linked.1 ∨ x.linked.2 ≤ e.linked.2) :
    linkInto e l = l ++ [e] := by
  induction l with
  | nil => rfl
  | cons x l ih =>
    have hx := h x List.mem_cons_self
    rw [linkInto, if_neg (by simp; omega), ih fun y hy => h y (List.mem_cons_of_mem _ hy), List.cons_append]

/-- The tag of a queue is kept with its port. -/
theorem State.tagOnLink_eq (s : State) (o v : Nat) : s.tagOnLink o v = s ∨ ∃ f, s.tagOnLink o v = s.modPort o f := by
  unfold State.tagOnLink
  split
  · exact .inl rfl
  · exact .inr ⟨_, rfl⟩

/-- What linking a copy leaves: slots, memory and every queue but the copy's, at whose tail it stands. -/
structure State.Linked (s t : State) (o v : Nat) (e : QEntry) : Prop where
  slots : t.slots = s.slots
  mem : t.mem = s.mem
  tail : t.q o v = s.q o v ++ [e]
  others : ∀ o' w, (o', w) ≠ (o, v) → w < 16 → t.q o' w = s.q o' w

theorem State.linkCopy_tail {s : State} {input slot : Nat} {desc : Bool} {k : Copy} (ho : isFabric k.out = true)
    (hv : k.vc < 16) (h : ∀ x ∈ s.q k.out k.vc, x.linked.1 ≠ s.cycle ∨ x.linked.2 ≤ input) :
    s.Linked (s.linkCopy input slot desc k) k.out k.vc ⟨slot, k.hdr, desc, s.cycle, k.last, (s.cycle, input)⟩ := by
  unfold State.linkCopy
  dsimp only
  generalize ht : (if (s.q k.out k.vc).isEmpty then s.tagOnLink k.out k.vc else s) = t
  have hframe : t.slots = s.slots ∧ t.mem = s.mem ∧ t.cycle = s.cycle ∧ ∀ o w, t.q o w = s.q o w := by
    subst ht
    split
    · rcases s.tagOnLink_eq k.out k.vc with he | ⟨f, he⟩ <;> rw [he] <;> simp
    · simp
  obtain ⟨hslots, hmem, hcycle, hq⟩ := hframe
  simp only [ho, Bool.not_true, Bool.false_and, Bool.false_eq_true, if_false, hcycle]
  rw [linkInto_tail h]
  exact ⟨by simpa using hslots, by simpa using hmem, t.q_setQueue _ _ _, fun o w hne hw => by
    rw [t.q_setQueue_other _ hv hw hne, hq]⟩

/-! ### A cell of one copy placed -/

theorem State.enter_free {s : State} (hh : s.heldCells = []) (hd : s.descUsed ≤ Config.descriptors) (input v : Nat)
    (i : Item) (ctx : Nat) (k : Copy) : s.enter input v i ctx [k] = s.place input v i ctx [k] := by
  simp [State.enter, State.mustHold, hh, State.descShort, hd]

/-- A cell of one copy from a fabric port takes the lowest free slot and stands at the tail of its queue. -/
theorem State.place_one {s : State} {p v ctx : Nat} {i : Item} {k : Copy} (hp : isFabric p = true)
    (ho : isFabric k.out = true) (hv : k.vc < 16)
    (h : ∀ x ∈ s.q k.out k.vc, x.linked.1 ≠ s.cycle ∨ x.linked.2 ≤ p) :
    let u := s.place p v i ctx [k]
    u.mem = s.mem ∧ u.q k.out k.vc = s.q k.out k.vc ++ [⟨s.freeSlot, k.hdr, false, s.cycle, k.last, (s.cycle, p)⟩] ∧
      (∀ o w, (o, w) ≠ (k.out, k.vc) → w < 16 → u.q o w = s.q o w) ∧
      ∃ ch, Table.look u.slots s.freeSlot = some ⟨i, p, v, ch, 1, ctx⟩ := by
  unfold State.place
  simp only [hp, Bool.true_and, Bool.not_true, Bool.false_eq_true, if_false, List.zipIdx_cons, List.zipIdx_nil,
    List.foldl_cons, List.foldl_nil, lt_irrefl, decide_false, List.length_singleton]
  generalize (if dispatched p i then Charge.shared else if s.mayShare p [k] then .shared else .reserved) = ch
  generalize hs : s.putSlots (Table.put natRank s.slots s.freeSlot ⟨i, p, v, ch, 1, ctx⟩) = a
  have ha : a.mem = s.mem ∧ a.cycle = s.cycle ∧ (∀ o w, a.q o w = s.q o w) ∧
      Table.look a.slots s.freeSlot = some ⟨i, p, v, ch, 1, ctx⟩ := by
    subst hs
    exact ⟨by simp, by simp, fun _ _ => rfl, by simp⟩
  obtain ⟨hmem, hcycle, hq, hlook⟩ := ha
  have hl := State.linkCopy_tail (s := a) (slot := s.freeSlot) (desc := false) ho hv (by rwa [hq, hcycle])
  generalize a.linkCopy p s.freeSlot false k = b at hl
  have hfin : ∀ u : State, u.mem = b.mem → u.queues = b.queues → u.slots = b.slots →
      u.mem = s.mem ∧ u.q k.out k.vc = s.q k.out k.vc ++ [⟨s.freeSlot, k.hdr, false, s.cycle, k.last, (s.cycle, p)⟩] ∧
      (∀ o w, (o, w) ≠ (k.out, k.vc) → w < 16 → u.q o w = s.q o w) ∧
      ∃ ch, Table.look u.slots s.freeSlot = some ⟨i, p, v, ch, 1, ctx⟩ := by
    intro u h1 h2 h3
    have hqu : ∀ o w, u.q o w = b.q o w := fun o w => by rw [State.q, State.queue, h2]; rfl
    refine ⟨by rw [h1, hl.mem, hmem], by rw [hqu, hl.tail, hq, hcycle], fun o w hne hw => ?_, ch, ?_⟩
    · rw [hqu, hl.others o w hne hw, hq]
    · rw [h3, hl.slots, hlook]
  split
  · obtain ⟨f, hf⟩ := b.creditBack_eq p v
    exact hfin _ (by rw [hf, State.modVc_mem]) (by rw [hf, State.modVc_queues]) (by rw [hf, State.modVc_slots])
  · exact hfin _ (by simp) (by simp) (by simp)

/-! ### The way of a message cell -/

theorem State.police_pass {s : State} {h : Nat} (hc : hTc h < 5) (p : Nat) : s.police p h = (true, s) := by
  have hlow : ¬ 5 ≤ hTc h := by omega
  simp [State.police, State.policed, hlow]

/-- The header that the copy of a routed cell leaves with, but for its HCRC: HP raised, PH set on a detour between two GLOBAL
ports (R34). -/
def routedOn (h : Nat) (glob : Bool) : Nat := withPh (putBits h 78 2 ((hHp h + 1) % 4)) glob

theorem hVc_routedOn (h : Nat) (glob : Bool) : hVc (routedOn h glob) = 2 * hTc h + if glob then 1 else hPh h := by
  have htc : hTc (putBits h 78 2 ((hHp h + 1) % 4)) = hTc h := bitsOf_putBits_above _ _ _ _ _ _ (by decide)
  have hph : hPh (putBits h 78 2 ((hHp h + 1) % 4)) = hPh h := bitsOf_putBits_above _ _ _ _ _ _ (by decide)
  cases glob
  · simp [routedOn, withPh, hVc, htc, hph]
  · have htc' : ∀ x, hTc (putBits x 120 1 1) = hTc x := fun x => bitsOf_putBits_above _ _ _ _ _ _ (by decide)
    have hph' : ∀ x, hPh (putBits x 120 1 1) = 1 := fun x => bitsOf_putBits_same x 120 1 1
    simp [routedOn, withPh, hVc, htc', hph', htc]

theorem hVc_lt (h : Nat) : hVc h < 16 := by
  have := bitsOf_lt h 121 3
  have := bitsOf_lt h 120 1
  simp only [hVc, hTc, hPh]
  omega

theorem hPath_lt (h n : Nat) : hPath h n < 1024 := bitsOf_lt h _ 10

/-- A message cell is never terminated at a lookup: it is routed on (R34). -/
theorem State.lookup_message {s : State} {p : Nat} {c : Cell} (hp : isFabric p = true) (ht : hType c.h = 1)
    (hr : s.routeFails (hPath c.h (hHp c.h)) c.h = none) :
    s.lookup p c = ([copyTo (hPath c.h (hHp c.h))
      (routedOn c.h (s.role p == 2 && s.role (hPath c.h (hHp c.h)) == 2))], s) := by
  simp [State.lookup, ht, formOf, State.routed, State.routeOn, hr, hp, routedOn]

/-- The copy of a message cell with header `h` from port `p`, with the role that its output has at the arrival. -/
def State.messageCopy (s : State) (p h : Nat) : Copy :=
  let e := hPath h (hHp h)
  let h' := routedOn h (s.role p == 2 && s.role e == 2)
  ⟨e, hVc h', sealHdr h', s.role e == 1⟩

theorem State.descUsed_countCell (s : State) (a b : Nat) : (s.countCell a b).descUsed = s.descUsed := rfl

/-- Admission of a message cell that passed check 4, with nothing to mirror, to sample or to hold (R33, R34). -/
theorem State.ingress_message {s : State} {p : Fin 1024} {c : Cell} (ht : hType c.h = 1) (hc : hTc c.h < 5)
    (hm : s.mirrors = []) (hsmp : s.bit RSV_SAMPLE_CFG RSV_SAMPLE_CFG_SAMPLE_EN = false)
    (hr : s.routeFails (hPath c.h (hHp c.h)) c.h = none) (hh : s.heldCells = []) (hd : s.descUsed ≤ Config.descriptors) :
    s.ingress p c = (s.countCell (hCtx c.h) (hGen c.h)).place p (hVc c.h) (.cell c) (hCtx c.h)
      [s.messageCopy p c.h] := by
  have hp : isFabric p.val = true := by simp [isFabric]
  have hh' : (s.countCell (hCtx c.h) (hGen c.h)).heldCells = [] := hh
  have hd' := (s.descUsed_countCell (hCtx c.h) (hGen c.h)).trans_le hd
  have hstamp : (s.countCell (hCtx c.h) (hGen c.h)).stamp [copyTo (hPath c.h (hHp c.h))
      (routedOn c.h (s.role p == 2 && s.role (hPath c.h (hHp c.h)) == 2))] = [s.messageCopy p c.h] := by
    have he : isFabric (hPath c.h (hHp c.h)) = true := by simpa [isFabric] using hPath_lt c.h (hHp c.h)
    simp only [State.stamp, copyTo, List.map_cons, List.map_nil, he, Bool.true_and]
    rfl
  have htake : s.take p (hVc c.h) c [copyTo (hPath c.h (hHp c.h))
      (routedOn c.h (s.role p == 2 && s.role (hPath c.h (hHp c.h)) == 2))] =
        (s.countCell (hCtx c.h) (hGen c.h)).place p (hVc c.h) (.cell c) (hCtx c.h) [s.messageCopy p c.h] := by
    rw [← State.enter_free hh' hd', ← hstamp]
    rfl
  unfold State.ingress
  simp [State.police_pass hc, State.mirrorCell_none hm, State.sampleCell_off hsmp, ht, State.lookup_message hp ht hr, htake]

/-- Settles O30: the cases of CELL_RECEIVE, and the one copy of a message cell placed at the tail of its queue. -/
theorem cellReceive : Obligations.CellReceive := by
  intro s p c hon hcar hcut
  dsimp only
  refine ⟨fun hbad hask => ?_, fun hgood hidle hbad hst hx => ?_, fun hgood hidle hlm hst => ?_, ?_⟩
  · refine gives_ok (execCellReceive_hcrc hon hcar hcut hbad) ?_
    have hport : ((s.handedOver p c).count (PORT_HCRC_ERR p)).port p =
        { s.port p with handedOn := (s.port p).handedOn.erase c } := by simp [State.handedOver]
    obtain ⟨hslots, hqueues, hmem, hrd, -, -, hfirst⟩ :=
      State.replayCell_asked (s := (s.handedOver p c).count (PORT_HCRC_ERR p)) (p := p) (by rwa [hport])
    rw [hport] at hfirst
    simp only [State.count_slots, State.count_queues, State.count_mem, State.slots_handedOver, State.queues_handedOver,
      State.mem_handedOver] at hslots hqueues hmem
    refine ⟨?_, hslots, hqueues, hmem, hfirst⟩
    rw [State.rd_commit, hrd _ (by simp [PORT_HCRC_ERR, PORT_REPLAY_REQ]), State.rd_count_same, State.rd_handedOver]
  · refine gives_ok (execCellReceive_illegal hon hcar hcut hgood hidle hbad) ?_
    obtain ⟨hrd, hslots, hqueues, hmem⟩ := (s.handedOver p c).discard_keeps p (hVc c.h)
    refine ⟨hrd, ?_, hslots, hqueues, hmem⟩
    rw [State.vc_commit, State.vc_returnCredit_granted _ (by simpa using hx)]
    · simp
    · rw [State.granted_count _ (by simp [PORT_HDR_DROP, PORT_LINK_STAT]), State.granted_handedOver,
        State.granted_of_carries hcar hst]
  · refine gives_ok (execCellReceive_hello hon hcar hcut hgood hidle hlm hst) ?_
    exact (s.handedOver p c).discard_keeps p (hVc c.h)
  · intro hgood ht hleg hlive hspoof hc hm hsmp hr hh hd hlinked
    refine gives_ok (execCellReceive_passed hon hcar hcut hgood (by omega) hleg (by omega) hlive hspoof) ?_
    have hpath : isFabric (hPath c.h (hHp c.h)) = true := by simpa [isFabric] using hPath_lt c.h (hHp c.h)
    obtain ⟨hmem, htail, hothers, hslot⟩ := State.place_one
      (s := (s.handedOver p c).countCell (hCtx c.h) (hGen c.h)) (p := p) (v := hVc c.h) (ctx := hCtx c.h) (i := .cell c)
      (k := s.messageCopy p c.h) (by simp [isFabric]) hpath (hVc_lt _) (hlinked _ _)
    have hingress := State.ingress_message (s := s.handedOver p c) (p := p) ht hc hm hsmp hr hh (by
      rw [State.handedOver, State.descUsed_modPort]; exact hd)
    rw [hingress]
    refine ⟨?_, hslot, ?_, hmem⟩
    · rw [State.q_commit, ← hVc_routedOn]
      exact htail
    · intro o w hne hw
      exact hothers o w (by rwa [← hVc_routedOn] at hne) hw

end Sys2Proof.Machine
end

section
/-! Posts and class N events (O28, O32, O46): what an event record leaves beyond what every event leaves. -/

namespace Sys2Proof.Machine

/-- What posting an event record leaves: memory, every register but the count of records lost and the crossing to the host
MAC, and of that crossing whether it is cut. -/
structure State.PostOnly (s t : State) : Prop where
  rd : ∀ r, r ≠ HP_EVT_LOST → r ≠ CDC_STATE 4 → t.rd r = s.rd r
  crossed : ∀ i, t.crossed i = s.crossed i
  mem : t.mem = s.mem

theorem State.PostOnly.refl (s : State) : s.PostOnly s := ⟨fun _ _ _ => rfl, fun _ => rfl, rfl⟩

theorem State.PostOnly.trans {a b c : State} (h : a.PostOnly b) (k : b.PostOnly c) : a.PostOnly c :=
  ⟨fun r h1 h2 => (k.rd r h1 h2).trans (h.rd r h1 h2), fun i => (k.crossed i).trans (h.crossed i), k.mem.trans h.mem⟩

theorem cdcState_inj {i j : Nat} : CDC_STATE i = CDC_STATE j ↔ i = j := by simp [CDC_STATE]

theorem State.crossed_lost (s : State) (j i : Nat) : (s.lost j).crossed i = s.crossed i := by
  simp only [State.crossed, State.lost]
  rw [State.fld_setFld_other _ _ _ _ _ _ (by decide) (.inr (by decide))]

theorem State.lost_postOnly (s : State) : s.PostOnly (s.lost 4) where
  rd _ _ h := s.rd_setFld_other _ _ (Ne.symm h)
  crossed := s.crossed_lost 4
  mem := s.setFld_mem _ _ _

theorem State.frame_postOnly (s : State) (o : Out) : s.PostOnly (s.frame o) := by
  unfold State.frame
  split
  · exact .refl s
  · split
    · exact s.lost_postOnly
    · exact ⟨fun _ _ _ => rfl, fun _ => rfl, rfl⟩

theorem State.putSession_postOnly (s : State) (k : Nat) (x : Session) : s.PostOnly (s.putSession k x) :=
  ⟨fun _ _ _ => rfl, fun _ => rfl, rfl⟩

theorem State.sendZct_postOnly (s : State) (k type reqId status : Nat) (body : List Byte) :
    s.PostOnly (s.sendZct k type reqId status body) := by
  unfold State.sendZct
  split
  · exact .refl s
  · split
    · exact (s.putSession_postOnly _ _).trans (State.frame_postOnly _ _)
    · exact .refl s

theorem State.queueEvent_postOnly (s : State) (k : Nat) (x : Session) (e : Post) : s.PostOnly (s.queueEvent k x e) := by
  unfold State.queueEvent
  split
  · exact (s.putSession_postOnly _ _).trans (State.sendZct_postOnly _ _ _ _ _ _)
  · refine (s.putSession_postOnly _ _).trans ⟨fun r h _ => State.rd_count_other _ _ (Ne.symm h), fun i => ?_, by simp⟩
    simp only [State.crossed, State.fld, State.rd_count_other _ 1 (show HP_EVT_LOST ≠ CDC_STATE i by simp [HP_EVT_LOST, CDC_STATE])]

theorem State.post_postOnly (s : State) (e : Post) : s.PostOnly (s.post e) := by
  unfold State.post
  generalize h : (fun (a : State) (x : Nat × Session) => _) = f
  have hf : ∀ (a : State) x, a.PostOnly (f a x) := by
    subst h
    intro a x
    dsimp only
    split
    · exact a.queueEvent_postOnly _ _ _
    · exact .refl a
  clear h
  generalize s.sessions = l
  induction l generalizing s with
  | nil => exact .refl s
  | cons x l ih => exact (hf s x).trans (ih _)

/-- A class N event is counted once and posted: it latches nothing and starts no reset. -/
theorem State.notice_zero (s : State) (cause src detail qual : Nat) (ctx : Option Nat) :
    ∃ e P, e.cls = 0 ∧ e.src = src ∧ s.notice 0 cause src detail qual ctx = (s.countEvent e).post P := by
  let e : Ev := { cls := 0, src := src, code := evCode cause qual, detail := detail, ctx := ctx }
  have hagain : s.repeatOf e = none := by simp [State.repeatOf, e]
  have hlatch : s.latches e = false := by simp [State.latches, e]
  have hstart : s.raiseStart e false false = s.countEvent e := by
    simp [State.raiseStart, State.latch, State.latches, State.also, e]
  have hop : ∀ t : State, t.raiseOp e none = none := by simp [State.raiseOp, State.classReset, e]
  refine ⟨e, (s.countEvent e).raisePost e false false none, rfl, rfl, ?_⟩
  have hwith : s.raiseWith e none = (s.countEvent e).post ((s.countEvent e).raisePost e false false none) := by
    simp [State.raiseWith, hlatch, show e.cls = 0 from rfl, show e.hang = false from rfl, hstart, hop, State.also]
  change s.raise e = _
  simp [State.raise, hagain, show e.cls = 0 from rfl, show e.noReset = false from rfl, State.also, ← hwith]
  rfl

/-- Of the registers, counting an event changes the module's count of events alone. -/
theorem State.rd_countEvent (s : State) (e : Ev) (r : Reg) : (s.countEvent e).rd r = (s.count SPW_EVENTS).rd r := by
  unfold State.countEvent
  dsimp only
  cases counted e.src <;> rfl

theorem State.crossed_notice_zero (s : State) (cause src detail qual : Nat) (ctx : Option Nat) (i : Nat) :
    (s.notice 0 cause src detail qual ctx).crossed i = s.crossed i := by
  obtain ⟨e, P, -, -, h⟩ := s.notice_zero cause src detail qual ctx
  rw [h, (State.post_postOnly _ P).crossed]
  simp only [State.crossed, State.fld, s.rd_countEvent e,
    s.rd_count_other 1 (show SPW_EVENTS ≠ CDC_STATE i by simp [CDC_STATE, SPW_EVENTS])]

/-- A class N event is counted once. -/
theorem State.events_notice_zero (s : State) (cause src detail qual : Nat) (ctx : Option Nat) :
    (s.notice 0 cause src detail qual ctx).rd SPW_EVENTS = s.rd SPW_EVENTS + 1 := by
  obtain ⟨e, P, -, -, h⟩ := s.notice_zero cause src detail qual ctx
  rw [h, (State.post_postOnly _ P).rd _ (by simp [SPW_EVENTS, HP_EVT_LOST]) (by simp [SPW_EVENTS, CDC_STATE]),
    State.rd_countEvent, State.rd_count_same]

end Sys2Proof.Machine
end

section
/-! Selection at the outputs (O32): the tags before a selection, the channel selected, and what leaves. -/

namespace Sys2Proof.Machine

/-! ### Tags before a selection -/

/-- What updating the tags leaves (R94): all but the ports, the ports' mirror queues, and of every channel what its
eligibility rests on. -/
structure State.Woken (s t : State) : Prop where
  eq : ∃ l, t = s.putPorts l
  mirrorQ : ∀ q, (t.port q).mirrorQ = (s.port q).mirrorQ
  sent : ∀ q v, (t.vc q v).sent = (s.vc q v).sent
  peerCred : ∀ q v, (t.vc q v).peerCred = (s.vc q v).peerCred
  filed : ∀ q v, (t.vc q v).filed = (s.vc q v).filed

theorem State.Woken.refl (s : State) : s.Woken s := ⟨⟨s.ports, rfl⟩, fun _ => rfl, fun _ _ => rfl, fun _ _ => rfl, fun _ _ => rfl⟩

theorem State.Woken.trans {a b c : State} (h : a.Woken b) (k : b.Woken c) : a.Woken c where
  eq := by
    obtain ⟨l, rfl⟩ := h.eq
    obtain ⟨m, rfl⟩ := k.eq
    exact ⟨m, rfl⟩
  mirrorQ q := (k.mirrorQ q).trans (h.mirrorQ q)
  sent q v := (k.sent q v).trans (h.sent q v)
  peerCred q v := (k.peerCred q v).trans (h.peerCred q v)
  filed q v := (k.filed q v).trans (h.filed q v)

theorem State.woken_modVc (s : State) (o v : Nat) (f : Vc → Vc) (hs : ∀ c, (f c).sent = c.sent)
    (hp : ∀ c, (f c).peerCred = c.peerCred) (hf : ∀ c, (f c).filed = c.filed) : s.Woken (s.modVc o v f) where
  eq := ⟨_, rfl⟩
  mirrorQ q := by
    by_cases h : o = q
    · subst h
      simp [State.modVc, Port.setVc]
    · rw [State.modVc, State.port_modPort_other s o _ h]
  sent := s.vc_modVc_keep Vc.sent o v f hs
  peerCred := s.vc_modVc_keep Vc.peerCred o v f hp
  filed := s.vc_modVc_keep Vc.filed o v f hf

theorem State.wakeTags_woken (s : State) (o : Nat) : s.Woken (s.wakeTags o) := by
  unfold State.wakeTags
  generalize List.range 16 = l
  induction l generalizing s with
  | nil => exact .refl s
  | cons v l ih =>
    rw [List.foldl_cons]
    refine State.Woken.trans ?_ (ih _)
    split
    · exact .refl s
    · exact s.woken_modVc o v _ (fun _ => rfl) (fun _ => rfl) fun _ => rfl

theorem State.Woken.eligible {s t : State} (h : s.Woken t) (o v : Nat) : t.eligible o v = s.eligible o v := by
  have hc := h.peerCred o v
  have hs := h.sent o v
  have hf := h.filed o v
  obtain ⟨l, rfl⟩ := h.eq
  have hcred : ((s.putPorts l).vc o v).hasCredit = (s.vc o v).hasCredit := by simp only [Vc.hasCredit, hc, hs]
  have hshape : (s.putPorts l).shapeOpen o v = s.shapeOpen o v := by
    rw [State.shapeOpen, State.shapeOpen, hf]
    rfl
  rw [State.eligible, State.eligible, hcred, hshape]
  rfl

theorem State.Woken.prio {s t : State} (h : s.Woken t) (o v : Nat) : t.prio o v = s.prio o v := by
  obtain ⟨l, rfl⟩ := h.eq
  rfl

theorem State.Woken.q {s t : State} (h : s.Woken t) (o v : Nat) : t.q o v = s.q o v := by
  obtain ⟨l, rfl⟩ := h.eq
  rfl

/-! ### The channel selected (R93) -/

theorem State.choose_strict {s : State} {o v : Nat} (hv : v < 16) (hp : s.prio o v = true) (he : s.eligible o v = true)
    (hlow : ∀ w < v, s.prio o w = true → s.eligible o w = false) : s.choose o = some v := by
  have hl : lowest 16 (fun v => s.prio o v && s.eligible o v) = some v := by
    refine List.find?_range_eq_some.mpr ⟨by simp [hp, he], List.mem_range.mpr hv, fun w hw => ?_⟩
    cases hpw : s.prio o w
    · rfl
    · simp [hlow w hw hpw]
  rw [State.choose, hl]

theorem State.eligible_empty {s : State} {o v : Nat} (h : s.q o v = []) : s.eligible o v = false := by
  simp [State.eligible, h]

theorem State.choose_empty {s : State} {o : Nat} (h : ∀ v < 16, s.q o v = []) : s.choose o = none := by
  have he : ∀ v < 16, s.eligible o v = false := fun v hv => State.eligible_empty (h v hv)
  have hl : lowest 16 (fun v => s.prio o v && s.eligible o v) = none := by
    simpa [lowest] using fun v hv _ => he v hv
  have hf : (List.range 16).filter (fun v => s.eligible o v) = [] := by simpa using he
  rw [State.choose, hl, hf]
  rfl

/-- Waking the tags does not change the selection of a strict-priority channel. -/
theorem State.choose_wakeTags {s : State} {o v : Nat} (hv : v < 16) (hp : s.prio o v = true) (he : s.eligible o v = true)
    (hlow : ∀ w < v, s.prio o w = true → s.eligible o w = false) : (s.wakeTags o).choose o = some v := by
  have h := s.wakeTags_woken o
  refine State.choose_strict hv (by rw [h.prio, hp]) (by rw [h.eligible, he]) fun w hw hpw => ?_
  rw [h.eligible]
  exact hlow w hw (by rwa [h.prio] at hpw)

theorem State.choose_wakeTags_empty {s : State} {o : Nat} (hq : ∀ v < 16, s.q o v = []) :
    (s.wakeTags o).choose o = none :=
  State.choose_empty fun v hv => by rw [(s.wakeTags_woken o).q, hq v hv]

/-! ### The head leaves its queue and its slot -/

theorem State.sendTags_prio {s : State} {o v : Nat} (h : s.prio o v = true) : s.sendTags o v = s := by
  simp [State.sendTags, h]

theorem State.popQueue_slots (s : State) (o v : Nat) : (s.popQueue o v).slots = s.slots := by
  unfold State.popQueue
  split <;> simp

theorem State.q_popQueue {s : State} {o v : Nat} {e : QEntry} {r : List QEntry} (h : s.q o v = e :: r) :
    ((s.popQueue o v).q o v).map QEntry.slot = r.map QEntry.slot := by
  unfold State.popQueue
  rw [h]
  cases r <;> simp [State.q_setQueue]

/-- Unlinking a head is an update of the queues. -/
theorem State.popQueue_eq (s : State) (o v : Nat) : ∃ l, s.popQueue o v = s.putQueues l := by
  unfold State.popQueue
  split
  · exact ⟨s.queues, rfl⟩
  · exact ⟨_, rfl⟩
  · exact ⟨_, rfl⟩

/-- A copy read is an update of the slots. -/
theorem State.copyDone_eq (s : State) (n : Nat) : ∃ l, s.copyDone n = s.putSlots l := by
  unfold State.copyDone
  split
  · exact ⟨_, rfl⟩
  · exact ⟨s.slots, rfl⟩

theorem State.look_copyDone {s : State} {n : Nat} {x : Slot} (h : Table.look s.slots n = some x) :
    Table.look (s.copyDone n).slots n = some { x with copies := x.copies - 1 } := by
  simp [State.copyDone, h]

end Sys2Proof.Machine
end

section
/-! The three kinds of output (O32): fabric ports, the outputs of the tiles, the host's output. -/

namespace Sys2Proof.Machine

/-! ### What a fabric port's transmit side keeps -/

/-- What marking, echoing, sampling and shaping leave of a fabric port's transmit side: slots, queues, mirrors, the crossings,
the priorities and the counts of cells sent. -/
structure State.SameEgress (s t : State) : Prop where
  slots : t.slots = s.slots
  queues : t.queues = s.queues
  mirrors : t.mirrors = s.mirrors
  crossed : ∀ i, t.crossed i = s.crossed i
  prio : ∀ o v, t.prio o v = s.prio o v
  sent : ∀ q v, (t.vc q v).sent = (s.vc q v).sent

theorem State.SameEgress.refl (s : State) : s.SameEgress s :=
  ⟨rfl, rfl, rfl, fun _ => rfl, fun _ _ => rfl, fun _ _ => rfl⟩

theorem State.SameEgress.trans {a b c : State} (h : a.SameEgress b) (k : b.SameEgress c) : a.SameEgress c where
  slots := k.slots.trans h.slots
  queues := k.queues.trans h.queues
  mirrors := k.mirrors.trans h.mirrors
  crossed i := (k.crossed i).trans (h.crossed i)
  prio o v := (k.prio o v).trans (h.prio o v)
  sent q v := (k.sent q v).trans (h.sent q v)

theorem State.SameEgress.q {s t : State} (h : s.SameEgress t) (o v : Nat) : t.q o v = s.q o v := by
  rw [State.q, State.queue, h.queues]
  rfl

theorem State.count_sameEgress (s : State) {r : Reg} (hv : ∀ q v, r ≠ PORT_VC_SCHED q v) (hc : ∀ i, r ≠ CDC_STATE i) :
    s.SameEgress (s.count r) where
  slots := by simp
  queues := by simp
  mirrors := by simp
  crossed i := by simp only [State.crossed, State.fld, s.rd_count_other 1 (hc i)]
  prio o v := by simp only [State.prio, State.bit, State.fld, s.rd_count_other 1 (hv o v)]
  sent _ _ := rfl

theorem State.notice_sameEgress (s : State) (cause src detail qual : Nat) (ctx : Option Nat) :
    s.SameEgress (s.notice 0 cause src detail qual ctx) := by
  have h := s.notice_only 0 cause src detail qual ctx
  refine ⟨h.slots, h.queues, h.mirrors, s.crossed_notice_zero _ _ _ _ _, fun o v => ?_, fun q v => ?_⟩
  · simp only [State.prio, State.bit, State.fld, h.rd (PORT_VC_SCHED o v) (by simp [Reg.quiet, PORT_VC_SCHED])]
  · rw [State.vc, State.port, h.ports]
    rfl

theorem State.originate_sameEgress (s : State) (ep type tc ctx gen tag seq len : Nat) (pay : Payload) (input : Nat) :
    s.SameEgress (s.originate ep type tc ctx gen tag seq len pay input) := by
  have hinject : ∀ i v x, s.SameEgress (s.inject i v x) := fun _ _ _ =>
    ⟨rfl, rfl, rfl, fun _ => rfl, fun _ _ => rfl, fun _ _ => rfl⟩
  have hcount : s.SameEgress (s.count ROUTE_NO_RETURN) :=
    s.count_sameEgress (by simp [ROUTE_NO_RETURN, PORT_VC_SCHED]) (by simp [ROUTE_NO_RETURN, CDC_STATE])
  have hnotice : ∀ (t : State) l c m x, t.SameEgress ((t.putNoReturn l).notice 0 c m x) := fun t l c m x =>
    .trans (b := t.putNoReturn l) ⟨rfl, rfl, rfl, fun _ => rfl, fun _ _ => rfl, fun _ _ => rfl⟩
      (State.notice_sameEgress _ _ _ _ _ _)
  unfold State.originate
  dsimp only
  split
  · exact hinject _ _ _
  · split
    · split
      · exact hcount
      · exact hcount.trans (hnotice _ _ _ _ _)
    · exact hcount.trans (hnotice _ _ _ _ _)

theorem State.echo_sameEgress (s : State) (h port ep : Nat) (pay : Payload) : s.SameEgress (s.echo h port ep pay) := by
  unfold State.echo
  dsimp only
  split
  · exact ⟨rfl, rfl, rfl, fun _ => rfl, fun _ _ => rfl, fun _ _ => rfl⟩
  · refine .trans (b := s.putEchoGaps (echoTimer (hSrc h, hTc h) :: s.echoGaps))
      ⟨rfl, rfl, rfl, fun _ => rfl, fun _ _ => rfl, fun _ _ => rfl⟩ ?_
    exact State.originate_sameEgress ..

theorem State.markCe_sameEgress (s : State) (p h d : Nat) : s.SameEgress (s.markCe p h d).2 := by
  unfold State.markCe
  split
  · refine s.count_sameEgress ?_ ?_
    · simp [PORT_CE_MARKED, PORT_VC_SCHED]
      omega
    · simp [PORT_CE_MARKED, CDC_STATE]
  · exact .refl s

theorem State.lastHop_sameEgress (s : State) (p h : Nat) (pay : Payload) (last : Bool) :
    s.SameEgress (s.lastHop p h pay last).2 := by
  unfold State.lastHop
  split
  · exact s.echo_sameEgress ..
  · exact .refl s

theorem State.modVc_sameEgress (s : State) (p v : Nat) (f : Vc → Vc) (h : ∀ c, (f c).sent = c.sent) :
    s.SameEgress (s.modVc p v f) :=
  ⟨rfl, rfl, rfl, fun _ => rfl, fun _ _ => rfl, s.vc_modVc_keep Vc.sent p v f h⟩

theorem State.shapeSend_sameEgress (s : State) (p v : Nat) : s.SameEgress (s.shapeSend p v) := by
  unfold State.shapeSend
  dsimp only
  split
  · exact s.modVc_sameEgress p v _ fun _ => rfl
  · exact .refl s

/-- An update of a port that leaves its channels. -/
theorem State.setPort_sameEgress (s : State) (p : Nat) (x : Port) (h : x.vcs = (s.port p).vcs) :
    s.SameEgress (s.setPort p x) :=
  ⟨rfl, rfl, rfl, fun _ => rfl, fun _ _ => rfl, fun q v =>
    congrArg Vc.sent (s.vc_modPort_of_vcs p (fun _ => x) h q v)⟩

theorem State.sampleCell_sameEgress (s : State) (p d : Nat) (c : Cell) : s.SameEgress (s.sampleCell p d c) := by
  unfold State.sampleCell
  extract_lets dir raw n x k x' t
  split
  · have hport : s.SameEgress t := s.setPort_sameEgress p x' (by
      simp only [x']
      split <;> rfl)
    clear_value t
    split
    · exact hport
    · split
      · exact hport.trans (t.count_sameEgress (by simp [RSV_SAMPLE_LOST, PORT_VC_SCHED])
          (by simp [RSV_SAMPLE_LOST, CDC_STATE]))
      · exact hport.trans ⟨rfl, rfl, rfl, fun _ => rfl, fun _ _ => rfl, fun _ _ => rfl⟩
  · exact .refl s

theorem State.emit_sameEgress (s : State) (x : Out) : s.SameEgress (s.emit x) :=
  ⟨rfl, rfl, rfl, fun _ => rfl, fun _ _ => rfl, fun _ _ => rfl⟩

/-- A cell handed to the link over a crossing that is not cut leaves the module. -/
theorem State.toLink_sameEgress {s : State} {p : Nat} (h : s.crossed (0x40 + p / 8) = false) (c : Cell) :
    s.SameEgress (s.toLink p c) ∧ (s.toLink p c).out = s.out ++ [.cell p c] ∧ (s.toLink p c).mem = s.mem := by
  unfold State.toLink
  rw [if_neg (by simp [h])]
  refine ⟨State.SameEgress.trans ?_ (State.emit_sameEgress _ _), rfl, rfl⟩
  exact s.setPort_sameEgress p _ rfl

/-- The head of a strict-priority channel sent on a fabric port (R67, R69, R93). -/
theorem State.sendHead_cell {s : State} {p v : Nat} {e : QEntry} {r : List QEntry} {x : Slot} {c : Cell}
    (hm : s.mirrors = []) (hcut : s.crossed (0x40 + p / 8) = false) (hp : s.prio p v = true) (hq : s.q p v = e :: r)
    (hx : Table.look s.slots e.slot = some x) (hc : x.item = .cell c) :
    let u := s.sendHead p v
    (∃ k : Cell, u.out.getLast? = some (.cell p k) ∧ k.pay = c.pay) ∧
    (u.q p v).map QEntry.slot = r.map QEntry.slot ∧ (u.vc p v).sent = ((s.vc p v).sent + 1) % 65536 ∧
    ∃ y, Table.look u.slots e.slot = some y ∧ y.copies = x.copies - 1 := by
  unfold State.sendHead
  simp only [hq, hx, hc]
  have hmark := s.markCe_sameEgress p e.hdr.toNat (e :: r).length
  generalize s.markCe p e.hdr.toNat (e :: r).length = a at hmark
  obtain ⟨h1, a⟩ := a
  have hlast := a.lastHop_sameEgress p h1 c.pay e.last
  simp only
  generalize a.lastHop p h1 c.pay e.last = b at hlast
  obtain ⟨h2, b⟩ := b
  have hb : s.SameEgress b := hmark.trans hlast
  simp only
  rw [State.sendTags_prio (by rw [hb.prio, hp])]
  obtain ⟨lq, hpop⟩ := b.popQueue_eq p v
  obtain ⟨ls, hdone⟩ := (b.popQueue p v).copyDone_eq e.slot
  have hslot : Table.look ((b.popQueue p v).copyDone e.slot).slots e.slot = some { x with copies := x.copies - 1 } :=
    State.look_copyDone (by rw [State.popQueue_slots, hb.slots, hx])
  have hqueue : (((b.popQueue p v).copyDone e.slot).q p v).map QEntry.slot = r.map QEntry.slot := by
    rw [hdone]
    exact State.q_popQueue (e := e) (by rw [hb.q, hq])
  have hsent : (((b.popQueue p v).copyDone e.slot).vc p v).sent = (s.vc p v).sent := by
    rw [hdone, hpop]
    exact hb.sent p v
  have hcut' : ((b.popQueue p v).copyDone e.slot).crossed (0x40 + p / 8) = false := by
    rw [hdone, hpop]
    exact (hb.crossed _).trans hcut
  have hmir : ((b.popQueue p v).copyDone e.slot).mirrors = [] := by
    rw [hdone, hpop]
    exact hb.mirrors.trans hm
  generalize (b.popQueue p v).copyDone e.slot = d at *
  have hshape := (d.modVc p v fun k => { k with sent := (k.sent + 1) % 65536 }).shapeSend_sameEgress p v
  generalize hd' : (d.modVc p v fun k => { k with sent := (k.sent + 1) % 65536 }).shapeSend p v = d' at *
  rw [State.mirrorCell_none (by rw [hshape.mirrors, State.modVc_mirrors, hmir])]
  have hsamp := d'.sampleCell_sameEgress p 1 ⟨sealHdr h2, c.pay⟩
  generalize d'.sampleCell p 1 ⟨sealHdr h2, c.pay⟩ = f at hsamp
  obtain ⟨hlink, hout, -⟩ := State.toLink_sameEgress (s := f) (p := p)
    (by rw [hsamp.crossed, hshape.crossed]; exact hcut') ⟨sealHdr h2, c.pay⟩
  have hf := (hshape.trans hsamp).trans hlink
  refine ⟨⟨⟨sealHdr h2, c.pay⟩, by rw [hout, List.getLast?_concat], rfl⟩, ?_, ?_, _,
    (congrArg (Table.look · e.slot) hf.slots).trans hslot, rfl⟩
  · exact (congrArg _ (hf.q p v)).trans hqueue
  · rw [hf.sent, State.vc_modVc_same, hsent]

/-! ### A tile's output and the host's -/

/-- The head of a tile's output delivered to the tile. -/
theorem State.handOut_tile (s : State) {t : Nat} (ht : t < 256) (i : Item) :
    s.handOut (1025 + t) i = s.modTile t fun x => { x with inbox := x.inbox ++ [i] } := by
  have hc : outCrossing (1025 + t) = none := by
    simp [outCrossing, hostOutput, mgmtOutput, show ¬ 1281 ≤ 1025 + t by omega, show 1025 + t ≠ 1297 by omega,
      show 1025 + t ≠ 1024 by omega]
  simp [State.handOut, hc, State.deliver, show 1025 + t < 1281 by omega]

theorem State.eligible_tile {s : State} {t v : Nat} {e : QEntry} {r : List QEntry} (hq : s.q (1025 + t) v = e :: r) :
    s.eligible (1025 + t) v = s.accepts (1025 + t) v := by
  simp [State.eligible, hq, isFabric, show ¬ 1025 + t < 1024 by omega]

/-- The first copy of the host's mirror queue goes into its session's datagram, which is not yet full. -/
theorem State.takeHostMirror_records {s : State} {n k : Nat} {head : List Byte} {r : List (Nat × Nat × List Byte)} {c : Cell}
    (hx : s.crossed 1 = false) (hq : (s.port 1024).mirrorQ = (n, k, head) :: r) (hc : s.slotItem n = some (.cell c))
    (hl : (s.mirror k).records.length < 13) :
    let u := s.takeHostMirror
    (u.port 1024).mirrorQ = r ∧ (u.mirror k).records = (s.mirror k).records ++ [head ++ c.image] ∧ u.mem = s.mem := by
  unfold State.takeHostMirror
  simp only [show (s.port hostOutput).mirrorQ = (n, k, head) :: r from hq, hc]
  generalize ht : (s.modPort hostOutput fun x => { x with mirrorQ := r }).copyDone n = t
  have hkeep : t.crossed 1 = false ∧ t.mirror k = s.mirror k ∧ (t.port 1024).mirrorQ = r ∧ t.mem = s.mem := by
    obtain ⟨l, hdone⟩ := (s.modPort hostOutput fun x => { x with mirrorQ := r }).copyDone_eq n
    have hport : ((s.modPort hostOutput fun x => { x with mirrorQ := r }).port 1024).mirrorQ = r := by simp [hostOutput]
    rw [← ht, hdone]
    exact ⟨hx, rfl, hport, rfl⟩
  obtain ⟨hcut, hmir, hport, hmem⟩ := hkeep
  have hshort : ¬ 14 ≤ ((s.mirror k).records ++ [head ++ c.image]).length := by
    simp only [List.length_append, List.length_singleton]
    omega
  rw [if_neg (by simp [hcut]), hmir, if_neg (by simpa using hshort)]
  exact ⟨hport, by simp, by simpa using hmem⟩

/-! ### The cases of SLUICE_SELECT and INTERNAL_OUTPUT_SELECT -/

section
variable {s : State} {p : Fin 1024} (hon : s.on = true) (hlive : s.live p = true)
include hon hlive

/-- Fence idles in the safe state (R29). -/
theorem execSluiceSelect_safe (h : s.egressBlocked = true) :
    execSluiceSelect p s = ok s (s.toLink p (idleCell true)) := by
  unfold execSluiceSelect
  rw [State.powered_on hon]
  simp [hlive, h]

variable (hblock : s.egressBlocked = false)
include hblock

theorem execSluiceSelect_idle (h : (s.wakeTags p).choose p = none) (hm : ((s.wakeTags p).port p).mirrorQ = []) :
    execSluiceSelect p s = ok s ((s.wakeTags p).toLink p (idleCell false)) := by
  unfold execSluiceSelect
  rw [State.powered_on hon]
  simp [hlive, hblock, h, State.sendMirror, hm]

theorem execSluiceSelect_head {v : Nat} (h : (s.wakeTags p).choose p = some v) :
    execSluiceSelect p s = ok s ((s.wakeTags p).sendHead p v) := by
  unfold execSluiceSelect
  rw [State.powered_on hon]
  simp [hlive, hblock, h]

end

/-- Selection at a tile's output, whose tags are awake. -/
def State.tileSelect (s : State) (o v : Nat) (e : QEntry) (i : Item) : State :=
  if tileNumber o && forWeir i then s.modTile (o - 1025) fun x => { x with offer := some ⟨v, e.slot, false⟩ }
  else (((s.sendTags o v).popQueue o v).copyDone e.slot |>.modVc o v fun c => { c with sent := c.sent + 1 }).handOut o i

/-- An item for the tile leaves its queue and goes to the inbox. -/
theorem State.tileSelect_inbox {s : State} {t v : Nat} {e : QEntry} {r : List QEntry} {i : Item} (ht : t < 256)
    (hp : s.prio (1025 + t) v = true) (hq : s.q (1025 + t) v = e :: r) (hi : forWeir i = false) :
    let u := s.tileSelect (1025 + t) v e i
    (u.tile t).inbox = (s.tile t).inbox ++ [i] ∧ (u.q (1025 + t) v).map QEntry.slot = r.map QEntry.slot ∧
    u.mem = s.mem ∧ u.regs = s.regs ∧ ∀ k, k ≠ t → u.tile k = s.tile k := by
  obtain ⟨lq, hpop⟩ := s.popQueue_eq (1025 + t) v
  obtain ⟨ls, hdone⟩ := (s.popQueue (1025 + t) v).copyDone_eq e.slot
  have hqueue : ((s.putQueues lq).q (1025 + t) v).map QEntry.slot = r.map QEntry.slot := hpop ▸ State.q_popQueue hq
  rw [State.tileSelect, if_neg (by simp [hi]), State.sendTags_prio hp, hdone, hpop, State.handOut_tile _ ht]
  refine ⟨?_, hqueue, rfl, rfl, fun k hk => ?_⟩
  · simp
    rfl
  · exact State.tile_setTile_other _ _ (Ne.symm hk)

/-- A cell for the Weir is offered and stays in its queue. -/
theorem State.tileSelect_offer (s : State) (t : Nat) (ht : t < 256) (v : Nat) (e : QEntry) {i : Item} (hi : forWeir i = true) :
    let u := s.tileSelect (1025 + t) v e i
    (u.tile t).offer = some ⟨v, e.slot, false⟩ ∧ u.queues = s.queues ∧ u.slots = s.slots ∧
    (u.tile t).inbox = (s.tile t).inbox ∧ u.mem = s.mem ∧ u.regs = s.regs := by
  have hn : tileNumber (1025 + t) = true := by simp [tileNumber, show 1025 + t < 1281 by omega]
  rw [State.tileSelect, if_pos (by simp [hi, hn]), Nat.add_sub_cancel_left]
  simp

theorem execInternalOutputSelect_head {s : State} {n : Fin 274} {o v : Nat} {e : QEntry} {r : List QEntry} {i : Item}
    (hon : s.on = true) (ho : 1024 + n.val = o) (hne : o ≠ hostOutput) (h : (s.wakeTags o).choose o = some v)
    (hi : (s.wakeTags o).headItem o v = some i) (hq : (s.wakeTags o).q o v = e :: r) :
    execInternalOutputSelect n s = ok s ((s.wakeTags o).tileSelect o v e i) := by
  unfold execInternalOutputSelect
  rw [State.powered_on hon]
  simp [ho, hne, h, hi, hq, State.tileSelect]

theorem execInternalOutputSelect_host {s : State} (hon : s.on = true) (hblock : s.egressBlocked = false)
    (h : (s.wakeTags 1024).choose 1024 = none) :
    execInternalOutputSelect 0 s = ok s (s.wakeTags 1024).takeHostMirror := by
  unfold execInternalOutputSelect
  rw [State.powered_on hon]
  simp [hostOutput, hblock, h]

/-! ### The obligation -/

/-- Settles O32: what is selected at a fabric port, at a tile's output and at the host's output. -/
theorem outputSelection : Obligations.OutputSelection := by
  intro s hon
  refine ⟨fun p hlive hcut => ⟨fun hsafe => ?_, fun hblock hempty hmq => ?_, ?_⟩, ?_, ?_⟩
  · refine gives_ok (execSluiceSelect_safe hon hlive hsafe) ?_
    obtain ⟨h, hout, hmem⟩ := State.toLink_sameEgress hcut (idleCell true)
    exact ⟨hout, h.queues, h.slots, hmem⟩
  · have hw := s.wakeTags_woken p
    refine gives_ok (execSluiceSelect_idle hon hlive hblock (State.choose_wakeTags_empty hempty) ((hw.mirrorQ p).trans hmq)) ?_
    obtain ⟨l, hl⟩ := hw.eq
    rw [hl]
    obtain ⟨h, hout, hmem⟩ := State.toLink_sameEgress (s := s.putPorts l) (p := p) hcut (idleCell false)
    exact ⟨hout, h.queues, h.slots, hmem⟩
  · intro v e r x c hblock hm hv hp he hlow hq hx hc
    have hw := s.wakeTags_woken p
    refine gives_ok (execSluiceSelect_head hon hlive hblock (State.choose_wakeTags hv hp he hlow)) ?_
    rw [← hw.sent]
    rw [← hw.q] at hq
    rw [← hw.prio] at hp
    obtain ⟨l, hl⟩ := hw.eq
    rw [hl] at hq hp ⊢
    exact State.sendHead_cell hm hcut hp hq hx hc
  · intro t v e r i hacc hv hp hq hi hlow
    have ho : 1024 + (1 + t.val) = 1025 + t := by omega
    have hchoose := State.choose_wakeTags hv hp ((State.eligible_tile hq).trans hacc) fun w hw hpw =>
      State.eligible_empty (hlow w hw hpw)
    have hw := s.wakeTags_woken (1025 + t)
    rw [← hw.prio] at hp
    rw [← hw.q] at hq
    obtain ⟨l, hl⟩ := hw.eq
    have hi' : (s.wakeTags (1025 + t)).headItem (1025 + t) v = some i := by
      rw [hl]
      exact hi
    have hexec := execInternalOutputSelect_head (n := ⟨1 + t, by omega⟩) hon ho
      (by simp only [hostOutput]; omega) hchoose hi' hq
    rw [hl] at hexec hp hq
    exact ⟨fun hweir => gives_ok hexec (State.tileSelect_inbox t.isLt hp hq hweir),
      fun hweir => gives_ok hexec ((s.putPorts l).tileSelect_offer t t.isLt v e hweir)⟩
  · intro n k head r c hblock hcut hempty hmq hc hlen
    have hw := s.wakeTags_woken 1024
    refine gives_ok (execInternalOutputSelect_host hon hblock (State.choose_wakeTags_empty hempty)) ?_
    rw [← hw.mirrorQ] at hmq
    obtain ⟨l, hl⟩ := hw.eq
    rw [hl] at hmq ⊢
    exact State.takeHostMirror_records (s := s.putPorts l) hcut hmq hc hlen

end Sys2Proof.Machine
end

section
/-! A link that comes up (O28, O46): the grants of its channels (R72, R73) and its new state (R328). -/

namespace Sys2Proof.Machine

/-! ### What grants rest on -/

/-- What the grants of port `p` rest on: the wanted grants, what its reservations hold, the grant pool. -/
structure State.GrantBase (s t : State) (p : Nat) : Prop where
  wanted : ∀ v < 16, t.wanted p v = s.wanted p v
  used : ∀ v, t.reservedUsed p v = s.reservedUsed p v
  pool : t.grantPool = s.grantPool

theorem State.GrantBase.trans {a b c : State} {p : Nat} (h : a.GrantBase b p) (k : b.GrantBase c p) : a.GrantBase c p :=
  ⟨fun v hv => (k.wanted v hv).trans (h.wanted v hv), fun v => (k.used v).trans (h.used v), k.pool.trans h.pool⟩

theorem State.grantPool_congr {s t : State} (hl : t.laneMap = s.laneMap) (hf : t.floor = s.floor)
    (hv : ∀ q, (t.port q).vcs = (s.port q).vcs) : t.grantPool = s.grantPool := by
  simp only [State.grantPool, State.drawnBy, hl, hf, hv]

theorem State.reservedUsed_congr {s t : State} (hs : t.slots = s.slots) (hh : t.heldCells = s.heldCells)
    (he : t.expWait = s.expWait) (p v : Nat) : t.reservedUsed p v = s.reservedUsed p v := by
  simp only [State.reservedUsed, State.charged, State.heldUp, hs, hh, he]

theorem State.wanted_congr {s t : State} {p v : Nat} (hr : t.rd (PORT_VC_CREDIT p v) = s.rd (PORT_VC_CREDIT p v))
    (hw : t.width p = s.width p) : t.wanted p v = s.wanted p v := by
  rw [State.wanted, State.fld, hr, ← State.width, hw]
  rfl

/-- Cells carried over hold their reservation as before (R73). -/
theorem State.grantBase_carryOver (s : State) (p : Nat) : s.GrantBase (s.carryOver p) p where
  wanted _ _ := rfl
  pool := rfl
  used v := by
    simp only [State.reservedUsed, State.charged, State.heldUp, State.carryOver, State.putSlots_slots,
      State.putSlots_heldCells, State.putSlots_expWait, List.countP_map]
    congr 1
    refine List.countP_congr fun e _ => ?_
    simp only [Function.comp_apply]
    split
    next h =>
      obtain ⟨-, hr⟩ := Bool.and_eq_true_iff.mp h
      simp [eq_of_beq hr]
    next => rfl

/-! ### The grants -/

/-- The grant that channel `v` gets: the wanted one where the pool has it, else 8 (R72). -/
def State.grantGiven (s : State) (p v : Nat) : Nat :=
  let w := s.wanted p v
  if w - 8 - min (s.vc p v).drawn (w - 8) ≤ s.grantPool then w else 8

/-- Channel `v` with its grant and, as credit, what the cells carried over leave of it (R72, R73). -/
def State.grantVc (s : State) (p v : Nat) (x : Vc) : Vc :=
  let g := s.grantGiven p v
  let c := s.reservedUsed p v
  { x with granted := g, drawn := max (g - 8) (c - 8), cred := g - c, sent := 0,
           excess := c - g, tag := 0, tagLast := 0, wasElig := false }

theorem State.grantOne_eq (s : State) (p v : Nat) : (s.grantOne p v).1 = s.modVc p v (s.grantVc p v) := by
  simp only [State.grantOne, decide_eq_true_eq]
  rfl

theorem State.grantGiven_or (s : State) (p v : Nat) : s.grantGiven p v = s.wanted p v ∨ s.grantGiven p v = 8 := by
  unfold State.grantGiven
  dsimp only
  split
  · exact .inl rfl
  · exact .inr rfl

theorem State.grantGiven_fits {s : State} {p v : Nat} (h : s.wanted p v ≤ s.grantPool) :
    s.grantGiven p v = s.wanted p v := if_pos (by omega)

/-- The state after the grants of the channels below `n`, with the flags of the short ones. -/
def State.grantBelow (s : State) (p n : Nat) : State × Nat :=
  (List.range n).foldl (fun (a : State × Nat) v =>
    let (s', b) := a.1.grantOne p v
    (s', a.2 + flag b * 2 ^ v)) (s, 0)

theorem State.grantBelow_succ (s : State) (p n : Nat) :
    (s.grantBelow p (n + 1)).1 = ((s.grantBelow p n).1.grantOne p n).1 := by
  simp [State.grantBelow, List.range_succ]

theorem State.rd_putPorts (s : State) (l : List (Nat × Port)) (r : Reg) : (s.putPorts l).rd r = s.rd r := rfl

/-- What granting channels leaves: all but the ports, of every port what is not a channel. -/
structure State.VcsOnly (s t : State) : Prop where
  eq : ∃ l, t = s.putPorts l
  hellos : ∀ q, (t.port q).hellos = (s.port q).hellos

theorem State.grantBelow_vcsOnly (s : State) (p n : Nat) : s.VcsOnly (s.grantBelow p n).1 := by
  induction n with
  | zero => exact ⟨⟨s.ports, rfl⟩, fun _ => rfl⟩
  | succ n ih =>
    rw [State.grantBelow_succ, State.grantOne_eq]
    obtain ⟨⟨l, hl⟩, hh⟩ := ih
    refine ⟨?_, fun q => ?_⟩
    · rw [hl]
      exact ⟨_, rfl⟩
    · rw [← hh q]
      by_cases hq : p = q
      · subst hq
        simp [State.modVc, Port.setVc]
      · rw [State.modVc, State.port_modPort_other _ _ _ hq]

/-- What a grant leaves the channel `v` of port `p` with, in terms of the state before all grants. -/
structure State.GrantedAs (s t : State) (p v : Nat) : Prop where
  granted : (t.vc p v).granted = s.wanted p v ∨ (t.vc p v).granted = 8
  cred : (t.vc p v).cred = (t.vc p v).granted - s.reservedUsed p v
  first : v = 0 → s.wanted p 0 ≤ s.grantPool → (t.vc p 0).granted = s.wanted p 0

theorem State.grantBelow_granted (s : State) (p n : Nat) : ∀ v < n, s.GrantedAs (s.grantBelow p n).1 p v := by
  induction n with
  | zero => simp
  | succ n ih =>
    intro v hv
    obtain ⟨⟨l, hl⟩, -⟩ := s.grantBelow_vcsOnly p n
    have hw : (s.grantBelow p n).1.wanted p n = s.wanted p n := by rw [hl]; rfl
    have hu : (s.grantBelow p n).1.reservedUsed p n = s.reservedUsed p n := by rw [hl]; rfl
    rw [State.grantBelow_succ, State.grantOne_eq]
    by_cases h : v = n
    · subst h
      refine ⟨?_, ?_, ?_⟩
      · simpa only [State.vc_modVc_same, State.grantVc, ← hw] using State.grantGiven_or _ p v
      · simp only [State.vc_modVc_same, State.grantVc, hu]
      · rintro rfl hle
        rw [State.vc_modVc_same]
        exact State.grantGiven_fits (s := s) hle
    · have hold := ih v (by omega)
      have hvc : ((s.grantBelow p n).1.modVc p n ((s.grantBelow p n).1.grantVc p n)).vc p v = (s.grantBelow p n).1.vc p v :=
        State.vc_modVc_other _ _ _ _ fun e => h (Prod.mk.inj e).2.symm
      refine ⟨?_, ?_, ?_⟩
      · rw [hvc]
        exact hold.granted
      · rw [hvc]
        exact hold.cred
      · rintro rfl
        rw [hvc]
        exact hold.first rfl

/-! ### The new state of the link -/

/-- What a link that comes up to state `new` leaves: registers but PORT_LINK_STAT and PORT_RSV_STAT, the hellos that wait, and
of PORT_LINK_STAT the fields that tell neither the state nor the reason of a quarantine. -/
structure State.CameUp (s t : State) (p new reason : Nat) : Prop where
  rd : ∀ r, r.quiet → r ≠ PORT_LINK_STAT p → r ≠ PORT_RSV_STAT p → t.rd r = s.rd r
  state : t.linkState p = new % 8
  reason : new = linkQuarantined → t.fld (PORT_LINK_STAT p) PORT_LINK_STAT_Q_REASON = reason % 16
  fld : ∀ g : Fld, 3 ≤ g.lo → g.lo + g.width ≤ 56 → t.fld (PORT_LINK_STAT p) g = s.fld (PORT_LINK_STAT p) g
  hellos : ∀ q, (t.port q).hellos = (s.port q).hellos
  granted : ∀ v < 16, s.GrantedAs t p v

theorem State.setLink_only (s : State) (p new reason : Nat) (h : new ≠ linkDown) :
    (s.setFld (PORT_LINK_STAT p) PORT_LINK_STAT_STATE new).EventOnly (s.setLink p new reason) := by
  unfold State.setLink
  dsimp only
  split
  · simp only [h, decide_false, State.also, Bool.false_eq_true, if_false]
    exact (State.countEvent_only _ _).trans (State.post_only _ _)
  · exact .refl _

theorem State.grantAll_eq (s : State) (p : Nat) :
    ((((s.carryOver p).grantBelow p 16).1).setFld (PORT_RSV_STAT p) PORT_RSV_STAT_GRANT_SHORT
      (flag (((s.carryOver p).grantBelow p 16).2 != 0))).EventOnly (s.grantAll p) := by
  unfold State.grantAll
  dsimp only
  rw [← State.grantBelow]
  split
  · exact .refl _
  · exact State.notice_only _ _ _ _ _ _ _

theorem State.VcsOnly.trans {a b c : State} (h : a.VcsOnly b) (k : b.VcsOnly c) : a.VcsOnly c where
  eq := by
    obtain ⟨l, rfl⟩ := h.eq
    obtain ⟨m, rfl⟩ := k.eq
    exact ⟨m, rfl⟩
  hellos q := (k.hellos q).trans (h.hellos q)

/-- An update of one port that leaves its hellos. -/
theorem State.vcsOnly_modPort (s : State) (p : Nat) (f : Port → Port) (h : (f (s.port p)).hellos = (s.port p).hellos) :
    s.VcsOnly (s.modPort p f) where
  eq := ⟨_, rfl⟩
  hellos q := by
    by_cases hq : p = q
    · subst hq
      rw [State.port_modPort, h]
    · rw [State.port_modPort_other _ _ _ hq]

theorem State.fillBuckets_vcsOnly (s : State) (p : Nat) : s.VcsOnly (s.fillBuckets p) :=
  have hset : ∀ (t : State) c n, t.VcsOnly (t.setBucket p c n) := fun t _ _ => t.vcsOnly_modPort p _ rfl
  ((hset _ 5 _).trans (hset _ 6 _)).trans (hset _ 7 _)

theorem State.vc_fillBuckets (s : State) (p q v : Nat) : (s.fillBuckets p).vc q v = s.vc q v := by
  have hset : ∀ (t : State) c n, (t.setBucket p c n).vc q v = t.vc q v := fun t c n => t.vc_modPort_of_vcs p _ rfl q v
  simp only [State.fillBuckets, List.foldl_cons, List.foldl_nil, hset]

theorem State.grantAll_granted (s : State) (p : Nat) : ∀ v < 16, s.GrantedAs (s.grantAll p) p v := by
  intro v hv
  have hbase := s.grantBase_carryOver p
  have h := (s.carryOver p).grantBelow_granted p 16 v hv
  have hvc : ∀ w, (s.grantAll p).vc p w = ((s.carryOver p).grantBelow p 16).1.vc p w := by
    intro w
    rw [State.vc, State.port, (s.grantAll_eq p).ports]
    rfl
  exact ⟨by rw [hvc, ← hbase.wanted v hv]; exact h.granted, by rw [hvc, ← hbase.used]; exact h.cred,
    fun hv0 hle => by
      rw [hvc, ← hbase.wanted 0 (by decide)]
      exact h.first hv0 (by rwa [hbase.wanted 0 (by decide), hbase.pool])⟩

theorem State.hellos_grantAll (s : State) (p q : Nat) : ((s.grantAll p).port q).hellos = (s.port q).hellos := by
  rw [State.port, (s.grantAll_eq p).ports]
  exact ((s.carryOver p).grantBelow_vcsOnly p 16).hellos q

theorem State.rd_grantAll (s : State) {p : Nat} {r : Reg} (hq : r.quiet) (hr : r ≠ PORT_RSV_STAT p) :
    (s.grantAll p).rd r = s.rd r := by
  obtain ⟨⟨l, hl⟩, -⟩ := (s.carryOver p).grantBelow_vcsOnly p 16
  rw [(s.grantAll_eq p).rd r hq, State.rd_setFld_other _ _ _ (Ne.symm hr), hl]
  rfl

theorem quiet_port {r : Reg} (h : r.blk = 2) : r.quiet := by simp [Reg.quiet, h]

/-- The port's virtual time and order of credit words as a link that comes up starts with them. -/
def State.firstTags (s : State) (p : Nat) : State :=
  s.modPort p fun x => { x with vtime := 0, credOrder := List.range 16 }

theorem State.firstTags_vcsOnly (s : State) (p : Nat) : s.VcsOnly (s.firstTags p) := s.vcsOnly_modPort p _ rfl

theorem State.vc_firstTags (s : State) (p q v : Nat) : (s.firstTags p).vc q v = s.vc q v := s.vc_modPort_of_vcs p _ rfl q v

/-- The reason noted of a link that enters QUARANTINED. -/
def State.noteReason (s : State) (p new reason : Nat) : State :=
  if new = linkQuarantined then s.setFld (PORT_LINK_STAT p) PORT_LINK_STAT_Q_REASON reason else s

section
variable (s : State) (p new reason : Nat)

theorem State.ports_noteReason : (s.noteReason p new reason).ports = s.ports := by
  unfold State.noteReason
  split
  · exact s.setFld_ports _ _ _
  · rfl

theorem State.rd_noteReason {r : Reg} (h : r ≠ PORT_LINK_STAT p) : (s.noteReason p new reason).rd r = s.rd r := by
  unfold State.noteReason
  split
  · exact s.rd_setFld_other _ _ (Ne.symm h)
  · rfl

theorem State.fld_noteReason {g : Fld} (h : g.lo + g.width ≤ 56) :
    (s.noteReason p new reason).fld (PORT_LINK_STAT p) g = s.fld (PORT_LINK_STAT p) g := by
  unfold State.noteReason
  split
  · exact s.fld_setFld_other _ _ _ _ _ (by decide) (.inr (.inr h))
  · rfl

theorem State.reason_noteReason (h : new = linkQuarantined) :
    (s.noteReason p new reason).fld (PORT_LINK_STAT p) PORT_LINK_STAT_Q_REASON = reason % 16 := by
  rw [State.noteReason, if_pos h, State.fld_setFld_same _ _ _ _ (by decide)]
  rfl

theorem State.comeUp_eq : s.comeUp p new reason =
    ((((s.grantAll p).fillBuckets p).firstTags p).noteReason p new reason).setLink p new reason := rfl

end

/-- What the link is before its state changes: the grants made, buckets and tags started. -/
theorem State.started_keeps (s : State) (p : Nat) :
    let b := ((s.grantAll p).fillBuckets p).firstTags p
    (∀ r, r.quiet → r ≠ PORT_RSV_STAT p → b.rd r = s.rd r) ∧ (∀ q, (b.port q).hellos = (s.port q).hellos) ∧
      ∀ v < 16, s.GrantedAs b p v := by
  intro b
  have hb : (s.grantAll p).VcsOnly b := ((s.grantAll p).fillBuckets_vcsOnly p).trans (State.firstTags_vcsOnly _ p)
  have hvc : ∀ v, b.vc p v = (s.grantAll p).vc p v := fun v =>
    (State.vc_firstTags _ p p v).trans ((s.grantAll p).vc_fillBuckets p p v)
  clear_value b
  refine ⟨fun r hq hr => ?_, fun q => (hb.hellos q).trans (s.hellos_grantAll p q), fun v hv => ?_⟩
  · obtain ⟨l, hl⟩ := hb.eq
    rw [hl, State.rd_putPorts, s.rd_grantAll hq hr]
  · have h := s.grantAll_granted p v hv
    exact ⟨by rw [hvc]; exact h.granted, by rw [hvc]; exact h.cred, by rw [hvc]; exact h.first⟩

/-- A link that comes up: its grants, its reason in QUARANTINED, its state. -/
theorem State.comeUp_cameUp (s : State) (p : Nat) {new : Nat} (hnew : new ≠ linkDown) (reason : Nat) :
    s.CameUp (s.comeUp p new reason) p new reason := by
  obtain ⟨hrd, hhellos, hgrants⟩ := s.started_keeps p
  rw [State.comeUp_eq]
  generalize ((s.grantAll p).fillBuckets p).firstTags p = b at hrd hhellos hgrants
  have hlink := (b.noteReason p new reason).setLink_only p new reason hnew
  have hq : (PORT_LINK_STAT p).quiet := quiet_port rfl
  have hport : ∀ q, ((b.noteReason p new reason).setLink p new reason).port q = b.port q := fun q => by
    rw [State.port, hlink.ports, State.setFld_ports, State.ports_noteReason, State.port]
  have hstat : ∀ g, ((b.noteReason p new reason).setLink p new reason).fld (PORT_LINK_STAT p) g =
      ((b.noteReason p new reason).setFld (PORT_LINK_STAT p) PORT_LINK_STAT_STATE new).fld (PORT_LINK_STAT p) g := fun g => by
    rw [State.fld, hlink.rd _ hq, State.fld]
  have hother : ∀ g : Fld, 3 ≤ g.lo → ((b.noteReason p new reason).setLink p new reason).fld (PORT_LINK_STAT p) g =
      (b.noteReason p new reason).fld (PORT_LINK_STAT p) g := fun g hg =>
    (hstat g).trans (State.fld_setFld_other _ _ _ _ _ _ (by decide) (.inr (.inl hg)))
  constructor
  case rd =>
    intro r hqr hr1 hr2
    rw [hlink.rd r hqr, State.rd_setFld_other _ _ _ (Ne.symm hr1), State.rd_noteReason _ _ _ _ hr1, hrd r hqr hr2]
  case state =>
    refine (hstat _).trans ?_
    rw [State.fld_setFld_same _ _ _ _ (by decide)]
    rfl
  case reason => exact fun h => (hother _ (by decide)).trans (State.reason_noteReason _ _ _ _ h)
  case fld =>
    intro g hlo hhi
    rw [hother g hlo, State.fld_noteReason _ _ _ _ hhi, State.fld, hrd _ hq (by simp [PORT_LINK_STAT, PORT_RSV_STAT]),
      State.fld]
  case hellos => exact fun q => (congrArg Port.hellos (hport q)).trans (hhellos q)
  case granted =>
    intro v hv
    have h := hgrants v hv
    have hvc : ∀ w, ((b.noteReason p new reason).setLink p new reason).vc p w = b.vc p w := fun w => by
      rw [State.vc, hport, State.vc]
    exact ⟨by rw [hvc]; exact h.granted, by rw [hvc]; exact h.cred, by rw [hvc]; exact h.first⟩

end Sys2Proof.Machine
end

section
/-! Hellos (O28): sent, received, checked. -/

namespace Sys2Proof.Machine

/-! ### Hellos sent -/

theorem State.toLink_eq {s : State} {p : Nat} (h : s.crossed (0x40 + p / 8) = false) (c : Cell) :
    ∃ f, (∀ x, (f x).txBits.2 = x.txBits.2 + 640) ∧ s.toLink p c = (s.modPort p f).emit (.cell p c) :=
  ⟨_, fun _ => rfl, if_neg (by simp [h])⟩

/-- Cells handed to a link whose crossing is not cut: 640 bits each, and nothing of another port. -/
theorem State.foldl_toLink_keeps (p : Nat) (l : List Cell) (s : State) (h : s.crossed (0x40 + p / 8) = false) :
    let u := l.foldl (fun s c => s.toLink p c) s
    (u.port p).txBits.2 = (s.port p).txBits.2 + 640 * l.length ∧ (∀ q, q ≠ p → u.port q = s.port q) ∧ u.regs = s.regs := by
  induction l generalizing s with
  | nil => simp
  | cons c l ih =>
    have hone : ((s.toLink p c).port p).txBits.2 = (s.port p).txBits.2 + 640 ∧
        (∀ q, q ≠ p → (s.toLink p c).port q = s.port q) ∧ (s.toLink p c).regs = s.regs := by
      obtain ⟨f, hf, he⟩ := State.toLink_eq h c
      rw [he]
      refine ⟨?_, fun q hq => s.port_modPort_other p f (Ne.symm hq), rfl⟩
      change ((s.modPort p f).port p).txBits.2 = _
      rw [State.port_modPort, hf]
    obtain ⟨hbits, hother, hregs⟩ := hone
    obtain ⟨hbits', hother', hregs'⟩ := ih (s.toLink p c) (by rw [State.crossed, State.fld_congr hregs]; exact h)
    refine ⟨?_, fun q hq => (hother' q hq).trans (hother q hq), hregs'.trans hregs⟩
    rw [List.foldl_cons, hbits', hbits, List.length_cons]
    omega

theorem State.signId_keeps {s t : State} {k : Signed} {m b : List Byte} (h : s.signId k m = (b, t)) :
    t.ports = s.ports ∧ ∀ r, r ≠ SEC_SIGN_REFUSED → t.rd r = s.rd r := by
  unfold State.signId at h
  split at h
  · obtain ⟨-, rfl⟩ := Prod.mk.inj h
    exact ⟨rfl, fun r hr => s.rd_count_other 1 (Ne.symm hr)⟩
  · split at h
    · obtain ⟨-, rfl⟩ := Prod.mk.inj h
      exact ⟨rfl, fun _ _ => rfl⟩
    · obtain ⟨-, rfl⟩ := Prod.mk.inj h
      exact ⟨rfl, fun _ _ => rfl⟩

/-- A hello is four cells; making it leaves the ports and every register but the count of signatures refused. -/
theorem State.helloCells_keeps {s t : State} {p : Nat} {l : List Cell} (h : s.helloCells p = (l, t)) :
    l.length = 4 ∧ t.ports = s.ports ∧ ∀ r, r ≠ SEC_SIGN_REFUSED → t.rd r = s.rd r := by
  -- the definition is put in under its binders: applied, comparing it with its body would evaluate the signature
  have hdef : State.helloCells = State.helloCells := rfl
  conv at hdef =>
    rhs
    delta State.helloCells
  rw [hdef] at h
  beta_reduce at h
  extract_lets x fw c0 c1 c2 at h
  clear_value c0 c1 c2
  generalize hsig : s.signId .hello (payBytes c0 ++ payBytes c1 ++ payBytes c2) = y at h
  obtain ⟨sig, a⟩ := y
  obtain ⟨rfl, rfl⟩ := Prod.mk.inj h
  exact ⟨(List.length_map _).trans List.length_zipIdx, State.signId_keeps hsig⟩

/-- A hello sent adds four cells to the port's stream. -/
theorem State.sendHello_keeps {s : State} {p : Nat} (hid : s.idFail = false) (hsafe : s.egressBlocked = false)
    (hcut : s.crossed (0x40 + p / 8) = false) :
    ((s.sendHello p).port p).txBits.2 = (s.port p).txBits.2 + 2560 ∧ (∀ q, q ≠ p → (s.sendHello p).port q = s.port q) ∧
      ∀ r, r ≠ SEC_SIGN_REFUSED → (s.sendHello p).rd r = s.rd r := by
  unfold State.sendHello
  rw [if_neg (by simp [hid, hsafe])]
  cases hx : s.helloCells p with | mk l a
  obtain ⟨hlen, hports, hrd⟩ := State.helloCells_keeps hx
  have hport : ∀ q, a.port q = s.port q := fun q => by rw [State.port, hports, State.port]
  have hcut' : a.crossed (0x40 + p / 8) = false := by
    rw [State.crossed, State.fld, hrd _ (by simp [CDC_STATE, SEC_SIGN_REFUSED])]
    exact hcut
  obtain ⟨hbits, hother, hregs⟩ := State.foldl_toLink_keeps p l a hcut'
  refine ⟨?_, fun q hq => (hother q hq).trans (hport q), fun r hr => (State.rd_congr hregs r).trans (hrd r hr)⟩
  dsimp only
  rw [hbits, hport, hlen]

theorem State.sendHello_blocked {s : State} (h : s.egressBlocked = true) (p : Nat) : s.sendHello p = s := by
  simp [State.sendHello, h]

/-! ### The bytes of a hello -/

theorem drop_take_toBytes (x : Nat) (l : List Byte) : ((toBytes 64 x ++ l).drop 8).take 8 = toBytes 8 (x >>> 64) := by
  refine List.ext_getElem (by simp [toBytes_length]; omega) fun i h1 h2 => ?_
  have hi : i < 8 := by simpa [toBytes_length] using h2
  rw [List.getElem_take, List.getElem_drop, List.getElem_append_left (by rw [toBytes_length]; omega)]
  simp only [toBytes, List.getElem_map, List.getElem_range, ← Nat.shiftRight_add, Nat.mul_add]

/-- Byte 9 of a payload, read from the second of its eight-byte words. -/
theorem payNum_of_word (c : Payload) (l : List Byte) :
    bitsOf (BitVec.ofNat 64 (ofBytes (((payBytes c ++ l).drop 8).take 8))).toNat 8 8 = payNum c 9 1 := by
  rw [payBytes, drop_take_toBytes, ofBytes_toBytes, payNum]
  refine Nat.eq_of_testBit_eq fun i => ?_
  simp only [testBit_bitsOf, BitVec.toNat_ofNat, show (256 : Nat) ^ 8 = 2 ^ 64 from rfl, Nat.testBit_mod_two_pow,
    Nat.testBit_shiftRight]
  by_cases hi : i < 8
  · simp [hi, show 8 + i < 64 by omega, show 64 + (8 + i) = 8 * 9 + i by omega]
  · simp [hi]

theorem payNum_lt (c : Payload) (i n : Nat) : payNum c i n < 2 ^ (8 * n) := bitsOf_lt _ _ _

/-- PORT_PEER_SEEN0 of the first cell of a hello. -/
def seenOf (c : Payload) : Nat :=
  payNum c 10 1 * 2 ^ 56 + payNum c 9 1 % 16 * 2 ^ 52 + payNum c 8 1 % 16 * 2 ^ 48 + payNum c 4 1 % 4 * 2 ^ 44 +
    payNum c 6 2 % 1024 * 2 ^ 32 + payNum c 0 4 % 2 ^ 17

theorem seenOf_lt (c : Payload) : seenOf c < 2 ^ 64 := by
  have := payNum_lt c 10 1
  unfold seenOf
  omega

theorem bitsOf_seenOf_coll (c : Payload) : bitsOf (BitVec.ofNat 64 (seenOf c)).toNat 56 8 = payNum c 10 1 := by
  have := payNum_lt c 10 1
  rw [BitVec.toNat_ofNat, Nat.mod_eq_of_lt (seenOf_lt c), bitsOf_eq]
  unfold seenOf
  omega

theorem bitsOf_seenOf_id (c : Payload) : bitsOf (BitVec.ofNat 64 (seenOf c)).toNat 0 17 = payNum c 0 4 % 2 ^ 17 := by
  rw [BitVec.toNat_ofNat, Nat.mod_eq_of_lt (seenOf_lt c), bitsOf_eq]
  unfold seenOf
  omega

/-! ### What a hello leaves in the registers -/

theorem State.rd_foldl_wr_other {f : Nat → Reg} (g : Nat → Word) (l : List Nat) (s : State) {r : Reg} (h : ∀ k, f k ≠ r) :
    (l.foldl (fun s k => s.wr (f k) (g k)) s).rd r = s.rd r := by
  induction l generalizing s with
  | nil => rfl
  | cons k l ih => rw [List.foldl_cons, ih, State.rd_wr_other _ _ (h k)]

theorem State.rd_foldl_wr {f : Nat → Reg} (hf : ∀ j k, f j = f k → j = k) (g : Nat → Word) (s : State) {n j : Nat} (hj : j < n) :
    ((List.range n).foldl (fun s k => s.wr (f k) (g k)) s).rd (f j) = g j := by
  induction n with
  | zero => omega
  | succ n ih =>
    rw [List.range_succ, List.foldl_append, List.foldl_cons, List.foldl_nil]
    by_cases h : j = n
    · rw [h, State.rd_wr_same]
    · rw [State.rd_wr_other _ _ fun e => h (hf _ _ e).symm, ih (by omega)]

theorem State.putRegs_putRegs (s : State) (a b : List (Reg × Word)) : (s.putRegs a).putRegs b = s.putRegs b := rfl

/-- A register written after an update of registers alone. -/
theorem State.wr_regs {s t : State} (h : ∃ R, t = s.putRegs R) (r : Reg) (v : Word) : ∃ R, t.wr r v = s.putRegs R := by
  obtain ⟨R, rfl⟩ := h
  exact ⟨_, s.putRegs_putRegs R _⟩

theorem State.foldl_wr_eq (f : Nat → Reg) (g : Nat → Word) (l : List Nat) (s : State) :
    ∃ R, l.foldl (fun s k => s.wr (f k) (g k)) s = s.putRegs R := by
  induction l generalizing s with
  | nil => exact ⟨s.regs, rfl⟩
  | cons k l ih =>
    obtain ⟨R, hR⟩ := ih (s.wr (f k) (g k))
    exact ⟨R, hR⟩

/-- What recording a hello does: only registers change, and of those the words of the hello, what was seen, PEER_ID. -/
structure State.Recorded (s t : State) (p : Nat) (l : List Cell) : Prop where
  eq : ∃ R, t = s.putRegs R
  rd : ∀ r, (∀ k, PORT_HELLO_RX p k ≠ r) → r ≠ PORT_PEER_SEEN0 p → r ≠ PORT_PEER_SEEN1 p → r ≠ PORT_ROLE p →
    t.rd r = s.rd r
  seen : t.rd (PORT_PEER_SEEN0 p) = BitVec.ofNat 64 (seenOf (helloPay l 0))
  rev : bitsOf (t.rd (PORT_HELLO_RX p 1)).toNat 8 8 = payNum (helloPay l 0) 9 1

/-- The words of a hello stored in PORT_HELLO_RX. -/
def State.helloWords (s : State) (p : Nat) (b : List Byte) : State :=
  (List.range 32).foldl (fun s k => s.wr (PORT_HELLO_RX p k) (BitVec.ofNat 64 (ofBytes ((b.drop (8 * k)).take 8)))) s

theorem State.helloWords_eq (s : State) (p : Nat) (b : List Byte) : ∃ R, s.helloWords p b = s.putRegs R :=
  State.foldl_wr_eq _ _ _ _

theorem State.rd_helloWords (s : State) (p : Nat) (b : List Byte) {k : Nat} (hk : k < 32) :
    (s.helloWords p b).rd (PORT_HELLO_RX p k) = BitVec.ofNat 64 (ofBytes ((b.drop (8 * k)).take 8)) :=
  s.rd_foldl_wr (fun i j h => by simp [PORT_HELLO_RX] at h; omega) _ hk

theorem State.rd_helloWords_other (s : State) (p : Nat) (b : List Byte) {r : Reg} (h : ∀ k, PORT_HELLO_RX p k ≠ r) :
    (s.helloWords p b).rd r = s.rd r := State.rd_foldl_wr_other _ _ s h

/-- The registers that tell what was seen of the peer. -/
def State.noteSeen (s : State) (p : Nat) (c : Payload) (key : Nat) : State :=
  ((s.wr (PORT_PEER_SEEN0 p) (BitVec.ofNat 64 (seenOf c))).wr (PORT_PEER_SEEN1 p) (BitVec.ofNat 64 key)).setFld (PORT_ROLE p)
    PORT_ROLE_PEER_ID (payNum c 0 4)

theorem State.noteSeen_eq (s : State) (p : Nat) (c : Payload) (key : Nat) : ∃ R, s.noteSeen p c key = s.putRegs R :=
  State.wr_regs (State.wr_regs (State.wr_regs ⟨s.regs, rfl⟩ _ _) _ _) _ _

theorem State.rd_noteSeen (s : State) (p : Nat) (c : Payload) (key : Nat) :
    (s.noteSeen p c key).rd (PORT_PEER_SEEN0 p) = BitVec.ofNat 64 (seenOf c) := by
  rw [State.noteSeen, State.rd_setFld_other _ _ _ (by simp [PORT_ROLE, PORT_PEER_SEEN0]),
    State.rd_wr_other _ _ (by simp [PORT_PEER_SEEN1, PORT_PEER_SEEN0]), State.rd_wr_same]

theorem State.rd_noteSeen_other (s : State) {p : Nat} (c : Payload) (key : Nat) {r : Reg} (h0 : r ≠ PORT_PEER_SEEN0 p)
    (h1 : r ≠ PORT_PEER_SEEN1 p) (h2 : r ≠ PORT_ROLE p) : (s.noteSeen p c key).rd r = s.rd r := by
  rw [State.noteSeen, State.rd_setFld_other _ _ _ (Ne.symm h2), State.rd_wr_other _ _ (Ne.symm h1),
    State.rd_wr_other _ _ (Ne.symm h0)]

/-- The bytes of the four cells of a hello. -/
def helloBytes (l : List Cell) : List Byte := (List.range 4).flatMap fun i => payBytes (helloPay l i)

theorem helloBytes_eq (l : List Cell) : ∃ r, helloBytes l = payBytes (helloPay l 0) ++ r := by
  exact ⟨_, rfl⟩

theorem State.recordHello_eq (s : State) (p : Nat) (l : List Cell) : ∃ key, s.recordHello p l =
    (s.helloWords p (helloBytes l)).noteSeen p (helloPay l 0) key := ⟨_, rfl⟩

theorem State.recordHello_recorded (s : State) (p : Nat) (l : List Cell) : s.Recorded (s.recordHello p l) p l := by
  obtain ⟨key, h⟩ := s.recordHello_eq p l
  obtain ⟨R, hR⟩ := s.helloWords_eq p (helloBytes l)
  have hrx := s.rd_helloWords p (helloBytes l) (show 1 < 32 by omega)
  have hother := fun r => State.rd_helloWords_other s p (helloBytes l) (r := r)
  rw [h]
  generalize s.helloWords p (helloBytes l) = a at *
  constructor
  case eq =>
    obtain ⟨R', hR'⟩ := a.noteSeen_eq p (helloPay l 0) key
    rw [hR', hR]
    exact ⟨R', rfl⟩
  case rd => exact fun r hr h0 h1 h2 => (a.rd_noteSeen_other _ _ h0 h1 h2).trans (hother r hr)
  case seen => exact a.rd_noteSeen _ _ _
  case rev =>
    obtain ⟨r, hb⟩ := helloBytes_eq l
    rw [a.rd_noteSeen_other _ _ (by simp [PORT_HELLO_RX, PORT_PEER_SEEN0]) (by simp [PORT_HELLO_RX, PORT_PEER_SEEN1])
      (by simp [PORT_HELLO_RX, PORT_ROLE]), hrx, hb]
    exact payNum_of_word _ _

end Sys2Proof.Machine
end

section
/-! The hello exchange and SWITCH_ID settled (O28). -/

namespace Sys2Proof.Machine

/-! ### The revisions of the peer in force -/

/-- A peer of collective revision 4 leaves reductions on: LINK_REV, REDUCE_OFF and FP_DIFF are written, and no entry breaks
(R337). -/
theorem State.applyRevs_only {s : State} {p : Nat} (h : bitsOf (s.rd (PORT_PEER_SEEN0 p)).toNat 56 8 = 4) :
    ∃ diff, ((((s.setFld (PORT_LINK_STAT p) PORT_LINK_STAT_LINK_REV
      (min 3 (bitsOf (s.rd (PORT_HELLO_RX p 1)).toNat 8 8))).setFld (PORT_LINK_STAT p) PORT_LINK_STAT_REDUCE_OFF 0).setFld
        (PORT_LINK_STAT p) PORT_LINK_STAT_FP_DIFF diff).EventOnly (s.applyRevs p)) := by
  unfold State.applyRevs
  extract_lets seen coll peer rev off s1 s2 s3 fp own diff s4
  have hoff : off = false := by
    simp only [off, coll, seen, h]
    rfl
  have h3 : s3 = s1.setFld (PORT_LINK_STAT p) PORT_LINK_STAT_REDUCE_OFF 0 := by
    simp only [s3, s2, hoff, Bool.false_eq_true, if_false]
    rfl
  clear_value s3
  subst h3
  refine ⟨flag diff, ?_⟩
  split
  · exact State.notice_only _ _ _ _ _ _ _
  · exact .refl _

/-- What the revisions in force leave: the fields of PORT_LINK_STAT below FP_DIFF, every other register that no event changes,
the ports, and what grants rest on. -/
structure State.RevsApplied (s t : State) (p : Nat) : Prop where
  rev : t.fld (PORT_LINK_STAT p) PORT_LINK_STAT_LINK_REV = min 3 (bitsOf (s.rd (PORT_HELLO_RX p 1)).toNat 8 8)
  reduce : t.fld (PORT_LINK_STAT p) PORT_LINK_STAT_REDUCE_OFF = 0
  fld : ∀ g : Fld, g.lo + g.width ≤ 50 → t.fld (PORT_LINK_STAT p) g = s.fld (PORT_LINK_STAT p) g
  ports : t.ports = s.ports
  base : s.GrantBase t p

theorem State.applyRevs_applied {s : State} {p : Nat} (h : bitsOf (s.rd (PORT_PEER_SEEN0 p)).toNat 56 8 = 4) :
    s.RevsApplied (s.applyRevs p) p := by
  obtain ⟨diff, he⟩ := State.applyRevs_only h
  generalize hr : min 3 (bitsOf (s.rd (PORT_HELLO_RX p 1)).toNat 8 8) = rev at he
  have hstat : ∀ g, (s.applyRevs p).fld (PORT_LINK_STAT p) g = (((s.setFld (PORT_LINK_STAT p) PORT_LINK_STAT_LINK_REV
      rev).setFld (PORT_LINK_STAT p) PORT_LINK_STAT_REDUCE_OFF 0).setFld (PORT_LINK_STAT p) PORT_LINK_STAT_FP_DIFF
        diff).fld (PORT_LINK_STAT p) g := fun g => by
    rw [State.fld, he.rd _ (quiet_port rfl), State.fld]
  have hfld : ∀ g : Fld, g.lo + g.width ≤ 50 →
      (s.applyRevs p).fld (PORT_LINK_STAT p) g = s.fld (PORT_LINK_STAT p) g := fun g hg => by
    have hg51 : g.lo + g.width ≤ 51 := by omega
    have hg52 : g.lo + g.width ≤ 52 := by omega
    exact (hstat g).trans ((State.fld_setFld_other _ _ _ _ _ _ (by decide) (.inr (.inr hg))).trans
      ((State.fld_setFld_other _ _ _ _ _ _ (by decide) (.inr (.inr hg51))).trans
        (State.fld_setFld_other _ _ _ _ _ _ (by decide) (.inr (.inr hg52)))))
  constructor
  case rev =>
    refine (hstat _).trans ((State.fld_setFld_other _ _ _ _ _ _ (by decide) (.inr (by decide))).trans
      ((State.fld_setFld_other _ _ _ _ _ _ (by decide) (.inr (by decide))).trans
        ((State.fld_setFld_same _ _ _ _ (by decide)).trans ?_)))
    have hlt : rev < 16 := by omega
    rw [hr]
    exact Nat.mod_eq_of_lt hlt
  case reduce =>
    exact (hstat _).trans ((State.fld_setFld_other _ _ _ _ _ _ (by decide) (.inr (by decide))).trans
      (State.fld_setFld_same _ _ _ _ (by decide)))
  case fld => exact hfld
  case ports => simpa using he.ports
  case base =>
    constructor
    case wanted =>
      refine fun v hv => State.wanted_congr ?_ (hfld PORT_LINK_STAT_WIDTH (by decide))
      have hne : PORT_LINK_STAT p ≠ PORT_VC_CREDIT p v := by
        simp [PORT_LINK_STAT, PORT_VC_CREDIT]
        omega
      rw [he.rd (PORT_VC_CREDIT p v) (quiet_port rfl), State.rd_setFld_other _ _ _ hne, State.rd_setFld_other _ _ _ hne,
        State.rd_setFld_other _ _ _ hne]
    case used =>
      exact State.reservedUsed_congr (by simpa using he.slots) (by simpa using he.heldCells) (by simpa using he.expWait) p
    case pool =>
      have hports : (s.applyRevs p).ports = s.ports := by simpa using he.ports
      exact State.grantPool_congr (by simpa using he.laneMap) (by simpa using he.floor) fun q => by
        rw [State.port, hports, State.port]

/-! ### The cases of HELLO_SEND, HELLO_RECEIVE and HELLO_CHECK_COMPLETE -/

section
variable {s : State} {p : Fin 1024} (hon : s.on = true) (hst : s.linkState p = linkHello)
include hon hst

theorem execHelloSend_eq : execHelloSend p s = ok s (s.sendHello p) := by
  unfold execHelloSend
  rw [State.powered_on hon]
  simp [hst]

theorem execHelloTmo_hello : execHelloTmo p s = ok s (s.comeUp p linkQuarantined 9) := by
  unfold execHelloTmo
  rw [State.powered_on hon]
  simp [hst]

theorem execHelloReceive_hcrc {l : List Cell} (h : ∃ c ∈ l, hcrcOk c.h = false) :
    execHelloReceive p l s = ok s ((s.count (PORT_HCRC_ERR p)).replayCell p) := by
  have hbad : (l.any fun c => !hcrcOk c.h) = true := by simpa using h
  unfold execHelloReceive
  rw [State.powered_on hon]
  simp only [State.carries, hst, hbad]
  rfl

variable {l : List Cell} (hgood : ∀ c ∈ l, hcrcOk c.h = true)
include hgood

theorem execHelloReceive_broken (h : helloWhole l = false) :
    execHelloReceive p l s = ok s (s.count (PORT_HELLO_BAD p)) := by
  have hok : (l.any fun c => !hcrcOk c.h) = false := by simpa using hgood
  unfold execHelloReceive
  rw [State.powered_on hon]
  simp only [State.carries, hst, hok, h]
  rfl

/-- A whole hello with a nonce known is queued. -/
theorem execHelloReceive_known (h : helloWhole l = true)
    (hn : BitVec.ofNat 64 (payNum (helloPay l 0) 24 8) = (s.port p).peerNonce) : execHelloReceive p l s =
    ok s (s.modPort p fun x => { x with peerNonce := (s.port p).peerNonce, hellos := x.hellos ++ [l] }) := by
  have hok : (l.any fun c => !hcrcOk c.h) = false := by simpa using hgood
  unfold execHelloReceive
  rw [State.powered_on hon]
  simp only [State.carries, hst, hok, h, hn, bne_self_eq_false]
  rfl

end

/-- The port with its oldest hello taken for its checks. -/
def State.tookHello (s : State) (p : Nat) (r : List (List Cell)) : State := s.modPort p fun x => { x with hellos := r }

@[simp] theorem State.hellos_tookHello (s : State) (p : Nat) (r : List (List Cell)) :
    ((s.tookHello p r).port p).hellos = r := by simp [State.tookHello]

@[simp] theorem State.nonce_tookHello (s : State) (p : Nat) (r : List (List Cell)) :
    ((s.tookHello p r).port p).nonce = (s.port p).nonce := by simp [State.tookHello]

theorem State.tookHello_base (s : State) (p : Nat) (r : List (List Cell)) : s.GrantBase (s.tookHello p r) p where
  wanted _ _ := rfl
  used _ := rfl
  pool := State.grantPool_congr rfl rfl fun q => by
    by_cases h : p = q
    · subst h
      simp [State.tookHello]
    · rw [State.tookHello, State.port_modPort_other _ _ _ h]

/-- Whether the signature of a hello verifies (R336). -/
def helloSigned (l : List Cell) : Bool :=
  ed25519Verify ((payBytes (helloPay l 2)).take 32) ((List.range 3).flatMap fun i => payBytes (helloPay l i))
    (payBytes (helloPay l 3))

/-- The checks of hello `l` in HELLO, its signature verified as `signed` says. -/
def State.checkHello (s : State) (p : Nat) (l : List Cell) (signed : Bool) : State :=
  let inHello := s.linkState p == linkHello
  let c := helloPay l 0
  let fail (s : State) (why : Nat) : State := if inHello then s.comeUp p linkQuarantined why else s
  if !signed then fail (s.count (PORT_HELLO_BAD p)) 5
  else if payNum c 4 1 == 0 && payNum c 0 4 % 4096 == s.switchId &&
      BitVec.ofNat 64 (payNum c 24 8) == (s.port p).nonce then fail s 7
  else
    let s := s.recordHello p l
    match s.helloVerdict p l with
    | none => s
    | some 0 =>
      if inHello then (s.applyRevs p).comeUp p (s.upState p) 0
      else if s.role p == 3 && s.fld (PORT_LINK_STAT p) PORT_LINK_STAT_LINK_REV == 0 then s.applyRevs p
      else s
    | some why => fail s why

theorem execHelloCheckComplete_eq {s : State} {p : Fin 1024} (hon : s.on = true) {l : List Cell} {r : List (List Cell)}
    (hq : (s.port p).hellos = l :: r) :
    execHelloCheckComplete p s = ok s ((s.tookHello p r).checkHello p l (helloSigned l)) := by
  unfold execHelloCheckComplete
  rw [State.powered_on hon]
  simp only [hq]
  rfl

section
variable {s : State} {p : Nat} {l : List Cell}

theorem State.checkHello_unsigned (hst : s.linkState p = linkHello) :
    s.checkHello p l false = (s.count (PORT_HELLO_BAD p)).comeUp p linkQuarantined 5 := by
  simp [State.checkHello, hst]

variable (hrole : payNum (helloPay l 0) 4 1 ≠ 0)
include hrole

/-- A hello that passes check 3 is recorded, and its verdict decides. -/
theorem State.checkHello_wait (hv : (s.recordHello p l).helloVerdict p l = none) :
    s.checkHello p l true = s.recordHello p l := by
  simp [State.checkHello, hrole, hv]

theorem State.checkHello_pass (hst : s.linkState p = linkHello) (hv : (s.recordHello p l).helloVerdict p l = some 0) :
    s.checkHello p l true = ((s.recordHello p l).applyRevs p).comeUp p ((s.recordHello p l).upState p) 0 := by
  simp [State.checkHello, hrole, hv, hst]

end

/-! ### The outcomes of the checks -/

/-- A hello whose signature fails takes the link to QUARANTINED (R336). -/
theorem State.unsigned_quarantined (s : State) (p : Nat) :
    let u := (s.count (PORT_HELLO_BAD p)).comeUp p linkQuarantined 5
    u.linkState p = linkQuarantined ∧ u.fld (PORT_LINK_STAT p) PORT_LINK_STAT_Q_REASON = 5 ∧
      u.rd (PORT_HELLO_BAD p) = s.rd (PORT_HELLO_BAD p) + 1 ∧ (u.port p).hellos = (s.port p).hellos := by
  intro u
  have h := (s.count (PORT_HELLO_BAD p)).comeUp_cameUp p (new := linkQuarantined) (by decide) 5
  refine ⟨h.state, h.reason rfl, ?_, (h.hellos p).trans (by rw [State.port_count])⟩
  rw [h.rd _ (quiet_port rfl) (by simp [PORT_HELLO_BAD, PORT_LINK_STAT]) (by simp [PORT_HELLO_BAD, PORT_RSV_STAT]),
    State.rd_count_same]

theorem State.Recorded.stat {s t : State} {p : Nat} {l : List Cell} (h : s.Recorded t p l) :
    t.rd (PORT_LINK_STAT p) = s.rd (PORT_LINK_STAT p) :=
  h.rd _ (by simp [PORT_HELLO_RX, PORT_LINK_STAT]; omega) (by simp [PORT_LINK_STAT, PORT_PEER_SEEN0])
    (by simp [PORT_LINK_STAT, PORT_PEER_SEEN1]) (by simp [PORT_LINK_STAT, PORT_ROLE])

theorem State.Recorded.expected0 {s t : State} {p : Nat} {l : List Cell} (h : s.Recorded t p l) :
    t.rd (PORT_PEER_EXP0 p) = s.rd (PORT_PEER_EXP0 p) :=
  h.rd _ (by simp [PORT_HELLO_RX, PORT_PEER_EXP0]; omega) (by simp [PORT_PEER_EXP0, PORT_PEER_SEEN0])
    (by simp [PORT_PEER_EXP0, PORT_PEER_SEEN1]) (by simp [PORT_PEER_EXP0, PORT_ROLE])

theorem State.Recorded.expected1 {s t : State} {p : Nat} {l : List Cell} (h : s.Recorded t p l) :
    t.rd (PORT_PEER_EXP1 p) = s.rd (PORT_PEER_EXP1 p) :=
  h.rd _ (by simp [PORT_HELLO_RX, PORT_PEER_EXP1]; omega) (by simp [PORT_PEER_EXP1, PORT_PEER_SEEN0])
    (by simp [PORT_PEER_EXP1, PORT_PEER_SEEN1]) (by simp [PORT_PEER_EXP1, PORT_ROLE])

theorem State.Recorded.port {s t : State} {p : Nat} {l : List Cell} (h : s.Recorded t p l) (q : Nat) :
    t.port q = s.port q := by
  obtain ⟨R, rfl⟩ := h.eq
  rfl

/-- A hello that does not answer the nonce is recorded and waits. -/
theorem State.recordHello_waits (s : State) (p : Nat) (l : List Cell) :
    let u := s.recordHello p l
    u.linkState p = s.linkState p ∧ (u.port p).hellos = (s.port p).hellos ∧
      u.fld (PORT_PEER_SEEN0 p) ⟨0, 17, .ro, 0⟩ = payNum (helloPay l 0) 0 4 % 2 ^ 17 := by
  intro u
  have h := s.recordHello_recorded p l
  refine ⟨?_, by rw [h.port], ?_⟩
  · rw [State.linkState, State.fld, h.stat, State.linkState, State.fld]
  · rw [State.fld, h.seen]
    exact bitsOf_seenOf_id _

theorem State.recordHello_base (s : State) (p : Nat) (l : List Cell) : s.GrantBase (s.recordHello p l) p := by
  have h := s.recordHello_recorded p l
  constructor
  case wanted =>
    refine fun v hv => State.wanted_congr (h.rd _ ?_ ?_ ?_ ?_) (by rw [State.width, State.fld, h.stat, State.width, State.fld])
    · simp only [PORT_HELLO_RX, PORT_VC_CREDIT, ne_eq, Reg.mk.injEq, true_and]
      omega
    · simp only [PORT_PEER_SEEN0, PORT_VC_CREDIT, ne_eq, Reg.mk.injEq, true_and]
      omega
    · simp only [PORT_PEER_SEEN1, PORT_VC_CREDIT, ne_eq, Reg.mk.injEq, true_and]
      omega
    · simp only [PORT_ROLE, PORT_VC_CREDIT, ne_eq, Reg.mk.injEq, true_and]
      omega
  case used =>
    obtain ⟨R, hR⟩ := h.eq
    rw [hR]
    exact fun _ => rfl
  case pool =>
    obtain ⟨R, hR⟩ := h.eq
    rw [hR]
    rfl

/-- The checks 4 to 8 that a hello passes which answers the nonce, speaks a revision in common, and names the port's width,
when no peer and no key are expected (Table 12-6). -/
theorem State.helloVerdict_pass {s : State} {p : Nat} {l : List Cell}
    (hn : BitVec.ofNat 64 (payNum (helloPay l 0) 32 8) = (s.port p).nonce)
    (hrev : max 2 (payNum (helloPay l 0) 8 1) ≤ min 3 (payNum (helloPay l 0) 9 1))
    (he : bitOf (s.rd (PORT_PEER_EXP0 p)).toNat 63 = false) (hd : s.rd (PORT_PEER_EXP1 p) = 0)
    (hw : payNum (helloPay l 0) 5 1 = s.width p) : s.helloVerdict p l = some 0 := by
  have hlow : ¬ min 3 (payNum (helloPay l 0) 9 1) < max 2 (payNum (helloPay l 0) 8 1) := by omega
  simp [State.helloVerdict, hn, hlow, he, hd, hw]

/-- A link that comes up after a hello of collective revision 4 that passed every check (R72, R73, R336, R337). -/
theorem State.hello_passes {s : State} {p : Nat} {l : List Cell} (hc : payNum (helloPay l 0) 10 1 = 4) :
    let u := ((s.recordHello p l).applyRevs p).comeUp p ((s.recordHello p l).upState p) 0
    u.linkState p = (if s.width p = s.widthMap p then linkUp else linkDegraded) ∧
    u.fld (PORT_LINK_STAT p) PORT_LINK_STAT_LINK_REV = min 3 (payNum (helloPay l 0) 9 1) ∧
    u.bit (PORT_LINK_STAT p) PORT_LINK_STAT_REDUCE_OFF = false ∧ (u.port p).hellos = (s.port p).hellos ∧
    (s.wanted p 0 ≤ s.grantPool → (u.vc p 0).granted = s.wanted p 0) ∧
    ∀ v < 16, ((u.vc p v).granted = s.wanted p v ∨ (u.vc p v).granted = 8) ∧
      (u.vc p v).cred = (u.vc p v).granted - s.reservedUsed p v := by
  intro u
  have hrec := s.recordHello_recorded p l
  have happ : (s.recordHello p l).RevsApplied ((s.recordHello p l).applyRevs p) p :=
    State.applyRevs_applied (by rw [hrec.seen, bitsOf_seenOf_coll, hc])
  have hbase := (s.recordHello_base p l).trans happ.base
  have hup : (s.recordHello p l).upState p = if s.width p = s.widthMap p then linkUp else linkDegraded := by
    simp only [State.upState, State.width, State.widthMap, State.fld, hrec.stat]
    rfl
  have hnew : (s.recordHello p l).upState p = linkUp ∨ (s.recordHello p l).upState p = linkDegraded := by
    rw [hup]
    split
    · exact .inl rfl
    · exact .inr rfl
  have hcame := ((s.recordHello p l).applyRevs p).comeUp_cameUp p (new := (s.recordHello p l).upState p)
    (by rcases hnew with h | h <;> rw [h] <;> decide) 0
  have hgranted := fun v hv => hcame.granted v hv
  refine ⟨?_, ?_, ?_, ?_, fun hfit => ?_, fun v hv => ?_⟩
  · rw [← hup]
    refine hcame.state.trans (Nat.mod_eq_of_lt ?_)
    rcases hnew with h | h <;> rw [h] <;> decide
  · rw [hcame.fld _ (by decide) (by decide), happ.rev, hrec.rev]
  · rw [State.bit, hcame.fld _ (by decide) (by decide), happ.reduce]
    rfl
  · rw [hcame.hellos, State.port, happ.ports, ← State.port, hrec.port]
  · rw [(hgranted 0 (by decide)).first rfl (by rwa [hbase.wanted 0 (by decide), hbase.pool]), hbase.wanted 0 (by decide)]
  · have h := hgranted v hv
    exact ⟨by rw [← hbase.wanted v hv]; exact h.granted, by rw [← hbase.used]; exact h.cred⟩

/-! ### SWITCH_ID -/

theorem execSwitchIdWrite_eq {s : State} (hon : s.on = true) (v : Word) :
    execSwitchIdWrite v s = ok s (s.switchIdWrite v.toNat) := by
  unfold execSwitchIdWrite
  rw [State.powered_on hon]

theorem State.switchIdWrite_free {s : State} (h : ∀ p < 1024, s.carries p = false) (v : Nat) :
    s.switchIdWrite v = s.setFld ROUTE_SWITCH_ID ROUTE_SWITCH_ID_SWITCH_ID v := by
  have hany : (List.range 1024).any s.carries = false := by simpa using h
  rw [State.switchIdWrite, if_neg (by simp [hany])]

theorem State.switchIdWrite_refused {s : State} {p : Nat} (hp : p < 1024) (h : s.carries p = true) (v : Nat) :
    s.switchIdWrite v = s.notice 0 0x0004 (sourceOf 4 0) v :=
  if_pos (List.any_eq_true.mpr ⟨p, List.mem_range.mpr hp, h⟩)

/-- The checks of the oldest hello when it passes them all (R336, R337): the link comes up. -/
theorem helloCheckComplete_pass {s : State} {p : Fin 1024} (hon : s.on = true) (hst : s.linkState p = linkHello)
    {l : List Cell} {r : List (List Cell)} (hq : (s.port p).hellos = l :: r) (hsig : helloSigned l = true)
    (hrole : payNum (helloPay l 0) 4 1 ≠ 0) (hn : BitVec.ofNat 64 (payNum (helloPay l 0) 32 8) = (s.port p).nonce)
    (hc : payNum (helloPay l 0) 10 1 = 4)
    (hrev : max 2 (payNum (helloPay l 0) 8 1) ≤ min 3 (payNum (helloPay l 0) 9 1))
    (he : bitOf (s.rd (PORT_PEER_EXP0 p)).toNat 63 = false) (hd : s.rd (PORT_PEER_EXP1 p) = 0)
    (hw : payNum (helloPay l 0) 5 1 = s.width p) : Gives (.helloCheckComplete p) s fun u =>
      u.linkState p = (if s.width p = s.widthMap p then linkUp else linkDegraded) ∧
      u.fld (PORT_LINK_STAT p) PORT_LINK_STAT_LINK_REV = min 3 (payNum (helloPay l 0) 9 1) ∧
      u.bit (PORT_LINK_STAT p) PORT_LINK_STAT_REDUCE_OFF = false ∧ (u.port p).hellos = r ∧
      (s.wanted p 0 ≤ s.grantPool → (u.vc p 0).granted = s.wanted p 0) ∧
      ∀ v < 16, ((u.vc p v).granted = s.wanted p v ∨ (u.vc p v).granted = 8) ∧
        (u.vc p v).cred = (u.vc p v).granted - s.reservedUsed p v := by
  have hrec := (s.tookHello p r).recordHello_recorded p l
  have hv : ((s.tookHello p r).recordHello p l).helloVerdict p l = some 0 := by
    refine State.helloVerdict_pass ?_ hrev ?_ ?_ ?_
    · rw [hrec.port, s.nonce_tookHello]
      exact hn
    · rw [hrec.expected0]
      exact he
    · rw [hrec.expected1]
      exact hd
    · rw [State.width, State.fld, hrec.stat]
      exact hw
  have hbase := s.tookHello_base p r
  refine gives_ok (execHelloCheckComplete_eq hon hq) ?_
  rw [hsig, State.checkHello_pass (s := s.tookHello p r) hrole hst hv]
  obtain ⟨hstate, hlrev, hred, hhellos, hfirst, hvcs⟩ := State.hello_passes (s := s.tookHello p r) (p := p) hc
  rw [hbase.wanted 0 (by decide), hbase.pool] at hfirst
  rw [State.linkState_commit, State.fld_commit, State.bit_commit, State.port_commit]
  refine ⟨hstate, hlrev, hred, hhellos.trans (s.hellos_tookHello p r), fun hfit => ?_, fun v hv => ?_⟩
  · rw [State.vc_commit]
    exact hfirst hfit
  · rw [State.vc_commit, ← hbase.wanted v hv, ← hbase.used]
    exact hvcs v hv

/-- Settles O28: hellos sent, received and checked, and the writes of SWITCH_ID. -/
theorem linkHello_holds : Obligations.LinkHello := by
  refine ⟨fun s p hon hst => ⟨fun hid hsafe hcut => ?_, fun hsafe => ?_, fun l hgood hbroken => ?_, fun l hbad hask => ?_,
    fun l hgood hwhole hn => ?_, ?_, fun l r hq => ⟨fun hsig => ?_, fun hsig hrole hn => ?_, ?_⟩⟩,
    fun s v hon => ⟨fun hfree => ?_, fun p hp hcar => ?_⟩⟩
  · refine gives_ok (execHelloSend_eq hon hst) ?_
    obtain ⟨hbits, hother, hrd⟩ := State.sendHello_keeps hid hsafe hcut
    refine ⟨hbits, ?_, hother⟩
    rw [State.linkState_commit, State.linkState, State.fld, hrd _ (by simp [PORT_LINK_STAT, SEC_SIGN_REFUSED])]
    exact hst
  · change execHelloSend p s = .next s
    rw [execHelloSend_eq hon hst, State.sendHello_blocked hsafe, ok_self]
  · refine gives_ok (execHelloReceive_broken hon hst hgood hbroken) ?_
    rw [State.rd_commit, State.port_commit, State.port_count]
    exact ⟨s.rd_count_same _, rfl⟩
  · refine gives_ok (execHelloReceive_hcrc hon hst hbad) ?_
    have h := State.replayCell_asked (s := s.count (PORT_HCRC_ERR p)) (p := p) (by rwa [State.port_count])
    simp only [State.rd_commit, State.port_commit]
    refine ⟨?_, ?_, h.hellos.trans (by rw [State.port_count]), h.asked⟩
    · rw [h.rd _ (by simp [PORT_HCRC_ERR, PORT_REPLAY_REQ]), State.rd_count_same]
    · rw [h.rd _ (by simp [PORT_HELLO_BAD, PORT_REPLAY_REQ]), State.rd_count_other _ _ (by simp [PORT_HCRC_ERR, PORT_HELLO_BAD])]
  · refine gives_ok (execHelloReceive_known hon hst hgood hwhole hn) ?_
    rw [State.port_commit, State.port_modPort]
    exact ⟨rfl, rfl⟩
  · refine gives_ok (execHelloTmo_hello hon hst) ?_
    have h := s.comeUp_cameUp p (new := linkQuarantined) (by decide) 9
    rw [State.linkState_commit, State.fld_commit]
    exact ⟨h.state, h.reason rfl⟩
  · refine gives_ok (execHelloCheckComplete_eq hon hq) ?_
    rw [show helloSigned l = false from hsig, State.checkHello_unsigned (s := s.tookHello p r) hst]
    obtain ⟨hstate, hreason, hbad, hhellos⟩ := (s.tookHello p r).unsigned_quarantined p
    rw [State.linkState_commit, State.fld_commit, State.rd_commit, State.port_commit]
    exact ⟨hstate, hreason, hbad, hhellos.trans (s.hellos_tookHello p r)⟩
  · refine gives_ok (execHelloCheckComplete_eq hon hq) ?_
    have hv : ((s.tookHello p r).recordHello p l).helloVerdict p l = none := by
      rw [State.helloVerdict, ((s.tookHello p r).recordHello_recorded p l).port, s.nonce_tookHello]
      exact if_pos (by simpa using hn)
    rw [show helloSigned l = true from hsig, State.checkHello_wait hrole hv]
    obtain ⟨hstate, hhellos, hseen⟩ := (s.tookHello p r).recordHello_waits p l
    rw [State.linkState_commit, State.fld_commit, State.port_commit]
    exact ⟨hstate.trans hst, hhellos.trans (s.hellos_tookHello p r), hseen⟩
  · exact fun hsig hrole hn hc hrev he hd hw => helloCheckComplete_pass hon hst hq hsig hrole hn hc hrev he hd hw
  · refine gives_ok (execSwitchIdWrite_eq hon v) ?_
    rw [State.switchIdWrite_free hfree]
    refine ⟨?_, fun r hr => s.rd_setFld_other _ _ (Ne.symm hr), rfl⟩
    exact (s.fld_setFld_same _ _ _ (by decide)).trans (by simp [bitsOf_eq, ROUTE_SWITCH_ID_SWITCH_ID])
  · refine gives_ok (execSwitchIdWrite_eq hon v) ?_
    rw [State.switchIdWrite_refused hp hcar, State.rd_commit]
    refine ⟨?_, s.events_notice_zero _ _ _ _ _⟩
    exact congrArg (fun w : Word => bitsOf w.toNat _ _) ((s.notice_only 0 _ _ _ _ _).rd ROUTE_SWITCH_ID (by simp [Reg.quiet, ROUTE_SWITCH_ID]))

end Sys2Proof.Machine
end

section
/-! A ring command that completes (O46): its turn, its body, its entry finished, the rings behind it at rest. -/

namespace Sys2Proof.Machine

/-! ### Rings with an entry to take -/

/-- Ring `r` of context `c` has an entry to take. -/
def State.ringWaits (s : State) (c r : Nat) : Bool :=
  decide (s.ctxState c ≠ 0) && ((s.ring? c r).any (fun x => x.head != x.tail) && !s.ringHalted c r)

theorem Table.get_of_not_mem {α : Type} (d : α) (t : List (Nat × α)) (k : Nat) (h : k ∉ t.map Prod.fst) :
    Table.get d t k = d := by
  induction t with
  | nil => rfl
  | cons e t ih =>
    obtain ⟨k', v⟩ := e
    simp only [List.map_cons, List.mem_cons, not_or] at h
    rw [Table.get, if_neg (Ne.symm h.1), ih h.2]

/-- A context that holds a ring is listed, but for the ring of the device. -/
theorem State.listed_of_ring {s : State} {c r : Nat} {x : Ring} (h : s.ring? c r = some x) :
    c ∈ 0 :: (s.ctxs.map Prod.fst).filter (· != 0) := by
  by_cases hc : c = 0
  · simp [hc]
  · by_contra hmem
    have hnot : c ∉ s.ctxs.map Prod.fst := fun hin => hmem (by simp [hin, hc])
    rw [State.ring?, State.ctx, Table.get_of_not_mem _ _ _ hnot] at h
    simp [Ctx.init, Table.look, hc] at h

theorem State.mem_ringNumbers {s : State} {c r : Nat} : r ∈ s.ringNumbers c ↔ r < 64 ∧ (s.ring? c r).isSome = true := by
  simp [State.ringNumbers]

theorem State.mem_ringWork {s : State} {k : Nat} :
    k ∈ s.ringWork ↔ ∃ c r, r < 64 ∧ k = ringRank c r ∧ s.ringWaits c r = true := by
  unfold State.ringWork
  rw [List.mem_flatMap]
  constructor
  · rintro ⟨c, -, hk⟩
    split at hk
    · simp at hk
    next hst =>
      obtain ⟨r, hr, rfl⟩ := List.mem_map.mp hk
      obtain ⟨hnum, hw⟩ := List.mem_filter.mp hr
      exact ⟨c, r, (State.mem_ringNumbers.mp hnum).1, rfl, by simpa [State.ringWaits, hst] using hw⟩
  · rintro ⟨c, r, hr, rfl, hw⟩
    simp only [State.ringWaits, Bool.and_eq_true, decide_eq_true_eq] at hw
    obtain ⟨hst, hany, hhalt⟩ := hw
    cases hx : s.ring? c r with
    | none => simp [hx] at hany
    | some x =>
      refine ⟨c, State.listed_of_ring hx, ?_⟩
      rw [if_neg hst]
      exact List.mem_map_of_mem (List.mem_filter.mpr ⟨State.mem_ringNumbers.mpr ⟨hr, by simp [hx]⟩, by
        rw [hx] at hany
        simp [hx, hany, hhalt]⟩)

theorem ringRank_inj {c r c' r' : Nat} (hr : r < 64) (hr' : r' < 64) (h : ringRank c r = ringRank c' r') : c = c' ∧ r = r' := by
  unfold ringRank at h
  omega

/-! ### What leaves the rings as they are -/

/-- The contexts with their rings, and the registers of the contexts, are as before. -/
structure State.RingsKept (s t : State) : Prop where
  ctxs : t.ctxs = s.ctxs
  rd : ∀ r, r.blk = 17 → t.rd r = s.rd r

theorem State.RingsKept.refl (s : State) : s.RingsKept s := ⟨rfl, fun _ _ => rfl⟩

theorem State.RingsKept.trans {a b c : State} (h : a.RingsKept b) (k : b.RingsKept c) : a.RingsKept c :=
  ⟨k.ctxs.trans h.ctxs, fun r hr => (k.rd r hr).trans (h.rd r hr)⟩

theorem State.EventOnly.ringsKept {s t : State} (h : s.EventOnly t) : s.RingsKept t :=
  ⟨h.ctxs, fun r hr => h.rd r (by simp [Reg.quiet, hr])⟩

theorem State.RingsKept.ctxState {s t : State} (h : s.RingsKept t) (c : Nat) : t.ctxState c = s.ctxState c := by
  simp only [State.ctxState, State.fld, h.rd (CTX_STATE c) rfl]

theorem State.RingsKept.ringHalted {s t : State} (h : s.RingsKept t) (c r : Nat) : t.ringHalted c r = s.ringHalted c r := by
  simp only [State.ringHalted, h.ctxState, h.rd (CTX_RING_HALT c) rfl]

theorem State.RingsKept.ring? {s t : State} (h : s.RingsKept t) (c r : Nat) : t.ring? c r = s.ring? c r := by
  simp only [State.ring?, State.ctx, h.ctxs]

theorem State.RingsKept.ringWaits {s t : State} (h : s.RingsKept t) (c r : Nat) : t.ringWaits c r = s.ringWaits c r := by
  simp only [State.ringWaits, h.ctxState, h.ring?, h.ringHalted]

theorem State.ring?_setRing (s : State) (c r : Nat) (x : Ring) : (s.setRing c r x).ring? c r = some x := by
  simp [State.ring?, State.setRing, State.modCtx, State.setCtx, State.ctx]

theorem State.ring?_setRing_other (s : State) {c r c' r' : Nat} (x : Ring) (h : (c', r') ≠ (c, r)) :
    (s.setRing c r x).ring? c' r' = s.ring? c' r' := by
  by_cases hc : c = c'
  · subst hc
    have hr : r ≠ r' := fun e => h (by rw [e])
    simp [State.ring?, State.setRing, State.modCtx, State.setCtx, State.ctx, Table.look_put, hr]
  · simp [State.ring?, State.setRing, State.modCtx, State.setCtx, State.ctx, Table.get_set, hc]

/-- A ring whose TAIL is met has nothing to take; the others stand as before. -/
theorem State.ringWaits_setRing (s : State) {c r : Nat} {x : Ring} (hx : x.head = x.tail) (c' r' : Nat) :
    (s.setRing c r x).ringWaits c' r' = (decide ((c', r') ≠ (c, r)) && s.ringWaits c' r') := by
  have hst : (s.setRing c r x).ctxState c' = s.ctxState c' := rfl
  have hhalt : (s.setRing c r x).ringHalted c' r' = s.ringHalted c' r' := rfl
  by_cases h : (c', r') = (c, r)
  · obtain ⟨rfl, rfl⟩ := Prod.mk.inj h
    simp [State.ringWaits, State.ring?_setRing, hx]
  · simp only [State.ringWaits, hst, hhalt, s.ring?_setRing_other x h, ne_eq, h, not_false_eq_true, decide_true,
      Bool.true_and]

/-! ### The bytes of an entry -/

theorem State.ringPut_high {s : State} {a : Nat} (h : 2 ^ 31 ≤ a) (l : List Byte) : s.ringPut a l = s.put a l := by
  rw [State.ringPut, State.wake, if_neg (by omega)]

theorem State.read_put_out (s : State) {a x : Nat} {l : List Byte} (h : x < a ∨ a + l.length ≤ x) :
    Memory.read (s.put a l).mem x = Memory.read s.mem x := Memory.read_writeBytes_out l s.mem a x h

theorem State.load_congr {s t : State} {a n : Nat} (h : ∀ i < n, Memory.read t.mem (a + i) = Memory.read s.mem (a + i)) :
    t.load a n = s.load a n := by
  unfold State.load State.bytes
  congr 1
  exact List.map_congr_left fun i hi => h i (List.mem_range.mp hi)

theorem State.load_put_same (s : State) (a : Nat) (l : List Byte) : (s.put a l).load a l.length = ofBytes l :=
  congrArg ofBytes (s.bytes_setBytes a l)

theorem State.load_put_other (s : State) {a b n : Nat} {l : List Byte} (h : b + n ≤ a ∨ a + l.length ≤ b) :
    (s.put a l).load b n = s.load b n :=
  State.load_congr fun i hi => s.read_put_out (by omega)

/-- Poison only shrinks under a write of whole bytes. -/
theorem State.poisoned_put {s : State} {b n : Nat} (h : s.poisoned b n = false) (a : Nat) (l : List Byte) :
    (s.put a l).poisoned b n = false := by
  simp only [State.poisoned, List.any_eq_false] at h ⊢
  exact fun p hp => h p (List.mem_of_mem_filter hp)

theorem State.put_ringsKept (s : State) (a : Nat) (l : List Byte) : s.RingsKept (s.put a l) := ⟨rfl, fun _ _ => rfl⟩

/-! ### An entry finished with OK -/

/-- STATUS, DONE and HEAD of the entry at `index` written (R355). -/
def State.entryDone (s : State) (x : Ring) (index : Nat) : State :=
  ((s.put (x.entry index + 3) (toBytes 1 0)).put (x.entry index + 4) (toBytes 1 1)).put (x.base + 8) (toBytes 8 (index + 1))

theorem Ring.entry_bounds (x : Ring) (i : Nat) :
    x.base + 64 ≤ x.entry i ∧ x.entry i + 64 ≤ x.base + 64 + 64 * 2 ^ x.order := by
  have h : i % 2 ^ x.order < 2 ^ x.order := Nat.mod_lt _ (Nat.two_pow_pos _)
  unfold Ring.entry
  omega

theorem State.entryDone_loads (s : State) (x : Ring) {index : Nat} (h : index + 1 < 2 ^ 64) :
    (s.entryDone x index).load (x.entry index + 3) 1 = 0 ∧ (s.entryDone x index).load (x.entry index + 4) 1 = 1 ∧
      (s.entryDone x index).load (x.base + 8) 8 = index + 1 := by
  obtain ⟨hlo, -⟩ := x.entry_bounds index
  have h1 : (toBytes 1 0).length = 1 := toBytes_length 1 0
  have h1' : (toBytes 1 1).length = 1 := toBytes_length 1 1
  have h8 : (toBytes 8 (index + 1)).length = 8 := toBytes_length 8 _
  unfold State.entryDone
  refine ⟨?_, ?_, ?_⟩
  · rw [State.load_put_other _ (by omega), State.load_put_other _ (by omega)]
    exact (State.load_put_same _ _ (toBytes 1 0)).trans (ofBytes_toBytes 1 0)
  · rw [State.load_put_other _ (by omega)]
    exact (State.load_put_same _ _ (toBytes 1 1)).trans (ofBytes_toBytes 1 1)
  · have := State.load_put_same ((s.put (x.entry index + 3) (toBytes 1 0)).put (x.entry index + 4) (toBytes 1 1)) (x.base + 8)
      (toBytes 8 (index + 1))
    rw [h8, ofBytes_toBytes] at this
    rw [this]
    omega

theorem State.read_entryDone (s : State) (x : Ring) (index : Nat) {a : Nat}
    (h : a < x.base ∨ x.base + 64 + 64 * 2 ^ x.order ≤ a) :
    Memory.read (s.entryDone x index).mem a = Memory.read s.mem a := by
  obtain ⟨hlo, hhi⟩ := x.entry_bounds index
  have h1 : (toBytes 1 0).length = 1 := toBytes_length 1 0
  have h1' : (toBytes 1 1).length = 1 := toBytes_length 1 1
  have h8 : (toBytes 8 (index + 1)).length = 8 := toBytes_length 8 _
  unfold State.entryDone
  rw [State.read_put_out _ (by omega), State.read_put_out _ (by omega), State.read_put_out _ (by omega)]

/-- What finishing the entry of `k` on ring `x` leaves of the state `t` after its body. -/
structure State.Completed (t u : State) (k : RingCmd) (x : Ring) : Prop where
  finished : u.Finished k x 0
  read : ∀ a, a < x.base ∨ x.base + 64 + 64 * 2 ^ x.order ≤ a → Memory.read u.mem a = Memory.read t.mem a
  poisoned : ∀ a n, t.poisoned a n = false → u.poisoned a n = false
  rd : ∀ r, r ≠ HP_EVT_LOST → r ≠ CDC_STATE 4 → u.rd r = t.rd r
  mirrors : u.mirrors = t.mirrors
  pools : u.pools = t.pools
  owners : u.owners = t.owners

theorem State.Completed.load {t u : State} {k : RingCmd} {x : Ring} (h : t.Completed u k x) {a n : Nat} (ha : x.Apart a n) :
    u.load a n = t.load a n :=
  State.load_congr fun i hi => h.read _ (by unfold Ring.Apart at ha; omega)

/-- The state behind an entry that completed: its ring's HEAD and the pass move on. -/
def State.movedOn (s : State) (c r : Nat) (x : Ring) (index : Nat) : State :=
  (s.setRing c r { x with head := (index + 1) % 2 ^ 64 }).putRingPass (ringRank c r + 1)

section
variable (s : State) (c r : Nat) (x : Ring) (i : Nat)

@[simp] theorem State.movedOn_mem : (s.movedOn c r x i).mem = s.mem := rfl
@[simp] theorem State.movedOn_poison : (s.movedOn c r x i).poison = s.poison := rfl
@[simp] theorem State.movedOn_mirrors : (s.movedOn c r x i).mirrors = s.mirrors := rfl
@[simp] theorem State.movedOn_pools : (s.movedOn c r x i).pools = s.pools := rfl
@[simp] theorem State.movedOn_owners : (s.movedOn c r x i).owners = s.owners := rfl
theorem State.rd_movedOn (q : Reg) : (s.movedOn c r x i).rd q = s.rd q := rfl
theorem State.rd_put (a : Nat) (l : List Byte) (q : Reg) : (s.put a l).rd q = s.rd q := rfl
theorem State.rd_entryDone (q : Reg) : (s.entryDone x i).rd q = s.rd q := by
  rw [State.entryDone, State.rd_put, State.rd_put, State.rd_put]

end

theorem State.poisoned_entryDone {s : State} {a n : Nat} (h : s.poisoned a n = false) (x : Ring) (i : Nat) :
    (s.entryDone x i).poisoned a n = false :=
  State.poisoned_put (State.poisoned_put (State.poisoned_put h _ _) _ _) _ _

theorem State.finishEntry_ok {t : State} {c r : Nat} {x : Ring} (hx : 2 ^ 31 ≤ x.base) (op index cookie : Nat) (event : Bool) :
    ((t.entryDone x index).movedOn c r x index).EventOnly (t.finishEntry c r x op index cookie event 0) ∧
    ((t.entryDone x index).movedOn c r x index).PostOnly (t.finishEntry c r x op index cookie event 0) := by
  obtain ⟨hlo, -⟩ := x.entry_bounds index
  unfold State.finishEntry
  simp only [if_true]
  rw [State.ringPut_high (by omega), State.ringPut_high (by omega), State.ringPut_high (by omega)]
  cases event
  · exact ⟨.refl _, .refl _⟩
  · exact ⟨State.postPlain_only _ _ _ _ _ _, State.post_postOnly _ _⟩

/-- With nothing to take, the rings stay. -/
theorem State.sweepRings_idle {s : State} (h : s.ringWork = []) : s.sweepRings = s := by
  rw [State.sweepRings, h]
  rfl

theorem State.nextRing_one {s : State} {n : Nat} (h : s.ringWork = [n]) : s.nextRing = some n := by
  rw [State.nextRing, h]
  by_cases hn : s.ringPass ≤ n <;> simp [hn]

theorem State.Posted.head {s : State} {k : RingCmd} {op : Nat} {x : Ring} (h : s.Posted k op x) : x.head = k.index.toNat := by
  have he := h.entry
  simp only [State.entryIs, Bool.and_eq_true, beq_iff_eq] at he
  exact he.1.1.1.1

/-- The body of a command whose turn it is runs, and its entry is finished. -/
theorem State.command_eq {s t : State} {k : RingCmd} {x : Ring} {op : Nat} {device : Bool} {body : State → Nat × State}
    (hp : s.Posted k op x) (hopen : s.ctxState k.ctx.toNat = 1) (hdev : device = true ↔ k.ctx.toNat = 0)
    (hbody : body s = (0, t)) : s.command k op device body =
      (t.finishEntry k.ctx.toNat k.ring.val x op k.index.toNat k.cookie.toNat k.event 0).sweepRings := by
  have hfor : ¬ (device = true ∧ ¬ k.ctx.toNat = 0) := fun h => h.2 (hdev.mp h.1)
  have hown : ¬ (device = false ∧ k.ctx.toNat = 0 ∧ ¬ op = 2) := fun h => by
    rw [hdev.mpr h.2.1] at h
    exact Bool.noConfusion h.1
  unfold State.command
  simp [hp.ring, State.nextRing_one hp.turn, hp.entry, hopen, hbody, hp.head, hfor, and_assoc, hown]

/-- Behind an entry that completed, no ring has an entry to take: its own has met TAIL, the others had none. -/
theorem State.Posted.rest {s t u : State} {k : RingCmd} {op : Nat} {x : Ring} (hp : s.Posted k op x) (hkept : s.RingsKept t)
    (hu : (t.movedOn k.ctx.toNat k.ring.val x k.index.toNat).RingsKept u) : u.ringWork = [] := by
  have hmet : ({ x with head := (k.index.toNat + 1) % 2 ^ 64 } : Ring).head =
      ({ x with head := (k.index.toNat + 1) % 2 ^ 64 } : Ring).tail := (Nat.mod_eq_of_lt hp.fits).trans hp.tail.symm
  refine List.eq_nil_iff_forall_not_mem.mpr fun n hn => ?_
  obtain ⟨c, r, hr, -, hw⟩ := State.mem_ringWork.mp hn
  rw [hu.ringWaits] at hw
  have hmoved : (t.movedOn k.ctx.toNat k.ring.val x k.index.toNat).ringWaits c r =
      (decide ((c, r) ≠ (k.ctx.toNat, k.ring.val)) && t.ringWaits c r) := t.ringWaits_setRing hmet c r
  rw [hmoved, hkept.ringWaits, Bool.and_eq_true, decide_eq_true_eq] at hw
  obtain ⟨hne, hw⟩ := hw
  have hin : ringRank c r ∈ s.ringWork := State.mem_ringWork.mpr ⟨c, r, hr, rfl, hw⟩
  rw [hp.turn, List.mem_singleton] at hin
  obtain ⟨rfl, rfl⟩ := ringRank_inj hr k.ring.isLt hin
  exact hne rfl

/-- A command whose turn it is runs its body and completes with OK; no entry stands behind it. -/
theorem State.command_completes {s t : State} {k : RingCmd} {x : Ring} {op : Nat} {device : Bool} {body : State → Nat × State}
    (hp : s.Posted k op x) (hopen : s.ctxState k.ctx.toNat = 1) (hdev : device = true ↔ k.ctx.toNat = 0)
    (hbody : body s = (0, t)) (hkept : s.RingsKept t) : t.Completed (s.command k op device body) k x := by
  have hdone : s.RingsKept (t.entryDone x k.index.toNat) :=
    ((hkept.trans (State.put_ringsKept _ _ _)).trans (State.put_ringsKept _ _ _)).trans (State.put_ringsKept _ _ _)
  obtain ⟨hevent, hpost⟩ := State.finishEntry_ok (t := t) (c := k.ctx.toNat) (r := k.ring.val) hp.place op k.index.toNat
    k.cookie.toNat k.event
  rw [State.command_eq hp hopen hdev hbody, State.sweepRings_idle (hp.rest hdone hevent.ringsKept)]
  generalize t.finishEntry k.ctx.toNat k.ring.val x op k.index.toNat k.cookie.toNat k.event 0 = u at hevent hpost
  have hmem : u.mem = (t.entryDone x k.index.toNat).mem := by rw [hpost.mem, State.movedOn_mem]
  have hload : ∀ a n, u.load a n = (t.entryDone x k.index.toNat).load a n := fun a n =>
    State.load_congr fun i _ => by rw [hmem]
  obtain ⟨h1, h2, h3⟩ := t.entryDone_loads x hp.fits
  constructor
  case finished => exact ⟨(hload _ _).trans h1, (hload _ _).trans h2, (hload _ _).trans h3⟩
  case read => exact fun a ha => by rw [hmem, t.read_entryDone x _ ha]
  case poisoned =>
    intro a n hclean
    rw [State.poisoned, hevent.poison, State.movedOn_poison]
    exact State.poisoned_entryDone hclean x _
  case rd => exact fun r hr1 hr2 => by rw [hpost.rd r hr1 hr2, State.rd_movedOn, State.rd_entryDone]
  case mirrors => simp [hevent.mirrors, State.entryDone]
  case pools => simp [hevent.pools, State.entryDone]
  case owners => simp [hevent.owners, State.entryDone]

end Sys2Proof.Machine
end

section
/-! The rings stand through everything that follows from a broken circuit (R42): the rules about memory, tiles and
pools, one per function of the model, in the order of its definitions. -/

namespace Sys2Proof.Machine

/-! ### State operations that leave the rings as they are -/

theorem State.RingsKept.of_same {s t : State} (hctxs : t.ctxs = s.ctxs) (hregs : t.regs = s.regs) : s.RingsKept t :=
  ⟨hctxs, fun _ _ => State.rd_congr hregs _⟩

theorem State.RingsKept.foldl {β : Type} {f : State → β → State} (h : ∀ (s : State) b, s.RingsKept (f s b)) (l : List β)
    (s : State) : s.RingsKept (l.foldl f s) := by
  induction l generalizing s with
  | nil => exact .refl _
  | cons b l ih => exact (h s b).trans (ih _)

section
variable (s : State)

theorem State.wr_ringsKept {q : Reg} (v : Word) (h : q.blk ≠ 17) : s.RingsKept (s.wr q v) :=
  ⟨rfl, fun _ hr => s.rd_wr_other v fun e => h (e ▸ hr)⟩

theorem State.setFld_ringsKept {q : Reg} (f : Fld) (v : Nat) (h : q.blk ≠ 17) : s.RingsKept (s.setFld q f v) :=
  s.wr_ringsKept _ h

theorem State.count_ringsKept {q : Reg} (n : Nat) (h : q.blk ≠ 17) : s.RingsKept (s.count q n) :=
  s.wr_ringsKept _ h

theorem State.notice_ringsKept (cls cause src detail qual : Nat) (ctx : Option Nat) :
    s.RingsKept (s.notice cls cause src detail qual ctx) := (s.notice_only cls cause src detail qual ctx).ringsKept

theorem State.raise_ringsKept (e : Ev) (g : Option Nat) : s.RingsKept (s.raise e g) := (s.raise_only e g).ringsKept

theorem State.store_ringsKept (a n v : Nat) : s.RingsKept (s.store a n v) := .of_same rfl rfl
theorem State.setBytes_ringsKept (a : Nat) (l : List Byte) : s.RingsKept (s.setBytes a l) := .of_same rfl rfl
theorem State.setCircuit_ringsKept (l : Nat) (c : Circuit) : s.RingsKept (s.setCircuit l c) := s.store_ringsKept _ _ _
theorem State.modTile_ringsKept (t : Nat) (f : Tile → Tile) : s.RingsKept (s.modTile t f) := .of_same rfl rfl
theorem State.modThread_ringsKept (t h : Nat) (f : Thread → Thread) : s.RingsKept (s.modThread t h f) := .of_same rfl rfl
theorem State.setPool_ringsKept (k : Nat) (x : Pool) : s.RingsKept (s.setPool k x) := .of_same rfl rfl
theorem State.setOwner_ringsKept (o : Nat) (x : Owner) : s.RingsKept (s.setOwner o x) := .of_same rfl rfl
theorem State.setBuf_ringsKept (a : Nat) (b : Buf) : s.RingsKept (s.setBuf a b) := .of_same rfl rfl
theorem State.putWaiters_ringsKept (l : List Waiter) : s.RingsKept (s.putWaiters l) := .of_same rfl rfl
theorem State.putGrants_ringsKept (l : List (Waiter × Word)) : s.RingsKept (s.putGrants l) := .of_same rfl rfl
theorem State.inject_ringsKept (i v : Nat) (item : Item) : s.RingsKept (s.inject i v item) := .of_same rfl rfl
theorem State.setGrp_ringsKept (g b n v : Nat) : s.RingsKept (s.setGrp g b n v) := .of_same rfl rfl
theorem State.setGState_ringsKept (g v : Nat) : s.RingsKept (s.setGState g v) := .of_same rfl rfl
theorem State.setGBit_ringsKept (g i b : Nat) (v : Bool) : s.RingsKept (s.setGBit g i b v) := .of_same rfl rfl
theorem State.setGroup_ringsKept (g : Nat) (x : Group) : s.RingsKept (s.setGroup g x) := .of_same rfl rfl
theorem State.modGroup_ringsKept (g : Nat) (f : Group → Group) : s.RingsKept (s.modGroup g f) := .of_same rfl rfl
theorem State.putChunk_ringsKept (g c : Nat) (y : Chunk) : s.RingsKept (s.putChunk g c y) := .of_same rfl rfl

/-! ### Threads, streams and faults -/

theorem State.takeGrant_ringsKept (t h : Nat) : s.RingsKept (s.takeGrant t h) := by
  unfold State.takeGrant
  split
  · exact s.modTile_ringsKept _ _
  · exact .refl _

theorem State.semGrant_ringsKept (t h : Nat) : s.RingsKept (s.semGrant t h) := by
  unfold State.semGrant
  split
  · split
    · exact .refl _
    · exact (s.store_ringsKept _ _ _).trans (State.modThread_ringsKept _ _ _ _)
  · exact .refl _

theorem State.settleOnce_ringsKept (t : Nat) : s.RingsKept (s.settleOnce t) := by
  unfold State.settleOnce
  split
  · exact s.modTile_ringsKept _ _
  · have hwaits : s.RingsKept ((s.leaveAll t).endWaits t) := (s.modTile_ringsKept _ _).trans (State.modTile_ringsKept _ _ _)
    have hsems := State.RingsKept.foldl (fun s h => s.semGrant_ringsKept t h) ((((s.leaveAll t).endWaits t).tile t).turn 1)
      ((s.leaveAll t).endWaits t)
    exact (hwaits.trans hsems).trans (.foldl (fun s h => s.takeGrant_ringsKept t h) _ _)

theorem State.endSet_ringsKept (e : Nat × TSet) : s.RingsKept (s.endSet e) := by
  unfold State.endSet
  split
  · exact .refl _
  · refine State.RingsKept.trans (b := s.putSets (Table.del s.sets e.1)) (.of_same rfl rfl) ?_
    exact (State.postPlain_only _ _ _ _ _ _).ringsKept

theorem State.settle_ringsKept (t : Nat) : s.RingsKept (s.settle t) :=
  (s.settleOnce_ringsKept t).trans (.foldl State.endSet_ringsKept _ _)

theorem State.faultLatch_ringsKept (t h cause pc acc : Nat) : s.RingsKept (s.faultLatch t h cause pc acc) := by
  unfold State.faultLatch
  extract_lets valid v
  have hovf : s.RingsKept v := by
    simp only [v, State.also]
    split
    · exact s.setFld_ringsKept _ _ (by simp [TILE_FAULT])
    · exact .refl _
  generalize v = w at hovf
  split
  · exact hovf
  · exact ((hovf.trans (w.wr_ringsKept _ (by simp [TILE_FAULT]))).trans (State.wr_ringsKept _ _ (by simp [TILE_FAULT_PC]))).trans
      (State.modTile_ringsKept _ _ _)

theorem State.faultEvent_ringsKept (t h cause pc ctx acc : Nat) : s.RingsKept (s.faultEvent t h cause pc ctx acc) := by
  unfold State.faultEvent
  split
  · exact s.raise_ringsKept _ _
  · exact .refl _

theorem State.threadFault_ringsKept (t h cause pc acc : Nat) : s.RingsKept (s.threadFault t h cause pc acc) := by
  have hlatch := (s.faultLatch_ringsKept t h cause pc acc).trans
    (State.modThread_ringsKept _ t h fun y => { y with st := .stopped, wait := .none })
  exact (hlatch.trans (State.faultEvent_ringsKept _ _ _ _ _ _ _)).trans (State.settle_ringsKept _ _)

theorem State.lateFault_ringsKept (t h : Nat) (st : RspStatus) (pc : Nat) (load : Bool) :
    s.RingsKept (s.lateFault t h st pc load) := by
  unfold State.lateFault
  extract_lets y
  split
  · exact .refl _
  · exact s.threadFault_ringsKept _ _ _ _ _

theorem State.streamFail_ringsKept (t : Nat) (r : Stream) (st : RspStatus) : s.RingsKept (s.streamFail t r st) :=
  ((s.modTile_ringsKept _ _).trans (State.lateFault_ringsKept _ _ _ _ _ _)).trans (State.settle_ringsKept _ _)

theorem State.ueRead_ringsKept (a : Nat) : s.RingsKept (s.ueRead a) := by
  unfold State.ueRead
  split <;> exact s.count_ringsKept _ (by decide)

theorem State.streamDone_ringsKept (t id : Nat) : s.RingsKept (s.streamDone t id) := by
  unfold State.streamDone
  split
  · exact .refl _
  · exact s.modTile_ringsKept _ _

theorem State.request_ringsKept (t h pc addr : Nat) (k : ReqKind) (w : Want) :
    s.RingsKept (s.request t h pc addr k w) := .of_same rfl rfl

theorem State.streamLine_ringsKept (t : Nat) (r : Stream) : s.RingsKept (s.streamLine t r) := by
  have hissued : s.RingsKept (s.streamIssued t r.id) := s.modTile_ringsKept _ _
  unfold State.streamLine
  extract_lets u l a
  change s.RingsKept u at hissued
  refine hissued.trans ?_
  clear_value u
  have hbad : ∀ b, u.RingsKept ((u.ueRead b).streamFail t r .data) := fun b =>
    (u.ueRead_ringsKept b).trans (State.streamFail_ringsKept _ _ _ _)
  have hmoved : ∀ b bs, u.RingsKept ((u.put b bs).streamDone t r.id) := fun b bs =>
    (u.put_ringsKept b bs).trans (State.streamDone_ringsKept _ _ _)
  split
  · exact u.streamFail_ringsKept _ _ _
  · split
    · split
      · exact u.streamFail_ringsKept _ _ _
      · split
        · split
          · exact hbad _
          · exact hmoved _ _
        · exact u.request_ringsKept _ _ _ _ _ _
    · split
      · exact hbad _
      · split
        · split
          · exact u.streamFail_ringsKept _ _ _
          · exact hmoved _ _
        · exact u.request_ringsKept _ _ _ _ _ _

end

theorem State.pump_ringsKept (fuel : Nat) (s : State) (t : Nat) : s.RingsKept (State.pump fuel s t) := by
  induction fuel generalizing s with
  | zero => exact .refl _
  | succ n ih =>
    unfold State.pump
    split
    · split
      · exact (s.streamLine_ringsKept _ _).trans (ih _)
      · exact .refl _
    · exact .refl _

section
variable (s : State)

theorem State.run_ringsKept (t : Nat) : s.RingsKept (s.run t) := by
  refine State.RingsKept.trans ?_ (State.settle_ringsKept _ t)
  split
  · exact .refl _
  · exact State.pump_ringsKept _ s t

/-! ### Pools -/

theorem State.answerHandle_ringsKept (w : Waiter) (h : Word) : s.RingsKept (s.answerHandle w h) := by
  unfold State.answerHandle
  split
  · exact s.inject_ringsKept _ _ _
  · exact (s.emit_only _).ringsKept
  · split
    · exact .refl _
    · exact s.putGrants_ringsKept _

theorem State.faultPool_ringsKept (p a : Nat) : s.RingsKept (s.faultPool p a) := by
  have hraised := (s.setPool_ringsKept p { s.pool p with state := 2 }).trans (State.raise_ringsKept _
    { cls := 1, src := sourceOf 12 0, code := evCode 0x001C p, ctx := some (s.pool p).ctx, detail := a } none)
  exact (hraised.trans (State.putWaiters_ringsKept _ _)).trans (.foldl (fun s w => s.answerHandle_ringsKept w 0) _ _)

theorem State.takeFree_ringsKept (p : Nat) : s.RingsKept (s.takeFree p).2 := by
  unfold State.takeFree
  extract_lets x
  split
  · split
    · exact .refl _
    · exact s.setPool_ringsKept _ _
  · split
    · exact .refl _
    · extract_lets seed
      split
      extract_lets bad u
      have hu : s.RingsKept u := s.setPool_ringsKept _ _
      clear_value u
      dsimp only
      clear_value bad
      cases bad with
      | none => exact hu
      | some b => exact hu.trans (u.faultPool_ringsKept p b)

theorem State.allocNow_ringsKept (p o : Nat) (x : Owner) : s.RingsKept (s.allocNow p o x).2 := by
  have htaken := s.takeFree_ringsKept p
  unfold State.allocNow
  split
  next h => rwa [h] at htaken
  next h =>
    rw [h] at htaken
    exact (htaken.trans (State.setBuf_ringsKept _ _ _)).trans (State.setOwner_ringsKept _ _ _)

end

theorem State.serveWaiters_ringsKept (l : List Waiter) (s : State) : s.RingsKept (s.serveWaiters l) := by
  induction l generalizing s with
  | nil => exact .refl _
  | cons w l ih =>
    unfold State.serveWaiters
    refine State.RingsKept.trans ?_ (ih _)
    split
    · exact .refl _
    · split
      next x _ =>
        split
        · have halloc := (s.putWaiters_ringsKept (s.waiters.erase w)).trans (State.allocNow_ringsKept _ w.pool w.owner x)
          split
          next h =>
            rw [h] at halloc
            exact halloc.trans (State.answerHandle_ringsKept _ _ _)
          · exact .refl _
        · exact .refl _
      · exact (s.putWaiters_ringsKept _).trans (State.answerHandle_ringsKept _ _ _)

section
variable (s : State)

theorem State.giveFree_ringsKept (p a : Nat) : s.RingsKept (s.giveFree p a) := by
  unfold State.giveFree
  extract_lets x u need next
  split
  · have hu : s.RingsKept u := s.setPool_ringsKept _ _
    clear_value u
    split
    · split
      · exact hu.trans (u.raise_ringsKept _ _)
      · exact hu.trans (u.raise_ringsKept _ _)
    · exact hu
  · split
    · exact s.setPool_ringsKept _ _
    · exact (s.setPool_ringsKept _ _).trans (State.put_ringsKept _ _ _)

/-- A buffer's last owner leaves: counted, and its allocation taken off what its owner uses. -/
theorem State.release_ringsKept (p a : Nat) : s.RingsKept (s.release p a) := by
  unfold State.release
  extract_lets b u w v
  have hu : s.RingsKept u := s.count_ringsKept _ (by simp [POOL_ORPHANED])
  have hw : u.RingsKept w := by
    simp only [w]
    split
    · split
      · exact u.setOwner_ringsKept _ _
      · exact .refl _
    · exact .refl _
  have hv : w.RingsKept v := w.setBuf_ringsKept _ _
  exact (((hu.trans hw).trans hv).trans (v.giveFree_ringsKept p a)).trans (State.serveWaiters_ringsKept _ _)

theorem State.poolFreeHandle_ringsKept (p o : Nat) (h : Word) : s.RingsKept (s.poolFreeHandle p o h) := by
  unfold State.poolFreeHandle
  extract_lets a b
  split
  · split
    · exact s.release_ringsKept _ _
    · exact s.setBuf_ringsKept _ _
  · exact s.count_ringsKept _ (by simp [POOL_STALE])

end

end Sys2Proof.Machine
end

section
/-! The commands that write tables (O46): circuits, trees, gate lists, mirrors, tags, pools. -/

namespace Sys2Proof.Machine

/-! ### A command and the state it gives -/

theorem State.Completed.commit {t u : State} {k : RingCmd} {x : Ring} (h : t.Completed u k x) (s : State) :
    t.Completed (s.commit u) k x := by
  obtain ⟨finished, read, poisoned, rd, mirrors, pools, owners⟩ := h
  exact ⟨finished, read, poisoned, rd, mirrors, pools, owners⟩

/-- What holds of every state that a completed entry leaves holds of the state that the command gives. -/
theorem gives_command {i : Instr} {s t : State} {k : RingCmd} {x : Ring} {op : Nat} {device : Bool}
    {body : State → Nat × State} {P : State → Prop} (hp : s.Posted k op x)
    (hexec : exec i s = ok s (s.powered fun s => s.command k op device body)) (hopen : s.ctxState k.ctx.toNat = 1)
    (hdev : device = true ↔ k.ctx.toNat = 0) (hbody : body s = (0, t)) (hkept : s.RingsKept t)
    (hP : ∀ u, t.Completed u k x → P u) : Gives i s P := by
  rw [State.powered_on hp.on] at hexec
  exact gives_ok hexec (hP _ ((State.command_completes hp hopen hdev hbody hkept).commit s))

theorem RingCmd.ctx_ne {k : RingCmd} (h : k.ctx ≠ 0) : k.ctx.toNat ≠ 0 := fun e =>
  h (BitVec.eq_of_toNat_eq (by simpa using e))

theorem RingCmd.ctx_zero {k : RingCmd} (h : k.ctx = 0) : k.ctx.toNat = 0 := by simp [h]

theorem RingCmd.own {k : RingCmd} (h : k.ctx ≠ 0) : false = true ↔ k.ctx.toNat = 0 := by
  simp [RingCmd.ctx_ne h]

theorem RingCmd.device {k : RingCmd} (h : k.ctx = 0) : true = true ↔ k.ctx.toNat = 0 := by
  simp [RingCmd.ctx_zero h]

theorem RingCmd.arg_lt (k : RingCmd) (i n : Nat) : k.arg i n < 2 ^ (8 * n) := bitsOf_lt _ _ _

/-! ### Table entries in memory -/

theorem bitOf_eq (x i : Nat) : bitOf x i = decide (bitsOf x i 1 = 1) := by
  rw [bitOf, bitsOf_eq, Nat.testBit_eq_decide_div_mod_eq, pow_one]

theorem bitOf_putBits_below (x lo w v i : Nat) (h : i + 1 ≤ lo) : bitOf (putBits x lo w v) i = bitOf x i := by
  rw [bitOf_eq, bitOf_eq, bitsOf_putBits_below _ _ _ _ _ _ h]

theorem bitOf_putBits_same (x lo v : Nat) : bitOf (putBits x lo 1 v) lo = decide (v % 2 = 1) := by
  rw [bitOf_eq, bitsOf_putBits_same, pow_one]

/-- VALID of a circuit entry given a value; its other fields stay (Table 2-5). -/
theorem Circuit.ofNat_valid (e v : Nat) :
    Circuit.ofNat (putBits e 127 1 v) = { Circuit.ofNat e with valid := decide (v % 2 = 1) } := by
  simp only [Circuit.ofNat, bitOf_putBits_same, bitOf_putBits_below _ _ _ _ _ (show 121 + 1 ≤ 127 by decide),
    bitOf_putBits_below _ _ _ _ _ (show 117 + 1 ≤ 127 by decide),
    bitsOf_putBits_below _ _ _ _ _ _ (show 125 + 2 ≤ 127 by decide),
    bitsOf_putBits_below _ _ _ _ _ _ (show 122 + 3 ≤ 127 by decide),
    bitsOf_putBits_below _ _ _ _ _ _ (show 118 + 3 ≤ 127 by decide),
    bitsOf_putBits_below _ _ _ _ _ _ (show 107 + 10 ≤ 127 by decide),
    bitsOf_putBits_below _ _ _ _ _ _ (show 97 + 10 ≤ 127 by decide),
    bitsOf_putBits_below _ _ _ _ _ _ (show 77 + 20 ≤ 127 by decide),
    bitsOf_putBits_below _ _ _ _ _ _ (show 65 + 12 ≤ 127 by decide),
    bitsOf_putBits_below _ _ _ _ _ _ (show 61 + 4 ≤ 127 by decide),
    bitsOf_putBits_below _ _ _ _ _ _ (show 41 + 20 ≤ 127 by decide),
    bitsOf_putBits_below _ _ _ _ _ _ (show 29 + 12 ≤ 127 by decide)]

/-- An entry of a table outside the ring that is whole reads, once the command has completed, as its body left it. -/
theorem State.Completed.entry {t u : State} {k : RingCmd} {x : Ring} (h : t.Completed u k x) {a n : Nat} (ha : x.Apart a n)
    (hclean : t.poisoned a n = false) : u.entry a n = t.load a n := by
  rw [State.entry, if_neg (by simp [h.poisoned a n hclean]), h.load ha]

theorem State.Completed.circAddr {t u : State} {k : RingCmd} {x : Ring} (h : t.Completed u k x) (l : Nat) :
    circAddr u l = circAddr t l := by
  rw [Machine.circAddr, h.rd _ (by simp [ROUTE_CIRC_BASE, HP_EVT_LOST]) (by simp [ROUTE_CIRC_BASE, CDC_STATE]), Machine.circAddr]

theorem State.Completed.treeAddr {t u : State} {k : RingCmd} {x : Ring} (h : t.Completed u k x) (n : Nat) :
    treeAddr u n = treeAddr t n := by
  rw [Machine.treeAddr, h.rd _ (by simp [ROUTE_TREE_BASE, HP_EVT_LOST]) (by simp [ROUTE_TREE_BASE, CDC_STATE]), Machine.treeAddr]

theorem ofBytes_lt (l : List Byte) : ofBytes l < 256 ^ l.length := by
  induction l with
  | nil => simp [ofBytes]
  | cons b l ih =>
    have hb := b.isLt
    have h : ofBytes (b :: l) = b.toNat + 256 * ofBytes l := rfl
    rw [h, List.length_cons, pow_succ]
    omega

theorem bitsOf_mod (x : Nat) {n lo w : Nat} (h : lo + w ≤ n) : bitsOf (x % 2 ^ n) lo w = bitsOf x lo w := by
  refine Nat.eq_of_testBit_eq fun i => ?_
  rw [testBit_bitsOf, testBit_bitsOf, Nat.testBit_mod_two_pow]
  by_cases hi : i < w
  · simp [hi, show lo + i < n by omega]
  · simp [hi]

/-- Bits above the entry do not show in a tree (Table 2-7). -/
theorem Tree.ofNat_mod (e : Nat) : Tree.ofNat (e % 2 ^ (8 * 256)) = Tree.ofNat e := by
  simp only [Tree.ofNat, bitsOf_mod e (show 0 + 1024 ≤ 8 * 256 by decide),
    bitsOf_mod e (show 1024 + 256 ≤ 8 * 256 by decide), bitsOf_mod e (show 1280 + 64 ≤ 8 * 256 by decide)]

theorem circAddr_put (s : State) (a : Nat) (b : List Byte) (l : Nat) : circAddr (s.put a b) l = circAddr s l := rfl
theorem circAddr_store (s : State) (a n v l : Nat) : circAddr (s.store a n v) l = circAddr s l := rfl
theorem treeAddr_put (s : State) (a : Nat) (b : List Byte) (n : Nat) : treeAddr (s.put a b) n = treeAddr s n := rfl

theorem State.load_lt (s : State) (a n : Nat) : s.load a n < 256 ^ n := by
  have h := ofBytes_lt (s.bytes a n)
  rwa [show (s.bytes a n).length = n by simp [State.bytes]] at h

theorem pow_bytes (n : Nat) : 256 ^ n = 2 ^ (8 * n) := by
  rw [show (256 : Nat) = 2 ^ 8 from rfl, ← pow_mul]

/-- A number of `n` bytes put at an address reads back. -/
theorem State.load_put_number (s : State) (a : Nat) {n v : Nat} (h : v < 256 ^ n) : (s.put a (toBytes n v)).load a n = v := by
  have := s.load_put_same a (toBytes n v)
  rw [toBytes_length, ofBytes_toBytes, Nat.mod_eq_of_lt h] at this
  exact this

/-! ### Circuits -/

section
variable {s : State} {k : RingCmd} {x : Ring} (hopen : s.ctxState k.ctx.toNat = 1) (hc : k.ctx ≠ 0)
include hopen hc

theorem circSetup_sets (hl : k.arg 16 4 < 0xFFFFF) (ha : x.Apart (circAddr s (k.arg 16 4)) 16) (hp : s.Posted k 0x0040 x)
    (hfree : (s.circuit (k.arg 16 4)).valid = false) (hclean : s.poisoned (circAddr s (k.arg 16 4)) 16 = false)
    (hctx : (Circuit.ofNat (k.arg 32 16)).ctx = k.ctx.toNat) : Gives (.circSetup k) s fun u => u.Finished k x 0 ∧
      u.circuit (k.arg 16 4) = { Circuit.ofNat (k.arg 32 16) with valid := true } := by
  have hlt : putBits (k.arg 32 16) 127 1 1 < 256 ^ 16 := by
    rw [pow_bytes]
    exact putBits_lt _ _ _ _ _ (RingCmd.arg_lt k 32 16) (by decide)
  refine gives_command (t := s.put (circAddr s (k.arg 16 4)) (toBytes 16 (putBits (k.arg 32 16) 127 1 1))) hp rfl hopen
    (RingCmd.own hc) ?_ (State.put_ringsKept _ _ _) fun u h => ⟨h.finished, ?_⟩
  · simp [show ¬ 0xFFFFF ≤ k.arg 16 4 by omega, hfree, hctx]
  · rw [State.circuit, h.circAddr, circAddr_put, h.entry ha (State.poisoned_put hclean _ _), State.load_put_number _ _ hlt, Circuit.ofNat_valid]
    rfl

theorem circTear_clears (hl : k.arg 16 4 < 0xFFFFF) (ha : x.Apart (circAddr s (k.arg 16 4)) 16) (hp : s.Posted k 0x0041 x)
    (hvalid : (s.circuit (k.arg 16 4)).valid = true) (hctx : (s.circuit (k.arg 16 4)).ctx = k.ctx.toNat)
    (hgroup : s.findGroup k.ctx.toNat (s.circuit (k.arg 16 4)).group = none) :
    Gives (.circTear k) s fun u => u.Finished k x 0 ∧
      u.circuit (k.arg 16 4) = { s.circuit (k.arg 16 4) with valid := false } := by
  have hclean : s.poisoned (circAddr s (k.arg 16 4)) 16 = false := by
    by_contra hbad
    rw [Bool.not_eq_false] at hbad
    simp [State.circuit, State.entry, hbad, Circuit.ofNat, bitOf] at hvalid
  have hentry : s.circuit (k.arg 16 4) = Circuit.ofNat (s.load (circAddr s (k.arg 16 4)) 16) := by
    rw [State.circuit, State.entry, if_neg (by simp [hclean])]
  have hlt : putBits (s.load (circAddr s (k.arg 16 4)) 16) 127 1 0 < 256 ^ 16 := by
    rw [pow_bytes]
    exact putBits_lt _ _ _ _ _ (by rw [← pow_bytes]; exact s.load_lt _ _) (by decide)
  refine gives_command (t := s.store (circAddr s (k.arg 16 4)) 16 (putBits (s.load (circAddr s (k.arg 16 4)) 16) 127 1 0)) hp rfl hopen
    (RingCmd.own hc) ?_ ⟨rfl, fun _ _ => rfl⟩ fun u h => ⟨h.finished, ?_⟩
  · simp [show ¬ 0xFFFFF ≤ k.arg 16 4 by omega, hvalid, hctx, hgroup, State.setMemFld]
  · rw [State.circuit, h.circAddr, circAddr_store, h.entry ha hclean, State.load_store_same, Nat.mod_eq_of_lt hlt, Circuit.ofNat_valid, hentry]
    rfl

/-! ### Trees -/

theorem treeSet_sets {l : List Byte} (hp : s.Posted k 0x0042 x) (hfree : (s.tree (k.arg 16 2)).valid = false)
    (hclean : s.poisoned (treeAddr s (k.arg 16 2)) 256 = false) (ha : x.Apart (treeAddr s (k.arg 16 2)) 256)
    (hread : s.mayRead k.ctx.toNat (k.arg 24 8) 256 = true) (hl : s.dataRead (k.arg 24 8) 256 = (l, s))
    (hnew : (Tree.ofNat (ofBytes l)).valid = true) (hctx : (Tree.ofNat (ofBytes l)).ctx = k.ctx.toNat) :
    Gives (.treeSet k) s fun u => u.Finished k x 0 ∧ u.tree (k.arg 16 2) = Tree.ofNat (ofBytes l) := by
  refine gives_command (t := s.put (treeAddr s (k.arg 16 2)) (toBytes 256 (ofBytes l))) hp rfl hopen
    (RingCmd.own hc) ?_ (State.put_ringsKept _ _ _) fun u h => ⟨h.finished, ?_⟩
  · simp [hfree, hread, hl, hnew, hctx]
  · have hput := s.load_put_same (treeAddr s (k.arg 16 2)) (toBytes 256 (ofBytes l))
    rw [toBytes_length, ofBytes_toBytes, pow_bytes] at hput
    rw [State.tree, h.treeAddr, treeAddr_put, h.entry ha (State.poisoned_put hclean _ _), hput]
    exact Tree.ofNat_mod _

end

end Sys2Proof.Machine
end

section
/-! Gate lists, mirrors, tags and pools by command (O46). -/

namespace Sys2Proof.Machine

/-! ### Gate lists (R101) -/

theorem gateEntry_inj (p b : Nat) (i j : Nat) (h : PORT_GATE_ENTRY p b i = PORT_GATE_ENTRY p b j) : i = j := by
  simp only [PORT_GATE_ENTRY, Reg.mk.injEq, true_and] at h
  omega

theorem gateEntry_ne_ctl (p b i : Nat) : PORT_GATE_ENTRY p b i ≠ PORT_GATE_CTL p := by
  simp only [PORT_GATE_ENTRY, PORT_GATE_CTL, ne_eq, Reg.mk.injEq, true_and]
  omega

theorem gateEntry_ne_switch (p b i : Nat) : PORT_GATE_ENTRY p b i ≠ PORT_GATE_SWITCH_AT p := by
  simp only [PORT_GATE_ENTRY, PORT_GATE_SWITCH_AT, ne_eq, Reg.mk.injEq, true_and]
  omega

theorem State.rd_gateTake (s : State) (p : Nat) (l : List Byte) {j : Nat} (hj : j < 64) :
    (s.gateTake p l).rd (PORT_GATE_ENTRY p (1 - s.gateBank p) j) = BitVec.ofNat 64 (ofBytes ((l.drop (8 * j)).take 4)) :=
  s.rd_foldl_wr (gateEntry_inj p _) _ hj

theorem State.rd_gateTake_other (s : State) (p : Nat) (l : List Byte) {r : Reg}
    (h : ∀ k, PORT_GATE_ENTRY p (1 - s.gateBank p) k ≠ r) : (s.gateTake p l).rd r = s.rd r := State.rd_foldl_wr_other _ _ s h

theorem State.gateTake_eq (s : State) (p : Nat) (l : List Byte) : ∃ R, s.gateTake p l = s.putRegs R := State.foldl_wr_eq _ _ _ _

/-- The switch point and the mode of a loaded list. -/
def State.gatePoint (s : State) (p at_ mode ctx : Nat) : State :=
  ((s.wr (PORT_GATE_SWITCH_AT p) (BitVec.ofNat 64 at_)).setFld (PORT_GATE_CTL p) PORT_GATE_CTL_SW_MODE mode).setFld
    (PORT_GATE_CTL p) PORT_GATE_CTL_SW_CTX ctx

section
variable (s : State) (p at_ mode ctx : Nat)

theorem State.rd_gatePoint_switch : (s.gatePoint p at_ mode ctx).rd (PORT_GATE_SWITCH_AT p) = BitVec.ofNat 64 at_ := by
  have h : PORT_GATE_CTL p ≠ PORT_GATE_SWITCH_AT p := by simp [PORT_GATE_CTL, PORT_GATE_SWITCH_AT]
  rw [State.gatePoint, State.rd_setFld_other _ _ _ h, State.rd_setFld_other _ _ _ h, State.rd_wr_same]

theorem State.rd_gatePoint_other {r : Reg} (h1 : PORT_GATE_SWITCH_AT p ≠ r) (h2 : PORT_GATE_CTL p ≠ r) :
    (s.gatePoint p at_ mode ctx).rd r = s.rd r := by
  rw [State.gatePoint, State.rd_setFld_other _ _ _ h2, State.rd_setFld_other _ _ _ h2, State.rd_wr_other _ _ h1]

/-- The fields of PORT_GATE_CTL below SW_MODE stay. -/
theorem State.fld_gatePoint {g : Fld} (h : g.lo + g.width ≤ 33) :
    (s.gatePoint p at_ mode ctx).fld (PORT_GATE_CTL p) g = s.fld (PORT_GATE_CTL p) g := by
  have h40 : g.lo + g.width ≤ 40 := by omega
  exact (State.fld_setFld_other _ _ _ _ _ _ (by decide) (.inr (.inr h40))).trans
    ((State.fld_setFld_other _ _ _ _ _ _ (by decide) (.inr (.inr h))).trans
      (State.fld_wr_other _ _ _ (by simp [PORT_GATE_SWITCH_AT, PORT_GATE_CTL])))

theorem State.gateList_gatePoint (b : Nat) : (s.gatePoint p at_ mode ctx).gateList p b = s.gateList p b := by
  have h : ∀ i f, (s.gatePoint p at_ mode ctx).fld (PORT_GATE_ENTRY p b i) f = s.fld (PORT_GATE_ENTRY p b i) f := fun i f => by
    rw [State.fld, s.rd_gatePoint_other p at_ mode ctx (gateEntry_ne_switch p b i).symm (gateEntry_ne_ctl p b i).symm, State.fld]
  simp only [State.gateList, h]

theorem State.gatePoint_eq : ∃ R, s.gatePoint p at_ mode ctx = s.putRegs R :=
  State.wr_regs (State.wr_regs (State.wr_regs ⟨s.regs, rfl⟩ _ _) _ _) _ _

end

/-- A port not armed whose inactive bank passes its check is armed (R101). -/
theorem State.gateArm_arms {s : State} {p : Nat} (ha : s.bit (PORT_GATE_CTL p) PORT_GATE_CTL_ARM = false)
    (hl : gateListOk (s.gateList p (1 - s.gateBank p)) = true) :
    (s.gateArm p).bit (PORT_GATE_CTL p) PORT_GATE_CTL_ARM = true ∧
      (∀ r, r ≠ PORT_GATE_CTL p → (s.gateArm p).rd r = s.rd r) ∧ (s.gateArm p).ctxs = s.ctxs := by
  have harm : (s.setFld (PORT_GATE_CTL p) PORT_GATE_CTL_ARM 1).fld (PORT_GATE_CTL p) PORT_GATE_CTL_ARM = 1 :=
    s.fld_setFld_same _ _ _ (by decide)
  unfold State.gateArm
  rw [if_neg (by simp [ha]), if_pos hl]
  dsimp only
  split
  · refine ⟨?_, fun r hr => ?_, by simp⟩
    · rw [State.bit, State.fld_setFld_other _ _ _ _ _ _ (by decide) (.inr (.inr (by decide))), harm]
      rfl
    · rw [State.rd_setFld_other _ _ _ (Ne.symm hr), State.rd_setFld_other _ _ _ (Ne.symm hr)]
  · refine ⟨?_, fun r hr => s.rd_setFld_other _ _ (Ne.symm hr), by simp⟩
    rw [State.bit, harm]
    rfl

/-- The state after GATE_LOAD: entries, switch point and mode, then ARM. -/
def State.gateLoaded (s : State) (p at_ mode ctx : Nat) (l : List Byte) : State :=
  ((s.gateTake p l).gatePoint p at_ mode ctx).gateArm p

/-- What a gate list loaded into a port that is not armed gives. -/
theorem State.gateLoaded_armed {s : State} {p : Nat} {l : List Byte} (at_ mode ctx : Nat)
    (ha : s.bit (PORT_GATE_CTL p) PORT_GATE_CTL_ARM = false)
    (hl : gateListOk ((s.gateTake p l).gateList p (1 - s.gateBank p)) = true) :
    let t := s.gateLoaded p at_ mode ctx l
    t.bit (PORT_GATE_CTL p) PORT_GATE_CTL_ARM = true ∧ t.rd (PORT_GATE_SWITCH_AT p) = BitVec.ofNat 64 at_ ∧
      (∀ j < 64, t.rd (PORT_GATE_ENTRY p (1 - s.gateBank p) j) = BitVec.ofNat 64 (ofBytes ((l.drop (8 * j)).take 4))) ∧
      s.RingsKept t := by
  have hctl : (s.gateTake p l).rd (PORT_GATE_CTL p) = s.rd (PORT_GATE_CTL p) :=
    s.rd_gateTake_other p l fun k => gateEntry_ne_ctl p _ k
  have hfld : ∀ g : Fld, g.lo + g.width ≤ 33 →
      ((s.gateTake p l).gatePoint p at_ mode ctx).fld (PORT_GATE_CTL p) g = s.fld (PORT_GATE_CTL p) g := fun g hg => by
    rw [State.fld_gatePoint _ _ _ _ _ hg, State.fld, hctl, State.fld]
  have harm : ((s.gateTake p l).gatePoint p at_ mode ctx).bit (PORT_GATE_CTL p) PORT_GATE_CTL_ARM = false := by
    rw [State.bit, hfld _ (by decide)]
    exact ha
  have hbank : ((s.gateTake p l).gatePoint p at_ mode ctx).gateBank p = s.gateBank p := hfld _ (by decide)
  obtain ⟨h1, hrd, hctxs⟩ := State.gateArm_arms harm (by rw [hbank, State.gateList_gatePoint]; exact hl)
  have hother : ∀ r, r ≠ PORT_GATE_CTL p → (s.gateLoaded p at_ mode ctx l).rd r =
      ((s.gateTake p l).gatePoint p at_ mode ctx).rd r := hrd
  refine ⟨h1, ?_, fun j hj => ?_, ?_, fun r hr => ?_⟩
  · rw [hother _ (by simp [PORT_GATE_SWITCH_AT, PORT_GATE_CTL]), State.rd_gatePoint_switch]
  · rw [hother _ (gateEntry_ne_ctl _ _ _), State.rd_gatePoint_other _ _ _ _ _ (gateEntry_ne_switch _ _ _).symm
      (gateEntry_ne_ctl _ _ _).symm, s.rd_gateTake p l hj]
  · refine hctxs.trans ?_
    obtain ⟨R, hR⟩ := (s.gateTake p l).gatePoint_eq p at_ mode ctx
    obtain ⟨R', hR'⟩ := s.gateTake_eq p l
    rw [hR, hR']
    rfl
  · have hblk : ∀ q : Reg, q.blk = 2 → q ≠ r := fun q hq e => by
      rw [e, hr] at hq
      exact absurd hq (by decide)
    rw [hother _ (hblk _ rfl).symm, State.rd_gatePoint_other _ _ _ _ _ (hblk _ rfl) (hblk _ rfl),
      s.rd_gateTake_other p l fun k => hblk _ rfl]

/-! ### The bytes of a tag -/

/-- The 64 bytes of a tag entry that is bound (Table 8-10). -/
def tagBytes (k : RingCmd) : List Byte :=
  toBytes 2 k.ctx.toNat ++ toBytes 2 (k.arg 20 2 % 4096) ++ toBytes 4 (k.arg 24 4) ++
    toBytes 4 (k.arg 28 4) ++ toBytes 4 (k.arg 32 4) ++ List.replicate 36 0 ++ toBytes 4 (flag true) ++ List.replicate 8 0

theorem tagBytes_length (k : RingCmd) : (tagBytes k).length = 64 := by simp [tagBytes, toBytes_length]

/-- Part of what is put at an address reads back. -/
theorem State.load_put_part (s : State) (a : Nat) {b l m r : List Byte} (h : b = l ++ m ++ r) :
    (s.put a b).load (a + l.length) m.length = ofBytes m := by
  subst h
  unfold State.load
  congr 1
  refine List.ext_getElem (by simp [State.bytes]) fun i h1 h2 => ?_
  have hi : l.length + i < (l ++ m ++ r).length := by
    simp only [List.length_append]
    omega
  have hread := Memory.read_writeBytes_in (l ++ m ++ r) s.mem a (l.length + i) hi
  simp only [State.bytes, List.getElem_map, List.getElem_range, Nat.add_assoc]
  refine hread.trans ?_
  rw [List.getElem_append_left (by simp only [List.length_append]; omega), List.getElem_append_right (by omega)]
  simp

theorem Ring.Apart.part {x : Ring} {a n : Nat} (h : x.Apart a n) {i m : Nat} (hi : i + m ≤ n) : x.Apart (a + i) m := by
  unfold Ring.Apart at *
  omega

/-- The fields of a bound tag entry in memory. -/
theorem State.put_tagBytes (s : State) (k : RingCmd) (a : Nat) :
    (s.put a (tagBytes k)).load a 2 = k.ctx.toNat ∧ (s.put a (tagBytes k)).load (a + 2) 2 = k.arg 20 2 % 4096 ∧
      (s.put a (tagBytes k)).load (a + 4) 4 = k.arg 24 4 ∧ (s.put a (tagBytes k)).load (a + 52) 1 = 1 := by
  have h24 := RingCmd.arg_lt k 24 4
  have hctx := k.ctx.isLt
  refine ⟨?_, ?_, ?_, ?_⟩
  · have h := s.load_put_part a (b := tagBytes k) (l := []) (m := toBytes 2 k.ctx.toNat)
      (by simp only [tagBytes, List.append_assoc, List.nil_append]; rfl)
    rw [toBytes_length, ofBytes_toBytes] at h
    exact h.trans (Nat.mod_eq_of_lt (by omega))
  · have h := s.load_put_part a (b := tagBytes k) (l := toBytes 2 k.ctx.toNat) (m := toBytes 2 (k.arg 20 2 % 4096))
      (by simp only [tagBytes, List.append_assoc]; rfl)
    rw [toBytes_length, toBytes_length, ofBytes_toBytes] at h
    exact h.trans (Nat.mod_eq_of_lt (by omega))
  · have h := s.load_put_part a (b := tagBytes k) (l := toBytes 2 k.ctx.toNat ++ toBytes 2 (k.arg 20 2 % 4096))
      (m := toBytes 4 (k.arg 24 4)) (by simp only [tagBytes, List.append_assoc]; rfl)
    rw [List.length_append, toBytes_length, toBytes_length, toBytes_length, ofBytes_toBytes] at h
    exact h.trans (Nat.mod_eq_of_lt (by omega))
  · have hone : toBytes 4 (flag true) = toBytes 1 1 ++ List.replicate 3 0 := by decide
    have h := s.load_put_part a (b := tagBytes k) (l := toBytes 2 k.ctx.toNat ++ toBytes 2 (k.arg 20 2 % 4096) ++
      toBytes 4 (k.arg 24 4) ++ toBytes 4 (k.arg 28 4) ++ toBytes 4 (k.arg 32 4) ++ List.replicate 36 0) (m := toBytes 1 1)
      (by simp only [tagBytes, hone, List.append_assoc]; rfl)
    simp only [List.length_append, toBytes_length, List.length_replicate, ofBytes_toBytes] at h
    exact h

/-! ### Pools -/

theorem State.thread_ringsKept (s : State) (base size n : Nat) : s.RingsKept (s.thread_ base size n) := by
  induction n with
  | zero => exact .refl s
  | succ n ih => exact (ih.trans (State.put_ringsKept _ _ _)).trans (State.put_ringsKept _ _ _)

theorem State.thread_owners (s : State) (base size n : Nat) : (s.thread_ base size n).owners = s.owners := by
  induction n with
  | zero => rfl
  | succ n ih => rw [State.thread_, State.put_owners, State.put_owners, ih]

/-- The pool that POOL_CREATE makes (Table 11-8). -/
def PoolArgs.made (x : PoolArgs) (c : Nat) : Pool :=
  { Pool.init with
    state := 1, loc := x.loc, size := x.size, ctx := c, count := x.count, total := x.count, base := x.base,
    metaBase := x.metaBase, chip := (List.range (min 3 x.count)).map fun i => x.base + i * (4096 * 2 ^ x.size) }

/-- The tables of the pools after POOL_CREATE: buffer records gone, the pool, its first owner. -/
def State.poolMade (s : State) (c o : Nat) (x : PoolArgs) : State :=
  let n := x.count * (4096 * 2 ^ x.size)
  ((s.putBufs (s.bufs.filter fun e => decide (e.1 < x.base) || decide (x.base + n ≤ e.1))).setPool x.pool (x.made c)).setOwner o
    ⟨x.pool, 1, ownerKey c 0, x.max1, x.min1, 0⟩

theorem State.poolMade_ringsKept (s : State) (c o : Nat) (x : PoolArgs) : s.RingsKept (s.poolMade c o x) := ⟨rfl, fun _ _ => rfl⟩

theorem State.pool_poolMade (s : State) (c o : Nat) (x : PoolArgs) : (s.poolMade c o x).pool x.pool = x.made c :=
  State.pool_setPool (s.putBufs _) x.pool (x.made c)

theorem State.owner_poolMade (s : State) (c o : Nat) (x : PoolArgs) :
    (s.poolMade c o x).owner o = some ⟨x.pool, 1, ownerKey c 0, x.max1, x.min1, 0⟩ := Table.look_put_same _ _ _ _

theorem State.poolCreate_ok {s : State} {c o : Nat} {x : PoolArgs} (hlo : 4 ≤ x.pool) (hhi : x.pool < 64)
    (hfree : (s.pool x.pool).state = 0) (hgood : PoolArgs.bad s x = false)
    (hrd : s.covers c (s.genOf c) x.base (x.count * (4096 * 2 ^ x.size)) .rd = true)
    (hwr : s.covers c (s.genOf c) x.base (x.count * (4096 * 2 ^ x.size)) .wr = true)
    (hmin : x.min1 ≤ x.count) (ho : s.freeOwner = some o) :
    s.poolCreate c x = (0, (s.thread_ x.base (4096 * 2 ^ x.size) x.count).poolMade c o x) := by
  unfold State.poolCreate
  simp only [show ¬ x.pool < 4 by omega, show ¬ 64 ≤ x.pool by omega, hfree, hgood, hrd, hwr,
    show ¬ x.count < x.min1 by omega, ho, bne_self_eq_false, decide_false, Bool.and_self, Bool.not_true, Bool.false_eq_true,
    if_false]
  rfl

theorem State.answerAll_none {s : State} {p : Nat} (h : ∀ w ∈ s.waiters, w.pool ≠ p) :
    s.answerAll p = s.putWaiters (s.waiters.filter fun w => w.pool != p) := by
  have hnone : s.waiters.filter (fun w => w.pool == p) = [] := by simpa [List.filter_eq_nil_iff] using h
  rw [State.answerAll, hnone]
  rfl

/-- Open words are written to memory alone. -/
theorem State.openWords_keeps (s : State) (a n : Nat) :
    s.RingsKept (s.openWords a n) ∧ (s.openWords a n).pools = s.pools ∧ (s.openWords a n).owners = s.owners := by
  induction n generalizing s a with
  | zero => exact ⟨.refl s, rfl, rfl⟩
  | succ n ih =>
    obtain ⟨hkept, hpools, howners⟩ := ih ((s.putFreeCtr (s.freeCtr + 1)).store a 8 (Config.freeWord s.freeCtr).toNat) (a + 8)
    have hone : s.RingsKept ((s.putFreeCtr (s.freeCtr + 1)).store a 8 (Config.freeWord s.freeCtr).toNat) :=
      ⟨rfl, fun _ _ => rfl⟩
    exact ⟨hone.trans hkept, hpools, howners⟩

/-- Owners, buffer records and grants of a pool gone. -/
def State.poolGone (s : State) (p : Nat) (x : Pool) : State :=
  let s := (s.putOwners (s.owners.filter fun e => e.2.pool != p)).putBufs (s.bufs.filter fun e => !x.holds e.1)
  s.putGrants (s.grants.filter fun e => e.1.pool != p)

theorem State.poolGone_keeps (s : State) (p : Nat) (x : Pool) :
    s.RingsKept (s.poolGone p x) ∧ (s.poolGone p x).pools = s.pools ∧
      (s.poolGone p x).owners = s.owners.filter fun e => e.2.pool != p := ⟨⟨rfl, fun _ _ => rfl⟩, rfl, rfl⟩

/-- A pool taken down when no waiter waits on it: its entry and its owners are gone (Table 11-8). -/
theorem State.poolRemove_keeps {s : State} {p : Nat} (h : ∀ w ∈ s.waiters, w.pool ≠ p) :
    s.RingsKept (s.poolRemove p) ∧ (s.poolRemove p).pool p = Pool.init ∧ ∀ e ∈ (s.poolRemove p).owners, e.2.pool ≠ p := by
  have hnone := State.answerAll_none (s := s.setPool p Pool.init) h
  have hremove : s.poolRemove p = (((s.setPool p Pool.init).answerAll p).poolGone p (s.pool p)).openWords (s.pool p).metaBase
    (4 * (s.pool p).total) := rfl
  rw [hremove, hnone]
  generalize (s.setPool p Pool.init).waiters.filter (fun w => w.pool != p) = l
  obtain ⟨hkept, hpools, howners⟩ := (((s.setPool p Pool.init).putWaiters l).poolGone p (s.pool p)).openWords_keeps
    (s.pool p).metaBase (4 * (s.pool p).total)
  obtain ⟨hkept', hpools', howners'⟩ := ((s.setPool p Pool.init).putWaiters l).poolGone_keeps p (s.pool p)
  have hset : s.RingsKept (s.setPool p Pool.init) := ⟨rfl, fun _ _ => rfl⟩
  refine ⟨((hset.trans (State.putWaiters_ringsKept _ l)).trans hkept').trans hkept, ?_, ?_⟩
  · rw [State.pool, hpools, hpools', State.putWaiters_pools]
    exact State.pool_setPool s p Pool.init
  · rw [howners, howners']
    exact fun e he => by simpa using (List.mem_filter.mp he).2

/-- The arguments of a POOL_CREATE (Table 13-7). -/
def poolArgs (k : RingCmd) : PoolArgs :=
  ⟨k.arg 16 1, k.arg 17 1, k.arg 18 1, k.arg 20 4, k.arg 24 8, k.arg 32 8, k.arg 40 2, k.arg 42 2⟩

/-! ### The commands -/

section
variable {s : State} {k : RingCmd} {x : Ring} (hopen : s.ctxState k.ctx.toNat = 1)
include hopen

theorem gateLoad_arms {l : List Byte} (hp : s.Posted k 0x0070 x) (hc : k.ctx = 0) (h1 : k.arg 16 2 < 1024)
    (h2 : k.arg 18 1 ≤ 1) (h3 : k.arg 19 2 < 4096) (hread : s.mayRead 0 (k.arg 32 8) 512 = true)
    (ha : s.bit (PORT_GATE_CTL (k.arg 16 2)) PORT_GATE_CTL_ARM = false) (hl : s.dataRead (k.arg 32 8) 512 = (l, s))
    (hok : gateListOk ((s.gateTake (k.arg 16 2) l).gateList (k.arg 16 2) (1 - s.gateBank (k.arg 16 2))) = true) :
    Gives (.gateLoad k) s fun u => u.Finished k x 0 ∧ u.bit (PORT_GATE_CTL (k.arg 16 2)) PORT_GATE_CTL_ARM = true ∧
      u.rd (PORT_GATE_SWITCH_AT (k.arg 16 2)) = BitVec.ofNat 64 (k.arg 24 8) ∧
      ∀ j < 64, u.rd (PORT_GATE_ENTRY (k.arg 16 2) (1 - s.gateBank (k.arg 16 2)) j) =
        BitVec.ofNat 64 (ofBytes ((l.drop (8 * j)).take 4)) := by
  obtain ⟨harm, hswitch, hentries, hkept⟩ := State.gateLoaded_armed (k.arg 24 8) (k.arg 18 1) (k.arg 19 2) ha hok
  refine gives_command (t := s.gateLoaded (k.arg 16 2) (k.arg 24 8) (k.arg 18 1) (k.arg 19 2) l) hp rfl hopen
    (RingCmd.device hc) ?_ hkept fun u h => ?_
  · simp only [show ¬ 1024 ≤ k.arg 16 2 by omega, show ¬ 1 < k.arg 18 1 by omega, show ¬ 4096 ≤ k.arg 19 2 by omega,
      hread, ha, hl, hok, decide_false, Bool.or_false, Bool.not_true, Bool.false_eq_true, if_false]
    rfl
  · have hport : ∀ r : Reg, r.blk = 2 → u.rd r = (s.gateLoaded (k.arg 16 2) (k.arg 24 8) (k.arg 18 1) (k.arg 19 2) l).rd r :=
      fun r hr => h.rd r (fun e => by rw [e] at hr; exact absurd hr (by decide))
        (fun e => by rw [e] at hr; exact absurd hr (by decide))
    refine ⟨h.finished, ?_, ?_, fun j hj => ?_⟩
    · rw [State.bit, State.fld, hport _ rfl]
      exact harm
    · rw [hport _ rfl, hswitch]
    · rw [hport _ rfl, hentries j hj]

/-! ### Mirrors and tags -/

theorem mirrorSet_sets {l : List Byte} (hp : s.Posted k 0x0072 x) (hc : k.ctx = 0) (hn : k.arg 16 1 < 16)
    (hread : s.mayRead 0 (k.arg 24 8) 64 = true) (hl : s.dataRead (k.arg 24 8) 64 = (l, s))
    (hdest : ((s.mirror (k.arg 16 1)).load (ofBytes l)).dest = 1024 ∨
      (((s.mirror (k.arg 16 1)).load (ofBytes l)).dest < 1024 ∧
        s.role ((s.mirror (k.arg 16 1)).load (ofBytes l)).dest = 3)) :
    Gives (.mirrorSet k) s fun u =>
      u.Finished k x 0 ∧ u.mirror (k.arg 16 1) = (s.mirror (k.arg 16 1)).load (ofBytes l) := by
  refine gives_command (t := s.setMirror (k.arg 16 1) ((s.mirror (k.arg 16 1)).load (ofBytes l))) hp rfl hopen
    (RingCmd.device hc) ?_ ⟨rfl, fun _ _ => rfl⟩ fun u h => ⟨h.finished, ?_⟩
  · have hgood : (decide (1024 < ((s.mirror (k.arg 16 1)).load (ofBytes l)).dest) ||
        (decide (((s.mirror (k.arg 16 1)).load (ofBytes l)).dest < 1024) &&
          s.role ((s.mirror (k.arg 16 1)).load (ofBytes l)).dest != 3)) = false := by
      rcases hdest with h | ⟨h, hr⟩
      · simp [h]
      · simp [hr, h.le]
    simp only [show ¬ 16 ≤ k.arg 16 1 by omega, hread, hl, hgood, Bool.not_true, Bool.false_eq_true, if_false]
  · rw [State.mirror, h.mirrors]
    exact State.mirror_setMirror _ _ _

theorem tagWatch_binds (hp : s.Posted k 0x0073 x) (hc : k.ctx ≠ 0) (hn : k.arg 16 2 < 4096)
    (hfree : bitOf (s.entry (tagAddr s (k.arg 16 2)) 64) 416 = false) (hbind : bitOf (k.arg 18 1) 0 = true)
    (ha : x.Apart (tagAddr s (k.arg 16 2)) 64) : Gives (.tagWatch k) s fun u => u.Finished k x 0 ∧
      u.load (tagAddr s (k.arg 16 2)) 2 = k.ctx.toNat ∧
      u.load (tagAddr s (k.arg 16 2) + 2) 2 = k.arg 20 2 % 4096 ∧
      u.load (tagAddr s (k.arg 16 2) + 4) 4 = k.arg 24 4 ∧ u.load (tagAddr s (k.arg 16 2) + 52) 1 = 1 := by
  generalize hat : tagAddr s (k.arg 16 2) = a at hfree ha
  refine gives_command (t := s.put a (tagBytes k)) hp rfl hopen (RingCmd.own hc) ?_ (State.put_ringsKept _ _ _) fun u h => ?_
  · simp only [show ¬ 4096 ≤ k.arg 16 2 by omega, hat, hfree, hbind, Bool.false_and, Bool.false_eq_true, if_false]
    rfl
  · obtain ⟨h0, h2, h4, h52⟩ := s.put_tagBytes k a
    have h0' := h.load (ha.part (show 0 + 2 ≤ 64 by decide))
    exact ⟨h.finished, h0'.trans h0, (h.load (ha.part (by decide))).trans h2, (h.load (ha.part (by decide))).trans h4,
      (h.load (ha.part (by decide))).trans h52⟩

/-! ### Pools (R315) -/

theorem poolCreate_creates {o : Nat} (hc : k.ctx ≠ 0) (hlo : 4 ≤ k.arg 16 1) (hhi : k.arg 16 1 < 64)
    (hp : s.Posted k 0x0050 x) (hfree : (s.pool (poolArgs k).pool).state = 0) (hgood : PoolArgs.bad s (poolArgs k) = false)
    (hrd : s.covers k.ctx.toNat (s.genOf k.ctx.toNat) (poolArgs k).base
      ((poolArgs k).count * (4096 * 2 ^ (poolArgs k).size)) .rd = true)
    (hwr : s.covers k.ctx.toNat (s.genOf k.ctx.toNat) (poolArgs k).base
      ((poolArgs k).count * (4096 * 2 ^ (poolArgs k).size)) .wr = true)
    (hmin : (poolArgs k).min1 ≤ (poolArgs k).count) (ho : s.freeOwner = some o) :
    Gives (.poolCreate k) s fun u => u.Finished k x 0 ∧
      (u.pool (poolArgs k).pool).state = 1 ∧ (u.pool (poolArgs k).pool).ctx = k.ctx.toNat ∧
      (u.pool (poolArgs k).pool).count = (poolArgs k).count ∧ (u.pool (poolArgs k).pool).base = (poolArgs k).base ∧
      u.owner o = some ⟨(poolArgs k).pool, 1, ownerKey k.ctx.toNat 0, (poolArgs k).max1, (poolArgs k).min1, 0⟩ := by
  have hbody := State.poolCreate_ok (x := poolArgs k) hlo hhi hfree hgood hrd hwr hmin ho
  refine gives_command hp rfl hopen (RingCmd.own hc) hbody
    ((s.thread_ringsKept _ _ _).trans (State.poolMade_ringsKept _ _ _ _)) fun u h => ⟨h.finished, ?_⟩
  generalize s.thread_ (poolArgs k).base (4096 * 2 ^ (poolArgs k).size) (poolArgs k).count = a at h
  have hpool : u.pool (poolArgs k).pool = (poolArgs k).made k.ctx.toNat := by
    rw [State.pool, h.pools]
    exact a.pool_poolMade k.ctx.toNat o (poolArgs k)
  have howner := a.owner_poolMade k.ctx.toNat o (poolArgs k)
  rw [State.owner, ← h.owners] at howner
  rw [hpool]
  exact ⟨rfl, rfl, rfl, rfl, howner⟩

theorem poolDestroy_destroys (hc : k.ctx ≠ 0) (hlo : 4 ≤ k.arg 16 1) (hhi : k.arg 16 1 < 64) (hp : s.Posted k 0x0051 x)
    (hused : (s.pool (k.arg 16 1)).state ≠ 0) (hctx : (s.pool (k.arg 16 1)).ctx = k.ctx.toNat)
    (hfree : s.allocated (k.arg 16 1) = 0 ∨ bitOf (k.arg 17 1) 0 = true) (hw : ∀ w ∈ s.waiters, w.pool ≠ k.arg 16 1) :
    Gives (.poolDestroy k) s fun u => u.Finished k x 0 ∧ u.pool (k.arg 16 1) = Pool.init ∧
      ∀ e ∈ u.owners, e.2.pool ≠ k.arg 16 1 := by
  obtain ⟨hkept, hpool, howners⟩ := State.poolRemove_keeps hw
  refine gives_command (t := s.poolRemove (k.arg 16 1)) hp rfl hopen (RingCmd.own hc) ?_ hkept fun u h => ⟨h.finished, ?_, ?_⟩
  · have hbusy : ((s.pool (k.arg 16 1)).state = 1 && decide (0 < s.allocated (k.arg 16 1)) && !bitOf (k.arg 17 1) 0) = false := by
      rcases hfree with h | h <;> simp [h]
    unfold State.poolDestroy
    simp only [show ¬ 64 ≤ k.arg 16 1 by omega, show ¬ k.arg 16 1 < 4 by omega, hused, hctx, hbusy, bne_self_eq_false,
      decide_false, Bool.or_false, Bool.false_eq_true, if_false]
  · rw [State.pool, h.pools]
    exact hpool
  · rw [h.owners]
    exact howners

end

end Sys2Proof.Machine
end

section
/-! The rings stand through a broken circuit (R42, R43): the Weir's groups, their voids and holds, the entries broken, and
the peer's revisions put in force. -/

namespace Sys2Proof.Machine

section
variable (s : State)

/-! ### Rebound circuits -/

theorem State.rebindOne_ringsKept (l : Nat) : s.RingsKept (s.rebindOne l) := by
  unfold State.rebindOne
  extract_lets c d
  split
  · split
    · exact (s.setCircuit_ringsKept _ _).trans (State.setCircuit_ringsKept _ _ _)
    · exact .refl _
  · exact .refl _

/-- A STANDBY entry of a group that is rebound becomes ACTIVE (R43). -/
theorem State.activateStandby_ringsKept (l : Nat) : s.RingsKept
    (if (s.circuit l).valid && (s.circuit l).state == 1 then s.setCircuit l { s.circuit l with state := 0 } else s) := by
  split
  · exact s.setCircuit_ringsKept _ _
  · exact .refl _

theorem State.rebind_ringsKept (ctx handle : Nat) : s.RingsKept (s.rebind ctx handle).2 :=
  (State.RingsKept.foldl State.rebindOne_ringsKept _ s).trans (.foldl State.activateStandby_ringsKept _ _)

/-! ### Control cells, holds and seals -/

theorem State.sendCtl_ringsKept (g type kind chunk label attempt flags reason count body : Nat) :
    s.RingsKept (s.sendCtl g type kind chunk label attempt flags reason count body) := by
  unfold State.sendCtl
  extract_lets p
  unfold State.wmInject
  split
  · exact .refl _
  · exact s.inject_ringsKept _ _ _

theorem State.enterHold_ringsKept (g reason : Nat) : s.RingsKept (s.enterHold g reason) := by
  unfold State.enterHold
  split
  · exact s.setGrp_ringsKept _ _ _ _
  · have hstate := (s.setGState_ringsKept g 3).trans (State.setGrp_ringsKept _ g 6 1 reason)
    have hcount := hstate.trans (State.count_ringsKept _ (q := WM_HOLDS) 1 (by decide))
    exact (hcount.trans (State.modGroup_ringsKept _ _ _)).trans (State.notice_ringsKept _ _ _ _ _ _ _)

theorem State.rootHold_ringsKept (g reason : Nat) : s.RingsKept (s.rootHold g reason) :=
  (s.sendCtl_ringsKept _ _ _ _ _ _ _ _ _ _).trans (State.enterHold_ringsKept _ _ _)

theorem State.sendSeal_ringsKept (g c : Nat) : s.RingsKept (s.sendSeal g c) :=
  (s.count_ringsKept 1 (by decide)).trans (State.sendCtl_ringsKept _ _ _ _ _ _ _ _ _ _ _)

theorem State.reseal_ringsKept (g : Nat) : s.RingsKept (s.reseal g) :=
  .foldl (fun s c => s.sendSeal_ringsKept g c) _ _

/-! ### A chunk voided -/

theorem State.freePond_ringsKept (g c : Nat) : s.RingsKept (s.freePond g c) := by
  unfold State.freePond
  extract_lets y granted u w
  split
  · exact .refl _
  next o _ =>
    have hu : s.RingsKept u := (s.putWaiters_ringsKept _).trans (State.putGrants_ringsKept _ _)
    have hw : u.RingsKept w := by
      simp only [w]
      split
      · exact u.putChunk_ringsKept _ _ _
      · exact .refl _
    exact (hu.trans hw).trans (.foldl (fun s h => s.poolFreeHandle_ringsKept 1 o h) _ _)

theorem State.recordRing_ringsKept (g chunk step red node slot fmtop flags elems ccrc : Nat) (payload : List Byte) :
    s.RingsKept (s.recordRing g chunk step red node slot fmtop flags elems ccrc payload) := by
  unfold State.recordRing
  extract_lets first pay n w x b
  split
  · split
    · exact ((s.put_ringsKept _ _).trans (State.setGrp_ringsKept _ _ _ _ _)).trans (State.setGroup_ringsKept _ _ _)
    · exact ((s.setGBit_ringsKept _ _ _ _).trans (State.setGBit_ringsKept _ _ _ _ _)).trans
        (State.notice_ringsKept _ _ _ _ _ _ _)
  · exact .refl _

theorem State.free_ringsKept : s.RingsKept s.free.2 := .of_same rfl rfl

theorem State.recordVoid_ringsKept (g c : Nat) : s.RingsKept (s.recordVoid g c) :=
  s.free_ringsKept.trans (State.recordRing_ringsKept _ _ _ _ _ _ _ _ _ _ _ _)

theorem State.voidEntry_ringsKept (t e : Nat) : s.RingsKept (s.voidEntry t e) := by
  have hcount : s.RingsKept (s.count (WEIR_VOIDED t)) := s.count_ringsKept 1 (by simp [WEIR_VOIDED])
  unfold State.voidEntry
  extract_lets y u a v n w
  split
  · exact .refl _
  · exact hcount.trans (State.modTile_ringsKept _ _ _)
  · exact hcount.trans (State.modTile_ringsKept _ _ _)
  · have hv : s.RingsKept v := hcount.trans (State.setBytes_ringsKept _ _ _)
    exact (hv.trans (v.store_ringsKept _ _ _)).trans (State.modTile_ringsKept _ _ _)
  · exact hcount.trans (State.modTile_ringsKept _ _ _)

theorem State.voidEntries_ringsKept (g : Nat) (p : Nat → Bool) : s.RingsKept (s.voidEntries g p) := by
  have hentry : ∀ (u : State) (e : Nat × Nat × Nat), u.RingsKept ((u.voidEntry e.1 e.2.1).run e.1) := fun u e =>
    (u.voidEntry_ringsKept _ _).trans (State.run_ringsKept _ _)
  exact .foldl hentry _ s

theorem State.drained_ringsKept : s.RingsKept s.drained := by
  refine .foldl (fun s g => ?_) _ _
  split
  · exact s.setGState_ringsKept _ _
  · exact .refl _

theorem State.voidHere_ringsKept (g c attempt : Nat) : s.RingsKept (s.voidHere g c attempt) := by
  unfold State.voidHere
  extract_lets u y fresh v w
  have hw : s.RingsKept w :=
    ((s.freePond_ringsKept g c).trans (u.putChunk_ringsKept _ _ _)).trans (v.modGroup_ringsKept _ _)
  clear_value w
  exact ((hw.trans (w.recordVoid_ringsKept g c)).trans (State.voidEntries_ringsKept _ _ _)).trans (State.drained_ringsKept _)

theorem State.countVoid_ringsKept (g : Nat) : s.RingsKept (s.countVoid g) :=
  (s.count_ringsKept 1 (by decide)).trans (State.setGrp_ringsKept _ _ _ _ _)

theorem State.rootVoid_ringsKept (g c reason : Nat) (abort : Bool) : s.RingsKept (s.rootVoid g c reason abort) := by
  unfold State.rootVoid
  extract_lets y a u v
  split
  · exact .refl _
  · split
    · exact s.rootHold_ringsKept _ _
    · have hv : s.RingsKept v := (s.putChunk_ringsKept _ _ _).trans (u.sendCtl_ringsKept _ _ _ _ _ _ _ _ _ _)
      clear_value v
      exact (hv.trans (v.countVoid_ringsKept g)).trans (State.voidHere_ringsKept _ _ _ _)

/-! ### A break reported -/

theorem State.sendBreak_ringsKept (g label body : Nat) :
    s.RingsKept ((s.count WM_BREAKS).sendCtl g 10 ctlBreak wholeColl label 0 0 5 0 body) :=
  (s.count_ringsKept 1 (by decide)).trans (State.sendCtl_ringsKept _ _ _ _ _ _ _ _ _ _ _)

theorem State.breakSteps_ringsKept (g : Nat) : s.RingsKept (s.breakSteps g) := by
  unfold State.breakSteps
  extract_lets l u v
  have hu : s.RingsKept u := (s.modGroup_ringsKept _ _).trans (State.reseal_ringsKept _ g)
  have hbody : ∀ (w : State) (b : Payload),
      w.RingsKept ((w.count WM_BREAKS).sendCtl g 10 ctlBreak wholeColl (w.gDown g) 0 0 5 0 b.toNat) := fun w b =>
    w.sendBreak_ringsKept g _ _
  have hv : u.RingsKept v := .foldl hbody _ u
  refine (hu.trans hv).trans (.foldl (fun s c => ?_) _ _)
  split
  · exact s.rootVoid_ringsKept _ _ _ _
  · exact .refl _

theorem State.rootBreak_ringsKept (g : Nat) (body : Payload) : s.RingsKept (s.rootBreak g body) := by
  unfold State.rootBreak
  extract_lets u v
  have hu : s.RingsKept u := s.setGrp_ringsKept _ _ _ _
  have hv : s.RingsKept v := hu.trans (u.modGroup_ringsKept _ _)
  clear_value u v
  split
  · exact .refl _
  · split
    · exact hu
    · split
      · exact hu.trans (u.rootHold_ringsKept _ _)
      · split
        · exact hv.trans (v.breakSteps_ringsKept _)
        · exact hv.trans (v.modGroup_ringsKept _ _)

theorem State.reportBreak_ringsKept (g port : Nat) (rebound : Bool) : s.RingsKept (s.reportBreak g port rebound) := by
  unfold State.reportBreak
  extract_lets b up
  split
  · exact s.rootBreak_ringsKept _ _
  · split
    · exact s.sendBreak_ringsKept _ _ _
    · split
      · exact s.enterHold_ringsKept _ _
      · exact .refl _

/-- The BROKEN entries of one group are rebound, and the break is reported (R43, R254). -/
theorem State.breakGroup_ringsKept (p : Nat) (endpoint : Bool) (k : Nat × Nat) :
    s.RingsKept (let (all, s) := if endpoint then (false, s) else s.rebind k.1 k.2
      match s.findGroup k.1 k.2 with
      | some g => s.reportBreak g p all
      | none => s) := by
  have hbound : s.RingsKept (if endpoint then (false, s) else s.rebind k.1 k.2).2 := by
    split
    · exact .refl _
    · exact s.rebind_ringsKept _ _
  generalize (if endpoint then (false, s) else s.rebind k.1 k.2) = b at hbound
  obtain ⟨all, u⟩ := b
  dsimp only at hbound ⊢
  split
  · exact hbound.trans (u.reportBreak_ringsKept _ _ _)
  · exact hbound

theorem State.breakEntries_ringsKept (p : Nat) (which : Circuit → Bool) (endpoint : Bool) :
    s.RingsKept (s.breakEntries p which endpoint) :=
  (State.RingsKept.foldl (fun s l => s.setCircuit_ringsKept l _) _ s).trans
    (.foldl (fun s k => s.breakGroup_ringsKept p endpoint k) _ _)

/-! ### The peer's revisions in force, and what a port expects of its peer -/

theorem State.applyRevs_ringsKept (p : Nat) : s.RingsKept (s.applyRevs p) := by
  have hstat : ∀ (s : State) f v, s.RingsKept (s.setFld (PORT_LINK_STAT p) f v) := fun s f v =>
    s.setFld_ringsKept _ _ (by simp [PORT_LINK_STAT])
  unfold State.applyRevs
  extract_lets seen coll peer rev off s1 s2 s3 fp own diff s4
  have h2 : s.RingsKept s2 := (hstat s _ _).trans (hstat s1 _ _)
  have h3 : s2.RingsKept s3 := by
    simp only [s3]
    split
    · exact (s2.notice_ringsKept _ _ _ _ _ _).trans (State.breakEntries_ringsKept _ _ _ _)
    · exact .refl _
  have h4 : s.RingsKept s4 := (h2.trans h3).trans (hstat s3 _ _)
  clear_value s4
  split
  · exact h4.trans (s4.notice_ringsKept _ _ _ _ _ _)
  · exact h4

theorem State.expectPeer_ringsKept (p : Nat) : s.RingsKept (s.expectPeer p) := by
  unfold State.expectPeer
  split
  · exact .refl _
  · exact (s.wr_ringsKept _ (by simp [PORT_PEER_EXP0])).trans (State.wr_ringsKept _ _ (by simp [PORT_PEER_EXP1]))

/-- The registers, the lane map and the circuits as a port adopted leaves them, before its link comes up. -/
def State.adoptPeer (p : Nat) : State :=
  ((s.putLaneMap (s.laneMap.map (LaneRec.expect p (s.rd (PORT_PEER_SEEN0 p)).toNat (s.rd (PORT_PEER_SEEN1 p))))).expectPeer
    p).applyRevs p

theorem State.adoptPeer_ringsKept (p : Nat) : s.RingsKept (s.adoptPeer p) := by
  unfold State.adoptPeer
  have hmap : ∀ l, s.RingsKept (s.putLaneMap l) := fun l => .of_same rfl rfl
  exact ((hmap _).trans (State.expectPeer_ringsKept _ p)).trans (State.applyRevs_ringsKept _ p)

end

/-- A port in quarantine for a peer that only differs from what it expects adopts that peer, if its role suits it. -/
theorem State.adopt_ok {s : State} {p : Nat} (hst : s.linkState p = linkQuarantined)
    (hq : s.fld (PORT_LINK_STAT p) PORT_LINK_STAT_Q_REASON ≤ 4) (hrole : s.role p = 2)
    (hpeer : bitsOf (s.rd (PORT_PEER_SEEN0 p)).toNat 44 2 = 0) :
    s.adopt p = (0, (s.adoptPeer p).setLink p ((s.adoptPeer p).upState p) 0) := by
  have hreason : [5, 7, 6, 8, 9].contains (s.fld (PORT_LINK_STAT p) PORT_LINK_STAT_Q_REASON) = false := by
    simp only [List.contains_eq_mem, List.mem_cons, List.not_mem_nil, or_false, decide_eq_false_iff_not]
    omega
  unfold State.adopt
  simp only [hst, hreason, hrole, hpeer]
  rfl

theorem State.upState_cases (s : State) (p : Nat) : s.upState p = linkUp ∨ s.upState p = linkDegraded := by
  unfold State.upState
  split <;> simp

/-- A port whose link comes up is live; the rings stand. -/
theorem State.setLink_up {s : State} {p new : Nat} (h : new = linkUp ∨ new = linkDegraded) :
    s.RingsKept (s.setLink p new 0) ∧
      (s.setLink p new 0).rd (PORT_LINK_STAT p) = (s.setFld (PORT_LINK_STAT p) PORT_LINK_STAT_STATE new).rd (PORT_LINK_STAT p) := by
  have hne : new ≠ linkDown := by
    rcases h with rfl | rfl <;> decide
  have honly := State.setLink_only s p new 0 hne
  exact ⟨(s.setFld_ringsKept _ _ (by simp [PORT_LINK_STAT])).trans honly.ringsKept, honly.rd _ (quiet_port rfl)⟩

theorem adoptWiring_adopts {s : State} {k : RingCmd} {x : Ring} (hopen : s.ctxState k.ctx.toNat = 1)
    (hp : s.Posted k 0x0090 x) (hc : k.ctx = 0) (hport : k.arg 16 2 < 1024) (hst : s.linkState (k.arg 16 2) = linkQuarantined)
    (hq : s.fld (PORT_LINK_STAT (k.arg 16 2)) PORT_LINK_STAT_Q_REASON ≤ 4) (hrole : s.role (k.arg 16 2) = 2)
    (hpeer : bitsOf (s.rd (PORT_PEER_SEEN0 (k.arg 16 2))).toNat 44 2 = 0) :
    Gives (.adoptWiring k) s fun u => u.Finished k x 0 ∧ u.live (k.arg 16 2) = true := by
  have hadopt := State.adopt_ok hst hq hrole hpeer
  generalize harg : k.arg 16 2 = p at *
  have hup := State.upState_cases (s.adoptPeer p) p
  generalize (s.adoptPeer p).upState p = new at *
  obtain ⟨hkept, hrd⟩ := State.setLink_up (s := s.adoptPeer p) (p := p) hup
  have hnew : new % 2 ^ PORT_LINK_STAT_STATE.width = new := by
    rcases hup with rfl | rfl <;> rfl
  refine gives_command (t := (s.adoptPeer p).setLink p new 0) hp rfl hopen (RingCmd.device hc) ?_
    ((s.adoptPeer_ringsKept p).trans hkept) fun u h => ⟨h.finished, ?_⟩
  · simp [harg, show p ≠ 0xFFFF by omega, show ¬ 1024 ≤ p by omega, hadopt]
  · have hstate : u.linkState p = new := by
      rw [State.linkState, State.fld, h.rd _ (by simp [PORT_LINK_STAT, HP_EVT_LOST]) (by simp [PORT_LINK_STAT, CDC_STATE]), hrd]
      exact (State.fld_setFld_same _ _ _ _ (by decide)).trans hnew
    rw [State.live, hstate]
    rcases hup with rfl | rfl <;> rfl

end Sys2Proof.Machine
end

section
/-! The commands that write tables settled (O46). -/

namespace Sys2Proof.Machine

/-- Settles O46: each command's body leaves the rings, so its entry is the last one taken, and it completes with OK. -/
theorem ringTables : Obligations.RingTables := by
  intro s k x hopen
  refine ⟨?circuits, ?tree, ?gate, ?mirror, ?tag, ?wiring, ?pools⟩
  case circuits =>
    intro hc hl ha
    exact ⟨circSetup_sets hopen hc hl ha, circTear_clears hopen hc hl ha⟩
  case tree => exact fun l hp hc => treeSet_sets hopen hc hp
  case gate => exact fun l => gateLoad_arms hopen
  case mirror => exact fun l => mirrorSet_sets hopen
  case tag => exact tagWatch_binds hopen
  case wiring => exact adoptWiring_adopts hopen
  case pools =>
    intro hc hlo hhi
    exact ⟨fun o => poolCreate_creates hopen hc hlo hhi, poolDestroy_destroys hopen hc hlo hhi⟩

end Sys2Proof.Machine
end

section
/-! Slots freed, copies linked, held cells placed, mirror datagrams and the crossing of internal inputs (O31). -/

namespace Sys2Proof.Machine

/-- In a list without repetition the one member of which `p` holds is all that a filter leaves. -/
theorem filter_eq_singleton {α : Type} [DecidableEq α] {l : List α} {a : α} {p : α → Bool} (hd : l.Nodup) (ha : a ∈ l)
    (hp : ∀ b ∈ l, p b = (b == a)) : l.filter p = [a] := by
  rw [List.filter_congr hp, List.filter_beq, List.count_eq_one_of_mem hd ha, List.replicate_one]

/-! ### A slot freed (R69, R74) -/

theorem State.slotFree_kept {s : State} {n : Nat} {x : Slot} (hx : Table.look s.slots n = some x) (h : x.copies ≠ 0) :
    s.slotFree n = s := by
  simp [State.slotFree, hx, h]

theorem State.slotFree_done {s : State} {n : Nat} {x : Slot} (hx : Table.look s.slots n = some x) (h : x.copies = 0) :
    s.slotFree n = (s.putSlots (Table.del s.slots n)).freeCredit x := by
  simp [State.slotFree, hx, h]

/-- The credit of a cell of a port's reservation goes back to its channel. -/
theorem State.freeCredit_reserved {s : State} {x : Slot} (hc : x.charge = .reserved) (hl : s.live x.input = true)
    (he : (s.vc x.input x.vc).excess = 0) : s.freeCredit x = s.raiseCred x.input x.vc := by
  have hg : s.granted x.input = true := by simp [State.granted, hl]
  simp [State.freeCredit, hc, State.creditBack, hg, he]

theorem State.freeCredit_none {s : State} {x : Slot} (hc : x.charge = .shared ∨ x.charge = .internal ∨ x.charge = .mirror) :
    s.freeCredit x = s := by
  rcases hc with hc | hc | hc <;> simp [State.freeCredit, hc]

/-! ### What the copies of a cell leave -/

/-- What linking the copies of a cell, and the credit that follows, leave as it was. -/
structure State.LinkKept (s t : State) : Prop where
  slots : t.slots = s.slots
  mem : t.mem = s.mem
  heldCells : t.heldCells = s.heldCells
  xin : t.xin = s.xin
  xinLast : t.xinLast = s.xinLast

theorem State.LinkKept.trans {a b c : State} (h : a.LinkKept b) (k : b.LinkKept c) : a.LinkKept c :=
  ⟨k.slots.trans h.slots, k.mem.trans h.mem, k.heldCells.trans h.heldCells, k.xin.trans h.xin, k.xinLast.trans h.xinLast⟩

theorem State.linkCopy_kept (s : State) (input n : Nat) (desc : Bool) (k : Copy) : s.LinkKept (s.linkCopy input n desc k) := by
  have htag : s.LinkKept (if (s.q k.out k.vc).isEmpty then s.tagOnLink k.out k.vc else s) := by
    split
    · rcases s.tagOnLink_eq k.out k.vc with he | ⟨f, he⟩ <;> rw [he] <;> constructor <;> simp
    · exact ⟨rfl, rfl, rfl, rfl, rfl⟩
  refine htag.trans ?_
  constructor <;> simp [State.linkCopy]

theorem State.linkCopies_kept (input n : Nat) (l : List (Copy × Nat)) (s : State) :
    s.LinkKept (l.foldl (fun a x => a.linkCopy input n (decide (0 < x.2)) x.1) s) := by
  induction l generalizing s with
  | nil => exact ⟨rfl, rfl, rfl, rfl, rfl⟩
  | cons c l ih => exact (s.linkCopy_kept input n _ c.1).trans (ih _)

/-- What a cell placed is charged to (R70, R74; spec/10_expert_and_headwater.md R271). -/
def State.placedCharge (s : State) (input : Nat) (i : Item) (copies : List Copy) : Charge :=
  if dispatched input i then .shared else if !isFabric input then .internal
  else if isFabric input && s.mayShare input copies then .shared else .reserved

theorem State.placedCharge_internal (s : State) {input : Nat} {i : Item} (copies : List Copy) (hf : isFabric input = false)
    (hd : dispatched input i = false) : s.placedCharge input i copies = .internal := by
  simp [State.placedCharge, hf, hd]

/-- The state with a cell of these copies written into the lowest free slot. -/
def State.slotTaken (s : State) (input v : Nat) (i : Item) (ctx : Nat) (copies : List Copy) : State :=
  s.putSlots (Table.put natRank s.slots s.freeSlot ⟨i, input, v, s.placedCharge input i copies, copies.length, ctx⟩)

/-- A cell placed is written into its slot, then its copies are linked; the credit that follows leaves what linking leaves,
and the queues. -/
theorem State.place_links (s : State) (input v : Nat) (i : Item) (ctx : Nat) (copies : List Copy) :
    let t := copies.zipIdx.foldl (fun a x => a.linkCopy input s.freeSlot (decide (0 < x.2)) x.1)
      (s.slotTaken input v i ctx copies)
    t.LinkKept (s.place input v i ctx copies) ∧ (s.place input v i ctx copies).queues = t.queues := by
  unfold State.place State.slotTaken State.placedCharge
  dsimp only
  generalize List.foldl _ _ _ = t
  split
  · exact ⟨⟨rfl, rfl, rfl, rfl, rfl⟩, rfl⟩
  split
  · obtain ⟨f, hf⟩ := t.creditBack_eq input v
    rw [hf]
    exact ⟨⟨rfl, rfl, rfl, rfl, rfl⟩, rfl⟩
  · exact ⟨⟨State.count_slots .., State.count_mem .., State.count_heldCells .., State.count_xin .., State.count_xinLast ..⟩,
      State.count_queues ..⟩

theorem State.place_kept (s : State) (input v : Nat) (i : Item) (ctx : Nat) (copies : List Copy) :
    (s.slotTaken input v i ctx copies).LinkKept (s.place input v i ctx copies) :=
  (State.linkCopies_kept input s.freeSlot copies.zipIdx _).trans (s.place_links input v i ctx copies).1

/-- A cell placed takes the lowest free slot. -/
theorem State.look_place (s : State) (input v : Nat) (i : Item) (ctx : Nat) (copies : List Copy) :
    Table.look (s.place input v i ctx copies).slots s.freeSlot =
      some ⟨i, input, v, s.placedCharge input i copies, copies.length, ctx⟩ := by
  rw [(s.place_kept input v i ctx copies).slots]
  exact Table.look_put_same ..

/-- A copy stands at the tail of its queue where no higher-numbered input linked in the same core cycle, behind the head that
a tile's port may offer to its Weir (R12). -/
theorem State.q_linkCopy {s : State} {input n : Nat} {desc : Bool} {k : Copy}
    (h : ∀ x ∈ s.q k.out k.vc, x.linked.1 ≠ s.cycle ∨ x.linked.2 ≤ input) :
    (s.linkCopy input n desc k).q k.out k.vc =
      s.q k.out k.vc ++ [⟨n, k.hdr, desc, s.cycle, k.last, (s.cycle, input)⟩] := by
  have hcycle : (if (s.q k.out k.vc).isEmpty then s.tagOnLink k.out k.vc else s).cycle = s.cycle := by
    split
    · rcases s.tagOnLink_eq k.out k.vc with he | ⟨f, he⟩ <;> rw [he]
      rw [State.modPort_cycle]
    · rfl
  unfold State.linkCopy
  dsimp only
  generalize (if (s.q k.out k.vc).isEmpty then s.tagOnLink k.out k.vc else s) = t at hcycle ⊢
  rw [State.q_setQueue, hcycle]
  split
  · rw [linkInto_tail fun x hx => h x (List.mem_of_mem_drop hx), ← List.append_assoc, List.take_append_drop]
  · exact linkInto_tail h

/-- The one copy of a cell placed stands at the tail of its queue. -/
theorem State.q_place_one {s : State} {input v ctx : Nat} {i : Item} {k : Copy}
    (h : ∀ x ∈ s.q k.out k.vc, x.linked.1 ≠ s.cycle ∨ x.linked.2 ≤ input) :
    (s.place input v i ctx [k]).q k.out k.vc =
      s.q k.out k.vc ++ [⟨s.freeSlot, k.hdr, false, s.cycle, k.last, (s.cycle, input)⟩] := by
  rw [State.q, State.queue, (s.place_links input v i ctx [k]).2]
  exact State.q_linkCopy (s := s.slotTaken input v i ctx [k]) h

/-! ### Held cells (R68) -/

/-- An input that holds one cell has it at the front of its channel. -/
theorem State.heldHeads_one {s : State} {x : HeldCell} {l : List HeldCell} (hh : s.heldCells = x :: l) (hv : x.vc < 16)
    (hl : ∀ y ∈ l, y.input ≠ x.input) : s.heldHeads x.input = [x] := by
  have hfind : ∀ v, (s.heldCells.find? fun h => h.input == x.input && h.vc == v) = if v == x.vc then some x else none := by
    intro v
    have hrest : (l.find? fun h => h.input == x.input && h.vc == v) = none := by
      rw [List.find?_eq_none]
      intro y hy
      simp [hl y hy]
    by_cases hvc : v = x.vc
    · simp [hh, hvc]
    · rw [hh, List.find?_cons_of_neg (by simp [Ne.symm hvc]), hrest, if_neg (by simpa using hvc)]
  unfold State.heldHeads
  simp only [hfind]
  rw [← List.filterMap_filter, filter_eq_singleton List.nodup_range (List.mem_range.mpr hv) fun _ _ => rfl]
  rfl

/-- A held cell for which descriptors suffice leaves the held cells and takes a slot. -/
theorem State.turnout_places {s : State} {x : HeldCell} {l : List HeldCell} (hh : s.heldCells = x :: l)
    (hd : s.descUsed + (x.copies.length - 1) ≤ Config.descriptors) :
    (s.turnout x).heldCells = l ∧
      ∃ ch, Table.look (s.turnout x).slots s.freeSlot = some ⟨x.item, x.input, x.vc, ch, x.copies.length, x.ctx⟩ := by
  have hshort : s.descShort x.copies = false := by simpa [State.descShort] using hd
  have hplace : s.turnout x = (s.putHeldCells l).place x.input x.vc x.item x.ctx x.copies := by
    simp [State.turnout, hshort, hh]
  rw [hplace]
  exact ⟨(State.place_kept ..).heldCells, _, State.look_place (s.putHeldCells l) ..⟩

/-! ### The datagram of a mirror session (R87) -/

/-- The datagram in progress leaves when the host link is up; the session starts its next one. -/
theorem State.flushMirror_sends {s : State} {k : Nat} (h : (s.mirror k).records ≠ []) :
    let u := s.flushMirror k
    (u.mirror k).records = [] ∧ (u.mirror k).dgramSeq = (s.mirror k).dgramSeq + 1 ∧
      u.out.length = s.out.length + (if s.hostLink then 1 else 0) ∧ u.slots = s.slots ∧ u.mem = s.mem := by
  cases hlink : s.hostLink <;> simp [State.flushMirror, h, hlink, State.also, State.emit]

/-! ### The crossing (R10, R70) -/

theorem mem_crossOrder {last i : Nat} : i ∈ crossOrder last ↔ 1024 ≤ i ∧ i < 1298 := by
  have hports : i ∈ (List.range Config.internalPorts).map (1024 + ·) ↔ 1024 ≤ i ∧ i < 1298 := by
    simp only [List.mem_map, List.mem_range, Config.internalPorts]
    exact ⟨fun ⟨a, ha, e⟩ => by omega, fun h => ⟨i - 1024, by omega, by omega⟩⟩
  simp only [crossOrder, List.mem_append, List.mem_filter, decide_eq_true_eq, hports]
  omega

theorem internalInputs_nodup : ((List.range Config.internalPorts).map (1024 + ·)).Nodup :=
  List.nodup_range.map (add_right_injective 1024)

theorem crossOrder_nodup (last : Nat) : (crossOrder last).Nodup := by
  refine (internalInputs_nodup.filter _).append (internalInputs_nodup.filter _) fun i h h' => ?_
  have h1 := (List.mem_filter.mp h).2
  have h2 := (List.mem_filter.mp h').2
  simp only [decide_eq_true_eq] at h1 h2
  omega

/-- Where one internal input alone has an item ready, that item is all that crosses. -/
theorem execCrossbarTransfer_one {s : State} {i v : Nat} {x : Item} (hon : s.on = true) (hlo : 1024 ≤ i) (hhi : i < 1298)
    (hready : s.ready i = some (v, x)) (hothers : ∀ j, 1024 ≤ j → j < 1298 → j ≠ i → s.ready j = none) :
    execCrossbarTransfer s = ok s ((s.putXinLast i).cross i v x) := by
  have honly : ∀ j, 1024 ≤ j → j < 1298 → (s.ready j).isSome = (j == i) := by
    intro j h1 h2
    by_cases hj : j = i
    · simp [hj, hready]
    · simp [hj, hothers j h1 h2 hj]
  have hserved : (crossOrder s.xinLast).filter (fun j => (s.ready j).isSome) = [i] :=
    filter_eq_singleton (crossOrder_nodup _) (mem_crossOrder.mpr ⟨hlo, hhi⟩) fun j hj =>
      honly j (mem_crossOrder.mp hj).1 (mem_crossOrder.mp hj).2
  have hturn : ((List.range Config.internalPorts).map (1024 + ·)).filter (fun j => [i].contains j) = [i] := by
    refine filter_eq_singleton internalInputs_nodup ?_ fun j _ => by simp [Bool.beq_eq_decide_eq]
    exact List.mem_map.mpr ⟨i - 1024, List.mem_range.mpr (by simp only [Config.internalPorts]; omega), by omega⟩
  have hready' : (s.putXinLast i).ready i = some (v, x) := hready
  unfold execCrossbarTransfer
  rw [State.powered_on hon]
  simp only [hserved]
  rw [← List.foldl_filter, show List.take 512 [i] = [i] from rfl, hturn]
  simp [hready']

/-- The one item of an input's buffer is ready where its channel has a slot free. -/
theorem State.ready_one {s : State} {i v : Nat} {x : Item} (hx : Table.get [] s.xin i = [(v, x)])
    (hr : s.itemRoom i v x = true) : s.ready i = some (v, x) := by
  simp [State.ready, hx, hr]

theorem State.ready_none {s : State} {i : Nat} (hx : Table.get [] s.xin i = []) : s.ready i = none := by
  simp [State.ready, hx]

/-- A response has a slot where its channel's reservation is not full and nothing is held (R70). -/
theorem State.itemRoom_rsp {s : State} {i v : Nat} {r : Response} (hc : s.charged i v < 64) (hh : s.heldCells = []) :
    s.itemRoom i v (.rsp r) = true := by
  simpa [State.itemRoom, dispatched, State.internalRoom, hh] using hc

/-- The state in which a response that crosses is placed: it has left its input's buffer and is counted for its context. -/
def State.rspCrossing (s : State) (i v : Nat) (r : Response) : State :=
  (s.putXin (Table.set natRank [] s.xin i ((Table.get [] s.xin i).erase (v, .rsp r)))).countCell (s.tile r.tile).ctx
    (s.genOf (s.tile r.tile).ctx)

/-- A response crosses to the queue of the tile that asked, on the channel with which it entered. -/
theorem State.cross_rsp {s : State} {r : Response} (hh : s.heldCells = []) (hd : s.descUsed ≤ Config.descriptors) (i v : Nat) :
    s.cross i v (.rsp r) =
      (s.rspCrossing i v r).place i v (.rsp r) (s.tile r.tile).ctx [⟨1025 + r.tile, v, 0, false⟩] :=
  State.enter_free (s := s.rspCrossing i v r) hh hd i v _ _ _

end Sys2Proof.Machine
end

section
/-! Slots and queues settled (O31). -/

namespace Sys2Proof.Machine

/-- SLOT_FREE of a slot whose last copy has been read. -/
theorem gives_slotFree {s : State} {n : BitVec 22} {x : Slot} {P : State → Prop} (hon : s.on = true)
    (hx : Table.look s.slots n.toNat = some x) (hc : x.copies = 0)
    (h : P (s.commit ((s.putSlots (Table.del s.slots n.toNat)).freeCredit x))) : Gives (.slotFree n) s P :=
  gives_ok (by simp only [exec, execSlotFree, State.powered_on hon, State.slotFree_done hx hc]) h

theorem slotFree_reserved {s : State} {n : BitVec 22} {x : Slot} (hon : s.on = true)
    (hx : Table.look s.slots n.toNat = some x) (hc : x.copies = 0) (hr : x.charge = .reserved)
    (hl : s.live x.input = true) (he : (s.vc x.input x.vc).excess = 0) : Gives (.slotFree n) s fun u =>
      Table.look u.slots n.toNat = none ∧ (u.vc x.input x.vc).cred = ((s.vc x.input x.vc).cred + 1) % 65536 ∧
      (∀ m, m ≠ n.toNat → Table.look u.slots m = Table.look s.slots m) ∧ u.mem = s.mem ∧ u.regs = s.regs := by
  refine gives_slotFree hon hx hc ?_
  rw [State.freeCredit_reserved (s := s.putSlots (Table.del s.slots n.toNat)) hr hl he, State.raiseCred]
  have hlook : ∀ m, Table.look (Table.del s.slots n.toNat) m = if n.toNat = m then none else Table.look s.slots m :=
    fun m => Table.look_del ..
  refine ⟨(hlook _).trans (if_pos rfl), ?_, fun m hm => (hlook m).trans (if_neg (Ne.symm hm)), by simp, by simp⟩
  rw [State.vc_commit, State.vc_modVc_same]
  rfl

theorem slotFree_uncharged {s : State} {n : BitVec 22} {x : Slot} (hon : s.on = true)
    (hx : Table.look s.slots n.toNat = some x) (hc : x.copies = 0)
    (hr : x.charge = .shared ∨ x.charge = .internal ∨ x.charge = .mirror) :
    Gives (.slotFree n) s fun u => Table.look u.slots n.toNat = none ∧ u.ports = s.ports := by
  refine gives_slotFree hon hx hc ?_
  rw [State.freeCredit_none hr]
  exact ⟨(Table.look_del ..).trans (if_pos rfl), rfl⟩

theorem turnoutReplicate_places {s : State} {i : Fin 1298} {x : HeldCell} {l : List HeldCell} (hon : s.on = true)
    (hh : s.heldCells = x :: l) (hi : x.input = i.val) (hv : x.vc < 16) (hl : ∀ y ∈ l, y.input ≠ i.val)
    (hd : s.descUsed + (x.copies.length - 1) ≤ Config.descriptors) :
    Gives (.turnoutReplicate i) s fun u => u.heldCells = l ∧
      ∃ ch, Table.look u.slots s.freeSlot = some ⟨x.item, x.input, x.vc, ch, x.copies.length, x.ctx⟩ := by
  have hheads : s.heldHeads i.val = [x] := hi ▸ State.heldHeads_one hh hv (hi.symm ▸ hl)
  refine gives_ok (t := s.turnout x) ?_ (State.turnout_places hh hd)
  simp only [exec, execTurnoutReplicate, State.powered_on hon, hheads, List.foldl_cons, List.foldl_nil]

theorem crossbarTransfer_rsp {s : State} {i v : Nat} {r : Response} (hon : s.on = true) (hlo : 1024 ≤ i) (hhi : i < 1298)
    (hx : Table.get [] s.xin i = [(v, .rsp r)])
    (hothers : ∀ j, 1024 ≤ j → j < 1298 → j ≠ i → Table.get [] s.xin j = []) (hc : s.charged i v < 64)
    (hh : s.heldCells = []) (hd : s.descUsed ≤ Config.descriptors)
    (hlinked : ∀ x ∈ s.q (1025 + r.tile) v, x.linked.1 ≠ s.cycle ∨ x.linked.2 ≤ i) :
    Gives .crossbarTransfer s fun u => Table.get [] u.xin i = [] ∧ u.xinLast = i ∧
      u.q (1025 + r.tile) v = s.q (1025 + r.tile) v ++ [⟨s.freeSlot, 0, false, s.cycle, false, (s.cycle, i)⟩] ∧
      Table.look u.slots s.freeSlot = some ⟨.rsp r, i, v, .internal, 1, (s.tile r.tile).ctx⟩ ∧ u.mem = s.mem := by
  refine gives_ok (execCrossbarTransfer_one hon hlo hhi (State.ready_one hx (State.itemRoom_rsp hc hh))
    fun j h1 h2 hj => State.ready_none (hothers j h1 h2 hj)) ?_
  rw [State.cross_rsp (s := s.putXinLast i) hh hd]
  have hkept := ((s.putXinLast i).rspCrossing i v r).place_kept i v (.rsp r) (s.tile r.tile).ctx
    [⟨1025 + r.tile, v, 0, false⟩]
  have hinternal : isFabric i = false := by simpa [isFabric] using hlo
  refine ⟨(congrArg (Table.get [] · i) hkept.xin).trans ?_, hkept.xinLast,
    State.q_place_one (s := (s.putXinLast i).rspCrossing i v r) hlinked, (State.look_place ..).trans ?_, hkept.mem⟩
  · simp [State.slotTaken, State.rspCrossing, State.countCell, hx]
  · rw [State.placedCharge_internal _ _ hinternal rfl]
    rfl

/-- Settles O31: each command is one update of the Reservoir, read off its slots, held cells, mirrors and queues. -/
theorem slotsAndQueues : Obligations.SlotsAndQueues := by
  intro s hon
  refine ⟨fun n x hx => ⟨fun hc => ?_, slotFree_reserved hon hx, slotFree_uncharged hon hx⟩,
    fun i x l => turnoutReplicate_places hon, fun k hk => ?_,
    fun i v r hlo hhi hx hothers hc _ => crossbarTransfer_rsp hon hlo hhi hx hothers hc⟩
  · simp only [exec, execSlotFree, State.powered_on hon, State.slotFree_kept hx hc, ok_self]
  · refine gives_ok (t := s.flushMirror k.val) ?_ (State.flushMirror_sends hk)
    simp only [exec, execMirFlush, State.powered_on hon]

end Sys2Proof.Machine
end

section
/-! The step on an empty queue (O2). -/

namespace Sys2Proof.Machine

/-- SLU_CYCLE counts while the core clock runs (spec/04_sluice_scheduling.md R110). -/
theorem idleCycle_cycle (s : State) : (idleCycle s).cycle =
    s.cycle + (if s.on || (s.fed && s.bit CLK_STAT CLK_STAT_CORE_LOCK) then 1 else 0) := by
  unfold idleCycle
  cases hon : s.on
  · cases hclk : s.fed && s.bit CLK_STAT CLK_STAT_CORE_LOCK <;> simp
  · simp

/-- Before the main side runs a core cycle changes nothing but the count. -/
theorem idleCycle_off {s : State} (h : s.on = false) : idleCycle s = s.putCycle (idleCycle s).cycle := by
  unfold idleCycle
  rw [if_neg (by simp [h])]
  split <;> rfl

/-- Settles O2: with an empty queue a step is one core cycle. -/
theorem emptyQueueTick : Obligations.EmptyQueueTick := by
  intro s hp
  exact ⟨idleCycle s, by simp only [step, hp], (idleCycle_pending s).trans hp, idleCycle_cycle s, idleCycle_off,
    idleCycle_grade s⟩

end Sys2Proof.Machine
end

section
/-! Folds whose steps each concern one key. -/

namespace Sys2Proof.Machine

theorem Gives.mono {i : Instr} {s : State} {P Q : State → Prop} (h : Gives i s P) (hpq : ∀ u, P u → Q u) : Gives i s Q := by
  obtain ⟨u, hu, hp⟩ := h
  exact ⟨u, hu, hpq u hp⟩

section
variable {α β γ : Type} {f : α → β → α} {g : α → γ} {h : γ → γ} {P : α → Prop} {b : β} (hP : ∀ a c, P a → P (f a c))
  (hother : ∀ a c, P a → c ≠ b → g (f a c) = g a)
include hP hother

/-- Steps for other keys than `b` leave what only the step for `b` changes. -/
theorem foldl_avoid {l : List β} (hb : b ∉ l) (a : α) (ha : P a) : g (l.foldl f a) = g a := by
  induction l generalizing a with
  | nil => rfl
  | cons c l ih =>
    obtain ⟨hc, hl⟩ := not_or.mp (List.mem_cons.not.mp hb)
    rw [List.foldl_cons, ih hl _ (hP a c ha), hother a c ha (Ne.symm hc)]

/-- A step for each key of a list, done once each, changes what belongs to key `b` once. -/
theorem foldl_at (hsame : ∀ a, P a → g (f a b) = h (g a)) {l : List β} (hl : l.Nodup) (hb : b ∈ l) (a : α) (ha : P a) :
    g (l.foldl f a) = h (g a) := by
  induction l generalizing a with
  | nil => cases hb
  | cons c l ih =>
    obtain ⟨hc, hl⟩ := List.nodup_cons.mp hl
    rw [List.foldl_cons]
    by_cases hbc : b = c
    · subst hbc
      rw [foldl_avoid hP hother hc _ (hP a b ha), hsame a ha]
    · rw [ih hl (List.mem_of_ne_of_mem hbc hb) _ (hP a c ha), hother a c ha (Ne.symm hbc)]

end

end Sys2Proof.Machine
end

section
/-! Gate lists (O33): the entry that holds the phase, the takeover of a bank, and the writes of PORT_GATE_CTL and of the
entries. -/

namespace Sys2Proof.Machine

/-! ### The entry that holds a phase (R100) -/

theorem gateLength_foldl (l : List (Nat × Nat)) (n : Nat) :
    l.foldl (fun n e => n + 16 * e.2) n = n + gateLength l := by
  induction l generalizing n with
  | nil => rfl
  | cons e l ih => rw [gateLength, List.foldl_cons, List.foldl_cons, ih, ih (0 + _)]; omega

theorem gateLength_cons (e : Nat × Nat) (l : List (Nat × Nat)) : gateLength (e :: l) = 16 * e.2 + gateLength l := by
  rw [gateLength, List.foldl_cons, gateLength_foldl, Nat.zero_add]

theorem gateEntryAt_holds {l : List (Nat × Nat)} {t : Nat} (h : t < gateLength l) :
    gateEntryAt l t < l.length ∧ gateLength (l.take (gateEntryAt l t)) ≤ t ∧
      t < gateLength (l.take (gateEntryAt l t + 1)) := by
  induction l generalizing t with
  | nil => exact absurd h (Nat.not_lt_zero t)
  | cons e l ih =>
    rw [gateLength_cons] at h
    rw [gateEntryAt]
    split
    · next hin => exact ⟨Nat.succ_pos _, Nat.zero_le _, by simpa [gateLength_cons] using Nat.lt_add_right _ hin⟩
    · next hout =>
      obtain ⟨hlt, hfrom, hto⟩ := ih (t := t - 16 * e.2) (by omega)
      simp only [Nat.add_comm 1, List.length_cons, List.take_succ_cons, gateLength_cons]
      omega

theorem State.gateList_length_le (s : State) (p b : Nat) : (s.gateList p b).length ≤ 64 :=
  (List.takeWhile_sublist _).length_le.trans_eq (by simp)

/-- Every entry of a list lasts: DURATION 0 ends it (R99). -/
theorem State.gateLength_gateList_pos {s : State} {p b : Nat} (h : s.gateList p b ≠ []) : 0 < gateLength (s.gateList p b) := by
  cases hl : s.gateList p b with
  | nil => exact absurd hl h
  | cons e l =>
    have hmem : e ∈ s.gateList p b := hl ▸ List.mem_cons_self
    have hne : e.2 ≠ 0 := bne_iff_ne.mp (List.mem_takeWhile_imp (p := fun e : Nat × Nat => e.2 != 0) hmem)
    rw [gateLength_cons]
    omega

theorem State.gatePhase_lt {s : State} {p b : Nat} (h : s.gateList p b ≠ []) :
    s.gatePhase p (s.gateList p b) < gateLength (s.gateList p b) := by
  have hpos := State.gateLength_gateList_pos h
  rw [State.gatePhase, Nat.max_eq_right hpos]
  exact Nat.mod_lt _ hpos

theorem State.gateList_congr {s t : State} {p b : Nat}
    (h : ∀ i, t.rd (PORT_GATE_ENTRY p b i) = s.rd (PORT_GATE_ENTRY p b i)) : t.gateList p b = s.gateList p b := by
  simp only [State.gateList, State.fld, h]

theorem State.gateBank_congr {s t : State} {p : Nat} (h : t.rd (PORT_GATE_CTL p) = s.rd (PORT_GATE_CTL p)) :
    t.gateBank p = s.gateBank p := by
  rw [State.gateBank, State.fld, h, State.gateBank, State.fld]

/-! ### What a change of a port's gate control leaves -/

theorem gateBase_ne_ctl (p q : Nat) : PORT_GATE_BASE p ≠ PORT_GATE_CTL q := by simp [PORT_GATE_BASE, PORT_GATE_CTL]

theorem gateCtl_inj {p q : Nat} : PORT_GATE_CTL p = PORT_GATE_CTL q ↔ p = q := by simp [PORT_GATE_CTL]

/-- Memory, every register but the port's PORT_GATE_CTL and PORT_GATE_BASE, and SW_CTX are as before. -/
structure State.GateKept (s u : State) (p : Nat) : Prop where
  mem : u.mem = s.mem
  rd : ∀ r, r ≠ PORT_GATE_CTL p → r ≠ PORT_GATE_BASE p → u.rd r = s.rd r
  ctx : u.fld (PORT_GATE_CTL p) PORT_GATE_CTL_SW_CTX = s.fld (PORT_GATE_CTL p) PORT_GATE_CTL_SW_CTX

theorem State.GateKept.parts {s u : State} {p : Nat} (h : s.GateKept u p) : u.mem = s.mem ∧
    (∀ r, r ≠ PORT_GATE_CTL p → r ≠ PORT_GATE_BASE p → u.rd r = s.rd r) ∧
    u.fld (PORT_GATE_CTL p) PORT_GATE_CTL_SW_CTX = s.fld (PORT_GATE_CTL p) PORT_GATE_CTL_SW_CTX := ⟨h.mem, h.rd, h.ctx⟩

theorem State.GateKept.trans {a b c : State} {p : Nat} (h : a.GateKept b p) (k : b.GateKept c p) : a.GateKept c p where
  mem := k.mem.trans h.mem
  rd r h1 h2 := (k.rd r h1 h2).trans (h.rd r h1 h2)
  ctx := k.ctx.trans h.ctx

theorem State.GateKept.commit {s t : State} {p : Nat} (h : s.GateKept t p) (a : State) : s.GateKept (a.commit t) p where
  mem := (a.commit_mem t).trans h.mem
  rd := h.rd
  ctx := h.ctx

@[simp] theorem State.gateBank_commit (s t : State) (p : Nat) : (s.commit t).gateBank p = t.gateBank p := rfl

/-- A field of PORT_GATE_CTL below SW_CTX is set. -/
theorem State.setFld_gateKept (s : State) (p : Nat) {f : Fld} (h : f.lo + f.width ≤ 40) (v : Nat) :
    s.GateKept (s.setFld (PORT_GATE_CTL p) f v) p where
  mem := by simp
  rd r h1 _ := s.rd_setFld_other f v (Ne.symm h1)
  ctx := s.fld_setFld_other _ _ _ _ _ (by omega) (.inr (.inl h))

theorem State.wr_gateBase_gateKept (s : State) (p : Nat) (v : Word) : s.GateKept (s.wr (PORT_GATE_BASE p) v) p where
  mem := by simp
  rd r _ h2 := s.rd_wr_other v (Ne.symm h2)
  ctx := s.fld_wr_other v _ (gateBase_ne_ctl p p)

/-! ### The takeover of a bank (R102) -/

section
variable (s : State) (p : Nat)

theorem State.gateTakeover_kept : s.GateKept (s.gateTakeover p) p :=
  (((s.wr_gateBase_gateKept p _).trans (State.setFld_gateKept _ p (by decide) _)).trans
    (State.setFld_gateKept _ p (by decide) _)).trans (State.setFld_gateKept _ p (by decide) _)

theorem State.gateBank_gateTakeover : (s.gateTakeover p).gateBank p = 1 - s.gateBank p := by
  have hle : 1 - s.gateBank p < 2 := by omega
  rw [State.gateTakeover, State.gateBank, State.fld_setFld_other _ _ _ _ _ _ (by decide) (.inr (.inr (by decide))),
    State.fld_setFld_other _ _ _ _ _ _ (by decide) (.inr (.inr (by decide))), State.fld_setFld_same _ _ _ _ (by decide)]
  exact Nat.mod_eq_of_lt hle

theorem State.arm_gateTakeover : (s.gateTakeover p).bit (PORT_GATE_CTL p) PORT_GATE_CTL_ARM = false := by
  rw [State.gateTakeover, State.bit, State.fld_setFld_other _ _ _ _ _ _ (by decide) (.inr (.inr (by decide))),
    State.fld_setFld_same _ _ _ _ (by decide)]
  rfl

theorem State.cur_gateTakeover : (s.gateTakeover p).fld (PORT_GATE_CTL p) PORT_GATE_CTL_CUR_ENTRY = 0 :=
  State.fld_setFld_same _ _ _ _ (by decide)

theorem State.base_gateTakeover : (s.gateTakeover p).rd (PORT_GATE_BASE p) = BitVec.ofNat 64 s.cycle := by
  have hne := (gateBase_ne_ctl p p).symm
  rw [State.gateTakeover, State.rd_setFld_other _ _ _ hne, State.rd_setFld_other _ _ _ hne, State.rd_setFld_other _ _ _ hne,
    State.rd_wr_same]

end

/-- Another port's takeover leaves the control register. -/
theorem State.rd_gateTakeover_other (s : State) {p q : Nat} (h : p ≠ q) :
    (s.gateTakeover p).rd (PORT_GATE_CTL q) = s.rd (PORT_GATE_CTL q) :=
  (s.gateTakeover_kept p).rd _ (gateCtl_inj.not.mpr (Ne.symm h)) (gateBase_ne_ctl p q).symm

/-- Ports that take over together each change to their other bank once. -/
theorem State.foldl_gateTakeover {l : List Nat} (hl : l.Nodup) {q : Nat} (hq : q ∈ l) (s : State) :
    (l.foldl State.gateTakeover s).gateBank q = 1 - s.gateBank q ∧
      (l.foldl State.gateTakeover s).bit (PORT_GATE_CTL q) PORT_GATE_CTL_ARM = false :=
  ⟨foldl_at (g := (State.gateBank · q)) (h := (1 - ·)) (P := fun _ => True) (fun _ _ _ => trivial)
      (fun a _ _ hp => State.gateBank_congr (a.rd_gateTakeover_other hp)) (fun a _ => a.gateBank_gateTakeover q) hl hq s trivial,
    foldl_at (g := (State.bit · (PORT_GATE_CTL q) PORT_GATE_CTL_ARM)) (h := fun _ => false) (P := fun _ => True)
      (fun _ _ _ => trivial) (fun a _ _ hp => by simp only [State.bit, State.fld, a.rd_gateTakeover_other hp])
      (fun a _ => a.arm_gateTakeover q) hl hq s trivial⟩

theorem State.foldl_gateTakeover_mem (l : List Nat) (s : State) : (l.foldl State.gateTakeover s).mem = s.mem :=
  foldl_keep State.mem _ (fun s p => (s.gateTakeover_kept p).mem) l s

theorem State.switchReached_time {s : State} {p : Nat} (h : s.bit (PORT_GATE_CTL p) PORT_GATE_CTL_SW_MODE = false) :
    s.switchReached p = decide ((s.rd (PORT_GATE_SWITCH_AT p)).toNat ≤ s.cycle) := by
  simp [State.switchReached, h]

/-- The ports that switch with port `p` under SW_MODE 1: itself, and those armed on the same context and step (R102). -/
def State.switchWith (s : State) (p : Nat) : List Nat :=
  let key (q : Nat) := (s.fld (PORT_GATE_CTL q) PORT_GATE_CTL_SW_CTX, (s.rd (PORT_GATE_SWITCH_AT q)).toNat % 2 ^ 32)
  p :: (List.range Config.fabricPorts).filter fun q =>
    q != p && s.bit (PORT_GATE_CTL q) PORT_GATE_CTL_ARM && s.bit (PORT_GATE_CTL q) PORT_GATE_CTL_SW_MODE && key q == key p

theorem State.switchWith_nodup (s : State) (p : Nat) : (s.switchWith p).Nodup := by
  refine List.nodup_cons.mpr ⟨?_, List.nodup_range.filter _⟩
  simp

theorem State.mem_switchWith {s : State} {p q : Nat} (hq : q < 1024) (ha : s.bit (PORT_GATE_CTL q) PORT_GATE_CTL_ARM = true)
    (hm : s.bit (PORT_GATE_CTL q) PORT_GATE_CTL_SW_MODE = true)
    (hc : s.fld (PORT_GATE_CTL q) PORT_GATE_CTL_SW_CTX = s.fld (PORT_GATE_CTL p) PORT_GATE_CTL_SW_CTX)
    (hat : (s.rd (PORT_GATE_SWITCH_AT q)).toNat % 2 ^ 32 = (s.rd (PORT_GATE_SWITCH_AT p)).toNat % 2 ^ 32) :
    q ∈ s.switchWith p := by
  by_cases h : q = p
  · exact h ▸ List.mem_cons_self
  · refine List.mem_cons_of_mem _ (List.mem_filter.mpr ⟨List.mem_range.mpr hq, ?_⟩)
    simp only [hc, hat, ha, hm, beq_self_eq_true, Bool.and_true, bne_iff_ne, ne_eq, h, not_false_eq_true]

/-- What GATE_SWITCHOVER does at an armed port whose point is reached. -/
theorem execGateSwitchover_reached {s : State} {p : Fin 1024} (hon : s.on = true)
    (ha : s.bit (PORT_GATE_CTL p) PORT_GATE_CTL_ARM = true) (hr : s.switchReached p = true) :
    execGateSwitchover p s = ok s (if s.bit (PORT_GATE_CTL p) PORT_GATE_CTL_SW_MODE
      then (s.switchWith p).foldl State.gateTakeover s else s.gateTakeover p) := by
  rw [execGateSwitchover, State.powered_on hon]
  simp only [ha, hr, Bool.and_self, if_true, State.switchWith, List.foldl_cons]

/-! ### ARM (R101, R103) -/

section
variable {s : State} {p : Nat}

/-- A bank that fails the check is reported and leaves the registers of the ports as they are. -/
theorem State.rd_gateArm_refused (ha : s.bit (PORT_GATE_CTL p) PORT_GATE_CTL_ARM = false)
    (hl : gateListOk (s.gateList p (1 - s.gateBank p)) = false) :
    (s.gateArm p).rd (PORT_GATE_CTL p) = s.rd (PORT_GATE_CTL p) := by
  rw [State.gateArm, if_neg (by simp [ha]), if_neg (by simp [hl])]
  exact (s.notice_only _ _ _ _ _ _).rd _ (by simp [Reg.quiet, PORT_GATE_CTL])

theorem State.arm_gateArm (ha : s.bit (PORT_GATE_CTL p) PORT_GATE_CTL_ARM = false) :
    (s.gateArm p).bit (PORT_GATE_CTL p) PORT_GATE_CTL_ARM = gateListOk (s.gateList p (1 - s.gateBank p)) := by
  cases hl : gateListOk (s.gateList p (1 - s.gateBank p))
  · rw [State.bit, State.fld, State.rd_gateArm_refused ha hl]
    exact ha
  · exact (State.gateArm_arms ha hl).1

/-- ARM changes no field of PORT_GATE_CTL but ARM and LATE. -/
theorem State.fld_gateArm (ha : s.bit (PORT_GATE_CTL p) PORT_GATE_CTL_ARM = false) {g : Fld}
    (hg : 10 ≤ g.lo ∨ g.lo + g.width ≤ 1) : (s.gateArm p).fld (PORT_GATE_CTL p) g = s.fld (PORT_GATE_CTL p) g := by
  have harm : ∀ t : State, (t.setFld (PORT_GATE_CTL p) PORT_GATE_CTL_ARM 1).fld (PORT_GATE_CTL p) g =
      t.fld (PORT_GATE_CTL p) g := fun t => State.fld_setFld_other _ _ _ _ _ _ (by decide) (.inr (by
    simp only [PORT_GATE_CTL_ARM]
    omega))
  have hlate : ∀ t : State, (t.setFld (PORT_GATE_CTL p) PORT_GATE_CTL_LATE 1).fld (PORT_GATE_CTL p) g =
      t.fld (PORT_GATE_CTL p) g := fun t => State.fld_setFld_other _ _ _ _ _ _ (by decide) (.inr (by
    simp only [PORT_GATE_CTL_LATE]
    omega))
  cases hl : gateListOk (s.gateList p (1 - s.gateBank p))
  · rw [State.fld, State.rd_gateArm_refused ha hl, State.fld]
  · rw [State.gateArm, if_neg (by simp [ha]), if_pos hl]
    dsimp only
    split
    · rw [hlate, harm]
    · exact harm s

/-- A time already past sets LATE (R103). -/
theorem State.late_gateArm (ha : s.bit (PORT_GATE_CTL p) PORT_GATE_CTL_ARM = false)
    (hl : gateListOk (s.gateList p (1 - s.gateBank p)) = true)
    (hm : s.bit (PORT_GATE_CTL p) PORT_GATE_CTL_SW_MODE = false)
    (hat : (s.rd (PORT_GATE_SWITCH_AT p)).toNat ≤ s.cycle) :
    (s.gateArm p).bit (PORT_GATE_CTL p) PORT_GATE_CTL_LATE = true := by
  have hmode : (s.setFld (PORT_GATE_CTL p) PORT_GATE_CTL_ARM 1).bit (PORT_GATE_CTL p) PORT_GATE_CTL_SW_MODE = false := by
    rw [State.bit, State.fld_setFld_other _ _ _ _ _ _ (by decide) (.inr (.inl (by decide)))]
    exact hm
  have hreached : (s.setFld (PORT_GATE_CTL p) PORT_GATE_CTL_ARM 1).switchReached p = true := by
    rw [State.switchReached_time hmode, State.rd_setFld_other _ _ _ (by simp [PORT_GATE_CTL, PORT_GATE_SWITCH_AT])]
    simpa using hat
  rw [State.gateArm, if_neg (by simp [ha]), if_pos hl]
  dsimp only
  rw [if_pos hreached, State.bit, State.fld_setFld_same _ _ _ _ (by decide)]
  rfl

end

/-! ### A write of PORT_GATE_CTL (Table 4-4) -/

/-- The fields of PORT_GATE_CTL that hold something. -/
def gateCtlFields : List Fld :=
  [PORT_GATE_CTL_SW_CTX, PORT_GATE_CTL_SW_MODE, PORT_GATE_CTL_CUR_ENTRY, PORT_GATE_CTL_LATE, PORT_GATE_CTL_ARM,
    PORT_GATE_CTL_ACTIVE_BANK]

/-- What a write of `new` over `old` leaves in a field, before CANCEL and ARM act: ARM stays, the others go by access code. -/
def gateCtlField (old new : Nat) (f : Fld) : Nat :=
  if f = PORT_GATE_CTL_ARM then bitsOf old f.lo f.width else storedField old new f

theorem gateCtlField_lt (old new : Nat) (f : Fld) : gateCtlField old new f < 2 ^ f.width := by
  unfold gateCtlField
  split
  · exact bitsOf_lt _ _ _
  · exact storedField_lt _ _ _

/-- The state with the fields of a write of PORT_GATE_CTL stored. -/
def State.gateCtlStored (s : State) (p v : Nat) : State :=
  s.wr (PORT_GATE_CTL p) (BitVec.ofNat 64 (fieldSum (gateCtlField (s.rd (PORT_GATE_CTL p)).toNat v) gateCtlFields))

theorem State.fld_gateCtlStored (s : State) (p v : Nat) {f : Fld} (hf : f ∈ gateCtlFields) :
    (s.gateCtlStored p v).fld (PORT_GATE_CTL p) f = gateCtlField (s.rd (PORT_GATE_CTL p)).toNat v f := by
  have hl : laidOut 64 gateCtlFields = true := by decide
  rw [State.fld, State.gateCtlStored, State.rd_wr_same, BitVec.toNat_ofNat,
    Nat.mod_eq_of_lt (fieldSum_lt (gateCtlField_lt _ _) hl), bitsOf_fieldSum (gateCtlField_lt _ _) hl hf]

theorem State.rd_gateCtlStored_other (s : State) (p v : Nat) {r : Reg} (h : PORT_GATE_CTL p ≠ r) :
    (s.gateCtlStored p v).rd r = s.rd r := s.rd_wr_other _ h

theorem storeFields_gateCtl (old new : Nat) :
    storeFields [PORT_GATE_CTL_SW_CTX, PORT_GATE_CTL_SW_MODE, PORT_GATE_CTL_CUR_ENTRY, PORT_GATE_CTL_LATE,
      PORT_GATE_CTL_ACTIVE_BANK] old new + bitsOf old 1 1 * 2 = fieldSum (gateCtlField old new) gateCtlFields := by
  have hother : ∀ f, f ≠ PORT_GATE_CTL_ARM → gateCtlField old new f = storedField old new f := fun f h => if_neg h
  have harm : gateCtlField old new PORT_GATE_CTL_ARM = bitsOf old 1 1 := rfl
  simp only [storeFields_eq, gateCtlFields, fieldSum_cons, harm, hother PORT_GATE_CTL_SW_CTX (by decide),
    hother PORT_GATE_CTL_SW_MODE (by decide), hother PORT_GATE_CTL_CUR_ENTRY (by decide),
    hother PORT_GATE_CTL_LATE (by decide), hother PORT_GATE_CTL_ACTIVE_BANK (by decide)]
  simp only [PORT_GATE_CTL_ARM, Nat.shiftLeft_eq, fieldSum, List.foldl_nil]
  omega

/-- A write with ARM and without CANCEL stores the fields and arms. -/
theorem State.gateCtlWrite_arming (s : State) (p : Nat) {v : Nat} (h : bitOf v 8 = false) :
    s.gateCtlWrite p (v ||| 2) = (s.gateCtlStored p (v ||| 2)).gateArm p := by
  have h8 : bitOf (v ||| 2) 8 = false := by
    rw [bitOf, Nat.testBit_or, show v.testBit 8 = false from h]
    rfl
  have h1 : bitOf (v ||| 2) 1 = true := by
    rw [bitOf, Nat.testBit_or]
    exact Bool.or_true _
  unfold State.gateCtlWrite
  dsimp only
  rw [h8, h1, storeFields_gateCtl]
  rfl

/-- The ARM bit of a word lies in none of the fields above it. -/
theorem bitsOf_or_arm (v : Nat) {lo w : Nat} (h : 2 ≤ lo) : bitsOf (v ||| 2) lo w = bitsOf v lo w := by
  have h2 : bitsOf 2 lo w = 0 := by
    rw [bitsOf_eq, Nat.div_eq_of_lt (lt_of_lt_of_le (by decide) (Nat.pow_le_pow_right (by decide) h)), Nat.zero_mod]
  rw [bitsOf_or, h2, Nat.or_zero]

/-! ### The clauses -/

section
variable {s : State} {p : Fin 1024} (hon : s.on = true)
include hon

theorem gateEntryBoundary_names (hl : s.gateList p (s.gateBank p) ≠ []) : Gives (.gateEntryBoundary p) s fun u =>
    s.GateKept u p ∧ u.fld (PORT_GATE_CTL p) PORT_GATE_CTL_CUR_ENTRY =
      gateEntryAt (s.gateList p (s.gateBank p)) (s.gatePhase p (s.gateList p (s.gateBank p))) := by
  have hlen := s.gateList_length_le p (s.gateBank p)
  obtain ⟨hlt, -, -⟩ := gateEntryAt_holds (State.gatePhase_lt hl)
  have hexec : execGateEntryBoundary p s = ok s (s.setFld (PORT_GATE_CTL p) PORT_GATE_CTL_CUR_ENTRY
      (gateEntryAt (s.gateList p (s.gateBank p)) (s.gatePhase p (s.gateList p (s.gateBank p))))) := by
    rw [execGateEntryBoundary, State.powered_on hon]
    simp [hl]
  refine gives_ok hexec ⟨(s.setFld_gateKept p (by decide) _).commit s, ?_⟩
  rw [State.fld_commit, State.fld_setFld_same _ _ _ _ (by decide)]
  exact Nat.mod_eq_of_lt (lt_of_lt_of_le hlt hlen)

theorem gateSwitchover_takes (ha : s.bit (PORT_GATE_CTL p) PORT_GATE_CTL_ARM = true)
    (hm : s.bit (PORT_GATE_CTL p) PORT_GATE_CTL_SW_MODE = false)
    (hat : (s.rd (PORT_GATE_SWITCH_AT p)).toNat ≤ s.cycle) :
    Gives (.gateSwitchover p) s fun u => s.GateKept u p ∧ u.gateBank p = 1 - s.gateBank p ∧
      u.bit (PORT_GATE_CTL p) PORT_GATE_CTL_ARM = false ∧ u.fld (PORT_GATE_CTL p) PORT_GATE_CTL_CUR_ENTRY = 0 ∧
      u.rd (PORT_GATE_BASE p) = BitVec.ofNat 64 s.cycle := by
  refine gives_ok (execGateSwitchover_reached hon ha (by simpa [State.switchReached_time hm] using hat)) ?_
  rw [if_neg (by simp [hm])]
  simp only [State.gateBank_commit, State.bit_commit, State.fld_commit, State.rd_commit]
  exact ⟨(s.gateTakeover_kept p).commit s, s.gateBank_gateTakeover p, s.arm_gateTakeover p, s.cur_gateTakeover p, s.base_gateTakeover p⟩

theorem gateSwitchover_together (ha : s.bit (PORT_GATE_CTL p) PORT_GATE_CTL_ARM = true)
    (hm : s.bit (PORT_GATE_CTL p) PORT_GATE_CTL_SW_MODE = true) (hr : s.switchReached p = true) :
    Gives (.gateSwitchover p) s fun u => u.mem = s.mem ∧ ∀ q ∈ s.switchWith p, u.gateBank q = 1 - s.gateBank q ∧
      u.bit (PORT_GATE_CTL q) PORT_GATE_CTL_ARM = false := by
  refine gives_ok (execGateSwitchover_reached hon ha hr) ?_
  rw [if_pos hm]
  simp only [State.commit_mem, State.gateBank_commit, State.bit_commit]
  exact ⟨State.foldl_gateTakeover_mem _ s, fun q hq => State.foldl_gateTakeover (s.switchWith_nodup p) hq s⟩

theorem gateArm_checks {v : Word} (ha : s.bit (PORT_GATE_CTL p) PORT_GATE_CTL_ARM = false) (hv : bitOf v.toNat 8 = false) :
    Gives (.gateArm p v) s fun u =>
      u.bit (PORT_GATE_CTL p) PORT_GATE_CTL_ARM = gateListOk (s.gateList p (1 - s.gateBank p)) ∧
      u.gateBank p = s.gateBank p ∧ u.fld (PORT_GATE_CTL p) PORT_GATE_CTL_SW_CTX = bitsOf v.toNat 40 12 ∧
      u.bit (PORT_GATE_CTL p) PORT_GATE_CTL_SW_MODE = bitOf v.toNat 33 ∧
      (bitOf v.toNat 33 = false → gateListOk (s.gateList p (1 - s.gateBank p)) = true →
        (s.rd (PORT_GATE_SWITCH_AT p)).toNat ≤ s.cycle → u.bit (PORT_GATE_CTL p) PORT_GATE_CTL_LATE = true) := by
  let t := s.gateCtlStored p (v.toNat ||| 2)
  have hexec : execGateArm p v s = ok s (t.gateArm p) := by
    rw [execGateArm, State.powered_on hon, s.gateCtlWrite_arming p hv]
  have hfld : ∀ f ∈ gateCtlFields, t.fld (PORT_GATE_CTL p) f = _ := fun f => s.fld_gateCtlStored p (v.toNat ||| 2)
  have harm : t.bit (PORT_GATE_CTL p) PORT_GATE_CTL_ARM = false := by
    rw [State.bit, hfld _ (by decide)]
    exact ha
  have hbank : t.gateBank p = s.gateBank p := hfld _ (by decide)
  have hctx : t.fld (PORT_GATE_CTL p) PORT_GATE_CTL_SW_CTX = bitsOf v.toNat 40 12 :=
    (hfld _ (by decide)).trans (bitsOf_or_arm _ (by decide))
  have hmode : t.bit (PORT_GATE_CTL p) PORT_GATE_CTL_SW_MODE = bitOf v.toNat 33 := by
    have h33 : t.fld (PORT_GATE_CTL p) PORT_GATE_CTL_SW_MODE = bitsOf v.toNat 33 1 :=
      (hfld _ (by decide)).trans (bitsOf_or_arm _ (by decide))
    have hlt := bitsOf_lt v.toNat 33 1
    rw [State.bit, h33, bitOf_eq]
    rcases Nat.lt_or_ge (bitsOf v.toNat 33 1) 1 with h | h
    · simp [Nat.lt_one_iff.mp h]
    · simp [show bitsOf v.toNat 33 1 = 1 by omega]
  have hlist : t.gateList p (1 - t.gateBank p) = s.gateList p (1 - s.gateBank p) := by
    rw [hbank]
    exact State.gateList_congr fun i => s.rd_gateCtlStored_other p _ (gateEntry_ne_ctl p _ i).symm
  have hat : t.rd (PORT_GATE_SWITCH_AT p) = s.rd (PORT_GATE_SWITCH_AT p) :=
    s.rd_gateCtlStored_other p _ (by simp [PORT_GATE_CTL, PORT_GATE_SWITCH_AT])
  have hcycle : t.cycle = s.cycle := s.wr_cycle _ _
  refine gives_ok hexec ⟨(State.arm_gateArm harm).trans (by rw [hlist]), (State.fld_gateArm harm (by decide)).trans hbank,
    (State.fld_gateArm harm (by decide)).trans hctx, ?_, fun h33 hok hle => ?_⟩
  · rw [State.bit_commit, State.bit, State.fld_gateArm harm (by decide)]
    exact hmode
  · rw [State.bit_commit]
    exact State.late_gateArm harm (hlist.symm ▸ hok) (hmode.trans h33) (by rwa [hat, hcycle])

theorem cancel_disarms : Gives (.cancel p) s fun u => s.GateKept u p ∧
    u.bit (PORT_GATE_CTL p) PORT_GATE_CTL_ARM = false ∧ u.gateBank p = s.gateBank p ∧
    u.rd (PORT_GATE_BASE p) = s.rd (PORT_GATE_BASE p) := by
  have hexec : execCancel p s = ok s (s.setFld (PORT_GATE_CTL p) PORT_GATE_CTL_ARM 0) := by
    rw [execCancel, State.powered_on hon]
  refine gives_ok hexec ⟨(s.setFld_gateKept p (by decide) _).commit s, ?_, ?_, ?_⟩
  · rw [State.bit_commit, State.bit, State.fld_setFld_same _ _ _ _ (by decide)]
    rfl
  · rw [State.gateBank_commit]
    exact State.fld_setFld_other _ _ _ _ _ _ (by decide) (.inr (.inr (by decide)))
  · rw [State.rd_commit]
    exact s.rd_setFld_other _ _ (gateBase_ne_ctl p p).symm

theorem gateEntryWrite_stores {b : Fin 2} {i : Fin 64} (v : Word) (hb : b.val ≠ s.gateBank p)
    (ha : s.bit (PORT_GATE_CTL p) PORT_GATE_CTL_ARM = false) : Gives (.gateEntryWrite p b i v) s fun u =>
      u.fld (PORT_GATE_ENTRY p b i) PORT_GATE_ENTRY_OPEN = bitsOf v.toNat 16 16 ∧
      u.fld (PORT_GATE_ENTRY p b i) PORT_GATE_ENTRY_DURATION = bitsOf v.toNat 0 16 ∧
      (∀ r, r ≠ PORT_GATE_ENTRY p b i → u.rd r = s.rd r) ∧ u.mem = s.mem := by
  have hexec : execGateEntryWrite p b i v s =
      ok s (s.wr (PORT_GATE_ENTRY p b i) (BitVec.ofNat 64 (v.toNat % 2 ^ 32))) := by
    rw [execGateEntryWrite, State.powered_on hon, State.gateEntryWrite, if_neg (by simp [hb, ha])]
  have hlow : ∀ f : Fld, f.lo + f.width ≤ 32 → (s.wr (PORT_GATE_ENTRY p b i) (BitVec.ofNat 64 (v.toNat % 2 ^ 32))).fld
      (PORT_GATE_ENTRY p b i) f = bitsOf v.toNat f.lo f.width := fun f hf => by
    rw [State.fld, State.rd_wr_same, BitVec.toNat_ofNat, bitsOf_mod _ (by omega), bitsOf_mod _ hf]
  exact gives_ok hexec ⟨hlow _ (by decide), hlow _ (by decide), fun r hr => s.rd_wr_other _ (Ne.symm hr), by simp⟩

theorem gateEntryWrite_ignored {b : Fin 2} {i : Fin 64} (v : Word)
    (h : b.val = s.gateBank p ∨ s.bit (PORT_GATE_CTL p) PORT_GATE_CTL_ARM = true) : Gives (.gateEntryWrite p b i v) s fun u =>
      u.rd (PORT_GATE_ENTRY p b i) = s.rd (PORT_GATE_ENTRY p b i) ∧ u.rd SPW_EVENTS = s.rd SPW_EVENTS + 1 := by
  have hexec : execGateEntryWrite p b i v s =
      ok s (s.notice 0 0x0006 (sourceOf 2 p) (PORT_GATE_ENTRY p b i).off) := by
    rw [execGateEntryWrite, State.powered_on hon, State.gateEntryWrite, if_pos (by simpa using h)]
  exact gives_ok hexec ⟨(s.notice_only _ _ _ _ _ _).rd _ (by simp [Reg.quiet, PORT_GATE_ENTRY]),
    s.events_notice_zero _ _ _ _ _⟩

end

/-- Settles O33: each command reads or sets the fields of PORT_GATE_CTL, and the entry named at a boundary is the one that
holds the phase (`gateEntryAt_holds`). -/
theorem gateLists : Obligations.GateLists := by
  intro s p hon
  dsimp only
  refine ⟨fun hl => (gateEntryBoundary_names hon hl).mono fun u ⟨hkept, hcur⟩ => ⟨hkept.parts, ?_⟩,
    fun ha hm hat => (gateSwitchover_takes hon ha hm hat).mono fun u ⟨hkept, h⟩ => ⟨hkept.parts, h⟩,
    fun ha hm hr => (gateSwitchover_together hon ha hm hr).mono fun u ⟨hmem, hq⟩ =>
      ⟨hmem, fun q hlt h1 h2 h3 h4 => hq q (State.mem_switchWith hlt h1 h2 h3 h4)⟩,
    fun v => gateArm_checks hon,
    (cancel_disarms hon).mono fun u ⟨hkept, h⟩ => ⟨hkept.parts, h⟩,
    fun b i v => ⟨gateEntryWrite_stores hon v, gateEntryWrite_ignored hon v⟩⟩
  rw [hcur]
  exact gateEntryAt_holds (State.gatePhase_lt hl)

end Sys2Proof.Machine
end

section
/-! The calendar, the Headgate and the sampler (O34). -/

namespace Sys2Proof.Machine

/-! ### The calendar (R97) -/

/-- A change of every listed value that leaves the default changes what each key reads. -/
theorem Table.get_map {κ α : Type} [DecidableEq κ] {d : α} {f : α → α} (hd : f d = d) (t : List (κ × α)) (k : κ) :
    Table.get d (t.map fun e => (e.1, f e.2)) k = f (Table.get d t k) := by
  induction t with
  | nil => exact hd.symm
  | cons e t ih =>
    simp only [List.map_cons, Table.get, ih]
    split <;> rfl

/-- The channel with slot `n` of the calendar over. -/
def Vc.expire (n : Nat) (c : Vc) : Vc := if c.filed = some n then { c with filed := none } else c

theorem Vc.expire_eq (n : Nat) (c : Vc) :
    c.expire n = { c with filed := if c.filed = some n then none else c.filed } := by
  unfold Vc.expire
  split <;> rfl

/-- The port with slot `n` of the calendar over. -/
def Port.expire (n : Nat) (x : Port) : Port := { x with vcs := x.vcs.map fun c => (c.1, c.2.expire n) }

theorem execCalendarSlotExpiry_eq {s : State} (hon : s.on = true) (n : Fin 4096) :
    execCalendarSlotExpiry n s = ok s (s.putPorts (s.ports.map fun e => (e.1, e.2.expire n))) := by
  rw [execCalendarSlotExpiry, State.powered_on hon]
  rfl

theorem State.vc_expire (s : State) (n p v : Nat) :
    (s.putPorts (s.ports.map fun e => (e.1, e.2.expire n))).vc p v = (s.vc p v).expire n := by
  have hport : (s.putPorts (s.ports.map fun e => (e.1, e.2.expire n))).port p = (s.port p).expire n :=
    Table.get_map (f := Port.expire n) rfl _ _
  rw [State.vc, hport]
  exact Table.get_map (f := Vc.expire n) rfl _ _

/-! ### The Headgate (R105) -/

theorem State.bucket_setBucket (s : State) (p c n q d : Nat) :
    (s.setBucket p c n).bucket q d = if p = q ∧ c = d then n else s.bucket q d := by
  by_cases hp : p = q
  · subst hp
    simp [State.bucket, State.setBucket, Table.get_set]
  · rw [if_neg (fun h => hp h.1), State.bucket, State.setBucket, s.port_modPort_other _ _ hp, State.bucket]

/-- Level `n` of class `c` at port `p` after a refill. -/
def State.refilled (s : State) (p c n : Nat) : Nat :=
  if s.policed p c then min (s.bucketTop p c) (n + s.fld (PORT_POLICE p (c - 5)) PORT_POLICE_RATE) else n

theorem State.refilled_congr {s t : State} (h : t.regs = s.regs) (p c n : Nat) : t.refilled p c n = s.refilled p c n := by
  have hbit : t.policed p c = s.policed p c := by rw [State.policed, State.bit, State.fld_congr h, State.policed, State.bit]
  simp only [State.refilled, hbit, State.bucketTop, State.fld_congr h]

/-- HEADGATE_REFILL at class `c` of port `p`. -/
def State.refillBucket (s : State) (p c : Nat) : State :=
  if s.policed p c then s.setBucket p c (min (s.bucketTop p c)
    (s.bucket p c + s.fld (PORT_POLICE p (c - 5)) PORT_POLICE_RATE)) else s

/-- HEADGATE_REFILL at port `p`. -/
def State.refillPort (s : State) (p : Nat) : State := [5, 6, 7].foldl (fun a c => a.refillBucket p c) s

theorem execHeadgateRefill_eq {s : State} (hon : s.on = true) :
    execHeadgateRefill s = ok s ((s.laneMap.map LaneRec.port).foldl State.refillPort s) := by
  rw [execHeadgateRefill, State.powered_on hon, List.foldl_map]
  rfl

theorem State.refillBucket_eq (s : State) (p c : Nat) : ∃ l, s.refillBucket p c = s.putPorts l := by
  unfold State.refillBucket
  split
  · exact ⟨_, rfl⟩
  · exact ⟨s.ports, rfl⟩

theorem State.bucket_refillBucket (s : State) (p c q d : Nat) : (s.refillBucket p c).bucket q d =
    if p = q ∧ c = d then s.refilled q d (s.bucket q d) else s.bucket q d := by
  unfold State.refillBucket State.refilled
  by_cases h : p = q ∧ c = d
  · obtain ⟨rfl, rfl⟩ := h
    split <;> simp [State.bucket_setBucket]
  · split <;> simp [State.bucket_setBucket, h]

/-- A refill changes the ports alone. -/
theorem State.refillPort_keeps (s : State) (p : Nat) : (s.refillPort p).regs = s.regs ∧ (s.refillPort p).mem = s.mem := by
  have hone : ∀ (a : State) c, (a.refillBucket p c).regs = a.regs ∧ (a.refillBucket p c).mem = a.mem := fun a c => by
    obtain ⟨l, hl⟩ := a.refillBucket_eq p c
    simp [hl]
  exact ⟨foldl_keep State.regs _ (fun a c => (hone a c).1) _ s, foldl_keep State.mem _ (fun a c => (hone a c).2) _ s⟩

theorem State.bucket_refillPort_other (s : State) {p q : Nat} (h : p ≠ q) (d : Nat) :
    (s.refillPort p).bucket q d = s.bucket q d :=
  foldl_keep (State.bucket · q d) _ (fun a c => by
    simp only [a.bucket_refillBucket]
    exact if_neg fun e => h e.1) _ s

theorem State.bucket_refillPort_same (s : State) (p : Nat) {c : Nat} (h : c ∈ [5, 6, 7]) :
    (s.refillPort p).bucket p c = s.refilled p c (s.bucket p c) := by
  refine foldl_at (g := (State.bucket · p c)) (h := s.refilled p c) (P := fun t => t.regs = s.regs) (fun a d ha => ?_)
    (fun a d _ hd => ?_) (fun a ha => ?_) (by decide) h s rfl
  · obtain ⟨l, hl⟩ := a.refillBucket_eq p d
    simpa [hl] using ha
  · simp [a.bucket_refillBucket, hd]
  · simp [a.bucket_refillBucket, State.refilled_congr ha]

theorem State.bucket_refill {s : State} {l : List Nat} (hl : l.Nodup) {p c : Nat} (hp : p ∈ l) (hc : c ∈ [5, 6, 7]) :
    (l.foldl State.refillPort s).bucket p c = s.refilled p c (s.bucket p c) := by
  refine foldl_at (g := (State.bucket · p c)) (h := s.refilled p c) (P := fun t => t.regs = s.regs)
    (fun a q ha => (a.refillPort_keeps q).1.trans ha) (fun a q _ hq => a.bucket_refillPort_other hq c)
    (fun a ha => ?_) hl hp s rfl
  rw [a.bucket_refillPort_same p hc, State.refilled_congr ha]

/-! ### The sampler (R107, R108) -/

theorem depthBin_le (d : Nat) : depthBin d ≤ 15 := by
  unfold depthBin
  split <;> omega

theorem ageBin_le (a : Nat) : ageBin a ≤ 15 := by
  unfold ageBin
  split <;> omega

section
variable (s : State)

theorem State.load_addBin_same (a : Nat) : (s.addBin a).load a 4 = min (s.load a 4 + 1) 0xFFFFFFFF := by
  rw [State.addBin, State.load_store_same]
  omega

theorem State.load_addBin_other {a b : Nat} (h : b + 4 ≤ a ∨ a + 4 ≤ b) : (s.addBin a).load b 4 = s.load b 4 :=
  s.load_store_other _ _ _ _ _ h

/-- The bin of the age of a queue's head. -/
def State.ageOf (e v : Nat) : Nat :=
  match s.q e v with
  | [] => 0
  | x :: _ => ageBin (s.cycle - x.since)

theorem State.ageOf_le (e v : Nat) : s.ageOf e v ≤ 15 := by
  unfold State.ageOf
  split
  · exact Nat.zero_le _
  · exact ageBin_le _

theorem State.sampleQueue_eq (e v : Nat) : s.sampleQueue e v =
    (s.addBin ((s.rd SLU_HIST_BASE).toNat + 128 * (16 * e + v) + 4 * depthBin (s.q e v).length)).addBin
      ((s.rd SLU_HIST_BASE).toNat + 128 * (16 * e + v) + 64 + 4 * s.ageOf e v) := rfl

theorem State.sampleQueue_mem (e v : Nat) : ∃ m, s.sampleQueue e v = s.putMem m := ⟨_, rfl⟩

theorem State.load_sampleQueue_same (e v : Nat) :
    let a := (s.rd SLU_HIST_BASE).toNat + 128 * (16 * e + v) + 4 * depthBin (s.q e v).length
    (s.sampleQueue e v).load a 4 = min (s.load a 4 + 1) 0xFFFFFFFF := by
  have hd := depthBin_le (s.q e v).length
  dsimp only
  rw [State.sampleQueue_eq, State.load_addBin_other _ (by omega), State.load_addBin_same]

/-- The bins of another queue stay. -/
theorem State.load_sampleQueue_other (e : Nat) {v w : Nat} (h : w ≠ v) {j : Nat} (hj : j ≤ 15) :
    (s.sampleQueue e w).load ((s.rd SLU_HIST_BASE).toNat + 128 * (16 * e + v) + 4 * j) 4 =
      s.load ((s.rd SLU_HIST_BASE).toNat + 128 * (16 * e + v) + 4 * j) 4 := by
  have hd := depthBin_le (s.q e w).length
  have ha := s.ageOf_le e w
  rw [State.sampleQueue_eq, State.load_addBin_other _ (by omega), State.load_addBin_other _ (by omega)]

theorem State.foldl_sampleQueue_mem (e : Nat) (l : List Nat) : ∃ m, l.foldl (fun a v => a.sampleQueue e v) s = s.putMem m := by
  induction l generalizing s with
  | nil => exact ⟨s.mem, rfl⟩
  | cons v l ih =>
    obtain ⟨m, hm⟩ := ih (s.sampleQueue e v)
    exact ⟨m, hm⟩

theorem State.samplePort_mem (e : Nat) : ∃ m, s.samplePort e = s.putMem m := by
  unfold State.samplePort
  split
  · exact s.foldl_sampleQueue_mem e _
  · exact ⟨s.mem, rfl⟩

theorem State.load_samplePort {e : Nat} (h : (s.laneRec e).isSome = true) {v : Nat} (hv : v < 16) :
    let a := (s.rd SLU_HIST_BASE).toNat + 128 * (16 * e + v) + 4 * depthBin (s.q e v).length
    (s.samplePort e).load a 4 = min (s.load a 4 + 1) 0xFFFFFFFF := by
  intro a
  rw [State.samplePort, if_pos h]
  refine foldl_at (g := (State.load · a 4)) (h := fun n => min (n + 1) 0xFFFFFFFF)
    (P := fun t => t.rd SLU_HIST_BASE = s.rd SLU_HIST_BASE ∧ t.q e v = s.q e v) (fun t w ht => ?_)
    (fun t w ⟨hb, _⟩ hw => ?_) (fun t ⟨hb, hq⟩ => ?_) List.nodup_range (List.mem_range.mpr hv) s ⟨rfl, rfl⟩
  · obtain ⟨m, hm⟩ := t.sampleQueue_mem e w
    rw [hm]
    exact ht
  · simp only [a, ← hb]
    exact t.load_sampleQueue_other e hw (depthBin_le _)
  · simp only [a, ← hb, ← hq]
    exact t.load_sampleQueue_same e v

end

theorem execSamplerPeriod_eq {s : State} (hon : s.on = true) (he : s.bit SLU_SMP_CFG SLU_SMP_CFG_ENABLE = true)
    (hb : s.bit SLU_HIST_CTL SLU_HIST_CTL_BUSY = false) :
    execSamplerPeriod s = ok s (((s.putSmpStart (some s.cycle)).count SLU_SMP_COUNT).samplePort 0) := by
  have hbusy : ((s.putSmpStart (some s.cycle)).count SLU_SMP_COUNT).bit SLU_HIST_CTL SLU_HIST_CTL_BUSY = false := by
    rw [State.bit, State.fld, State.rd_count_other _ _ (by decide)]
    exact hb
  rw [execSamplerPeriod, State.powered_on hon]
  simp [he, hb, State.sampleCycle, hbusy, Config.fabricPorts]

/-! ### The clearing of the histograms (R108) -/

/-- Leaving out entries by their key makes the keys left out read the default. -/
theorem Table.get_filter_key {κ α : Type} [DecidableEq κ] (d : α) (P : κ → Bool) (t : List (κ × α)) (k : κ) :
    Table.get d (t.filter fun e => P e.1) k = if P k then Table.get d t k else d := by
  induction t with
  | nil => simp [Table.get]
  | cons e t ih =>
    by_cases he : e.1 = k
    · subst he
      cases hp : P e.1
      · rw [List.filter_cons_of_neg (by simp [hp]), ih, hp]
        rfl
      · simp [hp, Table.get]
    · cases hp : P e.1
      · rw [List.filter_cons_of_neg (by simp [hp]), ih, Table.get, if_neg he]
      · rw [List.filter_cons_of_pos (p := fun e : κ × α => P e.1) hp, Table.get, if_neg he, ih, Table.get, if_neg he]

theorem State.read_zeroBytes (s : State) (a n x : Nat) :
    Memory.read (s.zeroBytes a n).mem x = if a ≤ x ∧ x < a + n then 0 else Memory.read s.mem x := by
  have hkeep : (decide (x < a) || decide (a + n ≤ x)) = !decide (a ≤ x ∧ x < a + n) := by
    rw [Bool.eq_iff_iff]
    simp only [Bool.or_eq_true, decide_eq_true_eq, Bool.not_eq_true', decide_eq_false_iff_not]
    omega
  refine (Table.get_filter_key unlistedByte (fun k => decide (k < a) || decide (a + n ≤ k)) s.mem x).trans ?_
  rw [hkeep]
  by_cases h : a ≤ x ∧ x < a + n <;> simp [h, unlistedByte, Memory.read]

/-! ### The clauses -/

section
variable {s : State} (hon : s.on = true)
include hon

theorem calendarSlotExpiry_frees (n : Fin 4096) : Gives (.calendarSlotExpiry n) s fun u => u.regs = s.regs ∧ u.mem = s.mem ∧
    ∀ p v, u.vc p v = { s.vc p v with filed := if (s.vc p v).filed = some n.val then none else (s.vc p v).filed } :=
  gives_ok (execCalendarSlotExpiry_eq hon n) ⟨by simp, by simp, fun p v => (s.vc_expire n p v).trans (Vc.expire_eq _ _)⟩

theorem headgateRefill_fills (hmap : (s.laneMap.map LaneRec.port).Nodup) :
    Gives .headgateRefill s fun u => u.regs = s.regs ∧ u.mem = s.mem ∧
      ∀ r ∈ s.laneMap, ∀ c ∈ [5, 6, 7], u.bucket r.port c = s.refilled r.port c (s.bucket r.port c) :=
  gives_ok (execHeadgateRefill_eq hon)
    ⟨foldl_keep State.regs _ (fun a p => (a.refillPort_keeps p).1) _ s,
      foldl_keep State.mem _ (fun a p => (a.refillPort_keeps p).2) _ s,
      fun _ hr _ hc => State.bucket_refill hmap (List.mem_map_of_mem hr) hc⟩

theorem samplerPeriod_begins (he : s.bit SLU_SMP_CFG SLU_SMP_CFG_ENABLE = true)
    (hb : s.bit SLU_HIST_CTL SLU_HIST_CTL_BUSY = false) : Gives .samplerPeriod s fun u =>
      u.rd SLU_SMP_COUNT = s.rd SLU_SMP_COUNT + 1 ∧ (∀ r, r ≠ SLU_SMP_COUNT → u.rd r = s.rd r) ∧
      u.smpStart = some s.cycle ∧ ((s.laneRec 0).isSome = true → ∀ v < 16,
        let a := (s.rd SLU_HIST_BASE).toNat + 128 * v + 4 * depthBin (s.q 0 v).length
        u.load a 4 = min (s.load a 4 + 1) 0xFFFFFFFF) := by
  let t := (s.putSmpStart (some s.cycle)).count SLU_SMP_COUNT
  have hbase : t.rd SLU_HIST_BASE = s.rd SLU_HIST_BASE := State.rd_count_other _ _ (by decide)
  refine gives_ok (execSamplerPeriod_eq hon he hb) ?_
  have hload := fun h v hv => t.load_samplePort (e := 0) h (v := v) hv
  obtain ⟨m, hm⟩ := t.samplePort_mem 0
  change (s.commit (t.samplePort 0)).rd _ = _ ∧ _
  refine ⟨?_, fun r hr => ?_, ?_, fun h v hv => ?_⟩
  · rw [State.rd_commit, hm]
    exact State.rd_count_same _ _
  · rw [State.rd_commit, hm]
    exact State.rd_count_other _ _ (Ne.symm hr)
  · rw [State.commit_smpStart, hm]
    rfl
  · have hv' := hload h v hv
    rw [hbase, Nat.mul_zero, Nat.zero_add] at hv'
    exact hv'

theorem clear_busy : Gives .clear s fun u => u.bit SLU_HIST_CTL SLU_HIST_CTL_BUSY = true ∧ u.mem = s.mem := by
  have hexec : execClear s = ok s (s.setFld SLU_HIST_CTL SLU_HIST_CTL_BUSY 1) := by
    rw [execClear, State.powered_on hon]
  refine gives_ok hexec ⟨?_, by simp⟩
  rw [State.bit_commit, State.bit, State.fld_setFld_same _ _ _ _ (by decide)]
  rfl

theorem histClearDone_zeroes (hb : s.bit SLU_HIST_CTL SLU_HIST_CTL_BUSY = true) : Gives .histClearDone s fun u =>
    u.bit SLU_HIST_CTL SLU_HIST_CTL_BUSY = false ∧ u.rd SLU_SMP_COUNT = 0 ∧
      ∀ a, Memory.read u.mem a = if (s.rd SLU_HIST_BASE).toNat ≤ a ∧ a < (s.rd SLU_HIST_BASE).toNat + 2097152 then 0
        else Memory.read s.mem a := by
  have hexec : execHistClearDone s = ok s (((s.zeroBytes (s.rd SLU_HIST_BASE).toNat (2 * 2 ^ 20)).wr SLU_SMP_COUNT 0).setFld
      SLU_HIST_CTL SLU_HIST_CTL_BUSY 0) := by
    rw [execHistClearDone, State.powered_on hon, if_pos hb]
  refine gives_ok hexec ⟨?_, ?_, fun a => ?_⟩
  · rw [State.bit_commit, State.bit, State.fld_setFld_same _ _ _ _ (by decide)]
    rfl
  · rw [State.rd_commit, State.rd_setFld_other _ _ _ (by decide), State.rd_wr_same]
  · exact s.read_zeroBytes _ _ a

end

end Sys2Proof.Machine
end

section
/-! Pending notices at the end of their gap (O34). -/

namespace Sys2Proof.Machine

/-! ### Headers and payloads of module-originated cells -/

theorem toNat_sealHdr {h : Nat} (hlt : h < 2 ^ 128) : (sealHdr h).toNat = putBits h 0 8 (hcrc h) := by
  rw [sealHdr, BitVec.toNat_ofNat]
  exact Nat.mod_eq_of_lt (putBits_lt _ _ _ _ _ hlt (by decide))

/-- HCRC covers no field above it. -/
theorem bitsOf_sealHdr {h lo : Nat} (hlt : h < 2 ^ 128) (hlo : 8 ≤ lo) (w : Nat) :
    bitsOf (sealHdr h).toNat lo w = bitsOf h lo w := by
  rw [toNat_sealHdr hlt]
  exact bitsOf_putBits_above _ _ _ _ _ _ hlo

theorem routedHdr_type_tc (type tc path ece ctx gen src tag seq len : Nat) :
    hType (routedHdr type tc path ece ctx gen src tag seq len).toNat = type % 16 ∧
      hTc (routedHdr type tc path ece ctx gen src tag seq len).toNat = tc % 8 := by
  have hsum : type % 16 * 2 ^ 124 + tc % 8 * 2 ^ 121 + path % 2 ^ 40 * 2 ^ 80 + ece % 2 * 2 ^ 76 + ctx % 4096 * 2 ^ 64 +
      gen % 16 * 2 ^ 60 + src % 2 ^ 17 * 2 ^ 43 + tag % 4096 * 2 ^ 31 + seq % 4096 * 2 ^ 19 + len % 128 * 2 ^ 12 <
      (type % 16 * 8 + tc % 8 + 1) * 2 ^ 121 := by omega
  unfold routedHdr
  generalize hh : type % 16 * 2 ^ 124 + tc % 8 * 2 ^ 121 + path % 2 ^ 40 * 2 ^ 80 + ece % 2 * 2 ^ 76 + ctx % 4096 * 2 ^ 64 +
      gen % 16 * 2 ^ 60 + src % 2 ^ 17 * 2 ^ 43 + tag % 4096 * 2 ^ 31 + seq % 4096 * 2 ^ 19 + len % 128 * 2 ^ 12 = h at *
  have hlt : h < 2 ^ 128 := by omega
  rw [hType, hTc, bitsOf_sealHdr hlt (by decide), bitsOf_sealHdr hlt (by decide), bitsOf_eq, bitsOf_eq]
  omega

/-- A word with a field replaced is no wider. -/
theorem toNat_ofNat_putBits {n : Nat} (x : BitVec n) {lo w : Nat} (v : Nat) (h : lo + w ≤ n) :
    (BitVec.ofNat n (putBits x.toNat lo w v)).toNat = putBits x.toNat lo w v := by
  rw [BitVec.toNat_ofNat]
  exact Nat.mod_eq_of_lt (putBits_lt _ _ _ _ _ x.isLt h)

section
variable (p : Payload) {i n : Nat} (v : Nat) (h : i + n ≤ 64)
include h

theorem toNat_paySet : (paySet p i n v).toNat = putBits p.toNat (8 * i) (8 * n) v :=
  toNat_ofNat_putBits p v (by omega)

theorem payNum_paySet_same : payNum (paySet p i n v) i n = v % 2 ^ (8 * n) := by
  rw [payNum, toNat_paySet p v h, bitsOf_putBits_same]

/-- Bytes that do not overlap those set read as before. -/
theorem payNum_paySet_other {j m : Nat} (hj : i + n ≤ j ∨ j + m ≤ i) : payNum (paySet p i n v) j m = payNum p j m := by
  rw [payNum, toNat_paySet p v h]
  rcases hj with hj | hj
  · exact bitsOf_putBits_above _ _ _ _ _ _ (by omega)
  · exact bitsOf_putBits_below _ _ _ _ _ _ (by omega)

end

theorem State.switchId_lt (s : State) : s.switchId < 4096 := bitsOf_lt _ _ _

/-! ### A notice sent (R57, R60) -/

/-- Between `s` and `u` one cell of type `type` on TC 1 entered the crossbar at the management input: it names this module and
`port`, and its bytes `at_` and `at_ + 1` count `n` cells. -/
def State.NoticeSent (s u : State) (type n at_ port : Nat) : Prop := ∃ k : Cell,
  Table.get [] u.xin 1297 = Table.get [] s.xin 1297 ++ [(2, .cell k)] ∧ hType k.h = type ∧ hTc k.h = 1 ∧
  payNum k.pay 0 2 = s.switchId ∧ payNum k.pay 2 2 = port % 65536 ∧ payNum k.pay at_ 2 = min n 65535

/-- An originated cell toward an endpoint with a return entry stands last at its input (R38). -/
theorem State.originate_valid {s : State} {ep : Nat} (h : bitOf (s.returnEntry ep) 63 = true)
    (type tc ctx gen tag seq len : Nat) (pay : Payload) : ∃ path ece,
      s.originate ep type tc ctx gen tag seq len pay =
        s.inject 1297 (2 * tc) (.cell ⟨routedHdr type tc path ece ctx gen ep tag seq len, pay⟩) := by
  unfold State.originate
  dsimp only
  rw [if_pos h]
  exact ⟨_, _, rfl⟩

/-- A notice toward an endpoint with a return entry is sent; the pending notices, their timers and memory stay. -/
theorem State.originate_notice {s : State} {ep : Nat} (h : bitOf (s.returnEntry ep) 63 = true) {type : Nat} (ht : type < 16)
    (ctx gen tag seq len : Nat) {pay : Payload} {n at_ port : Nat} (hid : payNum pay 0 2 = s.switchId)
    (hport : payNum pay 2 2 = port % 65536) (hn : payNum pay at_ 2 = min n 65535) :
    let u := s.originate ep type 1 ctx gen tag seq len pay
    s.NoticeSent u type n at_ port ∧ u.mem = s.mem ∧ u.fails = s.fails ∧ u.echoes = s.echoes ∧ u.echoGaps = s.echoGaps := by
  obtain ⟨path, ece, hu⟩ := State.originate_valid h type 1 ctx gen tag seq len pay
  obtain ⟨htype, htc⟩ := routedHdr_type_tc type 1 path ece ctx gen ep tag seq len
  dsimp only
  rw [hu]
  exact ⟨⟨⟨_, pay⟩, Table.get_set_same .., htype.trans (Nat.mod_eq_of_lt ht), htc, hid, hport, hn⟩, rfl, rfl, rfl, rfl⟩

section
variable {s : State} {src : Nat} (h : bitOf (s.returnEntry src) 63 = true) (x : Notice) (n : Nat)
include h

theorem State.sendFail_sent :
    let u := s.sendFail src x n
    s.NoticeSent u 12 n 6 x.port ∧ u.mem = s.mem ∧ u.fails = s.fails ∧ u.echoes = s.echoes ∧ u.echoGaps = s.echoGaps := by
  have hid := s.switchId_lt
  refine State.originate_notice h (by decide) _ _ _ _ _ ?_ ?_ ?_
  · simp [payFields, payNum_paySet_same, payNum_paySet_other]
    omega
  · simp [payFields, payNum_paySet_same, payNum_paySet_other]
  · simp [payFields, payNum_paySet_same, payNum_paySet_other]

theorem State.sendEcho_sent (tc : Nat) :
    let u := s.sendEcho src tc x n
    s.NoticeSent u 11 n 10 x.port ∧ u.mem = s.mem ∧ u.fails = s.fails ∧ u.echoes = s.echoes ∧ u.echoGaps = s.echoGaps := by
  have hid := s.switchId_lt
  refine State.originate_notice h (by decide) _ _ _ _ _ ?_ ?_ ?_
  · simp [payFields, payNum_paySet_same, payNum_paySet_other]
    omega
  · simp [payFields, payNum_paySet_same, payNum_paySet_other]
  · simp [payFields, payNum_paySet_same, payNum_paySet_other]

end

/-! ### The clauses -/

section
variable {s : State} {src : BitVec 17} (hon : s.on = true)
include hon

section
variable {p : BitVec 10} {y : Notice} (hy : Table.look s.fails (src.toNat, p.toNat) = some y)
include hy

theorem failGapExpiry_over (h0 : y.count = 0) : Gives (.failGapExpiry src p) s fun u =>
    Table.look u.fails (src.toNat, p.toNat) = none ∧ u.mem = s.mem ∧ u.xin = s.xin := by
  have hexec : execFailGapExpiry src p s = ok s (s.putFails (Table.del s.fails (src.toNat, p.toNat))) := by
    rw [execFailGapExpiry, State.powered_on hon]
    simp only [hy, h0, if_true]
  exact gives_ok hexec ⟨by simp [Table.look_del], by simp, by simp⟩

theorem failGapExpiry_sends (h0 : 0 < y.count) (hret : bitOf (s.returnEntry src.toNat) 63 = true) :
    Gives (.failGapExpiry src p) s fun u => s.NoticeSent u 12 y.count 6 y.port ∧
      Table.look u.fails (src.toNat, p.toNat) = some { y with count := 0 } ∧ u.mem = s.mem := by
  let t := s.putFails (Table.put pairRank s.fails (src.toNat, p.toNat) { y with count := 0 })
  have hexec : execFailGapExpiry src p s = ok s (t.sendFail src.toNat y y.count) := by
    rw [execFailGapExpiry, State.powered_on hon]
    simp only [hy, if_neg h0.ne']
    rfl
  obtain ⟨hsent, hmem, hfails, -, -⟩ := State.sendFail_sent (s := t) hret y y.count
  refine gives_ok hexec ⟨hsent, ?_, hmem⟩
  rw [State.commit_fails, hfails]
  exact Table.look_put_same ..

end

section
variable {tc : Fin 8} (hgap : s.echoGaps.contains (echoTimer (src.toNat, tc.val)) = true)
include hgap

theorem echoGapExpiry_over (hdue : (s.echoes.filter fun e => echoTimer e.1 == echoTimer (src.toNat, tc.val)) = []) :
    Gives (.echoGapExpiry src tc) s fun u => u.echoGaps = s.echoGaps.erase (echoTimer (src.toNat, tc.val)) ∧
      u.echoes = s.echoes ∧ u.mem = s.mem ∧ u.xin = s.xin := by
  have hexec : execEchoGapExpiry src tc s = ok s (s.putEchoGaps (s.echoGaps.erase (echoTimer (src.toNat, tc.val)))) := by
    rw [execEchoGapExpiry, State.powered_on hon]
    simp only [hgap, hdue, if_true, List.isEmpty_nil]
  exact gives_ok hexec ⟨by simp, by simp, by simp, by simp⟩

theorem echoGapExpiry_sends {y : Notice}
    (hdue : (s.echoes.filter fun e => echoTimer e.1 == echoTimer (src.toNat, tc.val)) = [((src.toNat, tc.val), y)])
    (hret : bitOf (s.returnEntry src.toNat) 63 = true) :
    Gives (.echoGapExpiry src tc) s fun u => s.NoticeSent u 11 y.count 10 y.port ∧ u.echoGaps = s.echoGaps ∧
      u.echoes = s.echoes.filter (fun e => echoTimer e.1 != echoTimer (src.toNat, tc.val)) ∧ u.mem = s.mem := by
  let t := s.putEchoes (s.echoes.filter fun e => echoTimer e.1 != echoTimer (src.toNat, tc.val))
  have hexec : execEchoGapExpiry src tc s = ok s (t.sendEcho src.toNat tc y y.count) := by
    rw [execEchoGapExpiry, State.powered_on hon]
    simp only [hgap, hdue, if_true, List.isEmpty_cons, Bool.false_eq_true, if_false, List.foldl_cons, List.foldl_nil]
    rfl
  obtain ⟨hsent, hmem, -, hechoes, hgaps⟩ := State.sendEcho_sent (s := t) hret y y.count tc
  exact gives_ok hexec ⟨hsent, (State.commit_echoGaps ..).trans hgaps, (State.commit_echoes ..).trans hechoes,
    (State.commit_mem ..).trans hmem⟩

end

end

/-- Settles O34: the calendar and the Headgate touch the ports alone, each bin and each bucket takes its count once, and a
pending notice leaves as one cell at the management input. -/
theorem shapingSamplingGaps : Obligations.ShapingSamplingGaps := by
  refine ⟨fun s hon => ⟨calendarSlotExpiry_frees hon, fun hmap => ?_, samplerPeriod_begins hon, clear_busy hon,
    histClearDone_zeroes hon⟩, fun s src p tc hon => ⟨fun y hy => ⟨failGapExpiry_over hon hy, failGapExpiry_sends hon hy⟩,
    fun hgap => ⟨echoGapExpiry_over hon hgap, fun y => echoGapExpiry_sends hon hgap⟩⟩⟩
  refine (headgateRefill_fills hon hmap).mono fun u ⟨hregs, hmem, hbucket⟩ => ⟨hregs, hmem, fun r hr c hc => ?_⟩
  have hpoliced : s.policed r.port c = s.bit (PORT_POLICE r.port (c - 5)) PORT_POLICE_POLICED := by
    rcases hc with rfl | rfl | rfl <;> rfl
  rw [hbucket r hr c (by simpa using hc), State.refilled, hpoliced]
  rfl

end Sys2Proof.Machine
end

section
/-! Statements of the tile that fail (O12, O22, O23, O47). Nothing in three of them keeps a thread that has ended (R178) from
being in RUN, and such a thread becomes IDLE as soon as the tile is looked at; the fourth leaves out a STUCK crossing. -/

namespace Sys2Proof.Machine

/-! ### The state that a command leaves -/

/-- The state after command `i`. -/
def State.after (s : State) (i : Instr) : State :=
  match exec i s with
  | .next u => u
  | _ => s

theorem Gives.after {i : Instr} {s : State} {P : State → Prop} (h : Gives i s P) : P (s.after i) := by
  obtain ⟨u, hu, hp⟩ := h
  rwa [State.after, hu]

/-! ### Threads that have ended and run -/

/-- After reset, with the boot over. -/
def bootedModule : State := State.reset.putPower { Power.init with romOk := true, nextDomain := 50, m2 := [0] }

/-- Thread 0 of tile 0 is in RUN at address 0 with 3 in s1, and counts as ended. -/
def endedRunner : State :=
  bootedModule.modThread 0 0 fun y => { y with st := .run, ending := true, s := [(1, 3)] }

theorem endedRunner_ready : endedRunner.Ready 0 0 := by constructor <;> decide +kernel

theorem endedRunner_valid (ss vs : List Nat) : endedRunner.Valid 0 0 ss vs := by
  have hS : (endedRunner.thread 0 0).busyS = [] := by decide +kernel
  have hV : (endedRunner.thread 0 0).busyV = [] := by decide +kernel
  simp [State.Valid, hS, hV]

/-- Refutes O12: thread 0 counts as ended, joins the barrier of threads 0 and 1 as the first, and is IDLE then, not waiting. -/
theorem not_synchronisationResults : ¬ Obligations.SynchronisationResults := by
  unfold Obligations.SynchronisationResults
  intro h
  obtain ⟨-, hbar⟩ := h
  have hnone : (endedRunner.tile 0).barrier = none := by decide +kernel
  have hwaits := (hbar endedRunner 0 0 (BitVec.ofNat 56 (2 ^ 38)) endedRunner_ready (endedRunner_valid _ _) (by decide)
    (by decide +kernel) (by simp [hnone]) (by simp [hnone]) (by simp [hnone]) (by simp [hnone])).2
    ⟨1, by decide, by decide +kernel, by decide, by simp [hnone]⟩ (by decide +kernel)
  have hidle : ((endedRunner.after (.iTbar 0 0 (BitVec.ofNat 56 (2 ^ 38)))).thread 0 0).st = .idle := by decide +kernel
  exact absurd (hidle.symm.trans hwaits.after.1) (by decide)

/-- Refutes O23: thread 0 counts as ended and issues an ADD with bit 0 set, and is IDLE then, not STOPPED. -/
theorem not_faultsAtIssue : ¬ Obligations.FaultsAtIssue := by
  unfold Obligations.FaultsAtIssue
  intro h
  have hfaults := ((h endedRunner 0 0 1 endedRunner_ready (endedRunner_valid _ _)).1 (by decide)).1
  have hidle : ((endedRunner.after (.iAdd 0 0 1)).thread 0 0).st = .idle := by decide +kernel
  exact absurd (hidle.symm.trans hfaults.after.1) (by decide)

/-! ### A set with a thread that has ended -/

/-- A ring of context 5 in canal memory with one entry posted. -/
def postedRing : Ring := ⟨0x8E400000, 4, false, 0, 1⟩

/-- THREADS_KILL of set 0 of context 5. -/
def killCommand : RingCmd := ⟨5, 0, 0, false, 0, 0⟩

/-- `killCommand` is posted on `postedRing`. The set is threads 0 and 1 of tile 0, both in RUN; thread 1 counts as ended and
owns accumulator tile 0. -/
def endedInSet : State :=
  ((((bootedModule.putCtxs [(5, { Ctx.init with rings := [(0, postedRing)] })]).setFld (CTX_STATE 5) CTX_STATE_STATE 1).put
    (postedRing.base + 64) [0x61]).putSets [(setKey 5 0, ⟨5, 0, 1, 3⟩)]).modTile 0 fun x =>
      { x with
        threads := [(0, { Thread.init with st := .run, set := setKey 5 0 }),
          (1, { Thread.init with st := .run, set := setKey 5 0, ending := true })]
        accs := [(0, ⟨some 1, 0, [], 0, false⟩)] }

theorem endedInSet_posted : endedInSet.Posted killCommand 0x61 postedRing := by constructor <;> decide +kernel

/-- Refutes O47: as THREADS_KILL stops thread 0 of the set, thread 1, which counts as ended, becomes IDLE before its turn, and
THREADS_KILL passes it over: accumulator tile 0 stays its own. -/
theorem not_ringThreadsAndExperts : ¬ Obligations.RingThreadsAndExperts := by
  unfold Obligations.RingThreadsAndExperts
  intro h
  have hgives := (h endedInSet killCommand postedRing (by decide +kernel) (by decide)).2.1 ⟨5, 0, 1, 3⟩
    endedInSet_posted (by decide +kernel)
  obtain ⟨-, hmine, -⟩ := hgives.after
  have hfree := (hmine 0 1 (by decide +kernel)).2.1
  have haccs : ((endedInSet.after (.threadsKill killCommand)).tile 0).accs = [(0, ⟨some 1, 0, [], 0, false⟩)] := by
    decide +kernel
  exact hfree (0, ⟨some 1, 0, [], 0, false⟩) (by rw [haccs]; simp) rfl

/-! ### A request over a STUCK crossing -/

/-- A load from the general pool area by a thread of context 4095, which is not open. -/
def closedRequest : Request := ⟨0, 0, 0, 4095, 0, 0x8E400000, .load 8⟩

/-- `closedRequest` waits at the management port, and crossing 2 is STUCK. -/
def stuckCrossing : State := (bootedModule.setFld (CDC_STATE 2) CDC_STATE_STATE 1).setInbox 16 [.req closedRequest]

/-- Refutes O22: over a STUCK crossing the management port answers with an address error (R419), not CLOSED. -/
theorem not_requestsAndResponses : ¬ Obligations.RequestsAndResponses := by
  unfold Obligations.RequestsAndResponses
  intro h
  have hclosed := ((h.1 stuckCrossing closedRequest (by decide +kernel)).2.2 (by decide) (by decide) (by decide +kernel)
    (by simp [closedRequest])).2.2 (.inl (by decide +kernel))
  have haddress : Table.get [] (stuckCrossing.after (.mgmtPortRequest closedRequest)).xin 1297 =
      [(10, .rsp ⟨0, 0, 0, .address, 0⟩)] := by decide +kernel
  have hnone : Table.get [] stuckCrossing.xin 1297 = [] := by decide +kernel
  have hboth := haddress.symm.trans hclosed.after.1
  rw [hnone] at hboth
  exact absurd hboth (by decide)

end Sys2Proof.Machine
end

section
/-! What settling a tile leaves (R138, R143, R146, R163, R178), for threads of any state: a thread that has not ended and
whose wait is not over keeps its state, and the tables of the tile change only by what threads that have ended give up. -/

namespace Sys2Proof.Machine

/-! ### Threads that stay -/

/-- Thread `k` has not ended, and nothing in the tile's tables ends its wait, which is for neither a semaphore nor a
descriptor. -/
structure Tile.Stays (x : Tile) (k : Nat) : Prop where
  ending : (x.thread k).ending = false
  waiting : x.waitOver k = none
  sem : ∀ a n, x.waitOf k ≠ .sem a n
  take : ∀ d, x.waitOf k ≠ .take d

theorem Tile.waitOf_waiting {x : Tile} {k : Nat} (h : (x.thread k).st = .wait) : x.waitOf k = (x.thread k).wait := by
  simp [Tile.waitOf, h]

theorem Tile.waitOf_not_waiting {x : Tile} {k : Nat} (h : (x.thread k).st ≠ .wait) : x.waitOf k = .none := by
  simp [Tile.waitOf, h]

theorem Tile.stays_of_not_waiting {x : Tile} {k : Nat} (hst : (x.thread k).st ≠ .wait) (hend : (x.thread k).ending = false) :
    x.Stays k := by
  have hnone := Tile.waitOf_not_waiting hst
  exact ⟨hend, by simp [Tile.waitOver, hnone], by simp [hnone], by simp [hnone]⟩

/-- From `x` to `y` only waits have ended: the tables that waits ask for are as before, and so is every thread that stays. -/
structure Tile.WaitsEnd (x y : Tile) : Prop where
  accs : y.accs = x.accs
  tq : y.tq = x.tq
  mmaQ : y.mmaQ = x.mmaQ
  mma : y.mma = x.mma
  cc : y.cc = x.cc
  streams : y.streams = x.streams
  outst : y.outst = x.outst
  thread : ∀ k, x.Stays k → y.thread k = x.thread k

theorem Tile.WaitsEnd.refl (x : Tile) : x.WaitsEnd x := ⟨rfl, rfl, rfl, rfl, rfl, rfl, rfl, fun _ _ => rfl⟩

theorem Tile.WaitsEnd.acc {x y : Tile} (h : x.WaitsEnd y) (j : Nat) : y.acc j = x.acc j := by rw [Tile.acc, h.accs, Tile.acc]

theorem Tile.WaitsEnd.ccGet {x y : Tile} (h : x.WaitsEnd y) (c : Nat) : y.ccGet c = x.ccGet c := by
  rw [Tile.ccGet, h.cc, Tile.ccGet]

theorem Tile.WaitsEnd.stays {x y : Tile} (h : x.WaitsEnd y) {k : Nat} (hk : x.Stays k) : y.Stays k := by
  have hthread := h.thread k hk
  have hwait : y.waitOf k = x.waitOf k := by simp only [Tile.waitOf, hthread]
  have hover : y.waitOver k = x.waitOver k := by
    simp only [Tile.waitOver, hwait, hthread, h.ccGet, h.outst, h.tq, h.mmaQ, Tile.fenced, Tile.outstOf] <;> rfl
  exact ⟨hthread ▸ hk.ending, hover.trans hk.waiting, fun a n => hwait ▸ hk.sem a n, fun d => hwait ▸ hk.take d⟩

theorem Tile.WaitsEnd.trans {x y z : Tile} (h : x.WaitsEnd y) (k : y.WaitsEnd z) : x.WaitsEnd z :=
  ⟨k.accs.trans h.accs, k.tq.trans h.tq, k.mmaQ.trans h.mmaQ, k.mma.trans h.mma, k.cc.trans h.cc, k.streams.trans h.streams,
    k.outst.trans h.outst, fun n hn => (k.thread n (h.stays hn)).trans (h.thread n hn)⟩

theorem Tile.WaitsEnd.foldl {β : Type} {f : Tile → β → Tile} (h : ∀ (x : Tile) b, x.WaitsEnd (f x b)) (l : List β) (x : Tile) :
    x.WaitsEnd (l.foldl f x) := by
  induction l generalizing x with
  | nil => exact .refl _
  | cons b l ih => exact (h x b).trans (ih _)

/-- A thread that does not stay may be given any state. -/
theorem Tile.WaitsEnd.setThread {x : Tile} {h : Nat} (hx : ¬ x.Stays h) (y : Thread) : x.WaitsEnd (x.setThread h y) := by
  refine ⟨rfl, rfl, rfl, rfl, rfl, rfl, rfl, fun k hk => Tile.thread_setThread_other x y ?_⟩
  rintro rfl
  exact hx hk

theorem Tile.leave_waitsEnd (x : Tile) (h : Nat) : x.WaitsEnd (x.leave h) := by
  unfold Tile.leave
  extract_lets y
  split
  · rename_i hleaves
    have hx : ¬ x.wasHeld.Stays h := fun hs => by simp [y, show (x.thread h).ending = false from hs.ending] at hleaves
    have hheld : x.WaitsEnd x.wasHeld := ⟨rfl, rfl, rfl, rfl, rfl, rfl, rfl, fun _ _ => rfl⟩
    exact hheld.trans (.setThread hx _)
  · exact .refl x

theorem Tile.endWait_waitsEnd (x : Tile) (h : Nat) : x.WaitsEnd (x.endWait h) := by
  unfold Tile.endWait
  split
  · rename_i hover
    exact .setThread (fun hs => by simp [hs.waiting] at hover) _
  · rename_i hover
    exact .setThread (fun hs => by simp [hs.waiting] at hover) _
  · exact .refl x

/-! ### The tile in its state -/

/-- The same for tile `t` of the state; registers and what waits at the crossbar are as before. -/
structure State.WaitsEnd (t : Nat) (s u : State) : Prop where
  tile : (s.tile t).WaitsEnd (u.tile t)
  other : ∀ v, v ≠ t → u.tile v = s.tile v
  regs : u.regs = s.regs
  xin : u.xin = s.xin

theorem State.WaitsEnd.refl (t : Nat) (s : State) : s.WaitsEnd t s := ⟨.refl _, fun _ _ => rfl, rfl, rfl⟩

theorem State.WaitsEnd.trans {t : Nat} {a b c : State} (h : a.WaitsEnd t b) (k : b.WaitsEnd t c) : a.WaitsEnd t c :=
  ⟨h.tile.trans k.tile, fun v hv => (k.other v hv).trans (h.other v hv), k.regs.trans h.regs, k.xin.trans h.xin⟩

theorem State.WaitsEnd.foldl {β : Type} {t : Nat} {f : State → β → State} (h : ∀ (s : State) b, s.WaitsEnd t (f s b))
    (l : List β) (s : State) : s.WaitsEnd t (l.foldl f s) := by
  induction l generalizing s with
  | nil => exact .refl _ _
  | cons b l ih => exact (h s b).trans (ih _)

theorem State.tile_modTile_other (s : State) {t v : Nat} (f : Tile → Tile) (h : v ≠ t) : (s.modTile t f).tile v = s.tile v :=
  s.tile_setTile_other _ (Ne.symm h)

theorem State.WaitsEnd.modTile {t : Nat} {s : State} {f : Tile → Tile} (h : (s.tile t).WaitsEnd (f (s.tile t))) :
    s.WaitsEnd t (s.modTile t f) :=
  ⟨by rwa [State.tile_modTile], fun _ hv => s.tile_modTile_other f hv, by simp, by simp⟩

theorem State.semGrant_waitsEnd (s : State) (t h : Nat) : s.WaitsEnd t (s.semGrant t h) := by
  unfold State.semGrant
  split
  · rename_i a n hwait
    split
    · exact .refl t s
    · have hstore : s.WaitsEnd t (s.store a 8 (s.load a 8 - n)) := ⟨.refl _, fun _ _ => rfl, rfl, rfl⟩
      exact hstore.trans (.modTile (.setThread (fun hs => hs.sem a n hwait) _))
  · exact .refl t s

theorem State.takeGrant_waitsEnd (s : State) (t h : Nat) : s.WaitsEnd t (s.takeGrant t h) := by
  unfold State.takeGrant
  split
  · rename_i d w r hwait _
    let x : Tile := { (s.tile t).setEntry (descEntry w) { (s.tile t).entry (descEntry w) with
      st := .taken, takenBy := some h, takenAt := (s.tile t).takeCount } with
      cq := r, takeCount := (s.tile t).takeCount + 1 }
    have hqueue : (s.tile t).WaitsEnd x := ⟨rfl, rfl, rfl, rfl, rfl, rfl, rfl, fun _ _ => rfl⟩
    have hx : ¬ x.Stays h := fun hs => hs.take d hwait
    exact .modTile (hqueue.trans (.setThread hx _))
  · exact .refl t s

theorem State.settleOnce_waitsEnd (s : State) (t : Nat) : (s.modTile t Tile.unhold).WaitsEnd t (s.settleOnce t) := by
  have hleave : (s.modTile t Tile.unhold).WaitsEnd t (s.leaveAll t) := by
    refine ⟨?_, fun v hv => ?_, by simp [State.leaveAll], by simp [State.leaveAll]⟩
    · rw [State.leaveAll, State.tile_modTile, State.tile_modTile]
      exact .foldl Tile.leave_waitsEnd _ _
    · rw [State.leaveAll, s.tile_modTile_other _ hv, s.tile_modTile_other _ hv]
  have hwaits : (s.leaveAll t).WaitsEnd t ((s.leaveAll t).endWaits t) := .modTile (.foldl Tile.endWait_waitsEnd _ _)
  unfold State.settleOnce
  split
  · exact hleave
  · exact ((hleave.trans hwaits).trans (.foldl (fun s h => s.semGrant_waitsEnd t h) _ _)).trans
      (.foldl (fun s h => s.takeGrant_waitsEnd t h) _ _)

/-- What settling tile `t` leaves: threads that have ended give up what they held, then waits end; no other tile, nothing that
waits at the crossbar, and of the registers only what an event may change. -/
structure State.Settled (t : Nat) (s u : State) : Prop where
  tile : (s.tile t).unhold.WaitsEnd (u.tile t)
  other : ∀ v, v ≠ t → u.tile v = s.tile v
  rd : ∀ r : Reg, r.quiet → u.rd r = s.rd r
  xin : u.xin = s.xin

theorem State.endSet_keeps (s : State) (e : Nat × TSet) :
    (s.endSet e).tiles = s.tiles ∧ (∀ r : Reg, r.quiet → (s.endSet e).rd r = s.rd r) ∧ (s.endSet e).xin = s.xin ∧
      (s.endSet e).mem = s.mem := by
  unfold State.endSet
  split
  · exact ⟨rfl, fun _ _ => rfl, rfl, rfl⟩
  · have honly := (s.putSets (Table.del s.sets e.1)).postPlain_only 6 (some e.2.ctx) (sourceOf 17 0) 0
      (eventData [e.1 % 256, e.2.first, e.2.count])
    exact ⟨honly.tiles, honly.rd, honly.xin, (State.post_postOnly _ _).mem⟩

theorem State.endSets_keeps (s : State) :
    s.endSets.tiles = s.tiles ∧ (∀ r : Reg, r.quiet → s.endSets.rd r = s.rd r) ∧ s.endSets.xin = s.xin ∧
      s.endSets.mem = s.mem := by
  refine ⟨State.endSets_tiles s, fun r hr => ?_, ?_, ?_⟩
  · exact foldl_keep (fun a : State => a.rd r) _ (fun a e => (a.endSet_keeps e).2.1 r hr) _ _
  · exact foldl_keep State.xin _ (fun a e => (a.endSet_keeps e).2.2.1) _ _
  · exact foldl_keep State.mem _ (fun a e => (a.endSet_keeps e).2.2.2) _ _

theorem State.settle_settled (s : State) (t : Nat) : s.Settled t (s.settle t) := by
  have honce := s.settleOnce_waitsEnd t
  obtain ⟨htiles, hrd, hxin, -⟩ := (s.settleOnce t).endSets_keeps
  have htile : ∀ v, (s.settle t).tile v = (s.settleOnce t).tile v := fun v => by rw [State.settle, State.tile, htiles]; rfl
  refine ⟨?_, fun v hv => ?_, fun r hr => ?_, ?_⟩
  · have := honce.tile
    rwa [State.tile_modTile, ← htile] at this
  · rw [htile, honce.other v hv, s.tile_modTile_other _ hv]
  · rw [State.settle, hrd r hr, State.rd_congr honce.regs]
    exact State.rd_congr (by simp) r
  · rw [State.settle, hxin, honce.xin, State.modTile_xin]

/-! ### What threads that have ended give up (R178) -/

/-- A change of every listed value, by its key, that leaves the default changes what each key reads. -/
theorem Table.get_mapKey {κ α : Type} [DecidableEq κ] {d : α} {f : κ → α → α} (hd : ∀ k, f k d = d) (t : List (κ × α)) (k : κ) :
    Table.get d (t.map fun e => (e.1, f e.1 e.2)) k = f k (Table.get d t k) := by
  induction t with
  | nil => exact (hd k).symm
  | cons e t ih =>
    simp only [List.map_cons, Table.get, ih]
    split
    · subst_vars
      rfl
    · rfl

theorem Tile.acc_unhold (x : Tile) (j : Nat) : x.unhold.acc j =
    if (x.acc j).releasing && !x.accBusy j then { x.acc j with owner := none, releasing := false } else x.acc j := by
  have hmap : x.unhold.accs = x.accs.map fun e =>
      (e.1, if e.2.releasing && !x.accBusy e.1 then { e.2 with owner := none, releasing := false } else e.2) :=
    List.map_congr_left fun e _ => by split <;> rfl
  rw [Tile.acc, hmap]
  exact Table.get_mapKey (f := fun k (a : Acc) =>
    if a.releasing && !x.accBusy k then { a with owner := none, releasing := false } else a) (fun _ => rfl) _ _

theorem Tile.acc_unhold_held {x : Tile} {j : Nat} (h : (x.acc j).releasing = false) : x.unhold.acc j = x.acc j := by
  simp [Tile.acc_unhold, h]

/-- Of an accumulator tile only the owner is given up. -/
theorem Tile.acc_unhold_contents (x : Tile) (j : Nat) : (x.unhold.acc j).data = (x.acc j).data ∧
    (x.unhold.acc j).offset = (x.acc j).offset ∧ (x.unhold.acc j).pending = (x.acc j).pending := by
  rw [Tile.acc_unhold]
  split <;> exact ⟨rfl, rfl, rfl⟩

theorem Tile.mem_tq_unhold {x : Tile} {q : TqEntry} :
    q ∈ x.unhold.tq ↔ q ∈ x.tq ∧ (q.discard = false ∨ q.reading = true) := by
  simp [Tile.unhold]

theorem Tile.stays_unhold {x : Tile} {k : Nat} (hst : (x.thread k).st ≠ .wait) (hend : (x.thread k).ending = false) :
    x.unhold.Stays k := Tile.stays_of_not_waiting (x := x.unhold) hst hend

/-- A thread that neither waits nor has ended is as before. -/
theorem State.Settled.thread {t : Nat} {s u : State} (h : s.Settled t u) {k : Nat} (hst : (s.thread t k).st ≠ .wait)
    (hend : (s.thread t k).ending = false) : u.thread t k = s.thread t k :=
  h.tile.thread k (Tile.stays_unhold hst hend)

end Sys2Proof.Machine
end

section
/-! The state in which an instruction acts, and what follows it in a calm tile (R138-R140, R177). -/

namespace Sys2Proof.Machine

/-! ### Fields of the instruction word -/

/-- The low `w` bits of a word read as two's complement. -/
theorem signed_bitsOf (w n : Nat) : signed (w + 1) (bitsOf n 0 (w + 1)) =
    if bitOf n w then (n : Int) % 2 ^ (w + 1) - 2 ^ (w + 1) else (n : Int) % 2 ^ (w + 1) := by
  have hbit : bitOf (bitsOf n 0 (w + 1)) w = bitOf n w := by
    simp [bitOf, testBit_bitsOf]
  have hmod : bitsOf n 0 (w + 1) = n % 2 ^ (w + 1) := by simp [bitsOf]
  unfold signed
  rw [Nat.add_sub_cancel, hbit, hmod, Nat.mod_mod]
  push_cast
  rfl

/-- A field outside the bits that a word uses is 0. -/
theorem bitsOf_eq_zero_of_onlyUses {n used lo w : Nat} (h : onlyUses n used = true) (hused : bitsOf used lo w = 0) :
    bitsOf n lo w = 0 := by
  have hand : n &&& used = n := by simpa [onlyUses] using h
  apply Nat.eq_of_testBit_eq
  intro i
  have hbit : (bitsOf used lo w).testBit i = false := by rw [hused, Nat.zero_testBit]
  rw [testBit_bitsOf] at hbit ⊢
  rw [← hand, Nat.testBit_and, Nat.zero_testBit]
  revert hbit
  cases decide (i < w) <;> cases used.testBit (lo + i) <;> simp

theorem State.Valid.mono {s : State} {t h : Nat} {ss ss' vs vs' : List Nat} (hv : s.Valid t h ss vs) (hs : ss' ⊆ ss)
    (hvs : vs' ⊆ vs) : s.Valid t h ss' vs' :=
  ⟨fun r hr => hv.1 r (hs hr), fun r hr => hv.2 r (hvs hr)⟩

/-! ### The state at issue -/

/-- The state in which an instruction that thread `h` issues to `unit` acts: its word is in the cache, and the unit has
accepted the thread. -/
def State.atIssue (s : State) (t h unit : Nat) : State := (s.cacheAt t (s.thread t h).pc.toNat).unitTook t h unit

theorem Tile.cached_eq (x : Tile) (pc : Nat) (w : Word) : ∃ b, x.cached pc w = { x with icache := b } := by
  unfold Tile.cached
  split
  · exact ⟨x.icache, rfl⟩
  · exact ⟨_, rfl⟩

/-- Only the cache and the rotation differ. -/
theorem State.tile_atIssue (s : State) (t h unit : Nat) :
    ∃ b c, (s.atIssue t h unit).tile t = { s.tile t with icache := b, rotate := c } := by
  obtain ⟨b, hb⟩ := (s.tile t).cached_eq (s.thread t h).pc.toNat (BitVec.ofNat 64 (s.fetched t (s.thread t h).pc.toNat))
  refine ⟨b, Table.set natRank 15 (s.tile t).rotate unit h, ?_⟩
  rw [State.atIssue, State.unitTook, State.tile_modTile, State.cacheAt, State.tile_modTile, hb]

theorem State.tile_atIssue_other (s : State) {t v : Nat} (h unit : Nat) (hv : v ≠ t) :
    (s.atIssue t h unit).tile v = s.tile v := by
  rw [State.atIssue, State.unitTook, State.tile_modTile_other _ _ hv, State.cacheAt, State.tile_modTile_other _ _ hv]

/-- From `s` to `u` the tiles alone may differ. -/
def State.OnlyTiles (s u : State) : Prop := ∃ l, u = s.putTiles l

theorem State.OnlyTiles.refl (s : State) : s.OnlyTiles s := ⟨s.tiles, rfl⟩

theorem State.OnlyTiles.trans {a b c : State} (h : a.OnlyTiles b) (k : b.OnlyTiles c) : a.OnlyTiles c := by
  obtain ⟨l, rfl⟩ := h
  obtain ⟨m, rfl⟩ := k
  exact ⟨m, rfl⟩

theorem State.modTile_onlyTiles (s : State) (t : Nat) (f : Tile → Tile) : s.OnlyTiles (s.modTile t f) := ⟨_, rfl⟩

theorem State.atIssue_onlyTiles (s : State) (t h unit : Nat) : s.OnlyTiles (s.atIssue t h unit) := by
  unfold State.atIssue State.unitTook State.cacheAt
  exact (s.modTile_onlyTiles _ _).trans (State.modTile_onlyTiles _ _ _)

theorem State.thread_modThread_other (s : State) {t h v k : Nat} (f : Thread → Thread) (hk : v ≠ t ∨ k ≠ h) :
    (s.modThread t h f).thread v k = s.thread v k := by
  by_cases hv : v = t
  · subst hv
    rw [State.thread, State.modThread, State.tile_modTile]
    exact Tile.thread_setThread_other _ _ (Ne.symm (hk.resolve_left (· rfl)))
  · rw [State.thread, State.modThread, State.tile_modTile_other _ _ hv, State.thread]

section
variable {s : State} {t h : Nat} (r : s.Ready t h) {unit : Nat} {legal : Bool} {ss vs : List Nat}
  {body : State → Thread → Issue}
include r

/-- The instruction after this one is aligned as well. -/
theorem State.Ready.aligned_next : ((s.thread t h).pc + 8).toNat % 8 = 0 := by
  have hal := r.aligned
  rw [BitVec.toNat_add, show (8 : Word).toNat = 8 from rfl]
  omega

theorem State.Ready.issue_does (hl : legal = true) (hv : s.Valid t h ss vs) :
    s.issue t h unit legal ss vs body =
      (body (s.atIssue t h unit) (s.thread t h)).done (s.atIssue t h unit) t h (s.thread t h).pc.toNat :=
  State.issue_ready r unit legal ss vs body hl hv

end

/-- No fault follows an instruction whose thread is left at a program counter inside its tile (R177). -/
theorem State.fetch_inside {s : State} {t h : Nat} (hown : ownRange t (s.thread t h).pc.toNat 8 = true)
    (hal : (s.thread t h).pc.toNat % 8 = 0) : s.fetch t h = s := by
  simp [State.fetch, hown, hal]

theorem Issue.next_done {u v : State} {t h pc : Nat} (hown : ownRange t ((u.thread t h).pc + 8).toNat 8 = true)
    (hal : ((u.thread t h).pc + 8).toNat % 8 = 0) :
    (Issue.next u).done v t h pc = (u.modThread t h Thread.advance).run t := by
  have hpc : ((u.modThread t h Thread.advance).thread t h).pc = (u.thread t h).pc + 8 := by
    rw [State.thread_modThread]
    rfl
  rw [Issue.done, State.fetch_inside (by rw [hpc]; exact hown) (by rw [hpc]; exact hal)]

theorem Issue.jump_done {u v : State} {t h pc : Nat} {p : Word} (hown : ownRange t p.toNat 8 = true) (hal : p.toNat % 8 = 0) :
    (Issue.jump u p).done v t h pc = (u.modThread t h fun y => { y with pc := p, issued := y.issued + 1 }).run t := by
  rw [Issue.done, State.fetch_inside] <;> rw [State.thread_modThread]
  · exact hown
  · exact hal

/-- Without streams only settling follows an instruction. -/
theorem State.run_idle {s : State} {t : Nat} (h : (s.tile t).streams = []) : s.run t = s.settle t := by
  have hpump : State.pump ((s.tile t).linesLeft + 1) s t = s := by
    unfold State.pump
    simp [h]
  rw [State.run, hpump, ite_self]

/-! ### Threads that live on -/

/-- What a thread set and the ends of threads look at is as before. -/
structure Thread.LivesOn (y y' : Thread) : Prop where
  st : y'.st = y.st
  ending : y'.ending = y.ending
  set : y'.set = y.set

theorem Thread.LivesOn.refl (y : Thread) : y.LivesOn y := ⟨rfl, rfl, rfl⟩
theorem Thread.LivesOn.trans {a b c : Thread} (h : a.LivesOn b) (k : b.LivesOn c) : a.LivesOn c :=
  ⟨k.st.trans h.st, k.ending.trans h.ending, k.set.trans h.set⟩

theorem Thread.setS_livesOn (y : Thread) (d : Nat) (v : Word) : y.LivesOn (y.setS d v) := by
  unfold Thread.setS
  split <;> exact ⟨rfl, rfl, rfl⟩
theorem Thread.setV_livesOn (y : Thread) (d : Nat) (v : VReg) : y.LivesOn (y.setV d v) := ⟨rfl, rfl, rfl⟩
theorem Thread.setM_livesOn (y : Thread) (d : Nat) (v : MReg) : y.LivesOn (y.setM d v) := by
  unfold Thread.setM
  split <;> exact ⟨rfl, rfl, rfl⟩

/-- A tile stays calm while its threads live on and no stream starts. -/
theorem State.Calm.of_livesOn {s u : State} {t : Nat} (c : s.Calm t) (hsets : u.sets = s.sets)
    (hthreads : ∀ v k, (s.thread v k).LivesOn (u.thread v k)) (hstreams : (u.tile t).streams = (s.tile t).streams) :
    u.Calm t where
  streams := hstreams.trans c.streams
  waits k := (hthreads t k).st ▸ c.waits k
  ends k := (hthreads t k).ending.trans (c.ends k)
  sets e he := by
    rw [hsets] at he
    have hleft := c.sets e he
    unfold State.setLeft at hleft ⊢
    simp only [(hthreads _ _).st, (hthreads _ _).set]
    exact hleft

/-! ### A calm tile in its state -/

/-- What follows an instruction in a calm tile touches nothing but the tiles. -/
theorem State.Calm.run_onlyTiles {s : State} {t : Nat} (c : s.Calm t) : s.OnlyTiles (s.run t) := by
  have hlook := c.settleOnce
  have honce : s.OnlyTiles (s.settleOnce t) := by
    unfold State.settleOnce
    split
    · exact s.modTile_onlyTiles _ _
    · have hl := c.leaveAll.endWaits c
      have hsem : ((s.leaveAll t).endWaits t).semGrants t = (s.leaveAll t).endWaits t :=
        foldl_same (fun s h => State.semGrant s t h) _ (fun k => by unfold State.semGrant; rw [hl.waitOf c k]) _
      have htake : ((s.leaveAll t).endWaits t).takeGrants t = (s.leaveAll t).endWaits t :=
        foldl_same (fun s h => State.takeGrant s t h) _ (fun k => by unfold State.takeGrant; rw [hl.waitOf c k]) _
      rw [hsem, htake]
      exact (s.modTile_onlyTiles _ _).trans (State.modTile_onlyTiles _ _ _)
  have hsets : (s.settleOnce t).endSets = s.settleOnce t := by
    unfold State.endSets
    refine foldl_same_mem _ _ _ fun e he => ?_
    rw [hlook.sets] at he
    have hleft : (s.settleOnce t).setLeft e.1 e.2 = true := by
      have := c.sets e he
      unfold State.setLeft at this ⊢
      simp only [hlook.thread]
      exact this
    rw [State.endSet, if_pos hleft]
  rw [State.run_idle c.streams, State.settle, hsets]
  exact honce

end Sys2Proof.Machine
end

section
/-! The instructions that only compute (O25): they write one register, or none, of their thread. -/

namespace Sys2Proof.Machine

/-! ### A thread that writes its registers -/

/-- No flag raised: nothing happens. -/
theorem State.setFlags_zero (s : State) (t e : Nat) (c : Option Nat) : s.setFlags t e 0 c = s := by
  unfold State.setFlags
  refine foldl_same _ _ (fun i => ?_) _
  simp [bitOf]

/-- From `s` to `u` thread `h` of tile `t` may have been given registers and a program counter, the tile's cache and rotation
may differ, and nothing else does. -/
structure State.Wrote (t h : Nat) (s u : State) : Prop where
  only : s.OnlyTiles u
  other : ∀ v, v ≠ t → u.tile v = s.tile v
  tile : ∃ a b c, u.tile t = { s.tile t with threads := a, icache := b, rotate := c }
  threads : ∀ k, k ≠ h → u.thread t k = s.thread t k
  lives : (s.thread t h).LivesOn (u.thread t h)

theorem State.Wrote.trans {t h : Nat} {a b c : State} (x : a.Wrote t h b) (y : b.Wrote t h c) : a.Wrote t h c := by
  obtain ⟨a1, a2, a3, ha⟩ := x.tile
  obtain ⟨b1, b2, b3, hb⟩ := y.tile
  exact ⟨x.only.trans y.only, fun v hv => (y.other v hv).trans (x.other v hv), ⟨b1, b2, b3, by rw [hb, ha]⟩,
    fun k hk => (y.threads k hk).trans (x.threads k hk), x.lives.trans y.lives⟩

theorem State.Wrote.refl (t h : Nat) (s : State) : s.Wrote t h s :=
  ⟨.refl s, fun _ _ => rfl, ⟨_, _, _, rfl⟩, fun _ _ => rfl, .refl _⟩

theorem State.atIssue_wrote (s : State) (t h unit : Nat) : s.Wrote t h (s.atIssue t h unit) := by
  obtain ⟨b, c, htile⟩ := s.tile_atIssue t h unit
  have hthread : ∀ k, (s.atIssue t h unit).thread t k = s.thread t k := fun k => by
    rw [State.thread, htile]
    rfl
  refine ⟨s.atIssue_onlyTiles t h unit, fun v hv => s.tile_atIssue_other h unit hv, ⟨_, b, c, htile⟩, fun k _ => hthread k, ?_⟩
  rw [hthread]
  exact .refl _

theorem State.modThread_wrote {s : State} {t h : Nat} {f : Thread → Thread} (hf : ∀ y : Thread, y.LivesOn (f y)) :
    s.Wrote t h (s.modThread t h f) := by
  refine ⟨s.modTile_onlyTiles _ _, fun v hv => s.tile_modTile_other _ hv, ⟨_, _, _, s.tile_modTile t _⟩,
    fun k hk => s.thread_modThread_other f (.inr hk), ?_⟩
  rw [State.thread_modThread]
  exact hf _

theorem State.Wrote.calm {t h : Nat} {s u : State} (hw : s.Wrote t h u) (c : s.Calm t) : u.Calm t := by
  obtain ⟨l, hl⟩ := hw.only
  obtain ⟨a, b, d, htile⟩ := hw.tile
  refine c.of_livesOn (by rw [hl]; rfl) (fun v k => ?_) (by rw [htile])
  by_cases hv : v = t
  · subst hv
    by_cases hk : k = h
    · subst hk
      exact hw.lives
    · rw [hw.threads k hk]
      exact .refl _
  · rw [State.thread, State.thread, hw.other v hv]
    exact .refl _

theorem Thread.advance_livesOn (y : Thread) : y.LivesOn y.advance := ⟨rfl, rfl, rfl⟩

/-! ### The frame -/

/-- What an instruction of thread `h` that only computes leaves as it was in a calm tile `t`. -/
def State.ComputeKept (s : State) (t h : Nat) (u : State) : Prop :=
  (∀ a, Memory.read u.mem a = Memory.read s.mem a) ∧ u.regs = s.regs ∧
    u.out = s.out ∧ u.xin = s.xin ∧ u.slots = s.slots ∧ u.ports = s.ports ∧ u.wb = s.wb ∧
    (∀ k, k ≠ t → u.tile k = s.tile k) ∧ (∀ k, k ≠ h → u.thread t k = s.thread t k) ∧
    (u.tile t).cc = (s.tile t).cc ∧ (u.tile t).outst = (s.tile t).outst ∧ (u.tile t).entries = (s.tile t).entries ∧
    (u.tile t).mmaQ = (s.tile t).mmaQ ∧ (u.tile t).mma = (s.tile t).mma ∧ (u.tile t).cq = (s.tile t).cq ∧
    (∀ k, ((u.tile t).acc k).data = ((s.tile t).acc k).data ∧ ((u.tile t).acc k).offset = ((s.tile t).acc k).offset ∧
      (((s.tile t).acc k).releasing = false → (u.tile t).acc k = (s.tile t).acc k)) ∧
    (∀ q, q.discard = false → (q ∈ (u.tile t).tq ↔ q ∈ (s.tile t).tq))

/-- What follows in a calm tile an instruction that wrote registers of its thread. -/
theorem State.Wrote.computeKept {t h : Nat} {s u : State} (hw : s.Wrote t h u) (c : s.Calm t) :
    s.ComputeKept t h (s.commit (u.run t)) := by
  have hcalm := hw.calm c
  have hlook := hcalm.looked
  obtain ⟨l, hl⟩ := hw.only.trans hcalm.run_onlyTiles
  obtain ⟨a, b, d, htile⟩ := hw.tile
  have hrun : (u.run t).tile t = Tile.unhold { s.tile t with threads := a, icache := b, rotate := d } := by
    rw [hlook.tile, htile]
  have hframe : (u.run t).mem = s.mem ∧ (u.run t).regs = s.regs ∧ (u.run t).out = s.out ∧ (u.run t).xin = s.xin ∧
      (u.run t).slots = s.slots ∧ (u.run t).ports = s.ports ∧ (u.run t).wb = s.wb := by simp [hl]
  obtain ⟨hmem, hregs, hout, hxin, hslots, hports, hwb⟩ := hframe
  unfold State.ComputeKept
  simp only [State.commit_mem, State.commit_regs, State.commit_out, State.commit_xin, State.commit_slots, State.commit_ports,
    State.commit_wb, State.tile_commit, State.thread_commit, hmem, hregs, hout, hxin, hslots, hports, hwb, hrun]
  refine ⟨fun _ => trivial, trivial, trivial, trivial, trivial, trivial, trivial, fun k hk => ?_, fun k hk => ?_, rfl,
    rfl, rfl, rfl, rfl, rfl, fun k => ?_, fun q hq => ?_⟩
  · rw [hlook.other k hk, hw.other k hk]
  · rw [hlook.thread, hw.threads k hk]
  · obtain ⟨hdata, hoffset, -⟩ := Tile.acc_unhold_contents { s.tile t with threads := a, icache := b, rotate := d } k
    exact ⟨hdata, hoffset, fun hheld => Tile.acc_unhold_held hheld⟩
  · rw [Tile.mem_tq_unhold]
    simp [hq]

section
variable {s : State} {t h : Nat} (r : s.Ready t h) (c : s.Calm t) {unit : Nat} {legal : Bool} {ss vs : List Nat}
  {body : State → Thread → Issue} (hl : legal = true) (hv : s.Valid t h ss vs)
include r c hl hv

/-- An instruction that leaves its program counter to go on. -/
theorem State.Ready.computes_of_wrote {u : State} (hown : ownRange t ((s.thread t h).pc + 8).toNat 8 = true)
    (hu : (s.atIssue t h unit).Wrote t h u) (hpc : (u.thread t h).pc = (s.thread t h).pc)
    (hb : body (s.atIssue t h unit) (s.thread t h) = .next u) :
    s.ComputeKept t h (s.commit (s.issue t h unit legal ss vs body)) := by
  have hadv : u.Wrote t h (u.modThread t h Thread.advance) := State.modThread_wrote Thread.advance_livesOn
  rw [r.issue_does hl hv, hb, Issue.next_done (by rwa [hpc]) (by rw [hpc]; exact r.aligned_next)]
  exact (((s.atIssue_wrote t h unit).trans hu).trans hadv).computeKept c

/-- An instruction that gives its thread `f` of its state and goes on. -/
theorem State.Ready.computes {f : Thread → Thread} (hown : ownRange t ((s.thread t h).pc + 8).toNat 8 = true)
    (hf : ∀ y : Thread, y.LivesOn (f y)) (hpc : ∀ y, (f y).pc = y.pc)
    (hb : body (s.atIssue t h unit) (s.thread t h) = .next ((s.atIssue t h unit).modThread t h f)) :
    s.ComputeKept t h (s.commit (s.issue t h unit legal ss vs body)) := by
  refine r.computes_of_wrote c hl hv hown (State.modThread_wrote hf) ?_ hb
  rw [State.thread_modThread, hpc, State.atIssue, State.thread_issued]

/-- An instruction that writes a vector register and raises no flag. -/
theorem State.Ready.computes_setV {d e fl : Nat} {v : VReg} (hown : ownRange t ((s.thread t h).pc + 8).toNat 8 = true)
    (hfl : fl = 0) (hb : body (s.atIssue t h unit) (s.thread t h) =
      .next (((s.atIssue t h unit).modThread t h fun y => y.setV d v).setFlags t e fl)) :
    s.ComputeKept t h (s.commit (s.issue t h unit legal ss vs body)) :=
  r.computes c hl hv hown (fun y => y.setV_livesOn d v) (fun _ => rfl) (by rw [hb, hfl, State.setFlags_zero])

/-- An instruction that writes nothing and goes on. -/
theorem State.Ready.computes_nothing (hown : ownRange t ((s.thread t h).pc + 8).toNat 8 = true)
    (hb : body (s.atIssue t h unit) (s.thread t h) = .next (s.atIssue t h unit)) :
    s.ComputeKept t h (s.commit (s.issue t h unit legal ss vs body)) :=
  r.computes_of_wrote c hl hv hown (.refl _ _ _) (by rw [State.atIssue, State.thread_issued]) hb

/-- An instruction that goes to `p` inside the tile. -/
theorem State.Ready.computes_jump {u : State} {p : Word} (hown : ownRange t p.toNat 8 = true) (hal : p.toNat % 8 = 0)
    (hu : (s.atIssue t h unit).Wrote t h u) (hb : body (s.atIssue t h unit) (s.thread t h) = .jump u p) :
    s.ComputeKept t h (s.commit (s.issue t h unit legal ss vs body)) := by
  have hjump : u.Wrote t h (u.modThread t h fun y => { y with pc := p, issued := y.issued + 1 }) :=
    State.modThread_wrote fun _ => ⟨rfl, rfl, rfl⟩
  rw [r.issue_does hl hv, hb, Issue.jump_done hown hal]
  exact (((s.atIssue_wrote t h unit).trans hu).trans hjump).computeKept c

end

theorem Thread.setS_pc (y : Thread) (d : Nat) (v : Word) : (y.setS d v).pc = y.pc := (Thread.setS_fields y d v).2.2.1
theorem Thread.setM_pc (y : Thread) (d : Nat) (v : MReg) : (y.setM d v).pc = y.pc := (Thread.setM_fields y d v).2.2.1

/-! ### The families of instructions -/

theorem intMod_of_type {m : Nat} (h : m < 16 ∧ m % 8 < 6) : intMod m = true := by
  simp only [intMod, Bool.and_eq_true, decide_eq_true_eq]
  omega

section
variable {s : State} {t : Fin 256} {h : Fin 16} {w : BitVec 56} (r : s.Ready t h) (c : s.Calm t)
  (hv : s.Valid t h [fD w.toNat, fA w.toNat, fB w.toNat, fC w.toNat] [fD w.toNat, fA w.toNat, fB w.toNat])
include r c hv

section
variable (hown : ownRange t ((s.thread t h).pc + 8).toNat 8 = true)
include hown

theorem State.scalarReg_keeps {used : Nat} {legal : Bool} (f : Word → Word → Word → Word)
    (hl : (onlyUses w.toNat used && legal) = true) : s.ComputeKept t h (s.commit (s.scalarReg t h w used legal f)) :=
  r.computes c hl (hv.mono (by simp) (by simp)) hown (fun y => y.setS_livesOn _ _) (fun y => y.setS_pc _ _) rfl

theorem State.scalarOp_keeps (f : Word → Word → Word) (hl : onlyUses w.toNat (useD ||| useA ||| useB) = true) :
    s.ComputeKept t h (s.commit (s.scalarOp t h w f)) :=
  State.scalarReg_keeps r c hv hown _ (by rw [hl]; rfl)

theorem State.scalarImm_keeps (f : Word → Word → Word) (hl : onlyUses w.toNat (useD ||| useA ||| useIMM38) = true) :
    s.ComputeKept t h (s.commit (s.scalarImm t h w f)) :=
  r.computes c hl (hv.mono (by simp) (by simp)) hown (fun y => y.setS_livesOn _ _) (fun y => y.setS_pc _ _) rfl

/-- Integer vector instructions raise no flag. -/
theorem State.vecInt_keeps (f : Nat → Nat → Nat → Nat) (hm : intMod (fMOD w.toNat) = true)
    (hl : onlyUses w.toNat (useD ||| useA ||| useB ||| useMask ||| useMOD) = true) :
    s.ComputeKept t h (s.commit (s.vecInt t h w f)) := by
  have hvs : [fD w.toNat, fA w.toNat] ++ (if (useD ||| useA ||| useB) &&& useB = 0 then [] else [fB w.toNat]) ++
      (if (useD ||| useA ||| useB) &&& useC = 0 then [] else [fC w.toNat]) = [fD w.toNat, fA w.toNat, fB w.toNat] := by
    rw [if_neg (by decide), if_pos (by decide)]
    rfl
  unfold State.vecInt State.vecOp
  dsimp only
  rw [hvs]
  refine r.computes_setV c (by rw [hl, hm]; rfl) (hv.mono (by simp) (by simp)) hown (foldl_same_mem _ 0 _ fun x hx => ?_) rfl
  obtain ⟨i, -, rfl⟩ := List.mem_map.mp hx
  split <;> exact Nat.zero_or _

theorem State.maskOp_keeps {m : Nat} {two : Bool} (f : MReg → MReg → MReg)
    (hl : onlyUses w.toNat (useD ||| useA ||| (if two then useB else 0) ||| useMOD) = true) (hm : fMOD w.toNat = m)
    (hD : fD w.toNat < 8) (hA : fA w.toNat < 8) (hB : fB w.toNat < 8) :
    s.ComputeKept t h (s.commit (s.maskOp t h w m two f)) :=
  r.computes c (by simp [hl, hm, hD, hA, hB]) (hv.mono (by simp) (by simp)) hown (fun y => y.setM_livesOn _ _)
    (fun y => y.setM_pc _ _) rfl

theorem State.branch_keeps (f : Word → Word → Bool) (hl : onlyUses w.toNat (useA ||| useB ||| useOFF33) = true)
    (htgt : ownRange t ((s.thread t h).pc + 8 * fOFF33 w.toNat).toNat 8 = true ∧
      ((s.thread t h).pc + 8 * fOFF33 w.toNat).toNat % 8 = 0) :
    s.ComputeKept t h (s.commit (s.branch t h w f)) := by
  have hvalid := hv.mono (ss' := [fA w.toNat, fB w.toNat]) (vs' := []) (by simp) (by simp)
  by_cases hf : f ((s.thread t h).getS (fA w.toNat)) ((s.thread t h).getS (fB w.toNat)) = true
  · exact r.computes_jump c hl hvalid htgt.1 htgt.2 (.refl _ _ _) (if_pos hf)
  · exact r.computes_nothing c hl hvalid hown (if_neg hf)

/-! ### Single instructions -/

theorem iMulh_keeps (hl : onlyUses w.toNat (useD ||| useA ||| useB ||| useMOD) = true) (hm : fMOD w.toNat ≤ 1) :
    Gives (.iMulh t h w) s (s.ComputeKept t h) :=
  gives_ok rfl (State.scalarReg_keeps r c hv hown _ (by simp [hl, hm]))

theorem iMinMax_keeps (hl : onlyUses w.toNat (useD ||| useA ||| useB ||| useMOD) = true) (hm : fMOD w.toNat ≤ 3) :
    Gives (.iMinMax t h w) s (s.ComputeKept t h) :=
  gives_ok rfl (State.scalarReg_keeps r c hv hown _ (by simp [hl, hm]))

theorem iLi_keeps (hl : onlyUses w.toNat (useD ||| useIMM43) = true) : Gives (.iLi t h w) s (s.ComputeKept t h) :=
  gives_ok rfl (r.computes c hl (hv.mono (by simp) (by simp)) hown (fun y => y.setS_livesOn _ _) (fun y => y.setS_pc _ _) rfl)

theorem iLih_keeps (hl : onlyUses w.toNat (useD ||| (2 ^ 21 - 1)) = true) : Gives (.iLih t h w) s (s.ComputeKept t h) :=
  gives_ok rfl (r.computes c hl (hv.mono (by simp) (by simp)) hown (fun y => y.setS_livesOn _ _) (fun y => y.setS_pc _ _) rfl)

theorem iNop_keeps (hn : w.toNat = 0) : Gives (.iNop t h w) s (s.ComputeKept t h) :=
  gives_ok rfl (r.computes_nothing c (by rw [hn]; rfl) (hv.mono (by simp) (by simp)) hown rfl)

theorem iClzCtzPopc_keeps (hl : onlyUses w.toNat (useD ||| useA ||| useMOD) = true) (hm : fMOD w.toNat ≤ 2) :
    Gives (.iClzCtzPopc t h w) s (s.ComputeKept t h) :=
  gives_ok rfl (r.computes c (by simp [hl, hm]) (hv.mono (by simp) (by simp)) hown (fun y => y.setS_livesOn _ _)
    (fun y => y.setS_pc _ _) rfl)

theorem iVsel_keeps (hm : intMod (fMOD w.toNat) = true)
    (hl : onlyUses w.toNat (useD ||| useA ||| useB ||| useMK ||| useMOD) = true) : Gives (.iVsel t h w) s (s.ComputeKept t h) :=
  gives_ok rfl (r.computes c (by simp [hl, hm]) (hv.mono (by simp) (by simp)) hown (fun y => y.setV_livesOn _ _)
    (fun _ => rfl) rfl)

theorem iVbcast_keeps (hm : intMod (fMOD w.toNat) = true)
    (hl : onlyUses w.toNat (useD ||| useA ||| useMask ||| useMOD) = true) : Gives (.iVbcast t h w) s (s.ComputeKept t h) :=
  gives_ok rfl (r.computes c (by simp [hl, hm]) (hv.mono (by simp) (by simp)) hown (fun y => y.setV_livesOn _ _)
    (fun _ => rfl) rfl)

theorem iVext_keeps (hm : intMod (fMOD w.toNat) = true)
    (hl : onlyUses w.toNat (useD ||| useA ||| useB ||| useMOD) = true) : Gives (.iVext t h w) s (s.ComputeKept t h) :=
  gives_ok rfl (r.computes c (by simp [hl, hm]) (hv.mono (by simp) (by simp)) hown (fun y => y.setS_livesOn _ _)
    (fun y => y.setS_pc _ _) rfl)

theorem iVcmp_keeps (hm : intMod (fMOD w.toNat) = true)
    (hl : onlyUses w.toNat (useD ||| useA ||| useB ||| useMask ||| useMOD ||| useEXT) = true) (hD : fD w.toNat < 8)
    (hE : fEXT w.toNat ≤ 3) : Gives (.iVcmp t h w) s (s.ComputeKept t h) :=
  gives_ok rfl (r.computes c (by simp [hl, hm, hD, hE]) (hv.mono (by simp) (by simp)) hown (fun y => y.setM_livesOn _ _)
    (fun y => y.setM_pc _ _) rfl)

theorem iMnot_keeps (hl : onlyUses w.toNat (useD ||| useA ||| useMOD) = true) (hm : fMOD w.toNat = 3) (hD : fD w.toNat < 8)
    (hA : fA w.toNat < 8) : Gives (.iMnot t h w) s (s.ComputeKept t h) := by
  have hB : fB w.toNat = 0 := bitsOf_eq_zero_of_onlyUses hl (by decide)
  exact gives_ok rfl (State.maskOp_keeps r c hv hown _ hl hm hD hA (by omega))

theorem iMpop_keeps (hl : onlyUses w.toNat (useD ||| useA ||| useMOD) = true) (hm : fMOD w.toNat = 4) (hA : fA w.toNat < 8) :
    Gives (.iMpop t h w) s (s.ComputeKept t h) :=
  gives_ok rfl (r.computes c (by simp [hl, hm, hA]) (hv.mono (by simp) (by simp)) hown (fun y => y.setS_livesOn _ _)
    (fun y => y.setS_pc _ _) rfl)

theorem iMins_keeps (hl : onlyUses w.toNat (useD ||| useA ||| useMOD ||| (3 <<< 16)) = true) (hm : fMOD w.toNat = 5)
    (hD : fD w.toNat < 8) : Gives (.iMins t h w) s (s.ComputeKept t h) :=
  gives_ok rfl (r.computes c (by rw [hl, hm]; simp [hD]) (hv.mono (by simp) (by simp)) hown (fun y => y.setM_livesOn _ _)
    (fun y => y.setM_pc _ _) rfl)

theorem iMext_keeps (hl : onlyUses w.toNat (useD ||| useA ||| useMOD ||| (3 <<< 16)) = true) (hm : fMOD w.toNat = 6)
    (hA : fA w.toNat < 8) : Gives (.iMext t h w) s (s.ComputeKept t h) :=
  gives_ok rfl (r.computes c (by rw [hl, hm]; simp [hA]) (hv.mono (by simp) (by simp)) hown (fun y => y.setS_livesOn _ _)
    (fun y => y.setS_pc _ _) rfl)

end

theorem iJal_keeps (hl : onlyUses w.toNat (useD ||| useOFF33) = true)
    (htgt : ownRange t ((s.thread t h).pc + 8 * fOFF33 w.toNat).toNat 8 = true ∧
      ((s.thread t h).pc + 8 * fOFF33 w.toNat).toNat % 8 = 0) : Gives (.iJal t h w) s (s.ComputeKept t h) :=
  gives_ok rfl (r.computes_jump c hl (hv.mono (by simp) (by simp)) htgt.1 htgt.2
    (State.modThread_wrote fun y => y.setS_livesOn _ _) rfl)

theorem iJr_keeps (hl : onlyUses w.toNat (useD ||| useA ||| useOFF33) = true)
    (htgt : ownRange t ((s.thread t h).getS (fA w.toNat) + 8 * fOFF33 w.toNat).toNat 8 = true ∧
      ((s.thread t h).getS (fA w.toNat) + 8 * fOFF33 w.toNat).toNat % 8 = 0) : Gives (.iJr t h w) s (s.ComputeKept t h) :=
  gives_ok rfl (r.computes_jump c hl (hv.mono (by simp) (by simp)) htgt.1 htgt.2
    (State.modThread_wrote fun y => y.setS_livesOn _ _) rfl)

end

theorem fOFF33_eq (n : Nat) : fOFF33 n =
    BitVec.ofInt 64 (if bitOf n 32 then (n % 2 ^ 33 : Int) - 2 ^ 33 else (n % 2 ^ 33 : Int)) :=
  congrArg (BitVec.ofInt 64) (signed_bitsOf 32 n)

/-- Settles O25: every instruction that only computes gives its thread one register, or none, and in a calm tile nothing but
the release of what ended threads held follows it. -/
theorem computeFrame : Obligations.ComputeFrame := by
  intro s t h w r c hv n y keeps off inside type hin
  obtain ⟨hown, -⟩ := hin
  have hoff : off = 8 * fOFF33 n := by rw [fOFF33_eq]
  have hint (hm : type) : intMod (fMOD n) = true := intMod_of_type hm
  refine ⟨fun hl => ?_, fun hl => ?_, fun hl => ⟨iMulh_keeps r c hv hown hl, iMinMax_keeps r c hv hown hl⟩, fun hl => ?_,
    iLi_keeps r c hv hown, iNop_keeps r c hv hown, iLih_keeps r c hv hown, iClzCtzPopc_keeps r c hv hown, fun hl htgt => ?_,
    fun hl htgt => ?_, fun hl htgt => ?_, fun hm hl => ?_, fun hm => iVsel_keeps r c hv hown (hint hm),
    fun hm => iVbcast_keeps r c hv hown (hint hm), fun hm => iVext_keeps r c hv hown (hint hm),
    fun hm => iVcmp_keeps r c hv hown (hint hm), fun hl hD hA hB => ?_,
    fun hl hA => ⟨fun hm hD => iMnot_keeps r c hv hown hl hm hD hA, fun hm => iMpop_keeps r c hv hown hl hm hA⟩,
    fun hl => ⟨iMins_keeps r c hv hown hl, iMext_keeps r c hv hown hl⟩⟩
  · have hop := fun f => State.scalarOp_keeps r c hv hown f hl
    exact ⟨gives_ok rfl (hop _), gives_ok rfl (hop _), gives_ok rfl (hop _), gives_ok rfl (hop _), gives_ok rfl (hop _),
      gives_ok rfl (hop _), gives_ok rfl (hop _), gives_ok rfl (hop _), gives_ok rfl (hop _), gives_ok rfl (hop _),
      gives_ok rfl (hop _), gives_ok rfl (hop _)⟩
  · exact gives_ok rfl (State.scalarReg_keeps r c hv hown _ (by rw [hl]; rfl))
  · have himm := fun f => State.scalarImm_keeps r c hv hown f hl
    exact ⟨gives_ok rfl (himm _), gives_ok rfl (himm _), gives_ok rfl (himm _), gives_ok rfl (himm _), gives_ok rfl (himm _),
      gives_ok rfl (himm _), gives_ok rfl (himm _), gives_ok rfl (himm _), gives_ok rfl (himm _), gives_ok rfl (himm _),
      gives_ok rfl (himm _)⟩
  · rw [hoff] at htgt
    have hbr := fun f => State.branch_keeps r c hv hown f hl htgt
    exact ⟨gives_ok rfl (hbr _), gives_ok rfl (hbr _), gives_ok rfl (hbr _), gives_ok rfl (hbr _), gives_ok rfl (hbr _),
      gives_ok rfl (hbr _)⟩
  · rw [hoff] at htgt
    exact iJal_keeps r c hv hl htgt
  · rw [hoff] at htgt
    exact iJr_keeps r c hv hl htgt
  · have hvec := fun f => State.vecInt_keeps r c hv hown f (hint hm) hl
    exact ⟨gives_ok rfl (hvec _), gives_ok rfl (hvec _), gives_ok rfl (hvec _), gives_ok rfl (hvec _), gives_ok rfl (hvec _),
      gives_ok rfl (hvec _), gives_ok rfl (hvec _), gives_ok rfl (hvec _), gives_ok rfl (hvec _), gives_ok rfl (hvec _)⟩
  · have hmask := fun m f hm => State.maskOp_keeps r c hv hown (m := m) (two := true) f hl hm hD hA hB
    exact ⟨fun hm => gives_ok rfl (hmask _ _ hm), fun hm => gives_ok rfl (hmask _ _ hm), fun hm => gives_ok rfl (hmask _ _ hm)⟩

end Sys2Proof.Machine
end

section
/-! THREAD_HALT and the debug window (O21, R170, R370). -/

namespace Sys2Proof.Machine

/-! ### THREAD_HALT -/

/-- A thread after the write of its bit `b` of THREAD_HALT. -/
def Thread.halted (y : Thread) (b : Bool) : Thread :=
  if b then
    if (y.st == .run || y.st == .wait) && !y.ending then { y with st := .halted, resume := y.st } else y
  else if y.st == .halted then { y with st := y.resume } else y

/-- The write of a mask, for thread `h`. -/
def Tile.haltThread (mask : Nat) (x : Tile) (h : Nat) : Tile :=
  if bitOf mask h then
    if ((x.thread h).st == .run || (x.thread h).st == .wait) && !(x.thread h).ending then
      x.setThread h { x.thread h with st := .halted, resume := (x.thread h).st }
    else x
  else if (x.thread h).st == .halted then x.setThread h { x.thread h with st := (x.thread h).resume } else x

theorem Tile.thread_haltThread_same (mask : Nat) (x : Tile) (h : Nat) :
    (x.haltThread mask h).thread h = (x.thread h).halted (bitOf mask h) := by
  unfold Tile.haltThread Thread.halted
  split <;> split <;> simp

theorem Tile.thread_haltThread_other (mask : Nat) (x : Tile) {h k : Nat} (hk : h ≠ k) :
    (x.haltThread mask h).thread k = x.thread k := by
  unfold Tile.haltThread
  split <;> split
  · exact Tile.thread_setThread_other _ _ hk
  · rfl
  · exact Tile.thread_setThread_other _ _ hk
  · rfl

/-- Before the tile is looked at, each thread has its bit. -/
theorem Tile.thread_haltThreads (mask : Nat) (x : Tile) {h : Nat} (hh : h < 16) :
    ((List.range 16).foldl (Tile.haltThread mask) x).thread h = (x.thread h).halted (bitOf mask h) :=
  foldl_at (P := fun _ => True) (g := fun x : Tile => x.thread h) (h := fun y => y.halted (bitOf mask h))
    (fun _ _ _ => trivial) (fun x _ _ hk => Tile.thread_haltThread_other mask x hk)
    (fun x _ => Tile.thread_haltThread_same mask x h) List.nodup_range (List.mem_range.mpr hh) x trivial

/-- What the tile is looked at with after the write. -/
def State.haltWritten (s : State) (t mask : Nat) : State :=
  (s.setFld (TILE_CTL t) TILE_CTL_THREAD_HALT mask).modTile t fun x => (List.range 16).foldl (Tile.haltThread mask) x

theorem State.thread_haltWritten (s : State) (t mask : Nat) {h : Nat} (hh : h < 16) :
    (s.haltWritten t mask).thread t h = (s.thread t h).halted (bitOf mask h) := by
  rw [State.thread, State.haltWritten, State.tile_modTile, Tile.thread_haltThreads mask _ hh]
  rfl

theorem State.applyHalt_settled (s : State) (t mask : Nat) : (s.haltWritten t mask).Settled t (s.applyHalt t mask) :=
  State.settle_settled _ t

/-- The register holds the mask. -/
theorem State.fld_applyHalt (s : State) (t mask : Nat) :
    (s.applyHalt t mask).fld (TILE_CTL t) TILE_CTL_THREAD_HALT = mask % 2 ^ 16 := by
  have hrd : (s.applyHalt t mask).rd (TILE_CTL t) = (s.setFld (TILE_CTL t) TILE_CTL_THREAD_HALT mask).rd (TILE_CTL t) := by
    rw [(s.applyHalt_settled t mask).rd _ (by simp [Reg.quiet, TILE_CTL]), State.haltWritten]
    exact State.rd_congr (by simp) _
  rw [State.fld, hrd, ← State.fld]
  exact s.fld_setFld_same _ _ _ (by decide)

/-- A thread that the write leaves out of WAIT keeps what the write gave it. -/
theorem State.thread_applyHalt {s : State} {t mask h : Nat} (hh : h < 16)
    (hst : ((s.thread t h).halted (bitOf mask h)).st ≠ .wait) (hend : (s.thread t h).ending = false) :
    (s.applyHalt t mask).thread t h = (s.thread t h).halted (bitOf mask h) := by
  have hthread := s.thread_haltWritten t mask hh
  have hends : ((s.thread t h).halted (bitOf mask h)).ending = false := by
    unfold Thread.halted
    split <;> split <;> exact hend
  rw [(s.applyHalt_settled t mask).thread (by rwa [hthread]) (by rwa [hthread]), hthread]

theorem execThreadHalt_sets {s : State} (hon : s.on = true) (t : Fin 256) (m : BitVec 16) :
    Gives (.threadHalt t m) s fun u =>
      u.fld (TILE_CTL t) TILE_CTL_THREAD_HALT = m.toNat ∧
      ∀ h, h < 16 → (s.thread t h).ending = false → ((s.thread t h).halted (m.getLsbD h)).st ≠ .wait →
        u.thread t h = (s.thread t h).halted (m.getLsbD h) := by
  refine gives_ok (t := s.applyHalt t m.toNat) (by simp [exec, execThreadHalt, State.powered_on hon]) ⟨?_, ?_⟩
  · rw [State.fld, State.rd_congr (State.commit_regs _ _), ← State.fld, s.fld_applyHalt]
    exact Nat.mod_eq_of_lt m.isLt
  · intro h hh hend hst
    have hbit : bitOf m.toNat h = m.getLsbD h := rfl
    rw [State.thread_commit, State.thread_applyHalt hh (by rwa [hbit]) hend, hbit]

/-! ### The debug window -/

/-- The block of tile `t` in the control region. -/
theorem regAt_tile {t off : Nat} (ht : t < 256) (hoff : off < 0x10000) :
    regAt (controlBase + 0x10000 * t + off) = some ⟨1, t, off⟩ := by
  have hfind : blockTable.find? (fun b => decide (b.2.2.1 ≤ controlBase + 0x10000 * t + off) &&
      decide (controlBase + 0x10000 * t + off < b.2.2.1 + b.2.1 * blockSpan b.1)) = some (1, 256, 0x101000000, 0x10000) := by
    refine List.find?_cons_of_pos ?_
    simp only [blockSpan, controlBase, Bool.and_eq_true]
    exact ⟨decide_eq_true (by omega), decide_eq_true (by omega)⟩
  unfold regAt
  rw [hfind]
  simp only [blockSpan, controlBase, Option.some.injEq, Reg.mk.injEq, true_and]
  omega

/-- A read of the debug window returns what R370 places there and changes nothing but the output. -/
theorem exec_debugWindowRead {s : State} {t : Fin 256} {off : BitVec 16} (hon : s.on = true) (hcross : s.crossed 2 = false)
    (hlo : 0x8000 ≤ off.toNat) (hal : off.toNat % 8 = 0) : exec (.debugWindowRead t off) s =
      .next (s.putOut (s.out ++ [.read (0x101000000 + 0x10000 * t + off.toNat) (s.debugWord t off.toNat)])) := by
  have hoff : off.toNat / 8 * 8 = off.toNat := by omega
  have hreg := regAt_tile t.isLt off.isLt
  have hmod : (controlBase + 0x10000 * t.val + off.toNat) % 8 = 0 := by
    simp only [controlBase]
    omega
  have hread : s.regRead (controlBase + 0x10000 * t + off.toNat) 0 = ((s.debugWord t off.toNat).map BitVec.toNat, s) := by
    have hcut : s.cutOff ⟨1, t, off.toNat⟩ = false := by simp [State.cutOff, crossingOf, coreBlocks, hcross]
    simp [State.regRead, hmod, hreg, hcut, isPoolOp, State.relayBad, isDebug, hlo]
  have hval : ((s.debugWord t off.toNat).map BitVec.toNat).map (BitVec.ofNat 64) = s.debugWord t off.toNat := by
    cases s.debugWord t off.toNat <;> simp
  simp only [exec, execDebugWindowRead, hoff, State.powered_on hon, if_neg (Nat.not_lt.mpr hlo), hread, hval]
  rfl

theorem State.readable_iff (s : State) (t h : Nat) :
    s.readable t h = true ↔ (s.thread t h).st = .halted ∨ (s.thread t h).st = .stopped := by
  simp [State.readable]

section
variable {s : State} {t off : Nat} (hkind : s.fld (TILE_DBG_SEL t) TILE_DBG_SEL_KIND = 0)
  (hi : s.fld (TILE_DBG_SEL t) TILE_DBG_SEL_INDEX < 16)
include hkind hi

theorem State.debugWord_scalar (hr : s.readable t (s.fld (TILE_DBG_SEL t) TILE_DBG_SEL_INDEX) = true) (hoff : off < 0x8100) :
    s.debugWord t off = some ((s.thread t (s.fld (TILE_DBG_SEL t) TILE_DBG_SEL_INDEX)).getS ((off - 0x8000) / 8)) := by
  simp [State.debugWord, hkind, hr, Nat.not_le.mpr hi, hoff, State.thread]

theorem State.debugWord_vector (hr : s.readable t (s.fld (TILE_DBG_SEL t) TILE_DBG_SEL_INDEX) = true) (hlo : 0x8200 ≤ off)
    (hhi : off < 0xA200) : s.debugWord t off = some (BitVec.ofNat 64
      (((s.thread t (s.fld (TILE_DBG_SEL t) TILE_DBG_SEL_INDEX)).getV ((off - 0x8200) / 256)).toNat /
        2 ^ (8 * ((off - 0x8200) % 256)))) := by
  have hword : ∀ n k, BitVec.ofNat 64 (bitsOf n k 64) = BitVec.ofNat 64 (n / 2 ^ k) := fun n k => by
    apply BitVec.eq_of_toNat_eq
    simp [bitsOf, Nat.shiftRight_eq_div_pow]
  simp [State.debugWord, hkind, hr, Nat.not_le.mpr hi, Nat.not_lt.mpr hlo, hhi, State.thread, hword, Nat.mul_comm 8,
    show ¬ off < 0x8100 by omega]

omit hi in
theorem State.debugWord_running (hr : s.readable t (s.fld (TILE_DBG_SEL t) TILE_DBG_SEL_INDEX) = false) :
    s.debugWord t off = none := by
  simp [State.debugWord, hkind, hr]

end

/-- Settles O21: the write of the mask gives each thread its bit, and looking at the tile afterwards changes no thread that
does not wait; a read of the window ends at the debug word. -/
theorem threadDebug : Obligations.ThreadDebug := by
  constructor
  · intro s t m hon
    refine (execThreadHalt_sets hon t m).mono fun u hu => ⟨hu.1, ?_⟩
    intro h hh hend y z
    have hz : (y.halted (m.getLsbD h)).st ≠ .wait → z = y.halted (m.getLsbD h) := hu.2 h hh hend
    have hend : y.ending = false := hend
    refine ⟨fun hm hst => ?_, fun hm hst => ?_, fun hm hst hres => ?_, fun hm hst => ?_, fun hst => ?_⟩
    · simp [Thread.halted, hm, hst, hend] at hz
      simp [hz]
    · simp [Thread.halted, hm, hst, hend] at hz
      simp [hz]
    · simp [Thread.halted, hm, hst, hres] at hz
      simp [hz]
    · simp [Thread.halted, hm, hst] at hz
      simp [hz, hst]
    · simp [Thread.halted, hst] at hz
      simp [hz, hst]
  · intro s t off hon hcross hlo hal hkind i y reads hi
    have hreads : reads (s.debugWord t off.toNat) := exec_debugWindowRead hon hcross hlo hal
    refine ⟨fun hst => ?_, fun hst => ?_⟩
    · have hr : s.readable t i = true := (s.readable_iff t i).mpr hst
      refine ⟨fun hhi => ?_, fun hlo' hhi => ?_⟩
      · rwa [State.debugWord_scalar hkind hi hr hhi] at hreads
      · rwa [State.debugWord_vector hkind hi hr hlo' hhi] at hreads
    · have hr : s.readable t i = false := by
        rw [← Bool.not_eq_true, State.readable_iff]
        have hst : (s.thread t i).st = .run := hst
        simp [hst]
      rwa [State.debugWord_running hkind hr] at hreads

end Sys2Proof.Machine
end

section
/-! Accumulator tiles and the tailwater queue (O17, R153-R156, R162, R163, R178). -/

namespace Sys2Proof.Machine

/-! ### The least of a list -/

theorem leastBy_mem {α : Type} {key : α → Nat} {l : List α} {b : α} (h : leastBy key l = some b) :
    b ∈ l ∧ ∀ a ∈ l, key b ≤ key a := by
  induction l generalizing b with
  | nil => simp [leastBy] at h
  | cons c l ih =>
    unfold leastBy at h
    split at h
    · rename_i hnone
      cases l with
      | nil =>
        cases h
        simp
      | cons d l =>
        unfold leastBy at hnone
        split at hnone
        · cases hnone
        · split at hnone <;> cases hnone
    · rename_i d hd
      obtain ⟨hmem, hle⟩ := ih hd
      split at h
      · cases h
        exact ⟨by simp [hmem], by simp; exact ⟨by omega, hle⟩⟩
      · cases h
        exact ⟨by simp, by simp; exact fun a ha => by have := hle a ha; omega⟩

theorem leastBy_ne_none {α : Type} (key : α → Nat) {l : List α} {a : α} (h : a ∈ l) : leastBy key l ≠ none := by
  cases l with
  | nil => cases h
  | cons c l =>
    unfold leastBy
    split
    · simp
    · split <;> simp

/-- The one element whose key no other has, and none is below. -/
theorem leastBy_eq_of_least {α : Type} {key : α → Nat} {l : List α} {a : α} (ha : a ∈ l) (hle : ∀ b ∈ l, key a ≤ key b)
    (hone : ∀ b ∈ l, key b = key a → b = a) : leastBy key l = some a := by
  obtain ⟨b, hb⟩ := Option.ne_none_iff_exists'.mp (leastBy_ne_none key ha)
  obtain ⟨hmem, hmin⟩ := leastBy_mem hb
  rw [hb, hone b hmem (Nat.le_antisymm (hmin a ha) (hle b hmem))]

theorem lowest_mem {n i : Nat} {p : Nat → Bool} (h : lowest n p = some i) : i < n ∧ p i = true :=
  ⟨List.mem_range.mp (List.mem_of_find?_eq_some h), List.find?_some h⟩

theorem lowest_ne_none {n i : Nat} {p : Nat → Bool} (hi : i < n) (hp : p i = true) : lowest n p ≠ none := fun h => by
  have := List.find?_eq_none.mp h i (List.mem_range.mpr hi)
  exact this hp

/-! ### What follows an instruction in a calm tile -/

theorem State.Settled.commit {t : Nat} {s v u : State} (h : s.Settled t u) : s.Settled t (v.commit u) :=
  ⟨by rw [State.tile_commit]; exact h.tile, fun k hk => by rw [State.tile_commit]; exact h.other k hk,
    fun q hq => (State.rd_congr (State.commit_regs _ _) q).trans (h.rd q hq), (State.commit_xin _ _).trans h.xin⟩

/-- An instruction that goes on leaves what running the streams of its tile leaves of its effect `u`. -/
theorem State.Ready.gives_next_run {s : State} {t h unit : Nat} {legal : Bool} {ss vs : List Nat}
    {body : State → Thread → Issue} {i : Instr} (r : s.Ready t h)
    (hi : exec i s = ok s (s.issue t h unit legal ss vs body)) (hl : legal = true) (hv : s.Valid t h ss vs)
    (hown : ownRange t ((s.thread t h).pc + 8).toNat 8 = true) {u : State}
    (hb : body (s.atIssue t h unit) (s.thread t h) = .next u) (hpc : (u.thread t h).pc = (s.thread t h).pc) :
    Gives i s (· = s.commit ((u.modThread t h Thread.advance).run t)) := by
  refine gives_ok hi ?_
  rw [r.issue_does hl hv, hb, Issue.next_done (by rwa [hpc]) (by rw [hpc]; exact r.aligned_next)]

/-- Without streams it leaves what settling its effect leaves. -/
theorem State.Ready.gives_next {s : State} {t h unit : Nat} {legal : Bool} {ss vs : List Nat} {body : State → Thread → Issue}
    {i : Instr} (r : s.Ready t h) (hi : exec i s = ok s (s.issue t h unit legal ss vs body)) (hl : legal = true)
    (hv : s.Valid t h ss vs) (hown : ownRange t ((s.thread t h).pc + 8).toNat 8 = true) {u : State}
    (hb : body (s.atIssue t h unit) (s.thread t h) = .next u) (hpc : (u.thread t h).pc = (s.thread t h).pc)
    (hstreams : (u.tile t).streams = []) : Gives i s ((u.modThread t h Thread.advance).Settled t) := by
  have hidle : ((u.modThread t h Thread.advance).tile t).streams = [] := by
    rw [State.modThread, State.tile_modTile]
    exact hstreams
  refine (r.gives_next_run hi hl hv hown hb hpc).mono fun z hz => ?_
  rw [hz, State.run_idle hidle]
  exact (State.settle_settled _ t).commit

/-- An instruction that waits leaves what settling its thread in WAIT leaves. -/
theorem State.Ready.gives_wait {s : State} {t h unit : Nat} {legal : Bool} {ss vs : List Nat} {body : State → Thread → Issue}
    {i : Instr} {wt : Wait} (r : s.Ready t h) (hi : exec i s = ok s (s.issue t h unit legal ss vs body)) (hl : legal = true)
    (hv : s.Valid t h ss vs) (hstreams : (s.tile t).streams = [])
    (hb : body (s.atIssue t h unit) (s.thread t h) = .wait wt) :
    Gives i s (((s.atIssue t h unit).modThread t h fun y => { y with st := .wait, wait := wt }).Settled t) := by
  obtain ⟨b, d, htile⟩ := s.tile_atIssue t h unit
  refine gives_ok hi ?_
  rw [r.issue_does hl hv, hb, Issue.done, State.run_idle]
  · exact (State.settle_settled _ t).commit
  · rw [State.modThread, State.tile_modTile, htile]
    exact hstreams

section
variable {s u z : State} {t h : Nat} (r : s.Ready t h) (c : s.Calm t)
include r c

/-- The thread whose instruction went on. -/
theorem State.Ready.thread_of_settled (hz : (u.modThread t h Thread.advance).Settled t z)
    (hu : (s.thread t h).LivesOn (u.thread t h)) : z.thread t h = (u.thread t h).advance := by
  have hst : (u.thread t h).st ≠ .wait := by simp [hu.st, r.run]
  have hend : (u.thread t h).ending = false := hu.ending.trans (c.ends h)
  rw [hz.thread (by rwa [State.thread_modThread]) (by rwa [State.thread_modThread]), State.thread_modThread]

/-- The same when it wrote no register. -/
theorem State.Ready.gotNone_of_settled (hz : (u.modThread t h Thread.advance).Settled t z)
    (hu : u.thread t h = s.thread t h) : s.GotNone z t h ((s.thread t h).pc + 8) := by
  unfold State.GotNone
  rw [r.thread_of_settled c hz (hu ▸ .refl _), hu]
  exact ⟨fun _ => rfl, fun _ => rfl, fun _ => rfl, rfl⟩

/-- The same when it gave vector register `d` the value `v`. -/
theorem State.Ready.gotV_of_settled {d : Nat} {v : VReg} (hz : (u.modThread t h Thread.advance).Settled t z)
    (hu : u.thread t h = (s.thread t h).setV d v) : s.GotV z t h d v := by
  unfold State.GotV
  rw [r.thread_of_settled c hz (hu ▸ Thread.setV_livesOn _ _ _), hu]
  refine ⟨?_, fun k hk => ?_, fun _ => rfl, fun _ => rfl, rfl⟩
  · exact ((s.thread t h).getV_setV d d v).trans (if_pos rfl)
  · exact ((s.thread t h).getV_setV d k v).trans (if_neg hk)

end

theorem State.tile_modThread (s : State) (t h : Nat) (f : Thread → Thread) :
    (s.modThread t h f).tile t = (s.tile t).setThread h (f (s.thread t h)) := s.tile_modTile t _

theorem State.atIssue_thread (s : State) (t h unit k : Nat) : (s.atIssue t h unit).thread t k = s.thread t k :=
  State.thread_issued s t h _ unit k

/-- The tailwater entries that the look at the tile leaves. -/
theorem State.Settled.mem_tq {t : Nat} {s u : State} (h : s.Settled t u) {q : TqEntry} :
    q ∈ (u.tile t).tq ↔ q ∈ (s.tile t).tq ∧ (q.discard = false ∨ q.reading = true) := by
  rw [h.tile.tq, Tile.mem_tq_unhold]

/-- An accumulator tile that nobody is giving up is as it was. -/
theorem State.Settled.acc {t : Nat} {s u : State} (h : s.Settled t u) {j : Nat}
    (hj : ((s.tile t).acc j).releasing = false) : (u.tile t).acc j = (s.tile t).acc j := by
  rw [h.tile.acc, Tile.acc_unhold_held hj]

/-! ### VPOP (R163) -/

/-- Entry `q` gives up its next row, and goes with its 64th. -/
def Tile.popRow (x : Tile) (q : TqEntry) : Tile :=
  if q.popped + 1 = 64 then { x with tq := x.tq.filter fun r => r.order != q.order }
  else { x with tq := x.tq.map fun r => if r.order == q.order then { r with popped := r.popped + 1 } else r }

theorem Tile.popRow_eq (x : Tile) (q : TqEntry) : x.popRow q = { x with tq := (x.popRow q).tq } := by
  unfold Tile.popRow
  split <;> rfl

theorem Tile.mem_popRow_last {x : Tile} {q r : TqEntry} (hq : q.popped + 1 = 64) :
    r ∈ (x.popRow q).tq ↔ r ∈ x.tq ∧ r.order ≠ q.order := by
  simp [Tile.popRow, hq]

theorem Tile.mem_popRow {x : Tile} {q : TqEntry} (hq : q.popped + 1 ≠ 64) (hmem : q ∈ x.tq) :
    { q with popped := q.popped + 1 } ∈ (x.popRow q).tq := by
  unfold Tile.popRow
  rw [if_neg hq]
  exact List.mem_map.mpr ⟨q, hmem, by simp⟩

/-- A row of 64 elements in a vector register. -/
theorem elemOf_packRow {row : List (BitVec 32)} (hrow : row.length = 64) {i : Nat} (hi : i < 64) :
    elemOf 32 (BitVec.ofNat 2048 (packElems 32 (row.map BitVec.toNat))) i = (row.getD i 0).toNat := by
  have hlt := (row[i]'(by omega)).isLt
  rw [elemOf_pack 32 _ i (by simp [hrow]) (by simpa [hrow] using hi), List.getElem_map, Nat.mod_eq_of_lt hlt]
  simp [List.getD, hrow, hi]

theorem State.GotV.elems {s u : State} {t h d b : Nat} {v : VReg} {f : Nat → Nat} (g : s.GotV u t h d v)
    (hf : ∀ i, i < 2048 / b → elemOf b v i = f i) : s.GotElems u t h d b f := by
  obtain ⟨hv, hvs, hs, hm, hpc⟩ := g
  exact ⟨fun i hi => by rw [hv, hf i hi], hvs, hs, hm, hpc⟩

/-- VPOP in a tile whose oldest entry of the thread is `q`. -/
theorem iVpop_pops {s : State} {t : Fin 256} {h : Fin 16} {w : BitVec 56} {q : TqEntry} {row : List (BitVec 32)}
    (r : s.Ready t h) (c : s.Calm t) (hv : s.Valid t h [] [fD w.toNat]) (hl : onlyUses w.toNat useD = true)
    (hown : ownRange t ((s.thread t h).pc + 8).toNat 8 = true)
    (hleast : leastBy TqEntry.order ((s.tile t).tq.filter fun q => q.thread == h.val && !q.discard) = some q)
    (hrow : q.rows[q.popped]? = some row) :
    Gives (.iVpop t h w) s fun u =>
      s.GotV u t h (fD w.toNat) (BitVec.ofNat 2048 (packElems 32 (row.map BitVec.toNat))) ∧
      ∀ r, r ∈ (u.tile t).tq ↔ r ∈ ((s.tile t).popRow q).tq ∧ (r.discard = false ∨ r.reading = true) := by
  obtain ⟨b, d, htile⟩ := s.tile_atIssue t h 2
  let v := BitVec.ofNat 2048 (packElems 32 (row.map BitVec.toNat))
  let x := (s.atIssue t h 2).modTile t fun x => x.popRow q
  have hx : x.tile t = { s.tile t with icache := b, rotate := d, tq := ((s.tile t).popRow q).tq } := by
    rw [State.tile_modTile, Tile.popRow_eq, htile]
    simp only [Tile.popRow]
    split <;> rfl
  have hthread : x.thread t h = s.thread t h := by rw [State.thread, hx]; rfl
  have hset : (x.modThread t h fun y => y.setV (fD w.toNat) v).thread t h = (s.thread t h).setV (fD w.toNat) v := by
    rw [State.thread_modThread, hthread]
  have holdest : leastBy TqEntry.order (((s.atIssue t h 2).tile t).tq.filter fun q => q.thread == h.val && !q.discard) =
      some q := by
    rw [htile]
    exact hleast
  refine (r.gives_next (u := x.modThread t h fun y => y.setV (fD w.toNat) v) rfl hl hv hown ?_ ?_ ?_).mono fun z hz =>
    ⟨r.gotV_of_settled c hz hset, fun p => ?_⟩
  · simp only [holdest, hrow]
    rfl
  · rw [hset]
    rfl
  · rw [State.tile_modThread, hx]
    exact c.streams
  · rw [hz.mem_tq, State.tile_modThread, State.tile_modThread, hx]
    rfl

/-- VPOP as O17 states it. -/
theorem iVpop_row {s : State} {t : Fin 256} {h : Fin 16} {w : BitVec 56} {q : TqEntry} {row : List (BitVec 32)}
    (r : s.Ready t h) (c : s.Calm t) (hv : s.Valid t h [] [fD w.toNat]) (hl : onlyUses w.toNat useD = true)
    (hown : ownRange t ((s.thread t h).pc + 8).toNat 8 = true) (hmem : q ∈ (s.tile t).tq) (hthread : q.thread = h.val)
    (hdiscard : q.discard = false)
    (hleast : ∀ r ∈ (s.tile t).tq, r.thread = h.val → r.discard = false → q.order ≤ r.order)
    (hone : ∀ r ∈ (s.tile t).tq, r.order = q.order → r = q) (hrow : q.rows[q.popped]? = some row) (hlen : row.length = 64) :
    Gives (.iVpop t h w) s fun u =>
      s.GotElems u t h (fD w.toNat) 32 (fun i => (row.getD i 0).toNat) ∧
      (q.popped + 1 = 64 → ∀ r ∈ (u.tile t).tq, r.order ≠ q.order) ∧
      (q.popped + 1 ≠ 64 → ∃ r ∈ (u.tile t).tq, r.order = q.order ∧ r.popped = q.popped + 1) := by
  have holdest : leastBy TqEntry.order ((s.tile t).tq.filter fun q => q.thread == h.val && !q.discard) = some q := by
    refine leastBy_eq_of_least (by simp [hmem, hthread, hdiscard]) (fun z hz => ?_) (fun z hz => ?_)
    · simp only [List.mem_filter, Bool.and_eq_true, beq_iff_eq, Bool.not_eq_true'] at hz
      exact hleast z hz.1 hz.2.1 hz.2.2
    · exact hone z (List.mem_filter.mp hz).1
  refine (iVpop_pops r c hv hl hown holdest hrow).mono fun u ⟨hgot, htq⟩ => ⟨?_, fun hq z hz => ?_, fun hq => ?_⟩
  · exact hgot.elems fun i hi => elemOf_packRow hlen (by omega)
  · exact ((Tile.mem_popRow_last hq).mp ((htq z).mp hz).1).2
  · exact ⟨_, (htq _).mpr ⟨Tile.mem_popRow hq hmem, .inl hdiscard⟩, rfl, rfl⟩

/-! ### DRAIN (R162) -/

theorem Tile.owns_iff (x : Tile) (h j : Nat) : x.owns h j = true ↔ (x.acc j).owner = some h ∧ (x.acc j).releasing = false := by
  simp [Tile.owns]

/-- DRAIN reserves an entry in a free place. -/
theorem iDrain_reserves {s : State} {t : Fin 256} {h : Fin 16} {w : BitVec 56} (r : s.Ready t h) (c : s.Calm t)
    (hl : onlyUses w.toNat (useD ||| useMOD) = true) (hm : fMOD w.toNat ≤ 1)
    (hacc : ((s.tile t).acc (fD w.toNat)).owner = some h.val) (hheld : ((s.tile t).acc (fD w.toNat)).releasing = false)
    (hroom : ∃ i < 8, ∀ r ∈ (s.tile t).tq, r.slot ≠ i) (hown : ownRange t ((s.thread t h).pc + 8).toNat 8 = true) :
    Gives (.iDrain t h w) s fun u => s.GotNone u t h ((s.thread t h).pc + 8) ∧
      ∃ q ∈ (u.tile t).tq, q.thread = h.val ∧ q.acc = fD w.toNat ∧ q.keep = decide (fMOD w.toNat = 1) ∧ q.reading = true ∧
        q.rows = [] ∧ q.popped = 0 ∧ q.discard = false ∧ q.slot < 8 ∧ ∀ r ∈ (s.tile t).tq, r.slot ≠ q.slot := by
  obtain ⟨k, hk, hfree⟩ := hroom
  obtain ⟨i, hi⟩ := Option.ne_none_iff_exists'.mp
    (lowest_ne_none (p := fun i => !((s.tile t).tq.any fun q => q.slot == i)) hk (by simpa using hfree))
  obtain ⟨hlt, hplace⟩ := lowest_mem hi
  obtain ⟨b, d, htile⟩ := s.tile_atIssue t h 3
  let y := (s.atIssue t h 3).tile t
  let q : TqEntry := ⟨i, h, y.tqOrder, fD w.toNat, fMOD w.toNat == 1, [], 0, true, false⟩
  let x : Tile := { y with tqOrder := y.tqOrder + 1, tq := y.tq ++ [q] }
  have hlegal : (onlyUses w.toNat (useD ||| useMOD) && decide (fMOD w.toNat ≤ 1)) = true := by rw [hl]; simp [hm]
  have hvalid : s.Valid t h [] [] := ⟨by simp, by simp⟩
  have howns : ((s.atIssue t h 3).tile t).owns h (fD w.toNat) = true := by
    rw [htile, Tile.owns_iff]
    exact ⟨hacc, hheld⟩
  have hlow : lowest 8 (fun i => !(((s.atIssue t h 3).tile t).tq.any fun q => q.slot == i)) = some i := by
    rw [htile]
    exact hi
  have hset : ((s.atIssue t h 3).setTile t x).thread t h = s.thread t h := by
    rw [State.thread, State.tile_setTile]
    exact s.atIssue_thread t h 3 h
  refine (r.gives_next (u := (s.atIssue t h 3).setTile t x) rfl hlegal hvalid hown ?_ ?_ ?_).mono fun z hz =>
    ⟨r.gotNone_of_settled c hz hset, q, ?_, rfl, rfl, Bool.beq_eq_decide_eq _ _, rfl, rfl, rfl, rfl, hlt, by simpa using hplace⟩
  · simp only [howns, hlow]
    rfl
  · rw [hset]
  · rw [State.tile_setTile]
    show ((s.atIssue t h 3).tile t).streams = []
    rw [htile]
    exact c.streams
  · rw [hz.mem_tq, State.tile_modThread, State.tile_setTile]
    exact ⟨by simp [x, Tile.setThread], .inl rfl⟩

/-! ### ACQ_BIND and REL_UNBIND (R153, R154) -/

theorem mem_indices {i j k : Nat} : k ∈ indices i j ↔ i ≤ k ∧ k ≤ j := by
  simp only [indices, List.mem_map, List.mem_range]
  constructor
  · rintro ⟨n, hn, rfl⟩
    omega
  · exact fun hk => ⟨k - i, by omega, by omega⟩

theorem nodup_indices (i j : Nat) : (indices i j).Nodup :=
  List.nodup_range.map fun a b hab => by
    have : a + i = b + i := hab
    omega

theorem Tile.acc_setAcc_other (x : Tile) {j k : Nat} (a : Acc) (h : j ≠ k) : (x.setAcc j a).acc k = x.acc k :=
  Table.get_set_other _ _ _ _ _ _ h

/-- Each index of the list is given `f` of its accumulator tile. -/
def Tile.mapAccs (x : Tile) (l : List Nat) (f : Acc → Acc) : Tile := l.foldl (fun x a => x.setAcc a (f (x.acc a))) x

theorem Tile.acc_mapAccs {x : Tile} {l : List Nat} (f : Acc → Acc) (hl : l.Nodup) {k : Nat} (hk : k ∈ l) :
    (x.mapAccs l f).acc k = f (x.acc k) :=
  foldl_at (P := fun _ => True) (g := fun x : Tile => x.acc k) (h := f) (f := fun (x : Tile) a => x.setAcc a (f (x.acc a)))
    (fun _ _ _ => trivial)
    (fun x _ _ hc => x.acc_setAcc_other _ hc) (fun x _ => x.acc_setAcc k _) hl hk x trivial

theorem Tile.thread_mapAccs (x : Tile) (l : List Nat) (f : Acc → Acc) (h : Nat) : (x.mapAccs l f).thread h = x.thread h :=
  foldl_keep (fun x : Tile => x.thread h) (fun x a => x.setAcc a (f (x.acc a))) (fun _ _ => rfl) l x

/-- Thread `h`, whose wait is over with its instruction complete, and the indices `i` to `j` given `f` of what they hold. -/
def State.accsGiven (s : State) (t h i j : Nat) (f : Acc → Acc) : State :=
  let x := (s.tile t).mapAccs (indices i j) f
  s.setTile t (x.setThread h (x.thread h).resumeRun.advance)

/-- Once the tile has been looked at, the thread goes on behind its instruction, and the indices are as given. -/
theorem State.accsGiven_settled {s u : State} {t h i j : Nat} {f : Acc → Acc} (hz : (s.accsGiven t h i j f).Settled t u)
    (hst : (s.thread t h).st = .wait) (hend : (s.thread t h).ending = false) (hf : ∀ a, (f a).releasing = false) :
    (u.thread t h).st = .run ∧ (u.thread t h).pc = (s.thread t h).pc + 8 ∧
      ∀ k, i ≤ k → k ≤ j → (u.tile t).acc k = f ((s.tile t).acc k) := by
  have hthread : (s.accsGiven t h i j f).thread t h = (s.thread t h).resumeRun.advance := by
    unfold State.accsGiven State.thread
    rw [State.tile_setTile, Tile.thread_setThread, Tile.thread_mapAccs]
  have hrun : (s.thread t h).resumeRun.advance = { s.thread t h with
      st := .run, wait := .none, pc := (s.thread t h).pc + 8, issued := (s.thread t h).issued + 1 } := by
    simp [Thread.resumeRun, hst, Thread.advance]
  have hkept : u.thread t h = (s.thread t h).resumeRun.advance := by
    rw [hz.thread (by rw [hthread, hrun]; simp) (by rw [hthread, hrun]; exact hend), hthread]
  refine ⟨by rw [hkept, hrun], by rw [hkept, hrun], fun k hi hj => ?_⟩
  have hacc : ((s.accsGiven t h i j f).tile t).acc k = f ((s.tile t).acc k) := by
    unfold State.accsGiven
    rw [State.tile_setTile]
    exact Tile.acc_mapAccs f (nodup_indices i j) (mem_indices.mpr ⟨hi, hj⟩)
  rw [hz.acc (by rw [hacc]; exact hf _), hacc]

section
variable {s : State} {t : Fin 256} {h : Fin 16} {i j : Nat} (hon : s.on = true) (hissue : s.issueStopped t = false)
  (hst : (s.thread t h).st = .wait) (hend : (s.thread t h).ending = false)
include hon hissue hst hend

theorem acqBind_binds (hwait : (s.thread t h).wait = .acq i j)
    (hfree : ∀ k, i ≤ k → k ≤ j → ((s.tile t).acc k).owner = none ∨ (((s.tile t).acc k).owner = some h.val ∧
      ((s.tile t).acc k).releasing = false ∧ (s.tile t).accBusy k = false)) :
    Gives (.acqBind t h) s fun u => (u.thread t h).st = .run ∧ (u.thread t h).pc = (s.thread t h).pc + 8 ∧
      ∀ k, i ≤ k → k ≤ j → (u.tile t).acc k = ⟨some h.val, 0, [], 0, false⟩ := by
  have hasks : (s.tile t).waitOf h = .acq i j := (Tile.waitOf_waiting hst).trans hwait
  have hall : ((indices i j).all fun a => ((s.tile t).acc a).owner == none ||
      ((s.tile t).owns h a && !(s.tile t).accBusy a)) = true := by
    refine List.all_eq_true.mpr fun k hk => ?_
    obtain ⟨hi, hj⟩ := mem_indices.mp hk
    rcases hfree k hi hj with hnone | ⟨howner, hheld, hbusy⟩
    · simp [hnone]
    · simp [Tile.owns, howner, hheld, hbusy]
  refine gives_ok (t := (s.accsGiven t h i j fun _ => ⟨some h.val, 0, [], 0, false⟩).settle t) ?_
    (State.accsGiven_settled (State.settle_settled _ _).commit hst hend fun _ => rfl)
  simp only [exec, execAcqBind, State.powered_on hon, hasks, hissue, hall]
  rfl

theorem relUnbind_unbinds (hwait : (s.thread t h).wait = .rel i j)
    (hidle : ∀ k, i ≤ k → k ≤ j → (s.tile t).accBusy k = false) :
    Gives (.relUnbind t h) s fun u => (u.thread t h).st = .run ∧ (u.thread t h).pc = (s.thread t h).pc + 8 ∧
      ∀ k, i ≤ k → k ≤ j → (u.tile t).acc k = { (s.tile t).acc k with owner := none, releasing := false } := by
  have hasks : (s.tile t).waitOf h = .rel i j := (Tile.waitOf_waiting hst).trans hwait
  have hall : ((indices i j).all fun a => !(s.tile t).accBusy a) = true := by
    refine List.all_eq_true.mpr fun k hk => ?_
    obtain ⟨hi, hj⟩ := mem_indices.mp hk
    simp [hidle k hi hj]
  refine gives_ok (t := (s.accsGiven t h i j fun a => { a with owner := none, releasing := false }).settle t) ?_
    (State.accsGiven_settled (State.settle_settled _ _).commit hst hend fun _ => rfl)
  simp only [exec, execRelUnbind, State.powered_on hon, hasks, hissue, hall]
  rfl

end

/-! ### DRAIN_READ (R162, R178) -/

/-- The codes of the 64 × 64 elements of an accumulator tile times 2^T, with their flags. -/
def Acc.drainCodes (a : Acc) : List (Nat × Nat) :=
  (List.range 4096).map fun n => fp32.encodeIEEE false none ((a.value n).scale a.offset)

/-- The rows of an entry. -/
def Acc.drainRows (a : Acc) : List (List (BitVec 32)) :=
  (List.range 64).map fun i => (a.drainCodes.drop (64 * i)).take 64 |>.map fun c => BitVec.ofNat 32 c.1

theorem Acc.drainRows_length (a : Acc) : a.drainRows.length = 64 := by simp [Acc.drainRows]

theorem Acc.drainRows_get (a : Acc) {i j : Nat} (hi : i < 64) (hj : j < 64) : (a.drainRows.getD i []).getD j 0 =
    BitVec.ofNat 32 (fp32.encodeIEEE false none ((a.value (64 * i + j)).scale a.offset)).1 := by
  have hlt : 64 * i + j < 4096 := by omega
  simp [Acc.drainRows, Acc.drainCodes, List.getD, hi, hj, hlt]

/-- The tile with entry `q` read. -/
def Tile.drained (x : Tile) (q : TqEntry) : Tile :=
  { x with
    tq := x.tq.map fun (r : TqEntry) =>
      if r.order == q.order then { r with rows := (x.acc q.acc).drainRows, reading := false } else r
    tqMem := Table.set natRank [] x.tqMem q.slot (x.acc q.acc).drainRows }.setAcc q.acc
      (if q.keep then x.acc q.acc else { x.acc q.acc with data := [], offset := 0 })

section
variable {s : State} {t : Fin 256} {q : TqEntry}

/-- DRAIN_READ reads the oldest entry that may be read. -/
theorem drainRead_reads (hon : s.on = true) (hmem : q ∈ (s.tile t).tq) (hreading : q.reading = true)
    (hturn : (s.tile t).mmaOn q.acc q.order = false)
    (hleast : ∀ r ∈ (s.tile t).tq, r.reading = true → (s.tile t).mmaOn r.acc r.order = false → r ≠ q → q.order < r.order) :
    Gives (.drainRead t) s fun u => ∃ v : State, v.Settled t u ∧ v.tile t = (s.tile t).drained q := by
  have holdest : leastBy TqEntry.order ((s.tile t).tq.filter fun q => q.reading && !(s.tile t).mmaOn q.acc q.order) =
      some q := by
    refine leastBy_eq_of_least (by simp [hmem, hreading, hturn]) (fun r hr => ?_) (fun r hr hkey => ?_)
    all_goals simp only [List.mem_filter, Bool.and_eq_true, Bool.not_eq_true'] at hr
    · by_cases hrq : r = q
      · rw [hrq]
      · exact (hleast r hr.1 hr.2.1 hr.2.2 hrq).le
    · by_contra hrq
      have := hleast r hr.1 hr.2.1 hr.2.2 hrq
      omega
  let v := (s.setTile t ((s.tile t).drained q)).setFlags t engineMU
    (((s.tile t).acc q.acc).drainCodes.foldl (fun f c => f ||| c.2) 0)
  refine gives_ok (t := v.settle t) ?_ ⟨v, (State.settle_settled _ _).commit, ?_⟩
  · simp only [exec, execDrainRead, State.powered_on hon, holdest]
    rfl
  · rw [State.tile, State.setFlags_tiles]
    exact s.tile_setTile t _

theorem Tile.mem_drained {x : Tile} {r : TqEntry} : r ∈ (x.drained q).tq ↔ ∃ p ∈ x.tq, r =
    if p.order = q.order then { p with rows := (x.acc q.acc).drainRows, reading := false } else p := by
  constructor
  · intro hr
    obtain ⟨p, hp, rfl⟩ := List.mem_map.mp hr
    exact ⟨p, hp, by simp⟩
  · rintro ⟨p, hp, rfl⟩
    exact List.mem_map.mpr ⟨p, hp, by simp⟩

/-- The accumulator tile is as it was with KEEP, else zero with T = 0. -/
theorem Tile.acc_drained (x : Tile) (q : TqEntry) :
    (x.drained q).acc q.acc = if q.keep then x.acc q.acc else { x.acc q.acc with data := [], offset := 0 } :=
  Tile.acc_setAcc _ _ _

theorem State.Settled.acc_contents {v u : State} {k : Nat} (h : v.Settled k u) (j : Nat) :
    ((u.tile k).acc j).data = ((v.tile k).acc j).data ∧ ((u.tile k).acc j).offset = ((v.tile k).acc j).offset ∧
      ((u.tile k).acc j).pending = ((v.tile k).acc j).pending := by
  rw [h.tile.acc]
  exact Tile.acc_unhold_contents _ j

/-- DRAIN_READ as O17 states it. -/
theorem drainRead_entry (hon : s.on = true) (hmem : q ∈ (s.tile t).tq) (hreading : q.reading = true)
    (hturn : (s.tile t).mmaOn q.acc q.order = false)
    (hleast : ∀ r ∈ (s.tile t).tq, r.reading = true → (s.tile t).mmaOn r.acc r.order = false → r ≠ q → q.order < r.order)
    (hone : ∀ r ∈ (s.tile t).tq, r.order = q.order → r = q) :
    let a := (s.tile t).acc q.acc
    Gives (.drainRead t) s fun u => (q.discard = true → ∀ r ∈ (u.tile t).tq, r.order ≠ q.order) ∧
      (q.discard = false → ∃ r ∈ (u.tile t).tq, r.order = q.order ∧ r.reading = false ∧ r.popped = q.popped ∧
        r.rows.length = 64 ∧ ∀ i < 64, ∀ j < 64, (r.rows.getD i []).getD j 0 =
          BitVec.ofNat 32 (fp32.encodeIEEE false none ((a.value (64 * i + j)).scale a.offset)).1) ∧
      (q.keep = true → ((u.tile t).acc q.acc).data = a.data ∧ ((u.tile t).acc q.acc).offset = a.offset) ∧
      (q.keep = false → ((u.tile t).acc q.acc).data = [] ∧ ((u.tile t).acc q.acc).offset = 0) := by
  intro a
  refine (drainRead_reads hon hmem hreading hturn hleast).mono fun u ⟨v, hv, htile⟩ => ?_
  obtain ⟨hdata, hoffset, -⟩ := hv.acc_contents q.acc
  rw [htile, Tile.acc_drained] at hdata hoffset
  refine ⟨fun hdiscard r hr horder => ?_, fun hdiscard => ?_, fun hkeep => ?_, fun hkeep => ?_⟩
  · obtain ⟨hin, hstays⟩ := hv.mem_tq.mp hr
    rw [htile, Tile.mem_drained] at hin
    obtain ⟨p, hp, rfl⟩ := hin
    split at hstays
    · rename_i hpq
      rw [hone p hp hpq] at hstays
      simp [hdiscard] at hstays
    · rename_i hpq
      rw [if_neg hpq] at horder
      exact hpq horder
  · refine ⟨{ q with rows := a.drainRows, reading := false }, ?_, rfl, rfl, rfl, a.drainRows_length,
      fun i hi j hj => a.drainRows_get hi hj⟩
    rw [hv.mem_tq, htile, Tile.mem_drained]
    exact ⟨⟨q, hmem, by simp [a]⟩, .inl hdiscard⟩
  · rw [hdata, hoffset, if_pos hkeep]
    exact ⟨rfl, rfl⟩
  · rw [hdata, hoffset, if_neg (by simp [hkeep])]
    exact ⟨rfl, rfl⟩

end

/-- Settles O17: each command changes its tile as its lemma says, and looking at the tile afterwards takes away only what
threads that have ended give up. -/
theorem tailwaterAndAccumulators : Obligations.TailwaterAndAccumulators := by
  refine ⟨fun s t h w q row r c hv hl hown hmem hthread hdiscard hleast hone hrow hlen => ?_, ?_, ?_⟩
  · exact iVpop_row r c hv hl hown hmem hthread hdiscard hleast hone hrow hlen
  · intro s t h w r c n y x hl hm hacc hheld hroom hown
    exact iDrain_reserves r c hl hm hacc hheld hroom hown
  · intro s t h hon x y
    refine ⟨?_, ?_, ?_⟩
    · intro i j hissue hst hend hwait _ _ hfree
      exact acqBind_binds hon hissue hst hend hwait hfree
    · intro i j hissue hst hend hwait _ _ hidle
      exact relUnbind_unbinds hon hissue hst hend hwait hidle
    · intro q hmem hreading hturn hleast hone
      exact drainRead_entry hon hmem hreading hturn hleast hone

end Sys2Proof.Machine
end

section
/-! Passes of the matrix unit (O18, R149, R150, R158-R160). -/

namespace Sys2Proof.Machine

/-! ### Contents of an accumulator tile -/

/-- The entry that a tile's contents have for code `e.1` at place `e.2`. -/
def accEntry (e : Nat × Nat) : Option (Nat × BitVec 32) :=
  if e.1 % 2 ^ 32 = 0 then none else some (e.2, BitVec.ofNat 32 e.1)

theorem accData_eq (l : List Nat) : accData l = (l.zipIdx 0).filterMap accEntry := rfl

theorem Table.get_accEntries (l : List Nat) (k i : Nat) : Table.get 0 ((l.zipIdx k).filterMap accEntry) i =
    if k ≤ i then BitVec.ofNat 32 (l.getD (i - k) 0) else 0 := by
  induction l generalizing k with
  | nil => simp [Table.get]
  | cons v l ih =>
    have hrest := ih (k + 1)
    have hhead : Table.get 0 (((v :: l).zipIdx k).filterMap accEntry) i =
        if k = i then BitVec.ofNat 32 v else Table.get 0 ((l.zipIdx (k + 1)).filterMap accEntry) i := by
      rw [List.zipIdx_cons]
      by_cases hv : v % 2 ^ 32 = 0
      · have hnone : accEntry (v, k) = none := if_pos hv
        rw [List.filterMap_cons_none hnone]
        have hzero : BitVec.ofNat 32 v = 0 := BitVec.eq_of_toNat_eq (by simpa using hv)
        by_cases hki : k = i
        · rw [if_pos hki, hzero, hrest, if_neg (by omega)]
        · rw [if_neg hki]
      · have hsome : accEntry (v, k) = some (k, BitVec.ofNat 32 v) := if_neg hv
        rw [List.filterMap_cons_some hsome]
        rfl
    rw [hhead, hrest]
    rcases Nat.lt_trichotomy i k with hlt | rfl | hlt
    · rw [if_neg (by omega), if_neg (by omega), if_neg (by omega)]
    · simp
    · rw [if_neg (by omega), if_pos (by omega), if_pos (by omega), show i - k = i - (k + 1) + 1 by omega, List.getD_cons_succ]

theorem Table.get_accData (l : List Nat) (i : Nat) : Table.get 0 (accData l) i = BitVec.ofNat 32 (l.getD i 0) := by
  rw [accData_eq, Table.get_accEntries, if_pos (Nat.zero_le i), Nat.sub_zero]

theorem Table.get_accData_range (f : Nat → Nat) {i : Nat} (hi : i < 4096) :
    Table.get 0 (accData ((List.range 4096).map f)) i = BitVec.ofNat 32 (f i) := by
  rw [Table.get_accData]
  simp [List.getD, hi]

/-! ### Registers and tiles through the steps of a pass -/

theorem State.tile_setFlags (s : State) (t e f v : Nat) (c : Option Nat) : (s.setFlags t e f c).tile v = s.tile v := by
  rw [State.tile, State.setFlags_tiles, State.tile]

theorem State.rd_setFlags (s : State) {r : Reg} (t e f : Nat) (c : Option Nat) (hr : r.quiet) (hne : TILE_FP_FLAGS t ≠ r) :
    (s.setFlags t e f c).rd r = s.rd r := by
  refine foldl_keep (fun a : State => a.rd r) _ (fun a i => ?_) _ s
  dsimp only
  split
  · split
    · exact ((State.notice_only _ _ _ _ _ _ _).rd r hr).trans (State.rd_wr_other _ _ hne)
    · exact State.rd_wr_other _ _ hne
  · rfl

theorem State.rd_modTile (s : State) (t : Nat) (f : Tile → Tile) (r : Reg) : (s.modTile t f).rd r = s.rd r :=
  State.rd_congr (by simp) r

/-! ### MMA (R149, R150) -/

/-- The pass that MMA queues. -/
def MmaOp.queued (x : Tile) (y : Thread) (h n : Nat) : MmaOp :=
  ⟨x.tqOrder, h, fD n, fMOD n, (y.getS (fA n)).toNat, (y.getS (fA n + 1)).toNat, (y.getS (fB n)).toNat,
    (y.getS (fB n + 1)).toNat, (y.getS (fC n)).toNat, 0, y.pc.toNat, 0⟩

/-- The operands of a pass pass the checks of R201. -/
structure MmaFits (t fmt a sa b sb k : Nat) : Prop where
  nonzero : k ≠ 0
  whole : k % (8 * groupSize fmt) = 0
  most : k ≤ 16384
  alignA : a % 64 = 0
  alignB : b % 64 = 0
  ownA : ownRange t a (64 * rowBytes fmt k) = true
  ownB : ownRange t b (64 * rowBytes fmt k) = true
  scales : fmtScaled fmt = true → sa % 64 = 0 ∧ sb % 64 = 0 ∧ ownRange t sa (64 * scaleBytes fmt k) = true ∧
    ownRange t sb (64 * scaleBytes fmt k) = true

theorem MmaFits.noFault {t fmt a sa b sb k : Nat} (m : MmaFits t fmt a sa b sb k) : firstFault
    [(k == 0 || k % (8 * groupSize fmt) != 0 || decide (16384 < k), 0x07),
     (a % 64 != 0 || b % 64 != 0 || (fmtScaled fmt && (sa % 64 != 0 || sb % 64 != 0)), 0x03),
     (!ownRange t a (64 * rowBytes fmt k) || !ownRange t b (64 * rowBytes fmt k) ||
        (fmtScaled fmt && (!ownRange t sa (64 * scaleBytes fmt k) || !ownRange t sb (64 * scaleBytes fmt k))), 0x04)] =
      none := by
  have hk : (k == 0 || k % (8 * groupSize fmt) != 0 || decide (16384 < k)) = false := by
    simp [m.nonzero, m.whole, m.most]
  have hscales : (fmtScaled fmt && (sa % 64 != 0 || sb % 64 != 0)) = false ∧
      (fmtScaled fmt && (!ownRange t sa (64 * scaleBytes fmt k) || !ownRange t sb (64 * scaleBytes fmt k))) = false := by
    cases hf : fmtScaled fmt
    · exact ⟨rfl, rfl⟩
    · obtain ⟨hsa, hsb, howna, hownb⟩ := m.scales hf
      simp [hsa, hsb, howna, hownb]
  rw [hk, hscales.1, hscales.2, m.ownA, m.ownB, m.alignA, m.alignB]
  rfl

section
variable {s : State} {t : Fin 256} {h : Fin 16} {w : BitVec 56} (r : s.Ready t h) (c : s.Calm t)
  (hv : s.Valid t h [fA w.toNat, fA w.toNat + 1, fB w.toNat, fB w.toNat + 1, fC w.toNat] [])
  (hl : (onlyUses w.toNat (useD ||| useA ||| useB ||| useC ||| useMOD) && fmtMu (fMOD w.toNat) && fA w.toNat % 2 == 0 &&
    fB w.toNat % 2 == 0) = true)
  (howns : (s.tile t).owns h (fD w.toNat) = true)
  (hfits : MmaFits t (fMOD w.toNat) ((s.thread t h).getS (fA w.toNat)).toNat ((s.thread t h).getS (fA w.toNat + 1)).toNat
    ((s.thread t h).getS (fB w.toNat)).toNat ((s.thread t h).getS (fB w.toNat + 1)).toNat
    ((s.thread t h).getS (fC w.toNat)).toNat)
include r c hv hl howns hfits

theorem iMma_queues (hown : ownRange t ((s.thread t h).pc + 8).toNat 8 = true) (hroom : (s.tile t).mmaQ.length < 4) :
    Gives (.iMma t h w) s fun u => s.GotNone u t h ((s.thread t h).pc + 8) ∧
      (u.tile t).mmaQ = (s.tile t).mmaQ ++ [MmaOp.queued (s.tile t) (s.thread t h) h w.toNat] := by
  obtain ⟨b, d, htile⟩ := s.tile_atIssue t h 3
  let u := (s.atIssue t h 3).modTile t fun x =>
    { x with tqOrder := x.tqOrder + 1, mmaQ := x.mmaQ ++ [MmaOp.queued x (s.thread t h) h w.toNat] }
  have hset : u.thread t h = s.thread t h := by
    rw [State.thread, State.tile_modTile]
    exact s.atIssue_thread t h 3 h
  have hissued : ((s.atIssue t h 3).tile t).owns h (fD w.toNat) = true ∧ ((s.atIssue t h 3).tile t).mmaQ = (s.tile t).mmaQ := by
    rw [htile]
    exact ⟨howns, rfl⟩
  refine (r.gives_next (u := u) rfl hl hv hown ?_ (by rw [hset]) ?_).mono fun z hz => ⟨r.gotNone_of_settled c hz hset, ?_⟩
  · simp only [hissued, hfits.noFault, if_neg (Nat.not_le.mpr hroom)]
    rfl
  · rw [State.tile_modTile, htile]
    exact c.streams
  · rw [hz.tile.mmaQ, State.tile_modThread, State.tile_modTile, htile]
    rfl

theorem iMma_waits (hfull : 4 ≤ (s.tile t).mmaQ.length) :
    Gives (.iMma t h w) s fun u => (u.thread t h).st = .wait ∧ (u.thread t h).wait = .mmaQueue ∧
      (u.thread t h).pc = (s.thread t h).pc := by
  obtain ⟨b, d, htile⟩ := s.tile_atIssue t h 3
  have hissued : ((s.atIssue t h 3).tile t).owns h (fD w.toNat) = true ∧ ((s.atIssue t h 3).tile t).mmaQ = (s.tile t).mmaQ := by
    rw [htile]
    exact ⟨howns, rfl⟩
  let y : Thread := { s.thread t h with st := .wait, wait := .mmaQueue }
  refine (r.gives_wait (wt := .mmaQueue) rfl hl hv c.streams ?_).mono fun z hz => ?_
  · simp only [hissued, hfits.noFault, if_pos hfull]
    rfl
  · have htile' := hz.tile
    rw [State.tile_modThread, s.atIssue_thread] at htile'
    have hthread : (((s.atIssue t h 3).tile t).setThread h y).unhold.thread h = y :=
      Tile.thread_setThread ((s.atIssue t h 3).tile t) h y
    have hwaits : (((s.atIssue t h 3).tile t).setThread h y).unhold.waitOf h = .mmaQueue := by
      rw [Tile.waitOf_waiting (by rw [hthread]), hthread]
    have hqueue : (((s.atIssue t h 3).tile t).setThread h y).unhold.mmaQ = (s.tile t).mmaQ := hissued.2
    have hstays : (((s.atIssue t h 3).tile t).setThread h y).unhold.Stays h := by
      refine ⟨by rw [hthread]; exact c.ends h, ?_, by simp [hwaits], by simp [hwaits]⟩
      simp [Tile.waitOver, hwaits, hqueue, hfull]
    have hkept : z.thread t h = y := (htile'.thread h hstays).trans hthread
    rw [hkept]
    exact ⟨rfl, rfl, rfl⟩

end

/-! ### Start, abort and completion (R150, R155, R158-R160) -/

/-- The codes of an accumulator tile times 2^`d`, with their flags. -/
def Acc.scaledCodes (a : Acc) (d : Int) : List (Nat × Nat) :=
  (List.range 4096).map fun n => fp32.encodeIEEE false none ((a.value n).scale d)

/-- The tile with contents times 2^`d` and offset `t` (R158, R159). -/
def Acc.rescaled (a : Acc) (d t : Int) : Acc := { a with data := accData ((a.scaledCodes d).map Prod.fst), offset := t }

theorem Acc.scaledCodes_fst (a : Acc) (d : Int) :
    ((List.range 4096).map fun n => (fp32.encodeIEEE false none ((a.value n).scale d)).1) = (a.scaledCodes d).map Prod.fst := by
  rw [Acc.scaledCodes, List.map_map]
  rfl

theorem Acc.get_rescaled (a : Acc) (d t : Int) {i : Nat} (hi : i < 4096) : Table.get 0 (a.rescaled d t).data i =
    BitVec.ofNat 32 (fp32.encodeIEEE false none ((a.value i).scale d)).1 := by
  have hdata : (a.rescaled d t).data = accData ((a.scaledCodes d).map Prod.fst) := by rw [Acc.rescaled]
  rw [hdata, ← Acc.scaledCodes_fst]
  exact Table.get_accData_range (fun n => (fp32.encodeIEEE false none ((a.value n).scale d)).1) hi

/-- The running pass is `o`, and its accumulator tile `a`. -/
def Tile.rerun (x : Tile) (o : MmaOp) (a : Acc) : Tile := { x.setAcc o.acc a with mma := some o }

theorem Tile.acc_rerun (x : Tile) (o : MmaOp) (a : Acc) : (x.rerun o a).acc o.acc = a := x.acc_setAcc o.acc a

/-- The choice of an aborted run is drawn, and the abort counted (R158, R159). -/
def State.recounted (s : State) (t : Nat) : State := (s.putFreeCtr (s.freeCtr + 1)).count (TILE_MU_RECOMP t)

theorem State.tile_recounted (s : State) (t v : Nat) : (s.recounted t).tile v = s.tile v := rfl

theorem State.rd_recounted (s : State) (t : Nat) : (s.recounted t).rd (TILE_MU_RECOMP t) = s.rd (TILE_MU_RECOMP t) + 1 :=
  State.rd_count_same _ _

theorem State.rd_setFlags_recomp (s : State) (t e f : Nat) (c : Option Nat) :
    (s.setFlags t e f c).rd (TILE_MU_RECOMP t) = s.rd (TILE_MU_RECOMP t) :=
  s.rd_setFlags t e f c (by simp [Reg.quiet, TILE_MU_RECOMP]) (by simp [TILE_FP_FLAGS, TILE_MU_RECOMP])

theorem State.tile_count (s : State) (r : Reg) (n v : Nat) : (s.count r n).tile v = s.tile v := rfl

/-- A run in which `k` steps saturated is counted and told (R160). -/
def State.saturated (s : State) (t : Nat) (o : MmaOp) (k : Nat) : State :=
  if k = 0 then s else (s.count (TILE_MU_SAT t)).notice 2 0x000A (sourceOf 1 t) o.thread o.acc (some (s.tile t).ctx)

theorem State.tile_saturated (s : State) (t v k : Nat) (o : MmaOp) : (s.saturated t o k).tile v = s.tile v := by
  unfold State.saturated
  split
  · rfl
  · rw [State.tile, State.notice_tiles]
    rfl

theorem State.rd_saturated (s : State) (t k : Nat) (o : MmaOp) :
    (s.saturated t o k).rd (TILE_MU_SAT t) = s.rd (TILE_MU_SAT t) + (if k = 0 then 0 else 1) := by
  unfold State.saturated
  split
  · simp
  · rw [(State.notice_only _ _ _ _ _ _ _).rd _ (by simp [Reg.quiet, TILE_MU_SAT]), State.rd_count_same]

section
variable {s : State} {t : Fin 256} {o : MmaOp} (hon : s.on = true)
include hon

theorem mmaStart_starts {q : List MmaOp} (hidle : (s.tile t).mma = none) (hqueue : (s.tile t).mmaQ = o :: q)
    (hdrained : ∀ q ∈ (s.tile t).tq, ¬ (q.acc = o.acc ∧ q.reading = true ∧ q.order < o.seq)) :
    Gives (.mmaStart t) s fun u => (u.tile t).mma = some { o with run := 1, began := s.cycle } ∧ (u.tile t).mmaQ = q ∧
      ((u.tile t).acc o.acc).pending = passWaves o.fmt o.k := by
  have hany : ((s.tile t).tq.any fun q => q.acc == o.acc && q.reading && decide (q.order < o.seq)) = false := by
    simpa [and_assoc] using hdrained
  let x : Tile := { s.tile t with mma := some { o with run := 1, began := s.cycle }, mmaQ := q }
  let v := s.setTile t (x.setAcc o.acc { (s.tile t).acc o.acc with pending := passWaves o.fmt o.k })
  have hz : v.Settled t (s.commit (v.settle t)) := (State.settle_settled v t).commit
  have hv : v.tile t = x.setAcc o.acc { (s.tile t).acc o.acc with pending := passWaves o.fmt o.k } := s.tile_setTile t _
  refine gives_ok (t := v.settle t) ?_ ⟨?_, ?_, ?_⟩
  · simp only [exec, execMmaStart, State.powered_on hon, hidle, hqueue, hany]
    rfl
  · rw [hz.tile.mma, hv]
    rfl
  · rw [hz.tile.mmaQ, hv]
    rfl
  · rw [(hz.acc_contents o.acc).2.2, hv, Tile.acc_setAcc]

variable (hmma : (s.tile t).mma = some o) (hgood : s.operandsBad o = false)
include hmma hgood

/-- An abort with a pass too low: contents times 2^D, T down by D (R159). -/
theorem mmaAbort_low {d : Int} {m : Nat}
    (hrun : (s.operands o).run ((s.tile t).acc o.acc) o.run (Config.freeWord s.freeCtr).toNat = .low d m) :
    Gives (.mmaAbort t) s fun u => ((u.tile t).acc o.acc).offset = ((s.tile t).acc o.acc).offset - d ∧
      (u.tile t).mma = some { o with run := o.run + 1, began := s.cycle } ∧
      u.rd (TILE_MU_RECOMP t) = s.rd (TILE_MU_RECOMP t) + 1 ∧
      ∀ i < 4096, Table.get 0 ((u.tile t).acc o.acc).data i =
        BitVec.ofNat 32 (fp32.encodeIEEE false none ((((s.tile t).acc o.acc).value i).scale d)).1 := by
  let a := ((s.tile t).acc o.acc).rescaled d (((s.tile t).acc o.acc).offset - d)
  let p : MmaOp := { o with run := o.run + 1, began := s.cycle }
  let v := ((s.recounted t).modTile t fun x => x.rerun p a).setFlags t engineMU
    ((s.operands o).flagsOf ((s.tile t).acc o.acc) m)
  have hv : v.tile t = (s.tile t).rerun p a := by rw [State.tile_setFlags, State.tile_modTile, s.tile_recounted]
  have hrd : v.rd (TILE_MU_RECOMP t) = s.rd (TILE_MU_RECOMP t) + 1 := by
    rw [State.rd_setFlags_recomp, State.rd_modTile, s.rd_recounted]
  refine gives_ok (t := v) ?_ ?_
  · simp only [exec, execMmaAbort, State.powered_on hon, hmma, hgood, State.free, hrun, Acc.scaledCodes_fst]
    rfl
  · rw [State.tile_commit, State.rd_congr (State.commit_regs _ _), hv, hrd, show o.acc = p.acc from rfl, Tile.acc_rerun]
    exact ⟨rfl, rfl, rfl, fun i hi => Acc.get_rescaled _ _ _ hi⟩

/-- An abort with a pass too high and T at 112: the saturating run follows (R160). -/
theorem mmaAbort_high_saturates {e : Int} {m : Nat}
    (hrun : (s.operands o).run ((s.tile t).acc o.acc) o.run (Config.freeWord s.freeCtr).toNat = .high e m)
    (hoffset : 112 ≤ ((s.tile t).acc o.acc).offset) :
    Gives (.mmaAbort t) s fun u => (u.tile t).mma = some { o with run := 3, began := s.cycle } ∧
      (u.tile t).acc o.acc = (s.tile t).acc o.acc ∧ u.rd (TILE_MU_RECOMP t) = s.rd (TILE_MU_RECOMP t) + 1 := by
  let p : MmaOp := { o with run := 3, began := s.cycle }
  let v := ((s.recounted t).setFlags t engineMU ((s.operands o).flagsOf ((s.tile t).acc o.acc) m)).modTile t fun x =>
    { x with mma := some p }
  have hv : v.tile t = { s.tile t with mma := some p } := by rw [State.tile_modTile, State.tile_setFlags, s.tile_recounted]
  have hrd : v.rd (TILE_MU_RECOMP t) = s.rd (TILE_MU_RECOMP t) + 1 := by
    rw [State.rd_modTile, State.rd_setFlags_recomp, s.rd_recounted]
  refine gives_ok (t := v) ?_ ?_
  · simp only [exec, execMmaAbort, State.powered_on hon, hmma, hgood, State.free, hrun, if_pos hoffset]
    rfl
  · rw [State.tile_commit, State.rd_congr (State.commit_regs _ _), hv, hrd]
    exact ⟨rfl, rfl, rfl⟩

/-- An abort with a pass too high and T below 112: contents times 2^-D, T up by D (R158). -/
theorem mmaAbort_high_rescales {e : Int} {m : Nat}
    (hrun : (s.operands o).run ((s.tile t).acc o.acc) o.run (Config.freeWord s.freeCtr).toNat = .high e m)
    (hoffset : ((s.tile t).acc o.acc).offset < 112) :
    let d := min (up16 (max 1 (e - 100))) (112 - ((s.tile t).acc o.acc).offset)
    Gives (.mmaAbort t) s fun u => ((u.tile t).acc o.acc).offset = ((s.tile t).acc o.acc).offset + d ∧
      (u.tile t).mma = some { o with run := o.run + 1, began := s.cycle } ∧
      ∀ i < 4096, Table.get 0 ((u.tile t).acc o.acc).data i =
        BitVec.ofNat 32 (fp32.encodeIEEE false none ((((s.tile t).acc o.acc).value i).scale (-d))).1 := by
  intro d
  let a := ((s.tile t).acc o.acc).rescaled (-d) (((s.tile t).acc o.acc).offset + d)
  let p : MmaOp := { o with run := o.run + 1, began := s.cycle }
  let l := ((s.tile t).acc o.acc).scaledCodes (-d)
  let v := ((((s.recounted t).setFlags t engineMU ((s.operands o).flagsOf ((s.tile t).acc o.acc) m)).modTile t fun x =>
    x.rerun p a).count (TILE_MU_RESCALE_UF t) (l.filter fun c => bitOf c.2 1).length).setFlags t engineMU
      (l.foldl (fun f c => f ||| c.2) 0)
  have hv : v.tile t = (s.tile t).rerun p a := by
    rw [State.tile_setFlags, State.tile_count, State.tile_modTile, State.tile_setFlags, s.tile_recounted]
  refine gives_ok (t := v) ?_ ?_
  · simp only [exec, execMmaAbort, State.powered_on hon, hmma, hgood, State.free, hrun, if_neg (Int.not_le.mpr hoffset)]
    rfl
  · rw [State.tile_commit, hv, show o.acc = p.acc from rfl, Tile.acc_rerun]
    exact ⟨rfl, rfl, fun i hi => Acc.get_rescaled _ _ _ hi⟩

/-- A pass over: the sums stand, and a run that saturated counts (R151, R160). -/
theorem mmaComplete_sums {l : List Nat} {f k : Nat}
    (hrun : (s.operands o).run ((s.tile t).acc o.acc) o.run 0 = .done l f k) :
    Gives (.mmaComplete t) s fun u => (u.tile t).mma = none ∧ ((u.tile t).acc o.acc).pending = 0 ∧
      ((u.tile t).acc o.acc).offset = ((s.tile t).acc o.acc).offset ∧
      (∀ i < 4096, Table.get 0 ((u.tile t).acc o.acc).data i = BitVec.ofNat 32 (l.getD i 0)) ∧
      u.rd (TILE_MU_SAT t) = s.rd (TILE_MU_SAT t) + (if k = 0 then 0 else 1) := by
  let v := (s.setFlags t engineMU (f ||| (if k = 0 then 0 else flagOF))).saturated t o k
  let a : Acc := { (s.tile t).acc o.acc with data := accData l }
  let x := v.modTile t fun x => { x.setAcc o.acc { a with pending := 0 } with mma := none }
  have hz : x.Settled t (s.commit (x.settle t)) := (State.settle_settled x t).commit
  have hx : x.tile t = { (s.tile t).setAcc o.acc { a with pending := 0 } with mma := none } := by
    rw [State.tile_modTile, State.tile_saturated, State.tile_setFlags]
  have hrd : x.rd (TILE_MU_SAT t) = s.rd (TILE_MU_SAT t) + (if k = 0 then 0 else 1) := by
    rw [State.rd_modTile, State.rd_saturated,
      s.rd_setFlags t _ _ _ (by simp [Reg.quiet, TILE_MU_SAT]) (by simp [TILE_FP_FLAGS, TILE_MU_SAT])]
  have hacc : (x.tile t).acc o.acc = { a with pending := 0 } := by
    rw [hx]
    exact Tile.acc_setAcc _ _ _
  obtain ⟨hdata, hoffset, hpending⟩ := hz.acc_contents o.acc
  rw [hacc] at hdata hoffset hpending
  refine gives_ok (t := x.settle t) ?_ ⟨?_, hpending, hoffset, fun i _ => ?_, ?_⟩
  · simp only [exec, execMmaComplete, State.powered_on hon, hmma, hgood, hrun]
    rfl
  · rw [hz.tile.mma, hx]
    rfl
  · rw [hdata]
    exact Table.get_accData l i
  · rw [hz.rd _ (by simp [Reg.quiet, TILE_MU_SAT]), hrd]

end

/-- Settles O18: each command of the matrix unit changes its tile as its lemma says, and looking at the tile afterwards takes
away only what threads that have ended give up. -/
theorem matrixPasses : Obligations.MatrixPasses := by
  constructor
  · intro s t h w r c hv n y x f a sa b sb k row hl hmu hA hB howner hheld hk0 hk hkmax ha hb howna hownb hscales hown
    have howns : (s.tile t).owns h (fD w.toNat) = true := (Tile.owns_iff _ _ _).mpr ⟨howner, hheld⟩
    have hlegal : (onlyUses n (useD ||| useA ||| useB ||| useC ||| useMOD) && fmtMu f && fA n % 2 == 0 && fB n % 2 == 0) =
        true := by
      rw [hl, hmu, hA, hB]
      rfl
    have hfits : MmaFits t f a sa b sb k := ⟨hk0, hk, hkmax, ha, hb, howna, hownb, fun hf => by
      rw [scaleBytes, if_pos hf]
      exact hscales hf⟩
    exact ⟨fun hroom => (iMma_queues r c hv hlegal howns hfits hown hroom).mono fun u hu =>
      ⟨hu.1, _, hu.2, rfl, rfl, rfl, rfl, rfl, rfl, rfl, rfl⟩, iMma_waits r c hv hlegal howns hfits⟩
  · intro s t hon x
    refine ⟨fun o q hidle hqueue hdrained => mmaStart_starts hon hidle hqueue hdrained, ?_⟩
    intro o hmma hgood a v
    refine ⟨fun d m hrun => ?_, fun e m hrun hoffset => ?_, fun e m hrun hoffset => ?_, fun l f k hrun => ?_⟩
    · exact mmaAbort_low hon hmma hgood hrun
    · exact mmaAbort_high_saturates hon hmma hgood hrun hoffset
    · exact mmaAbort_high_rescales hon hmma hgood hrun hoffset
    · exact mmaComplete_sums hon hmma hgood hrun

end Sys2Proof.Machine
end

section
/-! Accesses outside the tile's own SRAM (O10, R139, R142, R180). -/

namespace Sys2Proof.Machine

/-! ### Addresses outside the tile -/

/-- An aligned block of a size that divides the tile's SRAM lies in it or outside of it. -/
theorem outside_of_not_ownRange {t a n : Nat} (hal : a % n = 0) (hn : n ∣ tileBytes) (h : ownRange t a n = false) :
    a + n ≤ t * tileBytes ∨ (t + 1) * tileBytes ≤ a := by
  obtain ⟨m, hm⟩ := hn
  obtain ⟨q, rfl⟩ := Nat.dvd_of_mod_eq_zero hal
  have hn : 0 < n := Nat.pos_of_ne_zero fun h0 => by simp [h0, tileBytes] at hm
  have hblock : ∀ k, k * tileBytes = n * (k * m) := fun k => by rw [hm]; ring
  simp only [ownRange, Bool.and_eq_false_iff, decide_eq_false_iff_not, hblock, Nat.not_le] at h ⊢
  rcases h with h | h
  · left
    have := Nat.lt_of_mul_lt_mul_left h
    rw [← Nat.mul_succ]
    exact Nat.mul_le_mul_left n this
  · right
    rw [← Nat.mul_succ] at h
    exact Nat.mul_le_mul_left n (Nat.le_of_lt_succ (Nat.lt_of_mul_lt_mul_left h))

theorem State.ownEngine_outside (s : State) {t a n : Nat} (h : a + n ≤ t * tileBytes ∨ (t + 1) * tileBytes ≤ a) :
    s.ownEngine t a n = false := by
  have hno : ¬ max a (t * tileBytes) < min (a + n) ((t + 1) * tileBytes) := by omega
  simp [State.ownEngine, hno]

theorem fIMM34_eq (n : Nat) : fIMM34 n =
    BitVec.ofInt 64 (if bitOf n 33 then (n % 2 ^ 34 : Int) - 2 ^ 34 else (n % 2 ^ 34 : Int)) :=
  congrArg (BitVec.ofInt 64) (signed_bitsOf 33 n)

theorem size_dvd_tileBytes (m : Nat) : 2 ^ (m % 4) ∣ tileBytes :=
  Dvd.dvd.trans (Nat.pow_dvd_pow 2 (show m % 4 ≤ 23 by omega)) (by decide)

/-! ### Request cells -/

/-- From `s` to `u` tile `t` has sent the requests `l`, in this order, and nothing but the tiles differs otherwise. -/
structure State.Sent (t : Nat) (s u : State) (l : List Request) : Prop where
  only : ∃ a b, u = (s.putTiles a).putXin b
  xin : Table.get [] u.xin (tileOutput t) = Table.get [] s.xin (tileOutput t) ++ l.map fun r => (internalVc, .req r)

theorem State.OnlyTiles.sent {t : Nat} {s u : State} (h : s.OnlyTiles u) : s.Sent t u [] := by
  obtain ⟨l, rfl⟩ := h
  exact ⟨⟨l, s.xin, rfl⟩, by simp⟩

theorem State.Sent.trans {t : Nat} {s u v : State} {l m : List Request} (h : s.Sent t u l) (k : u.Sent t v m) :
    s.Sent t v (l ++ m) := by
  obtain ⟨a, b, hu⟩ := h.only
  obtain ⟨c, d, hv⟩ := k.only
  refine ⟨⟨c, d, by rw [hv, hu]; rfl⟩, ?_⟩
  rw [k.xin, h.xin, List.map_append, List.append_assoc]

/-- The request that thread `h` of tile `t` sends. -/
def State.threadRequest (s : State) (t h a : Nat) (k : ReqKind) : Request :=
  ⟨t, h, (s.tile t).reqTag, (s.tile t).ctx, s.genOf (s.tile t).ctx, a, k⟩

theorem State.request_sent (s : State) (t h pc a : Nat) (k : ReqKind) (w : Want) :
    s.Sent t (s.request t h pc a k w) [s.threadRequest t h a k] := by
  refine ⟨⟨_, _, rfl⟩, ?_⟩
  unfold State.request State.inject
  rw [State.putXin_xin, Table.get_set_same, State.modTile_xin]
  rfl

theorem State.tile_request (s : State) (t h pc a : Nat) (k : ReqKind) (w : Want) :
    (s.request t h pc a k w).tile t = (s.tile t).addOutst h pc w := by
  unfold State.request
  rw [State.tile, State.inject_tiles]
  exact s.tile_modTile t _

theorem State.tile_request_other (s : State) {t v : Nat} (h pc a : Nat) (k : ReqKind) (w : Want) (hv : v ≠ t) :
    (s.request t h pc a k w).tile v = s.tile v := by
  unfold State.request
  rw [State.tile, State.inject_tiles]
  exact s.tile_modTile_other _ hv

theorem State.ask_owned {s : State} {t h pc a : Nat} {k : ReqKind} {w : Want} (ha : s.agentOf a ≠ .none) :
    s.ask t h pc a k w = s.request t h pc a k w := by
  unfold State.ask
  split
  · contradiction
  · rfl

theorem State.Sent.commit {t : Nat} {s u : State} {l : List Request} (h : s.Sent t u l) : s.Sent t (s.commit u) l := by
  obtain ⟨a, b, hu⟩ := h.only
  exact ⟨⟨a, b, by rw [hu]; rfl⟩, by rw [State.commit_xin]; exact h.xin⟩

theorem State.Sent.mem {t : Nat} {s u : State} {l : List Request} (h : s.Sent t u l) : u.mem = s.mem := by
  obtain ⟨a, b, rfl⟩ := h.only
  rfl

theorem State.Wrote.threadRequest {t h : Nat} {s v : State} (hw : s.Wrote t h v) (k a : Nat) (q : ReqKind) :
    v.threadRequest t k a q = s.threadRequest t k a q := by
  obtain ⟨_, _, _, htile⟩ := hw.tile
  obtain ⟨l, rfl⟩ := hw.only
  unfold State.threadRequest
  rw [htile]
  rfl

theorem State.Wrote.agentOf {t h : Nat} {s v : State} (hw : s.Wrote t h v) (a : Nat) : v.agentOf a = s.agentOf a := by
  obtain ⟨l, rfl⟩ := hw.only
  rfl

theorem State.thread_request (s : State) (t h pc a v j : Nat) (k : ReqKind) (w : Want) :
    (s.request t h pc a k w).thread v j = s.thread v j := by
  by_cases hv : v = t
  · subst hv
    rw [State.thread, s.tile_request]
    rfl
  · rw [State.thread, s.tile_request_other _ _ _ _ _ hv, State.thread]

theorem State.Calm.request {s : State} {t : Nat} (c : s.Calm t) (h pc a : Nat) (k : ReqKind) (w : Want) :
    (s.request t h pc a k w).Calm t := by
  refine c.of_livesOn ?_ (fun v j => ?_) ?_
  · obtain ⟨_, _, hu⟩ := (s.request_sent t h pc a k w).only
    rw [hu]
    rfl
  · rw [s.thread_request]
    exact .refl _
  · rw [s.tile_request]
    rfl

/-- An instruction that gives its thread registers and sends a request, in a calm tile. -/
theorem State.Ready.gives_ask {s v : State} {t h : Nat} {legal : Bool} {ss vs : List Nat} {body : State → Thread → Issue}
    {i : Instr} {a : Nat} {k : ReqKind} {w : Want} (r : s.Ready t h) (c : s.Calm t)
    (hi : exec i s = ok s (s.issue t h 1 legal ss vs body)) (hl : legal = true) (hv : s.Valid t h ss vs)
    (hown : ownRange t ((s.thread t h).pc + 8).toNat 8 = true) (hw : (s.atIssue t h 1).Wrote t h v)
    (hpc : (v.thread t h).pc = (s.thread t h).pc) (hagent : s.agentOf a ≠ .none)
    (hb : body (s.atIssue t h 1) (s.thread t h) = .next (v.ask t h (s.thread t h).pc.toNat a k w)) :
    Gives i s fun u => s.Sent t u [s.threadRequest t h a k] ∧
      (u.tile t).outst = (s.tile t).outst ++ [⟨(s.tile t).reqTag, h, (s.thread t h).pc.toNat, w⟩] ∧
      u.thread t h = (v.thread t h).advance := by
  have hsv : s.Wrote t h v := (s.atIssue_wrote t h 1).trans hw
  rw [State.ask_owned (by rwa [hsv.agentOf])] at hb
  let x := v.request t h (s.thread t h).pc.toNat a k w
  have hx : x.thread t h = v.thread t h := v.thread_request _ _ _ _ _ _ _ _
  have hadv : x.Wrote t h (x.modThread t h Thread.advance) := State.modThread_wrote Thread.advance_livesOn
  have hcalm : (x.modThread t h Thread.advance).Calm t := hadv.calm ((hsv.calm c).request _ _ _ _ _)
  obtain ⟨_, _, _, htile⟩ := hsv.tile
  have houtst : ((x.modThread t h Thread.advance).tile t).outst =
      (s.tile t).outst ++ [⟨(s.tile t).reqTag, h, (s.thread t h).pc.toNat, w⟩] := by
    rw [State.tile_modThread, v.tile_request, htile]
    rfl
  have hsent : s.Sent t ((x.modThread t h Thread.advance).run t) [s.threadRequest t h a k] := by
    have hasked := v.request_sent t h (s.thread t h).pc.toNat a k w
    rw [hsv.threadRequest] at hasked
    exact (hsv.only.sent.trans hasked).trans (hadv.only.trans hcalm.run_onlyTiles).sent
  refine (r.gives_next_run hi hl hv hown hb (by rw [hx, hpc])).mono fun z hz => ?_
  rw [hz]
  refine ⟨?_, ?_, ?_⟩
  · exact hsent.commit
  · rw [State.tile_commit, hcalm.looked.tile, ← houtst]
    rfl
  · rw [State.thread_commit, hcalm.looked.thread, State.thread_modThread, hx]

/-! ### LD and ST (R139, R142, R180) -/

/-- The address passes the checks of R201. -/
theorem address_noFault {a size : Nat} {b : Bool} (hal : a % size = 0) (ha : a < 2 ^ 48) (hb : b = false) :
    firstFault [(a % size != 0, 0x03), (badAddr a || b, 0x04)] = none := by
  have hbad : badAddr a = false := decide_eq_false (Nat.not_le.mpr ha)
  simp [firstFault, hal, hb, hbad]

/-- Register `d` waits for its response (R139); s0 never does. -/
def Thread.awaits (y : Thread) (d : Nat) : Thread := if d = 0 then y else { y with busyS := d :: y.busyS }

theorem Thread.awaits_keeps (y : Thread) (d : Nat) :
    (y.awaits d).s = y.s ∧ (y.awaits d).v = y.v ∧ (y.awaits d).m = y.m ∧ (y.awaits d).pc = y.pc := by
  unfold Thread.awaits
  split <;> exact ⟨rfl, rfl, rfl, rfl⟩

theorem Thread.mem_busyS_awaits (y : Thread) {d : Nat} (hd : d ≠ 0) : d ∈ (y.awaits d).busyS := by
  simp [Thread.awaits, hd]

/-- The state with a register marked, as LD leaves it. -/
def State.marked (s : State) (t h d : Nat) : State :=
  if d = 0 then s else s.modThread t h fun y => { y with busyS := d :: y.busyS }

theorem State.marked_wrote (s : State) (t h d : Nat) : s.Wrote t h (s.marked t h d) := by
  unfold State.marked
  split
  · exact .refl _ _ _
  · exact State.modThread_wrote fun _ => ⟨rfl, rfl, rfl⟩

theorem State.thread_marked (s : State) (t h d : Nat) : (s.marked t h d).thread t h = (s.thread t h).awaits d := by
  unfold State.marked Thread.awaits
  split
  · rfl
  · rw [State.thread_modThread]

theorem State.gotNone_of_thread {s u : State} {t h : Nat} {y : Thread} {p : Word} (hu : u.thread t h = y.advance)
    (hs : y.s = (s.thread t h).s) (hv : y.v = (s.thread t h).v) (hm : y.m = (s.thread t h).m) (hp : y.pc + 8 = p) :
    s.GotNone u t h p := by
  unfold State.GotNone
  rw [hu]
  exact ⟨Thread.getS_congr hs, Thread.getV_congr hv, Thread.getM_congr hm, hp⟩

section
variable {s : State} {t : Fin 256} {h : Fin 16} {w : BitVec 56} {a : Nat} (r : s.Ready t h) (c : s.Calm t)
  (hv : s.Valid t h [fD w.toNat, fA w.toNat] [])
  (hl : onlyUses w.toNat (useD ||| useA ||| useIMM34 ||| useMOD) = true)
  (ha : ((s.thread t h).getS (fA w.toNat) + fIMM34 w.toNat).toNat = a)
  (hal : a % 2 ^ (fMOD w.toNat % 4) = 0) (hout : ownRange t a (2 ^ (fMOD w.toNat % 4)) = false) (hlt : a < 2 ^ 48)
  (hroom : (s.tile t).outst.length < 512) (hown : ownRange t ((s.thread t h).pc + 8).toNat 8 = true)
include r c hv hl ha hal hout hlt hroom hown

theorem iLd_asks (hm : fMOD w.toNat ≤ 6) (hagent : s.agentOf a ≠ .none) : Gives (.iLd t h w) s fun u =>
    s.Sent t u [s.threadRequest t h a (.load (2 ^ (fMOD w.toNat % 4)))] ∧
    (u.tile t).outst = (s.tile t).outst ++ [⟨(s.tile t).reqTag, h, (s.thread t h).pc.toNat,
      .scalar (fD w.toNat) (8 * 2 ^ (fMOD w.toNat % 4)) (bitOf (fMOD w.toNat) 2)⟩] ∧
    (fD w.toNat ≠ 0 → fD w.toNat ∈ (u.thread t h).busyS) ∧ s.GotNone u t h ((s.thread t h).pc + 8) := by
  obtain ⟨b, d, htile⟩ := s.tile_atIssue t h 1
  have hlegal : (onlyUses w.toNat (useD ||| useA ||| useIMM34 ||| useMOD) && decide (fMOD w.toNat ≤ 6)) = true := by
    rw [hl]
    simp [hm]
  have hfree : ¬ 512 < ((s.atIssue t h 1).tile t).outst.length + 1 := by
    rw [htile]
    exact Nat.not_lt.mpr hroom
  obtain ⟨hS, hV, hM, hpc⟩ := (s.thread t h).awaits_keeps (fD w.toNat)
  have hthread : ((s.atIssue t h 1).marked t h (fD w.toNat)).thread t h = (s.thread t h).awaits (fD w.toNat) := by
    rw [State.thread_marked, s.atIssue_thread]
  refine (r.gives_ask c (v := (s.atIssue t h 1).marked t h (fD w.toNat)) rfl hlegal hv hown (State.marked_wrote _ _ _ _)
    (by rw [hthread, hpc]) hagent ?_).mono fun u ⟨hsent, houtst, hu⟩ => ⟨hsent, houtst, fun hd => ?_, ?_⟩
  · have hfault := address_noFault hal hlt rfl
    rw [Bool.or_false] at hfault
    simp only [ha, hfault, hout, if_neg hfree]
    rfl
  · rw [hu, hthread]
    exact Thread.mem_busyS_awaits _ hd
  · exact State.gotNone_of_thread (hu.trans (by rw [hthread])) hS hV hM (by rw [hpc])

theorem iSt_asks (hm : fMOD w.toNat ≤ 3) (hagent : s.agentOf (lineOf a) ≠ .none) : Gives (.iSt t h w) s fun u =>
    s.Sent t u [s.threadRequest t h (lineOf a) (.store (lineMask a (2 ^ (fMOD w.toNat % 4)))
      (BitVec.ofNat 512 ((((s.thread t h).getS (fD w.toNat)).toNat % 2 ^ (8 * 2 ^ (fMOD w.toNat % 4))) <<< (8 * (a % 64)))))] ∧
    (u.tile t).outst = (s.tile t).outst ++ [⟨(s.tile t).reqTag, h, (s.thread t h).pc.toNat, .store⟩] ∧
    s.GotNone u t h ((s.thread t h).pc + 8) := by
  obtain ⟨b, d, htile⟩ := s.tile_atIssue t h 1
  have hlegal : (onlyUses w.toNat (useD ||| useA ||| useIMM34 ||| useMOD) && decide (fMOD w.toNat ≤ 3)) = true := by
    rw [hl]
    simp [hm]
  have hfree : ¬ 512 < ((s.atIssue t h 1).tile t).outst.length + 1 := by
    rw [htile]
    exact Nat.not_lt.mpr hroom
  have hengine : (s.atIssue t h 1).ownEngine t a (2 ^ (fMOD w.toNat % 4)) = false :=
    State.ownEngine_outside _ (outside_of_not_ownRange hal (size_dvd_tileBytes _) hout)
  refine (r.gives_ask c (v := s.atIssue t h 1) rfl hlegal hv hown (.refl _ _ _) (by rw [s.atIssue_thread]) hagent ?_).mono
    fun u ⟨hsent, houtst, hu⟩ => ⟨hsent, houtst, ?_⟩
  · simp only [ha, address_noFault hal hlt hengine, hout, if_neg hfree]
    rfl
  · exact State.gotNone_of_thread (hu.trans (by rw [s.atIssue_thread])) rfl rfl rfl rfl

end

end Sys2Proof.Machine
end

section
/-! Streams that leave the tile (O10, R143, R182). -/

namespace Sys2Proof.Machine

/-! ### One line -/

/-- What line `i` of stream `r` asks of the agent that owns its address. -/
def State.lineKind (s : State) (r : Stream) (i : Nat) : ReqKind :=
  if r.inbound then .load 64 else .store (BitVec.allOnes 64) (BitVec.ofNat 512 (s.load (r.localA + 64 * i) 64))

/-- What its response returns to. -/
def Stream.lineWant (r : Stream) (i : Nat) : Want :=
  if r.inbound then .streamIn r.id (r.localA + 64 * i) else .streamOut r.id

/-- Line `i` of stream `r` leaves tile `t` as a request cell. -/
structure State.LineLeaves (s : State) (t : Nat) (r : Stream) (i : Nat) : Prop where
  owned : s.agentOf (r.remote + 64 * i) ≠ .none
  away : ownRange t (r.remote + 64 * i) 64 = false
  into : r.inbound = true → s.inCombine t ((r.localA + 64 * i) % tileBytes) 64 = false
  clean : r.inbound = false → s.poisoned (r.localA + 64 * i) 64 = false

/-- Stream `r` with `j` lines issued. -/
def Stream.at (r : Stream) (j : Nat) : Stream := { r with issued := j }

theorem State.streamLine_leaves {s : State} {t : Nat} {r : Stream} {j : Nat} (h : s.LineLeaves t r j) :
    s.streamLine t (r.at j) = (s.streamIssued t r.id).request t r.thread r.pc (r.remote + 64 * j) (s.lineKind r j)
      (r.lineWant j) := by
  have hagent : ((s.streamIssued t r.id).agentOf (r.remote + 64 * j) == .none) = false := by
    simpa using show (s.streamIssued t r.id).agentOf (r.remote + 64 * j) ≠ .none from h.owned
  unfold State.streamLine State.lineKind Stream.lineWant Stream.at
  cases hin : r.inbound with
  | true =>
    have hinto : (s.streamIssued t r.id).inCombine t ((r.localA + 64 * j) % tileBytes) 64 = false := h.into hin
    simp [hagent, hinto, h.away]
  | false =>
    have hfrom : (s.streamIssued t r.id).poisoned (r.localA + 64 * j) 64 = false := h.clean hin
    have hload : (s.streamIssued t r.id).load (r.localA + 64 * j) 64 = s.load (r.localA + 64 * j) 64 := rfl
    simp [hagent, hfrom, h.away, hload]

theorem State.LineLeaves.of_sent {s u : State} {t : Nat} {l : List Request} {r : Stream} {i : Nat}
    (h : s.LineLeaves t r i) (k : s.Sent t u l) : u.LineLeaves t r i := by
  obtain ⟨a, b, rfl⟩ := k.only
  exact ⟨h.owned, h.away, h.into, h.clean⟩

theorem State.lineKind_of_sent {s u : State} {t : Nat} {l : List Request} (k : s.Sent t u l) (r : Stream) (i : Nat) :
    u.lineKind r i = s.lineKind r i := by
  obtain ⟨a, b, rfl⟩ := k.only
  rfl

/-! ### As many lines as the tile may have outstanding -/

/-- The requests of the first `j` lines of stream `r`, the tile's only one. -/
def State.lineRequests (s : State) (t : Nat) (r : Stream) (j : Nat) : List Request :=
  (List.range j).map fun i =>
    { s.threadRequest t r.thread (r.remote + 64 * i) (s.lineKind r i) with tag := (s.tile t).reqTag + i }

/-- From `s`, whose tile `t` has the one stream `r`, to `u` the first `j` lines have issued. -/
structure State.Pumped (s : State) (t : Nat) (r : Stream) (j : Nat) (u : State) : Prop where
  sent : s.Sent t u (s.lineRequests t r j)
  tile : ∃ l, l.length = j ∧ u.tile t = { s.tile t with
    streams := [r.at j], outst := (s.tile t).outst ++ l, reqTag := (s.tile t).reqTag + j }

theorem State.Pumped.start {s : State} {t : Nat} {r : Stream} (hr : (s.tile t).streams = [r.at 0]) : s.Pumped t r 0 s :=
  ⟨(State.OnlyTiles.refl s).sent, [], rfl, by rw [List.append_nil, Nat.add_zero, ← hr]⟩

theorem State.tile_streamIssued (s : State) (t id : Nat) : (s.streamIssued t id).tile t = { s.tile t with
    streams := (s.tile t).streams.map fun q => if q.id == id then { q with issued := q.issued + 1 } else q } :=
  s.tile_modTile t _

theorem State.Pumped.next {s u : State} {t : Nat} {r : Stream} {j : Nat} (h : s.Pumped t r j u) (hline : s.LineLeaves t r j) :
    s.Pumped t r (j + 1) (u.streamLine t (r.at j)) := by
  obtain ⟨l, hl, htile⟩ := h.tile
  have hissued : (u.streamIssued t r.id).tile t = { s.tile t with
      streams := [r.at (j + 1)], outst := (s.tile t).outst ++ l, reqTag := (s.tile t).reqTag + j } := by
    rw [State.tile_streamIssued, htile]
    simp [Stream.at]
  have hsent : s.Sent t (u.streamIssued t r.id) (s.lineRequests t r j) := by
    have hissue : u.OnlyTiles (u.streamIssued t r.id) := u.modTile_onlyTiles t _
    have := h.sent.trans hissue.sent
    rwa [List.append_nil] at this
  have hrequest : (u.streamIssued t r.id).threadRequest t r.thread (r.remote + 64 * j) (u.lineKind r j) =
      { s.threadRequest t r.thread (r.remote + 64 * j) (s.lineKind r j) with tag := (s.tile t).reqTag + j } := by
    unfold State.threadRequest
    rw [hissued, State.lineKind_of_sent h.sent]
    obtain ⟨a, b, hu⟩ := hsent.only
    rw [hu]
    rfl
  rw [State.streamLine_leaves (hline.of_sent h.sent)]
  refine ⟨?_, l ++ [⟨(s.tile t).reqTag + j, r.thread, r.pc, r.lineWant j⟩], by simp [hl], ?_⟩
  · have := hsent.trans (State.request_sent _ t r.thread r.pc (r.remote + 64 * j) (u.lineKind r j) (r.lineWant j))
    rw [hrequest] at this
    rw [State.lineRequests, List.range_succ, List.map_append]
    exact this
  · rw [State.tile_request, hissued, ← List.append_assoc]
    rfl

/-- Lines issue until all have, or 512 requests are outstanding (R143). -/
theorem State.Pumped.pump {s : State} {t : Nat} {r : Stream} (hroom : (s.tile t).outst.length ≤ 512)
    (hlines : ∀ i < r.lines, s.LineLeaves t r i) {n j : Nat} {u : State} (h : s.Pumped t r j u)
    (hj : j ≤ min (512 - (s.tile t).outst.length) r.lines) (hn : r.lines - j < n) :
    s.Pumped t r (min (512 - (s.tile t).outst.length) r.lines) (State.pump n u t) := by
  induction n generalizing j u with
  | zero => omega
  | succ n ih =>
    obtain ⟨l, hl, htile⟩ := h.tile
    have hlength : (u.tile t).outst.length = (s.tile t).outst.length + j := by rw [htile]; simp [hl]
    have hstreams : (u.tile t).streams = [r.at j] := by rw [htile]
    unfold State.pump
    rw [hlength, hstreams]
    by_cases hfull : (s.tile t).outst.length + j < 512
    · by_cases hleft : j < r.lines
      · have hfind : [r.at j].find? (fun r => decide (r.issued < r.lines)) = some (r.at j) := by simp [Stream.at, hleft]
        rw [if_pos hfull, hfind]
        exact ih (h.next (hlines j hleft)) (by omega) (by omega)
      · have hfind : [r.at j].find? (fun r => decide (r.issued < r.lines)) = none := by simp [Stream.at, hleft]
        rw [if_pos hfull, hfind]
        rwa [show min (512 - (s.tile t).outst.length) r.lines = j by omega]
    · rw [if_neg hfull]
      rwa [show min (512 - (s.tile t).outst.length) r.lines = j by omega]

/-- What a tile whose only stream has issued no line leaves after it has run. -/
theorem State.run_stream {s : State} {t : Nat} {r : Stream} (hfree : s.issueStopped t = false)
    (hr : (s.tile t).streams = [r.at 0]) (hroom : (s.tile t).outst.length ≤ 512)
    (hlines : ∀ i < r.lines, s.LineLeaves t r i) :
    ∃ u, s.Pumped t r (min (512 - (s.tile t).outst.length) r.lines) u ∧ u.Settled t (s.run t) := by
  have hleft : (s.tile t).linesLeft = r.lines := by
    rw [Tile.linesLeft, hr]
    simp [Stream.at]
  refine ⟨_, (State.Pumped.start hr).pump hroom hlines (n := (s.tile t).linesLeft + 1) (Nat.zero_le _) (by omega), ?_⟩
  rw [State.run, hfree, if_neg (by simp)]
  exact State.settle_settled _ t

/-! ### SIN and SOUT (R143, R182) -/

theorem ownRange_away {t a len : Nat} (ha : a % 64 = 0) (hlen : len % 64 = 0)
    (h : ∀ i < len / 64, ownRange t (a + 64 * i) 64 = false) (s : State) : s.ownEngine t a len = false := by
  by_cases hover : max a (t * tileBytes) < min (a + len) ((t + 1) * tileBytes)
  · have hT : tileBytes = 64 * 131072 := rfl
    have hline : t * tileBytes ≤ a + 64 * ((max a (t * tileBytes) - a) / 64) ∧
        a + 64 * ((max a (t * tileBytes) - a) / 64) + 64 ≤ (t + 1) * tileBytes ∧
        (max a (t * tileBytes) - a) / 64 < len / 64 := by
      rw [hT] at hover ⊢
      omega
    obtain ⟨hlo, hhi, hi⟩ := hline
    have hown : ownRange t (a + 64 * ((max a (t * tileBytes) - a) / 64)) 64 = true := by simp [ownRange, hlo, hhi]
    exact absurd hown (by simp [h _ hi])
  · simp [State.ownEngine, hover]

theorem State.OnlyTiles.ownEngine {s u : State} (h : s.OnlyTiles u) (t a n : Nat) : u.ownEngine t a n = s.ownEngine t a n := by
  obtain ⟨l, rfl⟩ := h
  rfl

theorem State.OnlyTiles.issueStopped {s u : State} (h : s.OnlyTiles u) (t : Nat) : u.issueStopped t = s.issueStopped t := by
  obtain ⟨l, rfl⟩ := h
  rfl

theorem State.OnlyTiles.lineKind {s u : State} (h : s.OnlyTiles u) (r : Stream) (i : Nat) :
    u.lineKind r i = s.lineKind r i := by
  obtain ⟨l, rfl⟩ := h
  rfl

theorem State.OnlyTiles.lineRequests {s u : State} (h : s.OnlyTiles u) {t : Nat} (hctx : (u.tile t).ctx = (s.tile t).ctx)
    (htag : (u.tile t).reqTag = (s.tile t).reqTag) (r : Stream) (j : Nat) : u.lineRequests t r j = s.lineRequests t r j := by
  refine List.map_congr_left fun i _ => ?_
  have hrequest : u.threadRequest t r.thread (r.remote + 64 * i) (s.lineKind r i) =
      s.threadRequest t r.thread (r.remote + 64 * i) (s.lineKind r i) := by
    unfold State.threadRequest
    rw [hctx, htag]
    obtain ⟨l, rfl⟩ := h
    rfl
  rw [h.lineKind, hrequest, htag]

/-- The operands of a stream instruction: bytes of the tile, of the other side, and how many. -/
def Thread.streamLocal (y : Thread) (n : Nat) (inbound : Bool) : Nat :=
  if inbound then (y.getS (fA n)).toNat else (y.getS (fB n)).toNat
def Thread.streamRemote (y : Thread) (n : Nat) (inbound : Bool) : Nat :=
  if inbound then (y.getS (fB n)).toNat else (y.getS (fA n)).toNat
def Thread.streamLen (y : Thread) (n : Nat) : Nat := (y.getS (fC n) + BitVec.ofNat 64 (fIMM22 n)).toNat

/-- The stream that the instruction starts. -/
def Stream.asked (x : Tile) (y : Thread) (h n : Nat) (inbound : Bool) : Stream :=
  ⟨x.streamId, h, y.pc.toNat, inbound, y.streamLocal n inbound, y.streamRemote n inbound, y.streamLen n / 64, 0, 0, fCC n⟩

/-- The tile once it has started. -/
def Tile.startStream (x : Tile) (r : Stream) : Tile :=
  { x.ccAdd r.cc r.lines with streamId := x.streamId + 1, streams := x.streams ++ [r] }

theorem Tile.ccGet_startStream (x : Tile) (r : Stream) :
    (x.startStream r).ccGet r.cc = (x.ccGet r.cc + r.lines) % 2 ^ 32 := Table.get_set_same _ _ _ _ _

/-- Thread `h` has issued a stream instruction, and its stream waits to run. -/
def State.streamStarted (s : State) (t h n : Nat) (inbound : Bool) : State :=
  (s.atIssue t h 1).modTile t fun x => x.startStream (Stream.asked x (s.thread t h) h n inbound)

theorem State.streamStarted_onlyTiles (s : State) (t h n : Nat) (inbound : Bool) :
    s.OnlyTiles (s.streamStarted t h n inbound) := (s.atIssue_onlyTiles t h 1).trans (State.modTile_onlyTiles _ _ _)

theorem State.tile_streamStarted (s : State) (t h n : Nat) (inbound : Bool) : ∃ b d,
    (s.streamStarted t h n inbound).tile t = Tile.startStream { s.tile t with icache := b, rotate := d }
      (Stream.asked (s.tile t) (s.thread t h) h n inbound) := by
  obtain ⟨b, d, htile⟩ := s.tile_atIssue t h 1
  refine ⟨b, d, ?_⟩
  rw [State.streamStarted, State.tile_modTile, htile]
  rfl

theorem State.thread_streamStarted (s : State) (t h n : Nat) (inbound : Bool) :
    (s.streamStarted t h n inbound).thread t h = s.thread t h := by
  obtain ⟨b, d, htile⟩ := s.tile_streamStarted t h n inbound
  rw [State.thread, htile]
  rfl

/-- The operands of a stream pass the checks of R201. -/
structure State.StreamFits (s : State) (t : Nat) (y : Thread) (n : Nat) (inbound : Bool) : Prop where
  whole : y.streamLen n % 64 = 0
  nonempty : 0 < y.streamLen n
  most : y.streamLen n ≤ 16777216
  alignA : (y.getS (fA n)).toNat % 64 = 0
  alignB : (y.getS (fB n)).toNat % 64 = 0
  own : ownRange t (y.streamLocal n inbound) (y.streamLen n) = true
  addr : y.streamRemote n inbound < 2 ^ 48
  engine : s.ownEngine t (if inbound then y.streamLocal n inbound else y.streamRemote n inbound) (y.streamLen n) = false

theorem State.StreamFits.noFault {s : State} {t n : Nat} {y : Thread} {inbound : Bool} (f : s.StreamFits t y n inbound) :
    firstFault [(y.streamLen n % 64 != 0 || y.streamLen n == 0 || decide (16777216 < y.streamLen n), 0x07),
      ((y.getS (fA n)).toNat % 64 != 0 || (y.getS (fB n)).toNat % 64 != 0, 0x03),
      (!ownRange t (y.streamLocal n inbound) (y.streamLen n) || badAddr (y.streamRemote n inbound) ||
        s.ownEngine t (if inbound then y.streamLocal n inbound else y.streamRemote n inbound) (y.streamLen n), 0x04)] =
      none := by
  have hlen : (y.streamLen n % 64 != 0 || y.streamLen n == 0 || decide (16777216 < y.streamLen n)) = false := by
    simp [f.whole, f.most, Nat.pos_iff_ne_zero.mp f.nonempty]
  have hbad : badAddr (y.streamRemote n inbound) = false := decide_eq_false (Nat.not_le.mpr f.addr)
  rw [hlen, f.alignA, f.alignB, f.own, hbad, f.engine]
  rfl

section
variable {s : State} {t : Fin 256} {h : Fin 16} {w : BitVec 56} {inbound : Bool} (r : s.Ready t h) (c : s.Calm t)
  (hv : s.Valid t h [fA w.toNat, fB w.toNat, fC w.toNat] [])
  (hl : onlyUses w.toNat (useA ||| useB ||| useC ||| useCC ||| useIMM22) = true)
  (hown : ownRange t ((s.thread t h).pc + 8).toNat 8 = true)
  (hfits : s.StreamFits t (s.thread t h) w.toNat inbound)
  (hcc : (s.tile t).ccGet (fCC w.toNat) + (s.thread t h).streamLen w.toNat / 64 < 2 ^ 31)
include r c hv hl hown hfits hcc

omit c in
/-- A stream instruction starts its stream, and the tile runs. -/
theorem State.Ready.gives_stream {i : Instr} (hi : exec i s = ok s (s.stream t h w inbound)) : Gives i s
    (· = s.commit (((s.streamStarted t h w.toNat inbound).modThread t h Thread.advance).run t)) := by
  obtain ⟨b, d, htile⟩ := s.tile_atIssue t h 1
  have hroom : ¬ 2 ^ 31 ≤ ((s.atIssue t h 1).tile t).ccGet (fCC w.toNat) + (s.thread t h).streamLen w.toNat / 64 := by
    rw [htile]
    exact Nat.not_le.mpr hcc
  refine r.gives_next_run hi hl hv hown ?_ (by rw [s.thread_streamStarted])
  have hfault := hfits.noFault
  unfold Thread.streamLocal Thread.streamRemote Thread.streamLen at hfault
  have hengine : ∀ a n, (s.atIssue t h 1).ownEngine t a n = s.ownEngine t a n := (s.atIssue_onlyTiles t h 1).ownEngine t
  unfold Thread.streamLen at hroom
  simp only [hengine, hfault, if_neg hroom]
  rfl

/-- What a stream instruction leaves whose lines all leave the tile. -/
theorem State.Ready.stream_runs {i : Instr} (hi : exec i s = ok s (s.stream t h w inbound))
    (hroom : (s.tile t).outst.length ≤ 512)
    (hlines : ∀ j < (s.thread t h).streamLen w.toNat / 64,
      s.LineLeaves t (Stream.asked (s.tile t) (s.thread t h) h w.toNat inbound) j) :
    let q := Stream.asked (s.tile t) (s.thread t h) h w.toNat inbound
    Gives i s fun u => (u.tile t).ccGet (fCC w.toNat) = (s.tile t).ccGet (fCC w.toNat) + q.lines ∧
      s.GotNone u t h ((s.thread t h).pc + 8) ∧
      (u.tile t).outst.length = min 512 ((s.tile t).outst.length + q.lines) ∧
      Table.get [] u.xin (tileOutput t) = Table.get [] s.xin (tileOutput t) ++
        (s.lineRequests t q (min (512 - (s.tile t).outst.length) q.lines)).map (fun q => (internalVc, .req q)) ∧
      ∃ j, q.at j ∈ (u.tile t).streams := by
  intro q
  refine (r.gives_stream hv hl hown hfits hcc hi).mono fun z hz => ?_
  obtain ⟨b, d, hstarted⟩ := s.tile_streamStarted t h w.toNat inbound
  have hthread := s.thread_streamStarted t h w.toNat inbound
  have honly := s.streamStarted_onlyTiles t h w.toNat inbound
  generalize s.streamStarted t h w.toNat inbound = v at hz hstarted hthread honly
  have hx := v.tile_modThread t h Thread.advance
  rw [hstarted, hthread] at hx
  replace honly := honly.trans (v.modTile_onlyTiles t fun x => x.setThread h (x.thread h).advance)
  change s.OnlyTiles (v.modThread t h Thread.advance) at honly
  generalize v.modThread t h Thread.advance = x at hz hx honly
  have hstreams : (x.tile t).streams = [q.at 0] := by
    rw [hx]
    exact congrArg (· ++ [q]) c.streams
  have houtst : (x.tile t).outst = (s.tile t).outst := by rw [hx]; rfl
  obtain ⟨u, hpump, hsettle⟩ := State.run_stream (s := x) (r := q) ((honly.issueStopped t).trans r.free) hstreams
    (by rwa [houtst]) fun j hj => (hlines j hj).of_sent honly.sent
  rw [houtst] at hpump
  obtain ⟨l, hlen, hutile⟩ := hpump.tile
  rw [hx] at hutile
  have hrequests : x.lineRequests t q = s.lineRequests t q :=
    funext fun j => honly.lineRequests (by rw [hx]; rfl) (by rw [hx]; rfl) q j
  have huthread : u.thread t h = (s.thread t h).advance := by
    rw [State.thread, hutile]
    exact Tile.thread_setThread (Tile.startStream { s.tile t with icache := b, rotate := d } q) h (s.thread t h).advance
  have hkept : (x.run t).thread t h = (s.thread t h).advance := by
    rw [hsettle.thread (by simp [huthread, Thread.advance, r.run]) (by rw [huthread]; exact c.ends h), huthread]
  have hcount : (u.tile t).ccGet (fCC w.toNat) = (s.tile t).ccGet (fCC w.toNat) + q.lines := by
    have hstart : (u.tile t).ccGet (fCC w.toNat) = ((s.tile t).startStream q).ccGet q.cc := by
      rw [hutile]
      rfl
    have hlt : (s.tile t).ccGet q.cc + q.lines < 2 ^ 32 := Nat.lt_trans hcc (by decide)
    rw [hstart, Tile.ccGet_startStream, Nat.mod_eq_of_lt hlt]
    rfl
  rw [hz]
  refine ⟨?_, ?_, ?_, ?_, min (512 - (s.tile t).outst.length) q.lines, ?_⟩
  · rw [State.tile_commit, hsettle.tile.ccGet]
    exact hcount
  · exact State.gotNone_of_thread ((State.thread_commit _ _ _ _).trans hkept) rfl rfl rfl rfl
  · have hsent : (u.tile t).outst = (s.tile t).outst ++ l := by
      rw [hutile]
      rfl
    rw [State.tile_commit, hsettle.tile.outst.trans hsent, List.length_append, hlen]
    omega
  · rw [State.commit_xin, hsettle.xin, hpump.sent.xin, hrequests]
    obtain ⟨a, ha⟩ := honly
    rw [ha]
    rfl
  · have hrun : (u.tile t).streams = [q.at (min (512 - (s.tile t).outst.length) q.lines)] := by rw [hutile]
    rw [State.tile_commit, hsettle.tile.streams.trans hrun]
    exact List.mem_singleton_self _

end

theorem lineOf_mask (a n : Nat) : lineMask a n = BitVec.ofNat 64 ((2 ^ n - 1) * 2 ^ (a % 64)) :=
  congrArg (BitVec.ofNat 64) (Nat.shiftLeft_eq _ _)

/-- Settles O10: LD and ST send their one request cell, SIN and SOUT as many as R143 allows, and what follows in a calm tile
sends none. -/
theorem remoteAndStreamResults : Obligations.RemoteAndStreamResults := by
  constructor
  · intro s t h w r c hv n y a size x sent hl hal hout hlt _ hroom hown
    have ha : (y.getS (fA n) + fIMM34 n).toNat = a := by rw [fIMM34_eq]
    refine ⟨fun hm hagent => ?_, fun hm hagent => ?_⟩
    · refine (iLd_asks r c hv hl ha hal hout hlt hroom hown hm hagent).mono fun u ⟨hsent, houtst, hbusy, hgot⟩ => ?_
      exact ⟨⟨hsent.xin, houtst, fun _ => by rw [hsent.mem]⟩, hbusy, hgot⟩
    · refine (iSt_asks r c hv hl ha hal hout hlt hroom hown hm hagent).mono fun u ⟨hsent, houtst, hgot⟩ => ?_
      rw [lineOf_mask, Nat.shiftLeft_eq] at hsent
      exact ⟨⟨hsent.xin, houtst, fun _ => by rw [hsent.mem]⟩, hgot⟩
  · intro s t h w r c hv n y a b len x runs hl hlen hpos hmax ha hb hcc hroom hown
    constructor
    · intro hlocal hremote hengine hlines
      have hfits : s.StreamFits t y n true := ⟨hlen, hpos, hmax, ha, hb, hlocal, hremote, hengine⟩
      refine (r.stream_runs c hv hl hown hfits hcc rfl hroom fun i hi => ?_).mono
        fun u ⟨hcount, hgot, houtst, hxin, j, hmem⟩ => ?_
      · obtain ⟨haway, howned, hinto⟩ := hlines i hi
        exact ⟨howned, haway, fun _ => hinto, fun h => nomatch h⟩
      · refine ⟨hcount, hgot, houtst, hxin.trans ?_, _, hmem, rfl, rfl, rfl, rfl, rfl, rfl, rfl⟩
        rw [State.lineRequests, List.map_map]
        rfl
    · intro hlocal hremote hlines
      have hfits : s.StreamFits t y n false := ⟨hlen, hpos, hmax, ha, hb, hlocal, hremote,
        ownRange_away ha hlen (fun i hi => (hlines i hi).1) s⟩
      refine (r.stream_runs c hv hl hown hfits hcc rfl hroom fun i hi => ?_).mono
        fun u ⟨hcount, hgot, houtst, hxin, j, hmem⟩ => ?_
      · obtain ⟨haway, howned, hfrom⟩ := hlines i hi
        exact ⟨howned, haway, (fun h => nomatch h), fun _ => hfrom⟩
      · refine ⟨hcount, hgot, houtst, hxin.trans ?_, _, hmem, rfl, rfl, rfl, rfl, rfl, rfl, rfl⟩
        rw [State.lineRequests, List.map_map]
        rfl

end Sys2Proof.Machine
end

section
/-! Instructions that write one register of their thread, or none (O7, O8, O14, R176, R177, R183). -/

namespace Sys2Proof.Machine

/-! ### One register written -/

section
variable {s : State} {t h unit : Nat} {legal : Bool} {ss vs : List Nat} {body : State → Thread → Issue} {i : Instr}
  (r : s.Ready t h) (hi : exec i s = ok s (s.issue t h unit legal ss vs body)) (hl : legal = true) (hv : s.Valid t h ss vs)
include r hi hl hv

theorem State.Ready.gives_setS {d : Nat} {v : Word} (hb : body (s.atIssue t h unit) (s.thread t h) =
    .next ((s.atIssue t h unit).modThread t h fun y => y.setS d v)) :
    Gives i s fun u => s.GotS u t h d v ((s.thread t h).pc + 8) :=
  gives_ok hi (r.gotS hl hv hb (by rw [State.thread_modThread, s.atIssue_thread]))

theorem State.Ready.gives_setM {d : Nat} {v : MReg} (hb : body (s.atIssue t h unit) (s.thread t h) =
    .next ((s.atIssue t h unit).modThread t h fun y => y.setM d v)) : Gives i s fun u => s.GotM u t h d v :=
  gives_ok hi (r.gotM hl hv hb (by rw [State.thread_modThread, s.atIssue_thread]))

theorem State.Ready.gives_nothing (hb : body (s.atIssue t h unit) (s.thread t h) = .next (s.atIssue t h unit)) :
    Gives i s fun u => s.GotNone u t h ((s.thread t h).pc + 8) :=
  gives_ok hi (r.gotNone hl hv hb (s.atIssue_thread t h unit h))

theorem State.Ready.gives_jump {p : Word} (hb : body (s.atIssue t h unit) (s.thread t h) = .jump (s.atIssue t h unit) p) :
    Gives i s fun u => s.GotNone u t h p :=
  gives_ok hi (r.jumpNone hl hv hb (s.atIssue_thread t h unit h))

theorem State.Ready.gives_jumpS {d : Nat} {v p : Word} (hb : body (s.atIssue t h unit) (s.thread t h) =
    .jump ((s.atIssue t h unit).modThread t h fun y => y.setS d v) p) : Gives i s fun u => s.GotS u t h d v p :=
  gives_ok hi (r.jumpS hl hv hb (by rw [State.thread_modThread, s.atIssue_thread]))

end

/-! ### Values -/

theorem boolWord_decide (p : Prop) [Decidable p] : boolWord (decide p) = if p then 1 else 0 := by simp [boolWord]

theorem mulHigh_signed (a b : Word) : mulHigh false a b = BitVec.ofInt 64 (a.toInt * b.toInt / 2 ^ 64) := rfl

theorem mulHigh_unsigned (a b : Word) : mulHigh true a b = BitVec.ofNat 64 (a.toNat * b.toNat / 2 ^ 64) :=
  congrArg (BitVec.ofNat 64) (Nat.shiftRight_eq_div_pow _ 64)

/-- MIN, MAX, MINU and MAXU by the order that MOD names. -/
theorem minMax_eq (a b : Word) :
    minMax 0 a b = (if a.toInt < b.toInt then a else b) ∧ minMax 1 a b = (if a.toInt < b.toInt then b else a) ∧
      minMax 2 a b = (if a.toNat < b.toNat then a else b) ∧ minMax 3 a b = (if a.toNat < b.toNat then b else a) := by
  simp [minMax, BitVec.slt_eq_decide, BitVec.ult_eq_decide]

theorem fIMM38_eq (n : Nat) : fIMM38 n =
    BitVec.ofInt 64 (if bitOf n 37 then (n % 2 ^ 38 : Int) - 2 ^ 38 else (n % 2 ^ 38 : Int)) :=
  congrArg (BitVec.ofInt 64) (signed_bitsOf 37 n)

/-- The bits set among the low `n`. -/
theorem length_bitsSet (n m : Nat) : (bitsSet n m).length = (List.range n).countP (bitOf m) := by
  unfold bitsSet
  split
  · rename_i hm
    rw [hm, List.countP_eq_zero.mpr fun i _ => by simp [bitOf], List.length_nil]
  · rw [List.countP_eq_length_filter]

theorem countBits_eq (a : Word) :
    countBits 0 a = BitVec.ofNat 64 (((List.range 64).find? fun i => a.getLsbD (63 - i)).getD 64) ∧
      countBits 1 a = BitVec.ofNat 64 (((List.range 64).find? fun i => a.getLsbD i).getD 64) ∧
      countBits 2 a = BitVec.ofNat 64 ((List.range 64).countP fun i => a.getLsbD i) :=
  ⟨rfl, rfl, congrArg (BitVec.ofNat 64) (length_bitsSet 64 a.toNat)⟩

/-! ### Classes 0x0 and 0x1 -/

section
variable {s : State} {t : Fin 256} {h : Fin 16} {w : BitVec 56} {i : Instr} (r : s.Ready t h)
include r

theorem State.Ready.gives_scalarReg {used : Nat} {legal : Bool} {f : Word → Word → Word → Word} {v : Word}
    (hi : exec i s = ok s (s.scalarReg t h w used legal f))
    (hv : s.Valid t h [fD w.toNat, fA w.toNat, fB w.toNat, fC w.toNat] []) (hl : onlyUses w.toNat used = true)
    (hlegal : legal = true) (hf : f ((s.thread t h).getS (fA w.toNat)) ((s.thread t h).getS (fB w.toNat))
      ((s.thread t h).getS (fC w.toNat)) = v) :
    Gives i s fun u => s.GotS u t h (fD w.toNat) v ((s.thread t h).pc + 8) :=
  r.gives_setS hi (by rw [hl, hlegal]; rfl) hv (by rw [hf])

theorem State.Ready.gives_scalarOp {f : Word → Word → Word} {v : Word} (hi : exec i s = ok s (s.scalarOp t h w f))
    (hv : s.Valid t h [fD w.toNat, fA w.toNat, fB w.toNat, fC w.toNat] [])
    (hl : onlyUses w.toNat (useD ||| useA ||| useB) = true)
    (hf : f ((s.thread t h).getS (fA w.toNat)) ((s.thread t h).getS (fB w.toNat)) = v) :
    Gives i s fun u => s.GotS u t h (fD w.toNat) v ((s.thread t h).pc + 8) :=
  r.gives_scalarReg hi hv hl rfl hf

theorem State.Ready.gives_scalarImm {f : Word → Word → Word} {v : Word} (hi : exec i s = ok s (s.scalarImm t h w f))
    (hv : s.Valid t h [fD w.toNat, fA w.toNat] []) (hl : onlyUses w.toNat (useD ||| useA ||| useIMM38) = true)
    (hf : f ((s.thread t h).getS (fA w.toNat)) (fIMM38 w.toNat) = v) :
    Gives i s fun u => s.GotS u t h (fD w.toNat) v ((s.thread t h).pc + 8) :=
  r.gives_setS hi hl hv (by rw [hf])

end

section
variable {s : State} {t : Fin 256} {h : Fin 16} {w : BitVec 56} (r : s.Ready t h)
include r

theorem iLi_result (hv : s.Valid t h [fD w.toNat] []) (hl : onlyUses w.toNat (useD ||| useIMM43) = true) :
    Gives (.iLi t h w) s fun u => s.GotS u t h (fD w.toNat) (BitVec.ofInt 64 (if bitOf w.toNat 42
      then (w.toNat % 2 ^ 43 : Int) - 2 ^ 43 else (w.toNat % 2 ^ 43 : Int))) ((s.thread t h).pc + 8) :=
  r.gives_setS rfl hl hv (by rw [signed_bitsOf 42])

theorem iLih_result (hv : s.Valid t h [fD w.toNat] []) (hl : onlyUses w.toNat (useD ||| (2 ^ 21 - 1)) = true) :
    Gives (.iLih t h w) s fun u => s.GotS u t h (fD w.toNat)
      (BitVec.ofNat 64 (((s.thread t h).getS (fD w.toNat)).toNat % 2 ^ 43 + w.toNat % 2 ^ 21 * 2 ^ 43))
      ((s.thread t h).pc + 8) :=
  r.gives_setS rfl hl hv rfl

theorem iClzCtzPopc_result {v : Word} (hv : s.Valid t h [fD w.toNat, fA w.toNat] [])
    (hl : onlyUses w.toNat (useD ||| useA ||| useMOD) = true) (hm : fMOD w.toNat ≤ 2)
    (hval : countBits (fMOD w.toNat) ((s.thread t h).getS (fA w.toNat)) = v) :
    Gives (.iClzCtzPopc t h w) s fun u => s.GotS u t h (fD w.toNat) v ((s.thread t h).pc + 8) :=
  r.gives_setS rfl (by simp [hl, hm]) hv (by rw [hval])

end

/-- Settles O7: each instruction gives sD the value of its operation, and what follows it leaves the registers of a thread
that runs. -/
theorem scalarResults : Obligations.ScalarResults := by
  constructor
  · intro s t h w r hv n a b c to_
    refine ⟨fun hl => ?_, fun hl => ?_, fun hl => ?_⟩
    · have hop {i : Instr} {f : Word → Word → Word} {v : Word} (hi : exec i s = ok s (s.scalarOp t h w f))
          (hf : f a b = v) : to_ i v := r.gives_scalarOp hi hv hl hf
      exact ⟨hop rfl rfl, hop rfl rfl, hop rfl rfl, hop rfl rfl, hop rfl rfl, hop rfl rfl, hop rfl rfl, hop rfl rfl,
        hop rfl rfl, hop rfl (by rw [BitVec.slt_eq_decide, boolWord_decide]),
        hop rfl (by rw [BitVec.ult_eq_decide, boolWord_decide]), hop rfl (by rw [beq_eq_decide, boolWord_decide])⟩
    · exact r.gives_scalarReg rfl hv hl rfl (ite_not ..)
    · have hmulh {v : Word} (hm : fMOD n ≤ 1) (hval : mulHigh (fMOD n == 1) a b = v) : to_ (.iMulh t h w) v :=
        r.gives_scalarReg rfl hv hl (decide_eq_true hm) hval
      have hmin {v : Word} (hm : fMOD n ≤ 3) (hval : minMax (fMOD n) a b = v) : to_ (.iMinMax t h w) v :=
        r.gives_scalarReg rfl hv hl (decide_eq_true hm) hval
      obtain ⟨h0, h1, h2, h3⟩ := minMax_eq a b
      refine ⟨fun hm => ⟨hmulh (by omega) ?_, hmin (by omega) ?_⟩, fun hm => ⟨hmulh (by omega) ?_, hmin (by omega) ?_⟩,
        fun hm => hmin (by omega) ?_, fun hm => hmin (by omega) ?_⟩ <;> rw [hm]
      · exact mulHigh_signed a b
      · exact h0
      · exact mulHigh_unsigned a b
      · exact h1
      · exact h2
      · exact h3
  · intro s t h w r hv n a i to_
    have hD : s.Valid t h [fD n] [] := hv.mono (by simp [n]) (by simp)
    refine ⟨fun hl => ?_, fun hl => iLi_result r hD hl, fun hl => iLih_result r hD hl, fun hl => ?_⟩
    · have himm {c : Instr} {f : Word → Word → Word} {v : Word} (hi : exec c s = ok s (s.scalarImm t h w f))
          (hf : f a i = v) : to_ c v := r.gives_scalarImm hi hv hl (by rw [fIMM38_eq]; exact hf)
      exact ⟨himm rfl rfl, himm rfl rfl, himm rfl rfl, himm rfl rfl, himm rfl rfl, himm rfl rfl, himm rfl rfl, himm rfl rfl,
        himm rfl (by rw [BitVec.slt_eq_decide, boolWord_decide]), himm rfl (by rw [BitVec.ult_eq_decide, boolWord_decide]),
        himm rfl (by rw [beq_eq_decide, boolWord_decide])⟩
    · have hcount {v : Word} (hm : fMOD n ≤ 2) (hval : countBits (fMOD n) a = v) : to_ (.iClzCtzPopc t h w) v :=
        iClzCtzPopc_result r hv hl hm hval
      obtain ⟨h0, h1, h2⟩ := countBits_eq a
      refine ⟨fun hm => hcount (by omega) ?_, fun hm => hcount (by omega) ?_, fun hm => hcount (by omega) ?_⟩ <;> rw [hm]
      · exact h0
      · exact h1
      · exact h2

end Sys2Proof.Machine
end

section
/-! Branches, jumps, special registers, and the ends and stops of threads (O8, R177-R179). -/

namespace Sys2Proof.Machine

/-! ### Branches -/

section
variable {s : State} {t : Fin 256} {h : Fin 16} {w : BitVec 56} {i : Instr} {f : Word → Word → Bool} (r : s.Ready t h)
  (hi : exec i s = ok s (s.branch t h w f)) (hv : s.Valid t h [fA w.toNat, fB w.toNat] [])
  (hl : onlyUses w.toNat (useA ||| useB ||| useOFF33) = true)
include r hi hv hl

/-- A branch goes to its target when its condition holds, else on. -/
theorem State.Ready.gives_branch {c : Prop}
    (hf : f ((s.thread t h).getS (fA w.toNat)) ((s.thread t h).getS (fB w.toNat)) = true ↔ c) :
    (c → Gives i s fun u => s.GotNone u t h ((s.thread t h).pc + 8 * fOFF33 w.toNat)) ∧
      (¬ c → Gives i s fun u => s.GotNone u t h ((s.thread t h).pc + 8)) := by
  constructor
  · exact fun hc => r.gives_jump hi hl hv (if_pos (hf.mpr hc))
  · exact fun hc => r.gives_nothing hi hl hv (if_neg fun ht => hc (hf.mp ht))

end

/-! ### RDSR (Table 7-5) -/

theorem State.special_atIssue (s : State) (t h unit n : Nat) : (s.atIssue t h unit).special t h n = s.special t h n := by
  obtain ⟨b, c, htile⟩ := s.tile_atIssue t h unit
  obtain ⟨l, hl⟩ := s.atIssue_onlyTiles t h unit
  have hctx : ((s.atIssue t h unit).tile t).ctx = (s.tile t).ctx := by rw [htile]
  unfold State.special
  rw [hctx, hl]
  rfl

theorem iRdsr_result {s : State} {t : Fin 256} {h : Fin 16} {w : BitVec 56} {k : Nat} (r : s.Ready t h)
    (hv : s.Valid t h [fD w.toNat] []) (hl : onlyUses w.toNat (useD ||| useIMM38) = true) (hk : k ≤ 9)
    (hn : w.toNat % 2 ^ 38 = k) :
    Gives (.iRdsr t h w) s fun u => s.GotS u t h (fD w.toNat) (s.special t h k) ((s.thread t h).pc + 8) := by
  have hnum : bitsOf w.toNat 0 38 = k := by simpa [bitsOf] using hn
  refine r.gives_setS rfl (by rw [hnum, hl]; simp [hk]) hv ?_
  rw [hnum, State.special_atIssue]

/-! ### BRK (R179) -/

/-- No fetch follows for a thread that does not run. -/
theorem State.fetch_stopped {s : State} {t h : Nat} (hst : (s.thread t h).st ≠ .run) : s.fetch t h = s := by
  simp [State.fetch, hst]

/-- An instruction that stops its thread is followed only by the waits that end. -/
theorem State.Ready.next_stopped {s u : State} {t h unit : Nat} {legal : Bool} {ss vs : List Nat}
    {body : State → Thread → Issue} (r : s.Ready t h) (hl : legal = true) (hv : s.Valid t h ss vs)
    (hb : body (s.atIssue t h unit) (s.thread t h) = .next u) (hst : (u.thread t h).st ≠ .run)
    (hstreams : (u.tile t).streams = []) :
    s.issue t h unit legal ss vs body = (u.modThread t h Thread.advance).settle t := by
  have hfetch : (u.modThread t h Thread.advance).fetch t h = u.modThread t h Thread.advance :=
    State.fetch_stopped (by rw [State.thread_modThread]; exact hst)
  rw [r.issue_does hl hv, hb, Issue.done, hfetch, State.run_idle]
  rw [State.tile_modThread]
  exact hstreams

/-- What BRK does before PC moves (R179): the thread is HALTED, its bit of THREAD_HALT is set, and an event goes out. -/
def State.brk (s : State) (t h : Nat) (y : Thread) : State :=
  let s := s.setFld (TILE_CTL t) TILE_CTL_THREAD_HALT (s.fld (TILE_CTL t) TILE_CTL_THREAD_HALT ||| 2 ^ h)
  let s := s.modThread t h fun x => { x with st := .halted, resume := .run }
  s.notice 0 0x000B (sourceOf 1 t) y.pc.toNat h (some (s.tile t).ctx)

theorem State.tile_brk (s : State) (t h : Nat) (y : Thread) : (s.brk t h y).tile t =
    (s.tile t).setThread h { s.thread t h with st := .halted, resume := .run } := by
  unfold State.brk
  rw [State.tile, State.notice_tiles, ← State.tile, State.tile_modThread]
  rfl

@[simp] theorem State.thread_brk (s : State) (t h : Nat) (y : Thread) :
    (s.brk t h y).thread t h = { s.thread t h with st := .halted, resume := .run } := by
  rw [State.thread, State.tile_brk, Tile.thread_setThread]

theorem TILE_CTL_quiet (t : Fin 256) : (TILE_CTL t).quiet := by simp [Reg.quiet, TILE_CTL]

theorem State.brk_haltBit (s : State) (t : Fin 256) (h : Fin 16) (y : Thread) :
    bitOf ((s.brk t h y).fld (TILE_CTL t) TILE_CTL_THREAD_HALT) h = true := by
  have hrd : (s.brk t h y).rd (TILE_CTL t) = (s.setFld (TILE_CTL t) TILE_CTL_THREAD_HALT
      (s.fld (TILE_CTL t) TILE_CTL_THREAD_HALT ||| 2 ^ h.val)).rd (TILE_CTL t) :=
    (State.notice_only _ ..).rd _ (TILE_CTL_quiet t)
  rw [State.fld]
  rw [hrd, ← State.fld, State.fld_setFld_same _ _ _ _ (by decide)]
  show (_ % 2 ^ 16).testBit _ = true
  rw [Nat.testBit_mod_two_pow]
  simp

theorem iBrk_halts {s : State} {t : Fin 256} {h : Fin 16} {w : BitVec 56} (r : s.Ready t h) (c : s.Calm t)
    (hn : w.toNat = 0) : Gives (.iBrk t h w) s fun u => (u.thread t h).st = .halted ∧ (u.thread t h).resume = .run ∧
      bitOf (u.fld (TILE_CTL t) TILE_CTL_THREAD_HALT) h = true ∧ s.GotNone u t h ((s.thread t h).pc + 8) := by
  let v := (s.atIssue t h 0).brk t h (s.thread t h)
  have hadv : (v.modThread t h Thread.advance).thread t h =
      Thread.advance { s.thread t h with st := .halted, resume := .run } := by
    rw [State.thread_modThread, State.thread_brk, s.atIssue_thread]
  have hstreams : (v.tile t).streams = [] := by
    obtain ⟨b, d, htile⟩ := s.tile_atIssue t h 0
    rw [State.tile_brk, htile]
    exact c.streams
  have hsettled := State.settle_settled (v.modThread t h Thread.advance) t
  have hlast : (s.commit ((v.modThread t h Thread.advance).settle t)).thread t h =
      Thread.advance { s.thread t h with st := .halted, resume := .run } := by
    rw [State.thread_commit, hsettled.thread (by rw [hadv]; simp [Thread.advance]) (by rw [hadv]; exact c.ends h), hadv]
  refine gives_ok (t := (v.modThread t h Thread.advance).settle t) (congrArg (ok s)
    (r.next_stopped (by rw [hn]; rfl) ⟨by simp, by simp⟩ rfl (by rw [State.thread_brk]; simp) hstreams)) ?_
  refine ⟨by rw [hlast]; rfl, by rw [hlast]; rfl, ?_, ?_⟩
  · rw [State.fld, State.rd_congr (State.commit_regs _ _), hsettled.rd _ (TILE_CTL_quiet t),
      State.rd_congr (State.modThread_regs _ _ _ _)]
    exact State.brk_haltBit _ t h _
  · unfold State.GotNone
    rw [hlast]
    exact ⟨fun _ => rfl, fun _ => rfl, fun _ => rfl, rfl⟩

/-! ### END (R178) -/

/-- From where the threads that have ended have left, only waits end. -/
theorem State.leaveAll_waitsEnd (s : State) (t : Nat) : (s.leaveAll t).WaitsEnd t (s.settleOnce t) := by
  unfold State.settleOnce
  split
  · exact .refl _ _
  · have hwaits : (s.leaveAll t).WaitsEnd t ((s.leaveAll t).endWaits t) := .modTile (.foldl Tile.endWait_waitsEnd _ _)
    exact (hwaits.trans (.foldl (fun s h => s.semGrant_waitsEnd t h) _ _)).trans
      (.foldl (fun s h => s.takeGrant_waitsEnd t h) _ _)

/-- What a thread is once it has left (R178). -/
def Thread.left (y : Thread) : Thread :=
  if y.ending then { y with st := .idle, ending := false, wait := .none, busyS := [], busyV := [], vloads := [] } else y

theorem Tile.thread_leave_other (x : Tile) {h k : Nat} (hk : k ≠ h) : (x.leave k).thread h = x.thread h := by
  unfold Tile.leave
  dsimp only
  split
  · exact Tile.thread_setThread_other _ _ hk
  · rfl

/-- Nothing of the tile is outstanding. -/
def Tile.NoneOut (x : Tile) : Prop := x.outst = [] ∧ x.streams = []

theorem Tile.NoneOut.modThread {s : State} {t h : Nat} {f : Thread → Thread} (q : (s.tile t).NoneOut) :
    ((s.modThread t h f).tile t).NoneOut := by
  rw [State.tile_modThread]
  exact q

theorem Tile.NoneOut.leave {x : Tile} (q : x.NoneOut) (h : Nat) : (x.leave h).NoneOut := by
  unfold Tile.leave
  dsimp only
  split
  · exact q
  · exact q

theorem Tile.NoneOut.thread_leave {x : Tile} (q : x.NoneOut) (h : Nat) : (x.leave h).thread h = (x.thread h).left := by
  obtain ⟨hout, hstreams⟩ := q
  have hquiet : x.quiet h = true := by simp [Tile.quiet, Tile.outstOf, Tile.streaming, hout, hstreams]
  unfold Tile.leave Thread.left
  simp only [hquiet, Bool.and_true]
  split
  · exact Tile.thread_setThread _ _ _
  · rfl

/-- A thread that has ended leaves at once when nothing of the tile is outstanding. -/
theorem State.thread_leaveAll {s : State} {t h : Nat} (hh : h < 16) (q : (s.tile t).NoneOut) :
    (s.leaveAll t).thread t h = (s.thread t h).left := by
  rw [State.leaveAll, State.thread, State.tile_modTile]
  exact foldl_at (P := Tile.NoneOut) (g := fun x : Tile => x.thread h) (h := Thread.left) (f := Tile.leave)
    (fun x k hx => hx.leave k) (fun x k _ hk => x.thread_leave_other hk) (fun x hx => hx.thread_leave h)
    List.nodup_range (List.mem_range.mpr hh) _ q

theorem Thread.left_of_ending {y : Thread} (h : y.ending = true) : y.left.st = .idle ∧ y.left.ending = false := by
  simp [Thread.left, h]

theorem State.settle_left {s : State} {t h : Nat} (hh : h < 16) (q : (s.tile t).NoneOut)
    (hend : (s.thread t h).ending = true) : ((s.settle t).thread t h).st = .idle := by
  have hleft : (s.leaveAll t).thread t h = (s.thread t h).left := State.thread_leaveAll hh q
  obtain ⟨hidle, hover⟩ := Thread.left_of_ending hend
  rw [← hleft] at hidle hover
  have hstays : ((s.leaveAll t).tile t).Stays h := by
    refine Tile.stays_of_not_waiting ?_ hover
    change ((s.leaveAll t).thread t h).st ≠ .wait
    simp [hidle]
  have hsettled : (s.settle t).thread t h = (s.leaveAll t).thread t h := by
    rw [State.settle, State.thread, State.tile, State.endSets_tiles]
    exact (s.leaveAll_waitsEnd t).tile.thread h hstays
  rw [hsettled, hidle]

/-- Changes of the entries leave the threads, the requests and the streams. -/
theorem State.returnEntries_keeps (s : State) (t h : Nat) :
    ((s.returnEntries t h).tile t).threads = (s.tile t).threads ∧ ((s.returnEntries t h).tile t).outst = (s.tile t).outst ∧
      ((s.returnEntries t h).tile t).streams = (s.tile t).streams := by
  unfold State.returnEntries
  rw [State.tile_modTile]
  refine ⟨?_, ?_, ?_⟩
  · refine (foldl_keep Tile.threads _ ?_ _ _).trans (foldl_keep Tile.threads _ ?_ _ _) <;> (intros; rfl)
  · refine (foldl_keep Tile.outst _ ?_ _ _).trans (foldl_keep Tile.outst _ ?_ _ _) <;> (intros; rfl)
  · refine (foldl_keep Tile.streams _ ?_ _ _).trans (foldl_keep Tile.streams _ ?_ _ _) <;> (intros; rfl)

theorem iEnd_leaves {s : State} {t : Fin 256} {h : Fin 16} {w : BitVec 56} (r : s.Ready t h) (c : s.Calm t)
    (hn : w.toNat = 0) (hout : (s.tile t).outst = []) : Gives (.iEnd t h w) s fun u => (u.thread t h).st = .idle := by
  let v := ((s.atIssue t h 0).returnEntries t h).modTile t fun x => x.giveUp h
  let u := (v.modThread t h fun y => { y with ending := true, issued := y.issued + 1 }).modThread t h fun y =>
    { y with st := .wait, wait := .none }
  obtain ⟨-, hkout, hkstreams⟩ := (s.atIssue t h 0).returnEntries_keeps t h
  obtain ⟨b, d, htile⟩ := s.tile_atIssue t h 0
  rw [htile] at hkout hkstreams
  have hnone : (u.tile t).NoneOut := by
    refine .modThread (.modThread ?_)
    rw [State.tile_modTile]
    exact ⟨hkout.trans hout, hkstreams.trans c.streams⟩
  have hend : (u.thread t h).ending = true := by simp [u]
  have hbody : s.issue t h 0 (onlyUses w.toNat 0) [] [] (fun s _ =>
      .waitIn (((s.returnEntries t h).modTile t fun x => x.giveUp h).modThread t h fun x =>
        { x with ending := true, issued := x.issued + 1 }) .none) = u.settle t := by
    rw [r.issue_does (by rw [hn]; rfl) ⟨by simp, by simp⟩, ← State.run_idle hnone.2]
    rfl
  refine gives_ok (t := u.settle t) (congrArg (ok s) hbody) ?_
  rw [State.thread_commit]
  exact State.settle_left h.isLt hnone hend

/-- Settles O8: branches and jumps write at most PC + 8 and go where R177 sends them; BRK and END leave their thread in the
state that R179 and R178 give, which looking at a calm tile afterwards does not change. -/
theorem branchAndThreadResults : Obligations.BranchAndThreadResults := by
  constructor
  · intro s t h w r hv n y a b off br
    have hoff : off = 8 * fOFF33 n := by rw [fOFF33_eq]
    have htgt : y.pc + off = y.pc + 8 * fOFF33 n := by rw [hoff]
    refine ⟨fun hl => ?_, fun hl => ?_, fun hl => ?_⟩
    · have hbr {i : Instr} {f : Word → Word → Bool} {c : Prop} (hi : exec i s = ok s (s.branch t h w f))
          (hf : f a b = true ↔ c) : br i c := by
        have := r.gives_branch hi (hv.mono (by simp) (by simp)) hl hf
        simp only [br, htgt]
        exact this
      exact ⟨hbr rfl beq_iff_eq, hbr rfl bne_iff_ne, hbr rfl BitVec.slt_iff_toInt_lt, hbr rfl (by simp [BitVec.slt_eq_decide]),
        hbr rfl BitVec.ult_iff_lt, hbr rfl (by simp [BitVec.ult_eq_decide])⟩
    · rw [htgt]
      exact r.gives_jumpS rfl hl (hv.mono (by simp) (by simp)) rfl
    · rw [hoff]
      exact r.gives_jumpS rfl hl (hv.mono (by simp) (by simp)) rfl
  · intro s t h w r hv n y c rd
    refine ⟨fun hl => ?_, fun hn => ⟨r.gives_nothing rfl (by rw [show w.toNat = 0 from hn]; rfl) ⟨by simp, by simp⟩ rfl,
      fun hc => iBrk_halts r hc hn, fun hc hout => iEnd_leaves r hc hn hout⟩⟩
    have hrd {k : Nat} (hk : k ≤ 9) : rd k (s.special t h k) := fun hn => iRdsr_result r hv hl hk hn
    exact ⟨hrd (by decide), hrd (by decide), hrd (by decide), hrd (by decide), hrd (by decide), hrd (by decide),
      hrd (by decide), hrd (by decide), hrd (by decide), hrd (by decide)⟩

end Sys2Proof.Machine
end

section
/-! Mask instructions (O14, R183). -/

namespace Sys2Proof.Machine

/-- The bits of a value with a field replaced. -/
theorem testBit_putBits (x lo w v i : Nat) :
    (putBits x lo w v).testBit i = if lo ≤ i ∧ i < lo + w then v.testBit (i - lo) else x.testBit i := by
  have hbit (z : Nat) : z.testBit i = (bitsOf z i 1).testBit 0 := by rw [testBit_bitsOf]; rfl
  rcases Nat.lt_or_ge i lo with hlow | hlow
  · rw [if_neg (by omega), hbit, hbit x, bitsOf_putBits_below _ _ _ _ _ _ hlow]
  · rcases Nat.lt_or_ge i (lo + w) with hhigh | hhigh
    · have hfield := testBit_bitsOf (putBits x lo w v) lo w (i - lo)
      rw [bitsOf_putBits_same, Nat.testBit_mod_two_pow, Nat.add_sub_cancel' hlow, decide_eq_true (by omega)] at hfield
      simpa [hlow, hhigh] using hfield.symm
    · rw [if_neg (by omega), hbit, hbit x, bitsOf_putBits_above _ _ _ _ _ _ hhigh]

section
variable {s : State} {t : Fin 256} {h : Fin 16} {w : BitVec 56} {i : Instr} (r : s.Ready t h)
include r

theorem State.Ready.gives_maskOp {m : Nat} {two : Bool} {f : MReg → MReg → MReg} (hi : exec i s = ok s (s.maskOp t h w m two f))
    (hl : onlyUses w.toNat (useD ||| useA ||| (if two then useB else 0) ||| useMOD) = true) (hm : fMOD w.toNat = m)
    (hD : fD w.toNat < 8) (hA : fA w.toNat < 8) (hB : fB w.toNat < 8) :
    Gives i s fun u => s.GotM u t h (fD w.toNat) (f ((s.thread t h).getM (fA w.toNat)) ((s.thread t h).getM (fB w.toNat))) :=
  r.gives_setM hi (by simp [hl, hm, hD, hA, hB]) ⟨by simp, by simp⟩ rfl

end

section
variable {s : State} {t : Fin 256} {h : Fin 16} {w : BitVec 56} (r : s.Ready t h)
include r

theorem iMnot_result (hl : onlyUses w.toNat (useD ||| useA ||| useMOD) = true) (hA : fA w.toNat < 8) (hm : fMOD w.toNat = 3)
    (hD : fD w.toNat < 8) :
    Gives (.iMnot t h w) s fun u => s.GotM u t h (fD w.toNat) (~~~(s.thread t h).getM (fA w.toNat)) := by
  have hB : fB w.toNat = 0 := bitsOf_eq_zero_of_onlyUses hl (by decide)
  exact r.gives_maskOp (two := false) (f := fun a _ => ~~~a) rfl hl hm hD hA (by omega)

theorem iMpop_result (hv : s.Valid t h [fD w.toNat] []) (hl : onlyUses w.toNat (useD ||| useA ||| useMOD) = true)
    (hA : fA w.toNat < 8) (hm : fMOD w.toNat = 4) : Gives (.iMpop t h w) s fun u => s.GotS u t h (fD w.toNat)
      (BitVec.ofNat 64 ((List.range 256).countP fun i => ((s.thread t h).getM (fA w.toNat)).getLsbD i))
      ((s.thread t h).pc + 8) :=
  r.gives_setS rfl (by simp [hl, hm, hA]) hv (by rw [List.countP_eq_length_filter])

/-- mD with 64 bits of it replaced by sA. -/
theorem iMins_result (hv : s.Valid t h [fA w.toNat] [])
    (hl : onlyUses w.toNat (useD ||| useA ||| useMOD ||| (3 <<< 16)) = true) (hm : fMOD w.toNat = 5) (hD : fD w.toNat < 8) :
    Gives (.iMins t h w) s fun u => s.GotM u t h (fD w.toNat) (BitVec.ofNat 256
      (putBits ((s.thread t h).getM (fD w.toNat)).toNat (64 * (fEXT w.toNat % 4)) 64
        ((s.thread t h).getS (fA w.toNat)).toNat)) :=
  r.gives_setM rfl (by rw [hl, hm]; simp [hD]) hv rfl

theorem iMext_result (hv : s.Valid t h [fD w.toNat] [])
    (hl : onlyUses w.toNat (useD ||| useA ||| useMOD ||| (3 <<< 16)) = true) (hm : fMOD w.toNat = 6) (hA : fA w.toNat < 8) :
    Gives (.iMext t h w) s fun u => s.GotS u t h (fD w.toNat)
      (BitVec.ofNat 64 (((s.thread t h).getM (fA w.toNat)).toNat / 2 ^ (64 * (fEXT w.toNat % 4))))
      ((s.thread t h).pc + 8) := by
  refine r.gives_setS rfl (by rw [hl, hm]; simp [hA]) hv ?_
  have hmod (x : Nat) : BitVec.ofNat 64 (x % 2 ^ 64) = BitVec.ofNat 64 x := BitVec.eq_of_toNat_eq (Nat.mod_mod _ _)
  rw [bitsOf_eq, hmod]

end

/-- Settles O14: a mask instruction writes one register of its thread, a mask register or for MPOP and MEXT a scalar one. -/
theorem maskResults : Obligations.MaskResults := by
  intro s t h w r hv n y k a
  have hD : s.Valid t h [fD n] [] := hv.mono (by simp [n]) (by simp)
  have hA : s.Valid t h [fA n] [] := hv.mono (by simp [n]) (by simp)
  refine ⟨fun hl hd ha hb => ?_, fun hl ha => ⟨iMnot_result r hl ha, iMpop_result r hD hl ha⟩,
    fun hl => ⟨fun hm hd => ?_, iMext_result r hD hl⟩⟩
  · exact ⟨fun hm => r.gives_maskOp rfl hl hm hd ha hb, fun hm => r.gives_maskOp rfl hl hm hd ha hb,
      fun hm => r.gives_maskOp rfl hl hm hd ha hb⟩
  · obtain ⟨u, hu, hgot⟩ := iMins_result r hA hl hm hd
    refine ⟨u, hu, _, hgot, fun i hi => ?_⟩
    rw [BitVec.getLsbD_ofNat, decide_eq_true hi, Bool.true_and, testBit_putBits]
    rfl

end Sys2Proof.Machine
end

section
/-! Vector instructions element by element: what the shared forms of classes 0x5 and 0x6 give (R165, R183, R184), and the
integer instructions (O13). -/

namespace Sys2Proof.Machine

/-! ### Mask registers -/

theorem testBit_packBits (l : List Nat) {i : Nat} (hi : i < l.length) :
    (packElems 1 l).testBit i = decide (l[i] % 2 = 1) := by
  have hget := packElems_get 1 l i hi
  rw [Nat.one_mul, Nat.pow_one] at hget
  rw [Nat.testBit_eq_decide_div_mod_eq, hget]

theorem flag_mod_two (b : Bool) : decide (flag b % 2 = 1) = b := by cases b <;> rfl

/-- Bit `i` of a merged mask register (R165). -/
theorem getLsbD_mergeBits (mz : Bool) (old : MReg) (l : List (Option Bool)) {i : Nat} (hi : i < 256) :
    (mergeBits mz old l).getLsbD i = (match l[i]? with
      | none => old.getLsbD i
      | some none => !mz && old.getLsbD i
      | some (some b) => b) := by
  unfold mergeBits
  rw [BitVec.getLsbD_ofNat, testBit_packBits _ (by simpa using hi), decide_eq_true hi, Bool.true_and, List.getElem_map,
    List.getElem_range]
  cases l[i]? with
  | none => exact flag_mod_two _
  | some r =>
    cases r with
    | none => cases mz <;> simp [flag_mod_two]
    | some b => exact flag_mod_two b

/-! ### The shared forms -/

section
variable {s : State} {t h : Nat} {i : Instr} (r : s.Ready t h)
include r

/-- A vector instruction that gives vD a value whose elements are known. -/
theorem State.Ready.gives_setV {unit : Nat} {legal : Bool} {ss vs : List Nat} {body : State → Thread → Issue}
    (hi : exec i s = ok s (s.issue t h unit legal ss vs body)) (hl : legal = true) (hv : s.Valid t h ss vs) {d b : Nat}
    {v : VReg} {g : Nat → Nat} (hb : body (s.atIssue t h unit) (s.thread t h) =
      .next ((s.atIssue t h unit).modThread t h fun y => y.setV d v)) (hg : ∀ k, k < 2048 / b → elemOf b v k = g k) :
    Gives i s fun u => s.GotElems u t h d b g :=
  gives_ok hi (State.GotV.elems (r.gotV hl hv hb (by rw [State.thread_modThread, s.atIssue_thread])) hg)

/-- A vector instruction that gives vD the values `f` under the mask `m`. -/
theorem State.Ready.gives_masked {unit : Nat} {legal : Bool} {ss vs : List Nat} {body : State → Thread → Issue}
    (hi : exec i s = ok s (s.issue t h unit legal ss vs body)) (hl : legal = true) (hv : s.Valid t h ss vs) {d b : Nat}
    {mz : Bool} {m : Nat → Bool} {f g : Nat → Nat} {u : State}
    (hb : body (s.atIssue t h unit) (s.thread t h) = .next u)
    (hu : u.thread t h = (s.thread t h).setV d (BitVec.ofNat 2048 (mergeElems b mz 0 ((s.thread t h).getV d).toNat
      ((List.range (2048 / b)).map fun k => if m k then some (f k) else none))))
    (hg : ∀ k, f k % 2 ^ b = g k) : Gives i s fun u => s.GotElems u t h d b fun k =>
      if m k then g k else if mz then 0 else elemOf b ((s.thread t h).getV d) k := by
  refine gives_ok hi (r.gotElems hl hv hb hu fun k hk => ?_)
  refine Eq.trans ?_ (if_pos ⟨Nat.zero_le k, by simpa using hk⟩).symm
  rw [Nat.sub_zero, masked_getD _ _ _ _ hk]
  cases m k with
  | true => exact (hg k).symm
  | false => rfl

end

section
variable {s : State} {t : Fin 256} {h : Fin 16} {w : BitVec 56} {i : Instr} (r : s.Ready t h)
include r

/-- The instructions that `vecOp` describes write each element of vD from the elements of vA, vB and vC. -/
theorem State.Ready.gives_vecOp {used b : Nat} {legal : Bool} {f : Nat → Nat → Nat → Nat × Nat} {g : Nat → Nat}
    (hi : exec i s = ok s (s.vecOp t h w used legal b f))
    (hv : s.Valid t h [] ([fD w.toNat, fA w.toNat] ++ (if used &&& useB = 0 then [] else [fB w.toNat]) ++
      (if used &&& useC = 0 then [] else [fC w.toNat])))
    (hl : onlyUses w.toNat (used ||| useMask ||| useMOD) = true) (hlegal : legal = true)
    (hg : ∀ k, (f (elemOf b ((s.thread t h).getV (fA w.toNat)) k) (elemOf b ((s.thread t h).getV (fB w.toNat)) k)
      (elemOf b ((s.thread t h).getV (fC w.toNat)) k)).1 % 2 ^ b = g k) :
    Gives i s fun u => s.GotElems u t h (fD w.toNat) b fun k =>
      if ((s.thread t h).getM (fMK w.toNat)).getLsbD k then g k
      else if fMZ w.toNat then 0 else elemOf b ((s.thread t h).getV (fD w.toNat)) k := by
  refine r.gives_masked hi (by rw [hl, hlegal]; rfl) hv rfl ?_ hg
  rw [State.setFlags_thread, State.thread_modThread, s.atIssue_thread]
  simp only [List.map_map, elem_elemOf]
  congr 3
  refine List.map_congr_left fun k _ => ?_
  rw [Function.comp_apply]
  split <;> rfl

/-- The instructions that `vecCmp` describes write bit `k` of mD for each element `k` and leave the bits above. -/
theorem State.Ready.gives_vecCmp {b : Nat} {legal : Bool} {f : Nat → Nat → Nat → Bool} {g : Nat → Bool}
    (hi : exec i s = ok s (s.vecCmp t h w legal b f)) (hv : s.Valid t h [] [fA w.toNat, fB w.toNat])
    (hl : onlyUses w.toNat (useD ||| useA ||| useB ||| useMask ||| useMOD ||| useEXT) = true) (hlegal : legal = true)
    (hD : fD w.toNat < 8) (hE : fEXT w.toNat ≤ 3)
    (hg : ∀ k, f (fEXT w.toNat) (elemOf b ((s.thread t h).getV (fA w.toNat)) k)
      (elemOf b ((s.thread t h).getV (fB w.toNat)) k) = g k) :
    Gives i s fun u => ∃ v, s.GotM u t h (fD w.toNat) v ∧ ∀ k < 256, v.getLsbD k =
      if k < 2048 / b then
        (if ((s.thread t h).getM (fMK w.toNat)).getLsbD k then g k
        else !fMZ w.toNat && ((s.thread t h).getM (fD w.toNat)).getLsbD k)
      else ((s.thread t h).getM (fD w.toNat)).getLsbD k := by
  obtain ⟨u, hu, hgot⟩ := r.gives_setM hi (by simp [hl, hlegal, hD, hE]) hv rfl
  refine ⟨u, hu, _, hgot, fun k hk => ?_⟩
  rw [getLsbD_mergeBits _ _ _ hk]
  by_cases hlt : k < 2048 / b
  · rw [if_pos hlt, List.getElem?_map, List.getElem?_range hlt, Option.map_some]
    simp only [elem_elemOf, hg]
    split <;> rename_i heq <;> split at heq <;> simp_all
  · rw [if_neg hlt, List.getElem?_eq_none (by simpa using hlt)]

end

/-! ### Integer values (R183) -/

theorem signed_eq_toInt {b : Nat} (hb : 0 < b) (x : Nat) : signed b x = (BitVec.ofNat b x).toInt := by
  have hmsb : bitOf x (b - 1) = (BitVec.ofNat b x).msb := by
    rw [BitVec.msb_eq_getLsbD_last, BitVec.getLsbD_ofNat, decide_eq_true (by omega), Bool.true_and]
    rfl
  rw [signed, hmsb, BitVec.toInt_eq_msb_cond, BitVec.toNat_ofNat]

theorem wrapInt_eq (b : Nat) (v : Int) : wrapInt b v = (BitVec.ofInt b v).toNat := (BitVec.toNat_ofInt ..).symm

theorem intWidth_pos (m : Nat) : 0 < intWidth m := Nat.two_pow_pos _

theorem intSigned_eq (m : Nat) : intSigned m = decide (m % 8 % 2 = 0) := by
  rw [Nat.mod_mod_of_dvd m (by decide)]
  rfl

theorem intVal_eq (m x : Nat) :
    intVal m x = if m % 8 % 2 = 0 then (BitVec.ofNat (intWidth m) x).toInt else (x : Int) := by
  unfold intVal
  rw [intSigned_eq, signed_eq_toInt (intWidth_pos m)]
  simp only [decide_eq_true_eq]

/-- SAT limits a result to the range of its type before it is wrapped. -/
theorem intResult_eq {m : Nat} (hm : m < 16) (v : Int) : intResult m v = (BitVec.ofInt (intWidth m) (if m < 8 then v
    else if m % 8 % 2 = 0 then max (-2 ^ (intWidth m - 1)) (min (2 ^ (intWidth m - 1) - 1) v)
    else max 0 (min (2 ^ intWidth m - 1) v))).toNat := by
  have hsat : bitOf m 3 = !decide (m < 8) := by
    unfold bitOf
    interval_cases m <;> rfl
  unfold intResult
  dsimp only
  rw [wrapInt_eq, hsat, intSigned_eq]
  by_cases h8 : m < 8
  · simp [h8]
  · simp only [h8, decide_false, Bool.not_false, if_true, if_false]
    by_cases h2 : m % 8 % 2 = 0
    · simp only [h2, decide_true, if_true]
      norm_num
    · simp only [h2, decide_false, if_false]
      norm_num

theorem intResult_mod (m : Nat) (v : Int) : intResult m v % 2 ^ intWidth m = intResult m v := by
  unfold intResult
  dsimp only
  rw [wrapInt_eq]
  exact Nat.mod_eq_of_lt (BitVec.isLt _)

/-! ### Integer instructions -/

section
variable {s : State} {t : Fin 256} {h : Fin 16} {w : BitVec 56} {i : Instr} (r : s.Ready t h)
  (hv : s.Valid t h [fD w.toNat, fA w.toNat, fB w.toNat] [fD w.toNat, fA w.toNat, fB w.toNat])
  (hm : intMod (fMOD w.toNat) = true)
include r hv hm

theorem State.Ready.gives_vecInt {f : Nat → Nat → Nat → Nat} {g : Nat → Nat} (hi : exec i s = ok s (s.vecInt t h w f))
    (hl : onlyUses w.toNat (useD ||| useA ||| useB ||| useMask ||| useMOD) = true)
    (hg : ∀ k, f (fMOD w.toNat) (elemOf (intWidth (fMOD w.toNat)) ((s.thread t h).getV (fA w.toNat)) k)
      (elemOf (intWidth (fMOD w.toNat)) ((s.thread t h).getV (fB w.toNat)) k) % 2 ^ intWidth (fMOD w.toNat) = g k) :
    Gives i s fun u => s.GotElems u t h (fD w.toNat) (intWidth (fMOD w.toNat)) fun k =>
      if ((s.thread t h).getM (fMK w.toNat)).getLsbD k then g k
      else if fMZ w.toNat then 0 else elemOf (intWidth (fMOD w.toNat)) ((s.thread t h).getV (fD w.toNat)) k :=
  r.gives_vecOp (used := useD ||| useA ||| useB) (f := fun a b _ => (f (fMOD w.toNat) a b, 0)) hi
    (hv.mono (by simp) (by rw [if_neg (by decide), if_pos (by decide)]; simp)) hl hm hg

theorem iVsel_result (hl : onlyUses w.toNat (useD ||| useA ||| useB ||| useMK ||| useMOD) = true) :
    Gives (.iVsel t h w) s fun u => s.GotElems u t h (fD w.toNat) (intWidth (fMOD w.toNat)) fun k =>
      if ((s.thread t h).getM (fMK w.toNat)).getLsbD k then elemOf (intWidth (fMOD w.toNat)) ((s.thread t h).getV (fA w.toNat)) k
      else elemOf (intWidth (fMOD w.toNat)) ((s.thread t h).getV (fB w.toNat)) k := by
  refine r.gives_setV rfl (by rw [hl, hm]; rfl) (hv.mono (by simp) (by simp)) rfl fun k hk => ?_
  rw [elemOf_pack _ _ _ (by simpa using Nat.mul_div_le 2048 _) (by simpa using hk)]
  simp only [List.getElem_map, List.getElem_range, elem_elemOf]
  split <;> exact Nat.mod_eq_of_lt (elemOf_lt ..)

theorem iVbcast_result (hl : onlyUses w.toNat (useD ||| useA ||| useMask ||| useMOD) = true) :
    Gives (.iVbcast t h w) s fun u => s.GotElems u t h (fD w.toNat) (intWidth (fMOD w.toNat)) fun k =>
      if ((s.thread t h).getM (fMK w.toNat)).getLsbD k then
        ((s.thread t h).getS (fA w.toNat)).toNat % 2 ^ intWidth (fMOD w.toNat)
      else if fMZ w.toNat then 0 else elemOf (intWidth (fMOD w.toNat)) ((s.thread t h).getV (fD w.toNat)) k :=
  r.gives_masked rfl (by rw [hl, hm]; rfl) (hv.mono (by simp) (by simp)) rfl
    (by rw [State.thread_modThread, s.atIssue_thread]) fun _ => Nat.mod_mod _ _

theorem iVext_result (hl : onlyUses w.toNat (useD ||| useA ||| useB ||| useMOD) = true) :
    Gives (.iVext t h w) s fun u => s.GotS u t h (fD w.toNat) (BitVec.ofInt 64 (intVal (fMOD w.toNat)
      (elemOf (intWidth (fMOD w.toNat)) ((s.thread t h).getV (fA w.toNat))
        (((s.thread t h).getS (fB w.toNat)).toNat % (2048 / intWidth (fMOD w.toNat)))))) ((s.thread t h).pc + 8) :=
  r.gives_setS rfl (by rw [hl, hm]; rfl) (hv.mono (by simp) (by simp)) (by rw [elem_elemOf])

end

theorem ite_lt_of_lt {p : Prop} [Decidable p] {a b c : Nat} (ha : a < c) (hb : b < c) : (if p then a else b) < c := by
  split
  · exact ha
  · exact hb

/-- Settles O13: every element of the destination is a function of the same element of the operands; the functions agree with
the two's complement reading of the types. -/
theorem vectorIntegerResults : Obligations.VectorIntegerResults := by
  intro s t h w r hv n y T b m val lim res va vb masked op hm hT
  have hmod : intMod (fMOD n) = true := intMod_of_type ⟨hm, hT⟩
  have hval (x : Nat) : intVal (fMOD n) x = val x := intVal_eq _ x
  have hres (v : Int) : intResult (fMOD n) v = res v := intResult_eq hm v
  refine ⟨fun hl => ?_, fun hl => iVsel_result r hv hmod hl, fun hl => iVbcast_result r hv hmod hl, fun hl => ?_,
    fun hl hD hE => ?_⟩
  · have hva (k : Nat) : va k < 2 ^ b := elemOf_lt ..
    have hvb (k : Nat) : vb k < 2 ^ b := elemOf_lt ..
    have hop {c : Instr} {f : Nat → Nat → Nat → Nat} {g : Nat → Nat} (hi : exec c s = ok s (s.vecInt t h w f))
        (hf : ∀ k, f (fMOD n) (va k) (vb k) = g k) (hg : ∀ k, g k < 2 ^ b) :
        Gives c s fun u => s.GotElems u t h (fD n) b (masked g) :=
      r.gives_vecInt hv hmod hi hl fun k =>
        (congrArg (· % 2 ^ b) (hf k)).trans (Nat.mod_eq_of_lt (hg k))
    have hwrap (v : Int) : res v < 2 ^ b := BitVec.isLt _
    refine ⟨hop rfl (fun k => by rw [hval, hval, hres]) fun k => hwrap _,
      hop rfl (fun k => by rw [hval, hval, hres]) fun k => hwrap _,
      hop rfl (fun k => by rw [hval, hval, hres]) fun k => hwrap _,
      hop rfl (fun k => by rw [hval, hval]) fun k => ?_, hop rfl (fun k => by rw [hval, hval]) fun k => ?_,
      hop rfl (fun _ => rfl) fun k => Nat.and_lt_two_pow _ (hvb k),
      hop rfl (fun _ => rfl) fun k => Nat.or_lt_two_pow (hva k) (hvb k),
      hop rfl (fun _ => rfl) fun k => Nat.xor_lt_two_pow (hva k) (hvb k),
      hop rfl (fun k => by rw [hval, hres, Nat.cast_pow]; rfl) fun k => hwrap _,
      hop rfl (fun k => by rw [hval, hres, Nat.cast_pow]; rfl) fun k => hwrap _⟩
    · exact ite_lt_of_lt (hva k) (hvb k)
    · exact ite_lt_of_lt (hvb k) (hva k)
  · have := iVext_result r hv hmod hl
    rwa [hval] at this
  · refine r.gives_vecCmp rfl (hv.mono (by simp) (by simp)) hl hmod hD hE fun k => ?_
    rewrite [hval, hval, beq_eq_decide, bne, beq_eq_decide, ← decide_not]
    rfl

end Sys2Proof.Machine
end

section
/-! What an instruction that goes on leaves in a calm tile, and atomics on the own SRAM (O11, R199). -/

namespace Sys2Proof.Machine

theorem Gives.and {i : Instr} {s : State} {P Q : State → Prop} (hp : Gives i s P) (hq : Gives i s Q) :
    Gives i s fun u => P u ∧ Q u := by
  obtain ⟨u, hu, hpu⟩ := hp
  obtain ⟨v, hv, hqv⟩ := hq
  obtain rfl : u = v := by
    rw [hu] at hv
    injection hv
  exact ⟨u, hu, hpu, hqv⟩

theorem State.Looked.commit {s u x : State} {t : Nat} (h : u.Looked t x) : u.Looked t (s.commit x) where
  mem := (State.commit_mem s x).trans h.mem
  regs := (State.commit_regs s x).trans h.regs
  out := (State.commit_out s x).trans h.out
  poison := (State.commit_poison s x).trans h.poison
  xin := (State.commit_xin s x).trans h.xin
  sets := (State.commit_sets s x).trans h.sets
  other := h.other
  tile := h.tile

/-- A tile stays calm while its threads live on, no stream starts and one of its threads goes on. -/
theorem State.Calm.advanced {s u : State} {t : Nat} (c : s.Calm t) (h : Nat) (hsets : u.sets = s.sets)
    (hthreads : ∀ v k, (s.thread v k).LivesOn (u.thread v k)) (hstreams : (u.tile t).streams = (s.tile t).streams) :
    (u.modThread t h Thread.advance).Calm t :=
  (State.modThread_wrote Thread.advance_livesOn).calm (c.of_livesOn hsets hthreads hstreams)

/-- An instruction that goes on in a calm tile leaves its own effect and what one look at the threads comes to. -/
theorem State.Ready.gives_looked {s : State} {t h unit : Nat} {legal : Bool} {ss vs : List Nat} {body : State → Thread → Issue}
    {i : Instr} (r : s.Ready t h) (c : s.Calm t) (hi : exec i s = ok s (s.issue t h unit legal ss vs body)) (hl : legal = true)
    (hv : s.Valid t h ss vs) (hown : ownRange t ((s.thread t h).pc + 8).toNat 8 = true) {u : State}
    (hb : body (s.atIssue t h unit) (s.thread t h) = .next u) (hpc : (u.thread t h).pc = (s.thread t h).pc)
    (hsets : u.sets = s.sets) (hthreads : ∀ v k, (s.thread v k).LivesOn (u.thread v k))
    (hstreams : (u.tile t).streams = (s.tile t).streams) : Gives i s ((u.modThread t h Thread.advance).Looked t) :=
  (r.gives_next_run hi hl hv hown hb hpc).mono fun _ hz => hz ▸ (c.advanced h hsets hthreads hstreams).looked.commit

/-- An instruction that wrote registers of its thread leaves every thread as thread sets and ends look at it. -/
theorem State.Wrote.livesOn {t h : Nat} {s u : State} (hw : s.Wrote t h u) (v k : Nat) :
    (s.thread v k).LivesOn (u.thread v k) := by
  by_cases hv : v = t
  · subst hv
    by_cases hk : k = h
    · subst hk
      exact hw.lives
    · rw [hw.threads k hk]
      exact .refl _
  · rw [State.thread, State.thread, hw.other v hv]
    exact .refl _

/-- The same for one whose effect on the tiles is to write registers of its thread. -/
theorem State.Ready.gives_looked_of_wrote {s : State} {t h unit : Nat} {legal : Bool} {ss vs : List Nat}
    {body : State → Thread → Issue} {i : Instr} (r : s.Ready t h) (c : s.Calm t)
    (hi : exec i s = ok s (s.issue t h unit legal ss vs body)) (hl : legal = true) (hv : s.Valid t h ss vs)
    (hown : ownRange t ((s.thread t h).pc + 8).toNat 8 = true) {u v : State}
    (hb : body (s.atIssue t h unit) (s.thread t h) = .next u) (hpc : (u.thread t h).pc = (s.thread t h).pc)
    (hsets : u.sets = s.sets) (hw : (s.atIssue t h unit).Wrote t h v) (htiles : u.tiles = v.tiles) :
    Gives i s ((u.modThread t h Thread.advance).Looked t) := by
  have hwrote := (s.atIssue_wrote t h unit).trans hw
  have htile (j : Nat) : u.tile j = v.tile j := by rw [State.tile, htiles, ← State.tile]
  refine r.gives_looked c hi hl hv hown hb hpc hsets (fun j k => ?_) ?_
  · have hthread : u.thread j k = v.thread j k := by rw [State.thread, htile, ← State.thread]
    exact hthread ▸ hwrote.livesOn j k
  · obtain ⟨_, _, _, hx⟩ := hwrote.tile
    rw [htile, hx]

/-- Thread `h` with register `d` written, gone on. -/
theorem State.gotS_of_thread {s u : State} {t h d : Nat} {v : Word}
    (hu : u.thread t h = Thread.advance ((s.thread t h).setS d v)) : s.GotS u t h d v ((s.thread t h).pc + 8) := by
  obtain ⟨hv, hm, hpc, -⟩ := (s.thread t h).setS_fields d v
  have hS (k : Nat) : (u.thread t h).getS k = ((s.thread t h).setS d v).getS k := by
    rw [hu]
    rfl
  refine ⟨?_, fun k hk => ?_, fun k => ?_, fun k => ?_, ?_⟩
  · rw [hS, Thread.getS_setS, if_pos rfl]
  · rw [hS, Thread.getS_setS, if_neg hk]
    split
    · next hk => simp [hk, Thread.getS]
    · rfl
  · rw [hu, ← Thread.getV_congr hv]
    rfl
  · rw [hu, ← Thread.getM_congr hm]
    rfl
  · rw [hu, ← hpc]
    rfl

/-! ### Atomics -/

theorem State.ownEngine_inside {s : State} {t a k : Nat} (hown : ownRange t a k = true)
    (hweir : s.inWeir t (a % tileBytes) k = false) (hcomb : s.inCombine t (a % tileBytes) k = false) :
    s.ownEngine t a k = false := by
  obtain ⟨hlo, hhi⟩ : t * tileBytes ≤ a ∧ a + k ≤ (t + 1) * tileBytes := by simpa [ownRange] using hown
  unfold State.ownEngine
  dsimp only
  rw [Nat.max_eq_left hlo, Nat.min_eq_left hhi, Nat.add_sub_cancel_left, hweir, hcomb]
  simp

theorem lt_of_ownRange {t : Fin 256} {a k : Nat} (hown : ownRange t a k = true) : a < 2 ^ 48 := by
  obtain ⟨-, hhi⟩ : t * tileBytes ≤ a ∧ a + k ≤ (t + 1) * tileBytes := by simpa [ownRange] using hown
  have := t.isLt
  simp only [tileBytes] at hhi
  omega

theorem State.perform_atomic {s : State} {a : Nat} {wide : Bool} (h : s.poisoned a (if wide then 8 else 4) = false) (f : Nat)
    (un : Bool) (b c : Word) : s.perform a (.atomic f wide un b c) = (.ok, s.load a (if wide then 8 else 4),
      s.put a (toBytes (if wide then 8 else 4) (atomicResult f (8 * (if wide then 8 else 4)) un
        (s.load a (if wide then 8 else 4)) b.toNat c.toNat))) := by
  unfold State.perform
  simp only [h]
  rfl

/-- Bytes that an atomic of the own tile may act on (R199, R201): aligned, in the own SRAM, in no region of an engine and
without an error. -/
structure State.AmoAt (s : State) (t : Fin 256) (a k : Nat) : Prop where
  aligned : a % k = 0
  own : ownRange t a k = true
  weir : s.inWeir t (a % tileBytes) k = false
  combine : s.inCombine t (a % tileBytes) k = false
  clean : s.poisoned a k = false

/-- A code of a layout whose NaN lies below its sign bit fits its width. -/
theorem Layout.encodeIEEE_lt {l : Layout} (hw : 0 < l.w) (h : l.top + 1 + 2 ^ (l.p - 2) < 2 ^ (l.w - 1)) (sat : Bool)
    (r : Option Nat) (x : FNum) : (l.encodeIEEE sat r x).1 < 2 ^ l.w := by
  have hpow : 2 ^ l.w = 2 ^ (l.w - 1) + 2 ^ (l.w - 1) := by
    rw [← Nat.two_mul, ← Nat.pow_succ', Nat.succ_eq_add_one, Nat.sub_add_cancel hw]
  have hround (m : Nat) (e : Int) : (l.round r m e).1 ≤ l.top := by
    unfold Layout.round
    dsimp only
    split
    · exact Nat.le_refl _
    · rename_i hle
      simpa using hle
  rw [hpow]
  unfold Layout.encodeIEEE
  dsimp only
  generalize 2 ^ (l.w - 1) = top, 2 ^ (l.p - 2) = quiet at h
  have hsgn (b : Bool) : (if b then top else 0) ≤ top := by split <;> omega
  cases x with
  | nan =>
    show l.top + 1 + quiet < top + top
    omega
  | inf n =>
    have := hsgn n
    dsimp only
    split <;> dsimp only <;> omega
  | fin n m e =>
    have := hsgn n
    have := hround m e
    dsimp only
    have hsat : (if sat then l.top else l.top + 1) ≤ l.top + 1 := by split <;> omega
    split <;> dsimp only <;> omega

/-- What an atomic stores fits its word. -/
theorem atomicResult_lt {w old : Nat} (hw : 32 ≤ w) (hold : old < 2 ^ w) (f : Nat) (un : Bool) (b c : Nat) :
    atomicResult f w un old b c < 2 ^ w := by
  have hb : b % 2 ^ w < 2 ^ w := Nat.mod_lt _ (Nat.two_pow_pos w)
  unfold atomicResult
  dsimp only
  split
  · exact Nat.mod_lt _ (Nat.two_pow_pos w)
  · exact Nat.and_lt_two_pow _ hb
  · exact Nat.or_lt_two_pow hold hb
  · exact Nat.xor_lt_two_pow hold hb
  · exact ite_lt_of_lt hb hold
  · exact ite_lt_of_lt hold hb
  · exact hb
  · exact ite_lt_of_lt hb hold
  · exact Nat.lt_of_lt_of_le (Layout.encodeIEEE_lt (l := fp32) (by decide) (by decide) _ _ _)
      (Nat.pow_le_pow_right (by decide) hw)

/-- Bytes, address, old and new word of atomic `f` (R199). -/
def amoSize (n : Nat) : Nat := if bitOf (fMOD n) 0 then 8 else 4
def Thread.amoAddr (y : Thread) (n : Nat) : Nat := (y.getS (fA n)).toNat
def State.amoOld (s : State) (y : Thread) (n : Nat) : Nat := s.load (y.amoAddr n) (amoSize n)
def State.amoNew (s : State) (y : Thread) (n f : Nat) : Nat :=
  atomicResult f (8 * amoSize n) (bitOf (fMOD n) 1) (s.amoOld y n) (y.getS (fB n)).toNat (y.getS (fC n)).toNat

theorem State.amoNew_lt {s : State} {y : Thread} {n f : Nat} : s.amoNew y n f < 256 ^ amoSize n := by
  have hold := s.load_lt (y.amoAddr n) (amoSize n)
  rw [pow_bytes] at hold ⊢
  refine atomicResult_lt ?_ hold ..
  unfold amoSize
  split <;> decide

section
variable {s : State} {t : Fin 256} {h : Fin 16} {w : BitVec 56} {i : Instr} {f : Nat}

/-- The state that atomic `f` leaves before its thread goes on. -/
def State.amoDone (s : State) (t : Fin 256) (h : Fin 16) (w : BitVec 56) (f : Nat) : State :=
  let y := s.thread t h
  ((s.atIssue t h 1).put (y.amoAddr w.toNat) (toBytes (amoSize w.toNat) (s.amoNew y w.toNat f))).modThread t h fun x =>
    x.setS (fD w.toNat) (BitVec.ofNat 64 (s.amoOld y w.toNat))

theorem State.thread_amoDone : (s.amoDone t h w f).thread t h =
    (s.thread t h).setS (fD w.toNat) (BitVec.ofNat 64 (s.amoOld (s.thread t h) w.toNat)) := by
  unfold State.amoDone
  rw [State.thread_modThread, State.thread, State.tile, State.put_tiles, ← State.tile, ← State.thread, s.atIssue_thread]

theorem State.modThread_tiles_congr {s u : State} (h : u.tiles = s.tiles) (t k : Nat) (f : Thread → Thread) :
    (u.modThread t k f).tiles = (s.modThread t k f).tiles := by
  have htile (j : Nat) : u.tile j = s.tile j := by rw [State.tile, h, ← State.tile]
  unfold State.modThread State.modTile State.setTile
  rw [State.putTiles_tiles, State.putTiles_tiles, htile, h]

theorem State.tiles_amoDone : (s.amoDone t h w f).tiles = ((s.atIssue t h 1).modThread t h fun x =>
    x.setS (fD w.toNat) (BitVec.ofNat 64 (s.amoOld (s.thread t h) w.toNat))).tiles := by
  unfold State.amoDone
  exact State.modThread_tiles_congr (State.put_tiles _ _ _) _ _ _

theorem State.mem_amoDone : (s.amoDone t h w f).mem = (s.put ((s.thread t h).amoAddr w.toNat)
    (toBytes (amoSize w.toNat) (s.amoNew (s.thread t h) w.toNat f))).mem := by
  obtain ⟨l, hl⟩ := s.atIssue_onlyTiles t h 1
  unfold State.amoDone
  rw [State.modThread_mem, hl]
  rfl

/-- An atomic on the own SRAM goes on from the state in which it has been performed. -/
theorem State.Ready.gives_amo (r : s.Ready t h) (c : s.Calm t) (hi : exec i s = ok s (s.amo t h w f))
    (hv : s.Valid t h [fD w.toNat, fA w.toNat, fB w.toNat, fC w.toNat] [])
    (hat : s.AmoAt t ((s.thread t h).amoAddr w.toNat) (amoSize w.toNat))
    (hown : ownRange t ((s.thread t h).pc + 8).toNat 8 = true)
    (hl : onlyUses w.toNat (useD ||| useA ||| useB ||| useMOD ||| (if f = 7 then useC else 0)) = true)
    (hm : fMOD w.toNat ≤ (if f = 8 then 0 else if f = 4 || f = 5 then 3 else 1)) :
    Gives i s (((s.amoDone t h w f).modThread t h Thread.advance).Looked t) := by
  obtain ⟨haligned, hrange, hweir, hcomb, hclean⟩ := hat
  obtain ⟨l, honly⟩ := s.atIssue_onlyTiles t h 1
  have hload (a k : Nat) : (s.atIssue t h 1).load a k = s.load a k := by rw [honly]; rfl
  have hfault := address_noFault haligned (lt_of_ownRange hrange)
    (((s.atIssue_onlyTiles t h 1).ownEngine _ _ _).trans (State.ownEngine_inside hrange hweir hcomb))
  have hperform := State.perform_atomic (s := s.atIssue t h 1) (wide := bitOf (fMOD w.toNat) 0)
    (a := (s.thread t h).amoAddr w.toNat) (by rw [honly]; exact hclean) f (bitOf (fMOD w.toNat) 1)
    ((s.thread t h).getS (fB w.toNat)) ((s.thread t h).getS (fC w.toNat))
  rw [hload] at hperform
  have hvalue (a k : Nat) : loadValue (8 * k) false (s.load a k) = BitVec.ofNat 64 (s.load a k) := by
    simp only [loadValue, Bool.false_eq_true, if_false]
    rw [Nat.mod_eq_of_lt (by simpa [pow_bytes] using s.load_lt a k)]
  have hdone : (s.amoDone t h w f).sets = s.sets := by
    unfold State.amoDone
    rw [honly]
    rfl
  have hpc : ((s.amoDone t h w f).thread t h).pc = (s.thread t h).pc := by rw [State.thread_amoDone, Thread.setS_pc]
  simp only [amoSize, Thread.amoAddr] at hfault hrange hperform
  refine r.gives_looked_of_wrote c hi (by rw [hl, decide_eq_true hm]; rfl) hv hown (u := s.amoDone t h w f) ?_ hpc hdone
    (State.modThread_wrote fun y => y.setS_livesOn _ _) State.tiles_amoDone
  simp only [hfault, hrange, hperform, hvalue]
  rfl

/-- The old word goes to sD and the new one to memory, where nothing else changes. -/
theorem State.Ready.amo_result (r : s.Ready t h) (c : s.Calm t) (hi : exec i s = ok s (s.amo t h w f))
    (hv : s.Valid t h [fD w.toNat, fA w.toNat, fB w.toNat, fC w.toNat] [])
    (hat : s.AmoAt t ((s.thread t h).amoAddr w.toNat) (amoSize w.toNat))
    (hown : ownRange t ((s.thread t h).pc + 8).toNat 8 = true)
    (hl : onlyUses w.toNat (useD ||| useA ||| useB ||| useMOD ||| (if f = 7 then useC else 0)) = true)
    (hm : fMOD w.toNat ≤ (if f = 8 then 0 else if f = 4 || f = 5 then 3 else 1)) :
    Gives i s fun u => s.GotS u t h (fD w.toNat) (BitVec.ofNat 64 (s.amoOld (s.thread t h) w.toNat))
        ((s.thread t h).pc + 8) ∧
      u.load ((s.thread t h).amoAddr w.toNat) (amoSize w.toNat) = s.amoNew (s.thread t h) w.toNat f ∧
      ∀ x, x < (s.thread t h).amoAddr w.toNat ∨ (s.thread t h).amoAddr w.toNat + amoSize w.toNat ≤ x →
        Memory.read u.mem x = Memory.read s.mem x := by
  refine (r.gives_amo c hi hv hat hown hl hm).mono fun u hu => ⟨State.gotS_of_thread ?_, ?_, fun x hx => ?_⟩
  · rw [hu.thread, State.thread_modThread, State.thread_amoDone]
  · have hmem := hu.mem.trans ((State.modThread_mem _ _ _ _).trans State.mem_amoDone)
    rw [State.load_congr (s := s.put _ _) fun j _ => by rw [hmem], State.load_put_number _ _ State.amoNew_lt]
  · rw [hu.mem, State.modThread_mem, State.mem_amoDone]
    exact State.read_put_out _ (by rwa [toBytes_length])

end

/-- Settles O11: an atomic on the own SRAM goes on from the state in which the new word stands in memory and sD holds the old
one, and in a calm tile nothing but the release of what ended threads held follows. -/
theorem atomicResults : Obligations.AtomicResults := by
  intro s t h w r c hv n y a k old b cc less does haligned hrange hweir hcomb hclean hown
  have hat : s.AmoAt t (y.amoAddr n) (amoSize n) := ⟨haligned, hrange, hweir, hcomb, hclean⟩
  have hresult {i : Instr} {f v : Nat} (hi : exec i s = ok s (s.amo t h w f))
      (hl : onlyUses n (useD ||| useA ||| useB ||| useMOD ||| (if f = 7 then useC else 0)) = true)
      (hm : fMOD n ≤ (if f = 8 then 0 else if f = 4 || f = 5 then 3 else 1)) (hf : s.amoNew y n f = v) : does i v :=
    hf ▸ r.amo_result c hi hv hat hown hl hm
  have hless : (if bitOf (fMOD n) 1 then decide (b < old) else decide (signed (8 * k) b < signed (8 * k) old)) = true ↔ less := by
    show _ ↔ (if bitOf (fMOD n) 1 then b < old else signed (8 * k) b < signed (8 * k) old)
    split <;> exact decide_eq_true_iff
  refine ⟨fun hl => ⟨fun hm => ⟨hresult rfl hl hm rfl, hresult rfl hl hm rfl, hresult rfl hl hm rfl, hresult rfl hl hm rfl,
    hresult rfl hl hm rfl⟩, fun hm => ⟨fun hlt => ?_, fun hge => ?_⟩, fun hm => ?_⟩, fun hl hm => hresult rfl hl hm rfl⟩
  · have hpos := hless.mpr hlt
    exact ⟨hresult rfl hl hm (if_pos hpos), hresult rfl hl hm (if_pos hpos)⟩
  · have hneg := mt hless.mp hge
    exact ⟨hresult rfl hl hm (if_neg hneg), hresult rfl hl hm (if_neg hneg)⟩
  · refine hresult rfl hl (Nat.le_of_eq hm) ?_
    have hk : k = 4 := by simp only [k, hm]; rfl
    have hold : old < 2 ^ 32 := by
      have : old < 256 ^ k := s.load_lt a k
      rwa [hk] at this
    have hb : b < 2 ^ 32 := by
      have : b < 2 ^ (8 * k) := Nat.mod_lt _ (Nat.two_pow_pos _)
      rwa [hk] at this
    show (fp32.encodeIEEE false none ((fp32.decodeIEEE (old % 2 ^ 32)).add (fp32.decodeIEEE (b % 2 ^ 32))).1).1 = _
    rw [Nat.mod_eq_of_lt hold, Nat.mod_eq_of_lt hb]

end Sys2Proof.Machine
end

section
/-! Floating-point vector instructions and the sticky flags they set (O15, R134, R184). -/

namespace Sys2Proof.Machine

/-! ### Element results -/

theorem floatLayout_eq (m : Nat) :
    floatLayout m = if m % 4 = 0 then fp32 else if m % 4 = 1 then bf16 else fp16 := by
  unfold floatLayout
  split
  · next h => rw [if_pos h]
  · next h => rw [if_neg (by omega), if_pos h]
  · next h0 h1 => rw [if_neg h0, if_neg h1]

theorem floatMod_of_type {m : Nat} (ht : m % 4 ≤ 2) (hm : m / 4 = 0 ∨ m / 4 = 4) : floatMod m = true := by
  rcases hm with h | h <;> simp [floatMod, ht, h]

/-- The registers that `vecOp` names are those of the word. -/
theorem State.Valid.vecOp {s : State} {t h n : Nat} (hv : s.Valid t h [] [fD n, fA n, fB n, fC n]) (used : Nat) :
    s.Valid t h [] ([fD n, fA n] ++ (if used &&& useB = 0 then [] else [fB n]) ++
      (if used &&& useC = 0 then [] else [fC n])) := by
  refine hv.mono (by simp) ?_
  split <;> split <;> simp

section
variable {s : State} {t : Fin 256} {h : Fin 16} {w : BitVec 56} {i : Instr} (r : s.Ready t h)
  (hv : s.Valid t h [] [fD w.toNat, fA w.toNat, fB w.toNat, fC w.toNat])
include r hv

/-- A floating-point instruction whose result is `g` rounded once, with overflow limited when `z`. -/
theorem State.Ready.gives_vecFloat {used : Nat} {z : Bool} {f : Nat → FNum → FNum → FNum → Nat × Nat} {g : Nat → FNum}
    (hi : exec i s = ok s (s.vecFloat t h w used f)) (hl : onlyUses w.toNat (used ||| useMask ||| useMOD) = true)
    (hm : floatMod (fMOD w.toNat) = true)
    (hg : ∀ k, (f (fMOD w.toNat)
      ((floatLayout (fMOD w.toNat)).decodeIEEE (elemOf (floatLayout (fMOD w.toNat)).w ((s.thread t h).getV (fA w.toNat)) k))
      ((floatLayout (fMOD w.toNat)).decodeIEEE (elemOf (floatLayout (fMOD w.toNat)).w ((s.thread t h).getV (fB w.toNat)) k))
      ((floatLayout (fMOD w.toNat)).decodeIEEE (elemOf (floatLayout (fMOD w.toNat)).w ((s.thread t h).getV (fC w.toNat)) k))).1 =
      ((floatLayout (fMOD w.toNat)).encodeIEEE z none (g k)).1) :
    Gives i s fun u => s.GotElems u t h (fD w.toNat) (floatLayout (fMOD w.toNat)).w fun k =>
      if ((s.thread t h).getM (fMK w.toNat)).getLsbD k then
        ((floatLayout (fMOD w.toNat)).encodeIEEE z none (g k)).1 % 2 ^ (floatLayout (fMOD w.toNat)).w
      else if fMZ w.toNat then 0 else elemOf (floatLayout (fMOD w.toNat)).w ((s.thread t h).getV (fD w.toNat)) k :=
  r.gives_vecOp (used := used) (f := fun a b c => f (fMOD w.toNat) ((floatLayout (fMOD w.toNat)).decodeIEEE a)
    ((floatLayout (fMOD w.toNat)).decodeIEEE b) ((floatLayout (fMOD w.toNat)).decodeIEEE c)) hi (hv.vecOp used) hl hm
    fun k => by rw [hg]

end

/-! ### Sticky flags (R134) -/

/-- Flag `i` of an engine set, as `setFlags` does for each of the four. -/
def State.setFlag (t engine f : Nat) (ctx : Option Nat) (s : State) (i : Nat) : State :=
  let n := 4 * engine + i
  if bitOf f i && !bitOf (s.rd (TILE_FP_FLAGS t)).toNat n then
    let s := s.wr (TILE_FP_FLAGS t) (s.rd (TILE_FP_FLAGS t) ||| BitVec.ofNat 64 (2 ^ n))
    if bitOf (s.rd (TILE_FP_EVT t)).toNat n then s.notice 0 0x0009 (sourceOf 1 t) 0 n (some (ctx.getD (s.tile t).ctx)) else s
  else s

theorem State.setFlags_eq (s : State) (t engine f : Nat) (ctx : Option Nat) :
    s.setFlags t engine f ctx = (List.range 4).foldl (State.setFlag t engine f ctx) s := rfl

theorem State.sets_setFlag (t engine f : Nat) (ctx : Option Nat) (s : State) (i : Nat) :
    (State.setFlag t engine f ctx s i).sets = s.sets := by
  unfold State.setFlag
  dsimp only
  split
  · split
    · rw [State.notice_sets, State.wr_sets]
    · exact State.wr_sets _ _ _
  · rfl

theorem State.sets_setFlags (s : State) (t engine f : Nat) (ctx : Option Nat) : (s.setFlags t engine f ctx).sets = s.sets :=
  foldl_keep State.sets _ (fun s i => State.sets_setFlag t engine f ctx s i) _ _

theorem State.rd_setFlag (t engine f : Nat) (ctx : Option Nat) (s : State) (i : Nat) :
    (State.setFlag t engine f ctx s i).rd (TILE_FP_FLAGS t) =
      if bitOf f i && !bitOf (s.rd (TILE_FP_FLAGS t)).toNat (4 * engine + i) then
        s.rd (TILE_FP_FLAGS t) ||| BitVec.ofNat 64 (2 ^ (4 * engine + i))
      else s.rd (TILE_FP_FLAGS t) := by
  have hquiet : (TILE_FP_FLAGS t).quiet := by simp [Reg.quiet, TILE_FP_FLAGS]
  unfold State.setFlag
  dsimp only
  split
  · split
    · rw [(State.notice_only _ ..).rd _ hquiet, State.rd_wr_same]
    · exact State.rd_wr_same _ _ _
  · rfl

theorem State.bit_setFlag (t engine f : Nat) (ctx : Option Nat) (s : State) (i : Nat) {k : Nat} (hk : k < 64) :
    bitOf ((State.setFlag t engine f ctx s i).rd (TILE_FP_FLAGS t)).toNat k =
      (bitOf (s.rd (TILE_FP_FLAGS t)).toNat k || (decide (4 * engine + i = k) && bitOf f i)) := by
  rw [State.rd_setFlag]
  have hor : bitOf (s.rd (TILE_FP_FLAGS t) ||| BitVec.ofNat 64 (2 ^ (4 * engine + i))).toNat k =
      (bitOf (s.rd (TILE_FP_FLAGS t)).toNat k || decide (4 * engine + i = k)) := by
    show BitVec.getLsbD _ k = (BitVec.getLsbD _ k || _)
    rw [BitVec.getLsbD_or, BitVec.getLsbD_ofNat, Nat.testBit_two_pow, decide_eq_true hk, Bool.true_and]
  by_cases hn : 4 * engine + i = k
  · subst hn
    cases hf : bitOf f i <;> cases hb : bitOf (s.rd (TILE_FP_FLAGS t)).toNat (4 * engine + i) <;> simp_all
  · split
    · rw [hor]
      simp [hn]
    · simp [hn]

/-- Setting the flags `f` of an engine sets its bits of TILE_FP_FLAGS and no other. -/
theorem State.bit_setFlags (s : State) (t engine f : Nat) (ctx : Option Nat) {k : Nat} (hk : k < 64) :
    bitOf ((s.setFlags t engine f ctx).rd (TILE_FP_FLAGS t)).toNat k =
      (bitOf (s.rd (TILE_FP_FLAGS t)).toNat k ||
        (decide (4 * engine ≤ k) && decide (k < 4 * engine + 4) && bitOf f (k - 4 * engine))) := by
  have hfirst (j : Nat) : bitOf (((List.range j).foldl (State.setFlag t engine f ctx) s).rd (TILE_FP_FLAGS t)).toNat k =
      (bitOf (s.rd (TILE_FP_FLAGS t)).toNat k ||
        (decide (4 * engine ≤ k) && decide (k < 4 * engine + j) && bitOf f (k - 4 * engine))) := by
    induction j with
    | zero =>
      have : (decide (4 * engine ≤ k) && decide (k < 4 * engine + 0)) = false := by simp
      rw [this, Bool.false_and, Bool.or_false]
      rfl
    | succ j ih =>
      rw [List.range_succ, List.foldl_append, List.foldl_cons, List.foldl_nil, State.bit_setFlag _ _ _ _ _ _ hk, ih,
        Bool.or_assoc]
      congr 1
      by_cases hn : 4 * engine + j = k
      · subst hn
        simp
      · have hlt : k < 4 * engine + (j + 1) ↔ k < 4 * engine + j := by omega
        simp [hn, hlt]
  exact hfirst 4

theorem testBit_foldl_or {α : Type} (g : α → Nat) (l : List α) (a j : Nat) :
    (l.foldl (fun a x => a ||| g x) a).testBit j = (a.testBit j || l.any fun x => (g x).testBit j) := by
  induction l generalizing a with
  | nil => simp
  | cons x l ih => rw [List.foldl_cons, ih, Nat.testBit_or, List.any_cons, Bool.or_assoc]

section
variable {s : State} {t : Fin 256} {h : Fin 16} {w : BitVec 56} {i : Instr}

/-- The instructions that `vecOp` describes set each VU flag that an element under the mask raises (R134). -/
theorem State.Ready.gives_vecOp_flags (r : s.Ready t h) (c : s.Calm t)
    (hv : s.Valid t h [] [fD w.toNat, fA w.toNat, fB w.toNat, fC w.toNat])
    (hown : ownRange t ((s.thread t h).pc + 8).toNat 8 = true) {used b : Nat} {legal : Bool}
    {f : Nat → Nat → Nat → Nat × Nat} {g : Nat → Nat} (hi : exec i s = ok s (s.vecOp t h w used legal b f))
    (hl : onlyUses w.toNat (used ||| useMask ||| useMOD) = true) (hlegal : legal = true)
    (hg : ∀ k, (f (elemOf b ((s.thread t h).getV (fA w.toNat)) k) (elemOf b ((s.thread t h).getV (fB w.toNat)) k)
      (elemOf b ((s.thread t h).getV (fC w.toNat)) k)).2 = g k) :
    Gives i s fun u => ∀ k < 64, bitOf (u.rd (TILE_FP_FLAGS t)).toNat k = (bitOf (s.rd (TILE_FP_FLAGS t)).toNat k ||
      (decide (4 ≤ k) && decide (k < 8) && (List.range (2048 / b)).any fun j =>
        ((s.thread t h).getM (fMK w.toNat)).getLsbD j && bitOf (g j) (k - 4))) := by
  obtain ⟨l, honly⟩ := s.atIssue_onlyTiles t h 2
  have hrd : (s.atIssue t h 2).rd (TILE_FP_FLAGS t) = s.rd (TILE_FP_FLAGS t) := by rw [honly]; rfl
  have hsets : (s.atIssue t h 2).sets = s.sets := by rw [honly]; rfl
  refine (r.gives_looked_of_wrote c hi (by rw [hl, hlegal]; rfl) (hv.vecOp used) hown rfl ?_ ?_
    (State.modThread_wrote fun y => y.setV_livesOn _ _) (State.setFlags_tiles ..)).mono fun u hu k hk => ?_
  · rw [State.setFlags_thread, State.thread_modThread, s.atIssue_thread]
    rfl
  · rw [State.sets_setFlags, State.modThread_sets, hsets]
  · rw [State.rd_congr hu.regs, State.rd_congr (State.modThread_regs _ _ _ _), State.bit_setFlags _ _ _ _ _ hk,
      State.rd_congr (State.modThread_regs _ _ _ _), hrd]
    congr 2
    show Nat.testBit (List.foldl _ 0 _) _ = _
    rw [testBit_foldl_or, Nat.zero_testBit, Bool.false_or, List.any_map]
    refine congrArg (List.any _) (funext fun j => ?_)
    simp only [Function.comp_apply, elem_elemOf]
    cases ((s.thread t h).getM (fMK w.toNat)).getLsbD j with
    | true => simp [hg, bitOf, engineVU]
    | false => simp

end

/-! ### Instructions -/

section
variable {s : State} {t : Fin 256} {h : Fin 16} {w : BitVec 56} (r : s.Ready t h)
  (hv : s.Valid t h [] [fD w.toNat, fA w.toNat, fB w.toNat, fC w.toNat]) (hm : floatMod (fMOD w.toNat) = true)
include r hv hm

/-- VFABS and VFNEG have no second operand; VFCSGN takes the sign of its second operand. -/
theorem iVfabsVfnegVfcsgn_result {g : Nat → FNum} (hE : fEXT w.toNat ≤ 2)
    (hl : onlyUses w.toNat (useD ||| useA ||| (if fEXT w.toNat = 2 then useB else 0) ||| useEXT ||| useMask ||| useMOD) = true)
    (hg : ∀ k, (match fEXT w.toNat with
      | 0 => ((floatLayout (fMOD w.toNat)).decodeIEEE
          (elemOf (floatLayout (fMOD w.toNat)).w ((s.thread t h).getV (fA w.toNat)) k)).withSign false
      | 1 => ((floatLayout (fMOD w.toNat)).decodeIEEE
          (elemOf (floatLayout (fMOD w.toNat)).w ((s.thread t h).getV (fA w.toNat)) k)).negate
      | _ => ((floatLayout (fMOD w.toNat)).decodeIEEE
          (elemOf (floatLayout (fMOD w.toNat)).w ((s.thread t h).getV (fA w.toNat)) k)).withSign
            (bitOf (elemOf (floatLayout (fMOD w.toNat)).w ((s.thread t h).getV (fB w.toNat)) k)
              ((floatLayout (fMOD w.toNat)).w - 1))) = g k) :
    Gives (.iVfabsVfnegVfcsgn t h w) s fun u => s.GotElems u t h (fD w.toNat) (floatLayout (fMOD w.toNat)).w fun k =>
      if ((s.thread t h).getM (fMK w.toNat)).getLsbD k then
        ((floatLayout (fMOD w.toNat)).encodeIEEE false none (g k)).1 % 2 ^ (floatLayout (fMOD w.toNat)).w
      else if fMZ w.toNat then 0 else elemOf (floatLayout (fMOD w.toNat)).w ((s.thread t h).getV (fD w.toNat)) k :=
  r.gives_vecOp rfl (hv.vecOp _) hl (by rw [hm, decide_eq_true hE]; rfl) fun k => by
    rewrite [← hg]
    rfl

end

/-- Settles O15: every element of the destination is the exact result rounded once, and the VU flags set are those that some
element under the mask raises. -/
theorem vectorFloatResults : Obligations.VectorFloatResults := by
  constructor
  · intro s t h w r hv n y l
    have hlay : l = floatLayout (fMOD n) := (floatLayout_eq _).symm
    clear_value l
    subst hlay
    intro sat m va vb vc op ht hm
    have hmod : floatMod (fMOD n) = true := floatMod_of_type ht hm
    have hop {c : Instr} {used : Nat} {z : Bool} {f : Nat → FNum → FNum → FNum → Nat × Nat} {g : Nat → FNum}
        (hi : exec c s = ok s (s.vecFloat t h w used f)) (hl : onlyUses n (used ||| useMask ||| useMOD) = true)
        (hg : ∀ k, (f (fMOD n) (va k) (vb k) (vc k)).1 = ((floatLayout (fMOD n)).encodeIEEE z none (g k)).1) : op c z g :=
      r.gives_vecFloat hv hi hl hmod hg
    refine ⟨fun hl => ⟨hop rfl hl fun _ => rfl, hop rfl hl fun _ => rfl, hop rfl hl fun _ => rfl, hop rfl hl fun _ => rfl,
      hop rfl hl fun _ => rfl⟩, fun hl => hop rfl hl fun _ => rfl, fun hl => ⟨fun he => ?_, fun he => ?_⟩,
      fun hl => ⟨fun he => ?_, fun hE hD => ?_⟩⟩
    · exact iVfabsVfnegVfcsgn_result r hv hmod (he.le.trans (by decide)) (by rw [he]; exact hl) fun _ => by rewrite [he]; rfl
    · exact iVfabsVfnegVfcsgn_result r hv hmod (he.le.trans (by decide)) (by rw [he]; exact hl) fun _ => by rewrite [he]; rfl
    · exact iVfabsVfnegVfcsgn_result r hv hmod (he.le.trans (by decide)) (by rw [he]; exact hl) fun _ => by rewrite [he]; rfl
    · exact r.gives_vecCmp rfl (hv.mono (by simp) (by simp)) hl hmod hD hE fun k => rfl
  · intro s t h w r c hv n y l
    have hlay : l = floatLayout (fMOD n) := (floatLayout_eq _).symm
    clear_value l
    subst hlay
    intro va vb vc op ht hm hown
    have hmod : floatMod (fMOD n) = true := floatMod_of_type ht hm
    have hop {i : Instr} {used : Nat} {f : Nat → FNum → FNum → FNum → Nat × Nat} {g : Nat → FNum × Nat}
        (hi : exec i s = ok s (s.vecFloat t h w used f)) (hl : onlyUses n (used ||| useMask ||| useMOD) = true)
        (hg : ∀ k, f (fMOD n) (va k) (vb k) (vc k) = floatResult (fMOD n) (g k)) : op i g :=
      r.gives_vecOp_flags c hv hown (used := used) (f := fun x y z => f (fMOD n) ((floatLayout (fMOD n)).decodeIEEE x)
        ((floatLayout (fMOD n)).decodeIEEE y) ((floatLayout (fMOD n)).decodeIEEE z)) hi hl hmod
        fun k => congrArg Prod.snd (hg k)
    exact ⟨fun hl => ⟨hop rfl hl fun _ => rfl, hop rfl hl fun _ => rfl, hop rfl hl fun _ => rfl⟩,
      fun hl => hop rfl hl fun _ => rfl⟩

end Sys2Proof.Machine
end

section
/-! Conversions and packing (O16, R185-R190). -/

namespace Sys2Proof.Machine

/-! ### Elements from `first` on -/

section
variable {s : State} {t h : Nat} {i : Instr} (r : s.Ready t h)
include r

/-- What an instruction that goes on leaves of its thread. -/
theorem State.Ready.gives_registers {unit : Nat} {legal : Bool} {ss vs : List Nat} {body : State → Thread → Issue}
    (hi : exec i s = ok s (s.issue t h unit legal ss vs body)) (hl : legal = true) (hv : s.Valid t h ss vs) {u : State}
    (hb : body (s.atIssue t h unit) (s.thread t h) = .next u) (hst : (u.thread t h).st ≠ .wait) : Gives i s fun z =>
      (z.thread t h).s = (u.thread t h).s ∧ (z.thread t h).v = (u.thread t h).v ∧ (z.thread t h).m = (u.thread t h).m ∧
        (z.thread t h).pc = (u.thread t h).pc + 8 := by
  refine gives_ok hi ?_
  rw [State.thread_commit, r.issue_does hl hv, hb]
  exact Issue.next_thread u _ t h _ hst

/-- A vector instruction that gives `N` elements of vD, from `first` on, the values `f` under the mask `m`. -/
theorem State.Ready.gives_part {unit : Nat} {legal : Bool} {ss vs : List Nat} {body : State → Thread → Issue}
    (hi : exec i s = ok s (s.issue t h unit legal ss vs body)) (hl : legal = true) (hv : s.Valid t h ss vs) {d b first N : Nat}
    {mz : Bool} {m : Nat → Bool} {f g : Nat → Nat} {l : List (Option Nat)} {u : State}
    (hb : body (s.atIssue t h unit) (s.thread t h) = .next u)
    (hu : u.thread t h = (s.thread t h).setV d (BitVec.ofNat 2048 (mergeElems b mz first ((s.thread t h).getV d).toNat l)))
    (hlist : l = (List.range N).map fun k => if m k then some (f k) else none)
    (hg : ∀ k, g k = if first ≤ k ∧ k < first + N then
        (if m (k - first) then f (k - first) % 2 ^ b else if mz then 0 else elemOf b ((s.thread t h).getV d) k)
      else elemOf b ((s.thread t h).getV d) k) : Gives i s fun u => s.GotElems u t h d b g := by
  refine gives_ok hi (r.gotElems hl hv hb hu fun k _ => ?_)
  have hlen : l.length = N := by simp [hlist]
  rw [hlen, hg]
  by_cases hin : first ≤ k ∧ k < first + N
  · rw [if_pos hin, if_pos hin, hlist, masked_getD _ _ _ _ (by omega)]
    cases m (k - first) <;> rfl
  · rw [if_neg hin, if_neg hin]

/-- One that gives them without a mask. -/
theorem State.Ready.gives_whole {unit : Nat} {legal : Bool} {ss vs : List Nat} {body : State → Thread → Issue}
    (hi : exec i s = ok s (s.issue t h unit legal ss vs body)) (hl : legal = true) (hv : s.Valid t h ss vs) {d b first N : Nat}
    {mz : Bool} {f g : Nat → Nat} {l : List (Option Nat)} {u : State}
    (hb : body (s.atIssue t h unit) (s.thread t h) = .next u)
    (hu : u.thread t h = (s.thread t h).setV d (BitVec.ofNat 2048 (mergeElems b mz first ((s.thread t h).getV d).toNat l)))
    (hlist : l = (List.range N).map fun k => some (f k))
    (hg : ∀ k, g k = if first ≤ k ∧ k < first + N then f (k - first) % 2 ^ b else elemOf b ((s.thread t h).getV d) k) :
    Gives i s fun u => s.GotElems u t h d b g :=
  r.gives_part (m := fun _ => true) hi hl hv hb hu hlist hg

end

/-! ### CVT: what it names (R186) -/

/-- Width of an element of the destination of CVT, and the first one it writes. -/
def cvtWidth (n : Nat) : Nat := if fmtScaled (fMOD n / 16) then 8 else fmtBits (fMOD n / 16)
def cvtFirst (n : Nat) : Nat := if fMOD n / 16 = 6 ∨ fMOD n / 16 = 7 then 64 * extPART n else 0

theorem cvt64_eq (y : Thread) (n : Nat) : (cvt64 y n).1 = BitVec.ofNat 2048 (mergeElems (cvtWidth n) (fMZ n) (cvtFirst n)
    (y.getV (fD n)).toNat ((List.range 64).map fun k => if (y.getM (fMK n)).getLsbD k then some (cvtElem y n k).1 else none)) := by
  have hfirst : (if fMOD n / 16 = 6 || fMOD n / 16 = 7 then 64 * extPART n else 0) = cvtFirst n := by
    simp only [cvtFirst, Bool.or_eq_true, decide_eq_true_eq]
  have hlist : (((List.range 64).map fun i => if (y.getM (fMK n)).getLsbD i then some (cvtElem y n i) else none).map
      fun x => x.map Prod.fst) =
      (List.range 64).map fun k => if (y.getM (fMK n)).getLsbD k then some (cvtElem y n k).1 else none := by
    rw [List.map_map]
    refine List.map_congr_left fun k _ => ?_
    rw [Function.comp_apply]
    split <;> rfl
  unfold cvt64
  dsimp only
  rw [hfirst, hlist]
  rfl

/-- The registers that CVT names are those of the word. -/
theorem State.Valid.cvt {s : State} {t h n : Nat}
    (hv : s.Valid t h [fC n, fC n + 1, fC n + 2] [fD n, fA n, fA n + 1, fB n, fC n]) (p q r z : Bool) :
    s.Valid t h (if p then [fC n, fC n + 1, fC n + 2] else []) ([fD n, fA n] ++ (if q then [fB n] else []) ++
      (if r then [fA n + 1] else []) ++ (if z then [fC n] else [])) := by
  refine hv.mono ?_ ?_
  · cases p <;> simp
  · cases q <;> cases r <;> cases z <;> simp

/-! ### CVT of ZT2 codes: the NaN blocks marked in vC (R186) -/

/-- The scale of NaN block `b` marked in vC. -/
def Thread.markNan (n : Nat) (x : Thread) (b : Nat) : Thread :=
  x.setV (fC n) (BitVec.ofNat 2048 (putBits (x.getV (fC n)).toNat (8 * (8 * extPART n + b)) 8 0xFF))

/-- Element `j` of a register with its element `q` replaced. -/
theorem elemOf_putBits (v : VReg) {q : Nat} (hq : q < 256) (j x : Nat) :
    elemOf 8 (BitVec.ofNat 2048 (putBits v.toNat (8 * q) 8 x)) j = if j = q then x % 2 ^ 8 else elemOf 8 v j := by
  have hend : 8 * q + 8 ≤ 2048 := by omega
  rw [← elem_elemOf, ← elem_elemOf, toNat_ofNat_putBits v x hend]
  unfold elem
  split
  · next h => rw [h, bitsOf_putBits_same]
  · rcases Nat.lt_or_ge j q with h | h
    · exact bitsOf_putBits_below _ _ _ _ _ _ (by omega)
    · exact bitsOf_putBits_above _ _ _ _ _ _ (by omega)

theorem elemOf_markNans {n : Nat} (hp : extPART n < 4) {l : List Nat} (hl : ∀ b ∈ l, b < 8) (x : Thread) (k : Nat) :
    elemOf 8 ((l.foldl (Thread.markNan n) x).getV (fC n)) (8 * extPART n + k) =
      if k ∈ l then 0xFF else elemOf 8 (x.getV (fC n)) (8 * extPART n + k) := by
  induction l generalizing x with
  | nil => rfl
  | cons b l ih =>
    have hb := hl b List.mem_cons_self
    rw [List.foldl_cons, ih fun c hc => hl c (List.mem_cons_of_mem _ hc), Thread.markNan, Thread.getV_setV, if_pos rfl,
      elemOf_putBits _ (by omega)]
    by_cases hk : k = b <;> simp [hk]

theorem Thread.markNans_keeps (n : Nat) (l : List Nat) (x : Thread) :
    (l.foldl (Thread.markNan n) x).pc = x.pc ∧ (l.foldl (Thread.markNan n) x).st = x.st ∧
      ∀ d, d ≠ fC n → (l.foldl (Thread.markNan n) x).getV d = x.getV d :=
  ⟨foldl_keep Thread.pc (Thread.markNan n) (fun _ _ => rfl) _ _,
    foldl_keep Thread.st (Thread.markNan n) (fun _ _ => rfl) _ _, fun d hd =>
    foldl_keep (fun y : Thread => y.getV d) _ (fun _ _ => (Thread.getV_setV _ _ _ _).trans (if_neg hd)) _ _⟩

/-- Code `i` of the source, and whether block `k` has a NaN among its codes under the mask. -/
def Thread.zt2Code (y : Thread) (n i : Nat) : Nat := elemOf 2 (y.getV (fA n)) (256 * extPART n + i)
def Thread.zt2Nan (y : Thread) (n k : Nat) : Prop :=
  ∃ i < 32, (y.getM (fMK n)).getLsbD (32 * k + i) = true ∧ y.zt2Code n (32 * k + i) = 2

theorem mem_cvtZt2_nans {y : Thread} {n k : Nat} (hk : k < 8) : k ∈ (cvtZt2 y n).2 ↔ y.zt2Nan n k := by
  simp [cvtZt2, Thread.zt2Nan, Thread.zt2Code, elem_elemOf, hk]

theorem lt_of_mem_cvtZt2_nans {y : Thread} {n b : Nat} (hb : b ∈ (cvtZt2 y n).2) : b < 8 :=
  List.mem_range.mp (List.mem_filter.mp hb).1

/-- Element `i` of the codes that CVT gives for ZT2 codes. -/
theorem elemOf_cvtZt2 (y : Thread) (n : Nat) {i : Nat} (hi : i < 256) : elemOf 8 (cvtZt2 y n).1 i =
    if (y.getM (fMK n)).getLsbD i then
      (if i / 32 ∈ (cvtZt2 y n).2 then 0 else if y.zt2Code n i = 1 then 64 else if y.zt2Code n i = 3 then 192 else 0)
    else if fMZ n then 0 else elemOf 8 (y.getV (fD n)) i := by
  have hmerge := elemOf_merge 8 (fMZ n) 0 (y.getV (fD n)) ((List.range 256).map fun i =>
    if (y.getM (fMK n)).getLsbD i then some (if (cvtZt2 y n).2.contains (i / 32) then 0
      else match elem 2 (y.getV (fA n)).toNat (256 * extPART n + i) with
        | 1 => 64
        | 3 => 192
        | _ => 0) else none) i hi
  rw [Nat.sub_zero, masked_getD _ _ _ _ hi, if_pos ⟨Nat.zero_le i, by simpa using hi⟩] at hmerge
  refine hmerge.trans ?_
  simp only [elem_elemOf, List.contains_iff_mem]
  cases (y.getM (fMK n)).getLsbD i with
  | false => rfl
  | true =>
    show (if _ then _ else _) % 2 ^ 8 = if _ then _ else _
    split
    · rfl
    · unfold Thread.zt2Code
      split
      · next h => rw [h]; rfl
      · next h => rw [h]; rfl
      · next h1 h3 =>
        rw [if_neg h1, if_neg h3]
        rfl

/-! ### Blocks (R188) -/

/-- The E8M0 scale for format `dst` from an element of VBAMAX: NaN where the format has no NaN code (R188). -/
def blockScale (dst e : Nat) : Nat :=
  (if bitOf e 16 ∧ elemNan dst = none then 0xFF
    else scaleFor dst (if e % 2 ^ 16 = 0x8000 then none else some (BitVec.ofNat 16 e).toInt)) % 2 ^ 8

/-- What VBAMAX finds in the elements `xs` of one block: the largest exponent, and whether it has a NaN or an infinity. -/
def blockMax (xs : List FNum) : Nat :=
  (match amaxExp xs with
    | none => 0x8000
    | some e => (BitVec.ofInt 16 e).toNat) + flag (xs.any FNum.isNan) * 2 ^ 16 + flag (xs.any FNum.isInf) * 2 ^ 17

theorem blockMax_lt (xs : List FNum) : blockMax xs < 2 ^ 32 := by
  have hflag (b : Bool) : flag b ≤ 1 := by cases b <;> decide
  have hnan := hflag (xs.any FNum.isNan)
  have hinf := hflag (xs.any FNum.isInf)
  unfold blockMax
  split
  · omega
  · next e _ =>
    have := (BitVec.ofInt 16 e).isLt
    omega

/-- The elements of the source of VBAMAX and CVT.SCALE (R188). -/
def Thread.maxSource (y : Thread) (n i : Nat) : FNum :=
  if extF64 n then fp64.decodeIEEE
    (if i < 32 then elemOf 64 (y.getV (fA n)) i else elemOf 64 (y.getV (fA n + 1)) (i - 32))
  else fp32.decodeIEEE (elemOf 32 (y.getV (fA n)) i)

section
variable {s : State} {t : Fin 256} {h : Fin 16} {w : BitVec 56} (r : s.Ready t h)
  (hv : s.Valid t h [fC w.toNat, fC w.toNat + 1, fC w.toNat + 2]
    [fD w.toNat, fA w.toNat, fA w.toNat + 1, fB w.toNat, fC w.toNat])
include r hv

/-! ### VBAMAX, CVT.SCALE and VPACK (R188, R189) -/

theorem iVpack_result (hl : onlyUses w.toNat (useD ||| useA ||| (0x1F <<< 16) ||| (0x03 <<< 48)) = true)
    (hm : fMOD w.toNat ≤ 2) (hp : extPART w.toNat < 32 / 2 ^ (fMOD w.toNat + 1)) :
    Gives (.iVpack t h w) s fun u => s.GotElems u t h (fD w.toNat) (2 ^ (fMOD w.toNat + 1)) fun k =>
      if 64 * extPART w.toNat ≤ k ∧ k < 64 * extPART w.toNat + 64 then
        elemOf 8 ((s.thread t h).getV (fA w.toNat)) (k - 64 * extPART w.toNat) % 2 ^ 2 ^ (fMOD w.toNat + 1)
      else elemOf (2 ^ (fMOD w.toNat + 1)) ((s.thread t h).getV (fD w.toNat)) k :=
  r.gives_whole rfl (by rw [hl, decide_eq_true hm, decide_eq_true hp]; rfl) (hv.mono (by simp) (by simp)) rfl
    (by rw [State.thread_modThread, s.atIssue_thread]) rfl fun k => by rw [elem_elemOf, Nat.mod_mod]

theorem iCvtScale_result (hl : onlyUses w.toNat (useD ||| useA ||| (0x1F <<< 16) ||| (0xF0 <<< 48)) = true)
    (hd : fmtScaled (fMOD w.toNat / 16) = true) (hp : extPART w.toNat ≤ 15) :
    Gives (.iCvtScale t h w) s fun u => s.GotElems u t h (fD w.toNat) 8 fun k =>
      if 2 * extPART w.toNat ≤ k ∧ k < 2 * extPART w.toNat + 2 then
        blockScale (fMOD w.toNat / 16)
          (elemOf 32 ((s.thread t h).getV (fA w.toNat)) (2 * extPART w.toNat + (k - 2 * extPART w.toNat)))
      else elemOf 8 ((s.thread t h).getV (fD w.toNat)) k := by
  have hsigned (e : Nat) : signed 16 (e % 2 ^ 16) = (BitVec.ofNat 16 e).toInt := by
    rw [signed_eq_toInt (by decide)]
    exact congrArg BitVec.toInt (BitVec.eq_of_toNat_eq (Nat.mod_mod _ _))
  refine r.gives_whole rfl (by rw [hl, hd, decide_eq_true hp]; rfl) (hv.mono (by simp) (by simp)) rfl
    (by rw [State.setFlags_thread, State.thread_modThread, s.atIssue_thread]) (by rw [List.map_map]; rfl) fun k => ?_
  dsimp only
  simp only [elem_elemOf, hsigned, blockScale, scaleNan, Bool.and_eq_true, Option.isNone_iff_eq_none]

theorem iVbamax_result (hl : onlyUses w.toNat (useD ||| useA ||| useMK ||| (0x9F <<< 16)) = true)
    (hp : extPART w.toNat ≤ 15) (hsrc : extF64 w.toNat = true → fA w.toNat % 2 = 0) :
    Gives (.iVbamax t h w) s fun u => s.GotElems u t h (fD w.toNat) 32 fun k =>
      if 2 * extPART w.toNat ≤ k ∧ k < 2 * extPART w.toNat + 2 then
        blockMax (((List.range 32).filter fun i =>
            ((s.thread t h).getM (fMK w.toNat)).getLsbD (32 * (k - 2 * extPART w.toNat) + i)).map
          fun i => (s.thread t h).maxSource w.toNat (32 * (k - 2 * extPART w.toNat) + i))
      else elemOf 32 ((s.thread t h).getV (fD w.toNat)) k := by
  have heven : (!extF64 w.toNat || fA w.toNat % 2 == 0) = true := by
    cases hf : extF64 w.toNat with
    | false => rfl
    | true => simp [hsrc hf]
  refine r.gives_whole rfl (by rw [hl, heven, decide_eq_true hp]; rfl) (hv.mono (by simp) (by split <;> simp)) rfl
    (by rw [State.thread_modThread, s.atIssue_thread]) (by rw [List.map_map]; rfl) fun k => ?_
  simp only [elem_elemOf]
  split
  · exact (Nat.mod_eq_of_lt (blockMax_lt _)).symm
  · rfl

/-! ### CVT (R186, R187) -/

theorem iCvt_result (hl : cvtLegal w.toNat = true) (hne : fMOD w.toNat ≠ 0x50)
    (hsr : extSR w.toNat = true → ((s.thread t h).getS (fC w.toNat + 2)).toNat / 2 ^ 53 ≤ 2040) :
    Gives (.iCvt t h w) s fun u => s.GotElems u t h (fD w.toNat) (cvtWidth w.toNat) fun k =>
      if cvtFirst w.toNat ≤ k ∧ k < cvtFirst w.toNat + 64 then
        (if ((s.thread t h).getM (fMK w.toNat)).getLsbD (k - cvtFirst w.toNat) then
            (cvtElem (s.thread t h) w.toNat (k - cvtFirst w.toNat)).1 % 2 ^ cvtWidth w.toNat
          else if fMZ w.toNat then 0 else elemOf (cvtWidth w.toNat) ((s.thread t h).getV (fD w.toNat)) k)
      else elemOf (cvtWidth w.toNat) ((s.thread t h).getV (fD w.toNat)) k := by
  have hzi : (fMOD w.toNat == 0x50) = false := beq_false_of_ne hne
  have hrandom : (extSR w.toNat && decide (2040 < ((s.thread t h).getS (fC w.toNat + 2)).toNat / 2 ^ 53)) = false := by
    cases he : extSR w.toNat with
    | false => rfl
    | true => simpa using hsr he
  refine r.gives_part (N := 64) (first := cvtFirst w.toNat) (mz := fMZ w.toNat)
    (m := ((s.thread t h).getM (fMK w.toNat)).getLsbD) (f := fun k => (cvtElem (s.thread t h) w.toNat k).1)
    (u := ((s.atIssue t h 2).modThread t h fun x => x.setV (fD w.toNat) (cvt64 (s.thread t h) w.toNat).1).setFlags t engineVU (cvt64 (s.thread t h) w.toNat).2)
    rfl hl (hv.cvt _ _ _ _) ?_ ?_ rfl fun k => rfl
  · simp only [hzi, Bool.not_false, Bool.and_true, hrandom]
    rfl
  · rw [State.setFlags_thread, State.thread_modThread, s.atIssue_thread, cvt64_eq]

/-- The thread that CVT of ZT2 codes leaves before it goes on. -/
def Thread.zt2Done (y : Thread) (n : Nat) : Thread := (cvtZt2 y n).2.foldl (Thread.markNan n) (y.setV (fD n) (cvtZt2 y n).1)

theorem iCvt_zt2 (hl : cvtLegal w.toNat = true) (hm : fMOD w.toNat = 0x50) : Gives (.iCvt t h w) s fun u =>
    (u.thread t h).v = ((s.thread t h).zt2Done w.toNat).v ∧ (u.thread t h).pc = (s.thread t h).pc + 8 := by
  let u := ((s.atIssue t h 2).modThread t h fun x => (cvtZt2 (s.thread t h) w.toNat).2.foldl (Thread.markNan w.toNat)
    (x.setV (fD w.toNat) (cvtZt2 (s.thread t h) w.toNat).1)).setFlags t engineVU
      (if (cvtZt2 (s.thread t h) w.toNat).2.isEmpty then 0 else flagNV)
  have hu : u.thread t h = (s.thread t h).zt2Done w.toNat := by
    rw [State.setFlags_thread, State.thread_modThread, s.atIssue_thread]
    rfl
  obtain ⟨hpc, hst, -⟩ := Thread.markNans_keeps w.toNat (cvtZt2 (s.thread t h) w.toNat).2
    ((s.thread t h).setV (fD w.toNat) (cvtZt2 (s.thread t h) w.toNat).1)
  have hrun : (u.thread t h).st ≠ .wait := by
    rw [hu, Thread.zt2Done, hst, (Thread.setV_fields ..).2.2.2, r.run]
    decide
  have hzi : (fMOD w.toNat == 0x50) = true := by rw [hm]; rfl
  refine (r.gives_registers (u := u) rfl hl (hv.cvt _ _ _ _) ?_ hrun).mono fun z ⟨_, hv, _, hz⟩ => ⟨by rw [hv, hu], ?_⟩
  · simp only [hzi, Bool.not_true, Bool.and_false, Bool.false_and]
    rfl
  · rw [hz, hu, Thread.zt2Done, hpc, (Thread.setV_fields ..).2.2.1]

end

theorem extPART_lt_of_zt2 {n : Nat} (hl : cvtLegal n = true) (hm : fMOD n = 0x50) : extPART n < 4 := by
  have h := (Bool.and_eq_true_iff.mp hl).2
  rw [hm] at h
  exact of_decide_eq_true h

/-- Settles O16: the elements that a conversion writes, those it leaves, and for ZT2 codes the NaN blocks marked in vC. -/
theorem convertResults : Obligations.ConvertResults := by
  intro s t h w r hv n y dst p m old a32 from64 half
  refine ⟨fun hl hne hsr => iCvt_result r hv hl hne hsr, fun hl hm hne => ?_, fun hl hp hsrc => ?_,
    fun hl hd hp => iCvtScale_result r hv hl hd hp, fun hl hm hp => iVpack_result r hv hl hm hp⟩
  · intro code nan
    have hp : extPART n < 4 := extPART_lt_of_zt2 hl hm
    obtain ⟨-, -, hother⟩ := Thread.markNans_keeps n (cvtZt2 y n).2 (y.setV (fD n) (cvtZt2 y n).1)
    refine (iCvt_zt2 r hv hl hm).mono fun u ⟨hu, hpc⟩ => ?_
    have hD : (u.thread t h).getV (fD n) = (cvtZt2 y n).1 := by
      rw [Thread.getV_congr hu, Thread.zt2Done, hother _ hne.symm, Thread.getV_setV, if_pos rfl]
    have hC (k : Nat) : elemOf 8 ((u.thread t h).getV (fC n)) (8 * p + k) =
        if k ∈ (cvtZt2 y n).2 then 0xFF else elemOf 8 (y.getV (fC n)) (8 * p + k) := by
      rw [Thread.getV_congr hu, Thread.zt2Done, elemOf_markNans hp fun b => lt_of_mem_cvtZt2_nans, Thread.getV_setV, if_neg hne]
    have hnan {k : Nat} (hk : k < 8) : k ∈ (cvtZt2 y n).2 ↔ nan k := mem_cvtZt2_nans hk
    refine ⟨fun i hi hmask => ?_, fun i hi hmask => ?_, fun k hk hk' => ?_, fun k hk hk' => ?_, hpc⟩
    · have hblock : i / 32 < 8 := by omega
      rw [hD, elemOf_cvtZt2 y n hi, if_pos hmask]
      exact ⟨fun h => if_pos ((hnan hblock).mpr h), fun h => if_neg (mt (hnan hblock).mp h)⟩
    · rw [hD, elemOf_cvtZt2 y n hi, if_neg (by rw [hmask]; simp)]
    · rw [hC, if_pos ((hnan hk).mpr hk')]
    · rw [hC, if_neg (mt (hnan hk).mp hk')]
  · exact iVbamax_result r hv hl hp hsrc

end Sys2Proof.Machine
end

section
/-! Cells of a tile message: their header and payload fields (Tables 2-2 and 7-17). -/

namespace Sys2Proof.Machine

/-- A field of a number that is written as the bits above it, the field and the bits below it. -/
theorem bitsOf_of_parts {x hi v lo' lo w : Nat} (h : x = hi * 2 ^ (lo + w) + v * 2 ^ lo + lo') (hv : v < 2 ^ w)
    (hlo : lo' < 2 ^ lo) : bitsOf x lo w = v := by
  have hx : x = lo' + 2 ^ lo * (v + 2 ^ w * hi) := by rw [h, Nat.pow_add]; ring
  rw [bitsOf_eq, hx, Nat.add_mul_div_left _ _ (Nat.two_pow_pos lo), Nat.div_eq_of_lt hlo, Nat.zero_add,
    Nat.add_mul_mod_self_left, Nat.mod_eq_of_lt hv]

/-- The fields of a routed header besides TYPE and TC. -/
theorem routedHdr_fields (type tc path ece ctx gen src tag seq len : Nat) :
    let h := (routedHdr type tc path ece ctx gen src tag seq len).toNat
    hSrc h = src % 2 ^ 17 ∧ hTag h = tag % 4096 ∧ hSeq h = seq % 4096 ∧ hCtx h = ctx % 4096 ∧ hLen h = len % 128 := by
  have htype : type % 16 < 16 := Nat.mod_lt _ (by decide)
  have htc : tc % 8 < 8 := Nat.mod_lt _ (by decide)
  have hpath : path % 2 ^ 40 < 2 ^ 40 := Nat.mod_lt _ (by decide)
  have hece : ece % 2 < 2 := Nat.mod_lt _ (by decide)
  have hctx : ctx % 4096 < 4096 := Nat.mod_lt _ (by decide)
  have hgen : gen % 16 < 16 := Nat.mod_lt _ (by decide)
  have hsrc : src % 2 ^ 17 < 2 ^ 17 := Nat.mod_lt _ (by decide)
  have htag : tag % 4096 < 4096 := Nat.mod_lt _ (by decide)
  have hseq : seq % 4096 < 4096 := Nat.mod_lt _ (by decide)
  have hlen : len % 128 < 128 := Nat.mod_lt _ (by decide)
  unfold routedHdr
  generalize type % 16 = type, tc % 8 = tc, path % 2 ^ 40 = path, ece % 2 = ece, ctx % 4096 = ctx, gen % 16 = gen,
    src % 2 ^ 17 = src, tag % 4096 = tag, seq % 4096 = seq, len % 128 = len at *
  generalize hh : type * 2 ^ 124 + tc * 2 ^ 121 + path * 2 ^ 80 + ece * 2 ^ 76 + ctx * 2 ^ 64 + gen * 2 ^ 60 + src * 2 ^ 43 +
    tag * 2 ^ 31 + seq * 2 ^ 19 + len * 2 ^ 12 = h
  have hlt : h < 2 ^ 128 := by omega
  intro x
  have hx {lo w v : Nat} (hlo : 8 ≤ lo) (hv : bitsOf h lo w = v) : bitsOf x lo w = v := (bitsOf_sealHdr hlt hlo w).trans hv
  refine ⟨hx (by decide) ?_, hx (by decide) ?_, hx (by decide) ?_, hx (by decide) ?_, hx (by decide) ?_⟩
  · exact bitsOf_of_parts (hi := type * 2 ^ 64 + tc * 2 ^ 61 + path * 2 ^ 20 + ece * 2 ^ 16 + ctx * 2 ^ 4 + gen)
      (lo' := tag * 2 ^ 31 + seq * 2 ^ 19 + len * 2 ^ 12) (by omega) hsrc (by omega)
  · exact bitsOf_of_parts
      (hi := type * 2 ^ 81 + tc * 2 ^ 78 + path * 2 ^ 37 + ece * 2 ^ 33 + ctx * 2 ^ 21 + gen * 2 ^ 17 + src)
      (lo' := seq * 2 ^ 19 + len * 2 ^ 12) (by omega) htag (by omega)
  · exact bitsOf_of_parts
      (hi := type * 2 ^ 93 + tc * 2 ^ 90 + path * 2 ^ 49 + ece * 2 ^ 45 + ctx * 2 ^ 33 + gen * 2 ^ 29 + src * 2 ^ 12 + tag)
      (lo' := len * 2 ^ 12) (by omega) hseq (by omega)
  · exact bitsOf_of_parts (hi := type * 2 ^ 48 + tc * 2 ^ 45 + path * 2 ^ 4 + ece)
      (lo' := gen * 2 ^ 60 + src * 2 ^ 43 + tag * 2 ^ 31 + seq * 2 ^ 19 + len * 2 ^ 12) (by omega) hctx (by omega)
  · exact bitsOf_of_parts (hi := type * 2 ^ 105 + tc * 2 ^ 102 + path * 2 ^ 61 + ece * 2 ^ 57 + ctx * 2 ^ 45 + gen * 2 ^ 41 +
      src * 2 ^ 24 + tag * 2 ^ 12 + seq) (lo' := 0) (by omega) hlen (by omega)

/-! ### Payload bytes -/

theorem ofBytes_append (l m : List Byte) : ofBytes (l ++ m) = ofBytes l + 256 ^ l.length * ofBytes m := by
  induction l with
  | nil => simp [ofBytes]
  | cons b l ih =>
    have hcons (k : List Byte) : ofBytes (b :: k) = b.toNat + 256 * ofBytes k := rfl
    rw [List.cons_append, hcons, hcons, ih, List.length_cons, Nat.pow_succ']
    ring

/-- Bytes of a payload made of three parts. -/
theorem payNum_payOf_middle {l m r : List Byte} (hlen : (l ++ m ++ r).length ≤ 64) {i n : Nat} (hi : l.length = i)
    (hn : m.length = n) : payNum (payOf (l ++ m ++ r)) i n = ofBytes m := by
  subst hi hn
  have hfits : 8 * l.length + 8 * m.length ≤ 512 := by
    simp only [List.length_append] at hlen
    omega
  rw [payNum, payOf, BitVec.toNat_ofNat, bitsOf_mod _ hfits]
  refine bitsOf_of_parts (hi := ofBytes r) (lo' := ofBytes l) ?_ (by rw [← pow_bytes]; exact ofBytes_lt m)
    (by rw [← pow_bytes]; exact ofBytes_lt l)
  rw [List.append_assoc, ofBytes_append, ofBytes_append, ← Nat.mul_add, ← pow_bytes, ← pow_bytes, Nat.pow_add]
  ring

/-- The tile, the thread and the length that a cell of a tile message names (Table 7-17). -/
theorem messagePay_fields (sw : Nat) (t : Fin 256) (h : Fin 16) {len : Nat} (hlen : len < 2 ^ 16) (i : Nat) (data : List Byte) :
    payNum (messagePay sw t h len i data) 2 1 = t.val ∧ payNum (messagePay sw t h len i data) 3 1 = h.val ∧
      payNum (messagePay sw t h len i data) 4 2 = len := by
  have hdata : ((data.drop (56 * i)).take 56).length ≤ 56 := List.length_take_le ..
  unfold messagePay
  generalize (data.drop (56 * i)).take 56 = d at *
  have ht := t.isLt
  have hh := h.isLt
  refine ⟨?_, ?_, ?_⟩
  · rw [show toBytes 2 sw ++ toBytes 1 t ++ toBytes 1 h ++ toBytes 2 len ++ toBytes 2 0 ++ d =
        toBytes 2 sw ++ toBytes 1 t ++ (toBytes 1 h ++ toBytes 2 len ++ toBytes 2 0 ++ d) by simp only [List.append_assoc],
      payNum_payOf_middle (by simp [toBytes_length]; omega) (toBytes_length ..) (toBytes_length ..), ofBytes_toBytes]
    omega
  · rw [show toBytes 2 sw ++ toBytes 1 t ++ toBytes 1 h ++ toBytes 2 len ++ toBytes 2 0 ++ d =
        toBytes 2 sw ++ toBytes 1 t ++ toBytes 1 h ++ (toBytes 2 len ++ toBytes 2 0 ++ d) by simp only [List.append_assoc],
      payNum_payOf_middle (by simp [toBytes_length]; omega) (by simp [toBytes_length]) (toBytes_length ..), ofBytes_toBytes]
    omega
  · rw [show toBytes 2 sw ++ toBytes 1 t ++ toBytes 1 h ++ toBytes 2 len ++ toBytes 2 0 ++ d =
        toBytes 2 sw ++ toBytes 1 t ++ toBytes 1 h ++ toBytes 2 len ++ (toBytes 2 0 ++ d) by simp only [List.append_assoc],
      payNum_payOf_middle (by simp [toBytes_length]; omega) (by simp [toBytes_length]) (toBytes_length ..), ofBytes_toBytes]
    omega

end Sys2Proof.Machine
end

section
/-! Messages, doorbells and events of a thread (O20, R195, R196). -/

namespace Sys2Proof.Machine

/-! ### MSG.SEND (R195) -/

/-- What the statement says of cell `i` of a message of `len` bytes: the channel, the header and the first payload bytes. -/
def MessageCell (t : Fin 256) (h : Fin 16) (tc ep tag ctx len i : Nat) (c : Nat × Item) : Prop :=
  c.1 = 2 * tc ∧ ∃ k : Cell, c.2 = .cell k ∧ hType k.h = 1 ∧ hTc k.h = tc ∧ hSrc k.h = ep ∧ hTag k.h = tag ∧ hSeq k.h = i ∧
    hCtx k.h = ctx % 4096 ∧ hLen k.h = 8 + min 56 (len - 56 * i) ∧ payNum k.pay 2 1 = t.val ∧ payNum k.pay 3 1 = h.val ∧
    payNum k.pay 4 2 = len

/-- The cells of a message are those of its places, in order. -/
def MessageCells (t : Fin 256) (h : Fin 16) (tc ep tag ctx len : Nat) (l : List (Nat × Item)) : Prop :=
  ∀ i c, l[i]? = some c → MessageCell t h tc ep tag ctx len i c

theorem MessageCells.append {t : Fin 256} {h : Fin 16} {tc ep tag ctx len : Nat} {l : List (Nat × Item)} {c : Nat × Item}
    (hl : MessageCells t h tc ep tag ctx len l) (hc : MessageCell t h tc ep tag ctx len l.length c) :
    MessageCells t h tc ep tag ctx len (l ++ [c]) := by
  intro i d hd
  rw [List.getElem?_append] at hd
  split at hd
  · exact hl i d hd
  · next hge =>
    obtain ⟨hi, hcd⟩ : i - l.length = 0 ∧ c = d := by simpa [List.getElem?_cons, List.getElem?_singleton] using hd
    obtain rfl : i = l.length := by omega
    exact hcd ▸ hc

/-- One cell of a message sent, its CC kept with the cells that count it off. -/
def State.sendCell (t : Fin 256) (h : Fin 16) (tc cc ep tag ctx len : Nat) (data : List Byte) (s : State) (i : Nat) : State :=
  (s.originate ep 1 tc ctx (s.genOf ctx) tag i (8 + min 56 (len - 56 * i)) (messagePay s.switchId t h len i data)
    (tileOutput t)).modTile t fun x => { x with msgCc := x.msgCc ++ [(2 * tc, cc)] }

/-- From `s` to `u` the cells `l` have entered the crossbar at the input of tile `t`; besides, only the tile's record of the
CCs of its message cells has changed. -/
structure State.CellsSent (t : Nat) (l : List (Nat × Item)) (s u : State) : Prop where
  xin : Table.get [] u.xin (tileOutput t) = Table.get [] s.xin (tileOutput t) ++ l
  mem : u.mem = s.mem
  regs : u.regs = s.regs
  poison : u.poison = s.poison
  sets : u.sets = s.sets
  tile : ∃ m, u.tile t = { s.tile t with msgCc := m }
  other : ∀ v, v ≠ t → u.tile v = s.tile v

theorem State.CellsSent.refl (t : Nat) (s : State) : s.CellsSent t [] s :=
  ⟨(List.append_nil _).symm, rfl, rfl, rfl, rfl, ⟨_, rfl⟩, fun _ _ => rfl⟩

theorem State.CellsSent.trans {t : Nat} {l m : List (Nat × Item)} {a b c : State} (x : a.CellsSent t l b)
    (y : b.CellsSent t m c) : a.CellsSent t (l ++ m) c := by
  obtain ⟨m1, h1⟩ := x.tile
  obtain ⟨m2, h2⟩ := y.tile
  exact ⟨by rw [y.xin, x.xin, List.append_assoc], y.mem.trans x.mem, y.regs.trans x.regs, y.poison.trans x.poison,
    y.sets.trans x.sets, ⟨m2, by rw [h2, h1]⟩, fun v hv => (y.other v hv).trans (x.other v hv)⟩

theorem State.CellsSent.returnEntry {t : Nat} {l : List (Nat × Item)} {s u : State} (h : s.CellsSent t l u) (ep : Nat) :
    u.returnEntry ep = s.returnEntry ep := by
  unfold State.returnEntry State.entry State.poisoned State.load State.bytes
  rw [State.rd_congr h.regs, h.mem, h.poison]

theorem State.CellsSent.thread {t : Nat} {l : List (Nat × Item)} {s u : State} (h : s.CellsSent t l u) (v k : Nat) :
    u.thread v k = s.thread v k := by
  unfold State.thread
  by_cases hv : v = t
  · obtain ⟨m, hm⟩ := h.tile
    rw [hv, hm]
    rfl
  · rw [h.other v hv]

theorem State.sendCell_sent {s : State} {t : Fin 256} {h : Fin 16} {tc cc ep tag ctx len : Nat} {data : List Byte} {i : Nat}
    (hret : bitOf (s.returnEntry ep) 63 = true) (htc : tc < 8) (hep : ep < 2 ^ 17) (htag : tag < 4096) (hi : i < 4096)
    (hlen : len < 2 ^ 16) : ∃ c, MessageCell t h tc ep tag ctx len i c ∧
      s.CellsSent t [c] (State.sendCell t h tc cc ep tag ctx len data s i) := by
  refine ⟨(2 * tc, .cell ⟨routedHdr 1 tc (returnPath (s.returnEntry ep)) 1 ctx (s.genOf ctx) ep tag i
    (8 + min 56 (len - 56 * i)), messagePay s.switchId t h len i data⟩), ?_, ?_⟩
  · obtain ⟨htype, htc'⟩ := routedHdr_type_tc 1 tc (returnPath (s.returnEntry ep)) 1 ctx (s.genOf ctx) ep tag i
      (8 + min 56 (len - 56 * i))
    obtain ⟨hsrc, htag', hseq, hctx, hlen'⟩ := routedHdr_fields 1 tc (returnPath (s.returnEntry ep)) 1 ctx (s.genOf ctx) ep tag
      i (8 + min 56 (len - 56 * i))
    obtain ⟨ht, hh, hl⟩ := messagePay_fields s.switchId t h hlen i data
    exact ⟨rfl, _, rfl, htype, htc'.trans (Nat.mod_eq_of_lt htc), hsrc.trans (Nat.mod_eq_of_lt hep),
      htag'.trans (Nat.mod_eq_of_lt htag), hseq.trans (Nat.mod_eq_of_lt hi), hctx, hlen'.trans (Nat.mod_eq_of_lt (by omega)),
      ht, hh, hl⟩
  · unfold State.sendCell State.originate
    dsimp only
    rw [if_pos hret]
    refine ⟨?_, rfl, rfl, rfl, rfl, ⟨_, State.tile_modTile _ _ _⟩, fun v hv => State.tile_modTile_other _ _ hv⟩
    exact Table.get_set_same natRank ([] : List (Nat × Item)) s.xin (tileOutput t) _

/-- The cells of a message, sent one by one. -/
theorem State.sendCells_sent {s : State} {t : Fin 256} {h : Fin 16} {tc cc ep tag ctx len : Nat} {data : List Byte}
    (hret : bitOf (s.returnEntry ep) 63 = true) (htc : tc < 8) (hep : ep < 2 ^ 17) (htag : tag < 4096) (hlen : len < 2 ^ 16)
    (k : Nat) (hk : k ≤ 4096) : ∃ l, l.length = k ∧ MessageCells t h tc ep tag ctx len l ∧
      s.CellsSent t l ((List.range k).foldl (State.sendCell t h tc cc ep tag ctx len data) s) := by
  induction k with
  | zero => exact ⟨[], rfl, fun i c hc => by simp at hc, .refl _ _⟩
  | succ k ih =>
    obtain ⟨l, hlength, hcells, hsent⟩ := ih (by omega)
    obtain ⟨c, hc, hone⟩ := State.sendCell_sent (cc := cc) (data := data) (ctx := ctx) (h := h)
      ((congrArg (bitOf · 63) (hsent.returnEntry ep)).trans hret) htc hep htag (i := k) (by omega) hlen
    refine ⟨l ++ [c], by simp [hlength], hcells.append (by rwa [hlength]), ?_⟩
    rw [List.range_succ, List.foldl_append]
    exact hsent.trans hone

theorem State.thread_modTile_of_threads (s : State) (t : Nat) {f : Tile → Tile} (hf : ∀ x, (f x).threads = x.threads)
    (j k : Nat) : (s.modTile t f).thread j k = s.thread j k := by
  unfold State.thread
  by_cases hj : j = t
  · subst hj
    rw [State.tile_modTile, Tile.thread, hf, ← Tile.thread]
  · rw [State.tile_modTile_other _ _ hj]

theorem State.OnlyTiles.returnEntry {s u : State} (h : s.OnlyTiles u) (ep : Nat) : u.returnEntry ep = s.returnEntry ep := by
  obtain ⟨l, rfl⟩ := h
  rfl

/-- The state at issue with `n` cells counted on a CC, as MSG.SEND leaves it before its first cell. -/
def State.cellsCounted (s : State) (t h cc n : Nat) : State := (s.atIssue t h 1).modTile t fun x => x.ccAdd cc n

section
variable (s : State) (t h cc n : Nat)

theorem State.cellsCounted_only : s.OnlyTiles (s.cellsCounted t h cc n) :=
  (s.atIssue_onlyTiles t h 1).trans (State.modTile_onlyTiles _ _ _)

theorem State.cellsCounted_threads (j k : Nat) : (s.cellsCounted t h cc n).thread j k = (s.atIssue t h 1).thread j k :=
  State.thread_modTile_of_threads (s.atIssue t h 1) t (f := fun x => x.ccAdd cc n) (fun _ => rfl) j k

theorem State.cellsCounted_thread : (s.cellsCounted t h cc n).thread t h = s.thread t h := by
  rw [State.cellsCounted_threads, s.atIssue_thread]

theorem State.cellsCounted_livesOn (j k : Nat) : (s.thread j k).LivesOn ((s.cellsCounted t h cc n).thread j k) := by
  rw [State.cellsCounted_threads]
  exact (s.atIssue_wrote t h 1).livesOn j k

theorem State.cellsCounted_tile : ((s.cellsCounted t h cc n).tile t).streams = (s.tile t).streams ∧
    ((s.cellsCounted t h cc n).tile t).ccGet cc = ((s.tile t).ccGet cc + n) % 2 ^ 32 := by
  obtain ⟨b, d, htile⟩ := s.tile_atIssue t h 1
  rw [State.cellsCounted, State.tile_modTile, htile]
  exact ⟨rfl, Table.get_set_same _ _ _ _ _⟩

end

/-- What the operands of MSG.SEND must be (R195). -/
theorem message_noFault {b len tc : Nat} {own : Bool} (htc : b / 2 ^ 29 = tc) (hclass : tc = 4 ∨ tc = 6 ∨ tc = 7) (h0 : 0 < len)
    (hmax : len ≤ 3584) (hown : own = true) : firstFault [(decide (2 ^ 32 ≤ b) || !([4, 6, 7].contains tc) || len == 0 ||
      decide (3584 < len), 0x07), (!own, 0x04)] = none := by
  have hb : ¬ 2 ^ 32 ≤ b := by omega
  have hin : [4, 6, 7].contains tc = true := by rcases hclass with h | h | h <;> rw [h] <;> rfl
  have hlen : (len == 0) = false := by simpa using Nat.ne_of_gt h0
  rw [decide_eq_false hb, hin, hlen, decide_eq_false (Nat.not_lt.mpr hmax), hown]
  rfl

/-! ### MSG.BELL (R196, R355) -/

theorem State.ring?_congr {s u : State} (h : u.ctxs = s.ctxs) (c r : Nat) : u.ring? c r = s.ring? c r := by
  unfold State.ring? State.ctx
  rw [h]

theorem State.readTail_eq {s : State} {c r : Nat} {x : Ring} (h : s.ring? c r = some x) :
    s.readTail c r = s.setRing c r { x with tail := s.ringTail x } := by
  rw [State.readTail, h]

theorem State.nextRing_mem {s : State} {k : Nat} (h : s.nextRing = some k) : k ∈ s.ringWork := by
  unfold State.nextRing at h
  split at h
  · next j hj =>
    obtain rfl : j = k := Option.some.inj h
    exact List.mem_of_find?_eq_some hj
  · exact List.mem_of_head? h

/-- Rings of which no other than one with a command at its head has an entry to take stay. -/
theorem State.sweepRings_rest {s : State} {c r : Nat} {x : Ring} (hring : s.ring? c r = some x) (hr : r < 64)
    (hopen : s.ctxState c = 1) (hop : opcodes.contains (s.load (x.entry x.head) 2) = true)
    (hwork : ∀ i ∈ s.ringWork, i = ringRank c r) : s.sweepRings = s := by
  unfold State.sweepRings
  cases 4096 * s.ringWork.length with
  | zero => rfl
  | succ n =>
    unfold State.settleRings
    cases hnext : s.nextRing with
    | none => rfl
    | some j =>
      obtain rfl : j = 64 * c + r := hwork j (State.nextRing_mem hnext)
      have hc : (64 * c + r) / 64 = c := by omega
      have hr' : (64 * c + r) % 64 = r := by omega
      simp only [hc, hr', hring, hopen, hop]
      rfl

/-- A doorbell of a ring that an open context holds, with no other ring at work, reads its TAIL. -/
theorem State.bell_rest {s : State} {c r : Nat} {x : Ring} (hring : s.ring? c r = some x) (hr : r < 64)
    (hopen : s.ctxState c = 1) (hop : opcodes.contains (s.load (x.entry x.head) 2) = true) {src who : Nat}
    (hwork : ∀ i ∈ (s.setRing c r { x with tail := s.ringTail x }).ringWork, i = ringRank c r) :
    s.bell c r src who = s.setRing c r { x with tail := s.ringTail x } := by
  have hheld : ((s.ring? c r).isSome && s.ctxState c != 0) = true := by rw [hring, hopen]; rfl
  rw [State.bell, if_pos hheld, State.readTail_eq hring]
  have hstate : (s.setRing c r { x with tail := s.ringTail x }).ctxState c = s.ctxState c := rfl
  have hload (a n : Nat) : (s.setRing c r { x with tail := s.ringTail x }).load a n = s.load a n :=
    State.load_congr fun _ _ => by rw [State.setRing, State.modCtx_mem]
  have hentry : ({ x with tail := s.ringTail x } : Ring).entry ({ x with tail := s.ringTail x } : Ring).head =
      x.entry x.head := by simp only [Ring.entry]
  exact State.sweepRings_rest (s.ring?_setRing c r _) hr (hstate.trans hopen) (by rw [hload, hentry, hop]) hwork

/-! ### MSG.EVENT (R196) -/

/-- A class N event of a source that the table holds: its count, saturating, and the cycle of the latest (R373). -/
theorem State.notice_counts (s : State) {src : Nat} (hsrc : counted src = true) (cause detail qual : Nat) (ctx : Option Nat) :
    (s.notice 0 cause src detail qual ctx).load (countAddr s src) 4 = min (s.load (countAddr s src) 4 + 1) 0xFFFFFFFF ∧
      (s.notice 0 cause src detail qual ctx).load (countAddr s src + 24) 8 = s.cycle % 2 ^ 64 := by
  obtain ⟨e, P, hcls, rfl, heq⟩ := s.notice_zero cause src detail qual ctx
  have hload (a n : Nat) : (s.notice 0 cause e.src detail qual ctx).load a n = (s.countEvent e).load a n := by
    rw [heq]
    exact State.load_congr fun i _ => by rw [(State.post_postOnly _ P).mem]
  have hcount : s.countEvent e = ((s.count SPW_EVENTS).store (countAddr s e.src) 4
      (min (s.load (countAddr s e.src) 4 + 1) 0xFFFFFFFF)).store (countAddr s e.src + 24) 8 s.cycle := by
    simp only [State.countEvent, State.also, hsrc, if_true, hcls, Nat.mul_zero, Nat.add_zero]
    rfl
  rw [hload, hload, hcount]
  constructor
  · rw [State.load_store_other _ _ _ _ _ _ (by omega), State.load_store_same]
    exact Nat.mod_eq_of_lt (Nat.lt_of_le_of_lt (Nat.min_le_right _ _) (by decide))
  · exact State.load_store_same ..

section
variable {s : State} {t : Fin 256} {h : Fin 16} {w : BitVec 56} (r : s.Ready t h) (c : s.Calm t)
  (hown : ownRange t ((s.thread t h).pc + 8).toNat 8 = true)
include r c hown

theorem iMsgSend_sends {a b len tc : Nat} (ha : ((s.thread t h).getS (fA w.toNat)).toNat = a)
    (hb : ((s.thread t h).getS (fB w.toNat)).toNat = b) (hlen : ((s.thread t h).getS (fC w.toNat)).toNat = len)
    (hv : s.Valid t h [fA w.toNat, fB w.toNat, fC w.toNat] [])
    (hl : onlyUses w.toNat (useA ||| useB ||| useC ||| useCC) = true) (htc : b / 2 ^ 29 = tc) (hclass : tc = 4 ∨ tc = 6 ∨ tc = 7)
    (h0 : 0 < len) (hmax : len ≤ 3584) (hrange : ownRange t a len = true) (hclean : s.poisoned a len = false)
    (hret : bitOf (s.returnEntry (b % 2 ^ 17)) 63 = true) : Gives (.iMsgSend t h w) s fun u =>
      s.GotNone u t h ((s.thread t h).pc + 8) ∧
      (u.tile t).ccGet (fCC w.toNat) = ((s.tile t).ccGet (fCC w.toNat) + (len + 55) / 56) % 2 ^ 32 ∧
      ∃ l, Table.get [] u.xin (tileOutput t) = Table.get [] s.xin (tileOutput t) ++ l ∧ l.length = (len + 55) / 56 ∧
        MessageCells t h tc (b % 2 ^ 17) (b / 2 ^ 17 % 4096) (s.tile t).ctx len l := by
  obtain ⟨tiles, honly⟩ := s.atIssue_onlyTiles t h 1
  obtain ⟨ic, rot, htile⟩ := s.tile_atIssue t h 1
  obtain ⟨tiles', honly'⟩ := s.cellsCounted_only t h (fCC w.toNat) ((len + 55) / 56)
  obtain ⟨hstreams, hcc⟩ := s.cellsCounted_tile t h (fCC w.toNat) ((len + 55) / 56)
  obtain ⟨l, hlength, hcells, hsent⟩ := State.sendCells_sent (s := s.cellsCounted t h (fCC w.toNat) ((len + 55) / 56)) (t := t)
    (h := h) (cc := fCC w.toNat) (ctx := (s.tile t).ctx) (tag := b / 2 ^ 17 % 4096) (len := len) (data := s.bytes a len)
    (tc := tc) (by rw [(s.cellsCounted_only ..).returnEntry]; exact hret) (by omega) (Nat.mod_lt _ (by decide))
    (Nat.mod_lt _ (by decide)) (by omega) ((len + 55) / 56) (by omega)
  obtain ⟨m, hm⟩ := hsent.tile
  have hthread := (hsent.thread t h).trans (s.cellsCounted_thread t h (fCC w.toNat) ((len + 55) / 56))
  have hxin : (s.cellsCounted t h (fCC w.toNat) ((len + 55) / 56)).xin = s.xin := by rw [honly']; rfl
  refine (r.gives_looked c rfl hl hv hown ?_ (by rw [hthread]) (hsent.sets.trans (by rw [honly']; rfl))
    (fun j k => by rw [hsent.thread]; exact s.cellsCounted_livesOn ..) (by rw [hm]; exact hstreams)).mono
    fun z hz => ⟨?_, ?_, l, ?_, hlength, hcells⟩
  · have hb29 : bitsOf b 29 3 = tc := by rw [bitsOf_eq]; omega
    have hb17 : bitsOf b 17 12 = b / 2 ^ 17 % 4096 := bitsOf_eq ..
    have hb0 : bitsOf b 0 17 = b % 2 ^ 17 := by rw [bitsOf_eq]; simp
    have hpoison : (s.atIssue t h 1).poisoned a len = false := by rw [honly]; exact hclean
    have hentry : bitOf ((s.atIssue t h 1).returnEntry (b % 2 ^ 17)) 63 = true := by
      rw [(s.atIssue_onlyTiles t h 1).returnEntry]
      exact hret
    have hbytes : (s.atIssue t h 1).bytes a len = s.bytes a len := by rw [honly]; rfl
    have hctx : ((s.atIssue t h 1).tile t).ctx = (s.tile t).ctx := by rw [htile]
    simp only [ha, hb, hlen, hb29, hb17, hb0, message_noFault htc hclass h0 hmax hrange, hpoison, hentry, hbytes, hctx]
    rfl
  · exact State.gotNone_of_thread (y := s.thread t h) (by rw [hz.thread, State.thread_modThread, hthread]) rfl rfl rfl rfl
  · have hkept (x : Tile) (y : Thread) (q : List (Nat × Nat)) :
        (({ x with msgCc := q }).setThread h y).unhold.ccGet (fCC w.toNat) = x.ccGet (fCC w.toNat) := rfl
    rw [hz.tile, State.tile_modThread, hm, hkept, hcc]
  · rw [hz.xin, State.modThread_xin, hsent.xin, hxin]

theorem iMsgEvent_counts (hv : s.Valid t h [fA w.toNat] []) (hl : onlyUses w.toNat useA = true) :
    Gives (.iMsgEvent t h w) s fun u => s.GotNone u t h ((s.thread t h).pc + 8) ∧ u.rd SPW_EVENTS = s.rd SPW_EVENTS + 1 ∧
      u.load (countAddr s (sourceOf 1 t)) 4 = min (s.load (countAddr s (sourceOf 1 t)) 4 + 1) 0xFFFFFFFF ∧
      u.load (countAddr s (sourceOf 1 t) + 24) 8 = s.cycle % 2 ^ 64 := by
  obtain ⟨tiles, honly⟩ := s.atIssue_onlyTiles t h 1
  have hcounted : counted (sourceOf 1 t) = true := by
    have := t.isLt
    refine Bool.and_eq_true_iff.mpr ⟨decide_eq_true ?_, decide_eq_true ?_⟩ <;> unfold sourceOf <;> omega
  have hissue (a n : Nat) : (s.atIssue t h 1).load a n = s.load a n := by rw [honly]; rfl
  have htime : (s.atIssue t h 1).cycle = s.cycle := by rw [honly]; rfl
  have haddr : countAddr (s.atIssue t h 1) (sourceOf 1 t) = countAddr s (sourceOf 1 t) := by rw [honly]; rfl
  obtain ⟨hcount, hcycle⟩ := (s.atIssue t h 1).notice_counts hcounted 0x000C ((s.thread t h).getS (fA w.toNat)).toNat h
    (some ((s.atIssue t h 1).tile t).ctx)
  rw [haddr, hissue] at hcount
  rw [haddr, htime] at hcycle
  refine (r.gives_looked_of_wrote c rfl hl hv hown rfl ?_ ?_ (.refl t h _) (State.notice_tiles ..)).mono
    fun z hz => ⟨State.gotNone_of_thread (y := s.thread t h) ?_ rfl rfl rfl rfl, ?_, ?_, ?_⟩
  · rw [State.thread, State.tile, State.notice_tiles, ← State.tile, ← State.thread, s.atIssue_thread]
  · rw [State.notice_sets, honly]
    rfl
  · rw [hz.thread, State.thread_modThread, State.thread, State.tile, State.notice_tiles, ← State.tile, ← State.thread,
      s.atIssue_thread]
  · rw [State.rd_congr hz.regs, State.rd_congr (State.modThread_regs _ _ _ _), State.events_notice_zero, honly]
    rfl
  · rw [← hcount]
    exact State.load_congr fun i _ => by rw [hz.mem, State.modThread_mem]
  · rw [← hcycle]
    exact State.load_congr fun i _ => by rw [hz.mem, State.modThread_mem]

theorem iMsgBell_reads {n : Nat} {k : Ring} (hn : (((s.thread t h).getS (fA w.toNat)).toNat + fIMM22 w.toNat) % 64 = n)
    (hv : s.Valid t h [fA w.toNat] []) (hl : onlyUses w.toNat (useA ||| useIMM22) = true)
    (hring : s.ring? (s.tile t).ctx n = some k) (hopen : s.ctxState (s.tile t).ctx = 1)
    (hop : opcodes.contains (s.load (k.entry k.head) 2) = true)
    (hwork : ∀ i ∈ (s.readTail (s.tile t).ctx n).ringWork, i = ringRank (s.tile t).ctx n) :
    Gives (.iMsgBell t h w) s fun u => s.GotNone u t h ((s.thread t h).pc + 8) ∧
      u.ring? (s.tile t).ctx n = some { k with tail := s.ringTail k } := by
  obtain ⟨tiles, honly⟩ := s.atIssue_onlyTiles t h 1
  let u := (s.atIssue t h 1).setRing (s.tile t).ctx n { k with tail := s.ringTail k }
  have hlt : n < 64 := hn ▸ Nat.mod_lt _ (by decide)
  have hctx : ((s.atIssue t h 1).tile t).ctx = (s.tile t).ctx := by
    obtain ⟨ic, rot, htile⟩ := s.tile_atIssue t h 1
    rw [htile]
  have htail : (s.atIssue t h 1).ringTail k = s.ringTail k := by rw [honly]; rfl
  have hread : (s.atIssue t h 1).bell (s.tile t).ctx n (sourceOf 1 t) h = u := by
    rw [State.bell_rest (x := k) (by rw [honly]; exact hring) hlt (by rw [honly]; exact hopen) (by rw [honly]; exact hop), htail]
    rw [State.readTail_eq hring] at hwork
    rw [htail, honly]
    exact hwork
  have htiles (j : Nat) : u.tile j = (s.atIssue t h 1).tile j := rfl
  have hthread (j m : Nat) : u.thread j m = (s.atIssue t h 1).thread j m := rfl
  have hthread' : u.thread t h = s.thread t h := (hthread t h).trans (s.atIssue_thread t h 1 h)
  have hcalm : (u.modThread t h Thread.advance).Calm t := by
    refine c.advanced h (by show (s.atIssue t h 1).sets = _; rw [honly]; rfl) (fun j m => ?_) ?_
    · rw [hthread]
      exact (s.atIssue_wrote t h 1).livesOn j m
    · obtain ⟨ic, rot, htile⟩ := s.tile_atIssue t h 1
      rw [htiles, htile]
  refine (r.gives_next_run rfl hl hv hown (u := u) ?_ (by rw [hthread'])).mono fun z hz => ⟨?_, ?_⟩
  · have hmask : ((s.thread t h).getS (fA w.toNat)).toNat + fIMM22 w.toNat &&& 63 = n :=
      (Nat.and_two_pow_sub_one_eq_mod _ 6).trans hn
    rw [hctx, hmask, hread]
  · refine State.gotNone_of_thread (y := s.thread t h) ?_ rfl rfl rfl rfl
    rw [hz, State.thread_commit, hcalm.looked.thread, State.thread_modThread, hthread']
  · obtain ⟨tiles', hrun⟩ := hcalm.run_onlyTiles
    have hctxs : z.ctxs = u.ctxs := by
      rw [hz, State.commit_ctxs, hrun, State.putTiles_ctxs, State.modThread_ctxs]
    rw [State.ring?_congr hctxs]
    exact State.ring?_setRing ..

end

/-- Settles O20: the cells that enter the crossbar one by one, the ring read with the other rings at rest, and the event
counted once; in a calm tile none of them is followed by anything that changes this. -/
theorem threadMessages : Obligations.ThreadMessages := by
  intro s t h w r c hv n y x a b len tc hown
  have hA : s.Valid t h [fA n] [] := hv.mono (by simp [n]) (by simp)
  refine ⟨fun hl hclass h0 hmax hrange hclean hret =>
      iMsgSend_sends r c hown rfl rfl rfl hv hl rfl hclass h0 hmax hrange hclean hret,
    fun k hl hring hopen hop hwork => iMsgBell_reads r c hown rfl hA hl hring hopen hop hwork, fun hl => ?_⟩
  have haddr : countAddr s (sourceOf 1 t) = (s.rd SPW_COUNT_BASE).toNat + 32 * (1024 + t) := by
    have := t.isLt
    unfold countAddr sourceOf
    omega
  rw [← haddr]
  exact iMsgEvent_counts r c hown hA hl

end Sys2Proof.Machine
end

section
/-! Statements of the tile's instructions that fail (O9, O19, O24): a vector load behind more requests than R143 lets a tile
have outstanding, a post whose record has an uncorrectable error, and an illegal instruction of a thread that has ended. -/

namespace Sys2Proof.Machine

/-! ### A state with one running thread -/

/-- After the boot, thread 0 of tile 0 is in RUN at address 0, and the tile is otherwise as `f` makes it. -/
def oneRunner (f : Tile → Tile) : State :=
  bootedModule.modTile 0 fun x => f { x with threads := [(0, { Thread.init with st := .run })] }

theorem oneRunner_thread {f : Tile → Tile} (hf : ∀ x, (f x).threads = x.threads) (k : Nat) :
    (oneRunner f).thread 0 k = if 0 = k then { Thread.init with st := .run } else Thread.init := by
  rw [oneRunner, State.thread, State.tile_modTile, Tile.thread, hf]
  rfl

theorem oneRunner_calm {f : Tile → Tile} (hf : ∀ x, (f x).threads = x.threads) (hstreams : ((oneRunner f).tile 0).streams = []) :
    (oneRunner f).Calm 0 := by
  refine ⟨hstreams, fun k => ?_, fun k => ?_, fun e he => ?_⟩
  · rw [oneRunner_thread hf]
    split <;> decide
  · rw [oneRunner_thread hf]
    split <;> rfl
  · have hnone : (oneRunner f).sets = [] := rfl
    rw [hnone] at he
    cases he

theorem oneRunner_valid {f : Tile → Tile} (hf : ∀ x, (f x).threads = x.threads) (ss vs : List Nat) :
    (oneRunner f).Valid 0 0 ss vs := by
  rw [State.Valid, oneRunner_thread hf]
  exact ⟨fun _ _ => List.not_mem_nil, fun _ _ => List.not_mem_nil⟩

/-! ### More than 512 requests outstanding -/

/-- Thread 0 runs, and 513 stores of the tile are outstanding. -/
def overfullTile : State := oneRunner fun x => { x with outst := List.replicate 513 ⟨0, 0, 0, .store⟩ }

theorem overfullTile_ready : overfullTile.Ready 0 0 := by constructor <;> decide +kernel

/-- Refutes O9: with 513 requests outstanding VLD of s0 waits for room, though it asks for none, and stays at its PC. -/
theorem not_memoryResults : ¬ Obligations.MemoryResults := by
  unfold Obligations.MemoryResults
  intro h
  have hcalm : overfullTile.Calm 0 := oneRunner_calm (fun _ => rfl) (by decide +kernel)
  have hloads := (h.2 overfullTile 0 0 0 overfullTile_ready hcalm (oneRunner_valid (fun _ => rfl) _ _) (by decide +kernel)
    (by decide +kernel) (by decide +kernel) (by decide)).1 (by decide) (by decide +kernel)
  have hstays : ((overfullTile.after (.iVld 0 0 0)).thread 0 0).pc = 0 := by decide +kernel
  have hfrom : (overfullTile.thread 0 0).pc = 0 := by decide +kernel
  have hgoes : ((overfullTile.after (.iVld 0 0 0)).thread 0 0).pc = (overfullTile.thread 0 0).pc + 8 := hloads.after.1
  rw [hstays, hfrom] at hgoes
  exact absurd hgoes (by decide)

/-! ### A record with an uncorrectable error -/

/-- Thread 0 runs and has taken entry 0; entry 1 holds the same chunk and is being sent for counter 0. -/
def sendingTile : State := oneRunner fun x =>
  { x with
    entries := [(0, { Entry.init with st := .taken, takenBy := some 0 }), (1, { Entry.init with st := .sending })]
    posts := [⟨1, 0, 0, 0, 0, 0, 0, 1, 0, 0, 0⟩] }

/-- Group 0 is active at its root with chunk 0 open, its node is that of both entries, and there is an uncorrectable error in
the record of entry 0. -/
def badRecord : State :=
  ((((sendingTile.putGroups [(0, { Group.init with nodes := [(0, 0)] })]).setGrp 0 4 2 0x0102).setGrp 0 24 4 1).setGrp 0 28 4
    0x10001).putPoison [128]

theorem badRecord_ready : badRecord.Ready 0 0 := by constructor <;> decide +kernel

theorem badRecord_calm : badRecord.Calm 0 := by
  have hsending : sendingTile.Calm 0 := oneRunner_calm (fun _ => rfl) (by decide +kernel)
  exact hsending.of_livesOn rfl (fun _ _ => .refl _) rfl

theorem badRecord_valid (ss vs : List Nat) : badRecord.Valid 0 0 ss vs :=
  oneRunner_valid (f := fun x => { x with entries := _, posts := _ }) (fun _ => rfl) ss vs

/-- Refutes O19: the error fails the chunk of the entry that WEIR.POST names, and the root voids it in every entry, which takes
the one cell that entry 1 had still to send off counter 0. The 73 cells of the post then leave the counter at 72. -/
theorem not_weirInstructions : ¬ Obligations.WeirInstructions := by
  unfold Obligations.WeirInstructions
  intro h
  have hpost := (h badRecord 0 0 0 badRecord_ready badRecord_calm (badRecord_valid _ _) (by decide +kernel)).2 (by decide)
    (by decide +kernel) (by decide +kernel) (by decide +kernel) (by decide +kernel)
  obtain ⟨-, -, hcount, -⟩ := hpost.after
  have hleaves : ((badRecord.after (.iWeirPost 0 0 0)).tile 0).ccGet 0 = 72 := by decide +kernel
  exact absurd (hleaves.symm.trans hcount) (by decide +kernel)

/-! ### A thread that has ended -/

/-- Refutes O24: thread 0 counts as ended and issues ACQ with J below I, and is IDLE then, not STOPPED. -/
theorem not_acqRelOperands : ¬ Obligations.AcqRelOperands := by
  unfold Obligations.AcqRelOperands
  intro h
  have hillegal := ((h endedRunner 0 0 (BitVec.ofNat 56 (2 ^ 43)) endedRunner_ready).2 (by decide)).1
  have hidle : ((endedRunner.after (.iAcq 0 0 (BitVec.ofNat 56 (2 ^ 43)))).thread 0 0).st = .idle := by decide +kernel
  exact absurd (hidle.symm.trans hillegal.after.1) (by decide)

end Sys2Proof.Machine
end

section
/-! What the Weir of a tile takes from its input (R207, R214, R215, R229): heads that open a contribution or hold the input,
payload cells that are staged, and TILE_WEIR_CFG. -/

namespace Sys2Proof.Machine

/-! ### What a node record rests on -/

theorem State.weirRegion_congr {s u : State} (hregs : u.regs = s.regs) (t : Nat) : u.weirRegion t = s.weirRegion t := by
  rw [State.weirRegion, State.fld_congr hregs, State.fld_congr hregs, State.weirRegion]

theorem State.nodeAddr_congr {s u : State} (hregs : u.regs = s.regs) (t n : Nat) : u.nodeAddr t n = s.nodeAddr t n := by
  rw [State.nodeAddr, State.weirBase, State.weirRegion_congr hregs, State.nodeAddr, State.weirBase]

theorem State.load_of_mem {s u : State} (hmem : u.mem = s.mem) (a n : Nat) : u.load a n = s.load a n :=
  State.load_congr fun i _ => by rw [hmem]

theorem State.nodeRec_congr {s u : State} (hmem : u.mem = s.mem) (hregs : u.regs = s.regs) (t n : Nat) :
    u.nodeRec t n = s.nodeRec t n := by
  rw [State.nodeRec, State.weirRegion_congr hregs, State.nodeAddr_congr hregs, State.load_of_mem hmem,
    State.nodeRec]

theorem State.stageAddr_congr {s u : State} (hmem : u.mem = s.mem) (hregs : u.regs = s.regs) (t n : Nat) :
    u.stageAddr t n = s.stageAddr t n := by
  rw [State.stageAddr, State.entryDir, State.weirBase, State.weirRegion_congr hregs, State.load_of_mem hmem,
    State.stageAddr, State.entryDir, State.weirBase]

/-- Bytes written outside a node record leave it. -/
theorem State.nodeRec_put {s : State} {t n a : Nat} {l : List Byte}
    (h : a + l.length ≤ s.nodeAddr t n ∨ s.nodeAddr t n + 256 ≤ a) : (s.put a l).nodeRec t n = s.nodeRec t n := by
  have hregion : (s.put a l).weirRegion t = s.weirRegion t := rfl
  have haddr : (s.put a l).nodeAddr t n = s.nodeAddr t n := rfl
  rw [State.nodeRec, State.nodeRec, hregion, haddr, State.load_put_other s (by omega)]

/-- A chunk has at most 256 element groups. -/
theorem nGroups_le (r : Nat) : nGroups r ≤ 256 := by
  have hall : ∀ f < 16, fmtPerChunk f / 64 ≤ 256 := by decide
  exact hall _ (bitsOf_lt r _ 4)

/-! ### The offered cell leaves its queue -/

/-- The tile's offer is over; memory and registers are as they were. -/
structure State.OfferTaken (s : State) (t : Nat) (u : State) : Prop where
  mem : u.mem = s.mem
  regs : u.regs = s.regs
  tile : u.tile t = { s.tile t with offer := none }

theorem State.sendTags_eq (s : State) (o v : Nat) : ∃ l, s.sendTags o v = s.putPorts l := by
  unfold State.sendTags
  split
  · exact ⟨s.ports, rfl⟩
  · exact ⟨_, rfl⟩

theorem State.takeOffer_taken (s : State) (t : Nat) : s.OfferTaken t (s.takeOffer t) := by
  unfold State.takeOffer
  split
  next f hf =>
    obtain ⟨ports, hports⟩ := s.sendTags_eq (1025 + t) f.vc
    obtain ⟨queues, hqueues⟩ := (s.putPorts ports).popQueue_eq (1025 + t) f.vc
    obtain ⟨slots, hslots⟩ := ((s.putPorts ports).putQueues queues).copyDone_eq f.slot
    rw [hports, hqueues, hslots]
    refine ⟨?_, ?_, ?_⟩
    · rw [State.modTile_mem, State.modVc_mem, State.putSlots_mem, State.putQueues_mem, State.putPorts_mem]
    · rw [State.modTile_regs, State.modVc_regs, State.putSlots_regs, State.putQueues_regs, State.putPorts_regs]
    · rw [State.tile_modTile, State.tile, State.modVc_tiles, State.putSlots_tiles, State.putQueues_tiles,
        State.putPorts_tiles, State.tile]
  next hf => exact ⟨rfl, rfl, by rw [← hf]⟩

/-! ### Heads (R207, R215) -/

section
variable (s : State) (t : Nat) (k : Cell)

/-- The node record that a head names, and the entry of its chunk. -/
def State.headNode : Nat := s.nodeRec t (hCirc k.h / 1024)
def State.headChunkEntry : Nat :=
  nEntryBase (s.headNode t k) + hdWire (s.headNode t k) k.pay % max 1 (nWindow (s.headNode t k))

/-- The entry that the first head of a chunk opens. -/
def State.freshEntry : Entry :=
  { Entry.init with st := .opened, node := hCirc k.h / 1024, chunk := hdWire (s.headNode t k) k.pay, step := hdStep k.pay,
                    grad := nGrad (s.headNode t k) }

/-- The contribution that a head opens, nothing of it received. -/
def headContrib : Contrib := ⟨k.pay, false, 0, 0, 0, false⟩

/-- From `s` to `u` the head `k` has opened its entry and a contribution. -/
def State.HeadOpens (u : State) : Prop :=
  let e := s.headChunkEntry t k
  let y := (u.tile t).entry e
  y.st = .opened ∧ y.node = hCirc k.h / 1024 ∧ y.chunk = hdWire (s.headNode t k) k.pay ∧ (u.tile t).offer = none ∧
    y.contrib (hCirc k.h % 1024) (hdPiece (s.headNode t k) k.pay) = some (headContrib k) ∧
    (hCirc k.h, e, hdPiece (s.headNode t k) k.pay) ∈ (u.tile t).openLabels ∧
    u.rd (WEIR_CONTRIB t) = s.rd (WEIR_CONTRIB t) + 1

end

section
variable {s : State} {t : Nat} {k : Cell}

theorem Entry.contrib_putContrib_same (y : Entry) (m j : Nat) (c : Contrib) : (y.putContrib m j c).contrib m j = some c :=
  Table.look_put_same ..

theorem Tile.entry_withLabels (x : Tile) (l : List (Nat × Nat × Nat)) (e : Nat) :
    ({ x with openLabels := l } : Tile).entry e = x.entry e := rfl

/-- A head is held exactly when it passes every check and its entry holds another chunk. -/
theorem State.headWaits_of_free (hfree : ((s.tile t).entry (s.headChunkEntry t k)).st = .free) : s.headWaits t k = false := by
  have hst : ((s.tile t).entry (s.headEntry t k).1).st = .free := hfree
  simp [State.headWaits, hst]

theorem State.headWaits_of_other (hpass : headRefusal (s.headNode t k) (hCirc k.h) k.pay none = none)
    (hst : ((s.tile t).entry (s.headChunkEntry t k)).st ≠ .free)
    (hother : ((s.tile t).entry (s.headChunkEntry t k)).node ≠ hCirc k.h / 1024 ∨
      ((s.tile t).entry (s.headChunkEntry t k)).chunk ≠ hdWire (s.headNode t k) k.pay) : s.headWaits t k = true := by
  have hentry : s.headEntry t k = (s.headChunkEntry t k, false, none) := by
    have hsame : (((s.tile t).entry (s.headChunkEntry t k)).st != .free &&
        ((s.tile t).entry (s.headChunkEntry t k)).node == hCirc k.h / 1024 &&
        ((s.tile t).entry (s.headChunkEntry t k)).chunk == hdWire (s.headNode t k) k.pay &&
        !((s.tile t).entry (s.headChunkEntry t k)).voided) = false := by
      rcases hother with h | h <;> simp [h]
    rw [← hpass]
    unfold State.headEntry
    simp only [State.headChunkEntry, State.headNode] at hsame ⊢
    simp only [hsame]
    rfl
  simp [State.headWaits, hentry, hst]

theorem State.headEntry_of_free (hfree : ((s.tile t).entry (s.headChunkEntry t k)).st = .free) :
    (s.headEntry t k).2.2 = headRefusal (s.headNode t k) (hCirc k.h) k.pay none := by
  simp only [State.headChunkEntry, State.headNode] at hfree
  simp [State.headEntry, hfree, State.headNode]

theorem State.takeHead_of_free (hfree : ((s.tile t).entry (s.headChunkEntry t k)).st = .free) (hmask : hdMasked k.pay = false) :
    s.takeHead t k = (((s.putEntry t (s.headChunkEntry t k) (s.freshEntry t k)).openRecord t (s.headChunkEntry t k)
      (hCirc k.h / 1024) (hdWire (s.headNode t k) k.pay) (hdStep k.pay)).count (WEIR_CONTRIB t)).modTile t fun x =>
        { x.setEntry (s.headChunkEntry t k) ((s.freshEntry t k).putContrib (hCirc k.h % 1024)
            (hdPiece (s.headNode t k) k.pay) (headContrib k)) with
          openLabels := (hCirc k.h, s.headChunkEntry t k, hdPiece (s.headNode t k) k.pay) :: x.openLabels } := by
  have hy : (((s.putEntry t (s.headChunkEntry t k) (s.freshEntry t k)).openRecord t (s.headChunkEntry t k)
      (hCirc k.h / 1024) (hdWire (s.headNode t k) k.pay) (hdStep k.pay)).tile t).entry (s.headChunkEntry t k) =
      s.freshEntry t k := by
    rw [State.openRecord, State.tile, State.put_tiles, ← State.tile, State.putEntry, State.tile_modTile, Tile.entry_setEntry]
  have hnone : ∀ m i, (s.freshEntry t k).contrib m i = none := fun _ _ => rfl
  have hclash : (s.freshEntry t k).clashes (s.headNode t k) (hCirc k.h % 1024) (hdPiece (s.headNode t k) k.pay) k.pay =
      false := by
    simp [Entry.clashes, hnone]
  unfold State.takeHead
  extract_lets label node slot p r e j blank reserved opened y counted clash masked recorded c taken
  have hopened : opened = (s.putEntry t (s.headChunkEntry t k) (s.freshEntry t k)).openRecord t (s.headChunkEntry t k)
      (hCirc k.h / 1024) (hdWire (s.headNode t k) k.pay) (hdStep k.pay) := if_pos (beq_iff_eq.mpr hfree)
  have hfresh : y = s.freshEntry t k := by
    simp only [y, hopened]
    exact hy
  have hc : c = headContrib k := by
    simp only [c, hfresh, hnone]
    rfl
  have hbusy : (y.masked slot || y.present r slot) = false := by
    rw [hfresh]
    rfl
  have hnoclash : clash = false := by
    simp only [clash, hfresh]
    exact hclash
  rw [hbusy, hmask, hnoclash]
  simp only [taken, counted, hfresh, hc, hopened]
  rfl

/-- A head that passes every check, for a FREE entry, opens it and a contribution once the Weir takes it in. -/
theorem State.weirHead_opens (hpass : headRefusal (s.headNode t k) (hCirc k.h) k.pay none = none)
    (hfree : ((s.tile t).entry (s.headChunkEntry t k)).st = .free) (hmask : hdMasked k.pay = false) :
    s.HeadOpens t k ((s.takeOffer t).weirHead t k) := by
  obtain ⟨hmem, hregs, htile⟩ := s.takeOffer_taken t
  unfold State.weirHead
  extract_lets label v
  have hvtile : v.tile t = { s.tile t with
      offer := none
      openLabels := (s.tile t).openLabels.filter (fun l => l.1 != label)
      refusing := (s.tile t).refusing.filter (· != label) } := by
    simp only [v]
    rw [State.tile_modTile, htile]
  have hvregs : v.regs = s.regs := by rw [← hregs, State.modTile_regs]
  have hvmem : v.mem = s.mem := by rw [← hmem, State.modTile_mem]
  have hnode : v.headNode t k = s.headNode t k := State.nodeRec_congr hvmem hvregs t _
  have hentry : v.headChunkEntry t k = s.headChunkEntry t k := by rw [State.headChunkEntry, hnode, State.headChunkEntry]
  have hvfree : ((v.tile t).entry (v.headChunkEntry t k)).st = .free := by
    rw [hvtile, hentry]
    exact hfree
  clear_value v
  rw [State.headEntry_of_free hvfree, hnode, hpass]
  dsimp only
  rw [State.takeHead_of_free hvfree hmask]
  generalize hx : (((v.putEntry t (v.headChunkEntry t k) (v.freshEntry t k)).openRecord t (v.headChunkEntry t k)
    (hCirc k.h / 1024) (hdWire (v.headNode t k) k.pay) (hdStep k.pay)).count (WEIR_CONTRIB t)) = w
  have hcount : w.rd (WEIR_CONTRIB t) = s.rd (WEIR_CONTRIB t) + 1 := by
    rw [← hx, State.rd_count_same, State.openRecord, State.rd_put, State.putEntry, State.rd_congr (State.modTile_regs ..),
      State.rd_congr hvregs]
  have hoffer : (w.tile t).offer = none := by
    rw [← hx, State.tile, State.count_tiles, State.openRecord, State.put_tiles, ← State.tile, State.putEntry,
      State.tile_modTile, hvtile]
    rfl
  unfold State.HeadOpens
  dsimp only
  rw [hentry, hnode, State.tile_modTile, Tile.entry_withLabels, Tile.entry_setEntry]
  refine ⟨rfl, rfl, congrArg (hdWire · k.pay) hnode, hoffer, Entry.contrib_putContrib_same .., List.mem_cons_self, hcount⟩

theorem State.HeadOpens.commit {u : State} (h : s.HeadOpens t k u) : s.HeadOpens t k (s.commit u) := by
  unfold State.HeadOpens at h ⊢
  rwa [State.tile_commit, State.rd_commit]

/-! ### The commands of a head -/

theorem execWeirHeadReceive_eq {t : Fin 256} (hon : s.on = true) (hopen : s.weirShut t = false) (hoff : s.offered t = some k)
    (htype : hType k.h = 8) : execWeirHeadReceive t k s = ok s (if s.headWaits t k then
      s.modTile t fun x => { x with offer := x.offer.map fun f => { f with held := true } }
      else (s.takeOffer t).weirHead t k) := by
  rw [execWeirHeadReceive, State.powered_on hon, if_neg (by simp [hopen, hoff, htype])]

theorem execWeirHoldRelease_eq {t : Fin 256} (hon : s.on = true) (hholds : s.weirHolds t = true)
    (hheld : s.tileHeld t = false) (hoff : s.offered t = some k) : execWeirHoldRelease t s =
      ok s (if s.headWaits t k then s else (s.takeOffer t).weirHead t k) := by
  rw [execWeirHoldRelease, State.powered_on hon, if_neg (by simp [hholds, hheld]), hoff]

section
variable {t : Fin 256} (hon : s.on = true) (hoff : s.offered t = some k)
include hon hoff

theorem weirHeadReceive_opens (hopen : s.weirShut t = false) (htype : hType k.h = 8)
    (hpass : headRefusal (s.headNode t k) (hCirc k.h) k.pay none = none)
    (hfree : ((s.tile t).entry (s.headChunkEntry t k)).st = .free) (hmask : hdMasked k.pay = false) :
    Gives (.weirHeadReceive t k) s (s.HeadOpens t k) := by
  have hexec := execWeirHeadReceive_eq hon hopen hoff htype
  rw [State.headWaits_of_free hfree, if_neg Bool.false_ne_true] at hexec
  exact gives_ok hexec (State.weirHead_opens hpass hfree hmask).commit

theorem weirHoldRelease_opens (hholds : s.weirHolds t = true) (hheld : s.tileHeld t = false)
    (hpass : headRefusal (s.headNode t k) (hCirc k.h) k.pay none = none)
    (hfree : ((s.tile t).entry (s.headChunkEntry t k)).st = .free) (hmask : hdMasked k.pay = false) :
    Gives (.weirHoldRelease t) s (s.HeadOpens t k) := by
  have hexec := execWeirHoldRelease_eq hon hholds hheld hoff
  rw [State.headWaits_of_free hfree, if_neg Bool.false_ne_true] at hexec
  exact gives_ok hexec (State.weirHead_opens hpass hfree hmask).commit

theorem weirHeadReceive_holds (hopen : s.weirShut t = false) (htype : hType k.h = 8)
    (hpass : headRefusal (s.headNode t k) (hCirc k.h) k.pay none = none)
    (hst : ((s.tile t).entry (s.headChunkEntry t k)).st ≠ .free)
    (hother : ((s.tile t).entry (s.headChunkEntry t k)).node ≠ hCirc k.h / 1024 ∨
      ((s.tile t).entry (s.headChunkEntry t k)).chunk ≠ hdWire (s.headNode t k) k.pay) :
    Gives (.weirHeadReceive t k) s fun u => u.weirHolds t = true ∧ u.offered t = some k ∧
      (u.tile t).entries = (s.tile t).entries ∧ u.regs = s.regs ∧ u.mem = s.mem := by
  have hexec := execWeirHeadReceive_eq hon hopen hoff htype
  rw [State.headWaits_of_other hpass hst hother, if_pos rfl] at hexec
  refine gives_ok hexec ?_
  generalize hu : s.modTile t (fun x => { x with offer := x.offer.map fun f => { f with held := true } }) = u
  have htile : u.tile t = { s.tile t with offer := (s.tile t).offer.map fun f => { f with held := true } } := by
    rw [← hu, State.tile_modTile]
  obtain ⟨f, hf⟩ : ∃ f, (s.tile t).offer = some f := by
    rcases ho : (s.tile t).offer with _ | f
    · simp [State.offered, ho] at hoff
    · exact ⟨f, rfl⟩
  have hoffered : u.offered t = some k := by
    rw [← hoff, State.offered, State.offered, htile, hf]
    subst hu
    rfl
  have hholds : u.weirHolds t = true := by
    rw [State.weirHolds, hoffered, htile, hf]
    rfl
  refine ⟨hholds, hoffered, ?_, ?_, ?_⟩
  · rw [State.tile_commit, htile]
  · rw [State.commit_regs, ← hu, State.modTile_regs]
  · rw [State.commit_mem, ← hu, State.modTile_mem]

end

end

/-! ### Payload cells (R207, R214) -/

section
variable {s : State} {t : Nat} {k : Cell}

theorem Entry.contrib_putContrib_other (y : Entry) {m j m' j' : Nat} (c : Contrib) (h : 16 * m + j ≠ 16 * m' + j') :
    (y.putContrib m j c).contrib m' j' = y.contrib m' j' := by
  rw [Entry.contrib, Entry.putContrib, Table.look_put, if_neg h, Entry.contrib]

/-- What a slot has delivered does not depend on the contributions of another. -/
theorem Entry.delivers_putContrib (y : Entry) (r : Nat) {slot j m g : Nat} (c : Contrib) (hm : m ≠ slot) (hj : j < 16)
    (hg : g < 256) : (y.putContrib slot j c).delivers r m g = y.delivers r m g := by
  have hother : ∀ i < 16, (y.putContrib slot j c).contrib m i = y.contrib m i := fun i hi =>
    y.contrib_putContrib_other c (by omega)
  unfold Entry.delivers Entry.masked
  rw [hother 0 (by decide), hother (g / 16) (by omega)]

/-- A run waits while a slot that its node keeps has not delivered the group (R214). -/
theorem Entry.runReady_false {y : Entry} {r i m g : Nat} (hm : m ∈ runSlots r i) (hkept : nMask r m = true)
    (hnot : y.delivers r m g = false) : y.runReady r i g = false :=
  List.all_eq_false.mpr ⟨m, hm, by simp [hkept, hnot]⟩

theorem payBytes_length (p : Payload) : (payBytes p).length = 64 := toBytes_length 64 _

/-- A payload written to memory stands there byte by byte. -/
theorem read_put_payBytes (s : State) (a : Nat) (p : Payload) {i : Nat} (hi : i < 64) :
    Memory.read (s.put a (payBytes p)).mem (a + i) = BitVec.ofNat 8 (p.toNat / 2 ^ (8 * i)) := by
  have hlen : i < (payBytes p).length := by rwa [payBytes_length]
  have hread : Memory.read (s.put a (payBytes p)).mem (a + i) = (payBytes p)[i] := Memory.read_writeBytes_in _ s.mem a i hlen
  rw [hread]
  simp [payBytes, toBytes, Nat.shiftRight_eq_div_pow]

/-- A contribution with one more payload cell, not its last. -/
def Contrib.withCell (c : Contrib) (r : Nat) (p : Payload) : Contrib :=
  { c with got := c.got + 1, crc := BitVec.ofNat 32 (crc32cFrom c.crc.toNat (payBytes p)),
           delivered := max c.delivered (groupsOf r c.head (c.got + 1)), whole := false }

/-- The place of the next payload cell of piece `j` of slot `m` in entry `n` of a node with record `r` (R213). -/
def State.cellPlace (s : State) (t n m j r : Nat) (c : Contrib) : Nat :=
  s.stageAddr t n + 64 * (m * nSlotCells r + ((if isCarry r c.head then 64 * j else 0) + c.got))

/-- The next payload cell of an open contribution is staged at `a` behind those before it, and the contribution counts it. -/
structure State.CellStaged (s : State) (t n m j a : Nat) (c : Contrib) (k : Cell) (u : State) : Prop where
  bytes : ∀ i < 64, Memory.read u.mem (a + i) = BitVec.ofNat 8 (k.pay.toNat / 2 ^ (8 * i))
  other : ∀ b, b < a ∨ a + 64 ≤ b → Memory.read u.mem b = Memory.read s.mem b
  regs : u.regs = s.regs
  got : (((u.tile t).entry n).contrib m j).map Contrib.got = some (c.got + 1)

section
variable {n : Nat} {y : Entry} {r : Nat} (hy : (s.tile t).entry n = y) (hr : s.nodeRec t y.node = r)
include hy hr

/-- Nothing is summed of a run whose next group is not complete, or that has no further one. -/
theorem State.sumRuns_waiting {i : Nat} (h : y.runGroups i < nGroups r → y.runReady r i (y.runGroups i) = false) :
    s.sumRuns t n i = s := by
  unfold State.sumRuns
  rw [hy, hr]
  cases hn : nGroups r with
  | zero => rfl
  | succ fuel =>
    rw [State.sumRunTo, if_pos]
    rw [hy, hr]
    by_cases hlt : y.runGroups i < nGroups r
    · simp [h hlt]
    · simp [not_lt.mp hlt]

variable {j label : Nat} {c : Contrib} (hc : y.contrib (label % 1024) j = some c) (hmore : c.got + 1 < cellsOf r c.head)
include hc hmore

/-- A cell that is not the last of its contribution is staged and counted, and its run may go on. -/
theorem State.stageCell_more : s.stageCell t n j label k =
    ((s.put (s.cellPlace t n (label % 1024) j r c) (payBytes k.pay)).putEntry t n
      (y.putContrib (label % 1024) j (c.withCell r k.pay))).sumRuns t n (label % 1024 / nRun r) := by
  have hlast : decide (cellsOf r c.head ≤ c.got + 1) = false := decide_eq_false (by omega)
  unfold State.stageCell
  simp only [hy, hr, hc, hlast]
  rfl

/-- A cell that is not the last of its contribution, of a run that waits for slot `m`: the groups of the run stay as they
are. -/
theorem State.stageCell_stages (hj : j < 16) {a : Nat} (ha : s.cellPlace t n (label % 1024) j r c = a)
    (hapart : a + 64 ≤ s.nodeAddr t y.node ∨ s.nodeAddr t y.node + 256 ≤ a) {m : Nat}
    (hm : m ∈ runSlots r (label % 1024 / nRun r)) (hne : m ≠ label % 1024) (hkept : nMask r m = true)
    (hnot : y.delivers r m (y.runGroups (label % 1024 / nRun r)) = false) :
    s.CellStaged t n (label % 1024) j a c k (s.stageCell t n j label k) := by
  rw [State.stageCell_more hy hr hc hmore, ha]
  generalize hv : (s.put a (payBytes k.pay)).putEntry t n (y.putContrib (label % 1024) j (c.withCell r k.pay)) = v
  have hentry : (v.tile t).entry n = y.putContrib (label % 1024) j (c.withCell r k.pay) := by
    rw [← hv, State.putEntry, State.tile_modTile, Tile.entry_setEntry]
  have hnode : v.nodeRec t (y.putContrib (label % 1024) j (c.withCell r k.pay)).node = r := by
    have hput : (s.put a (payBytes k.pay)).nodeRec t y.node = s.nodeRec t y.node :=
      State.nodeRec_put (by rwa [payBytes_length])
    rw [← hr, ← hput, ← hv]
    exact State.nodeRec_congr rfl rfl _ _
  have hwaits : v.sumRuns t n (label % 1024 / nRun r) = v := State.sumRuns_waiting hentry hnode fun hlt =>
    Entry.runReady_false hm hkept ((y.delivers_putContrib r _ hne hj (hlt.trans_le (nGroups_le r))).trans hnot)
  have hmem : v.mem = (s.put a (payBytes k.pay)).mem := by rw [← hv, State.putEntry, State.modTile_mem]
  rw [hwaits]
  refine ⟨fun i hi => ?_, fun b hb => ?_, ?_, ?_⟩
  · rw [hmem, read_put_payBytes s a k.pay hi]
  · rw [hmem, s.read_put_out (by rwa [payBytes_length])]
  · rw [← hv, State.putEntry, State.modTile_regs, State.put_regs]
  · rw [hentry, Entry.contrib_putContrib_same]
    rfl

end

/-! ### The command of a payload cell -/

section
variable {t : Fin 256} (hon : s.on = true) (hopen : s.weirShut t = false) (hoff : s.offered t = some k) (htype : hType k.h = 2)
include hon hopen hoff htype

theorem execWeirCellReceive_dropped (href : hCirc k.h ∈ (s.tile t).refusing) :
    execWeirCellReceive t k s = ok s (s.takeOffer t) := by
  rw [execWeirCellReceive, State.powered_on hon, if_neg (by simp [hopen, hoff, htype])]
  dsimp only
  rw [if_neg (by simp [htype]), (s.takeOffer_taken t).tile, if_pos (List.contains_iff_mem.mpr href)]

theorem weirCellReceive_drops (href : hCirc k.h ∈ (s.tile t).refusing) : Gives (.weirCellReceive t k) s fun u =>
    u.mem = s.mem ∧ u.regs = s.regs ∧ (u.tile t).entries = (s.tile t).entries := by
  obtain ⟨hmem, hregs, htile⟩ := s.takeOffer_taken t
  refine gives_ok (execWeirCellReceive_dropped hon hopen hoff htype href) ⟨?_, ?_, ?_⟩
  · rw [State.commit_mem, hmem]
  · rw [State.commit_regs, hregs]
  · rw [State.tile_commit, htile]

section
variable (href : hCirc k.h ∉ (s.tile t).refusing)
include href

theorem execWeirCellReceive_opened {l : Option (Nat × Nat × Nat)}
    (hl : (s.tile t).openLabels.find? (fun l => l.1 == hCirc k.h) = l) : execWeirCellReceive t k s =
      ok s (l.elim ((s.takeOffer t).count (WEIR_REFUSED t)) fun l => (s.takeOffer t).stageCell t l.2.1 l.2.2 (hCirc k.h) k) := by
  rw [execWeirCellReceive, State.powered_on hon, if_neg (by simp [hopen, hoff, htype])]
  dsimp only
  rw [if_neg (by simp [htype]), (s.takeOffer_taken t).tile, if_neg (by simpa using href), hl]
  cases l <;> rfl

theorem weirCellReceive_counts (hnone : (s.tile t).openLabels = []) : Gives (.weirCellReceive t k) s fun u =>
    u.mem = s.mem ∧ u.rd (WEIR_REFUSED t) = s.rd (WEIR_REFUSED t) + 1 ∧ (u.tile t).entries = (s.tile t).entries := by
  obtain ⟨hmem, hregs, htile⟩ := s.takeOffer_taken t
  have hexec := execWeirCellReceive_opened hon hopen hoff htype href (l := none) (by rw [hnone]; rfl)
  refine gives_ok hexec ⟨?_, ?_, ?_⟩
  · rw [State.commit_mem, Option.elim_none, State.count_mem, hmem]
  · rw [State.rd_commit, Option.elim_none, State.rd_count_same, State.rd_congr hregs]
  · rw [State.tile_commit, Option.elim_none, State.tile, State.count_tiles, ← State.tile, htile]

theorem weirCellReceive_stages {n j : Nat} {c : Contrib} {y : Entry} {r : Nat}
    (hlabel : (s.tile t).openLabels.find? (fun l => l.1 == hCirc k.h) = some (hCirc k.h, n, j))
    (hy : (s.tile t).entry n = y) (hr : s.nodeRec t y.node = r) (hc : y.contrib (hCirc k.h % 1024) j = some c)
    (hmore : c.got + 1 < cellsOf r c.head) (hj : j < 16) {a : Nat} (ha : s.cellPlace t n (hCirc k.h % 1024) j r c = a)
    (hapart : a + 64 ≤ s.nodeAddr t y.node ∨ s.nodeAddr t y.node + 256 ≤ a) {m : Nat}
    (hm : m ∈ runSlots r (hCirc k.h % 1024 / nRun r)) (hne : m ≠ hCirc k.h % 1024) (hkept : nMask r m = true)
    (hnot : y.delivers r m (y.runGroups (hCirc k.h % 1024 / nRun r)) = false) :
    Gives (.weirCellReceive t k) s (s.CellStaged t n (hCirc k.h % 1024) j a c k) := by
  obtain ⟨hmem, hregs, htile⟩ := s.takeOffer_taken t
  have hexec := execWeirCellReceive_opened hon hopen hoff htype href hlabel
  rw [Option.elim_some] at hexec
  generalize s.takeOffer t = v at *
  have hvy : (v.tile t).entry n = y := by
    rw [htile]
    exact hy
  have hvr : v.nodeRec t y.node = r := (State.nodeRec_congr hmem hregs t _).trans hr
  have hva : v.cellPlace t n (hCirc k.h % 1024) j r c = a := by
    rw [State.cellPlace, State.stageAddr_congr hmem hregs]
    exact ha
  have hstaged := State.stageCell_stages hvy hvr hc hmore hj hva (by rwa [State.nodeAddr_congr hregs]) hm hne hkept hnot
    (k := k)
  exact gives_ok hexec ⟨hstaged.bytes, fun b hb => hmem ▸ hstaged.other b hb, hstaged.regs.trans hregs, hstaged.got⟩

end

end

end

/-! ### TILE_WEIR_CFG (R229) -/

/-- The fields of TILE_WEIR_CFG in the order of its map. -/
def weirCfgFields : List Fld := [TILE_WEIR_CFG_ENABLE, TILE_WEIR_CFG_SIZE, TILE_WEIR_CFG_BASE]

section
variable {s : State} {t : Fin 256} (hon : s.on = true) (hbound : s.bound t = true) (v : Word)
include hon hbound

theorem tileWeirCfgWrite_stores (hnone : ∀ n < 1024, nValid (s.nodeRec t n) = false) : Gives (.tileWeirCfgWrite t v) s fun u =>
    (∀ f ∈ weirCfgFields, u.fld (TILE_WEIR_CFG t) f = bitsOf v.toNat f.lo f.width) ∧
      ∀ g, g ≠ TILE_WEIR_CFG t → u.rd g = s.rd g := by
  have hany : ((List.range 1024).any fun n => nValid (s.nodeRec t n)) = false :=
    List.any_eq_false.mpr fun n hn => by simp [hnone n (List.mem_range.mp hn)]
  have hexec : execTileWeirCfgWrite t v s = ok s (s.wr (TILE_WEIR_CFG t) (BitVec.ofNat 64 (fieldSum (storedField
      (s.rd (TILE_WEIR_CFG t)).toNat v.toNat) weirCfgFields))) := by
    rw [execTileWeirCfgWrite, State.powered_on hon, if_pos hbound, State.weirCfgWrite, hany]
    rfl
  have hlaid : laidOut 64 weirCfgFields = true := by decide
  refine gives_ok hexec ⟨fun f hf => ?_, fun g hg => ?_⟩
  · rw [State.fld_commit, State.fld, State.rd_wr_same, BitVec.toNat_ofNat,
      Nat.mod_eq_of_lt (fieldSum_lt (storedField_lt _ _) hlaid), bitsOf_fieldSum (storedField_lt _ _) hlaid hf]
    have hrw : ∀ f ∈ weirCfgFields, f.acc = .rw := by decide
    simp [storedField, hrw f hf]
  · rw [State.rd_commit, State.rd_wr_other _ _ (Ne.symm hg)]

theorem tileWeirCfgWrite_refused {n : Nat} (hn : n < 1024) (hvalid : nValid (s.nodeRec t n) = true) :
    Gives (.tileWeirCfgWrite t v) s fun u => u.rd (TILE_WEIR_CFG t) = s.rd (TILE_WEIR_CFG t) ∧
      u.rd SPW_EVENTS = s.rd SPW_EVENTS + 1 := by
  have hany : ((List.range 1024).any fun n => nValid (s.nodeRec t n)) = true :=
    List.any_eq_true.mpr ⟨n, List.mem_range.mpr hn, hvalid⟩
  have hexec : execTileWeirCfgWrite t v s = ok s (s.notice 0 0x0010 (sourceOf 1 t) v.toNat) := by
    rw [execTileWeirCfgWrite, State.powered_on hon, if_pos hbound, State.weirCfgWrite, if_pos hany]
  exact gives_ok hexec ⟨(s.notice_only _ _ _ _ _ _).rd _ (by simp [Reg.quiet, TILE_WEIR_CFG]),
    s.events_notice_zero _ _ _ _ _⟩

end

end Sys2Proof.Machine
end

section
/-! Groups made final, voids and the emitter of a Weir in a calm tile (R214, R218, R219, R257), and the steps that the
dry-furrow detector closes (R227). -/

namespace Sys2Proof.Machine

/-! ### Operations that leave the tiles and the crossbar's inputs -/

/-- The tiles, the thread sets and the crossbar's inputs are as they were. -/
structure State.TilesKept (s u : State) : Prop where
  tiles : u.tiles = s.tiles
  sets : u.sets = s.sets
  xin : u.xin = s.xin

theorem State.TilesKept.refl (s : State) : s.TilesKept s := ⟨rfl, rfl, rfl⟩

theorem State.TilesKept.trans {a b c : State} (h : a.TilesKept b) (k : b.TilesKept c) : a.TilesKept c :=
  ⟨k.tiles.trans h.tiles, k.sets.trans h.sets, k.xin.trans h.xin⟩

theorem State.TilesKept.foldl {β : Type} {f : State → β → State} (h : ∀ (s : State) b, s.TilesKept (f s b)) (l : List β)
    (s : State) : s.TilesKept (l.foldl f s) := by
  induction l generalizing s with
  | nil => exact .refl s
  | cons b l ih => exact (h s b).trans (ih _)

theorem State.EventOnly.tilesKept {s u : State} (h : s.EventOnly u) : s.TilesKept u := ⟨h.tiles, h.sets, h.xin⟩

theorem State.TilesKept.tile {s u : State} (h : s.TilesKept u) (t : Nat) : u.tile t = s.tile t := by
  rw [State.tile, h.tiles, State.tile]

theorem State.TilesKept.thread {s u : State} (h : s.TilesKept u) (t k : Nat) : u.thread t k = s.thread t k := by
  rw [State.thread, h.tile, State.thread]

section
variable (s : State)

theorem State.put_tilesKept (a : Nat) (l : List Byte) : s.TilesKept (s.put a l) := ⟨rfl, rfl, rfl⟩
theorem State.store_tilesKept (a n v : Nat) : s.TilesKept (s.store a n v) := ⟨rfl, rfl, rfl⟩
theorem State.setBytes_tilesKept (a : Nat) (l : List Byte) : s.TilesKept (s.setBytes a l) := ⟨rfl, rfl, rfl⟩
theorem State.wr_tilesKept (r : Reg) (v : Word) : s.TilesKept (s.wr r v) := ⟨rfl, rfl, rfl⟩
theorem State.count_tilesKept (r : Reg) : s.TilesKept (s.count r) := ⟨rfl, rfl, rfl⟩
theorem State.setGroup_tilesKept (g : Nat) (x : Group) : s.TilesKept (s.setGroup g x) := ⟨rfl, rfl, rfl⟩
theorem State.notice_tilesKept (cls cause src detail qual : Nat) (ctx : Option Nat) :
    s.TilesKept (s.notice cls cause src detail qual ctx) := (s.notice_only _ _ _ _ _ _).tilesKept

theorem State.setFlags_tilesKept (t engine f : Nat) (ctx : Option Nat) : s.TilesKept (s.setFlags t engine f ctx) := by
  rw [State.setFlags_eq]
  refine .foldl (fun u i => ?_) _ s
  unfold State.setFlag
  extract_lets n v
  have hv : u.TilesKept v := u.wr_tilesKept _ _
  split
  · split
    · exact hv.trans (v.notice_tilesKept _ _ _ _ _ _)
    · exact hv
  · exact .refl u

theorem State.nodeFlags_tilesKept (g c f : Nat) (b : Bool) : s.TilesKept (s.nodeFlags g c f b) := by
  unfold State.nodeFlags
  split
  · exact ⟨rfl, rfl, rfl⟩
  · exact .refl s

theorem State.noteRecord_tilesKept (t e : Nat) : s.TilesKept (s.noteRecord t e) :=
  ((s.put_tilesKept _ _).trans (State.put_tilesKept _ _ _)).trans (State.put_tilesKept _ _ _)

theorem State.recordRing_tilesKept (g chunk step red node slot fmtop flags elems ccrc : Nat) (payload : List Byte) :
    s.TilesKept (s.recordRing g chunk step red node slot fmtop flags elems ccrc payload) := by
  unfold State.recordRing
  extract_lets first pay n w x b
  split
  · split
    · exact ((s.put_tilesKept _ _).trans (State.store_tilesKept _ _ _ _)).trans (State.setGroup_tilesKept _ _ _)
    · exact ((s.store_tilesKept _ _ _).trans (State.store_tilesKept _ _ _ _)).trans (State.notice_tilesKept _ _ _ _ _ _ _)
  · exact .refl s

theorem State.tally_tilesKept (ctx group : Nat) (p : Payload) (nz : Nat) (pay : List Byte) :
    s.TilesKept (s.tally ctx group p nz pay) := by
  unfold State.tally
  extract_lets n z
  split
  · refine .foldl (fun u k => ?_) _ s
    extract_lets a
    split
    · exact ((u.store_tilesKept _ _ _).trans (State.store_tilesKept _ _ _ _)).trans (State.store_tilesKept _ _ _ _)
    · exact u.store_tilesKept _ _ _
  · exact .refl s

theorem State.noteOutput_tilesKept (t : Nat) (p : Machine.Posted) (k : Nat) (h : Payload) :
    s.TilesKept (s.noteOutput t p k h) := by
  unfold State.noteOutput
  extract_lets y r u
  have hu : s.TilesKept u := by
    simp only [u]
    split
    · exact s.recordRing_tilesKept _ _ _ _ _ _ _ _ _ _ _
    · exact .refl s
  split
  · exact hu.trans (u.tally_tilesKept _ _ _ _ _)
  · exact hu

/-- Groups that have drained change memory alone. -/
theorem State.drained_eq : ∃ m, s.drained = s.putMem m := by
  unfold State.drained
  generalize s.groupsBound = l
  induction l generalizing s with
  | nil => exact ⟨s.mem, rfl⟩
  | cons g l ih =>
    rw [List.foldl_cons]
    split
    · obtain ⟨m, hm⟩ := ih (s.setGState g 1)
      exact ⟨m, hm⟩
    · exact ih s

end

/-! ### A tile that stays calm -/

/-- No thread, thread set or stream is touched. -/
structure State.Undisturbed (t : Nat) (s u : State) : Prop where
  sets : u.sets = s.sets
  threads : ∀ v k, u.thread v k = s.thread v k
  streams : (u.tile t).streams = (s.tile t).streams

theorem State.Undisturbed.trans {t : Nat} {a b c : State} (h : a.Undisturbed t b) (k : b.Undisturbed t c) : a.Undisturbed t c :=
  ⟨k.sets.trans h.sets, fun v i => (k.threads v i).trans (h.threads v i), k.streams.trans h.streams⟩

theorem State.TilesKept.undisturbed {s u : State} (h : s.TilesKept u) (t : Nat) : s.Undisturbed t u :=
  ⟨h.sets, h.thread, by rw [h.tile]⟩

theorem State.modTile_undisturbed (s : State) (t : Nat) {f : Tile → Tile}
    (hthreads : (f (s.tile t)).threads = (s.tile t).threads)
    (hstreams : (f (s.tile t)).streams = (s.tile t).streams) : s.Undisturbed t (s.modTile t f) where
  sets := s.modTile_sets t f
  threads v k := by
    by_cases hv : v = t
    · rw [hv, State.thread, State.tile_modTile, Tile.thread, hthreads]
      rfl
    · rw [State.thread, State.tile_modTile_other _ _ hv, State.thread]
  streams := by rw [State.tile_modTile, hstreams]

theorem State.Undisturbed.calm {s u : State} {t : Nat} (h : s.Undisturbed t u) (c : s.Calm t) : u.Calm t :=
  c.of_livesOn h.sets (fun v k => (h.threads v k).symm ▸ .refl _) h.streams

/-- What an effect of the Weir or the emitter in a calm tile leaves once the tile has settled and drained groups have ended. -/
theorem State.Calm.settled {s : State} {t : Nat} (c : s.Calm t) : let u := (s.run t).drained
    u.tile t = (s.tile t).unhold ∧ u.regs = s.regs ∧ u.xin = s.xin := by
  have hlook := c.looked
  obtain ⟨m, hm⟩ := (s.run t).drained_eq
  rw [hm]
  exact ⟨hlook.tile, hlook.regs, hlook.xin⟩

/-! ### Voids (R218) -/

theorem Tile.entry_unhold (x : Tile) (e : Nat) : x.unhold.entry e = x.entry e := rfl

section
variable (x : Tile) (e : Nat)

theorem Tile.entry_freeEntry : (x.freeEntry e).entry e = .init := x.entry_setEntry e .init

theorem Tile.ccSet_streams (n : Nat) : (x.ccSet e n).streams = x.streams := rfl
theorem Tile.ccSub_streams (n : Nat) : (x.ccSub e n).streams = x.streams := Tile.ccSet_streams ..

theorem Tile.freeEntry_threads : (x.freeEntry e).threads = x.threads := rfl
theorem Tile.freeEntry_streams : (x.freeEntry e).streams = x.streams := rfl

theorem Tile.cq_freeEntry : ∀ d ∈ (x.freeEntry e).cq, descEntry d ≠ e := fun d hd => by
  simpa using (List.mem_filter.mp hd).2

theorem Tile.posts_freeEntry : ∀ p ∈ (x.freeEntry e).posts, p.entry ≠ e := fun p hp => by
  simpa using (List.mem_filter.mp hp).2

end

section
variable {s : State} {t e : Nat}

/-- Freeing an entry of a tile in which nothing else changed disturbs no thread. -/
theorem State.count_modTile_undisturbed (s : State) (r : Reg) (t : Nat) {f : Tile → Tile}
    (hthreads : ∀ x, (f x).threads = x.threads) (hstreams : ∀ x, (f x).streams = x.streams) :
    s.Undisturbed t ((s.count r).modTile t f) :=
  ((s.count_tilesKept r).undisturbed t).trans (State.modTile_undisturbed _ t (hthreads _) (hstreams _))

/-- What a void of a SENDING entry leaves in the completion counters before it frees the entry. -/
def Tile.withdrawPosts (x : Tile) (e : Nat) : Tile :=
  (x.posts.filter fun p => p.entry == e).foldl (fun x p => x.ccSub p.cc (p.pieces * (p.per + 1) - p.sent)) x

/-- A void frees an entry that is OPEN, QUEUED or SENDING. -/
theorem State.voidEntry_frees (hst : ((s.tile t).entry e).st = .opened ∨ ((s.tile t).entry e).st = .queued ∨
    ((s.tile t).entry e).st = .sending) : ∃ x : Tile, ((s.voidEntry t e).tile t) = x.freeEntry e ∧
      s.Undisturbed t (s.voidEntry t e) ∧ (s.voidEntry t e).rd (WEIR_VOIDED t) = s.rd (WEIR_VOIDED t) + 1 := by
  obtain ⟨f, hf, hthreads, hstreams⟩ : ∃ f : Tile → Tile,
      s.voidEntry t e = (s.count (WEIR_VOIDED t)).modTile t (fun x => (f x).freeEntry e) ∧
      (∀ x, (f x).threads = x.threads) ∧ ∀ x, (f x).streams = x.streams := by
    rcases hst with h | h | h
    · exact ⟨id, by rw [State.voidEntry, h]; rfl, fun _ => rfl, fun _ => rfl⟩
    · exact ⟨id, by rw [State.voidEntry, h]; rfl, fun _ => rfl, fun _ => rfl⟩
    · refine ⟨(Tile.withdrawPosts · e), by rw [State.voidEntry, h]; rfl, fun x => ?_, fun x => ?_⟩
      · exact foldl_keep Tile.threads _ (fun y p => y.ccSub_threads _ _) _ x
      · exact foldl_keep Tile.streams _ (fun y p => y.ccSub_streams _ _) _ x
  rw [hf]
  refine ⟨_, State.tile_modTile .., State.count_modTile_undisturbed _ _ _
    (fun x => ((f x).freeEntry_threads e).trans (hthreads x))
    (fun x => ((f x).freeEntry_streams e).trans (hstreams x)), ?_⟩
  rw [State.rd_congr (State.modTile_regs ..), State.rd_count_same]

/-- A void marks an entry that is TAKEN. -/
theorem State.voidEntry_marks (hst : ((s.tile t).entry e).st = .taken) : let u := s.voidEntry t e
    ((u.tile t).entry e).st = .taken ∧ ((u.tile t).entry e).voided = true ∧ s.Undisturbed t u ∧
      u.rd (WEIR_VOIDED t) = s.rd (WEIR_VOIDED t) + 1 := by
  obtain ⟨a, l, m, v, n, labels, heq⟩ : ∃ (a : Nat) (l : List Byte) (m v n : Nat)
      (labels : Tile → List (Nat × Nat × Nat)),
      s.voidEntry t e = (((s.count (WEIR_VOIDED t)).setBytes a l).store m 8 v).modTile t fun x =>
        { x.setEntry e { (s.tile t).entry e with st := .taken, finals := n, voided := true } with openLabels := labels x } := by
    rw [State.voidEntry, hst]
    exact ⟨_, _, _, _, _, _, rfl⟩
  have hkept := ((s.count_tilesKept (WEIR_VOIDED t)).trans (State.setBytes_tilesKept _ a l)).trans
    (State.store_tilesKept _ m 8 v)
  intro u
  have hentry : (u.tile t).entry e = { (s.tile t).entry e with st := .taken, finals := n, voided := true } := by
    rw [show u = _ from heq, State.tile_modTile, Tile.entry_withLabels, Tile.entry_setEntry]
  rw [hentry, show u = _ from heq]
  refine ⟨rfl, rfl, (hkept.undisturbed t).trans (State.modTile_undisturbed _ t rfl rfl), ?_⟩
  rw [State.rd_congr (State.modTile_regs ..), State.rd_congr (State.store_regs ..), State.rd_congr (State.setBytes_regs ..),
    State.rd_count_same]

end

section
variable {s : State} {t : Fin 256} (hon : s.on = true) (c : s.Calm t) (e : BitVec 12)
include hon c

/-- A void of the management cores, whatever it does to the entry, in a calm tile. -/
theorem gives_weirVoid {P : State → Prop} (hcalm : s.Undisturbed t (s.voidEntry t e.toNat))
    (hP : ∀ u, u.tile t = ((s.voidEntry t e.toNat).tile t).unhold → u.regs = (s.voidEntry t e.toNat).regs → P u) :
    Gives (.weirVoid t e) s P := by
  have hexec : execWeirVoid t e s = ok s (((s.voidEntry t e.toNat).run t).drained) := by
    rw [execWeirVoid, State.powered_on hon]
  obtain ⟨htile, hregs, -⟩ := (hcalm.calm c).settled
  refine gives_ok hexec (hP _ ?_ ?_)
  · rw [State.tile_commit, htile]
  · rw [State.commit_regs, hregs]

theorem weirVoid_frees (hst : ((s.tile t).entry e.toNat).st = .opened ∨ ((s.tile t).entry e.toNat).st = .queued ∨
    ((s.tile t).entry e.toNat).st = .sending) : Gives (.weirVoid t e) s fun u =>
      ((u.tile t).entry e.toNat).st = .free ∧ u.rd (WEIR_VOIDED t) = s.rd (WEIR_VOIDED t) + 1 ∧
      (∀ d ∈ (u.tile t).cq, descEntry d ≠ e.toNat) ∧ ∀ p ∈ (u.tile t).posts, p.entry ≠ e.toNat := by
  obtain ⟨x, hx, hcalm, hcount⟩ := State.voidEntry_frees hst
  refine gives_weirVoid hon c e hcalm fun u htile hregs => ?_
  rw [htile, hx, Tile.entry_unhold, Tile.entry_freeEntry, State.rd_congr hregs, hcount]
  exact ⟨rfl, rfl, x.cq_freeEntry _, x.posts_freeEntry _⟩

theorem weirVoid_marks (hst : ((s.tile t).entry e.toNat).st = .taken) : Gives (.weirVoid t e) s fun u =>
    ((u.tile t).entry e.toNat).st = .taken ∧ ((u.tile t).entry e.toNat).voided = true ∧
      u.rd (WEIR_VOIDED t) = s.rd (WEIR_VOIDED t) + 1 := by
  obtain ⟨htaken, hvoided, hcalm, hcount⟩ := State.voidEntry_marks hst
  refine gives_weirVoid hon c e hcalm fun u htile hregs => ?_
  rw [htile, Tile.entry_unhold, State.rd_congr hregs]
  exact ⟨htaken, hvoided, hcount⟩

theorem weirVoid_free (hst : ((s.tile t).entry e.toNat).st = .free) : Gives (.weirVoid t e) s fun u =>
    u.rd (WEIR_VOIDED t) = s.rd (WEIR_VOIDED t) ∧ (u.tile t).entries = (s.tile t).entries := by
  have hsame : s.voidEntry t e.toNat = s := by
    unfold State.voidEntry
    dsimp only
    rw [hst]
  refine gives_weirVoid hon c e (hsame.symm ▸ (State.TilesKept.refl s).undisturbed t) fun u htile hregs => ?_
  rw [hsame] at htile hregs
  rw [htile, State.rd_congr hregs]
  exact ⟨rfl, rfl⟩

end

end Sys2Proof.Machine
end

section
/-! Groups made final by the Weir of a calm tile (R214). -/

namespace Sys2Proof.Machine

section
variable (s : State) (t e : Nat)

theorem State.entry_putEntry (y : Entry) : ((s.putEntry t e y).tile t).entry e = y := by
  rw [State.putEntry, State.tile_modTile, Tile.entry_setEntry]

theorem State.cq_putEntry (y : Entry) : ((s.putEntry t e y).tile t).cq = (s.tile t).cq := by
  rw [State.putEntry, State.tile_modTile]
  rfl

theorem State.putEntry_undisturbed (y : Entry) : s.Undisturbed t (s.putEntry t e y) :=
  s.modTile_undisturbed t rfl rfl

/-- The entry has the given groups final; its state, the queue of descriptors and the tile's threads are as they were. -/
structure State.FinalsSet (n : Nat) (u : State) : Prop where
  finals : ((u.tile t).entry e).finals = n
  st : ((u.tile t).entry e).st = ((s.tile t).entry e).st
  cq : (u.tile t).cq = (s.tile t).cq
  undisturbed : s.Undisturbed t u

variable {s t e}

theorem State.FinalsSet.kept {n : Nat} {u v : State} (h : s.FinalsSet t e n u) (k : u.TilesKept v) : s.FinalsSet t e n v where
  finals := by rw [k.tile, h.finals]
  st := by rw [k.tile, h.st]
  cq := by rw [k.tile, h.cq]
  undisturbed := h.undisturbed.trans (k.undisturbed t)

/-- The flags of a sum are noted in the entry, which keeps its state and its groups. -/
theorem State.FinalsSet.weirFlags {n : Nat} {u : State} (h : s.FinalsSet t e n u) (f : Nat) :
    s.FinalsSet t e n (u.weirFlags t e f) := by
  unfold State.weirFlags
  extract_lets y r v
  have hv : s.FinalsSet t e n v := by
    refine State.FinalsSet.kept ?_ (State.setFlags_tilesKept _ _ _ _ _)
    exact ⟨by rw [State.entry_putEntry, ← h.finals], by rw [State.entry_putEntry, ← h.st], by rw [State.cq_putEntry, h.cq],
      h.undisturbed.trans (u.putEntry_undisturbed t e _)⟩
  split
  · exact hv.kept (State.nodeFlags_tilesKept _ _ _ _ _)
  · exact hv

/-- What making group `g` final leaves before the first group's descriptor is placed. -/
theorem State.finalGroup_eq (s : State) (t e g : Nat) : ∃ v, s.FinalsSet t e (g + 1) v ∧
    s.finalGroup t e g = (if g = 0 then v.placeDesc t e else v).run t := by
  unfold State.finalGroup
  extract_lets y r fmt op w sums res tots f nz tw a b v
  refine ⟨v, ?_, rfl⟩
  have ha : s.TilesKept a := s.put_tilesKept _ _
  have hput : s.FinalsSet t e (g + 1) (a.putEntry t e { y with finals := g + 1, nz := y.nz + nz }) :=
    ⟨by rw [State.entry_putEntry], by rw [State.entry_putEntry], by rw [State.cq_putEntry, ha.tile],
      (ha.undisturbed t).trans (a.putEntry_undisturbed t e _)⟩
  exact (hput.weirFlags f).kept ((b.noteRecord_tilesKept t e).trans (State.put_tilesKept _ _ _))

theorem State.placeDesc_undisturbed (s : State) (t e : Nat) : s.Undisturbed t (s.placeDesc t e) := by
  unfold State.placeDesc
  extract_lets y
  split
  · exact s.modTile_undisturbed t rfl rfl
  · exact (State.TilesKept.refl s).undisturbed t

theorem Tile.entry_withQueue (x : Tile) (l : List Word) (e : Nat) : ({ x with cq := l } : Tile).entry e = x.entry e := rfl

/-- An open entry's descriptor joins the queue, and the entry is QUEUED. -/
theorem State.placeDesc_opened (hst : ((s.tile t).entry e).st = .opened) : let u := s.placeDesc t e
    ((u.tile t).entry e).st = .queued ∧ ((u.tile t).entry e).finals = ((s.tile t).entry e).finals ∧
      (u.tile t).cq.length = (s.tile t).cq.length + 1 := by
  have hplace : s.placeDesc t e = s.modTile t fun x =>
      { x.setEntry e { (s.tile t).entry e with st := .queued } with cq := x.cq ++ [s.descriptor t e] } := by
    simp [State.placeDesc, hst]
  have hentry : ((s.placeDesc t e).tile t).entry e = { (s.tile t).entry e with st := .queued } := by
    rw [hplace, State.tile_modTile, Tile.entry_withQueue, Tile.entry_setEntry]
  refine ⟨by rw [hentry], by rw [hentry], ?_⟩
  rw [hplace, State.tile_modTile, List.length_append]
  rfl

theorem State.placeDesc_other (hst : ((s.tile t).entry e).st ≠ .opened) : s.placeDesc t e = s := by
  simp [State.placeDesc, hst]

theorem State.placeDesc_finals (s : State) (t e : Nat) :
    (((s.placeDesc t e).tile t).entry e).finals = ((s.tile t).entry e).finals := by
  by_cases hst : ((s.tile t).entry e).st = .opened
  · exact (State.placeDesc_opened hst).2.1
  · rw [State.placeDesc_other hst]

end

section
variable {s : State} {t : Fin 256} (hon : s.on = true) (c : s.Calm t) (e : BitVec 12) (g : Fin 256)
  {y : Entry} {r : Nat} (hy : (s.tile t).entry e.toNat = y) (hr : s.nodeRec t y.node = r)
include hon c hy hr

/-- The next group of an entry, every run of which is summed, is made final; the first places the descriptor. -/
theorem weirGroupFinal_final (hst : y.st ≠ .free) (hfailed : y.failed = false) (hvoided : y.voided = false)
    (hnext : y.finals = g.val) (hg : g.val < nGroups r) (hrec : s.poisoned (s.recAddr t e.toNat) 256 = false)
    (hruns : ∀ i < nRuns r, y.runReady r i g = true ∧ g.val < y.runGroups i ∧
      s.poisoned (s.runPlace t e.toNat r i g).1 (s.runPlace t e.toNat r i g).2 = false) :
    Gives (.weirGroupFinal t e ⟨g, false⟩) s fun u => ((u.tile t).entry e.toNat).finals = g + 1 ∧
      (g.val = 0 → y.st = .opened → ((u.tile t).entry e.toNat).st = .queued ∧
        (u.tile t).cq.length = (s.tile t).cq.length + 1) ∧
      (0 < g.val → ((u.tile t).entry e.toNat).st = y.st ∧ (u.tile t).cq = (s.tile t).cq) := by
  have hready : ((List.range (nRuns r)).all fun i => y.runReady r i g) = true :=
    List.all_eq_true.mpr fun i hi => (hruns i (List.mem_range.mp hi)).1
  have hclean : ((List.range (nRuns r)).any fun i =>
      s.poisoned (s.runPlace t e.toNat r i g).1 (s.runPlace t e.toNat r i g).2) = false :=
    List.any_eq_false.mpr fun i hi => by simp [(hruns i (List.mem_range.mp hi)).2.2]
  have hsummed : (List.range (nRuns r)).foldl (fun s i =>
      if ((s.tile t).entry e.toNat).runGroups i ≤ g.val then s.sumRuns t e.toNat i else s) s = s :=
    foldl_same_mem _ s _ fun i hi => if_neg (by
      rw [hy]
      exact not_le.mpr (hruns i (List.mem_range.mp hi)).2.1)
  obtain ⟨v, hv, hfinal⟩ := s.finalGroup_eq t e.toNat g
  have hexec : execWeirGroupFinal t e ⟨g, false⟩ s =
      ok s ((if g.val = 0 then v.placeDesc t e.toNat else v).run t) := by
    rw [execWeirGroupFinal, State.powered_on hon, ← hfinal]
    simp only [hy, hr, hsummed, hready, hclean, hrec, hfailed, hvoided, hnext]
    simp [hst, not_le.mpr hg]
  refine gives_ok hexec ?_
  by_cases h0 : g.val = 0
  · rw [if_pos h0]
    have htile := ((hv.undisturbed.trans (v.placeDesc_undisturbed t e.toNat)).calm c).looked.tile
    rw [State.tile_commit, htile, Tile.entry_unhold, v.placeDesc_finals, hv.finals]
    refine ⟨rfl, fun _ hopen => ?_, fun hpos => by omega⟩
    obtain ⟨hqueued, -, hlength⟩ := State.placeDesc_opened (hv.st.trans (hy ▸ hopen))
    exact ⟨hqueued, hlength.trans (by rw [hv.cq])⟩
  · rw [if_neg h0]
    have htile := (hv.undisturbed.calm c).looked.tile
    rw [State.tile_commit, htile, Tile.entry_unhold]
    exact ⟨hv.finals, fun h => absurd h h0, fun _ => ⟨hv.st.trans (by rw [hy]), hv.cq⟩⟩

end

end Sys2Proof.Machine
end

section
/-! The emitter of a calm tile's Weir (R219, R257). -/

namespace Sys2Proof.Machine

/-- The fields of a circuit cell's header that say where it goes and what it holds. -/
theorem circuitHdr_fields (type tc circ seq34 ctx gen src tag len : Nat) :
    let h := (circuitHdr type tc circ seq34 ctx gen src tag len).toNat
    hType h = type % 16 ∧ hTc h = tc % 8 ∧ hCirc h = circ % 2 ^ 20 ∧ hPos h = seq34 % 128 := by
  intro h
  simp only [h, circuitHdr]
  generalize hx : type % 16 * 2 ^ 124 + tc % 8 * 2 ^ 121 + circ % 2 ^ 20 * 2 ^ 100 + seq34 / 4096 % 2 ^ 22 * 2 ^ 78 +
    ctx % 4096 * 2 ^ 64 + gen % 16 * 2 ^ 60 + src % 2 ^ 17 * 2 ^ 43 + tag % 4096 * 2 ^ 31 + seq34 % 4096 * 2 ^ 19 +
    len % 128 * 2 ^ 12 = x
  have hlt : x < 2 ^ 128 := by omega
  rw [hType, hTc, hCirc, hPos, hSeq34, bitsOf_sealHdr hlt (by decide), bitsOf_sealHdr hlt (by decide),
    bitsOf_sealHdr hlt (by decide), bitsOf_sealHdr hlt (by decide), bitsOf_sealHdr hlt (by decide)]
  simp only [bitsOf_eq]
  omega

/-- The place in its piece of the cell that a post sends next: 0 is the head. -/
def Posted.place (p : Machine.Posted) : Nat := p.sent % (p.per + 1)

/-- The cell that the emitter of a tile sends next for the post `p`, from the source `src`. -/
def State.emitterCell (s : State) (p : Machine.Posted) (src : Nat) : Cell :=
  let h := s.pieceHead p (p.sent / (p.per + 1))
  ⟨circuitHdr (if p.place = 0 then 8 else 2) 2 p.label (hdChunk h % 2 ^ 27 * 128 + p.place) p.ctx p.gen src
      (p.key % 4096) 64,
    if p.place = 0 then h
    else BitVec.ofNat 512 (s.load (p.addr + 64 * (p.per * (p.sent / (p.per + 1)) + p.place - 1)) 64)⟩

theorem State.emitterCell_fields (s : State) (p : Machine.Posted) (src : Nat) : let k := s.emitterCell p src
    hType k.h = (if p.place = 0 then 8 else 2) ∧ hTc k.h = 2 ∧ hCirc k.h = p.label % 2 ^ 20 ∧ hPos k.h = p.place % 128 := by
  intro k
  have htype : (if p.place = 0 then 8 else 2) % 16 = if p.place = 0 then 8 else 2 := by split <;> rfl
  have hpos (n : Nat) : (n * 128 + p.place) % 128 = p.place % 128 := by omega
  have hfields := circuitHdr_fields (if p.place = 0 then 8 else 2) 2 p.label
    (hdChunk (s.pieceHead p (p.sent / (p.per + 1))) % 2 ^ 27 * 128 + p.place) p.ctx p.gen src (p.key % 4096) 64
  rw [htype, hpos] at hfields
  exact hfields

/-- A tile whose emitter has sent one more cell of the post `p`: after its last cell the entry is FREE. -/
def Tile.cellSent (x : Tile) (p : Machine.Posted) (inc : BitVec 32) : Tile :=
  let x := if decide (p.pieces * (p.per + 1) ≤ p.sent + 1) then x.freeEntry p.entry
    else { x with posts := x.posts.map fun q => if q.entry == p.entry then { q with sent := q.sent + 1 } else q }
  x.emSent p.key inc (x.posts.any fun q => q.key == p.key)

section
variable (x : Tile) (p : Machine.Posted) (inc : BitVec 32)

theorem Tile.cellSent_threads : (x.cellSent p inc).threads = x.threads := by
  unfold Tile.cellSent
  split <;> rfl

theorem Tile.cellSent_streams : (x.cellSent p inc).streams = x.streams := by
  unfold Tile.cellSent
  split <;> rfl

theorem Tile.ccGet_cellSent (n : Nat) : (x.cellSent p inc).ccGet n = x.ccGet n := by
  unfold Tile.cellSent
  split <;> rfl

theorem Tile.entry_cellSent_last (hlast : p.pieces * (p.per + 1) ≤ p.sent + 1) :
    (x.cellSent p inc).entry p.entry = .init := by
  rw [Tile.cellSent, if_pos (decide_eq_true hlast)]
  exact Tile.entry_freeEntry _ _

theorem Tile.ccGet_ccSub_one {n : Nat} (hpos : 1 ≤ x.ccGet n) (hlt : x.ccGet n < 2 ^ 32) :
    (x.ccSub n 1).ccGet n = x.ccGet n - 1 := by
  rw [Tile.ccSub, Tile.ccSet, Tile.ccGet, Table.get_set_same]
  omega

end

section
variable (s : State) (t : Nat) (p : Machine.Posted)

/-- A state in which the head of a piece, where the next cell is one, is noted as an output. -/
def State.headNoted : State :=
  if p.place = 0 then s.noteOutput t p (p.sent / (p.per + 1)) (s.pieceHead p (p.sent / (p.per + 1))) else s

/-- A state after the next cell of the post `p` has gone into the crossbar. -/
def State.emitterSent : State :=
  let v := s.headNoted t p
  let u := v.inject (tileOutput t) 4 (.cell (s.emitterCell p (Config.ownSrc v.switchId).toNat))
  u.modTile t fun x => (x.ccSub p.cc 1).cellSent p (u.emitterInc p.key)

theorem State.headNoted_tilesKept : s.TilesKept (s.headNoted t p) := by
  unfold State.headNoted
  split
  · exact s.noteOutput_tilesKept _ _ _ _
  · exact .refl s

theorem State.xin_emitterSent : ∃ src, Table.get [] (s.emitterSent t p).xin (1025 + t) =
    Table.get [] s.xin (1025 + t) ++ [(4, .cell (s.emitterCell p src))] := by
  refine ⟨(Config.ownSrc (s.headNoted t p).switchId).toNat, ?_⟩
  rw [State.emitterSent, State.modTile_xin, State.inject, State.putXin_xin, (s.headNoted_tilesKept t p).xin]
  exact Table.get_set_same ..

theorem State.tile_emitterSent : ∃ inc, (s.emitterSent t p).tile t = ((s.tile t).ccSub p.cc 1).cellSent p inc := by
  rw [State.emitterSent, State.tile_modTile]
  exact ⟨_, by rw [State.tile, State.inject_tiles, (s.headNoted_tilesKept t p).tiles, State.tile]⟩

theorem State.emitterSent_undisturbed : s.Undisturbed t (s.emitterSent t p) := by
  have hinject (u : State) (n v : Nat) (item : Item) : u.Undisturbed t (u.inject n v item) := ⟨rfl, fun _ _ => rfl, rfl⟩
  unfold State.emitterSent
  refine (((s.headNoted_tilesKept t p).undisturbed t).trans (hinject _ _ _ _)).trans (State.modTile_undisturbed _ t ?_ ?_)
  · rw [Tile.cellSent_threads, Tile.ccSub_threads]
  · rw [Tile.cellSent_streams, Tile.ccSub_streams]

end

section
variable {s : State} {t : Fin 256} (hon : s.on = true) (c : s.Calm t) {p : Machine.Posted}
include hon c

/-- The emitter of a calm tile puts one cell of its next post into the crossbar. -/
theorem emitterSelect_sends (hissue : s.issueStopped t = false) (hroom : (Table.get [] s.xin (1025 + t)).length < 8)
    (hpost : (s.tile t).nextPost s.ctxOpen = some p) (hlive : (s.findGroup p.ctx (p.key % 4096)).filter s.gReplay = none) :
    Gives (.emitterSelect t) s fun u => ∃ src inc,
      Table.get [] u.xin (1025 + t) = Table.get [] s.xin (1025 + t) ++ [(4, .cell (s.emitterCell p src))] ∧
      u.tile t = (((s.tile t).ccSub p.cc 1).cellSent p inc).unhold := by
  have hexec : execEmitterSelect t s = ok s ((s.emitterSent t p).run t).drained := by
    have hfree : ¬8 ≤ (Table.get [] s.xin (tileOutput t)).length := not_le.mpr hroom
    rw [execEmitterSelect, State.powered_on hon]
    simp only [hissue, hpost, hlive, hfree, decide_false, Bool.or_false]
    rfl
  obtain ⟨htile, -, hxin⟩ := ((s.emitterSent_undisturbed t p).calm c).settled
  obtain ⟨src, hcell⟩ := s.xin_emitterSent t p
  obtain ⟨inc, hsent⟩ := s.tile_emitterSent t p
  refine gives_ok hexec ⟨src, inc, ?_, ?_⟩
  · rw [State.commit_xin, hxin, hcell]
  · rw [State.tile_commit, htile, hsent]

theorem emitterSelect_cell (hissue : s.issueStopped t = false) (hroom : (Table.get [] s.xin (1025 + t)).length < 8)
    (hpost : (s.tile t).nextPost s.ctxOpen = some p) (hlive : (s.findGroup p.ctx (p.key % 4096)).filter s.gReplay = none)
    (hpos : 1 ≤ (s.tile t).ccGet p.cc) (hlt : (s.tile t).ccGet p.cc < 2 ^ 32) :
    Gives (.emitterSelect t) s fun u => (∃ k : Cell,
        Table.get [] u.xin (1025 + t) = Table.get [] s.xin (1025 + t) ++ [(4, .cell k)] ∧
        hType k.h = (if p.place = 0 then 8 else 2) ∧ hTc k.h = 2 ∧ hCirc k.h = p.label % 2 ^ 20 ∧
        hPos k.h = p.place % 128 ∧
        (p.place ≠ 0 → k.pay =
          BitVec.ofNat 512 (s.load (p.addr + 64 * (p.per * (p.sent / (p.per + 1)) + p.place - 1)) 64))) ∧
      (u.tile t).ccGet p.cc = (s.tile t).ccGet p.cc - 1 ∧
      (p.pieces * (p.per + 1) ≤ p.sent + 1 → ((u.tile t).entry p.entry).st = .free) := by
  refine (emitterSelect_sends hon c hissue hroom hpost hlive).mono ?_
  rintro u ⟨src, inc, hxin, htile⟩
  obtain ⟨htype, htc, hcirc, hplace⟩ := s.emitterCell_fields p src
  refine ⟨⟨_, hxin, htype, htc, hcirc, hplace, fun hne => if_neg hne⟩, ?_, fun hlast => ?_⟩
  · have hunhold (x : Tile) : x.unhold.ccGet p.cc = x.ccGet p.cc := rfl
    rw [htile, hunhold, Tile.ccGet_cellSent, Tile.ccGet_ccSub_one _ hpos hlt]
  · rw [htile, Tile.entry_unhold, Tile.entry_cellSent_last _ _ _ hlast]
    rfl

end

end Sys2Proof.Machine
end

section
/-! The steps that the dry-furrow detector of a tag closes (R227). -/

namespace Sys2Proof.Machine

section
variable (s : State) (a now : Nat)

/-- A step closed in the record at `a`: the step is the context's, and its counts are zero. -/
def State.stepCleared : State := ((s.store (a + 16) 4 now).store (a + 20) 8 0).store (a + 28) 8 0

/-- The run of dry steps of the record at `a` ended. -/
def State.dryRunEnded : State := (s.store (a + 44) 4 0).store (a + 36) 4 0

theorem State.stepCleared_step : (s.stepCleared a now).load (a + 16) 4 = now % 2 ^ 32 := by
  rw [State.stepCleared, State.load_store_other _ _ _ _ _ _ (by omega), State.load_store_other _ _ _ _ _ _ (by omega),
    State.load_store_same]
  rfl

theorem State.stepCleared_elements : (s.stepCleared a now).load (a + 20) 8 = 0 := by
  rw [State.stepCleared, State.load_store_other _ _ _ _ _ _ (by omega), State.load_store_same, Nat.zero_mod]

theorem State.stepCleared_zeros : (s.stepCleared a now).load (a + 28) 8 = 0 := by
  rw [State.stepCleared, State.load_store_same, Nat.zero_mod]

theorem State.stepCleared_above {b : Nat} (h : a + 36 ≤ b) (n : Nat) : (s.stepCleared a now).load b n = s.load b n := by
  rw [State.stepCleared, State.load_store_other _ _ _ _ _ _ (by omega), State.load_store_other _ _ _ _ _ _ (by omega),
    State.load_store_other _ _ _ _ _ _ (by omega)]

theorem State.stepCleared_regs : (s.stepCleared a now).regs = s.regs := by
  rw [State.stepCleared, State.store_regs, State.store_regs, State.store_regs]

theorem State.dryRunEnded_length : (s.dryRunEnded a).load (a + 44) 4 = 0 := by
  rw [State.dryRunEnded, State.load_store_other _ _ _ _ _ _ (by omega), State.load_store_same, Nat.zero_mod]

theorem State.dryRunEnded_rank : (s.dryRunEnded a).load (a + 36) 4 = 0 := by
  rw [State.dryRunEnded, State.load_store_same, Nat.zero_mod]

theorem State.dryRunEnded_regs : (s.dryRunEnded a).regs = s.regs := by
  rw [State.dryRunEnded, State.store_regs, State.store_regs]

end

section
variable (s : State) (k a : Nat)

/-- The run of dry steps of the record at `a` made one longer; its first step is noted. -/
def State.dryRunLonger : State :=
  let len := s.load (a + 44) 4 % 2 ^ 20
  (if len = 0 then s.store (a + 40) 4 (s.load (a + 16) 4) else s).store (a + 44) 4 ((len + 1) % 2 ^ 20)

/-- The event of tag `k`, whose record is at `a`, when its run of dry steps, the last of them `cur`, fills the window. -/
def State.dryEvent (ctx cur : Nat) : Ev :=
  { cls := 0, src := sourceOf 7 0, code := evCode 0x0011, ctx := some ctx,
    detail := s.load (a + 40) 4 + cur * 2 ^ 32, extra := s.load (a + 36) 4 + k * 2 ^ 32 }

/-- What the detector makes of the step of tag `k`'s record at `a` before it clears the counts. -/
def State.dryJudged : State :=
  let n := s.load (a + 20) 8
  if n = 0 then s
  else if s.fld DRY_CFG DRY_CFG_THRESH * n ≤ s.load (a + 28) 8 * 2 ^ 20 then
    if max 1 ((s.dryRunLonger a).fld DRY_CFG DRY_CFG_WINDOW) ≤ s.load (a + 44) 4 % 2 ^ 20 + 1 then
      (((s.dryRunLonger a).count DRY_EVENTS).raise
        ((s.dryRunLonger a).dryEvent k a (s.load a 2 % 4096) (s.load (a + 16) 4))).dryRunEnded a
    else s.dryRunLonger a
  else s.dryRunEnded a

theorem State.dryRunLonger_regs : (s.dryRunLonger a).regs = s.regs := by
  rw [State.dryRunLonger, State.store_regs]
  split
  · exact s.store_regs _ _ _
  · rfl

variable {s k a}

/-- A step that was not dry ends the run of dry steps. -/
theorem State.dryJudged_wet (hlow : s.load (a + 28) 8 * 2 ^ 20 < s.fld DRY_CFG DRY_CFG_THRESH * s.load (a + 20) 8) :
    s.dryJudged k a = s.dryRunEnded a := by
  have hseen : s.load (a + 20) 8 ≠ 0 := by
    intro h
    rw [h, Nat.mul_zero] at hlow
    exact absurd hlow (Nat.not_lt_zero _)
  rw [State.dryJudged, if_neg hseen, if_neg (not_le.mpr hlow)]

section
variable (hdry : ¬s.load (a + 28) 8 * 2 ^ 20 < s.fld DRY_CFG DRY_CFG_THRESH * s.load (a + 20) 8)
  (hseen : s.load (a + 20) 8 ≠ 0)
include hdry hseen

/-- A dry step that does not fill the window makes the run of dry steps one longer. -/
theorem State.dryJudged_dry (hshort : s.load (a + 44) 4 % 2 ^ 20 + 1 < max 1 (s.fld DRY_CFG DRY_CFG_WINDOW)) :
    s.dryJudged k a = s.dryRunLonger a := by
  rw [State.dryJudged, if_neg hseen, if_pos (not_lt.mp hdry), State.fld_congr (s.dryRunLonger_regs a),
    if_neg (not_le.mpr hshort)]

/-- The dry step that fills the window is counted and told, and ends the run. -/
theorem State.dryJudged_full (hfull : max 1 (s.fld DRY_CFG DRY_CFG_WINDOW) ≤ s.load (a + 44) 4 % 2 ^ 20 + 1) :
    s.dryJudged k a = (((s.dryRunLonger a).count DRY_EVENTS).raise
      ((s.dryRunLonger a).dryEvent k a (s.load a 2 % 4096) (s.load (a + 16) 4))).dryRunEnded a := by
  rw [State.dryJudged, if_neg hseen, if_pos (not_lt.mp hdry), State.fld_congr (s.dryRunLonger_regs a), if_pos hfull]

end

theorem State.dryRunLonger_length (hlen : s.load (a + 44) 4 % 2 ^ 20 + 1 < 2 ^ 20) :
    (s.dryRunLonger a).load (a + 44) 4 = s.load (a + 44) 4 % 2 ^ 20 + 1 := by
  rw [State.dryRunLonger, State.load_store_same]
  omega

/-- The event that tells a dry run leaves its counter one higher. -/
theorem State.rd_dryTold (s : State) (ev : Ev) : ((s.count DRY_EVENTS).raise ev).rd DRY_EVENTS = s.rd DRY_EVENTS + 1 := by
  rw [((s.count DRY_EVENTS).raise_only ev none).rd DRY_EVENTS (by simp [Reg.quiet, DRY_EVENTS]), State.rd_count_same]

end

section
variable {s : State} (hon : s.on = true) {k : BitVec 12} {a now : Nat} (ha : tagAddr s k.toNat = a)
  (hnow : s.fld (CTX_STATE (s.load a 2 % 4096)) CTX_STATE_STEP = now) (hwatch : bitOf (s.load (a + 52) 1) 0 = true)
  (hclean : s.poisoned a 64 = false) (hlater : 0 < (now + 2 ^ 32 - s.load (a + 16) 4) % 2 ^ 32)
  (hnear : (now + 2 ^ 32 - s.load (a + 16) 4) % 2 ^ 32 < 2 ^ 31)
include hon ha hnow hwatch hclean hlater hnear

/-- A step of a watched tag is judged and cleared once the context has gone past it. -/
theorem gives_dryStepClose {P : State → Prop} (hP : ∀ u, u.regs = (s.dryJudged k.toNat a).regs →
    u.mem = ((s.dryJudged k.toNat a).stepCleared a now).mem → P u) : Gives (.dryStepClose k) s P := by
  have hvalid : s.tagValid k.toNat = true := by rw [State.tagValid, ha, hwatch, hclean]; rfl
  have hexec : execDryStepClose k s = ok s ((s.dryJudged k.toNat a).stepCleared a now) := by
    rw [execDryStepClose, State.powered_on hon]
    simp only [ha, hnow, hvalid, hlater.ne', not_le.mpr hnear, Bool.not_true, decide_false, Bool.or_false]
    rfl
  refine gives_ok hexec (hP _ ?_ ?_)
  · rw [State.commit_regs, State.stepCleared_regs]
  · rw [State.commit_mem]

/-- A step that was not dry ends the run and takes the context's step. -/
theorem dryStepClose_wet (hlow : s.load (a + 28) 8 * 2 ^ 20 < s.fld DRY_CFG DRY_CFG_THRESH * s.load (a + 20) 8) :
    Gives (.dryStepClose k) s fun u => u.load (a + 16) 4 = now % 2 ^ 32 ∧ u.load (a + 20) 8 = 0 ∧
      u.load (a + 28) 8 = 0 ∧ u.load (a + 44) 4 = 0 ∧ u.load (a + 36) 4 = 0 ∧ u.regs = s.regs := by
  refine gives_dryStepClose hon ha hnow hwatch hclean hlater hnear fun u hregs hmem => ?_
  rw [State.dryJudged_wet hlow] at hregs hmem
  simp only [State.load_of_mem hmem]
  refine ⟨State.stepCleared_step .., State.stepCleared_elements .., State.stepCleared_zeros .., ?_, ?_, ?_⟩
  · rw [State.stepCleared_above _ _ _ (by omega), State.dryRunEnded_length]
  · rw [State.stepCleared_above _ _ _ (by omega), State.dryRunEnded_rank]
  · rw [hregs, State.dryRunEnded_regs]

section
variable (hdry : ¬s.load (a + 28) 8 * 2 ^ 20 < s.fld DRY_CFG DRY_CFG_THRESH * s.load (a + 20) 8)
  (hseen : s.load (a + 20) 8 ≠ 0)
include hdry hseen

/-- A dry step short of the window makes the run one step longer. -/
theorem dryStepClose_dry (hshort : s.load (a + 44) 4 % 2 ^ 20 + 1 < max 1 (s.fld DRY_CFG DRY_CFG_WINDOW))
    (hlen : s.load (a + 44) 4 % 2 ^ 20 + 1 < 2 ^ 20) : Gives (.dryStepClose k) s fun u =>
      u.load (a + 16) 4 = now % 2 ^ 32 ∧ u.load (a + 20) 8 = 0 ∧
        u.load (a + 44) 4 = s.load (a + 44) 4 % 2 ^ 20 + 1 ∧ u.regs = s.regs := by
  refine gives_dryStepClose hon ha hnow hwatch hclean hlater hnear fun u hregs hmem => ?_
  rw [State.dryJudged_dry hdry hseen hshort] at hregs hmem
  simp only [State.load_of_mem hmem]
  refine ⟨State.stepCleared_step .., State.stepCleared_elements .., ?_, ?_⟩
  · rw [State.stepCleared_above _ _ _ (by omega), State.dryRunLonger_length hlen]
  · rw [hregs, State.dryRunLonger_regs]

/-- The dry step that fills the window is counted, and the run ends. -/
theorem dryStepClose_full (hfull : max 1 (s.fld DRY_CFG DRY_CFG_WINDOW) ≤ s.load (a + 44) 4 % 2 ^ 20 + 1) :
    Gives (.dryStepClose k) s fun u => u.rd DRY_EVENTS = s.rd DRY_EVENTS + 1 ∧ u.load (a + 44) 4 = 0 := by
  refine gives_dryStepClose hon ha hnow hwatch hclean hlater hnear fun u hregs hmem => ?_
  rw [State.dryJudged_full hdry hseen hfull] at hregs hmem
  constructor
  · rw [State.rd_congr hregs, State.rd_congr (State.dryRunEnded_regs ..), State.rd_dryTold,
      State.rd_congr (State.dryRunLonger_regs ..)]
  · rw [State.load_of_mem hmem, State.stepCleared_above _ _ _ (by omega), State.dryRunEnded_length]

end

end

end Sys2Proof.Machine
end

section
/-! Cells, groups, voids and the emitter of the Weir (O35). -/

namespace Sys2Proof.Machine

/-- Settles O35: a head opens its entry in a state whose offer is taken, a cell that waits for its run is staged alone, and
in a calm tile nothing but the effect itself moves the tile. -/
theorem weirCellsAndGroups : Obligations.WeirCellsAndGroups := by
  unfold Obligations.WeirCellsAndGroups
  refine ⟨fun s t k hon => ⟨?heads, ?release, ?cells, ?config⟩, fun s t hon c => ⟨?group, ?void, ?emitter, ?dry⟩⟩
  case heads =>
    exact fun hopen hoff htype => ⟨fun hpass hfree hmask => weirHeadReceive_opens hon hoff hopen htype hpass hfree hmask,
      fun hpass hst hother => weirHeadReceive_holds hon hoff hopen htype hpass hst hother⟩
  case release =>
    exact fun hholds hheld hoff hpass hfree hmask => weirHoldRelease_opens hon hoff hholds hheld hpass hfree hmask
  case cells =>
    refine fun hopen hoff htype => ⟨fun href => weirCellReceive_drops hon hopen hoff htype href,
      fun href hnone => weirCellReceive_counts hon hopen hoff htype href hnone, ?_⟩
    rintro n j cb href hlabel hc q a g node hmore hj hapart ⟨m, hm, hne, hkept, hnot⟩
    have hstaged := weirCellReceive_stages hon hopen hoff htype href hlabel rfl rfl hc hmore hj rfl hapart hm hne hkept hnot
    exact hstaged.mono fun u hu => ⟨hu.bytes, hu.other, hu.regs, hu.got⟩
  case config =>
    exact fun v hbound => ⟨tileWeirCfgWrite_stores hon hbound v,
      fun n hn hvalid => tileWeirCfgWrite_refused hon hbound v hn hvalid⟩
  case group =>
    intro e g y r hst hfailed hvoided hnext hg hrec hruns
    have hlive : y.st ≠ .free := by rcases hst with h | h | h <;> simp [h]
    exact weirGroupFinal_final hon c e g rfl rfl hlive hfailed hvoided hnext hg hrec hruns
  case void =>
    exact fun e => ⟨weirVoid_frees hon c e, weirVoid_marks hon c e, weirVoid_free hon c e⟩
  case emitter =>
    exact fun p hissue hroom hpost hlive hpos hlt => emitterSelect_cell hon c hissue hroom hpost hlive hpos hlt
  case dry =>
    exact fun k hwatch hclean hlater hnear =>
      ⟨fun hlow => dryStepClose_wet hon rfl rfl hwatch hclean hlater hnear hlow,
        fun hdry hseen hshort hlen => dryStepClose_dry hon rfl rfl hwatch hclean hlater hnear hdry hseen hshort hlen,
        fun hdry hseen hfull => dryStepClose_full hon rfl rfl hwatch hclean hlater hnear hdry hseen hfull⟩

end Sys2Proof.Machine
end

section
/-! What the runs of tiles and the pools respect (O36, O37): a relation between states that the primitive updates of tiles,
pools, memory and events keep is kept by everything that follows a void or the free of a pond copy. -/

namespace Sys2Proof.Machine

/-- A relation between the state before and after, which events, memory, tiles, pools, the crossbar's inputs and every register
of tiles, memory and pools leave standing. -/
structure Frame (R : State → State → Prop) : Prop where
  refl : ∀ s, R s s
  trans : ∀ {a b c}, R a b → R b c → R a c
  event : ∀ {s t : State}, s.EventOnly t → R s t
  wr : ∀ (s : State) {q : Reg} (v : Word), q.blk = 1 ∨ q.blk = 11 ∨ q.blk = 12 → R s (s.wr q v)
  poison : ∀ (s : State) v, R s (s.putPoison v)
  tiles : ∀ (s : State) v, R s (s.putTiles v)
  sets : ∀ (s : State) v, R s (s.putSets v)
  xin : ∀ (s : State) v, R s (s.putXin v)
  pools : ∀ (s : State) v, R s (s.putPools v)
  owners : ∀ (s : State) v, R s (s.putOwners v)
  bufs : ∀ (s : State) v, R s (s.putBufs v)
  waiters : ∀ (s : State) v, R s (s.putWaiters v)
  grants : ∀ (s : State) v, R s (s.putGrants v)

section
variable {R : State → State → Prop} (F : Frame R)
include F

theorem Frame.foldl {β : Type} {f : State → β → State} (h : ∀ s b, R s (f s b)) (l : List β) (s : State) :
    R s (l.foldl f s) := by
  induction l generalizing s with
  | nil => exact F.refl s
  | cons b l ih => exact F.trans (h s b) (ih _)

/-! ### Updates -/

section
variable (s : State)

theorem Frame.count {q : Reg} (n : Nat) (h : q.blk = 1 ∨ q.blk = 11 ∨ q.blk = 12) : R s (s.count q n) := F.wr s _ h
theorem Frame.setBytes (a : Nat) (l : List Byte) : R s (s.setBytes a l) := F.event (s.putMem_only _)
theorem Frame.store (a n v : Nat) : R s (s.store a n v) := F.setBytes s _ _
theorem Frame.put (a : Nat) (l : List Byte) : R s (s.put a l) := F.trans (F.setBytes s a l) (F.poison _ _)
theorem Frame.modTile (t : Nat) (f : Tile → Tile) : R s (s.modTile t f) := F.tiles s _
theorem Frame.inject (i v : Nat) (item : Item) : R s (s.inject i v item) := F.xin s _
theorem Frame.notice (cls cause src detail qual : Nat) (ctx : Option Nat) : R s (s.notice cls cause src detail qual ctx) :=
  F.event (s.notice_only _ _ _ _ _ _)

/-! ### Threads, streams and faults -/

theorem Frame.takeGrant (t h : Nat) : R s (s.takeGrant t h) := by
  unfold State.takeGrant
  split
  · exact F.modTile s _ _
  · exact F.refl s

theorem Frame.semGrant (t h : Nat) : R s (s.semGrant t h) := by
  unfold State.semGrant
  split
  · split
    · exact F.refl s
    · exact F.trans (F.store s _ _ _) (F.modTile _ _ _)
  · exact F.refl s

theorem Frame.settleOnce (t : Nat) : R s (s.settleOnce t) := by
  have hleft : R s (s.leaveAll t) := F.modTile s _ _
  unfold State.settleOnce
  split
  · exact hleft
  · have hsems : R ((s.leaveAll t).endWaits t) (((s.leaveAll t).endWaits t).semGrants t) :=
      F.foldl (fun s h => F.semGrant s t h) _ _
    exact F.trans (F.trans (F.trans hleft (F.modTile _ t _)) hsems) (F.foldl (fun s h => F.takeGrant s t h) _ _)

theorem Frame.endSet (e : Nat × TSet) : R s (s.endSet e) := by
  unfold State.endSet
  split
  · exact F.refl s
  · exact F.trans (F.sets s _) (F.event (State.postPlain_only _ _ _ _ _ _))

theorem Frame.settle (t : Nat) : R s (s.settle t) := F.trans (F.settleOnce s t) (F.foldl F.endSet _ _)

theorem Frame.faultLatch (t h cause pc acc : Nat) : R s (s.faultLatch t h cause pc acc) := by
  unfold State.faultLatch
  extract_lets valid v
  have hovf : R s v := by
    simp only [v, State.also]
    split
    · exact F.wr s _ (.inl rfl)
    · exact F.refl s
  clear_value v
  split
  · exact hovf
  · exact F.trans (F.trans (F.trans hovf (F.wr v _ (.inl rfl))) (F.wr _ _ (.inl rfl))) (F.modTile _ _ _)

theorem Frame.threadFault (t h cause pc acc : Nat) : R s (s.threadFault t h cause pc acc) := by
  have hevent (u : State) (n : Nat) : R u (u.faultEvent t h cause pc n acc) := by
    unfold State.faultEvent
    split
    · exact F.event (u.raise_only _ _)
    · exact F.refl u
  exact F.trans (F.trans (F.trans (F.faultLatch s t h cause pc acc) (F.modTile _ t _)) (hevent _ _)) (F.settle _ t)

theorem Frame.lateFault (t h : Nat) (st : RspStatus) (pc : Nat) (load : Bool) : R s (s.lateFault t h st pc load) := by
  unfold State.lateFault
  extract_lets y
  split
  · exact F.refl s
  · exact F.threadFault s _ _ _ _ _

theorem Frame.streamFail (t : Nat) (r : Stream) (st : RspStatus) : R s (s.streamFail t r st) :=
  F.trans (F.trans (F.modTile s _ _) (F.lateFault _ _ _ _ _ _)) (F.settle _ _)

theorem Frame.ueRead (a : Nat) : R s (s.ueRead a) := by
  unfold State.ueRead
  split <;> exact F.count s _ (by decide)

theorem Frame.streamDone (t id : Nat) : R s (s.streamDone t id) := by
  unfold State.streamDone
  split
  · exact F.refl s
  · exact F.modTile s _ _

theorem Frame.request (t h pc addr : Nat) (k : ReqKind) (w : Want) : R s (s.request t h pc addr k w) :=
  F.trans (F.modTile s t _) (F.inject _ _ _ _)

theorem Frame.streamLine (t : Nat) (r : Stream) : R s (s.streamLine t r) := by
  have hissued : R s (s.streamIssued t r.id) := F.modTile s _ _
  unfold State.streamLine
  extract_lets u l a
  refine F.trans hissued ?_
  change R u _
  clear_value u
  have hbad (b : Nat) : R u ((u.ueRead b).streamFail t r .data) := F.trans (F.ueRead u b) (F.streamFail _ _ _ _)
  have hmoved (b : Nat) (bs : List Byte) : R u ((u.put b bs).streamDone t r.id) :=
    F.trans (F.put u b bs) (F.streamDone _ _ _)
  split
  · exact F.streamFail u _ _ _
  · split
    · split
      · exact F.streamFail u _ _ _
      · split
        · split
          · exact hbad _
          · exact hmoved _ _
        · exact F.request u _ _ _ _ _ _
    · split
      · exact hbad _
      · split
        · split
          · exact F.streamFail u _ _ _
          · exact hmoved _ _
        · exact F.request u _ _ _ _ _ _

end

theorem Frame.pump (fuel : Nat) (s : State) (t : Nat) : R s (State.pump fuel s t) := by
  induction fuel generalizing s with
  | zero => exact F.refl s
  | succ n ih =>
    unfold State.pump
    split
    · split
      · exact F.trans (F.streamLine s _ _) (ih _)
      · exact F.refl s
    · exact F.refl s

section
variable (s : State)

theorem Frame.run (t : Nat) : R s (s.run t) := by
  refine F.trans ?_ (F.settle _ t)
  split
  · exact F.refl s
  · exact F.pump _ s t

/-! ### Pools -/

theorem Frame.answerHandle (w : Waiter) (h : Word) : R s (s.answerHandle w h) := by
  unfold State.answerHandle
  split
  · exact F.inject s _ _ _
  · exact F.event (s.emit_only _)
  · split
    · exact F.refl s
    · exact F.grants s _

theorem Frame.faultPool (p a : Nat) : R s (s.faultPool p a) := by
  have hraised := F.trans (F.pools s (Table.set natRank Pool.init s.pools p { s.pool p with state := 2 }))
    (F.event (State.raise_only _
      { cls := 1, src := sourceOf 12 0, code := evCode 0x001C p, ctx := some (s.pool p).ctx, detail := a } none))
  exact F.trans (F.trans hraised (F.waiters _ _)) (F.foldl (fun s w => F.answerHandle s w 0) _ _)

theorem Frame.takeFree (p : Nat) : R s (s.takeFree p).2 := by
  unfold State.takeFree
  extract_lets x
  split
  · split
    · exact F.refl s
    · exact F.pools s _
  · split
    · exact F.refl s
    · extract_lets seed
      split
      extract_lets bad u
      have hu : R s u := F.pools s _
      clear_value u
      dsimp only
      clear_value bad
      cases bad with
      | none => exact hu
      | some b => exact F.trans hu (F.faultPool u p b)

theorem Frame.allocNow (p o : Nat) (x : Owner) : R s (s.allocNow p o x).2 := by
  have htaken := F.takeFree s p
  unfold State.allocNow
  split
  next h => rwa [h] at htaken
  next h =>
    rw [h] at htaken
    exact F.trans (F.trans htaken (F.bufs _ _)) (F.owners _ _)

end

theorem Frame.serveWaiters (l : List Waiter) (s : State) : R s (s.serveWaiters l) := by
  induction l generalizing s with
  | nil => exact F.refl s
  | cons w l ih =>
    unfold State.serveWaiters
    refine F.trans ?_ (ih _)
    split
    · exact F.refl s
    · split
      next x _ =>
        split
        · have halloc := F.trans (F.waiters s (s.waiters.erase w)) (F.allocNow _ w.pool w.owner x)
          split
          next h =>
            rw [h] at halloc
            exact F.trans halloc (F.answerHandle _ _ _)
          · exact F.refl s
        · exact F.refl s
      · exact F.trans (F.waiters s _) (F.answerHandle _ _ _)

section
variable (s : State)

theorem Frame.giveFree (p a : Nat) : R s (s.giveFree p a) := by
  unfold State.giveFree
  extract_lets x u need next
  split
  · have hu : R s u := F.pools s _
    clear_value u
    split
    · split
      · exact F.trans hu (F.event (u.raise_only _ _))
      · exact F.trans hu (F.event (u.raise_only _ _))
    · exact hu
  · split
    · exact F.pools s _
    · exact F.trans (F.pools s _) (F.put _ _ _)

theorem Frame.release (p a : Nat) : R s (s.release p a) := by
  unfold State.release
  extract_lets b u w v
  have hu : R s u := F.count s _ (.inr (.inr rfl))
  have hw : R u w := by
    simp only [w]
    split
    · split
      · exact F.owners u _
      · exact F.refl u
    · exact F.refl u
  have hv : R w v := F.bufs w _
  exact F.trans (F.trans (F.trans (F.trans hu hw) hv) (F.giveFree v p a)) (F.serveWaiters _ _)

theorem Frame.poolFreeHandle (p o : Nat) (h : Word) : R s (s.poolFreeHandle p o h) := by
  unfold State.poolFreeHandle
  extract_lets a b
  split
  · split
    · exact F.release s _ _
    · exact F.bufs s _
  · exact F.count s _ (.inr (.inr rfl))

/-! ### Voids and control cells -/

theorem Frame.voidEntry (t e : Nat) : R s (s.voidEntry t e) := by
  have hcount : R s (s.count (WEIR_VOIDED t)) := F.count s _ (.inl rfl)
  unfold State.voidEntry
  extract_lets y u a v n w
  split
  · exact F.refl s
  · exact F.trans hcount (F.modTile _ _ _)
  · exact F.trans hcount (F.modTile _ _ _)
  · exact F.trans (F.trans (F.trans hcount (F.setBytes u _ _)) (F.store v _ _ _)) (F.modTile w _ _)
  · exact F.trans hcount (F.modTile _ _ _)

theorem Frame.voidEntries (g : Nat) (p : Nat → Bool) : R s (s.voidEntries g p) := by
  have hentry (u : State) (e : Nat × Nat × Nat) : R u ((u.voidEntry e.1 e.2.1).run e.1) :=
    F.trans (F.voidEntry u _ _) (F.run _ _)
  exact F.foldl hentry _ s

theorem Frame.drained : R s s.drained := by
  obtain ⟨m, hm⟩ := s.drained_eq
  exact hm ▸ F.event (s.putMem_only m)

theorem Frame.sendCtl (g type kind chunk label attempt flags reason count body : Nat) :
    R s (s.sendCtl g type kind chunk label attempt flags reason count body) := by
  unfold State.sendCtl
  extract_lets p
  unfold State.wmInject
  split
  · exact F.refl s
  · exact F.inject s _ _ _

end

end

end Sys2Proof.Machine
end

section
/-! Group records, chunks and the watermaster's control cells (O36, O37, O45): what reads back after a write, and the cells
that enter the crossbar. -/

namespace Sys2Proof.Machine

/-! ### Group records (Table 9-2) -/

section
variable (s : State) (g : Nat)

theorem State.grp_setGrp_same (b n v : Nat) : (s.setGrp g b n v).grp g b n = v % 256 ^ n := State.load_store_same ..

theorem State.grp_setGrp_other {b n b' n' : Nat} (v : Nat) (h : b' + n' ≤ b ∨ b + n ≤ b') :
    (s.setGrp g b n v).grp g b' n' = s.grp g b' n' :=
  s.load_store_other (groupAddr s g + b) n v (groupAddr s g + b') n' (by omega)

theorem State.grp_lt (b n : Nat) : s.grp g b n < 256 ^ n := State.load_lt ..

theorem State.gUp_lt : s.gUp g < 2 ^ 20 := Nat.mod_lt _ (by decide)

end

section
variable {s : State} {g : Nat}

theorem State.gState_eq (h : s.poisoned (groupAddr s g) 256 = false) : s.gState g = s.grp g 4 1 % 8 :=
  if_neg (by simp [h])

theorem State.clean_of_gState (h : s.gState g ≠ 0) : s.poisoned (groupAddr s g) 256 = false := by
  by_contra hbad
  rw [Bool.not_eq_false] at hbad
  exact h (if_pos hbad)

theorem State.gState_setGState {v : Nat} (h : s.poisoned (groupAddr s g) 256 = false) (hv : v < 8) :
    (s.setGState g v).gState g = v := by
  rw [State.gState_eq (s := s.setGState g v) h, State.setGState, State.grp_setGrp_same]
  omega

/-- A write beside STATE leaves it. -/
theorem State.gState_setGrp {b n : Nat} (v : Nat) (h : 5 ≤ b ∨ b + n ≤ 4) : (s.setGrp g b n v).gState g = s.gState g := by
  have hsame : (s.setGrp g b n v).grp g 4 1 = s.grp g 4 1 := s.grp_setGrp_other g v (by omega)
  unfold State.gState
  rw [hsame]
  rfl

/-- A flag of a record given a value. -/
theorem State.bitOf_setGBit (s : State) (g byte bit : Nat) (v : Bool) (hbit : bit < 8) :
    bitOf ((s.setGBit g byte bit v).grp g byte 1) bit = v := by
  have hlt : putBits (s.grp g byte 1) bit 1 (flag v) < 256 ^ 1 := 
    putBits_lt _ bit 1 _ 8 (s.grp_lt g byte 1) (by omega)
  rw [State.setGBit, State.grp_setGrp_same, Nat.mod_eq_of_lt hlt, bitOf_putBits_same]
  cases v <;> rfl

theorem State.gState_of_findGroup {c h : Nat} (hg : s.findGroup c h = some g) : s.gState g ≠ 0 := by
  have hmem := List.mem_of_find?_eq_some hg
  simpa using (List.mem_filter.mp hmem).2

end

/-! ### Chunks -/

section
variable (s : State) (g c : Nat) (y : Chunk)

@[simp] theorem State.group_modGroup (f : Group → Group) : (s.modGroup g f).group g = f (s.group g) :=
  State.group_setGroup ..

theorem State.group_putChunk :
    (s.putChunk g c y).group g = { s.group g with chunks := Table.put natRank (s.group g).chunks c y } :=
  s.group_modGroup g _

theorem Group.at_put (x : Group) : ({ x with chunks := Table.put natRank x.chunks c y } : Group).at_ c = y := by
  rw [Group.at_, Table.look_put_same]

@[simp] theorem State.chunkOf_putChunk : (s.putChunk g c y).chunkOf g c = y := by
  rw [State.chunkOf, State.group_putChunk, Group.at_put]

theorem State.sealed_putChunk : ((s.putChunk g c y).group g).sealed = (s.group g).sealed := by
  rw [State.group_putChunk]

/-- What is kept for a chunk does not open or close it. -/
theorem State.chunkOpen_putChunk (d : Nat) : (s.putChunk g c y).chunkOpen g d = s.chunkOpen g d := by
  unfold State.chunkOpen
  rw [State.sealed_putChunk]
  rfl

/-- What a group is but for its chunks, its highest attempt and its next record. -/
def Group.core (x : Group) : Group := { x with chunks := [], maxAttempt := 0, recSeq := 0 }

theorem State.core_putChunk : ((s.putChunk g c y).group g).core = (s.group g).core := by
  rw [State.group_putChunk]
  rfl

end

theorem State.chunkOpen_facts {s : State} {g c : Nat} (h : s.chunkOpen g c = true) :
    s.gState g = 2 ∧ c < s.gChunks g ∧ c ∉ (s.group g).sealed := by
  simp only [State.chunkOpen, Bool.and_eq_true, beq_iff_eq, decide_eq_true_eq, Bool.not_eq_true',
    List.contains_eq_mem, decide_eq_false_iff_not] at h
  exact ⟨h.1.1.1, h.1.1.2, h.1.2⟩

/-! ### What leaves the watermaster as it is -/

/-- The groups, the core cycle count and the watermaster's registers are as they were. -/
structure State.WmKept (s t : State) : Prop where
  groups : t.groups = s.groups
  cycle : t.cycle = s.cycle
  rd : ∀ r, r.blk = 8 → t.rd r = s.rd r

/-- Whatever tiles, pools and events do leaves the watermaster as it is. -/
theorem State.WmKept.frame : Frame State.WmKept where
  refl _ := ⟨rfl, rfl, fun _ _ => rfl⟩
  trans h k := ⟨k.groups.trans h.groups, k.cycle.trans h.cycle, fun r hr => (k.rd r hr).trans (h.rd r hr)⟩
  event h := ⟨h.groups, h.cycle, fun r hr => h.rd r (by simp [Reg.quiet, hr])⟩
  wr s q v hq := ⟨rfl, rfl, fun r hr => s.rd_wr_other v fun e => by subst e; omega⟩
  poison _ _ := ⟨rfl, rfl, fun _ _ => rfl⟩
  tiles _ _ := ⟨rfl, rfl, fun _ _ => rfl⟩
  sets _ _ := ⟨rfl, rfl, fun _ _ => rfl⟩
  xin _ _ := ⟨rfl, rfl, fun _ _ => rfl⟩
  pools _ _ := ⟨rfl, rfl, fun _ _ => rfl⟩
  owners _ _ := ⟨rfl, rfl, fun _ _ => rfl⟩
  bufs _ _ := ⟨rfl, rfl, fun _ _ => rfl⟩
  waiters _ _ := ⟨rfl, rfl, fun _ _ => rfl⟩
  grants _ _ := ⟨rfl, rfl, fun _ _ => rfl⟩

theorem State.WmKept.group {s t : State} (h : s.WmKept t) (g : Nat) : t.group g = s.group g := by
  rw [State.group, h.groups, State.group]

theorem State.WmKept.chunkOf {s t : State} (h : s.WmKept t) (g c : Nat) : t.chunkOf g c = s.chunkOf g c := by
  rw [State.chunkOf, h.group, State.chunkOf]

/-! ### Cells that the watermaster sends (R236) -/

theorem State.xin_inject (s : State) (i v : Nat) (item : Item) :
    Table.get [] (s.inject i v item).xin i = Table.get [] s.xin i ++ [(v, item)] := Table.get_set_same ..

/-- A control cell changes the crossbar's inputs alone. -/
theorem State.sendCtl_eq (s : State) (g type kind chunk label attempt flags reason count body : Nat) :
    ∃ x, s.sendCtl g type kind chunk label attempt flags reason count body = s.putXin x := by
  unfold State.sendCtl
  extract_lets p
  unfold State.wmInject
  split
  · exact ⟨s.xin, rfl⟩
  · exact ⟨_, rfl⟩

/-- A control cell of a group that may send enters the crossbar on its label. -/
theorem State.sendCtl_sent {s : State} {g : Nat} (h : s.wmMute g = false)
    (type kind chunk label attempt flags reason count body : Nat) :
    ∃ m : Cell, s.sendCtl g type kind chunk label attempt flags reason count body = s.inject 1297 6 (.cell m) ∧
      hType m.h = type % 16 ∧ hCirc m.h = label % 2 ^ 20 := by
  unfold State.sendCtl
  extract_lets p
  have hsent (m : Cell) : s.wmInject g 6 m = s.inject 1297 6 (.cell m) := by
    rw [State.wmInject, h]
    rfl
  rw [hsent]
  obtain ⟨htype, -, hcirc, -⟩ := circuitHdr_fields type 3 label (chunk % 2 ^ 27 * 128) (s.gCtx g) (s.genOf (s.gCtx g))
    (Config.ownSrc s.switchId).toNat (s.gHandle g) 64
  exact ⟨_, rfl, htype, hcirc⟩

/-- A cell sent on keeps its type and takes the new label. -/
theorem relabel_fields (k : Cell) (label : Nat) :
    hType (relabel k.h label).toNat = hType k.h ∧ hCirc (relabel k.h label).toNat = label % 2 ^ 20 := by
  have hlt : putBits k.h 100 20 label < 2 ^ 128 := putBits_lt _ _ _ _ _ k.hdr.isLt (by decide)
  rw [relabel, hType, hCirc, bitsOf_sealHdr hlt (by decide), bitsOf_sealHdr hlt (by decide)]
  exact ⟨bitsOf_putBits_above _ _ _ _ _ _ (by decide), bitsOf_putBits_same _ _ _ _⟩

/-- A cell of a branch goes on toward the root (R236). -/
theorem State.relayUp_sent {s : State} {g : Nat} (h : s.wmMute g = false) (k : Cell) : ∃ m : Cell,
    s.relayUp g k = s.inject 1297 (hVc k.h) (.cell m) ∧ hType m.h = hType k.h ∧ hCirc m.h = s.gUp g ∧ m.pay = k.pay := by
  obtain ⟨htype, hcirc⟩ := relabel_fields k (s.gUp g)
  refine ⟨⟨relabel k.h (s.gUp g), k.pay⟩, ?_, htype, hcirc.trans (Nat.mod_eq_of_lt (s.gUp_lt g)), rfl⟩
  rw [State.relayUp, State.wmInject, h]
  rfl

/-! ### Readers of a committed state, and of one that counts or takes a cell -/

section
variable (s t : State) (g : Nat)

@[simp] theorem State.group_commit : (s.commit t).group g = t.group g := rfl
@[simp] theorem State.chunkOf_commit (c : Nat) : (s.commit t).chunkOf g c = t.chunkOf g c := rfl

end

/-- Nothing has changed of what the watermaster goes by but for the groups: records in memory, registers other than its
counters, and the state of the module. -/
structure State.WmSame (s t : State) : Prop where
  rd : ∀ r, r.blk ≠ 8 ∨ r = WM_BASE ∨ r = WM_CFG → t.rd r = s.rd r
  mem : t.mem = s.mem
  poison : t.poison = s.poison
  reset : t.reset? = s.reset?
  capture : t.capture = s.capture
  capQ : t.capQ = s.capQ

theorem State.WmSame.trans {a b c : State} (h : a.WmSame b) (k : b.WmSame c) : a.WmSame c :=
  ⟨fun r hr => (k.rd r hr).trans (h.rd r hr), k.mem.trans h.mem, k.poison.trans h.poison, k.reset.trans h.reset,
    k.capture.trans h.capture, k.capQ.trans h.capQ⟩

/-- A counter of the watermaster. -/
theorem State.count_wmSame (s : State) {q : Reg} (hq : q.blk = 8 ∧ q ≠ WM_BASE ∧ q ≠ WM_CFG) : s.WmSame (s.count q) :=
  ⟨fun r hr => s.rd_count_other 1 fun e => by subst e; tauto, rfl, rfl, rfl, rfl, rfl⟩


theorem State.putChunk_wmSame (s : State) (g c : Nat) (y : Chunk) : s.WmSame (s.putChunk g c y) :=
  ⟨fun _ _ => rfl, rfl, rfl, rfl, rfl, rfl⟩

theorem State.putXin_wmSame (s : State) (x : List (Nat × List (Nat × Item))) : s.WmSame (s.putXin x) :=
  ⟨fun _ _ => rfl, rfl, rfl, rfl, rfl, rfl⟩

section
variable {s t : State} (h : s.WmSame t) (g : Nat)
include h

theorem State.WmSame.load (a n : Nat) : t.load a n = s.load a n := State.load_of_mem h.mem a n

theorem State.WmSame.poisoned (a n : Nat) : t.poisoned a n = s.poisoned a n := by
  rw [State.poisoned, h.poison, State.poisoned]

theorem State.WmSame.groupAddr : groupAddr t g = groupAddr s g := by
  rw [Machine.groupAddr, h.rd WM_BASE (.inr (.inl rfl)), Machine.groupAddr]

theorem State.WmSame.grp (b n : Nat) : t.grp g b n = s.grp g b n := by
  rw [State.grp, h.groupAddr, h.load, State.grp]

theorem State.WmSame.gState : t.gState g = s.gState g := by
  rw [State.gState, h.groupAddr, h.poisoned, h.grp, State.gState]

theorem State.WmSame.gRoot : t.gRoot g = s.gRoot g := by rw [State.gRoot, h.grp, State.gRoot]

theorem State.WmSame.gUp : t.gUp g = s.gUp g := by rw [State.gUp, h.grp, State.gUp]

theorem State.WmSame.fld_cfg (f : Fld) : t.fld WM_CFG f = s.fld WM_CFG f := by
  rw [State.fld, h.rd WM_CFG (.inr (.inr rfl)), State.fld]

theorem State.WmSame.egressBlocked : t.egressBlocked = s.egressBlocked := by
  have hstat : t.rd SPW_STAT = s.rd SPW_STAT := h.rd _ (.inl (by decide))
  simp only [State.egressBlocked, State.safe, State.bit, State.fld, State.capturing, hstat, h.reset, h.capture, h.capQ]

theorem State.WmSame.ctxOpen (c : Nat) : t.ctxOpen c = s.ctxOpen c := by
  have hrd : t.rd (CTX_STATE c) = s.rd (CTX_STATE c) := h.rd _ (.inl (by simp [CTX_STATE]))
  rw [State.ctxOpen, State.ctxState, State.fld, hrd]
  rfl

theorem State.WmSame.wmMute : t.wmMute g = s.wmMute g := by
  rw [State.wmMute, h.egressBlocked, State.gCtx, State.gReplay, h.grp, h.grp, h.ctxOpen]
  rfl

section
variable (hgroup : t.group g = s.group g)
include hgroup

theorem State.WmSame.chunkOpen (c : Nat) : t.chunkOpen g c = s.chunkOpen g c := by
  have hwindow : t.gWindow g = s.gWindow g := congrArg (· % 8192) (h.grp g 28 2)
  have hchunks : t.gChunks g = s.gChunks g := h.grp g 24 4
  unfold State.chunkOpen
  rw [h.gState, hwindow, hchunks, hgroup]

theorem State.WmSame.ackCurrent (k : Cell) : t.ackCurrent g k = s.ackCurrent g k := by
  rw [State.ackCurrent, h.chunkOpen g hgroup, State.chunkOf, hgroup]
  rfl

end

end

/-! ### Cells taken from the inbox -/

/-- The state after a control cell has been taken from the inbox. -/
def State.wmTaken (s : State) (b : Nat) (k : Cell) : State :=
  s.putWmInbox (s.wmInbox.eraseP fun e => e.1 == b && e.2.2 == k)

theorem State.wmTaken_same (s : State) (b : Nat) (k : Cell) : s.WmSame (s.wmTaken b k) :=
  ⟨fun _ _ => rfl, rfl, rfl, rfl, rfl, rfl⟩

section
variable (s : State) (b : Nat) (k : Cell)

@[simp] theorem State.wmTaken_regs : (s.wmTaken b k).regs = s.regs := rfl
@[simp] theorem State.wmTaken_mem : (s.wmTaken b k).mem = s.mem := rfl
@[simp] theorem State.wmTaken_groups : (s.wmTaken b k).groups = s.groups := rfl
@[simp] theorem State.wmTaken_xin : (s.wmTaken b k).xin = s.xin := rfl
@[simp] theorem State.rd_wmTaken (r : Reg) : (s.wmTaken b k).rd r = s.rd r := rfl
@[simp] theorem State.chunkOf_wmTaken (g c : Nat) : (s.wmTaken b k).chunkOf g c = s.chunkOf g c := rfl

end

theorem State.wmTake_found {s : State} {g : Nat} {k : Cell} (h : s.findGroup (hCtx k.h) (hTag k.h) = some g) (b : Nat)
    (f : State → Nat → State) : s.wmTake b k f = f (s.wmTaken b k) g := by
  have h' : (s.putWmInbox (s.wmInbox.eraseP fun e => e.1 == b && e.2.2 == k)).findGroup (hCtx k.h) (hTag k.h) = some g := h
  unfold State.wmTake
  dsimp only
  rw [h']
  rfl

end Sys2Proof.Machine
end

section
/-! Pond copies freed, chunks voided and sealed (R244, R245, R250, R251): what a group keeps, and what its chunk becomes. -/

namespace Sys2Proof.Machine

/-- The core cycle count and the watermaster's registers are as they were, and group `g` but for its chunks, its highest
attempt and its next record. -/
structure State.CoreKept (g : Nat) (s t : State) : Prop where
  core : (t.group g).core = (s.group g).core
  cycle : t.cycle = s.cycle
  rd : ∀ r, r.blk = 8 → t.rd r = s.rd r

theorem State.CoreKept.refl (g : Nat) (s : State) : s.CoreKept g s := ⟨rfl, rfl, fun _ _ => rfl⟩

theorem State.CoreKept.trans {g : Nat} {a b c : State} (h : a.CoreKept g b) (k : b.CoreKept g c) : a.CoreKept g c :=
  ⟨k.core.trans h.core, k.cycle.trans h.cycle, fun r hr => (k.rd r hr).trans (h.rd r hr)⟩

theorem State.CoreKept.foldl {g : Nat} {β : Type} {f : State → β → State} (h : ∀ (s : State) b, s.CoreKept g (f s b))
    (l : List β) (s : State) : s.CoreKept g (l.foldl f s) := by
  induction l generalizing s with
  | nil => exact .refl g s
  | cons b l ih => exact (h s b).trans (ih _)

theorem State.WmKept.coreKept {s t : State} (h : s.WmKept t) (g : Nat) : s.CoreKept g t :=
  ⟨by rw [h.group], h.cycle, h.rd⟩

theorem State.CoreKept.sealed {g : Nat} {s t : State} (h : s.CoreKept g t) : (t.group g).sealed = (s.group g).sealed := by
  change (t.group g).core.sealed = (s.group g).core.sealed
  rw [h.core]

theorem State.putChunk_coreKept (s : State) (g c : Nat) (y : Chunk) : s.CoreKept g (s.putChunk g c y) :=
  ⟨s.core_putChunk g c y, rfl, fun _ _ => rfl⟩

/-! ### Pond copies -/

/-- Freeing the pond copy of a chunk changes nothing else of the chunk. -/
theorem State.freePond_frees (s : State) (g c : Nat) : s.CoreKept g (s.freePond g c) ∧
    ∃ p l, (s.freePond g c).chunkOf g c = { s.chunkOf g c with pond := p, pondWait := l } := by
  unfold State.freePond
  extract_lets y granted u w
  split
  · exact ⟨.refl g s, y.pond, y.pondWait, rfl⟩
  next o _ =>
    have hfrees : w.WmKept ((y.pond.toList ++ granted).foldl (fun s h => s.poolFreeHandle 1 o h) w) :=
      State.WmKept.frame.foldl (fun s h => State.WmKept.frame.poolFreeHandle s 1 o h) _ w
    have hw : s.CoreKept g w ∧ ∃ p l, w.chunkOf g c = { s.chunkOf g c with pond := p, pondWait := l } := by
      have hu : s.CoreKept g u := ⟨rfl, rfl, fun _ _ => rfl⟩
      simp only [w]
      split
      · exact ⟨hu.trans (u.putChunk_coreKept g c _), none, [], u.chunkOf_putChunk g c _⟩
      · exact ⟨hu, y.pond, y.pondWait, rfl⟩
    obtain ⟨hcore, p, l, hchunk⟩ := hw
    exact ⟨hcore.trans (hfrees.coreKept g), p, l, (hfrees.chunkOf g c).trans hchunk⟩

theorem State.freePonds_coreKept (s : State) (g : Nat) (p : Nat → Bool) : s.CoreKept g (s.freePonds g p) :=
  .foldl (fun (s : State) (e : Nat × Chunk) => (s.freePond_frees g e.1).1) _ s

/-- A group without chunks has no pond copy to free. -/
theorem State.freePonds_none {s : State} {g : Nat} (h : (s.group g).chunks = []) (p : Nat → Bool) : s.freePonds g p = s := by
  rw [State.freePonds, h]
  rfl

/-! ### Records -/

/-- Of the watermaster only the number of group `g`'s next record may have changed. -/
structure State.SeqOnly (g : Nat) (s t : State) : Prop where
  group : ∃ n, t.group g = { s.group g with recSeq := n }
  cycle : t.cycle = s.cycle
  rd : ∀ r, r.blk = 8 → t.rd r = s.rd r

theorem State.WmKept.seqOnly {s t : State} (h : s.WmKept t) (g : Nat) : State.SeqOnly g s t :=
  ⟨⟨_, h.group g⟩, h.cycle, h.rd⟩

theorem State.SeqOnly.coreKept {g : Nat} {s t : State} (h : State.SeqOnly g s t) : s.CoreKept g t := by
  obtain ⟨⟨n, hgroup⟩, hcycle, hrd⟩ := h
  exact ⟨by rw [hgroup]; rfl, hcycle, hrd⟩

theorem State.SeqOnly.chunkOf {g : Nat} {s t : State} (h : State.SeqOnly g s t) (c : Nat) : t.chunkOf g c = s.chunkOf g c := by
  obtain ⟨⟨n, hgroup⟩, -, -⟩ := h
  rw [State.chunkOf, hgroup]
  rfl

theorem State.WmKept.setRecSeq {s t : State} (h : s.WmKept t) (g n : Nat) :
    State.SeqOnly g s (t.setGroup g { s.group g with recSeq := n }) :=
  ⟨⟨n, State.group_setGroup ..⟩, h.cycle, h.rd⟩

/-- A record written to the ring, and the end of the recording where the ring is full (R260). -/
theorem State.recordRing_seqOnly (s : State) (g chunk step red node slot fmtop flags elems ccrc : Nat) (payload : List Byte) :
    State.SeqOnly g s (s.recordRing g chunk step red node slot fmtop flags elems ccrc payload) := by
  have F := State.WmKept.frame
  unfold State.recordRing
  extract_lets first pay n w x b
  split
  · split
    · exact (F.trans (F.put s _ _) (F.store _ _ _ _)).setRecSeq g _
    · exact (F.trans (F.trans (F.store s _ _ _) (F.store _ _ _ _)) (F.notice _ _ _ _ _ _ _)).seqOnly g
  · exact (F.refl s).seqOnly g

theorem State.recordVoid_seqOnly (s : State) (g c : Nat) : State.SeqOnly g s (s.recordVoid g c) :=
  let ⟨group, cycle, rd⟩ := s.free.2.recordRing_seqOnly g c _ _ _ _ _ _ _ _ _
  ⟨group, cycle, rd⟩

/-! ### Voids (R250) -/

/-- What a void of chunk `c` with attempt `a` leaves of it. -/
def Chunk.voided (y : Chunk) (a : Nat) : Chunk := { Chunk.init with attempt := a, voids := y.voids }

/-- The group as a void leaves it before its marker is recorded. -/
def State.voidNoted (s : State) (g c a : Nat) : State :=
  (s.putChunk g c ((s.chunkOf g c).voided a)).modGroup g fun x => { x with maxAttempt := max x.maxAttempt a }

theorem State.voidNoted_keeps (s : State) (g c a : Nat) : s.CoreKept g (s.voidNoted g c a) ∧
    (s.voidNoted g c a).chunkOf g c = (s.chunkOf g c).voided a := by
  have hgroup : (s.voidNoted g c a).group g =
      { (s.putChunk g c ((s.chunkOf g c).voided a)).group g with
        maxAttempt := max ((s.putChunk g c ((s.chunkOf g c).voided a)).group g).maxAttempt a } := State.group_modGroup ..
  refine ⟨⟨?_, rfl, fun _ _ => rfl⟩, ?_⟩
  · rw [hgroup]
    exact s.core_putChunk g c _
  · rw [State.chunkOf, hgroup]
    exact s.chunkOf_putChunk g c _

theorem State.voidHere_eq (s : State) (g c a : Nat) :
    s.voidHere g c a = ((((s.freePond g c).voidNoted g c a).recordVoid g c).voidEntries g (· == c)).drained := rfl

/-- A void gives its chunk the attempt it names, and nothing else of the group changes. -/
theorem State.voidHere_voids (s : State) (g c a : Nat) : s.CoreKept g (s.voidHere g c a) ∧
    (s.voidHere g c a).chunkOf g c = (s.chunkOf g c).voided a := by
  rw [State.voidHere_eq]
  obtain ⟨hfreed, p, l, hpond⟩ := s.freePond_frees g c
  generalize s.freePond g c = u at *
  obtain ⟨hnoted, hchunk⟩ := u.voidNoted_keeps g c a
  generalize u.voidNoted g c a = v at *
  have hmarked := v.recordVoid_seqOnly g c
  generalize v.recordVoid g c = w at *
  have F := State.WmKept.frame
  have hrest : w.WmKept (w.voidEntries g (· == c)).drained := F.trans (F.voidEntries w g _) (F.drained _)
  refine ⟨((hfreed.trans hnoted).trans hmarked.coreKept).trans (hrest.coreKept g), ?_⟩
  rw [hrest.chunkOf, hmarked.chunkOf, hchunk, hpond]
  rfl

theorem State.chunkOf_countVoid (s : State) (g c : Nat) : (s.countVoid g).chunkOf g c = s.chunkOf g c := rfl

theorem State.chunkOf_putXin (s : State) (x : List (Nat × List (Nat × Item))) (g c : Nat) :
    (s.putXin x).chunkOf g c = s.chunkOf g c := rfl

theorem State.rd_countVoid (s : State) (g : Nat) : (s.countVoid g).rd WM_VOIDS = s.rd WM_VOIDS + 1 := s.rd_count_same WM_VOIDS

/-- The root voids a chunk short of RETRY_LIMIT with its next attempt, and counts it (R251). -/
theorem State.rootVoid_voids {s : State} {g c : Nat} (hsafe : s.egressBlocked = false)
    (hlimit : (s.chunkOf g c).voids < max 1 (s.fld WM_CFG WM_CFG_RETRY_LIMIT)) (reason : Nat) :
    let t := s.rootVoid g c reason
    t.chunkOf g c =
      { Chunk.init with attempt := ((s.chunkOf g c).attempt + 1) % 256, voids := (s.chunkOf g c).voids + 1 } ∧
    t.rd WM_VOIDS = s.rd WM_VOIDS + 1 := by
  obtain ⟨x, hx⟩ := (s.putChunk g c { s.chunkOf g c with voids := (s.chunkOf g c).voids + 1 }).sendCtl_eq g 10 ctlVoid c
    (s.gDown g) (((s.chunkOf g c).attempt + 1) % 256) 32 reason 0 0
  generalize hv : (s.putChunk g c { s.chunkOf g c with voids := (s.chunkOf g c).voids + 1 }).putXin x = v at hx
  have hroot : s.rootVoid g c reason = (v.countVoid g).voidHere g c (((s.chunkOf g c).attempt + 1) % 256) := by
    rw [← hx]
    unfold State.rootVoid
    simp [hsafe, not_le.mpr hlimit]
    rfl
  obtain ⟨hcore, hchunk⟩ := (v.countVoid g).voidHere_voids g c (((s.chunkOf g c).attempt + 1) % 256)
  intro t
  have hnoted : (v.countVoid g).chunkOf g c = { s.chunkOf g c with voids := (s.chunkOf g c).voids + 1 } := by
    rw [State.chunkOf_countVoid, ← hv, State.chunkOf_putXin, State.chunkOf_putChunk]
  have hcount : v.rd WM_VOIDS = s.rd WM_VOIDS := by
    rw [← hv]
    rfl
  refine ⟨?_, ?_⟩
  · rw [show t = _ from hroot, hchunk, hnoted]
    rfl
  · rw [show t = _ from hroot, hcore.rd _ rfl, State.rd_countVoid, hcount]

/-! ### Seals (R244, R245) -/

/-- A chunk sealed: it is the last in the list of sealed chunks. -/
theorem State.sealHere_seals {s : State} {g c : Nat} (hnew : c ∉ (s.group g).sealed) (hlt : c < s.gChunks g) (flags : Nat) :
    let t := s.sealHere g c flags
    (t.group g).sealed = c :: (s.group g).sealed ∧ ∀ r, r.blk = 8 → t.rd r = s.rd r := by
  obtain ⟨hfreed, -⟩ := s.freePond_frees g c
  intro t
  obtain ⟨x, a, v, hx, ht⟩ : ∃ (x : Group) (a v : Nat), x.sealed = c :: ((s.freePond g c).group g).sealed ∧
      t = (((s.freePond g c).setGroup g x).setGrp g a 4 v).drained := by
    simp only [t]
    unfold State.sealHere
    simp only [List.contains_eq_mem, hnew, not_le.mpr hlt, decide_false, Bool.or_false, Bool.false_eq_true, if_false]
    exact ⟨_, _, _, rfl, rfl⟩
  have hrest := State.WmKept.frame.drained (((s.freePond g c).setGroup g x).setGrp g a 4 v)
  rw [ht]
  refine ⟨?_, fun r hr => (hrest.rd r hr).trans (hfreed.rd r hr)⟩
  rw [hrest.group, ← hfreed.sealed, ← hx]
  exact congrArg Group.sealed (State.group_setGroup ..)

/-- The end of a collective leaves the groups and the watermaster's registers (R245). -/
theorem State.finish_wmKept (s : State) (g status state : Nat) : s.WmKept (s.finish g status state) := by
  have F := State.WmKept.frame
  have hdone (r : Nat) : s.WmKept (s.takeDone g r state) :=
    F.trans (F.trans (F.store s _ _ _) (F.store _ _ _ _)) (F.event (State.postPlain_only _ _ _ _ _ _))
  exact F.trans (hdone _) (F.sendCtl _ _ _ _ _ _ _ _ _ _ _)

theorem State.sendSeal_sends (s : State) (g c : Nat) :
    (s.sendSeal g c).groups = s.groups ∧ (s.sendSeal g c).rd WM_SEALS = s.rd WM_SEALS + 1 := by
  have hsent := State.WmKept.frame.sendCtl (s.count WM_SEALS) g 10 ctlSeal c (s.gDown g) (s.chunkOf g c).attempt
    (s.chunkOf g c).flags 0 0 0
  exact ⟨hsent.groups, (hsent.rd WM_SEALS rfl).trans (s.rd_count_same WM_SEALS)⟩

/-- The root seals an open chunk and counts the seal. -/
theorem State.rootSeal_seals {s : State} {g c : Nat} (hsafe : s.egressBlocked = false) (hopen : s.chunkOpen g c = true) :
    let t := s.rootSeal g c
    c ∈ (t.group g).sealed ∧ t.rd WM_SEALS = s.rd WM_SEALS + 1 := by
  obtain ⟨-, hlt, hnew⟩ := State.chunkOpen_facts hopen
  intro t
  have ht : t = s.rootSeal g c := rfl
  rw [State.rootSeal, if_neg (by simp [hsafe])] at ht
  dsimp only at ht
  obtain ⟨hsealed, hrd⟩ := State.sealHere_seals hnew hlt ((s.chunkOf g c).flags % 16 + 16 * flag (s.chunkOf g c).empty)
  generalize s.sealHere g c ((s.chunkOf g c).flags % 16 + 16 * flag (s.chunkOf g c).empty) = u at *
  obtain ⟨hgroups, hcount⟩ := u.sendSeal_sends g c
  generalize u.sendSeal g c = v at *
  have hkept : v.WmKept t := by
    rw [ht]
    split
    · exact v.finish_wmKept _ _ _
    · exact State.WmKept.frame.refl v
  have hgroup : v.group g = u.group g := by rw [State.group, hgroups, State.group]
  refine ⟨?_, ?_⟩
  · rw [hkept.group, hgroup, hsealed]
    exact List.mem_cons_self
  · rw [hkept.rd _ rfl, hcount, hrd _ rfl]

end Sys2Proof.Machine
end

section
/-! Acknowledgements, pond copies asked for again and requests of voids (O36). -/

namespace Sys2Proof.Machine

/-! ### ACK (R243, R244) -/

/-- Chunk state behind an ACK of branch `b`. -/
def Chunk.ackedBy (y : Chunk) (b : Nat) (k : Cell) : Chunk :=
  { y with acked := b :: y.acked, flags := y.flags ||| cFlags k, count := y.count + cCount k }

/-- The state in which the ACK `k` of branch `b` is noted. -/
def State.ackNoted (s : State) (g b : Nat) (k : Cell) : State :=
  s.putChunk g (cChunk k) ((s.chunkOf g (cChunk k)).ackedBy b k)

section
variable (s : State) (g b : Nat) (k : Cell)

@[simp] theorem State.regs_ackNoted : (s.ackNoted g b k).regs = s.regs := rfl
@[simp] theorem State.mem_ackNoted : (s.ackNoted g b k).mem = s.mem := rfl
@[simp] theorem State.xin_ackNoted : (s.ackNoted g b k).xin = s.xin := rfl

end

section
variable {s : State} {g b : Nat} {k : Cell}

theorem State.ackHere_stale (h : s.ackCurrent g k = false) : s.ackHere g b k = s.count WM_ACK_STALE := by
  simp [State.ackHere, h]

theorem State.chunkOpen_of_ackCurrent (h : s.ackCurrent g k = true) : s.chunkOpen g (cChunk k) = true :=
  ((Bool.and_eq_true _ _).mp h).1

theorem State.ackHere_current (h : s.ackCurrent g k = true) (hnew : b ∉ (s.chunkOf g (cChunk k)).acked) :
    s.ackHere g b k = (s.ackNoted g b k).tryAck g (cChunk k) := by
  simp [State.ackHere, h, hnew]
  rfl

theorem State.chunkOf_ackNoted (s : State) (g b : Nat) (k : Cell) :
    (s.ackNoted g b k).chunkOf g (cChunk k) = (s.chunkOf g (cChunk k)).ackedBy b k := State.chunkOf_putChunk ..

theorem State.chunkOpen_ackNoted (h : s.ackCurrent g k = true) : (s.ackNoted g b k).chunkOpen g (cChunk k) = true :=
  (s.chunkOpen_putChunk g _ _ _).trans (State.chunkOpen_of_ackCurrent h)

/-- Whether the ACK noted was the last that the chunk waits for. -/
theorem State.allAcked_ackNoted (s : State) (g b : Nat) (k : Cell) : (s.ackNoted g b k).allAcked g (cChunk k) =
    decide (s.grp g 30 2 % 2048 ≤ (s.chunkOf g (cChunk k)).acked.length + 1) := by
  unfold State.allAcked
  rw [State.chunkOf_ackNoted]
  rfl

end

theorem State.tryAck_early {s : State} {g c : Nat} (h : s.allAcked g c = false) : s.tryAck g c = s := by
  simp [State.tryAck, h]

theorem State.tryAck_root {s : State} {g c : Nat} (hopen : s.chunkOpen g c = true) (hall : s.allAcked g c = true)
    (hroot : s.gRoot g = true) : s.tryAck g c = s.rootSeal g c := by
  simp [State.tryAck, hopen, hall, hroot]

/-- A module that is no root acknowledges the chunk on its own copy, once. -/
theorem State.tryAck_branch {s : State} {g c : Nat} (hopen : s.chunkOpen g c = true) (hall : s.allAcked g c = true)
    (hroot : s.gRoot g = false) (hgood : (s.chunkOf g c).pondGood = true) (hself : (s.chunkOf g c).selfAcked = false) :
    s.tryAck g c = (s.putChunk g c { s.chunkOf g c with selfAcked := true }).sendCtl g 9 ctlAck c (s.gUp g)
      (s.chunkOf g c).attempt (s.chunkOf g c).flags 0 (min (s.chunkOf g c).count 65535) := by
  simp [State.tryAck, hopen, hall, hroot, hgood, hself]

/-- A cell of the watermaster on its UP label: its channel and type. -/
def State.SentUp (s u : State) (g v type : Nat) : Prop := ∃ m : Cell,
  Table.get [] u.xin 1297 = Table.get [] s.xin 1297 ++ [(v, .cell m)] ∧ hType m.h = type ∧ hCirc m.h = s.gUp g

/-- A control cell sent on the UP label by a group that may send. -/
theorem State.sendCtl_sentUp {s t : State} {g : Nat} (hsame : s.WmSame t) (hxin : t.xin = s.xin) (h : s.wmMute g = false)
    {type : Nat} (ht : type < 16) (kind chunk attempt flags reason count : Nat) :
    s.SentUp (t.sendCtl g type kind chunk (t.gUp g) attempt flags reason count) g 6 type := by
  obtain ⟨m, hm, htype, hcirc⟩ := State.sendCtl_sent ((hsame.wmMute g).trans h) type kind chunk (t.gUp g) attempt flags reason
    count 0
  refine ⟨m, ?_, htype.trans (Nat.mod_eq_of_lt ht), ?_⟩
  · rw [hm, State.xin_inject, hxin]
  · rw [hcirc, Nat.mod_eq_of_lt (t.gUp_lt g), hsame.gUp]

section
variable {s : State} {g b : Nat} {k : Cell} (hlast : s.grp g 30 2 % 2048 ≤ (s.chunkOf g (cChunk k)).acked.length + 1)
include hlast

theorem State.lastAck_noted : (s.ackNoted g b k).allAcked g (cChunk k) = true :=
  (s.allAcked_ackNoted g b k).trans (decide_eq_true hlast)

section
variable (hcur : s.ackCurrent g k = true)
include hcur

/-- The last ACK seals the chunk at the root. -/
theorem State.lastAck_seals (hroot : s.gRoot g = true) (hsafe : s.egressBlocked = false) :
    let t := (s.ackNoted g b k).tryAck g (cChunk k)
    cChunk k ∈ (t.group g).sealed ∧ t.rd WM_SEALS = s.rd WM_SEALS + 1 := by
  have hopen := State.chunkOpen_ackNoted (b := b) hcur
  rw [State.tryAck_root hopen (State.lastAck_noted hlast) hroot]
  exact State.rootSeal_seals (s := s.ackNoted g b k) hsafe hopen

/-- The last ACK makes a module that is no root acknowledge toward it. -/
theorem State.lastAck_acks (hroot : s.gRoot g = false) (hmute : s.wmMute g = false)
    (hgood : (s.chunkOf g (cChunk k)).pondGood = true) (hself : (s.chunkOf g (cChunk k)).selfAcked = false) :
    let t := (s.ackNoted g b k).tryAck g (cChunk k)
    s.SentUp t g 6 9 ∧ (t.chunkOf g (cChunk k)).selfAcked = true := by
  have hopen := State.chunkOpen_ackNoted (b := b) hcur
  have hchunk := s.chunkOf_ackNoted g b k
  have hall := State.lastAck_noted (b := b) hlast
  have hsame : s.WmSame (s.ackNoted g b k) := s.putChunk_wmSame g _ _
  have hxin : (s.ackNoted g b k).xin = s.xin := rfl
  generalize s.ackNoted g b k = v at *
  intro t
  have ht : t = _ := State.tryAck_branch hopen hall ((hsame.gRoot g).trans hroot) (by rw [hchunk]; exact hgood)
    (by rw [hchunk]; exact hself)
  have hw := v.putChunk_wmSame g (cChunk k) { v.chunkOf g (cChunk k) with selfAcked := true }
  have hself := v.chunkOf_putChunk g (cChunk k) { v.chunkOf g (cChunk k) with selfAcked := true }
  have hup : v.gUp g = (v.putChunk g (cChunk k) { v.chunkOf g (cChunk k) with selfAcked := true }).gUp g := rfl
  rw [ht, hup]
  generalize hnoted : v.putChunk g (cChunk k) { v.chunkOf g (cChunk k) with selfAcked := true } = w at *
  refine ⟨State.sendCtl_sentUp (hsame.trans hw) (by rw [← hnoted]; exact hxin) hmute (by decide) _ _ _ _ _ _, ?_⟩
  rw [(State.WmKept.frame.sendCtl w _ _ _ _ _ _ _ _ _ _).chunkOf, hself]

end

end

section
variable {s : State} {g : Nat} {b : BitVec 11} {k : Cell} (hon : s.on = true)
  (hg : s.findGroup (hCtx k.h) (hTag k.h) = some g) (htype : hType k.h = 9) (hkind : cKind k = 1)
include hon hg htype hkind

theorem execAck_found : execAck b k s = ok s ((s.wmTaken b.toNat k).ackHere g b.toNat k) := by
  rw [execAck, State.powered_on hon, if_neg (by simp [htype, hkind, ctlAck]), State.wmTake_found hg]

/-- An ACK of another attempt is counted stale. -/
theorem ack_stale (h : s.ackCurrent g k = false) : Gives (.ack b k) s fun u =>
    u.rd WM_ACK_STALE = s.rd WM_ACK_STALE + 1 ∧ u.groups = s.groups ∧ u.mem = s.mem := by
  refine gives_ok (execAck_found hon hg htype hkind) ?_
  rw [State.ackHere_stale (s := s.wmTaken b.toNat k) h]
  simp only [State.rd_commit, State.commit_groups, State.commit_mem, State.count_mem, State.count_groups, State.wmTaken_mem,
    State.wmTaken_groups, State.rd_count_same, State.rd_wmTaken, and_self]

section
variable (hcur : s.ackCurrent g k = true) (hnew : b.toNat ∉ (s.chunkOf g (cChunk k)).acked)
include hcur hnew

theorem execAck_current : execAck b k s = ok s (((s.wmTaken b.toNat k).ackNoted g b.toNat k).tryAck g (cChunk k)) := by
  rw [execAck_found hon hg htype hkind, State.ackHere_current (s := s.wmTaken b.toNat k) hcur hnew]

/-- An ACK that is not the last is noted for its branch. -/
theorem ack_notes (hmore : (s.chunkOf g (cChunk k)).acked.length + 1 < s.grp g 30 2 % 2048) : Gives (.ack b k) s fun u =>
    (u.chunkOf g (cChunk k)).acked = b.toNat :: (s.chunkOf g (cChunk k)).acked ∧
    (u.chunkOf g (cChunk k)).flags = (s.chunkOf g (cChunk k)).flags ||| cFlags k ∧
    (u.chunkOf g (cChunk k)).count = (s.chunkOf g (cChunk k)).count + cCount k ∧
    u.regs = s.regs ∧ u.mem = s.mem ∧ u.xin = s.xin := by
  have hearly : ((s.wmTaken b.toNat k).ackNoted g b.toNat k).allAcked g (cChunk k) = false :=
    (State.allAcked_ackNoted _ g b.toNat k).trans (decide_eq_false (not_le.mpr hmore))
  refine gives_ok (execAck_current hon hg htype hkind hcur hnew) ?_
  rw [State.tryAck_early hearly]
  simp only [State.chunkOf_commit, State.chunkOf_ackNoted, State.chunkOf_wmTaken, State.commit_regs, State.commit_mem,
    State.commit_xin, State.regs_ackNoted, State.mem_ackNoted, State.xin_ackNoted, State.wmTaken_regs, State.wmTaken_mem,
    State.wmTaken_xin, Chunk.ackedBy, and_self]

end

end

/-! ### NACK (R243, R248) -/

/-- The state in which a NACK is counted. -/
def State.nackCounted (s : State) (b : Nat) (k : Cell) : State := (s.wmTaken b k).count WM_NACKS

theorem State.nackCounted_same (s : State) (b : Nat) (k : Cell) : s.WmSame (s.nackCounted b k) :=
  (s.wmTaken_same b k).trans (State.count_wmSame _ ⟨rfl, by decide, by decide⟩)

theorem State.rd_nackCounted (s : State) (b : Nat) (k : Cell) : (s.nackCounted b k).rd WM_NACKS = s.rd WM_NACKS + 1 :=
  State.rd_count_same _ _

theorem State.ackCurrent_nackCounted (s : State) (b : Nat) (k : Cell) (g : Nat) :
    (s.nackCounted b k).ackCurrent g k = s.ackCurrent g k := (s.nackCounted_same b k).ackCurrent g rfl k

/-- The chunk with branch `b` answered once more. -/
def Chunk.resentTo (y : Chunk) (b : Nat) : Chunk :=
  { y with nacks := Table.set natRank 0 y.nacks b (Table.get 0 y.nacks b + 1) }

theorem Chunk.nacks_resentTo (y : Chunk) (b : Nat) : Table.get 0 (y.resentTo b).nacks b = Table.get 0 y.nacks b + 1 := by
  rw [Chunk.resentTo, Table.get_set_same]

/-- What a NACK that names the current attempt of chunk `c` does. -/
def State.nackHere (s : State) (g b c : Nat) : State :=
  let y := s.chunkOf g c
  if y.pondGood || y.pond.isNone then s.resend g c b
  else if y.pondBad && s.gRoot g then s.voidRequest g c 3
  else if y.waitNack.contains b then s
  else s.putChunk g c { y with waitNack := y.waitNack ++ [b] }

/-- Cell `i` of the copy at `a`, sent on the label of the branch whose entry is `e`. -/
def State.resendCell (s : State) (g a e i : Nat) : State :=
  let k := Cell.ofImage (s.bytes (a + 80 * i) 80)
  s.wmInject g (hVc k.h) ⟨relabel k.h (e % 2 ^ 20), k.pay⟩

/-- Cells that a group that may send puts into the crossbar one after another. -/
theorem State.resendCells_sent {g : Nat} (a e : Nat) (l : List Nat) {s : State} (h : s.wmMute g = false) :
    let t := l.foldl (fun s i => s.resendCell g a e i) s
    (Table.get [] t.xin 1297).length = (Table.get [] s.xin 1297).length + l.length ∧ t.groups = s.groups ∧ t.regs = s.regs := by
  induction l generalizing s with
  | nil => exact ⟨rfl, rfl, rfl⟩
  | cons i l ih =>
    obtain ⟨v, m, hsent⟩ : ∃ v m, s.resendCell g a e i = s.inject 1297 v (.cell m) := ⟨_, _, by
      rw [State.resendCell, State.wmInject, h]
      rfl⟩
    have hmute : (s.inject 1297 v (.cell m)).wmMute g = false := ((s.putXin_wmSame _).wmMute g).trans h
    obtain ⟨hlen, hgroups, hregs⟩ := ih hmute
    have hone := congrArg List.length (s.xin_inject 1297 v (.cell m))
    rw [List.length_append, List.length_singleton] at hone
    intro t
    have ht : t = l.foldl (fun s i => s.resendCell g a e i) (s.inject 1297 v (.cell m)) := by rw [← hsent]; rfl
    rw [ht, hlen, hone, hgroups, hregs, List.length_cons]
    exact ⟨by omega, rfl, rfl⟩

/-- A good copy is sent again to a branch below NACK_LIMIT. -/
theorem State.resend_sends {s : State} {g c b : Nat} {h : Word} (hpond : (s.chunkOf g c).pond = some h)
    (hmute : s.wmMute g = false) (hclean : s.poisoned (handleAddr h) (80 * ((s.chunkOf g c).pondCells + 1)) = false)
    (hlimit : Table.get 0 (s.chunkOf g c).nacks b < max 1 (s.fld WM_CFG WM_CFG_NACK_LIMIT))
    (hentry : bitOf (s.load (s.grp g 56 8 + 8 * b) 8) 63 = true) :
    let t := s.resend g c b
    (Table.get [] t.xin 1297).length = (Table.get [] s.xin 1297).length + (s.chunkOf g c).pondCells + 1 ∧
    Table.get 0 (t.chunkOf g c).nacks b = Table.get 0 (s.chunkOf g c).nacks b + 1 := by
  have heq : s.resend g c b = (List.range ((s.chunkOf g c).pondCells + 1)).foldl
      (fun s' i => s'.resendCell g (handleAddr h) (s.load (s.grp g 56 8 + 8 * b) 8) i)
        (s.putChunk g c ((s.chunkOf g c).resentTo b)) := by
    unfold State.resend
    dsimp only
    split
    next hnone => exact absurd (hpond.symm.trans hnone) (by simp)
    next h' hsome =>
      obtain rfl : h = h' := Option.some_inj.mp (hpond.symm.trans hsome)
      rw [if_neg (ne_true_of_eq_false hclean), if_neg (not_le.mpr hlimit), if_neg (by simp [hentry])]
      rfl
  obtain ⟨hlen, hgroups, -⟩ := State.resendCells_sent (handleAddr h) (s.load (s.grp g 56 8 + 8 * b) 8)
    (List.range ((s.chunkOf g c).pondCells + 1)) (((s.putChunk_wmSame g c _).wmMute g).trans hmute)
  intro t
  rw [show t = _ from heq]
  refine ⟨?_, ?_⟩
  · rw [hlen, List.length_range]
    exact (Nat.add_assoc ..).symm
  · rw [State.chunkOf, State.group, hgroups]
    refine (congrArg (fun y : Chunk => Table.get 0 y.nacks b) (s.chunkOf_putChunk g c _)).trans ?_
    exact (s.chunkOf g c).nacks_resentTo b

section
variable {s : State} {g : Nat} {b : BitVec 11} {k : Cell} (hon : s.on = true)
  (hg : s.findGroup (hCtx k.h) (hTag k.h) = some g) (htype : hType k.h = 9) (hkind : cKind k = 2)
include hon hg htype hkind

theorem execNack_found : execNack b k s = ok s (if !s.ackCurrent g k then
    (s.nackCounted b.toNat k).count WM_ACK_STALE else (s.nackCounted b.toNat k).nackHere g b.toNat (cChunk k)) := by
  rw [execNack, State.powered_on hon, if_neg (by simp [htype, hkind, ctlNack]), State.wmTake_found hg,
    ← s.ackCurrent_nackCounted b.toNat k g]
  rfl

/-- A NACK of another attempt is counted, and counted stale. -/
theorem nack_stale (h : s.ackCurrent g k = false) : Gives (.nack b k) s fun u =>
    u.rd WM_NACKS = s.rd WM_NACKS + 1 ∧ u.rd WM_ACK_STALE = s.rd WM_ACK_STALE + 1 ∧ u.groups = s.groups := by
  have hother : (s.nackCounted b.toNat k).rd WM_ACK_STALE = s.rd WM_ACK_STALE := State.rd_count_other _ 1 (by decide)
  refine gives_ok (execNack_found hon hg htype hkind) ?_
  rw [h]
  simp only [Bool.not_false, if_true, State.rd_commit, State.commit_groups, State.count_groups]
  refine ⟨?_, ?_, rfl⟩
  · rw [State.rd_count_other _ 1 (by decide), s.rd_nackCounted]
  · rw [State.rd_count_same, hother]

section
variable (hcur : s.ackCurrent g k = true)
include hcur

theorem execNack_current : execNack b k s = ok s ((s.nackCounted b.toNat k).nackHere g b.toNat (cChunk k)) := by
  rw [execNack_found hon hg htype hkind, hcur]
  rfl

/-- A NACK of a chunk whose copy is not whole waits for it. -/
theorem nack_waits (hpond : (s.chunkOf g (cChunk k)).pond.isSome = true) (hgood : (s.chunkOf g (cChunk k)).pondGood = false)
    (hbad : (s.chunkOf g (cChunk k)).pondBad = false) (hnew : b.toNat ∉ (s.chunkOf g (cChunk k)).waitNack) :
    Gives (.nack b k) s fun u => (u.chunkOf g (cChunk k)).waitNack = (s.chunkOf g (cChunk k)).waitNack ++ [b.toNat] ∧
      u.rd WM_NACKS = s.rd WM_NACKS + 1 := by
  have hchunk : (s.nackCounted b.toNat k).chunkOf g (cChunk k) = s.chunkOf g (cChunk k) := rfl
  have hcount := s.rd_nackCounted b.toNat k
  have hexec := execNack_current (b := b) hon hg htype hkind hcur
  generalize s.nackCounted b.toNat k = v at *
  have hwaits : v.nackHere g b.toNat (cChunk k) = v.putChunk g (cChunk k)
      { v.chunkOf g (cChunk k) with waitNack := (v.chunkOf g (cChunk k)).waitNack ++ [b.toNat] } := by
    unfold State.nackHere
    simp [hchunk, hgood, hbad, hnew, Option.isSome_iff_ne_none.mp hpond]
  refine gives_ok hexec ?_
  rw [State.chunkOf_commit, State.rd_commit, hwaits, State.chunkOf_putChunk, hchunk]
  exact ⟨rfl, hcount⟩

/-- A NACK of a chunk with a good copy is answered with its cells. -/
theorem nack_resends {h : Word} (hgood : (s.chunkOf g (cChunk k)).pondGood = true)
    (hpond : (s.chunkOf g (cChunk k)).pond = some h) (hmute : s.wmMute g = false)
    (hclean : s.poisoned (handleAddr h) (80 * ((s.chunkOf g (cChunk k)).pondCells + 1)) = false)
    (hlimit : Table.get 0 (s.chunkOf g (cChunk k)).nacks b.toNat < max 1 (s.fld WM_CFG WM_CFG_NACK_LIMIT))
    (hentry : bitOf (s.load (s.grp g 56 8 + 8 * b.toNat) 8) 63 = true) : Gives (.nack b k) s fun u =>
    (Table.get [] u.xin 1297).length = (Table.get [] s.xin 1297).length + (s.chunkOf g (cChunk k)).pondCells + 1 ∧
    Table.get 0 (u.chunkOf g (cChunk k)).nacks b.toNat = Table.get 0 (s.chunkOf g (cChunk k)).nacks b.toNat + 1 := by
  have hsame := s.nackCounted_same b.toNat k
  have hchunk : (s.nackCounted b.toNat k).chunkOf g (cChunk k) = s.chunkOf g (cChunk k) := rfl
  have hxin : (s.nackCounted b.toNat k).xin = s.xin := rfl
  have hexec := execNack_current (b := b) hon hg htype hkind hcur
  generalize s.nackCounted b.toNat k = v at *
  have hhere : v.nackHere g b.toNat (cChunk k) = v.resend g (cChunk k) b.toNat := by
    unfold State.nackHere
    simp [hchunk, hgood]
  have hsends := State.resend_sends (s := v) (g := g) (c := cChunk k) (b := b.toNat) (hchunk ▸ hpond)
    ((hsame.wmMute g).trans hmute) (by rw [hsame.poisoned, hchunk]; exact hclean)
    (by rw [hsame.fld_cfg, hchunk]; exact hlimit) (by rw [hsame.grp, hsame.load]; exact hentry)
  rw [hchunk, hxin] at hsends
  refine gives_ok hexec ?_
  rw [State.chunkOf_commit, State.commit_xin, hhere]
  exact hsends

end

end

/-! ### VOID_REQ (R236, R250, R252) -/

/-- What a test holds for none of is as if it were not there for that test. -/
theorem filter_eraseP {α : Type} {p q : α → Bool} (h : ∀ x, q x = true → p x = false) (l : List α) :
    (l.eraseP q).filter p = l.filter p := by
  induction l with
  | nil => rfl
  | cons x l ih =>
    by_cases hx : q x = true
    · rw [List.eraseP_cons_of_pos hx, List.filter_cons_of_neg (by simp [h x hx])]
    · rw [List.eraseP_cons_of_neg hx, List.filter_cons, List.filter_cons, ih]

/-- A cell that is no ACK taken from the inbox leaves the ACKs that wait. -/
theorem State.ackWaits_wmTaken (s : State) (b : Nat) {k : Cell} (h : hType k.h ≠ 9) (g c now : Nat) :
    (s.wmTaken b k).ackWaits g c now = s.ackWaits g c now := by
  refine filter_eraseP (fun e he => ?_) s.wmInbox
  obtain ⟨-, hcell⟩ : e.1 = b ∧ e.2.2 = k := by simpa using he
  simp [hcell, h]

theorem State.rootVoidReq_stale {s : State} {g c a : Nat} (h : s.chunkOpen g c = false ∨ (s.chunkOf g c).attempt ≠ a)
    (reason now : Nat) : s.rootVoidReq g c a reason now = s.count WM_ACK_STALE := by
  refine if_neg fun hall => ?_
  rw [Bool.and_eq_true, beq_iff_eq] at hall
  exact h.elim (by simp [hall.1]) (· hall.2)

theorem State.rootVoidReq_voids {s : State} {g c a now : Nat} (hopen : s.chunkOpen g c = true)
    (hcur : (s.chunkOf g c).attempt = a)
    (hmore : (((s.chunkOf g c).acked ++ (s.ackWaits g c now).map Prod.fst).eraseDups).length < s.grp g 30 2 % 2048)
    (reason : Nat) : s.rootVoidReq g c a reason now = s.rootVoid g c reason :=
  (if_pos (by simp [hopen, hcur])).trans (if_neg (not_le.mpr hmore))

section
variable {s : State} {g : Nat} {b : BitVec 11} {k : Cell} (hon : s.on = true)
  (hg : s.findGroup (hCtx k.h) (hTag k.h) = some g) (htype : hType k.h = 10) (hkind : cKind k = 7)
include hon hg htype hkind

theorem execVoidReq_found : execVoidReq b k s = ok s (if s.gRoot g then
    (s.wmTaken b.toNat k).rootVoidReq g (cChunk k) (cAttempt k) (cReason k) (s.wmReached b.toNat k)
    else (s.wmTaken b.toNat k).relayUp g k) := by
  rw [execVoidReq, State.powered_on hon, if_neg (by simp [htype, hkind, ctlVoidReq]), State.wmTake_found hg]
  rfl

/-- A VOID_REQ at a module that is no root goes on toward it. -/
theorem voidReq_relays (hroot : s.gRoot g = false) (hmute : s.wmMute g = false) : Gives (.voidReq b k) s fun u =>
    s.SentUp u g (hVc k.h) 10 ∧ u.regs = s.regs ∧ u.mem = s.mem := by
  obtain ⟨m, hsent, hmtype, hcirc, -⟩ := State.relayUp_sent (s := s.wmTaken b.toNat k) hmute k
  refine gives_ok (execVoidReq_found hon hg htype hkind) ?_
  rw [hroot, if_neg Bool.false_ne_true, hsent]
  simp only [State.commit_regs, State.commit_mem, State.SentUp, State.commit_xin, State.xin_inject, State.wmTaken_xin]
  exact ⟨⟨m, rfl, hmtype.trans htype, hcirc⟩, rfl, rfl⟩

section
variable (hroot : s.gRoot g = true)
include hroot

/-- A VOID_REQ that names another attempt, or a chunk that is not open, is counted stale. -/
theorem voidReq_stale (h : s.chunkOpen g (cChunk k) = false ∨ (s.chunkOf g (cChunk k)).attempt ≠ cAttempt k) :
    Gives (.voidReq b k) s fun u => u.rd WM_ACK_STALE = s.rd WM_ACK_STALE + 1 ∧ u.groups = s.groups := by
  refine gives_ok (execVoidReq_found hon hg htype hkind) ?_
  rw [hroot, if_pos rfl, State.rootVoidReq_stale (s := s.wmTaken b.toNat k) h]
  simp only [State.rd_commit, State.commit_groups, State.count_groups, State.wmTaken_groups, State.rd_count_same,
    State.rd_wmTaken, and_self]

/-- The root voids the chunk with its next attempt. -/
theorem voidReq_voids (hopen : s.chunkOpen g (cChunk k) = true) (hcur : (s.chunkOf g (cChunk k)).attempt = cAttempt k)
    (hsafe : s.egressBlocked = false)
    (hlimit : (s.chunkOf g (cChunk k)).voids < max 1 (s.fld WM_CFG WM_CFG_RETRY_LIMIT))
    (hmore : (((s.chunkOf g (cChunk k)).acked ++
      (s.ackWaits g (cChunk k) (s.wmReached b.toNat k)).map Prod.fst).eraseDups).length < s.grp g 30 2 % 2048) :
    Gives (.voidReq b k) s fun u =>
      (u.chunkOf g (cChunk k)).attempt = ((s.chunkOf g (cChunk k)).attempt + 1) % 256 ∧
      (u.chunkOf g (cChunk k)).voids = (s.chunkOf g (cChunk k)).voids + 1 ∧
      (u.chunkOf g (cChunk k)).acked = [] ∧ u.rd WM_VOIDS = s.rd WM_VOIDS + 1 := by
  have hwaits := s.ackWaits_wmTaken b.toNat (k := k) (by simp [htype]) g (cChunk k) (s.wmReached b.toNat k)
  have hvoid := State.rootVoidReq_voids (s := s.wmTaken b.toNat k) (now := s.wmReached b.toNat k) hopen hcur
    (by rw [hwaits]; exact hmore) (cReason k)
  obtain ⟨hchunk, hcount⟩ := State.rootVoid_voids (s := s.wmTaken b.toNat k) hsafe hlimit (cReason k)
  refine gives_ok (execVoidReq_found hon hg htype hkind) ?_
  rw [hroot, if_pos rfl, hvoid]
  simp only [State.rd_commit, State.chunkOf_commit, hchunk, hcount]
  exact ⟨rfl, rfl, rfl, rfl⟩

end

end

/-! ### O36 -/

/-- Settles O36: each cell is taken for its group (`State.wmTake_found`), and what it does there is the note of an ACK with the
seal or the ACK that the last one allows, the answer to a NACK, or the void that the root decides. -/
theorem collectiveUp : Obligations.CollectiveUp := by
  intro s g b k hon hg
  refine ⟨fun htype hkind => ⟨ack_stale hon hg htype hkind, fun hcur hnew =>
    ⟨ack_notes hon hg htype hkind hcur hnew, fun hlast hroot hsafe => ?_, fun hlast hroot hmute hgood hself => ?_⟩⟩,
    fun htype hkind => ⟨nack_stale hon hg htype hkind, nack_waits hon hg htype hkind,
      fun h hcur hgood hpond hmute hclean hlimit hentry =>
        nack_resends hon hg htype hkind hcur hgood hpond hmute hclean hlimit hentry⟩,
    fun htype hkind => ⟨voidReq_relays hon hg htype hkind, voidReq_stale hon hg htype hkind,
      voidReq_voids hon hg htype hkind⟩⟩
  · exact gives_ok (execAck_current hon hg htype hkind hcur hnew)
      (State.lastAck_seals (s := s.wmTaken b.toNat k) hlast hcur hroot hsafe)
  · exact gives_ok (execAck_current hon hg htype hkind hcur hnew)
      (State.lastAck_acks (s := s.wmTaken b.toNat k) hlast hcur hroot hmute hgood hself)

end Sys2Proof.Machine
end

section
/-! Cells of the DOWN-CTL tree, the root's timers and the feed of a replay (O37). -/

namespace Sys2Proof.Machine

/-! ### Events beside the group records -/

/-- A notice of class E counts its event, latches it and posts it: it starts no reset. -/
theorem State.notice_one (s : State) (cause src detail qual : Nat) (ctx : Option Nat) :
    ∃ e P, e.cls = 1 ∧ e.src = src ∧ s.notice 1 cause src detail qual ctx = ((s.countEvent e).latch e).post P := by
  let e : Ev := { cls := 1, src := src, code := evCode cause qual, detail := detail, ctx := ctx }
  have hagain : s.repeatOf e = none := by simp [State.repeatOf, e]
  have hstart : s.raiseStart e (s.latches e) false = (s.countEvent e).latch e := by
    simp [State.raiseStart, State.also, e]
  have hop : ∀ t : State, t.raiseOp e none = none := by simp [State.raiseOp, State.classReset, e]
  have hwith : s.raiseWith e none =
      ((s.countEvent e).latch e).post (((s.countEvent e).latch e).raisePost e (s.latches e) false none) := by
    simp [State.raiseWith, show e.cls = 1 from rfl, show e.hang = false from rfl, hstart, hop, State.also]
  refine ⟨e, ((s.countEvent e).latch e).raisePost e (s.latches e) false none, rfl, rfl, ?_⟩
  change s.raise e = _
  simp [State.raise, hagain, show e.cls = 1 from rfl, show e.noReset = false from rfl, State.also, ← hwith]
  rfl

theorem State.mem_latch (s : State) (e : Ev) : (s.latch e).mem = s.mem := by
  unfold State.latch
  dsimp only
  split
  · simp only [State.wr_mem]
  · split
    · exact s.setFld_mem _ _ _
    · rfl

/-- The entry of an event's source in the counter table holds all that counting the event writes. -/
theorem State.load_countEvent (s : State) {e : Ev} (hcls : e.cls ≤ 5) {b k : Nat}
    (h : b + k ≤ countAddr s e.src ∨ countAddr s e.src + 32 ≤ b) : (s.countEvent e).load b k = s.load b k := by
  unfold State.countEvent
  dsimp only
  cases counted e.src with
  | false => rfl
  | true =>
    refine (State.load_store_other _ _ _ _ _ _ (by omega)).trans ?_
    refine (State.load_store_other _ _ _ _ _ _ (by omega)).trans ?_
    rfl

/-- What a notice of class E leaves of memory: all but the counter entry of its source. -/
theorem State.load_notice_one (s : State) (cause src detail qual : Nat) (ctx : Option Nat) {b k : Nat}
    (h : b + k ≤ countAddr s src ∨ countAddr s src + 32 ≤ b) :
    (s.notice 1 cause src detail qual ctx).load b k = s.load b k := by
  obtain ⟨e, P, hcls, rfl, heq⟩ := s.notice_one cause src detail qual ctx
  have hmem : (s.notice 1 cause e.src detail qual ctx).mem = (s.countEvent e).mem := by
    rw [heq, (State.post_postOnly _ P).mem, State.mem_latch]
  exact (State.load_of_mem hmem b k).trans (s.load_countEvent (by omega) h)

/-! ### Group records read behind an event -/

/-- The base of the group records, memory and its poison are as they were. -/
structure State.RecordsKept (s t : State) : Prop where
  base : t.rd WM_BASE = s.rd WM_BASE
  mem : t.mem = s.mem
  poison : t.poison = s.poison

theorem State.RecordsKept.trans {a b c : State} (h : a.RecordsKept b) (k : b.RecordsKept c) : a.RecordsKept c :=
  ⟨k.base.trans h.base, k.mem.trans h.mem, k.poison.trans h.poison⟩

theorem State.count_recordsKept (s : State) {q : Reg} (h : q ≠ WM_BASE) : s.RecordsKept (s.count q) :=
  ⟨s.rd_count_other 1 h, rfl, rfl⟩

theorem State.modGroup_recordsKept (s : State) (g : Nat) (f : Group → Group) : s.RecordsKept (s.modGroup g f) :=
  ⟨rfl, rfl, rfl⟩

theorem State.commit_recordsKept (s t : State) : t.RecordsKept (s.commit t) := ⟨rfl, rfl, rfl⟩

theorem State.postPlain_recordsKept (s : State) (kind : Nat) (ctx : Option Nat) (source code : Nat) (data : List Byte) :
    s.RecordsKept (s.postPlain kind ctx source code data) :=
  ⟨(State.post_postOnly s _).rd _ (by decide) (by decide), (State.post_postOnly s _).mem,
    (s.postPlain_only kind ctx source code data).poison⟩

section
variable {s t : State} (h : s.RecordsKept t) (g : Nat)
include h

theorem State.RecordsKept.grp (b n : Nat) : t.grp g b n = s.grp g b n := by
  rw [State.grp, groupAddr, h.base, State.load_of_mem h.mem, State.grp, groupAddr]

theorem State.RecordsKept.poisoned : t.poisoned (groupAddr t g) 256 = s.poisoned (groupAddr s g) 256 := by
  rw [groupAddr, h.base, State.poisoned, h.poison, groupAddr, State.poisoned]

theorem State.RecordsKept.gState : t.gState g = s.gState g := by
  rw [State.gState, h.grp, h.poisoned, State.gState]

end

/-! ### Cells that pass a module that is not the root -/

section
variable {s : State} {g : Nat} {k : Cell} (hg : s.findGroup (hCtx k.h) (hTag k.h) = some g) (htype : hType k.h = 10)
  (hroot : s.gRoot g = false)
include hg htype hroot

theorem State.wmPass_found {kind : Nat} (hkind : cKind k = kind) (f : State → Nat → State) :
    s.wmPass kind k f = f (s.wmTaken 2048 k) g := by
  rw [State.wmPass, if_neg (by simp [htype, hkind]), State.wmTake_found hg]
  exact if_neg (ne_true_of_eq_false hroot)

end

/-! ### START (R240) -/

section
variable (s : State) (g b n v : Nat)

@[simp] theorem State.cycle_setGrp : (s.setGrp g b n v).cycle = s.cycle := rfl
@[simp] theorem State.groups_setGrp : (s.setGrp g b n v).groups = s.groups := rfl
@[simp] theorem State.rd_setGrp (r : Reg) : (s.setGrp g b n v).rd r = s.rd r := rfl
@[simp] theorem State.poisoned_setGrp (a m : Nat) : (s.setGrp g b n v).poisoned a m = s.poisoned a m := rfl
@[simp] theorem State.groupAddr_setGrp (i : Nat) : groupAddr (s.setGrp g b n v) i = groupAddr s i := rfl

end

/-- A group at the start of a collective in cycle `n`. -/
def Group.started (x : Group) (n : Nat) : Group :=
  { x with chunks := [], sealed := [], start := n, emptyChunks := 0, flags := 0, allEmpty := true, holds := 0,
           maxAttempt := 0, attempt0 := 0, resumed := false, breaks := [], settling := false, settled := false }

/-- The group record at the start of a collective. -/
def State.startRecord (s : State) (g red step weight : Nat) : State :=
  ((((((s.setGrp g 16 4 red).setGrp g 20 4 step).setGrp g 7 1 weight).setGState g 2).setGrp g 6 1 0).setGrp g 40 8 0).setGrp
    g 48 2 0

section
variable (s : State) (g red step weight : Nat)

theorem State.startHere_eq : s.startHere g red step weight =
    ((((s.startRecord g red step weight).freePonds g fun _ => true).modGroup g fun x =>
      x.started ((s.startRecord g red step weight).freePonds g fun _ => true).cycle).nodesRedId g) := rfl

theorem State.cycle_startRecord : (s.startRecord g red step weight).cycle = s.cycle := by
  simp only [State.startRecord, State.setGState, State.cycle_setGrp]

theorem State.groups_startRecord : (s.startRecord g red step weight).groups = s.groups := by
  simp only [State.startRecord, State.setGState, State.groups_setGrp]

theorem State.group_startRecord (i : Nat) : (s.startRecord g red step weight).group i = s.group i := by
  rw [State.group, State.groups_startRecord, State.group]

theorem State.nodesRedId_wmKept : s.WmKept (s.nodesRedId g) :=
  State.WmKept.frame.foldl (fun s _ => State.WmKept.frame.store s _ _ _) _ s

/-- A start leaves nothing of an earlier collective. -/
theorem State.group_startHere : (s.startHere g red step weight).group g =
    (((s.startRecord g red step weight).freePonds g fun _ => true).group g).started s.cycle := by
  rw [State.startHere_eq, (State.nodesRedId_wmKept _ g).group, State.group_modGroup,
    ((s.startRecord g red step weight).freePonds_coreKept g _).cycle, State.cycle_startRecord]

/-- A group with neither nodes nor chunks here starts with its record alone. -/
theorem State.startHere_bare (hnodes : (s.group g).nodes = []) (hchunks : (s.group g).chunks = []) :
    s.startHere g red step weight = (s.startRecord g red step weight).modGroup g fun x => x.started s.cycle := by
  have hgroup := s.group_startRecord g red step weight g
  have hfree := State.freePonds_none (s := s.startRecord g red step weight) (g := g) (by rw [hgroup, hchunks]) fun _ => true
  have hbare : (((s.startRecord g red step weight).modGroup g fun x => x.started s.cycle).group g).nodes = [] := by
    rw [State.group_modGroup, hgroup]
    exact hnodes
  rw [State.startHere_eq, hfree, State.cycle_startRecord, State.nodesRedId, hbare, List.foldl_nil]

/-- The record of a group at the start of a collective: ACTIVE, with RED_ID and STEP. -/
theorem State.startRecord_holds (hclean : s.poisoned (groupAddr s g) 256 = false) :
    (s.startRecord g red step weight).gState g = 2 ∧
    (s.startRecord g red step weight).gRedId g = red % 2 ^ 32 ∧ (s.startRecord g red step weight).gStep g = step % 2 ^ 32 := by
  refine ⟨?_, ?_, ?_⟩
  · rw [State.startRecord, State.gState_setGrp _ (.inl (by decide)), State.gState_setGrp _ (.inl (by decide)),
      State.gState_setGrp _ (.inl (by decide))]
    exact State.gState_setGState hclean (by decide)
  · simp only [State.gRedId, State.startRecord, State.setGState]
    repeat rw [State.grp_setGrp_other _ _ _ (by decide)]
    exact State.grp_setGrp_same ..
  · simp only [State.gStep, State.startRecord, State.setGState]
    repeat rw [State.grp_setGrp_other _ _ _ (by decide)]
    exact State.grp_setGrp_same ..

end

/-! ### HOLD (R251) -/

/-- A group that enters HOLD. -/
def Group.held (x : Group) : Group := { x with holds := x.holds + 1, settling := false, breaks := [] }

/-- The record of a group that enters HOLD, and the count. -/
def State.holdRecord (s : State) (g reason : Nat) : State :=
  (((s.setGState g 3).setGrp g 6 1 reason).count WM_HOLDS).modGroup g Group.held

section
variable {s : State} {g : Nat} (reason : Nat)

theorem State.holdRecord_same : ∀ r, r ≠ WM_HOLDS → (s.holdRecord g reason).rd r = s.rd r :=
  fun _ hr => State.rd_count_other ((s.setGState g 3).setGrp g 6 1 reason) 1 (Ne.symm hr)

theorem State.rd_holdRecord : (s.holdRecord g reason).rd WM_HOLDS = s.rd WM_HOLDS + 1 :=
  State.rd_count_same ((s.setGState g 3).setGrp g 6 1 reason) WM_HOLDS

/-- The record of a group in HOLD carries the reason. -/
theorem State.holdRecord_holds (hclean : s.poisoned (groupAddr s g) 256 = false) :
    (s.holdRecord g reason).gState g = 3 ∧ (s.holdRecord g reason).grp g 6 1 = reason % 256 := by
  have hkept : ((s.setGState g 3).setGrp g 6 1 reason).RecordsKept (s.holdRecord g reason) :=
    (State.count_recordsKept _ (by decide)).trans (State.modGroup_recordsKept _ g _)
  refine ⟨?_, ?_⟩
  · rw [hkept.gState, State.gState_setGrp _ (.inl (by decide)), State.gState_setGState hclean (by decide)]
  · rw [hkept.grp, State.grp_setGrp_same]
    rfl

variable (hnew : s.gState g ≠ 3)
include hnew

theorem State.enterHold_eq : s.enterHold g reason = (s.holdRecord g reason).notice 1 0x0012 (sourceOf 8 0)
    ((s.holdRecord g reason).gHandle g + (s.holdRecord g reason).gRedId g * 2 ^ 32) reason
    (some ((s.holdRecord g reason).gCtx g)) := by
  rw [State.enterHold, if_neg hnew]
  rfl

/-- A group that enters HOLD: its note, the count, and its record where the counter table lies beside it. -/
theorem State.enterHold_holds (hclean : s.poisoned (groupAddr s g) 256 = false) :
    let t := s.enterHold g reason
    t.group g = (s.group g).held ∧ t.rd WM_HOLDS = s.rd WM_HOLDS + 1 ∧
    (groupAddr s g + 256 ≤ countAddr s (sourceOf 8 0) ∨ countAddr s (sourceOf 8 0) + 32 ≤ groupAddr s g →
      t.gState g = 3 ∧ t.grp g 6 1 = reason % 256) := by
  intro t
  have ht : t = _ := State.enterHold_eq reason hnew
  obtain ⟨hstate, hreason⟩ := State.holdRecord_holds reason hclean
  have hgroup : (s.holdRecord g reason).group g = (s.group g).held := State.group_modGroup ..
  have hbase : groupAddr (s.holdRecord g reason) g = groupAddr s g := by
    rw [groupAddr, State.holdRecord_same reason _ (by decide), groupAddr]
  have hcount : countAddr (s.holdRecord g reason) (sourceOf 8 0) = countAddr s (sourceOf 8 0) := by
    rw [countAddr, State.holdRecord_same reason _ (by decide), countAddr]
  have hholds := State.rd_holdRecord (s := s) (g := g) reason
  generalize s.holdRecord g reason = v at *
  have honly : v.EventOnly t := ht ▸ v.notice_only _ _ _ _ _ _
  have hkept := State.WmKept.frame.event honly
  refine ⟨(hkept.group g).trans hgroup, (hkept.rd _ rfl).trans hholds, fun hbeside => ?_⟩
  have haddr : groupAddr t g = groupAddr v g := by rw [groupAddr, hkept.rd _ rfl, groupAddr]
  have hrecord {b n : Nat} (hb : b + n ≤ 256) : t.grp g b n = v.grp g b n := by
    rw [State.grp, haddr, ht, v.load_notice_one _ _ _ _ _ (by rw [hbase, hcount]; omega), State.grp]
  refine ⟨?_, (hrecord (by decide)).trans hreason⟩
  rw [← hstate, State.gState, State.gState, hrecord (by decide), haddr, State.poisoned, honly.poison, State.poisoned]

end

/-! ### DONE (R245) -/

/-- The record of a group that has taken a completion record. -/
def State.doneRecord (s : State) (g r state : Nat) : State := (s.setGrp g 192 32 r).setGState g state

theorem State.takeDone_eq (s : State) (g r state : Nat) : s.takeDone g r state =
    (s.doneRecord g r state).postPlain 4 (some ((s.doneRecord g r state).gCtx g)) (sourceOf 8 0) 0
      (eventData [(s.doneRecord g r state).gHandle g, (s.doneRecord g r state).gRedId g, (s.doneRecord g r state).gStep g,
        (s.doneRecord g r state).grp g 8 8] ++ toBytes 32 r) := rfl

/-- A completion record taken: LAST_DONE and STATE, and beside the event nothing but memory. -/
theorem State.takeDone_holds {s : State} {g : Nat} (hclean : s.poisoned (groupAddr s g) 256 = false) (r : Nat) {state : Nat}
    (hstate : state < 8) :
    let t := s.takeDone g r state
    t.grp g 192 32 = r % 256 ^ 32 ∧ t.gState g = state ∧ t.groups = s.groups ∧
    ∀ q : Reg, q.blk ≠ 15 → q.blk ≠ 16 → t.rd q = s.rd q := by
  intro t
  have ht : t = _ := s.takeDone_eq g r state
  have hlast : (s.doneRecord g r state).grp g 192 32 = r % 256 ^ 32 :=
    (State.grp_setGrp_other _ _ _ (by decide)).trans (State.grp_setGrp_same ..)
  have hgState : (s.doneRecord g r state).gState g = state :=
    State.gState_setGState (s := s.setGrp g 192 32 r) hclean hstate
  have hrest : (s.doneRecord g r state).groups = s.groups ∧ ∀ q, (s.doneRecord g r state).rd q = s.rd q :=
    ⟨rfl, fun _ => rfl⟩
  generalize s.doneRecord g r state = v at *
  have hkept : v.RecordsKept t := ht ▸ v.postPlain_recordsKept _ _ _ _ _
  have honly : v.EventOnly t := ht ▸ v.postPlain_only _ _ _ _ _
  refine ⟨(hkept.grp g _ _).trans hlast, (hkept.gState g).trans hgState, honly.groups.trans hrest.1, fun q h15 h16 => ?_⟩
  rw [ht, State.postPlain, (State.post_postOnly v _).rd q (fun e => h16 (e ▸ rfl)) fun e => h15 (e ▸ rfl), hrest.2]

theorem State.poison_takeDone (s : State) (g r state : Nat) : (s.takeDone g r state).poison = s.poison := by
  rw [State.takeDone_eq, (State.postPlain_only _ _ _ _ _ _).poison]
  rfl

/-! ### Cells on the DOWN-CTL tree -/

section
variable {s : State} {g : Nat} {k : Cell} (hon : s.on = true) (hg : s.findGroup (hCtx k.h) (hTag k.h) = some g)
  (htype : hType k.h = 10) (hroot : s.gRoot g = false)
include hon hg htype hroot

theorem start_starts (hkind : cKind k = 4) (hfresh : bitOf (cFlags k) 7 = false) : Gives (.start k) s fun u =>
    (u.group g).chunks = [] ∧ (u.group g).sealed = [] ∧ (u.group g).start = s.cycle ∧ (u.group g).resumed = false ∧
    ((s.group g).nodes = [] → (s.group g).chunks = [] → u.gState g = 2 ∧ u.gRedId g = cRedId k ∧ u.gStep g = cStep k) := by
  have hclean : (s.wmTaken 2048 k).poisoned (groupAddr (s.wmTaken 2048 k) g) 256 = false :=
    State.clean_of_gState (s := s) (State.gState_of_findGroup hg)
  have hexec : exec (.start k) s = ok s ((s.wmTaken 2048 k).startHere g (cRedId k) (cStep k) (cBody k 38 1)) := by
    change execStart k s = _
    rw [execStart, State.powered_on hon, State.wmPass_found hg htype hroot (by exact hkind)]
    rw [if_neg (ne_true_of_eq_false hfresh)]
  refine gives_ok hexec ?_
  have hgroup := (s.wmTaken 2048 k).group_startHere g (cRedId k) (cStep k) (cBody k 38 1)
  rw [State.group_commit, hgroup]
  refine ⟨rfl, rfl, rfl, rfl, fun hnodes hchunks => ?_⟩
  obtain ⟨hstate, hred, hstep⟩ := (s.wmTaken 2048 k).startRecord_holds g (cRedId k) (cStep k) (cBody k 38 1) hclean
  rw [(s.wmTaken 2048 k).startHere_bare g (cRedId k) (cStep k) (cBody k 38 1) hnodes hchunks]
  generalize (s.wmTaken 2048 k).startRecord g (cRedId k) (cStep k) (cBody k 38 1) = v at *
  have hkept := (v.modGroup_recordsKept g fun x => x.started (s.wmTaken 2048 k).cycle).trans (s.commit_recordsKept _)
  exact ⟨(hkept.gState g).trans hstate, ((hkept.grp g 16 4).trans hred).trans (Nat.mod_eq_of_lt (payNum_lt ..)),
    ((hkept.grp g 20 4).trans hstep).trans (Nat.mod_eq_of_lt (payNum_lt ..))⟩

theorem seal_seals (hkind : cKind k = 1) (hnew : cChunk k ∉ (s.group g).sealed) (hlt : cChunk k < s.gChunks g) :
    Gives (.seal k) s fun u =>
      (u.group g).sealed = cChunk k :: (s.group g).sealed ∧ u.rd WM_SEALS = s.rd WM_SEALS + 1 := by
  have hexec : exec (.seal k) s = ok s (((s.wmTaken 2048 k).count WM_SEALS).sealHere g (cChunk k) (cFlags k % 32)) := by
    change execSeal k s = _
    rw [execSeal, State.powered_on hon, State.wmPass_found hg htype hroot (by exact hkind)]
  have hsame := State.count_wmSame (s.wmTaken 2048 k) (q := WM_SEALS) ⟨rfl, by decide, by decide⟩
  have hcount := (s.wmTaken 2048 k).rd_count_same WM_SEALS
  have hgroup : ((s.wmTaken 2048 k).count WM_SEALS).group g = s.group g := rfl
  refine gives_ok hexec ?_
  generalize (s.wmTaken 2048 k).count WM_SEALS = v at *
  obtain ⟨hsealed, hrd⟩ := State.sealHere_seals (s := v) (by rw [hgroup]; exact hnew)
    (lt_of_lt_of_eq hlt (hsame.grp g 24 4).symm) (cFlags k % 32)
  rw [State.group_commit, State.rd_commit, hsealed, hgroup, hrd _ rfl]
  exact ⟨rfl, hcount⟩

theorem voidCell_voids (hkind : cKind k = 2) : Gives (.voidCell k) s fun u =>
    (u.chunkOf g (cChunk k)).attempt = cAttempt k ∧ (u.chunkOf g (cChunk k)).acked = [] ∧
    u.rd WM_VOIDS = s.rd WM_VOIDS + 1 := by
  have hexec : exec (.voidCell k) s = ok s (((s.wmTaken 2048 k).countVoid g).voidHere g (cChunk k) (cAttempt k)) := by
    change execVoidCell k s = _
    rw [execVoidCell, State.powered_on hon, State.wmPass_found hg htype hroot (by exact hkind)]
  have hcount : ((s.wmTaken 2048 k).countVoid g).rd WM_VOIDS = s.rd WM_VOIDS + 1 := (s.wmTaken 2048 k).rd_count_same WM_VOIDS
  refine gives_ok hexec ?_
  obtain ⟨hcore, hchunk⟩ := ((s.wmTaken 2048 k).countVoid g).voidHere_voids g (cChunk k) (cAttempt k)
  rw [State.chunkOf_commit, State.rd_commit, hchunk, hcore.rd _ rfl]
  exact ⟨rfl, rfl, hcount⟩

theorem hold_holds (hkind : cKind k = 5) (hnew : s.gState g ≠ 3) : Gives (.hold k) s fun u =>
    (u.group g).holds = (s.group g).holds + 1 ∧ (u.group g).settling = false ∧ u.rd WM_HOLDS = s.rd WM_HOLDS + 1 ∧
    (groupAddr s g + 256 ≤ countAddr s (sourceOf 8 0) ∨ countAddr s (sourceOf 8 0) + 32 ≤ groupAddr s g →
      u.gState g = 3 ∧ u.grp g 6 1 = cReason k) := by
  have hexec : exec (.hold k) s = ok s ((s.wmTaken 2048 k).enterHold g (cReason k)) := by
    change execHold k s = _
    rw [execHold, State.powered_on hon, State.wmPass_found hg htype hroot (by exact hkind)]
  have hclean : s.poisoned (groupAddr s g) 256 = false := State.clean_of_gState (State.gState_of_findGroup hg)
  obtain ⟨hgroup, hcount, hrecord⟩ := State.enterHold_holds (s := s.wmTaken 2048 k) (cReason k) hnew hclean
  rw [Nat.mod_eq_of_lt (show cReason k < 256 from payNum_lt ..)] at hrecord
  refine gives_ok hexec ?_
  rw [State.group_commit, State.rd_commit, hgroup]
  exact ⟨rfl, rfl, hcount, hrecord⟩

theorem done_completes (hkind : cKind k = 6) : Gives (.done k) s fun u =>
    u.grp g 192 32 = cBody k 32 32 ∧ u.gState g = 1 ∧ u.groups = s.groups ∧
    ∀ r : Reg, r.blk ≠ 15 → r.blk ≠ 16 → u.rd r = s.rd r := by
  have hexec : exec (.done k) s = ok s ((s.wmTaken 2048 k).takeDone g (cBody k 32 32) 1) := by
    change execDone k s = _
    rw [execDone, State.powered_on hon, State.wmPass_found hg htype hroot (by exact hkind)]
  have hclean : s.poisoned (groupAddr s g) 256 = false := State.clean_of_gState (State.gState_of_findGroup hg)
  obtain ⟨hlast, hstate, hgroups, hrd⟩ := State.takeDone_holds (s := s.wmTaken 2048 k) hclean (cBody k 32 32)
    (show 1 < 8 by decide)
  exact gives_ok hexec ⟨hlast.trans (Nat.mod_eq_of_lt (payNum_lt ..)), hstate, hgroups, hrd⟩

section
variable (b : BitVec 11) (hkind : cKind k = 3)
include hkind

/-- A BREAK on the DOWN-CTL tree is counted in the record. -/
theorem brkNotice_counts (hdown : (s.wmInbox.any fun e => e.1 == 2048 && e.2.2 == k) = true) :
    Gives (.brkNotice b k) s fun u =>
      u.grp g 48 2 = (s.grp g 48 2 + 1) % 65536 ∧ u.xin = s.xin ∧ u.regs = s.regs := by
  have hexec : exec (.brkNotice b k) s =
      ok s ((s.wmTaken 2048 k).setGrp g 48 2 ((s.wmTaken 2048 k).grp g 48 2 + 1)) := by
    change execBrkNotice b k s = _
    rw [execBrkNotice, State.powered_on hon, if_neg (by simp [htype, hkind, ctlBreak]), if_pos hdown,
      State.wmPass_found hg htype hroot (by exact hkind)]
  have hgrp : (s.wmTaken 2048 k).grp g 48 2 = s.grp g 48 2 := (s.wmTaken_same 2048 k).grp g 48 2
  have hrest : (s.wmTaken 2048 k).xin = s.xin ∧ (s.wmTaken 2048 k).regs = s.regs := ⟨rfl, rfl⟩
  refine gives_ok hexec ?_
  generalize s.wmTaken 2048 k = v at *
  rw [(State.commit_recordsKept s _).grp, State.grp_setGrp_same, State.commit_xin, State.commit_regs, hgrp]
  exact ⟨rfl, hrest.1, hrest.2⟩

/-- A BREAK of a branch is counted and goes on toward the root. -/
theorem brkNotice_relays (hup : (s.wmInbox.any fun e => e.1 == 2048 && e.2.2 == k) = false) (hmute : s.wmMute g = false) :
    Gives (.brkNotice b k) s fun u => u.rd WM_BREAKS = s.rd WM_BREAKS + 1 ∧ u.mem = s.mem ∧ ∃ m : Cell,
      Table.get [] u.xin 1297 = Table.get [] s.xin 1297 ++ [(hVc k.h, .cell m)] ∧ m.pay = k.pay ∧ hCirc m.h = s.gUp g := by
  have hexec : exec (.brkNotice b k) s = ok s (((s.wmTaken b.toNat k).count WM_BREAKS).relayUp g k) := by
    change execBrkNotice b k s = _
    rw [execBrkNotice, State.powered_on hon, if_neg (by simp [htype, hkind, ctlBreak]), if_neg (ne_true_of_eq_false hup),
      State.wmTake_found hg]
    exact congrArg (ok s) (if_neg (ne_true_of_eq_false hroot))
  have hsame := (s.wmTaken_same b.toNat k).trans
    (State.count_wmSame (s.wmTaken b.toNat k) (q := WM_BREAKS) ⟨rfl, by decide, by decide⟩)
  have hcount := (s.wmTaken b.toNat k).rd_count_same WM_BREAKS
  have hxin : ((s.wmTaken b.toNat k).count WM_BREAKS).xin = s.xin := rfl
  refine gives_ok hexec ?_
  generalize (s.wmTaken b.toNat k).count WM_BREAKS = v at *
  obtain ⟨m, hsent, -, hcirc, hpay⟩ := State.relayUp_sent ((hsame.wmMute g).trans hmute) k
  rw [State.rd_commit, State.commit_mem, State.commit_xin, hsent, State.xin_inject, hxin]
  exact ⟨hcount, hsame.mem, m, rfl, hpay, hcirc.trans (hsame.gUp g)⟩

end

end

/-! ### Breaks settled (R255) -/

/-- A group whose settle time has ended and that has no break left to tell. -/
def Group.Settled (x : Group) : Prop := x.settling = false ∧ x.settled = true ∧ x.breaks = []

theorem Group.Settled.of_core {x y : Group} (h : x.Settled) (hcore : y.core = x.core) : y.Settled := by
  have hsettled : x.core.Settled := h
  rwa [← hcore] at hsettled

theorem State.CoreKept.settled {g : Nat} {s t : State} (h : s.CoreKept g t) (hs : (s.group g).Settled) :
    (t.group g).Settled := hs.of_core h.core

theorem State.settled_of_groups {g : Nat} {s t : State} (h : t.groups = s.groups) (hs : (s.group g).Settled) :
    (t.group g).Settled := by
  rwa [State.group, h]

/-- A fold of steps each of which leaves the group settled. -/
theorem State.foldl_settled {g : Nat} {β : Type} {f : State → β → State}
    (h : ∀ (s : State) b, (s.group g).Settled → ((f s b).group g).Settled) (l : List β) {s : State}
    (hs : (s.group g).Settled) : ((l.foldl f s).group g).Settled := by
  induction l generalizing s with
  | nil => exact hs
  | cons b l ih => exact ih (h s b hs)

section
variable {s : State} {g : Nat} (hs : (s.group g).Settled)
include hs

theorem State.sendCtl_settled (type kind chunk label attempt flags reason count body : Nat) :
    ((s.sendCtl g type kind chunk label attempt flags reason count body).group g).Settled :=
  State.settled_of_groups (State.WmKept.frame.sendCtl s g _ _ _ _ _ _ _ _ _).groups hs

theorem State.reseal_settled : ((s.reseal g).group g).Settled :=
  State.foldl_settled (fun s c => State.settled_of_groups (s.sendSeal_sends g c).1) _ hs

theorem State.rootHold_settled (reason : Nat) : ((s.rootHold g reason).group g).Settled := by
  have hsent := State.sendCtl_settled hs 10 ctlHold wholeColl (s.gDown g) 0 0 reason 0 0
  unfold State.rootHold
  generalize s.sendCtl g 10 ctlHold wholeColl (s.gDown g) 0 0 reason 0 0 = v at *
  by_cases hheld : v.gState g = 3
  · rw [State.enterHold, if_pos hheld]
    exact hsent
  · rw [State.enterHold_eq reason hheld]
    refine State.settled_of_groups (State.notice_only _ _ _ _ _ _ _).groups ?_
    obtain ⟨-, hsettled, -⟩ := hsent
    have hgroup : (v.holdRecord g reason).group g = (v.group g).held := State.group_modGroup ..
    rw [hgroup]
    exact ⟨rfl, hsettled, rfl⟩

/-- Whether the root voids the chunk or holds, no break is left to tell. -/
theorem State.rootVoid_settled (c reason : Nat) : ((s.rootVoid g c reason).group g).Settled := by
  unfold State.rootVoid
  split
  · exact hs
  · extract_lets y a v w
    split
    · exact State.rootHold_settled hs 2
    · have hv : (v.group g).Settled := (s.putChunk_coreKept g c _).settled hs
      have hw : (w.group g).Settled := State.sendCtl_settled hv ..
      exact (State.voidHere_voids (w.countVoid g) g c a).1.settled hw

end

/-- Steps 1 to 3 of R255 leave no break to tell. -/
theorem State.breakSteps_settled {s : State} {g : Nat} (hsettling : (s.group g).settling = false)
    (hsettled : (s.group g).settled = true) : ((s.breakSteps g).group g).Settled := by
  have hcleared : ((s.modGroup g fun x => { x with breaks := [] }).group g).Settled := by
    rw [State.group_modGroup]
    exact ⟨hsettling, hsettled, rfl⟩
  unfold State.breakSteps
  refine State.foldl_settled (fun s c hs => ?_) _ (State.foldl_settled (fun s b hs => ?_) _ (State.reseal_settled hcleared))
  · split
    · exact State.rootVoid_settled hs c 5
    · exact hs
  · exact State.sendCtl_settled (s := s.count WM_BREAKS) hs ..

/-! ### Timers of the root and the feed of a replay -/

/-- Where the record behind the one at REPLAY's place in the ring begins. -/
def Group.nextRecord (x : Group) (s : State) : Nat :=
  x.replayAt + 64 + s.load (x.replayBase + x.replayAt + 24) 4 / 64 * 64

section
variable {s : State} {g : Fin 1024} (hon : s.on = true)
include hon

theorem chunkTimeout_voids {c : BitVec 32} (hroot : s.gRoot g = true) (hopen : s.chunkOpen g c.toNat = true)
    (hsafe : s.egressBlocked = false) (hlimit : (s.chunkOf g c.toNat).voids < max 1 (s.fld WM_CFG WM_CFG_RETRY_LIMIT)) :
    Gives (.chunkTimeout g c) s fun u =>
      (u.chunkOf g c.toNat).attempt = ((s.chunkOf g c.toNat).attempt + 1) % 256 ∧ u.rd WM_VOIDS = s.rd WM_VOIDS + 1 := by
  have hexec : exec (.chunkTimeout g c) s = ok s (s.rootVoid g c.toNat 6) := by
    change execChunkTimeout g c s = _
    rw [execChunkTimeout, State.powered_on hon, if_pos (by simp [hroot, hopen])]
  obtain ⟨hchunk, hcount⟩ := State.rootVoid_voids hsafe hlimit 6
  refine gives_ok hexec ?_
  rw [State.chunkOf_commit, State.rd_commit, hchunk]
  exact ⟨rfl, hcount⟩

theorem chunkTimeout_idle {c : BitVec 32} (h : s.gRoot g = false ∨ s.chunkOpen g c.toNat = false) :
    exec (.chunkTimeout g c) s = .next s := by
  change execChunkTimeout g c s = _
  rw [execChunkTimeout, State.powered_on hon, if_neg fun hboth => ?_, ok_self]
  obtain ⟨hroot, hopen⟩ := (Bool.and_eq_true _ _).mp hboth
  simp [hroot, hopen] at h

theorem breakSettle_settles (hstate : s.gState g = 2) (hroot : s.gRoot g = true) (hsettling : (s.group g).settling = true) :
    Gives (.breakSettle g) s fun u =>
      (u.group g).settling = false ∧ (u.group g).settled = true ∧ (u.group g).breaks = [] := by
  have hexec : exec (.breakSettle g) s =
      ok s ((s.modGroup g fun x => { x with settling := false, settled := true }).breakSteps g) := by
    change execBreakSettle g s = _
    rw [execBreakSettle, State.powered_on hon, if_pos (by simp [hstate, hroot, hsettling])]
  exact gives_ok hexec (State.breakSteps_settled (by rw [State.group_modGroup]) (by rw [State.group_modGroup]))

section
variable (hreplay : s.gReplay g = true) (hstate : s.gState g = 2)
include hreplay hstate

/-- The end of the ring with no entry held: the group is BOUND again. -/
theorem replayRecordFeed_ends (hend : (s.group g).replaySize < (s.group g).replayAt + 64) (hfree : s.groupEntries g = []) :
    Gives (.replayRecordFeed g) s fun u => u.gState g = 1 ∧ u.gReplay g = false ∧
      ∀ r : Reg, r.blk ≠ 15 → r.blk ≠ 16 → u.rd r = s.rd r := by
  have hclean : s.poisoned (groupAddr s g) 256 = false := State.clean_of_gState (by omega)
  have hleft : s.replayLeft g = s := by rw [State.replayLeft, hfree, List.filter_nil, List.foldl_nil]
  have hexec : ∃ v : State, v = (s.setGBit g 5 1 false).setGState g 1 ∧ exec (.replayRecordFeed g) s =
      ok s (v.postPlain 8 (some (s.gCtx g)) (sourceOf 8 0) 0 (eventData [s.gHandle g])) := by
    refine ⟨_, rfl, ?_⟩
    change execReplayRecordFeed g s = _
    rw [execReplayRecordFeed, State.powered_on hon]
    dsimp only
    rw [if_neg (by simp [hreplay, hstate]), if_pos hend, hleft, if_neg (by simp [hfree])]
  obtain ⟨v, hv, hexec⟩ := hexec
  have hgState : v.gState g = 1 := by
    rw [hv]
    exact State.gState_setGState (s := s.setGBit g 5 1 false) hclean (by decide)
  have hbit : v.gReplay g = false := by
    rw [hv, State.gReplay, State.setGState, State.grp_setGrp_other _ _ _ (.inr (by decide)),
      State.bitOf_setGBit _ _ _ _ _ (by decide)]
  have hrd (r : Reg) : v.rd r = s.rd r := by
    rw [hv]
    rfl
  have hkept := v.postPlain_recordsKept 8 (some (s.gCtx g)) (sourceOf 8 0) 0 (eventData [s.gHandle g])
  refine gives_ok hexec ⟨(hkept.gState g).trans hgState, ?_, fun r h15 h16 => ?_⟩
  · rw [← hbit]
    exact congrArg (bitOf · 1) (hkept.grp g 5 1)
  · rw [State.rd_commit, State.postPlain, (State.post_postOnly v _).rd r (fun e => h16 (e ▸ rfl)) fun e => h15 (e ▸ rfl), hrd]

/-- A marker of the ring is passed over. -/
theorem replayRecordFeed_passes (hmore : (s.group g).replayAt + 64 ≤ (s.group g).replaySize)
    (hmarker : 1024 ≤ s.load ((s.group g).replayBase + (s.group g).replayAt + 14) 2) :
    Gives (.replayRecordFeed g) s fun u => (u.group g).replayAt = (s.group g).nextRecord s ∧
      u.mem = s.mem ∧ u.regs = s.regs := by
  have hexec : exec (.replayRecordFeed g) s =
      ok s (s.setGroup g { s.group g with replayAt := (s.group g).nextRecord s }) := by
    change execReplayRecordFeed g s = _
    rw [execReplayRecordFeed, State.powered_on hon]
    dsimp only
    rw [if_neg (by simp [hreplay, hstate]), if_neg (not_lt.mpr hmore), if_pos hmarker]
    rfl
  refine gives_ok hexec ?_
  rw [State.group_commit, State.group_setGroup, State.commit_mem, State.commit_regs]
  exact ⟨rfl, rfl, rfl⟩

end

end

/-! ### O37 -/

/-- Settles O37: a cell that passes is taken for its group (`State.wmPass_found`), and what each does there reads off the group
record and the chunk; the breaks of a settled group stay told through every void and hold of the open chunks
(`State.breakSteps_settled`). -/
theorem collectiveDown : Obligations.CollectiveDown := by
  refine ⟨fun s g k hon hg htype hroot => ⟨start_starts hon hg htype hroot, seal_seals hon hg htype hroot,
    voidCell_voids hon hg htype hroot, hold_holds hon hg htype hroot, done_completes hon hg htype hroot,
    fun b hkind => ⟨brkNotice_counts hon hg htype hroot b hkind, brkNotice_relays hon hg htype hroot b hkind⟩⟩,
    fun s g hon => ⟨fun c => chunkTimeout_voids hon, fun c => chunkTimeout_idle hon, breakSettle_settles hon,
      fun hreplay hstate => ⟨replayRecordFeed_ends hon hreplay hstate, replayRecordFeed_passes hon hreplay hstate⟩⟩⟩

end Sys2Proof.Machine
end

section
/-! What a ring command leaves of the groups and the plans (O45): parts of a group record, memory cleared, and the state behind
a completed entry. -/

namespace Sys2Proof.Machine

/-! ### Parts of a stored number -/

theorem State.load_add (s : State) (a i n : Nat) : s.load a (i + n) = s.load a i + 256 ^ i * s.load (a + i) n := by
  have hsplit : s.bytes a (i + n) = s.bytes a i ++ s.bytes (a + i) n := by
    simp [State.bytes, List.range_add, Nat.add_assoc]
  rw [State.load, hsplit, ofBytes_append, show (s.bytes a i).length = i by simp [State.bytes]]
  rfl

/-- `n` bytes of a stored number from its byte `i`. -/
theorem State.load_part (s : State) (a : Nat) {i n m : Nat} (h : i + n ≤ m) :
    s.load (a + i) n = bitsOf (s.load a m) (8 * i) (8 * n) := by
  obtain ⟨r, rfl⟩ := Nat.exists_eq_add_of_le h
  rw [bitsOf_eq, ← pow_bytes, ← pow_bytes, Nat.add_assoc, State.load_add, State.load_add s (a + i),
    Nat.add_mul_div_left _ _ (by positivity), Nat.div_eq_of_lt (s.load_lt a i), Nat.zero_add, Nat.add_mul_mod_self_left, Nat.mod_eq_of_lt (s.load_lt _ n)]

theorem bitsOf_mod_pow (x lo : Nat) {w v : Nat} (h : v ≤ w) : bitsOf x lo w % 2 ^ v = bitsOf x lo v := by
  rw [bitsOf_eq, bitsOf_eq, Nat.mod_mod_of_dvd _ (pow_dvd_pow 2 h)]

theorem State.grp_part (s : State) (g b : Nat) {i n m : Nat} (h : i + n ≤ m) :
    s.grp g (b + i) n = bitsOf (s.grp g b m) (8 * i) (8 * n) := by
  rw [State.grp, ← Nat.add_assoc, s.load_part _ h, State.grp]

/-- A part of a field that holds zero. -/
theorem State.grp_part_zero {s : State} {g b i n m : Nat} (hm : i + n ≤ m) (h : s.grp g b m = 0) : s.grp g (b + i) n = 0 := by
  rw [s.grp_part g b hm, h, bitsOf_eq]
  simp

/-! ### Memory cleared -/

theorem Memory.read_zeroBytes (s : State) {a n x : Nat} (h : a ≤ x ∧ x < a + n) :
    Memory.read (s.zeroBytes a n).mem x = 0#8 := by
  refine Table.get_of_not_mem _ _ _ fun hmem => ?_
  obtain ⟨e, he, rfl⟩ := List.mem_map.mp hmem
  have hout := (List.mem_filter.mp he).2
  simp only [Bool.or_eq_true, decide_eq_true_eq] at hout
  omega

theorem State.load_one (s : State) (a : Nat) : s.load a 1 = (Memory.read s.mem a).toNat := by
  simp [State.load, State.bytes, ofBytes]

/-- A fold of steps each of which changes memory alone. -/
theorem State.foldl_putMem {β : Type} {f : State → β → State} (hf : ∀ s b, ∃ m, f s b = s.putMem m) (l : List β) (s : State) :
    ∃ m, l.foldl f s = s.putMem m := by
  induction l generalizing s with
  | nil => exact ⟨s.mem, rfl⟩
  | cons b l ih =>
    obtain ⟨m, hm⟩ := hf s b
    obtain ⟨m', hm'⟩ := ih (s.putMem m)
    refine ⟨m', ?_⟩
    rw [List.foldl_cons, hm, hm']
    rfl

/-! ### Groups and plans behind a completed entry -/

/-- The groups, the plans, the lane map and the Jorou table are as they were. -/
structure State.PlansKept (s t : State) : Prop where
  groups : t.groups = s.groups
  plans : t.plans = s.plans
  laneMap : t.laneMap = s.laneMap
  mapFixed : t.mapFixed = s.mapFixed
  jorou : t.jorou = s.jorou

theorem State.EventOnly.plansKept {s t : State} (h : s.EventOnly t) : s.PlansKept t :=
  ⟨h.groups, h.plans, h.laneMap, h.mapFixed, h.jorou⟩

theorem State.PlansKept.trans {a b c : State} (h : a.PlansKept b) (k : b.PlansKept c) : a.PlansKept c :=
  ⟨k.groups.trans h.groups, k.plans.trans h.plans, k.laneMap.trans h.laneMap, k.mapFixed.trans h.mapFixed,
    k.jorou.trans h.jorou⟩

theorem State.put_plansKept (s : State) (a : Nat) (l : List Byte) : s.PlansKept (s.put a l) := ⟨rfl, rfl, rfl, rfl, rfl⟩

theorem State.movedOn_plansKept (s : State) (c r : Nat) (x : Ring) (i : Nat) : s.PlansKept (s.movedOn c r x i) :=
  ⟨rfl, rfl, rfl, rfl, rfl⟩

theorem State.commit_plansKept (s t : State) : t.PlansKept (s.commit t) := ⟨rfl, rfl, rfl, rfl, rfl⟩

/-- A command that completes leaves the groups and plans as its body did. -/
theorem State.command_plansKept {s t : State} {k : RingCmd} {x : Ring} {op : Nat} {device : Bool} {body : State → Nat × State}
    (hp : s.Posted k op x) (hopen : s.ctxState k.ctx.toNat = 1) (hdev : device = true ↔ k.ctx.toNat = 0)
    (hbody : body s = (0, t)) (hkept : s.RingsKept t) : t.PlansKept (s.command k op device body) := by
  have hdone : s.RingsKept (t.entryDone x k.index.toNat) :=
    ((hkept.trans (State.put_ringsKept _ _ _)).trans (State.put_ringsKept _ _ _)).trans (State.put_ringsKept _ _ _)
  have hentry : t.PlansKept (t.entryDone x k.index.toNat) :=
    ((State.put_plansKept _ _ _).trans (State.put_plansKept _ _ _)).trans (State.put_plansKept _ _ _)
  obtain ⟨hevent, -⟩ := State.finishEntry_ok (t := t) (c := k.ctx.toNat) (r := k.ring.val) hp.place op k.index.toNat
    k.cookie.toNat k.event
  rw [State.command_eq hp hopen hdev hbody, State.sweepRings_idle (hp.rest hdone hevent.ringsKept)]
  exact (hentry.trans (State.movedOn_plansKept _ _ _ _ _)).trans hevent.plansKept

/-- What holds of every state that a completed entry leaves, with groups and plans as its body left them, holds of the state
that the command gives. -/
theorem gives_plansCommand {i : Instr} {s t : State} {k : RingCmd} {x : Ring} {op : Nat} {device : Bool}
    {body : State → Nat × State} {P : State → Prop} (hp : s.Posted k op x)
    (hexec : exec i s = ok s (s.powered fun s => s.command k op device body)) (hopen : s.ctxState k.ctx.toNat = 1)
    (hdev : device = true ↔ k.ctx.toNat = 0) (hbody : body s = (0, t)) (hkept : s.RingsKept t)
    (hP : ∀ u, t.Completed u k x → t.PlansKept u → P u) : Gives i s P := by
  rw [State.powered_on hp.on] at hexec
  exact gives_ok hexec (hP _ ((State.command_completes hp hopen hdev hbody hkept).commit s)
    ((State.command_plansKept hp hopen hdev hbody hkept).trans (s.commit_plansKept _)))

theorem State.PlansKept.group {s t : State} (h : s.PlansKept t) (g : Nat) : t.group g = s.group g := by
  rw [State.group, h.groups, State.group]

section
variable {t u : State} {k : RingCmd} {x : Ring} (h : t.Completed u k x) {g : Nat}
include h

theorem State.Completed.groupAddr : groupAddr u g = groupAddr t g := by
  rw [Machine.groupAddr, h.rd _ (by decide) (by decide), Machine.groupAddr]

section
variable (ha : x.Apart (Machine.groupAddr t g) 256)
include ha

theorem State.Completed.grp {b n : Nat} (hb : b + n ≤ 256) : u.grp g b n = t.grp g b n := by
  rw [State.grp, h.groupAddr, h.load (by unfold Ring.Apart at *; omega), State.grp]

theorem State.Completed.gState (hclean : t.poisoned (Machine.groupAddr t g) 256 = false) : u.gState g = t.gState g := by
  rw [State.gState_eq (s := u) (by rw [h.groupAddr]; exact h.poisoned _ _ hclean), h.grp ha (by decide), State.gState_eq hclean]

end

end

/-! ### Commands of a group -/

theorem State.groupCmd_found {s : State} {k : RingCmd} {g : Nat} (h : s.findGroup k.ctx.toNat (k.arg 18 2) = some g)
    (f : Nat → Nat × State) : s.groupCmd k f = f g := by
  rw [State.groupCmd, h]

/-- The rings stand through whatever tiles, pools and events do. -/
theorem State.RingsKept.frame : Frame State.RingsKept where
  refl := .refl
  trans := .trans
  event h := h.ringsKept
  wr s _ v hq := s.wr_ringsKept v (by omega)
  poison _ _ := .of_same rfl rfl
  tiles _ _ := .of_same rfl rfl
  sets _ _ := .of_same rfl rfl
  xin _ _ := .of_same rfl rfl
  pools _ _ := .of_same rfl rfl
  owners _ _ := .of_same rfl rfl
  bufs _ _ := .of_same rfl rfl
  waiters _ _ := .of_same rfl rfl
  grants _ _ := .of_same rfl rfl

/-- A command of a group: what its body leaves of the group's record is read, outside the ring, from the record that it
wrote. -/
theorem gives_groupCommand {i : Instr} {s t : State} {k : RingCmd} {x : Ring} {op g : Nat} {f : State → Nat → Nat × State}
    {P : State → Prop} (hopen : s.ctxState k.ctx.toNat = 1) (hc : k.ctx ≠ 0)
    (hg : s.findGroup k.ctx.toNat (k.arg 18 2) = some g) (ha : x.Apart (groupAddr s g) 256) (hp : s.Posted k op x)
    (hexec : exec i s = ok s (s.powered fun s => s.command k op false fun s => s.groupCmd k (f s)))
    (hbody : f s g = (0, t)) (hkept : s.RingsKept t) (hbase : t.rd WM_BASE = s.rd WM_BASE)
    (hP : ∀ u, t.Completed u k x → t.PlansKept u → (∀ b n, b + n ≤ 256 → u.grp g b n = t.grp g b n) →
      (t.poisoned (groupAddr t g) 256 = false → u.gState g = t.gState g) → P u) : Gives i s P := by
  have haddr : groupAddr t g = groupAddr s g := by rw [groupAddr, hbase, groupAddr]
  refine gives_plansCommand hp hexec hopen (RingCmd.own hc) ((s.groupCmd_found hg _).trans hbody) hkept fun u h hplans =>
    hP u h hplans (fun b n hb => h.grp (haddr ▸ ha) hb) fun hclean => h.gState (haddr ▸ ha) hclean

end Sys2Proof.Machine
end

section
/-! Plans, groups, collectives and recordings by command (O45). -/

namespace Sys2Proof.Machine

/-! ### Plans (R358, R360) -/

/-- The rings, the plans, the lane map and the Jorou table are as they were. -/
structure State.LanesKept (s t : State) : Prop where
  rings : s.RingsKept t
  laneMap : t.laneMap = s.laneMap
  mapFixed : t.mapFixed = s.mapFixed
  plans : t.plans = s.plans
  jorou : t.jorou = s.jorou

theorem State.LanesKept.refl (s : State) : s.LanesKept s := ⟨.refl s, rfl, rfl, rfl, rfl⟩

theorem State.LanesKept.trans {a b c : State} (h : a.LanesKept b) (k : b.LanesKept c) : a.LanesKept c :=
  ⟨h.rings.trans k.rings, k.laneMap.trans h.laneMap, k.mapFixed.trans h.mapFixed, k.plans.trans h.plans,
    k.jorou.trans h.jorou⟩

theorem State.LanesKept.foldl {β : Type} {f : State → β → State} (h : ∀ (s : State) b, s.LanesKept (f s b)) (l : List β)
    (s : State) : s.LanesKept (l.foldl f s) := by
  induction l generalizing s with
  | nil => exact .refl s
  | cons b l ih => exact (h s b).trans (ih _)

theorem State.setFld_lanesKept (s : State) {q : Reg} (f : Fld) (v : Nat) (h : q.blk ≠ 17) : s.LanesKept (s.setFld q f v) :=
  ⟨s.setFld_ringsKept f v h, s.setFld_laneMap q f v, s.setFld_mapFixed q f v, s.setFld_plans q f v, s.setFld_jorou q f v⟩

theorem State.wr_lanesKept (s : State) {q : Reg} (v : Word) (h : q.blk ≠ 17) : s.LanesKept (s.wr q v) :=
  ⟨s.wr_ringsKept v h, s.wr_laneMap q v, s.wr_mapFixed q v, s.wr_plans q v, s.wr_jorou q v⟩

theorem State.expectPeer_lanesKept (s : State) (p : Nat) : s.LanesKept (s.expectPeer p) := by
  unfold State.expectPeer
  split
  · exact .refl s
  · exact (s.wr_lanesKept _ (by simp [PORT_PEER_EXP0])).trans (State.wr_lanesKept _ _ (by simp [PORT_PEER_EXP1]))

/-- A lane map in force leaves the rings, the plans and the Jorou table. -/
theorem State.takeLaneMap_takes (s : State) (l : List LaneRec) :
    let t := s.takeLaneMap l
    s.RingsKept t ∧ t.laneMap = l ∧ t.mapFixed = true ∧ t.plans = s.plans ∧ t.jorou = s.jorou := by
  obtain ⟨v, hv, hlanes⟩ : ∃ v, v = ((s.putLaneMap l).putMapFixed true).putFloor
      (((s.putLaneMap l).putMapFixed true).fld RSV_FLOOR RSV_FLOOR_SHARED_FLOOR) ∧ v.LanesKept (s.takeLaneMap l) := by
    unfold State.takeLaneMap
    extract_lets first v
    refine ⟨v, rfl, ?_⟩
    refine State.LanesKept.foldl (fun s r => ?_) l v
    extract_lets u w
    have hu : s.LanesKept u := s.setFld_lanesKept _ _ (by simp [PORT_ROLE])
    have hw : u.LanesKept w := by
      simp only [w]
      split
      · exact (u.setFld_lanesKept _ _ (by simp [PORT_LINK_STAT])).trans
          (State.setFld_lanesKept _ _ _ (by simp [PORT_LINK_STAT]))
      · exact .refl u
    refine (hu.trans hw).trans ?_
    split
    · exact w.expectPeer_lanesKept _
    · exact .refl w
  have hput : s.RingsKept v := by
    rw [hv]
    exact .of_same rfl rfl
  obtain ⟨hrings, hmap, hfixed, hplans, hjorou⟩ := hlanes
  refine ⟨hput.trans hrings, hmap.trans ?_, hfixed.trans ?_, hplans.trans ?_, hjorou.trans ?_⟩ <;> rw [hv] <;> rfl

/-- The Jorou table rewritten has the next TSEQ. -/
theorem State.jorouRewrite_rewrites (s : State) : ∃ j : Jorou, j.tseq = s.jorou.tseq + 1 ∧
    (s.putJorou j).EventOnly s.jorouRewrite := by
  unfold State.jorouRewrite
  extract_lets j
  exact ⟨j, rfl, State.postPlain_only _ _ _ _ _ _⟩

theorem State.jorouRewrite_keeps (s : State) :
    let t := s.jorouRewrite
    s.RingsKept t ∧ t.laneMap = s.laneMap ∧ t.mapFixed = s.mapFixed ∧ t.plans = s.plans ∧
    t.jorou.tseq = s.jorou.tseq + 1 := by
  obtain ⟨j, hseq, honly⟩ := s.jorouRewrite_rewrites
  have hput : s.RingsKept (s.putJorou j) := .of_same rfl rfl
  exact ⟨hput.trans honly.ringsKept, honly.laneMap, honly.mapFixed, honly.plans,
    (congrArg Jorou.tseq honly.jorou).trans hseq⟩

section
variable {s : State} {k : RingCmd} {x : Ring} (hopen : s.ctxState k.ctx.toNat = 1)
include hopen

theorem planLoad_loads {image body : List Byte} {active modules seed : Nat} {p : PlanRecs} (hp : s.Posted k 0x0010 x)
    (hc : k.ctx = 0) (hh : k.arg 16 1 < 16) (hfree : Table.has s.plans (k.arg 16 1) = false)
    (himay : s.mayRead 0 (k.arg 24 8) (k.arg 32 4) = true)
    (hbmay : k.arg 48 4 = 0 ∨ s.mayRead 0 (k.arg 40 8) (k.arg 48 4) = true)
    (himage : s.dataRead (k.arg 24 8) (k.arg 32 4) = (image, s)) (hbody : s.dataRead (k.arg 40 8) (k.arg 48 4) = (body, s))
    (hhead : planHead s.switchId image body = some (active, modules, seed)) (hrecs : planRecs active body = some p)
    (hwidths : s.mapFixed = true → widthsOf p.lanes = widthsOf s.laneMap) (hactive : active = s.active)
    (hoff : s.crossesOff p = false) : Gives (.planLoad k) s fun u =>
      u.Finished k x 0 ∧ u.jorou.tseq = s.jorou.tseq + 1 ∧ u.laneMap = p.lanes ∧ u.mapFixed = true ∧
      Table.look u.plans (k.arg 16 1) = some ⟨false, active, modules, BitVec.ofNat 64 seed, sha512 image, body⟩ ∧
      ∀ j, j ≠ k.arg 16 1 → Table.look u.plans j = Table.look s.plans j := by
  have hgood : (s.mapFixed && widthsOf p.lanes != widthsOf s.laneMap) = false := by
    cases hfixed : s.mapFixed
    · rfl
    · simp [hwidths hfixed]
  have hmay : (!s.mayRead 0 (k.arg 24 8) (k.arg 32 4) ||
      !(k.arg 48 4 == 0 || s.mayRead 0 (k.arg 40 8) (k.arg 48 4))) = false := by
    rcases hbmay with hzero | hread
    · simp [himay, hzero]
    · simp [himay, hread]
  obtain ⟨v, hv⟩ : ∃ v : State, v = (s.putPlans (Table.put natRank s.plans (k.arg 16 1)
    ⟨false, active, modules, BitVec.ofNat 64 seed, sha512 image, body⟩)).putPlanFp (sha512 image) := ⟨_, rfl⟩
  obtain ⟨hvrings, hvplans, hvjorou⟩ : s.RingsKept v ∧ v.plans = Table.put natRank s.plans (k.arg 16 1)
      ⟨false, active, modules, BitVec.ofNat 64 seed, sha512 image, body⟩ ∧ v.jorou = s.jorou := by
    subst hv
    exact ⟨.of_same rfl rfl, rfl, rfl⟩
  obtain ⟨hwrings, hwmap, hwfixed, hwplans, hwjorou⟩ := v.takeLaneMap_takes p.lanes
  obtain ⟨htrings, htmap, htfixed, htplans, htseq⟩ := (v.takeLaneMap p.lanes).jorouRewrite_keeps
  refine gives_plansCommand (t := (v.takeLaneMap p.lanes).jorouRewrite) hp rfl hopen (RingCmd.device hc) ?_
    ((hvrings.trans hwrings).trans htrings) fun u h hkept => ?_
  · dsimp only
    rw [if_neg (by omega), if_neg (ne_true_of_eq_false hfree), if_neg (ne_true_of_eq_false hmay), himage]
    dsimp only
    rw [hbody]
    dsimp only
    rw [hhead]
    dsimp only
    rw [hrecs]
    dsimp only
    rw [if_neg (ne_true_of_eq_false hgood), if_neg (by simp [hactive]), if_neg (ne_true_of_eq_false hoff), hv]
  · have hplans : u.plans = Table.put natRank s.plans (k.arg 16 1)
        ⟨false, active, modules, BitVec.ofNat 64 seed, sha512 image, body⟩ := by
      rw [hkept.plans, htplans, hwplans, hvplans]
    refine ⟨h.finished, ?_, ?_, ?_, ?_, fun j hj => ?_⟩
    · rw [hkept.jorou, htseq, hwjorou, hvjorou]
    · rw [hkept.laneMap, htmap, hwmap]
    · rw [hkept.mapFixed, htfixed, hwfixed]
    · rw [hplans, Table.look_put_same]
    · rw [hplans, Table.look_put, if_neg (Ne.symm hj)]

theorem planRetire_retires (hp : s.Posted k 0x0011 x) (hc : k.ctx = 0) (hh : k.arg 16 1 < 16)
    (hheld : Table.has s.plans (k.arg 16 1) = true) (hidle : ∀ g ∈ s.groupsBound, (s.group g).plan ≠ k.arg 16 1) :
    Gives (.planRetire k) s fun u => u.Finished k x 0 ∧ u.jorou.tseq = s.jorou.tseq + 1 ∧
      ∀ j, Table.look u.plans j = if j = k.arg 16 1 then none else Table.look s.plans j := by
  have hput : s.RingsKept (s.putPlans (Table.del s.plans (k.arg 16 1))) := .of_same rfl rfl
  obtain ⟨hrings, -, -, hplans, hseq⟩ := (s.putPlans (Table.del s.plans (k.arg 16 1))).jorouRewrite_keeps
  refine gives_plansCommand (t := (s.putPlans (Table.del s.plans (k.arg 16 1))).jorouRewrite) hp rfl hopen
    (RingCmd.device hc) ?_ (hput.trans hrings) fun u h hkept => ⟨h.finished, ?_, fun j => ?_⟩
  · dsimp only
    rw [if_neg (by omega), if_neg (by simp [hheld]), if_neg (by simpa using hidle)]
  · rw [hkept.jorou, hseq]
    rfl
  · rw [hkept.plans, hplans]
    exact (Table.look_del s.plans (k.arg 16 1) j).trans (by simp only [eq_comm])

end

/-! ### GROUP_BIND (R363) -/

section
variable (x c handle fp : Nat)

theorem bindGroup_below {lo w : Nat} (h : lo + w ≤ 42) : bitsOf (bindGroup x c handle fp) lo w =
    bitsOf (putBits (putBits (putBits (putBits x 0 12 c) 16 12 handle) 64 64 fp) 32 3 1) lo w := by
  unfold bindGroup
  rw [bitsOf_putBits_below _ _ _ _ _ _ (by omega), bitsOf_putBits_below _ _ _ _ _ _ (by omega),
    bitsOf_putBits_below _ _ _ _ _ _ (by omega)]

theorem bindGroup_state : bitsOf (bindGroup x c handle fp) 32 3 = 1 := by
  rw [bindGroup_below _ _ _ _ (by decide), bitsOf_putBits_same]
  rfl

theorem bindGroup_ctx : bitsOf (bindGroup x c handle fp) 0 12 = c % 2 ^ 12 := by
  rw [bindGroup_below _ _ _ _ (by decide), bitsOf_putBits_below _ _ _ _ _ _ (by decide),
    bitsOf_putBits_below _ _ _ _ _ _ (by decide), bitsOf_putBits_below _ _ _ _ _ _ (by decide), bitsOf_putBits_same]

theorem bindGroup_handle : bitsOf (bindGroup x c handle fp) 16 12 = handle % 2 ^ 12 := by
  rw [bindGroup_below _ _ _ _ (by decide), bitsOf_putBits_below _ _ _ _ _ _ (by decide),
    bitsOf_putBits_below _ _ _ _ _ _ (by decide), bitsOf_putBits_same]

end

/-- A number put at an address reads back in as many bytes. -/
theorem State.load_put_mod (s : State) (a m v : Nat) : (s.put a (toBytes m v)).load a m = v % 2 ^ (8 * m) := by
  have h := s.load_put_same a (toBytes m v)
  rwa [toBytes_length, ofBytes_toBytes, pow_bytes] at h

theorem State.load_setGroup (s : State) (g : Nat) (x : Group) (a m : Nat) : (s.setGroup g x).load a m = s.load a m := rfl
theorem State.poisoned_setGroup (s : State) (g : Nat) (x : Group) (a m : Nat) :
    (s.setGroup g x).poisoned a m = s.poisoned a m := rfl
theorem State.groupAddr_setGroup (s : State) (g : Nat) (x : Group) (i : Nat) :
    groupAddr (s.setGroup g x) i = groupAddr s i := rfl
theorem State.groupAddr_put (s : State) (a : Nat) (l : List Byte) (i : Nat) :
    groupAddr (s.put a l) i = groupAddr s i := rfl

/-- The state behind GROUP_BIND of a group without nodes, circuits or trees. -/
def State.boundGroup (s : State) (n h i c g fp : Nat) : State :=
  (s.put (groupAddr s n) (toBytes 256 (bindGroup (imageOf g) c (rNum g 2 2 % 4096) fp))).setGroup n
    { Group.init with plan := h, index := i }

section
variable (s : State) (n h i c g fp : Nat)

theorem State.groupAddr_boundGroup : groupAddr (s.boundGroup n h i c g fp) n = groupAddr s n := by
  rw [State.boundGroup, State.groupAddr_setGroup, State.groupAddr_put]

theorem State.poisoned_boundGroup (hclean : s.poisoned (groupAddr s n) 256 = false) :
    (s.boundGroup n h i c g fp).poisoned (groupAddr s n) 256 = false := by
  rw [State.boundGroup, State.poisoned_setGroup]
  exact State.poisoned_put hclean _ _

/-- A field of the record that GROUP_BIND wrote. -/
theorem State.grp_boundGroup {b k w : Nat} (hb : b + k ≤ 256) (hw : w ≤ 8 * k) :
    (s.boundGroup n h i c g fp).grp n b k % 2 ^ w = bitsOf (bindGroup (imageOf g) c (rNum g 2 2 % 4096) fp) (8 * b) w := by
  have hrecord : (s.boundGroup n h i c g fp).load (groupAddr s n) 256 =
      bindGroup (imageOf g) c (rNum g 2 2 % 4096) fp % 2 ^ (8 * 256) := by
    rw [State.boundGroup, State.load_setGroup, State.load_put_mod]
  have hfield : (s.boundGroup n h i c g fp).grp n b k =
      bitsOf ((s.boundGroup n h i c g fp).load (groupAddr s n) 256) (8 * b) (8 * k) := by
    rw [State.grp, State.groupAddr_boundGroup, State.load_part _ _ hb]
  rw [hfield, hrecord, bitsOf_mod_pow _ _ hw, bitsOf_mod _ (by omega)]

theorem State.group_boundGroup : (s.boundGroup n h i c g fp).group n = { Group.init with plan := h, index := i } :=
  State.group_setGroup ..

end

section
variable {s : State} {k : RingCmd} {x : Ring} (hopen : s.ctxState k.ctx.toNat = 1) (hc : k.ctx ≠ 0)
include hopen hc

theorem groupBind_binds (hp : s.Posted k 0x0020 x) {p : Plan} {r : PlanRecs} {g n : Nat}
    (hplan : Table.look s.plans (k.arg 16 1) = some p) (hfresh : p.stale = false) (hrecs : planRecs p.active p.body = some r)
    (hgroup : r.groups.filter (fun e => rNum e 0 2 == k.arg 18 2) = [g]) (hnodes : r.nodes = []) (hcircs : r.circuits = [])
    (htrees : r.trees = []) (hbranches : r.branches = []) (hnew : s.findGroup k.ctx.toNat (rNum g 2 2 % 4096) = none)
    (hlow : lowest 1024 (fun j => s.gState j == 0) = some n) (hclean : s.poisoned (groupAddr s n) 256 = false)
    (ha : x.Apart (groupAddr s n) 256) : Gives (.groupBind k) s fun u =>
      u.Finished k x 0 ∧ u.gState n = 1 ∧ u.gCtx n = k.ctx.toNat ∧ u.gHandle n = rNum g 2 2 % 4096 ∧
      u.group n = { Group.init with plan := k.arg 16 1, index := k.arg 18 2 } := by
  have hbinds : s.groupBind k.ctx.toNat (k.arg 16 1) (k.arg 18 2) =
      (0, s.boundGroup n (k.arg 16 1) (k.arg 18 2) k.ctx.toNat g (ofBytes (p.fp.take 8))) := by
    simp [State.groupBind, hplan, hrecs, hgroup, hnodes, hcircs, htrees, hbranches, hfresh, hnew, hlow, State.bindNodes,
      State.bindCircuits, State.bindTrees, State.boundGroup]
    rfl
  have hput : (s.boundGroup n (k.arg 16 1) (k.arg 18 2) k.ctx.toNat g (ofBytes (p.fp.take 8))).poisoned (groupAddr s n) 256 =
      false := s.poisoned_boundGroup n _ _ _ g _ hclean
  have hrings : s.RingsKept (s.boundGroup n (k.arg 16 1) (k.arg 18 2) k.ctx.toNat g (ofBytes (p.fp.take 8))) :=
    (State.put_ringsKept _ _ _).trans (State.setGroup_ringsKept _ _ _)
  have haddr : groupAddr (s.boundGroup n (k.arg 16 1) (k.arg 18 2) k.ctx.toNat g (ofBytes (p.fp.take 8))) n =
      groupAddr s n := s.groupAddr_boundGroup n _ _ _ g _
  have hnote := s.group_boundGroup n (k.arg 16 1) (k.arg 18 2) k.ctx.toNat g (ofBytes (p.fp.take 8))
  have hfield {b m w : Nat} (hb : b + m ≤ 256) (hw : w ≤ 8 * m) :=
    s.grp_boundGroup n (k.arg 16 1) (k.arg 18 2) k.ctx.toNat g (ofBytes (p.fp.take 8)) hb hw
  refine gives_plansCommand hp rfl hopen (RingCmd.own hc) hbinds hrings fun u h hkept => ?_
  generalize s.boundGroup n (k.arg 16 1) (k.arg 18 2) k.ctx.toNat g (ofBytes (p.fp.take 8)) = t at *
  rw [← haddr] at hput ha
  have hgrp {b m : Nat} (hb : b + m ≤ 256) : u.grp n b m = t.grp n b m := h.grp ha hb
  refine ⟨h.finished, ?_, ?_, ?_, (hkept.group n).trans hnote⟩
  · rw [h.gState ha hput, State.gState_eq hput]
    exact (hfield (b := 4) (m := 1) (w := 3) (by decide) (by decide)).trans (bindGroup_state ..)
  · rw [State.gCtx, hgrp (by decide)]
    exact ((hfield (b := 0) (m := 2) (w := 12) (by decide) (by decide)).trans (bindGroup_ctx ..)).trans
      (Nat.mod_eq_of_lt k.ctx.isLt)
  · rw [State.gHandle, hgrp (by decide)]
    exact ((hfield (b := 2) (m := 2) (w := 12) (by decide) (by decide)).trans (bindGroup_handle ..)).trans (Nat.mod_mod _ _)

end

/-! ### GROUP_UNBIND (R238) -/

/-- A group with neither chunks nor a pond owner: what GROUP_BIND wrote is cleared in memory alone. -/
theorem State.groupClear_clears {s : State} {g : Nat} (hchunks : (s.group g).chunks = []) (hpond : (s.group g).pond = none) :
    ∃ m, s.groupClear g = ((s.putMem m).zeroBytes (groupAddr s g) 256).setGroup g Group.init := by
  unfold State.groupClear
  extract_lets x c handle u v w y z q
  have hu : u = s := State.freePonds_none hchunks _
  obtain ⟨m1, hv⟩ : ∃ m, v = u.putMem m := State.foldl_putMem (fun s n => ⟨_, rfl⟩) _ u
  obtain ⟨m2, hw⟩ : ∃ m, w = v.putMem m := by
    refine State.foldl_putMem (fun s l => ?_) _ v
    split
    · exact ⟨_, rfl⟩
    · exact ⟨s.mem, rfl⟩
  obtain ⟨m3, hy⟩ : ∃ m, y = w.putMem m := by
    refine State.foldl_putMem (fun s n => ?_) _ w
    split
    · exact ⟨_, rfl⟩
    · exact ⟨s.mem, rfl⟩
  obtain ⟨m4, hz⟩ : ∃ m, z = y.putMem m := State.foldl_putMem (fun s b => ⟨_, rfl⟩) _ y
  have hq : q = z := by
    simp only [q, x, hpond]
  refine ⟨m4, ?_⟩
  rw [hq, hz, hy, hw, hv, hu]
  rfl

/-! ### COLL_ABORT (R238) -/

/-- What DRAINING ends to does not change another record, and leaves a group DRAINING or BOUND. -/
theorem State.drained_gState {s : State} {g : Nat} (hclean : s.poisoned (groupAddr s g) 256 = false)
    (h : s.gState g = 4 ∨ s.gState g = 1) :
    let t := s.drained
    (t.gState g = 4 ∨ t.gState g = 1) ∧ t.grp g 209 1 = s.grp g 209 1 ∧
    t.poisoned (groupAddr t g) 256 = false := by
  unfold State.drained
  generalize s.groupsBound = l
  induction l generalizing s with
  | nil => exact ⟨h, rfl, hclean⟩
  | cons i l ih =>
    rw [List.foldl_cons]
    split
    · have hbyte : (s.setGState i 1).grp g 209 1 = s.grp g 209 1 :=
        s.load_store_other (groupAddr s i + 4) 1 1 (groupAddr s g + 209) 1 (by unfold groupAddr; omega)
      have hstate : (s.setGState i 1).gState g = 4 ∨ (s.setGState i 1).gState g = 1 := by
        by_cases hi : i = g
        · subst hi
          exact .inr (State.gState_setGState hclean (by decide))
        · have hsame : (s.setGState i 1).gState g = s.gState g := by
            have hrecord : (s.setGState i 1).grp g 4 1 = s.grp g 4 1 :=
              s.load_store_other (groupAddr s i + 4) 1 1 (groupAddr s g + 4) 1 (by unfold groupAddr; omega)
            rw [State.gState_eq (s := s.setGState i 1) hclean, State.gState_eq hclean, hrecord]
          rw [hsame]
          exact h
      obtain ⟨hend, hgrp, hpoison⟩ := ih (s := s.setGState i 1) hclean hstate
      exact ⟨hend, hgrp.trans hbyte, hpoison⟩
    · exact ih hclean h

/-- The bytes in the middle of a number made of three parts. -/
theorem bitsOf_ofBytes_middle {l m r : List Byte} {i n : Nat} (hi : l.length = i) (hn : m.length = n) :
    bitsOf (ofBytes (l ++ m ++ r)) (8 * i) (8 * n) = ofBytes m := by
  subst hi hn
  refine bitsOf_of_parts (hi := ofBytes r) (lo' := ofBytes l) ?_ (by rw [← pow_bytes]; exact ofBytes_lt m)
    (by rw [← pow_bytes]; exact ofBytes_lt l)
  rw [List.append_assoc, ofBytes_append, ofBytes_append, ← Nat.mul_add, ← pow_bytes, ← pow_bytes, Nat.pow_add]
  ring

/-- STATUS in a completion record. -/
theorem State.completion_status (s : State) (g status : Nat) (h : status < 256) :
    bitsOf (s.completion g status) (8 * 17) (8 * 1) = status := by
  have hregroup (l m a b c d : List Byte) : l ++ m ++ a ++ b ++ c ++ d = l ++ m ++ (a ++ b ++ c ++ d) := by
    simp only [List.append_assoc]
  unfold State.completion
  extract_lets x all
  rw [hregroup, bitsOf_ofBytes_middle (by simp [toBytes_length]) (toBytes_length 1 _), ofBytes_toBytes]
  exact Nat.mod_eq_of_lt h

/-! ### Commands of a bound group -/

theorem State.sendCtl_recordsKept (s : State) (g type kind chunk label attempt flags reason count body : Nat) :
    s.RecordsKept (s.sendCtl g type kind chunk label attempt flags reason count body) := by
  obtain ⟨l, hl⟩ := s.sendCtl_eq g type kind chunk label attempt flags reason count body
  rw [hl]
  exact ⟨rfl, rfl, rfl⟩

theorem State.startRecord_ringsKept (s : State) (g red step weight : Nat) : s.RingsKept (s.startRecord g red step weight) :=
  (((((s.setGrp_ringsKept g 16 4 red).trans (State.setGrp_ringsKept _ _ _ _ _)).trans (State.setGrp_ringsKept _ _ _ _ _)).trans
    (State.setGState_ringsKept _ _ _)).trans (State.setGrp_ringsKept _ _ _ _ _)).trans
    ((State.setGrp_ringsKept _ _ _ _ _).trans (State.setGrp_ringsKept _ _ _ _ _))

/-- LOW_UNSEALED at the start of a collective. -/
theorem State.gLow_startRecord (s : State) (g red step weight : Nat) : (s.startRecord g red step weight).gLow g = 0 := by
  refine State.grp_part_zero (b := 40) (i := 0) (m := 8) (by decide) ?_
  rw [State.startRecord, State.grp_setGrp_other _ _ _ (by decide), State.grp_setGrp_same]
  rfl

theorem State.poisoned_startRecord (s : State) (g red step weight : Nat)
    (hclean : s.poisoned (groupAddr s g) 256 = false) :
    (s.startRecord g red step weight).poisoned (groupAddr (s.startRecord g red step weight) g) 256 = false := by
  simp only [State.startRecord, State.setGState, State.groupAddr_setGrp, State.poisoned_setGrp, hclean]

theorem State.rd_startRecord (s : State) (g red step weight : Nat) (r : Reg) :
    (s.startRecord g red step weight).rd r = s.rd r := by
  simp only [State.startRecord, State.setGState, State.rd_setGrp]

/-- The record of a group whose recording starts (Table 9-10). -/
def State.recordRecord (s : State) (g a n first steps flags : Nat) : State :=
  ((((((s.setGrp g 64 8 a).setGrp g 72 8 n).setGrp g 80 8 0).setGrp g 88 4 first).setGrp g 92 4 steps).setGrp g 96 1
    flags).setGBit g 5 2 true

/-- RECORDING, the ring's place and size in the record, with STATE and what lies beside memory as they were. -/
theorem State.recordRecord_holds (s : State) (g a n first steps flags : Nat)
    (hclean : s.poisoned (groupAddr s g) 256 = false) :
    let t := s.recordRecord g a n first steps flags
    bitOf (t.grp g 5 1) 2 = true ∧ t.gState g = s.gState g ∧ t.grp g 64 8 = a % 256 ^ 8 ∧ t.grp g 72 8 = n % 256 ^ 8 ∧
    t.poisoned (groupAddr t g) 256 = false ∧ t.rd WM_BASE = s.rd WM_BASE ∧ s.RingsKept t := by
  intro t
  have ht : t = s.recordRecord g a n first steps flags := rfl
  unfold State.recordRecord at ht
  refine ⟨?_, ?_, ?_, ?_, ?_, ?_, ?_⟩
  · rw [ht, State.bitOf_setGBit _ _ _ _ _ (by decide)]
  · rw [ht, State.setGBit]
    repeat rw [State.gState_setGrp _ (.inl (by decide))]
  · rw [ht, State.setGBit]
    repeat rw [State.grp_setGrp_other _ _ _ (by decide)]
    exact State.grp_setGrp_same ..
  · rw [ht, State.setGBit]
    repeat rw [State.grp_setGrp_other _ _ _ (by decide)]
    exact State.grp_setGrp_same ..
  · rw [ht]
    simp only [State.setGBit, State.poisoned_setGrp, State.groupAddr_setGrp, hclean]
  · rw [ht]
    simp only [State.setGBit, State.rd_setGrp]
  · rw [ht]
    exact ((((((s.setGrp_ringsKept _ _ _ _).trans (State.setGrp_ringsKept _ _ _ _ _)).trans
      (State.setGrp_ringsKept _ _ _ _ _)).trans (State.setGrp_ringsKept _ _ _ _ _)).trans
      (State.setGrp_ringsKept _ _ _ _ _)).trans (State.setGrp_ringsKept _ _ _ _ _)).trans (State.setGBit_ringsKept _ _ _ _ _)

/-- A group that replays the ring of `n` bytes at `a`. -/
def Group.replaying (a n : Nat) (x : Group) : Group := { x with replayBase := a, replayAt := 0, replaySize := n }

section
variable {s : State} {k : RingCmd} {x : Ring} (hopen : s.ctxState k.ctx.toNat = 1) (hc : k.ctx ≠ 0) {g : Nat}
  (hg : s.findGroup k.ctx.toNat (k.arg 18 2) = some g) (ha : x.Apart (groupAddr s g) 256)
include hopen hc hg ha

theorem groupUnbind_unbinds (hp : s.Posted k 0x0021 x) (hstate : s.gState g = 1) (hfree : s.groupEntries g = [])
    (hwaiters : s.waiters = []) (hchunks : (s.group g).chunks = []) (hpond : (s.group g).pond = none) :
    Gives (.groupUnbind k) s fun u => u.Finished k x 0 ∧ u.gState g = 0 ∧ u.group g = Group.init := by
  obtain ⟨m, hclear⟩ := State.groupClear_clears hchunks hpond
  have hzeroed : s.RingsKept ((s.putMem m).zeroBytes (groupAddr s g) 256) := .of_same rfl rfl
  have hserve : (s.groupClear g).serve 1 = s.groupClear g := by
    have hnone : (s.groupClear g).waiters = [] := by
      rw [hclear]
      exact hwaiters
    rw [State.serve, hnone]
    rfl
  refine gives_groupCommand (t := s.groupClear g) hopen hc hg ha hp rfl ?_ ?_ ?_ fun u h hplans hgrp _ => ⟨h.finished, ?_, ?_⟩
  · rw [if_neg (by simp [hstate]), if_neg (by simp [hfree]), hserve]
  · rw [hclear]
    exact hzeroed.trans (State.setGroup_ringsKept _ _ _)
  · rw [hclear]
    rfl
  · have hzero : (s.groupClear g).grp g 4 1 = 0 := by
      rw [hclear, State.grp, State.load_setGroup, State.load_one, Memory.read_zeroBytes]
      · rfl
      · exact ⟨Nat.le_add_right _ 4, Nat.add_lt_add_left (by decide) _⟩
    rw [State.gState, hgrp 4 1 (by decide), hzero]
    exact ite_self 0
  · rw [hplans.group, hclear, State.group_setGroup]

theorem collStart_starts (hp : s.Posted k 0x0022 x) (hroot : s.gRoot g = true) (hstate : s.gState g = 1)
    (hchunks : k.arg 28 4 = s.gChunks g) (hweight : k.arg 32 1 ≠ 0) (hfresh : s.groupStale g = false)
    (hempty : (s.group g).chunks = []) (hnodes : (s.group g).nodes = []) :
    Gives (.collStart k) s fun u => u.Finished k x 0 ∧ u.gState g = 2 ∧ u.gRedId g = k.arg 20 4 ∧
      u.gStep g = k.arg 24 4 ∧ u.gLow g = 0 ∧ (u.group g).sealed = [] ∧ (u.group g).start = s.cycle := by
  have hclean : s.poisoned (groupAddr s g) 256 = false := State.clean_of_gState (by omega)
  obtain ⟨hactive, hred, hstep⟩ := s.startRecord_holds g (k.arg 20 4) (k.arg 24 4) (k.arg 32 1) hclean
  have hlow := s.gLow_startRecord g (k.arg 20 4) (k.arg 24 4) (k.arg 32 1)
  have hbare := s.startHere_bare g (k.arg 20 4) (k.arg 24 4) (k.arg 32 1) hnodes hempty
  have hrings := s.startRecord_ringsKept g (k.arg 20 4) (k.arg 24 4) (k.arg 32 1)
  have hvclean := s.poisoned_startRecord g (k.arg 20 4) (k.arg 24 4) (k.arg 32 1) hclean
  have hbase : (s.startRecord g (k.arg 20 4) (k.arg 24 4) (k.arg 32 1)).rd WM_BASE = s.rd WM_BASE :=
    s.rd_startRecord g _ _ _ _
  obtain ⟨t, ht⟩ : ∃ t, t = s.collStart g (k.arg 20 4) (k.arg 24 4) (k.arg 32 1) := ⟨_, rfl⟩
  have hsent : t = _ := ht
  unfold State.collStart at hsent
  rw [hbare] at hsent
  dsimp only at hsent
  generalize s.startRecord g (k.arg 20 4) (k.arg 24 4) (k.arg 32 1) = v at *
  have hmod := v.modGroup_recordsKept g fun x => x.started s.cycle
  have hnote : (v.modGroup g fun x => x.started s.cycle).group g = (v.group g).started s.cycle := State.group_modGroup ..
  have hvrings := hrings.trans (v.modGroup_ringsKept g fun x => x.started s.cycle)
  generalize (v.modGroup g fun x => x.started s.cycle) = w at *
  have hcell := w.sendCtl_recordsKept g 10 ctlStart wholeColl (w.gDown g) 0 0 0 0 (w.startBody g 0)
  have hkept : w.WmKept t := hsent ▸ State.WmKept.frame.sendCtl w _ _ _ _ _ _ _ _ _ _
  have htrings : w.RingsKept t := hsent ▸ State.RingsKept.frame.sendCtl w _ _ _ _ _ _ _ _ _ _
  rw [← hsent] at hcell
  have htgrp := (hmod.trans hcell).grp g
  have htbase : t.rd WM_BASE = s.rd WM_BASE := (hcell.base.trans hmod.base).trans hbase
  have htclean := ((hmod.trans hcell).poisoned g).trans hvclean
  refine gives_groupCommand (t := t) hopen hc hg ha hp rfl ?_ (hvrings.trans htrings) htbase
    fun u h hplans hgrp hgState => ⟨h.finished, ?_, ?_, ?_, ?_, ?_, ?_⟩
  · dsimp only
    rw [if_neg (by simp [hroot]), if_neg (by simp [hstate]), if_neg (by simp [hchunks, hweight]),
      if_neg (ne_true_of_eq_false hfresh), if_pos hstate, ht]
  · rw [hgState htclean, hcell.gState, hmod.gState, hactive]
  · exact ((hgrp 16 4 (by decide)).trans (htgrp 16 4)).trans (hred.trans (Nat.mod_eq_of_lt (RingCmd.arg_lt k 20 4)))
  · exact ((hgrp 20 4 (by decide)).trans (htgrp 20 4)).trans (hstep.trans (Nat.mod_eq_of_lt (RingCmd.arg_lt k 24 4)))
  · exact ((hgrp 40 4 (by decide)).trans (htgrp 40 4)).trans hlow
  · rw [hplans.group, hkept.group, hnote]
    rfl
  · rw [hplans.group, hkept.group, hnote]
    rfl

theorem collAbort_aborts (hp : s.Posted k 0x0023 x) (hroot : s.gRoot g = true) (hstate : s.gState g = 2)
    (hsealed : ∀ c < s.gChunks g, c ∈ (s.group g).sealed) : Gives (.collAbort k) s fun u =>
      u.Finished k x 0 ∧ (u.gState g = 4 ∨ u.gState g = 1) ∧ u.grp g 209 1 = 1 := by
  have hclean : s.poisoned (groupAddr s g) 256 = false := State.clean_of_gState (by omega)
  have hnone : ((List.range (s.gChunks g)).filter fun c => !(s.group g).sealed.contains c) = [] := by
    refine List.filter_eq_nil_iff.mpr fun c hin => ?_
    simpa using hsealed c (List.mem_range.mp hin)
  have habort : s.collAbort g = ((s.finish g 1 4).setGBit g 5 1 false).drained := by
    unfold State.collAbort
    rw [if_neg (by simp [hstate])]
    dsimp only
    rw [hnone, List.foldl_nil]
  have hrecord : (s.completion g 1) % 256 ^ 32 = s.completion g 1 % 2 ^ (8 * 32) := by rw [pow_bytes]
  obtain ⟨hlast, hdrains, -, hrd⟩ := State.takeDone_holds hclean (s.completion g 1) (show 4 < 8 by decide)
  have hpoison := s.poison_takeDone g (s.completion g 1) 4
  have hdone : s.RingsKept (s.takeDone g (s.completion g 1) 4) := by
    rw [State.takeDone_eq]
    exact ((s.setGrp_ringsKept _ _ _ _).trans (State.setGState_ringsKept _ _ _)).trans
      (State.postPlain_only _ _ _ _ _ _).ringsKept
  have hfinish : s.finish g 1 4 = (s.takeDone g (s.completion g 1) 4).sendCtl g 10 ctlDone wholeColl (s.gDown g) 0 0 0 0
    (s.completion g 1) := rfl
  rw [hfinish] at habort
  generalize s.takeDone g (s.completion g 1) 4 = v at *
  have hcell := v.sendCtl_recordsKept g 10 ctlDone wholeColl (s.gDown g) 0 0 0 0 (s.completion g 1)
  have hsent := State.RingsKept.frame.sendCtl v g 10 ctlDone wholeColl (s.gDown g) 0 0 0 0 (s.completion g 1)
  generalize v.sendCtl g 10 ctlDone wholeColl (s.gDown g) 0 0 0 0 (s.completion g 1) = w at *
  have hwclean : w.poisoned (groupAddr w g) 256 = false := by
    rw [groupAddr, hcell.base, hrd WM_BASE (by decide) (by decide), State.poisoned, hcell.poison, hpoison]
    exact hclean
  have hstatus : (w.setGBit g 5 1 false).grp g (192 + 17) 1 = 1 := by
    rw [State.grp_part _ g 192 (show 17 + 1 ≤ 32 by decide), State.setGBit, State.grp_setGrp_other _ _ _ (by decide), hcell.grp,
      hlast, hrecord, bitsOf_mod _ (by decide), s.completion_status g 1 (by decide)]
  obtain ⟨hend, hbyte, htclean⟩ := State.drained_gState (s := w.setGBit g 5 1 false) (g := g) hwclean
    (.inl (by rw [State.setGBit, State.gState_setGrp _ (.inl (by decide)), hcell.gState, hdrains]))
  have hbase : (w.setGBit g 5 1 false).drained.rd WM_BASE = s.rd WM_BASE := by
    rw [(State.WmKept.frame.drained _).rd _ rfl, State.setGBit, State.rd_setGrp, hcell.base, hrd _ (by decide) (by decide)]
  refine gives_groupCommand (t := (w.setGBit g 5 1 false).drained) hopen hc hg ha hp rfl ?_
    (((hdone.trans hsent).trans (w.setGBit_ringsKept _ _ _ _)).trans (State.RingsKept.frame.drained _)) hbase
    fun u h _ hgrp hgState => ⟨h.finished, ?_, ?_⟩
  · rw [if_neg (by simp [hroot]), if_neg (by simp [hstate]), habort]
  · rw [hgState htclean]
    exact hend
  · rw [hgrp 209 1 (by decide), hbyte]
    exact hstatus

theorem recordStart_starts (hp : s.Posted k 0x0080 x) (hstate : s.gState g = 1 ∨ s.gState g = 2) (hmode : k.arg 20 1 ≤ 1)
    (hlo : lpddrBase ≤ k.arg 32 8) (hhi : k.arg 32 8 + k.arg 40 8 ≤ lpddrEnd)
    (hmay : s.allowed k.ctx.toNat (s.genOf k.ctx.toNat) (k.arg 32 8) (k.arg 40 8) .any = true) :
    Gives (.recordStart k) s fun u => u.Finished k x 0 ∧ u.gRecording g = true ∧ u.gState g = s.gState g ∧
      u.grp g 64 8 = k.arg 32 8 ∧ u.grp g 72 8 = k.arg 40 8 ∧ (u.group g).recSeq = 0 := by
  have hclean : s.poisoned (groupAddr s g) 256 = false := State.clean_of_gState (by omega)
  obtain ⟨hon, hsame, hbase, hsize, hclear, haddr, hrings⟩ :=
    s.recordRecord_holds g (k.arg 32 8) (k.arg 40 8) (k.arg 24 4) (k.arg 28 4) (2 * k.arg 20 1) hclean
  refine gives_groupCommand (t := (s.recordRecord g (k.arg 32 8) (k.arg 40 8) (k.arg 24 4) (k.arg 28 4)
    (2 * k.arg 20 1)).modGroup g fun x => { x with recSeq := 0 }) hopen hc hg ha hp rfl ?_
    (hrings.trans (State.modGroup_ringsKept _ _ _)) ((State.modGroup_recordsKept _ _ _).base.trans haddr)
    fun u h hplans hgrp hgState => ?_
  · rw [if_neg (by rcases hstate with h | h <;> simp [h]), if_neg (by simp [hmode, hlo, hhi]), if_neg (by simp [hmay])]
    dsimp only [State.recordRecord]
  · generalize s.recordRecord g (k.arg 32 8) (k.arg 40 8) (k.arg 24 4) (k.arg 28 4) (2 * k.arg 20 1) = v at *
    have hmod := v.modGroup_recordsKept g fun x => { x with recSeq := 0 }
    refine ⟨h.finished, ?_, ?_, ?_, ?_, ?_⟩
    · rw [State.gRecording, hgrp 5 1 (by decide), hmod.grp]
      exact hon
    · rw [hgState ((hmod.poisoned g).trans hclear), hmod.gState, hsame]
    · rw [hgrp 64 8 (by decide), hmod.grp, hbase]
      exact Nat.mod_eq_of_lt (RingCmd.arg_lt k 32 8)
    · rw [hgrp 72 8 (by decide), hmod.grp, hsize]
      exact Nat.mod_eq_of_lt (RingCmd.arg_lt k 40 8)
    · rw [hplans.group, State.group_modGroup]

theorem replayStart_starts (hp : s.Posted k 0x0082 x) (hstate : s.gState g = 1)
    (hmay : k.arg 32 8 = 0 ∨ s.mayRead k.ctx.toNat (k.arg 24 8) (k.arg 32 8) = true) :
    Gives (.replayStartCommand k) s fun u => u.Finished k x 0 ∧ u.gState g = 2 ∧ u.gReplay g = true ∧
      (u.group g).replayBase = k.arg 24 8 ∧ (u.group g).replayAt = 0 ∧ (u.group g).replaySize = k.arg 32 8 := by
  have hclean : s.poisoned (groupAddr s g) 256 = false := State.clean_of_gState (by omega)
  have hactive : ((s.setGState g 2).setGBit g 5 1 true).gState g = 2 := by
    rw [State.setGBit, State.gState_setGrp _ (.inl (by decide)), State.gState_setGState hclean (by decide)]
  have hbit := (s.setGState g 2).bitOf_setGBit g 5 1 true (by decide)
  have hrings := (s.setGState_ringsKept g 2).trans ((s.setGState g 2).setGBit_ringsKept g 5 1 true)
  have hbase : ((s.setGState g 2).setGBit g 5 1 true).rd WM_BASE = s.rd WM_BASE := rfl
  have hclear : ((s.setGState g 2).setGBit g 5 1 true).poisoned (groupAddr ((s.setGState g 2).setGBit g 5 1 true) g) 256 =
    false := hclean
  refine gives_groupCommand (t := ((s.setGState g 2).setGBit g 5 1 true).modGroup g (Group.replaying (k.arg 24 8) (k.arg 32 8)))
    hopen hc hg ha hp rfl ?_ (hrings.trans (State.modGroup_ringsKept _ _ _)) hbase fun u h hplans hgrp hgState => ?_
  · rw [if_neg (by simp [hstate]), if_neg (by rcases hmay with h | h <;> simp [h])]
    rfl
  · generalize (s.setGState g 2).setGBit g 5 1 true = v at *
    have hmod := v.modGroup_recordsKept g (Group.replaying (k.arg 24 8) (k.arg 32 8))
    have hnote : u.group g = (v.group g).replaying (k.arg 24 8) (k.arg 32 8) := by
      rw [hplans.group, State.group_modGroup]
    refine ⟨h.finished, ?_, ?_, ?_, ?_, ?_⟩
    · rw [hgState ((hmod.poisoned g).trans hclear), hmod.gState, hactive]
    · rw [State.gReplay, hgrp 5 1 (by decide), hmod.grp]
      exact hbit
    all_goals
      rw [hnote]
      rfl

theorem recordStop_stops (hp : s.Posted k 0x0081 x) (hrec : s.gRecording g = true) :
    Gives (.recordStop k) s fun u => u.Finished k x 0 ∧ u.gRecording g = false := by
  refine gives_groupCommand (t := s.setGBit g 5 2 false) hopen hc hg ha hp rfl (if_pos hrec) (s.setGBit_ringsKept _ _ _ _) rfl
    fun u h _ hgrp _ => ⟨h.finished, ?_⟩
  rw [State.gRecording, hgrp 5 1 (by decide)]
  exact s.bitOf_setGBit g 5 2 false (by decide)

end

/-! ### O45 -/

/-- Settles O45: each body writes the plans or the group's record, and the completion of its entry leaves the groups, the plans
and what lies beside the ring (`gives_plansCommand`, `gives_groupCommand`). -/
theorem ringPlansAndGroups : Obligations.RingPlansAndGroups := by
  intro s k x hopen
  refine ⟨fun image body active modules seed p hp hc hh hfree himay hbmay => planLoad_loads hopen hp hc hh hfree himay hbmay,
    planRetire_retires hopen,
    fun hp hc p r g n hplan hfresh hrecs hgroup hnodes hcircs htrees hbranches =>
      groupBind_binds hopen hc hp hplan hfresh hrecs hgroup hnodes hcircs htrees hbranches,
    fun hc g hg ha => ⟨groupUnbind_unbinds hopen hc hg ha, collStart_starts hopen hc hg ha, collAbort_aborts hopen hc hg ha,
      recordStart_starts hopen hc hg ha, recordStop_stops hopen hc hg ha, replayStart_starts hopen hc hg ha⟩⟩

end Sys2Proof.Machine
end
